-- ==== Sys2Proof/Word.lean ====
section
/-! DEFINITION. The word of a register (R7), the exact fractions in which the manual's expressions are formed before they are
rounded, and the floating formats of chapters 03 and 04: a mantissa and an exponent. Their arithmetic is in Machine/Arith. -/

namespace Sys2Proof.Machine

/-- A register word (R7). -/
abbrev Word := BitVec 32

/-- An exact rational number, `num / den`. `den` is positive wherever the model builds one. It is not normalised. -/
structure Frac where
  num : Int
  den : Nat
  deriving DecidableEq, Repr

/-- A floating value with mantissa `m` and exponent `e`. In BF24 (R66) the value is `m × 2^(e − 23)`; in the 48-bit formats of
R73 and R104 it is `m × 2^(e − 47)`. -/
structure Flt where
  m : Int
  e : Int
  deriving DecidableEq, Repr

/-- A BF24 value: a 24-bit two's-complement mantissa and a 6-bit two's-complement exponent. -/
abbrev BF24 := Flt

/-- Zero of BF24: mantissa 0 and exponent −32 (R67). -/
def BF24.zero : BF24 := ⟨0, -32⟩

/-- Zero of the working format of R104. -/
def Flt.wzero : Flt := ⟨0, -128⟩

end Sys2Proof.Machine
end

