-- ==== Sys2Proof/Machine/Arith.lean ====
section
/-! DEFINITION. Bit fields, two's complement, exact fractions, and the roundings of the manual: half to even, BF24 (R67), the
48-bit integrator format (R73) and the profile generator's working format (R104). -/

namespace Sys2Proof.Machine

/-! Bit fields of a word. -/

/-- Bits `lo` to `lo + len − 1` of a word, as a number. -/
def getBits (w : Word) (lo len : Nat) : Nat := w.toNat / 2 ^ lo % 2 ^ len

/-- A word with bits `lo` to `lo + len − 1` replaced by the low bits of `v`. -/
def putBits (w : Word) (lo len v : Nat) : Word :=
  BitVec.ofNat 32 (w.toNat / 2 ^ (lo + len) * 2 ^ (lo + len) + v % 2 ^ len * 2 ^ lo + w.toNat % 2 ^ lo)

/-- The two's-complement reading of the low `n` bits of `v`. -/
def sext (n v : Nat) : Int := if v % 2 ^ n < 2 ^ (n - 1) then (v % 2 ^ n : Nat) else (v % 2 ^ n : Nat) - (2 ^ n : Nat)

/-- The low `n` bits of an integer in two's complement, as a number. -/
def toBits (n : Nat) (v : Int) : Nat := (v % (2 ^ n : Nat)).toNat

/-- Bit `i` of a number, as a truth value. -/
def bit (v i : Nat) : Bool := v / 2 ^ i % 2 == 1

/-- 1 or 0. -/
def b2n (b : Bool) : Nat := if b then 1 else 0

/-- `v` held between `lo` and `hi`. -/
def clampInt (lo hi v : Int) : Int := max lo (min hi v)

/-! Exact fractions. -/

def Frac.ofInt (n : Int) : Frac := ⟨n, 1⟩
def Frac.zero : Frac := ⟨0, 1⟩
def Frac.add (a b : Frac) : Frac := ⟨a.num * b.den + b.num * a.den, a.den * b.den⟩
def Frac.neg (a : Frac) : Frac := ⟨-a.num, a.den⟩
def Frac.sub (a b : Frac) : Frac := a.add b.neg
def Frac.mul (a b : Frac) : Frac := ⟨a.num * b.num, a.den * b.den⟩
def Frac.lt (a b : Frac) : Bool := a.num * b.den < b.num * a.den
def Frac.le (a b : Frac) : Bool := a.num * b.den ≤ b.num * a.den
def Frac.eq (a b : Frac) : Bool := a.num * b.den == b.num * a.den
def Frac.max (a b : Frac) : Frac := if a.lt b then b else a
def Frac.min (a b : Frac) : Frac := if b.lt a then b else a
def Frac.abs (a : Frac) : Frac := ⟨a.num.natAbs, a.den⟩
def Frac.isZero (a : Frac) : Bool := a.num == 0
/-- The fraction in lowest terms. -/
def Frac.norm (a : Frac) : Frac := ⟨a.num / (Nat.gcd a.num.natAbs a.den : Nat), a.den / Nat.gcd a.num.natAbs a.den⟩
/-- `a × 2^k`. -/
def Frac.scale (a : Frac) (k : Int) : Frac :=
  if 0 ≤ k then ⟨a.num * (2 ^ k.toNat : Nat), a.den⟩ else ⟨a.num, a.den * 2 ^ (-k).toNat⟩
/-- The quotient, where the divisor is not 0. -/
def Frac.div (a b : Frac) : Frac := ⟨a.num * b.den * b.num.sign, a.den * b.num.natAbs⟩
/-- The sum of a list. -/
def Frac.sum : List Frac → Frac
  | [] => Frac.zero
  | a :: l => a.add (Frac.sum l)
/-- The largest integer not above `a`. -/
def Frac.floor (a : Frac) : Int := Int.fdiv a.num a.den

/-- `n / d` rounded to the nearest whole number, half to even. -/
def divHalfEven (n d : Nat) : Nat :=
  if 2 * (n % d) < d then n / d else if d < 2 * (n % d) then n / d + 1 else n / d + n / d % 2

/-- A fraction rounded to a whole number, half to even. -/
def Frac.round (a : Frac) : Int :=
  if 0 ≤ a.num then (divHalfEven a.num.toNat a.den : Nat) else -((divHalfEven a.num.natAbs a.den : Nat) : Int)

/-- An integer divided by `2^k`, rounded half to even: the right shift of R68 and R69. -/
def shiftRightEven (m : Int) (k : Nat) : Int := Frac.round ⟨m, 2 ^ k⟩

/-! Floating formats. -/

/-- The exact value of a float of mantissa width `w`. -/
def Flt.frac (w : Nat) (x : Flt) : Frac := (Frac.ofInt x.m).scale (x.e - ((w : Int) - 1))

/-- Renormalisation (R67): the exponent that puts the mantissa's magnitude in `[2^(w−2), 2^(w−1))`, or for a negative mantissa in
`[−2^(w−1), −2^(w−2))`; lower bits discarded half to even; 0 takes the least exponent; below it the mantissa is smaller; above
the greatest one the value saturates. The Bool says that it saturated. -/
def roundFlt (w : Nat) (emin emax : Int) (q : Frac) : Flt × Bool :=
  if q.num = 0 then (⟨0, emin⟩, false) else
  let neg := q.num < 0
  let a := q.num.natAbs
  let k : Int := (Nat.log2 a : Int) - (Nat.log2 q.den : Int)
  let p : Frac := (Frac.ofInt 1).scale k
  let big : Bool := if neg then Frac.lt p ⟨a, q.den⟩ else Frac.le p ⟨a, q.den⟩
  let e0 : Int := if big then k + 1 else k
  let e := max e0 emin
  let s := Frac.scale ⟨a, q.den⟩ ((w : Int) - 1 - e)
  let m := divHalfEven s.num.toNat s.den
  let (m, e) : Nat × Int :=
    if neg then (if m = 2 ^ (w - 2) ∧ emin < e then (2 ^ (w - 1), e - 1) else (m, e))
    else if m = 2 ^ (w - 1) then (2 ^ (w - 2), e + 1) else (m, e)
  if emax < e then (⟨if neg then -((2 ^ (w - 1) : Nat) : Int) else ((2 ^ (w - 1) : Nat) : Int) - 1, emax⟩, true)
  else (⟨if neg then -(m : Int) else m, e⟩, false)

/-- The exact value of a BF24 value. -/
def BF24.frac (x : BF24) : Frac := Flt.frac 24 x
/-- Rounding to BF24 (R67), with the overflow mark of exp_ovf. -/
def roundBFo (q : Frac) : BF24 × Bool := roundFlt 24 (-32) 31 q
/-- Rounding to BF24 (R67). -/
def roundBF (q : Frac) : BF24 := (roundBFo q).1
/-- Rounding to the integrator's format (R73). -/
def roundInteg (q : Frac) : Flt × Bool := roundFlt 48 (-32) 31 q
/-- Rounding to the profile generator's working format (R104). -/
def roundW (q : Frac) : Flt := (roundFlt 48 (-128) 127 q).1
/-- The exact value of a value of a 48-bit format. -/
def Flt.frac48 (x : Flt) : Frac := Flt.frac 48 x

/-- The BF24 scalar layout (R66, Table 03-3), read. -/
def BF24.ofWord (w : Word) : BF24 := ⟨sext 24 (getBits w 0 24), sext 6 (getBits w 24 6)⟩
/-- The BF24 scalar layout (R66, Table 03-3), written. -/
def BF24.toWord (x : BF24) : Word := BitVec.ofNat 32 (toBits 6 x.e * 2 ^ 24 + toBits 24 x.m)
def BF24.lt (a b : BF24) : Bool := a.frac.lt b.frac
def BF24.le (a b : BF24) : Bool := a.frac.le b.frac

/-- Division of the loop engine with the result of R500 for a divisor of 0: 0 for a dividend of 0, otherwise the largest
magnitude with the dividend's sign. -/
def divBF (a b : Frac) : BF24 × Bool :=
  if b.isZero then
    if a.isZero then (BF24.zero, false) else (⟨if a.num < 0 then -(2 ^ 23 : Nat) else (2 ^ 23 : Nat) - 1, 31⟩, true)
  else roundBFo (a.div b)

/-! Roots. -/

/-- The largest `r < 2^n` above `acc` with `r^k ≤ v`, one bit at a time. -/
def irootGo (k v : Nat) : Nat → Nat → Nat
  | 0, acc => acc
  | n + 1, acc => irootGo k v n (if (acc + 2 ^ n) ^ k ≤ v then acc + 2 ^ n else acc)

/-- The whole part of the k-th root of `v`, for roots below `2^100`. -/
def iroot (k v : Nat) : Nat := irootGo k v 100 0

/-- The k-th root of a value that is not negative, rounded from its exact value to the working format (R104): the root is taken
to more bits than the format holds, and a last bit marks an inexact root, so that half to even decides as on the exact value. -/
def rootW (k : Nat) (x : Flt) : Flt :=
  if x.m ≤ 0 then Flt.wzero else
  let t := x.e - 47
  let sh : Nat := 52 * k + ((t - ((52 * k : Nat) : Int)) % (k : Int)).toNat
  let n := x.m.toNat * 2 ^ sh
  let r := iroot k n
  let sticky := if r ^ k = n then 0 else 1
  roundW ((Frac.ofInt (2 * r + sticky : Nat)).scale ((t - (sh : Int)) / (k : Int) - 1))

/-! Operations of the working format, one rounding each (R104). -/
def wadd (a b : Flt) : Flt := roundW (a.frac48.add b.frac48)
def wsub (a b : Flt) : Flt := roundW (a.frac48.sub b.frac48)
def wmul (a b : Flt) : Flt := roundW (a.frac48.mul b.frac48)
/-- Division; a divisor of 0 gives 0 or the largest magnitude (R500). -/
def wdiv (a b : Flt) : Flt :=
  if b.m = 0 then (if a.m = 0 then Flt.wzero else ⟨if a.m < 0 then -(2 ^ 47 : Nat) else (2 ^ 47 : Nat) - 1, 127⟩)
  else roundW (a.frac48.div b.frac48)
def wneg (a : Flt) : Flt := roundW a.frac48.neg
def wlt (a b : Flt) : Bool := a.frac48.lt b.frac48
def wle (a b : Flt) : Bool := a.frac48.le b.frac48
def wabs (a : Flt) : Flt := roundW a.frac48.abs
def wmin (a b : Flt) : Flt := if wlt b a then b else a
def wmax (a b : Flt) : Flt := if wlt a b then b else a
/-- A decimal constant in the working format: its nearest value (R104). -/
def wconst (n : Int) (d : Nat) : Flt := roundW ⟨n, d⟩
/-- A BF24 value in the working format, exactly. -/
def wofBF (x : BF24) : Flt := roundW x.frac

end Sys2Proof.Machine
end

