-- ==== Sys2Proof/Machine/ArrayMath.lean ====
section
/-! DEFINITION. The arithmetic of the Aedine array (chapter 07): block formats (R196, R198), the tile's accumulation (R199), the output unit
(R200), the reduction of split stages (R201), and the cycle cost of a stage (R195, R209). -/

namespace Sys2Proof.Machine

/-- The array formats of Table 07-2. -/
inductive ArrFmt where
  | bf8 | bf4 | bf16
  deriving DecidableEq, Repr, Inhabited

/-- Mantissa width, elements per block, and bytes per block with its exponent. -/
def ArrFmt.width : ArrFmt → Nat
  | .bf8 => 8 | .bf4 => 4 | .bf16 => 16
def ArrFmt.elems : ArrFmt → Nat
  | .bf8 => 16 | .bf4 => 32 | .bf16 => 16
def ArrFmt.bytes : ArrFmt → Nat
  | .bf8 => 17 | .bf4 => 17 | .bf16 => 33

/-- A block of an array tensor: mantissas and the exponent they share. -/
structure ArrBlock where
  ms : List Int
  e : Int
  deriving DecidableEq, Repr

/-- The value of an element. -/
def ArrBlock.elem (f : ArrFmt) (b : ArrBlock) (i : Nat) : Frac := (Frac.ofInt (b.ms.getD i 0)).scale (b.e - (f.width - 1 : Nat))

/-- The least and the greatest mantissa of a format. -/
def ArrFmt.lo (f : ArrFmt) : Int := -(2 ^ (f.width - 1) : Nat)
def ArrFmt.hi (f : ArrFmt) : Int := (2 ^ (f.width - 1) : Nat) - 1
/-- The rounded mantissa of a value under a block exponent. -/
def ArrFmt.mant (f : ArrFmt) (e : Int) (x : Frac) : Int := (x.scale (f.width - 1 - e)).round
/-- Does it lie within the mantissa range? -/
def ArrFmt.fits (f : ArrFmt) (e : Int) (x : Frac) : Bool := decide (f.lo ≤ f.mant e x ∧ f.mant e x ≤ f.hi)
/-- The least exponent from −128 to 127 under which a value that is not 0 fits, and whether none does (R198). -/
def ArrFmt.needs (f : ArrFmt) (x : Frac) : Int × Bool :=
  let r := roundFlt f.width (-128) 127 x
  if r.2 then (127, true) else if f.fits r.1.e x then (r.1.e, false) else if r.1.e < 127 then (r.1.e + 1, false) else (127, true)

/-- Convert a set of values to one block (R198), with the mark of a saturation. -/
def toBlock (f : ArrFmt) (xs : List Frac) : ArrBlock × Bool :=
  if xs.all Frac.isZero then (⟨xs.map fun _ => 0, -128⟩, false)
  else
    let rs := (xs.filter fun x => !x.isZero).map f.needs
    let e := rs.foldl (fun a r => max a r.1) (-128)
    (⟨xs.map fun x => clampInt f.lo f.hi (f.mant e x), e⟩, rs.any (·.2))

/-- Bytes of a tensor of `n` elements along whole blocks, each plane rounded up to 64 bytes (R197, R202). -/
def tensorBytes (f : ArrFmt) (n : Nat) : Nat :=
  let blocks := (n + f.elems - 1) / f.elems
  (blocks * (f.bytes - 1) + 63) / 64 * 64 + (blocks + 63) / 64 * 64

/-- The accumulator's saturation (R199). -/
def sat32 (v : Int) : Int × Bool :=
  if v < -(2 ^ 31 : Nat) then (-(2 ^ 31 : Nat), true) else if (2 ^ 31 : Nat) - 1 < v then ((2 ^ 31 : Nat) - 1, true) else (v, false)

/-- One pair of blocks enters the accumulator (R199): the exact sum of products, shifted into the accumulator's scale, and added. -/
def accumulate (fa fw : ArrFmt) (es : Int) (acc : Int) (a w : ArrBlock) : Int × Bool :=
  let p := (a.ms.zip w.ms).foldl (fun n x => n + x.1 * x.2) 0
  let k := a.e + w.e - (fa.width - 1 : Nat) - (fw.width - 1 : Nat) - (es - 31)
  let sh := if 0 ≤ k then sat32 (p * (2 ^ k.toNat : Nat)) else (shiftRightEven p (-k).toNat, false)
  let r := sat32 (acc + sh.1)
  (r.1, sh.2 || r.2)

/-- The activation of a stage (R200). -/
inductive StageAct where
  | none | relu | clamp (lo hi : Frac) | lut (table : List Frac) (shift : Nat)
  deriving DecidableEq, Repr

/-- Apply an activation to a value; `acc` is the accumulator, whose upper 8 bits after the stage's shift index a table. -/
def StageAct.apply (act : StageAct) (acc : Int) (x : Frac) : Frac :=
  match act with
  | .none => x
  | .relu => Frac.max Frac.zero x
  | .clamp lo hi => Frac.min hi (Frac.max lo x)
  | .lut table shift => table.getD (toBits 8 ((sat32 (acc * (2 ^ shift : Nat))).1 / (2 ^ 24 : Nat))) Frac.zero

/-- The output unit on one group of 16 outputs (R200): bias, activation, conversion to one block. -/
def stageOut (f : ArrFmt) (es : Int) (act : StageAct) (accs : List Int) (bias : List Frac) : ArrBlock × Bool :=
  toBlock f ((accs.zip bias).map fun p => act.apply p.1 (((Frac.ofInt p.1).scale (es - 31)).add p.2))

/-- The reducing core adds the partials in order of arrival, converting to BF16 after each addition (R201). -/
def reducePartials : List (List Frac) → List Frac
  | [] => []
  | p :: ps =>
    let conv (xs : List Frac) : List Frac :=
      let b := (toBlock .bf16 xs).1
      (List.range xs.length).map fun i => b.elem .bf16 i
    ps.foldl (fun acc q => conv ((acc.zip (conv q)).map fun x => x.1.add x.2)) (conv p)

/-- The input span per cycle for a pair of operand formats (Table 07-1); BF4 weights under BF16 activations widen to BF8 (R195). -/
def inputSpan (act wt : ArrFmt) : Nat :=
  match act, wt with
  | .bf16, .bf16 => 8
  | .bf16, _ => 16
  | _, .bf4 => 64
  | _, _ => 32

def ceilDiv (a b : Nat) : Nat := (a + b - 1) / b

/-- The cycles of a stage on one core (R209). -/
def stageCycles (act wt : ArrFmt) (p cout k readBytes writeBytes : Nat) : Nat :=
  max (ceilDiv cout 32 * ceilDiv k (inputSpan act wt) * max p 32) (max (ceilDiv readBytes 64) (ceilDiv writeBytes 32)) + 64

/-! Operating levels (Table 07-4). -/

/-- Array clock in MHz and array rail in mV of a level. -/
def levelMhz (l : Nat) : Nat := 400 + 160 * l
def levelMv (l : Nat) : Nat := 600 + 50 * l
/-- The admission budget at a level (R228): 0.9 of the array cycles per forecast frame. -/
def levelBudget (l : Nat) : Nat := levelMhz l * 1024 * 9 / 10

end Sys2Proof.Machine
end

