-- ==== Sys2Proof/Machine/RegMap.lean ====
section
/-! DEFINITION. The register map of the module: the address of every register, every field of it, and the register table with
each field's access code (R8), reset value (R11), installer mark (R385) and legal range, block by block (R382). It follows
the register tables of chapters 02 to 18 and Table 13-8. The window of R441 is one table, used in every block. -/

namespace Sys2Proof.Machine

/-- The access codes of Table 00-3 (R8). -/
inductive Acc where
  | ro | rw | w1c | wo | rws
  deriving DecidableEq, Repr

/-- The Reset column (R11): a value, `P` (kept by a reset) or `X` (undefined until written). -/
inductive RstVal where
  | val (n : Nat) | preserved | undef
  deriving DecidableEq, Repr

/-- The range of values a write of a field may hold. A write outside it leaves the field as it was (R99, R116, R152, R298,
R383, R478). `bf zeroOk lo hi` bounds a BF24 value by whole numbers; `upTo lo len` bounds it by 1 and another field of the
same write; `addThreshold` is the ADD threshold of Table 05-7, above the zone's shed threshold and up to 26. -/
inductive Range where
  | any | nat (lo hi : Nat) | bf (zeroOk : Bool) (lo hi : Int) | upTo (lo len : Nat) | addThreshold
  deriving DecidableEq, Repr

/-- One field row of a register table. -/
structure FieldRow where
  name : String
  lo : Nat
  len : Nat
  acc : Acc
  reset : RstVal
  installer : Bool
  range : Range
  deriving DecidableEq, Repr

/-- One register row: its first address, the (stride, count) pairs of its indices, largest stride first, and its fields. -/
structure RegRow where
  name : String
  base : Nat
  dims : List (Nat × Nat)
  fields : List FieldRow
  deriving DecidableEq, Repr

/-- A field of a register: the register's address, the field's lowest bit and its width. -/
structure Fld where
  addr : Nat
  lo : Nat
  len : Nat
  deriving DecidableEq, Repr

/-! The addresses. -/

/-- Register SNS_TIME_LO (02). -/
def Reg.SNS_TIME_LO : Nat := 0x40080000
/-- Register SNS_TIME_HI (02). -/
def Reg.SNS_TIME_HI : Nat := 0x40080004
/-- Register SNS_FRAME_LO (02). -/
def Reg.SNS_FRAME_LO : Nat := 0x40080008
/-- Register SNS_FRAME_HI (02). -/
def Reg.SNS_FRAME_HI : Nat := 0x4008000C
/-- Register SNS_SYNC_CTRL (02). -/
def Reg.SNS_SYNC_CTRL : Nat := 0x40080010
/-- Register SNS_SYNC_OFFSET (02). -/
def Reg.SNS_SYNC_OFFSET : Nat := 0x40080014
/-- Register SNS_SYNC_STAT (02). -/
def Reg.SNS_SYNC_STAT : Nat := 0x40080018
/-- Register SNS_CARRIER_OFFSET (02). -/
def Reg.SNS_CARRIER_OFFSET : Nat := 0x4008001C
/-- Register SNS_SYNC_ADJ (02). -/
def Reg.SNS_SYNC_ADJ : Nat := 0x40080020
/-- Register LPE_LOOP_CTRL (03). -/
def Reg.LPE_LOOP_CTRL (l : Nat) : Nat := 0x40011000 + 0x400 * l
/-- Register LPE_LOOP_CLAMP_HI (03). -/
def Reg.LPE_LOOP_CLAMP_HI (l : Nat) : Nat := 0x40011004 + 0x400 * l
/-- Register LPE_LOOP_CLAMP_LO (03). -/
def Reg.LPE_LOOP_CLAMP_LO (l : Nat) : Nat := 0x40011008 + 0x400 * l
/-- Register LPE_LOOP_RATE (03). -/
def Reg.LPE_LOOP_RATE (l : Nat) : Nat := 0x4001100C + 0x400 * l
/-- Register LPE_LOOP_MANUAL (03). -/
def Reg.LPE_LOOP_MANUAL (l : Nat) : Nat := 0x40011010 + 0x400 * l
/-- Register LPE_LOOP_OUT (03). -/
def Reg.LPE_LOOP_OUT (l : Nat) : Nat := 0x40011014 + 0x400 * l
/-- Register LPE_LOOP_RAW (03). -/
def Reg.LPE_LOOP_RAW (l : Nat) : Nat := 0x40011018 + 0x400 * l
/-- Register LPE_LOOP_INTEG (03). -/
def Reg.LPE_LOOP_INTEG (l : Nat) : Nat := 0x4001101C + 0x400 * l
/-- Register LPE_LOOP_STAT (03). -/
def Reg.LPE_LOOP_STAT (l : Nat) : Nat := 0x40011020 + 0x400 * l
/-- Register LPE_CSET_CTRL (03). -/
def Reg.LPE_CSET_CTRL (l : Nat) (s : Nat) : Nat := 0x40011100 + 0x400 * l + 0x40 * s
/-- Register LPE_CSET_N0-N3 (03). -/
def Reg.LPE_CSET_N (l : Nat) (s : Nat) (i : Nat) : Nat := 0x40011104 + 0x400 * l + 0x40 * s + 0x4 * i
/-- Register LPE_CSET_D1-D3 (03). -/
def Reg.LPE_CSET_D (l : Nat) (s : Nat) (i : Nat) : Nat := 0x40011114 + 0x400 * l + 0x40 * s + 0x4 * i
/-- Register LPE_CSET_KB (03). -/
def Reg.LPE_CSET_KB (l : Nat) (s : Nat) : Nat := 0x40011120 + 0x400 * l + 0x40 * s
/-- Register HMP_CTRL (03). -/
def Reg.HMP_CTRL : Nat := 0x400C0000
/-- Register HMP_NODES (03). -/
def Reg.HMP_NODES : Nat := 0x400C0004
/-- Register HMP_REGION (03). -/
def Reg.HMP_REGION : Nat := 0x400C0008
/-- Register HMP_PRE (03). -/
def Reg.HMP_PRE : Nat := 0x400C000C
/-- Register HMP_POST (03). -/
def Reg.HMP_POST : Nat := 0x400C0010
/-- Register HMP_TRIG_CTRL (03). -/
def Reg.HMP_TRIG_CTRL : Nat := 0x400C0014
/-- Register HMP_TRIG_LEVEL (03). -/
def Reg.HMP_TRIG_LEVEL : Nat := 0x400C0018
/-- Register HMP_STAT (03). -/
def Reg.HMP_STAT : Nat := 0x400C001C
/-- Register HMP_EFF_PRE (03). -/
def Reg.HMP_EFF_PRE : Nat := 0x400C0020
/-- Register HMP_EFF_POST (03). -/
def Reg.HMP_EFF_POST : Nat := 0x400C0024
/-- Register HMP_TRIG_FRAME_LO (03). -/
def Reg.HMP_TRIG_FRAME_LO : Nat := 0x400C0028
/-- Register HMP_TRIG_FRAME_HI (03). -/
def Reg.HMP_TRIG_FRAME_HI : Nat := 0x400C002C
/-- Register HMP_NODE_SEL_i (03). -/
def Reg.HMP_NODE_SEL (i : Nat) : Nat := 0x400C0100 + 0x4 * i
/-- Register PRF_CTRL (04). -/
def Reg.PRF_CTRL : Nat := 0x40020000
/-- Register PRF_VEL (04). -/
def Reg.PRF_VEL : Nat := 0x40020004
/-- Register PRF_ACC (04). -/
def Reg.PRF_ACC : Nat := 0x40020008
/-- Register PRF_JERK (04). -/
def Reg.PRF_JERK : Nat := 0x4002000C
/-- Register PRF_DRAW_MAX (04). -/
def Reg.PRF_DRAW_MAX : Nat := 0x40020010
/-- Register PRF_SOC_GAIN (04). -/
def Reg.PRF_SOC_GAIN : Nat := 0x40020014
/-- Register PRF_SOC_MAX (04). -/
def Reg.PRF_SOC_MAX : Nat := 0x40020018
/-- Register PRF_ETA_OUT (04). -/
def Reg.PRF_ETA_OUT : Nat := 0x4002001C
/-- Register PRF_POS (04). -/
def Reg.PRF_POS : Nat := 0x40020020
/-- Register PRF_VELO (04). -/
def Reg.PRF_VELO : Nat := 0x40020024
/-- Register PRF_ACCEL (04). -/
def Reg.PRF_ACCEL : Nat := 0x40020028
/-- Register PRF_TARGET (04). -/
def Reg.PRF_TARGET : Nat := 0x4002002C
/-- Register PRF_SOC_CORR (04). -/
def Reg.PRF_SOC_CORR : Nat := 0x40020030
/-- Register PRF_STAT (04). -/
def Reg.PRF_STAT : Nat := 0x40020034
/-- Register PRF_STR_BAND_s (04). -/
def Reg.PRF_STR_BAND (s : Nat) : Nat := 0x40020040 + 0x4 * s
/-- Register PRF_STR_FACTOR_s (04). -/
def Reg.PRF_STR_FACTOR (s : Nat) : Nat := 0x40020050 + 0x4 * s
/-- Register LPE_RAMP_TARGET (04). -/
def Reg.LPE_RAMP_TARGET (l : Nat) : Nat := 0x40011040 + 0x400 * l
/-- Register LPE_RAMP_SLEW (04). -/
def Reg.LPE_RAMP_SLEW (l : Nat) : Nat := 0x40011044 + 0x400 * l
/-- Register LPE_RAMP_SETPT (04). -/
def Reg.LPE_RAMP_SETPT (l : Nat) : Nat := 0x40011048 + 0x400 * l
/-- Register LPE_RAMP_STAT (04). -/
def Reg.LPE_RAMP_STAT (l : Nat) : Nat := 0x4001104C + 0x400 * l
/-- Register LPE_LINK_TARGET (04). -/
def Reg.LPE_LINK_TARGET (l : Nat) : Nat := 0x40011050 + 0x400 * l
/-- Register LPE_VSTORE_c (04). -/
def Reg.LPE_VSTORE (l : Nat) (c : Nat) : Nat := 0x40011060 + 0x400 * l + 0x4 * c
/-- Register LPE_FOLLOW_LIMIT (04). -/
def Reg.LPE_FOLLOW_LIMIT (l : Nat) : Nat := 0x40011080 + 0x400 * l
/-- Register LPE_FOLLOW_CTRL (04). -/
def Reg.LPE_FOLLOW_CTRL (l : Nat) : Nat := 0x40011084 + 0x400 * l
/-- Register LPE_FOLLOW_RETRY (04). -/
def Reg.LPE_FOLLOW_RETRY (l : Nat) : Nat := 0x40011088 + 0x400 * l
/-- Register LPE_FOLLOW_STAT (04). -/
def Reg.LPE_FOLLOW_STAT (l : Nat) : Nat := 0x4001108C + 0x400 * l
/-- Register ZFB_COMB_CTRL (05). -/
def Reg.ZFB_COMB_CTRL : Nat := 0x40040000
/-- Register ZFB_COMB_STAT (05). -/
def Reg.ZFB_COMB_STAT : Nat := 0x40040004
/-- Register ZFB_MATCH_WIN (05). -/
def Reg.ZFB_MATCH_WIN : Nat := 0x40040008
/-- Register ZFB_ZERO_I (05). -/
def Reg.ZFB_ZERO_I : Nat := 0x4004000C
/-- Register ZFB_MISMATCH_I (05). -/
def Reg.ZFB_MISMATCH_I : Nat := 0x40040010
/-- Register ZFB_MISMATCH_CTRL (05). -/
def Reg.ZFB_MISMATCH_CTRL : Nat := 0x40040014
/-- Register ZFB_OS_k (05). -/
def Reg.ZFB_OS (k : Nat) : Nat := 0x40040100 + 0x4 * k
/-- Register ZFB_STR_s (05). -/
def Reg.ZFB_STR (s : Nat) : Nat := 0x40040200 + 0x4 * s
/-- Register ZFB_LANE_t (05). -/
def Reg.ZFB_LANE (t : Nat) : Nat := 0x40040300 + 0x4 * t
/-- Register ZFB_SHED_CTRL_z (05). -/
def Reg.ZFB_SHED_CTRL (z : Nat) : Nat := 0x40040400 + 0x20 * z
/-- Register ZFB_SHED_I_z (05). -/
def Reg.ZFB_SHED_I (z : Nat) : Nat := 0x40040404 + 0x20 * z
/-- Register ZFB_ADD_I_z (05). -/
def Reg.ZFB_ADD_I (z : Nat) : Nat := 0x40040408 + 0x20 * z
/-- Register ZFB_SHED_HOLD_z (05). -/
def Reg.ZFB_SHED_HOLD (z : Nat) : Nat := 0x4004040C + 0x20 * z
/-- Register ZFB_ADD_HOLD_z (05). -/
def Reg.ZFB_ADD_HOLD (z : Nat) : Nat := 0x40040410 + 0x20 * z
/-- Register ZFB_SHED_STAT_z (05). -/
def Reg.ZFB_SHED_STAT (z : Nat) : Nat := 0x40040414 + 0x20 * z
/-- Register ZFB_ZONE_CAP_z (05). -/
def Reg.ZFB_ZONE_CAP (z : Nat) : Nat := 0x40040418 + 0x20 * z
/-- Register ZFB_ZONE_STAT_z (05). -/
def Reg.ZFB_ZONE_STAT (z : Nat) : Nat := 0x4004041C + 0x20 * z
/-- Register WGL_VSEL_z (05). -/
def Reg.WGL_VSEL (z : Nat) : Nat := 0x40060800 + 0x4 * z
/-- Register WGL_PGOOD_z (05). -/
def Reg.WGL_PGOOD (z : Nat) : Nat := 0x40060810 + 0x4 * z
/-- Register FFW_ZONE_CTRL_z (06). -/
def Reg.FFW_ZONE_CTRL (z : Nat) : Nat := 0x40030000 + 0x20 * z
/-- Register FFW_ZONE_STAT_z (06). -/
def Reg.FFW_ZONE_STAT (z : Nat) : Nat := 0x40030004 + 0x20 * z
/-- Register FFW_PERIOD_z (06). -/
def Reg.FFW_PERIOD (z : Nat) : Nat := 0x40030008 + 0x20 * z
/-- Register FFW_ANCHOR_LO_z (06). -/
def Reg.FFW_ANCHOR_LO (z : Nat) : Nat := 0x4003000C + 0x20 * z
/-- Register FFW_ANCHOR_HI_z (06). -/
def Reg.FFW_ANCHOR_HI (z : Nat) : Nat := 0x40030010 + 0x20 * z
/-- Register FFW_GAIN_z (06). -/
def Reg.FFW_GAIN (z : Nat) : Nat := 0x40030014 + 0x20 * z
/-- Register FFW_CRC_z (06). -/
def Reg.FFW_CRC (z : Nat) : Nat := 0x40030018 + 0x20 * z
/-- Register FFW_OUT_z (06). -/
def Reg.FFW_OUT (z : Nat) : Nat := 0x4003001C + 0x20 * z
/-- Register FFW_PP_CTRL (06). -/
def Reg.FFW_PP_CTRL : Nat := 0x40030100
/-- Register FFW_PP_SLEW (06). -/
def Reg.FFW_PP_SLEW : Nat := 0x40030104
/-- Register FFW_PP_ETA (06). -/
def Reg.FFW_PP_ETA : Nat := 0x40030108
/-- Register FFW_PP_OUT (06). -/
def Reg.FFW_PP_OUT : Nat := 0x4003010C
/-- Register FFW_PP_TIMEOUT (06). -/
def Reg.FFW_PP_TIMEOUT : Nat := 0x40030110
/-- Register FFW_CLASS_RISE_c (06). -/
def Reg.FFW_CLASS_RISE (c : Nat) : Nat := 0x40030200 + 0x4 * c
/-- Register FFW_SHAPE_z_k (06). -/
def Reg.FFW_SHAPE (z : Nat) (k : Nat) (i : Nat) : Nat := 0x40038000 + 0x2000 * z + 0x1000 * k + 0x4 * i
/-- Register FFW_BIAS_z_k (06). -/
def Reg.FFW_BIAS (z : Nat) (k : Nat) (i : Nat) : Nat := 0x40038800 + 0x2000 * z + 0x1000 * k + 0x4 * i
/-- Register WGL_LANE_CTRL_t (06). -/
def Reg.WGL_LANE_CTRL (t : Nat) : Nat := 0x40060000 + 0x20 * t
/-- Register WGL_LANE_STAT_t (06). -/
def Reg.WGL_LANE_STAT (t : Nat) : Nat := 0x40060004 + 0x20 * t
/-- Register WGL_LANE_ARM_LO_t (06). -/
def Reg.WGL_LANE_ARM_LO (t : Nat) : Nat := 0x40060008 + 0x20 * t
/-- Register WGL_LANE_ARM_HI_t (06). -/
def Reg.WGL_LANE_ARM_HI (t : Nat) : Nat := 0x4006000C + 0x20 * t
/-- Register WGL_LANE_RISE_t (06). -/
def Reg.WGL_LANE_RISE (t : Nat) : Nat := 0x40060010 + 0x20 * t
/-- Register WGL_LANE_TX_t (06). -/
def Reg.WGL_LANE_TX (t : Nat) : Nat := 0x40060014 + 0x20 * t
/-- Register WGL_LANE_CNT_t (06). -/
def Reg.WGL_LANE_CNT (t : Nat) : Nat := 0x40060018 + 0x20 * t
/-- Register WGL_GROUP_NEXT_g (06). -/
def Reg.WGL_GROUP_NEXT (g : Nat) : Nat := 0x40060400 + 0x4 * g
/-- Register WGL_GROUP_SENT_g (06). -/
def Reg.WGL_GROUP_SENT (g : Nat) : Nat := 0x40060500 + 0x4 * g
/-- Register WGL_CEIL_CTRL (06). -/
def Reg.WGL_CEIL_CTRL : Nat := 0x40060600
/-- Register WGL_ALLOW_CTRL (06). -/
def Reg.WGL_ALLOW_CTRL : Nat := 0x40060604
/-- Register WGL_STORM_CTRL (06). -/
def Reg.WGL_STORM_CTRL : Nat := 0x40060608
/-- Register WGL_THR_z (06). -/
def Reg.WGL_THR (z : Nat) : Nat := 0x40060700 + 0x4 * z
/-- Register WGL_ZONE_NEXT_z (06). -/
def Reg.WGL_ZONE_NEXT (z : Nat) : Nat := 0x40060720 + 0x4 * z
/-- Register ADN_CTRL (07). -/
def Reg.ADN_CTRL : Nat := 0x40090000
/-- Register ADN_STAT (07). -/
def Reg.ADN_STAT : Nat := 0x40090004
/-- Register ADN_ECC_STAT (07). -/
def Reg.ADN_ECC_STAT : Nat := 0x40090008
/-- Register ADN_PASS_STAT (07). -/
def Reg.ADN_PASS_STAT : Nat := 0x4009000C
/-- Register ADN_CORE_STAT_k (07). -/
def Reg.ADN_CORE_STAT (k : Nat) : Nat := 0x40090100 + 0x10 * k
/-- Register ADN_CORE_CYC_k (07). -/
def Reg.ADN_CORE_CYC (k : Nat) : Nat := 0x40090104 + 0x10 * k
/-- Register ADN_CORE_TEST_k (07). -/
def Reg.ADN_CORE_TEST (k : Nat) : Nat := 0x40090108 + 0x10 * k
/-- Register ADN_CORE_CTRL_k (07). -/
def Reg.ADN_CORE_CTRL (k : Nat) : Nat := 0x4009010C + 0x10 * k
/-- Register ADN_BANK_STAT_q (07). -/
def Reg.ADN_BANK_STAT (q : Nat) : Nat := 0x40090400 + 0x4 * q
/-- Register CLK_ADN_LEVEL (07). -/
def Reg.CLK_ADN_LEVEL : Nat := 0x400F0200
/-- Register CLK_ADN_SEQ (07). -/
def Reg.CLK_ADN_SEQ : Nat := 0x400F0204
/-- Register CLK_ADN_DROOP (07). -/
def Reg.CLK_ADN_DROOP : Nat := 0x400F0208
/-- Register CLK_ADN_THERM (07). -/
def Reg.CLK_ADN_THERM : Nat := 0x400F020C
/-- Register MDL_CTRL (08). -/
def Reg.MDL_CTRL : Nat := 0x400A0000
/-- Register MDL_STAT (08). -/
def Reg.MDL_STAT : Nat := 0x400A0004
/-- Register MDL_MEM_STAT (08). -/
def Reg.MDL_MEM_STAT : Nat := 0x400A0008
/-- Register MDL_REFUSE (08). -/
def Reg.MDL_REFUSE : Nat := 0x400A000C
/-- Register MDL_SLOT_STAT_s (08). -/
def Reg.MDL_SLOT_STAT (s : Nat) : Nat := 0x400A0100 + 0x20 * s
/-- Register MDL_SLOT_CNT_s (08). -/
def Reg.MDL_SLOT_CNT (s : Nat) : Nat := 0x400A0104 + 0x20 * s
/-- Register MDL_SLOT_CORES_LO_s (08). -/
def Reg.MDL_SLOT_CORES_LO (s : Nat) : Nat := 0x400A0108 + 0x20 * s
/-- Register MDL_SLOT_CORES_HI_s (08). -/
def Reg.MDL_SLOT_CORES_HI (s : Nat) : Nat := 0x400A010C + 0x20 * s
/-- Register MDL_SLOT_CYC_s (08). -/
def Reg.MDL_SLOT_CYC (s : Nat) : Nat := 0x400A0110 + 0x20 * s
/-- Register MDL_SLOT_LAST_s (08). -/
def Reg.MDL_SLOT_LAST (s : Nat) : Nat := 0x400A0114 + 0x20 * s
/-- Register CHN_CTRL (09). -/
def Reg.CHN_CTRL : Nat := 0x40070000
/-- Register CHN_OWT_REQ (09). -/
def Reg.CHN_OWT_REQ : Nat := 0x40070004
/-- Register CHN_CELL_LIMITS (09). -/
def Reg.CHN_CELL_LIMITS : Nat := 0x40070008
/-- Register CHN_TEMP_LIMITS (09). -/
def Reg.CHN_TEMP_LIMITS : Nat := 0x4007000C
/-- Register CHN_DEV_CTRL (09). -/
def Reg.CHN_DEV_CTRL : Nat := 0x40070010
/-- Register CHN_BAL_CTRL (09). -/
def Reg.CHN_BAL_CTRL : Nat := 0x40070014
/-- Register CHN_SLEEP_CFG (09). -/
def Reg.CHN_SLEEP_CFG : Nat := 0x40070018
/-- Register CHN_SLEEP_LIM (09). -/
def Reg.CHN_SLEEP_LIM : Nat := 0x4007001C
/-- Register CHN_SLEEP_TEMP (09). -/
def Reg.CHN_SLEEP_TEMP : Nat := 0x40070020
/-- Register CHN_STR_STAT_s (09). -/
def Reg.CHN_STR_STAT (s : Nat) : Nat := 0x40070100 + 0x40 * s
/-- Register CHN_STR_SUM_s (09). -/
def Reg.CHN_STR_SUM (s : Nat) : Nat := 0x40070104 + 0x40 * s
/-- Register CHN_STR_DIFF_s (09). -/
def Reg.CHN_STR_DIFF (s : Nat) : Nat := 0x40070108 + 0x40 * s
/-- Register CHN_STR_SNAP_LO_s (09). -/
def Reg.CHN_STR_SNAP_LO (s : Nat) : Nat := 0x4007010C + 0x40 * s
/-- Register CHN_STR_SNAP_HI_s (09). -/
def Reg.CHN_STR_SNAP_HI (s : Nat) : Nat := 0x40070110 + 0x40 * s
/-- Register CHN_STR_CNT_s (09). -/
def Reg.CHN_STR_CNT (s : Nat) : Nat := 0x40070114 + 0x40 * s
/-- Register CHN_NODE_STAT_s_d (09). -/
def Reg.CHN_NODE_STAT (s : Nat) (d : Nat) : Nat := 0x40071000 + 0x200 * s + 0x10 * (d - 1)
/-- Register CHN_NODE_MEAS_s_d (09). -/
def Reg.CHN_NODE_MEAS (s : Nat) (d : Nat) : Nat := 0x40071004 + 0x200 * s + 0x10 * (d - 1)
/-- Register CHN_NODE_BAL_s_d (09). -/
def Reg.CHN_NODE_BAL (s : Nat) (d : Nat) : Nat := 0x40071008 + 0x200 * s + 0x10 * (d - 1)
/-- Register CHN_NODE_ID_s_d (09). -/
def Reg.CHN_NODE_ID (s : Nat) (d : Nat) : Nat := 0x4007100C + 0x200 * s + 0x10 * (d - 1)
/-- Register CHN_CELL_s_c (09). -/
def Reg.CHN_CELL (s : Nat) (c : Nat) : Nat := 0x40074000 + 0x400 * s + 0x4 * c
/-- Register KPR_CHWAKE_CTRL (09). -/
def Reg.KPR_CHWAKE_CTRL : Nat := 0x400E0400
/-- Register KPR_CHWAKE_STAT (09). -/
def Reg.KPR_CHWAKE_STAT : Nat := 0x400E0404
/-- Register EST_CTRL (10). -/
def Reg.EST_CTRL : Nat := 0x400B0000
/-- Register EST_NOISE (10). -/
def Reg.EST_NOISE : Nat := 0x400B0004
/-- Register EST_CHARGE (10). -/
def Reg.EST_CHARGE : Nat := 0x400B0008
/-- Register EST_TIMES (10). -/
def Reg.EST_TIMES : Nat := 0x400B000C
/-- Register EST_LIMITS (10). -/
def Reg.EST_LIMITS : Nat := 0x400B0010
/-- Register EST_CONFLICT (10). -/
def Reg.EST_CONFLICT : Nat := 0x400B0014
/-- Register EST_ANCHOR_AGE (10). -/
def Reg.EST_ANCHOR_AGE : Nat := 0x400B0018
/-- Register EST_STR_SOC_s (10). -/
def Reg.EST_STR_SOC (s : Nat) : Nat := 0x400B0100 + 0x40 * s
/-- Register EST_STR_CC_s (10). -/
def Reg.EST_STR_CC (s : Nat) : Nat := 0x400B0104 + 0x40 * s
/-- Register EST_STR_FLAG_s (10). -/
def Reg.EST_STR_FLAG (s : Nat) : Nat := 0x400B0108 + 0x40 * s
/-- Register EST_STR_TAPER_s (10). -/
def Reg.EST_STR_TAPER (s : Nat) : Nat := 0x400B010C + 0x40 * s
/-- Register EST_STR_REST_s (10). -/
def Reg.EST_STR_REST (s : Nat) : Nat := 0x400B0110 + 0x40 * s
/-- Register EST_STR_QACC_LO_s (10). -/
def Reg.EST_STR_QACC_LO (s : Nat) : Nat := 0x400B0114 + 0x40 * s
/-- Register EST_STR_QACC_HI_s (10). -/
def Reg.EST_STR_QACC_HI (s : Nat) : Nat := 0x400B0118 + 0x40 * s
/-- Register EST_STR_QSNAP_LO_s (10). -/
def Reg.EST_STR_QSNAP_LO (s : Nat) : Nat := 0x400B011C + 0x40 * s
/-- Register EST_STR_QSNAP_HI_s (10). -/
def Reg.EST_STR_QSNAP_HI (s : Nat) : Nat := 0x400B0120 + 0x40 * s
/-- Register EST_STR_ISNAP_s (10). -/
def Reg.EST_STR_ISNAP (s : Nat) : Nat := 0x400B0124 + 0x40 * s
/-- Register EST_STR_ICV_s (10). -/
def Reg.EST_STR_ICV (s : Nat) : Nat := 0x400B0128 + 0x40 * s
/-- Register EST_STR_CAP_s (10). -/
def Reg.EST_STR_CAP (s : Nat) : Nat := 0x400B012C + 0x40 * s
/-- Register EST_STR_ANCHOR_s (10). -/
def Reg.EST_STR_ANCHOR (s : Nat) : Nat := 0x400B0130 + 0x40 * s
/-- Register EST_STR_TRACK_s (10). -/
def Reg.EST_STR_TRACK (s : Nat) : Nat := 0x400B0134 + 0x40 * s
/-- Register EST_MODEL_CTRL_s (10). -/
def Reg.EST_MODEL_CTRL (s : Nat) : Nat := 0x400B1000 + 0x100 * s
/-- Register EST_MODEL_TEMP_s (10). -/
def Reg.EST_MODEL_TEMP (s : Nat) : Nat := 0x400B1004 + 0x100 * s
/-- Register EST_MODEL_R0_A_s (10). -/
def Reg.EST_MODEL_R0_A (s : Nat) : Nat := 0x400B1008 + 0x100 * s
/-- Register EST_MODEL_R0_B_s (10). -/
def Reg.EST_MODEL_R0_B (s : Nat) : Nat := 0x400B100C + 0x100 * s
/-- Register EST_MODEL_RC_s (10). -/
def Reg.EST_MODEL_RC (s : Nat) : Nat := 0x400B1010 + 0x100 * s
/-- Register EST_OCV_s_i (10). -/
def Reg.EST_OCV (s : Nat) (i : Nat) : Nat := 0x400B1040 + 0x100 * s + 0x4 * i
/-- Register KPR_CAPSLOT_STAT (10). -/
def Reg.KPR_CAPSLOT_STAT : Nat := 0x400E0500
/-- Register KPR_CAPSLOT_SEQ (10). -/
def Reg.KPR_CAPSLOT_SEQ : Nat := 0x400E0504
/-- Register LKS_CTRL (11). -/
def Reg.LKS_CTRL : Nat := 0x400D0000
/-- Register LKS_STAT (11). -/
def Reg.LKS_STAT : Nat := 0x400D0004
/-- Register LKS_HEALTH (11). -/
def Reg.LKS_HEALTH : Nat := 0x400D0008
/-- Register LKS_PHASE (11). -/
def Reg.LKS_PHASE : Nat := 0x400D000C
/-- Register LKS_CNT_A (11). -/
def Reg.LKS_CNT_A : Nat := 0x400D0010
/-- Register LKS_CNT_B (11). -/
def Reg.LKS_CNT_B : Nat := 0x400D0014
/-- Register LKS_ADC (11). -/
def Reg.LKS_ADC : Nat := 0x400D0018
/-- Register LKS_ADC_TOL (11). -/
def Reg.LKS_ADC_TOL : Nat := 0x400D001C
/-- Register LKS_TEST (11). -/
def Reg.LKS_TEST : Nat := 0x400D0020
/-- Register LKS_GRACE (11). -/
def Reg.LKS_GRACE : Nat := 0x400D0024
/-- Register LKS_REPORT_OWN_i (11). -/
def Reg.LKS_REPORT_OWN (i : Nat) : Nat := 0x400D0040 + 0x4 * i
/-- Register LKS_REPORT_PARTNER_i (11). -/
def Reg.LKS_REPORT_PARTNER (i : Nat) : Nat := 0x400D0080 + 0x4 * i
/-- Register STL_LANE_STAT_n (12). -/
def Reg.STL_LANE_STAT (n : Nat) : Nat := 0x40050000 + 0x40 * n
/-- Register STL_LANE_CTRL_n (12). -/
def Reg.STL_LANE_CTRL (n : Nat) : Nat := 0x40050004 + 0x40 * n
/-- Register STL_LANE_CNT_n (12). -/
def Reg.STL_LANE_CNT (n : Nat) : Nat := 0x40050008 + 0x40 * n
/-- Register STL_LANE_BER_n (12). -/
def Reg.STL_LANE_BER (n : Nat) : Nat := 0x4005000C + 0x40 * n
/-- Register STL_DECL_n_i (12). -/
def Reg.STL_DECL (n : Nat) (i : Nat) : Nat := 0x40050020 + 0x40 * n + 0x4 * i
/-- Register STL_BERT_CTRL (12). -/
def Reg.STL_BERT_CTRL : Nat := 0x40051000
/-- Register STL_BERT_STAT (12). -/
def Reg.STL_BERT_STAT : Nat := 0x40051004
/-- Register WGL_LINK_STAT_t (12). -/
def Reg.WGL_LINK_STAT (t : Nat) : Nat := 0x40060900 + 0x10 * t
/-- Register WGL_LINK_CNT_t (12). -/
def Reg.WGL_LINK_CNT (t : Nat) : Nat := 0x40060904 + 0x10 * t
/-- Register WGL_LINK_BER_t (12). -/
def Reg.WGL_LINK_BER (t : Nat) : Nat := 0x40060908 + 0x10 * t
/-- Register LKS_LOCK_STAT (12). -/
def Reg.LKS_LOCK_STAT : Nat := 0x400D0100
/-- Register LKS_LOCK_CNT (12). -/
def Reg.LKS_LOCK_CNT : Nat := 0x400D0104
/-- Register LKS_LOCK_BER_l (12). -/
def Reg.LKS_LOCK_BER (l : Nat) : Nat := 0x400D0108 + 0x4 * l
/-- Register MGP_CTRL (13). -/
def Reg.MGP_CTRL : Nat := 0x40100000
/-- Register MGP_SEM_STAT (13). -/
def Reg.MGP_SEM_STAT : Nat := 0x40100004
/-- Register MGP_SEM_SESSION (13). -/
def Reg.MGP_SEM_SESSION : Nat := 0x40100008
/-- Register MGP_SEM_CNT (13). -/
def Reg.MGP_SEM_CNT : Nat := 0x4010000C
/-- Register MGP_PORT_CTRL_p (13). -/
def Reg.MGP_PORT_CTRL (p : Nat) : Nat := 0x40100040 + 0x40 * p
/-- Register MGP_PORT_CFG_p (13). -/
def Reg.MGP_PORT_CFG (p : Nat) : Nat := 0x40100044 + 0x40 * p
/-- Register MGP_IP4_p (13). -/
def Reg.MGP_IP4 (p : Nat) : Nat := 0x40100048 + 0x40 * p
/-- Register MGP_IP4_PFX_p (13). -/
def Reg.MGP_IP4_PFX (p : Nat) : Nat := 0x4010004C + 0x40 * p
/-- Register MGP_IP6_p_i (13). -/
def Reg.MGP_IP6 (p : Nat) (i : Nat) : Nat := 0x40100050 + 0x40 * p + 0x4 * i
/-- Register MGP_IP6_PFX_p (13). -/
def Reg.MGP_IP6_PFX (p : Nat) : Nat := 0x40100060 + 0x40 * p
/-- Register MGP_PORT_STAT_p (13). -/
def Reg.MGP_PORT_STAT (p : Nat) : Nat := 0x40100064 + 0x40 * p
/-- Register MGP_PORT_CNT_p (13). -/
def Reg.MGP_PORT_CNT (p : Nat) : Nat := 0x40100068 + 0x40 * p
/-- Register SEC_BOOT (14). -/
def Reg.SEC_BOOT : Nat := 0x40110000
/-- Register SEC_FW_A (14). -/
def Reg.SEC_FW_A : Nat := 0x40110004
/-- Register SEC_FW_B (14). -/
def Reg.SEC_FW_B : Nat := 0x40110008
/-- Register SEC_FW_STAT (14). -/
def Reg.SEC_FW_STAT : Nat := 0x4011000C
/-- Register SEC_KEYS (14). -/
def Reg.SEC_KEYS : Nat := 0x40110010
/-- Register SEC_SESSIONS (14). -/
def Reg.SEC_SESSIONS : Nat := 0x40110014
/-- Register SEC_AUTH_CNT (14). -/
def Reg.SEC_AUTH_CNT : Nat := 0x40110018
/-- Register SEC_AUDIT_LO (14). -/
def Reg.SEC_AUDIT_LO : Nat := 0x40110020
/-- Register SEC_AUDIT_HI (14). -/
def Reg.SEC_AUDIT_HI : Nat := 0x40110024
/-- Register SEC_AUDIT_STAT (14). -/
def Reg.SEC_AUDIT_STAT : Nat := 0x40110028
/-- Register CLK_SRC_STAT (15). -/
def Reg.CLK_SRC_STAT : Nat := 0x400F0000
/-- Register CLK_MUX_STAT (15). -/
def Reg.CLK_MUX_STAT : Nat := 0x400F0004
/-- Register CLK_PSTATE (15). -/
def Reg.CLK_PSTATE : Nat := 0x400F0008
/-- Register CLK_ADN_LOSS (15). -/
def Reg.CLK_ADN_LOSS : Nat := 0x400F000C
/-- Register KPR_CLKMON_STAT (15). -/
def Reg.KPR_CLKMON_STAT : Nat := 0x400E0000
/-- Register KPR_CLKMON_GAP (15). -/
def Reg.KPR_CLKMON_GAP : Nat := 0x400E0004
/-- Register KPR_XT_AMP (15). -/
def Reg.KPR_XT_AMP : Nat := 0x400E0008
/-- Register KPR_CMP_ZONE_z (15). -/
def Reg.KPR_CMP_ZONE (z : Nat) : Nat := 0x400E0100 + 0x10 * z
/-- Register KPR_CMP_STR_s (15). -/
def Reg.KPR_CMP_STR (s : Nat) : Nat := 0x400E0140 + 0x4 * s
/-- Register KPR_SUPPLY_STAT (15). -/
def Reg.KPR_SUPPLY_STAT : Nat := 0x400E0200
/-- Register KPR_SUPPLY_CNT (15). -/
def Reg.KPR_SUPPLY_CNT : Nat := 0x400E0204
/-- Register KPR_HOLDUP (15). -/
def Reg.KPR_HOLDUP : Nat := 0x400E0208
/-- Register KPR_WAKE_CTRL (15). -/
def Reg.KPR_WAKE_CTRL : Nat := 0x400E0300
/-- Register KPR_WAKE_STAT (15). -/
def Reg.KPR_WAKE_STAT : Nat := 0x400E0304
/-- Register FLT_STAT (16). -/
def Reg.FLT_STAT (b : Nat) : Nat := 0x40007F00 + 0x10000 * b
/-- Register FLT_CFG (16). -/
def Reg.FLT_CFG (b : Nat) : Nat := 0x40007F04 + 0x10000 * b
/-- Register FLT_CTRL (16). -/
def Reg.FLT_CTRL (b : Nat) : Nat := 0x40007F08 + 0x10000 * b
/-- Register FLT_FIRST_INFO (16). -/
def Reg.FLT_FIRST_INFO (b : Nat) : Nat := 0x40007F0C + 0x10000 * b
/-- Register FLT_FIRST_ADDR (16). -/
def Reg.FLT_FIRST_ADDR (b : Nat) : Nat := 0x40007F10 + 0x10000 * b
/-- Register FLT_FIRST_TIME_LO (16). -/
def Reg.FLT_FIRST_TIME_LO (b : Nat) : Nat := 0x40007F14 + 0x10000 * b
/-- Register FLT_FIRST_TIME_HI (16). -/
def Reg.FLT_FIRST_TIME_HI (b : Nat) : Nat := 0x40007F18 + 0x10000 * b
/-- Register FLT_HIST_PTR (16). -/
def Reg.FLT_HIST_PTR (b : Nat) : Nat := 0x40007F1C + 0x10000 * b
/-- Register FLT_HIST_INFO_i (16). -/
def Reg.FLT_HIST_INFO (b : Nat) (i : Nat) : Nat := 0x40007F40 + 0x10000 * b + 0x10 * i
/-- Register FLT_HIST_TIME_LO_i (16). -/
def Reg.FLT_HIST_TIME_LO (b : Nat) (i : Nat) : Nat := 0x40007F44 + 0x10000 * b + 0x10 * i
/-- Register FLT_HIST_TIME_HI_i (16). -/
def Reg.FLT_HIST_TIME_HI (b : Nat) (i : Nat) : Nat := 0x40007F48 + 0x10000 * b + 0x10 * i
/-- Register KPR_RST_CTRL (16). -/
def Reg.KPR_RST_CTRL : Nat := 0x400E0600
/-- Register KPR_RST_STAT (16). -/
def Reg.KPR_RST_STAT : Nat := 0x400E0604
/-- Register KPR_RST_CNT (16). -/
def Reg.KPR_RST_CNT : Nat := 0x400E0608
/-- Register LKS_HB_c (16). -/
def Reg.LKS_HB (c : Nat) : Nat := 0x400D00C0 + 0x4 * c
/-- Register LKS_WDOG_CTRL (16). -/
def Reg.LKS_WDOG_CTRL : Nat := 0x400D00D0
/-- Register LKS_WDOG_STAT (16). -/
def Reg.LKS_WDOG_STAT : Nat := 0x400D00D4
/-- Register LKS_DUMP_CTRL (16). -/
def Reg.LKS_DUMP_CTRL : Nat := 0x400D00E0
/-- Register LKS_DUMP_STAT (16). -/
def Reg.LKS_DUMP_STAT : Nat := 0x400D00E4
/-- Register PRF_STR_PULSE_s (17). -/
def Reg.PRF_STR_PULSE (s : Nat) : Nat := 0x40020060 + 0x4 * s
/-- Register PRF_GRID_NOM (17). -/
def Reg.PRF_GRID_NOM : Nat := 0x40020080
/-- Register PRF_GRID_THR (17). -/
def Reg.PRF_GRID_THR : Nat := 0x40020084
/-- Register PRF_GRID_HOLD (17). -/
def Reg.PRF_GRID_HOLD : Nat := 0x40020088
/-- Register PRF_GRID_STAT (17). -/
def Reg.PRF_GRID_STAT : Nat := 0x4002008C
/-- Register PRF_GRID_ENV (17). -/
def Reg.PRF_GRID_ENV : Nat := 0x40020090
/-- Register PRF_COOL_CTRL (17). -/
def Reg.PRF_COOL_CTRL : Nat := 0x400200A0
/-- Register PRF_COOL_LIM (17). -/
def Reg.PRF_COOL_LIM : Nat := 0x400200A4
/-- Register PRF_COOL_STAT (17). -/
def Reg.PRF_COOL_STAT : Nat := 0x400200A8
/-- Register LPE_SNS_ABSENT (18). -/
def Reg.LPE_SNS_ABSENT : Nat := 0x40010080
/-- Register LPE_SNS_GAIN_c (18). -/
def Reg.LPE_SNS_GAIN (c : Nat) : Nat := 0x40010100 + 0x8 * c
/-- Register LPE_SNS_ADD_c (18). -/
def Reg.LPE_SNS_ADD (c : Nat) : Nat := 0x40010104 + 0x8 * c
/-- Register SUP_CFG_CTRL (18). -/
def Reg.SUP_CFG_CTRL : Nat := 0x40000100
/-- Register SUP_CFG_STAT (18). -/
def Reg.SUP_CFG_STAT : Nat := 0x40000104
/-- Register SUP_CFG_DIGEST (18). -/
def Reg.SUP_CFG_DIGEST : Nat := 0x40000108
/-- Register ZFB_DECL_OS (18). -/
def Reg.ZFB_DECL_OS : Nat := 0x40040600
/-- Register ZFB_DECL_PWR (18). -/
def Reg.ZFB_DECL_PWR : Nat := 0x40040604
/-- Register ZFB_ZONE_C_z (01). -/
def Reg.ZFB_ZONE_C (z : Nat) : Nat := 0x40040500 + 0x4 * z

/-! The fields. -/

def Fd.SNS_TIME_LO_time_lo : Fld := ⟨Reg.SNS_TIME_LO, 0, 32⟩
def Fd.SNS_TIME_HI_time_hi : Fld := ⟨Reg.SNS_TIME_HI, 0, 32⟩
def Fd.SNS_FRAME_LO_frame_lo : Fld := ⟨Reg.SNS_FRAME_LO, 0, 32⟩
def Fd.SNS_FRAME_HI_frame_hi : Fld := ⟨Reg.SNS_FRAME_HI, 0, 16⟩
def Fd.SNS_SYNC_CTRL_step_allow : Fld := ⟨Reg.SNS_SYNC_CTRL, 3, 1⟩
def Fd.SNS_SYNC_CTRL_sync_out_en : Fld := ⟨Reg.SNS_SYNC_CTRL, 2, 1⟩
def Fd.SNS_SYNC_CTRL_mode : Fld := ⟨Reg.SNS_SYNC_CTRL, 0, 2⟩
def Fd.SNS_SYNC_OFFSET_offset : Fld := ⟨Reg.SNS_SYNC_OFFSET, 0, 10⟩
def Fd.SNS_SYNC_STAT_phase_err : Fld := ⟨Reg.SNS_SYNC_STAT, 16, 16⟩
def Fd.SNS_SYNC_STAT_stepped : Fld := ⟨Reg.SNS_SYNC_STAT, 5, 1⟩
def Fd.SNS_SYNC_STAT_edge_missing : Fld := ⟨Reg.SNS_SYNC_STAT, 4, 1⟩
def Fd.SNS_SYNC_STAT_state : Fld := ⟨Reg.SNS_SYNC_STAT, 0, 3⟩
def Fd.SNS_CARRIER_OFFSET_shelf_offset : Fld := ⟨Reg.SNS_CARRIER_OFFSET, 0, 8⟩
def Fd.SNS_SYNC_ADJ_shrink_count : Fld := ⟨Reg.SNS_SYNC_ADJ, 16, 16⟩
def Fd.SNS_SYNC_ADJ_stretch_count : Fld := ⟨Reg.SNS_SYNC_ADJ, 0, 16⟩
def Fd.LPE_LOOP_CTRL_active_set (l : Nat) : Fld := ⟨Reg.LPE_LOOP_CTRL l, 8, 2⟩
def Fd.LPE_LOOP_CTRL_next_set (l : Nat) : Fld := ⟨Reg.LPE_LOOP_CTRL l, 4, 2⟩
def Fd.LPE_LOOP_CTRL_switch_set (l : Nat) : Fld := ⟨Reg.LPE_LOOP_CTRL l, 3, 1⟩
def Fd.LPE_LOOP_CTRL_manual (l : Nat) : Fld := ⟨Reg.LPE_LOOP_CTRL l, 2, 1⟩
def Fd.LPE_LOOP_CTRL_ff_en (l : Nat) : Fld := ⟨Reg.LPE_LOOP_CTRL l, 1, 1⟩
def Fd.LPE_LOOP_CTRL_enable (l : Nat) : Fld := ⟨Reg.LPE_LOOP_CTRL l, 0, 1⟩
def Fd.LPE_LOOP_CLAMP_HI_val (l : Nat) : Fld := ⟨Reg.LPE_LOOP_CLAMP_HI l, 0, 32⟩
def Fd.LPE_LOOP_CLAMP_LO_val (l : Nat) : Fld := ⟨Reg.LPE_LOOP_CLAMP_LO l, 0, 32⟩
def Fd.LPE_LOOP_RATE_val (l : Nat) : Fld := ⟨Reg.LPE_LOOP_RATE l, 0, 32⟩
def Fd.LPE_LOOP_MANUAL_val (l : Nat) : Fld := ⟨Reg.LPE_LOOP_MANUAL l, 0, 32⟩
def Fd.LPE_LOOP_OUT_val (l : Nat) : Fld := ⟨Reg.LPE_LOOP_OUT l, 0, 32⟩
def Fd.LPE_LOOP_RAW_val (l : Nat) : Fld := ⟨Reg.LPE_LOOP_RAW l, 0, 32⟩
def Fd.LPE_LOOP_INTEG_val (l : Nat) : Fld := ⟨Reg.LPE_LOOP_INTEG l, 0, 32⟩
def Fd.LPE_LOOP_STAT_lim_frames (l : Nat) : Fld := ⟨Reg.LPE_LOOP_STAT l, 16, 16⟩
def Fd.LPE_LOOP_STAT_wr_active (l : Nat) : Fld := ⟨Reg.LPE_LOOP_STAT l, 6, 1⟩
def Fd.LPE_LOOP_STAT_set_switched (l : Nat) : Fld := ⟨Reg.LPE_LOOP_STAT l, 5, 1⟩
def Fd.LPE_LOOP_STAT_acc_sat (l : Nat) : Fld := ⟨Reg.LPE_LOOP_STAT l, 4, 1⟩
def Fd.LPE_LOOP_STAT_exp_ovf (l : Nat) : Fld := ⟨Reg.LPE_LOOP_STAT l, 3, 1⟩
def Fd.LPE_LOOP_STAT_rate_act (l : Nat) : Fld := ⟨Reg.LPE_LOOP_STAT l, 2, 1⟩
def Fd.LPE_LOOP_STAT_hi_act (l : Nat) : Fld := ⟨Reg.LPE_LOOP_STAT l, 1, 1⟩
def Fd.LPE_LOOP_STAT_lo_act (l : Nat) : Fld := ⟨Reg.LPE_LOOP_STAT l, 0, 1⟩
def Fd.LPE_CSET_CTRL_form (l : Nat) (s : Nat) : Fld := ⟨Reg.LPE_CSET_CTRL l s, 24, 1⟩
def Fd.LPE_CSET_CTRL_exp_lim (l : Nat) (s : Nat) : Fld := ⟨Reg.LPE_CSET_CTRL l s, 16, 6⟩
def Fd.LPE_CSET_CTRL_exp_den (l : Nat) (s : Nat) : Fld := ⟨Reg.LPE_CSET_CTRL l s, 8, 6⟩
def Fd.LPE_CSET_CTRL_exp_num (l : Nat) (s : Nat) : Fld := ⟨Reg.LPE_CSET_CTRL l s, 0, 6⟩
def Fd.LPE_CSET_N_mant (l : Nat) (s : Nat) (i : Nat) : Fld := ⟨Reg.LPE_CSET_N l s i, 0, 24⟩
def Fd.LPE_CSET_D_mant (l : Nat) (s : Nat) (i : Nat) : Fld := ⟨Reg.LPE_CSET_D l s i, 0, 24⟩
def Fd.LPE_CSET_KB_mant (l : Nat) (s : Nat) : Fld := ⟨Reg.LPE_CSET_KB l s, 0, 24⟩
def Fd.HMP_CTRL_decim_log2 : Fld := ⟨Reg.HMP_CTRL, 12, 4⟩
def Fd.HMP_CTRL_force_trig : Fld := ⟨Reg.HMP_CTRL, 2, 1⟩
def Fd.HMP_CTRL_disarm : Fld := ⟨Reg.HMP_CTRL, 1, 1⟩
def Fd.HMP_CTRL_arm : Fld := ⟨Reg.HMP_CTRL, 0, 1⟩
def Fd.HMP_NODES_count : Fld := ⟨Reg.HMP_NODES, 0, 7⟩
def Fd.HMP_REGION_size_mib : Fld := ⟨Reg.HMP_REGION, 0, 13⟩
def Fd.HMP_PRE_pre : Fld := ⟨Reg.HMP_PRE, 0, 24⟩
def Fd.HMP_POST_post : Fld := ⟨Reg.HMP_POST, 0, 24⟩
def Fd.HMP_TRIG_CTRL_source : Fld := ⟨Reg.HMP_TRIG_CTRL, 28, 4⟩
def Fd.HMP_TRIG_CTRL_edge : Fld := ⟨Reg.HMP_TRIG_CTRL, 26, 2⟩
def Fd.HMP_TRIG_CTRL_min_class : Fld := ⟨Reg.HMP_TRIG_CTRL, 24, 2⟩
def Fd.HMP_TRIG_CTRL_block : Fld := ⟨Reg.HMP_TRIG_CTRL, 16, 5⟩
def Fd.HMP_TRIG_CTRL_node_id : Fld := ⟨Reg.HMP_TRIG_CTRL, 0, 16⟩
def Fd.HMP_TRIG_LEVEL_val : Fld := ⟨Reg.HMP_TRIG_LEVEL, 0, 32⟩
def Fd.HMP_STAT_state : Fld := ⟨Reg.HMP_STAT, 30, 2⟩
def Fd.HMP_STAT_truncated : Fld := ⟨Reg.HMP_STAT, 29, 1⟩
def Fd.HMP_STAT_pre_valid : Fld := ⟨Reg.HMP_STAT, 0, 24⟩
def Fd.HMP_EFF_PRE_pre_eff : Fld := ⟨Reg.HMP_EFF_PRE, 0, 24⟩
def Fd.HMP_EFF_POST_post_eff : Fld := ⟨Reg.HMP_EFF_POST, 0, 24⟩
def Fd.HMP_TRIG_FRAME_LO_frame_lo : Fld := ⟨Reg.HMP_TRIG_FRAME_LO, 0, 32⟩
def Fd.HMP_TRIG_FRAME_HI_frame_hi : Fld := ⟨Reg.HMP_TRIG_FRAME_HI, 0, 16⟩
def Fd.HMP_NODE_SEL_node_id (i : Nat) : Fld := ⟨Reg.HMP_NODE_SEL i, 0, 16⟩
def Fd.PRF_CTRL_reserve_force : Fld := ⟨Reg.PRF_CTRL, 2, 1⟩
def Fd.PRF_CTRL_soc_en : Fld := ⟨Reg.PRF_CTRL, 1, 1⟩
def Fd.PRF_CTRL_fc_en : Fld := ⟨Reg.PRF_CTRL, 0, 1⟩
def Fd.PRF_VEL_val : Fld := ⟨Reg.PRF_VEL, 0, 32⟩
def Fd.PRF_ACC_val : Fld := ⟨Reg.PRF_ACC, 0, 32⟩
def Fd.PRF_JERK_val : Fld := ⟨Reg.PRF_JERK, 0, 32⟩
def Fd.PRF_DRAW_MAX_val : Fld := ⟨Reg.PRF_DRAW_MAX, 0, 32⟩
def Fd.PRF_SOC_GAIN_val : Fld := ⟨Reg.PRF_SOC_GAIN, 0, 32⟩
def Fd.PRF_SOC_MAX_val : Fld := ⟨Reg.PRF_SOC_MAX, 0, 32⟩
def Fd.PRF_ETA_OUT_val : Fld := ⟨Reg.PRF_ETA_OUT, 0, 32⟩
def Fd.PRF_POS_val : Fld := ⟨Reg.PRF_POS, 0, 32⟩
def Fd.PRF_VELO_val : Fld := ⟨Reg.PRF_VELO, 0, 32⟩
def Fd.PRF_ACCEL_val : Fld := ⟨Reg.PRF_ACCEL, 0, 32⟩
def Fd.PRF_TARGET_val : Fld := ⟨Reg.PRF_TARGET, 0, 32⟩
def Fd.PRF_SOC_CORR_val : Fld := ⟨Reg.PRF_SOC_CORR, 0, 32⟩
def Fd.PRF_STAT_stale_count : Fld := ⟨Reg.PRF_STAT, 16, 16⟩
def Fd.PRF_STAT_reserve_open : Fld := ⟨Reg.PRF_STAT, 3, 1⟩
def Fd.PRF_STAT_fallback : Fld := ⟨Reg.PRF_STAT, 2, 1⟩
def Fd.PRF_STAT_at_target : Fld := ⟨Reg.PRF_STAT, 1, 1⟩
def Fd.PRF_STAT_active : Fld := ⟨Reg.PRF_STAT, 0, 1⟩
def Fd.PRF_STR_BAND_full_discharge (s : Nat) : Fld := ⟨Reg.PRF_STR_BAND s, 1, 1⟩
def Fd.PRF_STR_BAND_full_charge (s : Nat) : Fld := ⟨Reg.PRF_STR_BAND s, 0, 1⟩
def Fd.PRF_STR_FACTOR_dis_factor (s : Nat) : Fld := ⟨Reg.PRF_STR_FACTOR s, 16, 16⟩
def Fd.PRF_STR_FACTOR_chg_factor (s : Nat) : Fld := ⟨Reg.PRF_STR_FACTOR s, 0, 16⟩
def Fd.LPE_RAMP_TARGET_val (l : Nat) : Fld := ⟨Reg.LPE_RAMP_TARGET l, 0, 32⟩
def Fd.LPE_RAMP_SLEW_val (l : Nat) : Fld := ⟨Reg.LPE_RAMP_SLEW l, 0, 32⟩
def Fd.LPE_RAMP_SETPT_val (l : Nat) : Fld := ⟨Reg.LPE_RAMP_SETPT l, 0, 32⟩
def Fd.LPE_RAMP_STAT_code (l : Nat) : Fld := ⟨Reg.LPE_RAMP_STAT l, 5, 3⟩
def Fd.LPE_RAMP_STAT_no_target (l : Nat) : Fld := ⟨Reg.LPE_RAMP_STAT l, 4, 1⟩
def Fd.LPE_RAMP_STAT_wait_link (l : Nat) : Fld := ⟨Reg.LPE_RAMP_STAT l, 3, 1⟩
def Fd.LPE_RAMP_STAT_done (l : Nat) : Fld := ⟨Reg.LPE_RAMP_STAT l, 1, 1⟩
def Fd.LPE_RAMP_STAT_running (l : Nat) : Fld := ⟨Reg.LPE_RAMP_STAT l, 0, 1⟩
def Fd.LPE_LINK_TARGET_val (l : Nat) : Fld := ⟨Reg.LPE_LINK_TARGET l, 0, 32⟩
def Fd.LPE_VSTORE_val (l : Nat) (c : Nat) : Fld := ⟨Reg.LPE_VSTORE l c, 0, 32⟩
def Fd.LPE_FOLLOW_LIMIT_val (l : Nat) : Fld := ⟨Reg.LPE_FOLLOW_LIMIT l, 0, 32⟩
def Fd.LPE_FOLLOW_CTRL_timer_limit (l : Nat) : Fld := ⟨Reg.LPE_FOLLOW_CTRL l, 12, 20⟩
def Fd.LPE_FOLLOW_RETRY_retry_delay (l : Nat) : Fld := ⟨Reg.LPE_FOLLOW_RETRY l, 16, 16⟩
def Fd.LPE_FOLLOW_RETRY_retry_max (l : Nat) : Fld := ⟨Reg.LPE_FOLLOW_RETRY l, 0, 4⟩
def Fd.LPE_FOLLOW_STAT_timer (l : Nat) : Fld := ⟨Reg.LPE_FOLLOW_STAT l, 12, 20⟩
def Fd.LPE_FOLLOW_STAT_retries_used (l : Nat) : Fld := ⟨Reg.LPE_FOLLOW_STAT l, 8, 4⟩
def Fd.LPE_FOLLOW_STAT_cause (l : Nat) : Fld := ⟨Reg.LPE_FOLLOW_STAT l, 2, 1⟩
def Fd.LPE_FOLLOW_STAT_expired (l : Nat) : Fld := ⟨Reg.LPE_FOLLOW_STAT l, 1, 1⟩
def Fd.LPE_FOLLOW_STAT_excess (l : Nat) : Fld := ⟨Reg.LPE_FOLLOW_STAT l, 0, 1⟩
def Fd.ZFB_COMB_CTRL_batch_size : Fld := ⟨Reg.ZFB_COMB_CTRL, 8, 4⟩
def Fd.ZFB_COMB_CTRL_abort : Fld := ⟨Reg.ZFB_COMB_CTRL, 2, 1⟩
def Fd.ZFB_COMB_CTRL_go : Fld := ⟨Reg.ZFB_COMB_CTRL, 0, 1⟩
def Fd.ZFB_COMB_STAT_busy_mask : Fld := ⟨Reg.ZFB_COMB_STAT, 16, 16⟩
def Fd.ZFB_COMB_STAT_refuse_cause : Fld := ⟨Reg.ZFB_COMB_STAT, 8, 4⟩
def Fd.ZFB_COMB_STAT_fenced_in_batch : Fld := ⟨Reg.ZFB_COMB_STAT, 3, 1⟩
def Fd.ZFB_COMB_STAT_refused : Fld := ⟨Reg.ZFB_COMB_STAT, 2, 1⟩
def Fd.ZFB_COMB_STAT_aborted : Fld := ⟨Reg.ZFB_COMB_STAT, 1, 1⟩
def Fd.ZFB_COMB_STAT_batch_done : Fld := ⟨Reg.ZFB_COMB_STAT, 0, 1⟩
def Fd.ZFB_MATCH_WIN_val : Fld := ⟨Reg.ZFB_MATCH_WIN, 0, 32⟩
def Fd.ZFB_ZERO_I_val : Fld := ⟨Reg.ZFB_ZERO_I, 0, 32⟩
def Fd.ZFB_MISMATCH_I_val : Fld := ⟨Reg.ZFB_MISMATCH_I, 0, 32⟩
def Fd.ZFB_MISMATCH_CTRL_mismatch_frames : Fld := ⟨Reg.ZFB_MISMATCH_CTRL, 0, 16⟩
def Fd.ZFB_OS_reach (k : Nat) : Fld := ⟨Reg.ZFB_OS k, 28, 4⟩
def Fd.ZFB_OS_fence_cause (k : Nat) : Fld := ⟨Reg.ZFB_OS k, 24, 3⟩
def Fd.ZFB_OS_next_zone (k : Nat) : Fld := ⟨Reg.ZFB_OS k, 20, 3⟩
def Fd.ZFB_OS_zone (k : Nat) : Fld := ⟨Reg.ZFB_OS k, 16, 3⟩
def Fd.ZFB_OS_state (k : Nat) : Fld := ⟨Reg.ZFB_OS k, 12, 4⟩
def Fd.ZFB_OS_weight (k : Nat) : Fld := ⟨Reg.ZFB_OS k, 0, 10⟩
def Fd.ZFB_STR_allowed (s : Nat) : Fld := ⟨Reg.ZFB_STR s, 16, 3⟩
def Fd.ZFB_STR_next_duty (s : Nat) : Fld := ⟨Reg.ZFB_STR s, 4, 2⟩
def Fd.ZFB_STR_duty (s : Nat) : Fld := ⟨Reg.ZFB_STR s, 2, 2⟩
def Fd.ZFB_STR_ramping (s : Nat) : Fld := ⟨Reg.ZFB_STR s, 1, 1⟩
def Fd.ZFB_LANE_zone (t : Nat) : Fld := ⟨Reg.ZFB_LANE t, 24, 2⟩
def Fd.ZFB_LANE_declared (t : Nat) : Fld := ⟨Reg.ZFB_LANE t, 23, 1⟩
def Fd.ZFB_LANE_next_group (t : Nat) : Fld := ⟨Reg.ZFB_LANE t, 8, 6⟩
def Fd.ZFB_LANE_group (t : Nat) : Fld := ⟨Reg.ZFB_LANE t, 0, 6⟩
def Fd.ZFB_SHED_CTRL_min_active (z : Nat) : Fld := ⟨Reg.ZFB_SHED_CTRL z, 4, 4⟩
def Fd.ZFB_SHED_CTRL_en (z : Nat) : Fld := ⟨Reg.ZFB_SHED_CTRL z, 0, 1⟩
def Fd.ZFB_SHED_I_val (z : Nat) : Fld := ⟨Reg.ZFB_SHED_I z, 0, 32⟩
def Fd.ZFB_ADD_I_val (z : Nat) : Fld := ⟨Reg.ZFB_ADD_I z, 0, 32⟩
def Fd.ZFB_SHED_HOLD_shed_hold (z : Nat) : Fld := ⟨Reg.ZFB_SHED_HOLD z, 0, 22⟩
def Fd.ZFB_ADD_HOLD_add_hold (z : Nat) : Fld := ⟨Reg.ZFB_ADD_HOLD z, 0, 16⟩
def Fd.ZFB_SHED_STAT_shed_timer (z : Nat) : Fld := ⟨Reg.ZFB_SHED_STAT z, 10, 22⟩
def Fd.ZFB_SHED_STAT_n_active (z : Nat) : Fld := ⟨Reg.ZFB_SHED_STAT z, 5, 5⟩
def Fd.ZFB_SHED_STAT_n_shed (z : Nat) : Fld := ⟨Reg.ZFB_SHED_STAT z, 0, 5⟩
def Fd.ZFB_ZONE_CAP_val (z : Nat) : Fld := ⟨Reg.ZFB_ZONE_CAP z, 0, 32⟩
def Fd.ZFB_ZONE_STAT_overload_frames (z : Nat) : Fld := ⟨Reg.ZFB_ZONE_STAT z, 12, 20⟩
def Fd.ZFB_ZONE_STAT_cap_limited (z : Nat) : Fld := ⟨Reg.ZFB_ZONE_STAT z, 1, 1⟩
def Fd.ZFB_ZONE_STAT_overload (z : Nat) : Fld := ⟨Reg.ZFB_ZONE_STAT z, 0, 1⟩
def Fd.WGL_VSEL_pin_code (z : Nat) : Fld := ⟨Reg.WGL_VSEL z, 8, 3⟩
def Fd.WGL_VSEL_equal_count (z : Nat) : Fld := ⟨Reg.WGL_VSEL z, 4, 4⟩
def Fd.WGL_VSEL_valid (z : Nat) : Fld := ⟨Reg.WGL_VSEL z, 3, 1⟩
def Fd.WGL_VSEL_code (z : Nat) : Fld := ⟨Reg.WGL_VSEL z, 0, 3⟩
def Fd.WGL_PGOOD_window_count (z : Nat) : Fld := ⟨Reg.WGL_PGOOD z, 16, 7⟩
def Fd.WGL_PGOOD_started (z : Nat) : Fld := ⟨Reg.WGL_PGOOD z, 4, 1⟩
def Fd.WGL_PGOOD_keeper_trip (z : Nat) : Fld := ⟨Reg.WGL_PGOOD z, 3, 1⟩
def Fd.WGL_PGOOD_force_low (z : Nat) : Fld := ⟨Reg.WGL_PGOOD z, 1, 1⟩
def Fd.WGL_PGOOD_level (z : Nat) : Fld := ⟨Reg.WGL_PGOOD z, 0, 1⟩
def Fd.FFW_ZONE_CTRL_commit (z : Nat) : Fld := ⟨Reg.FFW_ZONE_CTRL z, 5, 1⟩
def Fd.FFW_ZONE_CTRL_auto_anchor (z : Nat) : Fld := ⟨Reg.FFW_ZONE_CTRL z, 4, 1⟩
def Fd.FFW_ZONE_CTRL_anchor_lane (z : Nat) : Fld := ⟨Reg.FFW_ZONE_CTRL z, 0, 4⟩
def Fd.FFW_ZONE_STAT_bin (z : Nat) : Fld := ⟨Reg.FFW_ZONE_STAT z, 12, 10⟩
def Fd.FFW_ZONE_STAT_anchor_cur (z : Nat) : Fld := ⟨Reg.FFW_ZONE_STAT z, 8, 4⟩
def Fd.FFW_ZONE_STAT_wr_active (z : Nat) : Fld := ⟨Reg.FFW_ZONE_STAT z, 4, 1⟩
def Fd.FFW_ZONE_STAT_stale (z : Nat) : Fld := ⟨Reg.FFW_ZONE_STAT z, 3, 1⟩
def Fd.FFW_ZONE_STAT_commit_pending (z : Nat) : Fld := ⟨Reg.FFW_ZONE_STAT z, 2, 1⟩
def Fd.FFW_ZONE_STAT_active_buf (z : Nat) : Fld := ⟨Reg.FFW_ZONE_STAT z, 0, 1⟩
def Fd.FFW_PERIOD_period (z : Nat) : Fld := ⟨Reg.FFW_PERIOD z, 0, 32⟩
def Fd.FFW_ANCHOR_LO_anchor_lo (z : Nat) : Fld := ⟨Reg.FFW_ANCHOR_LO z, 0, 32⟩
def Fd.FFW_ANCHOR_HI_anchor_hi (z : Nat) : Fld := ⟨Reg.FFW_ANCHOR_HI z, 0, 32⟩
def Fd.FFW_GAIN_val (z : Nat) : Fld := ⟨Reg.FFW_GAIN z, 0, 32⟩
def Fd.FFW_CRC_crc (z : Nat) : Fld := ⟨Reg.FFW_CRC z, 0, 32⟩
def Fd.FFW_OUT_val (z : Nat) : Fld := ⟨Reg.FFW_OUT z, 0, 32⟩
def Fd.FFW_PP_CTRL_lead : Fld := ⟨Reg.FFW_PP_CTRL, 16, 16⟩
def Fd.FFW_PP_CTRL_en : Fld := ⟨Reg.FFW_PP_CTRL, 0, 1⟩
def Fd.FFW_PP_SLEW_val : Fld := ⟨Reg.FFW_PP_SLEW, 0, 32⟩
def Fd.FFW_PP_ETA_val : Fld := ⟨Reg.FFW_PP_ETA, 0, 32⟩
def Fd.FFW_PP_OUT_val : Fld := ⟨Reg.FFW_PP_OUT, 0, 32⟩
def Fd.FFW_PP_TIMEOUT_arm_timeout : Fld := ⟨Reg.FFW_PP_TIMEOUT, 0, 16⟩
def Fd.FFW_CLASS_RISE_val (c : Nat) : Fld := ⟨Reg.FFW_CLASS_RISE c, 0, 32⟩
def Fd.FFW_SHAPE_odd (z : Nat) (k : Nat) (i : Nat) : Fld := ⟨Reg.FFW_SHAPE z k i, 16, 16⟩
def Fd.FFW_SHAPE_even (z : Nat) (k : Nat) (i : Nat) : Fld := ⟨Reg.FFW_SHAPE z k i, 0, 16⟩
def Fd.FFW_BIAS_odd (z : Nat) (k : Nat) (i : Nat) : Fld := ⟨Reg.FFW_BIAS z k i, 16, 16⟩
def Fd.FFW_BIAS_even (z : Nat) (k : Nat) (i : Nat) : Fld := ⟨Reg.FFW_BIAS z k i, 0, 16⟩
def Fd.WGL_LANE_CTRL_clear (t : Nat) : Fld := ⟨Reg.WGL_LANE_CTRL t, 1, 1⟩
def Fd.WGL_LANE_CTRL_ff_en (t : Nat) : Fld := ⟨Reg.WGL_LANE_CTRL t, 0, 1⟩
def Fd.WGL_LANE_STAT_version (t : Nat) : Fld := ⟨Reg.WGL_LANE_STAT t, 30, 2⟩
def Fd.WGL_LANE_STAT_fenced (t : Nat) : Fld := ⟨Reg.WGL_LANE_STAT t, 6, 1⟩
def Fd.WGL_LANE_STAT_storm (t : Nat) : Fld := ⟨Reg.WGL_LANE_STAT t, 5, 1⟩
def Fd.WGL_LANE_STAT_link_down (t : Nat) : Fld := ⟨Reg.WGL_LANE_STAT t, 4, 1⟩
def Fd.WGL_LANE_STAT_step_stale (t : Nat) : Fld := ⟨Reg.WGL_LANE_STAT t, 3, 1⟩
def Fd.WGL_LANE_STAT_arm_pending (t : Nat) : Fld := ⟨Reg.WGL_LANE_STAT t, 2, 1⟩
def Fd.WGL_LANE_STAT_anchor (t : Nat) : Fld := ⟨Reg.WGL_LANE_STAT t, 1, 1⟩
def Fd.WGL_LANE_ARM_LO_tp_lo (t : Nat) : Fld := ⟨Reg.WGL_LANE_ARM_LO t, 0, 32⟩
def Fd.WGL_LANE_ARM_HI_tp_hi (t : Nat) : Fld := ⟨Reg.WGL_LANE_ARM_HI t, 0, 32⟩
def Fd.WGL_LANE_RISE_val (t : Nat) : Fld := ⟨Reg.WGL_LANE_RISE t, 0, 32⟩
def Fd.WGL_LANE_TX_allow (t : Nat) : Fld := ⟨Reg.WGL_LANE_TX t, 16, 16⟩
def Fd.WGL_LANE_TX_held (t : Nat) : Fld := ⟨Reg.WGL_LANE_TX t, 15, 1⟩
def Fd.WGL_LANE_TX_ceil (t : Nat) : Fld := ⟨Reg.WGL_LANE_TX t, 0, 12⟩
def Fd.WGL_LANE_CNT_storms (t : Nat) : Fld := ⟨Reg.WGL_LANE_CNT t, 24, 8⟩
def Fd.WGL_LANE_CNT_dup (t : Nat) : Fld := ⟨Reg.WGL_LANE_CNT t, 16, 8⟩
def Fd.WGL_LANE_CNT_implaus (t : Nat) : Fld := ⟨Reg.WGL_LANE_CNT t, 8, 8⟩
def Fd.WGL_LANE_CNT_dropped (t : Nat) : Fld := ⟨Reg.WGL_LANE_CNT t, 0, 8⟩
def Fd.WGL_GROUP_NEXT_fresh (g : Nat) : Fld := ⟨Reg.WGL_GROUP_NEXT g, 16, 1⟩
def Fd.WGL_GROUP_NEXT_c (g : Nat) : Fld := ⟨Reg.WGL_GROUP_NEXT g, 0, 12⟩
def Fd.WGL_GROUP_SENT_shared (g : Nat) : Fld := ⟨Reg.WGL_GROUP_SENT g, 16, 12⟩
def Fd.WGL_GROUP_SENT_droop (g : Nat) : Fld := ⟨Reg.WGL_GROUP_SENT g, 15, 1⟩
def Fd.WGL_GROUP_SENT_raise_pending (g : Nat) : Fld := ⟨Reg.WGL_GROUP_SENT g, 14, 1⟩
def Fd.WGL_GROUP_SENT_local (g : Nat) : Fld := ⟨Reg.WGL_GROUP_SENT g, 0, 12⟩
def Fd.WGL_CEIL_CTRL_droop_ceil : Fld := ⟨Reg.WGL_CEIL_CTRL, 16, 12⟩
def Fd.WGL_CEIL_CTRL_share_en : Fld := ⟨Reg.WGL_CEIL_CTRL, 0, 1⟩
def Fd.WGL_ALLOW_CTRL_allow_frac : Fld := ⟨Reg.WGL_ALLOW_CTRL, 0, 10⟩
def Fd.WGL_STORM_CTRL_max_markers : Fld := ⟨Reg.WGL_STORM_CTRL, 0, 8⟩
def Fd.WGL_THR_level (z : Nat) : Fld := ⟨Reg.WGL_THR z, 7, 1⟩
def Fd.WGL_THR_keeper (z : Nat) : Fld := ⟨Reg.WGL_THR z, 6, 1⟩
def Fd.WGL_THR_exhaust (z : Nat) : Fld := ⟨Reg.WGL_THR z, 5, 1⟩
def Fd.WGL_THR_ext (z : Nat) : Fld := ⟨Reg.WGL_THR z, 4, 1⟩
def Fd.WGL_THR_force (z : Nat) : Fld := ⟨Reg.WGL_THR z, 2, 1⟩
def Fd.WGL_THR_ext_en (z : Nat) : Fld := ⟨Reg.WGL_THR z, 1, 1⟩
def Fd.WGL_ZONE_NEXT_fresh (z : Nat) : Fld := ⟨Reg.WGL_ZONE_NEXT z, 16, 1⟩
def Fd.WGL_ZONE_NEXT_c (z : Nat) : Fld := ⟨Reg.WGL_ZONE_NEXT z, 0, 12⟩
def Fd.ADN_CTRL_scrub_en : Fld := ⟨Reg.ADN_CTRL, 2, 1⟩
def Fd.ADN_CTRL_gate_idle : Fld := ⟨Reg.ADN_CTRL, 1, 1⟩
def Fd.ADN_STAT_n_fenced : Fld := ⟨Reg.ADN_STAT, 18, 6⟩
def Fd.ADN_STAT_n_test : Fld := ⟨Reg.ADN_STAT, 12, 6⟩
def Fd.ADN_STAT_n_bound : Fld := ⟨Reg.ADN_STAT, 6, 6⟩
def Fd.ADN_STAT_n_free : Fld := ⟨Reg.ADN_STAT, 0, 6⟩
def Fd.ADN_ECC_STAT_corrected : Fld := ⟨Reg.ADN_ECC_STAT, 16, 16⟩
def Fd.ADN_ECC_STAT_uncorr_w : Fld := ⟨Reg.ADN_ECC_STAT, 8, 8⟩
def Fd.ADN_ECC_STAT_uncorr_a : Fld := ⟨Reg.ADN_ECC_STAT, 0, 8⟩
def Fd.ADN_PASS_STAT_late_count : Fld := ⟨Reg.ADN_PASS_STAT, 16, 16⟩
def Fd.ADN_PASS_STAT_assembling : Fld := ⟨Reg.ADN_PASS_STAT, 8, 1⟩
def Fd.ADN_PASS_STAT_last_end : Fld := ⟨Reg.ADN_PASS_STAT, 0, 8⟩
def Fd.ADN_CORE_STAT_state (k : Nat) : Fld := ⟨Reg.ADN_CORE_STAT k, 28, 4⟩
def Fd.ADN_CORE_STAT_slot (k : Nat) : Fld := ⟨Reg.ADN_CORE_STAT k, 22, 6⟩
def Fd.ADN_CORE_STAT_stop (k : Nat) : Fld := ⟨Reg.ADN_CORE_STAT k, 20, 2⟩
def Fd.ADN_CORE_STAT_fence_cause (k : Nat) : Fld := ⟨Reg.ADN_CORE_STAT k, 8, 4⟩
def Fd.ADN_CORE_STAT_ce_count (k : Nat) : Fld := ⟨Reg.ADN_CORE_STAT k, 0, 8⟩
def Fd.ADN_CORE_CYC_cycles (k : Nat) : Fld := ⟨Reg.ADN_CORE_CYC k, 0, 21⟩
def Fd.ADN_CORE_TEST_test_run (k : Nat) : Fld := ⟨Reg.ADN_CORE_TEST k, 31, 1⟩
def Fd.ADN_CORE_TEST_fail (k : Nat) : Fld := ⟨Reg.ADN_CORE_TEST k, 30, 1⟩
def Fd.ADN_CORE_TEST_sets (k : Nat) : Fld := ⟨Reg.ADN_CORE_TEST k, 0, 16⟩
def Fd.ADN_CORE_CTRL_fence (k : Nat) : Fld := ⟨Reg.ADN_CORE_CTRL k, 1, 1⟩
def Fd.ADN_CORE_CTRL_unfence (k : Nat) : Fld := ⟨Reg.ADN_CORE_CTRL k, 0, 1⟩
def Fd.ADN_BANK_STAT_stall_kcyc (q : Nat) : Fld := ⟨Reg.ADN_BANK_STAT q, 16, 16⟩
def Fd.ADN_BANK_STAT_used_kib (q : Nat) : Fld := ⟨Reg.ADN_BANK_STAT q, 0, 16⟩
def Fd.CLK_ADN_LEVEL_floor_conflict : Fld := ⟨Reg.CLK_ADN_LEVEL, 22, 1⟩
def Fd.CLK_ADN_LEVEL_busy : Fld := ⟨Reg.CLK_ADN_LEVEL, 21, 1⟩
def Fd.CLK_ADN_LEVEL_present : Fld := ⟨Reg.CLK_ADN_LEVEL, 18, 3⟩
def Fd.CLK_ADN_LEVEL_eff : Fld := ⟨Reg.CLK_ADN_LEVEL, 15, 3⟩
def Fd.CLK_ADN_LEVEL_cap : Fld := ⟨Reg.CLK_ADN_LEVEL, 12, 3⟩
def Fd.CLK_ADN_LEVEL_floor : Fld := ⟨Reg.CLK_ADN_LEVEL, 9, 3⟩
def Fd.CLK_ADN_LEVEL_max_level : Fld := ⟨Reg.CLK_ADN_LEVEL, 3, 3⟩
def Fd.CLK_ADN_LEVEL_target : Fld := ⟨Reg.CLK_ADN_LEVEL, 0, 3⟩
def Fd.CLK_ADN_SEQ_freq_mhz : Fld := ⟨Reg.CLK_ADN_SEQ, 20, 12⟩
def Fd.CLK_ADN_SEQ_rail_mv : Fld := ⟨Reg.CLK_ADN_SEQ, 8, 12⟩
def Fd.CLK_ADN_SEQ_phase : Fld := ⟨Reg.CLK_ADN_SEQ, 0, 3⟩
def Fd.CLK_ADN_DROOP_trips : Fld := ⟨Reg.CLK_ADN_DROOP, 16, 16⟩
def Fd.CLK_ADN_DROOP_trips_slow : Fld := ⟨Reg.CLK_ADN_DROOP, 8, 8⟩
def Fd.CLK_ADN_DROOP_droop_cap : Fld := ⟨Reg.CLK_ADN_DROOP, 5, 3⟩
def Fd.CLK_ADN_DROOP_cap_clear : Fld := ⟨Reg.CLK_ADN_DROOP, 3, 1⟩
def Fd.CLK_ADN_DROOP_cap_active : Fld := ⟨Reg.CLK_ADN_DROOP, 2, 1⟩
def Fd.CLK_ADN_DROOP_tripped : Fld := ⟨Reg.CLK_ADN_DROOP, 1, 1⟩
def Fd.CLK_ADN_DROOP_active : Fld := ⟨Reg.CLK_ADN_DROOP, 0, 1⟩
def Fd.CLK_ADN_THERM_tj : Fld := ⟨Reg.CLK_ADN_THERM, 16, 16⟩
def Fd.CLK_ADN_THERM_therm_cap : Fld := ⟨Reg.CLK_ADN_THERM, 0, 3⟩
def Fd.MDL_CTRL_reserve_cores : Fld := ⟨Reg.MDL_CTRL, 4, 4⟩
def Fd.MDL_CTRL_run_en : Fld := ⟨Reg.MDL_CTRL, 0, 1⟩
def Fd.MDL_STAT_n_stored : Fld := ⟨Reg.MDL_STAT, 24, 6⟩
def Fd.MDL_STAT_n_admitted : Fld := ⟨Reg.MDL_STAT, 18, 6⟩
def Fd.MDL_STAT_cores_bound : Fld := ⟨Reg.MDL_STAT, 12, 6⟩
def Fd.MDL_STAT_floor : Fld := ⟨Reg.MDL_STAT, 0, 3⟩
def Fd.MDL_MEM_STAT_act_kib : Fld := ⟨Reg.MDL_MEM_STAT, 16, 16⟩
def Fd.MDL_MEM_STAT_tele_blocks : Fld := ⟨Reg.MDL_MEM_STAT, 0, 16⟩
def Fd.MDL_REFUSE_slot : Fld := ⟨Reg.MDL_REFUSE, 8, 6⟩
def Fd.MDL_REFUSE_cause : Fld := ⟨Reg.MDL_REFUSE, 0, 4⟩
def Fd.MDL_SLOT_STAT_state (s : Nat) : Fld := ⟨Reg.MDL_SLOT_STAT s, 28, 4⟩
def Fd.MDL_SLOT_STAT_variant (s : Nat) : Fld := ⟨Reg.MDL_SLOT_STAT s, 26, 2⟩
def Fd.MDL_SLOT_STAT_n_cores (s : Nat) : Fld := ⟨Reg.MDL_SLOT_STAT s, 20, 6⟩
def Fd.MDL_SLOT_STAT_level_floor (s : Nat) : Fld := ⟨Reg.MDL_SLOT_STAT s, 17, 3⟩
def Fd.MDL_SLOT_STAT_excused (s : Nat) : Fld := ⟨Reg.MDL_SLOT_STAT s, 16, 1⟩
def Fd.MDL_SLOT_STAT_overrun_run (s : Nat) : Fld := ⟨Reg.MDL_SLOT_STAT s, 14, 2⟩
def Fd.MDL_SLOT_STAT_stale (s : Nat) : Fld := ⟨Reg.MDL_SLOT_STAT s, 13, 1⟩
def Fd.MDL_SLOT_STAT_standard (s : Nat) : Fld := ⟨Reg.MDL_SLOT_STAT s, 12, 1⟩
def Fd.MDL_SLOT_CNT_overruns (s : Nat) : Fld := ⟨Reg.MDL_SLOT_CNT s, 16, 16⟩
def Fd.MDL_SLOT_CNT_stale_passes (s : Nat) : Fld := ⟨Reg.MDL_SLOT_CNT s, 0, 16⟩
def Fd.MDL_SLOT_CORES_LO_cores_lo (s : Nat) : Fld := ⟨Reg.MDL_SLOT_CORES_LO s, 0, 32⟩
def Fd.MDL_SLOT_CORES_HI_cores_hi (s : Nat) : Fld := ⟨Reg.MDL_SLOT_CORES_HI s, 0, 16⟩
def Fd.MDL_SLOT_CYC_decl_cycles (s : Nat) : Fld := ⟨Reg.MDL_SLOT_CYC s, 0, 21⟩
def Fd.MDL_SLOT_LAST_last_ok (s : Nat) : Fld := ⟨Reg.MDL_SLOT_LAST s, 16, 16⟩
def Fd.CHN_CTRL_owt_every : Fld := ⟨Reg.CHN_CTRL, 16, 6⟩
def Fd.CHN_CTRL_hush_frames : Fld := ⟨Reg.CHN_CTRL, 8, 8⟩
def Fd.CHN_CTRL_hush_en : Fld := ⟨Reg.CHN_CTRL, 7, 1⟩
def Fd.CHN_CTRL_bal_mode : Fld := ⟨Reg.CHN_CTRL, 5, 2⟩
def Fd.CHN_CTRL_rescan : Fld := ⟨Reg.CHN_CTRL, 0, 3⟩
def Fd.CHN_OWT_REQ_owt_now : Fld := ⟨Reg.CHN_OWT_REQ, 0, 3⟩
def Fd.CHN_CELL_LIMITS_ov_limit : Fld := ⟨Reg.CHN_CELL_LIMITS, 16, 16⟩
def Fd.CHN_CELL_LIMITS_uv_limit : Fld := ⟨Reg.CHN_CELL_LIMITS, 0, 16⟩
def Fd.CHN_TEMP_LIMITS_t_hard : Fld := ⟨Reg.CHN_TEMP_LIMITS, 16, 16⟩
def Fd.CHN_TEMP_LIMITS_t_bal : Fld := ⟨Reg.CHN_TEMP_LIMITS, 0, 16⟩
def Fd.CHN_DEV_CTRL_dev_thr : Fld := ⟨Reg.CHN_DEV_CTRL, 24, 8⟩
def Fd.CHN_DEV_CTRL_pair_tol : Fld := ⟨Reg.CHN_DEV_CTRL, 16, 8⟩
def Fd.CHN_DEV_CTRL_sum_tol : Fld := ⟨Reg.CHN_DEV_CTRL, 8, 8⟩
def Fd.CHN_DEV_CTRL_sum_abs : Fld := ⟨Reg.CHN_DEV_CTRL, 0, 8⟩
def Fd.CHN_BAL_CTRL_bal_window : Fld := ⟨Reg.CHN_BAL_CTRL, 16, 16⟩
def Fd.CHN_BAL_CTRL_bal_dur : Fld := ⟨Reg.CHN_BAL_CTRL, 0, 4⟩
def Fd.CHN_SLEEP_CFG_interval : Fld := ⟨Reg.CHN_SLEEP_CFG, 0, 10⟩
def Fd.CHN_SLEEP_LIM_s_ov : Fld := ⟨Reg.CHN_SLEEP_LIM, 16, 16⟩
def Fd.CHN_SLEEP_LIM_s_uv : Fld := ⟨Reg.CHN_SLEEP_LIM, 0, 16⟩
def Fd.CHN_SLEEP_TEMP_s_temp : Fld := ⟨Reg.CHN_SLEEP_TEMP, 0, 16⟩
def Fd.CHN_STR_STAT_ring (s : Nat) : Fld := ⟨Reg.CHN_STR_STAT s, 28, 4⟩
def Fd.CHN_STR_STAT_break_seg (s : Nat) : Fld := ⟨Reg.CHN_STR_STAT s, 24, 4⟩
def Fd.CHN_STR_STAT_reach_a (s : Nat) : Fld := ⟨Reg.CHN_STR_STAT s, 20, 4⟩
def Fd.CHN_STR_STAT_reach_b (s : Nat) : Fld := ⟨Reg.CHN_STR_STAT s, 16, 4⟩
def Fd.CHN_STR_STAT_owt_due (s : Nat) : Fld := ⟨Reg.CHN_STR_STAT s, 7, 1⟩
def Fd.CHN_STR_STAT_owt_active (s : Nat) : Fld := ⟨Reg.CHN_STR_STAT s, 6, 1⟩
def Fd.CHN_STR_STAT_sum_flag (s : Nat) : Fld := ⟨Reg.CHN_STR_STAT s, 5, 1⟩
def Fd.CHN_STR_STAT_hot (s : Nat) : Fld := ⟨Reg.CHN_STR_STAT s, 4, 1⟩
def Fd.CHN_STR_STAT_n_fenced (s : Nat) : Fld := ⟨Reg.CHN_STR_STAT s, 0, 4⟩
def Fd.CHN_STR_SUM_sum (s : Nat) : Fld := ⟨Reg.CHN_STR_SUM s, 0, 32⟩
def Fd.CHN_STR_DIFF_val (s : Nat) : Fld := ⟨Reg.CHN_STR_DIFF s, 0, 32⟩
def Fd.CHN_STR_SNAP_LO_snap_lo (s : Nat) : Fld := ⟨Reg.CHN_STR_SNAP_LO s, 0, 32⟩
def Fd.CHN_STR_SNAP_HI_snap_hi (s : Nat) : Fld := ⟨Reg.CHN_STR_SNAP_HI s, 0, 32⟩
def Fd.CHN_STR_CNT_crc_err (s : Nat) : Fld := ⟨Reg.CHN_STR_CNT s, 16, 16⟩
def Fd.CHN_STR_CNT_failed (s : Nat) : Fld := ⟨Reg.CHN_STR_CNT s, 8, 8⟩
def Fd.CHN_STR_CNT_missing (s : Nat) : Fld := ⟨Reg.CHN_STR_CNT s, 0, 8⟩
def Fd.CHN_NODE_STAT_version (s : Nat) (d : Nat) : Fld := ⟨Reg.CHN_NODE_STAT s d, 30, 2⟩
def Fd.CHN_NODE_STAT_state (s : Nat) (d : Nat) : Fld := ⟨Reg.CHN_NODE_STAT s d, 28, 2⟩
def Fd.CHN_NODE_STAT_fence_cause (s : Nat) (d : Nat) : Fld := ⟨Reg.CHN_NODE_STAT s d, 24, 4⟩
def Fd.CHN_NODE_STAT_broken_tap (s : Nat) (d : Nat) : Fld := ⟨Reg.CHN_NODE_STAT s d, 19, 5⟩
def Fd.CHN_NODE_STAT_suspect_tap (s : Nat) (d : Nat) : Fld := ⟨Reg.CHN_NODE_STAT s d, 14, 5⟩
def Fd.CHN_NODE_STAT_missing_run (s : Nat) (d : Nat) : Fld := ⟨Reg.CHN_NODE_STAT s d, 0, 2⟩
def Fd.CHN_NODE_MEAS_temp (s : Nat) (d : Nat) : Fld := ⟨Reg.CHN_NODE_MEAS s d, 16, 16⟩
def Fd.CHN_NODE_MEAS_block (s : Nat) (d : Nat) : Fld := ⟨Reg.CHN_NODE_MEAS s d, 0, 16⟩
def Fd.CHN_NODE_BAL_sent (s : Nat) (d : Nat) : Fld := ⟨Reg.CHN_NODE_BAL s d, 16, 16⟩
def Fd.CHN_NODE_BAL_mask (s : Nat) (d : Nat) : Fld := ⟨Reg.CHN_NODE_BAL s d, 0, 16⟩
def Fd.CHN_NODE_ID_hw_id (s : Nat) (d : Nat) : Fld := ⟨Reg.CHN_NODE_ID s d, 0, 32⟩
def Fd.CHN_CELL_stale (s : Nat) (c : Nat) : Fld := ⟨Reg.CHN_CELL s c, 19, 1⟩
def Fd.CHN_CELL_subst (s : Nat) (c : Nat) : Fld := ⟨Reg.CHN_CELL s c, 18, 1⟩
def Fd.CHN_CELL_biased (s : Nat) (c : Nat) : Fld := ⟨Reg.CHN_CELL s c, 17, 1⟩
def Fd.CHN_CELL_suspect (s : Nat) (c : Nat) : Fld := ⟨Reg.CHN_CELL s c, 16, 1⟩
def Fd.CHN_CELL_volt (s : Nat) (c : Nat) : Fld := ⟨Reg.CHN_CELL s c, 0, 16⟩
def Fd.KPR_CHWAKE_CTRL_wake_en : Fld := ⟨Reg.KPR_CHWAKE_CTRL, 0, 1⟩
def Fd.KPR_CHWAKE_STAT_rejected : Fld := ⟨Reg.KPR_CHWAKE_STAT, 24, 8⟩
def Fd.KPR_CHWAKE_STAT_accepted : Fld := ⟨Reg.KPR_CHWAKE_STAT, 16, 8⟩
def Fd.KPR_CHWAKE_STAT_port : Fld := ⟨Reg.KPR_CHWAKE_STAT, 8, 3⟩
def Fd.KPR_CHWAKE_STAT_limiting : Fld := ⟨Reg.KPR_CHWAKE_STAT, 2, 1⟩
def Fd.KPR_CHWAKE_STAT_host_wake : Fld := ⟨Reg.KPR_CHWAKE_STAT, 1, 1⟩
def Fd.EST_CTRL_calib : Fld := ⟨Reg.EST_CTRL, 4, 3⟩
def Fd.EST_CTRL_discard_anchor : Fld := ⟨Reg.EST_CTRL, 0, 3⟩
def Fd.EST_NOISE_sigma_z : Fld := ⟨Reg.EST_NOISE, 16, 16⟩
def Fd.EST_NOISE_sigma_v1 : Fld := ⟨Reg.EST_NOISE, 8, 8⟩
def Fd.EST_NOISE_sigma_v : Fld := ⟨Reg.EST_NOISE, 0, 8⟩
def Fd.EST_CHARGE_v_cv : Fld := ⟨Reg.EST_CHARGE, 16, 16⟩
def Fd.EST_CHARGE_taper_div : Fld := ⟨Reg.EST_CHARGE, 8, 8⟩
def Fd.EST_TIMES_taper_time : Fld := ⟨Reg.EST_TIMES, 16, 16⟩
def Fd.EST_TIMES_rest_time : Fld := ⟨Reg.EST_TIMES, 0, 16⟩
def Fd.EST_LIMITS_v_cutoff : Fld := ⟨Reg.EST_LIMITS, 16, 16⟩
def Fd.EST_LIMITS_rest_i : Fld := ⟨Reg.EST_LIMITS, 0, 16⟩
def Fd.EST_CONFLICT_div_thr : Fld := ⟨Reg.EST_CONFLICT, 24, 8⟩
def Fd.EST_CONFLICT_div_time : Fld := ⟨Reg.EST_CONFLICT, 16, 8⟩
def Fd.EST_CONFLICT_hold_thr : Fld := ⟨Reg.EST_CONFLICT, 8, 8⟩
def Fd.EST_CONFLICT_conv : Fld := ⟨Reg.EST_CONFLICT, 0, 8⟩
def Fd.EST_ANCHOR_AGE_anchor_age : Fld := ⟨Reg.EST_ANCHOR_AGE, 0, 8⟩
def Fd.EST_STR_SOC_soc_str (s : Nat) : Fld := ⟨Reg.EST_STR_SOC s, 16, 16⟩
def Fd.EST_STR_SOC_soc_rep (s : Nat) : Fld := ⟨Reg.EST_STR_SOC s, 0, 16⟩
def Fd.EST_STR_CC_div (s : Nat) : Fld := ⟨Reg.EST_STR_CC s, 16, 16⟩
def Fd.EST_STR_CC_soc_cc (s : Nat) : Fld := ⟨Reg.EST_STR_CC s, 0, 16⟩
def Fd.EST_STR_FLAG_track_full (s : Nat) : Fld := ⟨Reg.EST_STR_FLAG s, 11, 1⟩
def Fd.EST_STR_FLAG_cur_flag (s : Nat) : Fld := ⟨Reg.EST_STR_FLAG s, 10, 1⟩
def Fd.EST_STR_FLAG_gap (s : Nat) : Fld := ⟨Reg.EST_STR_FLAG s, 9, 1⟩
def Fd.EST_STR_FLAG_cutoff (s : Nat) : Fld := ⟨Reg.EST_STR_FLAG s, 8, 1⟩
def Fd.EST_STR_FLAG_eoc (s : Nat) : Fld := ⟨Reg.EST_STR_FLAG s, 7, 1⟩
def Fd.EST_STR_FLAG_conflict (s : Nat) : Fld := ⟨Reg.EST_STR_FLAG s, 6, 1⟩
def Fd.EST_STR_FLAG_suspect (s : Nat) : Fld := ⟨Reg.EST_STR_FLAG s, 5, 1⟩
def Fd.EST_STR_FLAG_at_rest (s : Nat) : Fld := ⟨Reg.EST_STR_FLAG s, 4, 1⟩
def Fd.EST_STR_FLAG_cv (s : Nat) : Fld := ⟨Reg.EST_STR_FLAG s, 3, 1⟩
def Fd.EST_STR_FLAG_discharging (s : Nat) : Fld := ⟨Reg.EST_STR_FLAG s, 2, 1⟩
def Fd.EST_STR_FLAG_init (s : Nat) : Fld := ⟨Reg.EST_STR_FLAG s, 1, 1⟩
def Fd.EST_STR_FLAG_valid (s : Nat) : Fld := ⟨Reg.EST_STR_FLAG s, 0, 1⟩
def Fd.EST_STR_TAPER_taper_count (s : Nat) : Fld := ⟨Reg.EST_STR_TAPER s, 0, 16⟩
def Fd.EST_STR_REST_rest_count (s : Nat) : Fld := ⟨Reg.EST_STR_REST s, 0, 20⟩
def Fd.EST_STR_QACC_LO_qacc_lo (s : Nat) : Fld := ⟨Reg.EST_STR_QACC_LO s, 0, 32⟩
def Fd.EST_STR_QACC_HI_qacc_hi (s : Nat) : Fld := ⟨Reg.EST_STR_QACC_HI s, 0, 32⟩
def Fd.EST_STR_QSNAP_LO_qsnap_lo (s : Nat) : Fld := ⟨Reg.EST_STR_QSNAP_LO s, 0, 32⟩
def Fd.EST_STR_QSNAP_HI_qsnap_hi (s : Nat) : Fld := ⟨Reg.EST_STR_QSNAP_HI s, 0, 32⟩
def Fd.EST_STR_ISNAP_val (s : Nat) : Fld := ⟨Reg.EST_STR_ISNAP s, 0, 32⟩
def Fd.EST_STR_ICV_val (s : Nat) : Fld := ⟨Reg.EST_STR_ICV s, 0, 32⟩
def Fd.EST_STR_CAP_cap (s : Nat) : Fld := ⟨Reg.EST_STR_CAP s, 16, 16⟩
def Fd.EST_STR_CAP_source (s : Nat) : Fld := ⟨Reg.EST_STR_CAP s, 14, 2⟩
def Fd.EST_STR_ANCHOR_anchor_soc (s : Nat) : Fld := ⟨Reg.EST_STR_ANCHOR s, 0, 16⟩
def Fd.EST_STR_TRACK_q_dis (s : Nat) : Fld := ⟨Reg.EST_STR_TRACK s, 16, 16⟩
def Fd.EST_STR_TRACK_q_chg (s : Nat) : Fld := ⟨Reg.EST_STR_TRACK s, 0, 16⟩
def Fd.EST_MODEL_CTRL_cap_rated (s : Nat) : Fld := ⟨Reg.EST_MODEL_CTRL s, 16, 16⟩
def Fd.EST_MODEL_CTRL_valid (s : Nat) : Fld := ⟨Reg.EST_MODEL_CTRL s, 0, 1⟩
def Fd.EST_MODEL_TEMP_temps (s : Nat) : Fld := ⟨Reg.EST_MODEL_TEMP s, 0, 32⟩
def Fd.EST_MODEL_R0_A_r0_t1 (s : Nat) : Fld := ⟨Reg.EST_MODEL_R0_A s, 16, 16⟩
def Fd.EST_MODEL_R0_A_r0_t0 (s : Nat) : Fld := ⟨Reg.EST_MODEL_R0_A s, 0, 16⟩
def Fd.EST_MODEL_R0_B_r0_t3 (s : Nat) : Fld := ⟨Reg.EST_MODEL_R0_B s, 16, 16⟩
def Fd.EST_MODEL_R0_B_r0_t2 (s : Nat) : Fld := ⟨Reg.EST_MODEL_R0_B s, 0, 16⟩
def Fd.EST_MODEL_RC_r1 (s : Nat) : Fld := ⟨Reg.EST_MODEL_RC s, 16, 16⟩
def Fd.EST_MODEL_RC_tau1 (s : Nat) : Fld := ⟨Reg.EST_MODEL_RC s, 0, 16⟩
def Fd.EST_OCV_odd (s : Nat) (i : Nat) : Fld := ⟨Reg.EST_OCV s i, 16, 16⟩
def Fd.EST_OCV_even (s : Nat) (i : Nat) : Fld := ⟨Reg.EST_OCV s i, 0, 16⟩
def Fd.KPR_CAPSLOT_STAT_store_fail : Fld := ⟨Reg.KPR_CAPSLOT_STAT, 5, 1⟩
def Fd.KPR_CAPSLOT_STAT_verify_fail : Fld := ⟨Reg.KPR_CAPSLOT_STAT, 4, 1⟩
def Fd.KPR_CAPSLOT_STAT_busy : Fld := ⟨Reg.KPR_CAPSLOT_STAT, 3, 1⟩
def Fd.KPR_CAPSLOT_STAT_valid_b : Fld := ⟨Reg.KPR_CAPSLOT_STAT, 2, 1⟩
def Fd.KPR_CAPSLOT_STAT_valid_a : Fld := ⟨Reg.KPR_CAPSLOT_STAT, 1, 1⟩
def Fd.KPR_CAPSLOT_STAT_current : Fld := ⟨Reg.KPR_CAPSLOT_STAT, 0, 1⟩
def Fd.KPR_CAPSLOT_SEQ_seq : Fld := ⟨Reg.KPR_CAPSLOT_SEQ, 0, 32⟩
def Fd.LKS_CTRL_pref_slot : Fld := ⟨Reg.LKS_CTRL, 10, 2⟩
def Fd.LKS_CTRL_pair_mode : Fld := ⟨Reg.LKS_CTRL, 9, 1⟩
def Fd.LKS_CTRL_clear_counts : Fld := ⟨Reg.LKS_CTRL, 4, 1⟩
def Fd.LKS_CTRL_resync : Fld := ⟨Reg.LKS_CTRL, 3, 1⟩
def Fd.LKS_CTRL_test_en : Fld := ⟨Reg.LKS_CTRL, 2, 1⟩
def Fd.LKS_STAT_claim_own : Fld := ⟨Reg.LKS_STAT, 28, 4⟩
def Fd.LKS_STAT_claim_partner : Fld := ⟨Reg.LKS_STAT, 24, 4⟩
def Fd.LKS_STAT_partner_valid : Fld := ⟨Reg.LKS_STAT, 23, 1⟩
def Fd.LKS_STAT_own_valid : Fld := ⟨Reg.LKS_STAT, 22, 1⟩
def Fd.LKS_STAT_role : Fld := ⟨Reg.LKS_STAT, 20, 2⟩
def Fd.LKS_STAT_synced : Fld := ⟨Reg.LKS_STAT, 19, 1⟩
def Fd.LKS_STAT_single : Fld := ⟨Reg.LKS_STAT, 18, 1⟩
def Fd.LKS_STAT_slot_id : Fld := ⟨Reg.LKS_STAT, 0, 2⟩
def Fd.LKS_HEALTH_partner_items : Fld := ⟨Reg.LKS_HEALTH, 16, 9⟩
def Fd.LKS_HEALTH_own_items : Fld := ⟨Reg.LKS_HEALTH, 0, 9⟩
def Fd.LKS_PHASE_phase_diff : Fld := ⟨Reg.LKS_PHASE, 16, 16⟩
def Fd.LKS_CNT_A_exch_miss : Fld := ⟨Reg.LKS_CNT_A, 16, 16⟩
def Fd.LKS_CNT_A_mismatch : Fld := ⟨Reg.LKS_CNT_A, 0, 16⟩
def Fd.LKS_CNT_B_resyncs : Fld := ⟨Reg.LKS_CNT_B, 16, 16⟩
def Fd.LKS_CNT_B_claim_changes : Fld := ⟨Reg.LKS_CNT_B, 0, 16⟩
def Fd.LKS_ADC_adc_fail : Fld := ⟨Reg.LKS_ADC, 0, 24⟩
def Fd.LKS_ADC_TOL_adc_tol : Fld := ⟨Reg.LKS_ADC_TOL, 0, 16⟩
def Fd.LKS_TEST_next_core : Fld := ⟨Reg.LKS_TEST, 26, 6⟩
def Fd.LKS_TEST_last_core : Fld := ⟨Reg.LKS_TEST, 20, 6⟩
def Fd.LKS_TEST_last_fail : Fld := ⟨Reg.LKS_TEST, 19, 1⟩
def Fd.LKS_TEST_running : Fld := ⟨Reg.LKS_TEST, 18, 1⟩
def Fd.LKS_TEST_interval : Fld := ⟨Reg.LKS_TEST, 0, 16⟩
def Fd.LKS_GRACE_compute_grace : Fld := ⟨Reg.LKS_GRACE, 0, 8⟩
def Fd.LKS_REPORT_OWN_word (i : Nat) : Fld := ⟨Reg.LKS_REPORT_OWN i, 0, 32⟩
def Fd.LKS_REPORT_PARTNER_word (i : Nat) : Fld := ⟨Reg.LKS_REPORT_PARTNER i, 0, 32⟩
def Fd.STL_LANE_STAT_state (n : Nat) : Fld := ⟨Reg.STL_LANE_STAT n, 28, 4⟩
def Fd.STL_LANE_STAT_version (n : Nat) : Fld := ⟨Reg.STL_LANE_STAT n, 26, 2⟩
def Fd.STL_LANE_STAT_decl_ok (n : Nat) : Fld := ⟨Reg.STL_LANE_STAT n, 25, 1⟩
def Fd.STL_LANE_STAT_test_fail (n : Nat) : Fld := ⟨Reg.STL_LANE_STAT n, 24, 1⟩
def Fd.STL_LANE_STAT_cause (n : Nat) : Fld := ⟨Reg.STL_LANE_STAT n, 20, 4⟩
def Fd.STL_LANE_STAT_unreach (n : Nat) : Fld := ⟨Reg.STL_LANE_STAT n, 19, 1⟩
def Fd.STL_LANE_STAT_rtt_ns (n : Nat) : Fld := ⟨Reg.STL_LANE_STAT n, 0, 16⟩
def Fd.STL_LANE_CTRL_retrain (n : Nat) : Fld := ⟨Reg.STL_LANE_CTRL n, 0, 1⟩
def Fd.STL_LANE_CNT_crc_err (n : Nat) : Fld := ⟨Reg.STL_LANE_CNT n, 16, 16⟩
def Fd.STL_LANE_CNT_gaps (n : Nat) : Fld := ⟨Reg.STL_LANE_CNT n, 8, 8⟩
def Fd.STL_LANE_CNT_trainings (n : Nat) : Fld := ⟨Reg.STL_LANE_CNT n, 0, 8⟩
def Fd.STL_LANE_BER_rx_err (n : Nat) : Fld := ⟨Reg.STL_LANE_BER n, 16, 16⟩
def Fd.STL_LANE_BER_stage_err (n : Nat) : Fld := ⟨Reg.STL_LANE_BER n, 0, 8⟩
def Fd.STL_DECL_decl (n : Nat) (i : Nat) : Fld := ⟨Reg.STL_DECL n i, 0, 32⟩
def Fd.STL_BERT_CTRL_commission : Fld := ⟨Reg.STL_BERT_CTRL, 1, 1⟩
def Fd.STL_BERT_CTRL_abort : Fld := ⟨Reg.STL_BERT_CTRL, 0, 1⟩
def Fd.STL_BERT_STAT_hours : Fld := ⟨Reg.STL_BERT_STAT, 16, 16⟩
def Fd.STL_BERT_STAT_overdue : Fld := ⟨Reg.STL_BERT_STAT, 3, 1⟩
def Fd.STL_BERT_STAT_phase : Fld := ⟨Reg.STL_BERT_STAT, 0, 3⟩
def Fd.WGL_LINK_STAT_state (t : Nat) : Fld := ⟨Reg.WGL_LINK_STAT t, 28, 4⟩
def Fd.WGL_LINK_STAT_test_fail (t : Nat) : Fld := ⟨Reg.WGL_LINK_STAT t, 24, 1⟩
def Fd.WGL_LINK_STAT_cause (t : Nat) : Fld := ⟨Reg.WGL_LINK_STAT t, 20, 4⟩
def Fd.WGL_LINK_STAT_rtt_ns (t : Nat) : Fld := ⟨Reg.WGL_LINK_STAT t, 0, 16⟩
def Fd.WGL_LINK_CNT_crc_err (t : Nat) : Fld := ⟨Reg.WGL_LINK_CNT t, 16, 16⟩
def Fd.WGL_LINK_CNT_over_limit (t : Nat) : Fld := ⟨Reg.WGL_LINK_CNT t, 8, 8⟩
def Fd.WGL_LINK_CNT_trainings (t : Nat) : Fld := ⟨Reg.WGL_LINK_CNT t, 0, 8⟩
def Fd.WGL_LINK_BER_err (t : Nat) : Fld := ⟨Reg.WGL_LINK_BER t, 0, 32⟩
def Fd.LKS_LOCK_STAT_state : Fld := ⟨Reg.LKS_LOCK_STAT, 28, 4⟩
def Fd.LKS_LOCK_STAT_lanes_up : Fld := ⟨Reg.LKS_LOCK_STAT, 24, 4⟩
def Fd.LKS_LOCK_STAT_cause : Fld := ⟨Reg.LKS_LOCK_STAT, 20, 4⟩
def Fd.LKS_LOCK_STAT_rtt_ns : Fld := ⟨Reg.LKS_LOCK_STAT, 0, 16⟩
def Fd.LKS_LOCK_CNT_crc_err : Fld := ⟨Reg.LKS_LOCK_CNT, 16, 16⟩
def Fd.LKS_LOCK_CNT_resent : Fld := ⟨Reg.LKS_LOCK_CNT, 0, 16⟩
def Fd.LKS_LOCK_BER_err (l : Nat) : Fld := ⟨Reg.LKS_LOCK_BER l, 0, 32⟩
def Fd.MGP_CTRL_session_idle : Fld := ⟨Reg.MGP_CTRL, 16, 10⟩
def Fd.MGP_CTRL_lease : Fld := ⟨Reg.MGP_CTRL, 0, 6⟩
def Fd.MGP_SEM_STAT_remain_ms : Fld := ⟨Reg.MGP_SEM_STAT, 16, 16⟩
def Fd.MGP_SEM_STAT_port : Fld := ⟨Reg.MGP_SEM_STAT, 4, 2⟩
def Fd.MGP_SEM_STAT_held : Fld := ⟨Reg.MGP_SEM_STAT, 0, 1⟩
def Fd.MGP_SEM_SESSION_session : Fld := ⟨Reg.MGP_SEM_SESSION, 0, 32⟩
def Fd.MGP_SEM_CNT_seized : Fld := ⟨Reg.MGP_SEM_CNT, 16, 16⟩
def Fd.MGP_SEM_CNT_expired : Fld := ⟨Reg.MGP_SEM_CNT, 0, 16⟩
def Fd.MGP_PORT_CTRL_udp_port (p : Nat) : Fld := ⟨Reg.MGP_PORT_CTRL p, 16, 16⟩
def Fd.MGP_PORT_CTRL_vlan (p : Nat) : Fld := ⟨Reg.MGP_PORT_CTRL p, 0, 12⟩
def Fd.MGP_PORT_CFG_mtu (p : Nat) : Fld := ⟨Reg.MGP_PORT_CFG p, 16, 16⟩
def Fd.MGP_PORT_CFG_window (p : Nat) : Fld := ⟨Reg.MGP_PORT_CFG p, 0, 6⟩
def Fd.MGP_IP4_addr (p : Nat) : Fld := ⟨Reg.MGP_IP4 p, 0, 32⟩
def Fd.MGP_IP4_PFX_prefix (p : Nat) : Fld := ⟨Reg.MGP_IP4_PFX p, 0, 6⟩
def Fd.MGP_IP6_addr (p : Nat) (i : Nat) : Fld := ⟨Reg.MGP_IP6 p i, 0, 32⟩
def Fd.MGP_IP6_PFX_prefix (p : Nat) : Fld := ⟨Reg.MGP_IP6_PFX p, 0, 8⟩
def Fd.MGP_PORT_STAT_link (p : Nat) : Fld := ⟨Reg.MGP_PORT_STAT p, 31, 1⟩
def Fd.MGP_PORT_STAT_module_ok (p : Nat) : Fld := ⟨Reg.MGP_PORT_STAT p, 30, 1⟩
def Fd.MGP_PORT_STAT_sessions (p : Nat) : Fld := ⟨Reg.MGP_PORT_STAT p, 24, 3⟩
def Fd.MGP_PORT_STAT_in_window (p : Nat) : Fld := ⟨Reg.MGP_PORT_STAT p, 8, 6⟩
def Fd.MGP_PORT_CNT_busy (p : Nat) : Fld := ⟨Reg.MGP_PORT_CNT p, 16, 16⟩
def Fd.MGP_PORT_CNT_bad_mac (p : Nat) : Fld := ⟨Reg.MGP_PORT_CNT p, 0, 16⟩
def Fd.SEC_BOOT_rollback : Fld := ⟨Reg.SEC_BOOT, 16, 7⟩
def Fd.SEC_BOOT_trial : Fld := ⟨Reg.SEC_BOOT, 6, 2⟩
def Fd.SEC_BOOT_next_bank : Fld := ⟨Reg.SEC_BOOT, 5, 1⟩
def Fd.SEC_BOOT_bank : Fld := ⟨Reg.SEC_BOOT, 4, 1⟩
def Fd.SEC_BOOT_fallback : Fld := ⟨Reg.SEC_BOOT, 1, 1⟩
def Fd.SEC_BOOT_recovery : Fld := ⟨Reg.SEC_BOOT, 0, 1⟩
def Fd.SEC_FW_A_baseline : Fld := ⟨Reg.SEC_FW_A, 0, 32⟩
def Fd.SEC_FW_B_baseline : Fld := ⟨Reg.SEC_FW_B, 0, 32⟩
def Fd.SEC_FW_STAT_cause : Fld := ⟨Reg.SEC_FW_STAT, 16, 8⟩
def Fd.SEC_FW_STAT_result : Fld := ⟨Reg.SEC_FW_STAT, 8, 8⟩
def Fd.SEC_FW_STAT_op : Fld := ⟨Reg.SEC_FW_STAT, 1, 1⟩
def Fd.SEC_FW_STAT_busy : Fld := ⟨Reg.SEC_FW_STAT, 0, 1⟩
def Fd.SEC_KEYS_present : Fld := ⟨Reg.SEC_KEYS, 1, 20⟩
def Fd.SEC_KEYS_root : Fld := ⟨Reg.SEC_KEYS, 0, 1⟩
def Fd.SEC_SESSIONS_maker : Fld := ⟨Reg.SEC_SESSIONS, 16, 8⟩
def Fd.SEC_SESSIONS_installer : Fld := ⟨Reg.SEC_SESSIONS, 8, 8⟩
def Fd.SEC_SESSIONS_operator : Fld := ⟨Reg.SEC_SESSIONS, 0, 8⟩
def Fd.SEC_AUTH_CNT_failed : Fld := ⟨Reg.SEC_AUTH_CNT, 16, 16⟩
def Fd.SEC_AUTH_CNT_opened : Fld := ⟨Reg.SEC_AUTH_CNT, 0, 16⟩
def Fd.SEC_AUDIT_LO_next_lo : Fld := ⟨Reg.SEC_AUDIT_LO, 0, 32⟩
def Fd.SEC_AUDIT_HI_next_hi : Fld := ⟨Reg.SEC_AUDIT_HI, 0, 32⟩
def Fd.SEC_AUDIT_STAT_staged : Fld := ⟨Reg.SEC_AUDIT_STAT, 16, 8⟩
def Fd.SEC_AUDIT_STAT_full : Fld := ⟨Reg.SEC_AUDIT_STAT, 0, 1⟩
def Fd.CLK_SRC_STAT_xt_fallback : Fld := ⟨Reg.CLK_SRC_STAT, 7, 1⟩
def Fd.CLK_SRC_STAT_ref : Fld := ⟨Reg.CLK_SRC_STAT, 5, 2⟩
def Fd.CLK_SRC_STAT_xt1_stable : Fld := ⟨Reg.CLK_SRC_STAT, 4, 1⟩
def Fd.CLK_SRC_STAT_xt0_stable : Fld := ⟨Reg.CLK_SRC_STAT, 3, 1⟩
def Fd.CLK_SRC_STAT_pll2_lock : Fld := ⟨Reg.CLK_SRC_STAT, 2, 1⟩
def Fd.CLK_SRC_STAT_pll1_lock : Fld := ⟨Reg.CLK_SRC_STAT, 1, 1⟩
def Fd.CLK_SRC_STAT_pll0_lock : Fld := ⟨Reg.CLK_SRC_STAT, 0, 1⟩
def Fd.CLK_MUX_STAT_sup_on_pll : Fld := ⟨Reg.CLK_MUX_STAT, 2, 1⟩
def Fd.CLK_MUX_STAT_eng_on_pll : Fld := ⟨Reg.CLK_MUX_STAT, 1, 1⟩
def Fd.CLK_MUX_STAT_switching : Fld := ⟨Reg.CLK_MUX_STAT, 0, 1⟩
def Fd.CLK_PSTATE_refused : Fld := ⟨Reg.CLK_PSTATE, 7, 1⟩
def Fd.CLK_PSTATE_state : Fld := ⟨Reg.CLK_PSTATE, 3, 2⟩
def Fd.CLK_PSTATE_req : Fld := ⟨Reg.CLK_PSTATE, 0, 2⟩
def Fd.CLK_ADN_LOSS_rail_losses : Fld := ⟨Reg.CLK_ADN_LOSS, 16, 16⟩
def Fd.CLK_ADN_LOSS_pll1_losses : Fld := ⟨Reg.CLK_ADN_LOSS, 0, 16⟩
def Fd.KPR_CLKMON_STAT_attempts : Fld := ⟨Reg.KPR_CLKMON_STAT, 26, 2⟩
def Fd.KPR_CLKMON_STAT_lockout : Fld := ⟨Reg.KPR_CLKMON_STAT, 25, 1⟩
def Fd.KPR_CLKMON_STAT_wait : Fld := ⟨Reg.KPR_CLKMON_STAT, 24, 1⟩
def Fd.KPR_CLKMON_STAT_last_cause : Fld := ⟨Reg.KPR_CLKMON_STAT, 16, 4⟩
def Fd.KPR_CLKMON_STAT_trips : Fld := ⟨Reg.KPR_CLKMON_STAT, 0, 16⟩
def Fd.KPR_CLKMON_GAP_gap : Fld := ⟨Reg.KPR_CLKMON_GAP, 0, 32⟩
def Fd.KPR_XT_AMP_xt1_mv : Fld := ⟨Reg.KPR_XT_AMP, 16, 16⟩
def Fd.KPR_XT_AMP_xt0_mv : Fld := ⟨Reg.KPR_XT_AMP, 0, 16⟩
def Fd.KPR_CMP_ZONE_ov_thr (z : Nat) : Fld := ⟨Reg.KPR_CMP_ZONE z, 22, 10⟩
def Fd.KPR_CMP_ZONE_uv_thr (z : Nat) : Fld := ⟨Reg.KPR_CMP_ZONE z, 12, 10⟩
def Fd.KPR_CMP_ZONE_armed (z : Nat) : Fld := ⟨Reg.KPR_CMP_ZONE z, 4, 1⟩
def Fd.KPR_CMP_ZONE_ov_trip (z : Nat) : Fld := ⟨Reg.KPR_CMP_ZONE z, 3, 1⟩
def Fd.KPR_CMP_ZONE_uv_trip (z : Nat) : Fld := ⟨Reg.KPR_CMP_ZONE z, 2, 1⟩
def Fd.KPR_CMP_ZONE_ov_seen (z : Nat) : Fld := ⟨Reg.KPR_CMP_ZONE z, 1, 1⟩
def Fd.KPR_CMP_ZONE_uv_seen (z : Nat) : Fld := ⟨Reg.KPR_CMP_ZONE z, 0, 1⟩
def Fd.KPR_CMP_STR_oc_thr (s : Nat) : Fld := ⟨Reg.KPR_CMP_STR s, 16, 8⟩
def Fd.KPR_CMP_STR_oc_trip (s : Nat) : Fld := ⟨Reg.KPR_CMP_STR s, 2, 1⟩
def Fd.KPR_CMP_STR_oc_seen (s : Nat) : Fld := ⟨Reg.KPR_CMP_STR s, 1, 1⟩
def Fd.KPR_SUPPLY_STAT_aux_mv : Fld := ⟨Reg.KPR_SUPPLY_STAT, 16, 16⟩
def Fd.KPR_SUPPLY_STAT_pf_seen : Fld := ⟨Reg.KPR_SUPPLY_STAT, 6, 1⟩
def Fd.KPR_SUPPLY_STAT_bow_seen : Fld := ⟨Reg.KPR_SUPPLY_STAT, 5, 1⟩
def Fd.KPR_SUPPLY_STAT_bow : Fld := ⟨Reg.KPR_SUPPLY_STAT, 4, 1⟩
def Fd.KPR_SUPPLY_CNT_pf_count : Fld := ⟨Reg.KPR_SUPPLY_CNT, 16, 16⟩
def Fd.KPR_SUPPLY_CNT_bow_count : Fld := ⟨Reg.KPR_SUPPLY_CNT, 0, 16⟩
def Fd.KPR_HOLDUP_last_ms : Fld := ⟨Reg.KPR_HOLDUP, 0, 16⟩
def Fd.KPR_WAKE_CTRL_timer_s : Fld := ⟨Reg.KPR_WAKE_CTRL, 16, 16⟩
def Fd.KPR_WAKE_CTRL_oc_en : Fld := ⟨Reg.KPR_WAKE_CTRL, 5, 1⟩
def Fd.KPR_WAKE_CTRL_ext_en : Fld := ⟨Reg.KPR_WAKE_CTRL, 4, 1⟩
def Fd.KPR_WAKE_CTRL_usb_en : Fld := ⟨Reg.KPR_WAKE_CTRL, 3, 1⟩
def Fd.KPR_WAKE_CTRL_m1_en : Fld := ⟨Reg.KPR_WAKE_CTRL, 2, 1⟩
def Fd.KPR_WAKE_CTRL_m0_en : Fld := ⟨Reg.KPR_WAKE_CTRL, 1, 1⟩
def Fd.KPR_WAKE_STAT_wakes : Fld := ⟨Reg.KPR_WAKE_STAT, 16, 8⟩
def Fd.KPR_WAKE_STAT_cause : Fld := ⟨Reg.KPR_WAKE_STAT, 0, 4⟩
def Fd.FLT_STAT_count (b : Nat) : Fld := ⟨Reg.FLT_STAT b, 16, 16⟩
def Fd.FLT_STAT_halt (b : Nat) : Fld := ⟨Reg.FLT_STAT b, 12, 1⟩
def Fd.FLT_STAT_own_pend (b : Nat) : Fld := ⟨Reg.FLT_STAT b, 8, 3⟩
def Fd.FLT_STAT_pair_pend (b : Nat) : Fld := ⟨Reg.FLT_STAT b, 0, 3⟩
def Fd.FLT_CFG_mode (b : Nat) : Fld := ⟨Reg.FLT_CFG b, 8, 1⟩
def Fd.FLT_CFG_irq_en (b : Nat) : Fld := ⟨Reg.FLT_CFG b, 0, 4⟩
def Fd.FLT_CTRL_clear_capture (b : Nat) : Fld := ⟨Reg.FLT_CTRL b, 0, 1⟩
def Fd.FLT_FIRST_INFO_code (b : Nat) : Fld := ⟨Reg.FLT_FIRST_INFO b, 24, 8⟩
def Fd.FLT_FIRST_INFO_class (b : Nat) : Fld := ⟨Reg.FLT_FIRST_INFO b, 22, 2⟩
def Fd.FLT_FIRST_INFO_escalated (b : Nat) : Fld := ⟨Reg.FLT_FIRST_INFO b, 21, 1⟩
def Fd.FLT_FIRST_INFO_own (b : Nat) : Fld := ⟨Reg.FLT_FIRST_INFO b, 20, 1⟩
def Fd.FLT_FIRST_INFO_valid (b : Nat) : Fld := ⟨Reg.FLT_FIRST_INFO b, 19, 1⟩
def Fd.FLT_FIRST_INFO_access (b : Nat) : Fld := ⟨Reg.FLT_FIRST_INFO b, 16, 3⟩
def Fd.FLT_FIRST_INFO_unit (b : Nat) : Fld := ⟨Reg.FLT_FIRST_INFO b, 0, 16⟩
def Fd.FLT_FIRST_ADDR_addr (b : Nat) : Fld := ⟨Reg.FLT_FIRST_ADDR b, 0, 32⟩
def Fd.FLT_FIRST_TIME_LO_time_lo (b : Nat) : Fld := ⟨Reg.FLT_FIRST_TIME_LO b, 0, 32⟩
def Fd.FLT_FIRST_TIME_HI_master (b : Nat) : Fld := ⟨Reg.FLT_FIRST_TIME_HI b, 24, 8⟩
def Fd.FLT_FIRST_TIME_HI_time_hi (b : Nat) : Fld := ⟨Reg.FLT_FIRST_TIME_HI b, 0, 16⟩
def Fd.FLT_HIST_PTR_next (b : Nat) : Fld := ⟨Reg.FLT_HIST_PTR b, 0, 3⟩
def Fd.FLT_HIST_INFO_info (b : Nat) (i : Nat) : Fld := ⟨Reg.FLT_HIST_INFO b i, 0, 32⟩
def Fd.FLT_HIST_TIME_LO_time_lo (b : Nat) (i : Nat) : Fld := ⟨Reg.FLT_HIST_TIME_LO b i, 0, 32⟩
def Fd.FLT_HIST_TIME_HI_time_hi (b : Nat) (i : Nat) : Fld := ⟨Reg.FLT_HIST_TIME_HI b i, 0, 16⟩
def Fd.KPR_RST_CTRL_req : Fld := ⟨Reg.KPR_RST_CTRL, 0, 4⟩
def Fd.KPR_RST_STAT_in_reset : Fld := ⟨Reg.KPR_RST_STAT, 28, 4⟩
def Fd.KPR_RST_STAT_cause_mem : Fld := ⟨Reg.KPR_RST_STAT, 12, 4⟩
def Fd.KPR_RST_STAT_cause_links : Fld := ⟨Reg.KPR_RST_STAT, 8, 4⟩
def Fd.KPR_RST_STAT_cause_compute : Fld := ⟨Reg.KPR_RST_STAT, 4, 4⟩
def Fd.KPR_RST_STAT_cause_loop : Fld := ⟨Reg.KPR_RST_STAT, 0, 4⟩
def Fd.KPR_RST_CNT_loop : Fld := ⟨Reg.KPR_RST_CNT, 24, 8⟩
def Fd.KPR_RST_CNT_compute : Fld := ⟨Reg.KPR_RST_CNT, 16, 8⟩
def Fd.KPR_RST_CNT_links : Fld := ⟨Reg.KPR_RST_CNT, 8, 8⟩
def Fd.KPR_RST_CNT_memory : Fld := ⟨Reg.KPR_RST_CNT, 0, 8⟩
def Fd.LKS_HB_beat (c : Nat) : Fld := ⟨Reg.LKS_HB c, 0, 1⟩
def Fd.LKS_WDOG_CTRL_hb_reset : Fld := ⟨Reg.LKS_WDOG_CTRL, 16, 16⟩
def Fd.LKS_WDOG_CTRL_hb_miss : Fld := ⟨Reg.LKS_WDOG_CTRL, 8, 8⟩
def Fd.LKS_WDOG_CTRL_hb_expect : Fld := ⟨Reg.LKS_WDOG_CTRL, 0, 4⟩
def Fd.LKS_WDOG_STAT_wd_resets : Fld := ⟨Reg.LKS_WDOG_STAT, 16, 16⟩
def Fd.LKS_WDOG_STAT_missing : Fld := ⟨Reg.LKS_WDOG_STAT, 12, 4⟩
def Fd.LKS_WDOG_STAT_booting : Fld := ⟨Reg.LKS_WDOG_STAT, 0, 1⟩
def Fd.LKS_DUMP_CTRL_request : Fld := ⟨Reg.LKS_DUMP_CTRL, 0, 1⟩
def Fd.LKS_DUMP_STAT_dumps : Fld := ⟨Reg.LKS_DUMP_STAT, 16, 16⟩
def Fd.LKS_DUMP_STAT_timeouts : Fld := ⟨Reg.LKS_DUMP_STAT, 8, 8⟩
def Fd.LKS_DUMP_STAT_last : Fld := ⟨Reg.LKS_DUMP_STAT, 6, 2⟩
def Fd.LKS_DUMP_STAT_trigger : Fld := ⟨Reg.LKS_DUMP_STAT, 4, 2⟩
def Fd.LKS_DUMP_STAT_cut : Fld := ⟨Reg.LKS_DUMP_STAT, 1, 1⟩
def Fd.LKS_DUMP_STAT_busy : Fld := ⟨Reg.LKS_DUMP_STAT, 0, 1⟩
def Fd.PRF_STR_PULSE_pulse (s : Nat) : Fld := ⟨Reg.PRF_STR_PULSE s, 16, 1⟩
def Fd.PRF_STR_PULSE_allowance (s : Nat) : Fld := ⟨Reg.PRF_STR_PULSE s, 0, 16⟩
def Fd.PRF_GRID_NOM_val : Fld := ⟨Reg.PRF_GRID_NOM, 0, 32⟩
def Fd.PRF_GRID_THR_sag_pct : Fld := ⟨Reg.PRF_GRID_THR, 24, 8⟩
def Fd.PRF_GRID_THR_loss_pct : Fld := ⟨Reg.PRF_GRID_THR, 16, 8⟩
def Fd.PRF_GRID_THR_clear_pct : Fld := ⟨Reg.PRF_GRID_THR, 8, 8⟩
def Fd.PRF_GRID_HOLD_return_hold : Fld := ⟨Reg.PRF_GRID_HOLD, 16, 16⟩
def Fd.PRF_GRID_HOLD_sag_clear : Fld := ⟨Reg.PRF_GRID_HOLD, 8, 8⟩
def Fd.PRF_GRID_HOLD_entry : Fld := ⟨Reg.PRF_GRID_HOLD, 0, 8⟩
def Fd.PRF_GRID_STAT_events : Fld := ⟨Reg.PRF_GRID_STAT, 16, 16⟩
def Fd.PRF_GRID_STAT_flag : Fld := ⟨Reg.PRF_GRID_STAT, 5, 1⟩
def Fd.PRF_GRID_STAT_fe_service : Fld := ⟨Reg.PRF_GRID_STAT, 4, 1⟩
def Fd.PRF_GRID_STAT_state : Fld := ⟨Reg.PRF_GRID_STAT, 0, 3⟩
def Fd.PRF_GRID_ENV_val : Fld := ⟨Reg.PRF_GRID_ENV, 0, 32⟩
def Fd.PRF_COOL_CTRL_ppl : Fld := ⟨Reg.PRF_COOL_CTRL, 16, 16⟩
def Fd.PRF_COOL_CTRL_flow_min : Fld := ⟨Reg.PRF_COOL_CTRL, 0, 16⟩
def Fd.PRF_COOL_LIM_in_max : Fld := ⟨Reg.PRF_COOL_LIM, 16, 16⟩
def Fd.PRF_COOL_LIM_out_max : Fld := ⟨Reg.PRF_COOL_LIM, 0, 16⟩
def Fd.PRF_COOL_STAT_flow : Fld := ⟨Reg.PRF_COOL_STAT, 16, 16⟩
def Fd.PRF_COOL_STAT_out_hot : Fld := ⟨Reg.PRF_COOL_STAT, 3, 1⟩
def Fd.PRF_COOL_STAT_in_hot : Fld := ⟨Reg.PRF_COOL_STAT, 2, 1⟩
def Fd.PRF_COOL_STAT_flow_low : Fld := ⟨Reg.PRF_COOL_STAT, 1, 1⟩
def Fd.PRF_COOL_STAT_flow_lost : Fld := ⟨Reg.PRF_COOL_STAT, 0, 1⟩
def Fd.LPE_SNS_ABSENT_absent : Fld := ⟨Reg.LPE_SNS_ABSENT, 0, 24⟩
def Fd.LPE_SNS_GAIN_val (c : Nat) : Fld := ⟨Reg.LPE_SNS_GAIN c, 0, 32⟩
def Fd.LPE_SNS_ADD_val (c : Nat) : Fld := ⟨Reg.LPE_SNS_ADD c, 0, 32⟩
def Fd.SUP_CFG_CTRL_autostart : Fld := ⟨Reg.SUP_CFG_CTRL, 2, 1⟩
def Fd.SUP_CFG_CTRL_erase : Fld := ⟨Reg.SUP_CFG_CTRL, 1, 1⟩
def Fd.SUP_CFG_CTRL_save : Fld := ⟨Reg.SUP_CFG_CTRL, 0, 1⟩
def Fd.SUP_CFG_STAT_saves : Fld := ⟨Reg.SUP_CFG_STAT, 16, 16⟩
def Fd.SUP_CFG_STAT_applied : Fld := ⟨Reg.SUP_CFG_STAT, 2, 1⟩
def Fd.SUP_CFG_STAT_valid : Fld := ⟨Reg.SUP_CFG_STAT, 1, 1⟩
def Fd.SUP_CFG_STAT_busy : Fld := ⟨Reg.SUP_CFG_STAT, 0, 1⟩
def Fd.SUP_CFG_DIGEST_digest : Fld := ⟨Reg.SUP_CFG_DIGEST, 0, 32⟩
def Fd.ZFB_DECL_OS_os : Fld := ⟨Reg.ZFB_DECL_OS, 0, 16⟩
def Fd.ZFB_DECL_PWR_strings : Fld := ⟨Reg.ZFB_DECL_PWR, 12, 3⟩
def Fd.ZFB_DECL_PWR_fe : Fld := ⟨Reg.ZFB_DECL_PWR, 8, 4⟩
def Fd.ZFB_DECL_PWR_fe_group : Fld := ⟨Reg.ZFB_DECL_PWR, 4, 4⟩
def Fd.ZFB_DECL_PWR_zones : Fld := ⟨Reg.ZFB_DECL_PWR, 0, 4⟩
def Fd.ZFB_ZONE_C_val (z : Nat) : Fld := ⟨Reg.ZFB_ZONE_C z, 0, 32⟩

/-! The register tables of the blocks, in the order of Table 13-8. -/

def Tab.sup0 : List RegRow :=
  [⟨"SUP_CFG_CTRL", 0x40000100, [], [⟨"autostart", 2, 1, .rw, .preserved, true, .any⟩,
     ⟨"erase", 1, 1, .wo, .val 0, true, .any⟩,
     ⟨"save", 0, 1, .wo, .val 0, true, .any⟩]⟩,
   ⟨"SUP_CFG_STAT", 0x40000104, [], [⟨"saves", 16, 16, .ro, .preserved, false, .any⟩,
     ⟨"applied", 2, 1, .ro, .val 0, false, .any⟩,
     ⟨"valid", 1, 1, .ro, .preserved, false, .any⟩,
     ⟨"busy", 0, 1, .ro, .val 0, false, .any⟩]⟩,
   ⟨"SUP_CFG_DIGEST", 0x40000108, [], [⟨"digest", 0, 32, .ro, .preserved, false, .any⟩]⟩]

/-- Registers of block SUP. -/
def Tab.sup : List RegRow := Tab.sup0

def Tab.lpe0 : List RegRow :=
  [⟨"LPE_LOOP_CTRL", 0x40011000, [(0x400, 7)], [⟨"active_set", 8, 2, .ro, .val 0, false, .any⟩,
     ⟨"next_set", 4, 2, .rw, .val 0, false, .any⟩,
     ⟨"switch_set", 3, 1, .wo, .val 0, false, .any⟩,
     ⟨"manual", 2, 1, .rw, .val 0, false, .any⟩,
     ⟨"ff_en", 1, 1, .rw, .val 0, false, .any⟩,
     ⟨"enable", 0, 1, .rw, .val 0, false, .any⟩]⟩,
   ⟨"LPE_LOOP_CLAMP_HI", 0x40011004, [(0x400, 7)], [⟨"val", 0, 32, .rw, .val 0, true, .any⟩]⟩,
   ⟨"LPE_LOOP_CLAMP_LO", 0x40011008, [(0x400, 7)], [⟨"val", 0, 32, .rw, .val 0, true, .any⟩]⟩,
   ⟨"LPE_LOOP_RATE", 0x4001100C, [(0x400, 7)], [⟨"val", 0, 32, .rw, .val 0, true, .any⟩]⟩,
   ⟨"LPE_LOOP_MANUAL", 0x40011010, [(0x400, 7)], [⟨"val", 0, 32, .rw, .val 0, false, .any⟩]⟩,
   ⟨"LPE_LOOP_OUT", 0x40011014, [(0x400, 7)], [⟨"val", 0, 32, .ro, .val 0, false, .any⟩]⟩,
   ⟨"LPE_LOOP_RAW", 0x40011018, [(0x400, 7)], [⟨"val", 0, 32, .ro, .val 0, false, .any⟩]⟩,
   ⟨"LPE_LOOP_INTEG", 0x4001101C, [(0x400, 7)], [⟨"val", 0, 32, .ro, .val 0, false, .any⟩]⟩,
   ⟨"LPE_LOOP_STAT", 0x40011020, [(0x400, 7)], [⟨"lim_frames", 16, 16, .ro, .val 0, false, .any⟩,
     ⟨"wr_active", 6, 1, .w1c, .val 0, false, .any⟩,
     ⟨"set_switched", 5, 1, .w1c, .val 0, false, .any⟩,
     ⟨"acc_sat", 4, 1, .w1c, .val 0, false, .any⟩,
     ⟨"exp_ovf", 3, 1, .w1c, .val 0, false, .any⟩,
     ⟨"rate_act", 2, 1, .ro, .val 0, false, .any⟩,
     ⟨"hi_act", 1, 1, .ro, .val 0, false, .any⟩,
     ⟨"lo_act", 0, 1, .ro, .val 0, false, .any⟩]⟩,
   ⟨"LPE_CSET_CTRL", 0x40011100, [(0x400, 7), (0x40, 4)], [⟨"form", 24, 1, .rw, .val 0, false, .any⟩,
     ⟨"exp_lim", 16, 6, .rw, .val 0, false, .any⟩,
     ⟨"exp_den", 8, 6, .rw, .val 0, false, .any⟩,
     ⟨"exp_num", 0, 6, .rw, .val 0, false, .any⟩]⟩,
   ⟨"LPE_CSET_N", 0x40011104, [(0x400, 7), (0x40, 4), (0x4, 4)], [⟨"mant", 0, 24, .rw, .val 0, false, .any⟩]⟩,
   ⟨"LPE_CSET_D", 0x40011114, [(0x400, 7), (0x40, 4), (0x4, 3)], [⟨"mant", 0, 24, .rw, .val 0, false, .any⟩]⟩,
   ⟨"LPE_CSET_KB", 0x40011120, [(0x400, 7), (0x40, 4)], [⟨"mant", 0, 24, .rw, .val 0, false, .any⟩]⟩,
   ⟨"LPE_RAMP_TARGET", 0x40011040, [(0x400, 5)], [⟨"val", 0, 32, .ro, .val 0, false, .any⟩]⟩]

def Tab.lpe1 : List RegRow :=
  [⟨"LPE_RAMP_SLEW", 0x40011044, [(0x400, 5)], [⟨"val", 0, 32, .rw, .val 0x5500000, true, .bf true 1 100⟩]⟩,
   ⟨"LPE_RAMP_SETPT", 0x40011048, [(0x400, 5)], [⟨"val", 0, 32, .ro, .val 0, false, .any⟩]⟩,
   ⟨"LPE_RAMP_STAT", 0x4001104C, [(0x400, 5)], [⟨"code", 5, 3, .ro, .val 0, false, .any⟩,
     ⟨"no_target", 4, 1, .ro, .val 0, false, .any⟩,
     ⟨"wait_link", 3, 1, .ro, .val 0, false, .any⟩,
     ⟨"done", 1, 1, .ro, .val 0, false, .any⟩,
     ⟨"running", 0, 1, .ro, .val 0, false, .any⟩]⟩,
   ⟨"LPE_LINK_TARGET", 0x40012050, [(0x400, 1)], [⟨"val", 0, 32, .rw, .val 0xA6E0000, false, .bf false 860 900⟩]⟩,
   ⟨"LPE_VSTORE", 0x40011060, [(0x400, 4), (0x4, 8)], [⟨"val", 0, 32, .rw, .val 0, true, .bf true 700 820⟩]⟩,
   ⟨"LPE_FOLLOW_LIMIT", 0x40011080, [(0x400, 4)], [⟨"val", 0, 32, .rw, .val 0x04780000, true, .any⟩]⟩,
   ⟨"LPE_FOLLOW_LIMIT", 0x40012080, [(0x400, 1)], [⟨"val", 0, 32, .rw, .val 0x06500000, true, .any⟩]⟩,
   ⟨"LPE_FOLLOW_LIMIT", 0x40012480, [(0x400, 2)], [⟨"val", 0, 32, .rw, .val 0x04500000, true, .any⟩]⟩,
   ⟨"LPE_FOLLOW_CTRL", 0x40011084, [(0x400, 4)], [⟨"timer_limit", 12, 20, .rw, .val 64, true, .any⟩]⟩,
   ⟨"LPE_FOLLOW_CTRL", 0x40012084, [(0x400, 1)], [⟨"timer_limit", 12, 20, .rw, .val 256, true, .any⟩]⟩,
   ⟨"LPE_FOLLOW_CTRL", 0x40012484, [(0x400, 2)], [⟨"timer_limit", 12, 20, .rw, .val 65536, true, .any⟩]⟩,
   ⟨"LPE_FOLLOW_RETRY", 0x40011088, [(0x400, 7)], [⟨"retry_delay", 16, 16, .rw, .val 1000, false, .any⟩,
     ⟨"retry_max", 0, 4, .rw, .val 0, false, .any⟩]⟩,
   ⟨"LPE_FOLLOW_STAT", 0x4001108C, [(0x400, 7)], [⟨"timer", 12, 20, .ro, .val 0, false, .any⟩,
     ⟨"retries_used", 8, 4, .ro, .val 0, false, .any⟩,
     ⟨"cause", 2, 1, .ro, .val 0, false, .any⟩,
     ⟨"expired", 1, 1, .w1c, .val 0, false, .any⟩,
     ⟨"excess", 0, 1, .ro, .val 0, false, .any⟩]⟩,
   ⟨"LPE_SNS_ABSENT", 0x40010080, [], [⟨"absent", 0, 24, .rw, .val 0, true, .any⟩]⟩]

def Tab.lpe2 : List RegRow :=
  [⟨"LPE_SNS_GAIN", 0x40010100, [(0x8, 4)], [⟨"val", 0, 32, .rw, .val 0x3C400000, true, .any⟩]⟩,
   ⟨"LPE_SNS_GAIN", 0x40010120, [(0x8, 4)], [⟨"val", 0, 32, .rw, .val 0x39666666, true, .any⟩]⟩,
   ⟨"LPE_SNS_GAIN", 0x40010140, [(0x8, 4)], [⟨"val", 0, 32, .rw, .val 0x3C400000, true, .any⟩]⟩,
   ⟨"LPE_SNS_GAIN", 0x40010160, [(0x8, 3)], [⟨"val", 0, 32, .rw, .val 0x3A400000, true, .any⟩]⟩,
   ⟨"LPE_SNS_GAIN", 0x40010178, [(0x8, 2)], [⟨"val", 0, 32, .rw, .val 0x39666666, true, .any⟩]⟩,
   ⟨"LPE_SNS_GAIN", 0x40010188, [(0x8, 3)], [⟨"val", 0, 32, .rw, .val 0x3C400000, true, .any⟩]⟩,
   ⟨"LPE_SNS_GAIN", 0x400101A0, [(0x8, 2)], [⟨"val", 0, 32, .rw, .val 0x39666666, true, .any⟩]⟩,
   ⟨"LPE_SNS_GAIN", 0x400101B0, [(0x8, 1)], [⟨"val", 0, 32, .rw, .val 0x33418937, true, .any⟩]⟩,
   ⟨"LPE_SNS_GAIN", 0x400101B8, [(0x8, 1)], [⟨"val", 0, 32, .rw, .val 0x3651EB85, true, .any⟩]⟩,
   ⟨"LPE_SNS_ADD", 0x40010104, [(0x8, 20)], [⟨"val", 0, 32, .rw, .val 0, true, .any⟩]⟩,
   ⟨"LPE_SNS_ADD", 0x400101A4, [(0x8, 2)], [⟨"val", 0, 32, .rw, .val 0x0944499A, true, .any⟩]⟩,
   ⟨"LPE_SNS_ADD", 0x400101B4, [(0x8, 2)], [⟨"val", 0, 32, .rw, .val 0, true, .any⟩]⟩]

/-- Registers of block LPE. -/
def Tab.lpe : List RegRow := Tab.lpe0 ++ Tab.lpe1 ++ Tab.lpe2

def Tab.prf0 : List RegRow :=
  [⟨"PRF_CTRL", 0x40020000, [], [⟨"reserve_force", 2, 1, .rw, .val 0, false, .any⟩,
     ⟨"soc_en", 1, 1, .rw, .val 1, false, .any⟩,
     ⟨"fc_en", 0, 1, .rw, .val 1, false, .any⟩]⟩,
   ⟨"PRF_VEL", 0x40020004, [], [⟨"val", 0, 32, .rw, .val 0x4780000, true, .bf false 1 500⟩]⟩,
   ⟨"PRF_ACC", 0x40020008, [], [⟨"val", 0, 32, .rw, .val 0x5780000, true, .bf false 2 2000⟩]⟩,
   ⟨"PRF_JERK", 0x4002000C, [], [⟨"val", 0, 32, .rw, .val 0x7780000, true, .bf false 5 20000⟩]⟩,
   ⟨"PRF_DRAW_MAX", 0x40020010, [], [⟨"val", 0, 32, .rw, .val 0, true, .any⟩]⟩,
   ⟨"PRF_SOC_GAIN", 0x40020014, [], [⟨"val", 0, 32, .rw, .val 0x1400000, false, .any⟩]⟩,
   ⟨"PRF_SOC_MAX", 0x40020018, [], [⟨"val", 0, 32, .rw, .val 0x4500000, false, .any⟩]⟩,
   ⟨"PRF_ETA_OUT", 0x4002001C, [], [⟨"val", 0, 32, .rw, .val 0x7CCCCD, false, .any⟩]⟩,
   ⟨"PRF_POS", 0x40020020, [], [⟨"val", 0, 32, .ro, .val 0, false, .any⟩]⟩,
   ⟨"PRF_VELO", 0x40020024, [], [⟨"val", 0, 32, .ro, .val 0, false, .any⟩]⟩,
   ⟨"PRF_ACCEL", 0x40020028, [], [⟨"val", 0, 32, .ro, .val 0, false, .any⟩]⟩,
   ⟨"PRF_TARGET", 0x4002002C, [], [⟨"val", 0, 32, .ro, .val 0, false, .any⟩]⟩,
   ⟨"PRF_SOC_CORR", 0x40020030, [], [⟨"val", 0, 32, .ro, .val 0, false, .any⟩]⟩,
   ⟨"PRF_STAT", 0x40020034, [], [⟨"stale_count", 16, 16, .ro, .val 0, false, .any⟩,
     ⟨"reserve_open", 3, 1, .ro, .val 0, false, .any⟩,
     ⟨"fallback", 2, 1, .ro, .val 0, false, .any⟩,
     ⟨"at_target", 1, 1, .ro, .val 0, false, .any⟩,
     ⟨"active", 0, 1, .ro, .val 0, false, .any⟩]⟩]

def Tab.prf1 : List RegRow :=
  [⟨"PRF_STR_BAND", 0x40020040, [(0x4, 3)], [⟨"full_discharge", 1, 1, .rw, .val 0, false, .any⟩,
     ⟨"full_charge", 0, 1, .rw, .val 0, false, .any⟩]⟩,
   ⟨"PRF_STR_FACTOR", 0x40020050, [(0x4, 3)], [⟨"dis_factor", 16, 16, .ro, .val 0, false, .any⟩,
     ⟨"chg_factor", 0, 16, .ro, .val 0, false, .any⟩]⟩,
   ⟨"PRF_STR_PULSE", 0x40020060, [(0x4, 3)], [⟨"pulse", 16, 1, .ro, .val 1, false, .any⟩,
     ⟨"allowance", 0, 16, .ro, .val 10000, false, .any⟩]⟩,
   ⟨"PRF_GRID_NOM", 0x40020080, [], [⟨"val", 0, 32, .rw, .val 0x9780000, true, .bf true 100 1000⟩]⟩,
   ⟨"PRF_GRID_THR", 0x40020084, [], [⟨"sag_pct", 24, 8, .rw, .val 85, true, .nat 50 95⟩,
     ⟨"loss_pct", 16, 8, .rw, .val 50, true, .nat 20 70⟩,
     ⟨"clear_pct", 8, 8, .rw, .val 90, true, .nat 80 100⟩]⟩,
   ⟨"PRF_GRID_HOLD", 0x40020088, [], [⟨"return_hold", 16, 16, .rw, .val 1024, true, .nat 64 65535⟩,
     ⟨"sag_clear", 8, 8, .rw, .val 64, true, .nat 1 255⟩,
     ⟨"entry", 0, 8, .rw, .val 16, true, .nat 4 255⟩]⟩,
   ⟨"PRF_GRID_STAT", 0x4002008C, [], [⟨"events", 16, 16, .ro, .preserved, false, .any⟩,
     ⟨"flag", 5, 1, .ro, .val 0, false, .any⟩,
     ⟨"fe_service", 4, 1, .ro, .val 0, false, .any⟩,
     ⟨"state", 0, 3, .ro, .val 0, false, .any⟩]⟩,
   ⟨"PRF_GRID_ENV", 0x40020090, [], [⟨"val", 0, 32, .ro, .val 0, false, .any⟩]⟩,
   ⟨"PRF_COOL_CTRL", 0x400200A0, [], [⟨"ppl", 16, 16, .rw, .val 300, true, .nat 1 65535⟩,
     ⟨"flow_min", 0, 16, .rw, .val 200, true, .any⟩]⟩,
   ⟨"PRF_COOL_LIM", 0x400200A4, [], [⟨"in_max", 16, 16, .rw, .val 360, true, .any⟩,
     ⟨"out_max", 0, 16, .rw, .val 440, true, .any⟩]⟩,
   ⟨"PRF_COOL_STAT", 0x400200A8, [], [⟨"flow", 16, 16, .ro, .val 0, false, .any⟩,
     ⟨"out_hot", 3, 1, .ro, .val 0, false, .any⟩,
     ⟨"in_hot", 2, 1, .ro, .val 0, false, .any⟩,
     ⟨"flow_low", 1, 1, .ro, .val 0, false, .any⟩,
     ⟨"flow_lost", 0, 1, .ro, .val 0, false, .any⟩]⟩]

/-- Registers of block PRF. -/
def Tab.prf : List RegRow := Tab.prf0 ++ Tab.prf1

def Tab.ffw0 : List RegRow :=
  [⟨"FFW_ZONE_CTRL", 0x40030000, [(0x20, 4)], [⟨"commit", 5, 1, .wo, .val 0, false, .any⟩,
     ⟨"auto_anchor", 4, 1, .rw, .val 1, false, .any⟩,
     ⟨"anchor_lane", 0, 4, .rw, .val 0, false, .any⟩]⟩,
   ⟨"FFW_ZONE_STAT", 0x40030004, [(0x20, 4)], [⟨"bin", 12, 10, .ro, .val 0, false, .any⟩,
     ⟨"anchor_cur", 8, 4, .ro, .val 0, false, .any⟩,
     ⟨"wr_active", 4, 1, .w1c, .val 0, false, .any⟩,
     ⟨"stale", 3, 1, .ro, .val 1, false, .any⟩,
     ⟨"commit_pending", 2, 1, .ro, .val 0, false, .any⟩,
     ⟨"active_buf", 0, 1, .ro, .val 0, false, .any⟩]⟩,
   ⟨"FFW_PERIOD", 0x40030008, [(0x20, 4)], [⟨"period", 0, 32, .ro, .val 0, false, .any⟩]⟩,
   ⟨"FFW_ANCHOR_LO", 0x4003000C, [(0x20, 4)], [⟨"anchor_lo", 0, 32, .ro, .val 0, false, .any⟩]⟩,
   ⟨"FFW_ANCHOR_HI", 0x40030010, [(0x20, 4)], [⟨"anchor_hi", 0, 32, .ro, .val 0, false, .any⟩]⟩,
   ⟨"FFW_GAIN", 0x40030014, [(0x20, 4)], [⟨"val", 0, 32, .ro, .val 0, false, .any⟩]⟩,
   ⟨"FFW_CRC", 0x40030018, [(0x20, 4)], [⟨"crc", 0, 32, .ro, .val 0, false, .any⟩]⟩,
   ⟨"FFW_OUT", 0x4003001C, [(0x20, 4)], [⟨"val", 0, 32, .ro, .val 0, false, .any⟩]⟩,
   ⟨"FFW_PP_CTRL", 0x40030100, [], [⟨"lead", 16, 16, .rw, .val 5000, true, .any⟩,
     ⟨"en", 0, 1, .rw, .val 1, true, .any⟩]⟩,
   ⟨"FFW_PP_SLEW", 0x40030104, [], [⟨"val", 0, 32, .rw, .val 0, true, .any⟩]⟩,
   ⟨"FFW_PP_ETA", 0x40030108, [], [⟨"val", 0, 32, .rw, .val 0x7D70A4, true, .any⟩]⟩,
   ⟨"FFW_PP_OUT", 0x4003010C, [], [⟨"val", 0, 32, .ro, .val 0, false, .any⟩]⟩,
   ⟨"FFW_PP_TIMEOUT", 0x40030110, [], [⟨"arm_timeout", 0, 16, .rw, .val 256, true, .any⟩]⟩,
   ⟨"FFW_CLASS_RISE", 0x40030200, [(0x4, 16)], [⟨"val", 0, 32, .rw, .val 0, true, .any⟩]⟩]

def Tab.ffw1 : List RegRow :=
  [⟨"FFW_SHAPE", 0x40038000, [(0x2000, 4), (0x1000, 2), (0x4, 512)], [⟨"odd", 16, 16, .rw, .val 0, false, .any⟩,
     ⟨"even", 0, 16, .rw, .val 0, false, .any⟩]⟩,
   ⟨"FFW_BIAS", 0x40038800, [(0x2000, 4), (0x1000, 2), (0x4, 512)], [⟨"odd", 16, 16, .rw, .val 0, false, .any⟩,
     ⟨"even", 0, 16, .rw, .val 0, false, .any⟩]⟩]

/-- Registers of block FFW. -/
def Tab.ffw : List RegRow := Tab.ffw0 ++ Tab.ffw1

def Tab.zfb0 : List RegRow :=
  [⟨"ZFB_COMB_CTRL", 0x40040000, [], [⟨"batch_size", 8, 4, .rw, .val 8, true, .any⟩,
     ⟨"abort", 2, 1, .wo, .val 0, false, .any⟩,
     ⟨"go", 0, 1, .wo, .val 0, false, .any⟩]⟩,
   ⟨"ZFB_COMB_STAT", 0x40040004, [], [⟨"busy_mask", 16, 16, .ro, .val 0, false, .any⟩,
     ⟨"refuse_cause", 8, 4, .ro, .val 0, false, .any⟩,
     ⟨"fenced_in_batch", 3, 1, .w1c, .val 0, false, .any⟩,
     ⟨"refused", 2, 1, .w1c, .val 0, false, .any⟩,
     ⟨"aborted", 1, 1, .w1c, .val 0, false, .any⟩,
     ⟨"batch_done", 0, 1, .w1c, .val 0, false, .any⟩]⟩,
   ⟨"ZFB_MATCH_WIN", 0x40040008, [], [⟨"val", 0, 32, .rw, .val 0x2400000, false, .any⟩]⟩,
   ⟨"ZFB_ZERO_I", 0x4004000C, [], [⟨"val", 0, 32, .rw, .val 0x400000, false, .any⟩]⟩,
   ⟨"ZFB_MISMATCH_I", 0x40040010, [], [⟨"val", 0, 32, .rw, .val 0x3500000, false, .any⟩]⟩,
   ⟨"ZFB_MISMATCH_CTRL", 0x40040014, [], [⟨"mismatch_frames", 0, 16, .rw, .val 16, false, .any⟩]⟩,
   ⟨"ZFB_OS", 0x40040100, [(0x4, 16)], [⟨"reach", 28, 4, .rw, .val 0, true, .any⟩,
     ⟨"fence_cause", 24, 3, .ro, .val 0, false, .any⟩,
     ⟨"next_zone", 20, 3, .rw, .val 4, false, .nat 0 4⟩,
     ⟨"zone", 16, 3, .ro, .val 4, false, .any⟩,
     ⟨"state", 12, 4, .ro, .val 0, false, .any⟩,
     ⟨"weight", 0, 10, .ro, .val 0, false, .any⟩]⟩,
   ⟨"ZFB_STR", 0x40040200, [(0x4, 3)], [⟨"allowed", 16, 3, .rw, .val 7, true, .any⟩,
     ⟨"next_duty", 4, 2, .rw, .val 2, false, .nat 0 2⟩,
     ⟨"duty", 2, 2, .ro, .val 2, false, .any⟩,
     ⟨"ramping", 1, 1, .ro, .val 0, false, .any⟩]⟩,
   ⟨"ZFB_LANE", 0x40040300, [(0x4, 16)], [⟨"zone", 24, 2, .rw, .val 0, true, .any⟩,
     ⟨"declared", 23, 1, .rw, .val 0, true, .any⟩,
     ⟨"next_group", 8, 6, .rw, .val 63, false, .any⟩,
     ⟨"group", 0, 6, .ro, .val 63, false, .any⟩]⟩,
   ⟨"ZFB_SHED_CTRL", 0x40040400, [(0x20, 4)], [⟨"min_active", 4, 4, .rw, .val 1, true, .any⟩,
     ⟨"en", 0, 1, .rw, .val 1, false, .any⟩]⟩,
   ⟨"ZFB_SHED_I", 0x40040404, [(0x20, 4)], [⟨"val", 0, 32, .rw, .val 0x3400000, true, .bf false 0 26⟩]⟩,
   ⟨"ZFB_ADD_I", 0x40040408, [(0x20, 4)], [⟨"val", 0, 32, .rw, .val 0x4400000, true, .addThreshold⟩]⟩,
   ⟨"ZFB_SHED_HOLD", 0x4004040C, [(0x20, 4)], [⟨"shed_hold", 0, 22, .rw, .val 131072, true, .nat 256 4194303⟩]⟩,
   ⟨"ZFB_ADD_HOLD", 0x40040410, [(0x20, 4)], [⟨"add_hold", 0, 16, .rw, .val 4, true, .nat 1 65535⟩]⟩]

def Tab.zfb1 : List RegRow :=
  [⟨"ZFB_SHED_STAT", 0x40040414, [(0x20, 4)], [⟨"shed_timer", 10, 22, .ro, .val 0, false, .any⟩,
     ⟨"n_active", 5, 5, .ro, .val 0, false, .any⟩,
     ⟨"n_shed", 0, 5, .ro, .val 0, false, .any⟩]⟩,
   ⟨"ZFB_ZONE_CAP", 0x40040418, [(0x20, 4)], [⟨"val", 0, 32, .ro, .val 0, false, .any⟩]⟩,
   ⟨"ZFB_ZONE_STAT", 0x4004041C, [(0x20, 4)], [⟨"overload_frames", 12, 20, .ro, .val 0, false, .any⟩,
     ⟨"cap_limited", 1, 1, .ro, .val 0, false, .any⟩,
     ⟨"overload", 0, 1, .ro, .val 0, false, .any⟩]⟩,
   ⟨"ZFB_DECL_OS", 0x40040600, [], [⟨"os", 0, 16, .rw, .val 0, true, .any⟩]⟩,
   ⟨"ZFB_DECL_PWR", 0x40040604, [], [⟨"strings", 12, 3, .rw, .val 0, true, .any⟩,
     ⟨"fe", 8, 4, .rw, .val 0, true, .any⟩,
     ⟨"fe_group", 4, 4, .rw, .val 0, true, .any⟩,
     ⟨"zones", 0, 4, .rw, .val 0, true, .any⟩]⟩,
   ⟨"ZFB_ZONE_C", 0x40040500, [(0x4, 4)], [⟨"val", 0, 32, .rw, .val 0, true, .any⟩]⟩]

/-- Registers of block ZFB. -/
def Tab.zfb : List RegRow := Tab.zfb0 ++ Tab.zfb1

def Tab.stl0 : List RegRow :=
  [⟨"STL_LANE_STAT", 0x40050000, [(0x40, 26)], [⟨"state", 28, 4, .ro, .val 0, false, .any⟩,
     ⟨"version", 26, 2, .ro, .val 0, false, .any⟩,
     ⟨"decl_ok", 25, 1, .ro, .val 0, false, .any⟩,
     ⟨"test_fail", 24, 1, .ro, .val 0, false, .any⟩,
     ⟨"cause", 20, 4, .ro, .val 0, false, .any⟩,
     ⟨"unreach", 19, 1, .ro, .val 0, false, .any⟩,
     ⟨"rtt_ns", 0, 16, .ro, .val 0, false, .any⟩]⟩,
   ⟨"STL_LANE_CTRL", 0x40050004, [(0x40, 26)], [⟨"retrain", 0, 1, .wo, .val 0, false, .any⟩]⟩,
   ⟨"STL_LANE_CNT", 0x40050008, [(0x40, 26)], [⟨"crc_err", 16, 16, .ro, .val 0, false, .any⟩,
     ⟨"gaps", 8, 8, .ro, .val 0, false, .any⟩,
     ⟨"trainings", 0, 8, .ro, .val 0, false, .any⟩]⟩,
   ⟨"STL_LANE_BER", 0x4005000C, [(0x40, 26)], [⟨"rx_err", 16, 16, .ro, .val 0, false, .any⟩,
     ⟨"stage_err", 0, 8, .ro, .val 0, false, .any⟩]⟩,
   ⟨"STL_DECL", 0x40050020, [(0x40, 26), (0x4, 8)], [⟨"decl", 0, 32, .ro, .val 0, false, .any⟩]⟩,
   ⟨"STL_BERT_CTRL", 0x40051000, [], [⟨"commission", 1, 1, .wo, .val 0, true, .any⟩,
     ⟨"abort", 0, 1, .wo, .val 0, false, .any⟩]⟩,
   ⟨"STL_BERT_STAT", 0x40051004, [], [⟨"hours", 16, 16, .ro, .val 0, false, .any⟩,
     ⟨"overdue", 3, 1, .ro, .val 0, false, .any⟩,
     ⟨"phase", 0, 3, .ro, .val 0, false, .any⟩]⟩]

/-- Registers of block STL. -/
def Tab.stl : List RegRow := Tab.stl0

def Tab.wgl0 : List RegRow :=
  [⟨"WGL_VSEL", 0x40060800, [(0x4, 4)], [⟨"pin_code", 8, 3, .ro, .val 0, false, .any⟩,
     ⟨"equal_count", 4, 4, .ro, .val 0, false, .any⟩,
     ⟨"valid", 3, 1, .ro, .val 0, false, .any⟩,
     ⟨"code", 0, 3, .ro, .val 0, false, .any⟩]⟩,
   ⟨"WGL_PGOOD", 0x40060810, [(0x4, 4)], [⟨"window_count", 16, 7, .ro, .val 0, false, .any⟩,
     ⟨"started", 4, 1, .ro, .val 0, false, .any⟩,
     ⟨"keeper_trip", 3, 1, .ro, .val 0, false, .any⟩,
     ⟨"force_low", 1, 1, .rw, .val 0, false, .any⟩,
     ⟨"level", 0, 1, .ro, .val 0, false, .any⟩]⟩,
   ⟨"WGL_LANE_CTRL", 0x40060000, [(0x20, 16)], [⟨"clear", 1, 1, .wo, .val 0, false, .any⟩,
     ⟨"ff_en", 0, 1, .rw, .val 1, false, .any⟩]⟩,
   ⟨"WGL_LANE_STAT", 0x40060004, [(0x20, 16)], [⟨"version", 30, 2, .ro, .val 0, false, .any⟩,
     ⟨"fenced", 6, 1, .ro, .val 0, false, .any⟩,
     ⟨"storm", 5, 1, .ro, .val 0, false, .any⟩,
     ⟨"link_down", 4, 1, .ro, .val 0, false, .any⟩,
     ⟨"step_stale", 3, 1, .ro, .val 1, false, .any⟩,
     ⟨"arm_pending", 2, 1, .ro, .val 0, false, .any⟩,
     ⟨"anchor", 1, 1, .ro, .val 0, false, .any⟩]⟩,
   ⟨"WGL_LANE_ARM_LO", 0x40060008, [(0x20, 16)], [⟨"tp_lo", 0, 32, .ro, .val 0, false, .any⟩]⟩,
   ⟨"WGL_LANE_ARM_HI", 0x4006000C, [(0x20, 16)], [⟨"tp_hi", 0, 32, .ro, .val 0, false, .any⟩]⟩,
   ⟨"WGL_LANE_RISE", 0x40060010, [(0x20, 16)], [⟨"val", 0, 32, .ro, .val 0, false, .any⟩]⟩,
   ⟨"WGL_LANE_TX", 0x40060014, [(0x20, 16)], [⟨"allow", 16, 16, .ro, .val 0, false, .any⟩,
     ⟨"held", 15, 1, .ro, .val 0, false, .any⟩,
     ⟨"ceil", 0, 12, .ro, .val 4095, false, .any⟩]⟩,
   ⟨"WGL_LANE_CNT", 0x40060018, [(0x20, 16)], [⟨"storms", 24, 8, .ro, .val 0, false, .any⟩,
     ⟨"dup", 16, 8, .ro, .val 0, false, .any⟩,
     ⟨"implaus", 8, 8, .ro, .val 0, false, .any⟩,
     ⟨"dropped", 0, 8, .ro, .val 0, false, .any⟩]⟩,
   ⟨"WGL_GROUP_NEXT", 0x40060400, [(0x4, 63)], [⟨"fresh", 16, 1, .rw, .val 0, false, .any⟩,
     ⟨"c", 0, 12, .rw, .val 4095, false, .any⟩]⟩,
   ⟨"WGL_GROUP_SENT", 0x40060500, [(0x4, 63)], [⟨"shared", 16, 12, .ro, .val 4095, false, .any⟩,
     ⟨"droop", 15, 1, .ro, .val 0, false, .any⟩,
     ⟨"raise_pending", 14, 1, .ro, .val 0, false, .any⟩,
     ⟨"local", 0, 12, .ro, .val 4095, false, .any⟩]⟩,
   ⟨"WGL_CEIL_CTRL", 0x40060600, [], [⟨"droop_ceil", 16, 12, .rw, .val 2048, true, .any⟩,
     ⟨"share_en", 0, 1, .rw, .val 1, false, .any⟩]⟩,
   ⟨"WGL_ALLOW_CTRL", 0x40060604, [], [⟨"allow_frac", 0, 10, .rw, .val 512, true, .any⟩]⟩,
   ⟨"WGL_STORM_CTRL", 0x40060608, [], [⟨"max_markers", 0, 8, .rw, .val 40, true, .any⟩]⟩]

def Tab.wgl1 : List RegRow :=
  [⟨"WGL_THR", 0x40060700, [(0x4, 4)], [⟨"level", 7, 1, .ro, .val 0, false, .any⟩,
     ⟨"keeper", 6, 1, .ro, .val 0, false, .any⟩,
     ⟨"exhaust", 5, 1, .ro, .val 0, false, .any⟩,
     ⟨"ext", 4, 1, .ro, .val 0, false, .any⟩,
     ⟨"force", 2, 1, .rw, .val 0, false, .any⟩,
     ⟨"ext_en", 1, 1, .rw, .val 1, false, .any⟩]⟩,
   ⟨"WGL_ZONE_NEXT", 0x40060720, [(0x4, 4)], [⟨"fresh", 16, 1, .rw, .val 0, false, .any⟩,
     ⟨"c", 0, 12, .rw, .val 4095, false, .any⟩]⟩,
   ⟨"WGL_LINK_STAT", 0x40060900, [(0x10, 16)], [⟨"state", 28, 4, .ro, .val 0, false, .any⟩,
     ⟨"test_fail", 24, 1, .ro, .val 0, false, .any⟩,
     ⟨"cause", 20, 4, .ro, .val 0, false, .any⟩,
     ⟨"rtt_ns", 0, 16, .ro, .val 0, false, .any⟩]⟩,
   ⟨"WGL_LINK_CNT", 0x40060904, [(0x10, 16)], [⟨"crc_err", 16, 16, .ro, .val 0, false, .any⟩,
     ⟨"over_limit", 8, 8, .ro, .val 0, false, .any⟩,
     ⟨"trainings", 0, 8, .ro, .val 0, false, .any⟩]⟩,
   ⟨"WGL_LINK_BER", 0x40060908, [(0x10, 16)], [⟨"err", 0, 32, .ro, .val 0, false, .any⟩]⟩]

/-- Registers of block WGL. -/
def Tab.wgl : List RegRow := Tab.wgl0 ++ Tab.wgl1

def Tab.chn0 : List RegRow :=
  [⟨"CHN_CTRL", 0x40070000, [], [⟨"owt_every", 16, 6, .rw, .val 16, true, .any⟩,
     ⟨"hush_frames", 8, 8, .rw, .val 37, false, .nat 13 250⟩,
     ⟨"hush_en", 7, 1, .rw, .val 1, false, .any⟩,
     ⟨"bal_mode", 5, 2, .rw, .val 1, false, .any⟩,
     ⟨"rescan", 0, 3, .wo, .val 0, false, .any⟩]⟩,
   ⟨"CHN_OWT_REQ", 0x40070004, [], [⟨"owt_now", 0, 3, .wo, .val 0, false, .any⟩]⟩,
   ⟨"CHN_CELL_LIMITS", 0x40070008, [], [⟨"ov_limit", 16, 16, .rw, .val 29000, true, .nat 28500 30000⟩,
     ⟨"uv_limit", 0, 16, .rw, .val 14500, true, .nat 13000 15000⟩]⟩,
   ⟨"CHN_TEMP_LIMITS", 0x4007000C, [], [⟨"t_hard", 16, 16, .rw, .val 520, true, .any⟩,
     ⟨"t_bal", 0, 16, .rw, .val 440, false, .any⟩]⟩,
   ⟨"CHN_DEV_CTRL", 0x40070010, [], [⟨"dev_thr", 24, 8, .rw, .val 50, true, .any⟩,
     ⟨"pair_tol", 16, 8, .rw, .val 20, true, .any⟩,
     ⟨"sum_tol", 8, 8, .rw, .val 30, true, .any⟩,
     ⟨"sum_abs", 0, 8, .rw, .val 20, true, .any⟩]⟩,
   ⟨"CHN_BAL_CTRL", 0x40070014, [], [⟨"bal_window", 16, 16, .rw, .val 200, false, .any⟩,
     ⟨"bal_dur", 0, 4, .rw, .val 4, false, .any⟩]⟩,
   ⟨"CHN_SLEEP_CFG", 0x40070018, [], [⟨"interval", 0, 10, .rw, .val 60, false, .nat 10 600⟩]⟩,
   ⟨"CHN_SLEEP_LIM", 0x4007001C, [], [⟨"s_ov", 16, 16, .rw, .val 29000, true, .any⟩,
     ⟨"s_uv", 0, 16, .rw, .val 14500, true, .any⟩]⟩,
   ⟨"CHN_SLEEP_TEMP", 0x40070020, [], [⟨"s_temp", 0, 16, .rw, .val 520, true, .any⟩]⟩,
   ⟨"CHN_STR_STAT", 0x40070100, [(0x40, 3)], [⟨"ring", 28, 4, .ro, .val 0, false, .any⟩,
     ⟨"break_seg", 24, 4, .ro, .val 15, false, .any⟩,
     ⟨"reach_a", 20, 4, .ro, .val 0, false, .any⟩,
     ⟨"reach_b", 16, 4, .ro, .val 0, false, .any⟩,
     ⟨"owt_due", 7, 1, .ro, .val 0, false, .any⟩,
     ⟨"owt_active", 6, 1, .ro, .val 0, false, .any⟩,
     ⟨"sum_flag", 5, 1, .ro, .val 0, false, .any⟩,
     ⟨"hot", 4, 1, .ro, .val 0, false, .any⟩,
     ⟨"n_fenced", 0, 4, .ro, .val 0, false, .any⟩]⟩,
   ⟨"CHN_STR_SUM", 0x40070104, [(0x40, 3)], [⟨"sum", 0, 32, .ro, .val 0, false, .any⟩]⟩,
   ⟨"CHN_STR_DIFF", 0x40070108, [(0x40, 3)], [⟨"val", 0, 32, .ro, .val 0, false, .any⟩]⟩,
   ⟨"CHN_STR_SNAP_LO", 0x4007010C, [(0x40, 3)], [⟨"snap_lo", 0, 32, .ro, .val 0, false, .any⟩]⟩,
   ⟨"CHN_STR_SNAP_HI", 0x40070110, [(0x40, 3)], [⟨"snap_hi", 0, 32, .ro, .val 0, false, .any⟩]⟩]

def Tab.chn1 : List RegRow :=
  [⟨"CHN_STR_CNT", 0x40070114, [(0x40, 3)], [⟨"crc_err", 16, 16, .ro, .val 0, false, .any⟩,
     ⟨"failed", 8, 8, .ro, .val 0, false, .any⟩,
     ⟨"missing", 0, 8, .ro, .val 0, false, .any⟩]⟩,
   ⟨"CHN_NODE_STAT", 0x40071000, [(0x200, 3), (0x10, 14)], [⟨"version", 30, 2, .ro, .val 0, false, .any⟩,
     ⟨"state", 28, 2, .ro, .val 0, false, .any⟩,
     ⟨"fence_cause", 24, 4, .ro, .val 0, false, .any⟩,
     ⟨"broken_tap", 19, 5, .ro, .val 31, false, .any⟩,
     ⟨"suspect_tap", 14, 5, .ro, .val 31, false, .any⟩,
     ⟨"missing_run", 0, 2, .ro, .val 0, false, .any⟩]⟩,
   ⟨"CHN_NODE_MEAS", 0x40071004, [(0x200, 3), (0x10, 14)], [⟨"temp", 16, 16, .ro, .val 0, false, .any⟩,
     ⟨"block", 0, 16, .ro, .val 0, false, .any⟩]⟩,
   ⟨"CHN_NODE_BAL", 0x40071008, [(0x200, 3), (0x10, 14)], [⟨"sent", 16, 16, .ro, .val 0, false, .any⟩,
     ⟨"mask", 0, 16, .rw, .val 0, false, .any⟩]⟩,
   ⟨"CHN_NODE_ID", 0x4007100C, [(0x200, 3), (0x10, 14)], [⟨"hw_id", 0, 32, .ro, .val 0, false, .any⟩]⟩,
   ⟨"CHN_CELL", 0x40074000, [(0x400, 3), (0x4, 224)], [⟨"stale", 19, 1, .ro, .val 1, false, .any⟩,
     ⟨"subst", 18, 1, .ro, .val 0, false, .any⟩,
     ⟨"biased", 17, 1, .ro, .val 0, false, .any⟩,
     ⟨"suspect", 16, 1, .ro, .val 0, false, .any⟩,
     ⟨"volt", 0, 16, .ro, .val 0, false, .any⟩]⟩]

/-- Registers of block CHN. -/
def Tab.chn : List RegRow := Tab.chn0 ++ Tab.chn1

def Tab.sns0 : List RegRow :=
  [⟨"SNS_TIME_LO", 0x40080000, [], [⟨"time_lo", 0, 32, .ro, .preserved, false, .any⟩]⟩,
   ⟨"SNS_TIME_HI", 0x40080004, [], [⟨"time_hi", 0, 32, .ro, .preserved, false, .any⟩]⟩,
   ⟨"SNS_FRAME_LO", 0x40080008, [], [⟨"frame_lo", 0, 32, .ro, .preserved, false, .any⟩]⟩,
   ⟨"SNS_FRAME_HI", 0x4008000C, [], [⟨"frame_hi", 0, 16, .ro, .preserved, false, .any⟩]⟩,
   ⟨"SNS_SYNC_CTRL", 0x40080010, [], [⟨"step_allow", 3, 1, .rw, .val 1, false, .any⟩,
     ⟨"sync_out_en", 2, 1, .rw, .val 0, false, .any⟩,
     ⟨"mode", 0, 2, .rw, .val 1, false, .any⟩]⟩,
   ⟨"SNS_SYNC_OFFSET", 0x40080014, [], [⟨"offset", 0, 10, .rw, .val 0, false, .nat 0 999⟩]⟩,
   ⟨"SNS_SYNC_STAT", 0x40080018, [], [⟨"phase_err", 16, 16, .ro, .val 0, false, .any⟩,
     ⟨"stepped", 5, 1, .w1c, .val 0, false, .any⟩,
     ⟨"edge_missing", 4, 1, .w1c, .val 0, false, .any⟩,
     ⟨"state", 0, 3, .ro, .val 0, false, .any⟩]⟩,
   ⟨"SNS_CARRIER_OFFSET", 0x4008001C, [], [⟨"shelf_offset", 0, 8, .rw, .val 0, false, .any⟩]⟩,
   ⟨"SNS_SYNC_ADJ", 0x40080020, [], [⟨"shrink_count", 16, 16, .ro, .preserved, false, .any⟩,
     ⟨"stretch_count", 0, 16, .ro, .preserved, false, .any⟩]⟩]

/-- Registers of block SNS. -/
def Tab.sns : List RegRow := Tab.sns0

def Tab.adn0 : List RegRow :=
  [⟨"ADN_CTRL", 0x40090000, [], [⟨"scrub_en", 2, 1, .rw, .val 1, false, .any⟩,
     ⟨"gate_idle", 1, 1, .rw, .val 1, false, .any⟩]⟩,
   ⟨"ADN_STAT", 0x40090004, [], [⟨"n_fenced", 18, 6, .ro, .val 0, false, .any⟩,
     ⟨"n_test", 12, 6, .ro, .val 0, false, .any⟩,
     ⟨"n_bound", 6, 6, .ro, .val 0, false, .any⟩,
     ⟨"n_free", 0, 6, .ro, .val 48, false, .any⟩]⟩,
   ⟨"ADN_ECC_STAT", 0x40090008, [], [⟨"corrected", 16, 16, .ro, .val 0, false, .any⟩,
     ⟨"uncorr_w", 8, 8, .ro, .val 0, false, .any⟩,
     ⟨"uncorr_a", 0, 8, .ro, .val 0, false, .any⟩]⟩,
   ⟨"ADN_PASS_STAT", 0x4009000C, [], [⟨"late_count", 16, 16, .ro, .val 0, false, .any⟩,
     ⟨"assembling", 8, 1, .ro, .val 0, false, .any⟩,
     ⟨"last_end", 0, 8, .ro, .val 0, false, .any⟩]⟩,
   ⟨"ADN_CORE_STAT", 0x40090100, [(0x10, 12)], [⟨"state", 28, 4, .ro, .val 1, false, .any⟩,
     ⟨"slot", 22, 6, .ro, .val 63, false, .any⟩,
     ⟨"stop", 20, 2, .ro, .val 0, false, .any⟩,
     ⟨"fence_cause", 8, 4, .ro, .val 0, false, .any⟩,
     ⟨"ce_count", 0, 8, .ro, .val 0, false, .any⟩]⟩,
   ⟨"ADN_CORE_STAT", 0x400901C0, [(0x10, 12)], [⟨"state", 28, 4, .ro, .val 1, false, .any⟩,
     ⟨"slot", 22, 6, .ro, .val 63, false, .any⟩,
     ⟨"stop", 20, 2, .ro, .val 1, false, .any⟩,
     ⟨"fence_cause", 8, 4, .ro, .val 0, false, .any⟩,
     ⟨"ce_count", 0, 8, .ro, .val 0, false, .any⟩]⟩,
   ⟨"ADN_CORE_STAT", 0x40090280, [(0x10, 12)], [⟨"state", 28, 4, .ro, .val 1, false, .any⟩,
     ⟨"slot", 22, 6, .ro, .val 63, false, .any⟩,
     ⟨"stop", 20, 2, .ro, .val 2, false, .any⟩,
     ⟨"fence_cause", 8, 4, .ro, .val 0, false, .any⟩,
     ⟨"ce_count", 0, 8, .ro, .val 0, false, .any⟩]⟩,
   ⟨"ADN_CORE_STAT", 0x40090340, [(0x10, 12)], [⟨"state", 28, 4, .ro, .val 1, false, .any⟩,
     ⟨"slot", 22, 6, .ro, .val 63, false, .any⟩,
     ⟨"stop", 20, 2, .ro, .val 3, false, .any⟩,
     ⟨"fence_cause", 8, 4, .ro, .val 0, false, .any⟩,
     ⟨"ce_count", 0, 8, .ro, .val 0, false, .any⟩]⟩,
   ⟨"ADN_CORE_CYC", 0x40090104, [(0x10, 48)], [⟨"cycles", 0, 21, .ro, .val 0, false, .any⟩]⟩,
   ⟨"ADN_CORE_TEST", 0x40090108, [(0x10, 48)], [⟨"test_run", 31, 1, .rw, .val 0, false, .any⟩,
     ⟨"fail", 30, 1, .w1c, .val 0, false, .any⟩,
     ⟨"sets", 0, 16, .ro, .val 0, false, .any⟩]⟩,
   ⟨"ADN_CORE_CTRL", 0x4009010C, [(0x10, 48)], [⟨"fence", 1, 1, .wo, .val 0, false, .any⟩,
     ⟨"unfence", 0, 1, .wo, .val 0, false, .any⟩]⟩,
   ⟨"ADN_BANK_STAT", 0x40090400, [(0x4, 4)], [⟨"stall_kcyc", 16, 16, .ro, .val 0, false, .any⟩,
     ⟨"used_kib", 0, 16, .ro, .val 0, false, .any⟩]⟩]

/-- Registers of block ADN. -/
def Tab.adn : List RegRow := Tab.adn0

def Tab.mdl0 : List RegRow :=
  [⟨"MDL_CTRL", 0x400A0000, [], [⟨"reserve_cores", 4, 4, .rw, .val 1, true, .any⟩,
     ⟨"run_en", 0, 1, .rw, .val 1, false, .any⟩]⟩,
   ⟨"MDL_STAT", 0x400A0004, [], [⟨"n_stored", 24, 6, .ro, .preserved, false, .any⟩,
     ⟨"n_admitted", 18, 6, .ro, .preserved, false, .any⟩,
     ⟨"cores_bound", 12, 6, .ro, .preserved, false, .any⟩,
     ⟨"floor", 0, 3, .ro, .preserved, false, .any⟩]⟩,
   ⟨"MDL_MEM_STAT", 0x400A0008, [], [⟨"act_kib", 16, 16, .ro, .preserved, false, .any⟩,
     ⟨"tele_blocks", 0, 16, .ro, .preserved, false, .any⟩]⟩,
   ⟨"MDL_REFUSE", 0x400A000C, [], [⟨"slot", 8, 6, .ro, .val 63, false, .any⟩,
     ⟨"cause", 0, 4, .ro, .val 0, false, .any⟩]⟩,
   ⟨"MDL_SLOT_STAT", 0x400A0100, [(0x20, 32)], [⟨"state", 28, 4, .ro, .preserved, false, .any⟩,
     ⟨"variant", 26, 2, .ro, .preserved, false, .any⟩,
     ⟨"n_cores", 20, 6, .ro, .preserved, false, .any⟩,
     ⟨"level_floor", 17, 3, .ro, .preserved, false, .any⟩,
     ⟨"excused", 16, 1, .ro, .val 0, false, .any⟩,
     ⟨"overrun_run", 14, 2, .ro, .val 0, false, .any⟩,
     ⟨"stale", 13, 1, .ro, .val 0, false, .any⟩,
     ⟨"standard", 12, 1, .ro, .preserved, false, .any⟩]⟩,
   ⟨"MDL_SLOT_CNT", 0x400A0104, [(0x20, 32)], [⟨"overruns", 16, 16, .ro, .preserved, false, .any⟩,
     ⟨"stale_passes", 0, 16, .ro, .preserved, false, .any⟩]⟩,
   ⟨"MDL_SLOT_CORES_LO", 0x400A0108, [(0x20, 32)], [⟨"cores_lo", 0, 32, .ro, .preserved, false, .any⟩]⟩,
   ⟨"MDL_SLOT_CORES_HI", 0x400A010C, [(0x20, 32)], [⟨"cores_hi", 0, 16, .ro, .preserved, false, .any⟩]⟩,
   ⟨"MDL_SLOT_CYC", 0x400A0110, [(0x20, 32)], [⟨"decl_cycles", 0, 21, .ro, .preserved, false, .any⟩]⟩,
   ⟨"MDL_SLOT_LAST", 0x400A0114, [(0x20, 32)], [⟨"last_ok", 16, 16, .ro, .val 0, false, .any⟩]⟩]

/-- Registers of block MDL. -/
def Tab.mdl : List RegRow := Tab.mdl0

def Tab.est0 : List RegRow :=
  [⟨"EST_CTRL", 0x400B0000, [], [⟨"calib", 4, 3, .rw, .val 0, true, .any⟩,
     ⟨"discard_anchor", 0, 3, .wo, .val 0, false, .any⟩]⟩,
   ⟨"EST_NOISE", 0x400B0004, [], [⟨"sigma_z", 16, 16, .rw, .val 20, false, .any⟩,
     ⟨"sigma_v1", 8, 8, .rw, .val 5, false, .any⟩,
     ⟨"sigma_v", 0, 8, .rw, .val 20, false, .any⟩]⟩,
   ⟨"EST_CHARGE", 0x400B0008, [], [⟨"v_cv", 16, 16, .rw, .val 28000, true, .nat 26000 28500⟩,
     ⟨"taper_div", 8, 8, .rw, .val 20, true, .nat 5 100⟩]⟩,
   ⟨"EST_TIMES", 0x400B000C, [], [⟨"taper_time", 16, 16, .rw, .val 60, true, .nat 10 600⟩,
     ⟨"rest_time", 0, 16, .rw, .val 1800, true, .nat 600 7200⟩]⟩,
   ⟨"EST_LIMITS", 0x400B0010, [], [⟨"v_cutoff", 16, 16, .rw, .val 15000, true, .nat 14500 20000⟩,
     ⟨"rest_i", 0, 16, .rw, .val 200, true, .nat 50 1000⟩]⟩,
   ⟨"EST_CONFLICT", 0x400B0014, [], [⟨"div_thr", 24, 8, .rw, .val 15, true, .nat 1 50⟩,
     ⟨"div_time", 16, 8, .rw, .val 10, true, .nat 1 255⟩,
     ⟨"hold_thr", 8, 8, .rw, .val 5, true, .upTo 24 8⟩,
     ⟨"conv", 0, 8, .rw, .val 10, true, .nat 1 255⟩]⟩,
   ⟨"EST_ANCHOR_AGE", 0x400B0018, [], [⟨"anchor_age", 0, 8, .rw, .val 72, true, .nat 1 255⟩]⟩,
   ⟨"EST_STR_SOC", 0x400B0100, [(0x40, 3)], [⟨"soc_str", 16, 16, .ro, .preserved, false, .any⟩,
     ⟨"soc_rep", 0, 16, .ro, .preserved, false, .any⟩]⟩,
   ⟨"EST_STR_CC", 0x400B0104, [(0x40, 3)], [⟨"div", 16, 16, .ro, .preserved, false, .any⟩,
     ⟨"soc_cc", 0, 16, .ro, .preserved, false, .any⟩]⟩,
   ⟨"EST_STR_FLAG", 0x400B0108, [(0x40, 3)], [⟨"track_full", 11, 1, .ro, .preserved, false, .any⟩,
     ⟨"cur_flag", 10, 1, .ro, .preserved, false, .any⟩,
     ⟨"gap", 9, 1, .ro, .preserved, false, .any⟩,
     ⟨"cutoff", 8, 1, .w1c, .val 0, false, .any⟩,
     ⟨"eoc", 7, 1, .w1c, .val 0, false, .any⟩,
     ⟨"conflict", 6, 1, .w1c, .val 0, false, .any⟩,
     ⟨"suspect", 5, 1, .ro, .preserved, false, .any⟩,
     ⟨"at_rest", 4, 1, .ro, .preserved, false, .any⟩,
     ⟨"cv", 3, 1, .ro, .preserved, false, .any⟩,
     ⟨"discharging", 2, 1, .ro, .preserved, false, .any⟩,
     ⟨"init", 1, 1, .ro, .preserved, false, .any⟩,
     ⟨"valid", 0, 1, .ro, .preserved, false, .any⟩]⟩,
   ⟨"EST_STR_TAPER", 0x400B010C, [(0x40, 3)], [⟨"taper_count", 0, 16, .ro, .preserved, false, .any⟩]⟩,
   ⟨"EST_STR_REST", 0x400B0110, [(0x40, 3)], [⟨"rest_count", 0, 20, .ro, .preserved, false, .any⟩]⟩,
   ⟨"EST_STR_QACC_LO", 0x400B0114, [(0x40, 3)], [⟨"qacc_lo", 0, 32, .ro, .preserved, false, .any⟩]⟩,
   ⟨"EST_STR_QACC_HI", 0x400B0118, [(0x40, 3)], [⟨"qacc_hi", 0, 32, .ro, .preserved, false, .any⟩]⟩]

def Tab.est1 : List RegRow :=
  [⟨"EST_STR_QSNAP_LO", 0x400B011C, [(0x40, 3)], [⟨"qsnap_lo", 0, 32, .ro, .preserved, false, .any⟩]⟩,
   ⟨"EST_STR_QSNAP_HI", 0x400B0120, [(0x40, 3)], [⟨"qsnap_hi", 0, 32, .ro, .preserved, false, .any⟩]⟩,
   ⟨"EST_STR_ISNAP", 0x400B0124, [(0x40, 3)], [⟨"val", 0, 32, .ro, .preserved, false, .any⟩]⟩,
   ⟨"EST_STR_ICV", 0x400B0128, [(0x40, 3)], [⟨"val", 0, 32, .ro, .preserved, false, .any⟩]⟩,
   ⟨"EST_STR_CAP", 0x400B012C, [(0x40, 3)], [⟨"cap", 16, 16, .ro, .preserved, false, .any⟩,
     ⟨"source", 14, 2, .ro, .preserved, false, .any⟩]⟩,
   ⟨"EST_STR_ANCHOR", 0x400B0130, [(0x40, 3)], [⟨"anchor_soc", 0, 16, .ro, .preserved, false, .any⟩]⟩,
   ⟨"EST_STR_TRACK", 0x400B0134, [(0x40, 3)], [⟨"q_dis", 16, 16, .ro, .preserved, false, .any⟩,
     ⟨"q_chg", 0, 16, .ro, .preserved, false, .any⟩]⟩,
   ⟨"EST_MODEL_CTRL", 0x400B1000, [(0x100, 3)], [⟨"cap_rated", 16, 16, .rw, .val 0, true, .any⟩,
     ⟨"valid", 0, 1, .rw, .val 0, true, .any⟩]⟩,
   ⟨"EST_MODEL_TEMP", 0x400B1004, [(0x100, 3)], [⟨"temps", 0, 32, .rw, .val 0x2D190F00, true, .any⟩]⟩,
   ⟨"EST_MODEL_R0_A", 0x400B1008, [(0x100, 3)], [⟨"r0_t1", 16, 16, .rw, .val 0, true, .any⟩,
     ⟨"r0_t0", 0, 16, .rw, .val 0, true, .any⟩]⟩,
   ⟨"EST_MODEL_R0_B", 0x400B100C, [(0x100, 3)], [⟨"r0_t3", 16, 16, .rw, .val 0, true, .any⟩,
     ⟨"r0_t2", 0, 16, .rw, .val 0, true, .any⟩]⟩,
   ⟨"EST_MODEL_RC", 0x400B1010, [(0x100, 3)], [⟨"r1", 16, 16, .rw, .val 0, true, .any⟩,
     ⟨"tau1", 0, 16, .rw, .val 0, true, .any⟩]⟩,
   ⟨"EST_OCV", 0x400B1040, [(0x100, 3), (0x4, 42)], [⟨"odd", 16, 16, .rw, .val 0, true, .any⟩,
     ⟨"even", 0, 16, .rw, .val 0, true, .any⟩]⟩]

/-- Registers of block EST. -/
def Tab.est : List RegRow := Tab.est0 ++ Tab.est1

def Tab.hmp0 : List RegRow :=
  [⟨"HMP_CTRL", 0x400C0000, [], [⟨"decim_log2", 12, 4, .rw, .val 0, false, .any⟩,
     ⟨"force_trig", 2, 1, .wo, .val 0, false, .any⟩,
     ⟨"disarm", 1, 1, .wo, .val 0, false, .any⟩,
     ⟨"arm", 0, 1, .wo, .val 0, false, .any⟩]⟩,
   ⟨"HMP_NODES", 0x400C0004, [], [⟨"count", 0, 7, .rw, .val 1, false, .any⟩]⟩,
   ⟨"HMP_REGION", 0x400C0008, [], [⟨"size_mib", 0, 13, .rw, .val 64, false, .any⟩]⟩,
   ⟨"HMP_PRE", 0x400C000C, [], [⟨"pre", 0, 24, .rw, .val 0, false, .any⟩]⟩,
   ⟨"HMP_POST", 0x400C0010, [], [⟨"post", 0, 24, .rw, .val 1, false, .any⟩]⟩,
   ⟨"HMP_TRIG_CTRL", 0x400C0014, [], [⟨"source", 28, 4, .rw, .val 3, false, .any⟩,
     ⟨"edge", 26, 2, .rw, .val 0, false, .any⟩,
     ⟨"min_class", 24, 2, .rw, .val 0, false, .any⟩,
     ⟨"block", 16, 5, .rw, .val 0, false, .any⟩,
     ⟨"node_id", 0, 16, .rw, .val 0, false, .any⟩]⟩,
   ⟨"HMP_TRIG_LEVEL", 0x400C0018, [], [⟨"val", 0, 32, .rw, .val 0, false, .any⟩]⟩,
   ⟨"HMP_STAT", 0x400C001C, [], [⟨"state", 30, 2, .ro, .val 0, false, .any⟩,
     ⟨"truncated", 29, 1, .ro, .val 0, false, .any⟩,
     ⟨"pre_valid", 0, 24, .ro, .val 0, false, .any⟩]⟩,
   ⟨"HMP_EFF_PRE", 0x400C0020, [], [⟨"pre_eff", 0, 24, .ro, .val 0, false, .any⟩]⟩,
   ⟨"HMP_EFF_POST", 0x400C0024, [], [⟨"post_eff", 0, 24, .ro, .val 0, false, .any⟩]⟩,
   ⟨"HMP_TRIG_FRAME_LO", 0x400C0028, [], [⟨"frame_lo", 0, 32, .ro, .val 0, false, .any⟩]⟩,
   ⟨"HMP_TRIG_FRAME_HI", 0x400C002C, [], [⟨"frame_hi", 0, 16, .ro, .val 0, false, .any⟩]⟩,
   ⟨"HMP_NODE_SEL", 0x400C0100, [(0x4, 64)], [⟨"node_id", 0, 16, .rw, .val 0, false, .any⟩]⟩]

/-- Registers of block HMP. -/
def Tab.hmp : List RegRow := Tab.hmp0

def Tab.lks0 : List RegRow :=
  [⟨"LKS_CTRL", 0x400D0000, [], [⟨"pref_slot", 10, 2, .rw, .val 0, true, .any⟩,
     ⟨"pair_mode", 9, 1, .rw, .val 0, true, .any⟩,
     ⟨"clear_counts", 4, 1, .wo, .val 0, false, .any⟩,
     ⟨"resync", 3, 1, .wo, .val 0, false, .any⟩,
     ⟨"test_en", 2, 1, .rw, .val 1, false, .any⟩]⟩,
   ⟨"LKS_STAT", 0x400D0004, [], [⟨"claim_own", 28, 4, .ro, .val 0, false, .any⟩,
     ⟨"claim_partner", 24, 4, .ro, .val 0, false, .any⟩,
     ⟨"partner_valid", 23, 1, .ro, .val 0, false, .any⟩,
     ⟨"own_valid", 22, 1, .ro, .val 0, false, .any⟩,
     ⟨"role", 20, 2, .ro, .val 0, false, .any⟩,
     ⟨"synced", 19, 1, .ro, .val 0, false, .any⟩,
     ⟨"single", 18, 1, .ro, .val 0, false, .any⟩,
     ⟨"slot_id", 0, 2, .ro, .preserved, false, .any⟩]⟩,
   ⟨"LKS_HEALTH", 0x400D0008, [], [⟨"partner_items", 16, 9, .ro, .val 0, false, .any⟩,
     ⟨"own_items", 0, 9, .ro, .val 0, false, .any⟩]⟩,
   ⟨"LKS_PHASE", 0x400D000C, [], [⟨"phase_diff", 16, 16, .ro, .val 0, false, .any⟩]⟩,
   ⟨"LKS_CNT_A", 0x400D0010, [], [⟨"exch_miss", 16, 16, .ro, .val 0, false, .any⟩,
     ⟨"mismatch", 0, 16, .ro, .val 0, false, .any⟩]⟩,
   ⟨"LKS_CNT_B", 0x400D0014, [], [⟨"resyncs", 16, 16, .ro, .val 0, false, .any⟩,
     ⟨"claim_changes", 0, 16, .ro, .val 0, false, .any⟩]⟩,
   ⟨"LKS_ADC", 0x400D0018, [], [⟨"adc_fail", 0, 24, .ro, .val 0, false, .any⟩]⟩,
   ⟨"LKS_ADC_TOL", 0x400D001C, [], [⟨"adc_tol", 0, 16, .rw, .val 164, true, .any⟩]⟩,
   ⟨"LKS_TEST", 0x400D0020, [], [⟨"next_core", 26, 6, .ro, .val 0, false, .any⟩,
     ⟨"last_core", 20, 6, .ro, .val 63, false, .any⟩,
     ⟨"last_fail", 19, 1, .w1c, .val 0, false, .any⟩,
     ⟨"running", 18, 1, .ro, .val 0, false, .any⟩,
     ⟨"interval", 0, 16, .rw, .val 572, true, .any⟩]⟩,
   ⟨"LKS_GRACE", 0x400D0024, [], [⟨"compute_grace", 0, 8, .rw, .val 2, true, .any⟩]⟩,
   ⟨"LKS_REPORT_OWN", 0x400D0040, [(0x4, 16)], [⟨"word", 0, 32, .ro, .val 0, false, .any⟩]⟩,
   ⟨"LKS_REPORT_PARTNER", 0x400D0080, [(0x4, 16)], [⟨"word", 0, 32, .ro, .val 0, false, .any⟩]⟩,
   ⟨"LKS_LOCK_STAT", 0x400D0100, [], [⟨"state", 28, 4, .ro, .val 0, false, .any⟩,
     ⟨"lanes_up", 24, 4, .ro, .val 0, false, .any⟩,
     ⟨"cause", 20, 4, .ro, .val 0, false, .any⟩,
     ⟨"rtt_ns", 0, 16, .ro, .val 0, false, .any⟩]⟩,
   ⟨"LKS_LOCK_CNT", 0x400D0104, [], [⟨"crc_err", 16, 16, .ro, .val 0, false, .any⟩,
     ⟨"resent", 0, 16, .ro, .val 0, false, .any⟩]⟩]

def Tab.lks1 : List RegRow :=
  [⟨"LKS_LOCK_BER", 0x400D0108, [(0x4, 4)], [⟨"err", 0, 32, .ro, .val 0, false, .any⟩]⟩,
   ⟨"LKS_HB", 0x400D00C0, [(0x4, 4)], [⟨"beat", 0, 1, .wo, .val 0, false, .any⟩]⟩,
   ⟨"LKS_WDOG_CTRL", 0x400D00D0, [], [⟨"hb_reset", 16, 16, .rw, .val 64, true, .nat 8 4096⟩,
     ⟨"hb_miss", 8, 8, .rw, .val 4, true, .upTo 16 16⟩,
     ⟨"hb_expect", 0, 4, .rw, .val 1, false, .any⟩]⟩,
   ⟨"LKS_WDOG_STAT", 0x400D00D4, [], [⟨"wd_resets", 16, 16, .ro, .preserved, false, .any⟩,
     ⟨"missing", 12, 4, .ro, .val 0, false, .any⟩,
     ⟨"booting", 0, 1, .ro, .val 0, false, .any⟩]⟩,
   ⟨"LKS_DUMP_CTRL", 0x400D00E0, [], [⟨"request", 0, 1, .wo, .val 0, true, .any⟩]⟩,
   ⟨"LKS_DUMP_STAT", 0x400D00E4, [], [⟨"dumps", 16, 16, .ro, .preserved, false, .any⟩,
     ⟨"timeouts", 8, 8, .ro, .preserved, false, .any⟩,
     ⟨"last", 6, 2, .ro, .preserved, false, .any⟩,
     ⟨"trigger", 4, 2, .ro, .preserved, false, .any⟩,
     ⟨"cut", 1, 1, .ro, .preserved, false, .any⟩,
     ⟨"busy", 0, 1, .ro, .val 0, false, .any⟩]⟩]

/-- Registers of block LKS. -/
def Tab.lks : List RegRow := Tab.lks0 ++ Tab.lks1

def Tab.kpr0 : List RegRow :=
  [⟨"KPR_CHWAKE_CTRL", 0x400E0400, [], [⟨"wake_en", 0, 1, .rw, .val 1, true, .any⟩]⟩,
   ⟨"KPR_CHWAKE_STAT", 0x400E0404, [], [⟨"rejected", 24, 8, .ro, .val 0, false, .any⟩,
     ⟨"accepted", 16, 8, .ro, .val 0, false, .any⟩,
     ⟨"port", 8, 3, .ro, .val 0, false, .any⟩,
     ⟨"limiting", 2, 1, .ro, .val 0, false, .any⟩,
     ⟨"host_wake", 1, 1, .w1c, .val 0, false, .any⟩]⟩,
   ⟨"KPR_CAPSLOT_STAT", 0x400E0500, [], [⟨"store_fail", 5, 1, .ro, .preserved, false, .any⟩,
     ⟨"verify_fail", 4, 1, .w1c, .val 0, false, .any⟩,
     ⟨"busy", 3, 1, .ro, .val 0, false, .any⟩,
     ⟨"valid_b", 2, 1, .ro, .preserved, false, .any⟩,
     ⟨"valid_a", 1, 1, .ro, .preserved, false, .any⟩,
     ⟨"current", 0, 1, .ro, .preserved, false, .any⟩]⟩,
   ⟨"KPR_CAPSLOT_SEQ", 0x400E0504, [], [⟨"seq", 0, 32, .ro, .preserved, false, .any⟩]⟩,
   ⟨"KPR_CLKMON_STAT", 0x400E0000, [], [⟨"attempts", 26, 2, .ro, .val 0, false, .any⟩,
     ⟨"lockout", 25, 1, .ro, .val 0, false, .any⟩,
     ⟨"wait", 24, 1, .ro, .val 0, false, .any⟩,
     ⟨"last_cause", 16, 4, .ro, .val 0, false, .any⟩,
     ⟨"trips", 0, 16, .ro, .val 0, false, .any⟩]⟩,
   ⟨"KPR_CLKMON_GAP", 0x400E0004, [], [⟨"gap", 0, 32, .ro, .val 0, false, .any⟩]⟩,
   ⟨"KPR_XT_AMP", 0x400E0008, [], [⟨"xt1_mv", 16, 16, .ro, .val 0, false, .any⟩,
     ⟨"xt0_mv", 0, 16, .ro, .val 0, false, .any⟩]⟩,
   ⟨"KPR_CMP_ZONE", 0x400E0100, [(0x10, 4)], [⟨"ov_thr", 22, 10, .rw, .val 845, true, .nat 720 900⟩,
     ⟨"uv_thr", 12, 10, .rw, .val 665, true, .nat 500 800⟩,
     ⟨"armed", 4, 1, .ro, .val 0, false, .any⟩,
     ⟨"ov_trip", 3, 1, .ro, .val 0, false, .any⟩,
     ⟨"uv_trip", 2, 1, .ro, .val 0, false, .any⟩,
     ⟨"ov_seen", 1, 1, .w1c, .val 0, false, .any⟩,
     ⟨"uv_seen", 0, 1, .w1c, .val 0, false, .any⟩]⟩,
   ⟨"KPR_CMP_STR", 0x400E0140, [(0x4, 3)], [⟨"oc_thr", 16, 8, .rw, .val 220, true, .nat 50 250⟩,
     ⟨"oc_trip", 2, 1, .ro, .val 0, false, .any⟩,
     ⟨"oc_seen", 1, 1, .w1c, .val 0, false, .any⟩]⟩,
   ⟨"KPR_SUPPLY_STAT", 0x400E0200, [], [⟨"aux_mv", 16, 16, .ro, .val 0, false, .any⟩,
     ⟨"pf_seen", 6, 1, .w1c, .val 0, false, .any⟩,
     ⟨"bow_seen", 5, 1, .w1c, .val 0, false, .any⟩,
     ⟨"bow", 4, 1, .ro, .val 0, false, .any⟩]⟩,
   ⟨"KPR_SUPPLY_CNT", 0x400E0204, [], [⟨"pf_count", 16, 16, .ro, .val 0, false, .any⟩,
     ⟨"bow_count", 0, 16, .ro, .val 0, false, .any⟩]⟩,
   ⟨"KPR_HOLDUP", 0x400E0208, [], [⟨"last_ms", 0, 16, .ro, .val 0, false, .any⟩]⟩,
   ⟨"KPR_WAKE_CTRL", 0x400E0300, [], [⟨"timer_s", 16, 16, .rw, .val 0, false, .any⟩,
     ⟨"oc_en", 5, 1, .rw, .val 1, false, .any⟩,
     ⟨"ext_en", 4, 1, .rw, .val 1, false, .any⟩,
     ⟨"usb_en", 3, 1, .rw, .val 1, false, .any⟩,
     ⟨"m1_en", 2, 1, .rw, .val 1, false, .any⟩,
     ⟨"m0_en", 1, 1, .rw, .val 1, false, .any⟩]⟩,
   ⟨"KPR_WAKE_STAT", 0x400E0304, [], [⟨"wakes", 16, 8, .ro, .val 0, false, .any⟩,
     ⟨"cause", 0, 4, .ro, .val 0, false, .any⟩]⟩]

def Tab.kpr1 : List RegRow :=
  [⟨"KPR_RST_CTRL", 0x400E0600, [], [⟨"req", 0, 4, .wo, .val 0, true, .any⟩]⟩,
   ⟨"KPR_RST_STAT", 0x400E0604, [], [⟨"in_reset", 28, 4, .ro, .val 0, false, .any⟩,
     ⟨"cause_mem", 12, 4, .ro, .val 1, false, .any⟩,
     ⟨"cause_links", 8, 4, .ro, .val 1, false, .any⟩,
     ⟨"cause_compute", 4, 4, .ro, .val 1, false, .any⟩,
     ⟨"cause_loop", 0, 4, .ro, .val 1, false, .any⟩]⟩,
   ⟨"KPR_RST_CNT", 0x400E0608, [], [⟨"loop", 24, 8, .ro, .val 0, false, .any⟩,
     ⟨"compute", 16, 8, .ro, .val 0, false, .any⟩,
     ⟨"links", 8, 8, .ro, .val 0, false, .any⟩,
     ⟨"memory", 0, 8, .ro, .val 0, false, .any⟩]⟩]

/-- Registers of block KPR. -/
def Tab.kpr : List RegRow := Tab.kpr0 ++ Tab.kpr1

def Tab.clk0 : List RegRow :=
  [⟨"CLK_ADN_LEVEL", 0x400F0200, [], [⟨"floor_conflict", 22, 1, .ro, .val 0, false, .any⟩,
     ⟨"busy", 21, 1, .ro, .val 0, false, .any⟩,
     ⟨"present", 18, 3, .ro, .val 0, false, .any⟩,
     ⟨"eff", 15, 3, .ro, .val 0, false, .any⟩,
     ⟨"cap", 12, 3, .ro, .val 5, false, .any⟩,
     ⟨"floor", 9, 3, .ro, .val 0, false, .any⟩,
     ⟨"max_level", 3, 3, .rw, .val 5, true, .any⟩,
     ⟨"target", 0, 3, .rw, .val 0, false, .any⟩]⟩,
   ⟨"CLK_ADN_SEQ", 0x400F0204, [], [⟨"freq_mhz", 20, 12, .ro, .val 400, false, .any⟩,
     ⟨"rail_mv", 8, 12, .ro, .val 0, false, .any⟩,
     ⟨"phase", 0, 3, .ro, .val 0, false, .any⟩]⟩,
   ⟨"CLK_ADN_DROOP", 0x400F0208, [], [⟨"trips", 16, 16, .ro, .val 0, false, .any⟩,
     ⟨"trips_slow", 8, 8, .ro, .val 0, false, .any⟩,
     ⟨"droop_cap", 5, 3, .ro, .val 5, false, .any⟩,
     ⟨"cap_clear", 3, 1, .wo, .val 0, false, .any⟩,
     ⟨"cap_active", 2, 1, .ro, .val 0, false, .any⟩,
     ⟨"tripped", 1, 1, .w1c, .val 0, false, .any⟩,
     ⟨"active", 0, 1, .ro, .val 0, false, .any⟩]⟩,
   ⟨"CLK_ADN_THERM", 0x400F020C, [], [⟨"tj", 16, 16, .ro, .val 0, false, .any⟩,
     ⟨"therm_cap", 0, 3, .ro, .val 5, false, .any⟩]⟩,
   ⟨"CLK_SRC_STAT", 0x400F0000, [], [⟨"xt_fallback", 7, 1, .ro, .preserved, false, .any⟩,
     ⟨"ref", 5, 2, .ro, .preserved, false, .any⟩,
     ⟨"xt1_stable", 4, 1, .ro, .val 0, false, .any⟩,
     ⟨"xt0_stable", 3, 1, .ro, .val 0, false, .any⟩,
     ⟨"pll2_lock", 2, 1, .ro, .val 0, false, .any⟩,
     ⟨"pll1_lock", 1, 1, .ro, .val 0, false, .any⟩,
     ⟨"pll0_lock", 0, 1, .ro, .val 0, false, .any⟩]⟩,
   ⟨"CLK_MUX_STAT", 0x400F0004, [], [⟨"sup_on_pll", 2, 1, .ro, .val 0, false, .any⟩,
     ⟨"eng_on_pll", 1, 1, .ro, .val 0, false, .any⟩,
     ⟨"switching", 0, 1, .ro, .val 0, false, .any⟩]⟩,
   ⟨"CLK_PSTATE", 0x400F0008, [], [⟨"refused", 7, 1, .w1c, .val 0, false, .any⟩,
     ⟨"state", 3, 2, .ro, .val 0, false, .any⟩,
     ⟨"req", 0, 2, .wo, .val 0, false, .any⟩]⟩,
   ⟨"CLK_ADN_LOSS", 0x400F000C, [], [⟨"rail_losses", 16, 16, .ro, .preserved, false, .any⟩,
     ⟨"pll1_losses", 0, 16, .ro, .preserved, false, .any⟩]⟩]

/-- Registers of block CLK. -/
def Tab.clk : List RegRow := Tab.clk0

def Tab.mgp0 : List RegRow :=
  [⟨"MGP_CTRL", 0x40100000, [], [⟨"session_idle", 16, 10, .rw, .val 60, true, .nat 10 600⟩,
     ⟨"lease", 0, 6, .rw, .val 10, true, .nat 1 60⟩]⟩,
   ⟨"MGP_SEM_STAT", 0x40100004, [], [⟨"remain_ms", 16, 16, .ro, .val 0, false, .any⟩,
     ⟨"port", 4, 2, .ro, .val 3, false, .any⟩,
     ⟨"held", 0, 1, .ro, .val 0, false, .any⟩]⟩,
   ⟨"MGP_SEM_SESSION", 0x40100008, [], [⟨"session", 0, 32, .ro, .val 0, false, .any⟩]⟩,
   ⟨"MGP_SEM_CNT", 0x4010000C, [], [⟨"seized", 16, 16, .ro, .val 0, false, .any⟩,
     ⟨"expired", 0, 16, .ro, .val 0, false, .any⟩]⟩,
   ⟨"MGP_PORT_CTRL", 0x40100040, [(0x40, 2)], [⟨"udp_port", 16, 16, .rw, .val 47390, true, .nat 1024 65535⟩,
     ⟨"vlan", 0, 12, .rw, .val 0, true, .nat 0 4094⟩]⟩,
   ⟨"MGP_PORT_CFG", 0x40100044, [(0x40, 2)], [⟨"mtu", 16, 16, .rw, .val 9000, true, .nat 1500 9000⟩,
     ⟨"window", 0, 6, .rw, .val 8, true, .nat 2 32⟩]⟩,
   ⟨"MGP_IP4", 0x40100048, [(0x40, 2)], [⟨"addr", 0, 32, .rw, .val 0, true, .any⟩]⟩,
   ⟨"MGP_IP4_PFX", 0x4010004C, [(0x40, 2)], [⟨"prefix", 0, 6, .rw, .val 24, true, .nat 8 30⟩]⟩,
   ⟨"MGP_IP6", 0x40100050, [(0x40, 2), (0x4, 4)], [⟨"addr", 0, 32, .rw, .val 0, true, .any⟩]⟩,
   ⟨"MGP_IP6_PFX", 0x40100060, [(0x40, 2)], [⟨"prefix", 0, 8, .rw, .val 64, true, .nat 16 128⟩]⟩,
   ⟨"MGP_PORT_STAT", 0x40100064, [(0x40, 2)], [⟨"link", 31, 1, .ro, .val 0, false, .any⟩,
     ⟨"module_ok", 30, 1, .ro, .val 0, false, .any⟩,
     ⟨"sessions", 24, 3, .ro, .val 0, false, .any⟩,
     ⟨"in_window", 8, 6, .ro, .val 0, false, .any⟩]⟩,
   ⟨"MGP_PORT_CNT", 0x40100068, [(0x40, 2)], [⟨"busy", 16, 16, .ro, .val 0, false, .any⟩,
     ⟨"bad_mac", 0, 16, .ro, .val 0, false, .any⟩]⟩]

/-- Registers of block MGP. -/
def Tab.mgp : List RegRow := Tab.mgp0

def Tab.sec0 : List RegRow :=
  [⟨"SEC_BOOT", 0x40110000, [], [⟨"rollback", 16, 7, .ro, .preserved, false, .any⟩,
     ⟨"trial", 6, 2, .ro, .preserved, false, .any⟩,
     ⟨"next_bank", 5, 1, .ro, .preserved, false, .any⟩,
     ⟨"bank", 4, 1, .ro, .preserved, false, .any⟩,
     ⟨"fallback", 1, 1, .ro, .preserved, false, .any⟩,
     ⟨"recovery", 0, 1, .ro, .preserved, false, .any⟩]⟩,
   ⟨"SEC_FW_A", 0x40110004, [], [⟨"baseline", 0, 32, .ro, .preserved, false, .any⟩]⟩,
   ⟨"SEC_FW_B", 0x40110008, [], [⟨"baseline", 0, 32, .ro, .preserved, false, .any⟩]⟩,
   ⟨"SEC_FW_STAT", 0x4011000C, [], [⟨"cause", 16, 8, .ro, .val 0, false, .any⟩,
     ⟨"result", 8, 8, .ro, .val 0, false, .any⟩,
     ⟨"op", 1, 1, .ro, .val 0, false, .any⟩,
     ⟨"busy", 0, 1, .ro, .val 0, false, .any⟩]⟩,
   ⟨"SEC_KEYS", 0x40110010, [], [⟨"present", 1, 20, .ro, .preserved, false, .any⟩,
     ⟨"root", 0, 1, .ro, .val 1, false, .any⟩]⟩,
   ⟨"SEC_SESSIONS", 0x40110014, [], [⟨"maker", 16, 8, .ro, .val 0, false, .any⟩,
     ⟨"installer", 8, 8, .ro, .val 0, false, .any⟩,
     ⟨"operator", 0, 8, .ro, .val 0, false, .any⟩]⟩,
   ⟨"SEC_AUTH_CNT", 0x40110018, [], [⟨"failed", 16, 16, .ro, .val 0, false, .any⟩,
     ⟨"opened", 0, 16, .ro, .val 0, false, .any⟩]⟩,
   ⟨"SEC_AUDIT_LO", 0x40110020, [], [⟨"next_lo", 0, 32, .ro, .preserved, false, .any⟩]⟩,
   ⟨"SEC_AUDIT_HI", 0x40110024, [], [⟨"next_hi", 0, 32, .ro, .preserved, false, .any⟩]⟩,
   ⟨"SEC_AUDIT_STAT", 0x40110028, [], [⟨"staged", 16, 8, .ro, .preserved, false, .any⟩,
     ⟨"full", 0, 1, .ro, .preserved, false, .any⟩]⟩]

/-- Registers of block SEC. -/
def Tab.sec : List RegRow := Tab.sec0

def Tab.flt0 : List RegRow :=
  [⟨"FLT_STAT", 0x7F00, [], [⟨"count", 16, 16, .ro, .preserved, false, .any⟩,
     ⟨"halt", 12, 1, .ro, .preserved, false, .any⟩,
     ⟨"own_pend", 8, 3, .w1c, .preserved, false, .any⟩,
     ⟨"pair_pend", 0, 3, .w1c, .preserved, false, .any⟩]⟩,
   ⟨"FLT_CFG", 0x7F04, [], [⟨"mode", 8, 1, .rw, .val 0, true, .any⟩,
     ⟨"irq_en", 0, 4, .rw, .val 14, false, .any⟩]⟩,
   ⟨"FLT_CTRL", 0x7F08, [], [⟨"clear_capture", 0, 1, .wo, .val 0, false, .any⟩]⟩,
   ⟨"FLT_FIRST_INFO", 0x7F0C, [], [⟨"code", 24, 8, .ro, .preserved, false, .any⟩,
     ⟨"class", 22, 2, .ro, .preserved, false, .any⟩,
     ⟨"escalated", 21, 1, .ro, .preserved, false, .any⟩,
     ⟨"own", 20, 1, .ro, .preserved, false, .any⟩,
     ⟨"valid", 19, 1, .ro, .preserved, false, .any⟩,
     ⟨"access", 16, 3, .ro, .preserved, false, .any⟩,
     ⟨"unit", 0, 16, .ro, .preserved, false, .any⟩]⟩,
   ⟨"FLT_FIRST_ADDR", 0x7F10, [], [⟨"addr", 0, 32, .ro, .preserved, false, .any⟩]⟩,
   ⟨"FLT_FIRST_TIME_LO", 0x7F14, [], [⟨"time_lo", 0, 32, .ro, .preserved, false, .any⟩]⟩,
   ⟨"FLT_FIRST_TIME_HI", 0x7F18, [], [⟨"master", 24, 8, .ro, .preserved, false, .any⟩,
     ⟨"time_hi", 0, 16, .ro, .preserved, false, .any⟩]⟩,
   ⟨"FLT_HIST_PTR", 0x7F1C, [], [⟨"next", 0, 3, .ro, .preserved, false, .any⟩]⟩,
   ⟨"FLT_HIST_INFO", 0x7F40, [(0x10, 8)], [⟨"info", 0, 32, .ro, .preserved, false, .any⟩]⟩,
   ⟨"FLT_HIST_TIME_LO", 0x7F44, [(0x10, 8)], [⟨"time_lo", 0, 32, .ro, .preserved, false, .any⟩]⟩,
   ⟨"FLT_HIST_TIME_HI", 0x7F48, [(0x10, 8)], [⟨"time_hi", 0, 16, .ro, .preserved, false, .any⟩]⟩]

/-- Registers of block fault window (R441), by offset. -/
def Tab.flt : List RegRow := Tab.flt0

end Sys2Proof.Machine
end

