-- ==== Sys2Proof/Machine/Regs.lean ====
section
/-! DEFINITION. The register file: a sorted list of addresses and words in one canonical form, in which an address that is not
listed reads as its reset value; the look-up of a register in the tables; the write of a word under the access codes of Table
00-3 (R8) and the ranges of its fields; and the reset of a block's registers (R11, R451). -/

namespace Sys2Proof.Machine

/-- The blocks in the order of Table 13-8: block `b` starts at `0x4000_0000 + 0x1_0000 × b`. -/
def blockTab : Nat → List RegRow
  | 0 => Tab.sup | 1 => Tab.lpe | 2 => Tab.prf | 3 => Tab.ffw | 4 => Tab.zfb | 5 => Tab.stl | 6 => Tab.wgl | 7 => Tab.chn
  | 8 => Tab.sns | 9 => Tab.adn | 10 => Tab.mdl | 11 => Tab.est | 12 => Tab.hmp | 13 => Tab.lks | 14 => Tab.kpr
  | 15 => Tab.clk | 16 => Tab.mgp | 17 => Tab.sec | _ => []

/-- The block an address lies in, of the 18 of Table 13-8 (R382). -/
def blockOf (a : Nat) : Option Nat :=
  if 0x40000000 ≤ a ∧ a < 0x40120000 then some ((a - 0x40000000) / 0x10000) else none

/-- Does an offset from a row's first address fall on one of its registers? -/
def dimsMatch : List (Nat × Nat) → Nat → Bool
  | [], off => off == 0
  | (st, c) :: ds, off => decide (off / st < c) && dimsMatch ds (off % st)

/-- The first row of a table that holds the address `a`. -/
def findIn : List RegRow → Nat → Option RegRow
  | [], _ => none
  | r :: rs, a => if r.base ≤ a ∧ dimsMatch r.dims (a - r.base) = true then some r else findIn rs a

/-- The row of the register at an address, if a register stands there (R382). The window of R441 lies in every block. -/
def regRow (a : Nat) : Option RegRow :=
  match blockOf a with
  | none => none
  | some b =>
    let off := (a - 0x40000000) % 0x10000
    if 0x7F00 ≤ off ∧ off < 0x8000 then findIn Tab.flt off else findIn (blockTab b) a

/-- A field's reset value at power-on (R11). A field marked P or X has none in the table; the model takes 0 (log entry 3). -/
def RstVal.powerOn : RstVal → Nat
  | .val n => n
  | .preserved => 0
  | .undef => 0

/-- The word a list of fields resets to. -/
def fieldsReset : List FieldRow → Nat
  | [] => 0
  | f :: fs => f.reset.powerOn % 2 ^ f.len * 2 ^ f.lo + fieldsReset fs

/-- What an address that is not listed reads as: the register's reset word, and 0 where no register stands (R382). -/
def resetWord (a : Nat) : Word :=
  match regRow a with
  | none => 0
  | some r => BitVec.ofNat 32 (fieldsReset r.fields)

/-- The register file. -/
abbrev Regs := List (Nat × Word)

/-- Look up a listed address. -/
def Regs.find : Regs → Nat → Option Word
  | [], _ => none
  | (b, w) :: t, a => if a = b then some w else Regs.find t a

/-- The word of a register. -/
def Regs.get (l : Regs) (a : Nat) : Word :=
  match l.find a with
  | some w => w
  | none => resetWord a

/-- List an address with a word, in place. -/
def Regs.ins : Regs → Nat → Word → Regs
  | [], a, w => [(a, w)]
  | (b, v) :: t, a, w => if a < b then (a, w) :: (b, v) :: t else if a = b then (a, w) :: t else (b, v) :: Regs.ins t a w

/-- Take an address off the list. -/
def Regs.del (l : Regs) (a : Nat) : Regs := l.filter fun p => p.1 != a

/-- Store a word. Storing the reset word takes the address off the list, so that equal contents are equal lists. -/
def Regs.set (l : Regs) (a : Nat) (w : Word) : Regs := if w = resetWord a then l.del a else l.ins a w

/-- The canonical form: addresses strictly rising, and no entry equal to its reset word. -/
def Regs.wf : Regs → Bool
  | [] => true
  | [(a, w)] => decide (w ≠ resetWord a)
  | (a, w) :: (b, v) :: t => decide (w ≠ resetWord a) && decide (a < b) && Regs.wf ((b, v) :: t)

/-! Writing a word under the access codes. -/

/-- Is a value within a field's range? `nw` is the whole word as written, for a range that names another field of the write; `z`
is the word of the zone's shed threshold, for the ADD threshold of Table 05-7. -/
def Range.ok (r : Range) (v : Nat) (nw z : Word) : Bool :=
  match r with
  | .any => true
  | .nat lo hi => decide (lo ≤ v ∧ v ≤ hi)
  | .bf zeroOk lo hi =>
    let x := (BF24.ofWord (BitVec.ofNat 32 v)).frac
    (zeroOk && x.isZero) || ((Frac.ofInt lo).le x && x.le (Frac.ofInt hi))
  | .upTo lo len => decide (1 ≤ v ∧ v ≤ getBits nw lo len)
  | .addThreshold =>
    let x := (BF24.ofWord (BitVec.ofNat 32 v)).frac
    (BF24.ofWord z).frac.lt x && x.le (Frac.ofInt 26)

/-- One field after a write of `val` under `mask`, by its access code (Table 00-3). -/
def writeField (f : FieldRow) (old mask val nw z : Word) : Nat :=
  let o := getBits old f.lo f.len
  let m := getBits mask f.lo f.len
  let v := getBits val f.lo f.len
  let merged := (v &&& m) ||| (o &&& (m ^^^ (2 ^ f.len - 1)))
  match f.acc with
  | .ro => o
  | .rw => if f.range.ok merged nw z then merged else o
  | .w1c => o &&& ((v &&& m) ^^^ (2 ^ f.len - 1))
  | .wo => 0
  | .rws => o ||| (v &&& m)

/-- The fields of a word after a write. Reserved bits read 0 (R10). -/
def writeFields (old mask val nw z : Word) : List FieldRow → Nat
  | [] => 0
  | f :: fs => writeField f old mask val nw z * 2 ^ f.lo + writeFields old mask val nw z fs

/-- Tables in which a write outside a range leaves the whole register as it was (R298); elsewhere the field alone. -/
def wholeRegister (a : Nat) : Bool := blockOf a == some 11

/-- The word written, merged under its mask. -/
def mergeMask (old mask val : Word) : Word := (val &&& mask) ||| (old &&& ~~~mask)

/-- Is every writable field of the register within its range after the write? -/
def fieldsInRange (old mask val nw z : Word) : List FieldRow → Bool
  | [] => true
  | f :: fs =>
    (f.acc != .rw || f.range.ok (getBits nw f.lo f.len) nw z) && fieldsInRange old mask val nw z fs

/-- The register's word after a write of `val` under `mask`; `old` where no register stands (R382). -/
def writtenWord (l : Regs) (a : Nat) (mask val : Word) : Word :=
  let old := l.get a
  match regRow a with
  | none => old
  | some r =>
    let nw := mergeMask old mask val
    let z := l.get (a - 4)
    if wholeRegister a && !fieldsInRange old mask val nw z r.fields then old
    else BitVec.ofNat 32 (writeFields old mask val nw z r.fields)

/-- Do the bits of installer fields within the mask differ from the present value (R380)? -/
def touchesInstaller (l : Regs) (a : Nat) (mask val : Word) : Bool :=
  match regRow a with
  | none => false
  | some r => r.fields.any fun f =>
      f.installer && (getBits (val ^^^ (if f.acc == .wo then 0 else l.get a)) f.lo f.len &&& getBits mask f.lo f.len) != 0

/-! Reset of a block (R11, R451). -/

/-- The fields of a word after a reset of its block: P fields keep their value, RWS fields too, X fields hold `x`. -/
def resetFields (old : Word) (x : Nat) : List FieldRow → Nat
  | [] => 0
  | f :: fs =>
    (match f.acc, f.reset with
     | .rws, _ => getBits old f.lo f.len
     | _, .val n => n % 2 ^ f.len
     | _, .preserved => getBits old f.lo f.len
     | _, .undef => x % 2 ^ f.len) * 2 ^ f.lo + resetFields old x fs

/-- A register's word after a reset of its block. The window of R441 keeps its values through every reset. -/
def keptWord (a : Nat) (old : Word) : Word :=
  let off := (a - 0x40000000) % 0x10000
  if 0x7F00 ≤ off ∧ off < 0x8000 then old
  else match regRow a with
    | none => 0
    | some r => BitVec.ofNat 32 (resetFields old 0 r.fields)

/-- The register file after a reset of the blocks that `inDomain` names. -/
def Regs.resetBlocks (inDomain : List Nat) : Regs → Regs
  | [] => []
  | (a, w) :: t =>
    let w' := if inDomain.any (fun b => blockOf a == some b) then keptWord a w else w
    if w' = resetWord a then Regs.resetBlocks inDomain t else (a, w') :: Regs.resetBlocks inDomain t

end Sys2Proof.Machine
end

