-- ==== Sys2Proof/Machine/Parts.lean ====
section
/-! DEFINITION. The parts of the state beside the registers, chapter by chapter: what each block holds from one event to the
next, and the frames and sets that cross the module's links. A field that a register shows is not here: it has its one home in
the register file. All plain data. -/

namespace Sys2Proof.Machine

/-- Replace entry `i` of a vector. -/
def vset {α : Type} {n : Nat} (v : Vector α n) (i : Fin n) (a : α) : Vector α n := v.set i.val a i.isLt
/-- Entry `i` of a vector. -/
def vget {α : Type} {n : Nat} (v : Vector α n) (i : Fin n) : α := v[i.val]'i.isLt
/-- Change entry `i` of a vector. -/
def vmod {α : Type} {n : Nat} (v : Vector α n) (i : Fin n) (f : α → α) : Vector α n := vset v i (f (vget v i))
/-- A vector with every entry equal. -/
def vall {α : Type} (n : Nat) (a : α) : Vector α n := Vector.replicate n a

/-! ## Stage link (chapter 12) -/

/-- State of an output stage's bus switch, as its telemetry reports it (Table 12-5). -/
inductive SwState where
  | opened | closed | moving | failed
  deriving DecidableEq, Repr, Inhabited

/-- Stage mode (Table 12-4 and Table 12-5). Code 0b11 acts as IDLE. -/
inductive StageMode where
  | idle | run | precharge
  deriving DecidableEq, Repr, Inhabited

/-- Stage telemetry frame (Table 12-5) without its CRC. -/
structure Telemetry where
  seqEcho : Nat
  srcB : Bool
  prot : Bool
  sw : SwState
  mode : StageMode
  missed : Bool
  ramp : Bool
  ver : Nat
  zone : Nat
  idx : Nat
  outI : Int
  inI : Int
  outV : Nat
  temp : Int
  duty : Nat
  faultCode : Nat
  decl : Word
  phase : Nat
  ber : Nat
  deriving DecidableEq, Repr, Inhabited

/-- Stage command frame (Table 12-4) without its CRC. -/
structure StageCmd where
  seq : Nat
  claim : Nat
  mode : StageMode
  swClosed : Bool
  phase : Nat
  ref : Int
  vpre : Nat
  ver : Nat
  test : Bool
  secs : Nat
  zone : Nat
  deriving DecidableEq, Repr, Inhabited

/-! ## Waggle link (chapters 06 and 12) -/

/-- Type of a tray's uplink frame (Table 12-8). -/
inductive UpType where
  | status | arm | go | fin | period
  deriving DecidableEq, Repr, Inhabited

/-- A tray's uplink frame (Table 12-9) without its CRC. -/
structure Uplink where
  type : UpType
  ver : Nat
  highest : Nat
  cls : Nat
  stepId : Nat
  stamp : Nat
  value : Nat
  deriving DecidableEq, Repr, Inhabited

/-- An uplink frame as an input set holds it (Table 12-12): lane, reception timestamp, frame. -/
structure WEntry where
  lane : Fin 16
  trx : Nat
  up : Uplink
  deriving DecidableEq, Repr, Inhabited

/-- Ceiling frame (Table 12-10) without its CRC. -/
structure CeilFrame where
  urgent : Bool
  claim : Nat
  held : Bool
  ceil : Nat
  allow : Nat
  group : Nat
  fstart : Nat
  apply : Nat
  deriving DecidableEq, Repr, Inhabited

/-! ## Cell chain (chapter 09) -/

/-- A reply of a chain node that the master has taken (Table 12-12): string, node, operation, status and payload bytes. -/
structure ChainEntry where
  str : Fin 3
  node : Nat
  op : Nat
  status : Nat
  payload : List Nat
  deriving DecidableEq, Repr, Inhabited

/-! ## Input sets (R306, Table 12-12) -/

/-- A register write with its bit mask, the session it came from and bit 0 of the receiving module's SLOT_ID (R406), and the number of its
packet (0: none), whose pair writes stay together (R381). -/
structure PairWrite where
  addr : Nat
  mask : Word
  val : Word
  role : Nat
  port : Nat
  session : Nat
  pkt : Nat
  slot : Nat
  deriving DecidableEq, Repr, Inhabited

/-- The input set of one frame. -/
structure InputSet where
  frame : Nat
  claim : Nat
  sense : Vector Int 24
  tele : Vector (Option Telemetry) 26
  waggle : List WEntry
  chain : List ChainEntry
  vsel : Vector Nat 4
  extLow : Bool
  writes : List PairWrite
  deriving DecidableEq, Repr

def InputSet.empty : InputSet :=
  { frame := 0, claim := 0, sense := vall 24 0, tele := vall 26 none, waggle := [], chain := [], vsel := vall 4 0,
    extLow := false, writes := [] }

/-- What the module samples at cycle 0 of a frame beside the sense codes: the partner's claim lines (R305), the VSEL pins (R156),
EXT_ALERT_N (R186), and the partner's frame start less the own one as the LOCK frame mark gave it (R310; none without a mark). -/
structure FramePins where
  partnerValid : Bool
  partnerClaim : Nat
  vsel : Vector Nat 4
  extLow : Bool
  phaseDiff : Option Int
  deriving DecidableEq, Repr

/-- Inputs of a frame: those received and waiting for the next frame (R35), the module's own set, the partner's set where it
arrived whole (R307), and which set the frame is computed on. -/
structure InputRt where
  nextTele : Vector (Option Telemetry) 26
  nextWaggle : List WEntry
  nextChain : List ChainEntry
  own : InputSet
  partner : Option InputSet
  closed : Bool
  onPartner : Bool
  fault : Bool
  deriving DecidableEq, Repr

def InputRt.reset : InputRt :=
  { nextTele := vall 26 none, nextWaggle := [], nextChain := [], own := InputSet.empty, partner := none, closed := false,
    onPartner := false, fault := false }

/-! ## Time base and alignment (chapter 02) -/

/-- Timestamp of cycle 0 of the present frame (R38) and of the present forecast frame, frame number (R39), the cycle of the last event in the frame, the lengths
of the present and the next frame (R34, R46), and the counts of R45 and R47. -/
structure TimeRt where
  frameStart : Nat
  fcTime : Nat
  frame : Nat
  cycle : Nat
  len : Nat
  nextLen : Nat
  lastEdge : Option Nat
  edgeThisFrame : Bool
  noEdgeFrames : Nat
  goodEdges : Nat
  edgeFrames : Nat
  restartAlign : Bool
  deriving DecidableEq, Repr

def TimeRt.reset : TimeRt :=
  { frameStart := 0, fcTime := 0, frame := 0, cycle := 0, len := 1000, nextLen := 1000, lastEdge := none, edgeThisFrame := false,
    noEdgeFrames := 0, goodEdges := 0, edgeFrames := 0, restartAlign := true }

/-! ## Loop engine (chapter 03) -/

/-- A signal block (R68): the mantissas, newest first, and the block exponent they share. -/
structure Block where
  ms : List Int
  e : Int
  deriving DecidableEq, Repr

/-- One loop: its histories and integrator, the values of the last frame (the Hamper nodes of Table 03-8), the mode and set in
effect in it, and the counts that other chapters take from the loop's status. -/
structure LoopRt where
  eb : Block
  hb : Block
  sb : Block
  integ : Flt
  r : BF24
  m : BF24
  e : BF24
  n : BF24
  yc : BF24
  f : BF24
  u : BF24
  y : BF24
  x : BF24
  hi : BF24
  lo : BF24
  fe : BF24
  rw : BF24
  split : Bool
  set : Nat
  manual : Bool
  manWritten : Bool
  enabled : Bool
  hiFrames : Nat
  hiErrFrames : Nat
  hiAll : Bool
  expireNow : Bool
  yHist : List BF24
  wStable : Nat
  wPrev : List Nat
  deriving DecidableEq, Repr

def Block.zero (n : Nat) : Block := ⟨List.replicate n 0, -32⟩

def LoopRt.reset : LoopRt :=
  { eb := .zero 4, hb := .zero 3, sb := .zero 2, integ := ⟨0, -32⟩, r := .zero, m := .zero, e := .zero, n := .zero,
    yc := .zero, f := .zero, u := .zero, y := .zero, x := .zero, hi := .zero, lo := .zero, fe := .zero, rw := .zero,
    split := false, set := 0, manual := false, manWritten := false, enabled := false, hiFrames := 0, hiErrFrames := 0, hiAll := true,
    expireNow := false, yHist := [], wStable := 0, wPrev := [] }

/-- The loop engine: its loops, whether it has run in this frame and written every output (R36), whether the frame's write check has passed (R315), the
calibrated sense values of
the frame, the references of the 26 stages and those of the previous frame. -/
structure LpeRt where
  loops : Vector LoopRt 7
  ran : Bool
  injectMissing : Bool
  cal : Vector BF24 24
  refs : Vector Int 26
  prevRefs : Vector Int 26
  gridRef : Vector BF24 2
  writeOk : Bool
  checkOk : Bool
  react : Vector Bool 7
  deriving DecidableEq, Repr

def LpeRt.reset : LpeRt :=
  { loops := vall 7 .reset, ran := false, injectMissing := false, cal := vall 24 .zero, refs := vall 26 0,
    prevRefs := vall 26 0, gridRef := vall 2 .zero, writeOk := false, checkOk := false,
    react := vall 7 false }

/-! ## Hamper (chapter 03) -/

/-- One Hamper record (R91): frame number, trigger-record flag, gap flag, node words. -/
structure HmpRec where
  frame : Nat
  trig : Bool
  gap : Bool
  words : List Word
  deriving DecidableEq, Repr

/-- Hamper: the records held, newest first, the records still to be taken after the trigger, the level node's previous value, and
the marks of the frame. -/
structure HmpRt where
  recs : List HmpRec
  postLeft : Nat
  trigPending : Bool
  prevLevel : BF24
  force : Bool
  faultHit : Bool
  followHit : Bool
  missed : Bool
  deriving DecidableEq, Repr

def HmpRt.reset : HmpRt :=
  { recs := [], postLeft := 0, trigPending := false, prevLevel := .zero, force := false, faultHit := false,
    followHit := false, missed := false }

/-! ## Profile generator and following supervision (chapter 04) -/

/-- The generator's position, velocity and acceleration as R104 holds them, the positions of R101, the last target and committed
P_base, the committed FORECAST values (16 BF16 blocks for each zone), the fallback mean's sums (R98), the counts of R98 and R107,
and each string's reported state of charge as R106 takes it, pulse allowance (in units of 2⁻¹² A × 4 µs), stages in service and
current (2⁻¹² A). -/
structure PrfRt where
  p : Flt
  v : Flt
  a : Flt
  pk : Flt
  pk1 : Flt
  pTgt : Flt
  pSoc : Flt
  pBase : Option Flt
  fcast : Vector (List ArrBlock) 4
  fcFresh : Bool
  freshCount : Nat
  meanSums : List Frac
  meanFrames : List Nat
  curSum : Frac
  curFrames : Nat
  resCond : Bool
  condThisFc : Bool
  quietFc : Nat
  socIn : Vector (Option Frac) 3
  soc : Vector Frac 3
  socValid : Vector Bool 3
  sweepsSinceSoc : Vector Nat 3
  staleFault : Vector Bool 3
  linkExhaust : Bool
  linkOkFrames : Nat
  auto : Vector Bool 2
  phi : Vector Frac 2
  drawPrev : Vector BF24 2
  allow : Vector Nat 3
  inService : Vector Nat 3
  iStr : Vector Int 3
  deriving DecidableEq, Repr

def PrfRt.reset : PrfRt :=
  { p := .wzero, v := .wzero, a := .wzero, pk := .wzero, pk1 := .wzero, pTgt := .wzero, pSoc := .wzero, pBase := none,
    fcast := vall 4 [], fcFresh := false, freshCount := 0, meanSums := [], meanFrames := [], curSum := ⟨0, 1⟩, curFrames := 0,
    resCond := false, condThisFc := false, quietFc := 0, socIn := vall 3 none, soc := vall 3 ⟨0, 1⟩, socValid := vall 3 false,
    sweepsSinceSoc := vall 3 0, staleFault := vall 3 false, linkExhaust := false, linkOkFrames := 0, auto := vall 2 false,
    phi := vall 2 ⟨0, 1⟩, drawPrev := vall 2 .zero, allow := vall 3 1024000000000, inService := vall 3 2, iStr := vall 3 0 }

/-! ## Site events (chapter 17) -/

/-- Sums of the powers of R469 over the frames of a forecast frame: front ends, each string at its discharge limit without its
factor, load, and the frames. -/
structure PowSum where
  fe : Frac
  st : Vector Frac 3
  load : Frac
  n : Nat
  deriving DecidableEq, Repr

def PowSum.zero : PowSum := ⟨⟨0, 1⟩, vall 3 ⟨0, 1⟩, ⟨0, 1⟩, 0⟩

/-- Grid supervision and flow: the counts of Table 17-1 and whether they had reached their limit when the present frame began, the
clear forecast frames, whether rate_act stayed 0 in the present and the last forecast frame, the power sums of both (R473), and
the flow pulses of the present and the last slow frame (R474). -/
structure SiteRt where
  lossCnt : Nat
  sagCnt : Nat
  lossDue : Bool
  sagDue : Bool
  clearFc : Nat
  clearThisFc : Bool
  rateQuiet : Bool
  ratePrev : Bool
  cur : PowSum
  last : PowSum
  ch22High : Bool
  pulses : Nat
  pulsesLast : Nat
  deriving DecidableEq, Repr

def SiteRt.reset : SiteRt :=
  { lossCnt := 0, sagCnt := 0, lossDue := false, sagDue := false, clearFc := 0, clearThisFc := true, rateQuiet := true,
    ratePrev := true, cur := .zero, last := .zero, ch22High := false, pulses := 0, pulsesLast := 0 }

/-! ## Zone fabric (chapter 05) -/

/-- The point an output stage has reached in its state of Table 05-2: waiting for zero current before OPEN, waiting for the open
to be confirmed, the dwell after it, pre-charge, match, waiting for the close to be confirmed, the dwell after it, or none. -/
inductive Step05 where
  | none | zeroWait | openSent | openDwell | pre | matching | closeSent | closeDwell
  deriving DecidableEq, Repr, Inhabited

/-- One output stage: its point, the frames spent there, the output voltage at the first pre-charge frame (1/64 V), where it came
from and goes to, whether a batch moves it, whether it parks after the open (R136, R138), whether it stays bound after the open
(R139, R501), whether it comes from a cleared fence (R139, R147), the switch state last reported, the mismatch run (R144), whether
its switch command is OPEN, whether it waits for zero current without limit (R139), and its PRECHARGE voltage (1/64 V). -/
structure OsRt where
  step : Step05
  j : Nat
  v0 : Nat
  src : Nat
  dst : Nat
  inBatch : Bool
  parkAfter : Bool
  heldAfter : Bool
  homeAfter : Bool
  swSeen : SwState
  mism : Nat
  openCmd : Bool
  clearReq : Bool
  vpre : Nat
  deriving DecidableEq, Repr, Inhabited

def OsRt.reset : OsRt :=
  { step := .none, j := 0, v0 := 0, src := 4, dst := 4, inBatch := false, parkAfter := false, heldAfter := false,
    homeAfter := false, swSeen := .opened, mism := 0, openCmd := true, clearReq := false, vpre := 0 }

/-- The zone fabric beside its registers: stages, weights and fences of storage and front-end stages, zone fences with the retry
countdown in forecast frames (R120), timers, and the requests that the frame's decisions take up (R125). -/
structure ZfbRt where
  os : Vector OsRt 16
  ssW : Vector Nat 6
  feW : Vector Nat 4
  ssFenced : Vector Bool 6
  feFenced : Vector Bool 4
  strFenced : Vector Bool 3
  zoneFenced : Vector Bool 4
  retryLeft : Vector Nat 4
  retryDue : Vector Bool 4
  doneKept : Vector Bool 4
  doneWhole : Vector Bool 4
  addTimer : Vector Nat 4
  codeNow : Vector (Option Nat) 4
  batchOn : Bool
  batchFrame : Nat
  goReq : Bool
  abortReq : Bool
  dutyReq : Vector (Option Nat) 3
  lastPhase : Vector (Option Nat) 26
  under : Vector Bool 26
  idleFrames : Vector Nat 26
  tele : Vector (Option Telemetry) 26
  teleNow : Vector Bool 26
  unreach : Vector Nat 26
  deriving DecidableEq, Repr

def ZfbRt.reset : ZfbRt :=
  { os := vall 16 .reset, ssW := vall 6 0, feW := vall 4 0, ssFenced := vall 6 false, feFenced := vall 4 false,
    strFenced := vall 3 false, zoneFenced := vall 4 false, retryLeft := vall 4 0, retryDue := vall 4 false, doneKept := vall 4 false,
    doneWhole := vall 4 false,
    addTimer := vall 4 0, codeNow := vall 4 none, batchOn := false, batchFrame := 0, goReq := false, abortReq := false, dutyReq := vall 3 none,
    lastPhase := vall 26 none,
    under := vall 26 false, idleFrames := vall 26 0, tele := vall 26 none, teleNow := vall 26 false, unreach := vall 26 0 }

/-! ## Swarm steps (chapter 06) -/

/-- A pending STEP_ARM (R167): step, predicted release, expected rise in kW, the frame of acceptance, and whether its onset has come
(R170). -/
structure Arm where
  stepId : Nat
  tp : Nat
  rise : Frac
  accFrame : Nat
  onset : Bool
  deriving DecidableEq, Repr

/-- What a lane's pre-positioning term does (R177, R178): none, moving to its value and holding it, or falling. -/
inductive PpKind where
  | none | move | fall
  deriving DecidableEq, Repr, Inhabited

/-- A lane's pre-positioning term: its present value, the value it left and the one it moves to, the first frame and the frames of the
move or fall, the frames of its ramp (N_r), and its predicted release. -/
structure PpTerm where
  kind : PpKind
  val : Frac
  start : Frac
  goal : Frac
  first : Int
  span : Int
  nr : Nat
  tp : Nat
  deriving DecidableEq, Repr

def PpTerm.zero : PpTerm :=
  { kind := .none, val := ⟨0, 1⟩, start := ⟨0, 1⟩, goal := ⟨0, 1⟩, first := 0, span := 0, nr := 1, tp := 0 }

/-- One tray lane: pending arm, the last accepted step identifier of each marker type, the stamp of the latest accepted STEP_GO and
whether it came since the lane last trained, the latest STEP_PERIOD and the GOs since it, the estimate from intervals, the counts
of R189 to R191, the uplink frames taken in this frame (R344), and its pre-positioning term. -/
structure LaneRt where
  arm : Option Arm
  lastId : Vector (Option Nat) 4
  lastGo : Option Nat
  goTrained : Bool
  stepPeriod : Option Nat
  gosSincePeriod : Nat
  pt : Option Int
  dupSweep : Nat
  cntSweep : Nat
  condSweep : Bool
  cleanSweeps : Nat
  firstTaken : Bool
  noted : Bool
  armMiss : Nat
  silent : Nat
  heard : Bool
  upCount : Nat
  pp : PpTerm
  deriving DecidableEq, Repr

def LaneRt.reset : LaneRt :=
  { arm := none, lastId := vall 4 none, lastGo := none, goTrained := false, stepPeriod := none, gosSincePeriod := 0, pt := none,
    dupSweep := 0, cntSweep := 0, condSweep := false, cleanSweeps := 0, firstTaken := false, noted := false, armMiss := 0,
    silent := 0, heard := false, upCount := 0, pp := .zero }

/-- One zone's step phase (R168 to R171): anchor lane, whether an anchor time is set, whether the zone keeps its anchor time and period
until the new anchor's first onset or release, the step of the last onset, the period in use, the fade of a stale zone, whether this
frame is a step boundary, the stale forecast frames of a pending commit, the partner's CRC, and f of the frame. -/
structure ZoneFf where
  anchor : Option (Fin 16)
  hasTa : Bool
  hold : Bool
  onsetStep : Option Nat
  period : Option Int
  fadeFrom : BF24
  fadeLeft : Nat
  boundary : Bool
  staleFc : Nat
  staleAllFc : Bool
  partnerCrc : Option Word
  f : BF24
  deriving DecidableEq, Repr

def ZoneFf.reset : ZoneFf :=
  { anchor := none, hasTa := false, hold := false, onsetStep := none, period := none, fadeFrom := .zero, fadeLeft := 0,
    boundary := false, staleFc := 0, staleAllFc := true, partnerCrc := none, f := .zero }

/-- A ceiling of a group or zone (R183): the stored code c_k, the one before it, the local sent ceiling, the shared code, whether it
was written fresh since the last boundary, whether the frames carry held, and the level that a droop condition sets now. -/
structure CeilRt where
  c : Nat
  cPrev : Nat
  s : Nat
  sg : Nat
  fresh : Bool
  held : Bool
  level : Nat
  deriving DecidableEq, Repr

def CeilRt.reset : CeilRt := { c := 0xFFF, cPrev := 0xFFF, s := 0xFFF, sg := 0xFFF, fresh := false, held := false, level := 0xFFF }

/-- The WGL and FFW blocks beside their registers: lanes, zones, ceilings, the THROTTLE_N sources with their remaining minimum times
(R186), the EXT_ALERT_N samples, the STEP_GO markers accepted in this frame (lane, step, stamp), the droop conditions that held in
the last evaluation (four of THROTTLE_N, grid, L4, four zone loops, four cap_limited), the lanes an urgent frame is due on, the allowances (R179), the factors of R182,
the operator's group limits, the zones' power sums and means, and the ceiling frames last sent. -/
structure WglRt where
  lanes : Vector LaneRt 16
  zones : Vector ZoneFf 4
  groups : Vector CeilRt 63
  zceil : Vector CeilRt 4
  exhaustRaw : Bool
  exhaustHold : Nat
  extHold : Nat
  forceOn : Vector Bool 4
  forceHold : Vector Nat 4
  extLowRun : Nat
  extHighRun : Nat
  extActive : Bool
  goNow : List (Nat × Nat × Nat)
  condPrev : Vector Bool 14
  urgentDue : Vector Bool 16
  urgentNow : Vector Bool 16
  allow : Vector Nat 16
  zc : Vector Frac 4
  sc : Frac
  opLimit : Vector Nat 63
  powSum : Vector Frac 4
  powFrames : Nat
  powMean : Vector Frac 4
  sentCeil : Vector (Option CeilFrame) 16
  deriving DecidableEq, Repr

def WglRt.reset : WglRt :=
  { lanes := vall 16 .reset, zones := vall 4 .reset, groups := vall 63 .reset, zceil := vall 4 .reset, exhaustRaw := false,
    exhaustHold := 0, extHold := 0, forceOn := vall 4 false, forceHold := vall 4 0, extLowRun := 0, extHighRun := 0,
    extActive := false, goNow := [], condPrev := vall 14 false, urgentDue := vall 16 false, urgentNow := vall 16 false, allow := vall 16 0,
    zc := vall 4 ⟨1, 1⟩,
    sc := ⟨1, 1⟩, opLimit := vall 63 4095, powSum := vall 4 ⟨0, 1⟩, powFrames := 0, powMean := vall 4 ⟨0, 1⟩,
    sentCeil := vall 16 none }

/-! ## Lockstep pair (chapter 11) -/

/-- An entry of the claim history (R327). -/
structure ClaimEntry where
  frame : Nat
  old : Nat
  new : Nat
  cause : Nat
  deriving DecidableEq, Repr

/-- The joining of a module: none, the start-up pair wait (R325), or JOINING (R324). -/
inductive JoinPhase where
  | none | pairWait | joining
  deriving DecidableEq, Repr, Inhabited

/-- The LKS block beside its registers. `claimant`, `partnerValid`, `partnerClaim`: the sample of R305. `who`, `whoClaim`: the claimant of the last
frame that had one (true: this module). `lost`: the partner has released valid in this frame (R323). `hRun`, `hReady`: every health item has
passed since the slow frame began, and has passed throughout one (R303). `items`: those of the last report. `missSweep` to `missLast`:
incomplete sets in the present and the last sweep and slow frame. `mismatchSlow`, `mismatchPrev`: a mismatch in the present and the last slow
frame. `syncBad`: frames for which SYNC still fails. `claimDiff`: frames in a row with a claim unlike the set's. `adc…`: R317. `testSlow`,
`testFrom`, `lastTestSlow`, `lastResult`, `rotAt`: the rotation of R318. `graceFrom`: where a COMPUTE or MEMORY reset began (R322). `startPair`:
the first common sample decides (R325). `fresh`: the partner's valid was asserted in the last sample. `resyncReq`, `staticReq`, `image`: R311.
`fwd`, `fwdOut`: writes to forward, and those last forwarded. `onSet`: the frame is computed in step with the claimant (R316). -/
structure LksRt where
  claimant : Bool
  partnerValid : Bool
  partnerClaim : Nat
  who : Option Bool
  whoClaim : Nat
  lost : Bool
  hRun : Bool
  hReady : Bool
  items : Nat
  missSweep : Nat
  missPrev : Nat
  missSlow : Nat
  missLast : Nat
  mismatchSlow : Bool
  mismatchPrev : Bool
  syncBad : Nat
  claimDiff : Nat
  adcSum : Vector Int 24
  adcCnt : Nat
  adcBad : Vector Nat 24
  adcGood : Vector Nat 24
  testSlow : Nat
  testFrom : Option Nat
  lastTestSlow : Nat
  lastResult : Nat
  rotAt : Option Nat
  graceFrom : Option Nat
  join : JoinPhase
  waitFrames : Nat
  startPair : Bool
  fresh : Bool
  history : List ClaimEntry
  histPending : List ClaimEntry
  resyncReq : Bool
  staticReq : Bool
  fwd : List PairWrite
  fwdOut : List PairWrite
  lockUp : Bool
  partnerConfig : Option Word
  onSet : Bool
  deriving DecidableEq, Repr

def LksRt.reset : LksRt :=
  { claimant := false, partnerValid := false, partnerClaim := 0, who := none, whoClaim := 0, lost := false, hRun := false, hReady := false
    items := 0, missSweep := 0, missPrev := 0, missSlow := 0, missLast := 0, mismatchSlow := false, mismatchPrev := false, syncBad := 0
    claimDiff := 0, adcSum := vall 24 0, adcCnt := 0, adcBad := vall 24 0, adcGood := vall 24 0, testSlow := 0, testFrom := none
    lastTestSlow := 0, lastResult := 0, rotAt := none, graceFrom := none, join := .none, waitFrames := 0, startPair := false, fresh := false
    history := [], histPending := [], resyncReq := false, staticReq := false, fwd := [], fwdOut := [], lockUp := false
    partnerConfig := none, onSet := false }

/-! ## Links (chapter 12) -/

/-- One stage lane: the candidate of each declaration word (R337), the module's own frames without a valid frame (R333), and the frame
in which it first completed training (R503). -/
structure StageLane where
  cand : Vector (Option Word) 8
  silent : Nat
  heard : Bool
  firstTrained : Option Nat
  deriving DecidableEq, Repr

def StageLane.reset : StageLane := { cand := vall 8 none, silent := 0, heard := false, firstTrained := none }

/-- A bit-error test in progress (R352 to R354): none, the commissioning test, or phase 1 to 3 of the periodic test. -/
inductive BertRun where
  | none | commission | phase (n : Nat)
  deriving DecidableEq, Repr, Inhabited

/-- The link layers beside their registers: the stage lanes, the Waggle lanes' own frames without a valid frame (R333), the commands
last sent, the bit-error test that runs, the granted window's seconds, the frames since the last completed test (R354), the frame in which the
present phase began, and whether
SYNC, EXCHANGE and COMPARE pass for phase 3 (R354). -/
structure LinkRt where
  lanes : Vector StageLane 26
  waggleSilent : Vector Nat 16
  cmds : Vector (Option StageCmd) 26
  bert : BertRun
  bertWindow : Nat
  bertFrames : Nat
  bertStart : Nat
  passHold : Bool
  deriving DecidableEq, Repr

def LinkRt.reset : LinkRt :=
  { lanes := vall 26 .reset, waggleSilent := vall 16 0, cmds := vall 26 none, bert := .none, bertWindow := 0, bertFrames := 0, bertStart := 0,
    passHold := false }

/-! ## Charge and capacity estimation (chapter 10) -/

/-- A rest anchor (R294): string value, accumulator, the instant it was taken, and whether its age has run out. -/
structure Anchor where
  soc : Frac
  q : Int
  t : Nat
  expired : Bool
  deriving DecidableEq, Repr

/-- One string's estimate beside its registers: the currents last reported by its two stages (2⁻¹² A), the sum of i_s over frames 0 to 2,
the sweep's gap frames and sums (R277, R278), the counts of R278, Q_snap and the stamp of the last two sweeps, the string, reported and
counted values and the divergence in per cent (R284 to R289), I_cv, the stamps at which the windows opened and the tracked charge in
accumulator units (R287 to R294), the capacity held in mAh (0: none) with its source, the anchor, and what the present commit has
found for the commands that follow it. -/
structure EstStr where
  lastI : Vector Int 2
  iSum3 : Int
  gapFrames : Nat
  accSum : Int
  senseSum : Frac
  frames : Nat
  curBad : Nat
  curGood : Nat
  qPrev : Int
  stamp : Nat
  stampPrev : Nat
  sStr : Frac
  sRep : Frac
  sCc : Frac
  d : Frac
  icv : Frac
  taperOpen : Option Nat
  divOpen : Option Nat
  restOpen : Option Nat
  qDis : Int
  qChg : Int
  missedCommits : Nat
  learned : Nat
  source : Nat
  anchor : Option Anchor
  initDue : Bool
  eocNow : Bool
  restNow : Bool
  conflictNow : Bool
  deriving DecidableEq, Repr

def EstStr.reset : EstStr :=
  { lastI := vall 2 0, iSum3 := 0, gapFrames := 0, accSum := 0, senseSum := ⟨0, 1⟩, frames := 0, curBad := 0, curGood := 0, qPrev := 0,
    stamp := 0, stampPrev := 0, sStr := ⟨0, 1⟩, sRep := ⟨0, 1⟩, sCc := ⟨0, 1⟩, d := ⟨0, 1⟩, icv := ⟨0, 1⟩, taperOpen := none,
    divOpen := none, restOpen := none, qDis := 0, qChg := 0, missedCommits := 0, learned := 0, source := 0, anchor := none,
    initDue := true, eocNow := false, restNow := false, conflictNow := false }

/-- A capacity slot of the Keeper's store (Table 10-5) without its CRC. -/
structure CapSlot where
  seq : Nat
  caps : Vector Nat 3
  flags : Vector Nat 3
  learnCount : Nat
  deriving DecidableEq, Repr

/-- The EST block: its strings, the last ESTIMATE record (BF16 blocks), the state of charge of each cell, whether the store is due for
a write, the number of learned values, the store's two slots (none: not valid), and the failed attempts in a row (R296). -/
structure EstRt where
  strs : Vector EstStr 3
  record : List ArrBlock
  zs : List Frac
  storeDue : Bool
  learnCount : Nat
  slots : Vector (Option CapSlot) 2
  failed : Nat
  deriving DecidableEq, Repr

def EstRt.reset : EstRt :=
  { strs := vall 3 .reset, record := [], zs := [], storeDue := false, learnCount := 0, slots := vall 2 none, failed := 0 }

/-- The estimation state as the claimant commits it (R275): the block's state and the words of each string's state window. -/
structure EstBulk where
  est : EstRt
  words : Vector (Vector Word 14) 3
  deriving DecidableEq, Repr

/-! ## Faults, resets, hang detectors and dumps (chapter 16) -/

/-- A remembered unit of an unacknowledged fault (R445): own or pair, class, unit. -/
structure RemUnit where
  own : Bool
  cls : Nat
  unit : Nat
  deriving DecidableEq, Repr

/-- The Halt sequence of Table 16-4: none, the dump, COMPUTE in reset, halted service starting, halted service, or the supervisor
left in reset (R450). -/
inductive HaltPhase where
  | none | dump | computeReset | starting | service | dead
  deriving DecidableEq, Repr, Inhabited

/-- What follows a dump (R449, R457). -/
inductive AfterDump where
  | nothing | halt | computeReset
  deriving DecidableEq, Repr, Inhabited

/-- A crash dump (Tables 16-10 and 16-11): its number, what its header gives, the markers of timed-out reads (section and offset), and the
register file as it was read. -/
structure DumpRec where
  num : Nat
  trigger : Nat
  frame : Nat
  time : Nat
  baseline : Nat
  slot : Nat
  role : Nat
  markers : List (Nat × Nat)
  regs : Regs
  deriving DecidableEq, Repr

/-- Faults and recovery beside the registers: the remembered units (R445), the safe state and the Halt sequence with the frame its last
phase began, the dump that runs and what follows it (R461), domain resets requested, since which frame, and in progress, with the frame of
the last release (R452), the
heartbeats (R457), the fenced ports (slow frames left and one more), injected missing answers, and the configuration image (R453). -/
structure FltRt where
  rem : Vector (List RemUnit) 18
  safe : Bool
  halt : HaltPhase
  haltFrame : Nat
  faultLow : Bool
  dumpTrig : Option Nat
  dumpAt : Nat × Nat
  afterDump : AfterDump
  dumps : Vector (Option DumpRec) 4
  rstReq : Vector Bool 4
  rstAt : Nat
  rstLeft : Nat
  rstOn : Vector Bool 4
  relAt : Option Nat
  dropValid : Bool
  beats : Vector Bool 4
  missed : Vector Nat 4
  bootLeft : Nat
  expectWritten : Bool
  wdCount : Nat
  hung : Vector Bool 4
  hbAt : Option Nat
  portFence : Vector Nat 3
  noAnswer : Vector Nat 18
  imageIntact : Bool
  configImage : Regs
  deriving DecidableEq, Repr

def FltRt.reset : FltRt :=
  { rem := vall 18 [], safe := false, halt := .none, haltFrame := 0, faultLow := false, dumpTrig := none, dumpAt := (0, 0),
    afterDump := .nothing, dumps := vall 4 none, rstReq := vall 4 false, rstAt := 0, rstLeft := 0, rstOn := vall 4 false, relAt := none,
    dropValid := false, beats := vall 4 false, missed := vall 4 0, bootLeft := 9766, expectWritten := false, wdCount := 0,
    hung := vall 4 false, hbAt := none, portFence := vall 3 0, noAnswer := vall 18 0, imageIntact := true, configImage := [] }

/-- The pins and lines the module drives: PGOOD (driven high), THROTTLE_N (driven low), valid and claim lines, SYNC_OUT, and
HOST_WAKE_N. FAULT_N is in `FltRt`. -/
structure PinRt where
  pgood : Vector Bool 4
  throttleLow : Vector Bool 4
  valid : Bool
  claim : Nat
  syncOut : Bool
  hostWake : Bool
  testMode : Bool
  deriving DecidableEq, Repr

def PinRt.reset : PinRt :=
  { pgood := vall 4 false, throttleLow := vall 4 false, valid := false, claim := 0, syncOut := false, hostWake := false,
    testMode := false }

end Sys2Proof.Machine
end

