-- ==== Sys2Proof/Machine/PartsArray.lean ====
section
/-! DEFINITION. The parts of the state of the Aedine array and the basket scheduler (chapters 07 and 08), beside their registers. -/

namespace Sys2Proof.Machine

/-! ## Packages (R221 to R226) -/

/-- A virtual core of a variant (Table 08-2). -/
structure CoreEntry where
  localCyc : Nat
  remoteCyc : Nat
  weightBytes : Nat
  weightOff : Nat
  crc : Word
  deriving DecidableEq, Repr, Inhabited

/-- A variant: its activation bytes and its virtual cores. -/
structure BasketVariant where
  actBytes : Nat
  entries : List CoreEntry
  deriving DecidableEq, Repr, Inhabited

/-- An input declaration (R224). -/
structure InDecl where
  rowsLog2 : Nat
  span : Nat
  fmt : ArrFmt
  chans : List Nat
  deriving DecidableEq, Repr, Inhabited

/-- An output declaration (R226). -/
structure OutDecl where
  kind : Nat
  idx : Nat
  fmt : Nat
  count : Nat
  nameId : Nat
  deriving DecidableEq, Repr, Inhabited

/-- A package as its header and declarations give it. -/
structure Pkg where
  standard : Bool
  version : Word
  findi : Word
  period : Nat
  phase : Nat
  variants : List BasketVariant
  ins : List InDecl
  outs : List OutDecl
  keyId : List Nat
  deriving DecidableEq, Repr, Inhabited

/-! ## Slots -/

/-- What a pass gives for one output: BF16 blocks, or the codes of a table with its commit request (Table 08-4). -/
inductive PassOut where
  | vals (blocks : List ArrBlock)
  | table (codes : List Int) (commit : Bool)
  deriving DecidableEq, Repr


/-- A basket slot beside its registers: the numbered pieces of a package on its way in, of so many, the bytes held, the package, the physical core of each
virtual core (none: missing), the activation bank, the allocation in KiB, whether a pass is due in this forecast frame and ran whole, its
outputs, whether a fence or an error has made it stale, whether a fenced core suspends the basket at the next frame 252, and whether the
SUSPENDED fault stands. -/
structure SlotRt where
  parts : List (Nat × List Nat)
  total : Nat
  bytes : List Nat
  pkg : Option Pkg
  cores : List (Option Nat)
  bank : Nat
  actKib : Nat
  due : Bool
  done : Bool
  outs : List PassOut
  spoilt : Bool
  suspFault : Bool
  deriving DecidableEq, Repr

def SlotRt.reset : SlotRt :=
  { parts := [], total := 0, bytes := [], pkg := none, cores := [], bank := 0, actKib := 0, due := false, done := false,
    outs := [], spoilt := false, suspFault := false }

/-- A request that waits for the next frame 252 that begins after its stamp (R232), with the binding that its test gave. -/
inductive MdlReq where
  | bind (slot variant : Nat) (cores : List Nat) (bank : Nat) (change : Bool)
  | evict (slot : Nat)
  deriving DecidableEq, Repr

/-- A named result (Table 08-4): slot, output, the last 64 committed values with their forecast-frame indices, and the stale bit. -/
structure NamedResult where
  slot : Nat
  out : Nat
  vals : List (Nat × List ArrBlock)
  stale : Bool
  deriving DecidableEq, Repr

/-! ## Cores -/

/-- A core beside its registers: frames until it has entered IDLE from OFF, whether a fence waits for its pass to end, the virtual core it
serves, whether its weights are loaded, and whether its self-test is to leave at the end of the set. -/
structure CoreRt where
  wake : Nat
  fencePend : Bool
  virt : Nat
  loaded : Bool
  deriving DecidableEq, Repr

def CoreRt.reset : CoreRt := { wake := 0, fencePend := false, virt := 0, loaded := false }

/-! ## Telemetry frames (R205, R206) -/

/-- The history of one named channel at one span: the sum and count of the values of the span in progress, whether a frame had none, and the last
span means, newest first, each with the frame after its span and its validity. It holds the 256 of R206 and the 16 that may come after a forecast
frame's start and before its assembly. -/
structure SpanHist where
  sum : Frac
  n : Nat
  bad : Bool
  means : List (Nat × Frac × Bool)
  deriving DecidableEq, Repr

def SpanHist.reset : SpanHist := { sum := ⟨0, 1⟩, n := 0, bad := false, means := [] }

/-- The history of a channel: spans of 1, 16, 256 and 4096 frames, and its latest value since the COMPUTE domain left reset. -/
structure ChanHist where
  id : Nat
  last : Option Frac
  spans : Vector SpanHist 4
  deriving DecidableEq, Repr

/-- A telemetry frame as the assembler writes it: its declaration, its rows of blocks, and the validity mask. -/
structure TeleFrame where
  decl : InDecl
  rows : List (List ArrBlock)
  invalid : List Bool
  deriving DecidableEq, Repr

/-! ## The array -/

/-- The level sequencer (R212, R213): when its phase began, the cycles of it that had run when a droop froze it, the frozen phase, and a
cap_clear that waits for the droop to clear. -/
structure SeqRt where
  start : Nat
  ran : Nat
  frozen : Nat
  capClear : Bool
  deriving DecidableEq, Repr

def SeqRt.reset : SeqRt := { start := 0, ran := 0, frozen := 0, capClear := false }

/-- The array and the scheduler: cores, sequencer, scrubber, the flipped bits of both SRAMs and of DRAM, the heat of the slow frame (R215),
what excuses an overrun in the present forecast frame (R236), the array cycles of the compute window so far (R208), slots, requests,
histories, the assembled frames, named results, and a committed ESTIMATE record that waits for the EST block. -/
structure ArrRt where
  cores : Vector CoreRt 48
  seq : SeqRt
  scrub : Nat
  eccW : List (Nat × Nat × Nat)
  eccA : List (Nat × Nat)
  eccD : List (Nat × Nat)
  hotSlow : Bool
  hotPrev : Bool
  fcConflict : Bool
  fcDroop : Bool
  fcMinLevel : Nat
  winCycles : Nat
  slots : Vector SlotRt 32
  reqs : List MdlReq
  hist : List ChanHist
  frames : List TeleFrame
  results : List NamedResult
  estOut : Option (List ArrBlock)
  deriving DecidableEq, Repr

def ArrRt.reset : ArrRt :=
  { cores := vall 48 .reset, seq := .reset, scrub := 0, eccW := [], eccA := [], eccD := [], hotSlow := false, hotPrev := false,
    fcConflict := false, fcDroop := false, fcMinLevel := 0, winCycles := 0, slots := vall 32 .reset, reqs := [], hist := [],
    frames := [], results := [], estOut := none }

end Sys2Proof.Machine
end

