-- ==== Sys2Proof/Machine/PartsShelf.lean ====
section
/-! DEFINITION. The parts of the state of the cell chain (chapter 09), beside its registers. -/

namespace Sys2Proof.Machine

/-- A command frame on a chain line (Table 09-1): the ports it leaves on, hop, direction (1 RETURN), sequence, opcode and payload. -/
structure ChnFrame where
  portA : Bool
  portB : Bool
  hop : Nat
  ret : Bool
  seq : Nat
  op : Nat
  payload : List Nat
  deriving DecidableEq, Repr

/-- The transaction in flight on a ring (R245): node, opcode, sequence, and the attempt: 1 in its own slot, 2 in the retry slot, 3 in RETURN
mode after both (R253). -/
structure ChnTxn where
  node : Nat
  op : Nat
  seq : Nat
  attempt : Nat
  deriving DecidableEq, Repr

/-- What an enumeration finds (R250): a, b, whether STATUS came back at port B, and for each node its highest version, cell count and
hardware identifier, with the check flags and first violating cell of its STATUS (R270). -/
structure ChnEnum where
  a : Nat
  b : Nat
  ringOk : Bool
  ids : Vector (Nat × Nat × Word) 14
  status : Vector (Nat × Nat) 14
  deriving DecidableEq, Repr

/-- One node beside its registers: the payloads of the sweep's READ and of the test's OW_READ, whether its READ has failed and its retry
been used, whether it last replied HOT, the AUTO mask, and of its 16 cells the marks of the last commit (biased, deviating, beyond a
limit), the suspected cell, the values r and the baselines (R264), in 100 µV. -/
structure ChnNode where
  read : Option (List Nat)
  ow : Option (List Nat)
  failed : Bool
  retried : Bool
  hot : Bool
  autoMask : Nat
  biasPrev : Nat
  devPrev : Nat
  limPrev : Nat
  suspCell : Option Nat
  r : Vector Frac 16
  base : Vector (Option Frac) 16
  deriving DecidableEq, Repr

def ChnNode.reset : ChnNode :=
  { read := none, ow := none, failed := false, retried := false, hot := false, autoMask := 0, biasPrev := 0, devPrev := 0, limPrev := 0,
    suspCell := none, r := vall 16 ⟨0, 1⟩, base := vall 16 none }

/-- One ring: the sequence of the next transaction, the transaction in flight, the frame last sent, the broadcasts due, the enumeration
asked for and the one whose result waits for the next sweep, whether a failure was noted in this slow frame, the baseline of E (V), the
sweeps with |E| above sum_abs, CELL_STEP (R266), and the string voltage at the sweep's stamp. -/
structure ChnStr where
  seq : Nat
  txn : Option ChnTxn
  sent : Option ChnFrame
  snapDue : Bool
  hushDue : Bool
  enumDue : Bool
  enumDone : Option ChnEnum
  noted : Bool
  eBase : Option Frac
  sumRun : Nat
  cellStep : Bool
  vSnap : BF24
  deriving DecidableEq, Repr

def ChnStr.reset : ChnStr :=
  { seq := 0, txn := none, sent := none, snapDue := false, hushDue := false, enumDue := true, enumDone := none, noted := false,
    eBase := none, sumRun := 0, cellStep := false, vSnap := .zero }

/-- The cell chain: rings, nodes, and whether the module has woken from DEEP SLEEP and not yet enumerated each ring (R270). -/
structure ChnRt where
  strs : Vector ChnStr 3
  nodes : Vector (Vector ChnNode 14) 3
  woken : Vector Bool 3
  deriving DecidableEq, Repr

def ChnRt.reset : ChnRt := { strs := vall 3 .reset, nodes := vall 3 (vall 14 .reset), woken := vall 3 false }

end Sys2Proof.Machine
end

