-- ==== Sys2Proof/Machine/PartsHost.lean ====
section
/-! DEFINITION. The parts of the state of the management ports (chapter 13), keys, firmware and audit (chapter 14), the Keeper's clocks and
power states (chapter 15), and start-up (chapter 18), beside their registers; the packets that arrive; and the images of R309. -/

namespace Sys2Proof.Machine

/-! ## Images of the pair state (R309) -/

/-- An image of the pair state as the claimant sends it (R311): the words of pair registers, and what the pair blocks hold beside them. -/
structure PairImage where
  regs : Regs
  loops : Vector LoopRt 7
  prf : PrfRt
  zfb : ZfbRt
  wgl : WglRt
  chn : ChnRt
  est : EstRt
  deriving DecidableEq, Repr

/-! ## Packets (R362 to R364) -/

/-- A request packet as it arrives, its opcode being the command's: port (0 M0, 1 M1, 2 console), cycle of its complete reception, whether it is
no packet (R362: under 16 bytes, or its reply flag is 1), whether its length is right (step 1 of Table 13-3), version, tag field, session,
sequence, whether its KMAC256 tag matches, and its payload. -/
structure Pkt where
  port : Fin 3
  cyc : Nat
  notPacket : Bool
  lenOk : Bool
  version : Nat
  tag : Nat
  session : Nat
  seq : Nat
  macOk : Bool
  payload : List Nat
  deriving DecidableEq, Repr

/-- A reply (R364): the copied fields, sem_held, claimant and async, status, cause, the frame of Table 13-2, the opcode's data, and whether it
carries a KMAC256 tag (R363) or 32 zero bytes. -/
structure Reply where
  version : Nat
  opcode : Nat
  tag : Nat
  session : Nat
  seq : Nat
  semHeld : Bool
  claimant : Bool
  async : Bool
  status : Nat
  cause : Nat
  frame : Nat
  data : List Nat
  tagged : Bool
  deriving DecidableEq, Repr

/-- What decides the status of a reply that waits: nothing more; the duty a STRING_DUTY asked for (R141); the go of a REBIND (R133); the
admission of a variant to a slot, and an eviction (R232). -/
inductive ReplyCheck where
  | plain
  | duty (str duty : Nat)
  | batch
  | entry (slot variant : Nat)
  | evict (slot : Nat)
  deriving DecidableEq, Repr

/-- When a reply leaves (R365): with the last of its packet's writes, so many of which are still to take effect; at the end of frame 0 of its batch
(R133); after a frame 252 (Table 13-6). -/
inductive ReplyWhen where
  | written (left : Nat)
  | frameEnd (frame : Nat)
  | commit
  deriving DecidableEq, Repr

/-- A reply that waits: port, packet number, when it leaves, what decides its status, the reply, and for the audit entry byte 15 and the detail (none
where the packet's opcode needs no entry). -/
structure WaitRt where
  port : Fin 3
  pkt : Nat
  when' : ReplyWhen
  check : ReplyCheck
  reply : Reply
  audit : Option (Nat × List Nat)
  deriving DecidableEq, Repr

/-- A nonce that HELLO issued on a port (R377): its bytes, the time, and the version chosen. -/
structure NonceRt where
  bytes : List Nat
  time : Nat
  version : Nat
  deriving DecidableEq, Repr

/-- A session (R366, R367): number, port, role (0 operator, 1 installer, 2 maker), version, the slot and identifier of its key, the time of
its last packet that passed the tag check, H and the accepted sequences of its window, the last 16 replies, newest first, and the attestation
record of its pending nonce with the time its ATTEST was answered, and whether the record is still being signed (R404). -/
structure Sess where
  num : Nat
  port : Fin 3
  role : Nat
  version : Nat
  slot : Nat
  keyId : List Nat
  last : Nat
  high : Nat
  accepted : List Nat
  replies : List Reply
  nonce : List Nat
  record : List Nat
  recordAt : Nat
  signing : Bool
  deriving DecidableEq, Repr

/-- What a management port answers below Wilros (R357). -/
inductive NetReply where
  | arp (ip : Nat)
  | neighbour (ip : Nat)
  | echo (v6 : Bool) (data : List Nat)
  deriving DecidableEq, Repr

/-- The MGP block beside its registers: sessions, the replies that wait and those last sent on each port, the packets accepted so far, the
holder of the semaphore with the time of its last renewal, the nonces HELLO issued (R377), the failed attempts in a row and the end of the
closure they bring (R395), whether the console discards its input (R360), and the last answer below Wilros on each port. -/
structure MgpRt where
  sessions : List Sess
  waiting : List WaitRt
  sent : Vector (Option Reply) 3
  packets : Nat
  sem : Option (Fin 3 × Nat × Nat)
  nonces : Vector (Option NonceRt) 3
  failRun : Vector Nat 3
  closedTo : Vector Nat 3
  consoleSkip : Bool
  net : Vector (Option NetReply) 2
  deriving DecidableEq, Repr

def MgpRt.reset : MgpRt :=
  { sessions := [], waiting := [], sent := vall 3 none, packets := 0, sem := none, nonces := vall 3 none, failRun := vall 3 0,
    closedTo := vall 3 0, consoleSkip := false, net := vall 2 none }

/-! ## Keys, firmware and audit (chapter 14) -/

/-- A key slot's content (R389): the public key and its identifier. -/
structure KeyRec where
  bytes : List Nat
  id : List Nat
  deriving DecidableEq, Repr

/-- A firmware bank (R399, R400): the numbered pieces on their way in, of so many, the image's bytes, whether an image that passed stands in it, its baseline
and its rollback value. -/
structure FwBank where
  parts : List (Nat × List Nat)
  total : Nat
  bytes : List Nat
  valid : Bool
  baseline : Nat
  rollback : Nat
  deriving DecidableEq, Repr

def FwBank.empty : FwBank := { parts := [], total := 0, bytes := [], valid := false, baseline := 0, rollback := 0 }

/-- An audit entry (Table 14-6): its 32 leading bytes and its chain value. -/
structure AuditEntry where
  n : Nat
  bytes : List Nat
  h : List Nat
  deriving DecidableEq, Repr

/-- An audit checkpoint (R409) without its signature. -/
structure AuditCheck where
  n : Nat
  frame : Nat
  time : Nat
  h : List Nat
  deriving DecidableEq, Repr

/-- The state of a trial (R401): none, waiting for the reset, waiting for the firmware to report ready since a frame, observed since a
frame. -/
inductive TrialPhase where
  | none
  | asked (bank : Fin 2)
  | starting (since : Nat)
  | observed (since : Nat)
  deriving DecidableEq, Repr, Inhabited

/-- The SEC block beside its registers, and what the Keeper store and the flash hold for it: key slots 1 to 20, the key changes that wait for their
frame (packet, slot, key), the banks, the trial, whether an image check runs, whether the counter is to rise, the audit log (staged, in flash with
checkpoints, the last chain value, the slow frame of the last checkpoint and whether entries came since), the failed authentications of the slow
frame on each port, whether firmware runs, and the injections so far. -/
structure SecRt where
  keys : Vector (Option KeyRec) 21
  keyWaits : List (Nat × Nat × Option KeyRec)
  banks : Vector FwBank 2
  trial : TrialPhase
  checking : Bool
  raiseDue : Bool
  next : Nat
  staged : List AuditEntry
  flash : List (AuditEntry × Option AuditCheck)
  stagedChecks : List AuditCheck
  lastH : List Nat
  lastCheck : Nat
  sinceCheck : Bool
  fails : Vector Nat 3
  booted : Bool
  running : Bool
  injections : Nat
  injectWaits : List (Nat × List Nat)
  deriving DecidableEq, Repr

def SecRt.reset : SecRt :=
  { keys := vall 21 none, keyWaits := []
    banks := Vector.ofFn fun k => if k.val = 0 then { FwBank.empty with valid := true, baseline := 0x01000000 } else .empty
    trial := .none, checking := false, raiseDue := false, next := 0, staged := [], flash := [], stagedChecks := [],
    lastH := List.replicate 32 0, lastCheck := 0, sinceCheck := false, fails := vall 3 0, booted := false, running := false, injections := 0, injectWaits := [] }

/-! ## The Keeper (chapters 09 and 15) -/

/-- The Keeper beside its registers. Times are counts of LFRC periods since it started.
`stopped`: the engine clock does not run. `lfrcLost`: the Keeper's own clock has stopped (R424). `kStart`: the start that R414 counts from.
`tripAt`: the trip the module waits after. `judge`: since when each crystal's judgment runs (R413, R422). `xtTimeout`: R414's 250 ms have
passed. `next`, `nextAt`: the crystal the next attempt takes, and when it was judged stable. `attempt`: an attempt runs. `episode` and
`cleanFrom`: R422's episode, and the slow frame that must pass without a trip. `startDone`: start-up is complete (R304). `sleepReq`: a
request that waits for its boundary (R426). `failAt`: the power fail on hold-up. `wakes`, `lastTone`: R269. `wakeDue`: a chain wake accepted
in DEEP SLEEP. `xtGate`, `supplyInj`: injections of R466. `lockWait`: the domains wait for PLL0 and PLL2 (R421). -/
structure PwrRt where
  stopped : Bool
  lfrcLost : Bool
  kStart : Nat
  tripAt : Option Nat
  judge : Vector Nat 2
  xtTimeout : Bool
  next : Option (Fin 2)
  nextAt : Nat
  attempt : Bool
  episode : Bool
  cleanFrom : Option Nat
  startDone : Bool
  sleepReq : Option Nat
  failAt : Option Nat
  wakes : List Nat
  lastTone : Option Nat
  wakeDue : Bool
  xtGate : Vector (Option Nat) 2
  supplyInj : Option Nat
  lockWait : Bool
  deriving DecidableEq, Repr

def PwrRt.reset : PwrRt :=
  { stopped := false, lfrcLost := false, kStart := 0, tripAt := none, judge := vall 2 0, xtTimeout := false, next := none, nextAt := 0
    attempt := true, episode := false, cleanFrom := none, startDone := false, sleepReq := none, failAt := none, wakes := [], lastTone := none
    wakeDue := false, xtGate := vall 2 none, supplyInj := none, lockWait := false }

/-! ## Start configuration and autostart (chapter 18) -/

/-- The saved record (R494): the words of the saved registers, the baskets with their variants, and the baseline that saved it. -/
structure CfgRec where
  words : Regs
  baskets : List (Nat × Nat)
  baseline : Nat
  deriving DecidableEq, Repr

/-- A step of the start order (R495). -/
inductive AutoStep where
  | none
  | bind (batch : Nat)
  | link
  | grid
  | zones
  | done
  deriving DecidableEq, Repr, Inhabited

/-- Start configuration: the record in flash, the writes of a restore that wait for the input sets, whether a restore has been made since the
reset and whether it takes the record, whether the module stays ineligible until it has been (R453), the enables and bindings it withholds,
and the step the start order has reached. -/
structure CfgRt where
  record : Option CfgRec
  queue : List PairWrite
  restored : Bool
  fromRecord : Bool
  gate : Bool
  zones : Vector Nat 16
  enables : Vector Bool 7
  step : AutoStep
  deriving DecidableEq, Repr

def CfgRt.reset : CfgRt :=
  { record := none, queue := [], restored := false, fromRecord := true, gate := false, zones := vall 16 4, enables := vall 7 false, step := .none }

end Sys2Proof.Machine
end

