-- ==== Sys2Proof/Syntax.lean ====
section
/-! DEFINITION. The commands of the block: one constructor for each row of spec/opcode_table.json, with the operands that the rule
of the row names. A command is an event at the module's boundary or a point of its schedule; its meaning is in Machine/. -/

namespace Sys2Proof

open Sys2Proof.Machine

/-- The commands: one constructor for each row of the opcode table. -/
inductive Instr where
  /-- FRAME_START (R34): At cycle 0 of every frame the sense values are latched, the frame number increments and frame marks go out on every stage and Waggle lane. -/
  | frameStart (samples : List (Vector Int 24)) (pins : FramePins)
  /-- INPUT_SET (R306): The partner's input set for the frame is received whole over the LOCK link and checked. -/
  | inputSet (cyc : Nat) (ok : Bool) (set : InputSet)
  /-- INPUT_EXCHANGE_CLOSE (R307): At cycle 300 the exchange closes, and a standby without a complete claimant set computes on its own set, counts a miss and becomes unsynchronised. -/
  | inputExchangeClose
  /-- LOOP_ENGINE_RUN (R89): From cycle 320 the loop engine computes all seven loops, ramps, feed-forward, clamps, shares and following checks on the frame's inputs. -/
  | loopEngineRun
  /-- WRITE_CHECK (R456): At cycle 620 the STL block checks that every loop output was written, Hamper nodes are copied and the comparator arming is latched; a missing write records a Halt-class fault. -/
  | writeCheck
  /-- HAMPER_CAPTURE_DONE (R92): Once the post-trigger records have been taken the capture enters DONE and takes no further records. -/
  | hamperCaptureDone
  /-- STAGE_COMMANDS_LEAVE (R315): At cycle 640 the module sends the stage commands of the frame, with sequence and claim number, if its write check passed. -/
  | stageCommandsLeave
  /-- OUTPUT_DIGEST (R316): The standby compares the claimant's output digest with its own and on a mismatch records a Note and requests a dynamic resync. -/
  | outputDigest (crc : Word) (outs : Vector Word 7)
  /-- CLAIM_FIX (R303): At cycle 980 the module fixes and drives its claim number for the next frame, raising bit h only after a whole healthy slow frame. -/
  | claimFix
  /-- SYNC_IN_EDGE (R45): An accepted rising edge of SYNC_IN measures the phase error, which sets the next frame's length. -/
  | syncInEdge (cyc : Nat)
  /-- ALIGNMENT_LOCKED (R47): After 64 consecutive accepted edges within one cycle the alignment state becomes LOCKED. -/
  | alignmentLocked
  /-- ALIGNMENT_STEP (R47): In ACQUIRE with no stage under command the frame in progress ends at the first target frame start at least 901 cycles in, and stepped is set. -/
  | alignmentStep
  /-- HOLDOVER_ENTRY (R47): With no accepted edge in 4 consecutive frames the module enters HOLDOVER, sets edge_missing and records a Note. -/
  | holdoverEntry
  /-- HOLDOVER_EXIT (R47): After accepted edges in 16 consecutive frames HOLDOVER returns to ACQUIRE. -/
  | holdoverExit
  /-- SYNC_CONFIG_WRITE (R43): A write to the sync mode or offset takes effect at the next frame start and restarts alignment. -/
  | syncConfigWrite (toOffset : Bool) (val : Word)
  /-- STAGE_RELEASED (R502): A stage commanded IDLE and OPEN that has reported so in 256 consecutive frames is no longer under command. -/
  | stageReleased (n : Fin 26)
  /-- LOW_WORD_READ (R13): A read of the lowest word of a multi-word quantity latches the upper words into the reading master's shadow. -/
  | lowWordRead (master : Fin 16) (addr : Nat)
  /-- REGISTER_WRITE (R59): A write to a register without behaviour of its own takes effect at the start of the next frame, forwarded to the claimant for pair registers. -/
  | registerWrite (addr : Nat) (mask val : Word)
  /-- COEFF_SET_WRITE (R79): A write to a coefficient-set register is ignored with wr_active set if the set is active, and otherwise loads it. -/
  | coeffSetWrite (l : Fin 7) (set : Fin 4) (reg : Fin 9) (val : Word)
  /-- SWITCH_SET (R80): A write of switch_set makes next_set active from the next frame with a bumpless preset of the loop state. -/
  | switchSet (l : Fin 7) (next : Fin 4)
  /-- LOOP_MODE_CHANGE (R86): A change of manual on L5 or L6 initialises P_man on entering MANUAL or presets the loop on returning to AUTO. -/
  | loopModeChange (g : Fin 2) (manual : Bool)
  /-- HMP_ARM (R94): Arming computes the capture depths, clears the region and enters ARMED. -/
  | hmpArm
  /-- HMP_DISARM (R95): Disarming returns Hamper to IDLE and keeps the region's content. -/
  | hmpDisarm
  /-- FORCE_TRIG (R93): A write of force_trig meets the trigger condition. -/
  | forceTrig
  /-- PROFILE_STEP (R100): At each forecast-frame boundary the generator forms the target and advances position, velocity and acceleration by one jerk-limited step. -/
  | profileStep
  /-- FORECAST_FALLBACK (R98): After 64 consecutive stale forecast frames, or with no forecast or fc_en 0, the generator sets fallback and uses the measured mean power. -/
  | forecastFallback
  /-- FALLBACK_EXIT (R98): After 16 consecutive fresh forecasts with fc_en 1 the generator leaves fallback. -/
  | fallbackExit
  /-- SOC_CORRECTION_UPDATE (R105): At each slow-frame boundary P_soc is recomputed from the swing strings' mean reported state of charge. -/
  | socCorrectionUpdate
  /-- HONEY_RESERVE_OPEN (R107): The honey reserve opens for every string at the frame after any opening condition first holds, and RESERVE strings take full weight. -/
  | honeyReserveOpen
  /-- HONEY_RESERVE_CLOSE (R107): The reserve closes at the first slow-frame boundary after 1024 forecast frames without any opening condition. -/
  | honeyReserveClose
  /-- STRING_SOC_STALE (R109): A string whose reported state of charge is not updated for more than 4 sweeps gets band factors of 0 and a Degrade-class fault. -/
  | stringSocStale (i : Fin 3)
  /-- VSTORE_WRITE (R115): A non-zero write to the stored voltage of a zone's accepted code becomes the ramp's new target from the next frame. -/
  | vstoreWrite (z : Fin 4) (code : Fin 8) (val : Word)
  /-- FOLLOW_EXPIRY (R119): A following timer reaching timer_limit records the fault and applies the reaction of its loop from the next frame. -/
  | followExpiry (l : Fin 7)
  /-- STORAGE_EXHAUSTION_CLEAR (R119): After the DC link error has stayed within its limit for 256 consecutive frames the storage-exhaustion condition ends. -/
  | storageExhaustionClear
  /-- ZONE_RETRY (R120): retry_delay forecast frames after a zone fence with retries left, the fence is cleared, retries_used increases and the stages return. -/
  | zoneRetry (z : Fin 4)
  /-- RETRIES_RESET (R120): A zone that kept done with its error within limit throughout one whole slow frame has retries_used reset to 0. -/
  | retriesReset (z : Fin 4)
  /-- ZFB_GO (R133): A go starts a re-binding batch from the pending next_zone values, or refuses it whole with a cause. -/
  | zfbGo
  /-- ZFB_ABORT (R136): An abort turns every stage of the running batch back to ACTIVE or PARKED by its phase. -/
  | zfbAbort
  /-- SEQUENCE_PHASE_END (R134): A stage's timed sequence phase (ramp, dwell or pre-charge) ends and the stage enters its next phase. -/
  | sequencePhaseEnd (k : Fin 16)
  /-- ZERO_I_TIMEOUT (R134): A stage that has not reached zero current within 16 frames of OPENING is fenced with cause ZERO_I. -/
  | zeroITimeout (k : Fin 16)
  /-- SWITCH_CONFIRM_TIMEOUT (R134): A switch open or close not confirmed within 16 frames fences the stage with cause SWITCH. -/
  | switchConfirmTimeout (k : Fin 16)
  /-- PRECHARGE_MATCH_TIMEOUT (R134): A stage whose output does not match the zone voltage within 64 frames is fenced with cause PRECHARGE and parked. -/
  | prechargeMatchTimeout (k : Fin 16)
  /-- NEXT_DUTY_WRITE (R141): A write of a string's next_duty applies the new duty and ramps its weight, or is refused with cause DUTY. -/
  | nextDutyWrite (i : Fin 3) (duty : Fin 4)
  /-- STAGE_TELEMETRY (R339): A stage telemetry frame is received whole, checked and taken into the next frame's input set. -/
  | stageTelemetry (n : Fin 26) (cyc : Nat) (linkOk : Bool) (t : Telemetry)
  /-- CURRENT_MISMATCH_FENCE (R144): A stage whose current differs from its reference beyond the limit for mismatch_frames consecutive frames is fenced with cause MISMATCH. -/
  | currentMismatchFence (k : Fin 16)
  /-- CAP_LIMITED (R147): After 500 000 overload frames in one window the zone sets cap_limited and records a Degrade-class fault. -/
  | capLimited (z : Fin 4)
  /-- SHED_HOLD_EXPIRY (R149): When the shed timer reaches shed_hold the highest ACTIVE stage starts SHEDDING if the add threshold allows. -/
  | shedHoldExpiry (z : Fin 4)
  /-- ADD_HOLD_EXPIRY (R150): When the add timer reaches add_hold the lowest SHED stage starts ADDING. -/
  | addHoldExpiry (z : Fin 4)
  /-- JOB_GROUP_APPLY (R154): A lane's next_group becomes its job group at the first forecast-frame boundary after the write. -/
  | jobGroupApply (t : Fin 16)
  /-- VSEL_SAMPLE (R156): Each forecast frame the VSEL pins are sampled and a code held for 8 samples is accepted as the zone's target code. -/
  | vselSample
  /-- PGOOD_HIGH (R158): A zone whose PGOOD conditions have held for 64 consecutive frames has its PGOOD level driven high. -/
  | pgoodHigh (z : Fin 4)
  /-- STEP_ARM (R166): A STEP_ARM marker is checked for plausibility and duplication and becomes the lane's pending arm. -/
  | stepArm (t : Fin 16) (cyc : Nat) (linkOk : Bool) (up : Uplink)
  /-- STEP_GO (R166): A STEP_GO marker matches or cancels the pending arm, re-anchors the zone and updates the period estimate. -/
  | stepGo (t : Fin 16) (cyc : Nat) (linkOk : Bool) (up : Uplink)
  /-- STEP_END (R178): A STEP_END marker is checked and ends the lane's pre-positioning hold. -/
  | stepEnd (t : Fin 16) (cyc : Nat) (linkOk : Bool) (up : Uplink)
  /-- STEP_PERIOD (R169): A STEP_PERIOD marker sets the lane's period estimate or raises a storm condition. -/
  | stepPeriod (t : Fin 16) (cyc : Nat) (linkOk : Bool) (up : Uplink)
  /-- WAGGLE_STATUS (R341): A STATUS frame from a tray is received and checked as keep-alive and version report. -/
  | waggleStatus (t : Fin 16) (cyc : Nat) (linkOk : Bool) (up : Uplink)
  /-- ARM_TIMEOUT (R167): A pending arm whose predicted release is exceeded by arm_timeout frames becomes void and counts as an arm miss. -/
  | armTimeout (t : Fin 16)
  /-- STEP_ONSET (R170): In the onset frame computed from the anchor's predicted release the zone's anchor time and gain g are set. -/
  | stepOnset (z : Fin 4)
  /-- FFW_COMMIT_REQUEST (R175): A write of commit marks a feed-forward commit pending for the zone. -/
  | ffwCommitRequest (z : Fin 4)
  /-- FFW_COMMIT_APPLY (R175): At the first qualifying step boundary with matching partner CRC the inactive buffer becomes active. -/
  | ffwCommitApply (z : Fin 4)
  /-- PP_DISABLE (R178): A write of pre-positioning en = 0 makes every lane's term fall to 0. -/
  | ppDisable
  /-- CEILING_COMPUTE (R182): Each forecast frame firmware computes and writes each group's and zone's ceiling with its fresh bit. -/
  | ceilingCompute
  /-- CEILING_LATCH (R183): At each forecast-frame boundary the WGL block latches the computed ceilings and forms the sent ceilings and allowances. -/
  | ceilingLatch
  /-- SHARE_ARBITRATION (R184): Over frames 0-188 the modules combine their sent ceilings bit by bit on the wired-AND SHARE bus. -/
  | shareArbitration (bus : Vector Nat 63)
  /-- CEIL_SEND (R342): The scheduled ceiling frame is sent to every lane in frames 192 and 196. -/
  | ceilSend
  /-- DROOP_RESPONSE (R185): A droop condition lowers stored ceilings, cancels raises and sends an urgent ceiling frame. -/
  | droopResponse
  /-- THROTTLE_RELEASE (R186): A throttle source ends after its minimum hold of 256 frames, releasing THROTTLE_N when no source remains. -/
  | throttleRelease (z : Fin 4)
  /-- EXT_ALERT (R186): EXT_ALERT_N sampled low twice activates its throttle source, and high 256 times deactivates it. -/
  | extAlert
  /-- STORM_CLEAR (R190): A storm clears after 64 consecutive sweeps without a storm condition. -/
  | stormClear (t : Fin 16)
  /-- LINK_DOWN (R191): A lane with no valid Waggle frame for 16 frames is flagged link_down, ends its arm and records a Note. -/
  | linkDown (t : Fin 16)
  /-- STEP_STALE (R191): A lane without an accepted STEP_GO for four period estimates is flagged step_stale. -/
  | stepStale (t : Fin 16)
  /-- LANE_CLEAR (R192): A write of clear clears the lane's storm, fence and storm count. -/
  | laneClear (t : Fin 16)
  /-- TELEMETRY_ASSEMBLE (R205): In frames 0-15 the assembler writes every declared telemetry frame into activation SRAM. -/
  | telemetryAssemble
  /-- BASKET_PASS (R207): In the compute window every admitted basket runs one pass on its bound cores. -/
  | basketPass (slot : Fin 32) (cycles : List Nat) (outs : List PassOut)
  /-- RESULT_COMMIT (R234): At frame 252 passes are ended and committed or marked stale, overruns counted, fences, quarantines and admissions applied and the floor recomputed. -/
  | resultCommit
  /-- CORE_LOADED (R233): A core whose weight section has loaded and passed its CRC becomes BOUND, or a mismatch quarantines the basket. -/
  | coreLoaded (k : Fin 48) (crcOk : Bool)
  /-- SCRUB_WORD (R202): Every 64 array cycles the scrubber reads and corrects one weight SRAM word. -/
  | scrubWord
  /-- SEQUENCER_PHASE_END (R212): A voltage or frequency phase of the array level sequencer completes and the next phase or step begins. -/
  | sequencerPhaseEnd (cyc mv : Nat)
  /-- DROOP_TRIP (R213): The array rail falling below Vd halves the array clock, freezes the sequencer and records a Note. -/
  | droopTrip (cyc mv : Nat)
  /-- DROOP_CLEAR (R213): After the rail has stayed above Vd + 15 mV for 2 µs the divider returns to 1 and the sequencer resumes. -/
  | droopClear (cyc mv : Nat)
  /-- CAP_CLEAR (R214): A write of cap_clear returns the droop cap to level L5. -/
  | capClear
  /-- THERMAL_CAP_LOWER (R215): The junction sensor reaching 100 °C or 103 °C lowers the thermal cap with a Degrade-class fault. -/
  | thermalCapLower (tj : Int)
  /-- THERMAL_CAP_RESTORE (R215): After a whole slow frame at or below 95 °C the thermal cap returns to L5. -/
  | thermalCapRestore (tj : Int)
  /-- CORE_TEST_START (R217): A write of test_run to an IDLE core puts it in TEST running the self-test. -/
  | coreTestStart (k : Fin 48)
  /-- CORE_TEST_SET_END (R217): At the end of each self-test set the CRC is compared, and a mismatch fences the core. -/
  | coreTestSetEnd (k : Fin 48) (crcOk : Bool)
  /-- CORE_FENCE (R218): A write of fence takes the core out of service with cause COMMAND. -/
  | coreFence (k : Fin 48)
  /-- CORE_UNFENCE (R218): A write of unfence returns a FENCED core to IDLE. -/
  | coreUnfence (k : Fin 48)
  /-- PACKAGE_CHECK (R227): Once a package's last byte has arrived its format and signature are checked and the slot becomes STORED or EMPTY. -/
  | packageCheck (slot : Fin 32) (sigOk : Bool)
  /-- SNAP_SEND (R255): The SNAP broadcast is sent so its end delimiter leaves at the sweep start, stamping the sweep. -/
  | snapSend (r : Fin 3) (cyc : Nat)
  /-- HUSH_SEND (R260): HUSH is sent before the sweep so the nodes suspend bleeding around the sample. -/
  | hushSend (r : Fin 3)
  /-- CHAIN_READ (R255): In its slot the master sends READ to a node of the ring. -/
  | chainRead (r : Fin 3)
  /-- CHAIN_REPLY (R249): A reply frame from a node is received and checked against its command. -/
  | chainReply (r : Fin 3) (crcOk : Bool) (pos seq op status : Nat) (payload : List Nat)
  /-- CHAIN_TXN_TIMEOUT (R249): A transaction without a valid reply in time fails and is retried or counted. -/
  | chainTxnTimeout (r : Fin 3)
  /-- READINGS_COMMIT (R257): At frame 1024 the sweep's cell readings are committed, missing nodes counted and limit and wire checks run. -/
  | readingsCommit
  /-- BALANCE_SEND (R259): The master sends each node its BALANCE mask for the sweep. -/
  | balanceSend (r : Fin 3)
  /-- OWT_SEND (R262): In a test sweep the OWT broadcast starts the open-wire test on every node. -/
  | owtSend (r : Fin 3)
  /-- OW_READ (R262): The master reads each node's open-wire deltas. -/
  | owRead (r : Fin 3)
  /-- OWT_COMMIT (R263): At frame 3072 the open-wire results are committed and each tap judged open or intact. -/
  | owtCommit
  /-- OWT_REQUEST (R262): A write of owt_now requests an open-wire test of a string. -/
  | owtRequest (mask : Fin 8)
  /-- RESCAN (R250): A write of rescan requests enumeration of a ring. -/
  | rescan (mask : Fin 8)
  /-- ENUMERATION (R250): The master wakes, identifies, positions and versions every node of a ring and determines its topology. -/
  | enumeration (r : Fin 3) (found : ChnEnum)
  /-- RING_TEST (R254): Once per slow frame a broken or split ring is tested in RING mode and re-enumerated on success. -/
  | ringTest (r : Fin 3)
  /-- CHAIN_TONE (R269): A wake tone on a chain port is accepted as a wake or rejected while limiting. -/
  | chainTone (port : Fin 6) (at' : Nat)
  /-- LIMITING_EXIT (R269): After 600 s without a tone the Keeper leaves limiting. -/
  | limitingExit (at' : Nat)
  /-- HOST_WAKE_RELEASE (R269): A write of 1 to host_wake releases HOST_WAKE_N. -/
  | hostWakeRelease
  /-- ESTIMATE_RECORD (R273): At commit the EST block takes the ESTIMATE record and applies string value, reported value, cutoff and divergence rules. -/
  | estimateRecord
  /-- END_OF_CHARGE (R287): A taper window qualifying for taper_time recognises end of charge, sets the highest cell full and starts full-discharge tracking. -/
  | endOfCharge (r : Fin 3)
  /-- DIVERGENCE_CONFLICT (R290): A divergence above div_thr for div_time sets conflict and suspect, records a fault and re-anchors S_cc. -/
  | divergenceConflict (r : Fin 3)
  /-- REST_POINT (R294): A rest window lasting rest_time re-anchors S_cc and for calibration strings may learn a capacity. -/
  | restPoint (r : Fin 3)
  /-- ANCHOR_EXPIRY (R294): A rest anchor expires anchor_age hours after it was taken. -/
  | anchorExpiry (r : Fin 3)
  /-- ANCHOR_DISCARD (R294): A write of discard_anchor discards a string's anchor. -/
  | anchorDiscard (mask : Fin 8)
  /-- MODEL_VALID_WRITE (R298): Setting a string's model valid starts its estimate and re-initialisation. -/
  | modelValidWrite (r : Fin 3) (valid : Bool)
  /-- CAPACITY_STORE_WRITE (R296): At a slow-frame boundary the Keeper writes changed capacities into the non-current slot and verifies it. -/
  | capacityStoreWrite (ok : Bool)
  /-- STATIC_IMAGE (R311): The claimant's static image is received and applied by the standby as the start of a static resync. -/
  | staticImage (img : PairImage)
  /-- DYNAMIC_IMAGE (R311): The claimant's dynamic image is loaded by the standby, which is synchronised from the next frame. -/
  | dynamicImage (img : PairImage)
  /-- RESYNC_REQUEST (R311): An unsynchronised standby requests a dynamic resync and the claimant captures its image. -/
  | resyncRequest
  /-- RESYNC (R328): A write of resync on the standby requests a static resync. -/
  | resync
  /-- FORECAST_BULK (R309): The claimant's committed forecast reaches the standby in the bulk window. -/
  | forecastBulk (fcast : Vector (List ArrBlock) 4)
  /-- ESTIMATION_BULK (R275): The standby takes the claimant's committed estimation state and discards its own. -/
  | estimationBulk (b : EstBulk)
  /-- FFW_BUFFER_BULK (R175): The claimant's inactive feed-forward buffer reaches the standby, which reports its CRC. -/
  | ffwBufferBulk (z : Fin 4) (words : List Word)
  /-- BUFFER_CRC (R175): The standby's CRC of its buffer copy reaches the claimant and allows a commit to count. -/
  | bufferCrc (z : Fin 4) (crc : Word)
  /-- FORWARDED_WRITE (R301): A pair-register write forwarded by the standby reaches the claimant and takes effect as its input. -/
  | forwardedWrite (w : PairWrite)
  /-- HEALTH_REPORT (R320): A partner's health report is received and held in LKS registers. -/
  | healthReport (words : Vector Word 16)
  /-- PAIR_STATE_DIGEST (R309): The claimant's pair-state digest is compared and a difference triggers a static resync. -/
  | pairStateDigest (digest : Word)
  /-- BULK_DEADLINE_MISS (R309): A bulk item not complete at the standby by its deadline makes it unsynchronised. -/
  | bulkDeadlineMiss
  /-- ADC_CHECK (R317): Each sweep the standby compares its sense codes with the claimant's and marks channels failing or passing. -/
  | adcCheck
  /-- CORE_TEST_ROTATION (R318): Every interval slow frames the standby frees the next core and runs its self-test for one slow frame. -/
  | coreTestRotation
  /-- JOIN (R324): A module finding its partner valid trains LOCK, adopts time, aligns and runs a static resync before asserting valid. -/
  | join (time frame : Nat) (img : PairImage)
  /-- PAIR_WAIT_END (R325): At the end of the start-up pair wait the module claims alone or the higher claim becomes claimant. -/
  | pairWaitEnd
  /-- CLAIM_HISTORY_ENTRY (R327): A claimant change is appended to the claim-history ring at the next slow-frame boundary. -/
  | claimHistoryEntry
  /-- CLEAR_COUNTS (R328): A write of clear_counts clears the LKS counters. -/
  | clearCounts
  /-- LANE_TRAINING (R333): A lane trains through lock, echo, declaration and version, or fails with a cause. -/
  | laneTraining (n : Fin 42) (rttNs : Nat) (fail : Fin 6) (decls : Vector Word 8) (highest : Nat)
  /-- LANE_SILENT (R333): A trained lane without a valid frame in 16 consecutive frames returns to TRAIN. -/
  | laneSilent (n : Fin 42)
  /-- LANE_RETRAIN (R356): A write of retrain starts a training attempt of the lane in the next frame. -/
  | laneRetrain (n : Fin 26)
  /-- LOCK_TRAINING (R349): The LOCK link locks, deskews, measures its delay and exchanges versions. -/
  | lockTraining (rttNs : Nat) (fail : Fin 6) (version : Nat)
  /-- STAGE_UNREACH (R340): A stage unreachable in 64 consecutive frames is fenced with a Fence-class fault. -/
  | stageUnreach (n : Fin 26)
  /-- COMMISSION (R353): A write of commission tests every declared lane of both modules for 120 s, or is refused while a stage is under command. -/
  | commission
  /-- BERT_PHASE_END (R354): A bit-error test phase ends and its lanes are judged pass or fail. -/
  | bertPhaseEnd (errs : Vector (Nat × Nat) 46)
  /-- BERT_ABORT (R356): A write of abort ends the running test phase with its lanes untested. -/
  | bertAbort
  /-- BERT_OVERDUE (R354): A test 48 h overdue records a Note. -/
  | bertOverdue
  /-- HELLO (R377): HELLO negotiates the version and returns module data and a nonce. -/
  | hello (p : Pkt)
  /-- SESSION_OPEN (R394): SESSION_OPEN authenticates a role, establishes the session key and returns the session number. -/
  | sessionOpen (p : Pkt) (sigOk : Bool)
  /-- SESSION_CLOSE (R366): SESSION_CLOSE ends the session after its earlier packets. -/
  | sessionClose (p : Pkt)
  /-- KEEPALIVE (R368): KEEPALIVE renews the session's idle time and any lease. -/
  | keepalive (p : Pkt)
  /-- SEM_ACQUIRE (R371): SEM_ACQUIRE takes the configuration semaphore if free or already held. -/
  | semAcquire (p : Pkt)
  /-- SEM_RELEASE (R371): SEM_RELEASE frees the semaphore. -/
  | semRelease (p : Pkt)
  /-- SEM_SEIZE (R371): SEM_SEIZE takes the semaphore from any holder for an installer session. -/
  | semSeize (p : Pkt)
  /-- REG_READ (R381): REG_READ returns the words of up to 64 address ranges. -/
  | regRead (p : Pkt)
  /-- REG_WRITE (R381): REG_WRITE writes up to 1024 register values stamped at reception. -/
  | regWrite (p : Pkt)
  /-- REG_WRITE_MASKED (R381): REG_WRITE_MASKED writes masked register values. -/
  | regWriteMasked (p : Pkt)
  /-- COMB_READ (R379): COMB_READ returns the zone fabric registers. -/
  | combRead (p : Pkt)
  /-- REBIND (R379): REBIND sets next_zone of up to 8 stages and starts a batch. -/
  | rebind (p : Pkt)
  /-- REBIND_ABORT (R379): REBIND_ABORT aborts the running batch. -/
  | rebindAbort (p : Pkt)
  /-- FENCE_CLEAR (R139): FENCE_CLEAR clears the fence of a stage, zone or tray lane. -/
  | fenceClear (p : Pkt)
  /-- STRING_DUTY (R379): STRING_DUTY writes a string's next duty. -/
  | stringDuty (p : Pkt)
  /-- GROUP_LIMIT (R379): GROUP_LIMIT sets the operator's ceiling limit of a job group. -/
  | groupLimit (p : Pkt)
  /-- CSET_LOAD (R379): CSET_LOAD loads a coefficient set and optionally switches to it. -/
  | csetLoad (p : Pkt)
  /-- LOOP_MODE (R379): LOOP_MODE sets a grid loop's mode and manual draw. -/
  | loopMode (p : Pkt)
  /-- PROFILE_READ (R379): PROFILE_READ returns the profile generator registers. -/
  | profileRead (p : Pkt)
  /-- CELL_READ (R379): CELL_READ returns cell registers of a string. -/
  | cellRead (p : Pkt)
  /-- STORAGE_CLEAR (R379): STORAGE_CLEAR clears a node fence, string fence or CELL_STEP. -/
  | storageClear (p : Pkt)
  /-- CAPACITY_LOAD (R292): CAPACITY_LOAD loads a string capacity under the acceptance range. -/
  | capacityLoad (p : Pkt)
  /-- BASKET_STORE (R227): BASKET_STORE writes one piece of a package into a slot. -/
  | basketStore (p : Pkt)
  /-- BASKET_ADMIT (R229): BASKET_ADMIT tests and requests admission of a stored basket variant. -/
  | basketAdmit (p : Pkt)
  /-- BASKET_EVICT (R232): BASKET_EVICT requests the eviction of a basket. -/
  | basketEvict (p : Pkt)
  /-- BASKET_VARIANT (R229): BASKET_VARIANT requests a change of an admitted basket's variant. -/
  | basketVariant (p : Pkt)
  /-- QUARANTINE_CLEAR (R236): QUARANTINE_CLEAR returns a quarantined slot to STORED. -/
  | quarantineClear (p : Pkt)
  /-- BASKET_STATUS (R379): BASKET_STATUS returns a slot's scheduler registers. -/
  | basketStatus (p : Pkt)
  /-- RESULT_READ (R379): RESULT_READ returns committed named-result values. -/
  | resultRead (p : Pkt)
  /-- ARRAY_TARGET (R211): ARRAY_TARGET sets the requested array level. -/
  | arrayTarget (p : Pkt)
  /-- HAMPER_READ (R379): HAMPER_READ returns Hamper records. -/
  | hamperRead (p : Pkt)
  /-- FAULT_READ (R379): FAULT_READ returns a block's fault registers. -/
  | faultRead (p : Pkt)
  /-- FAULT_ACK (R444): FAULT_ACK clears pending bits of a block's fault status. -/
  | faultAck (p : Pkt)
  /-- LOG_READ (R379): LOG_READ returns firmware log entries. -/
  | logRead (p : Pkt)
  /-- DUMP_READ (R461): DUMP_READ returns bytes of a crash dump slot. -/
  | dumpRead (p : Pkt)
  /-- HEALTH_READ (R320): HEALTH_READ returns both health reports. -/
  | healthRead (p : Pkt)
  /-- CLAIM_HISTORY (R327): CLAIM_HISTORY returns the claim-history ring. -/
  | claimHistory (p : Pkt)
  /-- BERT_WINDOW (R354): BERT_WINDOW grants a window in which the due bit-error test phases run. -/
  | bertWindow (p : Pkt)
  /-- FW_STORE (R400): FW_STORE writes a firmware piece into the inactive bank and checks the image when complete. -/
  | fwStore (p : Pkt)
  /-- FW_ACTIVATE (R401): FW_ACTIVATE sets the other bank for a trial boot at the next slow-frame boundary. -/
  | fwActivate (p : Pkt)
  /-- ATTEST (R404): ATTEST starts signing an attestation record or returns a finished one. -/
  | attest (p : Pkt)
  /-- ATTEST_SIGN_DONE (R404): Signing of the attestation record ends and the record becomes available. -/
  | attestSignDone (port : Fin 3) (session : Nat)
  /-- AUDIT_READ (R410): AUDIT_READ returns audit entries and checkpoints. -/
  | auditRead (p : Pkt)
  /-- KEY_LOAD (R390): KEY_LOAD loads a public key into a key slot and ends sessions of the replaced key. -/
  | keyLoad (p : Pkt) (rootOk : Bool)
  /-- KEY_CLEAR (R390): KEY_LOAD with operation clear empties a key slot and ends its sessions. -/
  | keyClear (p : Pkt) (rootOk : Bool)
  /-- INJECT_RECORD (R466): Injection records a fault with given code, class and unit. -/
  | injectRecord (p : Pkt)
  /-- INJECT_WRITE_CHECK (R466): Injection makes the next write check count one write as missing. -/
  | injectWriteCheck (p : Pkt)
  /-- INJECT_HANG (R466): Injection stops a supervisor core's heartbeats until a COMPUTE reset. -/
  | injectHang (p : Pkt)
  /-- INJECT_TIMEOUT (R466): Injection leaves a block's next register accesses unanswered. -/
  | injectTimeout (p : Pkt)
  /-- INJECT_ECC (R466): Injection flips bits in SRAM or DRAM. -/
  | injectEcc (p : Pkt)
  /-- INJECT_CLOCK (R466): Injection gates a crystal input for a given time. -/
  | injectClock (p : Pkt)
  /-- INJECT_SUPPLY (R466): Injection makes the supply measurement read below a threshold. -/
  | injectSupply (p : Pkt)
  /-- INJECT_COMPARATOR (R466): Injection trips a Keeper comparator for a given time. -/
  | injectComparator (p : Pkt)
  /-- ARP_REQUEST (R357): An ARP request on a management port is answered. -/
  | arpRequest (p : Fin 2) (vlan ip : Nat)
  /-- NEIGHBOUR_DISCOVERY (R357): An IPv6 neighbour discovery message is answered. -/
  | neighbourDiscovery (p : Fin 2) (vlan ip : Nat)
  /-- ICMP_ECHO (R357): An ICMP or ICMPv6 echo request is answered. -/
  | icmpEcho (p : Fin 2) (vlan : Nat) (v6 : Bool) (ip : Nat) (data : List Nat)
  /-- REASSEMBLY_TIMEOUT (R358): A datagram reassembly incomplete 2 ms after its first fragment is discarded. -/
  | reassemblyTimeout
  /-- CONSOLE_FRAMING_ERROR (R360): A length or timing error on the console discards the input until a 10 ms gap. -/
  | consoleFramingError
  /-- SESSION_IDLE_EXPIRY (R366): A session without an authenticated packet for session_idle ends. -/
  | sessionIdleExpiry (port : Fin 3) (session : Nat)
  /-- PORT_LINK_LOSS (R366): Loss of a port's link ends its sessions. -/
  | portLinkLoss (port : Fin 3)
  /-- LEASE_EXPIRY (R372): A semaphore lease not renewed in time frees the semaphore and records a Note. -/
  | leaseExpiry
  /-- BOOT (R398): At each COMPUTE start the boot ROM checks the banks and starts a passing image or enters recovery. -/
  | boot (sigOk : Vector Bool 2)
  /-- FIRMWARE_READY (R401): New firmware reports ready, starting the 600 s trial observation. -/
  | firmwareReady (baskets : List (List Nat))
  /-- FW_TRIAL_SUCCESS (R401): A trial without Halt or heartbeat failure for 600 s makes the bank current. -/
  | fwTrialSuccess
  /-- FW_TRIAL_FAIL (R401): A failed trial resets COMPUTE into the previous bank with a Degrade-class fault. -/
  | fwTrialFail
  /-- ROLLBACK_RAISE (R402): At a slow-frame boundary without brown-out the rollback counter rises to the trial image's value. -/
  | rollbackRaise
  /-- AUDIT_FLUSH (R408): Staged audit entries are moved to flash at each slow-frame boundary or when 64 are staged. -/
  | auditFlush
  /-- AUDIT_CHECKPOINT (R409): A signed checkpoint is written after every 256th entry or after 3433 slow frames. -/
  | auditCheckpoint
  /-- AUTH_FAILURE_ENTRY (R405): Failed authentications of a slow frame are recorded as one aggregate audit entry. -/
  | authFailureEntry
  /-- CRYSTAL_STABLE (R413): A crystal whose amplitude held 2048 LFRC periods is judged stable. -/
  | crystalStable (x : Fin 2) (at' mv : Nat)
  /-- XT0_START_TIMEOUT (R414): With XT0 not stable 250 ms after start the Keeper takes XT1 and sets xt_fallback. -/
  | xt0StartTimeout (at' : Nat)
  /-- PLL_LOCK (R416): PLL0 reporting lock switches the eng_clk and sup_clk domains from HFRC through the glitch-free multiplexers. -/
  | pllLock (p : Fin 3)
  /-- CLOCK_MONITOR_TRIP (R419): A clock monitor trip forces the safe-state outputs, holds the domains in reset and puts DRAM in self-refresh. -/
  | clockMonitorTrip (cause : Fin 9) (at' : Nat)
  /-- CLOCK_RESTART (R421): 10 ms after a trip the Keeper restarts the module from XT1 and advances the time base by the gap. -/
  | clockRestart (at' gap : Nat)
  /-- EPISODE_END (R422): A whole slow frame without a trip after start-up ends the clock episode and resets the attempts. -/
  | episodeEnd
  /-- LFRC_LOSS (R424): A stopped LFRC forces the safe-state outputs and self-refresh until a power cycle. -/
  | lfrcLoss
  /-- SLEEP_REQUEST (R426): A request for SLEEP enters it at the next forecast-frame boundary if all loops and stages are idle, or is refused. -/
  | sleepRequest
  /-- DEEP_SLEEP_REQUEST (R426): A request for DEEP_SLEEP puts the nodes to sleep, DRAM in self-refresh and stops clocks, or is refused. -/
  | deepSleepRequest
  /-- RUN_REQUEST (R427): A request for RUN wakes a module from SLEEP. -/
  | runRequest
  /-- DEEP_SLEEP_WAKE (R427): An enabled wake source restarts a module in DEEP SLEEP as at power-on. -/
  | deepSleepWake (src : Fin 8) (at' gap : Nat)
  /-- BROWN_OUT_WARNING (R429): The auxiliary supply below 10.2 V for 10 µs asserts the brown-out warning. -/
  | brownOutWarning (mv : Nat)
  /-- BROWN_OUT_RELEASE (R429): The supply at or above 10.5 V for 1 ms clears the brown-out warning. -/
  | brownOutRelease (mv : Nat)
  /-- POWER_FAIL (R429): A supply outside its window forces the safe-state outputs, self-refresh and runs the Keeper on hold-up. -/
  | powerFail (mv : Nat) (railOut : Bool) (at' : Nat)
  /-- SUPPLY_RECOVERY (R429): A supply back above 10.8 V for 320 LFRC periods during hold-up restarts the module. -/
  | supplyRecovery (mv at' gap : Nat)
  /-- HOLDUP_EXPIRY (R12): The hold-up bank can no longer hold the Keeper, which is a power cycle. -/
  | holdupExpiry
  /-- ARRAY_CLOCK_LOSS (R431): An array rail collapse or PLL1 lock loss turns every core off and restarts the array at L0. -/
  | arrayClockLoss (rail : Bool)
  /-- ZONE_UV_TRIP (R432): An armed zone under-voltage comparator trip drives THROTTLE_N low and releases PGOOD. -/
  | zoneUvTrip (z : Fin 4)
  /-- ZONE_OV_TRIP (R432): A zone over-voltage trip releases PGOOD, idles the zone's stages and fences the zone. -/
  | zoneOvTrip (z : Fin 4)
  /-- STRING_OC_TRIP (R432): A string over-current trip idles both storage stages and fences the string. -/
  | stringOcTrip (i : Fin 3)
  /-- COMPARATOR_RELEASE (R432): A tripped comparator releases after its input has returned past hysteresis for 8 LFRC periods or it is disarmed. -/
  | comparatorRelease (c : Fin 11)
  /-- FAULT_PENDING_CLEAR (R441): A write to a block's FLT_STAT clears module pending bits locally and forwards pair bits to the claimant. -/
  | faultPendingClear (b : Fin 18) (bits : Word)
  /-- CLEAR_CAPTURE (R442): A write of clear_capture clears the FIRST record or empties the history. -/
  | clearCapture (b : Fin 18)
  /-- FAULT_MODE_CHANGE (R442): A change of the fault capture mode clears both record sets. -/
  | faultModeChange (b : Fin 18) (history : Bool)
  /-- HALTED_SERVICE_TIMEOUT (R450): Firmware not ready 10 s after the halt COMPUTE release leaves the supervisor in reset. -/
  | haltedServiceTimeout
  /-- RESET_REQUEST (R452): A write of the reset request schedules a reset of the named domains at the next forecast-frame boundary. -/
  | resetRequest (mask : Fin 16)
  /-- RESET_ASSERT (R452): A requested reset is asserted at a forecast-frame boundary, with valid released first for LOOP or LINKS. -/
  | resetAssert
  /-- RESET_RELEASE (R452): After 512 frames the domains are released one per frame and restore their state. -/
  | resetRelease
  /-- HEARTBEAT_BEAT (R457): A supervisor core writes its heartbeat bit. -/
  | heartbeatBeat (c : Fin 4)
  /-- HEARTBEAT_CHECK (R457): At each forecast-frame boundary the beats are checked and missing cores flagged. -/
  | heartbeatCheck
  /-- WATCHDOG_ACTION (R457): Missed beats beyond hb_reset take a dump, record WATCHDOG and reset COMPUTE, or Halt at the third action. -/
  | watchdogAction
  /-- BUS_TIMEOUT (R458): A register access not completed in 2 µs ends with an error and records BUS_TIMEOUT. -/
  | busTimeout (b : Fin 18) (addr : Word) (write : Bool) (master : Fin 256)
  /-- DUMP_REQUEST (R460): A write of request starts a crash dump with trigger REQUEST. -/
  | dumpRequest
  /-- DUMP_COMPLETE (R461): The dump engine finishes writing a dump to its slot. -/
  | dumpComplete (markers : List (Nat × Nat))
  /-- PORT_FENCE_RETURN (R438): A fenced management port returns by itself after 16 slow frames. -/
  | portFenceReturn (p : Fin 3)
  /-- GRID_LOSS (R467): The envelope below loss level for entry frames sets the grid state LOSS and idles the grid loops. -/
  | gridLoss
  /-- GRID_SAG (R467): The envelope below sag level for entry frames sets the grid state SAG. -/
  | gridSag
  /-- GRID_SAG_CLEAR (R467): Envelopes above clear level for sag_clear forecast frames return SAG to NORMAL. -/
  | gridSagClear
  /-- GRID_RETURN (R470): Envelopes above clear level for return_hold forecast frames move LOSS to RETURN and resume the grid loops. -/
  | gridReturn
  /-- GRID_NORMAL (R467): RETURN becomes NORMAL at a boundary when the profile is at target or the rate limits have stopped acting. -/
  | gridNormal
  /-- COOLANT_UPDATE (R474): At each slow-frame boundary the coolant flow and temperature status is updated. -/
  | coolantUpdate
  /-- DECLARATION_WRITE (R497): A write declaring fitted elements takes effect unless it would undeclare or regroup something under command. -/
  | declarationWrite (pwr : Bool) (val : Word)
  /-- CONFIG_SAVE (R494): A write of save stores the start configuration in flash, refused during brown-out. -/
  | configSave
  /-- CONFIG_ERASE (R494): A write of erase deletes the saved start configuration. -/
  | configErase
  /-- STARTUP_COMPLETE (R304): Start-up completes with PLLs locked to a crystal and the module may become eligible. -/
  | startupComplete
  /-- CONFIG_RESTORE (R495): The claimant restores pair state from the saved record or DRAM image through the input sets. -/
  | configRestore
  /-- AUTOSTART_STEP (R495): Each autostart step binds stages or enables loops in the frame after the previous step ends. -/
  | autostartStep
  /-- POWER_ON_RESET (R491): The auxiliary supply first reaching 10.8 V for 320 LFRC periods starts the Keeper, samples SLOT_ID and TEST_MODE, selects the capacity slot and begins start-up from zero time base. -/
  | powerOnReset (slot : Fin 4) (test : Bool)
  /-- CRYSTAL_LOST (R418): The crystal that is not selected falls below its amplitude threshold, which ends its stable judgment and records an XT_LOST Note without a trip. -/
  | crystalLost (x : Fin 2) (at' mv : Nat)
  /-- FW_IMAGE_CHECKED (R400): The check of a completely stored firmware image ends, and SEC_FW_STAT reports the result, leaving the bank valid or marked empty. -/
  | fwImageChecked (sigOk : Bool)
  /-- CONSOLE_FRAMING_REGAINED (R360): After a 10 ms gap with no byte on the console, the receiver takes the next byte as the first byte of a new length. -/
  | consoleFramingRegained
  /-- PORT_LINK_UP (R383): The 10GBASE-R link of a management port comes up, or an accepted optical module is fitted, setting link and module_ok so that the port can take sessions again. -/
  | portLinkUp (port : Fin 2) (linkUp : Bool)
  deriving DecidableEq, Repr

end Sys2Proof
end

