-- ==== Sys2Proof/Decode.lean ====
section
/-! DEFINITION. Decoding over the rows of the opcode table that give bits. The table gives none of its rows bits: its rows are events and commands,
not words, so no word spells one. -/

namespace Sys2Proof

/-- The command that a word of `nbits` bits spells: none, since no row of the table gives bits. -/
def decodeTableWord (_nbits _w : Nat) : Option Instr := none

end Sys2Proof
end

