-- ==== Sys2Proof/Config.lean ====
section
/-! DEFINITION. The free values of the model: constants without a body, for the values that the manual leaves open after an operation
that goes on, and for what a device alone knows. A statement about the module holds whatever they are. Which rule leaves which value
open is said where a meaning draws one, and in the assumption log. -/

namespace Sys2Proof.Config

open Sys2Proof.Machine

/-- A word the manual does not state, for the `n`-th draw of the state's counter. -/
opaque freeWord : Nat → Word

/-- SHA3-256, as FIPS 202 gives it: 32 bytes. The model holds no more than that it is a function. -/
opaque sha3 : List Nat → List Nat

/-- The module's device certificate (Table 14-4), its serial number and hardware issue in front, and the version of its boot ROM. -/
opaque certificate : List Nat
opaque romVersion : Nat

/-- A signature of the module's identity key (R388) over a digest, for the `n`-th draw. -/
opaque sign : Nat → List Nat → List Nat

/-- The ciphertext of an encapsulation to an ML-KEM-768 key (R396), for the `n`-th draw. -/
opaque encapsulate : Nat → List Nat → List Nat

/-- Byte `k` of the `n`-th crash dump, in the sections whose content the manual leaves to the supervisor (Table 16-11). -/
opaque dumpByte : Nat → Nat → Nat

/-- The link-local IPv6 address of a management port, which follows from its factory MAC address (R357). -/
opaque linkLocal : Nat → Nat

/-- Entries of the firmware log from a number on, up to a count (LOG_READ). -/
opaque logEntries : Nat → Nat → List Nat

/-- The configuration digest of CONFIG (Table 11-6) over the fields it covers, and the pair-state digest (Table 11-3) over the pair registers. The
manual says what they cover and not how they are formed. -/
opaque configDigest : List Nat → Word
opaque pairDigest : List (Nat × Word) → Word

end Sys2Proof.Config
end

