-- ==== Sys2Proof/Machine/State.lean ====
section
/-! DEFINITION. The state of the module: its register file and the parts of Machine/Parts, the counter of free values, and the queue
of the commands that wait. `State.reset` is the module right after power-on reset. -/

namespace Sys2Proof.Machine

/-- The reasons for a fault of the model. There is none: the manual gives every command of the table an effect. -/
inductive Fault where
  deriving DecidableEq, Repr

/-- The reasons for a refusal of the model. -/
inductive Refusal where
  /-- Raised by the dispatch alone, for a command that has no meaning yet; safe, since the model stops there. -/
  | notModelled (mnemonic : String)
  deriving DecidableEq, Repr

structure State where
  regs : Regs
  time : TimeRt
  inp : InputRt
  wq : List PairWrite
  lpe : LpeRt
  hmp : HmpRt
  prf : PrfRt
  site : SiteRt
  zfb : ZfbRt
  wgl : WglRt
  lks : LksRt
  link : LinkRt
  chn : ChnRt
  est : EstRt
  arr : ArrRt
  flt : FltRt
  mgp : MgpRt
  sec : SecRt
  pwr : PwrRt
  cfg : CfgRt
  pins : PinRt
  shadow : List (Nat × Nat × Word)
  free : Nat
  pending : List Instr
  deriving DecidableEq, Repr

/-- The module right after power-on reset. -/
def State.reset : State :=
  { regs := [], time := .reset, inp := .reset, wq := [], lpe := .reset, hmp := .reset, prf := .reset, site := .reset, zfb := .reset,
    wgl := .reset, lks := .reset, link := .reset, chn := .reset, est := .reset, arr := .reset, flt := .reset, mgp := .reset, sec := .reset,
    pwr := .reset, cfg := .reset, pins := .reset, shadow := [], free := 0, pending := [] }

end Sys2Proof.Machine
end

