-- ==== Sys2Proof/Machine/Ops.lean ====
section
/-! DEFINITION. The named operations over the registers and the time base that every family uses: reading and writing a field,
counters, the ticks of Table 02-1, what is declared (R18), which module acts (R301, R305), and the queue of register writes (R59). -/

namespace Sys2Proof.Machine

/-! Registers and fields. -/

/-- The stored word of a register. -/
def State.rd (s : State) (a : Nat) : Word := s.regs.get a
/-- Store a register's word. -/
def State.wr (s : State) (a : Nat) (w : Word) : State := { s with regs := s.regs.set a w }
/-- A field's value. -/
def State.get (s : State) (f : Fld) : Nat := getBits (s.rd f.addr) f.lo f.len
/-- Store a field's value. -/
def State.put (s : State) (f : Fld) (v : Nat) : State := s.wr f.addr (putBits (s.rd f.addr) f.lo f.len v)
/-- A one-bit field. -/
def State.flag (s : State) (f : Fld) : Bool := s.get f == 1
/-- Store a one-bit field. -/
def State.setFlag (s : State) (f : Fld) (b : Bool) : State := s.put f (b2n b)
/-- The BF24 value of a register in the layout of R66. -/
def State.getBF (s : State) (a : Nat) : BF24 := BF24.ofWord (s.rd a)
/-- Store a BF24 value. -/
def State.putBF (s : State) (a : Nat) (x : BF24) : State := s.wr a x.toWord
/-- Count up, modulo the field's width. -/
def State.bump (s : State) (f : Fld) : State := s.put f (s.get f + 1)
/-- Count up, saturating at the field's width. -/
def State.bumpSat (s : State) (f : Fld) : State := s.put f (min (s.get f + 1) (2 ^ f.len - 1))
/-- Apply a function for each index below `n`, in ascending order. -/
def State.each (n : Nat) (f : Nat → State → State) (s : State) : State := (List.range n).foldl (fun s i => f i s) s
/-- Apply a function for each entry of a list. -/
def State.over {α : Type} (l : List α) (f : α → State → State) (s : State) : State := l.foldl (fun s i => f i s) s
/-- Apply a function where a condition holds. -/
def State.iff (c : Bool) (f : State → State) (s : State) : State := if c then f s else s
/-- Next counter value for a free value of the model. -/
def State.draw (s : State) : State := { s with free := s.free + 1 }

/-! Time. -/

/-- The timestamp of the present instant (R38). -/
def State.now (s : State) : Nat := (s.time.frameStart + s.time.cycle) % 2 ^ 64
/-- The present instant moved to a cycle of the present frame. -/
def State.atCycle (s : State) (cyc : Nat) : State := { s with time := { s.time with cycle := cyc } }
/-- Is the present frame the first of a forecast frame, a sweep, a slow frame (Table 02-1)? -/
def State.fcStart (s : State) : Bool := s.time.frame % 256 == 0
def State.sweepStart (s : State) : Bool := s.time.frame % 4096 == 0
def State.slowStart (s : State) : Bool := s.time.frame % 262144 == 0
/-- Frame within the forecast frame. -/
def State.fcFrame (s : State) : Nat := s.time.frame % 256

/-- A 64-bit quantity stored low word first. -/
def State.put64 (s : State) (lo hi : Nat) (v : Nat) : State :=
  (s.wr lo (BitVec.ofNat 32 v)).wr hi (BitVec.ofNat 32 (v / 2 ^ 32))
def State.get64 (s : State) (lo hi : Nat) : Nat := (s.rd lo).toNat + (s.rd hi).toNat * 2 ^ 32

/-! What is declared (R18, Table 18-11) and where stages stand (R334). Stage lane `n` serves output stage `n` for 0 to 15, storage
stage `n − 16` for 16 to 21, and front-end stage `n − 22` for 22 to 25. -/

def State.osDecl (s : State) (k : Nat) : Bool := bit (s.get Fd.ZFB_DECL_OS_os) k
def State.strDecl (s : State) (i : Nat) : Bool := bit (s.get Fd.ZFB_DECL_PWR_strings) i
def State.feDecl (s : State) (k : Nat) : Bool := bit (s.get Fd.ZFB_DECL_PWR_fe) k
def State.feGroup (s : State) (k : Nat) : Nat := b2n (bit (s.get Fd.ZFB_DECL_PWR_fe_group) k)
def State.zoneDecl (s : State) (z : Nat) : Bool := bit (s.get Fd.ZFB_DECL_PWR_zones) z
def State.laneDecl (s : State) (t : Nat) : Bool := s.flag (Fd.ZFB_LANE_declared t)
def State.laneZone (s : State) (t : Nat) : Nat := s.get (Fd.ZFB_LANE_zone t)
def State.stageDecl (s : State) (n : Nat) : Bool :=
  if n < 16 then s.osDecl n else if n < 22 then s.strDecl ((n - 16) / 2) else s.feDecl (n - 22)

/-- The unit of a stage lane (Table 16-2). -/
def stageUnit (n : Nat) : Nat := if n < 16 then 0x100 + n else if n < 22 then 0x200 + (n - 16) else 0x300 + (n - 22)

/-- Declaration word `i` of the stage on lane `n`; 0 until its lane has first trained (R503). -/
def State.declWord (s : State) (n i : Nat) : Word := s.rd (Reg.STL_DECL n i)
/-- Stage limit, 2⁻¹² A (Table 12-6, word 1). -/
def State.posLimit (s : State) (n : Nat) : Nat := getBits (s.declWord n 1) 0 24
/-- Charge limit of a storage stage, 2⁻¹² A (word 2). -/
def State.negLimit (s : State) (n : Nat) : Nat := getBits (s.declWord n 2) 0 24
/-- Current slew, 0.001 A/µs (word 3). -/
def State.slew (s : State) (n : Nat) : Nat := getBits (s.declWord n 3) 0 16
/-- Continuous rating, 10 W (word 4). -/
def State.ratingCont (s : State) (n : Nat) : Nat := getBits (s.declWord n 4) 0 16

/-! Which module acts. -/

/-- Is this module a standby, with a valid claimant as its partner (R305)? -/
def State.isStandby (s : State) : Bool := s.lks.partnerValid && !s.lks.claimant
/-- Pair blocks (R301): LPE, PRF, FFW, ZFB, WGL, CHN, EST. -/
def pairBlock (b : Nat) : Bool := b == 1 || b == 2 || b == 3 || b == 4 || b == 6 || b == 7 || b == 11
/-- Is this register the fault status of a pair block, which holds pair and module fields? -/
def isPairFltStat (a : Nat) : Bool :=
  match blockOf a with
  | none => false
  | some b => pairBlock b && a == Reg.FLT_STAT b
/-- The opcodes of Table 13-6 that set no register take effect, as a write does, at the start of the next frame (R59). They travel with the register
writes under an address outside every block, `actBase` on: a number for the opcode in the upper part and its operands in the lower. Those below
`actOwn` act on pair state. -/
def actBase : Nat := 0x50000000
def actOwn : Nat := 0x50010000
/-- Does an address stand for an opcode that acts on pair state? -/
def actPair (a : Nat) : Bool := decide (actBase ≤ a ∧ a < actOwn)
/-- The mask of a register's pair fields (R301, R441). -/
def pairMask (a : Nat) : Word :=
  match blockOf a with
  | none => if actPair a then 0xFFFFFFFF else 0
  | some b =>
    if !pairBlock b then 0
    else if 0x7F00 ≤ (a - 0x40000000) % 0x10000 ∧ (a - 0x40000000) % 0x10000 < 0x8000 then
      (if a == Reg.FLT_STAT b then 0x7 else 0)
    else 0xFFFFFFFF

/-- A register write that arrives at the module (R59, R301): it is stamped in the present frame and waits for the next one. At a
standby its pair bits are forwarded to the claimant, and its module bits wait here. -/
def State.enqueue (s : State) (w : PairWrite) : State :=
  let w := { w with slot := s.get Fd.LKS_STAT_slot_id % 2 }
  if s.isStandby then
    let pm := w.mask &&& pairMask w.addr
    let mm := w.mask &&& ~~~(pairMask w.addr)
    let s := if pm = 0 then s else { s with lks := { s.lks with fwd := s.lks.fwd ++ [{ w with mask := pm }] } }
    if mm = 0 then s else { s with wq := s.wq ++ [{ w with mask := mm }] }
  else { s with wq := s.wq ++ [w] }

/-- A write of the module's own firmware or of a command that names no session. -/
def plainWrite (a : Nat) (mask val : Word) : PairWrite := { addr := a, mask := mask, val := val, role := 0, port := 0, session := 0, pkt := 0, slot := 0 }

/-- A write of one field. -/
def fieldWrite (f : Fld) (v : Nat) : PairWrite :=
  plainWrite f.addr (putBits 0 f.lo f.len (2 ^ f.len - 1)) (putBits 0 f.lo f.len v)

/-! Output stages (Table 05-2), strings and storage stages. -/

def State.osState (s : State) (k : Nat) : Nat := s.get (Fd.ZFB_OS_state k)
def State.osZone (s : State) (k : Nat) : Nat := s.get (Fd.ZFB_OS_zone k)
def State.osWeight (s : State) (k : Nat) : Nat := s.get (Fd.ZFB_OS_weight k)
def State.os (s : State) (k : Fin 16) : OsRt := vget s.zfb.os k
def State.setOs (s : State) (k : Fin 16) (o : OsRt) : State := { s with zfb := { s.zfb with os := vset s.zfb.os k o } }
def State.putOs (s : State) (k : Nat) (st w : Nat) : State := (s.put (Fd.ZFB_OS_state k) st).put (Fd.ZFB_OS_weight k) w

/-- Zone fence, by number. -/
def State.zoneFenced (s : State) (z : Nat) : Bool := if h : z < 4 then vget s.zfb.zoneFenced ⟨z, h⟩ else false
def State.ssW (s : State) (i : Nat) : Nat := if h : i < 6 then vget s.zfb.ssW ⟨i, h⟩ else 0
def State.feW (s : State) (i : Nat) : Nat := if h : i < 4 then vget s.zfb.feW ⟨i, h⟩ else 0
def State.ssFenced (s : State) (i : Nat) : Bool := if h : i < 6 then vget s.zfb.ssFenced ⟨i, h⟩ else false
def State.feFenced (s : State) (i : Nat) : Bool := if h : i < 4 then vget s.zfb.feFenced ⟨i, h⟩ else false
/-- Share weight of a stage lane, out of 512. -/
def State.laneW (s : State) (n : Nat) : Nat :=
  if n < 16 then s.osWeight n else if n < 22 then s.ssW (n - 16) else s.feW (n - 22)
/-- Is the stage of a lane fenced? -/
def State.stageFenced (s : State) (n : Nat) : Bool :=
  if n < 16 then s.osState n == 0xA else if n < 22 then s.ssFenced (n - 16) else s.feFenced (n - 22)
/-- The last valid telemetry of a stage lane. -/
def State.teleOf (s : State) (n : Nat) : Option Telemetry := if h : n < 26 then vget s.zfb.tele ⟨n, h⟩ else none
/-- Did the frame's input set hold valid telemetry of the lane? -/
def State.teleHere (s : State) (n : Nat) : Bool := if h : n < 26 then vget s.zfb.teleNow ⟨n, h⟩ else false

def State.loop (s : State) (l : Nat) : LoopRt := if h : l < 7 then vget s.lpe.loops ⟨l, h⟩ else .reset
def State.setLoop (s : State) (l : Nat) (x : LoopRt) : State :=
  if h : l < 7 then { s with lpe := { s.lpe with loops := vset s.lpe.loops ⟨l, h⟩ x } } else s
/-- A calibrated sense value of the frame (Table 01-5 order). -/
def State.cal (s : State) (c : Nat) : BF24 := if h : c < 24 then vget s.lpe.cal ⟨c, h⟩ else .zero
/-- Has the slow, sweep or forecast tick of the present frame begun here? The lane structure. -/
def State.lane (s : State) (t : Nat) : LaneRt := if h : t < 16 then vget s.wgl.lanes ⟨t, h⟩ else .reset
def State.setLane (s : State) (t : Nat) (x : LaneRt) : State :=
  if h : t < 16 then { s with wgl := { s.wgl with lanes := vset s.wgl.lanes ⟨t, h⟩ x } } else s
def State.zoneFf (s : State) (z : Nat) : ZoneFf := if h : z < 4 then vget s.wgl.zones ⟨z, h⟩ else .reset
def State.setZoneFf (s : State) (z : Nat) (x : ZoneFf) : State :=
  if h : z < 4 then { s with wgl := { s.wgl with zones := vset s.wgl.zones ⟨z, h⟩ x } } else s

/-- The present input set: the claimant's where the frame is computed on it (R306, R307), else the module's own. -/
def State.input (s : State) : InputSet :=
  if s.inp.onPartner then (match s.inp.partner with | some p => p | none => s.inp.own) else s.inp.own

/-- The set that stage telemetry and uplink frames are taken from: the input set, and in phase 2 of a bit-error test, in which the claimant's lanes
are in TEST, the standby's (R354). -/
def State.laneSet (s : State) : InputSet :=
  if s.link.bert == BertRun.phase 2 && s.lks.partnerValid then
    if s.isStandby then s.inp.own else (match s.inp.partner with | some p => p | none => s.inp.own)
  else s.input

end Sys2Proof.Machine
end

