-- ==== Sys2Proof/Machine/Flags.lean ====
section
/-! DEFINITION. Faults: the record and its escalation (R436 to R446), the pending bits, FAULT_N and the interrupt (R443, R447), the
start of the Halt sequence and the safe state (R448, R449), and the taking out of service of each kind of unit (R131, R501, R20,
R190, R204, R236). -/

namespace Sys2Proof.Machine

/-! ## Blocks and units -/

/-- Block indices in the order of Table 01-4. -/
def Blk.sup : Fin 18 := 0
def Blk.lpe : Fin 18 := 1
def Blk.prf : Fin 18 := 2
def Blk.ffw : Fin 18 := 3
def Blk.zfb : Fin 18 := 4
def Blk.stl : Fin 18 := 5
def Blk.wgl : Fin 18 := 6
def Blk.chn : Fin 18 := 7
def Blk.sns : Fin 18 := 8
def Blk.adn : Fin 18 := 9
def Blk.mdl : Fin 18 := 10
def Blk.est : Fin 18 := 11
def Blk.hmp : Fin 18 := 12
def Blk.lks : Fin 18 := 13
def Blk.kpr : Fin 18 := 14
def Blk.clk : Fin 18 := 15
def Blk.mgp : Fin 18 := 16
def Blk.sec : Fin 18 := 17

/-- The kind of a unit (R438). -/
def unitKind (u : Nat) : Nat := u / 256
/-- Shelf units are the kinds 0x01 to 0x09 of Table 16-2; the others, and no unit, are the module's own. -/
def isShelfUnit (u : Nat) : Bool := decide (1 ≤ unitKind u ∧ unitKind u ≤ 9)

/-- Is a fault of this block and code an own fault (R440)? -/
def isOwnFault (b : Fin 18) (code : Nat) : Bool :=
  if pairBlock b.val then decide (1 ≤ code ∧ code ≤ 3) || (b.val == 1 && code == 0x10) else true

/-- Does a Note of this block and code escalate (R445)? -/
def escalatingNote (b : Fin 18) (code : Nat) : Bool := (b.val == 9 && code == 0x12) || (b.val == 13 && code == 0x11)

/-- The class a fault is recorded with (R445): one class up where the block already holds an unacknowledged fault of the same
class, of the same kind, for the same unit, within the limits of the rule. -/
def escalate (rem : List RemUnit) (b : Fin 18) (own : Bool) (code cls unit : Nat) : Nat :=
  let held := rem.any fun r => r.own == own && r.cls == cls && r.unit == unit
  let allowed :=
    decide (cls < 3) && (own || decide (cls < 2)) && !(own && isShelfUnit unit && !pairBlock b.val)
      && (cls != 0 || escalatingNote b code)
  if held && allowed then cls + 1 else cls

/-! ## The window of a block (R441, R442) -/

/-- The information word of a record. -/
def faultInfo (code cls : Nat) (esc own : Bool) (access unit : Nat) : Word :=
  BitVec.ofNat 32 (code % 256 * 2 ^ 24 + cls % 4 * 2 ^ 22 + b2n esc * 2 ^ 21 + b2n own * 2 ^ 20 + 2 ^ 19 +
    access % 8 * 2 ^ 16 + unit % 65536)

/-- Fill the capture registers of a block with a record, in the mode that stands. -/
def State.capture (s : State) (b : Nat) (info : Word) (addr master : Nat) : State :=
  let t := s.now % 2 ^ 48
  if s.flag (Fd.FLT_CFG_mode b) then
    let i := s.get (Fd.FLT_HIST_PTR_next b)
    let s := s.wr (Reg.FLT_HIST_INFO b i) (putBits info 16 3 0)
    let s := s.put64 (Reg.FLT_HIST_TIME_LO b i) (Reg.FLT_HIST_TIME_HI b i) t
    s.put (Fd.FLT_HIST_PTR_next b) (i + 1)
  else if s.flag (Fd.FLT_FIRST_INFO_valid b) then s
  else
    let s := s.wr (Reg.FLT_FIRST_INFO b) info
    let s := s.wr (Reg.FLT_FIRST_ADDR b) (BitVec.ofNat 32 addr)
    s.put64 (Reg.FLT_FIRST_TIME_LO b) (Reg.FLT_FIRST_TIME_HI b) (t + master % 256 * 2 ^ 56)

/-- Empty both record sets of a block. -/
def State.clearRecords (s : State) (b : Nat) : State :=
  let s := (((s.wr (Reg.FLT_FIRST_INFO b) 0).wr (Reg.FLT_FIRST_ADDR b) 0).wr (Reg.FLT_FIRST_TIME_LO b) 0).wr
    (Reg.FLT_FIRST_TIME_HI b) 0
  let s := s.wr (Reg.FLT_HIST_PTR b) 0
  s.each 8 fun i s => ((s.wr (Reg.FLT_HIST_INFO b i) 0).wr (Reg.FLT_HIST_TIME_LO b i) 0).wr (Reg.FLT_HIST_TIME_HI b i) 0

/-! ## Units out of service -/

/-- Restore every SHED and SHEDDING stage of a zone at once, as ADDING with weight 512 (R146, R150). -/
def State.restoreShed (s : State) (z : Nat) : State :=
  s.each 16 fun k s => if s.osZone k == z && (s.osState k == 8 || s.osState k == 7) then s.putOs k 9 512 else s

/-- A stage that is fenced in a batch leaves it, which ZFB_COMB_STAT shows (R137). -/
def State.leaveBatch (s : State) (k : Fin 16) : State :=
  if (s.os k).inBatch then
    (s.setFlag Fd.ZFB_COMB_STAT_fenced_in_batch true).put Fd.ZFB_COMB_STAT_busy_mask
      (s.get Fd.ZFB_COMB_STAT_busy_mask - (if bit (s.get Fd.ZFB_COMB_STAT_busy_mask) k then 2 ^ k.val else 0))
  else s
/-- The sequence of a stage that is fenced: none, with its switch as it stands. -/
def OsRt.fenced (o : OsRt) : OsRt := { OsRt.reset with swSeen := o.swSeen, openCmd := o.openCmd, src := o.src, dst := o.dst }
/-- Take an output stage out of service (R131, R137, R146). Its binding stands as the last confirmed switch state left it. -/
def State.fenceOs (s : State) (k : Fin 16) (cause : Nat) : State :=
  let t := (((s.put (Fd.ZFB_OS_state k) 0xA).put (Fd.ZFB_OS_fence_cause k) cause).leaveBatch k).setOs k (s.os k).fenced
  if t.osZone k < 4 then t.restoreShed (t.osZone k) else t

/-- Take a storage stage out of service (R131, R140). -/
def State.fenceSs (s : State) (i : Fin 6) : State := { s with zfb := { s.zfb with ssFenced := vset s.zfb.ssFenced i true } }
/-- Take a front-end stage out of service (R131). -/
def State.fenceFe (s : State) (i : Fin 4) : State := { s with zfb := { s.zfb with feFenced := vset s.zfb.feFenced i true } }
/-- Take a string out of service, with both its storage stages (R20). -/
def State.fenceStr (s : State) (i : Fin 3) : State :=
  let s := { s with zfb := { s.zfb with strFenced := vset s.zfb.strFenced i true } }
  (s.fenceSs ⟨2 * i.val, by omega⟩).fenceSs ⟨2 * i.val + 1, by omega⟩

/-- Where a zone's fence puts one of its stages: bound stages outside a batch go to OPENING at weight 0 and become HELD (R501);
an arriving stage of a batch parks, opens and parks, or follows the bound stages, by how far it has come (R138). -/
def State.zoneFenceStage (s : State) (z : Nat) (k : Fin 16) : State :=
  let o := s.os k
  if o.inBatch && o.dst == z && (o.step == .pre || o.step == .matching) then
    (s.putOs k 0 0).setOs k { OsRt.reset with swSeen := o.swSeen, openCmd := true }
  else if o.inBatch && o.dst == z && o.step == .closeSent then
    (s.putOs k 3 0).setOs k { o with step := .zeroWait, j := 0, parkAfter := true }
  else if s.osZone k == z && s.osState k != 0xA && (!o.inBatch || o.dst == z) && s.osState k != 0xB then
    (s.putOs k 3 0).setOs k { o with step := .zeroWait, j := 0, inBatch := false, heldAfter := true, parkAfter := false, clearReq := false }
  else s

/-- Fence a zone (R119, R120, R501): its stages open at zero current and keep their binding, its ramp goes idle, and the frames
to a retry are counted where one is left. -/
def State.fenceZone (s : State) (z : Fin 4) : State :=
  let s := { s with zfb := { s.zfb with zoneFenced := vset s.zfb.zoneFenced z true } }
  let s := (List.finRange 16).foldl (fun (s : State) (k : Fin 16) => s.zoneFenceStage z k) s
  let s := s.setFlag (Fd.LPE_RAMP_STAT_running z) false
  let retry := decide (s.get (Fd.LPE_FOLLOW_STAT_retries_used z) < s.get (Fd.LPE_FOLLOW_RETRY_retry_max z))
  { s with zfb := { s.zfb with
      retryDue := vset s.zfb.retryDue z retry
      retryLeft := vset s.zfb.retryLeft z (if retry then 256 * s.get (Fd.LPE_FOLLOW_RETRY_retry_delay z) else 0) } }

/-- Fence a front-end group: every declared front-end stage of it (Table 04-5). -/
def State.fenceGroup (s : State) (g : Nat) : State :=
  (List.finRange 4).foldl (fun (s : State) (k : Fin 4) => if s.feDecl k && s.feGroup k == g then s.fenceFe k else s) s

/-- Fence a tray lane (R190): its markers are ignored, and its arm ends. -/
def State.fenceLane (s : State) (t : Fin 16) : State :=
  let s := s.setFlag (Fd.WGL_LANE_STAT_fenced t) true
  let s := s.setFlag (Fd.WGL_LANE_STAT_arm_pending t) false
  s.setLane t { s.lane t with arm := none }

/-- Fence an array core (R204, R217, R218). -/
def State.fenceCore (s : State) (k : Nat) (cause : Nat) : State :=
  (s.put (Fd.ADN_CORE_STAT_state k) 6).put (Fd.ADN_CORE_STAT_fence_cause k) cause

/-- Take a unit out of service as the class Fence does for its kind (Table 16-2, R439). Units that cannot be fenced stay. -/
def State.fenceUnit (s : State) (u : Nat) : State :=
  let i := u % 256
  match unitKind u with
  | 1 => if h : i < 16 then s.fenceOs ⟨i, h⟩ 6 else s
  | 2 => if h : i < 6 then s.fenceSs ⟨i, h⟩ else s
  | 3 => if h : i < 4 then s.fenceFe ⟨i, h⟩ else s
  | 4 => s.fenceGroup i
  | 5 => if h : i < 4 then s.fenceZone ⟨i, h⟩ else s
  | 7 => if h : i < 3 then s.fenceStr ⟨i, h⟩ else s
  | 8 => (s.put (Fd.CHN_NODE_STAT_state (i / 16) (i % 16)) 3).put (Fd.CHN_NODE_STAT_fence_cause (i / 16) (i % 16)) 4
  | 9 => if h : i < 16 then s.fenceLane ⟨i, h⟩ else s
  | 10 => s.fenceCore i 3
  | 11 => s.put (Fd.MDL_SLOT_STAT_state i) 5
  | 12 => if h : i < 3 then { s with flt := { s.flt with portFence := vset s.flt.portFence ⟨i, h⟩ 17 } } else s
  | _ => s

/-! ## The record -/

/-- The outputs of the safe state (R448, Table 15-4): valid released, PGOOD and SYNC_OUT released, THROTTLE_N driven by the Keeper
comparators alone, FAULT_N low, and every lane QUIET. -/
def State.enterSafe (s : State) : State :=
  let s := { s with flt := { s.flt with safe := true, faultLow := !s.pins.testMode }
                    pins := { s.pins with valid := false, syncOut := false, pgood := vall 4 false
                                          throttleLow := Vector.ofFn fun z => s.flag (Fd.KPR_CMP_ZONE_uv_trip z) && !s.pins.testMode } }
  let s := s.each 26 fun n s => s.put (Fd.STL_LANE_STAT_state n) 0
  let s := s.each 16 fun t s => s.put (Fd.WGL_LINK_STAT_state t) 0
  (s.put Fd.LKS_LOCK_STAT_state 0).setFlag Fd.LKS_STAT_own_valid false

/-- Start a dump (R461). A trigger that comes while one runs, or while the MEMORY domain is in reset, is ignored. -/
def State.startDump (s : State) (trigger : Nat) (after : AfterDump) : State :=
  if s.flt.dumpTrig.isSome || vget s.flt.rstOn 3 then
    { s with flt := { s.flt with afterDump := if after == .nothing then s.flt.afterDump else after } }
  else { s with flt := { s.flt with dumpTrig := some trigger, dumpAt := (s.time.frame, s.now), afterDump := after } }.setFlag
    Fd.LKS_DUMP_STAT_busy true

/-- The start of the Halt sequence (R449): halt is set, the Keeper forces the safe state, and a dump with trigger HALT starts. A
watchdog's Halt takes its own dump first (R457). -/
def State.halt (s : State) (b : Nat) : State :=
  let s := s.setFlag (Fd.FLT_STAT_halt b) true
  let s := s.enterSafe
  if s.flt.halt == .none then ({ s with flt := { s.flt with halt := .dump } }).startDump 0 .halt else s

/-- Set the pending bit of a class, own or pair, and remember the unit. -/
def State.setPending (s : State) (b : Fin 18) (own : Bool) (cls unit : Nat) : State :=
  let f := if own then Fd.FLT_STAT_own_pend b else Fd.FLT_STAT_pair_pend b
  let s := s.put f (s.get f ||| 2 ^ cls)
  { s with flt := { s.flt with rem := vmod s.flt.rem b (fun l => l ++ [⟨own, cls, unit⟩]) } }

/-- Count a fault, capture it, and meet Hamper's fault trigger (R442, R93). -/
def State.countFault (s : State) (b : Fin 18) (info : Word) (cls addr master : Nat) : State :=
  let s := (s.bump (Fd.FLT_STAT_count b)).capture b info addr master
  if s.get Fd.HMP_TRIG_CTRL_block == b.val && decide (s.get Fd.HMP_TRIG_CTRL_min_class ≤ cls)
    then { s with hmp := { s.hmp with faultHit := true } } else s

/-- Record a fault of block `b` (R436 to R446): count it, capture it, escalate it, set its pending bit, meet Hamper's fault trigger
(R93), and carry out what escalation to Fence or the class Halt brings. The owning rule carries out the reaction of its own class. -/
def State.recordAt (s : State) (b : Fin 18) (code cls unit access addr master : Nat) : State :=
  let own := isOwnFault b code
  let cls' := escalate (vget s.flt.rem b) b own code cls unit
  let esc := decide (cls' ≠ cls)
  let s := s.countFault b (faultInfo code cls' esc own access unit) cls' addr master
  if cls' = 3 then s.halt b
  else
    let s := if cls' = 0 && !escalatingNote b code then s else s.setPending b own cls' unit
    if esc && cls' = 2 then s.fenceUnit unit else s

/-- Record a fault without access. -/
def State.record (s : State) (b : Fin 18) (code cls unit : Nat) : State := s.recordAt b code cls unit 0 0 0

/-- Acknowledge pending bits of a block (R444): the bits clear, and the units they stand for are forgotten. -/
def State.ack (s : State) (b : Fin 18) (ownBits pairBits : Nat) : State :=
  let s := s.put (Fd.FLT_STAT_own_pend b) (s.get (Fd.FLT_STAT_own_pend b) &&& (ownBits ^^^ 7))
  let s := s.put (Fd.FLT_STAT_pair_pend b) (s.get (Fd.FLT_STAT_pair_pend b) &&& (pairBits ^^^ 7))
  let rem := vmod s.flt.rem b (fun l => l.filter (fun r => !(if r.own then bit ownBits r.cls else bit pairBits r.cls)))
  let s := { s with flt := { s.flt with rem := rem } }
  -- an acknowledged WATCHDOG fault sets the count of actions back (R457)
  if b.val == 0 && (vget s.flt.rem Blk.sup).all (fun r => !(r.own && r.unit == 0 && decide (1 ≤ r.cls)))
    then { s with flt := { s.flt with wdCount := 0 } } else s

/-! ## FAULT_N, the interrupt and claim bit d -/

/-- Does a block ask for FAULT_N low: a Degrade or Fence pending bit, own or pair, or halt (R447)? -/
def State.blockFaultLow (s : State) (b : Nat) : Bool :=
  decide (2 ≤ s.get (Fd.FLT_STAT_own_pend b)) || decide (2 ≤ s.get (Fd.FLT_STAT_pair_pend b)) || s.flag (Fd.FLT_STAT_halt b)

/-- The level of FAULT_N that the module's faults ask for (R447). -/
def State.faultNLow (s : State) : Bool :=
  !s.pins.testMode && ((List.range 18).any fun b => s.blockFaultLow b)

/-- A block's interrupt level (R443). -/
def State.irq (s : State) (b : Nat) : Bool :=
  let pend := s.get (Fd.FLT_STAT_own_pend b) ||| s.get (Fd.FLT_STAT_pair_pend b) ||| (8 * b2n (s.flag (Fd.FLT_STAT_halt b)))
  (pend &&& s.get (Fd.FLT_CFG_irq_en b)) != 0

/-- Claim bit d (R302, R440): the module holds no uncleared own fault of class Degrade or Fence of an own unit or of no unit. -/
def State.claimD (s : State) : Bool :=
  !((List.finRange 18).any fun b => (vget s.flt.rem b).any fun r => r.own && decide (1 ≤ r.cls) && !isShelfUnit r.unit)

end Sys2Proof.Machine
end

