-- ==== Sys2Proof/Machine/Operands.lean ====
section
/-! DEFINITION. The operand forms that cross the module's links, and their checks: the CRCs (R247, IEEE 802.3), the bytes of a stage
command (Table 12-4), the reading of sense samples and their calibration (R37, R484), and what an uplink frame must be to count
(R339, R341). -/

namespace Sys2Proof.Machine

/-! ## CRCs -/

/-- One bit of the CRC-16 of R247. -/
def crc16Bit (c : Nat) : Nat := if bit c 15 then (c * 2 % 65536) ^^^ 0x1021 else c * 2 % 65536
/-- `n` bit steps of a CRC. -/
def crcSteps (f : Nat → Nat) : Nat → Nat → Nat
  | 0, c => c
  | n + 1, c => crcSteps f n (f c)
/-- The CRC-16 of R247: polynomial 0x1021, initial value 0xFFFF, no reflection, no final inversion. -/
def crc16 (bytes : List Nat) : Nat := bytes.foldl (fun c b => crcSteps crc16Bit 8 (c ^^^ (b % 256 * 256))) 0xFFFF

/-- One bit of the reflected CRC-32 of IEEE 802.3. -/
def crc32Bit (c : Nat) : Nat := if bit c 0 then (c / 2) ^^^ 0xEDB88320 else c / 2
/-- The CRC-32 of IEEE 802.3. -/
def crc32 (bytes : List Nat) : Word :=
  BitVec.ofNat 32 ((bytes.foldl (fun c b => crcSteps crc32Bit 8 (c ^^^ (b % 256))) 0xFFFFFFFF) ^^^ 0xFFFFFFFF)

/-- A number as `n` bytes, most significant first (R5). -/
def beBytes : Nat → Nat → List Nat
  | 0, _ => []
  | n + 1, v => (v / 256 ^ n % 256) :: beBytes n v

/-- A number from its bytes, most significant first (R5). -/
def beNat (bytes : List Nat) : Nat := bytes.foldl (fun v b => v * 256 + b % 256) 0

/-! ## Stage commands (Table 12-4) -/

/-- The code of a mode in a command. -/
def StageMode.code : StageMode → Nat
  | .idle => 0 | .run => 1 | .precharge => 2

/-- Bytes 0 to 13 of a stage command, with the claim field as given. -/
def StageCmd.body (c : StageCmd) (claim : Nat) : List Nat :=
  beBytes 2 c.seq ++ [claim % 16 * 16 + c.mode.code * 4 + b2n c.swClosed, c.phase % 256] ++ beBytes 3 (toBits 24 c.ref)
    ++ beBytes 2 c.vpre ++ [c.ver % 4, b2n c.test * 128 + c.secs % 128, c.zone % 8, 0, 0]

/-- The 16 bytes of a stage command, its CRC included. -/
def StageCmd.bytes (c : StageCmd) (claim : Nat) : List Nat := c.body claim ++ beBytes 2 (crc16 (c.body claim))

/-- The reference field of a command: 2⁻¹² A, rounded half to even and saturating at the field's range (R64). -/
def refField (y : BF24) : Int := clampInt (-(2 ^ 23 : Nat)) ((2 ^ 23 : Nat) - 1) (y.frac.scale 12).round

/-! ## Sense values (R37, R484) -/

/-- The latched code of a channel: the exact mean of the samples of the frame, rounded half to even, saturating at 16 bits. A frame
without samples keeps the code 0. -/
def meanCode (xs : List Int) : Int :=
  match xs with
  | [] => 0
  | _ => clampInt (-32768) 32767 (Frac.round ⟨xs.foldl (· + ·) 0, xs.length⟩)

/-- The latched codes of the 24 channels. -/
def latchCodes (samples : List (Vector Int 24)) : Vector Int 24 :=
  Vector.ofFn fun c => meanCode (samples.map fun v => vget v c)

/-- A calibrated sense value: gain × code + add, rounded once to BF24 (R63, R484). An absent channel reads 0 (R23). -/
def calibrate (gain add : BF24) (absent : Bool) (code : Int) : BF24 :=
  if absent then .zero else roundBF ((gain.frac.mul (Frac.ofInt code)).add add.frac)

/-! ## Received frames -/

/-- Is a stage telemetry frame valid (R339)? `linkOk` says that its code-groups, length and CRC passed. -/
def teleValid (s : State) (n : Fin 26) (linkOk : Bool) (t : Telemetry) : Bool :=
  linkOk && s.get (Fd.STL_LANE_STAT_version n) != 0 && t.ver == s.get (Fd.STL_LANE_STAT_version n)

/-- Is a tray's uplink frame of the type expected and valid (R339, R341)? -/
def upValid (s : State) (t : Fin 16) (linkOk : Bool) (want : UpType) (u : Uplink) : Bool :=
  linkOk && u.type == want && s.get (Fd.WGL_LANE_STAT_version t) != 0 && u.ver == s.get (Fd.WGL_LANE_STAT_version t)

end Sys2Proof.Machine
end

