-- ==== Sys2Proof/Machine/Loops.lean ====
section
/-! DEFINITION. The compensators of the loop engine: signal blocks (R68), the accumulator (R69), the two forms (R72, R73), the limiter
(R75), set switching and presets (R80, R81, R87), MANUAL (R85, R86), the clamps of Table 03-2 and the shares of R64. -/

namespace Sys2Proof.Machine

/-! ## Signal blocks and the accumulator -/

/-- Is a loop three-pole, three-zero (Table 03-1)? -/
def threePole (l : Nat) : Bool := decide (l < 4)

/-- The samples a block of the error history holds (R68). -/
def errSamples (l : Nat) (split : Bool) : Nat := if threePole l then (if split then 3 else 4) else (if split then 2 else 3)
/-- The samples of the direct form's output history (R68). -/
def outSamples (l : Nat) : Nat := if threePole l then 3 else 2
/-- The samples of the split form's section history (R68). -/
def secSamples (l : Nat) : Nat := if threePole l then 2 else 1

/-- Keep the newest `n` samples of a block; samples it did not hold enter as 0 (R80). -/
def Block.resize (b : Block) (n : Nat) : Block := { b with ms := (b.ms ++ List.replicate n 0).take n }

/-- Take a new sample into a block of `n` samples (R68): the oldest leaves, the block exponent rises as far as the sample needs, and
falls by at most 1. -/
def Block.push (b : Block) (n : Nat) (x : BF24) : Block :=
  let held := (b.resize n).ms.take (n - 1)
  let b1 : Block :=
    if b.e < x.e then ⟨x.m :: held.map (fun m => shiftRightEven m (x.e - b.e).toNat), x.e⟩
    else ⟨shiftRightEven x.m (b.e - x.e).toNat :: held, b.e⟩
  if b1.ms.all (fun m => decide (m.natAbs < 2 ^ 22)) && decide (-32 < b1.e) then ⟨b1.ms.map (· * 2), b1.e - 1⟩ else b1

/-- A block with every sample equal to a value (R80). -/
def Block.fill (n : Nat) (x : BF24) : Block := ⟨List.replicate n x.m, x.e⟩

/-- The accumulator's saturation (R69), with its mark. -/
def satAcc (v : Int) : Int × Bool :=
  if v < -(2 ^ 47 : Nat) then (-(2 ^ 47 : Nat), true) else if (2 ^ 47 : Nat) - 1 < v then ((2 ^ 47 : Nat) - 1, true) else (v, false)

/-- Add the products of coefficients and samples to the accumulator in order, saturating after each addition (R69). -/
def macc (acc : Int × Bool) (cs xs : List Int) : Int × Bool :=
  (cs.zip xs).foldl (fun a p => let r := satAcc (a.1 + p.1 * p.2); (r.1, a.2 || r.2)) acc

/-- Align the previous stage's value to the accumulator's scale `2^(ec + eb − 46)` (R69). -/
def alignAcc (x : BF24) (ec eb : Int) : Int × Bool :=
  let k := x.e + 23 - ec - eb
  if 0 ≤ k then satAcc (x.m * (2 ^ k.toNat : Nat)) else (shiftRightEven x.m (-k).toNat, false)

/-- The accumulator renormalised to BF24 (R67). -/
def accOut (acc : Int) (ec eb : Int) : BF24 × Bool := roundBFo ((Frac.ofInt acc).scale (ec + eb - 46))

/-! ## Coefficient sets (Table 03-4, Table 03-6) -/

structure CoefSet where
  split : Bool
  en : Int
  ed : Int
  el : Int
  ns : List Int
  ds : List Int
  kb : Int
  deriving DecidableEq, Repr

/-- The coefficients of set `i` of loop `l`. -/
def State.coefSet (s : State) (l i : Nat) : CoefSet :=
  { split := s.flag (Fd.LPE_CSET_CTRL_form l i)
    en := sext 6 (s.get (Fd.LPE_CSET_CTRL_exp_num l i))
    ed := sext 6 (s.get (Fd.LPE_CSET_CTRL_exp_den l i))
    el := sext 6 (s.get (Fd.LPE_CSET_CTRL_exp_lim l i))
    ns := (List.range 4).map fun j => sext 24 (s.get (Fd.LPE_CSET_N_mant l i j))
    ds := (List.range 3).map fun j => sext 24 (s.get (Fd.LPE_CSET_D_mant l i j))
    kb := sext 24 (s.get (Fd.LPE_CSET_KB_mant l i)) }

/-! ## One loop in one frame -/

/-- What a frame gives a loop. -/
structure LoopIn where
  r : BF24
  m : BF24
  f : BF24
  hi : BF24
  lo : BF24
  rate : BF24
  vlink : BF24
  pman : BF24
  manual : Bool
  enabled : Bool
  set : Nat
  cs : CoefSet
  deriving DecidableEq, Repr

/-- What a frame's computation marks in LPE_LOOP_STAT. -/
structure LoopMarks where
  sat : Bool
  ovf : Bool
  preset : Bool
  rateAct : Bool
  hiAct : Bool
  loAct : Bool
  deriving DecidableEq, Repr

/-- The compensator's output before the limiter, with the histories as the frame leaves them if they advance: numerator,
denominator, error block, output or section block, integrator, marks. -/
structure CompOut where
  n : BF24
  yc : BF24
  eb : Block
  sb : Block
  integ : Flt
  sat : Bool
  ovf : Bool
  deriving DecidableEq, Repr

/-- The direct form (R72), and its preset where `pre` holds (R80). -/
def directForm (l : Nat) (x : LoopRt) (i : LoopIn) (e : BF24) (pre : Bool) : CompOut × Block :=
  let ne := errSamples l false
  let no := outSamples l
  let eb := x.eb.push ne e
  let a := macc (0, false) (i.cs.ns.take ne) eb.ms
  let nn := accOut a.1 i.cs.en eb.e
  let hb := if pre then Block.fill no (roundBF (x.y.frac.sub x.f.frac)) else x.hb.resize no
  let d0 := alignAcc nn.1 i.cs.ed hb.e
  let d := macc d0 ((i.cs.ds.take no).map (- ·)) hb.ms
  let yc := accOut d.1 i.cs.ed hb.e
  ({ n := nn.1, yc := yc.1, eb := eb, sb := x.sb, integ := x.integ, sat := a.2 || d.2, ovf := nn.2 || yc.2 }, hb)

/-- The split form (R73), and its preset where `pre` holds (R80); `keepI` leaves the integrator alone (R85). -/
def splitForm (l : Nat) (x : LoopRt) (i : LoopIn) (e : BF24) (pre keepI : Bool) : CompOut :=
  let ne := errSamples l true
  let ns := secSamples l
  let eb := x.eb.push ne e
  let a := macc (0, false) (i.cs.ns.take ne) eb.ms
  let nn := accOut a.1 i.cs.en eb.e
  let sb := x.sb.resize ns
  let d0 := alignAcc nn.1 i.cs.ed sb.e
  let d := macc d0 ((i.cs.ds.take ns).map (- ·)) sb.ms
  let sv := accOut d.1 i.cs.ed sb.e
  let ki := (Frac.ofInt (i.cs.ns.getD 3 0)).scale (i.cs.en - 23)
  let kb := (Frac.ofInt i.cs.kb).scale (i.cs.el - 23)
  let integ : Flt × Bool :=
    if keepI then (x.integ, false)
    else if pre then roundInteg ((x.y.frac.sub x.f.frac).sub sv.1.frac)
    else roundInteg ((x.integ.frac48.add (ki.mul e.frac)).add (kb.mul x.x.frac))
  let yc := roundBFo ((roundBF integ.1.frac48).frac.add sv.1.frac)
  { n := nn.1, yc := yc.1, eb := eb, sb := sb.push ns sv.1, integ := integ.1, sat := a.2 || d.2,
    ovf := nn.2 || sv.2 || integ.2 || yc.2 }

/-- The limiter stage (R75): the output, and the marks rate_act, hi_act, lo_act. -/
def limiter (u yPrev rate hi lo : BF24) : BF24 × Bool × Bool × Bool :=
  let r := rate.frac.abs
  let y1 := if r.isZero then u.frac
    else Frac.min (Frac.max u.frac (yPrev.frac.sub r)) (yPrev.frac.add r)
  let rateAct := !(y1.eq u.frac)
  let y2 := Frac.max y1 lo.frac
  let y3 := Frac.min y2 hi.frac
  (roundBF y3, rateAct, hi.frac.lt y2, y1.lt lo.frac && !(hi.frac.lt y2))

/-- One loop for one frame (R72 to R87). A loop that is not enabled has output 0, and its histories and integrator at 0. -/
def loopStep (l : Nat) (x : LoopRt) (i : LoopIn) : LoopRt × LoopMarks :=
  let e := roundBF (i.r.frac.sub i.m.frac)
  if !i.enabled then
    ({ x with
        eb := .zero (errSamples l i.cs.split), hb := .zero (outSamples l), sb := .zero (secSamples l), integ := ⟨0, -32⟩
        r := i.r, m := i.m, e := e, n := .zero, yc := .zero, f := .zero, u := .zero, y := .zero, x := .zero
        hi := i.hi, lo := i.lo, split := i.cs.split, set := i.set, manual := i.manual, manWritten := false
        enabled := false, hiFrames := 0, hiErrFrames := 0 },
     { sat := false, ovf := false, preset := false, rateAct := false, hiAct := false, loAct := false })
  else
    let toAuto := x.enabled && x.manual && !i.manual
    let newSet := x.enabled && x.set != i.set
    let pre := (toAuto || newSet) && !i.manual
    -- a form the loop did not run before starts from the samples both hold (R80)
    let x := if x.split != i.cs.split then
        { x with sb := .zero (secSamples l), hb := .zero (outSamples l), integ := ⟨0, -32⟩, eb := x.eb.resize (errSamples l i.cs.split) }
      else x
    let c : CompOut × Block :=
      if i.cs.split then (splitForm l x i e pre i.manual, x.hb) else directForm l x i e pre
    let ycMan := divBF ((Frac.ofInt 1000).mul i.pman.frac) i.vlink.frac
    let yc := if i.manual then ycMan.1 else c.1.yc
    let uo := roundBFo (yc.frac.add i.f.frac)
    let lim := limiter uo.1 x.y i.rate i.hi i.lo
    let y := lim.1
    let ex := roundBFo (y.frac.sub uo.1.frac)
    let hold := !i.cs.split && !i.manual && decide (ex.1.m ≠ 0)
    let hb := if i.cs.split then c.2 else if hold then c.2
      else c.2.push (outSamples l) (if i.manual then y else yc)
    ({ x with
        eb := if hold then x.eb.resize (errSamples l false) else c.1.eb
        hb := hb, sb := c.1.sb, integ := if i.manual then x.integ else c.1.integ
        r := i.r, m := i.m, e := e, n := c.1.n, yc := yc, f := i.f, u := uo.1, y := y, x := ex.1
        hi := i.hi, lo := i.lo, split := i.cs.split, set := i.set, manual := i.manual, manWritten := false, enabled := true
        hiFrames := if lim.2.2.1 then x.hiFrames + 1 else 0 },
     { sat := c.1.sat, ovf := c.1.ovf || uo.2 || ex.2 || (i.manual && ycMan.2), preset := pre || newSet
       rateAct := lim.2.1, hiAct := lim.2.2.1, loAct := lim.2.2.2 })

/-! ## Clamps (R65, Table 03-2) -/

/-- The stage lanes a loop drives: the output stages bound to the zone, the storage stages, or the front-end stages of the group. -/
def State.loopStages (s : State) (l : Nat) : List Nat :=
  if l < 4 then (List.range 16).filter fun k => s.osZone k == l
  else if l = 4 then (List.range 6).map (· + 16)
  else ((List.range 4).filter fun k => s.feDecl k && s.feGroup k == l - 5).map (· + 22)

/-- The weights of the stages a loop drives. -/
def State.loopWeights (s : State) (l : Nat) : List Nat := (s.loopStages l).map s.laneW
/-- The sum W of R64, in 1/512. -/
def State.wSum (s : State) (l : Nat) : Nat := (s.loopWeights l).foldl (· + ·) 0

/-- A declared limit in amperes: 2⁻¹² A (Table 12-6). -/
def limitA (v : Nat) : Frac := ⟨v, 4096⟩

/-- A string's storage stages with non-zero weight. -/
def State.strActive (s : State) (i : Nat) : Nat := b2n (s.ssW (2 * i) != 0) + b2n (s.ssW (2 * i + 1) != 0)
/-- A string's storage stages in service (R20). -/
def State.strInService (s : State) (i : Nat) : Nat := b2n (!s.ssFenced (2 * i)) + b2n (!s.ssFenced (2 * i + 1))
/-- A string's pulse and continuous current limits in amperes (R20). -/
def State.strCont (s : State) (i : Nat) : Nat := 50 * s.strInService i
/-- The pulse limit; CELL_STEP holds the continuous one (Table 09-6). -/
def State.strPulse (s : State) (i : Nat) : Nat :=
  if h : i < 3 then (if (vget s.chn.strs ⟨i, h⟩).cellStep then s.strCont i else 100 * s.strInService i) else 0
/-- A string's rated current limit at the moment (R472). -/
def State.strRated (s : State) (i : Nat) : Nat :=
  if h : i < 3 then (if 0 < vget s.prf.allow ⟨i, h⟩ then s.strPulse i else s.strCont i) else 0

/-- A string's rated charge limit: its rating, and no more than I_cv while full_charge is 1 (R286). -/
def State.chargeRated (s : State) (i : Nat) : Frac :=
  let a := Frac.ofInt (s.strRated i)
  if h : i < 3 then (if s.flag (Fd.PRF_STR_BAND_full_charge i) then Frac.min a (vget s.est.strs ⟨i, h⟩).icv else a) else a

/-- The per-stage limit of a string's stages: the rated limit times the factor of PRF_STR_FACTOR, over the stages with weight. -/
def State.perStage (s : State) (i : Nat) (dis : Bool) : Frac :=
  let k := if dis then s.get (Fd.PRF_STR_FACTOR_dis_factor i) else s.get (Fd.PRF_STR_FACTOR_chg_factor i)
  (Frac.mul (if dis then Frac.ofInt (s.strRated i) else s.chargeRated i) ⟨k, 32768 * max 1 (s.strActive i)⟩).norm

/-- The least of a list of fractions; 0 for an empty list. -/
def minFrac : List Frac → Frac
  | [] => Frac.zero
  | [a] => a
  | a :: l => Frac.min a (minFrac l)

/-- L4's exact storage limit: the count of storage stages with weight times the least per-stage limit among them. -/
def State.storageLimit (s : State) (dis : Bool) : Frac :=
  let strs := (List.range 3).filter fun i => s.strActive i != 0
  let n := strs.foldl (fun n i => n + s.strActive i) 0
  (Frac.ofInt n).mul (minFrac (strs.map fun i => s.perStage i dis))

/-- The effective clamps of a loop, each rounded once (Table 03-2). -/
def State.clamps (s : State) (l : Nat) : BF24 × BF24 :=
  let ch := (s.getBF (Reg.LPE_LOOP_CLAMP_HI l)).frac
  let cl := (s.getBF (Reg.LPE_LOOP_CLAMP_LO l)).frac
  if l = 4 then
    (roundBF (Frac.min ch (s.storageLimit true)), roundBF (Frac.max cl (s.storageLimit false).neg))
  else
    let sum := Frac.sum (((s.loopStages l).filter fun n => s.laneW n != 0).map fun n => limitA (s.posLimit n))
    (roundBF (Frac.min ch sum), roundBF (Frac.max cl Frac.zero))

/-! ## Measured values and shares -/

/-- A loop's measured value (Table 03-1, R63): the draw of L5 and L6 is channel 15 or 16 times channel 8 over 1000. -/
def State.measured (s : State) (l : Nat) : BF24 :=
  if l < 4 then s.cal l
  else if l = 4 then s.cal 8
  else roundBF (((s.cal (10 + l)).frac.mul (s.cal 8).frac).mul ⟨1, 1000⟩)

/-- The reference a stage receives (R64): 1/W rounded, the product with y rounded, the product with w rounded. 0 where W is 0. -/
def shareOf (y : BF24) (wSum w : Nat) : BF24 × BF24 :=
  if wSum = 0 then (.zero, .zero)
  else
    let rw := roundBF ⟨512, wSum⟩
    let p := roundBF (y.frac.mul rw.frac)
    (roundBF (p.frac.mul ⟨w, 512⟩), rw)

/-- The reference fields of the 26 stages: each loop's output divided among its stages. A stage of no loop receives 0. -/
def State.stageRefs (s : State) : Vector Int 26 :=
  Vector.ofFn fun n : Fin 26 =>
    let l := if n.val < 16 then s.osZone n else if n.val < 22 then 4 else 5 + s.feGroup (n - 22)
    if l < 7 ∧ ¬(n.val < 16 ∧ 4 ≤ l) then refField (shareOf (s.loop l).y (s.wSum l) (s.laneW n)).1 else 0

/-! ## Write-back to registers -/

/-- The status and value registers of a loop after its frame (Table 03-5). -/
def State.loopRegs (s : State) (l : Nat) (x : LoopRt) (k : LoopMarks) : State :=
  let s := s.putBF (Reg.LPE_LOOP_OUT l) x.y
  let s := s.putBF (Reg.LPE_LOOP_RAW l) x.u
  let s := s.putBF (Reg.LPE_LOOP_INTEG l) (if x.split then roundBF x.integ.frac48 else .zero)
  let s := if x.x.m ≠ 0 then s.bump (Fd.LPE_LOOP_STAT_lim_frames l) else s
  let s := s.setFlag (Fd.LPE_LOOP_STAT_rate_act l) k.rateAct
  let s := s.setFlag (Fd.LPE_LOOP_STAT_hi_act l) k.hiAct
  let s := s.setFlag (Fd.LPE_LOOP_STAT_lo_act l) k.loAct
  let s := if k.preset then s.setFlag (Fd.LPE_LOOP_STAT_set_switched l) true else s
  let s := if k.sat then (s.setFlag (Fd.LPE_LOOP_STAT_acc_sat l) true).record Blk.lpe 0x15 0 0 else s
  if k.ovf then (s.setFlag (Fd.LPE_LOOP_STAT_exp_ovf l) true).record Blk.lpe 0x14 0 0 else s

/-- A loop's set-point (Table 03-1): the ramp's for L0 to L4; for L5 and L6 the group's share of the profile in AUTO and the manual
value in MANUAL (R85, R96). -/
def State.setPoint (s : State) (l : Nat) (manual : Bool) : BF24 :=
  if l < 5 then s.getBF (Reg.LPE_RAMP_SETPT l)
  else if manual then s.getBF (Reg.LPE_LOOP_MANUAL l)
  else vget s.lpe.gridRef ⟨(l - 5) % 2, Nat.mod_lt _ (by decide)⟩

/-- Is a loop computed as enabled in the frame: its enable bit, and for L0 to L4 its ramp running (R111), for L5 and L6 no grid loss
(R470)? -/
def State.loopOn (s : State) (l : Nat) : Bool :=
  s.flag (Fd.LPE_LOOP_CTRL_enable l) &&
    (if l < 5 then s.flag (Fd.LPE_RAMP_STAT_running l) else s.get Fd.PRF_GRID_STAT_state != 2)

/-- One loop of the frame, with its registers (Table 03-7, cycles 380 to 529). A change from AUTO to MANUAL sets the manual value
first, unless it was written in the same frame (R86, R88). -/
def State.runLoop (s : State) (l : Nat) (f : BF24) : State :=
  let x := s.loop l
  let manual := decide (5 ≤ l) && s.flag (Fd.LPE_LOOP_CTRL_manual l)
  let s := if manual && x.enabled && !x.manual && !x.manWritten then
      s.putBF (Reg.LPE_LOOP_MANUAL l) (roundBF ((x.y.frac.mul (s.cal 8).frac).mul ⟨1, 1000⟩))
    else s
  let set := s.get (Fd.LPE_LOOP_CTRL_active_set l)
  let c := s.clamps l
  let f := if s.flag (Fd.LPE_LOOP_CTRL_ff_en l) && decide (l < 5) then f else .zero
  let i : LoopIn :=
    { r := s.setPoint l manual, m := s.measured l, f := f, hi := c.1, lo := c.2, rate := s.getBF (Reg.LPE_LOOP_RATE l)
      vlink := s.cal 8, pman := s.getBF (Reg.LPE_LOOP_MANUAL l), manual := manual, enabled := s.loopOn l, set := set
      cs := s.coefSet l set }
  let o := loopStep l x i
  -- the counts other chapters take from the loop: the L4 droop condition (Table 06-4) and the largest outputs of 256 frames (R133)
  let lim := (s.getBF (Reg.LPE_FOLLOW_LIMIT l)).frac
  let errHigh := (lim.scale (-1)).lt o.1.e.frac
  let ws := s.loopWeights l
  let x' := { o.1 with
    hiErrFrames := if o.2.hiAct && errHigh then x.hiErrFrames + 1 else 0
    yHist := (o.1.y :: x.yHist).take 256
    wStable := if ws == x.wPrev then x.wStable + 1 else 0
    wPrev := ws
    rw := (shareOf o.1.y (s.wSum l) 512).2 }
  (s.setLoop l x').loopRegs l x' o.2

end Sys2Proof.Machine
end

