-- ==== Sys2Proof/Machine/Profile.lean ====
section
/-! DEFINITION. The profile generator (chapter 04, R96 to R110): target, step, fallback, state-of-charge correction, band factors and
the honey reserve; and the site events that steer it (chapter 17): grid state, pulse allowance, ride and coolant. -/

namespace Sys2Proof.Machine

/-- A next state of the module, in the form of the host's outcome. -/
abbrev Out := Host.Outcome State Fault Refusal

/-! ## Groups (R96, R102) -/

/-- The latched code of a channel in the frame's input set. -/
def State.code (s : State) (c : Nat) : Int := if h : c < 24 then vget s.input.sense ⟨c, h⟩ else 0
/-- A channel's calibrated value from the frame's input set (R484). -/
def State.senseNow (s : State) (c : Nat) : BF24 :=
  calibrate (s.getBF (Reg.LPE_SNS_GAIN c)) (s.getBF (Reg.LPE_SNS_ADD c)) (bit (s.get Fd.LPE_SNS_ABSENT_absent) c) (s.code c)

/-- Is a grid group in AUTO (R96)? -/
def State.groupAuto (s : State) (g : Nat) : Bool :=
  s.flag (Fd.LPE_LOOP_CTRL_enable (5 + g)) && !s.flag (Fd.LPE_LOOP_CTRL_manual (5 + g))
/-- Is a grid group in MANUAL (R96)? -/
def State.groupManual (s : State) (g : Nat) : Bool :=
  s.flag (Fd.LPE_LOOP_CTRL_enable (5 + g)) && s.flag (Fd.LPE_LOOP_CTRL_manual (5 + g))
/-- N_g: the declared front-end stages of a group that are not fenced (R96). -/
def State.groupN (s : State) (g : Nat) : Nat :=
  ((List.range 4).filter fun k => s.feDecl k && s.feGroup k == g && !s.feFenced k).length
/-- φ_g, exactly (R96). -/
def State.phi (s : State) (g : Nat) : Frac :=
  let sum := (if s.groupAuto 0 then s.groupN 0 else 0) + (if s.groupAuto 1 then s.groupN 1 else 0)
  if s.groupAuto g && sum != 0 then ⟨s.groupN g, sum⟩ else Frac.zero

/-- A position, velocity or acceleration as the generator holds it: a 48-bit mantissa, rounded as R67 lays down (R104). -/
def heldW (q : Frac) : Flt := (roundInteg q).1

/-- The registers that show the generator (Table 04-3). -/
def State.prfRegs (s : State) : State :=
  ((((s.putBF Reg.PRF_POS (roundBF s.prf.p.frac48)).putBF Reg.PRF_VELO (roundBF s.prf.v.frac48)).putBF Reg.PRF_ACCEL
    (roundBF s.prf.a.frac48)).putBF Reg.PRF_TARGET (roundBF s.prf.pTgt.frac48)).putBF Reg.PRF_SOC_CORR (roundBF s.prf.pSoc.frac48)

/-- Apply a function to p_k, p_(k+1) and p (R102). -/
def State.movePos (s : State) (f : Flt → Flt) : State :=
  { s with prf := { s.prf with p := f s.prf.p, pk := f s.prf.pk, pk1 := f s.prf.pk1 } }

/-- A group's change of mode, in the frame in which it takes effect (R102): entering AUTO adds its draw of the last frame, leaving
it multiplies by 1 − φ of the last frame. -/
def State.groupMode (s : State) (g : Fin 2) : State :=
  let now := s.groupAuto g
  let was := vget s.prf.auto g
  let s := if now && !was then s.movePos fun x => heldW (x.frac48.add (vget s.prf.drawPrev g).frac)
    else if !now && was then s.movePos fun x => heldW (x.frac48.mul ((Frac.ofInt 1).sub (vget s.prf.phi g)))
    else s
  { s with prf := { s.prf with auto := vset s.prf.auto g now } }

/-- The changes of mode of both groups; with no group in AUTO the generator holds 0 and is inactive (R102). -/
def State.groupModes (s : State) : State :=
  let s := (s.groupMode 0).groupMode 1
  let any := s.groupAuto 0 || s.groupAuto 1
  let s := s.setFlag Fd.PRF_STAT_active any
  if any then s
  else { s with prf := { s.prf with p := .wzero, v := .wzero, a := .wzero, pk := .wzero, pk1 := .wzero } }.prfRegs

/-! ## Target (R97, R98) -/

/-- The measured zone power Σ V_z × I_z, in kilowatts, exactly. -/
def State.zonePower (s : State) (z : Nat) : Frac := (((s.cal z).frac.mul (s.cal (4 + z)).frac).mul ⟨1, 1000⟩).norm
/-- The sum of the measured zone powers. -/
def State.loadPower (s : State) : Frac := (Frac.sum ((List.range 4).map s.zonePower)).norm

/-- The sum of the values of a BF16 block. -/
def blockSum (b : ArrBlock) : Frac := (Frac.ofInt (b.ms.foldl (· + ·) 0)).scale (b.e - 15)

/-- P_base from the committed FORECAST values: the sum over the declared zones of each zone's mean, rounded once (R97). -/
def State.forecastBase (s : State) : Flt :=
  roundW (Frac.sum ((List.finRange 4).map fun (z : Fin 4) =>
    if s.zoneDecl z then ((Frac.sum ((vget s.prf.fcast z).map blockSum)).mul ⟨1, 256⟩).norm else Frac.zero))

/-- The measured mean of R98 over the frames the generator holds. Over no frame at all the manual states none: a free value. -/
def State.meanBase (s : State) : Flt :=
  let n := s.prf.meanFrames.foldl (· + ·) s.prf.curFrames
  if n = 0 then wofBF (BF24.ofWord (Config.freeWord s.free))
  else roundW ((s.prf.meanSums.foldl (fun a b => (a.add b).norm) s.prf.curSum).mul ⟨1, n⟩)

/-- P_base of the step (R97, R98). -/
def State.pBase (s : State) : Flt :=
  if s.flag Fd.PRF_STAT_fallback then s.meanBase
  else match s.prf.pBase with
    | some b => b
    | none => s.meanBase

/-- P_cap (R97): the products rounded one by one, their sum, then kilowatts; the lesser of it and PRF_DRAW_MAX where that is not 0. -/
def State.pCap (s : State) : Flt :=
  let v := wofBF (s.senseNow 8)
  let sum := (List.range 4).foldl (fun acc k =>
    if s.feDecl k && !s.feFenced k then wadd acc (wmul (roundW (limitA (s.posLimit (22 + k)))) v) else acc) Flt.wzero
  let cap := wdiv sum (wconst 1000 1)
  let mx := s.getBF Reg.PRF_DRAW_MAX
  if mx.m = 0 then cap else wmin cap (wofBF mx)

/-- P_man (R97). -/
def State.pMan (s : State) : Flt :=
  [0, 1].foldl (fun acc g => if s.groupManual g then wadd acc (wofBF (s.getBF (Reg.LPE_LOOP_MANUAL (5 + g)))) else acc) Flt.wzero

/-- P_tgt, floored at 0 (R97). -/
def State.pTarget (s : State) : Flt :=
  let up := wadd (wdiv s.pBase (wofBF (s.getBF Reg.PRF_ETA_OUT))) s.prf.pSoc
  wmax Flt.wzero (wsub (wmin up s.pCap) s.pMan)

/-! ## Step (R100, R104) -/

/-- The sign of a value times another. -/
def wsigned (sgn x : Flt) : Flt := if sgn.m < 0 then wneg x else if sgn.m = 0 then Flt.wzero else x

/-- brake_speed of R100. -/
def brakeSpeed (amax jmax dist : Flt) : Flt :=
  let a2 := wmul amax amax
  let a3 := wmul a2 amax
  let j2 := wmul jmax jmax
  if wle (wdiv a3 j2) dist then
    wadd (wdiv (wneg a2) (wmul (wconst 2 1) jmax))
      (rootW 2 (wadd (wdiv (wmul a3 amax) (wmul (wconst 4 1) j2)) (wmul (wmul (wconst 2 1) amax) dist)))
  else rootW 3 (wmul (wmul dist dist) jmax)

/-- What one step of R100 gives. -/
structure StepOut where
  p : Flt
  v : Flt
  a : Flt
  atTarget : Bool
  deriving DecidableEq, Repr

/-- One step of R100 from position, velocity and acceleration towards a target, every operation rounded to the working format
(R104). -/
def profileStep (vmax amax jmax tgt p v a : Flt) : StepOut :=
  let dt := wconst 1024 1000000
  let d := wsub tgt p
  if wle (wabs d) (wconst 1 100) && wle (wabs v) (wconst 1 10) && wle (wabs a) (wconst 1 1) then
    { p := tgt, v := .wzero, a := .wzero, atTarget := true }
  else
    let vt := wsigned d (wmin vmax (brakeSpeed amax jmax (wabs d)))
    let dv := wsub vt v
    let at' := wsigned dv (wmin amax (rootW 2 (wmul (wmul (wconst 2 1) jmax) (wabs dv))))
    let j := wmax (wneg jmax) (wmin jmax (wdiv (wsub at' a) dt))
    let p' := wadd (wadd (wadd p (wmul v dt)) (wdiv (wmul (wmul a dt) dt) (wconst 2 1)))
      (wdiv (wmul (wmul (wmul j dt) dt) dt) (wconst 6 1))
    let v' := wadd (wadd v (wmul a dt)) (wdiv (wmul (wmul j dt) dt) (wconst 2 1))
    { p := heldW p'.frac48, v := heldW v'.frac48, a := heldW (wadd a (wmul j dt)).frac48, atTarget := false }

/-- Is the grid state SAG or LOSS? -/
def State.gridDown (s : State) : Bool := s.get Fd.PRF_GRID_STAT_state == 1 || s.get Fd.PRF_GRID_STAT_state == 2

/-- The measured draw of the AUTO groups in the previous frame, as the generator holds a position (R470). -/
def State.drawnBefore (s : State) : Flt :=
  heldW (Frac.sum ((List.finRange 2).map fun (g : Fin 2) => if s.groupAuto g then (vget s.prf.drawPrev g).frac else Frac.zero))
/-- The position that R470 sets while the grid is down: the measured draw of the AUTO groups in the previous frame. -/
def State.trackDraw (s : State) : State :=
  { s with prf := { s.prf with p := s.drawnBefore, pk := s.drawnBefore, pk1 := s.drawnBefore, v := .wzero, a := .wzero } }.setFlag
    Fd.PRF_STAT_at_target false
/-- The target of R97, formed and held. -/
def State.formTarget (s : State) : State := { s with prf := { s.prf with pTgt := s.pTarget } }.draw

/-- PROFILE_STEP (R97, R98, R100 to R104, R470): at a forecast-frame boundary the target is formed, and the generator advances by one
step, or follows the measured draw while the grid state is SAG or LOSS. Elsewhere nothing happens. -/
def execProfileStep (s : State) : Out :=
  .next <|
    if !s.fcStart then s else
    let s := s.formTarget
    if !(s.groupAuto 0 || s.groupAuto 1) then s.prfRegs
    else if s.gridDown then s.trackDraw.prfRegs
    else
      let o := profileStep (wofBF (s.getBF Reg.PRF_VEL)) (wofBF (s.getBF Reg.PRF_ACC)) (wofBF (s.getBF Reg.PRF_JERK)) s.prf.pTgt
        s.prf.p s.prf.v s.prf.a
      ({ s with prf := { s.prf with pk := s.prf.p, pk1 := o.p, p := o.p, v := o.v, a := o.a } }.setFlag Fd.PRF_STAT_at_target
        o.atTarget).prfRegs

/-- The set-points of L5 and L6 for the frame (R96, R101). -/
def State.gridRefs (s : State) : State :=
  let j := s.fcFrame
  let r := roundBF (wadd s.prf.pk (wdiv (wmul (wsub s.prf.pk1 s.prf.pk) (wconst (j + 1 : Nat) 1)) (wconst 256 1))).frac48
  { s with lpe := { s.lpe with gridRef := Vector.ofFn fun g : Fin 2 => roundBF (r.frac.mul (s.phi g)) } }

/-- FORECAST_FALLBACK (R98): after 64 stale forecast frames, with no forecast committed, or with fc_en 0. -/
def execForecastFallback (s : State) : Out :=
  .next <|
    if decide (64 ≤ s.get Fd.PRF_STAT_stale_count) || s.prf.pBase.isNone || !s.flag Fd.PRF_CTRL_fc_en then
      s.setFlag Fd.PRF_STAT_fallback true
    else s

/-- FALLBACK_EXIT (R98): after 16 fresh forecasts in a row with fc_en 1. -/
def execFallbackExit (s : State) : Out :=
  .next <| if decide (16 ≤ s.prf.freshCount) && s.flag Fd.PRF_CTRL_fc_en then s.setFlag Fd.PRF_STAT_fallback false else s

/-! ## State of charge (R105 to R109) -/

/-- Is a string out of service by a fence? -/
def State.strFenced (s : State) (i : Nat) : Bool := if h : i < 3 then vget s.zfb.strFenced ⟨i, h⟩ else false
/-- A string's reported state of charge in per cent, as R106 takes it. -/
def State.soc (s : State) (i : Nat) : Frac := if h : i < 3 then vget s.prf.soc ⟨i, h⟩ else Frac.zero
/-- Is a string on swing duty for R105 and R107? -/
def State.onSwing (s : State) (i : Nat) : Bool := s.strDecl i && !s.strFenced i && s.get (Fd.ZFB_STR_duty i) == 0

/-- S_sw: the mean of the swing strings' reported states of charge, weighted with their capacities (R105). The mean of strings whose
capacities are all 0 follows R500. -/
def State.socMean (s : State) : Frac :=
  let strs := (List.range 3).filter s.onSwing
  let q := strs.foldl (fun n i => n + s.get (Fd.EST_STR_CAP_cap i)) 0
  let sum := Frac.sum (strs.map fun i => (s.soc i).mul (Frac.ofInt (s.get (Fd.EST_STR_CAP_cap i))))
  if q = 0 then Frac.zero else sum.mul ⟨1, q⟩
/-- P_soc before its rounding (R105). -/
def State.socCorrection (s : State) : Frac :=
  let mx := (s.getBF Reg.PRF_SOC_MAX).frac
  let v := (s.getBF Reg.PRF_SOC_GAIN).frac.mul ((Frac.ofInt 55).sub s.socMean)
  if s.flag Fd.PRF_CTRL_soc_en && (List.range 3).any s.onSwing then Frac.max mx.neg (Frac.min mx v) else Frac.zero
/-- SOC_CORRECTION_UPDATE (R105), at a slow-frame boundary. -/
def execSocCorrectionUpdate (s : State) : Out :=
  .next <| if !s.slowStart then s else { s with prf := { s.prf with pSoc := roundW s.socCorrection } }.prfRegs

/-- P_soc is 0 while soc_en is 0 or no string is on swing duty (R105). -/
def State.socGate (s : State) : State :=
  if s.flag Fd.PRF_CTRL_soc_en && (List.range 3).any s.onSwing then s
  else { s with prf := { s.prf with pSoc := .wzero } }.putBF Reg.PRF_SOC_CORR .zero

/-- A linear edge of Table 04-2: 0 below `a`, 1 from `a + 2` on. -/
def bandRise (x : Frac) (a : Int) : Frac :=
  Frac.max Frac.zero (Frac.min (Frac.ofInt 1) ((x.sub (Frac.ofInt a)).mul ⟨1, 2⟩))

/-- Does a string serve with a factor at all: its model is valid, and its reported value is there and not stale, and no node
of its chain is fenced (R109, R257, R280)? -/
def State.socUsable (s : State) (i : Nat) : Bool :=
  if h : i < 3 then vget s.prf.socValid ⟨i, h⟩ && decide (vget s.prf.sweepsSinceSoc ⟨i, h⟩ ≤ 4) && s.flag (Fd.EST_MODEL_CTRL_valid i)
    && s.get (Fd.CHN_STR_STAT_n_fenced i) == 0
  else false

/-- k_dis of a string (Table 04-2), with the honey reserve open or closed. -/
def State.kDis (s : State) (i : Nat) (isOpen : Bool) : Frac :=
  if !s.socUsable i then Frac.zero
  else if s.flag (Fd.PRF_STR_BAND_full_discharge i) then Frac.ofInt 1
  else bandRise (s.soc i) (if isOpen then 10 else 40)

/-- k_chg of a string (Table 04-2). -/
def State.kChg (s : State) (i : Nat) : Frac :=
  if !s.socUsable i then Frac.zero
  else if s.flag (Fd.PRF_STR_BAND_full_charge i) then Frac.ofInt 1
  else bandRise (s.soc i).neg (-70)

/-- The factors of the frame, × 32 768, rounded down (Table 04-3). -/
def State.bandFactors (s : State) : State :=
  s.each 3 fun i s =>
    let d := ((s.kDis i (s.flag Fd.PRF_STAT_reserve_open)).scale 15).floor.toNat
    let c := ((s.kChg i).scale 15).floor.toNat
    (s.put (Fd.PRF_STR_FACTOR_dis_factor i) d).put (Fd.PRF_STR_FACTOR_chg_factor i) c

/-- The conditions of R107 on the frame as it stands. Expiry of L4 counts as one (Table 04-5). -/
def State.reserveCond (s : State) : Bool :=
  let held := (List.range 2).any fun g => s.groupAuto g && decide (256 ≤ (s.loop (5 + g)).hiFrames)
  let swing := (List.range 3).filter s.onSwing
  let short := wlt s.prf.p s.prf.pTgt && !swing.isEmpty && swing.all fun i => (s.kDis i false).lt (Frac.ofInt 1)
  s.flag Fd.PRF_GRID_STAT_flag || held || short || !s.flag Fd.PRF_GRID_STAT_fe_service || s.flag Fd.PRF_CTRL_reserve_force
    || s.prf.linkExhaust

/-- The storage stages' weights when the reserve opens: those of RESERVE strings take full weight (R141). -/
def State.reserveWeights (s : State) : Vector Nat 6 :=
  Vector.ofFn fun i : Fin 6 =>
    if s.get (Fd.ZFB_STR_duty (i / 2)) == 1 && s.strDecl (i / 2) && !s.ssFenced i then 512 else vget s.zfb.ssW i
/-- HONEY_RESERVE_OPEN (R107, R141): in the frame after a condition first held. RESERVE strings take full weight at once. -/
def execHoneyReserveOpen (s : State) : Out :=
  .next <|
    if s.prf.resCond && !s.flag Fd.PRF_STAT_reserve_open then
      { s with zfb := { s.zfb with ssW := s.reserveWeights } }.setFlag Fd.PRF_STAT_reserve_open true
    else s

/-- HONEY_RESERVE_CLOSE (R107): at a slow-frame boundary after 1024 forecast frames without a condition. -/
def execHoneyReserveClose (s : State) : Out :=
  .next <|
    if s.slowStart && s.flag Fd.PRF_STAT_reserve_open && decide (1024 ≤ s.prf.quietFc) then s.setFlag Fd.PRF_STAT_reserve_open false
    else s

/-- STRING_SOC_STALE (R109): no update for more than 4 sweeps, once until the next update. -/
def execStringSocStale (i : Fin 3) (s : State) : Out :=
  .next <|
    if s.strDecl i && vget s.prf.socValid i && decide (4 < vget s.prf.sweepsSinceSoc i) && !vget s.prf.staleFault i then
      { s with prf := { s.prf with staleFault := vset s.prf.staleFault i true } }.record Blk.est 0x10 1 (0x700 + i)
    else s

/-- VSTORE_WRITE (R115, R116): the write is stamped here and counts from the next frame. -/
def execVstoreWrite (z : Fin 4) (code : Fin 8) (val : Word) (s : State) : Out :=
  .next <| s.enqueue (plainWrite (Reg.LPE_VSTORE z code) 0xFFFFFFFF val)

/-! ## Pulse allowance (R472) and the powers of R469 -/

/-- The full allowance of a string in units of 2⁻¹² A × 4 µs: (I_pulse − I_cont) × 10 s. -/
def fullAllowance (stages : Nat) : Nat := 50 * stages * 4096 * 2500000

/-- One frame of a string's allowance (R472). -/
def State.allowStep (s : State) (i : Fin 3) : State :=
  let cur : Int := [2 * i.val, 2 * i.val + 1].foldl (fun a k => a + (match s.teleOf (16 + k) with | some t => t.inI | none => 0)) 0
  let n := s.strInService i
  let a := vget s.prf.allow i
  let a := if n = vget s.prf.inService i then a else min a (fullAllowance n)
  let cont := s.strCont i * 4096
  let a := if cont < cur.natAbs then a - (cur.natAbs - cont) else min (fullAllowance n) (a + 40960)
  let s := { s with prf := { s.prf with allow := vset s.prf.allow i a, inService := vset s.prf.inService i n, iStr := vset s.prf.iStr i cur } }
  (s.setFlag (Fd.PRF_STR_PULSE_pulse i) (decide (0 < a))).put (Fd.PRF_STR_PULSE_allowance i) (a / 102400000)

/-- I_dis of a string (R473), in amperes. -/
def State.iDis (s : State) (i : Fin 3) : Nat :=
  if ((vget s.prf.iStr i).natAbs - s.strCont i * 4096) * 250000 ≤ vget s.prf.allow i then s.strPulse i else s.strCont i

/-- P_fe (R469), in kilowatts. -/
def State.pFe (s : State) : Frac :=
  ((((s.getBF Reg.PRF_ETA_OUT).frac.mul (s.cal 8).frac).mul ((s.cal 15).frac.add (s.cal 16).frac)).mul ⟨1, 1000⟩).norm
/-- Does a string enter P_st: declared, not fenced, on SWING or RESERVE (R469)? -/
def State.inPst (s : State) (i : Nat) : Bool := s.strDecl i && !s.strFenced i && decide (s.get (Fd.ZFB_STR_duty i) ≤ 1)
/-- A string's term of P_st without its factor (R469). -/
def State.pStr (s : State) (i : Fin 3) : Frac :=
  if s.inPst i then
    (((((s.getBF Reg.PRF_ETA_OUT).frac.mul (s.getBF Reg.FFW_PP_ETA).frac).mul (s.cal (9 + i)).frac).mul
      (Frac.ofInt (s.iDis i))).mul ⟨1, 1000⟩).norm
  else Frac.zero

/-- Allowances, band factors, the flag of R469, front-end service (R468) and the power sums of R473, in every frame. -/
def State.storagePower (s : State) : State :=
  let s := ((s.allowStep 0).allowStep 1).allowStep 2
  let s := s.bandFactors
  let terms : Vector Frac 3 := Vector.ofFn fun i => s.pStr i
  let pst := Frac.sum ((List.finRange 3).map fun (i : Fin 3) => (vget terms i).mul (s.kDis i true))
  let s := s.setFlag Fd.PRF_GRID_STAT_flag (s.gridDown && (s.pFe.add pst).lt s.loadPower)
  let s := s.setFlag Fd.PRF_GRID_STAT_fe_service
    (s.get Fd.PRF_GRID_STAT_state == 0 && (List.range 4).any fun k => s.feDecl k && !s.feFenced k)
  let c := s.site.cur
  { s with site := { s.site with cur :=
      { fe := (c.fe.add s.pFe).norm, st := Vector.ofFn fun i => ((vget c.st i).add (vget terms i)).norm
        load := (c.load.add s.loadPower).norm, n := c.n + 1 } } }

/-- The value ride of R473, with the sums of the last whole forecast frame, or of the frames so far where there is none. -/
def State.ride (s : State) : Frac :=
  let l := s.site.last
  let c := s.site.cur
  let u : PowSum := if 256 ≤ l.n then l else
    { fe := l.fe.add c.fe, st := Vector.ofFn fun i => (vget l.st i).add (vget c.st i), load := l.load.add c.load, n := l.n + c.n }
  let pst := Frac.sum ((List.finRange 3).map fun (i : Fin 3) => (vget u.st i).mul (s.kDis i true))
  if u.load.le Frac.zero then Frac.ofInt 1
  else Frac.min (Frac.ofInt 1) ((((u.fe.add pst).mul ⟨19, 20⟩).div u.load).norm)

/-! ## Grid state (R467 to R471) -/

/-- The grid counts of the frame (Table 17-1), from channels 17 to 19, with PRF_GRID_ENV. With U_nom = 0 nothing is counted. -/
def State.gridCount (s : State) : State :=
  let us := [s.cal 17, s.cal 18, s.cal 19]
  let u := us.foldl (fun a b => if b.lt a then b else a) (s.cal 17)
  let nom := (s.getBF Reg.PRF_GRID_NOM).frac
  let below (x : BF24) (pct : Nat) : Bool := (x.frac.mul (Frac.ofInt 100)).lt (nom.mul (Frac.ofInt pct))
  let s := s.putBF Reg.PRF_GRID_ENV u
  if nom.isZero then { s with site := { s.site with lossCnt := 0, sagCnt := 0, clearThisFc := false } }
  else
    { s with site := { s.site with
        lossCnt := if below u (s.get Fd.PRF_GRID_THR_loss_pct) then s.site.lossCnt + 1 else 0
        sagCnt := if below u (s.get Fd.PRF_GRID_THR_sag_pct) then s.site.sagCnt + 1 else 0
        clearThisFc := s.site.clearThisFc && us.all fun x => !below x (s.get Fd.PRF_GRID_THR_clear_pct) } }

/-- The state's own field, and a new count of clear forecast frames. -/
def State.markGrid (s : State) (st : Nat) : State :=
  { s with site := { s.site with clearFc := 0, clearThisFc := false } }.put Fd.PRF_GRID_STAT_state st
/-- An entry to SAG or LOSS is counted, and the profile follows the measured draw from there (R470). -/
def State.followGrid (s : State) : State :=
  if s.groupAuto 0 || s.groupAuto 1 then s.trackDraw.prfRegs else s.setFlag Fd.PRF_STAT_at_target false
/-- Enter a grid state. -/
def State.setGrid (s : State) (st : Nat) : State :=
  if st == 1 || st == 2 then ((s.markGrid st).bump Fd.PRF_GRID_STAT_events).followGrid else s.markGrid st

/-- GRID_LOSS (R467): from NORMAL, SAG or RETURN, after `entry` frames below the loss level. L5 and L6 are idle in LOSS (R470). -/
def execGridLoss (s : State) : Out :=
  .next <| if s.site.lossDue && s.get Fd.PRF_GRID_STAT_state != 2 then s.setGrid 2 else s

/-- GRID_SAG (R467): from NORMAL or RETURN, where the loss condition does not hold too. -/
def execGridSag (s : State) : Out :=
  .next <|
    if s.site.sagDue && !s.site.lossDue && (s.get Fd.PRF_GRID_STAT_state == 0 || s.get Fd.PRF_GRID_STAT_state == 3) then s.setGrid 1
    else s

/-- GRID_SAG_CLEAR (R467): from SAG, after `sag_clear` clear forecast frames. -/
def execGridSagClear (s : State) : Out :=
  .next <|
    if s.get Fd.PRF_GRID_STAT_state == 1 && decide (s.get Fd.PRF_GRID_HOLD_sag_clear ≤ s.site.clearFc) then s.setGrid 0 else s

/-- GRID_RETURN (R467, R470): from LOSS, after `return_hold` clear forecast frames. -/
def execGridReturn (s : State) : Out :=
  .next <|
    if s.get Fd.PRF_GRID_STAT_state == 2 && decide (s.get Fd.PRF_GRID_HOLD_return_hold ≤ s.site.clearFc) then s.setGrid 3 else s

/-- GRID_NORMAL (R467): from RETURN at a forecast-frame boundary, with the profile at its target, or with no group in AUTO and no rate
limit acting in the forecast frame just ended. -/
def execGridNormal (s : State) : Out :=
  .next <|
    let auto := s.groupAuto 0 || s.groupAuto 1
    if s.get Fd.PRF_GRID_STAT_state == 3 && s.fcStart && (if auto then s.flag Fd.PRF_STAT_at_target else s.site.ratePrev)
    then s.setGrid 0 else s

/-! ## Coolant (R474) -/

/-- Count a flow pulse: channel 22 above its midpoint, 1.024 V, after a frame in which it was not (R474). -/
def State.flowPulse (s : State) : State :=
  let high := (⟨128, 125⟩ : Frac).lt (s.cal 22).frac
  { s with site := { s.site with ch22High := high, pulses := s.site.pulses + b2n (high && !s.site.ch22High) } }

/-- Is a coolant temperature above its limit, which counts eighths of a degree (Table 17-4)? -/
def State.coolHot (s : State) (c lim : Nat) : Bool :=
  ((Frac.ofInt lim).mul ⟨1, 8⟩).lt ((s.senseNow c).frac.sub ⟨27315, 100⟩)
/-- COOLANT_UPDATE (R474), at a slow-frame boundary: flow in 0.1 L/min from the pulses of the slow frame just ended, and the
temperatures of channels 20 and 21 against their limits. -/
def execCoolantUpdate (s : State) : Out :=
  .next <|
    if !s.slowStart then s else
    let n := s.site.pulsesLast
    let den := max 1 (s.get Fd.PRF_COOL_CTRL_ppl) * 1048576
    ((((s.put Fd.PRF_COOL_STAT_flow (min 65535 (n * 600000000 / den))).setFlag Fd.PRF_COOL_STAT_out_hot
      (s.coolHot 21 (s.get Fd.PRF_COOL_LIM_out_max))).setFlag Fd.PRF_COOL_STAT_in_hot
      (s.coolHot 20 (s.get Fd.PRF_COOL_LIM_in_max))).setFlag Fd.PRF_COOL_STAT_flow_low
      (decide (n * 600000000 < s.get Fd.PRF_COOL_CTRL_flow_min * den))).setFlag Fd.PRF_COOL_STAT_flow_lost (n == 0)

/-! ## Ticks -/

/-- What the generator and the site logic do at the start of a forecast frame: take or miss the forecast (R98), close the mean's
forecast frame, count quiet and clear forecast frames, and close the power sums. -/
def State.profileTick (s : State) : State :=
  let fresh := s.prf.fcFresh
  let s := s.put Fd.PRF_STAT_stale_count (if fresh then 0 else min 65535 (s.get Fd.PRF_STAT_stale_count + 1))
  let p := s.prf
  { s with
    prf := { p with
      pBase := if fresh then some s.forecastBase else p.pBase
      freshCount := if fresh && s.flag Fd.PRF_CTRL_fc_en then p.freshCount + 1 else 0
      fcFresh := false
      meanSums := if p.curFrames = 0 then p.meanSums else (p.curSum :: p.meanSums).take 256
      meanFrames := if p.curFrames = 0 then p.meanFrames else (p.curFrames :: p.meanFrames).take 256
      curSum := ⟨0, 1⟩, curFrames := 0
      quietFc := if p.condThisFc then 0 else p.quietFc + 1
      condThisFc := false }
    site := { s.site with
      clearFc := if s.site.clearThisFc then s.site.clearFc + 1 else 0
      clearThisFc := true, ratePrev := s.site.rateQuiet, rateQuiet := true
      last := if 256 ≤ s.site.cur.n ∨ s.site.last.n = 0 then s.site.cur else
        if 256 ≤ s.site.last.n then s.site.cur else
        { fe := s.site.last.fe.add s.site.cur.fe, st := Vector.ofFn fun i => (vget s.site.last.st i).add (vget s.site.cur.st i)
          load := s.site.last.load.add s.site.cur.load, n := min 255 (s.site.last.n + s.site.cur.n) }
      cur := .zero } }

/-- What the strings' reported values do at the start of a sweep (R106, R109). -/
def State.socTick (s : State) : State :=
  let p := s.prf
  { s with prf := { p with
      soc := Vector.ofFn fun i => (match vget p.socIn i with | some x => x | none => vget p.soc i)
      socValid := Vector.ofFn fun i => vget p.socValid i || (vget p.socIn i).isSome
      sweepsSinceSoc := Vector.ofFn fun i => if (vget p.socIn i).isSome then 0 else vget p.sweepsSinceSoc i + 1
      staleFault := Vector.ofFn fun i => vget p.staleFault i && (vget p.socIn i).isNone
      socIn := vall 3 none } }

/-- What the site logic does at the start of a frame: the counts of Table 17-1 that reached their limit in the frame before (R15),
and at a slow-frame boundary the pulses of the slow frame just ended. -/
def State.siteTick (s : State) : State :=
  let n := s.get Fd.PRF_GRID_HOLD_entry
  let s := { s with site := { s.site with lossDue := decide (n ≤ s.site.lossCnt), sagDue := decide (n ≤ s.site.sagCnt) } }
  if s.slowStart then { s with site := { s.site with pulsesLast := s.site.pulses, pulses := 0 } } else s

/-- What the generator keeps from the frame, after the loops have run: the sums of R98, the conditions of R107, φ and the draws of the
frame (R102). -/
def State.profileEnd (s : State) : State :=
  let c := s.reserveCond
  { s with
    prf := { s.prf with
      curSum := (s.prf.curSum.add s.loadPower).norm, curFrames := s.prf.curFrames + 1
      resCond := c, condThisFc := s.prf.condThisFc || c
      phi := Vector.ofFn fun g : Fin 2 => s.phi g
      drawPrev := Vector.ofFn fun g : Fin 2 => s.measured (5 + g) }
    site := { s.site with
      rateQuiet := s.site.rateQuiet && !s.flag (Fd.LPE_LOOP_STAT_rate_act 5) && !s.flag (Fd.LPE_LOOP_STAT_rate_act 6) } }

end Sys2Proof.Machine
end

