-- ==== Sys2Proof/Machine/ZoneFabric.lean ====
section
/-! DEFINITION. The zone fabric (chapter 05): the states of an output stage and their advance (R129 to R139, R501), go and abort,
string duty and weights (R131, R140, R141), the current check (R144), capacity (R147), shedding (R149, R150), job groups (R154),
VSEL and PGOOD (R156 to R159). The decisions of a frame stand in the order of R125. -/

namespace Sys2Proof.Machine

/-! ## What the telemetry of a stage says -/

/-- Has a stage's input |I| ≤ ZFB_ZERO_I? A stage that has never reported counts as zero. -/
def State.zeroI (s : State) (k : Nat) : Bool :=
  match s.teleOf k with
  | none => true
  | some t => (limitA t.outI.natAbs).le (s.getBF Reg.ZFB_ZERO_I).frac

/-- The switch state a stage last reported. -/
def State.swOf (s : State) (k : Nat) : SwState :=
  match s.teleOf k with
  | none => .opened
  | some t => t.sw

/-- The output voltage of a stage's input, 1/64 V. -/
def State.outV (s : State) (k : Nat) : Nat :=
  match s.teleOf k with
  | none => 0
  | some t => t.outV

/-- A zone's voltage latched in the frame. -/
def State.zoneV (s : State) (z : Nat) : Frac := (s.cal z).frac

/-- A voltage as the vpre field carries it (Table 12-4): 1/64 V. -/
def vpreField (q : Frac) : Nat := (clampInt 0 65535 (q.scale 6).round).toNat

/-! ## Points of an output stage's sequence -/

/-- The stages that are in the batch, as busy_mask shows them. -/
def State.busyMask (s : State) : Nat :=
  (List.finRange 16).foldl (fun m (k : Fin 16) => m + (if (s.os k).inBatch then 2 ^ k.val else 0)) 0
/-- The batch has ended. -/
def State.endBatch (s : State) : State := { s with zfb := { s.zfb with batchOn := false } }.setFlag Fd.ZFB_COMB_STAT_batch_done true
/-- busy_mask and the end of the batch (R135). -/
def State.syncBatch (s : State) : State :=
  if s.zfb.batchOn && s.busyMask == 0 then (s.put Fd.ZFB_COMB_STAT_busy_mask s.busyMask).endBatch
  else s.put Fd.ZFB_COMB_STAT_busy_mask s.busyMask

/-- A stage ends its sequence in a state. -/
def State.endOs (s : State) (k : Fin 16) (st w : Nat) : State :=
  let o := s.os k
  (s.putOs k st w).setOs k { OsRt.reset with swSeen := o.swSeen, openCmd := o.openCmd, dst := o.dst, src := o.src }

/-- A stage becomes PARKED. -/
def State.parkOs (s : State) (k : Fin 16) : State := (s.put (Fd.ZFB_OS_zone k) 4).endOs k 0 0

/-- A stage starts PRECHARGE towards a zone. -/
def State.startPre (s : State) (k : Fin 16) (z : Nat) : State :=
  (s.putOs k 4 0).setOs k { s.os k with step := .pre, j := 0, dst := z, openCmd := true }

/-- A stage whose switch is confirmed open, outside a batch, proceeds by its binding (R139, R501). -/
def State.settleOs (s : State) (k : Fin 16) : State :=
  let z := s.osZone k
  if 4 ≤ z then s.parkOs k
  else if s.zoneFenced z then (s.putOs k 0xB 0).setOs k { s.os k with step := .none, j := 0, heldAfter := false, clearReq := false }
  else (s.setOs k { s.os k with heldAfter := false, clearReq := false, src := 4 }).startPre k z

/-- The open of a stage is confirmed: it parks (R136, R138), stays bound (R139, R501), or dwells as the batch's source zone is left
(Table 05-3). -/
def State.opened (s : State) (k : Fin 16) : State :=
  let o := s.os k
  if o.parkAfter then s.parkOs k
  else if o.heldAfter then s.settleOs k
  else (s.put (Fd.ZFB_OS_zone k) 4).setOs k { o with step := .openDwell, j := 1 }

/-- One frame of one stage's sequence (Table 05-2, Table 05-3). A point whose limit has run out stands until its command comes. -/
def State.advanceOs (s : State) (k : Fin 16) : State :=
  let o := s.os k
  let w := s.osWeight k
  let tick := { o with j := o.j + 1 }
  match s.osState k with
  | 0 => s.setOs k { o with openCmd := s.swOf k == .opened || s.zeroI k || (s.swOf k != .closed && o.openCmd) }
  | 2 | 7 => (s.put (Fd.ZFB_OS_weight k) (w - 8)).setOs k tick
  | 6 | 9 => (s.put (Fd.ZFB_OS_weight k) (min 512 (w + 8))).setOs k tick
  | 3 =>
    match o.step with
    | .zeroWait =>
      if !o.clearReq && decide (16 ≤ o.j) then s
      else if s.zeroI k then s.setOs k { o with openCmd := true, step := .openSent, j := 0 }
      else s.setOs k tick
    | .openSent =>
      if 16 ≤ o.j then s
      else if s.swOf k == .opened then s.opened k
      else s.setOs k tick
    | _ => s.setOs k tick
  | 4 =>
    let vd := s.zoneV o.dst
    match o.step with
    | .pre =>
      if 128 ≤ o.j then s else
      let v0 := if o.j = 0 then s.outV k else o.v0
      let v0q : Frac := ⟨v0, 64⟩
      let v := v0q.add ((vd.sub v0q).mul ⟨(o.j + 1 : Nat), 128⟩)
      s.setOs k { tick with v0 := v0, vpre := vpreField v }
    | _ =>
      if 64 ≤ o.j then s
      else if (((⟨s.outV k, 64⟩ : Frac).sub vd).abs).le (s.getBF Reg.ZFB_MATCH_WIN).frac then
        (s.put (Fd.ZFB_OS_state k) 5).setOs k { o with openCmd := false, step := .closeSent, j := 0, vpre := vpreField vd }
      else s.setOs k { tick with vpre := vpreField vd }
  | 5 =>
    match o.step with
    | .closeSent =>
      if 16 ≤ o.j then s
      else if s.swOf k == .closed then
        (s.put (Fd.ZFB_OS_zone k) o.dst).setOs k { o with step := .closeDwell, j := 1, vpre := 0 }
      else s.setOs k { tick with vpre := vpreField (s.zoneV o.dst) }
    | _ => s.setOs k tick
  | 0xA =>
    let w' := w - 8
    (s.put (Fd.ZFB_OS_weight k) w').setOs k { o with openCmd := o.openCmd || (w' == 0 && s.zeroI k) }
  | _ => s

/-- A stage that came from a fence is ACTIVE again: cap_limited of its zone clears (R147). -/
def State.activeOs (s : State) (k : Fin 16) : State :=
  let z := s.osZone k
  let s := if (s.os k).homeAfter && decide (z < 4) then s.setFlag (Fd.ZFB_ZONE_STAT_cap_limited z) false else s
  s.endOs k 1 512

/-- The end of a ramp, of a dwell or of the pre-charge of stage `k` (Table 05-2, Table 05-3, R149, R150); the stage as it is where its
phase has not ended. -/
def State.phaseEnd (s : State) (k : Fin 16) : State :=
  let o := s.os k
  let st := s.osState k
  let w := s.osWeight k
  if st = 2 ∧ w = 0 ∧ 1 ≤ o.j then (s.putOs k 3 0).setOs k { o with step := .zeroWait, j := 0 }
  else if st = 3 ∧ o.step = .openDwell ∧ 16 ≤ o.j then
    (if 4 ≤ o.dst ∨ s.zoneFenced o.dst = true then s.parkOs k else s.startPre k o.dst)
  else if st = 4 ∧ o.step = .pre ∧ 128 ≤ o.j then s.setOs k { o with step := .matching, j := 0 }
  else if st = 5 ∧ o.step = .closeDwell ∧ 16 ≤ o.j then (s.putOs k 6 0).setOs k { o with step := .none, j := 0 }
  else if (st = 6 ∨ st = 9) ∧ w = 512 ∧ 1 ≤ o.j then s.activeOs k
  else if st = 7 ∧ w = 0 ∧ 1 ≤ o.j then (s.putOs k 8 0).setOs k { o with step := .none, j := 0 }
  else s
/-- SEQUENCE_PHASE_END (R134, R149, R150): a ramp, a dwell or the pre-charge of stage `k` has run its frames, and the stage enters
its next phase in this frame. A phase that has not ended goes on. -/
def execSequencePhaseEnd (k : Fin 16) (s : State) : Out := .next (s.phaseEnd k).syncBatch

/-- A stage of the ZFB block is fenced with a record (R134, R144). -/
def State.failOs (s : State) (k : Fin 16) (cause code : Nat) : State :=
  ((s.fenceOs k cause).record Blk.zfb code 2 (0x100 + k)).syncBatch

/-- ZERO_I_TIMEOUT (R134): the switch stays closed and the binding is kept. -/
def execZeroITimeout (k : Fin 16) (s : State) : Out :=
  .next <|
    let o := s.os k
    if s.osState k == 3 && o.step == .zeroWait && !o.clearReq && decide (16 ≤ o.j) then s.failOs k 3 0x12 else s

/-- SWITCH_CONFIRM_TIMEOUT (R134, R139): after an unconfirmed open the binding stays; after an unconfirmed close OPEN is sent, and the
binding to the destination is recorded. -/
def execSwitchConfirmTimeout (k : Fin 16) (s : State) : Out :=
  .next <|
    let o := s.os k
    if o.step == .openSent && s.osState k == 3 && decide (16 ≤ o.j) then s.failOs k 4 0x13
    else if o.step == .closeSent && s.osState k == 5 && decide (16 ≤ o.j) then
      let s := (s.put (Fd.ZFB_OS_zone k) o.dst).setOs k { o with openCmd := true }
      s.failOs k 4 0x13
    else s

/-- PRECHARGE_MATCH_TIMEOUT (R134): the stage is fenced, and parked. -/
def execPrechargeMatchTimeout (k : Fin 16) (s : State) : Out :=
  .next <|
    let o := s.os k
    if s.osState k == 4 && o.step == .matching && decide (64 ≤ o.j) then (s.put (Fd.ZFB_OS_zone k) 4).failOs k 5 0x14 else s

/-! ## go and abort (R133, R136) -/

/-- The requested binding of a stage. -/
def State.nextZone (s : State) (k : Nat) : Nat := s.get (Fd.ZFB_OS_next_zone k)
/-- The stages that a go would move. -/
def State.batchOf (s : State) : List (Fin 16) :=
  (List.finRange 16).filter fun (k : Fin 16) => s.osDecl k && s.nextZone k != s.osZone k
/-- batch_size as it acts (Table 05-1). -/
def State.batchSize (s : State) : Nat := max 1 (min 8 (s.get Fd.ZFB_COMB_CTRL_batch_size))
/-- Is a zone's loop enabled, and the zone not fenced? -/
def State.zoneLive (s : State) (z : Nat) : Bool := s.flag (Fd.LPE_LOOP_CTRL_enable z) && !s.zoneFenced z
/-- Is a stage in a sequence outside a batch: returning from a fence, or opening for one (R139, R501)? -/
def State.inSequence (s : State) (k : Nat) : Bool := decide (2 ≤ s.osState k ∧ s.osState k ≤ 6)
/-- The largest output of a zone's loop in the last 256 frames. -/
def State.maxOut (s : State) (z : Nat) : Frac := (s.loop z).yHist.foldl (fun a y => Frac.max a y.frac) Frac.zero

/-- The cause for which a go is refused, the lowest code of Table 05-5; 0 where it is admitted. A stage of the batch that is still in a sequence
from a fence counts as busy, and so does a PARKED one whose switch is not confirmed open, which cannot be bound yet (R128). -/
def State.goCause (s : State) : Nat :=
  let b := s.batchOf
  let reach (k : Fin 16) : Bool :=
    let z := s.nextZone k
    decide (4 ≤ z) || (bit (s.get (Fd.ZFB_OS_reach k)) z && s.zoneDecl z)
  let stays (k : Fin 16) (z : Nat) : Bool :=
    s.osZone k == z && (s.nextZone k == z || !s.osDecl k) && (s.osState k == 1 || s.osState k == 8)
  let capShort (z : Nat) : Bool :=
    s.zoneLive z && (b.any fun k => s.osZone k == z) &&
      (Frac.sum (((List.finRange 16).filter fun k => stays k z).map fun k => limitA (s.posLimit k.val))).lt
        ((s.maxOut z).mul ⟨11, 10⟩)
  let empty (z : Nat) : Bool :=
    s.zoneLive z && (b.any fun k => s.osZone k == z) &&
      !((List.finRange 16).any fun k => if b.contains k then s.nextZone k == z else s.osZone k == z)
  if b.any fun k => !reach k then 1
  else if s.batchSize < b.length then 2
  else if s.zfb.batchOn ||
      (b.any fun k => s.inSequence k || s.osState k == 7 || s.osState k == 9 || (s.osState k == 0 && s.swOf k.val != .opened)) then 3
  else if b.any fun k => s.osState k == 0xA || (decide (s.nextZone k < 4) && s.zoneFenced (s.nextZone k)) then 4
  else if (List.range 4).any capShort then 5
  else if (List.range 4).any empty then 6
  else 0

/-- Refuse a go or a duty write (R153). -/
def State.refuse (s : State) (cause : Nat) : State :=
  (s.setFlag Fd.ZFB_COMB_STAT_refused true).put Fd.ZFB_COMB_STAT_refuse_cause cause

/-- Start one stage of a batch. -/
def State.startOs (s : State) (k : Fin 16) : State :=
  let o := { s.os k with inBatch := true, src := s.osZone k, dst := s.nextZone k, j := 0, parkAfter := false, heldAfter := false,
                         homeAfter := false, clearReq := false }
  match s.osState k with
  | 1 => (s.putOs k 2 512).setOs k { o with step := .none }
  | 8 => (s.putOs k 3 0).setOs k { o with step := .zeroWait }
  | 0xB => if 4 ≤ o.dst then (s.setOs k o).parkOs k else ((s.put (Fd.ZFB_OS_zone k) 4).setOs k o).startPre k o.dst
  | _ => (s.setOs k o).startPre k o.dst

/-- Evaluate a go in its frame (R133). -/
def State.doGo (s : State) : State :=
  let b := s.batchOf
  if b.isEmpty then s
  else
    let c := s.goCause
    if c ≠ 0 then s.refuse c
    else
      let s := b.foldl (fun (s : State) k => s.startOs k) s
      { s with zfb := { s.zfb with batchOn := true, batchFrame := s.time.frame } }.syncBatch

/-- An abort on one stage of the running batch (R136). A stage that an earlier abort has turned is left alone. -/
def State.abortOs (s : State) (k : Fin 16) : State :=
  let o := s.os k
  if !o.inBatch || o.parkAfter || (o.src == o.dst) then s
  else match s.osState k, o.step with
    | 2, _ => (s.put (Fd.ZFB_OS_state k) 6).setOs k { o with step := .none, j := 0, dst := o.src }
    | 3, .zeroWait => (s.putOs k 6 0).setOs k { o with step := .none, j := 0, dst := o.src }
    | 3, .openSent => s.setOs k { o with parkAfter := true }
    | 3, _ => s.parkOs k
    | 4, _ => s.parkOs k
    | 5, .closeSent => (s.putOs k 3 0).setOs k { o with step := .zeroWait, j := 0, parkAfter := true }
    | 5, _ => (s.putOs k 2 0).setOs k { o with step := .none, j := 0, parkAfter := true }
    | 6, _ => (s.put (Fd.ZFB_OS_state k) 2).setOs k { o with step := .none, j := 0, parkAfter := true }
    | _, _ => s

/-- Evaluate an abort in its frame (R136); without a running batch it has no effect. -/
def State.doAbort (s : State) : State :=
  if s.zfb.batchOn then
    (((List.finRange 16).foldl (fun (s : State) k => s.abortOs k) s).setFlag Fd.ZFB_COMB_STAT_aborted true).syncBatch
  else s

/-- Step 3 of R125: an abort, or else a go. -/
def State.goAbort (s : State) : State :=
  let s := if s.zfb.abortReq then s.doAbort else if s.zfb.goReq then s.doGo else s
  { s with zfb := { s.zfb with goReq := false, abortReq := false } }

/-- ZFB_GO (R133): the write is stamped here, and evaluated in the next frame. -/
def execZfbGo (s : State) : Out := .next <| s.enqueue (fieldWrite Fd.ZFB_COMB_CTRL_go 1)
/-- ZFB_ABORT (R136). -/
def execZfbAbort (s : State) : Out := .next <| s.enqueue (fieldWrite Fd.ZFB_COMB_CTRL_abort 1)

/-! ## String duty and the weights of storage and front-end stages (R131, R140, R141) -/

/-- NEXT_DUTY_WRITE (R141). -/
def execNextDutyWrite (i : Fin 3) (duty : Fin 4) (s : State) : Out :=
  .next <| s.enqueue (fieldWrite (Fd.ZFB_STR_next_duty i) duty)

/-- Step 2 of R125: the duties that the frame's writes request. -/
def State.duties (s : State) : State :=
  let s := (List.finRange 3).foldl (fun (s : State) (i : Fin 3) =>
    match vget s.zfb.dutyReq i with
    | none => s
    | some d => if s.strDecl i then s.put (Fd.ZFB_STR_duty i) d else s) s
  { s with zfb := { s.zfb with dutyReq := vall 3 none } }

/-- A weight one frame nearer to its goal, by 8. -/
def towards (w goal : Nat) : Nat := if w < goal then min goal (w + 8) else max goal (w - 8)

/-- The weight a storage stage moves to (R131, R140). -/
def State.ssGoal (s : State) (i : Fin 6) : Nat :=
  let d := s.get (Fd.ZFB_STR_duty (i / 2))
  if vget s.zfb.ssFenced i then 0
  else if !s.strDecl (i / 2) then 0
  else if d == 0 || (d == 1 && s.flag Fd.PRF_STAT_reserve_open) then 512
  else 0

/-- One frame of the storage and front-end weights. An undeclared front-end stage has weight 0. -/
def State.powerWeights (s : State) : State :=
  let ss : Vector Nat 6 := Vector.ofFn fun i => if s.strDecl (i / 2) then towards (vget s.zfb.ssW i) (s.ssGoal i) else 0
  let fe : Vector Nat 4 := Vector.ofFn fun i =>
    if !s.feDecl i then 0 else towards (vget s.zfb.feW i) (if vget s.zfb.feFenced i then 0 else 512)
  let s := { s with zfb := { s.zfb with ssW := ss, feW := fe } }
  (List.finRange 3).foldl (fun (s : State) (i : Fin 3) =>
    let moving (j : Fin 6) : Bool := !vget s.zfb.ssFenced j && vget s.zfb.ssW j != s.ssGoal j
    s.setFlag (Fd.ZFB_STR_ramping i) (moving ⟨2 * i.val, by omega⟩ || moving ⟨2 * i.val + 1, by omega⟩)) s

/-! ## Fences cleared (R139, R501) -/

/-- Clear an output stage's fence (R139). -/
def State.clearOs (s : State) (k : Fin 16) : State :=
  if s.osState k != 0xA then s else
  let o := s.os k
  let s := (s.put (Fd.ZFB_OS_fence_cause k) 0).setOs k { OsRt.reset with swSeen := o.swSeen, openCmd := o.openCmd, homeAfter := true }
  if s.swOf k == .opened then s.settleOs k
  else (s.putOs k 3 0).setOs k { s.os k with step := .zeroWait, j := 0, heldAfter := true, clearReq := true, openCmd := false }

/-- Clear a zone's fence (R501): its HELD stages return. -/
def State.unfenceZone (s : State) (z : Fin 4) : State :=
  if !vget s.zfb.zoneFenced z then s else
  let s := { s with zfb := { s.zfb with zoneFenced := vset s.zfb.zoneFenced z false, retryDue := vset s.zfb.retryDue z false } }
  (List.finRange 16).foldl (fun (s : State) (k : Fin 16) => if s.osZone k == z && s.osState k == 0xB then s.settleOs k else s) s

/-- Clear a storage or front-end stage's fence (R131): its weight rises from its present value. -/
def State.clearSs (s : State) (i : Fin 6) : State := { s with zfb := { s.zfb with ssFenced := vset s.zfb.ssFenced i false } }
def State.clearFe (s : State) (i : Fin 4) : State := { s with zfb := { s.zfb with feFenced := vset s.zfb.feFenced i false } }

/-- ZONE_RETRY (R120): retry_delay forecast frames after the fence, where a retry is left. -/
def execZoneRetry (z : Fin 4) (s : State) : Out :=
  .next <|
    if vget s.zfb.zoneFenced z && vget s.zfb.retryDue z && vget s.zfb.retryLeft z == 0 then
      (s.unfenceZone z).bumpSat (Fd.LPE_FOLLOW_STAT_retries_used z)
    else s

/-- RETRIES_RESET (R120, R499): after a whole slow frame with done set and the error within its limit. -/
def execRetriesReset (z : Fin 4) (s : State) : Out :=
  .next <| if s.slowStart && vget s.zfb.doneWhole z then s.put (Fd.LPE_FOLLOW_STAT_retries_used z) 0 else s

/-! ## The current check (R144) -/

/-- The reference sent to a stage in its last command, 2⁻¹² A. -/
def State.sentRef (s : State) (k : Fin 26) : Int :=
  match vget s.link.cmds k with
  | some c => c.ref
  | none => 0

/-- One frame of a stage's mismatch run. A frame without valid telemetry neither ends nor advances it (R340). -/
def State.mismatchStep (s : State) (k : Fin 16) : State :=
  let o := s.os k
  let z := s.osZone k
  let n := s.get Fd.ZFB_MISMATCH_CTRL_mismatch_frames
  let applies := s.osState k == 1 && decide (z < 4) && decide (16 ≤ (s.loop z).wStable) && n != 0
  let m := if !applies then 0
    else if !s.teleHere k then o.mism
    else match s.teleOf k with
      | none => o.mism
      | some t =>
        if (s.getBF Reg.ZFB_MISMATCH_I).frac.lt (limitA (t.outI - s.sentRef ⟨k.val, by omega⟩).natAbs) then o.mism + 1 else 0
  s.setOs k { o with mism := m }

/-- Have a count's frames all passed before the present one (R15)? `ran` says that the present frame has been counted too. -/
def due (ran : Bool) (n count : Nat) : Bool := decide (n + b2n ran ≤ count)

/-- CURRENT_MISMATCH_FENCE (R144). -/
def execCurrentMismatchFence (k : Fin 16) (s : State) : Out :=
  .next <|
    let n := s.get Fd.ZFB_MISMATCH_CTRL_mismatch_frames
    if n != 0 && due s.lpe.ran n (s.os k).mism && s.osState k == 1 then s.failOs k 1 0x10 else s

/-! ## Capacity and shedding (R147, R149, R150) -/

/-- Continuous capacity of a zone in kilowatts (R147). -/
def State.zoneCap (s : State) (z : Nat) : Frac :=
  ⟨(((List.range 16).filter fun k => s.osZone k == z && s.osState k != 0xA && s.osDecl k).foldl
    (fun n k => n + s.ratingCont k) 0 : Nat), 100⟩

/-- The stages of a zone in a state. -/
def State.countState (s : State) (z st : Nat) : Nat :=
  ((List.range 16).filter fun k => s.osZone k == z && s.osState k == st).length

/-- One frame of the overload count (R147). -/
def State.overloadStep (s : State) (z : Nat) : State :=
  let cap := s.zoneCap z
  let isOver := s.zoneDecl z && cap.lt (s.zonePower z)
  let s := s.putBF (Reg.ZFB_ZONE_CAP z) (roundBF cap)
  let s := s.setFlag (Fd.ZFB_ZONE_STAT_overload z) isOver
  if isOver then s.bumpSat (Fd.ZFB_ZONE_STAT_overload_frames z) else s.put (Fd.ZFB_ZONE_STAT_overload_frames z) 0

/-- CAP_LIMITED (R147): after 500 000 overload frames in one window. -/
def execCapLimited (z : Fin 4) (s : State) : Out :=
  .next <|
    if due s.lpe.ran 500000 (s.get (Fd.ZFB_ZONE_STAT_overload_frames z)) && !s.flag (Fd.ZFB_ZONE_STAT_cap_limited z) then
      (s.setFlag (Fd.ZFB_ZONE_STAT_cap_limited z) true).record Blk.zfb 0x15 1 (0x500 + z)
    else s

/-- The lanes of declared trays on a zone. -/
def State.zoneLanes (s : State) (z : Nat) : List Nat := (List.range 16).filter fun t => s.laneDecl t && s.laneZone t == z

/-- Is a STEP_ARM pending, or accepted in this frame, for a tray of a zone? -/
def State.armPending (s : State) (z : Nat) : Bool := (s.zoneLanes z).any fun t => (s.lane t).arm.isSome
def State.armAccepted (s : State) (z : Nat) : Bool :=
  (s.zoneLanes z).any fun t => match (s.lane t).arm with
    | some a => a.accFrame == s.time.frame
    | none => false

/-- One frame of a zone's shed and add timers, with the restoring of shed stages (R149, R150). -/
def State.shedStep (s : State) (z : Fin 4) : State :=
  let i512 := (s.cal (4 + z)).frac.mul (Frac.ofInt 512)
  let w := s.wSum z
  let en := s.flag (Fd.ZFB_SHED_CTRL_en z)
  let shedThr := (s.getBF (Reg.ZFB_SHED_I z)).frac
  let addThr := (s.getBF (Reg.ZFB_ADD_I z)).frac
  let restore := s.flag (Fd.LPE_LOOP_STAT_hi_act z) || s.armAccepted z
  let s := if restore then s.restoreShed z else s
  let busy := (List.range 16).any fun k => s.osZone k == z &&
    (s.inSequence k || s.osState k == 7 || s.osState k == 9 || (s.osState k == 0xA && s.osWeight k != 0))
  let below := i512.lt (shedThr.mul (Frac.ofInt w))
  let above := (addThr.mul (Frac.ofInt w)).lt i512
  let held := busy || decide (s.countState z 1 ≤ max 1 (s.get (Fd.ZFB_SHED_CTRL_min_active z))) || s.armPending z || restore || !en
  let s := s.put (Fd.ZFB_SHED_STAT_shed_timer z)
    (if held || !below then 0 else min 4194303 (s.get (Fd.ZFB_SHED_STAT_shed_timer z) + 1))
  let adding := decide (0 < s.countState z 9)
  let s := { s with zfb := { s.zfb with addTimer := vmod s.zfb.addTimer z fun n => if adding || !above || !en then 0 else n + 1 } }
  (s.put (Fd.ZFB_SHED_STAT_n_active z) (s.countState z 1)).put (Fd.ZFB_SHED_STAT_n_shed z) (s.countState z 8)

/-- The highest, or lowest, stage of a zone in a state. -/
def State.lastIn (s : State) (z st : Nat) : Option (Fin 16) :=
  ((List.finRange 16).filter fun (k : Fin 16) => s.osZone k == z && s.osState k == st).getLast?
def State.firstIn (s : State) (z st : Nat) : Option (Fin 16) :=
  ((List.finRange 16).filter fun (k : Fin 16) => s.osZone k == z && s.osState k == st).head?
/-- A stage starts SHEDDING or ADDING at its present weight. -/
def State.rampOs (s : State) (k : Fin 16) (st : Nat) : State := (s.put (Fd.ZFB_OS_state k) st).setOs k { s.os k with j := 0 }
/-- Does a zone's current stay below its add threshold with one stage fewer (R149)? -/
def State.shedFits (s : State) (z : Nat) : Bool :=
  ((s.senseNow (4 + z)).frac.mul (Frac.ofInt 512)).lt ((s.getBF (Reg.ZFB_ADD_I z)).frac.mul (Frac.ofInt ((s.wSum z : Int) - 512)))
/-- Has a zone's shed timer reached shed_hold, with shedding enabled? -/
def State.shedDue (s : State) (z : Nat) : Bool :=
  let hold := s.get (Fd.ZFB_SHED_HOLD_shed_hold z)
  s.flag (Fd.ZFB_SHED_CTRL_en z) && due (s.lpe.ran && hold != 4194303) hold (s.get (Fd.ZFB_SHED_STAT_shed_timer z))

/-- SHED_HOLD_EXPIRY (R149): the highest ACTIVE stage starts SHEDDING, provided that the remaining ones stay below the add
threshold; otherwise the timer returns to 0. -/
def execShedHoldExpiry (z : Fin 4) (s : State) : Out :=
  .next <|
    if !s.shedDue z then s
    else match s.lastIn z 1 with
      | some k => if s.shedFits z then s.rampOs k 7 else s.put (Fd.ZFB_SHED_STAT_shed_timer z) 0
      | none => s.put (Fd.ZFB_SHED_STAT_shed_timer z) 0

/-- A zone's add timer at 0. -/
def State.clearAdd (s : State) (z : Fin 4) : State := { s with zfb := { s.zfb with addTimer := vset s.zfb.addTimer z 0 } }
/-- Has a zone's add timer reached add_hold? -/
def State.addDue (s : State) (z : Fin 4) : Bool := due s.lpe.ran (s.get (Fd.ZFB_ADD_HOLD_add_hold z)) (vget s.zfb.addTimer z)
/-- ADD_HOLD_EXPIRY (R150): the lowest SHED stage starts ADDING, and the add timer returns to 0. -/
def execAddHoldExpiry (z : Fin 4) (s : State) : Out :=
  .next <|
    if !s.addDue z then s
    else match s.firstIn z 8 with
      | some k => (s.clearAdd z).rampOs k 9
      | none => s.clearAdd z

/-! ## Job groups, VSEL and PGOOD -/

/-- JOB_GROUP_APPLY (R154), at a forecast-frame boundary. A lane that is not declared belongs to no group. -/
def execJobGroupApply (t : Fin 16) (s : State) : Out :=
  .next <|
    if s.fcStart then s.put (Fd.ZFB_LANE_group t) (if s.laneDecl t then s.get (Fd.ZFB_LANE_next_group t) else 63) else s

/-- A lane's job group; 63 where it has none. -/
def State.laneGroup (s : State) (t : Nat) : Nat := if s.laneDecl t then s.get (Fd.ZFB_LANE_group t) else 63

/-- The code at a zone's pins in the frame's input set, and the equal samples in a row up to it. -/
def State.pinCode (s : State) (z : Fin 4) : Nat := vget s.input.vsel z % 8
def State.equalSamples (s : State) (z : Fin 4) : Nat :=
  if s.pinCode z == s.get (Fd.WGL_VSEL_pin_code z) && decide (1 ≤ s.get (Fd.WGL_VSEL_equal_count z))
    then min 8 (s.get (Fd.WGL_VSEL_equal_count z) + 1) else 1
/-- A zone's code is accepted (R156). -/
def State.acceptCode (s : State) (z : Fin 4) (code : Nat) : State := (s.put (Fd.WGL_VSEL_code z) code).setFlag (Fd.WGL_VSEL_valid z) true
/-- The sampling of one zone's code (R156). -/
def State.vselZone (s : State) (z : Fin 4) : State :=
  let t := (s.put (Fd.WGL_VSEL_pin_code z) (s.pinCode z)).put (Fd.WGL_VSEL_equal_count z) (s.equalSamples z)
  if s.equalSamples z == 8 then t.acceptCode z (s.pinCode z) else t

/-- VSEL_SAMPLE (R156), in frame 0 of a forecast frame. -/
def execVselSample (s : State) : Out :=
  .next <| if s.fcStart then (((s.vselZone 0).vselZone 1).vselZone 2).vselZone 3 else s

/-- The conditions of R158 on a zone in the frame. -/
def State.pgoodCond (s : State) (z : Nat) : Bool :=
  let r := (s.getBF (Reg.LPE_RAMP_SETPT z)).frac
  s.zoneDecl z && !s.zoneFenced z && s.flag (Fd.LPE_RAMP_STAT_running z) && s.flag (Fd.WGL_PGOOD_started z)
    && (((s.cal z).frac.sub r).abs).le (r.mul ⟨3, 100⟩)
    && !s.flag (Fd.KPR_CMP_ZONE_uv_trip z) && !s.flag (Fd.KPR_CMP_ZONE_ov_trip z) && !s.flag (Fd.WGL_PGOOD_force_low z)

/-- One frame of a zone's PGOOD window (R158): a failed condition makes the level low at once. -/
def State.pgoodStep (s : State) (z : Nat) : State :=
  let s := s.setFlag (Fd.WGL_PGOOD_keeper_trip z) (s.flag (Fd.KPR_CMP_ZONE_uv_trip z) || s.flag (Fd.KPR_CMP_ZONE_ov_trip z))
  if s.pgoodCond z then s.put (Fd.WGL_PGOOD_window_count z) (min 64 (s.get (Fd.WGL_PGOOD_window_count z) + 1))
  else (s.put (Fd.WGL_PGOOD_window_count z) 0).setFlag (Fd.WGL_PGOOD_level z) false

/-- PGOOD_HIGH (R158): in the frame after 64 qualifying ones, before that frame's own check. The pin follows at cycle 640. -/
def execPgoodHigh (z : Fin 4) (s : State) : Out :=
  .next <|
    if s.get (Fd.WGL_PGOOD_window_count z) == 64 && !s.lpe.ran then s.setFlag (Fd.WGL_PGOOD_level z) true else s

/-! ## Phase codes (R51) -/

/-- The interleave groups: output stages of each zone, front-end stages of each group, storage stages with weight. -/
def State.phaseGroup (s : State) (n : Nat) : Option Nat :=
  if h : n < 16 then
    let st := s.osState n
    let inGroup := st == 1 || st == 2 || st == 6 || st == 7 || st == 9 || (st == 5 && (s.os ⟨n, h⟩).step == .closeDwell)
    if inGroup && decide (s.osZone n < 4) then some (s.osZone n) else none
  else if n < 22 then (if s.strDecl ((n - 16) / 2) && !s.ssFenced (n - 16) && s.ssW (n - 16) != 0 then some 4 else none)
  else if s.feDecl (n - 22) && !s.feFenced (n - 22) then some (5 + s.feGroup (n - 22)) else none

/-- The phase code of a stage lane in the frame. -/
def State.phaseOf (s : State) (n : Fin 26) : Nat :=
  let off := s.get Fd.SNS_CARRIER_OFFSET_shelf_offset
  match s.phaseGroup n with
  | none => (match vget s.zfb.lastPhase n with | some p => p | none => off)
  | some g =>
    let mem := (List.range 26).filter fun i => s.phaseGroup i == some g
    let p := (mem.filter fun i => decide (i < n.val)).length
    (256 * p / mem.length + off) % 256

/-! ## The frame (R125) -/

/-- Steps 1 to 3 of R125 on the frame's inputs: the protection flags of R145, duties, go and abort. -/
def State.protectStep (s : State) (n : Fin 26) : State :=
  match (if s.teleHere n then s.teleOf n else none) with
  | none => s
  | some t =>
    if t.prot && s.stageDecl n && !s.stageFenced n then
      let s := if h : n.val < 16 then s.fenceOs ⟨n, h⟩ 2 else if h : n.val < 22 then s.fenceSs ⟨n.val - 16, by omega⟩
        else s.fenceFe ⟨n.val - 22, by omega⟩
      s.record Blk.zfb 0x11 2 (stageUnit n)
    else s

/-- What the fabric decides on the frame's inputs before its timers (R125, steps 1 to 3). -/
def State.fabricDecide (s : State) : State :=
  (((List.finRange 26).foldl (fun (s : State) n => s.protectStep n) s).duties).goAbort.syncBatch

/-- Steps 4 and 5 of R125: timers, then every sequence and weight ramp. -/
def State.fabricAdvance (s : State) : State :=
  let s := (List.finRange 4).foldl (fun (s : State) z => s.shedStep z) s
  let s := (List.finRange 16).foldl (fun (s : State) k => s.advanceOs k) s
  s.powerWeights.syncBatch

end Sys2Proof.Machine
end

