-- ==== Sys2Proof/Machine/Following.lean ====
section
/-! DEFINITION. The soft-start ramps (R111 to R116) and following supervision (R117 to R122), with the reactions of Table 04-5. -/

namespace Sys2Proof.Machine

/-! ## Ramps -/

/-- The error of the DC link against its ramp, as R113 compares it. -/
def State.linkError (s : State) : Frac :=
  (roundBF ((s.getBF (Reg.LPE_RAMP_SETPT 4)).frac.sub (s.cal 8).frac)).frac.abs

/-- The accepted VSEL code of a zone that is in force in the frame (R115). -/
def State.codeInForce (s : State) (z : Nat) : Option Nat := if h : z < 4 then vget s.zfb.codeNow ⟨z, h⟩ else none

/-- Take a ramp's target for the frame (R112, R115): the link set-point, or the stored voltage of the code in force where it is not 0. -/
def State.rampTarget (s : State) (l : Nat) : State :=
  if l = 4 then s.wr (Reg.LPE_RAMP_TARGET 4) (s.rd (Reg.LPE_LINK_TARGET 4))
  else match s.codeInForce l with
    | none => s
    | some c =>
      if (s.getBF (Reg.LPE_VSTORE l c)).m = 0 then s
      else (s.wr (Reg.LPE_RAMP_TARGET l) (s.rd (Reg.LPE_VSTORE l c))).put (Fd.LPE_RAMP_STAT_code l) c

/-- Does a zone wait for the DC link (R113, conditions 1 and 2)? -/
def State.waitsLink (s : State) : Bool :=
  !(s.flag (Fd.LPE_RAMP_STAT_running 4) && s.flag (Fd.LPE_RAMP_STAT_done 4)
    && s.linkError.le (s.getBF (Reg.LPE_FOLLOW_LIMIT 4)).frac)

/-- Does a zone wait for a stored voltage (R113, condition 3; R157)? -/
def State.waitsTarget (s : State) (z : Nat) : Bool :=
  match s.codeInForce z with
  | none => true
  | some c => (s.getBF (Reg.LPE_VSTORE z c)).m == 0

/-- One step of a running ramp (R111): `step` is LPE_RAMP_SLEW / 250, rounded to BF24. -/
def rampMove (r t slew : BF24) : BF24 :=
  let step := (roundBF (slew.frac.mul ⟨1, 250⟩)).frac
  if r.lt t then (let x := roundBF (r.frac.add step); if t.lt x then t else x)
  else (let x := roundBF (r.frac.sub step); if x.lt t then t else x)

/-- One frame of a ramp (R111 to R114). -/
def State.rampStep (s : State) (l : Nat) : State :=
  let s := s.rampTarget l
  let zone := decide (l < 4)
  let off := !s.flag (Fd.LPE_LOOP_CTRL_enable l) || (zone && (s.zoneFenced l || s.wSum l == 0))
  let was := s.flag (Fd.LPE_RAMP_STAT_running l)
  let idle := !off && !was
  let wl := idle && zone && s.waitsLink
  let nt := idle && zone && s.waitsTarget l
  let start := idle && !wl && !nt
  let run := (was && !off) || start
  let s := if start then s.putBF (Reg.LPE_RAMP_SETPT l) (s.measured l) else s
  let r := rampMove (s.getBF (Reg.LPE_RAMP_SETPT l)) (s.getBF (Reg.LPE_RAMP_TARGET l)) (s.getBF (Reg.LPE_RAMP_SLEW l))
  let done := run && r.frac.eq (s.getBF (Reg.LPE_RAMP_TARGET l)).frac
  let s := if run then s.putBF (Reg.LPE_RAMP_SETPT l) r else s
  let s := (((s.setFlag (Fd.LPE_RAMP_STAT_running l) run).setFlag (Fd.LPE_RAMP_STAT_done l) done).setFlag
    (Fd.LPE_RAMP_STAT_wait_link l) wl).setFlag (Fd.LPE_RAMP_STAT_no_target l) nt
  if zone then
    s.setFlag (Fd.WGL_PGOOD_started l) (run && (done || (s.flag (Fd.WGL_PGOOD_started l) && was)))
  else s

/-- The ramps of a frame; L4 first, since a zone's readiness asks for it. -/
def State.ramps (s : State) : State := [4, 0, 1, 2, 3].foldl (fun s l => s.rampStep l) s

/-! ## Following supervision -/

/-- Is a loop's timer held at 0 (R118)? -/
def State.followHeld (s : State) (l : Nat) : Bool :=
  !s.loopOn l || (decide (l < 4) && s.zoneFenced l)
    || (decide (5 ≤ l) && (s.flag Fd.PRF_GRID_STAT_flag || s.groupN (l - 5) == 0))

/-- One frame of a loop's timer (R117, R118, R121), with the counts of R119 and R120 that stand on its error. -/
def State.followStep (s : State) (l : Nat) : State :=
  let x := s.loop l
  let lim := (s.getBF (Reg.LPE_FOLLOW_LIMIT l)).frac
  let exc := lim.lt x.e.frac.abs
  let tl := s.get (Fd.LPE_FOLLOW_CTRL_timer_limit l)
  let t := if s.followHeld l || tl == 0 || !exc then 0 else min 1048575 (s.get (Fd.LPE_FOLLOW_STAT_timer l) + 1)
  let s := (s.put (Fd.LPE_FOLLOW_STAT_timer l) t).setFlag (Fd.LPE_FOLLOW_STAT_excess l) exc
  let s := s.setLoop l { x with
    hiAll := if t == 0 then true else x.hiAll && s.flag (Fd.LPE_LOOP_STAT_hi_act l)
    expireNow := x.expireNow && t != 0 }
  if h : l < 4 then
    let ok := s.flag (Fd.LPE_RAMP_STAT_running l) && s.flag (Fd.LPE_RAMP_STAT_done l) && !exc
    { s with zfb := { s.zfb with doneKept := vmod s.zfb.doneKept ⟨l, h⟩ (· && ok) } }
  else if l = 4 then
    { s with prf := { s.prf with linkOkFrames := if (s.prf.linkExhaust || s.wgl.exhaustRaw) && !exc then s.prf.linkOkFrames + 1 else 0 } }
  else s

/-- The fault of a loop's expiry (Table 04-5): its code, class and unit. -/
def followFault (l : Fin 7) : Nat × Nat × Nat :=
  if l.val < 4 then (0x11, 2, 0x500 + l) else if l.val = 4 then (0x12, 1, 0x600) else (0x13, 2, 0x400 + (l - 5))
/-- A loop's expiry: its status, the zone's cause, the reaction that follows in the next frame, and Hamper's trigger. -/
def State.expireLoop (s : State) (l : Fin 7) : State :=
  let x := s.loop l
  (({ s with lpe := { s.lpe with loops := vset s.lpe.loops l { x with expireNow := true }, react := vset s.lpe.react l true }
             hmp := { s.hmp with followHit := true } }).setFlag (Fd.LPE_FOLLOW_STAT_expired l) true).setFlag (Fd.LPE_FOLLOW_STAT_cause l)
    (decide (l.val < 4) && x.hiAll)
/-- FOLLOW_EXPIRY (R117, R119, R121): a timer that has reached timer_limit records its fault once; the reaction of Table 04-5 takes
effect at the start of the next frame. -/
def execFollowExpiry (l : Fin 7) (s : State) : Out :=
  .next <|
    let tl := s.get (Fd.LPE_FOLLOW_CTRL_timer_limit l)
    if tl != 0 && decide (tl ≤ s.get (Fd.LPE_FOLLOW_STAT_timer l)) && !(s.loop l).expireNow then
      (s.expireLoop l).record Blk.lpe (followFault l).1 (followFault l).2.1 (followFault l).2.2
    else s

/-- The reactions of Table 04-5 that take effect in the frame now starting. -/
def State.followReactions (s : State) : State :=
  let s := (List.finRange 7).foldl (fun (s : State) (l : Fin 7) =>
    if !vget s.lpe.react l then s
    else if h : l.val < 4 then s.fenceZone ⟨l.val, h⟩
    else if l.val = 4 then { s with prf := { s.prf with linkExhaust := true, linkOkFrames := 0 } }
    else s.fenceGroup (l - 5)) s
  { s with lpe := { s.lpe with react := vall 7 false } }

/-- STORAGE_EXHAUSTION_CLEAR (Table 04-5): the DC link error has stayed within its limit for 256 consecutive frames. -/
def execStorageExhaustionClear (s : State) : Out :=
  .next <|
    if s.prf.linkExhaust && decide (256 ≤ s.prf.linkOkFrames) then
      { s with prf := { s.prf with linkExhaust := false } }
    else s

/-- What a frame's start does for zones: a frame nearer to each retry (R120), the codes in force (R115), and at a slow-frame boundary
the slow frame just ended (R499). -/
def State.zoneTick (s : State) : State :=
  let code (z : Fin 4) : Option Nat := if s.flag (Fd.WGL_VSEL_valid z) then some (s.get (Fd.WGL_VSEL_code z)) else none
  let s := { s with zfb := { s.zfb with
    retryLeft := Vector.ofFn fun z => vget s.zfb.retryLeft z - 1
    codeNow := Vector.ofFn fun z => code z } }
  if s.slowStart then { s with zfb := { s.zfb with doneWhole := s.zfb.doneKept, doneKept := vall 4 true } } else s

end Sys2Proof.Machine
end

