-- ==== Sys2Proof/Machine/Swarm.lean ====
section
/-! DEFINITION. Swarm steps (chapter 06): reception of uplink frames (R341, R344), markers and their plausibility (R162 to R167), storms
and silent lanes (R189 to R191), step phase (R168 to R171), shape and bias tables (R172 to R175) and pre-positioning (R177, R178). -/

namespace Sys2Proof.Machine

/-! ## Pre-positioning terms -/

/-- A lane's term starts to fall to 0 in N_r steps (R178). -/
def State.ppFall (s : State) (t : Nat) : State :=
  let x := s.lane t
  match x.pp.kind with
  | .move => s.setLane t { x with pp := { x.pp with kind := .fall, start := x.pp.val, first := s.time.frame, span := x.pp.nr } }
  | _ => s

/-- A lane's pending arm ends; `miss` counts it as an arm miss, and `void` lets its term fall (R166, R167, R178). -/
def State.endArm (s : State) (t : Nat) (miss void : Bool) : State :=
  let x := s.lane t
  if x.arm.isNone then s else
  let s := s.setLane t { x with arm := none, armMiss := x.armMiss + b2n miss }
  let s := s.setFlag (Fd.WGL_LANE_STAT_arm_pending t) false
  let s := (s.put64 (Reg.WGL_LANE_ARM_LO t) (Reg.WGL_LANE_ARM_HI t) 0).putBF (Reg.WGL_LANE_RISE t) .zero
  if void then s.ppFall t else s

/-- The sum of the declared slews of the storage stages with weight, or FFW_PP_SLEW where it is not 0, in A/µs (Table 06-3). -/
def State.ppSlew (s : State) : Frac :=
  let r := s.getBF Reg.FFW_PP_SLEW
  if r.m ≠ 0 then r.frac
  else ⟨((List.range 6).filter fun i => s.ssW i != 0).foldl (fun n i => n + s.slew (16 + i)) 0, 1000⟩

/-- The term of an arm that is accepted in this frame (R177, R178); none where V_str or N_r is not defined. The Bool says that the
quotient overflowed (R500). -/
def State.ppTerm (s : State) (t : Nat) (a : Arm) : Option (PpTerm × Bool) :=
  let strs := (List.range 3).filter fun i => s.strActive i != 0
  let slew := s.ppSlew
  if strs.isEmpty || !(Frac.zero.lt slew) then none else
  let v := (Frac.sum (strs.map fun i => (s.cal (9 + i)).frac)).mul ⟨1, strs.length⟩
  let den := ((s.getBF Reg.PRF_ETA_OUT).frac.mul (s.getBF Reg.FFW_PP_ETA).frac).mul v
  let w := a.rise.mul (Frac.ofInt 1000)
  let it := if den.isZero then (divBF w den).1.frac else (w.div den).norm
  let iref := strs.foldl (fun n i => n + 100 * s.strInService i) 0
  let q := (Frac.ofInt iref).div (slew.mul (Frac.ofInt 4))
  let nr := max 1 (-(q.neg.floor)).toNat
  let lead := s.get Fd.FFW_PP_CTRL_lead
  let last : Int := s.time.frame + Int.fdiv ((a.tp : Int) - lead - 900 - s.time.frameStart) 1000
  let first := last - nr + 1
  let x := (s.lane t).pp
  if x.kind = .none then
    some ({ kind := .move, val := Frac.zero, start := Frac.zero, goal := it, first := first, span := nr, nr := nr, tp := a.tp },
      den.isZero && !w.isZero)
  else
    let st := max (s.time.frame : Int) first
    some ({ kind := .move, val := x.val, start := x.val, goal := it, first := st, span := last - st + 1, nr := nr, tp := a.tp },
      den.isZero && !w.isZero)

/-- Give a lane the term of its new arm (R177, R178). Without a defined term the lane's term is 0. -/
def State.ppArm (s : State) (t : Nat) (a : Arm) : State :=
  if !s.flag Fd.FFW_PP_CTRL_en || !s.flag (Fd.WGL_LANE_CTRL_ff_en t) then s
  else match s.ppTerm t a with
    | none => s.setLane t { s.lane t with pp := .zero }
    | some (p, ovf) =>
      let s := s.setLane t { s.lane t with pp := p }
      if ovf then (s.setFlag (Fd.LPE_LOOP_STAT_exp_ovf 4) true).record Blk.lpe 0x14 0 0 else s

/-- A lane's period estimate (R169); none where it is undefined. -/
def LaneRt.period (x : LaneRt) : Option Int :=
  match x.stepPeriod with
  | some p => if x.gosSincePeriod < 4 then some p else x.pt
  | none => x.pt

/-- The same, where it is a usable period. -/
def State.lanePeriod (s : State) (t : Nat) : Option Int :=
  match (s.lane t).period with
  | some p => if 0 < p then some p else none
  | none => none

/-- One frame of a lane's term. -/
def State.ppStep (s : State) (t : Nat) : State :=
  let elapsed := match s.lanePeriod t with
    | some p => decide (((s.lane t).pp.tp : Int) + p ≤ s.time.frameStart)
    | none => false
  let s := if elapsed then s.ppFall t else s
  let x := s.lane t
  let n : Int := s.time.frame
  match x.pp.kind with
  | .none => s
  | .move =>
    let f : Frac := if x.pp.span ≤ 0 then ⟨1, 1⟩
      else Frac.max Frac.zero (Frac.min (Frac.ofInt 1) ⟨n - x.pp.first + 1, x.pp.span.toNat⟩)
    s.setLane t { x with pp := { x.pp with val := (x.pp.start.add ((x.pp.goal.sub x.pp.start).mul f)).norm } }
  | .fall =>
    let left := x.pp.span - 1 - (n - x.pp.first)
    if left ≤ 0 then s.setLane t { x with pp := .zero }
    else s.setLane t { x with pp := { x.pp with val := (x.pp.start.mul ⟨left, x.pp.span.toNat⟩).norm } }

/-- The pre-positioning term of the frame: the sum of the lanes' terms, rounded once (R178). -/
def State.prePosition (s : State) : State × BF24 :=
  let s := s.each 16 fun t s => s.ppStep t
  let f := roundBF ((List.range 16).foldl (fun a t => (a.add (s.lane t).pp.val).norm) Frac.zero)
  (s.putBF Reg.FFW_PP_OUT f, f)

/-- PP_DISABLE (R178): a write of en = 0 to FFW_PP_CTRL, stamped here. -/
def execPpDisable (s : State) : Out := .next <| s.enqueue (fieldWrite Fd.FFW_PP_CTRL_en 0)

/-! ## Storms (R189, R190) -/

/-- A storm condition occurs on a lane. -/
def State.stormCond (s : State) (t : Fin 16) : State :=
  let s := s.setLane t { s.lane t with condSweep := true, cleanSweeps := 0 }
  if s.flag (Fd.WGL_LANE_STAT_storm t) then s else
  let s := (s.setFlag (Fd.WGL_LANE_STAT_storm t) true).bumpSat (Fd.WGL_LANE_CNT_storms t)
  let s := (s.endArm t false true).ppFall t
  let s := s.setLane t { s.lane t with firstTaken := true }
  let s := s.record Blk.wgl 0x11 0 (0x900 + t)
  if decide (8 ≤ s.get (Fd.WGL_LANE_CNT_storms t)) && !s.flag (Fd.WGL_LANE_STAT_fenced t) then
    (s.fenceLane t).record Blk.wgl 0x12 2 (0x900 + t)
  else s

/-- STORM_CLEAR (R190): at a sweep boundary, after 64 sweeps in a row without a storm condition. -/
def execStormClear (t : Fin 16) (s : State) : Out :=
  .next <|
    if s.flag (Fd.WGL_LANE_STAT_storm t) && s.sweepStart && decide (64 ≤ (s.lane t).cleanSweeps) then
      s.setFlag (Fd.WGL_LANE_STAT_storm t) false
    else s

/-- Clear a lane's storm, fence and storm count (Table 06-7). -/
def State.clearLane (s : State) (t : Nat) : State :=
  ((s.setFlag (Fd.WGL_LANE_STAT_storm t) false).setFlag (Fd.WGL_LANE_STAT_fenced t) false).put (Fd.WGL_LANE_CNT_storms t) 0

/-- LANE_CLEAR (R192): the write is stamped here. -/
def execLaneClear (t : Fin 16) (s : State) : Out := .next <| s.enqueue (fieldWrite (Fd.WGL_LANE_CTRL_clear t) 1)

/-! ## Reception (R341, R344) -/

/-- A type as the table of the lane's last identifiers counts it. -/
def UpType.idx : UpType → Fin 4
  | .status => 0 | .arm => 0 | .go => 1 | .fin => 2 | .period => 3

/-- A valid frame of the lane is heard. -/
def State.hearUp (s : State) (t : Fin 16) : State := s.setLane t { s.lane t with heard := true, upCount := (s.lane t).upCount + 1 }
/-- A frame enters the next frame's input set, stamped with its reception (R164). -/
def State.enterUp (s : State) (t : Fin 16) (up : Uplink) : State :=
  { s.hearUp t with inp := { s.inp with nextWaggle := s.inp.nextWaggle ++ [{ lane := t, trx := s.now, up := up }] } }
/-- A marker beyond the lane's four frames of a frame is dropped and counted (R189, R344). -/
def State.dropUp (s : State) (t : Fin 16) : State :=
  let s := (s.bump (Fd.WGL_LANE_CNT_dropped t)).setLane t { s.lane t with cntSweep := (s.lane t).cntSweep + 1 }
  if max 1 (s.get Fd.WGL_STORM_CTRL_max_markers) < (s.lane t).cntSweep then s.stormCond t else s
/-- A frame beyond the lane's four of a frame (R344). -/
def State.excessUp (s : State) (t : Fin 16) (want : UpType) : State :=
  let s := (s.hearUp t).bump (Fd.WGL_LINK_CNT_over_limit t)
  if want = .status then s else s.dropUp t
/-- Reception of an uplink frame of type `want` on lane `t` completes at cycle `cyc` (R35, R339, R341, R344, R503). -/
def State.receiveUp (s : State) (t : Fin 16) (cyc : Nat) (linkOk : Bool) (want : UpType) (up : Uplink) : State :=
  let s := s.atCycle cyc
  if !s.laneDecl t || s.get (Fd.WGL_LANE_STAT_version t) == 0 then s
  else if !upValid s t linkOk want up then s.bump (Fd.WGL_LINK_CNT_crc_err t)
  else if (s.lane t).upCount < 4 then s.enterUp t up
  else s.excessUp t want

/-- STEP_ARM (R164, R341): the frame enters the next frame's input set, where R165 and R166 act on it. -/
def execStepArm (t : Fin 16) (cyc : Nat) (linkOk : Bool) (up : Uplink) (s : State) : Out :=
  .next <| s.receiveUp t cyc linkOk .arm up
/-- STEP_GO (R164, R341). -/
def execStepGo (t : Fin 16) (cyc : Nat) (linkOk : Bool) (up : Uplink) (s : State) : Out :=
  .next <| s.receiveUp t cyc linkOk .go up
/-- STEP_END (R164, R341). -/
def execStepEnd (t : Fin 16) (cyc : Nat) (linkOk : Bool) (up : Uplink) (s : State) : Out :=
  .next <| s.receiveUp t cyc linkOk .fin up
/-- STEP_PERIOD (R164, R341). -/
def execStepPeriod (t : Fin 16) (cyc : Nat) (linkOk : Bool) (up : Uplink) (s : State) : Out :=
  .next <| s.receiveUp t cyc linkOk .period up
/-- WAGGLE_STATUS (R341): a keep-alive, which carries the tray's highest version. -/
def execWaggleStatus (t : Fin 16) (cyc : Nat) (linkOk : Bool) (up : Uplink) (s : State) : Out :=
  .next <| s.receiveUp t cyc linkOk .status up

/-! ## Markers (R165, R166, R169) -/

/-- Plausibility (Table 06-2); `trx` is T_rx. -/
def plausible (x : LaneRt) (trx : Nat) (u : Uplink) : Bool :=
  match u.type with
  | .arm => decide (trx ≤ u.stamp + 250 ∧ u.stamp ≤ trx + 262144000)
  | .go => decide (trx ≤ u.stamp + 256000 ∧ u.stamp ≤ trx + 250)
  | .fin => decide (trx ≤ u.stamp + 256000 ∧ u.stamp ≤ trx + 250) &&
      (match x.lastGo with
       | some g => !x.goTrained || decide (g ≤ u.stamp)
       | none => true)
  | .period => decide (u.value ≤ 2500000000)
  | .status => true

/-- The expected rise of an arm in kilowatts (R163). -/
def State.armRise (s : State) (t : Nat) (u : Uplink) : Frac :=
  if s.get (Fd.WGL_LANE_STAT_version t) == 3 then ⟨u.value, 1000⟩ else (s.getBF (Reg.FFW_CLASS_RISE (u.cls % 16))).frac

/-- The pending arm that an accepted STEP_ARM makes (R163, R166). -/
def State.armOf (s : State) (t : Nat) (u : Uplink) : Arm :=
  { stepId := u.stepId, tp := u.stamp, rise := s.armRise t u, accFrame := s.time.frame, onset := false }
/-- The lane holds a pending arm, and its registers show it. -/
def State.holdArm (s : State) (t : Nat) (a : Arm) : State :=
  ((((s.setLane t { s.lane t with arm := some a }).setFlag (Fd.WGL_LANE_STAT_arm_pending t) true).put64 (Reg.WGL_LANE_ARM_LO t)
    (Reg.WGL_LANE_ARM_HI t) a.tp).putBF (Reg.WGL_LANE_RISE t) (roundBF a.rise))
/-- An accepted STEP_ARM (R166). -/
def State.acceptArm (s : State) (t : Nat) (u : Uplink) : State := (s.holdArm t (s.armOf t u)).ppArm t (s.armOf t u)

/-- An accepted STEP_GO: the arm it matches or cancels, the period estimate, and the storm condition on near releases (R166, R169,
R189). -/
def State.acceptGo (s : State) (t : Fin 16) (u : Uplink) : State :=
  let x := s.lane t
  let s := match x.arm with
    | none => s
    | some a => s.endArm t (a.stepId != u.stepId) (a.stepId != u.stepId)
  let x := s.lane t
  let delta : Option Int := match x.lastGo with
    | some g => some ((u.stamp : Int) - g)
    | none => none
  let pt := match delta, x.pt with
    | some d, some p => some (p + Frac.round ⟨d - p, 8⟩)
    | some d, none => some d
    | none, p => p
  let near := match delta with
    | some d => decide (d.natAbs < 500000)
    | none => false
  let x := { x with lastGo := some u.stamp, goTrained := true, gosSincePeriod := x.gosSincePeriod + 1, pt := pt }
  let s := s.setLane t x
  let s := { s with wgl := { s.wgl with goNow := s.wgl.goNow ++ [(t.val, u.stepId, u.stamp)] } }
  let s := if (s.lanePeriod t).isSome then s.setFlag (Fd.WGL_LANE_STAT_step_stale t) false else s
  if near then s.stormCond t else s

/-- An accepted STEP_PERIOD (R165, R169, R189). -/
def State.acceptPeriod (s : State) (t : Fin 16) (u : Uplink) : State :=
  let s := if u.value = 0 then s else s.setLane t { s.lane t with stepPeriod := some u.value, gosSincePeriod := 0 }
  if u.value < 500000 then s.stormCond t else s

/-- An implausible marker is counted, and noted once in a slow frame (R165). -/
def State.implausible (s : State) (t : Fin 16) : State :=
  let s := s.bump (Fd.WGL_LANE_CNT_implaus t)
  if (s.lane t).noted then s else (s.setLane t { s.lane t with noted := true }).record Blk.wgl 0x10 0 (0x900 + t)
/-- A repeated marker is counted; the fourth in a sweep is a storm condition (R165, R189). -/
def State.repeated (s : State) (t : Fin 16) : State :=
  let s := (s.bump (Fd.WGL_LANE_CNT_dup t)).setLane t { s.lane t with dupSweep := (s.lane t).dupSweep + 1 }
  if 4 ≤ (s.lane t).dupSweep then s.stormCond t else s
/-- A plausible new marker acts by its type. -/
def State.actMarker (s : State) (t : Fin 16) (u : Uplink) : State :=
  match u.type with
  | .arm => if s.flag (Fd.WGL_LANE_STAT_storm t) then s else s.acceptArm t u
  | .go => s.acceptGo t u
  | .fin => s.ppFall t
  | .period => s.acceptPeriod t u
  | .status => s
/-- The checks of Table 06-2 on a marker that is taken. -/
def State.judgeMarker (s : State) (e : WEntry) : State :=
  let x := s.lane e.lane
  if !plausible x e.trx e.up then s.implausible e.lane
  else if vget x.lastId e.up.type.idx == some e.up.stepId then s.repeated e.lane
  else (s.setLane e.lane { x with lastId := vset x.lastId e.up.type.idx (some e.up.stepId) }).actMarker e.lane e.up
/-- One marker of the frame's inputs (R162, R165, R166, R189, R190). -/
def State.marker (s : State) (e : WEntry) : State :=
  let t := e.lane
  if e.up.type = .status || !s.laneDecl t then s else
  let s := s.setLane t { s.lane t with cntSweep := (s.lane t).cntSweep + 1 }
  let s := if max 1 (s.get Fd.WGL_STORM_CTRL_max_markers) < (s.lane t).cntSweep then s.stormCond t else s
  if s.flag (Fd.WGL_LANE_STAT_fenced t) then s
  else if s.flag (Fd.WGL_LANE_STAT_storm t) && (s.lane t).firstTaken then s.bump (Fd.WGL_LANE_CNT_dropped t)
  else (s.setLane t { s.lane t with firstTaken := true }).judgeMarker e

/-- Step 1 of Table 06-6: the markers of the frame's inputs, lane by lane in ascending order, and for each lane in order of reception
(R164); and the frames without a valid frame (R191). -/
def State.markers (s : State) : State :=
  let l := s.laneSet.waggle
  (List.finRange 16).foldl (fun (s : State) (t : Fin 16) =>
    let mine := l.filter fun e => e.lane == t
    let s := mine.foldl (fun (s : State) e => s.marker e) s
    if !s.laneDecl t then s.setLane t { s.lane t with silent := 0 }
    else if mine.isEmpty then s.setLane t { s.lane t with silent := (s.lane t).silent + 1 }
    else (s.setLane t { s.lane t with silent := 0 }).setFlag (Fd.WGL_LANE_STAT_link_down t) false)
    { s with wgl := { s.wgl with goNow := [] } }

/-- ARM_TIMEOUT (R167): the frame's start exceeds the predicted release by arm_timeout frames. -/
def execArmTimeout (t : Fin 16) (s : State) : Out :=
  .next <|
    match (s.lane t).arm with
    | some a =>
      if a.tp + 1000 * s.get Fd.FFW_PP_TIMEOUT_arm_timeout < s.time.frameStart then s.endArm t true true else s
    | none => s

/-- Is a lane's step stale: no accepted STEP_GO for four period estimates, or no period estimate (R191)? -/
def State.stepIsStale (s : State) (t : Nat) : Bool :=
  match s.lanePeriod t, (s.lane t).lastGo with
  | some p, some g => decide ((g : Int) + 4 * p ≤ s.time.frameStart)
  | _, _ => true
/-- A lane's link goes down: its arm is void, and its term falls (R191). -/
def State.dropLane (s : State) (t : Fin 16) : State := ((s.setFlag (Fd.WGL_LANE_STAT_link_down t) true).endArm t false true).ppFall t
/-- LINK_DOWN (R191): no valid Waggle frame for 16 consecutive frames. -/
def execLinkDown (t : Fin 16) (s : State) : Out :=
  .next <|
    if s.laneDecl t && decide (16 ≤ (s.lane t).silent) && !s.flag (Fd.WGL_LANE_STAT_link_down t) then
      (s.dropLane t).record Blk.wgl 0x13 0 (0x900 + t)
    else s

/-- STEP_STALE (R191). -/
def execStepStale (t : Fin 16) (s : State) : Out :=
  .next <| if s.stepIsStale t then s.setFlag (Fd.WGL_LANE_STAT_step_stale t) true else s

/-! ## Step phase (R168 to R170) -/

/-- May a lane's rises enter its zone's g and the pre-positioning term (R190, Table 06-7)? -/
def State.feeds (s : State) (t z : Nat) : Bool :=
  s.laneDecl t && s.laneZone t == z && s.flag (Fd.WGL_LANE_CTRL_ff_en t) && !s.flag (Fd.WGL_LANE_STAT_storm t)
    && !s.flag (Fd.WGL_LANE_STAT_fenced t)
/-- Is a lane an anchor candidate of a zone (R168)? -/
def State.candidate (s : State) (t z : Nat) : Bool :=
  s.feeds t z && !s.flag (Fd.WGL_LANE_STAT_link_down t) && !s.flag (Fd.WGL_LANE_STAT_step_stale t)

/-- The anchor of a zone in the frame (R168). -/
def State.anchorOf (s : State) (z : Nat) : Option (Fin 16) :=
  if s.flag (Fd.FFW_ZONE_CTRL_auto_anchor z) then (List.finRange 16).find? fun t => s.candidate t.val z
  else
    let a := s.get (Fd.FFW_ZONE_CTRL_anchor_lane z)
    if h : a < 16 then (if s.candidate a z then some ⟨a, h⟩ else none) else none

/-- Set a zone's anchor time (R170). -/
def State.setAnchorTime (s : State) (z : Nat) (ta : Nat) : State :=
  (s.put64 (Reg.FFW_ANCHOR_LO z) (Reg.FFW_ANCHOR_HI z) ta).setZoneFf z { s.zoneFf z with hasTa := true, hold := false }

/-- The anchor and the releases of the frame (R168, R170). -/
def State.anchorStep (s : State) (z : Nat) : State :=
  let a := s.anchorOf z
  let x := s.zoneFf z
  let changed := decide (a ≠ x.anchor)
  let s := s.setZoneFf z { x with anchor := a, boundary := false, hold := if changed then a.isSome && x.hasTa else x.hold
                                  onsetStep := if changed then none else x.onsetStep }
  let s := match a with
    | none => s.put (Fd.FFW_ZONE_STAT_anchor_cur z) 0
    | some t => s.put (Fd.FFW_ZONE_STAT_anchor_cur z) t
  match a with
  | none => s
  | some t =>
    let s := (s.wgl.goNow.filter fun g => g.1 == t.val).foldl (fun (s : State) g =>
      let x := s.zoneFf z
      let matched := x.onsetStep == some g.2.1
      let s := s.setZoneFf z { x with boundary := x.boundary || !matched, onsetStep := none }
      s.setAnchorTime z g.2.2) s
    let x := s.zoneFf z
    if x.hold then s else s.setZoneFf z { x with period := s.lanePeriod t }

/-- The anchors of the frame, with the flags that show them. -/
def State.anchors (s : State) : State :=
  let s := s.each 4 fun z s => s.anchorStep z
  s.each 16 fun t s => s.setFlag (Fd.WGL_LANE_STAT_anchor t)
    ((List.range 4).any fun z => match (s.zoneFf z).anchor with
      | some a => a.val == t
      | none => false)

/-- A lane's rise where it enters a zone's gain at an onset (R173): its arm is for a release near the onset's. -/
def State.nearRise (s : State) (z tp t : Nat) : Frac :=
  match (s.lane t).arm with
  | some a => if s.feeds t z && decide (((a.tp : Int) - tp).natAbs < 64000) then a.rise else Frac.zero
  | none => Frac.zero
/-- g at an onset (R173), rounded once; 0 where the set-point is 0. -/
def State.onsetGain (s : State) (z tp : Nat) : BF24 :=
  let v := (s.getBF (Reg.LPE_RAMP_SETPT z)).frac
  if v.isZero then .zero else roundBF (((Frac.sum ((List.range 16).map fun t => s.nearRise z tp t)).mul (Frac.ofInt 1000)).div v)

/-- Is the present frame the onset frame of an arm: the later of its acceptance frame and the latest frame whose action instant
lies at or before t_p (R170)? -/
def State.onsetHere (s : State) (a : Arm) : Bool :=
  decide (a.tp < s.time.frameStart + s.time.len + 900) && (decide (s.time.frameStart + 900 ≤ a.tp) || a.accFrame == s.time.frame)
/-- The onset of zone `z` on the arm of lane `t`: anchor time, step boundary, period and gain (R170, R173). -/
def State.onset (s : State) (z : Fin 4) (t : Fin 16) (a : Arm) : State :=
  let s := s.setLane t { s.lane t with arm := some { a with onset := true } }
  let s := s.setAnchorTime z s.time.frameStart
  let s := s.setZoneFf z { s.zoneFf z with boundary := true, onsetStep := some a.stepId, period := s.lanePeriod t }
  s.putBF (Reg.FFW_GAIN z) (s.onsetGain z a.tp)
/-- STEP_ONSET (R170, R173), in the onset frame of the anchor's pending arm. -/
def execStepOnset (z : Fin 4) (s : State) : Out :=
  .next <|
    match (s.zoneFf z).anchor with
    | none => s
    | some t =>
      match (s.lane t).arm with
      | none => s
      | some a => if s.onsetHere a && !a.onset then s.onset z t a else s

/-! ## Shape and bias (R171 to R175) -/

/-- An entry of a table buffer: 16 bits, two's complement. -/
def State.tableEntry (s : State) (base b : Nat) : Int :=
  sext 16 (getBits (s.rd (base + 4 * (b / 2))) (16 * (b % 2)) 16)

/-- The feed-forward of a zone in the frame (R171, R172). -/
def State.feedForward (s : State) (z : Nat) : State × BF24 :=
  let x := s.zoneFf z
  let ta := s.get64 (Reg.FFW_ANCHOR_LO z) (Reg.FFW_ANCHOR_HI z)
  let b : Option Nat := match x.anchor, x.period with
    | some _, some p => if x.hasTa && decide (0 < p) then
        (let q := Int.fdiv (1024 * ((s.time.frameStart : Int) - ta)) p
         if q < 4096 then some (min 1023 q.toNat) else none)
      else none
    | _, _ => none
  let s := s.wr (Reg.FFW_PERIOD z) (BitVec.ofNat 32 (match x.period with
    | some p => p.toNat
    | none => 0))
  let was := s.flag (Fd.FFW_ZONE_STAT_stale z)
  let k := s.get (Fd.FFW_ZONE_STAT_active_buf z)
  let r : State × BF24 × Bool := match b with
    | some b =>
      let sh := roundBFo ((Frac.mk (s.tableEntry (Reg.FFW_SHAPE z k 0) b) 16384).mul (s.getBF (Reg.FFW_GAIN z)).frac)
      let f := roundBFo (sh.1.frac.add ⟨s.tableEntry (Reg.FFW_BIAS z k 0) b, 64⟩)
      ((s.put (Fd.FFW_ZONE_STAT_bin z) b).setFlag (Fd.FFW_ZONE_STAT_stale z) false, f.1, sh.2 || f.2)
    | none =>
      let from' := if was then x.fadeFrom else x.f
      let left := if was then x.fadeLeft else 64
      let f := roundBF (from'.frac.mul ⟨(left - 1 : Nat), 64⟩)
      ((s.setZoneFf z { x with fadeFrom := from', fadeLeft := left - 1 }).setFlag (Fd.FFW_ZONE_STAT_stale z) true, f, false)
  let s := if r.2.2 then (r.1.setFlag (Fd.LPE_LOOP_STAT_exp_ovf z) true).record Blk.lpe 0x14 0 0 else r.1
  let f := r.2.1
  let st := s.flag (Fd.FFW_ZONE_STAT_stale z)
  let s := s.setZoneFf z { s.zoneFf z with f := f, staleAllFc := (s.zoneFf z).staleAllFc && st }
  (s.putBF (Reg.FFW_OUT z) f, f)

/-- The bytes of a word of a buffer in the order of FFW_CRC (Table 06-3). -/
def tableBytes (w : Word) : List Nat := [getBits w 8 8, getBits w 0 8, getBits w 24 8, getBits w 16 8]
/-- The bytes of one table of a buffer. -/
def State.tableAt (s : State) (base : Nat) : List Nat := (List.range 512).flatMap fun i => tableBytes (s.rd (base + 4 * i))
/-- The bytes of a zone's buffer in the order of FFW_CRC (Table 06-3). -/
def State.bufferBytes (s : State) (z k : Nat) : List Nat := s.tableAt (Reg.FFW_SHAPE z k 0) ++ s.tableAt (Reg.FFW_BIAS z k 0)

/-- Form FFW_CRC of a zone's inactive buffer. -/
def State.formCrc (s : State) (z : Nat) : State :=
  s.wr (Reg.FFW_CRC z) (crc32 (s.bufferBytes z (1 - s.get (Fd.FFW_ZONE_STAT_active_buf z))))

/-- FFW_COMMIT_REQUEST (R175): a write of commit, stamped here. -/
def execFfwCommitRequest (z : Fin 4) (s : State) : Out := .next <| s.enqueue (fieldWrite (Fd.FFW_ZONE_CTRL_commit z) 1)

/-- Does a pending commit of a zone apply in the frame (R175): at a step boundary, or at a forecast-frame boundary after 256 stale
forecast frames, with the partner's CRC equal where a partner is present? -/
def State.commitDue (s : State) (z : Fin 4) : Bool :=
  let x := s.zoneFf z
  let crcOk := !s.lks.partnerValid || x.partnerCrc == some (s.rd (Reg.FFW_CRC z))
  s.flag (Fd.FFW_ZONE_STAT_commit_pending z) && crcOk && (x.boundary || (s.fcStart && decide (256 ≤ x.staleFc)))
/-- The inactive buffer becomes the active one. -/
def State.commitFfw (s : State) (z : Fin 4) : State :=
  let s := s.put (Fd.FFW_ZONE_STAT_active_buf z) (1 - s.get (Fd.FFW_ZONE_STAT_active_buf z))
  let s := s.setFlag (Fd.FFW_ZONE_STAT_commit_pending z) false
  (s.setZoneFf z { s.zoneFf z with staleFc := 0 }).formCrc z
/-- FFW_COMMIT_APPLY (R175). -/
def execFfwCommitApply (z : Fin 4) (s : State) : Out := .next <| if s.commitDue z then s.commitFfw z else s

/-! ## Ticks -/

/-- What the lanes and zones do at the start of a frame, and at the start of a forecast frame, sweep and slow frame. -/
def State.swarmTick (s : State) : State :=
  let fc := s.fcStart
  let sw := s.sweepStart
  let sl := s.slowStart
  let s := s.each 16 fun t s =>
    let x := s.lane t
    s.setLane t { x with
      upCount := 0
      firstTaken := x.firstTaken && !fc
      dupSweep := if sw then 0 else x.dupSweep
      cntSweep := if sw then 0 else x.cntSweep
      cleanSweeps := if sw then (if x.condSweep then 0 else x.cleanSweeps + 1) else x.cleanSweeps
      condSweep := x.condSweep && !sw
      noted := x.noted && !sl }
  if !fc then s else s.each 4 fun z s =>
    let x := s.zoneFf z
    s.setZoneFf z { x with
      staleFc := if s.flag (Fd.FFW_ZONE_STAT_commit_pending z) && x.staleAllFc then x.staleFc + 1 else 0
      staleAllFc := true }

end Sys2Proof.Machine
end

