-- ==== Sys2Proof/Machine/Ceilings.lean ====
section
/-! DEFINITION. Frequency ceilings and THROTTLE_N (chapter 06): the ramp allowance (R179), the computed and the sent ceilings (R182,
R183), SHARE (R184), the droop response (R185) and the THROTTLE_N sources (R186), in the order of Table 06-6. -/

namespace Sys2Proof.Machine

/-! ## Groups and zones -/

/-- A ceiling's parts, by group and by zone. -/
def State.groupCeil (s : State) (g : Nat) : CeilRt := if h : g < 63 then vget s.wgl.groups ⟨g, h⟩ else .reset
def State.setGroupCeil (s : State) (g : Nat) (x : CeilRt) : State :=
  if h : g < 63 then { s with wgl := { s.wgl with groups := vset s.wgl.groups ⟨g, h⟩ x } } else s
def State.zoneCeil (s : State) (z : Nat) : CeilRt := if h : z < 4 then vget s.wgl.zceil ⟨z, h⟩ else .reset
def State.setZoneCeil (s : State) (z : Nat) (x : CeilRt) : State :=
  if h : z < 4 then { s with wgl := { s.wgl with zceil := vset s.wgl.zceil ⟨z, h⟩ x } } else s

/-- The declared lanes of a group, and the zones they stand on. -/
def State.groupLanes (s : State) (g : Nat) : List Nat := (List.range 16).filter fun t => s.laneDecl t && s.laneGroup t == g
def State.groupZones (s : State) (g : Nat) : List Nat :=
  (List.range 4).filter fun z => (s.groupLanes g).any fun t => s.laneZone t == z
/-- Has a zone lanes of no group? -/
def State.ungrouped (s : State) (z : Nat) : Bool := (s.zoneLanes z).any fun t => s.laneGroup t == 63

/-! ## Allowance (R179) -/

/-- The allowance of a lane, 0.001 A/µs: rounded down and saturating; 0 where the zone is fenced or its PGOOD is low. -/
def State.allowance (s : State) (t : Nat) : Nat :=
  let z := s.laneZone t
  if !s.laneDecl t || s.zoneFenced z || !s.flag (Fd.WGL_PGOOD_level z) then 0
  else
    let sum := ((List.range 16).filter fun k => s.osZone k == z && s.osState k == 1).foldl (fun n k => n + s.slew k) 0
    min 65535 (min 512 (s.get Fd.WGL_ALLOW_CTRL_allow_frac) * sum / (512 * (s.zoneLanes z).length))

/-! ## THROTTLE_N (R186) -/

/-- The storage-exhaustion condition of Table 06-5 as it arises: L4's expiry, or an open reserve with every string of non-zero weight at
a discharge factor of 0. -/
def State.exhaustCond (s : State) : Bool :=
  let strs := (List.range 3).filter fun i => s.strActive i != 0
  s.prf.linkExhaust ||
    (s.flag Fd.PRF_STAT_reserve_open && !strs.isEmpty && strs.all fun i => s.get (Fd.PRF_STR_FACTOR_dis_factor i) == 0)

/-- The sources of a zone's line (Table 06-5): the zone's comparator, storage exhaustion, EXT_ALERT_N where it is enabled, and the operator.
In the safe state the comparator alone acts (R448). -/
def State.keeperSrc (s : State) (z : Nat) : Bool := s.flag (Fd.KPR_CMP_ZONE_uv_trip z)
def State.exhaustSrc (s : State) : Bool := !s.flt.safe && s.wgl.exhaustRaw
def State.extSrc (s : State) (z : Nat) : Bool := !s.flt.safe && s.wgl.extActive && s.flag (Fd.WGL_THR_ext_en z)
def State.forceSrc (s : State) (z : Fin 4) : Bool := !s.flt.safe && vget s.wgl.forceOn z
/-- Is a zone's line driven low: by any source, outside test mode? -/
def State.throttleOn (s : State) (z : Fin 4) : Bool := (s.keeperSrc z || s.exhaustSrc || s.extSrc z || s.forceSrc z) && !s.pins.testMode
/-- Drive a zone's line at a level. -/
def State.setLine (s : State) (z : Fin 4) (low : Bool) : State := { s with pins := { s.pins with throttleLow := vset s.pins.throttleLow z low } }
/-- Show a zone's sources, and drive its line. -/
def State.driveZone (s : State) (z : Fin 4) : State :=
  ((((s.setFlag (Fd.WGL_THR_level z) (s.throttleOn z)).setFlag (Fd.WGL_THR_keeper z) (s.keeperSrc z)).setFlag (Fd.WGL_THR_exhaust z)
    s.exhaustSrc).setFlag (Fd.WGL_THR_ext z) (s.extSrc z)).setLine z (s.throttleOn z)
/-- Show the sources and drive each zone's line (R186, Table 06-5). -/
def State.driveThrottle (s : State) : State := (List.finRange 4).foldl State.driveZone s

/-- One frame of the sources' minimum times and of the EXT_ALERT_N samples (R186). -/
def State.throttleTick (s : State) : State :=
  let w := s.wgl
  let low := s.input.extLow
  { s with wgl := { w with
      exhaustHold := w.exhaustHold - 1, extHold := w.extHold - 1
      forceHold := Vector.ofFn fun z => vget w.forceHold z - 1
      extLowRun := if low then w.extLowRun + 1 else 0
      extHighRun := if low then 0 else w.extHighRun + 1 } }

/-- Does storage exhaustion begin in the frame? The operator's source of a zone? -/
def State.exhaustBegins (s : State) : Bool := s.exhaustCond && !s.wgl.exhaustRaw
def State.forceBegins (s : State) (z : Fin 4) : Bool := s.flag (Fd.WGL_THR_force z) && !vget s.wgl.forceOn z
/-- The sources that begin in the frame: storage exhaustion and the operator's, each for at least 256 frames. -/
def State.startSources (s : State) : State :=
  { s with
    prf := if s.exhaustBegins then { s.prf with linkOkFrames := 0 } else s.prf
    wgl := { s.wgl with
      exhaustRaw := s.wgl.exhaustRaw || s.exhaustBegins, exhaustHold := if s.exhaustBegins then 256 else s.wgl.exhaustHold
      forceOn := Vector.ofFn fun z => vget s.wgl.forceOn z || s.forceBegins z
      forceHold := Vector.ofFn fun z => if s.forceBegins z then 256 else vget s.wgl.forceHold z } }
def State.throttleStart (s : State) : State := s.startSources.driveThrottle

/-- EXT_ALERT_N taken as active or not; an activation lasts 256 frames at least. -/
def State.setExt (s : State) (b : Bool) : State :=
  { s with wgl := { s.wgl with extActive := b, extHold := if b then 256 else s.wgl.extHold } }
/-- EXT_ALERT (R186): active after 2 consecutive low samples, inactive after 256 consecutive high ones. -/
def execExtAlert (s : State) : Out :=
  .next <|
    if !s.wgl.extActive && decide (2 ≤ s.wgl.extLowRun) then (s.setExt true).driveThrottle
    else if s.wgl.extActive && decide (256 ≤ s.wgl.extHighRun) && s.wgl.extHold == 0 then (s.setExt false).driveThrottle
    else s

/-- Does storage exhaustion end? The operator's source of a zone? -/
def State.exhaustEnds (s : State) : Bool :=
  s.wgl.exhaustRaw && !s.exhaustCond && s.wgl.exhaustHold == 0 && decide (256 ≤ s.prf.linkOkFrames)
def State.forceEnds (s : State) (z : Fin 4) : Bool := vget s.wgl.forceOn z && !s.flag (Fd.WGL_THR_force z) && vget s.wgl.forceHold z == 0
/-- The sources without those that end. -/
def State.endSources (s : State) (z : Fin 4) : State :=
  { s with wgl := { s.wgl with exhaustRaw := s.wgl.exhaustRaw && !s.exhaustEnds
                               forceOn := vset s.wgl.forceOn z (vget s.wgl.forceOn z && !s.forceEnds z) } }
/-- THROTTLE_RELEASE (R186): the zone's operator source ends once force is 0, and storage exhaustion once its condition is gone and the
clearing condition of Table 04-5 holds; each no earlier than 256 frames after it began. -/
def execThrottleRelease (z : Fin 4) (s : State) : Out := .next (s.endSources z).driveThrottle

/-! ## Droop conditions (Table 06-4): 0 to 3 THROTTLE_N of a zone, 4 the grid flag, 5 L4, 6 to 9 a zone's loop, 10 to 13 cap_limited
during a COMPUTE reset -/

/-- Does a droop condition hold in the frame? -/
def State.droopCond (s : State) (i : Nat) : Bool :=
  if h : i < 4 then vget s.pins.throttleLow ⟨i, h⟩
  else if i = 4 then s.flag Fd.PRF_GRID_STAT_flag
  else if i = 5 then decide (16 ≤ (s.loop 4).hiErrFrames)
  else if i < 10 then decide (64 ≤ (s.loop (i - 6)).hiFrames)
  else s.flag (Fd.ZFB_ZONE_STAT_cap_limited (i - 10)) && vget s.flt.rstOn 1

/-- The zone a condition names; none where it names every group and zone. -/
def droopZone (i : Nat) : Option Nat :=
  if i < 4 then some i else if i < 6 then none else if i < 10 then some (i - 6) else some (i - 10)
/-- A condition's level. -/
def State.droopLevel (s : State) (i : Nat) : Nat := if i < 4 then 0 else s.get Fd.WGL_CEIL_CTRL_droop_ceil
/-- Does a condition name a group, or the ungrouped lanes of a zone? -/
def State.namesGroup (s : State) (i g : Nat) : Bool :=
  match droopZone i with
  | none => true
  | some z => (s.groupZones g).contains z
def namesZone (i z : Nat) : Bool :=
  match droopZone i with
  | none => true
  | some y => y == z

/-- The least level of the conditions of a list that name a ceiling; 0xFFF where none does. -/
def State.levelOf (s : State) (conds : List Nat) (names : Nat → Bool) : Nat :=
  (conds.filter names).foldl (fun l i => min l (s.droopLevel i)) 0xFFF

/-- The conditions in force: those that held in the frame's evaluation. -/
def State.droopsOn (s : State) : List Nat := ((List.finRange 14).filter fun (i : Fin 14) => vget s.wgl.condPrev i).map fun (i : Fin 14) => i.val

/-- Lower a ceiling to a level. -/
def CeilRt.lower (x : CeilRt) (l : Nat) : CeilRt := { x with c := min x.c l, s := min x.s l, sg := min x.sg l }
/-- Hold the sent ceilings of a ceiling at most at a level. -/
def CeilRt.hold (x : CeilRt) (l : Nat) : CeilRt := { x with s := min x.s l, sg := min x.sg l, level := l }

/-- WGL_GROUP_SENT of a group. -/
def State.showGroup (s : State) (g : Nat) : State :=
  let x := s.groupCeil g
  (((s.put (Fd.WGL_GROUP_SENT_local g) x.s).put (Fd.WGL_GROUP_SENT_shared g) x.sg).setFlag (Fd.WGL_GROUP_SENT_droop g)
    (decide (x.level < 0xFFF))).setFlag (Fd.WGL_GROUP_SENT_raise_pending g) (decide (x.s < x.c))

/-- Hold a group's ceiling, and show it; hold a zone's. -/
def State.holdGroup (on : List Nat) (g : Nat) (s : State) : State :=
  (s.setGroupCeil g ((s.groupCeil g).hold (s.levelOf on fun i => s.namesGroup i g))).showGroup g
def State.holdZone (on : List Nat) (z : Nat) (s : State) : State := s.setZoneCeil z ((s.zoneCeil z).hold (s.levelOf on fun i => namesZone i z))
/-- Every sent ceiling is at most the level of the conditions in force that name it (R185). -/
def State.holdCeilings (s : State) : State := (s.each 63 (State.holdGroup s.droopsOn)).each 4 (State.holdZone s.droopsOn)

/-- The conditions that have ended in the frame no longer limit a ceiling (R185). -/
def State.droopEnd (s : State) : State :=
  { s with wgl := { s.wgl with condPrev := Vector.ofFn fun i => vget s.wgl.condPrev i && s.droopCond i } }.holdCeilings

/-- The conditions of Table 06-4 that hold now and did not hold before. -/
def State.newConds (s : State) : List Nat :=
  ((List.finRange 14).filter fun (i : Fin 14) => s.droopCond i.val && !vget s.wgl.condPrev i).map fun (i : Fin 14) => i.val

/-- Does one of the conditions call for an urgent frame on a lane? -/
def State.urgentFor (s : State) (new : List Nat) (t : Fin 16) : Bool :=
  s.laneDecl t && new.any fun i => if s.laneGroup t < 63 then s.namesGroup i (s.laneGroup t) else namesZone i (s.laneZone t)

/-- Lower a group's ceiling, or a zone's, by the conditions listed. -/
def State.lowerGroup (new : List Nat) (g : Nat) (s : State) : State :=
  s.setGroupCeil g ((s.groupCeil g).lower (s.levelOf new fun i => s.namesGroup i g))
def State.lowerZone (new : List Nat) (z : Nat) (s : State) : State := s.setZoneCeil z ((s.zoneCeil z).lower (s.levelOf new fun i => namesZone i z))
/-- Keep which conditions hold in the frame. -/
def State.keepConds (s : State) : State := { s with wgl := { s.wgl with condPrev := Vector.ofFn fun i => s.droopCond i } }
/-- Urgent frames fall due in the next frame on the lanes that the conditions listed name. -/
def State.callUrgent (s : State) (new : List Nat) : State :=
  { s with wgl := { s.wgl with urgentDue := Vector.ofFn fun t => vget s.wgl.urgentDue t || s.urgentFor new t } }

/-- What new conditions lower: the ceilings they name, and the urgent frames of the lanes under them. -/
def State.droopLower (s : State) (new : List Nat) : State :=
  (((s.keepConds.each 63 (State.lowerGroup new)).each 4 (State.lowerZone new)).callUrgent new).holdCeilings

/-- DROOP_RESPONSE (R185, R187): the sources of THROTTLE_N are evaluated, then the droop conditions. In the first frame of a condition
the stored and sent ceilings it names fall to its level, and an urgent frame is due in the next frame on their lanes. -/
def execDroopResponse (s : State) : Out :=
  .next (s.throttleStart.droopLower s.throttleStart.newConds)

/-! ## Computed and sent ceilings (R182 to R184) -/

/-- zc of a zone after a forecast frame (R182). -/
def State.nextZc (s : State) (z : Fin 4) : Frac :=
  let p := vget s.wgl.powMean z
  let cap := (s.getBF (Reg.ZFB_ZONE_CAP z)).frac
  let zc := vget s.wgl.zc z
  let limited := s.flag (Fd.ZFB_ZONE_STAT_cap_limited z)
  if limited && cap.lt p then (roundW (zc.mul (Frac.max ⟨1, 2⟩ (cap.div p)))).frac48
  else if !limited || p.lt (cap.mul ⟨19, 20⟩) then (roundW (Frac.min (Frac.ofInt 1) (zc.add ⟨1, 64⟩))).frac48
  else zc

/-- sc after a forecast frame (R182). -/
def State.nextSc (s : State) : Frac :=
  let r := s.ride
  if s.flag Fd.PRF_STAT_reserve_open && r.lt (Frac.ofInt 1) then (roundW (s.wgl.sc.mul (Frac.max ⟨1, 2⟩ r))).frac48
  else (roundW (Frac.min (Frac.ofInt 1) (s.wgl.sc.add ⟨1, 64⟩))).frac48

/-- A ceiling code of R182. -/
def ceilCode (q : Frac) : Nat := min 4095 ((Frac.ofInt 4095).mul q).floor.toNat

/-- Are the outputs that R182 uses fresh: the forecast, the strings' reported values, and a whole forecast frame of ride's means? -/
def State.ceilFresh (s : State) : Bool :=
  s.get Fd.PRF_STAT_stale_count == 0 && s.prf.pBase.isSome && decide (256 ≤ s.site.last.n)
    && (List.finRange 3).all fun i => !s.inPst i || (vget s.prf.socValid i && decide (vget s.prf.sweepsSinceSoc i ≤ 4))

/-- The word of a NEXT register. -/
def nextWord (c : Nat) (fresh : Bool) : Word := BitVec.ofNat 32 (b2n fresh * 65536 + c)

/-- zc of a zone, by number. -/
def State.zcOf (s : State) (z : Nat) : Frac := if h : z < 4 then vget s.wgl.zc ⟨z, h⟩ else Frac.ofInt 1
/-- The operator's limit of a group, out of 4095. -/
def State.opLimitOf (s : State) (g : Nat) : Frac := if h : g < 63 then ⟨(vget s.wgl.opLimit ⟨g, h⟩ : Nat), 4095⟩ else Frac.ofInt 1
/-- The code of a group: of the operator's limit, sc, and zc of its zones the least (R182). -/
def State.groupCode (s : State) (g : Nat) : Nat := ceilCode (minFrac ([s.opLimitOf g, s.wgl.sc] ++ (s.groupZones g).map s.zcOf))
/-- The code of a zone's ungrouped lanes (R182). -/
def State.zoneCode (s : State) (z : Nat) : Nat := ceilCode (minFrac [s.wgl.sc, s.zcOf z])

/-- What firmware writes: c and fresh of every group with members and of every zone with ungrouped lanes. -/
def State.ceilWrites (s : State) (fresh : Bool) : List PairWrite :=
  (((List.range 63).filter fun g => !(s.groupLanes g).isEmpty).map fun g =>
    plainWrite (Reg.WGL_GROUP_NEXT g) 0xFFFFFFFF (nextWord (s.groupCode g) fresh)) ++
  (((List.range 4).filter s.ungrouped).map fun z => plainWrite (Reg.WGL_ZONE_NEXT z) 0xFFFFFFFF (nextWord (s.zoneCode z) fresh))

/-- The factors after the forecast frame (R182). -/
def State.formFactors (s : State) : State := { s with wgl := { s.wgl with zc := Vector.ofFn fun z => s.nextZc z, sc := s.nextSc } }

/-- CEILING_COMPUTE (R182, R188, R473): firmware forms the factors and writes c and fresh of every group with members and every zone with
ungrouped lanes. The claimant's writes count (R192). During a COMPUTE reset firmware writes nothing. -/
def execCeilingCompute (s : State) : Out :=
  .next <|
    if vget s.flt.rstOn 1 then s
    else if s.isStandby then s.formFactors
    else s.formFactors.over (s.formFactors.ceilWrites s.ceilFresh) fun w s => s.enqueue w

/-- A ceiling at a boundary (R183, R185): the last written c is latched, and the sent ceiling formed from it. -/
def CeilRt.latch (x : CeilRt) (c : Nat) (share : Bool) : CeilRt :=
  let s := min (if x.fresh then min c x.c else min c x.s) x.level
  { x with c := c, cPrev := x.c, s := s, sg := if share then min x.sg x.level else s, fresh := false, held := !x.fresh }

/-- Latch a group's ceiling, and show it. -/
def State.latchGroup (share : Bool) (g : Nat) (s : State) : State :=
  (s.setGroupCeil g ((s.groupCeil g).latch (s.get (Fd.WGL_GROUP_NEXT_c g)) share)).showGroup g
/-- Latch the ceiling of a zone's ungrouped lanes. -/
def State.latchZone (z : Nat) (s : State) : State := s.setZoneCeil z ((s.zoneCeil z).latch (s.get (Fd.WGL_ZONE_NEXT_c z)) false)
/-- The allowances of the forecast frame (R179). -/
def State.formAllow (s : State) : State := { s with wgl := { s.wgl with allow := Vector.ofFn fun t => s.allowance t } }

/-- CEILING_LATCH (R179, R183), at a forecast-frame boundary. -/
def execCeilingLatch (s : State) : Out :=
  .next <|
    if s.fcStart then ((s.each 63 (State.latchGroup (s.flag Fd.WGL_CEIL_CTRL_share_en))).each 4 State.latchZone).formAllow
    else s

/-- The code that the wired-AND of the other participants shows for a group. -/
def busCode (bus : Vector Nat 63) (g : Nat) : Nat := if h : g < 63 then vget bus ⟨g, h⟩ % 4096 else 0xFFF
/-- The code the module drives for a group: none without members or in the safe state (R448). -/
def State.ownCode (s : State) (g : Nat) : Nat := if (s.groupLanes g).isEmpty || s.flt.safe then 0xFFF else (s.groupCeil g).s
/-- A group's shared ceiling. -/
def State.shareGroup (bus : Vector Nat 63) (g : Nat) (s : State) : State :=
  (s.setGroupCeil g { s.groupCeil g with
    sg := min (if s.flag Fd.WGL_CEIL_CTRL_share_en then min (s.ownCode g) (busCode bus g) else (s.groupCeil g).s) (s.groupCeil g).level }).showGroup g

/-- SHARE_ARBITRATION (R184): `bus` is the wired-AND of the other participants' codes, 0xFFF where there are none. A module in the safe
state drives nothing (R448). -/
def execShareArbitration (bus : Vector Nat 63) (s : State) : Out := .next (s.each 63 (State.shareGroup bus))

/-! ## Ceiling frames (R181, R342) -/

/-- The first frame of the next forecast frame. -/
def State.nextFc (s : State) : Nat := (s.time.frame / 256 + 1) * 256

/-- May the module send ceiling frames on a lane: declared, trained, and its valid line asserted (R331, R503)? -/
def State.laneSends (s : State) (t : Nat) : Bool :=
  s.laneDecl t && s.get (Fd.WGL_LANE_STAT_version t) != 0 && s.pins.valid

/-- The ceiling frame of a lane (Table 12-10). -/
def State.ceilFrame (s : State) (t : Fin 16) (urgent : Bool) : CeilFrame :=
  let g := s.laneGroup t
  let x := if g < 63 then s.groupCeil g else s.zoneCeil (s.laneZone t)
  { urgent := urgent, claim := s.pins.claim, held := x.held, ceil := if g < 63 then x.sg else x.s
    allow := if s.get (Fd.WGL_LANE_STAT_version t) == 1 then 0 else vget s.wgl.allow t
    group := g, fstart := s.time.fcTime, apply := (if urgent then s.time.frame else s.nextFc) % 2 ^ 32 }

/-- Send a ceiling frame on a lane, and show it in WGL_LANE_TX. -/
def State.sendCeil (s : State) (t : Fin 16) (f : CeilFrame) : State :=
  let s := { s with wgl := { s.wgl with sentCeil := vset s.wgl.sentCeil t (some f) } }
  ((s.put (Fd.WGL_LANE_TX_allow t) f.allow).setFlag (Fd.WGL_LANE_TX_held t) f.held).put (Fd.WGL_LANE_TX_ceil t) f.ceil

/-- The frame of frame 196: the frame sent before, its claim and its time of application the present ones, lowered where a droop condition has lowered
the ceiling since (R187). -/
def CeilFrame.again (o f : CeilFrame) : CeilFrame := { o with urgent := false, claim := f.claim, ceil := min o.ceil f.ceil, apply := f.apply }
/-- What a lane sends in frame 192, and in frame 196. -/
def State.ceilNow (s : State) (t : Fin 16) : CeilFrame :=
  if s.fcFrame == 192 then s.ceilFrame t false
  else match vget s.wgl.sentCeil t with
    | some o => o.again (s.ceilFrame t false)
    | none => s.ceilFrame t false
/-- Send a lane's ceiling frame where the lane sends. -/
def State.ceilLane (s : State) (t : Fin 16) : State := if s.laneSends t then s.sendCeil t (s.ceilNow t) else s

/-- CEIL_SEND (R342): at cycle 640 of frame 192 of the forecast frame, and the same frame again in frame 196, lowered where a droop
condition has lowered it in between (R187). -/
def execCeilSend (s : State) : Out :=
  .next (if s.fcFrame == 192 || s.fcFrame == 196 then (List.finRange 16).foldl State.ceilLane (s.atCycle 640) else s)

/-- The urgent frames of the frame leave at cycle 640 (R185, R342). -/
def State.sendUrgent (s : State) : State :=
  (List.finRange 16).foldl (fun (s : State) (t : Fin 16) =>
    if vget s.wgl.urgentNow t && s.laneSends t then s.sendCeil t (s.ceilFrame t true) else s) s

/-! ## Ticks -/

/-- The urgent frames that fall due in the frame now starting, and at a forecast frame's start the zones' mean powers (R182). -/
def State.ceilingTick (s : State) : State :=
  let w := s.wgl
  let s := { s with wgl := { w with urgentNow := w.urgentDue, urgentDue := vall 16 false } }
  if !s.fcStart || w.powFrames = 0 then s
  else { s with wgl := { s.wgl with
      powMean := Vector.ofFn fun z => ((vget w.powSum z).mul ⟨1, w.powFrames⟩).norm
      powSum := vall 4 Frac.zero, powFrames := 0 } }

/-- The zone powers of a frame enter their means. -/
def State.ceilingEnd (s : State) : State :=
  { s with wgl := { s.wgl with
      powSum := Vector.ofFn fun z => ((vget s.wgl.powSum z).add (s.zonePower z)).norm
      powFrames := s.wgl.powFrames + 1 } }

end Sys2Proof.Machine
end

