-- ==== Sys2Proof/Machine/Hamper.lean ====
section
/-! DEFINITION. Hamper (chapter 03, R90 to R95): the nodes of Table 03-8, triggers, records and arming. -/

namespace Sys2Proof.Machine

/-- A node of a loop (Table 03-8, class 0x1). -/
def State.loopNode (s : State) (l j : Nat) : Word :=
  let x := s.loop l
  match j with
  | 0 => x.r.toWord | 1 => x.m.toWord | 2 => x.e.toWord | 3 => x.n.toWord | 4 => x.yc.toWord | 5 => x.f.toWord
  | 6 => x.u.toWord | 7 => x.y.toWord | 8 => (if x.split then roundBF x.integ.frac48 else .zero).toWord | 9 => x.x.toWord
  | 10 => (roundBF x.e.frac.abs).toWord | 11 => BitVec.ofNat 32 (s.get (Fd.LPE_FOLLOW_STAT_timer l))
  | 12 => x.hi.toWord | 13 => x.lo.toWord | _ => 0

/-- The word of a node; 0 for an identifier outside Table 03-8 (R90). -/
def State.nodeWord (s : State) (id : Nat) : Word :=
  let c := id / 4096
  let i := id % 4096
  match c with
  | 0 => if i < 24 then (s.cal i).toWord else 0
  | 1 => if i < 112 then s.loopNode (i / 16) (i % 16) else 0
  | 2 => if h : i < 26 then (roundBF ⟨vget s.lpe.refs ⟨i, h⟩, 4096⟩).toWord else 0
  | 3 => if i < 26 then (roundBF ⟨(s.laneW i : Nat), 512⟩).toWord else 0
  | 4 => if h : i < 2 then (vget s.lpe.gridRef ⟨i, h⟩).toWord else 0
  | 15 => if i = 0 then BitVec.ofNat 32 s.time.frameStart else 0
  | _ => 0

/-- The nodes of a record, 1 to 64. -/
def State.nodeCount (s : State) : Nat := max 1 (min 64 (s.get Fd.HMP_NODES_count))
/-- The node words of a record, with the padding word of R91. -/
def State.recWords (s : State) : List Word :=
  let n := s.nodeCount
  (List.range n).map (fun i => s.nodeWord (s.get (Fd.HMP_NODE_SEL_node_id i))) ++ (if n % 2 = 1 then [0] else [])
/-- The bytes of a record (R91). -/
def recBytes (count : Nat) : Nat := 8 + 8 * ((count + 1) / 2)

/-- Arm (R94). -/
def State.hamperArm (s : State) : State :=
  let n := s.get Fd.HMP_REGION_size_mib * 2 ^ 20 / recBytes s.nodeCount
  let pre := s.get Fd.HMP_PRE_pre
  let post := max 1 (s.get Fd.HMP_POST_post)
  let fits := decide (pre + post ≤ n)
  let pre' := if fits then pre else n * pre / (pre + post)
  let s := (s.put Fd.HMP_EFF_PRE_pre_eff pre').put Fd.HMP_EFF_POST_post_eff (if fits then post else n - pre')
  let s := ((s.setFlag Fd.HMP_STAT_truncated !fits).put Fd.HMP_STAT_pre_valid 0).put Fd.HMP_STAT_state 1
  { s with hmp := { s.hmp with recs := [], postLeft := 0, trigPending := false, faultHit := false, followHit := false } }

/-- Disarm: IDLE, with the region's content kept (Table 03-9). -/
def State.hamperDisarm (s : State) : State := s.put Fd.HMP_STAT_state 0

/-- Is Hamper ARMED or TRIGGERED, so that writes to its settings are ignored (R95)? -/
def State.hamperBusy (s : State) : Bool := s.get Fd.HMP_STAT_state == 1 || s.get Fd.HMP_STAT_state == 2

/-- HMP_ARM (R94): the write is stamped here. -/
def execHmpArm (s : State) : Out := .next <| s.enqueue (fieldWrite Fd.HMP_CTRL_arm 1)
/-- HMP_DISARM (R95). -/
def execHmpDisarm (s : State) : Out := .next <| s.enqueue (fieldWrite Fd.HMP_CTRL_disarm 1)
/-- FORCE_TRIG (R93). -/
def execForceTrig (s : State) : Out := .next <| s.enqueue (fieldWrite Fd.HMP_CTRL_force_trig 1)

/-- Is the trigger condition met in the frame (R93)? -/
def State.hamperMet (s : State) : Bool :=
  let v := (BF24.ofWord (s.nodeWord (s.get Fd.HMP_TRIG_CTRL_node_id))).frac
  let v0 := s.hmp.prevLevel.frac
  let l := (s.getBF Reg.HMP_TRIG_LEVEL).frac
  let rise := v0.lt l && l.le v
  let fall := l.le v0 && v.lt l
  s.hmp.force ||
    match s.get Fd.HMP_TRIG_CTRL_source with
    | 0 => (match s.get Fd.HMP_TRIG_CTRL_edge with
      | 0 => rise
      | 1 => fall
      | _ => rise || fall)
    | 1 => s.hmp.faultHit
    | 2 => s.hmp.followHit
    | _ => false

/-- Take a record where the frame matches the decimation (R91, R92). During a MEMORY reset none is taken, and the next one carries the gap
flag (R452). -/
def State.hamperRecord (s : State) : State :=
  let st := s.get Fd.HMP_STAT_state
  let h := s.hmp
  if s.time.frame % 2 ^ s.get Fd.HMP_CTRL_decim_log2 != 0 then s
  else if vget s.flt.rstOn 3 then { s with hmp := { h with missed := true } }
  else
    let rec' : HmpRec := { frame := s.time.frame, trig := h.trigPending, gap := h.missed, words := s.recWords }
    if st == 1 then
      let recs := (rec' :: h.recs).take (s.get Fd.HMP_EFF_PRE_pre_eff)
      { s with hmp := { h with recs := recs, missed := false } }.put Fd.HMP_STAT_pre_valid recs.length
    else if st == 2 && (h.trigPending || decide (0 < h.postLeft)) then
      let s := if h.trigPending then s.put64 Reg.HMP_TRIG_FRAME_LO Reg.HMP_TRIG_FRAME_HI s.time.frame else s
      { s with hmp := { h with recs := rec' :: h.recs, missed := false, trigPending := false
                               postLeft := (if h.trigPending then s.get Fd.HMP_EFF_POST_post_eff else h.postLeft) - 1 } }
    else s

/-- Hamper at cycle 620 (R92, R93): the trigger, and then the record. -/
def State.hamperFrame (s : State) : State :=
  let s := if s.get Fd.HMP_STAT_state == 1 && s.hamperMet then
      { s with hmp := { s.hmp with trigPending := true } }.put Fd.HMP_STAT_state 2
    else s
  let s := s.hamperRecord
  { s with hmp := { s.hmp with prevLevel := BF24.ofWord (s.nodeWord (s.get Fd.HMP_TRIG_CTRL_node_id)), force := false
                               faultHit := false, followHit := false } }

/-- HAMPER_CAPTURE_DONE (R92): with the post-trigger records taken, the state becomes DONE. -/
def execHamperCaptureDone (s : State) : Out :=
  .next <|
    if s.get Fd.HMP_STAT_state == 2 && !s.hmp.trigPending && s.hmp.postLeft == 0 then s.put Fd.HMP_STAT_state 3 else s

end Sys2Proof.Machine
end

