-- ==== Sys2Proof/Machine/Align.lean ====
section
/-! DEFINITION. Alignment to SYNC_IN (R43 to R47), stages under command (R502), and the reading of registers: live time words (R38) and
the shadows of multi-word quantities (R13). -/

namespace Sys2Proof.Machine

/-! ## Alignment -/

/-- The alignment states of Table 02-4. -/
def State.alignState (s : State) : Nat := s.get Fd.SNS_SYNC_STAT_state
/-- FOLLOW mode (R44). -/
def State.follows (s : State) : Bool := s.get Fd.SNS_SYNC_CTRL_mode == 1

/-- A phase error folded into −500 to +499 (R45). -/
def foldErr (x : Int) : Int := (x + 500) % 1000 - 500

/-- The length of the next frame for a phase error (R46). -/
def lenFor (err : Int) : Nat := if err < -1 then 999 else if 1 < err then 1001 else 1000

/-- Is the present instant at least 900 cycles after the last accepted edge (R45)? -/
def State.edgeFar (s : State) : Bool := match s.time.lastEdge with
  | some e => decide (e + 900 ≤ s.now)
  | none => true

/-- An accepted edge of a phase error (R45 to R47): frames keep 1000 cycles in HOLDOVER. -/
def State.takeEdge (s : State) (err : Int) : State :=
  { s.put Fd.SNS_SYNC_STAT_phase_err (toBits 16 err) with time := { s.time with
    lastEdge := some s.now, edgeThisFrame := true
    goodEdges := if s.alignState == 1 && decide (err.natAbs ≤ 1) then s.time.goodEdges + 1 else 0
    nextLen := if s.alignState == 3 then s.time.nextLen else lenFor err } }

/-- SYNC_IN_EDGE (R45, R46): a rising edge at cycle `cyc` of the present frame. An edge less than 900 cycles after the accepted one
before it is ignored, and in INTERNAL mode every edge is. -/
def execSyncInEdge (cyc : Nat) (s : State) : Out :=
  .next <|
    let s := s.atCycle cyc
    if s.follows && s.edgeFar then s.takeEdge (foldErr (cyc + s.get Fd.SNS_SYNC_OFFSET_offset : Nat)) else s

/-- ALIGNMENT_LOCKED (R47): ACQUIRE, with the phase error within ±1 at 64 accepted edges in a row. -/
def execAlignmentLocked (s : State) : Out :=
  .next <| if s.alignState == 1 && decide (64 ≤ s.time.goodEdges) then s.put Fd.SNS_SYNC_STAT_state 2 else s

/-- Is any stage under command (R502)? A stage whose lane is QUIET, or that is not declared, is not. -/
def State.stageUnder (s : State) (n : Fin 26) : Bool :=
  vget s.zfb.under n && s.stageDecl n && s.get (Fd.STL_LANE_STAT_state n) != 0
def State.anyUnder (s : State) : Bool := (List.finRange 26).any fun n => s.stageUnder n

/-- ALIGNMENT_STEP (R47): in ACQUIRE with step_allow 1 and no stage under command, the frame in progress ends at the first target frame
start at least 901 cycles after its own start. -/
def execAlignmentStep (s : State) : Out :=
  .next <|
    match s.time.lastEdge with
    | none => s
    | some e =>
      if s.alignState == 1 && s.flag Fd.SNS_SYNC_CTRL_step_allow && !s.anyUnder then
        let first : Int := e + s.get Fd.SNS_SYNC_OFFSET_offset - s.time.frameStart
        let len := 901 + ((first - 901) % 1000).toNat
        { s with time := { s.time with len := len, nextLen := 1000 } }.setFlag Fd.SNS_SYNC_STAT_stepped true
      else s

/-- HOLDOVER_ENTRY (R47): no accepted edge within 4 frames in a row. -/
def execHoldoverEntry (s : State) : Out :=
  .next <|
    if (s.alignState == 1 || s.alignState == 2) && decide (4 ≤ s.time.noEdgeFrames) then
      let s := (s.put Fd.SNS_SYNC_STAT_state 3).setFlag Fd.SNS_SYNC_STAT_edge_missing true
      { s with time := { s.time with nextLen := 1000, edgeFrames := 0 } }.record Blk.sns 0x10 0 0
    else s

/-- HOLDOVER_EXIT (R47): accepted edges in 16 frames in a row. -/
def execHoldoverExit (s : State) : Out :=
  .next <|
    if s.alignState == 3 && decide (16 ≤ s.time.edgeFrames) then
      { s with time := { s.time with goodEdges := 0 } }.put Fd.SNS_SYNC_STAT_state 1
    else s

/-- SYNC_CONFIG_WRITE (R43): a write to SNS_SYNC_OFFSET or SNS_SYNC_CTRL is stamped here. -/
def execSyncConfigWrite (toOffset : Bool) (val : Word) (s : State) : Out :=
  .next <| s.enqueue (plainWrite (if toOffset then Reg.SNS_SYNC_OFFSET else Reg.SNS_SYNC_CTRL) 0xFFFFFFFF val)

/-- Alignment begins anew, after power-on or a change of mode or offset (R43, R47). -/
def State.alignTick (s : State) : State :=
  if s.time.restartAlign then
    { s with time := { s.time with restartAlign := false, goodEdges := 0, noEdgeFrames := 0, edgeFrames := 0, nextLen := 1000 } }.put
      Fd.SNS_SYNC_STAT_state (if s.follows then 1 else 0)
  else s

/-- The phase error that R310 gives a standby in HOLDOVER: the claimant's frame start. -/
def State.holdoverTarget (s : State) (diff : Option Int) : State :=
  match diff with
  | some d =>
    if s.alignState == 3 && s.isStandby then { s with time := { s.time with nextLen := lenFor (foldErr d) } } else s
  | none => s

/-- STAGE_RELEASED (R502): reported IDLE and open in 256 frames in a row in which it was commanded so. -/
def execStageReleased (n : Fin 26) (s : State) : Out :=
  .next <|
    if vget s.zfb.under n && decide (256 ≤ vget s.zfb.idleFrames n) then
      { s with zfb := { s.zfb with under := vset s.zfb.under n false } }
    else s

/-! ## Reading registers -/

/-- The names of the registers that hold the lowest word of a quantity wider than 32 bits (R13); the upper word is at the next
address. -/
def lowNames : List String :=
  ["SNS_TIME_LO", "SNS_FRAME_LO", "HMP_TRIG_FRAME_LO", "FFW_ANCHOR_LO", "WGL_LANE_ARM_LO", "MDL_SLOT_CORES_LO", "CHN_STR_SNAP_LO",
   "EST_STR_QACC_LO", "EST_STR_QSNAP_LO", "SEC_AUDIT_LO", "FLT_FIRST_TIME_LO", "FLT_HIST_TIME_LO"]

/-- Is a register the lowest word of a wider quantity? -/
def isLowWord (a : Nat) : Bool :=
  match regRow a with
  | some r => lowNames.contains r.name
  | none => false

/-- The live value of a register (R38, R382). -/
def State.live (s : State) (a : Nat) : Word :=
  if a = Reg.SNS_TIME_LO then BitVec.ofNat 32 s.now
  else if a = Reg.SNS_TIME_HI then BitVec.ofNat 32 (s.now / 2 ^ 32)
  else if a = Reg.SNS_FRAME_LO then BitVec.ofNat 32 s.time.frame
  else if a = Reg.SNS_FRAME_HI then BitVec.ofNat 32 (s.time.frame / 2 ^ 32 % 65536)
  else s.rd a

/-- What a read by a master returns: the shadow of an upper word where there is one, otherwise the live value (R13). -/
def State.readAs (s : State) (master a : Nat) : Word :=
  match s.shadow.find? fun e => e.1 == master && e.2.1 == a with
  | some e => e.2.2
  | none => s.live a

/-- Latch the upper word of a quantity into a master's shadow (R13). -/
def State.latchShadow (s : State) (master a : Nat) : State :=
  if isLowWord a then
    { s with shadow := (master, a + 4, s.live (a + 4)) :: s.shadow.filter fun e => !(e.1 == master && e.2.1 == a + 4) }
  else s

/-- LOW_WORD_READ (R13). -/
def execLowWordRead (master : Fin 16) (addr : Nat) (s : State) : Out := .next <| s.latchShadow master addr

end Sys2Proof.Machine
end

