-- ==== Sys2Proof/Machine/Links.lean ====
section
/-! DEFINITION. The link layers (chapter 12): reception of stage telemetry (R339, R340), declaration words (R337, R503), training (R333,
R349), silent and unreachable stages, and bit-error testing (R352 to R355). -/

namespace Sys2Proof.Machine

def State.stl (s : State) (n : Fin 26) : StageLane := vget s.link.lanes n
def State.setStl (s : State) (n : Fin 26) (x : StageLane) : State := { s with link := { s.link with lanes := vset s.link.lanes n x } }

/-! ## Stage telemetry -/

/-- A valid telemetry frame of a stage lane enters the next frame's input set. -/
def State.enterTele (s : State) (n : Fin 26) (t : Telemetry) : State :=
  { s.setStl n { s.stl n with heard := true } with inp := { s.inp with nextTele := vset s.inp.nextTele n (some t) } }
/-- STAGE_TELEMETRY (R35, R339, R503): a frame whose reception completes at cycle `cyc` enters the next frame's input set when it is
valid; an invalid one is counted. A lane without a version in use takes none. -/
def execStageTelemetry (n : Fin 26) (cyc : Nat) (linkOk : Bool) (t : Telemetry) (s : State) : Out :=
  .next <|
    let s := s.atCycle cyc
    if !s.stageDecl n || s.get (Fd.STL_LANE_STAT_version n) == 0 then s
    else if !teleValid s n linkOk t then s.bump (Fd.STL_LANE_CNT_crc_err n)
    else s.enterTele n t

/-- A declaration word of the frame's inputs: adopted once it has been received equal in two rotations in a row (R337). -/
def State.adoptDecl (s : State) (n : Fin 26) (t : Telemetry) : State :=
  let i : Fin 8 := ⟨t.idx % 8, Nat.mod_lt _ (by decide)⟩
  let x := s.stl n
  let s := if vget x.cand i == some t.decl then s.wr (Reg.STL_DECL n i) t.decl else s
  s.setStl n { x with cand := vset x.cand i (some t.decl) }

/-- Take the telemetry of the frame's input set for one lane: last valid telemetry, gaps and unreachable frames (R340). `both` says that
neither module's set holds valid telemetry of the lane. -/
def State.takeTele (s : State) (n : Fin 26) (t : Option Telemetry) (both : Bool) : State :=
  let known := s.stageDecl n && (s.stl n).firstTrained.isSome
  let after := match (s.stl n).firstTrained with
    | some f => decide (f < s.time.frame)
    | none => false
  match t with
  | some x =>
    let s := { s with zfb := { s.zfb with tele := vset s.zfb.tele n (some x), teleNow := vset s.zfb.teleNow n true
                                          unreach := vset s.zfb.unreach n 0 } }
    (s.adoptDecl n x).setFlag (Fd.STL_LANE_STAT_unreach n) false
  | none =>
    let s := { s with zfb := { s.zfb with teleNow := vset s.zfb.teleNow n false } }
    let s := if known then s.bump (Fd.STL_LANE_CNT_gaps n) else s
    let un := known && after && both
    let s := { s with zfb := { s.zfb with unreach := vset s.zfb.unreach n (if un then vget s.zfb.unreach n + 1 else 0) } }
    s.setFlag (Fd.STL_LANE_STAT_unreach n) un

/-- Take the stage telemetry of the frame's input set (R340), in phase 2 of a test that of the standby's (R354). -/
def State.takeTelemetry (s : State) : State :=
  let set := s.laneSet
  let other : Option InputSet := if s.laneSet == s.inp.own then s.inp.partner else some s.inp.own
  (List.finRange 26).foldl (fun (s : State) (n : Fin 26) =>
    let gone := match other with
      | some o => (vget o.tele n).isNone
      | none => true
    s.takeTele n (vget set.tele n) gone) s

/-- The 64th unreachable frame in a row of a stage: it is fenced, and the fault recorded (R340). -/
def State.stageLost (s : State) (n : Fin 26) : State := (s.fenceUnit (stageUnit n)).record Blk.stl 0x10 2 (stageUnit n)
/-- STAGE_UNREACH (R340): 64 unreachable frames in a row fence the stage. -/
def execStageUnreach (n : Fin 26) (s : State) : Out :=
  .next <| if decide (64 ≤ vget s.zfb.unreach n) && !s.stageFenced n then s.stageLost n else s

/-! ## Training -/

/-- The line state in which a trained lane serves: ACTIVE with valid asserted, HOLD otherwise (R331). -/
def State.serveState (s : State) : Nat := if s.pins.valid then 2 else 3

/-- The result of an attempt (Table 12-3): 0, or the cause. `limit` is twice the delay limit of Table 12-1, in ns. -/
def trainCause (fail rttNs limit : Nat) (kindOk : Bool) (highest : Nat) : Nat :=
  if fail ≠ 0 then fail else if limit < rttNs then 2 else if !kindOk then 4 else if highest = 0 then 5 else 0

/-- The kind a stage lane's declaration must give (R334, Table 12-6). -/
def laneKind (n : Nat) : Nat := if n < 16 then 3 else if n < 22 then 2 else 1

/-- Are the lanes QUIET whatever is declared: in the safe state, and during a LINKS reset (Table 12-2)? No lane trains then. -/
def State.linksOff (s : State) : Bool := s.flt.safe || vget s.flt.rstOn 2

/-- An attempt of a stage lane is counted, with the round trip measured (R356). -/
def State.stageAttempt (s : State) (k : Fin 26) (rttNs : Nat) : State :=
  (s.bump (Fd.STL_LANE_CNT_trainings k)).put (Fd.STL_LANE_STAT_rtt_ns k) (min 65535 rttNs)
/-- An attempt of a stage lane fails with a cause (Table 12-3). -/
def State.stageFailed (s : State) (k : Fin 26) (cause : Nat) : State :=
  (s.put (Fd.STL_LANE_STAT_cause k) cause).put (Fd.STL_LANE_STAT_state k) 5
/-- The declaration words of a trained stage lane (R503). -/
def State.stageWords (s : State) (k : Fin 26) (decls : Vector Word 8) : State :=
  (List.finRange 8).foldl (fun (s : State) (i : Fin 8) => s.wr (Reg.STL_DECL k i) (vget decls i)) s
/-- The lane's run-time values after a successful attempt. -/
def State.stageTrained (s : State) (k : Fin 26) (decls : Vector Word 8) : State :=
  let x := s.stl k
  let s := s.setStl k { x with cand := Vector.ofFn fun i => some (vget decls i), silent := 0
                               firstTrained := some (x.firstTrained.getD s.time.frame) }
  { s with zfb := { s.zfb with lastPhase := vset s.zfb.lastPhase k none } }
/-- An attempt of a stage lane succeeds: it serves in the lesser version (R351), with the words declared. -/
def State.stageUp (s : State) (k : Fin 26) (decls : Vector Word 8) (high : Nat) : State :=
  let s := (s.put (Fd.STL_LANE_STAT_version k) (min 2 high)).setFlag (Fd.STL_LANE_STAT_decl_ok k) true
  ((s.put (Fd.STL_LANE_STAT_state k) s.serveState).stageWords k decls).stageTrained k decls
/-- The result of an attempt of a stage lane. -/
def stageCause (k : Fin 26) (rttNs fail : Nat) (d0 : Word) : Nat :=
  trainCause fail rttNs 400 (getBits d0 28 4 == laneKind k) (getBits d0 24 2)
/-- An attempt of a declared stage lane ends. -/
def State.trainStage (s : State) (k : Fin 26) (rttNs fail : Nat) (decls : Vector Word 8) : State :=
  let d0 := vget decls 0
  if stageCause k rttNs fail d0 ≠ 0 then (s.stageAttempt k rttNs).stageFailed k (stageCause k rttNs fail d0)
  else (s.stageAttempt k rttNs).stageUp k decls (getBits d0 24 2)

/-- An attempt of a Waggle lane is counted, with the round trip measured. -/
def State.trayAttempt (s : State) (t : Fin 16) (rttNs : Nat) : State :=
  (s.bump (Fd.WGL_LINK_CNT_trainings t)).put (Fd.WGL_LINK_STAT_rtt_ns t) (min 65535 rttNs)
/-- An attempt of a Waggle lane fails with a cause. -/
def State.trayFailed (s : State) (t : Fin 16) (cause : Nat) : State :=
  (s.put (Fd.WGL_LINK_STAT_cause t) cause).put (Fd.WGL_LINK_STAT_state t) 5
/-- An attempt of a Waggle lane succeeds: it serves in the lesser version. -/
def State.trayUp (s : State) (t : Fin 16) (highest : Nat) : State :=
  let s := (s.put (Fd.WGL_LANE_STAT_version t) (min 3 (highest % 4))).put (Fd.WGL_LINK_STAT_state t) s.serveState
  let s := { s with link := { s.link with waggleSilent := vset s.link.waggleSilent t 0 } }
  s.setLane t { s.lane t with goTrained := false }
/-- The result of an attempt of a Waggle lane. -/
def trayCause (rttNs fail highest : Nat) : Nat := trainCause fail rttNs 1000 true (highest % 4)
/-- An attempt of a declared Waggle lane ends. -/
def State.trainTray (s : State) (t : Fin 16) (rttNs fail highest : Nat) : State :=
  if trayCause rttNs fail highest ≠ 0 then (s.trayAttempt t rttNs).trayFailed t (trayCause rttNs fail highest)
  else (s.trayAttempt t rttNs).trayUp t highest

/-- LANE_TRAINING (R333, R351, R503): an attempt of lane `n` ends; 0 to 25 are the stage lanes, 26 to 41 the Waggle lanes. `fail` is the
cause of a step that ran out of its limit, `decls` are the declared words, `highest` is a tray's highest version. -/
def execLaneTraining (n : Fin 42) (rttNs : Nat) (fail : Fin 6) (decls : Vector Word 8) (highest : Nat) (s : State) : Out :=
  .next <|
    if s.linksOff then s
    else if h : n.val < 26 then
      let k : Fin 26 := ⟨n.val, h⟩
      if !s.stageDecl k then s else s.trainStage k rttNs fail decls
    else
      let t : Fin 16 := ⟨n.val - 26, by omega⟩
      if !s.laneDecl t then s else s.trainTray t rttNs fail highest

/-- LANE_SILENT (R333): a trained lane without a valid frame in 16 frames in a row returns to TRAIN. It keeps its version and words
(R503). -/
def execLaneSilent (n : Fin 42) (s : State) : Out :=
  .next <|
    if h : n.val < 26 then
      let k : Fin 26 := ⟨n.val, h⟩
      let st := s.get (Fd.STL_LANE_STAT_state k)
      if (st == 2 || st == 3) && decide (16 ≤ (s.stl k).silent) then s.put (Fd.STL_LANE_STAT_state k) 1 else s
    else
      let t : Fin 16 := ⟨n.val - 26, by omega⟩
      let st := s.get (Fd.WGL_LINK_STAT_state t)
      if (st == 2 || st == 3) && decide (16 ≤ vget s.link.waggleSilent t) then s.put (Fd.WGL_LINK_STAT_state t) 1 else s

/-- LANE_RETRAIN (R356): the write is stamped here, and the attempt starts in the next frame. -/
def execLaneRetrain (n : Fin 26) (s : State) : Out := .next <| s.enqueue (fieldWrite (Fd.STL_LANE_CTRL_retrain n) 1)

/-- The result of a training of the LOCK link (Table 12-3, with the delay limit of Table 12-1). -/
def lockCause (rttNs fail version : Nat) : Nat :=
  if fail ≠ 0 then fail else if 200 < rttNs then 2 else if version ≠ 1 then 5 else 0
/-- A training of the LOCK link ends with a result. -/
def State.trainLock (s : State) (rttNs cause : Nat) : State :=
  let s := s.put Fd.LKS_LOCK_STAT_rtt_ns (min 65535 rttNs)
  let s := if cause = 1 then s else s.put Fd.LKS_LOCK_STAT_lanes_up 0xF
  let s := { s with lks := { s.lks with lockUp := cause == 0 } }
  if cause ≠ 0 then (s.put Fd.LKS_LOCK_STAT_cause cause).put Fd.LKS_LOCK_STAT_state 5
  else s.put Fd.LKS_LOCK_STAT_state s.serveState
/-- LOCK_TRAINING (R349): the result of a training of the LOCK link; its one version is 1. -/
def execLockTraining (rttNs : Nat) (fail : Fin 6) (version : Nat) (s : State) : Out :=
  .next <| if s.linksOff then s else s.trainLock rttNs (lockCause rttNs fail version)

/-! ## Ticks -/

/-- Are all lanes QUIET: in the safe state, during a LINKS reset (Table 12-2), and in SLEEP and DEEP SLEEP (Table 15-5)? -/
def State.allQuiet (s : State) : Bool := s.flt.safe || vget s.flt.rstOn 2 || s.get Fd.CLK_PSTATE_state != 0

/-- The line state of a lane at a frame's start: QUIET where all lanes are, and while not declared (Table 12-2); otherwise training, serving,
or in a test. -/
def State.lineState (s : State) (declared : Bool) (st : Nat) : Nat :=
  if !declared || s.allQuiet then 0
  else if st = 0 then 1
  else if st = 5 && s.slowStart then 1
  else if st = 2 || st = 3 then s.serveState
  else st

/-- What the lanes do at a frame's start: own silent frames, and the line states. A lane that is no longer declared forgets its version
and its adopted words (R503). -/
def State.linkTick (s : State) : State :=
  let s := (List.finRange 26).foldl (fun (s : State) (n : Fin 26) =>
    let x := s.stl n
    let d := s.stageDecl n
    let s := if d || x.firstTrained.isNone then s.setStl n { x with silent := if x.heard then 0 else x.silent + 1, heard := false }
      else
        let s := ((s.setStl n .reset).put (Fd.STL_LANE_STAT_version n) 0).setFlag (Fd.STL_LANE_STAT_decl_ok n) false
        s.each 8 fun i s => s.wr (Reg.STL_DECL n i) 0
    let st := s.get (Fd.STL_LANE_STAT_state n)
    s.put (Fd.STL_LANE_STAT_state n) (s.lineState d st)) s
  let s := (List.finRange 16).foldl (fun (s : State) (t : Fin 16) =>
    let x := s.lane t
    let d := s.laneDecl t
    let q := if x.heard then 0 else vget s.link.waggleSilent t + 1
    let s := { s with link := { s.link with waggleSilent := vset s.link.waggleSilent t q } }
    let s := s.setLane t { x with heard := false }
    let s := if d then s else s.put (Fd.WGL_LANE_STAT_version t) 0
    s.put (Fd.WGL_LINK_STAT_state t) (s.lineState d (s.get (Fd.WGL_LINK_STAT_state t)))) s
  let ls := s.get Fd.LKS_LOCK_STAT_state
  let s := s.put Fd.LKS_LOCK_STAT_state (if s.allQuiet then 0 else if ls = 2 ∨ ls = 3 then s.serveState else ls)
  let f := s.link.bertFrames + 1
  let s := { s with link := { s.link with bertFrames := f } }
  s.put Fd.STL_BERT_STAT_hours (min 65535 (f / 900000000))

/-! ## Bit-error testing -/

/-- Is an own stage or Waggle lane part of the test that runs (R353, R354)? A single module tests its own lanes in phase 2. -/
def State.ownLanesTested (s : State) : Bool :=
  match s.link.bert with
  | .none => false
  | .commission => true
  | .phase 1 => s.isStandby
  | .phase 2 => !s.isStandby
  | .phase _ => false

/-- Are the LOCK lanes part of the test that runs? -/
def State.lockTested (s : State) : Bool :=
  match s.link.bert with
  | .commission => true
  | .phase n => n == 3
  | .none => false

/-- The line state of a lane that is put into TEST, or taken out of it. -/
def lineTested (on : Bool) (serve st : Nat) : Nat := if on then (if st = 2 ∨ st = 3 then 4 else st) else (if st = 4 then serve else st)
/-- The stage lanes put into TEST or taken out of it. -/
def State.testStages (s : State) (on : Bool) (serve : Nat) : State :=
  (List.finRange 26).foldl (fun (s : State) (n : Fin 26) =>
    s.put (Fd.STL_LANE_STAT_state n) (lineTested on serve (s.get (Fd.STL_LANE_STAT_state n)))) s
/-- The Waggle lanes put into TEST or taken out of it. -/
def State.testTrays (s : State) (on : Bool) (serve : Nat) : State :=
  (List.finRange 16).foldl (fun (s : State) (t : Fin 16) =>
    s.put (Fd.WGL_LINK_STAT_state t) (lineTested on serve (s.get (Fd.WGL_LINK_STAT_state t)))) s
/-- The LOCK lanes put into TEST or taken out of it. -/
def State.testLock (s : State) (on : Bool) (serve : Nat) : State :=
  s.put Fd.LKS_LOCK_STAT_state (lineTested on serve (s.get Fd.LKS_LOCK_STAT_state))
/-- Put the trained lanes of the present phase into TEST, or take them out of it. -/
def State.testLanes (s : State) (on : Bool) : State :=
  let serve := s.serveState
  let s := if !on || s.ownLanesTested then (s.testStages on serve).testTrays on serve else s
  if !on || s.lockTested then s.testLock on serve else s

/-- The code of STL_BERT_STAT.phase. -/
def BertRun.code : BertRun → Nat
  | .none => 0
  | .commission => 4
  | .phase n => n
/-- A phase is entered in the present frame. -/
def State.enterPhase (s : State) (b : BertRun) : State :=
  { s with link := { s.link with bert := b, bertStart := s.time.frame, passHold := s.link.passHold || (b == BertRun.phase 3) } }
/-- Start a phase (R354); the code 0 ends the test. -/
def State.startPhase (s : State) (b : BertRun) : State := ((s.enterPhase b).put Fd.STL_BERT_STAT_phase b.code).testLanes true

/-- COMMISSION (R353): refused while a stage is under command; otherwise the write is stamped here. -/
def execCommission (s : State) : Out :=
  .next <| if s.anyUnder then s else s.enqueue (fieldWrite Fd.STL_BERT_CTRL_commission 1)

/-- BERT_ABORT (R356): the write is stamped here. -/
def execBertAbort (s : State) : Out := .next <| s.enqueue (fieldWrite Fd.STL_BERT_CTRL_abort 1)

/-- The commission and abort bits of a write to STL_BERT_CTRL, as they act. -/
def State.bertWrite (s : State) (commission abort : Bool) : State :=
  let s := if abort && s.link.bert != .none then (s.testLanes false).startPhase .none else s
  if commission && !s.anyUnder && s.link.bert == .none then s.startPhase .commission else s

/-- Judge a stage lane in TEST: both counts, and the result (R352). -/
def State.judgeStage (errs : Vector (Nat × Nat) 46) (s : State) (n : Fin 26) : State :=
  if s.get (Fd.STL_LANE_STAT_state n) != 4 then s else
  let e := vget errs ⟨n.val, by omega⟩
  ((s.put (Fd.STL_LANE_BER_rx_err n) (min 65535 e.1)).put (Fd.STL_LANE_BER_stage_err n) (min 255 e.2)).setFlag
    (Fd.STL_LANE_STAT_test_fail n) (e.1 + e.2 != 0)
/-- The counts and the result of a Waggle lane. -/
def State.trayErrors (s : State) (t : Fin 16) (n : Nat) : State :=
  (s.wr (Reg.WGL_LINK_BER t) (BitVec.ofNat 32 (min (2 ^ 32 - 1) n))).setFlag (Fd.WGL_LINK_STAT_test_fail t) (n != 0)
/-- Judge a Waggle lane in TEST: a failed one is recorded (R355). -/
def State.judgeTray (errs : Vector (Nat × Nat) 46) (s : State) (t : Fin 16) : State :=
  if s.get (Fd.WGL_LINK_STAT_state t) != 4 then s else
  let e := vget errs ⟨26 + t.val, by omega⟩
  if e.1 + e.2 != 0 then (s.trayErrors t (e.1 + e.2)).record Blk.wgl 0x14 1 (0xE00 + t) else s.trayErrors t (e.1 + e.2)
/-- Judge the own stage and Waggle lanes in TEST (R352, R355). `errs` gives for each lane the module's and the partner's count. -/
def State.judgeLanes (s : State) (errs : Vector (Nat × Nat) 46) : State :=
  (List.finRange 16).foldl (State.judgeTray errs) ((List.finRange 26).foldl (State.judgeStage errs) s)

/-- Judge the LOCK lanes in TEST. -/
def State.judgeLock (s : State) (errs : Vector (Nat × Nat) 46) : State :=
  if s.get Fd.LKS_LOCK_STAT_state != 4 then s else
  (List.finRange 4).foldl (fun (s : State) (l : Fin 4) =>
    let e := vget errs ⟨42 + l.val, by omega⟩
    let s := s.wr (Reg.LKS_LOCK_BER l) (BitVec.ofNat 32 (min (2 ^ 32 - 1) (e.1 + e.2)))
    if e.1 + e.2 != 0 then s.record Blk.lks 0x12 1 (0xF00 + l) else s) s

/-- The test completes: the hours start again (R354). -/
def State.bertComplete (s : State) : State :=
  let s := { s with link := { s.link with bertFrames := 0 } }
  (s.put Fd.STL_BERT_STAT_hours 0).setFlag Fd.STL_BERT_STAT_overdue false

/-- The lanes of the phase that ends are judged, and return to service. -/
def State.phaseJudged (s : State) (errs : Vector (Nat × Nat) 46) : State := ((s.judgeLanes errs).judgeLock errs).testLanes false
/-- What follows a phase of the test (R353, R354). -/
def State.nextPhase (s : State) (b : BertRun) : State :=
  match b with
  | .phase 1 => s.startPhase (.phase 2)
  | .phase 2 => if s.lks.partnerValid then s.startPhase (.phase 3) else (s.startPhase .none).bertComplete
  | _ => (s.startPhase .none).bertComplete
/-- BERT_PHASE_END (R352 to R355): the lanes of the phase are judged and return to service, and the next phase follows, or the test
completes. -/
def execBertPhaseEnd (errs : Vector (Nat × Nat) 46) (s : State) : Out :=
  .next <| if s.link.bert == .none then s else (s.phaseJudged errs).nextPhase s.link.bert

/-- The window a grant of R354 opens: the phases start where the window holds them all and a test is due. -/
def State.bertGrant (s : State) (seconds : Nat) : State :=
  let dueNow := decide (24 ≤ s.get Fd.STL_BERT_STAT_hours)
  let pair := s.lks.partnerValid
  let need := if pair then 50 else 20
  let may := if pair then s.flag Fd.LKS_STAT_synced || s.lks.claimant else !s.anyUnder
  let s := { s with link := { s.link with bertWindow := seconds } }
  if dueNow && may && decide (need ≤ seconds) && s.link.bert == .none then s.startPhase (.phase (if pair then 1 else 2)) else s

/-- A test is 48 h overdue: it is shown, and noted. -/
def State.bertLate (s : State) : State := (s.setFlag Fd.STL_BERT_STAT_overdue true).record Blk.stl 0x11 0 0
/-- BERT_OVERDUE (R354): a test falls due 24 h after the last completed one, and is 48 h overdue 72 h after it. -/
def execBertOverdue (s : State) : Out :=
  .next <| if decide (72 ≤ s.get Fd.STL_BERT_STAT_hours) && !s.flag Fd.STL_BERT_STAT_overdue then s.bertLate else s

end Sys2Proof.Machine
end

