-- ==== Sys2Proof/Machine/Aedine.lean ====
section
/-! DEFINITION. The Aedine array beside its passes (chapter 07): core states, fences and self-test (R217 to R219), the level sequencer
(R211, R212), droops (R213, R214), the thermal cap (R215), and the scrubber (R202, R204). -/

namespace Sys2Proof.Machine

/-! ## Cores -/

def State.core (s : State) (k : Fin 48) : CoreRt := vget s.arr.cores k
def State.setCore (s : State) (k : Fin 48) (c : CoreRt) : State := { s with arr := { s.arr with cores := vset s.arr.cores k c } }
def State.coreState (s : State) (k : Nat) : Nat := s.get (Fd.ADN_CORE_STAT_state k)
/-- Is a core IDLE or OFF, and so free? -/
def State.coreFree (s : State) (k : Nat) : Bool := decide (s.coreState k ≤ 1)
/-- Is the COMPUTE domain in reset? -/
def State.computeDown (s : State) : Bool := vget s.flt.rstOn 1

/-- The counts of ADN_STAT. -/
def State.countCores (s : State) : State :=
  let n (p : Nat → Bool) : Nat := ((List.range 48).filter fun k => p (s.coreState k)).length
  (((s.put Fd.ADN_STAT_n_fenced (n (· == 6))).put Fd.ADN_STAT_n_test (n (· == 5))).put Fd.ADN_STAT_n_bound
    (n fun x => decide (2 ≤ x ∧ x ≤ 4))).put Fd.ADN_STAT_n_free (n fun x => decide (x ≤ 1))

/-- A core becomes free: IDLE, or OFF under gate_idle; its weights are lost. -/
def State.freeCore (s : State) (k : Fin 48) : State :=
  ((s.put (Fd.ADN_CORE_STAT_state k) (if s.flag Fd.ADN_CTRL_gate_idle then 0 else 1)).put (Fd.ADN_CORE_STAT_slot k) 0x3F).setCore k .reset

/-- A core is fenced with a cause (R218); it serves no slot. -/
def State.fenceCoreNow (s : State) (k : Fin 48) (cause : Nat) : State :=
  (((s.fenceCore k cause).put (Fd.ADN_CORE_STAT_slot k) 0x3F).setCore k .reset).countCores

/-- The fence and unfence bits of a write to ADN_CORE_CTRL, as they act (R218, R219). -/
def State.coreCtrl (s : State) (k : Fin 48) (fence unfence : Bool) : State :=
  if fence then
    if s.coreState k == 4 then s.setCore k { s.core k with fencePend := true } else s.fenceCoreNow k 3
  else if unfence && s.coreState k == 6 then
    ((s.put (Fd.ADN_CORE_STAT_state k) 1).put (Fd.ADN_CORE_STAT_fence_cause k) 0).countCores
  else s

/-- A write of test_run, as it acts: 1 puts an IDLE core in TEST and has no effect on another; 0 lets the core leave at the end of its
set (R217, R219). -/
def State.testRun (s : State) (k : Fin 48) (run : Bool) : State :=
  if run then
    if s.coreState k == 1 then ((s.setFlag (Fd.ADN_CORE_TEST_test_run k) true).put (Fd.ADN_CORE_STAT_state k) 5).countCores else s
  else s.setFlag (Fd.ADN_CORE_TEST_test_run k) false

/-- CORE_FENCE (R218): the write is stamped here. -/
def execCoreFence (k : Fin 48) (s : State) : Out := .next <| s.enqueue (fieldWrite (Fd.ADN_CORE_CTRL_fence k) 1)
/-- CORE_UNFENCE (R218). -/
def execCoreUnfence (k : Fin 48) (s : State) : Out := .next <| s.enqueue (fieldWrite (Fd.ADN_CORE_CTRL_unfence k) 1)
/-- CORE_TEST_START (R217). -/
def execCoreTestStart (k : Fin 48) (s : State) : Out := .next <| s.enqueue (fieldWrite (Fd.ADN_CORE_TEST_test_run k) 1)

/-- The end of a set without mismatch: it is counted, and a core that is to leave does so. -/
def State.testPassed (s : State) (k : Fin 48) : State :=
  if s.flag (Fd.ADN_CORE_TEST_test_run k) then s.bump (Fd.ADN_CORE_TEST_sets k)
  else ((s.bump (Fd.ADN_CORE_TEST_sets k)).put (Fd.ADN_CORE_STAT_state k) 1).countCores
/-- A mismatch fences the core with cause TEST. -/
def State.testFailed (s : State) (k : Fin 48) : State :=
  (((s.setFlag (Fd.ADN_CORE_TEST_fail k) true).setFlag (Fd.ADN_CORE_TEST_test_run k) false).fenceCoreNow k 2).record Blk.adn 0x11 2 (0xA00 + k)
/-- CORE_TEST_SET_END (R217): a set without mismatch is counted; a mismatch fences the core with cause TEST. -/
def execCoreTestSetEnd (k : Fin 48) (crcOk : Bool) (s : State) : Out :=
  .next (if s.coreState k == 5 then (if crcOk then s.testPassed k else s.testFailed k) else s)

/-! ## Levels -/

/-- The phase the sequencer stands in, frozen or not. -/
def State.seqPhase (s : State) : Nat :=
  let p := s.get Fd.CLK_ADN_SEQ_phase
  if p = 6 then s.arr.seq.frozen else p
/-- The cycles its phase has run. -/
def State.seqElapsed (s : State) : Nat := if s.get Fd.CLK_ADN_SEQ_phase = 6 then s.arr.seq.ran else s.now - s.arr.seq.start

/-- The array clock before the droop divider, MHz (R212): slews of 20 MHz/µs are 2 MHz in 25 cycles. -/
def State.arrayMhz (s : State) : Nat :=
  let l := s.get Fd.CLK_ADN_LEVEL_present
  let d := min 160 (s.seqElapsed * 2 / 25)
  match s.seqPhase with
  | 3 => levelMhz l + d
  | 4 => levelMhz (l + 1) - d
  | _ => levelMhz l

/-- The rail target, mV (R212): 5 mV/µs is 1 mV in 50 cycles. -/
def State.railTarget (s : State) : Nat :=
  let l := s.get Fd.CLK_ADN_LEVEL_present
  let d := min 50 (s.seqElapsed / 50)
  match s.seqPhase with
  | 1 => levelMv l + d
  | 2 => levelMv (l + 1)
  | 3 => levelMv (l + 1)
  | 4 => levelMv (l + 1)
  | 5 => levelMv (l + 1) - d
  | _ => levelMv l

/-- A phase starts its time now. -/
def State.seqMark (s : State) : State := { s with arr := { s.arr with seq := { s.arr.seq with start := s.now, ran := 0 } } }
/-- Enter a phase now. -/
def State.seqEnter (s : State) (p : Nat) : State := s.seqMark.put Fd.CLK_ADN_SEQ_phase p
/-- The lowest level of the forecast frame. -/
def State.levelSeen (s : State) : State :=
  { s with arr := { s.arr with fcMinLevel := min s.arr.fcMinLevel (s.get Fd.CLK_ADN_LEVEL_present) } }

/-- The next step towards `eff` from level `l`, or the end of the last one (R212). The present level is the lower of the two of a step. -/
def State.seqGo (s : State) (l eff : Nat) : State :=
  if l < eff then (s.setFlag Fd.CLK_ADN_LEVEL_busy true).seqEnter 1
  else if eff < l then ((s.put Fd.CLK_ADN_LEVEL_present (l - 1)).setFlag Fd.CLK_ADN_LEVEL_busy true).seqEnter 4
  else (s.setFlag Fd.CLK_ADN_LEVEL_busy false).seqEnter 0
/-- Show the array clock. -/
def State.showMhz (s : State) (mhz : Nat) : State := s.put Fd.CLK_ADN_SEQ_freq_mhz mhz
/-- The next step towards eff. -/
def State.seqNext (s : State) : State :=
  let t := (s.seqGo (s.get Fd.CLK_ADN_LEVEL_present) (s.get Fd.CLK_ADN_LEVEL_eff)).levelSeen
  t.showMhz t.arrayMhz

/-- The cap of R211: the lesser of the thermal cap and the droop cap. -/
def State.capLevel (s : State) : Nat := min (s.get Fd.CLK_ADN_THERM_therm_cap) (s.get Fd.CLK_ADN_DROOP_droop_cap)
/-- The effective level of R211. -/
def State.effLevel (s : State) : Nat :=
  min (min (max (min 5 (s.get Fd.CLK_ADN_LEVEL_target)) (s.get Fd.CLK_ADN_LEVEL_floor)) (min 5 (s.get Fd.CLK_ADN_LEVEL_max_level))) s.capLevel
/-- Is the floor above what the caps allow (R211)? -/
def State.floorAbove (s : State) : Bool := decide (min (min 5 (s.get Fd.CLK_ADN_LEVEL_max_level)) s.capLevel < s.get Fd.CLK_ADN_LEVEL_floor)
/-- Show eff, the cap, and a floor conflict. -/
def State.setEff (s : State) (eff cap : Nat) (conflict droop : Bool) : State :=
  { s with arr := { s.arr with fcConflict := s.arr.fcConflict || conflict } }.put Fd.CLK_ADN_LEVEL_eff eff |>.put
    Fd.CLK_ADN_LEVEL_cap cap |>.setFlag Fd.CLK_ADN_LEVEL_floor_conflict conflict |>.setFlag Fd.CLK_ADN_DROOP_cap_active droop
def State.showEff (s : State) : State := s.setEff s.effLevel s.capLevel s.floorAbove (decide (s.get Fd.CLK_ADN_DROOP_droop_cap < 5))
/-- Note a floor conflict as it arises. -/
def State.noteConflict (s : State) (was : Bool) : State :=
  if s.flag Fd.CLK_ADN_LEVEL_floor_conflict && !was then s.record Blk.clk 0x10 1 0 else s
/-- Start towards eff where the sequencer is IDLE. -/
def State.seqStart (s : State) : State :=
  if s.get Fd.CLK_ADN_SEQ_phase == 0 && s.get Fd.CLK_ADN_LEVEL_eff != s.get Fd.CLK_ADN_LEVEL_present then s.seqNext else s

/-- Form eff from its terms (R211), note a floor conflict, and start towards it where the sequencer is IDLE. -/
def State.updateEff (s : State) : State := (s.showEff.noteConflict (s.flag Fd.CLK_ADN_LEVEL_floor_conflict)).seqStart

/-- The rail measured at a cycle of the frame. -/
def State.railRead (s : State) (cyc mv : Nat) : State := (s.atCycle cyc).put Fd.CLK_ADN_SEQ_rail_mv mv
/-- Is the rail within 10 mV of its target? -/
def State.railNear (s : State) (mv : Nat) : Bool := decide (mv ≤ s.railTarget + 10 ∧ s.railTarget ≤ mv + 10)
/-- The end of a rise of the clock: the step is done. -/
def State.seqRisen (s : State) : State := (s.put Fd.CLK_ADN_LEVEL_present (s.get Fd.CLK_ADN_LEVEL_present + 1)).seqNext
/-- The end of a fall of the clock: the rail follows. -/
def State.seqFallen (s : State) : State := (s.seqEnter 5).put Fd.CLK_ADN_SEQ_freq_mhz (levelMhz (s.get Fd.CLK_ADN_LEVEL_present))

/-- The end of a phase that has run its time. -/
def State.seqEnd (s : State) (mv : Nat) : State :=
  match s.get Fd.CLK_ADN_SEQ_phase with
  | 1 => if 2500 ≤ s.seqElapsed then s.seqEnter 2 else s
  | 2 => if decide (1000 ≤ s.seqElapsed) && s.railNear mv then s.seqEnter 3 else s
  | 3 => if 2000 ≤ s.seqElapsed then s.seqRisen else s
  | 4 => if 2000 ≤ s.seqElapsed then s.seqFallen else s
  | 5 => if decide (2500 ≤ s.seqElapsed) && s.railNear mv then s.seqNext else s
  | _ => s
/-- SEQUENCER_PHASE_END (R212): at cycle `cyc` of the frame, with the rail measured at `mv`. A phase that has not run its time, or a rail
not within 10 mV of its target where the phase asks for it, goes on. -/
def execSequencerPhaseEnd (cyc mv : Nat) (s : State) : Out := .next ((s.railRead cyc mv).seqEnd mv)

/-- Vd of R213, mV: 30 below the rail voltage of the lowest level whose clock is at least the present one. -/
def State.droopThreshold (s : State) : Nat := levelMv (ceilDiv (s.arrayMhz - 400) 160) - 30

/-- Freeze the sequencer where it stands. -/
def State.seqFreeze (s : State) : State :=
  { s with arr := { s.arr with seq := { s.arr.seq with ran := s.seqElapsed, frozen := s.get Fd.CLK_ADN_SEQ_phase }, fcDroop := true } }
/-- A droop begins: the sequencer is frozen, the clock halved, and the trip counted and recorded. -/
def State.enterDroop (s : State) : State :=
  (((((s.put Fd.CLK_ADN_SEQ_freq_mhz s.arrayMhz).seqFreeze.put Fd.CLK_ADN_SEQ_phase 6).setFlag Fd.CLK_ADN_DROOP_active true).setFlag
    Fd.CLK_ADN_DROOP_tripped true).bump Fd.CLK_ADN_DROOP_trips).bumpSat Fd.CLK_ADN_DROOP_trips_slow |>.record Blk.clk 0x11 0 0
/-- The 17th trip of a slow frame sets the cap one level below the present one (R214). -/
def State.droopCap (s : State) : State :=
  if s.get Fd.CLK_ADN_DROOP_trips_slow == 17 then
    ((s.put Fd.CLK_ADN_DROOP_droop_cap (s.get Fd.CLK_ADN_LEVEL_present - 1)).record Blk.clk 0x12 1 0).updateEff
  else s
/-- Does the rail, measured at `mv`, begin a droop; end one? -/
def State.droops (s : State) (mv : Nat) : Bool := !s.flag Fd.CLK_ADN_DROOP_active && decide (mv < s.droopThreshold)
def State.recovers (s : State) (mv : Nat) : Bool := s.flag Fd.CLK_ADN_DROOP_active && decide (s.droopThreshold + 15 ≤ mv)

/-- DROOP_TRIP (R213, R214): the rail below Vd halves the clock and freezes the sequencer. The 17th trip of a slow frame sets the cap. -/
def execDroopTrip (cyc mv : Nat) (s : State) : Out :=
  .next (if (s.railRead cyc mv).droops mv then (s.railRead cyc mv).enterDroop.droopCap else s.railRead cyc mv)

/-- The droop cap returns to L5 (R214). -/
def State.capReturn (s : State) : State :=
  ({ s with arr := { s.arr with seq := { s.arr.seq with capClear := false } } }.put Fd.CLK_ADN_DROOP_droop_cap 5).updateEff

/-- The sequencer goes on where it was frozen. -/
def State.seqThaw (s : State) : State := { s with arr := { s.arr with seq := { s.arr.seq with start := s.now - s.arr.seq.ran } } }
/-- A droop ends: the sequencer goes on where it stood. -/
def State.leaveDroop (s : State) : State :=
  ((s.setFlag Fd.CLK_ADN_DROOP_active false).put Fd.CLK_ADN_SEQ_phase s.arr.seq.frozen).seqThaw
/-- DROOP_CLEAR (R213, R214): the rail has stayed at or above Vd + 15 mV for 2 µs. -/
def execDroopClear (cyc mv : Nat) (s : State) : Out :=
  .next <|
    if (s.railRead cyc mv).recovers mv then
      if s.arr.seq.capClear then (s.railRead cyc mv).leaveDroop.capReturn else (s.railRead cyc mv).leaveDroop.updateEff
    else s.railRead cyc mv

/-- CAP_CLEAR (R214): the write is stamped here. -/
def execCapClear (s : State) : Out := .next <| s.enqueue (fieldWrite Fd.CLK_ADN_DROOP_cap_clear 1)

/-- A write of cap_clear, as it acts: during a droop, when the droop clears. -/
def State.capClear (s : State) : State :=
  if s.flag Fd.CLK_ADN_DROOP_active then { s with arr := { s.arr with seq := { s.arr.seq with capClear := true } } } else s.capReturn

/-- Take a reading of the hottest array junction sensor, in 0.125 °C. -/
def State.junction (s : State) (tj : Int) : State :=
  { s with arr := { s.arr with hotSlow := s.arr.hotSlow || decide (760 < tj) } }.put Fd.CLK_ADN_THERM_tj (toBits 16 tj)

/-- The thermal cap of a junction temperature, in 0.125 °C: L3 from 100 °C, L0 from 103 °C. -/
def thermCap (tj : Int) : Nat := if 824 ≤ tj then 0 else if 800 ≤ tj then 3 else 5
/-- Set the thermal cap. -/
def State.setTherm (s : State) (cap : Nat) : State := s.put Fd.CLK_ADN_THERM_therm_cap cap
/-- THERMAL_CAP_LOWER (R215). -/
def execThermalCapLower (tj : Int) (s : State) : Out :=
  .next <|
    if thermCap tj < s.get Fd.CLK_ADN_THERM_therm_cap then (((s.junction tj).setTherm (thermCap tj)).record Blk.clk 0x13 1 0).updateEff
    else s.junction tj

/-- THERMAL_CAP_RESTORE (R215): at a slow-frame boundary after a whole slow frame at 95 °C or less. -/
def execThermalCapRestore (tj : Int) (s : State) : Out :=
  .next <|
    if s.slowStart && !s.arr.hotPrev && decide (tj ≤ 760) && decide (s.get Fd.CLK_ADN_THERM_therm_cap < 5) then ((s.junction tj).setTherm 5).updateEff
    else s.junction tj

/-! ## Scrubbing -/

/-- A flipped word of a core's weight SRAM is read (R204): one bit is corrected, more fence the core. -/
def State.weightWord (s : State) (e : Nat × Nat × Nat) : State :=
  if h : e.1 < 48 then
    let k : Fin 48 := ⟨e.1, h⟩
    if e.2.2 ≤ 1 then
      ((s.bumpSat (Fd.ADN_CORE_STAT_ce_count k)).bump Fd.ADN_ECC_STAT_corrected).record Blk.adn 0x13 0 (0xA00 + k)
    else ((s.bumpSat Fd.ADN_ECC_STAT_uncorr_w).fenceCoreNow k 1).record Blk.adn 0x10 2 (0xA00 + k)
  else s

/-- Does a flipped word stand where the scrubber is, in a core whose weights are held? -/
def State.scrubHit (s : State) (e : Nat × Nat × Nat) : Bool := e.2.1 == s.arr.scrub && decide (2 ≤ s.coreState e.1 ∧ s.coreState e.1 ≤ 4)
/-- The scrubber goes on to the next word, the flipped words it met corrected. -/
def State.scrubOn (s : State) : State :=
  { s with arr := { s.arr with scrub := (s.arr.scrub + 1) % 131072, eccW := s.arr.eccW.filter fun e => !s.scrubHit e } }
/-- SCRUB_WORD (R202, R204): the next word of every core's weight SRAM is read and corrected. -/
def execScrubWord (s : State) : Out :=
  .next (if s.flag Fd.ADN_CTRL_scrub_en && !s.computeDown then (s.arr.eccW.filter s.scrubHit).foldl State.weightWord s.scrubOn else s)

end Sys2Proof.Machine
end

