-- ==== Sys2Proof/Machine/Baskets.lean ====
section
/-! DEFINITION. Baskets (chapter 08): the format of packages (R221 to R226), binding and admission (R228 to R231), requests (R232), loading
(R233), passes, commits, overruns and quarantine (R234 to R237), and the re-admission after a COMPUTE reset (R238). -/

namespace Sys2Proof.Machine

def State.slot (s : State) (i : Fin 32) : SlotRt := vget s.arr.slots i
def State.setSlot (s : State) (i : Fin 32) (x : SlotRt) : State := { s with arr := { s.arr with slots := vset s.arr.slots i x } }
def State.slotState (s : State) (i : Nat) : Nat := s.get (Fd.MDL_SLOT_STAT_state i)
/-- Is a slot LOADING, RUNNING or SUSPENDED? -/
def State.admitted (s : State) (i : Nat) : Bool := decide (2 ≤ s.slotState i ∧ s.slotState i ≤ 4)

/-! ## Packages -/

/-- `n` bytes of a package at an offset, as a number (R5). -/
def pkgNum (b : List Nat) (off n : Nat) : Nat := beNat ((b.drop off).take n)

/-- A channel identifier of Table 08-3 (R225). -/
def chanOk (id : Nat) : Bool :=
  let i := id % 4096
  match id / 4096 with
  | 0 => decide (i < 24)
  | 1 => decide (i < 208 ∧ i % 8 < 6)
  | 2 => decide (i < 112 ∧ i % 16 < 14)
  | 3 => decide (i < 128 ∧ i % 8 < 6)
  | 4 => decide (i < 16)
  | 5 => decide (i < 672)
  | 6 => decide (i < 48 ∧ i % 16 < 14)
  | 7 => decide (i < 678)
  | 8 => decide (i < 672)
  | _ => false

def fmtOf (n : Nat) : Option ArrFmt := if n = 0 then some .bf8 else if n = 1 then some .bf16 else none

/-- One input declaration and the offset after it (R224). The format byte is 0 BF8, 2 BF16. -/
def readInput (b : List Nat) (off : Nat) : Option (InDecl × Nat) :=
  let fmt := pkgNum b (off + 2) 1
  let c := pkgNum b (off + 4) 2
  let rows := pkgNum b off 1
  let span := pkgNum b (off + 1) 1
  let ids := (List.range c).map fun i => pkgNum b (off + 16 + 2 * i) 2
  if decide (4 ≤ rows ∧ rows ≤ 8 ∧ span ≤ 3 ∧ 1 ≤ c ∧ c ≤ 512) && (fmt == 0 || fmt == 2) && ids.all chanOk then
    some ({ rowsLog2 := rows, span := span, fmt := if fmt = 0 then .bf8 else .bf16, chans := ids }, off + 16 + (2 * c + 3) / 4 * 4)
  else none

def readInputs (b : List Nat) : Nat → Nat → Option (List InDecl)
  | 0, _ => some []
  | n + 1, off => match readInput b off with
    | none => none
    | some (d, o) => (readInputs b n o).map (d :: ·)

/-- One core entry (Table 08-2); none where R223 refuses it. `area` is the length of the weight area. -/
def readCore (b : List Nat) (off area : Nat) : Option CoreEntry :=
  let e : CoreEntry := { localCyc := pkgNum b off 4, remoteCyc := pkgNum b (off + 4) 4, weightBytes := pkgNum b (off + 8) 4
                         weightOff := pkgNum b (off + 12) 4, crc := BitVec.ofNat 32 (pkgNum b (off + 16) 4) }
  if e.localCyc ≤ e.remoteCyc ∧ e.weightBytes ≤ 1048576 ∧ e.weightOff + e.weightBytes ≤ area then some e else none

def readCores (b : List Nat) (area : Nat) : Nat → Nat → Option (List CoreEntry)
  | 0, _ => some []
  | n + 1, off => match readCore b off area with
    | none => none
    | some e => (readCores b area n (off + 32)).map (e :: ·)

/-- The variant descriptors, each followed by its core table and starting on a 64-byte boundary (R221, R223). -/
def readVariants (b : List Nat) (area : Nat) : Nat → Nat → Option (List BasketVariant)
  | 0, _ => some []
  | n + 1, off =>
    let c := pkgNum b off 1
    if 1 ≤ c ∧ c ≤ 48 then
      match readCores b area c (off + 64) with
      | none => none
      | some es => (readVariants b area n ((off + 64 + 32 * c + 63) / 64 * 64)).map ({ actBytes := pkgNum b (off + 4) 4, entries := es } :: ·)
    else none

def readOutput (b : List Nat) (off : Nat) : Option OutDecl :=
  let d : OutDecl := { kind := pkgNum b off 1, idx := pkgNum b (off + 1) 1, fmt := pkgNum b (off + 2) 1, count := pkgNum b (off + 4) 4
                       nameId := pkgNum b (off + 8) 2 }
  let ok := match d.kind with
    | 1 => d.idx == 0 && d.count == 1024
    | 2 => decide (d.idx < 4)
    | 3 => d.idx == 0
    | 4 => d.idx == 0 && decide (d.count ≤ 4096)
    | _ => false
  if ok then some d else none

def readOutputs (b : List Nat) : Nat → Nat → Option (List OutDecl)
  | 0, _ => some []
  | n + 1, off => match readOutput b off with
    | none => none
    | some d => (readOutputs b n (off + 16)).map (d :: ·)

/-- A package as its bytes give it (Tables 08-1 and 08-2); none where R222, R223 or R225 refuses it with FORMAT. -/
def readPkg (b : List Nat) : Option Pkg :=
  let flags := pkgNum b 6 2
  let vs := pkgNum b 0x38 1
  let period := pkgNum b 0x39 1
  let phase := pkgNum b 0x3A 1
  let ni := pkgNum b 0x3C 2
  let no := pkgNum b 0x3E 2
  let sig := pkgNum b 0xC 4
  let woff := pkgNum b 0x50 4
  let headOk := pkgNum b 0 4 == 0x46424B54 && pkgNum b 4 2 == 1 && decide (flags ≤ 1) && pkgNum b 8 4 == b.length
    && decide (1 ≤ vs ∧ vs ≤ 4) && ((period == 1 && phase == 0) || (period == 16 && decide (phase < 16)))
    && decide (1 ≤ ni ∧ ni ≤ 8) && decide (1 ≤ no ∧ no ≤ 8) && decide (woff ≤ sig ∧ sig + 2430 ≤ b.length) && pkgNum b (sig + 8) 2 == 2420
  if !headOk then none else
  match readVariants b (sig - woff) vs 0x80, readInputs b ni (pkgNum b 0x40 4), readOutputs b no (pkgNum b 0x44 4) with
  | some v, some i, some o =>
    some { standard := flags == 1, version := BitVec.ofNat 32 (pkgNum b 0x30 4), findi := BitVec.ofNat 32 (pkgNum b 0x34 4)
           period := period, phase := phase, variants := v, ins := i, outs := o, keyId := (b.drop sig).take 8 }
  | _, _, _ => none

/-! ## Resources -/

/-- The bytes of a telemetry frame (R205). -/
def InDecl.bytes (d : InDecl) : Nat := 2 ^ d.rowsLog2 * ceilDiv d.chans.length 16 * d.fmt.bytes

/-- The distinct telemetry frames of a list of baskets, each with the bank of the basket that reads it first (R224). -/
def distinctFrames : List (Nat × List InDecl) → List (Nat × InDecl) → List (Nat × InDecl)
  | [], acc => acc
  | (bank, ds) :: t, acc =>
    distinctFrames t (ds.foldl (fun acc d => if acc.any (fun e => e.2 == d) then acc else acc ++ [(bank, d)]) acc)

/-- The admitted baskets other than `except`, in slot order: slot, bank, package, activation KiB. -/
def State.admittedSlots (s : State) (except : Option Nat) : List (Nat × Nat × Pkg × Nat) :=
  ((List.finRange 32).filter fun (i : Fin 32) => s.admitted i && except != some i.val).filterMap fun (i : Fin 32) =>
    (s.slot i).pkg.map fun p => (i.val, (s.slot i).bank, p, (s.slot i).actKib)

def State.framesOf (s : State) (except : Option Nat) : List (Nat × InDecl) :=
  distinctFrames ((s.admittedSlots except).map fun e => (e.2.1, e.2.2.1.ins)) []

/-- The bytes allocated in an activation bank. -/
def State.bankUsed (s : State) (except : Option Nat) (q : Nat) : Nat :=
  ((s.admittedSlots except).filter fun e => e.2.1 == q).foldl (fun n e => n + 1024 * e.2.2.2) 0
    + ((s.framesOf except).filter fun e => e.1 == q).foldl (fun n e => n + e.2.bytes) 0

/-- The new telemetry frames that a package would add. -/
def State.newFrames (s : State) (except : Option Nat) (p : Pkg) : List InDecl :=
  let have' := (s.framesOf except).map (·.2)
  p.ins.foldl (fun acc d => if have'.contains d || acc.contains d then acc else acc ++ [d]) []

/-- The level at which admission is tested: min(max_level, cap) (R229). -/
def State.admLevel (s : State) : Nat := min (min 5 (s.get Fd.CLK_ADN_LEVEL_max_level)) (s.get Fd.CLK_ADN_LEVEL_cap)

/-- cyc_i of a virtual core on a physical one (R229). -/
def cycOn (e : CoreEntry) (bank k : Nat) : Nat := if k / 12 = bank then e.localCyc else e.remoteCyc

/-- The lowest level whose budget holds a number of cycles (R231). -/
def levelFor (cyc : Nat) : Nat := ((List.range 5).find? fun l => decide (cyc ≤ levelBudget l)).getD 5

/-- The free cores of a stop. -/
def freeAt (free : Nat → Bool) (q : Nat) : List Nat := ((List.range 12).map (· + 12 * q)).filter free

/-- A stop of a list by a measure of its free cores, the first one where several are equal. -/
def bestStop (better : Nat → Nat → Bool) (count : Nat → Nat) : List Nat → Option Nat
  | [] => none
  | q :: qs => match bestStop better count qs with
    | none => some q
    | some r => if better (count r) (count q) then some r else some q

/-- The binding of R230 for `c` cores: the cores, and the bank. -/
def autoBind (c : Nat) (free : Nat → Bool) (bankOk : Nat → Bool) : Option (List Nat × Nat) :=
  let count (q : Nat) : Nat := (freeAt free q).length
  let banks := (List.range 4).filter bankOk
  match bestStop (fun a b => decide (a < b)) count (banks.filter fun q => decide (c ≤ count q)) with
  | some q => some ((freeAt free q).take c, q)
  | none =>
    match bestStop (fun a b => decide (b < a)) count banks with
    | none => none
    | some q =>
      let all := [q, (q + 1) % 4, (q + 3) % 4, (q + 2) % 4].flatMap fun r => freeAt free r
      if c ≤ all.length then some (all.take c, q) else none

/-! ## Admission (R229) -/

/-- Test a binding of variant `v` of slot `i` (R229): the cores and the bank, or the cause of the refusal (Table 08-11). `change` says
that an admitted basket changes its variant; `named` are the cores the request names. -/
def State.admission (s : State) (i : Fin 32) (v : Nat) (named : List Nat) (change : Bool) : Except Nat (List Nat × Nat) :=
  let x := s.slot i
  let stateOk := if change then s.admitted i else s.slotState i == 1
  match x.pkg with
  | none => .error 8
  | some p =>
    if !stateOk then .error 8 else
    match p.variants[v]? with
    | none => .error 8
    | some var =>
      let ex : Option Nat := if change then some i.val else none
      let own : List Nat := if change then x.cores.filterMap id else []
      let free (k : Nat) : Bool := s.coreFree k || own.contains k
      let c := var.entries.length
      let nfree := ((List.range 48).filter free).length
      let act := (var.actBytes + 4095) / 4096 * 4096
      let new := s.newFrames ex p
      let need := act + new.foldl (fun n d => n + d.bytes) 0
      let bankOk (q : Nat) : Bool := decide (s.bankUsed ex q + need ≤ 4194304)
      let total := (s.framesOf ex).foldl (fun n e => n + e.2.bytes) 0 + new.foldl (fun n d => n + d.bytes) 0
      let taken := (s.admittedSlots ex).any fun e => e.2.2.1.outs.any fun o => o.kind != 4 && p.outs.any fun o' => o'.kind == o.kind && o'.idx == o.idx
      if nfree < c + min 8 (s.get Fd.MDL_CTRL_reserve_cores) then .error 2
      else if !named.isEmpty && !(named.length == c && named.all free) then .error 2
      else
        let bind : Option (List Nat × Nat) :=
          match named.head? with
          | some k => if bankOk (k / 12) then some (named, k / 12) else none
          | none => autoBind c free bankOk
        match bind with
        | none => .error 3
        | some (cores, bank) =>
          if (var.entries.zip cores).any fun e => decide (levelBudget s.admLevel < cycOn e.1 bank e.2) then .error 1
          else if 1048576 < total then .error 4
          else if taken then .error 5
          else .ok (cores, bank)

/-- Note a refusal (Table 08-10). -/
def State.refuseMdl (s : State) (i cause : Nat) : State := (s.put Fd.MDL_REFUSE_slot i).put Fd.MDL_REFUSE_cause cause

/-! ## Slots and their registers -/

/-- The registers of a slot that follow from its binding. -/
def State.slotRegs (s : State) (i : Fin 32) : State :=
  let x := s.slot i
  let cores := x.cores.filterMap id
  let mask := cores.foldl (fun m k => m + 2 ^ k) 0
  let es := match x.pkg.bind fun p => p.variants[s.get (Fd.MDL_SLOT_STAT_variant i)]? with
    | some v => v.entries
    | none => []
  let cyc := (es.zip x.cores).foldl (fun m e => max m (match e.2 with | some k => cycOn e.1 x.bank k | none => e.1.localCyc)) 0
  let s := (s.put (Fd.MDL_SLOT_STAT_n_cores i) cores.length).put (Fd.MDL_SLOT_STAT_level_floor i) (levelFor cyc)
  let s := ((s.put64 (Reg.MDL_SLOT_CORES_LO i) (Reg.MDL_SLOT_CORES_HI i) mask).put (Fd.MDL_SLOT_CYC_decl_cycles i) cyc)
  s.setFlag (Fd.MDL_SLOT_STAT_standard i) (match x.pkg with | some p => p.standard | none => false)

/-- The counts of MDL_STAT, MDL_MEM_STAT and ADN_BANK_STAT. -/
def State.mdlCounts (s : State) : State :=
  let s := s.put Fd.MDL_STAT_n_stored ((List.range 32).filter fun i => s.slotState i != 0).length
  let s := s.put Fd.MDL_STAT_n_admitted ((List.range 32).filter fun i => s.admitted i).length
  let s := s.put Fd.MDL_STAT_cores_bound ((List.finRange 32).foldl (fun n (i : Fin 32) => n + ((s.slot i).cores.filterMap id).length) 0)
  let s := s.put Fd.MDL_MEM_STAT_act_kib ((s.admittedSlots none).foldl (fun n e => n + e.2.2.2) 0)
  let s := s.put Fd.MDL_MEM_STAT_tele_blocks (((s.framesOf none).foldl (fun n e => n + e.2.bytes) 0 + 63) / 64)
  (s.each 4 fun q s => s.put (Fd.ADN_BANK_STAT_used_kib q) ((s.bankUsed none q + 1023) / 1024)).countCores

/-- The module floor (R231). -/
def State.mdlFloor (s : State) : State :=
  let f := (List.range 32).foldl (fun m i => if s.admitted i then max m (s.get (Fd.MDL_SLOT_STAT_level_floor i)) else m) 0
  ((s.put Fd.MDL_STAT_floor f).put Fd.CLK_ADN_LEVEL_floor f).updateEff

/-- Free the cores of a slot. A core that is fenced stays so. -/
def State.releaseSlot (s : State) (i : Fin 32) : State :=
  let s := (s.slot i).cores.foldl (fun (s : State) c => match c with
    | some k => if h : k < 48 then (if decide (2 ≤ s.coreState k ∧ s.coreState k ≤ 4) then s.freeCore ⟨k, h⟩ else s) else s
    | none => s) s
  s.setSlot i { s.slot i with cores := [], due := false, done := false, outs := [], spoilt := false, suspFault := false }

/-- Leave the array, for STORED or QUARANTINED. -/
def State.leaveSlot (s : State) (i : Fin 32) (st : Nat) : State :=
  ((((s.releaseSlot i).put (Fd.MDL_SLOT_STAT_state i) st).slotRegs i).put (Fd.MDL_SLOT_STAT_overrun_run i) 0).mdlCounts

/-- Bind a slot to cores, which enter LOADING (R232). -/
def State.bindSlot (s : State) (i : Fin 32) (v : Nat) (cores : List Nat) (bank : Nat) : State :=
  let s := s.releaseSlot i
  let act := match (s.slot i).pkg.bind fun p => p.variants[v]? with
    | some var => (var.actBytes + 4095) / 4096 * 4
    | none => 0
  let s := s.setSlot i { s.slot i with cores := cores.map some, bank := bank, actKib := act }
  let s := (cores.zip (List.range cores.length)).foldl (fun (s : State) e =>
    if h : e.1 < 48 then
      ((s.put (Fd.ADN_CORE_STAT_state e.1) 2).put (Fd.ADN_CORE_STAT_slot e.1) i).setCore ⟨e.1, h⟩ { CoreRt.reset with virt := e.2 }
    else s) s
  (((s.put (Fd.MDL_SLOT_STAT_state i) 2).put (Fd.MDL_SLOT_STAT_variant i) v).slotRegs i).mdlCounts

/-- Quarantine a basket (R236): its cores are freed, and a Fence-class fault is recorded. -/
def State.quarantine (s : State) (i : Fin 32) : State := (s.leaveSlot i 5).record Blk.mdl 0x10 2 (0xB00 + i)

/-! ## Requests (R232, R234) -/

/-- Carry out a request whose frame 252 has come; one that can no longer be bound is refused whole. -/
def State.applyReq (s : State) (r : MdlReq) : State :=
  match r with
  | .evict n => if h : n < 32 then (if s.admitted n then s.leaveSlot ⟨n, h⟩ 1 else s.refuseMdl n 8) else s
  | .bind n v cores bank change =>
    if h : n < 32 then
      let i : Fin 32 := ⟨n, h⟩
      let own := (s.slot i).cores.filterMap id
      let stateOk := if change then s.admitted n else s.slotState n == 1
      if !stateOk then s.refuseMdl n 8
      else if cores.all fun k => s.coreFree k || (change && own.contains k) then s.bindSlot i v cores bank
      else s.refuseMdl n 2
    else s

/-- The state as the waiting requests will leave it, on which a new one is tested. -/
def State.afterReqs (s : State) : State := s.arr.reqs.foldl (fun (s : State) r => s.applyReq r) s

/-- Test a request to take in or change a basket now, and hold it for its frame 252 (R229, R232). -/
def State.requestBind (s : State) (i : Fin 32) (v : Nat) (named : List Nat) (change : Bool) : State :=
  match s.afterReqs.admission i v named change with
  | .error c => s.refuseMdl i c
  | .ok (cores, bank) => { s with arr := { s.arr with reqs := s.arr.reqs ++ [.bind i.val v cores bank change] } }

/-- Ask for a basket's eviction (R232). -/
def State.requestEvict (s : State) (i : Fin 32) : State :=
  if s.afterReqs.admitted i then { s with arr := { s.arr with reqs := s.arr.reqs ++ [.evict i.val] } } else s.refuseMdl i 8

/-! ## Loading (R233) -/

/-- A core whose section has loaded is BOUND. -/
def State.coreBound (s : State) (k : Fin 48) : State := ((s.put (Fd.ADN_CORE_STAT_state k) 3).setCore k { s.core k with loaded := true }).countCores
/-- A section with a bad CRC quarantines its basket, with cause LOAD. -/
def State.loadFailed (s : State) (n : Nat) : State := if h : n < 32 then (s.quarantine ⟨n, h⟩).refuseMdl n 0xA else s
/-- CORE_LOADED (R233): a core whose section has loaded with a good CRC becomes BOUND; a mismatch quarantines its basket with cause LOAD. -/
def execCoreLoaded (k : Fin 48) (crcOk : Bool) (s : State) : Out :=
  .next (if s.coreState k == 2 then (if crcOk then s.coreBound k else s.loadFailed (s.get (Fd.ADN_CORE_STAT_slot k))) else s)

/-! ## The forecast frame of the array (R207, R233) -/

/-- Are all the cores of a slot BOUND? -/
def State.slotBound (s : State) (i : Fin 32) : Bool :=
  let cs := (s.slot i).cores
  !cs.isEmpty && cs.all fun c => match c with
    | some k => s.coreState k == 3
    | none => false

/-- Is a pass of a basket due in the present forecast frame? -/
def State.passDue (s : State) (i : Fin 32) : Bool :=
  match (s.slot i).pkg with
  | some p => p.period == 1 || s.time.frame / 256 % 16 == p.phase
  | none => false

/-- Frame 16: LOADING and SUSPENDED baskets whose cores are all BOUND are RUNNING, and the passes start. -/
def State.startPasses (s : State) : State :=
  (List.finRange 32).foldl (fun (s : State) (i : Fin 32) =>
    if !s.admitted i then s else
    let s := if s.slotState i != 3 && s.slotBound i then s.put (Fd.MDL_SLOT_STAT_state i) 3 else s
    let run := s.slotState i == 3 && s.slotBound i && s.flag Fd.MDL_CTRL_run_en
    let s := s.setSlot i { s.slot i with due := s.passDue i, done := false, outs := [], spoilt := false }
    if run && s.passDue i then
      (s.slot i).cores.foldl (fun (s : State) c => match c with | some k => s.put (Fd.ADN_CORE_STAT_state k) 4 | none => s) s
    else s) (s.setFlag Fd.ADN_PASS_STAT_assembling false)

/-- What the array does at the start of a frame: power gating, the cycles of the window, the marks of the forecast frame, and the start of
the passes at frame 16. Nothing runs during a COMPUTE reset. -/
def State.arrayTick (s : State) : State :=
  if s.computeDown then s else
  let gate := s.flag Fd.ADN_CTRL_gate_idle
  let s := (List.finRange 48).foldl (fun (s : State) (k : Fin 48) =>
    let st := s.coreState k
    if gate then (if st = 1 then (s.put (Fd.ADN_CORE_STAT_state k) 0).setCore k .reset else s)
    else if st = 0 then
      let c := s.core k
      if 5 ≤ c.wake then (s.put (Fd.ADN_CORE_STAT_state k) 1).setCore k .reset else s.setCore k { c with wake := c.wake + 1 }
    else s) s
  let f := s.fcFrame
  let div := if s.flag Fd.CLK_ADN_DROOP_active then 2 else 1
  let s := if f = 0 then
      { s with arr := { s.arr with fcConflict := s.flag Fd.CLK_ADN_LEVEL_floor_conflict, fcDroop := s.flag Fd.CLK_ADN_DROOP_active
                                   fcMinLevel := s.get Fd.CLK_ADN_LEVEL_present, winCycles := 0, eccA := [] } }.setFlag
        Fd.ADN_PASS_STAT_assembling ((List.range 32).any fun i => s.slotState i == 3)
    else if 17 ≤ f ∧ f ≤ 252 then
      { s with arr := { s.arr with winCycles := s.arr.winCycles + s.time.len * s.arrayMhz / (250 * div) } }
    else s
  let s := if s.slowStart then
      { s with arr := { s.arr with hotPrev := s.arr.hotSlow, hotSlow := decide (760 < sext 16 (s.get Fd.CLK_ADN_THERM_tj)) } }.put
        Fd.CLK_ADN_DROOP_trips_slow 0
    else s
  if f = 16 then s.startPasses else s

/-- Does a flipped word stand in the bank of a slot? -/
def State.inBank (s : State) (i : Fin 32) (e : Nat × Nat) : Bool := e.1 / 0x400000 % 4 == (s.slot i).bank
/-- The pass of a slot is spoilt. -/
def State.spoil (s : State) (i : Fin 32) : State := s.setSlot i { s.slot i with spoilt := true }
/-- A flipped word is read: one bit is corrected; more make the pass stale. -/
def State.actError (i : Fin 32) (s : State) (e : Nat × Nat) : State :=
  if e.2 ≤ 1 then (s.bump Fd.ADN_ECC_STAT_corrected).record Blk.adn 0x13 0 0
  else ((s.bumpSat Fd.ADN_ECC_STAT_uncorr_a).record Blk.adn 0x12 0 0).spoil i
/-- The words of activation SRAM a pass reads (R204): the flipped words of the basket's bank. -/
def State.activationErrors (s : State) (i : Fin 32) : State :=
  (s.arr.eccA.filter (s.inBank i)).foldl (State.actError i)
    { s with arr := { s.arr with eccA := s.arr.eccA.filter fun e => !(s.inBank i e && decide (e.2 ≤ 1)) } }

/-- May the pass of a slot end in the frame with these cycles: due, not yet done, RUNNING, enabled, within the compute window, and with no more
array cycles than the window has had? -/
def State.passEnds (s : State) (slot : Fin 32) (cycles : List Nat) : Bool :=
  (s.slot slot).due && !(s.slot slot).done && s.slotState slot == 3 && s.flag Fd.MDL_CTRL_run_en && decide (s.fcFrame < 252) && !s.computeDown &&
    cycles.length == (s.slot slot).cores.length && cycles.all fun c => decide (c ≤ s.arr.winCycles)
/-- A core that leaves a pass: a fence that waited acts, and a core that ran is BOUND again. -/
def State.leavePass (s : State) (k : Fin 48) : State :=
  if (s.core k).fencePend then s.fenceCoreNow k 3 else if s.coreState k == 4 then s.put (Fd.ADN_CORE_STAT_state k) 3 else s
/-- A core's cycles of a pass, and its end there. -/
def State.corePass (s : State) (e : Option Nat × Nat) : State :=
  match e.1 with
  | none => s
  | some k => if h : k < 48 then (s.put (Fd.ADN_CORE_CYC_cycles k) (min (2 ^ 21 - 1) e.2)).leavePass ⟨k, h⟩ else s
/-- The end of a pass. -/
def State.passDone (s : State) (slot : Fin 32) (cycles : List Nat) (outs : List PassOut) : State :=
  ((((s.slot slot).cores.zip cycles).foldl State.corePass (s.setSlot slot { s.slot slot with done := true, outs := outs })).activationErrors slot).put
    Fd.ADN_PASS_STAT_last_end s.fcFrame

/-- BASKET_PASS (R207, R208, R236): the pass of a basket completes in the compute window with the cycles of each of its cores and its
outputs. The graph's encoding is private (R222) and results are not bit-exact (R216), so they enter as given. A pass that asks for more
array cycles than the window has had is not complete. -/
def execBasketPass (slot : Fin 32) (cycles : List Nat) (outs : List PassOut) (s : State) : Out :=
  .next (if s.passEnds slot cycles then s.passDone slot cycles outs else s)

/-! ## Commit (R234 to R237) -/

/-- Write the codes of a TABLES output into a zone's inactive buffer, and its commit request (Table 08-4). -/
def State.commitTable (s : State) (z : Nat) (codes : List Int) (commit : Bool) : State :=
  let k := 1 - s.get (Fd.FFW_ZONE_STAT_active_buf z)
  let word (b i : Nat) : Word := BitVec.ofNat 32 (toBits 16 (codes.getD (b + 2 * i) 0) + toBits 16 (codes.getD (b + 2 * i + 1) 0) * 65536)
  let s := s.each 512 fun i s => (s.wr (Reg.FFW_SHAPE z k i) (word 0 i)).wr (Reg.FFW_BIAS z k i) (word 1024 i)
  let s := s.formCrc z
  if commit then s.setFlag (Fd.FFW_ZONE_STAT_commit_pending z) true else s

/-- Commit one output of a pass to its destination (Table 08-4). The destinations in pair blocks are the claimant's (R104, R175, R275). -/
def State.commitOut (s : State) (slot n : Nat) (d : OutDecl) (o : PassOut) : State :=
  match d.kind, o with
  | 1, .vals bs =>
    if s.isStandby then s
    else { s with prf := { s.prf with fcFresh := true, fcast := Vector.ofFn fun z : Fin 4 => (bs.drop (16 * z.val)).take 16 } }
  | 2, .table codes commit => if s.isStandby then s else s.commitTable d.idx codes commit
  | 3, .vals bs => { s with arr := { s.arr with estOut := some bs } }
  | 4, .vals bs =>
    let old := (s.arr.results.find? fun r => r.slot == slot && r.out == n).map (·.vals)
    let vals := ((s.time.frame / 256, bs) :: old.getD []).take 64
    { s with arr := { s.arr with results :=
      { slot := slot, out := n, vals := vals, stale := false } :: s.arr.results.filter fun r => !(r.slot == slot && r.out == n) } }
  | _, _ => s

/-- Mark the named results of a slot stale (R237). -/
def State.staleResults (s : State) (slot : Nat) : State :=
  { s with arr := { s.arr with results := s.arr.results.map fun r => if r.slot == slot then { r with stale := true } else r } }

/-- Is an overrun of a basket excused (R236)? -/
def State.excuses (s : State) (i : Nat) : Bool :=
  s.arr.fcConflict || s.arr.fcDroop || decide (s.arr.fcMinLevel < s.get (Fd.MDL_SLOT_STAT_level_floor i))

/-- Is a due pass good: RUNNING and enabled, done, unspoilt, and on cores that are all BOUND? -/
def State.passGood (s : State) (i : Fin 32) : Bool :=
  s.slotState i == 3 && s.flag Fd.MDL_CTRL_run_en && (s.slot i).done && !(s.slot i).spoilt && s.slotBound i
/-- A core of a slot leaves the pass, whose frame 252 has come. -/
def State.coreLeaves (s : State) (c : Option Nat) : State :=
  match c with
  | some k => if h : k < 48 then s.leavePass ⟨k, h⟩ else s
  | none => s
/-- Commit the outputs of a good pass. -/
def State.commitPass (s : State) (i : Fin 32) (pkg : Option Pkg) (outs : List PassOut) : State :=
  match pkg with
  | some p => ((p.outs.zip outs).zip (List.range p.outs.length)).foldl (fun s e => s.commitOut i e.2 e.1.1 e.1.2) s
  | none => s
/-- A stale pass: counted, and an overrun where it was running and not done. -/
def State.stalePass (s : State) (i : Fin 32) (done running : Bool) : State :=
  let s := (s.bump (Fd.MDL_SLOT_CNT_stale_passes i)).staleResults i
  if done then s.put (Fd.MDL_SLOT_STAT_overrun_run i) 0
  else if !running then s
  else
    let ex := s.excuses i
    let s := ((s.bump (Fd.MDL_SLOT_CNT_overruns i)).bump Fd.ADN_PASS_STAT_late_count).setFlag (Fd.MDL_SLOT_STAT_excused i) ex
    if ex then s else s.put (Fd.MDL_SLOT_STAT_overrun_run i) (min 3 (s.get (Fd.MDL_SLOT_STAT_overrun_run i) + 1))
/-- End the pass of a slot at frame 252 (R234, step 1): commit it whole, or mark it stale and count its overrun. The cores abandon the pass, and
fences that waited for its end act. -/
def State.endPass (s : State) (i : Fin 32) : State :=
  if !(s.slot i).due then s else
  let x := s.slot i
  let u := x.cores.foldl State.coreLeaves s
  let t := (u.setSlot i { x with due := false, done := false, outs := [], spoilt := false }).setFlag (Fd.MDL_SLOT_STAT_stale i) (!u.passGood i)
  if u.passGood i then
    ((t.commitPass i x.pkg x.outs).put (Fd.MDL_SLOT_LAST_last_ok i) (s.time.frame / 256)).put (Fd.MDL_SLOT_STAT_overrun_run i) 0
  else t.stalePass i x.done (s.slotState i == 3 && s.flag Fd.MDL_CTRL_run_en)

/-- The replacement core of a virtual core (R235): the lowest free core within the budget, the bank's stop first. -/
def State.replacement (s : State) (bank : Nat) (e : CoreEntry) : Option Nat :=
  let ok (k : Nat) : Bool := s.coreFree k && decide (cycOn e bank k ≤ levelBudget s.admLevel)
  match (freeAt ok bank).head? with
  | some k => some k
  | none => (List.range 48).find? ok

/-- Cores lost to fences at frame 252 (R234, step 2; R235): the basket is SUSPENDED, and a replacement is bound and loaded. -/
def State.replaceCores (s : State) (i : Fin 32) : State :=
  if !s.admitted i then s else
  let x := s.slot i
  let alive (c : Option Nat) : Bool := match c with
    | some k => decide (2 ≤ s.coreState k ∧ s.coreState k ≤ 4) && s.get (Fd.ADN_CORE_STAT_slot k) == i.val
    | none => false
  if x.cores.all alive then s
  else
    let es := match x.pkg.bind fun p => p.variants[s.get (Fd.MDL_SLOT_STAT_variant i)]? with
      | some v => v.entries
      | none => []
    let s := s.put (Fd.MDL_SLOT_STAT_state i) 4
    let s := s.setSlot i { x with cores := x.cores.map fun c => if alive c then c else none }
    let s := ((es.zip x.cores).zip (List.range es.length)).foldl (fun (s : State) e =>
      if alive e.1.2 then s
      else match s.replacement x.bank e.1.1 with
        | none => s
        | some k => if h : k < 48 then
            let y := s.slot i
            ((s.setSlot i { y with cores := y.cores.set e.2 (some k) }).put (Fd.ADN_CORE_STAT_state k) 2 |>.put
              (Fd.ADN_CORE_STAT_slot k) i).setCore ⟨k, h⟩ { CoreRt.reset with virt := e.2 }
          else s) s
    let missing := (s.slot i).cores.any Option.isNone
    let s := if missing && !(s.slot i).suspFault then s.record Blk.mdl 0x11 1 (0xB00 + i) else s
    (s.setSlot i { s.slot i with suspFault := missing }).slotRegs i

/-- A third overrun in a row quarantines a basket (R236). -/
def State.quarantineLate (s : State) (i : Fin 32) : State :=
  if s.admitted i && s.get (Fd.MDL_SLOT_STAT_overrun_run i) == 3 then s.quarantine i else s
/-- Carry out the waiting requests (R234, step 3). -/
def State.applyReqs (s : State) : State := { s.afterReqs with arr := { s.afterReqs.arr with reqs := [] } }
/-- The steps of R234. -/
def State.commitAll (s : State) : State :=
  (((List.finRange 32).foldl State.quarantineLate ((List.finRange 32).foldl State.replaceCores
    ((List.finRange 32).foldl State.endPass s))).applyReqs.mdlCounts).mdlFloor

/-- RESULT_COMMIT (R207, R234): at frame 252 of a forecast frame, in the order of R234. -/
def execResultCommit (s : State) : Out := .next (if s.fcFrame == 252 && !s.computeDown then s.commitAll else s)

/-! ## After a COMPUTE reset (R238) -/

/-- Test every basket that was LOADING, RUNNING or SUSPENDED again, in slot order; one that passes loads at the next frame 252, one that
fails becomes STORED with a Degrade-class fault. -/
def State.restoreBaskets (s : State) : State :=
  let was := (List.finRange 32).filter fun (i : Fin 32) => s.admitted i
  let keep : List (Fin 32 × Nat × List Nat) := was.map fun i => (i, s.get (Fd.MDL_SLOT_STAT_variant i), (s.slot i).cores.filterMap id)
  let s := was.foldl (fun (s : State) i => s.leaveSlot i 1) { s with arr := { s.arr with reqs := [] } }
  (keep.foldl (fun (s : State) e =>
    let named := if e.2.2.all fun k => s.afterReqs.coreFree k then e.2.2 else []
    let v := match (s.slot e.1).pkg.bind fun p => p.variants[e.2.1]? with
      | some v => v.entries.length
      | none => 0
    let named := if named.length = v then named else []
    let n := s.arr.reqs.length
    let s := s.requestBind e.1 e.2.1 named false
    if s.arr.reqs.length = n then s.record Blk.mdl 0x12 1 (0xB00 + e.1.val) else s) s).mdlFloor

end Sys2Proof.Machine
end

