-- ==== Sys2Proof/Machine/Chain.lean ====
section
/-! DEFINITION. The cell chain (chapter 09): the sweep's schedule and its transactions (R244 to R256), enumeration and ring breaks (R250 to
R254), the commit of the readings with the search for broken wires and cell faults (R257, R261, R264 to R266), balancing (R258, R259)
and the open-wire test (R262, R263). -/

namespace Sys2Proof.Machine

/-! ## Access -/

def State.ring (s : State) (r : Fin 3) : ChnStr := vget s.chn.strs r
def State.setRing (s : State) (r : Fin 3) (x : ChnStr) : State := { s with chn := { s.chn with strs := vset s.chn.strs r x } }
def State.node (s : State) (r : Fin 3) (i : Fin 14) : ChnNode := vget (vget s.chn.nodes r) i
def State.setNode (s : State) (r : Fin 3) (i : Fin 14) (x : ChnNode) : State :=
  { s with chn := { s.chn with nodes := vset s.chn.nodes r (vset (vget s.chn.nodes r) i x) } }
/-- Apply a function for each node of a ring, in ascending order. -/
def State.eachNode (f : Fin 14 → State → State) (s : State) : State :=
  (List.finRange 14).foldl (fun (s : State) (i : Fin 14) => f i s) s

/-- The unit of a chain node (Table 16-2). -/
def nodeUnit (r : Fin 3) (i : Fin 14) : Nat := 0x800 + 16 * r + (i + 1)
/-- Frame within the sweep (R255). -/
def State.sweepFrame (s : State) : Nat := s.time.frame % 4096
def State.ringState (s : State) (r : Fin 3) : Nat := s.get (Fd.CHN_STR_STAT_ring r)
/-- State of a node (Table 09-7): 0 UNKNOWN, 1 ACTIVE, 2 MISSING, 3 FENCED. -/
def State.nodeState (s : State) (r : Fin 3) (i : Fin 14) : Nat := s.get (Fd.CHN_NODE_STAT_state r (i + 1))
/-- Is a ring served: its string declared, and its ring enumerated? -/
def State.served (s : State) (r : Fin 3) : Bool := s.strDecl r && s.ringState r != 0
/-- Is an enumeration of the ring asked for, or its result still to come (R250)? -/
def State.enumerating (s : State) (r : Fin 3) : Bool := (s.ring r).enumDue || (s.ring r).enumDone.isSome

/-! ## Frames and transactions -/

/-- The bytes of a command frame (Table 09-1), its CRC-16 over bytes 2 to 4 + len (R247). -/
def ChnFrame.bytes (f : ChnFrame) : List Nat :=
  let body := [b2n f.ret * 64 + f.seq % 16, f.op, f.payload.length] ++ f.payload
  [f.hop, f.hop ^^^ 0xFF] ++ body ++ beBytes 2 (crc16 body)

/-- Payload bytes of a complete reply to an opcode (Table 09-3). -/
def replyLen (op : Nat) : Nat :=
  match op with
  | 0x01 => 8 | 0x20 => 38 | 0x41 => 34 | 0x50 => 6 | _ => 0

/-- A node addressed from port A is `d` hops away, from port B `15 − d` (R252). -/
def hopFrom (portB : Bool) (i : Fin 14) : Nat := if portB then 15 - (i + 1) else i + 1

/-- Is a node reached: in a whole ring every node, else nodes 1 to a from port A and the last b from port B (R253)? -/
def State.reachable (s : State) (r : Fin 3) (i : Fin 14) : Bool :=
  s.ringState r == 1 || decide (i.val + 1 ≤ s.get (Fd.CHN_STR_STAT_reach_a r)) || decide (14 - s.get (Fd.CHN_STR_STAT_reach_b r) ≤ i.val)

/-- Put a frame on a ring's line. The standby's transmitters stay idle (R244). -/
def State.emit (s : State) (r : Fin 3) (f : ChnFrame) : State := if s.isStandby then s else s.setRing r { s.ring r with sent := some f }

/-- Start a transaction with a node: RING mode from port A in a whole ring, else RETURN mode from the end that reaches the node (R253); the
third attempt goes in RETURN mode from the port nearer the node, ties to port A. -/
def State.transact (s : State) (r : Fin 3) (i : Fin 14) (op attempt : Nat) (payload : List Nat) : State :=
  let x := s.ring r
  let whole := s.ringState r == 1
  let ret := !whole || attempt == 3
  let portB := if attempt == 3 then decide (8 ≤ i.val + 1) else !whole && !decide (i.val + 1 ≤ s.get (Fd.CHN_STR_STAT_reach_a r))
  let s := s.setRing r { x with seq := (x.seq + 1) % 16, txn := some ⟨i + 1, op, x.seq, attempt⟩ }
  s.emit r ⟨!portB, portB, hopFrom portB i, ret, x.seq, op, payload⟩

/-- Send a broadcast, on both ports while the ring is not whole (R253). -/
def State.broadcast (s : State) (r : Fin 3) (op : Nat) (payload : List Nat) : State :=
  let x := s.ring r
  (s.setRing r { x with seq := (x.seq + 1) % 16 }).emit r ⟨true, s.ringState r != 1, 0xFF, false, x.seq, op, payload⟩

/-! ## The schedule (Table 09-5) -/

/-- An enumeration's result takes effect (R250, R253, R270): the ring's state, break and reach, and each answering node's version, identifier,
refusal and, after a wake, its check flags. -/
def State.applyEnum (s : State) (r : Fin 3) (e : ChnEnum) : State :=
  let was := s.ringState r
  let a := min 14 e.a
  let b := min e.b (14 - a)
  let st := if a = 14 && e.ringOk then 1 else if a + b = 14 then 2 else 3
  let s := s.put (Fd.CHN_STR_STAT_ring r) st
  let s := ((s.put (Fd.CHN_STR_STAT_reach_a r) a).put (Fd.CHN_STR_STAT_reach_b r) b).put (Fd.CHN_STR_STAT_break_seg r)
    (if st = 2 then a else 0xF)
  let s := s.eachNode fun i s =>
    if i.val + 1 ≤ a ∨ 14 - b ≤ i.val then
      let id := vget e.ids i
      let s := (s.wr (Reg.CHN_NODE_ID r (i + 1)) id.2.2).put (Fd.CHN_NODE_STAT_version r (i + 1)) (min 2 id.1)
      let s := if vget s.chn.woken r && decide (0 < (vget e.status i).1)
        then s.recordAt Blk.chn 0x1D 0 (nodeUnit r i) 0 ((vget e.status i).1 * 256 + (vget e.status i).2) 0 else s
      if (id.1 = 0 ∨ id.2.1 ≠ 16) ∧ s.nodeState r i ≠ 3 then
        ((s.put (Fd.CHN_NODE_STAT_state r (i + 1)) 3).put (Fd.CHN_NODE_STAT_fence_cause r (i + 1)) 3).record Blk.chn 0x17 2 (nodeUnit r i)
      else if s.nodeState r i = 0 then s.put (Fd.CHN_NODE_STAT_state r (i + 1)) 1 else s
    else s
  let s := { s with chn := { s.chn with woken := vset s.chn.woken r false } }
  if st = 2 then s.record Blk.chn 0x13 1 (0x700 + r)
  else if st = 1 && (was == 2 || was == 3) then s.record Blk.chn 0x1C 0 (0x700 + r) else s

/-- The count of fenced nodes of a string (Table 09-7). -/
def State.countNodes (s : State) (r : Fin 3) : State :=
  s.put (Fd.CHN_STR_STAT_n_fenced r) ((List.finRange 14).filter fun i => s.nodeState r i == 3).length

/-- Does the sweep now starting test for broken wires on a string (R262)? -/
def State.testSweep (s : State) (r : Fin 3) : Bool :=
  s.served r && (s.time.frame / 4096 % max 1 (s.get Fd.CHN_CTRL_owt_every) == 0 || s.flag (Fd.CHN_STR_STAT_owt_due r))

/-- The start of a frame on one string: the flag of the slow frame, HUSH, and the start of a sweep. -/
def State.chainStr (s : State) (r : Fin 3) : State :=
  let s := if s.slowStart then s.setRing r { s.ring r with noted := false } else s
  let s := if s.flag Fd.CHN_CTRL_hush_en && s.sweepFrame + s.get Fd.CHN_CTRL_hush_frames == 4096 && s.served r
    then s.setRing r { s.ring r with hushDue := true } else s
  if !s.sweepStart || !s.strDecl r then s else
  let s := match (s.ring r).enumDone with
    | some e => ((s.setRing r { s.ring r with enumDone := none }).applyEnum r e).countNodes r
    | none => s
  let s := s.eachNode fun i s => s.setNode r i { s.node r i with read := none, ow := none, failed := false, retried := false }
  let s := s.setFlag (Fd.CHN_STR_STAT_owt_active r) (s.testSweep r)
  s.setRing r { s.ring r with snapDue := s.served r, txn := none }

/-- What the chain master does at the start of a frame: at a sweep's start an enumeration's result takes effect (R250), the marks of the
sweep clear, and SNAP and the regular test fall due (R255, R262); HUSH falls due in its own frame (R260); each slow frame allows one
note of failures again (Table 09-6). -/
def State.chainTick (s : State) : State := (List.finRange 3).foldl (fun (s : State) (r : Fin 3) => s.chainStr r) s

/-- SNAP_SEND (R255, R244): the end delimiter of SNAP leaves the port at cycle `cyc`, and the sweep takes that instant as its stamp. -/
def execSnapSend (r : Fin 3) (cyc : Nat) (s : State) : Out :=
  .next <|
    if !(s.ring r).snapDue || decide (s.time.len ≤ cyc) then s else
    let s := s.broadcast r 0x10 []
    let s := s.setRing r { s.ring r with snapDue := false }
    s.put64 (Reg.CHN_STR_SNAP_LO r) (Reg.CHN_STR_SNAP_HI r) ((s.time.frameStart + cyc) % 2 ^ 64)

/-- HUSH_SEND (R260): the nodes of the ring stop bleeding. -/
def execHushSend (r : Fin 3) (s : State) : Out :=
  .next <| if !(s.ring r).hushDue then s else
    let s := s.broadcast r 0x11 []
    s.setRing r { s.ring r with hushDue := false }

/-- May a READ go to a node now: it is reached, known and not fenced, and has not been read in this sweep? -/
def State.readDue (s : State) (r : Fin 3) (i : Fin 14) : Bool :=
  s.reachable r i && s.nodeState r i != 0 && s.nodeState r i != 3 && (s.node r i).read.isNone

/-- The node whose READ the retry slot repeats (R255): the lowest-numbered one that failed, once a sweep. -/
def State.retryNode (s : State) (r : Fin 3) : Option (Fin 14) :=
  (List.finRange 14).find? fun i => s.readDue r i && (s.node r i).failed && !(List.finRange 14).any (fun j => (s.node r j).retried)
/-- CHAIN_READ (R255): the READ of the node whose slot runs, and in the retry slot that of the lowest-numbered node whose READ failed. -/
def execChainRead (r : Fin 3) (s : State) : Out :=
  .next <|
    let f := s.sweepFrame
    if !s.served r || (s.ring r).txn.isSome then s
    else if decide (28 ≤ f ∧ f < 924) then
      if h : (f - 28) / 64 < 14 then
        let i : Fin 14 := ⟨(f - 28) / 64, h⟩
        if s.readDue r i && !(s.node r i).failed then s.transact r i 0x20 1 [] else s
      else s
    else if decide (924 ≤ f ∧ f < 1024) then
      match s.retryNode r with
      | some i => (s.setNode r i { s.node r i with retried := true }).transact r i 0x20 2 []
      | none => s
    else s

/-- A failed transaction is counted. -/
def State.txnCounted (s : State) (r : Fin 3) (crc : Bool) : State := (if crc then s.bump (Fd.CHN_STR_CNT_crc_err r) else s).bump (Fd.CHN_STR_CNT_failed r)
/-- The first failure of a slow frame is noted. -/
def State.txnNoted (s : State) (r : Fin 3) : State :=
  if (s.ring r).noted then s else (s.setRing r { s.ring r with noted := true }).record Blk.chn 0x10 0 (0x700 + r)
/-- A transaction fails (R249): it is counted and noted, and a READ keeps its place for the retry slot; in a whole ring a second failure
sends it once more in RETURN mode (R253). -/
def State.txnFail (s : State) (r : Fin 3) (t : ChnTxn) (crc : Bool) : State :=
  let s := (s.txnCounted r crc).txnNoted r
  let s := s.setRing r { s.ring r with txn := none }
  if h : t.op = 0x20 ∧ 1 ≤ t.node ∧ t.node ≤ 14 then
    let i : Fin 14 := ⟨t.node - 1, by omega⟩
    let s := s.setNode r i { s.node r i with failed := true }
    if t.attempt = 2 ∧ s.ringState r = 1 then s.transact r i 0x20 3 [] else s
  else s

/-- Is a reply the answer to a transaction: its CRC good, and its position, sequence and opcode those of the command? -/
def ChnTxn.answered (t : ChnTxn) (crcOk : Bool) (pos seq op : Nat) : Bool := crcOk && pos == t.node && seq == t.seq && op == t.op
/-- Put a reply into the input set of the next frame. -/
def State.replyIn (s : State) (e : ChainEntry) : State := { s with inp := { s.inp with nextChain := s.inp.nextChain ++ [e] } }
/-- Take a good reply: it ends the transaction and is an input of the next frame (R35); it may ask for an enumeration. -/
def State.replyTaken (s : State) (t : ChnTxn) (e : ChainEntry) : State :=
  let r := e.str
  let s := (s.setRing r { s.ring r with txn := none }).replyIn e
  if e.op == 0x20 && t.attempt == 3 then
    let s := s.put (Fd.CHN_STR_STAT_ring r) 2
    s.setRing r { s.ring r with enumDue := true }
  else if e.op == 0x50 && s.ringState r != 1 then s.setRing r { s.ring r with enumDue := true }
  else s
/-- CHAIN_REPLY (R249): a reply is checked against its command. A good one is an input of the next frame (R35); one whose CRC, position,
sequence or opcode does not match fails the transaction. A reply in RETURN mode after two failures says that the ring is broken (R253),
and a STATUS through the whole ring that it may have been restored (R254). -/
def execChainReply (r : Fin 3) (crcOk : Bool) (pos seq op status : Nat) (payload : List Nat) (s : State) : Out :=
  .next <|
    match (s.ring r).txn with
    | none => s
    | some t =>
      if t.answered crcOk pos seq op then s.replyTaken t ⟨r, pos, op, status, payload⟩ else s.txnFail r t (!crcOk)

/-- CHAIN_TXN_TIMEOUT (R249): no start delimiter of a reply came in time. -/
def execChainTxnTimeout (r : Fin 3) (s : State) : Out :=
  .next <| match (s.ring r).txn with
    | none => s
    | some t => s.txnFail r t false

/-- Take one reply of the frame's input set (R35): readings, deltas and the HOT status. -/
def State.takeReply (s : State) (e : ChainEntry) : State :=
  if h : 1 ≤ e.node ∧ e.node ≤ 14 then
    let i : Fin 14 := ⟨e.node - 1, by omega⟩
    let s := s.setNode e.str i { s.node e.str i with hot := e.status == 4 }
    if e.payload.length ≠ replyLen e.op ∨ (e.status ≠ 0 ∧ e.status ≠ 4) then
      if e.op = 0x20 then s.setNode e.str i { s.node e.str i with failed := true } else s
    else if e.op = 0x20 then s.setNode e.str i { s.node e.str i with read := some e.payload, failed := false }
    else if e.op = 0x41 then s.setNode e.str i { s.node e.str i with ow := some e.payload }
    else s
  else s

/-- Take the chain replies of the frame's input set, and at the stamp of a sweep the strings' sense channels. -/
def State.takeChain (s : State) : State :=
  let s := s.input.chain.foldl (fun (s : State) e => s.takeReply e) s
  if s.sweepStart then
    (List.finRange 3).foldl (fun (s : State) (r : Fin 3) => s.setRing r { s.ring r with vSnap := s.cal (9 + r) }) s
  else s

/-! ## Enumeration (R250, R254) -/

/-- RESCAN (R250): the write of rescan is stamped here. -/
def execRescan (mask : Fin 8) (s : State) : Out := .next <| s.enqueue (fieldWrite Fd.CHN_CTRL_rescan mask)
/-- A write of rescan, as it acts. -/
def State.rescanReq (s : State) (mask : Nat) : State :=
  (List.finRange 3).foldl (fun (s : State) (r : Fin 3) => if bit mask r then s.setRing r { s.ring r with enumDue := true } else s) s

/-- Housekeeping frames outside test work (Table 09-5). -/
def State.housekeeping (s : State) (r : Fin 3) : Bool :=
  let f := s.sweepFrame
  decide (1430 ≤ f ∧ f ≤ 4048) && !(s.flag (Fd.CHN_STR_STAT_owt_active r) && decide (1536 ≤ f ∧ f ≤ 3072))

/-- ENUMERATION (R250): in a housekeeping window the master wakes, identifies and positions the nodes; what it found takes effect from the
next sweep. -/
def execEnumeration (r : Fin 3) (found : ChnEnum) (s : State) : Out :=
  .next <|
    if s.strDecl r && (s.ring r).enumDue && s.housekeeping r then
      (s.put (Fd.CHN_STR_STAT_ring r) 4).setRing r { s.ring r with enumDue := false, enumDone := some found, txn := none }
    else s

/-- May RING_TEST send now: in a housekeeping frame of a slow frame's first sweep, with the ring broken or cut off, and idle? -/
def State.ringTestDue (s : State) (r : Fin 3) : Bool :=
  s.strDecl r && (s.ringState r == 2 || s.ringState r == 3) && decide (s.time.frame % 262144 < 4096) && s.housekeeping r && (s.ring r).txn.isNone
/-- RING_TEST (R254): in the first housekeeping window of a slow frame, STATUS goes to node 1 of a ring that is not whole, in RING mode. -/
def execRingTest (r : Fin 3) (s : State) : Out :=
  .next <|
    if s.ringTestDue r then
      let x := s.ring r
      let s := s.setRing r { x with seq := (x.seq + 1) % 16, txn := some ⟨1, 0x50, x.seq, 1⟩ }
      s.emit r ⟨true, false, 1, false, x.seq, 0x50, []⟩
    else s

/-! ## Readings (R257, R261, R265) -/

/-- Two bytes of a payload, most significant first. -/
def be16 (p : List Nat) (k : Nat) : Nat := p.getD k 0 % 256 * 256 + p.getD (k + 1) 0 % 256

/-- String cell of a node's local cell `j`, 1 to 16 (R243). -/
def cellNo (i : Fin 14) (j : Nat) : Nat := 16 * i + j - 1

def State.volt (s : State) (r : Fin 3) (c : Nat) : Nat := s.get (Fd.CHN_CELL_volt r c)
def State.stale (s : State) (r : Fin 3) (c : Nat) : Bool := s.flag (Fd.CHN_CELL_stale r c)
def State.subst (s : State) (r : Fin 3) (c : Nat) : Bool := s.flag (Fd.CHN_CELL_subst r c)
def State.biased (s : State) (r : Fin 3) (c : Nat) : Bool := s.flag (Fd.CHN_CELL_biased r c)
def State.cellTemp (s : State) (r : Fin 3) (i : Fin 14) : Int := sext 16 (s.get (Fd.CHN_NODE_MEAS_temp r (i + 1)))

/-- The bleeding cells of a node at the sample instant (R261): the node's own flags from version 2, the mask last sent for version 1. -/
def State.bleeding (s : State) (r : Fin 3) (i : Fin 14) (payload : List Nat) : Nat :=
  if s.get (Fd.CHN_NODE_STAT_version r (i + 1)) = 2 then be16 payload 36 else s.get (Fd.CHN_NODE_BAL_sent r (i + 1))

/-- Fence a node with a cause (R257, R264), once. -/
def State.fenceNode (s : State) (r : Fin 3) (i : Fin 14) (cause code : Nat) : State :=
  if s.nodeState r i = 3 then s
  else (((s.put (Fd.CHN_NODE_STAT_state r (i + 1)) 3).put (Fd.CHN_NODE_STAT_fence_cause r (i + 1)) cause).record Blk.chn code 2
    (nodeUnit r i)).countNodes r

/-- The cells of a node become stale. -/
def State.staleNode (s : State) (r : Fin 3) (i : Fin 14) : State := s.each 16 fun j s => s.setFlag (Fd.CHN_CELL_stale r (cellNo i (j + 1))) true
/-- A reading of a cell commits, with its mark of a bleeding neighbour. -/
def State.commitCell (s : State) (r c v : Nat) (biased : Bool) : State :=
  (((s.put (Fd.CHN_CELL_volt r c) v).setFlag (Fd.CHN_CELL_stale r c) false).setFlag (Fd.CHN_CELL_subst r c) false).setFlag (Fd.CHN_CELL_biased r c) biased
/-- Is local cell `j` + 1 biased (R261): it or a neighbour bleeds, and HUSH is off? -/
def State.biasOf (s : State) (r : Fin 3) (i : Fin 14) (p : List Nat) (j : Nat) : Bool :=
  !s.flag Fd.CHN_CTRL_hush_en && (bit (2 * s.bleeding r i p) j || bit (2 * s.bleeding r i p) (j + 1) || bit (2 * s.bleeding r i p) (j + 2))
/-- A node was read: its registers take the payload. -/
def State.nodeRead (s : State) (r : Fin 3) (i : Fin 14) (p : List Nat) : State :=
  let s := (s.put (Fd.CHN_NODE_STAT_state r (i + 1)) 1).put (Fd.CHN_NODE_STAT_missing_run r (i + 1)) 0
  let s := (s.put (Fd.CHN_NODE_MEAS_block r (i + 1)) (be16 p 32)).put (Fd.CHN_NODE_MEAS_temp r (i + 1)) (be16 p 34)
  let bias := s.biasOf r i p
  s.each 16 fun j s => s.commitCell r (cellNo i (j + 1)) (be16 p (2 * j)) (bias j)
/-- A node was not read: its cells are stale, and the run of missing sweeps grows. -/
def State.nodeMissed (s : State) (r : Fin 3) (i : Fin 14) : State :=
  let s := s.staleNode r i
  let run := min 3 (s.get (Fd.CHN_NODE_STAT_missing_run r (i + 1)) + 1)
  let s := (s.put (Fd.CHN_NODE_STAT_missing_run r (i + 1)) run).put (Fd.CHN_NODE_STAT_state r (i + 1)) 2
  let s := (s.bump (Fd.CHN_STR_CNT_missing r)).record Blk.chn 0x11 0 (nodeUnit r i)
  if run = 3 then s.fenceNode r i 1 0x12 else s
/-- Commit one node (R257): its readings of the sweep, or the marks of a missing node. A fenced node is not read, and its cells stay
stale. -/
def State.commitNode (s : State) (r : Fin 3) (i : Fin 14) : State :=
  if s.nodeState r i = 3 then s.staleNode r i else
  match (s.node r i).read with
  | some p => s.nodeRead r i p
  | none => s.nodeMissed r i

/-- Substitute the cells beside a broken tap (R265), where the node was read. -/
def State.substitute (s : State) (r : Fin 3) (i : Fin 14) : State :=
  let t := s.get (Fd.CHN_NODE_STAT_broken_tap r (i + 1))
  if (s.node r i).read.isNone || s.nodeState r i == 3 || decide (16 < t) then s else
  let rest (j : Nat) : Nat := ((List.range 16).filter fun k => k + 1 != j).foldl (fun n k => n + s.volt r (cellNo i (k + 1))) 0
  let set (s : State) (j v : Nat) : State :=
    (s.put (Fd.CHN_CELL_volt r (cellNo i j)) (min 65535 v)).setFlag (Fd.CHN_CELL_subst r (cellNo i j)) true
  let block := 10 * s.get (Fd.CHN_NODE_MEAS_block r (i + 1))
  if t = 0 then set s 1 (block - rest 1)
  else if t = 16 then set s 16 (block - rest 16)
  else
    let v := (s.volt r (cellNo i t) + s.volt r (cellNo i (t + 1))) / 2
    set (set s t v) (t + 1) v

/-- The cell sum and E (Table 09-7). -/
def State.stringSum (s : State) (r : Fin 3) : Nat := (List.range 224).foldl (fun n c => n + s.volt r c) 0
def State.sumError (s : State) (r : Fin 3) : Frac := Frac.sub ⟨s.get (Fd.CHN_STR_SUM_sum r), 10000⟩ (s.ring r).vSnap.frac

/-! ## Broken sense wire or cell fault (R264) -/

/-- Does R264 consider a cell: not biased, stale or substituted, and its biased state as in the sweep before? -/
def State.considered (s : State) (r : Fin 3) (i : Fin 14) (j : Nat) : Bool :=
  let c := cellNo i j
  !s.biased r c && !s.stale r c && !s.subst r c && !bit (s.node r i).biasPrev (j - 1)

/-- Ask for a test of a string: in this sweep before its frame 1536, else in the next (R262). -/
def State.testReq (s : State) (r : Fin 3) : State :=
  let s := s.setFlag (Fd.CHN_STR_STAT_owt_due r) true
  if s.served r && decide (s.sweepFrame < 1536) then s.setFlag (Fd.CHN_STR_STAT_owt_active r) true else s

/-- The deviations of a node: whether each local cell deviates, and d of it (100 µV). -/
def State.deviation (s : State) (r : Fin 3) (i : Fin 14) (j : Nat) : Bool × Frac :=
  if h : 1 ≤ j ∧ j ≤ 16 then
    let n := s.node r i
    let k : Fin 16 := ⟨j - 1, by omega⟩
    if !s.considered r i j then (false, Frac.zero) else
    let d := (vget n.r k).sub ((vget n.base k).getD (vget n.r k))
    ((Frac.ofInt (10 * s.get Fd.CHN_DEV_CTRL_dev_thr)).lt d.abs, d)
  else (false, Frac.zero)

/-- r(c) of every considered cell of a string, over their mean μ; a first r becomes the baseline. -/
def State.formR (s : State) (r : Fin 3) : State :=
  let cells := (List.finRange 14).flatMap fun i => ((List.range 16).filter fun j => s.considered r i (j + 1)).map fun j => s.volt r (cellNo i (j + 1))
  let mu : Frac := ⟨(cells.foldl (· + ·) 0 : Nat), max 1 cells.length⟩
  s.eachNode fun i s =>
    let n := s.node r i
    let rs : Vector Frac 16 := Vector.ofFn fun j =>
      if s.considered r i (j + 1) then ((Frac.ofInt (s.volt r (cellNo i (j + 1)))).sub mu).norm else vget n.r j
    s.setNode r i { n with r := rs, base := Vector.ofFn fun j =>
      (match vget n.base j with
        | some b => some b
        | none => if s.considered r i (j + 1) then some (vget rs j) else none) }

/-- The search of R264 in one node. `e` is E − b_E in volts. -/
def State.searchNode (s : State) (r : Fin 3) (i : Fin 14) (e : Frac) : State :=
  if s.nodeState r i = 3 then s else
  let dev (j : Nat) : Bool := (s.deviation r i j).1
  let d (j : Nat) : Frac := (s.deviation r i j).2
  let twice (j : Nat) : Bool := dev j && bit (s.node r i).devPrev (j - 1)
  let tol : Frac := Frac.ofInt (10 * s.get Fd.CHN_DEV_CTRL_pair_tol)
  let pairs := ((List.range 15).map (· + 1)).filter fun t =>
    twice t && twice (t + 1) && decide ((d t).num.sign * (d (t + 1)).num.sign < 0) && ((d t).add (d (t + 1))).abs.le tol
  let singles := ((List.range 16).map (· + 1)).filter fun j => twice j && !dev (j - 1) && !dev (j + 1)
  let sum := (List.range 16).foldl (fun n k => n + s.volt r (cellNo i (k + 1))) 0
  let blockErr := ((sum : Int) - 10 * s.get (Fd.CHN_NODE_MEAS_block r (i + 1))).natAbs
  let calm := e.abs.le ⟨s.get Fd.CHN_DEV_CTRL_sum_tol, 1000⟩ && decide (blockErr ≤ 400)
  let s := match pairs.getLast? with
    | some t =>
      let s := (s.put (Fd.CHN_NODE_STAT_suspect_tap r (i + 1)) t).testReq r
      (s.setFlag (Fd.CHN_CELL_suspect r (cellNo i t)) true).setFlag (Fd.CHN_CELL_suspect r (cellNo i (t + 1))) true
    | none => s
  match singles.getLast? with
  | some j =>
    if calm then ((s.setFlag (Fd.CHN_CELL_suspect r (cellNo i j)) true).setNode r i { s.node r i with suspCell := some j }).testReq r
    else s.fenceNode r i 2 0x16
  | none => s

/-- The baselines and marks that a node keeps for the next sweep. -/
def State.keepNode (s : State) (r : Fin 3) (i : Fin 14) : State :=
  let n := s.node r i
  let mask (f : Nat → Bool) : Nat := (List.range 16).foldl (fun m j => m + (if f (j + 1) then 2 ^ j else 0)) 0
  s.setNode r i { n with
    devPrev := mask fun j => (s.deviation r i j).1
    base := Vector.ofFn fun (j : Fin 16) =>
      if s.considered r i (j + 1) && !(s.deviation r i (j + 1)).1 then
        (vget n.base j).map fun b => (b.add (((vget n.r j).sub b).mul ⟨1, 64⟩)).norm
      else vget n.base j }

/-- The procedure of R264 on a string. -/
def State.search (s : State) (r : Fin 3) : State :=
  if s.enumerating r then s else
  let s := s.formR r
  let big := s.sumError r
  let e := big.sub ((s.ring r).eBase.getD big)
  let s0 := s
  let s := s.eachNode fun i s => s.searchNode r i e
  let anyDev := (List.finRange 14).any fun i => (List.range 16).any fun j => (s0.deviation r i (j + 1)).1
  let s := s.eachNode fun i s => s.keepNode r i
  let b := (s.ring r).eBase.getD big
  s.setRing r { s.ring r with eBase := some (if anyDev then b else (b.add (e.mul ⟨1, 64⟩)).norm) }

/-! ## Limits (R266) -/

/-- Is a cell's reading beyond a limit? A substitute has limits narrowed by 50 mV (R265). -/
def State.beyond (s : State) (r : Fin 3) (c : Nat) : Bool :=
  let n := if s.subst r c then 500 else 0
  !s.stale r c && (decide (s.get Fd.CHN_CELL_LIMITS_ov_limit - n < s.volt r c) || decide (s.volt r c < s.get Fd.CHN_CELL_LIMITS_uv_limit + n))

/-- Take a string out of service for a limit, once. -/
def State.limitString (s : State) (r : Fin 3) (code : Nat) : State :=
  if vget s.zfb.strFenced r then s else (s.fenceStr r).record Blk.chn code 2 (0x700 + r)

/-- The checks of R266 on a string. -/
def State.limits (s : State) (r : Fin 3) : State :=
  let bad (i : Fin 14) : Nat := (List.range 16).foldl (fun m j => m + (if s.beyond r (cellNo i (j + 1)) then 2 ^ j else 0)) 0
  let twice := (List.finRange 14).any fun i => (bad i &&& (s.node r i).limPrev) != 0
  let hot := (List.finRange 14).any fun i => s.nodeState r i != 0 && decide (sext 16 (s.get Fd.CHN_TEMP_LIMITS_t_hard) ≤ s.cellTemp r i)
  let s := s.eachNode fun i s => s.setNode r i { s.node r i with limPrev := bad i }
  let s := if twice then s.limitString r 0x18 else s
  let s := if hot then s.limitString r 0x19 else s
  let s := s.eachNode fun i s =>
    if s.nodeState r i != 0 && decide (sext 16 (s.get Fd.CHN_TEMP_LIMITS_t_bal) ≤ s.cellTemp r i) then s.record Blk.chn 0x1A 0 (nodeUnit r i)
    else s
  let isOver := Frac.lt ⟨s.get Fd.CHN_DEV_CTRL_sum_abs, 10⟩ (s.sumError r).abs
  let run := if isOver then (s.ring r).sumRun + 1 else 0
  let s := (s.setRing r { s.ring r with sumRun := min 4 run }).setFlag (Fd.CHN_STR_STAT_sum_flag r) (decide (4 ≤ run))
  if run = 4 && decide ((s.ring r).sumRun = 4) then s.record Blk.chn 0x1B 1 (0x700 + r) else s

/-! ## Balancing (R258, R259) -/

/-- A cell's state of charge as the estimator holds it (R284), a fraction. -/
def State.cellSoc (s : State) (r : Fin 3) (c : Nat) : Frac := s.est.zs.getD (224 * r + c) Frac.zero

/-- The AUTO masks of a string, formed at frame 1024. -/
def State.autoMasks (s : State) (r : Fin 3) : State :=
  let valid := (List.range 224).filter fun c => !s.stale r c
  let low := match valid with
    | [] => Frac.zero
    | c :: cs => cs.foldl (fun m k => Frac.min m (s.cellSoc r k)) (s.cellSoc r c)
  let lim : Frac := low.add ⟨s.get Fd.CHN_BAL_CTRL_bal_window, 10000⟩
  s.eachNode fun i s =>
    let cool := decide (s.cellTemp r i < sext 16 (s.get Fd.CHN_TEMP_LIMITS_t_bal)) && !vget s.zfb.strFenced r
    let on (j : Nat) : Bool := cool && !s.subst r (cellNo i (j + 1)) && lim.lt (s.cellSoc r (cellNo i (j + 1)))
    s.setNode r i { s.node r i with autoMask := (List.range 16).foldl (fun m j => m + (if on j then 2 ^ j else 0)) 0 }

/-- The mask a node is sent (R259). In SLEEP nothing is balanced (Table 15-5). -/
def State.balMask (s : State) (r : Fin 3) (i : Fin 14) : Nat :=
  if s.get Fd.CLK_PSTATE_state != 0 then 0 else
  match s.get Fd.CHN_CTRL_bal_mode with
  | 1 => (s.node r i).autoMask
  | 2 => s.get (Fd.CHN_NODE_BAL_mask r (i + 1))
  | _ => 0

/-- May a node take a command now: its ring is served and idle, and it is reached and known? -/
def State.nodeReady (s : State) (r : Fin 3) (i : Fin 14) : Bool := s.served r && (s.ring r).txn.isNone && s.reachable r i && s.nodeState r i != 0
/-- BALANCE_SEND (R259): the node whose slot runs takes its mask, with duration bal_dur. -/
def execBalanceSend (r : Fin 3) (s : State) : Out :=
  .next <|
    let f := s.sweepFrame
    if h : 1024 ≤ f ∧ (f - 1024) / 29 < 14 then
      let i : Fin 14 := ⟨(f - 1024) / 29, h.2⟩
      if s.nodeReady r i then
        let m := s.balMask r i
        (s.put (Fd.CHN_NODE_BAL_sent r (i + 1)) m).transact r i 0x30 1 [m / 256, m % 256, max 1 (s.get Fd.CHN_BAL_CTRL_bal_dur)]
      else s
    else s

/-- Keep which cells of a node were biased in the sweep before. -/
def State.keepBias (s : State) (r : Fin 3) (i : Fin 14) : State :=
  s.setNode r i { s.node r i with biasPrev := (List.range 16).foldl (fun m j => m + (if s.biased r (cellNo i (j + 1)) then 2 ^ j else 0)) 0 }
/-- The sum, E and the HOT summary of a string. -/
def State.sumRing (s : State) (r : Fin 3) : State :=
  let s := s.put (Fd.CHN_STR_SUM_sum r) (s.stringSum r)
  let s := s.putBF (Reg.CHN_STR_DIFF r) (roundBF (s.sumError r))
  s.setFlag (Fd.CHN_STR_STAT_hot r) ((List.finRange 14).any fun i => (s.node r i).hot)
/-- Commit the readings of a string (R257): the nodes, the substitutes, the sum, the search of R264, the checks of R266 and the AUTO masks. -/
def State.commitRing (s : State) (r : Fin 3) : State :=
  if !s.served r then s else
  let s := s.eachNode fun i s => s.keepBias r i
  let s := s.eachNode fun i s => s.commitNode r i
  let s := (s.countNodes r).eachNode fun i s => s.substitute r i
  (((s.sumRing r).search r).limits r).autoMasks r
/-- READINGS_COMMIT (R257): at frame 1024 of a sweep, string by string. -/
def execReadingsCommit (s : State) : Out := .next <| if s.sweepFrame != 1024 then s else (List.finRange 3).foldl State.commitRing s

/-! ## Open-wire test (R262, R263) -/

/-- OWT_REQUEST (R262): the write of owt_now is stamped here. -/
def execOwtRequest (mask : Fin 8) (s : State) : Out := .next <| s.enqueue (fieldWrite Fd.CHN_OWT_REQ_owt_now mask)
/-- A write of owt_now, as it acts. -/
def State.owtReq (s : State) (mask : Nat) : State :=
  (List.finRange 3).foldl (fun (s : State) (r : Fin 3) => if bit mask r then s.testReq r else s) s

/-- OWT_SEND (R262): in frame 1536 of a test sweep. -/
def execOwtSend (r : Fin 3) (s : State) : Out :=
  .next <|
    if s.served r && s.flag (Fd.CHN_STR_STAT_owt_active r) && s.sweepFrame == 1536 then
      (s.setFlag (Fd.CHN_STR_STAT_owt_due r) false).broadcast r 0x40 []
    else s

/-- OW_READ (R262): the deltas of the node whose slot runs, in a test sweep. -/
def execOwRead (r : Fin 3) (s : State) : Out :=
  .next <|
    let f := s.sweepFrame
    if h : 2048 ≤ f ∧ (f - 2048) / 64 < 14 then
      let i : Fin 14 := ⟨(f - 2048) / 64, h.2⟩
      if s.nodeReady r i && s.flag (Fd.CHN_STR_STAT_owt_active r) && s.nodeState r i != 3 && (s.node r i).ow.isNone
      then s.transact r i 0x41 1 [] else s
    else s

/-- Insert a value into a sorted list. -/
def insertInt (x : Int) : List Int → List Int
  | [] => [x]
  | y :: l => if x ≤ y then x :: y :: l else y :: insertInt x l
/-- Twice the median of an even number of values: the sum of the two in the middle. -/
def twiceMedian (xs : List Int) : Int :=
  let l := xs.foldl (fun l x => insertInt x l) []
  l.getD (l.length / 2 - 1) 0 + l.getD (l.length / 2) 0

/-- Delta of local cell `j` of an OW_READ payload, 100 µV. -/
def owDelta (p : List Nat) (j : Nat) : Int := sext 16 (be16 p (2 * (j - 1)))

/-- Is a tap open (R263)? 150 mV is 1500 units. -/
def tapOpen (p : List Nat) (t : Nat) : Bool :=
  let m2 := twiceMedian ((List.range 16).map fun k => owDelta p (k + 1))
  let inner (t : Nat) : Bool := decide (3000 < owDelta p (t + 1) - owDelta p t)
  if t = 0 then decide (3000 < m2 - 2 * owDelta p 1) && !inner 1
  else if t = 16 then decide (3000 < m2 - 2 * owDelta p 16)
  else inner t

/-- Does a biased cell keep a tap out of the checks (R261)? -/
def State.tapBiased (s : State) (r : Fin 3) (i : Fin 14) (t : Nat) : Bool :=
  (decide (1 ≤ t) && s.biased r (cellNo i t)) || (decide (t ≤ 15) && s.biased r (cellNo i (t + 1)))

/-- A tap is BROKEN_TAP (R264, R265); the fault is recorded when it becomes so, and its cells report
substitutes at once. -/
def State.breakTap (s : State) (r : Fin 3) (i : Fin 14) (t : Nat) : State :=
  if s.get (Fd.CHN_NODE_STAT_broken_tap r (i + 1)) = t then s
  else ((s.put (Fd.CHN_NODE_STAT_broken_tap r (i + 1)) t).record Blk.chn 0x14 1 (nodeUnit r i)).substitute r i

/-- Is a tap open, and not kept out of the checks? -/
def State.openTap (s : State) (r : Fin 3) (i : Fin 14) (p : List Nat) (t : Nat) : Bool := !s.tapBiased r i t && tapOpen p t
/-- The suspicions of a node end with the test. -/
def State.dropSuspects (s : State) (r : Fin 3) (i : Fin 14) : State :=
  let s := s.put (Fd.CHN_NODE_STAT_suspect_tap r (i + 1)) 31
  let s := s.each 16 fun j s => s.setFlag (Fd.CHN_CELL_suspect r (cellNo i (j + 1))) false
  s.setNode r i { s.node r i with suspCell := none }
/-- A suspected cell has neither tap open: its deviation is the cell's own (R264), and its value becomes the baseline. -/
def State.cellFault (s : State) (r : Fin 3) (i : Fin 14) (j : Nat) : State :=
  let n := s.node r i
  let s := if h : j - 1 < 16 then s.setNode r i { n with base := vset n.base ⟨j - 1, h⟩ (some (vget n.r ⟨j - 1, h⟩)) } else s
  (s.setRing r { s.ring r with cellStep := true }).record Blk.chn 0x15 1 (0x700 + r)
/-- The result of the test for one node (R263 to R265). -/
def State.judgeNode (s : State) (r : Fin 3) (i : Fin 14) (p : List Nat) : State :=
  let isOpen := s.openTap r i p
  let biased := s.tapBiased r i
  let opens := (List.range 17).filter isOpen
  let susp := s.get (Fd.CHN_NODE_STAT_suspect_tap r (i + 1))
  let cell := (s.node r i).suspCell
  let s := s.dropSuspects r i
  let old := s.get (Fd.CHN_NODE_STAT_broken_tap r (i + 1))
  let s := if old ≤ 16 && !isOpen old && !biased old then s.put (Fd.CHN_NODE_STAT_broken_tap r (i + 1)) 31 else s
  if susp ≤ 16 && !isOpen susp && !biased susp then s.fenceNode r i 2 0x16
  else if susp ≤ 16 && isOpen susp then s.breakTap r i susp
  else match cell, opens.head? with
    | some j, o =>
      if isOpen (j - 1) then s.breakTap r i (j - 1)
      else if isOpen j then s.breakTap r i j
      else match o with
        | some t => (s.cellFault r i j).breakTap r i t
        | none => s.cellFault r i j
    | none, some t => if old ≤ 16 && isOpen old then s else s.breakTap r i t
    | none, none => s

/-- Judge a node whose deltas of the test were read. A fenced node is not judged. -/
def State.owtNode (s : State) (r : Fin 3) (i : Fin 14) : State :=
  match (s.node r i).ow with
  | some p => if s.nodeState r i = 3 then s else s.judgeNode r i p
  | none => s
/-- The result of a string's test. -/
def State.owtRing (s : State) (r : Fin 3) : State :=
  if !s.served r || !s.flag (Fd.CHN_STR_STAT_owt_active r) then s else s.eachNode fun i s => s.owtNode r i
/-- OWT_COMMIT (R263): at frame 3072 of a test sweep. -/
def execOwtCommit (s : State) : Out := .next <| if s.sweepFrame != 3072 then s else (List.finRange 3).foldl State.owtRing s

/-! ## Clearing (Table 13-7, STORAGE_CLEAR) -/

/-- Clear a node's fence: it is read again in the next sweep. -/
def State.clearNode (s : State) (r : Fin 3) (i : Fin 14) : State :=
  if s.nodeState r i = 3 then
    (((s.put (Fd.CHN_NODE_STAT_state r (i + 1)) (if s.get (Fd.CHN_NODE_STAT_version r (i + 1)) = 0 then 0 else 1)).put
      (Fd.CHN_NODE_STAT_fence_cause r (i + 1)) 0).put (Fd.CHN_NODE_STAT_missing_run r (i + 1)) 0).countNodes r
  else s

/-- Clear CELL_STEP of a string (Table 09-6). -/
def State.clearCellStep (s : State) (r : Fin 3) : State := s.setRing r { s.ring r with cellStep := false }

end Sys2Proof.Machine
end

