-- ==== Sys2Proof/Machine/Est.lean ====
section
/-! DEFINITION. Charge and capacity estimation (chapter 10): the accumulators (R277, R278), the rules the EST block applies to an ESTIMATE
record at commit (R273, R283 to R290), capacity learning (R291 to R294), and the capacity store (R295 to R297). The cell model (R279)
stands in the registers; the filter that reads it runs on the array, in BF16, and its record is an operand of BASKET_PASS. -/

namespace Sys2Proof.Machine

def State.estStr (s : State) (r : Fin 3) : EstStr := vget s.est.strs r
def State.setEst (s : State) (r : Fin 3) (x : EstStr) : State := { s with est := { s.est with strs := vset s.est.strs r x } }
/-- Apply a function for each string. -/
def State.eachStr (f : Fin 3 → State → State) (s : State) : State := (List.finRange 3).foldl (fun (s : State) (r : Fin 3) => f r s) s

/-- The accumulator and Q_snap, 4 nC (R277). -/
def State.qAcc (s : State) (r : Fin 3) : Int := sext 64 (s.get64 (Reg.EST_STR_QACC_LO r) (Reg.EST_STR_QACC_HI r))
def State.qSnap (s : State) (r : Fin 3) : Int := sext 64 (s.get64 (Reg.EST_STR_QSNAP_LO r) (Reg.EST_STR_QSNAP_HI r))
/-- q_use, mAh (R291). -/
def State.qUse (s : State) (r : Fin 3) : Nat := s.get (Fd.EST_STR_CAP_cap r)
/-- A charge in accumulator units as mAh. -/
def qMah (q : Int) : Frac := ⟨q, 900000000⟩
/-- Seconds in engine cycles. -/
def secCycles (n : Nat) : Nat := n * 250000000
/-- A percentage or a point value in steps of 0.01, rounded down. -/
def centi (x : Frac) : Nat := min 65535 (x.mul ⟨100, 1⟩).floor.toNat

/-! ## The accumulator (R277, R278) -/

/-- i_s of a frame in mA, with the mark of a gap: the string-side currents of the two stages, a weighted stage without telemetry standing with
its last reported current. -/
def State.stringMa (s : State) (r : Fin 3) : Int × Bool × Vector Int 2 :=
  let x := s.estStr r
  let cur (k : Fin 2) : Int × Bool :=
    let n := 16 + 2 * r.val + k.val
    if s.teleHere n then ((match s.teleOf n with | some t => t.inI | none => 0), false)
    else if s.laneW n ≠ 0 then (vget x.lastI k, true) else (0, false)
  let last : Vector Int 2 := Vector.ofFn fun k => if s.teleHere (16 + 2 * r.val + k.val) then (cur k).1 else vget x.lastI k
  (Frac.round ⟨((cur 0).1 + (cur 1).1) * 1000, 4096⟩, (cur 0).2 || (cur 1).2, last)

/-- What the EST block does with a frame's input: the accumulator, i_snap over frames 0 to 2 of a sweep, and the sums of R278. -/
def State.estClose (s : State) : State :=
  s.eachStr fun r s =>
    if !s.strDecl r then s else
    let i := s.stringMa r
    let x := s.estStr r
    let sum3 := if s.sweepFrame = 0 then i.1 else if s.sweepFrame ≤ 2 then x.iSum3 + i.1 else x.iSum3
    let s := s.setEst r { x with
      lastI := i.2.2, iSum3 := sum3, gapFrames := x.gapFrames + b2n i.2.1, accSum := x.accSum + i.1
      senseSum := (x.senseSum.add (s.cal (12 + r)).frac).norm, frames := x.frames + 1 }
    let s := s.put64 (Reg.EST_STR_QACC_LO r) (Reg.EST_STR_QACC_HI r) (toBits 64 (s.qAcc r + i.1))
    if s.sweepFrame = 2 then s.putBF (Reg.EST_STR_ISNAP r) (roundBF ⟨sum3, 3000⟩) else s

/-- Discard the anchor of a string. -/
def State.dropAnchor (s : State) (r : Fin 3) : State :=
  (s.setEst r { s.estStr r with anchor := none }).put (Fd.EST_STR_ANCHOR_anchor_soc r) 0xFFFF
/-- End full-discharge tracking. -/
def State.dropTrack (s : State) (r : Fin 3) : State := s.setFlag (Fd.EST_STR_FLAG_track_full r) false

/-- At the start of a sweep: Q_snap is latched, the sweep just ended is judged (gap, current means), and the sweep without a commit counts
(R277, R278, R293). -/
def State.estTick (s : State) : State :=
  if !s.sweepStart then s else
  s.eachStr fun r s =>
    if !s.strDecl r then s else
    let x := s.estStr r
    let gap := decide (256 < x.gapFrames)
    let a : Frac := ⟨x.accSum, 1000 * max 1 x.frames⟩
    let b : Frac := x.senseSum.mul ⟨1, max 1 x.frames⟩
    let tol := (Frac.ofInt 2).add ((Frac.max a.abs b.abs).mul ⟨2, 100⟩)
    let off := decide (x.frames ≠ 0) && tol.lt (a.sub b).abs
    let bad := if off then min 64 (x.curBad + 1) else 0
    let good := if off then 0 else min 64 (x.curGood + 1)
    let was := s.flag (Fd.EST_STR_FLAG_cur_flag r)
    let s := s.setEst r { x with
      curBad := bad, curGood := good, gapFrames := 0, accSum := 0, senseSum := Frac.zero, frames := 0, qPrev := s.qSnap r
      stampPrev := x.stamp, stamp := s.time.frameStart, missedCommits := x.missedCommits + 1 }
    let s := s.put64 (Reg.EST_STR_QSNAP_LO r) (Reg.EST_STR_QSNAP_HI r) (toBits 64 (s.qAcc r))
    let s := s.setFlag (Fd.EST_STR_FLAG_gap r) gap
    let s := if gap then (s.dropAnchor r).dropTrack r else s
    let s := if 5 < (s.estStr r).missedCommits then s.dropTrack r else s
    if !was && bad = 64 then (s.setFlag (Fd.EST_STR_FLAG_cur_flag r) true).record Blk.est 0x11 1 (0x700 + r)
    else if was && good = 64 then s.setFlag (Fd.EST_STR_FLAG_cur_flag r) false else s

/-! ## The string value (R284, R289) -/

/-- The least and greatest z of a string's cells. -/
def State.zRange (s : State) (r : Fin 3) : Frac × Frac :=
  let zs := (s.est.zs.drop (224 * r)).take 224
  match zs with
  | [] => (Frac.zero, Frac.zero)
  | z :: l => (l.foldl Frac.min z, l.foldl Frac.max z)

/-- S_str, per cent (R284). -/
def State.stringValue (s : State) (r : Fin 3) : Frac :=
  let z := s.zRange r
  if z.1.isZero then Frac.zero
  else if (Frac.ofInt 1).le z.2 then Frac.ofInt 100
  else (((Frac.ofInt 100).mul z.1).div ((z.1.add (Frac.ofInt 1)).sub z.2)).norm

/-- Show the values of a string in its registers. -/
def State.estRegs (s : State) (r : Fin 3) : State :=
  let x := s.estStr r
  let s := (s.put (Fd.EST_STR_SOC_soc_str r) (centi x.sStr)).put (Fd.EST_STR_SOC_soc_rep r) (centi x.sRep)
  let s := (s.put (Fd.EST_STR_CC_div r) (centi x.d)).put (Fd.EST_STR_CC_soc_cc r) (centi x.sCc)
  let s := s.putBF (Reg.EST_STR_ICV r) (roundBF x.icv)
  let mah (q : Int) : Nat := min 65535 (qMah q).floor.toNat
  (s.put (Fd.EST_STR_TRACK_q_dis r) (mah x.qDis)).put (Fd.EST_STR_TRACK_q_chg r) (mah x.qChg)

/-- Re-anchor S_cc: it is set to the string value (R289), which closes the divergence window (R290). -/
def State.reanchor (s : State) (r : Fin 3) : State :=
  s.setEst r { s.estStr r with sCc := (s.estStr r).sStr, d := Frac.zero, divOpen := none, conflictNow := false }

/-- Set the z of one cell, and form the string value again. -/
def State.setZ (s : State) (r : Fin 3) (c : Nat) (z : Frac) : State :=
  let s := { s with est := { s.est with zs := s.est.zs.set (224 * r + c) z } }
  s.setEst r { s.estStr r with sStr := s.stringValue r }

/-- Report a value, to the profile generator too, which takes it at the sweep boundary (R106). -/
def State.report (s : State) (r : Fin 3) (v : Frac) : State :=
  let s := s.setEst r { s.estStr r with sRep := v }
  { s with prf := { s.prf with socIn := vset s.prf.socIn r (some v) } }

/-! ## Capacity (R291, R292) -/

/-- Learn a capacity in mAh (R292): outside half to 1.1 times the rated capacity it is ignored and noted. -/
def State.learn (s : State) (r : Fin 3) (q : Frac) (source : Nat) : State :=
  let rated := s.get (Fd.EST_MODEL_CTRL_cap_rated r)
  if (Frac.mk rated 2).le q && q.le ⟨11 * rated, 10⟩ then
    let s := s.setEst r { s.estStr r with learned := q.round.toNat, source := source }
    let s := s.setFlag (Fd.EST_STR_FLAG_suspect r) false
    { s with est := { s.est with storeDue := true, learnCount := s.est.learnCount + 1 } }
  else s.record Blk.est 0x13 0 (0x700 + r)

/-- At a commit a change of q_use takes effect and re-anchors the count (R289, R291). -/
def State.takeCapacity (s : State) (r : Fin 3) : State × Bool :=
  let x := s.estStr r
  let q := if x.learned = 0 then s.get (Fd.EST_MODEL_CTRL_cap_rated r) else x.learned
  let src := if x.learned = 0 then 0 else x.source
  let changed := decide (q ≠ s.qUse r)
  ((s.put (Fd.EST_STR_CAP_cap r) q).put (Fd.EST_STR_CAP_source r) src, changed)

/-! ## The commit (R273) -/

/-- The cells of a string with a valid reading, and the highest reading. -/
def State.validCells (s : State) (r : Fin 3) : List Nat := (List.range 224).filter fun c => !s.stale r c
def State.highest (s : State) (r : Fin 3) : Nat := (s.validCells r).foldl (fun m c => max m (s.volt r c)) 0
/-- Were the sweep's readings committed with no node missing? -/
def State.noneMissing (s : State) (r : Fin 3) : Bool :=
  (List.finRange 14).all fun i => s.nodeState r i == 1 && s.get (Fd.CHN_NODE_STAT_missing_run r (i + 1)) == 0

/-- I_cv and the constant-voltage phase (R286). -/
def State.cvStep (s : State) (r : Fin 3) : State :=
  let x := s.estStr r
  let full := s.flag (Fd.PRF_STR_BAND_full_charge r)
  let v := s.highest r
  let vcv := s.get Fd.EST_CHARGE_v_cv
  let rated := Frac.ofInt (s.strRated r)
  let icv := if !full then rated
    else if vcv ≤ v then (x.icv.mul ⟨9, 10⟩).norm
    else if v + 100 < vcv then (Frac.min rated ((x.icv.mul ⟨105, 100⟩).add ⟨1, 10⟩)).norm
    else x.icv
  (s.setEst r { x with icv := icv }).setFlag (Fd.EST_STR_FLAG_cv r) (full && decide (vcv ≤ v + 100))

/-- The magnitude of the sweep's mean current, A. -/
def State.meanMag (s : State) (r : Fin 3) : Frac :=
  let x := s.estStr r
  ⟨(s.qSnap r - x.qPrev).natAbs, max 1 (x.stamp - x.stampPrev)⟩

/-- Has a window that opened at a stamp ended by the present one (R57)? Its end lies outside it, so what the sweep at the end shows no longer counts. -/
def windowOver (opened : Option Nat) (secs stamp : Nat) : Bool := match opened with
  | some t0 => decide (t0 + secCycles secs ≤ stamp)
  | none => false

/-- The taper window (R287): it finds end of charge for the command that carries it out. -/
def State.taperStep (s : State) (r : Fin 3) : State :=
  let x := s.estStr r
  let qual := s.flag (Fd.EST_STR_FLAG_cv r) && s.noneMissing r &&
    (s.meanMag r).lt ⟨s.qUse r, 1000 * max 1 (s.get Fd.EST_CHARGE_taper_div)⟩
  if !qual then (s.setEst r { x with taperOpen := none, eocNow := windowOver x.taperOpen (s.get Fd.EST_TIMES_taper_time) x.stamp }).put
    (Fd.EST_STR_TAPER_taper_count r) 0 else
  match x.taperOpen with
  | none => (s.setEst r { x with taperOpen := some x.stamp }).put (Fd.EST_STR_TAPER_taper_count r) 1
  | some t0 =>
    let s := s.bumpSat (Fd.EST_STR_TAPER_taper_count r)
    if t0 + secCycles (s.get Fd.EST_TIMES_taper_time) ≤ x.stamp then s.setEst r { x with eocNow := true } else s

/-- The rest window (R294): it finds rest points for the command that carries them out. -/
def State.restStep (s : State) (r : Fin 3) : State :=
  let x := s.estStr r
  let rest := s.noneMissing r && (s.meanMag r).lt ⟨s.get Fd.EST_LIMITS_rest_i, 1000⟩
  let s := s.setFlag (Fd.EST_STR_FLAG_at_rest r) rest
  if !rest then (s.setEst r { x with restOpen := none, restNow := windowOver x.restOpen (s.get Fd.EST_TIMES_rest_time) x.stamp }).put
    (Fd.EST_STR_REST_rest_count r) 0 else
  match x.restOpen with
  | none => (s.setEst r { x with restOpen := some x.stamp }).put (Fd.EST_STR_REST_rest_count r) 1
  | some t0 =>
    let s := s.bumpSat (Fd.EST_STR_REST_rest_count r)
    if t0 + secCycles (s.get Fd.EST_TIMES_rest_time) ≤ x.stamp then
      (s.setEst r { x with restNow := true, restOpen := some x.stamp }).put (Fd.EST_STR_REST_rest_count r) 1
    else s

/-- Full-discharge tracking over one commit (R293). -/
def State.trackStep (s : State) (r : Fin 3) : State :=
  if !s.flag (Fd.EST_STR_FLAG_track_full r) then s else
  let x := s.estStr r
  let dq := s.qSnap r - x.qPrev
  let x := if 0 < dq then { x with qDis := x.qDis + dq } else { x with qChg := x.qChg - dq }
  let s := s.setEst r x
  if (Frac.mk (s.qUse r * 2) 100).lt (qMah x.qChg) || s.get (Fd.CHN_STR_STAT_n_fenced r) != 0 || vget s.zfb.strFenced r then s.dropTrack r else s

/-- The counted value, its divergence, and the divergence window (R289, R290). -/
def State.countStep (s : State) (r : Fin 3) : State :=
  let x := s.estStr r
  let dq := s.qSnap r - x.qPrev
  let step : Frac := if s.qUse r = 0 then Frac.zero else (qMah (100 * dq)).mul ⟨1, s.qUse r⟩
  let cc := (Frac.max Frac.zero (Frac.min (Frac.ofInt 100) (x.sCc.sub step))).norm
  let d := (x.sStr.sub cc).abs.norm
  let isOver := (Frac.ofInt (s.get Fd.EST_CONFLICT_div_thr)).lt d
  let x := { x with sCc := cc, d := d }
  if !isOver then s.setEst r { x with divOpen := none, conflictNow := windowOver x.divOpen (s.get Fd.EST_CONFLICT_div_time) x.stamp } else
  match x.divOpen with
  | none => s.setEst r { x with divOpen := some x.stamp }
  | some t1 => s.setEst r { x with conflictNow := decide (t1 + secCycles (s.get Fd.EST_CONFLICT_div_time) ≤ x.stamp) }

/-- The reported value outside end of charge and cutoff (Table 10-3). `d` is the divergence after the previous commit. -/
def State.reported (s : State) (r : Fin 3) (d : Frac) : Frac :=
  let x := s.estStr r
  if s.flag (Fd.EST_STR_FLAG_discharging r) then Frac.min x.sRep x.sStr
  else if d.le (Frac.ofInt (s.get Fd.EST_CONFLICT_hold_thr)) then
    let c : Frac := ⟨s.get Fd.EST_CONFLICT_conv, 100⟩
    (x.sRep.add (Frac.max c.neg (Frac.min c (x.sStr.sub x.sRep)))).norm
  else x.sRep

/-- The lowest-numbered cell at its cutoff (R288); a substitute counts 50 mV above it. -/
def State.cutoffCell (s : State) (r : Fin 3) : Option Nat :=
  (s.validCells r).find? fun c => decide (s.volt r c ≤ s.get Fd.EST_LIMITS_v_cutoff + (if s.subst r c then 500 else 0))

/-- Cutoff (R288): the cell is empty, the reported value is 0, S_cc is re-anchored, and full-discharge tracking learns (R293). -/
def State.cutoff (s : State) (r : Fin 3) (c : Nat) : State :=
  let s := ((s.setZ r c Frac.zero).setFlag (Fd.EST_STR_FLAG_cutoff r) true).reanchor r
  let s := s.report r Frac.zero
  let s := if s.flag (Fd.EST_STR_FLAG_track_full r) then
      (s.learn r (qMah ((s.estStr r).qDis - (s.estStr r).qChg)) 1).dropTrack r
    else s
  s.setFlag (Fd.PRF_STR_BAND_full_discharge r) false

/-- The rules of a commit for one string. -/
def State.commitString (s : State) (r : Fin 3) : State :=
  if !s.strDecl r || !s.flag (Fd.EST_MODEL_CTRL_valid r) then s else
  let x := s.estStr r
  let s := s.setEst r { x with sStr := s.stringValue r, missedCommits := 0, eocNow := false, restNow := false, conflictNow := false }
  let s := s.setFlag (Fd.EST_STR_FLAG_discharging r) (decide (0 < s.qSnap r - x.qPrev))
  let cap := s.takeCapacity r
  let s := cap.1
  if x.initDue then
    if (s.validCells r).length = 224 then
      let s := s.setEst r { s.estStr r with initDue := false }
      ((((s.reanchor r).report r (s.stringValue r)).setFlag (Fd.EST_STR_FLAG_init r) true).estRegs r)
    else s
  else
    let s := (s.cvStep r).taperStep r
    let s := s.trackStep r
    let s := s.countStep r
    let s := if cap.2 then s.reanchor r else s
    let s := s.report r (s.reported r x.d)
    let s := match s.cutoffCell r with
      | some c => s.cutoff r c
      | none => s
    (s.restStep r).estRegs r

/-- Take a record: the blocks, and the state of charge of each cell, the first of a cell's six elements. -/
def State.takeEstimate (s : State) (bs : List ArrBlock) : State :=
  let el (n : Nat) : Frac := match bs[n / 16]? with
    | some b => b.elem .bf16 (n % 16)
    | none => Frac.zero
  { s with est := { s.est with record := bs, zs := (List.range 672).map fun n => el (6 * n) } }
/-- The record that a pass has left is taken away. -/
def State.estTaken (s : State) : State := { s with arr := { s.arr with estOut := none } }
/-- ESTIMATE_RECORD (R273 to R275): at commit the EST block takes the record that the estimator's pass has left, and applies its rules. The
standby discards its own and takes the claimant's state. -/
def execEstimateRecord (s : State) : Out :=
  .next <|
    match s.arr.estOut with
    | none => s
    | some bs => if s.isStandby then s.estTaken else (List.finRange 3).foldl State.commitString (s.estTaken.takeEstimate bs)

/-- The lowest-numbered cell with the highest reading. -/
def State.topCell (s : State) (r : Fin 3) : Nat := ((s.validCells r).find? fun c => s.volt r c == s.highest r).getD 0
/-- End of charge (R287): the highest cell is full, the reported value is 100, S_cc is re-anchored, and full-discharge tracking starts. -/
def State.endCharge (s : State) (r : Fin 3) : State :=
  let s := ((s.setZ r (s.topCell r) (Frac.ofInt 1)).reanchor r).report r (Frac.ofInt 100)
  let s := s.setEst r { s.estStr r with qDis := 0, qChg := 0, eocNow := false, taperOpen := none }
  let s := (s.setFlag (Fd.EST_STR_FLAG_eoc r) true).setFlag (Fd.EST_STR_FLAG_track_full r) true
  ((s.put (Fd.EST_STR_TAPER_taper_count r) 0).setFlag (Fd.PRF_STR_BAND_full_charge r) false).estRegs r
/-- END_OF_CHARGE (R287). -/
def execEndOfCharge (r : Fin 3) (s : State) : Out := .next <| if !(s.estStr r).eocNow then s else s.endCharge r

/-- The store falls due. -/
def State.setDue (s : State) (due : Bool) : State := { s with est := { s.est with storeDue := due } }
/-- The conflict of R290: the capacity is suspect, which the store keeps, and the count is re-anchored. -/
def State.diverged (s : State) (r : Fin 3) : State :=
  let due := s.est.storeDue || !s.flag (Fd.EST_STR_FLAG_suspect r)
  let s := (s.setDue due).reanchor r
  (((s.setFlag (Fd.EST_STR_FLAG_conflict r) true).setFlag (Fd.EST_STR_FLAG_suspect r) true).estRegs r).record Blk.est 0x12 1 (0x700 + r)
/-- DIVERGENCE_CONFLICT (R290). -/
def execDivergenceConflict (r : Fin 3) (s : State) : Out := .next <| if !(s.estStr r).conflictNow then s else s.diverged r

/-- Set a string's anchor at the present rest point. -/
def State.putAnchor (s : State) (r : Fin 3) : State :=
  let x := s.estStr r
  (s.setEst r { x with anchor := some ⟨x.sStr, s.qSnap r, x.stamp, false⟩ }).put (Fd.EST_STR_ANCHOR_anchor_soc r) (centi x.sStr)
/-- The capacity that two rest points give (R294): half the way from q_use to the charge between them over the change of the value. -/
def State.restCapacity (s : State) (r : Fin 3) (a : Anchor) : Frac :=
  let ds := ((s.estStr r).sStr.sub a.soc).abs
  let q := ((qMah (s.qSnap r - a.q).natAbs).mul (Frac.ofInt 100)).div ds
  let use := Frac.ofInt (s.qUse r)
  (use.add ((q.sub use).mul ⟨1, 2⟩)).norm
/-- Does a rest point take the place of an anchor: it lies farther from 50 per cent, or the anchor is too old? -/
def State.betterAnchor (s : State) (r : Fin 3) (a : Anchor) : Bool :=
  (a.soc.sub (Frac.ofInt 50)).abs.lt ((s.estStr r).sStr.sub (Frac.ofInt 50)).abs || a.expired
/-- Calibration at a rest point (R294), where the string is calibrated. -/
def State.calibrate (s : State) (r : Fin 3) : State :=
  if !bit (s.get Fd.EST_CTRL_calib) r then s else
  match (s.estStr r).anchor with
  | none => s.putAnchor r
  | some a =>
    if (Frac.ofInt 50).le ((s.estStr r).sStr.sub a.soc).abs then (s.learn r (s.restCapacity r a) 2).putAnchor r
    else if s.betterAnchor r a then s.putAnchor r
    else s
/-- A rest point that was found is taken. -/
def State.restTaken (s : State) (r : Fin 3) : State := (s.setEst r { s.estStr r with restNow := false }).reanchor r
/-- REST_POINT (R294). -/
def execRestPoint (r : Fin 3) (s : State) : Out := .next <| if !(s.estStr r).restNow then s else ((s.restTaken r).calibrate r).estRegs r

/-- ANCHOR_EXPIRY (R294): anchor_age hours after an anchor was taken. -/
def execAnchorExpiry (r : Fin 3) (s : State) : Out :=
  .next <| match (s.estStr r).anchor with
    | some a =>
      if a.t + secCycles (3600 * s.get Fd.EST_ANCHOR_AGE_anchor_age) ≤ s.now then s.setEst r { s.estStr r with anchor := some { a with expired := true } }
      else s
    | none => s

/-- ANCHOR_DISCARD (R294): the write of discard_anchor is stamped here. -/
def execAnchorDiscard (mask : Fin 8) (s : State) : Out := .next <| s.enqueue (fieldWrite Fd.EST_CTRL_discard_anchor mask)
/-- A write of discard_anchor, as it acts. -/
def State.discardAnchors (s : State) (mask : Nat) : State := s.eachStr fun r s => if bit mask r then s.dropAnchor r else s

/-- MODEL_VALID_WRITE (R298): the write of valid is stamped here. -/
def execModelValidWrite (r : Fin 3) (valid : Bool) (s : State) : Out := .next <| s.enqueue (fieldWrite (Fd.EST_MODEL_CTRL_valid r) (b2n valid))
/-- What a change of valid does (R280, R283, R298, R109): the estimate runs and starts again, or stops. -/
def State.modelValid (s : State) (r : Fin 3) (was : Bool) : State :=
  let on := s.flag (Fd.EST_MODEL_CTRL_valid r)
  let s := s.setFlag (Fd.EST_STR_FLAG_valid r) on
  if on && !was then
    let s := (s.setEst r { s.estStr r with initDue := true }).setFlag (Fd.EST_STR_FLAG_init r) false
    { s with prf := { s.prf with socValid := vset s.prf.socValid r false, socIn := vset s.prf.socIn r none
                                 sweepsSinceSoc := vset s.prf.sweepsSinceSoc r 0, staleFault := vset s.prf.staleFault r false } }
  else s

/-- Take the words of a string's state window, and its reported value. -/
def State.takeEstStr (b : EstBulk) (s : State) (r : Fin 3) : State :=
  let s := (List.finRange 14).foldl (fun (s : State) (k : Fin 14) => s.wr (Reg.EST_STR_SOC r + 4 * k) (vget (vget b.words r) k)) s
  { s with prf := { s.prf with socIn := vset s.prf.socIn r (some (vget b.est.strs r).sRep) } }
/-- Take the claimant's estimation state. The capacity store is each module's own. -/
def State.takeEst (s : State) (b : EstBulk) : State :=
  { s with est := { b.est with slots := s.est.slots, failed := s.est.failed, storeDue := s.est.storeDue || b.est.storeDue } }
/-- ESTIMATION_BULK (R275): the standby takes the claimant's committed estimation state. -/
def execEstimationBulk (b : EstBulk) (s : State) : Out := .next <| if !s.isStandby then s else (List.finRange 3).foldl (State.takeEstStr b) (s.takeEst b)

/-! ## The capacity store (R295 to R297) -/

/-- Is sequence number `b` later than `a` (R295)? -/
def seqLater (b a : Nat) : Bool := let d := (b + 2 ^ 32 - a % 2 ^ 32) % 2 ^ 32; decide (1 ≤ d ∧ d < 2 ^ 31)

/-- The current slot (R295): 0 for A, 1 for B; none where neither is valid. -/
def currentSlot (v : Vector (Option CapSlot) 2) : Option (Fin 2) :=
  match vget v 0, vget v 1 with
  | none, none => none
  | some _, none => some 0
  | none, some _ => some 1
  | some a, some b => if seqLater b.seq a.seq then some 1 else some 0

/-- Show the slots in KPR_CAPSLOT_STAT and KPR_CAPSLOT_SEQ. -/
def State.slotStat (s : State) : State :=
  let s := (s.setFlag Fd.KPR_CAPSLOT_STAT_valid_a (vget s.est.slots 0).isSome).setFlag Fd.KPR_CAPSLOT_STAT_valid_b (vget s.est.slots 1).isSome
  match currentSlot s.est.slots with
  | none => s.put Fd.KPR_CAPSLOT_SEQ_seq 0
  | some k => (s.setFlag Fd.KPR_CAPSLOT_STAT_current (k == 1)).put Fd.KPR_CAPSLOT_SEQ_seq
      (match vget s.est.slots k with | some x => x.seq | none => 0)

/-- The record of the present capacities. -/
def State.capRecord (s : State) (seq : Nat) : CapSlot :=
  { seq := seq % 2 ^ 32
    caps := Vector.ofFn fun r => (s.estStr r).learned
    flags := Vector.ofFn fun r => b2n (s.flag (Fd.EST_STR_FLAG_suspect r)) + 2 * (if (s.estStr r).learned = 0 then 0 else (s.estStr r).source)
    learnCount := s.est.learnCount }

/-- The 28 bytes of a slot that its CRC-32 covers (Table 10-5), multi-byte fields most significant byte first. -/
def CapSlot.bytes (c : CapSlot) : List Nat :=
  beBytes 4 c.seq ++ (List.finRange 3).flatMap (fun r => beBytes 2 (vget c.caps r) ++ [vget c.flags r, 0]) ++ beBytes 4 c.learnCount ++ beBytes 8 0

/-- Have two writes in a row failed (R296)? -/
def State.failedTwice (s : State) : Bool := decide (2 ≤ s.est.failed)
/-- May a write of the store start: a slow frame begins, a write is due, and no brown-out warning stands? -/
def State.storeNow (s : State) : Bool := s.slowStart && s.est.storeDue && !s.flag Fd.KPR_SUPPLY_STAT_bow
/-- The slot to write: the one that is not current. -/
def State.slotNext (s : State) : Fin 2 := match currentSlot s.est.slots with
  | some 0 => 1
  | _ => 0
/-- The sequence number to write: one more than the current slot's, or 1. -/
def State.seqStored (s : State) : Nat := match (currentSlot s.est.slots).bind fun c => vget s.est.slots c with
  | some x => x.seq + 1
  | none => 1
/-- Change a slot, with the count of failed writes and whether another is due. -/
def State.setSlots (s : State) (k : Fin 2) (x : Option CapSlot) (due : Bool) (failed : Nat) : State :=
  { s with est := { s.est with slots := vset s.est.slots k x, storeDue := due, failed := failed } }
/-- The write is given up after two failures, which is a fault. -/
def State.storeFailed (s : State) : State :=
  ({ s with est := { s.est with storeDue := false, failed := 0 } }.setFlag Fd.KPR_CAPSLOT_STAT_store_fail true).record Blk.kpr 0x19 1 0
/-- A write that did not compare: the slot is not valid. -/
def State.slotFailed (s : State) : State :=
  let s := ((s.setSlots s.slotNext none s.est.storeDue (s.est.failed + 1)).setFlag Fd.KPR_CAPSLOT_STAT_verify_fail true).slotStat
  if s.failedTwice then s.storeFailed else s
/-- A write that compared. -/
def State.slotStored (s : State) : State :=
  ((s.setSlots s.slotNext (some (s.capRecord s.seqStored)) false 0).setFlag Fd.KPR_CAPSLOT_STAT_store_fail false).slotStat
/-- CAPACITY_STORE_WRITE (R296): at a slow-frame boundary the Keeper writes the record into the slot that is not current and reads it back; `ok`
says that the two compare. A write does not start under a brown-out warning. -/
def execCapacityStoreWrite (ok : Bool) (s : State) : Out := .next <| if !s.storeNow then s else if ok then s.slotStored else s.slotFailed

/-- At power-up the EST block takes the capacities of the current slot (R297). -/
def State.selectCapacity (s : State) : State :=
  let s := s.slotStat
  match (currentSlot s.est.slots).bind fun k => vget s.est.slots k with
  | some x =>
    let s := { s with est := { s.est with learnCount := x.learnCount } }
    s.eachStr fun r s =>
      (s.setEst r { s.estStr r with learned := vget x.caps r, source := vget x.flags r / 2 % 4 }).setFlag (Fd.EST_STR_FLAG_suspect r)
        (bit (vget x.flags r) 0)
  | none => (s.eachStr fun r s => s.setFlag (Fd.EST_STR_FLAG_suspect r) true).record Blk.est 0x14 1 0

end Sys2Proof.Machine
end

