-- ==== Sys2Proof/Machine/Sessions.lean ====
section
/-! DEFINITION. What sessions, the semaphore and the audit log have in common (R366 to R372, R405 to R408): an entry and its chain value, the end
of a session, and the configuration semaphore. -/

namespace Sys2Proof.Machine

/-! ## The audit log -/

/-- The 32 leading bytes of an entry (Table 14-6). -/
def auditBytes (n frame kind who session opcode status : Nat) (detail : List Nat) : List Nat :=
  beBytes 8 n ++ beBytes 6 frame ++ [kind, who] ++ beBytes 4 session ++ beBytes 2 opcode ++ [status, 0] ++ (detail ++ List.replicate 8 0).take 8

/-- Show the log in SEC_AUDIT_LO, SEC_AUDIT_HI and SEC_AUDIT_STAT. -/
def State.auditRegs (s : State) : State :=
  let n := s.sec.staged.length
  ((s.put64 Reg.SEC_AUDIT_LO Reg.SEC_AUDIT_HI s.sec.next).put Fd.SEC_AUDIT_STAT_staged (min 128 n)).setFlag Fd.SEC_AUDIT_STAT_full
    (decide (128 ≤ n))

/-- The flash holds these entries, and none is staged. -/
def State.unstage (s : State) (flash : List (AuditEntry × Option AuditCheck)) : State :=
  { s with sec := { s.sec with flash := flash, staged := [], stagedChecks := [] } }
/-- Move the staged entries to flash (R408), each followed by its checkpoint; where the audit area of 64 MiB is full, the oldest 256 KiB are
erased first. -/
def State.auditMove (s : State) : State :=
  let items := s.sec.staged.map fun e => (e, s.sec.stagedChecks.find? fun c => c.n == e.n)
  let size (x : AuditEntry × Option AuditCheck) : Nat := 64 + (if x.2.isSome then 2476 else 0)
  let total := (s.sec.flash ++ items).foldl (fun n x => n + size x) 0
  let old := if total ≤ 67108864 then s.sec.flash
    else (s.sec.flash.foldl (fun (a : Nat × List (AuditEntry × Option AuditCheck)) x =>
      if a.1 < 262144 then (a.1 + size x, a.2) else (a.1, x :: a.2)) (0, [])).2.reverse
  (s.unstage (old ++ items)).auditRegs

/-- Has the staging area taken 64 entries? -/
def State.auditFull (s : State) : Bool := decide (64 ≤ s.sec.staged.length)

/-- An entry takes the next number and its chain value. -/
def State.addEntry (s : State) (b h : List Nat) : State :=
  { s with sec := { s.sec with
    staged := s.sec.staged ++ [(⟨s.sec.next, b, h⟩ : AuditEntry)], next := (s.sec.next + 1) % 2 ^ 64, lastH := h, sinceCheck := true } }
/-- Append an entry (R405 to R408). `who` is byte 15. Where 64 are staged they move to flash. -/
def State.audit (s : State) (kind who session opcode status : Nat) (detail : List Nat) : State :=
  let b := auditBytes s.sec.next s.time.frame kind who session opcode status detail
  let s := (s.addEntry b (Config.sha3 (s.sec.lastH ++ b))).auditRegs
  if s.auditFull then s.auditMove else s

/-- Byte 15 of an entry. -/
def auditWho (role port pair : Nat) : Nat := role % 4 * 64 + port % 4 * 16 + pair % 2

/-! ## Sessions -/

/-- The sessions of a port. -/
def State.portSessions (s : State) (p : Fin 3) : List Sess := s.mgp.sessions.filter fun x => x.port == p

/-- Show the sessions in MGP_PORT_STAT and SEC_SESSIONS. -/
def State.sessionRegs (s : State) : State :=
  let count (role : Nat) : Nat := (s.mgp.sessions.filter fun x => x.role == role).length
  let s := s.each 2 fun p s => s.put (Fd.MGP_PORT_STAT_sessions p) (s.mgp.sessions.filter fun x => x.port.val == p).length
  ((s.put Fd.SEC_SESSIONS_operator (count 0)).put Fd.SEC_SESSIONS_installer (count 1)).put Fd.SEC_SESSIONS_maker (count 2)

/-- Show the semaphore in MGP_SEM_STAT and MGP_SEM_SESSION. -/
def State.semRegs (s : State) : State :=
  match s.mgp.sem with
  | none =>
    (((s.setFlag Fd.MGP_SEM_STAT_held false).put Fd.MGP_SEM_STAT_port 3).put Fd.MGP_SEM_STAT_remain_ms 0).put Fd.MGP_SEM_SESSION_session 0
  | some h =>
    let left := h.2.2 + secCycles (s.get Fd.MGP_CTRL_lease) - s.now
    (((s.setFlag Fd.MGP_SEM_STAT_held true).put Fd.MGP_SEM_STAT_port h.1).put Fd.MGP_SEM_STAT_remain_ms (left / 250000)).put
      Fd.MGP_SEM_SESSION_session h.2.1

/-- The semaphore's holder: port, session, and the lease's last renewal. -/
def State.setSem (s : State) (h : Option (Fin 3 × Nat × Nat)) : State := { s with mgp := { s.mgp with sem := h } }
/-- Free the semaphore. -/
def State.semFree (s : State) : State := (s.setSem none).semRegs

/-- Does a session hold the semaphore? -/
def State.holdsSem (s : State) (p : Fin 3) (n : Nat) : Bool :=
  match s.mgp.sem with
  | some h => h.1 == p && h.2.1 == n
  | none => false

/-- A session leaves the list of open ones. -/
def State.dropSession (s : State) (p : Fin 3) (n : Nat) : State :=
  { s with mgp := { s.mgp with sessions := s.mgp.sessions.filter fun x => !(x.port == p && x.num == n) } }
/-- End a session (R366): it is recorded, and the semaphore it holds is freed (R372). -/
def State.endSession (s : State) (p : Fin 3) (n : Nat) : State :=
  match s.mgp.sessions.find? fun x => x.port == p && x.num == n with
  | none => s
  | some x =>
    let s := if s.holdsSem p n then s.semFree else s
    let s := s.dropSession p n
    (s.audit 3 (auditWho x.role p 0) n 0 0 []).sessionRegs

/-- End every session that a condition names. -/
def State.endSessions (s : State) (f : Sess → Bool) : State :=
  (s.mgp.sessions.filter f).foldl (fun (s : State) x => s.endSession x.port x.num) s

/-- SESSION_IDLE_EXPIRY (R366): no packet of the session has passed the tag check within session_idle. -/
def execSessionIdleExpiry (port : Fin 3) (session : Nat) (s : State) : Out :=
  .next <| match s.mgp.sessions.find? fun x => x.port == port && x.num == session with
    | some x => if x.last + secCycles (s.get Fd.MGP_CTRL_session_idle) ≤ s.now then s.endSession port session else s
    | none => s

/-- The role of an open session; 3 where it is not known. -/
def State.roleOf (s : State) (p : Fin 3) (n : Nat) : Nat :=
  match s.mgp.sessions.find? fun x => x.port == p && x.num == n with
  | some x => x.role
  | none => 3
/-- The lease of a session ends: the semaphore is free, which is counted, noted and audited (R372). -/
def State.leaseEnds (s : State) (p : Fin 3) (n : Nat) : State :=
  ((s.semFree.bump Fd.MGP_SEM_CNT_expired).record Blk.mgp 0x10 0 (0xC00 + p)).audit 5 (auditWho (s.roleOf p n) p 0) n 0 0 []
/-- LEASE_EXPIRY (R372): the lease has run out; the semaphore is free, and a Note is recorded. -/
def execLeaseExpiry (s : State) : Out :=
  .next <| match s.mgp.sem with
    | some h =>
      if h.2.2 + secCycles (s.get Fd.MGP_CTRL_lease) ≤ s.now then
        s.leaseEnds h.1 h.2.1
      else s
    | none => s

/-- PORT_LINK_LOSS (R366): a port's link is lost, and its sessions end. For the console it is the loss of its USB connection. -/
def execPortLinkLoss (port : Fin 3) (s : State) : Out :=
  .next <|
    let s := if port.val < 2 then (s.setFlag (Fd.MGP_PORT_STAT_link port) false) else s
    s.endSessions fun x => x.port == port

/-- PORT_LINK_UP (R383): the link is up, or an accepted optical module is fitted. -/
def execPortLinkUp (port : Fin 2) (linkUp : Bool) (s : State) : Out :=
  .next <|
    let s := s.setFlag (Fd.MGP_PORT_STAT_module_ok port) true
    if linkUp then s.setFlag (Fd.MGP_PORT_STAT_link port) true else s

end Sys2Proof.Machine
end

