-- ==== Sys2Proof/Machine/Resets.lean ====
section
/-! DEFINITION. The reset domains (R451 to R455): what a domain's reset returns to its reset values and what it keeps, its release, the
restart of the whole module, and the gap of R40. -/

namespace Sys2Proof.Machine

/-- The blocks of a domain (Table 16-5). Domains are numbered as KPR_RST_CTRL.req numbers them: 0 LOOP, 1 COMPUTE, 2 LINKS, 3 MEMORY. -/
def domainBlocks : Nat → List Nat
  | 0 => [1, 2, 3, 4, 8, 11, 12]
  | 1 => [0, 9, 10, 15]
  | 2 => [5, 6, 7, 13, 16, 17]
  | _ => []

/-- Is a domain in reset? -/
def State.inReset (s : State) (d : Fin 4) : Bool := vget s.flt.rstOn d

/-- Apply a function that leaves the words of some registers alone. -/
def State.keepWords (s : State) (l : List Nat) (f : State → State) : State := l.foldl (fun t a => t.wr a (s.rd a)) (f s)

/-- Show the domains in reset. -/
def State.rstRegs (s : State) : State :=
  s.put Fd.KPR_RST_STAT_in_reset (((List.finRange 4).filter fun (d : Fin 4) => s.inReset d).foldl (fun n d => n + 2 ^ d.val) 0)

/-- Count a domain's reset, with its cause (Table 16-7). -/
def State.countReset (s : State) (d : Fin 4) (cause : Nat) : State :=
  match d with
  | 0 => (s.put Fd.KPR_RST_STAT_cause_loop cause).bump Fd.KPR_RST_CNT_loop
  | 1 => (s.put Fd.KPR_RST_STAT_cause_compute cause).bump Fd.KPR_RST_CNT_compute
  | 2 => (s.put Fd.KPR_RST_STAT_cause_links cause).bump Fd.KPR_RST_CNT_links
  | 3 => (s.put Fd.KPR_RST_STAT_cause_mem cause).bump Fd.KPR_RST_CNT_memory

/-- Release the valid line (R304); with it the lanes leave ACTIVE at the next frame's start. -/
def State.releaseValid (s : State) : State :=
  ({ s with pins := { s.pins with valid := false } }).setFlag Fd.LKS_STAT_own_valid false

/-- The EST registers that hold the state of R276: the state windows of the strings. -/
def estWords : List Nat := (List.range 3).flatMap fun r => (List.range 14).map fun k => Reg.EST_STR_SOC r + 4 * k

/-- Every pass is stale (R237, R452). -/
def State.spoilPasses (s : State) : State :=
  { s with arr := { s.arr with slots := Vector.ofFn fun i => { vget s.arr.slots i with spoilt := true, done := false }
                               results := s.arr.results.map fun r => { r with stale := true } } }

/-- A reset of LOOP: its registers, and what its blocks hold. The time base counts on, the EST state (R276) and Hamper's region stay.
The copy of R453 keeps which feed-forward buffers were active, unless the registers have not been restored since an earlier reset. -/
def State.resetLoop (s : State) : State :=
  let s := if s.cfg.gate then s else
    { s with flt := { s.flt with configImage := (List.range 4).foldl (fun (l : Regs) z => l.set (Reg.FFW_ZONE_STAT z) (s.rd (Reg.FFW_ZONE_STAT z))) s.flt.configImage } }
  let s := s.keepWords estWords fun s => { s with regs := s.regs.resetBlocks (domainBlocks 0) }
  let lanes := Vector.ofFn fun (t : Fin 16) => { vget s.wgl.lanes t with pp := .zero }
  { s with lpe := .reset, prf := .reset, zfb := .reset, site := .reset, hmp := { HmpRt.reset with recs := s.hmp.recs }
           wgl := { s.wgl with zones := vall 4 .reset, lanes := lanes }
           time := { s.time with restartAlign := true, lastEdge := none, goodEdges := 0, edgeFrames := 0, noEdgeFrames := 0 } }.releaseValid

/-- A reset of COMPUTE. The Keeper controls PLLs, multiplexers and power states, so their status stays; the slots' records stay in DRAM. -/
def State.resetCompute (s : State) : State :=
  let st := s.get Fd.CLK_PSTATE_state
  let s := s.keepWords [Reg.CLK_SRC_STAT, Reg.CLK_MUX_STAT] fun s => { s with regs := s.regs.resetBlocks (domainBlocks 1) }
  let s := s.put Fd.CLK_PSTATE_state st
  { s with arr := { s.arr with cores := vall 48 .reset, seq := .reset, scrub := 0, frames := [], estOut := none }
           sec := { s.sec with booted := false, running := false, checking := false } }.spoilPasses

/-- A reset of LINKS: sessions end and the semaphore is freed (R366); what the Keeper store holds stays. -/
def State.resetLinks (s : State) : State :=
  let s := s.endSessions fun _ => true
  let s := s.semFree
  let s := { s with regs := s.regs.resetBlocks (domainBlocks 2) }
  let s := { s with link := .reset, chn := .reset
                    lks := { LksRt.reset with history := s.lks.history, histPending := s.lks.histPending, partnerValid := s.lks.partnerValid,
                                               partnerClaim := s.lks.partnerClaim }
                    wgl := { WglRt.reset with zones := s.wgl.zones, lanes := Vector.ofFn fun (t : Fin 16) => { LaneRt.reset with pp := (vget s.wgl.lanes t).pp } }
                    mgp := { MgpRt.reset with sent := s.mgp.sent, packets := s.mgp.packets, net := s.mgp.net } }
  (s.releaseValid.sessionRegs).auditRegs

/-- A reset of MEMORY: DRAM is in self-refresh, and every pass is stale. -/
def State.resetMemory (s : State) : State := s.spoilPasses

/-- Assert the reset of a domain (R451, R452). -/
def State.assertDomain (s : State) (d : Fin 4) (cause : Nat) : State :=
  let s := ({ s with flt := { s.flt with rstOn := vset s.flt.rstOn d true } }.countReset d cause).rstRegs
  match d with
  | 0 => s.resetLoop
  | 1 => s.resetCompute
  | 2 => s.resetLinks
  | 3 => s.resetMemory

/-- The domains of a list of request bits, in the order of their release: MEMORY, LOOP, LINKS, COMPUTE. -/
def releaseOrder : List (Fin 4) := [3, 0, 2, 1]

/-- Assert the domains that a condition names. -/
def State.assertDomains (s : State) (f : Fin 4 → Bool) (cause : Nat) : State :=
  (releaseOrder.filter f).foldl (fun (s : State) d => s.assertDomain d cause) s

/-- What a release of LOOP or LINKS leads to (R453): a join where the partner is valid, otherwise the restore of the pair state. -/
def State.restorePair (s : State) : State :=
  if s.lks.partnerValid then { s with lks := { s.lks with join := JoinPhase.joining } }.put Fd.LKS_STAT_role 3
  else if s.flt.imageIntact then
    { s with cfg := { s.cfg with restored := false, fromRecord := false, gate := true, step := .none, queue := [] } }
  else
    { s with cfg := { s.cfg with restored := false, fromRecord := true, gate := true, step := .none, queue := [] } }.record Blk.sup 3 1 0

/-- Release a domain (R452): COMPUTE starts its boot and tests its baskets again (R238, R457), LOOP and LINKS restore the pair state. -/
def State.releaseDomain (s : State) (d : Fin 4) : State :=
  let s := { s with flt := { s.flt with rstOn := vset s.flt.rstOn d false } }.rstRegs
  match d with
  | 3 => s
  | 0 => s.restorePair
  | 2 => s.restorePair
  | 1 =>
    let s := { s with flt := { s.flt with beats := vall 4 false, missed := vall 4 0, bootLeft := 9766, expectWritten := false, hung := vall 4 false
                                          halt := if s.flt.halt == HaltPhase.computeReset then HaltPhase.starting else s.flt.halt, haltFrame := s.time.frame } }
    let s := (s.setFlag Fd.LKS_WDOG_STAT_booting true).put Fd.LKS_WDOG_STAT_missing 0
    s.restoreBaskets

/-- Move the time base over a gap of `gap` LFRC periods of 31.25 µs (R40): the frames it holds, rounded up, and 1000 cycles for each. -/
def State.advanceGap (s : State) (gap : Nat) : State :=
  let n := ceilDiv (gap * 125) 16
  let s := { s with time := { s.time with frame := (s.time.frame + n) % 2 ^ 48, frameStart := (s.time.frameStart + 1000 * n) % 2 ^ 64 } }
  (s.put Fd.KPR_CLKMON_GAP_gap gap).record Blk.kpr 0x12 0 0

end Sys2Proof.Machine
end

