-- ==== Sys2Proof/Machine/Power.lean ====
section
/-! DEFINITION. The Keeper: crystals and the clock monitor (R412 to R424), power states (R425 to R428), supplies (R429 to R431), comparators
(R432, R433), chain wakes (R269), and the power cycle (R12, R491). Times that the commands give are counts of LFRC periods. -/

namespace Sys2Proof.Machine

/-! ## Power cycle and restart -/

/-- The words of registers that a power cycle keeps, as far as they show the Keeper store and the flash. -/
def storeWords : List Nat := [Reg.SEC_BOOT, Reg.SEC_FW_A, Reg.SEC_FW_B, Reg.SEC_KEYS, Reg.SUP_CFG_DIGEST]

/-- A power cycle (R12): everything is at its power-on value but the Keeper store and the flash: capacity slots (R295), keys, boot record and
banks (R389, R398), the audit log (R408), the claim history (R327), and the saved configuration with autostart (R494). -/
def State.powerCycle (s : State) : State :=
  let t : State := { State.reset with
    est := { EstRt.reset with slots := s.est.slots }
    sec := { SecRt.reset with keys := s.sec.keys, banks := s.sec.banks, trial := s.sec.trial, raiseDue := s.sec.raiseDue, next := s.sec.next
                              staged := s.sec.staged, flash := s.sec.flash, stagedChecks := s.sec.stagedChecks, lastH := s.sec.lastH
                              lastCheck := s.sec.lastCheck, sinceCheck := s.sec.sinceCheck }
    lks := { LksRt.reset with history := s.lks.history }
    cfg := { CfgRt.reset with record := s.cfg.record }
    pwr := { PwrRt.reset with lfrcLost := s.pwr.lfrcLost }
    free := s.free, pending := s.pending }
  let t := storeWords.foldl (fun (t : State) a => t.wr a (s.rd a)) t
  let t := (t.setFlag Fd.SUP_CFG_CTRL_autostart (s.flag Fd.SUP_CFG_CTRL_autostart)).put Fd.SUP_CFG_STAT_saves (s.get Fd.SUP_CFG_STAT_saves)
  ((t.setFlag Fd.SUP_CFG_STAT_valid (s.flag Fd.SUP_CFG_STAT_valid)).put Fd.CLK_SRC_STAT_ref 2).auditRegs

/-- The Keeper begins to judge crystals anew, at `at'` (R414). -/
def State.keeperStart (s : State) (at' : Nat) : State :=
  let s := { s with pwr := { s.pwr with kStart := at', judge := vall 2 at', xtTimeout := false, next := none, attempt := true, tripAt := none
                                        startDone := false, sleepReq := none, wakeDue := false } }
  (s.wr Reg.CLK_SRC_STAT (putBits (s.rd Reg.CLK_SRC_STAT) 0 7 0x40)).wr Reg.CLK_MUX_STAT 0

/-- Restart as at power-on (R428): every domain but KEEPER goes through reset with a cause, the time base moves over the gap, and the
domains wait for the PLLs. -/
def State.restartAll (s : State) (cause at' gap : Nat) : State :=
  let s := s.assertDomains (fun _ => true) cause
  let s := { s with flt := { s.flt with rstLeft := 0, safe := s.flt.halt != HaltPhase.none }, pwr := { s.pwr with stopped := false, failAt := none, lockWait := true } }
  ((s.keeperStart at').put Fd.CLK_PSTATE_state 0).advanceGap gap

/-- The outputs of Table 15-4 on a clock loss or power fail: the safe state, with SYNC_OUT low. -/
def State.forceOutputs (s : State) : State := s.enterSafe.releaseValid

/-! ## Crystals -/

def xtStable (x : Fin 2) : Fld := if x = 0 then Fd.CLK_SRC_STAT_xt0_stable else Fd.CLK_SRC_STAT_xt1_stable
def xtAmp (x : Fin 2) : Fld := if x = 0 then Fd.KPR_XT_AMP_xt0_mv else Fd.KPR_XT_AMP_xt1_mv

/-- Take a crystal as the reference. XT1 sets xt_fallback (R414, R421). -/
def State.takeRef (s : State) (x : Fin 2) : State :=
  let s := s.put Fd.CLK_SRC_STAT_ref x
  if x = 1 then s.setFlag Fd.CLK_SRC_STAT_xt_fallback true else s

/-- A crystal's amplitude has fallen: its judgment ends, and a gate of R466 moves its next beginning. -/
def State.endJudgment (s : State) (x : Fin 2) (at' : Nat) : State :=
  let from' := match vget s.pwr.xtGate x with
    | some n => at' + n
    | none => at'
  let gate := match vget s.pwr.xtGate x with
    | some 0 => some 0
    | _ => none
  ({ s with pwr := { s.pwr with judge := vset s.pwr.judge x from', xtGate := vset s.pwr.xtGate x gate } }).setFlag (xtStable x) false

/-- CRYSTAL_STABLE (R413, R414, R422): a crystal's amplitude has stayed at or above 150 mV for 2048 periods. At a start without a reference it
becomes the reference; in the wait of R422 it is the crystal of the next attempt, XT1 where both are judged in one period. -/
def execCrystalStable (x : Fin 2) (at' mv : Nat) (s : State) : Out :=
  .next <|
    if mv < 150 || at' < vget s.pwr.judge x + 2048 || vget s.pwr.xtGate x == some 0 || s.pwr.lfrcLost then s else
    let s := (s.setFlag (xtStable x) true).put (xtAmp x) mv
    if s.flag Fd.KPR_CLKMON_STAT_wait then
      let take := match s.pwr.next with
        | none => true
        | some _ => x == 1 && s.pwr.nextAt == at'
      if take then { s with pwr := { s.pwr with next := some x, nextAt := at' } } else s
    else if s.get Fd.CLK_SRC_STAT_ref == 2 && s.pwr.tripAt.isNone then
      if x = 0 || s.pwr.xtTimeout then s.takeRef x else s
    else s

/-- CRYSTAL_LOST (R418): the crystal that is not selected falls below its threshold. Its judgment ends, and the loss is noted. -/
def execCrystalLost (x : Fin 2) (at' mv : Nat) (s : State) : Out :=
  .next <|
    if 150 ≤ mv || s.get Fd.CLK_SRC_STAT_ref == x.val then s else
    let was := s.flag (xtStable x)
    let s := (s.endJudgment x at').put (xtAmp x) mv
    let s := if s.pwr.next == some x then { s with pwr := { s.pwr with next := none } } else s
    if was then s.record Blk.kpr 0x13 0 0 else s

/-- XT0_START_TIMEOUT (R414): 8000 periods after the Keeper started, with XT0 not judged stable. -/
def execXt0StartTimeout (at' : Nat) (s : State) : Out :=
  .next <|
    if at' < s.pwr.kStart + 8000 || s.flag Fd.CLK_SRC_STAT_xt0_stable || s.get Fd.CLK_SRC_STAT_ref != 2 then s else
    let s := { s with pwr := { s.pwr with xtTimeout := true } }
    if s.flag Fd.CLK_SRC_STAT_xt1_stable && s.pwr.tripAt.isNone then s.takeRef 1 else s

/-- PLL_LOCK (R415, R416): a PLL reports lock to its crystal; with PLL0 the domains on eng_clk and sup_clk leave HFRC. -/
def execPllLock (p : Fin 3) (s : State) : Out :=
  .next <|
    if s.get Fd.CLK_SRC_STAT_ref == 2 || s.pwr.stopped || s.get Fd.CLK_PSTATE_state == 2 then s else
    match p with
    | 0 => ((s.setFlag Fd.CLK_SRC_STAT_pll0_lock true).setFlag Fd.CLK_MUX_STAT_eng_on_pll true).setFlag Fd.CLK_MUX_STAT_sup_on_pll true
    | 1 => s.setFlag Fd.CLK_SRC_STAT_pll1_lock true
    | 2 => s.setFlag Fd.CLK_SRC_STAT_pll2_lock true

/-! ## The clock monitor and the restart -/

/-- Start the wait of R422 at the trip that caused it: both judgments restart there. -/
def State.clockWait (s : State) (trip : Nat) : State :=
  let s := { s with pwr := { s.pwr with judge := Vector.ofFn fun x => max trip (vget s.pwr.judge x), next := none } }
  ((s.setFlag Fd.CLK_SRC_STAT_xt0_stable false).setFlag Fd.CLK_SRC_STAT_xt1_stable false).setFlag Fd.KPR_CLKMON_STAT_wait true

/-- Can a condition of Table 15-3 arise now: the clock runs, and an edge detector's domain is neither in reset nor gated in SLEEP? -/
def State.tripPossible (s : State) (cause : Nat) : Bool :=
  !s.pwr.stopped && s.get Fd.CLK_PSTATE_state != 2 && s.get Fd.CLK_SRC_STAT_ref != 2 &&
    (match cause with
     | 6 => !s.inReset 0
     | 7 => !s.inReset 1
     | 8 => !s.inReset 2 && s.get Fd.CLK_PSTATE_state == 0
     | c => decide (1 ≤ c ∧ c ≤ 5))

/-- CLOCK_MONITOR_TRIP (R418 to R420, R422): the outputs are forced, every domain but KEEPER is held in reset, and the engine clock stops. A trip
in an attempt fails it; the third failed attempt of an episode locks the module out. -/
def execClockMonitorTrip (cause : Fin 9) (at' : Nat) (s : State) : Out :=
  .next <|
    if !s.tripPossible cause || s.flag Fd.KPR_CLKMON_STAT_lockout then s else
    let ref := s.get Fd.CLK_SRC_STAT_ref
    let tried := s.pwr.attempt
    let s := (s.bump Fd.KPR_CLKMON_STAT_trips).put Fd.KPR_CLKMON_STAT_last_cause cause
    let s := s.forceOutputs.assertDomains (fun _ => true) 2
    let s := if cause.val = 1 ∨ cause.val = 2 then s.endJudgment (if ref = 0 then 0 else 1) at' else s
    let s := { s with pwr := { s.pwr with stopped := true, tripAt := some at', attempt := false, episode := true, cleanFrom := none
                                          startDone := false, sleepReq := none, next := none } }
    let s := (s.wr Reg.CLK_SRC_STAT (putBits (s.rd Reg.CLK_SRC_STAT) 0 3 0)).wr Reg.CLK_MUX_STAT 0
    let s := if tried then s.put Fd.KPR_CLKMON_STAT_attempts (min 3 (s.get Fd.KPR_CLKMON_STAT_attempts + 1)) else s
    if s.get Fd.KPR_CLKMON_STAT_attempts == 3 then (s.setFlag Fd.KPR_CLKMON_STAT_lockout true).record Blk.kpr 0x11 3 0
    else if tried || ref == 1 then s.clockWait at' else s

/-- An attempt starts from a crystal (R421): the PLLs are released, and the domains follow them. The time base moves over the gap. -/
def State.clockAttempt (s : State) (x : Fin 2) (gap : Nat) : State :=
  let s := (s.takeRef x).setFlag Fd.KPR_CLKMON_STAT_wait false
  let s := { s with pwr := { s.pwr with stopped := false, tripAt := none, next := none, attempt := true, lockWait := true }
                    flt := { s.flt with safe := s.flt.halt != HaltPhase.none, rstLeft := 0 } }
  (s.advanceGap gap).record Blk.kpr 0x10 1 0

/-- CLOCK_RESTART (R40, R421, R422): 320 periods after the trip the module restarts from XT1 if that is judged stable, otherwise it waits; in the
wait it restarts from the first crystal judged stable after the trip. `gap` runs to the release of LOOP. -/
def execClockRestart (at' gap : Nat) (s : State) : Out :=
  .next <|
    match s.pwr.tripAt with
    | none => s
    | some t =>
      if s.flag Fd.KPR_CLKMON_STAT_lockout || s.pwr.lfrcLost || gap < at' - t then s
      else if s.flag Fd.KPR_CLKMON_STAT_wait then
        match s.pwr.next with
        | some x => if s.pwr.nextAt ≤ at' then s.clockAttempt x gap else s
        | none => s
      else if at' < t + 320 then s
      else if s.flag Fd.CLK_SRC_STAT_xt1_stable then s.clockAttempt 1 gap
      else s.clockWait t

/-- EPISODE_END (R422, R499): a whole slow frame that began after start-up has passed without a trip. -/
def execEpisodeEnd (s : State) : Out :=
  .next <|
    match s.pwr.cleanFrom with
    | some c =>
      if s.slowStart && s.pwr.episode && s.pwr.startDone && decide (c < s.time.frame / 262144) then
        ({ s with pwr := { s.pwr with episode := false, cleanFrom := none } }).put Fd.KPR_CLKMON_STAT_attempts 0
      else s
    | none => s

/-- LFRC_LOSS (R424): the safe state holds until a power cycle, after which the cause is shown. -/
def execLfrcLoss (s : State) : Out :=
  .next <| { s.forceOutputs with pwr := { s.pwr with lfrcLost := true } }

/-! ## Power states -/

/-- SLEEP_REQUEST (R426): the write is stamped here. -/
def execSleepRequest (s : State) : Out := .next <| s.enqueue (fieldWrite Fd.CLK_PSTATE_req 1)
/-- DEEP_SLEEP_REQUEST (R426). -/
def execDeepSleepRequest (s : State) : Out := .next <| s.enqueue (fieldWrite Fd.CLK_PSTATE_req 2)
/-- RUN_REQUEST (R427). -/
def execRunRequest (s : State) : Out := .next <| s.enqueue (plainWrite Reg.CLK_PSTATE 3 0)

/-- A wake is counted, with its cause (Table 15-10). -/
def State.noteWake (s : State) (cause : Nat) : State := (s.bump Fd.KPR_WAKE_STAT_wakes).put Fd.KPR_WAKE_STAT_cause cause

/-- A write of CLK_PSTATE.req, as it acts: RUN wakes a module from SLEEP, whose COMPUTE domain goes through reset (R427, R428). -/
def State.pstateReq (s : State) (req : Nat) : State :=
  let st := s.get Fd.CLK_PSTATE_state
  if req = 0 then
    if st = 1 then
      let s := (s.put Fd.CLK_PSTATE_state 0).noteWake 8
      let s := s.assertDomain 1 4
      { s with flt := { s.flt with rstLeft := 512 } }
    else s
  else if req = 1 || req = 2 then (if st = 0 then { s with pwr := { s.pwr with sleepReq := some req } } else s)
  else s

/-- What a stage reports in the inputs of the frame, or reported last. -/
def State.teleLatest (s : State) (n : Fin 26) : Option Telemetry := match vget s.inp.own.tele n with
  | some t => some t
  | none => s.teleOf n

/-- May the module go to sleep (R426): no loop is enabled, every declared stage reports IDLE, and every output stage its switch open? -/
def State.maySleep (s : State) : Bool :=
  ((List.range 7).all fun l => !s.flag (Fd.LPE_LOOP_CTRL_enable l)) &&
    ((List.finRange 26).all fun n => !s.stageDecl n || match s.teleLatest n with
      | some t => t.mode == .idle && (decide (16 ≤ n.val) || t.sw == .opened)
      | none => false)

/-- Enter SLEEP or DEEP SLEEP (R426, R433, Table 15-5): valid is released, start-up ends, the lanes go QUIET, every core is OFF, and the arming
latches clear. For DEEP SLEEP the nodes are put to sleep first, and the PLLs and the engine clock stop. -/
def State.goSleep (s : State) (st : Nat) : State :=
  let s := { s.releaseValid with pwr := { s.pwr with startDone := false, sleepReq := none } }
  let s := s.each 26 fun n s => s.put (Fd.STL_LANE_STAT_state n) 0
  let s := s.each 16 fun t s => s.put (Fd.WGL_LINK_STAT_state t) 0
  let s := s.put Fd.LKS_LOCK_STAT_state 0
  let s := s.each 4 fun z s => s.setFlag (Fd.KPR_CMP_ZONE_armed z) false
  let s := s.each 48 fun k s => if s.coreState k = 6 then s else s.put (Fd.ADN_CORE_STAT_state k) 0
  let s := (s.setFlag Fd.CLK_SRC_STAT_pll1_lock false).put Fd.CLK_PSTATE_state st
  if st = 2 then
    let lim : List Nat := beBytes 2 (s.get Fd.CHN_SLEEP_CFG_interval) ++ beBytes 2 (s.get Fd.CHN_SLEEP_LIM_s_ov)
      ++ beBytes 2 (s.get Fd.CHN_SLEEP_LIM_s_uv) ++ beBytes 2 (s.get Fd.CHN_SLEEP_TEMP_s_temp)
    let s := (List.finRange 3).foldl (fun (s : State) (r : Fin 3) => if s.strDecl r then (s.broadcast r 0x60 lim).broadcast r 0x61 [] else s) s
    let s := (s.wr Reg.CLK_SRC_STAT (putBits (s.rd Reg.CLK_SRC_STAT) 0 3 0)).wr Reg.CLK_MUX_STAT 0
    { s with pwr := { s.pwr with stopped := true } }
  else s

/-- What a request does at a forecast-frame boundary (R426). -/
def State.powerTick (s : State) : State :=
  match s.pwr.sleepReq with
  | none => s
  | some r =>
    if !s.fcStart then s
    else if s.maySleep then s.goSleep r
    else { s with pwr := { s.pwr with sleepReq := none } }.setFlag Fd.CLK_PSTATE_refused true

/-- Is a wake source enabled (Table 15-6), by its cause code? -/
def State.wakeEnabled (s : State) (src gap : Nat) : Bool :=
  match src with
  | 1 => s.pwr.wakeDue
  | 2 => s.flag Fd.KPR_WAKE_CTRL_m0_en
  | 3 => s.flag Fd.KPR_WAKE_CTRL_m1_en
  | 4 => s.flag Fd.KPR_WAKE_CTRL_usb_en
  | 5 => s.flag Fd.KPR_WAKE_CTRL_ext_en
  | 6 => s.flag Fd.KPR_WAKE_CTRL_oc_en && ((List.range 3).any fun i => s.flag (Fd.KPR_CMP_STR_oc_trip i))
  | 7 => s.get Fd.KPR_WAKE_CTRL_timer_s != 0 && decide (32000 * s.get Fd.KPR_WAKE_CTRL_timer_s ≤ gap)
  | _ => false

/-- Assert HOST_WAKE_N. In test mode it is not driven (R465). -/
def State.hostWake (s : State) : State :=
  { s with pins := { s.pins with hostWake := !s.pins.testMode } }.setFlag Fd.KPR_CHWAKE_STAT_host_wake true

/-- DEEP_SLEEP_WAKE (R427, R428): an enabled source restarts the module as at power-on; `gap` is the time the engine clock was stopped. -/
def execDeepSleepWake (src : Fin 8) (at' gap : Nat) (s : State) : Out :=
  .next <|
    if s.get Fd.CLK_PSTATE_state != 2 || !s.wakeEnabled src gap || s.pwr.failAt.isSome || s.pwr.lfrcLost then s else
    let s := s.noteWake src
    let s := if src = 1 || src = 5 || src = 6 || src = 7 then s.hostWake else s
    let s := s.restartAll 4 at' gap
    { s with chn := { s.chn with woken := vall 3 true } }

/-- 600 s in LFRC periods. -/
def wakeWindow : Nat := 19200000

/-- CHAIN_TONE (R269): a tone of at least 1 ms on a chain port, at `at'`. -/
def execChainTone (port : Fin 6) (at' : Nat) (s : State) : Out :=
  .next <|
    if !s.flag Fd.KPR_CHWAKE_CTRL_wake_en then { s with pwr := { s.pwr with lastTone := some at' } } else
    let limiting := s.flag Fd.KPR_CHWAKE_STAT_limiting
    let ok := !limiting || (match s.pwr.wakes with
      | w :: _ => decide (w + wakeWindow ≤ at')
      | [] => true)
    let s := { s with pwr := { s.pwr with lastTone := some at' } }
    if ok then
      let wakes := (at' :: s.pwr.wakes).take 3
      let third := match wakes with
        | [_, _, c] => decide (at' < c + wakeWindow)
        | _ => false
      let s := { s with pwr := { s.pwr with wakes := wakes, wakeDue := s.get Fd.CLK_PSTATE_state == 2 } }
      let s := ((s.bump Fd.KPR_CHWAKE_STAT_accepted).put Fd.KPR_CHWAKE_STAT_port port).hostWake
      if third then s.setFlag Fd.KPR_CHWAKE_STAT_limiting true else s
    else s.bump Fd.KPR_CHWAKE_STAT_rejected

/-- LIMITING_EXIT (R269): 600 s without a tone. -/
def execLimitingExit (at' : Nat) (s : State) : Out :=
  .next <|
    match s.pwr.lastTone with
    | some t => if t + wakeWindow ≤ at' then s.setFlag Fd.KPR_CHWAKE_STAT_limiting false else s
    | none => s

/-- HOST_WAKE_RELEASE (R269): the write of host_wake is stamped here. -/
def execHostWakeRelease (s : State) : Out := .next <| s.enqueue (fieldWrite Fd.KPR_CHWAKE_STAT_host_wake 1)

/-! ## Supplies -/

/-- BROWN_OUT_WARNING (R429): the supply has stayed below 10.2 V for 10 µs, or is made to read so (R466). -/
def execBrownOutWarning (mv : Nat) (s : State) : Out :=
  .next <|
    if (10200 ≤ mv && s.pwr.supplyInj.isNone) || s.flag Fd.KPR_SUPPLY_STAT_bow then s else
    let s := ((s.setFlag Fd.KPR_SUPPLY_STAT_bow true).setFlag Fd.KPR_SUPPLY_STAT_bow_seen true).bump Fd.KPR_SUPPLY_CNT_bow_count
    (s.put Fd.KPR_SUPPLY_STAT_aux_mv mv).record Blk.kpr 0x17 0 0

/-- BROWN_OUT_RELEASE (R429): at or above 10.5 V for 1 ms. -/
def execBrownOutRelease (mv : Nat) (s : State) : Out :=
  .next <|
    if mv < 10500 then s else
    ({ s with pwr := { s.pwr with supplyInj := if s.pwr.supplyInj == some 0 then none else s.pwr.supplyInj } }.setFlag
      Fd.KPR_SUPPLY_STAT_bow false).put Fd.KPR_SUPPLY_STAT_aux_mv mv

/-- POWER_FAIL (R429, R430): the supply below 9.5 V or above 14.0 V, or a rail of the module outside its window, for 2 µs, or a supply made to
read so (R466). -/
def execPowerFail (mv : Nat) (railOut : Bool) (at' : Nat) (s : State) : Out :=
  .next <|
    if !(decide (mv < 9500) || decide (14000 < mv) || railOut || s.pwr.supplyInj == some 1) || s.pwr.failAt.isSome then s else
    let s := s.forceOutputs.put Fd.KPR_SUPPLY_STAT_aux_mv mv
    { s with pwr := { s.pwr with stopped := true, failAt := some at', startDone := false, sleepReq := none, supplyInj := none } }

/-- SUPPLY_RECOVERY (R429): at or above 10.8 V for 320 periods while the hold-up lasts. The module restarts as from DEEP SLEEP. -/
def execSupplyRecovery (mv at' gap : Nat) (s : State) : Out :=
  .next <|
    match s.pwr.failAt with
    | none => s
    | some t =>
      if mv < 10800 || at' < t + 320 || s.pwr.lfrcLost then s else
      let s := ((s.setFlag Fd.KPR_SUPPLY_STAT_pf_seen true).bump Fd.KPR_SUPPLY_CNT_pf_count).put Fd.KPR_SUPPLY_STAT_aux_mv mv
      let s := s.put Fd.KPR_HOLDUP_last_ms (min 65535 ((at' - t) * 5 / 16))
      let s := (s.restartAll 3 at' gap).record Blk.kpr 0x18 1 0
      { s with chn := { s.chn with woken := vall 3 true } }

/-- HOLDUP_EXPIRY (R12): the hold-up bank can hold the Keeper no longer, which is a power cycle. Nothing runs until power returns. -/
def execHoldupExpiry (s : State) : Out :=
  .next <|
    if s.pwr.failAt.isNone then s else
    let t := s.powerCycle
    { t with pwr := { t.pwr with stopped := true } }

/-- POWER_ON_RESET (R300, R465, R491, R297): the supply has first reached 10.8 V for 320 periods. The Keeper starts, SLOT_ID and TEST_MODE are
sampled, the capacity slot is selected, and the time base starts at 0. After a loss of LFRC its cause is shown (R424). -/
def execPowerOnReset (slot : Fin 4) (test : Bool) (s : State) : Out :=
  .next <|
    let lost := s.pwr.lfrcLost
    let s := s.powerCycle
    let s := { s with pwr := { s.pwr with lfrcLost := false }, pins := { s.pins with testMode := test } }
    let s := s.put Fd.LKS_STAT_slot_id slot
    let s := if lost then s.put Fd.KPR_CLKMON_STAT_last_cause 9 else s
    s.selectCapacity

/-! ## The array's supply -/

/-- ARRAY_CLOCK_LOSS (R431): the array rail collapses, or PLL1 loses lock. Every core is OFF, every pass stale, and the array restarts at L0. -/
def execArrayClockLoss (rail : Bool) (s : State) : Out :=
  .next <|
    let s := s.bump (if rail then Fd.CLK_ADN_LOSS_rail_losses else Fd.CLK_ADN_LOSS_pll1_losses)
    let s := s.spoilPasses.each 48 fun k s => if s.coreState k = 6 then s else s.put (Fd.ADN_CORE_STAT_state k) 0
    let s := s.record Blk.clk 0x14 1 0
    let s := ((((s.setFlag Fd.CLK_ADN_DROOP_active false).put Fd.CLK_ADN_LEVEL_present 0).setFlag Fd.CLK_ADN_LEVEL_busy false).put
      Fd.CLK_ADN_SEQ_freq_mhz 400).put Fd.CLK_ADN_SEQ_rail_mv 600
    let s := ({ s with arr := { s.arr with seq := .reset } }).seqEnter 0
    if s.computeDown then s else s.restoreBaskets.updateEff

/-! ## Comparators -/

/-- Does the Keeper ignore a comparator, whose channel is absent (R485)? -/
def State.cmpAbsent (s : State) (c : Nat) : Bool := bit (s.get Fd.LPE_SNS_ABSENT_absent) c

/-- Release PGOOD of a zone. -/
def State.dropPgood (s : State) (z : Fin 4) : State :=
  ({ s with pins := { s.pins with pgood := vset s.pins.pgood z false } }).setFlag (Fd.WGL_PGOOD_level z) false

/-- A zone's under-voltage comparator trips (Table 15-8), where it is armed. -/
def State.uvTrip (s : State) (z : Fin 4) : State :=
  if s.cmpAbsent z || !s.flag (Fd.KPR_CMP_ZONE_armed z) || s.flag (Fd.KPR_CMP_ZONE_uv_trip z) then s else
  let s := (s.setFlag (Fd.KPR_CMP_ZONE_uv_trip z) true).setFlag (Fd.KPR_CMP_ZONE_uv_seen z) true
  (s.dropPgood z).driveThrottle.record Blk.kpr 0x14 1 (0x500 + z)

/-- A zone's over-voltage comparator trips: the zone is fenced. -/
def State.ovTrip (s : State) (z : Fin 4) : State :=
  if s.cmpAbsent z || s.flag (Fd.KPR_CMP_ZONE_ov_trip z) then s else
  let s := (s.setFlag (Fd.KPR_CMP_ZONE_ov_trip z) true).setFlag (Fd.KPR_CMP_ZONE_ov_seen z) true
  ((s.dropPgood z).fenceZone z).record Blk.kpr 0x15 2 (0x500 + z)

/-- A string's over-current comparator trips: the string is fenced with both its stages. -/
def State.ocTrip (s : State) (i : Fin 3) : State :=
  if s.cmpAbsent (12 + i) || s.flag (Fd.KPR_CMP_STR_oc_trip i) then s else
  let s := (s.setFlag (Fd.KPR_CMP_STR_oc_trip i) true).setFlag (Fd.KPR_CMP_STR_oc_seen i) true
  (s.fenceStr i).record Blk.kpr 0x16 2 (0x700 + i)

/-- ZONE_UV_TRIP (R432). -/
def execZoneUvTrip (z : Fin 4) (s : State) : Out := .next <| s.uvTrip z
/-- ZONE_OV_TRIP (R432). -/
def execZoneOvTrip (z : Fin 4) (s : State) : Out := .next <| s.ovTrip z
/-- STRING_OC_TRIP (R432). -/
def execStringOcTrip (i : Fin 3) (s : State) : Out := .next <| s.ocTrip i

/-- COMPARATOR_RELEASE (R432): a comparator's release condition has held for 8 periods, or it is disarmed. 0 to 3 are the zones' under-voltage,
4 to 7 their over-voltage, and 8 to 10 the strings' over-current comparators. -/
def execComparatorRelease (c : Fin 11) (s : State) : Out :=
  .next <|
    if c.val < 4 then (s.setFlag (Fd.KPR_CMP_ZONE_uv_trip c) false).driveThrottle
    else if c.val < 8 then s.setFlag (Fd.KPR_CMP_ZONE_ov_trip (c - 4)) false
    else s.setFlag (Fd.KPR_CMP_STR_oc_trip (c - 8)) false

/-- The arming latches, at cycle 620 (R433): a zone is armed while its WGL_PGOOD started is 1, it is not fenced and its ramp is not idle. -/
def State.armLatch (s : State) : State :=
  (List.finRange 4).foldl (fun (s : State) (z : Fin 4) =>
    let on := s.flag (Fd.WGL_PGOOD_started z) && !s.zoneFenced z && s.flag (Fd.LPE_RAMP_STAT_running z)
    s.setFlag (Fd.KPR_CMP_ZONE_armed z) on) s

end Sys2Proof.Machine
end

