-- ==== Sys2Proof/Machine/Recovery.lean ====
section
/-! DEFINITION. Recovery: acknowledgement and capture (R441 to R444), requested resets and their release (R452), the heartbeats and the watchdog
(R457), bus timeouts (R458), crash dumps (R461 to R463), and the Halt sequence (R449, R450). -/

namespace Sys2Proof.Machine

/-! ## The fault window -/

/-- FAULT_PENDING_CLEAR (R441, R444): a write to a block's FLT_STAT is stamped here. -/
def execFaultPendingClear (b : Fin 18) (bits : Word) (s : State) : Out := .next <| s.enqueue (plainWrite (Reg.FLT_STAT b) 0x707 bits)
/-- CLEAR_CAPTURE (R442). -/
def execClearCapture (b : Fin 18) (s : State) : Out := .next <| s.enqueue (fieldWrite (Fd.FLT_CTRL_clear_capture b) 1)
/-- FAULT_MODE_CHANGE (R442). -/
def execFaultModeChange (b : Fin 18) (history : Bool) (s : State) : Out := .next <| s.enqueue (fieldWrite (Fd.FLT_CFG_mode b) (b2n history))

/-- A write of clear_capture, as it acts: it clears the FIRST record, or empties the history. -/
def State.clearCapture (s : State) (b : Nat) : State := s.clearRecords b

/-! ## Resets -/

/-- RESET_REQUEST (R452): the write of req is stamped here. -/
def execResetRequest (mask : Fin 16) (s : State) : Out := .next <| s.enqueue (fieldWrite Fd.KPR_RST_CTRL_req mask)

/-- A write of req, as it acts. -/
def State.rstRequest (s : State) (mask : Nat) : State :=
  if mask % 16 = 0 then s else
  { s with flt := { s.flt with rstReq := Vector.ofFn fun d => vget s.flt.rstReq d || bit mask d, rstAt := s.time.frame } }

/-- RESET_ASSERT (R452): at the first forecast-frame boundary after the request took effect. -/
def execResetAssert (s : State) : Out :=
  .next <|
    let req := s.flt.rstReq
    if !s.fcStart || s.time.frame ≤ s.flt.rstAt || !((List.finRange 4).any fun (d : Fin 4) => vget req d) || s.pwr.stopped then s else
    let s := s.assertDomains (fun d => vget req d) 5
    { s with flt := { s.flt with rstReq := vall 4 false, rstLeft := 512 } }

/-- The domain that is to be released next. The Halt sequence holds LOOP (R449). -/
def State.nextRelease (s : State) : Option (Fin 4) :=
  (releaseOrder.filter fun d => s.inReset d && (s.flt.halt == HaltPhase.none || d != 0)).head?

/-- RESET_RELEASE (R452): 512 frames after the assertion the domains are released, one per frame; after a restart once PLL0 and PLL2 are
locked (R421). -/
def execResetRelease (s : State) : Out :=
  .next <|
    let locked := !s.pwr.lockWait || (s.flag Fd.CLK_SRC_STAT_pll0_lock && s.flag Fd.CLK_SRC_STAT_pll2_lock)
    if s.flt.rstLeft != 0 || s.pwr.stopped || !locked || s.flt.relAt == some s.time.frame then s else
    match s.nextRelease with
    | none => s
    | some d =>
      let s := { s with flt := { s.flt with relAt := some s.time.frame } }.releaseDomain d
      if s.nextRelease.isNone then { s with pwr := { s.pwr with lockWait := false } } else s

/-! ## What follows a dump -/

/-- Carry out what waits for a dump's end (R449, R457): the watchdog's reset, or the next step of the Halt sequence. -/
def State.afterDumpStep (s : State) : State :=
  match s.flt.afterDump with
  | .nothing => s
  | .computeReset =>
    let s := { s with flt := { s.flt with afterDump := AfterDump.nothing, rstLeft := 512 } }
    (s.assertDomain 1 6).bump Fd.LKS_WDOG_STAT_wd_resets
  | .halt =>
    let s := { s with flt := { s.flt with afterDump := AfterDump.nothing, rstLeft := 512, halt := HaltPhase.computeReset } }
    s.assertDomains (fun d => d == 0 || d == 1) 8

/-- What recovery does at a frame's start: the frames of a reset, what a dump that was not taken leaves to do, and the slow frames of fenced
ports. -/
def State.recoveryTick (s : State) : State :=
  let s := { s with flt := { s.flt with rstLeft := s.flt.rstLeft - 1
                                        portFence := if s.slowStart then Vector.ofFn fun p => max (min 1 (vget s.flt.portFence p)) (vget s.flt.portFence p - 1)
                                          else s.flt.portFence } }
  if s.flt.dumpTrig.isNone then s.afterDumpStep else s

/-! ## Heartbeats and the watchdog -/

/-- HEARTBEAT_BEAT (R457): the write of a core's beat bit is stamped here. A core that hangs writes none. -/
def execHeartbeatBeat (c : Fin 4) (s : State) : Out :=
  .next <| if vget s.flt.hung c || s.computeDown then s else s.enqueue (fieldWrite (Fd.LKS_HB_beat c) 1)

/-- A write of a beat bit, as it acts. The first beat of core 0 ends the wait. -/
def State.beat (s : State) (c : Fin 4) : State :=
  if s.computeDown then s else
  let s := { s with flt := { s.flt with beats := vset s.flt.beats c true } }
  if c = 0 then s.setFlag Fd.LKS_WDOG_STAT_booting false else s

/-- Is a core expected to beat? In SLEEP only core 0 is. -/
def State.hbExpected (s : State) (c : Fin 4) : Bool :=
  bit (s.get Fd.LKS_WDOG_CTRL_hb_expect) c && (s.get Fd.CLK_PSTATE_state == 0 || c == 0)

/-- HEARTBEAT_CHECK (R457): at a forecast-frame boundary the beats of the forecast frame just ended are counted, once. -/
def execHeartbeatCheck (s : State) : Out :=
  .next <|
    if !s.fcStart || s.computeDown || s.inReset 2 || s.flt.hbAt == some s.time.frame then s else
    let s := { s with flt := { s.flt with hbAt := some s.time.frame } }
    if s.flag Fd.LKS_WDOG_STAT_booting then { s with flt := { s.flt with bootLeft := s.flt.bootLeft - 1 } } else
    let missed := Vector.ofFn fun (c : Fin 4) => if !s.hbExpected c || vget s.flt.beats c then 0 else vget s.flt.missed c + 1
    let s := { s with flt := { s.flt with missed := missed, beats := vall 4 false } }
    let missing := ((List.finRange 4).filter fun (c : Fin 4) => s.hbExpected c && decide (s.get Fd.LKS_WDOG_CTRL_hb_miss ≤ vget missed c)).foldl
      (fun n c => n + 2 ^ c.val) 0
    s.put Fd.LKS_WDOG_STAT_missing missing

/-- Must the watchdog act (R457)? -/
def State.watchdogDue (s : State) : Bool :=
  if s.flag Fd.LKS_WDOG_STAT_booting then s.flt.bootLeft == 0
  else (List.finRange 4).any fun (c : Fin 4) => s.hbExpected c && decide (s.get Fd.LKS_WDOG_CTRL_hb_reset ≤ vget s.flt.missed c)

/-- WATCHDOG_ACTION (R457): a dump, the WATCHDOG fault, and at the dump's end a COMPUTE reset; the third action in a row is WATCHDOG_LIMIT, with
the Halt sequence in place of the reset. -/
def execWatchdogAction (s : State) : Out :=
  .next <|
    if !s.watchdogDue || s.computeDown || s.inReset 2 || s.flt.afterDump != AfterDump.nothing || s.flt.halt != HaltPhase.none then s else
    let n := s.flt.wdCount + 1
    let s := { s with flt := { s.flt with wdCount := n } }
    if n < 3 then (s.startDump 1 .computeReset).record Blk.sup 0x10 1 0
    else (s.startDump 1 .halt).record Blk.sup 0x11 3 0

/-- HALTED_SERVICE_TIMEOUT (R450): no report of firmware within 10 s of the COMPUTE release; the supervisor stays in reset. -/
def execHaltedServiceTimeout (s : State) : Out :=
  .next <|
    if s.flt.halt == HaltPhase.starting && decide (s.flt.haltFrame + 2500000 ≤ s.time.frame) then
      { s with flt := { s.flt with halt := .dead } }
    else s

/-! ## Bus timeouts -/

/-- BUS_TIMEOUT (R458, R459): an access by a master to a register of block `b` has not completed in 2 µs. -/
def execBusTimeout (b : Fin 18) (addr : Word) (write : Bool) (master : Fin 256) (s : State) : Out :=
  .next <|
    let s := { s with flt := { s.flt with noAnswer := vset s.flt.noAnswer b (vget s.flt.noAnswer b - 1) } }
    s.recordAt b 1 1 0 (if write then 2 else 1) addr.toNat master

/-! ## Dumps -/

/-- DUMP_REQUEST (R460): the write of request is stamped here. -/
def execDumpRequest (s : State) : Out := .next <| s.enqueue (fieldWrite Fd.LKS_DUMP_CTRL_request 1)

/-- The running firmware's baseline (R402): that of the bank it runs from; 0 where no firmware runs. -/
def State.baseline (s : State) : Nat :=
  if s.flag Fd.SEC_BOOT_recovery then 0
  else if s.flag Fd.SEC_BOOT_bank then s.get Fd.SEC_FW_B_baseline else s.get Fd.SEC_FW_A_baseline

/-- DUMP_COMPLETE (R461 to R463): the dump stands in its slot, with the markers of the reads that timed out. What waits for it follows. -/
def execDumpComplete (markers : List (Nat × Nat)) (s : State) : Out :=
  .next <|
    match s.flt.dumpTrig with
    | none => s
    | some trig =>
      let k := s.get Fd.LKS_DUMP_STAT_dumps
      let d : DumpRec := { num := k, trigger := trig, frame := s.flt.dumpAt.1, time := s.flt.dumpAt.2, baseline := s.baseline
                           slot := s.get Fd.LKS_STAT_slot_id, role := s.get Fd.LKS_STAT_role, markers := markers, regs := s.regs }
      let slot : Fin 4 := ⟨k % 4, Nat.mod_lt _ (by decide)⟩
      let s := { s with flt := { s.flt with dumps := vset s.flt.dumps slot (some d), dumpTrig := none } }
      let s := (s.bump Fd.LKS_DUMP_STAT_dumps).put Fd.LKS_DUMP_STAT_timeouts (min 255 (markers.filter fun m => m.2 != 0xFFFFFFFF).length)
      let s := (s.put Fd.LKS_DUMP_STAT_last slot).put Fd.LKS_DUMP_STAT_trigger trig
      let s := (s.setFlag Fd.LKS_DUMP_STAT_cut (markers.any fun m => m.2 == 0xFFFFFFFF)).setFlag Fd.LKS_DUMP_STAT_busy false
      s.afterDumpStep

/-- The sections of a dump: identifier and length (Table 16-11). -/
def dumpSections : List (Nat × Nat) :=
  [(1, 4608), (2, 16384), (3, 2097152), (4, 65536), (5, 8192), (6, 3072), (7, 7168), (8, 512), (9, 1024)]

/-- The offset at which the `j`-th section starts: after the header and the directory, on 64-byte boundaries. All lengths are multiples of 64. -/
def dumpStart (j : Nat) : Nat := 256 + ((dumpSections.take j).map fun x => x.2).foldl (· + ·) 0
def dumpMarkers : Nat := dumpStart 9

/-- The register address of a word of a section that holds registers. -/
def dumpReg (id off : Nat) : Option Nat :=
  match id with
  | 1 => some (0x40000000 + 0x10000 * (off / 256) + 0x7F00 + off % 256)
  | 6 => if off % 64 < 16 then some (0x40090100 + 0x10 * (off / 64) + off % 64) else none
  | 7 => some (0x40011000 + off)
  | 8 => some (0x400D0000 + off)
  | _ => none

/-- The word of a section at an offset; none where the manual leaves the content to the supervisor. A read that timed out reads as the fill
word, and so does everything after a cut. -/
def DumpRec.word (d : DumpRec) (id off : Nat) : Option Word :=
  let cut := (d.markers.any fun m => m == (id, 0xFFFFFFFF)) && (d.markers.all fun m => m.1 != id || m.2 == 0xFFFFFFFF || decide (m.2 < off))
  if (d.markers.contains (id, off)) || cut then some 0xA5A5A5A5
  else if id = 6 && 8 ≤ off % 64 then some 0
  else (dumpReg id off).map fun a => d.regs.get a

/-- The header and directory (Table 16-10). -/
def DumpRec.head (d : DumpRec) : List Nat :=
  beBytes 4 0x54444D50 ++ beBytes 2 1 ++ [d.trigger, 9] ++ beBytes 6 d.frame ++ [0, 0] ++ beBytes 8 d.time ++ beBytes 4 d.baseline
    ++ [d.slot, d.role] ++ beBytes 2 d.markers.length ++ beBytes 4 (dumpMarkers + 8 * d.markers.length) ++ beBytes 4 dumpMarkers
    ++ List.replicate 24 0
    ++ (List.range 9).flatMap fun j => match dumpSections[j]? with
      | some x => beBytes 2 x.1 ++ [0, 0] ++ beBytes 4 (dumpStart j) ++ beBytes 4 x.2
        ++ beBytes 4 (d.markers.filter fun m => m.1 == x.1 && m.2 != 0xFFFFFFFF).length
      | none => []

/-- A byte of a dump. -/
def DumpRec.byte (d : DumpRec) (k : Nat) : Nat :=
  if k < 256 then d.head.getD k 0
  else if dumpMarkers ≤ k then
    let e := (k - dumpMarkers) / 8
    match d.markers[e]? with
    | some m => (beBytes 2 m.1 ++ [0, 0] ++ beBytes 4 m.2).getD ((k - dumpMarkers) % 8) 0
    | none => 0
  else match ((List.range 9).filter fun j => decide (dumpStart j ≤ k)).getLast?.bind fun j => (dumpSections[j]?).map fun x => (x.1, k - dumpStart j) with
    | some x => match d.word x.1 (x.2 / 4 * 4) with
      | some w => w.toNat / 256 ^ (3 - x.2 % 4) % 256
      | none => Config.dumpByte d.num k % 256
    | none => 0

/-- The length of a dump. -/
def DumpRec.length (d : DumpRec) : Nat := dumpMarkers + 8 * d.markers.length

/-- PORT_FENCE_RETURN (R438): a fenced port returns after 16 slow frames. -/
def execPortFenceReturn (p : Fin 3) (s : State) : Out :=
  .next <| if vget s.flt.portFence p = 1 then { s with flt := { s.flt with portFence := vset s.flt.portFence p 0 } } else s

end Sys2Proof.Machine
end

