-- ==== Sys2Proof/Machine/StageCmds.lean ====
section
/-! DEFINITION. The stage commands of a frame (Table 12-4, Table 05-2): what the module sends on each stage lane. -/

namespace Sys2Proof.Machine

/-- The mode a stage is commanded (Table 05-2, R131, R140, R470). -/
def State.stageMode (s : State) (n : Fin 26) : StageMode :=
  if h : n.val < 16 then
    match s.osState n with
    | 1 | 2 | 6 | 7 | 9 => .run
    | 4 => .precharge
    | 5 => if (s.os ⟨n, h⟩).step == .closeSent then .precharge else .run
    | _ => .idle
  else if n.val < 22 then (if s.ssW (n - 16) != 0 && !s.ssFenced (n - 16) then .run else .idle)
  else if s.feW (n - 22) != 0 && !s.feFenced (n - 22) && s.loopOn (5 + s.feGroup (n - 22)) then .run else .idle

/-- The zone field of an output stage: its zone, or the one it is to be bound to. -/
def State.cmdZone (s : State) (k : Fin 16) : Nat :=
  if s.osZone k < 4 then s.osZone k
  else if s.osState k = 4 ∨ s.osState k = 5 then (s.os k).dst else 4

/-- The seconds of a test (R353, R354). -/
def State.testSecs (s : State) : Nat := if s.link.bert == BertRun.commission then 120 else 20

/-- The command of a stage lane in the frame. Its claim field is `pins.claim`. -/
def State.stageCmd (s : State) (n : Fin 26) : StageCmd :=
  let mode := s.stageMode n
  let ref := if mode == .run then vget s.lpe.refs n else 0
  let test := s.get (Fd.STL_LANE_STAT_state n) == 4 && s.link.bertStart == s.time.frame
  let c : StageCmd :=
    { seq := s.time.frame % 65536, claim := s.pins.claim, mode := mode, swClosed := false, phase := s.phaseOf n, ref := ref, vpre := 0
      ver := s.get (Fd.STL_LANE_STAT_version n), test := test, secs := if test then s.testSecs else 0, zone := 4 }
  if h : n.val < 16 then
    let o := s.os ⟨n, h⟩
    { c with swClosed := !o.openCmd, vpre := if mode == .precharge then o.vpre else 0, zone := s.cmdZone ⟨n, h⟩ }
  else c

/-- The commands of the 26 lanes. -/
def State.stageCmds (s : State) : Vector StageCmd 26 := Vector.ofFn fun n => s.stageCmd n

/-- The CRC-32 of the output digest (R316): over the 26 payloads with their claim fields 0. -/
def State.outputCrc (s : State) : Word := crc32 ((List.finRange 26).flatMap fun n => (s.stageCmd n).body 0)

/-- May the module send a command on a lane: declared, trained, with a version, and ACTIVE or about to enter TEST (R331, R503)? -/
def State.stageSends (s : State) (n : Fin 26) : Bool :=
  s.stageDecl n && s.get (Fd.STL_LANE_STAT_version n) != 0 && s.pins.valid &&
    (s.get (Fd.STL_LANE_STAT_state n) == 2 || (s.get (Fd.STL_LANE_STAT_state n) == 4 && s.link.bertStart == s.time.frame))

end Sys2Proof.Machine
end

