-- ==== Sys2Proof/Machine/Lockstep.lean ====
section
/-! DEFINITION. The lockstep pair (chapter 11): claim numbers and eligibility, the sample of the claim lines, health items and reports, the images
and bulk items, the self-tests of the standby, joining, and the claim history. -/

namespace Sys2Proof.Machine

/-! ## Identity, health and claims -/

/-- Is the module in slot A (R300)? -/
def State.slotA (s : State) : Bool := !bit (s.get Fd.LKS_STAT_slot_id) 0

/-- Does the alignment state allow a claim (R304): LOCKED, FREE in INTERNAL mode, or HOLDOVER? -/
def State.alignOk (s : State) : Bool := s.alignState == 2 || s.alignState == 3 || (s.alignState == 0 && !s.follows)

/-- The digest of CONFIG (Table 11-6). -/
def State.ownConfig (s : State) : Word :=
  Config.configDigest [s.get Fd.SNS_SYNC_OFFSET_offset, s.get Fd.SNS_CARRIER_OFFSET_shelf_offset, s.get Fd.LKS_CTRL_pair_mode,
    s.get Fd.LKS_CTRL_pref_slot, s.get Fd.LKS_STAT_slot_id / 2]

/-- Does a declared stage lane stand untrained, or failed in its last test (Table 11-6, bit 8)? -/
def State.lanesBad (s : State) : Bool :=
  (List.finRange 26).any fun n => s.stageDecl n &&
    (s.flag (Fd.STL_LANE_STAT_test_fail n) || !(decide (2 ≤ s.get (Fd.STL_LANE_STAT_state n) ∧ s.get (Fd.STL_LANE_STAT_state n) ≤ 4)))

/-- Is HEARTBEAT left out under R322: a claimant whose COMPUTE or MEMORY domain has been in reset for no more than compute_grace slow frames? -/
def State.hbGrace (s : State) : Bool :=
  s.lks.claimant && (match s.lks.graceFrom with
    | some f => decide (s.time.frame < f + 262144 * s.get Fd.LKS_GRACE_compute_grace)
    | none => false)

/-- The slow frame's index. -/
def State.slowIdx (s : State) : Nat := s.time.frame / 262144

/-- The interval of R318. -/
def State.testInterval (s : State) : Nat := max 1 (s.get Fd.LKS_TEST_interval)

/-- The failing health items (Table 11-6). -/
def State.healthItems (s : State) : Nat :=
  let pv := s.lks.partnerValid
  let standby := s.isStandby && s.pins.valid
  let hold := s.link.passHold
  let cfgBad := (match s.lks.partnerConfig with
    | some d => d != s.ownConfig
    | none => false) || bit s.lks.partnerClaim 0 == s.slotA
  b2n (pv && !hold && (s.lks.syncBad != 0 || !s.alignOk))
    + 2 * b2n (pv && !hold && (decide (4 < s.lks.missSweep) || decide (4 < s.lks.missPrev)))
    + 4 * b2n (pv && decide (4 ≤ s.lks.claimDiff))
    + 8 * b2n (pv && cfgBad)
    + 16 * b2n (standby && !hold && (s.lks.mismatchSlow || s.lks.mismatchPrev))
    + 32 * b2n (standby && s.get Fd.LKS_ADC_adc_fail != 0)
    + 64 * b2n (standby && s.flag Fd.LKS_CTRL_test_en && decide (s.lks.lastTestSlow + 2 * s.testInterval < s.slowIdx))
    + 128 * b2n ((s.get Fd.LKS_WDOG_STAT_missing != 0 || s.computeDown) && !s.hbGrace)
    + 256 * b2n s.lanesBad

/-- Is the module eligible (R304, R453, R465)? -/
def State.eligible (s : State) : Bool :=
  s.pwr.startDone && !s.pins.testMode && !s.flt.safe && s.flt.halt == HaltPhase.none && s.alignOk && s.lks.join == JoinPhase.none
    && !s.cfg.gate && !s.inReset 0 && !s.inReset 2 && s.get Fd.CLK_PSTATE_state == 0

/-- The claim number with bit h as given (Table 11-1). -/
def State.claimNumber (s : State) (h : Bool) : Nat :=
  let pref := s.get Fd.LKS_CTRL_pref_slot
  8 * b2n h + 4 * b2n s.claimD + 2 * b2n ((pref == 1 && s.slotA) || (pref == 2 && !s.slotA)) + b2n s.slotA

/-- The role that LKS_STAT shows. -/
def State.role (s : State) : Nat :=
  if s.lks.join == JoinPhase.joining then 3
  else if !s.pins.valid then 0
  else if s.lks.claimant then 1 else 2

/-! ## The health report (Table 11-7) -/

/-- The highest uncleared class of a block, as the report gives it. -/
def State.blockClass (s : State) (b : Nat) : Nat :=
  let p := s.get (Fd.FLT_STAT_own_pend b) ||| s.get (Fd.FLT_STAT_pair_pend b)
  if s.flag (Fd.FLT_STAT_halt b) then 3 else if bit p 2 then 2 else if bit p 1 then 1 else 0

/-- The bytes of the module's own report, its CRC included. -/
def State.reportBytes (s : State) : List Nat :=
  let faults := (List.range 18).foldl (fun n b => n * 4 + s.blockClass b) 0 * 16
  let last := s.get Fd.LKS_TEST_last_core
  let body := beBytes 6 s.time.frame ++ [16 * b2n s.pins.valid + s.pins.claim % 16,
      8 * b2n (s.flag Fd.LKS_STAT_single) + 4 * b2n (s.flag Fd.LKS_STAT_synced) + s.get Fd.LKS_STAT_role]
    ++ beBytes 2 (s.get Fd.LKS_HEALTH_own_items) ++ [0, 0] ++ beBytes 4 s.lks.missLast ++ beBytes 4 (s.get Fd.LKS_CNT_A_mismatch)
    ++ beBytes 4 (s.get Fd.LKS_ADC_adc_fail) ++ [if last = 0x3F then 0xFF else last, s.lks.lastResult,
      ((List.range 48).filter fun k => s.coreState k == 6).length, 0]
    ++ beBytes 5 faults ++ [0, 0, 0] ++ beBytes 4 s.ownConfig.toNat ++ beBytes 4 s.baseline ++ [s.get Fd.CLK_ADN_LEVEL_present]
    ++ List.replicate 15 0
  body ++ beBytes 4 (crc32 body).toNat

/-- Show the own report in LKS_REPORT_OWN. -/
def State.putReport (s : State) : State :=
  let b := s.reportBytes
  s.each 16 fun i s => s.wr (Reg.LKS_REPORT_OWN i) (BitVec.ofNat 32 (beNat ((b.drop (4 * i)).take 4)))

/-! ## The sample at cycle 0 (R305, R310) -/

/-- SINGLE's fault clears when a partner has joined (R323): the remembered fault and its pending bit. -/
def State.clearSingle (s : State) : State :=
  if !s.flag Fd.LKS_STAT_single then s else
  let s := s.setFlag Fd.LKS_STAT_single false
  let rem := (vget s.flt.rem Blk.lks).erase ⟨true, 1, 0⟩
  let s := { s with flt := { s.flt with rem := vset s.flt.rem Blk.lks rem } }
  if rem.any fun r => r.own && r.cls == 1 then s
  else s.put (Fd.FLT_STAT_own_pend 13) (s.get (Fd.FLT_STAT_own_pend 13) &&& 5)

/-- The claimant of the frame, where it has changed, enters the history (R327) and the count. -/
def State.noteClaimant (s : State) (wasValid fresh : Bool) : State :=
  let who : Option Bool := if s.lks.claimant then some true else if s.lks.partnerValid then some false else none
  match who with
  | none => s
  | some w =>
    let num := if w then s.pins.claim else s.lks.partnerClaim
    if s.lks.who == some w then { s with lks := { s.lks with whoClaim := num } } else
    let oldValid := match s.lks.who with
      | some true => s.pins.valid
      | some false => s.lks.partnerValid
      | none => false
    let cause := match s.lks.who with
      | none => 2
      | some _ => if !oldValid then 1 else if (w && !wasValid) || (!w && fresh) then 3 else 0
    let e : ClaimEntry := { frame := s.time.frame, old := 16 * b2n oldValid + (if s.lks.who.isSome then s.lks.whoClaim else 0), new := 16 + num, cause := cause }
    { s with lks := { s.lks with who := some w, whoClaim := num, histPending := s.lks.histPending ++ [e] } }.bump Fd.LKS_CNT_B_claim_changes

/-- The sample of the partner's lines at cycle 0, and what follows from it (R305, R310, R323 to R325). `fresh` in the state says that the
module's own valid was asserted since the last sample. -/
def State.claimSample (s : State) (p : FramePins) : State :=
  let was := s.lks.partnerValid
  let bad := p.partnerValid && (match p.phaseDiff with
    | some d => decide (4 < d.natAbs)
    | none => false)
  let own := s.pins.valid
  let lower := decide (s.pins.claim < p.partnerClaim)
  -- after the pair wait the lower of two new claims joins
  let yield' := s.lks.startPair && own && p.partnerValid && lower
  let s := { s with lks := { s.lks with
    claimant := own && (!p.partnerValid || !lower), partnerValid := p.partnerValid, partnerClaim := p.partnerClaim
    lost := s.lks.lost || (was && !p.partnerValid && s.lks.join == JoinPhase.none)
    syncBad := if bad then 256 else s.lks.syncBad - 1
    startPair := s.lks.startPair && !(own && p.partnerValid) } }
  let s := if yield' then s.releaseValid else s
  let joins := p.partnerValid && s.pwr.startDone && (yield' || (!own && s.lks.join != JoinPhase.joining && !s.lks.startPair))
  let s := if joins then { s with lks := { s.lks with join := .joining, claimant := false, hRun := false, hReady := false } } else s
  -- a joining module that loses its partner claims alone
  let s := if s.lks.join == JoinPhase.joining && !p.partnerValid then { s with lks := { s.lks with join := .none, lost := true } } else s
  let s := s.noteClaimant (!s.lks.fresh) (p.partnerValid && !was)
  let s := { s with lks := { s.lks with fresh := false } }
  let s := match p.phaseDiff with
    | some d => s.put Fd.LKS_PHASE_phase_diff (toBits 16 d)
    | none => s
  let s := ((s.put Fd.LKS_STAT_claim_partner p.partnerClaim).setFlag Fd.LKS_STAT_partner_valid p.partnerValid).put Fd.LKS_STAT_role s.role
  let s := if s.isStandby then s else s.setFlag Fd.LKS_STAT_synced false
  s.holdoverTarget (if p.partnerValid then p.phaseDiff else none)

/-- What the LKS block does at a frame's start beside the sample: forwarded writes go out (Table 11-3), the pair wait runs, and the counts of the
sweep and the slow frame close. -/
def State.lockTick (s : State) : State :=
  let s := { s with lks := { s.lks with fwdOut := s.lks.fwd, fwd := [], onSet := false
                                        waitFrames := if s.lks.join == JoinPhase.pairWait then s.lks.waitFrames + 1 else 0 } }
  let s := if s.sweepStart then { s with lks := { s.lks with missPrev := s.lks.missSweep, missSweep := 0 } } else s
  if s.slowStart then
    { s with lks := { s.lks with missLast := s.lks.missSlow, missSlow := 0, mismatchPrev := s.lks.mismatchSlow, mismatchSlow := false
                                 hReady := s.lks.hReady || s.lks.hRun, hRun := true } }
  else s

/-! ## CLAIM_FIX (R302 to R304, R319, R323) -/

/-- Will the reset of LOOP or LINKS that is asked for be asserted at the next frame's start (R452)? -/
def State.resetNext (s : State) : Bool :=
  (vget s.flt.rstReq 0 || vget s.flt.rstReq 2) && (s.time.frame + 1) % 256 == 0 && decide (s.flt.rstAt < s.time.frame + 1)

/-- The start of the grace of R322: the frame in which COMPUTE or MEMORY was first seen in reset. -/
def State.graceMark (s : State) : State :=
  { s with lks := { s.lks with graceFrom := if s.computeDown || s.inReset 3 then (match s.lks.graceFrom with
    | some f => some f
    | none => some s.time.frame) else none } }
/-- A failing item ends the run of healthy slow frames. -/
def State.endRun (s : State) : State := { s with lks := { s.lks with hRun := false, hReady := false } }
/-- The health items are judged (R304, R319). -/
def State.judged (s : State) : State := (if s.healthItems == 0 then s else s.endRun).put Fd.LKS_HEALTH_own_items s.healthItems
/-- Drive the claim lines. -/
def State.setClaim (s : State) (valid : Bool) (claim : Nat) : State :=
  { s with lks := { s.lks with fresh := valid && !s.pins.valid }, pins := { s.pins with valid := valid, claim := claim } }
/-- The claim number for the next frame is fixed and driven (R303). -/
def State.driveClaim (s : State) (h : Bool) : State :=
  let claim := s.claimNumber h
  let valid := s.eligible && !s.resetNext
  ((s.setClaim valid claim).put Fd.LKS_STAT_claim_own claim).setFlag Fd.LKS_STAT_own_valid valid
/-- Without a partner in PAIR mode the module is SINGLE, which is a fault (R323). -/
def State.becomeSingle (s : State) : State :=
  if s.flag Fd.LKS_CTRL_pair_mode || s.flag Fd.LKS_STAT_single then s else (s.setFlag Fd.LKS_STAT_single true).record Blk.lks 0x10 1 0
/-- The loss of the partner is taken. -/
def State.lossTaken (s : State) : State := { s with lks := { s.lks with lost := false } }
/-- A partner that was lost is noted (R323). -/
def State.noteLoss (s : State) : State := if !s.lks.lost then s else (s.lossTaken.record Blk.lks 0x13 0 0).becomeSingle
/-- A new report leaves where the items have changed, and in each slow frame (R320). -/
def State.newReport (s : State) (items : Nat) : State :=
  if items != s.lks.items || s.slowStart then { s with lks := { s.lks with items := items } }.putReport else s
/-- CLAIM_FIX (R303): at cycle 980 the items are judged, the claim number for the next frame is fixed and driven, and a partner's loss is
recorded. -/
def State.claimFixed (s : State) : State :=
  let items := s.healthItems
  let s := s.judged
  ((s.driveClaim (items == 0 && s.lks.hReady)).noteLoss).newReport items
def execClaimFix (s : State) : Out := .next (s.atCycle 980).graceMark.claimFixed

/-! ## The exchange -/

/-- Does the partner's set count: it is in time, of this frame, and of a partner that drives its lines? -/
def State.takesSet (s : State) (cyc : Nat) (set : InputSet) : Bool :=
  !s.inp.closed && decide (cyc ≤ 300) && set.frame == s.time.frame && !s.flt.safe && !s.inReset 2 && s.lks.partnerValid
/-- Take the partner's set; frames in which its claim differs from the one on the lines are counted (R319). -/
def State.takeSet (s : State) (set : InputSet) : State :=
  let diff := if set.claim % 16 != s.lks.partnerClaim then s.lks.claimDiff + 1 else 0
  { s with inp := { s.inp with partner := some set }, lks := { s.lks with claimDiff := diff } }
/-- INPUT_SET (R306, R307): the partner's set has been received whole at cycle `cyc`, with its check. A set that is late, fails its check or is
not of the frame does not count. -/
def execInputSet (cyc : Nat) (ok : Bool) (set : InputSet) (s : State) : Out :=
  .next <| if !ok then s.bump Fd.LKS_LOCK_CNT_crc_err else if s.takesSet cyc set then s.takeSet set else s

/-- The choice of the frame's set at cycle 300 (R306, R307): the claimant's own, and at the standby the claimant's where it is complete. A set that
is missing is counted, and its standby is no longer synchronised. In phase 3 of a bit-error test the standby computes on its own. -/
def State.chooseSet (s : State) : State :=
  let standby := s.isStandby
  let have' := s.inp.partner.isSome
  let s := if s.lks.partnerValid && !have' then
      { s with lks := { s.lks with missSweep := s.lks.missSweep + 1, missSlow := s.lks.missSlow + 1 } }.bump Fd.LKS_CNT_A_exch_miss
    else s
  let s := if standby && !have' then s.setFlag Fd.LKS_STAT_synced false else s
  { s with inp := { s.inp with onPartner := standby && have' }
           lks := { s.lks with onSet := standby && have' && s.flag Fd.LKS_STAT_synced } }

/-- The standby's sense codes against the claimant's (R317), summed over the sweep. -/
def State.adcSum (s : State) : State :=
  match s.inp.partner with
  | some p =>
    if s.isStandby then
      { s with lks := { s.lks with adcSum := Vector.ofFn fun c => vget s.lks.adcSum c + (vget s.inp.own.sense c - vget p.sense c)
                                   adcCnt := s.lks.adcCnt + 1 } }
    else s
  | none => s

/-- Are the outputs those of the claimant? -/
def State.sameOutputs (s : State) (crc : Word) (outs : Vector Word 7) : Bool :=
  crc == s.outputCrc && ((List.finRange 7).all fun (l : Fin 7) => vget outs l == (vget s.lpe.loops l).y.toWord)
/-- A mismatch asks for a resync. -/
def State.mismatchMark (s : State) : State := { s with lks := { s.lks with mismatchSlow := true, resyncReq := true } }
/-- A mismatch is counted and recorded. -/
def State.mismatch (s : State) : State := ((s.bump Fd.LKS_CNT_A_mismatch).record Blk.lks 0x11 0 0).mismatchMark
/-- OUTPUT_DIGEST (R316): a frame computed in step with the claimant whose outputs differ is a mismatch. -/
def execOutputDigest (crc : Word) (outs : Vector Word 7) (s : State) : Out :=
  .next <| if !s.lks.onSet || !s.lpe.ran || s.sameOutputs crc outs then s else s.mismatch

/-! ## Images (R309, R311) -/

/-- Is an address a pair register outside the fault window? -/
def pairReg (a : Nat) : Bool :=
  match blockOf a with
  | some b => pairBlock b && !decide (0x7F00 ≤ (a - 0x40000000) % 0x10000 ∧ (a - 0x40000000) % 0x10000 < 0x8000)
  | none => false

/-- The pair registers (R301). -/
def State.pairRegs (s : State) : Regs := s.regs.filter fun e => pairReg e.1

/-- The image of the pair state. -/
def State.pairImage (s : State) : PairImage :=
  { regs := s.pairRegs, loops := s.lpe.loops, prf := s.prf, zfb := s.zfb, wgl := s.wgl, chn := s.chn, est := s.est }

/-- Replace the registers that a condition names by those of an image. -/
def State.loadRegs (s : State) (f : Nat → Bool) (l : Regs) : State :=
  let s := (s.regs.filter fun e => f e.1).foldl (fun (s : State) e => s.wr e.1 (resetWord e.1)) s
  (l.filter fun e => f e.1).foldl (fun (s : State) e => s.wr e.1 e.2) s

/-- The registers of the dynamic image: those of LPE, PRF, FFW, ZFB and WGL, and the charge accumulators. -/
def dynReg (a : Nat) : Bool :=
  pairReg a && (match blockOf a with
    | some b => b != 7 && (b != 11 || (List.range 3).any fun r => a == Reg.EST_STR_QACC_LO r || a == Reg.EST_STR_QACC_HI r)
    | none => false)

/-- The parts of the dynamic image beside its registers. -/
def State.dynParts (s : State) (i : PairImage) : State := { s with lpe := { s.lpe with loops := i.loops }, prf := i.prf, zfb := i.zfb, wgl := i.wgl }
/-- Load the dynamic image. -/
def State.loadDynamic (s : State) (i : PairImage) : State := (s.dynParts i).loadRegs dynReg i.regs

/-- The parts of the static image beside its registers: those of the dynamic image, the CHN and the EST state. The capacity slots are each module's own. The
supervisor's copy in DRAM (R453) becomes that of the words loaded. -/
def State.statParts (s : State) (i : PairImage) : State :=
  { s with chn := i.chn
           flt := { s.flt with configImage := (i.regs.filter fun (e : Nat × Word) => pairReg e.1).foldl (fun (l : Regs) (e : Nat × Word) => l.set e.1 e.2) [] }
           est := { i.est with slots := s.est.slots, failed := s.est.failed, storeDue := s.est.storeDue } }
/-- Load the static image, which holds every pair register, the feed-forward buffers, and the EST and CHN state. -/
def State.loadStatic (s : State) (i : PairImage) : State := ((s.dynParts i).statParts i).loadRegs pairReg i.regs

/-- The static image is in; the dynamic one is due. -/
def State.staticTaken (s : State) : State := { s with lks := { s.lks with staticReq := false, resyncReq := true } }
/-- STATIC_IMAGE (R311): the standby applies it; a dynamic resync follows. -/
def execStaticImage (img : PairImage) (s : State) : Out :=
  .next <| if !s.isStandby then s else (s.loadStatic img).staticTaken.setFlag Fd.LKS_STAT_synced false

/-- The pass of R354 ends, but in phase 3 of a bit-error test. -/
def State.passEnded (s : State) : State := { s with link := { s.link with passHold := s.link.passHold && s.link.bert == BertRun.phase 3 } }
/-- The dynamic image is in. -/
def State.dynamicTaken (s : State) : State := { s with lks := { s.lks with resyncReq := false } }.passEnded
/-- Can the standby take a dynamic image: it has asked for one, and the loop engine has not yet run? -/
def State.takesDynamic (s : State) : Bool := s.isStandby && !s.lpe.ran && s.lks.resyncReq
/-- DYNAMIC_IMAGE (R311): loaded before cycle 320, it synchronises the standby from this frame. -/
def execDynamicImage (img : PairImage) (s : State) : Out :=
  .next <| if !s.takesDynamic then s else ((s.loadDynamic img).dynamicTaken.setFlag Fd.LKS_STAT_synced true).bump Fd.LKS_CNT_B_resyncs

/-- Ask for the dynamic image. -/
def State.askDynamic (s : State) : State := { s with lks := { s.lks with resyncReq := true } }
/-- RESYNC_REQUEST (R311): a standby that is not synchronised asks for the dynamic image. At the claimant the image leaves, and the pass of R354
ends. -/
def execResyncRequest (s : State) : Out :=
  .next <| if s.isStandby then (if s.flag Fd.LKS_STAT_synced then s else s.askDynamic) else s.passEnded

/-- RESYNC (R328): the write of resync is stamped here. -/
def execResync (s : State) : Out := .next <| s.enqueue (fieldWrite Fd.LKS_CTRL_resync 1)
/-- A write of resync, as it acts: a standby asks for the static image. -/
def State.resyncWrite (s : State) : State := if s.isStandby then { s with lks := { s.lks with staticReq := true } } else s

/-- Take a forecast. -/
def State.takeForecast (s : State) (fcast : Vector (List ArrBlock) 4) : State := { s with prf := { s.prf with fcast := fcast, fcFresh := true } }
/-- FORECAST_BULK (R101, R309): the claimant's committed forecast. -/
def execForecastBulk (fcast : Vector (List ArrBlock) 4) (s : State) : Out := .next <| if s.isStandby then s.takeForecast fcast else s

/-- Take a feed-forward buffer, shape words before bias words. -/
def State.takeBuffer (s : State) (z : Fin 4) (words : List Word) : State :=
  let k := 1 - s.get (Fd.FFW_ZONE_STAT_active_buf z)
  s.each 512 fun i s => (s.wr (Reg.FFW_SHAPE z k i) (words.getD i 0)).wr (Reg.FFW_BIAS z k i) (words.getD (512 + i) 0)
/-- FFW_BUFFER_BULK (R175): the claimant's inactive buffer of a zone, shape words before bias words; the standby forms its CRC. -/
def execFfwBufferBulk (z : Fin 4) (words : List Word) (s : State) : Out := .next <| if !s.isStandby then s else (s.takeBuffer z words).formCrc z

/-- BUFFER_CRC (R175): the standby's CRC of its copy reaches the claimant. -/
def execBufferCrc (z : Fin 4) (crc : Word) (s : State) : Out :=
  .next <| if s.isStandby then s else s.setZoneFf z { s.zoneFf z with partnerCrc := some crc }

/-- Take a write into the queue, of the bits that are the pair's. -/
def State.takeForwarded (s : State) (w : PairWrite) : State := { s with wq := s.wq ++ [{ w with mask := w.mask &&& pairMask w.addr }] }
/-- FORWARDED_WRITE (R301): a pair-register write of the standby is stamped at its reception at the claimant. -/
def execForwardedWrite (w : PairWrite) (s : State) : Out := .next <| if s.isStandby then s else s.takeForwarded w

/-- Is a report whole: its CRC-32 over the first 60 bytes good? -/
def reportOk (words : Vector Word 16) : Bool := crc32 (((List.finRange 16).flatMap fun (i : Fin 16) => beBytes 4 (vget words i).toNat).take 60) == vget words 15
/-- The partner's configuration digest is held. -/
def State.holdConfig (s : State) (d : Word) : State := { s with lks := { s.lks with partnerConfig := some d } }
/-- Hold a report. -/
def State.takeReport (s : State) (words : Vector Word 16) : State :=
  let s := (List.finRange 16).foldl (fun (s : State) (i : Fin 16) => s.wr (Reg.LKS_REPORT_PARTNER i) (vget words i)) s
  (s.put Fd.LKS_HEALTH_partner_items ((vget words 2).toNat / 65536)).holdConfig (vget words 9)
/-- HEALTH_REPORT (R320): a report of the partner with a good CRC is held. -/
def execHealthReport (words : Vector Word 16) (s : State) : Out := .next <| if !reportOk words || s.inReset 2 then s else s.takeReport words

/-- Ask for the static image. -/
def State.askStatic (s : State) : State := { s with lks := { s.lks with staticReq := true } }
/-- PAIR_STATE_DIGEST (R309): a digest unlike the standby's own brings a static resync. -/
def execPairStateDigest (digest : Word) (s : State) : Out :=
  .next <| if s.isStandby && s.flag Fd.LKS_STAT_synced && digest != Config.pairDigest s.pairRegs then s.askStatic else s

/-- BULK_DEADLINE_MISS (R309): an item not complete at its deadline. -/
def execBulkDeadlineMiss (s : State) : Out := .next <| if s.isStandby then s.setFlag Fd.LKS_STAT_synced false else s

/-! ## Self-tests of the standby -/

/-- Do a channel's codes of the sweep differ by more than the tolerance, on the mean? -/
def State.adcOver (s : State) (c : Fin 24) : Bool := decide (s.get Fd.LKS_ADC_TOL_adc_tol * s.lks.adcCnt < (vget s.lks.adcSum c).natAbs)
/-- The sweeps in a row in which a channel differed, and in which it did not, with this one. -/
def State.adcBadNext (s : State) (c : Fin 24) : Nat := if bit (s.get Fd.LPE_SNS_ABSENT_absent) c.val then 0 else if s.adcOver c then vget s.lks.adcBad c + 1 else 0
def State.adcGoodNext (s : State) (c : Fin 24) : Nat := if bit (s.get Fd.LPE_SNS_ABSENT_absent) c.val then 0 else if s.adcOver c then 0 else vget s.lks.adcGood c + 1
/-- Does a channel fail (R317): four sweeps in a row set its bit, and four in a row clear it? -/
def State.adcFails (s : State) (c : Fin 24) : Bool :=
  !bit (s.get Fd.LPE_SNS_ABSENT_absent) c.val && (decide (4 ≤ s.adcBadNext c) || (bit (s.get Fd.LKS_ADC_adc_fail) c.val && decide (s.adcGoodNext c < 4)))
/-- The sweep's counts close. -/
def State.adcClosed (s : State) : State :=
  { s with lks := { s.lks with adcBad := Vector.ofFn s.adcBadNext, adcGood := Vector.ofFn s.adcGoodNext, adcSum := vall 24 0, adcCnt := 0 } }
/-- ADC_CHECK (R317): at a sweep boundary the means of the sweep just ended are judged. -/
def execAdcCheck (s : State) : Out :=
  .next <|
    if !s.sweepStart || s.lks.adcCnt = 0 then s
    else s.adcClosed.put Fd.LKS_ADC_adc_fail ((List.finRange 24).foldl (fun n (c : Fin 24) => n + 2 ^ c.val * b2n (s.adcFails c)) 0)

/-- Skip a core's turn. -/
def State.skipTurn (s : State) (k : Fin 48) : State := { s with lks := { s.lks with testSlow := 0 } }.put Fd.LKS_TEST_next_core ((k.val + 1) % 48)
/-- The test of a core runs from this slow frame. -/
def State.testBegun (s : State) : State := { s with lks := { s.lks with testFrom := some s.slowIdx } }
/-- Test a core. -/
def State.testCore (s : State) (k : Fin 48) : State :=
  ((((s.setFlag Fd.LKS_TEST_running true).setFlag (Fd.ADN_CORE_TEST_test_run k) true).put (Fd.ADN_CORE_STAT_state k) 5).countCores).testBegun
/-- Ask for another core for the virtual core of a bound one, where one can take it. -/
def State.moveAway (s : State) (k : Fin 48) : State :=
  let sl := s.get (Fd.ADN_CORE_STAT_slot k)
  if h : sl < 32 then
    let x := s.slot ⟨sl, h⟩
    let v := s.get (Fd.MDL_SLOT_STAT_variant sl)
    let e := (x.pkg.bind fun p => p.variants[v]?).bind fun b => b.entries[(s.core k).virt]?
    match e.bind fun e => s.replacement x.bank e with
    | some r =>
      let cores := x.cores.filterMap fun c => if c == some k.val then some r else c
      { s with arr := { s.arr with reqs := s.arr.reqs ++ [.bind sl v cores x.bank true] } }
    | none => s.skipTurn k
  else s.skipTurn k
/-- The next core's turn begins: skip it where it is fenced or nothing can take its virtual core, move it away where it is bound, and test it where it
is free (R318). -/
def State.startTurn (s : State) (k : Fin 48) : State :=
  if s.coreState k = 6 then s.skipTurn k
  else if s.coreFree k then s.testCore k
  else if !s.arr.reqs.isEmpty then s
  else s.moveAway k

/-- The core whose turn is next (R318). -/
def State.turnCore (s : State) : Fin 48 := ⟨s.get Fd.LKS_TEST_next_core % 48, Nat.mod_lt _ (by decide)⟩

/-- Have the slow frames since the last turn filled the interval of R318? -/
def State.turnDue (s : State) : Bool := decide (s.testInterval ≤ s.lks.testSlow)

/-- Does a slow-frame boundary run the rotation: once, and with the array out of reset? -/
def State.rotates (s : State) : Bool := s.slowStart && s.lks.rotAt != some s.time.frame && !s.computeDown
/-- The boundary is marked. -/
def State.rotMark (s : State) : State := { s with lks := { s.lks with rotAt := some s.time.frame } }
/-- A test is over, with a result. -/
def State.turnDone (s : State) (r : Nat) : State := { s with lks := { s.lks with testFrom := none, testSlow := 0, lastTestSlow := s.slowIdx, lastResult := r } }
/-- A core that was tested is free again. -/
def State.coreBack (s : State) (k : Fin 48) : State := ((s.setFlag (Fd.ADN_CORE_TEST_test_run k) false).put (Fd.ADN_CORE_STAT_state k) 1).countCores
/-- Show the end of a turn, and whose turn is next. -/
def State.showTurn (s : State) (k : Fin 48) : State :=
  ((s.setFlag Fd.LKS_TEST_running false).put Fd.LKS_TEST_last_core k).put Fd.LKS_TEST_next_core ((k.val + 1) % 48)
/-- The turn of a core ends (R318): a core that did not fail is free again. -/
def State.endTurn (s : State) (k : Fin 48) : State :=
  if s.coreState k == 6 then ((s.setFlag Fd.LKS_TEST_last_fail true).turnDone 2).showTurn k else ((s.coreBack k).turnDone 1).showTurn k
/-- Another slow frame of the interval has passed. -/
def State.turnWait (s : State) : State := { s with lks := { s.lks with testSlow := s.lks.testSlow + 1 } }
/-- Does the module test its cores: a standby that drives its lines, with the tests enabled? -/
def State.testsCores (s : State) : Bool := s.isStandby && s.flag Fd.LKS_CTRL_test_en && s.pins.valid
/-- A slow-frame boundary of the rotation. -/
def State.rotate (s : State) : State :=
  match s.lks.testFrom with
  | some f => if s.slowIdx ≤ f then s else s.endTurn s.turnCore
  | none => if !s.testsCores then s else if s.turnWait.turnDue then s.turnWait.startTurn s.turnCore else s.turnWait
/-- CORE_TEST_ROTATION (R318): at a slow-frame boundary of the standby, once. A test lasts one whole slow frame; the core is free after it. -/
def execCoreTestRotation (s : State) : Out := .next <| if !s.rotates then s else s.rotMark.rotate

/-! ## Joining -/

/-- Can the joining module complete: LOCK trained, aligned, and its phase within the limit? -/
def State.joinReady (s : State) : Bool :=
  s.lks.join == JoinPhase.joining && s.lks.partnerValid && s.lks.lockUp && s.alignOk && s.lks.syncBad == 0
/-- Adopt a time base (R41). -/
def State.adopt (s : State) (time frame : Nat) : State := { s with time := { s.time with frameStart := time % 2 ^ 64, frame := frame % 2 ^ 48 } }
/-- The joining ends: nothing is asked for, and the configuration is the pair's. -/
def State.joinEnds (s : State) : State :=
  { s with lks := { s.lks with join := .none, resyncReq := false, staticReq := false, hRun := false, hReady := false
                               lastTestSlow := s.slowIdx, testSlow := 0 }
           cfg := { s.cfg with gate := false, restored := true, queue := [], step := .done } }
/-- The module has joined: it is synchronised. -/
def State.joined (s : State) : State :=
  ((s.setFlag Fd.LKS_STAT_synced true).bump Fd.LKS_CNT_B_resyncs).put Fd.LKS_STAT_role s.role
/-- JOIN (R41, R324): a joining module whose LOCK link has trained adopts the claimant's time base, with a Note, is aligned, and has taken the static and
the dynamic image. -/
def execJoin (time frame : Nat) (img : PairImage) (s : State) : Out :=
  .next <|
    if !s.joinReady then s
    else ((((s.adopt time frame).record Blk.sns 0x11 0 0).loadStatic img).loadDynamic img).joinEnds.joined.clearSingle

/-- The frames of the pair wait (R325): 200 ms, and 50 ms more in slot B. -/
def State.waitLimit (s : State) : Nat := if s.slotA then 50000 else 62500

/-- The pair wait ends, with the partner's lines to be compared or not. -/
def State.waitEnds (s : State) (pair : Bool) : State := { s with lks := { s.lks with join := .none, startPair := s.lks.startPair || pair } }
/-- PAIR_WAIT_END (R325): LOCK has trained, and the higher claim decides at the first common sample; or the time has passed, and the module
claims alone (R323). -/
def execPairWaitEnd (s : State) : Out :=
  .next <|
    if s.lks.join != JoinPhase.pairWait then s
    else if s.lks.lockUp then s.waitEnds true
    else if s.lks.waitFrames < s.waitLimit then s
    else (s.waitEnds false).becomeSingle

/-- Is the start complete now: PLL0 and PLL2 locked, the firmware running, nothing stopped or halted, power state RUN and no domain in reset? -/
def State.startReady (s : State) : Bool :=
  !s.pwr.startDone && s.flag Fd.CLK_SRC_STAT_pll0_lock && s.flag Fd.CLK_SRC_STAT_pll2_lock && !s.pwr.stopped && s.sec.running
    && s.flt.halt == HaltPhase.none && s.get Fd.CLK_PSTATE_state == 0 && !(List.finRange 4).any (fun d => s.inReset d)
/-- What a complete start begins: joining a valid partner, in PAIR mode the wait for one, else nothing. -/
def State.joinFirst (s : State) : JoinPhase := if s.lks.partnerValid then .joining else if !s.flag Fd.LKS_CTRL_pair_mode then .pairWait else .none
/-- The start is complete. -/
def State.started (s : State) : State :=
  { s with pwr := { s.pwr with startDone := true, attempt := false, cleanFrom := some (s.slowIdx + 1) }
           lks := { s.lks with join := s.joinFirst, waitFrames := 0, hRun := false, hReady := false, lastTestSlow := s.slowIdx } }
/-- STARTUP_COMPLETE (R304, R325): PLL0 and PLL2 run locked to a crystal, and the firmware runs. An attempt ends here, and in PAIR mode the wait for
the partner begins. -/
def execStartupComplete (s : State) : Out := .next <| if !s.startReady then s else s.started

/-! ## Claim history and counts -/

/-- The entries that wait enter the ring of 32. -/
def State.historyTaken (s : State) : State :=
  let l := s.lks.history ++ s.lks.histPending
  { s with lks := { s.lks with history := l.drop (l.length - 32), histPending := [] } }
/-- CLAIM_HISTORY_ENTRY (R327): at a slow-frame boundary without a brown-out warning the entries that wait enter the ring of 32. -/
def execClaimHistoryEntry (s : State) : Out := .next <| if !s.slowStart || s.flag Fd.KPR_SUPPLY_STAT_bow then s else s.historyTaken

/-- CLEAR_COUNTS (R328): the write of clear_counts is stamped here. -/
def execClearCounts (s : State) : Out := .next <| s.enqueue (fieldWrite Fd.LKS_CTRL_clear_counts 1)
/-- A write of clear_counts, as it acts. -/
def State.clearCounts (s : State) : State := (s.wr Reg.LKS_CNT_A 0).wr Reg.LKS_CNT_B 0

end Sys2Proof.Machine
end

