-- ==== Sys2Proof/Machine/Wilros.lean ====
section
/-! DEFINITION. Wilros packets (R362 to R376): a packet's passage through the checks of Table 13-3, its reply, and the replies that wait for a write
or a frame; sessions, the semaphore and version negotiation; and what the ports answer below Wilros (R357, R360). -/

namespace Sys2Proof.Machine

/-! ## Status codes and causes (Tables 13-4 and 13-5) -/

def Status.ok : Nat := 0x00
def Status.busyRetry : Nat := 0x01
def Status.noSemaphore : Nat := 0x02
def Status.deniedRole : Nat := 0x03
def Status.badMac : Nat := 0x04
def Status.badLength : Nat := 0x05
def Status.unknownOpcode : Nat := 0x06
def Status.version : Nat := 0x07
def Status.refusedAdmission : Nat := 0x08
def Status.staleSeq : Nat := 0x09
def Status.refused : Nat := 0x0A
def Status.refusedPackage : Nat := 0x0B
def Status.badAddress : Nat := 0x0C
def Status.noSession : Nat := 0x0D
def Status.halted : Nat := 0x0E

/-- The versions of Table 13-6a. -/
def wilrosVersions : List Nat := [0x24, 0x25, 0x26, 0x30, 0x31]

/-- A row of Table 13-6: opcode, the roles that may use it (0 operator, 1 installer, 2 maker), whether it needs the semaphore, the version that
adds it (Table 13-6a), and whether it is allowed in Halt (R369) and in recovery (R398). -/
structure OpInfo where
  code : Nat
  roles : List Nat
  sem : Bool
  minVer : Nat
  inHalt : Bool
  inRecovery : Bool
  deriving DecidableEq, Repr

/-- An opcode of the first version that no special state allows. -/
def opRow (code : Nat) (roles : List Nat) (sem : Bool) : OpInfo :=
  { code := code, roles := roles, sem := sem, minVer := 0x24, inHalt := decide (code / 256 = 0 ∨ code / 256 = 7), inRecovery := false }

/-! ## Replies -/

/-- The bytes of a payload as a number (R5). -/
def Pkt.num (p : Pkt) (off n : Nat) : Nat := beNat ((p.payload.drop off).take n)

/-- A reply to a packet, in the present frame. -/
def State.replyTo (s : State) (o : OpInfo) (p : Pkt) (status cause : Nat) (data : List Nat) : Reply :=
  { version := p.version, opcode := o.code, tag := p.tag, session := p.session, seq := p.seq, semHeld := false, claimant := false, async := false,
    status := status, cause := cause, frame := s.time.frame % 2 ^ 32, data := data
    tagged := s.mgp.sessions.any fun x => x.port == p.port && x.num == p.session }

/-- Change a session. -/
def State.setSession (s : State) (p : Fin 3) (n : Nat) (f : Sess → Sess) : State :=
  { s with mgp := { s.mgp with sessions := s.mgp.sessions.map fun x => if x.port == p && x.num == n then f x else x } }

/-- Show the slots in use in MGP_PORT_STAT (R375). -/
def State.windowRegs (s : State) : State :=
  s.each 2 fun p s => s.put (Fd.MGP_PORT_STAT_in_window p) (s.mgp.waiting.filter fun w => w.port.val == p).length

/-- A reply with sem_held and claimant as they stand now (R364). -/
def State.markReply (s : State) (port : Fin 3) (r : Reply) : Reply := { r with semHeld := s.holdsSem port r.session, claimant := s.lks.claimant }
/-- A reply leaves on a port. -/
def State.sendNow (s : State) (port : Fin 3) (r : Reply) : State := { s with mgp := { s.mgp with sent := vset s.mgp.sent port (some r) } }
/-- The replies that MGP_PORT_CNT counts (Table 13-10). -/
def State.countReply (s : State) (port : Fin 3) (status : Nat) : State :=
  if port.val < 2 then
    (if status = Status.busyRetry then s.bump (Fd.MGP_PORT_CNT_busy port)
     else if status = Status.badMac then s.bump (Fd.MGP_PORT_CNT_bad_mac port) else s)
  else s
/-- The session keeps its last 16 replies (R367). -/
def State.keepReply (s : State) (port : Fin 3) (r : Reply) : State :=
  s.setSession port r.session fun x => { x with replies := (r :: x.replies).take 16 }
/-- Send a reply (R363, R364). `hold` says that the session keeps it (R367). The packet with the highest sequence ends its session (R366). -/
def State.send (s : State) (port : Fin 3) (r : Reply) (hold : Bool) : State :=
  let r := s.markReply port r
  let s := (s.sendNow port r).countReply port r.status
  let s := if hold then s.keepReply port r else s
  if hold && r.seq = 0xFFFFFFFF then s.endSession port r.session else s

/-- Answer a packet with an early status, outside its session's held replies. -/
def State.early (s : State) (o : OpInfo) (p : Pkt) (status : Nat) : State := s.send p.port (s.replyTo o p status 0 []) false

/-- The audit entry of a packet, byte 15 and detail (Table 14-6). -/
def packetAudit (role port : Nat) (payload : List Nat) : Nat × List Nat := (auditWho role port 0, (Config.sha3 payload).take 8)

/-- Answer a packet now. A packet with a W opcode that has reached step 13 enters the audit log before its reply (R405, R408). -/
def State.answer (s : State) (o : OpInfo) (p : Pkt) (x : Sess) (status cause : Nat) (data : List Nat) : State :=
  let s := if o.sem then
      let a := packetAudit x.role p.port p.payload
      s.audit 1 a.1 p.session o.code status a.2
    else s
  s.send p.port (s.replyTo o p status cause data) true

/-- Answer OK with data. -/
def State.okWith (s : State) (o : OpInfo) (p : Pkt) (x : Sess) (data : List Nat) : State := s.answer o p x Status.ok 0 data

/-- Answer OK with async set (R365). -/
def State.okAsync (s : State) (o : OpInfo) (p : Pkt) (x : Sess) : State :=
  let s := if o.sem then
      let a := packetAudit x.role p.port p.payload
      s.audit 1 a.1 p.session o.code Status.ok a.2
    else s
  s.send p.port { s.replyTo o p Status.ok 0 [] with async := true } true

/-- Hold a reply until its packet has taken effect. -/
def State.later (s : State) (o : OpInfo) (p : Pkt) (x : Sess) (when' : ReplyWhen) (check : ReplyCheck) (data : List Nat) : State :=
  let w : WaitRt := { port := p.port, pkt := s.mgp.packets, when' := when', check := check, reply := s.replyTo o p Status.ok 0 data
                      audit := if o.sem then some (packetAudit x.role p.port p.payload) else none }
  { s with mgp := { s.mgp with waiting := s.mgp.waiting ++ [w] } }.windowRegs

/-- The status and cause of a reply whose time has come. -/
def State.outcome (s : State) : ReplyCheck → Nat → Nat × Nat
  | .plain, _ => (Status.ok, 0)
  | .duty i d, _ => if bit (s.get (Fd.ZFB_STR_allowed i)) d then (Status.ok, 0) else (Status.refused, 7)
  | .batch, f =>
    if s.batchOf.isEmpty || (s.zfb.batchOn && s.zfb.batchFrame == f) then (Status.ok, 0)
    else (Status.refused, s.get Fd.ZFB_COMB_STAT_refuse_cause)
  | .entry i v, _ =>
    if s.admitted i && s.get (Fd.MDL_SLOT_STAT_variant i) == v then (Status.ok, 0) else (Status.refusedAdmission, s.get Fd.MDL_REFUSE_cause)
  | .evict i, _ => if s.admitted i then (Status.refusedAdmission, s.get Fd.MDL_REFUSE_cause) else (Status.ok, 0)

/-- Release a reply that waited; `f` is the frame in which its command took effect. -/
def State.release (s : State) (w : WaitRt) (f : Nat) : State :=
  let c := s.outcome w.check f
  let s := match w.audit with
    | some a => s.audit 1 a.1 w.reply.session w.reply.opcode c.1 a.2
    | none => s
  (s.send w.port { w.reply with status := c.1, cause := c.2, frame := f % 2 ^ 32 } true).windowRegs

/-- A write of packet `pkt` has taken effect in the present frame: its reply leaves with the last of them, or waits for the end of frame 0 of its
batch. -/
def State.wrote (s : State) (pkt : Nat) : State :=
  if pkt = 0 then s else
  let step (w : WaitRt) : WaitRt := match w.when' with
    | .written n => if w.pkt == pkt then (if w.check == ReplyCheck.batch && decide (n ≤ 1) then { w with when' := .frameEnd s.time.frame } else
        { w with when' := .written (n - 1) }) else w
    | _ => w
  let ws := s.mgp.waiting.map step
  let out (w : WaitRt) : Bool := w.when' == ReplyWhen.written 0
  let s := { s with mgp := { s.mgp with waiting := ws.filter fun w => !out w } }
  (ws.filter out).foldl (fun (s : State) w => s.release w s.time.frame) s

/-- The replies that leave at a frame's start: those of a batch whose frame 0 has passed, and those of requests carried out at a frame 252. -/
def State.replyTick (s : State) : State :=
  let held (i : Nat) : Bool := s.arr.reqs.any fun r => match r with
    | .bind n _ _ _ _ => n == i
    | .evict n => n == i
  let out (w : WaitRt) : Bool := match w.when' with
    | .frameEnd f => decide (f < s.time.frame)
    | .commit => (match w.check with
      | .entry i _ => !held i
      | .evict i => !held i
      | _ => true)
    | .written _ => false
  let ws := s.mgp.waiting
  let s := { s with mgp := { s.mgp with waiting := ws.filter fun w => !out w } }
  (ws.filter out).foldl (fun (s : State) w => s.release w (s.time.frame - 1)) s

/-! ## The checks of Table 13-3 -/

/-- Does a port take packets: it is not fenced (R438), the console is in framing (R360), and the LINKS domain runs? -/
def State.portUp (s : State) (p : Fin 3) : Bool :=
  decide (vget s.flt.portFence p ≤ 1) && !(p == 2 && s.mgp.consoleSkip) && !s.inReset 2 && !s.pwr.stopped

/-- Does the supervisor execute packets (step 6)? -/
def State.executing (s : State) : Bool :=
  !s.computeDown && (s.sec.running || s.flag Fd.SEC_BOOT_recovery) && s.flt.halt != HaltPhase.dead && s.flt.halt != HaltPhase.starting

/-- The receive window of a port (R375); the console's is 2. -/
def State.window (s : State) (p : Fin 3) : Nat := if p.val < 2 then s.get (Fd.MGP_PORT_CFG_window p) else 2

/-- Renew a session and its lease (R368). -/
def State.renew (s : State) (p : Fin 3) (n : Nat) : State :=
  let s := s.setSession p n fun x => { x with last := s.now }
  match s.mgp.sem with
  | some h => if h.1 == p && h.2.1 == n then (s.setSem (some (p, n, s.now))).semRegs else s
  | none => s

/-- Count a failed authentication (R395, R405). -/
def State.authFailed (s : State) (p : Fin 3) : State :=
  { s with sec := { s.sec with fails := vmod s.sec.fails p (· + 1) } }.bump Fd.SEC_AUTH_CNT_failed

/-- Is a sequence that is not yet accepted within the window (R367)? -/
def Sess.accepts (x : Sess) (n : Nat) : Bool :=
  decide (1 ≤ n ∧ n ≤ 0xFFFFFFFF) && (decide (x.high < n) || (decide (x.high ≤ n + 63) && !x.accepted.contains n))

/-- Accept a sequence. -/
def Sess.accept (x : Sess) (n : Nat) : Sess :=
  let h := max x.high n
  { x with high := h, accepted := n :: x.accepted.filter fun m => decide (h ≤ m + 63) }

/-- A lease that has run out frees the semaphore (R372). -/
def State.leaseCheck (s : State) : State :=
  match s.mgp.sem with
  | some h => if h.2.2 + secCycles (s.get Fd.MGP_CTRL_lease) ≤ s.now then (match execLeaseExpiry s with
    | .next t => t
    | _ => s) else s
  | none => s

/-- What has expired by the present instant (R57, R366, R372): sessions without a packet for session_idle, and the lease. -/
def State.expiries (s : State) : State :=
  (s.endSessions fun x => decide (x.last + secCycles (s.get Fd.MGP_CTRL_session_idle) ≤ s.now)).leaseCheck

/-- A packet arrives: the instant of its reception, and what has expired by then. -/
def State.arrive (s : State) (p : Pkt) : State := (s.atCycle p.cyc).expiries
/-- The open session that a packet names (R366). -/
def State.sessionOf (s : State) (p : Pkt) : Option Sess := s.mgp.sessions.find? fun x => x.port == p.port && x.num == p.session
/-- A packet is numbered, and its sequence accepted (R367). -/
def State.counted (s : State) (p : Pkt) : State :=
  { s with mgp := { s.mgp with packets := s.mgp.packets + 1 } }.setSession p.port p.session fun x => x.accept p.seq
/-- The state in which a packet that has passed the checks is carried out: its session is renewed, and its sequence accepted. -/
def State.taken (s : State) (p : Pkt) : State := ((s.arrive p).renew p.port p.session).counted p

/-- The passage of a packet of an open session through Table 13-3. `busy` is a further cause of BUSY_RETRY, `denied` what step 9 checks beside the
role, `bad` the status of step 12, and `run` the execution, which answers. -/
def State.request (s : State) (o : OpInfo) (p : Pkt) (busy : State → Bool) (denied : State → Sess → Bool) (bad : State → Option Nat)
    (run : State → Sess → State) : State :=
  if p.notPacket || !s.portUp p.port then s else
  let s := s.arrive p
  if !p.lenOk then s.early o p Status.badLength else
  match s.sessionOf p with
  | none => s.early o p Status.noSession
  | some x =>
    if p.session = 0 then s.early o p Status.noSession
    else if p.version ≠ x.version then s.early o p Status.version
    else if !p.macOk then (s.authFailed p.port).early o p Status.badMac
    else
      let s := s.renew p.port p.session
      if !x.accepts p.seq then
        (match x.replies.find? fun r => r.seq == p.seq with
         | some r => s.send p.port r false
         | none => s.early o p Status.staleSeq)
      else if !s.executing then s.early o p Status.busyRetry
      else if s.window p.port ≤ (s.mgp.waiting.filter fun w => w.port == p.port).length then s.early o p Status.busyRetry
      else if (o.sem && decide (128 ≤ s.sec.staged.length)) || busy s then s.early o p Status.busyRetry
      else
        let s := s.counted p
        let ans (st : Nat) : State := s.send p.port (s.replyTo o p st 0 []) true
        if x.version < o.minVer then ans Status.unknownOpcode
        else if !o.roles.contains x.role || denied s x then ans Status.deniedRole
        else if s.flt.halt != HaltPhase.none && !o.inHalt then ans Status.halted
        else if s.flag Fd.SEC_BOOT_recovery && !o.inRecovery then
          -- R398 gives no status for an opcode that recovery does not execute: a free value
          (s.send p.port (s.replyTo o p ((Config.freeWord s.free).toNat % 256) 0 []) true).draw
        else if o.sem && !s.holdsSem p.port p.session && !s.flag Fd.SEC_BOOT_recovery then ans Status.noSemaphore
        else match bad s with
          | some st => ans st
          | none => run s x

/-- A payload of a fixed length, or BAD_LENGTH. -/
def Pkt.len (p : Pkt) (n : Nat) : Option Nat := if p.payload.length = n then none else some Status.badLength
/-- A payload of a fixed length that also meets a condition, or BAD_LENGTH. -/
def Pkt.lenAnd (p : Pkt) (n : Nat) (c : Bool) : Option Nat := if p.payload.length = n && c then none else some Status.badLength
def never (_ : State) : Bool := false
def always (_ : State) (_ : Sess) : Bool := false

/-- A write of a packet: address, mask and value, with the packet's session, role, port and number. -/
def State.packetWrite (s : State) (p : Pkt) (x : Sess) (w : Nat × Word × Word) : PairWrite :=
  { addr := w.1, mask := w.2.1, val := w.2.2, role := x.role, port := p.port, session := p.session, pkt := s.mgp.packets, slot := 0 }
/-- Stamp writes in their order. -/
def State.enqueueAll (s : State) (ws : List PairWrite) : State := ws.foldl State.enqueue s
/-- Queue the writes of a packet, all with its stamp, and hold the reply until the last has taken effect (R365, R381). -/
def State.queueWrites (s : State) (o : OpInfo) (p : Pkt) (x : Sess) (ws : List (Nat × Word × Word)) (check : ReplyCheck) (data : List Nat) : State :=
  let before := s.wq.length + s.lks.fwd.length
  let s := s.enqueueAll (ws.map (s.packetWrite p x))
  let n := s.wq.length + s.lks.fwd.length - before
  if n = 0 then s.okWith o p x data else s.later o p x (.written n) check data

/-- The write of a field, as a packet makes it. -/
def fieldOf (f : Fld) (v : Nat) : Nat × Word × Word := (f.addr, putBits 0 f.lo f.len (2 ^ f.len - 1), putBits 0 f.lo f.len v)

/-! ## Group 0x00: sessions and the semaphore -/

def oim : List Nat := [0, 1, 2]

/-- The firmware of the nonce: 32 bytes that the manual leaves to the module, drawn as eight free words. -/
def nonceBytes (n : Nat) : List Nat := (List.range 8).flatMap fun i => beBytes 4 (Config.freeWord (n + i)).toNat

/-- Its row of Table 13-6. -/
def helloOp : OpInfo := { opRow 0x0001 oim false with inRecovery := true }

/-- A nonce is drawn for a port, to be used within 10 s (R393). -/
def State.offerNonce (s : State) (p : Pkt) (v : Nat) : State :=
  { s with free := s.free + 8, mgp := { s.mgp with nonces := vset s.mgp.nonces p.port (some ⟨nonceBytes s.free, s.now, v⟩) } }
/-- What HELLO does (R377): the highest version within both ranges, the module's data, and a nonce for SESSION_OPEN on this port. The reply
carries the chosen version. -/
def State.hello (s : State) (p : Pkt) : State :=
  let hold := p.session != 0
  match (wilrosVersions.filter fun v => decide (p.num 0 1 ≤ v ∧ v ≤ p.num 1 1)).getLast? with
  | none => s.send p.port (s.replyTo helloOp p Status.version 0 [0x24, 0x31]) hold
  | some v =>
    let nonce := nonceBytes s.free
    let s := s.offerNonce p v
    let data := [v, 0x24, 0x31, 0, s.get Fd.LKS_STAT_slot_id * 4 + s.get Fd.LKS_STAT_role, s.window p.port, s.get Fd.MGP_CTRL_lease, 0]
      ++ nonce ++ beBytes 4 s.baseline
    s.send p.port { s.replyTo helloOp p Status.ok 0 data with version := v } hold

/-- The passage of a packet with session 0 through Table 13-3 (R362, R369). -/
def State.unsession (s : State) (o : OpInfo) (p : Pkt) (versionOk : State → Bool) (len : Nat) (run : State → State) : State :=
  if p.notPacket || !s.portUp p.port then s else
  let s := s.arrive p
  if !p.lenOk then s.early o p Status.badLength
  else if !versionOk s then s.early o p Status.version
  else if !s.executing then s.early o p Status.busyRetry
  else if s.window p.port ≤ (s.mgp.waiting.filter fun w => w.port == p.port).length then s.early o p Status.busyRetry
  else if p.payload.length ≠ len then s.early o p Status.badLength
  else run s

/-- HELLO (R377). It may carry any version; one that names an open session passes that session's checks first. -/
def execHello (p : Pkt) (s : State) : Out :=
  .next <|
    if p.session = 0 then s.unsession helloOp p (fun _ => true) 4 fun s => s.hello p
    else
      let v := match s.sessionOf p with
        | some x => x.version
        | none => p.version
      s.request helloOp { p with version := v } never always (fun _ => p.len 4) fun s _ => s.hello p

/-- Its row of Table 13-6. -/
def sessionCloseOp : OpInfo := { opRow 0x0003 oim false with inRecovery := true }
/-- What SESSION_CLOSE does once its packet has passed Table 13-3. -/
def State.sessionCloseRun (s : State) (p : Pkt) (x : Sess) : State := (s.okWith sessionCloseOp p x []).endSession p.port p.session
/-- SESSION_CLOSE (R366): the session ends after its reply. -/
def execSessionClose (p : Pkt) (s : State) : Out :=
  .next <| s.request sessionCloseOp p never always (fun _ => p.len 0) fun s x => s.sessionCloseRun p x

/-- Its row of Table 13-6. -/
def keepaliveOp : OpInfo := opRow 0x0004 oim false
/-- KEEPALIVE (R368): the renewal is that of every packet. -/
def execKeepalive (p : Pkt) (s : State) : Out :=
  .next <| s.request keepaliveOp p never always (fun _ => p.len 0) fun s x => s.okWith keepaliveOp p x []

/-- The holder of the semaphore, as SEM_ACQUIRE gives it: port, a zero byte, and the remaining lease in ms. -/
def State.semData (s : State) : List Nat :=
  match s.mgp.sem with
  | some h => [h.1.val, 0] ++ beBytes 2 ((h.2.2 + secCycles (s.get Fd.MGP_CTRL_lease) - s.now) / 250000)
  | none => [3, 0, 0, 0]

/-- A packet's session holds the semaphore from now on. -/
def State.holdSem (s : State) (p : Pkt) : State := (s.setSem (some (p.port, p.session, s.now))).semRegs
/-- The former holder, as SEM_SEIZE gives it. -/
def State.semFormer (s : State) : List Nat :=
  match s.mgp.sem with
  | some h => h.1.val :: beBytes 4 h.2.1 ++ [0, 0, 0]
  | none => [3, 0, 0, 0, 0, 0, 0, 0]

/-- Its row of Table 13-6. -/
def semAcquireOp : OpInfo := opRow 0x0010 oim false
/-- What SEM_ACQUIRE does once its packet has passed Table 13-3. -/
def State.semAcquireRun (s : State) (p : Pkt) (x : Sess) : State :=
  if s.mgp.sem.isNone || s.holdsSem p.port p.session then
    let s := s.holdSem p
    let s := s.audit 5 (auditWho x.role p.port 0) p.session 0x0010 0 []
    s.okWith semAcquireOp p x s.semData
  else s.answer semAcquireOp p x Status.noSemaphore 0 s.semData
/-- SEM_ACQUIRE (R371): the semaphore is taken where it is free or already held by the session. -/
def execSemAcquire (p : Pkt) (s : State) : Out :=
  .next <| s.request semAcquireOp p never always (fun _ => p.len 0) fun s x => s.semAcquireRun p x

/-- Its row of Table 13-6. -/
def semReleaseOp : OpInfo := opRow 0x0011 oim false
/-- What SEM_RELEASE does once its packet has passed Table 13-3. -/
def State.semReleaseRun (s : State) (p : Pkt) (x : Sess) : State :=
  if s.holdsSem p.port p.session then
    (s.semFree.audit 5 (auditWho x.role p.port 0) p.session 0x0011 0 []).okWith semReleaseOp p x []
  else if s.mgp.sem.isNone then s.okWith semReleaseOp p x []
  else s.answer semReleaseOp p x Status.noSemaphore 0 []
/-- SEM_RELEASE (R371): the semaphore is freed where the session holds it. Held by another session it blocks the request (Table 13-4). -/
def execSemRelease (p : Pkt) (s : State) : Out :=
  .next <| s.request semReleaseOp p never always (fun _ => p.len 0) fun s x => s.semReleaseRun p x

/-- Its row of Table 13-6. -/
def semSeizeOp : OpInfo := { opRow 0x0012 [1] false with minVer := 0x30 }
/-- What SEM_SEIZE does once its packet has passed Table 13-3. -/
def State.semSeizeRun (s : State) (p : Pkt) (x : Sess) : State :=
  let former := s.semFormer
  let seized := s.mgp.sem.isSome && !s.holdsSem p.port p.session
  let s := s.holdSem p
  let s := if seized then (s.bump Fd.MGP_SEM_CNT_seized).record Blk.mgp 0x11 0 (0xC00 + p.port) else s
  (s.audit 5 (auditWho x.role p.port 0) p.session 0x0012 0 []).okWith semSeizeOp p x former
/-- SEM_SEIZE (R371): an installer session takes the semaphore from any holder, with a Note. -/
def execSemSeize (p : Pkt) (s : State) : Out :=
  .next <| s.request semSeizeOp p never always (fun _ => p.len 0) fun s x => s.semSeizeRun p x

/-! ## Below Wilros (R357, R358, R360) -/

/-- Does a frame with a VLAN identifier (0: untagged) belong to a port? -/
def State.vlanOk (s : State) (p : Fin 2) (vlan : Nat) : Bool :=
  s.get (Fd.MGP_PORT_CTRL_vlan p) == vlan && s.portUp ⟨p.val, by omega⟩ && s.flag (Fd.MGP_PORT_STAT_link p)
/-- The IPv6 address of a port. -/
def State.ip6 (s : State) (p : Nat) : Nat := (List.range 4).foldl (fun n i => n * 2 ^ 32 + s.get (Fd.MGP_IP6_addr p i)) 0
/-- Is an IPv6 address one of the port's: the one set, or its link-local address? -/
def State.ownIp6 (s : State) (p : Fin 2) (ip : Nat) : Bool := (s.ip6 p != 0 && s.ip6 p == ip) || Config.linkLocal p == ip
def State.netSend (s : State) (p : Fin 2) (r : NetReply) : State := { s with mgp := { s.mgp with net := vset s.mgp.net p (some r) } }

/-- ARP_REQUEST (R357): a request for the port's IPv4 address is answered. -/
def execArpRequest (p : Fin 2) (vlan ip : Nat) (s : State) : Out :=
  .next <| if s.vlanOk p vlan && ip != 0 && s.get (Fd.MGP_IP4_addr p) == ip then s.netSend p (.arp ip) else s

/-- NEIGHBOUR_DISCOVERY (R357): a solicitation of one of the port's IPv6 addresses is answered. -/
def execNeighbourDiscovery (p : Fin 2) (vlan ip : Nat) (s : State) : Out :=
  .next <| if s.vlanOk p vlan && s.ownIp6 p ip then s.netSend p (.neighbour ip) else s

/-- ICMP_ECHO (R357): an echo request to one of the port's addresses is answered with its data. -/
def execIcmpEcho (p : Fin 2) (vlan : Nat) (v6 : Bool) (ip : Nat) (data : List Nat) (s : State) : Out :=
  .next <|
    let own := if v6 then s.ownIp6 p ip else ip != 0 && s.get (Fd.MGP_IP4_addr p) == ip
    if s.vlanOk p vlan && own then s.netSend p (.echo v6 data) else s

/-- REASSEMBLY_TIMEOUT (R358): the fragments are discarded. A datagram enters the model whole, with its packet's command, so nothing else changes. -/
def execReassemblyTimeout (s : State) : Out := .next s

/-- CONSOLE_FRAMING_ERROR (R360): what has come since the length is discarded, and so is every byte until the line rests. -/
def execConsoleFramingError (s : State) : Out := .next { s with mgp := { s.mgp with consoleSkip := true } }
/-- CONSOLE_FRAMING_REGAINED (R360): 10 ms without a byte; the next byte starts a length. -/
def execConsoleFramingRegained (s : State) : Out := .next { s with mgp := { s.mgp with consoleSkip := false } }

end Sys2Proof.Machine
end

