-- ==== Sys2Proof/Machine/Trust.lean ====
section
/-! DEFINITION. Roles, audit and trust (chapter 14): opening a session (R393 to R397), keys (R389 to R392), boot, firmware and its trial (R398 to
R402), the check of a package (R227, R403), attestation (R404), and the audit log (R405 to R410). -/

namespace Sys2Proof.Machine

/-- The bytes of an ASCII string. -/
def ascii (x : String) : List Nat := x.toList.map fun c => c.toNat

/-! ## Keys (R389 to R392) -/

/-- The identifier of a public key. -/
def keyIdOf (pub : List Nat) : List Nat := (Config.sha3 pub).take 8

/-- The key of a slot. -/
def State.keyAt (s : State) (k : Nat) : Option KeyRec := if h : k < 21 then vget s.sec.keys ⟨k, h⟩ else none
/-- The slots of a list that hold a key with an identifier. -/
def State.keySlot (s : State) (slots : List Nat) (id : List Nat) : Option Nat :=
  slots.find? fun k => match s.keyAt k with
    | some r => r.id == id
    | none => false

/-- Change a slot, and show it in SEC_KEYS. -/
def State.setKey (s : State) (k : Nat) (r : Option KeyRec) : State :=
  if h : k < 21 then
    let s := { s with sec := { s.sec with keys := vset s.sec.keys ⟨k, h⟩ r } }
    s.put Fd.SEC_KEYS_present ((List.range 20).foldl (fun n i => n + (if (s.keyAt (i + 1)).isSome then 2 ^ i else 0)) 0)
  else s

/-- A key change waits no longer. -/
def State.dropKeyWait (s : State) (pkt : Nat) : State := { s with sec := { s.sec with keyWaits := s.sec.keyWaits.filter fun v => v.1 != pkt } }
/-- A key change takes effect (R391): the sessions opened with the former key end. -/
def State.applyKey (s : State) (pkt : Nat) : State :=
  match s.sec.keyWaits.find? fun w => w.1 == pkt with
  | none => s
  | some w =>
    let old := s.keyAt w.2.1
    let s := (s.dropKeyWait pkt).setKey w.2.1 w.2.2
    match old with
    | some r => s.endSessions fun x => x.slot == w.2.1 && x.keyId == r.id
    | none => s

/-- May a role load or clear a slot (Tables 14-1 and 14-2)? Slots 1 and 2 are the maker's; 3 and 4 are loaded by the installer and cleared by the
maker; 5 to 20 are the installer's. -/
def mayKey (role slot : Nat) (clear : Bool) : Bool :=
  if slot = 0 then false
  else if slot ≤ 2 then role == 2
  else if slot ≤ 4 then (if clear then role == 2 else role == 1)
  else role == 1

/-- Its row of Table 13-6. -/
def keyOp : OpInfo := opRow 0x0905 [1, 2] true
/-- The key that a packet loads, with its identifier. -/
def Pkt.key (p : Pkt) : KeyRec := ⟨(p.payload.drop 4).take 1312, keyIdOf ((p.payload.drop 4).take 1312)⟩
/-- A change of a key waits for its packet's write (R391). -/
def State.waitKey (s : State) (slot : Nat) (r : Option KeyRec) : State :=
  { s with sec := { s.sec with keyWaits := s.sec.keyWaits ++ [(s.mgp.packets, slot, r)] } }
/-- What KEY_LOAD does once its packet has passed Table 13-3. -/
def State.keyRun (s : State) (p : Pkt) (x : Sess) (op : Nat) (rootOk : Bool) : State :=
  let slot := p.num 1 1
  if slot ≤ 2 && !rootOk then s.answer keyOp p x Status.deniedRole 0 []
  else
    let r : Option KeyRec := if op = 0 then some p.key else none
    let id := match r, s.keyAt slot with
      | some k, _ => k.id
      | none, some k => k.id
      | none, none => []
    let s := s.audit 7 (auditWho x.role p.port 0) p.session 0x0905 0 id
    (s.waitKey slot r).queueWrites keyOp p x [(actOwn + 0x1000, 0xFFFFFFFF, BitVec.ofNat 32 slot)] .plain []
/-- Step 9 of KEY_LOAD: may the session's role load or clear the slot? -/
def Pkt.keyDenied (p : Pkt) (op : Nat) (x : Sess) : Bool :=
  decide (p.num 1 1 ≤ 20) && decide (p.payload.length = 3736) && !mayKey x.role (p.num 1 1) (op == 1)
/-- Step 12 of KEY_LOAD. -/
def Pkt.keyBad (p : Pkt) (op : Nat) : Option Nat := p.lenAnd 3736 (decide (p.num 1 1 ≤ 20) && p.num 0 1 == op)
/-- KEY_LOAD (R390): the row's operation is `op`. The change waits for the frame boundary (R391). -/
def State.keyCommand (s : State) (p : Pkt) (op : Nat) (rootOk : Bool) : State :=
  s.request keyOp p never (fun _ x => p.keyDenied op x) (fun _ => p.keyBad op) fun s x => s.keyRun p x op rootOk

/-- KEY_LOAD (R390, R391). `rootOk`: the root signature verifies. -/
def execKeyLoad (p : Pkt) (rootOk : Bool) (s : State) : Out := .next <| s.keyCommand p 0 rootOk
/-- KEY_CLEAR (R390, R391): KEY_LOAD with operation clear. -/
def execKeyClear (p : Pkt) (rootOk : Bool) (s : State) : Out := .next <| s.keyCommand p 1 rootOk

/-! ## Opening a session (R392 to R397) -/

/-- Its row of Table 13-6. -/
def openOp : OpInfo := { opRow 0x0002 oim false with inRecovery := true }

/-- The slots that hold the keys of a role (Table 14-2). -/
def roleSlots (role : Nat) : List Nat :=
  match role with
  | 0 => [5, 6, 7, 8, 9, 10, 11, 12]
  | 1 => [3, 4]
  | 2 => [1, 2]
  | _ => []

/-- May a role open a session on a port (Table 14-1, R387, R398)? -/
def State.mayOpen (s : State) (role : Nat) (p : Fin 3) : Bool :=
  (match role with
   | 0 => decide (p.val < 2)
   | 1 => true
   | 2 => p == 2 && !((s.portSessions p).any fun x => x.role == 2)
   | _ => false)
  && (!s.flag Fd.SEC_BOOT_recovery || (p == 2 && role != 0))

/-- A free session number: a free word, or the smallest number in its place where that word is 0 or in use. -/
def State.sessionNumber (s : State) : Nat :=
  let used (n : Nat) : Bool := s.mgp.sessions.any fun x => x.num == n
  let n := (Config.freeWord s.free).toNat
  if n != 0 && !used n then n
  else ((List.range (s.mgp.sessions.length + 1)).find? fun k => !used (k + 1)).getD 0 + 1

/-- T_c (R393). -/
def challenge (p : Pkt) : List Nat := Config.sha3 (ascii "WILROS OPEN C" ++ p.payload.take 2572)

/-- The run of failed attempts on a port. -/
def State.setFailRun (s : State) (p : Fin 3) (n : Nat) : State := { s with mgp := { s.mgp with failRun := vset s.mgp.failRun p n } }
/-- A port takes no attempt until a time. -/
def State.closePort (s : State) (p : Fin 3) (t : Nat) : State := { s with mgp := { s.mgp with closedTo := vset s.mgp.closedTo p t } }
/-- A refused attempt (R394, R395): the 16th in a row closes the port to attempts for 60 s. -/
def State.openFails (s : State) (p : Pkt) : State :=
  let n := vget s.mgp.failRun p.port + 1
  let s := s.authFailed p.port
  let s := if n < 16 then s.setFailRun p.port n else (s.setFailRun p.port 0).closePort p.port (s.now + secCycles 60)
  s.early openOp p Status.deniedRole

/-- A session as it is opened (R366, R367). -/
def State.newSession (s : State) (p : Pkt) (role slot : Nat) (id : List Nat) : Sess :=
  { num := s.sessionNumber, port := p.port, role := role, version := p.version, slot := slot, keyId := id, last := s.now, high := 0, accepted := [],
    replies := [], nonce := [], record := [], recordAt := 0, signing := false }
/-- A session joins the open ones; its number has used a free word, and its port's run of failed attempts ends. -/
def State.addSession (s : State) (p : Pkt) (x : Sess) : State :=
  ({ s with mgp := { s.mgp with sessions := s.mgp.sessions ++ [x] } }.setFailRun p.port 0).draw
/-- The data of SESSION_OPEN's reply (R396): the session's number and role, the encapsulation, and the device certificate; then its signature over T_m. -/
def State.openData (s : State) (p : Pkt) (role : Nat) : List Nat :=
  beBytes 4 s.sessionNumber ++ [role, 0, 0, 0] ++ Config.encapsulate s.free ((p.payload.drop 76).take 1184) ++ Config.certificate
def State.openSig (s : State) (p : Pkt) (role : Nat) : List Nat :=
  Config.sign s.free (Config.sha3 (ascii "WILROS OPEN M" ++ challenge p ++ s.openData p role))
/-- Open the session (R396). -/
def State.openSession (s : State) (p : Pkt) (role slot : Nat) (id : List Nat) : State :=
  let data := s.openData p role ++ s.openSig p role
  let num := s.sessionNumber
  let s := ((s.addSession p (s.newSession p role slot id)).bump Fd.SEC_AUTH_CNT_opened).sessionRegs
  let s := s.audit 2 (auditWho role p.port 0) num 0x0002 0 id
  s.send p.port (s.replyTo openOp p Status.ok 0 data) false

/-- Has a port as many sessions as it may have (R393)? -/
def State.portFull (s : State) (p : Fin 3) : Bool := decide ((if p.val < 2 then 4 else 1) ≤ (s.portSessions p).length)

/-- What SESSION_OPEN's packet asks for: its role, and the key it names or enrols (R397), as slot and identifier. -/
def State.openKey (s : State) (p : Pkt) : Option (Nat × List Nat) :=
  let pub := (p.payload.drop 1260).take 1312
  if bit (p.num 1 1) 0 then
    (if p.num 0 1 == 1 && p.port == 2 && (s.keyAt 3).isNone && (s.keyAt 4).isNone then some (3, keyIdOf pub) else none)
  else (s.keySlot (roleSlots (p.num 0 1)) ((p.payload.drop 4).take 8)).map fun k => (k, (p.payload.drop 4).take 8)
/-- Is the packet's nonce the one this port was given, within 10 s (R393)? -/
def State.nonceFresh (s : State) (p : Pkt) : Bool :=
  match vget s.mgp.nonces p.port with
  | some n => n.bytes == (p.payload.drop 12).take 32 && decide (s.now < n.time + secCycles 10)
  | none => false
/-- A nonce is used once. -/
def State.useNonce (s : State) (p : Pkt) : State := { s with mgp := { s.mgp with nonces := vset s.mgp.nonces p.port none } }
/-- The first installer key enters slot 3 with its session (R397). -/
def State.enrolKey (s : State) (p : Pkt) (id : List Nat) : State :=
  (s.setKey 3 (some ⟨(p.payload.drop 1260).take 1312, id⟩)).audit 7 (auditWho 1 p.port 0) 0 0x0002 0 id
/-- What SESSION_OPEN does once its packet has passed the checks for session 0. -/
def State.openRun (s : State) (p : Pkt) (sigOk : Bool) : State :=
  if s.now < vget s.mgp.closedTo p.port then s.early openOp p Status.deniedRole else
  let fresh := s.nonceFresh p
  let s := s.useNonce p
  match s.openKey p with
  | none => s.openFails p
  | some k =>
    if !fresh || !sigOk || !s.mayOpen (p.num 0 1) p.port then s.openFails p
    else if s.portFull p.port then s.send p.port (s.replyTo openOp p Status.refused 0x20 []) false
    else (if bit (p.num 1 1) 0 then s.enrolKey p k.2 else s).openSession p (p.num 0 1) k.1 k.2
/-- The version that SESSION_OPEN must carry: the one that HELLO chose on its port. -/
def State.openVersion (s : State) (p : Pkt) : Bool :=
  match vget s.mgp.nonces p.port with
  | some n => n.version == p.version
  | none => wilrosVersions.contains p.version

/-- SESSION_OPEN (R392 to R397). `sigOk`: the signature over T_c verifies with the key that key_id names, or with enrol = 1 with the payload's own. A
packet with another session number passes that session's checks and is refused there, since it opens under session 0 alone (R362). -/
def execSessionOpen (p : Pkt) (sigOk : Bool) (s : State) : Out :=
  .next <|
    if p.session ≠ 0 then s.request openOp p never always (fun _ => some Status.badLength) fun s _ => s else
    s.unsession openOp p (fun s => s.openVersion p) 4992 fun s => s.openRun p sigOk

/-! ## Boot and firmware (R398 to R402) -/

/-- Firmware entries carry no role and no port, and the new baseline and rollback value. -/
def State.auditFw (s : State) (baseline rollback : Nat) : State := s.audit 6 (auditWho 3 3 0) 0 0 0 (beBytes 4 baseline ++ [rollback])

def State.bank (s : State) (b : Fin 2) : FwBank := vget s.sec.banks b
def State.setBank (s : State) (b : Fin 2) (x : FwBank) : State :=
  let s := { s with sec := { s.sec with banks := vset s.sec.banks b x } }
  let shown (b : Fin 2) : Nat := if (vget s.sec.banks b).valid then (vget s.sec.banks b).baseline else 0
  (s.put Fd.SEC_FW_A_baseline (shown 0)).put Fd.SEC_FW_B_baseline (shown 1)
/-- The running bank, and the other one. -/
def State.runBank (s : State) : Fin 2 := if s.flag Fd.SEC_BOOT_bank then 1 else 0
def otherBank (b : Fin 2) : Fin 2 := if b = 0 then 1 else 0

/-- Does a trial run, or wait? -/
def State.inTrial (s : State) : Bool := s.sec.trial != TrialPhase.none

/-- The end of a trial that has failed (R401): the previous bank is named, fallback set, and a Degrade-class fault recorded. -/
def State.trialFails (s : State) (back : Fin 2) : State :=
  let s := { s with sec := { s.sec with trial := .none } }
  let s := ((s.put Fd.SEC_BOOT_next_bank back).put Fd.SEC_BOOT_trial 3).setFlag Fd.SEC_BOOT_fallback true
  let s := (s.setFlag Fd.SEC_FW_STAT_busy false).record Blk.sec 0x10 1 0
  s.auditFw (s.bank back).baseline (s.bank back).rollback

/-- BOOT (R398, R399): at a start of the COMPUTE domain the boot ROM starts the named bank's image where it passes, else the other's, else
the module enters recovery. `sigOk` says which banks' signatures verify. -/
def execBoot (sigOk : Vector Bool 2) (s : State) : Out :=
  .next <|
    if s.computeDown || s.sec.booted || s.pwr.stopped then s else
    let next : Fin 2 := if s.flag Fd.SEC_BOOT_next_bank then 1 else 0
    let pass (b : Fin 2) : Bool := (s.bank b).valid && vget sigOk b && decide (s.get Fd.SEC_BOOT_rollback ≤ (s.bank b).rollback)
    let s := ({ s with sec := { s.sec with booted := true } }.setBank 0 (s.bank 0)).audit 8 (auditWho 3 3 0) 0 0 0 []
    if pass next then (s.put Fd.SEC_BOOT_bank next).setFlag Fd.SEC_BOOT_recovery false
    else if pass (otherBank next) then
      let s := (s.put Fd.SEC_BOOT_bank (otherBank next)).setFlag Fd.SEC_BOOT_recovery false
      if s.inTrial then s.trialFails (otherBank next) else s.setFlag Fd.SEC_BOOT_fallback true
    else s.setFlag Fd.SEC_BOOT_recovery true

/-- Store a package in a slot. -/
def State.storePkg (s : State) (i : Fin 32) (bytes : List Nat) (k : Pkg) : State :=
  let s := (s.setSlot i { SlotRt.reset with bytes := bytes, pkg := some k }).put (Fd.MDL_SLOT_STAT_state i) 1
  (s.setFlag (Fd.MDL_SLOT_STAT_standard i) k.standard).mdlCounts

/-- The cores of the standard variants (Table 08-7). -/
def standardCores : List Nat := [4, 1, 2, 2, 1]

/-- The firmware's standard baskets enter the empty slots 0 to 4, and are admitted with their standard variants (R227). -/
def State.storeStandard (s : State) (baskets : List (List Nat)) : State :=
  (List.finRange 5).foldl (fun (s : State) (j : Fin 5) =>
    let i : Fin 32 := ⟨j.val, by omega⟩
    match baskets[j.val]?.bind readPkg with
    | none => s
    | some k =>
      if s.slotState i != 0 then s else
      let s := s.storePkg i (baskets.getD j []) k
      let v := (k.variants.findIdx? fun v => v.entries.length == standardCores.getD j 0).getD 0
      s.requestBind i v [] false) s

/-- FIRMWARE_READY (R401, R450): the firmware has started and reports ready. `baskets` are the standard packages of its image. -/
def execFirmwareReady (baskets : List (List Nat)) (s : State) : Out :=
  .next <|
    if s.computeDown || !s.sec.booted || s.sec.running || s.flag Fd.SEC_BOOT_recovery || s.flt.halt == HaltPhase.dead then s else
    let trial := match s.sec.trial with
      | .starting f => if s.time.frame ≤ f + 2500000 then TrialPhase.observed s.time.frame else .starting f
      | t => t
    let s := { s with sec := { s.sec with running := true, trial := trial } }
    if s.flt.halt == HaltPhase.starting then { s with flt := { s.flt with halt := HaltPhase.service } }
    else if s.flt.halt != HaltPhase.none then s
    else s.storeStandard baskets

/-- FW_TRIAL_SUCCESS (R401): 600 s without a Halt or a failing HEARTBEAT since the firmware reported ready. -/
def execFwTrialSuccess (s : State) : Out :=
  .next <|
    match s.sec.trial with
    | .observed f =>
      if s.time.frame < f + 150000000 || s.flt.halt != HaltPhase.none || s.computeDown || s.get Fd.LKS_WDOG_STAT_missing != 0 then s else
      let b := s.bank s.runBank
      let s := { s with sec := { s.sec with trial := .none, raiseDue := s.sec.raiseDue || decide (s.get Fd.SEC_BOOT_rollback < b.rollback) } }
      let s := (s.put Fd.SEC_BOOT_trial 2).setFlag Fd.SEC_FW_STAT_busy false
      s.auditFw b.baseline b.rollback
    | _ => s

/-- Has a trial failed (R401): no report within 10 s, or a Halt or a failing HEARTBEAT in the 600 s after it? -/
def State.trialBad (s : State) : Bool :=
  match s.sec.trial with
  | .starting f => decide (f + 2500000 < s.time.frame)
  | .observed _ => s.flt.halt != HaltPhase.none || s.computeDown || s.get Fd.LKS_WDOG_STAT_missing != 0
  | _ => false

/-- FW_TRIAL_FAIL (R401): COMPUTE is reset into the previous bank, with fallback and a Degrade-class fault. -/
def execFwTrialFail (s : State) : Out :=
  .next <|
    if !s.trialBad then s else
    let s := s.trialFails (otherBank (if s.flag Fd.SEC_BOOT_next_bank then 1 else 0))
    if s.computeDown then s else { s with flt := { s.flt with rstLeft := 512 } }.assertDomain 1 7

/-- At a slow-frame boundary an activation that was asked for writes the boot record and resets COMPUTE (R401). -/
def State.trustTick (s : State) : State :=
  match s.sec.trial with
  | .asked b =>
    if !s.slowStart then s else
    let s := { s with sec := { s.sec with trial := .starting s.time.frame }, flt := { s.flt with rstLeft := 512 } }
    let s := ((s.put Fd.SEC_BOOT_next_bank b).put Fd.SEC_BOOT_trial 1).setFlag Fd.SEC_BOOT_fallback false
    (s.auditFw (s.bank b).baseline (s.bank b).rollback).assertDomain 1 7
  | _ => s

/-- ROLLBACK_RAISE (R402): at a slow-frame boundary without a brown-out warning the counter rises to the trial image's value. -/
def execRollbackRaise (s : State) : Out :=
  .next <|
    if !s.sec.raiseDue || !s.slowStart || s.flag Fd.KPR_SUPPLY_STAT_bow then s else
    let b := s.bank s.runBank
    let v := min 64 (max b.rollback (s.get Fd.SEC_BOOT_rollback))
    let s := { s with sec := { s.sec with raiseDue := false } }.put Fd.SEC_BOOT_rollback v
    s.auditFw b.baseline v

/-! ## Pieces of packages and images (R227, R400) -/

/-- Put a numbered piece in its place. -/
def insPart : List (Nat × List Nat) → Nat → List Nat → List (Nat × List Nat)
  | [], n, d => [(n, d)]
  | (m, e) :: t, n, d => if n < m then (n, d) :: (m, e) :: t else if n = m then (n, d) :: t else (m, e) :: insPart t n d

/-- The form of a piece's payload: a head of 8 bytes with the piece number and the total. -/
def Pkt.pieceOk (p : Pkt) : Bool := decide (8 ≤ p.payload.length) && decide (1 ≤ p.num 4 2 ∧ p.num 2 2 ≤ p.num 4 2)
def Pkt.pieceBytes (p : Pkt) : List Nat := p.payload.drop 8

/-- Its row of Table 13-6. -/
def fwStoreOp : OpInfo := { opRow 0x0901 [1, 2] true with inRecovery := true }
/-- What FW_STORE does once its packet has passed Table 13-3. -/
def State.fwStoreRun (s : State) (p : Pkt) (x : Sess) : State :=
  let b := otherBank s.runBank
  let old := s.bank b
  let parts := if old.total = p.num 4 2 && !old.valid then insPart old.parts (p.num 2 2) p.pieceBytes else [(p.num 2 2, p.pieceBytes)]
  let whole := decide (parts.length = p.num 4 2)
  let s := s.setBank b { FwBank.empty with parts := parts, total := p.num 4 2 }
  let s := s.put Fd.SEC_FW_STAT_op 0
  if whole then
    let s := s.setBank b { FwBank.empty with bytes := parts.flatMap fun e => e.2 }
    ({ s with sec := { s.sec with checking := true } }.setFlag Fd.SEC_FW_STAT_busy true).okAsync fwStoreOp p x
  else s.okWith fwStoreOp p x []
/-- FW_STORE (R400): a piece for the inactive bank. With the last one the check begins. -/
def execFwStore (p : Pkt) (s : State) : Out :=
  .next <| s.request fwStoreOp p (fun s => s.inTrial || s.sec.checking) always (fun _ => if p.pieceOk then none else some Status.badLength) fun s x => s.fwStoreRun p x

/-- Does an image's header pass R399: magic, length, and a rollback value of at least the counter? -/
def imageOk (b : List Nat) (counter : Nat) : Bool :=
  pkgNum b 0 4 == 0x4657494D && pkgNum b 12 4 == b.length && decide (b.length ≤ 33554432 ∧ 2446 ≤ b.length) && decide (counter ≤ pkgNum b 8 1)

/-- FW_IMAGE_CHECKED (R400): the check of the stored image ends. `sigOk`: its signature verifies with the key of slot 1 or 2. -/
def execFwImageChecked (sigOk : Bool) (s : State) : Out :=
  .next <|
    if !s.sec.checking then s else
    let b := otherBank s.runBank
    let x := s.bank b
    let fits := imageOk x.bytes (s.get Fd.SEC_BOOT_rollback)
    let pass := fits && sigOk
    let s := { s with sec := { s.sec with checking := false } }.setBank b
      (if pass then { x with valid := true, baseline := pkgNum x.bytes 4 4, rollback := pkgNum x.bytes 8 1 } else FwBank.empty)
    let s := ((s.put Fd.SEC_FW_STAT_result (if pass then Status.ok else Status.refusedPackage)).put Fd.SEC_FW_STAT_cause
      (if pass then 0 else if fits then 6 else 7)).setFlag Fd.SEC_FW_STAT_busy false
    s.auditFw (s.bank b).baseline (s.bank b).rollback

/-- Its row of Table 13-6. -/
def fwActivateOp : OpInfo := { opRow 0x0902 [1, 2] true with inRecovery := true }
/-- What FW_ACTIVATE does once its packet has passed Table 13-3. -/
def State.fwActivateRun (s : State) (p : Pkt) (x : Sess) : State :=
  let b : Fin 2 := if p.num 0 1 = 1 then 1 else 0
  let s := s.put Fd.SEC_FW_STAT_op 1
  if b = s.runBank && !s.flag Fd.SEC_BOOT_recovery then (s.put Fd.SEC_FW_STAT_result Status.ok).okWith fwActivateOp p x []
  else if (s.bank b).valid then
    let s := { s with sec := { s.sec with trial := .asked b } }.setFlag Fd.SEC_FW_STAT_busy true
    ((s.put Fd.SEC_FW_STAT_result Status.ok).auditFw (s.bank b).baseline (s.bank b).rollback).okAsync fwActivateOp p x
  else
    let cause := (Config.freeWord s.free).toNat % 256
    ((s.draw.put Fd.SEC_FW_STAT_result Status.refused).put Fd.SEC_FW_STAT_cause 0).answer fwActivateOp p x Status.refused cause []
/-- FW_ACTIVATE (R401): the running bank is named without effect; the other must hold an image that has passed, and waits for the slow-frame
boundary. The manual names no cause for a bank that holds none: a free byte. -/
def execFwActivate (p : Pkt) (s : State) : Out :=
  .next <| s.request fwActivateOp p (fun s => s.inTrial || s.sec.checking) always (fun _ => p.lenAnd 4 (decide (p.num 0 1 ≤ 1))) fun s x => s.fwActivateRun p x

/-! ## The check of a package (R227, R403) -/

/-- Has a package arrived whole in a slot that is to take it? -/
def State.pkgWhole (s : State) (i : Fin 32) : Bool :=
  (s.slot i).total != 0 && (s.slot i).parts.length == (s.slot i).total && s.slotState i == 0 && !s.computeDown
/-- The bytes of a slot's pieces. -/
def State.pkgBytes (s : State) (i : Fin 32) : List Nat := (s.slot i).parts.flatMap fun e => e.2
/-- The slots of keys that may sign a package. -/
def Pkg.signers (k : Pkg) : List Nat := if k.standard then [1, 2] else [1, 2, 13, 14, 15, 16, 17, 18, 19, 20]
/-- The cause a package is refused with (Table 08-11), or the package. -/
def State.pkgCheck (s : State) (bytes : List Nat) (sigOk : Bool) : Except Nat Pkg :=
  match readPkg bytes with
  | none => .error 7
  | some k =>
    if !sigOk || (s.keySlot k.signers k.keyId).isNone then .error 6
    else if 268435456 < bytes.length then .error 7
    else .ok k
/-- The outcome of a check: the package is STORED, or its slot returns to EMPTY with the cause. -/
def State.pkgChecked (s : State) (i : Fin 32) (r : Except Nat Pkg) : State :=
  match r with
  | .error c => (s.setSlot i .reset).refuseMdl i c
  | .ok k => s.storePkg i (s.pkgBytes i) k

/-- PACKAGE_CHECK (R227): a package that has arrived whole is checked; it is STORED, or its slot returns to EMPTY with the cause. `sigOk`: the
signature verifies with the key its block names. -/
def execPackageCheck (slot : Fin 32) (sigOk : Bool) (s : State) : Out :=
  .next (if s.pkgWhole slot then s.pkgChecked slot (s.pkgCheck (s.pkgBytes slot) sigOk) else s)

/-! ## Attestation (R404) -/

/-- The addresses of a register row. -/
def rowAddrs : Nat → List (Nat × Nat) → List Nat
  | base, [] => [base]
  | base, (st, c) :: ds => (List.range c).flatMap fun i => rowAddrs (base + st * i) ds

/-- Put an address with its row in its place. -/
def insRow : List (Nat × RegRow) → Nat → RegRow → List (Nat × RegRow)
  | [], a, r => [(a, r)]
  | (b, q) :: t, a, r => if a < b then (a, r) :: (b, q) :: t else (b, q) :: insRow t a r

/-- Every register, in ascending order of address. -/
def allRegs : List (Nat × RegRow) :=
  ((List.range 18).flatMap fun b =>
    ((blockTab b).flatMap fun r => (rowAddrs r.base r.dims).map fun a => (a, r))
      ++ (Tab.flt.flatMap fun r => (rowAddrs r.base r.dims).map fun a => (0x40000000 + 0x10000 * b + a, r))).foldl (fun l e => insRow l e.1 e.2) []

/-- The mask of a register's installer fields. -/
def installerMask (r : RegRow) : Nat := r.fields.foldl (fun m f => if f.installer then m + (2 ^ f.len - 1) * 2 ^ f.lo else m) 0

/-- The bytes over which the envelope digest is formed. -/
def State.envelope (s : State) : List Nat :=
  (allRegs.filter fun e => installerMask e.2 != 0).flatMap fun e =>
    beBytes 4 e.1 ++ beBytes 4 ((s.rd e.1).toNat &&& installerMask e.2)

/-- The image before its signature block. -/
def FwBank.body (b : FwBank) : List Nat := b.bytes.take (b.bytes.length - 2430)

/-- The attestation record without its signature (Table 14-5). -/
def State.attestRecord (s : State) (nonce : List Nat) : List Nat :=
  let run := s.bank s.runBank
  let other := s.bank (otherBank s.runBank)
  let keys := (List.range 20).flatMap fun i => match s.keyAt (i + 1) with
    | some k => 1 :: k.bytes
    | none => 0 :: List.replicate 1312 0
  let used := (List.finRange 32).filter fun (i : Fin 32) => s.slotState i != 0
  nonce ++ beBytes 6 s.time.frame ++ [0, 0] ++ beBytes 8 s.now ++ Config.certificate.take 10
    ++ [s.get Fd.LKS_STAT_slot_id, s.get Fd.LKS_STAT_role] ++ beBytes 4 s.baseline ++ [(s.runBank).val, (s.rd Reg.SEC_BOOT).toNat % 256,
      s.get Fd.SEC_BOOT_rollback, 0] ++ beBytes 4 (if other.valid then other.baseline else 0)
    ++ Config.sha3 run.body ++ (if other.valid then Config.sha3 other.body else List.replicate 32 0)
    ++ beBytes 4 Config.romVersion ++ [0, 0, 0, 0] ++ Config.sha3 keys ++ Config.sha3 s.envelope ++ beBytes 8 s.sec.next ++ s.sec.lastH
    ++ [used.length, 0, 0, 0, 0, 0, 0, 0]
    ++ used.flatMap fun (i : Fin 32) => [i.val, s.slotState i, s.get (Fd.MDL_SLOT_STAT_variant i), b2n (s.flag (Fd.MDL_SLOT_STAT_standard i))]
      ++ Config.sha3 (s.slot i).bytes

/-- Its row of Table 13-6. -/
def attestOp : OpInfo := { opRow 0x0903 oim false with inHalt := true, inRecovery := true }
/-- What ATTEST does once its packet has passed Table 13-3. -/
def State.attestRun (s : State) (p : Pkt) (x : Sess) : State :=
  if x.nonce == p.payload && !x.record.isEmpty && decide (s.now < x.recordAt + secCycles 60) then
    (if x.signing then s.okAsync attestOp p x else s.okWith attestOp p x x.record)
  else
    (s.setSession p.port p.session fun y => { y with nonce := p.payload, record := s.attestRecord p.payload, recordAt := s.now, signing := true }).okAsync
      attestOp p x
/-- ATTEST (R404): a new nonce starts the signing of a record; the same nonce within 60 s returns it once it is signed. -/
def execAttest (p : Pkt) (s : State) : Out :=
  .next <| s.request attestOp p never always (fun _ => p.len 32) fun s x => s.attestRun p x

/-- ATTEST_SIGN_DONE (R404): a session's record has its signature. -/
def execAttestSignDone (port : Fin 3) (session : Nat) (s : State) : Out :=
  .next <|
    let n := s.free
    (s.setSession port session fun x =>
      if x.signing then { x with record := x.record ++ Config.sign n (Config.sha3 (ascii "WILROS ATTEST" ++ x.record)), signing := false } else x).draw

/-! ## The audit log (R405 to R410) -/

/-- AUDIT_FLUSH (R408): the staged entries move to flash at a slow-frame boundary, or with 64 staged. -/
def execAuditFlush (s : State) : Out :=
  .next <| if s.slowStart || decide (64 ≤ s.sec.staged.length) then s.auditMove else s

/-- The checkpoint of the last entry. -/
def State.checkpoint (s : State) : State :=
  let n := s.sec.next - 1
  let c : AuditCheck := { n := n, frame := s.time.frame, time := s.now, h := s.sec.lastH }
  let sec := { s.sec with lastCheck := s.slowIdx, sinceCheck := false }
  if s.sec.staged.any fun e => e.n == n then { s with sec := { sec with stagedChecks := s.sec.stagedChecks ++ [c] } }
  else { s with sec := { sec with flash := s.sec.flash.map fun e => if e.1.n == n then (e.1, some c) else e } }

/-- AUDIT_CHECKPOINT (R409): after every 256th entry, or at a slow-frame boundary 3433 slow frames after the last one with entries since. -/
def execAuditCheckpoint (s : State) : Out :=
  .next <|
    let due := s.sec.sinceCheck && s.sec.next != 0 &&
      (s.sec.next % 256 == 0 || (s.slowStart && decide (s.sec.lastCheck + 3433 ≤ s.slowIdx)))
    if due then s.checkpoint else s

/-- AUTH_FAILURE_ENTRY (R405): at the slow-frame boundary, the failed authentications of the slow frame on all ports, as one entry. -/
def execAuthFailureEntry (s : State) : Out :=
  .next <|
    let n := (List.finRange 3).foldl (fun n p => n + vget s.sec.fails p) 0
    if !s.slowStart || n = 0 then s else
    { s with sec := { s.sec with fails := vall 3 0 } }.audit 4 (auditWho 3 3 0) 0 0 0 (beBytes 8 n)

/-- The bytes of a checkpoint, with its signature. -/
def AuditCheck.bytes (c : AuditCheck) : List Nat :=
  let b := beBytes 8 c.n ++ beBytes 6 c.frame ++ [0, 0] ++ beBytes 8 c.time ++ c.h
  b ++ Config.sign c.n (Config.sha3 (ascii "WILROS AUDIT" ++ b))

/-- The entries of a log that a read returns: at most `count`, each followed by its checkpoint, up to 8184 bytes with `used` of them taken. -/
def auditItems : List (AuditEntry × Option AuditCheck) → Nat → Nat → Nat × List Nat
  | [], _, _ => (0, [])
  | _, 0, _ => (0, [])
  | (e, c) :: t, count + 1, used =>
    if 8184 < used + 64 then (0, []) else
    let b := e.bytes ++ e.h
    match c with
    | none => let r := auditItems t count (used + 64); (r.1 + 1, b ++ r.2)
    | some c =>
      if 8184 < used + 64 + 2476 then (1, b)
      else let r := auditItems t count (used + 64 + 2476); (r.1 + 1, b ++ c.bytes ++ r.2)

/-- Its row of Table 13-6. -/
def auditReadOp : OpInfo := { opRow 0x0904 oim false with inHalt := true }
/-- What AUDIT_READ does once its packet has passed Table 13-3. -/
def State.auditReadRun (s : State) (p : Pkt) (x : Sess) : State :=
  let log := s.sec.flash ++ s.sec.staged.map fun e => (e, s.sec.stagedChecks.find? fun c => c.n == e.n)
  let r := auditItems (log.filter fun e => decide (p.num 0 8 ≤ e.1.n)) (p.num 8 2) 8
  s.okWith auditReadOp p x (beBytes 2 r.1 ++ [0, 0, 0, 0, 0, 0] ++ r.2)
/-- AUDIT_READ (R410). -/
def execAuditRead (p : Pkt) (s : State) : Out :=
  .next <| s.request auditReadOp p never always (fun _ => p.len 12) fun s x => s.auditReadRun p x

end Sys2Proof.Machine
end

