-- ==== Sys2Proof/Machine/WilrosOps.lean ====
section
/-! DEFINITION. The opcodes of groups 0x01 to 0x08 and 0x0F of Table 13-6: register access (R380 to R382), the reads of each group, the commands to the
zone fabric, the loops, the chain and estimation, baskets and the array, faults, and the lockstep pair, and fault injection (R465, R466). What has no
register of its own takes effect under an address of `actBase` at the start of the next frame (R59). -/

namespace Sys2Proof.Machine

def oi : List Nat := [0, 1]

/-! ## Register access -/

/-- A read of one register by the supervisor (R381). A block that leaves accesses unanswered (R466) reads as the fill word, with its fault (R458). -/
def State.busRead (s : State) (a : Nat) : State × Word :=
  let timeout (b : Fin 18) : Bool := vget s.flt.noAnswer b != 0
  match blockOf a with
  | none => (s, 0)
  | some n =>
    if h : n < 18 then
      let b : Fin 18 := ⟨n, h⟩
      if timeout b then
        ({ s with flt := { s.flt with noAnswer := vset s.flt.noAnswer b (vget s.flt.noAnswer b - 1) } }.recordAt b 1 1 0 1 a 1, 0xA5A5A5A5)
      else (s.latchShadow 1 a, s.readAs 1 a)
    else (s, 0)

/-- The bytes of a list of registers, read in its order. -/
def State.readBytes (s : State) (as : List Nat) : State × List Nat :=
  as.foldl (fun (r : State × List Nat) a => let x := r.1.busRead a; (x.1, r.2 ++ beBytes 4 x.2.toNat)) (s.semRegs, [])

/-- Answer with the words of a list of registers. -/
def State.okRegs (s : State) (o : OpInfo) (p : Pkt) (x : Sess) (as : List Nat) : State :=
  let r := s.readBytes as
  r.1.okWith o p x r.2

/-- The entries of a payload, each of `n` bytes. -/
def Pkt.entries (p : Pkt) (n : Nat) : List (List Nat) :=
  (List.range (p.payload.length / n)).map fun i => (p.payload.drop (n * i)).take n
/-- Is a payload made of 1 to `most` entries of `n` bytes? -/
def Pkt.entriesOk (p : Pkt) (n most : Nat) : Bool := decide (p.payload.length % n = 0 ∧ 1 ≤ p.payload.length / n ∧ p.payload.length / n ≤ most)

/-- The entries of REG_READ: address and count. -/
def Pkt.reads (p : Pkt) : List (Nat × Nat) := (p.entries 8).map fun e => (beNat (e.take 4), beNat ((e.drop 4).take 2))
/-- What step 12 finds wrong with REG_READ. -/
def Pkt.readsBad (p : Pkt) : Option Nat :=
  if !p.entriesOk 8 64 || decide (2046 < p.reads.foldl (fun (n : Nat) e => n + e.2) 0) || p.reads.any (fun e => e.1 % 4 != 0) then some Status.badLength
  else if p.reads.any fun e => (blockOf e.1).isNone || (e.2 != 0 && (blockOf (e.1 + 4 * (e.2 - 1))).isNone) then some Status.badAddress
  else none
/-- Its row of Table 13-6. -/
def regReadOp : OpInfo := { opRow 0x0101 oim false with inHalt := true }
/-- What REG_READ does once its packet has passed Table 13-3. -/
def State.regReadRun (s : State) (p : Pkt) (x : Sess) : State :=
  s.okRegs regReadOp p x (p.reads.flatMap fun e => (List.range e.2).map fun i => e.1 + 4 * i)
/-- REG_READ (R381): the words of each entry, in ascending address order. -/
def execRegRead (p : Pkt) (s : State) : Out :=
  .next <| s.request regReadOp p never always (fun _ => p.readsBad) fun s x => s.regReadRun p x

/-- Does step 9 refuse a set of register writes (R380, R387)? -/
def State.writeDenied (s : State) (x : Sess) (ws : List (Nat × Word × Word)) : Bool :=
  (x.role == 2 && !s.pins.testMode)
    || ws.any fun w => blockOf w.1 == some 17 || (x.role == 0 && touchesInstaller s.regs w.1 w.2.1 w.2.2)

/-- What step 12 finds wrong with a set of register writes (R381, R382). -/
def writesBad (formOk : Bool) (ws : List (Nat × Word × Word)) : Option Nat :=
  if !formOk || ws.any (fun w => w.1 % 4 != 0) || decide (32 < (ws.filter fun w => pairMask w.1 &&& w.2.1 != 0).length) then some Status.badLength
  else if ws.any fun w => (blockOf w.1).isNone then some Status.badAddress
  else none

/-- Does a set of writes ask for a commissioning test while a stage is under command (R353)? -/
def State.commissionBusy (s : State) (ws : List (Nat × Word × Word)) : Bool :=
  s.anyUnder && ws.any fun w => w.1 == Reg.STL_BERT_CTRL && getBits (w.2.1 &&& w.2.2) 1 1 == 1

/-- The common part of REG_WRITE and REG_WRITE_MASKED: every write is stamped at the packet's reception. -/
def State.regWrites (s : State) (o : OpInfo) (p : Pkt) (formOk : Bool) (ws : List (Nat × Word × Word)) : State :=
  s.request o p (fun s => s.commissionBusy ws) (fun s x => s.writeDenied x ws) (fun _ => writesBad formOk ws) fun s x =>
    s.queueWrites o p x ws .plain (beBytes 2 ws.length ++ [0, 0])

/-- Its row of Table 13-6. -/
def regWriteOp : OpInfo := opRow 0x0102 oim true
/-- REG_WRITE (R381): 1 to 1024 entries of an address and a value. -/
def execRegWrite (p : Pkt) (s : State) : Out :=
  .next <| s.regWrites regWriteOp p (p.entriesOk 8 1024)
    ((p.entries 8).map fun e => (beNat (e.take 4), 0xFFFFFFFF, BitVec.ofNat 32 (beNat (e.drop 4))))

/-- Its row of Table 13-6. -/
def regWriteMaskedOp : OpInfo := { opRow 0x0103 oim true with minVer := 0x25 }
/-- The writes of a REG_WRITE_MASKED: address, mask and value. -/
def Pkt.maskedWrites (p : Pkt) : List (Nat × Word × Word) :=
  (p.entries 12).map fun e => (beNat (e.take 4), BitVec.ofNat 32 (beNat ((e.drop 4).take 4)), BitVec.ofNat 32 (beNat (e.drop 8)))
/-- REG_WRITE_MASKED (R381): 1 to 682 entries of an address, a mask and a value. -/
def execRegWriteMasked (p : Pkt) (s : State) : Out :=
  .next <| s.regWrites regWriteMaskedOp p (p.entriesOk 12 682) p.maskedWrites

/-! ## Zones and comb -/

/-- The registers of a span of addresses. -/
def regsIn (lo hi : Nat) : List Nat := (allRegs.map fun e => e.1).filter fun a => decide (lo ≤ a ∧ a < hi)

/-- Its row of Table 13-6. -/
def combReadOp : OpInfo := opRow 0x0201 oim false
/-- What COMB_READ does once its packet has passed Table 13-3. -/
def State.combReadRun (s : State) (p : Pkt) (x : Sess) : State :=
  s.okRegs combReadOp p x (regsIn 0x40040000 0x40040500)
/-- COMB_READ (R379): the ZFB registers of Tables 05-1 and 05-7, in address order. -/
def execCombRead (p : Pkt) (s : State) : Out :=
  .next <| s.request combReadOp p never always (fun _ => p.len 0) fun s x => s.combReadRun p x

/-- Its row of Table 13-6. -/
def rebindOp : OpInfo := opRow 0x0202 oi true
/-- What REBIND does once its packet has passed Table 13-3. -/
def State.rebindRun (s : State) (p : Pkt) (x : Sess) : State :=
  let es := (p.entries 4).map fun e => (e.getD 0 0, e.getD 1 0)
  s.queueWrites rebindOp p x ((es.map fun e => fieldOf (Fd.ZFB_OS_next_zone e.1) e.2) ++ [fieldOf Fd.ZFB_COMB_CTRL_go 1]) .batch []
/-- REBIND (R133, R379): next_zone of up to 8 stages, and go. The reply leaves after frame 0 of the batch. -/
def execRebind (p : Pkt) (s : State) : Out :=
  let es := (p.entries 4).map fun e => (e.getD 0 0, e.getD 1 0)
  .next <| s.request rebindOp p never always
    (fun _ => if p.entriesOk 4 8 && es.all (fun e => decide (e.1 < 16)) then none else some Status.badLength) fun s x => s.rebindRun p x

/-- Its row of Table 13-6. -/
def rebindAbortOp : OpInfo := opRow 0x0203 oi true
/-- What REBIND_ABORT does once its packet has passed Table 13-3. -/
def State.rebindAbortRun (s : State) (p : Pkt) (x : Sess) : State :=
  s.queueWrites rebindAbortOp p x [fieldOf Fd.ZFB_COMB_CTRL_abort 1] .plain []
/-- REBIND_ABORT (R136, R379). -/
def execRebindAbort (p : Pkt) (s : State) : Out :=
  .next <| s.request rebindAbortOp p never always (fun _ => p.len 0) fun s x => s.rebindAbortRun p x

/-- The units of a kind of FENCE_CLEAR. -/
def fenceKinds : Nat → Nat
  | 0 => 16 | 1 => 6 | 2 => 4 | 3 => 4 | 4 => 16 | _ => 0

/-- Its row of Table 13-6. -/
def fenceClearOp : OpInfo := opRow 0x0204 oi true
/-- What FENCE_CLEAR does once its packet has passed Table 13-3. -/
def State.fenceClearRun (s : State) (p : Pkt) (x : Sess) : State :=
  s.queueWrites fenceClearOp p x [(actBase + 0x20 * p.num 0 1 + p.num 1 1, 0xFFFFFFFF, 0)] .plain []
/-- FENCE_CLEAR (R131, R139, R190, R501). -/
def execFenceClear (p : Pkt) (s : State) : Out :=
  .next <| s.request fenceClearOp p never always (fun _ => p.lenAnd 4 (decide (p.num 1 1 < fenceKinds (p.num 0 1)))) fun s x => s.fenceClearRun p x

/-- FENCE_CLEAR as it acts. A zone's clear also resets its retries (R120). -/
def State.clearFence (s : State) (kind i : Nat) : State :=
  match kind with
  | 0 => if h : i < 16 then s.clearOs ⟨i, h⟩ else s
  | 1 => if h : i < 6 then s.clearSs ⟨i, h⟩ else s
  | 2 => if h : i < 4 then s.clearFe ⟨i, h⟩ else s
  | 3 => if h : i < 4 then (s.unfenceZone ⟨i, h⟩).put (Fd.LPE_FOLLOW_STAT_retries_used i) 0 else s
  | 4 => s.clearLane i
  | _ => s

/-- Its row of Table 13-6. -/
def stringDutyOp : OpInfo := opRow 0x0205 oi true
/-- What STRING_DUTY does once its packet has passed Table 13-3. -/
def State.stringDutyRun (s : State) (p : Pkt) (x : Sess) : State :=
  s.queueWrites stringDutyOp p x [fieldOf (Fd.ZFB_STR_next_duty (p.num 0 1)) (p.num 1 1)] (.duty (p.num 0 1) (p.num 1 1)) []
/-- STRING_DUTY (R141, R379). -/
def execStringDuty (p : Pkt) (s : State) : Out :=
  .next <| s.request stringDutyOp p never always (fun _ => p.lenAnd 4 (decide (p.num 0 1 < 3 ∧ p.num 1 1 < 4))) fun s x => s.stringDutyRun p x

/-- Its row of Table 13-6. -/
def groupLimitOp : OpInfo := opRow 0x0206 oi true
/-- What GROUP_LIMIT does once its packet has passed Table 13-3. -/
def State.groupLimitRun (s : State) (p : Pkt) (x : Sess) : State :=
  s.queueWrites groupLimitOp p x [(actBase + 0x2000 + p.num 0 1, 0xFFFFFFFF, BitVec.ofNat 32 (p.num 2 2))] .plain []
/-- GROUP_LIMIT (R182, R379): op_g × 4095. -/
def execGroupLimit (p : Pkt) (s : State) : Out :=
  .next <| s.request groupLimitOp p never always (fun _ => p.lenAnd 4 (decide (p.num 0 1 < 63 ∧ p.num 2 2 ≤ 4095))) fun s x => s.groupLimitRun p x

/-! ## Loops -/

/-- Its row of Table 13-6. -/
def csetLoadOp : OpInfo := opRow 0x0301 oi true
/-- What CSET_LOAD does once its packet has passed Table 13-3. -/
def State.csetLoadRun (s : State) (p : Pkt) (x : Sess) : State :=
  let l := p.num 0 1
  let c := p.num 1 1
  let ws := (List.range 9).map fun i => (Reg.LPE_CSET_CTRL l c + 4 * i, (0xFFFFFFFF : Word), BitVec.ofNat 32 (p.num (4 + 4 * i) 4))
  let sw := if p.num 2 1 = 1 then [fieldOf (Fd.LPE_LOOP_CTRL_next_set l) c, fieldOf (Fd.LPE_LOOP_CTRL_switch_set l) 1] else []
  s.queueWrites csetLoadOp p x (ws ++ sw) .plain []
/-- CSET_LOAD (R79, R80, R379): the nine words of a set, and where asked a switch to it. -/
def execCsetLoad (p : Pkt) (s : State) : Out :=
  let l := p.num 0 1
  let c := p.num 1 1
  .next <| s.request csetLoadOp p never always (fun _ => p.lenAnd 40 (decide (l < 7 ∧ c < 4 ∧ p.num 2 1 ≤ 1))) fun s x => s.csetLoadRun p x

/-- Its row of Table 13-6. -/
def loopModeOp : OpInfo := opRow 0x0302 oi true
/-- What LOOP_MODE does once its packet has passed Table 13-3. -/
def State.loopModeRun (s : State) (p : Pkt) (x : Sess) : State :=
  let l := p.num 0 1
  s.queueWrites loopModeOp p x [fieldOf (Fd.LPE_LOOP_CTRL_manual l) (p.num 1 1), (Reg.LPE_LOOP_MANUAL l, 0xFFFFFFFF, BitVec.ofNat 32 (p.num 4 4))] .plain []
/-- LOOP_MODE (R86, R379): manual and P_man of a grid loop. -/
def execLoopMode (p : Pkt) (s : State) : Out :=
  let l := p.num 0 1
  .next <| s.request loopModeOp p never always (fun _ => p.lenAnd 8 (decide ((l = 5 ∨ l = 6) ∧ p.num 1 1 ≤ 1))) fun s x => s.loopModeRun p x

/-- Its row of Table 13-6. -/
def profileReadOp : OpInfo := opRow 0x0303 oim false
/-- What PROFILE_READ does once its packet has passed Table 13-3. -/
def State.profileReadRun (s : State) (p : Pkt) (x : Sess) : State :=
  s.okRegs profileReadOp p x (regsIn 0x40020000 0x40020060)
/-- PROFILE_READ (R379): the PRF registers 0x0000 to 0x005C. -/
def execProfileRead (p : Pkt) (s : State) : Out :=
  .next <| s.request profileReadOp p never always (fun _ => p.len 0) fun s x => s.profileReadRun p x

/-! ## Storage and estimation -/

/-- Its row of Table 13-6. -/
def cellReadOp : OpInfo := opRow 0x0401 oim false
/-- What CELL_READ does once its packet has passed Table 13-3. -/
def State.cellReadRun (s : State) (p : Pkt) (x : Sess) : State :=
  s.okRegs cellReadOp p x ((List.range (p.num 2 1)).map fun i => Reg.CHN_CELL (p.num 0 1) (p.num 1 1 + i))
/-- CELL_READ (R379): the CHN_CELL words of a run of cells of a string. -/
def execCellRead (p : Pkt) (s : State) : Out :=
  .next <| s.request cellReadOp p never always (fun _ => p.lenAnd 4 (decide (p.num 0 1 < 3 ∧ p.num 1 1 + p.num 2 1 ≤ 224))) fun s x => s.cellReadRun p x

/-- Its row of Table 13-6. -/
def storageClearOp : OpInfo := opRow 0x0402 oi true
/-- What STORAGE_CLEAR does once its packet has passed Table 13-3. -/
def State.storageClearRun (s : State) (p : Pkt) (x : Sess) : State :=
  s.queueWrites storageClearOp p x [(actBase + 0x1000 + 0x100 * p.num 0 1 + 0x10 * p.num 1 1 + p.num 2 1 % 16, 0xFFFFFFFF, 0)] .plain []
/-- STORAGE_CLEAR (Table 09-6, R379): a node fence, a string fence, or CELL_STEP. -/
def execStorageClear (p : Pkt) (s : State) : Out :=
  let ok := decide (p.num 0 1 ≤ 2 ∧ p.num 1 1 < 3 ∧ (p.num 0 1 ≠ 0 ∨ (1 ≤ p.num 2 1 ∧ p.num 2 1 ≤ 14)))
  .next <| s.request storageClearOp p never always (fun _ => p.lenAnd 4 ok) fun s x => s.storageClearRun p x

/-- A string's fence is cleared, and with it its two storage stages' (R20, R131). -/
def State.clearStr (s : State) (r : Fin 3) : State :=
  let s := { s with zfb := { s.zfb with strFenced := vset s.zfb.strFenced r false } }
  (s.clearSs ⟨2 * r.val, by omega⟩).clearSs ⟨2 * r.val + 1, by omega⟩

/-- STORAGE_CLEAR as it acts. -/
def State.clearStorage (s : State) (kind r node : Nat) : State :=
  if h : r < 3 then
    match kind with
    | 0 => if k : 1 ≤ node ∧ node ≤ 14 then s.clearNode ⟨r, h⟩ ⟨node - 1, by omega⟩ else s
    | 1 => s.clearStr ⟨r, h⟩
    | 2 => s.clearCellStep ⟨r, h⟩
    | _ => s
  else s

/-- Its row of Table 13-6. -/
def capacityLoadOp : OpInfo := opRow 0x0403 [1] true
/-- What CAPACITY_LOAD does once its packet has passed Table 13-3. -/
def State.capacityLoadRun (s : State) (p : Pkt) (x : Sess) : State :=
  s.queueWrites capacityLoadOp p x [(actBase + 0x3000 + p.num 0 1, 0xFFFFFFFF, BitVec.ofNat 32 (p.num 4 4))] .plain []
/-- CAPACITY_LOAD (R292, R379). -/
def execCapacityLoad (p : Pkt) (s : State) : Out :=
  .next <| s.request capacityLoadOp p never always (fun _ => p.lenAnd 8 (decide (p.num 0 1 < 3))) fun s x => s.capacityLoadRun p x

/-- CAPACITY_LOAD as it acts. The manual names no source for a capacity that was loaded: one of the three codes in use, as a free value. -/
def State.loadCapacity (s : State) (r : Fin 3) (mah : Nat) : State :=
  (s.learn r (Frac.ofInt mah) ((Config.freeWord s.free).toNat % 3)).draw

/-! ## Baskets and the array -/

/-- The bytes of the basket store in use. -/
def State.storeUsed (s : State) : Nat :=
  (List.finRange 32).foldl (fun n (i : Fin 32) => n + (s.slot i).bytes.length + ((s.slot i).parts.map fun e => e.2.length).foldl (· + ·) 0) 0

/-- Its row of Table 13-6. -/
def basketStoreOp : OpInfo := opRow 0x0501 oi true
/-- What BASKET_STORE does once its packet has passed Table 13-3. -/
def State.basketStoreRun (s : State) (p : Pkt) (x : Sess) : State :=
  if h : p.num 0 1 < 32 then
    let i : Fin 32 := ⟨p.num 0 1, h⟩
    let old := s.slot i
    if s.slotState i != 0 || decide (2147483648 < s.storeUsed + p.pieceBytes.length) then
      (s.refuseMdl i 9).answer basketStoreOp p x Status.refusedPackage 9 []
    else
      let parts := if old.total = p.num 4 2 then insPart old.parts (p.num 2 2) p.pieceBytes else [(p.num 2 2, p.pieceBytes)]
      let s := s.setSlot i { SlotRt.reset with parts := parts, total := p.num 4 2 }
      if parts.length = p.num 4 2 then s.okAsync basketStoreOp p x else s.okWith basketStoreOp p x []
  else s
/-- BASKET_STORE (R227): a piece of a package for an EMPTY slot. The last one starts the check. -/
def execBasketStore (p : Pkt) (s : State) : Out :=
  .next <| s.request basketStoreOp p never always (fun _ => if p.pieceOk && decide (p.num 0 1 < 32) then none else some Status.badLength) fun s x => s.basketStoreRun p x

/-- The named cores of a mask. -/
def maskCores (m : Nat) : List Nat := (List.range 64).filter fun k => bit m k

/-- A request to take in a basket or change its variant (R229, R232), and its reply. -/
def State.admitCmd (s : State) (o : OpInfo) (p : Pkt) (x : Sess) (cores : List Nat) (change : Bool) : State :=
  if h : p.num 0 1 < 32 then
    let i : Fin 32 := ⟨p.num 0 1, h⟩
    let n := s.arr.reqs.length
    let s := s.requestBind i (p.num 1 1) cores change
    if s.arr.reqs.length = n then s.answer o p x Status.refusedAdmission (s.get Fd.MDL_REFUSE_cause) []
    else s.later o p x .commit (.entry i (p.num 1 1)) []
  else s

/-- Its row of Table 13-6. -/
def basketAdmitOp : OpInfo := opRow 0x0502 oi true
/-- What BASKET_ADMIT does once its packet has passed Table 13-3. -/
def State.basketAdmitRun (s : State) (p : Pkt) (x : Sess) : State :=
  s.admitCmd basketAdmitOp p x (maskCores (p.num 4 8)) false
/-- BASKET_ADMIT (R229, R230): cores of a mask, or automatic where it is 0. -/
def execBasketAdmit (p : Pkt) (s : State) : Out :=
  .next <| s.request basketAdmitOp p never always (fun _ => p.lenAnd 12 (decide (p.num 0 1 < 32))) fun s x => s.basketAdmitRun p x

/-- Its row of Table 13-6. -/
def basketVariantOp : OpInfo := opRow 0x0504 oi true
/-- What BASKET_VARIANT does once its packet has passed Table 13-3. -/
def State.basketVariantRun (s : State) (p : Pkt) (x : Sess) : State :=
  s.admitCmd basketVariantOp p x [] true
/-- BASKET_VARIANT (R229). -/
def execBasketVariant (p : Pkt) (s : State) : Out :=
  .next <| s.request basketVariantOp p never always (fun _ => p.lenAnd 4 (decide (p.num 0 1 < 32))) fun s x => s.basketVariantRun p x

/-- Its row of Table 13-6. -/
def basketEvictOp : OpInfo := opRow 0x0503 oi true
/-- What BASKET_EVICT does once its packet has passed Table 13-3. -/
def State.basketEvictRun (s : State) (p : Pkt) (x : Sess) : State :=
  if h : p.num 0 1 < 32 then
    let i : Fin 32 := ⟨p.num 0 1, h⟩
    let n := s.arr.reqs.length
    let s := s.requestEvict i
    if s.arr.reqs.length = n then s.answer basketEvictOp p x Status.refusedAdmission 8 [] else s.later basketEvictOp p x .commit (.evict i) []
  else s
/-- BASKET_EVICT (R232). -/
def execBasketEvict (p : Pkt) (s : State) : Out :=
  .next <| s.request basketEvictOp p never always (fun _ => p.lenAnd 4 (decide (p.num 0 1 < 32))) fun s x => s.basketEvictRun p x

/-- Its row of Table 13-6. -/
def quarantineClearOp : OpInfo := opRow 0x0505 oi true
/-- What QUARANTINE_CLEAR does once its packet has passed Table 13-3. -/
def State.quarantineClearRun (s : State) (p : Pkt) (x : Sess) : State :=
  s.queueWrites quarantineClearOp p x [(actOwn + p.num 0 1, 0xFFFFFFFF, 0)] .plain []
/-- QUARANTINE_CLEAR (R236). -/
def execQuarantineClear (p : Pkt) (s : State) : Out :=
  .next <| s.request quarantineClearOp p never always (fun _ => p.lenAnd 4 (decide (p.num 0 1 < 32))) fun s x => s.quarantineClearRun p x

/-- QUARANTINE_CLEAR as it acts: a quarantined slot is STORED again. -/
def State.unquarantine (s : State) (i : Fin 32) : State := if s.slotState i = 5 then s.leaveSlot i 1 else s

/-- Its row of Table 13-6. -/
def basketStatusOp : OpInfo := opRow 0x0506 oim false
/-- What BASKET_STATUS does once its packet has passed Table 13-3. -/
def State.basketStatusRun (s : State) (p : Pkt) (x : Sess) : State :=
  s.okRegs basketStatusOp p x ((List.range 6).map (fun j => Reg.MDL_SLOT_STAT (p.num 0 1) + 4 * j) ++ [Reg.MDL_REFUSE])
/-- BASKET_STATUS (R379): the slot's registers and the refusal state. -/
def execBasketStatus (p : Pkt) (s : State) : Out :=
  .next <| s.request basketStatusOp p never always (fun _ => p.lenAnd 4 (decide (p.num 0 1 < 32))) fun s x => s.basketStatusRun p x

/-- Errors of the module's DRAM that a read by the supervisor meets (R26, R459). The manual gives no map of the DRAM, so whether a read meets a flipped
word is a free value for each; a corrected word is whole again. -/
def State.dramRead (s : State) : State :=
  let hits := (s.arr.eccD.zip (List.range s.arr.eccD.length)).filter fun e => (Config.freeWord (s.free + e.2)).toNat % 2 == 1
  let s := { s with free := s.free + s.arr.eccD.length
                    arr := { s.arr with eccD := s.arr.eccD.filter fun d => !(hits.any (fun e => e.1 == d) && decide (d.2 ≤ 1)) } }
  hits.foldl (fun (s : State) e => if e.1.2 ≤ 1 then s.recordAt Blk.sup 2 0 0 4 e.1.1 1 else s.recordAt Blk.sup 3 1 0 4 e.1.1 1) s

/-- The bytes of a BF16 block: its mantissas and its exponent. -/
def ArrBlock.bytes16 (b : ArrBlock) : List Nat := (b.ms.flatMap fun m => beBytes 2 (toBits 16 m)) ++ [toBits 8 b.e]

/-- The part of a list of items that fits `room` bytes, each item whole. -/
def fitItems : List (List Nat) → Nat → List Nat
  | [], _ => []
  | b :: t, room => if b.length ≤ room then b ++ fitItems t (room - b.length) else []

/-- Its row of Table 13-6. -/
def resultReadOp : OpInfo := { opRow 0x0507 oim false with minVer := 0x31 }
/-- What RESULT_READ does once its packet has passed Table 13-3. -/
def State.resultReadRun (s : State) (p : Pkt) (x : Sess) : State :=
  let vals := match s.arr.results.find? fun r => r.slot == p.num 0 1 && r.out == p.num 1 1 with
    | some r => r.vals.take (min 64 (p.num 2 1))
    | none => []
  s.dramRead.okWith resultReadOp p x (fitItems (vals.map fun v => beBytes 4 v.1 ++ v.2.flatMap fun b => b.bytes16) 8184)
/-- RESULT_READ (R226, R379): committed values of a named result, newest first, each with its forecast-frame index. -/
def execResultRead (p : Pkt) (s : State) : Out :=
  .next <| s.request resultReadOp p never always (fun _ => p.lenAnd 4 (decide (p.num 0 1 < 32))) fun s x => s.resultReadRun p x

/-- Its row of Table 13-6. -/
def arrayTargetOp : OpInfo := { opRow 0x0508 oi true with minVer := 0x31 }
/-- What ARRAY_TARGET does once its packet has passed Table 13-3. -/
def State.arrayTargetRun (s : State) (p : Pkt) (x : Sess) : State :=
  s.queueWrites arrayTargetOp p x [fieldOf Fd.CLK_ADN_LEVEL_target (p.num 0 1)] .plain []
/-- ARRAY_TARGET (R211, R379). -/
def execArrayTarget (p : Pkt) (s : State) : Out :=
  .next <| s.request arrayTargetOp p never always (fun _ => p.lenAnd 4 (decide (p.num 0 1 ≤ 7))) fun s x => s.arrayTargetRun p x

/-! ## Hamper, faults and logs -/

/-- The bytes of a record (R91). -/
def HmpRec.bytes (r : HmpRec) : List Nat :=
  beBytes 6 r.frame ++ [0, 128 * b2n r.trig + 64 * b2n r.gap] ++ r.words.flatMap fun w => beBytes 4 w.toNat

/-- Its row of Table 13-6. -/
def hamperReadOp : OpInfo := opRow 0x0601 oim false
/-- What HAMPER_READ does once its packet has passed Table 13-3. -/
def State.hamperReadRun (s : State) (p : Pkt) (x : Sess) : State :=
  let recs := ((s.hmp.recs.reverse.drop (p.num 0 4)).take (p.num 4 4)).map fun r => r.bytes
  let s := s.dramRead
  if 1048576 < recs.foldl (fun (n : Nat) r => n + r.length) 0 then s.okAsync hamperReadOp p x else s.okWith hamperReadOp p x (fitItems recs 8184)
/-- HAMPER_READ (R91, R376): records from an offset on, oldest first; a read of more than 1 MiB is only accepted. -/
def execHamperRead (p : Pkt) (s : State) : Out :=
  .next <| s.request hamperReadOp p never always (fun _ => p.len 8) fun s x => s.hamperReadRun p x

/-- Its row of Table 13-6. -/
def faultReadOp : OpInfo := opRow 0x0701 oim false
/-- What FAULT_READ does once its packet has passed Table 13-3. -/
def State.faultReadRun (s : State) (p : Pkt) (x : Sess) : State :=
  s.okRegs faultReadOp p x (regsIn (Reg.FLT_STAT (p.num 0 1)) (Reg.FLT_STAT (p.num 0 1) + 0x100))
/-- FAULT_READ (R441, R379): the fault window of a block. -/
def execFaultRead (p : Pkt) (s : State) : Out :=
  .next <| s.request faultReadOp p never always (fun _ => p.lenAnd 4 (decide (p.num 0 1 < 18))) fun s x => s.faultReadRun p x

/-- Its row of Table 13-6. -/
def faultAckOp : OpInfo := opRow 0x0702 oi true
/-- What FAULT_ACK does once its packet has passed Table 13-3. -/
def State.faultAckRun (s : State) (p : Pkt) (x : Sess) : State :=
  s.queueWrites faultAckOp p x [(Reg.FLT_STAT (p.num 0 1), 0x707, BitVec.ofNat 32 (p.num 4 4))] .plain []
/-- FAULT_ACK (R444). -/
def execFaultAck (p : Pkt) (s : State) : Out :=
  .next <| s.request faultAckOp p never always (fun _ => p.lenAnd 8 (decide (p.num 0 1 < 18))) fun s x => s.faultAckRun p x

/-- Its row of Table 13-6. -/
def logReadOp : OpInfo := opRow 0x0703 oim false
/-- What LOG_READ does once its packet has passed Table 13-3. -/
def State.logReadRun (s : State) (p : Pkt) (x : Sess) : State :=
  s.okWith logReadOp p x (Config.logEntries (p.num 0 4) (p.num 4 2))
/-- LOG_READ (R379): the firmware's own log, whose content the manual leaves open. -/
def execLogRead (p : Pkt) (s : State) : Out :=
  .next <| s.request logReadOp p never always (fun _ => p.len 8) fun s x => s.logReadRun p x

/-- Its row of Table 13-6. -/
def dumpReadOp : OpInfo := opRow 0x0704 [1, 2] false
/-- What DUMP_READ does once its packet has passed Table 13-3. -/
def State.dumpReadRun (s : State) (p : Pkt) (x : Sess) : State :=
  let s := s.dramRead
  if 1048576 < p.num 8 4 then s.okAsync dumpReadOp p x else
  match if h : p.num 0 1 < 4 then vget s.flt.dumps ⟨p.num 0 1, h⟩ else none with
  | some d => s.okWith dumpReadOp p x ((List.range (min 8184 (min (p.num 8 4) (d.length - p.num 4 4)))).map fun i => d.byte (p.num 4 4 + i))
  | none => s.okWith dumpReadOp p x []
/-- DUMP_READ (R461, R376): bytes of a dump; a read of more than 1 MiB is only accepted. -/
def execDumpRead (p : Pkt) (s : State) : Out :=
  .next <| s.request dumpReadOp p never always (fun _ => p.lenAnd 12 (decide (p.num 0 1 < 4))) fun s x => s.dumpReadRun p x

/-! ## The lockstep pair -/

/-- Its row of Table 13-6. -/
def healthReadOp : OpInfo := { opRow 0x0801 oim false with inHalt := true, minVer := 0x26 }
/-- What HEALTH_READ does once its packet has passed Table 13-3. -/
def State.healthReadRun (s : State) (p : Pkt) (x : Sess) : State :=
  s.okRegs healthReadOp p x ((List.range 16).map Reg.LKS_REPORT_OWN ++ (List.range 16).map Reg.LKS_REPORT_PARTNER)
/-- HEALTH_READ (R320): both reports. -/
def execHealthRead (p : Pkt) (s : State) : Out :=
  .next <| s.request healthReadOp p never always (fun _ => p.len 0) fun s x => s.healthReadRun p x

/-- An entry's bytes (R327). -/
def ClaimEntry.bytes (e : ClaimEntry) : List Nat := beBytes 6 e.frame ++ [e.old, e.new, e.cause] ++ List.replicate 7 0

/-- Its row of Table 13-6. -/
def claimHistoryOp : OpInfo := { opRow 0x0802 oim false with inHalt := true, minVer := 0x26 }
/-- What CLAIM_HISTORY does once its packet has passed Table 13-3. -/
def State.claimHistoryRun (s : State) (p : Pkt) (x : Sess) : State :=
  s.okWith claimHistoryOp p x (s.lks.history.flatMap fun e => e.bytes)
/-- CLAIM_HISTORY (R327): the ring, oldest entry first. -/
def execClaimHistory (p : Pkt) (s : State) : Out :=
  .next <| s.request claimHistoryOp p never always (fun _ => p.len 0) fun s x => s.claimHistoryRun p x

/-- Its row of Table 13-6. -/
def bertWindowOp : OpInfo := { opRow 0x0803 oi true with minVer := 0x30 }
/-- What BERT_WINDOW does once its packet has passed Table 13-3. -/
def State.bertWindowRun (s : State) (p : Pkt) (x : Sess) : State :=
  if !s.lks.partnerValid && s.anyUnder then s.answer bertWindowOp p x Status.refused 0x22 []
  else
    let was := s.link.bert
    let s := s.bertGrant (p.num 0 2)
    let started := if was == s.link.bert then 0 else if s.lks.partnerValid then 3 else 1
    s.okWith bertWindowOp p x [started, 0, 0, 0]
/-- BERT_WINDOW (R354): a window is granted, and the phases that it holds start. -/
def execBertWindow (p : Pkt) (s : State) : Out :=
  .next <| s.request bertWindowOp p never always (fun _ => p.len 4) fun s x => s.bertWindowRun p x

/-! ## Fault injection (R465, R466) -/

/-- Does a unit number name a unit (Table 16-2)? -/
def unitOk (u : Nat) : Bool :=
  let i := u % 256
  match u / 256 with
  | 0 => i == 0
  | 1 => decide (i < 16)
  | 2 => decide (i < 6)
  | 3 => decide (i < 4)
  | 4 => decide (i < 2)
  | 5 => decide (i < 4)
  | 6 => i == 0
  | 7 => decide (i < 3)
  | 8 => decide (i / 16 < 3 ∧ 1 ≤ i % 16 ∧ i % 16 ≤ 14)
  | 9 => decide (i < 16)
  | 10 => decide (i < 48)
  | 11 => decide (i < 32)
  | 12 => decide (i < 3)
  | 13 => decide (i < 26)
  | 14 => decide (i < 16)
  | 15 => decide (i < 4)
  | _ => false

/-- The operands of an injection within their ranges (R466). -/
def Pkt.injectOk (p : Pkt) : Bool :=
  match p.num 0 1 with
  | 1 => decide (p.num 1 1 < 18 ∧ p.num 2 1 < 4) && unitOk (p.num 4 2)
  | 2 => true
  | 3 => decide (p.num 8 1 < 4)
  | 4 => decide (p.num 1 1 < 18)
  | 5 => decide (p.num 6 2 = 1 ∨ p.num 6 2 = 2) &&
    (match p.num 8 1 with
     | 0 => decide (p.num 9 1 < 48 ∧ p.num 10 6 < 131072)
     | 1 => decide (p.num 9 7 < 16777216)
     | 2 => true
     | _ => false)
  | 6 => decide (p.num 8 1 < 2)
  | 7 => decide (p.num 8 1 < 2)
  | 8 => decide (p.num 8 1 < 11)
  | _ => false

/-- An injection waits no longer. -/
def State.dropInject (s : State) (pkt : Nat) : State := { s with sec := { s.sec with injectWaits := s.sec.injectWaits.filter fun v => v.1 != pkt } }
/-- An injection as it acts (Table 16-13). -/
def State.applyInject (s : State) (pkt : Nat) : State :=
  match s.sec.injectWaits.find? fun w => w.1 == pkt with
  | none => s
  | some w =>
    let s := s.dropInject pkt
    let num (off n : Nat) : Nat := beNat ((w.2.drop off).take n)
    let count := num 6 2
    let arg := num 8 1
    match num 0 1 with
    | 1 =>
      if h : num 1 1 < 18 then
        let s := s.recordAt ⟨num 1 1, h⟩ (num 3 1) (num 2 1) (num 4 2) 0 0 0xFE
        if num 2 1 = 2 then s.fenceUnit (num 4 2) else s
      else s
    | 2 => { s with lpe := { s.lpe with injectMissing := true } }
    | 3 => if h : arg < 4 then { s with flt := { s.flt with hung := vset s.flt.hung ⟨arg, h⟩ true } } else s
    | 4 => if h : num 1 1 < 18 then { s with flt := { s.flt with noAnswer := vset s.flt.noAnswer ⟨num 1 1, h⟩ count } } else s
    | 5 =>
      (match arg with
       | 0 => { s with arr := { s.arr with eccW := s.arr.eccW ++ [(num 9 1, num 10 6, count)] } }
       | 1 => { s with arr := { s.arr with eccA := s.arr.eccA ++ [(num 9 7, count)] } }
       | _ => { s with arr := { s.arr with eccD := s.arr.eccD ++ [(num 9 7, count)] } })
    | 6 => if h : arg < 2 then { s with pwr := { s.pwr with xtGate := vset s.pwr.xtGate ⟨arg, h⟩ (some count) } } else s
    | 7 => { s with pwr := { s.pwr with supplyInj := some arg } }
    | 8 =>
      if h : arg < 4 then s.uvTrip ⟨arg, h⟩
      else if h : arg - 4 < 4 then s.ovTrip ⟨arg - 4, h⟩
      else if h : arg - 8 < 3 then s.ocTrip ⟨arg - 8, h⟩ else s
    | _ => s

/-- Its row of Table 13-6. -/
def testOp : OpInfo := opRow 0x0F01 [2] true
/-- An injection waits for its packet's write. -/
def State.waitInject (s : State) (p : Pkt) : State :=
  { s with sec := { s.sec with injections := s.sec.injections + 1, injectWaits := s.sec.injectWaits ++ [(s.mgp.packets, p.payload)] } }
/-- What TEST_ACCESS does once its packet has passed Table 13-3. -/
def State.injectRun (s : State) (p : Pkt) (x : Sess) : State :=
  if !s.pins.testMode then s.answer testOp p x Status.refused 0x21 []
  else (s.waitInject p).queueWrites testOp p x [(actOwn + 0x2000, 0xFFFFFFFF, 0)] .plain (beBytes 4 (s.sec.injections + 1))
/-- TEST_ACCESS (R465, R466): the row's operation is `op`. It is refused outside test mode, and takes effect at the start of the next frame. -/
def State.testAccess (s : State) (p : Pkt) (op : Nat) : State :=
  s.request testOp p never always (fun _ => p.lenAnd 16 (p.injectOk && p.num 0 1 == op)) fun s x => s.injectRun p x

/-- INJECT_RECORD: a block records a fault, and its reaction follows. -/
def execInjectRecord (p : Pkt) (s : State) : Out := .next <| s.testAccess p 1
/-- INJECT_WRITE_CHECK: the next frame's write check counts one write as missing. -/
def execInjectWriteCheck (p : Pkt) (s : State) : Out := .next <| s.testAccess p 2
/-- INJECT_HANG: a supervisor core stops its beats until a COMPUTE reset. -/
def execInjectHang (p : Pkt) (s : State) : Out := .next <| s.testAccess p 3
/-- INJECT_TIMEOUT: a block leaves its next register accesses unanswered. -/
def execInjectTimeout (p : Pkt) (s : State) : Out := .next <| s.testAccess p 4
/-- INJECT_ECC: bits of an SRAM or of DRAM are flipped. -/
def execInjectEcc (p : Pkt) (s : State) : Out := .next <| s.testAccess p 5
/-- INJECT_CLOCK: a crystal input is gated. -/
def execInjectClock (p : Pkt) (s : State) : Out := .next <| s.testAccess p 6
/-- INJECT_SUPPLY: the supply measurement reads below a threshold. -/
def execInjectSupply (p : Pkt) (s : State) : Out := .next <| s.testAccess p 7
/-- INJECT_COMPARATOR: a Keeper comparator trips. -/
def execInjectComparator (p : Pkt) (s : State) : Out := .next <| s.testAccess p 8

/-! ## Commands that set no register, as they act -/

/-- The effect of a write under an address of `actBase` (R59). -/
def State.act (s : State) (w : PairWrite) : State :=
  let a := w.addr - actBase
  let v := w.val.toNat
  if w.addr < actBase then s
  else if a < 0x1000 then s.clearFence (a / 0x20) (a % 0x20)
  else if a < 0x2000 then s.clearStorage ((a - 0x1000) / 0x100) ((a - 0x1000) / 0x10 % 0x10) ((a - 0x1000) % 0x10)
  else if a < 0x3000 then
    (if h : a - 0x2000 < 63 then { s with wgl := { s.wgl with opLimit := vset s.wgl.opLimit ⟨a - 0x2000, h⟩ v } } else s)
  else if a < 0x4000 then (if h : a - 0x3000 < 3 then s.loadCapacity ⟨a - 0x3000, h⟩ v else s)
  else if w.addr < actOwn then s
  else if w.addr < actOwn + 0x1000 then (if h : w.addr - actOwn < 32 then s.unquarantine ⟨w.addr - actOwn, h⟩ else s)
  else if w.addr < actOwn + 0x2000 then s.applyKey w.pkt
  else s.applyInject w.pkt

end Sys2Proof.Machine
end

