-- ==== Sys2Proof/Machine/Telemetry.lean ====
section
/-! DEFINITION. The telemetry assembler (R205, R206): the channels of Table 08-3, their histories, and the frames that the baskets read. -/

namespace Sys2Proof.Machine

/-- A value every frame. -/
def every (q : Frac) : Option Frac := some q
/-- A value that is updated once, in the frame where `now` holds. -/
def onceAt (now : Bool) (q : Frac) : Option Frac := if now then some q else none

/-- Stage telemetry (Table 08-3, class 1), in A, V and °C. -/
def State.stageChannel (s : State) (n f : Nat) : Option Frac :=
  if h : n < 26 then
    if !s.stageDecl n then none
    else if f = 1 then some ⟨s.sentRef ⟨n, h⟩, 4096⟩
    else match s.teleOf n with
      | none => none
      | some t => match f with
        | 0 => some ⟨t.outI, 4096⟩
        | 2 => some ⟨t.outV, 64⟩
        | 3 => some ⟨t.temp, 8⟩
        | 4 => some ⟨t.inI, 4096⟩
        | _ => some (Frac.ofInt (b2n t.prot))
  else none

/-- A tray lane's values (class 3). The lane's step phase is counted from its last release, in periods. -/
def State.laneChannel (s : State) (t f : Nat) : Option Frac :=
  if !s.laneDecl t then none else
  match f with
  | 0 => match (s.lane t).lastGo, s.lanePeriod t with
    | some g, some p => some ⟨(s.time.frameStart : Int) - g, p.toNat⟩
    | _, _ => none
  | 1 => (s.lane t).period.map Frac.ofInt
  | 2 => every (Frac.ofInt (b2n (s.lane t).arm.isSome))
  | 3 => every (match (s.lane t).arm with
    | some a => a.rise
    | none => Frac.zero)
  | 4 => every (Frac.ofInt (s.get (Fd.WGL_LANE_TX_ceil t)))
  | _ => every (Frac.ofInt (s.get (Fd.WGL_LANE_TX_allow t)))

/-- A zone's values (class 4). -/
def State.zoneChannel (s : State) (z f : Nat) : Option Frac :=
  if !s.zoneDecl z then none else
  match f with
  | 0 => every (s.zonePower z)
  | 1 => every (Frac.ofInt (s.get (Fd.FFW_ZONE_STAT_bin z)))
  | 2 => every (s.getBF (Reg.FFW_GAIN z)).frac
  | _ => every (Frac.ofInt (s.get (Fd.WGL_PGOOD_level z)))

/-- The estimator's values (classes 7 and 8): fractions, per cent, mAh and ohms. -/
def State.estChannel (s : State) (id : Nat) : Option Frac :=
  let now := s.sweepFrame == 1
  let el (n : Nat) : Frac := match s.est.record[n / 16]? with
    | some b => b.elem .bf16 (n % 16)
    | none => Frac.zero
  let have' := !s.est.record.isEmpty
  let i := id % 4096
  if id / 4096 = 8 then onceAt (now && have' && s.strDecl (i / 224)) (el (6 * i + 5))
  else if i < 672 then onceAt (now && have' && s.strDecl (i / 224)) (s.est.zs.getD i Frac.zero)
  else if i < 675 then onceAt (now && s.strDecl (i - 672)) ⟨s.get (Fd.EST_STR_SOC_soc_str (i - 672)), 100⟩
  else onceAt (now && s.strDecl (i - 675)) (Frac.ofInt (s.get (Fd.EST_STR_CAP_cap (i - 675))))

/-- A channel's value of the frame (Table 08-3), where the frame gives one. A channel that is updated more slowly gives one when it is. -/
def State.channelValue (s : State) (id : Nat) : Option Frac :=
  let i := id % 4096
  match id / 4096 with
  | 0 => every (s.cal i).frac
  | 1 => s.stageChannel (i / 8) (i % 8)
  | 2 => every (if i % 16 = 11 then Frac.ofInt (s.get (Fd.LPE_FOLLOW_STAT_timer (i / 16))) else (BF24.ofWord (s.loopNode (i / 16) (i % 16))).frac)
  | 3 => s.laneChannel (i / 8) (i % 8)
  | 4 => s.zoneChannel (i / 4) (i % 4)
  | 5 => onceAt (s.sweepFrame == 1025 && s.strDecl (i / 224) && !s.flag (Fd.CHN_CELL_stale (i / 224) (i % 224)))
      ⟨s.get (Fd.CHN_CELL_volt (i / 224) (i % 224)), 10000⟩
  | 6 => onceAt (s.sweepFrame == 1025 && s.strDecl (i / 16) && !(s.flag (Fd.CHN_CELL_stale (i / 16) (16 * (i % 16)))))
      ⟨sext 16 (s.get (Fd.CHN_NODE_MEAS_temp (i / 16) (i % 16 + 1))), 8⟩
  | 7 => s.estChannel id
  | 8 => s.estChannel id
  | _ => none

/-- Is the element of a channel not declared, so that the channel has no value (R225)? -/
def State.channelOff (s : State) (id : Nat) : Bool :=
  let i := id % 4096
  match id / 4096 with
  | 1 => !s.stageDecl (i / 8)
  | 3 => !s.laneDecl (i / 8)
  | 4 => !s.zoneDecl (i / 4)
  | 5 => !s.strDecl (i / 224)
  | 6 => !s.strDecl (i / 16)
  | 7 => !s.strDecl (if i < 672 then i / 224 else if i < 675 then i - 672 else i - 675)
  | 8 => !s.strDecl (i / 224)
  | _ => false

/-- The frames of a span. -/
def spanLen (k : Nat) : Nat := 16 ^ k

/-- One frame of one span (R205, R206). A span in which a frame is missing, because of a COMPUTE reset or because the history began within it,
takes the last mean before it and is not valid. -/
def SpanHist.step (h : SpanHist) (k frame : Nat) (v : Option (Option Frac)) : SpanHist :=
  let h := match v with
    | none => h
    | some q => { h with sum := (h.sum.add (q.getD Frac.zero)).norm, n := h.n + 1, bad := h.bad || q.isNone }
  if (frame + 1) % spanLen k ≠ 0 then h
  else
    let whole := decide (h.n = spanLen k)
    let before : Frac := match h.means with
      | m :: _ => m.2.1
      | [] => Frac.zero
    let mean := if whole then (h.sum.mul ⟨1, spanLen k⟩).norm else before
    { sum := Frac.zero, n := 0, bad := false, means := ((frame + 1, mean, whole && !h.bad) :: h.means).take 272 }

/-- The channels that the admitted baskets read (R206). -/
def State.channelsRead (s : State) : List Nat := ((s.framesOf none).flatMap fun e => e.2.chans).eraseDups

/-- The assembler takes every named channel's value of the frame at cycle 620. A COMPUTE reset leaves a gap. -/
def State.sampleChannels (s : State) : State :=
  let down := s.computeDown
  let one (id : Nat) : ChanHist :=
    let h : ChanHist := (s.arr.hist.find? fun (h : ChanHist) => h.id == id).getD { id := id, last := none, spans := vall 4 .reset }
    let last := if down || s.channelOff id then none else match s.channelValue id with
      | some q => some q
      | none => h.last
    { id := id, last := last, spans := Vector.ofFn fun (k : Fin 4) => (vget h.spans k).step k s.time.frame (if down then none else some last) }
  { s with arr := { s.arr with hist := s.channelsRead.map one } }

/-- The rows of one channel in a telemetry frame, oldest first, each with its validity, as of frame `start`. -/
def ChanHist.rows (h : ChanHist) (span n start : Nat) : List (Frac × Bool) :=
  if hk : span < 4 then
    let ms := (((vget h.spans ⟨span, hk⟩).means.filter fun m => decide (m.1 ≤ start)).take n).map fun m => (m.2.1, m.2.2)
    (ms ++ List.replicate (n - ms.length) (Frac.zero, false)).reverse
  else []

/-- Blocks of 16 channels, the last filled with zeros. -/
def rowBlocks (f : ArrFmt) (xs : List Frac) : List ArrBlock :=
  (List.range (ceilDiv xs.length 16)).map fun i => (toBlock f ((List.range 16).map fun j => xs.getD (16 * i + j) Frac.zero)).1

/-- Assemble one telemetry frame (R205), as of frame `start`. -/
def State.assemble (s : State) (start : Nat) (d : InDecl) : TeleFrame :=
  let n := 2 ^ d.rowsLog2
  let cols : List (List (Frac × Bool) × Bool) := d.chans.map fun id => match s.arr.hist.find? fun (h : ChanHist) => h.id == id with
    | some h => (h.rows d.span n start, h.last.isSome)
    | none => (List.replicate n (Frac.zero, false), false)
  { decl := d
    rows := (List.range n).map fun r => rowBlocks d.fmt (cols.map fun c => (c.1.getD r (Frac.zero, false)).1)
    invalid := cols.map fun c => !c.2 || c.1.any fun e => !e.2 }

/-- TELEMETRY_ASSEMBLE (R205 to R207): within frames 0 to 15 of a forecast frame the telemetry frames of the admitted baskets are assembled, as of
the forecast frame's start. -/
def execTelemetryAssemble (s : State) : Out :=
  .next <|
    if decide (16 ≤ s.fcFrame) || s.computeDown then s
    else { s with arr := { s.arr with frames := (s.framesOf none).map fun e => s.assemble (s.time.frame - s.fcFrame) e.2 } }

end Sys2Proof.Machine
end

