-- ==== Sys2Proof/Machine/Startup.lean ====
section
/-! DEFINITION. Start configuration (chapter 18, R494, R495; R453): the saved record, the restore of the pair state, and the start order. -/

namespace Sys2Proof.Machine

/-! ## What is saved and restored -/

/-- The feed-forward tables: zone, buffer, and offset of an entry's word within a buffer. -/
def ffwTable (a : Nat) : Option (Nat × Nat × Nat) :=
  if 0x40038000 ≤ a ∧ a < 0x40040000 then some ((a - 0x40038000) / 0x2000, (a - 0x40038000) % 0x2000 / 0x1000, (a - 0x40038000) % 0x1000)
  else none
/-- The address of a word of a buffer. -/
def ffwWord (z k off : Nat) : Nat := 0x40038000 + 0x2000 * z + 0x1000 * k + off

/-- Is a register one of a coefficient set: loop and set? -/
def csetOf (a : Nat) : Option (Nat × Nat) :=
  if 0x40011000 ≤ a ∧ a < 0x40011000 + 0x400 * 7 ∧ 0x100 ≤ (a - 0x40011000) % 0x400 ∧ (a - 0x40011000) % 0x400 < 0x200 then
    some ((a - 0x40011000) / 0x400, (a - 0x40011000) % 0x400 % 0x100 / 0x40)
  else none

/-- The mask of the fields of a row that a condition names. -/
def fieldsMask (p : FieldRow → Bool) : List FieldRow → Nat
  | [] => 0
  | f :: fs => (if p f then (2 ^ f.len - 1) * 2 ^ f.lo else 0) + fieldsMask p fs

/-- The mask of the fields that the record holds (R494): the RW fields of pair blocks, the installer fields of module blocks, and FLT_CFG. -/
def savedMask (a : Nat) : Word :=
  match blockOf a, regRow a with
  | some b, some r =>
    if a == Reg.FLT_CFG b || pairReg a then BitVec.ofNat 32 (fieldsMask (fun f => f.acc == .rw) r.fields)
    else if pairBlock b then 0
    else BitVec.ofNat 32 (fieldsMask (fun f => f.acc == .rw && f.installer) r.fields)
  | _, _ => 0

/-- The words of the record: feed-forward tables are those of the active buffer, held under the addresses of buffer 0. -/
def State.savedWords (s : State) : Regs :=
  s.regs.foldl (fun (l : Regs) e =>
    match ffwTable e.1 with
    | some (z, k, off) => if k = s.get (Fd.FFW_ZONE_STAT_active_buf z) then l.set (ffwWord z 0 off) e.2 else l
    | none => if savedMask e.1 = 0 then l else l.set e.1 (e.2 &&& savedMask e.1)) []

/-- The bytes of the record, over which its digest is formed. -/
def CfgRec.bytes (c : CfgRec) : List Nat :=
  beBytes 4 c.baseline ++ (c.words.flatMap fun e => beBytes 4 e.1 ++ beBytes 4 e.2.toNat) ++ c.baskets.flatMap fun e => [e.1, e.2]

/-- Save the configuration (R494); refused while the brown-out warning is asserted. -/
def State.saveConfig (s : State) : State :=
  if s.flag Fd.KPR_SUPPLY_STAT_bow then s else
  let c : CfgRec := { words := s.savedWords, baseline := s.baseline
                      baskets := ((List.range 32).filter fun i => s.admitted i).map fun i => (i, s.get (Fd.MDL_SLOT_STAT_variant i)) }
  let s := { s with cfg := { s.cfg with record := some c } }
  ((s.bump Fd.SUP_CFG_STAT_saves).setFlag Fd.SUP_CFG_STAT_valid true).wr Reg.SUP_CFG_DIGEST
    (BitVec.ofNat 32 (beNat ((Config.sha3 c.bytes).take 4)))

/-- Delete the saved record. -/
def State.eraseConfig (s : State) : State :=
  ({ s with cfg := { s.cfg with record := none } }.setFlag Fd.SUP_CFG_STAT_valid false).wr Reg.SUP_CFG_DIGEST 0

/-- CONFIG_SAVE (R494): the write of save is stamped here. -/
def execConfigSave (s : State) : Out := .next <| s.enqueue (fieldWrite Fd.SUP_CFG_CTRL_save 1)
/-- CONFIG_ERASE (R494): the write of erase is stamped here. -/
def execConfigErase (s : State) : Out := .next <| s.enqueue (fieldWrite Fd.SUP_CFG_CTRL_erase 1)

/-- DECLARATION_WRITE (R497): a write of ZFB_DECL_PWR or of ZFB_DECL_OS is stamped here; it is judged when it takes effect. -/
def execDeclarationWrite (pwr : Bool) (val : Word) (s : State) : Out :=
  .next <| s.enqueue (plainWrite (if pwr then Reg.ZFB_DECL_PWR else Reg.ZFB_DECL_OS) 0xFFFFFFFF val)

/-! ## Restore (R453, R495) -/

/-- The fields withheld from a restore: every loop enable, the set selection, which the restore makes itself, and with autostart the bindings. -/
def withheld (autostart : Bool) (a : Nat) : Word :=
  match regRow a with
  | some r => if r.name = "LPE_LOOP_CTRL" then 0x31 else if r.name = "ZFB_OS" && autostart then 0x00700000 else 0
  | none => 0

/-- The write that brings a register to a restored word; none where it stands so. -/
def State.restoreWrite (s : State) (src : Regs) (pairOnly autostart : Bool) (a : Nat) : Option PairWrite :=
  let m := (if pairOnly && !pairReg a then 0 else savedMask a) &&& ~~~(withheld autostart a)
  if m = 0 || (s.rd a ^^^ src.get a) &&& m = 0 then none else some (plainWrite a m (src.get a))

/-- Coefficient sets (R79, R80): the sets that are not active are written, another one is made active while the active one is written, and the saved
selection is made at last. -/
def State.restoreSets (s : State) (src : Regs) : List PairWrite :=
  (List.range 7).flatMap fun l =>
    let a := s.get (Fd.LPE_LOOP_CTRL_active_set l)
    let regs (i : Nat) : List PairWrite := (List.range 9).filterMap fun k => s.restoreWrite src true false (Reg.LPE_CSET_CTRL l i + 4 * k)
    let switch (i : Nat) : PairWrite := plainWrite (Reg.LPE_LOOP_CTRL l) 0x38 (BitVec.ofNat 32 (16 * i + 8))
    let others := ((List.range 4).filter fun i => i != a).flatMap regs
    let saved := getBits (src.get (Reg.LPE_LOOP_CTRL l)) 4 2
    others ++ (if (regs a).isEmpty then [] else switch ((a + 1) % 4) :: regs a) ++ [switch saved]

/-- Feed-forward tables enter the inactive buffer, with a commit requested. `from'` is the buffer of the source that was active. -/
def State.restoreTables (s : State) (src : Regs) (from' : Nat → Nat) : List PairWrite :=
  (List.range 4).flatMap fun z =>
    let k := 1 - s.get (Fd.FFW_ZONE_STAT_active_buf z)
    ((List.range 1024).filterMap fun i =>
      let w := src.get (ffwWord z (from' z) (4 * i))
      if s.rd (ffwWord z k (4 * i)) = w then none else some (plainWrite (ffwWord z k (4 * i)) 0xFFFFFFFF w))
      ++ [fieldWrite (Fd.FFW_ZONE_CTRL_commit z) 1]

/-- The registers that a restore writes for themselves: declarations first, and a model's valid bit last, since it locks its window. -/
def declRegs : List Nat := [Reg.ZFB_DECL_OS, Reg.ZFB_DECL_PWR]
def validRegs : List Nat := (List.range 3).map Reg.EST_MODEL_CTRL

/-- The writes of a restore from a source of words. -/
def State.restoreWrites (s : State) (src : Regs) (pairOnly autostart : Bool) (from' : Nat → Nat) : List PairWrite :=
  let one := s.restoreWrite src pairOnly autostart
  let all := (src.map fun e => e.1) ++ ((s.regs.map fun e => e.1).filter fun a => (src.find a).isNone)
  let rest := all.filter fun a => (ffwTable a).isNone && (csetOf a).isNone && !declRegs.contains a && !validRegs.contains a && blockOf a != some 0
  let flt := if pairOnly then [] else (one (Reg.FLT_CFG 0)).toList
  declRegs.filterMap one ++ rest.filterMap one ++ flt ++ s.restoreSets src ++ s.restoreTables src from' ++ validRegs.filterMap one

/-- Ask for the saved baskets again, where their slots hold a package. -/
def State.restoreSlots (s : State) (l : List (Nat × Nat)) : State :=
  l.foldl (fun (s : State) e => if h : e.1 < 32 then (if s.slotState e.1 = 1 then s.requestBind ⟨e.1, h⟩ e.2 [] false else s) else s) s

/-- What a restore withholds, for the start order. -/
def State.holdBack (s : State) (src : Regs) : State :=
  { s with cfg := { s.cfg with zones := Vector.ofFn fun (k : Fin 16) => getBits (src.get (Reg.ZFB_OS k)) 20 3
                               enables := Vector.ofFn fun (l : Fin 7) => getBits (src.get (Reg.LPE_LOOP_CTRL l)) 0 1 == 1 } }

/-- Is the record to be applied: it was saved under the running firmware's major baseline (R494)? -/
def State.usableRecord (s : State) : Option CfgRec :=
  match s.cfg.record with
  | some c => if c.baseline / 2 ^ 24 = s.baseline / 2 ^ 24 then some c else none
  | none => none

/-- Is a restore due (R453, R495): the claimant's at start-up, and before valid on a module without a partner after a reset of LOOP or LINKS? -/
def State.restoreDue (s : State) : Bool :=
  !s.cfg.restored && s.cfg.queue.isEmpty && s.pwr.startDone && (s.lks.claimant || (s.cfg.gate && !s.lks.partnerValid))

/-- CONFIG_RESTORE (R453, R495): the pair state is restored from the saved record, or from the supervisor's copy in DRAM. The writes wait for the
input sets. With nothing to apply the restore is complete at once, and no start order follows it. -/
def execConfigRestore (s : State) : Out :=
  .next <|
    if !s.restoreDue then s else
    let auto := s.flag Fd.SUP_CFG_CTRL_autostart
    if s.cfg.fromRecord then
      match s.usableRecord with
      | none => { s with cfg := { s.cfg with restored := true, gate := false, step := .done } }
      | some c =>
        let s := (s.holdBack c.words).restoreSlots c.baskets
        { s with cfg := { s.cfg with queue := s.restoreWrites c.words false auto fun _ => 0 } }
    else
      let src := s.flt.configImage
      let s := s.holdBack src
      { s with cfg := { s.cfg with queue := s.restoreWrites src true auto fun z => getBits (src.get (Reg.FFW_ZONE_STAT z)) 0 1 } }

/-- The last write of a restore has taken effect: the module is no longer held back, and the start order begins where autostart is 1. -/
def State.restoreEnd (s : State) : State :=
  let s := { s with cfg := { s.cfg with restored := true, gate := false
                                        step := if s.flag Fd.SUP_CFG_CTRL_autostart then .bind 0 else .done } }
  if s.cfg.fromRecord then s.setFlag Fd.SUP_CFG_STAT_applied true else s

/-! ## The start order (R495) -/

/-- The stages with a saved zone, in ascending order. -/
def State.savedStages (s : State) : List (Fin 16) :=
  (List.finRange 16).filter fun (k : Fin 16) => s.osDecl k && decide (vget s.cfg.zones k < 4)
/-- Has the present step not ended: its writes still wait, or its batch runs? -/
def State.stepRuns (s : State) : Bool :=
  s.zfb.batchOn || s.zfb.goReq || s.wq.any fun w => w.pkt == 0 && (w.addr == Reg.ZFB_COMB_CTRL || (List.range 7).any fun l => w.addr == Reg.LPE_LOOP_CTRL l)
/-- Enable loops, as writes of the present frame. -/
def State.enableLoops (s : State) (ls : List Nat) : State :=
  ls.foldl (fun (s : State) l => s.enqueue (fieldWrite (Fd.LPE_LOOP_CTRL_enable l) 1)) s

/-- AUTOSTART_STEP (R495): the claimant's next step, once the one before has ended: the batches, L4, L5 and L6 in the modes that the restore has
written, and the zone loops that were enabled. -/
def execAutostartStep (s : State) : Out :=
  .next <|
    if !s.lks.claimant || s.stepRuns then s else
    let goTo (s : State) (x : AutoStep) : State := { s with cfg := { s.cfg with step := x } }
    match s.cfg.step with
    | .none => s
    | .done => s
    | .bind b =>
      match (s.savedStages.drop (b * s.batchSize)).take s.batchSize with
      | [] => goTo (s.enableLoops [4]) .link
      | ks =>
        let s := ks.foldl (fun (s : State) (k : Fin 16) => s.enqueue (fieldWrite (Fd.ZFB_OS_next_zone k) (vget s.cfg.zones k))) s
        goTo (s.enqueue (fieldWrite Fd.ZFB_COMB_CTRL_go 1)) (.bind (b + 1))
    | .link => goTo (s.enableLoops [5, 6]) .grid
    | .grid => goTo (s.enableLoops ((List.range 4).filter fun l => if h : l < 7 then vget s.cfg.enables ⟨l, h⟩ else false)) .zones
    | .zones => goTo s .done

end Sys2Proof.Machine
end

