-- ==== Sys2Proof/Machine/Writes.lean ====
section
/-! DEFINITION. A register write as it takes effect (R59, R301, R382): what a chapter lets a write change, the word it leaves, and what it sets
off. The commands that stamp a write are here or with their chapters; every write takes effect at the start of a frame. -/

namespace Sys2Proof.Machine

/-- The bits of a field. -/
def Fld.mask (f : Fld) : Word := putBits 0 f.lo f.len (2 ^ f.len - 1)
/-- Does a write touch a field? -/
def Fld.touched (f : Fld) (mask : Word) : Bool := f.mask &&& mask != 0
/-- A field of a word. -/
def Fld.of (f : Fld) (w : Word) : Nat := getBits w f.lo f.len
/-- Is a bit written 1? -/
def Fld.set (f : Fld) (mask val : Word) : Bool := f.of (mask &&& val) != 0

/-! ## What a write may change -/

/-- Is a block's domain in reset? The Keeper's block is in none, and the fault window stays readable and writable (R441, R451). -/
def State.blockDown (s : State) (b : Nat) : Bool := (List.finRange 4).any fun (d : Fin 4) => s.inReset d && (domainBlocks d).contains b

/-- Would new declarations of output stages undeclare one under command (R497)? -/
def State.osDeclBad (s : State) (new : Nat) : Bool :=
  (List.finRange 16).any fun (k : Fin 16) => s.osDecl k && !bit new k && s.stageUnder (k.castLE (by decide))

/-- Is a stage of a zone under command? -/
def State.zoneUnder (s : State) (z : Nat) : Bool :=
  (List.finRange 16).any fun (k : Fin 16) => s.osZone k == z && s.stageUnder (k.castLE (by decide))

/-- Would a new word of ZFB_DECL_PWR undeclare or regroup what is under command (R497)? -/
def State.pwrDeclBad (s : State) (w : Word) : Bool :=
  let fe := Fd.ZFB_DECL_PWR_fe.of w
  let grp := Fd.ZFB_DECL_PWR_fe_group.of w
  let str := Fd.ZFB_DECL_PWR_strings.of w
  let zn := Fd.ZFB_DECL_PWR_zones.of w
  let under (n : Nat) : Bool := if h : n < 26 then s.stageUnder ⟨n, h⟩ else false
  ((List.range 4).any fun k => s.feDecl k && under (22 + k) && (!bit fe k || b2n (bit grp k) != s.feGroup k))
    || ((List.range 3).any fun i => s.strDecl i && !bit str i && (under (16 + 2 * i) || under (17 + 2 * i)))
    || (List.range 4).any fun z => s.zoneDecl z && !bit zn z && s.zoneUnder z

/-- Does a new reach of a stage take away a zone that it is bound to or sequences towards (R127)? -/
def State.reachBad (s : State) (k : Fin 16) (new : Nat) : Bool :=
  let lost (z : Nat) : Bool := decide (z < 4) && bit (s.get (Fd.ZFB_OS_reach k)) z && !bit new z
  lost (s.osZone k) || (s.inSequence k && lost (s.os k).dst)

/-- The bits of a write that have an effect, by the register's name and index: a chapter's rule may take away a field, or all. -/
def State.writable (s : State) (name : String) (a : Nat) (mask val : Word) : Word :=
  let nw := mergeMask (s.rd a) mask val
  let but (f : Fld) : Word := mask &&& ~~~f.mask
  match name with
  | "SNS_SYNC_CTRL" => if 2 ≤ Fd.SNS_SYNC_CTRL_mode.of nw then but Fd.SNS_SYNC_CTRL_mode else mask
  | "ZFB_OS" =>
    let k := (a - Reg.ZFB_OS 0) / 4
    if h : k < 16 then
      let m := if s.osDecl k then mask else but (Fd.ZFB_OS_next_zone k)
      if s.reachBad ⟨k, h⟩ ((Fd.ZFB_OS_reach k).of nw) then m &&& ~~~(Fd.ZFB_OS_reach k).mask else m
    else 0
  | "ZFB_STR" =>
    let i := (a - Reg.ZFB_STR 0) / 4
    if s.strDecl i && bit ((Fd.ZFB_STR_allowed i).of nw) ((Fd.ZFB_STR_next_duty i).of nw) then mask else but (Fd.ZFB_STR_next_duty i)
  | "ZFB_LANE" =>
    let t := (a - Reg.ZFB_LANE 0) / 4
    if (Fd.ZFB_LANE_declared t).of nw == 1 then mask else but (Fd.ZFB_LANE_next_group t)
  | "ZFB_DECL_OS" => if s.osDeclBad (Fd.ZFB_DECL_OS_os.of nw) then 0 else mask
  | "ZFB_DECL_PWR" => if s.pwrDeclBad nw then 0 else mask
  | "LKS_WDOG_CTRL" =>
    if s.flag Fd.LKS_WDOG_STAT_booting && !s.flt.expectWritten then mask else but Fd.LKS_WDOG_CTRL_hb_expect
  | "ADN_CORE_TEST" => but (Fd.ADN_CORE_TEST_test_run ((a - Reg.ADN_CORE_TEST 0) / 0x10))
  | "EST_MODEL_CTRL" =>
    let r := (a - Reg.EST_MODEL_CTRL 0) / 0x100
    if s.flag (Fd.EST_MODEL_CTRL_valid r) then mask &&& (Fd.EST_MODEL_CTRL_valid r).mask else mask
  | _ =>
    match csetOf a, ffwTable a with
    | some (l, i), _ => if i = s.get (Fd.LPE_LOOP_CTRL_active_set l) then 0 else mask
    | none, some (z, k, _) => if k = s.get (Fd.FFW_ZONE_STAT_active_buf z) then 0 else mask
    | none, none =>
      if 0x400B1000 ≤ a ∧ a < 0x400B1300 then (if s.flag (Fd.EST_MODEL_CTRL_valid ((a - 0x400B1000) / 0x100)) then 0 else mask)
      else if blockOf a = some 12 && s.hamperBusy && !decide (0x7F00 ≤ a % 0x10000 ∧ a % 0x10000 < 0x8000) then
        (if a = Reg.HMP_CTRL then mask &&& 7 else 0)
      else mask

/-! ## What a write sets off -/

/-- The entry of an element that is no longer declared returns to its reset state (R123), its installer fields apart. -/
def State.clearOsEntry (s : State) (k : Fin 16) : State :=
  ((((s.put (Fd.ZFB_OS_next_zone k) 4).put (Fd.ZFB_OS_zone k) 4).putOs k 0 0).put (Fd.ZFB_OS_fence_cause k) 0).setOs k .reset
def State.clearStrEntry (s : State) (i : Nat) : State :=
  let r (f : Fld) (s : State) : State := s.put f (f.of (resetWord f.addr))
  r (Fd.ZFB_STR_duty i) (r (Fd.ZFB_STR_next_duty i) s)
def State.clearLaneEntry (s : State) (t : Nat) : State := (s.put (Fd.ZFB_LANE_next_group t) 63).put (Fd.ZFB_LANE_group t) 63

/-- Changed declarations: entries that are no longer declared return to their reset state, and a new front-end stage has full weight (R19). -/
def State.declared (s t : State) : State :=
  let t := (List.finRange 16).foldl (fun (t : State) (k : Fin 16) => if s.osDecl k && !t.osDecl k then t.clearOsEntry k else t) t
  let t := t.each 3 fun i t => if s.strDecl i && !t.strDecl i then t.clearStrEntry i else t
  { t with zfb := { t.zfb with feW := Vector.ofFn fun (k : Fin 4) => if t.feDecl k && !s.feDecl k then 512 else vget t.zfb.feW k } }

/-- The end of a port's sessions, where its addressing has changed (R383). -/
def State.portChanged (s t : State) (p : Nat) (a : Nat) (bits : Word) : State :=
  if (s.rd a ^^^ t.rd a) &&& bits = 0 then t else t.endSessions fun x => x.port.val == p

/-- A ceiling word is written: the last one's fresh bit counts (R182, R183). -/
def State.ceilWritten (s : State) (group : Bool) (i : Nat) : State :=
  if group then s.setGroupCeil i { s.groupCeil i with fresh := s.flag (Fd.WGL_GROUP_NEXT_fresh i) }
  else s.setZoneCeil i { s.zoneCeil i with fresh := s.flag (Fd.WGL_ZONE_NEXT_fresh i) }

/-- What a write sets off, `s` being the state before it, and `t` the state with the register's new word. -/
def State.setsOff (s t : State) (name : String) (a : Nat) (mask val : Word) : State :=
  let b := (a - 0x40000000) / 0x10000
  match name with
  | "LPE_LOOP_CTRL" =>
    let l := (a - Reg.LPE_LOOP_CTRL 0) / 0x400
    if (Fd.LPE_LOOP_CTRL_switch_set l).set mask val then t.put (Fd.LPE_LOOP_CTRL_active_set l) (t.get (Fd.LPE_LOOP_CTRL_next_set l)) else t
  | "LPE_LOOP_MANUAL" =>
    let l := (a - Reg.LPE_LOOP_MANUAL 0) / 0x400
    t.setLoop l { t.loop l with manWritten := true }
  | "FFW_ZONE_CTRL" =>
    let z := (a - Reg.FFW_ZONE_CTRL 0) / 0x20
    if (Fd.FFW_ZONE_CTRL_commit z).set mask val then t.setFlag (Fd.FFW_ZONE_STAT_commit_pending z) true else t
  | "FFW_PP_CTRL" => if s.flag Fd.FFW_PP_CTRL_en && !t.flag Fd.FFW_PP_CTRL_en then t.each 16 fun i t => t.ppFall i else t
  | "ZFB_COMB_CTRL" =>
    { t with zfb := { t.zfb with goReq := t.zfb.goReq || Fd.ZFB_COMB_CTRL_go.set mask val
                                 abortReq := t.zfb.abortReq || Fd.ZFB_COMB_CTRL_abort.set mask val } }
  | "ZFB_STR" =>
    let i := (a - Reg.ZFB_STR 0) / 4
    let d := (Fd.ZFB_STR_next_duty i).of (mergeMask (s.rd a) mask val)
    if !(Fd.ZFB_STR_next_duty i).touched mask || !s.strDecl i then t
    else if bit (t.get (Fd.ZFB_STR_allowed i)) d then
      (if h : i < 3 then { t with zfb := { t.zfb with dutyReq := vset t.zfb.dutyReq ⟨i, h⟩ (some d) } } else t)
    else t.refuse 7
  | "ZFB_LANE" =>
    let i := (a - Reg.ZFB_LANE 0) / 4
    if s.laneDecl i && !t.laneDecl i then t.clearLaneEntry i else t
  | "ZFB_DECL_OS" => s.declared t
  | "ZFB_DECL_PWR" => s.declared t
  | "STL_LANE_CTRL" =>
    let n := (a - Reg.STL_LANE_CTRL 0) / 0x40
    if (Fd.STL_LANE_CTRL_retrain n).set mask val && s.get (Fd.STL_LANE_STAT_state n) != 0 then t.put (Fd.STL_LANE_STAT_state n) 1 else t
  | "STL_BERT_CTRL" => t.bertWrite (Fd.STL_BERT_CTRL_commission.set mask val) (Fd.STL_BERT_CTRL_abort.set mask val)
  | "WGL_LANE_CTRL" =>
    let i := (a - Reg.WGL_LANE_CTRL 0) / 0x20
    if (Fd.WGL_LANE_CTRL_clear i).set mask val then t.clearLane i else t
  | "WGL_GROUP_NEXT" => t.ceilWritten true ((a - Reg.WGL_GROUP_NEXT 0) / 4)
  | "WGL_ZONE_NEXT" => t.ceilWritten false ((a - Reg.WGL_ZONE_NEXT 0) / 4)
  | "CHN_CTRL" => t.rescanReq (Fd.CHN_CTRL_rescan.of (mask &&& val))
  | "CHN_OWT_REQ" => t.owtReq (Fd.CHN_OWT_REQ_owt_now.of (mask &&& val))
  | "SNS_SYNC_CTRL" =>
    if s.get Fd.SNS_SYNC_CTRL_mode = t.get Fd.SNS_SYNC_CTRL_mode then t else { t with time := { t.time with restartAlign := true } }
  | "SNS_SYNC_OFFSET" =>
    if s.get Fd.SNS_SYNC_OFFSET_offset = t.get Fd.SNS_SYNC_OFFSET_offset then t else { t with time := { t.time with restartAlign := true } }
  | "ADN_CORE_CTRL" =>
    let k := (a - Reg.ADN_CORE_CTRL 0) / 0x10
    if h : k < 48 then t.coreCtrl ⟨k, h⟩ ((Fd.ADN_CORE_CTRL_fence k).set mask val) ((Fd.ADN_CORE_CTRL_unfence k).set mask val) else t
  | "ADN_CORE_TEST" =>
    let k := (a - Reg.ADN_CORE_TEST 0) / 0x10
    if !(Fd.ADN_CORE_TEST_test_run k).touched mask then t
    else if h : k < 48 then t.testRun ⟨k, h⟩ ((Fd.ADN_CORE_TEST_test_run k).set mask val) else t
  | "EST_CTRL" => t.discardAnchors (Fd.EST_CTRL_discard_anchor.of (mask &&& val))
  | "EST_MODEL_CTRL" =>
    let r := (a - Reg.EST_MODEL_CTRL 0) / 0x100
    if h : r < 3 then t.modelValid ⟨r, h⟩ (s.flag (Fd.EST_MODEL_CTRL_valid r)) else t
  | "HMP_CTRL" =>
    let t := if Fd.HMP_CTRL_disarm.set mask val then t.hamperDisarm else t
    let t := if Fd.HMP_CTRL_arm.set mask val then t.hamperArm else t
    if Fd.HMP_CTRL_force_trig.set mask val then { t with hmp := { t.hmp with force := true } } else t
  | "LKS_CTRL" =>
    let t := if Fd.LKS_CTRL_clear_counts.set mask val then t.clearCounts else t
    if Fd.LKS_CTRL_resync.set mask val then t.resyncWrite else t
  | "LKS_HB" =>
    let c := (a - Reg.LKS_HB 0) / 4
    if h : c < 4 then (if (Fd.LKS_HB_beat c).set mask val then t.beat ⟨c, h⟩ else t) else t
  | "LKS_WDOG_CTRL" =>
    if Fd.LKS_WDOG_CTRL_hb_expect.touched mask && s.flag Fd.LKS_WDOG_STAT_booting then { t with flt := { t.flt with expectWritten := true } } else t
  | "LKS_DUMP_CTRL" => if Fd.LKS_DUMP_CTRL_request.set mask val then t.startDump 2 .nothing else t
  | "KPR_CHWAKE_STAT" => { t with pins := { t.pins with hostWake := t.pins.hostWake && t.flag Fd.KPR_CHWAKE_STAT_host_wake } }
  | "KPR_RST_CTRL" => t.rstRequest (Fd.KPR_RST_CTRL_req.of (mask &&& val))
  | "CLK_ADN_DROOP" => if Fd.CLK_ADN_DROOP_cap_clear.set mask val then t.capClear else t
  | "CLK_ADN_LEVEL" => t.updateEff
  | "CLK_PSTATE" => if Fd.CLK_PSTATE_req.touched mask then t.pstateReq (Fd.CLK_PSTATE_req.of (mask &&& val)) else t
  | "MGP_PORT_CTRL" => s.portChanged t ((a - Reg.MGP_PORT_CTRL 0) / 0x40) a 0xFFFFFFFF
  | "MGP_PORT_CFG" => s.portChanged t ((a - Reg.MGP_PORT_CFG 0) / 0x40) a (Fd.MGP_PORT_CFG_mtu 0).mask
  | "MGP_IP4" => s.portChanged t ((a - Reg.MGP_IP4 0) / 0x40) a 0xFFFFFFFF
  | "MGP_IP6" => s.portChanged t ((a - Reg.MGP_IP6 0 0) / 0x40) a 0xFFFFFFFF
  | "FLT_STAT" =>
    if h : b < 18 then t.ack ⟨b, h⟩ ((Fd.FLT_STAT_own_pend b).of (mask &&& val)) ((Fd.FLT_STAT_pair_pend b).of (mask &&& val)) else t
  | "FLT_CTRL" => if (Fd.FLT_CTRL_clear_capture b).set mask val then t.clearCapture b else t
  | "FLT_CFG" => if s.get (Fd.FLT_CFG_mode b) = t.get (Fd.FLT_CFG_mode b) then t else t.clearRecords b
  | "SUP_CFG_CTRL" =>
    let t := if Fd.SUP_CFG_CTRL_save.set mask val then t.saveConfig else t
    if Fd.SUP_CFG_CTRL_erase.set mask val then t.eraseConfig else t
  | _ =>
    match csetOf a, ffwTable a with
    | some (l, i), _ => if i = s.get (Fd.LPE_LOOP_CTRL_active_set l) then t.setFlag (Fd.LPE_LOOP_STAT_wr_active l) true else t
    | none, some (z, k, _) => if k = s.get (Fd.FFW_ZONE_STAT_active_buf z) then t.setFlag (Fd.FFW_ZONE_STAT_wr_active z) true else t.formCrc z
    | none, none => t

/-! ## The write -/

/-- A write reaches its register (R382): where none stands, while the block's domain is in reset, or where the block does not answer (R458, R466),
nothing is written. -/
def State.regWrite (s : State) (a : Nat) (mask val : Word) : State :=
  match blockOf a, regRow a with
  | some b, some r =>
    let window := decide (0x7F00 ≤ (a - 0x40000000) % 0x10000 ∧ (a - 0x40000000) % 0x10000 < 0x8000)
    if s.blockDown b && !window then s
    else if h : b < 18 then
      if vget s.flt.noAnswer ⟨b, h⟩ != 0 then
        { s with flt := { s.flt with noAnswer := vset s.flt.noAnswer ⟨b, h⟩ (vget s.flt.noAnswer ⟨b, h⟩ - 1) } }.recordAt ⟨b, h⟩ 1 1 0 2 a 1
      else
        let t := s.wr a (writtenWord s.regs a (s.writable r.name a mask val) val)
        let t := s.setsOff t r.name a mask val
        if pairReg a then { t with flt := { t.flt with configImage := t.flt.configImage.set a (t.rd a) } } else t
    else s
  | _, _ => s

/-- A write of an input set or of the module's own, as it takes effect. The module that received its packet answers with the last of them. -/
def State.applyWrite (s : State) (w : PairWrite) : State :=
  let s := if actBase ≤ w.addr then s.act w else s.regWrite w.addr w.mask w.val
  if w.slot = s.get Fd.LKS_STAT_slot_id % 2 then s.wrote w.pkt else s

/-- The forwarded packets among the writes of a set enter the claimant's audit log, once each (R405, R406). -/
def State.auditForwarded (s : State) (ws : List PairWrite) : State :=
  if !s.lks.claimant then s else
  let far := (ws.filter fun w => w.pkt != 0 && w.slot != s.get Fd.LKS_STAT_slot_id % 2).map fun w => (w.pkt, w.role, w.port, w.session)
  far.eraseDups.foldl (fun (s : State) e => s.audit 1 (auditWho e.2.1 e.2.2.1 1) e.2.2.2 0 0 []) s

/-- Apply a list of writes in order. -/
def State.applyWrites (s : State) (ws : List PairWrite) : State := (ws.foldl (fun (s : State) w => s.applyWrite w) s).auditForwarded ws

/-! ## The commands that write a register by its address -/

/-- REGISTER_WRITE (R59): a write is stamped in the frame in which it arrives, and takes effect at the start of the next. -/
def execRegisterWrite (addr : Nat) (mask val : Word) (s : State) : Out :=
  .next <| if addr < actBase then s.enqueue (plainWrite addr mask val) else s

/-- COEFF_SET_WRITE (R79): register `reg` of a coefficient set, in the order CTRL, N0 to N3, D1 to D3, KB. -/
def execCoeffSetWrite (l : Fin 7) (set : Fin 4) (reg : Fin 9) (val : Word) (s : State) : Out :=
  .next <| s.enqueue (plainWrite (Reg.LPE_CSET_CTRL l set + 4 * reg) 0xFFFFFFFF val)

/-- SWITCH_SET (R80): a set switch is stamped here. -/
def execSwitchSet (l : Fin 7) (next : Fin 4) (s : State) : Out :=
  .next <| s.enqueue (plainWrite (Reg.LPE_LOOP_CTRL l) 0x38 (BitVec.ofNat 32 (16 * next.val + 8)))

/-- LOOP_MODE_CHANGE (R86, R87): a write of manual for L5 or L6, stamped here. -/
def execLoopModeChange (g : Fin 2) (manual : Bool) (s : State) : Out :=
  .next <| s.enqueue (fieldWrite (Fd.LPE_LOOP_CTRL_manual (5 + g)) (b2n manual))

end Sys2Proof.Machine
end

