-- ==== Sys2Proof/Machine/Frames.lean ====
section
/-! DEFINITION. The module's own steps of a frame (R32 to R37, R59, R89, R306, R347): its start at cycle 0, the close of the input exchange at cycle
300, the loop engine's run, the write check at cycle 620, and the stage commands at cycle 640. -/

namespace Sys2Proof.Machine

/-! ## Which part of the frame runs -/

/-- Do the blocks of LOOP run: their domain is not in reset, and the module is in RUN, since SLEEP gates the loop engine (Table 15-5)? -/
def State.loopRuns (s : State) : Bool := !s.inReset 0 && s.get Fd.CLK_PSTATE_state == 0

/-! ## The time base at a frame's start (R33, R38, R39, R45 to R47) -/

/-- The counts of the frame that ends, and the next one's start and length. -/
def State.nextFrame (s : State) : State :=
  let t := s.time
  let frame := (t.frame + 1) % 2 ^ 48
  let start := (t.frameStart + t.len) % 2 ^ 64
  let s := { s with time := { t with
    frame := frame, frameStart := start, fcTime := if frame % 256 = 0 then start else t.fcTime, cycle := 0, len := t.nextLen, nextLen := 1000
    edgeThisFrame := false, noEdgeFrames := if t.edgeThisFrame then 0 else t.noEdgeFrames + 1
    edgeFrames := if t.edgeThisFrame then t.edgeFrames + 1 else 0 } }
  if t.nextLen = 999 then s.bump Fd.SNS_SYNC_ADJ_shrink_count
  else if t.nextLen = 1001 then s.bump Fd.SNS_SYNC_ADJ_stretch_count
  else s

/-- The module's own input set of the frame: the sense codes latched, and what was received whole in the frame before (R35, R37, R306). -/
def State.formSet (s : State) (samples : List (Vector Int 24)) (p : FramePins) : State :=
  let own : InputSet := { frame := s.time.frame, claim := s.pins.claim, sense := latchCodes samples, tele := s.inp.nextTele
                          waggle := s.inp.nextWaggle, chain := s.inp.nextChain, vsel := p.vsel, extLow := p.extLow, writes := [] }
  { s with inp := { s.inp with nextTele := vall 26 none, nextWaggle := [], nextChain := [], own := own, partner := none, closed := false, onPartner := false } }

/-! ## The writes of a frame (R59, R301, R347, R381) -/

/-- Does a write act on pair state? -/
def PairWrite.isPair (w : PairWrite) : Bool := w.mask &&& pairMask w.addr != 0
/-- Are two writes of one packet? -/
def PairWrite.mate (a b : PairWrite) : Bool := a.pkt != 0 && a.pkt == b.pkt && a.slot == b.slot
/-- The pair writes that must be taken together with a write. -/
def pairCount (l : List PairWrite) (w : PairWrite) : Nat :=
  if w.pkt = 0 then b2n w.isPair else (l.filter fun x => x.mate w && x.isPair).length

/-- One write of the queue: taken where its packet's pair writes fit, or are taken already; left for the next set otherwise, with every later packet
that holds pair writes. `room`, packets taken, writes taken and left. -/
def takeOne (l : List PairWrite) (r : Nat × List PairWrite × List PairWrite × List PairWrite) (w : PairWrite) :
    Nat × List PairWrite × List PairWrite × List PairWrite :=
  let n := pairCount l w
  if n = 0 || r.2.1.any w.mate then (r.1, r.2.1, r.2.2.1 ++ [w], r.2.2.2)
  else if n ≤ r.1 then (r.1 - n, r.2.1 ++ [w], r.2.2.1 ++ [w], r.2.2.2)
  else (0, r.2.1, r.2.2.1, r.2.2.2 ++ [w])

/-- The writes that the frame takes, those of a restore after the others, at most 32 of pair registers. -/
def State.takeWrites (s : State) : State × List PairWrite :=
  let r := s.wq.foldl (takeOne s.wq) (32, [], [], [])
  ({ s with wq := r.2.2.2, cfg := { s.cfg with queue := s.cfg.queue.drop r.1 } }, r.2.2.1 ++ s.cfg.queue.take r.1)

/-- Writes that wait when the module's part in the pair changes: a standby forwards their pair bits, and another module takes back what it has not
forwarded (R301). -/
def State.routeWrites (s : State) : State :=
  if s.isStandby then
    let far := s.wq.filter fun w => w.isPair
    { s with wq := (s.wq.map fun w => { w with mask := w.mask &&& ~~~(pairMask w.addr) }).filter fun w => w.mask != 0
             lks := { s.lks with fwd := s.lks.fwd ++ far.map fun w => { w with mask := w.mask &&& pairMask w.addr } } }
  else { s with wq := s.wq ++ s.lks.fwd, lks := { s.lks with fwd := [] } }

/-- The writes take effect, and the pair writes stand in the module's set. -/
def State.writeFrame (s : State) : State :=
  let r := s.takeWrites
  let waits := !s.cfg.queue.isEmpty
  let s := { r.1 with inp := { r.1.inp with own := { r.1.inp.own with writes := r.2.filter fun w => w.isPair } } }
  let s := s.applyWrites r.2
  if waits && s.cfg.queue.isEmpty then s.restoreEnd else s

/-! ## FRAME_START -/

/-- What the blocks do with the frames that have ended, before the writes of the frame. -/
def State.endTicks (s : State) : State :=
  let s := if s.inReset 0 then s else
    let s := if s.fcStart then s.profileTick else s
    let s := if s.sweepStart then s.socTick else s
    (s.siteTick.zoneTick).estTick
  let s := if s.inReset 2 then s else s.swarmTick.ceilingTick.chainTick
  s.recoveryTick.trustTick.replyTick

/-- What the blocks do in the frame now starting, after its writes. -/
def State.startTicks (s : State) : State :=
  let s := if s.inReset 0 then s else s.alignTick
  let s := if s.inReset 2 then s else s.linkTick
  let s := s.arrayTick.powerTick
  if s.loopRuns then s.groupModes else s

/-- The level of FAULT_N (R447), and SYNC_OUT (R48). In test mode neither is driven (R465). -/
def State.startPins (s : State) : State :=
  { s with flt := { s.flt with faultLow := !s.pins.testMode && (s.flt.safe || s.faultNLow) }
           pins := { s.pins with syncOut := s.flag Fd.SNS_SYNC_CTRL_sync_out_en && !s.flt.safe && !s.pins.testMode } }

/-- The work of a frame's start: time, inputs, the sample of the claim lines, the blocks, the writes, and the pins. -/
def State.frameBegin (s : State) (samples : List (Vector Int 24)) (pins : FramePins) : State :=
  let s := s.nextFrame.formSet samples pins
  let s := (s.claimSample pins).routeWrites.lockTick
  s.endTicks.followReactions.writeFrame.startTicks.startPins

/-- In a new frame the loop engine has not run yet, nor has its write check passed (R36, R315). -/
def State.frameClear (s : State) : State := { s with lpe := { s.lpe with ran := false, writeOk := false, checkOk := false } }

/-- FRAME_START (R33, R37 to R39, R59, R305): cycle 0 of the next frame. `samples` are the sense samples of the frame that ends. While the engine clock
is stopped no frame starts (R40). -/
def execFrameStart (samples : List (Vector Int 24)) (pins : FramePins) (s : State) : Out :=
  .next <| if s.pwr.stopped then s else (s.frameBegin samples pins).frameClear

/-! ## INPUT_EXCHANGE_CLOSE -/

/-- The standby applies the pair writes of the claimant's set (R301). -/
def State.partnerWrites (s : State) : State :=
  if !s.inp.onPartner then s else
  match s.inp.partner with
  | some p => (s.applyWrites p.writes).groupModes
  | none => s

/-- The sense values of the frame's set, calibrated (R484). -/
def State.calibrateAll (s : State) : State := { s with lpe := { s.lpe with cal := Vector.ofFn fun (c : Fin 24) => s.senseNow c } }

/-- The inputs of the frame: its set is chosen, and they are taken, in the orders of R125, R187 and R277. In SLEEP the chain goes on alone. -/
def State.takeInputs (s : State) : State :=
  let s := (s.atCycle 300).chooseSet.adcSum
  if s.inReset 0 then s
  else if !s.loopRuns then s.calibrateAll.takeChain
  else
    let s := s.partnerWrites.takeTelemetry.calibrateAll.takeChain
    let s := s.markers.anchors.throttleTick.droopEnd
    s.gridCount.flowPulse.fabricDecide.estClose

/-- The close of the exchange at cycle 300 (R306, R307), once in a frame. -/
def State.closeInputs (s : State) : State :=
  if s.inp.closed then s else
  let s := s.takeInputs
  { s with inp := { s.inp with closed := true } }

/-- INPUT_EXCHANGE_CLOSE (R307). -/
def execInputExchangeClose (s : State) : Out := .next <| if s.pwr.stopped then s else s.closeInputs

/-! ## LOOP_ENGINE_RUN -/

/-- The feed-forward terms of the zones and of L4, in Table 03-7's order. -/
def State.feeds4 (s : State) : State × Vector BF24 7 :=
  let r0 := s.feedForward 0
  let r1 := r0.1.feedForward 1
  let r2 := r1.1.feedForward 2
  let r3 := r2.1.feedForward 3
  let r4 := r3.1.prePosition
  (r4.1, #v[r0.2, r1.2, r2.2, r3.2, r4.2, .zero, .zero])

/-- The loop engine's frame (R89, Table 03-7): ramps and set-points, the seven loops, the stage references, the timers of chapter 04, and the
windows of chapter 05. -/
def State.engineRun (s : State) : State :=
  let s := s.socGate.storagePower.fabricAdvance.ramps.gridRefs
  let f := s.feeds4
  let s := (List.finRange 7).foldl (fun (s : State) (l : Fin 7) => s.runLoop l (vget f.2 l)) f.1
  let s := { s with lpe := { s.lpe with prevRefs := s.lpe.refs, refs := s.stageRefs, writeOk := true } }
  let s := s.each 7 fun l s => s.followStep l
  let s := (List.finRange 16).foldl (fun (s : State) k => s.mismatchStep k) s
  let s := s.each 4 fun z s => (s.overloadStep z).pgoodStep z
  let s := s.ceilingEnd.profileEnd
  { s with lpe := { s.lpe with ran := true } }

/-- LOOP_ENGINE_RUN (R89): cycles 320 to 619, once in a frame. It takes the frame's inputs where the close has not. -/
def execLoopEngineRun (s : State) : Out :=
  .next <|
    if s.pwr.stopped || s.lpe.ran then s else
    let s := s.closeInputs
    if s.loopRuns then (s.atCycle 614).engineRun else s

/-! ## WRITE_CHECK and STAGE_COMMANDS_LEAVE -/

/-- WRITE_CHECK (R36, R92, R433): at cycle 620 outputs that are not all written raise a Halt-class fault; Hamper and the assembler copy the frame, and
the arming latches follow. -/
def execWriteCheck (s : State) : Out :=
  .next <|
    if s.pwr.stopped then s else
    let s := s.atCycle 620
    let s := if !s.loopRuns then s else
      let missing := !s.lpe.writeOk || s.lpe.injectMissing
      let s := { s with lpe := { s.lpe with injectMissing := false, checkOk := !missing } }
      let s := if missing then s.record Blk.lpe 0x10 3 0 else s
      s.hamperFrame.armLatch
    s.sampleChannels

/-- The count of R502 for a stage: frames in a row in which it was commanded IDLE and OPEN and reported so. -/
def State.trackUnder (s : State) (n : Fin 26) (c : Option StageCmd) : State :=
  let here := if s.teleHere n then s.teleOf n else none
  let rest : Bool := match c, here with
    | some c, some t => c.mode == .idle && !c.swClosed && t.mode == .idle && (decide (16 ≤ n.val) || t.sw == .opened)
    | _, _ => false
  let acts : Bool := match c with
    | some c => c.mode != .idle || c.swClosed
    | none => false
  { s with zfb := { s.zfb with under := vset s.zfb.under n (vget s.zfb.under n || acts),
                               idleFrames := vset s.zfb.idleFrames n (if rest then vget s.zfb.idleFrames n + 1 else 0) } }

/-- The PGOOD pins (R159): driven with the computed level by a claimant and by a standby without a failed health item. -/
def State.drivePgood (s : State) : State :=
  let may := (s.lks.claimant || (s.isStandby && s.lks.items == 0)) && !s.flt.safe && !s.pins.testMode
  let on (z : Fin 4) : Bool := may && s.flag (Fd.WGL_PGOOD_level z) && !s.flag (Fd.WGL_PGOOD_keeper_trip z)
  { s with pins := { s.pins with pgood := Vector.ofFn on } }

/-- STAGE_COMMANDS_LEAVE (R51, R315, R331, R342): at cycle 640 the commands leave where the frame's write check has passed, the urgent ceiling frames
leave, and PGOOD follows. -/
def execStageCommandsLeave (s : State) : Out :=
  .next <|
    if s.pwr.stopped || !s.loopRuns then s else
    let s := s.atCycle 640
    let cs : Vector (Option StageCmd) 26 := Vector.ofFn fun n => if s.lpe.checkOk && s.stageSends n then some (s.stageCmd n) else none
    let ph : Vector (Option Nat) 26 := Vector.ofFn fun n => some (s.phaseOf n)
    let s := (List.finRange 26).foldl (fun (s : State) (n : Fin 26) => s.trackUnder n (vget cs n)) s
    let s := { s with
      link := { s.link with cmds := Vector.ofFn fun n => match vget cs n with
        | some c => some c
        | none => vget s.link.cmds n }
      zfb := { s.zfb with lastPhase := ph } }
    s.drivePgood.sendUrgent

end Sys2Proof.Machine
end

