-- ==== Sys2Proof/Machine/Dispatch.lean ====
section
/-! DEFINITION. The dispatch: one arm for each command, each a direct call of its meaning. -/

namespace Sys2Proof.Machine

def exec (i : Instr) (s : State) : Host.Outcome State Fault Refusal :=
  match i with
  | .frameStart samples pins => Sys2Proof.Machine.execFrameStart samples pins s
  | .inputSet cyc ok set => Sys2Proof.Machine.execInputSet cyc ok set s
  | .inputExchangeClose => Sys2Proof.Machine.execInputExchangeClose s
  | .loopEngineRun => Sys2Proof.Machine.execLoopEngineRun s
  | .writeCheck => Sys2Proof.Machine.execWriteCheck s
  | .hamperCaptureDone => Sys2Proof.Machine.execHamperCaptureDone s
  | .stageCommandsLeave => Sys2Proof.Machine.execStageCommandsLeave s
  | .outputDigest crc outs => Sys2Proof.Machine.execOutputDigest crc outs s
  | .claimFix => Sys2Proof.Machine.execClaimFix s
  | .syncInEdge cyc => Sys2Proof.Machine.execSyncInEdge cyc s
  | .alignmentLocked => Sys2Proof.Machine.execAlignmentLocked s
  | .alignmentStep => Sys2Proof.Machine.execAlignmentStep s
  | .holdoverEntry => Sys2Proof.Machine.execHoldoverEntry s
  | .holdoverExit => Sys2Proof.Machine.execHoldoverExit s
  | .syncConfigWrite toOffset val => Sys2Proof.Machine.execSyncConfigWrite toOffset val s
  | .stageReleased n => Sys2Proof.Machine.execStageReleased n s
  | .lowWordRead master addr => Sys2Proof.Machine.execLowWordRead master addr s
  | .registerWrite addr mask val => Sys2Proof.Machine.execRegisterWrite addr mask val s
  | .coeffSetWrite l set reg val => Sys2Proof.Machine.execCoeffSetWrite l set reg val s
  | .switchSet l next => Sys2Proof.Machine.execSwitchSet l next s
  | .loopModeChange g manual => Sys2Proof.Machine.execLoopModeChange g manual s
  | .hmpArm => Sys2Proof.Machine.execHmpArm s
  | .hmpDisarm => Sys2Proof.Machine.execHmpDisarm s
  | .forceTrig => Sys2Proof.Machine.execForceTrig s
  | .profileStep => Sys2Proof.Machine.execProfileStep s
  | .forecastFallback => Sys2Proof.Machine.execForecastFallback s
  | .fallbackExit => Sys2Proof.Machine.execFallbackExit s
  | .socCorrectionUpdate => Sys2Proof.Machine.execSocCorrectionUpdate s
  | .honeyReserveOpen => Sys2Proof.Machine.execHoneyReserveOpen s
  | .honeyReserveClose => Sys2Proof.Machine.execHoneyReserveClose s
  | .stringSocStale r => Sys2Proof.Machine.execStringSocStale r s
  | .vstoreWrite z code val => Sys2Proof.Machine.execVstoreWrite z code val s
  | .followExpiry l => Sys2Proof.Machine.execFollowExpiry l s
  | .storageExhaustionClear => Sys2Proof.Machine.execStorageExhaustionClear s
  | .zoneRetry z => Sys2Proof.Machine.execZoneRetry z s
  | .retriesReset z => Sys2Proof.Machine.execRetriesReset z s
  | .zfbGo => Sys2Proof.Machine.execZfbGo s
  | .zfbAbort => Sys2Proof.Machine.execZfbAbort s
  | .sequencePhaseEnd k => Sys2Proof.Machine.execSequencePhaseEnd k s
  | .zeroITimeout k => Sys2Proof.Machine.execZeroITimeout k s
  | .switchConfirmTimeout k => Sys2Proof.Machine.execSwitchConfirmTimeout k s
  | .prechargeMatchTimeout k => Sys2Proof.Machine.execPrechargeMatchTimeout k s
  | .nextDutyWrite r duty => Sys2Proof.Machine.execNextDutyWrite r duty s
  | .stageTelemetry n cyc linkOk t => Sys2Proof.Machine.execStageTelemetry n cyc linkOk t s
  | .currentMismatchFence k => Sys2Proof.Machine.execCurrentMismatchFence k s
  | .capLimited z => Sys2Proof.Machine.execCapLimited z s
  | .shedHoldExpiry z => Sys2Proof.Machine.execShedHoldExpiry z s
  | .addHoldExpiry z => Sys2Proof.Machine.execAddHoldExpiry z s
  | .jobGroupApply t => Sys2Proof.Machine.execJobGroupApply t s
  | .vselSample => Sys2Proof.Machine.execVselSample s
  | .pgoodHigh z => Sys2Proof.Machine.execPgoodHigh z s
  | .stepArm t cyc linkOk up => Sys2Proof.Machine.execStepArm t cyc linkOk up s
  | .stepGo t cyc linkOk up => Sys2Proof.Machine.execStepGo t cyc linkOk up s
  | .stepEnd t cyc linkOk up => Sys2Proof.Machine.execStepEnd t cyc linkOk up s
  | .stepPeriod t cyc linkOk up => Sys2Proof.Machine.execStepPeriod t cyc linkOk up s
  | .waggleStatus t cyc linkOk up => Sys2Proof.Machine.execWaggleStatus t cyc linkOk up s
  | .armTimeout t => Sys2Proof.Machine.execArmTimeout t s
  | .stepOnset z => Sys2Proof.Machine.execStepOnset z s
  | .ffwCommitRequest z => Sys2Proof.Machine.execFfwCommitRequest z s
  | .ffwCommitApply z => Sys2Proof.Machine.execFfwCommitApply z s
  | .ppDisable => Sys2Proof.Machine.execPpDisable s
  | .ceilingCompute => Sys2Proof.Machine.execCeilingCompute s
  | .ceilingLatch => Sys2Proof.Machine.execCeilingLatch s
  | .shareArbitration bus => Sys2Proof.Machine.execShareArbitration bus s
  | .ceilSend => Sys2Proof.Machine.execCeilSend s
  | .droopResponse => Sys2Proof.Machine.execDroopResponse s
  | .throttleRelease z => Sys2Proof.Machine.execThrottleRelease z s
  | .extAlert => Sys2Proof.Machine.execExtAlert s
  | .stormClear t => Sys2Proof.Machine.execStormClear t s
  | .linkDown t => Sys2Proof.Machine.execLinkDown t s
  | .stepStale t => Sys2Proof.Machine.execStepStale t s
  | .laneClear t => Sys2Proof.Machine.execLaneClear t s
  | .telemetryAssemble => Sys2Proof.Machine.execTelemetryAssemble s
  | .basketPass slot cycles outs => Sys2Proof.Machine.execBasketPass slot cycles outs s
  | .resultCommit => Sys2Proof.Machine.execResultCommit s
  | .coreLoaded k crcOk => Sys2Proof.Machine.execCoreLoaded k crcOk s
  | .scrubWord => Sys2Proof.Machine.execScrubWord s
  | .sequencerPhaseEnd cyc mv => Sys2Proof.Machine.execSequencerPhaseEnd cyc mv s
  | .droopTrip cyc mv => Sys2Proof.Machine.execDroopTrip cyc mv s
  | .droopClear cyc mv => Sys2Proof.Machine.execDroopClear cyc mv s
  | .capClear => Sys2Proof.Machine.execCapClear s
  | .thermalCapLower tj => Sys2Proof.Machine.execThermalCapLower tj s
  | .thermalCapRestore tj => Sys2Proof.Machine.execThermalCapRestore tj s
  | .coreTestStart k => Sys2Proof.Machine.execCoreTestStart k s
  | .coreTestSetEnd k crcOk => Sys2Proof.Machine.execCoreTestSetEnd k crcOk s
  | .coreFence k => Sys2Proof.Machine.execCoreFence k s
  | .coreUnfence k => Sys2Proof.Machine.execCoreUnfence k s
  | .packageCheck slot sigOk => Sys2Proof.Machine.execPackageCheck slot sigOk s
  | .snapSend r cyc => Sys2Proof.Machine.execSnapSend r cyc s
  | .hushSend r => Sys2Proof.Machine.execHushSend r s
  | .chainRead r => Sys2Proof.Machine.execChainRead r s
  | .chainReply r crcOk pos seq op status payload => Sys2Proof.Machine.execChainReply r crcOk pos seq op status payload s
  | .chainTxnTimeout r => Sys2Proof.Machine.execChainTxnTimeout r s
  | .readingsCommit => Sys2Proof.Machine.execReadingsCommit s
  | .balanceSend r => Sys2Proof.Machine.execBalanceSend r s
  | .owtSend r => Sys2Proof.Machine.execOwtSend r s
  | .owRead r => Sys2Proof.Machine.execOwRead r s
  | .owtCommit => Sys2Proof.Machine.execOwtCommit s
  | .owtRequest mask => Sys2Proof.Machine.execOwtRequest mask s
  | .rescan mask => Sys2Proof.Machine.execRescan mask s
  | .enumeration r found => Sys2Proof.Machine.execEnumeration r found s
  | .ringTest r => Sys2Proof.Machine.execRingTest r s
  | .chainTone port at' => Sys2Proof.Machine.execChainTone port at' s
  | .limitingExit at' => Sys2Proof.Machine.execLimitingExit at' s
  | .hostWakeRelease => Sys2Proof.Machine.execHostWakeRelease s
  | .estimateRecord => Sys2Proof.Machine.execEstimateRecord s
  | .endOfCharge r => Sys2Proof.Machine.execEndOfCharge r s
  | .divergenceConflict r => Sys2Proof.Machine.execDivergenceConflict r s
  | .restPoint r => Sys2Proof.Machine.execRestPoint r s
  | .anchorExpiry r => Sys2Proof.Machine.execAnchorExpiry r s
  | .anchorDiscard mask => Sys2Proof.Machine.execAnchorDiscard mask s
  | .modelValidWrite r valid => Sys2Proof.Machine.execModelValidWrite r valid s
  | .capacityStoreWrite ok => Sys2Proof.Machine.execCapacityStoreWrite ok s
  | .staticImage img => Sys2Proof.Machine.execStaticImage img s
  | .dynamicImage img => Sys2Proof.Machine.execDynamicImage img s
  | .resyncRequest => Sys2Proof.Machine.execResyncRequest s
  | .resync => Sys2Proof.Machine.execResync s
  | .forecastBulk fcast => Sys2Proof.Machine.execForecastBulk fcast s
  | .estimationBulk b => Sys2Proof.Machine.execEstimationBulk b s
  | .ffwBufferBulk z words => Sys2Proof.Machine.execFfwBufferBulk z words s
  | .bufferCrc z crc => Sys2Proof.Machine.execBufferCrc z crc s
  | .forwardedWrite w => Sys2Proof.Machine.execForwardedWrite w s
  | .healthReport words => Sys2Proof.Machine.execHealthReport words s
  | .pairStateDigest digest => Sys2Proof.Machine.execPairStateDigest digest s
  | .bulkDeadlineMiss => Sys2Proof.Machine.execBulkDeadlineMiss s
  | .adcCheck => Sys2Proof.Machine.execAdcCheck s
  | .coreTestRotation => Sys2Proof.Machine.execCoreTestRotation s
  | .join time frame img => Sys2Proof.Machine.execJoin time frame img s
  | .pairWaitEnd => Sys2Proof.Machine.execPairWaitEnd s
  | .claimHistoryEntry => Sys2Proof.Machine.execClaimHistoryEntry s
  | .clearCounts => Sys2Proof.Machine.execClearCounts s
  | .laneTraining n rttNs fail decls highest => Sys2Proof.Machine.execLaneTraining n rttNs fail decls highest s
  | .laneSilent n => Sys2Proof.Machine.execLaneSilent n s
  | .laneRetrain n => Sys2Proof.Machine.execLaneRetrain n s
  | .lockTraining rttNs fail version => Sys2Proof.Machine.execLockTraining rttNs fail version s
  | .stageUnreach n => Sys2Proof.Machine.execStageUnreach n s
  | .commission => Sys2Proof.Machine.execCommission s
  | .bertPhaseEnd errs => Sys2Proof.Machine.execBertPhaseEnd errs s
  | .bertAbort => Sys2Proof.Machine.execBertAbort s
  | .bertOverdue => Sys2Proof.Machine.execBertOverdue s
  | .hello p => Sys2Proof.Machine.execHello p s
  | .sessionOpen p sigOk => Sys2Proof.Machine.execSessionOpen p sigOk s
  | .sessionClose p => Sys2Proof.Machine.execSessionClose p s
  | .keepalive p => Sys2Proof.Machine.execKeepalive p s
  | .semAcquire p => Sys2Proof.Machine.execSemAcquire p s
  | .semRelease p => Sys2Proof.Machine.execSemRelease p s
  | .semSeize p => Sys2Proof.Machine.execSemSeize p s
  | .regRead p => Sys2Proof.Machine.execRegRead p s
  | .regWrite p => Sys2Proof.Machine.execRegWrite p s
  | .regWriteMasked p => Sys2Proof.Machine.execRegWriteMasked p s
  | .combRead p => Sys2Proof.Machine.execCombRead p s
  | .rebind p => Sys2Proof.Machine.execRebind p s
  | .rebindAbort p => Sys2Proof.Machine.execRebindAbort p s
  | .fenceClear p => Sys2Proof.Machine.execFenceClear p s
  | .stringDuty p => Sys2Proof.Machine.execStringDuty p s
  | .groupLimit p => Sys2Proof.Machine.execGroupLimit p s
  | .csetLoad p => Sys2Proof.Machine.execCsetLoad p s
  | .loopMode p => Sys2Proof.Machine.execLoopMode p s
  | .profileRead p => Sys2Proof.Machine.execProfileRead p s
  | .cellRead p => Sys2Proof.Machine.execCellRead p s
  | .storageClear p => Sys2Proof.Machine.execStorageClear p s
  | .capacityLoad p => Sys2Proof.Machine.execCapacityLoad p s
  | .basketStore p => Sys2Proof.Machine.execBasketStore p s
  | .basketAdmit p => Sys2Proof.Machine.execBasketAdmit p s
  | .basketEvict p => Sys2Proof.Machine.execBasketEvict p s
  | .basketVariant p => Sys2Proof.Machine.execBasketVariant p s
  | .quarantineClear p => Sys2Proof.Machine.execQuarantineClear p s
  | .basketStatus p => Sys2Proof.Machine.execBasketStatus p s
  | .resultRead p => Sys2Proof.Machine.execResultRead p s
  | .arrayTarget p => Sys2Proof.Machine.execArrayTarget p s
  | .hamperRead p => Sys2Proof.Machine.execHamperRead p s
  | .faultRead p => Sys2Proof.Machine.execFaultRead p s
  | .faultAck p => Sys2Proof.Machine.execFaultAck p s
  | .logRead p => Sys2Proof.Machine.execLogRead p s
  | .dumpRead p => Sys2Proof.Machine.execDumpRead p s
  | .healthRead p => Sys2Proof.Machine.execHealthRead p s
  | .claimHistory p => Sys2Proof.Machine.execClaimHistory p s
  | .bertWindow p => Sys2Proof.Machine.execBertWindow p s
  | .fwStore p => Sys2Proof.Machine.execFwStore p s
  | .fwActivate p => Sys2Proof.Machine.execFwActivate p s
  | .attest p => Sys2Proof.Machine.execAttest p s
  | .attestSignDone port session => Sys2Proof.Machine.execAttestSignDone port session s
  | .auditRead p => Sys2Proof.Machine.execAuditRead p s
  | .keyLoad p rootOk => Sys2Proof.Machine.execKeyLoad p rootOk s
  | .keyClear p rootOk => Sys2Proof.Machine.execKeyClear p rootOk s
  | .injectRecord p => Sys2Proof.Machine.execInjectRecord p s
  | .injectWriteCheck p => Sys2Proof.Machine.execInjectWriteCheck p s
  | .injectHang p => Sys2Proof.Machine.execInjectHang p s
  | .injectTimeout p => Sys2Proof.Machine.execInjectTimeout p s
  | .injectEcc p => Sys2Proof.Machine.execInjectEcc p s
  | .injectClock p => Sys2Proof.Machine.execInjectClock p s
  | .injectSupply p => Sys2Proof.Machine.execInjectSupply p s
  | .injectComparator p => Sys2Proof.Machine.execInjectComparator p s
  | .arpRequest p vlan ip => Sys2Proof.Machine.execArpRequest p vlan ip s
  | .neighbourDiscovery p vlan ip => Sys2Proof.Machine.execNeighbourDiscovery p vlan ip s
  | .icmpEcho p vlan v6 ip data => Sys2Proof.Machine.execIcmpEcho p vlan v6 ip data s
  | .reassemblyTimeout => Sys2Proof.Machine.execReassemblyTimeout s
  | .consoleFramingError => Sys2Proof.Machine.execConsoleFramingError s
  | .sessionIdleExpiry port session => Sys2Proof.Machine.execSessionIdleExpiry port session s
  | .portLinkLoss port => Sys2Proof.Machine.execPortLinkLoss port s
  | .leaseExpiry => Sys2Proof.Machine.execLeaseExpiry s
  | .boot sigOk => Sys2Proof.Machine.execBoot sigOk s
  | .firmwareReady baskets => Sys2Proof.Machine.execFirmwareReady baskets s
  | .fwTrialSuccess => Sys2Proof.Machine.execFwTrialSuccess s
  | .fwTrialFail => Sys2Proof.Machine.execFwTrialFail s
  | .rollbackRaise => Sys2Proof.Machine.execRollbackRaise s
  | .auditFlush => Sys2Proof.Machine.execAuditFlush s
  | .auditCheckpoint => Sys2Proof.Machine.execAuditCheckpoint s
  | .authFailureEntry => Sys2Proof.Machine.execAuthFailureEntry s
  | .crystalStable x at' mv => Sys2Proof.Machine.execCrystalStable x at' mv s
  | .xt0StartTimeout at' => Sys2Proof.Machine.execXt0StartTimeout at' s
  | .pllLock p => Sys2Proof.Machine.execPllLock p s
  | .clockMonitorTrip cause at' => Sys2Proof.Machine.execClockMonitorTrip cause at' s
  | .clockRestart at' gap => Sys2Proof.Machine.execClockRestart at' gap s
  | .episodeEnd => Sys2Proof.Machine.execEpisodeEnd s
  | .lfrcLoss => Sys2Proof.Machine.execLfrcLoss s
  | .sleepRequest => Sys2Proof.Machine.execSleepRequest s
  | .deepSleepRequest => Sys2Proof.Machine.execDeepSleepRequest s
  | .runRequest => Sys2Proof.Machine.execRunRequest s
  | .deepSleepWake src at' gap => Sys2Proof.Machine.execDeepSleepWake src at' gap s
  | .brownOutWarning mv => Sys2Proof.Machine.execBrownOutWarning mv s
  | .brownOutRelease mv => Sys2Proof.Machine.execBrownOutRelease mv s
  | .powerFail mv railOut at' => Sys2Proof.Machine.execPowerFail mv railOut at' s
  | .supplyRecovery mv at' gap => Sys2Proof.Machine.execSupplyRecovery mv at' gap s
  | .holdupExpiry => Sys2Proof.Machine.execHoldupExpiry s
  | .arrayClockLoss rail => Sys2Proof.Machine.execArrayClockLoss rail s
  | .zoneUvTrip z => Sys2Proof.Machine.execZoneUvTrip z s
  | .zoneOvTrip z => Sys2Proof.Machine.execZoneOvTrip z s
  | .stringOcTrip r => Sys2Proof.Machine.execStringOcTrip r s
  | .comparatorRelease c => Sys2Proof.Machine.execComparatorRelease c s
  | .faultPendingClear b bits => Sys2Proof.Machine.execFaultPendingClear b bits s
  | .clearCapture b => Sys2Proof.Machine.execClearCapture b s
  | .faultModeChange b history => Sys2Proof.Machine.execFaultModeChange b history s
  | .haltedServiceTimeout => Sys2Proof.Machine.execHaltedServiceTimeout s
  | .resetRequest mask => Sys2Proof.Machine.execResetRequest mask s
  | .resetAssert => Sys2Proof.Machine.execResetAssert s
  | .resetRelease => Sys2Proof.Machine.execResetRelease s
  | .heartbeatBeat c => Sys2Proof.Machine.execHeartbeatBeat c s
  | .heartbeatCheck => Sys2Proof.Machine.execHeartbeatCheck s
  | .watchdogAction => Sys2Proof.Machine.execWatchdogAction s
  | .busTimeout b addr write master => Sys2Proof.Machine.execBusTimeout b addr write master s
  | .dumpRequest => Sys2Proof.Machine.execDumpRequest s
  | .dumpComplete markers => Sys2Proof.Machine.execDumpComplete markers s
  | .portFenceReturn p => Sys2Proof.Machine.execPortFenceReturn p s
  | .gridLoss => Sys2Proof.Machine.execGridLoss s
  | .gridSag => Sys2Proof.Machine.execGridSag s
  | .gridSagClear => Sys2Proof.Machine.execGridSagClear s
  | .gridReturn => Sys2Proof.Machine.execGridReturn s
  | .gridNormal => Sys2Proof.Machine.execGridNormal s
  | .coolantUpdate => Sys2Proof.Machine.execCoolantUpdate s
  | .declarationWrite pwr val => Sys2Proof.Machine.execDeclarationWrite pwr val s
  | .configSave => Sys2Proof.Machine.execConfigSave s
  | .configErase => Sys2Proof.Machine.execConfigErase s
  | .startupComplete => Sys2Proof.Machine.execStartupComplete s
  | .configRestore => Sys2Proof.Machine.execConfigRestore s
  | .autostartStep => Sys2Proof.Machine.execAutostartStep s
  | .powerOnReset slot test => Sys2Proof.Machine.execPowerOnReset slot test s
  | .crystalLost x at' mv => Sys2Proof.Machine.execCrystalLost x at' mv s
  | .fwImageChecked sigOk => Sys2Proof.Machine.execFwImageChecked sigOk s
  | .consoleFramingRegained => Sys2Proof.Machine.execConsoleFramingRegained s
  | .portLinkUp port linkUp => Sys2Proof.Machine.execPortLinkUp port linkUp s

end Sys2Proof.Machine
end

