-- ==== Sys2Proof/Safety.lean ====
section
/-! DEFINITION. What statements ask of a state: the forms that every step keeps. -/

namespace Sys2Proof.Machine

/-- The register file is in its canonical form: addresses strictly rising, and no entry that equals its reset word. Equal contents are then equal
lists. -/
def State.regsOk (s : State) : Prop := Regs.wf s.regs = true

/-- The forms that every step keeps: the register file's, a frame number of 48 bits (R39), and a timestamp of 64 (R38). -/
def State.good (s : State) : Prop := s.regsOk ∧ s.time.frame < 2 ^ 48 ∧ s.time.frameStart < 2 ^ 64

/-- The commands that move the time base: a frame's start, a restart of the engine clock (R40), a power cycle, and the joining of a pair (R41). -/
def movesTime : Instr → Bool
  | .frameStart .. | .clockRestart .. | .deepSleepWake .. | .supplyRecovery .. | .holdupExpiry | .join .. | .powerOnReset .. => true
  | _ => false

/-- A block takes writes: its domain is not in reset (R451), and no injected missing answer waits for it (R466). -/
def State.takesWrites (s : State) (b : Fin 18) : Prop := s.blockDown b = false ∧ vget s.flt.noAnswer b = 0

/-- The parts of the machine, as frames name them: the register file and the fields of State beside it. -/
inductive Part where
  | regs | time | inp | wq | lpe | hmp | prf | site | zfb | wgl | lks | link | chn | est | arr | flt | mgp | sec | pwr | cfg | pins | shadow | free | pending
  deriving DecidableEq, Repr

/-- Two states agree in a part. -/
def State.agree (t s : State) : Part → Prop
  | .regs => t.regs = s.regs
  | .time => t.time = s.time
  | .inp => t.inp = s.inp
  | .wq => t.wq = s.wq
  | .lpe => t.lpe = s.lpe
  | .hmp => t.hmp = s.hmp
  | .prf => t.prf = s.prf
  | .site => t.site = s.site
  | .zfb => t.zfb = s.zfb
  | .wgl => t.wgl = s.wgl
  | .lks => t.lks = s.lks
  | .link => t.link = s.link
  | .chn => t.chn = s.chn
  | .est => t.est = s.est
  | .arr => t.arr = s.arr
  | .flt => t.flt = s.flt
  | .mgp => t.mgp = s.mgp
  | .sec => t.sec = s.sec
  | .pwr => t.pwr = s.pwr
  | .cfg => t.cfg = s.cfg
  | .pins => t.pins = s.pins
  | .shadow => t.shadow = s.shadow
  | .free => t.free = s.free
  | .pending => t.pending = s.pending
/-- `t` differs from `s` in the listed parts at most. -/
def State.within (t s : State) (l : List Part) : Prop := ∀ p, p ∉ l → t.agree s p
/-- The registers of `t` differ from those of `s` at the listed addresses at most. -/
def State.withinRegs (t s : State) (l : List Nat) : Prop := ∀ a, a ∉ l → t.rd a = s.rd a

/-- An address outside the fault window of a block (Table 16-4). -/
def outWindow (b a : Nat) : Prop := a < 0x40007F00 + 0x10000 * b ∨ 0x40008000 + 0x10000 * b ≤ a

/-- The registers that show what the generator holds (Table 04-3). -/
def prfShown : List Nat := [Reg.PRF_POS, Reg.PRF_VELO, Reg.PRF_ACCEL, Reg.PRF_TARGET, Reg.PRF_SOC_CORR]
/-- Those registers show it: each value as BF24. -/
def State.shownProfile (t : State) : Prop :=
  t.rd Reg.PRF_POS = (roundBF t.prf.p.frac48).toWord ∧ t.rd Reg.PRF_VELO = (roundBF t.prf.v.frac48).toWord ∧
    t.rd Reg.PRF_ACCEL = (roundBF t.prf.a.frac48).toWord ∧ t.rd Reg.PRF_TARGET = (roundBF t.prf.pTgt.frac48).toWord ∧
    t.rd Reg.PRF_SOC_CORR = (roundBF t.prf.pSoc.frac48).toWord
/-- `t` is `s` after an entry to grid state `n`: the state stands, the count of clear forecast frames starts again, and where `n` is SAG or LOSS the
entry is counted and the generator stands at the measured draw (R470). -/
def State.enteredGrid (t s : State) (n : Nat) : Prop :=
  t.get Fd.PRF_GRID_STAT_state = n ∧ t.site = { s.site with clearFc := 0, clearThisFc := false } ∧
  (if n = 1 ∨ n = 2 then
    t.get Fd.PRF_GRID_STAT_events = (s.get Fd.PRF_GRID_STAT_events + 1) % 65536 ∧ t.flag Fd.PRF_STAT_at_target = false ∧
    t.prf = (if s.groupAuto 0 || s.groupAuto 1 then
      { s.prf with p := s.drawnBefore, pk := s.drawnBefore, pk1 := s.drawnBefore, v := .wzero, a := .wzero } else s.prf)
  else t.get Fd.PRF_GRID_STAT_events = s.get Fd.PRF_GRID_STAT_events ∧ t.prf = s.prf) ∧
  t.withinRegs s (Reg.PRF_STAT :: Reg.PRF_GRID_STAT :: prfShown) ∧ t.within s [.regs, .prf, .site]
/-- `t` is `s` but for output stage `k`: its sequence, its register ZFB_OS, the status of the batch, and the registers listed. -/
def State.stageOnly (t s : State) (k : Fin 16) (l : List Nat) : Prop :=
  t.withinRegs s (Reg.ZFB_OS k :: Reg.ZFB_COMB_STAT :: l) ∧ (∀ i, i ≠ k → t.os i = s.os i) ∧ t.within s [.regs, .zfb] ∧
  t.zfb = { s.zfb with os := t.zfb.os, batchOn := t.zfb.batchOn }
/-- What a stage shows: its state, weight and zone in ZFB_OS. -/
def State.stageAt (t : State) (k : Fin 16) (st w z : Nat) : Prop := t.osState k = st ∧ t.osWeight k = w ∧ t.osZone k = z
/-- A ramp, a dwell or the pre-charge of stage `k` has run its frames (Table 05-2, Table 05-3). -/
def State.phaseEnds (s : State) (k : Fin 16) : Prop :=
  ((s.osState k = 2 ∨ s.osState k = 7) ∧ s.osWeight k = 0 ∧ 1 ≤ (s.os k).j) ∨ ((s.osState k = 6 ∨ s.osState k = 9) ∧ s.osWeight k = 512 ∧ 1 ≤ (s.os k).j) ∨
  (s.osState k = 3 ∧ (s.os k).step = .openDwell ∧ 16 ≤ (s.os k).j) ∨ (s.osState k = 4 ∧ (s.os k).step = .pre ∧ 128 ≤ (s.os k).j) ∨
  (s.osState k = 5 ∧ (s.os k).step = .closeDwell ∧ 16 ≤ (s.os k).j)
/-- The shed stages of zone `z` come back at full weight, and every other stage but `k` stands as it was (R146). -/
def State.shedRestored (t s : State) (k : Fin 16) (z : Nat) : Prop :=
  ∀ i : Fin 16, i ≠ k → t.os i = s.os i ∧
    (z < 4 ∧ s.osZone i = z ∧ (s.osState i = 7 ∨ s.osState i = 8) → t.stageAt i 9 512 z) ∧
    (¬(z < 4 ∧ s.osZone i = z ∧ (s.osState i = 7 ∨ s.osState i = 8)) → t.rd (Reg.ZFB_OS i) = s.rd (Reg.ZFB_OS i))
/-- A block remembers no unacknowledged fault of a kind, class and unit, so that a new one does not escalate (R445). -/
def State.notHeld (s : State) (b : Fin 18) (own : Bool) (cls unit : Nat) : Prop :=
  ∀ r ∈ vget s.flt.rem b, ¬(r.own = own ∧ r.cls = cls ∧ r.unit = unit)
/-- One fault more is counted in a block. -/
def State.faultCounted (t s : State) (b : Nat) : Prop := t.get (Fd.FLT_STAT_count b) = (s.get (Fd.FLT_STAT_count b) + 1) % 65536
/-- Stage `k` stands fenced with a cause, bound to `z` and out of any batch, its weight as it was in `s`; one fault more is counted in ZFB, and the
shed stages of the zone come back. -/
def State.fencedWith (t s : State) (k : Fin 16) (cause z : Nat) : Prop :=
  t.stageAt k 0xA (s.osWeight k) z ∧ t.get (Fd.ZFB_OS_fence_cause k) = cause ∧ (t.os k).inBatch = false ∧
  t.get (Fd.FLT_STAT_count 4) = (s.get (Fd.FLT_STAT_count 4) + 1) % 65536 ∧ t.shedRestored s k z ∧ t.within s [.regs, .hmp, .zfb, .flt]
/-- The commands by which a tray's uplink frame arrives, each with the type of frame it stands for (Table 12-8). -/
def uplinkCommands (l : Fin 16) (cyc : Nat) (ok : Bool) (up : Uplink) : List (Instr × UpType) :=
  [(.stepArm l cyc ok up, .arm), (.stepGo l cyc ok up, .go), (.stepEnd l cyc ok up, .fin), (.stepPeriod l cyc ok up, .period),
   (.waggleStatus l cyc ok up, .status)]
/-- The registers that show THROTTLE_N. -/
def thrRegs : List Nat := (List.range 4).map Reg.WGL_THR
/-- Each zone's THROTTLE_N line stands at what its sources ask for, and WGL_THR shows the line and the sources (R186, Table 06-5). -/
def State.linesShown (t : State) : Prop := ∀ z : Fin 4, vget t.pins.throttleLow z = t.throttleOn z ∧ t.flag (Fd.WGL_THR_level z) = t.throttleOn z ∧
  t.flag (Fd.WGL_THR_keeper z) = t.keeperSrc z ∧ t.flag (Fd.WGL_THR_exhaust z) = t.exhaustSrc ∧ t.flag (Fd.WGL_THR_ext z) = t.extSrc z
/-- What a lane has sent: the last frame and the register WGL_LANE_TX, which shows its ceiling, allowance and held bit. -/
def State.laneSent (t : State) (l : Fin 16) (f : CeilFrame) : Prop := vget t.wgl.sentCeil l = some f ∧
  t.get (Fd.WGL_LANE_TX_ceil l) = f.ceil % 4096 ∧ t.get (Fd.WGL_LANE_TX_allow l) = f.allow % 65536 ∧ t.flag (Fd.WGL_LANE_TX_held l) = f.held
/-- The sequencer of the array's level, with a step towards `eff` done at level `l`: it goes on up or down, or is IDLE (R212). -/
def State.steppedFrom (t : State) (l eff : Nat) : Prop :=
  (l < eff → t.get Fd.CLK_ADN_SEQ_phase = 1 ∧ t.flag Fd.CLK_ADN_LEVEL_busy = true ∧ t.get Fd.CLK_ADN_LEVEL_present = l) ∧
  (eff < l → t.get Fd.CLK_ADN_SEQ_phase = 4 ∧ t.flag Fd.CLK_ADN_LEVEL_busy = true ∧ t.get Fd.CLK_ADN_LEVEL_present = l - 1) ∧
  (l = eff → t.get Fd.CLK_ADN_SEQ_phase = 0 ∧ t.flag Fd.CLK_ADN_LEVEL_busy = false ∧ t.get Fd.CLK_ADN_LEVEL_present = l) ∧ t.arr.seq.start = t.now
/-- A phase of the sequencer has begun now. -/
def State.phaseBegun (t : State) (p : Nat) : Prop := t.get Fd.CLK_ADN_SEQ_phase = p ∧ t.arr.seq.start = t.now
/-- ADN_STAT counts the cores by their states. -/
def State.coresCounted (t : State) : Prop :=
  t.get Fd.ADN_STAT_n_fenced = ((List.range 48).filter fun k => t.coreState k == 6).length ∧
  t.get Fd.ADN_STAT_n_test = ((List.range 48).filter fun k => t.coreState k == 5).length ∧
  t.get Fd.ADN_STAT_n_bound = ((List.range 48).filter fun k => decide (2 ≤ t.coreState k ∧ t.coreState k ≤ 4)).length ∧
  t.get Fd.ADN_STAT_n_free = ((List.range 48).filter fun k => decide (t.coreState k ≤ 1)).length

/-- Of the cell chain only ring `r` of `s` has changed, and nothing else. -/
def State.ringOnly (t s : State) (r : Fin 3) : Prop :=
  (∀ q, q ≠ r → t.ring q = s.ring q) ∧ t.chn.nodes = s.chn.nodes ∧ t.chn.woken = s.chn.woken ∧ t.within s [.chn]
/-- A ring after a frame is put on its line: the next sequence number is taken, and the frame leaves unless the module is a standby (R244, R248). -/
def ringSent (x : ChnStr) (standby : Bool) (txn : Option ChnTxn) (f : ChnFrame) : ChnStr :=
  { x with seq := (x.seq + 1) % 16, txn := txn, sent := if standby then x.sent else some f }
/-- Ring `r` has put a command to node `i` on its line, and waits for the reply: RING mode from port A in a whole ring, RETURN mode from the end that
reaches the node in another, and the third attempt in RETURN mode from the port nearer the node (R252, R253). -/
def State.sendsTo (t s : State) (r : Fin 3) (i : Fin 14) (op attempt : Nat) (payload : List Nat) : Prop :=
  ∃ f : ChnFrame, t.ring r = ringSent (s.ring r) s.isStandby (some ⟨i.val + 1, op, (s.ring r).seq, attempt⟩) f ∧
    f.op = op ∧ f.seq = (s.ring r).seq ∧ f.payload = payload ∧ f.portA = !f.portB ∧
    (attempt ≠ 3 → s.ringState r = 1 → f.hop = i.val + 1 ∧ f.ret = false ∧ f.portB = false) ∧
    (attempt ≠ 3 → s.ringState r ≠ 1 → f.ret = true ∧ f.portB = !decide (i.val + 1 ≤ s.get (Fd.CHN_STR_STAT_reach_a r)) ∧
      f.hop = (if i.val + 1 ≤ s.get (Fd.CHN_STR_STAT_reach_a r) then i.val + 1 else 15 - (i.val + 1))) ∧
    (attempt = 3 → f.ret = true ∧ f.portB = decide (8 ≤ i.val + 1) ∧ f.hop = min (i.val + 1) (15 - (i.val + 1)))
/-- A transaction of ring `r` has failed (R249): it is counted, and noted once in a slow frame; a READ keeps its place for the retry slot, and one that
has failed twice in a whole ring goes out once more (R253). -/
def State.txnFailed (t s : State) (r : Fin 3) (x : ChnTxn) (crc : Bool) : Prop :=
  t.get (Fd.CHN_STR_CNT_failed r) = (s.get (Fd.CHN_STR_CNT_failed r) + 1) % 256 ∧
  t.get (Fd.CHN_STR_CNT_crc_err r) = (if crc then (s.get (Fd.CHN_STR_CNT_crc_err r) + 1) % 65536 else s.get (Fd.CHN_STR_CNT_crc_err r)) ∧
  (t.ring r).noted = true ∧ ((s.ring r).noted = false → t.faultCounted s 7) ∧
  (∀ i : Fin 14, x.op = 0x20 → x.node = i.val + 1 → (t.node r i).failed = true ∧
    (t.ring r).txn = (if x.attempt = 2 ∧ s.ringState r = 1 then some ⟨x.node, 0x20, (s.ring r).seq, 3⟩ else none)) ∧
  (x.op ≠ 0x20 → (t.ring r).txn = none) ∧ (∀ q, q ≠ r → t.ring q = s.ring q) ∧ t.within s [.regs, .hmp, .zfb, .wgl, .chn, .flt, .pins]
/-- A request that waits for the next frame (R59): the write joins the module's queue with its slot's bit, and nothing else changes. -/
def queuedAs (c : Instr) (w : PairWrite) (s : State) : Prop :=
  exec c s = .next { s with wq := s.wq ++ [{ w with slot := s.get Fd.LKS_STAT_slot_id % 2 }] }

/-- A packet of the open session `x` passes every check of Table 13-3 up to its execution: what steps 1 to 7 ask, then 8 to 12. `busy`, `denied` and
`bad` are what its opcode adds to steps 7, 9 and 12. -/
def State.passes (s : State) (o : OpInfo) (p : Pkt) (busy : State → Bool) (denied : State → Sess → Bool) (bad : State → Option Nat) (x : Sess) : Prop :=
  (p.notPacket = false ∧ s.portUp p.port = true ∧ p.lenOk = true ∧ (s.arrive p).sessionOf p = some x ∧ p.session ≠ 0 ∧ p.version = x.version ∧
    p.macOk = true ∧ x.accepts p.seq = true) ∧
  (((s.arrive p).renew p.port p.session).executing = true ∧
    (((s.arrive p).renew p.port p.session).mgp.waiting.filter fun w => w.port == p.port).length < ((s.arrive p).renew p.port p.session).window p.port ∧
    (o.sem = true → ((s.arrive p).renew p.port p.session).sec.staged.length < 128) ∧ busy ((s.arrive p).renew p.port p.session) = false) ∧
  (o.minVer ≤ x.version ∧ o.roles.contains x.role = true ∧ denied (s.taken p) x = false ∧
    ((s.taken p).flt.halt = .none ∨ o.inHalt = true) ∧ ((s.taken p).flag Fd.SEC_BOOT_recovery = false ∨ o.inRecovery = true) ∧
    (o.sem = true → (s.taken p).holdsSem p.port p.session = true ∨ (s.taken p).flag Fd.SEC_BOOT_recovery = true) ∧ bad (s.taken p) = none)
/-- A packet with session 0 passes the checks of Table 13-3 that apply to it (R362, R369). -/
def State.passesUnopened (s : State) (p : Pkt) (versionOk : State → Bool) (len : Nat) : Prop :=
  p.notPacket = false ∧ s.portUp p.port = true ∧ p.lenOk = true ∧ versionOk (s.arrive p) = true ∧ (s.arrive p).executing = true ∧
    ((s.arrive p).mgp.waiting.filter fun w => w.port == p.port).length < (s.arrive p).window p.port ∧ p.payload.length = len
/-- The reply last sent on the packet's port is the packet's, with this status, cause and data (R363, R364). -/
def State.replied (t : State) (p : Pkt) (status cause : Nat) (data : List Nat) : Prop :=
  ∃ r, vget t.mgp.sent p.port = some r ∧ r.tag = p.tag ∧ r.session = p.session ∧ r.seq = p.seq ∧ r.status = status ∧ r.cause = cause ∧ r.data = data
/-- The module has accepted the packet's command, and will report its result later: OK with async set, and no data (R365). -/
def State.acceptedAsync (t : State) (p : Pkt) : Prop :=
  ∃ r, vget t.mgp.sent p.port = some r ∧ r.tag = p.tag ∧ r.session = p.session ∧ r.seq = p.seq ∧ r.status = 0 ∧ r.async = true ∧ r.data = []
/-- What a packet that has been taken in may change beside its command's own effect: its instant, the sessions and the semaphore with their audit entries
and Notes, and the reply. -/
def packetParts : List Part := [.regs, .time, .hmp, .mgp, .sec, .flt]
/-- What a read may change beside: the words held for the next read (R13), an injected missing answer (R466), and the errors of the DRAM it meets (R459). -/
def readParts : List Part := packetParts ++ [.zfb, .wgl, .arr, .pins, .shadow, .free]
/-- A packet names the open session `x` and passes steps 1 to 4 of Table 13-3. -/
def State.known (s : State) (p : Pkt) (x : Sess) : Prop :=
  p.notPacket = false ∧ s.portUp p.port = true ∧ p.lenOk = true ∧ (s.arrive p).sessionOf p = some x ∧ p.session ≠ 0 ∧ p.version = x.version ∧ p.macOk = true
/-- The supervisor executes packets, and a slot of the port's window is free: steps 6 and 7 of Table 13-3, but for an opcode's own cause of BUSY_RETRY. -/
def State.takesPacket (s : State) (o : OpInfo) (p : Pkt) : Prop :=
  ((s.arrive p).renew p.port p.session).executing = true ∧
    (((s.arrive p).renew p.port p.session).mgp.waiting.filter fun w => w.port == p.port).length < ((s.arrive p).renew p.port p.session).window p.port ∧
    (o.sem = true → ((s.arrive p).renew p.port p.session).sec.staged.length < 128)
/-- The commands of an open session, each with its row of Table 13-6 and what makes it answer BUSY_RETRY beside steps 6 and 7. -/
def sessionCommands (p : Pkt) (rootOk : Bool) : List (Instr × OpInfo × (State → Bool)) :=
  [(.sessionClose p, sessionCloseOp, never), (.keepalive p, keepaliveOp, never), (.semAcquire p, semAcquireOp, never),
   (.semRelease p, semReleaseOp, never), (.semSeize p, semSeizeOp, never), (.regRead p, regReadOp, never),
   (.regWrite p, regWriteOp, fun s => s.commissionBusy ((p.entries 8).map fun e => (beNat (e.take 4), 0xFFFFFFFF, BitVec.ofNat 32 (beNat (e.drop 4))))),
   (.regWriteMasked p, regWriteMaskedOp, fun s => s.commissionBusy p.maskedWrites), (.combRead p, combReadOp, never), (.rebind p, rebindOp, never),
   (.rebindAbort p, rebindAbortOp, never), (.fenceClear p, fenceClearOp, never), (.stringDuty p, stringDutyOp, never),
   (.groupLimit p, groupLimitOp, never), (.csetLoad p, csetLoadOp, never), (.loopMode p, loopModeOp, never), (.profileRead p, profileReadOp, never),
   (.cellRead p, cellReadOp, never), (.storageClear p, storageClearOp, never), (.capacityLoad p, capacityLoadOp, never),
   (.basketStore p, basketStoreOp, never), (.basketAdmit p, basketAdmitOp, never), (.basketEvict p, basketEvictOp, never),
   (.basketVariant p, basketVariantOp, never), (.quarantineClear p, quarantineClearOp, never), (.basketStatus p, basketStatusOp, never),
   (.resultRead p, resultReadOp, never), (.arrayTarget p, arrayTargetOp, never), (.hamperRead p, hamperReadOp, never),
   (.faultRead p, faultReadOp, never), (.faultAck p, faultAckOp, never), (.logRead p, logReadOp, never), (.dumpRead p, dumpReadOp, never),
   (.healthRead p, healthReadOp, never), (.claimHistory p, claimHistoryOp, never), (.bertWindow p, bertWindowOp, never),
   (.fwStore p, fwStoreOp, fun s => s.inTrial || s.sec.checking), (.fwActivate p, fwActivateOp, fun s => s.inTrial || s.sec.checking),
   (.attest p, attestOp, never), (.auditRead p, auditReadOp, never), (.keyLoad p rootOk, keyOp, never), (.keyClear p rootOk, keyOp, never),
   (.injectRecord p, testOp, never), (.injectWriteCheck p, testOp, never), (.injectHang p, testOp, never), (.injectTimeout p, testOp, never),
   (.injectEcc p, testOp, never), (.injectClock p, testOp, never), (.injectSupply p, testOp, never), (.injectComparator p, testOp, never)]
/-- The writes of a packet as they are stamped: with the session's role, its port and number, the packet's number, and the module's slot. -/
def State.stamped (s : State) (p : Pkt) (x : Sess) (ws : List (Nat × Word × Word)) : List PairWrite :=
  ws.map fun w => { addr := w.1, mask := w.2.1, val := w.2.2, role := x.role, port := p.port, session := p.session, pkt := s.mgp.packets + 1,
                    slot := s.get Fd.LKS_STAT_slot_id % 2 }
/-- The bits of the writes that `m` names, and no write that has none of them. -/
def maskedBits (m : Nat → Word) (l : List PairWrite) : List PairWrite :=
  l.filterMap fun w => if w.mask &&& m w.addr = 0 then none else some { w with mask := w.mask &&& m w.addr }
/-- `t` is `s` after a packet of session `x` has queued the writes `ws` (R59, R301, R365): at the claimant they wait in its queue; at a standby the bits of
pair fields are forwarded and the others wait. The reply waits for the last of them, or leaves at once where no bit is left to write. -/
def State.writesQueued (t s : State) (o : OpInfo) (p : Pkt) (x : Sess) (ws : List (Nat × Word × Word)) (check : ReplyCheck) (data : List Nat) : Prop :=
  ∃ own fwd : List PairWrite,
    (s.isStandby = false → own = s.stamped p x ws ∧ fwd = []) ∧
    (s.isStandby = true → own = maskedBits (fun a => ~~~(pairMask a)) (s.stamped p x ws) ∧ fwd = maskedBits pairMask (s.stamped p x ws)) ∧
    t.wq = s.wq ++ own ∧ t.lks = { s.lks with fwd := s.lks.fwd ++ fwd } ∧
    (own.length + fwd.length = 0 → t.replied p 0 0 data) ∧
    (own.length + fwd.length ≠ 0 → ∃ w, t.mgp.waiting = s.mgp.waiting ++ [w] ∧ w.port = p.port ∧ w.pkt = s.mgp.packets + 1 ∧
      w.when' = .written (own.length + fwd.length) ∧ w.check = check ∧ w.reply.tag = p.tag ∧ w.reply.session = p.session ∧ w.reply.seq = p.seq ∧
      w.reply.data = data ∧ (o.sem = true → w.audit = some (packetAudit x.role p.port p.payload))) ∧
    t.within s ([.wq, .lks] ++ packetParts)
/-- A session has ended (R366): it is open no longer, and the semaphore it held is free. -/
def State.sessionEnded (t s : State) (port : Fin 3) (n : Nat) : Prop :=
  t.mgp.sessions = (s.mgp.sessions.filter fun x => !(x.port == port && x.num == n)) ∧
  (s.holdsSem port n = true → t.mgp.sem = none ∧ t.flag Fd.MGP_SEM_STAT_held = false) ∧ (s.holdsSem port n = false → t.mgp.sem = s.mgp.sem)

/-- The parts that a reset of all domains may change: the estimate, the saved configuration and the waiting writes are not among them. -/
def resetParts : List Part :=
  [.regs, .time, .lpe, .hmp, .prf, .site, .zfb, .wgl, .lks, .link, .chn, .arr, .flt, .mgp, .sec, .pwr, .pins]
/-- The time base has moved over a gap of LFRC periods (R40). -/
def State.gapPassed (t s : State) (gap : Nat) : Prop :=
  t.time.frame = (s.time.frame + ceilDiv (gap * 125) 16) % 2 ^ 48 ∧ t.time.frameStart = (s.time.frameStart + 1000 * ceilDiv (gap * 125) 16) % 2 ^ 64 ∧
    t.get Fd.KPR_CLKMON_GAP_gap = gap % 2 ^ 32
/-- Every domain but KEEPER is in reset with a cause, and the keys and firmware banks stand (R389, R452). -/
def State.allReset (t s : State) (cause : Nat) : Prop :=
  (∀ d, t.inReset d = true) ∧ t.get Fd.KPR_RST_STAT_cause_loop = cause ∧ t.get Fd.KPR_RST_STAT_cause_compute = cause ∧
    t.get Fd.KPR_RST_STAT_cause_links = cause ∧ t.get Fd.KPR_RST_STAT_cause_mem = cause ∧ t.pins.valid = false ∧
    t.sec.keys = s.sec.keys ∧ t.sec.banks = s.sec.banks
/-- The module restarts as at power-on (R428): all domains are in reset and wait for the PLLs, no crystal is the reference, and the gap has passed. -/
def State.restarted (t s : State) (cause gap : Nat) : Prop :=
  t.allReset s cause ∧ t.pwr.stopped = false ∧ t.pwr.failAt = none ∧ t.pwr.lockWait = true ∧ t.get Fd.CLK_PSTATE_state = 0 ∧
    t.get Fd.CLK_SRC_STAT_ref = 2 ∧ t.gapPassed s gap ∧ (∀ r : Fin 3, vget t.chn.woken r = true) ∧ t.within s resetParts
/-- An attempt to start has begun from crystal `x` (R421, R422), which the gap and the restart's fault record. -/
def State.clockStarted (t s : State) (x : Fin 2) (gap : Nat) : Prop :=
  t.get Fd.CLK_SRC_STAT_ref = x ∧ (x = 1 → t.flag Fd.CLK_SRC_STAT_xt_fallback = true) ∧ t.flag Fd.KPR_CLKMON_STAT_wait = false ∧
    t.pwr = { s.pwr with stopped := false, tripAt := none, next := none, attempt := true, lockWait := true } ∧ t.gapPassed s gap ∧
    t.get (Fd.FLT_STAT_count 14) = (s.get (Fd.FLT_STAT_count 14) + 2) % 65536 ∧ t.within s [.regs, .time, .hmp, .pwr, .flt]
/-- The outputs stand in the safe state (R448). -/
def State.outputsSafe (t : State) : Prop :=
  t.flt.safe = true ∧ t.pins.valid = false ∧ t.pins.syncOut = false ∧ (∀ z : Fin 4, vget t.pins.pgood z = false) ∧ t.flag Fd.LKS_STAT_own_valid = false
/-- What survives a power cycle (R12): keys, firmware banks and boot record, the audit log, capacities, the claim history and the saved configuration. -/
def State.storeKept (t s : State) : Prop :=
  t.sec.keys = s.sec.keys ∧ t.sec.banks = s.sec.banks ∧ t.sec.next = s.sec.next ∧ t.sec.flash = s.sec.flash ∧ t.sec.staged = s.sec.staged ∧
    t.sec.lastH = s.sec.lastH ∧ t.rd Reg.SEC_BOOT = s.rd Reg.SEC_BOOT ∧ t.est.slots = s.est.slots ∧ t.lks.history = s.lks.history ∧
    t.cfg.record = s.cfg.record ∧ t.flag Fd.SUP_CFG_CTRL_autostart = s.flag Fd.SUP_CFG_CTRL_autostart

/-- The start order stands at a step (R495). -/
def State.atStep (s : State) (x : AutoStep) : State := { s with cfg := { s.cfg with step := x } }

end Sys2Proof.Machine
end

