-- ==== Sys2Proof/Certificates/Slice0/Obligations.lean ====
section
/-! DEFINITION. The statements about the model, one for each line of OBLIGATIONS.json. Each names the rules of spec/ that it rests on. A statement
about a command says that `exec` answers a next state, what that state holds, and what it leaves as it was. -/

open Sys2Proof
open Sys2Proof.Machine

/-! ## The block and its frames (chapters 00 to 03) -/

/-- The block takes the command at the front of its queue: a step is that command's effect on the state with the queue's rest. With an empty queue the
block idles, and the state stands: that clause is the model's own choice (log entry 1), and no rule of the spec. -/
def Obligations.StepRunsTheCommandInFront : Prop :=
  ∀ s : State, (∀ (c : Instr) (rest : List Instr), s.pending = c :: rest → step s = exec c { s with pending := rest }) ∧ (s.pending = [] → step s = .next s)

/-- After power-on reset every register reads as its reset word (R11, R38, R39), the forms that every step keeps hold, frame 0 begins at timestamp 0, and
no command waits. A field for which the spec gives no reset value reads as 0, which is the model's own choice (log entry 3). -/
def Obligations.ResetLeavesResetWords : Prop :=
  State.reset.good ∧ (∀ a, State.reset.rd a = resetWord a) ∧ State.reset.time.frame = 0 ∧ State.reset.now = 0 ∧ State.reset.pending = [] ∧
    State.reset.pins.valid = false ∧ State.reset.osState 0 = 0

/-- An invariant of every step, from every state that meets it: the register file keeps its canonical form, so that equal contents are equal data, the
frame number stays within 48 bits and the timestamp within 64 (R38, R39). -/
def Obligations.EveryStepKeepsTheForms : Prop := ∀ s t : State, s.good → step s = .next t → t.good

/-- Every command completes from every state: none stops the block. It leaves the queue of waiting commands alone, and the commands that do not move
the time base leave the frame number and the frame's timestamp as they were (R38, R39). -/
def Obligations.EveryCommandLeavesQueueAndTime : Prop :=
  ∀ (c : Instr) (s : State), ∃ t, exec c s = .next t ∧ t.pending = s.pending ∧
    (movesTime c = false → t.time.frame = s.time.frame ∧ t.time.frameStart = s.time.frameStart)

/-- R33, R38, R39, R36, R447: a frame's start ends the frame in progress after its own length: the frame number and the timestamp go on modulo their
widths, the loop engine has not run yet, and FAULT_N and SYNC_OUT stand as the faults and the mode ask. While the engine clock is stopped no frame
starts. -/
def Obligations.FrameStartBeginsTheNextFrame : Prop :=
  ∀ (samples : List (Vector Int 24)) (pins : FramePins) (s : State),
    (s.pwr.stopped = true → exec (.frameStart samples pins) s = .next s) ∧
    (s.pwr.stopped = false → ∃ t, exec (.frameStart samples pins) s = .next t ∧ t.time.frame = (s.time.frame + 1) % 2 ^ 48 ∧
      t.time.frameStart = (s.time.frameStart + s.time.len) % 2 ^ 64 ∧ t.lpe.ran = false ∧ t.lpe.writeOk = false ∧ t.lpe.checkOk = false ∧
      t.flt.faultLow = (!t.pins.testMode && (t.flt.safe || t.faultNLow)) ∧
      t.pins.syncOut = (t.flag Fd.SNS_SYNC_CTRL_sync_out_en && !t.flt.safe && !t.pins.testMode))

/-- R306, R307, R36, R89, R92: the steps of a frame. The exchange closes once: at a standby the frame is computed on the partner's set where that has
come whole. The loop engine runs once, after the close, and writes its outputs. The write check passes where all are written, and raises a Halt
otherwise: the module releases its claim. -/
def Obligations.FrameStepsRunInOrder : Prop :=
  ∀ s : State, s.pwr.stopped = false →
    (∃ t, exec .inputExchangeClose s = .next t ∧ t.inp.closed = true ∧ (s.inp.closed = true → t = s) ∧
      (s.inp.closed = false → s.inReset 0 = true → t.inp = { s.inp with closed := true, onPartner := s.isStandby && s.inp.partner.isSome } ∧
        t.get Fd.LKS_CNT_A_exch_miss = (if s.lks.partnerValid && !s.inp.partner.isSome then
          (s.get Fd.LKS_CNT_A_exch_miss + 1) % 2 ^ Fd.LKS_CNT_A_exch_miss.len else s.get Fd.LKS_CNT_A_exch_miss) ∧
        (s.isStandby = true → s.inp.partner.isNone = true → t.flag Fd.LKS_STAT_synced = false) ∧ t.time = { s.time with cycle := 300 })) ∧
    (∃ t, exec .loopEngineRun s = .next t ∧ (s.lpe.ran = true → t = s) ∧ (s.inp.closed = true → s.loopRuns = false → t = s) ∧
      (s.lpe.ran = false → s.inp.closed = true → s.loopRuns = true → t.lpe.ran = true ∧ t.lpe.writeOk = true ∧ t.time.frame = s.time.frame)) ∧
    (∃ t, exec .writeCheck s = .next t ∧
      (s.loopRuns = true → t.lpe.injectMissing = false ∧ t.lpe.checkOk = (s.lpe.writeOk && !s.lpe.injectMissing)) ∧
      (s.loopRuns = true → (s.lpe.writeOk && !s.lpe.injectMissing) = false →
        t.flag (Fd.FLT_STAT_halt 1) = true ∧ t.flt.safe = true ∧ t.pins.valid = false ∧ t.flt.halt ≠ .none))

/-- R51, R159, R331: at cycle 640 every lane on which the module may send takes the frame's command, with the frame's number, the claim and the
stage's reference, where the write check has passed; the other lanes keep their last one. PGOOD follows: driven by a claimant, and by a standby
without a failed item. Where the loops do not run nothing leaves. -/
def Obligations.StageCommandsLeave : Prop :=
  ∀ s : State,
    ((s.pwr.stopped = true ∨ s.loopRuns = false) → exec .stageCommandsLeave s = .next s) ∧
    (s.pwr.stopped = false → s.loopRuns = true → ∃ t, exec .stageCommandsLeave s = .next t ∧
      (∀ n : Fin 26, s.lpe.checkOk = true → s.stageSends n = true → ∃ c, vget t.link.cmds n = some c ∧ c.seq = s.time.frame % 65536 ∧
        c.claim = s.pins.claim ∧ c.mode = s.stageMode n ∧ (c.mode = .run → c.ref = vget s.lpe.refs n) ∧ (c.mode ≠ .run → c.ref = 0) ∧
        c.ver = s.get (Fd.STL_LANE_STAT_version n)) ∧
      (∀ n : Fin 26, (s.lpe.checkOk && s.stageSends n) = false → vget t.link.cmds n = vget s.link.cmds n) ∧
      (∀ z : Fin 4, vget t.pins.pgood z = ((s.lks.claimant || (s.isStandby && s.lks.items == 0)) && !s.flt.safe && !s.pins.testMode &&
        (s.flag (Fd.WGL_PGOOD_level z) && !s.flag (Fd.WGL_PGOOD_keeper_trip z)))) ∧
      t.within s [.regs, .time, .zfb, .wgl, .link, .pins])

/-- R72 to R75, R85: one loop for one frame. A loop that is not enabled has output 0, and its histories and its integrator stand at 0. Of an enabled
loop, the limiter's input is the compensator's output and the feed-forward term, and the limiter marks what it does; in MANUAL the compensator's
output is the manual power over the link voltage, and the integrator stands. The reference of a stage is the loop's output divided by weight (R64):
within the field's range, and 0 where no stage has weight. -/
def Obligations.LoopsComputeAndShare : Prop :=
  (∀ (l : Nat) (x : LoopRt) (i : LoopIn), i.enabled = false →
    (loopStep l x i).1.y = .zero ∧ (loopStep l x i).1.integ = ⟨0, -32⟩ ∧ (loopStep l x i).1.enabled = false ∧
      (∀ m ∈ (loopStep l x i).1.eb.ms ++ (loopStep l x i).1.hb.ms ++ (loopStep l x i).1.sb.ms, m = 0) ∧
      (loopStep l x i).2 = { sat := false, ovf := false, preset := false, rateAct := false, hiAct := false, loAct := false }) ∧
  (∀ (l : Nat) (x : LoopRt) (i : LoopIn), i.enabled = true → i.manual = true →
    (loopStep l x i).1.yc = (divBF ((Frac.ofInt 1000).mul i.pman.frac) i.vlink.frac).1 ∧
      (x.split = i.cs.split → (loopStep l x i).1.integ = x.integ)) ∧
  (∀ (l : Nat) (x : LoopRt) (i : LoopIn), i.enabled = true →
    (loopStep l x i).1.u = roundBF ((loopStep l x i).1.yc.frac.add i.f.frac) ∧
      (loopStep l x i).1.y = (limiter (loopStep l x i).1.u x.y i.rate i.hi i.lo).1 ∧
      (loopStep l x i).2.hiAct = (limiter (loopStep l x i).1.u x.y i.rate i.hi i.lo).2.2.1 ∧
      (loopStep l x i).1.hiFrames = (if (loopStep l x i).2.hiAct then x.hiFrames + 1 else 0)) ∧
  (∀ u yPrev rate hi lo : BF24, rate.m = 0 → lo.le u = true → u.le hi = true →
    limiter u yPrev rate hi lo = (roundBF u.frac, false, false, false)) ∧
  (∀ y : BF24, -(2 ^ 23 : Int) ≤ refField y ∧ refField y ≤ 2 ^ 23 - 1) ∧
  (∀ (s : State) (n : Fin 26), s.wSum (if n.val < 16 then s.osZone n else if n.val < 22 then 4 else 5 + s.feGroup (n - 22)) = 0 →
    vget s.stageRefs n = 0)

/-- R92 to R95: arming empties the region, takes the counts and waits; with the records after the trigger taken the capture is DONE, and Hamper's
other states stand. R502, R13: a stage that was commanded IDLE and OPEN, and reported so, in 256 frames in a row is no longer under command. A read of
the low word of a quantity holds its upper word for that master, and no other read changes. -/
def Obligations.CapturesEndAndStagesAreReleased : Prop :=
  (∀ s : State,
    (s.get Fd.HMP_STAT_state = 2 → s.hmp.trigPending = false → s.hmp.postLeft = 0 →
      ∃ t, exec .hamperCaptureDone s = .next t ∧ t.get Fd.HMP_STAT_state = 3 ∧ t.withinRegs s [Reg.HMP_STAT] ∧ t.within s [.regs]) ∧
    (s.get Fd.HMP_STAT_state ≠ 2 → exec .hamperCaptureDone s = .next s) ∧
    (s.hamperArm.get Fd.HMP_STAT_state = 1 ∧ s.hamperArm.hmp.recs = [] ∧ s.hamperArm.get Fd.HMP_STAT_pre_valid = 0 ∧
      s.hamperArm.get Fd.HMP_EFF_PRE_pre_eff + s.hamperArm.get Fd.HMP_EFF_POST_post_eff ≤
        max (s.get Fd.HMP_REGION_size_mib * 2 ^ 20 / recBytes s.nodeCount) (s.get Fd.HMP_PRE_pre + max 1 (s.get Fd.HMP_POST_post)) ∧
      s.hamperArm.within s [.regs, .hmp]) ∧
    (s.hamperDisarm.get Fd.HMP_STAT_state = 0 ∧ s.hamperDisarm.hmp = s.hmp)) ∧
  (∀ s : State,
    (∀ n : Fin 26, vget s.zfb.under n = true → 256 ≤ vget s.zfb.idleFrames n →
      ∃ t, exec (.stageReleased n) s = .next t ∧ t.stageUnder n = false ∧ (∀ m, m ≠ n → t.stageUnder m = s.stageUnder m) ∧ t.within s [.zfb]) ∧
    (∀ n : Fin 26, (vget s.zfb.under n = false ∨ vget s.zfb.idleFrames n < 256) → exec (.stageReleased n) s = .next s) ∧
    (∀ (m : Fin 16) (a : Nat), ∃ t, exec (.lowWordRead m a) s = .next t ∧ t.within s [.shadow] ∧
      (isLowWord a = true → t.readAs m (a + 4) = s.live (a + 4)) ∧ (isLowWord a = false → t = s) ∧
      (∀ m' a' : Nat, ¬(m' = m ∧ a' = a + 4) → t.readAs m' a' = s.readAs m' a')))

/-! ## Time, set-points and following (chapters 02 to 04, 17) -/

/-- R45 to R47: an accepted edge gives the phase error, folded into −500 to 499, and outside HOLDOVER the next frame's length; one that comes too
early counts for nothing. 64 edges in a row within ±1 end ACQUIRE; a step ends the frame at the target's frame start, from 901 cycles on; 4 frames
without an edge enter HOLDOVER with a Note, and 16 frames with one leave it. -/
def Obligations.AlignmentFollowsEdges : Prop :=
  ∀ s : State,
    (∀ cyc : Nat, ∃ t, exec (.syncInEdge cyc) s = .next t ∧ t.withinRegs s [Reg.SNS_SYNC_STAT] ∧ t.within s [.regs, .time] ∧
      ((s.follows = false ∨ (s.atCycle cyc).edgeFar = false) → t = s.atCycle cyc) ∧
      (s.follows = true → (s.atCycle cyc).edgeFar = true → ∃ err : Int, -500 ≤ err ∧ err < 500 ∧
        (err - cyc - s.get Fd.SNS_SYNC_OFFSET_offset) % 1000 = 0 ∧ t.get Fd.SNS_SYNC_STAT_phase_err = toBits 16 err ∧
        t.time.lastEdge = some ((s.time.frameStart + cyc) % 2 ^ 64) ∧ t.time.edgeThisFrame = true ∧
        (s.alignState ≠ 3 → (err < -1 → t.time.nextLen = 999) ∧ (1 < err → t.time.nextLen = 1001) ∧
          (-1 ≤ err → err ≤ 1 → t.time.nextLen = 1000)) ∧
        (s.alignState = 3 → t.time.nextLen = s.time.nextLen) ∧
        t.time.goodEdges = (if s.alignState = 1 ∧ -1 ≤ err ∧ err ≤ 1 then s.time.goodEdges + 1 else 0))) ∧
    (∃ t, exec .alignmentLocked s = .next t ∧ t.withinRegs s [Reg.SNS_SYNC_STAT] ∧ t.within s [.regs] ∧
      t.alignState = (if s.alignState = 1 ∧ 64 ≤ s.time.goodEdges then 2 else s.alignState)) ∧
    (∀ e, s.time.lastEdge = some e → s.alignState = 1 → s.flag Fd.SNS_SYNC_CTRL_step_allow = true → s.anyUnder = false →
      ∃ t, exec .alignmentStep s = .next t ∧ 901 ≤ t.time.len ∧ t.time.len ≤ 1900 ∧ t.time.nextLen = 1000 ∧
        ((s.time.frameStart : Int) + t.time.len - e - s.get Fd.SNS_SYNC_OFFSET_offset) % 1000 = 0 ∧ t.flag Fd.SNS_SYNC_STAT_stepped = true ∧
        t.withinRegs s [Reg.SNS_SYNC_STAT] ∧ t.within s [.regs, .time]) ∧
    ((s.alignState = 1 ∨ s.alignState = 2) → 4 ≤ s.time.noEdgeFrames →
      ∃ t, exec .holdoverEntry s = .next t ∧ t.alignState = 3 ∧ t.flag Fd.SNS_SYNC_STAT_edge_missing = true ∧
        t.time = { s.time with nextLen := 1000, edgeFrames := 0 } ∧ t.faultCounted s 8 ∧ t.within s [.regs, .time, .hmp]) ∧
    (s.alignState = 3 → 16 ≤ s.time.edgeFrames →
      ∃ t, exec .holdoverExit s = .next t ∧ t.alignState = 1 ∧ t.time = { s.time with goodEdges := 0 } ∧ t.withinRegs s [Reg.SNS_SYNC_STAT] ∧
        t.within s [.regs, .time])

/-- R97, R100 to R104, R470, R105: at a forecast frame's start the target is formed, and the generator advances by one step towards it, or stands at
the measured draw while the grid is down; the registers show what it holds. Elsewhere nothing happens. At a slow frame's start the correction for
state of charge is formed, 0 where it is not enabled. -/
def Obligations.ProfileAdvancesAtForecastFrames : Prop :=
  ∀ s : State,
    (s.fcStart = false → exec .profileStep s = .next s) ∧
    (s.fcStart = true → ∃ t, exec .profileStep s = .next t ∧ t.prf.pTgt = s.pTarget ∧ t.shownProfile ∧
      ((s.groupAuto 0 || s.groupAuto 1) = false → t.prf = { s.prf with pTgt := s.pTarget }) ∧
      ((s.groupAuto 0 || s.groupAuto 1) = true → s.gridDown = true → t.flag Fd.PRF_STAT_at_target = false ∧
        t.prf = { s.prf with pTgt := s.pTarget, p := s.drawnBefore, pk := s.drawnBefore, pk1 := s.drawnBefore, v := .wzero, a := .wzero }) ∧
      ((s.groupAuto 0 || s.groupAuto 1) = true → s.gridDown = false → ∃ o : StepOut,
        o = Machine.profileStep (wofBF (s.getBF Reg.PRF_VEL)) (wofBF (s.getBF Reg.PRF_ACC)) (wofBF (s.getBF Reg.PRF_JERK)) s.pTarget s.prf.p s.prf.v s.prf.a ∧
        (o.atTarget = true → o.p = s.pTarget ∧ o.v = .wzero ∧ o.a = .wzero) ∧ t.flag Fd.PRF_STAT_at_target = o.atTarget ∧
        t.prf = { s.prf with pTgt := s.pTarget, pk := s.prf.p, pk1 := o.p, p := o.p, v := o.v, a := o.a }) ∧
      t.withinRegs s (Reg.PRF_STAT :: prfShown) ∧ t.within s [.regs, .prf, .free]) ∧
    (s.slowStart = false → exec .socCorrectionUpdate s = .next s) ∧
    (s.slowStart = true → ∃ t, exec .socCorrectionUpdate s = .next t ∧ t.prf = { s.prf with pSoc := roundW s.socCorrection } ∧ t.shownProfile ∧
      ((s.flag Fd.PRF_CTRL_soc_en = false ∨ (List.range 3).any s.onSwing = false) → t.prf.pSoc = .wzero) ∧
      t.withinRegs s prfShown ∧ t.within s [.regs, .prf])

/-- R98, R107, R141: the fallback begins after 64 stale forecast frames, with no forecast at all, or where forecasts are not enabled, and ends after
16 fresh ones in a row. The honey reserve opens where one of its conditions held in the frame before, and the RESERVE strings' stages take full weight
at once; it closes at a slow frame's start after 1024 quiet forecast frames. -/
def Obligations.FallbackAndReserveFollowTheirCounts : Prop :=
  ∀ s : State,
    (∃ t, exec .forecastFallback s = .next t ∧ t.withinRegs s [Reg.PRF_STAT] ∧ t.within s [.regs] ∧
      t.flag Fd.PRF_STAT_fallback = (s.flag Fd.PRF_STAT_fallback || decide (64 ≤ s.get Fd.PRF_STAT_stale_count) || s.prf.pBase.isNone ||
        !s.flag Fd.PRF_CTRL_fc_en)) ∧
    (∃ t, exec .fallbackExit s = .next t ∧ t.withinRegs s [Reg.PRF_STAT] ∧ t.within s [.regs] ∧
      t.flag Fd.PRF_STAT_fallback = (s.flag Fd.PRF_STAT_fallback && !(decide (16 ≤ s.prf.freshCount) && s.flag Fd.PRF_CTRL_fc_en))) ∧
    (s.prf.resCond = true → s.flag Fd.PRF_STAT_reserve_open = false →
      ∃ t, exec .honeyReserveOpen s = .next t ∧ t.flag Fd.PRF_STAT_reserve_open = true ∧ t.withinRegs s [Reg.PRF_STAT] ∧
        (∀ i : Fin 6, t.ssW i = if s.get (Fd.ZFB_STR_duty (i / 2)) = 1 ∧ s.strDecl (i / 2) = true ∧ s.ssFenced i = false then 512 else s.ssW i) ∧
        t.zfb = { s.zfb with ssW := t.zfb.ssW } ∧ t.within s [.regs, .zfb]) ∧
    ((s.prf.resCond = false ∨ s.flag Fd.PRF_STAT_reserve_open = true) → exec .honeyReserveOpen s = .next s) ∧
    (∃ t, exec .honeyReserveClose s = .next t ∧ t.withinRegs s [Reg.PRF_STAT] ∧ t.within s [.regs] ∧
      t.flag Fd.PRF_STAT_reserve_open = (s.flag Fd.PRF_STAT_reserve_open && !(s.slowStart && decide (1024 ≤ s.prf.quietFc))))

/-- R109, R117, R119 to R121, R499, R501: a string without an update for more than 4 sweeps is a fault, once. A loop's timer at its limit records its
fault, sets expired and its cause, and asks for the reaction in the next frame. Exhausted storage clears after 256 frames of a link within its limit.
A zone's retry clears its fence and counts; the count is set back after a whole slow frame without trouble. -/
def Obligations.SupervisionExpiresAndRetries : Prop :=
  ∀ s : State,
    (∀ i : Fin 3, s.strDecl i = true → vget s.prf.socValid i = true → 4 < vget s.prf.sweepsSinceSoc i → vget s.prf.staleFault i = false →
      s.notHeld 11 false 1 (0x700 + i) →
      ∃ t, exec (.stringSocStale i) s = .next t ∧ vget t.prf.staleFault i = true ∧ t.faultCounted s 11 ∧
        t.get (Fd.FLT_STAT_pair_pend 11) = s.get (Fd.FLT_STAT_pair_pend 11) ||| 2 ∧ t.within s [.regs, .hmp, .prf, .flt]) ∧
    (∀ i : Fin 3, (vget s.prf.sweepsSinceSoc i ≤ 4 ∨ vget s.prf.staleFault i = true) → exec (.stringSocStale i) s = .next s) ∧
    (∀ l : Fin 7, s.get (Fd.LPE_FOLLOW_CTRL_timer_limit l) ≠ 0 → s.get (Fd.LPE_FOLLOW_CTRL_timer_limit l) ≤ s.get (Fd.LPE_FOLLOW_STAT_timer l) →
      (s.loop l).expireNow = false → (l = 4 → s.notHeld 1 false 1 0x600) →
      ∃ t, exec (.followExpiry l) s = .next t ∧ t.flag (Fd.LPE_FOLLOW_STAT_expired l) = true ∧
        t.flag (Fd.LPE_FOLLOW_STAT_cause l) = (decide (l.val < 4) && (s.loop l).hiAll) ∧ vget t.lpe.react l = true ∧
        (∀ i, i ≠ l → vget t.lpe.react i = vget s.lpe.react i) ∧ (t.loop l).expireNow = true ∧ t.hmp.followHit = true ∧ t.faultCounted s 1 ∧
        t.get (Fd.FLT_STAT_pair_pend 1) = s.get (Fd.FLT_STAT_pair_pend 1) ||| (if l = 4 then 2 else 4) ∧ t.within s [.regs, .lpe, .hmp, .flt]) ∧
    (s.prf.linkExhaust = true → 256 ≤ s.prf.linkOkFrames →
      exec .storageExhaustionClear s = .next { s with prf := { s.prf with linkExhaust := false } }) ∧
    (∀ z : Fin 4, vget s.zfb.zoneFenced z = true → vget s.zfb.retryDue z = true → vget s.zfb.retryLeft z = 0 →
      ∃ t, exec (.zoneRetry z) s = .next t ∧ vget t.zfb.zoneFenced z = false ∧ vget t.zfb.retryDue z = false ∧
        t.get (Fd.LPE_FOLLOW_STAT_retries_used z) = min (s.get (Fd.LPE_FOLLOW_STAT_retries_used z) + 1) (2 ^ (Fd.LPE_FOLLOW_STAT_retries_used z).len - 1) ∧
        (∀ k : Fin 16, s.osZone k = z → s.osState k = 0xB → t.osState k = 4 ∧ (t.os k).step = .pre ∧ (t.os k).dst = z) ∧
        (∀ k : Fin 16, ¬(s.osZone k = z ∧ s.osState k = 0xB) → t.os k = s.os k ∧ t.rd (Reg.ZFB_OS k) = s.rd (Reg.ZFB_OS k)) ∧
        t.within s [.regs, .zfb]) ∧
    (∀ z : Fin 4, ∃ t, exec (.retriesReset z) s = .next t ∧ t.withinRegs s [Reg.LPE_FOLLOW_STAT z] ∧ t.within s [.regs] ∧
      t.get (Fd.LPE_FOLLOW_STAT_retries_used z) = (if s.slowStart && vget s.zfb.doneWhole z then 0 else s.get (Fd.LPE_FOLLOW_STAT_retries_used z)))

/-- R467, R470, R474: the grid state moves as its counts say; an entry to SAG or LOSS is counted and the generator stands at the measured draw. Where
the condition does not hold, nothing happens. At a slow frame's start the coolant's flow and its alarms are formed. -/
def Obligations.GridStateMovesByItsCounts : Prop :=
  ∀ s : State,
    ((s.site.lossDue = true ∧ s.get Fd.PRF_GRID_STAT_state ≠ 2 → ∃ t, exec .gridLoss s = .next t ∧ t.enteredGrid s 2) ∧
      (s.site.lossDue = false ∨ s.get Fd.PRF_GRID_STAT_state = 2 → exec .gridLoss s = .next s)) ∧
    ((s.site.sagDue = true ∧ s.site.lossDue = false ∧ (s.get Fd.PRF_GRID_STAT_state = 0 ∨ s.get Fd.PRF_GRID_STAT_state = 3) →
        ∃ t, exec .gridSag s = .next t ∧ t.enteredGrid s 1) ∧
      (s.site.sagDue = false ∨ s.site.lossDue = true → exec .gridSag s = .next s)) ∧
    ((s.get Fd.PRF_GRID_STAT_state = 1 ∧ s.get Fd.PRF_GRID_HOLD_sag_clear ≤ s.site.clearFc → ∃ t, exec .gridSagClear s = .next t ∧ t.enteredGrid s 0) ∧
      (s.site.clearFc < s.get Fd.PRF_GRID_HOLD_sag_clear → exec .gridSagClear s = .next s)) ∧
    ((s.get Fd.PRF_GRID_STAT_state = 2 ∧ s.get Fd.PRF_GRID_HOLD_return_hold ≤ s.site.clearFc → ∃ t, exec .gridReturn s = .next t ∧ t.enteredGrid s 3) ∧
      (s.site.clearFc < s.get Fd.PRF_GRID_HOLD_return_hold → exec .gridReturn s = .next s)) ∧
    ((s.get Fd.PRF_GRID_STAT_state = 3 ∧ s.fcStart = true ∧
          (if s.groupAuto 0 || s.groupAuto 1 then s.flag Fd.PRF_STAT_at_target else s.site.ratePrev) = true →
        ∃ t, exec .gridNormal s = .next t ∧ t.enteredGrid s 0) ∧
      (s.fcStart = false → exec .gridNormal s = .next s)) ∧
    ((s.slowStart = false → exec .coolantUpdate s = .next s) ∧
      (s.slowStart = true → ∃ t, exec .coolantUpdate s = .next t ∧
        t.get Fd.PRF_COOL_STAT_flow = min 65535 (s.site.pulsesLast * 600000000 / (max 1 (s.get Fd.PRF_COOL_CTRL_ppl) * 1048576)) ∧
        t.flag Fd.PRF_COOL_STAT_flow_lost = (s.site.pulsesLast == 0) ∧
        t.flag Fd.PRF_COOL_STAT_flow_low = decide (s.site.pulsesLast * 600000000 <
          s.get Fd.PRF_COOL_CTRL_flow_min * (max 1 (s.get Fd.PRF_COOL_CTRL_ppl) * 1048576)) ∧
        t.flag Fd.PRF_COOL_STAT_out_hot = s.coolHot 21 (s.get Fd.PRF_COOL_LIM_out_max) ∧
        t.flag Fd.PRF_COOL_STAT_in_hot = s.coolHot 20 (s.get Fd.PRF_COOL_LIM_in_max) ∧ t.withinRegs s [Reg.PRF_COOL_STAT] ∧ t.within s [.regs]))

/-- R59, R301: what the command table writes by its register's name is a write that arrives at the module: it is stamped in the present frame, and
waits for the next one with those before it. At a standby the pair's bits of a write go to the claimant instead, and the module's own wait here. -/
def Obligations.RequestsWaitForTheNextFrame : Prop :=
  ∀ s : State,
    (s.isStandby = false →
      (queuedAs .zfbGo (fieldWrite Fd.ZFB_COMB_CTRL_go 1) s ∧ queuedAs .zfbAbort (fieldWrite Fd.ZFB_COMB_CTRL_abort 1) s ∧
        queuedAs .capClear (fieldWrite Fd.CLK_ADN_DROOP_cap_clear 1) s ∧ queuedAs .hmpArm (fieldWrite Fd.HMP_CTRL_arm 1) s ∧
        queuedAs .hmpDisarm (fieldWrite Fd.HMP_CTRL_disarm 1) s ∧ queuedAs .forceTrig (fieldWrite Fd.HMP_CTRL_force_trig 1) s ∧
        queuedAs .bertAbort (fieldWrite Fd.STL_BERT_CTRL_abort 1) s ∧ queuedAs .resync (fieldWrite Fd.LKS_CTRL_resync 1) s ∧
        queuedAs .clearCounts (fieldWrite Fd.LKS_CTRL_clear_counts 1) s ∧ queuedAs .sleepRequest (fieldWrite Fd.CLK_PSTATE_req 1) s ∧
        queuedAs .deepSleepRequest (fieldWrite Fd.CLK_PSTATE_req 2) s ∧ queuedAs .runRequest (plainWrite Reg.CLK_PSTATE 3 0) s ∧
        queuedAs .hostWakeRelease (fieldWrite Fd.KPR_CHWAKE_STAT_host_wake 1) s ∧ queuedAs .dumpRequest (fieldWrite Fd.LKS_DUMP_CTRL_request 1) s ∧
        queuedAs .configSave (fieldWrite Fd.SUP_CFG_CTRL_save 1) s ∧ queuedAs .configErase (fieldWrite Fd.SUP_CFG_CTRL_erase 1) s ∧
        queuedAs .ppDisable (fieldWrite Fd.FFW_PP_CTRL_en 0) s) ∧
      (∀ k : Fin 48, queuedAs (.coreFence k) (fieldWrite (Fd.ADN_CORE_CTRL_fence k) 1) s ∧ queuedAs (.coreUnfence k) (fieldWrite (Fd.ADN_CORE_CTRL_unfence k) 1) s ∧
        queuedAs (.coreTestStart k) (fieldWrite (Fd.ADN_CORE_TEST_test_run k) 1) s) ∧
      (∀ mask : Fin 8, queuedAs (.rescan mask) (fieldWrite Fd.CHN_CTRL_rescan mask) s ∧ queuedAs (.owtRequest mask) (fieldWrite Fd.CHN_OWT_REQ_owt_now mask) s ∧
        queuedAs (.anchorDiscard mask) (fieldWrite Fd.EST_CTRL_discard_anchor mask) s) ∧
      (∀ mask : Fin 16, queuedAs (.resetRequest mask) (fieldWrite Fd.KPR_RST_CTRL_req mask) s) ∧
      (∀ (b : Bool) (v : Word), queuedAs (.declarationWrite b v) (plainWrite (if b then Reg.ZFB_DECL_PWR else Reg.ZFB_DECL_OS) 0xFFFFFFFF v) s ∧
        queuedAs (.syncConfigWrite b v) (plainWrite (if b then Reg.SNS_SYNC_OFFSET else Reg.SNS_SYNC_CTRL) 0xFFFFFFFF v) s) ∧
      (∀ b : Fin 18, queuedAs (.clearCapture b) (fieldWrite (Fd.FLT_CTRL_clear_capture b) 1) s ∧
        (∀ v : Word, queuedAs (.faultPendingClear b v) (plainWrite (Reg.FLT_STAT b) 0x707 v) s) ∧
        ∀ h : Bool, queuedAs (.faultModeChange b h) (fieldWrite (Fd.FLT_CFG_mode b) (b2n h)) s) ∧
      (∀ n : Fin 26, queuedAs (.laneRetrain n) (fieldWrite (Fd.STL_LANE_CTRL_retrain n) 1) s) ∧
      (∀ t : Fin 16, queuedAs (.laneClear t) (fieldWrite (Fd.WGL_LANE_CTRL_clear t) 1) s) ∧
      (∀ z : Fin 4, queuedAs (.ffwCommitRequest z) (fieldWrite (Fd.FFW_ZONE_CTRL_commit z) 1) s ∧
        ∀ (c : Fin 8) (v : Word), queuedAs (.vstoreWrite z c v) (plainWrite (Reg.LPE_VSTORE z c) 0xFFFFFFFF v) s) ∧
      (∀ (r : Fin 3) (v : Bool), queuedAs (.modelValidWrite r v) (fieldWrite (Fd.EST_MODEL_CTRL_valid r) (b2n v)) s) ∧
      (∀ (i : Fin 3) (d : Fin 4), queuedAs (.nextDutyWrite i d) (fieldWrite (Fd.ZFB_STR_next_duty i) d) s) ∧
      (∀ (l : Fin 7) (n : Fin 4), queuedAs (.switchSet l n) (plainWrite (Reg.LPE_LOOP_CTRL l) 0x38 (BitVec.ofNat 32 (16 * n.val + 8))) s ∧
        ∀ (r : Fin 9) (v : Word), queuedAs (.coeffSetWrite l n r v) (plainWrite (Reg.LPE_CSET_CTRL l n + 4 * r) 0xFFFFFFFF v) s) ∧
      (∀ (g : Fin 2) (m : Bool), queuedAs (.loopModeChange g m) (fieldWrite (Fd.LPE_LOOP_CTRL_manual (5 + g)) (b2n m)) s) ∧
      (∀ (a : Nat) (m v : Word), a < actBase → queuedAs (.registerWrite a m v) (plainWrite a m v) s) ∧
      (s.anyUnder = false → queuedAs .commission (fieldWrite Fd.STL_BERT_CTRL_commission 1) s) ∧
      (∀ c : Fin 4, vget s.flt.hung c = false → s.computeDown = false → queuedAs (.heartbeatBeat c) (fieldWrite (Fd.LKS_HB_beat c) 1) s)) ∧
    (s.anyUnder = true → exec .commission s = .next s) ∧
    (s.isStandby = true → ∀ (a : Nat) (m v : Word), a < actBase → ∃ t, exec (.registerWrite a m v) s = .next t ∧ t.within s [.wq, .lks] ∧
      (m &&& pairMask a ≠ 0 → t.lks.fwd = s.lks.fwd ++ [{ plainWrite a (m &&& pairMask a) v with slot := s.get Fd.LKS_STAT_slot_id % 2 }]) ∧
      (m &&& pairMask a = 0 → t.lks = s.lks) ∧
      (m &&& ~~~(pairMask a) ≠ 0 → t.wq = s.wq ++ [{ plainWrite a (m &&& ~~~(pairMask a)) v with slot := s.get Fd.LKS_STAT_slot_id % 2 }]) ∧
      (m &&& ~~~(pairMask a) = 0 → t.wq = s.wq))

/-! ## Zone fabric (chapter 05) -/

/-- R134, R149, R150, Table 05-3: when a ramp, a dwell or the pre-charge of an output stage has run its frames, SEQUENCE_PHASE_END takes the stage to
its next phase. The stage alone changes, with the status of the batch and, where a stage comes back from a fence, cap_limited of its zone (R147).
R134, R137, R144, R146, Table 05-3: a limit of a stage's sequence that has run out, or a mismatch that has lasted its frames, fences the stage. Its
binding follows the last confirmed switch state, a Fence is counted in ZFB, and the shed stages of its zone come back at full weight. -/
def Obligations.StagesEnterPhasesOrFence : Prop :=
  (∀ (k : Fin 16) (s : State), s.phaseEnds k →
    ∃ t, exec (.sequencePhaseEnd k) s = .next t ∧ t.stageOnly s k [Reg.ZFB_ZONE_STAT (s.osZone k)] ∧
      (s.osState k = 2 → t.stageAt k 3 0 (s.osZone k) ∧ (t.os k).step = .zeroWait ∧ (t.os k).j = 0) ∧
      (s.osState k = 3 → (s.os k).dst < 4 → s.zoneFenced (s.os k).dst = false →
        t.stageAt k 4 0 (s.osZone k) ∧ (t.os k).step = .pre ∧ (t.os k).j = 0 ∧ (t.os k).openCmd = true) ∧
      (s.osState k = 3 → (4 ≤ (s.os k).dst ∨ s.zoneFenced (s.os k).dst = true) → t.stageAt k 0 0 4 ∧ (t.os k).inBatch = false) ∧
      (s.osState k = 4 → t.stageAt k 4 (s.osWeight k) (s.osZone k) ∧ (t.os k).step = .matching ∧ (t.os k).j = 0) ∧
      (s.osState k = 5 → t.stageAt k 6 0 (s.osZone k) ∧ (t.os k).step = .none) ∧
      (s.osState k = 6 ∨ s.osState k = 9 → t.stageAt k 1 512 (s.osZone k) ∧ (t.os k).inBatch = false) ∧
      (s.osState k = 7 → t.stageAt k 8 0 (s.osZone k)) ∧
      t.get Fd.ZFB_COMB_STAT_busy_mask = t.busyMask ∧
      (s.zfb.batchOn = true → t.busyMask = 0 → t.zfb.batchOn = false ∧ t.flag Fd.ZFB_COMB_STAT_batch_done = true) ∧
      (t.busyMask ≠ 0 → t.zfb.batchOn = s.zfb.batchOn)) ∧
  (∀ (k : Fin 16) (s : State),
    (s.osState k = 3 → (s.os k).step = .zeroWait → (s.os k).clearReq = false → 16 ≤ (s.os k).j →
      ∃ t, exec (.zeroITimeout k) s = .next t ∧ t.fencedWith s k 3 (s.osZone k) ∧ (t.os k).openCmd = (s.os k).openCmd) ∧
    (s.osState k = 3 → (s.os k).step = .openSent → 16 ≤ (s.os k).j →
      ∃ t, exec (.switchConfirmTimeout k) s = .next t ∧ t.fencedWith s k 4 (s.osZone k)) ∧
    (s.osState k = 5 → (s.os k).step = .closeSent → 16 ≤ (s.os k).j →
      ∃ t, exec (.switchConfirmTimeout k) s = .next t ∧ t.fencedWith s k 4 ((s.os k).dst % 8) ∧ (t.os k).openCmd = true) ∧
    (s.osState k = 4 → (s.os k).step = .matching → 64 ≤ (s.os k).j →
      ∃ t, exec (.prechargeMatchTimeout k) s = .next t ∧ t.fencedWith s k 5 4) ∧
    (s.osState k = 1 → s.lpe.ran = false → 0 < s.get Fd.ZFB_MISMATCH_CTRL_mismatch_frames →
      s.get Fd.ZFB_MISMATCH_CTRL_mismatch_frames ≤ (s.os k).mism →
      ∃ t, exec (.currentMismatchFence k) s = .next t ∧ t.fencedWith s k 1 (s.osZone k)))

/-- R149, R150: at the end of shed_hold the highest ACTIVE stage of a zone starts SHEDDING where the others stay below the add threshold, and the
timer returns to 0 where they do not; at the end of add_hold the lowest SHED stage starts ADDING and the add timer returns to 0. -/
def Obligations.ShedAndAddPickTheirStage : Prop :=
  ∀ (z : Fin 4) (k : Fin 16) (s : State),
    (s.shedDue z = true → s.osZone k = z → s.osState k = 1 → (∀ i : Fin 16, k < i → ¬(s.osZone i = z ∧ s.osState i = 1)) →
      (s.shedFits z = true → ∃ t, exec (.shedHoldExpiry z) s = .next t ∧ t.stageAt k 7 (s.osWeight k) z ∧ (t.os k).j = 0 ∧
        t.withinRegs s [Reg.ZFB_OS k] ∧ (∀ i, i ≠ k → t.os i = s.os i) ∧ t.within s [.regs, .zfb]) ∧
      (s.shedFits z = false → ∃ t, exec (.shedHoldExpiry z) s = .next t ∧ t.get (Fd.ZFB_SHED_STAT_shed_timer z) = 0 ∧
        t.withinRegs s [Reg.ZFB_SHED_STAT z] ∧ t.within s [.regs])) ∧
    (s.addDue z = true → s.osZone k = z → s.osState k = 8 → (∀ i : Fin 16, i < k → ¬(s.osZone i = z ∧ s.osState i = 8)) →
      ∃ t, exec (.addHoldExpiry z) s = .next t ∧ t.stageAt k 9 (s.osWeight k) z ∧ (t.os k).j = 0 ∧ vget t.zfb.addTimer z = 0 ∧
        t.withinRegs s [Reg.ZFB_OS k] ∧ (∀ i, i ≠ k → t.os i = s.os i) ∧ t.within s [.regs, .zfb])

/-- R154, R156, R158: at a forecast-frame boundary a declared lane takes its requested group, and the pins of every zone are sampled: a sample unlike
the last one starts the count again, and the eighth equal sample is accepted. After 64 qualifying frames PGOOD is high. R147, R445: after 500 000
overload frames in one window the zone's cap_limited is set and one Degrade is counted in ZFB. Stages and weights stay as they were, unless the same
fault stands unacknowledged: then the new one escalates, and the zone is fenced. -/
def Obligations.ZoneSignalsAndOverloadsAreJudged : Prop :=
  (∀ (s : State),
    (s.fcStart = true → ∀ l : Fin 16, ∃ t, exec (.jobGroupApply l) s = .next t ∧ t.withinRegs s [Reg.ZFB_LANE l] ∧ t.within s [.regs] ∧
      t.get (Fd.ZFB_LANE_group l) = (if s.laneDecl l then s.get (Fd.ZFB_LANE_next_group l) else 63) ∧
      t.get (Fd.ZFB_LANE_next_group l) = s.get (Fd.ZFB_LANE_next_group l) ∧ t.laneZone l = s.laneZone l) ∧
    (s.fcStart = true → ∃ t, exec .vselSample s = .next t ∧ t.withinRegs s ((List.range 4).map Reg.WGL_VSEL) ∧ t.within s [.regs] ∧
      ∀ z : Fin 4, t.get (Fd.WGL_VSEL_pin_code z) = s.pinCode z ∧ t.get (Fd.WGL_VSEL_equal_count z) = s.equalSamples z ∧
        (s.pinCode z ≠ s.get (Fd.WGL_VSEL_pin_code z) → s.equalSamples z = 1 ∧ t.get (Fd.WGL_VSEL_code z) = s.get (Fd.WGL_VSEL_code z)) ∧
        (s.pinCode z = s.get (Fd.WGL_VSEL_pin_code z) → 7 ≤ s.get (Fd.WGL_VSEL_equal_count z) →
          t.get (Fd.WGL_VSEL_code z) = s.pinCode z ∧ t.flag (Fd.WGL_VSEL_valid z) = true)) ∧
    (∀ z : Fin 4, s.get (Fd.WGL_PGOOD_window_count z) = 64 → s.lpe.ran = false →
      ∃ t, exec (.pgoodHigh z) s = .next t ∧ t.flag (Fd.WGL_PGOOD_level z) = true ∧ t.withinRegs s [Reg.WGL_PGOOD z] ∧ t.within s [.regs])) ∧
  (∀ (z : Fin 4) (s : State), s.lpe.ran = false → 500000 ≤ s.get (Fd.ZFB_ZONE_STAT_overload_frames z) →
    s.flag (Fd.ZFB_ZONE_STAT_cap_limited z) = false →
    ∃ t, exec (.capLimited z) s = .next t ∧ t.flag (Fd.ZFB_ZONE_STAT_cap_limited z) = true ∧
      t.get (Fd.ZFB_ZONE_STAT_overload_frames z) = s.get (Fd.ZFB_ZONE_STAT_overload_frames z) ∧ t.faultCounted s 4 ∧
      (s.notHeld Blk.zfb false 1 (0x500 + z) → t.within s [.regs, .hmp, .flt] ∧ bit (t.get (Fd.FLT_STAT_pair_pend 4)) 1 = true ∧
        ∀ a, outWindow 4 a → a ≠ Reg.ZFB_ZONE_STAT z → t.rd a = s.rd a) ∧
      (¬s.notHeld Blk.zfb false 1 (0x500 + z) → vget t.zfb.zoneFenced z = true))

/-! ## Swarm steps and ceilings (chapter 06) -/

/-- R35, R164, R341, R344: a valid uplink frame of a declared, trained lane, one of the first four of its frame, enters the next frame's input set
with the timestamp of its reception. The markers and the STATUS frame alike. -/
def Obligations.UplinkFrameEntersInputs : Prop :=
  ∀ (l : Fin 16) (cyc : Nat) (ok : Bool) (up : Uplink) (s : State), ∀ c ∈ uplinkCommands l cyc ok up,
    s.laneDecl l = true → s.get (Fd.WGL_LANE_STAT_version l) ≠ 0 → upValid s l ok c.2 up = true →
    ((s.lane l).upCount < 4 →
      ∃ t, exec c.1 s = .next t ∧ t.within s [.time, .inp, .wgl] ∧ t.time = { s.time with cycle := cyc } ∧
        t.inp = { s.inp with nextWaggle := s.inp.nextWaggle ++ [{ lane := l, trx := (s.time.frameStart + cyc) % 2 ^ 64, up := up }] } ∧
        t.lane l = { s.lane l with heard := true, upCount := (s.lane l).upCount + 1 } ∧ ∀ i : Fin 16, i ≠ l → t.lane i = s.lane i) ∧
    (4 ≤ (s.lane l).upCount → c.2 = .status →
      ∃ t, exec c.1 s = .next t ∧ t.get (Fd.WGL_LINK_CNT_over_limit l) = (s.get (Fd.WGL_LINK_CNT_over_limit l) + 1) % 2 ^ (Fd.WGL_LINK_CNT_over_limit l).len ∧
        t.inp = s.inp ∧ t.withinRegs s [Reg.WGL_LINK_CNT l] ∧ t.within s [.regs, .time, .wgl])

/-- R167, R178, R190, R191: a pending arm whose time has run out is void and counts as a miss; a silent lane is flagged and loses its arm, with a
Note; a lane whose STEP_GO is overdue is flagged step_stale; and a storm clears after 64 clean sweeps. -/
def Obligations.LaneFlagsFollowTheirCounts : Prop :=
  ∀ (l : Fin 16) (s : State),
    (∀ a, (s.lane l).arm = some a → a.tp + 1000 * s.get Fd.FFW_PP_TIMEOUT_arm_timeout < s.time.frameStart →
      ∃ t, exec (.armTimeout l) s = .next t ∧ (t.lane l).arm = none ∧ (t.lane l).armMiss = (s.lane l).armMiss + 1 ∧
        t.flag (Fd.WGL_LANE_STAT_arm_pending l) = false ∧ t.rd (Reg.WGL_LANE_ARM_LO l) = 0 ∧ t.rd (Reg.WGL_LANE_ARM_HI l) = 0 ∧
        ((s.lane l).pp.kind = .move → (t.lane l).pp.kind = .fall ∧ (t.lane l).pp.start = (s.lane l).pp.val ∧ (t.lane l).pp.first = s.time.frame) ∧
        (∀ i : Fin 16, i ≠ l → t.lane i = s.lane i) ∧ t.within s [.regs, .wgl] ∧
        t.withinRegs s [Reg.WGL_LANE_STAT l, Reg.WGL_LANE_ARM_LO l, Reg.WGL_LANE_ARM_HI l, Reg.WGL_LANE_RISE l]) ∧
    (s.laneDecl l = true → 16 ≤ (s.lane l).silent → s.flag (Fd.WGL_LANE_STAT_link_down l) = false →
      ∃ t, exec (.linkDown l) s = .next t ∧ t.flag (Fd.WGL_LANE_STAT_link_down l) = true ∧ (t.lane l).arm = none ∧ (t.lane l).pp.kind ≠ .move ∧
        t.faultCounted s 6 ∧ t.flt = s.flt ∧ t.laneGroup l = s.laneGroup l ∧ t.rd (Reg.WGL_LANE_TX l) = s.rd (Reg.WGL_LANE_TX l) ∧
        (∀ i : Fin 16, i ≠ l → t.lane i = s.lane i) ∧ t.within s [.regs, .hmp, .wgl]) ∧
    (s.stepIsStale l = true →
      ∃ t, exec (.stepStale l) s = .next t ∧ t.flag (Fd.WGL_LANE_STAT_step_stale l) = true ∧ t.withinRegs s [Reg.WGL_LANE_STAT l] ∧ t.within s [.regs]) ∧
    (s.sweepStart = true → s.flag (Fd.WGL_LANE_STAT_storm l) = true → 64 ≤ (s.lane l).cleanSweeps →
      ∃ t, exec (.stormClear l) s = .next t ∧ t.flag (Fd.WGL_LANE_STAT_storm l) = false ∧
        t.flag (Fd.WGL_LANE_STAT_fenced l) = s.flag (Fd.WGL_LANE_STAT_fenced l) ∧ t.withinRegs s [Reg.WGL_LANE_STAT l] ∧ t.within s [.regs])

/-- R170, R173: in the onset frame of the anchor's pending arm the zone's anchor time becomes the start of the frame, the frame is a step boundary,
the zone takes the anchor's period, and g is formed from the rises of the arms near the release. R175, Table 06-3: a pending commit that is due makes
the inactive buffer the active one, and FFW_CRC is then the CRC-32 of the buffer that was active. The buffers themselves stay. -/
def Obligations.OnsetsAnchorAndCommitsSwap : Prop :=
  (∀ (z : Fin 4) (l : Fin 16) (a : Arm) (s : State), (s.zoneFf z).anchor = some l → (s.lane l).arm = some a → a.onset = false →
    s.time.frameStart < 2 ^ 64 → a.tp < s.time.frameStart + s.time.len + 900 →
    (s.time.frameStart + 900 ≤ a.tp ∨ a.accFrame = s.time.frame) →
    ∃ t, exec (.stepOnset z) s = .next t ∧ t.get64 (Reg.FFW_ANCHOR_LO z) (Reg.FFW_ANCHOR_HI z) = s.time.frameStart ∧
      t.rd (Reg.FFW_GAIN z) = (s.onsetGain z a.tp).toWord ∧ (t.lane l).arm = some { a with onset := true } ∧
      (t.zoneFf z).hasTa = true ∧ (t.zoneFf z).hold = false ∧ (t.zoneFf z).boundary = true ∧ (t.zoneFf z).onsetStep = some a.stepId ∧
      (t.zoneFf z).period = s.lanePeriod l ∧ (∀ y : Fin 4, y ≠ z → t.zoneFf y = s.zoneFf y) ∧ (∀ i : Fin 16, i ≠ l → t.lane i = s.lane i) ∧
      t.withinRegs s [Reg.FFW_ANCHOR_LO z, Reg.FFW_ANCHOR_HI z, Reg.FFW_GAIN z] ∧ t.within s [.regs, .wgl]) ∧
  (∀ (z : Fin 4) (s : State), s.commitDue z = true →
    ∃ t, exec (.ffwCommitApply z) s = .next t ∧ t.get (Fd.FFW_ZONE_STAT_active_buf z) = 1 - s.get (Fd.FFW_ZONE_STAT_active_buf z) ∧
      t.flag (Fd.FFW_ZONE_STAT_commit_pending z) = false ∧
      t.rd (Reg.FFW_CRC z) = crc32 (s.bufferBytes z (s.get (Fd.FFW_ZONE_STAT_active_buf z))) ∧
      (∀ k, t.bufferBytes z k = s.bufferBytes z k) ∧
      t.withinRegs s [Reg.FFW_ZONE_STAT z, Reg.FFW_CRC z] ∧ t.within s [.regs, .wgl] ∧ ∀ i : Fin 16, t.lane i = s.lane i)

/-- R179, R183, R185: at a forecast-frame boundary every group's c is latched; a fresh c gives the sent ceiling min(c_k, c_{k−1}), another one
min(c_k, s_{k−1}) with held, and no sent ceiling exceeds the level of a droop condition. The allowances are formed. R184: after the arbitration of the
SHARE bus a group's shared code is the least of the participants' codes, a module without members or in the safe state driving none; with share_en = 0
it is the local sent ceiling. It never exceeds the level of a droop condition. R182, R188, R192: outside a COMPUTE reset the firmware forms zc and sc,
and on the claimant it writes c and fresh of every group with members and of every zone with ungrouped lanes; in frames 192 and 196 of a forecast
frame every lane that may send gets its ceiling frame. -/
def Obligations.CeilingsAreComputedLatchedAndShared : Prop :=
  (∀ (s : State), s.fcStart = true →
    ∃ t, exec .ceilingLatch s = .next t ∧
      (∀ g, g < 63 → (t.groupCeil g).c = s.get (Fd.WGL_GROUP_NEXT_c g) ∧ (t.groupCeil g).fresh = false ∧
        (t.groupCeil g).held = !(s.groupCeil g).fresh ∧
        (t.groupCeil g).s = min (min (s.get (Fd.WGL_GROUP_NEXT_c g)) (if (s.groupCeil g).fresh then (s.groupCeil g).c else (s.groupCeil g).s))
          (s.groupCeil g).level ∧
        (s.flag Fd.WGL_CEIL_CTRL_share_en = false → (t.groupCeil g).sg = (t.groupCeil g).s) ∧
        t.get (Fd.WGL_GROUP_SENT_local g) = (t.groupCeil g).s % 4096) ∧
      (∀ z, z < 4 → (t.zoneCeil z).s = min (min (s.get (Fd.WGL_ZONE_NEXT_c z)) (if (s.zoneCeil z).fresh then (s.zoneCeil z).c else (s.zoneCeil z).s))
          (s.zoneCeil z).level ∧ (t.zoneCeil z).held = !(s.zoneCeil z).fresh) ∧
      (∀ l : Fin 16, vget t.wgl.allow l = s.allowance l) ∧ (∀ l : Fin 16, t.lane l = s.lane l) ∧
      t.withinRegs s ((List.range 63).map Reg.WGL_GROUP_SENT) ∧ t.within s [.regs, .wgl]) ∧
  (∀ (bus : Vector Nat 63) (s : State),
    ∃ t, exec (.shareArbitration bus) s = .next t ∧
      (∀ g : Fin 63, (s.flag Fd.WGL_CEIL_CTRL_share_en = true →
          (t.groupCeil g).sg = min (min (if (s.groupLanes g).isEmpty ∨ s.flt.safe = true then 4095 else (s.groupCeil g).s) (vget bus g % 4096)) (s.groupCeil g).level) ∧
        (s.flag Fd.WGL_CEIL_CTRL_share_en = false → (t.groupCeil g).sg = min (s.groupCeil g).s (s.groupCeil g).level) ∧
        t.groupCeil g = { s.groupCeil g with sg := (t.groupCeil g).sg } ∧ t.get (Fd.WGL_GROUP_SENT_shared g) = (t.groupCeil g).sg % 4096) ∧
      (∀ z, t.zoneCeil z = s.zoneCeil z) ∧ t.withinRegs s ((List.range 63).map Reg.WGL_GROUP_SENT) ∧ t.within s [.regs, .wgl]) ∧
  (∀ (s : State),
    (vget s.flt.rstOn 1 = false → s.isStandby = false →
      ∃ t, exec .ceilingCompute s = .next t ∧ t.within s [.wq, .wgl] ∧ (∀ z : Fin 4, vget t.wgl.zc z = s.nextZc z) ∧ t.wgl.sc = s.nextSc ∧
        t.wgl = { s.wgl with zc := t.wgl.zc, sc := t.wgl.sc } ∧
        t.wq = s.wq ++ (t.ceilWrites s.ceilFresh).map fun w => { w with slot := s.get Fd.LKS_STAT_slot_id % 2 }) ∧
    (vget s.flt.rstOn 1 = true → exec .ceilingCompute s = .next s) ∧
    (s.fcFrame = 192 →
      ∃ t, exec .ceilSend s = .next t ∧ t.within s [.regs, .time, .wgl] ∧ t.withinRegs s ((List.range 16).map Reg.WGL_LANE_TX) ∧
        (∀ l : Fin 16, s.laneSends l = true → t.laneSent l (s.ceilFrame l false)) ∧
        (∀ l : Fin 16, s.laneSends l = false → vget t.wgl.sentCeil l = vget s.wgl.sentCeil l ∧ t.rd (Reg.WGL_LANE_TX l) = s.rd (Reg.WGL_LANE_TX l))))

/-- R185, R187, Table 06-4: in the first frame in which a droop condition holds, the stored and the sent ceilings it names are at most its level, and
an urgent frame is due on every declared lane it names. The THROTTLE_N sources are evaluated first (R186). R186, Table 06-5: EXT_ALERT_N becomes an
active source after 2 low samples and ends after 256 high ones and its minimum time; the operator's source ends once force is 0 and its 256 frames are
over; after each, every line stands at what its sources ask for. -/
def Obligations.DroopLowersAndThrottleDrivesLines : Prop :=
  (∀ (s : State),
    ∃ t, exec .droopResponse s = .next t ∧ t.linesShown ∧ t.within s [.regs, .prf, .wgl, .pins] ∧
      (∀ i : Fin 14, vget t.wgl.condPrev i = s.throttleStart.droopCond i) ∧
      (∀ i ∈ s.throttleStart.newConds, ∀ g, g < 63 → s.namesGroup i g = true → (t.groupCeil g).c ≤ s.droopLevel i ∧ (t.groupCeil g).s ≤ s.droopLevel i ∧
        (t.groupCeil g).sg ≤ s.droopLevel i) ∧
      (∀ i ∈ s.throttleStart.newConds, ∀ z, z < 4 → namesZone i z = true → (t.zoneCeil z).c ≤ s.droopLevel i ∧ (t.zoneCeil z).s ≤ s.droopLevel i) ∧
      (∀ g, g < 63 → (t.groupCeil g).c ≤ (s.groupCeil g).c ∧ (t.groupCeil g).s ≤ (s.groupCeil g).s ∧ (t.groupCeil g).sg ≤ (s.groupCeil g).sg) ∧
      (∀ l : Fin 16, vget t.wgl.urgentDue l = (vget s.wgl.urgentDue l || s.urgentFor s.throttleStart.newConds l)) ∧
      t.withinRegs s (thrRegs ++ (List.range 63).map Reg.WGL_GROUP_SENT)) ∧
  (∀ (s : State),
    (s.wgl.extActive = false → 2 ≤ s.wgl.extLowRun →
      ∃ t, exec .extAlert s = .next t ∧ t.wgl = { s.wgl with extActive := true, extHold := 256 } ∧ t.linesShown ∧ t.withinRegs s thrRegs ∧
        t.within s [.regs, .wgl, .pins]) ∧
    (s.wgl.extActive = true → 256 ≤ s.wgl.extHighRun → s.wgl.extHold = 0 →
      ∃ t, exec .extAlert s = .next t ∧ t.wgl = { s.wgl with extActive := false } ∧ t.linesShown ∧ t.withinRegs s thrRegs ∧
        t.within s [.regs, .wgl, .pins]) ∧
    (∀ z : Fin 4, ∃ t, exec (.throttleRelease z) s = .next t ∧ t.linesShown ∧ t.withinRegs s thrRegs ∧ t.within s [.regs, .wgl, .pins] ∧
      (vget s.wgl.forceOn z = true → s.flag (Fd.WGL_THR_force z) = false → vget s.wgl.forceHold z = 0 → vget t.wgl.forceOn z = false) ∧
      (vget s.wgl.forceHold z ≠ 0 → vget t.wgl.forceOn z = vget s.wgl.forceOn z) ∧ (∀ y, y ≠ z → vget t.wgl.forceOn y = vget s.wgl.forceOn y) ∧
      (s.wgl.exhaustHold ≠ 0 → t.wgl.exhaustRaw = s.wgl.exhaustRaw)))

/-! ## Aedine array (chapter 07) -/

/-- R198: a set of values becomes one block with an exponent from −128 to 127 and every mantissa within its format's range. Where no mantissa
saturates, every rounded mantissa fits under the exponent, and under the next lower one some value does not. A set of zeros takes exponent −128. -/
def Obligations.BlockTakesLeastExponent : Prop :=
  ∀ (f : ArrFmt) (xs : List Frac), (∀ x ∈ xs, 0 < x.den) →
    -128 ≤ (toBlock f xs).1.e ∧ (toBlock f xs).1.e ≤ 127 ∧ (toBlock f xs).1.ms.length = xs.length ∧
    (∀ m ∈ (toBlock f xs).1.ms, f.lo ≤ m ∧ m ≤ f.hi) ∧
    ((∀ x ∈ xs, x.num = 0) → (toBlock f xs).1.e = -128 ∧ ∀ m ∈ (toBlock f xs).1.ms, m = 0) ∧
    ((toBlock f xs).2 = false → (∀ x ∈ xs, f.fits (toBlock f xs).1.e x = true) ∧
      ((toBlock f xs).1.e = -128 ∨ ∃ x ∈ xs, f.fits ((toBlock f xs).1.e - 1) x = false))

/-- R212, Table 07-5: a phase of the level sequencer that has run its time gives way to the next. A rise of the clock ends with the level one up; a
fall of the rail ends the step at the lower level; the sequencer then goes on towards eff, or is IDLE. -/
def Obligations.SequencerStepsTowardsTarget : Prop :=
  ∀ (cyc mv : Nat) (s : State), s.get Fd.CLK_ADN_LEVEL_present ≤ 5 →
    ∃ t, exec (.sequencerPhaseEnd cyc mv) s = .next t ∧ t.get Fd.CLK_ADN_SEQ_rail_mv = mv % 2 ^ Fd.CLK_ADN_SEQ_rail_mv.len ∧
      t.time = { s.time with cycle := cyc } ∧
      (s.get Fd.CLK_ADN_SEQ_phase = 1 → 2500 ≤ (s.railRead cyc mv).seqElapsed → t.phaseBegun 2) ∧
      (s.get Fd.CLK_ADN_SEQ_phase = 2 → 1000 ≤ (s.railRead cyc mv).seqElapsed → (s.railRead cyc mv).railNear mv = true → t.phaseBegun 3) ∧
      (s.get Fd.CLK_ADN_SEQ_phase = 3 → 2000 ≤ (s.railRead cyc mv).seqElapsed →
        t.steppedFrom (s.get Fd.CLK_ADN_LEVEL_present + 1) (s.get Fd.CLK_ADN_LEVEL_eff)) ∧
      (s.get Fd.CLK_ADN_SEQ_phase = 4 → 2000 ≤ (s.railRead cyc mv).seqElapsed → t.phaseBegun 5 ∧
        t.get Fd.CLK_ADN_SEQ_freq_mhz = levelMhz (s.get Fd.CLK_ADN_LEVEL_present)) ∧
      (s.get Fd.CLK_ADN_SEQ_phase = 5 → 2500 ≤ (s.railRead cyc mv).seqElapsed → (s.railRead cyc mv).railNear mv = true →
        t.steppedFrom (s.get Fd.CLK_ADN_LEVEL_present) (s.get Fd.CLK_ADN_LEVEL_eff)) ∧
      t.get Fd.CLK_ADN_LEVEL_eff = s.get Fd.CLK_ADN_LEVEL_eff ∧ t.get Fd.CLK_ADN_LEVEL_target = s.get Fd.CLK_ADN_LEVEL_target ∧
      t.withinRegs s [Reg.CLK_ADN_SEQ, Reg.CLK_ADN_LEVEL] ∧ t.within s [.regs, .time, .arr]

/-- R213, R214: a rail below Vd begins a droop: the sequencer freezes in its phase with the time it has run, the trip is counted, and the 17th of a
slow frame lowers the droop cap. When the rail has recovered, the sequencer goes on in the frozen phase, and a cap_clear that waited returns the cap.
R211, R215: a junction reading of 100 °C lowers the thermal cap to L3 and one of 103 °C to L0, and after a whole slow frame at 95 °C or less it
returns to L5; eff is formed anew each time, and never exceeds the cap. -/
def Obligations.DroopAndThermalCapsLimitTheLevel : Prop :=
  (∀ (cyc mv : Nat) (s : State),
    (s.flag Fd.CLK_ADN_DROOP_active = false → mv < (s.railRead cyc mv).droopThreshold →
      ∃ t, exec (.droopTrip cyc mv) s = .next t ∧ t.flag Fd.CLK_ADN_DROOP_active = true ∧ t.flag Fd.CLK_ADN_DROOP_tripped = true ∧
        t.get Fd.CLK_ADN_SEQ_phase = 6 ∧ t.arr.seq.frozen = s.get Fd.CLK_ADN_SEQ_phase ∧ t.arr.seq.ran = (s.railRead cyc mv).seqElapsed ∧
        t.get Fd.CLK_ADN_DROOP_trips = (s.get Fd.CLK_ADN_DROOP_trips + 1) % 2 ^ Fd.CLK_ADN_DROOP_trips.len ∧
        t.get Fd.CLK_ADN_LEVEL_present = s.get Fd.CLK_ADN_LEVEL_present ∧
        (s.get Fd.CLK_ADN_DROOP_trips_slow = 16 → t.get Fd.CLK_ADN_DROOP_droop_cap = s.get Fd.CLK_ADN_LEVEL_present - 1) ∧
        (s.get Fd.CLK_ADN_DROOP_trips_slow ≠ 16 → s.get Fd.CLK_ADN_DROOP_trips_slow ≠ 17 → t.faultCounted s 15 ∧
          t.get Fd.CLK_ADN_DROOP_droop_cap = s.get Fd.CLK_ADN_DROOP_droop_cap ∧ t.within s [.regs, .time, .hmp, .arr])) ∧
    (s.flag Fd.CLK_ADN_DROOP_active = true → (s.railRead cyc mv).droopThreshold + 15 ≤ mv → 1 ≤ s.arr.seq.frozen → s.arr.seq.frozen ≤ 5 →
      ∃ t, exec (.droopClear cyc mv) s = .next t ∧ t.flag Fd.CLK_ADN_DROOP_active = false ∧ t.get Fd.CLK_ADN_SEQ_phase = s.arr.seq.frozen ∧
        t.arr.seq.start = t.now - s.arr.seq.ran ∧ t.arr.seq.capClear = false ∧ t.get Fd.CLK_ADN_LEVEL_eff = t.effLevel ∧
        (s.arr.seq.capClear = true → t.get Fd.CLK_ADN_DROOP_droop_cap = 5) ∧
        (s.arr.seq.capClear = false → t.get Fd.CLK_ADN_DROOP_droop_cap = s.get Fd.CLK_ADN_DROOP_droop_cap) ∧
        t.get Fd.CLK_ADN_LEVEL_present = s.get Fd.CLK_ADN_LEVEL_present)) ∧
  (∀ (tj : Int) (s : State),
    (824 ≤ tj → 0 < s.get Fd.CLK_ADN_THERM_therm_cap →
      ∃ t, exec (.thermalCapLower tj) s = .next t ∧ t.get Fd.CLK_ADN_THERM_therm_cap = 0 ∧ t.get Fd.CLK_ADN_LEVEL_eff = 0) ∧
    (800 ≤ tj → tj < 824 → 3 < s.get Fd.CLK_ADN_THERM_therm_cap →
      ∃ t, exec (.thermalCapLower tj) s = .next t ∧ t.get Fd.CLK_ADN_THERM_therm_cap = 3 ∧ t.get Fd.CLK_ADN_LEVEL_eff = t.effLevel ∧
        t.get Fd.CLK_ADN_LEVEL_eff ≤ 3) ∧
    (tj ≤ 760 → s.slowStart = true → s.arr.hotPrev = false → s.get Fd.CLK_ADN_THERM_therm_cap < 5 →
      ∃ t, exec (.thermalCapRestore tj) s = .next t ∧ t.get Fd.CLK_ADN_THERM_therm_cap = 5 ∧ t.get Fd.CLK_ADN_LEVEL_eff = t.effLevel))

/-- R217, R218: a set of the self-test without mismatch is counted, and a core that is to leave the test becomes IDLE; a mismatch sets fail, fences
the core with cause TEST, and is counted as a fault of the array. ADN_STAT counts the cores by their states. R202, R204: the scrubber goes on to the
next word; a wrong bit it meets is corrected and counted, and two wrong bits fence the core with cause ECC_W and record a fault. -/
def Obligations.CoresAreTestedAndScrubbed : Prop :=
  (∀ (k : Fin 48) (s : State), s.coreState k = 5 →
    (∃ t, exec (.coreTestSetEnd k true) s = .next t ∧
      t.get (Fd.ADN_CORE_TEST_sets k) = (s.get (Fd.ADN_CORE_TEST_sets k) + 1) % 2 ^ (Fd.ADN_CORE_TEST_sets k).len ∧
      (s.flag (Fd.ADN_CORE_TEST_test_run k) = true → t.coreState k = 5) ∧
      (s.flag (Fd.ADN_CORE_TEST_test_run k) = false → t.coreState k = 1 ∧ t.coresCounted) ∧
      t.withinRegs s [Reg.ADN_CORE_TEST k, Reg.ADN_CORE_STAT k, Reg.ADN_STAT] ∧ t.within s [.regs]) ∧
    (∃ t, exec (.coreTestSetEnd k false) s = .next t ∧ t.coreState k = 6 ∧ t.get (Fd.ADN_CORE_STAT_fence_cause k) = 2 ∧
      t.flag (Fd.ADN_CORE_TEST_fail k) = true ∧ t.flag (Fd.ADN_CORE_TEST_test_run k) = false ∧ t.coresCounted ∧ t.faultCounted s 9 ∧
      (∀ i : Fin 48, i ≠ k → t.coreState i = s.coreState i) ∧ t.within s [.regs, .hmp, .zfb, .wgl, .arr, .flt, .pins])) ∧
  (∀ (s : State), s.flag Fd.ADN_CTRL_scrub_en = true → s.computeDown = false →
    ((∀ e ∈ s.arr.eccW, s.scrubHit e = false) →
      exec .scrubWord s = .next { s with arr := { s.arr with scrub := (s.arr.scrub + 1) % 131072 } }) ∧
    (∀ k : Fin 48, s.arr.eccW = [(k.val, s.arr.scrub, 1)] → 2 ≤ s.coreState k → s.coreState k ≤ 4 →
      ∃ t, exec .scrubWord s = .next t ∧ t.arr.eccW = [] ∧ t.arr.scrub = (s.arr.scrub + 1) % 131072 ∧
        t.get Fd.ADN_ECC_STAT_corrected = (s.get Fd.ADN_ECC_STAT_corrected + 1) % 65536 ∧ t.coreState k = s.coreState k ∧ t.faultCounted s 9) ∧
    (∀ k : Fin 48, s.arr.eccW = [(k.val, s.arr.scrub, 2)] → 2 ≤ s.coreState k → s.coreState k ≤ 4 →
      ∃ t, exec .scrubWord s = .next t ∧ t.arr.eccW = [] ∧ t.coreState k = 6 ∧ t.get (Fd.ADN_CORE_STAT_fence_cause k) = 1 ∧
        t.get Fd.ADN_ECC_STAT_uncorr_w = min (s.get Fd.ADN_ECC_STAT_uncorr_w + 1) 255 ∧ t.coresCounted ∧ t.faultCounted s 9))

/-! ## Baskets and admission (chapter 08) -/

/-- R227, R403: a package that has arrived whole is checked: it is STORED, or its slot stands empty again with the cause: FORMAT where its head, its
tables or its length are refused, SIGNATURE where it does not verify. One that is not whole, or whose slot is taken, waits. -/
def Obligations.PackageIsStoredOrRefused : Prop :=
  ∀ (i : Fin 32) (sigOk : Bool) (s : State),
    (s.pkgWhole i = false → exec (.packageCheck i sigOk) s = .next s) ∧
    (s.pkgWhole i = true → (readPkg (s.pkgBytes i) = none ∨ sigOk = false ∨ 268435456 < (s.pkgBytes i).length) →
      ∃ t, exec (.packageCheck i sigOk) s = .next t ∧ t.slot i = .reset ∧ t.slotState i = 0 ∧ t.get Fd.MDL_REFUSE_slot = i ∧
        (readPkg (s.pkgBytes i) = none → t.get Fd.MDL_REFUSE_cause = 7) ∧
        (readPkg (s.pkgBytes i) ≠ none → sigOk = false → t.get Fd.MDL_REFUSE_cause = 6) ∧
        (∀ j, j ≠ i → t.slot j = s.slot j) ∧ t.withinRegs s [Reg.MDL_REFUSE] ∧ t.within s [.regs, .arr]) ∧
    (∀ k : Pkg, s.pkgWhole i = true → readPkg (s.pkgBytes i) = some k → sigOk = true → (s.keySlot k.signers k.keyId).isSome = true →
      (s.pkgBytes i).length ≤ 268435456 →
      ∃ t, exec (.packageCheck i sigOk) s = .next t ∧ t.slotState i = 1 ∧ t.slot i = { SlotRt.reset with bytes := s.pkgBytes i, pkg := some k } ∧
        t.flag (Fd.MDL_SLOT_STAT_standard i) = k.standard ∧ (∀ j, j ≠ i → t.slot j = s.slot j ∧ t.slotState j = s.slotState j) ∧
        t.get Fd.MDL_STAT_n_stored = ((List.range 32).filter fun j => t.slotState j != 0).length ∧ t.within s [.regs, .arr])

/-- R233, R207, R208, R218: a core whose section has loaded with a good CRC is BOUND; a bad one quarantines the basket with cause LOAD. The pass of a
basket ends within the window: its outputs are held for the commit, its cores' cycles are shown, and the frame of its end. -/
def Obligations.CoresLoadAndPassesEnd : Prop :=
  ∀ s : State,
    (∀ k : Fin 48, (∀ ok, s.coreState k ≠ 2 → exec (.coreLoaded k ok) s = .next s) ∧
      (s.coreState k = 2 → ∃ t, exec (.coreLoaded k true) s = .next t ∧ t.coreState k = 3 ∧ (t.core k).loaded = true ∧ t.coresCounted ∧
        (∀ j : Fin 48, j ≠ k → t.coreState j = s.coreState j ∧ t.core j = s.core j) ∧ t.within s [.regs, .arr]) ∧
      (∀ n : Fin 32, s.coreState k = 2 → s.get (Fd.ADN_CORE_STAT_slot k) = n → ∃ t, exec (.coreLoaded k false) s = .next t ∧
        t.slotState n = 5 ∧ (t.slot n).cores = [] ∧ t.get Fd.MDL_REFUSE_slot = n ∧ t.get Fd.MDL_REFUSE_cause = 0xA ∧ t.faultCounted s 10 ∧
        t.within s [.regs, .hmp, .zfb, .wgl, .arr, .flt, .pins])) ∧
    (∀ (i : Fin 32) (cycles : List Nat) (outs : List PassOut),
      (s.passEnds i cycles = false → exec (.basketPass i cycles outs) s = .next s) ∧
      (s.passEnds i cycles = true → ∃ t, exec (.basketPass i cycles outs) s = .next t ∧ (t.slot i).done = true ∧ (t.slot i).outs = outs ∧
        (t.slot i).due = true ∧ t.get Fd.ADN_PASS_STAT_last_end = s.fcFrame ∧ (∀ j, j ≠ i → t.slot j = s.slot j) ∧
        ((s.slot i).cores.Nodup → ∀ (n : Nat) (k : Fin 48), (s.slot i).cores[n]? = some (some k.val) →
          t.get (Fd.ADN_CORE_CYC_cycles k) = min (2 ^ 21 - 1) (cycles.getD n 0)) ∧
        t.within s [.regs, .hmp, .zfb, .wgl, .arr, .flt, .pins]))

/-- R234 to R237: at frame 252 the forecast frame's passes end, and every waiting request is carried out or refused. A good pass stands fresh, with
the frame of its commit; the third overrun in a row that nothing excuses quarantines the basket. The floor follows the admitted baskets, and the level
it. R205 to R207: in the first 16 frames of a forecast frame the telemetry frames that the admitted baskets declare are assembled, each with its rows
of blocks of 16 channels and a validity bit for each channel. Elsewhere, and while COMPUTE is in reset, nothing is. -/
def Obligations.ResultsCommitAndTelemetryIsAssembled : Prop :=
  (∀ s : State,
    ((s.fcFrame ≠ 252 ∨ s.computeDown = true) → exec .resultCommit s = .next s) ∧
    (s.fcFrame = 252 → s.computeDown = false → ∃ t, exec .resultCommit s = .next t ∧ t.arr.reqs = [] ∧ (∀ i, (t.slot i).due = false) ∧
      t.get Fd.CLK_ADN_LEVEL_floor = t.get Fd.MDL_STAT_floor ∧ t.get Fd.CLK_ADN_LEVEL_eff = t.effLevel ∧
      (∀ i : Fin 32, (s.slot i).due = true → (s.slot i).done = true → (s.slot i).spoilt = false → s.slotState i = 3 →
        s.flag Fd.MDL_CTRL_run_en = true → (s.slot i).cores ≠ [] →
        (∀ c ∈ (s.slot i).cores, ∃ k : Fin 48, c = some k.val ∧ (s.coreState k = 3 ∨ s.coreState k = 4) ∧ (s.core k).fencePend = false) →
        t.flag (Fd.MDL_SLOT_STAT_stale i) = false ∧ t.get (Fd.MDL_SLOT_STAT_overrun_run i) = 0 ∧
        t.get (Fd.MDL_SLOT_LAST_last_ok i) = s.time.frame / 256 % 2 ^ (Fd.MDL_SLOT_LAST_last_ok i).len) ∧
      (∀ i : Fin 32, (s.slot i).due = true → (s.slot i).done = false → s.slotState i = 3 → s.flag Fd.MDL_CTRL_run_en = true →
        s.excuses i = false → s.get (Fd.MDL_SLOT_STAT_overrun_run i) = 2 → t.slotState i = 5 ∧ (t.slot i).cores = []))) ∧
  (∀ s : State,
    ((16 ≤ s.fcFrame ∨ s.computeDown = true) → exec .telemetryAssemble s = .next s) ∧
    (s.fcFrame < 16 → s.computeDown = false → ∃ t, exec .telemetryAssemble s = .next t ∧ t.within s [.arr] ∧
      t.arr = { s.arr with frames := t.arr.frames } ∧ t.arr.frames.map (·.decl) = (s.framesOf none).map (·.2) ∧
      ∀ f ∈ t.arr.frames, f.rows.length = 2 ^ f.decl.rowsLog2 ∧ f.invalid.length = f.decl.chans.length ∧
        (∀ r ∈ f.rows, r.length = ceilDiv f.decl.chans.length 16) ∧ ∀ r ∈ f.rows, ∀ b ∈ r, b.ms.length = 16))

/-! ## Cell chain (chapter 09) -/

/-- R244, R252 to R255, R259, R260, R262: what the chain master puts on a ring's line. SNAP takes its stamp as it leaves; HUSH and OWT go to every
node; READ, BALANCE and OW_READ go to the node whose slot runs, and the retry slot to the lowest-numbered node whose READ failed; the test of a broken
ring goes to node 1 in RING mode. A standby sends nothing. Only that ring changes. -/
def Obligations.RingCommandsLeaveInTheirSlots : Prop :=
  ∀ (r : Fin 3) (s : State),
    (∀ cyc : Nat, ((s.ring r).snapDue = false → exec (.snapSend r cyc) s = .next s) ∧
      ((s.ring r).snapDue = true → cyc < s.time.len → ∃ t, exec (.snapSend r cyc) s = .next t ∧
        t.ring r = { ringSent (s.ring r) s.isStandby (s.ring r).txn ⟨true, s.ringState r != 1, 0xFF, false, (s.ring r).seq, 0x10, []⟩ with snapDue := false } ∧
        t.get64 (Reg.CHN_STR_SNAP_LO r) (Reg.CHN_STR_SNAP_HI r) = (s.time.frameStart + cyc) % 2 ^ 64 ∧ (∀ q, q ≠ r → t.ring q = s.ring q) ∧
        t.withinRegs s [Reg.CHN_STR_SNAP_LO r, Reg.CHN_STR_SNAP_HI r] ∧ t.within s [.regs, .chn])) ∧
    ((s.ring r).hushDue = true → ∃ t, exec (.hushSend r) s = .next t ∧
      t.ring r = { ringSent (s.ring r) s.isStandby (s.ring r).txn ⟨true, s.ringState r != 1, 0xFF, false, (s.ring r).seq, 0x11, []⟩ with hushDue := false } ∧
      t.ringOnly s r) ∧
    (∀ i : Fin 14, s.served r = true → (s.ring r).txn = none → s.readDue r i = true → (s.node r i).failed = false →
      28 + 64 * i.val ≤ s.sweepFrame → s.sweepFrame < 92 + 64 * i.val →
      ∃ t, exec (.chainRead r) s = .next t ∧ t.sendsTo s r i 0x20 1 [] ∧ t.ringOnly s r) ∧
    (∀ i : Fin 14, s.served r = true → (s.ring r).txn = none → 924 ≤ s.sweepFrame → s.sweepFrame < 1024 → s.retryNode r = some i →
      ∃ t, exec (.chainRead r) s = .next t ∧ t.sendsTo s r i 0x20 2 [] ∧ (t.node r i).retried = true ∧
        (∀ q j, ¬(q = r ∧ j = i) → t.node q j = s.node q j) ∧ t.within s [.chn]) ∧
    (∀ i : Fin 14, s.nodeReady r i = true → 1024 + 29 * i.val ≤ s.sweepFrame → s.sweepFrame < 1053 + 29 * i.val →
      ∃ t, exec (.balanceSend r) s = .next t ∧ t.get (Fd.CHN_NODE_BAL_sent r (i.val + 1)) = s.balMask r i % 65536 ∧
        t.sendsTo s r i 0x30 1 [s.balMask r i / 256, s.balMask r i % 256, max 1 (s.get Fd.CHN_BAL_CTRL_bal_dur)] ∧
        t.withinRegs s [Reg.CHN_NODE_BAL r (i.val + 1)] ∧ t.within s [.regs, .chn]) ∧
    (s.served r = true → s.flag (Fd.CHN_STR_STAT_owt_active r) = true → s.sweepFrame = 1536 →
      ∃ t, exec (.owtSend r) s = .next t ∧ t.flag (Fd.CHN_STR_STAT_owt_due r) = false ∧
        t.ring r = ringSent (s.ring r) s.isStandby (s.ring r).txn ⟨true, s.ringState r != 1, 0xFF, false, (s.ring r).seq, 0x40, []⟩ ∧
        t.withinRegs s [Reg.CHN_STR_STAT r] ∧ t.within s [.regs, .chn]) ∧
    (∀ i : Fin 14, s.nodeReady r i = true → s.flag (Fd.CHN_STR_STAT_owt_active r) = true → s.nodeState r i ≠ 3 → (s.node r i).ow = none →
      2048 + 64 * i.val ≤ s.sweepFrame → s.sweepFrame < 2112 + 64 * i.val →
      ∃ t, exec (.owRead r) s = .next t ∧ t.sendsTo s r i 0x41 1 [] ∧ t.ringOnly s r) ∧
    (s.ringTestDue r = true → ∃ t, exec (.ringTest r) s = .next t ∧ t.ringOnly s r ∧
      t.ring r = ringSent (s.ring r) s.isStandby (some ⟨1, 0x50, (s.ring r).seq, 1⟩) ⟨true, false, 1, false, (s.ring r).seq, 0x50, []⟩)

/-- R35, R249, R250, R253, R254: a reply that matches its command ends the transaction and is an input of the next frame; one in RETURN mode after two
failures says that the ring is broken, and a STATUS through a ring that is not whole asks for an enumeration. One that does not match fails the
transaction, and so does a reply that does not come. An enumeration's result waits for the next sweep. -/
def Obligations.RepliesEndOrFailTransactions : Prop :=
  ∀ (r : Fin 3) (s : State),
    ((s.ring r).txn = none → (∀ ok pos seq op st p, exec (.chainReply r ok pos seq op st p) s = .next s) ∧ exec (.chainTxnTimeout r) s = .next s) ∧
    (∀ x : ChnTxn, (s.ring r).txn = some x →
      (∀ (ok : Bool) (pos seq op st : Nat) (p : List Nat), x.answered ok pos seq op = true →
        ∃ t, exec (.chainReply r ok pos seq op st p) s = .next t ∧ (t.ring r).txn = none ∧
          t.inp = { s.inp with nextChain := s.inp.nextChain ++ [⟨r, pos, op, st, p⟩] } ∧
          (op = 0x20 → x.attempt = 3 → t.ringState r = 2 ∧ (t.ring r).enumDue = true) ∧
          (op = 0x50 → s.ringState r ≠ 1 → (t.ring r).enumDue = true) ∧
          (¬(op = 0x20 ∧ x.attempt = 3) → t.rd (Reg.CHN_STR_STAT r) = s.rd (Reg.CHN_STR_STAT r)) ∧
          t.withinRegs s [Reg.CHN_STR_STAT r] ∧ t.within s [.regs, .inp, .chn]) ∧
      (∀ (ok : Bool) (pos seq op st : Nat) (p : List Nat), x.answered ok pos seq op = false →
        ∃ t, exec (.chainReply r ok pos seq op st p) s = .next t ∧ t.txnFailed s r x (!ok)) ∧
      (∃ t, exec (.chainTxnTimeout r) s = .next t ∧ t.txnFailed s r x false)) ∧
    (∀ found : ChnEnum, s.strDecl r = true → (s.ring r).enumDue = true → s.housekeeping r = true →
      ∃ t, exec (.enumeration r found) s = .next t ∧ t.ringState r = 4 ∧
        t.ring r = { s.ring r with enumDue := false, enumDone := some found, txn := none } ∧ (∀ q, q ≠ r → t.ring q = s.ring q) ∧
        t.withinRegs s [Reg.CHN_STR_STAT r] ∧ t.within s [.regs, .chn])

/-- R257, R265: at frame 1024 of a sweep the readings of each served ring commit. A node that was read shows its block voltage, its temperature and
its cells, none of them stale; one that was not keeps its values with stale set, and its third sweep in a row fences it; a fenced one stays stale. -/
def Obligations.ReadingsCommitAtFrame1024 : Prop :=
  ∀ s : State,
    (s.sweepFrame ≠ 1024 → exec .readingsCommit s = .next s) ∧
    (s.sweepFrame = 1024 → ∃ t, exec .readingsCommit s = .next t ∧ t.within s [.regs, .hmp, .zfb, .wgl, .chn, .flt, .pins] ∧
      (∀ r : Fin 3, s.served r = true → t.get (Fd.CHN_STR_STAT_n_fenced r) = ((List.finRange 14).filter fun i => t.nodeState r i == 3).length) ∧
      (∀ (r : Fin 3) (i : Fin 14) (p : List Nat), s.served r = true → s.nodeState r i ≠ 3 → (s.node r i).read = some p →
        t.get (Fd.CHN_NODE_STAT_missing_run r (i.val + 1)) = 0 ∧ t.get (Fd.CHN_NODE_MEAS_block r (i.val + 1)) = be16 p 32 ∧
        t.get (Fd.CHN_NODE_MEAS_temp r (i.val + 1)) = be16 p 34 ∧
        ∀ j : Fin 16, t.stale r (cellNo i (j.val + 1)) = false ∧
          (16 < s.get (Fd.CHN_NODE_STAT_broken_tap r (i.val + 1)) → t.volt r (cellNo i (j.val + 1)) = be16 p (2 * j.val) ∧
            t.subst r (cellNo i (j.val + 1)) = false)) ∧
      (∀ (r : Fin 3) (i : Fin 14), s.served r = true → s.nodeState r i ≠ 3 → (s.node r i).read = none →
        t.get (Fd.CHN_NODE_STAT_missing_run r (i.val + 1)) = min 3 (s.get (Fd.CHN_NODE_STAT_missing_run r (i.val + 1)) + 1) ∧
        t.nodeState r i = (if 2 ≤ s.get (Fd.CHN_NODE_STAT_missing_run r (i.val + 1)) then 3 else 2) ∧
        (2 ≤ s.get (Fd.CHN_NODE_STAT_missing_run r (i.val + 1)) → t.get (Fd.CHN_NODE_STAT_fence_cause r (i.val + 1)) = 1) ∧
        ∀ j : Fin 16, t.stale r (cellNo i (j.val + 1)) = true ∧ t.volt r (cellNo i (j.val + 1)) = s.volt r (cellNo i (j.val + 1))) ∧
      (∀ (r : Fin 3) (i : Fin 14), s.served r = true → s.nodeState r i = 3 → t.nodeState r i = 3 ∧
        ∀ j : Fin 16, t.stale r (cellNo i (j.val + 1)) = true) ∧
      (∀ (r : Fin 3) (c : Nat), s.served r = false → c < 224 → t.rd (Reg.CHN_CELL r c) = s.rd (Reg.CHN_CELL r c)))

/-- R263 to R265: at frame 3072 of a test sweep each node whose deltas were read is judged: its suspicions end; a suspected tap that is open is
BROKEN_TAP, and one that is intact fences the node with cause MEAS; an open tap that nothing suspected is BROKEN_TAP too. -/
def Obligations.OpenWireTestIsJudged : Prop :=
  ∀ s : State,
    (s.sweepFrame ≠ 3072 → exec .owtCommit s = .next s) ∧
    (s.sweepFrame = 3072 → ∃ t, exec .owtCommit s = .next t ∧ t.within s [.regs, .hmp, .zfb, .wgl, .chn, .flt, .pins] ∧
      (∀ (r : Fin 3) (i : Fin 14) (p : List Nat), s.served r = true → s.flag (Fd.CHN_STR_STAT_owt_active r) = true → s.nodeState r i ≠ 3 →
        (s.node r i).ow = some p → t.get (Fd.CHN_NODE_STAT_suspect_tap r (i.val + 1)) = 31 ∧ (t.node r i).suspCell = none ∧
          (∀ j : Fin 16, t.flag (Fd.CHN_CELL_suspect r (cellNo i (j.val + 1))) = false) ∧
          (s.get (Fd.CHN_NODE_STAT_suspect_tap r (i.val + 1)) ≤ 16 →
            (s.openTap r i p (s.get (Fd.CHN_NODE_STAT_suspect_tap r (i.val + 1))) = true →
              t.get (Fd.CHN_NODE_STAT_broken_tap r (i.val + 1)) = s.get (Fd.CHN_NODE_STAT_suspect_tap r (i.val + 1))) ∧
            (tapOpen p (s.get (Fd.CHN_NODE_STAT_suspect_tap r (i.val + 1))) = false →
              s.tapBiased r i (s.get (Fd.CHN_NODE_STAT_suspect_tap r (i.val + 1))) = false →
              t.nodeState r i = 3 ∧ t.get (Fd.CHN_NODE_STAT_fence_cause r (i.val + 1)) = 2)) ∧
          (∀ n : Nat, 16 < s.get (Fd.CHN_NODE_STAT_suspect_tap r (i.val + 1)) → (s.node r i).suspCell = none →
            16 < s.get (Fd.CHN_NODE_STAT_broken_tap r (i.val + 1)) → ((List.range 17).filter (s.openTap r i p)).head? = some n →
            t.get (Fd.CHN_NODE_STAT_broken_tap r (i.val + 1)) = n)) ∧
      (∀ (r : Fin 3) (i : Fin 14), (s.node r i).ow = none → t.rd (Reg.CHN_NODE_STAT r (i.val + 1)) = s.rd (Reg.CHN_NODE_STAT r (i.val + 1))))

/-! ## Charge and capacity estimation (chapter 10) -/

/-- R273, R275, R284, R285, R288: at a commit the EST block takes the record. For a string whose model is valid it forms the string value, and reports
the lesser of it and the value before while the string discharges; a divergence above the hold threshold keeps the value; a cell at its cutoff makes
it 0. Strings that are not declared, or have no model, stand. A standby discards its own record. -/
def Obligations.EstimateCommitFormsReportedValues : Prop :=
  ∀ s : State,
    (s.arr.estOut = none → exec .estimateRecord s = .next s) ∧
    (∀ bs, s.arr.estOut = some bs → s.isStandby = true → exec .estimateRecord s = .next { s with arr := { s.arr with estOut := none } }) ∧
    (∀ bs, s.arr.estOut = some bs → s.isStandby = false → ∃ t, exec .estimateRecord s = .next t ∧ t.arr = { s.arr with estOut := none } ∧
      t.est.record = bs ∧ t.within s [.regs, .hmp, .prf, .zfb, .wgl, .est, .arr, .flt, .pins] ∧
      (∀ r : Fin 3, (s.strDecl r = false ∨ s.flag (Fd.EST_MODEL_CTRL_valid r) = false) → t.estStr r = s.estStr r) ∧
      (∀ r : Fin 3, s.strDecl r = true → s.flag (Fd.EST_MODEL_CTRL_valid r) = true →
        (t.estStr r).missedCommits = 0 ∧ t.flag (Fd.EST_STR_FLAG_discharging r) = decide ((s.estStr r).qPrev < s.qSnap r) ∧
        ((s.estStr r).initDue = false → t.get (Fd.EST_STR_SOC_soc_rep r) = centi (t.estStr r).sRep ∧ vget t.prf.socIn r = some (t.estStr r).sRep) ∧
        (∀ c, (s.estStr r).initDue = false → s.cutoffCell r = some c →
          (t.estStr r).sRep = Frac.zero ∧ t.flag (Fd.EST_STR_FLAG_cutoff r) = true ∧ t.flag (Fd.PRF_STR_BAND_full_discharge r) = false) ∧
        ((s.estStr r).initDue = false → s.cutoffCell r = none →
          (t.estStr r).sStr = (s.takeEstimate bs).stringValue r ∧
          ((s.estStr r).qPrev < s.qSnap r → (t.estStr r).sRep = Frac.min (s.estStr r).sRep ((s.takeEstimate bs).stringValue r)) ∧
          (s.qSnap r ≤ (s.estStr r).qPrev → (Frac.ofInt (s.get Fd.EST_CONFLICT_hold_thr)).lt (s.estStr r).d = true →
            (t.estStr r).sRep = (s.estStr r).sRep))))

/-- R287, R290, R294: what a commit has found is carried out. End of charge makes the highest cell full and the reported value 100, starts the
tracking of a full discharge, and clears full_charge. The conflict of count and voltage makes the capacity suspect, which is a fault. A rest point
re-anchors the count, and calibrates a calibration string; an anchor expires by its age. -/
def Obligations.CommitFindingsAreCarriedOut : Prop :=
  ∀ (r : Fin 3) (s : State),
    ((s.estStr r).eocNow = false → exec (.endOfCharge r) s = .next s) ∧
    ((s.estStr r).eocNow = true → ∃ t, exec (.endOfCharge r) s = .next t ∧ (t.estStr r).sRep = Frac.ofInt 100 ∧ (t.estStr r).sCc = (t.estStr r).sStr ∧
      (t.estStr r).d = Frac.zero ∧ t.flag (Fd.EST_STR_FLAG_eoc r) = true ∧ t.flag (Fd.EST_STR_FLAG_track_full r) = true ∧ (t.estStr r).qDis = 0 ∧
      (t.estStr r).qChg = 0 ∧ (t.estStr r).taperOpen = none ∧ (t.estStr r).eocNow = false ∧ t.flag (Fd.PRF_STR_BAND_full_charge r) = false ∧
      t.get (Fd.EST_STR_SOC_soc_rep r) = 10000 ∧ vget t.prf.socIn r = some (Frac.ofInt 100) ∧
      (∀ z, s.est.zs[224 * r.val + s.topCell r]? = some z → t.est.zs[224 * r.val + s.topCell r]? = some (Frac.ofInt 1)) ∧
      (∀ q, q ≠ r → t.estStr q = s.estStr q) ∧ t.within s [.regs, .prf, .est]) ∧
    ((s.estStr r).conflictNow = false → exec (.divergenceConflict r) s = .next s) ∧
    ((s.estStr r).conflictNow = true → s.notHeld 11 false 1 (0x700 + r) →
      ∃ t, exec (.divergenceConflict r) s = .next t ∧ t.flag (Fd.EST_STR_FLAG_conflict r) = true ∧ t.flag (Fd.EST_STR_FLAG_suspect r) = true ∧
        (t.estStr r).sCc = (s.estStr r).sStr ∧ (t.estStr r).d = Frac.zero ∧ (t.estStr r).divOpen = none ∧ (t.estStr r).sRep = (s.estStr r).sRep ∧
        t.est.storeDue = (s.est.storeDue || !s.flag (Fd.EST_STR_FLAG_suspect r)) ∧ t.faultCounted s 11 ∧
        t.get (Fd.FLT_STAT_pair_pend 11) = s.get (Fd.FLT_STAT_pair_pend 11) ||| 2 ∧ t.within s [.regs, .hmp, .est, .flt]) ∧
    ((s.estStr r).restNow = false → exec (.restPoint r) s = .next s) ∧
    ((s.estStr r).restNow = true → ∃ t, exec (.restPoint r) s = .next t ∧ (t.estStr r).restNow = false ∧ (t.estStr r).sCc = (s.estStr r).sStr ∧
      (bit (s.get Fd.EST_CTRL_calib) r = false → (t.estStr r).anchor = (s.estStr r).anchor ∧ (t.estStr r).learned = (s.estStr r).learned) ∧
      (bit (s.get Fd.EST_CTRL_calib) r = true → (s.estStr r).anchor = none →
        (t.estStr r).anchor = some ⟨(s.estStr r).sStr, s.qSnap r, (s.estStr r).stamp, false⟩ ∧ (t.estStr r).learned = (s.estStr r).learned) ∧
      (∀ a, bit (s.get Fd.EST_CTRL_calib) r = true → (s.estStr r).anchor = some a → (Frac.ofInt 50).le ((s.estStr r).sStr.sub a.soc).abs = true →
        (t.estStr r).anchor = some ⟨(s.estStr r).sStr, s.qSnap r, (s.estStr r).stamp, false⟩ ∧
        ((Frac.mk (s.get (Fd.EST_MODEL_CTRL_cap_rated r)) 2).le (s.restCapacity r a) = true →
          (s.restCapacity r a).le ⟨11 * s.get (Fd.EST_MODEL_CTRL_cap_rated r), 10⟩ = true →
          (t.estStr r).learned = (s.restCapacity r a).round.toNat ∧ (t.estStr r).source = 2 ∧ t.flag (Fd.EST_STR_FLAG_suspect r) = false ∧
            t.est.storeDue = true ∧ t.est.learnCount = s.est.learnCount + 1)) ∧
      (∀ q, q ≠ r → t.estStr q = s.estStr q) ∧ t.within s [.regs, .hmp, .zfb, .wgl, .est, .flt, .pins]) ∧
    (∀ a, (s.estStr r).anchor = some a → a.t + secCycles (3600 * s.get Fd.EST_ANCHOR_AGE_anchor_age) ≤ s.now →
      ∃ t, exec (.anchorExpiry r) s = .next t ∧ (t.estStr r).anchor = some { a with expired := true } ∧ t.within s [.est]) ∧
    ((s.estStr r).anchor = none → exec (.anchorExpiry r) s = .next s)

/-- R295, R296, R275: the capacities are written at a slow frame's start into the slot that is not current, with the next sequence number, which makes
it current where it compares; where it does not, the other slot still stands, and the second failure in a row is a fault. A brown-out warning holds
the write off. A standby takes the claimant's estimation state, but keeps its own store. -/
def Obligations.CapacityStoreKeepsOneGoodSlot : Prop :=
  ∀ s : State,
    (s.storeNow = false → ∀ ok, exec (.capacityStoreWrite ok) s = .next s) ∧
    (s.storeNow = true → ∃ t, exec (.capacityStoreWrite true) s = .next t ∧ currentSlot t.est.slots = some s.slotNext ∧
      (∃ x : CapSlot, vget t.est.slots s.slotNext = some x ∧ x.seq = s.seqStored % 2 ^ 32 ∧ (∀ r : Fin 3, vget x.caps r = (s.estStr r).learned) ∧
        x.learnCount = s.est.learnCount) ∧
      (∀ k, k ≠ s.slotNext → vget t.est.slots k = vget s.est.slots k) ∧ t.est.storeDue = false ∧ t.est.failed = 0 ∧
      t.flag Fd.KPR_CAPSLOT_STAT_store_fail = false ∧ t.withinRegs s [Reg.KPR_CAPSLOT_STAT, Reg.KPR_CAPSLOT_SEQ] ∧ t.within s [.regs, .est]) ∧
    (s.storeNow = true → ∃ t, exec (.capacityStoreWrite false) s = .next t ∧ vget t.est.slots s.slotNext = none ∧
      (∀ k, k ≠ s.slotNext → vget t.est.slots k = vget s.est.slots k) ∧ t.flag Fd.KPR_CAPSLOT_STAT_verify_fail = true ∧
      (s.est.failed = 0 → t.est.failed = 1 ∧ t.est.storeDue = true ∧ t.within s [.regs, .est]) ∧
      (1 ≤ s.est.failed → t.est.failed = 0 ∧ t.est.storeDue = false ∧ t.flag Fd.KPR_CAPSLOT_STAT_store_fail = true ∧ t.faultCounted s 14)) ∧
    (s.isStandby = false → ∀ b, exec (.estimationBulk b) s = .next s) ∧
    (s.isStandby = true → ∀ b : EstBulk, ∃ t, exec (.estimationBulk b) s = .next t ∧
      t.est = { b.est with slots := s.est.slots, failed := s.est.failed, storeDue := s.est.storeDue || b.est.storeDue } ∧
      (∀ r : Fin 3, vget t.prf.socIn r = some (vget b.est.strs r).sRep ∧ ∀ k : Fin 14, t.rd (Reg.EST_STR_SOC r + 4 * k) = vget (vget b.words r) k) ∧
      t.prf = { s.prf with socIn := t.prf.socIn } ∧ t.within s [.regs, .prf, .est])

/-! ## Lockstep pair (chapter 11) -/

/-- R302 to R304, R307, R316, R319, R320, R323: a partner's set counts when it is whole by cycle 300 of its frame. At cycle 980 the health items are
judged and the claim number of the next frame is driven, with valid only while the module is eligible; the loss of a partner is noted and makes a
module in PAIR mode SINGLE. Outputs unlike the claimant's are a mismatch, and a report with a good CRC is held. -/
def Obligations.SetsAndClaimsAreExchanged : Prop :=
  ∀ s : State,
    (∀ (cyc : Nat) (set : InputSet),
      (∃ t, exec (.inputSet cyc false set) s = .next t ∧ t.get Fd.LKS_LOCK_CNT_crc_err = (s.get Fd.LKS_LOCK_CNT_crc_err + 1) % 65536 ∧
        t.withinRegs s [Reg.LKS_LOCK_CNT] ∧ t.within s [.regs]) ∧
      (300 < cyc ∨ s.inp.closed = true ∨ set.frame ≠ s.time.frame ∨ s.lks.partnerValid = false ∨ s.flt.safe = true ∨ s.inReset 2 = true →
        exec (.inputSet cyc true set) s = .next s) ∧
      (cyc ≤ 300 → s.inp.closed = false → set.frame = s.time.frame → s.lks.partnerValid = true → s.flt.safe = false → s.inReset 2 = false →
        ∃ t, exec (.inputSet cyc true set) s = .next t ∧ t.inp = { s.inp with partner := some set } ∧
          t.lks = { s.lks with claimDiff := if set.claim % 16 = s.lks.partnerClaim then 0 else s.lks.claimDiff + 1 } ∧ t.within s [.inp, .lks])) ∧
    (∀ u : State, u = (s.atCycle 980).graceMark → ∃ t, exec .claimFix s = .next t ∧
      t.get Fd.LKS_HEALTH_own_items = u.healthItems ∧ (u.healthItems ≠ 0 → t.lks.hRun = false ∧ t.lks.hReady = false) ∧
      t.pins = { s.pins with valid := u.eligible && !u.resetNext, claim := u.claimNumber (u.healthItems == 0 && s.lks.hReady) } ∧
      t.get Fd.LKS_STAT_claim_own = t.pins.claim ∧ t.flag Fd.LKS_STAT_own_valid = t.pins.valid ∧ t.lks.lost = false ∧
      (s.lks.lost = false → t.flt = s.flt ∧ t.flag Fd.LKS_STAT_single = s.flag Fd.LKS_STAT_single) ∧
      (s.lks.lost = true → t.flag Fd.LKS_STAT_single = (s.flag Fd.LKS_STAT_single || !s.flag Fd.LKS_CTRL_pair_mode) ∧
        ((s.flag Fd.LKS_STAT_single = true ∨ s.flag Fd.LKS_CTRL_pair_mode = true) → t.faultCounted s 13) ∧
        (s.flag Fd.LKS_STAT_single = false → s.flag Fd.LKS_CTRL_pair_mode = false →
          t.get (Fd.FLT_STAT_count 13) = (s.get (Fd.FLT_STAT_count 13) + 2) % 65536)) ∧
      (∀ a, outWindow 13 a → a ∉ Reg.LKS_HEALTH :: Reg.LKS_STAT :: (List.range 16).map Reg.LKS_REPORT_OWN → t.rd a = s.rd a) ∧
      t.within s [.regs, .time, .hmp, .lks, .flt, .pins]) ∧
    (∀ (crc : Word) (outs : Vector Word 7),
      ((s.lks.onSet = false ∨ s.lpe.ran = false ∨ s.sameOutputs crc outs = true) → exec (.outputDigest crc outs) s = .next s) ∧
      (s.lks.onSet = true → s.lpe.ran = true → s.sameOutputs crc outs = false → ∃ t, exec (.outputDigest crc outs) s = .next t ∧
        t.get Fd.LKS_CNT_A_mismatch = (s.get Fd.LKS_CNT_A_mismatch + 1) % 65536 ∧ t.faultCounted s 13 ∧
        t.lks = { s.lks with mismatchSlow := true, resyncReq := true } ∧ (∀ a, outWindow 13 a → a ≠ Reg.LKS_CNT_A → t.rd a = s.rd a) ∧
        t.within s [.regs, .hmp, .lks, .flt])) ∧
    (∀ words : Vector Word 16,
      (reportOk words = false ∨ s.inReset 2 = true → exec (.healthReport words) s = .next s) ∧
      (reportOk words = true → s.inReset 2 = false → ∃ t, exec (.healthReport words) s = .next t ∧
        (∀ i : Fin 16, t.rd (Reg.LKS_REPORT_PARTNER i) = vget words i) ∧ t.get Fd.LKS_HEALTH_partner_items = (vget words 2).toNat / 65536 % 512 ∧
        t.lks = { s.lks with partnerConfig := some (vget words 9) } ∧
        t.withinRegs s (Reg.LKS_HEALTH :: (List.range 16).map Reg.LKS_REPORT_PARTNER) ∧ t.within s [.regs, .lks]))

/-- R309, R311, R175, R301: what the bulk window brings. A standby applies the static image, and asks for the dynamic one; that one, loaded before the
loops run, synchronises it. It takes the forecast and the feed-forward buffers, and asks for an image where it is unsynchronised or its digest
differs. The claimant takes the writes forwarded to it and the CRC of the standby's buffer. -/
def Obligations.ImagesAndBulkItemsAreTaken : Prop :=
  ∀ s : State,
    (s.isStandby = false →
      (∀ img, exec (.staticImage img) s = .next s ∧ exec (.dynamicImage img) s = .next s) ∧ (∀ f, exec (.forecastBulk f) s = .next s) ∧
      (∀ z words, exec (.ffwBufferBulk z words) s = .next s) ∧ (∀ d, exec (.pairStateDigest d) s = .next s) ∧ exec .bulkDeadlineMiss s = .next s ∧
      exec .resyncRequest s = .next { s with link := { s.link with passHold := s.link.passHold && s.link.bert == BertRun.phase 3 } } ∧
      (∀ z crc, exec (.bufferCrc z crc) s = .next (s.setZoneFf z { s.zoneFf z with partnerCrc := some crc })) ∧
      (∀ w, exec (.forwardedWrite w) s = .next { s with wq := s.wq ++ [{ w with mask := w.mask &&& pairMask w.addr }] })) ∧
    (s.isStandby = true →
      (∀ z crc, exec (.bufferCrc z crc) s = .next s) ∧ (∀ w, exec (.forwardedWrite w) s = .next s) ∧
      (∀ img : PairImage, Regs.wf img.regs = true →
        (∃ t, exec (.staticImage img) s = .next t ∧ (∀ a, pairReg a = true → t.rd a = img.regs.get a) ∧
          (∀ a, pairReg a = false → a ≠ Reg.LKS_STAT → t.rd a = s.rd a) ∧ t.lpe = { s.lpe with loops := img.loops } ∧ t.prf = img.prf ∧ t.zfb = img.zfb ∧
          t.wgl = img.wgl ∧ t.chn = img.chn ∧ t.est = { img.est with slots := s.est.slots, failed := s.est.failed, storeDue := s.est.storeDue } ∧
          t.flag Fd.LKS_STAT_synced = false ∧ t.lks = { s.lks with staticReq := false, resyncReq := true } ∧
          t.within s [.regs, .lpe, .prf, .zfb, .wgl, .lks, .chn, .est, .flt]) ∧
        ((s.lpe.ran = true ∨ s.lks.resyncReq = false) → exec (.dynamicImage img) s = .next s) ∧
        (s.lpe.ran = false → s.lks.resyncReq = true → ∃ t, exec (.dynamicImage img) s = .next t ∧
          (∀ a, dynReg a = true → t.rd a = img.regs.get a) ∧
          (∀ a, dynReg a = false → a ≠ Reg.LKS_STAT → a ≠ Reg.LKS_CNT_B → t.rd a = s.rd a) ∧ t.lpe = { s.lpe with loops := img.loops } ∧
          t.prf = img.prf ∧ t.zfb = img.zfb ∧ t.wgl = img.wgl ∧ t.flag Fd.LKS_STAT_synced = true ∧
          t.get Fd.LKS_CNT_B_resyncs = (s.get Fd.LKS_CNT_B_resyncs + 1) % 65536 ∧ t.lks = { s.lks with resyncReq := false } ∧
          t.within s [.regs, .lpe, .prf, .zfb, .wgl, .lks, .link])) ∧
      exec .resyncRequest s = .next (if s.flag Fd.LKS_STAT_synced then s else { s with lks := { s.lks with resyncReq := true } }) ∧
      (∀ f, exec (.forecastBulk f) s = .next { s with prf := { s.prf with fcast := f, fcFresh := true } }) ∧
      (∀ (z : Fin 4) (words : List Word), ∃ t, exec (.ffwBufferBulk z words) s = .next t ∧ ∃ k : Fin 2, k.val = 1 - s.get (Fd.FFW_ZONE_STAT_active_buf z) ∧
        (∀ i : Fin 512, t.rd (Reg.FFW_SHAPE z k i) = words.getD i 0 ∧ t.rd (Reg.FFW_BIAS z k i) = words.getD (512 + i) 0) ∧
        t.rd (Reg.FFW_CRC z) = crc32 (t.bufferBytes z k) ∧
        t.withinRegs s (Reg.FFW_CRC z :: (List.range 512).flatMap fun i => [Reg.FFW_SHAPE z k i, Reg.FFW_BIAS z k i]) ∧ t.within s [.regs]) ∧
      (∀ d, exec (.pairStateDigest d) s = .next (if s.flag Fd.LKS_STAT_synced = true ∧ d ≠ Config.pairDigest s.pairRegs then
        { s with lks := { s.lks with staticReq := true } } else s)) ∧
      ∃ t, exec .bulkDeadlineMiss s = .next t ∧ t.flag Fd.LKS_STAT_synced = false ∧ t.withinRegs s [Reg.LKS_STAT] ∧ t.within s [.regs])

/-- R317, R318: at a sweep boundary each channel that is not absent is judged by its mean: four sweeps in a row beyond the tolerance fail it, and four
within clear it. At a slow-frame boundary the test of a core ends and the core is free; when the interval has passed the next core's turn begins: it
is skipped, tested, or its virtual core asks for another core first. -/
def Obligations.StandbyTestsItsChannelsAndCores : Prop :=
  ∀ s : State,
    ((s.sweepStart = false ∨ s.lks.adcCnt = 0) → exec .adcCheck s = .next s) ∧
    (s.sweepStart = true → s.lks.adcCnt ≠ 0 → ∃ t, exec .adcCheck s = .next t ∧ t.lks.adcCnt = 0 ∧ t.lks.adcSum = vall 24 0 ∧
      t.withinRegs s [Reg.LKS_ADC] ∧ t.within s [.regs, .lks] ∧
      ∀ c : Fin 24,
        (bit (s.get Fd.LPE_SNS_ABSENT_absent) c = true → bit (t.get Fd.LKS_ADC_adc_fail) c = false) ∧
        (bit (s.get Fd.LPE_SNS_ABSENT_absent) c = false → s.get Fd.LKS_ADC_TOL_adc_tol * s.lks.adcCnt < (vget s.lks.adcSum c).natAbs →
          vget t.lks.adcBad c = vget s.lks.adcBad c + 1 ∧ vget t.lks.adcGood c = 0 ∧
          bit (t.get Fd.LKS_ADC_adc_fail) c = (bit (s.get Fd.LKS_ADC_adc_fail) c || decide (3 ≤ vget s.lks.adcBad c))) ∧
        (bit (s.get Fd.LPE_SNS_ABSENT_absent) c = false → (vget s.lks.adcSum c).natAbs ≤ s.get Fd.LKS_ADC_TOL_adc_tol * s.lks.adcCnt →
          vget t.lks.adcBad c = 0 ∧ vget t.lks.adcGood c = vget s.lks.adcGood c + 1 ∧
          bit (t.get Fd.LKS_ADC_adc_fail) c = (bit (s.get Fd.LKS_ADC_adc_fail) c && decide (vget s.lks.adcGood c < 3)))) ∧
    (s.rotates = false → exec .coreTestRotation s = .next s) ∧
    (s.rotates = true →
      (∀ f, s.lks.testFrom = some f → s.slowIdx ≤ f → exec .coreTestRotation s = .next s.rotMark) ∧
      (∀ (f : Nat) (k : Fin 48), s.lks.testFrom = some f → f < s.slowIdx → k = s.turnCore → ∃ t, exec .coreTestRotation s = .next t ∧
        t.get Fd.LKS_TEST_last_core = k ∧ t.get Fd.LKS_TEST_next_core = (k.val + 1) % 48 ∧ t.flag Fd.LKS_TEST_running = false ∧ t.lks.testFrom = none ∧
        t.lks.testSlow = 0 ∧ t.lks.lastTestSlow = s.slowIdx ∧ t.within s [.regs, .lks] ∧ (∀ j : Fin 48, j ≠ k → t.coreState j = s.coreState j) ∧
        (s.coreState k = 6 → t.lks.lastResult = 2 ∧ t.flag Fd.LKS_TEST_last_fail = true ∧ t.coreState k = 6) ∧
        (s.coreState k ≠ 6 → t.lks.lastResult = 1 ∧ t.coreState k = 1 ∧ t.flag (Fd.ADN_CORE_TEST_test_run k) = false ∧ t.coresCounted)) ∧
      (s.lks.testFrom = none → s.testsCores = false → exec .coreTestRotation s = .next s.rotMark) ∧
      (s.lks.testFrom = none → s.testsCores = true → s.lks.testSlow + 1 < max 1 (s.get Fd.LKS_TEST_interval) → ∃ t, exec .coreTestRotation s = .next t ∧
        t.lks = { s.rotMark.lks with testSlow := s.lks.testSlow + 1 } ∧ t.within s [.lks]) ∧
      (∀ k : Fin 48, k = s.turnCore → s.lks.testFrom = none → s.testsCores = true → max 1 (s.get Fd.LKS_TEST_interval) ≤ s.lks.testSlow + 1 →
        (s.coreState k = 6 ∨ (1 < s.coreState k ∧ s.arr.reqs = [] ∧ ∀ j : Fin 48, s.coreFree j = false) → ∃ t, exec .coreTestRotation s = .next t ∧
          t.lks = { s.rotMark.lks with testSlow := 0 } ∧ t.get Fd.LKS_TEST_next_core = (k.val + 1) % 48 ∧ t.withinRegs s [Reg.LKS_TEST] ∧
          t.within s [.regs, .lks]) ∧
        (s.coreState k ≤ 1 → ∃ t, exec .coreTestRotation s = .next t ∧ t.coreState k = 5 ∧ t.flag (Fd.ADN_CORE_TEST_test_run k) = true ∧
          t.flag Fd.LKS_TEST_running = true ∧ t.lks.testFrom = some s.slowIdx ∧ t.coresCounted ∧
          (∀ j : Fin 48, j ≠ k → t.coreState j = s.coreState j) ∧ t.within s [.regs, .lks]) ∧
        (1 < s.coreState k → s.coreState k ≠ 6 → s.arr.reqs ≠ [] → ∃ t, exec .coreTestRotation s = .next t ∧ t.within s [.lks] ∧
          t.lks = { s.rotMark.lks with testSlow := s.lks.testSlow + 1 }) ∧
        (∀ (n : Fin 32) (p : Pkg) (e : CoreEntry) (r : Nat), 1 < s.coreState k → s.coreState k ≠ 6 → s.arr.reqs = [] →
          s.get (Fd.ADN_CORE_STAT_slot k) = n → (s.slot n).pkg = some p →
          (p.variants[s.get (Fd.MDL_SLOT_STAT_variant n)]?.bind fun b => b.entries[(s.core k).virt]?) = some e →
          s.replacement (s.slot n).bank e = some r → ∃ t, exec .coreTestRotation s = .next t ∧ t.within s [.lks, .arr] ∧
            t.arr = { s.arr with reqs := [.bind n (s.get (Fd.MDL_SLOT_STAT_variant n))
              ((s.slot n).cores.filterMap fun c => if c == some k.val then some r else c) (s.slot n).bank true] })))

/-- R41, R304, R323 to R325, R327: a complete start joins a valid partner, waits for one in PAIR mode, or goes alone. The wait ends when LOCK trains,
or after 200 ms, 250 ms in slot B, as SINGLE. A joining module that is ready adopts the claimant's time base with a Note and its images, is
synchronised, and is SINGLE no longer. Changes of the claimant enter a ring of 32 entries at a slow frame's start without a brown-out warning. -/
def Obligations.ModulesStartAndJoin : Prop :=
  ∀ s : State,
    (s.startReady = false → exec .startupComplete s = .next s) ∧
    (s.startReady = true → ∃ t, exec .startupComplete s = .next t ∧ t.within s [.lks, .pwr] ∧
      t.pwr = { s.pwr with startDone := true, attempt := false, cleanFrom := some (s.slowIdx + 1) } ∧ t.lks.hRun = false ∧ t.lks.hReady = false ∧
      t.lks.join = (if s.lks.partnerValid = true then JoinPhase.joining else if s.flag Fd.LKS_CTRL_pair_mode = true then .none else .pairWait)) ∧
    (s.lks.join ≠ .pairWait → exec .pairWaitEnd s = .next s) ∧
    (s.lks.join = .pairWait →
      (s.lks.lockUp = true → exec .pairWaitEnd s = .next { s with lks := { s.lks with join := .none, startPair := true } }) ∧
      (s.lks.lockUp = false → s.lks.waitFrames < (if s.slotA then 50000 else 62500) → exec .pairWaitEnd s = .next s) ∧
      (s.lks.lockUp = false → (if s.slotA then 50000 else 62500) ≤ s.lks.waitFrames → ∃ t, exec .pairWaitEnd s = .next t ∧
        t.lks = { s.lks with join := .none } ∧ t.flag Fd.LKS_STAT_single = (s.flag Fd.LKS_STAT_single || !s.flag Fd.LKS_CTRL_pair_mode) ∧
        (s.flag Fd.LKS_STAT_single = false → s.flag Fd.LKS_CTRL_pair_mode = false → t.faultCounted s 13) ∧ t.within s [.regs, .hmp, .lks, .flt])) ∧
    (∀ (time frame : Nat) (img : PairImage),
      (s.joinReady = false → exec (.join time frame img) s = .next s) ∧
      (s.joinReady = true → Regs.wf img.regs = true → ∃ t, exec (.join time frame img) s = .next t ∧
        t.time = { s.time with frameStart := time % 2 ^ 64, frame := frame % 2 ^ 48 } ∧ t.faultCounted s 8 ∧
        (∀ a, pairReg a = true → t.rd a = img.regs.get a) ∧ t.lpe = { s.lpe with loops := img.loops } ∧ t.prf = img.prf ∧ t.zfb = img.zfb ∧
        t.wgl = img.wgl ∧ t.chn = img.chn ∧ t.est = { img.est with slots := s.est.slots, failed := s.est.failed, storeDue := s.est.storeDue } ∧
        t.lks.join = .none ∧ t.lks.resyncReq = false ∧ t.lks.staticReq = false ∧ t.flag Fd.LKS_STAT_synced = true ∧
        t.flag Fd.LKS_STAT_single = false ∧ t.get Fd.LKS_CNT_B_resyncs = (s.get Fd.LKS_CNT_B_resyncs + 1) % 65536 ∧
        t.within s [.regs, .time, .lpe, .hmp, .prf, .zfb, .wgl, .lks, .chn, .est, .flt, .cfg])) ∧
    ((s.slowStart = false ∨ s.flag Fd.KPR_SUPPLY_STAT_bow = true) → exec .claimHistoryEntry s = .next s) ∧
    (s.slowStart = true → s.flag Fd.KPR_SUPPLY_STAT_bow = false → ∃ t, exec .claimHistoryEntry s = .next t ∧ t.within s [.lks] ∧
      ∃ old, s.lks.history ++ s.lks.histPending = old ++ t.lks.history ∧ t.lks.history.length ≤ 32 ∧ (old ≠ [] → t.lks.history.length = 32) ∧
        t.lks = { s.lks with history := t.lks.history, histPending := [] })

/-! ## Link layers (chapter 12) -/

/-- R35, R333, R334, R339, R340, R349, R351, R503: a valid telemetry frame is an input of the next frame, and an invalid one is counted. An attempt to
train a lane fails with its cause, or the lane serves in the lesser version, a stage's words adopted. A trained lane that hears nothing in 16 frames
goes back to TRAIN. 64 unreachable frames fence a stage. No lane trains while the lanes are QUIET. -/
def Obligations.LanesTrainAndTakeTelemetry : Prop :=
  ∀ s : State,
    (∀ (n : Fin 26) (cyc : Nat) (ok : Bool) (x : Telemetry),
      ((s.stageDecl n = false ∨ s.get (Fd.STL_LANE_STAT_version n) = 0) → exec (.stageTelemetry n cyc ok x) s = .next (s.atCycle cyc)) ∧
      (s.stageDecl n = true → s.get (Fd.STL_LANE_STAT_version n) ≠ 0 → (ok = false ∨ x.ver ≠ s.get (Fd.STL_LANE_STAT_version n)) →
        ∃ t, exec (.stageTelemetry n cyc ok x) s = .next t ∧ t.get (Fd.STL_LANE_CNT_crc_err n) = (s.get (Fd.STL_LANE_CNT_crc_err n) + 1) % 65536 ∧
          t.inp = s.inp ∧ t.withinRegs s [Reg.STL_LANE_CNT n] ∧ t.within s [.regs, .time]) ∧
      (s.stageDecl n = true → s.get (Fd.STL_LANE_STAT_version n) ≠ 0 → ok = true → x.ver = s.get (Fd.STL_LANE_STAT_version n) →
        ∃ t, exec (.stageTelemetry n cyc ok x) s = .next t ∧ t.inp = { s.inp with nextTele := vset s.inp.nextTele n (some x) } ∧
          (t.stl n).heard = true ∧ (∀ m, m ≠ n → t.stl m = s.stl m) ∧ t.within s [.time, .inp, .link])) ∧
    (s.linksOff = true → ∀ n r f d h, exec (.laneTraining n r f d h) s = .next s) ∧
    (s.linksOff = false → ∀ (rttNs : Nat) (fail : Fin 6) (decls : Vector Word 8) (highest : Nat),
      (∀ n : Fin 26, s.stageDecl n = false → exec (.laneTraining ⟨n.val, by omega⟩ rttNs fail decls highest) s = .next s) ∧
      (∀ n : Fin 16, s.laneDecl n = false → exec (.laneTraining ⟨26 + n.val, by omega⟩ rttNs fail decls highest) s = .next s) ∧
      (∀ n : Fin 26, s.stageDecl n = true → ∃ t, exec (.laneTraining ⟨n.val, by omega⟩ rttNs fail decls highest) s = .next t ∧
        t.get (Fd.STL_LANE_CNT_trainings n) = (s.get (Fd.STL_LANE_CNT_trainings n) + 1) % 256 ∧ t.get (Fd.STL_LANE_STAT_rtt_ns n) = min 65535 rttNs ∧
        (fail.val ≠ 0 → t.get (Fd.STL_LANE_STAT_cause n) = fail) ∧ (fail.val = 0 → 400 < rttNs → t.get (Fd.STL_LANE_STAT_cause n) = 2) ∧
        (fail.val = 0 → rttNs ≤ 400 → getBits (vget decls 0) 28 4 ≠ laneKind n → t.get (Fd.STL_LANE_STAT_cause n) = 4) ∧
        (fail.val = 0 → rttNs ≤ 400 → getBits (vget decls 0) 28 4 = laneKind n → getBits (vget decls 0) 24 2 = 0 →
          t.get (Fd.STL_LANE_STAT_cause n) = 5) ∧
        (fail.val ≠ 0 ∨ 400 < rttNs ∨ getBits (vget decls 0) 28 4 ≠ laneKind n ∨ getBits (vget decls 0) 24 2 = 0 →
          t.get (Fd.STL_LANE_STAT_state n) = 5 ∧ t.get (Fd.STL_LANE_STAT_version n) = s.get (Fd.STL_LANE_STAT_version n) ∧
          t.withinRegs s [Reg.STL_LANE_STAT n, Reg.STL_LANE_CNT n] ∧ t.within s [.regs]) ∧
        (fail.val = 0 → rttNs ≤ 400 → getBits (vget decls 0) 28 4 = laneKind n → getBits (vget decls 0) 24 2 ≠ 0 →
          t.get (Fd.STL_LANE_STAT_state n) = (if s.pins.valid then 2 else 3) ∧
          t.get (Fd.STL_LANE_STAT_version n) = min 2 (getBits (vget decls 0) 24 2) ∧ t.flag (Fd.STL_LANE_STAT_decl_ok n) = true ∧
          (∀ i : Fin 8, t.declWord n i = vget decls i) ∧ (t.stl n).silent = 0 ∧ (∀ m, m ≠ n → t.stl m = s.stl m) ∧
          (t.stl n).firstTrained = some ((s.stl n).firstTrained.getD s.time.frame) ∧
          t.withinRegs s (Reg.STL_LANE_STAT n :: Reg.STL_LANE_CNT n :: (List.range 8).map (Reg.STL_DECL n)) ∧ t.within s [.regs, .zfb, .link])) ∧
      (∀ n : Fin 16, s.laneDecl n = true → ∃ t, exec (.laneTraining ⟨26 + n.val, by omega⟩ rttNs fail decls highest) s = .next t ∧
        t.get (Fd.WGL_LINK_CNT_trainings n) = (s.get (Fd.WGL_LINK_CNT_trainings n) + 1) % 256 ∧ t.get (Fd.WGL_LINK_STAT_rtt_ns n) = min 65535 rttNs ∧
        (fail.val ≠ 0 → t.get (Fd.WGL_LINK_STAT_cause n) = fail) ∧ (fail.val = 0 → 1000 < rttNs → t.get (Fd.WGL_LINK_STAT_cause n) = 2) ∧
        (fail.val = 0 → rttNs ≤ 1000 → highest % 4 = 0 → t.get (Fd.WGL_LINK_STAT_cause n) = 5) ∧
        (fail.val ≠ 0 ∨ 1000 < rttNs ∨ highest % 4 = 0 → t.get (Fd.WGL_LINK_STAT_state n) = 5 ∧
          t.withinRegs s [Reg.WGL_LINK_STAT n, Reg.WGL_LINK_CNT n] ∧ t.within s [.regs]) ∧
        (fail.val = 0 → rttNs ≤ 1000 → highest % 4 ≠ 0 → t.get (Fd.WGL_LINK_STAT_state n) = (if s.pins.valid then 2 else 3) ∧
          t.get (Fd.WGL_LANE_STAT_version n) = highest % 4 ∧ vget t.link.waggleSilent n = 0 ∧
          t.withinRegs s [Reg.WGL_LINK_STAT n, Reg.WGL_LINK_CNT n, Reg.WGL_LANE_STAT n] ∧ t.within s [.regs, .wgl, .link]))) ∧
    (∀ n : Fin 26, ∃ t, exec (.laneSilent ⟨n.val, by omega⟩) s = .next t ∧ t.withinRegs s [Reg.STL_LANE_STAT n] ∧ t.within s [.regs] ∧
      t.get (Fd.STL_LANE_STAT_version n) = s.get (Fd.STL_LANE_STAT_version n) ∧ t.get (Fd.STL_LANE_STAT_state n) =
        (if (s.get (Fd.STL_LANE_STAT_state n) = 2 ∨ s.get (Fd.STL_LANE_STAT_state n) = 3) ∧ 16 ≤ (s.stl n).silent then 1
          else s.get (Fd.STL_LANE_STAT_state n))) ∧
    (∀ n : Fin 16, ∃ t, exec (.laneSilent ⟨26 + n.val, by omega⟩) s = .next t ∧ t.withinRegs s [Reg.WGL_LINK_STAT n] ∧ t.within s [.regs] ∧
      t.get (Fd.WGL_LINK_STAT_state n) =
        (if (s.get (Fd.WGL_LINK_STAT_state n) = 2 ∨ s.get (Fd.WGL_LINK_STAT_state n) = 3) ∧ 16 ≤ vget s.link.waggleSilent n then 1
          else s.get (Fd.WGL_LINK_STAT_state n))) ∧
    (∀ (rttNs : Nat) (fail : Fin 6) (version : Nat), (s.linksOff = true → exec (.lockTraining rttNs fail version) s = .next s) ∧
      (s.linksOff = false → ∃ t, exec (.lockTraining rttNs fail version) s = .next t ∧ t.get Fd.LKS_LOCK_STAT_rtt_ns = min 65535 rttNs ∧
        t.lks = { s.lks with lockUp := decide (fail.val = 0 ∧ rttNs ≤ 200 ∧ version = 1) } ∧
        (t.lks.lockUp = true → t.get Fd.LKS_LOCK_STAT_state = (if s.pins.valid then 2 else 3) ∧ t.get Fd.LKS_LOCK_STAT_lanes_up = 15) ∧
        (t.lks.lockUp = false → t.get Fd.LKS_LOCK_STAT_state = 5 ∧
          t.get Fd.LKS_LOCK_STAT_cause = (if fail.val ≠ 0 then fail.val else if 200 < rttNs then 2 else 5)) ∧
        t.withinRegs s [Reg.LKS_LOCK_STAT] ∧ t.within s [.regs, .lks])) ∧
    (∀ n : Fin 26, ((vget s.zfb.unreach n < 64 ∨ s.stageFenced n = true) → exec (.stageUnreach n) s = .next s) ∧
      (64 ≤ vget s.zfb.unreach n → s.stageFenced n = false → ∃ t, exec (.stageUnreach n) s = .next t ∧ t.stageFenced n = true ∧
        (n.val < 16 → t.get (Fd.ZFB_OS_fence_cause n) = 6) ∧ (∀ m : Fin 26, m ≠ n → t.stageFenced m = s.stageFenced m) ∧ t.faultCounted s 5 ∧
        t.get (Fd.FLT_STAT_own_pend 5) = s.get (Fd.FLT_STAT_own_pend 5) ||| 4 ∧ t.within s [.regs, .hmp, .zfb, .flt]))

/-- R352 to R355: at a phase's end each lane in TEST shows both ends' errors and its result, a failed Waggle or LOCK lane is a fault, and the lanes
return to service. The claimant's lanes follow the standby's, and LOCK follows where there is a partner; else the test is complete, and the hours
start again. 48 h after it fell due a test is overdue, with a Note. -/
def Obligations.BitErrorTestRunsItsPhases : Prop :=
  ∀ s : State,
    (s.link.bert = .none → ∀ errs, exec (.bertPhaseEnd errs) s = .next s) ∧
    (s.link.bert ≠ .none → ∀ errs : Vector (Nat × Nat) 46, ∃ t, exec (.bertPhaseEnd errs) s = .next t ∧ t.within s [.regs, .hmp, .link, .flt] ∧
      (∀ n : Fin 26, s.get (Fd.STL_LANE_STAT_state n) = 4 → t.get (Fd.STL_LANE_BER_rx_err n) = min 65535 (vget errs ⟨n.val, by omega⟩).1 ∧
        t.get (Fd.STL_LANE_BER_stage_err n) = min 255 (vget errs ⟨n.val, by omega⟩).2 ∧
        t.flag (Fd.STL_LANE_STAT_test_fail n) = decide ((vget errs ⟨n.val, by omega⟩).1 + (vget errs ⟨n.val, by omega⟩).2 ≠ 0)) ∧
      (∀ n : Fin 16, s.get (Fd.WGL_LINK_STAT_state n) = 4 → ∀ e, e = (vget errs ⟨26 + n.val, by omega⟩).1 + (vget errs ⟨26 + n.val, by omega⟩).2 →
        (t.rd (Reg.WGL_LINK_BER n)).toNat = min (2 ^ 32 - 1) e ∧ t.flag (Fd.WGL_LINK_STAT_test_fail n) = decide (e ≠ 0) ∧
        (e ≠ 0 → 2 ≤ t.get (Fd.FLT_STAT_pair_pend 6))) ∧
      (∀ l : Fin 4, s.get Fd.LKS_LOCK_STAT_state = 4 → ∀ e, e = (vget errs ⟨42 + l.val, by omega⟩).1 + (vget errs ⟨42 + l.val, by omega⟩).2 →
        (t.rd (Reg.LKS_LOCK_BER l)).toNat = min (2 ^ 32 - 1) e ∧ (e ≠ 0 → 2 ≤ t.get (Fd.FLT_STAT_own_pend 13))) ∧
      t.link.bert = (if s.link.bert = .phase 1 then .phase 2 else if s.link.bert = .phase 2 ∧ s.lks.partnerValid = true then .phase 3 else .none) ∧
      t.link.bertStart = s.time.frame ∧ t.get Fd.STL_BERT_STAT_phase = t.link.bert.code ∧
      (t.link.bert = .none → t.get Fd.STL_BERT_STAT_hours = 0 ∧ t.flag Fd.STL_BERT_STAT_overdue = false ∧ t.link.bertFrames = 0) ∧
      t.link.passHold = (s.link.passHold || t.link.bert == .phase 3) ∧
      (∀ (n : Fin 26) (x : Nat), x = s.get (Fd.STL_LANE_STAT_state n) → t.get (Fd.STL_LANE_STAT_state n) =
        (if t.ownLanesTested = true ∧ 2 ≤ x ∧ x ≤ 4 then 4 else if x = 4 then (if s.pins.valid then 2 else 3) else x)) ∧
      (∀ (n : Fin 16) (x : Nat), x = s.get (Fd.WGL_LINK_STAT_state n) → t.get (Fd.WGL_LINK_STAT_state n) =
        (if t.ownLanesTested = true ∧ 2 ≤ x ∧ x ≤ 4 then 4 else if x = 4 then (if s.pins.valid then 2 else 3) else x)) ∧
      ∀ x : Nat, x = s.get Fd.LKS_LOCK_STAT_state → t.get Fd.LKS_LOCK_STAT_state =
        (if t.lockTested = true ∧ 2 ≤ x ∧ x ≤ 4 then 4 else if x = 4 then (if s.pins.valid then 2 else 3) else x)) ∧
    ((s.get Fd.STL_BERT_STAT_hours < 72 ∨ s.flag Fd.STL_BERT_STAT_overdue = true) → exec .bertOverdue s = .next s) ∧
    (72 ≤ s.get Fd.STL_BERT_STAT_hours → s.flag Fd.STL_BERT_STAT_overdue = false → ∃ t, exec .bertOverdue s = .next t ∧
      t.flag Fd.STL_BERT_STAT_overdue = true ∧ t.faultCounted s 5 ∧ (∀ a, outWindow 5 a → a ≠ Reg.STL_BERT_STAT → t.rd a = s.rd a) ∧
      t.within s [.regs, .hmp])

/-! ## Wilros packets (chapter 13) -/

/-- R361 to R363, R367 to R371, Table 13-3: every command of an open session passes the same checks in their order, and the first that fails decides
the reply: BAD_LENGTH, NO_SESSION, VERSION, BAD_MAC, the held reply or STALE_SEQ, BUSY_RETRY, UNKNOWN_OPCODE, DENIED_ROLE, HALTED, NO_SEMAPHORE. A
packet turned away does nothing but renew its session. What is no packet, or comes to a port that takes none, is not answered. -/
def Obligations.PacketsAreCheckedInOrder : Prop :=
  ∀ (p : Pkt) (rootOk : Bool) (s : State), ∀ e ∈ sessionCommands p rootOk,
    ((p.notPacket = true ∨ s.portUp p.port = false) → exec e.1 s = .next s) ∧
    (p.notPacket = false → s.portUp p.port = true →
      (p.lenOk = false → ∃ t, exec e.1 s = .next t ∧ t.replied p 0x05 0 [] ∧ t.within s packetParts) ∧
      (p.lenOk = true → ((s.arrive p).sessionOf p = none ∨ p.session = 0) →
        ∃ t, exec e.1 s = .next t ∧ t.replied p 0x0D 0 [] ∧ t.within s packetParts) ∧
      (∀ x : Sess, p.lenOk = true → (s.arrive p).sessionOf p = some x → p.session ≠ 0 →
        (p.version ≠ x.version → ∃ t, exec e.1 s = .next t ∧ t.replied p 0x07 0 [] ∧ t.within s packetParts) ∧
        (p.version = x.version → p.macOk = false → ∃ t, exec e.1 s = .next t ∧ t.replied p 0x04 0 [] ∧ t.within s packetParts ∧
          t.get Fd.SEC_AUTH_CNT_failed = (s.get Fd.SEC_AUTH_CNT_failed + 1) % 65536 ∧
          vget t.sec.fails p.port = vget s.sec.fails p.port + 1))) ∧
    (∀ x : Sess, s.known p x → x.accepts p.seq = false →
      (∀ r, (x.replies.find? fun r => r.seq == p.seq) = some r → ∃ t, exec e.1 s = .next t ∧ t.within s packetParts ∧
        ∃ b, vget t.mgp.sent p.port = some { r with semHeld := b, claimant := s.lks.claimant }) ∧
      ((x.replies.find? fun r => r.seq == p.seq) = none → ∃ t, exec e.1 s = .next t ∧ t.replied p 0x09 0 [] ∧ t.within s packetParts)) ∧
    (∀ x : Sess, s.known p x → x.accepts p.seq = true →
      ((¬ s.takesPacket e.2.1 p ∨ e.2.2 ((s.arrive p).renew p.port p.session) = true) → ∃ t, exec e.1 s = .next t ∧ t.replied p 0x01 0 [] ∧
        t.within s packetParts ∧ t.mgp.packets = s.mgp.packets ∧ ∀ y ∈ t.mgp.sessions, ∃ z ∈ s.mgp.sessions, y = { z with last := y.last }) ∧
      (s.takesPacket e.2.1 p → e.2.2 ((s.arrive p).renew p.port p.session) = false →
        (x.version < e.2.1.minVer → ∃ t, exec e.1 s = .next t ∧ t.replied p 0x06 0 [] ∧ t.within s packetParts) ∧
        (e.2.1.minVer ≤ x.version → e.2.1.roles.contains x.role = false →
          ∃ t, exec e.1 s = .next t ∧ t.replied p 0x03 0 [] ∧ t.within s packetParts) ∧
        (e.2.1.minVer ≤ x.version → e.2.1.roles.contains x.role = true → (s.taken p).flt.halt ≠ .none → e.2.1.inHalt = false →
          ∃ t, exec e.1 s = .next t ∧ (t.replied p 0x0E 0 [] ∨ t.replied p 0x03 0 []) ∧ t.within s packetParts) ∧
        (e.2.1.minVer ≤ x.version → e.2.1.roles.contains x.role = true → (s.taken p).flt.halt = .none → s.flag Fd.SEC_BOOT_recovery = false →
          e.2.1.sem = true → (s.taken p).holdsSem p.port p.session = false →
          ∃ t, exec e.1 s = .next t ∧ (t.replied p 0x02 0 [] ∨ t.replied p 0x03 0 []) ∧ t.within s packetParts)))

/-- R381, R379, R91, R226, R320, R327, R376: a read that passes its checks is answered with the words or bytes it names: registers in their order,
committed results and records as many as fit, a log's entries, a dump's bytes, the ring of the claim history. More than 1 MiB is only accepted. -/
def Obligations.ReadsAnswerWithWhatTheyName : Prop :=
  ∀ (p : Pkt) (x : Sess) (s : State),
    (∀ e ∈ ([(.regRead p, regReadOp, p.readsBad, p.reads.flatMap fun r => (List.range r.2).map fun i => r.1 + 4 * i),
        (.combRead p, combReadOp, p.len 0, regsIn 0x40040000 0x40040500), (.profileRead p, profileReadOp, p.len 0, regsIn 0x40020000 0x40020060),
        (.cellRead p, cellReadOp, p.lenAnd 4 (decide (p.num 0 1 < 3 ∧ p.num 1 1 + p.num 2 1 ≤ 224)),
          (List.range (p.num 2 1)).map fun i => Reg.CHN_CELL (p.num 0 1) (p.num 1 1 + i)),
        (.basketStatus p, basketStatusOp, p.lenAnd 4 (decide (p.num 0 1 < 32)),
          (List.range 6).map (fun j => Reg.MDL_SLOT_STAT (p.num 0 1) + 4 * j) ++ [Reg.MDL_REFUSE]),
        (.faultRead p, faultReadOp, p.lenAnd 4 (decide (p.num 0 1 < 18)), regsIn (Reg.FLT_STAT (p.num 0 1)) (Reg.FLT_STAT (p.num 0 1) + 0x100)),
        (.healthRead p, healthReadOp, p.len 0, (List.range 16).map Reg.LKS_REPORT_OWN ++ (List.range 16).map Reg.LKS_REPORT_PARTNER)] :
        List (Instr × OpInfo × Option Nat × List Nat)),
      s.passes e.2.1 p never always (fun _ => e.2.2.1) x → ∃ t, exec e.1 s = .next t ∧ t.replied p 0 0 ((s.taken p).readBytes e.2.2.2).2 ∧
        t.within s readParts) ∧
    (∀ (a : Nat) (b : Fin 18), p.reads = [(a, 1)] → blockOf a = some b.val → vget s.flt.noAnswer b = 0 → s.passes regReadOp p never always (fun _ => p.readsBad) x →
      ∃ t, exec (.regRead p) s = .next t ∧ t.replied p 0 0 (beBytes 4 ((s.taken p).semRegs.readAs 1 a).toNat)) ∧
    (s.passes resultReadOp p never always (fun _ => p.lenAnd 4 (decide (p.num 0 1 < 32))) x → ∃ t, exec (.resultRead p) s = .next t ∧ t.within s readParts ∧
      ((s.arr.results.find? fun r => r.slot == p.num 0 1 && r.out == p.num 1 1) = none → t.replied p 0 0 []) ∧
      ∀ r, (s.arr.results.find? fun r => r.slot == p.num 0 1 && r.out == p.num 1 1) = some r →
        t.replied p 0 0 (fitItems ((r.vals.take (min 64 (p.num 2 1))).map fun v => beBytes 4 v.1 ++ v.2.flatMap fun b => b.bytes16) 8184)) ∧
    (s.passes hamperReadOp p never always (fun _ => p.len 8) x → ∃ t, exec (.hamperRead p) s = .next t ∧ t.within s readParts ∧
      ∀ recs, recs = ((s.hmp.recs.reverse.drop (p.num 0 4)).take (p.num 4 4)).map (fun r => r.bytes) →
        (1048576 < recs.foldl (fun (n : Nat) r => n + r.length) 0 → t.acceptedAsync p) ∧
        (recs.foldl (fun (n : Nat) r => n + r.length) 0 ≤ 1048576 → t.replied p 0 0 (fitItems recs 8184))) ∧
    (s.passes logReadOp p never always (fun _ => p.len 8) x → ∃ t, exec (.logRead p) s = .next t ∧ t.within s packetParts ∧
      t.replied p 0 0 (Config.logEntries (p.num 0 4) (p.num 4 2))) ∧
    (s.passes dumpReadOp p never always (fun _ => p.lenAnd 12 (decide (p.num 0 1 < 4))) x → ∃ t, exec (.dumpRead p) s = .next t ∧ t.within s readParts ∧
      (1048576 < p.num 8 4 → t.acceptedAsync p) ∧
      ∀ k : Fin 4, k.val = p.num 0 1 → p.num 8 4 ≤ 1048576 → (vget s.flt.dumps k = none → t.replied p 0 0 []) ∧
        ∀ d, vget s.flt.dumps k = some d →
          t.replied p 0 0 ((List.range (min 8184 (min (p.num 8 4) (d.length - p.num 4 4)))).map fun i => d.byte (p.num 4 4 + i))) ∧
    (s.passes claimHistoryOp p never always (fun _ => p.len 0) x → ∃ t, exec (.claimHistory p) s = .next t ∧ t.within s packetParts ∧
      t.replied p 0 0 (s.lks.history.flatMap fun e => e.bytes))

/-- R59, R301, R365, R379 to R381, R390, R391, R466: a write that passes its checks is stamped at its reception, each command with the registers its
row names, and the reply waits for the last of them. A change of a key waits for the write of its packet, and so does an injection; without TEST_MODE
that is refused. A root signature that does not verify is DENIED_ROLE. -/
def Obligations.PacketWritesWaitForTheNextFrame : Prop :=
  ∀ (p : Pkt) (x : Sess) (s : State),
    (∀ ws, ws = ((p.entries 8).map fun e => (beNat (e.take 4), (0xFFFFFFFF : Word), (BitVec.ofNat 32 (beNat (e.drop 4)) : Word))) →
      s.passes regWriteOp p (fun s => s.commissionBusy ws) (fun s x => s.writeDenied x ws) (fun _ => writesBad (p.entriesOk 8 1024) ws) x →
      ∃ t, exec (.regWrite p) s = .next t ∧ t.writesQueued s regWriteOp p x ws .plain (beBytes 2 ws.length ++ [0, 0])) ∧
    (∀ ws, ws = p.maskedWrites →
      s.passes regWriteMaskedOp p (fun s => s.commissionBusy ws) (fun s x => s.writeDenied x ws) (fun _ => writesBad (p.entriesOk 12 682) ws) x →
      ∃ t, exec (.regWriteMasked p) s = .next t ∧ t.writesQueued s regWriteMaskedOp p x ws .plain (beBytes 2 ws.length ++ [0, 0])) ∧
    (∀ es, es = ((p.entries 4).map fun e => (e.getD 0 0, e.getD 1 0)) →
      s.passes rebindOp p never always (fun _ => if p.entriesOk 4 8 && es.all (fun e => decide (e.1 < 16)) then none else some Status.badLength) x →
      ∃ t, exec (.rebind p) s = .next t ∧
        t.writesQueued s rebindOp p x ((es.map fun e => fieldOf (Fd.ZFB_OS_next_zone e.1) e.2) ++ [fieldOf Fd.ZFB_COMB_CTRL_go 1]) .batch []) ∧
    (∀ e ∈ ([(.rebindAbort p, rebindAbortOp, p.len 0, [fieldOf Fd.ZFB_COMB_CTRL_abort 1], .plain),
        (.fenceClear p, fenceClearOp, p.lenAnd 4 (decide (p.num 1 1 < fenceKinds (p.num 0 1))),
          [(actBase + 0x20 * p.num 0 1 + p.num 1 1, 0xFFFFFFFF, 0)], .plain),
        (.stringDuty p, stringDutyOp, p.lenAnd 4 (decide (p.num 0 1 < 3 ∧ p.num 1 1 < 4)), [fieldOf (Fd.ZFB_STR_next_duty (p.num 0 1)) (p.num 1 1)],
          .duty (p.num 0 1) (p.num 1 1)),
        (.groupLimit p, groupLimitOp, p.lenAnd 4 (decide (p.num 0 1 < 63 ∧ p.num 2 2 ≤ 4095)),
          [(actBase + 0x2000 + p.num 0 1, 0xFFFFFFFF, BitVec.ofNat 32 (p.num 2 2))], .plain),
        (.csetLoad p, csetLoadOp, p.lenAnd 40 (decide (p.num 0 1 < 7 ∧ p.num 1 1 < 4 ∧ p.num 2 1 ≤ 1)),
          ((List.range 9).map fun i => (Reg.LPE_CSET_CTRL (p.num 0 1) (p.num 1 1) + 4 * i, 0xFFFFFFFF, BitVec.ofNat 32 (p.num (4 + 4 * i) 4))) ++
            (if p.num 2 1 = 1 then [fieldOf (Fd.LPE_LOOP_CTRL_next_set (p.num 0 1)) (p.num 1 1), fieldOf (Fd.LPE_LOOP_CTRL_switch_set (p.num 0 1)) 1]
              else []), .plain),
        (.loopMode p, loopModeOp, p.lenAnd 8 (decide ((p.num 0 1 = 5 ∨ p.num 0 1 = 6) ∧ p.num 1 1 ≤ 1)),
          [fieldOf (Fd.LPE_LOOP_CTRL_manual (p.num 0 1)) (p.num 1 1), (Reg.LPE_LOOP_MANUAL (p.num 0 1), 0xFFFFFFFF, BitVec.ofNat 32 (p.num 4 4))], .plain),
        (.storageClear p, storageClearOp,
          p.lenAnd 4 (decide (p.num 0 1 ≤ 2 ∧ p.num 1 1 < 3 ∧ (p.num 0 1 ≠ 0 ∨ (1 ≤ p.num 2 1 ∧ p.num 2 1 ≤ 14)))),
          [(actBase + 0x1000 + 0x100 * p.num 0 1 + 0x10 * p.num 1 1 + p.num 2 1 % 16, 0xFFFFFFFF, 0)], .plain),
        (.capacityLoad p, capacityLoadOp, p.lenAnd 8 (decide (p.num 0 1 < 3)),
          [(actBase + 0x3000 + p.num 0 1, 0xFFFFFFFF, BitVec.ofNat 32 (p.num 4 4))], .plain),
        (.quarantineClear p, quarantineClearOp, p.lenAnd 4 (decide (p.num 0 1 < 32)), [(actOwn + p.num 0 1, 0xFFFFFFFF, 0)], .plain),
        (.arrayTarget p, arrayTargetOp, p.lenAnd 4 (decide (p.num 0 1 ≤ 7)), [fieldOf Fd.CLK_ADN_LEVEL_target (p.num 0 1)], .plain),
        (.faultAck p, faultAckOp, p.lenAnd 8 (decide (p.num 0 1 < 18)), [(Reg.FLT_STAT (p.num 0 1), 0x707, BitVec.ofNat 32 (p.num 4 4))], .plain)] :
        List (Instr × OpInfo × Option Nat × List (Nat × Word × Word) × ReplyCheck)),
      s.passes e.2.1 p never always (fun _ => e.2.2.1) x → ∃ t, exec e.1 s = .next t ∧ t.writesQueued s e.2.1 p x e.2.2.2.1 e.2.2.2.2 []) ∧
    (∀ rootOk : Bool, ∀ e ∈ ([(.keyLoad p rootOk, 0, some p.key), (.keyClear p rootOk, 1, none)] : List (Instr × Nat × Option KeyRec)),
      s.passes keyOp p never (fun _ x => p.keyDenied e.2.1 x) (fun _ => p.keyBad e.2.1) x →
      (p.num 1 1 ≤ 2 → rootOk = false → ∃ t, exec e.1 s = .next t ∧ t.replied p 0x03 0 [] ∧ t.sec.keys = s.sec.keys ∧ t.sec.keyWaits = s.sec.keyWaits ∧
        t.within s packetParts) ∧
      (2 < p.num 1 1 ∨ rootOk = true → ∃ t, exec e.1 s = .next t ∧
        t.writesQueued s keyOp p x [(actOwn + 0x1000, 0xFFFFFFFF, BitVec.ofNat 32 (p.num 1 1))] .plain [] ∧ t.sec.keys = s.sec.keys ∧
        t.sec.keyWaits = s.sec.keyWaits ++ [(s.mgp.packets + 1, p.num 1 1, e.2.2)])) ∧
    (∀ e ∈ ([(.injectRecord p, 1), (.injectWriteCheck p, 2), (.injectHang p, 3), (.injectTimeout p, 4), (.injectEcc p, 5), (.injectClock p, 6),
        (.injectSupply p, 7), (.injectComparator p, 8)] : List (Instr × Nat)),
      s.passes testOp p never always (fun _ => p.lenAnd 16 (p.injectOk && p.num 0 1 == e.2)) x →
      (s.pins.testMode = false → ∃ t, exec e.1 s = .next t ∧ t.replied p 0x0A 0x21 [] ∧ t.within s packetParts) ∧
      (s.pins.testMode = true → ∃ t, exec e.1 s = .next t ∧
        t.writesQueued s testOp p x [(actOwn + 0x2000, 0xFFFFFFFF, 0)] .plain (beBytes 4 (s.sec.injections + 1)) ∧
        t.sec.injectWaits = s.sec.injectWaits ++ [(s.mgp.packets + 1, p.payload)] ∧ t.sec.injections = s.sec.injections + 1))

/-- R227, R229, R232, R354, R366, R371, R372, R377: SESSION_CLOSE ends its session after the reply. The semaphore goes to a session where it is free
or its own, and to an installer that seizes it. HELLO chooses the highest common version and gives a nonce. A piece of a package joins its slot;
admission, change and eviction wait for their frame 252 or are refused; a window starts the test's phases. -/
def Obligations.SessionsSemaphoreAndBaskets : Prop :=
  ∀ (p : Pkt) (x : Sess) (s : State),
    (s.passes sessionCloseOp p never always (fun _ => p.len 0) x → ∃ t, exec (.sessionClose p) s = .next t ∧ t.replied p 0 0 [] ∧
      t.sessionOf p = none ∧ t.within s packetParts) ∧
    (s.passes keepaliveOp p never always (fun _ => p.len 0) x → ∃ t, exec (.keepalive p) s = .next t ∧ t.replied p 0 0 [] ∧ t.within s packetParts) ∧
    (s.passes semAcquireOp p never always (fun _ => p.len 0) x → ∃ t, exec (.semAcquire p) s = .next t ∧ t.within s packetParts ∧
      ((s.taken p).mgp.sem ≠ none → (s.taken p).holdsSem p.port p.session = false →
        t.replied p 0x02 0 (s.taken p).semData ∧ (p.seq ≠ 0xFFFFFFFF → t.mgp.sem = (s.taken p).mgp.sem)) ∧
      ((s.taken p).mgp.sem = none ∨ (s.taken p).holdsSem p.port p.session = true → ∃ data, t.replied p 0 0 data ∧ (p.seq ≠ 0xFFFFFFFF →
        data = t.semData ∧ t.mgp.sem = some (p.port, p.session, (s.taken p).now) ∧ t.flag Fd.MGP_SEM_STAT_held = true ∧
        t.get Fd.MGP_SEM_STAT_port = p.port ∧ t.sec.next = ((s.taken p).sec.next + 1) % 2 ^ 64))) ∧
    (s.passes semReleaseOp p never always (fun _ => p.len 0) x → ∃ t, exec (.semRelease p) s = .next t ∧ t.within s packetParts ∧
      ((s.taken p).mgp.sem = none ∨ (s.taken p).holdsSem p.port p.session = true → t.replied p 0 0 [] ∧ t.mgp.sem = none) ∧
      ((s.taken p).mgp.sem ≠ none → (s.taken p).holdsSem p.port p.session = false → t.replied p 0x02 0 [] ∧ t.mgp.sem = (s.taken p).mgp.sem)) ∧
    (s.passes semSeizeOp p never always (fun _ => p.len 0) x → ∃ t, exec (.semSeize p) s = .next t ∧ t.within s packetParts ∧
      t.replied p 0 0 (s.taken p).semFormer ∧ (p.seq ≠ 0xFFFFFFFF → t.mgp.sem = some (p.port, p.session, (s.taken p).now)) ∧
      ((s.taken p).mgp.sem ≠ none → (s.taken p).holdsSem p.port p.session = false →
        t.get Fd.MGP_SEM_CNT_seized = ((s.taken p).get Fd.MGP_SEM_CNT_seized + 1) % 65536 ∧ t.faultCounted (s.taken p) 16)) ∧
    (p.session = 0 → s.passesUnopened p (fun _ => true) 4 → ∃ t, exec (.hello p) s = .next t ∧ t.within s (.free :: packetParts) ∧
      ((∀ v ∈ wilrosVersions, ¬(p.num 0 1 ≤ v ∧ v ≤ p.num 1 1)) → t.replied p 0x07 0 [0x24, 0x31]) ∧
      ∀ v ∈ wilrosVersions, p.num 0 1 ≤ v → v ≤ p.num 1 1 → (∀ w ∈ wilrosVersions, w ≤ p.num 1 1 → w ≤ v) →
        ∃ nonce : List Nat, nonce.length = 32 ∧ vget t.mgp.nonces p.port = some ⟨nonce, (s.arrive p).now, v⟩ ∧
          (∃ r, vget t.mgp.sent p.port = some r ∧ r.version = v) ∧ t.replied p 0 0 ([v, 0x24, 0x31, 0, s.get Fd.LKS_STAT_slot_id * 4 +
            s.get Fd.LKS_STAT_role, s.window p.port, s.get Fd.MGP_CTRL_lease, 0] ++ nonce ++ beBytes 4 s.baseline)) ∧
    (∀ i : Fin 32, i.val = p.num 0 1 → s.passes basketStoreOp p never always
        (fun _ => if p.pieceOk && decide (p.num 0 1 < 32) then none else some Status.badLength) x →
      ∃ t, exec (.basketStore p) s = .next t ∧ t.within s (.arr :: packetParts) ∧
        ((s.slotState i ≠ 0 ∨ 2147483648 < s.storeUsed + p.pieceBytes.length) → t.replied p 0x0B 9 [] ∧ t.slot i = s.slot i) ∧
        (s.slotState i = 0 → s.storeUsed + p.pieceBytes.length ≤ 2147483648 → (t.slot i).total = p.num 4 2 ∧
          (t.slot i).parts = (if (s.slot i).total = p.num 4 2 then insPart (s.slot i).parts (p.num 2 2) p.pieceBytes else [(p.num 2 2, p.pieceBytes)]) ∧
          ((t.slot i).parts.length = p.num 4 2 → t.acceptedAsync p) ∧ ((t.slot i).parts.length ≠ p.num 4 2 → t.replied p 0 0 [])) ∧
        ∀ j, j ≠ i → t.slot j = s.slot j) ∧
    (∀ i : Fin 32, i.val = p.num 0 1 → ∀ e ∈ ([(.basketAdmit p, basketAdmitOp, p.lenAnd 12 (decide (p.num 0 1 < 32)), maskCores (p.num 4 8), false),
        (.basketVariant p, basketVariantOp, p.lenAnd 4 (decide (p.num 0 1 < 32)), [], true)] : List (Instr × OpInfo × Option Nat × List Nat × Bool)),
      s.passes e.2.1 p never always (fun _ => e.2.2.1) x →
      (∀ c, (s.taken p).afterReqs.admission i (p.num 1 1) e.2.2.2.1 e.2.2.2.2 = .error c → ∃ t, exec e.1 s = .next t ∧
        t.get Fd.MDL_REFUSE_slot = i ∧ t.replied p 0x08 (t.get Fd.MDL_REFUSE_cause) [] ∧ t.arr = s.arr ∧ t.within s packetParts) ∧
      (∀ cores bank, (s.taken p).afterReqs.admission i (p.num 1 1) e.2.2.2.1 e.2.2.2.2 = .ok (cores, bank) → ∃ t, exec e.1 s = .next t ∧
        t.arr = { s.arr with reqs := s.arr.reqs ++ [.bind i (p.num 1 1) cores bank e.2.2.2.2] } ∧
        (∃ w, t.mgp.waiting = s.mgp.waiting ++ [w] ∧ w.when' = .commit ∧ w.check = .entry i (p.num 1 1)) ∧ t.within s (.arr :: packetParts))) ∧
    (∀ i : Fin 32, i.val = p.num 0 1 → s.passes basketEvictOp p never always (fun _ => p.lenAnd 4 (decide (p.num 0 1 < 32))) x →
      ((s.taken p).afterReqs.admitted i = false → ∃ t, exec (.basketEvict p) s = .next t ∧ t.replied p 0x08 8 [] ∧ t.arr = s.arr ∧ t.within s packetParts) ∧
      ((s.taken p).afterReqs.admitted i = true → ∃ t, exec (.basketEvict p) s = .next t ∧ t.arr = { s.arr with reqs := s.arr.reqs ++ [.evict i] } ∧
        (∃ w, t.mgp.waiting = s.mgp.waiting ++ [w] ∧ w.when' = .commit ∧ w.check = .evict i) ∧ t.within s (.arr :: packetParts))) ∧
    (s.passes bertWindowOp p never always (fun _ => p.len 4) x →
      (s.lks.partnerValid = false → s.anyUnder = true → ∃ t, exec (.bertWindow p) s = .next t ∧ t.replied p 0x0A 0x22 [] ∧ t.link = s.link ∧
        t.within s packetParts) ∧
      (s.lks.partnerValid = true ∨ s.anyUnder = false → ∃ t, exec (.bertWindow p) s = .next t ∧ t.link.bertWindow = p.num 0 2 ∧
        ((s.link.bert = .none ∧ 24 ≤ s.get Fd.STL_BERT_STAT_hours ∧ (if s.lks.partnerValid then 50 else 20) ≤ p.num 0 2 ∧
            (s.lks.partnerValid = true → s.flag Fd.LKS_STAT_synced = true ∨ s.lks.claimant = true) →
          t.link.bert = .phase (if s.lks.partnerValid then 1 else 2) ∧ t.replied p 0 0 [if s.lks.partnerValid then 3 else 1, 0, 0, 0]) ∧
        (s.link.bert ≠ .none ∨ s.get Fd.STL_BERT_STAT_hours < 24 ∨ p.num 0 2 < (if s.lks.partnerValid then 50 else 20) →
          t.link.bert = s.link.bert ∧ t.replied p 0 0 [0, 0, 0, 0])) ∧ t.within s (.link :: packetParts)))

/-- R357, R358, R360, R366, R372: what the ports do below Wilros, and what ends there. A session without a packet ends, and so do a port's sessions
with its link; a lease that has run out frees the semaphore with a Note. A port answers ARP, neighbour discovery and echo for its own address and VLAN
alone. -/
def Obligations.PortsAnswerAndSessionsExpire : Prop :=
  ∀ s : State,
    (∀ (port : Fin 3) (n : Nat), (∀ x ∈ s.mgp.sessions, ¬(x.port = port ∧ x.num = n)) → exec (.sessionIdleExpiry port n) s = .next s) ∧
    (∀ (port : Fin 3) (n : Nat) (x : Sess), (s.mgp.sessions.find? fun x => x.port == port && x.num == n) = some x →
      (s.now < x.last + secCycles (s.get Fd.MGP_CTRL_session_idle) → exec (.sessionIdleExpiry port n) s = .next s) ∧
      (x.last + secCycles (s.get Fd.MGP_CTRL_session_idle) ≤ s.now → ∃ t, exec (.sessionIdleExpiry port n) s = .next t ∧ t.sessionEnded s port n ∧
        t.sec.next = (s.sec.next + 1) % 2 ^ 64 ∧ t.within s [.regs, .mgp, .sec])) ∧
    (s.mgp.sem = none → exec .leaseExpiry s = .next s) ∧
    (∀ port n r, s.mgp.sem = some (port, n, r) → s.now < r + secCycles (s.get Fd.MGP_CTRL_lease) → exec .leaseExpiry s = .next s) ∧
    (∀ port n r, s.mgp.sem = some (port, n, r) → r + secCycles (s.get Fd.MGP_CTRL_lease) ≤ s.now → ∃ t, exec .leaseExpiry s = .next t ∧
      t.mgp = { s.mgp with sem := none } ∧ t.flag Fd.MGP_SEM_STAT_held = false ∧ t.get Fd.MGP_SEM_STAT_port = 3 ∧
      t.get Fd.MGP_SEM_CNT_expired = (s.get Fd.MGP_SEM_CNT_expired + 1) % 65536 ∧ t.faultCounted s 16 ∧
      t.within s [.regs, .hmp, .mgp, .sec]) ∧
    (∀ port : Fin 3, ∃ t, exec (.portLinkLoss port) s = .next t ∧ t.mgp.sessions = (s.mgp.sessions.filter fun x => x.port != port) ∧
      (port.val < 2 → t.flag (Fd.MGP_PORT_STAT_link port) = false) ∧ t.within s [.regs, .mgp, .sec] ∧
      ∀ x ∈ s.mgp.sessions, x.port = port → s.holdsSem port x.num = true → t.mgp.sem = none) ∧
    (∀ (port : Fin 2) (up : Bool), ∃ t, exec (.portLinkUp port up) s = .next t ∧ t.flag (Fd.MGP_PORT_STAT_module_ok port) = true ∧
      t.flag (Fd.MGP_PORT_STAT_link port) = (up || s.flag (Fd.MGP_PORT_STAT_link port)) ∧ t.withinRegs s [Reg.MGP_PORT_STAT port] ∧ t.within s [.regs]) ∧
    (∀ (port : Fin 2) (vlan ip : Nat) (v6 : Bool) (data : List Nat), ∀ ok4 ok6 : Bool,
      ok4 = (s.vlanOk port vlan && ip != 0 && s.get (Fd.MGP_IP4_addr port) == ip) → ok6 = (s.vlanOk port vlan && s.ownIp6 port ip) →
      exec (.arpRequest port vlan ip) s = .next (if ok4 then { s with mgp := { s.mgp with net := vset s.mgp.net port (some (.arp ip)) } } else s) ∧
      exec (.neighbourDiscovery port vlan ip) s =
        .next (if ok6 then { s with mgp := { s.mgp with net := vset s.mgp.net port (some (.neighbour ip)) } } else s) ∧
      exec (.icmpEcho port vlan v6 ip data) s = .next (if (if v6 then ok6 else ok4) then
        { s with mgp := { s.mgp with net := vset s.mgp.net port (some (.echo v6 data)) } } else s)) ∧
    exec .reassemblyTimeout s = .next s ∧
    exec .consoleFramingError s = .next { s with mgp := { s.mgp with consoleSkip := true } } ∧
    exec .consoleFramingRegained s = .next { s with mgp := { s.mgp with consoleSkip := false } } ∧
    (∀ p : Pkt, p.port = 2 → s.mgp.consoleSkip = true → exec (.keepalive p) s = .next s)

/-! ## Trust (chapter 14) -/

/-- R392 to R396: SESSION_OPEN is granted only with the port's own nonce, not older than 10 s, a loaded key of the role's kind or the first enrolment,
a signature that verifies, and a role that the port may hold; otherwise it is DENIED_ROLE and opens nothing. The attempt consumes the nonce. The 16th
failure in a row closes the port to attempts for 60 s. A grant adds a session with a number that no other has, and the reply opens with number and
role. A packet that names an open session is refused with BAD_LENGTH: that clause is the model's reading of R362, no rule of its own. -/
def Obligations.SessionsOpenUnderTheirKeys : Prop :=
  ∀ (p : Pkt) (sigOk : Bool) (s u : State), u = s.arrive p →
    (∀ x : Sess, s.known p x → x.accepts p.seq = true → s.takesPacket openOp p → openOp.minVer ≤ x.version → openOp.roles.contains x.role = true →
      (s.taken p).flt.halt = .none → ∃ t, exec (.sessionOpen p sigOk) s = .next t ∧ t.replied p 0x05 0 [] ∧ t.within s packetParts) ∧
    (p.session = 0 → s.passesUnopened p (fun u => u.openVersion p) 4992 →
      (u.now < vget u.mgp.closedTo p.port → ∃ t, exec (.sessionOpen p sigOk) s = .next t ∧ t.replied p 0x03 0 [] ∧ t.mgp.nonces = u.mgp.nonces ∧
        t.mgp.sessions = u.mgp.sessions ∧ t.within s packetParts) ∧
      (vget u.mgp.closedTo p.port ≤ u.now →
        (u.openKey p = none ∨ u.nonceFresh p = false ∨ sigOk = false ∨ u.mayOpen (p.num 0 1) p.port = false →
          ∃ t, exec (.sessionOpen p sigOk) s = .next t ∧ t.replied p 0x03 0 [] ∧ vget t.mgp.nonces p.port = none ∧ t.mgp.sessions = u.mgp.sessions ∧
            t.get Fd.SEC_AUTH_CNT_failed = (u.get Fd.SEC_AUTH_CNT_failed + 1) % 65536 ∧
            (vget u.mgp.failRun p.port < 15 → vget t.mgp.failRun p.port = vget u.mgp.failRun p.port + 1 ∧ t.mgp.closedTo = u.mgp.closedTo) ∧
            (15 ≤ vget u.mgp.failRun p.port → vget t.mgp.failRun p.port = 0 ∧ vget t.mgp.closedTo p.port = u.now + secCycles 60) ∧ t.within s packetParts) ∧
        (∀ (k : Nat) (id : List Nat), u.openKey p = some (k, id) → u.nonceFresh p = true → sigOk = true → u.mayOpen (p.num 0 1) p.port = true →
          (u.portFull p.port = true → ∃ t, exec (.sessionOpen p sigOk) s = .next t ∧ t.replied p 0x0A 0x20 [] ∧ vget t.mgp.nonces p.port = none ∧
            t.mgp.sessions = u.mgp.sessions ∧ t.within s packetParts) ∧
          (u.portFull p.port = false → ∃ t x data, exec (.sessionOpen p sigOk) s = .next t ∧ t.mgp.sessions = u.mgp.sessions ++ [x] ∧ x.num ≠ 0 ∧
            (∀ y ∈ u.mgp.sessions, y.num ≠ x.num) ∧ x.port = p.port ∧ x.role = p.num 0 1 ∧ x.version = p.version ∧ x.slot = k ∧ x.keyId = id ∧
            x.high = 0 ∧ x.accepted = [] ∧ t.replied p 0 0 data ∧ data.take 8 = beBytes 4 x.num ++ [p.num 0 1, 0, 0, 0] ∧
            vget t.mgp.nonces p.port = none ∧ vget t.mgp.failRun p.port = 0 ∧
            t.get Fd.SEC_AUTH_CNT_opened = (u.get Fd.SEC_AUTH_CNT_opened + 1) % 65536 ∧
            (bit (p.num 1 1) 0 = true → vget t.sec.keys 3 = some ⟨(p.payload.drop 1260).take 1312, id⟩ ∧ ∀ j : Fin 21, j ≠ 3 → vget t.sec.keys j = vget s.sec.keys j) ∧
            (bit (p.num 1 1) 0 = false → t.sec.keys = s.sec.keys) ∧ t.within s (.free :: packetParts)))))

/-- R398, R400: an image arrives in the inactive bank piece by piece, and the running bank stands; with its last piece the check begins, whose result
SEC_FW_STAT reports, and an image that fails leaves its bank empty. FW_ACTIVATE of the running bank has no effect, and of the other needs an image
that has passed. The boot ROM starts the named bank where its image passes, else the other's, else the module is in recovery; the firmware then
reports ready, and its standard baskets enter empty slots. -/
def Obligations.FirmwareIsStoredCheckedAndStarted : Prop :=
  ∀ (s : State) (b : Fin 2), b = otherBank s.runBank →
    (∀ (p : Pkt) (x : Sess) (parts : List (Nat × List Nat)),
      parts = (if (s.bank b).total = p.num 4 2 ∧ (s.bank b).valid = false then insPart (s.bank b).parts (p.num 2 2) p.pieceBytes
        else [(p.num 2 2, p.pieceBytes)]) →
      s.passes fwStoreOp p (fun s => s.inTrial || s.sec.checking) always (fun _ => if p.pieceOk then none else some Status.badLength) x →
      ∃ t, exec (.fwStore p) s = .next t ∧ t.bank s.runBank = s.bank s.runBank ∧ t.get Fd.SEC_FW_STAT_op = 0 ∧
        (parts.length ≠ p.num 4 2 → t.bank b = { FwBank.empty with parts := parts, total := p.num 4 2 } ∧ t.sec.checking = false ∧ t.replied p 0 0 []) ∧
        (parts.length = p.num 4 2 → t.bank b = { FwBank.empty with bytes := parts.flatMap fun e => e.2 } ∧ t.sec.checking = true ∧
          t.flag Fd.SEC_FW_STAT_busy = true ∧ t.acceptedAsync p) ∧ t.within s packetParts) ∧
    (∀ (p : Pkt) (x : Sess) (c : Fin 2), c.val = p.num 0 1 →
      s.passes fwActivateOp p (fun s => s.inTrial || s.sec.checking) always (fun _ => p.lenAnd 4 (decide (p.num 0 1 ≤ 1))) x →
      ∃ t, exec (.fwActivate p) s = .next t ∧ t.sec.banks = s.sec.banks ∧ t.get Fd.SEC_FW_STAT_op = 1 ∧ t.within s (.free :: packetParts) ∧
        (c = s.runBank ∧ s.flag Fd.SEC_BOOT_recovery = false → t.replied p 0 0 [] ∧ t.sec.trial = s.sec.trial) ∧
        (¬(c = s.runBank ∧ s.flag Fd.SEC_BOOT_recovery = false) → (s.bank c).valid = true →
          t.acceptedAsync p ∧ t.sec.trial = .asked c ∧ t.flag Fd.SEC_FW_STAT_busy = true) ∧
        (¬(c = s.runBank ∧ s.flag Fd.SEC_BOOT_recovery = false) → (s.bank c).valid = false →
          (∃ cause, t.replied p 0x0A cause []) ∧ t.sec.trial = s.sec.trial)) ∧
    (∀ sigOk : Bool, (s.sec.checking = false → exec (.fwImageChecked sigOk) s = .next s) ∧
      (s.sec.checking = true → ∃ t, exec (.fwImageChecked sigOk) s = .next t ∧ t.sec.checking = false ∧ t.flag Fd.SEC_FW_STAT_busy = false ∧
        t.bank s.runBank = s.bank s.runBank ∧ t.within s [.regs, .sec] ∧ ∀ fits : Bool, fits = imageOk (s.bank b).bytes (s.get Fd.SEC_BOOT_rollback) →
        (fits = true → sigOk = true → t.get Fd.SEC_FW_STAT_result = 0 ∧ t.bank b = { s.bank b with
          valid := true, baseline := pkgNum (s.bank b).bytes 4 4, rollback := pkgNum (s.bank b).bytes 8 1 }) ∧
        (fits = true → sigOk = false → t.get Fd.SEC_FW_STAT_result = 0x0B ∧ t.get Fd.SEC_FW_STAT_cause = 6 ∧ t.bank b = .empty) ∧
        (fits = false → t.get Fd.SEC_FW_STAT_result = 0x0B ∧ t.get Fd.SEC_FW_STAT_cause = 7 ∧ t.bank b = .empty))) ∧
    (∀ sigOk : Vector Bool 2, (s.computeDown = true ∨ s.sec.booted = true ∨ s.pwr.stopped = true → exec (.boot sigOk) s = .next s) ∧
      (s.computeDown = false → s.sec.booted = false → s.pwr.stopped = false → ∀ (next : Fin 2) (pass : Fin 2 → Bool),
        next = (if s.flag Fd.SEC_BOOT_next_bank = true then 1 else 0) →
        (∀ c, pass c = ((s.bank c).valid && vget sigOk c && decide (s.get Fd.SEC_BOOT_rollback ≤ (s.bank c).rollback))) →
        ∃ t, exec (.boot sigOk) s = .next t ∧ t.sec.booted = true ∧ t.sec.banks = s.sec.banks ∧ t.within s [.regs, .hmp, .sec, .flt] ∧
          (pass next = true → t.runBank = next ∧ t.flag Fd.SEC_BOOT_recovery = false ∧ t.sec.trial = s.sec.trial) ∧
          (pass next = false → pass (otherBank next) = true → t.runBank = otherBank next ∧ t.flag Fd.SEC_BOOT_recovery = false ∧
            t.flag Fd.SEC_BOOT_fallback = true ∧ t.sec.trial = .none ∧ (s.inTrial = true → t.faultCounted s 17)) ∧
          (pass next = false → pass (otherBank next) = false → t.flag Fd.SEC_BOOT_recovery = true))) ∧
    (∀ baskets : List (List Nat), ∀ starts : Bool, starts = (!s.computeDown && s.sec.booted && !s.sec.running && !s.flag Fd.SEC_BOOT_recovery &&
        s.flt.halt != .dead) →
      (starts = false → exec (.firmwareReady baskets) s = .next s) ∧
      (starts = true → ∃ t, exec (.firmwareReady baskets) s = .next t ∧ t.sec.running = true ∧
        (∀ f, s.sec.trial = .starting f → t.sec.trial = if s.time.frame ≤ f + 2500000 then .observed s.time.frame else .starting f) ∧
        (s.flt.halt = .starting → t.flt = { s.flt with halt := .service } ∧ t.within s [.sec, .flt]) ∧
        (s.flt.halt ≠ .starting → s.flt.halt ≠ .none → t.within s [.sec]) ∧
        (s.flt.halt = .none → t.within s [.regs, .arr, .sec] ∧ (∀ i : Fin 32, 5 ≤ i.val ∨ s.slotState i ≠ 0 → t.slot i = s.slot i) ∧
          ∀ (i : Fin 32) (k : Pkg), i.val < 5 → s.slotState i = 0 → baskets[i.val]?.bind readPkg = some k → t.slotState i = 1 ∧ (t.slot i).pkg = some k)))

/-- R401, R402: a trial succeeds 600 s after the firmware reported ready, without a Halt or a failing HEARTBEAT; it fails without a report in 10 s or
with either, and COMPUTE is then reset into the previous bank, with fallback and a Degrade-class fault in SEC. After a success the rollback counter
rises to the image's value, up to 64, at the next slow-frame boundary without a brown-out warning. -/
def Obligations.TrialsEndAndTheCounterRises : Prop :=
  ∀ s : State,
    (∀ f, s.sec.trial = .observed f →
      (s.time.frame < f + 150000000 ∨ s.trialBad = true → exec .fwTrialSuccess s = .next s) ∧
      (f + 150000000 ≤ s.time.frame → s.trialBad = false → ∃ t, exec .fwTrialSuccess s = .next t ∧ t.sec.trial = .none ∧ t.get Fd.SEC_BOOT_trial = 2 ∧
        t.flag Fd.SEC_FW_STAT_busy = false ∧ t.sec.raiseDue = (s.sec.raiseDue || decide (s.get Fd.SEC_BOOT_rollback < (s.bank s.runBank).rollback)) ∧
        t.sec.banks = s.sec.banks ∧ t.within s [.regs, .sec])) ∧
    ((∀ f, s.sec.trial ≠ .observed f) → exec .fwTrialSuccess s = .next s) ∧
    (∀ f, (s.sec.trial = .starting f → s.trialBad = decide (f + 2500000 < s.time.frame)) ∧
      (s.sec.trial = .observed f → s.trialBad = decide (s.flt.halt ≠ .none ∨ s.computeDown = true ∨ s.get Fd.LKS_WDOG_STAT_missing ≠ 0))) ∧
    (s.trialBad = false → exec .fwTrialFail s = .next s) ∧
    (s.trialBad = true → ∃ t, exec .fwTrialFail s = .next t ∧ t.sec.trial = .none ∧ t.get Fd.SEC_BOOT_trial = 3 ∧ t.flag Fd.SEC_BOOT_fallback = true ∧
      t.flag Fd.SEC_BOOT_next_bank = !s.flag Fd.SEC_BOOT_next_bank ∧ t.faultCounted s 17 ∧ t.inReset 1 = true ∧ t.sec.banks = s.sec.banks ∧
      (s.computeDown = false → t.flt.rstLeft = 512 ∧ t.get Fd.KPR_RST_STAT_cause_compute = 7) ∧ t.within s [.regs, .hmp, .arr, .sec, .flt]) ∧
    (s.sec.raiseDue = false ∨ s.slowStart = false ∨ s.flag Fd.KPR_SUPPLY_STAT_bow = true → exec .rollbackRaise s = .next s) ∧
    (s.sec.raiseDue = true → s.slowStart = true → s.flag Fd.KPR_SUPPLY_STAT_bow = false → ∃ t, exec .rollbackRaise s = .next t ∧
      t.get Fd.SEC_BOOT_rollback = min 64 (max (s.bank s.runBank).rollback (s.get Fd.SEC_BOOT_rollback)) ∧ t.sec.raiseDue = false ∧
      t.sec.next = (s.sec.next + 1) % 2 ^ 64 ∧ t.within s [.regs, .sec])

/-- R404 to R410: a new nonce starts the signing of a record, and the same nonce within 60 s returns it once it is signed. Staged entries move to
flash at a slow-frame boundary, and with 64 staged; a checkpoint follows every 256th entry, and after 3433 slow frames with an entry since; failed
authentications enter the log as one entry, which continues the chain. AUDIT_READ answers with the entries from the named one on. -/
def Obligations.RecordsAreSignedAndLogged : Prop :=
  ∀ s : State,
    (∀ (p : Pkt) (x : Sess), s.passes attestOp p never always (fun _ => p.len 32) x → ∀ held : Bool,
      held = (x.nonce == p.payload && !x.record.isEmpty && decide ((s.taken p).now < x.recordAt + secCycles 60)) →
      ∃ t, exec (.attest p) s = .next t ∧ t.within s packetParts ∧
        (held = true → x.signing = false → t.replied p 0 0 x.record) ∧ (held = true → x.signing = true → t.acceptedAsync p) ∧
        (held = false → t.acceptedAsync p ∧ (p.seq ≠ 0xFFFFFFFF → ∃ y, t.sessionOf p = some y ∧ y.nonce = p.payload ∧
          y.record = (s.taken p).attestRecord p.payload ∧ y.recordAt = (s.taken p).now ∧ y.signing = true))) ∧
    (∀ (port : Fin 3) (n : Nat), ∃ t, exec (.attestSignDone port n) s = .next t ∧ t.within s [.mgp, .free] ∧
      (∀ x ∈ s.mgp.sessions, ¬(x.port = port ∧ x.num = n) ∨ x.signing = false → x ∈ t.mgp.sessions) ∧
      ∀ x ∈ s.mgp.sessions, x.port = port → x.num = n → x.signing = true → ∃ sig, { x with record := x.record ++ sig, signing := false } ∈ t.mgp.sessions) ∧
    (∀ (p : Pkt) (x : Sess), s.passes auditReadOp p never always (fun _ => p.len 12) x → ∀ r, r = auditItems (((s.taken p).sec.flash ++
        (s.taken p).sec.staged.map fun e => (e, (s.taken p).sec.stagedChecks.find? fun c => c.n == e.n)).filter fun e => decide (p.num 0 8 ≤ e.1.n))
        (p.num 8 2) 8 →
      r.1 ≤ p.num 8 2 ∧ ∃ t, exec (.auditRead p) s = .next t ∧ t.replied p 0 0 (beBytes 2 r.1 ++ [0, 0, 0, 0, 0, 0] ++ r.2) ∧ t.within s packetParts) ∧
    (s.slowStart = false → s.sec.staged.length < 64 → exec .auditFlush s = .next s) ∧
    (s.slowStart = true ∨ 64 ≤ s.sec.staged.length → ∃ t old, exec .auditFlush s = .next t ∧ t.sec.staged = [] ∧ t.get Fd.SEC_AUDIT_STAT_staged = 0 ∧
      t.flag Fd.SEC_AUDIT_STAT_full = false ∧ old <:+ s.sec.flash ∧ t.sec.next = s.sec.next ∧ t.sec.lastH = s.sec.lastH ∧ t.within s [.regs, .sec] ∧
      t.sec.flash = old ++ s.sec.staged.map fun e => (e, s.sec.stagedChecks.find? fun c => c.n == e.n)) ∧
    (∀ due : Bool, due = (s.sec.sinceCheck && s.sec.next != 0 && (s.sec.next % 256 == 0 || (s.slowStart && decide (s.sec.lastCheck + 3433 ≤ s.slowIdx)))) →
      (due = false → exec .auditCheckpoint s = .next s) ∧
      (due = true → ∃ t c, exec .auditCheckpoint s = .next t ∧ c.n = s.sec.next - 1 ∧ c.frame = s.time.frame ∧ c.time = s.now ∧ c.h = s.sec.lastH ∧
        t.sec.sinceCheck = false ∧ t.sec.lastCheck = s.slowIdx ∧ t.within s [.sec] ∧
        ((∃ e ∈ s.sec.staged, e.n = c.n) → t.sec.stagedChecks = s.sec.stagedChecks ++ [c]) ∧
        ((∀ e ∈ s.sec.staged, e.n ≠ c.n) → ∀ e ∈ s.sec.flash, e.1.n = c.n → (e.1, some c) ∈ t.sec.flash))) ∧
    (s.slowStart = false ∨ (∀ q, vget s.sec.fails q = 0) → exec .authFailureEntry s = .next s) ∧
    (s.slowStart = true → ∀ q, vget s.sec.fails q ≠ 0 → ∃ t, exec .authFailureEntry s = .next t ∧ (∀ r, vget t.sec.fails r = 0) ∧
      t.sec.next = (s.sec.next + 1) % 2 ^ 64 ∧ t.sec.lastH = Config.sha3 (s.sec.lastH ++ auditBytes s.sec.next s.time.frame 4 (auditWho 3 3 0) 0 0 0
        (beBytes 8 (vget s.sec.fails 0 + vget s.sec.fails 1 + vget s.sec.fails 2))) ∧ t.within s [.regs, .sec])

/-! ## Power and clocks (chapter 15) -/

/-- R413 to R416, R418: a crystal is judged stable after 2048 periods at or above 150 mV, and at a start XT0 becomes the reference, or XT1 after 8000
periods without XT0. The loss of the crystal that is not selected ends its judgment and is noted. A PLL locks to a reference; with PLL0 the domains
leave HFRC. -/
def Obligations.CrystalsAreJudgedAndTaken : Prop :=
  ∀ s : State,
    (∀ (x : Fin 2) (now mv : Nat) (other : Bool),
      (mv < 150 ∨ now < vget s.pwr.judge x + 2048 ∨ vget s.pwr.xtGate x = some 0 ∨ s.pwr.lfrcLost = true →
        exec (.crystalStable x now mv) s = .next s) ∧
      (150 ≤ mv → vget s.pwr.judge x + 2048 ≤ now → vget s.pwr.xtGate x ≠ some 0 → s.pwr.lfrcLost = false →
        other = (x == 1 && s.pwr.nextAt == now) → ∃ t, exec (.crystalStable x now mv) s = .next t ∧ t.flag (xtStable x) = true ∧
        t.get (xtAmp x) = mv % 65536 ∧ t.within s [.regs, .pwr] ∧
        (s.flag Fd.KPR_CLKMON_STAT_wait = false → t.pwr = s.pwr ∧
          (s.get Fd.CLK_SRC_STAT_ref = 2 ∧ s.pwr.tripAt = none ∧ (x = 0 ∨ s.pwr.xtTimeout = true) →
            t.get Fd.CLK_SRC_STAT_ref = x ∧ (x = 1 → t.flag Fd.CLK_SRC_STAT_xt_fallback = true)) ∧
          (¬(s.get Fd.CLK_SRC_STAT_ref = 2 ∧ s.pwr.tripAt = none ∧ (x = 0 ∨ s.pwr.xtTimeout = true)) →
            t.get Fd.CLK_SRC_STAT_ref = s.get Fd.CLK_SRC_STAT_ref)) ∧
        (s.flag Fd.KPR_CLKMON_STAT_wait = true → t.get Fd.CLK_SRC_STAT_ref = s.get Fd.CLK_SRC_STAT_ref ∧
          t.pwr = if s.pwr.next = none ∨ other = true then { s.pwr with next := some x, nextAt := now } else s.pwr)) ∧
      (150 ≤ mv ∨ s.get Fd.CLK_SRC_STAT_ref = x → exec (.crystalLost x now mv) s = .next s) ∧
      (mv < 150 → s.get Fd.CLK_SRC_STAT_ref ≠ x → ∃ t, exec (.crystalLost x now mv) s = .next t ∧ t.flag (xtStable x) = false ∧
        t.get (xtAmp x) = mv ∧ vget t.pwr.judge x = now + (vget s.pwr.xtGate x).getD 0 ∧ t.pwr.next ≠ some x ∧
        (s.flag (xtStable x) = true → t.faultCounted s 14) ∧ t.within s [.regs, .hmp, .pwr])) ∧
    (∀ now : Nat,
      (now < s.pwr.kStart + 8000 ∨ s.flag Fd.CLK_SRC_STAT_xt0_stable = true ∨ s.get Fd.CLK_SRC_STAT_ref ≠ 2 →
        exec (.xt0StartTimeout now) s = .next s) ∧
      (s.pwr.kStart + 8000 ≤ now → s.flag Fd.CLK_SRC_STAT_xt0_stable = false → s.get Fd.CLK_SRC_STAT_ref = 2 →
        ∃ t, exec (.xt0StartTimeout now) s = .next t ∧ t.pwr = { s.pwr with xtTimeout := true } ∧ t.within s [.regs, .pwr] ∧
          (s.flag Fd.CLK_SRC_STAT_xt1_stable = true → s.pwr.tripAt = none →
            t.get Fd.CLK_SRC_STAT_ref = 1 ∧ t.flag Fd.CLK_SRC_STAT_xt_fallback = true) ∧
          (s.flag Fd.CLK_SRC_STAT_xt1_stable = false ∨ s.pwr.tripAt ≠ none → t.regs = s.regs))) ∧
    (∀ (p : Fin 3) (locks : Fin 3 → Fld), locks 0 = Fd.CLK_SRC_STAT_pll0_lock → locks 1 = Fd.CLK_SRC_STAT_pll1_lock → locks 2 = Fd.CLK_SRC_STAT_pll2_lock →
      (s.get Fd.CLK_SRC_STAT_ref = 2 ∨ s.pwr.stopped = true ∨ s.get Fd.CLK_PSTATE_state = 2 → exec (.pllLock p) s = .next s) ∧
      (s.get Fd.CLK_SRC_STAT_ref ≠ 2 → s.pwr.stopped = false → s.get Fd.CLK_PSTATE_state ≠ 2 → ∃ t, exec (.pllLock p) s = .next t ∧
        t.flag (locks p) = true ∧ (∀ q, q ≠ p → t.flag (locks q) = s.flag (locks q)) ∧
        t.flag Fd.CLK_MUX_STAT_eng_on_pll = (p == 0 || s.flag Fd.CLK_MUX_STAT_eng_on_pll) ∧
        t.flag Fd.CLK_MUX_STAT_sup_on_pll = (p == 0 || s.flag Fd.CLK_MUX_STAT_sup_on_pll) ∧
        t.withinRegs s [Reg.CLK_SRC_STAT, Reg.CLK_MUX_STAT] ∧ t.within s [.regs]))

/-- R418 to R422, R424, R40: a trip of the clock monitor stops the engine clock: the outputs are safe, every domain is in reset, and the trip and its
cause are shown. The third failed attempt of an episode locks the module out, which is a Halt. 320 periods after the trip it restarts from XT1 where
that is judged stable, otherwise it waits for a crystal; a slow frame without a trip ends the episode. The loss of LFRC holds the safe state. -/
def Obligations.ClockLossStopsAndRestarts : Prop :=
  ∀ s : State,
    (∀ (cause : Fin 9) (now n : Nat), n = (if s.pwr.attempt = true then min 3 (s.get Fd.KPR_CLKMON_STAT_attempts + 1) else s.get Fd.KPR_CLKMON_STAT_attempts) →
      (s.tripPossible cause = false ∨ s.flag Fd.KPR_CLKMON_STAT_lockout = true → exec (.clockMonitorTrip cause now) s = .next s) ∧
      (s.tripPossible cause = true → s.flag Fd.KPR_CLKMON_STAT_lockout = false → ∃ t, exec (.clockMonitorTrip cause now) s = .next t ∧
        t.outputsSafe ∧ t.allReset s 2 ∧ t.pwr.stopped = true ∧ t.pwr.tripAt = some now ∧ t.pwr.attempt = false ∧ t.pwr.episode = true ∧
        t.pwr.startDone = false ∧ t.get Fd.KPR_CLKMON_STAT_trips = (s.get Fd.KPR_CLKMON_STAT_trips + 1) % 65536 ∧
        t.get Fd.KPR_CLKMON_STAT_last_cause = cause ∧ t.get Fd.KPR_CLKMON_STAT_attempts = n ∧ t.flag Fd.CLK_SRC_STAT_pll0_lock = false ∧
        t.flag Fd.CLK_SRC_STAT_pll1_lock = false ∧ t.flag Fd.CLK_SRC_STAT_pll2_lock = false ∧ t.rd Reg.CLK_MUX_STAT = 0 ∧
        (n = 3 → t.flag Fd.KPR_CLKMON_STAT_lockout = true ∧ t.flag (Fd.FLT_STAT_halt 14) = true ∧ t.flt.halt ≠ .none) ∧
        (n ≠ 3 → t.flag Fd.KPR_CLKMON_STAT_lockout = false ∧ t.flt.halt = s.flt.halt ∧
          t.flag Fd.KPR_CLKMON_STAT_wait = (s.pwr.attempt || s.get Fd.CLK_SRC_STAT_ref == 1 || s.flag Fd.KPR_CLKMON_STAT_wait)) ∧
        t.within s resetParts)) ∧
    (∀ now gap : Nat, s.pwr.tripAt = none → exec (.clockRestart now gap) s = .next s) ∧
    (∀ now gap trip : Nat, s.pwr.tripAt = some trip →
      (s.flag Fd.KPR_CLKMON_STAT_lockout = true ∨ s.pwr.lfrcLost = true ∨ gap < now - trip → exec (.clockRestart now gap) s = .next s) ∧
      (s.flag Fd.KPR_CLKMON_STAT_lockout = false → s.pwr.lfrcLost = false → now - trip ≤ gap →
        (s.flag Fd.KPR_CLKMON_STAT_wait = true →
          (s.pwr.next = none ∨ now < s.pwr.nextAt → exec (.clockRestart now gap) s = .next s) ∧
          (∀ x, s.pwr.next = some x → s.pwr.nextAt ≤ now → ∃ t, exec (.clockRestart now gap) s = .next t ∧ t.clockStarted s x gap)) ∧
        (s.flag Fd.KPR_CLKMON_STAT_wait = false →
          (now < trip + 320 → exec (.clockRestart now gap) s = .next s) ∧
          (trip + 320 ≤ now → s.flag Fd.CLK_SRC_STAT_xt1_stable = true → ∃ t, exec (.clockRestart now gap) s = .next t ∧ t.clockStarted s 1 gap) ∧
          (trip + 320 ≤ now → s.flag Fd.CLK_SRC_STAT_xt1_stable = false → ∃ t, exec (.clockRestart now gap) s = .next t ∧
            t.flag Fd.KPR_CLKMON_STAT_wait = true ∧ t.flag Fd.CLK_SRC_STAT_xt0_stable = false ∧ t.flag Fd.CLK_SRC_STAT_xt1_stable = false ∧
            (∀ x, vget t.pwr.judge x = max trip (vget s.pwr.judge x)) ∧ t.pwr.stopped = s.pwr.stopped ∧ t.within s [.regs, .pwr])))) ∧
    (s.pwr.cleanFrom = none ∨ s.slowStart = false ∨ s.pwr.episode = false ∨ s.pwr.startDone = false → exec .episodeEnd s = .next s) ∧
    (∀ c, s.pwr.cleanFrom = some c → (s.time.frame / 262144 ≤ c → exec .episodeEnd s = .next s) ∧
      (s.slowStart = true → s.pwr.episode = true → s.pwr.startDone = true → c < s.time.frame / 262144 → ∃ t, exec .episodeEnd s = .next t ∧
        t.pwr = { s.pwr with episode := false, cleanFrom := none } ∧ t.get Fd.KPR_CLKMON_STAT_attempts = 0 ∧
        t.withinRegs s [Reg.KPR_CLKMON_STAT] ∧ t.within s [.regs, .pwr])) ∧
    (∃ t, exec .lfrcLoss s = .next t ∧ t.outputsSafe ∧ t.pwr = { s.pwr with lfrcLost := true } ∧ t.within s [.regs, .flt, .pwr, .pins])

/-- R269, R427, R428: a tone on a chain port is accepted, and counted with its port, unless three in 600 s have begun the limit: then one is accepted
600 s after the last accepted one, and others are counted as rejected, until 600 s pass without a tone. An enabled source wakes the module from DEEP
SLEEP, which restarts as at power-on. -/
def Obligations.WakesAreLimitedAndRestart : Prop :=
  ∀ s : State,
    (∀ (port : Fin 6) (now : Nat) (ok : Bool), ok = (!s.flag Fd.KPR_CHWAKE_STAT_limiting || (s.pwr.wakes.head?.all fun w => decide (w + 19200000 ≤ now))) →
      (s.flag Fd.KPR_CHWAKE_CTRL_wake_en = false → exec (.chainTone port now) s = .next { s with pwr := { s.pwr with lastTone := some now } }) ∧
      (s.flag Fd.KPR_CHWAKE_CTRL_wake_en = true → ok = false → ∃ t, exec (.chainTone port now) s = .next t ∧
        t.pwr = { s.pwr with lastTone := some now } ∧ t.get Fd.KPR_CHWAKE_STAT_rejected = (s.get Fd.KPR_CHWAKE_STAT_rejected + 1) % 256 ∧
        t.get Fd.KPR_CHWAKE_STAT_accepted = s.get Fd.KPR_CHWAKE_STAT_accepted ∧ t.withinRegs s [Reg.KPR_CHWAKE_STAT] ∧ t.within s [.regs, .pwr]) ∧
      (s.flag Fd.KPR_CHWAKE_CTRL_wake_en = true → ok = true → ∃ t, exec (.chainTone port now) s = .next t ∧
        t.pwr = { s.pwr with lastTone := some now, wakes := (now :: s.pwr.wakes).take 3, wakeDue := s.get Fd.CLK_PSTATE_state == 2 } ∧
        t.get Fd.KPR_CHWAKE_STAT_accepted = (s.get Fd.KPR_CHWAKE_STAT_accepted + 1) % 256 ∧ t.get Fd.KPR_CHWAKE_STAT_port = port ∧
        t.flag Fd.KPR_CHWAKE_STAT_host_wake = true ∧ t.pins = { s.pins with hostWake := !s.pins.testMode } ∧
        (∀ a b rest, s.pwr.wakes = a :: b :: rest →
          t.flag Fd.KPR_CHWAKE_STAT_limiting = (s.flag Fd.KPR_CHWAKE_STAT_limiting || decide (now < b + 19200000))) ∧
        (s.pwr.wakes.length < 2 → t.flag Fd.KPR_CHWAKE_STAT_limiting = s.flag Fd.KPR_CHWAKE_STAT_limiting) ∧
        t.withinRegs s [Reg.KPR_CHWAKE_STAT] ∧ t.within s [.regs, .pwr, .pins])) ∧
    (∀ now : Nat, (s.pwr.lastTone = none → exec (.limitingExit now) s = .next s) ∧
      ∀ tone, s.pwr.lastTone = some tone → (now < tone + 19200000 → exec (.limitingExit now) s = .next s) ∧
        (tone + 19200000 ≤ now → ∃ t, exec (.limitingExit now) s = .next t ∧ t.flag Fd.KPR_CHWAKE_STAT_limiting = false ∧
          t.withinRegs s [Reg.KPR_CHWAKE_STAT] ∧ t.within s [.regs])) ∧
    (∀ (src : Fin 8) (now gap : Nat),
      (s.get Fd.CLK_PSTATE_state ≠ 2 ∨ s.wakeEnabled src gap = false ∨ s.pwr.failAt ≠ none ∨ s.pwr.lfrcLost = true →
        exec (.deepSleepWake src now gap) s = .next s) ∧
      (s.get Fd.CLK_PSTATE_state = 2 → s.wakeEnabled src gap = true → s.pwr.failAt = none → s.pwr.lfrcLost = false →
        ∃ t, exec (.deepSleepWake src now gap) s = .next t ∧ t.restarted s 4 gap ∧ t.pwr.kStart = now ∧
          t.get Fd.KPR_WAKE_STAT_wakes = (s.get Fd.KPR_WAKE_STAT_wakes + 1) % 256 ∧ t.get Fd.KPR_WAKE_STAT_cause = src ∧ t.faultCounted s 14 ∧
          (src = 1 ∨ src = 5 ∨ src = 6 ∨ src = 7 → t.flag Fd.KPR_CHWAKE_STAT_host_wake = true ∧ t.pins.hostWake = !s.pins.testMode)))

/-- R12, R429, R430, R300, R465: the brown-out warning is set below 10.2 V with a Note, and clears at 10.5 V. A supply outside 9.5 V to 14.0 V, or a
rail outside its window, stops the module with its outputs safe; at 10.8 V for 320 periods it restarts with a Degrade-class fault and the hold-up time
it took. Where the hold-up ends, or at power-on, everything is at its power-on value but the Keeper store and the flash; power-on samples SLOT_ID and
TEST_MODE. -/
def Obligations.SuppliesWarnFailAndReturn : Prop :=
  ∀ s : State,
    (∀ mv : Nat,
      ((10200 ≤ mv ∧ s.pwr.supplyInj = none) ∨ s.flag Fd.KPR_SUPPLY_STAT_bow = true → exec (.brownOutWarning mv) s = .next s) ∧
      (mv < 10200 ∨ s.pwr.supplyInj ≠ none → s.flag Fd.KPR_SUPPLY_STAT_bow = false → ∃ t, exec (.brownOutWarning mv) s = .next t ∧
        t.flag Fd.KPR_SUPPLY_STAT_bow = true ∧ t.flag Fd.KPR_SUPPLY_STAT_bow_seen = true ∧
        t.get Fd.KPR_SUPPLY_CNT_bow_count = (s.get Fd.KPR_SUPPLY_CNT_bow_count + 1) % 65536 ∧ t.get Fd.KPR_SUPPLY_STAT_aux_mv = mv % 65536 ∧
        t.faultCounted s 14 ∧ t.within s [.regs, .hmp]) ∧
      (mv < 10500 → exec (.brownOutRelease mv) s = .next s) ∧
      (10500 ≤ mv → ∃ t, exec (.brownOutRelease mv) s = .next t ∧ t.flag Fd.KPR_SUPPLY_STAT_bow = false ∧ t.get Fd.KPR_SUPPLY_STAT_aux_mv = mv % 65536 ∧
        t.pwr = { s.pwr with supplyInj := if s.pwr.supplyInj = some 0 then none else s.pwr.supplyInj } ∧
        t.withinRegs s [Reg.KPR_SUPPLY_STAT] ∧ t.within s [.regs, .pwr])) ∧
    (∀ (mv : Nat) (rail : Bool) (now : Nat),
      ((9500 ≤ mv ∧ mv ≤ 14000 ∧ rail = false ∧ s.pwr.supplyInj ≠ some 1) ∨ s.pwr.failAt ≠ none → exec (.powerFail mv rail now) s = .next s) ∧
      (mv < 9500 ∨ 14000 < mv ∨ rail = true ∨ s.pwr.supplyInj = some 1 → s.pwr.failAt = none → ∃ t, exec (.powerFail mv rail now) s = .next t ∧
        t.outputsSafe ∧ t.pwr = { s.pwr with stopped := true, failAt := some now, startDone := false, sleepReq := none, supplyInj := none } ∧
        t.get Fd.KPR_SUPPLY_STAT_aux_mv = mv % 65536 ∧ t.within s [.regs, .flt, .pwr, .pins])) ∧
    (∀ mv now gap : Nat, s.pwr.failAt = none → exec (.supplyRecovery mv now gap) s = .next s) ∧
    (∀ mv now gap f : Nat, s.pwr.failAt = some f →
      (mv < 10800 ∨ now < f + 320 ∨ s.pwr.lfrcLost = true → exec (.supplyRecovery mv now gap) s = .next s) ∧
      (10800 ≤ mv → f + 320 ≤ now → s.pwr.lfrcLost = false → ∃ t, exec (.supplyRecovery mv now gap) s = .next t ∧ t.restarted s 3 gap ∧
        t.flag Fd.KPR_SUPPLY_STAT_pf_seen = true ∧ t.get Fd.KPR_SUPPLY_CNT_pf_count = (s.get Fd.KPR_SUPPLY_CNT_pf_count + 1) % 65536 ∧
        t.get Fd.KPR_HOLDUP_last_ms = min 65535 ((now - f) * 5 / 16) ∧ t.get (Fd.FLT_STAT_count 14) = (s.get (Fd.FLT_STAT_count 14) + 2) % 65536)) ∧
    (s.pwr.failAt = none → exec .holdupExpiry s = .next s) ∧
    (s.pwr.failAt ≠ none → ∃ t, exec .holdupExpiry s = .next t ∧ t.storeKept s ∧ t.pwr.stopped = true ∧ t.pwr.failAt = none ∧ t.time = State.reset.time ∧
      t.mgp = State.reset.mgp ∧ t.pins = State.reset.pins ∧ t.flt = State.reset.flt ∧ t.pending = s.pending ∧ t.free = s.free) ∧
    (∀ (slot : Fin 4) (test : Bool), ∃ t, exec (.powerOnReset slot test) s = .next t ∧ t.storeKept s ∧ t.get Fd.LKS_STAT_slot_id = slot ∧
      t.pins = { State.reset.pins with testMode := test } ∧ t.time = State.reset.time ∧ t.pwr = State.reset.pwr ∧ t.mgp = State.reset.mgp ∧
      t.lks = { State.reset.lks with history := s.lks.history } ∧ t.get Fd.CLK_SRC_STAT_ref = 2 ∧
      t.get Fd.KPR_CLKMON_STAT_last_cause = (if s.pwr.lfrcLost = true then 9 else 0) ∧ t.pending = s.pending ∧ t.free = s.free)

/-- R431 to R433, R20: a comparator trips once, where its channel is present: the under-voltage of an armed zone releases PGOOD and drives THROTTLE_N,
with a Degrade-class fault; an over-voltage fences its zone, and an over-current its string with both stages, each with a Fence-class fault. A loss of
the array's rail or clock ends every pass and switches every core off that is not fenced; the array restarts at L0. -/
def Obligations.ComparatorsAndArrayRailTrip : Prop :=
  ∀ s : State,
    (∀ z : Fin 4,
      (s.cmpAbsent z = true ∨ s.flag (Fd.KPR_CMP_ZONE_armed z) = false ∨ s.flag (Fd.KPR_CMP_ZONE_uv_trip z) = true → exec (.zoneUvTrip z) s = .next s) ∧
      (s.cmpAbsent z = false → s.flag (Fd.KPR_CMP_ZONE_armed z) = true → s.flag (Fd.KPR_CMP_ZONE_uv_trip z) = false → ∃ t,
        exec (.zoneUvTrip z) s = .next t ∧ t.flag (Fd.KPR_CMP_ZONE_uv_trip z) = true ∧ t.flag (Fd.KPR_CMP_ZONE_uv_seen z) = true ∧
        vget t.pins.pgood z = false ∧ t.flag (Fd.WGL_PGOOD_level z) = false ∧ t.linesShown ∧ t.faultCounted s 14 ∧ t.within s [.regs, .hmp, .flt, .pins]) ∧
      (s.cmpAbsent z = true ∨ s.flag (Fd.KPR_CMP_ZONE_ov_trip z) = true → exec (.zoneOvTrip z) s = .next s) ∧
      (s.cmpAbsent z = false → s.flag (Fd.KPR_CMP_ZONE_ov_trip z) = false → ∃ t, exec (.zoneOvTrip z) s = .next t ∧
        t.flag (Fd.KPR_CMP_ZONE_ov_trip z) = true ∧ t.flag (Fd.KPR_CMP_ZONE_ov_seen z) = true ∧ vget t.pins.pgood z = false ∧
        t.zoneFenced z = true ∧ (∀ w, w ≠ z → t.zoneFenced w = s.zoneFenced w) ∧ t.flag (Fd.LPE_RAMP_STAT_running z) = false ∧ t.faultCounted s 14 ∧
        t.within s [.regs, .hmp, .zfb, .flt, .pins])) ∧
    (∀ i : Fin 3,
      (s.cmpAbsent (12 + i) = true ∨ s.flag (Fd.KPR_CMP_STR_oc_trip i) = true → exec (.stringOcTrip i) s = .next s) ∧
      (s.cmpAbsent (12 + i) = false → s.flag (Fd.KPR_CMP_STR_oc_trip i) = false → ∃ t, exec (.stringOcTrip i) s = .next t ∧
        t.flag (Fd.KPR_CMP_STR_oc_trip i) = true ∧ t.flag (Fd.KPR_CMP_STR_oc_seen i) = true ∧
        (∀ j : Fin 3, t.strFenced j = (decide (j = i) || s.strFenced j)) ∧
        (∀ j : Fin 6, vget t.zfb.ssFenced j = (decide (j.val / 2 = i.val) || vget s.zfb.ssFenced j)) ∧
        t.zfb = { s.zfb with strFenced := t.zfb.strFenced, ssFenced := t.zfb.ssFenced } ∧ t.faultCounted s 14 ∧ t.within s [.regs, .hmp, .zfb, .flt])) ∧
    (∀ z : Fin 4,
      (∃ t, exec (.comparatorRelease ⟨z.val, by omega⟩) s = .next t ∧ t.flag (Fd.KPR_CMP_ZONE_uv_trip z) = false ∧ t.linesShown ∧
        t.withinRegs s (Reg.KPR_CMP_ZONE z :: thrRegs) ∧ t.within s [.regs, .pins]) ∧
      ∃ t, exec (.comparatorRelease ⟨4 + z.val, by omega⟩) s = .next t ∧ t.flag (Fd.KPR_CMP_ZONE_ov_trip z) = false ∧
        t.withinRegs s [Reg.KPR_CMP_ZONE z] ∧ t.within s [.regs]) ∧
    (∀ i : Fin 3, ∃ t, exec (.comparatorRelease ⟨8 + i.val, by omega⟩) s = .next t ∧ t.flag (Fd.KPR_CMP_STR_oc_trip i) = false ∧
      t.withinRegs s [Reg.KPR_CMP_STR i] ∧ t.within s [.regs]) ∧
    (∀ (rail : Bool) (f : Fld), f = (if rail = true then Fd.CLK_ADN_LOSS_rail_losses else Fd.CLK_ADN_LOSS_pll1_losses) →
      ∃ t, exec (.arrayClockLoss rail) s = .next t ∧ t.get f = (s.get f + 1) % 65536 ∧ t.get Fd.CLK_ADN_LEVEL_present = 0 ∧
        t.flag Fd.CLK_ADN_DROOP_active = false ∧ t.get Fd.CLK_ADN_SEQ_rail_mv = 600 ∧
        (∀ k : Fin 48, t.coreState k = if s.coreState k = 6 then 6 else 0) ∧ (∀ r ∈ t.arr.results, r.stale = true) ∧
        (s.computeDown = true → (∀ i, (t.slot i).spoilt = true ∧ (t.slot i).done = false) ∧ t.faultCounted s 15) ∧ t.within s [.regs, .hmp, .arr, .flt])

/-! ## Recovery (chapter 16) and start configuration (chapter 18) -/

/-- R452, R438: the domains that were asked for go into reset at the first forecast-frame boundary after the request took effect, for 512 frames, and
then are released one per frame in the order MEMORY, LOOP, LINKS, COMPUTE, after a restart once PLL0 and PLL2 are locked. The release of COMPUTE
begins its boot. A fenced port returns when its slow frames have run. -/
def Obligations.ResetsAreAssertedAndReleasedInOrder : Prop :=
  ∀ s : State,
    (s.fcStart = false ∨ s.time.frame ≤ s.flt.rstAt ∨ (∀ d, vget s.flt.rstReq d = false) ∨ s.pwr.stopped = true → exec .resetAssert s = .next s) ∧
    (s.fcStart = true → s.flt.rstAt < s.time.frame → (∃ d, vget s.flt.rstReq d = true) → s.pwr.stopped = false →
      ∃ t, exec .resetAssert s = .next t ∧ (∀ d, t.inReset d = (s.inReset d || vget s.flt.rstReq d)) ∧ (∀ d, vget t.flt.rstReq d = false) ∧
        t.flt.rstLeft = 512 ∧ (vget s.flt.rstReq 0 = true → t.get Fd.KPR_RST_STAT_cause_loop = 5 ∧ t.pins.valid = false) ∧
        (vget s.flt.rstReq 1 = true → t.get Fd.KPR_RST_STAT_cause_compute = 5 ∧ t.sec.running = false) ∧
        (vget s.flt.rstReq 2 = true → t.get Fd.KPR_RST_STAT_cause_links = 5 ∧ t.mgp.sessions = [] ∧ t.mgp.sem = none) ∧
        (vget s.flt.rstReq 3 = true → t.get Fd.KPR_RST_STAT_cause_mem = 5 ∧ ∀ r ∈ t.arr.results, r.stale = true) ∧
        t.sec.keys = s.sec.keys ∧ t.sec.banks = s.sec.banks ∧ t.within s resetParts) ∧
    (s.flt.rstLeft ≠ 0 ∨ s.pwr.stopped = true ∨ s.flt.relAt = some s.time.frame ∨ s.nextRelease = none ∨ (s.pwr.lockWait = true ∧
        (s.flag Fd.CLK_SRC_STAT_pll0_lock = false ∨ s.flag Fd.CLK_SRC_STAT_pll2_lock = false)) → exec .resetRelease s = .next s) ∧
    (s.flt.halt = .none → s.nextRelease = (if s.inReset 3 = true then some 3 else if s.inReset 0 = true then some 0 else if s.inReset 2 = true then some 2
      else if s.inReset 1 = true then some 1 else none)) ∧
    (∀ d, s.nextRelease = some d → s.flt.rstLeft = 0 → s.pwr.stopped = false → s.flt.relAt ≠ some s.time.frame →
      (s.pwr.lockWait = false ∨ (s.flag Fd.CLK_SRC_STAT_pll0_lock = true ∧ s.flag Fd.CLK_SRC_STAT_pll2_lock = true)) →
      ∃ t, exec .resetRelease s = .next t ∧ t.inReset d = false ∧ (∀ e, e ≠ d → t.inReset e = s.inReset e) ∧ t.flt.relAt = some s.time.frame ∧
        (t.nextRelease = none → t.pwr.lockWait = false) ∧ (d = 3 → t.within s [.regs, .flt, .pwr]) ∧
        (d = 1 → t.flag Fd.LKS_WDOG_STAT_booting = true ∧ t.get Fd.LKS_WDOG_STAT_missing = 0 ∧ t.flt.bootLeft = 9766 ∧
          t.flt.halt = (if s.flt.halt = .computeReset then .starting else s.flt.halt) ∧ t.within s [.regs, .hmp, .arr, .flt, .pwr]) ∧
        (d = 0 ∨ d = 2 → (s.lks.partnerValid = true → t.get Fd.LKS_STAT_role = 3 ∧ t.lks = { s.lks with join := .joining } ∧ t.cfg = s.cfg) ∧
          (s.lks.partnerValid = false → t.cfg.gate = true ∧ t.cfg.restored = false ∧ t.cfg.fromRecord = (!s.flt.imageIntact) ∧ t.cfg.queue = [] ∧
            (s.flt.imageIntact = false → t.faultCounted s 0)) ∧ t.within s [.regs, .hmp, .lks, .flt, .pwr, .cfg])) ∧
    (∀ p : Fin 3, (vget s.flt.portFence p ≠ 1 → exec (.portFenceReturn p) s = .next s) ∧
      (vget s.flt.portFence p = 1 → ∃ t, exec (.portFenceReturn p) s = .next t ∧ vget t.flt.portFence p = 0 ∧
        (∀ q, q ≠ p → vget t.flt.portFence q = vget s.flt.portFence q) ∧ t = { s with flt := { s.flt with portFence := t.flt.portFence } }))

/-- R450, R457 to R463: at a forecast-frame boundary the beats of the forecast frame are counted, and LKS_WDOG_STAT shows the cores that have missed
too many. The watchdog then takes a dump and a COMPUTE reset follows its end; its third action in a row is a Halt. An access that no block answers is
recorded with its address. A dump stands in its slot with its time and its markers, and what waits for it follows. A halted module whose firmware does
not report in 10 s stays without one. -/
def Obligations.HangsAreMetAndDumpsTaken : Prop :=
  ∀ s : State,
    (∀ checks : Bool, checks = (s.fcStart && !s.computeDown && !s.inReset 2 && s.flt.hbAt != some s.time.frame) →
      (checks = false → exec .heartbeatCheck s = .next s) ∧
      (checks = true → ∃ t, exec .heartbeatCheck s = .next t ∧ t.flt.hbAt = some s.time.frame ∧ t.withinRegs s [Reg.LKS_WDOG_STAT] ∧
        t.within s [.regs, .flt] ∧
        (s.flag Fd.LKS_WDOG_STAT_booting = true → t.regs = s.regs ∧ t.flt.bootLeft = s.flt.bootLeft - 1 ∧ t.flt.missed = s.flt.missed) ∧
        (s.flag Fd.LKS_WDOG_STAT_booting = false → ∀ c : Fin 4, vget t.flt.beats c = false ∧
          vget t.flt.missed c = (if s.hbExpected c = true ∧ vget s.flt.beats c = false then vget s.flt.missed c + 1 else 0) ∧
          bit (t.get Fd.LKS_WDOG_STAT_missing) c = (s.hbExpected c && decide (s.get Fd.LKS_WDOG_CTRL_hb_miss ≤ vget t.flt.missed c))))) ∧
    (∀ acts : Bool, acts = (s.watchdogDue && !s.computeDown && !s.inReset 2 && s.flt.afterDump == .nothing && s.flt.halt == .none) →
      (acts = false → exec .watchdogAction s = .next s) ∧
      (acts = true → ∃ t, exec .watchdogAction s = .next t ∧ t.flt.wdCount = s.flt.wdCount + 1 ∧ t.faultCounted s 0 ∧
        (s.flt.dumpTrig = none → s.inReset 3 = false → t.flt.dumpTrig = some 1 ∧ t.flag Fd.LKS_DUMP_STAT_busy = true) ∧
        (s.flt.wdCount < 2 → t.flt.afterDump = .computeReset ∧ t.flt.halt = .none ∧ t.within s [.regs, .hmp, .flt]) ∧
        (2 ≤ s.flt.wdCount → t.flt.afterDump = .halt ∧ t.flt.halt = .dump ∧ t.flag (Fd.FLT_STAT_halt 0) = true ∧ t.outputsSafe ∧
          t.within s [.regs, .hmp, .flt, .pins]))) ∧
    (∀ (b : Fin 18) (addr : Word) (wr : Bool) (master : Fin 256), ∃ t, exec (.busTimeout b addr wr master) s = .next t ∧ t.faultCounted s b ∧
      vget t.flt.noAnswer b = vget s.flt.noAnswer b - 1 ∧ t.within s [.regs, .hmp, .flt] ∧
      2 ≤ t.get (Fd.FLT_STAT_own_pend b) ∧ (s.flag (Fd.FLT_CFG_mode b) = false → s.flag (Fd.FLT_FIRST_INFO_valid b) = false →
        t.rd (Reg.FLT_FIRST_ADDR b) = addr ∧ t.get (Fd.FLT_FIRST_INFO_code b) = 1 ∧ t.get (Fd.FLT_FIRST_INFO_access b) = if wr = true then 2 else 1)) ∧
    (∀ markers : List (Nat × Nat), s.flt.dumpTrig = none → exec (.dumpComplete markers) s = .next s) ∧
    (∀ (markers : List (Nat × Nat)) (trig : Nat) (k : Fin 4), s.flt.dumpTrig = some trig → k.val = s.get Fd.LKS_DUMP_STAT_dumps % 4 →
      ∃ t d, exec (.dumpComplete markers) s = .next t ∧ vget t.flt.dumps k = some d ∧ (∀ j, j ≠ k → vget t.flt.dumps j = vget s.flt.dumps j) ∧
        d.num = s.get Fd.LKS_DUMP_STAT_dumps ∧ d.trigger = trig ∧ (d.frame, d.time) = s.flt.dumpAt ∧ d.baseline = s.baseline ∧ d.markers = markers ∧
        d.regs = s.regs ∧ t.flt.dumpTrig = none ∧ t.flag Fd.LKS_DUMP_STAT_busy = false ∧
        t.get Fd.LKS_DUMP_STAT_dumps = (s.get Fd.LKS_DUMP_STAT_dumps + 1) % 65536 ∧ t.get Fd.LKS_DUMP_STAT_last = k ∧
        t.get Fd.LKS_DUMP_STAT_timeouts = min 255 (markers.filter fun m => m.2 != 0xFFFFFFFF).length ∧
        (s.flt.afterDump = .nothing → t.within s [.regs, .flt]) ∧
        (s.flt.afterDump = .computeReset → t.inReset 1 = true ∧ t.flt.rstLeft = 512 ∧ t.get Fd.KPR_RST_STAT_cause_compute = 6 ∧
          t.get Fd.LKS_WDOG_STAT_wd_resets = (s.get Fd.LKS_WDOG_STAT_wd_resets + 1) % 65536 ∧ t.within s [.regs, .arr, .flt, .sec]) ∧
        (s.flt.afterDump = .halt → t.inReset 0 = true ∧ t.inReset 1 = true ∧ t.flt.rstLeft = 512 ∧ t.flt.halt = .computeReset ∧
          t.get Fd.KPR_RST_STAT_cause_loop = 8 ∧ t.within s resetParts)) ∧
    (s.flt.halt ≠ .starting ∨ s.time.frame < s.flt.haltFrame + 2500000 → exec .haltedServiceTimeout s = .next s) ∧
    (s.flt.halt = .starting → s.flt.haltFrame + 2500000 ≤ s.time.frame → exec .haltedServiceTimeout s = .next { s with flt := { s.flt with halt := .dead } })

/-- R453, R494, R495: a restore is due at start-up on the claimant, and after a reset of LOOP or LINKS without a partner. With a record of another
major baseline there is nothing to apply; otherwise its writes wait, and none of them enables a loop. The start order then makes the saved bindings
batch by batch, enables L4, then L5 and L6, and then the zone loops that were enabled, each step once the one before has ended. -/
def Obligations.SavedStateReturnsInOrder : Prop :=
  ∀ s : State,
    (s.restoreDue = false → exec .configRestore s = .next s) ∧
    (s.restoreDue = true →
      (s.cfg.fromRecord = true → s.usableRecord = none →
        exec .configRestore s = .next { s with cfg := { s.cfg with restored := true, gate := false, step := .done } }) ∧
      (∀ src : Regs, ((s.cfg.fromRecord = true ∧ ∃ c, s.usableRecord = some c ∧ c.words = src) ∨ (s.cfg.fromRecord = false ∧ s.flt.configImage = src)) →
        ∃ t, exec .configRestore s = .next t ∧ t.within s [.regs, .arr, .cfg] ∧ (s.cfg.fromRecord = false → t.regs = s.regs ∧ t.arr = s.arr) ∧
          (∀ k : Fin 16, vget t.cfg.zones k = getBits (src.get (Reg.ZFB_OS k)) 20 3) ∧
          (∀ l : Fin 7, vget t.cfg.enables l = (getBits (src.get (Reg.LPE_LOOP_CTRL l)) 0 1 == 1)) ∧
          (∀ w ∈ t.cfg.queue, ∀ l : Fin 7, w.addr = Reg.LPE_LOOP_CTRL l → w.mask &&& 1 = 0) ∧
          (∀ w ∈ t.cfg.queue, s.cfg.fromRecord = false → pairReg w.addr = true) ∧
          t.cfg.restored = false ∧ t.cfg.gate = s.cfg.gate)) ∧
    (s.lks.claimant = false ∨ s.stepRuns = true ∨ s.cfg.step = .none ∨ s.cfg.step = .done → exec .autostartStep s = .next s) ∧
    (s.lks.claimant = true → s.stepRuns = false → ∀ slotted : PairWrite → PairWrite,
      (∀ w, slotted w = { w with slot := s.get Fd.LKS_STAT_slot_id % 2 }) →
      (∀ (b : Nat) (ks : List (Fin 16)), s.cfg.step = .bind b → ks = (s.savedStages.drop (b * s.batchSize)).take s.batchSize →
        (ks ≠ [] → exec .autostartStep s = .next ({ s with wq := s.wq ++
          ((ks.map fun k : Fin 16 => slotted (fieldWrite (Fd.ZFB_OS_next_zone k) (vget s.cfg.zones k))) ++ [slotted (fieldWrite Fd.ZFB_COMB_CTRL_go 1)]) }.atStep
          (.bind (b + 1)))) ∧
        (ks = [] → exec .autostartStep s =
          .next ({ s with wq := s.wq ++ [slotted (fieldWrite (Fd.LPE_LOOP_CTRL_enable 4) 1)] }.atStep .link))) ∧
      (s.cfg.step = .link → exec .autostartStep s = .next ({ s with wq := s.wq ++
        [slotted (fieldWrite (Fd.LPE_LOOP_CTRL_enable 5) 1), slotted (fieldWrite (Fd.LPE_LOOP_CTRL_enable 6) 1)] }.atStep .grid)) ∧
      (s.cfg.step = .grid → ∀ ls, ls = ((List.finRange 7).filter fun l => decide (l.val < 4) && vget s.cfg.enables l) →
        exec .autostartStep s = .next ({ s with wq := s.wq ++ ls.map fun l : Fin 7 => slotted (fieldWrite (Fd.LPE_LOOP_CTRL_enable l) 1) }.atStep .zones)) ∧
      (s.cfg.step = .zones → exec .autostartStep s = .next (s.atStep .done)))
end

