-- ==== Sys2Proof/Laws/Regs.lean ====
section
/-! SUPPORT. Laws of the register file: a read after a write, and the canonical form that every operation keeps. -/

namespace Sys2Proof.Machine

/-! Reads after writes. -/

theorem Regs.find_ins_same (l : Regs) (a : Nat) (w : Word) : (l.ins a w).find a = some w := by
  induction l with
  | nil => simp [Regs.ins, Regs.find]
  | cons p t ih =>
    obtain ⟨b, v⟩ := p
    simp only [Regs.ins]
    split
    · simp [Regs.find]
    · split
      · simp [Regs.find]
      · next h => simp [Regs.find, h, ih]

theorem Regs.find_ins_other (l : Regs) (a b : Nat) (w : Word) (h : b ≠ a) : (l.ins a w).find b = l.find b := by
  induction l with
  | nil => simp [Regs.ins, Regs.find, h]
  | cons p t ih =>
    obtain ⟨c, v⟩ := p
    simp only [Regs.ins]
    split
    · simp [Regs.find, h]
    · split
      · next e => subst e; simp [Regs.find, h]
      · simp [Regs.find, ih]

theorem Regs.find_del_same (l : Regs) (a : Nat) : (l.del a).find a = none := by
  induction l with
  | nil => rfl
  | cons p t ih =>
    obtain ⟨b, v⟩ := p
    by_cases h : b = a
    · subst h; simpa [Regs.del] using ih
    · have h' : ¬ a = b := fun e => h e.symm
      simpa [Regs.del, Regs.find, h, h'] using ih

theorem Regs.find_del_other (l : Regs) (a b : Nat) (h : b ≠ a) : (l.del a).find b = l.find b := by
  induction l with
  | nil => rfl
  | cons p t ih =>
    obtain ⟨c, v⟩ := p
    by_cases e : c = a
    · subst e; simpa [Regs.del, Regs.find, h] using ih
    · by_cases hb : b = c
      · subst hb; simp [Regs.del, Regs.find, e]
      · simpa [Regs.del, Regs.find, e, hb] using ih

/-- A register reads as what was stored in it. -/
@[simp] theorem Regs.get_set_same (l : Regs) (a : Nat) (w : Word) : (l.set a w).get a = w := by
  by_cases h : w = resetWord a
  · simp [Regs.set, Regs.get, h, Regs.find_del_same]
  · simp [Regs.set, Regs.get, h, Regs.find_ins_same]

/-- A store leaves every other register as it was. -/
theorem Regs.get_set_other (l : Regs) (a b : Nat) (w : Word) (h : b ≠ a) : (l.set a w).get b = l.get b := by
  by_cases e : w = resetWord a
  · simp [Regs.set, Regs.get, e, Regs.find_del_other l a b h]
  · simp [Regs.set, Regs.get, e, Regs.find_ins_other l a b w h]

@[simp] theorem Regs.get_nil (a : Nat) : Regs.get [] a = resetWord a := rfl

/-! The canonical form. -/

/-- The canonical form, said of the list as a whole. -/
theorem Regs.wf_iff (l : Regs) :
    l.wf = true ↔ l.Pairwise (fun p q => p.1 < q.1) ∧ ∀ p ∈ l, p.2 ≠ resetWord p.1 := by
  induction l with
  | nil => simp [Regs.wf]
  | cons p t ih =>
    cases t with
    | nil => simp [Regs.wf]
    | cons q t =>
      obtain ⟨a, w⟩ := p
      obtain ⟨b, v⟩ := q
      simp only [Regs.wf, Bool.and_eq_true, decide_eq_true_eq, ih]
      constructor
      · rintro ⟨⟨h1, h2⟩, h3, h4⟩
        refine ⟨List.pairwise_cons.2 ⟨?_, h3⟩, ?_⟩
        · intro x hx
          rcases List.mem_cons.1 hx with rfl | hx
          · exact h2
          · exact Nat.lt_trans h2 ((List.pairwise_cons.1 h3).1 x hx)
        · intro x hx
          rcases List.mem_cons.1 hx with rfl | hx
          · exact h1
          · exact h4 x hx
      · rintro ⟨h1, h2⟩
        have h := List.pairwise_cons.1 h1
        exact ⟨⟨h2 _ (List.mem_cons_self ..), h.1 _ (List.mem_cons_self ..)⟩, h.2, fun x hx => h2 x (List.mem_cons_of_mem _ hx)⟩

theorem Regs.mem_ins (l : Regs) (a : Nat) (w : Word) : ∀ p ∈ l.ins a w, p = (a, w) ∨ p ∈ l := by
  induction l with
  | nil => simp [Regs.ins]
  | cons q t ih =>
    obtain ⟨b, v⟩ := q
    intro p hp
    simp only [Regs.ins] at hp
    split at hp
    · simpa using hp
    · split at hp
      · rcases List.mem_cons.1 hp with h | h
        · exact .inl h
        · exact .inr (List.mem_cons_of_mem _ h)
      · rcases List.mem_cons.1 hp with h | h
        · exact .inr (h ▸ List.mem_cons_self ..)
        · rcases ih p h with h | h
          · exact .inl h
          · exact .inr (List.mem_cons_of_mem _ h)

theorem Regs.sorted_ins (l : Regs) (a : Nat) (w : Word) (h : l.Pairwise fun p q => p.1 < q.1) :
    (l.ins a w).Pairwise fun p q => p.1 < q.1 := by
  induction l with
  | nil => simp [Regs.ins]
  | cons q t ih =>
    obtain ⟨b, v⟩ := q
    have hc := List.pairwise_cons.1 h
    simp only [Regs.ins]
    split
    · next hlt =>
      refine List.pairwise_cons.2 ⟨fun x hx => ?_, h⟩
      rcases List.mem_cons.1 hx with rfl | hx
      · exact hlt
      · exact Nat.lt_trans hlt (hc.1 x hx)
    · next hlt =>
      split
      · next e => subst e; exact List.pairwise_cons.2 ⟨hc.1, hc.2⟩
      · next e =>
        refine List.pairwise_cons.2 ⟨fun x hx => ?_, ih hc.2⟩
        rcases Regs.mem_ins t a w x hx with rfl | hx
        · show b < a; omega
        · exact hc.1 x hx

/-- A store keeps the canonical form. -/
theorem Regs.wf_set (l : Regs) (a : Nat) (w : Word) (h : l.wf = true) : (l.set a w).wf = true := by
  rw [Regs.wf_iff] at h ⊢
  unfold Regs.set
  split
  · exact ⟨h.1.filter _, fun p hp => h.2 p (List.mem_filter.1 hp).1⟩
  · next hw =>
    refine ⟨Regs.sorted_ins l a w h.1, fun p hp => ?_⟩
    rcases Regs.mem_ins l a w p hp with rfl | hp
    · exact hw
    · exact h.2 p hp

theorem Regs.mem_resetBlocks (d : List Nat) (l : Regs) :
    ∀ p ∈ l.resetBlocks d, p.2 ≠ resetWord p.1 ∧ ∃ q ∈ l, q.1 = p.1 := by
  induction l with
  | nil => simp [Regs.resetBlocks]
  | cons q t ih =>
    obtain ⟨a, w⟩ := q
    intro p hp
    have tail : p ∈ Regs.resetBlocks d t → p.2 ≠ resetWord p.1 ∧ ∃ q ∈ (a, w) :: t, q.1 = p.1 := fun h =>
      let ⟨h1, q, hq, e⟩ := ih p h
      ⟨h1, q, List.mem_cons_of_mem _ hq, e⟩
    simp only [Regs.resetBlocks] at hp
    generalize (if d.any (fun b => blockOf a == some b) then keptWord a w else w) = w' at hp
    split at hp
    · exact tail hp
    · next hw =>
      rcases List.mem_cons.1 hp with rfl | hp
      · exact ⟨hw, (a, w), List.mem_cons_self .., rfl⟩
      · exact tail hp

/-- A reset of blocks keeps the canonical form. -/
theorem Regs.wf_resetBlocks (d : List Nat) (l : Regs) (h : l.wf = true) : (l.resetBlocks d).wf = true := by
  rw [Regs.wf_iff] at h ⊢
  refine ⟨?_, fun p hp => (Regs.mem_resetBlocks d l p hp).1⟩
  replace h := h.1
  induction l with
  | nil => simp [Regs.resetBlocks]
  | cons q t ih =>
    obtain ⟨a, w⟩ := q
    have hc := List.pairwise_cons.1 h
    simp only [Regs.resetBlocks]
    generalize (if d.any (fun b => blockOf a == some b) then keptWord a w else w) = w'
    split
    · exact ih hc.2
    · refine List.pairwise_cons.2 ⟨fun x hx => ?_, ih hc.2⟩
      obtain ⟨_, y, hy, e⟩ := Regs.mem_resetBlocks d t x hx
      rw [← e]; exact hc.1 y hy

/-! Bit fields. -/

/-- The number of a word with a field replaced. -/
theorem toNat_putBits (w : Word) (lo len v : Nat) (h : lo + len ≤ 32) :
    (putBits w lo len v).toNat = w.toNat / 2 ^ (lo + len) * 2 ^ (lo + len) + v % 2 ^ len * 2 ^ lo + w.toNat % 2 ^ lo
      ∧ v % 2 ^ len * 2 ^ lo + w.toNat % 2 ^ lo < 2 ^ (lo + len) := by
  have hw := w.isLt
  have hlo : (0:Nat) < 2 ^ lo := Nat.two_pow_pos _
  have hln : (0:Nat) < 2 ^ len := Nat.two_pow_pos _
  have e : (2:Nat) ^ (lo + len) = 2 ^ lo * 2 ^ len := Nat.pow_add ..
  have h32 : (2:Nat) ^ 32 = 2 ^ lo * 2 ^ len * 2 ^ (32 - (lo + len)) := by
    rw [← e, ← Nat.pow_add]; congr 1; omega
  have hv := Nat.mod_lt v hln
  have hr := Nat.mod_lt w.toNat hlo
  have h2 : (v % 2 ^ len + 1) * 2 ^ lo ≤ 2 ^ len * 2 ^ lo := Nat.mul_le_mul_right _ hv
  have h3 : 2 ^ len * 2 ^ lo = 2 ^ lo * 2 ^ len := Nat.mul_comm ..
  rw [Nat.add_mul] at h2
  refine ⟨?_, by rw [e]; omega⟩
  unfold putBits
  rw [BitVec.toNat_ofNat, e]
  apply Nat.mod_eq_of_lt
  have hq : w.toNat / (2 ^ lo * 2 ^ len) < 2 ^ (32 - (lo + len)) := by
    apply Nat.div_lt_of_lt_mul; rw [← h32]; exact hw
  have h1 : (w.toNat / (2 ^ lo * 2 ^ len) + 1) * (2 ^ lo * 2 ^ len) ≤ 2 ^ (32 - (lo + len)) * (2 ^ lo * 2 ^ len) :=
    Nat.mul_le_mul_right _ hq
  rw [h32]
  rw [Nat.add_mul] at h1
  rw [Nat.mul_comm (2 ^ lo * 2 ^ len) (2 ^ (32 - (lo + len)))]
  omega

/-- A field reads as the low bits of what was put in it. -/
theorem getBits_putBits_same (w : Word) (lo len v : Nat) (h : lo + len ≤ 32) :
    getBits (putBits w lo len v) lo len = v % 2 ^ len := by
  have hlo : (0:Nat) < 2 ^ lo := Nat.two_pow_pos _
  have e : (2:Nat) ^ (lo + len) = 2 ^ lo * 2 ^ len := Nat.pow_add ..
  have hr := Nat.mod_lt w.toNat hlo
  unfold getBits
  rw [(toNat_putBits w lo len v h).1, e]
  have e1 : w.toNat / (2 ^ lo * 2 ^ len) * (2 ^ lo * 2 ^ len) + v % 2 ^ len * 2 ^ lo + w.toNat % 2 ^ lo
      = w.toNat % 2 ^ lo + 2 ^ lo * (w.toNat / (2 ^ lo * 2 ^ len) * 2 ^ len + v % 2 ^ len) := by
    rw [Nat.mul_add, Nat.mul_comm (2 ^ lo) (w.toNat / (2 ^ lo * 2 ^ len) * 2 ^ len), Nat.mul_assoc, Nat.mul_comm (2 ^ len) (2 ^ lo),
      Nat.mul_comm (2 ^ lo) (v % 2 ^ len)]
    omega
  rw [e1, Nat.add_mul_div_left _ _ hlo, Nat.div_eq_of_lt hr, Nat.zero_add, Nat.mul_comm _ (2 ^ len), Nat.mul_add_mod, Nat.mod_mod]

/-- Every other field of the word reads as before. -/
theorem getBits_putBits_other (w : Word) (lo len v lo' len' : Nat) (h : lo + len ≤ 32) (d : lo' + len' ≤ lo ∨ lo + len ≤ lo') :
    getBits (putBits w lo len v) lo' len' = getBits w lo' len' := by
  have hb := toNat_putBits w lo len v h
  unfold getBits
  rcases d with d | d
  · have e : (2:Nat) ^ lo = 2 ^ lo' * 2 ^ len' * 2 ^ (lo - (lo' + len')) := by
      rw [← Nat.pow_add, ← Nat.pow_add]; congr 1; omega
    have e2 : (2:Nat) ^ (lo + len) = 2 ^ lo * 2 ^ len := Nat.pow_add ..
    have hm : (putBits w lo len v).toNat % 2 ^ lo = w.toNat % 2 ^ lo := by
      rw [hb.1, e2]
      have : w.toNat / (2 ^ lo * 2 ^ len) * (2 ^ lo * 2 ^ len) + v % 2 ^ len * 2 ^ lo + w.toNat % 2 ^ lo
        = 2 ^ lo * (w.toNat / (2 ^ lo * 2 ^ len) * 2 ^ len + v % 2 ^ len) + w.toNat % 2 ^ lo := by
        rw [Nat.mul_add, Nat.mul_comm (2 ^ lo) (w.toNat / (2 ^ lo * 2 ^ len) * 2 ^ len), Nat.mul_assoc, Nat.mul_comm (2 ^ len) (2 ^ lo),
          Nat.mul_comm (2 ^ lo) (v % 2 ^ len)]
      rw [this, Nat.mul_add_mod, Nat.mod_mod]
    rw [← Nat.mod_mul_right_div_self, ← Nat.mod_mul_right_div_self]
    congr 1
    have k (x : Nat) : x % (2 ^ lo' * 2 ^ len') = x % 2 ^ lo % (2 ^ lo' * 2 ^ len') := by
      rw [e, Nat.mod_mul_right_mod]
    rw [k, hm, ← k]
  · have e : (2:Nat) ^ lo' = 2 ^ (lo + len) * 2 ^ (lo' - (lo + len)) := by
      rw [← Nat.pow_add]; congr 1; omega
    have hp : (0:Nat) < 2 ^ (lo + len) := Nat.two_pow_pos _
    rw [e, ← Nat.div_div_eq_div_mul, ← Nat.div_div_eq_div_mul]
    congr 2
    rw [hb.1, Nat.add_assoc, Nat.mul_comm, Nat.mul_add_div hp, Nat.div_eq_of_lt hb.2, Nat.add_zero]

end Sys2Proof.Machine
end

