-- ==== Sys2Proof/Laws/State.lean ====
section
/-! SUPPORT. The small laws of the state: what each named operation leaves of every field, and how registers and fields read after a write. With them no
proof unfolds a record update. -/

namespace Sys2Proof.Machine

variable (s : State)

/-! Registers after a write. -/

@[simp] theorem State.rd_wr_same (a : Nat) (w : Word) : (s.wr a w).rd a = w := Regs.get_set_same ..
theorem State.rd_wr_other (a b : Nat) (w : Word) (h : b ≠ a) : (s.wr a w).rd b = s.rd b := Regs.get_set_other _ _ _ _ h
theorem State.rd_wr (a b : Nat) (w : Word) : (s.wr a w).rd b = if b = a then w else s.rd b := by
  split
  · next h => subst h; simp
  · next h => exact s.rd_wr_other a b w h
theorem State.rd_put (f : Fld) (v b : Nat) : (s.put f v).rd b = if b = f.addr then putBits (s.rd f.addr) f.lo f.len v else s.rd b := s.rd_wr ..
theorem State.rd_setFlag (f : Fld) (c : Bool) (b : Nat) :
    (s.setFlag f c).rd b = if b = f.addr then putBits (s.rd f.addr) f.lo f.len (b2n c) else s.rd b := s.rd_put ..

/-! Fields after a write. -/

theorem State.get_wr_other (a : Nat) (w : Word) (g : Fld) (h : g.addr ≠ a) : (s.wr a w).get g = s.get g := by
  simp [State.get, s.rd_wr_other a g.addr w h]
theorem State.get_put_same (f : Fld) (v : Nat) (h : f.lo + f.len ≤ 32) : (s.put f v).get f = v % 2 ^ f.len := by
  simp [State.get, State.put, getBits_putBits_same _ _ _ _ h]
theorem State.get_put_reg (f g : Fld) (v : Nat) (h : g.addr ≠ f.addr) : (s.put f v).get g = s.get g := s.get_wr_other _ _ g h
theorem State.get_put_field (f g : Fld) (v : Nat) (h : f.lo + f.len ≤ 32) (d : g.lo + g.len ≤ f.lo ∨ f.lo + f.len ≤ g.lo) :
    (s.put f v).get g = s.get g := by
  by_cases e : g.addr = f.addr
  · simp [State.get, State.put, e, getBits_putBits_other _ _ _ _ _ _ h d]
  · exact s.get_put_reg f g v e
/-- Two fields that share no bit: another register, or other bits of the same one. -/
def Fld.apart (f g : Fld) : Prop := g.addr ≠ f.addr ∨ g.lo + g.len ≤ f.lo ∨ f.lo + f.len ≤ g.lo
theorem State.get_put_apart (f g : Fld) (v : Nat) (h : f.lo + f.len ≤ 32) (d : f.apart g) : (s.put f v).get g = s.get g := by
  rcases d with d | d
  · exact s.get_put_reg f g v d
  · exact s.get_put_field f g v h d
theorem State.flag_setFlag_same (f : Fld) (c : Bool) (h : f.lo + f.len ≤ 32) (h1 : f.len = 1) : (s.setFlag f c).flag f = c := by
  unfold State.flag State.setFlag
  rw [s.get_put_same f _ h, h1]
  cases c <;> rfl
theorem State.flag_put_apart (f g : Fld) (v : Nat) (h : f.lo + f.len ≤ 32) (d : f.apart g) : (s.put f v).flag g = s.flag g := by
  simp only [State.flag, s.get_put_apart f g v h d]
theorem State.flag_setFlag_apart (f g : Fld) (c : Bool) (h : f.lo + f.len ≤ 32) (d : f.apart g) : (s.setFlag f c).flag g = s.flag g :=
  s.flag_put_apart f g _ h d
theorem State.get_setFlag_apart (f g : Fld) (c : Bool) (h : f.lo + f.len ≤ 32) (d : f.apart g) : (s.setFlag f c).get g = s.get g :=
  s.get_put_apart f g _ h d
theorem State.get_bump_same (f : Fld) (h : f.lo + f.len ≤ 32) : (s.bump f).get f = (s.get f + 1) % 2 ^ f.len := s.get_put_same f _ h
theorem State.get_bump_apart (f g : Fld) (h : f.lo + f.len ≤ 32) (d : f.apart g) : (s.bump f).get g = s.get g := s.get_put_apart f g _ h d

/-! Reads of a state whose registers another state has. -/

@[simp] theorem State.rd_mk {time inp wq lpe hmp prf site zfb wgl lks link chn est arr flt mgp sec pwr cfg pins shadow free pending} (a : Nat) :
    State.rd (State.mk s.regs time inp wq lpe hmp prf site zfb wgl lks link chn est arr flt mgp sec pwr cfg pins shadow free pending) a = s.rd a := rfl
@[simp] theorem State.get_mk {time inp wq lpe hmp prf site zfb wgl lks link chn est arr flt mgp sec pwr cfg pins shadow free pending} (a : Fld) :
    State.get (State.mk s.regs time inp wq lpe hmp prf site zfb wgl lks link chn est arr flt mgp sec pwr cfg pins shadow free pending) a = s.get a := rfl
@[simp] theorem State.flag_mk {time inp wq lpe hmp prf site zfb wgl lks link chn est arr flt mgp sec pwr cfg pins shadow free pending} (a : Fld) :
    State.flag (State.mk s.regs time inp wq lpe hmp prf site zfb wgl lks link chn est arr flt mgp sec pwr cfg pins shadow free pending) a = s.flag a := rfl
@[simp] theorem State.getBF_mk {time inp wq lpe hmp prf site zfb wgl lks link chn est arr flt mgp sec pwr cfg pins shadow free pending} (a : Nat) :
    State.getBF (State.mk s.regs time inp wq lpe hmp prf site zfb wgl lks link chn est arr flt mgp sec pwr cfg pins shadow free pending) a = s.getBF a := rfl

/-! Fields that the operations on registers leave alone. -/

@[simp] theorem State.wr_time (a : Nat) (w : Word) : (s.wr a w).time = s.time := rfl
@[simp] theorem State.wr_inp (a : Nat) (w : Word) : (s.wr a w).inp = s.inp := rfl
@[simp] theorem State.wr_wq (a : Nat) (w : Word) : (s.wr a w).wq = s.wq := rfl
@[simp] theorem State.wr_lpe (a : Nat) (w : Word) : (s.wr a w).lpe = s.lpe := rfl
@[simp] theorem State.wr_hmp (a : Nat) (w : Word) : (s.wr a w).hmp = s.hmp := rfl
@[simp] theorem State.wr_prf (a : Nat) (w : Word) : (s.wr a w).prf = s.prf := rfl
@[simp] theorem State.wr_site (a : Nat) (w : Word) : (s.wr a w).site = s.site := rfl
@[simp] theorem State.wr_zfb (a : Nat) (w : Word) : (s.wr a w).zfb = s.zfb := rfl
@[simp] theorem State.wr_wgl (a : Nat) (w : Word) : (s.wr a w).wgl = s.wgl := rfl
@[simp] theorem State.wr_lks (a : Nat) (w : Word) : (s.wr a w).lks = s.lks := rfl
@[simp] theorem State.wr_link (a : Nat) (w : Word) : (s.wr a w).link = s.link := rfl
@[simp] theorem State.wr_chn (a : Nat) (w : Word) : (s.wr a w).chn = s.chn := rfl
@[simp] theorem State.wr_est (a : Nat) (w : Word) : (s.wr a w).est = s.est := rfl
@[simp] theorem State.wr_arr (a : Nat) (w : Word) : (s.wr a w).arr = s.arr := rfl
@[simp] theorem State.wr_flt (a : Nat) (w : Word) : (s.wr a w).flt = s.flt := rfl
@[simp] theorem State.wr_mgp (a : Nat) (w : Word) : (s.wr a w).mgp = s.mgp := rfl
@[simp] theorem State.wr_sec (a : Nat) (w : Word) : (s.wr a w).sec = s.sec := rfl
@[simp] theorem State.wr_pwr (a : Nat) (w : Word) : (s.wr a w).pwr = s.pwr := rfl
@[simp] theorem State.wr_cfg (a : Nat) (w : Word) : (s.wr a w).cfg = s.cfg := rfl
@[simp] theorem State.wr_pins (a : Nat) (w : Word) : (s.wr a w).pins = s.pins := rfl
@[simp] theorem State.wr_shadow (a : Nat) (w : Word) : (s.wr a w).shadow = s.shadow := rfl
@[simp] theorem State.wr_free (a : Nat) (w : Word) : (s.wr a w).free = s.free := rfl
@[simp] theorem State.wr_pending (a : Nat) (w : Word) : (s.wr a w).pending = s.pending := rfl
@[simp] theorem State.put_time (f : Fld) (v : Nat) : (s.put f v).time = s.time := rfl
@[simp] theorem State.put_inp (f : Fld) (v : Nat) : (s.put f v).inp = s.inp := rfl
@[simp] theorem State.put_wq (f : Fld) (v : Nat) : (s.put f v).wq = s.wq := rfl
@[simp] theorem State.put_lpe (f : Fld) (v : Nat) : (s.put f v).lpe = s.lpe := rfl
@[simp] theorem State.put_hmp (f : Fld) (v : Nat) : (s.put f v).hmp = s.hmp := rfl
@[simp] theorem State.put_prf (f : Fld) (v : Nat) : (s.put f v).prf = s.prf := rfl
@[simp] theorem State.put_site (f : Fld) (v : Nat) : (s.put f v).site = s.site := rfl
@[simp] theorem State.put_zfb (f : Fld) (v : Nat) : (s.put f v).zfb = s.zfb := rfl
@[simp] theorem State.put_wgl (f : Fld) (v : Nat) : (s.put f v).wgl = s.wgl := rfl
@[simp] theorem State.put_lks (f : Fld) (v : Nat) : (s.put f v).lks = s.lks := rfl
@[simp] theorem State.put_link (f : Fld) (v : Nat) : (s.put f v).link = s.link := rfl
@[simp] theorem State.put_chn (f : Fld) (v : Nat) : (s.put f v).chn = s.chn := rfl
@[simp] theorem State.put_est (f : Fld) (v : Nat) : (s.put f v).est = s.est := rfl
@[simp] theorem State.put_arr (f : Fld) (v : Nat) : (s.put f v).arr = s.arr := rfl
@[simp] theorem State.put_flt (f : Fld) (v : Nat) : (s.put f v).flt = s.flt := rfl
@[simp] theorem State.put_mgp (f : Fld) (v : Nat) : (s.put f v).mgp = s.mgp := rfl
@[simp] theorem State.put_sec (f : Fld) (v : Nat) : (s.put f v).sec = s.sec := rfl
@[simp] theorem State.put_pwr (f : Fld) (v : Nat) : (s.put f v).pwr = s.pwr := rfl
@[simp] theorem State.put_cfg (f : Fld) (v : Nat) : (s.put f v).cfg = s.cfg := rfl
@[simp] theorem State.put_pins (f : Fld) (v : Nat) : (s.put f v).pins = s.pins := rfl
@[simp] theorem State.put_shadow (f : Fld) (v : Nat) : (s.put f v).shadow = s.shadow := rfl
@[simp] theorem State.put_free (f : Fld) (v : Nat) : (s.put f v).free = s.free := rfl
@[simp] theorem State.put_pending (f : Fld) (v : Nat) : (s.put f v).pending = s.pending := rfl
@[simp] theorem State.setFlag_time (f : Fld) (b : Bool) : (s.setFlag f b).time = s.time := rfl
@[simp] theorem State.setFlag_inp (f : Fld) (b : Bool) : (s.setFlag f b).inp = s.inp := rfl
@[simp] theorem State.setFlag_wq (f : Fld) (b : Bool) : (s.setFlag f b).wq = s.wq := rfl
@[simp] theorem State.setFlag_lpe (f : Fld) (b : Bool) : (s.setFlag f b).lpe = s.lpe := rfl
@[simp] theorem State.setFlag_hmp (f : Fld) (b : Bool) : (s.setFlag f b).hmp = s.hmp := rfl
@[simp] theorem State.setFlag_prf (f : Fld) (b : Bool) : (s.setFlag f b).prf = s.prf := rfl
@[simp] theorem State.setFlag_site (f : Fld) (b : Bool) : (s.setFlag f b).site = s.site := rfl
@[simp] theorem State.setFlag_zfb (f : Fld) (b : Bool) : (s.setFlag f b).zfb = s.zfb := rfl
@[simp] theorem State.setFlag_wgl (f : Fld) (b : Bool) : (s.setFlag f b).wgl = s.wgl := rfl
@[simp] theorem State.setFlag_lks (f : Fld) (b : Bool) : (s.setFlag f b).lks = s.lks := rfl
@[simp] theorem State.setFlag_link (f : Fld) (b : Bool) : (s.setFlag f b).link = s.link := rfl
@[simp] theorem State.setFlag_chn (f : Fld) (b : Bool) : (s.setFlag f b).chn = s.chn := rfl
@[simp] theorem State.setFlag_est (f : Fld) (b : Bool) : (s.setFlag f b).est = s.est := rfl
@[simp] theorem State.setFlag_arr (f : Fld) (b : Bool) : (s.setFlag f b).arr = s.arr := rfl
@[simp] theorem State.setFlag_flt (f : Fld) (b : Bool) : (s.setFlag f b).flt = s.flt := rfl
@[simp] theorem State.setFlag_mgp (f : Fld) (b : Bool) : (s.setFlag f b).mgp = s.mgp := rfl
@[simp] theorem State.setFlag_sec (f : Fld) (b : Bool) : (s.setFlag f b).sec = s.sec := rfl
@[simp] theorem State.setFlag_pwr (f : Fld) (b : Bool) : (s.setFlag f b).pwr = s.pwr := rfl
@[simp] theorem State.setFlag_cfg (f : Fld) (b : Bool) : (s.setFlag f b).cfg = s.cfg := rfl
@[simp] theorem State.setFlag_pins (f : Fld) (b : Bool) : (s.setFlag f b).pins = s.pins := rfl
@[simp] theorem State.setFlag_shadow (f : Fld) (b : Bool) : (s.setFlag f b).shadow = s.shadow := rfl
@[simp] theorem State.setFlag_free (f : Fld) (b : Bool) : (s.setFlag f b).free = s.free := rfl
@[simp] theorem State.setFlag_pending (f : Fld) (b : Bool) : (s.setFlag f b).pending = s.pending := rfl
@[simp] theorem State.bump_time (f : Fld) : (s.bump f).time = s.time := by simp only [State.bump, State.put_time]
@[simp] theorem State.bump_inp (f : Fld) : (s.bump f).inp = s.inp := by simp only [State.bump, State.put_inp]
@[simp] theorem State.bump_wq (f : Fld) : (s.bump f).wq = s.wq := by simp only [State.bump, State.put_wq]
@[simp] theorem State.bump_lpe (f : Fld) : (s.bump f).lpe = s.lpe := by simp only [State.bump, State.put_lpe]
@[simp] theorem State.bump_hmp (f : Fld) : (s.bump f).hmp = s.hmp := by simp only [State.bump, State.put_hmp]
@[simp] theorem State.bump_prf (f : Fld) : (s.bump f).prf = s.prf := by simp only [State.bump, State.put_prf]
@[simp] theorem State.bump_site (f : Fld) : (s.bump f).site = s.site := by simp only [State.bump, State.put_site]
@[simp] theorem State.bump_zfb (f : Fld) : (s.bump f).zfb = s.zfb := by simp only [State.bump, State.put_zfb]
@[simp] theorem State.bump_wgl (f : Fld) : (s.bump f).wgl = s.wgl := by simp only [State.bump, State.put_wgl]
@[simp] theorem State.bump_lks (f : Fld) : (s.bump f).lks = s.lks := by simp only [State.bump, State.put_lks]
@[simp] theorem State.bump_link (f : Fld) : (s.bump f).link = s.link := by simp only [State.bump, State.put_link]
@[simp] theorem State.bump_chn (f : Fld) : (s.bump f).chn = s.chn := by simp only [State.bump, State.put_chn]
@[simp] theorem State.bump_est (f : Fld) : (s.bump f).est = s.est := by simp only [State.bump, State.put_est]
@[simp] theorem State.bump_arr (f : Fld) : (s.bump f).arr = s.arr := by simp only [State.bump, State.put_arr]
@[simp] theorem State.bump_flt (f : Fld) : (s.bump f).flt = s.flt := by simp only [State.bump, State.put_flt]
@[simp] theorem State.bump_mgp (f : Fld) : (s.bump f).mgp = s.mgp := by simp only [State.bump, State.put_mgp]
@[simp] theorem State.bump_sec (f : Fld) : (s.bump f).sec = s.sec := by simp only [State.bump, State.put_sec]
@[simp] theorem State.bump_pwr (f : Fld) : (s.bump f).pwr = s.pwr := by simp only [State.bump, State.put_pwr]
@[simp] theorem State.bump_cfg (f : Fld) : (s.bump f).cfg = s.cfg := by simp only [State.bump, State.put_cfg]
@[simp] theorem State.bump_pins (f : Fld) : (s.bump f).pins = s.pins := by simp only [State.bump, State.put_pins]
@[simp] theorem State.bump_shadow (f : Fld) : (s.bump f).shadow = s.shadow := by simp only [State.bump, State.put_shadow]
@[simp] theorem State.bump_free (f : Fld) : (s.bump f).free = s.free := by simp only [State.bump, State.put_free]
@[simp] theorem State.bump_pending (f : Fld) : (s.bump f).pending = s.pending := by simp only [State.bump, State.put_pending]
@[simp] theorem State.bumpSat_time (f : Fld) : (s.bumpSat f).time = s.time := by simp only [State.bumpSat, State.put_time]
@[simp] theorem State.bumpSat_inp (f : Fld) : (s.bumpSat f).inp = s.inp := by simp only [State.bumpSat, State.put_inp]
@[simp] theorem State.bumpSat_wq (f : Fld) : (s.bumpSat f).wq = s.wq := by simp only [State.bumpSat, State.put_wq]
@[simp] theorem State.bumpSat_lpe (f : Fld) : (s.bumpSat f).lpe = s.lpe := by simp only [State.bumpSat, State.put_lpe]
@[simp] theorem State.bumpSat_hmp (f : Fld) : (s.bumpSat f).hmp = s.hmp := by simp only [State.bumpSat, State.put_hmp]
@[simp] theorem State.bumpSat_prf (f : Fld) : (s.bumpSat f).prf = s.prf := by simp only [State.bumpSat, State.put_prf]
@[simp] theorem State.bumpSat_site (f : Fld) : (s.bumpSat f).site = s.site := by simp only [State.bumpSat, State.put_site]
@[simp] theorem State.bumpSat_zfb (f : Fld) : (s.bumpSat f).zfb = s.zfb := by simp only [State.bumpSat, State.put_zfb]
@[simp] theorem State.bumpSat_wgl (f : Fld) : (s.bumpSat f).wgl = s.wgl := by simp only [State.bumpSat, State.put_wgl]
@[simp] theorem State.bumpSat_lks (f : Fld) : (s.bumpSat f).lks = s.lks := by simp only [State.bumpSat, State.put_lks]
@[simp] theorem State.bumpSat_link (f : Fld) : (s.bumpSat f).link = s.link := by simp only [State.bumpSat, State.put_link]
@[simp] theorem State.bumpSat_chn (f : Fld) : (s.bumpSat f).chn = s.chn := by simp only [State.bumpSat, State.put_chn]
@[simp] theorem State.bumpSat_est (f : Fld) : (s.bumpSat f).est = s.est := by simp only [State.bumpSat, State.put_est]
@[simp] theorem State.bumpSat_arr (f : Fld) : (s.bumpSat f).arr = s.arr := by simp only [State.bumpSat, State.put_arr]
@[simp] theorem State.bumpSat_flt (f : Fld) : (s.bumpSat f).flt = s.flt := by simp only [State.bumpSat, State.put_flt]
@[simp] theorem State.bumpSat_mgp (f : Fld) : (s.bumpSat f).mgp = s.mgp := by simp only [State.bumpSat, State.put_mgp]
@[simp] theorem State.bumpSat_sec (f : Fld) : (s.bumpSat f).sec = s.sec := by simp only [State.bumpSat, State.put_sec]
@[simp] theorem State.bumpSat_pwr (f : Fld) : (s.bumpSat f).pwr = s.pwr := by simp only [State.bumpSat, State.put_pwr]
@[simp] theorem State.bumpSat_cfg (f : Fld) : (s.bumpSat f).cfg = s.cfg := by simp only [State.bumpSat, State.put_cfg]
@[simp] theorem State.bumpSat_pins (f : Fld) : (s.bumpSat f).pins = s.pins := by simp only [State.bumpSat, State.put_pins]
@[simp] theorem State.bumpSat_shadow (f : Fld) : (s.bumpSat f).shadow = s.shadow := by simp only [State.bumpSat, State.put_shadow]
@[simp] theorem State.bumpSat_free (f : Fld) : (s.bumpSat f).free = s.free := by simp only [State.bumpSat, State.put_free]
@[simp] theorem State.bumpSat_pending (f : Fld) : (s.bumpSat f).pending = s.pending := by simp only [State.bumpSat, State.put_pending]
@[simp] theorem State.putBF_time (a : Nat) (x : BF24) : (s.putBF a x).time = s.time := by rw [State.putBF, State.wr_time]
@[simp] theorem State.putBF_inp (a : Nat) (x : BF24) : (s.putBF a x).inp = s.inp := by rw [State.putBF, State.wr_inp]
@[simp] theorem State.putBF_wq (a : Nat) (x : BF24) : (s.putBF a x).wq = s.wq := by rw [State.putBF, State.wr_wq]
@[simp] theorem State.putBF_lpe (a : Nat) (x : BF24) : (s.putBF a x).lpe = s.lpe := by rw [State.putBF, State.wr_lpe]
@[simp] theorem State.putBF_hmp (a : Nat) (x : BF24) : (s.putBF a x).hmp = s.hmp := by rw [State.putBF, State.wr_hmp]
@[simp] theorem State.putBF_prf (a : Nat) (x : BF24) : (s.putBF a x).prf = s.prf := by rw [State.putBF, State.wr_prf]
@[simp] theorem State.putBF_site (a : Nat) (x : BF24) : (s.putBF a x).site = s.site := by rw [State.putBF, State.wr_site]
@[simp] theorem State.putBF_zfb (a : Nat) (x : BF24) : (s.putBF a x).zfb = s.zfb := by rw [State.putBF, State.wr_zfb]
@[simp] theorem State.putBF_wgl (a : Nat) (x : BF24) : (s.putBF a x).wgl = s.wgl := by rw [State.putBF, State.wr_wgl]
@[simp] theorem State.putBF_lks (a : Nat) (x : BF24) : (s.putBF a x).lks = s.lks := by rw [State.putBF, State.wr_lks]
@[simp] theorem State.putBF_link (a : Nat) (x : BF24) : (s.putBF a x).link = s.link := by rw [State.putBF, State.wr_link]
@[simp] theorem State.putBF_chn (a : Nat) (x : BF24) : (s.putBF a x).chn = s.chn := by rw [State.putBF, State.wr_chn]
@[simp] theorem State.putBF_est (a : Nat) (x : BF24) : (s.putBF a x).est = s.est := by rw [State.putBF, State.wr_est]
@[simp] theorem State.putBF_arr (a : Nat) (x : BF24) : (s.putBF a x).arr = s.arr := by rw [State.putBF, State.wr_arr]
@[simp] theorem State.putBF_flt (a : Nat) (x : BF24) : (s.putBF a x).flt = s.flt := by rw [State.putBF, State.wr_flt]
@[simp] theorem State.putBF_mgp (a : Nat) (x : BF24) : (s.putBF a x).mgp = s.mgp := by rw [State.putBF, State.wr_mgp]
@[simp] theorem State.putBF_sec (a : Nat) (x : BF24) : (s.putBF a x).sec = s.sec := by rw [State.putBF, State.wr_sec]
@[simp] theorem State.putBF_pwr (a : Nat) (x : BF24) : (s.putBF a x).pwr = s.pwr := by rw [State.putBF, State.wr_pwr]
@[simp] theorem State.putBF_cfg (a : Nat) (x : BF24) : (s.putBF a x).cfg = s.cfg := by rw [State.putBF, State.wr_cfg]
@[simp] theorem State.putBF_pins (a : Nat) (x : BF24) : (s.putBF a x).pins = s.pins := by rw [State.putBF, State.wr_pins]
@[simp] theorem State.putBF_shadow (a : Nat) (x : BF24) : (s.putBF a x).shadow = s.shadow := by rw [State.putBF, State.wr_shadow]
@[simp] theorem State.putBF_free (a : Nat) (x : BF24) : (s.putBF a x).free = s.free := by rw [State.putBF, State.wr_free]
@[simp] theorem State.putBF_pending (a : Nat) (x : BF24) : (s.putBF a x).pending = s.pending := by rw [State.putBF, State.wr_pending]
@[simp] theorem State.put64_time (lo hi v : Nat) : (s.put64 lo hi v).time = s.time := by rw [State.put64, State.wr_time, State.wr_time]
@[simp] theorem State.put64_inp (lo hi v : Nat) : (s.put64 lo hi v).inp = s.inp := by rw [State.put64, State.wr_inp, State.wr_inp]
@[simp] theorem State.put64_wq (lo hi v : Nat) : (s.put64 lo hi v).wq = s.wq := by rw [State.put64, State.wr_wq, State.wr_wq]
@[simp] theorem State.put64_lpe (lo hi v : Nat) : (s.put64 lo hi v).lpe = s.lpe := by rw [State.put64, State.wr_lpe, State.wr_lpe]
@[simp] theorem State.put64_hmp (lo hi v : Nat) : (s.put64 lo hi v).hmp = s.hmp := by rw [State.put64, State.wr_hmp, State.wr_hmp]
@[simp] theorem State.put64_prf (lo hi v : Nat) : (s.put64 lo hi v).prf = s.prf := by rw [State.put64, State.wr_prf, State.wr_prf]
@[simp] theorem State.put64_site (lo hi v : Nat) : (s.put64 lo hi v).site = s.site := by rw [State.put64, State.wr_site, State.wr_site]
@[simp] theorem State.put64_zfb (lo hi v : Nat) : (s.put64 lo hi v).zfb = s.zfb := by rw [State.put64, State.wr_zfb, State.wr_zfb]
@[simp] theorem State.put64_wgl (lo hi v : Nat) : (s.put64 lo hi v).wgl = s.wgl := by rw [State.put64, State.wr_wgl, State.wr_wgl]
@[simp] theorem State.put64_lks (lo hi v : Nat) : (s.put64 lo hi v).lks = s.lks := by rw [State.put64, State.wr_lks, State.wr_lks]
@[simp] theorem State.put64_link (lo hi v : Nat) : (s.put64 lo hi v).link = s.link := by rw [State.put64, State.wr_link, State.wr_link]
@[simp] theorem State.put64_chn (lo hi v : Nat) : (s.put64 lo hi v).chn = s.chn := by rw [State.put64, State.wr_chn, State.wr_chn]
@[simp] theorem State.put64_est (lo hi v : Nat) : (s.put64 lo hi v).est = s.est := by rw [State.put64, State.wr_est, State.wr_est]
@[simp] theorem State.put64_arr (lo hi v : Nat) : (s.put64 lo hi v).arr = s.arr := by rw [State.put64, State.wr_arr, State.wr_arr]
@[simp] theorem State.put64_flt (lo hi v : Nat) : (s.put64 lo hi v).flt = s.flt := by rw [State.put64, State.wr_flt, State.wr_flt]
@[simp] theorem State.put64_mgp (lo hi v : Nat) : (s.put64 lo hi v).mgp = s.mgp := by rw [State.put64, State.wr_mgp, State.wr_mgp]
@[simp] theorem State.put64_sec (lo hi v : Nat) : (s.put64 lo hi v).sec = s.sec := by rw [State.put64, State.wr_sec, State.wr_sec]
@[simp] theorem State.put64_pwr (lo hi v : Nat) : (s.put64 lo hi v).pwr = s.pwr := by rw [State.put64, State.wr_pwr, State.wr_pwr]
@[simp] theorem State.put64_cfg (lo hi v : Nat) : (s.put64 lo hi v).cfg = s.cfg := by rw [State.put64, State.wr_cfg, State.wr_cfg]
@[simp] theorem State.put64_pins (lo hi v : Nat) : (s.put64 lo hi v).pins = s.pins := by rw [State.put64, State.wr_pins, State.wr_pins]
@[simp] theorem State.put64_shadow (lo hi v : Nat) : (s.put64 lo hi v).shadow = s.shadow := by rw [State.put64, State.wr_shadow, State.wr_shadow]
@[simp] theorem State.put64_free (lo hi v : Nat) : (s.put64 lo hi v).free = s.free := by rw [State.put64, State.wr_free, State.wr_free]
@[simp] theorem State.put64_pending (lo hi v : Nat) : (s.put64 lo hi v).pending = s.pending := by rw [State.put64, State.wr_pending, State.wr_pending]
@[simp] theorem State.draw_regs : (s.draw).regs = s.regs := rfl
@[simp] theorem State.draw_time : (s.draw).time = s.time := rfl
@[simp] theorem State.draw_inp : (s.draw).inp = s.inp := rfl
@[simp] theorem State.draw_wq : (s.draw).wq = s.wq := rfl
@[simp] theorem State.draw_lpe : (s.draw).lpe = s.lpe := rfl
@[simp] theorem State.draw_hmp : (s.draw).hmp = s.hmp := rfl
@[simp] theorem State.draw_prf : (s.draw).prf = s.prf := rfl
@[simp] theorem State.draw_site : (s.draw).site = s.site := rfl
@[simp] theorem State.draw_zfb : (s.draw).zfb = s.zfb := rfl
@[simp] theorem State.draw_wgl : (s.draw).wgl = s.wgl := rfl
@[simp] theorem State.draw_lks : (s.draw).lks = s.lks := rfl
@[simp] theorem State.draw_link : (s.draw).link = s.link := rfl
@[simp] theorem State.draw_chn : (s.draw).chn = s.chn := rfl
@[simp] theorem State.draw_est : (s.draw).est = s.est := rfl
@[simp] theorem State.draw_arr : (s.draw).arr = s.arr := rfl
@[simp] theorem State.draw_flt : (s.draw).flt = s.flt := rfl
@[simp] theorem State.draw_mgp : (s.draw).mgp = s.mgp := rfl
@[simp] theorem State.draw_sec : (s.draw).sec = s.sec := rfl
@[simp] theorem State.draw_pwr : (s.draw).pwr = s.pwr := rfl
@[simp] theorem State.draw_cfg : (s.draw).cfg = s.cfg := rfl
@[simp] theorem State.draw_pins : (s.draw).pins = s.pins := rfl
@[simp] theorem State.draw_shadow : (s.draw).shadow = s.shadow := rfl
@[simp] theorem State.draw_pending : (s.draw).pending = s.pending := rfl
@[simp] theorem State.atCycle_regs (n : Nat) : (s.atCycle n).regs = s.regs := rfl
@[simp] theorem State.atCycle_inp (n : Nat) : (s.atCycle n).inp = s.inp := rfl
@[simp] theorem State.atCycle_wq (n : Nat) : (s.atCycle n).wq = s.wq := rfl
@[simp] theorem State.atCycle_lpe (n : Nat) : (s.atCycle n).lpe = s.lpe := rfl
@[simp] theorem State.atCycle_hmp (n : Nat) : (s.atCycle n).hmp = s.hmp := rfl
@[simp] theorem State.atCycle_prf (n : Nat) : (s.atCycle n).prf = s.prf := rfl
@[simp] theorem State.atCycle_site (n : Nat) : (s.atCycle n).site = s.site := rfl
@[simp] theorem State.atCycle_zfb (n : Nat) : (s.atCycle n).zfb = s.zfb := rfl
@[simp] theorem State.atCycle_wgl (n : Nat) : (s.atCycle n).wgl = s.wgl := rfl
@[simp] theorem State.atCycle_lks (n : Nat) : (s.atCycle n).lks = s.lks := rfl
@[simp] theorem State.atCycle_link (n : Nat) : (s.atCycle n).link = s.link := rfl
@[simp] theorem State.atCycle_chn (n : Nat) : (s.atCycle n).chn = s.chn := rfl
@[simp] theorem State.atCycle_est (n : Nat) : (s.atCycle n).est = s.est := rfl
@[simp] theorem State.atCycle_arr (n : Nat) : (s.atCycle n).arr = s.arr := rfl
@[simp] theorem State.atCycle_flt (n : Nat) : (s.atCycle n).flt = s.flt := rfl
@[simp] theorem State.atCycle_mgp (n : Nat) : (s.atCycle n).mgp = s.mgp := rfl
@[simp] theorem State.atCycle_sec (n : Nat) : (s.atCycle n).sec = s.sec := rfl
@[simp] theorem State.atCycle_pwr (n : Nat) : (s.atCycle n).pwr = s.pwr := rfl
@[simp] theorem State.atCycle_cfg (n : Nat) : (s.atCycle n).cfg = s.cfg := rfl
@[simp] theorem State.atCycle_pins (n : Nat) : (s.atCycle n).pins = s.pins := rfl
@[simp] theorem State.atCycle_shadow (n : Nat) : (s.atCycle n).shadow = s.shadow := rfl
@[simp] theorem State.atCycle_free (n : Nat) : (s.atCycle n).free = s.free := rfl
@[simp] theorem State.atCycle_pending (n : Nat) : (s.atCycle n).pending = s.pending := rfl
@[simp] theorem State.draw_free : s.draw.free = s.free + 1 := rfl
@[simp] theorem State.atCycle_cycle (n : Nat) : (s.atCycle n).time.cycle = n := rfl
@[simp] theorem State.atCycle_frame (n : Nat) : (s.atCycle n).time.frame = s.time.frame := rfl
@[simp] theorem State.atCycle_frameStart (n : Nat) : (s.atCycle n).time.frameStart = s.time.frameStart := rfl
@[simp] theorem State.atCycle_fcTime (n : Nat) : (s.atCycle n).time.fcTime = s.time.fcTime := rfl
@[simp] theorem State.atCycle_len (n : Nat) : (s.atCycle n).time.len = s.time.len := rfl
@[simp] theorem State.atCycle_nextLen (n : Nat) : (s.atCycle n).time.nextLen = s.time.nextLen := rfl
@[simp] theorem State.atCycle_lastEdge (n : Nat) : (s.atCycle n).time.lastEdge = s.time.lastEdge := rfl
@[simp] theorem State.atCycle_edgeThisFrame (n : Nat) : (s.atCycle n).time.edgeThisFrame = s.time.edgeThisFrame := rfl
@[simp] theorem State.atCycle_noEdgeFrames (n : Nat) : (s.atCycle n).time.noEdgeFrames = s.time.noEdgeFrames := rfl
@[simp] theorem State.atCycle_goodEdges (n : Nat) : (s.atCycle n).time.goodEdges = s.time.goodEdges := rfl
@[simp] theorem State.atCycle_edgeFrames (n : Nat) : (s.atCycle n).time.edgeFrames = s.time.edgeFrames := rfl
@[simp] theorem State.atCycle_restartAlign (n : Nat) : (s.atCycle n).time.restartAlign = s.time.restartAlign := rfl

end Sys2Proof.Machine
end

