-- ==== Sys2Proof/Laws/AdcK.lean ====
section
/-! SUPPORT. What the comparison of the converters leaves alone. -/

namespace Sys2Proof.Machine

/-- The parts of the state that are kept. -/
structure State.AdcKPart where
  time : TimeRt
  inp : InputRt
  wq : List PairWrite
  lpe : LpeRt
  hmp : HmpRt
  prf : PrfRt
  site : SiteRt
  zfb : ZfbRt
  wgl : WglRt
  link : LinkRt
  chn : ChnRt
  est : EstRt
  arr : ArrRt
  flt : FltRt
  mgp : MgpRt
  sec : SecRt
  pwr : PwrRt
  cfg : CfgRt
  pins : PinRt
  shadow : List (Nat × Nat × Word)
  free : Nat
  pending : List Instr

/-- Those parts of a state. -/
def State.partAdcK (s : State) : State.AdcKPart :=
  ⟨s.time, s.inp, s.wq, s.lpe, s.hmp, s.prf, s.site, s.zfb, s.wgl, s.link, s.chn, s.est, s.arr, s.flt, s.mgp, s.sec, s.pwr, s.cfg, s.pins, s.shadow, s.free, s.pending⟩

/-- Those parts are the ones given. -/
structure AdcK (u : State.AdcKPart) (s : State) : Prop where
  eq : s.partAdcK = u

variable {u : State.AdcKPart} {s : State}

theorem AdcK.upd {regs time inp wq lpe hmp prf site zfb wgl lks link chn est arr flt mgp sec pwr cfg pins shadow free pending} (h : AdcK u s) (h_regs : regs = s.regs) (h_time : time = s.time) (h_inp : inp = s.inp) (h_wq : wq = s.wq) (h_lpe : lpe = s.lpe) (h_hmp : hmp = s.hmp) (h_prf : prf = s.prf) (h_site : site = s.site) (h_zfb : zfb = s.zfb) (h_wgl : wgl = s.wgl) (h_link : link = s.link) (h_chn : chn = s.chn) (h_est : est = s.est) (h_arr : arr = s.arr) (h_flt : flt = s.flt) (h_mgp : mgp = s.mgp) (h_sec : sec = s.sec) (h_pwr : pwr = s.pwr) (h_cfg : cfg = s.cfg) (h_pins : pins = s.pins) (h_shadow : shadow = s.shadow) (h_free : free = s.free) (h_pending : pending = s.pending) :
    AdcK u (State.mk regs time inp wq lpe hmp prf site zfb wgl lks link chn est arr flt mgp sec pwr cfg pins shadow free pending) := by
  subst h_regs h_time h_inp h_wq h_lpe h_hmp h_prf h_site h_zfb h_wgl h_link h_chn h_est h_arr h_flt h_mgp h_sec h_pwr h_cfg h_pins h_shadow h_free h_pending
  exact ⟨h.eq⟩

theorem AdcK.rfl' (s : State) : AdcK s.partAdcK s := ⟨rfl⟩

/-- What a command answers keeps them. -/
def AdcKo (u : State.AdcKPart) (o : Host.Outcome State Fault Refusal) : Prop := ∀ t, o = Host.Outcome.next t → AdcK u t

theorem AdcKo.next (h : AdcK u s) : AdcKo u (Host.Outcome.next s) := fun t e => by cases e; exact h

theorem AdcK.ite {c : Prop} {_ : Decidable c} {a b : State} (ha : c → AdcK u a) (hb : ¬c → AdcK u b) : AdcK u (if c then a else b) := by
  split
  · exact ha ‹_›
  · exact hb ‹_›

theorem AdcK.dite {c : Prop} {_ : Decidable c} {a : c → State} {b : ¬c → State} (ha : ∀ h, AdcK u (a h)) (hb : ∀ h, AdcK u (b h)) :
    AdcK u (if h : c then a h else b h) := by
  split
  · exact ha _
  · exact hb _

theorem AdcK.iteP {α : Type} {c : Prop} {_ : Decidable c} {a b : State × α} (ha : c → AdcK u a.1) (hb : ¬c → AdcK u b.1) : AdcK u (if c then a else b).1 := by
  split
  · exact ha ‹_›
  · exact hb ‹_›

theorem AdcK.diteP {α : Type} {c : Prop} {_ : Decidable c} {a : c → State × α} {b : ¬c → State × α} (ha : ∀ h, AdcK u (a h).1) (hb : ∀ h, AdcK u (b h).1) :
    AdcK u (if h : c then a h else b h).1 := by
  split
  · exact ha _
  · exact hb _

theorem AdcK.foldl {α : Type} {l : List α} {f : State → α → State} (hf : ∀ t a, AdcK u t → AdcK u (f t a)) (h : AdcK u s) : AdcK u (l.foldl f s) := by
  induction l generalizing s with
  | nil => exact h
  | cons a l ih => exact ih (hf s a h)

theorem AdcK.each {n : Nat} {f : Nat → State → State} (hf : ∀ i t, AdcK u t → AdcK u (f i t)) (h : AdcK u s) : AdcK u (State.each n f s) :=
  AdcK.foldl (fun t a ht => hf a t ht) h

theorem AdcK.over {α : Type} {l : List α} {f : α → State → State} (hf : ∀ i t, AdcK u t → AdcK u (f i t)) (h : AdcK u s) : AdcK u (State.over l f s) :=
  AdcK.foldl (fun t a ht => hf a t ht) h

theorem AdcK.iff {c : Bool} {f : State → State} (hf : ∀ t, AdcK u t → AdcK u (f t)) (h : AdcK u s) : AdcK u (State.iff c f s) := by
  unfold State.iff
  split
  · exact hf s h
  · exact h

theorem AdcK.wr (h : AdcK u s) (a w) : AdcK u (s.wr a w) := ⟨h.eq⟩

theorem AdcK.time_eq (h : AdcK u s) : s.time = u.time := congrArg State.AdcKPart.time h.eq
theorem AdcK.inp_eq (h : AdcK u s) : s.inp = u.inp := congrArg State.AdcKPart.inp h.eq
theorem AdcK.wq_eq (h : AdcK u s) : s.wq = u.wq := congrArg State.AdcKPart.wq h.eq
theorem AdcK.lpe_eq (h : AdcK u s) : s.lpe = u.lpe := congrArg State.AdcKPart.lpe h.eq
theorem AdcK.hmp_eq (h : AdcK u s) : s.hmp = u.hmp := congrArg State.AdcKPart.hmp h.eq
theorem AdcK.prf_eq (h : AdcK u s) : s.prf = u.prf := congrArg State.AdcKPart.prf h.eq
theorem AdcK.site_eq (h : AdcK u s) : s.site = u.site := congrArg State.AdcKPart.site h.eq
theorem AdcK.zfb_eq (h : AdcK u s) : s.zfb = u.zfb := congrArg State.AdcKPart.zfb h.eq
theorem AdcK.wgl_eq (h : AdcK u s) : s.wgl = u.wgl := congrArg State.AdcKPart.wgl h.eq
theorem AdcK.link_eq (h : AdcK u s) : s.link = u.link := congrArg State.AdcKPart.link h.eq
theorem AdcK.chn_eq (h : AdcK u s) : s.chn = u.chn := congrArg State.AdcKPart.chn h.eq
theorem AdcK.est_eq (h : AdcK u s) : s.est = u.est := congrArg State.AdcKPart.est h.eq
theorem AdcK.arr_eq (h : AdcK u s) : s.arr = u.arr := congrArg State.AdcKPart.arr h.eq
theorem AdcK.flt_eq (h : AdcK u s) : s.flt = u.flt := congrArg State.AdcKPart.flt h.eq
theorem AdcK.mgp_eq (h : AdcK u s) : s.mgp = u.mgp := congrArg State.AdcKPart.mgp h.eq
theorem AdcK.sec_eq (h : AdcK u s) : s.sec = u.sec := congrArg State.AdcKPart.sec h.eq
theorem AdcK.pwr_eq (h : AdcK u s) : s.pwr = u.pwr := congrArg State.AdcKPart.pwr h.eq
theorem AdcK.cfg_eq (h : AdcK u s) : s.cfg = u.cfg := congrArg State.AdcKPart.cfg h.eq
theorem AdcK.pins_eq (h : AdcK u s) : s.pins = u.pins := congrArg State.AdcKPart.pins h.eq
theorem AdcK.shadow_eq (h : AdcK u s) : s.shadow = u.shadow := congrArg State.AdcKPart.shadow h.eq
theorem AdcK.free_eq (h : AdcK u s) : s.free = u.free := congrArg State.AdcKPart.free h.eq
theorem AdcK.pending_eq (h : AdcK u s) : s.pending = u.pending := congrArg State.AdcKPart.pending h.eq

theorem AdcK.put (h : AdcK u s) (a1 a2) : AdcK u (State.put s a1 a2) := by
  unfold State.put
  refine AdcK.wr ?_ ..
  exact h

theorem AdcK.adcClosed (h : AdcK u s) : AdcK u (State.adcClosed s) := by
  unfold State.adcClosed
  refine AdcK.upd ?_ rfl rfl rfl rfl rfl rfl rfl rfl rfl rfl rfl rfl rfl rfl rfl rfl rfl rfl rfl rfl rfl rfl rfl
  exact h

theorem AdcK.execAdcCheck_keeps (h : AdcK u s) : AdcKo u (execAdcCheck s) := by
  unfold execAdcCheck
  refine AdcKo.next ?_
  refine AdcK.ite (fun _ => ?_) (fun _ => ?_)
  · exact h
  · refine AdcK.put ?_ ..
    refine AdcK.adcClosed ?_ ..
    exact h

/-- What those functions may change, as a frame names it. -/
theorem AdcK.within {t : State} (h : AdcK s.partAdcK t) : t.within s [.regs, .lks]
  | .regs, hp => (hp (by decide)).elim
  | .time, _ => h.time_eq
  | .inp, _ => h.inp_eq
  | .wq, _ => h.wq_eq
  | .lpe, _ => h.lpe_eq
  | .hmp, _ => h.hmp_eq
  | .prf, _ => h.prf_eq
  | .site, _ => h.site_eq
  | .zfb, _ => h.zfb_eq
  | .wgl, _ => h.wgl_eq
  | .lks, hp => (hp (by decide)).elim
  | .link, _ => h.link_eq
  | .chn, _ => h.chn_eq
  | .est, _ => h.est_eq
  | .arr, _ => h.arr_eq
  | .flt, _ => h.flt_eq
  | .mgp, _ => h.mgp_eq
  | .sec, _ => h.sec_eq
  | .pwr, _ => h.pwr_eq
  | .cfg, _ => h.cfg_eq
  | .pins, _ => h.pins_eq
  | .shadow, _ => h.shadow_eq
  | .free, _ => h.free_eq
  | .pending, _ => h.pending_eq

end Sys2Proof.Machine
end

