-- ==== Sys2Proof/Laws/Aside.lean ====
section
/-! SUPPORT. What the record of a fault leaves alone (R436 to R446): all but the registers, Hamper's mark, the faults, the units that it takes out of
service, and the pins. -/

namespace Sys2Proof.Machine

/-- The parts of the state that a fault's record leaves alone. -/
structure State.Aside where
  time : TimeRt
  inp : InputRt
  wq : List PairWrite
  lpe : LpeRt
  prf : PrfRt
  site : SiteRt
  link : LinkRt
  chn : ChnRt
  est : EstRt
  arr : ArrRt
  mgp : MgpRt
  sec : SecRt
  pwr : PwrRt
  cfg : CfgRt
  shadow : List (Nat × Nat × Word)
  free : Nat
  pending : List Instr

/-- Those parts of a state. -/
def State.aside (s : State) : State.Aside :=
  ⟨s.time, s.inp, s.wq, s.lpe, s.prf, s.site, s.link, s.chn, s.est, s.arr, s.mgp, s.sec, s.pwr, s.cfg, s.shadow, s.free, s.pending⟩

/-- Those parts are the ones given. -/
structure Aside (u : State.Aside) (s : State) : Prop where
  eq : s.aside = u

variable {u : State.Aside} {s : State}

theorem Aside.upd {regs time inp wq lpe hmp prf site zfb wgl lks link chn est arr flt mgp sec pwr cfg pins shadow free pending} (h : Aside u s) (_ : regs = s.regs)
    (h_time : time = s.time) (h_inp : inp = s.inp) (h_wq : wq = s.wq) (h_lpe : lpe = s.lpe) (h_prf : prf = s.prf) (h_site : site = s.site) (h_link : link = s.link) (h_chn : chn = s.chn) (h_est : est = s.est) (h_arr : arr = s.arr) (h_mgp : mgp = s.mgp) (h_sec : sec = s.sec) (h_pwr : pwr = s.pwr) (h_cfg : cfg = s.cfg) (h_shadow : shadow = s.shadow) (h_free : free = s.free) (h_pending : pending = s.pending) :
    Aside u (State.mk regs time inp wq lpe hmp prf site zfb wgl lks link chn est arr flt mgp sec pwr cfg pins shadow free pending) := by
  subst h_time h_inp h_wq h_lpe h_prf h_site h_link h_chn h_est h_arr h_mgp h_sec h_pwr h_cfg h_shadow h_free h_pending
  exact ⟨h.eq⟩

theorem Aside.rfl' (s : State) : Aside s.aside s := ⟨rfl⟩

theorem Aside.ite {c : Prop} {_ : Decidable c} {a b : State} (ha : c → Aside u a) (hb : ¬c → Aside u b) : Aside u (if c then a else b) := by
  split
  · exact ha ‹_›
  · exact hb ‹_›

theorem Aside.dite {c : Prop} {_ : Decidable c} {a : c → State} {b : ¬c → State} (ha : ∀ h, Aside u (a h)) (hb : ∀ h, Aside u (b h)) :
    Aside u (if h : c then a h else b h) := by
  split
  · exact ha _
  · exact hb _

theorem Aside.foldl {α : Type} {l : List α} {f : State → α → State} (hf : ∀ t a, Aside u t → Aside u (f t a)) (h : Aside u s) : Aside u (l.foldl f s) := by
  induction l generalizing s with
  | nil => exact h
  | cons a l ih => exact ih (hf s a h)

theorem Aside.each {n : Nat} {f : Nat → State → State} (hf : ∀ i t, Aside u t → Aside u (f i t)) (h : Aside u s) : Aside u (State.each n f s) :=
  Aside.foldl (fun t a ht => hf a t ht) h

theorem Aside.wr (h : Aside u s) (a w) : Aside u (s.wr a w) := ⟨h.eq⟩

theorem Aside.time_eq (h : Aside u s) : s.time = u.time := congrArg State.Aside.time h.eq
theorem Aside.inp_eq (h : Aside u s) : s.inp = u.inp := congrArg State.Aside.inp h.eq
theorem Aside.wq_eq (h : Aside u s) : s.wq = u.wq := congrArg State.Aside.wq h.eq
theorem Aside.lpe_eq (h : Aside u s) : s.lpe = u.lpe := congrArg State.Aside.lpe h.eq
theorem Aside.prf_eq (h : Aside u s) : s.prf = u.prf := congrArg State.Aside.prf h.eq
theorem Aside.site_eq (h : Aside u s) : s.site = u.site := congrArg State.Aside.site h.eq
theorem Aside.link_eq (h : Aside u s) : s.link = u.link := congrArg State.Aside.link h.eq
theorem Aside.chn_eq (h : Aside u s) : s.chn = u.chn := congrArg State.Aside.chn h.eq
theorem Aside.est_eq (h : Aside u s) : s.est = u.est := congrArg State.Aside.est h.eq
theorem Aside.arr_eq (h : Aside u s) : s.arr = u.arr := congrArg State.Aside.arr h.eq
theorem Aside.mgp_eq (h : Aside u s) : s.mgp = u.mgp := congrArg State.Aside.mgp h.eq
theorem Aside.sec_eq (h : Aside u s) : s.sec = u.sec := congrArg State.Aside.sec h.eq
theorem Aside.pwr_eq (h : Aside u s) : s.pwr = u.pwr := congrArg State.Aside.pwr h.eq
theorem Aside.cfg_eq (h : Aside u s) : s.cfg = u.cfg := congrArg State.Aside.cfg h.eq
theorem Aside.shadow_eq (h : Aside u s) : s.shadow = u.shadow := congrArg State.Aside.shadow h.eq
theorem Aside.free_eq (h : Aside u s) : s.free = u.free := congrArg State.Aside.free h.eq
theorem Aside.pending_eq (h : Aside u s) : s.pending = u.pending := congrArg State.Aside.pending h.eq

theorem Aside.put (h : Aside u s) (a1 a2) : Aside u (State.put s a1 a2) := by
  unfold State.put
  refine Aside.wr ?_ ..
  exact h

theorem Aside.setFlag (h : Aside u s) (a1 a2) : Aside u (State.setFlag s a1 a2) := by
  unfold State.setFlag
  refine Aside.put ?_ ..
  exact h

theorem Aside.putBF (h : Aside u s) (a1 a2) : Aside u (State.putBF s a1 a2) := by
  unfold State.putBF
  refine Aside.wr ?_ ..
  exact h

theorem Aside.bump (h : Aside u s) (a1) : Aside u (State.bump s a1) := by
  unfold State.bump
  refine Aside.put ?_ ..
  exact h

theorem Aside.bumpSat (h : Aside u s) (a1) : Aside u (State.bumpSat s a1) := by
  unfold State.bumpSat
  refine Aside.put ?_ ..
  exact h

theorem Aside.put64 (h : Aside u s) (a1 a2 a3) : Aside u (State.put64 s a1 a2 a3) := by
  unfold State.put64
  refine Aside.wr ?_ ..
  refine Aside.wr ?_ ..
  exact h

theorem Aside.setOs (h : Aside u s) (a1 a2) : Aside u (State.setOs s a1 a2) := by
  unfold State.setOs
  refine Aside.upd ?_ rfl rfl rfl rfl rfl rfl rfl rfl rfl rfl rfl rfl rfl rfl rfl rfl rfl rfl
  exact h

theorem Aside.putOs (h : Aside u s) (a1 a2 a3) : Aside u (State.putOs s a1 a2 a3) := by
  unfold State.putOs
  refine Aside.put ?_ ..
  refine Aside.put ?_ ..
  exact h

theorem Aside.setLane (h : Aside u s) (a1 a2) : Aside u (State.setLane s a1 a2) := by
  unfold State.setLane
  refine Aside.dite (fun _ => ?_) (fun _ => ?_)
  · refine Aside.upd ?_ rfl rfl rfl rfl rfl rfl rfl rfl rfl rfl rfl rfl rfl rfl rfl rfl rfl rfl
    exact h
  · exact h

theorem Aside.capture (h : Aside u s) (a1 a2 a3 a4) : Aside u (State.capture s a1 a2 a3 a4) := by
  unfold State.capture
  extract_lets +onlyGivenNames -merge -useContext -underBinder x1
  refine Aside.ite (fun _ => ?_) (fun _ => ?_)
  · extract_lets +onlyGivenNames -merge -useContext -underBinder x2
    extract_lets +onlyGivenNames -merge -useContext -underBinder x3
    have hx3 : Aside u x3 := by
      unfold x3
      refine Aside.wr ?_ ..
      exact h
    extract_lets +onlyGivenNames -merge -useContext -underBinder x4
    have hx4 : Aside u x4 := by
      unfold x4
      refine Aside.put64 ?_ ..
      exact hx3
    refine Aside.put ?_ ..
    exact hx4
  · refine Aside.ite (fun _ => ?_) (fun _ => ?_)
    · exact h
    · extract_lets +onlyGivenNames -merge -useContext -underBinder x5
      have hx5 : Aside u x5 := by
        unfold x5
        refine Aside.wr ?_ ..
        exact h
      extract_lets +onlyGivenNames -merge -useContext -underBinder x6
      have hx6 : Aside u x6 := by
        unfold x6
        refine Aside.wr ?_ ..
        exact hx5
      refine Aside.put64 ?_ ..
      exact hx6

theorem Aside.clearRecords (h : Aside u s) (a1) : Aside u (State.clearRecords s a1) := by
  unfold State.clearRecords
  extract_lets +onlyGivenNames -merge -useContext -underBinder x1
  have hx1 : Aside u x1 := by
    unfold x1
    refine Aside.wr ?_ ..
    refine Aside.wr ?_ ..
    refine Aside.wr ?_ ..
    refine Aside.wr ?_ ..
    exact h
  extract_lets +onlyGivenNames -merge -useContext -underBinder x2
  have hx2 : Aside u x2 := by
    unfold x2
    refine Aside.wr ?_ ..
    exact hx1
  refine Aside.each (fun _ _ ht3 => ?_) ?_
  · refine Aside.wr ?_ ..
    refine Aside.wr ?_ ..
    refine Aside.wr ?_ ..
    exact ht3
  · exact hx2

theorem Aside.restoreShed (h : Aside u s) (a1) : Aside u (State.restoreShed s a1) := by
  unfold State.restoreShed
  refine Aside.each (fun _ _ ht1 => ?_) ?_
  · refine Aside.ite (fun _ => ?_) (fun _ => ?_)
    · refine Aside.putOs ?_ ..
      exact ht1
    · exact ht1
  · exact h

theorem Aside.leaveBatch (h : Aside u s) (a1) : Aside u (State.leaveBatch s a1) := by
  unfold State.leaveBatch
  refine Aside.ite (fun _ => ?_) (fun _ => ?_)
  · refine Aside.put ?_ ..
    refine Aside.setFlag ?_ ..
    exact h
  · exact h

theorem Aside.fenceOs (h : Aside u s) (a1 a2) : Aside u (State.fenceOs s a1 a2) := by
  unfold State.fenceOs
  extract_lets +onlyGivenNames -merge -useContext -underBinder x1
  have hx1 : Aside u x1 := by
    unfold x1
    refine Aside.setOs ?_ ..
    refine Aside.leaveBatch ?_ ..
    refine Aside.put ?_ ..
    refine Aside.put ?_ ..
    exact h
  refine Aside.ite (fun _ => ?_) (fun _ => ?_)
  · refine Aside.restoreShed ?_ ..
    exact hx1
  · exact hx1

theorem Aside.fenceSs (h : Aside u s) (a1) : Aside u (State.fenceSs s a1) := by
  unfold State.fenceSs
  refine Aside.upd ?_ rfl rfl rfl rfl rfl rfl rfl rfl rfl rfl rfl rfl rfl rfl rfl rfl rfl rfl
  exact h

theorem Aside.fenceFe (h : Aside u s) (a1) : Aside u (State.fenceFe s a1) := by
  unfold State.fenceFe
  refine Aside.upd ?_ rfl rfl rfl rfl rfl rfl rfl rfl rfl rfl rfl rfl rfl rfl rfl rfl rfl rfl
  exact h

theorem Aside.fenceStr (h : Aside u s) (a1) : Aside u (State.fenceStr s a1) := by
  unfold State.fenceStr
  extract_lets +onlyGivenNames -merge -useContext -underBinder x1
  extract_lets +onlyGivenNames -merge -useContext -underBinder x2
  have hx2 : Aside u x2 := by
    unfold x2
    refine Aside.upd ?_ rfl rfl rfl rfl rfl rfl rfl rfl rfl rfl rfl rfl rfl rfl rfl rfl rfl rfl
    exact h
  refine Aside.fenceSs ?_ ..
  refine Aside.fenceSs ?_ ..
  exact hx2

theorem Aside.zoneFenceStage (h : Aside u s) (a1 a2) : Aside u (State.zoneFenceStage s a1 a2) := by
  unfold State.zoneFenceStage
  extract_lets +onlyGivenNames -merge -useContext -underBinder x1
  refine Aside.ite (fun _ => ?_) (fun _ => ?_)
  · refine Aside.setOs ?_ ..
    refine Aside.putOs ?_ ..
    exact h
  · refine Aside.ite (fun _ => ?_) (fun _ => ?_)
    · refine Aside.setOs ?_ ..
      refine Aside.putOs ?_ ..
      exact h
    · refine Aside.ite (fun _ => ?_) (fun _ => ?_)
      · refine Aside.setOs ?_ ..
        refine Aside.putOs ?_ ..
        exact h
      · exact h

theorem Aside.fenceZone (h : Aside u s) (a1) : Aside u (State.fenceZone s a1) := by
  unfold State.fenceZone
  extract_lets +onlyGivenNames -merge -useContext -underBinder x1
  extract_lets +onlyGivenNames -merge -useContext -underBinder x2
  have hx2 : Aside u x2 := by
    unfold x2
    refine Aside.upd ?_ rfl rfl rfl rfl rfl rfl rfl rfl rfl rfl rfl rfl rfl rfl rfl rfl rfl rfl
    exact h
  extract_lets +onlyGivenNames -merge -useContext -underBinder x3
  have hx3 : Aside u x3 := by
    unfold x3
    refine Aside.foldl (fun _ _ ht4 => ?_) ?_
    · refine Aside.zoneFenceStage ?_ ..
      exact ht4
    · exact hx2
  extract_lets +onlyGivenNames -merge -useContext -underBinder x5
  have hx5 : Aside u x5 := by
    unfold x5
    refine Aside.setFlag ?_ ..
    exact hx3
  extract_lets +onlyGivenNames -merge -useContext -underBinder x6
  refine Aside.upd (s := x5) ?_ rfl rfl rfl rfl rfl rfl rfl rfl rfl rfl rfl rfl rfl rfl rfl rfl rfl rfl
  exact hx5

theorem Aside.fenceGroup (h : Aside u s) (a1) : Aside u (State.fenceGroup s a1) := by
  unfold State.fenceGroup
  refine Aside.foldl (fun _ _ ht1 => ?_) ?_
  · refine Aside.ite (fun _ => ?_) (fun _ => ?_)
    · refine Aside.fenceFe ?_ ..
      exact ht1
    · exact ht1
  · exact h

theorem Aside.fenceLane (h : Aside u s) (a1) : Aside u (State.fenceLane s a1) := by
  unfold State.fenceLane
  extract_lets +onlyGivenNames -merge -useContext -underBinder x1
  have hx1 : Aside u x1 := by
    unfold x1
    refine Aside.setFlag ?_ ..
    exact h
  extract_lets +onlyGivenNames -merge -useContext -underBinder x2
  have hx2 : Aside u x2 := by
    unfold x2
    refine Aside.setFlag ?_ ..
    exact hx1
  refine Aside.setLane ?_ ..
  exact hx2

theorem Aside.fenceCore (h : Aside u s) (a1 a2) : Aside u (State.fenceCore s a1 a2) := by
  unfold State.fenceCore
  refine Aside.put ?_ ..
  refine Aside.put ?_ ..
  exact h

theorem Aside.fenceUnit (h : Aside u s) (a1) : Aside u (State.fenceUnit s a1) := by
  unfold State.fenceUnit
  extract_lets +onlyGivenNames -merge -useContext -underBinder x1
  split
  · refine Aside.dite (fun _ => ?_) (fun _ => ?_)
    · refine Aside.fenceOs ?_ ..
      exact h
    · exact h
  · refine Aside.dite (fun _ => ?_) (fun _ => ?_)
    · refine Aside.fenceSs ?_ ..
      exact h
    · exact h
  · refine Aside.dite (fun _ => ?_) (fun _ => ?_)
    · refine Aside.fenceFe ?_ ..
      exact h
    · exact h
  · refine Aside.fenceGroup ?_ ..
    exact h
  · refine Aside.dite (fun _ => ?_) (fun _ => ?_)
    · refine Aside.fenceZone ?_ ..
      exact h
    · exact h
  · refine Aside.dite (fun _ => ?_) (fun _ => ?_)
    · refine Aside.fenceStr ?_ ..
      exact h
    · exact h
  · refine Aside.put ?_ ..
    refine Aside.put ?_ ..
    exact h
  · refine Aside.dite (fun _ => ?_) (fun _ => ?_)
    · refine Aside.fenceLane ?_ ..
      exact h
    · exact h
  · refine Aside.fenceCore ?_ ..
    exact h
  · refine Aside.put ?_ ..
    exact h
  · refine Aside.dite (fun _ => ?_) (fun _ => ?_)
    · refine Aside.upd ?_ rfl rfl rfl rfl rfl rfl rfl rfl rfl rfl rfl rfl rfl rfl rfl rfl rfl rfl
      exact h
    · exact h
  · exact h

theorem Aside.enterSafe (h : Aside u s) : Aside u (State.enterSafe s) := by
  unfold State.enterSafe
  extract_lets +onlyGivenNames -merge -useContext -underBinder x1
  extract_lets +onlyGivenNames -merge -useContext -underBinder x2
  extract_lets +onlyGivenNames -merge -useContext -underBinder x3
  have hx3 : Aside u x3 := by
    unfold x3
    refine Aside.upd ?_ rfl rfl rfl rfl rfl rfl rfl rfl rfl rfl rfl rfl rfl rfl rfl rfl rfl rfl
    exact h
  extract_lets +onlyGivenNames -merge -useContext -underBinder x4
  have hx4 : Aside u x4 := by
    unfold x4
    refine Aside.each (fun _ _ ht5 => ?_) ?_
    · refine Aside.put ?_ ..
      exact ht5
    · exact hx3
  extract_lets +onlyGivenNames -merge -useContext -underBinder x6
  have hx6 : Aside u x6 := by
    unfold x6
    refine Aside.each (fun _ _ ht7 => ?_) ?_
    · refine Aside.put ?_ ..
      exact ht7
    · exact hx4
  refine Aside.setFlag ?_ ..
  refine Aside.put ?_ ..
  exact hx6

theorem Aside.startDump (h : Aside u s) (a1 a2) : Aside u (State.startDump s a1 a2) := by
  unfold State.startDump
  refine Aside.ite (fun _ => ?_) (fun _ => ?_)
  · refine Aside.upd ?_ rfl rfl rfl rfl rfl rfl rfl rfl rfl rfl rfl rfl rfl rfl rfl rfl rfl rfl
    exact h
  · refine Aside.setFlag ?_ ..
    refine Aside.upd ?_ rfl rfl rfl rfl rfl rfl rfl rfl rfl rfl rfl rfl rfl rfl rfl rfl rfl rfl
    exact h

theorem Aside.halt (h : Aside u s) (a1) : Aside u (State.halt s a1) := by
  unfold State.halt
  extract_lets +onlyGivenNames -merge -useContext -underBinder x1
  have hx1 : Aside u x1 := by
    unfold x1
    refine Aside.setFlag ?_ ..
    exact h
  extract_lets +onlyGivenNames -merge -useContext -underBinder x2
  have hx2 : Aside u x2 := by
    unfold x2
    refine Aside.enterSafe ?_ ..
    exact hx1
  refine Aside.ite (fun _ => ?_) (fun _ => ?_)
  · refine Aside.startDump ?_ ..
    refine Aside.upd (s := x2) ?_ rfl rfl rfl rfl rfl rfl rfl rfl rfl rfl rfl rfl rfl rfl rfl rfl rfl rfl
    exact hx2
  · exact hx2

theorem Aside.setPending (h : Aside u s) (a1 a2 a3 a4) : Aside u (State.setPending s a1 a2 a3 a4) := by
  unfold State.setPending
  extract_lets +onlyGivenNames -merge -useContext -underBinder x1
  extract_lets +onlyGivenNames -merge -useContext -underBinder x2
  have hx2 : Aside u x2 := by
    unfold x2
    refine Aside.put ?_ ..
    exact h
  refine Aside.upd (s := x2) ?_ rfl rfl rfl rfl rfl rfl rfl rfl rfl rfl rfl rfl rfl rfl rfl rfl rfl rfl
  exact hx2

theorem Aside.countFault (h : Aside u s) (a1 a2 a3 a4 a5) : Aside u (State.countFault s a1 a2 a3 a4 a5) := by
  unfold State.countFault
  extract_lets +onlyGivenNames -merge -useContext -underBinder x1
  have hx1 : Aside u x1 := by
    unfold x1
    refine Aside.capture ?_ ..
    refine Aside.bump ?_ ..
    exact h
  refine Aside.ite (fun _ => ?_) (fun _ => ?_)
  · refine Aside.upd (s := x1) ?_ rfl rfl rfl rfl rfl rfl rfl rfl rfl rfl rfl rfl rfl rfl rfl rfl rfl rfl
    exact hx1
  · exact hx1

theorem Aside.recordAt (h : Aside u s) (a1 a2 a3 a4 a5 a6 a7) : Aside u (State.recordAt s a1 a2 a3 a4 a5 a6 a7) := by
  unfold State.recordAt
  extract_lets +onlyGivenNames -merge -useContext -underBinder x1
  extract_lets +onlyGivenNames -merge -useContext -underBinder x2
  extract_lets +onlyGivenNames -merge -useContext -underBinder x3
  extract_lets +onlyGivenNames -merge -useContext -underBinder x4
  have hx4 : Aside u x4 := by
    unfold x4
    refine Aside.countFault ?_ ..
    exact h
  refine Aside.ite (fun _ => ?_) (fun _ => ?_)
  · refine Aside.halt ?_ ..
    exact hx4
  · extract_lets +onlyGivenNames -merge -useContext -underBinder x5
    have hx5 : Aside u x5 := by
      unfold x5
      refine Aside.ite (fun _ => ?_) (fun _ => ?_)
      · exact hx4
      · refine Aside.setPending ?_ ..
        exact hx4
    refine Aside.ite (fun _ => ?_) (fun _ => ?_)
    · refine Aside.fenceUnit ?_ ..
      exact hx5
    · exact hx5

theorem Aside.record (h : Aside u s) (a1 a2 a3 a4) : Aside u (State.record s a1 a2 a3 a4) := by
  unfold State.record
  refine Aside.recordAt ?_ ..
  exact h

theorem Aside.ack (h : Aside u s) (a1 a2 a3) : Aside u (State.ack s a1 a2 a3) := by
  unfold State.ack
  extract_lets +onlyGivenNames -merge -useContext -underBinder x1
  have hx1 : Aside u x1 := by
    unfold x1
    refine Aside.put ?_ ..
    exact h
  extract_lets +onlyGivenNames -merge -useContext -underBinder x2
  have hx2 : Aside u x2 := by
    unfold x2
    refine Aside.put ?_ ..
    exact hx1
  extract_lets +onlyGivenNames -merge -useContext -underBinder x3
  extract_lets +onlyGivenNames -merge -useContext -underBinder x4
  extract_lets +onlyGivenNames -merge -useContext -underBinder x5
  have hx5 : Aside u x5 := by
    unfold x5
    refine Aside.upd (s := x2) ?_ rfl rfl rfl rfl rfl rfl rfl rfl rfl rfl rfl rfl rfl rfl rfl rfl rfl rfl
    exact hx2
  refine Aside.ite (fun _ => ?_) (fun _ => ?_)
  · refine Aside.upd (s := x5) ?_ rfl rfl rfl rfl rfl rfl rfl rfl rfl rfl rfl rfl rfl rfl rfl rfl rfl rfl
    exact hx5
  · exact hx5

@[simp] theorem State.record_time (s : State) (b : Fin 18) (c k u : Nat) : (s.record b c k u).time = s.time := (Aside.record (Aside.rfl' s) b c k u).time_eq
@[simp] theorem State.fenceUnit_time (s : State) (u : Nat) : (s.fenceUnit u).time = s.time := (Aside.fenceUnit (Aside.rfl' s) u).time_eq
@[simp] theorem State.ack_time (s : State) (b : Fin 18) (x y : Nat) : (s.ack b x y).time = s.time := (Aside.ack (Aside.rfl' s) b x y).time_eq
@[simp] theorem State.clearRecords_time (s : State) (b : Nat) : (s.clearRecords b).time = s.time := (Aside.clearRecords (Aside.rfl' s) b).time_eq
@[simp] theorem State.fenceOs_time (s : State) (k : Fin 16) (c : Nat) : (s.fenceOs k c).time = s.time := (Aside.fenceOs (Aside.rfl' s) k c).time_eq
@[simp] theorem State.fenceZone_time (s : State) (z : Fin 4) : (s.fenceZone z).time = s.time := (Aside.fenceZone (Aside.rfl' s) z).time_eq
@[simp] theorem State.fenceLane_time (s : State) (t : Fin 16) : (s.fenceLane t).time = s.time := (Aside.fenceLane (Aside.rfl' s) t).time_eq
@[simp] theorem State.fenceGroup_time (s : State) (g : Nat) : (s.fenceGroup g).time = s.time := (Aside.fenceGroup (Aside.rfl' s) g).time_eq
@[simp] theorem State.enterSafe_time (s : State)  : (s.enterSafe).time = s.time := (Aside.enterSafe (Aside.rfl' s)).time_eq
@[simp] theorem State.record_inp (s : State) (b : Fin 18) (c k u : Nat) : (s.record b c k u).inp = s.inp := (Aside.record (Aside.rfl' s) b c k u).inp_eq
@[simp] theorem State.fenceUnit_inp (s : State) (u : Nat) : (s.fenceUnit u).inp = s.inp := (Aside.fenceUnit (Aside.rfl' s) u).inp_eq
@[simp] theorem State.ack_inp (s : State) (b : Fin 18) (x y : Nat) : (s.ack b x y).inp = s.inp := (Aside.ack (Aside.rfl' s) b x y).inp_eq
@[simp] theorem State.clearRecords_inp (s : State) (b : Nat) : (s.clearRecords b).inp = s.inp := (Aside.clearRecords (Aside.rfl' s) b).inp_eq
@[simp] theorem State.fenceOs_inp (s : State) (k : Fin 16) (c : Nat) : (s.fenceOs k c).inp = s.inp := (Aside.fenceOs (Aside.rfl' s) k c).inp_eq
@[simp] theorem State.fenceZone_inp (s : State) (z : Fin 4) : (s.fenceZone z).inp = s.inp := (Aside.fenceZone (Aside.rfl' s) z).inp_eq
@[simp] theorem State.fenceLane_inp (s : State) (t : Fin 16) : (s.fenceLane t).inp = s.inp := (Aside.fenceLane (Aside.rfl' s) t).inp_eq
@[simp] theorem State.fenceGroup_inp (s : State) (g : Nat) : (s.fenceGroup g).inp = s.inp := (Aside.fenceGroup (Aside.rfl' s) g).inp_eq
@[simp] theorem State.enterSafe_inp (s : State)  : (s.enterSafe).inp = s.inp := (Aside.enterSafe (Aside.rfl' s)).inp_eq
@[simp] theorem State.record_wq (s : State) (b : Fin 18) (c k u : Nat) : (s.record b c k u).wq = s.wq := (Aside.record (Aside.rfl' s) b c k u).wq_eq
@[simp] theorem State.fenceUnit_wq (s : State) (u : Nat) : (s.fenceUnit u).wq = s.wq := (Aside.fenceUnit (Aside.rfl' s) u).wq_eq
@[simp] theorem State.ack_wq (s : State) (b : Fin 18) (x y : Nat) : (s.ack b x y).wq = s.wq := (Aside.ack (Aside.rfl' s) b x y).wq_eq
@[simp] theorem State.clearRecords_wq (s : State) (b : Nat) : (s.clearRecords b).wq = s.wq := (Aside.clearRecords (Aside.rfl' s) b).wq_eq
@[simp] theorem State.fenceOs_wq (s : State) (k : Fin 16) (c : Nat) : (s.fenceOs k c).wq = s.wq := (Aside.fenceOs (Aside.rfl' s) k c).wq_eq
@[simp] theorem State.fenceZone_wq (s : State) (z : Fin 4) : (s.fenceZone z).wq = s.wq := (Aside.fenceZone (Aside.rfl' s) z).wq_eq
@[simp] theorem State.fenceLane_wq (s : State) (t : Fin 16) : (s.fenceLane t).wq = s.wq := (Aside.fenceLane (Aside.rfl' s) t).wq_eq
@[simp] theorem State.fenceGroup_wq (s : State) (g : Nat) : (s.fenceGroup g).wq = s.wq := (Aside.fenceGroup (Aside.rfl' s) g).wq_eq
@[simp] theorem State.enterSafe_wq (s : State)  : (s.enterSafe).wq = s.wq := (Aside.enterSafe (Aside.rfl' s)).wq_eq
@[simp] theorem State.record_lpe (s : State) (b : Fin 18) (c k u : Nat) : (s.record b c k u).lpe = s.lpe := (Aside.record (Aside.rfl' s) b c k u).lpe_eq
@[simp] theorem State.fenceUnit_lpe (s : State) (u : Nat) : (s.fenceUnit u).lpe = s.lpe := (Aside.fenceUnit (Aside.rfl' s) u).lpe_eq
@[simp] theorem State.ack_lpe (s : State) (b : Fin 18) (x y : Nat) : (s.ack b x y).lpe = s.lpe := (Aside.ack (Aside.rfl' s) b x y).lpe_eq
@[simp] theorem State.clearRecords_lpe (s : State) (b : Nat) : (s.clearRecords b).lpe = s.lpe := (Aside.clearRecords (Aside.rfl' s) b).lpe_eq
@[simp] theorem State.fenceOs_lpe (s : State) (k : Fin 16) (c : Nat) : (s.fenceOs k c).lpe = s.lpe := (Aside.fenceOs (Aside.rfl' s) k c).lpe_eq
@[simp] theorem State.fenceZone_lpe (s : State) (z : Fin 4) : (s.fenceZone z).lpe = s.lpe := (Aside.fenceZone (Aside.rfl' s) z).lpe_eq
@[simp] theorem State.fenceLane_lpe (s : State) (t : Fin 16) : (s.fenceLane t).lpe = s.lpe := (Aside.fenceLane (Aside.rfl' s) t).lpe_eq
@[simp] theorem State.fenceGroup_lpe (s : State) (g : Nat) : (s.fenceGroup g).lpe = s.lpe := (Aside.fenceGroup (Aside.rfl' s) g).lpe_eq
@[simp] theorem State.enterSafe_lpe (s : State)  : (s.enterSafe).lpe = s.lpe := (Aside.enterSafe (Aside.rfl' s)).lpe_eq
@[simp] theorem State.record_prf (s : State) (b : Fin 18) (c k u : Nat) : (s.record b c k u).prf = s.prf := (Aside.record (Aside.rfl' s) b c k u).prf_eq
@[simp] theorem State.fenceUnit_prf (s : State) (u : Nat) : (s.fenceUnit u).prf = s.prf := (Aside.fenceUnit (Aside.rfl' s) u).prf_eq
@[simp] theorem State.ack_prf (s : State) (b : Fin 18) (x y : Nat) : (s.ack b x y).prf = s.prf := (Aside.ack (Aside.rfl' s) b x y).prf_eq
@[simp] theorem State.clearRecords_prf (s : State) (b : Nat) : (s.clearRecords b).prf = s.prf := (Aside.clearRecords (Aside.rfl' s) b).prf_eq
@[simp] theorem State.fenceOs_prf (s : State) (k : Fin 16) (c : Nat) : (s.fenceOs k c).prf = s.prf := (Aside.fenceOs (Aside.rfl' s) k c).prf_eq
@[simp] theorem State.fenceZone_prf (s : State) (z : Fin 4) : (s.fenceZone z).prf = s.prf := (Aside.fenceZone (Aside.rfl' s) z).prf_eq
@[simp] theorem State.fenceLane_prf (s : State) (t : Fin 16) : (s.fenceLane t).prf = s.prf := (Aside.fenceLane (Aside.rfl' s) t).prf_eq
@[simp] theorem State.fenceGroup_prf (s : State) (g : Nat) : (s.fenceGroup g).prf = s.prf := (Aside.fenceGroup (Aside.rfl' s) g).prf_eq
@[simp] theorem State.enterSafe_prf (s : State)  : (s.enterSafe).prf = s.prf := (Aside.enterSafe (Aside.rfl' s)).prf_eq
@[simp] theorem State.record_site (s : State) (b : Fin 18) (c k u : Nat) : (s.record b c k u).site = s.site := (Aside.record (Aside.rfl' s) b c k u).site_eq
@[simp] theorem State.fenceUnit_site (s : State) (u : Nat) : (s.fenceUnit u).site = s.site := (Aside.fenceUnit (Aside.rfl' s) u).site_eq
@[simp] theorem State.ack_site (s : State) (b : Fin 18) (x y : Nat) : (s.ack b x y).site = s.site := (Aside.ack (Aside.rfl' s) b x y).site_eq
@[simp] theorem State.clearRecords_site (s : State) (b : Nat) : (s.clearRecords b).site = s.site := (Aside.clearRecords (Aside.rfl' s) b).site_eq
@[simp] theorem State.fenceOs_site (s : State) (k : Fin 16) (c : Nat) : (s.fenceOs k c).site = s.site := (Aside.fenceOs (Aside.rfl' s) k c).site_eq
@[simp] theorem State.fenceZone_site (s : State) (z : Fin 4) : (s.fenceZone z).site = s.site := (Aside.fenceZone (Aside.rfl' s) z).site_eq
@[simp] theorem State.fenceLane_site (s : State) (t : Fin 16) : (s.fenceLane t).site = s.site := (Aside.fenceLane (Aside.rfl' s) t).site_eq
@[simp] theorem State.fenceGroup_site (s : State) (g : Nat) : (s.fenceGroup g).site = s.site := (Aside.fenceGroup (Aside.rfl' s) g).site_eq
@[simp] theorem State.enterSafe_site (s : State)  : (s.enterSafe).site = s.site := (Aside.enterSafe (Aside.rfl' s)).site_eq
@[simp] theorem State.record_link (s : State) (b : Fin 18) (c k u : Nat) : (s.record b c k u).link = s.link := (Aside.record (Aside.rfl' s) b c k u).link_eq
@[simp] theorem State.fenceUnit_link (s : State) (u : Nat) : (s.fenceUnit u).link = s.link := (Aside.fenceUnit (Aside.rfl' s) u).link_eq
@[simp] theorem State.ack_link (s : State) (b : Fin 18) (x y : Nat) : (s.ack b x y).link = s.link := (Aside.ack (Aside.rfl' s) b x y).link_eq
@[simp] theorem State.clearRecords_link (s : State) (b : Nat) : (s.clearRecords b).link = s.link := (Aside.clearRecords (Aside.rfl' s) b).link_eq
@[simp] theorem State.fenceOs_link (s : State) (k : Fin 16) (c : Nat) : (s.fenceOs k c).link = s.link := (Aside.fenceOs (Aside.rfl' s) k c).link_eq
@[simp] theorem State.fenceZone_link (s : State) (z : Fin 4) : (s.fenceZone z).link = s.link := (Aside.fenceZone (Aside.rfl' s) z).link_eq
@[simp] theorem State.fenceLane_link (s : State) (t : Fin 16) : (s.fenceLane t).link = s.link := (Aside.fenceLane (Aside.rfl' s) t).link_eq
@[simp] theorem State.fenceGroup_link (s : State) (g : Nat) : (s.fenceGroup g).link = s.link := (Aside.fenceGroup (Aside.rfl' s) g).link_eq
@[simp] theorem State.enterSafe_link (s : State)  : (s.enterSafe).link = s.link := (Aside.enterSafe (Aside.rfl' s)).link_eq
@[simp] theorem State.record_chn (s : State) (b : Fin 18) (c k u : Nat) : (s.record b c k u).chn = s.chn := (Aside.record (Aside.rfl' s) b c k u).chn_eq
@[simp] theorem State.fenceUnit_chn (s : State) (u : Nat) : (s.fenceUnit u).chn = s.chn := (Aside.fenceUnit (Aside.rfl' s) u).chn_eq
@[simp] theorem State.ack_chn (s : State) (b : Fin 18) (x y : Nat) : (s.ack b x y).chn = s.chn := (Aside.ack (Aside.rfl' s) b x y).chn_eq
@[simp] theorem State.clearRecords_chn (s : State) (b : Nat) : (s.clearRecords b).chn = s.chn := (Aside.clearRecords (Aside.rfl' s) b).chn_eq
@[simp] theorem State.fenceOs_chn (s : State) (k : Fin 16) (c : Nat) : (s.fenceOs k c).chn = s.chn := (Aside.fenceOs (Aside.rfl' s) k c).chn_eq
@[simp] theorem State.fenceZone_chn (s : State) (z : Fin 4) : (s.fenceZone z).chn = s.chn := (Aside.fenceZone (Aside.rfl' s) z).chn_eq
@[simp] theorem State.fenceLane_chn (s : State) (t : Fin 16) : (s.fenceLane t).chn = s.chn := (Aside.fenceLane (Aside.rfl' s) t).chn_eq
@[simp] theorem State.fenceGroup_chn (s : State) (g : Nat) : (s.fenceGroup g).chn = s.chn := (Aside.fenceGroup (Aside.rfl' s) g).chn_eq
@[simp] theorem State.enterSafe_chn (s : State)  : (s.enterSafe).chn = s.chn := (Aside.enterSafe (Aside.rfl' s)).chn_eq
@[simp] theorem State.record_est (s : State) (b : Fin 18) (c k u : Nat) : (s.record b c k u).est = s.est := (Aside.record (Aside.rfl' s) b c k u).est_eq
@[simp] theorem State.fenceUnit_est (s : State) (u : Nat) : (s.fenceUnit u).est = s.est := (Aside.fenceUnit (Aside.rfl' s) u).est_eq
@[simp] theorem State.ack_est (s : State) (b : Fin 18) (x y : Nat) : (s.ack b x y).est = s.est := (Aside.ack (Aside.rfl' s) b x y).est_eq
@[simp] theorem State.clearRecords_est (s : State) (b : Nat) : (s.clearRecords b).est = s.est := (Aside.clearRecords (Aside.rfl' s) b).est_eq
@[simp] theorem State.fenceOs_est (s : State) (k : Fin 16) (c : Nat) : (s.fenceOs k c).est = s.est := (Aside.fenceOs (Aside.rfl' s) k c).est_eq
@[simp] theorem State.fenceZone_est (s : State) (z : Fin 4) : (s.fenceZone z).est = s.est := (Aside.fenceZone (Aside.rfl' s) z).est_eq
@[simp] theorem State.fenceLane_est (s : State) (t : Fin 16) : (s.fenceLane t).est = s.est := (Aside.fenceLane (Aside.rfl' s) t).est_eq
@[simp] theorem State.fenceGroup_est (s : State) (g : Nat) : (s.fenceGroup g).est = s.est := (Aside.fenceGroup (Aside.rfl' s) g).est_eq
@[simp] theorem State.enterSafe_est (s : State)  : (s.enterSafe).est = s.est := (Aside.enterSafe (Aside.rfl' s)).est_eq
@[simp] theorem State.record_arr (s : State) (b : Fin 18) (c k u : Nat) : (s.record b c k u).arr = s.arr := (Aside.record (Aside.rfl' s) b c k u).arr_eq
@[simp] theorem State.fenceUnit_arr (s : State) (u : Nat) : (s.fenceUnit u).arr = s.arr := (Aside.fenceUnit (Aside.rfl' s) u).arr_eq
@[simp] theorem State.ack_arr (s : State) (b : Fin 18) (x y : Nat) : (s.ack b x y).arr = s.arr := (Aside.ack (Aside.rfl' s) b x y).arr_eq
@[simp] theorem State.clearRecords_arr (s : State) (b : Nat) : (s.clearRecords b).arr = s.arr := (Aside.clearRecords (Aside.rfl' s) b).arr_eq
@[simp] theorem State.fenceOs_arr (s : State) (k : Fin 16) (c : Nat) : (s.fenceOs k c).arr = s.arr := (Aside.fenceOs (Aside.rfl' s) k c).arr_eq
@[simp] theorem State.fenceZone_arr (s : State) (z : Fin 4) : (s.fenceZone z).arr = s.arr := (Aside.fenceZone (Aside.rfl' s) z).arr_eq
@[simp] theorem State.fenceLane_arr (s : State) (t : Fin 16) : (s.fenceLane t).arr = s.arr := (Aside.fenceLane (Aside.rfl' s) t).arr_eq
@[simp] theorem State.fenceGroup_arr (s : State) (g : Nat) : (s.fenceGroup g).arr = s.arr := (Aside.fenceGroup (Aside.rfl' s) g).arr_eq
@[simp] theorem State.enterSafe_arr (s : State)  : (s.enterSafe).arr = s.arr := (Aside.enterSafe (Aside.rfl' s)).arr_eq
@[simp] theorem State.record_mgp (s : State) (b : Fin 18) (c k u : Nat) : (s.record b c k u).mgp = s.mgp := (Aside.record (Aside.rfl' s) b c k u).mgp_eq
@[simp] theorem State.fenceUnit_mgp (s : State) (u : Nat) : (s.fenceUnit u).mgp = s.mgp := (Aside.fenceUnit (Aside.rfl' s) u).mgp_eq
@[simp] theorem State.ack_mgp (s : State) (b : Fin 18) (x y : Nat) : (s.ack b x y).mgp = s.mgp := (Aside.ack (Aside.rfl' s) b x y).mgp_eq
@[simp] theorem State.clearRecords_mgp (s : State) (b : Nat) : (s.clearRecords b).mgp = s.mgp := (Aside.clearRecords (Aside.rfl' s) b).mgp_eq
@[simp] theorem State.fenceOs_mgp (s : State) (k : Fin 16) (c : Nat) : (s.fenceOs k c).mgp = s.mgp := (Aside.fenceOs (Aside.rfl' s) k c).mgp_eq
@[simp] theorem State.fenceZone_mgp (s : State) (z : Fin 4) : (s.fenceZone z).mgp = s.mgp := (Aside.fenceZone (Aside.rfl' s) z).mgp_eq
@[simp] theorem State.fenceLane_mgp (s : State) (t : Fin 16) : (s.fenceLane t).mgp = s.mgp := (Aside.fenceLane (Aside.rfl' s) t).mgp_eq
@[simp] theorem State.fenceGroup_mgp (s : State) (g : Nat) : (s.fenceGroup g).mgp = s.mgp := (Aside.fenceGroup (Aside.rfl' s) g).mgp_eq
@[simp] theorem State.enterSafe_mgp (s : State)  : (s.enterSafe).mgp = s.mgp := (Aside.enterSafe (Aside.rfl' s)).mgp_eq
@[simp] theorem State.record_sec (s : State) (b : Fin 18) (c k u : Nat) : (s.record b c k u).sec = s.sec := (Aside.record (Aside.rfl' s) b c k u).sec_eq
@[simp] theorem State.fenceUnit_sec (s : State) (u : Nat) : (s.fenceUnit u).sec = s.sec := (Aside.fenceUnit (Aside.rfl' s) u).sec_eq
@[simp] theorem State.ack_sec (s : State) (b : Fin 18) (x y : Nat) : (s.ack b x y).sec = s.sec := (Aside.ack (Aside.rfl' s) b x y).sec_eq
@[simp] theorem State.clearRecords_sec (s : State) (b : Nat) : (s.clearRecords b).sec = s.sec := (Aside.clearRecords (Aside.rfl' s) b).sec_eq
@[simp] theorem State.fenceOs_sec (s : State) (k : Fin 16) (c : Nat) : (s.fenceOs k c).sec = s.sec := (Aside.fenceOs (Aside.rfl' s) k c).sec_eq
@[simp] theorem State.fenceZone_sec (s : State) (z : Fin 4) : (s.fenceZone z).sec = s.sec := (Aside.fenceZone (Aside.rfl' s) z).sec_eq
@[simp] theorem State.fenceLane_sec (s : State) (t : Fin 16) : (s.fenceLane t).sec = s.sec := (Aside.fenceLane (Aside.rfl' s) t).sec_eq
@[simp] theorem State.fenceGroup_sec (s : State) (g : Nat) : (s.fenceGroup g).sec = s.sec := (Aside.fenceGroup (Aside.rfl' s) g).sec_eq
@[simp] theorem State.enterSafe_sec (s : State)  : (s.enterSafe).sec = s.sec := (Aside.enterSafe (Aside.rfl' s)).sec_eq
@[simp] theorem State.record_pwr (s : State) (b : Fin 18) (c k u : Nat) : (s.record b c k u).pwr = s.pwr := (Aside.record (Aside.rfl' s) b c k u).pwr_eq
@[simp] theorem State.fenceUnit_pwr (s : State) (u : Nat) : (s.fenceUnit u).pwr = s.pwr := (Aside.fenceUnit (Aside.rfl' s) u).pwr_eq
@[simp] theorem State.ack_pwr (s : State) (b : Fin 18) (x y : Nat) : (s.ack b x y).pwr = s.pwr := (Aside.ack (Aside.rfl' s) b x y).pwr_eq
@[simp] theorem State.clearRecords_pwr (s : State) (b : Nat) : (s.clearRecords b).pwr = s.pwr := (Aside.clearRecords (Aside.rfl' s) b).pwr_eq
@[simp] theorem State.fenceOs_pwr (s : State) (k : Fin 16) (c : Nat) : (s.fenceOs k c).pwr = s.pwr := (Aside.fenceOs (Aside.rfl' s) k c).pwr_eq
@[simp] theorem State.fenceZone_pwr (s : State) (z : Fin 4) : (s.fenceZone z).pwr = s.pwr := (Aside.fenceZone (Aside.rfl' s) z).pwr_eq
@[simp] theorem State.fenceLane_pwr (s : State) (t : Fin 16) : (s.fenceLane t).pwr = s.pwr := (Aside.fenceLane (Aside.rfl' s) t).pwr_eq
@[simp] theorem State.fenceGroup_pwr (s : State) (g : Nat) : (s.fenceGroup g).pwr = s.pwr := (Aside.fenceGroup (Aside.rfl' s) g).pwr_eq
@[simp] theorem State.enterSafe_pwr (s : State)  : (s.enterSafe).pwr = s.pwr := (Aside.enterSafe (Aside.rfl' s)).pwr_eq
@[simp] theorem State.record_cfg (s : State) (b : Fin 18) (c k u : Nat) : (s.record b c k u).cfg = s.cfg := (Aside.record (Aside.rfl' s) b c k u).cfg_eq
@[simp] theorem State.fenceUnit_cfg (s : State) (u : Nat) : (s.fenceUnit u).cfg = s.cfg := (Aside.fenceUnit (Aside.rfl' s) u).cfg_eq
@[simp] theorem State.ack_cfg (s : State) (b : Fin 18) (x y : Nat) : (s.ack b x y).cfg = s.cfg := (Aside.ack (Aside.rfl' s) b x y).cfg_eq
@[simp] theorem State.clearRecords_cfg (s : State) (b : Nat) : (s.clearRecords b).cfg = s.cfg := (Aside.clearRecords (Aside.rfl' s) b).cfg_eq
@[simp] theorem State.fenceOs_cfg (s : State) (k : Fin 16) (c : Nat) : (s.fenceOs k c).cfg = s.cfg := (Aside.fenceOs (Aside.rfl' s) k c).cfg_eq
@[simp] theorem State.fenceZone_cfg (s : State) (z : Fin 4) : (s.fenceZone z).cfg = s.cfg := (Aside.fenceZone (Aside.rfl' s) z).cfg_eq
@[simp] theorem State.fenceLane_cfg (s : State) (t : Fin 16) : (s.fenceLane t).cfg = s.cfg := (Aside.fenceLane (Aside.rfl' s) t).cfg_eq
@[simp] theorem State.fenceGroup_cfg (s : State) (g : Nat) : (s.fenceGroup g).cfg = s.cfg := (Aside.fenceGroup (Aside.rfl' s) g).cfg_eq
@[simp] theorem State.enterSafe_cfg (s : State)  : (s.enterSafe).cfg = s.cfg := (Aside.enterSafe (Aside.rfl' s)).cfg_eq
@[simp] theorem State.record_shadow (s : State) (b : Fin 18) (c k u : Nat) : (s.record b c k u).shadow = s.shadow := (Aside.record (Aside.rfl' s) b c k u).shadow_eq
@[simp] theorem State.fenceUnit_shadow (s : State) (u : Nat) : (s.fenceUnit u).shadow = s.shadow := (Aside.fenceUnit (Aside.rfl' s) u).shadow_eq
@[simp] theorem State.ack_shadow (s : State) (b : Fin 18) (x y : Nat) : (s.ack b x y).shadow = s.shadow := (Aside.ack (Aside.rfl' s) b x y).shadow_eq
@[simp] theorem State.clearRecords_shadow (s : State) (b : Nat) : (s.clearRecords b).shadow = s.shadow := (Aside.clearRecords (Aside.rfl' s) b).shadow_eq
@[simp] theorem State.fenceOs_shadow (s : State) (k : Fin 16) (c : Nat) : (s.fenceOs k c).shadow = s.shadow := (Aside.fenceOs (Aside.rfl' s) k c).shadow_eq
@[simp] theorem State.fenceZone_shadow (s : State) (z : Fin 4) : (s.fenceZone z).shadow = s.shadow := (Aside.fenceZone (Aside.rfl' s) z).shadow_eq
@[simp] theorem State.fenceLane_shadow (s : State) (t : Fin 16) : (s.fenceLane t).shadow = s.shadow := (Aside.fenceLane (Aside.rfl' s) t).shadow_eq
@[simp] theorem State.fenceGroup_shadow (s : State) (g : Nat) : (s.fenceGroup g).shadow = s.shadow := (Aside.fenceGroup (Aside.rfl' s) g).shadow_eq
@[simp] theorem State.enterSafe_shadow (s : State)  : (s.enterSafe).shadow = s.shadow := (Aside.enterSafe (Aside.rfl' s)).shadow_eq
@[simp] theorem State.record_free (s : State) (b : Fin 18) (c k u : Nat) : (s.record b c k u).free = s.free := (Aside.record (Aside.rfl' s) b c k u).free_eq
@[simp] theorem State.fenceUnit_free (s : State) (u : Nat) : (s.fenceUnit u).free = s.free := (Aside.fenceUnit (Aside.rfl' s) u).free_eq
@[simp] theorem State.ack_free (s : State) (b : Fin 18) (x y : Nat) : (s.ack b x y).free = s.free := (Aside.ack (Aside.rfl' s) b x y).free_eq
@[simp] theorem State.clearRecords_free (s : State) (b : Nat) : (s.clearRecords b).free = s.free := (Aside.clearRecords (Aside.rfl' s) b).free_eq
@[simp] theorem State.fenceOs_free (s : State) (k : Fin 16) (c : Nat) : (s.fenceOs k c).free = s.free := (Aside.fenceOs (Aside.rfl' s) k c).free_eq
@[simp] theorem State.fenceZone_free (s : State) (z : Fin 4) : (s.fenceZone z).free = s.free := (Aside.fenceZone (Aside.rfl' s) z).free_eq
@[simp] theorem State.fenceLane_free (s : State) (t : Fin 16) : (s.fenceLane t).free = s.free := (Aside.fenceLane (Aside.rfl' s) t).free_eq
@[simp] theorem State.fenceGroup_free (s : State) (g : Nat) : (s.fenceGroup g).free = s.free := (Aside.fenceGroup (Aside.rfl' s) g).free_eq
@[simp] theorem State.enterSafe_free (s : State)  : (s.enterSafe).free = s.free := (Aside.enterSafe (Aside.rfl' s)).free_eq
@[simp] theorem State.record_pending (s : State) (b : Fin 18) (c k u : Nat) : (s.record b c k u).pending = s.pending := (Aside.record (Aside.rfl' s) b c k u).pending_eq
@[simp] theorem State.fenceUnit_pending (s : State) (u : Nat) : (s.fenceUnit u).pending = s.pending := (Aside.fenceUnit (Aside.rfl' s) u).pending_eq
@[simp] theorem State.ack_pending (s : State) (b : Fin 18) (x y : Nat) : (s.ack b x y).pending = s.pending := (Aside.ack (Aside.rfl' s) b x y).pending_eq
@[simp] theorem State.clearRecords_pending (s : State) (b : Nat) : (s.clearRecords b).pending = s.pending := (Aside.clearRecords (Aside.rfl' s) b).pending_eq
@[simp] theorem State.fenceOs_pending (s : State) (k : Fin 16) (c : Nat) : (s.fenceOs k c).pending = s.pending := (Aside.fenceOs (Aside.rfl' s) k c).pending_eq
@[simp] theorem State.fenceZone_pending (s : State) (z : Fin 4) : (s.fenceZone z).pending = s.pending := (Aside.fenceZone (Aside.rfl' s) z).pending_eq
@[simp] theorem State.fenceLane_pending (s : State) (t : Fin 16) : (s.fenceLane t).pending = s.pending := (Aside.fenceLane (Aside.rfl' s) t).pending_eq
@[simp] theorem State.fenceGroup_pending (s : State) (g : Nat) : (s.fenceGroup g).pending = s.pending := (Aside.fenceGroup (Aside.rfl' s) g).pending_eq
@[simp] theorem State.enterSafe_pending (s : State)  : (s.enterSafe).pending = s.pending := (Aside.enterSafe (Aside.rfl' s)).pending_eq

end Sys2Proof.Machine
end

