-- ==== Sys2Proof/Laws/AuditK.lean ====
section
/-! SUPPORT. What an audit entry leaves alone. -/

namespace Sys2Proof.Machine

/-- The parts of the state that are kept. -/
structure State.AuditKPart where
  time : TimeRt
  inp : InputRt
  wq : List PairWrite
  lpe : LpeRt
  hmp : HmpRt
  prf : PrfRt
  site : SiteRt
  zfb : ZfbRt
  wgl : WglRt
  lks : LksRt
  link : LinkRt
  chn : ChnRt
  est : EstRt
  arr : ArrRt
  flt : FltRt
  mgp : MgpRt
  pwr : PwrRt
  cfg : CfgRt
  pins : PinRt
  shadow : List (Nat × Nat × Word)
  free : Nat
  pending : List Instr

/-- Those parts of a state. -/
def State.partAuditK (s : State) : State.AuditKPart :=
  ⟨s.time, s.inp, s.wq, s.lpe, s.hmp, s.prf, s.site, s.zfb, s.wgl, s.lks, s.link, s.chn, s.est, s.arr, s.flt, s.mgp, s.pwr, s.cfg, s.pins, s.shadow, s.free, s.pending⟩

/-- Those parts are the ones given. -/
structure AuditK (u : State.AuditKPart) (s : State) : Prop where
  eq : s.partAuditK = u

variable {u : State.AuditKPart} {s : State}

theorem AuditK.upd {regs time inp wq lpe hmp prf site zfb wgl lks link chn est arr flt mgp sec pwr cfg pins shadow free pending} (h : AuditK u s) (h_regs : regs = s.regs) (h_time : time = s.time) (h_inp : inp = s.inp) (h_wq : wq = s.wq) (h_lpe : lpe = s.lpe) (h_hmp : hmp = s.hmp) (h_prf : prf = s.prf) (h_site : site = s.site) (h_zfb : zfb = s.zfb) (h_wgl : wgl = s.wgl) (h_lks : lks = s.lks) (h_link : link = s.link) (h_chn : chn = s.chn) (h_est : est = s.est) (h_arr : arr = s.arr) (h_flt : flt = s.flt) (h_mgp : mgp = s.mgp) (h_pwr : pwr = s.pwr) (h_cfg : cfg = s.cfg) (h_pins : pins = s.pins) (h_shadow : shadow = s.shadow) (h_free : free = s.free) (h_pending : pending = s.pending) :
    AuditK u (State.mk regs time inp wq lpe hmp prf site zfb wgl lks link chn est arr flt mgp sec pwr cfg pins shadow free pending) := by
  subst h_regs h_time h_inp h_wq h_lpe h_hmp h_prf h_site h_zfb h_wgl h_lks h_link h_chn h_est h_arr h_flt h_mgp h_pwr h_cfg h_pins h_shadow h_free h_pending
  exact ⟨h.eq⟩

theorem AuditK.rfl' (s : State) : AuditK s.partAuditK s := ⟨rfl⟩

theorem AuditK.ite {c : Prop} {_ : Decidable c} {a b : State} (ha : c → AuditK u a) (hb : ¬c → AuditK u b) : AuditK u (if c then a else b) := by
  split
  · exact ha ‹_›
  · exact hb ‹_›

theorem AuditK.dite {c : Prop} {_ : Decidable c} {a : c → State} {b : ¬c → State} (ha : ∀ h, AuditK u (a h)) (hb : ∀ h, AuditK u (b h)) :
    AuditK u (if h : c then a h else b h) := by
  split
  · exact ha _
  · exact hb _

theorem AuditK.iteP {α : Type} {c : Prop} {_ : Decidable c} {a b : State × α} (ha : c → AuditK u a.1) (hb : ¬c → AuditK u b.1) : AuditK u (if c then a else b).1 := by
  split
  · exact ha ‹_›
  · exact hb ‹_›

theorem AuditK.diteP {α : Type} {c : Prop} {_ : Decidable c} {a : c → State × α} {b : ¬c → State × α} (ha : ∀ h, AuditK u (a h).1) (hb : ∀ h, AuditK u (b h).1) :
    AuditK u (if h : c then a h else b h).1 := by
  split
  · exact ha _
  · exact hb _

theorem AuditK.foldl {α : Type} {l : List α} {f : State → α → State} (hf : ∀ t a, AuditK u t → AuditK u (f t a)) (h : AuditK u s) : AuditK u (l.foldl f s) := by
  induction l generalizing s with
  | nil => exact h
  | cons a l ih => exact ih (hf s a h)

theorem AuditK.each {n : Nat} {f : Nat → State → State} (hf : ∀ i t, AuditK u t → AuditK u (f i t)) (h : AuditK u s) : AuditK u (State.each n f s) :=
  AuditK.foldl (fun t a ht => hf a t ht) h

theorem AuditK.over {α : Type} {l : List α} {f : α → State → State} (hf : ∀ i t, AuditK u t → AuditK u (f i t)) (h : AuditK u s) : AuditK u (State.over l f s) :=
  AuditK.foldl (fun t a ht => hf a t ht) h

theorem AuditK.iff {c : Bool} {f : State → State} (hf : ∀ t, AuditK u t → AuditK u (f t)) (h : AuditK u s) : AuditK u (State.iff c f s) := by
  unfold State.iff
  split
  · exact hf s h
  · exact h

theorem AuditK.wr (h : AuditK u s) (a w) : AuditK u (s.wr a w) := ⟨h.eq⟩

theorem AuditK.time_eq (h : AuditK u s) : s.time = u.time := congrArg State.AuditKPart.time h.eq
theorem AuditK.inp_eq (h : AuditK u s) : s.inp = u.inp := congrArg State.AuditKPart.inp h.eq
theorem AuditK.wq_eq (h : AuditK u s) : s.wq = u.wq := congrArg State.AuditKPart.wq h.eq
theorem AuditK.lpe_eq (h : AuditK u s) : s.lpe = u.lpe := congrArg State.AuditKPart.lpe h.eq
theorem AuditK.hmp_eq (h : AuditK u s) : s.hmp = u.hmp := congrArg State.AuditKPart.hmp h.eq
theorem AuditK.prf_eq (h : AuditK u s) : s.prf = u.prf := congrArg State.AuditKPart.prf h.eq
theorem AuditK.site_eq (h : AuditK u s) : s.site = u.site := congrArg State.AuditKPart.site h.eq
theorem AuditK.zfb_eq (h : AuditK u s) : s.zfb = u.zfb := congrArg State.AuditKPart.zfb h.eq
theorem AuditK.wgl_eq (h : AuditK u s) : s.wgl = u.wgl := congrArg State.AuditKPart.wgl h.eq
theorem AuditK.lks_eq (h : AuditK u s) : s.lks = u.lks := congrArg State.AuditKPart.lks h.eq
theorem AuditK.link_eq (h : AuditK u s) : s.link = u.link := congrArg State.AuditKPart.link h.eq
theorem AuditK.chn_eq (h : AuditK u s) : s.chn = u.chn := congrArg State.AuditKPart.chn h.eq
theorem AuditK.est_eq (h : AuditK u s) : s.est = u.est := congrArg State.AuditKPart.est h.eq
theorem AuditK.arr_eq (h : AuditK u s) : s.arr = u.arr := congrArg State.AuditKPart.arr h.eq
theorem AuditK.flt_eq (h : AuditK u s) : s.flt = u.flt := congrArg State.AuditKPart.flt h.eq
theorem AuditK.mgp_eq (h : AuditK u s) : s.mgp = u.mgp := congrArg State.AuditKPart.mgp h.eq
theorem AuditK.pwr_eq (h : AuditK u s) : s.pwr = u.pwr := congrArg State.AuditKPart.pwr h.eq
theorem AuditK.cfg_eq (h : AuditK u s) : s.cfg = u.cfg := congrArg State.AuditKPart.cfg h.eq
theorem AuditK.pins_eq (h : AuditK u s) : s.pins = u.pins := congrArg State.AuditKPart.pins h.eq
theorem AuditK.shadow_eq (h : AuditK u s) : s.shadow = u.shadow := congrArg State.AuditKPart.shadow h.eq
theorem AuditK.free_eq (h : AuditK u s) : s.free = u.free := congrArg State.AuditKPart.free h.eq
theorem AuditK.pending_eq (h : AuditK u s) : s.pending = u.pending := congrArg State.AuditKPart.pending h.eq

theorem AuditK.put (h : AuditK u s) (a1 a2) : AuditK u (State.put s a1 a2) := by
  unfold State.put
  refine AuditK.wr ?_ ..
  exact h

theorem AuditK.setFlag (h : AuditK u s) (a1 a2) : AuditK u (State.setFlag s a1 a2) := by
  unfold State.setFlag
  refine AuditK.put ?_ ..
  exact h

theorem AuditK.put64 (h : AuditK u s) (a1 a2 a3) : AuditK u (State.put64 s a1 a2 a3) := by
  unfold State.put64
  refine AuditK.wr ?_ ..
  refine AuditK.wr ?_ ..
  exact h

theorem AuditK.auditRegs (h : AuditK u s) : AuditK u (State.auditRegs s) := by
  unfold State.auditRegs
  extract_lets +onlyGivenNames -merge -useContext -underBinder x1
  refine AuditK.setFlag ?_ ..
  refine AuditK.put ?_ ..
  refine AuditK.put64 ?_ ..
  exact h

theorem AuditK.unstage (h : AuditK u s) (a1) : AuditK u (State.unstage s a1) := by
  unfold State.unstage
  refine AuditK.upd ?_ rfl rfl rfl rfl rfl rfl rfl rfl rfl rfl rfl rfl rfl rfl rfl rfl rfl rfl rfl rfl rfl rfl rfl
  exact h

theorem AuditK.auditMove (h : AuditK u s) : AuditK u (State.auditMove s) := by
  unfold State.auditMove
  extract_lets +onlyGivenNames -merge -useContext -underBinder x1
  extract_lets +onlyGivenNames -merge -useContext -underBinder x2
  extract_lets +onlyGivenNames -merge -useContext -underBinder x3
  extract_lets +onlyGivenNames -merge -useContext -underBinder x4
  refine AuditK.auditRegs ?_ ..
  refine AuditK.unstage ?_ ..
  exact h

theorem AuditK.addEntry (h : AuditK u s) (a1 a2) : AuditK u (State.addEntry s a1 a2) := by
  unfold State.addEntry
  refine AuditK.upd ?_ rfl rfl rfl rfl rfl rfl rfl rfl rfl rfl rfl rfl rfl rfl rfl rfl rfl rfl rfl rfl rfl rfl rfl
  exact h

theorem AuditK.audit (h : AuditK u s) (a1 a2 a3 a4 a5 a6) : AuditK u (State.audit s a1 a2 a3 a4 a5 a6) := by
  unfold State.audit
  extract_lets +onlyGivenNames -merge -useContext -underBinder x1
  extract_lets +onlyGivenNames -merge -useContext -underBinder x2
  have hx2 : AuditK u x2 := by
    unfold x2
    refine AuditK.auditRegs ?_ ..
    refine AuditK.addEntry ?_ ..
    exact h
  refine AuditK.ite (fun _ => ?_) (fun _ => ?_)
  · refine AuditK.auditMove ?_ ..
    exact hx2
  · exact hx2

theorem AuditK.auditFw (h : AuditK u s) (a1 a2) : AuditK u (State.auditFw s a1 a2) := by
  unfold State.auditFw
  refine AuditK.audit ?_ ..
  exact h

/-- What those functions may change, as a frame names it. -/
theorem AuditK.within {t : State} (h : AuditK s.partAuditK t) : t.within s [.regs, .sec]
  | .regs, hp => (hp (by decide)).elim
  | .time, _ => h.time_eq
  | .inp, _ => h.inp_eq
  | .wq, _ => h.wq_eq
  | .lpe, _ => h.lpe_eq
  | .hmp, _ => h.hmp_eq
  | .prf, _ => h.prf_eq
  | .site, _ => h.site_eq
  | .zfb, _ => h.zfb_eq
  | .wgl, _ => h.wgl_eq
  | .lks, _ => h.lks_eq
  | .link, _ => h.link_eq
  | .chn, _ => h.chn_eq
  | .est, _ => h.est_eq
  | .arr, _ => h.arr_eq
  | .flt, _ => h.flt_eq
  | .mgp, _ => h.mgp_eq
  | .sec, hp => (hp (by decide)).elim
  | .pwr, _ => h.pwr_eq
  | .cfg, _ => h.cfg_eq
  | .pins, _ => h.pins_eq
  | .shadow, _ => h.shadow_eq
  | .free, _ => h.free_eq
  | .pending, _ => h.pending_eq

end Sys2Proof.Machine
end

