-- ==== Sys2Proof/Laws/Batch.lean ====
section
/-! SUPPORT. What the end of a batch leaves alone. -/

namespace Sys2Proof.Machine

/-- The parts of the state that are kept. -/
structure State.BatchPart where
  time : TimeRt
  inp : InputRt
  wq : List PairWrite
  lpe : LpeRt
  hmp : HmpRt
  prf : PrfRt
  site : SiteRt
  wgl : WglRt
  lks : LksRt
  link : LinkRt
  chn : ChnRt
  est : EstRt
  arr : ArrRt
  flt : FltRt
  mgp : MgpRt
  sec : SecRt
  pwr : PwrRt
  cfg : CfgRt
  pins : PinRt
  shadow : List (Nat × Nat × Word)
  free : Nat
  pending : List Instr

/-- Those parts of a state. -/
def State.partBatch (s : State) : State.BatchPart :=
  ⟨s.time, s.inp, s.wq, s.lpe, s.hmp, s.prf, s.site, s.wgl, s.lks, s.link, s.chn, s.est, s.arr, s.flt, s.mgp, s.sec, s.pwr, s.cfg, s.pins, s.shadow, s.free, s.pending⟩

/-- Those parts are the ones given. -/
structure Batch (u : State.BatchPart) (s : State) : Prop where
  eq : s.partBatch = u

variable {u : State.BatchPart} {s : State}

theorem Batch.upd {regs time inp wq lpe hmp prf site zfb wgl lks link chn est arr flt mgp sec pwr cfg pins shadow free pending} (h : Batch u s) (h_regs : regs = s.regs) (h_time : time = s.time) (h_inp : inp = s.inp) (h_wq : wq = s.wq) (h_lpe : lpe = s.lpe) (h_hmp : hmp = s.hmp) (h_prf : prf = s.prf) (h_site : site = s.site) (h_wgl : wgl = s.wgl) (h_lks : lks = s.lks) (h_link : link = s.link) (h_chn : chn = s.chn) (h_est : est = s.est) (h_arr : arr = s.arr) (h_flt : flt = s.flt) (h_mgp : mgp = s.mgp) (h_sec : sec = s.sec) (h_pwr : pwr = s.pwr) (h_cfg : cfg = s.cfg) (h_pins : pins = s.pins) (h_shadow : shadow = s.shadow) (h_free : free = s.free) (h_pending : pending = s.pending) :
    Batch u (State.mk regs time inp wq lpe hmp prf site zfb wgl lks link chn est arr flt mgp sec pwr cfg pins shadow free pending) := by
  subst h_regs h_time h_inp h_wq h_lpe h_hmp h_prf h_site h_wgl h_lks h_link h_chn h_est h_arr h_flt h_mgp h_sec h_pwr h_cfg h_pins h_shadow h_free h_pending
  exact ⟨h.eq⟩

theorem Batch.rfl' (s : State) : Batch s.partBatch s := ⟨rfl⟩

theorem Batch.ite {c : Prop} {_ : Decidable c} {a b : State} (ha : c → Batch u a) (hb : ¬c → Batch u b) : Batch u (if c then a else b) := by
  split
  · exact ha ‹_›
  · exact hb ‹_›

theorem Batch.dite {c : Prop} {_ : Decidable c} {a : c → State} {b : ¬c → State} (ha : ∀ h, Batch u (a h)) (hb : ∀ h, Batch u (b h)) :
    Batch u (if h : c then a h else b h) := by
  split
  · exact ha _
  · exact hb _

theorem Batch.iteP {α : Type} {c : Prop} {_ : Decidable c} {a b : State × α} (ha : c → Batch u a.1) (hb : ¬c → Batch u b.1) : Batch u (if c then a else b).1 := by
  split
  · exact ha ‹_›
  · exact hb ‹_›

theorem Batch.diteP {α : Type} {c : Prop} {_ : Decidable c} {a : c → State × α} {b : ¬c → State × α} (ha : ∀ h, Batch u (a h).1) (hb : ∀ h, Batch u (b h).1) :
    Batch u (if h : c then a h else b h).1 := by
  split
  · exact ha _
  · exact hb _

theorem Batch.foldl {α : Type} {l : List α} {f : State → α → State} (hf : ∀ t a, Batch u t → Batch u (f t a)) (h : Batch u s) : Batch u (l.foldl f s) := by
  induction l generalizing s with
  | nil => exact h
  | cons a l ih => exact ih (hf s a h)

theorem Batch.each {n : Nat} {f : Nat → State → State} (hf : ∀ i t, Batch u t → Batch u (f i t)) (h : Batch u s) : Batch u (State.each n f s) :=
  Batch.foldl (fun t a ht => hf a t ht) h

theorem Batch.over {α : Type} {l : List α} {f : α → State → State} (hf : ∀ i t, Batch u t → Batch u (f i t)) (h : Batch u s) : Batch u (State.over l f s) :=
  Batch.foldl (fun t a ht => hf a t ht) h

theorem Batch.iff {c : Bool} {f : State → State} (hf : ∀ t, Batch u t → Batch u (f t)) (h : Batch u s) : Batch u (State.iff c f s) := by
  unfold State.iff
  split
  · exact hf s h
  · exact h

theorem Batch.wr (h : Batch u s) (a w) : Batch u (s.wr a w) := ⟨h.eq⟩

theorem Batch.time_eq (h : Batch u s) : s.time = u.time := congrArg State.BatchPart.time h.eq
theorem Batch.inp_eq (h : Batch u s) : s.inp = u.inp := congrArg State.BatchPart.inp h.eq
theorem Batch.wq_eq (h : Batch u s) : s.wq = u.wq := congrArg State.BatchPart.wq h.eq
theorem Batch.lpe_eq (h : Batch u s) : s.lpe = u.lpe := congrArg State.BatchPart.lpe h.eq
theorem Batch.hmp_eq (h : Batch u s) : s.hmp = u.hmp := congrArg State.BatchPart.hmp h.eq
theorem Batch.prf_eq (h : Batch u s) : s.prf = u.prf := congrArg State.BatchPart.prf h.eq
theorem Batch.site_eq (h : Batch u s) : s.site = u.site := congrArg State.BatchPart.site h.eq
theorem Batch.wgl_eq (h : Batch u s) : s.wgl = u.wgl := congrArg State.BatchPart.wgl h.eq
theorem Batch.lks_eq (h : Batch u s) : s.lks = u.lks := congrArg State.BatchPart.lks h.eq
theorem Batch.link_eq (h : Batch u s) : s.link = u.link := congrArg State.BatchPart.link h.eq
theorem Batch.chn_eq (h : Batch u s) : s.chn = u.chn := congrArg State.BatchPart.chn h.eq
theorem Batch.est_eq (h : Batch u s) : s.est = u.est := congrArg State.BatchPart.est h.eq
theorem Batch.arr_eq (h : Batch u s) : s.arr = u.arr := congrArg State.BatchPart.arr h.eq
theorem Batch.flt_eq (h : Batch u s) : s.flt = u.flt := congrArg State.BatchPart.flt h.eq
theorem Batch.mgp_eq (h : Batch u s) : s.mgp = u.mgp := congrArg State.BatchPart.mgp h.eq
theorem Batch.sec_eq (h : Batch u s) : s.sec = u.sec := congrArg State.BatchPart.sec h.eq
theorem Batch.pwr_eq (h : Batch u s) : s.pwr = u.pwr := congrArg State.BatchPart.pwr h.eq
theorem Batch.cfg_eq (h : Batch u s) : s.cfg = u.cfg := congrArg State.BatchPart.cfg h.eq
theorem Batch.pins_eq (h : Batch u s) : s.pins = u.pins := congrArg State.BatchPart.pins h.eq
theorem Batch.shadow_eq (h : Batch u s) : s.shadow = u.shadow := congrArg State.BatchPart.shadow h.eq
theorem Batch.free_eq (h : Batch u s) : s.free = u.free := congrArg State.BatchPart.free h.eq
theorem Batch.pending_eq (h : Batch u s) : s.pending = u.pending := congrArg State.BatchPart.pending h.eq

theorem Batch.put (h : Batch u s) (a1 a2) : Batch u (State.put s a1 a2) := by
  unfold State.put
  refine Batch.wr ?_ ..
  exact h

theorem Batch.setFlag (h : Batch u s) (a1 a2) : Batch u (State.setFlag s a1 a2) := by
  unfold State.setFlag
  refine Batch.put ?_ ..
  exact h

theorem Batch.endBatch (h : Batch u s) : Batch u (State.endBatch s) := by
  unfold State.endBatch
  refine Batch.setFlag ?_ ..
  refine Batch.upd ?_ rfl rfl rfl rfl rfl rfl rfl rfl rfl rfl rfl rfl rfl rfl rfl rfl rfl rfl rfl rfl rfl rfl rfl
  exact h

theorem Batch.syncBatch (h : Batch u s) : Batch u (State.syncBatch s) := by
  unfold State.syncBatch
  refine Batch.ite (fun _ => ?_) (fun _ => ?_)
  · refine Batch.endBatch ?_ ..
    refine Batch.put ?_ ..
    exact h
  · refine Batch.put ?_ ..
    exact h

/-- What those functions may change, as a frame names it. -/
theorem Batch.within {t : State} (h : Batch s.partBatch t) : t.within s [.regs, .zfb]
  | .regs, hp => (hp (by decide)).elim
  | .time, _ => h.time_eq
  | .inp, _ => h.inp_eq
  | .wq, _ => h.wq_eq
  | .lpe, _ => h.lpe_eq
  | .hmp, _ => h.hmp_eq
  | .prf, _ => h.prf_eq
  | .site, _ => h.site_eq
  | .zfb, hp => (hp (by decide)).elim
  | .wgl, _ => h.wgl_eq
  | .lks, _ => h.lks_eq
  | .link, _ => h.link_eq
  | .chn, _ => h.chn_eq
  | .est, _ => h.est_eq
  | .arr, _ => h.arr_eq
  | .flt, _ => h.flt_eq
  | .mgp, _ => h.mgp_eq
  | .sec, _ => h.sec_eq
  | .pwr, _ => h.pwr_eq
  | .cfg, _ => h.cfg_eq
  | .pins, _ => h.pins_eq
  | .shadow, _ => h.shadow_eq
  | .free, _ => h.free_eq
  | .pending, _ => h.pending_eq

end Sys2Proof.Machine
end

