-- ==== Sys2Proof/Laws/BertK.lean ====
section
/-! SUPPORT. What a window of the bit-error test leaves alone. -/

namespace Sys2Proof.Machine

/-- The parts of the state that are kept. -/
structure State.BertKPart where
  time : TimeRt
  inp : InputRt
  wq : List PairWrite
  lpe : LpeRt
  hmp : HmpRt
  prf : PrfRt
  site : SiteRt
  zfb : ZfbRt
  wgl : WglRt
  lks : LksRt
  chn : ChnRt
  est : EstRt
  arr : ArrRt
  flt : FltRt
  pwr : PwrRt
  cfg : CfgRt
  pins : PinRt
  shadow : List (Nat × Nat × Word)
  pending : List Instr

/-- Those parts of a state. -/
def State.partBertK (s : State) : State.BertKPart :=
  ⟨s.time, s.inp, s.wq, s.lpe, s.hmp, s.prf, s.site, s.zfb, s.wgl, s.lks, s.chn, s.est, s.arr, s.flt, s.pwr, s.cfg, s.pins, s.shadow, s.pending⟩

/-- Those parts are the ones given. -/
structure BertK (u : State.BertKPart) (s : State) : Prop where
  eq : s.partBertK = u

variable {u : State.BertKPart} {s : State}

theorem BertK.upd {regs time inp wq lpe hmp prf site zfb wgl lks link chn est arr flt mgp sec pwr cfg pins shadow free pending} (h : BertK u s) (h_regs : regs = s.regs) (h_time : time = s.time) (h_inp : inp = s.inp) (h_wq : wq = s.wq) (h_lpe : lpe = s.lpe) (h_hmp : hmp = s.hmp) (h_prf : prf = s.prf) (h_site : site = s.site) (h_zfb : zfb = s.zfb) (h_wgl : wgl = s.wgl) (h_lks : lks = s.lks) (h_chn : chn = s.chn) (h_est : est = s.est) (h_arr : arr = s.arr) (h_flt : flt = s.flt) (h_pwr : pwr = s.pwr) (h_cfg : cfg = s.cfg) (h_pins : pins = s.pins) (h_shadow : shadow = s.shadow) (h_pending : pending = s.pending) :
    BertK u (State.mk regs time inp wq lpe hmp prf site zfb wgl lks link chn est arr flt mgp sec pwr cfg pins shadow free pending) := by
  subst h_regs h_time h_inp h_wq h_lpe h_hmp h_prf h_site h_zfb h_wgl h_lks h_chn h_est h_arr h_flt h_pwr h_cfg h_pins h_shadow h_pending
  exact ⟨h.eq⟩

theorem BertK.rfl' (s : State) : BertK s.partBertK s := ⟨rfl⟩

theorem BertK.ite {c : Prop} {_ : Decidable c} {a b : State} (ha : c → BertK u a) (hb : ¬c → BertK u b) : BertK u (if c then a else b) := by
  split
  · exact ha ‹_›
  · exact hb ‹_›

theorem BertK.dite {c : Prop} {_ : Decidable c} {a : c → State} {b : ¬c → State} (ha : ∀ h, BertK u (a h)) (hb : ∀ h, BertK u (b h)) :
    BertK u (if h : c then a h else b h) := by
  split
  · exact ha _
  · exact hb _

theorem BertK.iteP {α : Type} {c : Prop} {_ : Decidable c} {a b : State × α} (ha : c → BertK u a.1) (hb : ¬c → BertK u b.1) : BertK u (if c then a else b).1 := by
  split
  · exact ha ‹_›
  · exact hb ‹_›

theorem BertK.diteP {α : Type} {c : Prop} {_ : Decidable c} {a : c → State × α} {b : ¬c → State × α} (ha : ∀ h, BertK u (a h).1) (hb : ∀ h, BertK u (b h).1) :
    BertK u (if h : c then a h else b h).1 := by
  split
  · exact ha _
  · exact hb _

theorem BertK.foldl {α : Type} {l : List α} {f : State → α → State} (hf : ∀ t a, BertK u t → BertK u (f t a)) (h : BertK u s) : BertK u (l.foldl f s) := by
  induction l generalizing s with
  | nil => exact h
  | cons a l ih => exact ih (hf s a h)

theorem BertK.each {n : Nat} {f : Nat → State → State} (hf : ∀ i t, BertK u t → BertK u (f i t)) (h : BertK u s) : BertK u (State.each n f s) :=
  BertK.foldl (fun t a ht => hf a t ht) h

theorem BertK.over {α : Type} {l : List α} {f : α → State → State} (hf : ∀ i t, BertK u t → BertK u (f i t)) (h : BertK u s) : BertK u (State.over l f s) :=
  BertK.foldl (fun t a ht => hf a t ht) h

theorem BertK.iff {c : Bool} {f : State → State} (hf : ∀ t, BertK u t → BertK u (f t)) (h : BertK u s) : BertK u (State.iff c f s) := by
  unfold State.iff
  split
  · exact hf s h
  · exact h

theorem BertK.wr (h : BertK u s) (a w) : BertK u (s.wr a w) := ⟨h.eq⟩

theorem BertK.time_eq (h : BertK u s) : s.time = u.time := congrArg State.BertKPart.time h.eq
theorem BertK.inp_eq (h : BertK u s) : s.inp = u.inp := congrArg State.BertKPart.inp h.eq
theorem BertK.wq_eq (h : BertK u s) : s.wq = u.wq := congrArg State.BertKPart.wq h.eq
theorem BertK.lpe_eq (h : BertK u s) : s.lpe = u.lpe := congrArg State.BertKPart.lpe h.eq
theorem BertK.hmp_eq (h : BertK u s) : s.hmp = u.hmp := congrArg State.BertKPart.hmp h.eq
theorem BertK.prf_eq (h : BertK u s) : s.prf = u.prf := congrArg State.BertKPart.prf h.eq
theorem BertK.site_eq (h : BertK u s) : s.site = u.site := congrArg State.BertKPart.site h.eq
theorem BertK.zfb_eq (h : BertK u s) : s.zfb = u.zfb := congrArg State.BertKPart.zfb h.eq
theorem BertK.wgl_eq (h : BertK u s) : s.wgl = u.wgl := congrArg State.BertKPart.wgl h.eq
theorem BertK.lks_eq (h : BertK u s) : s.lks = u.lks := congrArg State.BertKPart.lks h.eq
theorem BertK.chn_eq (h : BertK u s) : s.chn = u.chn := congrArg State.BertKPart.chn h.eq
theorem BertK.est_eq (h : BertK u s) : s.est = u.est := congrArg State.BertKPart.est h.eq
theorem BertK.arr_eq (h : BertK u s) : s.arr = u.arr := congrArg State.BertKPart.arr h.eq
theorem BertK.flt_eq (h : BertK u s) : s.flt = u.flt := congrArg State.BertKPart.flt h.eq
theorem BertK.pwr_eq (h : BertK u s) : s.pwr = u.pwr := congrArg State.BertKPart.pwr h.eq
theorem BertK.cfg_eq (h : BertK u s) : s.cfg = u.cfg := congrArg State.BertKPart.cfg h.eq
theorem BertK.pins_eq (h : BertK u s) : s.pins = u.pins := congrArg State.BertKPart.pins h.eq
theorem BertK.shadow_eq (h : BertK u s) : s.shadow = u.shadow := congrArg State.BertKPart.shadow h.eq
theorem BertK.pending_eq (h : BertK u s) : s.pending = u.pending := congrArg State.BertKPart.pending h.eq

theorem BertK.put (h : BertK u s) (a1 a2) : BertK u (State.put s a1 a2) := by
  unfold State.put
  refine BertK.wr ?_ ..
  exact h

theorem BertK.setFlag (h : BertK u s) (a1 a2) : BertK u (State.setFlag s a1 a2) := by
  unfold State.setFlag
  refine BertK.put ?_ ..
  exact h

theorem BertK.bump (h : BertK u s) (a1) : BertK u (State.bump s a1) := by
  unfold State.bump
  refine BertK.put ?_ ..
  exact h

theorem BertK.put64 (h : BertK u s) (a1 a2 a3) : BertK u (State.put64 s a1 a2 a3) := by
  unfold State.put64
  refine BertK.wr ?_ ..
  refine BertK.wr ?_ ..
  exact h

theorem BertK.testStages (h : BertK u s) (a1 a2) : BertK u (State.testStages s a1 a2) := by
  unfold State.testStages
  refine BertK.foldl (fun _ _ ht1 => ?_) ?_
  · refine BertK.put ?_ ..
    exact ht1
  · exact h

theorem BertK.testTrays (h : BertK u s) (a1 a2) : BertK u (State.testTrays s a1 a2) := by
  unfold State.testTrays
  refine BertK.foldl (fun _ _ ht1 => ?_) ?_
  · refine BertK.put ?_ ..
    exact ht1
  · exact h

theorem BertK.testLock (h : BertK u s) (a1 a2) : BertK u (State.testLock s a1 a2) := by
  unfold State.testLock
  refine BertK.put ?_ ..
  exact h

theorem BertK.testLanes (h : BertK u s) (a1) : BertK u (State.testLanes s a1) := by
  unfold State.testLanes
  extract_lets +onlyGivenNames -merge -useContext -underBinder x1
  extract_lets +onlyGivenNames -merge -useContext -underBinder x2
  have hx2 : BertK u x2 := by
    unfold x2
    refine BertK.ite (fun _ => ?_) (fun _ => ?_)
    · refine BertK.testTrays ?_ ..
      refine BertK.testStages ?_ ..
      exact h
    · exact h
  refine BertK.ite (fun _ => ?_) (fun _ => ?_)
  · refine BertK.testLock ?_ ..
    exact hx2
  · exact hx2

theorem BertK.enterPhase (h : BertK u s) (a1) : BertK u (State.enterPhase s a1) := by
  unfold State.enterPhase
  refine BertK.upd ?_ rfl rfl rfl rfl rfl rfl rfl rfl rfl rfl rfl rfl rfl rfl rfl rfl rfl rfl rfl rfl
  exact h

theorem BertK.startPhase (h : BertK u s) (a1) : BertK u (State.startPhase s a1) := by
  unfold State.startPhase
  refine BertK.testLanes ?_ ..
  refine BertK.put ?_ ..
  refine BertK.enterPhase ?_ ..
  exact h

theorem BertK.bertGrant (h : BertK u s) (a1) : BertK u (State.bertGrant s a1) := by
  unfold State.bertGrant
  extract_lets +onlyGivenNames -merge -useContext -underBinder x1
  extract_lets +onlyGivenNames -merge -useContext -underBinder x2
  extract_lets +onlyGivenNames -merge -useContext -underBinder x3
  extract_lets +onlyGivenNames -merge -useContext -underBinder x4
  extract_lets +onlyGivenNames -merge -useContext -underBinder x5
  extract_lets +onlyGivenNames -merge -useContext -underBinder x6
  have hx6 : BertK u x6 := by
    unfold x6
    refine BertK.upd ?_ rfl rfl rfl rfl rfl rfl rfl rfl rfl rfl rfl rfl rfl rfl rfl rfl rfl rfl rfl rfl
    exact h
  refine BertK.ite (fun _ => ?_) (fun _ => ?_)
  · refine BertK.startPhase ?_ ..
    exact hx6
  · exact hx6

theorem BertK.auditRegs (h : BertK u s) : BertK u (State.auditRegs s) := by
  unfold State.auditRegs
  extract_lets +onlyGivenNames -merge -useContext -underBinder x1
  refine BertK.setFlag ?_ ..
  refine BertK.put ?_ ..
  refine BertK.put64 ?_ ..
  exact h

theorem BertK.unstage (h : BertK u s) (a1) : BertK u (State.unstage s a1) := by
  unfold State.unstage
  refine BertK.upd ?_ rfl rfl rfl rfl rfl rfl rfl rfl rfl rfl rfl rfl rfl rfl rfl rfl rfl rfl rfl rfl
  exact h

theorem BertK.auditMove (h : BertK u s) : BertK u (State.auditMove s) := by
  unfold State.auditMove
  extract_lets +onlyGivenNames -merge -useContext -underBinder x1
  extract_lets +onlyGivenNames -merge -useContext -underBinder x2
  extract_lets +onlyGivenNames -merge -useContext -underBinder x3
  extract_lets +onlyGivenNames -merge -useContext -underBinder x4
  refine BertK.auditRegs ?_ ..
  refine BertK.unstage ?_ ..
  exact h

theorem BertK.addEntry (h : BertK u s) (a1 a2) : BertK u (State.addEntry s a1 a2) := by
  unfold State.addEntry
  refine BertK.upd ?_ rfl rfl rfl rfl rfl rfl rfl rfl rfl rfl rfl rfl rfl rfl rfl rfl rfl rfl rfl rfl
  exact h

theorem BertK.audit (h : BertK u s) (a1 a2 a3 a4 a5 a6) : BertK u (State.audit s a1 a2 a3 a4 a5 a6) := by
  unfold State.audit
  extract_lets +onlyGivenNames -merge -useContext -underBinder x1
  extract_lets +onlyGivenNames -merge -useContext -underBinder x2
  have hx2 : BertK u x2 := by
    unfold x2
    refine BertK.auditRegs ?_ ..
    refine BertK.addEntry ?_ ..
    exact h
  refine BertK.ite (fun _ => ?_) (fun _ => ?_)
  · refine BertK.auditMove ?_ ..
    exact hx2
  · exact hx2

theorem BertK.sessionRegs (h : BertK u s) : BertK u (State.sessionRegs s) := by
  unfold State.sessionRegs
  extract_lets +onlyGivenNames -merge -useContext -underBinder x1
  extract_lets +onlyGivenNames -merge -useContext -underBinder x2
  have hx2 : BertK u x2 := by
    unfold x2
    refine BertK.each (fun _ _ ht3 => ?_) ?_
    · refine BertK.put ?_ ..
      exact ht3
    · exact h
  refine BertK.put ?_ ..
  refine BertK.put ?_ ..
  refine BertK.put ?_ ..
  exact hx2

theorem BertK.semRegs (h : BertK u s) : BertK u (State.semRegs s) := by
  unfold State.semRegs
  split
  · refine BertK.put ?_ ..
    refine BertK.put ?_ ..
    refine BertK.put ?_ ..
    refine BertK.setFlag ?_ ..
    exact h
  · extract_lets +onlyGivenNames -merge -useContext -underBinder x1
    refine BertK.put ?_ ..
    refine BertK.put ?_ ..
    refine BertK.put ?_ ..
    refine BertK.setFlag ?_ ..
    exact h

theorem BertK.setSem (h : BertK u s) (a1) : BertK u (State.setSem s a1) := by
  unfold State.setSem
  refine BertK.upd ?_ rfl rfl rfl rfl rfl rfl rfl rfl rfl rfl rfl rfl rfl rfl rfl rfl rfl rfl rfl rfl
  exact h

theorem BertK.semFree (h : BertK u s) : BertK u (State.semFree s) := by
  unfold State.semFree
  refine BertK.semRegs ?_ ..
  refine BertK.setSem ?_ ..
  exact h

theorem BertK.dropSession (h : BertK u s) (a1 a2) : BertK u (State.dropSession s a1 a2) := by
  unfold State.dropSession
  refine BertK.upd ?_ rfl rfl rfl rfl rfl rfl rfl rfl rfl rfl rfl rfl rfl rfl rfl rfl rfl rfl rfl rfl
  exact h

theorem BertK.endSession (h : BertK u s) (a1 a2) : BertK u (State.endSession s a1 a2) := by
  unfold State.endSession
  split
  · exact h
  · extract_lets +onlyGivenNames -merge -useContext -underBinder x1
    have hx1 : BertK u x1 := by
      unfold x1
      refine BertK.ite (fun _ => ?_) (fun _ => ?_)
      · refine BertK.semFree ?_ ..
        exact h
      · exact h
    extract_lets +onlyGivenNames -merge -useContext -underBinder x2
    have hx2 : BertK u x2 := by
      unfold x2
      refine BertK.dropSession ?_ ..
      exact hx1
    refine BertK.sessionRegs ?_ ..
    refine BertK.audit ?_ ..
    exact hx2

theorem BertK.setSession (h : BertK u s) (a1 a2 a3) : BertK u (State.setSession s a1 a2 a3) := by
  unfold State.setSession
  refine BertK.upd ?_ rfl rfl rfl rfl rfl rfl rfl rfl rfl rfl rfl rfl rfl rfl rfl rfl rfl rfl rfl rfl
  exact h

theorem BertK.sendNow (h : BertK u s) (a1 a2) : BertK u (State.sendNow s a1 a2) := by
  unfold State.sendNow
  refine BertK.upd ?_ rfl rfl rfl rfl rfl rfl rfl rfl rfl rfl rfl rfl rfl rfl rfl rfl rfl rfl rfl rfl
  exact h

theorem BertK.countReply (h : BertK u s) (a1 a2) : BertK u (State.countReply s a1 a2) := by
  unfold State.countReply
  refine BertK.ite (fun _ => ?_) (fun _ => ?_)
  · refine BertK.ite (fun _ => ?_) (fun _ => ?_)
    · refine BertK.bump ?_ ..
      exact h
    · refine BertK.ite (fun _ => ?_) (fun _ => ?_)
      · refine BertK.bump ?_ ..
        exact h
      · exact h
  · exact h

theorem BertK.keepReply (h : BertK u s) (a1 a2) : BertK u (State.keepReply s a1 a2) := by
  unfold State.keepReply
  refine BertK.setSession ?_ ..
  exact h

theorem BertK.send (h : BertK u s) (a1 a2 a3) : BertK u (State.send s a1 a2 a3) := by
  unfold State.send
  extract_lets +onlyGivenNames -merge -useContext -underBinder x1
  extract_lets +onlyGivenNames -merge -useContext -underBinder x2
  have hx2 : BertK u x2 := by
    unfold x2
    refine BertK.countReply ?_ ..
    refine BertK.sendNow ?_ ..
    exact h
  extract_lets +onlyGivenNames -merge -useContext -underBinder x3
  have hx3 : BertK u x3 := by
    unfold x3
    refine BertK.ite (fun _ => ?_) (fun _ => ?_)
    · refine BertK.keepReply ?_ ..
      exact hx2
    · exact hx2
  refine BertK.ite (fun _ => ?_) (fun _ => ?_)
  · refine BertK.endSession ?_ ..
    exact hx3
  · exact hx3

theorem BertK.answer (h : BertK u s) (a1 a2 a3 a4 a5 a6) : BertK u (State.answer s a1 a2 a3 a4 a5 a6) := by
  unfold State.answer
  extract_lets +onlyGivenNames -merge -useContext -underBinder x1
  extract_lets +onlyGivenNames -merge -useContext -underBinder x2
  have hx2 : BertK u x2 := by
    unfold x2
    refine BertK.ite (fun _ => ?_) (fun _ => ?_)
    · refine BertK.audit ?_ ..
      exact h
    · exact h
  refine BertK.send ?_ ..
  exact hx2

theorem BertK.okWith (h : BertK u s) (a1 a2 a3 a4) : BertK u (State.okWith s a1 a2 a3 a4) := by
  unfold State.okWith
  refine BertK.answer ?_ ..
  exact h

theorem BertK.bertWindowRun (h : BertK u s) (a1 a2) : BertK u (State.bertWindowRun s a1 a2) := by
  unfold State.bertWindowRun
  refine BertK.ite (fun _ => ?_) (fun _ => ?_)
  · refine BertK.answer ?_ ..
    exact h
  · extract_lets +onlyGivenNames -merge -useContext -underBinder x1
    extract_lets +onlyGivenNames -merge -useContext -underBinder x2
    have hx2 : BertK u x2 := by
      unfold x2
      refine BertK.bertGrant ?_ ..
      exact h
    extract_lets +onlyGivenNames -merge -useContext -underBinder x3
    refine BertK.okWith ?_ ..
    exact hx2

/-- What those functions may change, as a frame names it. -/
theorem BertK.within {t : State} (h : BertK s.partBertK t) : t.within s [.regs, .link, .mgp, .sec, .free]
  | .regs, hp => (hp (by decide)).elim
  | .time, _ => h.time_eq
  | .inp, _ => h.inp_eq
  | .wq, _ => h.wq_eq
  | .lpe, _ => h.lpe_eq
  | .hmp, _ => h.hmp_eq
  | .prf, _ => h.prf_eq
  | .site, _ => h.site_eq
  | .zfb, _ => h.zfb_eq
  | .wgl, _ => h.wgl_eq
  | .lks, _ => h.lks_eq
  | .link, hp => (hp (by decide)).elim
  | .chn, _ => h.chn_eq
  | .est, _ => h.est_eq
  | .arr, _ => h.arr_eq
  | .flt, _ => h.flt_eq
  | .mgp, hp => (hp (by decide)).elim
  | .sec, hp => (hp (by decide)).elim
  | .pwr, _ => h.pwr_eq
  | .cfg, _ => h.cfg_eq
  | .pins, _ => h.pins_eq
  | .shadow, _ => h.shadow_eq
  | .free, hp => (hp (by decide)).elim
  | .pending, _ => h.pending_eq

end Sys2Proof.Machine
end

