-- ==== Sys2Proof/Laws/BskK.lean ====
section
/-! SUPPORT. What the requests of a basket leave alone. -/

namespace Sys2Proof.Machine

/-- The parts of the state that are kept. -/
structure State.BskKPart where
  time : TimeRt
  inp : InputRt
  wq : List PairWrite
  lpe : LpeRt
  hmp : HmpRt
  prf : PrfRt
  site : SiteRt
  zfb : ZfbRt
  wgl : WglRt
  lks : LksRt
  link : LinkRt
  chn : ChnRt
  est : EstRt
  flt : FltRt
  pwr : PwrRt
  cfg : CfgRt
  pins : PinRt
  shadow : List (Nat × Nat × Word)
  pending : List Instr

/-- Those parts of a state. -/
def State.partBskK (s : State) : State.BskKPart :=
  ⟨s.time, s.inp, s.wq, s.lpe, s.hmp, s.prf, s.site, s.zfb, s.wgl, s.lks, s.link, s.chn, s.est, s.flt, s.pwr, s.cfg, s.pins, s.shadow, s.pending⟩

/-- Those parts are the ones given. -/
structure BskK (u : State.BskKPart) (s : State) : Prop where
  eq : s.partBskK = u

variable {u : State.BskKPart} {s : State}

theorem BskK.upd {regs time inp wq lpe hmp prf site zfb wgl lks link chn est arr flt mgp sec pwr cfg pins shadow free pending} (h : BskK u s) (h_regs : regs = s.regs) (h_time : time = s.time) (h_inp : inp = s.inp) (h_wq : wq = s.wq) (h_lpe : lpe = s.lpe) (h_hmp : hmp = s.hmp) (h_prf : prf = s.prf) (h_site : site = s.site) (h_zfb : zfb = s.zfb) (h_wgl : wgl = s.wgl) (h_lks : lks = s.lks) (h_link : link = s.link) (h_chn : chn = s.chn) (h_est : est = s.est) (h_flt : flt = s.flt) (h_pwr : pwr = s.pwr) (h_cfg : cfg = s.cfg) (h_pins : pins = s.pins) (h_shadow : shadow = s.shadow) (h_pending : pending = s.pending) :
    BskK u (State.mk regs time inp wq lpe hmp prf site zfb wgl lks link chn est arr flt mgp sec pwr cfg pins shadow free pending) := by
  subst h_regs h_time h_inp h_wq h_lpe h_hmp h_prf h_site h_zfb h_wgl h_lks h_link h_chn h_est h_flt h_pwr h_cfg h_pins h_shadow h_pending
  exact ⟨h.eq⟩

theorem BskK.rfl' (s : State) : BskK s.partBskK s := ⟨rfl⟩

theorem BskK.ite {c : Prop} {_ : Decidable c} {a b : State} (ha : c → BskK u a) (hb : ¬c → BskK u b) : BskK u (if c then a else b) := by
  split
  · exact ha ‹_›
  · exact hb ‹_›

theorem BskK.dite {c : Prop} {_ : Decidable c} {a : c → State} {b : ¬c → State} (ha : ∀ h, BskK u (a h)) (hb : ∀ h, BskK u (b h)) :
    BskK u (if h : c then a h else b h) := by
  split
  · exact ha _
  · exact hb _

theorem BskK.iteP {α : Type} {c : Prop} {_ : Decidable c} {a b : State × α} (ha : c → BskK u a.1) (hb : ¬c → BskK u b.1) : BskK u (if c then a else b).1 := by
  split
  · exact ha ‹_›
  · exact hb ‹_›

theorem BskK.diteP {α : Type} {c : Prop} {_ : Decidable c} {a : c → State × α} {b : ¬c → State × α} (ha : ∀ h, BskK u (a h).1) (hb : ∀ h, BskK u (b h).1) :
    BskK u (if h : c then a h else b h).1 := by
  split
  · exact ha _
  · exact hb _

theorem BskK.foldl {α : Type} {l : List α} {f : State → α → State} (hf : ∀ t a, BskK u t → BskK u (f t a)) (h : BskK u s) : BskK u (l.foldl f s) := by
  induction l generalizing s with
  | nil => exact h
  | cons a l ih => exact ih (hf s a h)

theorem BskK.each {n : Nat} {f : Nat → State → State} (hf : ∀ i t, BskK u t → BskK u (f i t)) (h : BskK u s) : BskK u (State.each n f s) :=
  BskK.foldl (fun t a ht => hf a t ht) h

theorem BskK.over {α : Type} {l : List α} {f : α → State → State} (hf : ∀ i t, BskK u t → BskK u (f i t)) (h : BskK u s) : BskK u (State.over l f s) :=
  BskK.foldl (fun t a ht => hf a t ht) h

theorem BskK.iff {c : Bool} {f : State → State} (hf : ∀ t, BskK u t → BskK u (f t)) (h : BskK u s) : BskK u (State.iff c f s) := by
  unfold State.iff
  split
  · exact hf s h
  · exact h

theorem BskK.wr (h : BskK u s) (a w) : BskK u (s.wr a w) := ⟨h.eq⟩

theorem BskK.time_eq (h : BskK u s) : s.time = u.time := congrArg State.BskKPart.time h.eq
theorem BskK.inp_eq (h : BskK u s) : s.inp = u.inp := congrArg State.BskKPart.inp h.eq
theorem BskK.wq_eq (h : BskK u s) : s.wq = u.wq := congrArg State.BskKPart.wq h.eq
theorem BskK.lpe_eq (h : BskK u s) : s.lpe = u.lpe := congrArg State.BskKPart.lpe h.eq
theorem BskK.hmp_eq (h : BskK u s) : s.hmp = u.hmp := congrArg State.BskKPart.hmp h.eq
theorem BskK.prf_eq (h : BskK u s) : s.prf = u.prf := congrArg State.BskKPart.prf h.eq
theorem BskK.site_eq (h : BskK u s) : s.site = u.site := congrArg State.BskKPart.site h.eq
theorem BskK.zfb_eq (h : BskK u s) : s.zfb = u.zfb := congrArg State.BskKPart.zfb h.eq
theorem BskK.wgl_eq (h : BskK u s) : s.wgl = u.wgl := congrArg State.BskKPart.wgl h.eq
theorem BskK.lks_eq (h : BskK u s) : s.lks = u.lks := congrArg State.BskKPart.lks h.eq
theorem BskK.link_eq (h : BskK u s) : s.link = u.link := congrArg State.BskKPart.link h.eq
theorem BskK.chn_eq (h : BskK u s) : s.chn = u.chn := congrArg State.BskKPart.chn h.eq
theorem BskK.est_eq (h : BskK u s) : s.est = u.est := congrArg State.BskKPart.est h.eq
theorem BskK.flt_eq (h : BskK u s) : s.flt = u.flt := congrArg State.BskKPart.flt h.eq
theorem BskK.pwr_eq (h : BskK u s) : s.pwr = u.pwr := congrArg State.BskKPart.pwr h.eq
theorem BskK.cfg_eq (h : BskK u s) : s.cfg = u.cfg := congrArg State.BskKPart.cfg h.eq
theorem BskK.pins_eq (h : BskK u s) : s.pins = u.pins := congrArg State.BskKPart.pins h.eq
theorem BskK.shadow_eq (h : BskK u s) : s.shadow = u.shadow := congrArg State.BskKPart.shadow h.eq
theorem BskK.pending_eq (h : BskK u s) : s.pending = u.pending := congrArg State.BskKPart.pending h.eq

theorem BskK.put (h : BskK u s) (a1 a2) : BskK u (State.put s a1 a2) := by
  unfold State.put
  refine BskK.wr ?_ ..
  exact h

theorem BskK.setFlag (h : BskK u s) (a1 a2) : BskK u (State.setFlag s a1 a2) := by
  unfold State.setFlag
  refine BskK.put ?_ ..
  exact h

theorem BskK.bump (h : BskK u s) (a1) : BskK u (State.bump s a1) := by
  unfold State.bump
  refine BskK.put ?_ ..
  exact h

theorem BskK.put64 (h : BskK u s) (a1 a2 a3) : BskK u (State.put64 s a1 a2 a3) := by
  unfold State.put64
  refine BskK.wr ?_ ..
  refine BskK.wr ?_ ..
  exact h

theorem BskK.setSlot (h : BskK u s) (a1 a2) : BskK u (State.setSlot s a1 a2) := by
  unfold State.setSlot
  refine BskK.upd ?_ rfl rfl rfl rfl rfl rfl rfl rfl rfl rfl rfl rfl rfl rfl rfl rfl rfl rfl rfl rfl
  exact h

theorem BskK.refuseMdl (h : BskK u s) (a1 a2) : BskK u (State.refuseMdl s a1 a2) := by
  unfold State.refuseMdl
  refine BskK.put ?_ ..
  refine BskK.put ?_ ..
  exact h

theorem BskK.requestBind (h : BskK u s) (a1 a2 a3 a4) : BskK u (State.requestBind s a1 a2 a3 a4) := by
  unfold State.requestBind
  split
  · refine BskK.refuseMdl ?_ ..
    exact h
  · refine BskK.upd ?_ rfl rfl rfl rfl rfl rfl rfl rfl rfl rfl rfl rfl rfl rfl rfl rfl rfl rfl rfl rfl
    exact h

theorem BskK.requestEvict (h : BskK u s) (a1) : BskK u (State.requestEvict s a1) := by
  unfold State.requestEvict
  refine BskK.ite (fun _ => ?_) (fun _ => ?_)
  · refine BskK.upd ?_ rfl rfl rfl rfl rfl rfl rfl rfl rfl rfl rfl rfl rfl rfl rfl rfl rfl rfl rfl rfl
    exact h
  · refine BskK.refuseMdl ?_ ..
    exact h

theorem BskK.auditRegs (h : BskK u s) : BskK u (State.auditRegs s) := by
  unfold State.auditRegs
  extract_lets +onlyGivenNames -merge -useContext -underBinder x1
  refine BskK.setFlag ?_ ..
  refine BskK.put ?_ ..
  refine BskK.put64 ?_ ..
  exact h

theorem BskK.unstage (h : BskK u s) (a1) : BskK u (State.unstage s a1) := by
  unfold State.unstage
  refine BskK.upd ?_ rfl rfl rfl rfl rfl rfl rfl rfl rfl rfl rfl rfl rfl rfl rfl rfl rfl rfl rfl rfl
  exact h

theorem BskK.auditMove (h : BskK u s) : BskK u (State.auditMove s) := by
  unfold State.auditMove
  extract_lets +onlyGivenNames -merge -useContext -underBinder x1
  extract_lets +onlyGivenNames -merge -useContext -underBinder x2
  extract_lets +onlyGivenNames -merge -useContext -underBinder x3
  extract_lets +onlyGivenNames -merge -useContext -underBinder x4
  refine BskK.auditRegs ?_ ..
  refine BskK.unstage ?_ ..
  exact h

theorem BskK.addEntry (h : BskK u s) (a1 a2) : BskK u (State.addEntry s a1 a2) := by
  unfold State.addEntry
  refine BskK.upd ?_ rfl rfl rfl rfl rfl rfl rfl rfl rfl rfl rfl rfl rfl rfl rfl rfl rfl rfl rfl rfl
  exact h

theorem BskK.audit (h : BskK u s) (a1 a2 a3 a4 a5 a6) : BskK u (State.audit s a1 a2 a3 a4 a5 a6) := by
  unfold State.audit
  extract_lets +onlyGivenNames -merge -useContext -underBinder x1
  extract_lets +onlyGivenNames -merge -useContext -underBinder x2
  have hx2 : BskK u x2 := by
    unfold x2
    refine BskK.auditRegs ?_ ..
    refine BskK.addEntry ?_ ..
    exact h
  refine BskK.ite (fun _ => ?_) (fun _ => ?_)
  · refine BskK.auditMove ?_ ..
    exact hx2
  · exact hx2

theorem BskK.sessionRegs (h : BskK u s) : BskK u (State.sessionRegs s) := by
  unfold State.sessionRegs
  extract_lets +onlyGivenNames -merge -useContext -underBinder x1
  extract_lets +onlyGivenNames -merge -useContext -underBinder x2
  have hx2 : BskK u x2 := by
    unfold x2
    refine BskK.each (fun _ _ ht3 => ?_) ?_
    · refine BskK.put ?_ ..
      exact ht3
    · exact h
  refine BskK.put ?_ ..
  refine BskK.put ?_ ..
  refine BskK.put ?_ ..
  exact hx2

theorem BskK.semRegs (h : BskK u s) : BskK u (State.semRegs s) := by
  unfold State.semRegs
  split
  · refine BskK.put ?_ ..
    refine BskK.put ?_ ..
    refine BskK.put ?_ ..
    refine BskK.setFlag ?_ ..
    exact h
  · extract_lets +onlyGivenNames -merge -useContext -underBinder x1
    refine BskK.put ?_ ..
    refine BskK.put ?_ ..
    refine BskK.put ?_ ..
    refine BskK.setFlag ?_ ..
    exact h

theorem BskK.setSem (h : BskK u s) (a1) : BskK u (State.setSem s a1) := by
  unfold State.setSem
  refine BskK.upd ?_ rfl rfl rfl rfl rfl rfl rfl rfl rfl rfl rfl rfl rfl rfl rfl rfl rfl rfl rfl rfl
  exact h

theorem BskK.semFree (h : BskK u s) : BskK u (State.semFree s) := by
  unfold State.semFree
  refine BskK.semRegs ?_ ..
  refine BskK.setSem ?_ ..
  exact h

theorem BskK.dropSession (h : BskK u s) (a1 a2) : BskK u (State.dropSession s a1 a2) := by
  unfold State.dropSession
  refine BskK.upd ?_ rfl rfl rfl rfl rfl rfl rfl rfl rfl rfl rfl rfl rfl rfl rfl rfl rfl rfl rfl rfl
  exact h

theorem BskK.endSession (h : BskK u s) (a1 a2) : BskK u (State.endSession s a1 a2) := by
  unfold State.endSession
  split
  · exact h
  · extract_lets +onlyGivenNames -merge -useContext -underBinder x1
    have hx1 : BskK u x1 := by
      unfold x1
      refine BskK.ite (fun _ => ?_) (fun _ => ?_)
      · refine BskK.semFree ?_ ..
        exact h
      · exact h
    extract_lets +onlyGivenNames -merge -useContext -underBinder x2
    have hx2 : BskK u x2 := by
      unfold x2
      refine BskK.dropSession ?_ ..
      exact hx1
    refine BskK.sessionRegs ?_ ..
    refine BskK.audit ?_ ..
    exact hx2

theorem BskK.setSession (h : BskK u s) (a1 a2 a3) : BskK u (State.setSession s a1 a2 a3) := by
  unfold State.setSession
  refine BskK.upd ?_ rfl rfl rfl rfl rfl rfl rfl rfl rfl rfl rfl rfl rfl rfl rfl rfl rfl rfl rfl rfl
  exact h

theorem BskK.windowRegs (h : BskK u s) : BskK u (State.windowRegs s) := by
  unfold State.windowRegs
  refine BskK.each (fun _ _ ht1 => ?_) ?_
  · refine BskK.put ?_ ..
    exact ht1
  · exact h

theorem BskK.sendNow (h : BskK u s) (a1 a2) : BskK u (State.sendNow s a1 a2) := by
  unfold State.sendNow
  refine BskK.upd ?_ rfl rfl rfl rfl rfl rfl rfl rfl rfl rfl rfl rfl rfl rfl rfl rfl rfl rfl rfl rfl
  exact h

theorem BskK.countReply (h : BskK u s) (a1 a2) : BskK u (State.countReply s a1 a2) := by
  unfold State.countReply
  refine BskK.ite (fun _ => ?_) (fun _ => ?_)
  · refine BskK.ite (fun _ => ?_) (fun _ => ?_)
    · refine BskK.bump ?_ ..
      exact h
    · refine BskK.ite (fun _ => ?_) (fun _ => ?_)
      · refine BskK.bump ?_ ..
        exact h
      · exact h
  · exact h

theorem BskK.keepReply (h : BskK u s) (a1 a2) : BskK u (State.keepReply s a1 a2) := by
  unfold State.keepReply
  refine BskK.setSession ?_ ..
  exact h

theorem BskK.send (h : BskK u s) (a1 a2 a3) : BskK u (State.send s a1 a2 a3) := by
  unfold State.send
  extract_lets +onlyGivenNames -merge -useContext -underBinder x1
  extract_lets +onlyGivenNames -merge -useContext -underBinder x2
  have hx2 : BskK u x2 := by
    unfold x2
    refine BskK.countReply ?_ ..
    refine BskK.sendNow ?_ ..
    exact h
  extract_lets +onlyGivenNames -merge -useContext -underBinder x3
  have hx3 : BskK u x3 := by
    unfold x3
    refine BskK.ite (fun _ => ?_) (fun _ => ?_)
    · refine BskK.keepReply ?_ ..
      exact hx2
    · exact hx2
  refine BskK.ite (fun _ => ?_) (fun _ => ?_)
  · refine BskK.endSession ?_ ..
    exact hx3
  · exact hx3

theorem BskK.answer (h : BskK u s) (a1 a2 a3 a4 a5 a6) : BskK u (State.answer s a1 a2 a3 a4 a5 a6) := by
  unfold State.answer
  extract_lets +onlyGivenNames -merge -useContext -underBinder x1
  extract_lets +onlyGivenNames -merge -useContext -underBinder x2
  have hx2 : BskK u x2 := by
    unfold x2
    refine BskK.ite (fun _ => ?_) (fun _ => ?_)
    · refine BskK.audit ?_ ..
      exact h
    · exact h
  refine BskK.send ?_ ..
  exact hx2

theorem BskK.okWith (h : BskK u s) (a1 a2 a3 a4) : BskK u (State.okWith s a1 a2 a3 a4) := by
  unfold State.okWith
  refine BskK.answer ?_ ..
  exact h

theorem BskK.okAsync (h : BskK u s) (a1 a2 a3) : BskK u (State.okAsync s a1 a2 a3) := by
  unfold State.okAsync
  extract_lets +onlyGivenNames -merge -useContext -underBinder x1
  extract_lets +onlyGivenNames -merge -useContext -underBinder x2
  have hx2 : BskK u x2 := by
    unfold x2
    refine BskK.ite (fun _ => ?_) (fun _ => ?_)
    · refine BskK.audit ?_ ..
      exact h
    · exact h
  refine BskK.send ?_ ..
  exact hx2

theorem BskK.later (h : BskK u s) (a1 a2 a3 a4 a5 a6) : BskK u (State.later s a1 a2 a3 a4 a5 a6) := by
  unfold State.later
  extract_lets +onlyGivenNames -merge -useContext -underBinder x1
  refine BskK.windowRegs ?_ ..
  refine BskK.upd ?_ rfl rfl rfl rfl rfl rfl rfl rfl rfl rfl rfl rfl rfl rfl rfl rfl rfl rfl rfl rfl
  exact h

theorem BskK.basketStoreRun (h : BskK u s) (a1 a2) : BskK u (State.basketStoreRun s a1 a2) := by
  unfold State.basketStoreRun
  refine BskK.dite (fun _ => ?_) (fun _ => ?_)
  · extract_lets +onlyGivenNames -merge -useContext -underBinder x1
    extract_lets +onlyGivenNames -merge -useContext -underBinder x2
    refine BskK.ite (fun _ => ?_) (fun _ => ?_)
    · refine BskK.answer ?_ ..
      refine BskK.refuseMdl ?_ ..
      exact h
    · extract_lets +onlyGivenNames -merge -useContext -underBinder x3
      extract_lets +onlyGivenNames -merge -useContext -underBinder x4
      extract_lets +onlyGivenNames -merge -useContext -underBinder x5
      have hx5 : BskK u x5 := by
        unfold x5
        refine BskK.setSlot ?_ ..
        exact h
      refine BskK.ite (fun _ => ?_) (fun _ => ?_)
      · refine BskK.okAsync ?_ ..
        exact hx5
      · refine BskK.okWith ?_ ..
        exact hx5
  · exact h

theorem BskK.admitCmd (h : BskK u s) (a1 a2 a3 a4 a5) : BskK u (State.admitCmd s a1 a2 a3 a4 a5) := by
  unfold State.admitCmd
  refine BskK.dite (fun _ => ?_) (fun _ => ?_)
  · extract_lets +onlyGivenNames -merge -useContext -underBinder x1
    extract_lets +onlyGivenNames -merge -useContext -underBinder x2
    extract_lets +onlyGivenNames -merge -useContext -underBinder x3
    have hx3 : BskK u x3 := by
      unfold x3
      refine BskK.requestBind ?_ ..
      exact h
    refine BskK.ite (fun _ => ?_) (fun _ => ?_)
    · refine BskK.answer ?_ ..
      exact hx3
    · refine BskK.later ?_ ..
      exact hx3
  · exact h

theorem BskK.basketAdmitRun (h : BskK u s) (a1 a2) : BskK u (State.basketAdmitRun s a1 a2) := by
  unfold State.basketAdmitRun
  refine BskK.admitCmd ?_ ..
  exact h

theorem BskK.basketVariantRun (h : BskK u s) (a1 a2) : BskK u (State.basketVariantRun s a1 a2) := by
  unfold State.basketVariantRun
  refine BskK.admitCmd ?_ ..
  exact h

theorem BskK.basketEvictRun (h : BskK u s) (a1 a2) : BskK u (State.basketEvictRun s a1 a2) := by
  unfold State.basketEvictRun
  refine BskK.dite (fun _ => ?_) (fun _ => ?_)
  · extract_lets +onlyGivenNames -merge -useContext -underBinder x1
    extract_lets +onlyGivenNames -merge -useContext -underBinder x2
    extract_lets +onlyGivenNames -merge -useContext -underBinder x3
    have hx3 : BskK u x3 := by
      unfold x3
      refine BskK.requestEvict ?_ ..
      exact h
    refine BskK.ite (fun _ => ?_) (fun _ => ?_)
    · refine BskK.answer ?_ ..
      exact hx3
    · refine BskK.later ?_ ..
      exact hx3
  · exact h

/-- What those functions may change, as a frame names it. -/
theorem BskK.within {t : State} (h : BskK s.partBskK t) : t.within s [.regs, .arr, .mgp, .sec, .free]
  | .regs, hp => (hp (by decide)).elim
  | .time, _ => h.time_eq
  | .inp, _ => h.inp_eq
  | .wq, _ => h.wq_eq
  | .lpe, _ => h.lpe_eq
  | .hmp, _ => h.hmp_eq
  | .prf, _ => h.prf_eq
  | .site, _ => h.site_eq
  | .zfb, _ => h.zfb_eq
  | .wgl, _ => h.wgl_eq
  | .lks, _ => h.lks_eq
  | .link, _ => h.link_eq
  | .chn, _ => h.chn_eq
  | .est, _ => h.est_eq
  | .arr, hp => (hp (by decide)).elim
  | .flt, _ => h.flt_eq
  | .mgp, hp => (hp (by decide)).elim
  | .sec, hp => (hp (by decide)).elim
  | .pwr, _ => h.pwr_eq
  | .cfg, _ => h.cfg_eq
  | .pins, _ => h.pins_eq
  | .shadow, _ => h.shadow_eq
  | .free, hp => (hp (by decide)).elim
  | .pending, _ => h.pending_eq

end Sys2Proof.Machine
end

