-- ==== Sys2Proof/Laws/BufK.lean ====
section
/-! SUPPORT. What a feed-forward buffer and its CRC leave alone. -/

namespace Sys2Proof.Machine

/-- The parts of the state that are kept. -/
structure State.BufKPart where
  time : TimeRt
  inp : InputRt
  wq : List PairWrite
  lpe : LpeRt
  hmp : HmpRt
  prf : PrfRt
  site : SiteRt
  zfb : ZfbRt
  wgl : WglRt
  lks : LksRt
  link : LinkRt
  chn : ChnRt
  est : EstRt
  arr : ArrRt
  flt : FltRt
  mgp : MgpRt
  sec : SecRt
  pwr : PwrRt
  cfg : CfgRt
  pins : PinRt
  shadow : List (Nat × Nat × Word)
  free : Nat
  pending : List Instr

/-- Those parts of a state. -/
def State.partBufK (s : State) : State.BufKPart :=
  ⟨s.time, s.inp, s.wq, s.lpe, s.hmp, s.prf, s.site, s.zfb, s.wgl, s.lks, s.link, s.chn, s.est, s.arr, s.flt, s.mgp, s.sec, s.pwr, s.cfg, s.pins, s.shadow, s.free, s.pending⟩

/-- Those parts are the ones given. -/
structure BufK (u : State.BufKPart) (s : State) : Prop where
  eq : s.partBufK = u

variable {u : State.BufKPart} {s : State}

theorem BufK.upd {regs time inp wq lpe hmp prf site zfb wgl lks link chn est arr flt mgp sec pwr cfg pins shadow free pending} (h : BufK u s) (h_regs : regs = s.regs) (h_time : time = s.time) (h_inp : inp = s.inp) (h_wq : wq = s.wq) (h_lpe : lpe = s.lpe) (h_hmp : hmp = s.hmp) (h_prf : prf = s.prf) (h_site : site = s.site) (h_zfb : zfb = s.zfb) (h_wgl : wgl = s.wgl) (h_lks : lks = s.lks) (h_link : link = s.link) (h_chn : chn = s.chn) (h_est : est = s.est) (h_arr : arr = s.arr) (h_flt : flt = s.flt) (h_mgp : mgp = s.mgp) (h_sec : sec = s.sec) (h_pwr : pwr = s.pwr) (h_cfg : cfg = s.cfg) (h_pins : pins = s.pins) (h_shadow : shadow = s.shadow) (h_free : free = s.free) (h_pending : pending = s.pending) :
    BufK u (State.mk regs time inp wq lpe hmp prf site zfb wgl lks link chn est arr flt mgp sec pwr cfg pins shadow free pending) := by
  subst h_regs h_time h_inp h_wq h_lpe h_hmp h_prf h_site h_zfb h_wgl h_lks h_link h_chn h_est h_arr h_flt h_mgp h_sec h_pwr h_cfg h_pins h_shadow h_free h_pending
  exact ⟨h.eq⟩

theorem BufK.rfl' (s : State) : BufK s.partBufK s := ⟨rfl⟩

theorem BufK.ite {c : Prop} {_ : Decidable c} {a b : State} (ha : c → BufK u a) (hb : ¬c → BufK u b) : BufK u (if c then a else b) := by
  split
  · exact ha ‹_›
  · exact hb ‹_›

theorem BufK.dite {c : Prop} {_ : Decidable c} {a : c → State} {b : ¬c → State} (ha : ∀ h, BufK u (a h)) (hb : ∀ h, BufK u (b h)) :
    BufK u (if h : c then a h else b h) := by
  split
  · exact ha _
  · exact hb _

theorem BufK.iteP {α : Type} {c : Prop} {_ : Decidable c} {a b : State × α} (ha : c → BufK u a.1) (hb : ¬c → BufK u b.1) : BufK u (if c then a else b).1 := by
  split
  · exact ha ‹_›
  · exact hb ‹_›

theorem BufK.diteP {α : Type} {c : Prop} {_ : Decidable c} {a : c → State × α} {b : ¬c → State × α} (ha : ∀ h, BufK u (a h).1) (hb : ∀ h, BufK u (b h).1) :
    BufK u (if h : c then a h else b h).1 := by
  split
  · exact ha _
  · exact hb _

theorem BufK.foldl {α : Type} {l : List α} {f : State → α → State} (hf : ∀ t a, BufK u t → BufK u (f t a)) (h : BufK u s) : BufK u (l.foldl f s) := by
  induction l generalizing s with
  | nil => exact h
  | cons a l ih => exact ih (hf s a h)

theorem BufK.each {n : Nat} {f : Nat → State → State} (hf : ∀ i t, BufK u t → BufK u (f i t)) (h : BufK u s) : BufK u (State.each n f s) :=
  BufK.foldl (fun t a ht => hf a t ht) h

theorem BufK.over {α : Type} {l : List α} {f : α → State → State} (hf : ∀ i t, BufK u t → BufK u (f i t)) (h : BufK u s) : BufK u (State.over l f s) :=
  BufK.foldl (fun t a ht => hf a t ht) h

theorem BufK.iff {c : Bool} {f : State → State} (hf : ∀ t, BufK u t → BufK u (f t)) (h : BufK u s) : BufK u (State.iff c f s) := by
  unfold State.iff
  split
  · exact hf s h
  · exact h

theorem BufK.wr (h : BufK u s) (a w) : BufK u (s.wr a w) := ⟨h.eq⟩

theorem BufK.time_eq (h : BufK u s) : s.time = u.time := congrArg State.BufKPart.time h.eq
theorem BufK.inp_eq (h : BufK u s) : s.inp = u.inp := congrArg State.BufKPart.inp h.eq
theorem BufK.wq_eq (h : BufK u s) : s.wq = u.wq := congrArg State.BufKPart.wq h.eq
theorem BufK.lpe_eq (h : BufK u s) : s.lpe = u.lpe := congrArg State.BufKPart.lpe h.eq
theorem BufK.hmp_eq (h : BufK u s) : s.hmp = u.hmp := congrArg State.BufKPart.hmp h.eq
theorem BufK.prf_eq (h : BufK u s) : s.prf = u.prf := congrArg State.BufKPart.prf h.eq
theorem BufK.site_eq (h : BufK u s) : s.site = u.site := congrArg State.BufKPart.site h.eq
theorem BufK.zfb_eq (h : BufK u s) : s.zfb = u.zfb := congrArg State.BufKPart.zfb h.eq
theorem BufK.wgl_eq (h : BufK u s) : s.wgl = u.wgl := congrArg State.BufKPart.wgl h.eq
theorem BufK.lks_eq (h : BufK u s) : s.lks = u.lks := congrArg State.BufKPart.lks h.eq
theorem BufK.link_eq (h : BufK u s) : s.link = u.link := congrArg State.BufKPart.link h.eq
theorem BufK.chn_eq (h : BufK u s) : s.chn = u.chn := congrArg State.BufKPart.chn h.eq
theorem BufK.est_eq (h : BufK u s) : s.est = u.est := congrArg State.BufKPart.est h.eq
theorem BufK.arr_eq (h : BufK u s) : s.arr = u.arr := congrArg State.BufKPart.arr h.eq
theorem BufK.flt_eq (h : BufK u s) : s.flt = u.flt := congrArg State.BufKPart.flt h.eq
theorem BufK.mgp_eq (h : BufK u s) : s.mgp = u.mgp := congrArg State.BufKPart.mgp h.eq
theorem BufK.sec_eq (h : BufK u s) : s.sec = u.sec := congrArg State.BufKPart.sec h.eq
theorem BufK.pwr_eq (h : BufK u s) : s.pwr = u.pwr := congrArg State.BufKPart.pwr h.eq
theorem BufK.cfg_eq (h : BufK u s) : s.cfg = u.cfg := congrArg State.BufKPart.cfg h.eq
theorem BufK.pins_eq (h : BufK u s) : s.pins = u.pins := congrArg State.BufKPart.pins h.eq
theorem BufK.shadow_eq (h : BufK u s) : s.shadow = u.shadow := congrArg State.BufKPart.shadow h.eq
theorem BufK.free_eq (h : BufK u s) : s.free = u.free := congrArg State.BufKPart.free h.eq
theorem BufK.pending_eq (h : BufK u s) : s.pending = u.pending := congrArg State.BufKPart.pending h.eq

theorem BufK.formCrc (h : BufK u s) (a1) : BufK u (State.formCrc s a1) := by
  unfold State.formCrc
  refine BufK.wr ?_ ..
  exact h

theorem BufK.takeBuffer (h : BufK u s) (a1 a2) : BufK u (State.takeBuffer s a1 a2) := by
  unfold State.takeBuffer
  extract_lets +onlyGivenNames -merge -useContext -underBinder x1
  refine BufK.each (fun _ _ ht2 => ?_) ?_
  · refine BufK.wr ?_ ..
    refine BufK.wr ?_ ..
    exact ht2
  · exact h

/-- What those functions may change, as a frame names it. -/
theorem BufK.within {t : State} (h : BufK s.partBufK t) : t.within s [.regs]
  | .regs, hp => (hp (by decide)).elim
  | .time, _ => h.time_eq
  | .inp, _ => h.inp_eq
  | .wq, _ => h.wq_eq
  | .lpe, _ => h.lpe_eq
  | .hmp, _ => h.hmp_eq
  | .prf, _ => h.prf_eq
  | .site, _ => h.site_eq
  | .zfb, _ => h.zfb_eq
  | .wgl, _ => h.wgl_eq
  | .lks, _ => h.lks_eq
  | .link, _ => h.link_eq
  | .chn, _ => h.chn_eq
  | .est, _ => h.est_eq
  | .arr, _ => h.arr_eq
  | .flt, _ => h.flt_eq
  | .mgp, _ => h.mgp_eq
  | .sec, _ => h.sec_eq
  | .pwr, _ => h.pwr_eq
  | .cfg, _ => h.cfg_eq
  | .pins, _ => h.pins_eq
  | .shadow, _ => h.shadow_eq
  | .free, _ => h.free_eq
  | .pending, _ => h.pending_eq

end Sys2Proof.Machine
end

