-- ==== Sys2Proof/Laws/BufW.lean ====
section
/-! SUPPORT. What the partner's CRC leaves alone. -/

namespace Sys2Proof.Machine

/-- The parts of the state that are kept. -/
structure State.BufWPart where
  regs : Regs
  time : TimeRt
  inp : InputRt
  wq : List PairWrite
  lpe : LpeRt
  hmp : HmpRt
  prf : PrfRt
  site : SiteRt
  zfb : ZfbRt
  lks : LksRt
  link : LinkRt
  chn : ChnRt
  est : EstRt
  arr : ArrRt
  flt : FltRt
  mgp : MgpRt
  sec : SecRt
  pwr : PwrRt
  cfg : CfgRt
  pins : PinRt
  shadow : List (Nat × Nat × Word)
  free : Nat
  pending : List Instr

/-- Those parts of a state. -/
def State.partBufW (s : State) : State.BufWPart :=
  ⟨s.regs, s.time, s.inp, s.wq, s.lpe, s.hmp, s.prf, s.site, s.zfb, s.lks, s.link, s.chn, s.est, s.arr, s.flt, s.mgp, s.sec, s.pwr, s.cfg, s.pins, s.shadow, s.free, s.pending⟩

/-- Those parts are the ones given. -/
structure BufW (u : State.BufWPart) (s : State) : Prop where
  eq : s.partBufW = u

variable {u : State.BufWPart} {s : State}

theorem BufW.upd {regs time inp wq lpe hmp prf site zfb wgl lks link chn est arr flt mgp sec pwr cfg pins shadow free pending} (h : BufW u s) (h_regs : regs = s.regs) (h_time : time = s.time) (h_inp : inp = s.inp) (h_wq : wq = s.wq) (h_lpe : lpe = s.lpe) (h_hmp : hmp = s.hmp) (h_prf : prf = s.prf) (h_site : site = s.site) (h_zfb : zfb = s.zfb) (h_lks : lks = s.lks) (h_link : link = s.link) (h_chn : chn = s.chn) (h_est : est = s.est) (h_arr : arr = s.arr) (h_flt : flt = s.flt) (h_mgp : mgp = s.mgp) (h_sec : sec = s.sec) (h_pwr : pwr = s.pwr) (h_cfg : cfg = s.cfg) (h_pins : pins = s.pins) (h_shadow : shadow = s.shadow) (h_free : free = s.free) (h_pending : pending = s.pending) :
    BufW u (State.mk regs time inp wq lpe hmp prf site zfb wgl lks link chn est arr flt mgp sec pwr cfg pins shadow free pending) := by
  subst h_regs h_time h_inp h_wq h_lpe h_hmp h_prf h_site h_zfb h_lks h_link h_chn h_est h_arr h_flt h_mgp h_sec h_pwr h_cfg h_pins h_shadow h_free h_pending
  exact ⟨h.eq⟩

theorem BufW.rfl' (s : State) : BufW s.partBufW s := ⟨rfl⟩

/-- What a command answers keeps them. -/
def BufWo (u : State.BufWPart) (o : Host.Outcome State Fault Refusal) : Prop := ∀ t, o = Host.Outcome.next t → BufW u t

theorem BufWo.next (h : BufW u s) : BufWo u (Host.Outcome.next s) := fun t e => by cases e; exact h

theorem BufW.ite {c : Prop} {_ : Decidable c} {a b : State} (ha : c → BufW u a) (hb : ¬c → BufW u b) : BufW u (if c then a else b) := by
  split
  · exact ha ‹_›
  · exact hb ‹_›

theorem BufW.dite {c : Prop} {_ : Decidable c} {a : c → State} {b : ¬c → State} (ha : ∀ h, BufW u (a h)) (hb : ∀ h, BufW u (b h)) :
    BufW u (if h : c then a h else b h) := by
  split
  · exact ha _
  · exact hb _

theorem BufW.iteP {α : Type} {c : Prop} {_ : Decidable c} {a b : State × α} (ha : c → BufW u a.1) (hb : ¬c → BufW u b.1) : BufW u (if c then a else b).1 := by
  split
  · exact ha ‹_›
  · exact hb ‹_›

theorem BufW.diteP {α : Type} {c : Prop} {_ : Decidable c} {a : c → State × α} {b : ¬c → State × α} (ha : ∀ h, BufW u (a h).1) (hb : ∀ h, BufW u (b h).1) :
    BufW u (if h : c then a h else b h).1 := by
  split
  · exact ha _
  · exact hb _

theorem BufW.foldl {α : Type} {l : List α} {f : State → α → State} (hf : ∀ t a, BufW u t → BufW u (f t a)) (h : BufW u s) : BufW u (l.foldl f s) := by
  induction l generalizing s with
  | nil => exact h
  | cons a l ih => exact ih (hf s a h)

theorem BufW.each {n : Nat} {f : Nat → State → State} (hf : ∀ i t, BufW u t → BufW u (f i t)) (h : BufW u s) : BufW u (State.each n f s) :=
  BufW.foldl (fun t a ht => hf a t ht) h

theorem BufW.over {α : Type} {l : List α} {f : α → State → State} (hf : ∀ i t, BufW u t → BufW u (f i t)) (h : BufW u s) : BufW u (State.over l f s) :=
  BufW.foldl (fun t a ht => hf a t ht) h

theorem BufW.iff {c : Bool} {f : State → State} (hf : ∀ t, BufW u t → BufW u (f t)) (h : BufW u s) : BufW u (State.iff c f s) := by
  unfold State.iff
  split
  · exact hf s h
  · exact h

theorem BufW.regs_eq (h : BufW u s) : s.regs = u.regs := congrArg State.BufWPart.regs h.eq
theorem BufW.time_eq (h : BufW u s) : s.time = u.time := congrArg State.BufWPart.time h.eq
theorem BufW.inp_eq (h : BufW u s) : s.inp = u.inp := congrArg State.BufWPart.inp h.eq
theorem BufW.wq_eq (h : BufW u s) : s.wq = u.wq := congrArg State.BufWPart.wq h.eq
theorem BufW.lpe_eq (h : BufW u s) : s.lpe = u.lpe := congrArg State.BufWPart.lpe h.eq
theorem BufW.hmp_eq (h : BufW u s) : s.hmp = u.hmp := congrArg State.BufWPart.hmp h.eq
theorem BufW.prf_eq (h : BufW u s) : s.prf = u.prf := congrArg State.BufWPart.prf h.eq
theorem BufW.site_eq (h : BufW u s) : s.site = u.site := congrArg State.BufWPart.site h.eq
theorem BufW.zfb_eq (h : BufW u s) : s.zfb = u.zfb := congrArg State.BufWPart.zfb h.eq
theorem BufW.lks_eq (h : BufW u s) : s.lks = u.lks := congrArg State.BufWPart.lks h.eq
theorem BufW.link_eq (h : BufW u s) : s.link = u.link := congrArg State.BufWPart.link h.eq
theorem BufW.chn_eq (h : BufW u s) : s.chn = u.chn := congrArg State.BufWPart.chn h.eq
theorem BufW.est_eq (h : BufW u s) : s.est = u.est := congrArg State.BufWPart.est h.eq
theorem BufW.arr_eq (h : BufW u s) : s.arr = u.arr := congrArg State.BufWPart.arr h.eq
theorem BufW.flt_eq (h : BufW u s) : s.flt = u.flt := congrArg State.BufWPart.flt h.eq
theorem BufW.mgp_eq (h : BufW u s) : s.mgp = u.mgp := congrArg State.BufWPart.mgp h.eq
theorem BufW.sec_eq (h : BufW u s) : s.sec = u.sec := congrArg State.BufWPart.sec h.eq
theorem BufW.pwr_eq (h : BufW u s) : s.pwr = u.pwr := congrArg State.BufWPart.pwr h.eq
theorem BufW.cfg_eq (h : BufW u s) : s.cfg = u.cfg := congrArg State.BufWPart.cfg h.eq
theorem BufW.pins_eq (h : BufW u s) : s.pins = u.pins := congrArg State.BufWPart.pins h.eq
theorem BufW.shadow_eq (h : BufW u s) : s.shadow = u.shadow := congrArg State.BufWPart.shadow h.eq
theorem BufW.free_eq (h : BufW u s) : s.free = u.free := congrArg State.BufWPart.free h.eq
theorem BufW.pending_eq (h : BufW u s) : s.pending = u.pending := congrArg State.BufWPart.pending h.eq

theorem BufW.setZoneFf (h : BufW u s) (a1 a2) : BufW u (State.setZoneFf s a1 a2) := by
  unfold State.setZoneFf
  refine BufW.dite (fun _ => ?_) (fun _ => ?_)
  · refine BufW.upd ?_ rfl rfl rfl rfl rfl rfl rfl rfl rfl rfl rfl rfl rfl rfl rfl rfl rfl rfl rfl rfl rfl rfl rfl
    exact h
  · exact h

theorem BufW.execBufferCrc_keeps (h : BufW u s) (a0 a1) : BufWo u (execBufferCrc a0 a1 s) := by
  unfold execBufferCrc
  refine BufWo.next ?_
  refine BufW.ite (fun _ => ?_) (fun _ => ?_)
  · exact h
  · refine BufW.setZoneFf ?_ ..
    exact h

/-- What those functions may change, as a frame names it. -/
theorem BufW.within {t : State} (h : BufW s.partBufW t) : t.within s [.wgl]
  | .regs, _ => h.regs_eq
  | .time, _ => h.time_eq
  | .inp, _ => h.inp_eq
  | .wq, _ => h.wq_eq
  | .lpe, _ => h.lpe_eq
  | .hmp, _ => h.hmp_eq
  | .prf, _ => h.prf_eq
  | .site, _ => h.site_eq
  | .zfb, _ => h.zfb_eq
  | .wgl, hp => (hp (by decide)).elim
  | .lks, _ => h.lks_eq
  | .link, _ => h.link_eq
  | .chn, _ => h.chn_eq
  | .est, _ => h.est_eq
  | .arr, _ => h.arr_eq
  | .flt, _ => h.flt_eq
  | .mgp, _ => h.mgp_eq
  | .sec, _ => h.sec_eq
  | .pwr, _ => h.pwr_eq
  | .cfg, _ => h.cfg_eq
  | .pins, _ => h.pins_eq
  | .shadow, _ => h.shadow_eq
  | .free, _ => h.free_eq
  | .pending, _ => h.pending_eq

end Sys2Proof.Machine
end

