-- ==== Sys2Proof/Laws/Ceil1.lean ====
section
/-! SUPPORT. What the latching of ceilings and SHARE leave alone. -/

namespace Sys2Proof.Machine

/-- The parts of the state that are kept. -/
structure State.Ceil1Part where
  time : TimeRt
  inp : InputRt
  wq : List PairWrite
  lpe : LpeRt
  hmp : HmpRt
  prf : PrfRt
  site : SiteRt
  zfb : ZfbRt
  lks : LksRt
  link : LinkRt
  chn : ChnRt
  est : EstRt
  arr : ArrRt
  flt : FltRt
  mgp : MgpRt
  sec : SecRt
  pwr : PwrRt
  cfg : CfgRt
  pins : PinRt
  shadow : List (Nat × Nat × Word)
  free : Nat
  pending : List Instr

/-- Those parts of a state. -/
def State.partCeil1 (s : State) : State.Ceil1Part :=
  ⟨s.time, s.inp, s.wq, s.lpe, s.hmp, s.prf, s.site, s.zfb, s.lks, s.link, s.chn, s.est, s.arr, s.flt, s.mgp, s.sec, s.pwr, s.cfg, s.pins, s.shadow, s.free, s.pending⟩

/-- Those parts are the ones given. -/
structure Ceil1 (u : State.Ceil1Part) (s : State) : Prop where
  eq : s.partCeil1 = u

variable {u : State.Ceil1Part} {s : State}

theorem Ceil1.upd {regs time inp wq lpe hmp prf site zfb wgl lks link chn est arr flt mgp sec pwr cfg pins shadow free pending} (h : Ceil1 u s) (h_regs : regs = s.regs) (h_time : time = s.time) (h_inp : inp = s.inp) (h_wq : wq = s.wq) (h_lpe : lpe = s.lpe) (h_hmp : hmp = s.hmp) (h_prf : prf = s.prf) (h_site : site = s.site) (h_zfb : zfb = s.zfb) (h_lks : lks = s.lks) (h_link : link = s.link) (h_chn : chn = s.chn) (h_est : est = s.est) (h_arr : arr = s.arr) (h_flt : flt = s.flt) (h_mgp : mgp = s.mgp) (h_sec : sec = s.sec) (h_pwr : pwr = s.pwr) (h_cfg : cfg = s.cfg) (h_pins : pins = s.pins) (h_shadow : shadow = s.shadow) (h_free : free = s.free) (h_pending : pending = s.pending) :
    Ceil1 u (State.mk regs time inp wq lpe hmp prf site zfb wgl lks link chn est arr flt mgp sec pwr cfg pins shadow free pending) := by
  subst h_regs h_time h_inp h_wq h_lpe h_hmp h_prf h_site h_zfb h_lks h_link h_chn h_est h_arr h_flt h_mgp h_sec h_pwr h_cfg h_pins h_shadow h_free h_pending
  exact ⟨h.eq⟩

theorem Ceil1.rfl' (s : State) : Ceil1 s.partCeil1 s := ⟨rfl⟩

/-- What a command answers keeps them. -/
def Ceil1o (u : State.Ceil1Part) (o : Host.Outcome State Fault Refusal) : Prop := ∀ t, o = Host.Outcome.next t → Ceil1 u t

theorem Ceil1o.next (h : Ceil1 u s) : Ceil1o u (Host.Outcome.next s) := fun t e => by cases e; exact h

theorem Ceil1.ite {c : Prop} {_ : Decidable c} {a b : State} (ha : c → Ceil1 u a) (hb : ¬c → Ceil1 u b) : Ceil1 u (if c then a else b) := by
  split
  · exact ha ‹_›
  · exact hb ‹_›

theorem Ceil1.dite {c : Prop} {_ : Decidable c} {a : c → State} {b : ¬c → State} (ha : ∀ h, Ceil1 u (a h)) (hb : ∀ h, Ceil1 u (b h)) :
    Ceil1 u (if h : c then a h else b h) := by
  split
  · exact ha _
  · exact hb _

theorem Ceil1.iteP {α : Type} {c : Prop} {_ : Decidable c} {a b : State × α} (ha : c → Ceil1 u a.1) (hb : ¬c → Ceil1 u b.1) : Ceil1 u (if c then a else b).1 := by
  split
  · exact ha ‹_›
  · exact hb ‹_›

theorem Ceil1.diteP {α : Type} {c : Prop} {_ : Decidable c} {a : c → State × α} {b : ¬c → State × α} (ha : ∀ h, Ceil1 u (a h).1) (hb : ∀ h, Ceil1 u (b h).1) :
    Ceil1 u (if h : c then a h else b h).1 := by
  split
  · exact ha _
  · exact hb _

theorem Ceil1.foldl {α : Type} {l : List α} {f : State → α → State} (hf : ∀ t a, Ceil1 u t → Ceil1 u (f t a)) (h : Ceil1 u s) : Ceil1 u (l.foldl f s) := by
  induction l generalizing s with
  | nil => exact h
  | cons a l ih => exact ih (hf s a h)

theorem Ceil1.each {n : Nat} {f : Nat → State → State} (hf : ∀ i t, Ceil1 u t → Ceil1 u (f i t)) (h : Ceil1 u s) : Ceil1 u (State.each n f s) :=
  Ceil1.foldl (fun t a ht => hf a t ht) h

theorem Ceil1.over {α : Type} {l : List α} {f : α → State → State} (hf : ∀ i t, Ceil1 u t → Ceil1 u (f i t)) (h : Ceil1 u s) : Ceil1 u (State.over l f s) :=
  Ceil1.foldl (fun t a ht => hf a t ht) h

theorem Ceil1.iff {c : Bool} {f : State → State} (hf : ∀ t, Ceil1 u t → Ceil1 u (f t)) (h : Ceil1 u s) : Ceil1 u (State.iff c f s) := by
  unfold State.iff
  split
  · exact hf s h
  · exact h

theorem Ceil1.wr (h : Ceil1 u s) (a w) : Ceil1 u (s.wr a w) := ⟨h.eq⟩

theorem Ceil1.time_eq (h : Ceil1 u s) : s.time = u.time := congrArg State.Ceil1Part.time h.eq
theorem Ceil1.inp_eq (h : Ceil1 u s) : s.inp = u.inp := congrArg State.Ceil1Part.inp h.eq
theorem Ceil1.wq_eq (h : Ceil1 u s) : s.wq = u.wq := congrArg State.Ceil1Part.wq h.eq
theorem Ceil1.lpe_eq (h : Ceil1 u s) : s.lpe = u.lpe := congrArg State.Ceil1Part.lpe h.eq
theorem Ceil1.hmp_eq (h : Ceil1 u s) : s.hmp = u.hmp := congrArg State.Ceil1Part.hmp h.eq
theorem Ceil1.prf_eq (h : Ceil1 u s) : s.prf = u.prf := congrArg State.Ceil1Part.prf h.eq
theorem Ceil1.site_eq (h : Ceil1 u s) : s.site = u.site := congrArg State.Ceil1Part.site h.eq
theorem Ceil1.zfb_eq (h : Ceil1 u s) : s.zfb = u.zfb := congrArg State.Ceil1Part.zfb h.eq
theorem Ceil1.lks_eq (h : Ceil1 u s) : s.lks = u.lks := congrArg State.Ceil1Part.lks h.eq
theorem Ceil1.link_eq (h : Ceil1 u s) : s.link = u.link := congrArg State.Ceil1Part.link h.eq
theorem Ceil1.chn_eq (h : Ceil1 u s) : s.chn = u.chn := congrArg State.Ceil1Part.chn h.eq
theorem Ceil1.est_eq (h : Ceil1 u s) : s.est = u.est := congrArg State.Ceil1Part.est h.eq
theorem Ceil1.arr_eq (h : Ceil1 u s) : s.arr = u.arr := congrArg State.Ceil1Part.arr h.eq
theorem Ceil1.flt_eq (h : Ceil1 u s) : s.flt = u.flt := congrArg State.Ceil1Part.flt h.eq
theorem Ceil1.mgp_eq (h : Ceil1 u s) : s.mgp = u.mgp := congrArg State.Ceil1Part.mgp h.eq
theorem Ceil1.sec_eq (h : Ceil1 u s) : s.sec = u.sec := congrArg State.Ceil1Part.sec h.eq
theorem Ceil1.pwr_eq (h : Ceil1 u s) : s.pwr = u.pwr := congrArg State.Ceil1Part.pwr h.eq
theorem Ceil1.cfg_eq (h : Ceil1 u s) : s.cfg = u.cfg := congrArg State.Ceil1Part.cfg h.eq
theorem Ceil1.pins_eq (h : Ceil1 u s) : s.pins = u.pins := congrArg State.Ceil1Part.pins h.eq
theorem Ceil1.shadow_eq (h : Ceil1 u s) : s.shadow = u.shadow := congrArg State.Ceil1Part.shadow h.eq
theorem Ceil1.free_eq (h : Ceil1 u s) : s.free = u.free := congrArg State.Ceil1Part.free h.eq
theorem Ceil1.pending_eq (h : Ceil1 u s) : s.pending = u.pending := congrArg State.Ceil1Part.pending h.eq

theorem Ceil1.put (h : Ceil1 u s) (a1 a2) : Ceil1 u (State.put s a1 a2) := by
  unfold State.put
  refine Ceil1.wr ?_ ..
  exact h

theorem Ceil1.setFlag (h : Ceil1 u s) (a1 a2) : Ceil1 u (State.setFlag s a1 a2) := by
  unfold State.setFlag
  refine Ceil1.put ?_ ..
  exact h

theorem Ceil1.setGroupCeil (h : Ceil1 u s) (a1 a2) : Ceil1 u (State.setGroupCeil s a1 a2) := by
  unfold State.setGroupCeil
  refine Ceil1.dite (fun _ => ?_) (fun _ => ?_)
  · refine Ceil1.upd ?_ rfl rfl rfl rfl rfl rfl rfl rfl rfl rfl rfl rfl rfl rfl rfl rfl rfl rfl rfl rfl rfl rfl rfl
    exact h
  · exact h

theorem Ceil1.setZoneCeil (h : Ceil1 u s) (a1 a2) : Ceil1 u (State.setZoneCeil s a1 a2) := by
  unfold State.setZoneCeil
  refine Ceil1.dite (fun _ => ?_) (fun _ => ?_)
  · refine Ceil1.upd ?_ rfl rfl rfl rfl rfl rfl rfl rfl rfl rfl rfl rfl rfl rfl rfl rfl rfl rfl rfl rfl rfl rfl rfl
    exact h
  · exact h

theorem Ceil1.showGroup (h : Ceil1 u s) (a1) : Ceil1 u (State.showGroup s a1) := by
  unfold State.showGroup
  extract_lets +onlyGivenNames -merge -useContext -underBinder x1
  refine Ceil1.setFlag ?_ ..
  refine Ceil1.setFlag ?_ ..
  refine Ceil1.put ?_ ..
  refine Ceil1.put ?_ ..
  exact h

theorem Ceil1.latchGroup (h : Ceil1 u s) (a0 a1) : Ceil1 u (State.latchGroup a0 a1 s) := by
  unfold State.latchGroup
  refine Ceil1.showGroup ?_ ..
  refine Ceil1.setGroupCeil ?_ ..
  exact h

theorem Ceil1.latchZone (h : Ceil1 u s) (a0) : Ceil1 u (State.latchZone a0 s) := by
  unfold State.latchZone
  refine Ceil1.setZoneCeil ?_ ..
  exact h

theorem Ceil1.formAllow (h : Ceil1 u s) : Ceil1 u (State.formAllow s) := by
  unfold State.formAllow
  refine Ceil1.upd ?_ rfl rfl rfl rfl rfl rfl rfl rfl rfl rfl rfl rfl rfl rfl rfl rfl rfl rfl rfl rfl rfl rfl rfl
  exact h

theorem Ceil1.execCeilingLatch_keeps (h : Ceil1 u s) : Ceil1o u (execCeilingLatch s) := by
  unfold execCeilingLatch
  refine Ceil1o.next ?_
  refine Ceil1.ite (fun _ => ?_) (fun _ => ?_)
  · refine Ceil1.formAllow ?_ ..
    refine Ceil1.each (fun _ _ ht1 => ?_) ?_
    · refine Ceil1.latchZone ?_ ..
      exact ht1
    · refine Ceil1.each (fun _ _ ht2 => ?_) ?_
      · refine Ceil1.latchGroup ?_ ..
        exact ht2
      · exact h
  · exact h

theorem Ceil1.shareGroup (h : Ceil1 u s) (a0 a1) : Ceil1 u (State.shareGroup a0 a1 s) := by
  unfold State.shareGroup
  refine Ceil1.showGroup ?_ ..
  refine Ceil1.setGroupCeil ?_ ..
  exact h

theorem Ceil1.execShareArbitration_keeps (h : Ceil1 u s) (a0) : Ceil1o u (execShareArbitration a0 s) := by
  unfold execShareArbitration
  refine Ceil1o.next ?_
  refine Ceil1.each (fun _ _ ht1 => ?_) ?_
  · refine Ceil1.shareGroup ?_ ..
    exact ht1
  · exact h

/-- What those functions may change, as a frame names it. -/
theorem Ceil1.within {t : State} (h : Ceil1 s.partCeil1 t) : t.within s [.regs, .wgl]
  | .regs, hp => (hp (by decide)).elim
  | .time, _ => h.time_eq
  | .inp, _ => h.inp_eq
  | .wq, _ => h.wq_eq
  | .lpe, _ => h.lpe_eq
  | .hmp, _ => h.hmp_eq
  | .prf, _ => h.prf_eq
  | .site, _ => h.site_eq
  | .zfb, _ => h.zfb_eq
  | .wgl, hp => (hp (by decide)).elim
  | .lks, _ => h.lks_eq
  | .link, _ => h.link_eq
  | .chn, _ => h.chn_eq
  | .est, _ => h.est_eq
  | .arr, _ => h.arr_eq
  | .flt, _ => h.flt_eq
  | .mgp, _ => h.mgp_eq
  | .sec, _ => h.sec_eq
  | .pwr, _ => h.pwr_eq
  | .cfg, _ => h.cfg_eq
  | .pins, _ => h.pins_eq
  | .shadow, _ => h.shadow_eq
  | .free, _ => h.free_eq
  | .pending, _ => h.pending_eq

end Sys2Proof.Machine
end

