-- ==== Sys2Proof/Laws/CeilTx.lean ====
section
/-! SUPPORT. What the ceiling frames leave alone. -/

namespace Sys2Proof.Machine

/-- The parts of the state that are kept. -/
structure State.CeilTxPart where
  inp : InputRt
  wq : List PairWrite
  lpe : LpeRt
  hmp : HmpRt
  prf : PrfRt
  site : SiteRt
  zfb : ZfbRt
  lks : LksRt
  link : LinkRt
  chn : ChnRt
  est : EstRt
  arr : ArrRt
  flt : FltRt
  mgp : MgpRt
  sec : SecRt
  pwr : PwrRt
  cfg : CfgRt
  pins : PinRt
  shadow : List (Nat × Nat × Word)
  free : Nat
  pending : List Instr

/-- Those parts of a state. -/
def State.partCeilTx (s : State) : State.CeilTxPart :=
  ⟨s.inp, s.wq, s.lpe, s.hmp, s.prf, s.site, s.zfb, s.lks, s.link, s.chn, s.est, s.arr, s.flt, s.mgp, s.sec, s.pwr, s.cfg, s.pins, s.shadow, s.free, s.pending⟩

/-- Those parts are the ones given. -/
structure CeilTx (u : State.CeilTxPart) (s : State) : Prop where
  eq : s.partCeilTx = u

variable {u : State.CeilTxPart} {s : State}

theorem CeilTx.upd {regs time inp wq lpe hmp prf site zfb wgl lks link chn est arr flt mgp sec pwr cfg pins shadow free pending} (h : CeilTx u s) (h_regs : regs = s.regs) (h_inp : inp = s.inp) (h_wq : wq = s.wq) (h_lpe : lpe = s.lpe) (h_hmp : hmp = s.hmp) (h_prf : prf = s.prf) (h_site : site = s.site) (h_zfb : zfb = s.zfb) (h_lks : lks = s.lks) (h_link : link = s.link) (h_chn : chn = s.chn) (h_est : est = s.est) (h_arr : arr = s.arr) (h_flt : flt = s.flt) (h_mgp : mgp = s.mgp) (h_sec : sec = s.sec) (h_pwr : pwr = s.pwr) (h_cfg : cfg = s.cfg) (h_pins : pins = s.pins) (h_shadow : shadow = s.shadow) (h_free : free = s.free) (h_pending : pending = s.pending) :
    CeilTx u (State.mk regs time inp wq lpe hmp prf site zfb wgl lks link chn est arr flt mgp sec pwr cfg pins shadow free pending) := by
  subst h_regs h_inp h_wq h_lpe h_hmp h_prf h_site h_zfb h_lks h_link h_chn h_est h_arr h_flt h_mgp h_sec h_pwr h_cfg h_pins h_shadow h_free h_pending
  exact ⟨h.eq⟩

theorem CeilTx.rfl' (s : State) : CeilTx s.partCeilTx s := ⟨rfl⟩

/-- What a command answers keeps them. -/
def CeilTxo (u : State.CeilTxPart) (o : Host.Outcome State Fault Refusal) : Prop := ∀ t, o = Host.Outcome.next t → CeilTx u t

theorem CeilTxo.next (h : CeilTx u s) : CeilTxo u (Host.Outcome.next s) := fun t e => by cases e; exact h

theorem CeilTx.ite {c : Prop} {_ : Decidable c} {a b : State} (ha : c → CeilTx u a) (hb : ¬c → CeilTx u b) : CeilTx u (if c then a else b) := by
  split
  · exact ha ‹_›
  · exact hb ‹_›

theorem CeilTx.dite {c : Prop} {_ : Decidable c} {a : c → State} {b : ¬c → State} (ha : ∀ h, CeilTx u (a h)) (hb : ∀ h, CeilTx u (b h)) :
    CeilTx u (if h : c then a h else b h) := by
  split
  · exact ha _
  · exact hb _

theorem CeilTx.iteP {α : Type} {c : Prop} {_ : Decidable c} {a b : State × α} (ha : c → CeilTx u a.1) (hb : ¬c → CeilTx u b.1) : CeilTx u (if c then a else b).1 := by
  split
  · exact ha ‹_›
  · exact hb ‹_›

theorem CeilTx.diteP {α : Type} {c : Prop} {_ : Decidable c} {a : c → State × α} {b : ¬c → State × α} (ha : ∀ h, CeilTx u (a h).1) (hb : ∀ h, CeilTx u (b h).1) :
    CeilTx u (if h : c then a h else b h).1 := by
  split
  · exact ha _
  · exact hb _

theorem CeilTx.foldl {α : Type} {l : List α} {f : State → α → State} (hf : ∀ t a, CeilTx u t → CeilTx u (f t a)) (h : CeilTx u s) : CeilTx u (l.foldl f s) := by
  induction l generalizing s with
  | nil => exact h
  | cons a l ih => exact ih (hf s a h)

theorem CeilTx.each {n : Nat} {f : Nat → State → State} (hf : ∀ i t, CeilTx u t → CeilTx u (f i t)) (h : CeilTx u s) : CeilTx u (State.each n f s) :=
  CeilTx.foldl (fun t a ht => hf a t ht) h

theorem CeilTx.over {α : Type} {l : List α} {f : α → State → State} (hf : ∀ i t, CeilTx u t → CeilTx u (f i t)) (h : CeilTx u s) : CeilTx u (State.over l f s) :=
  CeilTx.foldl (fun t a ht => hf a t ht) h

theorem CeilTx.iff {c : Bool} {f : State → State} (hf : ∀ t, CeilTx u t → CeilTx u (f t)) (h : CeilTx u s) : CeilTx u (State.iff c f s) := by
  unfold State.iff
  split
  · exact hf s h
  · exact h

theorem CeilTx.wr (h : CeilTx u s) (a w) : CeilTx u (s.wr a w) := ⟨h.eq⟩

theorem CeilTx.inp_eq (h : CeilTx u s) : s.inp = u.inp := congrArg State.CeilTxPart.inp h.eq
theorem CeilTx.wq_eq (h : CeilTx u s) : s.wq = u.wq := congrArg State.CeilTxPart.wq h.eq
theorem CeilTx.lpe_eq (h : CeilTx u s) : s.lpe = u.lpe := congrArg State.CeilTxPart.lpe h.eq
theorem CeilTx.hmp_eq (h : CeilTx u s) : s.hmp = u.hmp := congrArg State.CeilTxPart.hmp h.eq
theorem CeilTx.prf_eq (h : CeilTx u s) : s.prf = u.prf := congrArg State.CeilTxPart.prf h.eq
theorem CeilTx.site_eq (h : CeilTx u s) : s.site = u.site := congrArg State.CeilTxPart.site h.eq
theorem CeilTx.zfb_eq (h : CeilTx u s) : s.zfb = u.zfb := congrArg State.CeilTxPart.zfb h.eq
theorem CeilTx.lks_eq (h : CeilTx u s) : s.lks = u.lks := congrArg State.CeilTxPart.lks h.eq
theorem CeilTx.link_eq (h : CeilTx u s) : s.link = u.link := congrArg State.CeilTxPart.link h.eq
theorem CeilTx.chn_eq (h : CeilTx u s) : s.chn = u.chn := congrArg State.CeilTxPart.chn h.eq
theorem CeilTx.est_eq (h : CeilTx u s) : s.est = u.est := congrArg State.CeilTxPart.est h.eq
theorem CeilTx.arr_eq (h : CeilTx u s) : s.arr = u.arr := congrArg State.CeilTxPart.arr h.eq
theorem CeilTx.flt_eq (h : CeilTx u s) : s.flt = u.flt := congrArg State.CeilTxPart.flt h.eq
theorem CeilTx.mgp_eq (h : CeilTx u s) : s.mgp = u.mgp := congrArg State.CeilTxPart.mgp h.eq
theorem CeilTx.sec_eq (h : CeilTx u s) : s.sec = u.sec := congrArg State.CeilTxPart.sec h.eq
theorem CeilTx.pwr_eq (h : CeilTx u s) : s.pwr = u.pwr := congrArg State.CeilTxPart.pwr h.eq
theorem CeilTx.cfg_eq (h : CeilTx u s) : s.cfg = u.cfg := congrArg State.CeilTxPart.cfg h.eq
theorem CeilTx.pins_eq (h : CeilTx u s) : s.pins = u.pins := congrArg State.CeilTxPart.pins h.eq
theorem CeilTx.shadow_eq (h : CeilTx u s) : s.shadow = u.shadow := congrArg State.CeilTxPart.shadow h.eq
theorem CeilTx.free_eq (h : CeilTx u s) : s.free = u.free := congrArg State.CeilTxPart.free h.eq
theorem CeilTx.pending_eq (h : CeilTx u s) : s.pending = u.pending := congrArg State.CeilTxPart.pending h.eq

theorem CeilTx.put (h : CeilTx u s) (a1 a2) : CeilTx u (State.put s a1 a2) := by
  unfold State.put
  refine CeilTx.wr ?_ ..
  exact h

theorem CeilTx.setFlag (h : CeilTx u s) (a1 a2) : CeilTx u (State.setFlag s a1 a2) := by
  unfold State.setFlag
  refine CeilTx.put ?_ ..
  exact h

theorem CeilTx.atCycle (h : CeilTx u s) (a1) : CeilTx u (State.atCycle s a1) := by
  unfold State.atCycle
  refine CeilTx.upd ?_ rfl rfl rfl rfl rfl rfl rfl rfl rfl rfl rfl rfl rfl rfl rfl rfl rfl rfl rfl rfl rfl rfl
  exact h

theorem CeilTx.sendCeil (h : CeilTx u s) (a1 a2) : CeilTx u (State.sendCeil s a1 a2) := by
  unfold State.sendCeil
  extract_lets +onlyGivenNames -merge -useContext -underBinder x1
  extract_lets +onlyGivenNames -merge -useContext -underBinder x2
  have hx2 : CeilTx u x2 := by
    unfold x2
    refine CeilTx.upd ?_ rfl rfl rfl rfl rfl rfl rfl rfl rfl rfl rfl rfl rfl rfl rfl rfl rfl rfl rfl rfl rfl rfl
    exact h
  refine CeilTx.put ?_ ..
  refine CeilTx.setFlag ?_ ..
  refine CeilTx.put ?_ ..
  exact hx2

theorem CeilTx.ceilLane (h : CeilTx u s) (a1) : CeilTx u (State.ceilLane s a1) := by
  unfold State.ceilLane
  refine CeilTx.ite (fun _ => ?_) (fun _ => ?_)
  · refine CeilTx.sendCeil ?_ ..
    exact h
  · exact h

theorem CeilTx.execCeilSend_keeps (h : CeilTx u s) : CeilTxo u (execCeilSend s) := by
  unfold execCeilSend
  refine CeilTxo.next ?_
  refine CeilTx.ite (fun _ => ?_) (fun _ => ?_)
  · refine CeilTx.foldl (fun _ _ ht1 => ?_) ?_
    · refine CeilTx.ceilLane ?_ ..
      exact ht1
    · refine CeilTx.atCycle ?_ ..
      exact h
  · exact h

/-- What those functions may change, as a frame names it. -/
theorem CeilTx.within {t : State} (h : CeilTx s.partCeilTx t) : t.within s [.regs, .time, .wgl]
  | .regs, hp => (hp (by decide)).elim
  | .time, hp => (hp (by decide)).elim
  | .inp, _ => h.inp_eq
  | .wq, _ => h.wq_eq
  | .lpe, _ => h.lpe_eq
  | .hmp, _ => h.hmp_eq
  | .prf, _ => h.prf_eq
  | .site, _ => h.site_eq
  | .zfb, _ => h.zfb_eq
  | .wgl, hp => (hp (by decide)).elim
  | .lks, _ => h.lks_eq
  | .link, _ => h.link_eq
  | .chn, _ => h.chn_eq
  | .est, _ => h.est_eq
  | .arr, _ => h.arr_eq
  | .flt, _ => h.flt_eq
  | .mgp, _ => h.mgp_eq
  | .sec, _ => h.sec_eq
  | .pwr, _ => h.pwr_eq
  | .cfg, _ => h.cfg_eq
  | .pins, _ => h.pins_eq
  | .shadow, _ => h.shadow_eq
  | .free, _ => h.free_eq
  | .pending, _ => h.pending_eq

end Sys2Proof.Machine
end

