-- ==== Sys2Proof/Laws/CeilWr.lean ====
section
/-! SUPPORT. What the computing of ceilings leaves alone. -/

namespace Sys2Proof.Machine

/-- The parts of the state that are kept. -/
structure State.CeilWrPart where
  regs : Regs
  time : TimeRt
  inp : InputRt
  lpe : LpeRt
  hmp : HmpRt
  prf : PrfRt
  site : SiteRt
  zfb : ZfbRt
  link : LinkRt
  chn : ChnRt
  est : EstRt
  arr : ArrRt
  flt : FltRt
  mgp : MgpRt
  sec : SecRt
  pwr : PwrRt
  cfg : CfgRt
  pins : PinRt
  shadow : List (Nat × Nat × Word)
  free : Nat
  pending : List Instr

/-- Those parts of a state. -/
def State.partCeilWr (s : State) : State.CeilWrPart :=
  ⟨s.regs, s.time, s.inp, s.lpe, s.hmp, s.prf, s.site, s.zfb, s.link, s.chn, s.est, s.arr, s.flt, s.mgp, s.sec, s.pwr, s.cfg, s.pins, s.shadow, s.free, s.pending⟩

/-- Those parts are the ones given. -/
structure CeilWr (u : State.CeilWrPart) (s : State) : Prop where
  eq : s.partCeilWr = u

variable {u : State.CeilWrPart} {s : State}

theorem CeilWr.upd {regs time inp wq lpe hmp prf site zfb wgl lks link chn est arr flt mgp sec pwr cfg pins shadow free pending} (h : CeilWr u s) (h_regs : regs = s.regs) (h_time : time = s.time) (h_inp : inp = s.inp) (h_lpe : lpe = s.lpe) (h_hmp : hmp = s.hmp) (h_prf : prf = s.prf) (h_site : site = s.site) (h_zfb : zfb = s.zfb) (h_link : link = s.link) (h_chn : chn = s.chn) (h_est : est = s.est) (h_arr : arr = s.arr) (h_flt : flt = s.flt) (h_mgp : mgp = s.mgp) (h_sec : sec = s.sec) (h_pwr : pwr = s.pwr) (h_cfg : cfg = s.cfg) (h_pins : pins = s.pins) (h_shadow : shadow = s.shadow) (h_free : free = s.free) (h_pending : pending = s.pending) :
    CeilWr u (State.mk regs time inp wq lpe hmp prf site zfb wgl lks link chn est arr flt mgp sec pwr cfg pins shadow free pending) := by
  subst h_regs h_time h_inp h_lpe h_hmp h_prf h_site h_zfb h_link h_chn h_est h_arr h_flt h_mgp h_sec h_pwr h_cfg h_pins h_shadow h_free h_pending
  exact ⟨h.eq⟩

theorem CeilWr.rfl' (s : State) : CeilWr s.partCeilWr s := ⟨rfl⟩

/-- What a command answers keeps them. -/
def CeilWro (u : State.CeilWrPart) (o : Host.Outcome State Fault Refusal) : Prop := ∀ t, o = Host.Outcome.next t → CeilWr u t

theorem CeilWro.next (h : CeilWr u s) : CeilWro u (Host.Outcome.next s) := fun t e => by cases e; exact h

theorem CeilWr.ite {c : Prop} {_ : Decidable c} {a b : State} (ha : c → CeilWr u a) (hb : ¬c → CeilWr u b) : CeilWr u (if c then a else b) := by
  split
  · exact ha ‹_›
  · exact hb ‹_›

theorem CeilWr.dite {c : Prop} {_ : Decidable c} {a : c → State} {b : ¬c → State} (ha : ∀ h, CeilWr u (a h)) (hb : ∀ h, CeilWr u (b h)) :
    CeilWr u (if h : c then a h else b h) := by
  split
  · exact ha _
  · exact hb _

theorem CeilWr.iteP {α : Type} {c : Prop} {_ : Decidable c} {a b : State × α} (ha : c → CeilWr u a.1) (hb : ¬c → CeilWr u b.1) : CeilWr u (if c then a else b).1 := by
  split
  · exact ha ‹_›
  · exact hb ‹_›

theorem CeilWr.diteP {α : Type} {c : Prop} {_ : Decidable c} {a : c → State × α} {b : ¬c → State × α} (ha : ∀ h, CeilWr u (a h).1) (hb : ∀ h, CeilWr u (b h).1) :
    CeilWr u (if h : c then a h else b h).1 := by
  split
  · exact ha _
  · exact hb _

theorem CeilWr.foldl {α : Type} {l : List α} {f : State → α → State} (hf : ∀ t a, CeilWr u t → CeilWr u (f t a)) (h : CeilWr u s) : CeilWr u (l.foldl f s) := by
  induction l generalizing s with
  | nil => exact h
  | cons a l ih => exact ih (hf s a h)

theorem CeilWr.each {n : Nat} {f : Nat → State → State} (hf : ∀ i t, CeilWr u t → CeilWr u (f i t)) (h : CeilWr u s) : CeilWr u (State.each n f s) :=
  CeilWr.foldl (fun t a ht => hf a t ht) h

theorem CeilWr.over {α : Type} {l : List α} {f : α → State → State} (hf : ∀ i t, CeilWr u t → CeilWr u (f i t)) (h : CeilWr u s) : CeilWr u (State.over l f s) :=
  CeilWr.foldl (fun t a ht => hf a t ht) h

theorem CeilWr.iff {c : Bool} {f : State → State} (hf : ∀ t, CeilWr u t → CeilWr u (f t)) (h : CeilWr u s) : CeilWr u (State.iff c f s) := by
  unfold State.iff
  split
  · exact hf s h
  · exact h

theorem CeilWr.regs_eq (h : CeilWr u s) : s.regs = u.regs := congrArg State.CeilWrPart.regs h.eq
theorem CeilWr.time_eq (h : CeilWr u s) : s.time = u.time := congrArg State.CeilWrPart.time h.eq
theorem CeilWr.inp_eq (h : CeilWr u s) : s.inp = u.inp := congrArg State.CeilWrPart.inp h.eq
theorem CeilWr.lpe_eq (h : CeilWr u s) : s.lpe = u.lpe := congrArg State.CeilWrPart.lpe h.eq
theorem CeilWr.hmp_eq (h : CeilWr u s) : s.hmp = u.hmp := congrArg State.CeilWrPart.hmp h.eq
theorem CeilWr.prf_eq (h : CeilWr u s) : s.prf = u.prf := congrArg State.CeilWrPart.prf h.eq
theorem CeilWr.site_eq (h : CeilWr u s) : s.site = u.site := congrArg State.CeilWrPart.site h.eq
theorem CeilWr.zfb_eq (h : CeilWr u s) : s.zfb = u.zfb := congrArg State.CeilWrPart.zfb h.eq
theorem CeilWr.link_eq (h : CeilWr u s) : s.link = u.link := congrArg State.CeilWrPart.link h.eq
theorem CeilWr.chn_eq (h : CeilWr u s) : s.chn = u.chn := congrArg State.CeilWrPart.chn h.eq
theorem CeilWr.est_eq (h : CeilWr u s) : s.est = u.est := congrArg State.CeilWrPart.est h.eq
theorem CeilWr.arr_eq (h : CeilWr u s) : s.arr = u.arr := congrArg State.CeilWrPart.arr h.eq
theorem CeilWr.flt_eq (h : CeilWr u s) : s.flt = u.flt := congrArg State.CeilWrPart.flt h.eq
theorem CeilWr.mgp_eq (h : CeilWr u s) : s.mgp = u.mgp := congrArg State.CeilWrPart.mgp h.eq
theorem CeilWr.sec_eq (h : CeilWr u s) : s.sec = u.sec := congrArg State.CeilWrPart.sec h.eq
theorem CeilWr.pwr_eq (h : CeilWr u s) : s.pwr = u.pwr := congrArg State.CeilWrPart.pwr h.eq
theorem CeilWr.cfg_eq (h : CeilWr u s) : s.cfg = u.cfg := congrArg State.CeilWrPart.cfg h.eq
theorem CeilWr.pins_eq (h : CeilWr u s) : s.pins = u.pins := congrArg State.CeilWrPart.pins h.eq
theorem CeilWr.shadow_eq (h : CeilWr u s) : s.shadow = u.shadow := congrArg State.CeilWrPart.shadow h.eq
theorem CeilWr.free_eq (h : CeilWr u s) : s.free = u.free := congrArg State.CeilWrPart.free h.eq
theorem CeilWr.pending_eq (h : CeilWr u s) : s.pending = u.pending := congrArg State.CeilWrPart.pending h.eq

theorem CeilWr.enqueue (h : CeilWr u s) (a1) : CeilWr u (State.enqueue s a1) := by
  unfold State.enqueue
  extract_lets +onlyGivenNames -merge -useContext -underBinder x1
  refine CeilWr.ite (fun _ => ?_) (fun _ => ?_)
  · extract_lets +onlyGivenNames -merge -useContext -underBinder x2
    extract_lets +onlyGivenNames -merge -useContext -underBinder x3
    extract_lets +onlyGivenNames -merge -useContext -underBinder x4
    extract_lets +onlyGivenNames -merge -useContext -underBinder x5
    have hx5 : CeilWr u x5 := by
      unfold x5
      refine CeilWr.ite (fun _ => ?_) (fun _ => ?_)
      · exact h
      · refine CeilWr.upd ?_ rfl rfl rfl rfl rfl rfl rfl rfl rfl rfl rfl rfl rfl rfl rfl rfl rfl rfl rfl rfl rfl
        exact h
    refine CeilWr.ite (fun _ => ?_) (fun _ => ?_)
    · exact hx5
    · refine CeilWr.upd (s := x5) ?_ rfl rfl rfl rfl rfl rfl rfl rfl rfl rfl rfl rfl rfl rfl rfl rfl rfl rfl rfl rfl rfl
      exact hx5
  · refine CeilWr.upd ?_ rfl rfl rfl rfl rfl rfl rfl rfl rfl rfl rfl rfl rfl rfl rfl rfl rfl rfl rfl rfl rfl
    exact h

theorem CeilWr.formFactors (h : CeilWr u s) : CeilWr u (State.formFactors s) := by
  unfold State.formFactors
  refine CeilWr.upd ?_ rfl rfl rfl rfl rfl rfl rfl rfl rfl rfl rfl rfl rfl rfl rfl rfl rfl rfl rfl rfl rfl
  exact h

theorem CeilWr.execCeilingCompute_keeps (h : CeilWr u s) : CeilWro u (execCeilingCompute s) := by
  unfold execCeilingCompute
  refine CeilWro.next ?_
  refine CeilWr.ite (fun _ => ?_) (fun _ => ?_)
  · exact h
  · refine CeilWr.ite (fun _ => ?_) (fun _ => ?_)
    · refine CeilWr.formFactors ?_ ..
      exact h
    · refine CeilWr.over (fun _ _ ht1 => ?_) ?_
      · refine CeilWr.enqueue ?_ ..
        exact ht1
      · refine CeilWr.formFactors ?_ ..
        exact h

/-- What those functions may change, as a frame names it. -/
theorem CeilWr.within {t : State} (h : CeilWr s.partCeilWr t) : t.within s [.wq, .wgl, .lks]
  | .regs, _ => h.regs_eq
  | .time, _ => h.time_eq
  | .inp, _ => h.inp_eq
  | .wq, hp => (hp (by decide)).elim
  | .lpe, _ => h.lpe_eq
  | .hmp, _ => h.hmp_eq
  | .prf, _ => h.prf_eq
  | .site, _ => h.site_eq
  | .zfb, _ => h.zfb_eq
  | .wgl, hp => (hp (by decide)).elim
  | .lks, hp => (hp (by decide)).elim
  | .link, _ => h.link_eq
  | .chn, _ => h.chn_eq
  | .est, _ => h.est_eq
  | .arr, _ => h.arr_eq
  | .flt, _ => h.flt_eq
  | .mgp, _ => h.mgp_eq
  | .sec, _ => h.sec_eq
  | .pwr, _ => h.pwr_eq
  | .cfg, _ => h.cfg_eq
  | .pins, _ => h.pins_eq
  | .shadow, _ => h.shadow_eq
  | .free, _ => h.free_eq
  | .pending, _ => h.pending_eq

end Sys2Proof.Machine
end

