-- ==== Sys2Proof/Laws/ChainS.lean ====
section
/-! SUPPORT. What the sample command of the cell chain leaves alone. -/

namespace Sys2Proof.Machine

/-- The parts of the state that are kept. -/
structure State.ChainSPart where
  time : TimeRt
  inp : InputRt
  wq : List PairWrite
  lpe : LpeRt
  hmp : HmpRt
  prf : PrfRt
  site : SiteRt
  zfb : ZfbRt
  wgl : WglRt
  lks : LksRt
  link : LinkRt
  est : EstRt
  arr : ArrRt
  flt : FltRt
  mgp : MgpRt
  sec : SecRt
  pwr : PwrRt
  cfg : CfgRt
  pins : PinRt
  shadow : List (Nat × Nat × Word)
  free : Nat
  pending : List Instr

/-- Those parts of a state. -/
def State.partChainS (s : State) : State.ChainSPart :=
  ⟨s.time, s.inp, s.wq, s.lpe, s.hmp, s.prf, s.site, s.zfb, s.wgl, s.lks, s.link, s.est, s.arr, s.flt, s.mgp, s.sec, s.pwr, s.cfg, s.pins, s.shadow, s.free, s.pending⟩

/-- Those parts are the ones given. -/
structure ChainS (u : State.ChainSPart) (s : State) : Prop where
  eq : s.partChainS = u

variable {u : State.ChainSPart} {s : State}

theorem ChainS.upd {regs time inp wq lpe hmp prf site zfb wgl lks link chn est arr flt mgp sec pwr cfg pins shadow free pending} (h : ChainS u s) (h_regs : regs = s.regs) (h_time : time = s.time) (h_inp : inp = s.inp) (h_wq : wq = s.wq) (h_lpe : lpe = s.lpe) (h_hmp : hmp = s.hmp) (h_prf : prf = s.prf) (h_site : site = s.site) (h_zfb : zfb = s.zfb) (h_wgl : wgl = s.wgl) (h_lks : lks = s.lks) (h_link : link = s.link) (h_est : est = s.est) (h_arr : arr = s.arr) (h_flt : flt = s.flt) (h_mgp : mgp = s.mgp) (h_sec : sec = s.sec) (h_pwr : pwr = s.pwr) (h_cfg : cfg = s.cfg) (h_pins : pins = s.pins) (h_shadow : shadow = s.shadow) (h_free : free = s.free) (h_pending : pending = s.pending) :
    ChainS u (State.mk regs time inp wq lpe hmp prf site zfb wgl lks link chn est arr flt mgp sec pwr cfg pins shadow free pending) := by
  subst h_regs h_time h_inp h_wq h_lpe h_hmp h_prf h_site h_zfb h_wgl h_lks h_link h_est h_arr h_flt h_mgp h_sec h_pwr h_cfg h_pins h_shadow h_free h_pending
  exact ⟨h.eq⟩

theorem ChainS.rfl' (s : State) : ChainS s.partChainS s := ⟨rfl⟩

/-- What a command answers keeps them. -/
def ChainSo (u : State.ChainSPart) (o : Host.Outcome State Fault Refusal) : Prop := ∀ t, o = Host.Outcome.next t → ChainS u t

theorem ChainSo.next (h : ChainS u s) : ChainSo u (Host.Outcome.next s) := fun t e => by cases e; exact h

theorem ChainS.ite {c : Prop} {_ : Decidable c} {a b : State} (ha : c → ChainS u a) (hb : ¬c → ChainS u b) : ChainS u (if c then a else b) := by
  split
  · exact ha ‹_›
  · exact hb ‹_›

theorem ChainS.dite {c : Prop} {_ : Decidable c} {a : c → State} {b : ¬c → State} (ha : ∀ h, ChainS u (a h)) (hb : ∀ h, ChainS u (b h)) :
    ChainS u (if h : c then a h else b h) := by
  split
  · exact ha _
  · exact hb _

theorem ChainS.iteP {α : Type} {c : Prop} {_ : Decidable c} {a b : State × α} (ha : c → ChainS u a.1) (hb : ¬c → ChainS u b.1) : ChainS u (if c then a else b).1 := by
  split
  · exact ha ‹_›
  · exact hb ‹_›

theorem ChainS.diteP {α : Type} {c : Prop} {_ : Decidable c} {a : c → State × α} {b : ¬c → State × α} (ha : ∀ h, ChainS u (a h).1) (hb : ∀ h, ChainS u (b h).1) :
    ChainS u (if h : c then a h else b h).1 := by
  split
  · exact ha _
  · exact hb _

theorem ChainS.foldl {α : Type} {l : List α} {f : State → α → State} (hf : ∀ t a, ChainS u t → ChainS u (f t a)) (h : ChainS u s) : ChainS u (l.foldl f s) := by
  induction l generalizing s with
  | nil => exact h
  | cons a l ih => exact ih (hf s a h)

theorem ChainS.each {n : Nat} {f : Nat → State → State} (hf : ∀ i t, ChainS u t → ChainS u (f i t)) (h : ChainS u s) : ChainS u (State.each n f s) :=
  ChainS.foldl (fun t a ht => hf a t ht) h

theorem ChainS.over {α : Type} {l : List α} {f : α → State → State} (hf : ∀ i t, ChainS u t → ChainS u (f i t)) (h : ChainS u s) : ChainS u (State.over l f s) :=
  ChainS.foldl (fun t a ht => hf a t ht) h

theorem ChainS.iff {c : Bool} {f : State → State} (hf : ∀ t, ChainS u t → ChainS u (f t)) (h : ChainS u s) : ChainS u (State.iff c f s) := by
  unfold State.iff
  split
  · exact hf s h
  · exact h

theorem ChainS.wr (h : ChainS u s) (a w) : ChainS u (s.wr a w) := ⟨h.eq⟩

theorem ChainS.time_eq (h : ChainS u s) : s.time = u.time := congrArg State.ChainSPart.time h.eq
theorem ChainS.inp_eq (h : ChainS u s) : s.inp = u.inp := congrArg State.ChainSPart.inp h.eq
theorem ChainS.wq_eq (h : ChainS u s) : s.wq = u.wq := congrArg State.ChainSPart.wq h.eq
theorem ChainS.lpe_eq (h : ChainS u s) : s.lpe = u.lpe := congrArg State.ChainSPart.lpe h.eq
theorem ChainS.hmp_eq (h : ChainS u s) : s.hmp = u.hmp := congrArg State.ChainSPart.hmp h.eq
theorem ChainS.prf_eq (h : ChainS u s) : s.prf = u.prf := congrArg State.ChainSPart.prf h.eq
theorem ChainS.site_eq (h : ChainS u s) : s.site = u.site := congrArg State.ChainSPart.site h.eq
theorem ChainS.zfb_eq (h : ChainS u s) : s.zfb = u.zfb := congrArg State.ChainSPart.zfb h.eq
theorem ChainS.wgl_eq (h : ChainS u s) : s.wgl = u.wgl := congrArg State.ChainSPart.wgl h.eq
theorem ChainS.lks_eq (h : ChainS u s) : s.lks = u.lks := congrArg State.ChainSPart.lks h.eq
theorem ChainS.link_eq (h : ChainS u s) : s.link = u.link := congrArg State.ChainSPart.link h.eq
theorem ChainS.est_eq (h : ChainS u s) : s.est = u.est := congrArg State.ChainSPart.est h.eq
theorem ChainS.arr_eq (h : ChainS u s) : s.arr = u.arr := congrArg State.ChainSPart.arr h.eq
theorem ChainS.flt_eq (h : ChainS u s) : s.flt = u.flt := congrArg State.ChainSPart.flt h.eq
theorem ChainS.mgp_eq (h : ChainS u s) : s.mgp = u.mgp := congrArg State.ChainSPart.mgp h.eq
theorem ChainS.sec_eq (h : ChainS u s) : s.sec = u.sec := congrArg State.ChainSPart.sec h.eq
theorem ChainS.pwr_eq (h : ChainS u s) : s.pwr = u.pwr := congrArg State.ChainSPart.pwr h.eq
theorem ChainS.cfg_eq (h : ChainS u s) : s.cfg = u.cfg := congrArg State.ChainSPart.cfg h.eq
theorem ChainS.pins_eq (h : ChainS u s) : s.pins = u.pins := congrArg State.ChainSPart.pins h.eq
theorem ChainS.shadow_eq (h : ChainS u s) : s.shadow = u.shadow := congrArg State.ChainSPart.shadow h.eq
theorem ChainS.free_eq (h : ChainS u s) : s.free = u.free := congrArg State.ChainSPart.free h.eq
theorem ChainS.pending_eq (h : ChainS u s) : s.pending = u.pending := congrArg State.ChainSPart.pending h.eq

theorem ChainS.put (h : ChainS u s) (a1 a2) : ChainS u (State.put s a1 a2) := by
  unfold State.put
  refine ChainS.wr ?_ ..
  exact h

theorem ChainS.put64 (h : ChainS u s) (a1 a2 a3) : ChainS u (State.put64 s a1 a2 a3) := by
  unfold State.put64
  refine ChainS.wr ?_ ..
  refine ChainS.wr ?_ ..
  exact h

theorem ChainS.setRing (h : ChainS u s) (a1 a2) : ChainS u (State.setRing s a1 a2) := by
  unfold State.setRing
  refine ChainS.upd ?_ rfl rfl rfl rfl rfl rfl rfl rfl rfl rfl rfl rfl rfl rfl rfl rfl rfl rfl rfl rfl rfl rfl rfl
  exact h

theorem ChainS.emit (h : ChainS u s) (a1 a2) : ChainS u (State.emit s a1 a2) := by
  unfold State.emit
  refine ChainS.ite (fun _ => ?_) (fun _ => ?_)
  · exact h
  · refine ChainS.setRing ?_ ..
    exact h

theorem ChainS.broadcast (h : ChainS u s) (a1 a2 a3) : ChainS u (State.broadcast s a1 a2 a3) := by
  unfold State.broadcast
  extract_lets +onlyGivenNames -merge -useContext -underBinder x1
  refine ChainS.emit ?_ ..
  refine ChainS.setRing ?_ ..
  exact h

theorem ChainS.countNodes (h : ChainS u s) (a1) : ChainS u (State.countNodes s a1) := by
  unfold State.countNodes
  refine ChainS.put ?_ ..
  exact h

theorem ChainS.execSnapSend_keeps (h : ChainS u s) (a0 a1) : ChainSo u (execSnapSend a0 a1 s) := by
  unfold execSnapSend
  refine ChainSo.next ?_
  refine ChainS.ite (fun _ => ?_) (fun _ => ?_)
  · exact h
  · extract_lets +onlyGivenNames -merge -useContext -underBinder x1
    have hx1 : ChainS u x1 := by
      unfold x1
      refine ChainS.broadcast ?_ ..
      exact h
    extract_lets +onlyGivenNames -merge -useContext -underBinder x2
    extract_lets +onlyGivenNames -merge -useContext -underBinder x3
    have hx3 : ChainS u x3 := by
      unfold x3
      refine ChainS.setRing ?_ ..
      exact hx1
    refine ChainS.put64 ?_ ..
    exact hx3

theorem ChainS.execEnumeration_keeps (h : ChainS u s) (a0 a1) : ChainSo u (execEnumeration a0 a1 s) := by
  unfold execEnumeration
  refine ChainSo.next ?_
  refine ChainS.ite (fun _ => ?_) (fun _ => ?_)
  · refine ChainS.setRing ?_ ..
    refine ChainS.put ?_ ..
    exact h
  · exact h

/-- What those functions may change, as a frame names it. -/
theorem ChainS.within {t : State} (h : ChainS s.partChainS t) : t.within s [.regs, .chn]
  | .regs, hp => (hp (by decide)).elim
  | .time, _ => h.time_eq
  | .inp, _ => h.inp_eq
  | .wq, _ => h.wq_eq
  | .lpe, _ => h.lpe_eq
  | .hmp, _ => h.hmp_eq
  | .prf, _ => h.prf_eq
  | .site, _ => h.site_eq
  | .zfb, _ => h.zfb_eq
  | .wgl, _ => h.wgl_eq
  | .lks, _ => h.lks_eq
  | .link, _ => h.link_eq
  | .chn, hp => (hp (by decide)).elim
  | .est, _ => h.est_eq
  | .arr, _ => h.arr_eq
  | .flt, _ => h.flt_eq
  | .mgp, _ => h.mgp_eq
  | .sec, _ => h.sec_eq
  | .pwr, _ => h.pwr_eq
  | .cfg, _ => h.cfg_eq
  | .pins, _ => h.pins_eq
  | .shadow, _ => h.shadow_eq
  | .free, _ => h.free_eq
  | .pending, _ => h.pending_eq

end Sys2Proof.Machine
end

