-- ==== Sys2Proof/Laws/Copy.lean ====
section
/-! SUPPORT. What the copies of a frame at cycle 620 leave alone: Hamper's, the assembler's, and the arming latches (R92, R433). -/

namespace Sys2Proof.Machine

/-- The parts of the state that are kept. -/
structure State.CopyPart where
  inp : InputRt
  wq : List PairWrite
  lpe : LpeRt
  prf : PrfRt
  site : SiteRt
  zfb : ZfbRt
  wgl : WglRt
  lks : LksRt
  link : LinkRt
  chn : ChnRt
  est : EstRt
  flt : FltRt
  mgp : MgpRt
  sec : SecRt
  pwr : PwrRt
  cfg : CfgRt
  pins : PinRt
  shadow : List (Nat × Nat × Word)
  free : Nat
  pending : List Instr

/-- Those parts of a state. -/
def State.partCopy (s : State) : State.CopyPart :=
  ⟨s.inp, s.wq, s.lpe, s.prf, s.site, s.zfb, s.wgl, s.lks, s.link, s.chn, s.est, s.flt, s.mgp, s.sec, s.pwr, s.cfg, s.pins, s.shadow, s.free, s.pending⟩

/-- Those parts are the ones given. -/
structure Copy (u : State.CopyPart) (s : State) : Prop where
  eq : s.partCopy = u

variable {u : State.CopyPart} {s : State}

theorem Copy.upd {regs time inp wq lpe hmp prf site zfb wgl lks link chn est arr flt mgp sec pwr cfg pins shadow free pending} (h : Copy u s) (h_regs : regs = s.regs) (h_inp : inp = s.inp) (h_wq : wq = s.wq) (h_lpe : lpe = s.lpe) (h_prf : prf = s.prf) (h_site : site = s.site) (h_zfb : zfb = s.zfb) (h_wgl : wgl = s.wgl) (h_lks : lks = s.lks) (h_link : link = s.link) (h_chn : chn = s.chn) (h_est : est = s.est) (h_flt : flt = s.flt) (h_mgp : mgp = s.mgp) (h_sec : sec = s.sec) (h_pwr : pwr = s.pwr) (h_cfg : cfg = s.cfg) (h_pins : pins = s.pins) (h_shadow : shadow = s.shadow) (h_free : free = s.free) (h_pending : pending = s.pending) :
    Copy u (State.mk regs time inp wq lpe hmp prf site zfb wgl lks link chn est arr flt mgp sec pwr cfg pins shadow free pending) := by
  subst h_regs h_inp h_wq h_lpe h_prf h_site h_zfb h_wgl h_lks h_link h_chn h_est h_flt h_mgp h_sec h_pwr h_cfg h_pins h_shadow h_free h_pending
  exact ⟨h.eq⟩

theorem Copy.rfl' (s : State) : Copy s.partCopy s := ⟨rfl⟩

theorem Copy.ite {c : Prop} {_ : Decidable c} {a b : State} (ha : c → Copy u a) (hb : ¬c → Copy u b) : Copy u (if c then a else b) := by
  split
  · exact ha ‹_›
  · exact hb ‹_›

theorem Copy.dite {c : Prop} {_ : Decidable c} {a : c → State} {b : ¬c → State} (ha : ∀ h, Copy u (a h)) (hb : ∀ h, Copy u (b h)) :
    Copy u (if h : c then a h else b h) := by
  split
  · exact ha _
  · exact hb _

theorem Copy.iteP {α : Type} {c : Prop} {_ : Decidable c} {a b : State × α} (ha : c → Copy u a.1) (hb : ¬c → Copy u b.1) : Copy u (if c then a else b).1 := by
  split
  · exact ha ‹_›
  · exact hb ‹_›

theorem Copy.diteP {α : Type} {c : Prop} {_ : Decidable c} {a : c → State × α} {b : ¬c → State × α} (ha : ∀ h, Copy u (a h).1) (hb : ∀ h, Copy u (b h).1) :
    Copy u (if h : c then a h else b h).1 := by
  split
  · exact ha _
  · exact hb _

theorem Copy.foldl {α : Type} {l : List α} {f : State → α → State} (hf : ∀ t a, Copy u t → Copy u (f t a)) (h : Copy u s) : Copy u (l.foldl f s) := by
  induction l generalizing s with
  | nil => exact h
  | cons a l ih => exact ih (hf s a h)

theorem Copy.each {n : Nat} {f : Nat → State → State} (hf : ∀ i t, Copy u t → Copy u (f i t)) (h : Copy u s) : Copy u (State.each n f s) :=
  Copy.foldl (fun t a ht => hf a t ht) h

theorem Copy.over {α : Type} {l : List α} {f : α → State → State} (hf : ∀ i t, Copy u t → Copy u (f i t)) (h : Copy u s) : Copy u (State.over l f s) :=
  Copy.foldl (fun t a ht => hf a t ht) h

theorem Copy.iff {c : Bool} {f : State → State} (hf : ∀ t, Copy u t → Copy u (f t)) (h : Copy u s) : Copy u (State.iff c f s) := by
  unfold State.iff
  split
  · exact hf s h
  · exact h

theorem Copy.wr (h : Copy u s) (a w) : Copy u (s.wr a w) := ⟨h.eq⟩

theorem Copy.inp_eq (h : Copy u s) : s.inp = u.inp := congrArg State.CopyPart.inp h.eq
theorem Copy.wq_eq (h : Copy u s) : s.wq = u.wq := congrArg State.CopyPart.wq h.eq
theorem Copy.lpe_eq (h : Copy u s) : s.lpe = u.lpe := congrArg State.CopyPart.lpe h.eq
theorem Copy.prf_eq (h : Copy u s) : s.prf = u.prf := congrArg State.CopyPart.prf h.eq
theorem Copy.site_eq (h : Copy u s) : s.site = u.site := congrArg State.CopyPart.site h.eq
theorem Copy.zfb_eq (h : Copy u s) : s.zfb = u.zfb := congrArg State.CopyPart.zfb h.eq
theorem Copy.wgl_eq (h : Copy u s) : s.wgl = u.wgl := congrArg State.CopyPart.wgl h.eq
theorem Copy.lks_eq (h : Copy u s) : s.lks = u.lks := congrArg State.CopyPart.lks h.eq
theorem Copy.link_eq (h : Copy u s) : s.link = u.link := congrArg State.CopyPart.link h.eq
theorem Copy.chn_eq (h : Copy u s) : s.chn = u.chn := congrArg State.CopyPart.chn h.eq
theorem Copy.est_eq (h : Copy u s) : s.est = u.est := congrArg State.CopyPart.est h.eq
theorem Copy.flt_eq (h : Copy u s) : s.flt = u.flt := congrArg State.CopyPart.flt h.eq
theorem Copy.mgp_eq (h : Copy u s) : s.mgp = u.mgp := congrArg State.CopyPart.mgp h.eq
theorem Copy.sec_eq (h : Copy u s) : s.sec = u.sec := congrArg State.CopyPart.sec h.eq
theorem Copy.pwr_eq (h : Copy u s) : s.pwr = u.pwr := congrArg State.CopyPart.pwr h.eq
theorem Copy.cfg_eq (h : Copy u s) : s.cfg = u.cfg := congrArg State.CopyPart.cfg h.eq
theorem Copy.pins_eq (h : Copy u s) : s.pins = u.pins := congrArg State.CopyPart.pins h.eq
theorem Copy.shadow_eq (h : Copy u s) : s.shadow = u.shadow := congrArg State.CopyPart.shadow h.eq
theorem Copy.free_eq (h : Copy u s) : s.free = u.free := congrArg State.CopyPart.free h.eq
theorem Copy.pending_eq (h : Copy u s) : s.pending = u.pending := congrArg State.CopyPart.pending h.eq

theorem Copy.put (h : Copy u s) (a1 a2) : Copy u (State.put s a1 a2) := by
  unfold State.put
  refine Copy.wr ?_ ..
  exact h

theorem Copy.setFlag (h : Copy u s) (a1 a2) : Copy u (State.setFlag s a1 a2) := by
  unfold State.setFlag
  refine Copy.put ?_ ..
  exact h

theorem Copy.atCycle (h : Copy u s) (a1) : Copy u (State.atCycle s a1) := by
  unfold State.atCycle
  refine Copy.upd ?_ rfl rfl rfl rfl rfl rfl rfl rfl rfl rfl rfl rfl rfl rfl rfl rfl rfl rfl rfl rfl rfl
  exact h

theorem Copy.put64 (h : Copy u s) (a1 a2 a3) : Copy u (State.put64 s a1 a2 a3) := by
  unfold State.put64
  refine Copy.wr ?_ ..
  refine Copy.wr ?_ ..
  exact h

theorem Copy.hamperRecord (h : Copy u s) : Copy u (State.hamperRecord s) := by
  unfold State.hamperRecord
  extract_lets +onlyGivenNames -merge -useContext -underBinder x1
  extract_lets +onlyGivenNames -merge -useContext -underBinder x2
  refine Copy.ite (fun _ => ?_) (fun _ => ?_)
  · exact h
  · refine Copy.ite (fun _ => ?_) (fun _ => ?_)
    · refine Copy.upd ?_ rfl rfl rfl rfl rfl rfl rfl rfl rfl rfl rfl rfl rfl rfl rfl rfl rfl rfl rfl rfl rfl
      exact h
    · extract_lets +onlyGivenNames -merge -useContext -underBinder x3
      refine Copy.ite (fun _ => ?_) (fun _ => ?_)
      · extract_lets +onlyGivenNames -merge -useContext -underBinder x4
        refine Copy.put ?_ ..
        refine Copy.upd ?_ rfl rfl rfl rfl rfl rfl rfl rfl rfl rfl rfl rfl rfl rfl rfl rfl rfl rfl rfl rfl rfl
        exact h
      · refine Copy.ite (fun _ => ?_) (fun _ => ?_)
        · extract_lets +onlyGivenNames -merge -useContext -underBinder x5
          have hx5 : Copy u x5 := by
            unfold x5
            refine Copy.ite (fun _ => ?_) (fun _ => ?_)
            · refine Copy.put64 ?_ ..
              exact h
            · exact h
          refine Copy.upd (s := x5) ?_ rfl rfl rfl rfl rfl rfl rfl rfl rfl rfl rfl rfl rfl rfl rfl rfl rfl rfl rfl rfl rfl
          exact hx5
        · exact h

theorem Copy.hamperFrame (h : Copy u s) : Copy u (State.hamperFrame s) := by
  unfold State.hamperFrame
  extract_lets +onlyGivenNames -merge -useContext -underBinder x1
  extract_lets +onlyGivenNames -merge -useContext -underBinder x2
  have hx2 : Copy u x2 := by
    unfold x2
    refine Copy.ite (fun _ => ?_) (fun _ => ?_)
    · refine Copy.put ?_ ..
      refine Copy.upd ?_ rfl rfl rfl rfl rfl rfl rfl rfl rfl rfl rfl rfl rfl rfl rfl rfl rfl rfl rfl rfl rfl
      exact h
    · exact h
  extract_lets +onlyGivenNames -merge -useContext -underBinder x3
  have hx3 : Copy u x3 := by
    unfold x3
    refine Copy.hamperRecord ?_ ..
    exact hx2
  refine Copy.upd (s := x3) ?_ rfl rfl rfl rfl rfl rfl rfl rfl rfl rfl rfl rfl rfl rfl rfl rfl rfl rfl rfl rfl rfl
  exact hx3

theorem Copy.armLatch (h : Copy u s) : Copy u (State.armLatch s) := by
  unfold State.armLatch
  refine Copy.foldl (fun _ _ ht1 => ?_) ?_
  · extract_lets +onlyGivenNames -merge -useContext -underBinder x2
    refine Copy.setFlag ?_ ..
    exact ht1
  · exact h

theorem Copy.sampleChannels (h : Copy u s) : Copy u (State.sampleChannels s) := by
  unfold State.sampleChannels
  extract_lets +onlyGivenNames -merge -useContext -underBinder x1
  extract_lets +onlyGivenNames -merge -useContext -underBinder x2
  refine Copy.upd ?_ rfl rfl rfl rfl rfl rfl rfl rfl rfl rfl rfl rfl rfl rfl rfl rfl rfl rfl rfl rfl rfl
  exact h

end Sys2Proof.Machine
end

