-- ==== Sys2Proof/Laws/CoreEnd.lean ====
section
/-! SUPPORT. What a core test, a core's loading and the scrubber leave alone. -/

namespace Sys2Proof.Machine

/-- The parts of the state that are kept. -/
structure State.CoreEndPart where
  time : TimeRt
  inp : InputRt
  wq : List PairWrite
  lpe : LpeRt
  prf : PrfRt
  site : SiteRt
  lks : LksRt
  link : LinkRt
  chn : ChnRt
  est : EstRt
  mgp : MgpRt
  sec : SecRt
  pwr : PwrRt
  cfg : CfgRt
  shadow : List (Nat × Nat × Word)
  free : Nat
  pending : List Instr

/-- Those parts of a state. -/
def State.partCoreEnd (s : State) : State.CoreEndPart :=
  ⟨s.time, s.inp, s.wq, s.lpe, s.prf, s.site, s.lks, s.link, s.chn, s.est, s.mgp, s.sec, s.pwr, s.cfg, s.shadow, s.free, s.pending⟩

/-- Those parts are the ones given. -/
structure CoreEnd (u : State.CoreEndPart) (s : State) : Prop where
  eq : s.partCoreEnd = u

variable {u : State.CoreEndPart} {s : State}

theorem CoreEnd.upd {regs time inp wq lpe hmp prf site zfb wgl lks link chn est arr flt mgp sec pwr cfg pins shadow free pending} (h : CoreEnd u s) (h_regs : regs = s.regs) (h_time : time = s.time) (h_inp : inp = s.inp) (h_wq : wq = s.wq) (h_lpe : lpe = s.lpe) (h_prf : prf = s.prf) (h_site : site = s.site) (h_lks : lks = s.lks) (h_link : link = s.link) (h_chn : chn = s.chn) (h_est : est = s.est) (h_mgp : mgp = s.mgp) (h_sec : sec = s.sec) (h_pwr : pwr = s.pwr) (h_cfg : cfg = s.cfg) (h_shadow : shadow = s.shadow) (h_free : free = s.free) (h_pending : pending = s.pending) :
    CoreEnd u (State.mk regs time inp wq lpe hmp prf site zfb wgl lks link chn est arr flt mgp sec pwr cfg pins shadow free pending) := by
  subst h_regs h_time h_inp h_wq h_lpe h_prf h_site h_lks h_link h_chn h_est h_mgp h_sec h_pwr h_cfg h_shadow h_free h_pending
  exact ⟨h.eq⟩

theorem CoreEnd.rfl' (s : State) : CoreEnd s.partCoreEnd s := ⟨rfl⟩

/-- What a command answers keeps them. -/
def CoreEndo (u : State.CoreEndPart) (o : Host.Outcome State Fault Refusal) : Prop := ∀ t, o = Host.Outcome.next t → CoreEnd u t

theorem CoreEndo.next (h : CoreEnd u s) : CoreEndo u (Host.Outcome.next s) := fun t e => by cases e; exact h

theorem CoreEnd.ite {c : Prop} {_ : Decidable c} {a b : State} (ha : c → CoreEnd u a) (hb : ¬c → CoreEnd u b) : CoreEnd u (if c then a else b) := by
  split
  · exact ha ‹_›
  · exact hb ‹_›

theorem CoreEnd.dite {c : Prop} {_ : Decidable c} {a : c → State} {b : ¬c → State} (ha : ∀ h, CoreEnd u (a h)) (hb : ∀ h, CoreEnd u (b h)) :
    CoreEnd u (if h : c then a h else b h) := by
  split
  · exact ha _
  · exact hb _

theorem CoreEnd.iteP {α : Type} {c : Prop} {_ : Decidable c} {a b : State × α} (ha : c → CoreEnd u a.1) (hb : ¬c → CoreEnd u b.1) : CoreEnd u (if c then a else b).1 := by
  split
  · exact ha ‹_›
  · exact hb ‹_›

theorem CoreEnd.diteP {α : Type} {c : Prop} {_ : Decidable c} {a : c → State × α} {b : ¬c → State × α} (ha : ∀ h, CoreEnd u (a h).1) (hb : ∀ h, CoreEnd u (b h).1) :
    CoreEnd u (if h : c then a h else b h).1 := by
  split
  · exact ha _
  · exact hb _

theorem CoreEnd.foldl {α : Type} {l : List α} {f : State → α → State} (hf : ∀ t a, CoreEnd u t → CoreEnd u (f t a)) (h : CoreEnd u s) : CoreEnd u (l.foldl f s) := by
  induction l generalizing s with
  | nil => exact h
  | cons a l ih => exact ih (hf s a h)

theorem CoreEnd.each {n : Nat} {f : Nat → State → State} (hf : ∀ i t, CoreEnd u t → CoreEnd u (f i t)) (h : CoreEnd u s) : CoreEnd u (State.each n f s) :=
  CoreEnd.foldl (fun t a ht => hf a t ht) h

theorem CoreEnd.over {α : Type} {l : List α} {f : α → State → State} (hf : ∀ i t, CoreEnd u t → CoreEnd u (f i t)) (h : CoreEnd u s) : CoreEnd u (State.over l f s) :=
  CoreEnd.foldl (fun t a ht => hf a t ht) h

theorem CoreEnd.iff {c : Bool} {f : State → State} (hf : ∀ t, CoreEnd u t → CoreEnd u (f t)) (h : CoreEnd u s) : CoreEnd u (State.iff c f s) := by
  unfold State.iff
  split
  · exact hf s h
  · exact h

theorem CoreEnd.wr (h : CoreEnd u s) (a w) : CoreEnd u (s.wr a w) := ⟨h.eq⟩

theorem CoreEnd.time_eq (h : CoreEnd u s) : s.time = u.time := congrArg State.CoreEndPart.time h.eq
theorem CoreEnd.inp_eq (h : CoreEnd u s) : s.inp = u.inp := congrArg State.CoreEndPart.inp h.eq
theorem CoreEnd.wq_eq (h : CoreEnd u s) : s.wq = u.wq := congrArg State.CoreEndPart.wq h.eq
theorem CoreEnd.lpe_eq (h : CoreEnd u s) : s.lpe = u.lpe := congrArg State.CoreEndPart.lpe h.eq
theorem CoreEnd.prf_eq (h : CoreEnd u s) : s.prf = u.prf := congrArg State.CoreEndPart.prf h.eq
theorem CoreEnd.site_eq (h : CoreEnd u s) : s.site = u.site := congrArg State.CoreEndPart.site h.eq
theorem CoreEnd.lks_eq (h : CoreEnd u s) : s.lks = u.lks := congrArg State.CoreEndPart.lks h.eq
theorem CoreEnd.link_eq (h : CoreEnd u s) : s.link = u.link := congrArg State.CoreEndPart.link h.eq
theorem CoreEnd.chn_eq (h : CoreEnd u s) : s.chn = u.chn := congrArg State.CoreEndPart.chn h.eq
theorem CoreEnd.est_eq (h : CoreEnd u s) : s.est = u.est := congrArg State.CoreEndPart.est h.eq
theorem CoreEnd.mgp_eq (h : CoreEnd u s) : s.mgp = u.mgp := congrArg State.CoreEndPart.mgp h.eq
theorem CoreEnd.sec_eq (h : CoreEnd u s) : s.sec = u.sec := congrArg State.CoreEndPart.sec h.eq
theorem CoreEnd.pwr_eq (h : CoreEnd u s) : s.pwr = u.pwr := congrArg State.CoreEndPart.pwr h.eq
theorem CoreEnd.cfg_eq (h : CoreEnd u s) : s.cfg = u.cfg := congrArg State.CoreEndPart.cfg h.eq
theorem CoreEnd.shadow_eq (h : CoreEnd u s) : s.shadow = u.shadow := congrArg State.CoreEndPart.shadow h.eq
theorem CoreEnd.free_eq (h : CoreEnd u s) : s.free = u.free := congrArg State.CoreEndPart.free h.eq
theorem CoreEnd.pending_eq (h : CoreEnd u s) : s.pending = u.pending := congrArg State.CoreEndPart.pending h.eq

theorem CoreEnd.put (h : CoreEnd u s) (a1 a2) : CoreEnd u (State.put s a1 a2) := by
  unfold State.put
  refine CoreEnd.wr ?_ ..
  exact h

theorem CoreEnd.setFlag (h : CoreEnd u s) (a1 a2) : CoreEnd u (State.setFlag s a1 a2) := by
  unfold State.setFlag
  refine CoreEnd.put ?_ ..
  exact h

theorem CoreEnd.bump (h : CoreEnd u s) (a1) : CoreEnd u (State.bump s a1) := by
  unfold State.bump
  refine CoreEnd.put ?_ ..
  exact h

theorem CoreEnd.bumpSat (h : CoreEnd u s) (a1) : CoreEnd u (State.bumpSat s a1) := by
  unfold State.bumpSat
  refine CoreEnd.put ?_ ..
  exact h

theorem CoreEnd.put64 (h : CoreEnd u s) (a1 a2 a3) : CoreEnd u (State.put64 s a1 a2 a3) := by
  unfold State.put64
  refine CoreEnd.wr ?_ ..
  refine CoreEnd.wr ?_ ..
  exact h

theorem CoreEnd.setOs (h : CoreEnd u s) (a1 a2) : CoreEnd u (State.setOs s a1 a2) := by
  unfold State.setOs
  refine CoreEnd.upd ?_ rfl rfl rfl rfl rfl rfl rfl rfl rfl rfl rfl rfl rfl rfl rfl rfl rfl rfl
  exact h

theorem CoreEnd.putOs (h : CoreEnd u s) (a1 a2 a3) : CoreEnd u (State.putOs s a1 a2 a3) := by
  unfold State.putOs
  refine CoreEnd.put ?_ ..
  refine CoreEnd.put ?_ ..
  exact h

theorem CoreEnd.setLane (h : CoreEnd u s) (a1 a2) : CoreEnd u (State.setLane s a1 a2) := by
  unfold State.setLane
  refine CoreEnd.dite (fun _ => ?_) (fun _ => ?_)
  · refine CoreEnd.upd ?_ rfl rfl rfl rfl rfl rfl rfl rfl rfl rfl rfl rfl rfl rfl rfl rfl rfl rfl
    exact h
  · exact h

theorem CoreEnd.capture (h : CoreEnd u s) (a1 a2 a3 a4) : CoreEnd u (State.capture s a1 a2 a3 a4) := by
  unfold State.capture
  extract_lets +onlyGivenNames -merge -useContext -underBinder x1
  refine CoreEnd.ite (fun _ => ?_) (fun _ => ?_)
  · extract_lets +onlyGivenNames -merge -useContext -underBinder x2
    extract_lets +onlyGivenNames -merge -useContext -underBinder x3
    have hx3 : CoreEnd u x3 := by
      unfold x3
      refine CoreEnd.wr ?_ ..
      exact h
    extract_lets +onlyGivenNames -merge -useContext -underBinder x4
    have hx4 : CoreEnd u x4 := by
      unfold x4
      refine CoreEnd.put64 ?_ ..
      exact hx3
    refine CoreEnd.put ?_ ..
    exact hx4
  · refine CoreEnd.ite (fun _ => ?_) (fun _ => ?_)
    · exact h
    · extract_lets +onlyGivenNames -merge -useContext -underBinder x5
      have hx5 : CoreEnd u x5 := by
        unfold x5
        refine CoreEnd.wr ?_ ..
        exact h
      extract_lets +onlyGivenNames -merge -useContext -underBinder x6
      have hx6 : CoreEnd u x6 := by
        unfold x6
        refine CoreEnd.wr ?_ ..
        exact hx5
      refine CoreEnd.put64 ?_ ..
      exact hx6

theorem CoreEnd.restoreShed (h : CoreEnd u s) (a1) : CoreEnd u (State.restoreShed s a1) := by
  unfold State.restoreShed
  refine CoreEnd.each (fun _ _ ht1 => ?_) ?_
  · refine CoreEnd.ite (fun _ => ?_) (fun _ => ?_)
    · refine CoreEnd.putOs ?_ ..
      exact ht1
    · exact ht1
  · exact h

theorem CoreEnd.leaveBatch (h : CoreEnd u s) (a1) : CoreEnd u (State.leaveBatch s a1) := by
  unfold State.leaveBatch
  refine CoreEnd.ite (fun _ => ?_) (fun _ => ?_)
  · refine CoreEnd.put ?_ ..
    refine CoreEnd.setFlag ?_ ..
    exact h
  · exact h

theorem CoreEnd.fenceOs (h : CoreEnd u s) (a1 a2) : CoreEnd u (State.fenceOs s a1 a2) := by
  unfold State.fenceOs
  extract_lets +onlyGivenNames -merge -useContext -underBinder x1
  have hx1 : CoreEnd u x1 := by
    unfold x1
    refine CoreEnd.setOs ?_ ..
    refine CoreEnd.leaveBatch ?_ ..
    refine CoreEnd.put ?_ ..
    refine CoreEnd.put ?_ ..
    exact h
  refine CoreEnd.ite (fun _ => ?_) (fun _ => ?_)
  · refine CoreEnd.restoreShed ?_ ..
    exact hx1
  · exact hx1

theorem CoreEnd.fenceSs (h : CoreEnd u s) (a1) : CoreEnd u (State.fenceSs s a1) := by
  unfold State.fenceSs
  refine CoreEnd.upd ?_ rfl rfl rfl rfl rfl rfl rfl rfl rfl rfl rfl rfl rfl rfl rfl rfl rfl rfl
  exact h

theorem CoreEnd.fenceFe (h : CoreEnd u s) (a1) : CoreEnd u (State.fenceFe s a1) := by
  unfold State.fenceFe
  refine CoreEnd.upd ?_ rfl rfl rfl rfl rfl rfl rfl rfl rfl rfl rfl rfl rfl rfl rfl rfl rfl rfl
  exact h

theorem CoreEnd.fenceStr (h : CoreEnd u s) (a1) : CoreEnd u (State.fenceStr s a1) := by
  unfold State.fenceStr
  extract_lets +onlyGivenNames -merge -useContext -underBinder x1
  extract_lets +onlyGivenNames -merge -useContext -underBinder x2
  have hx2 : CoreEnd u x2 := by
    unfold x2
    refine CoreEnd.upd ?_ rfl rfl rfl rfl rfl rfl rfl rfl rfl rfl rfl rfl rfl rfl rfl rfl rfl rfl
    exact h
  refine CoreEnd.fenceSs ?_ ..
  refine CoreEnd.fenceSs ?_ ..
  exact hx2

theorem CoreEnd.zoneFenceStage (h : CoreEnd u s) (a1 a2) : CoreEnd u (State.zoneFenceStage s a1 a2) := by
  unfold State.zoneFenceStage
  extract_lets +onlyGivenNames -merge -useContext -underBinder x1
  refine CoreEnd.ite (fun _ => ?_) (fun _ => ?_)
  · refine CoreEnd.setOs ?_ ..
    refine CoreEnd.putOs ?_ ..
    exact h
  · refine CoreEnd.ite (fun _ => ?_) (fun _ => ?_)
    · refine CoreEnd.setOs ?_ ..
      refine CoreEnd.putOs ?_ ..
      exact h
    · refine CoreEnd.ite (fun _ => ?_) (fun _ => ?_)
      · refine CoreEnd.setOs ?_ ..
        refine CoreEnd.putOs ?_ ..
        exact h
      · exact h

theorem CoreEnd.fenceZone (h : CoreEnd u s) (a1) : CoreEnd u (State.fenceZone s a1) := by
  unfold State.fenceZone
  extract_lets +onlyGivenNames -merge -useContext -underBinder x1
  extract_lets +onlyGivenNames -merge -useContext -underBinder x2
  have hx2 : CoreEnd u x2 := by
    unfold x2
    refine CoreEnd.upd ?_ rfl rfl rfl rfl rfl rfl rfl rfl rfl rfl rfl rfl rfl rfl rfl rfl rfl rfl
    exact h
  extract_lets +onlyGivenNames -merge -useContext -underBinder x3
  have hx3 : CoreEnd u x3 := by
    unfold x3
    refine CoreEnd.foldl (fun _ _ ht4 => ?_) ?_
    · refine CoreEnd.zoneFenceStage ?_ ..
      exact ht4
    · exact hx2
  extract_lets +onlyGivenNames -merge -useContext -underBinder x5
  have hx5 : CoreEnd u x5 := by
    unfold x5
    refine CoreEnd.setFlag ?_ ..
    exact hx3
  extract_lets +onlyGivenNames -merge -useContext -underBinder x6
  refine CoreEnd.upd (s := x5) ?_ rfl rfl rfl rfl rfl rfl rfl rfl rfl rfl rfl rfl rfl rfl rfl rfl rfl rfl
  exact hx5

theorem CoreEnd.fenceGroup (h : CoreEnd u s) (a1) : CoreEnd u (State.fenceGroup s a1) := by
  unfold State.fenceGroup
  refine CoreEnd.foldl (fun _ _ ht1 => ?_) ?_
  · refine CoreEnd.ite (fun _ => ?_) (fun _ => ?_)
    · refine CoreEnd.fenceFe ?_ ..
      exact ht1
    · exact ht1
  · exact h

theorem CoreEnd.fenceLane (h : CoreEnd u s) (a1) : CoreEnd u (State.fenceLane s a1) := by
  unfold State.fenceLane
  extract_lets +onlyGivenNames -merge -useContext -underBinder x1
  have hx1 : CoreEnd u x1 := by
    unfold x1
    refine CoreEnd.setFlag ?_ ..
    exact h
  extract_lets +onlyGivenNames -merge -useContext -underBinder x2
  have hx2 : CoreEnd u x2 := by
    unfold x2
    refine CoreEnd.setFlag ?_ ..
    exact hx1
  refine CoreEnd.setLane ?_ ..
  exact hx2

theorem CoreEnd.fenceCore (h : CoreEnd u s) (a1 a2) : CoreEnd u (State.fenceCore s a1 a2) := by
  unfold State.fenceCore
  refine CoreEnd.put ?_ ..
  refine CoreEnd.put ?_ ..
  exact h

theorem CoreEnd.fenceUnit (h : CoreEnd u s) (a1) : CoreEnd u (State.fenceUnit s a1) := by
  unfold State.fenceUnit
  extract_lets +onlyGivenNames -merge -useContext -underBinder x1
  split
  · refine CoreEnd.dite (fun _ => ?_) (fun _ => ?_)
    · refine CoreEnd.fenceOs ?_ ..
      exact h
    · exact h
  · refine CoreEnd.dite (fun _ => ?_) (fun _ => ?_)
    · refine CoreEnd.fenceSs ?_ ..
      exact h
    · exact h
  · refine CoreEnd.dite (fun _ => ?_) (fun _ => ?_)
    · refine CoreEnd.fenceFe ?_ ..
      exact h
    · exact h
  · refine CoreEnd.fenceGroup ?_ ..
    exact h
  · refine CoreEnd.dite (fun _ => ?_) (fun _ => ?_)
    · refine CoreEnd.fenceZone ?_ ..
      exact h
    · exact h
  · refine CoreEnd.dite (fun _ => ?_) (fun _ => ?_)
    · refine CoreEnd.fenceStr ?_ ..
      exact h
    · exact h
  · refine CoreEnd.put ?_ ..
    refine CoreEnd.put ?_ ..
    exact h
  · refine CoreEnd.dite (fun _ => ?_) (fun _ => ?_)
    · refine CoreEnd.fenceLane ?_ ..
      exact h
    · exact h
  · refine CoreEnd.fenceCore ?_ ..
    exact h
  · refine CoreEnd.put ?_ ..
    exact h
  · refine CoreEnd.dite (fun _ => ?_) (fun _ => ?_)
    · refine CoreEnd.upd ?_ rfl rfl rfl rfl rfl rfl rfl rfl rfl rfl rfl rfl rfl rfl rfl rfl rfl rfl
      exact h
    · exact h
  · exact h

theorem CoreEnd.enterSafe (h : CoreEnd u s) : CoreEnd u (State.enterSafe s) := by
  unfold State.enterSafe
  extract_lets +onlyGivenNames -merge -useContext -underBinder x1
  extract_lets +onlyGivenNames -merge -useContext -underBinder x2
  extract_lets +onlyGivenNames -merge -useContext -underBinder x3
  have hx3 : CoreEnd u x3 := by
    unfold x3
    refine CoreEnd.upd ?_ rfl rfl rfl rfl rfl rfl rfl rfl rfl rfl rfl rfl rfl rfl rfl rfl rfl rfl
    exact h
  extract_lets +onlyGivenNames -merge -useContext -underBinder x4
  have hx4 : CoreEnd u x4 := by
    unfold x4
    refine CoreEnd.each (fun _ _ ht5 => ?_) ?_
    · refine CoreEnd.put ?_ ..
      exact ht5
    · exact hx3
  extract_lets +onlyGivenNames -merge -useContext -underBinder x6
  have hx6 : CoreEnd u x6 := by
    unfold x6
    refine CoreEnd.each (fun _ _ ht7 => ?_) ?_
    · refine CoreEnd.put ?_ ..
      exact ht7
    · exact hx4
  refine CoreEnd.setFlag ?_ ..
  refine CoreEnd.put ?_ ..
  exact hx6

theorem CoreEnd.startDump (h : CoreEnd u s) (a1 a2) : CoreEnd u (State.startDump s a1 a2) := by
  unfold State.startDump
  refine CoreEnd.ite (fun _ => ?_) (fun _ => ?_)
  · refine CoreEnd.upd ?_ rfl rfl rfl rfl rfl rfl rfl rfl rfl rfl rfl rfl rfl rfl rfl rfl rfl rfl
    exact h
  · refine CoreEnd.setFlag ?_ ..
    refine CoreEnd.upd ?_ rfl rfl rfl rfl rfl rfl rfl rfl rfl rfl rfl rfl rfl rfl rfl rfl rfl rfl
    exact h

theorem CoreEnd.halt (h : CoreEnd u s) (a1) : CoreEnd u (State.halt s a1) := by
  unfold State.halt
  extract_lets +onlyGivenNames -merge -useContext -underBinder x1
  have hx1 : CoreEnd u x1 := by
    unfold x1
    refine CoreEnd.setFlag ?_ ..
    exact h
  extract_lets +onlyGivenNames -merge -useContext -underBinder x2
  have hx2 : CoreEnd u x2 := by
    unfold x2
    refine CoreEnd.enterSafe ?_ ..
    exact hx1
  refine CoreEnd.ite (fun _ => ?_) (fun _ => ?_)
  · refine CoreEnd.startDump ?_ ..
    refine CoreEnd.upd (s := x2) ?_ rfl rfl rfl rfl rfl rfl rfl rfl rfl rfl rfl rfl rfl rfl rfl rfl rfl rfl
    exact hx2
  · exact hx2

theorem CoreEnd.setPending (h : CoreEnd u s) (a1 a2 a3 a4) : CoreEnd u (State.setPending s a1 a2 a3 a4) := by
  unfold State.setPending
  extract_lets +onlyGivenNames -merge -useContext -underBinder x1
  extract_lets +onlyGivenNames -merge -useContext -underBinder x2
  have hx2 : CoreEnd u x2 := by
    unfold x2
    refine CoreEnd.put ?_ ..
    exact h
  refine CoreEnd.upd (s := x2) ?_ rfl rfl rfl rfl rfl rfl rfl rfl rfl rfl rfl rfl rfl rfl rfl rfl rfl rfl
  exact hx2

theorem CoreEnd.countFault (h : CoreEnd u s) (a1 a2 a3 a4 a5) : CoreEnd u (State.countFault s a1 a2 a3 a4 a5) := by
  unfold State.countFault
  extract_lets +onlyGivenNames -merge -useContext -underBinder x1
  have hx1 : CoreEnd u x1 := by
    unfold x1
    refine CoreEnd.capture ?_ ..
    refine CoreEnd.bump ?_ ..
    exact h
  refine CoreEnd.ite (fun _ => ?_) (fun _ => ?_)
  · refine CoreEnd.upd (s := x1) ?_ rfl rfl rfl rfl rfl rfl rfl rfl rfl rfl rfl rfl rfl rfl rfl rfl rfl rfl
    exact hx1
  · exact hx1

theorem CoreEnd.recordAt (h : CoreEnd u s) (a1 a2 a3 a4 a5 a6 a7) : CoreEnd u (State.recordAt s a1 a2 a3 a4 a5 a6 a7) := by
  unfold State.recordAt
  extract_lets +onlyGivenNames -merge -useContext -underBinder x1
  extract_lets +onlyGivenNames -merge -useContext -underBinder x2
  extract_lets +onlyGivenNames -merge -useContext -underBinder x3
  extract_lets +onlyGivenNames -merge -useContext -underBinder x4
  have hx4 : CoreEnd u x4 := by
    unfold x4
    refine CoreEnd.countFault ?_ ..
    exact h
  refine CoreEnd.ite (fun _ => ?_) (fun _ => ?_)
  · refine CoreEnd.halt ?_ ..
    exact hx4
  · extract_lets +onlyGivenNames -merge -useContext -underBinder x5
    have hx5 : CoreEnd u x5 := by
      unfold x5
      refine CoreEnd.ite (fun _ => ?_) (fun _ => ?_)
      · exact hx4
      · refine CoreEnd.setPending ?_ ..
        exact hx4
    refine CoreEnd.ite (fun _ => ?_) (fun _ => ?_)
    · refine CoreEnd.fenceUnit ?_ ..
      exact hx5
    · exact hx5

theorem CoreEnd.record (h : CoreEnd u s) (a1 a2 a3 a4) : CoreEnd u (State.record s a1 a2 a3 a4) := by
  unfold State.record
  refine CoreEnd.recordAt ?_ ..
  exact h

theorem CoreEnd.setCore (h : CoreEnd u s) (a1 a2) : CoreEnd u (State.setCore s a1 a2) := by
  unfold State.setCore
  refine CoreEnd.upd ?_ rfl rfl rfl rfl rfl rfl rfl rfl rfl rfl rfl rfl rfl rfl rfl rfl rfl rfl
  exact h

theorem CoreEnd.countCores (h : CoreEnd u s) : CoreEnd u (State.countCores s) := by
  unfold State.countCores
  extract_lets +onlyGivenNames -merge -useContext -underBinder x1
  refine CoreEnd.put ?_ ..
  refine CoreEnd.put ?_ ..
  refine CoreEnd.put ?_ ..
  refine CoreEnd.put ?_ ..
  exact h

theorem CoreEnd.freeCore (h : CoreEnd u s) (a1) : CoreEnd u (State.freeCore s a1) := by
  unfold State.freeCore
  refine CoreEnd.setCore ?_ ..
  refine CoreEnd.put ?_ ..
  refine CoreEnd.put ?_ ..
  exact h

theorem CoreEnd.fenceCoreNow (h : CoreEnd u s) (a1 a2) : CoreEnd u (State.fenceCoreNow s a1 a2) := by
  unfold State.fenceCoreNow
  refine CoreEnd.countCores ?_ ..
  refine CoreEnd.setCore ?_ ..
  refine CoreEnd.put ?_ ..
  refine CoreEnd.fenceCore ?_ ..
  exact h

theorem CoreEnd.testPassed (h : CoreEnd u s) (a1) : CoreEnd u (State.testPassed s a1) := by
  unfold State.testPassed
  refine CoreEnd.ite (fun _ => ?_) (fun _ => ?_)
  · refine CoreEnd.bump ?_ ..
    exact h
  · refine CoreEnd.countCores ?_ ..
    refine CoreEnd.put ?_ ..
    refine CoreEnd.bump ?_ ..
    exact h

theorem CoreEnd.testFailed (h : CoreEnd u s) (a1) : CoreEnd u (State.testFailed s a1) := by
  unfold State.testFailed
  refine CoreEnd.record ?_ ..
  refine CoreEnd.fenceCoreNow ?_ ..
  refine CoreEnd.setFlag ?_ ..
  refine CoreEnd.setFlag ?_ ..
  exact h

theorem CoreEnd.execCoreTestSetEnd_keeps (h : CoreEnd u s) (a0 a1) : CoreEndo u (execCoreTestSetEnd a0 a1 s) := by
  unfold execCoreTestSetEnd
  refine CoreEndo.next ?_
  refine CoreEnd.ite (fun _ => ?_) (fun _ => ?_)
  · refine CoreEnd.ite (fun _ => ?_) (fun _ => ?_)
    · refine CoreEnd.testPassed ?_ ..
      exact h
    · refine CoreEnd.testFailed ?_ ..
      exact h
  · exact h

theorem CoreEnd.weightWord (h : CoreEnd u s) (a1) : CoreEnd u (State.weightWord s a1) := by
  unfold State.weightWord
  refine CoreEnd.dite (fun _ => ?_) (fun _ => ?_)
  · extract_lets +onlyGivenNames -merge -useContext -underBinder x1
    refine CoreEnd.ite (fun _ => ?_) (fun _ => ?_)
    · refine CoreEnd.record ?_ ..
      refine CoreEnd.bump ?_ ..
      refine CoreEnd.bumpSat ?_ ..
      exact h
    · refine CoreEnd.record ?_ ..
      refine CoreEnd.fenceCoreNow ?_ ..
      refine CoreEnd.bumpSat ?_ ..
      exact h
  · exact h

theorem CoreEnd.scrubOn (h : CoreEnd u s) : CoreEnd u (State.scrubOn s) := by
  unfold State.scrubOn
  refine CoreEnd.upd ?_ rfl rfl rfl rfl rfl rfl rfl rfl rfl rfl rfl rfl rfl rfl rfl rfl rfl rfl
  exact h

theorem CoreEnd.execScrubWord_keeps (h : CoreEnd u s) : CoreEndo u (execScrubWord s) := by
  unfold execScrubWord
  refine CoreEndo.next ?_
  refine CoreEnd.ite (fun _ => ?_) (fun _ => ?_)
  · refine CoreEnd.foldl (fun _ _ ht1 => ?_) ?_
    · refine CoreEnd.weightWord ?_ ..
      exact ht1
    · refine CoreEnd.scrubOn ?_ ..
      exact h
  · exact h

theorem CoreEnd.setSlot (h : CoreEnd u s) (a1 a2) : CoreEnd u (State.setSlot s a1 a2) := by
  unfold State.setSlot
  refine CoreEnd.upd ?_ rfl rfl rfl rfl rfl rfl rfl rfl rfl rfl rfl rfl rfl rfl rfl rfl rfl rfl
  exact h

theorem CoreEnd.refuseMdl (h : CoreEnd u s) (a1 a2) : CoreEnd u (State.refuseMdl s a1 a2) := by
  unfold State.refuseMdl
  refine CoreEnd.put ?_ ..
  refine CoreEnd.put ?_ ..
  exact h

theorem CoreEnd.slotRegs (h : CoreEnd u s) (a1) : CoreEnd u (State.slotRegs s a1) := by
  unfold State.slotRegs
  extract_lets +onlyGivenNames -merge -useContext -underBinder x1
  extract_lets +onlyGivenNames -merge -useContext -underBinder x2
  extract_lets +onlyGivenNames -merge -useContext -underBinder x3
  extract_lets +onlyGivenNames -merge -useContext -underBinder x4
  extract_lets +onlyGivenNames -merge -useContext -underBinder x5
  extract_lets +onlyGivenNames -merge -useContext -underBinder x6
  have hx6 : CoreEnd u x6 := by
    unfold x6
    refine CoreEnd.put ?_ ..
    refine CoreEnd.put ?_ ..
    exact h
  extract_lets +onlyGivenNames -merge -useContext -underBinder x7
  have hx7 : CoreEnd u x7 := by
    unfold x7
    refine CoreEnd.put ?_ ..
    refine CoreEnd.put64 ?_ ..
    exact hx6
  refine CoreEnd.setFlag ?_ ..
  exact hx7

theorem CoreEnd.mdlCounts (h : CoreEnd u s) : CoreEnd u (State.mdlCounts s) := by
  unfold State.mdlCounts
  extract_lets +onlyGivenNames -merge -useContext -underBinder x1
  have hx1 : CoreEnd u x1 := by
    unfold x1
    refine CoreEnd.put ?_ ..
    exact h
  extract_lets +onlyGivenNames -merge -useContext -underBinder x2
  have hx2 : CoreEnd u x2 := by
    unfold x2
    refine CoreEnd.put ?_ ..
    exact hx1
  extract_lets +onlyGivenNames -merge -useContext -underBinder x3
  have hx3 : CoreEnd u x3 := by
    unfold x3
    refine CoreEnd.put ?_ ..
    exact hx2
  extract_lets +onlyGivenNames -merge -useContext -underBinder x4
  have hx4 : CoreEnd u x4 := by
    unfold x4
    refine CoreEnd.put ?_ ..
    exact hx3
  extract_lets +onlyGivenNames -merge -useContext -underBinder x5
  have hx5 : CoreEnd u x5 := by
    unfold x5
    refine CoreEnd.put ?_ ..
    exact hx4
  refine CoreEnd.countCores ?_ ..
  refine CoreEnd.each (fun _ _ ht6 => ?_) ?_
  · refine CoreEnd.put ?_ ..
    exact ht6
  · exact hx5

theorem CoreEnd.releaseSlot (h : CoreEnd u s) (a1) : CoreEnd u (State.releaseSlot s a1) := by
  unfold State.releaseSlot
  extract_lets +onlyGivenNames -merge -useContext -underBinder x1
  have hx1 : CoreEnd u x1 := by
    unfold x1
    refine CoreEnd.foldl (fun _ _ ht2 => ?_) ?_
    · split
      · refine CoreEnd.dite (fun _ => ?_) (fun _ => ?_)
        · refine CoreEnd.ite (fun _ => ?_) (fun _ => ?_)
          · refine CoreEnd.freeCore ?_ ..
            exact ht2
          · exact ht2
        · exact ht2
      · exact ht2
    · exact h
  refine CoreEnd.setSlot ?_ ..
  exact hx1

theorem CoreEnd.leaveSlot (h : CoreEnd u s) (a1 a2) : CoreEnd u (State.leaveSlot s a1 a2) := by
  unfold State.leaveSlot
  refine CoreEnd.mdlCounts ?_ ..
  refine CoreEnd.put ?_ ..
  refine CoreEnd.slotRegs ?_ ..
  refine CoreEnd.put ?_ ..
  refine CoreEnd.releaseSlot ?_ ..
  exact h

theorem CoreEnd.quarantine (h : CoreEnd u s) (a1) : CoreEnd u (State.quarantine s a1) := by
  unfold State.quarantine
  refine CoreEnd.record ?_ ..
  refine CoreEnd.leaveSlot ?_ ..
  exact h

theorem CoreEnd.coreBound (h : CoreEnd u s) (a1) : CoreEnd u (State.coreBound s a1) := by
  unfold State.coreBound
  refine CoreEnd.countCores ?_ ..
  refine CoreEnd.setCore ?_ ..
  refine CoreEnd.put ?_ ..
  exact h

theorem CoreEnd.loadFailed (h : CoreEnd u s) (a1) : CoreEnd u (State.loadFailed s a1) := by
  unfold State.loadFailed
  refine CoreEnd.dite (fun _ => ?_) (fun _ => ?_)
  · refine CoreEnd.refuseMdl ?_ ..
    refine CoreEnd.quarantine ?_ ..
    exact h
  · exact h

theorem CoreEnd.execCoreLoaded_keeps (h : CoreEnd u s) (a0 a1) : CoreEndo u (execCoreLoaded a0 a1 s) := by
  unfold execCoreLoaded
  refine CoreEndo.next ?_
  refine CoreEnd.ite (fun _ => ?_) (fun _ => ?_)
  · refine CoreEnd.ite (fun _ => ?_) (fun _ => ?_)
    · refine CoreEnd.coreBound ?_ ..
      exact h
    · refine CoreEnd.loadFailed ?_ ..
      exact h
  · exact h

/-- What those functions may change, as a frame names it. -/
theorem CoreEnd.within {t : State} (h : CoreEnd s.partCoreEnd t) : t.within s [.regs, .hmp, .zfb, .wgl, .arr, .flt, .pins]
  | .regs, hp => (hp (by decide)).elim
  | .time, _ => h.time_eq
  | .inp, _ => h.inp_eq
  | .wq, _ => h.wq_eq
  | .lpe, _ => h.lpe_eq
  | .hmp, hp => (hp (by decide)).elim
  | .prf, _ => h.prf_eq
  | .site, _ => h.site_eq
  | .zfb, hp => (hp (by decide)).elim
  | .wgl, hp => (hp (by decide)).elim
  | .lks, _ => h.lks_eq
  | .link, _ => h.link_eq
  | .chn, _ => h.chn_eq
  | .est, _ => h.est_eq
  | .arr, hp => (hp (by decide)).elim
  | .flt, hp => (hp (by decide)).elim
  | .mgp, _ => h.mgp_eq
  | .sec, _ => h.sec_eq
  | .pwr, _ => h.pwr_eq
  | .cfg, _ => h.cfg_eq
  | .pins, hp => (hp (by decide)).elim
  | .shadow, _ => h.shadow_eq
  | .free, _ => h.free_eq
  | .pending, _ => h.pending_eq

end Sys2Proof.Machine
end

