-- ==== Sys2Proof/Laws/Draw.lean ====
section
/-! SUPPORT. What the changes of grid state leave alone. -/

namespace Sys2Proof.Machine

/-- The parts of the state that are kept. -/
structure State.DrawPart where
  time : TimeRt
  inp : InputRt
  wq : List PairWrite
  lpe : LpeRt
  hmp : HmpRt
  zfb : ZfbRt
  wgl : WglRt
  lks : LksRt
  link : LinkRt
  chn : ChnRt
  est : EstRt
  arr : ArrRt
  flt : FltRt
  mgp : MgpRt
  sec : SecRt
  pwr : PwrRt
  cfg : CfgRt
  pins : PinRt
  shadow : List (Nat × Nat × Word)
  free : Nat
  pending : List Instr

/-- Those parts of a state. -/
def State.partDraw (s : State) : State.DrawPart :=
  ⟨s.time, s.inp, s.wq, s.lpe, s.hmp, s.zfb, s.wgl, s.lks, s.link, s.chn, s.est, s.arr, s.flt, s.mgp, s.sec, s.pwr, s.cfg, s.pins, s.shadow, s.free, s.pending⟩

/-- Those parts are the ones given. -/
structure Draw (u : State.DrawPart) (s : State) : Prop where
  eq : s.partDraw = u

variable {u : State.DrawPart} {s : State}

theorem Draw.upd {regs time inp wq lpe hmp prf site zfb wgl lks link chn est arr flt mgp sec pwr cfg pins shadow free pending} (h : Draw u s) (h_regs : regs = s.regs) (h_time : time = s.time) (h_inp : inp = s.inp) (h_wq : wq = s.wq) (h_lpe : lpe = s.lpe) (h_hmp : hmp = s.hmp) (h_zfb : zfb = s.zfb) (h_wgl : wgl = s.wgl) (h_lks : lks = s.lks) (h_link : link = s.link) (h_chn : chn = s.chn) (h_est : est = s.est) (h_arr : arr = s.arr) (h_flt : flt = s.flt) (h_mgp : mgp = s.mgp) (h_sec : sec = s.sec) (h_pwr : pwr = s.pwr) (h_cfg : cfg = s.cfg) (h_pins : pins = s.pins) (h_shadow : shadow = s.shadow) (h_free : free = s.free) (h_pending : pending = s.pending) :
    Draw u (State.mk regs time inp wq lpe hmp prf site zfb wgl lks link chn est arr flt mgp sec pwr cfg pins shadow free pending) := by
  subst h_regs h_time h_inp h_wq h_lpe h_hmp h_zfb h_wgl h_lks h_link h_chn h_est h_arr h_flt h_mgp h_sec h_pwr h_cfg h_pins h_shadow h_free h_pending
  exact ⟨h.eq⟩

theorem Draw.rfl' (s : State) : Draw s.partDraw s := ⟨rfl⟩

/-- What a command answers keeps them. -/
def Drawo (u : State.DrawPart) (o : Host.Outcome State Fault Refusal) : Prop := ∀ t, o = Host.Outcome.next t → Draw u t

theorem Drawo.next (h : Draw u s) : Drawo u (Host.Outcome.next s) := fun t e => by cases e; exact h

theorem Draw.ite {c : Prop} {_ : Decidable c} {a b : State} (ha : c → Draw u a) (hb : ¬c → Draw u b) : Draw u (if c then a else b) := by
  split
  · exact ha ‹_›
  · exact hb ‹_›

theorem Draw.dite {c : Prop} {_ : Decidable c} {a : c → State} {b : ¬c → State} (ha : ∀ h, Draw u (a h)) (hb : ∀ h, Draw u (b h)) :
    Draw u (if h : c then a h else b h) := by
  split
  · exact ha _
  · exact hb _

theorem Draw.iteP {α : Type} {c : Prop} {_ : Decidable c} {a b : State × α} (ha : c → Draw u a.1) (hb : ¬c → Draw u b.1) : Draw u (if c then a else b).1 := by
  split
  · exact ha ‹_›
  · exact hb ‹_›

theorem Draw.diteP {α : Type} {c : Prop} {_ : Decidable c} {a : c → State × α} {b : ¬c → State × α} (ha : ∀ h, Draw u (a h).1) (hb : ∀ h, Draw u (b h).1) :
    Draw u (if h : c then a h else b h).1 := by
  split
  · exact ha _
  · exact hb _

theorem Draw.foldl {α : Type} {l : List α} {f : State → α → State} (hf : ∀ t a, Draw u t → Draw u (f t a)) (h : Draw u s) : Draw u (l.foldl f s) := by
  induction l generalizing s with
  | nil => exact h
  | cons a l ih => exact ih (hf s a h)

theorem Draw.each {n : Nat} {f : Nat → State → State} (hf : ∀ i t, Draw u t → Draw u (f i t)) (h : Draw u s) : Draw u (State.each n f s) :=
  Draw.foldl (fun t a ht => hf a t ht) h

theorem Draw.over {α : Type} {l : List α} {f : α → State → State} (hf : ∀ i t, Draw u t → Draw u (f i t)) (h : Draw u s) : Draw u (State.over l f s) :=
  Draw.foldl (fun t a ht => hf a t ht) h

theorem Draw.iff {c : Bool} {f : State → State} (hf : ∀ t, Draw u t → Draw u (f t)) (h : Draw u s) : Draw u (State.iff c f s) := by
  unfold State.iff
  split
  · exact hf s h
  · exact h

theorem Draw.wr (h : Draw u s) (a w) : Draw u (s.wr a w) := ⟨h.eq⟩

theorem Draw.time_eq (h : Draw u s) : s.time = u.time := congrArg State.DrawPart.time h.eq
theorem Draw.inp_eq (h : Draw u s) : s.inp = u.inp := congrArg State.DrawPart.inp h.eq
theorem Draw.wq_eq (h : Draw u s) : s.wq = u.wq := congrArg State.DrawPart.wq h.eq
theorem Draw.lpe_eq (h : Draw u s) : s.lpe = u.lpe := congrArg State.DrawPart.lpe h.eq
theorem Draw.hmp_eq (h : Draw u s) : s.hmp = u.hmp := congrArg State.DrawPart.hmp h.eq
theorem Draw.zfb_eq (h : Draw u s) : s.zfb = u.zfb := congrArg State.DrawPart.zfb h.eq
theorem Draw.wgl_eq (h : Draw u s) : s.wgl = u.wgl := congrArg State.DrawPart.wgl h.eq
theorem Draw.lks_eq (h : Draw u s) : s.lks = u.lks := congrArg State.DrawPart.lks h.eq
theorem Draw.link_eq (h : Draw u s) : s.link = u.link := congrArg State.DrawPart.link h.eq
theorem Draw.chn_eq (h : Draw u s) : s.chn = u.chn := congrArg State.DrawPart.chn h.eq
theorem Draw.est_eq (h : Draw u s) : s.est = u.est := congrArg State.DrawPart.est h.eq
theorem Draw.arr_eq (h : Draw u s) : s.arr = u.arr := congrArg State.DrawPart.arr h.eq
theorem Draw.flt_eq (h : Draw u s) : s.flt = u.flt := congrArg State.DrawPart.flt h.eq
theorem Draw.mgp_eq (h : Draw u s) : s.mgp = u.mgp := congrArg State.DrawPart.mgp h.eq
theorem Draw.sec_eq (h : Draw u s) : s.sec = u.sec := congrArg State.DrawPart.sec h.eq
theorem Draw.pwr_eq (h : Draw u s) : s.pwr = u.pwr := congrArg State.DrawPart.pwr h.eq
theorem Draw.cfg_eq (h : Draw u s) : s.cfg = u.cfg := congrArg State.DrawPart.cfg h.eq
theorem Draw.pins_eq (h : Draw u s) : s.pins = u.pins := congrArg State.DrawPart.pins h.eq
theorem Draw.shadow_eq (h : Draw u s) : s.shadow = u.shadow := congrArg State.DrawPart.shadow h.eq
theorem Draw.free_eq (h : Draw u s) : s.free = u.free := congrArg State.DrawPart.free h.eq
theorem Draw.pending_eq (h : Draw u s) : s.pending = u.pending := congrArg State.DrawPart.pending h.eq

theorem Draw.put (h : Draw u s) (a1 a2) : Draw u (State.put s a1 a2) := by
  unfold State.put
  refine Draw.wr ?_ ..
  exact h

theorem Draw.setFlag (h : Draw u s) (a1 a2) : Draw u (State.setFlag s a1 a2) := by
  unfold State.setFlag
  refine Draw.put ?_ ..
  exact h

theorem Draw.putBF (h : Draw u s) (a1 a2) : Draw u (State.putBF s a1 a2) := by
  unfold State.putBF
  refine Draw.wr ?_ ..
  exact h

theorem Draw.bump (h : Draw u s) (a1) : Draw u (State.bump s a1) := by
  unfold State.bump
  refine Draw.put ?_ ..
  exact h

theorem Draw.prfRegs (h : Draw u s) : Draw u (State.prfRegs s) := by
  unfold State.prfRegs
  refine Draw.putBF ?_ ..
  refine Draw.putBF ?_ ..
  refine Draw.putBF ?_ ..
  refine Draw.putBF ?_ ..
  refine Draw.putBF ?_ ..
  exact h

theorem Draw.trackDraw (h : Draw u s) : Draw u (State.trackDraw s) := by
  unfold State.trackDraw
  refine Draw.setFlag ?_ ..
  refine Draw.upd ?_ rfl rfl rfl rfl rfl rfl rfl rfl rfl rfl rfl rfl rfl rfl rfl rfl rfl rfl rfl rfl rfl rfl
  exact h

theorem Draw.markGrid (h : Draw u s) (a1) : Draw u (State.markGrid s a1) := by
  unfold State.markGrid
  refine Draw.put ?_ ..
  refine Draw.upd ?_ rfl rfl rfl rfl rfl rfl rfl rfl rfl rfl rfl rfl rfl rfl rfl rfl rfl rfl rfl rfl rfl rfl
  exact h

theorem Draw.followGrid (h : Draw u s) : Draw u (State.followGrid s) := by
  unfold State.followGrid
  refine Draw.ite (fun _ => ?_) (fun _ => ?_)
  · refine Draw.prfRegs ?_ ..
    refine Draw.trackDraw ?_ ..
    exact h
  · refine Draw.setFlag ?_ ..
    exact h

theorem Draw.setGrid (h : Draw u s) (a1) : Draw u (State.setGrid s a1) := by
  unfold State.setGrid
  refine Draw.ite (fun _ => ?_) (fun _ => ?_)
  · refine Draw.followGrid ?_ ..
    refine Draw.bump ?_ ..
    refine Draw.markGrid ?_ ..
    exact h
  · refine Draw.markGrid ?_ ..
    exact h

theorem Draw.execGridLoss_keeps (h : Draw u s) : Drawo u (execGridLoss s) := by
  unfold execGridLoss
  refine Drawo.next ?_
  refine Draw.ite (fun _ => ?_) (fun _ => ?_)
  · refine Draw.setGrid ?_ ..
    exact h
  · exact h

theorem Draw.execGridSag_keeps (h : Draw u s) : Drawo u (execGridSag s) := by
  unfold execGridSag
  refine Drawo.next ?_
  refine Draw.ite (fun _ => ?_) (fun _ => ?_)
  · refine Draw.setGrid ?_ ..
    exact h
  · exact h

theorem Draw.execGridSagClear_keeps (h : Draw u s) : Drawo u (execGridSagClear s) := by
  unfold execGridSagClear
  refine Drawo.next ?_
  refine Draw.ite (fun _ => ?_) (fun _ => ?_)
  · refine Draw.setGrid ?_ ..
    exact h
  · exact h

theorem Draw.execGridReturn_keeps (h : Draw u s) : Drawo u (execGridReturn s) := by
  unfold execGridReturn
  refine Drawo.next ?_
  refine Draw.ite (fun _ => ?_) (fun _ => ?_)
  · refine Draw.setGrid ?_ ..
    exact h
  · exact h

theorem Draw.execGridNormal_keeps (h : Draw u s) : Drawo u (execGridNormal s) := by
  unfold execGridNormal
  refine Drawo.next ?_
  extract_lets +onlyGivenNames -merge -useContext -underBinder x1
  refine Draw.ite (fun _ => ?_) (fun _ => ?_)
  · refine Draw.setGrid ?_ ..
    exact h
  · exact h

/-- What those functions may change, as a frame names it. -/
theorem Draw.within {t : State} (h : Draw s.partDraw t) : t.within s [.regs, .prf, .site]
  | .regs, hp => (hp (by decide)).elim
  | .time, _ => h.time_eq
  | .inp, _ => h.inp_eq
  | .wq, _ => h.wq_eq
  | .lpe, _ => h.lpe_eq
  | .hmp, _ => h.hmp_eq
  | .prf, hp => (hp (by decide)).elim
  | .site, hp => (hp (by decide)).elim
  | .zfb, _ => h.zfb_eq
  | .wgl, _ => h.wgl_eq
  | .lks, _ => h.lks_eq
  | .link, _ => h.link_eq
  | .chn, _ => h.chn_eq
  | .est, _ => h.est_eq
  | .arr, _ => h.arr_eq
  | .flt, _ => h.flt_eq
  | .mgp, _ => h.mgp_eq
  | .sec, _ => h.sec_eq
  | .pwr, _ => h.pwr_eq
  | .cfg, _ => h.cfg_eq
  | .pins, _ => h.pins_eq
  | .shadow, _ => h.shadow_eq
  | .free, _ => h.free_eq
  | .pending, _ => h.pending_eq

end Sys2Proof.Machine
end

