-- ==== Sys2Proof/Laws/EstF.lean ====
section
/-! SUPPORT. What the estimator's commands that may record a fault leave alone. -/

namespace Sys2Proof.Machine

/-- The parts of the state that are kept. -/
structure State.EstFPart where
  time : TimeRt
  inp : InputRt
  wq : List PairWrite
  lpe : LpeRt
  prf : PrfRt
  site : SiteRt
  lks : LksRt
  link : LinkRt
  chn : ChnRt
  arr : ArrRt
  mgp : MgpRt
  sec : SecRt
  pwr : PwrRt
  cfg : CfgRt
  shadow : List (Nat × Nat × Word)
  free : Nat
  pending : List Instr

/-- Those parts of a state. -/
def State.partEstF (s : State) : State.EstFPart :=
  ⟨s.time, s.inp, s.wq, s.lpe, s.prf, s.site, s.lks, s.link, s.chn, s.arr, s.mgp, s.sec, s.pwr, s.cfg, s.shadow, s.free, s.pending⟩

/-- Those parts are the ones given. -/
structure EstF (u : State.EstFPart) (s : State) : Prop where
  eq : s.partEstF = u

variable {u : State.EstFPart} {s : State}

theorem EstF.upd {regs time inp wq lpe hmp prf site zfb wgl lks link chn est arr flt mgp sec pwr cfg pins shadow free pending} (h : EstF u s) (h_regs : regs = s.regs) (h_time : time = s.time) (h_inp : inp = s.inp) (h_wq : wq = s.wq) (h_lpe : lpe = s.lpe) (h_prf : prf = s.prf) (h_site : site = s.site) (h_lks : lks = s.lks) (h_link : link = s.link) (h_chn : chn = s.chn) (h_arr : arr = s.arr) (h_mgp : mgp = s.mgp) (h_sec : sec = s.sec) (h_pwr : pwr = s.pwr) (h_cfg : cfg = s.cfg) (h_shadow : shadow = s.shadow) (h_free : free = s.free) (h_pending : pending = s.pending) :
    EstF u (State.mk regs time inp wq lpe hmp prf site zfb wgl lks link chn est arr flt mgp sec pwr cfg pins shadow free pending) := by
  subst h_regs h_time h_inp h_wq h_lpe h_prf h_site h_lks h_link h_chn h_arr h_mgp h_sec h_pwr h_cfg h_shadow h_free h_pending
  exact ⟨h.eq⟩

theorem EstF.rfl' (s : State) : EstF s.partEstF s := ⟨rfl⟩

/-- What a command answers keeps them. -/
def EstFo (u : State.EstFPart) (o : Host.Outcome State Fault Refusal) : Prop := ∀ t, o = Host.Outcome.next t → EstF u t

theorem EstFo.next (h : EstF u s) : EstFo u (Host.Outcome.next s) := fun t e => by cases e; exact h

theorem EstF.ite {c : Prop} {_ : Decidable c} {a b : State} (ha : c → EstF u a) (hb : ¬c → EstF u b) : EstF u (if c then a else b) := by
  split
  · exact ha ‹_›
  · exact hb ‹_›

theorem EstF.dite {c : Prop} {_ : Decidable c} {a : c → State} {b : ¬c → State} (ha : ∀ h, EstF u (a h)) (hb : ∀ h, EstF u (b h)) :
    EstF u (if h : c then a h else b h) := by
  split
  · exact ha _
  · exact hb _

theorem EstF.iteP {α : Type} {c : Prop} {_ : Decidable c} {a b : State × α} (ha : c → EstF u a.1) (hb : ¬c → EstF u b.1) : EstF u (if c then a else b).1 := by
  split
  · exact ha ‹_›
  · exact hb ‹_›

theorem EstF.diteP {α : Type} {c : Prop} {_ : Decidable c} {a : c → State × α} {b : ¬c → State × α} (ha : ∀ h, EstF u (a h).1) (hb : ∀ h, EstF u (b h).1) :
    EstF u (if h : c then a h else b h).1 := by
  split
  · exact ha _
  · exact hb _

theorem EstF.foldl {α : Type} {l : List α} {f : State → α → State} (hf : ∀ t a, EstF u t → EstF u (f t a)) (h : EstF u s) : EstF u (l.foldl f s) := by
  induction l generalizing s with
  | nil => exact h
  | cons a l ih => exact ih (hf s a h)

theorem EstF.each {n : Nat} {f : Nat → State → State} (hf : ∀ i t, EstF u t → EstF u (f i t)) (h : EstF u s) : EstF u (State.each n f s) :=
  EstF.foldl (fun t a ht => hf a t ht) h

theorem EstF.over {α : Type} {l : List α} {f : α → State → State} (hf : ∀ i t, EstF u t → EstF u (f i t)) (h : EstF u s) : EstF u (State.over l f s) :=
  EstF.foldl (fun t a ht => hf a t ht) h

theorem EstF.iff {c : Bool} {f : State → State} (hf : ∀ t, EstF u t → EstF u (f t)) (h : EstF u s) : EstF u (State.iff c f s) := by
  unfold State.iff
  split
  · exact hf s h
  · exact h

theorem EstF.wr (h : EstF u s) (a w) : EstF u (s.wr a w) := ⟨h.eq⟩

theorem EstF.time_eq (h : EstF u s) : s.time = u.time := congrArg State.EstFPart.time h.eq
theorem EstF.inp_eq (h : EstF u s) : s.inp = u.inp := congrArg State.EstFPart.inp h.eq
theorem EstF.wq_eq (h : EstF u s) : s.wq = u.wq := congrArg State.EstFPart.wq h.eq
theorem EstF.lpe_eq (h : EstF u s) : s.lpe = u.lpe := congrArg State.EstFPart.lpe h.eq
theorem EstF.prf_eq (h : EstF u s) : s.prf = u.prf := congrArg State.EstFPart.prf h.eq
theorem EstF.site_eq (h : EstF u s) : s.site = u.site := congrArg State.EstFPart.site h.eq
theorem EstF.lks_eq (h : EstF u s) : s.lks = u.lks := congrArg State.EstFPart.lks h.eq
theorem EstF.link_eq (h : EstF u s) : s.link = u.link := congrArg State.EstFPart.link h.eq
theorem EstF.chn_eq (h : EstF u s) : s.chn = u.chn := congrArg State.EstFPart.chn h.eq
theorem EstF.arr_eq (h : EstF u s) : s.arr = u.arr := congrArg State.EstFPart.arr h.eq
theorem EstF.mgp_eq (h : EstF u s) : s.mgp = u.mgp := congrArg State.EstFPart.mgp h.eq
theorem EstF.sec_eq (h : EstF u s) : s.sec = u.sec := congrArg State.EstFPart.sec h.eq
theorem EstF.pwr_eq (h : EstF u s) : s.pwr = u.pwr := congrArg State.EstFPart.pwr h.eq
theorem EstF.cfg_eq (h : EstF u s) : s.cfg = u.cfg := congrArg State.EstFPart.cfg h.eq
theorem EstF.shadow_eq (h : EstF u s) : s.shadow = u.shadow := congrArg State.EstFPart.shadow h.eq
theorem EstF.free_eq (h : EstF u s) : s.free = u.free := congrArg State.EstFPart.free h.eq
theorem EstF.pending_eq (h : EstF u s) : s.pending = u.pending := congrArg State.EstFPart.pending h.eq

theorem EstF.put (h : EstF u s) (a1 a2) : EstF u (State.put s a1 a2) := by
  unfold State.put
  refine EstF.wr ?_ ..
  exact h

theorem EstF.setFlag (h : EstF u s) (a1 a2) : EstF u (State.setFlag s a1 a2) := by
  unfold State.setFlag
  refine EstF.put ?_ ..
  exact h

theorem EstF.putBF (h : EstF u s) (a1 a2) : EstF u (State.putBF s a1 a2) := by
  unfold State.putBF
  refine EstF.wr ?_ ..
  exact h

theorem EstF.bump (h : EstF u s) (a1) : EstF u (State.bump s a1) := by
  unfold State.bump
  refine EstF.put ?_ ..
  exact h

theorem EstF.put64 (h : EstF u s) (a1 a2 a3) : EstF u (State.put64 s a1 a2 a3) := by
  unfold State.put64
  refine EstF.wr ?_ ..
  refine EstF.wr ?_ ..
  exact h

theorem EstF.setOs (h : EstF u s) (a1 a2) : EstF u (State.setOs s a1 a2) := by
  unfold State.setOs
  refine EstF.upd ?_ rfl rfl rfl rfl rfl rfl rfl rfl rfl rfl rfl rfl rfl rfl rfl rfl rfl rfl
  exact h

theorem EstF.putOs (h : EstF u s) (a1 a2 a3) : EstF u (State.putOs s a1 a2 a3) := by
  unfold State.putOs
  refine EstF.put ?_ ..
  refine EstF.put ?_ ..
  exact h

theorem EstF.setLane (h : EstF u s) (a1 a2) : EstF u (State.setLane s a1 a2) := by
  unfold State.setLane
  refine EstF.dite (fun _ => ?_) (fun _ => ?_)
  · refine EstF.upd ?_ rfl rfl rfl rfl rfl rfl rfl rfl rfl rfl rfl rfl rfl rfl rfl rfl rfl rfl
    exact h
  · exact h

theorem EstF.capture (h : EstF u s) (a1 a2 a3 a4) : EstF u (State.capture s a1 a2 a3 a4) := by
  unfold State.capture
  extract_lets +onlyGivenNames -merge -useContext -underBinder x1
  refine EstF.ite (fun _ => ?_) (fun _ => ?_)
  · extract_lets +onlyGivenNames -merge -useContext -underBinder x2
    extract_lets +onlyGivenNames -merge -useContext -underBinder x3
    have hx3 : EstF u x3 := by
      unfold x3
      refine EstF.wr ?_ ..
      exact h
    extract_lets +onlyGivenNames -merge -useContext -underBinder x4
    have hx4 : EstF u x4 := by
      unfold x4
      refine EstF.put64 ?_ ..
      exact hx3
    refine EstF.put ?_ ..
    exact hx4
  · refine EstF.ite (fun _ => ?_) (fun _ => ?_)
    · exact h
    · extract_lets +onlyGivenNames -merge -useContext -underBinder x5
      have hx5 : EstF u x5 := by
        unfold x5
        refine EstF.wr ?_ ..
        exact h
      extract_lets +onlyGivenNames -merge -useContext -underBinder x6
      have hx6 : EstF u x6 := by
        unfold x6
        refine EstF.wr ?_ ..
        exact hx5
      refine EstF.put64 ?_ ..
      exact hx6

theorem EstF.restoreShed (h : EstF u s) (a1) : EstF u (State.restoreShed s a1) := by
  unfold State.restoreShed
  refine EstF.each (fun _ _ ht1 => ?_) ?_
  · refine EstF.ite (fun _ => ?_) (fun _ => ?_)
    · refine EstF.putOs ?_ ..
      exact ht1
    · exact ht1
  · exact h

theorem EstF.leaveBatch (h : EstF u s) (a1) : EstF u (State.leaveBatch s a1) := by
  unfold State.leaveBatch
  refine EstF.ite (fun _ => ?_) (fun _ => ?_)
  · refine EstF.put ?_ ..
    refine EstF.setFlag ?_ ..
    exact h
  · exact h

theorem EstF.fenceOs (h : EstF u s) (a1 a2) : EstF u (State.fenceOs s a1 a2) := by
  unfold State.fenceOs
  extract_lets +onlyGivenNames -merge -useContext -underBinder x1
  have hx1 : EstF u x1 := by
    unfold x1
    refine EstF.setOs ?_ ..
    refine EstF.leaveBatch ?_ ..
    refine EstF.put ?_ ..
    refine EstF.put ?_ ..
    exact h
  refine EstF.ite (fun _ => ?_) (fun _ => ?_)
  · refine EstF.restoreShed ?_ ..
    exact hx1
  · exact hx1

theorem EstF.fenceSs (h : EstF u s) (a1) : EstF u (State.fenceSs s a1) := by
  unfold State.fenceSs
  refine EstF.upd ?_ rfl rfl rfl rfl rfl rfl rfl rfl rfl rfl rfl rfl rfl rfl rfl rfl rfl rfl
  exact h

theorem EstF.fenceFe (h : EstF u s) (a1) : EstF u (State.fenceFe s a1) := by
  unfold State.fenceFe
  refine EstF.upd ?_ rfl rfl rfl rfl rfl rfl rfl rfl rfl rfl rfl rfl rfl rfl rfl rfl rfl rfl
  exact h

theorem EstF.fenceStr (h : EstF u s) (a1) : EstF u (State.fenceStr s a1) := by
  unfold State.fenceStr
  extract_lets +onlyGivenNames -merge -useContext -underBinder x1
  extract_lets +onlyGivenNames -merge -useContext -underBinder x2
  have hx2 : EstF u x2 := by
    unfold x2
    refine EstF.upd ?_ rfl rfl rfl rfl rfl rfl rfl rfl rfl rfl rfl rfl rfl rfl rfl rfl rfl rfl
    exact h
  refine EstF.fenceSs ?_ ..
  refine EstF.fenceSs ?_ ..
  exact hx2

theorem EstF.zoneFenceStage (h : EstF u s) (a1 a2) : EstF u (State.zoneFenceStage s a1 a2) := by
  unfold State.zoneFenceStage
  extract_lets +onlyGivenNames -merge -useContext -underBinder x1
  refine EstF.ite (fun _ => ?_) (fun _ => ?_)
  · refine EstF.setOs ?_ ..
    refine EstF.putOs ?_ ..
    exact h
  · refine EstF.ite (fun _ => ?_) (fun _ => ?_)
    · refine EstF.setOs ?_ ..
      refine EstF.putOs ?_ ..
      exact h
    · refine EstF.ite (fun _ => ?_) (fun _ => ?_)
      · refine EstF.setOs ?_ ..
        refine EstF.putOs ?_ ..
        exact h
      · exact h

theorem EstF.fenceZone (h : EstF u s) (a1) : EstF u (State.fenceZone s a1) := by
  unfold State.fenceZone
  extract_lets +onlyGivenNames -merge -useContext -underBinder x1
  extract_lets +onlyGivenNames -merge -useContext -underBinder x2
  have hx2 : EstF u x2 := by
    unfold x2
    refine EstF.upd ?_ rfl rfl rfl rfl rfl rfl rfl rfl rfl rfl rfl rfl rfl rfl rfl rfl rfl rfl
    exact h
  extract_lets +onlyGivenNames -merge -useContext -underBinder x3
  have hx3 : EstF u x3 := by
    unfold x3
    refine EstF.foldl (fun _ _ ht4 => ?_) ?_
    · refine EstF.zoneFenceStage ?_ ..
      exact ht4
    · exact hx2
  extract_lets +onlyGivenNames -merge -useContext -underBinder x5
  have hx5 : EstF u x5 := by
    unfold x5
    refine EstF.setFlag ?_ ..
    exact hx3
  extract_lets +onlyGivenNames -merge -useContext -underBinder x6
  refine EstF.upd (s := x5) ?_ rfl rfl rfl rfl rfl rfl rfl rfl rfl rfl rfl rfl rfl rfl rfl rfl rfl rfl
  exact hx5

theorem EstF.fenceGroup (h : EstF u s) (a1) : EstF u (State.fenceGroup s a1) := by
  unfold State.fenceGroup
  refine EstF.foldl (fun _ _ ht1 => ?_) ?_
  · refine EstF.ite (fun _ => ?_) (fun _ => ?_)
    · refine EstF.fenceFe ?_ ..
      exact ht1
    · exact ht1
  · exact h

theorem EstF.fenceLane (h : EstF u s) (a1) : EstF u (State.fenceLane s a1) := by
  unfold State.fenceLane
  extract_lets +onlyGivenNames -merge -useContext -underBinder x1
  have hx1 : EstF u x1 := by
    unfold x1
    refine EstF.setFlag ?_ ..
    exact h
  extract_lets +onlyGivenNames -merge -useContext -underBinder x2
  have hx2 : EstF u x2 := by
    unfold x2
    refine EstF.setFlag ?_ ..
    exact hx1
  refine EstF.setLane ?_ ..
  exact hx2

theorem EstF.fenceCore (h : EstF u s) (a1 a2) : EstF u (State.fenceCore s a1 a2) := by
  unfold State.fenceCore
  refine EstF.put ?_ ..
  refine EstF.put ?_ ..
  exact h

theorem EstF.fenceUnit (h : EstF u s) (a1) : EstF u (State.fenceUnit s a1) := by
  unfold State.fenceUnit
  extract_lets +onlyGivenNames -merge -useContext -underBinder x1
  split
  · refine EstF.dite (fun _ => ?_) (fun _ => ?_)
    · refine EstF.fenceOs ?_ ..
      exact h
    · exact h
  · refine EstF.dite (fun _ => ?_) (fun _ => ?_)
    · refine EstF.fenceSs ?_ ..
      exact h
    · exact h
  · refine EstF.dite (fun _ => ?_) (fun _ => ?_)
    · refine EstF.fenceFe ?_ ..
      exact h
    · exact h
  · refine EstF.fenceGroup ?_ ..
    exact h
  · refine EstF.dite (fun _ => ?_) (fun _ => ?_)
    · refine EstF.fenceZone ?_ ..
      exact h
    · exact h
  · refine EstF.dite (fun _ => ?_) (fun _ => ?_)
    · refine EstF.fenceStr ?_ ..
      exact h
    · exact h
  · refine EstF.put ?_ ..
    refine EstF.put ?_ ..
    exact h
  · refine EstF.dite (fun _ => ?_) (fun _ => ?_)
    · refine EstF.fenceLane ?_ ..
      exact h
    · exact h
  · refine EstF.fenceCore ?_ ..
    exact h
  · refine EstF.put ?_ ..
    exact h
  · refine EstF.dite (fun _ => ?_) (fun _ => ?_)
    · refine EstF.upd ?_ rfl rfl rfl rfl rfl rfl rfl rfl rfl rfl rfl rfl rfl rfl rfl rfl rfl rfl
      exact h
    · exact h
  · exact h

theorem EstF.enterSafe (h : EstF u s) : EstF u (State.enterSafe s) := by
  unfold State.enterSafe
  extract_lets +onlyGivenNames -merge -useContext -underBinder x1
  extract_lets +onlyGivenNames -merge -useContext -underBinder x2
  extract_lets +onlyGivenNames -merge -useContext -underBinder x3
  have hx3 : EstF u x3 := by
    unfold x3
    refine EstF.upd ?_ rfl rfl rfl rfl rfl rfl rfl rfl rfl rfl rfl rfl rfl rfl rfl rfl rfl rfl
    exact h
  extract_lets +onlyGivenNames -merge -useContext -underBinder x4
  have hx4 : EstF u x4 := by
    unfold x4
    refine EstF.each (fun _ _ ht5 => ?_) ?_
    · refine EstF.put ?_ ..
      exact ht5
    · exact hx3
  extract_lets +onlyGivenNames -merge -useContext -underBinder x6
  have hx6 : EstF u x6 := by
    unfold x6
    refine EstF.each (fun _ _ ht7 => ?_) ?_
    · refine EstF.put ?_ ..
      exact ht7
    · exact hx4
  refine EstF.setFlag ?_ ..
  refine EstF.put ?_ ..
  exact hx6

theorem EstF.startDump (h : EstF u s) (a1 a2) : EstF u (State.startDump s a1 a2) := by
  unfold State.startDump
  refine EstF.ite (fun _ => ?_) (fun _ => ?_)
  · refine EstF.upd ?_ rfl rfl rfl rfl rfl rfl rfl rfl rfl rfl rfl rfl rfl rfl rfl rfl rfl rfl
    exact h
  · refine EstF.setFlag ?_ ..
    refine EstF.upd ?_ rfl rfl rfl rfl rfl rfl rfl rfl rfl rfl rfl rfl rfl rfl rfl rfl rfl rfl
    exact h

theorem EstF.halt (h : EstF u s) (a1) : EstF u (State.halt s a1) := by
  unfold State.halt
  extract_lets +onlyGivenNames -merge -useContext -underBinder x1
  have hx1 : EstF u x1 := by
    unfold x1
    refine EstF.setFlag ?_ ..
    exact h
  extract_lets +onlyGivenNames -merge -useContext -underBinder x2
  have hx2 : EstF u x2 := by
    unfold x2
    refine EstF.enterSafe ?_ ..
    exact hx1
  refine EstF.ite (fun _ => ?_) (fun _ => ?_)
  · refine EstF.startDump ?_ ..
    refine EstF.upd (s := x2) ?_ rfl rfl rfl rfl rfl rfl rfl rfl rfl rfl rfl rfl rfl rfl rfl rfl rfl rfl
    exact hx2
  · exact hx2

theorem EstF.setPending (h : EstF u s) (a1 a2 a3 a4) : EstF u (State.setPending s a1 a2 a3 a4) := by
  unfold State.setPending
  extract_lets +onlyGivenNames -merge -useContext -underBinder x1
  extract_lets +onlyGivenNames -merge -useContext -underBinder x2
  have hx2 : EstF u x2 := by
    unfold x2
    refine EstF.put ?_ ..
    exact h
  refine EstF.upd (s := x2) ?_ rfl rfl rfl rfl rfl rfl rfl rfl rfl rfl rfl rfl rfl rfl rfl rfl rfl rfl
  exact hx2

theorem EstF.countFault (h : EstF u s) (a1 a2 a3 a4 a5) : EstF u (State.countFault s a1 a2 a3 a4 a5) := by
  unfold State.countFault
  extract_lets +onlyGivenNames -merge -useContext -underBinder x1
  have hx1 : EstF u x1 := by
    unfold x1
    refine EstF.capture ?_ ..
    refine EstF.bump ?_ ..
    exact h
  refine EstF.ite (fun _ => ?_) (fun _ => ?_)
  · refine EstF.upd (s := x1) ?_ rfl rfl rfl rfl rfl rfl rfl rfl rfl rfl rfl rfl rfl rfl rfl rfl rfl rfl
    exact hx1
  · exact hx1

theorem EstF.recordAt (h : EstF u s) (a1 a2 a3 a4 a5 a6 a7) : EstF u (State.recordAt s a1 a2 a3 a4 a5 a6 a7) := by
  unfold State.recordAt
  extract_lets +onlyGivenNames -merge -useContext -underBinder x1
  extract_lets +onlyGivenNames -merge -useContext -underBinder x2
  extract_lets +onlyGivenNames -merge -useContext -underBinder x3
  extract_lets +onlyGivenNames -merge -useContext -underBinder x4
  have hx4 : EstF u x4 := by
    unfold x4
    refine EstF.countFault ?_ ..
    exact h
  refine EstF.ite (fun _ => ?_) (fun _ => ?_)
  · refine EstF.halt ?_ ..
    exact hx4
  · extract_lets +onlyGivenNames -merge -useContext -underBinder x5
    have hx5 : EstF u x5 := by
      unfold x5
      refine EstF.ite (fun _ => ?_) (fun _ => ?_)
      · exact hx4
      · refine EstF.setPending ?_ ..
        exact hx4
    refine EstF.ite (fun _ => ?_) (fun _ => ?_)
    · refine EstF.fenceUnit ?_ ..
      exact hx5
    · exact hx5

theorem EstF.record (h : EstF u s) (a1 a2 a3 a4) : EstF u (State.record s a1 a2 a3 a4) := by
  unfold State.record
  refine EstF.recordAt ?_ ..
  exact h

theorem EstF.setEst (h : EstF u s) (a1 a2) : EstF u (State.setEst s a1 a2) := by
  unfold State.setEst
  refine EstF.upd ?_ rfl rfl rfl rfl rfl rfl rfl rfl rfl rfl rfl rfl rfl rfl rfl rfl rfl rfl
  exact h

theorem EstF.estRegs (h : EstF u s) (a1) : EstF u (State.estRegs s a1) := by
  unfold State.estRegs
  extract_lets +onlyGivenNames -merge -useContext -underBinder x1
  extract_lets +onlyGivenNames -merge -useContext -underBinder x2
  have hx2 : EstF u x2 := by
    unfold x2
    refine EstF.put ?_ ..
    refine EstF.put ?_ ..
    exact h
  extract_lets +onlyGivenNames -merge -useContext -underBinder x3
  have hx3 : EstF u x3 := by
    unfold x3
    refine EstF.put ?_ ..
    refine EstF.put ?_ ..
    exact hx2
  extract_lets +onlyGivenNames -merge -useContext -underBinder x4
  have hx4 : EstF u x4 := by
    unfold x4
    refine EstF.putBF ?_ ..
    exact hx3
  extract_lets +onlyGivenNames -merge -useContext -underBinder x5
  refine EstF.put ?_ ..
  refine EstF.put ?_ ..
  exact hx4

theorem EstF.reanchor (h : EstF u s) (a1) : EstF u (State.reanchor s a1) := by
  unfold State.reanchor
  refine EstF.setEst ?_ ..
  exact h

theorem EstF.learn (h : EstF u s) (a1 a2 a3) : EstF u (State.learn s a1 a2 a3) := by
  unfold State.learn
  extract_lets +onlyGivenNames -merge -useContext -underBinder x1
  refine EstF.ite (fun _ => ?_) (fun _ => ?_)
  · extract_lets +onlyGivenNames -merge -useContext -underBinder x2
    extract_lets +onlyGivenNames -merge -useContext -underBinder x3
    have hx3 : EstF u x3 := by
      unfold x3
      refine EstF.setEst ?_ ..
      exact h
    extract_lets +onlyGivenNames -merge -useContext -underBinder x4
    have hx4 : EstF u x4 := by
      unfold x4
      refine EstF.setFlag ?_ ..
      exact hx3
    refine EstF.upd (s := x4) ?_ rfl rfl rfl rfl rfl rfl rfl rfl rfl rfl rfl rfl rfl rfl rfl rfl rfl rfl
    exact hx4
  · refine EstF.record ?_ ..
    exact h

theorem EstF.setDue (h : EstF u s) (a1) : EstF u (State.setDue s a1) := by
  unfold State.setDue
  refine EstF.upd ?_ rfl rfl rfl rfl rfl rfl rfl rfl rfl rfl rfl rfl rfl rfl rfl rfl rfl rfl
  exact h

theorem EstF.diverged (h : EstF u s) (a1) : EstF u (State.diverged s a1) := by
  unfold State.diverged
  extract_lets +onlyGivenNames -merge -useContext -underBinder x1
  extract_lets +onlyGivenNames -merge -useContext -underBinder x2
  have hx2 : EstF u x2 := by
    unfold x2
    refine EstF.reanchor ?_ ..
    refine EstF.setDue ?_ ..
    exact h
  refine EstF.record ?_ ..
  refine EstF.estRegs ?_ ..
  refine EstF.setFlag ?_ ..
  refine EstF.setFlag ?_ ..
  exact hx2

theorem EstF.execDivergenceConflict_keeps (h : EstF u s) (a0) : EstFo u (execDivergenceConflict a0 s) := by
  unfold execDivergenceConflict
  refine EstFo.next ?_
  refine EstF.ite (fun _ => ?_) (fun _ => ?_)
  · exact h
  · refine EstF.diverged ?_ ..
    exact h

theorem EstF.putAnchor (h : EstF u s) (a1) : EstF u (State.putAnchor s a1) := by
  unfold State.putAnchor
  extract_lets +onlyGivenNames -merge -useContext -underBinder x1
  refine EstF.put ?_ ..
  refine EstF.setEst ?_ ..
  exact h

theorem EstF.calibrate (h : EstF u s) (a1) : EstF u (State.calibrate s a1) := by
  unfold State.calibrate
  refine EstF.ite (fun _ => ?_) (fun _ => ?_)
  · exact h
  · split
    · refine EstF.putAnchor ?_ ..
      exact h
    · refine EstF.ite (fun _ => ?_) (fun _ => ?_)
      · refine EstF.putAnchor ?_ ..
        refine EstF.learn ?_ ..
        exact h
      · refine EstF.ite (fun _ => ?_) (fun _ => ?_)
        · refine EstF.putAnchor ?_ ..
          exact h
        · exact h

theorem EstF.restTaken (h : EstF u s) (a1) : EstF u (State.restTaken s a1) := by
  unfold State.restTaken
  refine EstF.reanchor ?_ ..
  refine EstF.setEst ?_ ..
  exact h

theorem EstF.execRestPoint_keeps (h : EstF u s) (a0) : EstFo u (execRestPoint a0 s) := by
  unfold execRestPoint
  refine EstFo.next ?_
  refine EstF.ite (fun _ => ?_) (fun _ => ?_)
  · exact h
  · refine EstF.estRegs ?_ ..
    refine EstF.calibrate ?_ ..
    refine EstF.restTaken ?_ ..
    exact h

theorem EstF.slotStat (h : EstF u s) : EstF u (State.slotStat s) := by
  unfold State.slotStat
  extract_lets +onlyGivenNames -merge -useContext -underBinder x1
  have hx1 : EstF u x1 := by
    unfold x1
    refine EstF.setFlag ?_ ..
    refine EstF.setFlag ?_ ..
    exact h
  split
  · refine EstF.put ?_ ..
    exact hx1
  · refine EstF.put ?_ ..
    refine EstF.setFlag ?_ ..
    exact hx1

theorem EstF.setSlots (h : EstF u s) (a1 a2 a3 a4) : EstF u (State.setSlots s a1 a2 a3 a4) := by
  unfold State.setSlots
  refine EstF.upd ?_ rfl rfl rfl rfl rfl rfl rfl rfl rfl rfl rfl rfl rfl rfl rfl rfl rfl rfl
  exact h

theorem EstF.storeFailed (h : EstF u s) : EstF u (State.storeFailed s) := by
  unfold State.storeFailed
  refine EstF.record ?_ ..
  refine EstF.setFlag ?_ ..
  refine EstF.upd ?_ rfl rfl rfl rfl rfl rfl rfl rfl rfl rfl rfl rfl rfl rfl rfl rfl rfl rfl
  exact h

theorem EstF.slotFailed (h : EstF u s) : EstF u (State.slotFailed s) := by
  unfold State.slotFailed
  extract_lets +onlyGivenNames -merge -useContext -underBinder x1
  have hx1 : EstF u x1 := by
    unfold x1
    refine EstF.slotStat ?_ ..
    refine EstF.setFlag ?_ ..
    refine EstF.setSlots ?_ ..
    exact h
  refine EstF.ite (fun _ => ?_) (fun _ => ?_)
  · refine EstF.storeFailed ?_ ..
    exact hx1
  · exact hx1

theorem EstF.slotStored (h : EstF u s) : EstF u (State.slotStored s) := by
  unfold State.slotStored
  refine EstF.slotStat ?_ ..
  refine EstF.setFlag ?_ ..
  refine EstF.setSlots ?_ ..
  exact h

theorem EstF.execCapacityStoreWrite_keeps (h : EstF u s) (a0) : EstFo u (execCapacityStoreWrite a0 s) := by
  unfold execCapacityStoreWrite
  refine EstFo.next ?_
  refine EstF.ite (fun _ => ?_) (fun _ => ?_)
  · exact h
  · refine EstF.ite (fun _ => ?_) (fun _ => ?_)
    · refine EstF.slotStored ?_ ..
      exact h
    · refine EstF.slotFailed ?_ ..
      exact h

/-- What those functions may change, as a frame names it. -/
theorem EstF.within {t : State} (h : EstF s.partEstF t) : t.within s [.regs, .hmp, .zfb, .wgl, .est, .flt, .pins]
  | .regs, hp => (hp (by decide)).elim
  | .time, _ => h.time_eq
  | .inp, _ => h.inp_eq
  | .wq, _ => h.wq_eq
  | .lpe, _ => h.lpe_eq
  | .hmp, hp => (hp (by decide)).elim
  | .prf, _ => h.prf_eq
  | .site, _ => h.site_eq
  | .zfb, hp => (hp (by decide)).elim
  | .wgl, hp => (hp (by decide)).elim
  | .lks, _ => h.lks_eq
  | .link, _ => h.link_eq
  | .chn, _ => h.chn_eq
  | .est, hp => (hp (by decide)).elim
  | .arr, _ => h.arr_eq
  | .flt, hp => (hp (by decide)).elim
  | .mgp, _ => h.mgp_eq
  | .sec, _ => h.sec_eq
  | .pwr, _ => h.pwr_eq
  | .cfg, _ => h.cfg_eq
  | .pins, hp => (hp (by decide)).elim
  | .shadow, _ => h.shadow_eq
  | .free, _ => h.free_eq
  | .pending, _ => h.pending_eq

end Sys2Proof.Machine
end

