-- ==== Sys2Proof/Laws/EstK.lean ====
section
/-! SUPPORT. What the estimator's updates leave alone. -/

namespace Sys2Proof.Machine

/-- The parts of the state that are kept. -/
structure State.EstKPart where
  time : TimeRt
  inp : InputRt
  wq : List PairWrite
  lpe : LpeRt
  hmp : HmpRt
  site : SiteRt
  zfb : ZfbRt
  wgl : WglRt
  lks : LksRt
  link : LinkRt
  chn : ChnRt
  arr : ArrRt
  flt : FltRt
  mgp : MgpRt
  sec : SecRt
  pwr : PwrRt
  cfg : CfgRt
  pins : PinRt
  shadow : List (Nat × Nat × Word)
  free : Nat
  pending : List Instr

/-- Those parts of a state. -/
def State.partEstK (s : State) : State.EstKPart :=
  ⟨s.time, s.inp, s.wq, s.lpe, s.hmp, s.site, s.zfb, s.wgl, s.lks, s.link, s.chn, s.arr, s.flt, s.mgp, s.sec, s.pwr, s.cfg, s.pins, s.shadow, s.free, s.pending⟩

/-- Those parts are the ones given. -/
structure EstK (u : State.EstKPart) (s : State) : Prop where
  eq : s.partEstK = u

variable {u : State.EstKPart} {s : State}

theorem EstK.upd {regs time inp wq lpe hmp prf site zfb wgl lks link chn est arr flt mgp sec pwr cfg pins shadow free pending} (h : EstK u s) (h_regs : regs = s.regs) (h_time : time = s.time) (h_inp : inp = s.inp) (h_wq : wq = s.wq) (h_lpe : lpe = s.lpe) (h_hmp : hmp = s.hmp) (h_site : site = s.site) (h_zfb : zfb = s.zfb) (h_wgl : wgl = s.wgl) (h_lks : lks = s.lks) (h_link : link = s.link) (h_chn : chn = s.chn) (h_arr : arr = s.arr) (h_flt : flt = s.flt) (h_mgp : mgp = s.mgp) (h_sec : sec = s.sec) (h_pwr : pwr = s.pwr) (h_cfg : cfg = s.cfg) (h_pins : pins = s.pins) (h_shadow : shadow = s.shadow) (h_free : free = s.free) (h_pending : pending = s.pending) :
    EstK u (State.mk regs time inp wq lpe hmp prf site zfb wgl lks link chn est arr flt mgp sec pwr cfg pins shadow free pending) := by
  subst h_regs h_time h_inp h_wq h_lpe h_hmp h_site h_zfb h_wgl h_lks h_link h_chn h_arr h_flt h_mgp h_sec h_pwr h_cfg h_pins h_shadow h_free h_pending
  exact ⟨h.eq⟩

theorem EstK.rfl' (s : State) : EstK s.partEstK s := ⟨rfl⟩

/-- What a command answers keeps them. -/
def EstKo (u : State.EstKPart) (o : Host.Outcome State Fault Refusal) : Prop := ∀ t, o = Host.Outcome.next t → EstK u t

theorem EstKo.next (h : EstK u s) : EstKo u (Host.Outcome.next s) := fun t e => by cases e; exact h

theorem EstK.ite {c : Prop} {_ : Decidable c} {a b : State} (ha : c → EstK u a) (hb : ¬c → EstK u b) : EstK u (if c then a else b) := by
  split
  · exact ha ‹_›
  · exact hb ‹_›

theorem EstK.dite {c : Prop} {_ : Decidable c} {a : c → State} {b : ¬c → State} (ha : ∀ h, EstK u (a h)) (hb : ∀ h, EstK u (b h)) :
    EstK u (if h : c then a h else b h) := by
  split
  · exact ha _
  · exact hb _

theorem EstK.iteP {α : Type} {c : Prop} {_ : Decidable c} {a b : State × α} (ha : c → EstK u a.1) (hb : ¬c → EstK u b.1) : EstK u (if c then a else b).1 := by
  split
  · exact ha ‹_›
  · exact hb ‹_›

theorem EstK.diteP {α : Type} {c : Prop} {_ : Decidable c} {a : c → State × α} {b : ¬c → State × α} (ha : ∀ h, EstK u (a h).1) (hb : ∀ h, EstK u (b h).1) :
    EstK u (if h : c then a h else b h).1 := by
  split
  · exact ha _
  · exact hb _

theorem EstK.foldl {α : Type} {l : List α} {f : State → α → State} (hf : ∀ t a, EstK u t → EstK u (f t a)) (h : EstK u s) : EstK u (l.foldl f s) := by
  induction l generalizing s with
  | nil => exact h
  | cons a l ih => exact ih (hf s a h)

theorem EstK.each {n : Nat} {f : Nat → State → State} (hf : ∀ i t, EstK u t → EstK u (f i t)) (h : EstK u s) : EstK u (State.each n f s) :=
  EstK.foldl (fun t a ht => hf a t ht) h

theorem EstK.over {α : Type} {l : List α} {f : α → State → State} (hf : ∀ i t, EstK u t → EstK u (f i t)) (h : EstK u s) : EstK u (State.over l f s) :=
  EstK.foldl (fun t a ht => hf a t ht) h

theorem EstK.iff {c : Bool} {f : State → State} (hf : ∀ t, EstK u t → EstK u (f t)) (h : EstK u s) : EstK u (State.iff c f s) := by
  unfold State.iff
  split
  · exact hf s h
  · exact h

theorem EstK.wr (h : EstK u s) (a w) : EstK u (s.wr a w) := ⟨h.eq⟩

theorem EstK.time_eq (h : EstK u s) : s.time = u.time := congrArg State.EstKPart.time h.eq
theorem EstK.inp_eq (h : EstK u s) : s.inp = u.inp := congrArg State.EstKPart.inp h.eq
theorem EstK.wq_eq (h : EstK u s) : s.wq = u.wq := congrArg State.EstKPart.wq h.eq
theorem EstK.lpe_eq (h : EstK u s) : s.lpe = u.lpe := congrArg State.EstKPart.lpe h.eq
theorem EstK.hmp_eq (h : EstK u s) : s.hmp = u.hmp := congrArg State.EstKPart.hmp h.eq
theorem EstK.site_eq (h : EstK u s) : s.site = u.site := congrArg State.EstKPart.site h.eq
theorem EstK.zfb_eq (h : EstK u s) : s.zfb = u.zfb := congrArg State.EstKPart.zfb h.eq
theorem EstK.wgl_eq (h : EstK u s) : s.wgl = u.wgl := congrArg State.EstKPart.wgl h.eq
theorem EstK.lks_eq (h : EstK u s) : s.lks = u.lks := congrArg State.EstKPart.lks h.eq
theorem EstK.link_eq (h : EstK u s) : s.link = u.link := congrArg State.EstKPart.link h.eq
theorem EstK.chn_eq (h : EstK u s) : s.chn = u.chn := congrArg State.EstKPart.chn h.eq
theorem EstK.arr_eq (h : EstK u s) : s.arr = u.arr := congrArg State.EstKPart.arr h.eq
theorem EstK.flt_eq (h : EstK u s) : s.flt = u.flt := congrArg State.EstKPart.flt h.eq
theorem EstK.mgp_eq (h : EstK u s) : s.mgp = u.mgp := congrArg State.EstKPart.mgp h.eq
theorem EstK.sec_eq (h : EstK u s) : s.sec = u.sec := congrArg State.EstKPart.sec h.eq
theorem EstK.pwr_eq (h : EstK u s) : s.pwr = u.pwr := congrArg State.EstKPart.pwr h.eq
theorem EstK.cfg_eq (h : EstK u s) : s.cfg = u.cfg := congrArg State.EstKPart.cfg h.eq
theorem EstK.pins_eq (h : EstK u s) : s.pins = u.pins := congrArg State.EstKPart.pins h.eq
theorem EstK.shadow_eq (h : EstK u s) : s.shadow = u.shadow := congrArg State.EstKPart.shadow h.eq
theorem EstK.free_eq (h : EstK u s) : s.free = u.free := congrArg State.EstKPart.free h.eq
theorem EstK.pending_eq (h : EstK u s) : s.pending = u.pending := congrArg State.EstKPart.pending h.eq

theorem EstK.put (h : EstK u s) (a1 a2) : EstK u (State.put s a1 a2) := by
  unfold State.put
  refine EstK.wr ?_ ..
  exact h

theorem EstK.setFlag (h : EstK u s) (a1 a2) : EstK u (State.setFlag s a1 a2) := by
  unfold State.setFlag
  refine EstK.put ?_ ..
  exact h

theorem EstK.putBF (h : EstK u s) (a1 a2) : EstK u (State.putBF s a1 a2) := by
  unfold State.putBF
  refine EstK.wr ?_ ..
  exact h

theorem EstK.setEst (h : EstK u s) (a1 a2) : EstK u (State.setEst s a1 a2) := by
  unfold State.setEst
  refine EstK.upd ?_ rfl rfl rfl rfl rfl rfl rfl rfl rfl rfl rfl rfl rfl rfl rfl rfl rfl rfl rfl rfl rfl rfl
  exact h

theorem EstK.estRegs (h : EstK u s) (a1) : EstK u (State.estRegs s a1) := by
  unfold State.estRegs
  extract_lets +onlyGivenNames -merge -useContext -underBinder x1
  extract_lets +onlyGivenNames -merge -useContext -underBinder x2
  have hx2 : EstK u x2 := by
    unfold x2
    refine EstK.put ?_ ..
    refine EstK.put ?_ ..
    exact h
  extract_lets +onlyGivenNames -merge -useContext -underBinder x3
  have hx3 : EstK u x3 := by
    unfold x3
    refine EstK.put ?_ ..
    refine EstK.put ?_ ..
    exact hx2
  extract_lets +onlyGivenNames -merge -useContext -underBinder x4
  have hx4 : EstK u x4 := by
    unfold x4
    refine EstK.putBF ?_ ..
    exact hx3
  extract_lets +onlyGivenNames -merge -useContext -underBinder x5
  refine EstK.put ?_ ..
  refine EstK.put ?_ ..
  exact hx4

theorem EstK.reanchor (h : EstK u s) (a1) : EstK u (State.reanchor s a1) := by
  unfold State.reanchor
  refine EstK.setEst ?_ ..
  exact h

theorem EstK.setZ (h : EstK u s) (a1 a2 a3) : EstK u (State.setZ s a1 a2 a3) := by
  unfold State.setZ
  extract_lets +onlyGivenNames -merge -useContext -underBinder x1
  extract_lets +onlyGivenNames -merge -useContext -underBinder x2
  have hx2 : EstK u x2 := by
    unfold x2
    refine EstK.upd ?_ rfl rfl rfl rfl rfl rfl rfl rfl rfl rfl rfl rfl rfl rfl rfl rfl rfl rfl rfl rfl rfl rfl
    exact h
  refine EstK.setEst ?_ ..
  exact hx2

theorem EstK.report (h : EstK u s) (a1 a2) : EstK u (State.report s a1 a2) := by
  unfold State.report
  extract_lets +onlyGivenNames -merge -useContext -underBinder x1
  extract_lets +onlyGivenNames -merge -useContext -underBinder x2
  have hx2 : EstK u x2 := by
    unfold x2
    refine EstK.setEst ?_ ..
    exact h
  refine EstK.upd (s := x2) ?_ rfl rfl rfl rfl rfl rfl rfl rfl rfl rfl rfl rfl rfl rfl rfl rfl rfl rfl rfl rfl rfl rfl
  exact hx2

theorem EstK.endCharge (h : EstK u s) (a1) : EstK u (State.endCharge s a1) := by
  unfold State.endCharge
  extract_lets +onlyGivenNames -merge -useContext -underBinder x1
  have hx1 : EstK u x1 := by
    unfold x1
    refine EstK.report ?_ ..
    refine EstK.reanchor ?_ ..
    refine EstK.setZ ?_ ..
    exact h
  extract_lets +onlyGivenNames -merge -useContext -underBinder x2
  extract_lets +onlyGivenNames -merge -useContext -underBinder x3
  have hx3 : EstK u x3 := by
    unfold x3
    refine EstK.setEst ?_ ..
    exact hx1
  extract_lets +onlyGivenNames -merge -useContext -underBinder x4
  have hx4 : EstK u x4 := by
    unfold x4
    refine EstK.setFlag ?_ ..
    refine EstK.setFlag ?_ ..
    exact hx3
  refine EstK.estRegs ?_ ..
  refine EstK.setFlag ?_ ..
  refine EstK.put ?_ ..
  exact hx4

theorem EstK.execEndOfCharge_keeps (h : EstK u s) (a0) : EstKo u (execEndOfCharge a0 s) := by
  unfold execEndOfCharge
  refine EstKo.next ?_
  refine EstK.ite (fun _ => ?_) (fun _ => ?_)
  · exact h
  · refine EstK.endCharge ?_ ..
    exact h

theorem EstK.setDue (h : EstK u s) (a1) : EstK u (State.setDue s a1) := by
  unfold State.setDue
  refine EstK.upd ?_ rfl rfl rfl rfl rfl rfl rfl rfl rfl rfl rfl rfl rfl rfl rfl rfl rfl rfl rfl rfl rfl rfl
  exact h

theorem EstK.execAnchorExpiry_keeps (h : EstK u s) (a0) : EstKo u (execAnchorExpiry a0 s) := by
  unfold execAnchorExpiry
  refine EstKo.next ?_
  split
  · refine EstK.ite (fun _ => ?_) (fun _ => ?_)
    · refine EstK.setEst ?_ ..
      exact h
    · exact h
  · exact h

theorem EstK.takeEstStr (h : EstK u s) (a0 a2) : EstK u (State.takeEstStr a0 s a2) := by
  unfold State.takeEstStr
  extract_lets +onlyGivenNames -merge -useContext -underBinder x1
  have hx1 : EstK u x1 := by
    unfold x1
    refine EstK.foldl (fun _ _ ht2 => ?_) ?_
    · refine EstK.wr ?_ ..
      exact ht2
    · exact h
  refine EstK.upd (s := x1) ?_ rfl rfl rfl rfl rfl rfl rfl rfl rfl rfl rfl rfl rfl rfl rfl rfl rfl rfl rfl rfl rfl rfl
  exact hx1

theorem EstK.takeEst (h : EstK u s) (a1) : EstK u (State.takeEst s a1) := by
  unfold State.takeEst
  refine EstK.upd ?_ rfl rfl rfl rfl rfl rfl rfl rfl rfl rfl rfl rfl rfl rfl rfl rfl rfl rfl rfl rfl rfl rfl
  exact h

theorem EstK.execEstimationBulk_keeps (h : EstK u s) (a0) : EstKo u (execEstimationBulk a0 s) := by
  unfold execEstimationBulk
  refine EstKo.next ?_
  refine EstK.ite (fun _ => ?_) (fun _ => ?_)
  · exact h
  · refine EstK.foldl (fun _ _ ht1 => ?_) ?_
    · refine EstK.takeEstStr ?_ ..
      exact ht1
    · refine EstK.takeEst ?_ ..
      exact h

theorem EstK.setSlots (h : EstK u s) (a1 a2 a3 a4) : EstK u (State.setSlots s a1 a2 a3 a4) := by
  unfold State.setSlots
  refine EstK.upd ?_ rfl rfl rfl rfl rfl rfl rfl rfl rfl rfl rfl rfl rfl rfl rfl rfl rfl rfl rfl rfl rfl rfl
  exact h

/-- What those functions may change, as a frame names it. -/
theorem EstK.within {t : State} (h : EstK s.partEstK t) : t.within s [.regs, .prf, .est]
  | .regs, hp => (hp (by decide)).elim
  | .time, _ => h.time_eq
  | .inp, _ => h.inp_eq
  | .wq, _ => h.wq_eq
  | .lpe, _ => h.lpe_eq
  | .hmp, _ => h.hmp_eq
  | .prf, hp => (hp (by decide)).elim
  | .site, _ => h.site_eq
  | .zfb, _ => h.zfb_eq
  | .wgl, _ => h.wgl_eq
  | .lks, _ => h.lks_eq
  | .link, _ => h.link_eq
  | .chn, _ => h.chn_eq
  | .est, hp => (hp (by decide)).elim
  | .arr, _ => h.arr_eq
  | .flt, _ => h.flt_eq
  | .mgp, _ => h.mgp_eq
  | .sec, _ => h.sec_eq
  | .pwr, _ => h.pwr_eq
  | .cfg, _ => h.cfg_eq
  | .pins, _ => h.pins_eq
  | .shadow, _ => h.shadow_eq
  | .free, _ => h.free_eq
  | .pending, _ => h.pending_eq

end Sys2Proof.Machine
end

