-- ==== Sys2Proof/Laws/EstR.lean ====
section
/-! SUPPORT. What the commit of an estimate leaves alone. -/

namespace Sys2Proof.Machine

/-- The parts of the state that are kept. -/
structure State.EstRPart where
  time : TimeRt
  inp : InputRt
  wq : List PairWrite
  lpe : LpeRt
  site : SiteRt
  lks : LksRt
  link : LinkRt
  chn : ChnRt
  mgp : MgpRt
  sec : SecRt
  pwr : PwrRt
  cfg : CfgRt
  shadow : List (Nat × Nat × Word)
  free : Nat
  pending : List Instr

/-- Those parts of a state. -/
def State.partEstR (s : State) : State.EstRPart :=
  ⟨s.time, s.inp, s.wq, s.lpe, s.site, s.lks, s.link, s.chn, s.mgp, s.sec, s.pwr, s.cfg, s.shadow, s.free, s.pending⟩

/-- Those parts are the ones given. -/
structure EstR (u : State.EstRPart) (s : State) : Prop where
  eq : s.partEstR = u

variable {u : State.EstRPart} {s : State}

theorem EstR.upd {regs time inp wq lpe hmp prf site zfb wgl lks link chn est arr flt mgp sec pwr cfg pins shadow free pending} (h : EstR u s) (h_regs : regs = s.regs) (h_time : time = s.time) (h_inp : inp = s.inp) (h_wq : wq = s.wq) (h_lpe : lpe = s.lpe) (h_site : site = s.site) (h_lks : lks = s.lks) (h_link : link = s.link) (h_chn : chn = s.chn) (h_mgp : mgp = s.mgp) (h_sec : sec = s.sec) (h_pwr : pwr = s.pwr) (h_cfg : cfg = s.cfg) (h_shadow : shadow = s.shadow) (h_free : free = s.free) (h_pending : pending = s.pending) :
    EstR u (State.mk regs time inp wq lpe hmp prf site zfb wgl lks link chn est arr flt mgp sec pwr cfg pins shadow free pending) := by
  subst h_regs h_time h_inp h_wq h_lpe h_site h_lks h_link h_chn h_mgp h_sec h_pwr h_cfg h_shadow h_free h_pending
  exact ⟨h.eq⟩

theorem EstR.rfl' (s : State) : EstR s.partEstR s := ⟨rfl⟩

/-- What a command answers keeps them. -/
def EstRo (u : State.EstRPart) (o : Host.Outcome State Fault Refusal) : Prop := ∀ t, o = Host.Outcome.next t → EstR u t

theorem EstRo.next (h : EstR u s) : EstRo u (Host.Outcome.next s) := fun t e => by cases e; exact h

theorem EstR.ite {c : Prop} {_ : Decidable c} {a b : State} (ha : c → EstR u a) (hb : ¬c → EstR u b) : EstR u (if c then a else b) := by
  split
  · exact ha ‹_›
  · exact hb ‹_›

theorem EstR.dite {c : Prop} {_ : Decidable c} {a : c → State} {b : ¬c → State} (ha : ∀ h, EstR u (a h)) (hb : ∀ h, EstR u (b h)) :
    EstR u (if h : c then a h else b h) := by
  split
  · exact ha _
  · exact hb _

theorem EstR.iteP {α : Type} {c : Prop} {_ : Decidable c} {a b : State × α} (ha : c → EstR u a.1) (hb : ¬c → EstR u b.1) : EstR u (if c then a else b).1 := by
  split
  · exact ha ‹_›
  · exact hb ‹_›

theorem EstR.diteP {α : Type} {c : Prop} {_ : Decidable c} {a : c → State × α} {b : ¬c → State × α} (ha : ∀ h, EstR u (a h).1) (hb : ∀ h, EstR u (b h).1) :
    EstR u (if h : c then a h else b h).1 := by
  split
  · exact ha _
  · exact hb _

theorem EstR.foldl {α : Type} {l : List α} {f : State → α → State} (hf : ∀ t a, EstR u t → EstR u (f t a)) (h : EstR u s) : EstR u (l.foldl f s) := by
  induction l generalizing s with
  | nil => exact h
  | cons a l ih => exact ih (hf s a h)

theorem EstR.each {n : Nat} {f : Nat → State → State} (hf : ∀ i t, EstR u t → EstR u (f i t)) (h : EstR u s) : EstR u (State.each n f s) :=
  EstR.foldl (fun t a ht => hf a t ht) h

theorem EstR.over {α : Type} {l : List α} {f : α → State → State} (hf : ∀ i t, EstR u t → EstR u (f i t)) (h : EstR u s) : EstR u (State.over l f s) :=
  EstR.foldl (fun t a ht => hf a t ht) h

theorem EstR.iff {c : Bool} {f : State → State} (hf : ∀ t, EstR u t → EstR u (f t)) (h : EstR u s) : EstR u (State.iff c f s) := by
  unfold State.iff
  split
  · exact hf s h
  · exact h

theorem EstR.wr (h : EstR u s) (a w) : EstR u (s.wr a w) := ⟨h.eq⟩

theorem EstR.time_eq (h : EstR u s) : s.time = u.time := congrArg State.EstRPart.time h.eq
theorem EstR.inp_eq (h : EstR u s) : s.inp = u.inp := congrArg State.EstRPart.inp h.eq
theorem EstR.wq_eq (h : EstR u s) : s.wq = u.wq := congrArg State.EstRPart.wq h.eq
theorem EstR.lpe_eq (h : EstR u s) : s.lpe = u.lpe := congrArg State.EstRPart.lpe h.eq
theorem EstR.site_eq (h : EstR u s) : s.site = u.site := congrArg State.EstRPart.site h.eq
theorem EstR.lks_eq (h : EstR u s) : s.lks = u.lks := congrArg State.EstRPart.lks h.eq
theorem EstR.link_eq (h : EstR u s) : s.link = u.link := congrArg State.EstRPart.link h.eq
theorem EstR.chn_eq (h : EstR u s) : s.chn = u.chn := congrArg State.EstRPart.chn h.eq
theorem EstR.mgp_eq (h : EstR u s) : s.mgp = u.mgp := congrArg State.EstRPart.mgp h.eq
theorem EstR.sec_eq (h : EstR u s) : s.sec = u.sec := congrArg State.EstRPart.sec h.eq
theorem EstR.pwr_eq (h : EstR u s) : s.pwr = u.pwr := congrArg State.EstRPart.pwr h.eq
theorem EstR.cfg_eq (h : EstR u s) : s.cfg = u.cfg := congrArg State.EstRPart.cfg h.eq
theorem EstR.shadow_eq (h : EstR u s) : s.shadow = u.shadow := congrArg State.EstRPart.shadow h.eq
theorem EstR.free_eq (h : EstR u s) : s.free = u.free := congrArg State.EstRPart.free h.eq
theorem EstR.pending_eq (h : EstR u s) : s.pending = u.pending := congrArg State.EstRPart.pending h.eq

theorem EstR.put (h : EstR u s) (a1 a2) : EstR u (State.put s a1 a2) := by
  unfold State.put
  refine EstR.wr ?_ ..
  exact h

theorem EstR.setFlag (h : EstR u s) (a1 a2) : EstR u (State.setFlag s a1 a2) := by
  unfold State.setFlag
  refine EstR.put ?_ ..
  exact h

theorem EstR.putBF (h : EstR u s) (a1 a2) : EstR u (State.putBF s a1 a2) := by
  unfold State.putBF
  refine EstR.wr ?_ ..
  exact h

theorem EstR.bump (h : EstR u s) (a1) : EstR u (State.bump s a1) := by
  unfold State.bump
  refine EstR.put ?_ ..
  exact h

theorem EstR.bumpSat (h : EstR u s) (a1) : EstR u (State.bumpSat s a1) := by
  unfold State.bumpSat
  refine EstR.put ?_ ..
  exact h

theorem EstR.put64 (h : EstR u s) (a1 a2 a3) : EstR u (State.put64 s a1 a2 a3) := by
  unfold State.put64
  refine EstR.wr ?_ ..
  refine EstR.wr ?_ ..
  exact h

theorem EstR.setOs (h : EstR u s) (a1 a2) : EstR u (State.setOs s a1 a2) := by
  unfold State.setOs
  refine EstR.upd ?_ rfl rfl rfl rfl rfl rfl rfl rfl rfl rfl rfl rfl rfl rfl rfl rfl
  exact h

theorem EstR.putOs (h : EstR u s) (a1 a2 a3) : EstR u (State.putOs s a1 a2 a3) := by
  unfold State.putOs
  refine EstR.put ?_ ..
  refine EstR.put ?_ ..
  exact h

theorem EstR.setLane (h : EstR u s) (a1 a2) : EstR u (State.setLane s a1 a2) := by
  unfold State.setLane
  refine EstR.dite (fun _ => ?_) (fun _ => ?_)
  · refine EstR.upd ?_ rfl rfl rfl rfl rfl rfl rfl rfl rfl rfl rfl rfl rfl rfl rfl rfl
    exact h
  · exact h

theorem EstR.capture (h : EstR u s) (a1 a2 a3 a4) : EstR u (State.capture s a1 a2 a3 a4) := by
  unfold State.capture
  extract_lets +onlyGivenNames -merge -useContext -underBinder x1
  refine EstR.ite (fun _ => ?_) (fun _ => ?_)
  · extract_lets +onlyGivenNames -merge -useContext -underBinder x2
    extract_lets +onlyGivenNames -merge -useContext -underBinder x3
    have hx3 : EstR u x3 := by
      unfold x3
      refine EstR.wr ?_ ..
      exact h
    extract_lets +onlyGivenNames -merge -useContext -underBinder x4
    have hx4 : EstR u x4 := by
      unfold x4
      refine EstR.put64 ?_ ..
      exact hx3
    refine EstR.put ?_ ..
    exact hx4
  · refine EstR.ite (fun _ => ?_) (fun _ => ?_)
    · exact h
    · extract_lets +onlyGivenNames -merge -useContext -underBinder x5
      have hx5 : EstR u x5 := by
        unfold x5
        refine EstR.wr ?_ ..
        exact h
      extract_lets +onlyGivenNames -merge -useContext -underBinder x6
      have hx6 : EstR u x6 := by
        unfold x6
        refine EstR.wr ?_ ..
        exact hx5
      refine EstR.put64 ?_ ..
      exact hx6

theorem EstR.restoreShed (h : EstR u s) (a1) : EstR u (State.restoreShed s a1) := by
  unfold State.restoreShed
  refine EstR.each (fun _ _ ht1 => ?_) ?_
  · refine EstR.ite (fun _ => ?_) (fun _ => ?_)
    · refine EstR.putOs ?_ ..
      exact ht1
    · exact ht1
  · exact h

theorem EstR.leaveBatch (h : EstR u s) (a1) : EstR u (State.leaveBatch s a1) := by
  unfold State.leaveBatch
  refine EstR.ite (fun _ => ?_) (fun _ => ?_)
  · refine EstR.put ?_ ..
    refine EstR.setFlag ?_ ..
    exact h
  · exact h

theorem EstR.fenceOs (h : EstR u s) (a1 a2) : EstR u (State.fenceOs s a1 a2) := by
  unfold State.fenceOs
  extract_lets +onlyGivenNames -merge -useContext -underBinder x1
  have hx1 : EstR u x1 := by
    unfold x1
    refine EstR.setOs ?_ ..
    refine EstR.leaveBatch ?_ ..
    refine EstR.put ?_ ..
    refine EstR.put ?_ ..
    exact h
  refine EstR.ite (fun _ => ?_) (fun _ => ?_)
  · refine EstR.restoreShed ?_ ..
    exact hx1
  · exact hx1

theorem EstR.fenceSs (h : EstR u s) (a1) : EstR u (State.fenceSs s a1) := by
  unfold State.fenceSs
  refine EstR.upd ?_ rfl rfl rfl rfl rfl rfl rfl rfl rfl rfl rfl rfl rfl rfl rfl rfl
  exact h

theorem EstR.fenceFe (h : EstR u s) (a1) : EstR u (State.fenceFe s a1) := by
  unfold State.fenceFe
  refine EstR.upd ?_ rfl rfl rfl rfl rfl rfl rfl rfl rfl rfl rfl rfl rfl rfl rfl rfl
  exact h

theorem EstR.fenceStr (h : EstR u s) (a1) : EstR u (State.fenceStr s a1) := by
  unfold State.fenceStr
  extract_lets +onlyGivenNames -merge -useContext -underBinder x1
  extract_lets +onlyGivenNames -merge -useContext -underBinder x2
  have hx2 : EstR u x2 := by
    unfold x2
    refine EstR.upd ?_ rfl rfl rfl rfl rfl rfl rfl rfl rfl rfl rfl rfl rfl rfl rfl rfl
    exact h
  refine EstR.fenceSs ?_ ..
  refine EstR.fenceSs ?_ ..
  exact hx2

theorem EstR.zoneFenceStage (h : EstR u s) (a1 a2) : EstR u (State.zoneFenceStage s a1 a2) := by
  unfold State.zoneFenceStage
  extract_lets +onlyGivenNames -merge -useContext -underBinder x1
  refine EstR.ite (fun _ => ?_) (fun _ => ?_)
  · refine EstR.setOs ?_ ..
    refine EstR.putOs ?_ ..
    exact h
  · refine EstR.ite (fun _ => ?_) (fun _ => ?_)
    · refine EstR.setOs ?_ ..
      refine EstR.putOs ?_ ..
      exact h
    · refine EstR.ite (fun _ => ?_) (fun _ => ?_)
      · refine EstR.setOs ?_ ..
        refine EstR.putOs ?_ ..
        exact h
      · exact h

theorem EstR.fenceZone (h : EstR u s) (a1) : EstR u (State.fenceZone s a1) := by
  unfold State.fenceZone
  extract_lets +onlyGivenNames -merge -useContext -underBinder x1
  extract_lets +onlyGivenNames -merge -useContext -underBinder x2
  have hx2 : EstR u x2 := by
    unfold x2
    refine EstR.upd ?_ rfl rfl rfl rfl rfl rfl rfl rfl rfl rfl rfl rfl rfl rfl rfl rfl
    exact h
  extract_lets +onlyGivenNames -merge -useContext -underBinder x3
  have hx3 : EstR u x3 := by
    unfold x3
    refine EstR.foldl (fun _ _ ht4 => ?_) ?_
    · refine EstR.zoneFenceStage ?_ ..
      exact ht4
    · exact hx2
  extract_lets +onlyGivenNames -merge -useContext -underBinder x5
  have hx5 : EstR u x5 := by
    unfold x5
    refine EstR.setFlag ?_ ..
    exact hx3
  extract_lets +onlyGivenNames -merge -useContext -underBinder x6
  refine EstR.upd (s := x5) ?_ rfl rfl rfl rfl rfl rfl rfl rfl rfl rfl rfl rfl rfl rfl rfl rfl
  exact hx5

theorem EstR.fenceGroup (h : EstR u s) (a1) : EstR u (State.fenceGroup s a1) := by
  unfold State.fenceGroup
  refine EstR.foldl (fun _ _ ht1 => ?_) ?_
  · refine EstR.ite (fun _ => ?_) (fun _ => ?_)
    · refine EstR.fenceFe ?_ ..
      exact ht1
    · exact ht1
  · exact h

theorem EstR.fenceLane (h : EstR u s) (a1) : EstR u (State.fenceLane s a1) := by
  unfold State.fenceLane
  extract_lets +onlyGivenNames -merge -useContext -underBinder x1
  have hx1 : EstR u x1 := by
    unfold x1
    refine EstR.setFlag ?_ ..
    exact h
  extract_lets +onlyGivenNames -merge -useContext -underBinder x2
  have hx2 : EstR u x2 := by
    unfold x2
    refine EstR.setFlag ?_ ..
    exact hx1
  refine EstR.setLane ?_ ..
  exact hx2

theorem EstR.fenceCore (h : EstR u s) (a1 a2) : EstR u (State.fenceCore s a1 a2) := by
  unfold State.fenceCore
  refine EstR.put ?_ ..
  refine EstR.put ?_ ..
  exact h

theorem EstR.fenceUnit (h : EstR u s) (a1) : EstR u (State.fenceUnit s a1) := by
  unfold State.fenceUnit
  extract_lets +onlyGivenNames -merge -useContext -underBinder x1
  split
  · refine EstR.dite (fun _ => ?_) (fun _ => ?_)
    · refine EstR.fenceOs ?_ ..
      exact h
    · exact h
  · refine EstR.dite (fun _ => ?_) (fun _ => ?_)
    · refine EstR.fenceSs ?_ ..
      exact h
    · exact h
  · refine EstR.dite (fun _ => ?_) (fun _ => ?_)
    · refine EstR.fenceFe ?_ ..
      exact h
    · exact h
  · refine EstR.fenceGroup ?_ ..
    exact h
  · refine EstR.dite (fun _ => ?_) (fun _ => ?_)
    · refine EstR.fenceZone ?_ ..
      exact h
    · exact h
  · refine EstR.dite (fun _ => ?_) (fun _ => ?_)
    · refine EstR.fenceStr ?_ ..
      exact h
    · exact h
  · refine EstR.put ?_ ..
    refine EstR.put ?_ ..
    exact h
  · refine EstR.dite (fun _ => ?_) (fun _ => ?_)
    · refine EstR.fenceLane ?_ ..
      exact h
    · exact h
  · refine EstR.fenceCore ?_ ..
    exact h
  · refine EstR.put ?_ ..
    exact h
  · refine EstR.dite (fun _ => ?_) (fun _ => ?_)
    · refine EstR.upd ?_ rfl rfl rfl rfl rfl rfl rfl rfl rfl rfl rfl rfl rfl rfl rfl rfl
      exact h
    · exact h
  · exact h

theorem EstR.enterSafe (h : EstR u s) : EstR u (State.enterSafe s) := by
  unfold State.enterSafe
  extract_lets +onlyGivenNames -merge -useContext -underBinder x1
  extract_lets +onlyGivenNames -merge -useContext -underBinder x2
  extract_lets +onlyGivenNames -merge -useContext -underBinder x3
  have hx3 : EstR u x3 := by
    unfold x3
    refine EstR.upd ?_ rfl rfl rfl rfl rfl rfl rfl rfl rfl rfl rfl rfl rfl rfl rfl rfl
    exact h
  extract_lets +onlyGivenNames -merge -useContext -underBinder x4
  have hx4 : EstR u x4 := by
    unfold x4
    refine EstR.each (fun _ _ ht5 => ?_) ?_
    · refine EstR.put ?_ ..
      exact ht5
    · exact hx3
  extract_lets +onlyGivenNames -merge -useContext -underBinder x6
  have hx6 : EstR u x6 := by
    unfold x6
    refine EstR.each (fun _ _ ht7 => ?_) ?_
    · refine EstR.put ?_ ..
      exact ht7
    · exact hx4
  refine EstR.setFlag ?_ ..
  refine EstR.put ?_ ..
  exact hx6

theorem EstR.startDump (h : EstR u s) (a1 a2) : EstR u (State.startDump s a1 a2) := by
  unfold State.startDump
  refine EstR.ite (fun _ => ?_) (fun _ => ?_)
  · refine EstR.upd ?_ rfl rfl rfl rfl rfl rfl rfl rfl rfl rfl rfl rfl rfl rfl rfl rfl
    exact h
  · refine EstR.setFlag ?_ ..
    refine EstR.upd ?_ rfl rfl rfl rfl rfl rfl rfl rfl rfl rfl rfl rfl rfl rfl rfl rfl
    exact h

theorem EstR.halt (h : EstR u s) (a1) : EstR u (State.halt s a1) := by
  unfold State.halt
  extract_lets +onlyGivenNames -merge -useContext -underBinder x1
  have hx1 : EstR u x1 := by
    unfold x1
    refine EstR.setFlag ?_ ..
    exact h
  extract_lets +onlyGivenNames -merge -useContext -underBinder x2
  have hx2 : EstR u x2 := by
    unfold x2
    refine EstR.enterSafe ?_ ..
    exact hx1
  refine EstR.ite (fun _ => ?_) (fun _ => ?_)
  · refine EstR.startDump ?_ ..
    refine EstR.upd (s := x2) ?_ rfl rfl rfl rfl rfl rfl rfl rfl rfl rfl rfl rfl rfl rfl rfl rfl
    exact hx2
  · exact hx2

theorem EstR.setPending (h : EstR u s) (a1 a2 a3 a4) : EstR u (State.setPending s a1 a2 a3 a4) := by
  unfold State.setPending
  extract_lets +onlyGivenNames -merge -useContext -underBinder x1
  extract_lets +onlyGivenNames -merge -useContext -underBinder x2
  have hx2 : EstR u x2 := by
    unfold x2
    refine EstR.put ?_ ..
    exact h
  refine EstR.upd (s := x2) ?_ rfl rfl rfl rfl rfl rfl rfl rfl rfl rfl rfl rfl rfl rfl rfl rfl
  exact hx2

theorem EstR.countFault (h : EstR u s) (a1 a2 a3 a4 a5) : EstR u (State.countFault s a1 a2 a3 a4 a5) := by
  unfold State.countFault
  extract_lets +onlyGivenNames -merge -useContext -underBinder x1
  have hx1 : EstR u x1 := by
    unfold x1
    refine EstR.capture ?_ ..
    refine EstR.bump ?_ ..
    exact h
  refine EstR.ite (fun _ => ?_) (fun _ => ?_)
  · refine EstR.upd (s := x1) ?_ rfl rfl rfl rfl rfl rfl rfl rfl rfl rfl rfl rfl rfl rfl rfl rfl
    exact hx1
  · exact hx1

theorem EstR.recordAt (h : EstR u s) (a1 a2 a3 a4 a5 a6 a7) : EstR u (State.recordAt s a1 a2 a3 a4 a5 a6 a7) := by
  unfold State.recordAt
  extract_lets +onlyGivenNames -merge -useContext -underBinder x1
  extract_lets +onlyGivenNames -merge -useContext -underBinder x2
  extract_lets +onlyGivenNames -merge -useContext -underBinder x3
  extract_lets +onlyGivenNames -merge -useContext -underBinder x4
  have hx4 : EstR u x4 := by
    unfold x4
    refine EstR.countFault ?_ ..
    exact h
  refine EstR.ite (fun _ => ?_) (fun _ => ?_)
  · refine EstR.halt ?_ ..
    exact hx4
  · extract_lets +onlyGivenNames -merge -useContext -underBinder x5
    have hx5 : EstR u x5 := by
      unfold x5
      refine EstR.ite (fun _ => ?_) (fun _ => ?_)
      · exact hx4
      · refine EstR.setPending ?_ ..
        exact hx4
    refine EstR.ite (fun _ => ?_) (fun _ => ?_)
    · refine EstR.fenceUnit ?_ ..
      exact hx5
    · exact hx5

theorem EstR.record (h : EstR u s) (a1 a2 a3 a4) : EstR u (State.record s a1 a2 a3 a4) := by
  unfold State.record
  refine EstR.recordAt ?_ ..
  exact h

theorem EstR.setEst (h : EstR u s) (a1 a2) : EstR u (State.setEst s a1 a2) := by
  unfold State.setEst
  refine EstR.upd ?_ rfl rfl rfl rfl rfl rfl rfl rfl rfl rfl rfl rfl rfl rfl rfl rfl
  exact h

theorem EstR.dropTrack (h : EstR u s) (a1) : EstR u (State.dropTrack s a1) := by
  unfold State.dropTrack
  refine EstR.setFlag ?_ ..
  exact h

theorem EstR.estRegs (h : EstR u s) (a1) : EstR u (State.estRegs s a1) := by
  unfold State.estRegs
  extract_lets +onlyGivenNames -merge -useContext -underBinder x1
  extract_lets +onlyGivenNames -merge -useContext -underBinder x2
  have hx2 : EstR u x2 := by
    unfold x2
    refine EstR.put ?_ ..
    refine EstR.put ?_ ..
    exact h
  extract_lets +onlyGivenNames -merge -useContext -underBinder x3
  have hx3 : EstR u x3 := by
    unfold x3
    refine EstR.put ?_ ..
    refine EstR.put ?_ ..
    exact hx2
  extract_lets +onlyGivenNames -merge -useContext -underBinder x4
  have hx4 : EstR u x4 := by
    unfold x4
    refine EstR.putBF ?_ ..
    exact hx3
  extract_lets +onlyGivenNames -merge -useContext -underBinder x5
  refine EstR.put ?_ ..
  refine EstR.put ?_ ..
  exact hx4

theorem EstR.reanchor (h : EstR u s) (a1) : EstR u (State.reanchor s a1) := by
  unfold State.reanchor
  refine EstR.setEst ?_ ..
  exact h

theorem EstR.setZ (h : EstR u s) (a1 a2 a3) : EstR u (State.setZ s a1 a2 a3) := by
  unfold State.setZ
  extract_lets +onlyGivenNames -merge -useContext -underBinder x1
  extract_lets +onlyGivenNames -merge -useContext -underBinder x2
  have hx2 : EstR u x2 := by
    unfold x2
    refine EstR.upd ?_ rfl rfl rfl rfl rfl rfl rfl rfl rfl rfl rfl rfl rfl rfl rfl rfl
    exact h
  refine EstR.setEst ?_ ..
  exact hx2

theorem EstR.report (h : EstR u s) (a1 a2) : EstR u (State.report s a1 a2) := by
  unfold State.report
  extract_lets +onlyGivenNames -merge -useContext -underBinder x1
  extract_lets +onlyGivenNames -merge -useContext -underBinder x2
  have hx2 : EstR u x2 := by
    unfold x2
    refine EstR.setEst ?_ ..
    exact h
  refine EstR.upd (s := x2) ?_ rfl rfl rfl rfl rfl rfl rfl rfl rfl rfl rfl rfl rfl rfl rfl rfl
  exact hx2

theorem EstR.learn (h : EstR u s) (a1 a2 a3) : EstR u (State.learn s a1 a2 a3) := by
  unfold State.learn
  extract_lets +onlyGivenNames -merge -useContext -underBinder x1
  refine EstR.ite (fun _ => ?_) (fun _ => ?_)
  · extract_lets +onlyGivenNames -merge -useContext -underBinder x2
    extract_lets +onlyGivenNames -merge -useContext -underBinder x3
    have hx3 : EstR u x3 := by
      unfold x3
      refine EstR.setEst ?_ ..
      exact h
    extract_lets +onlyGivenNames -merge -useContext -underBinder x4
    have hx4 : EstR u x4 := by
      unfold x4
      refine EstR.setFlag ?_ ..
      exact hx3
    refine EstR.upd (s := x4) ?_ rfl rfl rfl rfl rfl rfl rfl rfl rfl rfl rfl rfl rfl rfl rfl rfl
    exact hx4
  · refine EstR.record ?_ ..
    exact h

theorem EstR.takeCapacity (h : EstR u s) (a1) : EstR u (State.takeCapacity s a1).1 := by
  unfold State.takeCapacity
  extract_lets +onlyGivenNames -merge -useContext -underBinder x1
  extract_lets +onlyGivenNames -merge -useContext -underBinder x2
  extract_lets +onlyGivenNames -merge -useContext -underBinder x3
  extract_lets +onlyGivenNames -merge -useContext -underBinder x4
  show EstR u _
  refine EstR.put ?_ ..
  refine EstR.put ?_ ..
  exact h

theorem EstR.cvStep (h : EstR u s) (a1) : EstR u (State.cvStep s a1) := by
  unfold State.cvStep
  extract_lets +onlyGivenNames -merge -useContext -underBinder x1
  extract_lets +onlyGivenNames -merge -useContext -underBinder x2
  extract_lets +onlyGivenNames -merge -useContext -underBinder x3
  extract_lets +onlyGivenNames -merge -useContext -underBinder x4
  extract_lets +onlyGivenNames -merge -useContext -underBinder x5
  extract_lets +onlyGivenNames -merge -useContext -underBinder x6
  refine EstR.setFlag ?_ ..
  refine EstR.setEst ?_ ..
  exact h

theorem EstR.taperStep (h : EstR u s) (a1) : EstR u (State.taperStep s a1) := by
  unfold State.taperStep
  extract_lets +onlyGivenNames -merge -useContext -underBinder x1
  extract_lets +onlyGivenNames -merge -useContext -underBinder x2
  refine EstR.ite (fun _ => ?_) (fun _ => ?_)
  · refine EstR.put ?_ ..
    refine EstR.setEst ?_ ..
    exact h
  · split
    · refine EstR.put ?_ ..
      refine EstR.setEst ?_ ..
      exact h
    · extract_lets +onlyGivenNames -merge -useContext -underBinder x3
      have hx3 : EstR u x3 := by
        unfold x3
        refine EstR.bumpSat ?_ ..
        exact h
      refine EstR.ite (fun _ => ?_) (fun _ => ?_)
      · refine EstR.setEst ?_ ..
        exact hx3
      · exact hx3

theorem EstR.restStep (h : EstR u s) (a1) : EstR u (State.restStep s a1) := by
  unfold State.restStep
  extract_lets +onlyGivenNames -merge -useContext -underBinder x1
  extract_lets +onlyGivenNames -merge -useContext -underBinder x2
  extract_lets +onlyGivenNames -merge -useContext -underBinder x3
  have hx3 : EstR u x3 := by
    unfold x3
    refine EstR.setFlag ?_ ..
    exact h
  refine EstR.ite (fun _ => ?_) (fun _ => ?_)
  · refine EstR.put ?_ ..
    refine EstR.setEst ?_ ..
    exact hx3
  · split
    · refine EstR.put ?_ ..
      refine EstR.setEst ?_ ..
      exact hx3
    · extract_lets +onlyGivenNames -merge -useContext -underBinder x4
      have hx4 : EstR u x4 := by
        unfold x4
        refine EstR.bumpSat ?_ ..
        exact hx3
      refine EstR.ite (fun _ => ?_) (fun _ => ?_)
      · refine EstR.put ?_ ..
        refine EstR.setEst ?_ ..
        exact hx4
      · exact hx4

theorem EstR.trackStep (h : EstR u s) (a1) : EstR u (State.trackStep s a1) := by
  unfold State.trackStep
  refine EstR.ite (fun _ => ?_) (fun _ => ?_)
  · exact h
  · extract_lets +onlyGivenNames -merge -useContext -underBinder x1
    extract_lets +onlyGivenNames -merge -useContext -underBinder x2
    extract_lets +onlyGivenNames -merge -useContext -underBinder x3
    extract_lets +onlyGivenNames -merge -useContext -underBinder x4
    have hx4 : EstR u x4 := by
      unfold x4
      refine EstR.setEst ?_ ..
      exact h
    refine EstR.ite (fun _ => ?_) (fun _ => ?_)
    · refine EstR.dropTrack ?_ ..
      exact hx4
    · exact hx4

theorem EstR.countStep (h : EstR u s) (a1) : EstR u (State.countStep s a1) := by
  unfold State.countStep
  extract_lets +onlyGivenNames -merge -useContext -underBinder x1
  extract_lets +onlyGivenNames -merge -useContext -underBinder x2
  extract_lets +onlyGivenNames -merge -useContext -underBinder x3
  extract_lets +onlyGivenNames -merge -useContext -underBinder x4
  extract_lets +onlyGivenNames -merge -useContext -underBinder x5
  extract_lets +onlyGivenNames -merge -useContext -underBinder x6
  extract_lets +onlyGivenNames -merge -useContext -underBinder x7
  refine EstR.ite (fun _ => ?_) (fun _ => ?_)
  · refine EstR.setEst ?_ ..
    exact h
  · split
    · refine EstR.setEst ?_ ..
      exact h
    · refine EstR.setEst ?_ ..
      exact h

theorem EstR.cutoff (h : EstR u s) (a1 a2) : EstR u (State.cutoff s a1 a2) := by
  unfold State.cutoff
  extract_lets +onlyGivenNames -merge -useContext -underBinder x1
  have hx1 : EstR u x1 := by
    unfold x1
    refine EstR.reanchor ?_ ..
    refine EstR.setFlag ?_ ..
    refine EstR.setZ ?_ ..
    exact h
  extract_lets +onlyGivenNames -merge -useContext -underBinder x2
  have hx2 : EstR u x2 := by
    unfold x2
    refine EstR.report ?_ ..
    exact hx1
  extract_lets +onlyGivenNames -merge -useContext -underBinder x3
  have hx3 : EstR u x3 := by
    unfold x3
    refine EstR.ite (fun _ => ?_) (fun _ => ?_)
    · refine EstR.dropTrack ?_ ..
      refine EstR.learn ?_ ..
      exact hx2
    · exact hx2
  refine EstR.setFlag ?_ ..
  exact hx3

theorem EstR.commitString (h : EstR u s) (a1) : EstR u (State.commitString s a1) := by
  unfold State.commitString
  refine EstR.ite (fun _ => ?_) (fun _ => ?_)
  · exact h
  · extract_lets +onlyGivenNames -merge -useContext -underBinder x1
    extract_lets +onlyGivenNames -merge -useContext -underBinder x2
    have hx2 : EstR u x2 := by
      unfold x2
      refine EstR.setEst ?_ ..
      exact h
    extract_lets +onlyGivenNames -merge -useContext -underBinder x3
    have hx3 : EstR u x3 := by
      unfold x3
      refine EstR.setFlag ?_ ..
      exact hx2
    extract_lets +onlyGivenNames -merge -useContext -underBinder x4
    have hx4 : EstR u x4.1 := by
      unfold x4
      refine EstR.takeCapacity ?_ ..
      exact hx3
    extract_lets +onlyGivenNames -merge -useContext -underBinder x5
    have hx5 : EstR u x5 := by
      unfold x5
      exact hx4
    refine EstR.ite (fun _ => ?_) (fun _ => ?_)
    · refine EstR.ite (fun _ => ?_) (fun _ => ?_)
      · extract_lets +onlyGivenNames -merge -useContext -underBinder x6
        extract_lets +onlyGivenNames -merge -useContext -underBinder x7
        have hx7 : EstR u x7 := by
          unfold x7
          refine EstR.setEst ?_ ..
          exact hx5
        refine EstR.estRegs ?_ ..
        refine EstR.setFlag ?_ ..
        refine EstR.report ?_ ..
        refine EstR.reanchor ?_ ..
        exact hx7
      · exact hx5
    · extract_lets +onlyGivenNames -merge -useContext -underBinder x8
      have hx8 : EstR u x8 := by
        unfold x8
        refine EstR.taperStep ?_ ..
        refine EstR.cvStep ?_ ..
        exact hx5
      extract_lets +onlyGivenNames -merge -useContext -underBinder x9
      have hx9 : EstR u x9 := by
        unfold x9
        refine EstR.trackStep ?_ ..
        exact hx8
      extract_lets +onlyGivenNames -merge -useContext -underBinder x10
      have hx10 : EstR u x10 := by
        unfold x10
        refine EstR.countStep ?_ ..
        exact hx9
      extract_lets +onlyGivenNames -merge -useContext -underBinder x11
      have hx11 : EstR u x11 := by
        unfold x11
        refine EstR.ite (fun _ => ?_) (fun _ => ?_)
        · refine EstR.reanchor ?_ ..
          exact hx10
        · exact hx10
      extract_lets +onlyGivenNames -merge -useContext -underBinder x12
      have hx12 : EstR u x12 := by
        unfold x12
        refine EstR.report ?_ ..
        exact hx11
      extract_lets +onlyGivenNames -merge -useContext -underBinder x13
      have hx13 : EstR u x13 := by
        unfold x13
        split
        · refine EstR.cutoff ?_ ..
          exact hx12
        · exact hx12
      refine EstR.estRegs ?_ ..
      refine EstR.restStep ?_ ..
      exact hx13

theorem EstR.takeEstimate (h : EstR u s) (a1) : EstR u (State.takeEstimate s a1) := by
  unfold State.takeEstimate
  extract_lets +onlyGivenNames -merge -useContext -underBinder x1
  refine EstR.upd ?_ rfl rfl rfl rfl rfl rfl rfl rfl rfl rfl rfl rfl rfl rfl rfl rfl
  exact h

theorem EstR.estTaken (h : EstR u s) : EstR u (State.estTaken s) := by
  unfold State.estTaken
  refine EstR.upd ?_ rfl rfl rfl rfl rfl rfl rfl rfl rfl rfl rfl rfl rfl rfl rfl rfl
  exact h

theorem EstR.execEstimateRecord_keeps (h : EstR u s) : EstRo u (execEstimateRecord s) := by
  unfold execEstimateRecord
  refine EstRo.next ?_
  split
  · exact h
  · refine EstR.ite (fun _ => ?_) (fun _ => ?_)
    · refine EstR.estTaken ?_ ..
      exact h
    · refine EstR.foldl (fun _ _ ht1 => ?_) ?_
      · refine EstR.commitString ?_ ..
        exact ht1
      · refine EstR.takeEstimate ?_ ..
        refine EstR.estTaken ?_ ..
        exact h

/-- What those functions may change, as a frame names it. -/
theorem EstR.within {t : State} (h : EstR s.partEstR t) : t.within s [.regs, .hmp, .prf, .zfb, .wgl, .est, .arr, .flt, .pins]
  | .regs, hp => (hp (by decide)).elim
  | .time, _ => h.time_eq
  | .inp, _ => h.inp_eq
  | .wq, _ => h.wq_eq
  | .lpe, _ => h.lpe_eq
  | .hmp, hp => (hp (by decide)).elim
  | .prf, hp => (hp (by decide)).elim
  | .site, _ => h.site_eq
  | .zfb, hp => (hp (by decide)).elim
  | .wgl, hp => (hp (by decide)).elim
  | .lks, _ => h.lks_eq
  | .link, _ => h.link_eq
  | .chn, _ => h.chn_eq
  | .est, hp => (hp (by decide)).elim
  | .arr, hp => (hp (by decide)).elim
  | .flt, hp => (hp (by decide)).elim
  | .mgp, _ => h.mgp_eq
  | .sec, _ => h.sec_eq
  | .pwr, _ => h.pwr_eq
  | .cfg, _ => h.cfg_eq
  | .pins, hp => (hp (by decide)).elim
  | .shadow, _ => h.shadow_eq
  | .free, _ => h.free_eq
  | .pending, _ => h.pending_eq

end Sys2Proof.Machine
end

