-- ==== Sys2Proof/Laws/FcK.lean ====
section
/-! SUPPORT. What a forecast leaves alone. -/

namespace Sys2Proof.Machine

/-- The parts of the state that are kept. -/
structure State.FcKPart where
  regs : Regs
  time : TimeRt
  inp : InputRt
  wq : List PairWrite
  lpe : LpeRt
  hmp : HmpRt
  site : SiteRt
  zfb : ZfbRt
  wgl : WglRt
  lks : LksRt
  link : LinkRt
  chn : ChnRt
  est : EstRt
  arr : ArrRt
  flt : FltRt
  mgp : MgpRt
  sec : SecRt
  pwr : PwrRt
  cfg : CfgRt
  pins : PinRt
  shadow : List (Nat × Nat × Word)
  free : Nat
  pending : List Instr

/-- Those parts of a state. -/
def State.partFcK (s : State) : State.FcKPart :=
  ⟨s.regs, s.time, s.inp, s.wq, s.lpe, s.hmp, s.site, s.zfb, s.wgl, s.lks, s.link, s.chn, s.est, s.arr, s.flt, s.mgp, s.sec, s.pwr, s.cfg, s.pins, s.shadow, s.free, s.pending⟩

/-- Those parts are the ones given. -/
structure FcK (u : State.FcKPart) (s : State) : Prop where
  eq : s.partFcK = u

variable {u : State.FcKPart} {s : State}

theorem FcK.upd {regs time inp wq lpe hmp prf site zfb wgl lks link chn est arr flt mgp sec pwr cfg pins shadow free pending} (h : FcK u s) (h_regs : regs = s.regs) (h_time : time = s.time) (h_inp : inp = s.inp) (h_wq : wq = s.wq) (h_lpe : lpe = s.lpe) (h_hmp : hmp = s.hmp) (h_site : site = s.site) (h_zfb : zfb = s.zfb) (h_wgl : wgl = s.wgl) (h_lks : lks = s.lks) (h_link : link = s.link) (h_chn : chn = s.chn) (h_est : est = s.est) (h_arr : arr = s.arr) (h_flt : flt = s.flt) (h_mgp : mgp = s.mgp) (h_sec : sec = s.sec) (h_pwr : pwr = s.pwr) (h_cfg : cfg = s.cfg) (h_pins : pins = s.pins) (h_shadow : shadow = s.shadow) (h_free : free = s.free) (h_pending : pending = s.pending) :
    FcK u (State.mk regs time inp wq lpe hmp prf site zfb wgl lks link chn est arr flt mgp sec pwr cfg pins shadow free pending) := by
  subst h_regs h_time h_inp h_wq h_lpe h_hmp h_site h_zfb h_wgl h_lks h_link h_chn h_est h_arr h_flt h_mgp h_sec h_pwr h_cfg h_pins h_shadow h_free h_pending
  exact ⟨h.eq⟩

theorem FcK.rfl' (s : State) : FcK s.partFcK s := ⟨rfl⟩

theorem FcK.ite {c : Prop} {_ : Decidable c} {a b : State} (ha : c → FcK u a) (hb : ¬c → FcK u b) : FcK u (if c then a else b) := by
  split
  · exact ha ‹_›
  · exact hb ‹_›

theorem FcK.dite {c : Prop} {_ : Decidable c} {a : c → State} {b : ¬c → State} (ha : ∀ h, FcK u (a h)) (hb : ∀ h, FcK u (b h)) :
    FcK u (if h : c then a h else b h) := by
  split
  · exact ha _
  · exact hb _

theorem FcK.iteP {α : Type} {c : Prop} {_ : Decidable c} {a b : State × α} (ha : c → FcK u a.1) (hb : ¬c → FcK u b.1) : FcK u (if c then a else b).1 := by
  split
  · exact ha ‹_›
  · exact hb ‹_›

theorem FcK.diteP {α : Type} {c : Prop} {_ : Decidable c} {a : c → State × α} {b : ¬c → State × α} (ha : ∀ h, FcK u (a h).1) (hb : ∀ h, FcK u (b h).1) :
    FcK u (if h : c then a h else b h).1 := by
  split
  · exact ha _
  · exact hb _

theorem FcK.foldl {α : Type} {l : List α} {f : State → α → State} (hf : ∀ t a, FcK u t → FcK u (f t a)) (h : FcK u s) : FcK u (l.foldl f s) := by
  induction l generalizing s with
  | nil => exact h
  | cons a l ih => exact ih (hf s a h)

theorem FcK.each {n : Nat} {f : Nat → State → State} (hf : ∀ i t, FcK u t → FcK u (f i t)) (h : FcK u s) : FcK u (State.each n f s) :=
  FcK.foldl (fun t a ht => hf a t ht) h

theorem FcK.over {α : Type} {l : List α} {f : α → State → State} (hf : ∀ i t, FcK u t → FcK u (f i t)) (h : FcK u s) : FcK u (State.over l f s) :=
  FcK.foldl (fun t a ht => hf a t ht) h

theorem FcK.iff {c : Bool} {f : State → State} (hf : ∀ t, FcK u t → FcK u (f t)) (h : FcK u s) : FcK u (State.iff c f s) := by
  unfold State.iff
  split
  · exact hf s h
  · exact h

theorem FcK.regs_eq (h : FcK u s) : s.regs = u.regs := congrArg State.FcKPart.regs h.eq
theorem FcK.time_eq (h : FcK u s) : s.time = u.time := congrArg State.FcKPart.time h.eq
theorem FcK.inp_eq (h : FcK u s) : s.inp = u.inp := congrArg State.FcKPart.inp h.eq
theorem FcK.wq_eq (h : FcK u s) : s.wq = u.wq := congrArg State.FcKPart.wq h.eq
theorem FcK.lpe_eq (h : FcK u s) : s.lpe = u.lpe := congrArg State.FcKPart.lpe h.eq
theorem FcK.hmp_eq (h : FcK u s) : s.hmp = u.hmp := congrArg State.FcKPart.hmp h.eq
theorem FcK.site_eq (h : FcK u s) : s.site = u.site := congrArg State.FcKPart.site h.eq
theorem FcK.zfb_eq (h : FcK u s) : s.zfb = u.zfb := congrArg State.FcKPart.zfb h.eq
theorem FcK.wgl_eq (h : FcK u s) : s.wgl = u.wgl := congrArg State.FcKPart.wgl h.eq
theorem FcK.lks_eq (h : FcK u s) : s.lks = u.lks := congrArg State.FcKPart.lks h.eq
theorem FcK.link_eq (h : FcK u s) : s.link = u.link := congrArg State.FcKPart.link h.eq
theorem FcK.chn_eq (h : FcK u s) : s.chn = u.chn := congrArg State.FcKPart.chn h.eq
theorem FcK.est_eq (h : FcK u s) : s.est = u.est := congrArg State.FcKPart.est h.eq
theorem FcK.arr_eq (h : FcK u s) : s.arr = u.arr := congrArg State.FcKPart.arr h.eq
theorem FcK.flt_eq (h : FcK u s) : s.flt = u.flt := congrArg State.FcKPart.flt h.eq
theorem FcK.mgp_eq (h : FcK u s) : s.mgp = u.mgp := congrArg State.FcKPart.mgp h.eq
theorem FcK.sec_eq (h : FcK u s) : s.sec = u.sec := congrArg State.FcKPart.sec h.eq
theorem FcK.pwr_eq (h : FcK u s) : s.pwr = u.pwr := congrArg State.FcKPart.pwr h.eq
theorem FcK.cfg_eq (h : FcK u s) : s.cfg = u.cfg := congrArg State.FcKPart.cfg h.eq
theorem FcK.pins_eq (h : FcK u s) : s.pins = u.pins := congrArg State.FcKPart.pins h.eq
theorem FcK.shadow_eq (h : FcK u s) : s.shadow = u.shadow := congrArg State.FcKPart.shadow h.eq
theorem FcK.free_eq (h : FcK u s) : s.free = u.free := congrArg State.FcKPart.free h.eq
theorem FcK.pending_eq (h : FcK u s) : s.pending = u.pending := congrArg State.FcKPart.pending h.eq

theorem FcK.takeForecast (h : FcK u s) (a1) : FcK u (State.takeForecast s a1) := by
  unfold State.takeForecast
  refine FcK.upd ?_ rfl rfl rfl rfl rfl rfl rfl rfl rfl rfl rfl rfl rfl rfl rfl rfl rfl rfl rfl rfl rfl rfl rfl
  exact h

/-- What those functions may change, as a frame names it. -/
theorem FcK.within {t : State} (h : FcK s.partFcK t) : t.within s [.prf]
  | .regs, _ => h.regs_eq
  | .time, _ => h.time_eq
  | .inp, _ => h.inp_eq
  | .wq, _ => h.wq_eq
  | .lpe, _ => h.lpe_eq
  | .hmp, _ => h.hmp_eq
  | .prf, hp => (hp (by decide)).elim
  | .site, _ => h.site_eq
  | .zfb, _ => h.zfb_eq
  | .wgl, _ => h.wgl_eq
  | .lks, _ => h.lks_eq
  | .link, _ => h.link_eq
  | .chn, _ => h.chn_eq
  | .est, _ => h.est_eq
  | .arr, _ => h.arr_eq
  | .flt, _ => h.flt_eq
  | .mgp, _ => h.mgp_eq
  | .sec, _ => h.sec_eq
  | .pwr, _ => h.pwr_eq
  | .cfg, _ => h.cfg_eq
  | .pins, _ => h.pins_eq
  | .shadow, _ => h.shadow_eq
  | .free, _ => h.free_eq
  | .pending, _ => h.pending_eq

end Sys2Proof.Machine
end

