-- ==== Sys2Proof/Laws/FenceC.lean ====
section
/-! SUPPORT. What the fence of a core and the counts of cores leave alone. -/

namespace Sys2Proof.Machine

/-- The parts of the state that are kept. -/
structure State.FenceCPart where
  time : TimeRt
  inp : InputRt
  wq : List PairWrite
  lpe : LpeRt
  hmp : HmpRt
  prf : PrfRt
  site : SiteRt
  zfb : ZfbRt
  wgl : WglRt
  lks : LksRt
  link : LinkRt
  chn : ChnRt
  est : EstRt
  flt : FltRt
  mgp : MgpRt
  sec : SecRt
  pwr : PwrRt
  cfg : CfgRt
  pins : PinRt
  shadow : List (Nat × Nat × Word)
  free : Nat
  pending : List Instr

/-- Those parts of a state. -/
def State.partFenceC (s : State) : State.FenceCPart :=
  ⟨s.time, s.inp, s.wq, s.lpe, s.hmp, s.prf, s.site, s.zfb, s.wgl, s.lks, s.link, s.chn, s.est, s.flt, s.mgp, s.sec, s.pwr, s.cfg, s.pins, s.shadow, s.free, s.pending⟩

/-- Those parts are the ones given. -/
structure FenceC (u : State.FenceCPart) (s : State) : Prop where
  eq : s.partFenceC = u

variable {u : State.FenceCPart} {s : State}

theorem FenceC.upd {regs time inp wq lpe hmp prf site zfb wgl lks link chn est arr flt mgp sec pwr cfg pins shadow free pending} (h : FenceC u s) (h_regs : regs = s.regs) (h_time : time = s.time) (h_inp : inp = s.inp) (h_wq : wq = s.wq) (h_lpe : lpe = s.lpe) (h_hmp : hmp = s.hmp) (h_prf : prf = s.prf) (h_site : site = s.site) (h_zfb : zfb = s.zfb) (h_wgl : wgl = s.wgl) (h_lks : lks = s.lks) (h_link : link = s.link) (h_chn : chn = s.chn) (h_est : est = s.est) (h_flt : flt = s.flt) (h_mgp : mgp = s.mgp) (h_sec : sec = s.sec) (h_pwr : pwr = s.pwr) (h_cfg : cfg = s.cfg) (h_pins : pins = s.pins) (h_shadow : shadow = s.shadow) (h_free : free = s.free) (h_pending : pending = s.pending) :
    FenceC u (State.mk regs time inp wq lpe hmp prf site zfb wgl lks link chn est arr flt mgp sec pwr cfg pins shadow free pending) := by
  subst h_regs h_time h_inp h_wq h_lpe h_hmp h_prf h_site h_zfb h_wgl h_lks h_link h_chn h_est h_flt h_mgp h_sec h_pwr h_cfg h_pins h_shadow h_free h_pending
  exact ⟨h.eq⟩

theorem FenceC.rfl' (s : State) : FenceC s.partFenceC s := ⟨rfl⟩

theorem FenceC.ite {c : Prop} {_ : Decidable c} {a b : State} (ha : c → FenceC u a) (hb : ¬c → FenceC u b) : FenceC u (if c then a else b) := by
  split
  · exact ha ‹_›
  · exact hb ‹_›

theorem FenceC.dite {c : Prop} {_ : Decidable c} {a : c → State} {b : ¬c → State} (ha : ∀ h, FenceC u (a h)) (hb : ∀ h, FenceC u (b h)) :
    FenceC u (if h : c then a h else b h) := by
  split
  · exact ha _
  · exact hb _

theorem FenceC.iteP {α : Type} {c : Prop} {_ : Decidable c} {a b : State × α} (ha : c → FenceC u a.1) (hb : ¬c → FenceC u b.1) : FenceC u (if c then a else b).1 := by
  split
  · exact ha ‹_›
  · exact hb ‹_›

theorem FenceC.diteP {α : Type} {c : Prop} {_ : Decidable c} {a : c → State × α} {b : ¬c → State × α} (ha : ∀ h, FenceC u (a h).1) (hb : ∀ h, FenceC u (b h).1) :
    FenceC u (if h : c then a h else b h).1 := by
  split
  · exact ha _
  · exact hb _

theorem FenceC.foldl {α : Type} {l : List α} {f : State → α → State} (hf : ∀ t a, FenceC u t → FenceC u (f t a)) (h : FenceC u s) : FenceC u (l.foldl f s) := by
  induction l generalizing s with
  | nil => exact h
  | cons a l ih => exact ih (hf s a h)

theorem FenceC.each {n : Nat} {f : Nat → State → State} (hf : ∀ i t, FenceC u t → FenceC u (f i t)) (h : FenceC u s) : FenceC u (State.each n f s) :=
  FenceC.foldl (fun t a ht => hf a t ht) h

theorem FenceC.over {α : Type} {l : List α} {f : α → State → State} (hf : ∀ i t, FenceC u t → FenceC u (f i t)) (h : FenceC u s) : FenceC u (State.over l f s) :=
  FenceC.foldl (fun t a ht => hf a t ht) h

theorem FenceC.iff {c : Bool} {f : State → State} (hf : ∀ t, FenceC u t → FenceC u (f t)) (h : FenceC u s) : FenceC u (State.iff c f s) := by
  unfold State.iff
  split
  · exact hf s h
  · exact h

theorem FenceC.wr (h : FenceC u s) (a w) : FenceC u (s.wr a w) := ⟨h.eq⟩

theorem FenceC.time_eq (h : FenceC u s) : s.time = u.time := congrArg State.FenceCPart.time h.eq
theorem FenceC.inp_eq (h : FenceC u s) : s.inp = u.inp := congrArg State.FenceCPart.inp h.eq
theorem FenceC.wq_eq (h : FenceC u s) : s.wq = u.wq := congrArg State.FenceCPart.wq h.eq
theorem FenceC.lpe_eq (h : FenceC u s) : s.lpe = u.lpe := congrArg State.FenceCPart.lpe h.eq
theorem FenceC.hmp_eq (h : FenceC u s) : s.hmp = u.hmp := congrArg State.FenceCPart.hmp h.eq
theorem FenceC.prf_eq (h : FenceC u s) : s.prf = u.prf := congrArg State.FenceCPart.prf h.eq
theorem FenceC.site_eq (h : FenceC u s) : s.site = u.site := congrArg State.FenceCPart.site h.eq
theorem FenceC.zfb_eq (h : FenceC u s) : s.zfb = u.zfb := congrArg State.FenceCPart.zfb h.eq
theorem FenceC.wgl_eq (h : FenceC u s) : s.wgl = u.wgl := congrArg State.FenceCPart.wgl h.eq
theorem FenceC.lks_eq (h : FenceC u s) : s.lks = u.lks := congrArg State.FenceCPart.lks h.eq
theorem FenceC.link_eq (h : FenceC u s) : s.link = u.link := congrArg State.FenceCPart.link h.eq
theorem FenceC.chn_eq (h : FenceC u s) : s.chn = u.chn := congrArg State.FenceCPart.chn h.eq
theorem FenceC.est_eq (h : FenceC u s) : s.est = u.est := congrArg State.FenceCPart.est h.eq
theorem FenceC.flt_eq (h : FenceC u s) : s.flt = u.flt := congrArg State.FenceCPart.flt h.eq
theorem FenceC.mgp_eq (h : FenceC u s) : s.mgp = u.mgp := congrArg State.FenceCPart.mgp h.eq
theorem FenceC.sec_eq (h : FenceC u s) : s.sec = u.sec := congrArg State.FenceCPart.sec h.eq
theorem FenceC.pwr_eq (h : FenceC u s) : s.pwr = u.pwr := congrArg State.FenceCPart.pwr h.eq
theorem FenceC.cfg_eq (h : FenceC u s) : s.cfg = u.cfg := congrArg State.FenceCPart.cfg h.eq
theorem FenceC.pins_eq (h : FenceC u s) : s.pins = u.pins := congrArg State.FenceCPart.pins h.eq
theorem FenceC.shadow_eq (h : FenceC u s) : s.shadow = u.shadow := congrArg State.FenceCPart.shadow h.eq
theorem FenceC.free_eq (h : FenceC u s) : s.free = u.free := congrArg State.FenceCPart.free h.eq
theorem FenceC.pending_eq (h : FenceC u s) : s.pending = u.pending := congrArg State.FenceCPart.pending h.eq

theorem FenceC.put (h : FenceC u s) (a1 a2) : FenceC u (State.put s a1 a2) := by
  unfold State.put
  refine FenceC.wr ?_ ..
  exact h

theorem FenceC.setFlag (h : FenceC u s) (a1 a2) : FenceC u (State.setFlag s a1 a2) := by
  unfold State.setFlag
  refine FenceC.put ?_ ..
  exact h

theorem FenceC.bump (h : FenceC u s) (a1) : FenceC u (State.bump s a1) := by
  unfold State.bump
  refine FenceC.put ?_ ..
  exact h

theorem FenceC.fenceCore (h : FenceC u s) (a1 a2) : FenceC u (State.fenceCore s a1 a2) := by
  unfold State.fenceCore
  refine FenceC.put ?_ ..
  refine FenceC.put ?_ ..
  exact h

theorem FenceC.setCore (h : FenceC u s) (a1 a2) : FenceC u (State.setCore s a1 a2) := by
  unfold State.setCore
  refine FenceC.upd ?_ rfl rfl rfl rfl rfl rfl rfl rfl rfl rfl rfl rfl rfl rfl rfl rfl rfl rfl rfl rfl rfl rfl rfl
  exact h

theorem FenceC.countCores (h : FenceC u s) : FenceC u (State.countCores s) := by
  unfold State.countCores
  extract_lets +onlyGivenNames -merge -useContext -underBinder x1
  refine FenceC.put ?_ ..
  refine FenceC.put ?_ ..
  refine FenceC.put ?_ ..
  refine FenceC.put ?_ ..
  exact h

theorem FenceC.fenceCoreNow (h : FenceC u s) (a1 a2) : FenceC u (State.fenceCoreNow s a1 a2) := by
  unfold State.fenceCoreNow
  refine FenceC.countCores ?_ ..
  refine FenceC.setCore ?_ ..
  refine FenceC.put ?_ ..
  refine FenceC.fenceCore ?_ ..
  exact h

theorem FenceC.coreBound (h : FenceC u s) (a1) : FenceC u (State.coreBound s a1) := by
  unfold State.coreBound
  refine FenceC.countCores ?_ ..
  refine FenceC.setCore ?_ ..
  refine FenceC.put ?_ ..
  exact h

/-- What those functions may change, as a frame names it. -/
theorem FenceC.within {t : State} (h : FenceC s.partFenceC t) : t.within s [.regs, .arr]
  | .regs, hp => (hp (by decide)).elim
  | .time, _ => h.time_eq
  | .inp, _ => h.inp_eq
  | .wq, _ => h.wq_eq
  | .lpe, _ => h.lpe_eq
  | .hmp, _ => h.hmp_eq
  | .prf, _ => h.prf_eq
  | .site, _ => h.site_eq
  | .zfb, _ => h.zfb_eq
  | .wgl, _ => h.wgl_eq
  | .lks, _ => h.lks_eq
  | .link, _ => h.link_eq
  | .chn, _ => h.chn_eq
  | .est, _ => h.est_eq
  | .arr, hp => (hp (by decide)).elim
  | .flt, _ => h.flt_eq
  | .mgp, _ => h.mgp_eq
  | .sec, _ => h.sec_eq
  | .pwr, _ => h.pwr_eq
  | .cfg, _ => h.cfg_eq
  | .pins, _ => h.pins_eq
  | .shadow, _ => h.shadow_eq
  | .free, _ => h.free_eq
  | .pending, _ => h.pending_eq

end Sys2Proof.Machine
end

