-- ==== Sys2Proof/Laws/ImgD.lean ====
section
/-! SUPPORT. What the dynamic image leaves alone. -/

namespace Sys2Proof.Machine

/-- The parts of the state that are kept. -/
structure State.ImgDPart where
  time : TimeRt
  inp : InputRt
  wq : List PairWrite
  hmp : HmpRt
  site : SiteRt
  chn : ChnRt
  est : EstRt
  arr : ArrRt
  flt : FltRt
  mgp : MgpRt
  sec : SecRt
  pwr : PwrRt
  cfg : CfgRt
  pins : PinRt
  shadow : List (Nat × Nat × Word)
  free : Nat
  pending : List Instr

/-- Those parts of a state. -/
def State.partImgD (s : State) : State.ImgDPart :=
  ⟨s.time, s.inp, s.wq, s.hmp, s.site, s.chn, s.est, s.arr, s.flt, s.mgp, s.sec, s.pwr, s.cfg, s.pins, s.shadow, s.free, s.pending⟩

/-- Those parts are the ones given. -/
structure ImgD (u : State.ImgDPart) (s : State) : Prop where
  eq : s.partImgD = u

variable {u : State.ImgDPart} {s : State}

theorem ImgD.upd {regs time inp wq lpe hmp prf site zfb wgl lks link chn est arr flt mgp sec pwr cfg pins shadow free pending} (h : ImgD u s) (h_regs : regs = s.regs) (h_time : time = s.time) (h_inp : inp = s.inp) (h_wq : wq = s.wq) (h_hmp : hmp = s.hmp) (h_site : site = s.site) (h_chn : chn = s.chn) (h_est : est = s.est) (h_arr : arr = s.arr) (h_flt : flt = s.flt) (h_mgp : mgp = s.mgp) (h_sec : sec = s.sec) (h_pwr : pwr = s.pwr) (h_cfg : cfg = s.cfg) (h_pins : pins = s.pins) (h_shadow : shadow = s.shadow) (h_free : free = s.free) (h_pending : pending = s.pending) :
    ImgD u (State.mk regs time inp wq lpe hmp prf site zfb wgl lks link chn est arr flt mgp sec pwr cfg pins shadow free pending) := by
  subst h_regs h_time h_inp h_wq h_hmp h_site h_chn h_est h_arr h_flt h_mgp h_sec h_pwr h_cfg h_pins h_shadow h_free h_pending
  exact ⟨h.eq⟩

theorem ImgD.rfl' (s : State) : ImgD s.partImgD s := ⟨rfl⟩

/-- What a command answers keeps them. -/
def ImgDo (u : State.ImgDPart) (o : Host.Outcome State Fault Refusal) : Prop := ∀ t, o = Host.Outcome.next t → ImgD u t

theorem ImgDo.next (h : ImgD u s) : ImgDo u (Host.Outcome.next s) := fun t e => by cases e; exact h

theorem ImgD.ite {c : Prop} {_ : Decidable c} {a b : State} (ha : c → ImgD u a) (hb : ¬c → ImgD u b) : ImgD u (if c then a else b) := by
  split
  · exact ha ‹_›
  · exact hb ‹_›

theorem ImgD.dite {c : Prop} {_ : Decidable c} {a : c → State} {b : ¬c → State} (ha : ∀ h, ImgD u (a h)) (hb : ∀ h, ImgD u (b h)) :
    ImgD u (if h : c then a h else b h) := by
  split
  · exact ha _
  · exact hb _

theorem ImgD.iteP {α : Type} {c : Prop} {_ : Decidable c} {a b : State × α} (ha : c → ImgD u a.1) (hb : ¬c → ImgD u b.1) : ImgD u (if c then a else b).1 := by
  split
  · exact ha ‹_›
  · exact hb ‹_›

theorem ImgD.diteP {α : Type} {c : Prop} {_ : Decidable c} {a : c → State × α} {b : ¬c → State × α} (ha : ∀ h, ImgD u (a h).1) (hb : ∀ h, ImgD u (b h).1) :
    ImgD u (if h : c then a h else b h).1 := by
  split
  · exact ha _
  · exact hb _

theorem ImgD.foldl {α : Type} {l : List α} {f : State → α → State} (hf : ∀ t a, ImgD u t → ImgD u (f t a)) (h : ImgD u s) : ImgD u (l.foldl f s) := by
  induction l generalizing s with
  | nil => exact h
  | cons a l ih => exact ih (hf s a h)

theorem ImgD.each {n : Nat} {f : Nat → State → State} (hf : ∀ i t, ImgD u t → ImgD u (f i t)) (h : ImgD u s) : ImgD u (State.each n f s) :=
  ImgD.foldl (fun t a ht => hf a t ht) h

theorem ImgD.over {α : Type} {l : List α} {f : α → State → State} (hf : ∀ i t, ImgD u t → ImgD u (f i t)) (h : ImgD u s) : ImgD u (State.over l f s) :=
  ImgD.foldl (fun t a ht => hf a t ht) h

theorem ImgD.iff {c : Bool} {f : State → State} (hf : ∀ t, ImgD u t → ImgD u (f t)) (h : ImgD u s) : ImgD u (State.iff c f s) := by
  unfold State.iff
  split
  · exact hf s h
  · exact h

theorem ImgD.wr (h : ImgD u s) (a w) : ImgD u (s.wr a w) := ⟨h.eq⟩

theorem ImgD.time_eq (h : ImgD u s) : s.time = u.time := congrArg State.ImgDPart.time h.eq
theorem ImgD.inp_eq (h : ImgD u s) : s.inp = u.inp := congrArg State.ImgDPart.inp h.eq
theorem ImgD.wq_eq (h : ImgD u s) : s.wq = u.wq := congrArg State.ImgDPart.wq h.eq
theorem ImgD.hmp_eq (h : ImgD u s) : s.hmp = u.hmp := congrArg State.ImgDPart.hmp h.eq
theorem ImgD.site_eq (h : ImgD u s) : s.site = u.site := congrArg State.ImgDPart.site h.eq
theorem ImgD.chn_eq (h : ImgD u s) : s.chn = u.chn := congrArg State.ImgDPart.chn h.eq
theorem ImgD.est_eq (h : ImgD u s) : s.est = u.est := congrArg State.ImgDPart.est h.eq
theorem ImgD.arr_eq (h : ImgD u s) : s.arr = u.arr := congrArg State.ImgDPart.arr h.eq
theorem ImgD.flt_eq (h : ImgD u s) : s.flt = u.flt := congrArg State.ImgDPart.flt h.eq
theorem ImgD.mgp_eq (h : ImgD u s) : s.mgp = u.mgp := congrArg State.ImgDPart.mgp h.eq
theorem ImgD.sec_eq (h : ImgD u s) : s.sec = u.sec := congrArg State.ImgDPart.sec h.eq
theorem ImgD.pwr_eq (h : ImgD u s) : s.pwr = u.pwr := congrArg State.ImgDPart.pwr h.eq
theorem ImgD.cfg_eq (h : ImgD u s) : s.cfg = u.cfg := congrArg State.ImgDPart.cfg h.eq
theorem ImgD.pins_eq (h : ImgD u s) : s.pins = u.pins := congrArg State.ImgDPart.pins h.eq
theorem ImgD.shadow_eq (h : ImgD u s) : s.shadow = u.shadow := congrArg State.ImgDPart.shadow h.eq
theorem ImgD.free_eq (h : ImgD u s) : s.free = u.free := congrArg State.ImgDPart.free h.eq
theorem ImgD.pending_eq (h : ImgD u s) : s.pending = u.pending := congrArg State.ImgDPart.pending h.eq

theorem ImgD.put (h : ImgD u s) (a1 a2) : ImgD u (State.put s a1 a2) := by
  unfold State.put
  refine ImgD.wr ?_ ..
  exact h

theorem ImgD.setFlag (h : ImgD u s) (a1 a2) : ImgD u (State.setFlag s a1 a2) := by
  unfold State.setFlag
  refine ImgD.put ?_ ..
  exact h

theorem ImgD.bump (h : ImgD u s) (a1) : ImgD u (State.bump s a1) := by
  unfold State.bump
  refine ImgD.put ?_ ..
  exact h

theorem ImgD.loadRegs (h : ImgD u s) (a1 a2) : ImgD u (State.loadRegs s a1 a2) := by
  unfold State.loadRegs
  extract_lets +onlyGivenNames -merge -useContext -underBinder x1
  have hx1 : ImgD u x1 := by
    unfold x1
    refine ImgD.foldl (fun _ _ ht2 => ?_) ?_
    · refine ImgD.wr ?_ ..
      exact ht2
    · exact h
  refine ImgD.foldl (fun _ _ ht3 => ?_) ?_
  · refine ImgD.wr ?_ ..
    exact ht3
  · exact hx1

theorem ImgD.dynParts (h : ImgD u s) (a1) : ImgD u (State.dynParts s a1) := by
  unfold State.dynParts
  refine ImgD.upd ?_ rfl rfl rfl rfl rfl rfl rfl rfl rfl rfl rfl rfl rfl rfl rfl rfl rfl rfl
  exact h

theorem ImgD.loadDynamic (h : ImgD u s) (a1) : ImgD u (State.loadDynamic s a1) := by
  unfold State.loadDynamic
  refine ImgD.loadRegs ?_ ..
  refine ImgD.dynParts ?_ ..
  exact h

theorem ImgD.passEnded (h : ImgD u s) : ImgD u (State.passEnded s) := by
  unfold State.passEnded
  refine ImgD.upd ?_ rfl rfl rfl rfl rfl rfl rfl rfl rfl rfl rfl rfl rfl rfl rfl rfl rfl rfl
  exact h

theorem ImgD.dynamicTaken (h : ImgD u s) : ImgD u (State.dynamicTaken s) := by
  unfold State.dynamicTaken
  refine ImgD.passEnded ?_ ..
  refine ImgD.upd ?_ rfl rfl rfl rfl rfl rfl rfl rfl rfl rfl rfl rfl rfl rfl rfl rfl rfl rfl
  exact h

theorem ImgD.execDynamicImage_keeps (h : ImgD u s) (a0) : ImgDo u (execDynamicImage a0 s) := by
  unfold execDynamicImage
  refine ImgDo.next ?_
  refine ImgD.ite (fun _ => ?_) (fun _ => ?_)
  · exact h
  · refine ImgD.bump ?_ ..
    refine ImgD.setFlag ?_ ..
    refine ImgD.dynamicTaken ?_ ..
    refine ImgD.loadDynamic ?_ ..
    exact h

/-- What those functions may change, as a frame names it. -/
theorem ImgD.within {t : State} (h : ImgD s.partImgD t) : t.within s [.regs, .lpe, .prf, .zfb, .wgl, .lks, .link]
  | .regs, hp => (hp (by decide)).elim
  | .time, _ => h.time_eq
  | .inp, _ => h.inp_eq
  | .wq, _ => h.wq_eq
  | .lpe, hp => (hp (by decide)).elim
  | .hmp, _ => h.hmp_eq
  | .prf, hp => (hp (by decide)).elim
  | .site, _ => h.site_eq
  | .zfb, hp => (hp (by decide)).elim
  | .wgl, hp => (hp (by decide)).elim
  | .lks, hp => (hp (by decide)).elim
  | .link, hp => (hp (by decide)).elim
  | .chn, _ => h.chn_eq
  | .est, _ => h.est_eq
  | .arr, _ => h.arr_eq
  | .flt, _ => h.flt_eq
  | .mgp, _ => h.mgp_eq
  | .sec, _ => h.sec_eq
  | .pwr, _ => h.pwr_eq
  | .cfg, _ => h.cfg_eq
  | .pins, _ => h.pins_eq
  | .shadow, _ => h.shadow_eq
  | .free, _ => h.free_eq
  | .pending, _ => h.pending_eq

end Sys2Proof.Machine
end

