-- ==== Sys2Proof/Laws/ImgS.lean ====
section
/-! SUPPORT. What the static image leaves alone. -/

namespace Sys2Proof.Machine

/-- The parts of the state that are kept. -/
structure State.ImgSPart where
  time : TimeRt
  inp : InputRt
  wq : List PairWrite
  hmp : HmpRt
  site : SiteRt
  link : LinkRt
  arr : ArrRt
  mgp : MgpRt
  sec : SecRt
  pwr : PwrRt
  cfg : CfgRt
  pins : PinRt
  shadow : List (Nat × Nat × Word)
  free : Nat
  pending : List Instr

/-- Those parts of a state. -/
def State.partImgS (s : State) : State.ImgSPart :=
  ⟨s.time, s.inp, s.wq, s.hmp, s.site, s.link, s.arr, s.mgp, s.sec, s.pwr, s.cfg, s.pins, s.shadow, s.free, s.pending⟩

/-- Those parts are the ones given. -/
structure ImgS (u : State.ImgSPart) (s : State) : Prop where
  eq : s.partImgS = u

variable {u : State.ImgSPart} {s : State}

theorem ImgS.upd {regs time inp wq lpe hmp prf site zfb wgl lks link chn est arr flt mgp sec pwr cfg pins shadow free pending} (h : ImgS u s) (h_regs : regs = s.regs) (h_time : time = s.time) (h_inp : inp = s.inp) (h_wq : wq = s.wq) (h_hmp : hmp = s.hmp) (h_site : site = s.site) (h_link : link = s.link) (h_arr : arr = s.arr) (h_mgp : mgp = s.mgp) (h_sec : sec = s.sec) (h_pwr : pwr = s.pwr) (h_cfg : cfg = s.cfg) (h_pins : pins = s.pins) (h_shadow : shadow = s.shadow) (h_free : free = s.free) (h_pending : pending = s.pending) :
    ImgS u (State.mk regs time inp wq lpe hmp prf site zfb wgl lks link chn est arr flt mgp sec pwr cfg pins shadow free pending) := by
  subst h_regs h_time h_inp h_wq h_hmp h_site h_link h_arr h_mgp h_sec h_pwr h_cfg h_pins h_shadow h_free h_pending
  exact ⟨h.eq⟩

theorem ImgS.rfl' (s : State) : ImgS s.partImgS s := ⟨rfl⟩

/-- What a command answers keeps them. -/
def ImgSo (u : State.ImgSPart) (o : Host.Outcome State Fault Refusal) : Prop := ∀ t, o = Host.Outcome.next t → ImgS u t

theorem ImgSo.next (h : ImgS u s) : ImgSo u (Host.Outcome.next s) := fun t e => by cases e; exact h

theorem ImgS.ite {c : Prop} {_ : Decidable c} {a b : State} (ha : c → ImgS u a) (hb : ¬c → ImgS u b) : ImgS u (if c then a else b) := by
  split
  · exact ha ‹_›
  · exact hb ‹_›

theorem ImgS.dite {c : Prop} {_ : Decidable c} {a : c → State} {b : ¬c → State} (ha : ∀ h, ImgS u (a h)) (hb : ∀ h, ImgS u (b h)) :
    ImgS u (if h : c then a h else b h) := by
  split
  · exact ha _
  · exact hb _

theorem ImgS.iteP {α : Type} {c : Prop} {_ : Decidable c} {a b : State × α} (ha : c → ImgS u a.1) (hb : ¬c → ImgS u b.1) : ImgS u (if c then a else b).1 := by
  split
  · exact ha ‹_›
  · exact hb ‹_›

theorem ImgS.diteP {α : Type} {c : Prop} {_ : Decidable c} {a : c → State × α} {b : ¬c → State × α} (ha : ∀ h, ImgS u (a h).1) (hb : ∀ h, ImgS u (b h).1) :
    ImgS u (if h : c then a h else b h).1 := by
  split
  · exact ha _
  · exact hb _

theorem ImgS.foldl {α : Type} {l : List α} {f : State → α → State} (hf : ∀ t a, ImgS u t → ImgS u (f t a)) (h : ImgS u s) : ImgS u (l.foldl f s) := by
  induction l generalizing s with
  | nil => exact h
  | cons a l ih => exact ih (hf s a h)

theorem ImgS.each {n : Nat} {f : Nat → State → State} (hf : ∀ i t, ImgS u t → ImgS u (f i t)) (h : ImgS u s) : ImgS u (State.each n f s) :=
  ImgS.foldl (fun t a ht => hf a t ht) h

theorem ImgS.over {α : Type} {l : List α} {f : α → State → State} (hf : ∀ i t, ImgS u t → ImgS u (f i t)) (h : ImgS u s) : ImgS u (State.over l f s) :=
  ImgS.foldl (fun t a ht => hf a t ht) h

theorem ImgS.iff {c : Bool} {f : State → State} (hf : ∀ t, ImgS u t → ImgS u (f t)) (h : ImgS u s) : ImgS u (State.iff c f s) := by
  unfold State.iff
  split
  · exact hf s h
  · exact h

theorem ImgS.wr (h : ImgS u s) (a w) : ImgS u (s.wr a w) := ⟨h.eq⟩

theorem ImgS.time_eq (h : ImgS u s) : s.time = u.time := congrArg State.ImgSPart.time h.eq
theorem ImgS.inp_eq (h : ImgS u s) : s.inp = u.inp := congrArg State.ImgSPart.inp h.eq
theorem ImgS.wq_eq (h : ImgS u s) : s.wq = u.wq := congrArg State.ImgSPart.wq h.eq
theorem ImgS.hmp_eq (h : ImgS u s) : s.hmp = u.hmp := congrArg State.ImgSPart.hmp h.eq
theorem ImgS.site_eq (h : ImgS u s) : s.site = u.site := congrArg State.ImgSPart.site h.eq
theorem ImgS.link_eq (h : ImgS u s) : s.link = u.link := congrArg State.ImgSPart.link h.eq
theorem ImgS.arr_eq (h : ImgS u s) : s.arr = u.arr := congrArg State.ImgSPart.arr h.eq
theorem ImgS.mgp_eq (h : ImgS u s) : s.mgp = u.mgp := congrArg State.ImgSPart.mgp h.eq
theorem ImgS.sec_eq (h : ImgS u s) : s.sec = u.sec := congrArg State.ImgSPart.sec h.eq
theorem ImgS.pwr_eq (h : ImgS u s) : s.pwr = u.pwr := congrArg State.ImgSPart.pwr h.eq
theorem ImgS.cfg_eq (h : ImgS u s) : s.cfg = u.cfg := congrArg State.ImgSPart.cfg h.eq
theorem ImgS.pins_eq (h : ImgS u s) : s.pins = u.pins := congrArg State.ImgSPart.pins h.eq
theorem ImgS.shadow_eq (h : ImgS u s) : s.shadow = u.shadow := congrArg State.ImgSPart.shadow h.eq
theorem ImgS.free_eq (h : ImgS u s) : s.free = u.free := congrArg State.ImgSPart.free h.eq
theorem ImgS.pending_eq (h : ImgS u s) : s.pending = u.pending := congrArg State.ImgSPart.pending h.eq

theorem ImgS.put (h : ImgS u s) (a1 a2) : ImgS u (State.put s a1 a2) := by
  unfold State.put
  refine ImgS.wr ?_ ..
  exact h

theorem ImgS.setFlag (h : ImgS u s) (a1 a2) : ImgS u (State.setFlag s a1 a2) := by
  unfold State.setFlag
  refine ImgS.put ?_ ..
  exact h

theorem ImgS.loadRegs (h : ImgS u s) (a1 a2) : ImgS u (State.loadRegs s a1 a2) := by
  unfold State.loadRegs
  extract_lets +onlyGivenNames -merge -useContext -underBinder x1
  have hx1 : ImgS u x1 := by
    unfold x1
    refine ImgS.foldl (fun _ _ ht2 => ?_) ?_
    · refine ImgS.wr ?_ ..
      exact ht2
    · exact h
  refine ImgS.foldl (fun _ _ ht3 => ?_) ?_
  · refine ImgS.wr ?_ ..
    exact ht3
  · exact hx1

theorem ImgS.dynParts (h : ImgS u s) (a1) : ImgS u (State.dynParts s a1) := by
  unfold State.dynParts
  refine ImgS.upd ?_ rfl rfl rfl rfl rfl rfl rfl rfl rfl rfl rfl rfl rfl rfl rfl rfl
  exact h

theorem ImgS.statParts (h : ImgS u s) (a1) : ImgS u (State.statParts s a1) := by
  unfold State.statParts
  refine ImgS.upd ?_ rfl rfl rfl rfl rfl rfl rfl rfl rfl rfl rfl rfl rfl rfl rfl rfl
  exact h

theorem ImgS.loadStatic (h : ImgS u s) (a1) : ImgS u (State.loadStatic s a1) := by
  unfold State.loadStatic
  refine ImgS.loadRegs ?_ ..
  refine ImgS.statParts ?_ ..
  refine ImgS.dynParts ?_ ..
  exact h

theorem ImgS.staticTaken (h : ImgS u s) : ImgS u (State.staticTaken s) := by
  unfold State.staticTaken
  refine ImgS.upd ?_ rfl rfl rfl rfl rfl rfl rfl rfl rfl rfl rfl rfl rfl rfl rfl rfl
  exact h

theorem ImgS.execStaticImage_keeps (h : ImgS u s) (a0) : ImgSo u (execStaticImage a0 s) := by
  unfold execStaticImage
  refine ImgSo.next ?_
  refine ImgS.ite (fun _ => ?_) (fun _ => ?_)
  · exact h
  · refine ImgS.setFlag ?_ ..
    refine ImgS.staticTaken ?_ ..
    refine ImgS.loadStatic ?_ ..
    exact h

/-- What those functions may change, as a frame names it. -/
theorem ImgS.within {t : State} (h : ImgS s.partImgS t) : t.within s [.regs, .lpe, .prf, .zfb, .wgl, .lks, .chn, .est, .flt]
  | .regs, hp => (hp (by decide)).elim
  | .time, _ => h.time_eq
  | .inp, _ => h.inp_eq
  | .wq, _ => h.wq_eq
  | .lpe, hp => (hp (by decide)).elim
  | .hmp, _ => h.hmp_eq
  | .prf, hp => (hp (by decide)).elim
  | .site, _ => h.site_eq
  | .zfb, hp => (hp (by decide)).elim
  | .wgl, hp => (hp (by decide)).elim
  | .lks, hp => (hp (by decide)).elim
  | .link, _ => h.link_eq
  | .chn, hp => (hp (by decide)).elim
  | .est, hp => (hp (by decide)).elim
  | .arr, _ => h.arr_eq
  | .flt, hp => (hp (by decide)).elim
  | .mgp, _ => h.mgp_eq
  | .sec, _ => h.sec_eq
  | .pwr, _ => h.pwr_eq
  | .cfg, _ => h.cfg_eq
  | .pins, _ => h.pins_eq
  | .shadow, _ => h.shadow_eq
  | .free, _ => h.free_eq
  | .pending, _ => h.pending_eq

end Sys2Proof.Machine
end

