-- ==== Sys2Proof/Laws/InSet.lean ====
section
/-! SUPPORT. What the partner's set leaves alone. -/

namespace Sys2Proof.Machine

/-- The parts of the state that are kept. -/
structure State.InSetPart where
  regs : Regs
  time : TimeRt
  wq : List PairWrite
  lpe : LpeRt
  hmp : HmpRt
  prf : PrfRt
  site : SiteRt
  zfb : ZfbRt
  wgl : WglRt
  link : LinkRt
  chn : ChnRt
  est : EstRt
  arr : ArrRt
  flt : FltRt
  mgp : MgpRt
  sec : SecRt
  pwr : PwrRt
  cfg : CfgRt
  pins : PinRt
  shadow : List (Nat × Nat × Word)
  free : Nat
  pending : List Instr

/-- Those parts of a state. -/
def State.partInSet (s : State) : State.InSetPart :=
  ⟨s.regs, s.time, s.wq, s.lpe, s.hmp, s.prf, s.site, s.zfb, s.wgl, s.link, s.chn, s.est, s.arr, s.flt, s.mgp, s.sec, s.pwr, s.cfg, s.pins, s.shadow, s.free, s.pending⟩

/-- Those parts are the ones given. -/
structure InSet (u : State.InSetPart) (s : State) : Prop where
  eq : s.partInSet = u

variable {u : State.InSetPart} {s : State}

theorem InSet.upd {regs time inp wq lpe hmp prf site zfb wgl lks link chn est arr flt mgp sec pwr cfg pins shadow free pending} (h : InSet u s) (h_regs : regs = s.regs) (h_time : time = s.time) (h_wq : wq = s.wq) (h_lpe : lpe = s.lpe) (h_hmp : hmp = s.hmp) (h_prf : prf = s.prf) (h_site : site = s.site) (h_zfb : zfb = s.zfb) (h_wgl : wgl = s.wgl) (h_link : link = s.link) (h_chn : chn = s.chn) (h_est : est = s.est) (h_arr : arr = s.arr) (h_flt : flt = s.flt) (h_mgp : mgp = s.mgp) (h_sec : sec = s.sec) (h_pwr : pwr = s.pwr) (h_cfg : cfg = s.cfg) (h_pins : pins = s.pins) (h_shadow : shadow = s.shadow) (h_free : free = s.free) (h_pending : pending = s.pending) :
    InSet u (State.mk regs time inp wq lpe hmp prf site zfb wgl lks link chn est arr flt mgp sec pwr cfg pins shadow free pending) := by
  subst h_regs h_time h_wq h_lpe h_hmp h_prf h_site h_zfb h_wgl h_link h_chn h_est h_arr h_flt h_mgp h_sec h_pwr h_cfg h_pins h_shadow h_free h_pending
  exact ⟨h.eq⟩

theorem InSet.rfl' (s : State) : InSet s.partInSet s := ⟨rfl⟩

theorem InSet.ite {c : Prop} {_ : Decidable c} {a b : State} (ha : c → InSet u a) (hb : ¬c → InSet u b) : InSet u (if c then a else b) := by
  split
  · exact ha ‹_›
  · exact hb ‹_›

theorem InSet.dite {c : Prop} {_ : Decidable c} {a : c → State} {b : ¬c → State} (ha : ∀ h, InSet u (a h)) (hb : ∀ h, InSet u (b h)) :
    InSet u (if h : c then a h else b h) := by
  split
  · exact ha _
  · exact hb _

theorem InSet.iteP {α : Type} {c : Prop} {_ : Decidable c} {a b : State × α} (ha : c → InSet u a.1) (hb : ¬c → InSet u b.1) : InSet u (if c then a else b).1 := by
  split
  · exact ha ‹_›
  · exact hb ‹_›

theorem InSet.diteP {α : Type} {c : Prop} {_ : Decidable c} {a : c → State × α} {b : ¬c → State × α} (ha : ∀ h, InSet u (a h).1) (hb : ∀ h, InSet u (b h).1) :
    InSet u (if h : c then a h else b h).1 := by
  split
  · exact ha _
  · exact hb _

theorem InSet.foldl {α : Type} {l : List α} {f : State → α → State} (hf : ∀ t a, InSet u t → InSet u (f t a)) (h : InSet u s) : InSet u (l.foldl f s) := by
  induction l generalizing s with
  | nil => exact h
  | cons a l ih => exact ih (hf s a h)

theorem InSet.each {n : Nat} {f : Nat → State → State} (hf : ∀ i t, InSet u t → InSet u (f i t)) (h : InSet u s) : InSet u (State.each n f s) :=
  InSet.foldl (fun t a ht => hf a t ht) h

theorem InSet.over {α : Type} {l : List α} {f : α → State → State} (hf : ∀ i t, InSet u t → InSet u (f i t)) (h : InSet u s) : InSet u (State.over l f s) :=
  InSet.foldl (fun t a ht => hf a t ht) h

theorem InSet.iff {c : Bool} {f : State → State} (hf : ∀ t, InSet u t → InSet u (f t)) (h : InSet u s) : InSet u (State.iff c f s) := by
  unfold State.iff
  split
  · exact hf s h
  · exact h

theorem InSet.regs_eq (h : InSet u s) : s.regs = u.regs := congrArg State.InSetPart.regs h.eq
theorem InSet.time_eq (h : InSet u s) : s.time = u.time := congrArg State.InSetPart.time h.eq
theorem InSet.wq_eq (h : InSet u s) : s.wq = u.wq := congrArg State.InSetPart.wq h.eq
theorem InSet.lpe_eq (h : InSet u s) : s.lpe = u.lpe := congrArg State.InSetPart.lpe h.eq
theorem InSet.hmp_eq (h : InSet u s) : s.hmp = u.hmp := congrArg State.InSetPart.hmp h.eq
theorem InSet.prf_eq (h : InSet u s) : s.prf = u.prf := congrArg State.InSetPart.prf h.eq
theorem InSet.site_eq (h : InSet u s) : s.site = u.site := congrArg State.InSetPart.site h.eq
theorem InSet.zfb_eq (h : InSet u s) : s.zfb = u.zfb := congrArg State.InSetPart.zfb h.eq
theorem InSet.wgl_eq (h : InSet u s) : s.wgl = u.wgl := congrArg State.InSetPart.wgl h.eq
theorem InSet.link_eq (h : InSet u s) : s.link = u.link := congrArg State.InSetPart.link h.eq
theorem InSet.chn_eq (h : InSet u s) : s.chn = u.chn := congrArg State.InSetPart.chn h.eq
theorem InSet.est_eq (h : InSet u s) : s.est = u.est := congrArg State.InSetPart.est h.eq
theorem InSet.arr_eq (h : InSet u s) : s.arr = u.arr := congrArg State.InSetPart.arr h.eq
theorem InSet.flt_eq (h : InSet u s) : s.flt = u.flt := congrArg State.InSetPart.flt h.eq
theorem InSet.mgp_eq (h : InSet u s) : s.mgp = u.mgp := congrArg State.InSetPart.mgp h.eq
theorem InSet.sec_eq (h : InSet u s) : s.sec = u.sec := congrArg State.InSetPart.sec h.eq
theorem InSet.pwr_eq (h : InSet u s) : s.pwr = u.pwr := congrArg State.InSetPart.pwr h.eq
theorem InSet.cfg_eq (h : InSet u s) : s.cfg = u.cfg := congrArg State.InSetPart.cfg h.eq
theorem InSet.pins_eq (h : InSet u s) : s.pins = u.pins := congrArg State.InSetPart.pins h.eq
theorem InSet.shadow_eq (h : InSet u s) : s.shadow = u.shadow := congrArg State.InSetPart.shadow h.eq
theorem InSet.free_eq (h : InSet u s) : s.free = u.free := congrArg State.InSetPart.free h.eq
theorem InSet.pending_eq (h : InSet u s) : s.pending = u.pending := congrArg State.InSetPart.pending h.eq

theorem InSet.takeSet (h : InSet u s) (a1) : InSet u (State.takeSet s a1) := by
  unfold State.takeSet
  extract_lets +onlyGivenNames -merge -useContext -underBinder x1
  refine InSet.upd ?_ rfl rfl rfl rfl rfl rfl rfl rfl rfl rfl rfl rfl rfl rfl rfl rfl rfl rfl rfl rfl rfl rfl
  exact h

/-- What those functions may change, as a frame names it. -/
theorem InSet.within {t : State} (h : InSet s.partInSet t) : t.within s [.inp, .lks]
  | .regs, _ => h.regs_eq
  | .time, _ => h.time_eq
  | .inp, hp => (hp (by decide)).elim
  | .wq, _ => h.wq_eq
  | .lpe, _ => h.lpe_eq
  | .hmp, _ => h.hmp_eq
  | .prf, _ => h.prf_eq
  | .site, _ => h.site_eq
  | .zfb, _ => h.zfb_eq
  | .wgl, _ => h.wgl_eq
  | .lks, hp => (hp (by decide)).elim
  | .link, _ => h.link_eq
  | .chn, _ => h.chn_eq
  | .est, _ => h.est_eq
  | .arr, _ => h.arr_eq
  | .flt, _ => h.flt_eq
  | .mgp, _ => h.mgp_eq
  | .sec, _ => h.sec_eq
  | .pwr, _ => h.pwr_eq
  | .cfg, _ => h.cfg_eq
  | .pins, _ => h.pins_eq
  | .shadow, _ => h.shadow_eq
  | .free, _ => h.free_eq
  | .pending, _ => h.pending_eq

end Sys2Proof.Machine
end

