-- ==== Sys2Proof/Laws/Keep.lean ====
section
/-! SUPPORT. What every operation of the model keeps: the register file in its canonical form, the queue of waiting commands, and, but for
the operations that move the time base, the frame index and the timestamp (R38). One lemma per operation follows in the files Keep*, in the order of the model. -/

namespace Sys2Proof.Machine

/-- What every operation keeps, with the queue it keeps: the register file's form (asked for where `W` holds), and any condition on the frame index
and the timestamp. -/
structure OK (W : Prop) (q : List Instr) (I : Nat → Nat → Prop) (s : State) : Prop where
  wf : W → s.regs.wf = true
  time : I s.time.frame s.time.frameStart
  pend : s.pending = q

/-- The same of an outcome that is a next state. -/
def OKo (W : Prop) (q : List Instr) (I : Nat → Nat → Prop) (o : Host.Outcome State Fault Refusal) : Prop := ∀ t, o = Host.Outcome.next t → OK W q I t

/-- A condition that holds of every frame index and timestamp of the right width: what the operations need that move the time base. -/
def Wraps (I : Nat → Nat → Prop) : Prop := ∀ f g, f < 2 ^ 48 → g < 2 ^ 64 → I f g

variable {W : Prop} {q : List Instr} {I : Nat → Nat → Prop} {s : State}

theorem OKo.next (h : OK W q I s) : OKo W q I (Host.Outcome.next s) := fun t e => by cases e; exact h

theorem OK.upd' {regs time inp wq lpe hmp prf site zfb wgl lks link chn est arr flt mgp sec pwr cfg pins shadow free pending} (h : OK W q I s) (hr : regs = s.regs) (ht : time.frame = s.time.frame) (hs : time.frameStart = s.time.frameStart)
    (hp : pending = s.pending) : OK W q I (State.mk regs time inp wq lpe hmp prf site zfb wgl lks link chn est arr flt mgp sec pwr cfg pins shadow free pending) :=
  ⟨fun w => hr ▸ h.wf w, by rw [ht, hs]; exact h.time, hp ▸ h.pend⟩

theorem OK.updT {regs time inp wq lpe hmp prf site zfb wgl lks link chn est arr flt mgp sec pwr cfg pins shadow free pending} (hI : Wraps I) (h : OK W q I s) (hr : regs = s.regs) (ht : time.frame < 2 ^ 48) (hs : time.frameStart < 2 ^ 64)
    (hp : pending = s.pending) : OK W q I (State.mk regs time inp wq lpe hmp prf site zfb wgl lks link chn est arr flt mgp sec pwr cfg pins shadow free pending) :=
  ⟨fun w => hr ▸ h.wf w, hI _ _ ht hs, hp ▸ h.pend⟩

theorem OK.resetBlocks {d time inp wq lpe hmp prf site zfb wgl lks link chn est arr flt mgp sec pwr cfg pins shadow free pending} (h : OK W q I s) (ht : time.frame = s.time.frame := by rfl) (hs : time.frameStart = s.time.frameStart := by rfl)
    (hp : pending = s.pending := by rfl) : OK W q I (State.mk (s.regs.resetBlocks d) time inp wq lpe hmp prf site zfb wgl lks link chn est arr flt mgp sec pwr cfg pins shadow free pending) :=
  ⟨fun w => Regs.wf_resetBlocks d _ (h.wf w), by rw [ht, hs]; exact h.time, hp ▸ h.pend⟩

theorem OK.ofReset {inp wq lpe hmp prf site zfb wgl lks link chn est arr flt mgp sec pwr cfg pins shadow free pending} (hI : Wraps I) (hp : pending = q) : OK W q I (State.mk State.reset.regs State.reset.time inp wq lpe hmp prf site zfb wgl lks link chn est arr flt mgp sec pwr cfg pins shadow free pending) :=
  ⟨fun _ => rfl, hI 0 0 (by decide) (by decide), hp⟩

theorem OK.ite {c : Prop} {_ : Decidable c} {a b : State} (ha : c → OK W q I a) (hb : ¬c → OK W q I b) : OK W q I (if c then a else b) := by
  split
  · exact ha ‹_›
  · exact hb ‹_›

theorem OK.dite {c : Prop} {_ : Decidable c} {a : c → State} {b : ¬c → State} (ha : ∀ h, OK W q I (a h)) (hb : ∀ h, OK W q I (b h)) :
    OK W q I (if h : c then a h else b h) := by
  split
  · exact ha _
  · exact hb _

theorem OK.iteP {α : Type} {c : Prop} {_ : Decidable c} {a b : State × α} (ha : c → OK W q I a.1) (hb : ¬c → OK W q I b.1) :
    OK W q I (if c then a else b).1 := by
  split
  · exact ha ‹_›
  · exact hb ‹_›

theorem OK.diteP {α : Type} {c : Prop} {_ : Decidable c} {a : c → State × α} {b : ¬c → State × α} (ha : ∀ h, OK W q I (a h).1)
    (hb : ∀ h, OK W q I (b h).1) : OK W q I (if h : c then a h else b h).1 := by
  split
  · exact ha _
  · exact hb _

theorem OK.foldl {α : Type} {l : List α} {f : State → α → State} (hf : ∀ t a, OK W q I t → OK W q I (f t a)) (h : OK W q I s) :
    OK W q I (l.foldl f s) := by
  induction l generalizing s with
  | nil => exact h
  | cons a l ih => exact ih (hf s a h)

end Sys2Proof.Machine
end

