-- ==== Sys2Proof/Laws/KeepOps.lean ====
section
/-! SUPPORT. What the operations of Ops, Flags, Loops, Profile, ZoneFabric, Following keep (Laws/Keep). -/

namespace Sys2Proof.Machine

variable {W : Prop} {q : List Instr} {I : Nat → Nat → Prop} {s : State}

theorem State.wr_ok (h : OK W q I s) (a w) : OK W q I (s.wr a w) := ⟨fun x => Regs.wf_set _ _ _ (h.wf x), h.time, h.pend⟩

theorem State.put_ok (h : OK W q I s) (a1 a2) : OK W q I (State.put s a1 a2) := by
  unfold State.put
  refine State.wr_ok ?_ ..
  exact h

theorem State.setFlag_ok (h : OK W q I s) (a1 a2) : OK W q I (State.setFlag s a1 a2) := by
  unfold State.setFlag
  refine State.put_ok ?_ ..
  exact h

theorem State.putBF_ok (h : OK W q I s) (a1 a2) : OK W q I (State.putBF s a1 a2) := by
  unfold State.putBF
  refine State.wr_ok ?_ ..
  exact h

theorem State.bump_ok (h : OK W q I s) (a1) : OK W q I (State.bump s a1) := by
  unfold State.bump
  refine State.put_ok ?_ ..
  exact h

theorem State.bumpSat_ok (h : OK W q I s) (a1) : OK W q I (State.bumpSat s a1) := by
  unfold State.bumpSat
  refine State.put_ok ?_ ..
  exact h

theorem State.each_ok {n : Nat} {f : Nat → State → State} (hf : ∀ i t, OK W q I t → OK W q I (f i t)) (h : OK W q I s) : OK W q I (State.each n f s) :=
  OK.foldl (fun t i => hf i t) h

theorem State.over_ok {α : Type} {l : List α} {f : α → State → State} (hf : ∀ i t, OK W q I t → OK W q I (f i t)) (h : OK W q I s) :
    OK W q I (State.over l f s) := OK.foldl (fun t i => hf i t) h

theorem State.iff_ok {c : Bool} {f : State → State} (hf : ∀ t, OK W q I t → OK W q I (f t)) (h : OK W q I s) : OK W q I (State.iff c f s) :=
  OK.ite (fun _ => hf s h) (fun _ => h)

theorem State.draw_ok (h : OK W q I s) : OK W q I (State.draw s) := by
  unfold State.draw
  refine OK.upd' ?_ rfl rfl rfl rfl
  exact h

theorem State.atCycle_ok (h : OK W q I s) (a1) : OK W q I (State.atCycle s a1) := by
  unfold State.atCycle
  refine OK.upd' ?_ rfl rfl rfl rfl
  exact h

theorem State.put64_ok (h : OK W q I s) (a1 a2 a3) : OK W q I (State.put64 s a1 a2 a3) := by
  unfold State.put64
  refine State.wr_ok ?_ ..
  refine State.wr_ok ?_ ..
  exact h

theorem State.enqueue_ok (h : OK W q I s) (a1) : OK W q I (State.enqueue s a1) := by
  unfold State.enqueue
  extract_lets +onlyGivenNames -merge -useContext -underBinder x1
  refine OK.ite (fun _ => ?_) (fun _ => ?_)
  · extract_lets +onlyGivenNames -merge -useContext -underBinder x2
    extract_lets +onlyGivenNames -merge -useContext -underBinder x3
    extract_lets +onlyGivenNames -merge -useContext -underBinder x4
    extract_lets +onlyGivenNames -merge -useContext -underBinder x5
    have hx5 : OK W q I x5 := by
      unfold x5
      refine OK.ite (fun _ => ?_) (fun _ => ?_)
      · exact h
      · refine OK.upd' ?_ rfl rfl rfl rfl
        exact h
    refine OK.ite (fun _ => ?_) (fun _ => ?_)
    · exact hx5
    · refine OK.upd' (s := x5) ?_ rfl rfl rfl rfl
      exact hx5
  · refine OK.upd' ?_ rfl rfl rfl rfl
    exact h

theorem State.setOs_ok (h : OK W q I s) (a1 a2) : OK W q I (State.setOs s a1 a2) := by
  unfold State.setOs
  refine OK.upd' ?_ rfl rfl rfl rfl
  exact h

theorem State.putOs_ok (h : OK W q I s) (a1 a2 a3) : OK W q I (State.putOs s a1 a2 a3) := by
  unfold State.putOs
  refine State.put_ok ?_ ..
  refine State.put_ok ?_ ..
  exact h

theorem State.setLoop_ok (h : OK W q I s) (a1 a2) : OK W q I (State.setLoop s a1 a2) := by
  unfold State.setLoop
  refine OK.dite (fun _ => ?_) (fun _ => ?_)
  · refine OK.upd' ?_ rfl rfl rfl rfl
    exact h
  · exact h

theorem State.setLane_ok (h : OK W q I s) (a1 a2) : OK W q I (State.setLane s a1 a2) := by
  unfold State.setLane
  refine OK.dite (fun _ => ?_) (fun _ => ?_)
  · refine OK.upd' ?_ rfl rfl rfl rfl
    exact h
  · exact h

theorem State.setZoneFf_ok (h : OK W q I s) (a1 a2) : OK W q I (State.setZoneFf s a1 a2) := by
  unfold State.setZoneFf
  refine OK.dite (fun _ => ?_) (fun _ => ?_)
  · refine OK.upd' ?_ rfl rfl rfl rfl
    exact h
  · exact h

theorem State.capture_ok (h : OK W q I s) (a1 a2 a3 a4) : OK W q I (State.capture s a1 a2 a3 a4) := by
  unfold State.capture
  extract_lets +onlyGivenNames -merge -useContext -underBinder x1
  refine OK.ite (fun _ => ?_) (fun _ => ?_)
  · extract_lets +onlyGivenNames -merge -useContext -underBinder x2
    extract_lets +onlyGivenNames -merge -useContext -underBinder x3
    have hx3 : OK W q I x3 := by
      unfold x3
      refine State.wr_ok ?_ ..
      exact h
    extract_lets +onlyGivenNames -merge -useContext -underBinder x4
    have hx4 : OK W q I x4 := by
      unfold x4
      refine State.put64_ok ?_ ..
      exact hx3
    refine State.put_ok ?_ ..
    exact hx4
  · refine OK.ite (fun _ => ?_) (fun _ => ?_)
    · exact h
    · extract_lets +onlyGivenNames -merge -useContext -underBinder x5
      have hx5 : OK W q I x5 := by
        unfold x5
        refine State.wr_ok ?_ ..
        exact h
      extract_lets +onlyGivenNames -merge -useContext -underBinder x6
      have hx6 : OK W q I x6 := by
        unfold x6
        refine State.wr_ok ?_ ..
        exact hx5
      refine State.put64_ok ?_ ..
      exact hx6

theorem State.clearRecords_ok (h : OK W q I s) (a1) : OK W q I (State.clearRecords s a1) := by
  unfold State.clearRecords
  extract_lets +onlyGivenNames -merge -useContext -underBinder x1
  have hx1 : OK W q I x1 := by
    unfold x1
    refine State.wr_ok ?_ ..
    refine State.wr_ok ?_ ..
    refine State.wr_ok ?_ ..
    refine State.wr_ok ?_ ..
    exact h
  extract_lets +onlyGivenNames -merge -useContext -underBinder x2
  have hx2 : OK W q I x2 := by
    unfold x2
    refine State.wr_ok ?_ ..
    exact hx1
  refine State.each_ok (fun _ _ ht3 => ?_) ?_
  · refine State.wr_ok ?_ ..
    refine State.wr_ok ?_ ..
    refine State.wr_ok ?_ ..
    exact ht3
  · exact hx2

theorem State.restoreShed_ok (h : OK W q I s) (a1) : OK W q I (State.restoreShed s a1) := by
  unfold State.restoreShed
  refine State.each_ok (fun _ _ ht1 => ?_) ?_
  · refine OK.ite (fun _ => ?_) (fun _ => ?_)
    · refine State.putOs_ok ?_ ..
      exact ht1
    · exact ht1
  · exact h

theorem State.leaveBatch_ok (h : OK W q I s) (a1) : OK W q I (State.leaveBatch s a1) := by
  unfold State.leaveBatch
  refine OK.ite (fun _ => ?_) (fun _ => ?_)
  · refine State.put_ok ?_ ..
    refine State.setFlag_ok ?_ ..
    exact h
  · exact h

theorem State.fenceOs_ok (h : OK W q I s) (a1 a2) : OK W q I (State.fenceOs s a1 a2) := by
  unfold State.fenceOs
  extract_lets +onlyGivenNames -merge -useContext -underBinder x1
  have hx1 : OK W q I x1 := by
    unfold x1
    refine State.setOs_ok ?_ ..
    refine State.leaveBatch_ok ?_ ..
    refine State.put_ok ?_ ..
    refine State.put_ok ?_ ..
    exact h
  refine OK.ite (fun _ => ?_) (fun _ => ?_)
  · refine State.restoreShed_ok ?_ ..
    exact hx1
  · exact hx1

theorem State.fenceSs_ok (h : OK W q I s) (a1) : OK W q I (State.fenceSs s a1) := by
  unfold State.fenceSs
  refine OK.upd' ?_ rfl rfl rfl rfl
  exact h

theorem State.fenceFe_ok (h : OK W q I s) (a1) : OK W q I (State.fenceFe s a1) := by
  unfold State.fenceFe
  refine OK.upd' ?_ rfl rfl rfl rfl
  exact h

theorem State.fenceStr_ok (h : OK W q I s) (a1) : OK W q I (State.fenceStr s a1) := by
  unfold State.fenceStr
  extract_lets +onlyGivenNames -merge -useContext -underBinder x1
  extract_lets +onlyGivenNames -merge -useContext -underBinder x2
  have hx2 : OK W q I x2 := by
    unfold x2
    refine OK.upd' ?_ rfl rfl rfl rfl
    exact h
  refine State.fenceSs_ok ?_ ..
  refine State.fenceSs_ok ?_ ..
  exact hx2

theorem State.zoneFenceStage_ok (h : OK W q I s) (a1 a2) : OK W q I (State.zoneFenceStage s a1 a2) := by
  unfold State.zoneFenceStage
  extract_lets +onlyGivenNames -merge -useContext -underBinder x1
  refine OK.ite (fun _ => ?_) (fun _ => ?_)
  · refine State.setOs_ok ?_ ..
    refine State.putOs_ok ?_ ..
    exact h
  · refine OK.ite (fun _ => ?_) (fun _ => ?_)
    · refine State.setOs_ok ?_ ..
      refine State.putOs_ok ?_ ..
      exact h
    · refine OK.ite (fun _ => ?_) (fun _ => ?_)
      · refine State.setOs_ok ?_ ..
        refine State.putOs_ok ?_ ..
        exact h
      · exact h

theorem State.fenceZone_ok (h : OK W q I s) (a1) : OK W q I (State.fenceZone s a1) := by
  unfold State.fenceZone
  extract_lets +onlyGivenNames -merge -useContext -underBinder x1
  extract_lets +onlyGivenNames -merge -useContext -underBinder x2
  have hx2 : OK W q I x2 := by
    unfold x2
    refine OK.upd' ?_ rfl rfl rfl rfl
    exact h
  extract_lets +onlyGivenNames -merge -useContext -underBinder x3
  have hx3 : OK W q I x3 := by
    unfold x3
    refine OK.foldl (fun _ _ ht4 => ?_) ?_
    · refine State.zoneFenceStage_ok ?_ ..
      exact ht4
    · exact hx2
  extract_lets +onlyGivenNames -merge -useContext -underBinder x5
  have hx5 : OK W q I x5 := by
    unfold x5
    refine State.setFlag_ok ?_ ..
    exact hx3
  extract_lets +onlyGivenNames -merge -useContext -underBinder x6
  refine OK.upd' (s := x5) ?_ rfl rfl rfl rfl
  exact hx5

theorem State.fenceGroup_ok (h : OK W q I s) (a1) : OK W q I (State.fenceGroup s a1) := by
  unfold State.fenceGroup
  refine OK.foldl (fun _ _ ht1 => ?_) ?_
  · refine OK.ite (fun _ => ?_) (fun _ => ?_)
    · refine State.fenceFe_ok ?_ ..
      exact ht1
    · exact ht1
  · exact h

theorem State.fenceLane_ok (h : OK W q I s) (a1) : OK W q I (State.fenceLane s a1) := by
  unfold State.fenceLane
  extract_lets +onlyGivenNames -merge -useContext -underBinder x1
  have hx1 : OK W q I x1 := by
    unfold x1
    refine State.setFlag_ok ?_ ..
    exact h
  extract_lets +onlyGivenNames -merge -useContext -underBinder x2
  have hx2 : OK W q I x2 := by
    unfold x2
    refine State.setFlag_ok ?_ ..
    exact hx1
  refine State.setLane_ok ?_ ..
  exact hx2

theorem State.fenceCore_ok (h : OK W q I s) (a1 a2) : OK W q I (State.fenceCore s a1 a2) := by
  unfold State.fenceCore
  refine State.put_ok ?_ ..
  refine State.put_ok ?_ ..
  exact h

theorem State.fenceUnit_ok (h : OK W q I s) (a1) : OK W q I (State.fenceUnit s a1) := by
  unfold State.fenceUnit
  extract_lets +onlyGivenNames -merge -useContext -underBinder x1
  split
  · refine OK.dite (fun _ => ?_) (fun _ => ?_)
    · refine State.fenceOs_ok ?_ ..
      exact h
    · exact h
  · refine OK.dite (fun _ => ?_) (fun _ => ?_)
    · refine State.fenceSs_ok ?_ ..
      exact h
    · exact h
  · refine OK.dite (fun _ => ?_) (fun _ => ?_)
    · refine State.fenceFe_ok ?_ ..
      exact h
    · exact h
  · refine State.fenceGroup_ok ?_ ..
    exact h
  · refine OK.dite (fun _ => ?_) (fun _ => ?_)
    · refine State.fenceZone_ok ?_ ..
      exact h
    · exact h
  · refine OK.dite (fun _ => ?_) (fun _ => ?_)
    · refine State.fenceStr_ok ?_ ..
      exact h
    · exact h
  · refine State.put_ok ?_ ..
    refine State.put_ok ?_ ..
    exact h
  · refine OK.dite (fun _ => ?_) (fun _ => ?_)
    · refine State.fenceLane_ok ?_ ..
      exact h
    · exact h
  · refine State.fenceCore_ok ?_ ..
    exact h
  · refine State.put_ok ?_ ..
    exact h
  · refine OK.dite (fun _ => ?_) (fun _ => ?_)
    · refine OK.upd' ?_ rfl rfl rfl rfl
      exact h
    · exact h
  · exact h

theorem State.enterSafe_ok (h : OK W q I s) : OK W q I (State.enterSafe s) := by
  unfold State.enterSafe
  extract_lets +onlyGivenNames -merge -useContext -underBinder x1
  extract_lets +onlyGivenNames -merge -useContext -underBinder x2
  extract_lets +onlyGivenNames -merge -useContext -underBinder x3
  have hx3 : OK W q I x3 := by
    unfold x3
    refine OK.upd' ?_ rfl rfl rfl rfl
    exact h
  extract_lets +onlyGivenNames -merge -useContext -underBinder x4
  have hx4 : OK W q I x4 := by
    unfold x4
    refine State.each_ok (fun _ _ ht5 => ?_) ?_
    · refine State.put_ok ?_ ..
      exact ht5
    · exact hx3
  extract_lets +onlyGivenNames -merge -useContext -underBinder x6
  have hx6 : OK W q I x6 := by
    unfold x6
    refine State.each_ok (fun _ _ ht7 => ?_) ?_
    · refine State.put_ok ?_ ..
      exact ht7
    · exact hx4
  refine State.setFlag_ok ?_ ..
  refine State.put_ok ?_ ..
  exact hx6

theorem State.startDump_ok (h : OK W q I s) (a1 a2) : OK W q I (State.startDump s a1 a2) := by
  unfold State.startDump
  refine OK.ite (fun _ => ?_) (fun _ => ?_)
  · refine OK.upd' ?_ rfl rfl rfl rfl
    exact h
  · refine State.setFlag_ok ?_ ..
    refine OK.upd' ?_ rfl rfl rfl rfl
    exact h

theorem State.halt_ok (h : OK W q I s) (a1) : OK W q I (State.halt s a1) := by
  unfold State.halt
  extract_lets +onlyGivenNames -merge -useContext -underBinder x1
  have hx1 : OK W q I x1 := by
    unfold x1
    refine State.setFlag_ok ?_ ..
    exact h
  extract_lets +onlyGivenNames -merge -useContext -underBinder x2
  have hx2 : OK W q I x2 := by
    unfold x2
    refine State.enterSafe_ok ?_ ..
    exact hx1
  refine OK.ite (fun _ => ?_) (fun _ => ?_)
  · refine State.startDump_ok ?_ ..
    refine OK.upd' (s := x2) ?_ rfl rfl rfl rfl
    exact hx2
  · exact hx2

theorem State.setPending_ok (h : OK W q I s) (a1 a2 a3 a4) : OK W q I (State.setPending s a1 a2 a3 a4) := by
  unfold State.setPending
  extract_lets +onlyGivenNames -merge -useContext -underBinder x1
  extract_lets +onlyGivenNames -merge -useContext -underBinder x2
  have hx2 : OK W q I x2 := by
    unfold x2
    refine State.put_ok ?_ ..
    exact h
  refine OK.upd' (s := x2) ?_ rfl rfl rfl rfl
  exact hx2

theorem State.countFault_ok (h : OK W q I s) (a1 a2 a3 a4 a5) : OK W q I (State.countFault s a1 a2 a3 a4 a5) := by
  unfold State.countFault
  extract_lets +onlyGivenNames -merge -useContext -underBinder x1
  have hx1 : OK W q I x1 := by
    unfold x1
    refine State.capture_ok ?_ ..
    refine State.bump_ok ?_ ..
    exact h
  refine OK.ite (fun _ => ?_) (fun _ => ?_)
  · refine OK.upd' (s := x1) ?_ rfl rfl rfl rfl
    exact hx1
  · exact hx1

theorem State.recordAt_ok (h : OK W q I s) (a1 a2 a3 a4 a5 a6 a7) : OK W q I (State.recordAt s a1 a2 a3 a4 a5 a6 a7) := by
  unfold State.recordAt
  extract_lets +onlyGivenNames -merge -useContext -underBinder x1
  extract_lets +onlyGivenNames -merge -useContext -underBinder x2
  extract_lets +onlyGivenNames -merge -useContext -underBinder x3
  extract_lets +onlyGivenNames -merge -useContext -underBinder x4
  have hx4 : OK W q I x4 := by
    unfold x4
    refine State.countFault_ok ?_ ..
    exact h
  refine OK.ite (fun _ => ?_) (fun _ => ?_)
  · refine State.halt_ok ?_ ..
    exact hx4
  · extract_lets +onlyGivenNames -merge -useContext -underBinder x5
    have hx5 : OK W q I x5 := by
      unfold x5
      refine OK.ite (fun _ => ?_) (fun _ => ?_)
      · exact hx4
      · refine State.setPending_ok ?_ ..
        exact hx4
    refine OK.ite (fun _ => ?_) (fun _ => ?_)
    · refine State.fenceUnit_ok ?_ ..
      exact hx5
    · exact hx5

theorem State.record_ok (h : OK W q I s) (a1 a2 a3 a4) : OK W q I (State.record s a1 a2 a3 a4) := by
  unfold State.record
  refine State.recordAt_ok ?_ ..
  exact h

theorem State.ack_ok (h : OK W q I s) (a1 a2 a3) : OK W q I (State.ack s a1 a2 a3) := by
  unfold State.ack
  extract_lets +onlyGivenNames -merge -useContext -underBinder x1
  have hx1 : OK W q I x1 := by
    unfold x1
    refine State.put_ok ?_ ..
    exact h
  extract_lets +onlyGivenNames -merge -useContext -underBinder x2
  have hx2 : OK W q I x2 := by
    unfold x2
    refine State.put_ok ?_ ..
    exact hx1
  extract_lets +onlyGivenNames -merge -useContext -underBinder x3
  extract_lets +onlyGivenNames -merge -useContext -underBinder x4
  extract_lets +onlyGivenNames -merge -useContext -underBinder x5
  have hx5 : OK W q I x5 := by
    unfold x5
    refine OK.upd' (s := x2) ?_ rfl rfl rfl rfl
    exact hx2
  refine OK.ite (fun _ => ?_) (fun _ => ?_)
  · refine OK.upd' (s := x5) ?_ rfl rfl rfl rfl
    exact hx5
  · exact hx5

theorem State.loopRegs_ok (h : OK W q I s) (a1 a2 a3) : OK W q I (State.loopRegs s a1 a2 a3) := by
  unfold State.loopRegs
  extract_lets +onlyGivenNames -merge -useContext -underBinder x1
  have hx1 : OK W q I x1 := by
    unfold x1
    refine State.putBF_ok ?_ ..
    exact h
  extract_lets +onlyGivenNames -merge -useContext -underBinder x2
  have hx2 : OK W q I x2 := by
    unfold x2
    refine State.putBF_ok ?_ ..
    exact hx1
  extract_lets +onlyGivenNames -merge -useContext -underBinder x3
  have hx3 : OK W q I x3 := by
    unfold x3
    refine State.putBF_ok ?_ ..
    exact hx2
  extract_lets +onlyGivenNames -merge -useContext -underBinder x4
  have hx4 : OK W q I x4 := by
    unfold x4
    refine OK.ite (fun _ => ?_) (fun _ => ?_)
    · refine State.bump_ok ?_ ..
      exact hx3
    · exact hx3
  extract_lets +onlyGivenNames -merge -useContext -underBinder x5
  have hx5 : OK W q I x5 := by
    unfold x5
    refine State.setFlag_ok ?_ ..
    exact hx4
  extract_lets +onlyGivenNames -merge -useContext -underBinder x6
  have hx6 : OK W q I x6 := by
    unfold x6
    refine State.setFlag_ok ?_ ..
    exact hx5
  extract_lets +onlyGivenNames -merge -useContext -underBinder x7
  have hx7 : OK W q I x7 := by
    unfold x7
    refine State.setFlag_ok ?_ ..
    exact hx6
  extract_lets +onlyGivenNames -merge -useContext -underBinder x8
  have hx8 : OK W q I x8 := by
    unfold x8
    refine OK.ite (fun _ => ?_) (fun _ => ?_)
    · refine State.setFlag_ok ?_ ..
      exact hx7
    · exact hx7
  extract_lets +onlyGivenNames -merge -useContext -underBinder x9
  have hx9 : OK W q I x9 := by
    unfold x9
    refine OK.ite (fun _ => ?_) (fun _ => ?_)
    · refine State.record_ok ?_ ..
      refine State.setFlag_ok ?_ ..
      exact hx8
    · exact hx8
  refine OK.ite (fun _ => ?_) (fun _ => ?_)
  · refine State.record_ok ?_ ..
    refine State.setFlag_ok ?_ ..
    exact hx9
  · exact hx9

theorem State.runLoop_ok (h : OK W q I s) (a1 a2) : OK W q I (State.runLoop s a1 a2) := by
  unfold State.runLoop
  extract_lets +onlyGivenNames -merge -useContext -underBinder x1
  extract_lets +onlyGivenNames -merge -useContext -underBinder x2
  extract_lets +onlyGivenNames -merge -useContext -underBinder x3
  have hx3 : OK W q I x3 := by
    unfold x3
    refine OK.ite (fun _ => ?_) (fun _ => ?_)
    · refine State.putBF_ok ?_ ..
      exact h
    · exact h
  extract_lets +onlyGivenNames -merge -useContext -underBinder x4
  extract_lets +onlyGivenNames -merge -useContext -underBinder x5
  extract_lets +onlyGivenNames -merge -useContext -underBinder x6
  extract_lets +onlyGivenNames -merge -useContext -underBinder x7
  extract_lets +onlyGivenNames -merge -useContext -underBinder x8
  extract_lets +onlyGivenNames -merge -useContext -underBinder x9
  extract_lets +onlyGivenNames -merge -useContext -underBinder x10
  extract_lets +onlyGivenNames -merge -useContext -underBinder x11
  extract_lets +onlyGivenNames -merge -useContext -underBinder x12
  extract_lets +onlyGivenNames -merge -useContext -underBinder x13
  refine State.loopRegs_ok ?_ ..
  refine State.setLoop_ok ?_ ..
  exact hx3

theorem State.prfRegs_ok (h : OK W q I s) : OK W q I (State.prfRegs s) := by
  unfold State.prfRegs
  refine State.putBF_ok ?_ ..
  refine State.putBF_ok ?_ ..
  refine State.putBF_ok ?_ ..
  refine State.putBF_ok ?_ ..
  refine State.putBF_ok ?_ ..
  exact h

theorem State.movePos_ok (h : OK W q I s) (a1) : OK W q I (State.movePos s a1) := by
  unfold State.movePos
  refine OK.upd' ?_ rfl rfl rfl rfl
  exact h

theorem State.groupMode_ok (h : OK W q I s) (a1) : OK W q I (State.groupMode s a1) := by
  unfold State.groupMode
  extract_lets +onlyGivenNames -merge -useContext -underBinder x1
  extract_lets +onlyGivenNames -merge -useContext -underBinder x2
  extract_lets +onlyGivenNames -merge -useContext -underBinder x3
  have hx3 : OK W q I x3 := by
    unfold x3
    refine OK.ite (fun _ => ?_) (fun _ => ?_)
    · refine State.movePos_ok ?_ ..
      exact h
    · refine OK.ite (fun _ => ?_) (fun _ => ?_)
      · refine State.movePos_ok ?_ ..
        exact h
      · exact h
  refine OK.upd' (s := x3) ?_ rfl rfl rfl rfl
  exact hx3

theorem State.groupModes_ok (h : OK W q I s) : OK W q I (State.groupModes s) := by
  unfold State.groupModes
  extract_lets +onlyGivenNames -merge -useContext -underBinder x1
  have hx1 : OK W q I x1 := by
    unfold x1
    refine State.groupMode_ok ?_ ..
    refine State.groupMode_ok ?_ ..
    exact h
  extract_lets +onlyGivenNames -merge -useContext -underBinder x2
  extract_lets +onlyGivenNames -merge -useContext -underBinder x3
  have hx3 : OK W q I x3 := by
    unfold x3
    refine State.setFlag_ok ?_ ..
    exact hx1
  refine OK.ite (fun _ => ?_) (fun _ => ?_)
  · exact hx3
  · refine State.prfRegs_ok ?_ ..
    refine OK.upd' (s := x3) ?_ rfl rfl rfl rfl
    exact hx3

theorem State.trackDraw_ok (h : OK W q I s) : OK W q I (State.trackDraw s) := by
  unfold State.trackDraw
  refine State.setFlag_ok ?_ ..
  refine OK.upd' ?_ rfl rfl rfl rfl
  exact h

theorem State.formTarget_ok (h : OK W q I s) : OK W q I (State.formTarget s) := by
  unfold State.formTarget
  refine State.draw_ok ?_ ..
  refine OK.upd' ?_ rfl rfl rfl rfl
  exact h

theorem execProfileStep_ok (h : OK W q I s) : OKo W q I (execProfileStep s) := by
  unfold execProfileStep
  refine OKo.next ?_
  refine OK.ite (fun _ => ?_) (fun _ => ?_)
  · exact h
  · extract_lets +onlyGivenNames -merge -useContext -underBinder x1
    have hx1 : OK W q I x1 := by
      unfold x1
      refine State.formTarget_ok ?_ ..
      exact h
    refine OK.ite (fun _ => ?_) (fun _ => ?_)
    · refine State.prfRegs_ok ?_ ..
      exact hx1
    · refine OK.ite (fun _ => ?_) (fun _ => ?_)
      · refine State.prfRegs_ok ?_ ..
        refine State.trackDraw_ok ?_ ..
        exact hx1
      · extract_lets +onlyGivenNames -merge -useContext -underBinder x2
        refine State.prfRegs_ok ?_ ..
        refine State.setFlag_ok ?_ ..
        refine OK.upd' (s := x1) ?_ rfl rfl rfl rfl
        exact hx1

theorem State.gridRefs_ok (h : OK W q I s) : OK W q I (State.gridRefs s) := by
  unfold State.gridRefs
  extract_lets +onlyGivenNames -merge -useContext -underBinder x1
  extract_lets +onlyGivenNames -merge -useContext -underBinder x2
  refine OK.upd' ?_ rfl rfl rfl rfl
  exact h

theorem execForecastFallback_ok (h : OK W q I s) : OKo W q I (execForecastFallback s) := by
  unfold execForecastFallback
  refine OKo.next ?_
  refine OK.ite (fun _ => ?_) (fun _ => ?_)
  · refine State.setFlag_ok ?_ ..
    exact h
  · exact h

theorem execFallbackExit_ok (h : OK W q I s) : OKo W q I (execFallbackExit s) := by
  unfold execFallbackExit
  refine OKo.next ?_
  refine OK.ite (fun _ => ?_) (fun _ => ?_)
  · refine State.setFlag_ok ?_ ..
    exact h
  · exact h

theorem execSocCorrectionUpdate_ok (h : OK W q I s) : OKo W q I (execSocCorrectionUpdate s) := by
  unfold execSocCorrectionUpdate
  refine OKo.next ?_
  refine OK.ite (fun _ => ?_) (fun _ => ?_)
  · exact h
  · refine State.prfRegs_ok ?_ ..
    refine OK.upd' ?_ rfl rfl rfl rfl
    exact h

theorem State.socGate_ok (h : OK W q I s) : OK W q I (State.socGate s) := by
  unfold State.socGate
  refine OK.ite (fun _ => ?_) (fun _ => ?_)
  · exact h
  · refine State.putBF_ok ?_ ..
    refine OK.upd' ?_ rfl rfl rfl rfl
    exact h

theorem State.bandFactors_ok (h : OK W q I s) : OK W q I (State.bandFactors s) := by
  unfold State.bandFactors
  refine State.each_ok (fun _ _ ht1 => ?_) ?_
  · extract_lets +onlyGivenNames -merge -useContext -underBinder x2
    extract_lets +onlyGivenNames -merge -useContext -underBinder x3
    refine State.put_ok ?_ ..
    refine State.put_ok ?_ ..
    exact ht1
  · exact h

theorem execHoneyReserveOpen_ok (h : OK W q I s) : OKo W q I (execHoneyReserveOpen s) := by
  unfold execHoneyReserveOpen
  refine OKo.next ?_
  refine OK.ite (fun _ => ?_) (fun _ => ?_)
  · refine State.setFlag_ok ?_ ..
    refine OK.upd' ?_ rfl rfl rfl rfl
    exact h
  · exact h

theorem execHoneyReserveClose_ok (h : OK W q I s) : OKo W q I (execHoneyReserveClose s) := by
  unfold execHoneyReserveClose
  refine OKo.next ?_
  refine OK.ite (fun _ => ?_) (fun _ => ?_)
  · refine State.setFlag_ok ?_ ..
    exact h
  · exact h

theorem execStringSocStale_ok (h : OK W q I s) (a0) : OKo W q I (execStringSocStale a0 s) := by
  unfold execStringSocStale
  refine OKo.next ?_
  refine OK.ite (fun _ => ?_) (fun _ => ?_)
  · refine State.record_ok ?_ ..
    refine OK.upd' ?_ rfl rfl rfl rfl
    exact h
  · exact h

theorem execVstoreWrite_ok (h : OK W q I s) (a0 a1 a2) : OKo W q I (execVstoreWrite a0 a1 a2 s) := by
  unfold execVstoreWrite
  refine OKo.next ?_
  refine State.enqueue_ok ?_ ..
  exact h

theorem State.allowStep_ok (h : OK W q I s) (a1) : OK W q I (State.allowStep s a1) := by
  unfold State.allowStep
  extract_lets +onlyGivenNames -merge -useContext -underBinder x1
  extract_lets +onlyGivenNames -merge -useContext -underBinder x2
  extract_lets +onlyGivenNames -merge -useContext -underBinder x3
  extract_lets +onlyGivenNames -merge -useContext -underBinder x4
  extract_lets +onlyGivenNames -merge -useContext -underBinder x5
  extract_lets +onlyGivenNames -merge -useContext -underBinder x6
  extract_lets +onlyGivenNames -merge -useContext -underBinder x7
  extract_lets +onlyGivenNames -merge -useContext -underBinder x8
  have hx8 : OK W q I x8 := by
    unfold x8
    refine OK.upd' ?_ rfl rfl rfl rfl
    exact h
  refine State.put_ok ?_ ..
  refine State.setFlag_ok ?_ ..
  exact hx8

theorem State.storagePower_ok (h : OK W q I s) : OK W q I (State.storagePower s) := by
  unfold State.storagePower
  extract_lets +onlyGivenNames -merge -useContext -underBinder x1
  have hx1 : OK W q I x1 := by
    unfold x1
    refine State.allowStep_ok ?_ ..
    refine State.allowStep_ok ?_ ..
    refine State.allowStep_ok ?_ ..
    exact h
  extract_lets +onlyGivenNames -merge -useContext -underBinder x2
  have hx2 : OK W q I x2 := by
    unfold x2
    refine State.bandFactors_ok ?_ ..
    exact hx1
  extract_lets +onlyGivenNames -merge -useContext -underBinder x3
  extract_lets +onlyGivenNames -merge -useContext -underBinder x4
  extract_lets +onlyGivenNames -merge -useContext -underBinder x5
  have hx5 : OK W q I x5 := by
    unfold x5
    refine State.setFlag_ok ?_ ..
    exact hx2
  extract_lets +onlyGivenNames -merge -useContext -underBinder x6
  have hx6 : OK W q I x6 := by
    unfold x6
    refine State.setFlag_ok ?_ ..
    exact hx5
  extract_lets +onlyGivenNames -merge -useContext -underBinder x7
  refine OK.upd' (s := x6) ?_ rfl rfl rfl rfl
  exact hx6

theorem State.gridCount_ok (h : OK W q I s) : OK W q I (State.gridCount s) := by
  unfold State.gridCount
  extract_lets +onlyGivenNames -merge -useContext -underBinder x1
  extract_lets +onlyGivenNames -merge -useContext -underBinder x2
  extract_lets +onlyGivenNames -merge -useContext -underBinder x3
  extract_lets +onlyGivenNames -merge -useContext -underBinder x4
  extract_lets +onlyGivenNames -merge -useContext -underBinder x5
  have hx5 : OK W q I x5 := by
    unfold x5
    refine State.putBF_ok ?_ ..
    exact h
  refine OK.ite (fun _ => ?_) (fun _ => ?_)
  · refine OK.upd' (s := x5) ?_ rfl rfl rfl rfl
    exact hx5
  · refine OK.upd' (s := x5) ?_ rfl rfl rfl rfl
    exact hx5

theorem State.markGrid_ok (h : OK W q I s) (a1) : OK W q I (State.markGrid s a1) := by
  unfold State.markGrid
  refine State.put_ok ?_ ..
  refine OK.upd' ?_ rfl rfl rfl rfl
  exact h

theorem State.followGrid_ok (h : OK W q I s) : OK W q I (State.followGrid s) := by
  unfold State.followGrid
  refine OK.ite (fun _ => ?_) (fun _ => ?_)
  · refine State.prfRegs_ok ?_ ..
    refine State.trackDraw_ok ?_ ..
    exact h
  · refine State.setFlag_ok ?_ ..
    exact h

theorem State.setGrid_ok (h : OK W q I s) (a1) : OK W q I (State.setGrid s a1) := by
  unfold State.setGrid
  refine OK.ite (fun _ => ?_) (fun _ => ?_)
  · refine State.followGrid_ok ?_ ..
    refine State.bump_ok ?_ ..
    refine State.markGrid_ok ?_ ..
    exact h
  · refine State.markGrid_ok ?_ ..
    exact h

theorem execGridLoss_ok (h : OK W q I s) : OKo W q I (execGridLoss s) := by
  unfold execGridLoss
  refine OKo.next ?_
  refine OK.ite (fun _ => ?_) (fun _ => ?_)
  · refine State.setGrid_ok ?_ ..
    exact h
  · exact h

theorem execGridSag_ok (h : OK W q I s) : OKo W q I (execGridSag s) := by
  unfold execGridSag
  refine OKo.next ?_
  refine OK.ite (fun _ => ?_) (fun _ => ?_)
  · refine State.setGrid_ok ?_ ..
    exact h
  · exact h

theorem execGridSagClear_ok (h : OK W q I s) : OKo W q I (execGridSagClear s) := by
  unfold execGridSagClear
  refine OKo.next ?_
  refine OK.ite (fun _ => ?_) (fun _ => ?_)
  · refine State.setGrid_ok ?_ ..
    exact h
  · exact h

theorem execGridReturn_ok (h : OK W q I s) : OKo W q I (execGridReturn s) := by
  unfold execGridReturn
  refine OKo.next ?_
  refine OK.ite (fun _ => ?_) (fun _ => ?_)
  · refine State.setGrid_ok ?_ ..
    exact h
  · exact h

theorem execGridNormal_ok (h : OK W q I s) : OKo W q I (execGridNormal s) := by
  unfold execGridNormal
  refine OKo.next ?_
  extract_lets +onlyGivenNames -merge -useContext -underBinder x1
  refine OK.ite (fun _ => ?_) (fun _ => ?_)
  · refine State.setGrid_ok ?_ ..
    exact h
  · exact h

theorem State.flowPulse_ok (h : OK W q I s) : OK W q I (State.flowPulse s) := by
  unfold State.flowPulse
  extract_lets +onlyGivenNames -merge -useContext -underBinder x1
  refine OK.upd' ?_ rfl rfl rfl rfl
  exact h

theorem execCoolantUpdate_ok (h : OK W q I s) : OKo W q I (execCoolantUpdate s) := by
  unfold execCoolantUpdate
  refine OKo.next ?_
  refine OK.ite (fun _ => ?_) (fun _ => ?_)
  · exact h
  · extract_lets +onlyGivenNames -merge -useContext -underBinder x1
    extract_lets +onlyGivenNames -merge -useContext -underBinder x2
    refine State.setFlag_ok ?_ ..
    refine State.setFlag_ok ?_ ..
    refine State.setFlag_ok ?_ ..
    refine State.setFlag_ok ?_ ..
    refine State.put_ok ?_ ..
    exact h

theorem State.profileTick_ok (h : OK W q I s) : OK W q I (State.profileTick s) := by
  unfold State.profileTick
  extract_lets +onlyGivenNames -merge -useContext -underBinder x1
  extract_lets +onlyGivenNames -merge -useContext -underBinder x2
  have hx2 : OK W q I x2 := by
    unfold x2
    refine State.put_ok ?_ ..
    exact h
  extract_lets +onlyGivenNames -merge -useContext -underBinder x3
  refine OK.upd' (s := x2) ?_ rfl rfl rfl rfl
  exact hx2

theorem State.socTick_ok (h : OK W q I s) : OK W q I (State.socTick s) := by
  unfold State.socTick
  extract_lets +onlyGivenNames -merge -useContext -underBinder x1
  refine OK.upd' ?_ rfl rfl rfl rfl
  exact h

theorem State.siteTick_ok (h : OK W q I s) : OK W q I (State.siteTick s) := by
  unfold State.siteTick
  extract_lets +onlyGivenNames -merge -useContext -underBinder x1
  extract_lets +onlyGivenNames -merge -useContext -underBinder x2
  extract_lets +onlyGivenNames -merge -useContext -underBinder x3
  have hx3 : OK W q I x3 := by
    unfold x3
    refine OK.upd' ?_ rfl rfl rfl rfl
    exact h
  refine OK.ite (fun _ => ?_) (fun _ => ?_)
  · refine OK.upd' (s := x3) ?_ rfl rfl rfl rfl
    exact hx3
  · exact hx3

theorem State.profileEnd_ok (h : OK W q I s) : OK W q I (State.profileEnd s) := by
  unfold State.profileEnd
  extract_lets +onlyGivenNames -merge -useContext -underBinder x1
  refine OK.upd' ?_ rfl rfl rfl rfl
  exact h

theorem State.endBatch_ok (h : OK W q I s) : OK W q I (State.endBatch s) := by
  unfold State.endBatch
  refine State.setFlag_ok ?_ ..
  refine OK.upd' ?_ rfl rfl rfl rfl
  exact h

theorem State.syncBatch_ok (h : OK W q I s) : OK W q I (State.syncBatch s) := by
  unfold State.syncBatch
  refine OK.ite (fun _ => ?_) (fun _ => ?_)
  · refine State.endBatch_ok ?_ ..
    refine State.put_ok ?_ ..
    exact h
  · refine State.put_ok ?_ ..
    exact h

theorem State.endOs_ok (h : OK W q I s) (a1 a2 a3) : OK W q I (State.endOs s a1 a2 a3) := by
  unfold State.endOs
  extract_lets +onlyGivenNames -merge -useContext -underBinder x1
  refine State.setOs_ok ?_ ..
  refine State.putOs_ok ?_ ..
  exact h

theorem State.parkOs_ok (h : OK W q I s) (a1) : OK W q I (State.parkOs s a1) := by
  unfold State.parkOs
  refine State.endOs_ok ?_ ..
  refine State.put_ok ?_ ..
  exact h

theorem State.startPre_ok (h : OK W q I s) (a1 a2) : OK W q I (State.startPre s a1 a2) := by
  unfold State.startPre
  refine State.setOs_ok ?_ ..
  refine State.putOs_ok ?_ ..
  exact h

theorem State.settleOs_ok (h : OK W q I s) (a1) : OK W q I (State.settleOs s a1) := by
  unfold State.settleOs
  extract_lets +onlyGivenNames -merge -useContext -underBinder x1
  refine OK.ite (fun _ => ?_) (fun _ => ?_)
  · refine State.parkOs_ok ?_ ..
    exact h
  · refine OK.ite (fun _ => ?_) (fun _ => ?_)
    · refine State.setOs_ok ?_ ..
      refine State.putOs_ok ?_ ..
      exact h
    · refine State.startPre_ok ?_ ..
      refine State.setOs_ok ?_ ..
      exact h

theorem State.opened_ok (h : OK W q I s) (a1) : OK W q I (State.opened s a1) := by
  unfold State.opened
  extract_lets +onlyGivenNames -merge -useContext -underBinder x1
  refine OK.ite (fun _ => ?_) (fun _ => ?_)
  · refine State.parkOs_ok ?_ ..
    exact h
  · refine OK.ite (fun _ => ?_) (fun _ => ?_)
    · refine State.settleOs_ok ?_ ..
      exact h
    · refine State.setOs_ok ?_ ..
      refine State.put_ok ?_ ..
      exact h

theorem State.advanceOs_ok (h : OK W q I s) (a1) : OK W q I (State.advanceOs s a1) := by
  unfold State.advanceOs
  extract_lets +onlyGivenNames -merge -useContext -underBinder x1
  extract_lets +onlyGivenNames -merge -useContext -underBinder x2
  extract_lets +onlyGivenNames -merge -useContext -underBinder x3
  split
  · refine State.setOs_ok ?_ ..
    exact h
  · refine State.setOs_ok ?_ ..
    refine State.put_ok ?_ ..
    exact h
  · refine State.setOs_ok ?_ ..
    refine State.put_ok ?_ ..
    exact h
  · refine State.setOs_ok ?_ ..
    refine State.put_ok ?_ ..
    exact h
  · refine State.setOs_ok ?_ ..
    refine State.put_ok ?_ ..
    exact h
  · split
    · refine OK.ite (fun _ => ?_) (fun _ => ?_)
      · exact h
      · refine OK.ite (fun _ => ?_) (fun _ => ?_)
        · refine State.setOs_ok ?_ ..
          exact h
        · refine State.setOs_ok ?_ ..
          exact h
    · refine OK.ite (fun _ => ?_) (fun _ => ?_)
      · exact h
      · refine OK.ite (fun _ => ?_) (fun _ => ?_)
        · refine State.opened_ok ?_ ..
          exact h
        · refine State.setOs_ok ?_ ..
          exact h
    · refine State.setOs_ok ?_ ..
      exact h
  · extract_lets +onlyGivenNames -merge -useContext -underBinder x4
    split
    · refine OK.ite (fun _ => ?_) (fun _ => ?_)
      · exact h
      · extract_lets +onlyGivenNames -merge -useContext -underBinder x5
        extract_lets +onlyGivenNames -merge -useContext -underBinder x6
        extract_lets +onlyGivenNames -merge -useContext -underBinder x7
        refine State.setOs_ok ?_ ..
        exact h
    · refine OK.ite (fun _ => ?_) (fun _ => ?_)
      · exact h
      · refine OK.ite (fun _ => ?_) (fun _ => ?_)
        · refine State.setOs_ok ?_ ..
          refine State.put_ok ?_ ..
          exact h
        · refine State.setOs_ok ?_ ..
          exact h
  · split
    · refine OK.ite (fun _ => ?_) (fun _ => ?_)
      · exact h
      · refine OK.ite (fun _ => ?_) (fun _ => ?_)
        · refine State.setOs_ok ?_ ..
          refine State.put_ok ?_ ..
          exact h
        · refine State.setOs_ok ?_ ..
          exact h
    · refine State.setOs_ok ?_ ..
      exact h
  · extract_lets +onlyGivenNames -merge -useContext -underBinder x8
    refine State.setOs_ok ?_ ..
    refine State.put_ok ?_ ..
    exact h
  · exact h

theorem State.activeOs_ok (h : OK W q I s) (a1) : OK W q I (State.activeOs s a1) := by
  unfold State.activeOs
  extract_lets +onlyGivenNames -merge -useContext -underBinder x1
  extract_lets +onlyGivenNames -merge -useContext -underBinder x2
  have hx2 : OK W q I x2 := by
    unfold x2
    refine OK.ite (fun _ => ?_) (fun _ => ?_)
    · refine State.setFlag_ok ?_ ..
      exact h
    · exact h
  refine State.endOs_ok ?_ ..
  exact hx2

theorem State.phaseEnd_ok (h : OK W q I s) (a1) : OK W q I (State.phaseEnd s a1) := by
  unfold State.phaseEnd
  extract_lets +onlyGivenNames -merge -useContext -underBinder x1
  extract_lets +onlyGivenNames -merge -useContext -underBinder x2
  extract_lets +onlyGivenNames -merge -useContext -underBinder x3
  refine OK.ite (fun _ => ?_) (fun _ => ?_)
  · refine State.setOs_ok ?_ ..
    refine State.putOs_ok ?_ ..
    exact h
  · refine OK.ite (fun _ => ?_) (fun _ => ?_)
    · refine OK.ite (fun _ => ?_) (fun _ => ?_)
      · refine State.parkOs_ok ?_ ..
        exact h
      · refine State.startPre_ok ?_ ..
        exact h
    · refine OK.ite (fun _ => ?_) (fun _ => ?_)
      · refine State.setOs_ok ?_ ..
        exact h
      · refine OK.ite (fun _ => ?_) (fun _ => ?_)
        · refine State.setOs_ok ?_ ..
          refine State.putOs_ok ?_ ..
          exact h
        · refine OK.ite (fun _ => ?_) (fun _ => ?_)
          · refine State.activeOs_ok ?_ ..
            exact h
          · refine OK.ite (fun _ => ?_) (fun _ => ?_)
            · refine State.setOs_ok ?_ ..
              refine State.putOs_ok ?_ ..
              exact h
            · exact h

theorem execSequencePhaseEnd_ok (h : OK W q I s) (a0) : OKo W q I (execSequencePhaseEnd a0 s) := by
  unfold execSequencePhaseEnd
  refine OKo.next ?_
  refine State.syncBatch_ok ?_ ..
  refine State.phaseEnd_ok ?_ ..
  exact h

theorem State.failOs_ok (h : OK W q I s) (a1 a2 a3) : OK W q I (State.failOs s a1 a2 a3) := by
  unfold State.failOs
  refine State.syncBatch_ok ?_ ..
  refine State.record_ok ?_ ..
  refine State.fenceOs_ok ?_ ..
  exact h

theorem execZeroITimeout_ok (h : OK W q I s) (a0) : OKo W q I (execZeroITimeout a0 s) := by
  unfold execZeroITimeout
  refine OKo.next ?_
  extract_lets +onlyGivenNames -merge -useContext -underBinder x1
  refine OK.ite (fun _ => ?_) (fun _ => ?_)
  · refine State.failOs_ok ?_ ..
    exact h
  · exact h

theorem execSwitchConfirmTimeout_ok (h : OK W q I s) (a0) : OKo W q I (execSwitchConfirmTimeout a0 s) := by
  unfold execSwitchConfirmTimeout
  refine OKo.next ?_
  extract_lets +onlyGivenNames -merge -useContext -underBinder x1
  refine OK.ite (fun _ => ?_) (fun _ => ?_)
  · refine State.failOs_ok ?_ ..
    exact h
  · refine OK.ite (fun _ => ?_) (fun _ => ?_)
    · extract_lets +onlyGivenNames -merge -useContext -underBinder x2
      have hx2 : OK W q I x2 := by
        unfold x2
        refine State.setOs_ok ?_ ..
        refine State.put_ok ?_ ..
        exact h
      refine State.failOs_ok ?_ ..
      exact hx2
    · exact h

theorem execPrechargeMatchTimeout_ok (h : OK W q I s) (a0) : OKo W q I (execPrechargeMatchTimeout a0 s) := by
  unfold execPrechargeMatchTimeout
  refine OKo.next ?_
  extract_lets +onlyGivenNames -merge -useContext -underBinder x1
  refine OK.ite (fun _ => ?_) (fun _ => ?_)
  · refine State.failOs_ok ?_ ..
    refine State.put_ok ?_ ..
    exact h
  · exact h

theorem State.refuse_ok (h : OK W q I s) (a1) : OK W q I (State.refuse s a1) := by
  unfold State.refuse
  refine State.put_ok ?_ ..
  refine State.setFlag_ok ?_ ..
  exact h

theorem State.startOs_ok (h : OK W q I s) (a1) : OK W q I (State.startOs s a1) := by
  unfold State.startOs
  extract_lets +onlyGivenNames -merge -useContext -underBinder x1
  extract_lets +onlyGivenNames -merge -useContext -underBinder x2
  split
  · refine State.setOs_ok ?_ ..
    refine State.putOs_ok ?_ ..
    exact h
  · refine State.setOs_ok ?_ ..
    refine State.putOs_ok ?_ ..
    exact h
  · refine OK.ite (fun _ => ?_) (fun _ => ?_)
    · refine State.parkOs_ok ?_ ..
      refine State.setOs_ok ?_ ..
      exact h
    · refine State.startPre_ok ?_ ..
      refine State.setOs_ok ?_ ..
      refine State.put_ok ?_ ..
      exact h
  · refine State.startPre_ok ?_ ..
    refine State.setOs_ok ?_ ..
    exact h

theorem State.doGo_ok (h : OK W q I s) : OK W q I (State.doGo s) := by
  unfold State.doGo
  extract_lets +onlyGivenNames -merge -useContext -underBinder x1
  refine OK.ite (fun _ => ?_) (fun _ => ?_)
  · exact h
  · extract_lets +onlyGivenNames -merge -useContext -underBinder x2
    refine OK.ite (fun _ => ?_) (fun _ => ?_)
    · refine State.refuse_ok ?_ ..
      exact h
    · extract_lets +onlyGivenNames -merge -useContext -underBinder x3
      have hx3 : OK W q I x3 := by
        unfold x3
        refine OK.foldl (fun _ _ ht4 => ?_) ?_
        · refine State.startOs_ok ?_ ..
          exact ht4
        · exact h
      refine State.syncBatch_ok ?_ ..
      refine OK.upd' (s := x3) ?_ rfl rfl rfl rfl
      exact hx3

theorem State.abortOs_ok (h : OK W q I s) (a1) : OK W q I (State.abortOs s a1) := by
  unfold State.abortOs
  extract_lets +onlyGivenNames -merge -useContext -underBinder x1
  refine OK.ite (fun _ => ?_) (fun _ => ?_)
  · exact h
  · split
    · refine State.setOs_ok ?_ ..
      refine State.put_ok ?_ ..
      exact h
    · refine State.setOs_ok ?_ ..
      refine State.putOs_ok ?_ ..
      exact h
    · refine State.setOs_ok ?_ ..
      exact h
    · refine State.parkOs_ok ?_ ..
      exact h
    · refine State.parkOs_ok ?_ ..
      exact h
    · refine State.setOs_ok ?_ ..
      refine State.putOs_ok ?_ ..
      exact h
    · refine State.setOs_ok ?_ ..
      refine State.putOs_ok ?_ ..
      exact h
    · refine State.setOs_ok ?_ ..
      refine State.put_ok ?_ ..
      exact h
    · exact h

theorem State.doAbort_ok (h : OK W q I s) : OK W q I (State.doAbort s) := by
  unfold State.doAbort
  refine OK.ite (fun _ => ?_) (fun _ => ?_)
  · refine State.syncBatch_ok ?_ ..
    refine State.setFlag_ok ?_ ..
    refine OK.foldl (fun _ _ ht1 => ?_) ?_
    · refine State.abortOs_ok ?_ ..
      exact ht1
    · exact h
  · exact h

theorem State.goAbort_ok (h : OK W q I s) : OK W q I (State.goAbort s) := by
  unfold State.goAbort
  extract_lets +onlyGivenNames -merge -useContext -underBinder x1
  have hx1 : OK W q I x1 := by
    unfold x1
    refine OK.ite (fun _ => ?_) (fun _ => ?_)
    · refine State.doAbort_ok ?_ ..
      exact h
    · refine OK.ite (fun _ => ?_) (fun _ => ?_)
      · refine State.doGo_ok ?_ ..
        exact h
      · exact h
  refine OK.upd' (s := x1) ?_ rfl rfl rfl rfl
  exact hx1

theorem execZfbGo_ok (h : OK W q I s) : OKo W q I (execZfbGo s) := by
  unfold execZfbGo
  refine OKo.next ?_
  refine State.enqueue_ok ?_ ..
  exact h

theorem execZfbAbort_ok (h : OK W q I s) : OKo W q I (execZfbAbort s) := by
  unfold execZfbAbort
  refine OKo.next ?_
  refine State.enqueue_ok ?_ ..
  exact h

theorem execNextDutyWrite_ok (h : OK W q I s) (a0 a1) : OKo W q I (execNextDutyWrite a0 a1 s) := by
  unfold execNextDutyWrite
  refine OKo.next ?_
  refine State.enqueue_ok ?_ ..
  exact h

theorem State.duties_ok (h : OK W q I s) : OK W q I (State.duties s) := by
  unfold State.duties
  extract_lets +onlyGivenNames -merge -useContext -underBinder x1
  have hx1 : OK W q I x1 := by
    unfold x1
    refine OK.foldl (fun _ _ ht2 => ?_) ?_
    · split
      · exact ht2
      · refine OK.ite (fun _ => ?_) (fun _ => ?_)
        · refine State.put_ok ?_ ..
          exact ht2
        · exact ht2
    · exact h
  refine OK.upd' (s := x1) ?_ rfl rfl rfl rfl
  exact hx1

theorem State.powerWeights_ok (h : OK W q I s) : OK W q I (State.powerWeights s) := by
  unfold State.powerWeights
  extract_lets +onlyGivenNames -merge -useContext -underBinder x1
  extract_lets +onlyGivenNames -merge -useContext -underBinder x2
  extract_lets +onlyGivenNames -merge -useContext -underBinder x3
  extract_lets +onlyGivenNames -merge -useContext -underBinder x4
  have hx4 : OK W q I x4 := by
    unfold x4
    refine OK.upd' ?_ rfl rfl rfl rfl
    exact h
  refine OK.foldl (fun _ _ ht5 => ?_) ?_
  · extract_lets +onlyGivenNames -merge -useContext -underBinder x6
    refine State.setFlag_ok ?_ ..
    exact ht5
  · exact hx4

theorem State.clearOs_ok (h : OK W q I s) (a1) : OK W q I (State.clearOs s a1) := by
  unfold State.clearOs
  refine OK.ite (fun _ => ?_) (fun _ => ?_)
  · exact h
  · extract_lets +onlyGivenNames -merge -useContext -underBinder x1
    extract_lets +onlyGivenNames -merge -useContext -underBinder x2
    extract_lets +onlyGivenNames -merge -useContext -underBinder x3
    have hx3 : OK W q I x3 := by
      unfold x3
      refine State.setOs_ok ?_ ..
      refine State.put_ok ?_ ..
      exact h
    refine OK.ite (fun _ => ?_) (fun _ => ?_)
    · refine State.settleOs_ok ?_ ..
      exact hx3
    · refine State.setOs_ok ?_ ..
      refine State.putOs_ok ?_ ..
      exact hx3

theorem State.unfenceZone_ok (h : OK W q I s) (a1) : OK W q I (State.unfenceZone s a1) := by
  unfold State.unfenceZone
  refine OK.ite (fun _ => ?_) (fun _ => ?_)
  · exact h
  · extract_lets +onlyGivenNames -merge -useContext -underBinder x1
    extract_lets +onlyGivenNames -merge -useContext -underBinder x2
    have hx2 : OK W q I x2 := by
      unfold x2
      refine OK.upd' ?_ rfl rfl rfl rfl
      exact h
    refine OK.foldl (fun _ _ ht3 => ?_) ?_
    · refine OK.ite (fun _ => ?_) (fun _ => ?_)
      · refine State.settleOs_ok ?_ ..
        exact ht3
      · exact ht3
    · exact hx2

theorem State.clearSs_ok (h : OK W q I s) (a1) : OK W q I (State.clearSs s a1) := by
  unfold State.clearSs
  refine OK.upd' ?_ rfl rfl rfl rfl
  exact h

theorem State.clearFe_ok (h : OK W q I s) (a1) : OK W q I (State.clearFe s a1) := by
  unfold State.clearFe
  refine OK.upd' ?_ rfl rfl rfl rfl
  exact h

theorem execZoneRetry_ok (h : OK W q I s) (a0) : OKo W q I (execZoneRetry a0 s) := by
  unfold execZoneRetry
  refine OKo.next ?_
  refine OK.ite (fun _ => ?_) (fun _ => ?_)
  · refine State.bumpSat_ok ?_ ..
    refine State.unfenceZone_ok ?_ ..
    exact h
  · exact h

theorem execRetriesReset_ok (h : OK W q I s) (a0) : OKo W q I (execRetriesReset a0 s) := by
  unfold execRetriesReset
  refine OKo.next ?_
  refine OK.ite (fun _ => ?_) (fun _ => ?_)
  · refine State.put_ok ?_ ..
    exact h
  · exact h

theorem State.mismatchStep_ok (h : OK W q I s) (a1) : OK W q I (State.mismatchStep s a1) := by
  unfold State.mismatchStep
  extract_lets +onlyGivenNames -merge -useContext -underBinder x1
  extract_lets +onlyGivenNames -merge -useContext -underBinder x2
  extract_lets +onlyGivenNames -merge -useContext -underBinder x3
  extract_lets +onlyGivenNames -merge -useContext -underBinder x4
  extract_lets +onlyGivenNames -merge -useContext -underBinder x5
  refine State.setOs_ok ?_ ..
  exact h

theorem execCurrentMismatchFence_ok (h : OK W q I s) (a0) : OKo W q I (execCurrentMismatchFence a0 s) := by
  unfold execCurrentMismatchFence
  refine OKo.next ?_
  extract_lets +onlyGivenNames -merge -useContext -underBinder x1
  refine OK.ite (fun _ => ?_) (fun _ => ?_)
  · refine State.failOs_ok ?_ ..
    exact h
  · exact h

theorem State.overloadStep_ok (h : OK W q I s) (a1) : OK W q I (State.overloadStep s a1) := by
  unfold State.overloadStep
  extract_lets +onlyGivenNames -merge -useContext -underBinder x1
  extract_lets +onlyGivenNames -merge -useContext -underBinder x2
  extract_lets +onlyGivenNames -merge -useContext -underBinder x3
  have hx3 : OK W q I x3 := by
    unfold x3
    refine State.putBF_ok ?_ ..
    exact h
  extract_lets +onlyGivenNames -merge -useContext -underBinder x4
  have hx4 : OK W q I x4 := by
    unfold x4
    refine State.setFlag_ok ?_ ..
    exact hx3
  refine OK.ite (fun _ => ?_) (fun _ => ?_)
  · refine State.bumpSat_ok ?_ ..
    exact hx4
  · refine State.put_ok ?_ ..
    exact hx4

theorem execCapLimited_ok (h : OK W q I s) (a0) : OKo W q I (execCapLimited a0 s) := by
  unfold execCapLimited
  refine OKo.next ?_
  refine OK.ite (fun _ => ?_) (fun _ => ?_)
  · refine State.record_ok ?_ ..
    refine State.setFlag_ok ?_ ..
    exact h
  · exact h

theorem State.shedStep_ok (h : OK W q I s) (a1) : OK W q I (State.shedStep s a1) := by
  unfold State.shedStep
  extract_lets +onlyGivenNames -merge -useContext -underBinder x1
  extract_lets +onlyGivenNames -merge -useContext -underBinder x2
  extract_lets +onlyGivenNames -merge -useContext -underBinder x3
  extract_lets +onlyGivenNames -merge -useContext -underBinder x4
  extract_lets +onlyGivenNames -merge -useContext -underBinder x5
  extract_lets +onlyGivenNames -merge -useContext -underBinder x6
  extract_lets +onlyGivenNames -merge -useContext -underBinder x7
  have hx7 : OK W q I x7 := by
    unfold x7
    refine OK.ite (fun _ => ?_) (fun _ => ?_)
    · refine State.restoreShed_ok ?_ ..
      exact h
    · exact h
  extract_lets +onlyGivenNames -merge -useContext -underBinder x8
  extract_lets +onlyGivenNames -merge -useContext -underBinder x9
  extract_lets +onlyGivenNames -merge -useContext -underBinder x10
  extract_lets +onlyGivenNames -merge -useContext -underBinder x11
  extract_lets +onlyGivenNames -merge -useContext -underBinder x12
  have hx12 : OK W q I x12 := by
    unfold x12
    refine State.put_ok ?_ ..
    exact hx7
  extract_lets +onlyGivenNames -merge -useContext -underBinder x13
  extract_lets +onlyGivenNames -merge -useContext -underBinder x14
  extract_lets +onlyGivenNames -merge -useContext -underBinder x15
  have hx15 : OK W q I x15 := by
    unfold x15
    refine OK.upd' (s := x12) ?_ rfl rfl rfl rfl
    exact hx12
  refine State.put_ok ?_ ..
  refine State.put_ok ?_ ..
  exact hx15

theorem State.rampOs_ok (h : OK W q I s) (a1 a2) : OK W q I (State.rampOs s a1 a2) := by
  unfold State.rampOs
  refine State.setOs_ok ?_ ..
  refine State.put_ok ?_ ..
  exact h

theorem execShedHoldExpiry_ok (h : OK W q I s) (a0) : OKo W q I (execShedHoldExpiry a0 s) := by
  unfold execShedHoldExpiry
  refine OKo.next ?_
  refine OK.ite (fun _ => ?_) (fun _ => ?_)
  · exact h
  · split
    · refine OK.ite (fun _ => ?_) (fun _ => ?_)
      · refine State.rampOs_ok ?_ ..
        exact h
      · refine State.put_ok ?_ ..
        exact h
    · refine State.put_ok ?_ ..
      exact h

theorem State.clearAdd_ok (h : OK W q I s) (a1) : OK W q I (State.clearAdd s a1) := by
  unfold State.clearAdd
  refine OK.upd' ?_ rfl rfl rfl rfl
  exact h

theorem execAddHoldExpiry_ok (h : OK W q I s) (a0) : OKo W q I (execAddHoldExpiry a0 s) := by
  unfold execAddHoldExpiry
  refine OKo.next ?_
  refine OK.ite (fun _ => ?_) (fun _ => ?_)
  · exact h
  · split
    · refine State.rampOs_ok ?_ ..
      refine State.clearAdd_ok ?_ ..
      exact h
    · refine State.clearAdd_ok ?_ ..
      exact h

theorem execJobGroupApply_ok (h : OK W q I s) (a0) : OKo W q I (execJobGroupApply a0 s) := by
  unfold execJobGroupApply
  refine OKo.next ?_
  refine OK.ite (fun _ => ?_) (fun _ => ?_)
  · refine State.put_ok ?_ ..
    exact h
  · exact h

theorem State.acceptCode_ok (h : OK W q I s) (a1 a2) : OK W q I (State.acceptCode s a1 a2) := by
  unfold State.acceptCode
  refine State.setFlag_ok ?_ ..
  refine State.put_ok ?_ ..
  exact h

theorem State.vselZone_ok (h : OK W q I s) (a1) : OK W q I (State.vselZone s a1) := by
  unfold State.vselZone
  extract_lets +onlyGivenNames -merge -useContext -underBinder x1
  have hx1 : OK W q I x1 := by
    unfold x1
    refine State.put_ok ?_ ..
    refine State.put_ok ?_ ..
    exact h
  refine OK.ite (fun _ => ?_) (fun _ => ?_)
  · refine State.acceptCode_ok ?_ ..
    exact hx1
  · exact hx1

theorem execVselSample_ok (h : OK W q I s) : OKo W q I (execVselSample s) := by
  unfold execVselSample
  refine OKo.next ?_
  refine OK.ite (fun _ => ?_) (fun _ => ?_)
  · refine State.vselZone_ok ?_ ..
    refine State.vselZone_ok ?_ ..
    refine State.vselZone_ok ?_ ..
    refine State.vselZone_ok ?_ ..
    exact h
  · exact h

theorem State.pgoodStep_ok (h : OK W q I s) (a1) : OK W q I (State.pgoodStep s a1) := by
  unfold State.pgoodStep
  extract_lets +onlyGivenNames -merge -useContext -underBinder x1
  have hx1 : OK W q I x1 := by
    unfold x1
    refine State.setFlag_ok ?_ ..
    exact h
  refine OK.ite (fun _ => ?_) (fun _ => ?_)
  · refine State.put_ok ?_ ..
    exact hx1
  · refine State.setFlag_ok ?_ ..
    refine State.put_ok ?_ ..
    exact hx1

theorem execPgoodHigh_ok (h : OK W q I s) (a0) : OKo W q I (execPgoodHigh a0 s) := by
  unfold execPgoodHigh
  refine OKo.next ?_
  refine OK.ite (fun _ => ?_) (fun _ => ?_)
  · refine State.setFlag_ok ?_ ..
    exact h
  · exact h

theorem State.protectStep_ok (h : OK W q I s) (a1) : OK W q I (State.protectStep s a1) := by
  unfold State.protectStep
  split
  · exact h
  · refine OK.ite (fun _ => ?_) (fun _ => ?_)
    · extract_lets +onlyGivenNames -merge -useContext -underBinder x1
      have hx1 : OK W q I x1 := by
        unfold x1
        refine OK.dite (fun _ => ?_) (fun _ => ?_)
        · refine State.fenceOs_ok ?_ ..
          exact h
        · refine OK.dite (fun _ => ?_) (fun _ => ?_)
          · refine State.fenceSs_ok ?_ ..
            exact h
          · refine State.fenceFe_ok ?_ ..
            exact h
      refine State.record_ok ?_ ..
      exact hx1
    · exact h

theorem State.fabricDecide_ok (h : OK W q I s) : OK W q I (State.fabricDecide s) := by
  unfold State.fabricDecide
  refine State.syncBatch_ok ?_ ..
  refine State.goAbort_ok ?_ ..
  refine State.duties_ok ?_ ..
  refine OK.foldl (fun _ _ ht1 => ?_) ?_
  · refine State.protectStep_ok ?_ ..
    exact ht1
  · exact h

theorem State.fabricAdvance_ok (h : OK W q I s) : OK W q I (State.fabricAdvance s) := by
  unfold State.fabricAdvance
  extract_lets +onlyGivenNames -merge -useContext -underBinder x1
  have hx1 : OK W q I x1 := by
    unfold x1
    refine OK.foldl (fun _ _ ht2 => ?_) ?_
    · refine State.shedStep_ok ?_ ..
      exact ht2
    · exact h
  extract_lets +onlyGivenNames -merge -useContext -underBinder x3
  have hx3 : OK W q I x3 := by
    unfold x3
    refine OK.foldl (fun _ _ ht4 => ?_) ?_
    · refine State.advanceOs_ok ?_ ..
      exact ht4
    · exact hx1
  refine State.syncBatch_ok ?_ ..
  refine State.powerWeights_ok ?_ ..
  exact hx3

theorem State.rampTarget_ok (h : OK W q I s) (a1) : OK W q I (State.rampTarget s a1) := by
  unfold State.rampTarget
  refine OK.ite (fun _ => ?_) (fun _ => ?_)
  · refine State.wr_ok ?_ ..
    exact h
  · split
    · exact h
    · refine OK.ite (fun _ => ?_) (fun _ => ?_)
      · exact h
      · refine State.put_ok ?_ ..
        refine State.wr_ok ?_ ..
        exact h

theorem State.rampStep_ok (h : OK W q I s) (a1) : OK W q I (State.rampStep s a1) := by
  unfold State.rampStep
  extract_lets +onlyGivenNames -merge -useContext -underBinder x1
  have hx1 : OK W q I x1 := by
    unfold x1
    refine State.rampTarget_ok ?_ ..
    exact h
  extract_lets +onlyGivenNames -merge -useContext -underBinder x2
  extract_lets +onlyGivenNames -merge -useContext -underBinder x3
  extract_lets +onlyGivenNames -merge -useContext -underBinder x4
  extract_lets +onlyGivenNames -merge -useContext -underBinder x5
  extract_lets +onlyGivenNames -merge -useContext -underBinder x6
  extract_lets +onlyGivenNames -merge -useContext -underBinder x7
  extract_lets +onlyGivenNames -merge -useContext -underBinder x8
  extract_lets +onlyGivenNames -merge -useContext -underBinder x9
  extract_lets +onlyGivenNames -merge -useContext -underBinder x10
  have hx10 : OK W q I x10 := by
    unfold x10
    refine OK.ite (fun _ => ?_) (fun _ => ?_)
    · refine State.putBF_ok ?_ ..
      exact hx1
    · exact hx1
  extract_lets +onlyGivenNames -merge -useContext -underBinder x11
  extract_lets +onlyGivenNames -merge -useContext -underBinder x12
  extract_lets +onlyGivenNames -merge -useContext -underBinder x13
  have hx13 : OK W q I x13 := by
    unfold x13
    refine OK.ite (fun _ => ?_) (fun _ => ?_)
    · refine State.putBF_ok ?_ ..
      exact hx10
    · exact hx10
  extract_lets +onlyGivenNames -merge -useContext -underBinder x14
  have hx14 : OK W q I x14 := by
    unfold x14
    refine State.setFlag_ok ?_ ..
    refine State.setFlag_ok ?_ ..
    refine State.setFlag_ok ?_ ..
    refine State.setFlag_ok ?_ ..
    exact hx13
  refine OK.ite (fun _ => ?_) (fun _ => ?_)
  · refine State.setFlag_ok ?_ ..
    exact hx14
  · exact hx14

theorem State.ramps_ok (h : OK W q I s) : OK W q I (State.ramps s) := by
  unfold State.ramps
  refine OK.foldl (fun _ _ ht1 => ?_) ?_
  · refine State.rampStep_ok ?_ ..
    exact ht1
  · exact h

theorem State.followStep_ok (h : OK W q I s) (a1) : OK W q I (State.followStep s a1) := by
  unfold State.followStep
  extract_lets +onlyGivenNames -merge -useContext -underBinder x1
  extract_lets +onlyGivenNames -merge -useContext -underBinder x2
  extract_lets +onlyGivenNames -merge -useContext -underBinder x3
  extract_lets +onlyGivenNames -merge -useContext -underBinder x4
  extract_lets +onlyGivenNames -merge -useContext -underBinder x5
  extract_lets +onlyGivenNames -merge -useContext -underBinder x6
  have hx6 : OK W q I x6 := by
    unfold x6
    refine State.setFlag_ok ?_ ..
    refine State.put_ok ?_ ..
    exact h
  extract_lets +onlyGivenNames -merge -useContext -underBinder x7
  have hx7 : OK W q I x7 := by
    unfold x7
    refine State.setLoop_ok ?_ ..
    exact hx6
  refine OK.dite (fun _ => ?_) (fun _ => ?_)
  · extract_lets +onlyGivenNames -merge -useContext -underBinder x8
    refine OK.upd' (s := x7) ?_ rfl rfl rfl rfl
    exact hx7
  · refine OK.ite (fun _ => ?_) (fun _ => ?_)
    · refine OK.upd' (s := x7) ?_ rfl rfl rfl rfl
      exact hx7
    · exact hx7

theorem State.expireLoop_ok (h : OK W q I s) (a1) : OK W q I (State.expireLoop s a1) := by
  unfold State.expireLoop
  extract_lets +onlyGivenNames -merge -useContext -underBinder x1
  refine State.setFlag_ok ?_ ..
  refine State.setFlag_ok ?_ ..
  refine OK.upd' ?_ rfl rfl rfl rfl
  exact h

theorem execFollowExpiry_ok (h : OK W q I s) (a0) : OKo W q I (execFollowExpiry a0 s) := by
  unfold execFollowExpiry
  refine OKo.next ?_
  extract_lets +onlyGivenNames -merge -useContext -underBinder x1
  refine OK.ite (fun _ => ?_) (fun _ => ?_)
  · refine State.record_ok ?_ ..
    refine State.expireLoop_ok ?_ ..
    exact h
  · exact h

theorem State.followReactions_ok (h : OK W q I s) : OK W q I (State.followReactions s) := by
  unfold State.followReactions
  extract_lets +onlyGivenNames -merge -useContext -underBinder x1
  have hx1 : OK W q I x1 := by
    unfold x1
    refine OK.foldl (fun _ _ ht2 => ?_) ?_
    · refine OK.ite (fun _ => ?_) (fun _ => ?_)
      · exact ht2
      · refine OK.dite (fun _ => ?_) (fun _ => ?_)
        · refine State.fenceZone_ok ?_ ..
          exact ht2
        · refine OK.ite (fun _ => ?_) (fun _ => ?_)
          · refine OK.upd' ?_ rfl rfl rfl rfl
            exact ht2
          · refine State.fenceGroup_ok ?_ ..
            exact ht2
    · exact h
  refine OK.upd' (s := x1) ?_ rfl rfl rfl rfl
  exact hx1

theorem execStorageExhaustionClear_ok (h : OK W q I s) : OKo W q I (execStorageExhaustionClear s) := by
  unfold execStorageExhaustionClear
  refine OKo.next ?_
  refine OK.ite (fun _ => ?_) (fun _ => ?_)
  · refine OK.upd' ?_ rfl rfl rfl rfl
    exact h
  · exact h

theorem State.zoneTick_ok (h : OK W q I s) : OK W q I (State.zoneTick s) := by
  unfold State.zoneTick
  extract_lets +onlyGivenNames -merge -useContext -underBinder x1
  extract_lets +onlyGivenNames -merge -useContext -underBinder x2
  extract_lets +onlyGivenNames -merge -useContext -underBinder x3
  have hx3 : OK W q I x3 := by
    unfold x3
    refine OK.upd' ?_ rfl rfl rfl rfl
    exact h
  refine OK.ite (fun _ => ?_) (fun _ => ?_)
  · refine OK.upd' (s := x3) ?_ rfl rfl rfl rfl
    exact hx3
  · exact hx3

end Sys2Proof.Machine
end

