-- ==== Sys2Proof/Laws/KeepZones.lean ====
section
/-! SUPPORT. What the operations of Swarm, Ceilings, Hamper, Align, Links, Aedine keep (Laws/Keep). -/

namespace Sys2Proof.Machine

variable {W : Prop} {q : List Instr} {I : Nat → Nat → Prop} {s : State}

theorem State.ppFall_ok (h : OK W q I s) (a1) : OK W q I (State.ppFall s a1) := by
  unfold State.ppFall
  extract_lets +onlyGivenNames -merge -useContext -underBinder x1
  split
  · refine State.setLane_ok ?_ ..
    exact h
  · exact h

theorem State.endArm_ok (h : OK W q I s) (a1 a2 a3) : OK W q I (State.endArm s a1 a2 a3) := by
  unfold State.endArm
  extract_lets +onlyGivenNames -merge -useContext -underBinder x1
  refine OK.ite (fun _ => ?_) (fun _ => ?_)
  · exact h
  · extract_lets +onlyGivenNames -merge -useContext -underBinder x2
    have hx2 : OK W q I x2 := by
      unfold x2
      refine State.setLane_ok ?_ ..
      exact h
    extract_lets +onlyGivenNames -merge -useContext -underBinder x3
    have hx3 : OK W q I x3 := by
      unfold x3
      refine State.setFlag_ok ?_ ..
      exact hx2
    extract_lets +onlyGivenNames -merge -useContext -underBinder x4
    have hx4 : OK W q I x4 := by
      unfold x4
      refine State.putBF_ok ?_ ..
      refine State.put64_ok ?_ ..
      exact hx3
    refine OK.ite (fun _ => ?_) (fun _ => ?_)
    · refine State.ppFall_ok ?_ ..
      exact hx4
    · exact hx4

theorem State.ppArm_ok (h : OK W q I s) (a1 a2) : OK W q I (State.ppArm s a1 a2) := by
  unfold State.ppArm
  refine OK.ite (fun _ => ?_) (fun _ => ?_)
  · exact h
  · split
    · refine State.setLane_ok ?_ ..
      exact h
    · extract_lets +onlyGivenNames -merge -useContext -underBinder x1
      extract_lets +onlyGivenNames -merge -useContext -underBinder x2
      have hx2 : OK W q I x2 := by
        unfold x2
        refine State.setLane_ok ?_ ..
        exact h
      refine OK.ite (fun _ => ?_) (fun _ => ?_)
      · refine State.record_ok ?_ ..
        refine State.setFlag_ok ?_ ..
        exact hx2
      · exact hx2

theorem State.ppStep_ok (h : OK W q I s) (a1) : OK W q I (State.ppStep s a1) := by
  unfold State.ppStep
  extract_lets +onlyGivenNames -merge -useContext -underBinder x1
  extract_lets +onlyGivenNames -merge -useContext -underBinder x2
  have hx2 : OK W q I x2 := by
    unfold x2
    refine OK.ite (fun _ => ?_) (fun _ => ?_)
    · refine State.ppFall_ok ?_ ..
      exact h
    · exact h
  extract_lets +onlyGivenNames -merge -useContext -underBinder x3
  extract_lets +onlyGivenNames -merge -useContext -underBinder x4
  split
  · exact hx2
  · extract_lets +onlyGivenNames -merge -useContext -underBinder x5
    refine State.setLane_ok ?_ ..
    exact hx2
  · extract_lets +onlyGivenNames -merge -useContext -underBinder x6
    refine OK.ite (fun _ => ?_) (fun _ => ?_)
    · refine State.setLane_ok ?_ ..
      exact hx2
    · refine State.setLane_ok ?_ ..
      exact hx2

theorem State.prePosition_ok (h : OK W q I s) : OK W q I (State.prePosition s).1 := by
  unfold State.prePosition
  extract_lets +onlyGivenNames -merge -useContext -underBinder x1
  have hx1 : OK W q I x1 := by
    unfold x1
    refine State.each_ok (fun _ _ ht2 => ?_) ?_
    · refine State.ppStep_ok ?_ ..
      exact ht2
    · exact h
  extract_lets +onlyGivenNames -merge -useContext -underBinder x3
  show OK W q I _
  refine State.putBF_ok ?_ ..
  exact hx1

theorem execPpDisable_ok (h : OK W q I s) : OKo W q I (execPpDisable s) := by
  unfold execPpDisable
  refine OKo.next ?_
  refine State.enqueue_ok ?_ ..
  exact h

theorem State.stormCond_ok (h : OK W q I s) (a1) : OK W q I (State.stormCond s a1) := by
  unfold State.stormCond
  extract_lets +onlyGivenNames -merge -useContext -underBinder x1
  extract_lets +onlyGivenNames -merge -useContext -underBinder x2
  have hx2 : OK W q I x2 := by
    unfold x2
    refine State.setLane_ok ?_ ..
    exact h
  refine OK.ite (fun _ => ?_) (fun _ => ?_)
  · exact hx2
  · extract_lets +onlyGivenNames -merge -useContext -underBinder x3
    have hx3 : OK W q I x3 := by
      unfold x3
      refine State.bumpSat_ok ?_ ..
      refine State.setFlag_ok ?_ ..
      exact hx2
    extract_lets +onlyGivenNames -merge -useContext -underBinder x4
    have hx4 : OK W q I x4 := by
      unfold x4
      refine State.ppFall_ok ?_ ..
      refine State.endArm_ok ?_ ..
      exact hx3
    extract_lets +onlyGivenNames -merge -useContext -underBinder x5
    extract_lets +onlyGivenNames -merge -useContext -underBinder x6
    have hx6 : OK W q I x6 := by
      unfold x6
      refine State.setLane_ok ?_ ..
      exact hx4
    extract_lets +onlyGivenNames -merge -useContext -underBinder x7
    have hx7 : OK W q I x7 := by
      unfold x7
      refine State.record_ok ?_ ..
      exact hx6
    refine OK.ite (fun _ => ?_) (fun _ => ?_)
    · refine State.record_ok ?_ ..
      refine State.fenceLane_ok ?_ ..
      exact hx7
    · exact hx7

theorem execStormClear_ok (h : OK W q I s) (a0) : OKo W q I (execStormClear a0 s) := by
  unfold execStormClear
  refine OKo.next ?_
  refine OK.ite (fun _ => ?_) (fun _ => ?_)
  · refine State.setFlag_ok ?_ ..
    exact h
  · exact h

theorem State.clearLane_ok (h : OK W q I s) (a1) : OK W q I (State.clearLane s a1) := by
  unfold State.clearLane
  refine State.put_ok ?_ ..
  refine State.setFlag_ok ?_ ..
  refine State.setFlag_ok ?_ ..
  exact h

theorem execLaneClear_ok (h : OK W q I s) (a0) : OKo W q I (execLaneClear a0 s) := by
  unfold execLaneClear
  refine OKo.next ?_
  refine State.enqueue_ok ?_ ..
  exact h

theorem State.hearUp_ok (h : OK W q I s) (a1) : OK W q I (State.hearUp s a1) := by
  unfold State.hearUp
  refine State.setLane_ok ?_ ..
  exact h

theorem State.enterUp_ok (h : OK W q I s) (a1 a2) : OK W q I (State.enterUp s a1 a2) := by
  unfold State.enterUp
  extract_lets +onlyGivenNames -merge -useContext -underBinder x1
  have hx1 : OK W q I x1 := by
    unfold x1
    refine State.hearUp_ok ?_ ..
    exact h
  refine OK.upd' (s := x1) ?_ rfl rfl rfl rfl
  exact hx1

theorem State.dropUp_ok (h : OK W q I s) (a1) : OK W q I (State.dropUp s a1) := by
  unfold State.dropUp
  extract_lets +onlyGivenNames -merge -useContext -underBinder x1
  extract_lets +onlyGivenNames -merge -useContext -underBinder x2
  have hx2 : OK W q I x2 := by
    unfold x2
    refine State.setLane_ok ?_ ..
    refine State.bump_ok ?_ ..
    exact h
  refine OK.ite (fun _ => ?_) (fun _ => ?_)
  · refine State.stormCond_ok ?_ ..
    exact hx2
  · exact hx2

theorem State.excessUp_ok (h : OK W q I s) (a1 a2) : OK W q I (State.excessUp s a1 a2) := by
  unfold State.excessUp
  extract_lets +onlyGivenNames -merge -useContext -underBinder x1
  have hx1 : OK W q I x1 := by
    unfold x1
    refine State.bump_ok ?_ ..
    refine State.hearUp_ok ?_ ..
    exact h
  refine OK.ite (fun _ => ?_) (fun _ => ?_)
  · exact hx1
  · refine State.dropUp_ok ?_ ..
    exact hx1

theorem State.receiveUp_ok (h : OK W q I s) (a1 a2 a3 a4 a5) : OK W q I (State.receiveUp s a1 a2 a3 a4 a5) := by
  unfold State.receiveUp
  extract_lets +onlyGivenNames -merge -useContext -underBinder x1
  have hx1 : OK W q I x1 := by
    unfold x1
    refine State.atCycle_ok ?_ ..
    exact h
  refine OK.ite (fun _ => ?_) (fun _ => ?_)
  · exact hx1
  · refine OK.ite (fun _ => ?_) (fun _ => ?_)
    · refine State.bump_ok ?_ ..
      exact hx1
    · refine OK.ite (fun _ => ?_) (fun _ => ?_)
      · refine State.enterUp_ok ?_ ..
        exact hx1
      · refine State.excessUp_ok ?_ ..
        exact hx1

theorem execStepArm_ok (h : OK W q I s) (a0 a1 a2 a3) : OKo W q I (execStepArm a0 a1 a2 a3 s) := by
  unfold execStepArm
  refine OKo.next ?_
  refine State.receiveUp_ok ?_ ..
  exact h

theorem execStepGo_ok (h : OK W q I s) (a0 a1 a2 a3) : OKo W q I (execStepGo a0 a1 a2 a3 s) := by
  unfold execStepGo
  refine OKo.next ?_
  refine State.receiveUp_ok ?_ ..
  exact h

theorem execStepEnd_ok (h : OK W q I s) (a0 a1 a2 a3) : OKo W q I (execStepEnd a0 a1 a2 a3 s) := by
  unfold execStepEnd
  refine OKo.next ?_
  refine State.receiveUp_ok ?_ ..
  exact h

theorem execStepPeriod_ok (h : OK W q I s) (a0 a1 a2 a3) : OKo W q I (execStepPeriod a0 a1 a2 a3 s) := by
  unfold execStepPeriod
  refine OKo.next ?_
  refine State.receiveUp_ok ?_ ..
  exact h

theorem execWaggleStatus_ok (h : OK W q I s) (a0 a1 a2 a3) : OKo W q I (execWaggleStatus a0 a1 a2 a3 s) := by
  unfold execWaggleStatus
  refine OKo.next ?_
  refine State.receiveUp_ok ?_ ..
  exact h

theorem State.holdArm_ok (h : OK W q I s) (a1 a2) : OK W q I (State.holdArm s a1 a2) := by
  unfold State.holdArm
  refine State.putBF_ok ?_ ..
  refine State.put64_ok ?_ ..
  refine State.setFlag_ok ?_ ..
  refine State.setLane_ok ?_ ..
  exact h

theorem State.acceptArm_ok (h : OK W q I s) (a1 a2) : OK W q I (State.acceptArm s a1 a2) := by
  unfold State.acceptArm
  refine State.ppArm_ok ?_ ..
  refine State.holdArm_ok ?_ ..
  exact h

theorem State.acceptGo_ok (h : OK W q I s) (a1 a2) : OK W q I (State.acceptGo s a1 a2) := by
  unfold State.acceptGo
  extract_lets +onlyGivenNames -merge -useContext -underBinder x1
  extract_lets +onlyGivenNames -merge -useContext -underBinder x2
  have hx2 : OK W q I x2 := by
    unfold x2
    split
    · exact h
    · refine State.endArm_ok ?_ ..
      exact h
  extract_lets +onlyGivenNames -merge -useContext -underBinder x3
  extract_lets +onlyGivenNames -merge -useContext -underBinder x4
  try clear_value x4
  extract_lets +onlyGivenNames -merge -useContext -underBinder x5
  extract_lets +onlyGivenNames -merge -useContext -underBinder x6
  extract_lets +onlyGivenNames -merge -useContext -underBinder x7
  extract_lets +onlyGivenNames -merge -useContext -underBinder x8
  have hx8 : OK W q I x8 := by
    unfold x8
    refine State.setLane_ok ?_ ..
    exact hx2
  extract_lets +onlyGivenNames -merge -useContext -underBinder x9
  extract_lets +onlyGivenNames -merge -useContext -underBinder x10
  have hx10 : OK W q I x10 := by
    unfold x10
    refine OK.upd' (s := x8) ?_ rfl rfl rfl rfl
    exact hx8
  extract_lets +onlyGivenNames -merge -useContext -underBinder x11
  have hx11 : OK W q I x11 := by
    unfold x11
    refine OK.ite (fun _ => ?_) (fun _ => ?_)
    · refine State.setFlag_ok ?_ ..
      exact hx10
    · exact hx10
  refine OK.ite (fun _ => ?_) (fun _ => ?_)
  · refine State.stormCond_ok ?_ ..
    exact hx11
  · exact hx11

theorem State.acceptPeriod_ok (h : OK W q I s) (a1 a2) : OK W q I (State.acceptPeriod s a1 a2) := by
  unfold State.acceptPeriod
  extract_lets +onlyGivenNames -merge -useContext -underBinder x1
  extract_lets +onlyGivenNames -merge -useContext -underBinder x2
  have hx2 : OK W q I x2 := by
    unfold x2
    refine OK.ite (fun _ => ?_) (fun _ => ?_)
    · exact h
    · refine State.setLane_ok ?_ ..
      exact h
  refine OK.ite (fun _ => ?_) (fun _ => ?_)
  · refine State.stormCond_ok ?_ ..
    exact hx2
  · exact hx2

theorem State.implausible_ok (h : OK W q I s) (a1) : OK W q I (State.implausible s a1) := by
  unfold State.implausible
  extract_lets +onlyGivenNames -merge -useContext -underBinder x1
  have hx1 : OK W q I x1 := by
    unfold x1
    refine State.bump_ok ?_ ..
    exact h
  refine OK.ite (fun _ => ?_) (fun _ => ?_)
  · exact hx1
  · refine State.record_ok ?_ ..
    refine State.setLane_ok ?_ ..
    exact hx1

theorem State.repeated_ok (h : OK W q I s) (a1) : OK W q I (State.repeated s a1) := by
  unfold State.repeated
  extract_lets +onlyGivenNames -merge -useContext -underBinder x1
  extract_lets +onlyGivenNames -merge -useContext -underBinder x2
  have hx2 : OK W q I x2 := by
    unfold x2
    refine State.setLane_ok ?_ ..
    refine State.bump_ok ?_ ..
    exact h
  refine OK.ite (fun _ => ?_) (fun _ => ?_)
  · refine State.stormCond_ok ?_ ..
    exact hx2
  · exact hx2

theorem State.actMarker_ok (h : OK W q I s) (a1 a2) : OK W q I (State.actMarker s a1 a2) := by
  unfold State.actMarker
  split
  · refine OK.ite (fun _ => ?_) (fun _ => ?_)
    · exact h
    · refine State.acceptArm_ok ?_ ..
      exact h
  · refine State.acceptGo_ok ?_ ..
    exact h
  · refine State.ppFall_ok ?_ ..
    exact h
  · refine State.acceptPeriod_ok ?_ ..
    exact h
  · exact h

theorem State.judgeMarker_ok (h : OK W q I s) (a1) : OK W q I (State.judgeMarker s a1) := by
  unfold State.judgeMarker
  extract_lets +onlyGivenNames -merge -useContext -underBinder x1
  refine OK.ite (fun _ => ?_) (fun _ => ?_)
  · refine State.implausible_ok ?_ ..
    exact h
  · refine OK.ite (fun _ => ?_) (fun _ => ?_)
    · refine State.repeated_ok ?_ ..
      exact h
    · refine State.actMarker_ok ?_ ..
      refine State.setLane_ok ?_ ..
      exact h

theorem State.marker_ok (h : OK W q I s) (a1) : OK W q I (State.marker s a1) := by
  unfold State.marker
  extract_lets +onlyGivenNames -merge -useContext -underBinder x1
  refine OK.ite (fun _ => ?_) (fun _ => ?_)
  · exact h
  · extract_lets +onlyGivenNames -merge -useContext -underBinder x2
    extract_lets +onlyGivenNames -merge -useContext -underBinder x3
    have hx3 : OK W q I x3 := by
      unfold x3
      refine State.setLane_ok ?_ ..
      exact h
    extract_lets +onlyGivenNames -merge -useContext -underBinder x4
    have hx4 : OK W q I x4 := by
      unfold x4
      refine OK.ite (fun _ => ?_) (fun _ => ?_)
      · refine State.stormCond_ok ?_ ..
        exact hx3
      · exact hx3
    refine OK.ite (fun _ => ?_) (fun _ => ?_)
    · exact hx4
    · refine OK.ite (fun _ => ?_) (fun _ => ?_)
      · refine State.bump_ok ?_ ..
        exact hx4
      · refine State.judgeMarker_ok ?_ ..
        refine State.setLane_ok ?_ ..
        exact hx4

theorem State.markers_ok (h : OK W q I s) : OK W q I (State.markers s) := by
  unfold State.markers
  extract_lets +onlyGivenNames -merge -useContext -underBinder x1
  refine OK.foldl (fun _ _ ht2 => ?_) ?_
  · extract_lets +onlyGivenNames -merge -useContext -underBinder x3
    extract_lets +onlyGivenNames -merge -useContext -underBinder x4
    have hx4 : OK W q I x4 := by
      unfold x4
      refine OK.foldl (fun _ _ ht5 => ?_) ?_
      · refine State.marker_ok ?_ ..
        exact ht5
      · exact ht2
    refine OK.ite (fun _ => ?_) (fun _ => ?_)
    · refine State.setLane_ok ?_ ..
      exact hx4
    · refine OK.ite (fun _ => ?_) (fun _ => ?_)
      · refine State.setLane_ok ?_ ..
        exact hx4
      · refine State.setFlag_ok ?_ ..
        refine State.setLane_ok ?_ ..
        exact hx4
  · refine OK.upd' ?_ rfl rfl rfl rfl
    exact h

theorem execArmTimeout_ok (h : OK W q I s) (a0) : OKo W q I (execArmTimeout a0 s) := by
  unfold execArmTimeout
  refine OKo.next ?_
  split
  · refine OK.ite (fun _ => ?_) (fun _ => ?_)
    · refine State.endArm_ok ?_ ..
      exact h
    · exact h
  · exact h

theorem State.dropLane_ok (h : OK W q I s) (a1) : OK W q I (State.dropLane s a1) := by
  unfold State.dropLane
  refine State.ppFall_ok ?_ ..
  refine State.endArm_ok ?_ ..
  refine State.setFlag_ok ?_ ..
  exact h

theorem execLinkDown_ok (h : OK W q I s) (a0) : OKo W q I (execLinkDown a0 s) := by
  unfold execLinkDown
  refine OKo.next ?_
  refine OK.ite (fun _ => ?_) (fun _ => ?_)
  · refine State.record_ok ?_ ..
    refine State.dropLane_ok ?_ ..
    exact h
  · exact h

theorem execStepStale_ok (h : OK W q I s) (a0) : OKo W q I (execStepStale a0 s) := by
  unfold execStepStale
  refine OKo.next ?_
  refine OK.ite (fun _ => ?_) (fun _ => ?_)
  · refine State.setFlag_ok ?_ ..
    exact h
  · exact h

theorem State.setAnchorTime_ok (h : OK W q I s) (a1 a2) : OK W q I (State.setAnchorTime s a1 a2) := by
  unfold State.setAnchorTime
  refine State.setZoneFf_ok ?_ ..
  refine State.put64_ok ?_ ..
  exact h

theorem State.anchorStep_ok (h : OK W q I s) (a1) : OK W q I (State.anchorStep s a1) := by
  unfold State.anchorStep
  extract_lets +onlyGivenNames -merge -useContext -underBinder x1
  try clear_value x1
  extract_lets +onlyGivenNames -merge -useContext -underBinder x2
  extract_lets +onlyGivenNames -merge -useContext -underBinder x3
  extract_lets +onlyGivenNames -merge -useContext -underBinder x4
  have hx4 : OK W q I x4 := by
    unfold x4
    refine State.setZoneFf_ok ?_ ..
    exact h
  extract_lets +onlyGivenNames -merge -useContext -underBinder x5
  have hx5 : OK W q I x5 := by
    unfold x5
    split
    · refine State.put_ok ?_ ..
      exact hx4
    · refine State.put_ok ?_ ..
      exact hx4
  split
  · exact hx5
  · extract_lets +onlyGivenNames -merge -useContext -underBinder x6
    have hx6 : OK W q I x6 := by
      unfold x6
      refine OK.foldl (fun _ _ ht7 => ?_) ?_
      · extract_lets +onlyGivenNames -merge -useContext -underBinder x8
        extract_lets +onlyGivenNames -merge -useContext -underBinder x9
        extract_lets +onlyGivenNames -merge -useContext -underBinder x10
        have hx10 : OK W q I x10 := by
          unfold x10
          refine State.setZoneFf_ok ?_ ..
          exact ht7
        refine State.setAnchorTime_ok ?_ ..
        exact hx10
      · exact hx5
    extract_lets +onlyGivenNames -merge -useContext -underBinder x11
    refine OK.ite (fun _ => ?_) (fun _ => ?_)
    · exact hx6
    · refine State.setZoneFf_ok ?_ ..
      exact hx6

theorem State.anchors_ok (h : OK W q I s) : OK W q I (State.anchors s) := by
  unfold State.anchors
  extract_lets +onlyGivenNames -merge -useContext -underBinder x1
  have hx1 : OK W q I x1 := by
    unfold x1
    refine State.each_ok (fun _ _ ht2 => ?_) ?_
    · refine State.anchorStep_ok ?_ ..
      exact ht2
    · exact h
  refine State.each_ok (fun _ _ ht3 => ?_) ?_
  · refine State.setFlag_ok ?_ ..
    exact ht3
  · exact hx1

theorem State.onset_ok (h : OK W q I s) (a1 a2 a3) : OK W q I (State.onset s a1 a2 a3) := by
  unfold State.onset
  extract_lets +onlyGivenNames -merge -useContext -underBinder x1
  extract_lets +onlyGivenNames -merge -useContext -underBinder x2
  have hx2 : OK W q I x2 := by
    unfold x2
    refine State.setLane_ok ?_ ..
    exact h
  extract_lets +onlyGivenNames -merge -useContext -underBinder x3
  have hx3 : OK W q I x3 := by
    unfold x3
    refine State.setAnchorTime_ok ?_ ..
    exact hx2
  extract_lets +onlyGivenNames -merge -useContext -underBinder x4
  extract_lets +onlyGivenNames -merge -useContext -underBinder x5
  have hx5 : OK W q I x5 := by
    unfold x5
    refine State.setZoneFf_ok ?_ ..
    exact hx3
  refine State.putBF_ok ?_ ..
  exact hx5

theorem execStepOnset_ok (h : OK W q I s) (a0) : OKo W q I (execStepOnset a0 s) := by
  unfold execStepOnset
  refine OKo.next ?_
  split
  · exact h
  · split
    · exact h
    · refine OK.ite (fun _ => ?_) (fun _ => ?_)
      · refine State.onset_ok ?_ ..
        exact h
      · exact h

theorem State.feedForward_ok (h : OK W q I s) (a1) : OK W q I (State.feedForward s a1).1 := by
  unfold State.feedForward
  extract_lets +onlyGivenNames -merge -useContext -underBinder x1
  extract_lets +onlyGivenNames -merge -useContext -underBinder x2
  extract_lets +onlyGivenNames -merge -useContext -underBinder x3
  try clear_value x3
  extract_lets +onlyGivenNames -merge -useContext -underBinder x4
  have hx4 : OK W q I x4 := by
    unfold x4
    refine State.wr_ok ?_ ..
    exact h
  extract_lets +onlyGivenNames -merge -useContext -underBinder x5
  extract_lets +onlyGivenNames -merge -useContext -underBinder x6
  extract_lets +onlyGivenNames -merge -useContext -underBinder x7
  have hx7 : OK W q I x7.1 := by
    unfold x7
    split
    · extract_lets +onlyGivenNames -merge -useContext -underBinder x8
      extract_lets +onlyGivenNames -merge -useContext -underBinder x9
      show OK W q I _
      refine State.setFlag_ok ?_ ..
      refine State.put_ok ?_ ..
      exact hx4
    · extract_lets +onlyGivenNames -merge -useContext -underBinder x10
      extract_lets +onlyGivenNames -merge -useContext -underBinder x11
      extract_lets +onlyGivenNames -merge -useContext -underBinder x12
      show OK W q I _
      refine State.setFlag_ok ?_ ..
      refine State.setZoneFf_ok ?_ ..
      exact hx4
  extract_lets +onlyGivenNames -merge -useContext -underBinder x13
  have hx13 : OK W q I x13 := by
    unfold x13
    refine OK.ite (fun _ => ?_) (fun _ => ?_)
    · refine State.record_ok ?_ ..
      refine State.setFlag_ok ?_ ..
      exact hx7
    · exact hx7
  extract_lets +onlyGivenNames -merge -useContext -underBinder x14
  extract_lets +onlyGivenNames -merge -useContext -underBinder x15
  extract_lets +onlyGivenNames -merge -useContext -underBinder x16
  extract_lets +onlyGivenNames -merge -useContext -underBinder x17
  have hx17 : OK W q I x17 := by
    unfold x17
    refine State.setZoneFf_ok ?_ ..
    exact hx13
  show OK W q I _
  refine State.putBF_ok ?_ ..
  exact hx17

theorem State.formCrc_ok (h : OK W q I s) (a1) : OK W q I (State.formCrc s a1) := by
  unfold State.formCrc
  refine State.wr_ok ?_ ..
  exact h

theorem execFfwCommitRequest_ok (h : OK W q I s) (a0) : OKo W q I (execFfwCommitRequest a0 s) := by
  unfold execFfwCommitRequest
  refine OKo.next ?_
  refine State.enqueue_ok ?_ ..
  exact h

theorem State.commitFfw_ok (h : OK W q I s) (a1) : OK W q I (State.commitFfw s a1) := by
  unfold State.commitFfw
  extract_lets +onlyGivenNames -merge -useContext -underBinder x1
  have hx1 : OK W q I x1 := by
    unfold x1
    refine State.put_ok ?_ ..
    exact h
  extract_lets +onlyGivenNames -merge -useContext -underBinder x2
  have hx2 : OK W q I x2 := by
    unfold x2
    refine State.setFlag_ok ?_ ..
    exact hx1
  refine State.formCrc_ok ?_ ..
  refine State.setZoneFf_ok ?_ ..
  exact hx2

theorem execFfwCommitApply_ok (h : OK W q I s) (a0) : OKo W q I (execFfwCommitApply a0 s) := by
  unfold execFfwCommitApply
  refine OKo.next ?_
  refine OK.ite (fun _ => ?_) (fun _ => ?_)
  · refine State.commitFfw_ok ?_ ..
    exact h
  · exact h

theorem State.swarmTick_ok (h : OK W q I s) : OK W q I (State.swarmTick s) := by
  unfold State.swarmTick
  extract_lets +onlyGivenNames -merge -useContext -underBinder x1
  extract_lets +onlyGivenNames -merge -useContext -underBinder x2
  extract_lets +onlyGivenNames -merge -useContext -underBinder x3
  extract_lets +onlyGivenNames -merge -useContext -underBinder x4
  have hx4 : OK W q I x4 := by
    unfold x4
    refine State.each_ok (fun _ _ ht5 => ?_) ?_
    · extract_lets +onlyGivenNames -merge -useContext -underBinder x6
      refine State.setLane_ok ?_ ..
      exact ht5
    · exact h
  refine OK.ite (fun _ => ?_) (fun _ => ?_)
  · exact hx4
  · refine State.each_ok (fun _ _ ht7 => ?_) ?_
    · extract_lets +onlyGivenNames -merge -useContext -underBinder x8
      refine State.setZoneFf_ok ?_ ..
      exact ht7
    · exact hx4

theorem State.setGroupCeil_ok (h : OK W q I s) (a1 a2) : OK W q I (State.setGroupCeil s a1 a2) := by
  unfold State.setGroupCeil
  refine OK.dite (fun _ => ?_) (fun _ => ?_)
  · refine OK.upd' ?_ rfl rfl rfl rfl
    exact h
  · exact h

theorem State.setZoneCeil_ok (h : OK W q I s) (a1 a2) : OK W q I (State.setZoneCeil s a1 a2) := by
  unfold State.setZoneCeil
  refine OK.dite (fun _ => ?_) (fun _ => ?_)
  · refine OK.upd' ?_ rfl rfl rfl rfl
    exact h
  · exact h

theorem State.setLine_ok (h : OK W q I s) (a1 a2) : OK W q I (State.setLine s a1 a2) := by
  unfold State.setLine
  refine OK.upd' ?_ rfl rfl rfl rfl
  exact h

theorem State.driveZone_ok (h : OK W q I s) (a1) : OK W q I (State.driveZone s a1) := by
  unfold State.driveZone
  refine State.setLine_ok ?_ ..
  refine State.setFlag_ok ?_ ..
  refine State.setFlag_ok ?_ ..
  refine State.setFlag_ok ?_ ..
  refine State.setFlag_ok ?_ ..
  exact h

theorem State.driveThrottle_ok (h : OK W q I s) : OK W q I (State.driveThrottle s) := by
  unfold State.driveThrottle
  refine OK.foldl (fun _ _ ht1 => ?_) ?_
  · refine State.driveZone_ok ?_ ..
    exact ht1
  · exact h

theorem State.throttleTick_ok (h : OK W q I s) : OK W q I (State.throttleTick s) := by
  unfold State.throttleTick
  extract_lets +onlyGivenNames -merge -useContext -underBinder x1
  extract_lets +onlyGivenNames -merge -useContext -underBinder x2
  refine OK.upd' ?_ rfl rfl rfl rfl
  exact h

theorem State.startSources_ok (h : OK W q I s) : OK W q I (State.startSources s) := by
  unfold State.startSources
  refine OK.upd' ?_ rfl rfl rfl rfl
  exact h

theorem State.throttleStart_ok (h : OK W q I s) : OK W q I (State.throttleStart s) := by
  unfold State.throttleStart
  refine State.driveThrottle_ok ?_ ..
  refine State.startSources_ok ?_ ..
  exact h

theorem State.setExt_ok (h : OK W q I s) (a1) : OK W q I (State.setExt s a1) := by
  unfold State.setExt
  refine OK.upd' ?_ rfl rfl rfl rfl
  exact h

theorem execExtAlert_ok (h : OK W q I s) : OKo W q I (execExtAlert s) := by
  unfold execExtAlert
  refine OKo.next ?_
  refine OK.ite (fun _ => ?_) (fun _ => ?_)
  · refine State.driveThrottle_ok ?_ ..
    refine State.setExt_ok ?_ ..
    exact h
  · refine OK.ite (fun _ => ?_) (fun _ => ?_)
    · refine State.driveThrottle_ok ?_ ..
      refine State.setExt_ok ?_ ..
      exact h
    · exact h

theorem State.endSources_ok (h : OK W q I s) (a1) : OK W q I (State.endSources s a1) := by
  unfold State.endSources
  refine OK.upd' ?_ rfl rfl rfl rfl
  exact h

theorem execThrottleRelease_ok (h : OK W q I s) (a0) : OKo W q I (execThrottleRelease a0 s) := by
  unfold execThrottleRelease
  refine OKo.next ?_
  refine State.driveThrottle_ok ?_ ..
  refine State.endSources_ok ?_ ..
  exact h

theorem State.showGroup_ok (h : OK W q I s) (a1) : OK W q I (State.showGroup s a1) := by
  unfold State.showGroup
  extract_lets +onlyGivenNames -merge -useContext -underBinder x1
  refine State.setFlag_ok ?_ ..
  refine State.setFlag_ok ?_ ..
  refine State.put_ok ?_ ..
  refine State.put_ok ?_ ..
  exact h

theorem State.holdGroup_ok (h : OK W q I s) (a0 a1) : OK W q I (State.holdGroup a0 a1 s) := by
  unfold State.holdGroup
  refine State.showGroup_ok ?_ ..
  refine State.setGroupCeil_ok ?_ ..
  exact h

theorem State.holdZone_ok (h : OK W q I s) (a0 a1) : OK W q I (State.holdZone a0 a1 s) := by
  unfold State.holdZone
  refine State.setZoneCeil_ok ?_ ..
  exact h

theorem State.holdCeilings_ok (h : OK W q I s) : OK W q I (State.holdCeilings s) := by
  unfold State.holdCeilings
  refine State.each_ok (fun _ _ ht1 => ?_) ?_
  · refine State.holdZone_ok ?_ ..
    exact ht1
  · refine State.each_ok (fun _ _ ht2 => ?_) ?_
    · refine State.holdGroup_ok ?_ ..
      exact ht2
    · exact h

theorem State.droopEnd_ok (h : OK W q I s) : OK W q I (State.droopEnd s) := by
  unfold State.droopEnd
  refine State.holdCeilings_ok ?_ ..
  refine OK.upd' ?_ rfl rfl rfl rfl
  exact h

theorem State.lowerGroup_ok (h : OK W q I s) (a0 a1) : OK W q I (State.lowerGroup a0 a1 s) := by
  unfold State.lowerGroup
  refine State.setGroupCeil_ok ?_ ..
  exact h

theorem State.lowerZone_ok (h : OK W q I s) (a0 a1) : OK W q I (State.lowerZone a0 a1 s) := by
  unfold State.lowerZone
  refine State.setZoneCeil_ok ?_ ..
  exact h

theorem State.keepConds_ok (h : OK W q I s) : OK W q I (State.keepConds s) := by
  unfold State.keepConds
  refine OK.upd' ?_ rfl rfl rfl rfl
  exact h

theorem State.callUrgent_ok (h : OK W q I s) (a1) : OK W q I (State.callUrgent s a1) := by
  unfold State.callUrgent
  refine OK.upd' ?_ rfl rfl rfl rfl
  exact h

theorem State.droopLower_ok (h : OK W q I s) (a1) : OK W q I (State.droopLower s a1) := by
  unfold State.droopLower
  refine State.holdCeilings_ok ?_ ..
  refine State.callUrgent_ok ?_ ..
  refine State.each_ok (fun _ _ ht1 => ?_) ?_
  · refine State.lowerZone_ok ?_ ..
    exact ht1
  · refine State.each_ok (fun _ _ ht2 => ?_) ?_
    · refine State.lowerGroup_ok ?_ ..
      exact ht2
    · refine State.keepConds_ok ?_ ..
      exact h

theorem execDroopResponse_ok (h : OK W q I s) : OKo W q I (execDroopResponse s) := by
  unfold execDroopResponse
  refine OKo.next ?_
  refine State.droopLower_ok ?_ ..
  refine State.throttleStart_ok ?_ ..
  exact h

theorem State.formFactors_ok (h : OK W q I s) : OK W q I (State.formFactors s) := by
  unfold State.formFactors
  refine OK.upd' ?_ rfl rfl rfl rfl
  exact h

theorem execCeilingCompute_ok (h : OK W q I s) : OKo W q I (execCeilingCompute s) := by
  unfold execCeilingCompute
  refine OKo.next ?_
  refine OK.ite (fun _ => ?_) (fun _ => ?_)
  · exact h
  · refine OK.ite (fun _ => ?_) (fun _ => ?_)
    · refine State.formFactors_ok ?_ ..
      exact h
    · refine State.over_ok (fun _ _ ht1 => ?_) ?_
      · refine State.enqueue_ok ?_ ..
        exact ht1
      · refine State.formFactors_ok ?_ ..
        exact h

theorem State.latchGroup_ok (h : OK W q I s) (a0 a1) : OK W q I (State.latchGroup a0 a1 s) := by
  unfold State.latchGroup
  refine State.showGroup_ok ?_ ..
  refine State.setGroupCeil_ok ?_ ..
  exact h

theorem State.latchZone_ok (h : OK W q I s) (a0) : OK W q I (State.latchZone a0 s) := by
  unfold State.latchZone
  refine State.setZoneCeil_ok ?_ ..
  exact h

theorem State.formAllow_ok (h : OK W q I s) : OK W q I (State.formAllow s) := by
  unfold State.formAllow
  refine OK.upd' ?_ rfl rfl rfl rfl
  exact h

theorem execCeilingLatch_ok (h : OK W q I s) : OKo W q I (execCeilingLatch s) := by
  unfold execCeilingLatch
  refine OKo.next ?_
  refine OK.ite (fun _ => ?_) (fun _ => ?_)
  · refine State.formAllow_ok ?_ ..
    refine State.each_ok (fun _ _ ht1 => ?_) ?_
    · refine State.latchZone_ok ?_ ..
      exact ht1
    · refine State.each_ok (fun _ _ ht2 => ?_) ?_
      · refine State.latchGroup_ok ?_ ..
        exact ht2
      · exact h
  · exact h

theorem State.shareGroup_ok (h : OK W q I s) (a0 a1) : OK W q I (State.shareGroup a0 a1 s) := by
  unfold State.shareGroup
  refine State.showGroup_ok ?_ ..
  refine State.setGroupCeil_ok ?_ ..
  exact h

theorem execShareArbitration_ok (h : OK W q I s) (a0) : OKo W q I (execShareArbitration a0 s) := by
  unfold execShareArbitration
  refine OKo.next ?_
  refine State.each_ok (fun _ _ ht1 => ?_) ?_
  · refine State.shareGroup_ok ?_ ..
    exact ht1
  · exact h

theorem State.sendCeil_ok (h : OK W q I s) (a1 a2) : OK W q I (State.sendCeil s a1 a2) := by
  unfold State.sendCeil
  extract_lets +onlyGivenNames -merge -useContext -underBinder x1
  extract_lets +onlyGivenNames -merge -useContext -underBinder x2
  have hx2 : OK W q I x2 := by
    unfold x2
    refine OK.upd' ?_ rfl rfl rfl rfl
    exact h
  refine State.put_ok ?_ ..
  refine State.setFlag_ok ?_ ..
  refine State.put_ok ?_ ..
  exact hx2

theorem State.ceilLane_ok (h : OK W q I s) (a1) : OK W q I (State.ceilLane s a1) := by
  unfold State.ceilLane
  refine OK.ite (fun _ => ?_) (fun _ => ?_)
  · refine State.sendCeil_ok ?_ ..
    exact h
  · exact h

theorem execCeilSend_ok (h : OK W q I s) : OKo W q I (execCeilSend s) := by
  unfold execCeilSend
  refine OKo.next ?_
  refine OK.ite (fun _ => ?_) (fun _ => ?_)
  · refine OK.foldl (fun _ _ ht1 => ?_) ?_
    · refine State.ceilLane_ok ?_ ..
      exact ht1
    · refine State.atCycle_ok ?_ ..
      exact h
  · exact h

theorem State.sendUrgent_ok (h : OK W q I s) : OK W q I (State.sendUrgent s) := by
  unfold State.sendUrgent
  refine OK.foldl (fun _ _ ht1 => ?_) ?_
  · refine OK.ite (fun _ => ?_) (fun _ => ?_)
    · refine State.sendCeil_ok ?_ ..
      exact ht1
    · exact ht1
  · exact h

theorem State.ceilingTick_ok (h : OK W q I s) : OK W q I (State.ceilingTick s) := by
  unfold State.ceilingTick
  extract_lets +onlyGivenNames -merge -useContext -underBinder x1
  extract_lets +onlyGivenNames -merge -useContext -underBinder x2
  have hx2 : OK W q I x2 := by
    unfold x2
    refine OK.upd' ?_ rfl rfl rfl rfl
    exact h
  refine OK.ite (fun _ => ?_) (fun _ => ?_)
  · exact hx2
  · refine OK.upd' (s := x2) ?_ rfl rfl rfl rfl
    exact hx2

theorem State.ceilingEnd_ok (h : OK W q I s) : OK W q I (State.ceilingEnd s) := by
  unfold State.ceilingEnd
  refine OK.upd' ?_ rfl rfl rfl rfl
  exact h

theorem State.hamperArm_ok (h : OK W q I s) : OK W q I (State.hamperArm s) := by
  unfold State.hamperArm
  extract_lets +onlyGivenNames -merge -useContext -underBinder x1
  extract_lets +onlyGivenNames -merge -useContext -underBinder x2
  extract_lets +onlyGivenNames -merge -useContext -underBinder x3
  extract_lets +onlyGivenNames -merge -useContext -underBinder x4
  extract_lets +onlyGivenNames -merge -useContext -underBinder x5
  extract_lets +onlyGivenNames -merge -useContext -underBinder x6
  have hx6 : OK W q I x6 := by
    unfold x6
    refine State.put_ok ?_ ..
    refine State.put_ok ?_ ..
    exact h
  extract_lets +onlyGivenNames -merge -useContext -underBinder x7
  have hx7 : OK W q I x7 := by
    unfold x7
    refine State.put_ok ?_ ..
    refine State.put_ok ?_ ..
    refine State.setFlag_ok ?_ ..
    exact hx6
  refine OK.upd' (s := x7) ?_ rfl rfl rfl rfl
  exact hx7

theorem State.hamperDisarm_ok (h : OK W q I s) : OK W q I (State.hamperDisarm s) := by
  unfold State.hamperDisarm
  refine State.put_ok ?_ ..
  exact h

theorem execHmpArm_ok (h : OK W q I s) : OKo W q I (execHmpArm s) := by
  unfold execHmpArm
  refine OKo.next ?_
  refine State.enqueue_ok ?_ ..
  exact h

theorem execHmpDisarm_ok (h : OK W q I s) : OKo W q I (execHmpDisarm s) := by
  unfold execHmpDisarm
  refine OKo.next ?_
  refine State.enqueue_ok ?_ ..
  exact h

theorem execForceTrig_ok (h : OK W q I s) : OKo W q I (execForceTrig s) := by
  unfold execForceTrig
  refine OKo.next ?_
  refine State.enqueue_ok ?_ ..
  exact h

theorem State.hamperRecord_ok (h : OK W q I s) : OK W q I (State.hamperRecord s) := by
  unfold State.hamperRecord
  extract_lets +onlyGivenNames -merge -useContext -underBinder x1
  extract_lets +onlyGivenNames -merge -useContext -underBinder x2
  refine OK.ite (fun _ => ?_) (fun _ => ?_)
  · exact h
  · refine OK.ite (fun _ => ?_) (fun _ => ?_)
    · refine OK.upd' ?_ rfl rfl rfl rfl
      exact h
    · extract_lets +onlyGivenNames -merge -useContext -underBinder x3
      refine OK.ite (fun _ => ?_) (fun _ => ?_)
      · extract_lets +onlyGivenNames -merge -useContext -underBinder x4
        refine State.put_ok ?_ ..
        refine OK.upd' ?_ rfl rfl rfl rfl
        exact h
      · refine OK.ite (fun _ => ?_) (fun _ => ?_)
        · extract_lets +onlyGivenNames -merge -useContext -underBinder x5
          have hx5 : OK W q I x5 := by
            unfold x5
            refine OK.ite (fun _ => ?_) (fun _ => ?_)
            · refine State.put64_ok ?_ ..
              exact h
            · exact h
          refine OK.upd' (s := x5) ?_ rfl rfl rfl rfl
          exact hx5
        · exact h

theorem State.hamperFrame_ok (h : OK W q I s) : OK W q I (State.hamperFrame s) := by
  unfold State.hamperFrame
  extract_lets +onlyGivenNames -merge -useContext -underBinder x1
  extract_lets +onlyGivenNames -merge -useContext -underBinder x2
  have hx2 : OK W q I x2 := by
    unfold x2
    refine OK.ite (fun _ => ?_) (fun _ => ?_)
    · refine State.put_ok ?_ ..
      refine OK.upd' ?_ rfl rfl rfl rfl
      exact h
    · exact h
  extract_lets +onlyGivenNames -merge -useContext -underBinder x3
  have hx3 : OK W q I x3 := by
    unfold x3
    refine State.hamperRecord_ok ?_ ..
    exact hx2
  refine OK.upd' (s := x3) ?_ rfl rfl rfl rfl
  exact hx3

theorem execHamperCaptureDone_ok (h : OK W q I s) : OKo W q I (execHamperCaptureDone s) := by
  unfold execHamperCaptureDone
  refine OKo.next ?_
  refine OK.ite (fun _ => ?_) (fun _ => ?_)
  · refine State.put_ok ?_ ..
    exact h
  · exact h

theorem State.takeEdge_ok (h : OK W q I s) (a1) : OK W q I (State.takeEdge s a1) := by
  unfold State.takeEdge
  extract_lets +onlyGivenNames -merge -useContext -underBinder x1
  have hx1 : OK W q I x1 := by
    unfold x1
    refine State.put_ok ?_ ..
    exact h
  refine OK.upd' (s := x1) ?_ rfl rfl rfl rfl
  exact hx1

theorem execSyncInEdge_ok (h : OK W q I s) (a0) : OKo W q I (execSyncInEdge a0 s) := by
  unfold execSyncInEdge
  refine OKo.next ?_
  extract_lets +onlyGivenNames -merge -useContext -underBinder x1
  have hx1 : OK W q I x1 := by
    unfold x1
    refine State.atCycle_ok ?_ ..
    exact h
  refine OK.ite (fun _ => ?_) (fun _ => ?_)
  · refine State.takeEdge_ok ?_ ..
    exact hx1
  · exact hx1

theorem execAlignmentLocked_ok (h : OK W q I s) : OKo W q I (execAlignmentLocked s) := by
  unfold execAlignmentLocked
  refine OKo.next ?_
  refine OK.ite (fun _ => ?_) (fun _ => ?_)
  · refine State.put_ok ?_ ..
    exact h
  · exact h

theorem execAlignmentStep_ok (h : OK W q I s) : OKo W q I (execAlignmentStep s) := by
  unfold execAlignmentStep
  refine OKo.next ?_
  split
  · exact h
  · refine OK.ite (fun _ => ?_) (fun _ => ?_)
    · extract_lets +onlyGivenNames -merge -useContext -underBinder x1
      extract_lets +onlyGivenNames -merge -useContext -underBinder x2
      refine State.setFlag_ok ?_ ..
      refine OK.upd' ?_ rfl rfl rfl rfl
      exact h
    · exact h

theorem execHoldoverEntry_ok (h : OK W q I s) : OKo W q I (execHoldoverEntry s) := by
  unfold execHoldoverEntry
  refine OKo.next ?_
  refine OK.ite (fun _ => ?_) (fun _ => ?_)
  · extract_lets +onlyGivenNames -merge -useContext -underBinder x1
    have hx1 : OK W q I x1 := by
      unfold x1
      refine State.setFlag_ok ?_ ..
      refine State.put_ok ?_ ..
      exact h
    refine State.record_ok ?_ ..
    refine OK.upd' (s := x1) ?_ rfl rfl rfl rfl
    exact hx1
  · exact h

theorem execHoldoverExit_ok (h : OK W q I s) : OKo W q I (execHoldoverExit s) := by
  unfold execHoldoverExit
  refine OKo.next ?_
  refine OK.ite (fun _ => ?_) (fun _ => ?_)
  · refine State.put_ok ?_ ..
    refine OK.upd' ?_ rfl rfl rfl rfl
    exact h
  · exact h

theorem execSyncConfigWrite_ok (h : OK W q I s) (a0 a1) : OKo W q I (execSyncConfigWrite a0 a1 s) := by
  unfold execSyncConfigWrite
  refine OKo.next ?_
  refine State.enqueue_ok ?_ ..
  exact h

theorem State.alignTick_ok (h : OK W q I s) : OK W q I (State.alignTick s) := by
  unfold State.alignTick
  refine OK.ite (fun _ => ?_) (fun _ => ?_)
  · refine State.put_ok ?_ ..
    refine OK.upd' ?_ rfl rfl rfl rfl
    exact h
  · exact h

theorem State.holdoverTarget_ok (h : OK W q I s) (a1) : OK W q I (State.holdoverTarget s a1) := by
  unfold State.holdoverTarget
  split
  · refine OK.ite (fun _ => ?_) (fun _ => ?_)
    · refine OK.upd' ?_ rfl rfl rfl rfl
      exact h
    · exact h
  · exact h

theorem execStageReleased_ok (h : OK W q I s) (a0) : OKo W q I (execStageReleased a0 s) := by
  unfold execStageReleased
  refine OKo.next ?_
  refine OK.ite (fun _ => ?_) (fun _ => ?_)
  · refine OK.upd' ?_ rfl rfl rfl rfl
    exact h
  · exact h

theorem State.latchShadow_ok (h : OK W q I s) (a1 a2) : OK W q I (State.latchShadow s a1 a2) := by
  unfold State.latchShadow
  refine OK.ite (fun _ => ?_) (fun _ => ?_)
  · refine OK.upd' ?_ rfl rfl rfl rfl
    exact h
  · exact h

theorem execLowWordRead_ok (h : OK W q I s) (a0 a1) : OKo W q I (execLowWordRead a0 a1 s) := by
  unfold execLowWordRead
  refine OKo.next ?_
  refine State.latchShadow_ok ?_ ..
  exact h

theorem State.setStl_ok (h : OK W q I s) (a1 a2) : OK W q I (State.setStl s a1 a2) := by
  unfold State.setStl
  refine OK.upd' ?_ rfl rfl rfl rfl
  exact h

theorem State.enterTele_ok (h : OK W q I s) (a1 a2) : OK W q I (State.enterTele s a1 a2) := by
  unfold State.enterTele
  extract_lets +onlyGivenNames -merge -useContext -underBinder x1
  extract_lets +onlyGivenNames -merge -useContext -underBinder x2
  have hx2 : OK W q I x2 := by
    unfold x2
    refine State.setStl_ok ?_ ..
    exact h
  refine OK.upd' (s := x2) ?_ rfl rfl rfl rfl
  exact hx2

theorem execStageTelemetry_ok (h : OK W q I s) (a0 a1 a2 a3) : OKo W q I (execStageTelemetry a0 a1 a2 a3 s) := by
  unfold execStageTelemetry
  refine OKo.next ?_
  extract_lets +onlyGivenNames -merge -useContext -underBinder x1
  have hx1 : OK W q I x1 := by
    unfold x1
    refine State.atCycle_ok ?_ ..
    exact h
  refine OK.ite (fun _ => ?_) (fun _ => ?_)
  · exact hx1
  · refine OK.ite (fun _ => ?_) (fun _ => ?_)
    · refine State.bump_ok ?_ ..
      exact hx1
    · refine State.enterTele_ok ?_ ..
      exact hx1

theorem State.adoptDecl_ok (h : OK W q I s) (a1 a2) : OK W q I (State.adoptDecl s a1 a2) := by
  unfold State.adoptDecl
  extract_lets +onlyGivenNames -merge -useContext -underBinder x1
  extract_lets +onlyGivenNames -merge -useContext -underBinder x2
  extract_lets +onlyGivenNames -merge -useContext -underBinder x3
  have hx3 : OK W q I x3 := by
    unfold x3
    refine OK.ite (fun _ => ?_) (fun _ => ?_)
    · refine State.wr_ok ?_ ..
      exact h
    · exact h
  refine State.setStl_ok ?_ ..
  exact hx3

theorem State.takeTele_ok (h : OK W q I s) (a1 a2 a3) : OK W q I (State.takeTele s a1 a2 a3) := by
  unfold State.takeTele
  extract_lets +onlyGivenNames -merge -useContext -underBinder x1
  extract_lets +onlyGivenNames -merge -useContext -underBinder x2
  split
  · extract_lets +onlyGivenNames -merge -useContext -underBinder x3
    extract_lets +onlyGivenNames -merge -useContext -underBinder x4
    have hx4 : OK W q I x4 := by
      unfold x4
      refine OK.upd' ?_ rfl rfl rfl rfl
      exact h
    refine State.setFlag_ok ?_ ..
    refine State.adoptDecl_ok ?_ ..
    exact hx4
  · extract_lets +onlyGivenNames -merge -useContext -underBinder x5
    extract_lets +onlyGivenNames -merge -useContext -underBinder x6
    have hx6 : OK W q I x6 := by
      unfold x6
      refine OK.upd' ?_ rfl rfl rfl rfl
      exact h
    extract_lets +onlyGivenNames -merge -useContext -underBinder x7
    have hx7 : OK W q I x7 := by
      unfold x7
      refine OK.ite (fun _ => ?_) (fun _ => ?_)
      · refine State.bump_ok ?_ ..
        exact hx6
      · exact hx6
    extract_lets +onlyGivenNames -merge -useContext -underBinder x8
    extract_lets +onlyGivenNames -merge -useContext -underBinder x9
    extract_lets +onlyGivenNames -merge -useContext -underBinder x10
    have hx10 : OK W q I x10 := by
      unfold x10
      refine OK.upd' (s := x7) ?_ rfl rfl rfl rfl
      exact hx7
    refine State.setFlag_ok ?_ ..
    exact hx10

theorem State.takeTelemetry_ok (h : OK W q I s) : OK W q I (State.takeTelemetry s) := by
  unfold State.takeTelemetry
  extract_lets +onlyGivenNames -merge -useContext -underBinder x1
  extract_lets +onlyGivenNames -merge -useContext -underBinder x2
  try clear_value x2
  refine OK.foldl (fun _ _ ht3 => ?_) ?_
  · extract_lets +onlyGivenNames -merge -useContext -underBinder x4
    refine State.takeTele_ok ?_ ..
    exact ht3
  · exact h

theorem State.stageLost_ok (h : OK W q I s) (a1) : OK W q I (State.stageLost s a1) := by
  unfold State.stageLost
  refine State.record_ok ?_ ..
  refine State.fenceUnit_ok ?_ ..
  exact h

theorem execStageUnreach_ok (h : OK W q I s) (a0) : OKo W q I (execStageUnreach a0 s) := by
  unfold execStageUnreach
  refine OKo.next ?_
  refine OK.ite (fun _ => ?_) (fun _ => ?_)
  · refine State.stageLost_ok ?_ ..
    exact h
  · exact h

theorem State.stageAttempt_ok (h : OK W q I s) (a1 a2) : OK W q I (State.stageAttempt s a1 a2) := by
  unfold State.stageAttempt
  refine State.put_ok ?_ ..
  refine State.bump_ok ?_ ..
  exact h

theorem State.stageFailed_ok (h : OK W q I s) (a1 a2) : OK W q I (State.stageFailed s a1 a2) := by
  unfold State.stageFailed
  refine State.put_ok ?_ ..
  refine State.put_ok ?_ ..
  exact h

theorem State.stageWords_ok (h : OK W q I s) (a1 a2) : OK W q I (State.stageWords s a1 a2) := by
  unfold State.stageWords
  refine OK.foldl (fun _ _ ht1 => ?_) ?_
  · refine State.wr_ok ?_ ..
    exact ht1
  · exact h

theorem State.stageTrained_ok (h : OK W q I s) (a1 a2) : OK W q I (State.stageTrained s a1 a2) := by
  unfold State.stageTrained
  extract_lets +onlyGivenNames -merge -useContext -underBinder x1
  extract_lets +onlyGivenNames -merge -useContext -underBinder x2
  have hx2 : OK W q I x2 := by
    unfold x2
    refine State.setStl_ok ?_ ..
    exact h
  refine OK.upd' (s := x2) ?_ rfl rfl rfl rfl
  exact hx2

theorem State.stageUp_ok (h : OK W q I s) (a1 a2 a3) : OK W q I (State.stageUp s a1 a2 a3) := by
  unfold State.stageUp
  extract_lets +onlyGivenNames -merge -useContext -underBinder x1
  have hx1 : OK W q I x1 := by
    unfold x1
    refine State.setFlag_ok ?_ ..
    refine State.put_ok ?_ ..
    exact h
  refine State.stageTrained_ok ?_ ..
  refine State.stageWords_ok ?_ ..
  refine State.put_ok ?_ ..
  exact hx1

theorem State.trainStage_ok (h : OK W q I s) (a1 a2 a3 a4) : OK W q I (State.trainStage s a1 a2 a3 a4) := by
  unfold State.trainStage
  extract_lets +onlyGivenNames -merge -useContext -underBinder x1
  refine OK.ite (fun _ => ?_) (fun _ => ?_)
  · refine State.stageFailed_ok ?_ ..
    refine State.stageAttempt_ok ?_ ..
    exact h
  · refine State.stageUp_ok ?_ ..
    refine State.stageAttempt_ok ?_ ..
    exact h

theorem State.trayAttempt_ok (h : OK W q I s) (a1 a2) : OK W q I (State.trayAttempt s a1 a2) := by
  unfold State.trayAttempt
  refine State.put_ok ?_ ..
  refine State.bump_ok ?_ ..
  exact h

theorem State.trayFailed_ok (h : OK W q I s) (a1 a2) : OK W q I (State.trayFailed s a1 a2) := by
  unfold State.trayFailed
  refine State.put_ok ?_ ..
  refine State.put_ok ?_ ..
  exact h

theorem State.trayUp_ok (h : OK W q I s) (a1 a2) : OK W q I (State.trayUp s a1 a2) := by
  unfold State.trayUp
  extract_lets +onlyGivenNames -merge -useContext -underBinder x1
  have hx1 : OK W q I x1 := by
    unfold x1
    refine State.put_ok ?_ ..
    refine State.put_ok ?_ ..
    exact h
  extract_lets +onlyGivenNames -merge -useContext -underBinder x2
  extract_lets +onlyGivenNames -merge -useContext -underBinder x3
  have hx3 : OK W q I x3 := by
    unfold x3
    refine OK.upd' (s := x1) ?_ rfl rfl rfl rfl
    exact hx1
  refine State.setLane_ok ?_ ..
  exact hx3

theorem State.trainTray_ok (h : OK W q I s) (a1 a2 a3 a4) : OK W q I (State.trainTray s a1 a2 a3 a4) := by
  unfold State.trainTray
  refine OK.ite (fun _ => ?_) (fun _ => ?_)
  · refine State.trayFailed_ok ?_ ..
    refine State.trayAttempt_ok ?_ ..
    exact h
  · refine State.trayUp_ok ?_ ..
    refine State.trayAttempt_ok ?_ ..
    exact h

theorem execLaneTraining_ok (h : OK W q I s) (a0 a1 a2 a3 a4) : OKo W q I (execLaneTraining a0 a1 a2 a3 a4 s) := by
  unfold execLaneTraining
  refine OKo.next ?_
  refine OK.ite (fun _ => ?_) (fun _ => ?_)
  · exact h
  · refine OK.dite (fun _ => ?_) (fun _ => ?_)
    · extract_lets +onlyGivenNames -merge -useContext -underBinder x1
      refine OK.ite (fun _ => ?_) (fun _ => ?_)
      · exact h
      · refine State.trainStage_ok ?_ ..
        exact h
    · extract_lets +onlyGivenNames -merge -useContext -underBinder x2
      refine OK.ite (fun _ => ?_) (fun _ => ?_)
      · exact h
      · refine State.trainTray_ok ?_ ..
        exact h

theorem execLaneSilent_ok (h : OK W q I s) (a0) : OKo W q I (execLaneSilent a0 s) := by
  unfold execLaneSilent
  refine OKo.next ?_
  refine OK.dite (fun _ => ?_) (fun _ => ?_)
  · extract_lets +onlyGivenNames -merge -useContext -underBinder x1
    extract_lets +onlyGivenNames -merge -useContext -underBinder x2
    refine OK.ite (fun _ => ?_) (fun _ => ?_)
    · refine State.put_ok ?_ ..
      exact h
    · exact h
  · extract_lets +onlyGivenNames -merge -useContext -underBinder x3
    extract_lets +onlyGivenNames -merge -useContext -underBinder x4
    refine OK.ite (fun _ => ?_) (fun _ => ?_)
    · refine State.put_ok ?_ ..
      exact h
    · exact h

theorem execLaneRetrain_ok (h : OK W q I s) (a0) : OKo W q I (execLaneRetrain a0 s) := by
  unfold execLaneRetrain
  refine OKo.next ?_
  refine State.enqueue_ok ?_ ..
  exact h

theorem State.trainLock_ok (h : OK W q I s) (a1 a2) : OK W q I (State.trainLock s a1 a2) := by
  unfold State.trainLock
  extract_lets +onlyGivenNames -merge -useContext -underBinder x1
  have hx1 : OK W q I x1 := by
    unfold x1
    refine State.put_ok ?_ ..
    exact h
  extract_lets +onlyGivenNames -merge -useContext -underBinder x2
  have hx2 : OK W q I x2 := by
    unfold x2
    refine OK.ite (fun _ => ?_) (fun _ => ?_)
    · exact hx1
    · refine State.put_ok ?_ ..
      exact hx1
  extract_lets +onlyGivenNames -merge -useContext -underBinder x3
  extract_lets +onlyGivenNames -merge -useContext -underBinder x4
  have hx4 : OK W q I x4 := by
    unfold x4
    refine OK.upd' (s := x2) ?_ rfl rfl rfl rfl
    exact hx2
  refine OK.ite (fun _ => ?_) (fun _ => ?_)
  · refine State.put_ok ?_ ..
    refine State.put_ok ?_ ..
    exact hx4
  · refine State.put_ok ?_ ..
    exact hx4

theorem execLockTraining_ok (h : OK W q I s) (a0 a1 a2) : OKo W q I (execLockTraining a0 a1 a2 s) := by
  unfold execLockTraining
  refine OKo.next ?_
  refine OK.ite (fun _ => ?_) (fun _ => ?_)
  · exact h
  · refine State.trainLock_ok ?_ ..
    exact h

theorem State.linkTick_ok (h : OK W q I s) : OK W q I (State.linkTick s) := by
  unfold State.linkTick
  extract_lets +onlyGivenNames -merge -useContext -underBinder x1
  have hx1 : OK W q I x1 := by
    unfold x1
    refine OK.foldl (fun _ _ ht2 => ?_) ?_
    · extract_lets +onlyGivenNames -merge -useContext -underBinder x3
      extract_lets +onlyGivenNames -merge -useContext -underBinder x4
      extract_lets +onlyGivenNames -merge -useContext -underBinder x5
      have hx5 : OK W q I x5 := by
        unfold x5
        refine State.setFlag_ok ?_ ..
        refine State.put_ok ?_ ..
        refine State.setStl_ok ?_ ..
        exact ht2
      extract_lets +onlyGivenNames -merge -useContext -underBinder x6
      have hx6 : OK W q I x6 := by
        unfold x6
        refine OK.ite (fun _ => ?_) (fun _ => ?_)
        · refine State.setStl_ok ?_ ..
          exact ht2
        · refine State.each_ok (fun _ _ ht7 => ?_) ?_
          · refine State.wr_ok ?_ ..
            exact ht7
          · exact hx5
      extract_lets +onlyGivenNames -merge -useContext -underBinder x8
      refine State.put_ok ?_ ..
      exact hx6
    · exact h
  extract_lets +onlyGivenNames -merge -useContext -underBinder x9
  have hx9 : OK W q I x9 := by
    unfold x9
    refine OK.foldl (fun _ _ ht10 => ?_) ?_
    · extract_lets +onlyGivenNames -merge -useContext -underBinder x11
      extract_lets +onlyGivenNames -merge -useContext -underBinder x12
      extract_lets +onlyGivenNames -merge -useContext -underBinder x13
      extract_lets +onlyGivenNames -merge -useContext -underBinder x14
      extract_lets +onlyGivenNames -merge -useContext -underBinder x15
      have hx15 : OK W q I x15 := by
        unfold x15
        refine OK.upd' ?_ rfl rfl rfl rfl
        exact ht10
      extract_lets +onlyGivenNames -merge -useContext -underBinder x16
      have hx16 : OK W q I x16 := by
        unfold x16
        refine State.setLane_ok ?_ ..
        exact hx15
      extract_lets +onlyGivenNames -merge -useContext -underBinder x17
      have hx17 : OK W q I x17 := by
        unfold x17
        refine OK.ite (fun _ => ?_) (fun _ => ?_)
        · exact hx16
        · refine State.put_ok ?_ ..
          exact hx16
      refine State.put_ok ?_ ..
      exact hx17
    · exact hx1
  extract_lets +onlyGivenNames -merge -useContext -underBinder x18
  extract_lets +onlyGivenNames -merge -useContext -underBinder x19
  have hx19 : OK W q I x19 := by
    unfold x19
    refine State.put_ok ?_ ..
    exact hx9
  extract_lets +onlyGivenNames -merge -useContext -underBinder x20
  extract_lets +onlyGivenNames -merge -useContext -underBinder x21
  extract_lets +onlyGivenNames -merge -useContext -underBinder x22
  have hx22 : OK W q I x22 := by
    unfold x22
    refine OK.upd' (s := x19) ?_ rfl rfl rfl rfl
    exact hx19
  refine State.put_ok ?_ ..
  exact hx22

theorem State.testStages_ok (h : OK W q I s) (a1 a2) : OK W q I (State.testStages s a1 a2) := by
  unfold State.testStages
  refine OK.foldl (fun _ _ ht1 => ?_) ?_
  · refine State.put_ok ?_ ..
    exact ht1
  · exact h

theorem State.testTrays_ok (h : OK W q I s) (a1 a2) : OK W q I (State.testTrays s a1 a2) := by
  unfold State.testTrays
  refine OK.foldl (fun _ _ ht1 => ?_) ?_
  · refine State.put_ok ?_ ..
    exact ht1
  · exact h

theorem State.testLock_ok (h : OK W q I s) (a1 a2) : OK W q I (State.testLock s a1 a2) := by
  unfold State.testLock
  refine State.put_ok ?_ ..
  exact h

theorem State.testLanes_ok (h : OK W q I s) (a1) : OK W q I (State.testLanes s a1) := by
  unfold State.testLanes
  extract_lets +onlyGivenNames -merge -useContext -underBinder x1
  extract_lets +onlyGivenNames -merge -useContext -underBinder x2
  have hx2 : OK W q I x2 := by
    unfold x2
    refine OK.ite (fun _ => ?_) (fun _ => ?_)
    · refine State.testTrays_ok ?_ ..
      refine State.testStages_ok ?_ ..
      exact h
    · exact h
  refine OK.ite (fun _ => ?_) (fun _ => ?_)
  · refine State.testLock_ok ?_ ..
    exact hx2
  · exact hx2

theorem State.enterPhase_ok (h : OK W q I s) (a1) : OK W q I (State.enterPhase s a1) := by
  unfold State.enterPhase
  refine OK.upd' ?_ rfl rfl rfl rfl
  exact h

theorem State.startPhase_ok (h : OK W q I s) (a1) : OK W q I (State.startPhase s a1) := by
  unfold State.startPhase
  refine State.testLanes_ok ?_ ..
  refine State.put_ok ?_ ..
  refine State.enterPhase_ok ?_ ..
  exact h

theorem execCommission_ok (h : OK W q I s) : OKo W q I (execCommission s) := by
  unfold execCommission
  refine OKo.next ?_
  refine OK.ite (fun _ => ?_) (fun _ => ?_)
  · exact h
  · refine State.enqueue_ok ?_ ..
    exact h

theorem execBertAbort_ok (h : OK W q I s) : OKo W q I (execBertAbort s) := by
  unfold execBertAbort
  refine OKo.next ?_
  refine State.enqueue_ok ?_ ..
  exact h

theorem State.bertWrite_ok (h : OK W q I s) (a1 a2) : OK W q I (State.bertWrite s a1 a2) := by
  unfold State.bertWrite
  extract_lets +onlyGivenNames -merge -useContext -underBinder x1
  have hx1 : OK W q I x1 := by
    unfold x1
    refine OK.ite (fun _ => ?_) (fun _ => ?_)
    · refine State.startPhase_ok ?_ ..
      refine State.testLanes_ok ?_ ..
      exact h
    · exact h
  refine OK.ite (fun _ => ?_) (fun _ => ?_)
  · refine State.startPhase_ok ?_ ..
    exact hx1
  · exact hx1

theorem State.judgeStage_ok (h : OK W q I s) (a0 a2) : OK W q I (State.judgeStage a0 s a2) := by
  unfold State.judgeStage
  refine OK.ite (fun _ => ?_) (fun _ => ?_)
  · exact h
  · extract_lets +onlyGivenNames -merge -useContext -underBinder x1
    refine State.setFlag_ok ?_ ..
    refine State.put_ok ?_ ..
    refine State.put_ok ?_ ..
    exact h

theorem State.trayErrors_ok (h : OK W q I s) (a1 a2) : OK W q I (State.trayErrors s a1 a2) := by
  unfold State.trayErrors
  refine State.setFlag_ok ?_ ..
  refine State.wr_ok ?_ ..
  exact h

theorem State.judgeTray_ok (h : OK W q I s) (a0 a2) : OK W q I (State.judgeTray a0 s a2) := by
  unfold State.judgeTray
  refine OK.ite (fun _ => ?_) (fun _ => ?_)
  · exact h
  · extract_lets +onlyGivenNames -merge -useContext -underBinder x1
    refine OK.ite (fun _ => ?_) (fun _ => ?_)
    · refine State.record_ok ?_ ..
      refine State.trayErrors_ok ?_ ..
      exact h
    · refine State.trayErrors_ok ?_ ..
      exact h

theorem State.judgeLanes_ok (h : OK W q I s) (a1) : OK W q I (State.judgeLanes s a1) := by
  unfold State.judgeLanes
  refine OK.foldl (fun _ _ ht1 => ?_) ?_
  · refine State.judgeTray_ok ?_ ..
    exact ht1
  · refine OK.foldl (fun _ _ ht2 => ?_) ?_
    · refine State.judgeStage_ok ?_ ..
      exact ht2
    · exact h

theorem State.judgeLock_ok (h : OK W q I s) (a1) : OK W q I (State.judgeLock s a1) := by
  unfold State.judgeLock
  refine OK.ite (fun _ => ?_) (fun _ => ?_)
  · exact h
  · refine OK.foldl (fun _ _ ht1 => ?_) ?_
    · extract_lets +onlyGivenNames -merge -useContext -underBinder x2
      extract_lets +onlyGivenNames -merge -useContext -underBinder x3
      have hx3 : OK W q I x3 := by
        unfold x3
        refine State.wr_ok ?_ ..
        exact ht1
      refine OK.ite (fun _ => ?_) (fun _ => ?_)
      · refine State.record_ok ?_ ..
        exact hx3
      · exact hx3
    · exact h

theorem State.bertComplete_ok (h : OK W q I s) : OK W q I (State.bertComplete s) := by
  unfold State.bertComplete
  extract_lets +onlyGivenNames -merge -useContext -underBinder x1
  extract_lets +onlyGivenNames -merge -useContext -underBinder x2
  have hx2 : OK W q I x2 := by
    unfold x2
    refine OK.upd' ?_ rfl rfl rfl rfl
    exact h
  refine State.setFlag_ok ?_ ..
  refine State.put_ok ?_ ..
  exact hx2

theorem State.phaseJudged_ok (h : OK W q I s) (a1) : OK W q I (State.phaseJudged s a1) := by
  unfold State.phaseJudged
  refine State.testLanes_ok ?_ ..
  refine State.judgeLock_ok ?_ ..
  refine State.judgeLanes_ok ?_ ..
  exact h

theorem State.nextPhase_ok (h : OK W q I s) (a1) : OK W q I (State.nextPhase s a1) := by
  unfold State.nextPhase
  split
  · refine State.startPhase_ok ?_ ..
    exact h
  · refine OK.ite (fun _ => ?_) (fun _ => ?_)
    · refine State.startPhase_ok ?_ ..
      exact h
    · refine State.bertComplete_ok ?_ ..
      refine State.startPhase_ok ?_ ..
      exact h
  · refine State.bertComplete_ok ?_ ..
    refine State.startPhase_ok ?_ ..
    exact h

theorem execBertPhaseEnd_ok (h : OK W q I s) (a0) : OKo W q I (execBertPhaseEnd a0 s) := by
  unfold execBertPhaseEnd
  refine OKo.next ?_
  refine OK.ite (fun _ => ?_) (fun _ => ?_)
  · exact h
  · refine State.nextPhase_ok ?_ ..
    refine State.phaseJudged_ok ?_ ..
    exact h

theorem State.bertGrant_ok (h : OK W q I s) (a1) : OK W q I (State.bertGrant s a1) := by
  unfold State.bertGrant
  extract_lets +onlyGivenNames -merge -useContext -underBinder x1
  extract_lets +onlyGivenNames -merge -useContext -underBinder x2
  extract_lets +onlyGivenNames -merge -useContext -underBinder x3
  extract_lets +onlyGivenNames -merge -useContext -underBinder x4
  extract_lets +onlyGivenNames -merge -useContext -underBinder x5
  extract_lets +onlyGivenNames -merge -useContext -underBinder x6
  have hx6 : OK W q I x6 := by
    unfold x6
    refine OK.upd' ?_ rfl rfl rfl rfl
    exact h
  refine OK.ite (fun _ => ?_) (fun _ => ?_)
  · refine State.startPhase_ok ?_ ..
    exact hx6
  · exact hx6

theorem State.bertLate_ok (h : OK W q I s) : OK W q I (State.bertLate s) := by
  unfold State.bertLate
  refine State.record_ok ?_ ..
  refine State.setFlag_ok ?_ ..
  exact h

theorem execBertOverdue_ok (h : OK W q I s) : OKo W q I (execBertOverdue s) := by
  unfold execBertOverdue
  refine OKo.next ?_
  refine OK.ite (fun _ => ?_) (fun _ => ?_)
  · refine State.bertLate_ok ?_ ..
    exact h
  · exact h

theorem State.setCore_ok (h : OK W q I s) (a1 a2) : OK W q I (State.setCore s a1 a2) := by
  unfold State.setCore
  refine OK.upd' ?_ rfl rfl rfl rfl
  exact h

theorem State.countCores_ok (h : OK W q I s) : OK W q I (State.countCores s) := by
  unfold State.countCores
  extract_lets +onlyGivenNames -merge -useContext -underBinder x1
  refine State.put_ok ?_ ..
  refine State.put_ok ?_ ..
  refine State.put_ok ?_ ..
  refine State.put_ok ?_ ..
  exact h

theorem State.freeCore_ok (h : OK W q I s) (a1) : OK W q I (State.freeCore s a1) := by
  unfold State.freeCore
  refine State.setCore_ok ?_ ..
  refine State.put_ok ?_ ..
  refine State.put_ok ?_ ..
  exact h

theorem State.fenceCoreNow_ok (h : OK W q I s) (a1 a2) : OK W q I (State.fenceCoreNow s a1 a2) := by
  unfold State.fenceCoreNow
  refine State.countCores_ok ?_ ..
  refine State.setCore_ok ?_ ..
  refine State.put_ok ?_ ..
  refine State.fenceCore_ok ?_ ..
  exact h

theorem State.coreCtrl_ok (h : OK W q I s) (a1 a2 a3) : OK W q I (State.coreCtrl s a1 a2 a3) := by
  unfold State.coreCtrl
  refine OK.ite (fun _ => ?_) (fun _ => ?_)
  · refine OK.ite (fun _ => ?_) (fun _ => ?_)
    · refine State.setCore_ok ?_ ..
      exact h
    · refine State.fenceCoreNow_ok ?_ ..
      exact h
  · refine OK.ite (fun _ => ?_) (fun _ => ?_)
    · refine State.countCores_ok ?_ ..
      refine State.put_ok ?_ ..
      refine State.put_ok ?_ ..
      exact h
    · exact h

theorem State.testRun_ok (h : OK W q I s) (a1 a2) : OK W q I (State.testRun s a1 a2) := by
  unfold State.testRun
  refine OK.ite (fun _ => ?_) (fun _ => ?_)
  · refine OK.ite (fun _ => ?_) (fun _ => ?_)
    · refine State.countCores_ok ?_ ..
      refine State.put_ok ?_ ..
      refine State.setFlag_ok ?_ ..
      exact h
    · exact h
  · refine State.setFlag_ok ?_ ..
    exact h

theorem execCoreFence_ok (h : OK W q I s) (a0) : OKo W q I (execCoreFence a0 s) := by
  unfold execCoreFence
  refine OKo.next ?_
  refine State.enqueue_ok ?_ ..
  exact h

theorem execCoreUnfence_ok (h : OK W q I s) (a0) : OKo W q I (execCoreUnfence a0 s) := by
  unfold execCoreUnfence
  refine OKo.next ?_
  refine State.enqueue_ok ?_ ..
  exact h

theorem execCoreTestStart_ok (h : OK W q I s) (a0) : OKo W q I (execCoreTestStart a0 s) := by
  unfold execCoreTestStart
  refine OKo.next ?_
  refine State.enqueue_ok ?_ ..
  exact h

theorem State.testPassed_ok (h : OK W q I s) (a1) : OK W q I (State.testPassed s a1) := by
  unfold State.testPassed
  refine OK.ite (fun _ => ?_) (fun _ => ?_)
  · refine State.bump_ok ?_ ..
    exact h
  · refine State.countCores_ok ?_ ..
    refine State.put_ok ?_ ..
    refine State.bump_ok ?_ ..
    exact h

theorem State.testFailed_ok (h : OK W q I s) (a1) : OK W q I (State.testFailed s a1) := by
  unfold State.testFailed
  refine State.record_ok ?_ ..
  refine State.fenceCoreNow_ok ?_ ..
  refine State.setFlag_ok ?_ ..
  refine State.setFlag_ok ?_ ..
  exact h

theorem execCoreTestSetEnd_ok (h : OK W q I s) (a0 a1) : OKo W q I (execCoreTestSetEnd a0 a1 s) := by
  unfold execCoreTestSetEnd
  refine OKo.next ?_
  refine OK.ite (fun _ => ?_) (fun _ => ?_)
  · refine OK.ite (fun _ => ?_) (fun _ => ?_)
    · refine State.testPassed_ok ?_ ..
      exact h
    · refine State.testFailed_ok ?_ ..
      exact h
  · exact h

theorem State.seqMark_ok (h : OK W q I s) : OK W q I (State.seqMark s) := by
  unfold State.seqMark
  refine OK.upd' ?_ rfl rfl rfl rfl
  exact h

theorem State.seqEnter_ok (h : OK W q I s) (a1) : OK W q I (State.seqEnter s a1) := by
  unfold State.seqEnter
  refine State.put_ok ?_ ..
  refine State.seqMark_ok ?_ ..
  exact h

theorem State.levelSeen_ok (h : OK W q I s) : OK W q I (State.levelSeen s) := by
  unfold State.levelSeen
  refine OK.upd' ?_ rfl rfl rfl rfl
  exact h

theorem State.seqGo_ok (h : OK W q I s) (a1 a2) : OK W q I (State.seqGo s a1 a2) := by
  unfold State.seqGo
  refine OK.ite (fun _ => ?_) (fun _ => ?_)
  · refine State.seqEnter_ok ?_ ..
    refine State.setFlag_ok ?_ ..
    exact h
  · refine OK.ite (fun _ => ?_) (fun _ => ?_)
    · refine State.seqEnter_ok ?_ ..
      refine State.setFlag_ok ?_ ..
      refine State.put_ok ?_ ..
      exact h
    · refine State.seqEnter_ok ?_ ..
      refine State.setFlag_ok ?_ ..
      exact h

theorem State.showMhz_ok (h : OK W q I s) (a1) : OK W q I (State.showMhz s a1) := by
  unfold State.showMhz
  refine State.put_ok ?_ ..
  exact h

theorem State.seqNext_ok (h : OK W q I s) : OK W q I (State.seqNext s) := by
  unfold State.seqNext
  extract_lets +onlyGivenNames -merge -useContext -underBinder x1
  have hx1 : OK W q I x1 := by
    unfold x1
    refine State.levelSeen_ok ?_ ..
    refine State.seqGo_ok ?_ ..
    exact h
  refine State.showMhz_ok ?_ ..
  exact hx1

theorem State.setEff_ok (h : OK W q I s) (a1 a2 a3 a4) : OK W q I (State.setEff s a1 a2 a3 a4) := by
  unfold State.setEff
  refine State.setFlag_ok ?_ ..
  refine State.setFlag_ok ?_ ..
  refine State.put_ok ?_ ..
  refine State.put_ok ?_ ..
  refine OK.upd' ?_ rfl rfl rfl rfl
  exact h

theorem State.showEff_ok (h : OK W q I s) : OK W q I (State.showEff s) := by
  unfold State.showEff
  refine State.setEff_ok ?_ ..
  exact h

theorem State.noteConflict_ok (h : OK W q I s) (a1) : OK W q I (State.noteConflict s a1) := by
  unfold State.noteConflict
  refine OK.ite (fun _ => ?_) (fun _ => ?_)
  · refine State.record_ok ?_ ..
    exact h
  · exact h

theorem State.seqStart_ok (h : OK W q I s) : OK W q I (State.seqStart s) := by
  unfold State.seqStart
  refine OK.ite (fun _ => ?_) (fun _ => ?_)
  · refine State.seqNext_ok ?_ ..
    exact h
  · exact h

theorem State.updateEff_ok (h : OK W q I s) : OK W q I (State.updateEff s) := by
  unfold State.updateEff
  refine State.seqStart_ok ?_ ..
  refine State.noteConflict_ok ?_ ..
  refine State.showEff_ok ?_ ..
  exact h

theorem State.railRead_ok (h : OK W q I s) (a1 a2) : OK W q I (State.railRead s a1 a2) := by
  unfold State.railRead
  refine State.put_ok ?_ ..
  refine State.atCycle_ok ?_ ..
  exact h

theorem State.seqRisen_ok (h : OK W q I s) : OK W q I (State.seqRisen s) := by
  unfold State.seqRisen
  refine State.seqNext_ok ?_ ..
  refine State.put_ok ?_ ..
  exact h

theorem State.seqFallen_ok (h : OK W q I s) : OK W q I (State.seqFallen s) := by
  unfold State.seqFallen
  refine State.put_ok ?_ ..
  refine State.seqEnter_ok ?_ ..
  exact h

theorem State.seqEnd_ok (h : OK W q I s) (a1) : OK W q I (State.seqEnd s a1) := by
  unfold State.seqEnd
  split
  · refine OK.ite (fun _ => ?_) (fun _ => ?_)
    · refine State.seqEnter_ok ?_ ..
      exact h
    · exact h
  · refine OK.ite (fun _ => ?_) (fun _ => ?_)
    · refine State.seqEnter_ok ?_ ..
      exact h
    · exact h
  · refine OK.ite (fun _ => ?_) (fun _ => ?_)
    · refine State.seqRisen_ok ?_ ..
      exact h
    · exact h
  · refine OK.ite (fun _ => ?_) (fun _ => ?_)
    · refine State.seqFallen_ok ?_ ..
      exact h
    · exact h
  · refine OK.ite (fun _ => ?_) (fun _ => ?_)
    · refine State.seqNext_ok ?_ ..
      exact h
    · exact h
  · exact h

theorem execSequencerPhaseEnd_ok (h : OK W q I s) (a0 a1) : OKo W q I (execSequencerPhaseEnd a0 a1 s) := by
  unfold execSequencerPhaseEnd
  refine OKo.next ?_
  refine State.seqEnd_ok ?_ ..
  refine State.railRead_ok ?_ ..
  exact h

theorem State.seqFreeze_ok (h : OK W q I s) : OK W q I (State.seqFreeze s) := by
  unfold State.seqFreeze
  refine OK.upd' ?_ rfl rfl rfl rfl
  exact h

theorem State.enterDroop_ok (h : OK W q I s) : OK W q I (State.enterDroop s) := by
  unfold State.enterDroop
  refine State.record_ok ?_ ..
  refine State.bumpSat_ok ?_ ..
  refine State.bump_ok ?_ ..
  refine State.setFlag_ok ?_ ..
  refine State.setFlag_ok ?_ ..
  refine State.put_ok ?_ ..
  refine State.seqFreeze_ok ?_ ..
  refine State.put_ok ?_ ..
  exact h

theorem State.droopCap_ok (h : OK W q I s) : OK W q I (State.droopCap s) := by
  unfold State.droopCap
  refine OK.ite (fun _ => ?_) (fun _ => ?_)
  · refine State.updateEff_ok ?_ ..
    refine State.record_ok ?_ ..
    refine State.put_ok ?_ ..
    exact h
  · exact h

theorem execDroopTrip_ok (h : OK W q I s) (a0 a1) : OKo W q I (execDroopTrip a0 a1 s) := by
  unfold execDroopTrip
  refine OKo.next ?_
  refine OK.ite (fun _ => ?_) (fun _ => ?_)
  · refine State.droopCap_ok ?_ ..
    refine State.enterDroop_ok ?_ ..
    refine State.railRead_ok ?_ ..
    exact h
  · refine State.railRead_ok ?_ ..
    exact h

theorem State.capReturn_ok (h : OK W q I s) : OK W q I (State.capReturn s) := by
  unfold State.capReturn
  refine State.updateEff_ok ?_ ..
  refine State.put_ok ?_ ..
  refine OK.upd' ?_ rfl rfl rfl rfl
  exact h

theorem State.seqThaw_ok (h : OK W q I s) : OK W q I (State.seqThaw s) := by
  unfold State.seqThaw
  refine OK.upd' ?_ rfl rfl rfl rfl
  exact h

theorem State.leaveDroop_ok (h : OK W q I s) : OK W q I (State.leaveDroop s) := by
  unfold State.leaveDroop
  refine State.seqThaw_ok ?_ ..
  refine State.put_ok ?_ ..
  refine State.setFlag_ok ?_ ..
  exact h

theorem execDroopClear_ok (h : OK W q I s) (a0 a1) : OKo W q I (execDroopClear a0 a1 s) := by
  unfold execDroopClear
  refine OKo.next ?_
  refine OK.ite (fun _ => ?_) (fun _ => ?_)
  · refine OK.ite (fun _ => ?_) (fun _ => ?_)
    · refine State.capReturn_ok ?_ ..
      refine State.leaveDroop_ok ?_ ..
      refine State.railRead_ok ?_ ..
      exact h
    · refine State.updateEff_ok ?_ ..
      refine State.leaveDroop_ok ?_ ..
      refine State.railRead_ok ?_ ..
      exact h
  · refine State.railRead_ok ?_ ..
    exact h

theorem execCapClear_ok (h : OK W q I s) : OKo W q I (execCapClear s) := by
  unfold execCapClear
  refine OKo.next ?_
  refine State.enqueue_ok ?_ ..
  exact h

theorem State.capClear_ok (h : OK W q I s) : OK W q I (State.capClear s) := by
  unfold State.capClear
  refine OK.ite (fun _ => ?_) (fun _ => ?_)
  · refine OK.upd' ?_ rfl rfl rfl rfl
    exact h
  · refine State.capReturn_ok ?_ ..
    exact h

theorem State.junction_ok (h : OK W q I s) (a1) : OK W q I (State.junction s a1) := by
  unfold State.junction
  refine State.put_ok ?_ ..
  refine OK.upd' ?_ rfl rfl rfl rfl
  exact h

theorem State.setTherm_ok (h : OK W q I s) (a1) : OK W q I (State.setTherm s a1) := by
  unfold State.setTherm
  refine State.put_ok ?_ ..
  exact h

theorem execThermalCapLower_ok (h : OK W q I s) (a0) : OKo W q I (execThermalCapLower a0 s) := by
  unfold execThermalCapLower
  refine OKo.next ?_
  refine OK.ite (fun _ => ?_) (fun _ => ?_)
  · refine State.updateEff_ok ?_ ..
    refine State.record_ok ?_ ..
    refine State.setTherm_ok ?_ ..
    refine State.junction_ok ?_ ..
    exact h
  · refine State.junction_ok ?_ ..
    exact h

theorem execThermalCapRestore_ok (h : OK W q I s) (a0) : OKo W q I (execThermalCapRestore a0 s) := by
  unfold execThermalCapRestore
  refine OKo.next ?_
  refine OK.ite (fun _ => ?_) (fun _ => ?_)
  · refine State.updateEff_ok ?_ ..
    refine State.setTherm_ok ?_ ..
    refine State.junction_ok ?_ ..
    exact h
  · refine State.junction_ok ?_ ..
    exact h

theorem State.weightWord_ok (h : OK W q I s) (a1) : OK W q I (State.weightWord s a1) := by
  unfold State.weightWord
  refine OK.dite (fun _ => ?_) (fun _ => ?_)
  · extract_lets +onlyGivenNames -merge -useContext -underBinder x1
    refine OK.ite (fun _ => ?_) (fun _ => ?_)
    · refine State.record_ok ?_ ..
      refine State.bump_ok ?_ ..
      refine State.bumpSat_ok ?_ ..
      exact h
    · refine State.record_ok ?_ ..
      refine State.fenceCoreNow_ok ?_ ..
      refine State.bumpSat_ok ?_ ..
      exact h
  · exact h

theorem State.scrubOn_ok (h : OK W q I s) : OK W q I (State.scrubOn s) := by
  unfold State.scrubOn
  refine OK.upd' ?_ rfl rfl rfl rfl
  exact h

theorem execScrubWord_ok (h : OK W q I s) : OKo W q I (execScrubWord s) := by
  unfold execScrubWord
  refine OKo.next ?_
  refine OK.ite (fun _ => ?_) (fun _ => ?_)
  · refine OK.foldl (fun _ _ ht1 => ?_) ?_
    · refine State.weightWord_ok ?_ ..
      exact ht1
    · refine State.scrubOn_ok ?_ ..
      exact h
  · exact h

end Sys2Proof.Machine
end

