-- ==== Sys2Proof/Laws/KeepArray.lean ====
section
/-! SUPPORT. What the operations of Baskets, Chain, Est keep (Laws/Keep). -/

namespace Sys2Proof.Machine

variable {W : Prop} {q : List Instr} {I : Nat → Nat → Prop} {s : State}

theorem State.setSlot_ok (h : OK W q I s) (a1 a2) : OK W q I (State.setSlot s a1 a2) := by
  unfold State.setSlot
  refine OK.upd' ?_ rfl rfl rfl rfl
  exact h

theorem State.refuseMdl_ok (h : OK W q I s) (a1 a2) : OK W q I (State.refuseMdl s a1 a2) := by
  unfold State.refuseMdl
  refine State.put_ok ?_ ..
  refine State.put_ok ?_ ..
  exact h

theorem State.slotRegs_ok (h : OK W q I s) (a1) : OK W q I (State.slotRegs s a1) := by
  unfold State.slotRegs
  extract_lets +onlyGivenNames -merge -useContext -underBinder x1
  extract_lets +onlyGivenNames -merge -useContext -underBinder x2
  extract_lets +onlyGivenNames -merge -useContext -underBinder x3
  extract_lets +onlyGivenNames -merge -useContext -underBinder x4
  extract_lets +onlyGivenNames -merge -useContext -underBinder x5
  extract_lets +onlyGivenNames -merge -useContext -underBinder x6
  have hx6 : OK W q I x6 := by
    unfold x6
    refine State.put_ok ?_ ..
    refine State.put_ok ?_ ..
    exact h
  extract_lets +onlyGivenNames -merge -useContext -underBinder x7
  have hx7 : OK W q I x7 := by
    unfold x7
    refine State.put_ok ?_ ..
    refine State.put64_ok ?_ ..
    exact hx6
  refine State.setFlag_ok ?_ ..
  exact hx7

theorem State.mdlCounts_ok (h : OK W q I s) : OK W q I (State.mdlCounts s) := by
  unfold State.mdlCounts
  extract_lets +onlyGivenNames -merge -useContext -underBinder x1
  have hx1 : OK W q I x1 := by
    unfold x1
    refine State.put_ok ?_ ..
    exact h
  extract_lets +onlyGivenNames -merge -useContext -underBinder x2
  have hx2 : OK W q I x2 := by
    unfold x2
    refine State.put_ok ?_ ..
    exact hx1
  extract_lets +onlyGivenNames -merge -useContext -underBinder x3
  have hx3 : OK W q I x3 := by
    unfold x3
    refine State.put_ok ?_ ..
    exact hx2
  extract_lets +onlyGivenNames -merge -useContext -underBinder x4
  have hx4 : OK W q I x4 := by
    unfold x4
    refine State.put_ok ?_ ..
    exact hx3
  extract_lets +onlyGivenNames -merge -useContext -underBinder x5
  have hx5 : OK W q I x5 := by
    unfold x5
    refine State.put_ok ?_ ..
    exact hx4
  refine State.countCores_ok ?_ ..
  refine State.each_ok (fun _ _ ht6 => ?_) ?_
  · refine State.put_ok ?_ ..
    exact ht6
  · exact hx5

theorem State.mdlFloor_ok (h : OK W q I s) : OK W q I (State.mdlFloor s) := by
  unfold State.mdlFloor
  extract_lets +onlyGivenNames -merge -useContext -underBinder x1
  refine State.updateEff_ok ?_ ..
  refine State.put_ok ?_ ..
  refine State.put_ok ?_ ..
  exact h

theorem State.releaseSlot_ok (h : OK W q I s) (a1) : OK W q I (State.releaseSlot s a1) := by
  unfold State.releaseSlot
  extract_lets +onlyGivenNames -merge -useContext -underBinder x1
  have hx1 : OK W q I x1 := by
    unfold x1
    refine OK.foldl (fun _ _ ht2 => ?_) ?_
    · split
      · refine OK.dite (fun _ => ?_) (fun _ => ?_)
        · refine OK.ite (fun _ => ?_) (fun _ => ?_)
          · refine State.freeCore_ok ?_ ..
            exact ht2
          · exact ht2
        · exact ht2
      · exact ht2
    · exact h
  refine State.setSlot_ok ?_ ..
  exact hx1

theorem State.leaveSlot_ok (h : OK W q I s) (a1 a2) : OK W q I (State.leaveSlot s a1 a2) := by
  unfold State.leaveSlot
  refine State.mdlCounts_ok ?_ ..
  refine State.put_ok ?_ ..
  refine State.slotRegs_ok ?_ ..
  refine State.put_ok ?_ ..
  refine State.releaseSlot_ok ?_ ..
  exact h

theorem State.bindSlot_ok (h : OK W q I s) (a1 a2 a3 a4) : OK W q I (State.bindSlot s a1 a2 a3 a4) := by
  unfold State.bindSlot
  extract_lets +onlyGivenNames -merge -useContext -underBinder x1
  have hx1 : OK W q I x1 := by
    unfold x1
    refine State.releaseSlot_ok ?_ ..
    exact h
  extract_lets +onlyGivenNames -merge -useContext -underBinder x2
  extract_lets +onlyGivenNames -merge -useContext -underBinder x3
  extract_lets +onlyGivenNames -merge -useContext -underBinder x4
  have hx4 : OK W q I x4 := by
    unfold x4
    refine State.setSlot_ok ?_ ..
    exact hx1
  extract_lets +onlyGivenNames -merge -useContext -underBinder x5
  have hx5 : OK W q I x5 := by
    unfold x5
    refine OK.foldl (fun _ _ ht6 => ?_) ?_
    · refine OK.dite (fun _ => ?_) (fun _ => ?_)
      · refine State.setCore_ok ?_ ..
        refine State.put_ok ?_ ..
        refine State.put_ok ?_ ..
        exact ht6
      · exact ht6
    · exact hx4
  refine State.mdlCounts_ok ?_ ..
  refine State.slotRegs_ok ?_ ..
  refine State.put_ok ?_ ..
  refine State.put_ok ?_ ..
  exact hx5

theorem State.quarantine_ok (h : OK W q I s) (a1) : OK W q I (State.quarantine s a1) := by
  unfold State.quarantine
  refine State.record_ok ?_ ..
  refine State.leaveSlot_ok ?_ ..
  exact h

theorem State.applyReq_ok (h : OK W q I s) (a1) : OK W q I (State.applyReq s a1) := by
  unfold State.applyReq
  split
  · refine OK.dite (fun _ => ?_) (fun _ => ?_)
    · refine OK.ite (fun _ => ?_) (fun _ => ?_)
      · refine State.leaveSlot_ok ?_ ..
        exact h
      · refine State.refuseMdl_ok ?_ ..
        exact h
    · exact h
  · refine OK.dite (fun _ => ?_) (fun _ => ?_)
    · extract_lets +onlyGivenNames -merge -useContext -underBinder x1
      extract_lets +onlyGivenNames -merge -useContext -underBinder x2
      extract_lets +onlyGivenNames -merge -useContext -underBinder x3
      refine OK.ite (fun _ => ?_) (fun _ => ?_)
      · refine State.refuseMdl_ok ?_ ..
        exact h
      · refine OK.ite (fun _ => ?_) (fun _ => ?_)
        · refine State.bindSlot_ok ?_ ..
          exact h
        · refine State.refuseMdl_ok ?_ ..
          exact h
    · exact h

theorem State.afterReqs_ok (h : OK W q I s) : OK W q I (State.afterReqs s) := by
  unfold State.afterReqs
  refine OK.foldl (fun _ _ ht1 => ?_) ?_
  · refine State.applyReq_ok ?_ ..
    exact ht1
  · exact h

theorem State.requestBind_ok (h : OK W q I s) (a1 a2 a3 a4) : OK W q I (State.requestBind s a1 a2 a3 a4) := by
  unfold State.requestBind
  split
  · refine State.refuseMdl_ok ?_ ..
    exact h
  · refine OK.upd' ?_ rfl rfl rfl rfl
    exact h

theorem State.requestEvict_ok (h : OK W q I s) (a1) : OK W q I (State.requestEvict s a1) := by
  unfold State.requestEvict
  refine OK.ite (fun _ => ?_) (fun _ => ?_)
  · refine OK.upd' ?_ rfl rfl rfl rfl
    exact h
  · refine State.refuseMdl_ok ?_ ..
    exact h

theorem State.coreBound_ok (h : OK W q I s) (a1) : OK W q I (State.coreBound s a1) := by
  unfold State.coreBound
  refine State.countCores_ok ?_ ..
  refine State.setCore_ok ?_ ..
  refine State.put_ok ?_ ..
  exact h

theorem State.loadFailed_ok (h : OK W q I s) (a1) : OK W q I (State.loadFailed s a1) := by
  unfold State.loadFailed
  refine OK.dite (fun _ => ?_) (fun _ => ?_)
  · refine State.refuseMdl_ok ?_ ..
    refine State.quarantine_ok ?_ ..
    exact h
  · exact h

theorem execCoreLoaded_ok (h : OK W q I s) (a0 a1) : OKo W q I (execCoreLoaded a0 a1 s) := by
  unfold execCoreLoaded
  refine OKo.next ?_
  refine OK.ite (fun _ => ?_) (fun _ => ?_)
  · refine OK.ite (fun _ => ?_) (fun _ => ?_)
    · refine State.coreBound_ok ?_ ..
      exact h
    · refine State.loadFailed_ok ?_ ..
      exact h
  · exact h

theorem State.startPasses_ok (h : OK W q I s) : OK W q I (State.startPasses s) := by
  unfold State.startPasses
  refine OK.foldl (fun _ _ ht1 => ?_) ?_
  · refine OK.ite (fun _ => ?_) (fun _ => ?_)
    · exact ht1
    · extract_lets +onlyGivenNames -merge -useContext -underBinder x2
      have hx2 : OK W q I x2 := by
        unfold x2
        refine OK.ite (fun _ => ?_) (fun _ => ?_)
        · refine State.put_ok ?_ ..
          exact ht1
        · exact ht1
      extract_lets +onlyGivenNames -merge -useContext -underBinder x3
      extract_lets +onlyGivenNames -merge -useContext -underBinder x4
      extract_lets +onlyGivenNames -merge -useContext -underBinder x5
      have hx5 : OK W q I x5 := by
        unfold x5
        refine State.setSlot_ok ?_ ..
        exact hx2
      refine OK.ite (fun _ => ?_) (fun _ => ?_)
      · refine OK.foldl (fun _ _ ht6 => ?_) ?_
        · split
          · refine State.put_ok ?_ ..
            exact ht6
          · exact ht6
        · exact hx5
      · exact hx5
  · refine State.setFlag_ok ?_ ..
    exact h

theorem State.arrayTick_ok (h : OK W q I s) : OK W q I (State.arrayTick s) := by
  unfold State.arrayTick
  refine OK.ite (fun _ => ?_) (fun _ => ?_)
  · exact h
  · extract_lets +onlyGivenNames -merge -useContext -underBinder x1
    extract_lets +onlyGivenNames -merge -useContext -underBinder x2
    have hx2 : OK W q I x2 := by
      unfold x2
      refine OK.foldl (fun _ _ ht3 => ?_) ?_
      · extract_lets +onlyGivenNames -merge -useContext -underBinder x4
        refine OK.ite (fun _ => ?_) (fun _ => ?_)
        · refine OK.ite (fun _ => ?_) (fun _ => ?_)
          · refine State.setCore_ok ?_ ..
            refine State.put_ok ?_ ..
            exact ht3
          · exact ht3
        · refine OK.ite (fun _ => ?_) (fun _ => ?_)
          · extract_lets +onlyGivenNames -merge -useContext -underBinder x5
            refine OK.ite (fun _ => ?_) (fun _ => ?_)
            · refine State.setCore_ok ?_ ..
              refine State.put_ok ?_ ..
              exact ht3
            · refine State.setCore_ok ?_ ..
              exact ht3
          · exact ht3
      · exact h
    extract_lets +onlyGivenNames -merge -useContext -underBinder x6
    extract_lets +onlyGivenNames -merge -useContext -underBinder x7
    extract_lets +onlyGivenNames -merge -useContext -underBinder x8
    extract_lets +onlyGivenNames -merge -useContext -underBinder x9
    extract_lets +onlyGivenNames -merge -useContext -underBinder x10
    have hx10 : OK W q I x10 := by
      unfold x10
      refine OK.ite (fun _ => ?_) (fun _ => ?_)
      · refine State.setFlag_ok ?_ ..
        refine OK.upd' (s := x2) ?_ rfl rfl rfl rfl
        exact hx2
      · refine OK.ite (fun _ => ?_) (fun _ => ?_)
        · refine OK.upd' (s := x2) ?_ rfl rfl rfl rfl
          exact hx2
        · exact hx2
    extract_lets +onlyGivenNames -merge -useContext -underBinder x11
    extract_lets +onlyGivenNames -merge -useContext -underBinder x12
    have hx12 : OK W q I x12 := by
      unfold x12
      refine OK.ite (fun _ => ?_) (fun _ => ?_)
      · refine State.put_ok ?_ ..
        refine OK.upd' (s := x10) ?_ rfl rfl rfl rfl
        exact hx10
      · exact hx10
    refine OK.ite (fun _ => ?_) (fun _ => ?_)
    · refine State.startPasses_ok ?_ ..
      exact hx12
    · exact hx12

theorem State.spoil_ok (h : OK W q I s) (a1) : OK W q I (State.spoil s a1) := by
  unfold State.spoil
  refine State.setSlot_ok ?_ ..
  exact h

theorem State.actError_ok (h : OK W q I s) (a0 a2) : OK W q I (State.actError a0 s a2) := by
  unfold State.actError
  refine OK.ite (fun _ => ?_) (fun _ => ?_)
  · refine State.record_ok ?_ ..
    refine State.bump_ok ?_ ..
    exact h
  · refine State.spoil_ok ?_ ..
    refine State.record_ok ?_ ..
    refine State.bumpSat_ok ?_ ..
    exact h

theorem State.activationErrors_ok (h : OK W q I s) (a1) : OK W q I (State.activationErrors s a1) := by
  unfold State.activationErrors
  refine OK.foldl (fun _ _ ht1 => ?_) ?_
  · refine State.actError_ok ?_ ..
    exact ht1
  · refine OK.upd' ?_ rfl rfl rfl rfl
    exact h

theorem State.leavePass_ok (h : OK W q I s) (a1) : OK W q I (State.leavePass s a1) := by
  unfold State.leavePass
  refine OK.ite (fun _ => ?_) (fun _ => ?_)
  · refine State.fenceCoreNow_ok ?_ ..
    exact h
  · refine OK.ite (fun _ => ?_) (fun _ => ?_)
    · refine State.put_ok ?_ ..
      exact h
    · exact h

theorem State.corePass_ok (h : OK W q I s) (a1) : OK W q I (State.corePass s a1) := by
  unfold State.corePass
  split
  · exact h
  · refine OK.dite (fun _ => ?_) (fun _ => ?_)
    · refine State.leavePass_ok ?_ ..
      refine State.put_ok ?_ ..
      exact h
    · exact h

theorem State.passDone_ok (h : OK W q I s) (a1 a2 a3) : OK W q I (State.passDone s a1 a2 a3) := by
  unfold State.passDone
  refine State.put_ok ?_ ..
  refine State.activationErrors_ok ?_ ..
  refine OK.foldl (fun _ _ ht1 => ?_) ?_
  · refine State.corePass_ok ?_ ..
    exact ht1
  · refine State.setSlot_ok ?_ ..
    exact h

theorem execBasketPass_ok (h : OK W q I s) (a0 a1 a2) : OKo W q I (execBasketPass a0 a1 a2 s) := by
  unfold execBasketPass
  refine OKo.next ?_
  refine OK.ite (fun _ => ?_) (fun _ => ?_)
  · refine State.passDone_ok ?_ ..
    exact h
  · exact h

theorem State.commitTable_ok (h : OK W q I s) (a1 a2 a3) : OK W q I (State.commitTable s a1 a2 a3) := by
  unfold State.commitTable
  extract_lets +onlyGivenNames -merge -useContext -underBinder x1
  extract_lets +onlyGivenNames -merge -useContext -underBinder x2
  extract_lets +onlyGivenNames -merge -useContext -underBinder x3
  have hx3 : OK W q I x3 := by
    unfold x3
    refine State.each_ok (fun _ _ ht4 => ?_) ?_
    · refine State.wr_ok ?_ ..
      refine State.wr_ok ?_ ..
      exact ht4
    · exact h
  extract_lets +onlyGivenNames -merge -useContext -underBinder x5
  have hx5 : OK W q I x5 := by
    unfold x5
    refine State.formCrc_ok ?_ ..
    exact hx3
  refine OK.ite (fun _ => ?_) (fun _ => ?_)
  · refine State.setFlag_ok ?_ ..
    exact hx5
  · exact hx5

theorem State.commitOut_ok (h : OK W q I s) (a1 a2 a3 a4) : OK W q I (State.commitOut s a1 a2 a3 a4) := by
  unfold State.commitOut
  split
  · refine OK.ite (fun _ => ?_) (fun _ => ?_)
    · exact h
    · refine OK.upd' ?_ rfl rfl rfl rfl
      exact h
  · refine OK.ite (fun _ => ?_) (fun _ => ?_)
    · exact h
    · refine State.commitTable_ok ?_ ..
      exact h
  · refine OK.upd' ?_ rfl rfl rfl rfl
    exact h
  · extract_lets +onlyGivenNames -merge -useContext -underBinder x1
    extract_lets +onlyGivenNames -merge -useContext -underBinder x2
    refine OK.upd' ?_ rfl rfl rfl rfl
    exact h
  · exact h

theorem State.staleResults_ok (h : OK W q I s) (a1) : OK W q I (State.staleResults s a1) := by
  unfold State.staleResults
  refine OK.upd' ?_ rfl rfl rfl rfl
  exact h

theorem State.coreLeaves_ok (h : OK W q I s) (a1) : OK W q I (State.coreLeaves s a1) := by
  unfold State.coreLeaves
  split
  · refine OK.dite (fun _ => ?_) (fun _ => ?_)
    · refine State.leavePass_ok ?_ ..
      exact h
    · exact h
  · exact h

theorem State.commitPass_ok (h : OK W q I s) (a1 a2 a3) : OK W q I (State.commitPass s a1 a2 a3) := by
  unfold State.commitPass
  split
  · refine OK.foldl (fun _ _ ht1 => ?_) ?_
    · refine State.commitOut_ok ?_ ..
      exact ht1
    · exact h
  · exact h

theorem State.stalePass_ok (h : OK W q I s) (a1 a2 a3) : OK W q I (State.stalePass s a1 a2 a3) := by
  unfold State.stalePass
  extract_lets +onlyGivenNames -merge -useContext -underBinder x1
  have hx1 : OK W q I x1 := by
    unfold x1
    refine State.staleResults_ok ?_ ..
    refine State.bump_ok ?_ ..
    exact h
  refine OK.ite (fun _ => ?_) (fun _ => ?_)
  · refine State.put_ok ?_ ..
    exact hx1
  · refine OK.ite (fun _ => ?_) (fun _ => ?_)
    · exact hx1
    · extract_lets +onlyGivenNames -merge -useContext -underBinder x2
      extract_lets +onlyGivenNames -merge -useContext -underBinder x3
      have hx3 : OK W q I x3 := by
        unfold x3
        refine State.setFlag_ok ?_ ..
        refine State.bump_ok ?_ ..
        refine State.bump_ok ?_ ..
        exact hx1
      refine OK.ite (fun _ => ?_) (fun _ => ?_)
      · exact hx3
      · refine State.put_ok ?_ ..
        exact hx3

theorem State.endPass_ok (h : OK W q I s) (a1) : OK W q I (State.endPass s a1) := by
  unfold State.endPass
  refine OK.ite (fun _ => ?_) (fun _ => ?_)
  · exact h
  · extract_lets +onlyGivenNames -merge -useContext -underBinder x1
    extract_lets +onlyGivenNames -merge -useContext -underBinder x2
    have hx2 : OK W q I x2 := by
      unfold x2
      refine OK.foldl (fun _ _ ht3 => ?_) ?_
      · refine State.coreLeaves_ok ?_ ..
        exact ht3
      · exact h
    extract_lets +onlyGivenNames -merge -useContext -underBinder x4
    have hx4 : OK W q I x4 := by
      unfold x4
      refine State.setFlag_ok ?_ ..
      refine State.setSlot_ok ?_ ..
      exact hx2
    refine OK.ite (fun _ => ?_) (fun _ => ?_)
    · refine State.put_ok ?_ ..
      refine State.put_ok ?_ ..
      refine State.commitPass_ok ?_ ..
      exact hx4
    · refine State.stalePass_ok ?_ ..
      exact hx4

theorem State.replaceCores_ok (h : OK W q I s) (a1) : OK W q I (State.replaceCores s a1) := by
  unfold State.replaceCores
  refine OK.ite (fun _ => ?_) (fun _ => ?_)
  · exact h
  · extract_lets +onlyGivenNames -merge -useContext -underBinder x1
    extract_lets +onlyGivenNames -merge -useContext -underBinder x2
    refine OK.ite (fun _ => ?_) (fun _ => ?_)
    · exact h
    · extract_lets +onlyGivenNames -merge -useContext -underBinder x3
      extract_lets +onlyGivenNames -merge -useContext -underBinder x4
      have hx4 : OK W q I x4 := by
        unfold x4
        refine State.put_ok ?_ ..
        exact h
      extract_lets +onlyGivenNames -merge -useContext -underBinder x5
      have hx5 : OK W q I x5 := by
        unfold x5
        refine State.setSlot_ok ?_ ..
        exact hx4
      extract_lets +onlyGivenNames -merge -useContext -underBinder x6
      have hx6 : OK W q I x6 := by
        unfold x6
        refine OK.foldl (fun _ _ ht7 => ?_) ?_
        · refine OK.ite (fun _ => ?_) (fun _ => ?_)
          · exact ht7
          · split
            · exact ht7
            · refine OK.dite (fun _ => ?_) (fun _ => ?_)
              · extract_lets +onlyGivenNames -merge -useContext -underBinder x8
                refine State.setCore_ok ?_ ..
                refine State.put_ok ?_ ..
                refine State.put_ok ?_ ..
                refine State.setSlot_ok ?_ ..
                exact ht7
              · exact ht7
        · exact hx5
      extract_lets +onlyGivenNames -merge -useContext -underBinder x9
      extract_lets +onlyGivenNames -merge -useContext -underBinder x10
      have hx10 : OK W q I x10 := by
        unfold x10
        refine OK.ite (fun _ => ?_) (fun _ => ?_)
        · refine State.record_ok ?_ ..
          exact hx6
        · exact hx6
      refine State.slotRegs_ok ?_ ..
      refine State.setSlot_ok ?_ ..
      exact hx10

theorem State.quarantineLate_ok (h : OK W q I s) (a1) : OK W q I (State.quarantineLate s a1) := by
  unfold State.quarantineLate
  refine OK.ite (fun _ => ?_) (fun _ => ?_)
  · refine State.quarantine_ok ?_ ..
    exact h
  · exact h

theorem State.applyReqs_ok (h : OK W q I s) : OK W q I (State.applyReqs s) := by
  unfold State.applyReqs
  extract_lets +onlyGivenNames -merge -useContext -underBinder x1
  have hx1 : OK W q I x1 := by
    unfold x1
    refine State.afterReqs_ok ?_ ..
    exact h
  refine OK.upd' (s := x1) ?_ rfl rfl rfl rfl
  exact hx1

theorem State.commitAll_ok (h : OK W q I s) : OK W q I (State.commitAll s) := by
  unfold State.commitAll
  refine State.mdlFloor_ok ?_ ..
  refine State.mdlCounts_ok ?_ ..
  refine State.applyReqs_ok ?_ ..
  refine OK.foldl (fun _ _ ht1 => ?_) ?_
  · refine State.quarantineLate_ok ?_ ..
    exact ht1
  · refine OK.foldl (fun _ _ ht2 => ?_) ?_
    · refine State.replaceCores_ok ?_ ..
      exact ht2
    · refine OK.foldl (fun _ _ ht3 => ?_) ?_
      · refine State.endPass_ok ?_ ..
        exact ht3
      · exact h

theorem execResultCommit_ok (h : OK W q I s) : OKo W q I (execResultCommit s) := by
  unfold execResultCommit
  refine OKo.next ?_
  refine OK.ite (fun _ => ?_) (fun _ => ?_)
  · refine State.commitAll_ok ?_ ..
    exact h
  · exact h

theorem State.restoreBaskets_ok (h : OK W q I s) : OK W q I (State.restoreBaskets s) := by
  unfold State.restoreBaskets
  extract_lets +onlyGivenNames -merge -useContext -underBinder x1
  extract_lets +onlyGivenNames -merge -useContext -underBinder x2
  extract_lets +onlyGivenNames -merge -useContext -underBinder x3
  extract_lets +onlyGivenNames -merge -useContext -underBinder x4
  have hx4 : OK W q I x4 := by
    unfold x4
    refine OK.foldl (fun _ _ ht5 => ?_) ?_
    · refine State.leaveSlot_ok ?_ ..
      exact ht5
    · refine OK.upd' ?_ rfl rfl rfl rfl
      exact h
  refine State.mdlFloor_ok ?_ ..
  refine OK.foldl (fun _ _ ht6 => ?_) ?_
  · extract_lets +onlyGivenNames -merge -useContext -underBinder x7
    extract_lets +onlyGivenNames -merge -useContext -underBinder x8
    extract_lets +onlyGivenNames -merge -useContext -underBinder x9
    extract_lets +onlyGivenNames -merge -useContext -underBinder x10
    extract_lets +onlyGivenNames -merge -useContext -underBinder x11
    have hx11 : OK W q I x11 := by
      unfold x11
      refine State.requestBind_ok ?_ ..
      exact ht6
    refine OK.ite (fun _ => ?_) (fun _ => ?_)
    · refine State.record_ok ?_ ..
      exact hx11
    · exact hx11
  · exact hx4

theorem State.setRing_ok (h : OK W q I s) (a1 a2) : OK W q I (State.setRing s a1 a2) := by
  unfold State.setRing
  refine OK.upd' ?_ rfl rfl rfl rfl
  exact h

theorem State.setNode_ok (h : OK W q I s) (a1 a2 a3) : OK W q I (State.setNode s a1 a2 a3) := by
  unfold State.setNode
  refine OK.upd' ?_ rfl rfl rfl rfl
  exact h

theorem State.eachNode_ok {f : Fin 14 → State → State} (hf : ∀ i t, OK W q I t → OK W q I (f i t)) (h : OK W q I s) : OK W q I (State.eachNode f s) :=
  OK.foldl (fun t i => hf i t) h

theorem State.emit_ok (h : OK W q I s) (a1 a2) : OK W q I (State.emit s a1 a2) := by
  unfold State.emit
  refine OK.ite (fun _ => ?_) (fun _ => ?_)
  · exact h
  · refine State.setRing_ok ?_ ..
    exact h

theorem State.transact_ok (h : OK W q I s) (a1 a2 a3 a4 a5) : OK W q I (State.transact s a1 a2 a3 a4 a5) := by
  unfold State.transact
  extract_lets +onlyGivenNames -merge -useContext -underBinder x1
  extract_lets +onlyGivenNames -merge -useContext -underBinder x2
  extract_lets +onlyGivenNames -merge -useContext -underBinder x3
  extract_lets +onlyGivenNames -merge -useContext -underBinder x4
  extract_lets +onlyGivenNames -merge -useContext -underBinder x5
  have hx5 : OK W q I x5 := by
    unfold x5
    refine State.setRing_ok ?_ ..
    exact h
  refine State.emit_ok ?_ ..
  exact hx5

theorem State.broadcast_ok (h : OK W q I s) (a1 a2 a3) : OK W q I (State.broadcast s a1 a2 a3) := by
  unfold State.broadcast
  extract_lets +onlyGivenNames -merge -useContext -underBinder x1
  refine State.emit_ok ?_ ..
  refine State.setRing_ok ?_ ..
  exact h

theorem State.applyEnum_ok (h : OK W q I s) (a1 a2) : OK W q I (State.applyEnum s a1 a2) := by
  unfold State.applyEnum
  extract_lets +onlyGivenNames -merge -useContext -underBinder x1
  extract_lets +onlyGivenNames -merge -useContext -underBinder x2
  extract_lets +onlyGivenNames -merge -useContext -underBinder x3
  extract_lets +onlyGivenNames -merge -useContext -underBinder x4
  extract_lets +onlyGivenNames -merge -useContext -underBinder x5
  have hx5 : OK W q I x5 := by
    unfold x5
    refine State.put_ok ?_ ..
    exact h
  extract_lets +onlyGivenNames -merge -useContext -underBinder x6
  have hx6 : OK W q I x6 := by
    unfold x6
    refine State.put_ok ?_ ..
    refine State.put_ok ?_ ..
    refine State.put_ok ?_ ..
    exact hx5
  extract_lets +onlyGivenNames -merge -useContext -underBinder x7
  have hx7 : OK W q I x7 := by
    unfold x7
    refine State.eachNode_ok (fun _ _ ht8 => ?_) ?_
    · refine OK.ite (fun _ => ?_) (fun _ => ?_)
      · extract_lets +onlyGivenNames -merge -useContext -underBinder x9
        extract_lets +onlyGivenNames -merge -useContext -underBinder x10
        have hx10 : OK W q I x10 := by
          unfold x10
          refine State.put_ok ?_ ..
          refine State.wr_ok ?_ ..
          exact ht8
        extract_lets +onlyGivenNames -merge -useContext -underBinder x11
        have hx11 : OK W q I x11 := by
          unfold x11
          refine OK.ite (fun _ => ?_) (fun _ => ?_)
          · refine State.recordAt_ok ?_ ..
            exact hx10
          · exact hx10
        refine OK.ite (fun _ => ?_) (fun _ => ?_)
        · refine State.record_ok ?_ ..
          refine State.put_ok ?_ ..
          refine State.put_ok ?_ ..
          exact hx11
        · refine OK.ite (fun _ => ?_) (fun _ => ?_)
          · refine State.put_ok ?_ ..
            exact hx11
          · exact hx11
      · exact ht8
    · exact hx6
  extract_lets +onlyGivenNames -merge -useContext -underBinder x12
  extract_lets +onlyGivenNames -merge -useContext -underBinder x13
  have hx13 : OK W q I x13 := by
    unfold x13
    refine OK.upd' (s := x7) ?_ rfl rfl rfl rfl
    exact hx7
  refine OK.ite (fun _ => ?_) (fun _ => ?_)
  · refine State.record_ok ?_ ..
    exact hx13
  · refine OK.ite (fun _ => ?_) (fun _ => ?_)
    · refine State.record_ok ?_ ..
      exact hx13
    · exact hx13

theorem State.countNodes_ok (h : OK W q I s) (a1) : OK W q I (State.countNodes s a1) := by
  unfold State.countNodes
  refine State.put_ok ?_ ..
  exact h

theorem State.chainStr_ok (h : OK W q I s) (a1) : OK W q I (State.chainStr s a1) := by
  unfold State.chainStr
  extract_lets +onlyGivenNames -merge -useContext -underBinder x1
  extract_lets +onlyGivenNames -merge -useContext -underBinder x2
  have hx2 : OK W q I x2 := by
    unfold x2
    refine OK.ite (fun _ => ?_) (fun _ => ?_)
    · refine State.setRing_ok ?_ ..
      exact h
    · exact h
  extract_lets +onlyGivenNames -merge -useContext -underBinder x3
  extract_lets +onlyGivenNames -merge -useContext -underBinder x4
  have hx4 : OK W q I x4 := by
    unfold x4
    refine OK.ite (fun _ => ?_) (fun _ => ?_)
    · refine State.setRing_ok ?_ ..
      exact hx2
    · exact hx2
  refine OK.ite (fun _ => ?_) (fun _ => ?_)
  · exact hx4
  · extract_lets +onlyGivenNames -merge -useContext -underBinder x5
    have hx5 : OK W q I x5 := by
      unfold x5
      split
      · refine State.countNodes_ok ?_ ..
        refine State.applyEnum_ok ?_ ..
        refine State.setRing_ok ?_ ..
        exact hx4
      · exact hx4
    extract_lets +onlyGivenNames -merge -useContext -underBinder x6
    have hx6 : OK W q I x6 := by
      unfold x6
      refine State.eachNode_ok (fun _ _ ht7 => ?_) ?_
      · refine State.setNode_ok ?_ ..
        exact ht7
      · exact hx5
    extract_lets +onlyGivenNames -merge -useContext -underBinder x8
    have hx8 : OK W q I x8 := by
      unfold x8
      refine State.setFlag_ok ?_ ..
      exact hx6
    refine State.setRing_ok ?_ ..
    exact hx8

theorem State.chainTick_ok (h : OK W q I s) : OK W q I (State.chainTick s) := by
  unfold State.chainTick
  refine OK.foldl (fun _ _ ht1 => ?_) ?_
  · refine State.chainStr_ok ?_ ..
    exact ht1
  · exact h

theorem execSnapSend_ok (h : OK W q I s) (a0 a1) : OKo W q I (execSnapSend a0 a1 s) := by
  unfold execSnapSend
  refine OKo.next ?_
  refine OK.ite (fun _ => ?_) (fun _ => ?_)
  · exact h
  · extract_lets +onlyGivenNames -merge -useContext -underBinder x1
    have hx1 : OK W q I x1 := by
      unfold x1
      refine State.broadcast_ok ?_ ..
      exact h
    extract_lets +onlyGivenNames -merge -useContext -underBinder x2
    extract_lets +onlyGivenNames -merge -useContext -underBinder x3
    have hx3 : OK W q I x3 := by
      unfold x3
      refine State.setRing_ok ?_ ..
      exact hx1
    refine State.put64_ok ?_ ..
    exact hx3

theorem execHushSend_ok (h : OK W q I s) (a0) : OKo W q I (execHushSend a0 s) := by
  unfold execHushSend
  refine OKo.next ?_
  refine OK.ite (fun _ => ?_) (fun _ => ?_)
  · exact h
  · extract_lets +onlyGivenNames -merge -useContext -underBinder x1
    have hx1 : OK W q I x1 := by
      unfold x1
      refine State.broadcast_ok ?_ ..
      exact h
    refine State.setRing_ok ?_ ..
    exact hx1

theorem execChainRead_ok (h : OK W q I s) (a0) : OKo W q I (execChainRead a0 s) := by
  unfold execChainRead
  refine OKo.next ?_
  extract_lets +onlyGivenNames -merge -useContext -underBinder x1
  refine OK.ite (fun _ => ?_) (fun _ => ?_)
  · exact h
  · refine OK.ite (fun _ => ?_) (fun _ => ?_)
    · refine OK.dite (fun _ => ?_) (fun _ => ?_)
      · extract_lets +onlyGivenNames -merge -useContext -underBinder x2
        refine OK.ite (fun _ => ?_) (fun _ => ?_)
        · refine State.transact_ok ?_ ..
          exact h
        · exact h
      · exact h
    · refine OK.ite (fun _ => ?_) (fun _ => ?_)
      · split
        · refine State.transact_ok ?_ ..
          refine State.setNode_ok ?_ ..
          exact h
        · exact h
      · exact h

theorem State.txnCounted_ok (h : OK W q I s) (a1 a2) : OK W q I (State.txnCounted s a1 a2) := by
  unfold State.txnCounted
  refine State.bump_ok ?_ ..
  refine OK.ite (fun _ => ?_) (fun _ => ?_)
  · refine State.bump_ok ?_ ..
    exact h
  · exact h

theorem State.txnNoted_ok (h : OK W q I s) (a1) : OK W q I (State.txnNoted s a1) := by
  unfold State.txnNoted
  refine OK.ite (fun _ => ?_) (fun _ => ?_)
  · exact h
  · refine State.record_ok ?_ ..
    refine State.setRing_ok ?_ ..
    exact h

theorem State.txnFail_ok (h : OK W q I s) (a1 a2 a3) : OK W q I (State.txnFail s a1 a2 a3) := by
  unfold State.txnFail
  extract_lets +onlyGivenNames -merge -useContext -underBinder x1
  have hx1 : OK W q I x1 := by
    unfold x1
    refine State.txnNoted_ok ?_ ..
    refine State.txnCounted_ok ?_ ..
    exact h
  extract_lets +onlyGivenNames -merge -useContext -underBinder x2
  extract_lets +onlyGivenNames -merge -useContext -underBinder x3
  have hx3 : OK W q I x3 := by
    unfold x3
    refine State.setRing_ok ?_ ..
    exact hx1
  refine OK.dite (fun _ => ?_) (fun _ => ?_)
  · extract_lets +onlyGivenNames -merge -useContext -underBinder x4
    extract_lets +onlyGivenNames -merge -useContext -underBinder x5
    extract_lets +onlyGivenNames -merge -useContext -underBinder x6
    have hx6 : OK W q I x6 := by
      unfold x6
      refine State.setNode_ok ?_ ..
      exact hx3
    refine OK.ite (fun _ => ?_) (fun _ => ?_)
    · refine State.transact_ok ?_ ..
      exact hx6
    · exact hx6
  · exact hx3

theorem State.replyIn_ok (h : OK W q I s) (a1) : OK W q I (State.replyIn s a1) := by
  unfold State.replyIn
  refine OK.upd' ?_ rfl rfl rfl rfl
  exact h

theorem State.replyTaken_ok (h : OK W q I s) (a1 a2) : OK W q I (State.replyTaken s a1 a2) := by
  unfold State.replyTaken
  extract_lets +onlyGivenNames -merge -useContext -underBinder x1
  extract_lets +onlyGivenNames -merge -useContext -underBinder x2
  extract_lets +onlyGivenNames -merge -useContext -underBinder x3
  have hx3 : OK W q I x3 := by
    unfold x3
    refine State.replyIn_ok ?_ ..
    refine State.setRing_ok ?_ ..
    exact h
  refine OK.ite (fun _ => ?_) (fun _ => ?_)
  · extract_lets +onlyGivenNames -merge -useContext -underBinder x4
    have hx4 : OK W q I x4 := by
      unfold x4
      refine State.put_ok ?_ ..
      exact hx3
    refine State.setRing_ok ?_ ..
    exact hx4
  · refine OK.ite (fun _ => ?_) (fun _ => ?_)
    · refine State.setRing_ok ?_ ..
      exact hx3
    · exact hx3

theorem execChainReply_ok (h : OK W q I s) (a0 a1 a2 a3 a4 a5 a6) : OKo W q I (execChainReply a0 a1 a2 a3 a4 a5 a6 s) := by
  unfold execChainReply
  refine OKo.next ?_
  split
  · exact h
  · refine OK.ite (fun _ => ?_) (fun _ => ?_)
    · refine State.replyTaken_ok ?_ ..
      exact h
    · refine State.txnFail_ok ?_ ..
      exact h

theorem execChainTxnTimeout_ok (h : OK W q I s) (a0) : OKo W q I (execChainTxnTimeout a0 s) := by
  unfold execChainTxnTimeout
  refine OKo.next ?_
  split
  · exact h
  · refine State.txnFail_ok ?_ ..
    exact h

theorem State.takeReply_ok (h : OK W q I s) (a1) : OK W q I (State.takeReply s a1) := by
  unfold State.takeReply
  refine OK.dite (fun _ => ?_) (fun _ => ?_)
  · extract_lets +onlyGivenNames -merge -useContext -underBinder x1
    extract_lets +onlyGivenNames -merge -useContext -underBinder x2
    extract_lets +onlyGivenNames -merge -useContext -underBinder x3
    have hx3 : OK W q I x3 := by
      unfold x3
      refine State.setNode_ok ?_ ..
      exact h
    refine OK.ite (fun _ => ?_) (fun _ => ?_)
    · refine OK.ite (fun _ => ?_) (fun _ => ?_)
      · refine State.setNode_ok ?_ ..
        exact hx3
      · exact hx3
    · refine OK.ite (fun _ => ?_) (fun _ => ?_)
      · refine State.setNode_ok ?_ ..
        exact hx3
      · refine OK.ite (fun _ => ?_) (fun _ => ?_)
        · refine State.setNode_ok ?_ ..
          exact hx3
        · exact hx3
  · exact h

theorem State.takeChain_ok (h : OK W q I s) : OK W q I (State.takeChain s) := by
  unfold State.takeChain
  extract_lets +onlyGivenNames -merge -useContext -underBinder x1
  have hx1 : OK W q I x1 := by
    unfold x1
    refine OK.foldl (fun _ _ ht2 => ?_) ?_
    · refine State.takeReply_ok ?_ ..
      exact ht2
    · exact h
  refine OK.ite (fun _ => ?_) (fun _ => ?_)
  · refine OK.foldl (fun _ _ ht3 => ?_) ?_
    · refine State.setRing_ok ?_ ..
      exact ht3
    · exact hx1
  · exact hx1

theorem execRescan_ok (h : OK W q I s) (a0) : OKo W q I (execRescan a0 s) := by
  unfold execRescan
  refine OKo.next ?_
  refine State.enqueue_ok ?_ ..
  exact h

theorem State.rescanReq_ok (h : OK W q I s) (a1) : OK W q I (State.rescanReq s a1) := by
  unfold State.rescanReq
  refine OK.foldl (fun _ _ ht1 => ?_) ?_
  · refine OK.ite (fun _ => ?_) (fun _ => ?_)
    · refine State.setRing_ok ?_ ..
      exact ht1
    · exact ht1
  · exact h

theorem execEnumeration_ok (h : OK W q I s) (a0 a1) : OKo W q I (execEnumeration a0 a1 s) := by
  unfold execEnumeration
  refine OKo.next ?_
  refine OK.ite (fun _ => ?_) (fun _ => ?_)
  · refine State.setRing_ok ?_ ..
    refine State.put_ok ?_ ..
    exact h
  · exact h

theorem execRingTest_ok (h : OK W q I s) (a0) : OKo W q I (execRingTest a0 s) := by
  unfold execRingTest
  refine OKo.next ?_
  refine OK.ite (fun _ => ?_) (fun _ => ?_)
  · extract_lets +onlyGivenNames -merge -useContext -underBinder x1
    extract_lets +onlyGivenNames -merge -useContext -underBinder x2
    have hx2 : OK W q I x2 := by
      unfold x2
      refine State.setRing_ok ?_ ..
      exact h
    refine State.emit_ok ?_ ..
    exact hx2
  · exact h

theorem State.fenceNode_ok (h : OK W q I s) (a1 a2 a3 a4) : OK W q I (State.fenceNode s a1 a2 a3 a4) := by
  unfold State.fenceNode
  refine OK.ite (fun _ => ?_) (fun _ => ?_)
  · exact h
  · refine State.countNodes_ok ?_ ..
    refine State.record_ok ?_ ..
    refine State.put_ok ?_ ..
    refine State.put_ok ?_ ..
    exact h

theorem State.staleNode_ok (h : OK W q I s) (a1 a2) : OK W q I (State.staleNode s a1 a2) := by
  unfold State.staleNode
  refine State.each_ok (fun _ _ ht1 => ?_) ?_
  · refine State.setFlag_ok ?_ ..
    exact ht1
  · exact h

theorem State.commitCell_ok (h : OK W q I s) (a1 a2 a3 a4) : OK W q I (State.commitCell s a1 a2 a3 a4) := by
  unfold State.commitCell
  refine State.setFlag_ok ?_ ..
  refine State.setFlag_ok ?_ ..
  refine State.setFlag_ok ?_ ..
  refine State.put_ok ?_ ..
  exact h

theorem State.nodeRead_ok (h : OK W q I s) (a1 a2 a3) : OK W q I (State.nodeRead s a1 a2 a3) := by
  unfold State.nodeRead
  extract_lets +onlyGivenNames -merge -useContext -underBinder x1
  have hx1 : OK W q I x1 := by
    unfold x1
    refine State.put_ok ?_ ..
    refine State.put_ok ?_ ..
    exact h
  extract_lets +onlyGivenNames -merge -useContext -underBinder x2
  have hx2 : OK W q I x2 := by
    unfold x2
    refine State.put_ok ?_ ..
    refine State.put_ok ?_ ..
    exact hx1
  extract_lets +onlyGivenNames -merge -useContext -underBinder x3
  refine State.each_ok (fun _ _ ht4 => ?_) ?_
  · refine State.commitCell_ok ?_ ..
    exact ht4
  · exact hx2

theorem State.nodeMissed_ok (h : OK W q I s) (a1 a2) : OK W q I (State.nodeMissed s a1 a2) := by
  unfold State.nodeMissed
  extract_lets +onlyGivenNames -merge -useContext -underBinder x1
  have hx1 : OK W q I x1 := by
    unfold x1
    refine State.staleNode_ok ?_ ..
    exact h
  extract_lets +onlyGivenNames -merge -useContext -underBinder x2
  extract_lets +onlyGivenNames -merge -useContext -underBinder x3
  have hx3 : OK W q I x3 := by
    unfold x3
    refine State.put_ok ?_ ..
    refine State.put_ok ?_ ..
    exact hx1
  extract_lets +onlyGivenNames -merge -useContext -underBinder x4
  have hx4 : OK W q I x4 := by
    unfold x4
    refine State.record_ok ?_ ..
    refine State.bump_ok ?_ ..
    exact hx3
  refine OK.ite (fun _ => ?_) (fun _ => ?_)
  · refine State.fenceNode_ok ?_ ..
    exact hx4
  · exact hx4

theorem State.commitNode_ok (h : OK W q I s) (a1 a2) : OK W q I (State.commitNode s a1 a2) := by
  unfold State.commitNode
  refine OK.ite (fun _ => ?_) (fun _ => ?_)
  · refine State.staleNode_ok ?_ ..
    exact h
  · split
    · refine State.nodeRead_ok ?_ ..
      exact h
    · refine State.nodeMissed_ok ?_ ..
      exact h

theorem State.substitute_ok (h : OK W q I s) (a1 a2) : OK W q I (State.substitute s a1 a2) := by
  unfold State.substitute
  extract_lets +onlyGivenNames -merge -useContext -underBinder x1
  refine OK.ite (fun _ => ?_) (fun _ => ?_)
  · exact h
  · extract_lets +onlyGivenNames -merge -useContext -underBinder x2
    extract_lets +onlyGivenNames -merge -useContext -underBinder x3
    have hx3 : ∀ z0, OK W q I z0 → ∀ y1, ∀ y2, OK W q I (x3 z0 y1 y2) := by
      intro z0 hz3 y1 y2; unfold x3
      refine State.setFlag_ok ?_ ..
      refine State.put_ok ?_ ..
      exact hz3
    try clear_value x3
    extract_lets +onlyGivenNames -merge -useContext -underBinder x4
    refine OK.ite (fun _ => ?_) (fun _ => ?_)
    · refine hx3 _ ?_ _ _
      exact h
    · refine OK.ite (fun _ => ?_) (fun _ => ?_)
      · refine hx3 _ ?_ _ _
        exact h
      · extract_lets +onlyGivenNames -merge -useContext -underBinder x5
        refine hx3 _ ?_ _ _
        refine hx3 _ ?_ _ _
        exact h

theorem State.testReq_ok (h : OK W q I s) (a1) : OK W q I (State.testReq s a1) := by
  unfold State.testReq
  extract_lets +onlyGivenNames -merge -useContext -underBinder x1
  have hx1 : OK W q I x1 := by
    unfold x1
    refine State.setFlag_ok ?_ ..
    exact h
  refine OK.ite (fun _ => ?_) (fun _ => ?_)
  · refine State.setFlag_ok ?_ ..
    exact hx1
  · exact hx1

theorem State.formR_ok (h : OK W q I s) (a1) : OK W q I (State.formR s a1) := by
  unfold State.formR
  extract_lets +onlyGivenNames -merge -useContext -underBinder x1
  extract_lets +onlyGivenNames -merge -useContext -underBinder x2
  refine State.eachNode_ok (fun _ _ ht3 => ?_) ?_
  · extract_lets +onlyGivenNames -merge -useContext -underBinder x4
    extract_lets +onlyGivenNames -merge -useContext -underBinder x5
    refine State.setNode_ok ?_ ..
    exact ht3
  · exact h

theorem State.searchNode_ok (h : OK W q I s) (a1 a2 a3) : OK W q I (State.searchNode s a1 a2 a3) := by
  unfold State.searchNode
  refine OK.ite (fun _ => ?_) (fun _ => ?_)
  · exact h
  · extract_lets +onlyGivenNames -merge -useContext -underBinder x1
    extract_lets +onlyGivenNames -merge -useContext -underBinder x2
    extract_lets +onlyGivenNames -merge -useContext -underBinder x3
    extract_lets +onlyGivenNames -merge -useContext -underBinder x4
    extract_lets +onlyGivenNames -merge -useContext -underBinder x5
    extract_lets +onlyGivenNames -merge -useContext -underBinder x6
    extract_lets +onlyGivenNames -merge -useContext -underBinder x7
    extract_lets +onlyGivenNames -merge -useContext -underBinder x8
    extract_lets +onlyGivenNames -merge -useContext -underBinder x9
    extract_lets +onlyGivenNames -merge -useContext -underBinder x10
    have hx10 : OK W q I x10 := by
      unfold x10
      split
      · extract_lets +onlyGivenNames -merge -useContext -underBinder x11
        have hx11 : OK W q I x11 := by
          unfold x11
          refine State.testReq_ok ?_ ..
          refine State.put_ok ?_ ..
          exact h
        refine State.setFlag_ok ?_ ..
        refine State.setFlag_ok ?_ ..
        exact hx11
      · exact h
    split
    · refine OK.ite (fun _ => ?_) (fun _ => ?_)
      · refine State.testReq_ok ?_ ..
        refine State.setNode_ok ?_ ..
        refine State.setFlag_ok ?_ ..
        exact hx10
      · refine State.fenceNode_ok ?_ ..
        exact hx10
    · exact hx10

theorem State.keepNode_ok (h : OK W q I s) (a1 a2) : OK W q I (State.keepNode s a1 a2) := by
  unfold State.keepNode
  extract_lets +onlyGivenNames -merge -useContext -underBinder x1
  extract_lets +onlyGivenNames -merge -useContext -underBinder x2
  refine State.setNode_ok ?_ ..
  exact h

theorem State.search_ok (h : OK W q I s) (a1) : OK W q I (State.search s a1) := by
  unfold State.search
  refine OK.ite (fun _ => ?_) (fun _ => ?_)
  · exact h
  · extract_lets +onlyGivenNames -merge -useContext -underBinder x1
    have hx1 : OK W q I x1 := by
      unfold x1
      refine State.formR_ok ?_ ..
      exact h
    extract_lets +onlyGivenNames -merge -useContext -underBinder x2
    extract_lets +onlyGivenNames -merge -useContext -underBinder x3
    extract_lets +onlyGivenNames -merge -useContext -underBinder x4
    have hx4 : OK W q I x4 := by
      unfold x4
      exact hx1
    extract_lets +onlyGivenNames -merge -useContext -underBinder x5
    have hx5 : OK W q I x5 := by
      unfold x5
      refine State.eachNode_ok (fun _ _ ht6 => ?_) ?_
      · refine State.searchNode_ok ?_ ..
        exact ht6
      · exact hx1
    extract_lets +onlyGivenNames -merge -useContext -underBinder x7
    extract_lets +onlyGivenNames -merge -useContext -underBinder x8
    have hx8 : OK W q I x8 := by
      unfold x8
      refine State.eachNode_ok (fun _ _ ht9 => ?_) ?_
      · refine State.keepNode_ok ?_ ..
        exact ht9
      · exact hx5
    extract_lets +onlyGivenNames -merge -useContext -underBinder x10
    refine State.setRing_ok ?_ ..
    exact hx8

theorem State.limitString_ok (h : OK W q I s) (a1 a2) : OK W q I (State.limitString s a1 a2) := by
  unfold State.limitString
  refine OK.ite (fun _ => ?_) (fun _ => ?_)
  · exact h
  · refine State.record_ok ?_ ..
    refine State.fenceStr_ok ?_ ..
    exact h

theorem State.limits_ok (h : OK W q I s) (a1) : OK W q I (State.limits s a1) := by
  unfold State.limits
  extract_lets +onlyGivenNames -merge -useContext -underBinder x1
  extract_lets +onlyGivenNames -merge -useContext -underBinder x2
  extract_lets +onlyGivenNames -merge -useContext -underBinder x3
  extract_lets +onlyGivenNames -merge -useContext -underBinder x4
  have hx4 : OK W q I x4 := by
    unfold x4
    refine State.eachNode_ok (fun _ _ ht5 => ?_) ?_
    · refine State.setNode_ok ?_ ..
      exact ht5
    · exact h
  extract_lets +onlyGivenNames -merge -useContext -underBinder x6
  have hx6 : OK W q I x6 := by
    unfold x6
    refine OK.ite (fun _ => ?_) (fun _ => ?_)
    · refine State.limitString_ok ?_ ..
      exact hx4
    · exact hx4
  extract_lets +onlyGivenNames -merge -useContext -underBinder x7
  have hx7 : OK W q I x7 := by
    unfold x7
    refine OK.ite (fun _ => ?_) (fun _ => ?_)
    · refine State.limitString_ok ?_ ..
      exact hx6
    · exact hx6
  extract_lets +onlyGivenNames -merge -useContext -underBinder x8
  have hx8 : OK W q I x8 := by
    unfold x8
    refine State.eachNode_ok (fun _ _ ht9 => ?_) ?_
    · refine OK.ite (fun _ => ?_) (fun _ => ?_)
      · refine State.record_ok ?_ ..
        exact ht9
      · exact ht9
    · exact hx7
  extract_lets +onlyGivenNames -merge -useContext -underBinder x10
  extract_lets +onlyGivenNames -merge -useContext -underBinder x11
  extract_lets +onlyGivenNames -merge -useContext -underBinder x12
  extract_lets +onlyGivenNames -merge -useContext -underBinder x13
  have hx13 : OK W q I x13 := by
    unfold x13
    refine State.setFlag_ok ?_ ..
    refine State.setRing_ok ?_ ..
    exact hx8
  refine OK.ite (fun _ => ?_) (fun _ => ?_)
  · refine State.record_ok ?_ ..
    exact hx13
  · exact hx13

theorem State.autoMasks_ok (h : OK W q I s) (a1) : OK W q I (State.autoMasks s a1) := by
  unfold State.autoMasks
  extract_lets +onlyGivenNames -merge -useContext -underBinder x1
  try clear_value x1
  extract_lets +onlyGivenNames -merge -useContext -underBinder x2
  extract_lets +onlyGivenNames -merge -useContext -underBinder x3
  refine State.eachNode_ok (fun _ _ ht4 => ?_) ?_
  · extract_lets +onlyGivenNames -merge -useContext -underBinder x5
    extract_lets +onlyGivenNames -merge -useContext -underBinder x6
    refine State.setNode_ok ?_ ..
    exact ht4
  · exact h

theorem execBalanceSend_ok (h : OK W q I s) (a0) : OKo W q I (execBalanceSend a0 s) := by
  unfold execBalanceSend
  refine OKo.next ?_
  extract_lets +onlyGivenNames -merge -useContext -underBinder x1
  refine OK.dite (fun _ => ?_) (fun _ => ?_)
  · extract_lets +onlyGivenNames -merge -useContext -underBinder x2
    refine OK.ite (fun _ => ?_) (fun _ => ?_)
    · extract_lets +onlyGivenNames -merge -useContext -underBinder x3
      refine State.transact_ok ?_ ..
      refine State.put_ok ?_ ..
      exact h
    · exact h
  · exact h

theorem State.keepBias_ok (h : OK W q I s) (a1 a2) : OK W q I (State.keepBias s a1 a2) := by
  unfold State.keepBias
  refine State.setNode_ok ?_ ..
  exact h

theorem State.sumRing_ok (h : OK W q I s) (a1) : OK W q I (State.sumRing s a1) := by
  unfold State.sumRing
  extract_lets +onlyGivenNames -merge -useContext -underBinder x1
  have hx1 : OK W q I x1 := by
    unfold x1
    refine State.put_ok ?_ ..
    exact h
  extract_lets +onlyGivenNames -merge -useContext -underBinder x2
  have hx2 : OK W q I x2 := by
    unfold x2
    refine State.putBF_ok ?_ ..
    exact hx1
  refine State.setFlag_ok ?_ ..
  exact hx2

theorem State.commitRing_ok (h : OK W q I s) (a1) : OK W q I (State.commitRing s a1) := by
  unfold State.commitRing
  refine OK.ite (fun _ => ?_) (fun _ => ?_)
  · exact h
  · extract_lets +onlyGivenNames -merge -useContext -underBinder x1
    have hx1 : OK W q I x1 := by
      unfold x1
      refine State.eachNode_ok (fun _ _ ht2 => ?_) ?_
      · refine State.keepBias_ok ?_ ..
        exact ht2
      · exact h
    extract_lets +onlyGivenNames -merge -useContext -underBinder x3
    have hx3 : OK W q I x3 := by
      unfold x3
      refine State.eachNode_ok (fun _ _ ht4 => ?_) ?_
      · refine State.commitNode_ok ?_ ..
        exact ht4
      · exact hx1
    extract_lets +onlyGivenNames -merge -useContext -underBinder x5
    have hx5 : OK W q I x5 := by
      unfold x5
      refine State.eachNode_ok (fun _ _ ht6 => ?_) ?_
      · refine State.substitute_ok ?_ ..
        exact ht6
      · refine State.countNodes_ok ?_ ..
        exact hx3
    refine State.autoMasks_ok ?_ ..
    refine State.limits_ok ?_ ..
    refine State.search_ok ?_ ..
    refine State.sumRing_ok ?_ ..
    exact hx5

theorem execReadingsCommit_ok (h : OK W q I s) : OKo W q I (execReadingsCommit s) := by
  unfold execReadingsCommit
  refine OKo.next ?_
  refine OK.ite (fun _ => ?_) (fun _ => ?_)
  · exact h
  · refine OK.foldl (fun _ _ ht1 => ?_) ?_
    · refine State.commitRing_ok ?_ ..
      exact ht1
    · exact h

theorem execOwtRequest_ok (h : OK W q I s) (a0) : OKo W q I (execOwtRequest a0 s) := by
  unfold execOwtRequest
  refine OKo.next ?_
  refine State.enqueue_ok ?_ ..
  exact h

theorem State.owtReq_ok (h : OK W q I s) (a1) : OK W q I (State.owtReq s a1) := by
  unfold State.owtReq
  refine OK.foldl (fun _ _ ht1 => ?_) ?_
  · refine OK.ite (fun _ => ?_) (fun _ => ?_)
    · refine State.testReq_ok ?_ ..
      exact ht1
    · exact ht1
  · exact h

theorem execOwtSend_ok (h : OK W q I s) (a0) : OKo W q I (execOwtSend a0 s) := by
  unfold execOwtSend
  refine OKo.next ?_
  refine OK.ite (fun _ => ?_) (fun _ => ?_)
  · refine State.broadcast_ok ?_ ..
    refine State.setFlag_ok ?_ ..
    exact h
  · exact h

theorem execOwRead_ok (h : OK W q I s) (a0) : OKo W q I (execOwRead a0 s) := by
  unfold execOwRead
  refine OKo.next ?_
  extract_lets +onlyGivenNames -merge -useContext -underBinder x1
  refine OK.dite (fun _ => ?_) (fun _ => ?_)
  · extract_lets +onlyGivenNames -merge -useContext -underBinder x2
    refine OK.ite (fun _ => ?_) (fun _ => ?_)
    · refine State.transact_ok ?_ ..
      exact h
    · exact h
  · exact h

theorem State.breakTap_ok (h : OK W q I s) (a1 a2 a3) : OK W q I (State.breakTap s a1 a2 a3) := by
  unfold State.breakTap
  refine OK.ite (fun _ => ?_) (fun _ => ?_)
  · exact h
  · refine State.substitute_ok ?_ ..
    refine State.record_ok ?_ ..
    refine State.put_ok ?_ ..
    exact h

theorem State.dropSuspects_ok (h : OK W q I s) (a1 a2) : OK W q I (State.dropSuspects s a1 a2) := by
  unfold State.dropSuspects
  extract_lets +onlyGivenNames -merge -useContext -underBinder x1
  have hx1 : OK W q I x1 := by
    unfold x1
    refine State.put_ok ?_ ..
    exact h
  extract_lets +onlyGivenNames -merge -useContext -underBinder x2
  have hx2 : OK W q I x2 := by
    unfold x2
    refine State.each_ok (fun _ _ ht3 => ?_) ?_
    · refine State.setFlag_ok ?_ ..
      exact ht3
    · exact hx1
  refine State.setNode_ok ?_ ..
  exact hx2

theorem State.cellFault_ok (h : OK W q I s) (a1 a2 a3) : OK W q I (State.cellFault s a1 a2 a3) := by
  unfold State.cellFault
  extract_lets +onlyGivenNames -merge -useContext -underBinder x1
  extract_lets +onlyGivenNames -merge -useContext -underBinder x2
  have hx2 : OK W q I x2 := by
    unfold x2
    refine OK.dite (fun _ => ?_) (fun _ => ?_)
    · refine State.setNode_ok ?_ ..
      exact h
    · exact h
  refine State.record_ok ?_ ..
  refine State.setRing_ok ?_ ..
  exact hx2

theorem State.judgeNode_ok (h : OK W q I s) (a1 a2 a3) : OK W q I (State.judgeNode s a1 a2 a3) := by
  unfold State.judgeNode
  extract_lets +onlyGivenNames -merge -useContext -underBinder x1
  extract_lets +onlyGivenNames -merge -useContext -underBinder x2
  extract_lets +onlyGivenNames -merge -useContext -underBinder x3
  extract_lets +onlyGivenNames -merge -useContext -underBinder x4
  extract_lets +onlyGivenNames -merge -useContext -underBinder x5
  try clear_value x5
  extract_lets +onlyGivenNames -merge -useContext -underBinder x6
  have hx6 : OK W q I x6 := by
    unfold x6
    refine State.dropSuspects_ok ?_ ..
    exact h
  extract_lets +onlyGivenNames -merge -useContext -underBinder x7
  extract_lets +onlyGivenNames -merge -useContext -underBinder x8
  have hx8 : OK W q I x8 := by
    unfold x8
    refine OK.ite (fun _ => ?_) (fun _ => ?_)
    · refine State.put_ok ?_ ..
      exact hx6
    · exact hx6
  refine OK.ite (fun _ => ?_) (fun _ => ?_)
  · refine State.fenceNode_ok ?_ ..
    exact hx8
  · refine OK.ite (fun _ => ?_) (fun _ => ?_)
    · refine State.breakTap_ok ?_ ..
      exact hx8
    · split
      · refine OK.ite (fun _ => ?_) (fun _ => ?_)
        · refine State.breakTap_ok ?_ ..
          exact hx8
        · refine OK.ite (fun _ => ?_) (fun _ => ?_)
          · refine State.breakTap_ok ?_ ..
            exact hx8
          · split
            · refine State.breakTap_ok ?_ ..
              refine State.cellFault_ok ?_ ..
              exact hx8
            · refine State.cellFault_ok ?_ ..
              exact hx8
      · refine OK.ite (fun _ => ?_) (fun _ => ?_)
        · exact hx8
        · refine State.breakTap_ok ?_ ..
          exact hx8
      · exact hx8

theorem State.owtNode_ok (h : OK W q I s) (a1 a2) : OK W q I (State.owtNode s a1 a2) := by
  unfold State.owtNode
  split
  · refine OK.ite (fun _ => ?_) (fun _ => ?_)
    · exact h
    · refine State.judgeNode_ok ?_ ..
      exact h
  · exact h

theorem State.owtRing_ok (h : OK W q I s) (a1) : OK W q I (State.owtRing s a1) := by
  unfold State.owtRing
  refine OK.ite (fun _ => ?_) (fun _ => ?_)
  · exact h
  · refine State.eachNode_ok (fun _ _ ht1 => ?_) ?_
    · refine State.owtNode_ok ?_ ..
      exact ht1
    · exact h

theorem execOwtCommit_ok (h : OK W q I s) : OKo W q I (execOwtCommit s) := by
  unfold execOwtCommit
  refine OKo.next ?_
  refine OK.ite (fun _ => ?_) (fun _ => ?_)
  · exact h
  · refine OK.foldl (fun _ _ ht1 => ?_) ?_
    · refine State.owtRing_ok ?_ ..
      exact ht1
    · exact h

theorem State.clearNode_ok (h : OK W q I s) (a1 a2) : OK W q I (State.clearNode s a1 a2) := by
  unfold State.clearNode
  refine OK.ite (fun _ => ?_) (fun _ => ?_)
  · refine State.countNodes_ok ?_ ..
    refine State.put_ok ?_ ..
    refine State.put_ok ?_ ..
    refine State.put_ok ?_ ..
    exact h
  · exact h

theorem State.clearCellStep_ok (h : OK W q I s) (a1) : OK W q I (State.clearCellStep s a1) := by
  unfold State.clearCellStep
  refine State.setRing_ok ?_ ..
  exact h

theorem State.setEst_ok (h : OK W q I s) (a1 a2) : OK W q I (State.setEst s a1 a2) := by
  unfold State.setEst
  refine OK.upd' ?_ rfl rfl rfl rfl
  exact h

theorem State.eachStr_ok {f : Fin 3 → State → State} (hf : ∀ i t, OK W q I t → OK W q I (f i t)) (h : OK W q I s) : OK W q I (State.eachStr f s) :=
  OK.foldl (fun t i => hf i t) h

theorem State.estClose_ok (h : OK W q I s) : OK W q I (State.estClose s) := by
  unfold State.estClose
  refine State.eachStr_ok (fun _ _ ht1 => ?_) ?_
  · refine OK.ite (fun _ => ?_) (fun _ => ?_)
    · exact ht1
    · extract_lets +onlyGivenNames -merge -useContext -underBinder x2
      extract_lets +onlyGivenNames -merge -useContext -underBinder x3
      extract_lets +onlyGivenNames -merge -useContext -underBinder x4
      extract_lets +onlyGivenNames -merge -useContext -underBinder x5
      have hx5 : OK W q I x5 := by
        unfold x5
        refine State.setEst_ok ?_ ..
        exact ht1
      extract_lets +onlyGivenNames -merge -useContext -underBinder x6
      have hx6 : OK W q I x6 := by
        unfold x6
        refine State.put64_ok ?_ ..
        exact hx5
      refine OK.ite (fun _ => ?_) (fun _ => ?_)
      · refine State.putBF_ok ?_ ..
        exact hx6
      · exact hx6
  · exact h

theorem State.dropAnchor_ok (h : OK W q I s) (a1) : OK W q I (State.dropAnchor s a1) := by
  unfold State.dropAnchor
  refine State.put_ok ?_ ..
  refine State.setEst_ok ?_ ..
  exact h

theorem State.dropTrack_ok (h : OK W q I s) (a1) : OK W q I (State.dropTrack s a1) := by
  unfold State.dropTrack
  refine State.setFlag_ok ?_ ..
  exact h

theorem State.estTick_ok (h : OK W q I s) : OK W q I (State.estTick s) := by
  unfold State.estTick
  refine OK.ite (fun _ => ?_) (fun _ => ?_)
  · exact h
  · refine State.eachStr_ok (fun _ _ ht1 => ?_) ?_
    · refine OK.ite (fun _ => ?_) (fun _ => ?_)
      · exact ht1
      · extract_lets +onlyGivenNames -merge -useContext -underBinder x2
        extract_lets +onlyGivenNames -merge -useContext -underBinder x3
        extract_lets +onlyGivenNames -merge -useContext -underBinder x4
        extract_lets +onlyGivenNames -merge -useContext -underBinder x5
        extract_lets +onlyGivenNames -merge -useContext -underBinder x6
        extract_lets +onlyGivenNames -merge -useContext -underBinder x7
        extract_lets +onlyGivenNames -merge -useContext -underBinder x8
        extract_lets +onlyGivenNames -merge -useContext -underBinder x9
        extract_lets +onlyGivenNames -merge -useContext -underBinder x10
        extract_lets +onlyGivenNames -merge -useContext -underBinder x11
        have hx11 : OK W q I x11 := by
          unfold x11
          refine State.setEst_ok ?_ ..
          exact ht1
        extract_lets +onlyGivenNames -merge -useContext -underBinder x12
        have hx12 : OK W q I x12 := by
          unfold x12
          refine State.put64_ok ?_ ..
          exact hx11
        extract_lets +onlyGivenNames -merge -useContext -underBinder x13
        have hx13 : OK W q I x13 := by
          unfold x13
          refine State.setFlag_ok ?_ ..
          exact hx12
        extract_lets +onlyGivenNames -merge -useContext -underBinder x14
        have hx14 : OK W q I x14 := by
          unfold x14
          refine OK.ite (fun _ => ?_) (fun _ => ?_)
          · refine State.dropTrack_ok ?_ ..
            refine State.dropAnchor_ok ?_ ..
            exact hx13
          · exact hx13
        extract_lets +onlyGivenNames -merge -useContext -underBinder x15
        have hx15 : OK W q I x15 := by
          unfold x15
          refine OK.ite (fun _ => ?_) (fun _ => ?_)
          · refine State.dropTrack_ok ?_ ..
            exact hx14
          · exact hx14
        refine OK.ite (fun _ => ?_) (fun _ => ?_)
        · refine State.record_ok ?_ ..
          refine State.setFlag_ok ?_ ..
          exact hx15
        · refine OK.ite (fun _ => ?_) (fun _ => ?_)
          · refine State.setFlag_ok ?_ ..
            exact hx15
          · exact hx15
    · exact h

theorem State.estRegs_ok (h : OK W q I s) (a1) : OK W q I (State.estRegs s a1) := by
  unfold State.estRegs
  extract_lets +onlyGivenNames -merge -useContext -underBinder x1
  extract_lets +onlyGivenNames -merge -useContext -underBinder x2
  have hx2 : OK W q I x2 := by
    unfold x2
    refine State.put_ok ?_ ..
    refine State.put_ok ?_ ..
    exact h
  extract_lets +onlyGivenNames -merge -useContext -underBinder x3
  have hx3 : OK W q I x3 := by
    unfold x3
    refine State.put_ok ?_ ..
    refine State.put_ok ?_ ..
    exact hx2
  extract_lets +onlyGivenNames -merge -useContext -underBinder x4
  have hx4 : OK W q I x4 := by
    unfold x4
    refine State.putBF_ok ?_ ..
    exact hx3
  extract_lets +onlyGivenNames -merge -useContext -underBinder x5
  refine State.put_ok ?_ ..
  refine State.put_ok ?_ ..
  exact hx4

theorem State.reanchor_ok (h : OK W q I s) (a1) : OK W q I (State.reanchor s a1) := by
  unfold State.reanchor
  refine State.setEst_ok ?_ ..
  exact h

theorem State.setZ_ok (h : OK W q I s) (a1 a2 a3) : OK W q I (State.setZ s a1 a2 a3) := by
  unfold State.setZ
  extract_lets +onlyGivenNames -merge -useContext -underBinder x1
  extract_lets +onlyGivenNames -merge -useContext -underBinder x2
  have hx2 : OK W q I x2 := by
    unfold x2
    refine OK.upd' ?_ rfl rfl rfl rfl
    exact h
  refine State.setEst_ok ?_ ..
  exact hx2

theorem State.report_ok (h : OK W q I s) (a1 a2) : OK W q I (State.report s a1 a2) := by
  unfold State.report
  extract_lets +onlyGivenNames -merge -useContext -underBinder x1
  extract_lets +onlyGivenNames -merge -useContext -underBinder x2
  have hx2 : OK W q I x2 := by
    unfold x2
    refine State.setEst_ok ?_ ..
    exact h
  refine OK.upd' (s := x2) ?_ rfl rfl rfl rfl
  exact hx2

theorem State.learn_ok (h : OK W q I s) (a1 a2 a3) : OK W q I (State.learn s a1 a2 a3) := by
  unfold State.learn
  extract_lets +onlyGivenNames -merge -useContext -underBinder x1
  refine OK.ite (fun _ => ?_) (fun _ => ?_)
  · extract_lets +onlyGivenNames -merge -useContext -underBinder x2
    extract_lets +onlyGivenNames -merge -useContext -underBinder x3
    have hx3 : OK W q I x3 := by
      unfold x3
      refine State.setEst_ok ?_ ..
      exact h
    extract_lets +onlyGivenNames -merge -useContext -underBinder x4
    have hx4 : OK W q I x4 := by
      unfold x4
      refine State.setFlag_ok ?_ ..
      exact hx3
    refine OK.upd' (s := x4) ?_ rfl rfl rfl rfl
    exact hx4
  · refine State.record_ok ?_ ..
    exact h

theorem State.takeCapacity_ok (h : OK W q I s) (a1) : OK W q I (State.takeCapacity s a1).1 := by
  unfold State.takeCapacity
  extract_lets +onlyGivenNames -merge -useContext -underBinder x1
  extract_lets +onlyGivenNames -merge -useContext -underBinder x2
  extract_lets +onlyGivenNames -merge -useContext -underBinder x3
  extract_lets +onlyGivenNames -merge -useContext -underBinder x4
  show OK W q I _
  refine State.put_ok ?_ ..
  refine State.put_ok ?_ ..
  exact h

theorem State.cvStep_ok (h : OK W q I s) (a1) : OK W q I (State.cvStep s a1) := by
  unfold State.cvStep
  extract_lets +onlyGivenNames -merge -useContext -underBinder x1
  extract_lets +onlyGivenNames -merge -useContext -underBinder x2
  extract_lets +onlyGivenNames -merge -useContext -underBinder x3
  extract_lets +onlyGivenNames -merge -useContext -underBinder x4
  extract_lets +onlyGivenNames -merge -useContext -underBinder x5
  extract_lets +onlyGivenNames -merge -useContext -underBinder x6
  refine State.setFlag_ok ?_ ..
  refine State.setEst_ok ?_ ..
  exact h

theorem State.taperStep_ok (h : OK W q I s) (a1) : OK W q I (State.taperStep s a1) := by
  unfold State.taperStep
  extract_lets +onlyGivenNames -merge -useContext -underBinder x1
  extract_lets +onlyGivenNames -merge -useContext -underBinder x2
  refine OK.ite (fun _ => ?_) (fun _ => ?_)
  · refine State.put_ok ?_ ..
    refine State.setEst_ok ?_ ..
    exact h
  · split
    · refine State.put_ok ?_ ..
      refine State.setEst_ok ?_ ..
      exact h
    · extract_lets +onlyGivenNames -merge -useContext -underBinder x3
      have hx3 : OK W q I x3 := by
        unfold x3
        refine State.bumpSat_ok ?_ ..
        exact h
      refine OK.ite (fun _ => ?_) (fun _ => ?_)
      · refine State.setEst_ok ?_ ..
        exact hx3
      · exact hx3

theorem State.restStep_ok (h : OK W q I s) (a1) : OK W q I (State.restStep s a1) := by
  unfold State.restStep
  extract_lets +onlyGivenNames -merge -useContext -underBinder x1
  extract_lets +onlyGivenNames -merge -useContext -underBinder x2
  extract_lets +onlyGivenNames -merge -useContext -underBinder x3
  have hx3 : OK W q I x3 := by
    unfold x3
    refine State.setFlag_ok ?_ ..
    exact h
  refine OK.ite (fun _ => ?_) (fun _ => ?_)
  · refine State.put_ok ?_ ..
    refine State.setEst_ok ?_ ..
    exact hx3
  · split
    · refine State.put_ok ?_ ..
      refine State.setEst_ok ?_ ..
      exact hx3
    · extract_lets +onlyGivenNames -merge -useContext -underBinder x4
      have hx4 : OK W q I x4 := by
        unfold x4
        refine State.bumpSat_ok ?_ ..
        exact hx3
      refine OK.ite (fun _ => ?_) (fun _ => ?_)
      · refine State.put_ok ?_ ..
        refine State.setEst_ok ?_ ..
        exact hx4
      · exact hx4

theorem State.trackStep_ok (h : OK W q I s) (a1) : OK W q I (State.trackStep s a1) := by
  unfold State.trackStep
  refine OK.ite (fun _ => ?_) (fun _ => ?_)
  · exact h
  · extract_lets +onlyGivenNames -merge -useContext -underBinder x1
    extract_lets +onlyGivenNames -merge -useContext -underBinder x2
    extract_lets +onlyGivenNames -merge -useContext -underBinder x3
    extract_lets +onlyGivenNames -merge -useContext -underBinder x4
    have hx4 : OK W q I x4 := by
      unfold x4
      refine State.setEst_ok ?_ ..
      exact h
    refine OK.ite (fun _ => ?_) (fun _ => ?_)
    · refine State.dropTrack_ok ?_ ..
      exact hx4
    · exact hx4

theorem State.countStep_ok (h : OK W q I s) (a1) : OK W q I (State.countStep s a1) := by
  unfold State.countStep
  extract_lets +onlyGivenNames -merge -useContext -underBinder x1
  extract_lets +onlyGivenNames -merge -useContext -underBinder x2
  extract_lets +onlyGivenNames -merge -useContext -underBinder x3
  extract_lets +onlyGivenNames -merge -useContext -underBinder x4
  extract_lets +onlyGivenNames -merge -useContext -underBinder x5
  extract_lets +onlyGivenNames -merge -useContext -underBinder x6
  extract_lets +onlyGivenNames -merge -useContext -underBinder x7
  refine OK.ite (fun _ => ?_) (fun _ => ?_)
  · refine State.setEst_ok ?_ ..
    exact h
  · split
    · refine State.setEst_ok ?_ ..
      exact h
    · refine State.setEst_ok ?_ ..
      exact h

theorem State.cutoff_ok (h : OK W q I s) (a1 a2) : OK W q I (State.cutoff s a1 a2) := by
  unfold State.cutoff
  extract_lets +onlyGivenNames -merge -useContext -underBinder x1
  have hx1 : OK W q I x1 := by
    unfold x1
    refine State.reanchor_ok ?_ ..
    refine State.setFlag_ok ?_ ..
    refine State.setZ_ok ?_ ..
    exact h
  extract_lets +onlyGivenNames -merge -useContext -underBinder x2
  have hx2 : OK W q I x2 := by
    unfold x2
    refine State.report_ok ?_ ..
    exact hx1
  extract_lets +onlyGivenNames -merge -useContext -underBinder x3
  have hx3 : OK W q I x3 := by
    unfold x3
    refine OK.ite (fun _ => ?_) (fun _ => ?_)
    · refine State.dropTrack_ok ?_ ..
      refine State.learn_ok ?_ ..
      exact hx2
    · exact hx2
  refine State.setFlag_ok ?_ ..
  exact hx3

theorem State.commitString_ok (h : OK W q I s) (a1) : OK W q I (State.commitString s a1) := by
  unfold State.commitString
  refine OK.ite (fun _ => ?_) (fun _ => ?_)
  · exact h
  · extract_lets +onlyGivenNames -merge -useContext -underBinder x1
    extract_lets +onlyGivenNames -merge -useContext -underBinder x2
    have hx2 : OK W q I x2 := by
      unfold x2
      refine State.setEst_ok ?_ ..
      exact h
    extract_lets +onlyGivenNames -merge -useContext -underBinder x3
    have hx3 : OK W q I x3 := by
      unfold x3
      refine State.setFlag_ok ?_ ..
      exact hx2
    extract_lets +onlyGivenNames -merge -useContext -underBinder x4
    have hx4 : OK W q I x4.1 := by
      unfold x4
      refine State.takeCapacity_ok ?_ ..
      exact hx3
    extract_lets +onlyGivenNames -merge -useContext -underBinder x5
    have hx5 : OK W q I x5 := by
      unfold x5
      exact hx4
    refine OK.ite (fun _ => ?_) (fun _ => ?_)
    · refine OK.ite (fun _ => ?_) (fun _ => ?_)
      · extract_lets +onlyGivenNames -merge -useContext -underBinder x6
        extract_lets +onlyGivenNames -merge -useContext -underBinder x7
        have hx7 : OK W q I x7 := by
          unfold x7
          refine State.setEst_ok ?_ ..
          exact hx5
        refine State.estRegs_ok ?_ ..
        refine State.setFlag_ok ?_ ..
        refine State.report_ok ?_ ..
        refine State.reanchor_ok ?_ ..
        exact hx7
      · exact hx5
    · extract_lets +onlyGivenNames -merge -useContext -underBinder x8
      have hx8 : OK W q I x8 := by
        unfold x8
        refine State.taperStep_ok ?_ ..
        refine State.cvStep_ok ?_ ..
        exact hx5
      extract_lets +onlyGivenNames -merge -useContext -underBinder x9
      have hx9 : OK W q I x9 := by
        unfold x9
        refine State.trackStep_ok ?_ ..
        exact hx8
      extract_lets +onlyGivenNames -merge -useContext -underBinder x10
      have hx10 : OK W q I x10 := by
        unfold x10
        refine State.countStep_ok ?_ ..
        exact hx9
      extract_lets +onlyGivenNames -merge -useContext -underBinder x11
      have hx11 : OK W q I x11 := by
        unfold x11
        refine OK.ite (fun _ => ?_) (fun _ => ?_)
        · refine State.reanchor_ok ?_ ..
          exact hx10
        · exact hx10
      extract_lets +onlyGivenNames -merge -useContext -underBinder x12
      have hx12 : OK W q I x12 := by
        unfold x12
        refine State.report_ok ?_ ..
        exact hx11
      extract_lets +onlyGivenNames -merge -useContext -underBinder x13
      have hx13 : OK W q I x13 := by
        unfold x13
        split
        · refine State.cutoff_ok ?_ ..
          exact hx12
        · exact hx12
      refine State.estRegs_ok ?_ ..
      refine State.restStep_ok ?_ ..
      exact hx13

theorem State.takeEstimate_ok (h : OK W q I s) (a1) : OK W q I (State.takeEstimate s a1) := by
  unfold State.takeEstimate
  extract_lets +onlyGivenNames -merge -useContext -underBinder x1
  refine OK.upd' ?_ rfl rfl rfl rfl
  exact h

theorem State.estTaken_ok (h : OK W q I s) : OK W q I (State.estTaken s) := by
  unfold State.estTaken
  refine OK.upd' ?_ rfl rfl rfl rfl
  exact h

theorem execEstimateRecord_ok (h : OK W q I s) : OKo W q I (execEstimateRecord s) := by
  unfold execEstimateRecord
  refine OKo.next ?_
  split
  · exact h
  · refine OK.ite (fun _ => ?_) (fun _ => ?_)
    · refine State.estTaken_ok ?_ ..
      exact h
    · refine OK.foldl (fun _ _ ht1 => ?_) ?_
      · refine State.commitString_ok ?_ ..
        exact ht1
      · refine State.takeEstimate_ok ?_ ..
        refine State.estTaken_ok ?_ ..
        exact h

theorem State.endCharge_ok (h : OK W q I s) (a1) : OK W q I (State.endCharge s a1) := by
  unfold State.endCharge
  extract_lets +onlyGivenNames -merge -useContext -underBinder x1
  have hx1 : OK W q I x1 := by
    unfold x1
    refine State.report_ok ?_ ..
    refine State.reanchor_ok ?_ ..
    refine State.setZ_ok ?_ ..
    exact h
  extract_lets +onlyGivenNames -merge -useContext -underBinder x2
  extract_lets +onlyGivenNames -merge -useContext -underBinder x3
  have hx3 : OK W q I x3 := by
    unfold x3
    refine State.setEst_ok ?_ ..
    exact hx1
  extract_lets +onlyGivenNames -merge -useContext -underBinder x4
  have hx4 : OK W q I x4 := by
    unfold x4
    refine State.setFlag_ok ?_ ..
    refine State.setFlag_ok ?_ ..
    exact hx3
  refine State.estRegs_ok ?_ ..
  refine State.setFlag_ok ?_ ..
  refine State.put_ok ?_ ..
  exact hx4

theorem execEndOfCharge_ok (h : OK W q I s) (a0) : OKo W q I (execEndOfCharge a0 s) := by
  unfold execEndOfCharge
  refine OKo.next ?_
  refine OK.ite (fun _ => ?_) (fun _ => ?_)
  · exact h
  · refine State.endCharge_ok ?_ ..
    exact h

theorem State.setDue_ok (h : OK W q I s) (a1) : OK W q I (State.setDue s a1) := by
  unfold State.setDue
  refine OK.upd' ?_ rfl rfl rfl rfl
  exact h

theorem State.diverged_ok (h : OK W q I s) (a1) : OK W q I (State.diverged s a1) := by
  unfold State.diverged
  extract_lets +onlyGivenNames -merge -useContext -underBinder x1
  extract_lets +onlyGivenNames -merge -useContext -underBinder x2
  have hx2 : OK W q I x2 := by
    unfold x2
    refine State.reanchor_ok ?_ ..
    refine State.setDue_ok ?_ ..
    exact h
  refine State.record_ok ?_ ..
  refine State.estRegs_ok ?_ ..
  refine State.setFlag_ok ?_ ..
  refine State.setFlag_ok ?_ ..
  exact hx2

theorem execDivergenceConflict_ok (h : OK W q I s) (a0) : OKo W q I (execDivergenceConflict a0 s) := by
  unfold execDivergenceConflict
  refine OKo.next ?_
  refine OK.ite (fun _ => ?_) (fun _ => ?_)
  · exact h
  · refine State.diverged_ok ?_ ..
    exact h

theorem State.putAnchor_ok (h : OK W q I s) (a1) : OK W q I (State.putAnchor s a1) := by
  unfold State.putAnchor
  extract_lets +onlyGivenNames -merge -useContext -underBinder x1
  refine State.put_ok ?_ ..
  refine State.setEst_ok ?_ ..
  exact h

theorem State.calibrate_ok (h : OK W q I s) (a1) : OK W q I (State.calibrate s a1) := by
  unfold State.calibrate
  refine OK.ite (fun _ => ?_) (fun _ => ?_)
  · exact h
  · split
    · refine State.putAnchor_ok ?_ ..
      exact h
    · refine OK.ite (fun _ => ?_) (fun _ => ?_)
      · refine State.putAnchor_ok ?_ ..
        refine State.learn_ok ?_ ..
        exact h
      · refine OK.ite (fun _ => ?_) (fun _ => ?_)
        · refine State.putAnchor_ok ?_ ..
          exact h
        · exact h

theorem State.restTaken_ok (h : OK W q I s) (a1) : OK W q I (State.restTaken s a1) := by
  unfold State.restTaken
  refine State.reanchor_ok ?_ ..
  refine State.setEst_ok ?_ ..
  exact h

theorem execRestPoint_ok (h : OK W q I s) (a0) : OKo W q I (execRestPoint a0 s) := by
  unfold execRestPoint
  refine OKo.next ?_
  refine OK.ite (fun _ => ?_) (fun _ => ?_)
  · exact h
  · refine State.estRegs_ok ?_ ..
    refine State.calibrate_ok ?_ ..
    refine State.restTaken_ok ?_ ..
    exact h

theorem execAnchorExpiry_ok (h : OK W q I s) (a0) : OKo W q I (execAnchorExpiry a0 s) := by
  unfold execAnchorExpiry
  refine OKo.next ?_
  split
  · refine OK.ite (fun _ => ?_) (fun _ => ?_)
    · refine State.setEst_ok ?_ ..
      exact h
    · exact h
  · exact h

theorem execAnchorDiscard_ok (h : OK W q I s) (a0) : OKo W q I (execAnchorDiscard a0 s) := by
  unfold execAnchorDiscard
  refine OKo.next ?_
  refine State.enqueue_ok ?_ ..
  exact h

theorem State.discardAnchors_ok (h : OK W q I s) (a1) : OK W q I (State.discardAnchors s a1) := by
  unfold State.discardAnchors
  refine State.eachStr_ok (fun _ _ ht1 => ?_) ?_
  · refine OK.ite (fun _ => ?_) (fun _ => ?_)
    · refine State.dropAnchor_ok ?_ ..
      exact ht1
    · exact ht1
  · exact h

theorem execModelValidWrite_ok (h : OK W q I s) (a0 a1) : OKo W q I (execModelValidWrite a0 a1 s) := by
  unfold execModelValidWrite
  refine OKo.next ?_
  refine State.enqueue_ok ?_ ..
  exact h

theorem State.modelValid_ok (h : OK W q I s) (a1 a2) : OK W q I (State.modelValid s a1 a2) := by
  unfold State.modelValid
  extract_lets +onlyGivenNames -merge -useContext -underBinder x1
  extract_lets +onlyGivenNames -merge -useContext -underBinder x2
  have hx2 : OK W q I x2 := by
    unfold x2
    refine State.setFlag_ok ?_ ..
    exact h
  refine OK.ite (fun _ => ?_) (fun _ => ?_)
  · extract_lets +onlyGivenNames -merge -useContext -underBinder x3
    extract_lets +onlyGivenNames -merge -useContext -underBinder x4
    have hx4 : OK W q I x4 := by
      unfold x4
      refine State.setFlag_ok ?_ ..
      refine State.setEst_ok ?_ ..
      exact hx2
    refine OK.upd' (s := x4) ?_ rfl rfl rfl rfl
    exact hx4
  · exact hx2

theorem State.takeEstStr_ok (h : OK W q I s) (a0 a2) : OK W q I (State.takeEstStr a0 s a2) := by
  unfold State.takeEstStr
  extract_lets +onlyGivenNames -merge -useContext -underBinder x1
  have hx1 : OK W q I x1 := by
    unfold x1
    refine OK.foldl (fun _ _ ht2 => ?_) ?_
    · refine State.wr_ok ?_ ..
      exact ht2
    · exact h
  refine OK.upd' (s := x1) ?_ rfl rfl rfl rfl
  exact hx1

theorem State.takeEst_ok (h : OK W q I s) (a1) : OK W q I (State.takeEst s a1) := by
  unfold State.takeEst
  refine OK.upd' ?_ rfl rfl rfl rfl
  exact h

theorem execEstimationBulk_ok (h : OK W q I s) (a0) : OKo W q I (execEstimationBulk a0 s) := by
  unfold execEstimationBulk
  refine OKo.next ?_
  refine OK.ite (fun _ => ?_) (fun _ => ?_)
  · exact h
  · refine OK.foldl (fun _ _ ht1 => ?_) ?_
    · refine State.takeEstStr_ok ?_ ..
      exact ht1
    · refine State.takeEst_ok ?_ ..
      exact h

theorem State.slotStat_ok (h : OK W q I s) : OK W q I (State.slotStat s) := by
  unfold State.slotStat
  extract_lets +onlyGivenNames -merge -useContext -underBinder x1
  have hx1 : OK W q I x1 := by
    unfold x1
    refine State.setFlag_ok ?_ ..
    refine State.setFlag_ok ?_ ..
    exact h
  split
  · refine State.put_ok ?_ ..
    exact hx1
  · refine State.put_ok ?_ ..
    refine State.setFlag_ok ?_ ..
    exact hx1

theorem State.setSlots_ok (h : OK W q I s) (a1 a2 a3 a4) : OK W q I (State.setSlots s a1 a2 a3 a4) := by
  unfold State.setSlots
  refine OK.upd' ?_ rfl rfl rfl rfl
  exact h

theorem State.storeFailed_ok (h : OK W q I s) : OK W q I (State.storeFailed s) := by
  unfold State.storeFailed
  refine State.record_ok ?_ ..
  refine State.setFlag_ok ?_ ..
  refine OK.upd' ?_ rfl rfl rfl rfl
  exact h

theorem State.slotFailed_ok (h : OK W q I s) : OK W q I (State.slotFailed s) := by
  unfold State.slotFailed
  extract_lets +onlyGivenNames -merge -useContext -underBinder x1
  have hx1 : OK W q I x1 := by
    unfold x1
    refine State.slotStat_ok ?_ ..
    refine State.setFlag_ok ?_ ..
    refine State.setSlots_ok ?_ ..
    exact h
  refine OK.ite (fun _ => ?_) (fun _ => ?_)
  · refine State.storeFailed_ok ?_ ..
    exact hx1
  · exact hx1

theorem State.slotStored_ok (h : OK W q I s) : OK W q I (State.slotStored s) := by
  unfold State.slotStored
  refine State.slotStat_ok ?_ ..
  refine State.setFlag_ok ?_ ..
  refine State.setSlots_ok ?_ ..
  exact h

theorem execCapacityStoreWrite_ok (h : OK W q I s) (a0) : OKo W q I (execCapacityStoreWrite a0 s) := by
  unfold execCapacityStoreWrite
  refine OKo.next ?_
  refine OK.ite (fun _ => ?_) (fun _ => ?_)
  · exact h
  · refine OK.ite (fun _ => ?_) (fun _ => ?_)
    · refine State.slotStored_ok ?_ ..
      exact h
    · refine State.slotFailed_ok ?_ ..
      exact h

theorem State.selectCapacity_ok (h : OK W q I s) : OK W q I (State.selectCapacity s) := by
  unfold State.selectCapacity
  extract_lets +onlyGivenNames -merge -useContext -underBinder x1
  have hx1 : OK W q I x1 := by
    unfold x1
    refine State.slotStat_ok ?_ ..
    exact h
  split
  · extract_lets +onlyGivenNames -merge -useContext -underBinder x2
    extract_lets +onlyGivenNames -merge -useContext -underBinder x3
    have hx3 : OK W q I x3 := by
      unfold x3
      refine OK.upd' (s := x1) ?_ rfl rfl rfl rfl
      exact hx1
    refine State.eachStr_ok (fun _ _ ht4 => ?_) ?_
    · refine State.setFlag_ok ?_ ..
      refine State.setEst_ok ?_ ..
      exact ht4
    · exact hx3
  · refine State.record_ok ?_ ..
    refine State.eachStr_ok (fun _ _ ht5 => ?_) ?_
    · refine State.setFlag_ok ?_ ..
      exact ht5
    · exact hx1

end Sys2Proof.Machine
end

