-- ==== Sys2Proof/Laws/KeepPair.lean ====
section
/-! SUPPORT. What the operations of Sessions, Resets, Power, Recovery, Lockstep keep (Laws/Keep). -/

namespace Sys2Proof.Machine

variable {W : Prop} {q : List Instr} {I : Nat → Nat → Prop} {s : State}

theorem State.auditRegs_ok (h : OK W q I s) : OK W q I (State.auditRegs s) := by
  unfold State.auditRegs
  extract_lets +onlyGivenNames -merge -useContext -underBinder x1
  refine State.setFlag_ok ?_ ..
  refine State.put_ok ?_ ..
  refine State.put64_ok ?_ ..
  exact h

theorem State.unstage_ok (h : OK W q I s) (a1) : OK W q I (State.unstage s a1) := by
  unfold State.unstage
  refine OK.upd' ?_ rfl rfl rfl rfl
  exact h

theorem State.auditMove_ok (h : OK W q I s) : OK W q I (State.auditMove s) := by
  unfold State.auditMove
  extract_lets +onlyGivenNames -merge -useContext -underBinder x1
  extract_lets +onlyGivenNames -merge -useContext -underBinder x2
  extract_lets +onlyGivenNames -merge -useContext -underBinder x3
  extract_lets +onlyGivenNames -merge -useContext -underBinder x4
  refine State.auditRegs_ok ?_ ..
  refine State.unstage_ok ?_ ..
  exact h

theorem State.addEntry_ok (h : OK W q I s) (a1 a2) : OK W q I (State.addEntry s a1 a2) := by
  unfold State.addEntry
  refine OK.upd' ?_ rfl rfl rfl rfl
  exact h

theorem State.audit_ok (h : OK W q I s) (a1 a2 a3 a4 a5 a6) : OK W q I (State.audit s a1 a2 a3 a4 a5 a6) := by
  unfold State.audit
  extract_lets +onlyGivenNames -merge -useContext -underBinder x1
  extract_lets +onlyGivenNames -merge -useContext -underBinder x2
  have hx2 : OK W q I x2 := by
    unfold x2
    refine State.auditRegs_ok ?_ ..
    refine State.addEntry_ok ?_ ..
    exact h
  refine OK.ite (fun _ => ?_) (fun _ => ?_)
  · refine State.auditMove_ok ?_ ..
    exact hx2
  · exact hx2

theorem State.sessionRegs_ok (h : OK W q I s) : OK W q I (State.sessionRegs s) := by
  unfold State.sessionRegs
  extract_lets +onlyGivenNames -merge -useContext -underBinder x1
  extract_lets +onlyGivenNames -merge -useContext -underBinder x2
  have hx2 : OK W q I x2 := by
    unfold x2
    refine State.each_ok (fun _ _ ht3 => ?_) ?_
    · refine State.put_ok ?_ ..
      exact ht3
    · exact h
  refine State.put_ok ?_ ..
  refine State.put_ok ?_ ..
  refine State.put_ok ?_ ..
  exact hx2

theorem State.semRegs_ok (h : OK W q I s) : OK W q I (State.semRegs s) := by
  unfold State.semRegs
  split
  · refine State.put_ok ?_ ..
    refine State.put_ok ?_ ..
    refine State.put_ok ?_ ..
    refine State.setFlag_ok ?_ ..
    exact h
  · extract_lets +onlyGivenNames -merge -useContext -underBinder x1
    refine State.put_ok ?_ ..
    refine State.put_ok ?_ ..
    refine State.put_ok ?_ ..
    refine State.setFlag_ok ?_ ..
    exact h

theorem State.setSem_ok (h : OK W q I s) (a1) : OK W q I (State.setSem s a1) := by
  unfold State.setSem
  refine OK.upd' ?_ rfl rfl rfl rfl
  exact h

theorem State.semFree_ok (h : OK W q I s) : OK W q I (State.semFree s) := by
  unfold State.semFree
  refine State.semRegs_ok ?_ ..
  refine State.setSem_ok ?_ ..
  exact h

theorem State.dropSession_ok (h : OK W q I s) (a1 a2) : OK W q I (State.dropSession s a1 a2) := by
  unfold State.dropSession
  refine OK.upd' ?_ rfl rfl rfl rfl
  exact h

theorem State.endSession_ok (h : OK W q I s) (a1 a2) : OK W q I (State.endSession s a1 a2) := by
  unfold State.endSession
  split
  · exact h
  · extract_lets +onlyGivenNames -merge -useContext -underBinder x1
    have hx1 : OK W q I x1 := by
      unfold x1
      refine OK.ite (fun _ => ?_) (fun _ => ?_)
      · refine State.semFree_ok ?_ ..
        exact h
      · exact h
    extract_lets +onlyGivenNames -merge -useContext -underBinder x2
    have hx2 : OK W q I x2 := by
      unfold x2
      refine State.dropSession_ok ?_ ..
      exact hx1
    refine State.sessionRegs_ok ?_ ..
    refine State.audit_ok ?_ ..
    exact hx2

theorem State.endSessions_ok (h : OK W q I s) (a1) : OK W q I (State.endSessions s a1) := by
  unfold State.endSessions
  refine OK.foldl (fun _ _ ht1 => ?_) ?_
  · refine State.endSession_ok ?_ ..
    exact ht1
  · exact h

theorem execSessionIdleExpiry_ok (h : OK W q I s) (a0 a1) : OKo W q I (execSessionIdleExpiry a0 a1 s) := by
  unfold execSessionIdleExpiry
  refine OKo.next ?_
  split
  · refine OK.ite (fun _ => ?_) (fun _ => ?_)
    · refine State.endSession_ok ?_ ..
      exact h
    · exact h
  · exact h

theorem State.leaseEnds_ok (h : OK W q I s) (a1 a2) : OK W q I (State.leaseEnds s a1 a2) := by
  unfold State.leaseEnds
  refine State.audit_ok ?_ ..
  refine State.record_ok ?_ ..
  refine State.bump_ok ?_ ..
  refine State.semFree_ok ?_ ..
  exact h

theorem execLeaseExpiry_ok (h : OK W q I s) : OKo W q I (execLeaseExpiry s) := by
  unfold execLeaseExpiry
  refine OKo.next ?_
  split
  · refine OK.ite (fun _ => ?_) (fun _ => ?_)
    · refine State.leaseEnds_ok ?_ ..
      exact h
    · exact h
  · exact h

theorem execPortLinkLoss_ok (h : OK W q I s) (a0) : OKo W q I (execPortLinkLoss a0 s) := by
  unfold execPortLinkLoss
  refine OKo.next ?_
  extract_lets +onlyGivenNames -merge -useContext -underBinder x1
  have hx1 : OK W q I x1 := by
    unfold x1
    refine OK.ite (fun _ => ?_) (fun _ => ?_)
    · refine State.setFlag_ok ?_ ..
      exact h
    · exact h
  refine State.endSessions_ok ?_ ..
  exact hx1

theorem execPortLinkUp_ok (h : OK W q I s) (a0 a1) : OKo W q I (execPortLinkUp a0 a1 s) := by
  unfold execPortLinkUp
  refine OKo.next ?_
  extract_lets +onlyGivenNames -merge -useContext -underBinder x1
  have hx1 : OK W q I x1 := by
    unfold x1
    refine State.setFlag_ok ?_ ..
    exact h
  refine OK.ite (fun _ => ?_) (fun _ => ?_)
  · refine State.setFlag_ok ?_ ..
    exact hx1
  · exact hx1

theorem State.keepWords_ok {l : List Nat} {f : State → State} (hf : ∀ t, OK W q I t → OK W q I (f t)) (h : OK W q I s) :
    OK W q I (State.keepWords s l f) := OK.foldl (fun _ _ ht => State.wr_ok ht ..) (hf s h)

theorem State.rstRegs_ok (h : OK W q I s) : OK W q I (State.rstRegs s) := by
  unfold State.rstRegs
  refine State.put_ok ?_ ..
  exact h

theorem State.countReset_ok (h : OK W q I s) (a1 a2) : OK W q I (State.countReset s a1 a2) := by
  unfold State.countReset
  split
  · refine State.bump_ok ?_ ..
    refine State.put_ok ?_ ..
    exact h
  · refine State.bump_ok ?_ ..
    refine State.put_ok ?_ ..
    exact h
  · refine State.bump_ok ?_ ..
    refine State.put_ok ?_ ..
    exact h
  · refine State.bump_ok ?_ ..
    refine State.put_ok ?_ ..
    exact h

theorem State.releaseValid_ok (h : OK W q I s) : OK W q I (State.releaseValid s) := by
  unfold State.releaseValid
  refine State.setFlag_ok ?_ ..
  refine OK.upd' ?_ rfl rfl rfl rfl
  exact h

theorem State.spoilPasses_ok (h : OK W q I s) : OK W q I (State.spoilPasses s) := by
  unfold State.spoilPasses
  refine OK.upd' ?_ rfl rfl rfl rfl
  exact h

theorem State.resetLoop_ok (h : OK W q I s) : OK W q I (State.resetLoop s) := by
  unfold State.resetLoop
  extract_lets +onlyGivenNames -merge -useContext -underBinder x1
  extract_lets +onlyGivenNames -merge -useContext -underBinder x2
  have hx2 : OK W q I x2 := by
    unfold x2
    refine OK.ite (fun _ => ?_) (fun _ => ?_)
    · exact h
    · refine OK.upd' ?_ rfl rfl rfl rfl
      exact h
  extract_lets +onlyGivenNames -merge -useContext -underBinder x3
  have hx3 : OK W q I x3 := by
    unfold x3
    refine State.keepWords_ok (fun _ ht4 => ?_) ?_
    · refine OK.resetBlocks ?_ ..
      exact ht4
    · exact hx2
  extract_lets +onlyGivenNames -merge -useContext -underBinder x5
  refine State.releaseValid_ok ?_ ..
  refine OK.upd' (s := x3) ?_ rfl rfl rfl rfl
  exact hx3

theorem State.resetCompute_ok (h : OK W q I s) : OK W q I (State.resetCompute s) := by
  unfold State.resetCompute
  extract_lets +onlyGivenNames -merge -useContext -underBinder x1
  extract_lets +onlyGivenNames -merge -useContext -underBinder x2
  have hx2 : OK W q I x2 := by
    unfold x2
    refine State.keepWords_ok (fun _ ht3 => ?_) ?_
    · refine OK.resetBlocks ?_ ..
      exact ht3
    · exact h
  extract_lets +onlyGivenNames -merge -useContext -underBinder x4
  have hx4 : OK W q I x4 := by
    unfold x4
    refine State.put_ok ?_ ..
    exact hx2
  refine State.spoilPasses_ok ?_ ..
  refine OK.upd' (s := x4) ?_ rfl rfl rfl rfl
  exact hx4

theorem State.resetLinks_ok (h : OK W q I s) : OK W q I (State.resetLinks s) := by
  unfold State.resetLinks
  extract_lets +onlyGivenNames -merge -useContext -underBinder x1
  have hx1 : OK W q I x1 := by
    unfold x1
    refine State.endSessions_ok ?_ ..
    exact h
  extract_lets +onlyGivenNames -merge -useContext -underBinder x2
  have hx2 : OK W q I x2 := by
    unfold x2
    refine State.semFree_ok ?_ ..
    exact hx1
  extract_lets +onlyGivenNames -merge -useContext -underBinder x3
  have hx3 : OK W q I x3 := by
    unfold x3
    refine OK.resetBlocks ?_ ..
    exact hx2
  extract_lets +onlyGivenNames -merge -useContext -underBinder x4
  extract_lets +onlyGivenNames -merge -useContext -underBinder x5
  extract_lets +onlyGivenNames -merge -useContext -underBinder x6
  extract_lets +onlyGivenNames -merge -useContext -underBinder x7
  have hx7 : OK W q I x7 := by
    unfold x7
    refine OK.upd' (s := x3) ?_ rfl rfl rfl rfl
    exact hx3
  refine State.auditRegs_ok ?_ ..
  refine State.sessionRegs_ok ?_ ..
  refine State.releaseValid_ok ?_ ..
  exact hx7

theorem State.resetMemory_ok (h : OK W q I s) : OK W q I (State.resetMemory s) := by
  unfold State.resetMemory
  refine State.spoilPasses_ok ?_ ..
  exact h

theorem State.assertDomain_ok (h : OK W q I s) (a1 a2) : OK W q I (State.assertDomain s a1 a2) := by
  unfold State.assertDomain
  extract_lets +onlyGivenNames -merge -useContext -underBinder x1
  extract_lets +onlyGivenNames -merge -useContext -underBinder x2
  have hx2 : OK W q I x2 := by
    unfold x2
    refine State.rstRegs_ok ?_ ..
    refine State.countReset_ok ?_ ..
    refine OK.upd' ?_ rfl rfl rfl rfl
    exact h
  split
  · refine State.resetLoop_ok ?_ ..
    exact hx2
  · refine State.resetCompute_ok ?_ ..
    exact hx2
  · refine State.resetLinks_ok ?_ ..
    exact hx2
  · refine State.resetMemory_ok ?_ ..
    exact hx2

theorem State.assertDomains_ok (h : OK W q I s) (a1 a2) : OK W q I (State.assertDomains s a1 a2) := by
  unfold State.assertDomains
  refine OK.foldl (fun _ _ ht1 => ?_) ?_
  · refine State.assertDomain_ok ?_ ..
    exact ht1
  · exact h

theorem State.restorePair_ok (h : OK W q I s) : OK W q I (State.restorePair s) := by
  unfold State.restorePair
  refine OK.ite (fun _ => ?_) (fun _ => ?_)
  · refine State.put_ok ?_ ..
    refine OK.upd' ?_ rfl rfl rfl rfl
    exact h
  · refine OK.ite (fun _ => ?_) (fun _ => ?_)
    · refine OK.upd' ?_ rfl rfl rfl rfl
      exact h
    · refine State.record_ok ?_ ..
      refine OK.upd' ?_ rfl rfl rfl rfl
      exact h

theorem State.releaseDomain_ok (h : OK W q I s) (a1) : OK W q I (State.releaseDomain s a1) := by
  unfold State.releaseDomain
  extract_lets +onlyGivenNames -merge -useContext -underBinder x1
  extract_lets +onlyGivenNames -merge -useContext -underBinder x2
  have hx2 : OK W q I x2 := by
    unfold x2
    refine State.rstRegs_ok ?_ ..
    refine OK.upd' ?_ rfl rfl rfl rfl
    exact h
  split
  · exact hx2
  · refine State.restorePair_ok ?_ ..
    exact hx2
  · refine State.restorePair_ok ?_ ..
    exact hx2
  · extract_lets +onlyGivenNames -merge -useContext -underBinder x3
    extract_lets +onlyGivenNames -merge -useContext -underBinder x4
    have hx4 : OK W q I x4 := by
      unfold x4
      refine OK.upd' (s := x2) ?_ rfl rfl rfl rfl
      exact hx2
    extract_lets +onlyGivenNames -merge -useContext -underBinder x5
    have hx5 : OK W q I x5 := by
      unfold x5
      refine State.put_ok ?_ ..
      refine State.setFlag_ok ?_ ..
      exact hx4
    refine State.restoreBaskets_ok ?_ ..
    exact hx5

theorem State.advanceGap_ok (hI : Wraps I) (h : OK W q I s) (a1) : OK W q I (State.advanceGap s a1) := by
  unfold State.advanceGap
  extract_lets +onlyGivenNames -merge -useContext -underBinder x1
  extract_lets +onlyGivenNames -merge -useContext -underBinder x2
  extract_lets +onlyGivenNames -merge -useContext -underBinder x3
  have hx3 : OK W q I x3 := by
    unfold x3
    refine OK.updT hI ?_ rfl (Nat.mod_lt _ (by decide)) (Nat.mod_lt _ (by decide)) rfl
    exact h
  refine State.record_ok ?_ ..
  refine State.put_ok ?_ ..
  exact hx3

theorem State.powerCycle_ok (hI : Wraps I) (h : OK W q I s) : OK W q I (State.powerCycle s) := by
  unfold State.powerCycle
  extract_lets +onlyGivenNames -merge -useContext -underBinder x1
  extract_lets +onlyGivenNames -merge -useContext -underBinder x2
  extract_lets +onlyGivenNames -merge -useContext -underBinder x3
  extract_lets +onlyGivenNames -merge -useContext -underBinder x4
  extract_lets +onlyGivenNames -merge -useContext -underBinder x5
  extract_lets +onlyGivenNames -merge -useContext -underBinder x6
  extract_lets +onlyGivenNames -merge -useContext -underBinder x7
  have hx7 : OK W q I x7 := by
    unfold x7
    exact OK.ofReset hI h.pend
  extract_lets +onlyGivenNames -merge -useContext -underBinder x8
  have hx8 : OK W q I x8 := by
    unfold x8
    refine OK.foldl (fun _ _ ht9 => ?_) ?_
    · refine State.wr_ok ?_ ..
      exact ht9
    · exact hx7
  extract_lets +onlyGivenNames -merge -useContext -underBinder x10
  have hx10 : OK W q I x10 := by
    unfold x10
    refine State.put_ok ?_ ..
    refine State.setFlag_ok ?_ ..
    exact hx8
  refine State.auditRegs_ok ?_ ..
  refine State.put_ok ?_ ..
  refine State.setFlag_ok ?_ ..
  exact hx10

theorem State.keeperStart_ok (h : OK W q I s) (a1) : OK W q I (State.keeperStart s a1) := by
  unfold State.keeperStart
  extract_lets +onlyGivenNames -merge -useContext -underBinder x1
  extract_lets +onlyGivenNames -merge -useContext -underBinder x2
  have hx2 : OK W q I x2 := by
    unfold x2
    refine OK.upd' ?_ rfl rfl rfl rfl
    exact h
  refine State.wr_ok ?_ ..
  refine State.wr_ok ?_ ..
  exact hx2

theorem State.restartAll_ok (hI : Wraps I) (h : OK W q I s) (a1 a2 a3) : OK W q I (State.restartAll s a1 a2 a3) := by
  unfold State.restartAll
  extract_lets +onlyGivenNames -merge -useContext -underBinder x1
  have hx1 : OK W q I x1 := by
    unfold x1
    refine State.assertDomains_ok ?_ ..
    exact h
  extract_lets +onlyGivenNames -merge -useContext -underBinder x2
  extract_lets +onlyGivenNames -merge -useContext -underBinder x3
  extract_lets +onlyGivenNames -merge -useContext -underBinder x4
  have hx4 : OK W q I x4 := by
    unfold x4
    refine OK.upd' (s := x1) ?_ rfl rfl rfl rfl
    exact hx1
  refine State.advanceGap_ok hI ?_ ..
  refine State.put_ok ?_ ..
  refine State.keeperStart_ok ?_ ..
  exact hx4

theorem State.forceOutputs_ok (h : OK W q I s) : OK W q I (State.forceOutputs s) := by
  unfold State.forceOutputs
  refine State.releaseValid_ok ?_ ..
  refine State.enterSafe_ok ?_ ..
  exact h

theorem State.takeRef_ok (h : OK W q I s) (a1) : OK W q I (State.takeRef s a1) := by
  unfold State.takeRef
  extract_lets +onlyGivenNames -merge -useContext -underBinder x1
  have hx1 : OK W q I x1 := by
    unfold x1
    refine State.put_ok ?_ ..
    exact h
  refine OK.ite (fun _ => ?_) (fun _ => ?_)
  · refine State.setFlag_ok ?_ ..
    exact hx1
  · exact hx1

theorem State.endJudgment_ok (h : OK W q I s) (a1 a2) : OK W q I (State.endJudgment s a1 a2) := by
  unfold State.endJudgment
  extract_lets +onlyGivenNames -merge -useContext -underBinder x1
  extract_lets +onlyGivenNames -merge -useContext -underBinder x2
  refine State.setFlag_ok ?_ ..
  refine OK.upd' ?_ rfl rfl rfl rfl
  exact h

theorem execCrystalStable_ok (h : OK W q I s) (a0 a1 a2) : OKo W q I (execCrystalStable a0 a1 a2 s) := by
  unfold execCrystalStable
  refine OKo.next ?_
  refine OK.ite (fun _ => ?_) (fun _ => ?_)
  · exact h
  · extract_lets +onlyGivenNames -merge -useContext -underBinder x1
    have hx1 : OK W q I x1 := by
      unfold x1
      refine State.put_ok ?_ ..
      refine State.setFlag_ok ?_ ..
      exact h
    refine OK.ite (fun _ => ?_) (fun _ => ?_)
    · extract_lets +onlyGivenNames -merge -useContext -underBinder x2
      refine OK.ite (fun _ => ?_) (fun _ => ?_)
      · refine OK.upd' (s := x1) ?_ rfl rfl rfl rfl
        exact hx1
      · exact hx1
    · refine OK.ite (fun _ => ?_) (fun _ => ?_)
      · refine OK.ite (fun _ => ?_) (fun _ => ?_)
        · refine State.takeRef_ok ?_ ..
          exact hx1
        · exact hx1
      · exact hx1

theorem execCrystalLost_ok (h : OK W q I s) (a0 a1 a2) : OKo W q I (execCrystalLost a0 a1 a2 s) := by
  unfold execCrystalLost
  refine OKo.next ?_
  refine OK.ite (fun _ => ?_) (fun _ => ?_)
  · exact h
  · extract_lets +onlyGivenNames -merge -useContext -underBinder x1
    extract_lets +onlyGivenNames -merge -useContext -underBinder x2
    have hx2 : OK W q I x2 := by
      unfold x2
      refine State.put_ok ?_ ..
      refine State.endJudgment_ok ?_ ..
      exact h
    extract_lets +onlyGivenNames -merge -useContext -underBinder x3
    extract_lets +onlyGivenNames -merge -useContext -underBinder x4
    have hx4 : OK W q I x4 := by
      unfold x4
      refine OK.ite (fun _ => ?_) (fun _ => ?_)
      · refine OK.upd' (s := x2) ?_ rfl rfl rfl rfl
        exact hx2
      · exact hx2
    refine OK.ite (fun _ => ?_) (fun _ => ?_)
    · refine State.record_ok ?_ ..
      exact hx4
    · exact hx4

theorem execXt0StartTimeout_ok (h : OK W q I s) (a0) : OKo W q I (execXt0StartTimeout a0 s) := by
  unfold execXt0StartTimeout
  refine OKo.next ?_
  refine OK.ite (fun _ => ?_) (fun _ => ?_)
  · exact h
  · extract_lets +onlyGivenNames -merge -useContext -underBinder x1
    extract_lets +onlyGivenNames -merge -useContext -underBinder x2
    have hx2 : OK W q I x2 := by
      unfold x2
      refine OK.upd' ?_ rfl rfl rfl rfl
      exact h
    refine OK.ite (fun _ => ?_) (fun _ => ?_)
    · refine State.takeRef_ok ?_ ..
      exact hx2
    · exact hx2

theorem execPllLock_ok (h : OK W q I s) (a0) : OKo W q I (execPllLock a0 s) := by
  unfold execPllLock
  refine OKo.next ?_
  refine OK.ite (fun _ => ?_) (fun _ => ?_)
  · exact h
  · split
    · refine State.setFlag_ok ?_ ..
      refine State.setFlag_ok ?_ ..
      refine State.setFlag_ok ?_ ..
      exact h
    · refine State.setFlag_ok ?_ ..
      exact h
    · refine State.setFlag_ok ?_ ..
      exact h

theorem State.clockWait_ok (h : OK W q I s) (a1) : OK W q I (State.clockWait s a1) := by
  unfold State.clockWait
  extract_lets +onlyGivenNames -merge -useContext -underBinder x1
  extract_lets +onlyGivenNames -merge -useContext -underBinder x2
  have hx2 : OK W q I x2 := by
    unfold x2
    refine OK.upd' ?_ rfl rfl rfl rfl
    exact h
  refine State.setFlag_ok ?_ ..
  refine State.setFlag_ok ?_ ..
  refine State.setFlag_ok ?_ ..
  exact hx2

theorem execClockMonitorTrip_ok (h : OK W q I s) (a0 a1) : OKo W q I (execClockMonitorTrip a0 a1 s) := by
  unfold execClockMonitorTrip
  refine OKo.next ?_
  refine OK.ite (fun _ => ?_) (fun _ => ?_)
  · exact h
  · extract_lets +onlyGivenNames -merge -useContext -underBinder x1
    extract_lets +onlyGivenNames -merge -useContext -underBinder x2
    extract_lets +onlyGivenNames -merge -useContext -underBinder x3
    have hx3 : OK W q I x3 := by
      unfold x3
      refine State.put_ok ?_ ..
      refine State.bump_ok ?_ ..
      exact h
    extract_lets +onlyGivenNames -merge -useContext -underBinder x4
    have hx4 : OK W q I x4 := by
      unfold x4
      refine State.assertDomains_ok ?_ ..
      refine State.forceOutputs_ok ?_ ..
      exact hx3
    extract_lets +onlyGivenNames -merge -useContext -underBinder x5
    have hx5 : OK W q I x5 := by
      unfold x5
      refine OK.ite (fun _ => ?_) (fun _ => ?_)
      · refine State.endJudgment_ok ?_ ..
        exact hx4
      · exact hx4
    extract_lets +onlyGivenNames -merge -useContext -underBinder x6
    extract_lets +onlyGivenNames -merge -useContext -underBinder x7
    have hx7 : OK W q I x7 := by
      unfold x7
      refine OK.upd' (s := x5) ?_ rfl rfl rfl rfl
      exact hx5
    extract_lets +onlyGivenNames -merge -useContext -underBinder x8
    have hx8 : OK W q I x8 := by
      unfold x8
      refine State.wr_ok ?_ ..
      refine State.wr_ok ?_ ..
      exact hx7
    extract_lets +onlyGivenNames -merge -useContext -underBinder x9
    have hx9 : OK W q I x9 := by
      unfold x9
      refine OK.ite (fun _ => ?_) (fun _ => ?_)
      · refine State.put_ok ?_ ..
        exact hx8
      · exact hx8
    refine OK.ite (fun _ => ?_) (fun _ => ?_)
    · refine State.record_ok ?_ ..
      refine State.setFlag_ok ?_ ..
      exact hx9
    · refine OK.ite (fun _ => ?_) (fun _ => ?_)
      · refine State.clockWait_ok ?_ ..
        exact hx9
      · exact hx9

theorem State.clockAttempt_ok (hI : Wraps I) (h : OK W q I s) (a1 a2) : OK W q I (State.clockAttempt s a1 a2) := by
  unfold State.clockAttempt
  extract_lets +onlyGivenNames -merge -useContext -underBinder x1
  have hx1 : OK W q I x1 := by
    unfold x1
    refine State.setFlag_ok ?_ ..
    refine State.takeRef_ok ?_ ..
    exact h
  extract_lets +onlyGivenNames -merge -useContext -underBinder x2
  extract_lets +onlyGivenNames -merge -useContext -underBinder x3
  extract_lets +onlyGivenNames -merge -useContext -underBinder x4
  have hx4 : OK W q I x4 := by
    unfold x4
    refine OK.upd' (s := x1) ?_ rfl rfl rfl rfl
    exact hx1
  refine State.record_ok ?_ ..
  refine State.advanceGap_ok hI ?_ ..
  exact hx4

theorem execClockRestart_ok (hI : Wraps I) (h : OK W q I s) (a0 a1) : OKo W q I (execClockRestart a0 a1 s) := by
  unfold execClockRestart
  refine OKo.next ?_
  split
  · exact h
  · refine OK.ite (fun _ => ?_) (fun _ => ?_)
    · exact h
    · refine OK.ite (fun _ => ?_) (fun _ => ?_)
      · split
        · refine OK.ite (fun _ => ?_) (fun _ => ?_)
          · refine State.clockAttempt_ok hI ?_ ..
            exact h
          · exact h
        · exact h
      · refine OK.ite (fun _ => ?_) (fun _ => ?_)
        · exact h
        · refine OK.ite (fun _ => ?_) (fun _ => ?_)
          · refine State.clockAttempt_ok hI ?_ ..
            exact h
          · refine State.clockWait_ok ?_ ..
            exact h

theorem execEpisodeEnd_ok (h : OK W q I s) : OKo W q I (execEpisodeEnd s) := by
  unfold execEpisodeEnd
  refine OKo.next ?_
  split
  · refine OK.ite (fun _ => ?_) (fun _ => ?_)
    · refine State.put_ok ?_ ..
      refine OK.upd' ?_ rfl rfl rfl rfl
      exact h
    · exact h
  · exact h

theorem execLfrcLoss_ok (h : OK W q I s) : OKo W q I (execLfrcLoss s) := by
  unfold execLfrcLoss
  refine OKo.next ?_
  extract_lets +onlyGivenNames -merge -useContext -underBinder x1
  have hx1 : OK W q I x1 := by
    unfold x1
    refine State.forceOutputs_ok ?_ ..
    exact h
  refine OK.upd' (s := x1) ?_ rfl rfl rfl rfl
  exact hx1

theorem execSleepRequest_ok (h : OK W q I s) : OKo W q I (execSleepRequest s) := by
  unfold execSleepRequest
  refine OKo.next ?_
  refine State.enqueue_ok ?_ ..
  exact h

theorem execDeepSleepRequest_ok (h : OK W q I s) : OKo W q I (execDeepSleepRequest s) := by
  unfold execDeepSleepRequest
  refine OKo.next ?_
  refine State.enqueue_ok ?_ ..
  exact h

theorem execRunRequest_ok (h : OK W q I s) : OKo W q I (execRunRequest s) := by
  unfold execRunRequest
  refine OKo.next ?_
  refine State.enqueue_ok ?_ ..
  exact h

theorem State.noteWake_ok (h : OK W q I s) (a1) : OK W q I (State.noteWake s a1) := by
  unfold State.noteWake
  refine State.put_ok ?_ ..
  refine State.bump_ok ?_ ..
  exact h

theorem State.pstateReq_ok (h : OK W q I s) (a1) : OK W q I (State.pstateReq s a1) := by
  unfold State.pstateReq
  extract_lets +onlyGivenNames -merge -useContext -underBinder x1
  refine OK.ite (fun _ => ?_) (fun _ => ?_)
  · refine OK.ite (fun _ => ?_) (fun _ => ?_)
    · extract_lets +onlyGivenNames -merge -useContext -underBinder x2
      have hx2 : OK W q I x2 := by
        unfold x2
        refine State.noteWake_ok ?_ ..
        refine State.put_ok ?_ ..
        exact h
      extract_lets +onlyGivenNames -merge -useContext -underBinder x3
      have hx3 : OK W q I x3 := by
        unfold x3
        refine State.assertDomain_ok ?_ ..
        exact hx2
      refine OK.upd' (s := x3) ?_ rfl rfl rfl rfl
      exact hx3
    · exact h
  · refine OK.ite (fun _ => ?_) (fun _ => ?_)
    · refine OK.ite (fun _ => ?_) (fun _ => ?_)
      · refine OK.upd' ?_ rfl rfl rfl rfl
        exact h
      · exact h
    · exact h

theorem State.goSleep_ok (h : OK W q I s) (a1) : OK W q I (State.goSleep s a1) := by
  unfold State.goSleep
  extract_lets +onlyGivenNames -merge -useContext -underBinder x1
  have hx1 : OK W q I x1 := by
    unfold x1
    refine State.releaseValid_ok ?_ ..
    exact h
  extract_lets +onlyGivenNames -merge -useContext -underBinder x2
  extract_lets +onlyGivenNames -merge -useContext -underBinder x3
  have hx3 : OK W q I x3 := by
    unfold x3
    refine OK.upd' (s := x1) ?_ rfl rfl rfl rfl
    exact hx1
  extract_lets +onlyGivenNames -merge -useContext -underBinder x4
  have hx4 : OK W q I x4 := by
    unfold x4
    refine State.each_ok (fun _ _ ht5 => ?_) ?_
    · refine State.put_ok ?_ ..
      exact ht5
    · exact hx3
  extract_lets +onlyGivenNames -merge -useContext -underBinder x6
  have hx6 : OK W q I x6 := by
    unfold x6
    refine State.each_ok (fun _ _ ht7 => ?_) ?_
    · refine State.put_ok ?_ ..
      exact ht7
    · exact hx4
  extract_lets +onlyGivenNames -merge -useContext -underBinder x8
  have hx8 : OK W q I x8 := by
    unfold x8
    refine State.put_ok ?_ ..
    exact hx6
  extract_lets +onlyGivenNames -merge -useContext -underBinder x9
  have hx9 : OK W q I x9 := by
    unfold x9
    refine State.each_ok (fun _ _ ht10 => ?_) ?_
    · refine State.setFlag_ok ?_ ..
      exact ht10
    · exact hx8
  extract_lets +onlyGivenNames -merge -useContext -underBinder x11
  have hx11 : OK W q I x11 := by
    unfold x11
    refine State.each_ok (fun _ _ ht12 => ?_) ?_
    · refine OK.ite (fun _ => ?_) (fun _ => ?_)
      · exact ht12
      · refine State.put_ok ?_ ..
        exact ht12
    · exact hx9
  extract_lets +onlyGivenNames -merge -useContext -underBinder x13
  have hx13 : OK W q I x13 := by
    unfold x13
    refine State.put_ok ?_ ..
    refine State.setFlag_ok ?_ ..
    exact hx11
  refine OK.ite (fun _ => ?_) (fun _ => ?_)
  · extract_lets +onlyGivenNames -merge -useContext -underBinder x14
    extract_lets +onlyGivenNames -merge -useContext -underBinder x15
    have hx15 : OK W q I x15 := by
      unfold x15
      refine OK.foldl (fun _ _ ht16 => ?_) ?_
      · refine OK.ite (fun _ => ?_) (fun _ => ?_)
        · refine State.broadcast_ok ?_ ..
          refine State.broadcast_ok ?_ ..
          exact ht16
        · exact ht16
      · exact hx13
    extract_lets +onlyGivenNames -merge -useContext -underBinder x17
    have hx17 : OK W q I x17 := by
      unfold x17
      refine State.wr_ok ?_ ..
      refine State.wr_ok ?_ ..
      exact hx15
    refine OK.upd' (s := x17) ?_ rfl rfl rfl rfl
    exact hx17
  · exact hx13

theorem State.powerTick_ok (h : OK W q I s) : OK W q I (State.powerTick s) := by
  unfold State.powerTick
  split
  · exact h
  · refine OK.ite (fun _ => ?_) (fun _ => ?_)
    · exact h
    · refine OK.ite (fun _ => ?_) (fun _ => ?_)
      · refine State.goSleep_ok ?_ ..
        exact h
      · refine State.setFlag_ok ?_ ..
        refine OK.upd' ?_ rfl rfl rfl rfl
        exact h

theorem State.hostWake_ok (h : OK W q I s) : OK W q I (State.hostWake s) := by
  unfold State.hostWake
  refine State.setFlag_ok ?_ ..
  refine OK.upd' ?_ rfl rfl rfl rfl
  exact h

theorem execDeepSleepWake_ok (hI : Wraps I) (h : OK W q I s) (a0 a1 a2) : OKo W q I (execDeepSleepWake a0 a1 a2 s) := by
  unfold execDeepSleepWake
  refine OKo.next ?_
  refine OK.ite (fun _ => ?_) (fun _ => ?_)
  · exact h
  · extract_lets +onlyGivenNames -merge -useContext -underBinder x1
    have hx1 : OK W q I x1 := by
      unfold x1
      refine State.noteWake_ok ?_ ..
      exact h
    extract_lets +onlyGivenNames -merge -useContext -underBinder x2
    have hx2 : OK W q I x2 := by
      unfold x2
      refine OK.ite (fun _ => ?_) (fun _ => ?_)
      · refine State.hostWake_ok ?_ ..
        exact hx1
      · exact hx1
    extract_lets +onlyGivenNames -merge -useContext -underBinder x3
    have hx3 : OK W q I x3 := by
      unfold x3
      refine State.restartAll_ok hI ?_ ..
      exact hx2
    refine OK.upd' (s := x3) ?_ rfl rfl rfl rfl
    exact hx3

theorem execChainTone_ok (h : OK W q I s) (a0 a1) : OKo W q I (execChainTone a0 a1 s) := by
  unfold execChainTone
  refine OKo.next ?_
  refine OK.ite (fun _ => ?_) (fun _ => ?_)
  · refine OK.upd' ?_ rfl rfl rfl rfl
    exact h
  · extract_lets +onlyGivenNames -merge -useContext -underBinder x1
    extract_lets +onlyGivenNames -merge -useContext -underBinder x2
    extract_lets +onlyGivenNames -merge -useContext -underBinder x3
    extract_lets +onlyGivenNames -merge -useContext -underBinder x4
    have hx4 : OK W q I x4 := by
      unfold x4
      refine OK.upd' ?_ rfl rfl rfl rfl
      exact h
    refine OK.ite (fun _ => ?_) (fun _ => ?_)
    · extract_lets +onlyGivenNames -merge -useContext -underBinder x5
      try clear_value x5
      extract_lets +onlyGivenNames -merge -useContext -underBinder x6
      extract_lets +onlyGivenNames -merge -useContext -underBinder x7
      extract_lets +onlyGivenNames -merge -useContext -underBinder x8
      have hx8 : OK W q I x8 := by
        unfold x8
        refine OK.upd' (s := x4) ?_ rfl rfl rfl rfl
        exact hx4
      extract_lets +onlyGivenNames -merge -useContext -underBinder x9
      have hx9 : OK W q I x9 := by
        unfold x9
        refine State.hostWake_ok ?_ ..
        refine State.put_ok ?_ ..
        refine State.bump_ok ?_ ..
        exact hx8
      refine OK.ite (fun _ => ?_) (fun _ => ?_)
      · refine State.setFlag_ok ?_ ..
        exact hx9
      · exact hx9
    · refine State.bump_ok ?_ ..
      exact hx4

theorem execLimitingExit_ok (h : OK W q I s) (a0) : OKo W q I (execLimitingExit a0 s) := by
  unfold execLimitingExit
  refine OKo.next ?_
  split
  · refine OK.ite (fun _ => ?_) (fun _ => ?_)
    · refine State.setFlag_ok ?_ ..
      exact h
    · exact h
  · exact h

theorem execHostWakeRelease_ok (h : OK W q I s) : OKo W q I (execHostWakeRelease s) := by
  unfold execHostWakeRelease
  refine OKo.next ?_
  refine State.enqueue_ok ?_ ..
  exact h

theorem execBrownOutWarning_ok (h : OK W q I s) (a0) : OKo W q I (execBrownOutWarning a0 s) := by
  unfold execBrownOutWarning
  refine OKo.next ?_
  refine OK.ite (fun _ => ?_) (fun _ => ?_)
  · exact h
  · extract_lets +onlyGivenNames -merge -useContext -underBinder x1
    have hx1 : OK W q I x1 := by
      unfold x1
      refine State.bump_ok ?_ ..
      refine State.setFlag_ok ?_ ..
      refine State.setFlag_ok ?_ ..
      exact h
    refine State.record_ok ?_ ..
    refine State.put_ok ?_ ..
    exact hx1

theorem execBrownOutRelease_ok (h : OK W q I s) (a0) : OKo W q I (execBrownOutRelease a0 s) := by
  unfold execBrownOutRelease
  refine OKo.next ?_
  refine OK.ite (fun _ => ?_) (fun _ => ?_)
  · exact h
  · refine State.put_ok ?_ ..
    refine State.setFlag_ok ?_ ..
    refine OK.upd' ?_ rfl rfl rfl rfl
    exact h

theorem execPowerFail_ok (h : OK W q I s) (a0 a1 a2) : OKo W q I (execPowerFail a0 a1 a2 s) := by
  unfold execPowerFail
  refine OKo.next ?_
  refine OK.ite (fun _ => ?_) (fun _ => ?_)
  · exact h
  · extract_lets +onlyGivenNames -merge -useContext -underBinder x1
    have hx1 : OK W q I x1 := by
      unfold x1
      refine State.put_ok ?_ ..
      refine State.forceOutputs_ok ?_ ..
      exact h
    refine OK.upd' (s := x1) ?_ rfl rfl rfl rfl
    exact hx1

theorem execSupplyRecovery_ok (hI : Wraps I) (h : OK W q I s) (a0 a1 a2) : OKo W q I (execSupplyRecovery a0 a1 a2 s) := by
  unfold execSupplyRecovery
  refine OKo.next ?_
  split
  · exact h
  · refine OK.ite (fun _ => ?_) (fun _ => ?_)
    · exact h
    · extract_lets +onlyGivenNames -merge -useContext -underBinder x1
      have hx1 : OK W q I x1 := by
        unfold x1
        refine State.put_ok ?_ ..
        refine State.bump_ok ?_ ..
        refine State.setFlag_ok ?_ ..
        exact h
      extract_lets +onlyGivenNames -merge -useContext -underBinder x2
      have hx2 : OK W q I x2 := by
        unfold x2
        refine State.put_ok ?_ ..
        exact hx1
      extract_lets +onlyGivenNames -merge -useContext -underBinder x3
      have hx3 : OK W q I x3 := by
        unfold x3
        refine State.record_ok ?_ ..
        refine State.restartAll_ok hI ?_ ..
        exact hx2
      refine OK.upd' (s := x3) ?_ rfl rfl rfl rfl
      exact hx3

theorem execHoldupExpiry_ok (hI : Wraps I) (h : OK W q I s) : OKo W q I (execHoldupExpiry s) := by
  unfold execHoldupExpiry
  refine OKo.next ?_
  refine OK.ite (fun _ => ?_) (fun _ => ?_)
  · exact h
  · extract_lets +onlyGivenNames -merge -useContext -underBinder x1
    have hx1 : OK W q I x1 := by
      unfold x1
      refine State.powerCycle_ok hI ?_ ..
      exact h
    refine OK.upd' (s := x1) ?_ rfl rfl rfl rfl
    exact hx1

theorem execPowerOnReset_ok (hI : Wraps I) (h : OK W q I s) (a0 a1) : OKo W q I (execPowerOnReset a0 a1 s) := by
  unfold execPowerOnReset
  refine OKo.next ?_
  extract_lets +onlyGivenNames -merge -useContext -underBinder x1
  extract_lets +onlyGivenNames -merge -useContext -underBinder x2
  have hx2 : OK W q I x2 := by
    unfold x2
    refine State.powerCycle_ok hI ?_ ..
    exact h
  extract_lets +onlyGivenNames -merge -useContext -underBinder x3
  extract_lets +onlyGivenNames -merge -useContext -underBinder x4
  extract_lets +onlyGivenNames -merge -useContext -underBinder x5
  have hx5 : OK W q I x5 := by
    unfold x5
    refine OK.upd' (s := x2) ?_ rfl rfl rfl rfl
    exact hx2
  extract_lets +onlyGivenNames -merge -useContext -underBinder x6
  have hx6 : OK W q I x6 := by
    unfold x6
    refine State.put_ok ?_ ..
    exact hx5
  extract_lets +onlyGivenNames -merge -useContext -underBinder x7
  have hx7 : OK W q I x7 := by
    unfold x7
    refine OK.ite (fun _ => ?_) (fun _ => ?_)
    · refine State.put_ok ?_ ..
      exact hx6
    · exact hx6
  refine State.selectCapacity_ok ?_ ..
  exact hx7

theorem execArrayClockLoss_ok (h : OK W q I s) (a0) : OKo W q I (execArrayClockLoss a0 s) := by
  unfold execArrayClockLoss
  refine OKo.next ?_
  extract_lets +onlyGivenNames -merge -useContext -underBinder x1
  have hx1 : OK W q I x1 := by
    unfold x1
    refine State.bump_ok ?_ ..
    exact h
  extract_lets +onlyGivenNames -merge -useContext -underBinder x2
  have hx2 : OK W q I x2 := by
    unfold x2
    refine State.each_ok (fun _ _ ht3 => ?_) ?_
    · refine OK.ite (fun _ => ?_) (fun _ => ?_)
      · exact ht3
      · refine State.put_ok ?_ ..
        exact ht3
    · refine State.spoilPasses_ok ?_ ..
      exact hx1
  extract_lets +onlyGivenNames -merge -useContext -underBinder x4
  have hx4 : OK W q I x4 := by
    unfold x4
    refine State.record_ok ?_ ..
    exact hx2
  extract_lets +onlyGivenNames -merge -useContext -underBinder x5
  have hx5 : OK W q I x5 := by
    unfold x5
    refine State.put_ok ?_ ..
    refine State.put_ok ?_ ..
    refine State.setFlag_ok ?_ ..
    refine State.put_ok ?_ ..
    refine State.setFlag_ok ?_ ..
    exact hx4
  extract_lets +onlyGivenNames -merge -useContext -underBinder x6
  extract_lets +onlyGivenNames -merge -useContext -underBinder x7
  have hx7 : OK W q I x7 := by
    unfold x7
    refine State.seqEnter_ok ?_ ..
    refine OK.upd' (s := x5) ?_ rfl rfl rfl rfl
    exact hx5
  refine OK.ite (fun _ => ?_) (fun _ => ?_)
  · exact hx7
  · refine State.updateEff_ok ?_ ..
    refine State.restoreBaskets_ok ?_ ..
    exact hx7

theorem State.dropPgood_ok (h : OK W q I s) (a1) : OK W q I (State.dropPgood s a1) := by
  unfold State.dropPgood
  refine State.setFlag_ok ?_ ..
  refine OK.upd' ?_ rfl rfl rfl rfl
  exact h

theorem State.uvTrip_ok (h : OK W q I s) (a1) : OK W q I (State.uvTrip s a1) := by
  unfold State.uvTrip
  refine OK.ite (fun _ => ?_) (fun _ => ?_)
  · exact h
  · extract_lets +onlyGivenNames -merge -useContext -underBinder x1
    have hx1 : OK W q I x1 := by
      unfold x1
      refine State.setFlag_ok ?_ ..
      refine State.setFlag_ok ?_ ..
      exact h
    refine State.record_ok ?_ ..
    refine State.driveThrottle_ok ?_ ..
    refine State.dropPgood_ok ?_ ..
    exact hx1

theorem State.ovTrip_ok (h : OK W q I s) (a1) : OK W q I (State.ovTrip s a1) := by
  unfold State.ovTrip
  refine OK.ite (fun _ => ?_) (fun _ => ?_)
  · exact h
  · extract_lets +onlyGivenNames -merge -useContext -underBinder x1
    have hx1 : OK W q I x1 := by
      unfold x1
      refine State.setFlag_ok ?_ ..
      refine State.setFlag_ok ?_ ..
      exact h
    refine State.record_ok ?_ ..
    refine State.fenceZone_ok ?_ ..
    refine State.dropPgood_ok ?_ ..
    exact hx1

theorem State.ocTrip_ok (h : OK W q I s) (a1) : OK W q I (State.ocTrip s a1) := by
  unfold State.ocTrip
  refine OK.ite (fun _ => ?_) (fun _ => ?_)
  · exact h
  · extract_lets +onlyGivenNames -merge -useContext -underBinder x1
    have hx1 : OK W q I x1 := by
      unfold x1
      refine State.setFlag_ok ?_ ..
      refine State.setFlag_ok ?_ ..
      exact h
    refine State.record_ok ?_ ..
    refine State.fenceStr_ok ?_ ..
    exact hx1

theorem execZoneUvTrip_ok (h : OK W q I s) (a0) : OKo W q I (execZoneUvTrip a0 s) := by
  unfold execZoneUvTrip
  refine OKo.next ?_
  refine State.uvTrip_ok ?_ ..
  exact h

theorem execZoneOvTrip_ok (h : OK W q I s) (a0) : OKo W q I (execZoneOvTrip a0 s) := by
  unfold execZoneOvTrip
  refine OKo.next ?_
  refine State.ovTrip_ok ?_ ..
  exact h

theorem execStringOcTrip_ok (h : OK W q I s) (a0) : OKo W q I (execStringOcTrip a0 s) := by
  unfold execStringOcTrip
  refine OKo.next ?_
  refine State.ocTrip_ok ?_ ..
  exact h

theorem execComparatorRelease_ok (h : OK W q I s) (a0) : OKo W q I (execComparatorRelease a0 s) := by
  unfold execComparatorRelease
  refine OKo.next ?_
  refine OK.ite (fun _ => ?_) (fun _ => ?_)
  · refine State.driveThrottle_ok ?_ ..
    refine State.setFlag_ok ?_ ..
    exact h
  · refine OK.ite (fun _ => ?_) (fun _ => ?_)
    · refine State.setFlag_ok ?_ ..
      exact h
    · refine State.setFlag_ok ?_ ..
      exact h

theorem State.armLatch_ok (h : OK W q I s) : OK W q I (State.armLatch s) := by
  unfold State.armLatch
  refine OK.foldl (fun _ _ ht1 => ?_) ?_
  · extract_lets +onlyGivenNames -merge -useContext -underBinder x2
    refine State.setFlag_ok ?_ ..
    exact ht1
  · exact h

theorem execFaultPendingClear_ok (h : OK W q I s) (a0 a1) : OKo W q I (execFaultPendingClear a0 a1 s) := by
  unfold execFaultPendingClear
  refine OKo.next ?_
  refine State.enqueue_ok ?_ ..
  exact h

theorem execClearCapture_ok (h : OK W q I s) (a0) : OKo W q I (execClearCapture a0 s) := by
  unfold execClearCapture
  refine OKo.next ?_
  refine State.enqueue_ok ?_ ..
  exact h

theorem execFaultModeChange_ok (h : OK W q I s) (a0 a1) : OKo W q I (execFaultModeChange a0 a1 s) := by
  unfold execFaultModeChange
  refine OKo.next ?_
  refine State.enqueue_ok ?_ ..
  exact h

theorem State.clearCapture_ok (h : OK W q I s) (a1) : OK W q I (State.clearCapture s a1) := by
  unfold State.clearCapture
  refine State.clearRecords_ok ?_ ..
  exact h

theorem execResetRequest_ok (h : OK W q I s) (a0) : OKo W q I (execResetRequest a0 s) := by
  unfold execResetRequest
  refine OKo.next ?_
  refine State.enqueue_ok ?_ ..
  exact h

theorem State.rstRequest_ok (h : OK W q I s) (a1) : OK W q I (State.rstRequest s a1) := by
  unfold State.rstRequest
  refine OK.ite (fun _ => ?_) (fun _ => ?_)
  · exact h
  · refine OK.upd' ?_ rfl rfl rfl rfl
    exact h

theorem execResetAssert_ok (h : OK W q I s) : OKo W q I (execResetAssert s) := by
  unfold execResetAssert
  refine OKo.next ?_
  extract_lets +onlyGivenNames -merge -useContext -underBinder x1
  refine OK.ite (fun _ => ?_) (fun _ => ?_)
  · exact h
  · extract_lets +onlyGivenNames -merge -useContext -underBinder x2
    have hx2 : OK W q I x2 := by
      unfold x2
      refine State.assertDomains_ok ?_ ..
      exact h
    refine OK.upd' (s := x2) ?_ rfl rfl rfl rfl
    exact hx2

theorem execResetRelease_ok (h : OK W q I s) : OKo W q I (execResetRelease s) := by
  unfold execResetRelease
  refine OKo.next ?_
  extract_lets +onlyGivenNames -merge -useContext -underBinder x1
  refine OK.ite (fun _ => ?_) (fun _ => ?_)
  · exact h
  · split
    · exact h
    · extract_lets +onlyGivenNames -merge -useContext -underBinder x2
      extract_lets +onlyGivenNames -merge -useContext -underBinder x3
      have hx3 : OK W q I x3 := by
        unfold x3
        refine State.releaseDomain_ok ?_ ..
        refine OK.upd' ?_ rfl rfl rfl rfl
        exact h
      refine OK.ite (fun _ => ?_) (fun _ => ?_)
      · refine OK.upd' (s := x3) ?_ rfl rfl rfl rfl
        exact hx3
      · exact hx3

theorem State.afterDumpStep_ok (h : OK W q I s) : OK W q I (State.afterDumpStep s) := by
  unfold State.afterDumpStep
  split
  · exact h
  · extract_lets +onlyGivenNames -merge -useContext -underBinder x1
    extract_lets +onlyGivenNames -merge -useContext -underBinder x2
    have hx2 : OK W q I x2 := by
      unfold x2
      refine OK.upd' ?_ rfl rfl rfl rfl
      exact h
    refine State.bump_ok ?_ ..
    refine State.assertDomain_ok ?_ ..
    exact hx2
  · extract_lets +onlyGivenNames -merge -useContext -underBinder x3
    extract_lets +onlyGivenNames -merge -useContext -underBinder x4
    have hx4 : OK W q I x4 := by
      unfold x4
      refine OK.upd' ?_ rfl rfl rfl rfl
      exact h
    refine State.assertDomains_ok ?_ ..
    exact hx4

theorem State.recoveryTick_ok (h : OK W q I s) : OK W q I (State.recoveryTick s) := by
  unfold State.recoveryTick
  extract_lets +onlyGivenNames -merge -useContext -underBinder x1
  extract_lets +onlyGivenNames -merge -useContext -underBinder x2
  have hx2 : OK W q I x2 := by
    unfold x2
    refine OK.upd' ?_ rfl rfl rfl rfl
    exact h
  refine OK.ite (fun _ => ?_) (fun _ => ?_)
  · refine State.afterDumpStep_ok ?_ ..
    exact hx2
  · exact hx2

theorem execHeartbeatBeat_ok (h : OK W q I s) (a0) : OKo W q I (execHeartbeatBeat a0 s) := by
  unfold execHeartbeatBeat
  refine OKo.next ?_
  refine OK.ite (fun _ => ?_) (fun _ => ?_)
  · exact h
  · refine State.enqueue_ok ?_ ..
    exact h

theorem State.beat_ok (h : OK W q I s) (a1) : OK W q I (State.beat s a1) := by
  unfold State.beat
  refine OK.ite (fun _ => ?_) (fun _ => ?_)
  · exact h
  · extract_lets +onlyGivenNames -merge -useContext -underBinder x1
    extract_lets +onlyGivenNames -merge -useContext -underBinder x2
    have hx2 : OK W q I x2 := by
      unfold x2
      refine OK.upd' ?_ rfl rfl rfl rfl
      exact h
    refine OK.ite (fun _ => ?_) (fun _ => ?_)
    · refine State.setFlag_ok ?_ ..
      exact hx2
    · exact hx2

theorem execHeartbeatCheck_ok (h : OK W q I s) : OKo W q I (execHeartbeatCheck s) := by
  unfold execHeartbeatCheck
  refine OKo.next ?_
  refine OK.ite (fun _ => ?_) (fun _ => ?_)
  · exact h
  · extract_lets +onlyGivenNames -merge -useContext -underBinder x1
    extract_lets +onlyGivenNames -merge -useContext -underBinder x2
    have hx2 : OK W q I x2 := by
      unfold x2
      refine OK.upd' ?_ rfl rfl rfl rfl
      exact h
    refine OK.ite (fun _ => ?_) (fun _ => ?_)
    · refine OK.upd' (s := x2) ?_ rfl rfl rfl rfl
      exact hx2
    · extract_lets +onlyGivenNames -merge -useContext -underBinder x3
      extract_lets +onlyGivenNames -merge -useContext -underBinder x4
      extract_lets +onlyGivenNames -merge -useContext -underBinder x5
      have hx5 : OK W q I x5 := by
        unfold x5
        refine OK.upd' (s := x2) ?_ rfl rfl rfl rfl
        exact hx2
      extract_lets +onlyGivenNames -merge -useContext -underBinder x6
      refine State.put_ok ?_ ..
      exact hx5

theorem execWatchdogAction_ok (h : OK W q I s) : OKo W q I (execWatchdogAction s) := by
  unfold execWatchdogAction
  refine OKo.next ?_
  refine OK.ite (fun _ => ?_) (fun _ => ?_)
  · exact h
  · extract_lets +onlyGivenNames -merge -useContext -underBinder x1
    extract_lets +onlyGivenNames -merge -useContext -underBinder x2
    extract_lets +onlyGivenNames -merge -useContext -underBinder x3
    have hx3 : OK W q I x3 := by
      unfold x3
      refine OK.upd' ?_ rfl rfl rfl rfl
      exact h
    refine OK.ite (fun _ => ?_) (fun _ => ?_)
    · refine State.record_ok ?_ ..
      refine State.startDump_ok ?_ ..
      exact hx3
    · refine State.record_ok ?_ ..
      refine State.startDump_ok ?_ ..
      exact hx3

theorem execHaltedServiceTimeout_ok (h : OK W q I s) : OKo W q I (execHaltedServiceTimeout s) := by
  unfold execHaltedServiceTimeout
  refine OKo.next ?_
  refine OK.ite (fun _ => ?_) (fun _ => ?_)
  · refine OK.upd' ?_ rfl rfl rfl rfl
    exact h
  · exact h

theorem execBusTimeout_ok (h : OK W q I s) (a0 a1 a2 a3) : OKo W q I (execBusTimeout a0 a1 a2 a3 s) := by
  unfold execBusTimeout
  refine OKo.next ?_
  extract_lets +onlyGivenNames -merge -useContext -underBinder x1
  extract_lets +onlyGivenNames -merge -useContext -underBinder x2
  have hx2 : OK W q I x2 := by
    unfold x2
    refine OK.upd' ?_ rfl rfl rfl rfl
    exact h
  refine State.recordAt_ok ?_ ..
  exact hx2

theorem execDumpRequest_ok (h : OK W q I s) : OKo W q I (execDumpRequest s) := by
  unfold execDumpRequest
  refine OKo.next ?_
  refine State.enqueue_ok ?_ ..
  exact h

theorem execDumpComplete_ok (h : OK W q I s) (a0) : OKo W q I (execDumpComplete a0 s) := by
  unfold execDumpComplete
  refine OKo.next ?_
  split
  · exact h
  · extract_lets +onlyGivenNames -merge -useContext -underBinder x1
    extract_lets +onlyGivenNames -merge -useContext -underBinder x2
    extract_lets +onlyGivenNames -merge -useContext -underBinder x3
    extract_lets +onlyGivenNames -merge -useContext -underBinder x4
    extract_lets +onlyGivenNames -merge -useContext -underBinder x5
    have hx5 : OK W q I x5 := by
      unfold x5
      refine OK.upd' ?_ rfl rfl rfl rfl
      exact h
    extract_lets +onlyGivenNames -merge -useContext -underBinder x6
    have hx6 : OK W q I x6 := by
      unfold x6
      refine State.put_ok ?_ ..
      refine State.bump_ok ?_ ..
      exact hx5
    extract_lets +onlyGivenNames -merge -useContext -underBinder x7
    have hx7 : OK W q I x7 := by
      unfold x7
      refine State.put_ok ?_ ..
      refine State.put_ok ?_ ..
      exact hx6
    extract_lets +onlyGivenNames -merge -useContext -underBinder x8
    have hx8 : OK W q I x8 := by
      unfold x8
      refine State.setFlag_ok ?_ ..
      refine State.setFlag_ok ?_ ..
      exact hx7
    refine State.afterDumpStep_ok ?_ ..
    exact hx8

theorem execPortFenceReturn_ok (h : OK W q I s) (a0) : OKo W q I (execPortFenceReturn a0 s) := by
  unfold execPortFenceReturn
  refine OKo.next ?_
  refine OK.ite (fun _ => ?_) (fun _ => ?_)
  · refine OK.upd' ?_ rfl rfl rfl rfl
    exact h
  · exact h

theorem State.putReport_ok (h : OK W q I s) : OK W q I (State.putReport s) := by
  unfold State.putReport
  extract_lets +onlyGivenNames -merge -useContext -underBinder x1
  refine State.each_ok (fun _ _ ht2 => ?_) ?_
  · refine State.wr_ok ?_ ..
    exact ht2
  · exact h

theorem State.clearSingle_ok (h : OK W q I s) : OK W q I (State.clearSingle s) := by
  unfold State.clearSingle
  refine OK.ite (fun _ => ?_) (fun _ => ?_)
  · exact h
  · extract_lets +onlyGivenNames -merge -useContext -underBinder x1
    have hx1 : OK W q I x1 := by
      unfold x1
      refine State.setFlag_ok ?_ ..
      exact h
    extract_lets +onlyGivenNames -merge -useContext -underBinder x2
    extract_lets +onlyGivenNames -merge -useContext -underBinder x3
    extract_lets +onlyGivenNames -merge -useContext -underBinder x4
    have hx4 : OK W q I x4 := by
      unfold x4
      refine OK.upd' (s := x1) ?_ rfl rfl rfl rfl
      exact hx1
    refine OK.ite (fun _ => ?_) (fun _ => ?_)
    · exact hx4
    · refine State.put_ok ?_ ..
      exact hx4

theorem State.noteClaimant_ok (h : OK W q I s) (a1 a2) : OK W q I (State.noteClaimant s a1 a2) := by
  unfold State.noteClaimant
  extract_lets +onlyGivenNames -merge -useContext -underBinder x1
  try clear_value x1
  split
  · exact h
  · extract_lets +onlyGivenNames -merge -useContext -underBinder x2
    refine OK.ite (fun _ => ?_) (fun _ => ?_)
    · refine OK.upd' ?_ rfl rfl rfl rfl
      exact h
    · extract_lets +onlyGivenNames -merge -useContext -underBinder x3
      extract_lets +onlyGivenNames -merge -useContext -underBinder x4
      extract_lets +onlyGivenNames -merge -useContext -underBinder x5
      refine State.bump_ok ?_ ..
      refine OK.upd' ?_ rfl rfl rfl rfl
      exact h

theorem State.claimSample_ok (h : OK W q I s) (a1) : OK W q I (State.claimSample s a1) := by
  unfold State.claimSample
  extract_lets +onlyGivenNames -merge -useContext -underBinder x1
  extract_lets +onlyGivenNames -merge -useContext -underBinder x2
  extract_lets +onlyGivenNames -merge -useContext -underBinder x3
  extract_lets +onlyGivenNames -merge -useContext -underBinder x4
  extract_lets +onlyGivenNames -merge -useContext -underBinder x5
  extract_lets +onlyGivenNames -merge -useContext -underBinder x6
  extract_lets +onlyGivenNames -merge -useContext -underBinder x7
  have hx7 : OK W q I x7 := by
    unfold x7
    refine OK.upd' ?_ rfl rfl rfl rfl
    exact h
  extract_lets +onlyGivenNames -merge -useContext -underBinder x8
  have hx8 : OK W q I x8 := by
    unfold x8
    refine OK.ite (fun _ => ?_) (fun _ => ?_)
    · refine State.releaseValid_ok ?_ ..
      exact hx7
    · exact hx7
  extract_lets +onlyGivenNames -merge -useContext -underBinder x9
  extract_lets +onlyGivenNames -merge -useContext -underBinder x10
  extract_lets +onlyGivenNames -merge -useContext -underBinder x11
  have hx11 : OK W q I x11 := by
    unfold x11
    refine OK.ite (fun _ => ?_) (fun _ => ?_)
    · refine OK.upd' (s := x8) ?_ rfl rfl rfl rfl
      exact hx8
    · exact hx8
  extract_lets +onlyGivenNames -merge -useContext -underBinder x12
  extract_lets +onlyGivenNames -merge -useContext -underBinder x13
  have hx13 : OK W q I x13 := by
    unfold x13
    refine OK.ite (fun _ => ?_) (fun _ => ?_)
    · refine OK.upd' (s := x11) ?_ rfl rfl rfl rfl
      exact hx11
    · exact hx11
  extract_lets +onlyGivenNames -merge -useContext -underBinder x14
  have hx14 : OK W q I x14 := by
    unfold x14
    refine State.noteClaimant_ok ?_ ..
    exact hx13
  extract_lets +onlyGivenNames -merge -useContext -underBinder x15
  extract_lets +onlyGivenNames -merge -useContext -underBinder x16
  have hx16 : OK W q I x16 := by
    unfold x16
    refine OK.upd' (s := x14) ?_ rfl rfl rfl rfl
    exact hx14
  extract_lets +onlyGivenNames -merge -useContext -underBinder x17
  have hx17 : OK W q I x17 := by
    unfold x17
    split
    · refine State.put_ok ?_ ..
      exact hx16
    · exact hx16
  extract_lets +onlyGivenNames -merge -useContext -underBinder x18
  have hx18 : OK W q I x18 := by
    unfold x18
    refine State.put_ok ?_ ..
    refine State.setFlag_ok ?_ ..
    refine State.put_ok ?_ ..
    exact hx17
  extract_lets +onlyGivenNames -merge -useContext -underBinder x19
  have hx19 : OK W q I x19 := by
    unfold x19
    refine OK.ite (fun _ => ?_) (fun _ => ?_)
    · exact hx18
    · refine State.setFlag_ok ?_ ..
      exact hx18
  refine State.holdoverTarget_ok ?_ ..
  exact hx19

theorem State.lockTick_ok (h : OK W q I s) : OK W q I (State.lockTick s) := by
  unfold State.lockTick
  extract_lets +onlyGivenNames -merge -useContext -underBinder x1
  extract_lets +onlyGivenNames -merge -useContext -underBinder x2
  have hx2 : OK W q I x2 := by
    unfold x2
    refine OK.upd' ?_ rfl rfl rfl rfl
    exact h
  extract_lets +onlyGivenNames -merge -useContext -underBinder x3
  extract_lets +onlyGivenNames -merge -useContext -underBinder x4
  have hx4 : OK W q I x4 := by
    unfold x4
    refine OK.ite (fun _ => ?_) (fun _ => ?_)
    · refine OK.upd' (s := x2) ?_ rfl rfl rfl rfl
      exact hx2
    · exact hx2
  refine OK.ite (fun _ => ?_) (fun _ => ?_)
  · refine OK.upd' (s := x4) ?_ rfl rfl rfl rfl
    exact hx4
  · exact hx4

theorem State.graceMark_ok (h : OK W q I s) : OK W q I (State.graceMark s) := by
  unfold State.graceMark
  refine OK.upd' ?_ rfl rfl rfl rfl
  exact h

theorem State.endRun_ok (h : OK W q I s) : OK W q I (State.endRun s) := by
  unfold State.endRun
  refine OK.upd' ?_ rfl rfl rfl rfl
  exact h

theorem State.judged_ok (h : OK W q I s) : OK W q I (State.judged s) := by
  unfold State.judged
  refine State.put_ok ?_ ..
  refine OK.ite (fun _ => ?_) (fun _ => ?_)
  · exact h
  · refine State.endRun_ok ?_ ..
    exact h

theorem State.setClaim_ok (h : OK W q I s) (a1 a2) : OK W q I (State.setClaim s a1 a2) := by
  unfold State.setClaim
  refine OK.upd' ?_ rfl rfl rfl rfl
  exact h

theorem State.driveClaim_ok (h : OK W q I s) (a1) : OK W q I (State.driveClaim s a1) := by
  unfold State.driveClaim
  extract_lets +onlyGivenNames -merge -useContext -underBinder x1
  extract_lets +onlyGivenNames -merge -useContext -underBinder x2
  refine State.setFlag_ok ?_ ..
  refine State.put_ok ?_ ..
  refine State.setClaim_ok ?_ ..
  exact h

theorem State.becomeSingle_ok (h : OK W q I s) : OK W q I (State.becomeSingle s) := by
  unfold State.becomeSingle
  refine OK.ite (fun _ => ?_) (fun _ => ?_)
  · exact h
  · refine State.record_ok ?_ ..
    refine State.setFlag_ok ?_ ..
    exact h

theorem State.lossTaken_ok (h : OK W q I s) : OK W q I (State.lossTaken s) := by
  unfold State.lossTaken
  refine OK.upd' ?_ rfl rfl rfl rfl
  exact h

theorem State.noteLoss_ok (h : OK W q I s) : OK W q I (State.noteLoss s) := by
  unfold State.noteLoss
  refine OK.ite (fun _ => ?_) (fun _ => ?_)
  · exact h
  · refine State.becomeSingle_ok ?_ ..
    refine State.record_ok ?_ ..
    refine State.lossTaken_ok ?_ ..
    exact h

theorem State.newReport_ok (h : OK W q I s) (a1) : OK W q I (State.newReport s a1) := by
  unfold State.newReport
  refine OK.ite (fun _ => ?_) (fun _ => ?_)
  · refine State.putReport_ok ?_ ..
    refine OK.upd' ?_ rfl rfl rfl rfl
    exact h
  · exact h

theorem State.claimFixed_ok (h : OK W q I s) : OK W q I (State.claimFixed s) := by
  unfold State.claimFixed
  extract_lets +onlyGivenNames -merge -useContext -underBinder x1
  extract_lets +onlyGivenNames -merge -useContext -underBinder x2
  have hx2 : OK W q I x2 := by
    unfold x2
    refine State.judged_ok ?_ ..
    exact h
  refine State.newReport_ok ?_ ..
  refine State.noteLoss_ok ?_ ..
  refine State.driveClaim_ok ?_ ..
  exact hx2

theorem execClaimFix_ok (h : OK W q I s) : OKo W q I (execClaimFix s) := by
  unfold execClaimFix
  refine OKo.next ?_
  refine State.claimFixed_ok ?_ ..
  refine State.graceMark_ok ?_ ..
  refine State.atCycle_ok ?_ ..
  exact h

theorem State.takeSet_ok (h : OK W q I s) (a1) : OK W q I (State.takeSet s a1) := by
  unfold State.takeSet
  extract_lets +onlyGivenNames -merge -useContext -underBinder x1
  refine OK.upd' ?_ rfl rfl rfl rfl
  exact h

theorem execInputSet_ok (h : OK W q I s) (a0 a1 a2) : OKo W q I (execInputSet a0 a1 a2 s) := by
  unfold execInputSet
  refine OKo.next ?_
  refine OK.ite (fun _ => ?_) (fun _ => ?_)
  · refine State.bump_ok ?_ ..
    exact h
  · refine OK.ite (fun _ => ?_) (fun _ => ?_)
    · refine State.takeSet_ok ?_ ..
      exact h
    · exact h

theorem State.chooseSet_ok (h : OK W q I s) : OK W q I (State.chooseSet s) := by
  unfold State.chooseSet
  extract_lets +onlyGivenNames -merge -useContext -underBinder x1
  extract_lets +onlyGivenNames -merge -useContext -underBinder x2
  extract_lets +onlyGivenNames -merge -useContext -underBinder x3
  extract_lets +onlyGivenNames -merge -useContext -underBinder x4
  have hx4 : OK W q I x4 := by
    unfold x4
    refine OK.ite (fun _ => ?_) (fun _ => ?_)
    · refine State.bump_ok ?_ ..
      refine OK.upd' ?_ rfl rfl rfl rfl
      exact h
    · exact h
  extract_lets +onlyGivenNames -merge -useContext -underBinder x5
  have hx5 : OK W q I x5 := by
    unfold x5
    refine OK.ite (fun _ => ?_) (fun _ => ?_)
    · refine State.setFlag_ok ?_ ..
      exact hx4
    · exact hx4
  refine OK.upd' (s := x5) ?_ rfl rfl rfl rfl
  exact hx5

theorem State.adcSum_ok (h : OK W q I s) : OK W q I (State.adcSum s) := by
  unfold State.adcSum
  split
  · refine OK.ite (fun _ => ?_) (fun _ => ?_)
    · refine OK.upd' ?_ rfl rfl rfl rfl
      exact h
    · exact h
  · exact h

theorem State.mismatchMark_ok (h : OK W q I s) : OK W q I (State.mismatchMark s) := by
  unfold State.mismatchMark
  refine OK.upd' ?_ rfl rfl rfl rfl
  exact h

theorem State.mismatch_ok (h : OK W q I s) : OK W q I (State.mismatch s) := by
  unfold State.mismatch
  refine State.mismatchMark_ok ?_ ..
  refine State.record_ok ?_ ..
  refine State.bump_ok ?_ ..
  exact h

theorem execOutputDigest_ok (h : OK W q I s) (a0 a1) : OKo W q I (execOutputDigest a0 a1 s) := by
  unfold execOutputDigest
  refine OKo.next ?_
  refine OK.ite (fun _ => ?_) (fun _ => ?_)
  · exact h
  · refine State.mismatch_ok ?_ ..
    exact h

theorem State.loadRegs_ok (h : OK W q I s) (a1 a2) : OK W q I (State.loadRegs s a1 a2) := by
  unfold State.loadRegs
  extract_lets +onlyGivenNames -merge -useContext -underBinder x1
  have hx1 : OK W q I x1 := by
    unfold x1
    refine OK.foldl (fun _ _ ht2 => ?_) ?_
    · refine State.wr_ok ?_ ..
      exact ht2
    · exact h
  refine OK.foldl (fun _ _ ht3 => ?_) ?_
  · refine State.wr_ok ?_ ..
    exact ht3
  · exact hx1

theorem State.dynParts_ok (h : OK W q I s) (a1) : OK W q I (State.dynParts s a1) := by
  unfold State.dynParts
  refine OK.upd' ?_ rfl rfl rfl rfl
  exact h

theorem State.loadDynamic_ok (h : OK W q I s) (a1) : OK W q I (State.loadDynamic s a1) := by
  unfold State.loadDynamic
  refine State.loadRegs_ok ?_ ..
  refine State.dynParts_ok ?_ ..
  exact h

theorem State.statParts_ok (h : OK W q I s) (a1) : OK W q I (State.statParts s a1) := by
  unfold State.statParts
  refine OK.upd' ?_ rfl rfl rfl rfl
  exact h

theorem State.loadStatic_ok (h : OK W q I s) (a1) : OK W q I (State.loadStatic s a1) := by
  unfold State.loadStatic
  refine State.loadRegs_ok ?_ ..
  refine State.statParts_ok ?_ ..
  refine State.dynParts_ok ?_ ..
  exact h

theorem State.staticTaken_ok (h : OK W q I s) : OK W q I (State.staticTaken s) := by
  unfold State.staticTaken
  refine OK.upd' ?_ rfl rfl rfl rfl
  exact h

theorem execStaticImage_ok (h : OK W q I s) (a0) : OKo W q I (execStaticImage a0 s) := by
  unfold execStaticImage
  refine OKo.next ?_
  refine OK.ite (fun _ => ?_) (fun _ => ?_)
  · exact h
  · refine State.setFlag_ok ?_ ..
    refine State.staticTaken_ok ?_ ..
    refine State.loadStatic_ok ?_ ..
    exact h

theorem State.passEnded_ok (h : OK W q I s) : OK W q I (State.passEnded s) := by
  unfold State.passEnded
  refine OK.upd' ?_ rfl rfl rfl rfl
  exact h

theorem State.dynamicTaken_ok (h : OK W q I s) : OK W q I (State.dynamicTaken s) := by
  unfold State.dynamicTaken
  refine State.passEnded_ok ?_ ..
  refine OK.upd' ?_ rfl rfl rfl rfl
  exact h

theorem execDynamicImage_ok (h : OK W q I s) (a0) : OKo W q I (execDynamicImage a0 s) := by
  unfold execDynamicImage
  refine OKo.next ?_
  refine OK.ite (fun _ => ?_) (fun _ => ?_)
  · exact h
  · refine State.bump_ok ?_ ..
    refine State.setFlag_ok ?_ ..
    refine State.dynamicTaken_ok ?_ ..
    refine State.loadDynamic_ok ?_ ..
    exact h

theorem State.askDynamic_ok (h : OK W q I s) : OK W q I (State.askDynamic s) := by
  unfold State.askDynamic
  refine OK.upd' ?_ rfl rfl rfl rfl
  exact h

theorem execResyncRequest_ok (h : OK W q I s) : OKo W q I (execResyncRequest s) := by
  unfold execResyncRequest
  refine OKo.next ?_
  refine OK.ite (fun _ => ?_) (fun _ => ?_)
  · refine OK.ite (fun _ => ?_) (fun _ => ?_)
    · exact h
    · refine State.askDynamic_ok ?_ ..
      exact h
  · refine State.passEnded_ok ?_ ..
    exact h

theorem execResync_ok (h : OK W q I s) : OKo W q I (execResync s) := by
  unfold execResync
  refine OKo.next ?_
  refine State.enqueue_ok ?_ ..
  exact h

theorem State.resyncWrite_ok (h : OK W q I s) : OK W q I (State.resyncWrite s) := by
  unfold State.resyncWrite
  refine OK.ite (fun _ => ?_) (fun _ => ?_)
  · refine OK.upd' ?_ rfl rfl rfl rfl
    exact h
  · exact h

theorem State.takeForecast_ok (h : OK W q I s) (a1) : OK W q I (State.takeForecast s a1) := by
  unfold State.takeForecast
  refine OK.upd' ?_ rfl rfl rfl rfl
  exact h

theorem execForecastBulk_ok (h : OK W q I s) (a0) : OKo W q I (execForecastBulk a0 s) := by
  unfold execForecastBulk
  refine OKo.next ?_
  refine OK.ite (fun _ => ?_) (fun _ => ?_)
  · refine State.takeForecast_ok ?_ ..
    exact h
  · exact h

theorem State.takeBuffer_ok (h : OK W q I s) (a1 a2) : OK W q I (State.takeBuffer s a1 a2) := by
  unfold State.takeBuffer
  extract_lets +onlyGivenNames -merge -useContext -underBinder x1
  refine State.each_ok (fun _ _ ht2 => ?_) ?_
  · refine State.wr_ok ?_ ..
    refine State.wr_ok ?_ ..
    exact ht2
  · exact h

theorem execFfwBufferBulk_ok (h : OK W q I s) (a0 a1) : OKo W q I (execFfwBufferBulk a0 a1 s) := by
  unfold execFfwBufferBulk
  refine OKo.next ?_
  refine OK.ite (fun _ => ?_) (fun _ => ?_)
  · exact h
  · refine State.formCrc_ok ?_ ..
    refine State.takeBuffer_ok ?_ ..
    exact h

theorem execBufferCrc_ok (h : OK W q I s) (a0 a1) : OKo W q I (execBufferCrc a0 a1 s) := by
  unfold execBufferCrc
  refine OKo.next ?_
  refine OK.ite (fun _ => ?_) (fun _ => ?_)
  · exact h
  · refine State.setZoneFf_ok ?_ ..
    exact h

theorem State.takeForwarded_ok (h : OK W q I s) (a1) : OK W q I (State.takeForwarded s a1) := by
  unfold State.takeForwarded
  refine OK.upd' ?_ rfl rfl rfl rfl
  exact h

theorem execForwardedWrite_ok (h : OK W q I s) (a0) : OKo W q I (execForwardedWrite a0 s) := by
  unfold execForwardedWrite
  refine OKo.next ?_
  refine OK.ite (fun _ => ?_) (fun _ => ?_)
  · exact h
  · refine State.takeForwarded_ok ?_ ..
    exact h

theorem State.holdConfig_ok (h : OK W q I s) (a1) : OK W q I (State.holdConfig s a1) := by
  unfold State.holdConfig
  refine OK.upd' ?_ rfl rfl rfl rfl
  exact h

theorem State.takeReport_ok (h : OK W q I s) (a1) : OK W q I (State.takeReport s a1) := by
  unfold State.takeReport
  extract_lets +onlyGivenNames -merge -useContext -underBinder x1
  have hx1 : OK W q I x1 := by
    unfold x1
    refine OK.foldl (fun _ _ ht2 => ?_) ?_
    · refine State.wr_ok ?_ ..
      exact ht2
    · exact h
  refine State.holdConfig_ok ?_ ..
  refine State.put_ok ?_ ..
  exact hx1

theorem execHealthReport_ok (h : OK W q I s) (a0) : OKo W q I (execHealthReport a0 s) := by
  unfold execHealthReport
  refine OKo.next ?_
  refine OK.ite (fun _ => ?_) (fun _ => ?_)
  · exact h
  · refine State.takeReport_ok ?_ ..
    exact h

theorem State.askStatic_ok (h : OK W q I s) : OK W q I (State.askStatic s) := by
  unfold State.askStatic
  refine OK.upd' ?_ rfl rfl rfl rfl
  exact h

theorem execPairStateDigest_ok (h : OK W q I s) (a0) : OKo W q I (execPairStateDigest a0 s) := by
  unfold execPairStateDigest
  refine OKo.next ?_
  refine OK.ite (fun _ => ?_) (fun _ => ?_)
  · refine State.askStatic_ok ?_ ..
    exact h
  · exact h

theorem execBulkDeadlineMiss_ok (h : OK W q I s) : OKo W q I (execBulkDeadlineMiss s) := by
  unfold execBulkDeadlineMiss
  refine OKo.next ?_
  refine OK.ite (fun _ => ?_) (fun _ => ?_)
  · refine State.setFlag_ok ?_ ..
    exact h
  · exact h

theorem State.adcClosed_ok (h : OK W q I s) : OK W q I (State.adcClosed s) := by
  unfold State.adcClosed
  refine OK.upd' ?_ rfl rfl rfl rfl
  exact h

theorem execAdcCheck_ok (h : OK W q I s) : OKo W q I (execAdcCheck s) := by
  unfold execAdcCheck
  refine OKo.next ?_
  refine OK.ite (fun _ => ?_) (fun _ => ?_)
  · exact h
  · refine State.put_ok ?_ ..
    refine State.adcClosed_ok ?_ ..
    exact h

theorem State.skipTurn_ok (h : OK W q I s) (a1) : OK W q I (State.skipTurn s a1) := by
  unfold State.skipTurn
  refine State.put_ok ?_ ..
  refine OK.upd' ?_ rfl rfl rfl rfl
  exact h

theorem State.testBegun_ok (h : OK W q I s) : OK W q I (State.testBegun s) := by
  unfold State.testBegun
  refine OK.upd' ?_ rfl rfl rfl rfl
  exact h

theorem State.testCore_ok (h : OK W q I s) (a1) : OK W q I (State.testCore s a1) := by
  unfold State.testCore
  refine State.testBegun_ok ?_ ..
  refine State.countCores_ok ?_ ..
  refine State.put_ok ?_ ..
  refine State.setFlag_ok ?_ ..
  refine State.setFlag_ok ?_ ..
  exact h

theorem State.moveAway_ok (h : OK W q I s) (a1) : OK W q I (State.moveAway s a1) := by
  unfold State.moveAway
  extract_lets +onlyGivenNames -merge -useContext -underBinder x1
  refine OK.dite (fun _ => ?_) (fun _ => ?_)
  · extract_lets +onlyGivenNames -merge -useContext -underBinder x2
    extract_lets +onlyGivenNames -merge -useContext -underBinder x3
    extract_lets +onlyGivenNames -merge -useContext -underBinder x4
    split
    · extract_lets +onlyGivenNames -merge -useContext -underBinder x5
      refine OK.upd' ?_ rfl rfl rfl rfl
      exact h
    · refine State.skipTurn_ok ?_ ..
      exact h
  · refine State.skipTurn_ok ?_ ..
    exact h

theorem State.startTurn_ok (h : OK W q I s) (a1) : OK W q I (State.startTurn s a1) := by
  unfold State.startTurn
  refine OK.ite (fun _ => ?_) (fun _ => ?_)
  · refine State.skipTurn_ok ?_ ..
    exact h
  · refine OK.ite (fun _ => ?_) (fun _ => ?_)
    · refine State.testCore_ok ?_ ..
      exact h
    · refine OK.ite (fun _ => ?_) (fun _ => ?_)
      · exact h
      · refine State.moveAway_ok ?_ ..
        exact h

theorem State.rotMark_ok (h : OK W q I s) : OK W q I (State.rotMark s) := by
  unfold State.rotMark
  refine OK.upd' ?_ rfl rfl rfl rfl
  exact h

theorem State.turnDone_ok (h : OK W q I s) (a1) : OK W q I (State.turnDone s a1) := by
  unfold State.turnDone
  refine OK.upd' ?_ rfl rfl rfl rfl
  exact h

theorem State.coreBack_ok (h : OK W q I s) (a1) : OK W q I (State.coreBack s a1) := by
  unfold State.coreBack
  refine State.countCores_ok ?_ ..
  refine State.put_ok ?_ ..
  refine State.setFlag_ok ?_ ..
  exact h

theorem State.showTurn_ok (h : OK W q I s) (a1) : OK W q I (State.showTurn s a1) := by
  unfold State.showTurn
  refine State.put_ok ?_ ..
  refine State.put_ok ?_ ..
  refine State.setFlag_ok ?_ ..
  exact h

theorem State.endTurn_ok (h : OK W q I s) (a1) : OK W q I (State.endTurn s a1) := by
  unfold State.endTurn
  refine OK.ite (fun _ => ?_) (fun _ => ?_)
  · refine State.showTurn_ok ?_ ..
    refine State.turnDone_ok ?_ ..
    refine State.setFlag_ok ?_ ..
    exact h
  · refine State.showTurn_ok ?_ ..
    refine State.turnDone_ok ?_ ..
    refine State.coreBack_ok ?_ ..
    exact h

theorem State.turnWait_ok (h : OK W q I s) : OK W q I (State.turnWait s) := by
  unfold State.turnWait
  refine OK.upd' ?_ rfl rfl rfl rfl
  exact h

theorem State.rotate_ok (h : OK W q I s) : OK W q I (State.rotate s) := by
  unfold State.rotate
  split
  · refine OK.ite (fun _ => ?_) (fun _ => ?_)
    · exact h
    · refine State.endTurn_ok ?_ ..
      exact h
  · refine OK.ite (fun _ => ?_) (fun _ => ?_)
    · exact h
    · refine OK.ite (fun _ => ?_) (fun _ => ?_)
      · refine State.startTurn_ok ?_ ..
        refine State.turnWait_ok ?_ ..
        exact h
      · refine State.turnWait_ok ?_ ..
        exact h

theorem execCoreTestRotation_ok (h : OK W q I s) : OKo W q I (execCoreTestRotation s) := by
  unfold execCoreTestRotation
  refine OKo.next ?_
  refine OK.ite (fun _ => ?_) (fun _ => ?_)
  · exact h
  · refine State.rotate_ok ?_ ..
    refine State.rotMark_ok ?_ ..
    exact h

theorem State.adopt_ok (hI : Wraps I) (h : OK W q I s) (a1 a2) : OK W q I (State.adopt s a1 a2) := by
  unfold State.adopt
  refine OK.updT hI ?_ rfl (Nat.mod_lt _ (by decide)) (Nat.mod_lt _ (by decide)) rfl
  exact h

theorem State.joinEnds_ok (h : OK W q I s) : OK W q I (State.joinEnds s) := by
  unfold State.joinEnds
  refine OK.upd' ?_ rfl rfl rfl rfl
  exact h

theorem State.joined_ok (h : OK W q I s) : OK W q I (State.joined s) := by
  unfold State.joined
  refine State.put_ok ?_ ..
  refine State.bump_ok ?_ ..
  refine State.setFlag_ok ?_ ..
  exact h

theorem execJoin_ok (hI : Wraps I) (h : OK W q I s) (a0 a1 a2) : OKo W q I (execJoin a0 a1 a2 s) := by
  unfold execJoin
  refine OKo.next ?_
  refine OK.ite (fun _ => ?_) (fun _ => ?_)
  · exact h
  · refine State.clearSingle_ok ?_ ..
    refine State.joined_ok ?_ ..
    refine State.joinEnds_ok ?_ ..
    refine State.loadDynamic_ok ?_ ..
    refine State.loadStatic_ok ?_ ..
    refine State.record_ok ?_ ..
    refine State.adopt_ok hI ?_ ..
    exact h

theorem State.waitEnds_ok (h : OK W q I s) (a1) : OK W q I (State.waitEnds s a1) := by
  unfold State.waitEnds
  refine OK.upd' ?_ rfl rfl rfl rfl
  exact h

theorem execPairWaitEnd_ok (h : OK W q I s) : OKo W q I (execPairWaitEnd s) := by
  unfold execPairWaitEnd
  refine OKo.next ?_
  refine OK.ite (fun _ => ?_) (fun _ => ?_)
  · exact h
  · refine OK.ite (fun _ => ?_) (fun _ => ?_)
    · refine State.waitEnds_ok ?_ ..
      exact h
    · refine OK.ite (fun _ => ?_) (fun _ => ?_)
      · exact h
      · refine State.becomeSingle_ok ?_ ..
        refine State.waitEnds_ok ?_ ..
        exact h

theorem State.started_ok (h : OK W q I s) : OK W q I (State.started s) := by
  unfold State.started
  refine OK.upd' ?_ rfl rfl rfl rfl
  exact h

theorem execStartupComplete_ok (h : OK W q I s) : OKo W q I (execStartupComplete s) := by
  unfold execStartupComplete
  refine OKo.next ?_
  refine OK.ite (fun _ => ?_) (fun _ => ?_)
  · exact h
  · refine State.started_ok ?_ ..
    exact h

theorem State.historyTaken_ok (h : OK W q I s) : OK W q I (State.historyTaken s) := by
  unfold State.historyTaken
  extract_lets +onlyGivenNames -merge -useContext -underBinder x1
  refine OK.upd' ?_ rfl rfl rfl rfl
  exact h

theorem execClaimHistoryEntry_ok (h : OK W q I s) : OKo W q I (execClaimHistoryEntry s) := by
  unfold execClaimHistoryEntry
  refine OKo.next ?_
  refine OK.ite (fun _ => ?_) (fun _ => ?_)
  · exact h
  · refine State.historyTaken_ok ?_ ..
    exact h

theorem execClearCounts_ok (h : OK W q I s) : OKo W q I (execClearCounts s) := by
  unfold execClearCounts
  refine OKo.next ?_
  refine State.enqueue_ok ?_ ..
  exact h

theorem State.clearCounts_ok (h : OK W q I s) : OK W q I (State.clearCounts s) := by
  unfold State.clearCounts
  refine State.wr_ok ?_ ..
  refine State.wr_ok ?_ ..
  exact h

end Sys2Proof.Machine
end

