-- ==== Sys2Proof/Laws/KeepHost.lean ====
section
/-! SUPPORT. What the operations of Wilros, Trust, WilrosOps keep (Laws/Keep). -/

namespace Sys2Proof.Machine

variable {W : Prop} {q : List Instr} {I : Nat → Nat → Prop} {s : State}

theorem State.setSession_ok (h : OK W q I s) (a1 a2 a3) : OK W q I (State.setSession s a1 a2 a3) := by
  unfold State.setSession
  refine OK.upd' ?_ rfl rfl rfl rfl
  exact h

theorem State.windowRegs_ok (h : OK W q I s) : OK W q I (State.windowRegs s) := by
  unfold State.windowRegs
  refine State.each_ok (fun _ _ ht1 => ?_) ?_
  · refine State.put_ok ?_ ..
    exact ht1
  · exact h

theorem State.sendNow_ok (h : OK W q I s) (a1 a2) : OK W q I (State.sendNow s a1 a2) := by
  unfold State.sendNow
  refine OK.upd' ?_ rfl rfl rfl rfl
  exact h

theorem State.countReply_ok (h : OK W q I s) (a1 a2) : OK W q I (State.countReply s a1 a2) := by
  unfold State.countReply
  refine OK.ite (fun _ => ?_) (fun _ => ?_)
  · refine OK.ite (fun _ => ?_) (fun _ => ?_)
    · refine State.bump_ok ?_ ..
      exact h
    · refine OK.ite (fun _ => ?_) (fun _ => ?_)
      · refine State.bump_ok ?_ ..
        exact h
      · exact h
  · exact h

theorem State.keepReply_ok (h : OK W q I s) (a1 a2) : OK W q I (State.keepReply s a1 a2) := by
  unfold State.keepReply
  refine State.setSession_ok ?_ ..
  exact h

theorem State.send_ok (h : OK W q I s) (a1 a2 a3) : OK W q I (State.send s a1 a2 a3) := by
  unfold State.send
  extract_lets +onlyGivenNames -merge -useContext -underBinder x1
  extract_lets +onlyGivenNames -merge -useContext -underBinder x2
  have hx2 : OK W q I x2 := by
    unfold x2
    refine State.countReply_ok ?_ ..
    refine State.sendNow_ok ?_ ..
    exact h
  extract_lets +onlyGivenNames -merge -useContext -underBinder x3
  have hx3 : OK W q I x3 := by
    unfold x3
    refine OK.ite (fun _ => ?_) (fun _ => ?_)
    · refine State.keepReply_ok ?_ ..
      exact hx2
    · exact hx2
  refine OK.ite (fun _ => ?_) (fun _ => ?_)
  · refine State.endSession_ok ?_ ..
    exact hx3
  · exact hx3

theorem State.early_ok (h : OK W q I s) (a1 a2 a3) : OK W q I (State.early s a1 a2 a3) := by
  unfold State.early
  refine State.send_ok ?_ ..
  exact h

theorem State.answer_ok (h : OK W q I s) (a1 a2 a3 a4 a5 a6) : OK W q I (State.answer s a1 a2 a3 a4 a5 a6) := by
  unfold State.answer
  extract_lets +onlyGivenNames -merge -useContext -underBinder x1
  extract_lets +onlyGivenNames -merge -useContext -underBinder x2
  have hx2 : OK W q I x2 := by
    unfold x2
    refine OK.ite (fun _ => ?_) (fun _ => ?_)
    · refine State.audit_ok ?_ ..
      exact h
    · exact h
  refine State.send_ok ?_ ..
  exact hx2

theorem State.okWith_ok (h : OK W q I s) (a1 a2 a3 a4) : OK W q I (State.okWith s a1 a2 a3 a4) := by
  unfold State.okWith
  refine State.answer_ok ?_ ..
  exact h

theorem State.okAsync_ok (h : OK W q I s) (a1 a2 a3) : OK W q I (State.okAsync s a1 a2 a3) := by
  unfold State.okAsync
  extract_lets +onlyGivenNames -merge -useContext -underBinder x1
  extract_lets +onlyGivenNames -merge -useContext -underBinder x2
  have hx2 : OK W q I x2 := by
    unfold x2
    refine OK.ite (fun _ => ?_) (fun _ => ?_)
    · refine State.audit_ok ?_ ..
      exact h
    · exact h
  refine State.send_ok ?_ ..
  exact hx2

theorem State.later_ok (h : OK W q I s) (a1 a2 a3 a4 a5 a6) : OK W q I (State.later s a1 a2 a3 a4 a5 a6) := by
  unfold State.later
  extract_lets +onlyGivenNames -merge -useContext -underBinder x1
  refine State.windowRegs_ok ?_ ..
  refine OK.upd' ?_ rfl rfl rfl rfl
  exact h

theorem State.release_ok (h : OK W q I s) (a1 a2) : OK W q I (State.release s a1 a2) := by
  unfold State.release
  extract_lets +onlyGivenNames -merge -useContext -underBinder x1
  extract_lets +onlyGivenNames -merge -useContext -underBinder x2
  have hx2 : OK W q I x2 := by
    unfold x2
    split
    · refine State.audit_ok ?_ ..
      exact h
    · exact h
  refine State.windowRegs_ok ?_ ..
  refine State.send_ok ?_ ..
  exact hx2

theorem State.wrote_ok (h : OK W q I s) (a1) : OK W q I (State.wrote s a1) := by
  unfold State.wrote
  refine OK.ite (fun _ => ?_) (fun _ => ?_)
  · exact h
  · extract_lets +onlyGivenNames -merge -useContext -underBinder x1
    extract_lets +onlyGivenNames -merge -useContext -underBinder x2
    extract_lets +onlyGivenNames -merge -useContext -underBinder x3
    extract_lets +onlyGivenNames -merge -useContext -underBinder x4
    extract_lets +onlyGivenNames -merge -useContext -underBinder x5
    have hx5 : OK W q I x5 := by
      unfold x5
      refine OK.upd' ?_ rfl rfl rfl rfl
      exact h
    refine OK.foldl (fun _ _ ht6 => ?_) ?_
    · refine State.release_ok ?_ ..
      exact ht6
    · exact hx5

theorem State.replyTick_ok (h : OK W q I s) : OK W q I (State.replyTick s) := by
  unfold State.replyTick
  extract_lets +onlyGivenNames -merge -useContext -underBinder x1
  extract_lets +onlyGivenNames -merge -useContext -underBinder x2
  extract_lets +onlyGivenNames -merge -useContext -underBinder x3
  extract_lets +onlyGivenNames -merge -useContext -underBinder x4
  extract_lets +onlyGivenNames -merge -useContext -underBinder x5
  have hx5 : OK W q I x5 := by
    unfold x5
    refine OK.upd' ?_ rfl rfl rfl rfl
    exact h
  refine OK.foldl (fun _ _ ht6 => ?_) ?_
  · refine State.release_ok ?_ ..
    exact ht6
  · exact hx5

theorem State.renew_ok (h : OK W q I s) (a1 a2) : OK W q I (State.renew s a1 a2) := by
  unfold State.renew
  extract_lets +onlyGivenNames -merge -useContext -underBinder x1
  have hx1 : OK W q I x1 := by
    unfold x1
    refine State.setSession_ok ?_ ..
    exact h
  split
  · refine OK.ite (fun _ => ?_) (fun _ => ?_)
    · refine State.semRegs_ok ?_ ..
      refine State.setSem_ok ?_ ..
      exact hx1
    · exact hx1
  · exact hx1

theorem State.authFailed_ok (h : OK W q I s) (a1) : OK W q I (State.authFailed s a1) := by
  unfold State.authFailed
  refine State.bump_ok ?_ ..
  refine OK.upd' ?_ rfl rfl rfl rfl
  exact h

theorem State.leaseCheck_ok (h : OK W q I s) : OK W q I (State.leaseCheck s) := by
  unfold State.leaseCheck
  split
  · refine OK.ite (fun _ => ?_) (fun _ => ?_)
    · split
      · first | assumption | exact execLeaseExpiry_ok h _ ‹_›
      · exact h
    · exact h
  · exact h

theorem State.expiries_ok (h : OK W q I s) : OK W q I (State.expiries s) := by
  unfold State.expiries
  refine State.leaseCheck_ok ?_ ..
  refine State.endSessions_ok ?_ ..
  exact h

theorem State.arrive_ok (h : OK W q I s) (a1) : OK W q I (State.arrive s a1) := by
  unfold State.arrive
  refine State.expiries_ok ?_ ..
  refine State.atCycle_ok ?_ ..
  exact h

theorem State.counted_ok (h : OK W q I s) (a1) : OK W q I (State.counted s a1) := by
  unfold State.counted
  refine State.setSession_ok ?_ ..
  refine OK.upd' ?_ rfl rfl rfl rfl
  exact h

theorem State.taken_ok (h : OK W q I s) (a1) : OK W q I (State.taken s a1) := by
  unfold State.taken
  refine State.counted_ok ?_ ..
  refine State.renew_ok ?_ ..
  refine State.arrive_ok ?_ ..
  exact h

theorem State.request_ok {run} (hrun : ∀ z0, OK W q I z0 → ∀ y1, OK W q I (run z0 y1)) (h : OK W q I s) (a1 a2 a3 a4 a5) : OK W q I (State.request s a1 a2 a3 a4 a5 run) := by
  unfold State.request
  refine OK.ite (fun _ => ?_) (fun _ => ?_)
  · exact h
  · extract_lets +onlyGivenNames -merge -useContext -underBinder x1
    have hx1 : OK W q I x1 := by
      unfold x1
      refine State.arrive_ok ?_ ..
      exact h
    refine OK.ite (fun _ => ?_) (fun _ => ?_)
    · refine State.early_ok ?_ ..
      exact hx1
    · split
      · refine State.early_ok ?_ ..
        exact hx1
      · refine OK.ite (fun _ => ?_) (fun _ => ?_)
        · refine State.early_ok ?_ ..
          exact hx1
        · refine OK.ite (fun _ => ?_) (fun _ => ?_)
          · refine State.early_ok ?_ ..
            exact hx1
          · refine OK.ite (fun _ => ?_) (fun _ => ?_)
            · refine State.early_ok ?_ ..
              refine State.authFailed_ok ?_ ..
              exact hx1
            · extract_lets +onlyGivenNames -merge -useContext -underBinder x2
              have hx2 : OK W q I x2 := by
                unfold x2
                refine State.renew_ok ?_ ..
                exact hx1
              refine OK.ite (fun _ => ?_) (fun _ => ?_)
              · split
                · refine State.send_ok ?_ ..
                  exact hx2
                · refine State.early_ok ?_ ..
                  exact hx2
              · refine OK.ite (fun _ => ?_) (fun _ => ?_)
                · refine State.early_ok ?_ ..
                  exact hx2
                · refine OK.ite (fun _ => ?_) (fun _ => ?_)
                  · refine State.early_ok ?_ ..
                    exact hx2
                  · refine OK.ite (fun _ => ?_) (fun _ => ?_)
                    · refine State.early_ok ?_ ..
                      exact hx2
                    · extract_lets +onlyGivenNames -merge -useContext -underBinder x3
                      have hx3 : OK W q I x3 := by
                        unfold x3
                        refine State.counted_ok ?_ ..
                        exact hx2
                      extract_lets +onlyGivenNames -merge -useContext -underBinder x4
                      have hx4 : ∀ y0, OK W q I (x4 y0) := by
                        intro y0; unfold x4
                        refine State.send_ok ?_ ..
                        exact hx3
                      try clear_value x4
                      refine OK.ite (fun _ => ?_) (fun _ => ?_)
                      · refine hx4 _
                      · refine OK.ite (fun _ => ?_) (fun _ => ?_)
                        · refine hx4 _
                        · refine OK.ite (fun _ => ?_) (fun _ => ?_)
                          · refine hx4 _
                          · refine OK.ite (fun _ => ?_) (fun _ => ?_)
                            · refine State.draw_ok ?_ ..
                              refine State.send_ok ?_ ..
                              exact hx3
                            · refine OK.ite (fun _ => ?_) (fun _ => ?_)
                              · refine hx4 _
                              · split
                                · refine hx4 _
                                · refine hrun _ ?_ _
                                  exact hx3

theorem State.enqueueAll_ok (h : OK W q I s) (a1) : OK W q I (State.enqueueAll s a1) := by
  unfold State.enqueueAll
  refine OK.foldl (fun _ _ ht1 => ?_) ?_
  · refine State.enqueue_ok ?_ ..
    exact ht1
  · exact h

theorem State.queueWrites_ok (h : OK W q I s) (a1 a2 a3 a4 a5 a6) : OK W q I (State.queueWrites s a1 a2 a3 a4 a5 a6) := by
  unfold State.queueWrites
  extract_lets +onlyGivenNames -merge -useContext -underBinder x1
  extract_lets +onlyGivenNames -merge -useContext -underBinder x2
  have hx2 : OK W q I x2 := by
    unfold x2
    refine State.enqueueAll_ok ?_ ..
    exact h
  extract_lets +onlyGivenNames -merge -useContext -underBinder x3
  refine OK.ite (fun _ => ?_) (fun _ => ?_)
  · refine State.okWith_ok ?_ ..
    exact hx2
  · refine State.later_ok ?_ ..
    exact hx2

theorem State.offerNonce_ok (h : OK W q I s) (a1 a2) : OK W q I (State.offerNonce s a1 a2) := by
  unfold State.offerNonce
  refine OK.upd' ?_ rfl rfl rfl rfl
  exact h

theorem State.hello_ok (h : OK W q I s) (a1) : OK W q I (State.hello s a1) := by
  unfold State.hello
  extract_lets +onlyGivenNames -merge -useContext -underBinder x1
  split
  · refine State.send_ok ?_ ..
    exact h
  · extract_lets +onlyGivenNames -merge -useContext -underBinder x2
    extract_lets +onlyGivenNames -merge -useContext -underBinder x3
    have hx3 : OK W q I x3 := by
      unfold x3
      refine State.offerNonce_ok ?_ ..
      exact h
    extract_lets +onlyGivenNames -merge -useContext -underBinder x4
    refine State.send_ok ?_ ..
    exact hx3

theorem State.unsession_ok {o p v n} {run : State → State} (hf : ∀ t, OK W q I t → OK W q I (run t)) (h : OK W q I s) :
    OK W q I (State.unsession s o p v n run) := by
  have hs : OK W q I (s.atCycle p.cyc).expiries := State.expiries_ok (State.atCycle_ok h _)
  unfold State.unsession
  exact OK.ite (fun _ => h) fun _ => OK.ite (fun _ => State.early_ok hs ..) fun _ => OK.ite (fun _ => State.early_ok hs ..) fun _ =>
    OK.ite (fun _ => State.early_ok hs ..) fun _ => OK.ite (fun _ => State.early_ok hs ..) fun _ =>
      OK.ite (fun _ => State.early_ok hs ..) fun _ => hf _ hs

theorem execHello_ok (h : OK W q I s) (a0) : OKo W q I (execHello a0 s) := by
  unfold execHello
  refine OKo.next ?_
  refine OK.ite (fun _ => ?_) (fun _ => ?_)
  · refine State.unsession_ok (fun _ ht1 => ?_) ?_ ..
    · refine State.hello_ok ?_ ..
      exact ht1
    · exact h
  · extract_lets +onlyGivenNames -merge -useContext -underBinder x2
    refine State.request_ok (fun _ ht3 _ => ?_) ?_ ..
    · refine State.hello_ok ?_ ..
      exact ht3
    · exact h

theorem State.sessionCloseRun_ok (h : OK W q I s) (a1 a2) : OK W q I (State.sessionCloseRun s a1 a2) := by
  unfold State.sessionCloseRun
  refine State.endSession_ok ?_ ..
  refine State.okWith_ok ?_ ..
  exact h

theorem execSessionClose_ok (h : OK W q I s) (a0) : OKo W q I (execSessionClose a0 s) := by
  unfold execSessionClose
  refine OKo.next ?_
  refine State.request_ok (fun _ ht1 _ => ?_) ?_ ..
  · refine State.sessionCloseRun_ok ?_ ..
    exact ht1
  · exact h

theorem execKeepalive_ok (h : OK W q I s) (a0) : OKo W q I (execKeepalive a0 s) := by
  unfold execKeepalive
  refine OKo.next ?_
  refine State.request_ok (fun _ ht1 _ => ?_) ?_ ..
  · refine State.okWith_ok ?_ ..
    exact ht1
  · exact h

theorem State.holdSem_ok (h : OK W q I s) (a1) : OK W q I (State.holdSem s a1) := by
  unfold State.holdSem
  refine State.semRegs_ok ?_ ..
  refine State.setSem_ok ?_ ..
  exact h

theorem State.semAcquireRun_ok (h : OK W q I s) (a1 a2) : OK W q I (State.semAcquireRun s a1 a2) := by
  unfold State.semAcquireRun
  refine OK.ite (fun _ => ?_) (fun _ => ?_)
  · extract_lets +onlyGivenNames -merge -useContext -underBinder x1
    have hx1 : OK W q I x1 := by
      unfold x1
      refine State.holdSem_ok ?_ ..
      exact h
    extract_lets +onlyGivenNames -merge -useContext -underBinder x2
    have hx2 : OK W q I x2 := by
      unfold x2
      refine State.audit_ok ?_ ..
      exact hx1
    refine State.okWith_ok ?_ ..
    exact hx2
  · refine State.answer_ok ?_ ..
    exact h

theorem execSemAcquire_ok (h : OK W q I s) (a0) : OKo W q I (execSemAcquire a0 s) := by
  unfold execSemAcquire
  refine OKo.next ?_
  refine State.request_ok (fun _ ht1 _ => ?_) ?_ ..
  · refine State.semAcquireRun_ok ?_ ..
    exact ht1
  · exact h

theorem State.semReleaseRun_ok (h : OK W q I s) (a1 a2) : OK W q I (State.semReleaseRun s a1 a2) := by
  unfold State.semReleaseRun
  refine OK.ite (fun _ => ?_) (fun _ => ?_)
  · refine State.okWith_ok ?_ ..
    refine State.audit_ok ?_ ..
    refine State.semFree_ok ?_ ..
    exact h
  · refine OK.ite (fun _ => ?_) (fun _ => ?_)
    · refine State.okWith_ok ?_ ..
      exact h
    · refine State.answer_ok ?_ ..
      exact h

theorem execSemRelease_ok (h : OK W q I s) (a0) : OKo W q I (execSemRelease a0 s) := by
  unfold execSemRelease
  refine OKo.next ?_
  refine State.request_ok (fun _ ht1 _ => ?_) ?_ ..
  · refine State.semReleaseRun_ok ?_ ..
    exact ht1
  · exact h

theorem State.semSeizeRun_ok (h : OK W q I s) (a1 a2) : OK W q I (State.semSeizeRun s a1 a2) := by
  unfold State.semSeizeRun
  extract_lets +onlyGivenNames -merge -useContext -underBinder x1
  extract_lets +onlyGivenNames -merge -useContext -underBinder x2
  extract_lets +onlyGivenNames -merge -useContext -underBinder x3
  have hx3 : OK W q I x3 := by
    unfold x3
    refine State.holdSem_ok ?_ ..
    exact h
  extract_lets +onlyGivenNames -merge -useContext -underBinder x4
  have hx4 : OK W q I x4 := by
    unfold x4
    refine OK.ite (fun _ => ?_) (fun _ => ?_)
    · refine State.record_ok ?_ ..
      refine State.bump_ok ?_ ..
      exact hx3
    · exact hx3
  refine State.okWith_ok ?_ ..
  refine State.audit_ok ?_ ..
  exact hx4

theorem execSemSeize_ok (h : OK W q I s) (a0) : OKo W q I (execSemSeize a0 s) := by
  unfold execSemSeize
  refine OKo.next ?_
  refine State.request_ok (fun _ ht1 _ => ?_) ?_ ..
  · refine State.semSeizeRun_ok ?_ ..
    exact ht1
  · exact h

theorem State.netSend_ok (h : OK W q I s) (a1 a2) : OK W q I (State.netSend s a1 a2) := by
  unfold State.netSend
  refine OK.upd' ?_ rfl rfl rfl rfl
  exact h

theorem execArpRequest_ok (h : OK W q I s) (a0 a1 a2) : OKo W q I (execArpRequest a0 a1 a2 s) := by
  unfold execArpRequest
  refine OKo.next ?_
  refine OK.ite (fun _ => ?_) (fun _ => ?_)
  · refine State.netSend_ok ?_ ..
    exact h
  · exact h

theorem execNeighbourDiscovery_ok (h : OK W q I s) (a0 a1 a2) : OKo W q I (execNeighbourDiscovery a0 a1 a2 s) := by
  unfold execNeighbourDiscovery
  refine OKo.next ?_
  refine OK.ite (fun _ => ?_) (fun _ => ?_)
  · refine State.netSend_ok ?_ ..
    exact h
  · exact h

theorem execIcmpEcho_ok (h : OK W q I s) (a0 a1 a2 a3 a4) : OKo W q I (execIcmpEcho a0 a1 a2 a3 a4 s) := by
  unfold execIcmpEcho
  refine OKo.next ?_
  extract_lets +onlyGivenNames -merge -useContext -underBinder x1
  refine OK.ite (fun _ => ?_) (fun _ => ?_)
  · refine State.netSend_ok ?_ ..
    exact h
  · exact h

theorem execReassemblyTimeout_ok (h : OK W q I s) : OKo W q I (execReassemblyTimeout s) := by
  unfold execReassemblyTimeout
  refine OKo.next ?_
  exact h

theorem execConsoleFramingError_ok (h : OK W q I s) : OKo W q I (execConsoleFramingError s) := by
  unfold execConsoleFramingError
  refine OKo.next ?_
  refine OK.upd' ?_ rfl rfl rfl rfl
  exact h

theorem execConsoleFramingRegained_ok (h : OK W q I s) : OKo W q I (execConsoleFramingRegained s) := by
  unfold execConsoleFramingRegained
  refine OKo.next ?_
  refine OK.upd' ?_ rfl rfl rfl rfl
  exact h

theorem State.setKey_ok (h : OK W q I s) (a1 a2) : OK W q I (State.setKey s a1 a2) := by
  unfold State.setKey
  refine OK.dite (fun _ => ?_) (fun _ => ?_)
  · extract_lets +onlyGivenNames -merge -useContext -underBinder x1
    extract_lets +onlyGivenNames -merge -useContext -underBinder x2
    have hx2 : OK W q I x2 := by
      unfold x2
      refine OK.upd' ?_ rfl rfl rfl rfl
      exact h
    refine State.put_ok ?_ ..
    exact hx2
  · exact h

theorem State.dropKeyWait_ok (h : OK W q I s) (a1) : OK W q I (State.dropKeyWait s a1) := by
  unfold State.dropKeyWait
  refine OK.upd' ?_ rfl rfl rfl rfl
  exact h

theorem State.applyKey_ok (h : OK W q I s) (a1) : OK W q I (State.applyKey s a1) := by
  unfold State.applyKey
  split
  · exact h
  · extract_lets +onlyGivenNames -merge -useContext -underBinder x1
    try clear_value x1
    extract_lets +onlyGivenNames -merge -useContext -underBinder x2
    have hx2 : OK W q I x2 := by
      unfold x2
      refine State.setKey_ok ?_ ..
      refine State.dropKeyWait_ok ?_ ..
      exact h
    split
    · refine State.endSessions_ok ?_ ..
      exact hx2
    · exact hx2

theorem State.waitKey_ok (h : OK W q I s) (a1 a2) : OK W q I (State.waitKey s a1 a2) := by
  unfold State.waitKey
  refine OK.upd' ?_ rfl rfl rfl rfl
  exact h

theorem State.keyRun_ok (h : OK W q I s) (a1 a2 a3 a4) : OK W q I (State.keyRun s a1 a2 a3 a4) := by
  unfold State.keyRun
  extract_lets +onlyGivenNames -merge -useContext -underBinder x1
  refine OK.ite (fun _ => ?_) (fun _ => ?_)
  · refine State.answer_ok ?_ ..
    exact h
  · extract_lets +onlyGivenNames -merge -useContext -underBinder x2
    try clear_value x2
    extract_lets +onlyGivenNames -merge -useContext -underBinder x3
    extract_lets +onlyGivenNames -merge -useContext -underBinder x4
    have hx4 : OK W q I x4 := by
      unfold x4
      refine State.audit_ok ?_ ..
      exact h
    refine State.queueWrites_ok ?_ ..
    refine State.waitKey_ok ?_ ..
    exact hx4

theorem State.keyCommand_ok (h : OK W q I s) (a1 a2 a3) : OK W q I (State.keyCommand s a1 a2 a3) := by
  unfold State.keyCommand
  refine State.request_ok (fun _ ht1 _ => ?_) ?_ ..
  · refine State.keyRun_ok ?_ ..
    exact ht1
  · exact h

theorem execKeyLoad_ok (h : OK W q I s) (a0 a1) : OKo W q I (execKeyLoad a0 a1 s) := by
  unfold execKeyLoad
  refine OKo.next ?_
  refine State.keyCommand_ok ?_ ..
  exact h

theorem execKeyClear_ok (h : OK W q I s) (a0 a1) : OKo W q I (execKeyClear a0 a1 s) := by
  unfold execKeyClear
  refine OKo.next ?_
  refine State.keyCommand_ok ?_ ..
  exact h

theorem State.setFailRun_ok (h : OK W q I s) (a1 a2) : OK W q I (State.setFailRun s a1 a2) := by
  unfold State.setFailRun
  refine OK.upd' ?_ rfl rfl rfl rfl
  exact h

theorem State.closePort_ok (h : OK W q I s) (a1 a2) : OK W q I (State.closePort s a1 a2) := by
  unfold State.closePort
  refine OK.upd' ?_ rfl rfl rfl rfl
  exact h

theorem State.openFails_ok (h : OK W q I s) (a1) : OK W q I (State.openFails s a1) := by
  unfold State.openFails
  extract_lets +onlyGivenNames -merge -useContext -underBinder x1
  extract_lets +onlyGivenNames -merge -useContext -underBinder x2
  have hx2 : OK W q I x2 := by
    unfold x2
    refine State.authFailed_ok ?_ ..
    exact h
  extract_lets +onlyGivenNames -merge -useContext -underBinder x3
  have hx3 : OK W q I x3 := by
    unfold x3
    refine OK.ite (fun _ => ?_) (fun _ => ?_)
    · refine State.setFailRun_ok ?_ ..
      exact hx2
    · refine State.closePort_ok ?_ ..
      refine State.setFailRun_ok ?_ ..
      exact hx2
  refine State.early_ok ?_ ..
  exact hx3

theorem State.addSession_ok (h : OK W q I s) (a1 a2) : OK W q I (State.addSession s a1 a2) := by
  unfold State.addSession
  refine State.draw_ok ?_ ..
  refine State.setFailRun_ok ?_ ..
  refine OK.upd' ?_ rfl rfl rfl rfl
  exact h

theorem State.openSession_ok (h : OK W q I s) (a1 a2 a3 a4) : OK W q I (State.openSession s a1 a2 a3 a4) := by
  unfold State.openSession
  extract_lets +onlyGivenNames -merge -useContext -underBinder x1
  extract_lets +onlyGivenNames -merge -useContext -underBinder x2
  extract_lets +onlyGivenNames -merge -useContext -underBinder x3
  have hx3 : OK W q I x3 := by
    unfold x3
    refine State.sessionRegs_ok ?_ ..
    refine State.bump_ok ?_ ..
    refine State.addSession_ok ?_ ..
    exact h
  extract_lets +onlyGivenNames -merge -useContext -underBinder x4
  have hx4 : OK W q I x4 := by
    unfold x4
    refine State.audit_ok ?_ ..
    exact hx3
  refine State.send_ok ?_ ..
  exact hx4

theorem State.useNonce_ok (h : OK W q I s) (a1) : OK W q I (State.useNonce s a1) := by
  unfold State.useNonce
  refine OK.upd' ?_ rfl rfl rfl rfl
  exact h

theorem State.enrolKey_ok (h : OK W q I s) (a1 a2) : OK W q I (State.enrolKey s a1 a2) := by
  unfold State.enrolKey
  refine State.audit_ok ?_ ..
  refine State.setKey_ok ?_ ..
  exact h

theorem State.openRun_ok (h : OK W q I s) (a1 a2) : OK W q I (State.openRun s a1 a2) := by
  unfold State.openRun
  refine OK.ite (fun _ => ?_) (fun _ => ?_)
  · refine State.early_ok ?_ ..
    exact h
  · extract_lets +onlyGivenNames -merge -useContext -underBinder x1
    extract_lets +onlyGivenNames -merge -useContext -underBinder x2
    have hx2 : OK W q I x2 := by
      unfold x2
      refine State.useNonce_ok ?_ ..
      exact h
    split
    · refine State.openFails_ok ?_ ..
      exact hx2
    · refine OK.ite (fun _ => ?_) (fun _ => ?_)
      · refine State.openFails_ok ?_ ..
        exact hx2
      · refine OK.ite (fun _ => ?_) (fun _ => ?_)
        · refine State.send_ok ?_ ..
          exact hx2
        · refine State.openSession_ok ?_ ..
          refine OK.ite (fun _ => ?_) (fun _ => ?_)
          · refine State.enrolKey_ok ?_ ..
            exact hx2
          · exact hx2

theorem execSessionOpen_ok (h : OK W q I s) (a0 a1) : OKo W q I (execSessionOpen a0 a1 s) := by
  unfold execSessionOpen
  refine OKo.next ?_
  refine OK.ite (fun _ => ?_) (fun _ => ?_)
  · refine State.request_ok (fun _ ht1 _ => ?_) ?_ ..
    · exact ht1
    · exact h
  · refine State.unsession_ok (fun _ ht2 => ?_) ?_ ..
    · refine State.openRun_ok ?_ ..
      exact ht2
    · exact h

theorem State.auditFw_ok (h : OK W q I s) (a1 a2) : OK W q I (State.auditFw s a1 a2) := by
  unfold State.auditFw
  refine State.audit_ok ?_ ..
  exact h

theorem State.setBank_ok (h : OK W q I s) (a1 a2) : OK W q I (State.setBank s a1 a2) := by
  unfold State.setBank
  extract_lets +onlyGivenNames -merge -useContext -underBinder x1
  extract_lets +onlyGivenNames -merge -useContext -underBinder x2
  have hx2 : OK W q I x2 := by
    unfold x2
    refine OK.upd' ?_ rfl rfl rfl rfl
    exact h
  extract_lets +onlyGivenNames -merge -useContext -underBinder x3
  refine State.put_ok ?_ ..
  refine State.put_ok ?_ ..
  exact hx2

theorem State.trialFails_ok (h : OK W q I s) (a1) : OK W q I (State.trialFails s a1) := by
  unfold State.trialFails
  extract_lets +onlyGivenNames -merge -useContext -underBinder x1
  extract_lets +onlyGivenNames -merge -useContext -underBinder x2
  have hx2 : OK W q I x2 := by
    unfold x2
    refine OK.upd' ?_ rfl rfl rfl rfl
    exact h
  extract_lets +onlyGivenNames -merge -useContext -underBinder x3
  have hx3 : OK W q I x3 := by
    unfold x3
    refine State.setFlag_ok ?_ ..
    refine State.put_ok ?_ ..
    refine State.put_ok ?_ ..
    exact hx2
  extract_lets +onlyGivenNames -merge -useContext -underBinder x4
  have hx4 : OK W q I x4 := by
    unfold x4
    refine State.record_ok ?_ ..
    refine State.setFlag_ok ?_ ..
    exact hx3
  refine State.auditFw_ok ?_ ..
  exact hx4

theorem execBoot_ok (h : OK W q I s) (a0) : OKo W q I (execBoot a0 s) := by
  unfold execBoot
  refine OKo.next ?_
  refine OK.ite (fun _ => ?_) (fun _ => ?_)
  · exact h
  · extract_lets +onlyGivenNames -merge -useContext -underBinder x1
    extract_lets +onlyGivenNames -merge -useContext -underBinder x2
    extract_lets +onlyGivenNames -merge -useContext -underBinder x3
    extract_lets +onlyGivenNames -merge -useContext -underBinder x4
    have hx4 : OK W q I x4 := by
      unfold x4
      refine State.audit_ok ?_ ..
      refine State.setBank_ok ?_ ..
      refine OK.upd' ?_ rfl rfl rfl rfl
      exact h
    refine OK.ite (fun _ => ?_) (fun _ => ?_)
    · refine State.setFlag_ok ?_ ..
      refine State.put_ok ?_ ..
      exact hx4
    · refine OK.ite (fun _ => ?_) (fun _ => ?_)
      · extract_lets +onlyGivenNames -merge -useContext -underBinder x5
        have hx5 : OK W q I x5 := by
          unfold x5
          refine State.setFlag_ok ?_ ..
          refine State.put_ok ?_ ..
          exact hx4
        refine OK.ite (fun _ => ?_) (fun _ => ?_)
        · refine State.trialFails_ok ?_ ..
          exact hx5
        · refine State.setFlag_ok ?_ ..
          exact hx5
      · refine State.setFlag_ok ?_ ..
        exact hx4

theorem State.storePkg_ok (h : OK W q I s) (a1 a2 a3) : OK W q I (State.storePkg s a1 a2 a3) := by
  unfold State.storePkg
  extract_lets +onlyGivenNames -merge -useContext -underBinder x1
  extract_lets +onlyGivenNames -merge -useContext -underBinder x2
  have hx2 : OK W q I x2 := by
    unfold x2
    refine State.put_ok ?_ ..
    refine State.setSlot_ok ?_ ..
    exact h
  refine State.mdlCounts_ok ?_ ..
  refine State.setFlag_ok ?_ ..
  exact hx2

theorem State.storeStandard_ok (h : OK W q I s) (a1) : OK W q I (State.storeStandard s a1) := by
  unfold State.storeStandard
  refine OK.foldl (fun _ _ ht1 => ?_) ?_
  · extract_lets +onlyGivenNames -merge -useContext -underBinder x2
    split
    · exact ht1
    · refine OK.ite (fun _ => ?_) (fun _ => ?_)
      · exact ht1
      · extract_lets +onlyGivenNames -merge -useContext -underBinder x3
        have hx3 : OK W q I x3 := by
          unfold x3
          refine State.storePkg_ok ?_ ..
          exact ht1
        extract_lets +onlyGivenNames -merge -useContext -underBinder x4
        refine State.requestBind_ok ?_ ..
        exact hx3
  · exact h

theorem execFirmwareReady_ok (h : OK W q I s) (a0) : OKo W q I (execFirmwareReady a0 s) := by
  unfold execFirmwareReady
  refine OKo.next ?_
  refine OK.ite (fun _ => ?_) (fun _ => ?_)
  · exact h
  · extract_lets +onlyGivenNames -merge -useContext -underBinder x1
    extract_lets +onlyGivenNames -merge -useContext -underBinder x2
    extract_lets +onlyGivenNames -merge -useContext -underBinder x3
    have hx3 : OK W q I x3 := by
      unfold x3
      refine OK.upd' ?_ rfl rfl rfl rfl
      exact h
    refine OK.ite (fun _ => ?_) (fun _ => ?_)
    · refine OK.upd' (s := x3) ?_ rfl rfl rfl rfl
      exact hx3
    · refine OK.ite (fun _ => ?_) (fun _ => ?_)
      · exact hx3
      · refine State.storeStandard_ok ?_ ..
        exact hx3

theorem execFwTrialSuccess_ok (h : OK W q I s) : OKo W q I (execFwTrialSuccess s) := by
  unfold execFwTrialSuccess
  refine OKo.next ?_
  split
  · refine OK.ite (fun _ => ?_) (fun _ => ?_)
    · exact h
    · extract_lets +onlyGivenNames -merge -useContext -underBinder x1
      extract_lets +onlyGivenNames -merge -useContext -underBinder x2
      extract_lets +onlyGivenNames -merge -useContext -underBinder x3
      have hx3 : OK W q I x3 := by
        unfold x3
        refine OK.upd' ?_ rfl rfl rfl rfl
        exact h
      extract_lets +onlyGivenNames -merge -useContext -underBinder x4
      have hx4 : OK W q I x4 := by
        unfold x4
        refine State.setFlag_ok ?_ ..
        refine State.put_ok ?_ ..
        exact hx3
      refine State.auditFw_ok ?_ ..
      exact hx4
  · exact h

theorem execFwTrialFail_ok (h : OK W q I s) : OKo W q I (execFwTrialFail s) := by
  unfold execFwTrialFail
  refine OKo.next ?_
  refine OK.ite (fun _ => ?_) (fun _ => ?_)
  · exact h
  · extract_lets +onlyGivenNames -merge -useContext -underBinder x1
    have hx1 : OK W q I x1 := by
      unfold x1
      refine State.trialFails_ok ?_ ..
      exact h
    refine OK.ite (fun _ => ?_) (fun _ => ?_)
    · exact hx1
    · refine State.assertDomain_ok ?_ ..
      refine OK.upd' (s := x1) ?_ rfl rfl rfl rfl
      exact hx1

theorem State.trustTick_ok (h : OK W q I s) : OK W q I (State.trustTick s) := by
  unfold State.trustTick
  split
  · refine OK.ite (fun _ => ?_) (fun _ => ?_)
    · exact h
    · extract_lets +onlyGivenNames -merge -useContext -underBinder x1
      extract_lets +onlyGivenNames -merge -useContext -underBinder x2
      extract_lets +onlyGivenNames -merge -useContext -underBinder x3
      have hx3 : OK W q I x3 := by
        unfold x3
        refine OK.upd' ?_ rfl rfl rfl rfl
        exact h
      extract_lets +onlyGivenNames -merge -useContext -underBinder x4
      have hx4 : OK W q I x4 := by
        unfold x4
        refine State.setFlag_ok ?_ ..
        refine State.put_ok ?_ ..
        refine State.put_ok ?_ ..
        exact hx3
      refine State.assertDomain_ok ?_ ..
      refine State.auditFw_ok ?_ ..
      exact hx4
  · exact h

theorem execRollbackRaise_ok (h : OK W q I s) : OKo W q I (execRollbackRaise s) := by
  unfold execRollbackRaise
  refine OKo.next ?_
  refine OK.ite (fun _ => ?_) (fun _ => ?_)
  · exact h
  · extract_lets +onlyGivenNames -merge -useContext -underBinder x1
    extract_lets +onlyGivenNames -merge -useContext -underBinder x2
    extract_lets +onlyGivenNames -merge -useContext -underBinder x3
    extract_lets +onlyGivenNames -merge -useContext -underBinder x4
    have hx4 : OK W q I x4 := by
      unfold x4
      refine State.put_ok ?_ ..
      refine OK.upd' ?_ rfl rfl rfl rfl
      exact h
    refine State.auditFw_ok ?_ ..
    exact hx4

theorem State.fwStoreRun_ok (h : OK W q I s) (a1 a2) : OK W q I (State.fwStoreRun s a1 a2) := by
  unfold State.fwStoreRun
  extract_lets +onlyGivenNames -merge -useContext -underBinder x1
  extract_lets +onlyGivenNames -merge -useContext -underBinder x2
  extract_lets +onlyGivenNames -merge -useContext -underBinder x3
  extract_lets +onlyGivenNames -merge -useContext -underBinder x4
  extract_lets +onlyGivenNames -merge -useContext -underBinder x5
  extract_lets +onlyGivenNames -merge -useContext -underBinder x6
  have hx6 : OK W q I x6 := by
    unfold x6
    refine State.setBank_ok ?_ ..
    exact h
  extract_lets +onlyGivenNames -merge -useContext -underBinder x7
  have hx7 : OK W q I x7 := by
    unfold x7
    refine State.put_ok ?_ ..
    exact hx6
  refine OK.ite (fun _ => ?_) (fun _ => ?_)
  · extract_lets +onlyGivenNames -merge -useContext -underBinder x8
    extract_lets +onlyGivenNames -merge -useContext -underBinder x9
    have hx9 : OK W q I x9 := by
      unfold x9
      refine State.setBank_ok ?_ ..
      exact hx7
    refine State.okAsync_ok ?_ ..
    refine State.setFlag_ok ?_ ..
    refine OK.upd' (s := x9) ?_ rfl rfl rfl rfl
    exact hx9
  · refine State.okWith_ok ?_ ..
    exact hx7

theorem execFwStore_ok (h : OK W q I s) (a0) : OKo W q I (execFwStore a0 s) := by
  unfold execFwStore
  refine OKo.next ?_
  refine State.request_ok (fun _ ht1 _ => ?_) ?_ ..
  · refine State.fwStoreRun_ok ?_ ..
    exact ht1
  · exact h

theorem execFwImageChecked_ok (h : OK W q I s) (a0) : OKo W q I (execFwImageChecked a0 s) := by
  unfold execFwImageChecked
  refine OKo.next ?_
  refine OK.ite (fun _ => ?_) (fun _ => ?_)
  · exact h
  · extract_lets +onlyGivenNames -merge -useContext -underBinder x1
    extract_lets +onlyGivenNames -merge -useContext -underBinder x2
    extract_lets +onlyGivenNames -merge -useContext -underBinder x3
    extract_lets +onlyGivenNames -merge -useContext -underBinder x4
    extract_lets +onlyGivenNames -merge -useContext -underBinder x5
    extract_lets +onlyGivenNames -merge -useContext -underBinder x6
    have hx6 : OK W q I x6 := by
      unfold x6
      refine State.setBank_ok ?_ ..
      refine OK.upd' ?_ rfl rfl rfl rfl
      exact h
    extract_lets +onlyGivenNames -merge -useContext -underBinder x7
    have hx7 : OK W q I x7 := by
      unfold x7
      refine State.setFlag_ok ?_ ..
      refine State.put_ok ?_ ..
      refine State.put_ok ?_ ..
      exact hx6
    refine State.auditFw_ok ?_ ..
    exact hx7

theorem State.fwActivateRun_ok (h : OK W q I s) (a1 a2) : OK W q I (State.fwActivateRun s a1 a2) := by
  unfold State.fwActivateRun
  extract_lets +onlyGivenNames -merge -useContext -underBinder x1
  extract_lets +onlyGivenNames -merge -useContext -underBinder x2
  have hx2 : OK W q I x2 := by
    unfold x2
    refine State.put_ok ?_ ..
    exact h
  refine OK.ite (fun _ => ?_) (fun _ => ?_)
  · refine State.okWith_ok ?_ ..
    refine State.put_ok ?_ ..
    exact hx2
  · refine OK.ite (fun _ => ?_) (fun _ => ?_)
    · extract_lets +onlyGivenNames -merge -useContext -underBinder x3
      extract_lets +onlyGivenNames -merge -useContext -underBinder x4
      have hx4 : OK W q I x4 := by
        unfold x4
        refine State.setFlag_ok ?_ ..
        refine OK.upd' (s := x2) ?_ rfl rfl rfl rfl
        exact hx2
      refine State.okAsync_ok ?_ ..
      refine State.auditFw_ok ?_ ..
      refine State.put_ok ?_ ..
      exact hx4
    · extract_lets +onlyGivenNames -merge -useContext -underBinder x5
      refine State.answer_ok ?_ ..
      refine State.put_ok ?_ ..
      refine State.put_ok ?_ ..
      refine State.draw_ok ?_ ..
      exact hx2

theorem execFwActivate_ok (h : OK W q I s) (a0) : OKo W q I (execFwActivate a0 s) := by
  unfold execFwActivate
  refine OKo.next ?_
  refine State.request_ok (fun _ ht1 _ => ?_) ?_ ..
  · refine State.fwActivateRun_ok ?_ ..
    exact ht1
  · exact h

theorem State.pkgChecked_ok (h : OK W q I s) (a1 a2) : OK W q I (State.pkgChecked s a1 a2) := by
  unfold State.pkgChecked
  split
  · refine State.refuseMdl_ok ?_ ..
    refine State.setSlot_ok ?_ ..
    exact h
  · refine State.storePkg_ok ?_ ..
    exact h

theorem execPackageCheck_ok (h : OK W q I s) (a0 a1) : OKo W q I (execPackageCheck a0 a1 s) := by
  unfold execPackageCheck
  refine OKo.next ?_
  refine OK.ite (fun _ => ?_) (fun _ => ?_)
  · refine State.pkgChecked_ok ?_ ..
    exact h
  · exact h

theorem State.attestRun_ok (h : OK W q I s) (a1 a2) : OK W q I (State.attestRun s a1 a2) := by
  unfold State.attestRun
  refine OK.ite (fun _ => ?_) (fun _ => ?_)
  · refine OK.ite (fun _ => ?_) (fun _ => ?_)
    · refine State.okAsync_ok ?_ ..
      exact h
    · refine State.okWith_ok ?_ ..
      exact h
  · refine State.okAsync_ok ?_ ..
    refine State.setSession_ok ?_ ..
    exact h

theorem execAttest_ok (h : OK W q I s) (a0) : OKo W q I (execAttest a0 s) := by
  unfold execAttest
  refine OKo.next ?_
  refine State.request_ok (fun _ ht1 _ => ?_) ?_ ..
  · refine State.attestRun_ok ?_ ..
    exact ht1
  · exact h

theorem execAttestSignDone_ok (h : OK W q I s) (a0 a1) : OKo W q I (execAttestSignDone a0 a1 s) := by
  unfold execAttestSignDone
  refine OKo.next ?_
  extract_lets +onlyGivenNames -merge -useContext -underBinder x1
  refine State.draw_ok ?_ ..
  refine State.setSession_ok ?_ ..
  exact h

theorem execAuditFlush_ok (h : OK W q I s) : OKo W q I (execAuditFlush s) := by
  unfold execAuditFlush
  refine OKo.next ?_
  refine OK.ite (fun _ => ?_) (fun _ => ?_)
  · refine State.auditMove_ok ?_ ..
    exact h
  · exact h

theorem State.checkpoint_ok (h : OK W q I s) : OK W q I (State.checkpoint s) := by
  unfold State.checkpoint
  extract_lets +onlyGivenNames -merge -useContext -underBinder x1
  extract_lets +onlyGivenNames -merge -useContext -underBinder x2
  extract_lets +onlyGivenNames -merge -useContext -underBinder x3
  extract_lets +onlyGivenNames -merge -useContext -underBinder x4
  refine OK.ite (fun _ => ?_) (fun _ => ?_)
  · refine OK.upd' ?_ rfl rfl rfl rfl
    exact h
  · refine OK.upd' ?_ rfl rfl rfl rfl
    exact h

theorem execAuditCheckpoint_ok (h : OK W q I s) : OKo W q I (execAuditCheckpoint s) := by
  unfold execAuditCheckpoint
  refine OKo.next ?_
  extract_lets +onlyGivenNames -merge -useContext -underBinder x1
  refine OK.ite (fun _ => ?_) (fun _ => ?_)
  · refine State.checkpoint_ok ?_ ..
    exact h
  · exact h

theorem execAuthFailureEntry_ok (h : OK W q I s) : OKo W q I (execAuthFailureEntry s) := by
  unfold execAuthFailureEntry
  refine OKo.next ?_
  extract_lets +onlyGivenNames -merge -useContext -underBinder x1
  refine OK.ite (fun _ => ?_) (fun _ => ?_)
  · exact h
  · refine State.audit_ok ?_ ..
    refine OK.upd' ?_ rfl rfl rfl rfl
    exact h

theorem State.auditReadRun_ok (h : OK W q I s) (a1 a2) : OK W q I (State.auditReadRun s a1 a2) := by
  unfold State.auditReadRun
  extract_lets +onlyGivenNames -merge -useContext -underBinder x1
  extract_lets +onlyGivenNames -merge -useContext -underBinder x2
  refine State.okWith_ok ?_ ..
  exact h

theorem execAuditRead_ok (h : OK W q I s) (a0) : OKo W q I (execAuditRead a0 s) := by
  unfold execAuditRead
  refine OKo.next ?_
  refine State.request_ok (fun _ ht1 _ => ?_) ?_ ..
  · refine State.auditReadRun_ok ?_ ..
    exact ht1
  · exact h

theorem State.busRead_ok (h : OK W q I s) (a1) : OK W q I (State.busRead s a1).1 := by
  unfold State.busRead
  extract_lets +onlyGivenNames -merge -useContext -underBinder x1
  split
  · show OK W q I _
    exact h
  · refine OK.diteP (fun _ => ?_) (fun _ => ?_)
    · extract_lets +onlyGivenNames -merge -useContext -underBinder x2
      refine OK.iteP (fun _ => ?_) (fun _ => ?_)
      · show OK W q I _
        refine State.recordAt_ok ?_ ..
        refine OK.upd' ?_ rfl rfl rfl rfl
        exact h
      · show OK W q I _
        refine State.latchShadow_ok ?_ ..
        exact h
    · show OK W q I _
      exact h

theorem State.readBytes_ok (h : OK W q I s) (a1) : OK W q I (State.readBytes s a1).1 := by
  have k : ∀ (l : List Nat) (r : State × List Nat), OK W q I r.1 →
      OK W q I (l.foldl (fun (r : State × List Nat) a => let x := r.1.busRead a; (x.1, r.2 ++ beBytes 4 x.2.toNat)) r).1 := by
    intro l
    induction l with
    | nil => intro r hr; exact hr
    | cons a l ih => intro r hr; exact ih _ (State.busRead_ok hr a)
  exact k _ _ (State.semRegs_ok h)

theorem State.okRegs_ok (h : OK W q I s) (a1 a2 a3 a4) : OK W q I (State.okRegs s a1 a2 a3 a4) := by
  unfold State.okRegs
  extract_lets +onlyGivenNames -merge -useContext -underBinder x1
  have hx1 : OK W q I x1.1 := by
    unfold x1
    refine State.readBytes_ok ?_ ..
    exact h
  refine State.okWith_ok ?_ ..
  exact hx1

theorem State.regReadRun_ok (h : OK W q I s) (a1 a2) : OK W q I (State.regReadRun s a1 a2) := by
  unfold State.regReadRun
  refine State.okRegs_ok ?_ ..
  exact h

theorem execRegRead_ok (h : OK W q I s) (a0) : OKo W q I (execRegRead a0 s) := by
  unfold execRegRead
  refine OKo.next ?_
  refine State.request_ok (fun _ ht1 _ => ?_) ?_ ..
  · refine State.regReadRun_ok ?_ ..
    exact ht1
  · exact h

theorem State.regWrites_ok (h : OK W q I s) (a1 a2 a3 a4) : OK W q I (State.regWrites s a1 a2 a3 a4) := by
  unfold State.regWrites
  refine State.request_ok (fun _ ht1 _ => ?_) ?_ ..
  · refine State.queueWrites_ok ?_ ..
    exact ht1
  · exact h

theorem execRegWrite_ok (h : OK W q I s) (a0) : OKo W q I (execRegWrite a0 s) := by
  unfold execRegWrite
  refine OKo.next ?_
  refine State.regWrites_ok ?_ ..
  exact h

theorem execRegWriteMasked_ok (h : OK W q I s) (a0) : OKo W q I (execRegWriteMasked a0 s) := by
  unfold execRegWriteMasked
  refine OKo.next ?_
  refine State.regWrites_ok ?_ ..
  exact h

theorem State.combReadRun_ok (h : OK W q I s) (a1 a2) : OK W q I (State.combReadRun s a1 a2) := by
  unfold State.combReadRun
  refine State.okRegs_ok ?_ ..
  exact h

theorem execCombRead_ok (h : OK W q I s) (a0) : OKo W q I (execCombRead a0 s) := by
  unfold execCombRead
  refine OKo.next ?_
  refine State.request_ok (fun _ ht1 _ => ?_) ?_ ..
  · refine State.combReadRun_ok ?_ ..
    exact ht1
  · exact h

theorem State.rebindRun_ok (h : OK W q I s) (a1 a2) : OK W q I (State.rebindRun s a1 a2) := by
  unfold State.rebindRun
  extract_lets +onlyGivenNames -merge -useContext -underBinder x1
  refine State.queueWrites_ok ?_ ..
  exact h

theorem execRebind_ok (h : OK W q I s) (a0) : OKo W q I (execRebind a0 s) := by
  unfold execRebind
  extract_lets +onlyGivenNames -merge -useContext -underBinder x1
  refine OKo.next ?_
  refine State.request_ok (fun _ ht2 _ => ?_) ?_ ..
  · refine State.rebindRun_ok ?_ ..
    exact ht2
  · exact h

theorem State.rebindAbortRun_ok (h : OK W q I s) (a1 a2) : OK W q I (State.rebindAbortRun s a1 a2) := by
  unfold State.rebindAbortRun
  refine State.queueWrites_ok ?_ ..
  exact h

theorem execRebindAbort_ok (h : OK W q I s) (a0) : OKo W q I (execRebindAbort a0 s) := by
  unfold execRebindAbort
  refine OKo.next ?_
  refine State.request_ok (fun _ ht1 _ => ?_) ?_ ..
  · refine State.rebindAbortRun_ok ?_ ..
    exact ht1
  · exact h

theorem State.fenceClearRun_ok (h : OK W q I s) (a1 a2) : OK W q I (State.fenceClearRun s a1 a2) := by
  unfold State.fenceClearRun
  refine State.queueWrites_ok ?_ ..
  exact h

theorem execFenceClear_ok (h : OK W q I s) (a0) : OKo W q I (execFenceClear a0 s) := by
  unfold execFenceClear
  refine OKo.next ?_
  refine State.request_ok (fun _ ht1 _ => ?_) ?_ ..
  · refine State.fenceClearRun_ok ?_ ..
    exact ht1
  · exact h

theorem State.clearFence_ok (h : OK W q I s) (a1 a2) : OK W q I (State.clearFence s a1 a2) := by
  unfold State.clearFence
  split
  · refine OK.dite (fun _ => ?_) (fun _ => ?_)
    · refine State.clearOs_ok ?_ ..
      exact h
    · exact h
  · refine OK.dite (fun _ => ?_) (fun _ => ?_)
    · refine State.clearSs_ok ?_ ..
      exact h
    · exact h
  · refine OK.dite (fun _ => ?_) (fun _ => ?_)
    · refine State.clearFe_ok ?_ ..
      exact h
    · exact h
  · refine OK.dite (fun _ => ?_) (fun _ => ?_)
    · refine State.put_ok ?_ ..
      refine State.unfenceZone_ok ?_ ..
      exact h
    · exact h
  · refine State.clearLane_ok ?_ ..
    exact h
  · exact h

theorem State.stringDutyRun_ok (h : OK W q I s) (a1 a2) : OK W q I (State.stringDutyRun s a1 a2) := by
  unfold State.stringDutyRun
  refine State.queueWrites_ok ?_ ..
  exact h

theorem execStringDuty_ok (h : OK W q I s) (a0) : OKo W q I (execStringDuty a0 s) := by
  unfold execStringDuty
  refine OKo.next ?_
  refine State.request_ok (fun _ ht1 _ => ?_) ?_ ..
  · refine State.stringDutyRun_ok ?_ ..
    exact ht1
  · exact h

theorem State.groupLimitRun_ok (h : OK W q I s) (a1 a2) : OK W q I (State.groupLimitRun s a1 a2) := by
  unfold State.groupLimitRun
  refine State.queueWrites_ok ?_ ..
  exact h

theorem execGroupLimit_ok (h : OK W q I s) (a0) : OKo W q I (execGroupLimit a0 s) := by
  unfold execGroupLimit
  refine OKo.next ?_
  refine State.request_ok (fun _ ht1 _ => ?_) ?_ ..
  · refine State.groupLimitRun_ok ?_ ..
    exact ht1
  · exact h

theorem State.csetLoadRun_ok (h : OK W q I s) (a1 a2) : OK W q I (State.csetLoadRun s a1 a2) := by
  unfold State.csetLoadRun
  extract_lets +onlyGivenNames -merge -useContext -underBinder x1
  extract_lets +onlyGivenNames -merge -useContext -underBinder x2
  extract_lets +onlyGivenNames -merge -useContext -underBinder x3
  extract_lets +onlyGivenNames -merge -useContext -underBinder x4
  refine State.queueWrites_ok ?_ ..
  exact h

theorem execCsetLoad_ok (h : OK W q I s) (a0) : OKo W q I (execCsetLoad a0 s) := by
  unfold execCsetLoad
  extract_lets +onlyGivenNames -merge -useContext -underBinder x1
  extract_lets +onlyGivenNames -merge -useContext -underBinder x2
  refine OKo.next ?_
  refine State.request_ok (fun _ ht3 _ => ?_) ?_ ..
  · refine State.csetLoadRun_ok ?_ ..
    exact ht3
  · exact h

theorem State.loopModeRun_ok (h : OK W q I s) (a1 a2) : OK W q I (State.loopModeRun s a1 a2) := by
  unfold State.loopModeRun
  extract_lets +onlyGivenNames -merge -useContext -underBinder x1
  refine State.queueWrites_ok ?_ ..
  exact h

theorem execLoopMode_ok (h : OK W q I s) (a0) : OKo W q I (execLoopMode a0 s) := by
  unfold execLoopMode
  extract_lets +onlyGivenNames -merge -useContext -underBinder x1
  refine OKo.next ?_
  refine State.request_ok (fun _ ht2 _ => ?_) ?_ ..
  · refine State.loopModeRun_ok ?_ ..
    exact ht2
  · exact h

theorem State.profileReadRun_ok (h : OK W q I s) (a1 a2) : OK W q I (State.profileReadRun s a1 a2) := by
  unfold State.profileReadRun
  refine State.okRegs_ok ?_ ..
  exact h

theorem execProfileRead_ok (h : OK W q I s) (a0) : OKo W q I (execProfileRead a0 s) := by
  unfold execProfileRead
  refine OKo.next ?_
  refine State.request_ok (fun _ ht1 _ => ?_) ?_ ..
  · refine State.profileReadRun_ok ?_ ..
    exact ht1
  · exact h

theorem State.cellReadRun_ok (h : OK W q I s) (a1 a2) : OK W q I (State.cellReadRun s a1 a2) := by
  unfold State.cellReadRun
  refine State.okRegs_ok ?_ ..
  exact h

theorem execCellRead_ok (h : OK W q I s) (a0) : OKo W q I (execCellRead a0 s) := by
  unfold execCellRead
  refine OKo.next ?_
  refine State.request_ok (fun _ ht1 _ => ?_) ?_ ..
  · refine State.cellReadRun_ok ?_ ..
    exact ht1
  · exact h

theorem State.storageClearRun_ok (h : OK W q I s) (a1 a2) : OK W q I (State.storageClearRun s a1 a2) := by
  unfold State.storageClearRun
  refine State.queueWrites_ok ?_ ..
  exact h

theorem execStorageClear_ok (h : OK W q I s) (a0) : OKo W q I (execStorageClear a0 s) := by
  unfold execStorageClear
  extract_lets +onlyGivenNames -merge -useContext -underBinder x1
  refine OKo.next ?_
  refine State.request_ok (fun _ ht2 _ => ?_) ?_ ..
  · refine State.storageClearRun_ok ?_ ..
    exact ht2
  · exact h

theorem State.clearStr_ok (h : OK W q I s) (a1) : OK W q I (State.clearStr s a1) := by
  unfold State.clearStr
  extract_lets +onlyGivenNames -merge -useContext -underBinder x1
  extract_lets +onlyGivenNames -merge -useContext -underBinder x2
  have hx2 : OK W q I x2 := by
    unfold x2
    refine OK.upd' ?_ rfl rfl rfl rfl
    exact h
  refine State.clearSs_ok ?_ ..
  refine State.clearSs_ok ?_ ..
  exact hx2

theorem State.clearStorage_ok (h : OK W q I s) (a1 a2 a3) : OK W q I (State.clearStorage s a1 a2 a3) := by
  unfold State.clearStorage
  refine OK.dite (fun _ => ?_) (fun _ => ?_)
  · split
    · refine OK.dite (fun _ => ?_) (fun _ => ?_)
      · refine State.clearNode_ok ?_ ..
        exact h
      · exact h
    · refine State.clearStr_ok ?_ ..
      exact h
    · refine State.clearCellStep_ok ?_ ..
      exact h
    · exact h
  · exact h

theorem State.capacityLoadRun_ok (h : OK W q I s) (a1 a2) : OK W q I (State.capacityLoadRun s a1 a2) := by
  unfold State.capacityLoadRun
  refine State.queueWrites_ok ?_ ..
  exact h

theorem execCapacityLoad_ok (h : OK W q I s) (a0) : OKo W q I (execCapacityLoad a0 s) := by
  unfold execCapacityLoad
  refine OKo.next ?_
  refine State.request_ok (fun _ ht1 _ => ?_) ?_ ..
  · refine State.capacityLoadRun_ok ?_ ..
    exact ht1
  · exact h

theorem State.loadCapacity_ok (h : OK W q I s) (a1 a2) : OK W q I (State.loadCapacity s a1 a2) := by
  unfold State.loadCapacity
  refine State.draw_ok ?_ ..
  refine State.learn_ok ?_ ..
  exact h

theorem State.basketStoreRun_ok (h : OK W q I s) (a1 a2) : OK W q I (State.basketStoreRun s a1 a2) := by
  unfold State.basketStoreRun
  refine OK.dite (fun _ => ?_) (fun _ => ?_)
  · extract_lets +onlyGivenNames -merge -useContext -underBinder x1
    extract_lets +onlyGivenNames -merge -useContext -underBinder x2
    refine OK.ite (fun _ => ?_) (fun _ => ?_)
    · refine State.answer_ok ?_ ..
      refine State.refuseMdl_ok ?_ ..
      exact h
    · extract_lets +onlyGivenNames -merge -useContext -underBinder x3
      extract_lets +onlyGivenNames -merge -useContext -underBinder x4
      extract_lets +onlyGivenNames -merge -useContext -underBinder x5
      have hx5 : OK W q I x5 := by
        unfold x5
        refine State.setSlot_ok ?_ ..
        exact h
      refine OK.ite (fun _ => ?_) (fun _ => ?_)
      · refine State.okAsync_ok ?_ ..
        exact hx5
      · refine State.okWith_ok ?_ ..
        exact hx5
  · exact h

theorem execBasketStore_ok (h : OK W q I s) (a0) : OKo W q I (execBasketStore a0 s) := by
  unfold execBasketStore
  refine OKo.next ?_
  refine State.request_ok (fun _ ht1 _ => ?_) ?_ ..
  · refine State.basketStoreRun_ok ?_ ..
    exact ht1
  · exact h

theorem State.admitCmd_ok (h : OK W q I s) (a1 a2 a3 a4 a5) : OK W q I (State.admitCmd s a1 a2 a3 a4 a5) := by
  unfold State.admitCmd
  refine OK.dite (fun _ => ?_) (fun _ => ?_)
  · extract_lets +onlyGivenNames -merge -useContext -underBinder x1
    extract_lets +onlyGivenNames -merge -useContext -underBinder x2
    extract_lets +onlyGivenNames -merge -useContext -underBinder x3
    have hx3 : OK W q I x3 := by
      unfold x3
      refine State.requestBind_ok ?_ ..
      exact h
    refine OK.ite (fun _ => ?_) (fun _ => ?_)
    · refine State.answer_ok ?_ ..
      exact hx3
    · refine State.later_ok ?_ ..
      exact hx3
  · exact h

theorem State.basketAdmitRun_ok (h : OK W q I s) (a1 a2) : OK W q I (State.basketAdmitRun s a1 a2) := by
  unfold State.basketAdmitRun
  refine State.admitCmd_ok ?_ ..
  exact h

theorem execBasketAdmit_ok (h : OK W q I s) (a0) : OKo W q I (execBasketAdmit a0 s) := by
  unfold execBasketAdmit
  refine OKo.next ?_
  refine State.request_ok (fun _ ht1 _ => ?_) ?_ ..
  · refine State.basketAdmitRun_ok ?_ ..
    exact ht1
  · exact h

theorem State.basketVariantRun_ok (h : OK W q I s) (a1 a2) : OK W q I (State.basketVariantRun s a1 a2) := by
  unfold State.basketVariantRun
  refine State.admitCmd_ok ?_ ..
  exact h

theorem execBasketVariant_ok (h : OK W q I s) (a0) : OKo W q I (execBasketVariant a0 s) := by
  unfold execBasketVariant
  refine OKo.next ?_
  refine State.request_ok (fun _ ht1 _ => ?_) ?_ ..
  · refine State.basketVariantRun_ok ?_ ..
    exact ht1
  · exact h

theorem State.basketEvictRun_ok (h : OK W q I s) (a1 a2) : OK W q I (State.basketEvictRun s a1 a2) := by
  unfold State.basketEvictRun
  refine OK.dite (fun _ => ?_) (fun _ => ?_)
  · extract_lets +onlyGivenNames -merge -useContext -underBinder x1
    extract_lets +onlyGivenNames -merge -useContext -underBinder x2
    extract_lets +onlyGivenNames -merge -useContext -underBinder x3
    have hx3 : OK W q I x3 := by
      unfold x3
      refine State.requestEvict_ok ?_ ..
      exact h
    refine OK.ite (fun _ => ?_) (fun _ => ?_)
    · refine State.answer_ok ?_ ..
      exact hx3
    · refine State.later_ok ?_ ..
      exact hx3
  · exact h

theorem execBasketEvict_ok (h : OK W q I s) (a0) : OKo W q I (execBasketEvict a0 s) := by
  unfold execBasketEvict
  refine OKo.next ?_
  refine State.request_ok (fun _ ht1 _ => ?_) ?_ ..
  · refine State.basketEvictRun_ok ?_ ..
    exact ht1
  · exact h

theorem State.quarantineClearRun_ok (h : OK W q I s) (a1 a2) : OK W q I (State.quarantineClearRun s a1 a2) := by
  unfold State.quarantineClearRun
  refine State.queueWrites_ok ?_ ..
  exact h

theorem execQuarantineClear_ok (h : OK W q I s) (a0) : OKo W q I (execQuarantineClear a0 s) := by
  unfold execQuarantineClear
  refine OKo.next ?_
  refine State.request_ok (fun _ ht1 _ => ?_) ?_ ..
  · refine State.quarantineClearRun_ok ?_ ..
    exact ht1
  · exact h

theorem State.unquarantine_ok (h : OK W q I s) (a1) : OK W q I (State.unquarantine s a1) := by
  unfold State.unquarantine
  refine OK.ite (fun _ => ?_) (fun _ => ?_)
  · refine State.leaveSlot_ok ?_ ..
    exact h
  · exact h

theorem State.basketStatusRun_ok (h : OK W q I s) (a1 a2) : OK W q I (State.basketStatusRun s a1 a2) := by
  unfold State.basketStatusRun
  refine State.okRegs_ok ?_ ..
  exact h

theorem execBasketStatus_ok (h : OK W q I s) (a0) : OKo W q I (execBasketStatus a0 s) := by
  unfold execBasketStatus
  refine OKo.next ?_
  refine State.request_ok (fun _ ht1 _ => ?_) ?_ ..
  · refine State.basketStatusRun_ok ?_ ..
    exact ht1
  · exact h

theorem State.dramRead_ok (h : OK W q I s) : OK W q I (State.dramRead s) := by
  unfold State.dramRead
  extract_lets +onlyGivenNames -merge -useContext -underBinder x1
  extract_lets +onlyGivenNames -merge -useContext -underBinder x2
  extract_lets +onlyGivenNames -merge -useContext -underBinder x3
  have hx3 : OK W q I x3 := by
    unfold x3
    refine OK.upd' ?_ rfl rfl rfl rfl
    exact h
  refine OK.foldl (fun _ _ ht4 => ?_) ?_
  · refine OK.ite (fun _ => ?_) (fun _ => ?_)
    · refine State.recordAt_ok ?_ ..
      exact ht4
    · refine State.recordAt_ok ?_ ..
      exact ht4
  · exact hx3

theorem State.resultReadRun_ok (h : OK W q I s) (a1 a2) : OK W q I (State.resultReadRun s a1 a2) := by
  unfold State.resultReadRun
  extract_lets +onlyGivenNames -merge -useContext -underBinder x1
  refine State.okWith_ok ?_ ..
  refine State.dramRead_ok ?_ ..
  exact h

theorem execResultRead_ok (h : OK W q I s) (a0) : OKo W q I (execResultRead a0 s) := by
  unfold execResultRead
  refine OKo.next ?_
  refine State.request_ok (fun _ ht1 _ => ?_) ?_ ..
  · refine State.resultReadRun_ok ?_ ..
    exact ht1
  · exact h

theorem State.arrayTargetRun_ok (h : OK W q I s) (a1 a2) : OK W q I (State.arrayTargetRun s a1 a2) := by
  unfold State.arrayTargetRun
  refine State.queueWrites_ok ?_ ..
  exact h

theorem execArrayTarget_ok (h : OK W q I s) (a0) : OKo W q I (execArrayTarget a0 s) := by
  unfold execArrayTarget
  refine OKo.next ?_
  refine State.request_ok (fun _ ht1 _ => ?_) ?_ ..
  · refine State.arrayTargetRun_ok ?_ ..
    exact ht1
  · exact h

theorem State.hamperReadRun_ok (h : OK W q I s) (a1 a2) : OK W q I (State.hamperReadRun s a1 a2) := by
  unfold State.hamperReadRun
  extract_lets +onlyGivenNames -merge -useContext -underBinder x1
  extract_lets +onlyGivenNames -merge -useContext -underBinder x2
  have hx2 : OK W q I x2 := by
    unfold x2
    refine State.dramRead_ok ?_ ..
    exact h
  refine OK.ite (fun _ => ?_) (fun _ => ?_)
  · refine State.okAsync_ok ?_ ..
    exact hx2
  · refine State.okWith_ok ?_ ..
    exact hx2

theorem execHamperRead_ok (h : OK W q I s) (a0) : OKo W q I (execHamperRead a0 s) := by
  unfold execHamperRead
  refine OKo.next ?_
  refine State.request_ok (fun _ ht1 _ => ?_) ?_ ..
  · refine State.hamperReadRun_ok ?_ ..
    exact ht1
  · exact h

theorem State.faultReadRun_ok (h : OK W q I s) (a1 a2) : OK W q I (State.faultReadRun s a1 a2) := by
  unfold State.faultReadRun
  refine State.okRegs_ok ?_ ..
  exact h

theorem execFaultRead_ok (h : OK W q I s) (a0) : OKo W q I (execFaultRead a0 s) := by
  unfold execFaultRead
  refine OKo.next ?_
  refine State.request_ok (fun _ ht1 _ => ?_) ?_ ..
  · refine State.faultReadRun_ok ?_ ..
    exact ht1
  · exact h

theorem State.faultAckRun_ok (h : OK W q I s) (a1 a2) : OK W q I (State.faultAckRun s a1 a2) := by
  unfold State.faultAckRun
  refine State.queueWrites_ok ?_ ..
  exact h

theorem execFaultAck_ok (h : OK W q I s) (a0) : OKo W q I (execFaultAck a0 s) := by
  unfold execFaultAck
  refine OKo.next ?_
  refine State.request_ok (fun _ ht1 _ => ?_) ?_ ..
  · refine State.faultAckRun_ok ?_ ..
    exact ht1
  · exact h

theorem State.logReadRun_ok (h : OK W q I s) (a1 a2) : OK W q I (State.logReadRun s a1 a2) := by
  unfold State.logReadRun
  refine State.okWith_ok ?_ ..
  exact h

theorem execLogRead_ok (h : OK W q I s) (a0) : OKo W q I (execLogRead a0 s) := by
  unfold execLogRead
  refine OKo.next ?_
  refine State.request_ok (fun _ ht1 _ => ?_) ?_ ..
  · refine State.logReadRun_ok ?_ ..
    exact ht1
  · exact h

theorem State.dumpReadRun_ok (h : OK W q I s) (a1 a2) : OK W q I (State.dumpReadRun s a1 a2) := by
  unfold State.dumpReadRun
  extract_lets +onlyGivenNames -merge -useContext -underBinder x1
  have hx1 : OK W q I x1 := by
    unfold x1
    refine State.dramRead_ok ?_ ..
    exact h
  refine OK.ite (fun _ => ?_) (fun _ => ?_)
  · refine State.okAsync_ok ?_ ..
    exact hx1
  · split
    · refine State.okWith_ok ?_ ..
      exact hx1
    · refine State.okWith_ok ?_ ..
      exact hx1

theorem execDumpRead_ok (h : OK W q I s) (a0) : OKo W q I (execDumpRead a0 s) := by
  unfold execDumpRead
  refine OKo.next ?_
  refine State.request_ok (fun _ ht1 _ => ?_) ?_ ..
  · refine State.dumpReadRun_ok ?_ ..
    exact ht1
  · exact h

theorem State.healthReadRun_ok (h : OK W q I s) (a1 a2) : OK W q I (State.healthReadRun s a1 a2) := by
  unfold State.healthReadRun
  refine State.okRegs_ok ?_ ..
  exact h

theorem execHealthRead_ok (h : OK W q I s) (a0) : OKo W q I (execHealthRead a0 s) := by
  unfold execHealthRead
  refine OKo.next ?_
  refine State.request_ok (fun _ ht1 _ => ?_) ?_ ..
  · refine State.healthReadRun_ok ?_ ..
    exact ht1
  · exact h

theorem State.claimHistoryRun_ok (h : OK W q I s) (a1 a2) : OK W q I (State.claimHistoryRun s a1 a2) := by
  unfold State.claimHistoryRun
  refine State.okWith_ok ?_ ..
  exact h

theorem execClaimHistory_ok (h : OK W q I s) (a0) : OKo W q I (execClaimHistory a0 s) := by
  unfold execClaimHistory
  refine OKo.next ?_
  refine State.request_ok (fun _ ht1 _ => ?_) ?_ ..
  · refine State.claimHistoryRun_ok ?_ ..
    exact ht1
  · exact h

theorem State.bertWindowRun_ok (h : OK W q I s) (a1 a2) : OK W q I (State.bertWindowRun s a1 a2) := by
  unfold State.bertWindowRun
  refine OK.ite (fun _ => ?_) (fun _ => ?_)
  · refine State.answer_ok ?_ ..
    exact h
  · extract_lets +onlyGivenNames -merge -useContext -underBinder x1
    extract_lets +onlyGivenNames -merge -useContext -underBinder x2
    have hx2 : OK W q I x2 := by
      unfold x2
      refine State.bertGrant_ok ?_ ..
      exact h
    extract_lets +onlyGivenNames -merge -useContext -underBinder x3
    refine State.okWith_ok ?_ ..
    exact hx2

theorem execBertWindow_ok (h : OK W q I s) (a0) : OKo W q I (execBertWindow a0 s) := by
  unfold execBertWindow
  refine OKo.next ?_
  refine State.request_ok (fun _ ht1 _ => ?_) ?_ ..
  · refine State.bertWindowRun_ok ?_ ..
    exact ht1
  · exact h

theorem State.dropInject_ok (h : OK W q I s) (a1) : OK W q I (State.dropInject s a1) := by
  unfold State.dropInject
  refine OK.upd' ?_ rfl rfl rfl rfl
  exact h

theorem State.applyInject_ok (h : OK W q I s) (a1) : OK W q I (State.applyInject s a1) := by
  unfold State.applyInject
  split
  · exact h
  · extract_lets +onlyGivenNames -merge -useContext -underBinder x1
    have hx1 : OK W q I x1 := by
      unfold x1
      refine State.dropInject_ok ?_ ..
      exact h
    extract_lets +onlyGivenNames -merge -useContext -underBinder x2
    extract_lets +onlyGivenNames -merge -useContext -underBinder x3
    extract_lets +onlyGivenNames -merge -useContext -underBinder x4
    try clear_value x4
    split
    · refine OK.dite (fun _ => ?_) (fun _ => ?_)
      · extract_lets +onlyGivenNames -merge -useContext -underBinder x5
        have hx5 : OK W q I x5 := by
          unfold x5
          refine State.recordAt_ok ?_ ..
          exact hx1
        refine OK.ite (fun _ => ?_) (fun _ => ?_)
        · refine State.fenceUnit_ok ?_ ..
          exact hx5
        · exact hx5
      · exact hx1
    · refine OK.upd' (s := x1) ?_ rfl rfl rfl rfl
      exact hx1
    · refine OK.dite (fun _ => ?_) (fun _ => ?_)
      · refine OK.upd' (s := x1) ?_ rfl rfl rfl rfl
        exact hx1
      · exact hx1
    · refine OK.dite (fun _ => ?_) (fun _ => ?_)
      · refine OK.upd' (s := x1) ?_ rfl rfl rfl rfl
        exact hx1
      · exact hx1
    · split
      · refine OK.upd' (s := x1) ?_ rfl rfl rfl rfl
        exact hx1
      · refine OK.upd' (s := x1) ?_ rfl rfl rfl rfl
        exact hx1
      · refine OK.upd' (s := x1) ?_ rfl rfl rfl rfl
        exact hx1
    · refine OK.dite (fun _ => ?_) (fun _ => ?_)
      · refine OK.upd' (s := x1) ?_ rfl rfl rfl rfl
        exact hx1
      · exact hx1
    · refine OK.upd' (s := x1) ?_ rfl rfl rfl rfl
      exact hx1
    · refine OK.dite (fun _ => ?_) (fun _ => ?_)
      · refine State.uvTrip_ok ?_ ..
        exact hx1
      · refine OK.dite (fun _ => ?_) (fun _ => ?_)
        · refine State.ovTrip_ok ?_ ..
          exact hx1
        · refine OK.dite (fun _ => ?_) (fun _ => ?_)
          · refine State.ocTrip_ok ?_ ..
            exact hx1
          · exact hx1
    · exact hx1

theorem State.waitInject_ok (h : OK W q I s) (a1) : OK W q I (State.waitInject s a1) := by
  unfold State.waitInject
  refine OK.upd' ?_ rfl rfl rfl rfl
  exact h

theorem State.injectRun_ok (h : OK W q I s) (a1 a2) : OK W q I (State.injectRun s a1 a2) := by
  unfold State.injectRun
  refine OK.ite (fun _ => ?_) (fun _ => ?_)
  · refine State.answer_ok ?_ ..
    exact h
  · refine State.queueWrites_ok ?_ ..
    refine State.waitInject_ok ?_ ..
    exact h

theorem State.testAccess_ok (h : OK W q I s) (a1 a2) : OK W q I (State.testAccess s a1 a2) := by
  unfold State.testAccess
  refine State.request_ok (fun _ ht1 _ => ?_) ?_ ..
  · refine State.injectRun_ok ?_ ..
    exact ht1
  · exact h

theorem execInjectRecord_ok (h : OK W q I s) (a0) : OKo W q I (execInjectRecord a0 s) := by
  unfold execInjectRecord
  refine OKo.next ?_
  refine State.testAccess_ok ?_ ..
  exact h

theorem execInjectWriteCheck_ok (h : OK W q I s) (a0) : OKo W q I (execInjectWriteCheck a0 s) := by
  unfold execInjectWriteCheck
  refine OKo.next ?_
  refine State.testAccess_ok ?_ ..
  exact h

theorem execInjectHang_ok (h : OK W q I s) (a0) : OKo W q I (execInjectHang a0 s) := by
  unfold execInjectHang
  refine OKo.next ?_
  refine State.testAccess_ok ?_ ..
  exact h

theorem execInjectTimeout_ok (h : OK W q I s) (a0) : OKo W q I (execInjectTimeout a0 s) := by
  unfold execInjectTimeout
  refine OKo.next ?_
  refine State.testAccess_ok ?_ ..
  exact h

theorem execInjectEcc_ok (h : OK W q I s) (a0) : OKo W q I (execInjectEcc a0 s) := by
  unfold execInjectEcc
  refine OKo.next ?_
  refine State.testAccess_ok ?_ ..
  exact h

theorem execInjectClock_ok (h : OK W q I s) (a0) : OKo W q I (execInjectClock a0 s) := by
  unfold execInjectClock
  refine OKo.next ?_
  refine State.testAccess_ok ?_ ..
  exact h

theorem execInjectSupply_ok (h : OK W q I s) (a0) : OKo W q I (execInjectSupply a0 s) := by
  unfold execInjectSupply
  refine OKo.next ?_
  refine State.testAccess_ok ?_ ..
  exact h

theorem execInjectComparator_ok (h : OK W q I s) (a0) : OKo W q I (execInjectComparator a0 s) := by
  unfold execInjectComparator
  refine OKo.next ?_
  refine State.testAccess_ok ?_ ..
  exact h

theorem State.act_ok (h : OK W q I s) (a1) : OK W q I (State.act s a1) := by
  unfold State.act
  extract_lets +onlyGivenNames -merge -useContext -underBinder x1
  extract_lets +onlyGivenNames -merge -useContext -underBinder x2
  refine OK.ite (fun _ => ?_) (fun _ => ?_)
  · exact h
  · refine OK.ite (fun _ => ?_) (fun _ => ?_)
    · refine State.clearFence_ok ?_ ..
      exact h
    · refine OK.ite (fun _ => ?_) (fun _ => ?_)
      · refine State.clearStorage_ok ?_ ..
        exact h
      · refine OK.ite (fun _ => ?_) (fun _ => ?_)
        · refine OK.dite (fun _ => ?_) (fun _ => ?_)
          · refine OK.upd' ?_ rfl rfl rfl rfl
            exact h
          · exact h
        · refine OK.ite (fun _ => ?_) (fun _ => ?_)
          · refine OK.dite (fun _ => ?_) (fun _ => ?_)
            · refine State.loadCapacity_ok ?_ ..
              exact h
            · exact h
          · refine OK.ite (fun _ => ?_) (fun _ => ?_)
            · exact h
            · refine OK.ite (fun _ => ?_) (fun _ => ?_)
              · refine OK.dite (fun _ => ?_) (fun _ => ?_)
                · refine State.unquarantine_ok ?_ ..
                  exact h
                · exact h
              · refine OK.ite (fun _ => ?_) (fun _ => ?_)
                · refine State.applyKey_ok ?_ ..
                  exact h
                · refine State.applyInject_ok ?_ ..
                  exact h

end Sys2Proof.Machine
end

