-- ==== Sys2Proof/Laws/KeepFrames.lean ====
section
/-! SUPPORT. What the operations of Telemetry, Startup, Writes, Frames keep (Laws/Keep). -/

namespace Sys2Proof.Machine

variable {W : Prop} {q : List Instr} {I : Nat → Nat → Prop} {s : State}

theorem State.sampleChannels_ok (h : OK W q I s) : OK W q I (State.sampleChannels s) := by
  unfold State.sampleChannels
  extract_lets +onlyGivenNames -merge -useContext -underBinder x1
  extract_lets +onlyGivenNames -merge -useContext -underBinder x2
  refine OK.upd' ?_ rfl rfl rfl rfl
  exact h

theorem execTelemetryAssemble_ok (h : OK W q I s) : OKo W q I (execTelemetryAssemble s) := by
  unfold execTelemetryAssemble
  refine OKo.next ?_
  refine OK.ite (fun _ => ?_) (fun _ => ?_)
  · exact h
  · refine OK.upd' ?_ rfl rfl rfl rfl
    exact h

theorem State.saveConfig_ok (h : OK W q I s) : OK W q I (State.saveConfig s) := by
  unfold State.saveConfig
  refine OK.ite (fun _ => ?_) (fun _ => ?_)
  · exact h
  · extract_lets +onlyGivenNames -merge -useContext -underBinder x1
    extract_lets +onlyGivenNames -merge -useContext -underBinder x2
    extract_lets +onlyGivenNames -merge -useContext -underBinder x3
    have hx3 : OK W q I x3 := by
      unfold x3
      refine OK.upd' ?_ rfl rfl rfl rfl
      exact h
    refine State.wr_ok ?_ ..
    refine State.setFlag_ok ?_ ..
    refine State.bump_ok ?_ ..
    exact hx3

theorem State.eraseConfig_ok (h : OK W q I s) : OK W q I (State.eraseConfig s) := by
  unfold State.eraseConfig
  refine State.wr_ok ?_ ..
  refine State.setFlag_ok ?_ ..
  refine OK.upd' ?_ rfl rfl rfl rfl
  exact h

theorem execConfigSave_ok (h : OK W q I s) : OKo W q I (execConfigSave s) := by
  unfold execConfigSave
  refine OKo.next ?_
  refine State.enqueue_ok ?_ ..
  exact h

theorem execConfigErase_ok (h : OK W q I s) : OKo W q I (execConfigErase s) := by
  unfold execConfigErase
  refine OKo.next ?_
  refine State.enqueue_ok ?_ ..
  exact h

theorem execDeclarationWrite_ok (h : OK W q I s) (a0 a1) : OKo W q I (execDeclarationWrite a0 a1 s) := by
  unfold execDeclarationWrite
  refine OKo.next ?_
  refine State.enqueue_ok ?_ ..
  exact h

theorem State.restoreSlots_ok (h : OK W q I s) (a1) : OK W q I (State.restoreSlots s a1) := by
  unfold State.restoreSlots
  refine OK.foldl (fun _ _ ht1 => ?_) ?_
  · refine OK.dite (fun _ => ?_) (fun _ => ?_)
    · refine OK.ite (fun _ => ?_) (fun _ => ?_)
      · refine State.requestBind_ok ?_ ..
        exact ht1
      · exact ht1
    · exact ht1
  · exact h

theorem State.holdBack_ok (h : OK W q I s) (a1) : OK W q I (State.holdBack s a1) := by
  unfold State.holdBack
  refine OK.upd' ?_ rfl rfl rfl rfl
  exact h

theorem execConfigRestore_ok (h : OK W q I s) : OKo W q I (execConfigRestore s) := by
  unfold execConfigRestore
  refine OKo.next ?_
  refine OK.ite (fun _ => ?_) (fun _ => ?_)
  · exact h
  · extract_lets +onlyGivenNames -merge -useContext -underBinder x1
    refine OK.ite (fun _ => ?_) (fun _ => ?_)
    · split
      · refine OK.upd' ?_ rfl rfl rfl rfl
        exact h
      · extract_lets +onlyGivenNames -merge -useContext -underBinder x2
        have hx2 : OK W q I x2 := by
          unfold x2
          refine State.restoreSlots_ok ?_ ..
          refine State.holdBack_ok ?_ ..
          exact h
        refine OK.upd' (s := x2) ?_ rfl rfl rfl rfl
        exact hx2
    · extract_lets +onlyGivenNames -merge -useContext -underBinder x3
      extract_lets +onlyGivenNames -merge -useContext -underBinder x4
      have hx4 : OK W q I x4 := by
        unfold x4
        refine State.holdBack_ok ?_ ..
        exact h
      refine OK.upd' (s := x4) ?_ rfl rfl rfl rfl
      exact hx4

theorem State.restoreEnd_ok (h : OK W q I s) : OK W q I (State.restoreEnd s) := by
  unfold State.restoreEnd
  extract_lets +onlyGivenNames -merge -useContext -underBinder x1
  extract_lets +onlyGivenNames -merge -useContext -underBinder x2
  have hx2 : OK W q I x2 := by
    unfold x2
    refine OK.upd' ?_ rfl rfl rfl rfl
    exact h
  refine OK.ite (fun _ => ?_) (fun _ => ?_)
  · refine State.setFlag_ok ?_ ..
    exact hx2
  · exact hx2

theorem State.enableLoops_ok (h : OK W q I s) (a1) : OK W q I (State.enableLoops s a1) := by
  unfold State.enableLoops
  refine OK.foldl (fun _ _ ht1 => ?_) ?_
  · refine State.enqueue_ok ?_ ..
    exact ht1
  · exact h

theorem execAutostartStep_ok (h : OK W q I s) : OKo W q I (execAutostartStep s) := by
  unfold execAutostartStep
  refine OKo.next ?_
  refine OK.ite (fun _ => ?_) (fun _ => ?_)
  · exact h
  · extract_lets +onlyGivenNames -merge -useContext -underBinder x1
    have hx1 : ∀ z0, OK W q I z0 → ∀ y1, OK W q I (x1 z0 y1) := by
      intro z0 hz1 y1; unfold x1
      refine OK.upd' ?_ rfl rfl rfl rfl
      exact hz1
    try clear_value x1
    split
    · exact h
    · exact h
    · split
      · refine hx1 _ ?_ _
        refine State.enableLoops_ok ?_ ..
        exact h
      · extract_lets +onlyGivenNames -merge -useContext -underBinder x2
        have hx2 : OK W q I x2 := by
          unfold x2
          refine OK.foldl (fun _ _ ht3 => ?_) ?_
          · refine State.enqueue_ok ?_ ..
            exact ht3
          · exact h
        refine hx1 _ ?_ _
        refine State.enqueue_ok ?_ ..
        exact hx2
    · refine hx1 _ ?_ _
      refine State.enableLoops_ok ?_ ..
      exact h
    · refine hx1 _ ?_ _
      refine State.enableLoops_ok ?_ ..
      exact h
    · refine hx1 _ ?_ _
      exact h

theorem State.clearOsEntry_ok (h : OK W q I s) (a1) : OK W q I (State.clearOsEntry s a1) := by
  unfold State.clearOsEntry
  refine State.setOs_ok ?_ ..
  refine State.put_ok ?_ ..
  refine State.putOs_ok ?_ ..
  refine State.put_ok ?_ ..
  refine State.put_ok ?_ ..
  exact h

theorem State.clearStrEntry_ok (h : OK W q I s) (a1) : OK W q I (State.clearStrEntry s a1) := by
  unfold State.clearStrEntry
  extract_lets +onlyGivenNames -merge -useContext -underBinder x1
  have hx1 : ∀ y0, ∀ z1, OK W q I z1 → OK W q I (x1 y0 z1) := by
    intro y0 z1 hz1; unfold x1
    refine State.put_ok ?_ ..
    exact hz1
  try clear_value x1
  refine hx1 _ _ ?_
  refine hx1 _ _ ?_
  exact h

theorem State.clearLaneEntry_ok (h : OK W q I s) (a1) : OK W q I (State.clearLaneEntry s a1) := by
  unfold State.clearLaneEntry
  refine State.put_ok ?_ ..
  refine State.put_ok ?_ ..
  exact h

theorem State.declared_ok (h : OK W q I s) (a0) : OK W q I (State.declared a0 s) := by
  unfold State.declared
  extract_lets +onlyGivenNames -merge -useContext -underBinder x1
  have hx1 : OK W q I x1 := by
    unfold x1
    refine OK.foldl (fun _ _ ht2 => ?_) ?_
    · refine OK.ite (fun _ => ?_) (fun _ => ?_)
      · refine State.clearOsEntry_ok ?_ ..
        exact ht2
      · exact ht2
    · exact h
  extract_lets +onlyGivenNames -merge -useContext -underBinder x3
  have hx3 : OK W q I x3 := by
    unfold x3
    refine State.each_ok (fun _ _ ht4 => ?_) ?_
    · refine OK.ite (fun _ => ?_) (fun _ => ?_)
      · refine State.clearStrEntry_ok ?_ ..
        exact ht4
      · exact ht4
    · exact hx1
  refine OK.upd' (s := x3) ?_ rfl rfl rfl rfl
  exact hx3

theorem State.portChanged_ok (h : OK W q I s) (a0 a2 a3 a4) : OK W q I (State.portChanged a0 s a2 a3 a4) := by
  unfold State.portChanged
  refine OK.ite (fun _ => ?_) (fun _ => ?_)
  · exact h
  · refine State.endSessions_ok ?_ ..
    exact h

theorem State.ceilWritten_ok (h : OK W q I s) (a1 a2) : OK W q I (State.ceilWritten s a1 a2) := by
  unfold State.ceilWritten
  refine OK.ite (fun _ => ?_) (fun _ => ?_)
  · refine State.setGroupCeil_ok ?_ ..
    exact h
  · refine State.setZoneCeil_ok ?_ ..
    exact h

theorem State.setsOff_ok (h : OK W q I s) (a0 a2 a3 a4 a5) : OK W q I (State.setsOff a0 s a2 a3 a4 a5) := by
  unfold State.setsOff
  extract_lets +onlyGivenNames -merge -useContext -underBinder x1
  split
  · extract_lets +onlyGivenNames -merge -useContext -underBinder x2
    refine OK.ite (fun _ => ?_) (fun _ => ?_)
    · refine State.put_ok ?_ ..
      exact h
    · exact h
  · extract_lets +onlyGivenNames -merge -useContext -underBinder x3
    refine State.setLoop_ok ?_ ..
    exact h
  · extract_lets +onlyGivenNames -merge -useContext -underBinder x4
    refine OK.ite (fun _ => ?_) (fun _ => ?_)
    · refine State.setFlag_ok ?_ ..
      exact h
    · exact h
  · refine OK.ite (fun _ => ?_) (fun _ => ?_)
    · refine State.each_ok (fun _ _ ht5 => ?_) ?_
      · refine State.ppFall_ok ?_ ..
        exact ht5
      · exact h
    · exact h
  · refine OK.upd' ?_ rfl rfl rfl rfl
    exact h
  · extract_lets +onlyGivenNames -merge -useContext -underBinder x6
    extract_lets +onlyGivenNames -merge -useContext -underBinder x7
    refine OK.ite (fun _ => ?_) (fun _ => ?_)
    · exact h
    · refine OK.ite (fun _ => ?_) (fun _ => ?_)
      · refine OK.dite (fun _ => ?_) (fun _ => ?_)
        · refine OK.upd' ?_ rfl rfl rfl rfl
          exact h
        · exact h
      · refine State.refuse_ok ?_ ..
        exact h
  · extract_lets +onlyGivenNames -merge -useContext -underBinder x8
    refine OK.ite (fun _ => ?_) (fun _ => ?_)
    · refine State.clearLaneEntry_ok ?_ ..
      exact h
    · exact h
  · refine State.declared_ok ?_ ..
    exact h
  · refine State.declared_ok ?_ ..
    exact h
  · extract_lets +onlyGivenNames -merge -useContext -underBinder x9
    refine OK.ite (fun _ => ?_) (fun _ => ?_)
    · refine State.put_ok ?_ ..
      exact h
    · exact h
  · refine State.bertWrite_ok ?_ ..
    exact h
  · extract_lets +onlyGivenNames -merge -useContext -underBinder x10
    refine OK.ite (fun _ => ?_) (fun _ => ?_)
    · refine State.clearLane_ok ?_ ..
      exact h
    · exact h
  · refine State.ceilWritten_ok ?_ ..
    exact h
  · refine State.ceilWritten_ok ?_ ..
    exact h
  · refine State.rescanReq_ok ?_ ..
    exact h
  · refine State.owtReq_ok ?_ ..
    exact h
  · refine OK.ite (fun _ => ?_) (fun _ => ?_)
    · exact h
    · refine OK.upd' ?_ rfl rfl rfl rfl
      exact h
  · refine OK.ite (fun _ => ?_) (fun _ => ?_)
    · exact h
    · refine OK.upd' ?_ rfl rfl rfl rfl
      exact h
  · extract_lets +onlyGivenNames -merge -useContext -underBinder x11
    refine OK.dite (fun _ => ?_) (fun _ => ?_)
    · refine State.coreCtrl_ok ?_ ..
      exact h
    · exact h
  · extract_lets +onlyGivenNames -merge -useContext -underBinder x12
    refine OK.ite (fun _ => ?_) (fun _ => ?_)
    · exact h
    · refine OK.dite (fun _ => ?_) (fun _ => ?_)
      · refine State.testRun_ok ?_ ..
        exact h
      · exact h
  · refine State.discardAnchors_ok ?_ ..
    exact h
  · extract_lets +onlyGivenNames -merge -useContext -underBinder x13
    refine OK.dite (fun _ => ?_) (fun _ => ?_)
    · refine State.modelValid_ok ?_ ..
      exact h
    · exact h
  · extract_lets +onlyGivenNames -merge -useContext -underBinder x14
    have hx14 : OK W q I x14 := by
      unfold x14
      refine OK.ite (fun _ => ?_) (fun _ => ?_)
      · refine State.hamperDisarm_ok ?_ ..
        exact h
      · exact h
    extract_lets +onlyGivenNames -merge -useContext -underBinder x15
    have hx15 : OK W q I x15 := by
      unfold x15
      refine OK.ite (fun _ => ?_) (fun _ => ?_)
      · refine State.hamperArm_ok ?_ ..
        exact hx14
      · exact hx14
    refine OK.ite (fun _ => ?_) (fun _ => ?_)
    · refine OK.upd' (s := x15) ?_ rfl rfl rfl rfl
      exact hx15
    · exact hx15
  · extract_lets +onlyGivenNames -merge -useContext -underBinder x16
    have hx16 : OK W q I x16 := by
      unfold x16
      refine OK.ite (fun _ => ?_) (fun _ => ?_)
      · refine State.clearCounts_ok ?_ ..
        exact h
      · exact h
    refine OK.ite (fun _ => ?_) (fun _ => ?_)
    · refine State.resyncWrite_ok ?_ ..
      exact hx16
    · exact hx16
  · extract_lets +onlyGivenNames -merge -useContext -underBinder x17
    refine OK.dite (fun _ => ?_) (fun _ => ?_)
    · refine OK.ite (fun _ => ?_) (fun _ => ?_)
      · refine State.beat_ok ?_ ..
        exact h
      · exact h
    · exact h
  · refine OK.ite (fun _ => ?_) (fun _ => ?_)
    · refine OK.upd' ?_ rfl rfl rfl rfl
      exact h
    · exact h
  · refine OK.ite (fun _ => ?_) (fun _ => ?_)
    · refine State.startDump_ok ?_ ..
      exact h
    · exact h
  · refine OK.upd' ?_ rfl rfl rfl rfl
    exact h
  · refine State.rstRequest_ok ?_ ..
    exact h
  · refine OK.ite (fun _ => ?_) (fun _ => ?_)
    · refine State.capClear_ok ?_ ..
      exact h
    · exact h
  · refine State.updateEff_ok ?_ ..
    exact h
  · refine OK.ite (fun _ => ?_) (fun _ => ?_)
    · refine State.pstateReq_ok ?_ ..
      exact h
    · exact h
  · refine State.portChanged_ok ?_ ..
    exact h
  · refine State.portChanged_ok ?_ ..
    exact h
  · refine State.portChanged_ok ?_ ..
    exact h
  · refine State.portChanged_ok ?_ ..
    exact h
  · refine OK.dite (fun _ => ?_) (fun _ => ?_)
    · refine State.ack_ok ?_ ..
      exact h
    · exact h
  · refine OK.ite (fun _ => ?_) (fun _ => ?_)
    · refine State.clearCapture_ok ?_ ..
      exact h
    · exact h
  · refine OK.ite (fun _ => ?_) (fun _ => ?_)
    · exact h
    · refine State.clearRecords_ok ?_ ..
      exact h
  · extract_lets +onlyGivenNames -merge -useContext -underBinder x18
    have hx18 : OK W q I x18 := by
      unfold x18
      refine OK.ite (fun _ => ?_) (fun _ => ?_)
      · refine State.saveConfig_ok ?_ ..
        exact h
      · exact h
    refine OK.ite (fun _ => ?_) (fun _ => ?_)
    · refine State.eraseConfig_ok ?_ ..
      exact hx18
    · exact hx18
  · split
    · refine OK.ite (fun _ => ?_) (fun _ => ?_)
      · refine State.setFlag_ok ?_ ..
        exact h
      · exact h
    · refine OK.ite (fun _ => ?_) (fun _ => ?_)
      · refine State.setFlag_ok ?_ ..
        exact h
      · refine State.formCrc_ok ?_ ..
        exact h
    · exact h

theorem State.regWrite_ok (h : OK W q I s) (a1 a2 a3) : OK W q I (State.regWrite s a1 a2 a3) := by
  unfold State.regWrite
  split
  · extract_lets +onlyGivenNames -merge -useContext -underBinder x1
    refine OK.ite (fun _ => ?_) (fun _ => ?_)
    · exact h
    · refine OK.dite (fun _ => ?_) (fun _ => ?_)
      · refine OK.ite (fun _ => ?_) (fun _ => ?_)
        · refine State.recordAt_ok ?_ ..
          refine OK.upd' ?_ rfl rfl rfl rfl
          exact h
        · extract_lets +onlyGivenNames -merge -useContext -underBinder x2
          have hx2 : OK W q I x2 := by
            unfold x2
            refine State.wr_ok ?_ ..
            exact h
          extract_lets +onlyGivenNames -merge -useContext -underBinder x3
          have hx3 : OK W q I x3 := by
            unfold x3
            refine State.setsOff_ok ?_ ..
            exact hx2
          refine OK.ite (fun _ => ?_) (fun _ => ?_)
          · refine OK.upd' (s := x3) ?_ rfl rfl rfl rfl
            exact hx3
          · exact hx3
      · exact h
  · exact h

theorem State.applyWrite_ok (h : OK W q I s) (a1) : OK W q I (State.applyWrite s a1) := by
  unfold State.applyWrite
  extract_lets +onlyGivenNames -merge -useContext -underBinder x1
  have hx1 : OK W q I x1 := by
    unfold x1
    refine OK.ite (fun _ => ?_) (fun _ => ?_)
    · refine State.act_ok ?_ ..
      exact h
    · refine State.regWrite_ok ?_ ..
      exact h
  refine OK.ite (fun _ => ?_) (fun _ => ?_)
  · refine State.wrote_ok ?_ ..
    exact hx1
  · exact hx1

theorem State.auditForwarded_ok (h : OK W q I s) (a1) : OK W q I (State.auditForwarded s a1) := by
  unfold State.auditForwarded
  refine OK.ite (fun _ => ?_) (fun _ => ?_)
  · exact h
  · extract_lets +onlyGivenNames -merge -useContext -underBinder x1
    refine OK.foldl (fun _ _ ht2 => ?_) ?_
    · refine State.audit_ok ?_ ..
      exact ht2
    · exact h

theorem State.applyWrites_ok (h : OK W q I s) (a1) : OK W q I (State.applyWrites s a1) := by
  unfold State.applyWrites
  refine State.auditForwarded_ok ?_ ..
  refine OK.foldl (fun _ _ ht1 => ?_) ?_
  · refine State.applyWrite_ok ?_ ..
    exact ht1
  · exact h

theorem execRegisterWrite_ok (h : OK W q I s) (a0 a1 a2) : OKo W q I (execRegisterWrite a0 a1 a2 s) := by
  unfold execRegisterWrite
  refine OKo.next ?_
  refine OK.ite (fun _ => ?_) (fun _ => ?_)
  · refine State.enqueue_ok ?_ ..
    exact h
  · exact h

theorem execCoeffSetWrite_ok (h : OK W q I s) (a0 a1 a2 a3) : OKo W q I (execCoeffSetWrite a0 a1 a2 a3 s) := by
  unfold execCoeffSetWrite
  refine OKo.next ?_
  refine State.enqueue_ok ?_ ..
  exact h

theorem execSwitchSet_ok (h : OK W q I s) (a0 a1) : OKo W q I (execSwitchSet a0 a1 s) := by
  unfold execSwitchSet
  refine OKo.next ?_
  refine State.enqueue_ok ?_ ..
  exact h

theorem execLoopModeChange_ok (h : OK W q I s) (a0 a1) : OKo W q I (execLoopModeChange a0 a1 s) := by
  unfold execLoopModeChange
  refine OKo.next ?_
  refine State.enqueue_ok ?_ ..
  exact h

theorem State.nextFrame_ok (hI : Wraps I) (h : OK W q I s) : OK W q I (State.nextFrame s) := by
  unfold State.nextFrame
  extract_lets +onlyGivenNames -merge -useContext -underBinder x1
  extract_lets +onlyGivenNames -merge -useContext -underBinder x2
  extract_lets +onlyGivenNames -merge -useContext -underBinder x3
  extract_lets +onlyGivenNames -merge -useContext -underBinder x4
  have hx4 : OK W q I x4 := by
    unfold x4
    refine OK.updT hI ?_ rfl (Nat.mod_lt _ (by decide)) (Nat.mod_lt _ (by decide)) rfl
    exact h
  refine OK.ite (fun _ => ?_) (fun _ => ?_)
  · refine State.bump_ok ?_ ..
    exact hx4
  · refine OK.ite (fun _ => ?_) (fun _ => ?_)
    · refine State.bump_ok ?_ ..
      exact hx4
    · exact hx4

theorem State.formSet_ok (h : OK W q I s) (a1 a2) : OK W q I (State.formSet s a1 a2) := by
  unfold State.formSet
  extract_lets +onlyGivenNames -merge -useContext -underBinder x1
  refine OK.upd' ?_ rfl rfl rfl rfl
  exact h

theorem State.takeWrites_ok (h : OK W q I s) : OK W q I (State.takeWrites s).1 := by
  unfold State.takeWrites
  extract_lets +onlyGivenNames -merge -useContext -underBinder x1
  show OK W q I _
  refine OK.upd' ?_ rfl rfl rfl rfl
  exact h

theorem State.routeWrites_ok (h : OK W q I s) : OK W q I (State.routeWrites s) := by
  unfold State.routeWrites
  refine OK.ite (fun _ => ?_) (fun _ => ?_)
  · extract_lets +onlyGivenNames -merge -useContext -underBinder x1
    refine OK.upd' ?_ rfl rfl rfl rfl
    exact h
  · refine OK.upd' ?_ rfl rfl rfl rfl
    exact h

theorem State.writeFrame_ok (h : OK W q I s) : OK W q I (State.writeFrame s) := by
  unfold State.writeFrame
  extract_lets +onlyGivenNames -merge -useContext -underBinder x1
  have hx1 : OK W q I x1.1 := by
    unfold x1
    refine State.takeWrites_ok ?_ ..
    exact h
  extract_lets +onlyGivenNames -merge -useContext -underBinder x2
  extract_lets +onlyGivenNames -merge -useContext -underBinder x3
  have hx3 : OK W q I x3 := by
    unfold x3
    exact hx1
  extract_lets +onlyGivenNames -merge -useContext -underBinder x4
  extract_lets +onlyGivenNames -merge -useContext -underBinder x5
  extract_lets +onlyGivenNames -merge -useContext -underBinder x6
  have hx6 : OK W q I x6 := by
    unfold x6
    refine OK.upd' (s := x3) ?_ rfl rfl rfl rfl
    exact hx3
  extract_lets +onlyGivenNames -merge -useContext -underBinder x7
  have hx7 : OK W q I x7 := by
    unfold x7
    refine State.applyWrites_ok ?_ ..
    exact hx6
  refine OK.ite (fun _ => ?_) (fun _ => ?_)
  · refine State.restoreEnd_ok ?_ ..
    exact hx7
  · exact hx7

theorem State.endTicks_ok (h : OK W q I s) : OK W q I (State.endTicks s) := by
  unfold State.endTicks
  extract_lets +onlyGivenNames -merge -useContext -underBinder x1
  have hx1 : OK W q I x1 := by
    unfold x1
    refine OK.ite (fun _ => ?_) (fun _ => ?_)
    · refine State.profileTick_ok ?_ ..
      exact h
    · exact h
  extract_lets +onlyGivenNames -merge -useContext -underBinder x2
  have hx2 : OK W q I x2 := by
    unfold x2
    refine OK.ite (fun _ => ?_) (fun _ => ?_)
    · refine State.socTick_ok ?_ ..
      exact hx1
    · exact hx1
  extract_lets +onlyGivenNames -merge -useContext -underBinder x3
  have hx3 : OK W q I x3 := by
    unfold x3
    refine OK.ite (fun _ => ?_) (fun _ => ?_)
    · exact h
    · refine State.estTick_ok ?_ ..
      refine State.zoneTick_ok ?_ ..
      refine State.siteTick_ok ?_ ..
      exact hx2
  extract_lets +onlyGivenNames -merge -useContext -underBinder x4
  have hx4 : OK W q I x4 := by
    unfold x4
    refine OK.ite (fun _ => ?_) (fun _ => ?_)
    · exact hx3
    · refine State.chainTick_ok ?_ ..
      refine State.ceilingTick_ok ?_ ..
      refine State.swarmTick_ok ?_ ..
      exact hx3
  refine State.replyTick_ok ?_ ..
  refine State.trustTick_ok ?_ ..
  refine State.recoveryTick_ok ?_ ..
  exact hx4

theorem State.startTicks_ok (h : OK W q I s) : OK W q I (State.startTicks s) := by
  unfold State.startTicks
  extract_lets +onlyGivenNames -merge -useContext -underBinder x1
  have hx1 : OK W q I x1 := by
    unfold x1
    refine OK.ite (fun _ => ?_) (fun _ => ?_)
    · exact h
    · refine State.alignTick_ok ?_ ..
      exact h
  extract_lets +onlyGivenNames -merge -useContext -underBinder x2
  have hx2 : OK W q I x2 := by
    unfold x2
    refine OK.ite (fun _ => ?_) (fun _ => ?_)
    · exact hx1
    · refine State.linkTick_ok ?_ ..
      exact hx1
  extract_lets +onlyGivenNames -merge -useContext -underBinder x3
  have hx3 : OK W q I x3 := by
    unfold x3
    refine State.powerTick_ok ?_ ..
    refine State.arrayTick_ok ?_ ..
    exact hx2
  refine OK.ite (fun _ => ?_) (fun _ => ?_)
  · refine State.groupModes_ok ?_ ..
    exact hx3
  · exact hx3

theorem State.startPins_ok (h : OK W q I s) : OK W q I (State.startPins s) := by
  unfold State.startPins
  refine OK.upd' ?_ rfl rfl rfl rfl
  exact h

theorem State.frameBegin_ok (hI : Wraps I) (h : OK W q I s) (a1 a2) : OK W q I (State.frameBegin s a1 a2) := by
  unfold State.frameBegin
  extract_lets +onlyGivenNames -merge -useContext -underBinder x1
  have hx1 : OK W q I x1 := by
    unfold x1
    refine State.formSet_ok ?_ ..
    refine State.nextFrame_ok hI ?_ ..
    exact h
  extract_lets +onlyGivenNames -merge -useContext -underBinder x2
  have hx2 : OK W q I x2 := by
    unfold x2
    refine State.lockTick_ok ?_ ..
    refine State.routeWrites_ok ?_ ..
    refine State.claimSample_ok ?_ ..
    exact hx1
  refine State.startPins_ok ?_ ..
  refine State.startTicks_ok ?_ ..
  refine State.writeFrame_ok ?_ ..
  refine State.followReactions_ok ?_ ..
  refine State.endTicks_ok ?_ ..
  exact hx2

theorem State.frameClear_ok (h : OK W q I s) : OK W q I (State.frameClear s) := by
  unfold State.frameClear
  refine OK.upd' ?_ rfl rfl rfl rfl
  exact h

theorem execFrameStart_ok (hI : Wraps I) (h : OK W q I s) (a0 a1) : OKo W q I (execFrameStart a0 a1 s) := by
  unfold execFrameStart
  refine OKo.next ?_
  refine OK.ite (fun _ => ?_) (fun _ => ?_)
  · exact h
  · refine State.frameClear_ok ?_ ..
    refine State.frameBegin_ok hI ?_ ..
    exact h

theorem State.partnerWrites_ok (h : OK W q I s) : OK W q I (State.partnerWrites s) := by
  unfold State.partnerWrites
  refine OK.ite (fun _ => ?_) (fun _ => ?_)
  · exact h
  · split
    · refine State.groupModes_ok ?_ ..
      refine State.applyWrites_ok ?_ ..
      exact h
    · exact h

theorem State.calibrateAll_ok (h : OK W q I s) : OK W q I (State.calibrateAll s) := by
  unfold State.calibrateAll
  refine OK.upd' ?_ rfl rfl rfl rfl
  exact h

theorem State.takeInputs_ok (h : OK W q I s) : OK W q I (State.takeInputs s) := by
  unfold State.takeInputs
  extract_lets +onlyGivenNames -merge -useContext -underBinder x1
  have hx1 : OK W q I x1 := by
    unfold x1
    refine State.adcSum_ok ?_ ..
    refine State.chooseSet_ok ?_ ..
    refine State.atCycle_ok ?_ ..
    exact h
  refine OK.ite (fun _ => ?_) (fun _ => ?_)
  · exact hx1
  · refine OK.ite (fun _ => ?_) (fun _ => ?_)
    · refine State.takeChain_ok ?_ ..
      refine State.calibrateAll_ok ?_ ..
      exact hx1
    · extract_lets +onlyGivenNames -merge -useContext -underBinder x2
      have hx2 : OK W q I x2 := by
        unfold x2
        refine State.takeChain_ok ?_ ..
        refine State.calibrateAll_ok ?_ ..
        refine State.takeTelemetry_ok ?_ ..
        refine State.partnerWrites_ok ?_ ..
        exact hx1
      extract_lets +onlyGivenNames -merge -useContext -underBinder x3
      have hx3 : OK W q I x3 := by
        unfold x3
        refine State.droopEnd_ok ?_ ..
        refine State.throttleTick_ok ?_ ..
        refine State.anchors_ok ?_ ..
        refine State.markers_ok ?_ ..
        exact hx2
      refine State.estClose_ok ?_ ..
      refine State.fabricDecide_ok ?_ ..
      refine State.flowPulse_ok ?_ ..
      refine State.gridCount_ok ?_ ..
      exact hx3

theorem State.closeInputs_ok (h : OK W q I s) : OK W q I (State.closeInputs s) := by
  unfold State.closeInputs
  refine OK.ite (fun _ => ?_) (fun _ => ?_)
  · exact h
  · extract_lets +onlyGivenNames -merge -useContext -underBinder x1
    have hx1 : OK W q I x1 := by
      unfold x1
      refine State.takeInputs_ok ?_ ..
      exact h
    refine OK.upd' (s := x1) ?_ rfl rfl rfl rfl
    exact hx1

theorem execInputExchangeClose_ok (h : OK W q I s) : OKo W q I (execInputExchangeClose s) := by
  unfold execInputExchangeClose
  refine OKo.next ?_
  refine OK.ite (fun _ => ?_) (fun _ => ?_)
  · exact h
  · refine State.closeInputs_ok ?_ ..
    exact h

theorem State.feeds4_ok (h : OK W q I s) : OK W q I (State.feeds4 s).1 := by
  unfold State.feeds4
  extract_lets +onlyGivenNames -merge -useContext -underBinder x1
  have hx1 : OK W q I x1.1 := by
    unfold x1
    refine State.feedForward_ok ?_ ..
    exact h
  extract_lets +onlyGivenNames -merge -useContext -underBinder x2
  have hx2 : OK W q I x2.1 := by
    unfold x2
    refine State.feedForward_ok ?_ ..
    exact hx1
  extract_lets +onlyGivenNames -merge -useContext -underBinder x3
  have hx3 : OK W q I x3.1 := by
    unfold x3
    refine State.feedForward_ok ?_ ..
    exact hx2
  extract_lets +onlyGivenNames -merge -useContext -underBinder x4
  have hx4 : OK W q I x4.1 := by
    unfold x4
    refine State.feedForward_ok ?_ ..
    exact hx3
  extract_lets +onlyGivenNames -merge -useContext -underBinder x5
  have hx5 : OK W q I x5.1 := by
    unfold x5
    refine State.prePosition_ok ?_ ..
    exact hx4
  show OK W q I _
  exact hx5

theorem State.engineRun_ok (h : OK W q I s) : OK W q I (State.engineRun s) := by
  unfold State.engineRun
  extract_lets +onlyGivenNames -merge -useContext -underBinder x1
  have hx1 : OK W q I x1 := by
    unfold x1
    refine State.gridRefs_ok ?_ ..
    refine State.ramps_ok ?_ ..
    refine State.fabricAdvance_ok ?_ ..
    refine State.storagePower_ok ?_ ..
    refine State.socGate_ok ?_ ..
    exact h
  extract_lets +onlyGivenNames -merge -useContext -underBinder x2
  have hx2 : OK W q I x2.1 := by
    unfold x2
    refine State.feeds4_ok ?_ ..
    exact hx1
  extract_lets +onlyGivenNames -merge -useContext -underBinder x3
  have hx3 : OK W q I x3 := by
    unfold x3
    refine OK.foldl (fun _ _ ht4 => ?_) ?_
    · refine State.runLoop_ok ?_ ..
      exact ht4
    · exact hx2
  extract_lets +onlyGivenNames -merge -useContext -underBinder x5
  extract_lets +onlyGivenNames -merge -useContext -underBinder x6
  have hx6 : OK W q I x6 := by
    unfold x6
    refine OK.upd' (s := x3) ?_ rfl rfl rfl rfl
    exact hx3
  extract_lets +onlyGivenNames -merge -useContext -underBinder x7
  have hx7 : OK W q I x7 := by
    unfold x7
    refine State.each_ok (fun _ _ ht8 => ?_) ?_
    · refine State.followStep_ok ?_ ..
      exact ht8
    · exact hx6
  extract_lets +onlyGivenNames -merge -useContext -underBinder x9
  have hx9 : OK W q I x9 := by
    unfold x9
    refine OK.foldl (fun _ _ ht10 => ?_) ?_
    · refine State.mismatchStep_ok ?_ ..
      exact ht10
    · exact hx7
  extract_lets +onlyGivenNames -merge -useContext -underBinder x11
  have hx11 : OK W q I x11 := by
    unfold x11
    refine State.each_ok (fun _ _ ht12 => ?_) ?_
    · refine State.pgoodStep_ok ?_ ..
      refine State.overloadStep_ok ?_ ..
      exact ht12
    · exact hx9
  extract_lets +onlyGivenNames -merge -useContext -underBinder x13
  have hx13 : OK W q I x13 := by
    unfold x13
    refine State.profileEnd_ok ?_ ..
    refine State.ceilingEnd_ok ?_ ..
    exact hx11
  refine OK.upd' (s := x13) ?_ rfl rfl rfl rfl
  exact hx13

theorem execLoopEngineRun_ok (h : OK W q I s) : OKo W q I (execLoopEngineRun s) := by
  unfold execLoopEngineRun
  refine OKo.next ?_
  refine OK.ite (fun _ => ?_) (fun _ => ?_)
  · exact h
  · extract_lets +onlyGivenNames -merge -useContext -underBinder x1
    have hx1 : OK W q I x1 := by
      unfold x1
      refine State.closeInputs_ok ?_ ..
      exact h
    refine OK.ite (fun _ => ?_) (fun _ => ?_)
    · refine State.engineRun_ok ?_ ..
      refine State.atCycle_ok ?_ ..
      exact hx1
    · exact hx1

theorem execWriteCheck_ok (h : OK W q I s) : OKo W q I (execWriteCheck s) := by
  unfold execWriteCheck
  refine OKo.next ?_
  refine OK.ite (fun _ => ?_) (fun _ => ?_)
  · exact h
  · extract_lets +onlyGivenNames -merge -useContext -underBinder x1
    have hx1 : OK W q I x1 := by
      unfold x1
      refine State.atCycle_ok ?_ ..
      exact h
    extract_lets +onlyGivenNames -merge -useContext -underBinder x2
    extract_lets +onlyGivenNames -merge -useContext -underBinder x3
    extract_lets +onlyGivenNames -merge -useContext -underBinder x4
    have hx4 : OK W q I x4 := by
      unfold x4
      refine OK.upd' (s := x1) ?_ rfl rfl rfl rfl
      exact hx1
    extract_lets +onlyGivenNames -merge -useContext -underBinder x5
    have hx5 : OK W q I x5 := by
      unfold x5
      refine OK.ite (fun _ => ?_) (fun _ => ?_)
      · refine State.record_ok ?_ ..
        exact hx4
      · exact hx4
    extract_lets +onlyGivenNames -merge -useContext -underBinder x6
    have hx6 : OK W q I x6 := by
      unfold x6
      refine OK.ite (fun _ => ?_) (fun _ => ?_)
      · exact hx1
      · refine State.armLatch_ok ?_ ..
        refine State.hamperFrame_ok ?_ ..
        exact hx5
    refine State.sampleChannels_ok ?_ ..
    exact hx6

theorem State.trackUnder_ok (h : OK W q I s) (a1 a2) : OK W q I (State.trackUnder s a1 a2) := by
  unfold State.trackUnder
  extract_lets +onlyGivenNames -merge -useContext -underBinder x1
  try clear_value x1
  extract_lets +onlyGivenNames -merge -useContext -underBinder x2
  extract_lets +onlyGivenNames -merge -useContext -underBinder x3
  refine OK.upd' ?_ rfl rfl rfl rfl
  exact h

theorem State.drivePgood_ok (h : OK W q I s) : OK W q I (State.drivePgood s) := by
  unfold State.drivePgood
  extract_lets +onlyGivenNames -merge -useContext -underBinder x1
  extract_lets +onlyGivenNames -merge -useContext -underBinder x2
  refine OK.upd' ?_ rfl rfl rfl rfl
  exact h

theorem execStageCommandsLeave_ok (h : OK W q I s) : OKo W q I (execStageCommandsLeave s) := by
  unfold execStageCommandsLeave
  refine OKo.next ?_
  refine OK.ite (fun _ => ?_) (fun _ => ?_)
  · exact h
  · extract_lets +onlyGivenNames -merge -useContext -underBinder x1
    have hx1 : OK W q I x1 := by
      unfold x1
      refine State.atCycle_ok ?_ ..
      exact h
    extract_lets +onlyGivenNames -merge -useContext -underBinder x2
    extract_lets +onlyGivenNames -merge -useContext -underBinder x3
    extract_lets +onlyGivenNames -merge -useContext -underBinder x4
    have hx4 : OK W q I x4 := by
      unfold x4
      refine OK.foldl (fun _ _ ht5 => ?_) ?_
      · refine State.trackUnder_ok ?_ ..
        exact ht5
      · exact hx1
    extract_lets +onlyGivenNames -merge -useContext -underBinder x6
    extract_lets +onlyGivenNames -merge -useContext -underBinder x7
    extract_lets +onlyGivenNames -merge -useContext -underBinder x8
    have hx8 : OK W q I x8 := by
      unfold x8
      refine OK.upd' (s := x4) ?_ rfl rfl rfl rfl
      exact hx4
    refine State.sendUrgent_ok ?_ ..
    refine State.drivePgood_ok ?_ ..
    exact hx8

end Sys2Proof.Machine
end

