-- ==== Sys2Proof/Laws/LaneT.lean ====
section
/-! SUPPORT. What lanes under test leave alone. -/

namespace Sys2Proof.Machine

/-- The parts of the state that are kept. -/
structure State.LaneTPart where
  time : TimeRt
  inp : InputRt
  wq : List PairWrite
  lpe : LpeRt
  hmp : HmpRt
  prf : PrfRt
  site : SiteRt
  zfb : ZfbRt
  wgl : WglRt
  lks : LksRt
  link : LinkRt
  chn : ChnRt
  est : EstRt
  arr : ArrRt
  flt : FltRt
  mgp : MgpRt
  sec : SecRt
  pwr : PwrRt
  cfg : CfgRt
  pins : PinRt
  shadow : List (Nat × Nat × Word)
  free : Nat
  pending : List Instr

/-- Those parts of a state. -/
def State.partLaneT (s : State) : State.LaneTPart :=
  ⟨s.time, s.inp, s.wq, s.lpe, s.hmp, s.prf, s.site, s.zfb, s.wgl, s.lks, s.link, s.chn, s.est, s.arr, s.flt, s.mgp, s.sec, s.pwr, s.cfg, s.pins, s.shadow, s.free, s.pending⟩

/-- Those parts are the ones given. -/
structure LaneT (u : State.LaneTPart) (s : State) : Prop where
  eq : s.partLaneT = u

variable {u : State.LaneTPart} {s : State}

theorem LaneT.upd {regs time inp wq lpe hmp prf site zfb wgl lks link chn est arr flt mgp sec pwr cfg pins shadow free pending} (h : LaneT u s) (h_regs : regs = s.regs) (h_time : time = s.time) (h_inp : inp = s.inp) (h_wq : wq = s.wq) (h_lpe : lpe = s.lpe) (h_hmp : hmp = s.hmp) (h_prf : prf = s.prf) (h_site : site = s.site) (h_zfb : zfb = s.zfb) (h_wgl : wgl = s.wgl) (h_lks : lks = s.lks) (h_link : link = s.link) (h_chn : chn = s.chn) (h_est : est = s.est) (h_arr : arr = s.arr) (h_flt : flt = s.flt) (h_mgp : mgp = s.mgp) (h_sec : sec = s.sec) (h_pwr : pwr = s.pwr) (h_cfg : cfg = s.cfg) (h_pins : pins = s.pins) (h_shadow : shadow = s.shadow) (h_free : free = s.free) (h_pending : pending = s.pending) :
    LaneT u (State.mk regs time inp wq lpe hmp prf site zfb wgl lks link chn est arr flt mgp sec pwr cfg pins shadow free pending) := by
  subst h_regs h_time h_inp h_wq h_lpe h_hmp h_prf h_site h_zfb h_wgl h_lks h_link h_chn h_est h_arr h_flt h_mgp h_sec h_pwr h_cfg h_pins h_shadow h_free h_pending
  exact ⟨h.eq⟩

theorem LaneT.rfl' (s : State) : LaneT s.partLaneT s := ⟨rfl⟩

theorem LaneT.ite {c : Prop} {_ : Decidable c} {a b : State} (ha : c → LaneT u a) (hb : ¬c → LaneT u b) : LaneT u (if c then a else b) := by
  split
  · exact ha ‹_›
  · exact hb ‹_›

theorem LaneT.dite {c : Prop} {_ : Decidable c} {a : c → State} {b : ¬c → State} (ha : ∀ h, LaneT u (a h)) (hb : ∀ h, LaneT u (b h)) :
    LaneT u (if h : c then a h else b h) := by
  split
  · exact ha _
  · exact hb _

theorem LaneT.iteP {α : Type} {c : Prop} {_ : Decidable c} {a b : State × α} (ha : c → LaneT u a.1) (hb : ¬c → LaneT u b.1) : LaneT u (if c then a else b).1 := by
  split
  · exact ha ‹_›
  · exact hb ‹_›

theorem LaneT.diteP {α : Type} {c : Prop} {_ : Decidable c} {a : c → State × α} {b : ¬c → State × α} (ha : ∀ h, LaneT u (a h).1) (hb : ∀ h, LaneT u (b h).1) :
    LaneT u (if h : c then a h else b h).1 := by
  split
  · exact ha _
  · exact hb _

theorem LaneT.foldl {α : Type} {l : List α} {f : State → α → State} (hf : ∀ t a, LaneT u t → LaneT u (f t a)) (h : LaneT u s) : LaneT u (l.foldl f s) := by
  induction l generalizing s with
  | nil => exact h
  | cons a l ih => exact ih (hf s a h)

theorem LaneT.each {n : Nat} {f : Nat → State → State} (hf : ∀ i t, LaneT u t → LaneT u (f i t)) (h : LaneT u s) : LaneT u (State.each n f s) :=
  LaneT.foldl (fun t a ht => hf a t ht) h

theorem LaneT.over {α : Type} {l : List α} {f : α → State → State} (hf : ∀ i t, LaneT u t → LaneT u (f i t)) (h : LaneT u s) : LaneT u (State.over l f s) :=
  LaneT.foldl (fun t a ht => hf a t ht) h

theorem LaneT.iff {c : Bool} {f : State → State} (hf : ∀ t, LaneT u t → LaneT u (f t)) (h : LaneT u s) : LaneT u (State.iff c f s) := by
  unfold State.iff
  split
  · exact hf s h
  · exact h

theorem LaneT.wr (h : LaneT u s) (a w) : LaneT u (s.wr a w) := ⟨h.eq⟩

theorem LaneT.time_eq (h : LaneT u s) : s.time = u.time := congrArg State.LaneTPart.time h.eq
theorem LaneT.inp_eq (h : LaneT u s) : s.inp = u.inp := congrArg State.LaneTPart.inp h.eq
theorem LaneT.wq_eq (h : LaneT u s) : s.wq = u.wq := congrArg State.LaneTPart.wq h.eq
theorem LaneT.lpe_eq (h : LaneT u s) : s.lpe = u.lpe := congrArg State.LaneTPart.lpe h.eq
theorem LaneT.hmp_eq (h : LaneT u s) : s.hmp = u.hmp := congrArg State.LaneTPart.hmp h.eq
theorem LaneT.prf_eq (h : LaneT u s) : s.prf = u.prf := congrArg State.LaneTPart.prf h.eq
theorem LaneT.site_eq (h : LaneT u s) : s.site = u.site := congrArg State.LaneTPart.site h.eq
theorem LaneT.zfb_eq (h : LaneT u s) : s.zfb = u.zfb := congrArg State.LaneTPart.zfb h.eq
theorem LaneT.wgl_eq (h : LaneT u s) : s.wgl = u.wgl := congrArg State.LaneTPart.wgl h.eq
theorem LaneT.lks_eq (h : LaneT u s) : s.lks = u.lks := congrArg State.LaneTPart.lks h.eq
theorem LaneT.link_eq (h : LaneT u s) : s.link = u.link := congrArg State.LaneTPart.link h.eq
theorem LaneT.chn_eq (h : LaneT u s) : s.chn = u.chn := congrArg State.LaneTPart.chn h.eq
theorem LaneT.est_eq (h : LaneT u s) : s.est = u.est := congrArg State.LaneTPart.est h.eq
theorem LaneT.arr_eq (h : LaneT u s) : s.arr = u.arr := congrArg State.LaneTPart.arr h.eq
theorem LaneT.flt_eq (h : LaneT u s) : s.flt = u.flt := congrArg State.LaneTPart.flt h.eq
theorem LaneT.mgp_eq (h : LaneT u s) : s.mgp = u.mgp := congrArg State.LaneTPart.mgp h.eq
theorem LaneT.sec_eq (h : LaneT u s) : s.sec = u.sec := congrArg State.LaneTPart.sec h.eq
theorem LaneT.pwr_eq (h : LaneT u s) : s.pwr = u.pwr := congrArg State.LaneTPart.pwr h.eq
theorem LaneT.cfg_eq (h : LaneT u s) : s.cfg = u.cfg := congrArg State.LaneTPart.cfg h.eq
theorem LaneT.pins_eq (h : LaneT u s) : s.pins = u.pins := congrArg State.LaneTPart.pins h.eq
theorem LaneT.shadow_eq (h : LaneT u s) : s.shadow = u.shadow := congrArg State.LaneTPart.shadow h.eq
theorem LaneT.free_eq (h : LaneT u s) : s.free = u.free := congrArg State.LaneTPart.free h.eq
theorem LaneT.pending_eq (h : LaneT u s) : s.pending = u.pending := congrArg State.LaneTPart.pending h.eq

theorem LaneT.put (h : LaneT u s) (a1 a2) : LaneT u (State.put s a1 a2) := by
  unfold State.put
  refine LaneT.wr ?_ ..
  exact h

theorem LaneT.testStages (h : LaneT u s) (a1 a2) : LaneT u (State.testStages s a1 a2) := by
  unfold State.testStages
  refine LaneT.foldl (fun _ _ ht1 => ?_) ?_
  · refine LaneT.put ?_ ..
    exact ht1
  · exact h

theorem LaneT.testTrays (h : LaneT u s) (a1 a2) : LaneT u (State.testTrays s a1 a2) := by
  unfold State.testTrays
  refine LaneT.foldl (fun _ _ ht1 => ?_) ?_
  · refine LaneT.put ?_ ..
    exact ht1
  · exact h

theorem LaneT.testLock (h : LaneT u s) (a1 a2) : LaneT u (State.testLock s a1 a2) := by
  unfold State.testLock
  refine LaneT.put ?_ ..
  exact h

theorem LaneT.testLanes (h : LaneT u s) (a1) : LaneT u (State.testLanes s a1) := by
  unfold State.testLanes
  extract_lets +onlyGivenNames -merge -useContext -underBinder x1
  extract_lets +onlyGivenNames -merge -useContext -underBinder x2
  have hx2 : LaneT u x2 := by
    unfold x2
    refine LaneT.ite (fun _ => ?_) (fun _ => ?_)
    · refine LaneT.testTrays ?_ ..
      refine LaneT.testStages ?_ ..
      exact h
    · exact h
  refine LaneT.ite (fun _ => ?_) (fun _ => ?_)
  · refine LaneT.testLock ?_ ..
    exact hx2
  · exact hx2

/-- What those functions may change, as a frame names it. -/
theorem LaneT.within {t : State} (h : LaneT s.partLaneT t) : t.within s [.regs]
  | .regs, hp => (hp (by decide)).elim
  | .time, _ => h.time_eq
  | .inp, _ => h.inp_eq
  | .wq, _ => h.wq_eq
  | .lpe, _ => h.lpe_eq
  | .hmp, _ => h.hmp_eq
  | .prf, _ => h.prf_eq
  | .site, _ => h.site_eq
  | .zfb, _ => h.zfb_eq
  | .wgl, _ => h.wgl_eq
  | .lks, _ => h.lks_eq
  | .link, _ => h.link_eq
  | .chn, _ => h.chn_eq
  | .est, _ => h.est_eq
  | .arr, _ => h.arr_eq
  | .flt, _ => h.flt_eq
  | .mgp, _ => h.mgp_eq
  | .sec, _ => h.sec_eq
  | .pwr, _ => h.pwr_eq
  | .cfg, _ => h.cfg_eq
  | .pins, _ => h.pins_eq
  | .shadow, _ => h.shadow_eq
  | .free, _ => h.free_eq
  | .pending, _ => h.pending_eq

end Sys2Proof.Machine
end

