-- ==== Sys2Proof/Laws/Levels.lean ====
section
/-! SUPPORT. What the level sequencer, droops, the thermal cap and a core test leave alone. -/

namespace Sys2Proof.Machine

/-- The parts of the state that are kept. -/
structure State.LevelsPart where
  inp : InputRt
  wq : List PairWrite
  lpe : LpeRt
  prf : PrfRt
  site : SiteRt
  lks : LksRt
  link : LinkRt
  chn : ChnRt
  est : EstRt
  mgp : MgpRt
  sec : SecRt
  pwr : PwrRt
  cfg : CfgRt
  shadow : List (Nat × Nat × Word)
  free : Nat
  pending : List Instr

/-- Those parts of a state. -/
def State.partLevels (s : State) : State.LevelsPart :=
  ⟨s.inp, s.wq, s.lpe, s.prf, s.site, s.lks, s.link, s.chn, s.est, s.mgp, s.sec, s.pwr, s.cfg, s.shadow, s.free, s.pending⟩

/-- Those parts are the ones given. -/
structure Levels (u : State.LevelsPart) (s : State) : Prop where
  eq : s.partLevels = u

variable {u : State.LevelsPart} {s : State}

theorem Levels.upd {regs time inp wq lpe hmp prf site zfb wgl lks link chn est arr flt mgp sec pwr cfg pins shadow free pending} (h : Levels u s) (h_regs : regs = s.regs) (h_inp : inp = s.inp) (h_wq : wq = s.wq) (h_lpe : lpe = s.lpe) (h_prf : prf = s.prf) (h_site : site = s.site) (h_lks : lks = s.lks) (h_link : link = s.link) (h_chn : chn = s.chn) (h_est : est = s.est) (h_mgp : mgp = s.mgp) (h_sec : sec = s.sec) (h_pwr : pwr = s.pwr) (h_cfg : cfg = s.cfg) (h_shadow : shadow = s.shadow) (h_free : free = s.free) (h_pending : pending = s.pending) :
    Levels u (State.mk regs time inp wq lpe hmp prf site zfb wgl lks link chn est arr flt mgp sec pwr cfg pins shadow free pending) := by
  subst h_regs h_inp h_wq h_lpe h_prf h_site h_lks h_link h_chn h_est h_mgp h_sec h_pwr h_cfg h_shadow h_free h_pending
  exact ⟨h.eq⟩

theorem Levels.rfl' (s : State) : Levels s.partLevels s := ⟨rfl⟩

/-- What a command answers keeps them. -/
def Levelso (u : State.LevelsPart) (o : Host.Outcome State Fault Refusal) : Prop := ∀ t, o = Host.Outcome.next t → Levels u t

theorem Levelso.next (h : Levels u s) : Levelso u (Host.Outcome.next s) := fun t e => by cases e; exact h

theorem Levels.ite {c : Prop} {_ : Decidable c} {a b : State} (ha : c → Levels u a) (hb : ¬c → Levels u b) : Levels u (if c then a else b) := by
  split
  · exact ha ‹_›
  · exact hb ‹_›

theorem Levels.dite {c : Prop} {_ : Decidable c} {a : c → State} {b : ¬c → State} (ha : ∀ h, Levels u (a h)) (hb : ∀ h, Levels u (b h)) :
    Levels u (if h : c then a h else b h) := by
  split
  · exact ha _
  · exact hb _

theorem Levels.iteP {α : Type} {c : Prop} {_ : Decidable c} {a b : State × α} (ha : c → Levels u a.1) (hb : ¬c → Levels u b.1) : Levels u (if c then a else b).1 := by
  split
  · exact ha ‹_›
  · exact hb ‹_›

theorem Levels.diteP {α : Type} {c : Prop} {_ : Decidable c} {a : c → State × α} {b : ¬c → State × α} (ha : ∀ h, Levels u (a h).1) (hb : ∀ h, Levels u (b h).1) :
    Levels u (if h : c then a h else b h).1 := by
  split
  · exact ha _
  · exact hb _

theorem Levels.foldl {α : Type} {l : List α} {f : State → α → State} (hf : ∀ t a, Levels u t → Levels u (f t a)) (h : Levels u s) : Levels u (l.foldl f s) := by
  induction l generalizing s with
  | nil => exact h
  | cons a l ih => exact ih (hf s a h)

theorem Levels.each {n : Nat} {f : Nat → State → State} (hf : ∀ i t, Levels u t → Levels u (f i t)) (h : Levels u s) : Levels u (State.each n f s) :=
  Levels.foldl (fun t a ht => hf a t ht) h

theorem Levels.over {α : Type} {l : List α} {f : α → State → State} (hf : ∀ i t, Levels u t → Levels u (f i t)) (h : Levels u s) : Levels u (State.over l f s) :=
  Levels.foldl (fun t a ht => hf a t ht) h

theorem Levels.iff {c : Bool} {f : State → State} (hf : ∀ t, Levels u t → Levels u (f t)) (h : Levels u s) : Levels u (State.iff c f s) := by
  unfold State.iff
  split
  · exact hf s h
  · exact h

theorem Levels.wr (h : Levels u s) (a w) : Levels u (s.wr a w) := ⟨h.eq⟩

theorem Levels.inp_eq (h : Levels u s) : s.inp = u.inp := congrArg State.LevelsPart.inp h.eq
theorem Levels.wq_eq (h : Levels u s) : s.wq = u.wq := congrArg State.LevelsPart.wq h.eq
theorem Levels.lpe_eq (h : Levels u s) : s.lpe = u.lpe := congrArg State.LevelsPart.lpe h.eq
theorem Levels.prf_eq (h : Levels u s) : s.prf = u.prf := congrArg State.LevelsPart.prf h.eq
theorem Levels.site_eq (h : Levels u s) : s.site = u.site := congrArg State.LevelsPart.site h.eq
theorem Levels.lks_eq (h : Levels u s) : s.lks = u.lks := congrArg State.LevelsPart.lks h.eq
theorem Levels.link_eq (h : Levels u s) : s.link = u.link := congrArg State.LevelsPart.link h.eq
theorem Levels.chn_eq (h : Levels u s) : s.chn = u.chn := congrArg State.LevelsPart.chn h.eq
theorem Levels.est_eq (h : Levels u s) : s.est = u.est := congrArg State.LevelsPart.est h.eq
theorem Levels.mgp_eq (h : Levels u s) : s.mgp = u.mgp := congrArg State.LevelsPart.mgp h.eq
theorem Levels.sec_eq (h : Levels u s) : s.sec = u.sec := congrArg State.LevelsPart.sec h.eq
theorem Levels.pwr_eq (h : Levels u s) : s.pwr = u.pwr := congrArg State.LevelsPart.pwr h.eq
theorem Levels.cfg_eq (h : Levels u s) : s.cfg = u.cfg := congrArg State.LevelsPart.cfg h.eq
theorem Levels.shadow_eq (h : Levels u s) : s.shadow = u.shadow := congrArg State.LevelsPart.shadow h.eq
theorem Levels.free_eq (h : Levels u s) : s.free = u.free := congrArg State.LevelsPart.free h.eq
theorem Levels.pending_eq (h : Levels u s) : s.pending = u.pending := congrArg State.LevelsPart.pending h.eq

theorem Levels.put (h : Levels u s) (a1 a2) : Levels u (State.put s a1 a2) := by
  unfold State.put
  refine Levels.wr ?_ ..
  exact h

theorem Levels.setFlag (h : Levels u s) (a1 a2) : Levels u (State.setFlag s a1 a2) := by
  unfold State.setFlag
  refine Levels.put ?_ ..
  exact h

theorem Levels.bump (h : Levels u s) (a1) : Levels u (State.bump s a1) := by
  unfold State.bump
  refine Levels.put ?_ ..
  exact h

theorem Levels.bumpSat (h : Levels u s) (a1) : Levels u (State.bumpSat s a1) := by
  unfold State.bumpSat
  refine Levels.put ?_ ..
  exact h

theorem Levels.atCycle (h : Levels u s) (a1) : Levels u (State.atCycle s a1) := by
  unfold State.atCycle
  refine Levels.upd ?_ rfl rfl rfl rfl rfl rfl rfl rfl rfl rfl rfl rfl rfl rfl rfl rfl rfl
  exact h

theorem Levels.put64 (h : Levels u s) (a1 a2 a3) : Levels u (State.put64 s a1 a2 a3) := by
  unfold State.put64
  refine Levels.wr ?_ ..
  refine Levels.wr ?_ ..
  exact h

theorem Levels.setOs (h : Levels u s) (a1 a2) : Levels u (State.setOs s a1 a2) := by
  unfold State.setOs
  refine Levels.upd ?_ rfl rfl rfl rfl rfl rfl rfl rfl rfl rfl rfl rfl rfl rfl rfl rfl rfl
  exact h

theorem Levels.putOs (h : Levels u s) (a1 a2 a3) : Levels u (State.putOs s a1 a2 a3) := by
  unfold State.putOs
  refine Levels.put ?_ ..
  refine Levels.put ?_ ..
  exact h

theorem Levels.setLane (h : Levels u s) (a1 a2) : Levels u (State.setLane s a1 a2) := by
  unfold State.setLane
  refine Levels.dite (fun _ => ?_) (fun _ => ?_)
  · refine Levels.upd ?_ rfl rfl rfl rfl rfl rfl rfl rfl rfl rfl rfl rfl rfl rfl rfl rfl rfl
    exact h
  · exact h

theorem Levels.capture (h : Levels u s) (a1 a2 a3 a4) : Levels u (State.capture s a1 a2 a3 a4) := by
  unfold State.capture
  extract_lets +onlyGivenNames -merge -useContext -underBinder x1
  refine Levels.ite (fun _ => ?_) (fun _ => ?_)
  · extract_lets +onlyGivenNames -merge -useContext -underBinder x2
    extract_lets +onlyGivenNames -merge -useContext -underBinder x3
    have hx3 : Levels u x3 := by
      unfold x3
      refine Levels.wr ?_ ..
      exact h
    extract_lets +onlyGivenNames -merge -useContext -underBinder x4
    have hx4 : Levels u x4 := by
      unfold x4
      refine Levels.put64 ?_ ..
      exact hx3
    refine Levels.put ?_ ..
    exact hx4
  · refine Levels.ite (fun _ => ?_) (fun _ => ?_)
    · exact h
    · extract_lets +onlyGivenNames -merge -useContext -underBinder x5
      have hx5 : Levels u x5 := by
        unfold x5
        refine Levels.wr ?_ ..
        exact h
      extract_lets +onlyGivenNames -merge -useContext -underBinder x6
      have hx6 : Levels u x6 := by
        unfold x6
        refine Levels.wr ?_ ..
        exact hx5
      refine Levels.put64 ?_ ..
      exact hx6

theorem Levels.restoreShed (h : Levels u s) (a1) : Levels u (State.restoreShed s a1) := by
  unfold State.restoreShed
  refine Levels.each (fun _ _ ht1 => ?_) ?_
  · refine Levels.ite (fun _ => ?_) (fun _ => ?_)
    · refine Levels.putOs ?_ ..
      exact ht1
    · exact ht1
  · exact h

theorem Levels.leaveBatch (h : Levels u s) (a1) : Levels u (State.leaveBatch s a1) := by
  unfold State.leaveBatch
  refine Levels.ite (fun _ => ?_) (fun _ => ?_)
  · refine Levels.put ?_ ..
    refine Levels.setFlag ?_ ..
    exact h
  · exact h

theorem Levels.fenceOs (h : Levels u s) (a1 a2) : Levels u (State.fenceOs s a1 a2) := by
  unfold State.fenceOs
  extract_lets +onlyGivenNames -merge -useContext -underBinder x1
  have hx1 : Levels u x1 := by
    unfold x1
    refine Levels.setOs ?_ ..
    refine Levels.leaveBatch ?_ ..
    refine Levels.put ?_ ..
    refine Levels.put ?_ ..
    exact h
  refine Levels.ite (fun _ => ?_) (fun _ => ?_)
  · refine Levels.restoreShed ?_ ..
    exact hx1
  · exact hx1

theorem Levels.fenceSs (h : Levels u s) (a1) : Levels u (State.fenceSs s a1) := by
  unfold State.fenceSs
  refine Levels.upd ?_ rfl rfl rfl rfl rfl rfl rfl rfl rfl rfl rfl rfl rfl rfl rfl rfl rfl
  exact h

theorem Levels.fenceFe (h : Levels u s) (a1) : Levels u (State.fenceFe s a1) := by
  unfold State.fenceFe
  refine Levels.upd ?_ rfl rfl rfl rfl rfl rfl rfl rfl rfl rfl rfl rfl rfl rfl rfl rfl rfl
  exact h

theorem Levels.fenceStr (h : Levels u s) (a1) : Levels u (State.fenceStr s a1) := by
  unfold State.fenceStr
  extract_lets +onlyGivenNames -merge -useContext -underBinder x1
  extract_lets +onlyGivenNames -merge -useContext -underBinder x2
  have hx2 : Levels u x2 := by
    unfold x2
    refine Levels.upd ?_ rfl rfl rfl rfl rfl rfl rfl rfl rfl rfl rfl rfl rfl rfl rfl rfl rfl
    exact h
  refine Levels.fenceSs ?_ ..
  refine Levels.fenceSs ?_ ..
  exact hx2

theorem Levels.zoneFenceStage (h : Levels u s) (a1 a2) : Levels u (State.zoneFenceStage s a1 a2) := by
  unfold State.zoneFenceStage
  extract_lets +onlyGivenNames -merge -useContext -underBinder x1
  refine Levels.ite (fun _ => ?_) (fun _ => ?_)
  · refine Levels.setOs ?_ ..
    refine Levels.putOs ?_ ..
    exact h
  · refine Levels.ite (fun _ => ?_) (fun _ => ?_)
    · refine Levels.setOs ?_ ..
      refine Levels.putOs ?_ ..
      exact h
    · refine Levels.ite (fun _ => ?_) (fun _ => ?_)
      · refine Levels.setOs ?_ ..
        refine Levels.putOs ?_ ..
        exact h
      · exact h

theorem Levels.fenceZone (h : Levels u s) (a1) : Levels u (State.fenceZone s a1) := by
  unfold State.fenceZone
  extract_lets +onlyGivenNames -merge -useContext -underBinder x1
  extract_lets +onlyGivenNames -merge -useContext -underBinder x2
  have hx2 : Levels u x2 := by
    unfold x2
    refine Levels.upd ?_ rfl rfl rfl rfl rfl rfl rfl rfl rfl rfl rfl rfl rfl rfl rfl rfl rfl
    exact h
  extract_lets +onlyGivenNames -merge -useContext -underBinder x3
  have hx3 : Levels u x3 := by
    unfold x3
    refine Levels.foldl (fun _ _ ht4 => ?_) ?_
    · refine Levels.zoneFenceStage ?_ ..
      exact ht4
    · exact hx2
  extract_lets +onlyGivenNames -merge -useContext -underBinder x5
  have hx5 : Levels u x5 := by
    unfold x5
    refine Levels.setFlag ?_ ..
    exact hx3
  extract_lets +onlyGivenNames -merge -useContext -underBinder x6
  refine Levels.upd (s := x5) ?_ rfl rfl rfl rfl rfl rfl rfl rfl rfl rfl rfl rfl rfl rfl rfl rfl rfl
  exact hx5

theorem Levels.fenceGroup (h : Levels u s) (a1) : Levels u (State.fenceGroup s a1) := by
  unfold State.fenceGroup
  refine Levels.foldl (fun _ _ ht1 => ?_) ?_
  · refine Levels.ite (fun _ => ?_) (fun _ => ?_)
    · refine Levels.fenceFe ?_ ..
      exact ht1
    · exact ht1
  · exact h

theorem Levels.fenceLane (h : Levels u s) (a1) : Levels u (State.fenceLane s a1) := by
  unfold State.fenceLane
  extract_lets +onlyGivenNames -merge -useContext -underBinder x1
  have hx1 : Levels u x1 := by
    unfold x1
    refine Levels.setFlag ?_ ..
    exact h
  extract_lets +onlyGivenNames -merge -useContext -underBinder x2
  have hx2 : Levels u x2 := by
    unfold x2
    refine Levels.setFlag ?_ ..
    exact hx1
  refine Levels.setLane ?_ ..
  exact hx2

theorem Levels.fenceCore (h : Levels u s) (a1 a2) : Levels u (State.fenceCore s a1 a2) := by
  unfold State.fenceCore
  refine Levels.put ?_ ..
  refine Levels.put ?_ ..
  exact h

theorem Levels.fenceUnit (h : Levels u s) (a1) : Levels u (State.fenceUnit s a1) := by
  unfold State.fenceUnit
  extract_lets +onlyGivenNames -merge -useContext -underBinder x1
  split
  · refine Levels.dite (fun _ => ?_) (fun _ => ?_)
    · refine Levels.fenceOs ?_ ..
      exact h
    · exact h
  · refine Levels.dite (fun _ => ?_) (fun _ => ?_)
    · refine Levels.fenceSs ?_ ..
      exact h
    · exact h
  · refine Levels.dite (fun _ => ?_) (fun _ => ?_)
    · refine Levels.fenceFe ?_ ..
      exact h
    · exact h
  · refine Levels.fenceGroup ?_ ..
    exact h
  · refine Levels.dite (fun _ => ?_) (fun _ => ?_)
    · refine Levels.fenceZone ?_ ..
      exact h
    · exact h
  · refine Levels.dite (fun _ => ?_) (fun _ => ?_)
    · refine Levels.fenceStr ?_ ..
      exact h
    · exact h
  · refine Levels.put ?_ ..
    refine Levels.put ?_ ..
    exact h
  · refine Levels.dite (fun _ => ?_) (fun _ => ?_)
    · refine Levels.fenceLane ?_ ..
      exact h
    · exact h
  · refine Levels.fenceCore ?_ ..
    exact h
  · refine Levels.put ?_ ..
    exact h
  · refine Levels.dite (fun _ => ?_) (fun _ => ?_)
    · refine Levels.upd ?_ rfl rfl rfl rfl rfl rfl rfl rfl rfl rfl rfl rfl rfl rfl rfl rfl rfl
      exact h
    · exact h
  · exact h

theorem Levels.enterSafe (h : Levels u s) : Levels u (State.enterSafe s) := by
  unfold State.enterSafe
  extract_lets +onlyGivenNames -merge -useContext -underBinder x1
  extract_lets +onlyGivenNames -merge -useContext -underBinder x2
  extract_lets +onlyGivenNames -merge -useContext -underBinder x3
  have hx3 : Levels u x3 := by
    unfold x3
    refine Levels.upd ?_ rfl rfl rfl rfl rfl rfl rfl rfl rfl rfl rfl rfl rfl rfl rfl rfl rfl
    exact h
  extract_lets +onlyGivenNames -merge -useContext -underBinder x4
  have hx4 : Levels u x4 := by
    unfold x4
    refine Levels.each (fun _ _ ht5 => ?_) ?_
    · refine Levels.put ?_ ..
      exact ht5
    · exact hx3
  extract_lets +onlyGivenNames -merge -useContext -underBinder x6
  have hx6 : Levels u x6 := by
    unfold x6
    refine Levels.each (fun _ _ ht7 => ?_) ?_
    · refine Levels.put ?_ ..
      exact ht7
    · exact hx4
  refine Levels.setFlag ?_ ..
  refine Levels.put ?_ ..
  exact hx6

theorem Levels.startDump (h : Levels u s) (a1 a2) : Levels u (State.startDump s a1 a2) := by
  unfold State.startDump
  refine Levels.ite (fun _ => ?_) (fun _ => ?_)
  · refine Levels.upd ?_ rfl rfl rfl rfl rfl rfl rfl rfl rfl rfl rfl rfl rfl rfl rfl rfl rfl
    exact h
  · refine Levels.setFlag ?_ ..
    refine Levels.upd ?_ rfl rfl rfl rfl rfl rfl rfl rfl rfl rfl rfl rfl rfl rfl rfl rfl rfl
    exact h

theorem Levels.halt (h : Levels u s) (a1) : Levels u (State.halt s a1) := by
  unfold State.halt
  extract_lets +onlyGivenNames -merge -useContext -underBinder x1
  have hx1 : Levels u x1 := by
    unfold x1
    refine Levels.setFlag ?_ ..
    exact h
  extract_lets +onlyGivenNames -merge -useContext -underBinder x2
  have hx2 : Levels u x2 := by
    unfold x2
    refine Levels.enterSafe ?_ ..
    exact hx1
  refine Levels.ite (fun _ => ?_) (fun _ => ?_)
  · refine Levels.startDump ?_ ..
    refine Levels.upd (s := x2) ?_ rfl rfl rfl rfl rfl rfl rfl rfl rfl rfl rfl rfl rfl rfl rfl rfl rfl
    exact hx2
  · exact hx2

theorem Levels.setPending (h : Levels u s) (a1 a2 a3 a4) : Levels u (State.setPending s a1 a2 a3 a4) := by
  unfold State.setPending
  extract_lets +onlyGivenNames -merge -useContext -underBinder x1
  extract_lets +onlyGivenNames -merge -useContext -underBinder x2
  have hx2 : Levels u x2 := by
    unfold x2
    refine Levels.put ?_ ..
    exact h
  refine Levels.upd (s := x2) ?_ rfl rfl rfl rfl rfl rfl rfl rfl rfl rfl rfl rfl rfl rfl rfl rfl rfl
  exact hx2

theorem Levels.countFault (h : Levels u s) (a1 a2 a3 a4 a5) : Levels u (State.countFault s a1 a2 a3 a4 a5) := by
  unfold State.countFault
  extract_lets +onlyGivenNames -merge -useContext -underBinder x1
  have hx1 : Levels u x1 := by
    unfold x1
    refine Levels.capture ?_ ..
    refine Levels.bump ?_ ..
    exact h
  refine Levels.ite (fun _ => ?_) (fun _ => ?_)
  · refine Levels.upd (s := x1) ?_ rfl rfl rfl rfl rfl rfl rfl rfl rfl rfl rfl rfl rfl rfl rfl rfl rfl
    exact hx1
  · exact hx1

theorem Levels.recordAt (h : Levels u s) (a1 a2 a3 a4 a5 a6 a7) : Levels u (State.recordAt s a1 a2 a3 a4 a5 a6 a7) := by
  unfold State.recordAt
  extract_lets +onlyGivenNames -merge -useContext -underBinder x1
  extract_lets +onlyGivenNames -merge -useContext -underBinder x2
  extract_lets +onlyGivenNames -merge -useContext -underBinder x3
  extract_lets +onlyGivenNames -merge -useContext -underBinder x4
  have hx4 : Levels u x4 := by
    unfold x4
    refine Levels.countFault ?_ ..
    exact h
  refine Levels.ite (fun _ => ?_) (fun _ => ?_)
  · refine Levels.halt ?_ ..
    exact hx4
  · extract_lets +onlyGivenNames -merge -useContext -underBinder x5
    have hx5 : Levels u x5 := by
      unfold x5
      refine Levels.ite (fun _ => ?_) (fun _ => ?_)
      · exact hx4
      · refine Levels.setPending ?_ ..
        exact hx4
    refine Levels.ite (fun _ => ?_) (fun _ => ?_)
    · refine Levels.fenceUnit ?_ ..
      exact hx5
    · exact hx5

theorem Levels.record (h : Levels u s) (a1 a2 a3 a4) : Levels u (State.record s a1 a2 a3 a4) := by
  unfold State.record
  refine Levels.recordAt ?_ ..
  exact h

theorem Levels.seqMark (h : Levels u s) : Levels u (State.seqMark s) := by
  unfold State.seqMark
  refine Levels.upd ?_ rfl rfl rfl rfl rfl rfl rfl rfl rfl rfl rfl rfl rfl rfl rfl rfl rfl
  exact h

theorem Levels.seqEnter (h : Levels u s) (a1) : Levels u (State.seqEnter s a1) := by
  unfold State.seqEnter
  refine Levels.put ?_ ..
  refine Levels.seqMark ?_ ..
  exact h

theorem Levels.levelSeen (h : Levels u s) : Levels u (State.levelSeen s) := by
  unfold State.levelSeen
  refine Levels.upd ?_ rfl rfl rfl rfl rfl rfl rfl rfl rfl rfl rfl rfl rfl rfl rfl rfl rfl
  exact h

theorem Levels.seqGo (h : Levels u s) (a1 a2) : Levels u (State.seqGo s a1 a2) := by
  unfold State.seqGo
  refine Levels.ite (fun _ => ?_) (fun _ => ?_)
  · refine Levels.seqEnter ?_ ..
    refine Levels.setFlag ?_ ..
    exact h
  · refine Levels.ite (fun _ => ?_) (fun _ => ?_)
    · refine Levels.seqEnter ?_ ..
      refine Levels.setFlag ?_ ..
      refine Levels.put ?_ ..
      exact h
    · refine Levels.seqEnter ?_ ..
      refine Levels.setFlag ?_ ..
      exact h

theorem Levels.showMhz (h : Levels u s) (a1) : Levels u (State.showMhz s a1) := by
  unfold State.showMhz
  refine Levels.put ?_ ..
  exact h

theorem Levels.seqNext (h : Levels u s) : Levels u (State.seqNext s) := by
  unfold State.seqNext
  extract_lets +onlyGivenNames -merge -useContext -underBinder x1
  have hx1 : Levels u x1 := by
    unfold x1
    refine Levels.levelSeen ?_ ..
    refine Levels.seqGo ?_ ..
    exact h
  refine Levels.showMhz ?_ ..
  exact hx1

theorem Levels.setEff (h : Levels u s) (a1 a2 a3 a4) : Levels u (State.setEff s a1 a2 a3 a4) := by
  unfold State.setEff
  refine Levels.setFlag ?_ ..
  refine Levels.setFlag ?_ ..
  refine Levels.put ?_ ..
  refine Levels.put ?_ ..
  refine Levels.upd ?_ rfl rfl rfl rfl rfl rfl rfl rfl rfl rfl rfl rfl rfl rfl rfl rfl rfl
  exact h

theorem Levels.showEff (h : Levels u s) : Levels u (State.showEff s) := by
  unfold State.showEff
  refine Levels.setEff ?_ ..
  exact h

theorem Levels.noteConflict (h : Levels u s) (a1) : Levels u (State.noteConflict s a1) := by
  unfold State.noteConflict
  refine Levels.ite (fun _ => ?_) (fun _ => ?_)
  · refine Levels.record ?_ ..
    exact h
  · exact h

theorem Levels.seqStart (h : Levels u s) : Levels u (State.seqStart s) := by
  unfold State.seqStart
  refine Levels.ite (fun _ => ?_) (fun _ => ?_)
  · refine Levels.seqNext ?_ ..
    exact h
  · exact h

theorem Levels.updateEff (h : Levels u s) : Levels u (State.updateEff s) := by
  unfold State.updateEff
  refine Levels.seqStart ?_ ..
  refine Levels.noteConflict ?_ ..
  refine Levels.showEff ?_ ..
  exact h

theorem Levels.railRead (h : Levels u s) (a1 a2) : Levels u (State.railRead s a1 a2) := by
  unfold State.railRead
  refine Levels.put ?_ ..
  refine Levels.atCycle ?_ ..
  exact h

theorem Levels.seqFreeze (h : Levels u s) : Levels u (State.seqFreeze s) := by
  unfold State.seqFreeze
  refine Levels.upd ?_ rfl rfl rfl rfl rfl rfl rfl rfl rfl rfl rfl rfl rfl rfl rfl rfl rfl
  exact h

theorem Levels.enterDroop (h : Levels u s) : Levels u (State.enterDroop s) := by
  unfold State.enterDroop
  refine Levels.record ?_ ..
  refine Levels.bumpSat ?_ ..
  refine Levels.bump ?_ ..
  refine Levels.setFlag ?_ ..
  refine Levels.setFlag ?_ ..
  refine Levels.put ?_ ..
  refine Levels.seqFreeze ?_ ..
  refine Levels.put ?_ ..
  exact h

theorem Levels.droopCap (h : Levels u s) : Levels u (State.droopCap s) := by
  unfold State.droopCap
  refine Levels.ite (fun _ => ?_) (fun _ => ?_)
  · refine Levels.updateEff ?_ ..
    refine Levels.record ?_ ..
    refine Levels.put ?_ ..
    exact h
  · exact h

theorem Levels.execDroopTrip_keeps (h : Levels u s) (a0 a1) : Levelso u (execDroopTrip a0 a1 s) := by
  unfold execDroopTrip
  refine Levelso.next ?_
  refine Levels.ite (fun _ => ?_) (fun _ => ?_)
  · refine Levels.droopCap ?_ ..
    refine Levels.enterDroop ?_ ..
    refine Levels.railRead ?_ ..
    exact h
  · refine Levels.railRead ?_ ..
    exact h

theorem Levels.capReturn (h : Levels u s) : Levels u (State.capReturn s) := by
  unfold State.capReturn
  refine Levels.updateEff ?_ ..
  refine Levels.put ?_ ..
  refine Levels.upd ?_ rfl rfl rfl rfl rfl rfl rfl rfl rfl rfl rfl rfl rfl rfl rfl rfl rfl
  exact h

theorem Levels.seqThaw (h : Levels u s) : Levels u (State.seqThaw s) := by
  unfold State.seqThaw
  refine Levels.upd ?_ rfl rfl rfl rfl rfl rfl rfl rfl rfl rfl rfl rfl rfl rfl rfl rfl rfl
  exact h

theorem Levels.leaveDroop (h : Levels u s) : Levels u (State.leaveDroop s) := by
  unfold State.leaveDroop
  refine Levels.seqThaw ?_ ..
  refine Levels.put ?_ ..
  refine Levels.setFlag ?_ ..
  exact h

theorem Levels.execDroopClear_keeps (h : Levels u s) (a0 a1) : Levelso u (execDroopClear a0 a1 s) := by
  unfold execDroopClear
  refine Levelso.next ?_
  refine Levels.ite (fun _ => ?_) (fun _ => ?_)
  · refine Levels.ite (fun _ => ?_) (fun _ => ?_)
    · refine Levels.capReturn ?_ ..
      refine Levels.leaveDroop ?_ ..
      refine Levels.railRead ?_ ..
      exact h
    · refine Levels.updateEff ?_ ..
      refine Levels.leaveDroop ?_ ..
      refine Levels.railRead ?_ ..
      exact h
  · refine Levels.railRead ?_ ..
    exact h

theorem Levels.junction (h : Levels u s) (a1) : Levels u (State.junction s a1) := by
  unfold State.junction
  refine Levels.put ?_ ..
  refine Levels.upd ?_ rfl rfl rfl rfl rfl rfl rfl rfl rfl rfl rfl rfl rfl rfl rfl rfl rfl
  exact h

theorem Levels.setTherm (h : Levels u s) (a1) : Levels u (State.setTherm s a1) := by
  unfold State.setTherm
  refine Levels.put ?_ ..
  exact h

theorem Levels.execThermalCapLower_keeps (h : Levels u s) (a0) : Levelso u (execThermalCapLower a0 s) := by
  unfold execThermalCapLower
  refine Levelso.next ?_
  refine Levels.ite (fun _ => ?_) (fun _ => ?_)
  · refine Levels.updateEff ?_ ..
    refine Levels.record ?_ ..
    refine Levels.setTherm ?_ ..
    refine Levels.junction ?_ ..
    exact h
  · refine Levels.junction ?_ ..
    exact h

theorem Levels.execThermalCapRestore_keeps (h : Levels u s) (a0) : Levelso u (execThermalCapRestore a0 s) := by
  unfold execThermalCapRestore
  refine Levelso.next ?_
  refine Levels.ite (fun _ => ?_) (fun _ => ?_)
  · refine Levels.updateEff ?_ ..
    refine Levels.setTherm ?_ ..
    refine Levels.junction ?_ ..
    exact h
  · refine Levels.junction ?_ ..
    exact h

/-- What those functions may change, as a frame names it. -/
theorem Levels.within {t : State} (h : Levels s.partLevels t) : t.within s [.regs, .time, .hmp, .zfb, .wgl, .arr, .flt, .pins]
  | .regs, hp => (hp (by decide)).elim
  | .time, hp => (hp (by decide)).elim
  | .inp, _ => h.inp_eq
  | .wq, _ => h.wq_eq
  | .lpe, _ => h.lpe_eq
  | .hmp, hp => (hp (by decide)).elim
  | .prf, _ => h.prf_eq
  | .site, _ => h.site_eq
  | .zfb, hp => (hp (by decide)).elim
  | .wgl, hp => (hp (by decide)).elim
  | .lks, _ => h.lks_eq
  | .link, _ => h.link_eq
  | .chn, _ => h.chn_eq
  | .est, _ => h.est_eq
  | .arr, hp => (hp (by decide)).elim
  | .flt, hp => (hp (by decide)).elim
  | .mgp, _ => h.mgp_eq
  | .sec, _ => h.sec_eq
  | .pwr, _ => h.pwr_eq
  | .cfg, _ => h.cfg_eq
  | .pins, hp => (hp (by decide)).elim
  | .shadow, _ => h.shadow_eq
  | .free, _ => h.free_eq
  | .pending, _ => h.pending_eq

end Sys2Proof.Machine
end

