-- ==== Sys2Proof/Laws/LksK.lean ====
section
/-! SUPPORT. What updates of the lockstep part leave alone. -/

namespace Sys2Proof.Machine

/-- The parts of the state that are kept. -/
structure State.LksKPart where
  regs : Regs
  time : TimeRt
  inp : InputRt
  wq : List PairWrite
  lpe : LpeRt
  hmp : HmpRt
  prf : PrfRt
  site : SiteRt
  zfb : ZfbRt
  wgl : WglRt
  link : LinkRt
  chn : ChnRt
  est : EstRt
  arr : ArrRt
  flt : FltRt
  mgp : MgpRt
  sec : SecRt
  pwr : PwrRt
  cfg : CfgRt
  pins : PinRt
  shadow : List (Nat × Nat × Word)
  free : Nat
  pending : List Instr

/-- Those parts of a state. -/
def State.partLksK (s : State) : State.LksKPart :=
  ⟨s.regs, s.time, s.inp, s.wq, s.lpe, s.hmp, s.prf, s.site, s.zfb, s.wgl, s.link, s.chn, s.est, s.arr, s.flt, s.mgp, s.sec, s.pwr, s.cfg, s.pins, s.shadow, s.free, s.pending⟩

/-- Those parts are the ones given. -/
structure LksK (u : State.LksKPart) (s : State) : Prop where
  eq : s.partLksK = u

variable {u : State.LksKPart} {s : State}

theorem LksK.upd {regs time inp wq lpe hmp prf site zfb wgl lks link chn est arr flt mgp sec pwr cfg pins shadow free pending} (h : LksK u s) (h_regs : regs = s.regs) (h_time : time = s.time) (h_inp : inp = s.inp) (h_wq : wq = s.wq) (h_lpe : lpe = s.lpe) (h_hmp : hmp = s.hmp) (h_prf : prf = s.prf) (h_site : site = s.site) (h_zfb : zfb = s.zfb) (h_wgl : wgl = s.wgl) (h_link : link = s.link) (h_chn : chn = s.chn) (h_est : est = s.est) (h_arr : arr = s.arr) (h_flt : flt = s.flt) (h_mgp : mgp = s.mgp) (h_sec : sec = s.sec) (h_pwr : pwr = s.pwr) (h_cfg : cfg = s.cfg) (h_pins : pins = s.pins) (h_shadow : shadow = s.shadow) (h_free : free = s.free) (h_pending : pending = s.pending) :
    LksK u (State.mk regs time inp wq lpe hmp prf site zfb wgl lks link chn est arr flt mgp sec pwr cfg pins shadow free pending) := by
  subst h_regs h_time h_inp h_wq h_lpe h_hmp h_prf h_site h_zfb h_wgl h_link h_chn h_est h_arr h_flt h_mgp h_sec h_pwr h_cfg h_pins h_shadow h_free h_pending
  exact ⟨h.eq⟩

theorem LksK.rfl' (s : State) : LksK s.partLksK s := ⟨rfl⟩

theorem LksK.ite {c : Prop} {_ : Decidable c} {a b : State} (ha : c → LksK u a) (hb : ¬c → LksK u b) : LksK u (if c then a else b) := by
  split
  · exact ha ‹_›
  · exact hb ‹_›

theorem LksK.dite {c : Prop} {_ : Decidable c} {a : c → State} {b : ¬c → State} (ha : ∀ h, LksK u (a h)) (hb : ∀ h, LksK u (b h)) :
    LksK u (if h : c then a h else b h) := by
  split
  · exact ha _
  · exact hb _

theorem LksK.iteP {α : Type} {c : Prop} {_ : Decidable c} {a b : State × α} (ha : c → LksK u a.1) (hb : ¬c → LksK u b.1) : LksK u (if c then a else b).1 := by
  split
  · exact ha ‹_›
  · exact hb ‹_›

theorem LksK.diteP {α : Type} {c : Prop} {_ : Decidable c} {a : c → State × α} {b : ¬c → State × α} (ha : ∀ h, LksK u (a h).1) (hb : ∀ h, LksK u (b h).1) :
    LksK u (if h : c then a h else b h).1 := by
  split
  · exact ha _
  · exact hb _

theorem LksK.foldl {α : Type} {l : List α} {f : State → α → State} (hf : ∀ t a, LksK u t → LksK u (f t a)) (h : LksK u s) : LksK u (l.foldl f s) := by
  induction l generalizing s with
  | nil => exact h
  | cons a l ih => exact ih (hf s a h)

theorem LksK.each {n : Nat} {f : Nat → State → State} (hf : ∀ i t, LksK u t → LksK u (f i t)) (h : LksK u s) : LksK u (State.each n f s) :=
  LksK.foldl (fun t a ht => hf a t ht) h

theorem LksK.over {α : Type} {l : List α} {f : α → State → State} (hf : ∀ i t, LksK u t → LksK u (f i t)) (h : LksK u s) : LksK u (State.over l f s) :=
  LksK.foldl (fun t a ht => hf a t ht) h

theorem LksK.iff {c : Bool} {f : State → State} (hf : ∀ t, LksK u t → LksK u (f t)) (h : LksK u s) : LksK u (State.iff c f s) := by
  unfold State.iff
  split
  · exact hf s h
  · exact h

theorem LksK.regs_eq (h : LksK u s) : s.regs = u.regs := congrArg State.LksKPart.regs h.eq
theorem LksK.time_eq (h : LksK u s) : s.time = u.time := congrArg State.LksKPart.time h.eq
theorem LksK.inp_eq (h : LksK u s) : s.inp = u.inp := congrArg State.LksKPart.inp h.eq
theorem LksK.wq_eq (h : LksK u s) : s.wq = u.wq := congrArg State.LksKPart.wq h.eq
theorem LksK.lpe_eq (h : LksK u s) : s.lpe = u.lpe := congrArg State.LksKPart.lpe h.eq
theorem LksK.hmp_eq (h : LksK u s) : s.hmp = u.hmp := congrArg State.LksKPart.hmp h.eq
theorem LksK.prf_eq (h : LksK u s) : s.prf = u.prf := congrArg State.LksKPart.prf h.eq
theorem LksK.site_eq (h : LksK u s) : s.site = u.site := congrArg State.LksKPart.site h.eq
theorem LksK.zfb_eq (h : LksK u s) : s.zfb = u.zfb := congrArg State.LksKPart.zfb h.eq
theorem LksK.wgl_eq (h : LksK u s) : s.wgl = u.wgl := congrArg State.LksKPart.wgl h.eq
theorem LksK.link_eq (h : LksK u s) : s.link = u.link := congrArg State.LksKPart.link h.eq
theorem LksK.chn_eq (h : LksK u s) : s.chn = u.chn := congrArg State.LksKPart.chn h.eq
theorem LksK.est_eq (h : LksK u s) : s.est = u.est := congrArg State.LksKPart.est h.eq
theorem LksK.arr_eq (h : LksK u s) : s.arr = u.arr := congrArg State.LksKPart.arr h.eq
theorem LksK.flt_eq (h : LksK u s) : s.flt = u.flt := congrArg State.LksKPart.flt h.eq
theorem LksK.mgp_eq (h : LksK u s) : s.mgp = u.mgp := congrArg State.LksKPart.mgp h.eq
theorem LksK.sec_eq (h : LksK u s) : s.sec = u.sec := congrArg State.LksKPart.sec h.eq
theorem LksK.pwr_eq (h : LksK u s) : s.pwr = u.pwr := congrArg State.LksKPart.pwr h.eq
theorem LksK.cfg_eq (h : LksK u s) : s.cfg = u.cfg := congrArg State.LksKPart.cfg h.eq
theorem LksK.pins_eq (h : LksK u s) : s.pins = u.pins := congrArg State.LksKPart.pins h.eq
theorem LksK.shadow_eq (h : LksK u s) : s.shadow = u.shadow := congrArg State.LksKPart.shadow h.eq
theorem LksK.free_eq (h : LksK u s) : s.free = u.free := congrArg State.LksKPart.free h.eq
theorem LksK.pending_eq (h : LksK u s) : s.pending = u.pending := congrArg State.LksKPart.pending h.eq

theorem LksK.askDynamic (h : LksK u s) : LksK u (State.askDynamic s) := by
  unfold State.askDynamic
  refine LksK.upd ?_ rfl rfl rfl rfl rfl rfl rfl rfl rfl rfl rfl rfl rfl rfl rfl rfl rfl rfl rfl rfl rfl rfl rfl
  exact h

theorem LksK.askStatic (h : LksK u s) : LksK u (State.askStatic s) := by
  unfold State.askStatic
  refine LksK.upd ?_ rfl rfl rfl rfl rfl rfl rfl rfl rfl rfl rfl rfl rfl rfl rfl rfl rfl rfl rfl rfl rfl rfl rfl
  exact h

theorem LksK.waitEnds (h : LksK u s) (a1) : LksK u (State.waitEnds s a1) := by
  unfold State.waitEnds
  refine LksK.upd ?_ rfl rfl rfl rfl rfl rfl rfl rfl rfl rfl rfl rfl rfl rfl rfl rfl rfl rfl rfl rfl rfl rfl rfl
  exact h

theorem LksK.historyTaken (h : LksK u s) : LksK u (State.historyTaken s) := by
  unfold State.historyTaken
  extract_lets +onlyGivenNames -merge -useContext -underBinder x1
  refine LksK.upd ?_ rfl rfl rfl rfl rfl rfl rfl rfl rfl rfl rfl rfl rfl rfl rfl rfl rfl rfl rfl rfl rfl rfl rfl
  exact h

/-- What those functions may change, as a frame names it. -/
theorem LksK.within {t : State} (h : LksK s.partLksK t) : t.within s [.lks]
  | .regs, _ => h.regs_eq
  | .time, _ => h.time_eq
  | .inp, _ => h.inp_eq
  | .wq, _ => h.wq_eq
  | .lpe, _ => h.lpe_eq
  | .hmp, _ => h.hmp_eq
  | .prf, _ => h.prf_eq
  | .site, _ => h.site_eq
  | .zfb, _ => h.zfb_eq
  | .wgl, _ => h.wgl_eq
  | .lks, hp => (hp (by decide)).elim
  | .link, _ => h.link_eq
  | .chn, _ => h.chn_eq
  | .est, _ => h.est_eq
  | .arr, _ => h.arr_eq
  | .flt, _ => h.flt_eq
  | .mgp, _ => h.mgp_eq
  | .sec, _ => h.sec_eq
  | .pwr, _ => h.pwr_eq
  | .cfg, _ => h.cfg_eq
  | .pins, _ => h.pins_eq
  | .shadow, _ => h.shadow_eq
  | .free, _ => h.free_eq
  | .pending, _ => h.pending_eq

end Sys2Proof.Machine
end

