-- ==== Sys2Proof/Laws/LksR.lean ====
section
/-! SUPPORT. What a skipped turn leaves alone. -/

namespace Sys2Proof.Machine

/-- The parts of the state that are kept. -/
structure State.LksRPart where
  time : TimeRt
  inp : InputRt
  wq : List PairWrite
  lpe : LpeRt
  hmp : HmpRt
  prf : PrfRt
  site : SiteRt
  zfb : ZfbRt
  wgl : WglRt
  link : LinkRt
  chn : ChnRt
  est : EstRt
  arr : ArrRt
  flt : FltRt
  mgp : MgpRt
  sec : SecRt
  pwr : PwrRt
  cfg : CfgRt
  pins : PinRt
  shadow : List (Nat × Nat × Word)
  free : Nat
  pending : List Instr

/-- Those parts of a state. -/
def State.partLksR (s : State) : State.LksRPart :=
  ⟨s.time, s.inp, s.wq, s.lpe, s.hmp, s.prf, s.site, s.zfb, s.wgl, s.link, s.chn, s.est, s.arr, s.flt, s.mgp, s.sec, s.pwr, s.cfg, s.pins, s.shadow, s.free, s.pending⟩

/-- Those parts are the ones given. -/
structure LksR (u : State.LksRPart) (s : State) : Prop where
  eq : s.partLksR = u

variable {u : State.LksRPart} {s : State}

theorem LksR.upd {regs time inp wq lpe hmp prf site zfb wgl lks link chn est arr flt mgp sec pwr cfg pins shadow free pending} (h : LksR u s) (h_regs : regs = s.regs) (h_time : time = s.time) (h_inp : inp = s.inp) (h_wq : wq = s.wq) (h_lpe : lpe = s.lpe) (h_hmp : hmp = s.hmp) (h_prf : prf = s.prf) (h_site : site = s.site) (h_zfb : zfb = s.zfb) (h_wgl : wgl = s.wgl) (h_link : link = s.link) (h_chn : chn = s.chn) (h_est : est = s.est) (h_arr : arr = s.arr) (h_flt : flt = s.flt) (h_mgp : mgp = s.mgp) (h_sec : sec = s.sec) (h_pwr : pwr = s.pwr) (h_cfg : cfg = s.cfg) (h_pins : pins = s.pins) (h_shadow : shadow = s.shadow) (h_free : free = s.free) (h_pending : pending = s.pending) :
    LksR u (State.mk regs time inp wq lpe hmp prf site zfb wgl lks link chn est arr flt mgp sec pwr cfg pins shadow free pending) := by
  subst h_regs h_time h_inp h_wq h_lpe h_hmp h_prf h_site h_zfb h_wgl h_link h_chn h_est h_arr h_flt h_mgp h_sec h_pwr h_cfg h_pins h_shadow h_free h_pending
  exact ⟨h.eq⟩

theorem LksR.rfl' (s : State) : LksR s.partLksR s := ⟨rfl⟩

theorem LksR.ite {c : Prop} {_ : Decidable c} {a b : State} (ha : c → LksR u a) (hb : ¬c → LksR u b) : LksR u (if c then a else b) := by
  split
  · exact ha ‹_›
  · exact hb ‹_›

theorem LksR.dite {c : Prop} {_ : Decidable c} {a : c → State} {b : ¬c → State} (ha : ∀ h, LksR u (a h)) (hb : ∀ h, LksR u (b h)) :
    LksR u (if h : c then a h else b h) := by
  split
  · exact ha _
  · exact hb _

theorem LksR.iteP {α : Type} {c : Prop} {_ : Decidable c} {a b : State × α} (ha : c → LksR u a.1) (hb : ¬c → LksR u b.1) : LksR u (if c then a else b).1 := by
  split
  · exact ha ‹_›
  · exact hb ‹_›

theorem LksR.diteP {α : Type} {c : Prop} {_ : Decidable c} {a : c → State × α} {b : ¬c → State × α} (ha : ∀ h, LksR u (a h).1) (hb : ∀ h, LksR u (b h).1) :
    LksR u (if h : c then a h else b h).1 := by
  split
  · exact ha _
  · exact hb _

theorem LksR.foldl {α : Type} {l : List α} {f : State → α → State} (hf : ∀ t a, LksR u t → LksR u (f t a)) (h : LksR u s) : LksR u (l.foldl f s) := by
  induction l generalizing s with
  | nil => exact h
  | cons a l ih => exact ih (hf s a h)

theorem LksR.each {n : Nat} {f : Nat → State → State} (hf : ∀ i t, LksR u t → LksR u (f i t)) (h : LksR u s) : LksR u (State.each n f s) :=
  LksR.foldl (fun t a ht => hf a t ht) h

theorem LksR.over {α : Type} {l : List α} {f : α → State → State} (hf : ∀ i t, LksR u t → LksR u (f i t)) (h : LksR u s) : LksR u (State.over l f s) :=
  LksR.foldl (fun t a ht => hf a t ht) h

theorem LksR.iff {c : Bool} {f : State → State} (hf : ∀ t, LksR u t → LksR u (f t)) (h : LksR u s) : LksR u (State.iff c f s) := by
  unfold State.iff
  split
  · exact hf s h
  · exact h

theorem LksR.wr (h : LksR u s) (a w) : LksR u (s.wr a w) := ⟨h.eq⟩

theorem LksR.time_eq (h : LksR u s) : s.time = u.time := congrArg State.LksRPart.time h.eq
theorem LksR.inp_eq (h : LksR u s) : s.inp = u.inp := congrArg State.LksRPart.inp h.eq
theorem LksR.wq_eq (h : LksR u s) : s.wq = u.wq := congrArg State.LksRPart.wq h.eq
theorem LksR.lpe_eq (h : LksR u s) : s.lpe = u.lpe := congrArg State.LksRPart.lpe h.eq
theorem LksR.hmp_eq (h : LksR u s) : s.hmp = u.hmp := congrArg State.LksRPart.hmp h.eq
theorem LksR.prf_eq (h : LksR u s) : s.prf = u.prf := congrArg State.LksRPart.prf h.eq
theorem LksR.site_eq (h : LksR u s) : s.site = u.site := congrArg State.LksRPart.site h.eq
theorem LksR.zfb_eq (h : LksR u s) : s.zfb = u.zfb := congrArg State.LksRPart.zfb h.eq
theorem LksR.wgl_eq (h : LksR u s) : s.wgl = u.wgl := congrArg State.LksRPart.wgl h.eq
theorem LksR.link_eq (h : LksR u s) : s.link = u.link := congrArg State.LksRPart.link h.eq
theorem LksR.chn_eq (h : LksR u s) : s.chn = u.chn := congrArg State.LksRPart.chn h.eq
theorem LksR.est_eq (h : LksR u s) : s.est = u.est := congrArg State.LksRPart.est h.eq
theorem LksR.arr_eq (h : LksR u s) : s.arr = u.arr := congrArg State.LksRPart.arr h.eq
theorem LksR.flt_eq (h : LksR u s) : s.flt = u.flt := congrArg State.LksRPart.flt h.eq
theorem LksR.mgp_eq (h : LksR u s) : s.mgp = u.mgp := congrArg State.LksRPart.mgp h.eq
theorem LksR.sec_eq (h : LksR u s) : s.sec = u.sec := congrArg State.LksRPart.sec h.eq
theorem LksR.pwr_eq (h : LksR u s) : s.pwr = u.pwr := congrArg State.LksRPart.pwr h.eq
theorem LksR.cfg_eq (h : LksR u s) : s.cfg = u.cfg := congrArg State.LksRPart.cfg h.eq
theorem LksR.pins_eq (h : LksR u s) : s.pins = u.pins := congrArg State.LksRPart.pins h.eq
theorem LksR.shadow_eq (h : LksR u s) : s.shadow = u.shadow := congrArg State.LksRPart.shadow h.eq
theorem LksR.free_eq (h : LksR u s) : s.free = u.free := congrArg State.LksRPart.free h.eq
theorem LksR.pending_eq (h : LksR u s) : s.pending = u.pending := congrArg State.LksRPart.pending h.eq

theorem LksR.put (h : LksR u s) (a1 a2) : LksR u (State.put s a1 a2) := by
  unfold State.put
  refine LksR.wr ?_ ..
  exact h

theorem LksR.skipTurn (h : LksR u s) (a1) : LksR u (State.skipTurn s a1) := by
  unfold State.skipTurn
  refine LksR.put ?_ ..
  refine LksR.upd ?_ rfl rfl rfl rfl rfl rfl rfl rfl rfl rfl rfl rfl rfl rfl rfl rfl rfl rfl rfl rfl rfl rfl rfl
  exact h

/-- What those functions may change, as a frame names it. -/
theorem LksR.within {t : State} (h : LksR s.partLksR t) : t.within s [.regs, .lks]
  | .regs, hp => (hp (by decide)).elim
  | .time, _ => h.time_eq
  | .inp, _ => h.inp_eq
  | .wq, _ => h.wq_eq
  | .lpe, _ => h.lpe_eq
  | .hmp, _ => h.hmp_eq
  | .prf, _ => h.prf_eq
  | .site, _ => h.site_eq
  | .zfb, _ => h.zfb_eq
  | .wgl, _ => h.wgl_eq
  | .lks, hp => (hp (by decide)).elim
  | .link, _ => h.link_eq
  | .chn, _ => h.chn_eq
  | .est, _ => h.est_eq
  | .arr, _ => h.arr_eq
  | .flt, _ => h.flt_eq
  | .mgp, _ => h.mgp_eq
  | .sec, _ => h.sec_eq
  | .pwr, _ => h.pwr_eq
  | .cfg, _ => h.cfg_eq
  | .pins, _ => h.pins_eq
  | .shadow, _ => h.shadow_eq
  | .free, _ => h.free_eq
  | .pending, _ => h.pending_eq

end Sys2Proof.Machine
end

