-- ==== Sys2Proof/Laws/MgpK.lean ====
section
/-! SUPPORT. What replies and the ends of sessions leave alone. -/

namespace Sys2Proof.Machine

/-- The parts of the state that are kept. -/
structure State.MgpKPart where
  time : TimeRt
  inp : InputRt
  wq : List PairWrite
  lpe : LpeRt
  hmp : HmpRt
  prf : PrfRt
  site : SiteRt
  zfb : ZfbRt
  wgl : WglRt
  lks : LksRt
  link : LinkRt
  chn : ChnRt
  est : EstRt
  arr : ArrRt
  flt : FltRt
  pwr : PwrRt
  cfg : CfgRt
  pins : PinRt
  shadow : List (Nat × Nat × Word)
  pending : List Instr

/-- Those parts of a state. -/
def State.partMgpK (s : State) : State.MgpKPart :=
  ⟨s.time, s.inp, s.wq, s.lpe, s.hmp, s.prf, s.site, s.zfb, s.wgl, s.lks, s.link, s.chn, s.est, s.arr, s.flt, s.pwr, s.cfg, s.pins, s.shadow, s.pending⟩

/-- Those parts are the ones given. -/
structure MgpK (u : State.MgpKPart) (s : State) : Prop where
  eq : s.partMgpK = u

variable {u : State.MgpKPart} {s : State}

theorem MgpK.upd {regs time inp wq lpe hmp prf site zfb wgl lks link chn est arr flt mgp sec pwr cfg pins shadow free pending} (h : MgpK u s) (h_regs : regs = s.regs) (h_time : time = s.time) (h_inp : inp = s.inp) (h_wq : wq = s.wq) (h_lpe : lpe = s.lpe) (h_hmp : hmp = s.hmp) (h_prf : prf = s.prf) (h_site : site = s.site) (h_zfb : zfb = s.zfb) (h_wgl : wgl = s.wgl) (h_lks : lks = s.lks) (h_link : link = s.link) (h_chn : chn = s.chn) (h_est : est = s.est) (h_arr : arr = s.arr) (h_flt : flt = s.flt) (h_pwr : pwr = s.pwr) (h_cfg : cfg = s.cfg) (h_pins : pins = s.pins) (h_shadow : shadow = s.shadow) (h_pending : pending = s.pending) :
    MgpK u (State.mk regs time inp wq lpe hmp prf site zfb wgl lks link chn est arr flt mgp sec pwr cfg pins shadow free pending) := by
  subst h_regs h_time h_inp h_wq h_lpe h_hmp h_prf h_site h_zfb h_wgl h_lks h_link h_chn h_est h_arr h_flt h_pwr h_cfg h_pins h_shadow h_pending
  exact ⟨h.eq⟩

theorem MgpK.rfl' (s : State) : MgpK s.partMgpK s := ⟨rfl⟩

theorem MgpK.ite {c : Prop} {_ : Decidable c} {a b : State} (ha : c → MgpK u a) (hb : ¬c → MgpK u b) : MgpK u (if c then a else b) := by
  split
  · exact ha ‹_›
  · exact hb ‹_›

theorem MgpK.dite {c : Prop} {_ : Decidable c} {a : c → State} {b : ¬c → State} (ha : ∀ h, MgpK u (a h)) (hb : ∀ h, MgpK u (b h)) :
    MgpK u (if h : c then a h else b h) := by
  split
  · exact ha _
  · exact hb _

theorem MgpK.iteP {α : Type} {c : Prop} {_ : Decidable c} {a b : State × α} (ha : c → MgpK u a.1) (hb : ¬c → MgpK u b.1) : MgpK u (if c then a else b).1 := by
  split
  · exact ha ‹_›
  · exact hb ‹_›

theorem MgpK.diteP {α : Type} {c : Prop} {_ : Decidable c} {a : c → State × α} {b : ¬c → State × α} (ha : ∀ h, MgpK u (a h).1) (hb : ∀ h, MgpK u (b h).1) :
    MgpK u (if h : c then a h else b h).1 := by
  split
  · exact ha _
  · exact hb _

theorem MgpK.foldl {α : Type} {l : List α} {f : State → α → State} (hf : ∀ t a, MgpK u t → MgpK u (f t a)) (h : MgpK u s) : MgpK u (l.foldl f s) := by
  induction l generalizing s with
  | nil => exact h
  | cons a l ih => exact ih (hf s a h)

theorem MgpK.each {n : Nat} {f : Nat → State → State} (hf : ∀ i t, MgpK u t → MgpK u (f i t)) (h : MgpK u s) : MgpK u (State.each n f s) :=
  MgpK.foldl (fun t a ht => hf a t ht) h

theorem MgpK.over {α : Type} {l : List α} {f : α → State → State} (hf : ∀ i t, MgpK u t → MgpK u (f i t)) (h : MgpK u s) : MgpK u (State.over l f s) :=
  MgpK.foldl (fun t a ht => hf a t ht) h

theorem MgpK.iff {c : Bool} {f : State → State} (hf : ∀ t, MgpK u t → MgpK u (f t)) (h : MgpK u s) : MgpK u (State.iff c f s) := by
  unfold State.iff
  split
  · exact hf s h
  · exact h

theorem MgpK.wr (h : MgpK u s) (a w) : MgpK u (s.wr a w) := ⟨h.eq⟩

theorem MgpK.time_eq (h : MgpK u s) : s.time = u.time := congrArg State.MgpKPart.time h.eq
theorem MgpK.inp_eq (h : MgpK u s) : s.inp = u.inp := congrArg State.MgpKPart.inp h.eq
theorem MgpK.wq_eq (h : MgpK u s) : s.wq = u.wq := congrArg State.MgpKPart.wq h.eq
theorem MgpK.lpe_eq (h : MgpK u s) : s.lpe = u.lpe := congrArg State.MgpKPart.lpe h.eq
theorem MgpK.hmp_eq (h : MgpK u s) : s.hmp = u.hmp := congrArg State.MgpKPart.hmp h.eq
theorem MgpK.prf_eq (h : MgpK u s) : s.prf = u.prf := congrArg State.MgpKPart.prf h.eq
theorem MgpK.site_eq (h : MgpK u s) : s.site = u.site := congrArg State.MgpKPart.site h.eq
theorem MgpK.zfb_eq (h : MgpK u s) : s.zfb = u.zfb := congrArg State.MgpKPart.zfb h.eq
theorem MgpK.wgl_eq (h : MgpK u s) : s.wgl = u.wgl := congrArg State.MgpKPart.wgl h.eq
theorem MgpK.lks_eq (h : MgpK u s) : s.lks = u.lks := congrArg State.MgpKPart.lks h.eq
theorem MgpK.link_eq (h : MgpK u s) : s.link = u.link := congrArg State.MgpKPart.link h.eq
theorem MgpK.chn_eq (h : MgpK u s) : s.chn = u.chn := congrArg State.MgpKPart.chn h.eq
theorem MgpK.est_eq (h : MgpK u s) : s.est = u.est := congrArg State.MgpKPart.est h.eq
theorem MgpK.arr_eq (h : MgpK u s) : s.arr = u.arr := congrArg State.MgpKPart.arr h.eq
theorem MgpK.flt_eq (h : MgpK u s) : s.flt = u.flt := congrArg State.MgpKPart.flt h.eq
theorem MgpK.pwr_eq (h : MgpK u s) : s.pwr = u.pwr := congrArg State.MgpKPart.pwr h.eq
theorem MgpK.cfg_eq (h : MgpK u s) : s.cfg = u.cfg := congrArg State.MgpKPart.cfg h.eq
theorem MgpK.pins_eq (h : MgpK u s) : s.pins = u.pins := congrArg State.MgpKPart.pins h.eq
theorem MgpK.shadow_eq (h : MgpK u s) : s.shadow = u.shadow := congrArg State.MgpKPart.shadow h.eq
theorem MgpK.pending_eq (h : MgpK u s) : s.pending = u.pending := congrArg State.MgpKPart.pending h.eq

theorem MgpK.put (h : MgpK u s) (a1 a2) : MgpK u (State.put s a1 a2) := by
  unfold State.put
  refine MgpK.wr ?_ ..
  exact h

theorem MgpK.setFlag (h : MgpK u s) (a1 a2) : MgpK u (State.setFlag s a1 a2) := by
  unfold State.setFlag
  refine MgpK.put ?_ ..
  exact h

theorem MgpK.bump (h : MgpK u s) (a1) : MgpK u (State.bump s a1) := by
  unfold State.bump
  refine MgpK.put ?_ ..
  exact h

theorem MgpK.put64 (h : MgpK u s) (a1 a2 a3) : MgpK u (State.put64 s a1 a2 a3) := by
  unfold State.put64
  refine MgpK.wr ?_ ..
  refine MgpK.wr ?_ ..
  exact h

theorem MgpK.auditRegs (h : MgpK u s) : MgpK u (State.auditRegs s) := by
  unfold State.auditRegs
  extract_lets +onlyGivenNames -merge -useContext -underBinder x1
  refine MgpK.setFlag ?_ ..
  refine MgpK.put ?_ ..
  refine MgpK.put64 ?_ ..
  exact h

theorem MgpK.unstage (h : MgpK u s) (a1) : MgpK u (State.unstage s a1) := by
  unfold State.unstage
  refine MgpK.upd ?_ rfl rfl rfl rfl rfl rfl rfl rfl rfl rfl rfl rfl rfl rfl rfl rfl rfl rfl rfl rfl rfl
  exact h

theorem MgpK.auditMove (h : MgpK u s) : MgpK u (State.auditMove s) := by
  unfold State.auditMove
  extract_lets +onlyGivenNames -merge -useContext -underBinder x1
  extract_lets +onlyGivenNames -merge -useContext -underBinder x2
  extract_lets +onlyGivenNames -merge -useContext -underBinder x3
  extract_lets +onlyGivenNames -merge -useContext -underBinder x4
  refine MgpK.auditRegs ?_ ..
  refine MgpK.unstage ?_ ..
  exact h

theorem MgpK.addEntry (h : MgpK u s) (a1 a2) : MgpK u (State.addEntry s a1 a2) := by
  unfold State.addEntry
  refine MgpK.upd ?_ rfl rfl rfl rfl rfl rfl rfl rfl rfl rfl rfl rfl rfl rfl rfl rfl rfl rfl rfl rfl rfl
  exact h

theorem MgpK.audit (h : MgpK u s) (a1 a2 a3 a4 a5 a6) : MgpK u (State.audit s a1 a2 a3 a4 a5 a6) := by
  unfold State.audit
  extract_lets +onlyGivenNames -merge -useContext -underBinder x1
  extract_lets +onlyGivenNames -merge -useContext -underBinder x2
  have hx2 : MgpK u x2 := by
    unfold x2
    refine MgpK.auditRegs ?_ ..
    refine MgpK.addEntry ?_ ..
    exact h
  refine MgpK.ite (fun _ => ?_) (fun _ => ?_)
  · refine MgpK.auditMove ?_ ..
    exact hx2
  · exact hx2

theorem MgpK.sessionRegs (h : MgpK u s) : MgpK u (State.sessionRegs s) := by
  unfold State.sessionRegs
  extract_lets +onlyGivenNames -merge -useContext -underBinder x1
  extract_lets +onlyGivenNames -merge -useContext -underBinder x2
  have hx2 : MgpK u x2 := by
    unfold x2
    refine MgpK.each (fun _ _ ht3 => ?_) ?_
    · refine MgpK.put ?_ ..
      exact ht3
    · exact h
  refine MgpK.put ?_ ..
  refine MgpK.put ?_ ..
  refine MgpK.put ?_ ..
  exact hx2

theorem MgpK.semRegs (h : MgpK u s) : MgpK u (State.semRegs s) := by
  unfold State.semRegs
  split
  · refine MgpK.put ?_ ..
    refine MgpK.put ?_ ..
    refine MgpK.put ?_ ..
    refine MgpK.setFlag ?_ ..
    exact h
  · extract_lets +onlyGivenNames -merge -useContext -underBinder x1
    refine MgpK.put ?_ ..
    refine MgpK.put ?_ ..
    refine MgpK.put ?_ ..
    refine MgpK.setFlag ?_ ..
    exact h

theorem MgpK.setSem (h : MgpK u s) (a1) : MgpK u (State.setSem s a1) := by
  unfold State.setSem
  refine MgpK.upd ?_ rfl rfl rfl rfl rfl rfl rfl rfl rfl rfl rfl rfl rfl rfl rfl rfl rfl rfl rfl rfl rfl
  exact h

theorem MgpK.semFree (h : MgpK u s) : MgpK u (State.semFree s) := by
  unfold State.semFree
  refine MgpK.semRegs ?_ ..
  refine MgpK.setSem ?_ ..
  exact h

theorem MgpK.dropSession (h : MgpK u s) (a1 a2) : MgpK u (State.dropSession s a1 a2) := by
  unfold State.dropSession
  refine MgpK.upd ?_ rfl rfl rfl rfl rfl rfl rfl rfl rfl rfl rfl rfl rfl rfl rfl rfl rfl rfl rfl rfl rfl
  exact h

theorem MgpK.endSession (h : MgpK u s) (a1 a2) : MgpK u (State.endSession s a1 a2) := by
  unfold State.endSession
  split
  · exact h
  · extract_lets +onlyGivenNames -merge -useContext -underBinder x1
    have hx1 : MgpK u x1 := by
      unfold x1
      refine MgpK.ite (fun _ => ?_) (fun _ => ?_)
      · refine MgpK.semFree ?_ ..
        exact h
      · exact h
    extract_lets +onlyGivenNames -merge -useContext -underBinder x2
    have hx2 : MgpK u x2 := by
      unfold x2
      refine MgpK.dropSession ?_ ..
      exact hx1
    refine MgpK.sessionRegs ?_ ..
    refine MgpK.audit ?_ ..
    exact hx2

theorem MgpK.endSessions (h : MgpK u s) (a1) : MgpK u (State.endSessions s a1) := by
  unfold State.endSessions
  refine MgpK.foldl (fun _ _ ht1 => ?_) ?_
  · refine MgpK.endSession ?_ ..
    exact ht1
  · exact h

theorem MgpK.setSession (h : MgpK u s) (a1 a2 a3) : MgpK u (State.setSession s a1 a2 a3) := by
  unfold State.setSession
  refine MgpK.upd ?_ rfl rfl rfl rfl rfl rfl rfl rfl rfl rfl rfl rfl rfl rfl rfl rfl rfl rfl rfl rfl rfl
  exact h

theorem MgpK.windowRegs (h : MgpK u s) : MgpK u (State.windowRegs s) := by
  unfold State.windowRegs
  refine MgpK.each (fun _ _ ht1 => ?_) ?_
  · refine MgpK.put ?_ ..
    exact ht1
  · exact h

theorem MgpK.sendNow (h : MgpK u s) (a1 a2) : MgpK u (State.sendNow s a1 a2) := by
  unfold State.sendNow
  refine MgpK.upd ?_ rfl rfl rfl rfl rfl rfl rfl rfl rfl rfl rfl rfl rfl rfl rfl rfl rfl rfl rfl rfl rfl
  exact h

theorem MgpK.countReply (h : MgpK u s) (a1 a2) : MgpK u (State.countReply s a1 a2) := by
  unfold State.countReply
  refine MgpK.ite (fun _ => ?_) (fun _ => ?_)
  · refine MgpK.ite (fun _ => ?_) (fun _ => ?_)
    · refine MgpK.bump ?_ ..
      exact h
    · refine MgpK.ite (fun _ => ?_) (fun _ => ?_)
      · refine MgpK.bump ?_ ..
        exact h
      · exact h
  · exact h

theorem MgpK.keepReply (h : MgpK u s) (a1 a2) : MgpK u (State.keepReply s a1 a2) := by
  unfold State.keepReply
  refine MgpK.setSession ?_ ..
  exact h

theorem MgpK.send (h : MgpK u s) (a1 a2 a3) : MgpK u (State.send s a1 a2 a3) := by
  unfold State.send
  extract_lets +onlyGivenNames -merge -useContext -underBinder x1
  extract_lets +onlyGivenNames -merge -useContext -underBinder x2
  have hx2 : MgpK u x2 := by
    unfold x2
    refine MgpK.countReply ?_ ..
    refine MgpK.sendNow ?_ ..
    exact h
  extract_lets +onlyGivenNames -merge -useContext -underBinder x3
  have hx3 : MgpK u x3 := by
    unfold x3
    refine MgpK.ite (fun _ => ?_) (fun _ => ?_)
    · refine MgpK.keepReply ?_ ..
      exact hx2
    · exact hx2
  refine MgpK.ite (fun _ => ?_) (fun _ => ?_)
  · refine MgpK.endSession ?_ ..
    exact hx3
  · exact hx3

theorem MgpK.early (h : MgpK u s) (a1 a2 a3) : MgpK u (State.early s a1 a2 a3) := by
  unfold State.early
  refine MgpK.send ?_ ..
  exact h

theorem MgpK.answer (h : MgpK u s) (a1 a2 a3 a4 a5 a6) : MgpK u (State.answer s a1 a2 a3 a4 a5 a6) := by
  unfold State.answer
  extract_lets +onlyGivenNames -merge -useContext -underBinder x1
  extract_lets +onlyGivenNames -merge -useContext -underBinder x2
  have hx2 : MgpK u x2 := by
    unfold x2
    refine MgpK.ite (fun _ => ?_) (fun _ => ?_)
    · refine MgpK.audit ?_ ..
      exact h
    · exact h
  refine MgpK.send ?_ ..
  exact hx2

theorem MgpK.okWith (h : MgpK u s) (a1 a2 a3 a4) : MgpK u (State.okWith s a1 a2 a3 a4) := by
  unfold State.okWith
  refine MgpK.answer ?_ ..
  exact h

theorem MgpK.okAsync (h : MgpK u s) (a1 a2 a3) : MgpK u (State.okAsync s a1 a2 a3) := by
  unfold State.okAsync
  extract_lets +onlyGivenNames -merge -useContext -underBinder x1
  extract_lets +onlyGivenNames -merge -useContext -underBinder x2
  have hx2 : MgpK u x2 := by
    unfold x2
    refine MgpK.ite (fun _ => ?_) (fun _ => ?_)
    · refine MgpK.audit ?_ ..
      exact h
    · exact h
  refine MgpK.send ?_ ..
  exact hx2

theorem MgpK.later (h : MgpK u s) (a1 a2 a3 a4 a5 a6) : MgpK u (State.later s a1 a2 a3 a4 a5 a6) := by
  unfold State.later
  extract_lets +onlyGivenNames -merge -useContext -underBinder x1
  refine MgpK.windowRegs ?_ ..
  refine MgpK.upd ?_ rfl rfl rfl rfl rfl rfl rfl rfl rfl rfl rfl rfl rfl rfl rfl rfl rfl rfl rfl rfl rfl
  exact h

theorem MgpK.release (h : MgpK u s) (a1 a2) : MgpK u (State.release s a1 a2) := by
  unfold State.release
  extract_lets +onlyGivenNames -merge -useContext -underBinder x1
  extract_lets +onlyGivenNames -merge -useContext -underBinder x2
  have hx2 : MgpK u x2 := by
    unfold x2
    split
    · refine MgpK.audit ?_ ..
      exact h
    · exact h
  refine MgpK.windowRegs ?_ ..
  refine MgpK.send ?_ ..
  exact hx2

theorem MgpK.offerNonce (h : MgpK u s) (a1 a2) : MgpK u (State.offerNonce s a1 a2) := by
  unfold State.offerNonce
  refine MgpK.upd ?_ rfl rfl rfl rfl rfl rfl rfl rfl rfl rfl rfl rfl rfl rfl rfl rfl rfl rfl rfl rfl rfl
  exact h

theorem MgpK.hello (h : MgpK u s) (a1) : MgpK u (State.hello s a1) := by
  unfold State.hello
  extract_lets +onlyGivenNames -merge -useContext -underBinder x1
  split
  · refine MgpK.send ?_ ..
    exact h
  · extract_lets +onlyGivenNames -merge -useContext -underBinder x2
    extract_lets +onlyGivenNames -merge -useContext -underBinder x3
    have hx3 : MgpK u x3 := by
      unfold x3
      refine MgpK.offerNonce ?_ ..
      exact h
    extract_lets +onlyGivenNames -merge -useContext -underBinder x4
    refine MgpK.send ?_ ..
    exact hx3

theorem MgpK.sessionCloseRun (h : MgpK u s) (a1 a2) : MgpK u (State.sessionCloseRun s a1 a2) := by
  unfold State.sessionCloseRun
  refine MgpK.endSession ?_ ..
  refine MgpK.okWith ?_ ..
  exact h

theorem MgpK.holdSem (h : MgpK u s) (a1) : MgpK u (State.holdSem s a1) := by
  unfold State.holdSem
  refine MgpK.semRegs ?_ ..
  refine MgpK.setSem ?_ ..
  exact h

theorem MgpK.semAcquireRun (h : MgpK u s) (a1 a2) : MgpK u (State.semAcquireRun s a1 a2) := by
  unfold State.semAcquireRun
  refine MgpK.ite (fun _ => ?_) (fun _ => ?_)
  · extract_lets +onlyGivenNames -merge -useContext -underBinder x1
    have hx1 : MgpK u x1 := by
      unfold x1
      refine MgpK.holdSem ?_ ..
      exact h
    extract_lets +onlyGivenNames -merge -useContext -underBinder x2
    have hx2 : MgpK u x2 := by
      unfold x2
      refine MgpK.audit ?_ ..
      exact hx1
    refine MgpK.okWith ?_ ..
    exact hx2
  · refine MgpK.answer ?_ ..
    exact h

theorem MgpK.semReleaseRun (h : MgpK u s) (a1 a2) : MgpK u (State.semReleaseRun s a1 a2) := by
  unfold State.semReleaseRun
  refine MgpK.ite (fun _ => ?_) (fun _ => ?_)
  · refine MgpK.okWith ?_ ..
    refine MgpK.audit ?_ ..
    refine MgpK.semFree ?_ ..
    exact h
  · refine MgpK.ite (fun _ => ?_) (fun _ => ?_)
    · refine MgpK.okWith ?_ ..
      exact h
    · refine MgpK.answer ?_ ..
      exact h

/-- What those functions may change, as a frame names it. -/
theorem MgpK.within {t : State} (h : MgpK s.partMgpK t) : t.within s [.regs, .mgp, .sec, .free]
  | .regs, hp => (hp (by decide)).elim
  | .time, _ => h.time_eq
  | .inp, _ => h.inp_eq
  | .wq, _ => h.wq_eq
  | .lpe, _ => h.lpe_eq
  | .hmp, _ => h.hmp_eq
  | .prf, _ => h.prf_eq
  | .site, _ => h.site_eq
  | .zfb, _ => h.zfb_eq
  | .wgl, _ => h.wgl_eq
  | .lks, _ => h.lks_eq
  | .link, _ => h.link_eq
  | .chn, _ => h.chn_eq
  | .est, _ => h.est_eq
  | .arr, _ => h.arr_eq
  | .flt, _ => h.flt_eq
  | .mgp, hp => (hp (by decide)).elim
  | .sec, hp => (hp (by decide)).elim
  | .pwr, _ => h.pwr_eq
  | .cfg, _ => h.cfg_eq
  | .pins, _ => h.pins_eq
  | .shadow, _ => h.shadow_eq
  | .free, hp => (hp (by decide)).elim
  | .pending, _ => h.pending_eq

end Sys2Proof.Machine
end

