-- ==== Sys2Proof/Laws/PassK.lean ====
section
/-! SUPPORT. What the end of a pass leaves alone. -/

namespace Sys2Proof.Machine

/-- The parts of the state that are kept. -/
structure State.PassKPart where
  time : TimeRt
  inp : InputRt
  wq : List PairWrite
  lpe : LpeRt
  prf : PrfRt
  site : SiteRt
  lks : LksRt
  link : LinkRt
  chn : ChnRt
  est : EstRt
  mgp : MgpRt
  sec : SecRt
  pwr : PwrRt
  cfg : CfgRt
  shadow : List (Nat × Nat × Word)
  free : Nat
  pending : List Instr

/-- Those parts of a state. -/
def State.partPassK (s : State) : State.PassKPart :=
  ⟨s.time, s.inp, s.wq, s.lpe, s.prf, s.site, s.lks, s.link, s.chn, s.est, s.mgp, s.sec, s.pwr, s.cfg, s.shadow, s.free, s.pending⟩

/-- Those parts are the ones given. -/
structure PassK (u : State.PassKPart) (s : State) : Prop where
  eq : s.partPassK = u

variable {u : State.PassKPart} {s : State}

theorem PassK.upd {regs time inp wq lpe hmp prf site zfb wgl lks link chn est arr flt mgp sec pwr cfg pins shadow free pending} (h : PassK u s) (h_regs : regs = s.regs) (h_time : time = s.time) (h_inp : inp = s.inp) (h_wq : wq = s.wq) (h_lpe : lpe = s.lpe) (h_prf : prf = s.prf) (h_site : site = s.site) (h_lks : lks = s.lks) (h_link : link = s.link) (h_chn : chn = s.chn) (h_est : est = s.est) (h_mgp : mgp = s.mgp) (h_sec : sec = s.sec) (h_pwr : pwr = s.pwr) (h_cfg : cfg = s.cfg) (h_shadow : shadow = s.shadow) (h_free : free = s.free) (h_pending : pending = s.pending) :
    PassK u (State.mk regs time inp wq lpe hmp prf site zfb wgl lks link chn est arr flt mgp sec pwr cfg pins shadow free pending) := by
  subst h_regs h_time h_inp h_wq h_lpe h_prf h_site h_lks h_link h_chn h_est h_mgp h_sec h_pwr h_cfg h_shadow h_free h_pending
  exact ⟨h.eq⟩

theorem PassK.rfl' (s : State) : PassK s.partPassK s := ⟨rfl⟩

/-- What a command answers keeps them. -/
def PassKo (u : State.PassKPart) (o : Host.Outcome State Fault Refusal) : Prop := ∀ t, o = Host.Outcome.next t → PassK u t

theorem PassKo.next (h : PassK u s) : PassKo u (Host.Outcome.next s) := fun t e => by cases e; exact h

theorem PassK.ite {c : Prop} {_ : Decidable c} {a b : State} (ha : c → PassK u a) (hb : ¬c → PassK u b) : PassK u (if c then a else b) := by
  split
  · exact ha ‹_›
  · exact hb ‹_›

theorem PassK.dite {c : Prop} {_ : Decidable c} {a : c → State} {b : ¬c → State} (ha : ∀ h, PassK u (a h)) (hb : ∀ h, PassK u (b h)) :
    PassK u (if h : c then a h else b h) := by
  split
  · exact ha _
  · exact hb _

theorem PassK.iteP {α : Type} {c : Prop} {_ : Decidable c} {a b : State × α} (ha : c → PassK u a.1) (hb : ¬c → PassK u b.1) : PassK u (if c then a else b).1 := by
  split
  · exact ha ‹_›
  · exact hb ‹_›

theorem PassK.diteP {α : Type} {c : Prop} {_ : Decidable c} {a : c → State × α} {b : ¬c → State × α} (ha : ∀ h, PassK u (a h).1) (hb : ∀ h, PassK u (b h).1) :
    PassK u (if h : c then a h else b h).1 := by
  split
  · exact ha _
  · exact hb _

theorem PassK.foldl {α : Type} {l : List α} {f : State → α → State} (hf : ∀ t a, PassK u t → PassK u (f t a)) (h : PassK u s) : PassK u (l.foldl f s) := by
  induction l generalizing s with
  | nil => exact h
  | cons a l ih => exact ih (hf s a h)

theorem PassK.each {n : Nat} {f : Nat → State → State} (hf : ∀ i t, PassK u t → PassK u (f i t)) (h : PassK u s) : PassK u (State.each n f s) :=
  PassK.foldl (fun t a ht => hf a t ht) h

theorem PassK.over {α : Type} {l : List α} {f : α → State → State} (hf : ∀ i t, PassK u t → PassK u (f i t)) (h : PassK u s) : PassK u (State.over l f s) :=
  PassK.foldl (fun t a ht => hf a t ht) h

theorem PassK.iff {c : Bool} {f : State → State} (hf : ∀ t, PassK u t → PassK u (f t)) (h : PassK u s) : PassK u (State.iff c f s) := by
  unfold State.iff
  split
  · exact hf s h
  · exact h

theorem PassK.wr (h : PassK u s) (a w) : PassK u (s.wr a w) := ⟨h.eq⟩

theorem PassK.time_eq (h : PassK u s) : s.time = u.time := congrArg State.PassKPart.time h.eq
theorem PassK.inp_eq (h : PassK u s) : s.inp = u.inp := congrArg State.PassKPart.inp h.eq
theorem PassK.wq_eq (h : PassK u s) : s.wq = u.wq := congrArg State.PassKPart.wq h.eq
theorem PassK.lpe_eq (h : PassK u s) : s.lpe = u.lpe := congrArg State.PassKPart.lpe h.eq
theorem PassK.prf_eq (h : PassK u s) : s.prf = u.prf := congrArg State.PassKPart.prf h.eq
theorem PassK.site_eq (h : PassK u s) : s.site = u.site := congrArg State.PassKPart.site h.eq
theorem PassK.lks_eq (h : PassK u s) : s.lks = u.lks := congrArg State.PassKPart.lks h.eq
theorem PassK.link_eq (h : PassK u s) : s.link = u.link := congrArg State.PassKPart.link h.eq
theorem PassK.chn_eq (h : PassK u s) : s.chn = u.chn := congrArg State.PassKPart.chn h.eq
theorem PassK.est_eq (h : PassK u s) : s.est = u.est := congrArg State.PassKPart.est h.eq
theorem PassK.mgp_eq (h : PassK u s) : s.mgp = u.mgp := congrArg State.PassKPart.mgp h.eq
theorem PassK.sec_eq (h : PassK u s) : s.sec = u.sec := congrArg State.PassKPart.sec h.eq
theorem PassK.pwr_eq (h : PassK u s) : s.pwr = u.pwr := congrArg State.PassKPart.pwr h.eq
theorem PassK.cfg_eq (h : PassK u s) : s.cfg = u.cfg := congrArg State.PassKPart.cfg h.eq
theorem PassK.shadow_eq (h : PassK u s) : s.shadow = u.shadow := congrArg State.PassKPart.shadow h.eq
theorem PassK.free_eq (h : PassK u s) : s.free = u.free := congrArg State.PassKPart.free h.eq
theorem PassK.pending_eq (h : PassK u s) : s.pending = u.pending := congrArg State.PassKPart.pending h.eq

theorem PassK.put (h : PassK u s) (a1 a2) : PassK u (State.put s a1 a2) := by
  unfold State.put
  refine PassK.wr ?_ ..
  exact h

theorem PassK.setFlag (h : PassK u s) (a1 a2) : PassK u (State.setFlag s a1 a2) := by
  unfold State.setFlag
  refine PassK.put ?_ ..
  exact h

theorem PassK.bump (h : PassK u s) (a1) : PassK u (State.bump s a1) := by
  unfold State.bump
  refine PassK.put ?_ ..
  exact h

theorem PassK.bumpSat (h : PassK u s) (a1) : PassK u (State.bumpSat s a1) := by
  unfold State.bumpSat
  refine PassK.put ?_ ..
  exact h

theorem PassK.put64 (h : PassK u s) (a1 a2 a3) : PassK u (State.put64 s a1 a2 a3) := by
  unfold State.put64
  refine PassK.wr ?_ ..
  refine PassK.wr ?_ ..
  exact h

theorem PassK.setOs (h : PassK u s) (a1 a2) : PassK u (State.setOs s a1 a2) := by
  unfold State.setOs
  refine PassK.upd ?_ rfl rfl rfl rfl rfl rfl rfl rfl rfl rfl rfl rfl rfl rfl rfl rfl rfl rfl
  exact h

theorem PassK.putOs (h : PassK u s) (a1 a2 a3) : PassK u (State.putOs s a1 a2 a3) := by
  unfold State.putOs
  refine PassK.put ?_ ..
  refine PassK.put ?_ ..
  exact h

theorem PassK.setLane (h : PassK u s) (a1 a2) : PassK u (State.setLane s a1 a2) := by
  unfold State.setLane
  refine PassK.dite (fun _ => ?_) (fun _ => ?_)
  · refine PassK.upd ?_ rfl rfl rfl rfl rfl rfl rfl rfl rfl rfl rfl rfl rfl rfl rfl rfl rfl rfl
    exact h
  · exact h

theorem PassK.capture (h : PassK u s) (a1 a2 a3 a4) : PassK u (State.capture s a1 a2 a3 a4) := by
  unfold State.capture
  extract_lets +onlyGivenNames -merge -useContext -underBinder x1
  refine PassK.ite (fun _ => ?_) (fun _ => ?_)
  · extract_lets +onlyGivenNames -merge -useContext -underBinder x2
    extract_lets +onlyGivenNames -merge -useContext -underBinder x3
    have hx3 : PassK u x3 := by
      unfold x3
      refine PassK.wr ?_ ..
      exact h
    extract_lets +onlyGivenNames -merge -useContext -underBinder x4
    have hx4 : PassK u x4 := by
      unfold x4
      refine PassK.put64 ?_ ..
      exact hx3
    refine PassK.put ?_ ..
    exact hx4
  · refine PassK.ite (fun _ => ?_) (fun _ => ?_)
    · exact h
    · extract_lets +onlyGivenNames -merge -useContext -underBinder x5
      have hx5 : PassK u x5 := by
        unfold x5
        refine PassK.wr ?_ ..
        exact h
      extract_lets +onlyGivenNames -merge -useContext -underBinder x6
      have hx6 : PassK u x6 := by
        unfold x6
        refine PassK.wr ?_ ..
        exact hx5
      refine PassK.put64 ?_ ..
      exact hx6

theorem PassK.restoreShed (h : PassK u s) (a1) : PassK u (State.restoreShed s a1) := by
  unfold State.restoreShed
  refine PassK.each (fun _ _ ht1 => ?_) ?_
  · refine PassK.ite (fun _ => ?_) (fun _ => ?_)
    · refine PassK.putOs ?_ ..
      exact ht1
    · exact ht1
  · exact h

theorem PassK.leaveBatch (h : PassK u s) (a1) : PassK u (State.leaveBatch s a1) := by
  unfold State.leaveBatch
  refine PassK.ite (fun _ => ?_) (fun _ => ?_)
  · refine PassK.put ?_ ..
    refine PassK.setFlag ?_ ..
    exact h
  · exact h

theorem PassK.fenceOs (h : PassK u s) (a1 a2) : PassK u (State.fenceOs s a1 a2) := by
  unfold State.fenceOs
  extract_lets +onlyGivenNames -merge -useContext -underBinder x1
  have hx1 : PassK u x1 := by
    unfold x1
    refine PassK.setOs ?_ ..
    refine PassK.leaveBatch ?_ ..
    refine PassK.put ?_ ..
    refine PassK.put ?_ ..
    exact h
  refine PassK.ite (fun _ => ?_) (fun _ => ?_)
  · refine PassK.restoreShed ?_ ..
    exact hx1
  · exact hx1

theorem PassK.fenceSs (h : PassK u s) (a1) : PassK u (State.fenceSs s a1) := by
  unfold State.fenceSs
  refine PassK.upd ?_ rfl rfl rfl rfl rfl rfl rfl rfl rfl rfl rfl rfl rfl rfl rfl rfl rfl rfl
  exact h

theorem PassK.fenceFe (h : PassK u s) (a1) : PassK u (State.fenceFe s a1) := by
  unfold State.fenceFe
  refine PassK.upd ?_ rfl rfl rfl rfl rfl rfl rfl rfl rfl rfl rfl rfl rfl rfl rfl rfl rfl rfl
  exact h

theorem PassK.fenceStr (h : PassK u s) (a1) : PassK u (State.fenceStr s a1) := by
  unfold State.fenceStr
  extract_lets +onlyGivenNames -merge -useContext -underBinder x1
  extract_lets +onlyGivenNames -merge -useContext -underBinder x2
  have hx2 : PassK u x2 := by
    unfold x2
    refine PassK.upd ?_ rfl rfl rfl rfl rfl rfl rfl rfl rfl rfl rfl rfl rfl rfl rfl rfl rfl rfl
    exact h
  refine PassK.fenceSs ?_ ..
  refine PassK.fenceSs ?_ ..
  exact hx2

theorem PassK.zoneFenceStage (h : PassK u s) (a1 a2) : PassK u (State.zoneFenceStage s a1 a2) := by
  unfold State.zoneFenceStage
  extract_lets +onlyGivenNames -merge -useContext -underBinder x1
  refine PassK.ite (fun _ => ?_) (fun _ => ?_)
  · refine PassK.setOs ?_ ..
    refine PassK.putOs ?_ ..
    exact h
  · refine PassK.ite (fun _ => ?_) (fun _ => ?_)
    · refine PassK.setOs ?_ ..
      refine PassK.putOs ?_ ..
      exact h
    · refine PassK.ite (fun _ => ?_) (fun _ => ?_)
      · refine PassK.setOs ?_ ..
        refine PassK.putOs ?_ ..
        exact h
      · exact h

theorem PassK.fenceZone (h : PassK u s) (a1) : PassK u (State.fenceZone s a1) := by
  unfold State.fenceZone
  extract_lets +onlyGivenNames -merge -useContext -underBinder x1
  extract_lets +onlyGivenNames -merge -useContext -underBinder x2
  have hx2 : PassK u x2 := by
    unfold x2
    refine PassK.upd ?_ rfl rfl rfl rfl rfl rfl rfl rfl rfl rfl rfl rfl rfl rfl rfl rfl rfl rfl
    exact h
  extract_lets +onlyGivenNames -merge -useContext -underBinder x3
  have hx3 : PassK u x3 := by
    unfold x3
    refine PassK.foldl (fun _ _ ht4 => ?_) ?_
    · refine PassK.zoneFenceStage ?_ ..
      exact ht4
    · exact hx2
  extract_lets +onlyGivenNames -merge -useContext -underBinder x5
  have hx5 : PassK u x5 := by
    unfold x5
    refine PassK.setFlag ?_ ..
    exact hx3
  extract_lets +onlyGivenNames -merge -useContext -underBinder x6
  refine PassK.upd (s := x5) ?_ rfl rfl rfl rfl rfl rfl rfl rfl rfl rfl rfl rfl rfl rfl rfl rfl rfl rfl
  exact hx5

theorem PassK.fenceGroup (h : PassK u s) (a1) : PassK u (State.fenceGroup s a1) := by
  unfold State.fenceGroup
  refine PassK.foldl (fun _ _ ht1 => ?_) ?_
  · refine PassK.ite (fun _ => ?_) (fun _ => ?_)
    · refine PassK.fenceFe ?_ ..
      exact ht1
    · exact ht1
  · exact h

theorem PassK.fenceLane (h : PassK u s) (a1) : PassK u (State.fenceLane s a1) := by
  unfold State.fenceLane
  extract_lets +onlyGivenNames -merge -useContext -underBinder x1
  have hx1 : PassK u x1 := by
    unfold x1
    refine PassK.setFlag ?_ ..
    exact h
  extract_lets +onlyGivenNames -merge -useContext -underBinder x2
  have hx2 : PassK u x2 := by
    unfold x2
    refine PassK.setFlag ?_ ..
    exact hx1
  refine PassK.setLane ?_ ..
  exact hx2

theorem PassK.fenceCore (h : PassK u s) (a1 a2) : PassK u (State.fenceCore s a1 a2) := by
  unfold State.fenceCore
  refine PassK.put ?_ ..
  refine PassK.put ?_ ..
  exact h

theorem PassK.fenceUnit (h : PassK u s) (a1) : PassK u (State.fenceUnit s a1) := by
  unfold State.fenceUnit
  extract_lets +onlyGivenNames -merge -useContext -underBinder x1
  split
  · refine PassK.dite (fun _ => ?_) (fun _ => ?_)
    · refine PassK.fenceOs ?_ ..
      exact h
    · exact h
  · refine PassK.dite (fun _ => ?_) (fun _ => ?_)
    · refine PassK.fenceSs ?_ ..
      exact h
    · exact h
  · refine PassK.dite (fun _ => ?_) (fun _ => ?_)
    · refine PassK.fenceFe ?_ ..
      exact h
    · exact h
  · refine PassK.fenceGroup ?_ ..
    exact h
  · refine PassK.dite (fun _ => ?_) (fun _ => ?_)
    · refine PassK.fenceZone ?_ ..
      exact h
    · exact h
  · refine PassK.dite (fun _ => ?_) (fun _ => ?_)
    · refine PassK.fenceStr ?_ ..
      exact h
    · exact h
  · refine PassK.put ?_ ..
    refine PassK.put ?_ ..
    exact h
  · refine PassK.dite (fun _ => ?_) (fun _ => ?_)
    · refine PassK.fenceLane ?_ ..
      exact h
    · exact h
  · refine PassK.fenceCore ?_ ..
    exact h
  · refine PassK.put ?_ ..
    exact h
  · refine PassK.dite (fun _ => ?_) (fun _ => ?_)
    · refine PassK.upd ?_ rfl rfl rfl rfl rfl rfl rfl rfl rfl rfl rfl rfl rfl rfl rfl rfl rfl rfl
      exact h
    · exact h
  · exact h

theorem PassK.enterSafe (h : PassK u s) : PassK u (State.enterSafe s) := by
  unfold State.enterSafe
  extract_lets +onlyGivenNames -merge -useContext -underBinder x1
  extract_lets +onlyGivenNames -merge -useContext -underBinder x2
  extract_lets +onlyGivenNames -merge -useContext -underBinder x3
  have hx3 : PassK u x3 := by
    unfold x3
    refine PassK.upd ?_ rfl rfl rfl rfl rfl rfl rfl rfl rfl rfl rfl rfl rfl rfl rfl rfl rfl rfl
    exact h
  extract_lets +onlyGivenNames -merge -useContext -underBinder x4
  have hx4 : PassK u x4 := by
    unfold x4
    refine PassK.each (fun _ _ ht5 => ?_) ?_
    · refine PassK.put ?_ ..
      exact ht5
    · exact hx3
  extract_lets +onlyGivenNames -merge -useContext -underBinder x6
  have hx6 : PassK u x6 := by
    unfold x6
    refine PassK.each (fun _ _ ht7 => ?_) ?_
    · refine PassK.put ?_ ..
      exact ht7
    · exact hx4
  refine PassK.setFlag ?_ ..
  refine PassK.put ?_ ..
  exact hx6

theorem PassK.startDump (h : PassK u s) (a1 a2) : PassK u (State.startDump s a1 a2) := by
  unfold State.startDump
  refine PassK.ite (fun _ => ?_) (fun _ => ?_)
  · refine PassK.upd ?_ rfl rfl rfl rfl rfl rfl rfl rfl rfl rfl rfl rfl rfl rfl rfl rfl rfl rfl
    exact h
  · refine PassK.setFlag ?_ ..
    refine PassK.upd ?_ rfl rfl rfl rfl rfl rfl rfl rfl rfl rfl rfl rfl rfl rfl rfl rfl rfl rfl
    exact h

theorem PassK.halt (h : PassK u s) (a1) : PassK u (State.halt s a1) := by
  unfold State.halt
  extract_lets +onlyGivenNames -merge -useContext -underBinder x1
  have hx1 : PassK u x1 := by
    unfold x1
    refine PassK.setFlag ?_ ..
    exact h
  extract_lets +onlyGivenNames -merge -useContext -underBinder x2
  have hx2 : PassK u x2 := by
    unfold x2
    refine PassK.enterSafe ?_ ..
    exact hx1
  refine PassK.ite (fun _ => ?_) (fun _ => ?_)
  · refine PassK.startDump ?_ ..
    refine PassK.upd (s := x2) ?_ rfl rfl rfl rfl rfl rfl rfl rfl rfl rfl rfl rfl rfl rfl rfl rfl rfl rfl
    exact hx2
  · exact hx2

theorem PassK.setPending (h : PassK u s) (a1 a2 a3 a4) : PassK u (State.setPending s a1 a2 a3 a4) := by
  unfold State.setPending
  extract_lets +onlyGivenNames -merge -useContext -underBinder x1
  extract_lets +onlyGivenNames -merge -useContext -underBinder x2
  have hx2 : PassK u x2 := by
    unfold x2
    refine PassK.put ?_ ..
    exact h
  refine PassK.upd (s := x2) ?_ rfl rfl rfl rfl rfl rfl rfl rfl rfl rfl rfl rfl rfl rfl rfl rfl rfl rfl
  exact hx2

theorem PassK.countFault (h : PassK u s) (a1 a2 a3 a4 a5) : PassK u (State.countFault s a1 a2 a3 a4 a5) := by
  unfold State.countFault
  extract_lets +onlyGivenNames -merge -useContext -underBinder x1
  have hx1 : PassK u x1 := by
    unfold x1
    refine PassK.capture ?_ ..
    refine PassK.bump ?_ ..
    exact h
  refine PassK.ite (fun _ => ?_) (fun _ => ?_)
  · refine PassK.upd (s := x1) ?_ rfl rfl rfl rfl rfl rfl rfl rfl rfl rfl rfl rfl rfl rfl rfl rfl rfl rfl
    exact hx1
  · exact hx1

theorem PassK.recordAt (h : PassK u s) (a1 a2 a3 a4 a5 a6 a7) : PassK u (State.recordAt s a1 a2 a3 a4 a5 a6 a7) := by
  unfold State.recordAt
  extract_lets +onlyGivenNames -merge -useContext -underBinder x1
  extract_lets +onlyGivenNames -merge -useContext -underBinder x2
  extract_lets +onlyGivenNames -merge -useContext -underBinder x3
  extract_lets +onlyGivenNames -merge -useContext -underBinder x4
  have hx4 : PassK u x4 := by
    unfold x4
    refine PassK.countFault ?_ ..
    exact h
  refine PassK.ite (fun _ => ?_) (fun _ => ?_)
  · refine PassK.halt ?_ ..
    exact hx4
  · extract_lets +onlyGivenNames -merge -useContext -underBinder x5
    have hx5 : PassK u x5 := by
      unfold x5
      refine PassK.ite (fun _ => ?_) (fun _ => ?_)
      · exact hx4
      · refine PassK.setPending ?_ ..
        exact hx4
    refine PassK.ite (fun _ => ?_) (fun _ => ?_)
    · refine PassK.fenceUnit ?_ ..
      exact hx5
    · exact hx5

theorem PassK.record (h : PassK u s) (a1 a2 a3 a4) : PassK u (State.record s a1 a2 a3 a4) := by
  unfold State.record
  refine PassK.recordAt ?_ ..
  exact h

theorem PassK.setCore (h : PassK u s) (a1 a2) : PassK u (State.setCore s a1 a2) := by
  unfold State.setCore
  refine PassK.upd ?_ rfl rfl rfl rfl rfl rfl rfl rfl rfl rfl rfl rfl rfl rfl rfl rfl rfl rfl
  exact h

theorem PassK.countCores (h : PassK u s) : PassK u (State.countCores s) := by
  unfold State.countCores
  extract_lets +onlyGivenNames -merge -useContext -underBinder x1
  refine PassK.put ?_ ..
  refine PassK.put ?_ ..
  refine PassK.put ?_ ..
  refine PassK.put ?_ ..
  exact h

theorem PassK.fenceCoreNow (h : PassK u s) (a1 a2) : PassK u (State.fenceCoreNow s a1 a2) := by
  unfold State.fenceCoreNow
  refine PassK.countCores ?_ ..
  refine PassK.setCore ?_ ..
  refine PassK.put ?_ ..
  refine PassK.fenceCore ?_ ..
  exact h

theorem PassK.setSlot (h : PassK u s) (a1 a2) : PassK u (State.setSlot s a1 a2) := by
  unfold State.setSlot
  refine PassK.upd ?_ rfl rfl rfl rfl rfl rfl rfl rfl rfl rfl rfl rfl rfl rfl rfl rfl rfl rfl
  exact h

theorem PassK.spoil (h : PassK u s) (a1) : PassK u (State.spoil s a1) := by
  unfold State.spoil
  refine PassK.setSlot ?_ ..
  exact h

theorem PassK.actError (h : PassK u s) (a0 a2) : PassK u (State.actError a0 s a2) := by
  unfold State.actError
  refine PassK.ite (fun _ => ?_) (fun _ => ?_)
  · refine PassK.record ?_ ..
    refine PassK.bump ?_ ..
    exact h
  · refine PassK.spoil ?_ ..
    refine PassK.record ?_ ..
    refine PassK.bumpSat ?_ ..
    exact h

theorem PassK.activationErrors (h : PassK u s) (a1) : PassK u (State.activationErrors s a1) := by
  unfold State.activationErrors
  refine PassK.foldl (fun _ _ ht1 => ?_) ?_
  · refine PassK.actError ?_ ..
    exact ht1
  · refine PassK.upd ?_ rfl rfl rfl rfl rfl rfl rfl rfl rfl rfl rfl rfl rfl rfl rfl rfl rfl rfl
    exact h

theorem PassK.leavePass (h : PassK u s) (a1) : PassK u (State.leavePass s a1) := by
  unfold State.leavePass
  refine PassK.ite (fun _ => ?_) (fun _ => ?_)
  · refine PassK.fenceCoreNow ?_ ..
    exact h
  · refine PassK.ite (fun _ => ?_) (fun _ => ?_)
    · refine PassK.put ?_ ..
      exact h
    · exact h

theorem PassK.corePass (h : PassK u s) (a1) : PassK u (State.corePass s a1) := by
  unfold State.corePass
  split
  · exact h
  · refine PassK.dite (fun _ => ?_) (fun _ => ?_)
    · refine PassK.leavePass ?_ ..
      refine PassK.put ?_ ..
      exact h
    · exact h

theorem PassK.passDone (h : PassK u s) (a1 a2 a3) : PassK u (State.passDone s a1 a2 a3) := by
  unfold State.passDone
  refine PassK.put ?_ ..
  refine PassK.activationErrors ?_ ..
  refine PassK.foldl (fun _ _ ht1 => ?_) ?_
  · refine PassK.corePass ?_ ..
    exact ht1
  · refine PassK.setSlot ?_ ..
    exact h

theorem PassK.execBasketPass_keeps (h : PassK u s) (a0 a1 a2) : PassKo u (execBasketPass a0 a1 a2 s) := by
  unfold execBasketPass
  refine PassKo.next ?_
  refine PassK.ite (fun _ => ?_) (fun _ => ?_)
  · refine PassK.passDone ?_ ..
    exact h
  · exact h

/-- What those functions may change, as a frame names it. -/
theorem PassK.within {t : State} (h : PassK s.partPassK t) : t.within s [.regs, .hmp, .zfb, .wgl, .arr, .flt, .pins]
  | .regs, hp => (hp (by decide)).elim
  | .time, _ => h.time_eq
  | .inp, _ => h.inp_eq
  | .wq, _ => h.wq_eq
  | .lpe, _ => h.lpe_eq
  | .hmp, hp => (hp (by decide)).elim
  | .prf, _ => h.prf_eq
  | .site, _ => h.site_eq
  | .zfb, hp => (hp (by decide)).elim
  | .wgl, hp => (hp (by decide)).elim
  | .lks, _ => h.lks_eq
  | .link, _ => h.link_eq
  | .chn, _ => h.chn_eq
  | .est, _ => h.est_eq
  | .arr, hp => (hp (by decide)).elim
  | .flt, hp => (hp (by decide)).elim
  | .mgp, _ => h.mgp_eq
  | .sec, _ => h.sec_eq
  | .pwr, _ => h.pwr_eq
  | .cfg, _ => h.cfg_eq
  | .pins, hp => (hp (by decide)).elim
  | .shadow, _ => h.shadow_eq
  | .free, _ => h.free_eq
  | .pending, _ => h.pending_eq

end Sys2Proof.Machine
end

