-- ==== Sys2Proof/Laws/PhaseL.lean ====
section
/-! SUPPORT. What a phase of the bit-error test leaves alone. -/

namespace Sys2Proof.Machine

/-- The parts of the state that are kept. -/
structure State.PhaseLPart where
  time : TimeRt
  inp : InputRt
  wq : List PairWrite
  lpe : LpeRt
  hmp : HmpRt
  prf : PrfRt
  site : SiteRt
  zfb : ZfbRt
  wgl : WglRt
  lks : LksRt
  chn : ChnRt
  est : EstRt
  arr : ArrRt
  flt : FltRt
  mgp : MgpRt
  sec : SecRt
  pwr : PwrRt
  cfg : CfgRt
  pins : PinRt
  shadow : List (Nat × Nat × Word)
  free : Nat
  pending : List Instr

/-- Those parts of a state. -/
def State.partPhaseL (s : State) : State.PhaseLPart :=
  ⟨s.time, s.inp, s.wq, s.lpe, s.hmp, s.prf, s.site, s.zfb, s.wgl, s.lks, s.chn, s.est, s.arr, s.flt, s.mgp, s.sec, s.pwr, s.cfg, s.pins, s.shadow, s.free, s.pending⟩

/-- Those parts are the ones given. -/
structure PhaseL (u : State.PhaseLPart) (s : State) : Prop where
  eq : s.partPhaseL = u

variable {u : State.PhaseLPart} {s : State}

theorem PhaseL.upd {regs time inp wq lpe hmp prf site zfb wgl lks link chn est arr flt mgp sec pwr cfg pins shadow free pending} (h : PhaseL u s) (h_regs : regs = s.regs) (h_time : time = s.time) (h_inp : inp = s.inp) (h_wq : wq = s.wq) (h_lpe : lpe = s.lpe) (h_hmp : hmp = s.hmp) (h_prf : prf = s.prf) (h_site : site = s.site) (h_zfb : zfb = s.zfb) (h_wgl : wgl = s.wgl) (h_lks : lks = s.lks) (h_chn : chn = s.chn) (h_est : est = s.est) (h_arr : arr = s.arr) (h_flt : flt = s.flt) (h_mgp : mgp = s.mgp) (h_sec : sec = s.sec) (h_pwr : pwr = s.pwr) (h_cfg : cfg = s.cfg) (h_pins : pins = s.pins) (h_shadow : shadow = s.shadow) (h_free : free = s.free) (h_pending : pending = s.pending) :
    PhaseL u (State.mk regs time inp wq lpe hmp prf site zfb wgl lks link chn est arr flt mgp sec pwr cfg pins shadow free pending) := by
  subst h_regs h_time h_inp h_wq h_lpe h_hmp h_prf h_site h_zfb h_wgl h_lks h_chn h_est h_arr h_flt h_mgp h_sec h_pwr h_cfg h_pins h_shadow h_free h_pending
  exact ⟨h.eq⟩

theorem PhaseL.rfl' (s : State) : PhaseL s.partPhaseL s := ⟨rfl⟩

theorem PhaseL.ite {c : Prop} {_ : Decidable c} {a b : State} (ha : c → PhaseL u a) (hb : ¬c → PhaseL u b) : PhaseL u (if c then a else b) := by
  split
  · exact ha ‹_›
  · exact hb ‹_›

theorem PhaseL.dite {c : Prop} {_ : Decidable c} {a : c → State} {b : ¬c → State} (ha : ∀ h, PhaseL u (a h)) (hb : ∀ h, PhaseL u (b h)) :
    PhaseL u (if h : c then a h else b h) := by
  split
  · exact ha _
  · exact hb _

theorem PhaseL.iteP {α : Type} {c : Prop} {_ : Decidable c} {a b : State × α} (ha : c → PhaseL u a.1) (hb : ¬c → PhaseL u b.1) : PhaseL u (if c then a else b).1 := by
  split
  · exact ha ‹_›
  · exact hb ‹_›

theorem PhaseL.diteP {α : Type} {c : Prop} {_ : Decidable c} {a : c → State × α} {b : ¬c → State × α} (ha : ∀ h, PhaseL u (a h).1) (hb : ∀ h, PhaseL u (b h).1) :
    PhaseL u (if h : c then a h else b h).1 := by
  split
  · exact ha _
  · exact hb _

theorem PhaseL.foldl {α : Type} {l : List α} {f : State → α → State} (hf : ∀ t a, PhaseL u t → PhaseL u (f t a)) (h : PhaseL u s) : PhaseL u (l.foldl f s) := by
  induction l generalizing s with
  | nil => exact h
  | cons a l ih => exact ih (hf s a h)

theorem PhaseL.each {n : Nat} {f : Nat → State → State} (hf : ∀ i t, PhaseL u t → PhaseL u (f i t)) (h : PhaseL u s) : PhaseL u (State.each n f s) :=
  PhaseL.foldl (fun t a ht => hf a t ht) h

theorem PhaseL.over {α : Type} {l : List α} {f : α → State → State} (hf : ∀ i t, PhaseL u t → PhaseL u (f i t)) (h : PhaseL u s) : PhaseL u (State.over l f s) :=
  PhaseL.foldl (fun t a ht => hf a t ht) h

theorem PhaseL.iff {c : Bool} {f : State → State} (hf : ∀ t, PhaseL u t → PhaseL u (f t)) (h : PhaseL u s) : PhaseL u (State.iff c f s) := by
  unfold State.iff
  split
  · exact hf s h
  · exact h

theorem PhaseL.wr (h : PhaseL u s) (a w) : PhaseL u (s.wr a w) := ⟨h.eq⟩

theorem PhaseL.time_eq (h : PhaseL u s) : s.time = u.time := congrArg State.PhaseLPart.time h.eq
theorem PhaseL.inp_eq (h : PhaseL u s) : s.inp = u.inp := congrArg State.PhaseLPart.inp h.eq
theorem PhaseL.wq_eq (h : PhaseL u s) : s.wq = u.wq := congrArg State.PhaseLPart.wq h.eq
theorem PhaseL.lpe_eq (h : PhaseL u s) : s.lpe = u.lpe := congrArg State.PhaseLPart.lpe h.eq
theorem PhaseL.hmp_eq (h : PhaseL u s) : s.hmp = u.hmp := congrArg State.PhaseLPart.hmp h.eq
theorem PhaseL.prf_eq (h : PhaseL u s) : s.prf = u.prf := congrArg State.PhaseLPart.prf h.eq
theorem PhaseL.site_eq (h : PhaseL u s) : s.site = u.site := congrArg State.PhaseLPart.site h.eq
theorem PhaseL.zfb_eq (h : PhaseL u s) : s.zfb = u.zfb := congrArg State.PhaseLPart.zfb h.eq
theorem PhaseL.wgl_eq (h : PhaseL u s) : s.wgl = u.wgl := congrArg State.PhaseLPart.wgl h.eq
theorem PhaseL.lks_eq (h : PhaseL u s) : s.lks = u.lks := congrArg State.PhaseLPart.lks h.eq
theorem PhaseL.chn_eq (h : PhaseL u s) : s.chn = u.chn := congrArg State.PhaseLPart.chn h.eq
theorem PhaseL.est_eq (h : PhaseL u s) : s.est = u.est := congrArg State.PhaseLPart.est h.eq
theorem PhaseL.arr_eq (h : PhaseL u s) : s.arr = u.arr := congrArg State.PhaseLPart.arr h.eq
theorem PhaseL.flt_eq (h : PhaseL u s) : s.flt = u.flt := congrArg State.PhaseLPart.flt h.eq
theorem PhaseL.mgp_eq (h : PhaseL u s) : s.mgp = u.mgp := congrArg State.PhaseLPart.mgp h.eq
theorem PhaseL.sec_eq (h : PhaseL u s) : s.sec = u.sec := congrArg State.PhaseLPart.sec h.eq
theorem PhaseL.pwr_eq (h : PhaseL u s) : s.pwr = u.pwr := congrArg State.PhaseLPart.pwr h.eq
theorem PhaseL.cfg_eq (h : PhaseL u s) : s.cfg = u.cfg := congrArg State.PhaseLPart.cfg h.eq
theorem PhaseL.pins_eq (h : PhaseL u s) : s.pins = u.pins := congrArg State.PhaseLPart.pins h.eq
theorem PhaseL.shadow_eq (h : PhaseL u s) : s.shadow = u.shadow := congrArg State.PhaseLPart.shadow h.eq
theorem PhaseL.free_eq (h : PhaseL u s) : s.free = u.free := congrArg State.PhaseLPart.free h.eq
theorem PhaseL.pending_eq (h : PhaseL u s) : s.pending = u.pending := congrArg State.PhaseLPart.pending h.eq

theorem PhaseL.put (h : PhaseL u s) (a1 a2) : PhaseL u (State.put s a1 a2) := by
  unfold State.put
  refine PhaseL.wr ?_ ..
  exact h

theorem PhaseL.setFlag (h : PhaseL u s) (a1 a2) : PhaseL u (State.setFlag s a1 a2) := by
  unfold State.setFlag
  refine PhaseL.put ?_ ..
  exact h

theorem PhaseL.testStages (h : PhaseL u s) (a1 a2) : PhaseL u (State.testStages s a1 a2) := by
  unfold State.testStages
  refine PhaseL.foldl (fun _ _ ht1 => ?_) ?_
  · refine PhaseL.put ?_ ..
    exact ht1
  · exact h

theorem PhaseL.testTrays (h : PhaseL u s) (a1 a2) : PhaseL u (State.testTrays s a1 a2) := by
  unfold State.testTrays
  refine PhaseL.foldl (fun _ _ ht1 => ?_) ?_
  · refine PhaseL.put ?_ ..
    exact ht1
  · exact h

theorem PhaseL.testLock (h : PhaseL u s) (a1 a2) : PhaseL u (State.testLock s a1 a2) := by
  unfold State.testLock
  refine PhaseL.put ?_ ..
  exact h

theorem PhaseL.testLanes (h : PhaseL u s) (a1) : PhaseL u (State.testLanes s a1) := by
  unfold State.testLanes
  extract_lets +onlyGivenNames -merge -useContext -underBinder x1
  extract_lets +onlyGivenNames -merge -useContext -underBinder x2
  have hx2 : PhaseL u x2 := by
    unfold x2
    refine PhaseL.ite (fun _ => ?_) (fun _ => ?_)
    · refine PhaseL.testTrays ?_ ..
      refine PhaseL.testStages ?_ ..
      exact h
    · exact h
  refine PhaseL.ite (fun _ => ?_) (fun _ => ?_)
  · refine PhaseL.testLock ?_ ..
    exact hx2
  · exact hx2

theorem PhaseL.enterPhase (h : PhaseL u s) (a1) : PhaseL u (State.enterPhase s a1) := by
  unfold State.enterPhase
  refine PhaseL.upd ?_ rfl rfl rfl rfl rfl rfl rfl rfl rfl rfl rfl rfl rfl rfl rfl rfl rfl rfl rfl rfl rfl rfl rfl
  exact h

theorem PhaseL.startPhase (h : PhaseL u s) (a1) : PhaseL u (State.startPhase s a1) := by
  unfold State.startPhase
  refine PhaseL.testLanes ?_ ..
  refine PhaseL.put ?_ ..
  refine PhaseL.enterPhase ?_ ..
  exact h

theorem PhaseL.bertComplete (h : PhaseL u s) : PhaseL u (State.bertComplete s) := by
  unfold State.bertComplete
  extract_lets +onlyGivenNames -merge -useContext -underBinder x1
  extract_lets +onlyGivenNames -merge -useContext -underBinder x2
  have hx2 : PhaseL u x2 := by
    unfold x2
    refine PhaseL.upd ?_ rfl rfl rfl rfl rfl rfl rfl rfl rfl rfl rfl rfl rfl rfl rfl rfl rfl rfl rfl rfl rfl rfl rfl
    exact h
  refine PhaseL.setFlag ?_ ..
  refine PhaseL.put ?_ ..
  exact hx2

theorem PhaseL.nextPhase (h : PhaseL u s) (a1) : PhaseL u (State.nextPhase s a1) := by
  unfold State.nextPhase
  split
  · refine PhaseL.startPhase ?_ ..
    exact h
  · refine PhaseL.ite (fun _ => ?_) (fun _ => ?_)
    · refine PhaseL.startPhase ?_ ..
      exact h
    · refine PhaseL.bertComplete ?_ ..
      refine PhaseL.startPhase ?_ ..
      exact h
  · refine PhaseL.bertComplete ?_ ..
    refine PhaseL.startPhase ?_ ..
    exact h

/-- What those functions may change, as a frame names it. -/
theorem PhaseL.within {t : State} (h : PhaseL s.partPhaseL t) : t.within s [.regs, .link]
  | .regs, hp => (hp (by decide)).elim
  | .time, _ => h.time_eq
  | .inp, _ => h.inp_eq
  | .wq, _ => h.wq_eq
  | .lpe, _ => h.lpe_eq
  | .hmp, _ => h.hmp_eq
  | .prf, _ => h.prf_eq
  | .site, _ => h.site_eq
  | .zfb, _ => h.zfb_eq
  | .wgl, _ => h.wgl_eq
  | .lks, _ => h.lks_eq
  | .link, hp => (hp (by decide)).elim
  | .chn, _ => h.chn_eq
  | .est, _ => h.est_eq
  | .arr, _ => h.arr_eq
  | .flt, _ => h.flt_eq
  | .mgp, _ => h.mgp_eq
  | .sec, _ => h.sec_eq
  | .pwr, _ => h.pwr_eq
  | .cfg, _ => h.cfg_eq
  | .pins, _ => h.pins_eq
  | .shadow, _ => h.shadow_eq
  | .free, _ => h.free_eq
  | .pending, _ => h.pending_eq

end Sys2Proof.Machine
end

