-- ==== Sys2Proof/Laws/PkgK.lean ====
section
/-! SUPPORT. What the check of a package leaves alone. -/

namespace Sys2Proof.Machine

/-- The parts of the state that are kept. -/
structure State.PkgKPart where
  time : TimeRt
  inp : InputRt
  wq : List PairWrite
  lpe : LpeRt
  hmp : HmpRt
  prf : PrfRt
  site : SiteRt
  zfb : ZfbRt
  wgl : WglRt
  lks : LksRt
  link : LinkRt
  chn : ChnRt
  est : EstRt
  flt : FltRt
  mgp : MgpRt
  sec : SecRt
  pwr : PwrRt
  cfg : CfgRt
  pins : PinRt
  shadow : List (Nat × Nat × Word)
  free : Nat
  pending : List Instr

/-- Those parts of a state. -/
def State.partPkgK (s : State) : State.PkgKPart :=
  ⟨s.time, s.inp, s.wq, s.lpe, s.hmp, s.prf, s.site, s.zfb, s.wgl, s.lks, s.link, s.chn, s.est, s.flt, s.mgp, s.sec, s.pwr, s.cfg, s.pins, s.shadow, s.free, s.pending⟩

/-- Those parts are the ones given. -/
structure PkgK (u : State.PkgKPart) (s : State) : Prop where
  eq : s.partPkgK = u

variable {u : State.PkgKPart} {s : State}

theorem PkgK.upd {regs time inp wq lpe hmp prf site zfb wgl lks link chn est arr flt mgp sec pwr cfg pins shadow free pending} (h : PkgK u s) (h_regs : regs = s.regs) (h_time : time = s.time) (h_inp : inp = s.inp) (h_wq : wq = s.wq) (h_lpe : lpe = s.lpe) (h_hmp : hmp = s.hmp) (h_prf : prf = s.prf) (h_site : site = s.site) (h_zfb : zfb = s.zfb) (h_wgl : wgl = s.wgl) (h_lks : lks = s.lks) (h_link : link = s.link) (h_chn : chn = s.chn) (h_est : est = s.est) (h_flt : flt = s.flt) (h_mgp : mgp = s.mgp) (h_sec : sec = s.sec) (h_pwr : pwr = s.pwr) (h_cfg : cfg = s.cfg) (h_pins : pins = s.pins) (h_shadow : shadow = s.shadow) (h_free : free = s.free) (h_pending : pending = s.pending) :
    PkgK u (State.mk regs time inp wq lpe hmp prf site zfb wgl lks link chn est arr flt mgp sec pwr cfg pins shadow free pending) := by
  subst h_regs h_time h_inp h_wq h_lpe h_hmp h_prf h_site h_zfb h_wgl h_lks h_link h_chn h_est h_flt h_mgp h_sec h_pwr h_cfg h_pins h_shadow h_free h_pending
  exact ⟨h.eq⟩

theorem PkgK.rfl' (s : State) : PkgK s.partPkgK s := ⟨rfl⟩

/-- What a command answers keeps them. -/
def PkgKo (u : State.PkgKPart) (o : Host.Outcome State Fault Refusal) : Prop := ∀ t, o = Host.Outcome.next t → PkgK u t

theorem PkgKo.next (h : PkgK u s) : PkgKo u (Host.Outcome.next s) := fun t e => by cases e; exact h

theorem PkgK.ite {c : Prop} {_ : Decidable c} {a b : State} (ha : c → PkgK u a) (hb : ¬c → PkgK u b) : PkgK u (if c then a else b) := by
  split
  · exact ha ‹_›
  · exact hb ‹_›

theorem PkgK.dite {c : Prop} {_ : Decidable c} {a : c → State} {b : ¬c → State} (ha : ∀ h, PkgK u (a h)) (hb : ∀ h, PkgK u (b h)) :
    PkgK u (if h : c then a h else b h) := by
  split
  · exact ha _
  · exact hb _

theorem PkgK.iteP {α : Type} {c : Prop} {_ : Decidable c} {a b : State × α} (ha : c → PkgK u a.1) (hb : ¬c → PkgK u b.1) : PkgK u (if c then a else b).1 := by
  split
  · exact ha ‹_›
  · exact hb ‹_›

theorem PkgK.diteP {α : Type} {c : Prop} {_ : Decidable c} {a : c → State × α} {b : ¬c → State × α} (ha : ∀ h, PkgK u (a h).1) (hb : ∀ h, PkgK u (b h).1) :
    PkgK u (if h : c then a h else b h).1 := by
  split
  · exact ha _
  · exact hb _

theorem PkgK.foldl {α : Type} {l : List α} {f : State → α → State} (hf : ∀ t a, PkgK u t → PkgK u (f t a)) (h : PkgK u s) : PkgK u (l.foldl f s) := by
  induction l generalizing s with
  | nil => exact h
  | cons a l ih => exact ih (hf s a h)

theorem PkgK.each {n : Nat} {f : Nat → State → State} (hf : ∀ i t, PkgK u t → PkgK u (f i t)) (h : PkgK u s) : PkgK u (State.each n f s) :=
  PkgK.foldl (fun t a ht => hf a t ht) h

theorem PkgK.over {α : Type} {l : List α} {f : α → State → State} (hf : ∀ i t, PkgK u t → PkgK u (f i t)) (h : PkgK u s) : PkgK u (State.over l f s) :=
  PkgK.foldl (fun t a ht => hf a t ht) h

theorem PkgK.iff {c : Bool} {f : State → State} (hf : ∀ t, PkgK u t → PkgK u (f t)) (h : PkgK u s) : PkgK u (State.iff c f s) := by
  unfold State.iff
  split
  · exact hf s h
  · exact h

theorem PkgK.wr (h : PkgK u s) (a w) : PkgK u (s.wr a w) := ⟨h.eq⟩

theorem PkgK.time_eq (h : PkgK u s) : s.time = u.time := congrArg State.PkgKPart.time h.eq
theorem PkgK.inp_eq (h : PkgK u s) : s.inp = u.inp := congrArg State.PkgKPart.inp h.eq
theorem PkgK.wq_eq (h : PkgK u s) : s.wq = u.wq := congrArg State.PkgKPart.wq h.eq
theorem PkgK.lpe_eq (h : PkgK u s) : s.lpe = u.lpe := congrArg State.PkgKPart.lpe h.eq
theorem PkgK.hmp_eq (h : PkgK u s) : s.hmp = u.hmp := congrArg State.PkgKPart.hmp h.eq
theorem PkgK.prf_eq (h : PkgK u s) : s.prf = u.prf := congrArg State.PkgKPart.prf h.eq
theorem PkgK.site_eq (h : PkgK u s) : s.site = u.site := congrArg State.PkgKPart.site h.eq
theorem PkgK.zfb_eq (h : PkgK u s) : s.zfb = u.zfb := congrArg State.PkgKPart.zfb h.eq
theorem PkgK.wgl_eq (h : PkgK u s) : s.wgl = u.wgl := congrArg State.PkgKPart.wgl h.eq
theorem PkgK.lks_eq (h : PkgK u s) : s.lks = u.lks := congrArg State.PkgKPart.lks h.eq
theorem PkgK.link_eq (h : PkgK u s) : s.link = u.link := congrArg State.PkgKPart.link h.eq
theorem PkgK.chn_eq (h : PkgK u s) : s.chn = u.chn := congrArg State.PkgKPart.chn h.eq
theorem PkgK.est_eq (h : PkgK u s) : s.est = u.est := congrArg State.PkgKPart.est h.eq
theorem PkgK.flt_eq (h : PkgK u s) : s.flt = u.flt := congrArg State.PkgKPart.flt h.eq
theorem PkgK.mgp_eq (h : PkgK u s) : s.mgp = u.mgp := congrArg State.PkgKPart.mgp h.eq
theorem PkgK.sec_eq (h : PkgK u s) : s.sec = u.sec := congrArg State.PkgKPart.sec h.eq
theorem PkgK.pwr_eq (h : PkgK u s) : s.pwr = u.pwr := congrArg State.PkgKPart.pwr h.eq
theorem PkgK.cfg_eq (h : PkgK u s) : s.cfg = u.cfg := congrArg State.PkgKPart.cfg h.eq
theorem PkgK.pins_eq (h : PkgK u s) : s.pins = u.pins := congrArg State.PkgKPart.pins h.eq
theorem PkgK.shadow_eq (h : PkgK u s) : s.shadow = u.shadow := congrArg State.PkgKPart.shadow h.eq
theorem PkgK.free_eq (h : PkgK u s) : s.free = u.free := congrArg State.PkgKPart.free h.eq
theorem PkgK.pending_eq (h : PkgK u s) : s.pending = u.pending := congrArg State.PkgKPart.pending h.eq

theorem PkgK.put (h : PkgK u s) (a1 a2) : PkgK u (State.put s a1 a2) := by
  unfold State.put
  refine PkgK.wr ?_ ..
  exact h

theorem PkgK.setFlag (h : PkgK u s) (a1 a2) : PkgK u (State.setFlag s a1 a2) := by
  unfold State.setFlag
  refine PkgK.put ?_ ..
  exact h

theorem PkgK.countCores (h : PkgK u s) : PkgK u (State.countCores s) := by
  unfold State.countCores
  extract_lets +onlyGivenNames -merge -useContext -underBinder x1
  refine PkgK.put ?_ ..
  refine PkgK.put ?_ ..
  refine PkgK.put ?_ ..
  refine PkgK.put ?_ ..
  exact h

theorem PkgK.setSlot (h : PkgK u s) (a1 a2) : PkgK u (State.setSlot s a1 a2) := by
  unfold State.setSlot
  refine PkgK.upd ?_ rfl rfl rfl rfl rfl rfl rfl rfl rfl rfl rfl rfl rfl rfl rfl rfl rfl rfl rfl rfl rfl rfl rfl
  exact h

theorem PkgK.refuseMdl (h : PkgK u s) (a1 a2) : PkgK u (State.refuseMdl s a1 a2) := by
  unfold State.refuseMdl
  refine PkgK.put ?_ ..
  refine PkgK.put ?_ ..
  exact h

theorem PkgK.mdlCounts (h : PkgK u s) : PkgK u (State.mdlCounts s) := by
  unfold State.mdlCounts
  extract_lets +onlyGivenNames -merge -useContext -underBinder x1
  have hx1 : PkgK u x1 := by
    unfold x1
    refine PkgK.put ?_ ..
    exact h
  extract_lets +onlyGivenNames -merge -useContext -underBinder x2
  have hx2 : PkgK u x2 := by
    unfold x2
    refine PkgK.put ?_ ..
    exact hx1
  extract_lets +onlyGivenNames -merge -useContext -underBinder x3
  have hx3 : PkgK u x3 := by
    unfold x3
    refine PkgK.put ?_ ..
    exact hx2
  extract_lets +onlyGivenNames -merge -useContext -underBinder x4
  have hx4 : PkgK u x4 := by
    unfold x4
    refine PkgK.put ?_ ..
    exact hx3
  extract_lets +onlyGivenNames -merge -useContext -underBinder x5
  have hx5 : PkgK u x5 := by
    unfold x5
    refine PkgK.put ?_ ..
    exact hx4
  refine PkgK.countCores ?_ ..
  refine PkgK.each (fun _ _ ht6 => ?_) ?_
  · refine PkgK.put ?_ ..
    exact ht6
  · exact hx5

theorem PkgK.storePkg (h : PkgK u s) (a1 a2 a3) : PkgK u (State.storePkg s a1 a2 a3) := by
  unfold State.storePkg
  extract_lets +onlyGivenNames -merge -useContext -underBinder x1
  extract_lets +onlyGivenNames -merge -useContext -underBinder x2
  have hx2 : PkgK u x2 := by
    unfold x2
    refine PkgK.put ?_ ..
    refine PkgK.setSlot ?_ ..
    exact h
  refine PkgK.mdlCounts ?_ ..
  refine PkgK.setFlag ?_ ..
  exact hx2

theorem PkgK.pkgChecked (h : PkgK u s) (a1 a2) : PkgK u (State.pkgChecked s a1 a2) := by
  unfold State.pkgChecked
  split
  · refine PkgK.refuseMdl ?_ ..
    refine PkgK.setSlot ?_ ..
    exact h
  · refine PkgK.storePkg ?_ ..
    exact h

theorem PkgK.execPackageCheck_keeps (h : PkgK u s) (a0 a1) : PkgKo u (execPackageCheck a0 a1 s) := by
  unfold execPackageCheck
  refine PkgKo.next ?_
  refine PkgK.ite (fun _ => ?_) (fun _ => ?_)
  · refine PkgK.pkgChecked ?_ ..
    exact h
  · exact h

/-- What those functions may change, as a frame names it. -/
theorem PkgK.within {t : State} (h : PkgK s.partPkgK t) : t.within s [.regs, .arr]
  | .regs, hp => (hp (by decide)).elim
  | .time, _ => h.time_eq
  | .inp, _ => h.inp_eq
  | .wq, _ => h.wq_eq
  | .lpe, _ => h.lpe_eq
  | .hmp, _ => h.hmp_eq
  | .prf, _ => h.prf_eq
  | .site, _ => h.site_eq
  | .zfb, _ => h.zfb_eq
  | .wgl, _ => h.wgl_eq
  | .lks, _ => h.lks_eq
  | .link, _ => h.link_eq
  | .chn, _ => h.chn_eq
  | .est, _ => h.est_eq
  | .arr, hp => (hp (by decide)).elim
  | .flt, _ => h.flt_eq
  | .mgp, _ => h.mgp_eq
  | .sec, _ => h.sec_eq
  | .pwr, _ => h.pwr_eq
  | .cfg, _ => h.cfg_eq
  | .pins, _ => h.pins_eq
  | .shadow, _ => h.shadow_eq
  | .free, _ => h.free_eq
  | .pending, _ => h.pending_eq

end Sys2Proof.Machine
end

