-- ==== Sys2Proof/Laws/ProfMove.lean ====
section
/-! SUPPORT. What the profile step leaves alone. -/

namespace Sys2Proof.Machine

/-- The parts of the state that are kept. -/
structure State.ProfMovePart where
  time : TimeRt
  inp : InputRt
  wq : List PairWrite
  lpe : LpeRt
  hmp : HmpRt
  site : SiteRt
  zfb : ZfbRt
  wgl : WglRt
  lks : LksRt
  link : LinkRt
  chn : ChnRt
  est : EstRt
  arr : ArrRt
  flt : FltRt
  mgp : MgpRt
  sec : SecRt
  pwr : PwrRt
  cfg : CfgRt
  pins : PinRt
  shadow : List (Nat × Nat × Word)
  pending : List Instr

/-- Those parts of a state. -/
def State.partProfMove (s : State) : State.ProfMovePart :=
  ⟨s.time, s.inp, s.wq, s.lpe, s.hmp, s.site, s.zfb, s.wgl, s.lks, s.link, s.chn, s.est, s.arr, s.flt, s.mgp, s.sec, s.pwr, s.cfg, s.pins, s.shadow, s.pending⟩

/-- Those parts are the ones given. -/
structure ProfMove (u : State.ProfMovePart) (s : State) : Prop where
  eq : s.partProfMove = u

variable {u : State.ProfMovePart} {s : State}

theorem ProfMove.upd {regs time inp wq lpe hmp prf site zfb wgl lks link chn est arr flt mgp sec pwr cfg pins shadow free pending} (h : ProfMove u s) (h_regs : regs = s.regs) (h_time : time = s.time) (h_inp : inp = s.inp) (h_wq : wq = s.wq) (h_lpe : lpe = s.lpe) (h_hmp : hmp = s.hmp) (h_site : site = s.site) (h_zfb : zfb = s.zfb) (h_wgl : wgl = s.wgl) (h_lks : lks = s.lks) (h_link : link = s.link) (h_chn : chn = s.chn) (h_est : est = s.est) (h_arr : arr = s.arr) (h_flt : flt = s.flt) (h_mgp : mgp = s.mgp) (h_sec : sec = s.sec) (h_pwr : pwr = s.pwr) (h_cfg : cfg = s.cfg) (h_pins : pins = s.pins) (h_shadow : shadow = s.shadow) (h_pending : pending = s.pending) :
    ProfMove u (State.mk regs time inp wq lpe hmp prf site zfb wgl lks link chn est arr flt mgp sec pwr cfg pins shadow free pending) := by
  subst h_regs h_time h_inp h_wq h_lpe h_hmp h_site h_zfb h_wgl h_lks h_link h_chn h_est h_arr h_flt h_mgp h_sec h_pwr h_cfg h_pins h_shadow h_pending
  exact ⟨h.eq⟩

theorem ProfMove.rfl' (s : State) : ProfMove s.partProfMove s := ⟨rfl⟩

/-- What a command answers keeps them. -/
def ProfMoveo (u : State.ProfMovePart) (o : Host.Outcome State Fault Refusal) : Prop := ∀ t, o = Host.Outcome.next t → ProfMove u t

theorem ProfMoveo.next (h : ProfMove u s) : ProfMoveo u (Host.Outcome.next s) := fun t e => by cases e; exact h

theorem ProfMove.ite {c : Prop} {_ : Decidable c} {a b : State} (ha : c → ProfMove u a) (hb : ¬c → ProfMove u b) : ProfMove u (if c then a else b) := by
  split
  · exact ha ‹_›
  · exact hb ‹_›

theorem ProfMove.dite {c : Prop} {_ : Decidable c} {a : c → State} {b : ¬c → State} (ha : ∀ h, ProfMove u (a h)) (hb : ∀ h, ProfMove u (b h)) :
    ProfMove u (if h : c then a h else b h) := by
  split
  · exact ha _
  · exact hb _

theorem ProfMove.iteP {α : Type} {c : Prop} {_ : Decidable c} {a b : State × α} (ha : c → ProfMove u a.1) (hb : ¬c → ProfMove u b.1) : ProfMove u (if c then a else b).1 := by
  split
  · exact ha ‹_›
  · exact hb ‹_›

theorem ProfMove.diteP {α : Type} {c : Prop} {_ : Decidable c} {a : c → State × α} {b : ¬c → State × α} (ha : ∀ h, ProfMove u (a h).1) (hb : ∀ h, ProfMove u (b h).1) :
    ProfMove u (if h : c then a h else b h).1 := by
  split
  · exact ha _
  · exact hb _

theorem ProfMove.foldl {α : Type} {l : List α} {f : State → α → State} (hf : ∀ t a, ProfMove u t → ProfMove u (f t a)) (h : ProfMove u s) : ProfMove u (l.foldl f s) := by
  induction l generalizing s with
  | nil => exact h
  | cons a l ih => exact ih (hf s a h)

theorem ProfMove.each {n : Nat} {f : Nat → State → State} (hf : ∀ i t, ProfMove u t → ProfMove u (f i t)) (h : ProfMove u s) : ProfMove u (State.each n f s) :=
  ProfMove.foldl (fun t a ht => hf a t ht) h

theorem ProfMove.over {α : Type} {l : List α} {f : α → State → State} (hf : ∀ i t, ProfMove u t → ProfMove u (f i t)) (h : ProfMove u s) : ProfMove u (State.over l f s) :=
  ProfMove.foldl (fun t a ht => hf a t ht) h

theorem ProfMove.iff {c : Bool} {f : State → State} (hf : ∀ t, ProfMove u t → ProfMove u (f t)) (h : ProfMove u s) : ProfMove u (State.iff c f s) := by
  unfold State.iff
  split
  · exact hf s h
  · exact h

theorem ProfMove.wr (h : ProfMove u s) (a w) : ProfMove u (s.wr a w) := ⟨h.eq⟩

theorem ProfMove.time_eq (h : ProfMove u s) : s.time = u.time := congrArg State.ProfMovePart.time h.eq
theorem ProfMove.inp_eq (h : ProfMove u s) : s.inp = u.inp := congrArg State.ProfMovePart.inp h.eq
theorem ProfMove.wq_eq (h : ProfMove u s) : s.wq = u.wq := congrArg State.ProfMovePart.wq h.eq
theorem ProfMove.lpe_eq (h : ProfMove u s) : s.lpe = u.lpe := congrArg State.ProfMovePart.lpe h.eq
theorem ProfMove.hmp_eq (h : ProfMove u s) : s.hmp = u.hmp := congrArg State.ProfMovePart.hmp h.eq
theorem ProfMove.site_eq (h : ProfMove u s) : s.site = u.site := congrArg State.ProfMovePart.site h.eq
theorem ProfMove.zfb_eq (h : ProfMove u s) : s.zfb = u.zfb := congrArg State.ProfMovePart.zfb h.eq
theorem ProfMove.wgl_eq (h : ProfMove u s) : s.wgl = u.wgl := congrArg State.ProfMovePart.wgl h.eq
theorem ProfMove.lks_eq (h : ProfMove u s) : s.lks = u.lks := congrArg State.ProfMovePart.lks h.eq
theorem ProfMove.link_eq (h : ProfMove u s) : s.link = u.link := congrArg State.ProfMovePart.link h.eq
theorem ProfMove.chn_eq (h : ProfMove u s) : s.chn = u.chn := congrArg State.ProfMovePart.chn h.eq
theorem ProfMove.est_eq (h : ProfMove u s) : s.est = u.est := congrArg State.ProfMovePart.est h.eq
theorem ProfMove.arr_eq (h : ProfMove u s) : s.arr = u.arr := congrArg State.ProfMovePart.arr h.eq
theorem ProfMove.flt_eq (h : ProfMove u s) : s.flt = u.flt := congrArg State.ProfMovePart.flt h.eq
theorem ProfMove.mgp_eq (h : ProfMove u s) : s.mgp = u.mgp := congrArg State.ProfMovePart.mgp h.eq
theorem ProfMove.sec_eq (h : ProfMove u s) : s.sec = u.sec := congrArg State.ProfMovePart.sec h.eq
theorem ProfMove.pwr_eq (h : ProfMove u s) : s.pwr = u.pwr := congrArg State.ProfMovePart.pwr h.eq
theorem ProfMove.cfg_eq (h : ProfMove u s) : s.cfg = u.cfg := congrArg State.ProfMovePart.cfg h.eq
theorem ProfMove.pins_eq (h : ProfMove u s) : s.pins = u.pins := congrArg State.ProfMovePart.pins h.eq
theorem ProfMove.shadow_eq (h : ProfMove u s) : s.shadow = u.shadow := congrArg State.ProfMovePart.shadow h.eq
theorem ProfMove.pending_eq (h : ProfMove u s) : s.pending = u.pending := congrArg State.ProfMovePart.pending h.eq

theorem ProfMove.put (h : ProfMove u s) (a1 a2) : ProfMove u (State.put s a1 a2) := by
  unfold State.put
  refine ProfMove.wr ?_ ..
  exact h

theorem ProfMove.setFlag (h : ProfMove u s) (a1 a2) : ProfMove u (State.setFlag s a1 a2) := by
  unfold State.setFlag
  refine ProfMove.put ?_ ..
  exact h

theorem ProfMove.putBF (h : ProfMove u s) (a1 a2) : ProfMove u (State.putBF s a1 a2) := by
  unfold State.putBF
  refine ProfMove.wr ?_ ..
  exact h

theorem ProfMove.draw (h : ProfMove u s) : ProfMove u (State.draw s) := by
  unfold State.draw
  refine ProfMove.upd ?_ rfl rfl rfl rfl rfl rfl rfl rfl rfl rfl rfl rfl rfl rfl rfl rfl rfl rfl rfl rfl rfl rfl
  exact h

theorem ProfMove.prfRegs (h : ProfMove u s) : ProfMove u (State.prfRegs s) := by
  unfold State.prfRegs
  refine ProfMove.putBF ?_ ..
  refine ProfMove.putBF ?_ ..
  refine ProfMove.putBF ?_ ..
  refine ProfMove.putBF ?_ ..
  refine ProfMove.putBF ?_ ..
  exact h

theorem ProfMove.trackDraw (h : ProfMove u s) : ProfMove u (State.trackDraw s) := by
  unfold State.trackDraw
  refine ProfMove.setFlag ?_ ..
  refine ProfMove.upd ?_ rfl rfl rfl rfl rfl rfl rfl rfl rfl rfl rfl rfl rfl rfl rfl rfl rfl rfl rfl rfl rfl rfl
  exact h

theorem ProfMove.formTarget (h : ProfMove u s) : ProfMove u (State.formTarget s) := by
  unfold State.formTarget
  refine ProfMove.draw ?_ ..
  refine ProfMove.upd ?_ rfl rfl rfl rfl rfl rfl rfl rfl rfl rfl rfl rfl rfl rfl rfl rfl rfl rfl rfl rfl rfl rfl
  exact h

theorem ProfMove.execProfileStep_keeps (h : ProfMove u s) : ProfMoveo u (execProfileStep s) := by
  unfold execProfileStep
  refine ProfMoveo.next ?_
  refine ProfMove.ite (fun _ => ?_) (fun _ => ?_)
  · exact h
  · extract_lets +onlyGivenNames -merge -useContext -underBinder x1
    have hx1 : ProfMove u x1 := by
      unfold x1
      refine ProfMove.formTarget ?_ ..
      exact h
    refine ProfMove.ite (fun _ => ?_) (fun _ => ?_)
    · refine ProfMove.prfRegs ?_ ..
      exact hx1
    · refine ProfMove.ite (fun _ => ?_) (fun _ => ?_)
      · refine ProfMove.prfRegs ?_ ..
        refine ProfMove.trackDraw ?_ ..
        exact hx1
      · extract_lets +onlyGivenNames -merge -useContext -underBinder x2
        refine ProfMove.prfRegs ?_ ..
        refine ProfMove.setFlag ?_ ..
        refine ProfMove.upd (s := x1) ?_ rfl rfl rfl rfl rfl rfl rfl rfl rfl rfl rfl rfl rfl rfl rfl rfl rfl rfl rfl rfl rfl rfl
        exact hx1

/-- What those functions may change, as a frame names it. -/
theorem ProfMove.within {t : State} (h : ProfMove s.partProfMove t) : t.within s [.regs, .prf, .free]
  | .regs, hp => (hp (by decide)).elim
  | .time, _ => h.time_eq
  | .inp, _ => h.inp_eq
  | .wq, _ => h.wq_eq
  | .lpe, _ => h.lpe_eq
  | .hmp, _ => h.hmp_eq
  | .prf, hp => (hp (by decide)).elim
  | .site, _ => h.site_eq
  | .zfb, _ => h.zfb_eq
  | .wgl, _ => h.wgl_eq
  | .lks, _ => h.lks_eq
  | .link, _ => h.link_eq
  | .chn, _ => h.chn_eq
  | .est, _ => h.est_eq
  | .arr, _ => h.arr_eq
  | .flt, _ => h.flt_eq
  | .mgp, _ => h.mgp_eq
  | .sec, _ => h.sec_eq
  | .pwr, _ => h.pwr_eq
  | .cfg, _ => h.cfg_eq
  | .pins, _ => h.pins_eq
  | .shadow, _ => h.shadow_eq
  | .free, hp => (hp (by decide)).elim
  | .pending, _ => h.pending_eq

end Sys2Proof.Machine
end

