-- ==== Sys2Proof/Laws/ProfMove2.lean ====
section
/-! SUPPORT. What the correction for state of charge leaves alone. -/

namespace Sys2Proof.Machine

/-- The parts of the state that are kept. -/
structure State.ProfMove2Part where
  time : TimeRt
  inp : InputRt
  wq : List PairWrite
  lpe : LpeRt
  hmp : HmpRt
  site : SiteRt
  zfb : ZfbRt
  wgl : WglRt
  lks : LksRt
  link : LinkRt
  chn : ChnRt
  est : EstRt
  arr : ArrRt
  flt : FltRt
  mgp : MgpRt
  sec : SecRt
  pwr : PwrRt
  cfg : CfgRt
  pins : PinRt
  shadow : List (Nat × Nat × Word)
  free : Nat
  pending : List Instr

/-- Those parts of a state. -/
def State.partProfMove2 (s : State) : State.ProfMove2Part :=
  ⟨s.time, s.inp, s.wq, s.lpe, s.hmp, s.site, s.zfb, s.wgl, s.lks, s.link, s.chn, s.est, s.arr, s.flt, s.mgp, s.sec, s.pwr, s.cfg, s.pins, s.shadow, s.free, s.pending⟩

/-- Those parts are the ones given. -/
structure ProfMove2 (u : State.ProfMove2Part) (s : State) : Prop where
  eq : s.partProfMove2 = u

variable {u : State.ProfMove2Part} {s : State}

theorem ProfMove2.upd {regs time inp wq lpe hmp prf site zfb wgl lks link chn est arr flt mgp sec pwr cfg pins shadow free pending} (h : ProfMove2 u s) (h_regs : regs = s.regs) (h_time : time = s.time) (h_inp : inp = s.inp) (h_wq : wq = s.wq) (h_lpe : lpe = s.lpe) (h_hmp : hmp = s.hmp) (h_site : site = s.site) (h_zfb : zfb = s.zfb) (h_wgl : wgl = s.wgl) (h_lks : lks = s.lks) (h_link : link = s.link) (h_chn : chn = s.chn) (h_est : est = s.est) (h_arr : arr = s.arr) (h_flt : flt = s.flt) (h_mgp : mgp = s.mgp) (h_sec : sec = s.sec) (h_pwr : pwr = s.pwr) (h_cfg : cfg = s.cfg) (h_pins : pins = s.pins) (h_shadow : shadow = s.shadow) (h_free : free = s.free) (h_pending : pending = s.pending) :
    ProfMove2 u (State.mk regs time inp wq lpe hmp prf site zfb wgl lks link chn est arr flt mgp sec pwr cfg pins shadow free pending) := by
  subst h_regs h_time h_inp h_wq h_lpe h_hmp h_site h_zfb h_wgl h_lks h_link h_chn h_est h_arr h_flt h_mgp h_sec h_pwr h_cfg h_pins h_shadow h_free h_pending
  exact ⟨h.eq⟩

theorem ProfMove2.rfl' (s : State) : ProfMove2 s.partProfMove2 s := ⟨rfl⟩

/-- What a command answers keeps them. -/
def ProfMove2o (u : State.ProfMove2Part) (o : Host.Outcome State Fault Refusal) : Prop := ∀ t, o = Host.Outcome.next t → ProfMove2 u t

theorem ProfMove2o.next (h : ProfMove2 u s) : ProfMove2o u (Host.Outcome.next s) := fun t e => by cases e; exact h

theorem ProfMove2.ite {c : Prop} {_ : Decidable c} {a b : State} (ha : c → ProfMove2 u a) (hb : ¬c → ProfMove2 u b) : ProfMove2 u (if c then a else b) := by
  split
  · exact ha ‹_›
  · exact hb ‹_›

theorem ProfMove2.dite {c : Prop} {_ : Decidable c} {a : c → State} {b : ¬c → State} (ha : ∀ h, ProfMove2 u (a h)) (hb : ∀ h, ProfMove2 u (b h)) :
    ProfMove2 u (if h : c then a h else b h) := by
  split
  · exact ha _
  · exact hb _

theorem ProfMove2.iteP {α : Type} {c : Prop} {_ : Decidable c} {a b : State × α} (ha : c → ProfMove2 u a.1) (hb : ¬c → ProfMove2 u b.1) : ProfMove2 u (if c then a else b).1 := by
  split
  · exact ha ‹_›
  · exact hb ‹_›

theorem ProfMove2.diteP {α : Type} {c : Prop} {_ : Decidable c} {a : c → State × α} {b : ¬c → State × α} (ha : ∀ h, ProfMove2 u (a h).1) (hb : ∀ h, ProfMove2 u (b h).1) :
    ProfMove2 u (if h : c then a h else b h).1 := by
  split
  · exact ha _
  · exact hb _

theorem ProfMove2.foldl {α : Type} {l : List α} {f : State → α → State} (hf : ∀ t a, ProfMove2 u t → ProfMove2 u (f t a)) (h : ProfMove2 u s) : ProfMove2 u (l.foldl f s) := by
  induction l generalizing s with
  | nil => exact h
  | cons a l ih => exact ih (hf s a h)

theorem ProfMove2.each {n : Nat} {f : Nat → State → State} (hf : ∀ i t, ProfMove2 u t → ProfMove2 u (f i t)) (h : ProfMove2 u s) : ProfMove2 u (State.each n f s) :=
  ProfMove2.foldl (fun t a ht => hf a t ht) h

theorem ProfMove2.over {α : Type} {l : List α} {f : α → State → State} (hf : ∀ i t, ProfMove2 u t → ProfMove2 u (f i t)) (h : ProfMove2 u s) : ProfMove2 u (State.over l f s) :=
  ProfMove2.foldl (fun t a ht => hf a t ht) h

theorem ProfMove2.iff {c : Bool} {f : State → State} (hf : ∀ t, ProfMove2 u t → ProfMove2 u (f t)) (h : ProfMove2 u s) : ProfMove2 u (State.iff c f s) := by
  unfold State.iff
  split
  · exact hf s h
  · exact h

theorem ProfMove2.wr (h : ProfMove2 u s) (a w) : ProfMove2 u (s.wr a w) := ⟨h.eq⟩

theorem ProfMove2.time_eq (h : ProfMove2 u s) : s.time = u.time := congrArg State.ProfMove2Part.time h.eq
theorem ProfMove2.inp_eq (h : ProfMove2 u s) : s.inp = u.inp := congrArg State.ProfMove2Part.inp h.eq
theorem ProfMove2.wq_eq (h : ProfMove2 u s) : s.wq = u.wq := congrArg State.ProfMove2Part.wq h.eq
theorem ProfMove2.lpe_eq (h : ProfMove2 u s) : s.lpe = u.lpe := congrArg State.ProfMove2Part.lpe h.eq
theorem ProfMove2.hmp_eq (h : ProfMove2 u s) : s.hmp = u.hmp := congrArg State.ProfMove2Part.hmp h.eq
theorem ProfMove2.site_eq (h : ProfMove2 u s) : s.site = u.site := congrArg State.ProfMove2Part.site h.eq
theorem ProfMove2.zfb_eq (h : ProfMove2 u s) : s.zfb = u.zfb := congrArg State.ProfMove2Part.zfb h.eq
theorem ProfMove2.wgl_eq (h : ProfMove2 u s) : s.wgl = u.wgl := congrArg State.ProfMove2Part.wgl h.eq
theorem ProfMove2.lks_eq (h : ProfMove2 u s) : s.lks = u.lks := congrArg State.ProfMove2Part.lks h.eq
theorem ProfMove2.link_eq (h : ProfMove2 u s) : s.link = u.link := congrArg State.ProfMove2Part.link h.eq
theorem ProfMove2.chn_eq (h : ProfMove2 u s) : s.chn = u.chn := congrArg State.ProfMove2Part.chn h.eq
theorem ProfMove2.est_eq (h : ProfMove2 u s) : s.est = u.est := congrArg State.ProfMove2Part.est h.eq
theorem ProfMove2.arr_eq (h : ProfMove2 u s) : s.arr = u.arr := congrArg State.ProfMove2Part.arr h.eq
theorem ProfMove2.flt_eq (h : ProfMove2 u s) : s.flt = u.flt := congrArg State.ProfMove2Part.flt h.eq
theorem ProfMove2.mgp_eq (h : ProfMove2 u s) : s.mgp = u.mgp := congrArg State.ProfMove2Part.mgp h.eq
theorem ProfMove2.sec_eq (h : ProfMove2 u s) : s.sec = u.sec := congrArg State.ProfMove2Part.sec h.eq
theorem ProfMove2.pwr_eq (h : ProfMove2 u s) : s.pwr = u.pwr := congrArg State.ProfMove2Part.pwr h.eq
theorem ProfMove2.cfg_eq (h : ProfMove2 u s) : s.cfg = u.cfg := congrArg State.ProfMove2Part.cfg h.eq
theorem ProfMove2.pins_eq (h : ProfMove2 u s) : s.pins = u.pins := congrArg State.ProfMove2Part.pins h.eq
theorem ProfMove2.shadow_eq (h : ProfMove2 u s) : s.shadow = u.shadow := congrArg State.ProfMove2Part.shadow h.eq
theorem ProfMove2.free_eq (h : ProfMove2 u s) : s.free = u.free := congrArg State.ProfMove2Part.free h.eq
theorem ProfMove2.pending_eq (h : ProfMove2 u s) : s.pending = u.pending := congrArg State.ProfMove2Part.pending h.eq

theorem ProfMove2.putBF (h : ProfMove2 u s) (a1 a2) : ProfMove2 u (State.putBF s a1 a2) := by
  unfold State.putBF
  refine ProfMove2.wr ?_ ..
  exact h

theorem ProfMove2.prfRegs (h : ProfMove2 u s) : ProfMove2 u (State.prfRegs s) := by
  unfold State.prfRegs
  refine ProfMove2.putBF ?_ ..
  refine ProfMove2.putBF ?_ ..
  refine ProfMove2.putBF ?_ ..
  refine ProfMove2.putBF ?_ ..
  refine ProfMove2.putBF ?_ ..
  exact h

theorem ProfMove2.execSocCorrectionUpdate_keeps (h : ProfMove2 u s) : ProfMove2o u (execSocCorrectionUpdate s) := by
  unfold execSocCorrectionUpdate
  refine ProfMove2o.next ?_
  refine ProfMove2.ite (fun _ => ?_) (fun _ => ?_)
  · exact h
  · refine ProfMove2.prfRegs ?_ ..
    refine ProfMove2.upd ?_ rfl rfl rfl rfl rfl rfl rfl rfl rfl rfl rfl rfl rfl rfl rfl rfl rfl rfl rfl rfl rfl rfl rfl
    exact h

/-- What those functions may change, as a frame names it. -/
theorem ProfMove2.within {t : State} (h : ProfMove2 s.partProfMove2 t) : t.within s [.regs, .prf]
  | .regs, hp => (hp (by decide)).elim
  | .time, _ => h.time_eq
  | .inp, _ => h.inp_eq
  | .wq, _ => h.wq_eq
  | .lpe, _ => h.lpe_eq
  | .hmp, _ => h.hmp_eq
  | .prf, hp => (hp (by decide)).elim
  | .site, _ => h.site_eq
  | .zfb, _ => h.zfb_eq
  | .wgl, _ => h.wgl_eq
  | .lks, _ => h.lks_eq
  | .link, _ => h.link_eq
  | .chn, _ => h.chn_eq
  | .est, _ => h.est_eq
  | .arr, _ => h.arr_eq
  | .flt, _ => h.flt_eq
  | .mgp, _ => h.mgp_eq
  | .sec, _ => h.sec_eq
  | .pwr, _ => h.pwr_eq
  | .cfg, _ => h.cfg_eq
  | .pins, _ => h.pins_eq
  | .shadow, _ => h.shadow_eq
  | .free, _ => h.free_eq
  | .pending, _ => h.pending_eq

end Sys2Proof.Machine
end

