-- ==== Sys2Proof/Laws/QueueK.lean ====
section
/-! SUPPORT. What a packet's writes leave alone. -/

namespace Sys2Proof.Machine

/-- The parts of the state that are kept. -/
structure State.QueueKPart where
  time : TimeRt
  inp : InputRt
  lpe : LpeRt
  hmp : HmpRt
  prf : PrfRt
  site : SiteRt
  zfb : ZfbRt
  wgl : WglRt
  link : LinkRt
  chn : ChnRt
  est : EstRt
  arr : ArrRt
  flt : FltRt
  sec : SecRt
  pwr : PwrRt
  cfg : CfgRt
  pins : PinRt
  shadow : List (Nat × Nat × Word)
  free : Nat
  pending : List Instr

/-- Those parts of a state. -/
def State.partQueueK (s : State) : State.QueueKPart :=
  ⟨s.time, s.inp, s.lpe, s.hmp, s.prf, s.site, s.zfb, s.wgl, s.link, s.chn, s.est, s.arr, s.flt, s.sec, s.pwr, s.cfg, s.pins, s.shadow, s.free, s.pending⟩

/-- Those parts are the ones given. -/
structure QueueK (u : State.QueueKPart) (s : State) : Prop where
  eq : s.partQueueK = u

variable {u : State.QueueKPart} {s : State}

theorem QueueK.upd {regs time inp wq lpe hmp prf site zfb wgl lks link chn est arr flt mgp sec pwr cfg pins shadow free pending} (h : QueueK u s) (h_regs : regs = s.regs) (h_time : time = s.time) (h_inp : inp = s.inp) (h_lpe : lpe = s.lpe) (h_hmp : hmp = s.hmp) (h_prf : prf = s.prf) (h_site : site = s.site) (h_zfb : zfb = s.zfb) (h_wgl : wgl = s.wgl) (h_link : link = s.link) (h_chn : chn = s.chn) (h_est : est = s.est) (h_arr : arr = s.arr) (h_flt : flt = s.flt) (h_sec : sec = s.sec) (h_pwr : pwr = s.pwr) (h_cfg : cfg = s.cfg) (h_pins : pins = s.pins) (h_shadow : shadow = s.shadow) (h_free : free = s.free) (h_pending : pending = s.pending) :
    QueueK u (State.mk regs time inp wq lpe hmp prf site zfb wgl lks link chn est arr flt mgp sec pwr cfg pins shadow free pending) := by
  subst h_regs h_time h_inp h_lpe h_hmp h_prf h_site h_zfb h_wgl h_link h_chn h_est h_arr h_flt h_sec h_pwr h_cfg h_pins h_shadow h_free h_pending
  exact ⟨h.eq⟩

theorem QueueK.rfl' (s : State) : QueueK s.partQueueK s := ⟨rfl⟩

theorem QueueK.ite {c : Prop} {_ : Decidable c} {a b : State} (ha : c → QueueK u a) (hb : ¬c → QueueK u b) : QueueK u (if c then a else b) := by
  split
  · exact ha ‹_›
  · exact hb ‹_›

theorem QueueK.dite {c : Prop} {_ : Decidable c} {a : c → State} {b : ¬c → State} (ha : ∀ h, QueueK u (a h)) (hb : ∀ h, QueueK u (b h)) :
    QueueK u (if h : c then a h else b h) := by
  split
  · exact ha _
  · exact hb _

theorem QueueK.iteP {α : Type} {c : Prop} {_ : Decidable c} {a b : State × α} (ha : c → QueueK u a.1) (hb : ¬c → QueueK u b.1) : QueueK u (if c then a else b).1 := by
  split
  · exact ha ‹_›
  · exact hb ‹_›

theorem QueueK.diteP {α : Type} {c : Prop} {_ : Decidable c} {a : c → State × α} {b : ¬c → State × α} (ha : ∀ h, QueueK u (a h).1) (hb : ∀ h, QueueK u (b h).1) :
    QueueK u (if h : c then a h else b h).1 := by
  split
  · exact ha _
  · exact hb _

theorem QueueK.foldl {α : Type} {l : List α} {f : State → α → State} (hf : ∀ t a, QueueK u t → QueueK u (f t a)) (h : QueueK u s) : QueueK u (l.foldl f s) := by
  induction l generalizing s with
  | nil => exact h
  | cons a l ih => exact ih (hf s a h)

theorem QueueK.each {n : Nat} {f : Nat → State → State} (hf : ∀ i t, QueueK u t → QueueK u (f i t)) (h : QueueK u s) : QueueK u (State.each n f s) :=
  QueueK.foldl (fun t a ht => hf a t ht) h

theorem QueueK.over {α : Type} {l : List α} {f : α → State → State} (hf : ∀ i t, QueueK u t → QueueK u (f i t)) (h : QueueK u s) : QueueK u (State.over l f s) :=
  QueueK.foldl (fun t a ht => hf a t ht) h

theorem QueueK.iff {c : Bool} {f : State → State} (hf : ∀ t, QueueK u t → QueueK u (f t)) (h : QueueK u s) : QueueK u (State.iff c f s) := by
  unfold State.iff
  split
  · exact hf s h
  · exact h

theorem QueueK.wr (h : QueueK u s) (a w) : QueueK u (s.wr a w) := ⟨h.eq⟩

theorem QueueK.time_eq (h : QueueK u s) : s.time = u.time := congrArg State.QueueKPart.time h.eq
theorem QueueK.inp_eq (h : QueueK u s) : s.inp = u.inp := congrArg State.QueueKPart.inp h.eq
theorem QueueK.lpe_eq (h : QueueK u s) : s.lpe = u.lpe := congrArg State.QueueKPart.lpe h.eq
theorem QueueK.hmp_eq (h : QueueK u s) : s.hmp = u.hmp := congrArg State.QueueKPart.hmp h.eq
theorem QueueK.prf_eq (h : QueueK u s) : s.prf = u.prf := congrArg State.QueueKPart.prf h.eq
theorem QueueK.site_eq (h : QueueK u s) : s.site = u.site := congrArg State.QueueKPart.site h.eq
theorem QueueK.zfb_eq (h : QueueK u s) : s.zfb = u.zfb := congrArg State.QueueKPart.zfb h.eq
theorem QueueK.wgl_eq (h : QueueK u s) : s.wgl = u.wgl := congrArg State.QueueKPart.wgl h.eq
theorem QueueK.link_eq (h : QueueK u s) : s.link = u.link := congrArg State.QueueKPart.link h.eq
theorem QueueK.chn_eq (h : QueueK u s) : s.chn = u.chn := congrArg State.QueueKPart.chn h.eq
theorem QueueK.est_eq (h : QueueK u s) : s.est = u.est := congrArg State.QueueKPart.est h.eq
theorem QueueK.arr_eq (h : QueueK u s) : s.arr = u.arr := congrArg State.QueueKPart.arr h.eq
theorem QueueK.flt_eq (h : QueueK u s) : s.flt = u.flt := congrArg State.QueueKPart.flt h.eq
theorem QueueK.sec_eq (h : QueueK u s) : s.sec = u.sec := congrArg State.QueueKPart.sec h.eq
theorem QueueK.pwr_eq (h : QueueK u s) : s.pwr = u.pwr := congrArg State.QueueKPart.pwr h.eq
theorem QueueK.cfg_eq (h : QueueK u s) : s.cfg = u.cfg := congrArg State.QueueKPart.cfg h.eq
theorem QueueK.pins_eq (h : QueueK u s) : s.pins = u.pins := congrArg State.QueueKPart.pins h.eq
theorem QueueK.shadow_eq (h : QueueK u s) : s.shadow = u.shadow := congrArg State.QueueKPart.shadow h.eq
theorem QueueK.free_eq (h : QueueK u s) : s.free = u.free := congrArg State.QueueKPart.free h.eq
theorem QueueK.pending_eq (h : QueueK u s) : s.pending = u.pending := congrArg State.QueueKPart.pending h.eq

theorem QueueK.put (h : QueueK u s) (a1 a2) : QueueK u (State.put s a1 a2) := by
  unfold State.put
  refine QueueK.wr ?_ ..
  exact h

theorem QueueK.enqueue (h : QueueK u s) (a1) : QueueK u (State.enqueue s a1) := by
  unfold State.enqueue
  extract_lets +onlyGivenNames -merge -useContext -underBinder x1
  refine QueueK.ite (fun _ => ?_) (fun _ => ?_)
  · extract_lets +onlyGivenNames -merge -useContext -underBinder x2
    extract_lets +onlyGivenNames -merge -useContext -underBinder x3
    extract_lets +onlyGivenNames -merge -useContext -underBinder x4
    extract_lets +onlyGivenNames -merge -useContext -underBinder x5
    have hx5 : QueueK u x5 := by
      unfold x5
      refine QueueK.ite (fun _ => ?_) (fun _ => ?_)
      · exact h
      · refine QueueK.upd ?_ rfl rfl rfl rfl rfl rfl rfl rfl rfl rfl rfl rfl rfl rfl rfl rfl rfl rfl rfl rfl rfl
        exact h
    refine QueueK.ite (fun _ => ?_) (fun _ => ?_)
    · exact hx5
    · refine QueueK.upd (s := x5) ?_ rfl rfl rfl rfl rfl rfl rfl rfl rfl rfl rfl rfl rfl rfl rfl rfl rfl rfl rfl rfl rfl
      exact hx5
  · refine QueueK.upd ?_ rfl rfl rfl rfl rfl rfl rfl rfl rfl rfl rfl rfl rfl rfl rfl rfl rfl rfl rfl rfl rfl
    exact h

theorem QueueK.windowRegs (h : QueueK u s) : QueueK u (State.windowRegs s) := by
  unfold State.windowRegs
  refine QueueK.each (fun _ _ ht1 => ?_) ?_
  · refine QueueK.put ?_ ..
    exact ht1
  · exact h

theorem QueueK.later (h : QueueK u s) (a1 a2 a3 a4 a5 a6) : QueueK u (State.later s a1 a2 a3 a4 a5 a6) := by
  unfold State.later
  extract_lets +onlyGivenNames -merge -useContext -underBinder x1
  refine QueueK.windowRegs ?_ ..
  refine QueueK.upd ?_ rfl rfl rfl rfl rfl rfl rfl rfl rfl rfl rfl rfl rfl rfl rfl rfl rfl rfl rfl rfl rfl
  exact h

theorem QueueK.enqueueAll (h : QueueK u s) (a1) : QueueK u (State.enqueueAll s a1) := by
  unfold State.enqueueAll
  refine QueueK.foldl (fun _ _ ht1 => ?_) ?_
  · refine QueueK.enqueue ?_ ..
    exact ht1
  · exact h

/-- What those functions may change, as a frame names it. -/
theorem QueueK.within {t : State} (h : QueueK s.partQueueK t) : t.within s [.regs, .wq, .lks, .mgp]
  | .regs, hp => (hp (by decide)).elim
  | .time, _ => h.time_eq
  | .inp, _ => h.inp_eq
  | .wq, hp => (hp (by decide)).elim
  | .lpe, _ => h.lpe_eq
  | .hmp, _ => h.hmp_eq
  | .prf, _ => h.prf_eq
  | .site, _ => h.site_eq
  | .zfb, _ => h.zfb_eq
  | .wgl, _ => h.wgl_eq
  | .lks, hp => (hp (by decide)).elim
  | .link, _ => h.link_eq
  | .chn, _ => h.chn_eq
  | .est, _ => h.est_eq
  | .arr, _ => h.arr_eq
  | .flt, _ => h.flt_eq
  | .mgp, hp => (hp (by decide)).elim
  | .sec, _ => h.sec_eq
  | .pwr, _ => h.pwr_eq
  | .cfg, _ => h.cfg_eq
  | .pins, _ => h.pins_eq
  | .shadow, _ => h.shadow_eq
  | .free, _ => h.free_eq
  | .pending, _ => h.pending_eq

end Sys2Proof.Machine
end

