-- ==== Sys2Proof/Laws/ReadK.lean ====
section
/-! SUPPORT. What the reads of Wilros leave alone. -/

namespace Sys2Proof.Machine

/-- The parts of the state that are kept. -/
structure State.ReadKPart where
  time : TimeRt
  inp : InputRt
  wq : List PairWrite
  lpe : LpeRt
  prf : PrfRt
  site : SiteRt
  lks : LksRt
  link : LinkRt
  chn : ChnRt
  est : EstRt
  pwr : PwrRt
  cfg : CfgRt
  pending : List Instr

/-- Those parts of a state. -/
def State.partReadK (s : State) : State.ReadKPart :=
  ⟨s.time, s.inp, s.wq, s.lpe, s.prf, s.site, s.lks, s.link, s.chn, s.est, s.pwr, s.cfg, s.pending⟩

/-- Those parts are the ones given. -/
structure ReadK (u : State.ReadKPart) (s : State) : Prop where
  eq : s.partReadK = u

variable {u : State.ReadKPart} {s : State}

theorem ReadK.upd {regs time inp wq lpe hmp prf site zfb wgl lks link chn est arr flt mgp sec pwr cfg pins shadow free pending} (h : ReadK u s) (h_regs : regs = s.regs) (h_time : time = s.time) (h_inp : inp = s.inp) (h_wq : wq = s.wq) (h_lpe : lpe = s.lpe) (h_prf : prf = s.prf) (h_site : site = s.site) (h_lks : lks = s.lks) (h_link : link = s.link) (h_chn : chn = s.chn) (h_est : est = s.est) (h_pwr : pwr = s.pwr) (h_cfg : cfg = s.cfg) (h_pending : pending = s.pending) :
    ReadK u (State.mk regs time inp wq lpe hmp prf site zfb wgl lks link chn est arr flt mgp sec pwr cfg pins shadow free pending) := by
  subst h_regs h_time h_inp h_wq h_lpe h_prf h_site h_lks h_link h_chn h_est h_pwr h_cfg h_pending
  exact ⟨h.eq⟩

theorem ReadK.rfl' (s : State) : ReadK s.partReadK s := ⟨rfl⟩

theorem ReadK.ite {c : Prop} {_ : Decidable c} {a b : State} (ha : c → ReadK u a) (hb : ¬c → ReadK u b) : ReadK u (if c then a else b) := by
  split
  · exact ha ‹_›
  · exact hb ‹_›

theorem ReadK.dite {c : Prop} {_ : Decidable c} {a : c → State} {b : ¬c → State} (ha : ∀ h, ReadK u (a h)) (hb : ∀ h, ReadK u (b h)) :
    ReadK u (if h : c then a h else b h) := by
  split
  · exact ha _
  · exact hb _

theorem ReadK.iteP {α : Type} {c : Prop} {_ : Decidable c} {a b : State × α} (ha : c → ReadK u a.1) (hb : ¬c → ReadK u b.1) : ReadK u (if c then a else b).1 := by
  split
  · exact ha ‹_›
  · exact hb ‹_›

theorem ReadK.diteP {α : Type} {c : Prop} {_ : Decidable c} {a : c → State × α} {b : ¬c → State × α} (ha : ∀ h, ReadK u (a h).1) (hb : ∀ h, ReadK u (b h).1) :
    ReadK u (if h : c then a h else b h).1 := by
  split
  · exact ha _
  · exact hb _

theorem ReadK.foldl {α : Type} {l : List α} {f : State → α → State} (hf : ∀ t a, ReadK u t → ReadK u (f t a)) (h : ReadK u s) : ReadK u (l.foldl f s) := by
  induction l generalizing s with
  | nil => exact h
  | cons a l ih => exact ih (hf s a h)

theorem ReadK.each {n : Nat} {f : Nat → State → State} (hf : ∀ i t, ReadK u t → ReadK u (f i t)) (h : ReadK u s) : ReadK u (State.each n f s) :=
  ReadK.foldl (fun t a ht => hf a t ht) h

theorem ReadK.over {α : Type} {l : List α} {f : α → State → State} (hf : ∀ i t, ReadK u t → ReadK u (f i t)) (h : ReadK u s) : ReadK u (State.over l f s) :=
  ReadK.foldl (fun t a ht => hf a t ht) h

theorem ReadK.iff {c : Bool} {f : State → State} (hf : ∀ t, ReadK u t → ReadK u (f t)) (h : ReadK u s) : ReadK u (State.iff c f s) := by
  unfold State.iff
  split
  · exact hf s h
  · exact h

theorem ReadK.wr (h : ReadK u s) (a w) : ReadK u (s.wr a w) := ⟨h.eq⟩

theorem ReadK.time_eq (h : ReadK u s) : s.time = u.time := congrArg State.ReadKPart.time h.eq
theorem ReadK.inp_eq (h : ReadK u s) : s.inp = u.inp := congrArg State.ReadKPart.inp h.eq
theorem ReadK.wq_eq (h : ReadK u s) : s.wq = u.wq := congrArg State.ReadKPart.wq h.eq
theorem ReadK.lpe_eq (h : ReadK u s) : s.lpe = u.lpe := congrArg State.ReadKPart.lpe h.eq
theorem ReadK.prf_eq (h : ReadK u s) : s.prf = u.prf := congrArg State.ReadKPart.prf h.eq
theorem ReadK.site_eq (h : ReadK u s) : s.site = u.site := congrArg State.ReadKPart.site h.eq
theorem ReadK.lks_eq (h : ReadK u s) : s.lks = u.lks := congrArg State.ReadKPart.lks h.eq
theorem ReadK.link_eq (h : ReadK u s) : s.link = u.link := congrArg State.ReadKPart.link h.eq
theorem ReadK.chn_eq (h : ReadK u s) : s.chn = u.chn := congrArg State.ReadKPart.chn h.eq
theorem ReadK.est_eq (h : ReadK u s) : s.est = u.est := congrArg State.ReadKPart.est h.eq
theorem ReadK.pwr_eq (h : ReadK u s) : s.pwr = u.pwr := congrArg State.ReadKPart.pwr h.eq
theorem ReadK.cfg_eq (h : ReadK u s) : s.cfg = u.cfg := congrArg State.ReadKPart.cfg h.eq
theorem ReadK.pending_eq (h : ReadK u s) : s.pending = u.pending := congrArg State.ReadKPart.pending h.eq

theorem ReadK.put (h : ReadK u s) (a1 a2) : ReadK u (State.put s a1 a2) := by
  unfold State.put
  refine ReadK.wr ?_ ..
  exact h

theorem ReadK.setFlag (h : ReadK u s) (a1 a2) : ReadK u (State.setFlag s a1 a2) := by
  unfold State.setFlag
  refine ReadK.put ?_ ..
  exact h

theorem ReadK.bump (h : ReadK u s) (a1) : ReadK u (State.bump s a1) := by
  unfold State.bump
  refine ReadK.put ?_ ..
  exact h

theorem ReadK.put64 (h : ReadK u s) (a1 a2 a3) : ReadK u (State.put64 s a1 a2 a3) := by
  unfold State.put64
  refine ReadK.wr ?_ ..
  refine ReadK.wr ?_ ..
  exact h

theorem ReadK.setOs (h : ReadK u s) (a1 a2) : ReadK u (State.setOs s a1 a2) := by
  unfold State.setOs
  refine ReadK.upd ?_ rfl rfl rfl rfl rfl rfl rfl rfl rfl rfl rfl rfl rfl rfl
  exact h

theorem ReadK.putOs (h : ReadK u s) (a1 a2 a3) : ReadK u (State.putOs s a1 a2 a3) := by
  unfold State.putOs
  refine ReadK.put ?_ ..
  refine ReadK.put ?_ ..
  exact h

theorem ReadK.setLane (h : ReadK u s) (a1 a2) : ReadK u (State.setLane s a1 a2) := by
  unfold State.setLane
  refine ReadK.dite (fun _ => ?_) (fun _ => ?_)
  · refine ReadK.upd ?_ rfl rfl rfl rfl rfl rfl rfl rfl rfl rfl rfl rfl rfl rfl
    exact h
  · exact h

theorem ReadK.capture (h : ReadK u s) (a1 a2 a3 a4) : ReadK u (State.capture s a1 a2 a3 a4) := by
  unfold State.capture
  extract_lets +onlyGivenNames -merge -useContext -underBinder x1
  refine ReadK.ite (fun _ => ?_) (fun _ => ?_)
  · extract_lets +onlyGivenNames -merge -useContext -underBinder x2
    extract_lets +onlyGivenNames -merge -useContext -underBinder x3
    have hx3 : ReadK u x3 := by
      unfold x3
      refine ReadK.wr ?_ ..
      exact h
    extract_lets +onlyGivenNames -merge -useContext -underBinder x4
    have hx4 : ReadK u x4 := by
      unfold x4
      refine ReadK.put64 ?_ ..
      exact hx3
    refine ReadK.put ?_ ..
    exact hx4
  · refine ReadK.ite (fun _ => ?_) (fun _ => ?_)
    · exact h
    · extract_lets +onlyGivenNames -merge -useContext -underBinder x5
      have hx5 : ReadK u x5 := by
        unfold x5
        refine ReadK.wr ?_ ..
        exact h
      extract_lets +onlyGivenNames -merge -useContext -underBinder x6
      have hx6 : ReadK u x6 := by
        unfold x6
        refine ReadK.wr ?_ ..
        exact hx5
      refine ReadK.put64 ?_ ..
      exact hx6

theorem ReadK.restoreShed (h : ReadK u s) (a1) : ReadK u (State.restoreShed s a1) := by
  unfold State.restoreShed
  refine ReadK.each (fun _ _ ht1 => ?_) ?_
  · refine ReadK.ite (fun _ => ?_) (fun _ => ?_)
    · refine ReadK.putOs ?_ ..
      exact ht1
    · exact ht1
  · exact h

theorem ReadK.leaveBatch (h : ReadK u s) (a1) : ReadK u (State.leaveBatch s a1) := by
  unfold State.leaveBatch
  refine ReadK.ite (fun _ => ?_) (fun _ => ?_)
  · refine ReadK.put ?_ ..
    refine ReadK.setFlag ?_ ..
    exact h
  · exact h

theorem ReadK.fenceOs (h : ReadK u s) (a1 a2) : ReadK u (State.fenceOs s a1 a2) := by
  unfold State.fenceOs
  extract_lets +onlyGivenNames -merge -useContext -underBinder x1
  have hx1 : ReadK u x1 := by
    unfold x1
    refine ReadK.setOs ?_ ..
    refine ReadK.leaveBatch ?_ ..
    refine ReadK.put ?_ ..
    refine ReadK.put ?_ ..
    exact h
  refine ReadK.ite (fun _ => ?_) (fun _ => ?_)
  · refine ReadK.restoreShed ?_ ..
    exact hx1
  · exact hx1

theorem ReadK.fenceSs (h : ReadK u s) (a1) : ReadK u (State.fenceSs s a1) := by
  unfold State.fenceSs
  refine ReadK.upd ?_ rfl rfl rfl rfl rfl rfl rfl rfl rfl rfl rfl rfl rfl rfl
  exact h

theorem ReadK.fenceFe (h : ReadK u s) (a1) : ReadK u (State.fenceFe s a1) := by
  unfold State.fenceFe
  refine ReadK.upd ?_ rfl rfl rfl rfl rfl rfl rfl rfl rfl rfl rfl rfl rfl rfl
  exact h

theorem ReadK.fenceStr (h : ReadK u s) (a1) : ReadK u (State.fenceStr s a1) := by
  unfold State.fenceStr
  extract_lets +onlyGivenNames -merge -useContext -underBinder x1
  extract_lets +onlyGivenNames -merge -useContext -underBinder x2
  have hx2 : ReadK u x2 := by
    unfold x2
    refine ReadK.upd ?_ rfl rfl rfl rfl rfl rfl rfl rfl rfl rfl rfl rfl rfl rfl
    exact h
  refine ReadK.fenceSs ?_ ..
  refine ReadK.fenceSs ?_ ..
  exact hx2

theorem ReadK.zoneFenceStage (h : ReadK u s) (a1 a2) : ReadK u (State.zoneFenceStage s a1 a2) := by
  unfold State.zoneFenceStage
  extract_lets +onlyGivenNames -merge -useContext -underBinder x1
  refine ReadK.ite (fun _ => ?_) (fun _ => ?_)
  · refine ReadK.setOs ?_ ..
    refine ReadK.putOs ?_ ..
    exact h
  · refine ReadK.ite (fun _ => ?_) (fun _ => ?_)
    · refine ReadK.setOs ?_ ..
      refine ReadK.putOs ?_ ..
      exact h
    · refine ReadK.ite (fun _ => ?_) (fun _ => ?_)
      · refine ReadK.setOs ?_ ..
        refine ReadK.putOs ?_ ..
        exact h
      · exact h

theorem ReadK.fenceZone (h : ReadK u s) (a1) : ReadK u (State.fenceZone s a1) := by
  unfold State.fenceZone
  extract_lets +onlyGivenNames -merge -useContext -underBinder x1
  extract_lets +onlyGivenNames -merge -useContext -underBinder x2
  have hx2 : ReadK u x2 := by
    unfold x2
    refine ReadK.upd ?_ rfl rfl rfl rfl rfl rfl rfl rfl rfl rfl rfl rfl rfl rfl
    exact h
  extract_lets +onlyGivenNames -merge -useContext -underBinder x3
  have hx3 : ReadK u x3 := by
    unfold x3
    refine ReadK.foldl (fun _ _ ht4 => ?_) ?_
    · refine ReadK.zoneFenceStage ?_ ..
      exact ht4
    · exact hx2
  extract_lets +onlyGivenNames -merge -useContext -underBinder x5
  have hx5 : ReadK u x5 := by
    unfold x5
    refine ReadK.setFlag ?_ ..
    exact hx3
  extract_lets +onlyGivenNames -merge -useContext -underBinder x6
  refine ReadK.upd (s := x5) ?_ rfl rfl rfl rfl rfl rfl rfl rfl rfl rfl rfl rfl rfl rfl
  exact hx5

theorem ReadK.fenceGroup (h : ReadK u s) (a1) : ReadK u (State.fenceGroup s a1) := by
  unfold State.fenceGroup
  refine ReadK.foldl (fun _ _ ht1 => ?_) ?_
  · refine ReadK.ite (fun _ => ?_) (fun _ => ?_)
    · refine ReadK.fenceFe ?_ ..
      exact ht1
    · exact ht1
  · exact h

theorem ReadK.fenceLane (h : ReadK u s) (a1) : ReadK u (State.fenceLane s a1) := by
  unfold State.fenceLane
  extract_lets +onlyGivenNames -merge -useContext -underBinder x1
  have hx1 : ReadK u x1 := by
    unfold x1
    refine ReadK.setFlag ?_ ..
    exact h
  extract_lets +onlyGivenNames -merge -useContext -underBinder x2
  have hx2 : ReadK u x2 := by
    unfold x2
    refine ReadK.setFlag ?_ ..
    exact hx1
  refine ReadK.setLane ?_ ..
  exact hx2

theorem ReadK.fenceCore (h : ReadK u s) (a1 a2) : ReadK u (State.fenceCore s a1 a2) := by
  unfold State.fenceCore
  refine ReadK.put ?_ ..
  refine ReadK.put ?_ ..
  exact h

theorem ReadK.fenceUnit (h : ReadK u s) (a1) : ReadK u (State.fenceUnit s a1) := by
  unfold State.fenceUnit
  extract_lets +onlyGivenNames -merge -useContext -underBinder x1
  split
  · refine ReadK.dite (fun _ => ?_) (fun _ => ?_)
    · refine ReadK.fenceOs ?_ ..
      exact h
    · exact h
  · refine ReadK.dite (fun _ => ?_) (fun _ => ?_)
    · refine ReadK.fenceSs ?_ ..
      exact h
    · exact h
  · refine ReadK.dite (fun _ => ?_) (fun _ => ?_)
    · refine ReadK.fenceFe ?_ ..
      exact h
    · exact h
  · refine ReadK.fenceGroup ?_ ..
    exact h
  · refine ReadK.dite (fun _ => ?_) (fun _ => ?_)
    · refine ReadK.fenceZone ?_ ..
      exact h
    · exact h
  · refine ReadK.dite (fun _ => ?_) (fun _ => ?_)
    · refine ReadK.fenceStr ?_ ..
      exact h
    · exact h
  · refine ReadK.put ?_ ..
    refine ReadK.put ?_ ..
    exact h
  · refine ReadK.dite (fun _ => ?_) (fun _ => ?_)
    · refine ReadK.fenceLane ?_ ..
      exact h
    · exact h
  · refine ReadK.fenceCore ?_ ..
    exact h
  · refine ReadK.put ?_ ..
    exact h
  · refine ReadK.dite (fun _ => ?_) (fun _ => ?_)
    · refine ReadK.upd ?_ rfl rfl rfl rfl rfl rfl rfl rfl rfl rfl rfl rfl rfl rfl
      exact h
    · exact h
  · exact h

theorem ReadK.enterSafe (h : ReadK u s) : ReadK u (State.enterSafe s) := by
  unfold State.enterSafe
  extract_lets +onlyGivenNames -merge -useContext -underBinder x1
  extract_lets +onlyGivenNames -merge -useContext -underBinder x2
  extract_lets +onlyGivenNames -merge -useContext -underBinder x3
  have hx3 : ReadK u x3 := by
    unfold x3
    refine ReadK.upd ?_ rfl rfl rfl rfl rfl rfl rfl rfl rfl rfl rfl rfl rfl rfl
    exact h
  extract_lets +onlyGivenNames -merge -useContext -underBinder x4
  have hx4 : ReadK u x4 := by
    unfold x4
    refine ReadK.each (fun _ _ ht5 => ?_) ?_
    · refine ReadK.put ?_ ..
      exact ht5
    · exact hx3
  extract_lets +onlyGivenNames -merge -useContext -underBinder x6
  have hx6 : ReadK u x6 := by
    unfold x6
    refine ReadK.each (fun _ _ ht7 => ?_) ?_
    · refine ReadK.put ?_ ..
      exact ht7
    · exact hx4
  refine ReadK.setFlag ?_ ..
  refine ReadK.put ?_ ..
  exact hx6

theorem ReadK.startDump (h : ReadK u s) (a1 a2) : ReadK u (State.startDump s a1 a2) := by
  unfold State.startDump
  refine ReadK.ite (fun _ => ?_) (fun _ => ?_)
  · refine ReadK.upd ?_ rfl rfl rfl rfl rfl rfl rfl rfl rfl rfl rfl rfl rfl rfl
    exact h
  · refine ReadK.setFlag ?_ ..
    refine ReadK.upd ?_ rfl rfl rfl rfl rfl rfl rfl rfl rfl rfl rfl rfl rfl rfl
    exact h

theorem ReadK.halt (h : ReadK u s) (a1) : ReadK u (State.halt s a1) := by
  unfold State.halt
  extract_lets +onlyGivenNames -merge -useContext -underBinder x1
  have hx1 : ReadK u x1 := by
    unfold x1
    refine ReadK.setFlag ?_ ..
    exact h
  extract_lets +onlyGivenNames -merge -useContext -underBinder x2
  have hx2 : ReadK u x2 := by
    unfold x2
    refine ReadK.enterSafe ?_ ..
    exact hx1
  refine ReadK.ite (fun _ => ?_) (fun _ => ?_)
  · refine ReadK.startDump ?_ ..
    refine ReadK.upd (s := x2) ?_ rfl rfl rfl rfl rfl rfl rfl rfl rfl rfl rfl rfl rfl rfl
    exact hx2
  · exact hx2

theorem ReadK.setPending (h : ReadK u s) (a1 a2 a3 a4) : ReadK u (State.setPending s a1 a2 a3 a4) := by
  unfold State.setPending
  extract_lets +onlyGivenNames -merge -useContext -underBinder x1
  extract_lets +onlyGivenNames -merge -useContext -underBinder x2
  have hx2 : ReadK u x2 := by
    unfold x2
    refine ReadK.put ?_ ..
    exact h
  refine ReadK.upd (s := x2) ?_ rfl rfl rfl rfl rfl rfl rfl rfl rfl rfl rfl rfl rfl rfl
  exact hx2

theorem ReadK.countFault (h : ReadK u s) (a1 a2 a3 a4 a5) : ReadK u (State.countFault s a1 a2 a3 a4 a5) := by
  unfold State.countFault
  extract_lets +onlyGivenNames -merge -useContext -underBinder x1
  have hx1 : ReadK u x1 := by
    unfold x1
    refine ReadK.capture ?_ ..
    refine ReadK.bump ?_ ..
    exact h
  refine ReadK.ite (fun _ => ?_) (fun _ => ?_)
  · refine ReadK.upd (s := x1) ?_ rfl rfl rfl rfl rfl rfl rfl rfl rfl rfl rfl rfl rfl rfl
    exact hx1
  · exact hx1

theorem ReadK.recordAt (h : ReadK u s) (a1 a2 a3 a4 a5 a6 a7) : ReadK u (State.recordAt s a1 a2 a3 a4 a5 a6 a7) := by
  unfold State.recordAt
  extract_lets +onlyGivenNames -merge -useContext -underBinder x1
  extract_lets +onlyGivenNames -merge -useContext -underBinder x2
  extract_lets +onlyGivenNames -merge -useContext -underBinder x3
  extract_lets +onlyGivenNames -merge -useContext -underBinder x4
  have hx4 : ReadK u x4 := by
    unfold x4
    refine ReadK.countFault ?_ ..
    exact h
  refine ReadK.ite (fun _ => ?_) (fun _ => ?_)
  · refine ReadK.halt ?_ ..
    exact hx4
  · extract_lets +onlyGivenNames -merge -useContext -underBinder x5
    have hx5 : ReadK u x5 := by
      unfold x5
      refine ReadK.ite (fun _ => ?_) (fun _ => ?_)
      · exact hx4
      · refine ReadK.setPending ?_ ..
        exact hx4
    refine ReadK.ite (fun _ => ?_) (fun _ => ?_)
    · refine ReadK.fenceUnit ?_ ..
      exact hx5
    · exact hx5

theorem ReadK.latchShadow (h : ReadK u s) (a1 a2) : ReadK u (State.latchShadow s a1 a2) := by
  unfold State.latchShadow
  refine ReadK.ite (fun _ => ?_) (fun _ => ?_)
  · refine ReadK.upd ?_ rfl rfl rfl rfl rfl rfl rfl rfl rfl rfl rfl rfl rfl rfl
    exact h
  · exact h

theorem ReadK.auditRegs (h : ReadK u s) : ReadK u (State.auditRegs s) := by
  unfold State.auditRegs
  extract_lets +onlyGivenNames -merge -useContext -underBinder x1
  refine ReadK.setFlag ?_ ..
  refine ReadK.put ?_ ..
  refine ReadK.put64 ?_ ..
  exact h

theorem ReadK.unstage (h : ReadK u s) (a1) : ReadK u (State.unstage s a1) := by
  unfold State.unstage
  refine ReadK.upd ?_ rfl rfl rfl rfl rfl rfl rfl rfl rfl rfl rfl rfl rfl rfl
  exact h

theorem ReadK.auditMove (h : ReadK u s) : ReadK u (State.auditMove s) := by
  unfold State.auditMove
  extract_lets +onlyGivenNames -merge -useContext -underBinder x1
  extract_lets +onlyGivenNames -merge -useContext -underBinder x2
  extract_lets +onlyGivenNames -merge -useContext -underBinder x3
  extract_lets +onlyGivenNames -merge -useContext -underBinder x4
  refine ReadK.auditRegs ?_ ..
  refine ReadK.unstage ?_ ..
  exact h

theorem ReadK.addEntry (h : ReadK u s) (a1 a2) : ReadK u (State.addEntry s a1 a2) := by
  unfold State.addEntry
  refine ReadK.upd ?_ rfl rfl rfl rfl rfl rfl rfl rfl rfl rfl rfl rfl rfl rfl
  exact h

theorem ReadK.audit (h : ReadK u s) (a1 a2 a3 a4 a5 a6) : ReadK u (State.audit s a1 a2 a3 a4 a5 a6) := by
  unfold State.audit
  extract_lets +onlyGivenNames -merge -useContext -underBinder x1
  extract_lets +onlyGivenNames -merge -useContext -underBinder x2
  have hx2 : ReadK u x2 := by
    unfold x2
    refine ReadK.auditRegs ?_ ..
    refine ReadK.addEntry ?_ ..
    exact h
  refine ReadK.ite (fun _ => ?_) (fun _ => ?_)
  · refine ReadK.auditMove ?_ ..
    exact hx2
  · exact hx2

theorem ReadK.sessionRegs (h : ReadK u s) : ReadK u (State.sessionRegs s) := by
  unfold State.sessionRegs
  extract_lets +onlyGivenNames -merge -useContext -underBinder x1
  extract_lets +onlyGivenNames -merge -useContext -underBinder x2
  have hx2 : ReadK u x2 := by
    unfold x2
    refine ReadK.each (fun _ _ ht3 => ?_) ?_
    · refine ReadK.put ?_ ..
      exact ht3
    · exact h
  refine ReadK.put ?_ ..
  refine ReadK.put ?_ ..
  refine ReadK.put ?_ ..
  exact hx2

theorem ReadK.semRegs (h : ReadK u s) : ReadK u (State.semRegs s) := by
  unfold State.semRegs
  split
  · refine ReadK.put ?_ ..
    refine ReadK.put ?_ ..
    refine ReadK.put ?_ ..
    refine ReadK.setFlag ?_ ..
    exact h
  · extract_lets +onlyGivenNames -merge -useContext -underBinder x1
    refine ReadK.put ?_ ..
    refine ReadK.put ?_ ..
    refine ReadK.put ?_ ..
    refine ReadK.setFlag ?_ ..
    exact h

theorem ReadK.setSem (h : ReadK u s) (a1) : ReadK u (State.setSem s a1) := by
  unfold State.setSem
  refine ReadK.upd ?_ rfl rfl rfl rfl rfl rfl rfl rfl rfl rfl rfl rfl rfl rfl
  exact h

theorem ReadK.semFree (h : ReadK u s) : ReadK u (State.semFree s) := by
  unfold State.semFree
  refine ReadK.semRegs ?_ ..
  refine ReadK.setSem ?_ ..
  exact h

theorem ReadK.dropSession (h : ReadK u s) (a1 a2) : ReadK u (State.dropSession s a1 a2) := by
  unfold State.dropSession
  refine ReadK.upd ?_ rfl rfl rfl rfl rfl rfl rfl rfl rfl rfl rfl rfl rfl rfl
  exact h

theorem ReadK.endSession (h : ReadK u s) (a1 a2) : ReadK u (State.endSession s a1 a2) := by
  unfold State.endSession
  split
  · exact h
  · extract_lets +onlyGivenNames -merge -useContext -underBinder x1
    have hx1 : ReadK u x1 := by
      unfold x1
      refine ReadK.ite (fun _ => ?_) (fun _ => ?_)
      · refine ReadK.semFree ?_ ..
        exact h
      · exact h
    extract_lets +onlyGivenNames -merge -useContext -underBinder x2
    have hx2 : ReadK u x2 := by
      unfold x2
      refine ReadK.dropSession ?_ ..
      exact hx1
    refine ReadK.sessionRegs ?_ ..
    refine ReadK.audit ?_ ..
    exact hx2

theorem ReadK.setSession (h : ReadK u s) (a1 a2 a3) : ReadK u (State.setSession s a1 a2 a3) := by
  unfold State.setSession
  refine ReadK.upd ?_ rfl rfl rfl rfl rfl rfl rfl rfl rfl rfl rfl rfl rfl rfl
  exact h

theorem ReadK.sendNow (h : ReadK u s) (a1 a2) : ReadK u (State.sendNow s a1 a2) := by
  unfold State.sendNow
  refine ReadK.upd ?_ rfl rfl rfl rfl rfl rfl rfl rfl rfl rfl rfl rfl rfl rfl
  exact h

theorem ReadK.countReply (h : ReadK u s) (a1 a2) : ReadK u (State.countReply s a1 a2) := by
  unfold State.countReply
  refine ReadK.ite (fun _ => ?_) (fun _ => ?_)
  · refine ReadK.ite (fun _ => ?_) (fun _ => ?_)
    · refine ReadK.bump ?_ ..
      exact h
    · refine ReadK.ite (fun _ => ?_) (fun _ => ?_)
      · refine ReadK.bump ?_ ..
        exact h
      · exact h
  · exact h

theorem ReadK.keepReply (h : ReadK u s) (a1 a2) : ReadK u (State.keepReply s a1 a2) := by
  unfold State.keepReply
  refine ReadK.setSession ?_ ..
  exact h

theorem ReadK.send (h : ReadK u s) (a1 a2 a3) : ReadK u (State.send s a1 a2 a3) := by
  unfold State.send
  extract_lets +onlyGivenNames -merge -useContext -underBinder x1
  extract_lets +onlyGivenNames -merge -useContext -underBinder x2
  have hx2 : ReadK u x2 := by
    unfold x2
    refine ReadK.countReply ?_ ..
    refine ReadK.sendNow ?_ ..
    exact h
  extract_lets +onlyGivenNames -merge -useContext -underBinder x3
  have hx3 : ReadK u x3 := by
    unfold x3
    refine ReadK.ite (fun _ => ?_) (fun _ => ?_)
    · refine ReadK.keepReply ?_ ..
      exact hx2
    · exact hx2
  refine ReadK.ite (fun _ => ?_) (fun _ => ?_)
  · refine ReadK.endSession ?_ ..
    exact hx3
  · exact hx3

theorem ReadK.answer (h : ReadK u s) (a1 a2 a3 a4 a5 a6) : ReadK u (State.answer s a1 a2 a3 a4 a5 a6) := by
  unfold State.answer
  extract_lets +onlyGivenNames -merge -useContext -underBinder x1
  extract_lets +onlyGivenNames -merge -useContext -underBinder x2
  have hx2 : ReadK u x2 := by
    unfold x2
    refine ReadK.ite (fun _ => ?_) (fun _ => ?_)
    · refine ReadK.audit ?_ ..
      exact h
    · exact h
  refine ReadK.send ?_ ..
  exact hx2

theorem ReadK.okWith (h : ReadK u s) (a1 a2 a3 a4) : ReadK u (State.okWith s a1 a2 a3 a4) := by
  unfold State.okWith
  refine ReadK.answer ?_ ..
  exact h

theorem ReadK.okAsync (h : ReadK u s) (a1 a2 a3) : ReadK u (State.okAsync s a1 a2 a3) := by
  unfold State.okAsync
  extract_lets +onlyGivenNames -merge -useContext -underBinder x1
  extract_lets +onlyGivenNames -merge -useContext -underBinder x2
  have hx2 : ReadK u x2 := by
    unfold x2
    refine ReadK.ite (fun _ => ?_) (fun _ => ?_)
    · refine ReadK.audit ?_ ..
      exact h
    · exact h
  refine ReadK.send ?_ ..
  exact hx2

theorem ReadK.auditReadRun (h : ReadK u s) (a1 a2) : ReadK u (State.auditReadRun s a1 a2) := by
  unfold State.auditReadRun
  extract_lets +onlyGivenNames -merge -useContext -underBinder x1
  extract_lets +onlyGivenNames -merge -useContext -underBinder x2
  refine ReadK.okWith ?_ ..
  exact h

theorem ReadK.busRead (h : ReadK u s) (a1) : ReadK u (State.busRead s a1).1 := by
  unfold State.busRead
  extract_lets +onlyGivenNames -merge -useContext -underBinder x1
  split
  · show ReadK u _
    exact h
  · refine ReadK.diteP (fun _ => ?_) (fun _ => ?_)
    · extract_lets +onlyGivenNames -merge -useContext -underBinder x2
      refine ReadK.iteP (fun _ => ?_) (fun _ => ?_)
      · show ReadK u _
        refine ReadK.recordAt ?_ ..
        refine ReadK.upd ?_ rfl rfl rfl rfl rfl rfl rfl rfl rfl rfl rfl rfl rfl rfl
        exact h
      · show ReadK u _
        refine ReadK.latchShadow ?_ ..
        exact h
    · show ReadK u _
      exact h

theorem ReadK.readBytes (h : ReadK u s) (a1) : ReadK u (State.readBytes s a1).1 := by
  have k : ∀ (l : List Nat) (r : State × List Nat), ReadK u r.1 →
      ReadK u (l.foldl (fun (r : State × List Nat) a => let x := r.1.busRead a; (x.1, r.2 ++ beBytes 4 x.2.toNat)) r).1 := by
    intro l
    induction l with
    | nil => intro r hr; exact hr
    | cons a l ih => intro r hr; exact ih _ (ReadK.busRead hr a)
  exact k _ _ (ReadK.semRegs h)

theorem ReadK.okRegs (h : ReadK u s) (a1 a2 a3 a4) : ReadK u (State.okRegs s a1 a2 a3 a4) := by
  unfold State.okRegs
  extract_lets +onlyGivenNames -merge -useContext -underBinder x1
  have hx1 : ReadK u x1.1 := by
    unfold x1
    refine ReadK.readBytes ?_ ..
    exact h
  refine ReadK.okWith ?_ ..
  exact hx1

theorem ReadK.regReadRun (h : ReadK u s) (a1 a2) : ReadK u (State.regReadRun s a1 a2) := by
  unfold State.regReadRun
  refine ReadK.okRegs ?_ ..
  exact h

theorem ReadK.combReadRun (h : ReadK u s) (a1 a2) : ReadK u (State.combReadRun s a1 a2) := by
  unfold State.combReadRun
  refine ReadK.okRegs ?_ ..
  exact h

theorem ReadK.profileReadRun (h : ReadK u s) (a1 a2) : ReadK u (State.profileReadRun s a1 a2) := by
  unfold State.profileReadRun
  refine ReadK.okRegs ?_ ..
  exact h

theorem ReadK.cellReadRun (h : ReadK u s) (a1 a2) : ReadK u (State.cellReadRun s a1 a2) := by
  unfold State.cellReadRun
  refine ReadK.okRegs ?_ ..
  exact h

theorem ReadK.basketStatusRun (h : ReadK u s) (a1 a2) : ReadK u (State.basketStatusRun s a1 a2) := by
  unfold State.basketStatusRun
  refine ReadK.okRegs ?_ ..
  exact h

theorem ReadK.dramRead (h : ReadK u s) : ReadK u (State.dramRead s) := by
  unfold State.dramRead
  extract_lets +onlyGivenNames -merge -useContext -underBinder x1
  extract_lets +onlyGivenNames -merge -useContext -underBinder x2
  extract_lets +onlyGivenNames -merge -useContext -underBinder x3
  have hx3 : ReadK u x3 := by
    unfold x3
    refine ReadK.upd ?_ rfl rfl rfl rfl rfl rfl rfl rfl rfl rfl rfl rfl rfl rfl
    exact h
  refine ReadK.foldl (fun _ _ ht4 => ?_) ?_
  · refine ReadK.ite (fun _ => ?_) (fun _ => ?_)
    · refine ReadK.recordAt ?_ ..
      exact ht4
    · refine ReadK.recordAt ?_ ..
      exact ht4
  · exact hx3

theorem ReadK.resultReadRun (h : ReadK u s) (a1 a2) : ReadK u (State.resultReadRun s a1 a2) := by
  unfold State.resultReadRun
  extract_lets +onlyGivenNames -merge -useContext -underBinder x1
  refine ReadK.okWith ?_ ..
  refine ReadK.dramRead ?_ ..
  exact h

theorem ReadK.hamperReadRun (h : ReadK u s) (a1 a2) : ReadK u (State.hamperReadRun s a1 a2) := by
  unfold State.hamperReadRun
  extract_lets +onlyGivenNames -merge -useContext -underBinder x1
  extract_lets +onlyGivenNames -merge -useContext -underBinder x2
  have hx2 : ReadK u x2 := by
    unfold x2
    refine ReadK.dramRead ?_ ..
    exact h
  refine ReadK.ite (fun _ => ?_) (fun _ => ?_)
  · refine ReadK.okAsync ?_ ..
    exact hx2
  · refine ReadK.okWith ?_ ..
    exact hx2

theorem ReadK.faultReadRun (h : ReadK u s) (a1 a2) : ReadK u (State.faultReadRun s a1 a2) := by
  unfold State.faultReadRun
  refine ReadK.okRegs ?_ ..
  exact h

theorem ReadK.logReadRun (h : ReadK u s) (a1 a2) : ReadK u (State.logReadRun s a1 a2) := by
  unfold State.logReadRun
  refine ReadK.okWith ?_ ..
  exact h

theorem ReadK.dumpReadRun (h : ReadK u s) (a1 a2) : ReadK u (State.dumpReadRun s a1 a2) := by
  unfold State.dumpReadRun
  extract_lets +onlyGivenNames -merge -useContext -underBinder x1
  have hx1 : ReadK u x1 := by
    unfold x1
    refine ReadK.dramRead ?_ ..
    exact h
  refine ReadK.ite (fun _ => ?_) (fun _ => ?_)
  · refine ReadK.okAsync ?_ ..
    exact hx1
  · split
    · refine ReadK.okWith ?_ ..
      exact hx1
    · refine ReadK.okWith ?_ ..
      exact hx1

theorem ReadK.healthReadRun (h : ReadK u s) (a1 a2) : ReadK u (State.healthReadRun s a1 a2) := by
  unfold State.healthReadRun
  refine ReadK.okRegs ?_ ..
  exact h

theorem ReadK.claimHistoryRun (h : ReadK u s) (a1 a2) : ReadK u (State.claimHistoryRun s a1 a2) := by
  unfold State.claimHistoryRun
  refine ReadK.okWith ?_ ..
  exact h

/-- What those functions may change, as a frame names it. -/
theorem ReadK.within {t : State} (h : ReadK s.partReadK t) : t.within s [.regs, .hmp, .zfb, .wgl, .arr, .flt, .mgp, .sec, .pins, .shadow, .free]
  | .regs, hp => (hp (by decide)).elim
  | .time, _ => h.time_eq
  | .inp, _ => h.inp_eq
  | .wq, _ => h.wq_eq
  | .lpe, _ => h.lpe_eq
  | .hmp, hp => (hp (by decide)).elim
  | .prf, _ => h.prf_eq
  | .site, _ => h.site_eq
  | .zfb, hp => (hp (by decide)).elim
  | .wgl, hp => (hp (by decide)).elim
  | .lks, _ => h.lks_eq
  | .link, _ => h.link_eq
  | .chn, _ => h.chn_eq
  | .est, _ => h.est_eq
  | .arr, hp => (hp (by decide)).elim
  | .flt, hp => (hp (by decide)).elim
  | .mgp, hp => (hp (by decide)).elim
  | .sec, hp => (hp (by decide)).elim
  | .pwr, _ => h.pwr_eq
  | .cfg, _ => h.cfg_eq
  | .pins, hp => (hp (by decide)).elim
  | .shadow, hp => (hp (by decide)).elim
  | .free, hp => (hp (by decide)).elim
  | .pending, _ => h.pending_eq

end Sys2Proof.Machine
end

