-- ==== Sys2Proof/Laws/Rec.lean ====
section
/-! SUPPORT. What the record of a fault leaves alone, whatever it brings. -/

namespace Sys2Proof.Machine

/-- The parts of the state that are kept. -/
structure State.RecPart where
  time : TimeRt
  inp : InputRt
  wq : List PairWrite
  lpe : LpeRt
  prf : PrfRt
  site : SiteRt
  lks : LksRt
  link : LinkRt
  chn : ChnRt
  est : EstRt
  arr : ArrRt
  mgp : MgpRt
  sec : SecRt
  pwr : PwrRt
  cfg : CfgRt
  shadow : List (Nat × Nat × Word)
  free : Nat
  pending : List Instr

/-- Those parts of a state. -/
def State.partRec (s : State) : State.RecPart :=
  ⟨s.time, s.inp, s.wq, s.lpe, s.prf, s.site, s.lks, s.link, s.chn, s.est, s.arr, s.mgp, s.sec, s.pwr, s.cfg, s.shadow, s.free, s.pending⟩

/-- Those parts are the ones given. -/
structure Rec (u : State.RecPart) (s : State) : Prop where
  eq : s.partRec = u

variable {u : State.RecPart} {s : State}

theorem Rec.upd {regs time inp wq lpe hmp prf site zfb wgl lks link chn est arr flt mgp sec pwr cfg pins shadow free pending} (h : Rec u s) (h_regs : regs = s.regs) (h_time : time = s.time) (h_inp : inp = s.inp) (h_wq : wq = s.wq) (h_lpe : lpe = s.lpe) (h_prf : prf = s.prf) (h_site : site = s.site) (h_lks : lks = s.lks) (h_link : link = s.link) (h_chn : chn = s.chn) (h_est : est = s.est) (h_arr : arr = s.arr) (h_mgp : mgp = s.mgp) (h_sec : sec = s.sec) (h_pwr : pwr = s.pwr) (h_cfg : cfg = s.cfg) (h_shadow : shadow = s.shadow) (h_free : free = s.free) (h_pending : pending = s.pending) :
    Rec u (State.mk regs time inp wq lpe hmp prf site zfb wgl lks link chn est arr flt mgp sec pwr cfg pins shadow free pending) := by
  subst h_regs h_time h_inp h_wq h_lpe h_prf h_site h_lks h_link h_chn h_est h_arr h_mgp h_sec h_pwr h_cfg h_shadow h_free h_pending
  exact ⟨h.eq⟩

theorem Rec.rfl' (s : State) : Rec s.partRec s := ⟨rfl⟩

theorem Rec.ite {c : Prop} {_ : Decidable c} {a b : State} (ha : c → Rec u a) (hb : ¬c → Rec u b) : Rec u (if c then a else b) := by
  split
  · exact ha ‹_›
  · exact hb ‹_›

theorem Rec.dite {c : Prop} {_ : Decidable c} {a : c → State} {b : ¬c → State} (ha : ∀ h, Rec u (a h)) (hb : ∀ h, Rec u (b h)) :
    Rec u (if h : c then a h else b h) := by
  split
  · exact ha _
  · exact hb _

theorem Rec.iteP {α : Type} {c : Prop} {_ : Decidable c} {a b : State × α} (ha : c → Rec u a.1) (hb : ¬c → Rec u b.1) : Rec u (if c then a else b).1 := by
  split
  · exact ha ‹_›
  · exact hb ‹_›

theorem Rec.diteP {α : Type} {c : Prop} {_ : Decidable c} {a : c → State × α} {b : ¬c → State × α} (ha : ∀ h, Rec u (a h).1) (hb : ∀ h, Rec u (b h).1) :
    Rec u (if h : c then a h else b h).1 := by
  split
  · exact ha _
  · exact hb _

theorem Rec.foldl {α : Type} {l : List α} {f : State → α → State} (hf : ∀ t a, Rec u t → Rec u (f t a)) (h : Rec u s) : Rec u (l.foldl f s) := by
  induction l generalizing s with
  | nil => exact h
  | cons a l ih => exact ih (hf s a h)

theorem Rec.each {n : Nat} {f : Nat → State → State} (hf : ∀ i t, Rec u t → Rec u (f i t)) (h : Rec u s) : Rec u (State.each n f s) :=
  Rec.foldl (fun t a ht => hf a t ht) h

theorem Rec.over {α : Type} {l : List α} {f : α → State → State} (hf : ∀ i t, Rec u t → Rec u (f i t)) (h : Rec u s) : Rec u (State.over l f s) :=
  Rec.foldl (fun t a ht => hf a t ht) h

theorem Rec.iff {c : Bool} {f : State → State} (hf : ∀ t, Rec u t → Rec u (f t)) (h : Rec u s) : Rec u (State.iff c f s) := by
  unfold State.iff
  split
  · exact hf s h
  · exact h

theorem Rec.wr (h : Rec u s) (a w) : Rec u (s.wr a w) := ⟨h.eq⟩

theorem Rec.time_eq (h : Rec u s) : s.time = u.time := congrArg State.RecPart.time h.eq
theorem Rec.inp_eq (h : Rec u s) : s.inp = u.inp := congrArg State.RecPart.inp h.eq
theorem Rec.wq_eq (h : Rec u s) : s.wq = u.wq := congrArg State.RecPart.wq h.eq
theorem Rec.lpe_eq (h : Rec u s) : s.lpe = u.lpe := congrArg State.RecPart.lpe h.eq
theorem Rec.prf_eq (h : Rec u s) : s.prf = u.prf := congrArg State.RecPart.prf h.eq
theorem Rec.site_eq (h : Rec u s) : s.site = u.site := congrArg State.RecPart.site h.eq
theorem Rec.lks_eq (h : Rec u s) : s.lks = u.lks := congrArg State.RecPart.lks h.eq
theorem Rec.link_eq (h : Rec u s) : s.link = u.link := congrArg State.RecPart.link h.eq
theorem Rec.chn_eq (h : Rec u s) : s.chn = u.chn := congrArg State.RecPart.chn h.eq
theorem Rec.est_eq (h : Rec u s) : s.est = u.est := congrArg State.RecPart.est h.eq
theorem Rec.arr_eq (h : Rec u s) : s.arr = u.arr := congrArg State.RecPart.arr h.eq
theorem Rec.mgp_eq (h : Rec u s) : s.mgp = u.mgp := congrArg State.RecPart.mgp h.eq
theorem Rec.sec_eq (h : Rec u s) : s.sec = u.sec := congrArg State.RecPart.sec h.eq
theorem Rec.pwr_eq (h : Rec u s) : s.pwr = u.pwr := congrArg State.RecPart.pwr h.eq
theorem Rec.cfg_eq (h : Rec u s) : s.cfg = u.cfg := congrArg State.RecPart.cfg h.eq
theorem Rec.shadow_eq (h : Rec u s) : s.shadow = u.shadow := congrArg State.RecPart.shadow h.eq
theorem Rec.free_eq (h : Rec u s) : s.free = u.free := congrArg State.RecPart.free h.eq
theorem Rec.pending_eq (h : Rec u s) : s.pending = u.pending := congrArg State.RecPart.pending h.eq

theorem Rec.put (h : Rec u s) (a1 a2) : Rec u (State.put s a1 a2) := by
  unfold State.put
  refine Rec.wr ?_ ..
  exact h

theorem Rec.setFlag (h : Rec u s) (a1 a2) : Rec u (State.setFlag s a1 a2) := by
  unfold State.setFlag
  refine Rec.put ?_ ..
  exact h

theorem Rec.bump (h : Rec u s) (a1) : Rec u (State.bump s a1) := by
  unfold State.bump
  refine Rec.put ?_ ..
  exact h

theorem Rec.put64 (h : Rec u s) (a1 a2 a3) : Rec u (State.put64 s a1 a2 a3) := by
  unfold State.put64
  refine Rec.wr ?_ ..
  refine Rec.wr ?_ ..
  exact h

theorem Rec.setOs (h : Rec u s) (a1 a2) : Rec u (State.setOs s a1 a2) := by
  unfold State.setOs
  refine Rec.upd ?_ rfl rfl rfl rfl rfl rfl rfl rfl rfl rfl rfl rfl rfl rfl rfl rfl rfl rfl rfl
  exact h

theorem Rec.putOs (h : Rec u s) (a1 a2 a3) : Rec u (State.putOs s a1 a2 a3) := by
  unfold State.putOs
  refine Rec.put ?_ ..
  refine Rec.put ?_ ..
  exact h

theorem Rec.setLane (h : Rec u s) (a1 a2) : Rec u (State.setLane s a1 a2) := by
  unfold State.setLane
  refine Rec.dite (fun _ => ?_) (fun _ => ?_)
  · refine Rec.upd ?_ rfl rfl rfl rfl rfl rfl rfl rfl rfl rfl rfl rfl rfl rfl rfl rfl rfl rfl rfl
    exact h
  · exact h

theorem Rec.capture (h : Rec u s) (a1 a2 a3 a4) : Rec u (State.capture s a1 a2 a3 a4) := by
  unfold State.capture
  extract_lets +onlyGivenNames -merge -useContext -underBinder x1
  refine Rec.ite (fun _ => ?_) (fun _ => ?_)
  · extract_lets +onlyGivenNames -merge -useContext -underBinder x2
    extract_lets +onlyGivenNames -merge -useContext -underBinder x3
    have hx3 : Rec u x3 := by
      unfold x3
      refine Rec.wr ?_ ..
      exact h
    extract_lets +onlyGivenNames -merge -useContext -underBinder x4
    have hx4 : Rec u x4 := by
      unfold x4
      refine Rec.put64 ?_ ..
      exact hx3
    refine Rec.put ?_ ..
    exact hx4
  · refine Rec.ite (fun _ => ?_) (fun _ => ?_)
    · exact h
    · extract_lets +onlyGivenNames -merge -useContext -underBinder x5
      have hx5 : Rec u x5 := by
        unfold x5
        refine Rec.wr ?_ ..
        exact h
      extract_lets +onlyGivenNames -merge -useContext -underBinder x6
      have hx6 : Rec u x6 := by
        unfold x6
        refine Rec.wr ?_ ..
        exact hx5
      refine Rec.put64 ?_ ..
      exact hx6

theorem Rec.restoreShed (h : Rec u s) (a1) : Rec u (State.restoreShed s a1) := by
  unfold State.restoreShed
  refine Rec.each (fun _ _ ht1 => ?_) ?_
  · refine Rec.ite (fun _ => ?_) (fun _ => ?_)
    · refine Rec.putOs ?_ ..
      exact ht1
    · exact ht1
  · exact h

theorem Rec.leaveBatch (h : Rec u s) (a1) : Rec u (State.leaveBatch s a1) := by
  unfold State.leaveBatch
  refine Rec.ite (fun _ => ?_) (fun _ => ?_)
  · refine Rec.put ?_ ..
    refine Rec.setFlag ?_ ..
    exact h
  · exact h

theorem Rec.fenceOs (h : Rec u s) (a1 a2) : Rec u (State.fenceOs s a1 a2) := by
  unfold State.fenceOs
  extract_lets +onlyGivenNames -merge -useContext -underBinder x1
  have hx1 : Rec u x1 := by
    unfold x1
    refine Rec.setOs ?_ ..
    refine Rec.leaveBatch ?_ ..
    refine Rec.put ?_ ..
    refine Rec.put ?_ ..
    exact h
  refine Rec.ite (fun _ => ?_) (fun _ => ?_)
  · refine Rec.restoreShed ?_ ..
    exact hx1
  · exact hx1

theorem Rec.fenceSs (h : Rec u s) (a1) : Rec u (State.fenceSs s a1) := by
  unfold State.fenceSs
  refine Rec.upd ?_ rfl rfl rfl rfl rfl rfl rfl rfl rfl rfl rfl rfl rfl rfl rfl rfl rfl rfl rfl
  exact h

theorem Rec.fenceFe (h : Rec u s) (a1) : Rec u (State.fenceFe s a1) := by
  unfold State.fenceFe
  refine Rec.upd ?_ rfl rfl rfl rfl rfl rfl rfl rfl rfl rfl rfl rfl rfl rfl rfl rfl rfl rfl rfl
  exact h

theorem Rec.fenceStr (h : Rec u s) (a1) : Rec u (State.fenceStr s a1) := by
  unfold State.fenceStr
  extract_lets +onlyGivenNames -merge -useContext -underBinder x1
  extract_lets +onlyGivenNames -merge -useContext -underBinder x2
  have hx2 : Rec u x2 := by
    unfold x2
    refine Rec.upd ?_ rfl rfl rfl rfl rfl rfl rfl rfl rfl rfl rfl rfl rfl rfl rfl rfl rfl rfl rfl
    exact h
  refine Rec.fenceSs ?_ ..
  refine Rec.fenceSs ?_ ..
  exact hx2

theorem Rec.zoneFenceStage (h : Rec u s) (a1 a2) : Rec u (State.zoneFenceStage s a1 a2) := by
  unfold State.zoneFenceStage
  extract_lets +onlyGivenNames -merge -useContext -underBinder x1
  refine Rec.ite (fun _ => ?_) (fun _ => ?_)
  · refine Rec.setOs ?_ ..
    refine Rec.putOs ?_ ..
    exact h
  · refine Rec.ite (fun _ => ?_) (fun _ => ?_)
    · refine Rec.setOs ?_ ..
      refine Rec.putOs ?_ ..
      exact h
    · refine Rec.ite (fun _ => ?_) (fun _ => ?_)
      · refine Rec.setOs ?_ ..
        refine Rec.putOs ?_ ..
        exact h
      · exact h

theorem Rec.fenceZone (h : Rec u s) (a1) : Rec u (State.fenceZone s a1) := by
  unfold State.fenceZone
  extract_lets +onlyGivenNames -merge -useContext -underBinder x1
  extract_lets +onlyGivenNames -merge -useContext -underBinder x2
  have hx2 : Rec u x2 := by
    unfold x2
    refine Rec.upd ?_ rfl rfl rfl rfl rfl rfl rfl rfl rfl rfl rfl rfl rfl rfl rfl rfl rfl rfl rfl
    exact h
  extract_lets +onlyGivenNames -merge -useContext -underBinder x3
  have hx3 : Rec u x3 := by
    unfold x3
    refine Rec.foldl (fun _ _ ht4 => ?_) ?_
    · refine Rec.zoneFenceStage ?_ ..
      exact ht4
    · exact hx2
  extract_lets +onlyGivenNames -merge -useContext -underBinder x5
  have hx5 : Rec u x5 := by
    unfold x5
    refine Rec.setFlag ?_ ..
    exact hx3
  extract_lets +onlyGivenNames -merge -useContext -underBinder x6
  refine Rec.upd (s := x5) ?_ rfl rfl rfl rfl rfl rfl rfl rfl rfl rfl rfl rfl rfl rfl rfl rfl rfl rfl rfl
  exact hx5

theorem Rec.fenceGroup (h : Rec u s) (a1) : Rec u (State.fenceGroup s a1) := by
  unfold State.fenceGroup
  refine Rec.foldl (fun _ _ ht1 => ?_) ?_
  · refine Rec.ite (fun _ => ?_) (fun _ => ?_)
    · refine Rec.fenceFe ?_ ..
      exact ht1
    · exact ht1
  · exact h

theorem Rec.fenceLane (h : Rec u s) (a1) : Rec u (State.fenceLane s a1) := by
  unfold State.fenceLane
  extract_lets +onlyGivenNames -merge -useContext -underBinder x1
  have hx1 : Rec u x1 := by
    unfold x1
    refine Rec.setFlag ?_ ..
    exact h
  extract_lets +onlyGivenNames -merge -useContext -underBinder x2
  have hx2 : Rec u x2 := by
    unfold x2
    refine Rec.setFlag ?_ ..
    exact hx1
  refine Rec.setLane ?_ ..
  exact hx2

theorem Rec.fenceCore (h : Rec u s) (a1 a2) : Rec u (State.fenceCore s a1 a2) := by
  unfold State.fenceCore
  refine Rec.put ?_ ..
  refine Rec.put ?_ ..
  exact h

theorem Rec.fenceUnit (h : Rec u s) (a1) : Rec u (State.fenceUnit s a1) := by
  unfold State.fenceUnit
  extract_lets +onlyGivenNames -merge -useContext -underBinder x1
  split
  · refine Rec.dite (fun _ => ?_) (fun _ => ?_)
    · refine Rec.fenceOs ?_ ..
      exact h
    · exact h
  · refine Rec.dite (fun _ => ?_) (fun _ => ?_)
    · refine Rec.fenceSs ?_ ..
      exact h
    · exact h
  · refine Rec.dite (fun _ => ?_) (fun _ => ?_)
    · refine Rec.fenceFe ?_ ..
      exact h
    · exact h
  · refine Rec.fenceGroup ?_ ..
    exact h
  · refine Rec.dite (fun _ => ?_) (fun _ => ?_)
    · refine Rec.fenceZone ?_ ..
      exact h
    · exact h
  · refine Rec.dite (fun _ => ?_) (fun _ => ?_)
    · refine Rec.fenceStr ?_ ..
      exact h
    · exact h
  · refine Rec.put ?_ ..
    refine Rec.put ?_ ..
    exact h
  · refine Rec.dite (fun _ => ?_) (fun _ => ?_)
    · refine Rec.fenceLane ?_ ..
      exact h
    · exact h
  · refine Rec.fenceCore ?_ ..
    exact h
  · refine Rec.put ?_ ..
    exact h
  · refine Rec.dite (fun _ => ?_) (fun _ => ?_)
    · refine Rec.upd ?_ rfl rfl rfl rfl rfl rfl rfl rfl rfl rfl rfl rfl rfl rfl rfl rfl rfl rfl rfl
      exact h
    · exact h
  · exact h

theorem Rec.enterSafe (h : Rec u s) : Rec u (State.enterSafe s) := by
  unfold State.enterSafe
  extract_lets +onlyGivenNames -merge -useContext -underBinder x1
  extract_lets +onlyGivenNames -merge -useContext -underBinder x2
  extract_lets +onlyGivenNames -merge -useContext -underBinder x3
  have hx3 : Rec u x3 := by
    unfold x3
    refine Rec.upd ?_ rfl rfl rfl rfl rfl rfl rfl rfl rfl rfl rfl rfl rfl rfl rfl rfl rfl rfl rfl
    exact h
  extract_lets +onlyGivenNames -merge -useContext -underBinder x4
  have hx4 : Rec u x4 := by
    unfold x4
    refine Rec.each (fun _ _ ht5 => ?_) ?_
    · refine Rec.put ?_ ..
      exact ht5
    · exact hx3
  extract_lets +onlyGivenNames -merge -useContext -underBinder x6
  have hx6 : Rec u x6 := by
    unfold x6
    refine Rec.each (fun _ _ ht7 => ?_) ?_
    · refine Rec.put ?_ ..
      exact ht7
    · exact hx4
  refine Rec.setFlag ?_ ..
  refine Rec.put ?_ ..
  exact hx6

theorem Rec.startDump (h : Rec u s) (a1 a2) : Rec u (State.startDump s a1 a2) := by
  unfold State.startDump
  refine Rec.ite (fun _ => ?_) (fun _ => ?_)
  · refine Rec.upd ?_ rfl rfl rfl rfl rfl rfl rfl rfl rfl rfl rfl rfl rfl rfl rfl rfl rfl rfl rfl
    exact h
  · refine Rec.setFlag ?_ ..
    refine Rec.upd ?_ rfl rfl rfl rfl rfl rfl rfl rfl rfl rfl rfl rfl rfl rfl rfl rfl rfl rfl rfl
    exact h

theorem Rec.halt (h : Rec u s) (a1) : Rec u (State.halt s a1) := by
  unfold State.halt
  extract_lets +onlyGivenNames -merge -useContext -underBinder x1
  have hx1 : Rec u x1 := by
    unfold x1
    refine Rec.setFlag ?_ ..
    exact h
  extract_lets +onlyGivenNames -merge -useContext -underBinder x2
  have hx2 : Rec u x2 := by
    unfold x2
    refine Rec.enterSafe ?_ ..
    exact hx1
  refine Rec.ite (fun _ => ?_) (fun _ => ?_)
  · refine Rec.startDump ?_ ..
    refine Rec.upd (s := x2) ?_ rfl rfl rfl rfl rfl rfl rfl rfl rfl rfl rfl rfl rfl rfl rfl rfl rfl rfl rfl
    exact hx2
  · exact hx2

theorem Rec.setPending (h : Rec u s) (a1 a2 a3 a4) : Rec u (State.setPending s a1 a2 a3 a4) := by
  unfold State.setPending
  extract_lets +onlyGivenNames -merge -useContext -underBinder x1
  extract_lets +onlyGivenNames -merge -useContext -underBinder x2
  have hx2 : Rec u x2 := by
    unfold x2
    refine Rec.put ?_ ..
    exact h
  refine Rec.upd (s := x2) ?_ rfl rfl rfl rfl rfl rfl rfl rfl rfl rfl rfl rfl rfl rfl rfl rfl rfl rfl rfl
  exact hx2

theorem Rec.countFault (h : Rec u s) (a1 a2 a3 a4 a5) : Rec u (State.countFault s a1 a2 a3 a4 a5) := by
  unfold State.countFault
  extract_lets +onlyGivenNames -merge -useContext -underBinder x1
  have hx1 : Rec u x1 := by
    unfold x1
    refine Rec.capture ?_ ..
    refine Rec.bump ?_ ..
    exact h
  refine Rec.ite (fun _ => ?_) (fun _ => ?_)
  · refine Rec.upd (s := x1) ?_ rfl rfl rfl rfl rfl rfl rfl rfl rfl rfl rfl rfl rfl rfl rfl rfl rfl rfl rfl
    exact hx1
  · exact hx1

theorem Rec.recordAt (h : Rec u s) (a1 a2 a3 a4 a5 a6 a7) : Rec u (State.recordAt s a1 a2 a3 a4 a5 a6 a7) := by
  unfold State.recordAt
  extract_lets +onlyGivenNames -merge -useContext -underBinder x1
  extract_lets +onlyGivenNames -merge -useContext -underBinder x2
  extract_lets +onlyGivenNames -merge -useContext -underBinder x3
  extract_lets +onlyGivenNames -merge -useContext -underBinder x4
  have hx4 : Rec u x4 := by
    unfold x4
    refine Rec.countFault ?_ ..
    exact h
  refine Rec.ite (fun _ => ?_) (fun _ => ?_)
  · refine Rec.halt ?_ ..
    exact hx4
  · extract_lets +onlyGivenNames -merge -useContext -underBinder x5
    have hx5 : Rec u x5 := by
      unfold x5
      refine Rec.ite (fun _ => ?_) (fun _ => ?_)
      · exact hx4
      · refine Rec.setPending ?_ ..
        exact hx4
    refine Rec.ite (fun _ => ?_) (fun _ => ?_)
    · refine Rec.fenceUnit ?_ ..
      exact hx5
    · exact hx5

theorem Rec.record (h : Rec u s) (a1 a2 a3 a4) : Rec u (State.record s a1 a2 a3 a4) := by
  unfold State.record
  refine Rec.recordAt ?_ ..
  exact h

/-- What those functions may change, as a frame names it. -/
theorem Rec.within {t : State} (h : Rec s.partRec t) : t.within s [.regs, .hmp, .zfb, .wgl, .flt, .pins]
  | .regs, hp => (hp (by decide)).elim
  | .time, _ => h.time_eq
  | .inp, _ => h.inp_eq
  | .wq, _ => h.wq_eq
  | .lpe, _ => h.lpe_eq
  | .hmp, hp => (hp (by decide)).elim
  | .prf, _ => h.prf_eq
  | .site, _ => h.site_eq
  | .zfb, hp => (hp (by decide)).elim
  | .wgl, hp => (hp (by decide)).elim
  | .lks, _ => h.lks_eq
  | .link, _ => h.link_eq
  | .chn, _ => h.chn_eq
  | .est, _ => h.est_eq
  | .arr, _ => h.arr_eq
  | .flt, hp => (hp (by decide)).elim
  | .mgp, _ => h.mgp_eq
  | .sec, _ => h.sec_eq
  | .pwr, _ => h.pwr_eq
  | .cfg, _ => h.cfg_eq
  | .pins, hp => (hp (by decide)).elim
  | .shadow, _ => h.shadow_eq
  | .free, _ => h.free_eq
  | .pending, _ => h.pending_eq

end Sys2Proof.Machine
end

