-- ==== Sys2Proof/Laws/RegOnly.lean ====
section
/-! SUPPORT. The operations that change registers alone. -/

namespace Sys2Proof.Machine

/-- The parts of the state that are kept. -/
structure State.RegOnlyPart where
  time : TimeRt
  inp : InputRt
  wq : List PairWrite
  lpe : LpeRt
  hmp : HmpRt
  prf : PrfRt
  site : SiteRt
  zfb : ZfbRt
  wgl : WglRt
  lks : LksRt
  link : LinkRt
  chn : ChnRt
  est : EstRt
  arr : ArrRt
  flt : FltRt
  mgp : MgpRt
  sec : SecRt
  pwr : PwrRt
  cfg : CfgRt
  pins : PinRt
  shadow : List (Nat × Nat × Word)
  free : Nat
  pending : List Instr

/-- Those parts of a state. -/
def State.partRegOnly (s : State) : State.RegOnlyPart :=
  ⟨s.time, s.inp, s.wq, s.lpe, s.hmp, s.prf, s.site, s.zfb, s.wgl, s.lks, s.link, s.chn, s.est, s.arr, s.flt, s.mgp, s.sec, s.pwr, s.cfg, s.pins, s.shadow, s.free, s.pending⟩

/-- Those parts are the ones given. -/
structure RegOnly (u : State.RegOnlyPart) (s : State) : Prop where
  eq : s.partRegOnly = u

variable {u : State.RegOnlyPart} {s : State}

theorem RegOnly.upd {regs time inp wq lpe hmp prf site zfb wgl lks link chn est arr flt mgp sec pwr cfg pins shadow free pending} (h : RegOnly u s) (h_regs : regs = s.regs) (h_time : time = s.time) (h_inp : inp = s.inp) (h_wq : wq = s.wq) (h_lpe : lpe = s.lpe) (h_hmp : hmp = s.hmp) (h_prf : prf = s.prf) (h_site : site = s.site) (h_zfb : zfb = s.zfb) (h_wgl : wgl = s.wgl) (h_lks : lks = s.lks) (h_link : link = s.link) (h_chn : chn = s.chn) (h_est : est = s.est) (h_arr : arr = s.arr) (h_flt : flt = s.flt) (h_mgp : mgp = s.mgp) (h_sec : sec = s.sec) (h_pwr : pwr = s.pwr) (h_cfg : cfg = s.cfg) (h_pins : pins = s.pins) (h_shadow : shadow = s.shadow) (h_free : free = s.free) (h_pending : pending = s.pending) :
    RegOnly u (State.mk regs time inp wq lpe hmp prf site zfb wgl lks link chn est arr flt mgp sec pwr cfg pins shadow free pending) := by
  subst h_regs h_time h_inp h_wq h_lpe h_hmp h_prf h_site h_zfb h_wgl h_lks h_link h_chn h_est h_arr h_flt h_mgp h_sec h_pwr h_cfg h_pins h_shadow h_free h_pending
  exact ⟨h.eq⟩

theorem RegOnly.rfl' (s : State) : RegOnly s.partRegOnly s := ⟨rfl⟩

theorem RegOnly.ite {c : Prop} {_ : Decidable c} {a b : State} (ha : c → RegOnly u a) (hb : ¬c → RegOnly u b) : RegOnly u (if c then a else b) := by
  split
  · exact ha ‹_›
  · exact hb ‹_›

theorem RegOnly.dite {c : Prop} {_ : Decidable c} {a : c → State} {b : ¬c → State} (ha : ∀ h, RegOnly u (a h)) (hb : ∀ h, RegOnly u (b h)) :
    RegOnly u (if h : c then a h else b h) := by
  split
  · exact ha _
  · exact hb _

theorem RegOnly.iteP {α : Type} {c : Prop} {_ : Decidable c} {a b : State × α} (ha : c → RegOnly u a.1) (hb : ¬c → RegOnly u b.1) : RegOnly u (if c then a else b).1 := by
  split
  · exact ha ‹_›
  · exact hb ‹_›

theorem RegOnly.diteP {α : Type} {c : Prop} {_ : Decidable c} {a : c → State × α} {b : ¬c → State × α} (ha : ∀ h, RegOnly u (a h).1) (hb : ∀ h, RegOnly u (b h).1) :
    RegOnly u (if h : c then a h else b h).1 := by
  split
  · exact ha _
  · exact hb _

theorem RegOnly.foldl {α : Type} {l : List α} {f : State → α → State} (hf : ∀ t a, RegOnly u t → RegOnly u (f t a)) (h : RegOnly u s) : RegOnly u (l.foldl f s) := by
  induction l generalizing s with
  | nil => exact h
  | cons a l ih => exact ih (hf s a h)

theorem RegOnly.each {n : Nat} {f : Nat → State → State} (hf : ∀ i t, RegOnly u t → RegOnly u (f i t)) (h : RegOnly u s) : RegOnly u (State.each n f s) :=
  RegOnly.foldl (fun t a ht => hf a t ht) h

theorem RegOnly.over {α : Type} {l : List α} {f : α → State → State} (hf : ∀ i t, RegOnly u t → RegOnly u (f i t)) (h : RegOnly u s) : RegOnly u (State.over l f s) :=
  RegOnly.foldl (fun t a ht => hf a t ht) h

theorem RegOnly.iff {c : Bool} {f : State → State} (hf : ∀ t, RegOnly u t → RegOnly u (f t)) (h : RegOnly u s) : RegOnly u (State.iff c f s) := by
  unfold State.iff
  split
  · exact hf s h
  · exact h

theorem RegOnly.wr (h : RegOnly u s) (a w) : RegOnly u (s.wr a w) := ⟨h.eq⟩

theorem RegOnly.time_eq (h : RegOnly u s) : s.time = u.time := congrArg State.RegOnlyPart.time h.eq
theorem RegOnly.inp_eq (h : RegOnly u s) : s.inp = u.inp := congrArg State.RegOnlyPart.inp h.eq
theorem RegOnly.wq_eq (h : RegOnly u s) : s.wq = u.wq := congrArg State.RegOnlyPart.wq h.eq
theorem RegOnly.lpe_eq (h : RegOnly u s) : s.lpe = u.lpe := congrArg State.RegOnlyPart.lpe h.eq
theorem RegOnly.hmp_eq (h : RegOnly u s) : s.hmp = u.hmp := congrArg State.RegOnlyPart.hmp h.eq
theorem RegOnly.prf_eq (h : RegOnly u s) : s.prf = u.prf := congrArg State.RegOnlyPart.prf h.eq
theorem RegOnly.site_eq (h : RegOnly u s) : s.site = u.site := congrArg State.RegOnlyPart.site h.eq
theorem RegOnly.zfb_eq (h : RegOnly u s) : s.zfb = u.zfb := congrArg State.RegOnlyPart.zfb h.eq
theorem RegOnly.wgl_eq (h : RegOnly u s) : s.wgl = u.wgl := congrArg State.RegOnlyPart.wgl h.eq
theorem RegOnly.lks_eq (h : RegOnly u s) : s.lks = u.lks := congrArg State.RegOnlyPart.lks h.eq
theorem RegOnly.link_eq (h : RegOnly u s) : s.link = u.link := congrArg State.RegOnlyPart.link h.eq
theorem RegOnly.chn_eq (h : RegOnly u s) : s.chn = u.chn := congrArg State.RegOnlyPart.chn h.eq
theorem RegOnly.est_eq (h : RegOnly u s) : s.est = u.est := congrArg State.RegOnlyPart.est h.eq
theorem RegOnly.arr_eq (h : RegOnly u s) : s.arr = u.arr := congrArg State.RegOnlyPart.arr h.eq
theorem RegOnly.flt_eq (h : RegOnly u s) : s.flt = u.flt := congrArg State.RegOnlyPart.flt h.eq
theorem RegOnly.mgp_eq (h : RegOnly u s) : s.mgp = u.mgp := congrArg State.RegOnlyPart.mgp h.eq
theorem RegOnly.sec_eq (h : RegOnly u s) : s.sec = u.sec := congrArg State.RegOnlyPart.sec h.eq
theorem RegOnly.pwr_eq (h : RegOnly u s) : s.pwr = u.pwr := congrArg State.RegOnlyPart.pwr h.eq
theorem RegOnly.cfg_eq (h : RegOnly u s) : s.cfg = u.cfg := congrArg State.RegOnlyPart.cfg h.eq
theorem RegOnly.pins_eq (h : RegOnly u s) : s.pins = u.pins := congrArg State.RegOnlyPart.pins h.eq
theorem RegOnly.shadow_eq (h : RegOnly u s) : s.shadow = u.shadow := congrArg State.RegOnlyPart.shadow h.eq
theorem RegOnly.free_eq (h : RegOnly u s) : s.free = u.free := congrArg State.RegOnlyPart.free h.eq
theorem RegOnly.pending_eq (h : RegOnly u s) : s.pending = u.pending := congrArg State.RegOnlyPart.pending h.eq

theorem RegOnly.put (h : RegOnly u s) (a1 a2) : RegOnly u (State.put s a1 a2) := by
  unfold State.put
  refine RegOnly.wr ?_ ..
  exact h

theorem RegOnly.setFlag (h : RegOnly u s) (a1 a2) : RegOnly u (State.setFlag s a1 a2) := by
  unfold State.setFlag
  refine RegOnly.put ?_ ..
  exact h

theorem RegOnly.putBF (h : RegOnly u s) (a1 a2) : RegOnly u (State.putBF s a1 a2) := by
  unfold State.putBF
  refine RegOnly.wr ?_ ..
  exact h

theorem RegOnly.bump (h : RegOnly u s) (a1) : RegOnly u (State.bump s a1) := by
  unfold State.bump
  refine RegOnly.put ?_ ..
  exact h

theorem RegOnly.bumpSat (h : RegOnly u s) (a1) : RegOnly u (State.bumpSat s a1) := by
  unfold State.bumpSat
  refine RegOnly.put ?_ ..
  exact h

theorem RegOnly.put64 (h : RegOnly u s) (a1 a2 a3) : RegOnly u (State.put64 s a1 a2 a3) := by
  unfold State.put64
  refine RegOnly.wr ?_ ..
  refine RegOnly.wr ?_ ..
  exact h

theorem RegOnly.putOs (h : RegOnly u s) (a1 a2 a3) : RegOnly u (State.putOs s a1 a2 a3) := by
  unfold State.putOs
  refine RegOnly.put ?_ ..
  refine RegOnly.put ?_ ..
  exact h

theorem RegOnly.capture (h : RegOnly u s) (a1 a2 a3 a4) : RegOnly u (State.capture s a1 a2 a3 a4) := by
  unfold State.capture
  extract_lets +onlyGivenNames -merge -useContext -underBinder x1
  refine RegOnly.ite (fun _ => ?_) (fun _ => ?_)
  · extract_lets +onlyGivenNames -merge -useContext -underBinder x2
    extract_lets +onlyGivenNames -merge -useContext -underBinder x3
    have hx3 : RegOnly u x3 := by
      unfold x3
      refine RegOnly.wr ?_ ..
      exact h
    extract_lets +onlyGivenNames -merge -useContext -underBinder x4
    have hx4 : RegOnly u x4 := by
      unfold x4
      refine RegOnly.put64 ?_ ..
      exact hx3
    refine RegOnly.put ?_ ..
    exact hx4
  · refine RegOnly.ite (fun _ => ?_) (fun _ => ?_)
    · exact h
    · extract_lets +onlyGivenNames -merge -useContext -underBinder x5
      have hx5 : RegOnly u x5 := by
        unfold x5
        refine RegOnly.wr ?_ ..
        exact h
      extract_lets +onlyGivenNames -merge -useContext -underBinder x6
      have hx6 : RegOnly u x6 := by
        unfold x6
        refine RegOnly.wr ?_ ..
        exact hx5
      refine RegOnly.put64 ?_ ..
      exact hx6

theorem RegOnly.clearRecords (h : RegOnly u s) (a1) : RegOnly u (State.clearRecords s a1) := by
  unfold State.clearRecords
  extract_lets +onlyGivenNames -merge -useContext -underBinder x1
  have hx1 : RegOnly u x1 := by
    unfold x1
    refine RegOnly.wr ?_ ..
    refine RegOnly.wr ?_ ..
    refine RegOnly.wr ?_ ..
    refine RegOnly.wr ?_ ..
    exact h
  extract_lets +onlyGivenNames -merge -useContext -underBinder x2
  have hx2 : RegOnly u x2 := by
    unfold x2
    refine RegOnly.wr ?_ ..
    exact hx1
  refine RegOnly.each (fun _ _ ht3 => ?_) ?_
  · refine RegOnly.wr ?_ ..
    refine RegOnly.wr ?_ ..
    refine RegOnly.wr ?_ ..
    exact ht3
  · exact hx2

theorem RegOnly.restoreShed (h : RegOnly u s) (a1) : RegOnly u (State.restoreShed s a1) := by
  unfold State.restoreShed
  refine RegOnly.each (fun _ _ ht1 => ?_) ?_
  · refine RegOnly.ite (fun _ => ?_) (fun _ => ?_)
    · refine RegOnly.putOs ?_ ..
      exact ht1
    · exact ht1
  · exact h

theorem RegOnly.fenceCore (h : RegOnly u s) (a1 a2) : RegOnly u (State.fenceCore s a1 a2) := by
  unfold State.fenceCore
  refine RegOnly.put ?_ ..
  refine RegOnly.put ?_ ..
  exact h

theorem RegOnly.prfRegs (h : RegOnly u s) : RegOnly u (State.prfRegs s) := by
  unfold State.prfRegs
  refine RegOnly.putBF ?_ ..
  refine RegOnly.putBF ?_ ..
  refine RegOnly.putBF ?_ ..
  refine RegOnly.putBF ?_ ..
  refine RegOnly.putBF ?_ ..
  exact h

theorem RegOnly.countCores (h : RegOnly u s) : RegOnly u (State.countCores s) := by
  unfold State.countCores
  extract_lets +onlyGivenNames -merge -useContext -underBinder x1
  refine RegOnly.put ?_ ..
  refine RegOnly.put ?_ ..
  refine RegOnly.put ?_ ..
  refine RegOnly.put ?_ ..
  exact h

theorem RegOnly.refuseMdl (h : RegOnly u s) (a1 a2) : RegOnly u (State.refuseMdl s a1 a2) := by
  unfold State.refuseMdl
  refine RegOnly.put ?_ ..
  refine RegOnly.put ?_ ..
  exact h

/-- What those functions may change, as a frame names it. -/
theorem RegOnly.within {t : State} (h : RegOnly s.partRegOnly t) : t.within s [.regs]
  | .regs, hp => (hp (by decide)).elim
  | .time, _ => h.time_eq
  | .inp, _ => h.inp_eq
  | .wq, _ => h.wq_eq
  | .lpe, _ => h.lpe_eq
  | .hmp, _ => h.hmp_eq
  | .prf, _ => h.prf_eq
  | .site, _ => h.site_eq
  | .zfb, _ => h.zfb_eq
  | .wgl, _ => h.wgl_eq
  | .lks, _ => h.lks_eq
  | .link, _ => h.link_eq
  | .chn, _ => h.chn_eq
  | .est, _ => h.est_eq
  | .arr, _ => h.arr_eq
  | .flt, _ => h.flt_eq
  | .mgp, _ => h.mgp_eq
  | .sec, _ => h.sec_eq
  | .pwr, _ => h.pwr_eq
  | .cfg, _ => h.cfg_eq
  | .pins, _ => h.pins_eq
  | .shadow, _ => h.shadow_eq
  | .free, _ => h.free_eq
  | .pending, _ => h.pending_eq

end Sys2Proof.Machine
end

