-- ==== Sys2Proof/Laws/RepK.lean ====
section
/-! SUPPORT. What a health report leaves alone. -/

namespace Sys2Proof.Machine

/-- The parts of the state that are kept. -/
structure State.RepKPart where
  time : TimeRt
  inp : InputRt
  wq : List PairWrite
  lpe : LpeRt
  hmp : HmpRt
  prf : PrfRt
  site : SiteRt
  zfb : ZfbRt
  wgl : WglRt
  link : LinkRt
  chn : ChnRt
  est : EstRt
  arr : ArrRt
  flt : FltRt
  mgp : MgpRt
  sec : SecRt
  pwr : PwrRt
  cfg : CfgRt
  pins : PinRt
  shadow : List (Nat × Nat × Word)
  free : Nat
  pending : List Instr

/-- Those parts of a state. -/
def State.partRepK (s : State) : State.RepKPart :=
  ⟨s.time, s.inp, s.wq, s.lpe, s.hmp, s.prf, s.site, s.zfb, s.wgl, s.link, s.chn, s.est, s.arr, s.flt, s.mgp, s.sec, s.pwr, s.cfg, s.pins, s.shadow, s.free, s.pending⟩

/-- Those parts are the ones given. -/
structure RepK (u : State.RepKPart) (s : State) : Prop where
  eq : s.partRepK = u

variable {u : State.RepKPart} {s : State}

theorem RepK.upd {regs time inp wq lpe hmp prf site zfb wgl lks link chn est arr flt mgp sec pwr cfg pins shadow free pending} (h : RepK u s) (h_regs : regs = s.regs) (h_time : time = s.time) (h_inp : inp = s.inp) (h_wq : wq = s.wq) (h_lpe : lpe = s.lpe) (h_hmp : hmp = s.hmp) (h_prf : prf = s.prf) (h_site : site = s.site) (h_zfb : zfb = s.zfb) (h_wgl : wgl = s.wgl) (h_link : link = s.link) (h_chn : chn = s.chn) (h_est : est = s.est) (h_arr : arr = s.arr) (h_flt : flt = s.flt) (h_mgp : mgp = s.mgp) (h_sec : sec = s.sec) (h_pwr : pwr = s.pwr) (h_cfg : cfg = s.cfg) (h_pins : pins = s.pins) (h_shadow : shadow = s.shadow) (h_free : free = s.free) (h_pending : pending = s.pending) :
    RepK u (State.mk regs time inp wq lpe hmp prf site zfb wgl lks link chn est arr flt mgp sec pwr cfg pins shadow free pending) := by
  subst h_regs h_time h_inp h_wq h_lpe h_hmp h_prf h_site h_zfb h_wgl h_link h_chn h_est h_arr h_flt h_mgp h_sec h_pwr h_cfg h_pins h_shadow h_free h_pending
  exact ⟨h.eq⟩

theorem RepK.rfl' (s : State) : RepK s.partRepK s := ⟨rfl⟩

/-- What a command answers keeps them. -/
def RepKo (u : State.RepKPart) (o : Host.Outcome State Fault Refusal) : Prop := ∀ t, o = Host.Outcome.next t → RepK u t

theorem RepKo.next (h : RepK u s) : RepKo u (Host.Outcome.next s) := fun t e => by cases e; exact h

theorem RepK.ite {c : Prop} {_ : Decidable c} {a b : State} (ha : c → RepK u a) (hb : ¬c → RepK u b) : RepK u (if c then a else b) := by
  split
  · exact ha ‹_›
  · exact hb ‹_›

theorem RepK.dite {c : Prop} {_ : Decidable c} {a : c → State} {b : ¬c → State} (ha : ∀ h, RepK u (a h)) (hb : ∀ h, RepK u (b h)) :
    RepK u (if h : c then a h else b h) := by
  split
  · exact ha _
  · exact hb _

theorem RepK.iteP {α : Type} {c : Prop} {_ : Decidable c} {a b : State × α} (ha : c → RepK u a.1) (hb : ¬c → RepK u b.1) : RepK u (if c then a else b).1 := by
  split
  · exact ha ‹_›
  · exact hb ‹_›

theorem RepK.diteP {α : Type} {c : Prop} {_ : Decidable c} {a : c → State × α} {b : ¬c → State × α} (ha : ∀ h, RepK u (a h).1) (hb : ∀ h, RepK u (b h).1) :
    RepK u (if h : c then a h else b h).1 := by
  split
  · exact ha _
  · exact hb _

theorem RepK.foldl {α : Type} {l : List α} {f : State → α → State} (hf : ∀ t a, RepK u t → RepK u (f t a)) (h : RepK u s) : RepK u (l.foldl f s) := by
  induction l generalizing s with
  | nil => exact h
  | cons a l ih => exact ih (hf s a h)

theorem RepK.each {n : Nat} {f : Nat → State → State} (hf : ∀ i t, RepK u t → RepK u (f i t)) (h : RepK u s) : RepK u (State.each n f s) :=
  RepK.foldl (fun t a ht => hf a t ht) h

theorem RepK.over {α : Type} {l : List α} {f : α → State → State} (hf : ∀ i t, RepK u t → RepK u (f i t)) (h : RepK u s) : RepK u (State.over l f s) :=
  RepK.foldl (fun t a ht => hf a t ht) h

theorem RepK.iff {c : Bool} {f : State → State} (hf : ∀ t, RepK u t → RepK u (f t)) (h : RepK u s) : RepK u (State.iff c f s) := by
  unfold State.iff
  split
  · exact hf s h
  · exact h

theorem RepK.wr (h : RepK u s) (a w) : RepK u (s.wr a w) := ⟨h.eq⟩

theorem RepK.time_eq (h : RepK u s) : s.time = u.time := congrArg State.RepKPart.time h.eq
theorem RepK.inp_eq (h : RepK u s) : s.inp = u.inp := congrArg State.RepKPart.inp h.eq
theorem RepK.wq_eq (h : RepK u s) : s.wq = u.wq := congrArg State.RepKPart.wq h.eq
theorem RepK.lpe_eq (h : RepK u s) : s.lpe = u.lpe := congrArg State.RepKPart.lpe h.eq
theorem RepK.hmp_eq (h : RepK u s) : s.hmp = u.hmp := congrArg State.RepKPart.hmp h.eq
theorem RepK.prf_eq (h : RepK u s) : s.prf = u.prf := congrArg State.RepKPart.prf h.eq
theorem RepK.site_eq (h : RepK u s) : s.site = u.site := congrArg State.RepKPart.site h.eq
theorem RepK.zfb_eq (h : RepK u s) : s.zfb = u.zfb := congrArg State.RepKPart.zfb h.eq
theorem RepK.wgl_eq (h : RepK u s) : s.wgl = u.wgl := congrArg State.RepKPart.wgl h.eq
theorem RepK.link_eq (h : RepK u s) : s.link = u.link := congrArg State.RepKPart.link h.eq
theorem RepK.chn_eq (h : RepK u s) : s.chn = u.chn := congrArg State.RepKPart.chn h.eq
theorem RepK.est_eq (h : RepK u s) : s.est = u.est := congrArg State.RepKPart.est h.eq
theorem RepK.arr_eq (h : RepK u s) : s.arr = u.arr := congrArg State.RepKPart.arr h.eq
theorem RepK.flt_eq (h : RepK u s) : s.flt = u.flt := congrArg State.RepKPart.flt h.eq
theorem RepK.mgp_eq (h : RepK u s) : s.mgp = u.mgp := congrArg State.RepKPart.mgp h.eq
theorem RepK.sec_eq (h : RepK u s) : s.sec = u.sec := congrArg State.RepKPart.sec h.eq
theorem RepK.pwr_eq (h : RepK u s) : s.pwr = u.pwr := congrArg State.RepKPart.pwr h.eq
theorem RepK.cfg_eq (h : RepK u s) : s.cfg = u.cfg := congrArg State.RepKPart.cfg h.eq
theorem RepK.pins_eq (h : RepK u s) : s.pins = u.pins := congrArg State.RepKPart.pins h.eq
theorem RepK.shadow_eq (h : RepK u s) : s.shadow = u.shadow := congrArg State.RepKPart.shadow h.eq
theorem RepK.free_eq (h : RepK u s) : s.free = u.free := congrArg State.RepKPart.free h.eq
theorem RepK.pending_eq (h : RepK u s) : s.pending = u.pending := congrArg State.RepKPart.pending h.eq

theorem RepK.put (h : RepK u s) (a1 a2) : RepK u (State.put s a1 a2) := by
  unfold State.put
  refine RepK.wr ?_ ..
  exact h

theorem RepK.holdConfig (h : RepK u s) (a1) : RepK u (State.holdConfig s a1) := by
  unfold State.holdConfig
  refine RepK.upd ?_ rfl rfl rfl rfl rfl rfl rfl rfl rfl rfl rfl rfl rfl rfl rfl rfl rfl rfl rfl rfl rfl rfl rfl
  exact h

theorem RepK.takeReport (h : RepK u s) (a1) : RepK u (State.takeReport s a1) := by
  unfold State.takeReport
  extract_lets +onlyGivenNames -merge -useContext -underBinder x1
  have hx1 : RepK u x1 := by
    unfold x1
    refine RepK.foldl (fun _ _ ht2 => ?_) ?_
    · refine RepK.wr ?_ ..
      exact ht2
    · exact h
  refine RepK.holdConfig ?_ ..
  refine RepK.put ?_ ..
  exact hx1

theorem RepK.execHealthReport_keeps (h : RepK u s) (a0) : RepKo u (execHealthReport a0 s) := by
  unfold execHealthReport
  refine RepKo.next ?_
  refine RepK.ite (fun _ => ?_) (fun _ => ?_)
  · exact h
  · refine RepK.takeReport ?_ ..
    exact h

/-- What those functions may change, as a frame names it. -/
theorem RepK.within {t : State} (h : RepK s.partRepK t) : t.within s [.regs, .lks]
  | .regs, hp => (hp (by decide)).elim
  | .time, _ => h.time_eq
  | .inp, _ => h.inp_eq
  | .wq, _ => h.wq_eq
  | .lpe, _ => h.lpe_eq
  | .hmp, _ => h.hmp_eq
  | .prf, _ => h.prf_eq
  | .site, _ => h.site_eq
  | .zfb, _ => h.zfb_eq
  | .wgl, _ => h.wgl_eq
  | .lks, hp => (hp (by decide)).elim
  | .link, _ => h.link_eq
  | .chn, _ => h.chn_eq
  | .est, _ => h.est_eq
  | .arr, _ => h.arr_eq
  | .flt, _ => h.flt_eq
  | .mgp, _ => h.mgp_eq
  | .sec, _ => h.sec_eq
  | .pwr, _ => h.pwr_eq
  | .cfg, _ => h.cfg_eq
  | .pins, _ => h.pins_eq
  | .shadow, _ => h.shadow_eq
  | .free, _ => h.free_eq
  | .pending, _ => h.pending_eq

end Sys2Proof.Machine
end

