-- ==== Sys2Proof/Laws/ReplyK.lean ====
section
/-! SUPPORT. What a good reply of the cell chain leaves alone. -/

namespace Sys2Proof.Machine

/-- The parts of the state that are kept. -/
structure State.ReplyKPart where
  time : TimeRt
  wq : List PairWrite
  lpe : LpeRt
  hmp : HmpRt
  prf : PrfRt
  site : SiteRt
  zfb : ZfbRt
  wgl : WglRt
  lks : LksRt
  link : LinkRt
  est : EstRt
  arr : ArrRt
  flt : FltRt
  mgp : MgpRt
  sec : SecRt
  pwr : PwrRt
  cfg : CfgRt
  pins : PinRt
  shadow : List (Nat × Nat × Word)
  free : Nat
  pending : List Instr

/-- Those parts of a state. -/
def State.partReplyK (s : State) : State.ReplyKPart :=
  ⟨s.time, s.wq, s.lpe, s.hmp, s.prf, s.site, s.zfb, s.wgl, s.lks, s.link, s.est, s.arr, s.flt, s.mgp, s.sec, s.pwr, s.cfg, s.pins, s.shadow, s.free, s.pending⟩

/-- Those parts are the ones given. -/
structure ReplyK (u : State.ReplyKPart) (s : State) : Prop where
  eq : s.partReplyK = u

variable {u : State.ReplyKPart} {s : State}

theorem ReplyK.upd {regs time inp wq lpe hmp prf site zfb wgl lks link chn est arr flt mgp sec pwr cfg pins shadow free pending} (h : ReplyK u s) (h_regs : regs = s.regs) (h_time : time = s.time) (h_wq : wq = s.wq) (h_lpe : lpe = s.lpe) (h_hmp : hmp = s.hmp) (h_prf : prf = s.prf) (h_site : site = s.site) (h_zfb : zfb = s.zfb) (h_wgl : wgl = s.wgl) (h_lks : lks = s.lks) (h_link : link = s.link) (h_est : est = s.est) (h_arr : arr = s.arr) (h_flt : flt = s.flt) (h_mgp : mgp = s.mgp) (h_sec : sec = s.sec) (h_pwr : pwr = s.pwr) (h_cfg : cfg = s.cfg) (h_pins : pins = s.pins) (h_shadow : shadow = s.shadow) (h_free : free = s.free) (h_pending : pending = s.pending) :
    ReplyK u (State.mk regs time inp wq lpe hmp prf site zfb wgl lks link chn est arr flt mgp sec pwr cfg pins shadow free pending) := by
  subst h_regs h_time h_wq h_lpe h_hmp h_prf h_site h_zfb h_wgl h_lks h_link h_est h_arr h_flt h_mgp h_sec h_pwr h_cfg h_pins h_shadow h_free h_pending
  exact ⟨h.eq⟩

theorem ReplyK.rfl' (s : State) : ReplyK s.partReplyK s := ⟨rfl⟩

theorem ReplyK.ite {c : Prop} {_ : Decidable c} {a b : State} (ha : c → ReplyK u a) (hb : ¬c → ReplyK u b) : ReplyK u (if c then a else b) := by
  split
  · exact ha ‹_›
  · exact hb ‹_›

theorem ReplyK.dite {c : Prop} {_ : Decidable c} {a : c → State} {b : ¬c → State} (ha : ∀ h, ReplyK u (a h)) (hb : ∀ h, ReplyK u (b h)) :
    ReplyK u (if h : c then a h else b h) := by
  split
  · exact ha _
  · exact hb _

theorem ReplyK.iteP {α : Type} {c : Prop} {_ : Decidable c} {a b : State × α} (ha : c → ReplyK u a.1) (hb : ¬c → ReplyK u b.1) : ReplyK u (if c then a else b).1 := by
  split
  · exact ha ‹_›
  · exact hb ‹_›

theorem ReplyK.diteP {α : Type} {c : Prop} {_ : Decidable c} {a : c → State × α} {b : ¬c → State × α} (ha : ∀ h, ReplyK u (a h).1) (hb : ∀ h, ReplyK u (b h).1) :
    ReplyK u (if h : c then a h else b h).1 := by
  split
  · exact ha _
  · exact hb _

theorem ReplyK.foldl {α : Type} {l : List α} {f : State → α → State} (hf : ∀ t a, ReplyK u t → ReplyK u (f t a)) (h : ReplyK u s) : ReplyK u (l.foldl f s) := by
  induction l generalizing s with
  | nil => exact h
  | cons a l ih => exact ih (hf s a h)

theorem ReplyK.each {n : Nat} {f : Nat → State → State} (hf : ∀ i t, ReplyK u t → ReplyK u (f i t)) (h : ReplyK u s) : ReplyK u (State.each n f s) :=
  ReplyK.foldl (fun t a ht => hf a t ht) h

theorem ReplyK.over {α : Type} {l : List α} {f : α → State → State} (hf : ∀ i t, ReplyK u t → ReplyK u (f i t)) (h : ReplyK u s) : ReplyK u (State.over l f s) :=
  ReplyK.foldl (fun t a ht => hf a t ht) h

theorem ReplyK.iff {c : Bool} {f : State → State} (hf : ∀ t, ReplyK u t → ReplyK u (f t)) (h : ReplyK u s) : ReplyK u (State.iff c f s) := by
  unfold State.iff
  split
  · exact hf s h
  · exact h

theorem ReplyK.wr (h : ReplyK u s) (a w) : ReplyK u (s.wr a w) := ⟨h.eq⟩

theorem ReplyK.time_eq (h : ReplyK u s) : s.time = u.time := congrArg State.ReplyKPart.time h.eq
theorem ReplyK.wq_eq (h : ReplyK u s) : s.wq = u.wq := congrArg State.ReplyKPart.wq h.eq
theorem ReplyK.lpe_eq (h : ReplyK u s) : s.lpe = u.lpe := congrArg State.ReplyKPart.lpe h.eq
theorem ReplyK.hmp_eq (h : ReplyK u s) : s.hmp = u.hmp := congrArg State.ReplyKPart.hmp h.eq
theorem ReplyK.prf_eq (h : ReplyK u s) : s.prf = u.prf := congrArg State.ReplyKPart.prf h.eq
theorem ReplyK.site_eq (h : ReplyK u s) : s.site = u.site := congrArg State.ReplyKPart.site h.eq
theorem ReplyK.zfb_eq (h : ReplyK u s) : s.zfb = u.zfb := congrArg State.ReplyKPart.zfb h.eq
theorem ReplyK.wgl_eq (h : ReplyK u s) : s.wgl = u.wgl := congrArg State.ReplyKPart.wgl h.eq
theorem ReplyK.lks_eq (h : ReplyK u s) : s.lks = u.lks := congrArg State.ReplyKPart.lks h.eq
theorem ReplyK.link_eq (h : ReplyK u s) : s.link = u.link := congrArg State.ReplyKPart.link h.eq
theorem ReplyK.est_eq (h : ReplyK u s) : s.est = u.est := congrArg State.ReplyKPart.est h.eq
theorem ReplyK.arr_eq (h : ReplyK u s) : s.arr = u.arr := congrArg State.ReplyKPart.arr h.eq
theorem ReplyK.flt_eq (h : ReplyK u s) : s.flt = u.flt := congrArg State.ReplyKPart.flt h.eq
theorem ReplyK.mgp_eq (h : ReplyK u s) : s.mgp = u.mgp := congrArg State.ReplyKPart.mgp h.eq
theorem ReplyK.sec_eq (h : ReplyK u s) : s.sec = u.sec := congrArg State.ReplyKPart.sec h.eq
theorem ReplyK.pwr_eq (h : ReplyK u s) : s.pwr = u.pwr := congrArg State.ReplyKPart.pwr h.eq
theorem ReplyK.cfg_eq (h : ReplyK u s) : s.cfg = u.cfg := congrArg State.ReplyKPart.cfg h.eq
theorem ReplyK.pins_eq (h : ReplyK u s) : s.pins = u.pins := congrArg State.ReplyKPart.pins h.eq
theorem ReplyK.shadow_eq (h : ReplyK u s) : s.shadow = u.shadow := congrArg State.ReplyKPart.shadow h.eq
theorem ReplyK.free_eq (h : ReplyK u s) : s.free = u.free := congrArg State.ReplyKPart.free h.eq
theorem ReplyK.pending_eq (h : ReplyK u s) : s.pending = u.pending := congrArg State.ReplyKPart.pending h.eq

theorem ReplyK.put (h : ReplyK u s) (a1 a2) : ReplyK u (State.put s a1 a2) := by
  unfold State.put
  refine ReplyK.wr ?_ ..
  exact h

theorem ReplyK.setRing (h : ReplyK u s) (a1 a2) : ReplyK u (State.setRing s a1 a2) := by
  unfold State.setRing
  refine ReplyK.upd ?_ rfl rfl rfl rfl rfl rfl rfl rfl rfl rfl rfl rfl rfl rfl rfl rfl rfl rfl rfl rfl rfl rfl
  exact h

theorem ReplyK.replyIn (h : ReplyK u s) (a1) : ReplyK u (State.replyIn s a1) := by
  unfold State.replyIn
  refine ReplyK.upd ?_ rfl rfl rfl rfl rfl rfl rfl rfl rfl rfl rfl rfl rfl rfl rfl rfl rfl rfl rfl rfl rfl rfl
  exact h

theorem ReplyK.replyTaken (h : ReplyK u s) (a1 a2) : ReplyK u (State.replyTaken s a1 a2) := by
  unfold State.replyTaken
  extract_lets +onlyGivenNames -merge -useContext -underBinder x1
  extract_lets +onlyGivenNames -merge -useContext -underBinder x2
  extract_lets +onlyGivenNames -merge -useContext -underBinder x3
  have hx3 : ReplyK u x3 := by
    unfold x3
    refine ReplyK.replyIn ?_ ..
    refine ReplyK.setRing ?_ ..
    exact h
  refine ReplyK.ite (fun _ => ?_) (fun _ => ?_)
  · extract_lets +onlyGivenNames -merge -useContext -underBinder x4
    have hx4 : ReplyK u x4 := by
      unfold x4
      refine ReplyK.put ?_ ..
      exact hx3
    refine ReplyK.setRing ?_ ..
    exact hx4
  · refine ReplyK.ite (fun _ => ?_) (fun _ => ?_)
    · refine ReplyK.setRing ?_ ..
      exact hx3
    · exact hx3

/-- What those functions may change, as a frame names it. -/
theorem ReplyK.within {t : State} (h : ReplyK s.partReplyK t) : t.within s [.regs, .inp, .chn]
  | .regs, hp => (hp (by decide)).elim
  | .time, _ => h.time_eq
  | .inp, hp => (hp (by decide)).elim
  | .wq, _ => h.wq_eq
  | .lpe, _ => h.lpe_eq
  | .hmp, _ => h.hmp_eq
  | .prf, _ => h.prf_eq
  | .site, _ => h.site_eq
  | .zfb, _ => h.zfb_eq
  | .wgl, _ => h.wgl_eq
  | .lks, _ => h.lks_eq
  | .link, _ => h.link_eq
  | .chn, hp => (hp (by decide)).elim
  | .est, _ => h.est_eq
  | .arr, _ => h.arr_eq
  | .flt, _ => h.flt_eq
  | .mgp, _ => h.mgp_eq
  | .sec, _ => h.sec_eq
  | .pwr, _ => h.pwr_eq
  | .cfg, _ => h.cfg_eq
  | .pins, _ => h.pins_eq
  | .shadow, _ => h.shadow_eq
  | .free, _ => h.free_eq
  | .pending, _ => h.pending_eq

end Sys2Proof.Machine
end

