-- ==== Sys2Proof/Laws/Reserve.lean ====
section
/-! SUPPORT. What the opening of the reserve leaves alone. -/

namespace Sys2Proof.Machine

/-- The parts of the state that are kept. -/
structure State.ReservePart where
  time : TimeRt
  inp : InputRt
  wq : List PairWrite
  lpe : LpeRt
  hmp : HmpRt
  prf : PrfRt
  site : SiteRt
  wgl : WglRt
  lks : LksRt
  link : LinkRt
  chn : ChnRt
  est : EstRt
  arr : ArrRt
  flt : FltRt
  mgp : MgpRt
  sec : SecRt
  pwr : PwrRt
  cfg : CfgRt
  pins : PinRt
  shadow : List (Nat × Nat × Word)
  free : Nat
  pending : List Instr

/-- Those parts of a state. -/
def State.partReserve (s : State) : State.ReservePart :=
  ⟨s.time, s.inp, s.wq, s.lpe, s.hmp, s.prf, s.site, s.wgl, s.lks, s.link, s.chn, s.est, s.arr, s.flt, s.mgp, s.sec, s.pwr, s.cfg, s.pins, s.shadow, s.free, s.pending⟩

/-- Those parts are the ones given. -/
structure Reserve (u : State.ReservePart) (s : State) : Prop where
  eq : s.partReserve = u

variable {u : State.ReservePart} {s : State}

theorem Reserve.upd {regs time inp wq lpe hmp prf site zfb wgl lks link chn est arr flt mgp sec pwr cfg pins shadow free pending} (h : Reserve u s) (h_regs : regs = s.regs) (h_time : time = s.time) (h_inp : inp = s.inp) (h_wq : wq = s.wq) (h_lpe : lpe = s.lpe) (h_hmp : hmp = s.hmp) (h_prf : prf = s.prf) (h_site : site = s.site) (h_wgl : wgl = s.wgl) (h_lks : lks = s.lks) (h_link : link = s.link) (h_chn : chn = s.chn) (h_est : est = s.est) (h_arr : arr = s.arr) (h_flt : flt = s.flt) (h_mgp : mgp = s.mgp) (h_sec : sec = s.sec) (h_pwr : pwr = s.pwr) (h_cfg : cfg = s.cfg) (h_pins : pins = s.pins) (h_shadow : shadow = s.shadow) (h_free : free = s.free) (h_pending : pending = s.pending) :
    Reserve u (State.mk regs time inp wq lpe hmp prf site zfb wgl lks link chn est arr flt mgp sec pwr cfg pins shadow free pending) := by
  subst h_regs h_time h_inp h_wq h_lpe h_hmp h_prf h_site h_wgl h_lks h_link h_chn h_est h_arr h_flt h_mgp h_sec h_pwr h_cfg h_pins h_shadow h_free h_pending
  exact ⟨h.eq⟩

theorem Reserve.rfl' (s : State) : Reserve s.partReserve s := ⟨rfl⟩

/-- What a command answers keeps them. -/
def Reserveo (u : State.ReservePart) (o : Host.Outcome State Fault Refusal) : Prop := ∀ t, o = Host.Outcome.next t → Reserve u t

theorem Reserveo.next (h : Reserve u s) : Reserveo u (Host.Outcome.next s) := fun t e => by cases e; exact h

theorem Reserve.ite {c : Prop} {_ : Decidable c} {a b : State} (ha : c → Reserve u a) (hb : ¬c → Reserve u b) : Reserve u (if c then a else b) := by
  split
  · exact ha ‹_›
  · exact hb ‹_›

theorem Reserve.dite {c : Prop} {_ : Decidable c} {a : c → State} {b : ¬c → State} (ha : ∀ h, Reserve u (a h)) (hb : ∀ h, Reserve u (b h)) :
    Reserve u (if h : c then a h else b h) := by
  split
  · exact ha _
  · exact hb _

theorem Reserve.iteP {α : Type} {c : Prop} {_ : Decidable c} {a b : State × α} (ha : c → Reserve u a.1) (hb : ¬c → Reserve u b.1) : Reserve u (if c then a else b).1 := by
  split
  · exact ha ‹_›
  · exact hb ‹_›

theorem Reserve.diteP {α : Type} {c : Prop} {_ : Decidable c} {a : c → State × α} {b : ¬c → State × α} (ha : ∀ h, Reserve u (a h).1) (hb : ∀ h, Reserve u (b h).1) :
    Reserve u (if h : c then a h else b h).1 := by
  split
  · exact ha _
  · exact hb _

theorem Reserve.foldl {α : Type} {l : List α} {f : State → α → State} (hf : ∀ t a, Reserve u t → Reserve u (f t a)) (h : Reserve u s) : Reserve u (l.foldl f s) := by
  induction l generalizing s with
  | nil => exact h
  | cons a l ih => exact ih (hf s a h)

theorem Reserve.each {n : Nat} {f : Nat → State → State} (hf : ∀ i t, Reserve u t → Reserve u (f i t)) (h : Reserve u s) : Reserve u (State.each n f s) :=
  Reserve.foldl (fun t a ht => hf a t ht) h

theorem Reserve.over {α : Type} {l : List α} {f : α → State → State} (hf : ∀ i t, Reserve u t → Reserve u (f i t)) (h : Reserve u s) : Reserve u (State.over l f s) :=
  Reserve.foldl (fun t a ht => hf a t ht) h

theorem Reserve.iff {c : Bool} {f : State → State} (hf : ∀ t, Reserve u t → Reserve u (f t)) (h : Reserve u s) : Reserve u (State.iff c f s) := by
  unfold State.iff
  split
  · exact hf s h
  · exact h

theorem Reserve.wr (h : Reserve u s) (a w) : Reserve u (s.wr a w) := ⟨h.eq⟩

theorem Reserve.time_eq (h : Reserve u s) : s.time = u.time := congrArg State.ReservePart.time h.eq
theorem Reserve.inp_eq (h : Reserve u s) : s.inp = u.inp := congrArg State.ReservePart.inp h.eq
theorem Reserve.wq_eq (h : Reserve u s) : s.wq = u.wq := congrArg State.ReservePart.wq h.eq
theorem Reserve.lpe_eq (h : Reserve u s) : s.lpe = u.lpe := congrArg State.ReservePart.lpe h.eq
theorem Reserve.hmp_eq (h : Reserve u s) : s.hmp = u.hmp := congrArg State.ReservePart.hmp h.eq
theorem Reserve.prf_eq (h : Reserve u s) : s.prf = u.prf := congrArg State.ReservePart.prf h.eq
theorem Reserve.site_eq (h : Reserve u s) : s.site = u.site := congrArg State.ReservePart.site h.eq
theorem Reserve.wgl_eq (h : Reserve u s) : s.wgl = u.wgl := congrArg State.ReservePart.wgl h.eq
theorem Reserve.lks_eq (h : Reserve u s) : s.lks = u.lks := congrArg State.ReservePart.lks h.eq
theorem Reserve.link_eq (h : Reserve u s) : s.link = u.link := congrArg State.ReservePart.link h.eq
theorem Reserve.chn_eq (h : Reserve u s) : s.chn = u.chn := congrArg State.ReservePart.chn h.eq
theorem Reserve.est_eq (h : Reserve u s) : s.est = u.est := congrArg State.ReservePart.est h.eq
theorem Reserve.arr_eq (h : Reserve u s) : s.arr = u.arr := congrArg State.ReservePart.arr h.eq
theorem Reserve.flt_eq (h : Reserve u s) : s.flt = u.flt := congrArg State.ReservePart.flt h.eq
theorem Reserve.mgp_eq (h : Reserve u s) : s.mgp = u.mgp := congrArg State.ReservePart.mgp h.eq
theorem Reserve.sec_eq (h : Reserve u s) : s.sec = u.sec := congrArg State.ReservePart.sec h.eq
theorem Reserve.pwr_eq (h : Reserve u s) : s.pwr = u.pwr := congrArg State.ReservePart.pwr h.eq
theorem Reserve.cfg_eq (h : Reserve u s) : s.cfg = u.cfg := congrArg State.ReservePart.cfg h.eq
theorem Reserve.pins_eq (h : Reserve u s) : s.pins = u.pins := congrArg State.ReservePart.pins h.eq
theorem Reserve.shadow_eq (h : Reserve u s) : s.shadow = u.shadow := congrArg State.ReservePart.shadow h.eq
theorem Reserve.free_eq (h : Reserve u s) : s.free = u.free := congrArg State.ReservePart.free h.eq
theorem Reserve.pending_eq (h : Reserve u s) : s.pending = u.pending := congrArg State.ReservePart.pending h.eq

theorem Reserve.put (h : Reserve u s) (a1 a2) : Reserve u (State.put s a1 a2) := by
  unfold State.put
  refine Reserve.wr ?_ ..
  exact h

theorem Reserve.setFlag (h : Reserve u s) (a1 a2) : Reserve u (State.setFlag s a1 a2) := by
  unfold State.setFlag
  refine Reserve.put ?_ ..
  exact h

theorem Reserve.execHoneyReserveOpen_keeps (h : Reserve u s) : Reserveo u (execHoneyReserveOpen s) := by
  unfold execHoneyReserveOpen
  refine Reserveo.next ?_
  refine Reserve.ite (fun _ => ?_) (fun _ => ?_)
  · refine Reserve.setFlag ?_ ..
    refine Reserve.upd ?_ rfl rfl rfl rfl rfl rfl rfl rfl rfl rfl rfl rfl rfl rfl rfl rfl rfl rfl rfl rfl rfl rfl rfl
    exact h
  · exact h

/-- What those functions may change, as a frame names it. -/
theorem Reserve.within {t : State} (h : Reserve s.partReserve t) : t.within s [.regs, .zfb]
  | .regs, hp => (hp (by decide)).elim
  | .time, _ => h.time_eq
  | .inp, _ => h.inp_eq
  | .wq, _ => h.wq_eq
  | .lpe, _ => h.lpe_eq
  | .hmp, _ => h.hmp_eq
  | .prf, _ => h.prf_eq
  | .site, _ => h.site_eq
  | .zfb, hp => (hp (by decide)).elim
  | .wgl, _ => h.wgl_eq
  | .lks, _ => h.lks_eq
  | .link, _ => h.link_eq
  | .chn, _ => h.chn_eq
  | .est, _ => h.est_eq
  | .arr, _ => h.arr_eq
  | .flt, _ => h.flt_eq
  | .mgp, _ => h.mgp_eq
  | .sec, _ => h.sec_eq
  | .pwr, _ => h.pwr_eq
  | .cfg, _ => h.cfg_eq
  | .pins, _ => h.pins_eq
  | .shadow, _ => h.shadow_eq
  | .free, _ => h.free_eq
  | .pending, _ => h.pending_eq

end Sys2Proof.Machine
end

