-- ==== Sys2Proof/Laws/RingK.lean ====
section
/-! SUPPORT. What a change of a ring or a node of the cell chain leaves alone. -/

namespace Sys2Proof.Machine

/-- The parts of the state that are kept. -/
structure State.RingKPart where
  regs : Regs
  time : TimeRt
  inp : InputRt
  wq : List PairWrite
  lpe : LpeRt
  hmp : HmpRt
  prf : PrfRt
  site : SiteRt
  zfb : ZfbRt
  wgl : WglRt
  lks : LksRt
  link : LinkRt
  est : EstRt
  arr : ArrRt
  flt : FltRt
  mgp : MgpRt
  sec : SecRt
  pwr : PwrRt
  cfg : CfgRt
  pins : PinRt
  shadow : List (Nat × Nat × Word)
  free : Nat
  pending : List Instr

/-- Those parts of a state. -/
def State.partRingK (s : State) : State.RingKPart :=
  ⟨s.regs, s.time, s.inp, s.wq, s.lpe, s.hmp, s.prf, s.site, s.zfb, s.wgl, s.lks, s.link, s.est, s.arr, s.flt, s.mgp, s.sec, s.pwr, s.cfg, s.pins, s.shadow, s.free, s.pending⟩

/-- Those parts are the ones given. -/
structure RingK (u : State.RingKPart) (s : State) : Prop where
  eq : s.partRingK = u

variable {u : State.RingKPart} {s : State}

theorem RingK.upd {regs time inp wq lpe hmp prf site zfb wgl lks link chn est arr flt mgp sec pwr cfg pins shadow free pending} (h : RingK u s) (h_regs : regs = s.regs) (h_time : time = s.time) (h_inp : inp = s.inp) (h_wq : wq = s.wq) (h_lpe : lpe = s.lpe) (h_hmp : hmp = s.hmp) (h_prf : prf = s.prf) (h_site : site = s.site) (h_zfb : zfb = s.zfb) (h_wgl : wgl = s.wgl) (h_lks : lks = s.lks) (h_link : link = s.link) (h_est : est = s.est) (h_arr : arr = s.arr) (h_flt : flt = s.flt) (h_mgp : mgp = s.mgp) (h_sec : sec = s.sec) (h_pwr : pwr = s.pwr) (h_cfg : cfg = s.cfg) (h_pins : pins = s.pins) (h_shadow : shadow = s.shadow) (h_free : free = s.free) (h_pending : pending = s.pending) :
    RingK u (State.mk regs time inp wq lpe hmp prf site zfb wgl lks link chn est arr flt mgp sec pwr cfg pins shadow free pending) := by
  subst h_regs h_time h_inp h_wq h_lpe h_hmp h_prf h_site h_zfb h_wgl h_lks h_link h_est h_arr h_flt h_mgp h_sec h_pwr h_cfg h_pins h_shadow h_free h_pending
  exact ⟨h.eq⟩

theorem RingK.rfl' (s : State) : RingK s.partRingK s := ⟨rfl⟩

theorem RingK.ite {c : Prop} {_ : Decidable c} {a b : State} (ha : c → RingK u a) (hb : ¬c → RingK u b) : RingK u (if c then a else b) := by
  split
  · exact ha ‹_›
  · exact hb ‹_›

theorem RingK.dite {c : Prop} {_ : Decidable c} {a : c → State} {b : ¬c → State} (ha : ∀ h, RingK u (a h)) (hb : ∀ h, RingK u (b h)) :
    RingK u (if h : c then a h else b h) := by
  split
  · exact ha _
  · exact hb _

theorem RingK.iteP {α : Type} {c : Prop} {_ : Decidable c} {a b : State × α} (ha : c → RingK u a.1) (hb : ¬c → RingK u b.1) : RingK u (if c then a else b).1 := by
  split
  · exact ha ‹_›
  · exact hb ‹_›

theorem RingK.diteP {α : Type} {c : Prop} {_ : Decidable c} {a : c → State × α} {b : ¬c → State × α} (ha : ∀ h, RingK u (a h).1) (hb : ∀ h, RingK u (b h).1) :
    RingK u (if h : c then a h else b h).1 := by
  split
  · exact ha _
  · exact hb _

theorem RingK.foldl {α : Type} {l : List α} {f : State → α → State} (hf : ∀ t a, RingK u t → RingK u (f t a)) (h : RingK u s) : RingK u (l.foldl f s) := by
  induction l generalizing s with
  | nil => exact h
  | cons a l ih => exact ih (hf s a h)

theorem RingK.each {n : Nat} {f : Nat → State → State} (hf : ∀ i t, RingK u t → RingK u (f i t)) (h : RingK u s) : RingK u (State.each n f s) :=
  RingK.foldl (fun t a ht => hf a t ht) h

theorem RingK.over {α : Type} {l : List α} {f : α → State → State} (hf : ∀ i t, RingK u t → RingK u (f i t)) (h : RingK u s) : RingK u (State.over l f s) :=
  RingK.foldl (fun t a ht => hf a t ht) h

theorem RingK.iff {c : Bool} {f : State → State} (hf : ∀ t, RingK u t → RingK u (f t)) (h : RingK u s) : RingK u (State.iff c f s) := by
  unfold State.iff
  split
  · exact hf s h
  · exact h

theorem RingK.regs_eq (h : RingK u s) : s.regs = u.regs := congrArg State.RingKPart.regs h.eq
theorem RingK.time_eq (h : RingK u s) : s.time = u.time := congrArg State.RingKPart.time h.eq
theorem RingK.inp_eq (h : RingK u s) : s.inp = u.inp := congrArg State.RingKPart.inp h.eq
theorem RingK.wq_eq (h : RingK u s) : s.wq = u.wq := congrArg State.RingKPart.wq h.eq
theorem RingK.lpe_eq (h : RingK u s) : s.lpe = u.lpe := congrArg State.RingKPart.lpe h.eq
theorem RingK.hmp_eq (h : RingK u s) : s.hmp = u.hmp := congrArg State.RingKPart.hmp h.eq
theorem RingK.prf_eq (h : RingK u s) : s.prf = u.prf := congrArg State.RingKPart.prf h.eq
theorem RingK.site_eq (h : RingK u s) : s.site = u.site := congrArg State.RingKPart.site h.eq
theorem RingK.zfb_eq (h : RingK u s) : s.zfb = u.zfb := congrArg State.RingKPart.zfb h.eq
theorem RingK.wgl_eq (h : RingK u s) : s.wgl = u.wgl := congrArg State.RingKPart.wgl h.eq
theorem RingK.lks_eq (h : RingK u s) : s.lks = u.lks := congrArg State.RingKPart.lks h.eq
theorem RingK.link_eq (h : RingK u s) : s.link = u.link := congrArg State.RingKPart.link h.eq
theorem RingK.est_eq (h : RingK u s) : s.est = u.est := congrArg State.RingKPart.est h.eq
theorem RingK.arr_eq (h : RingK u s) : s.arr = u.arr := congrArg State.RingKPart.arr h.eq
theorem RingK.flt_eq (h : RingK u s) : s.flt = u.flt := congrArg State.RingKPart.flt h.eq
theorem RingK.mgp_eq (h : RingK u s) : s.mgp = u.mgp := congrArg State.RingKPart.mgp h.eq
theorem RingK.sec_eq (h : RingK u s) : s.sec = u.sec := congrArg State.RingKPart.sec h.eq
theorem RingK.pwr_eq (h : RingK u s) : s.pwr = u.pwr := congrArg State.RingKPart.pwr h.eq
theorem RingK.cfg_eq (h : RingK u s) : s.cfg = u.cfg := congrArg State.RingKPart.cfg h.eq
theorem RingK.pins_eq (h : RingK u s) : s.pins = u.pins := congrArg State.RingKPart.pins h.eq
theorem RingK.shadow_eq (h : RingK u s) : s.shadow = u.shadow := congrArg State.RingKPart.shadow h.eq
theorem RingK.free_eq (h : RingK u s) : s.free = u.free := congrArg State.RingKPart.free h.eq
theorem RingK.pending_eq (h : RingK u s) : s.pending = u.pending := congrArg State.RingKPart.pending h.eq

theorem RingK.setRing (h : RingK u s) (a1 a2) : RingK u (State.setRing s a1 a2) := by
  unfold State.setRing
  refine RingK.upd ?_ rfl rfl rfl rfl rfl rfl rfl rfl rfl rfl rfl rfl rfl rfl rfl rfl rfl rfl rfl rfl rfl rfl rfl
  exact h

theorem RingK.setNode (h : RingK u s) (a1 a2 a3) : RingK u (State.setNode s a1 a2 a3) := by
  unfold State.setNode
  refine RingK.upd ?_ rfl rfl rfl rfl rfl rfl rfl rfl rfl rfl rfl rfl rfl rfl rfl rfl rfl rfl rfl rfl rfl rfl rfl
  exact h

theorem RingK.emit (h : RingK u s) (a1 a2) : RingK u (State.emit s a1 a2) := by
  unfold State.emit
  refine RingK.ite (fun _ => ?_) (fun _ => ?_)
  · exact h
  · refine RingK.setRing ?_ ..
    exact h

/-- What those functions may change, as a frame names it. -/
theorem RingK.within {t : State} (h : RingK s.partRingK t) : t.within s [.chn]
  | .regs, _ => h.regs_eq
  | .time, _ => h.time_eq
  | .inp, _ => h.inp_eq
  | .wq, _ => h.wq_eq
  | .lpe, _ => h.lpe_eq
  | .hmp, _ => h.hmp_eq
  | .prf, _ => h.prf_eq
  | .site, _ => h.site_eq
  | .zfb, _ => h.zfb_eq
  | .wgl, _ => h.wgl_eq
  | .lks, _ => h.lks_eq
  | .link, _ => h.link_eq
  | .chn, hp => (hp (by decide)).elim
  | .est, _ => h.est_eq
  | .arr, _ => h.arr_eq
  | .flt, _ => h.flt_eq
  | .mgp, _ => h.mgp_eq
  | .sec, _ => h.sec_eq
  | .pwr, _ => h.pwr_eq
  | .cfg, _ => h.cfg_eq
  | .pins, _ => h.pins_eq
  | .shadow, _ => h.shadow_eq
  | .free, _ => h.free_eq
  | .pending, _ => h.pending_eq

end Sys2Proof.Machine
end

