-- ==== Sys2Proof/Laws/Send.lean ====
section
/-! SUPPORT. What the pins and the urgent ceiling frames at cycle 640 leave alone. -/

namespace Sys2Proof.Machine

/-- The parts of the state that are kept. -/
structure State.SendPart where
  lpe : LpeRt
  link : LinkRt
  prf : PrfRt
  site : SiteRt
  lks : LksRt
  chn : ChnRt
  est : EstRt
  mgp : MgpRt
  sec : SecRt
  pwr : PwrRt
  cfg : CfgRt
  shadow : List (Nat × Nat × Word)
  free : Nat
  pending : List Instr

/-- Those parts of a state. -/
def State.partSend (s : State) : State.SendPart :=
  ⟨s.lpe, s.link, s.prf, s.site, s.lks, s.chn, s.est, s.mgp, s.sec, s.pwr, s.cfg, s.shadow, s.free, s.pending⟩

/-- Those parts are the ones given. -/
structure Send (u : State.SendPart) (s : State) : Prop where
  eq : s.partSend = u

variable {u : State.SendPart} {s : State}

theorem Send.upd {regs time inp wq lpe hmp prf site zfb wgl lks link chn est arr flt mgp sec pwr cfg pins shadow free pending} (h : Send u s) (h_regs : regs = s.regs) (h_lpe : lpe = s.lpe) (h_link : link = s.link) (h_prf : prf = s.prf) (h_site : site = s.site) (h_lks : lks = s.lks) (h_chn : chn = s.chn) (h_est : est = s.est) (h_mgp : mgp = s.mgp) (h_sec : sec = s.sec) (h_pwr : pwr = s.pwr) (h_cfg : cfg = s.cfg) (h_shadow : shadow = s.shadow) (h_free : free = s.free) (h_pending : pending = s.pending) :
    Send u (State.mk regs time inp wq lpe hmp prf site zfb wgl lks link chn est arr flt mgp sec pwr cfg pins shadow free pending) := by
  subst h_regs h_lpe h_link h_prf h_site h_lks h_chn h_est h_mgp h_sec h_pwr h_cfg h_shadow h_free h_pending
  exact ⟨h.eq⟩

theorem Send.rfl' (s : State) : Send s.partSend s := ⟨rfl⟩

theorem Send.ite {c : Prop} {_ : Decidable c} {a b : State} (ha : c → Send u a) (hb : ¬c → Send u b) : Send u (if c then a else b) := by
  split
  · exact ha ‹_›
  · exact hb ‹_›

theorem Send.dite {c : Prop} {_ : Decidable c} {a : c → State} {b : ¬c → State} (ha : ∀ h, Send u (a h)) (hb : ∀ h, Send u (b h)) :
    Send u (if h : c then a h else b h) := by
  split
  · exact ha _
  · exact hb _

theorem Send.iteP {α : Type} {c : Prop} {_ : Decidable c} {a b : State × α} (ha : c → Send u a.1) (hb : ¬c → Send u b.1) : Send u (if c then a else b).1 := by
  split
  · exact ha ‹_›
  · exact hb ‹_›

theorem Send.diteP {α : Type} {c : Prop} {_ : Decidable c} {a : c → State × α} {b : ¬c → State × α} (ha : ∀ h, Send u (a h).1) (hb : ∀ h, Send u (b h).1) :
    Send u (if h : c then a h else b h).1 := by
  split
  · exact ha _
  · exact hb _

theorem Send.foldl {α : Type} {l : List α} {f : State → α → State} (hf : ∀ t a, Send u t → Send u (f t a)) (h : Send u s) : Send u (l.foldl f s) := by
  induction l generalizing s with
  | nil => exact h
  | cons a l ih => exact ih (hf s a h)

theorem Send.each {n : Nat} {f : Nat → State → State} (hf : ∀ i t, Send u t → Send u (f i t)) (h : Send u s) : Send u (State.each n f s) :=
  Send.foldl (fun t a ht => hf a t ht) h

theorem Send.over {α : Type} {l : List α} {f : α → State → State} (hf : ∀ i t, Send u t → Send u (f i t)) (h : Send u s) : Send u (State.over l f s) :=
  Send.foldl (fun t a ht => hf a t ht) h

theorem Send.iff {c : Bool} {f : State → State} (hf : ∀ t, Send u t → Send u (f t)) (h : Send u s) : Send u (State.iff c f s) := by
  unfold State.iff
  split
  · exact hf s h
  · exact h

theorem Send.wr (h : Send u s) (a w) : Send u (s.wr a w) := ⟨h.eq⟩

theorem Send.lpe_eq (h : Send u s) : s.lpe = u.lpe := congrArg State.SendPart.lpe h.eq
theorem Send.link_eq (h : Send u s) : s.link = u.link := congrArg State.SendPart.link h.eq
theorem Send.prf_eq (h : Send u s) : s.prf = u.prf := congrArg State.SendPart.prf h.eq
theorem Send.site_eq (h : Send u s) : s.site = u.site := congrArg State.SendPart.site h.eq
theorem Send.lks_eq (h : Send u s) : s.lks = u.lks := congrArg State.SendPart.lks h.eq
theorem Send.chn_eq (h : Send u s) : s.chn = u.chn := congrArg State.SendPart.chn h.eq
theorem Send.est_eq (h : Send u s) : s.est = u.est := congrArg State.SendPart.est h.eq
theorem Send.mgp_eq (h : Send u s) : s.mgp = u.mgp := congrArg State.SendPart.mgp h.eq
theorem Send.sec_eq (h : Send u s) : s.sec = u.sec := congrArg State.SendPart.sec h.eq
theorem Send.pwr_eq (h : Send u s) : s.pwr = u.pwr := congrArg State.SendPart.pwr h.eq
theorem Send.cfg_eq (h : Send u s) : s.cfg = u.cfg := congrArg State.SendPart.cfg h.eq
theorem Send.shadow_eq (h : Send u s) : s.shadow = u.shadow := congrArg State.SendPart.shadow h.eq
theorem Send.free_eq (h : Send u s) : s.free = u.free := congrArg State.SendPart.free h.eq
theorem Send.pending_eq (h : Send u s) : s.pending = u.pending := congrArg State.SendPart.pending h.eq

theorem Send.put (h : Send u s) (a1 a2) : Send u (State.put s a1 a2) := by
  unfold State.put
  refine Send.wr ?_ ..
  exact h

theorem Send.setFlag (h : Send u s) (a1 a2) : Send u (State.setFlag s a1 a2) := by
  unfold State.setFlag
  refine Send.put ?_ ..
  exact h

theorem Send.atCycle (h : Send u s) (a1) : Send u (State.atCycle s a1) := by
  unfold State.atCycle
  refine Send.upd ?_ rfl rfl rfl rfl rfl rfl rfl rfl rfl rfl rfl rfl rfl rfl rfl
  exact h

theorem Send.sendCeil (h : Send u s) (a1 a2) : Send u (State.sendCeil s a1 a2) := by
  unfold State.sendCeil
  extract_lets +onlyGivenNames -merge -useContext -underBinder x1
  extract_lets +onlyGivenNames -merge -useContext -underBinder x2
  have hx2 : Send u x2 := by
    unfold x2
    refine Send.upd ?_ rfl rfl rfl rfl rfl rfl rfl rfl rfl rfl rfl rfl rfl rfl rfl
    exact h
  refine Send.put ?_ ..
  refine Send.setFlag ?_ ..
  refine Send.put ?_ ..
  exact hx2

theorem Send.sendUrgent (h : Send u s) : Send u (State.sendUrgent s) := by
  unfold State.sendUrgent
  refine Send.foldl (fun _ _ ht1 => ?_) ?_
  · refine Send.ite (fun _ => ?_) (fun _ => ?_)
    · refine Send.sendCeil ?_ ..
      exact ht1
    · exact ht1
  · exact h

theorem Send.trackUnder (h : Send u s) (a1 a2) : Send u (State.trackUnder s a1 a2) := by
  unfold State.trackUnder
  extract_lets +onlyGivenNames -merge -useContext -underBinder x1
  try clear_value x1
  extract_lets +onlyGivenNames -merge -useContext -underBinder x2
  extract_lets +onlyGivenNames -merge -useContext -underBinder x3
  refine Send.upd ?_ rfl rfl rfl rfl rfl rfl rfl rfl rfl rfl rfl rfl rfl rfl rfl
  exact h

theorem Send.drivePgood (h : Send u s) : Send u (State.drivePgood s) := by
  unfold State.drivePgood
  extract_lets +onlyGivenNames -merge -useContext -underBinder x1
  extract_lets +onlyGivenNames -merge -useContext -underBinder x2
  refine Send.upd ?_ rfl rfl rfl rfl rfl rfl rfl rfl rfl rfl rfl rfl rfl rfl rfl
  exact h

end Sys2Proof.Machine
end

