-- ==== Sys2Proof/Laws/SeqEnd.lean ====
section
/-! SUPPORT. What the end of a phase of the sequencer leaves alone. -/

namespace Sys2Proof.Machine

/-- The parts of the state that are kept. -/
structure State.SeqEndPart where
  inp : InputRt
  wq : List PairWrite
  lpe : LpeRt
  hmp : HmpRt
  prf : PrfRt
  site : SiteRt
  zfb : ZfbRt
  wgl : WglRt
  lks : LksRt
  link : LinkRt
  chn : ChnRt
  est : EstRt
  flt : FltRt
  mgp : MgpRt
  sec : SecRt
  pwr : PwrRt
  cfg : CfgRt
  pins : PinRt
  shadow : List (Nat × Nat × Word)
  free : Nat
  pending : List Instr

/-- Those parts of a state. -/
def State.partSeqEnd (s : State) : State.SeqEndPart :=
  ⟨s.inp, s.wq, s.lpe, s.hmp, s.prf, s.site, s.zfb, s.wgl, s.lks, s.link, s.chn, s.est, s.flt, s.mgp, s.sec, s.pwr, s.cfg, s.pins, s.shadow, s.free, s.pending⟩

/-- Those parts are the ones given. -/
structure SeqEnd (u : State.SeqEndPart) (s : State) : Prop where
  eq : s.partSeqEnd = u

variable {u : State.SeqEndPart} {s : State}

theorem SeqEnd.upd {regs time inp wq lpe hmp prf site zfb wgl lks link chn est arr flt mgp sec pwr cfg pins shadow free pending} (h : SeqEnd u s) (h_regs : regs = s.regs) (h_inp : inp = s.inp) (h_wq : wq = s.wq) (h_lpe : lpe = s.lpe) (h_hmp : hmp = s.hmp) (h_prf : prf = s.prf) (h_site : site = s.site) (h_zfb : zfb = s.zfb) (h_wgl : wgl = s.wgl) (h_lks : lks = s.lks) (h_link : link = s.link) (h_chn : chn = s.chn) (h_est : est = s.est) (h_flt : flt = s.flt) (h_mgp : mgp = s.mgp) (h_sec : sec = s.sec) (h_pwr : pwr = s.pwr) (h_cfg : cfg = s.cfg) (h_pins : pins = s.pins) (h_shadow : shadow = s.shadow) (h_free : free = s.free) (h_pending : pending = s.pending) :
    SeqEnd u (State.mk regs time inp wq lpe hmp prf site zfb wgl lks link chn est arr flt mgp sec pwr cfg pins shadow free pending) := by
  subst h_regs h_inp h_wq h_lpe h_hmp h_prf h_site h_zfb h_wgl h_lks h_link h_chn h_est h_flt h_mgp h_sec h_pwr h_cfg h_pins h_shadow h_free h_pending
  exact ⟨h.eq⟩

theorem SeqEnd.rfl' (s : State) : SeqEnd s.partSeqEnd s := ⟨rfl⟩

/-- What a command answers keeps them. -/
def SeqEndo (u : State.SeqEndPart) (o : Host.Outcome State Fault Refusal) : Prop := ∀ t, o = Host.Outcome.next t → SeqEnd u t

theorem SeqEndo.next (h : SeqEnd u s) : SeqEndo u (Host.Outcome.next s) := fun t e => by cases e; exact h

theorem SeqEnd.ite {c : Prop} {_ : Decidable c} {a b : State} (ha : c → SeqEnd u a) (hb : ¬c → SeqEnd u b) : SeqEnd u (if c then a else b) := by
  split
  · exact ha ‹_›
  · exact hb ‹_›

theorem SeqEnd.dite {c : Prop} {_ : Decidable c} {a : c → State} {b : ¬c → State} (ha : ∀ h, SeqEnd u (a h)) (hb : ∀ h, SeqEnd u (b h)) :
    SeqEnd u (if h : c then a h else b h) := by
  split
  · exact ha _
  · exact hb _

theorem SeqEnd.iteP {α : Type} {c : Prop} {_ : Decidable c} {a b : State × α} (ha : c → SeqEnd u a.1) (hb : ¬c → SeqEnd u b.1) : SeqEnd u (if c then a else b).1 := by
  split
  · exact ha ‹_›
  · exact hb ‹_›

theorem SeqEnd.diteP {α : Type} {c : Prop} {_ : Decidable c} {a : c → State × α} {b : ¬c → State × α} (ha : ∀ h, SeqEnd u (a h).1) (hb : ∀ h, SeqEnd u (b h).1) :
    SeqEnd u (if h : c then a h else b h).1 := by
  split
  · exact ha _
  · exact hb _

theorem SeqEnd.foldl {α : Type} {l : List α} {f : State → α → State} (hf : ∀ t a, SeqEnd u t → SeqEnd u (f t a)) (h : SeqEnd u s) : SeqEnd u (l.foldl f s) := by
  induction l generalizing s with
  | nil => exact h
  | cons a l ih => exact ih (hf s a h)

theorem SeqEnd.each {n : Nat} {f : Nat → State → State} (hf : ∀ i t, SeqEnd u t → SeqEnd u (f i t)) (h : SeqEnd u s) : SeqEnd u (State.each n f s) :=
  SeqEnd.foldl (fun t a ht => hf a t ht) h

theorem SeqEnd.over {α : Type} {l : List α} {f : α → State → State} (hf : ∀ i t, SeqEnd u t → SeqEnd u (f i t)) (h : SeqEnd u s) : SeqEnd u (State.over l f s) :=
  SeqEnd.foldl (fun t a ht => hf a t ht) h

theorem SeqEnd.iff {c : Bool} {f : State → State} (hf : ∀ t, SeqEnd u t → SeqEnd u (f t)) (h : SeqEnd u s) : SeqEnd u (State.iff c f s) := by
  unfold State.iff
  split
  · exact hf s h
  · exact h

theorem SeqEnd.wr (h : SeqEnd u s) (a w) : SeqEnd u (s.wr a w) := ⟨h.eq⟩

theorem SeqEnd.inp_eq (h : SeqEnd u s) : s.inp = u.inp := congrArg State.SeqEndPart.inp h.eq
theorem SeqEnd.wq_eq (h : SeqEnd u s) : s.wq = u.wq := congrArg State.SeqEndPart.wq h.eq
theorem SeqEnd.lpe_eq (h : SeqEnd u s) : s.lpe = u.lpe := congrArg State.SeqEndPart.lpe h.eq
theorem SeqEnd.hmp_eq (h : SeqEnd u s) : s.hmp = u.hmp := congrArg State.SeqEndPart.hmp h.eq
theorem SeqEnd.prf_eq (h : SeqEnd u s) : s.prf = u.prf := congrArg State.SeqEndPart.prf h.eq
theorem SeqEnd.site_eq (h : SeqEnd u s) : s.site = u.site := congrArg State.SeqEndPart.site h.eq
theorem SeqEnd.zfb_eq (h : SeqEnd u s) : s.zfb = u.zfb := congrArg State.SeqEndPart.zfb h.eq
theorem SeqEnd.wgl_eq (h : SeqEnd u s) : s.wgl = u.wgl := congrArg State.SeqEndPart.wgl h.eq
theorem SeqEnd.lks_eq (h : SeqEnd u s) : s.lks = u.lks := congrArg State.SeqEndPart.lks h.eq
theorem SeqEnd.link_eq (h : SeqEnd u s) : s.link = u.link := congrArg State.SeqEndPart.link h.eq
theorem SeqEnd.chn_eq (h : SeqEnd u s) : s.chn = u.chn := congrArg State.SeqEndPart.chn h.eq
theorem SeqEnd.est_eq (h : SeqEnd u s) : s.est = u.est := congrArg State.SeqEndPart.est h.eq
theorem SeqEnd.flt_eq (h : SeqEnd u s) : s.flt = u.flt := congrArg State.SeqEndPart.flt h.eq
theorem SeqEnd.mgp_eq (h : SeqEnd u s) : s.mgp = u.mgp := congrArg State.SeqEndPart.mgp h.eq
theorem SeqEnd.sec_eq (h : SeqEnd u s) : s.sec = u.sec := congrArg State.SeqEndPart.sec h.eq
theorem SeqEnd.pwr_eq (h : SeqEnd u s) : s.pwr = u.pwr := congrArg State.SeqEndPart.pwr h.eq
theorem SeqEnd.cfg_eq (h : SeqEnd u s) : s.cfg = u.cfg := congrArg State.SeqEndPart.cfg h.eq
theorem SeqEnd.pins_eq (h : SeqEnd u s) : s.pins = u.pins := congrArg State.SeqEndPart.pins h.eq
theorem SeqEnd.shadow_eq (h : SeqEnd u s) : s.shadow = u.shadow := congrArg State.SeqEndPart.shadow h.eq
theorem SeqEnd.free_eq (h : SeqEnd u s) : s.free = u.free := congrArg State.SeqEndPart.free h.eq
theorem SeqEnd.pending_eq (h : SeqEnd u s) : s.pending = u.pending := congrArg State.SeqEndPart.pending h.eq

theorem SeqEnd.put (h : SeqEnd u s) (a1 a2) : SeqEnd u (State.put s a1 a2) := by
  unfold State.put
  refine SeqEnd.wr ?_ ..
  exact h

theorem SeqEnd.setFlag (h : SeqEnd u s) (a1 a2) : SeqEnd u (State.setFlag s a1 a2) := by
  unfold State.setFlag
  refine SeqEnd.put ?_ ..
  exact h

theorem SeqEnd.atCycle (h : SeqEnd u s) (a1) : SeqEnd u (State.atCycle s a1) := by
  unfold State.atCycle
  refine SeqEnd.upd ?_ rfl rfl rfl rfl rfl rfl rfl rfl rfl rfl rfl rfl rfl rfl rfl rfl rfl rfl rfl rfl rfl rfl
  exact h

theorem SeqEnd.seqMark (h : SeqEnd u s) : SeqEnd u (State.seqMark s) := by
  unfold State.seqMark
  refine SeqEnd.upd ?_ rfl rfl rfl rfl rfl rfl rfl rfl rfl rfl rfl rfl rfl rfl rfl rfl rfl rfl rfl rfl rfl rfl
  exact h

theorem SeqEnd.seqEnter (h : SeqEnd u s) (a1) : SeqEnd u (State.seqEnter s a1) := by
  unfold State.seqEnter
  refine SeqEnd.put ?_ ..
  refine SeqEnd.seqMark ?_ ..
  exact h

theorem SeqEnd.levelSeen (h : SeqEnd u s) : SeqEnd u (State.levelSeen s) := by
  unfold State.levelSeen
  refine SeqEnd.upd ?_ rfl rfl rfl rfl rfl rfl rfl rfl rfl rfl rfl rfl rfl rfl rfl rfl rfl rfl rfl rfl rfl rfl
  exact h

theorem SeqEnd.seqGo (h : SeqEnd u s) (a1 a2) : SeqEnd u (State.seqGo s a1 a2) := by
  unfold State.seqGo
  refine SeqEnd.ite (fun _ => ?_) (fun _ => ?_)
  · refine SeqEnd.seqEnter ?_ ..
    refine SeqEnd.setFlag ?_ ..
    exact h
  · refine SeqEnd.ite (fun _ => ?_) (fun _ => ?_)
    · refine SeqEnd.seqEnter ?_ ..
      refine SeqEnd.setFlag ?_ ..
      refine SeqEnd.put ?_ ..
      exact h
    · refine SeqEnd.seqEnter ?_ ..
      refine SeqEnd.setFlag ?_ ..
      exact h

theorem SeqEnd.showMhz (h : SeqEnd u s) (a1) : SeqEnd u (State.showMhz s a1) := by
  unfold State.showMhz
  refine SeqEnd.put ?_ ..
  exact h

theorem SeqEnd.seqNext (h : SeqEnd u s) : SeqEnd u (State.seqNext s) := by
  unfold State.seqNext
  extract_lets +onlyGivenNames -merge -useContext -underBinder x1
  have hx1 : SeqEnd u x1 := by
    unfold x1
    refine SeqEnd.levelSeen ?_ ..
    refine SeqEnd.seqGo ?_ ..
    exact h
  refine SeqEnd.showMhz ?_ ..
  exact hx1

theorem SeqEnd.railRead (h : SeqEnd u s) (a1 a2) : SeqEnd u (State.railRead s a1 a2) := by
  unfold State.railRead
  refine SeqEnd.put ?_ ..
  refine SeqEnd.atCycle ?_ ..
  exact h

theorem SeqEnd.seqRisen (h : SeqEnd u s) : SeqEnd u (State.seqRisen s) := by
  unfold State.seqRisen
  refine SeqEnd.seqNext ?_ ..
  refine SeqEnd.put ?_ ..
  exact h

theorem SeqEnd.seqFallen (h : SeqEnd u s) : SeqEnd u (State.seqFallen s) := by
  unfold State.seqFallen
  refine SeqEnd.put ?_ ..
  refine SeqEnd.seqEnter ?_ ..
  exact h

theorem SeqEnd.seqEnd (h : SeqEnd u s) (a1) : SeqEnd u (State.seqEnd s a1) := by
  unfold State.seqEnd
  split
  · refine SeqEnd.ite (fun _ => ?_) (fun _ => ?_)
    · refine SeqEnd.seqEnter ?_ ..
      exact h
    · exact h
  · refine SeqEnd.ite (fun _ => ?_) (fun _ => ?_)
    · refine SeqEnd.seqEnter ?_ ..
      exact h
    · exact h
  · refine SeqEnd.ite (fun _ => ?_) (fun _ => ?_)
    · refine SeqEnd.seqRisen ?_ ..
      exact h
    · exact h
  · refine SeqEnd.ite (fun _ => ?_) (fun _ => ?_)
    · refine SeqEnd.seqFallen ?_ ..
      exact h
    · exact h
  · refine SeqEnd.ite (fun _ => ?_) (fun _ => ?_)
    · refine SeqEnd.seqNext ?_ ..
      exact h
    · exact h
  · exact h

theorem SeqEnd.execSequencerPhaseEnd_keeps (h : SeqEnd u s) (a0 a1) : SeqEndo u (execSequencerPhaseEnd a0 a1 s) := by
  unfold execSequencerPhaseEnd
  refine SeqEndo.next ?_
  refine SeqEnd.seqEnd ?_ ..
  refine SeqEnd.railRead ?_ ..
  exact h

/-- What those functions may change, as a frame names it. -/
theorem SeqEnd.within {t : State} (h : SeqEnd s.partSeqEnd t) : t.within s [.regs, .time, .arr]
  | .regs, hp => (hp (by decide)).elim
  | .time, hp => (hp (by decide)).elim
  | .inp, _ => h.inp_eq
  | .wq, _ => h.wq_eq
  | .lpe, _ => h.lpe_eq
  | .hmp, _ => h.hmp_eq
  | .prf, _ => h.prf_eq
  | .site, _ => h.site_eq
  | .zfb, _ => h.zfb_eq
  | .wgl, _ => h.wgl_eq
  | .lks, _ => h.lks_eq
  | .link, _ => h.link_eq
  | .chn, _ => h.chn_eq
  | .est, _ => h.est_eq
  | .arr, hp => (hp (by decide)).elim
  | .flt, _ => h.flt_eq
  | .mgp, _ => h.mgp_eq
  | .sec, _ => h.sec_eq
  | .pwr, _ => h.pwr_eq
  | .cfg, _ => h.cfg_eq
  | .pins, _ => h.pins_eq
  | .shadow, _ => h.shadow_eq
  | .free, _ => h.free_eq
  | .pending, _ => h.pending_eq

end Sys2Proof.Machine
end

