-- ==== Sys2Proof/Laws/SessK.lean ====
section
/-! SUPPORT. What sessions, the semaphore and the receive window leave alone. -/

namespace Sys2Proof.Machine

/-- The parts of the state that are kept. -/
structure State.SessKPart where
  time : TimeRt
  inp : InputRt
  wq : List PairWrite
  lpe : LpeRt
  hmp : HmpRt
  prf : PrfRt
  site : SiteRt
  zfb : ZfbRt
  wgl : WglRt
  lks : LksRt
  link : LinkRt
  chn : ChnRt
  est : EstRt
  arr : ArrRt
  flt : FltRt
  sec : SecRt
  pwr : PwrRt
  cfg : CfgRt
  pins : PinRt
  shadow : List (Nat × Nat × Word)
  free : Nat
  pending : List Instr

/-- Those parts of a state. -/
def State.partSessK (s : State) : State.SessKPart :=
  ⟨s.time, s.inp, s.wq, s.lpe, s.hmp, s.prf, s.site, s.zfb, s.wgl, s.lks, s.link, s.chn, s.est, s.arr, s.flt, s.sec, s.pwr, s.cfg, s.pins, s.shadow, s.free, s.pending⟩

/-- Those parts are the ones given. -/
structure SessK (u : State.SessKPart) (s : State) : Prop where
  eq : s.partSessK = u

variable {u : State.SessKPart} {s : State}

theorem SessK.upd {regs time inp wq lpe hmp prf site zfb wgl lks link chn est arr flt mgp sec pwr cfg pins shadow free pending} (h : SessK u s) (h_regs : regs = s.regs) (h_time : time = s.time) (h_inp : inp = s.inp) (h_wq : wq = s.wq) (h_lpe : lpe = s.lpe) (h_hmp : hmp = s.hmp) (h_prf : prf = s.prf) (h_site : site = s.site) (h_zfb : zfb = s.zfb) (h_wgl : wgl = s.wgl) (h_lks : lks = s.lks) (h_link : link = s.link) (h_chn : chn = s.chn) (h_est : est = s.est) (h_arr : arr = s.arr) (h_flt : flt = s.flt) (h_sec : sec = s.sec) (h_pwr : pwr = s.pwr) (h_cfg : cfg = s.cfg) (h_pins : pins = s.pins) (h_shadow : shadow = s.shadow) (h_free : free = s.free) (h_pending : pending = s.pending) :
    SessK u (State.mk regs time inp wq lpe hmp prf site zfb wgl lks link chn est arr flt mgp sec pwr cfg pins shadow free pending) := by
  subst h_regs h_time h_inp h_wq h_lpe h_hmp h_prf h_site h_zfb h_wgl h_lks h_link h_chn h_est h_arr h_flt h_sec h_pwr h_cfg h_pins h_shadow h_free h_pending
  exact ⟨h.eq⟩

theorem SessK.rfl' (s : State) : SessK s.partSessK s := ⟨rfl⟩

theorem SessK.ite {c : Prop} {_ : Decidable c} {a b : State} (ha : c → SessK u a) (hb : ¬c → SessK u b) : SessK u (if c then a else b) := by
  split
  · exact ha ‹_›
  · exact hb ‹_›

theorem SessK.dite {c : Prop} {_ : Decidable c} {a : c → State} {b : ¬c → State} (ha : ∀ h, SessK u (a h)) (hb : ∀ h, SessK u (b h)) :
    SessK u (if h : c then a h else b h) := by
  split
  · exact ha _
  · exact hb _

theorem SessK.iteP {α : Type} {c : Prop} {_ : Decidable c} {a b : State × α} (ha : c → SessK u a.1) (hb : ¬c → SessK u b.1) : SessK u (if c then a else b).1 := by
  split
  · exact ha ‹_›
  · exact hb ‹_›

theorem SessK.diteP {α : Type} {c : Prop} {_ : Decidable c} {a : c → State × α} {b : ¬c → State × α} (ha : ∀ h, SessK u (a h).1) (hb : ∀ h, SessK u (b h).1) :
    SessK u (if h : c then a h else b h).1 := by
  split
  · exact ha _
  · exact hb _

theorem SessK.foldl {α : Type} {l : List α} {f : State → α → State} (hf : ∀ t a, SessK u t → SessK u (f t a)) (h : SessK u s) : SessK u (l.foldl f s) := by
  induction l generalizing s with
  | nil => exact h
  | cons a l ih => exact ih (hf s a h)

theorem SessK.each {n : Nat} {f : Nat → State → State} (hf : ∀ i t, SessK u t → SessK u (f i t)) (h : SessK u s) : SessK u (State.each n f s) :=
  SessK.foldl (fun t a ht => hf a t ht) h

theorem SessK.over {α : Type} {l : List α} {f : α → State → State} (hf : ∀ i t, SessK u t → SessK u (f i t)) (h : SessK u s) : SessK u (State.over l f s) :=
  SessK.foldl (fun t a ht => hf a t ht) h

theorem SessK.iff {c : Bool} {f : State → State} (hf : ∀ t, SessK u t → SessK u (f t)) (h : SessK u s) : SessK u (State.iff c f s) := by
  unfold State.iff
  split
  · exact hf s h
  · exact h

theorem SessK.wr (h : SessK u s) (a w) : SessK u (s.wr a w) := ⟨h.eq⟩

theorem SessK.time_eq (h : SessK u s) : s.time = u.time := congrArg State.SessKPart.time h.eq
theorem SessK.inp_eq (h : SessK u s) : s.inp = u.inp := congrArg State.SessKPart.inp h.eq
theorem SessK.wq_eq (h : SessK u s) : s.wq = u.wq := congrArg State.SessKPart.wq h.eq
theorem SessK.lpe_eq (h : SessK u s) : s.lpe = u.lpe := congrArg State.SessKPart.lpe h.eq
theorem SessK.hmp_eq (h : SessK u s) : s.hmp = u.hmp := congrArg State.SessKPart.hmp h.eq
theorem SessK.prf_eq (h : SessK u s) : s.prf = u.prf := congrArg State.SessKPart.prf h.eq
theorem SessK.site_eq (h : SessK u s) : s.site = u.site := congrArg State.SessKPart.site h.eq
theorem SessK.zfb_eq (h : SessK u s) : s.zfb = u.zfb := congrArg State.SessKPart.zfb h.eq
theorem SessK.wgl_eq (h : SessK u s) : s.wgl = u.wgl := congrArg State.SessKPart.wgl h.eq
theorem SessK.lks_eq (h : SessK u s) : s.lks = u.lks := congrArg State.SessKPart.lks h.eq
theorem SessK.link_eq (h : SessK u s) : s.link = u.link := congrArg State.SessKPart.link h.eq
theorem SessK.chn_eq (h : SessK u s) : s.chn = u.chn := congrArg State.SessKPart.chn h.eq
theorem SessK.est_eq (h : SessK u s) : s.est = u.est := congrArg State.SessKPart.est h.eq
theorem SessK.arr_eq (h : SessK u s) : s.arr = u.arr := congrArg State.SessKPart.arr h.eq
theorem SessK.flt_eq (h : SessK u s) : s.flt = u.flt := congrArg State.SessKPart.flt h.eq
theorem SessK.sec_eq (h : SessK u s) : s.sec = u.sec := congrArg State.SessKPart.sec h.eq
theorem SessK.pwr_eq (h : SessK u s) : s.pwr = u.pwr := congrArg State.SessKPart.pwr h.eq
theorem SessK.cfg_eq (h : SessK u s) : s.cfg = u.cfg := congrArg State.SessKPart.cfg h.eq
theorem SessK.pins_eq (h : SessK u s) : s.pins = u.pins := congrArg State.SessKPart.pins h.eq
theorem SessK.shadow_eq (h : SessK u s) : s.shadow = u.shadow := congrArg State.SessKPart.shadow h.eq
theorem SessK.free_eq (h : SessK u s) : s.free = u.free := congrArg State.SessKPart.free h.eq
theorem SessK.pending_eq (h : SessK u s) : s.pending = u.pending := congrArg State.SessKPart.pending h.eq

theorem SessK.put (h : SessK u s) (a1 a2) : SessK u (State.put s a1 a2) := by
  unfold State.put
  refine SessK.wr ?_ ..
  exact h

theorem SessK.setFlag (h : SessK u s) (a1 a2) : SessK u (State.setFlag s a1 a2) := by
  unfold State.setFlag
  refine SessK.put ?_ ..
  exact h

theorem SessK.bump (h : SessK u s) (a1) : SessK u (State.bump s a1) := by
  unfold State.bump
  refine SessK.put ?_ ..
  exact h

theorem SessK.sessionRegs (h : SessK u s) : SessK u (State.sessionRegs s) := by
  unfold State.sessionRegs
  extract_lets +onlyGivenNames -merge -useContext -underBinder x1
  extract_lets +onlyGivenNames -merge -useContext -underBinder x2
  have hx2 : SessK u x2 := by
    unfold x2
    refine SessK.each (fun _ _ ht3 => ?_) ?_
    · refine SessK.put ?_ ..
      exact ht3
    · exact h
  refine SessK.put ?_ ..
  refine SessK.put ?_ ..
  refine SessK.put ?_ ..
  exact hx2

theorem SessK.semRegs (h : SessK u s) : SessK u (State.semRegs s) := by
  unfold State.semRegs
  split
  · refine SessK.put ?_ ..
    refine SessK.put ?_ ..
    refine SessK.put ?_ ..
    refine SessK.setFlag ?_ ..
    exact h
  · extract_lets +onlyGivenNames -merge -useContext -underBinder x1
    refine SessK.put ?_ ..
    refine SessK.put ?_ ..
    refine SessK.put ?_ ..
    refine SessK.setFlag ?_ ..
    exact h

theorem SessK.setSem (h : SessK u s) (a1) : SessK u (State.setSem s a1) := by
  unfold State.setSem
  refine SessK.upd ?_ rfl rfl rfl rfl rfl rfl rfl rfl rfl rfl rfl rfl rfl rfl rfl rfl rfl rfl rfl rfl rfl rfl rfl
  exact h

theorem SessK.semFree (h : SessK u s) : SessK u (State.semFree s) := by
  unfold State.semFree
  refine SessK.semRegs ?_ ..
  refine SessK.setSem ?_ ..
  exact h

theorem SessK.setSession (h : SessK u s) (a1 a2 a3) : SessK u (State.setSession s a1 a2 a3) := by
  unfold State.setSession
  refine SessK.upd ?_ rfl rfl rfl rfl rfl rfl rfl rfl rfl rfl rfl rfl rfl rfl rfl rfl rfl rfl rfl rfl rfl rfl rfl
  exact h

theorem SessK.windowRegs (h : SessK u s) : SessK u (State.windowRegs s) := by
  unfold State.windowRegs
  refine SessK.each (fun _ _ ht1 => ?_) ?_
  · refine SessK.put ?_ ..
    exact ht1
  · exact h

theorem SessK.sendNow (h : SessK u s) (a1 a2) : SessK u (State.sendNow s a1 a2) := by
  unfold State.sendNow
  refine SessK.upd ?_ rfl rfl rfl rfl rfl rfl rfl rfl rfl rfl rfl rfl rfl rfl rfl rfl rfl rfl rfl rfl rfl rfl rfl
  exact h

theorem SessK.countReply (h : SessK u s) (a1 a2) : SessK u (State.countReply s a1 a2) := by
  unfold State.countReply
  refine SessK.ite (fun _ => ?_) (fun _ => ?_)
  · refine SessK.ite (fun _ => ?_) (fun _ => ?_)
    · refine SessK.bump ?_ ..
      exact h
    · refine SessK.ite (fun _ => ?_) (fun _ => ?_)
      · refine SessK.bump ?_ ..
        exact h
      · exact h
  · exact h

theorem SessK.keepReply (h : SessK u s) (a1 a2) : SessK u (State.keepReply s a1 a2) := by
  unfold State.keepReply
  refine SessK.setSession ?_ ..
  exact h

theorem SessK.renew (h : SessK u s) (a1 a2) : SessK u (State.renew s a1 a2) := by
  unfold State.renew
  extract_lets +onlyGivenNames -merge -useContext -underBinder x1
  have hx1 : SessK u x1 := by
    unfold x1
    refine SessK.setSession ?_ ..
    exact h
  split
  · refine SessK.ite (fun _ => ?_) (fun _ => ?_)
    · refine SessK.semRegs ?_ ..
      refine SessK.setSem ?_ ..
      exact hx1
    · exact hx1
  · exact hx1

theorem SessK.counted (h : SessK u s) (a1) : SessK u (State.counted s a1) := by
  unfold State.counted
  refine SessK.setSession ?_ ..
  refine SessK.upd ?_ rfl rfl rfl rfl rfl rfl rfl rfl rfl rfl rfl rfl rfl rfl rfl rfl rfl rfl rfl rfl rfl rfl rfl
  exact h

theorem SessK.holdSem (h : SessK u s) (a1) : SessK u (State.holdSem s a1) := by
  unfold State.holdSem
  refine SessK.semRegs ?_ ..
  refine SessK.setSem ?_ ..
  exact h

/-- What those functions may change, as a frame names it. -/
theorem SessK.within {t : State} (h : SessK s.partSessK t) : t.within s [.regs, .mgp]
  | .regs, hp => (hp (by decide)).elim
  | .time, _ => h.time_eq
  | .inp, _ => h.inp_eq
  | .wq, _ => h.wq_eq
  | .lpe, _ => h.lpe_eq
  | .hmp, _ => h.hmp_eq
  | .prf, _ => h.prf_eq
  | .site, _ => h.site_eq
  | .zfb, _ => h.zfb_eq
  | .wgl, _ => h.wgl_eq
  | .lks, _ => h.lks_eq
  | .link, _ => h.link_eq
  | .chn, _ => h.chn_eq
  | .est, _ => h.est_eq
  | .arr, _ => h.arr_eq
  | .flt, _ => h.flt_eq
  | .mgp, hp => (hp (by decide)).elim
  | .sec, _ => h.sec_eq
  | .pwr, _ => h.pwr_eq
  | .cfg, _ => h.cfg_eq
  | .pins, _ => h.pins_eq
  | .shadow, _ => h.shadow_eq
  | .free, _ => h.free_eq
  | .pending, _ => h.pending_eq

end Sys2Proof.Machine
end

