-- ==== Sys2Proof/Laws/ShowK.lean ====
section
/-! SUPPORT. What registers that show state leave alone. -/

namespace Sys2Proof.Machine

/-- The parts of the state that are kept. -/
structure State.ShowKPart where
  time : TimeRt
  inp : InputRt
  wq : List PairWrite
  lpe : LpeRt
  hmp : HmpRt
  prf : PrfRt
  site : SiteRt
  zfb : ZfbRt
  wgl : WglRt
  lks : LksRt
  link : LinkRt
  chn : ChnRt
  est : EstRt
  arr : ArrRt
  flt : FltRt
  mgp : MgpRt
  sec : SecRt
  pwr : PwrRt
  cfg : CfgRt
  pins : PinRt
  shadow : List (Nat × Nat × Word)
  free : Nat
  pending : List Instr

/-- Those parts of a state. -/
def State.partShowK (s : State) : State.ShowKPart :=
  ⟨s.time, s.inp, s.wq, s.lpe, s.hmp, s.prf, s.site, s.zfb, s.wgl, s.lks, s.link, s.chn, s.est, s.arr, s.flt, s.mgp, s.sec, s.pwr, s.cfg, s.pins, s.shadow, s.free, s.pending⟩

/-- Those parts are the ones given. -/
structure ShowK (u : State.ShowKPart) (s : State) : Prop where
  eq : s.partShowK = u

variable {u : State.ShowKPart} {s : State}

theorem ShowK.upd {regs time inp wq lpe hmp prf site zfb wgl lks link chn est arr flt mgp sec pwr cfg pins shadow free pending} (h : ShowK u s) (h_regs : regs = s.regs) (h_time : time = s.time) (h_inp : inp = s.inp) (h_wq : wq = s.wq) (h_lpe : lpe = s.lpe) (h_hmp : hmp = s.hmp) (h_prf : prf = s.prf) (h_site : site = s.site) (h_zfb : zfb = s.zfb) (h_wgl : wgl = s.wgl) (h_lks : lks = s.lks) (h_link : link = s.link) (h_chn : chn = s.chn) (h_est : est = s.est) (h_arr : arr = s.arr) (h_flt : flt = s.flt) (h_mgp : mgp = s.mgp) (h_sec : sec = s.sec) (h_pwr : pwr = s.pwr) (h_cfg : cfg = s.cfg) (h_pins : pins = s.pins) (h_shadow : shadow = s.shadow) (h_free : free = s.free) (h_pending : pending = s.pending) :
    ShowK u (State.mk regs time inp wq lpe hmp prf site zfb wgl lks link chn est arr flt mgp sec pwr cfg pins shadow free pending) := by
  subst h_regs h_time h_inp h_wq h_lpe h_hmp h_prf h_site h_zfb h_wgl h_lks h_link h_chn h_est h_arr h_flt h_mgp h_sec h_pwr h_cfg h_pins h_shadow h_free h_pending
  exact ⟨h.eq⟩

theorem ShowK.rfl' (s : State) : ShowK s.partShowK s := ⟨rfl⟩

theorem ShowK.ite {c : Prop} {_ : Decidable c} {a b : State} (ha : c → ShowK u a) (hb : ¬c → ShowK u b) : ShowK u (if c then a else b) := by
  split
  · exact ha ‹_›
  · exact hb ‹_›

theorem ShowK.dite {c : Prop} {_ : Decidable c} {a : c → State} {b : ¬c → State} (ha : ∀ h, ShowK u (a h)) (hb : ∀ h, ShowK u (b h)) :
    ShowK u (if h : c then a h else b h) := by
  split
  · exact ha _
  · exact hb _

theorem ShowK.iteP {α : Type} {c : Prop} {_ : Decidable c} {a b : State × α} (ha : c → ShowK u a.1) (hb : ¬c → ShowK u b.1) : ShowK u (if c then a else b).1 := by
  split
  · exact ha ‹_›
  · exact hb ‹_›

theorem ShowK.diteP {α : Type} {c : Prop} {_ : Decidable c} {a : c → State × α} {b : ¬c → State × α} (ha : ∀ h, ShowK u (a h).1) (hb : ∀ h, ShowK u (b h).1) :
    ShowK u (if h : c then a h else b h).1 := by
  split
  · exact ha _
  · exact hb _

theorem ShowK.foldl {α : Type} {l : List α} {f : State → α → State} (hf : ∀ t a, ShowK u t → ShowK u (f t a)) (h : ShowK u s) : ShowK u (l.foldl f s) := by
  induction l generalizing s with
  | nil => exact h
  | cons a l ih => exact ih (hf s a h)

theorem ShowK.each {n : Nat} {f : Nat → State → State} (hf : ∀ i t, ShowK u t → ShowK u (f i t)) (h : ShowK u s) : ShowK u (State.each n f s) :=
  ShowK.foldl (fun t a ht => hf a t ht) h

theorem ShowK.over {α : Type} {l : List α} {f : α → State → State} (hf : ∀ i t, ShowK u t → ShowK u (f i t)) (h : ShowK u s) : ShowK u (State.over l f s) :=
  ShowK.foldl (fun t a ht => hf a t ht) h

theorem ShowK.iff {c : Bool} {f : State → State} (hf : ∀ t, ShowK u t → ShowK u (f t)) (h : ShowK u s) : ShowK u (State.iff c f s) := by
  unfold State.iff
  split
  · exact hf s h
  · exact h

theorem ShowK.wr (h : ShowK u s) (a w) : ShowK u (s.wr a w) := ⟨h.eq⟩

theorem ShowK.time_eq (h : ShowK u s) : s.time = u.time := congrArg State.ShowKPart.time h.eq
theorem ShowK.inp_eq (h : ShowK u s) : s.inp = u.inp := congrArg State.ShowKPart.inp h.eq
theorem ShowK.wq_eq (h : ShowK u s) : s.wq = u.wq := congrArg State.ShowKPart.wq h.eq
theorem ShowK.lpe_eq (h : ShowK u s) : s.lpe = u.lpe := congrArg State.ShowKPart.lpe h.eq
theorem ShowK.hmp_eq (h : ShowK u s) : s.hmp = u.hmp := congrArg State.ShowKPart.hmp h.eq
theorem ShowK.prf_eq (h : ShowK u s) : s.prf = u.prf := congrArg State.ShowKPart.prf h.eq
theorem ShowK.site_eq (h : ShowK u s) : s.site = u.site := congrArg State.ShowKPart.site h.eq
theorem ShowK.zfb_eq (h : ShowK u s) : s.zfb = u.zfb := congrArg State.ShowKPart.zfb h.eq
theorem ShowK.wgl_eq (h : ShowK u s) : s.wgl = u.wgl := congrArg State.ShowKPart.wgl h.eq
theorem ShowK.lks_eq (h : ShowK u s) : s.lks = u.lks := congrArg State.ShowKPart.lks h.eq
theorem ShowK.link_eq (h : ShowK u s) : s.link = u.link := congrArg State.ShowKPart.link h.eq
theorem ShowK.chn_eq (h : ShowK u s) : s.chn = u.chn := congrArg State.ShowKPart.chn h.eq
theorem ShowK.est_eq (h : ShowK u s) : s.est = u.est := congrArg State.ShowKPart.est h.eq
theorem ShowK.arr_eq (h : ShowK u s) : s.arr = u.arr := congrArg State.ShowKPart.arr h.eq
theorem ShowK.flt_eq (h : ShowK u s) : s.flt = u.flt := congrArg State.ShowKPart.flt h.eq
theorem ShowK.mgp_eq (h : ShowK u s) : s.mgp = u.mgp := congrArg State.ShowKPart.mgp h.eq
theorem ShowK.sec_eq (h : ShowK u s) : s.sec = u.sec := congrArg State.ShowKPart.sec h.eq
theorem ShowK.pwr_eq (h : ShowK u s) : s.pwr = u.pwr := congrArg State.ShowKPart.pwr h.eq
theorem ShowK.cfg_eq (h : ShowK u s) : s.cfg = u.cfg := congrArg State.ShowKPart.cfg h.eq
theorem ShowK.pins_eq (h : ShowK u s) : s.pins = u.pins := congrArg State.ShowKPart.pins h.eq
theorem ShowK.shadow_eq (h : ShowK u s) : s.shadow = u.shadow := congrArg State.ShowKPart.shadow h.eq
theorem ShowK.free_eq (h : ShowK u s) : s.free = u.free := congrArg State.ShowKPart.free h.eq
theorem ShowK.pending_eq (h : ShowK u s) : s.pending = u.pending := congrArg State.ShowKPart.pending h.eq

theorem ShowK.put (h : ShowK u s) (a1 a2) : ShowK u (State.put s a1 a2) := by
  unfold State.put
  refine ShowK.wr ?_ ..
  exact h

theorem ShowK.setFlag (h : ShowK u s) (a1 a2) : ShowK u (State.setFlag s a1 a2) := by
  unfold State.setFlag
  refine ShowK.put ?_ ..
  exact h

theorem ShowK.put64 (h : ShowK u s) (a1 a2 a3) : ShowK u (State.put64 s a1 a2 a3) := by
  unfold State.put64
  refine ShowK.wr ?_ ..
  refine ShowK.wr ?_ ..
  exact h

theorem ShowK.auditRegs (h : ShowK u s) : ShowK u (State.auditRegs s) := by
  unfold State.auditRegs
  extract_lets +onlyGivenNames -merge -useContext -underBinder x1
  refine ShowK.setFlag ?_ ..
  refine ShowK.put ?_ ..
  refine ShowK.put64 ?_ ..
  exact h

theorem ShowK.sessionRegs (h : ShowK u s) : ShowK u (State.sessionRegs s) := by
  unfold State.sessionRegs
  extract_lets +onlyGivenNames -merge -useContext -underBinder x1
  extract_lets +onlyGivenNames -merge -useContext -underBinder x2
  have hx2 : ShowK u x2 := by
    unfold x2
    refine ShowK.each (fun _ _ ht3 => ?_) ?_
    · refine ShowK.put ?_ ..
      exact ht3
    · exact h
  refine ShowK.put ?_ ..
  refine ShowK.put ?_ ..
  refine ShowK.put ?_ ..
  exact hx2

theorem ShowK.semRegs (h : ShowK u s) : ShowK u (State.semRegs s) := by
  unfold State.semRegs
  split
  · refine ShowK.put ?_ ..
    refine ShowK.put ?_ ..
    refine ShowK.put ?_ ..
    refine ShowK.setFlag ?_ ..
    exact h
  · extract_lets +onlyGivenNames -merge -useContext -underBinder x1
    refine ShowK.put ?_ ..
    refine ShowK.put ?_ ..
    refine ShowK.put ?_ ..
    refine ShowK.setFlag ?_ ..
    exact h

theorem ShowK.windowRegs (h : ShowK u s) : ShowK u (State.windowRegs s) := by
  unfold State.windowRegs
  refine ShowK.each (fun _ _ ht1 => ?_) ?_
  · refine ShowK.put ?_ ..
    exact ht1
  · exact h

/-- What those functions may change, as a frame names it. -/
theorem ShowK.within {t : State} (h : ShowK s.partShowK t) : t.within s [.regs]
  | .regs, hp => (hp (by decide)).elim
  | .time, _ => h.time_eq
  | .inp, _ => h.inp_eq
  | .wq, _ => h.wq_eq
  | .lpe, _ => h.lpe_eq
  | .hmp, _ => h.hmp_eq
  | .prf, _ => h.prf_eq
  | .site, _ => h.site_eq
  | .zfb, _ => h.zfb_eq
  | .wgl, _ => h.wgl_eq
  | .lks, _ => h.lks_eq
  | .link, _ => h.link_eq
  | .chn, _ => h.chn_eq
  | .est, _ => h.est_eq
  | .arr, _ => h.arr_eq
  | .flt, _ => h.flt_eq
  | .mgp, _ => h.mgp_eq
  | .sec, _ => h.sec_eq
  | .pwr, _ => h.pwr_eq
  | .cfg, _ => h.cfg_eq
  | .pins, _ => h.pins_eq
  | .shadow, _ => h.shadow_eq
  | .free, _ => h.free_eq
  | .pending, _ => h.pending_eq

end Sys2Proof.Machine
end

