-- ==== Sys2Proof/Laws/StartK.lean ====
section
/-! SUPPORT. What a complete start leaves alone. -/

namespace Sys2Proof.Machine

/-- The parts of the state that are kept. -/
structure State.StartKPart where
  regs : Regs
  time : TimeRt
  inp : InputRt
  wq : List PairWrite
  lpe : LpeRt
  hmp : HmpRt
  prf : PrfRt
  site : SiteRt
  zfb : ZfbRt
  wgl : WglRt
  link : LinkRt
  chn : ChnRt
  est : EstRt
  arr : ArrRt
  flt : FltRt
  mgp : MgpRt
  sec : SecRt
  cfg : CfgRt
  pins : PinRt
  shadow : List (Nat × Nat × Word)
  free : Nat
  pending : List Instr

/-- Those parts of a state. -/
def State.partStartK (s : State) : State.StartKPart :=
  ⟨s.regs, s.time, s.inp, s.wq, s.lpe, s.hmp, s.prf, s.site, s.zfb, s.wgl, s.link, s.chn, s.est, s.arr, s.flt, s.mgp, s.sec, s.cfg, s.pins, s.shadow, s.free, s.pending⟩

/-- Those parts are the ones given. -/
structure StartK (u : State.StartKPart) (s : State) : Prop where
  eq : s.partStartK = u

variable {u : State.StartKPart} {s : State}

theorem StartK.upd {regs time inp wq lpe hmp prf site zfb wgl lks link chn est arr flt mgp sec pwr cfg pins shadow free pending} (h : StartK u s) (h_regs : regs = s.regs) (h_time : time = s.time) (h_inp : inp = s.inp) (h_wq : wq = s.wq) (h_lpe : lpe = s.lpe) (h_hmp : hmp = s.hmp) (h_prf : prf = s.prf) (h_site : site = s.site) (h_zfb : zfb = s.zfb) (h_wgl : wgl = s.wgl) (h_link : link = s.link) (h_chn : chn = s.chn) (h_est : est = s.est) (h_arr : arr = s.arr) (h_flt : flt = s.flt) (h_mgp : mgp = s.mgp) (h_sec : sec = s.sec) (h_cfg : cfg = s.cfg) (h_pins : pins = s.pins) (h_shadow : shadow = s.shadow) (h_free : free = s.free) (h_pending : pending = s.pending) :
    StartK u (State.mk regs time inp wq lpe hmp prf site zfb wgl lks link chn est arr flt mgp sec pwr cfg pins shadow free pending) := by
  subst h_regs h_time h_inp h_wq h_lpe h_hmp h_prf h_site h_zfb h_wgl h_link h_chn h_est h_arr h_flt h_mgp h_sec h_cfg h_pins h_shadow h_free h_pending
  exact ⟨h.eq⟩

theorem StartK.rfl' (s : State) : StartK s.partStartK s := ⟨rfl⟩

theorem StartK.ite {c : Prop} {_ : Decidable c} {a b : State} (ha : c → StartK u a) (hb : ¬c → StartK u b) : StartK u (if c then a else b) := by
  split
  · exact ha ‹_›
  · exact hb ‹_›

theorem StartK.dite {c : Prop} {_ : Decidable c} {a : c → State} {b : ¬c → State} (ha : ∀ h, StartK u (a h)) (hb : ∀ h, StartK u (b h)) :
    StartK u (if h : c then a h else b h) := by
  split
  · exact ha _
  · exact hb _

theorem StartK.iteP {α : Type} {c : Prop} {_ : Decidable c} {a b : State × α} (ha : c → StartK u a.1) (hb : ¬c → StartK u b.1) : StartK u (if c then a else b).1 := by
  split
  · exact ha ‹_›
  · exact hb ‹_›

theorem StartK.diteP {α : Type} {c : Prop} {_ : Decidable c} {a : c → State × α} {b : ¬c → State × α} (ha : ∀ h, StartK u (a h).1) (hb : ∀ h, StartK u (b h).1) :
    StartK u (if h : c then a h else b h).1 := by
  split
  · exact ha _
  · exact hb _

theorem StartK.foldl {α : Type} {l : List α} {f : State → α → State} (hf : ∀ t a, StartK u t → StartK u (f t a)) (h : StartK u s) : StartK u (l.foldl f s) := by
  induction l generalizing s with
  | nil => exact h
  | cons a l ih => exact ih (hf s a h)

theorem StartK.each {n : Nat} {f : Nat → State → State} (hf : ∀ i t, StartK u t → StartK u (f i t)) (h : StartK u s) : StartK u (State.each n f s) :=
  StartK.foldl (fun t a ht => hf a t ht) h

theorem StartK.over {α : Type} {l : List α} {f : α → State → State} (hf : ∀ i t, StartK u t → StartK u (f i t)) (h : StartK u s) : StartK u (State.over l f s) :=
  StartK.foldl (fun t a ht => hf a t ht) h

theorem StartK.iff {c : Bool} {f : State → State} (hf : ∀ t, StartK u t → StartK u (f t)) (h : StartK u s) : StartK u (State.iff c f s) := by
  unfold State.iff
  split
  · exact hf s h
  · exact h

theorem StartK.regs_eq (h : StartK u s) : s.regs = u.regs := congrArg State.StartKPart.regs h.eq
theorem StartK.time_eq (h : StartK u s) : s.time = u.time := congrArg State.StartKPart.time h.eq
theorem StartK.inp_eq (h : StartK u s) : s.inp = u.inp := congrArg State.StartKPart.inp h.eq
theorem StartK.wq_eq (h : StartK u s) : s.wq = u.wq := congrArg State.StartKPart.wq h.eq
theorem StartK.lpe_eq (h : StartK u s) : s.lpe = u.lpe := congrArg State.StartKPart.lpe h.eq
theorem StartK.hmp_eq (h : StartK u s) : s.hmp = u.hmp := congrArg State.StartKPart.hmp h.eq
theorem StartK.prf_eq (h : StartK u s) : s.prf = u.prf := congrArg State.StartKPart.prf h.eq
theorem StartK.site_eq (h : StartK u s) : s.site = u.site := congrArg State.StartKPart.site h.eq
theorem StartK.zfb_eq (h : StartK u s) : s.zfb = u.zfb := congrArg State.StartKPart.zfb h.eq
theorem StartK.wgl_eq (h : StartK u s) : s.wgl = u.wgl := congrArg State.StartKPart.wgl h.eq
theorem StartK.link_eq (h : StartK u s) : s.link = u.link := congrArg State.StartKPart.link h.eq
theorem StartK.chn_eq (h : StartK u s) : s.chn = u.chn := congrArg State.StartKPart.chn h.eq
theorem StartK.est_eq (h : StartK u s) : s.est = u.est := congrArg State.StartKPart.est h.eq
theorem StartK.arr_eq (h : StartK u s) : s.arr = u.arr := congrArg State.StartKPart.arr h.eq
theorem StartK.flt_eq (h : StartK u s) : s.flt = u.flt := congrArg State.StartKPart.flt h.eq
theorem StartK.mgp_eq (h : StartK u s) : s.mgp = u.mgp := congrArg State.StartKPart.mgp h.eq
theorem StartK.sec_eq (h : StartK u s) : s.sec = u.sec := congrArg State.StartKPart.sec h.eq
theorem StartK.cfg_eq (h : StartK u s) : s.cfg = u.cfg := congrArg State.StartKPart.cfg h.eq
theorem StartK.pins_eq (h : StartK u s) : s.pins = u.pins := congrArg State.StartKPart.pins h.eq
theorem StartK.shadow_eq (h : StartK u s) : s.shadow = u.shadow := congrArg State.StartKPart.shadow h.eq
theorem StartK.free_eq (h : StartK u s) : s.free = u.free := congrArg State.StartKPart.free h.eq
theorem StartK.pending_eq (h : StartK u s) : s.pending = u.pending := congrArg State.StartKPart.pending h.eq

theorem StartK.started (h : StartK u s) : StartK u (State.started s) := by
  unfold State.started
  refine StartK.upd ?_ rfl rfl rfl rfl rfl rfl rfl rfl rfl rfl rfl rfl rfl rfl rfl rfl rfl rfl rfl rfl rfl rfl
  exact h

/-- What those functions may change, as a frame names it. -/
theorem StartK.within {t : State} (h : StartK s.partStartK t) : t.within s [.lks, .pwr]
  | .regs, _ => h.regs_eq
  | .time, _ => h.time_eq
  | .inp, _ => h.inp_eq
  | .wq, _ => h.wq_eq
  | .lpe, _ => h.lpe_eq
  | .hmp, _ => h.hmp_eq
  | .prf, _ => h.prf_eq
  | .site, _ => h.site_eq
  | .zfb, _ => h.zfb_eq
  | .wgl, _ => h.wgl_eq
  | .lks, hp => (hp (by decide)).elim
  | .link, _ => h.link_eq
  | .chn, _ => h.chn_eq
  | .est, _ => h.est_eq
  | .arr, _ => h.arr_eq
  | .flt, _ => h.flt_eq
  | .mgp, _ => h.mgp_eq
  | .sec, _ => h.sec_eq
  | .pwr, hp => (hp (by decide)).elim
  | .cfg, _ => h.cfg_eq
  | .pins, _ => h.pins_eq
  | .shadow, _ => h.shadow_eq
  | .free, _ => h.free_eq
  | .pending, _ => h.pending_eq

end Sys2Proof.Machine
end

