-- ==== Sys2Proof/Laws/Swarm1.lean ====
section
/-! SUPPORT. What the ends of arms, onsets and commits leave alone. -/

namespace Sys2Proof.Machine

/-- The parts of the state that are kept. -/
structure State.Swarm1Part where
  time : TimeRt
  inp : InputRt
  wq : List PairWrite
  lpe : LpeRt
  hmp : HmpRt
  prf : PrfRt
  site : SiteRt
  zfb : ZfbRt
  lks : LksRt
  link : LinkRt
  chn : ChnRt
  est : EstRt
  arr : ArrRt
  flt : FltRt
  mgp : MgpRt
  sec : SecRt
  pwr : PwrRt
  cfg : CfgRt
  pins : PinRt
  shadow : List (Nat × Nat × Word)
  free : Nat
  pending : List Instr

/-- Those parts of a state. -/
def State.partSwarm1 (s : State) : State.Swarm1Part :=
  ⟨s.time, s.inp, s.wq, s.lpe, s.hmp, s.prf, s.site, s.zfb, s.lks, s.link, s.chn, s.est, s.arr, s.flt, s.mgp, s.sec, s.pwr, s.cfg, s.pins, s.shadow, s.free, s.pending⟩

/-- Those parts are the ones given. -/
structure Swarm1 (u : State.Swarm1Part) (s : State) : Prop where
  eq : s.partSwarm1 = u

variable {u : State.Swarm1Part} {s : State}

theorem Swarm1.upd {regs time inp wq lpe hmp prf site zfb wgl lks link chn est arr flt mgp sec pwr cfg pins shadow free pending} (h : Swarm1 u s) (h_regs : regs = s.regs) (h_time : time = s.time) (h_inp : inp = s.inp) (h_wq : wq = s.wq) (h_lpe : lpe = s.lpe) (h_hmp : hmp = s.hmp) (h_prf : prf = s.prf) (h_site : site = s.site) (h_zfb : zfb = s.zfb) (h_lks : lks = s.lks) (h_link : link = s.link) (h_chn : chn = s.chn) (h_est : est = s.est) (h_arr : arr = s.arr) (h_flt : flt = s.flt) (h_mgp : mgp = s.mgp) (h_sec : sec = s.sec) (h_pwr : pwr = s.pwr) (h_cfg : cfg = s.cfg) (h_pins : pins = s.pins) (h_shadow : shadow = s.shadow) (h_free : free = s.free) (h_pending : pending = s.pending) :
    Swarm1 u (State.mk regs time inp wq lpe hmp prf site zfb wgl lks link chn est arr flt mgp sec pwr cfg pins shadow free pending) := by
  subst h_regs h_time h_inp h_wq h_lpe h_hmp h_prf h_site h_zfb h_lks h_link h_chn h_est h_arr h_flt h_mgp h_sec h_pwr h_cfg h_pins h_shadow h_free h_pending
  exact ⟨h.eq⟩

theorem Swarm1.rfl' (s : State) : Swarm1 s.partSwarm1 s := ⟨rfl⟩

/-- What a command answers keeps them. -/
def Swarm1o (u : State.Swarm1Part) (o : Host.Outcome State Fault Refusal) : Prop := ∀ t, o = Host.Outcome.next t → Swarm1 u t

theorem Swarm1o.next (h : Swarm1 u s) : Swarm1o u (Host.Outcome.next s) := fun t e => by cases e; exact h

theorem Swarm1.ite {c : Prop} {_ : Decidable c} {a b : State} (ha : c → Swarm1 u a) (hb : ¬c → Swarm1 u b) : Swarm1 u (if c then a else b) := by
  split
  · exact ha ‹_›
  · exact hb ‹_›

theorem Swarm1.dite {c : Prop} {_ : Decidable c} {a : c → State} {b : ¬c → State} (ha : ∀ h, Swarm1 u (a h)) (hb : ∀ h, Swarm1 u (b h)) :
    Swarm1 u (if h : c then a h else b h) := by
  split
  · exact ha _
  · exact hb _

theorem Swarm1.iteP {α : Type} {c : Prop} {_ : Decidable c} {a b : State × α} (ha : c → Swarm1 u a.1) (hb : ¬c → Swarm1 u b.1) : Swarm1 u (if c then a else b).1 := by
  split
  · exact ha ‹_›
  · exact hb ‹_›

theorem Swarm1.diteP {α : Type} {c : Prop} {_ : Decidable c} {a : c → State × α} {b : ¬c → State × α} (ha : ∀ h, Swarm1 u (a h).1) (hb : ∀ h, Swarm1 u (b h).1) :
    Swarm1 u (if h : c then a h else b h).1 := by
  split
  · exact ha _
  · exact hb _

theorem Swarm1.foldl {α : Type} {l : List α} {f : State → α → State} (hf : ∀ t a, Swarm1 u t → Swarm1 u (f t a)) (h : Swarm1 u s) : Swarm1 u (l.foldl f s) := by
  induction l generalizing s with
  | nil => exact h
  | cons a l ih => exact ih (hf s a h)

theorem Swarm1.each {n : Nat} {f : Nat → State → State} (hf : ∀ i t, Swarm1 u t → Swarm1 u (f i t)) (h : Swarm1 u s) : Swarm1 u (State.each n f s) :=
  Swarm1.foldl (fun t a ht => hf a t ht) h

theorem Swarm1.over {α : Type} {l : List α} {f : α → State → State} (hf : ∀ i t, Swarm1 u t → Swarm1 u (f i t)) (h : Swarm1 u s) : Swarm1 u (State.over l f s) :=
  Swarm1.foldl (fun t a ht => hf a t ht) h

theorem Swarm1.iff {c : Bool} {f : State → State} (hf : ∀ t, Swarm1 u t → Swarm1 u (f t)) (h : Swarm1 u s) : Swarm1 u (State.iff c f s) := by
  unfold State.iff
  split
  · exact hf s h
  · exact h

theorem Swarm1.wr (h : Swarm1 u s) (a w) : Swarm1 u (s.wr a w) := ⟨h.eq⟩

theorem Swarm1.time_eq (h : Swarm1 u s) : s.time = u.time := congrArg State.Swarm1Part.time h.eq
theorem Swarm1.inp_eq (h : Swarm1 u s) : s.inp = u.inp := congrArg State.Swarm1Part.inp h.eq
theorem Swarm1.wq_eq (h : Swarm1 u s) : s.wq = u.wq := congrArg State.Swarm1Part.wq h.eq
theorem Swarm1.lpe_eq (h : Swarm1 u s) : s.lpe = u.lpe := congrArg State.Swarm1Part.lpe h.eq
theorem Swarm1.hmp_eq (h : Swarm1 u s) : s.hmp = u.hmp := congrArg State.Swarm1Part.hmp h.eq
theorem Swarm1.prf_eq (h : Swarm1 u s) : s.prf = u.prf := congrArg State.Swarm1Part.prf h.eq
theorem Swarm1.site_eq (h : Swarm1 u s) : s.site = u.site := congrArg State.Swarm1Part.site h.eq
theorem Swarm1.zfb_eq (h : Swarm1 u s) : s.zfb = u.zfb := congrArg State.Swarm1Part.zfb h.eq
theorem Swarm1.lks_eq (h : Swarm1 u s) : s.lks = u.lks := congrArg State.Swarm1Part.lks h.eq
theorem Swarm1.link_eq (h : Swarm1 u s) : s.link = u.link := congrArg State.Swarm1Part.link h.eq
theorem Swarm1.chn_eq (h : Swarm1 u s) : s.chn = u.chn := congrArg State.Swarm1Part.chn h.eq
theorem Swarm1.est_eq (h : Swarm1 u s) : s.est = u.est := congrArg State.Swarm1Part.est h.eq
theorem Swarm1.arr_eq (h : Swarm1 u s) : s.arr = u.arr := congrArg State.Swarm1Part.arr h.eq
theorem Swarm1.flt_eq (h : Swarm1 u s) : s.flt = u.flt := congrArg State.Swarm1Part.flt h.eq
theorem Swarm1.mgp_eq (h : Swarm1 u s) : s.mgp = u.mgp := congrArg State.Swarm1Part.mgp h.eq
theorem Swarm1.sec_eq (h : Swarm1 u s) : s.sec = u.sec := congrArg State.Swarm1Part.sec h.eq
theorem Swarm1.pwr_eq (h : Swarm1 u s) : s.pwr = u.pwr := congrArg State.Swarm1Part.pwr h.eq
theorem Swarm1.cfg_eq (h : Swarm1 u s) : s.cfg = u.cfg := congrArg State.Swarm1Part.cfg h.eq
theorem Swarm1.pins_eq (h : Swarm1 u s) : s.pins = u.pins := congrArg State.Swarm1Part.pins h.eq
theorem Swarm1.shadow_eq (h : Swarm1 u s) : s.shadow = u.shadow := congrArg State.Swarm1Part.shadow h.eq
theorem Swarm1.free_eq (h : Swarm1 u s) : s.free = u.free := congrArg State.Swarm1Part.free h.eq
theorem Swarm1.pending_eq (h : Swarm1 u s) : s.pending = u.pending := congrArg State.Swarm1Part.pending h.eq

theorem Swarm1.put (h : Swarm1 u s) (a1 a2) : Swarm1 u (State.put s a1 a2) := by
  unfold State.put
  refine Swarm1.wr ?_ ..
  exact h

theorem Swarm1.setFlag (h : Swarm1 u s) (a1 a2) : Swarm1 u (State.setFlag s a1 a2) := by
  unfold State.setFlag
  refine Swarm1.put ?_ ..
  exact h

theorem Swarm1.putBF (h : Swarm1 u s) (a1 a2) : Swarm1 u (State.putBF s a1 a2) := by
  unfold State.putBF
  refine Swarm1.wr ?_ ..
  exact h

theorem Swarm1.put64 (h : Swarm1 u s) (a1 a2 a3) : Swarm1 u (State.put64 s a1 a2 a3) := by
  unfold State.put64
  refine Swarm1.wr ?_ ..
  refine Swarm1.wr ?_ ..
  exact h

theorem Swarm1.setLane (h : Swarm1 u s) (a1 a2) : Swarm1 u (State.setLane s a1 a2) := by
  unfold State.setLane
  refine Swarm1.dite (fun _ => ?_) (fun _ => ?_)
  · refine Swarm1.upd ?_ rfl rfl rfl rfl rfl rfl rfl rfl rfl rfl rfl rfl rfl rfl rfl rfl rfl rfl rfl rfl rfl rfl rfl
    exact h
  · exact h

theorem Swarm1.setZoneFf (h : Swarm1 u s) (a1 a2) : Swarm1 u (State.setZoneFf s a1 a2) := by
  unfold State.setZoneFf
  refine Swarm1.dite (fun _ => ?_) (fun _ => ?_)
  · refine Swarm1.upd ?_ rfl rfl rfl rfl rfl rfl rfl rfl rfl rfl rfl rfl rfl rfl rfl rfl rfl rfl rfl rfl rfl rfl rfl
    exact h
  · exact h

theorem Swarm1.ppFall (h : Swarm1 u s) (a1) : Swarm1 u (State.ppFall s a1) := by
  unfold State.ppFall
  extract_lets +onlyGivenNames -merge -useContext -underBinder x1
  split
  · refine Swarm1.setLane ?_ ..
    exact h
  · exact h

theorem Swarm1.endArm (h : Swarm1 u s) (a1 a2 a3) : Swarm1 u (State.endArm s a1 a2 a3) := by
  unfold State.endArm
  extract_lets +onlyGivenNames -merge -useContext -underBinder x1
  refine Swarm1.ite (fun _ => ?_) (fun _ => ?_)
  · exact h
  · extract_lets +onlyGivenNames -merge -useContext -underBinder x2
    have hx2 : Swarm1 u x2 := by
      unfold x2
      refine Swarm1.setLane ?_ ..
      exact h
    extract_lets +onlyGivenNames -merge -useContext -underBinder x3
    have hx3 : Swarm1 u x3 := by
      unfold x3
      refine Swarm1.setFlag ?_ ..
      exact hx2
    extract_lets +onlyGivenNames -merge -useContext -underBinder x4
    have hx4 : Swarm1 u x4 := by
      unfold x4
      refine Swarm1.putBF ?_ ..
      refine Swarm1.put64 ?_ ..
      exact hx3
    refine Swarm1.ite (fun _ => ?_) (fun _ => ?_)
    · refine Swarm1.ppFall ?_ ..
      exact hx4
    · exact hx4

theorem Swarm1.execArmTimeout_keeps (h : Swarm1 u s) (a0) : Swarm1o u (execArmTimeout a0 s) := by
  unfold execArmTimeout
  refine Swarm1o.next ?_
  split
  · refine Swarm1.ite (fun _ => ?_) (fun _ => ?_)
    · refine Swarm1.endArm ?_ ..
      exact h
    · exact h
  · exact h

theorem Swarm1.setAnchorTime (h : Swarm1 u s) (a1 a2) : Swarm1 u (State.setAnchorTime s a1 a2) := by
  unfold State.setAnchorTime
  refine Swarm1.setZoneFf ?_ ..
  refine Swarm1.put64 ?_ ..
  exact h

theorem Swarm1.onset (h : Swarm1 u s) (a1 a2 a3) : Swarm1 u (State.onset s a1 a2 a3) := by
  unfold State.onset
  extract_lets +onlyGivenNames -merge -useContext -underBinder x1
  extract_lets +onlyGivenNames -merge -useContext -underBinder x2
  have hx2 : Swarm1 u x2 := by
    unfold x2
    refine Swarm1.setLane ?_ ..
    exact h
  extract_lets +onlyGivenNames -merge -useContext -underBinder x3
  have hx3 : Swarm1 u x3 := by
    unfold x3
    refine Swarm1.setAnchorTime ?_ ..
    exact hx2
  extract_lets +onlyGivenNames -merge -useContext -underBinder x4
  extract_lets +onlyGivenNames -merge -useContext -underBinder x5
  have hx5 : Swarm1 u x5 := by
    unfold x5
    refine Swarm1.setZoneFf ?_ ..
    exact hx3
  refine Swarm1.putBF ?_ ..
  exact hx5

theorem Swarm1.execStepOnset_keeps (h : Swarm1 u s) (a0) : Swarm1o u (execStepOnset a0 s) := by
  unfold execStepOnset
  refine Swarm1o.next ?_
  split
  · exact h
  · split
    · exact h
    · refine Swarm1.ite (fun _ => ?_) (fun _ => ?_)
      · refine Swarm1.onset ?_ ..
        exact h
      · exact h

theorem Swarm1.formCrc (h : Swarm1 u s) (a1) : Swarm1 u (State.formCrc s a1) := by
  unfold State.formCrc
  refine Swarm1.wr ?_ ..
  exact h

theorem Swarm1.commitFfw (h : Swarm1 u s) (a1) : Swarm1 u (State.commitFfw s a1) := by
  unfold State.commitFfw
  extract_lets +onlyGivenNames -merge -useContext -underBinder x1
  have hx1 : Swarm1 u x1 := by
    unfold x1
    refine Swarm1.put ?_ ..
    exact h
  extract_lets +onlyGivenNames -merge -useContext -underBinder x2
  have hx2 : Swarm1 u x2 := by
    unfold x2
    refine Swarm1.setFlag ?_ ..
    exact hx1
  refine Swarm1.formCrc ?_ ..
  refine Swarm1.setZoneFf ?_ ..
  exact hx2

theorem Swarm1.execFfwCommitApply_keeps (h : Swarm1 u s) (a0) : Swarm1o u (execFfwCommitApply a0 s) := by
  unfold execFfwCommitApply
  refine Swarm1o.next ?_
  refine Swarm1.ite (fun _ => ?_) (fun _ => ?_)
  · refine Swarm1.commitFfw ?_ ..
    exact h
  · exact h

/-- What those functions may change, as a frame names it. -/
theorem Swarm1.within {t : State} (h : Swarm1 s.partSwarm1 t) : t.within s [.regs, .wgl]
  | .regs, hp => (hp (by decide)).elim
  | .time, _ => h.time_eq
  | .inp, _ => h.inp_eq
  | .wq, _ => h.wq_eq
  | .lpe, _ => h.lpe_eq
  | .hmp, _ => h.hmp_eq
  | .prf, _ => h.prf_eq
  | .site, _ => h.site_eq
  | .zfb, _ => h.zfb_eq
  | .wgl, hp => (hp (by decide)).elim
  | .lks, _ => h.lks_eq
  | .link, _ => h.link_eq
  | .chn, _ => h.chn_eq
  | .est, _ => h.est_eq
  | .arr, _ => h.arr_eq
  | .flt, _ => h.flt_eq
  | .mgp, _ => h.mgp_eq
  | .sec, _ => h.sec_eq
  | .pwr, _ => h.pwr_eq
  | .cfg, _ => h.cfg_eq
  | .pins, _ => h.pins_eq
  | .shadow, _ => h.shadow_eq
  | .free, _ => h.free_eq
  | .pending, _ => h.pending_eq

end Sys2Proof.Machine
end

