-- ==== Sys2Proof/Laws/TeleIn.lean ====
section
/-! SUPPORT. What a stage telemetry frame leaves alone. -/

namespace Sys2Proof.Machine

/-- The parts of the state that are kept. -/
structure State.TeleInPart where
  wq : List PairWrite
  lpe : LpeRt
  hmp : HmpRt
  prf : PrfRt
  site : SiteRt
  zfb : ZfbRt
  wgl : WglRt
  lks : LksRt
  chn : ChnRt
  est : EstRt
  arr : ArrRt
  flt : FltRt
  mgp : MgpRt
  sec : SecRt
  pwr : PwrRt
  cfg : CfgRt
  pins : PinRt
  shadow : List (Nat × Nat × Word)
  free : Nat
  pending : List Instr

/-- Those parts of a state. -/
def State.partTeleIn (s : State) : State.TeleInPart :=
  ⟨s.wq, s.lpe, s.hmp, s.prf, s.site, s.zfb, s.wgl, s.lks, s.chn, s.est, s.arr, s.flt, s.mgp, s.sec, s.pwr, s.cfg, s.pins, s.shadow, s.free, s.pending⟩

/-- Those parts are the ones given. -/
structure TeleIn (u : State.TeleInPart) (s : State) : Prop where
  eq : s.partTeleIn = u

variable {u : State.TeleInPart} {s : State}

theorem TeleIn.upd {regs time inp wq lpe hmp prf site zfb wgl lks link chn est arr flt mgp sec pwr cfg pins shadow free pending} (h : TeleIn u s) (h_regs : regs = s.regs) (h_wq : wq = s.wq) (h_lpe : lpe = s.lpe) (h_hmp : hmp = s.hmp) (h_prf : prf = s.prf) (h_site : site = s.site) (h_zfb : zfb = s.zfb) (h_wgl : wgl = s.wgl) (h_lks : lks = s.lks) (h_chn : chn = s.chn) (h_est : est = s.est) (h_arr : arr = s.arr) (h_flt : flt = s.flt) (h_mgp : mgp = s.mgp) (h_sec : sec = s.sec) (h_pwr : pwr = s.pwr) (h_cfg : cfg = s.cfg) (h_pins : pins = s.pins) (h_shadow : shadow = s.shadow) (h_free : free = s.free) (h_pending : pending = s.pending) :
    TeleIn u (State.mk regs time inp wq lpe hmp prf site zfb wgl lks link chn est arr flt mgp sec pwr cfg pins shadow free pending) := by
  subst h_regs h_wq h_lpe h_hmp h_prf h_site h_zfb h_wgl h_lks h_chn h_est h_arr h_flt h_mgp h_sec h_pwr h_cfg h_pins h_shadow h_free h_pending
  exact ⟨h.eq⟩

theorem TeleIn.rfl' (s : State) : TeleIn s.partTeleIn s := ⟨rfl⟩

/-- What a command answers keeps them. -/
def TeleIno (u : State.TeleInPart) (o : Host.Outcome State Fault Refusal) : Prop := ∀ t, o = Host.Outcome.next t → TeleIn u t

theorem TeleIno.next (h : TeleIn u s) : TeleIno u (Host.Outcome.next s) := fun t e => by cases e; exact h

theorem TeleIn.ite {c : Prop} {_ : Decidable c} {a b : State} (ha : c → TeleIn u a) (hb : ¬c → TeleIn u b) : TeleIn u (if c then a else b) := by
  split
  · exact ha ‹_›
  · exact hb ‹_›

theorem TeleIn.dite {c : Prop} {_ : Decidable c} {a : c → State} {b : ¬c → State} (ha : ∀ h, TeleIn u (a h)) (hb : ∀ h, TeleIn u (b h)) :
    TeleIn u (if h : c then a h else b h) := by
  split
  · exact ha _
  · exact hb _

theorem TeleIn.iteP {α : Type} {c : Prop} {_ : Decidable c} {a b : State × α} (ha : c → TeleIn u a.1) (hb : ¬c → TeleIn u b.1) : TeleIn u (if c then a else b).1 := by
  split
  · exact ha ‹_›
  · exact hb ‹_›

theorem TeleIn.diteP {α : Type} {c : Prop} {_ : Decidable c} {a : c → State × α} {b : ¬c → State × α} (ha : ∀ h, TeleIn u (a h).1) (hb : ∀ h, TeleIn u (b h).1) :
    TeleIn u (if h : c then a h else b h).1 := by
  split
  · exact ha _
  · exact hb _

theorem TeleIn.foldl {α : Type} {l : List α} {f : State → α → State} (hf : ∀ t a, TeleIn u t → TeleIn u (f t a)) (h : TeleIn u s) : TeleIn u (l.foldl f s) := by
  induction l generalizing s with
  | nil => exact h
  | cons a l ih => exact ih (hf s a h)

theorem TeleIn.each {n : Nat} {f : Nat → State → State} (hf : ∀ i t, TeleIn u t → TeleIn u (f i t)) (h : TeleIn u s) : TeleIn u (State.each n f s) :=
  TeleIn.foldl (fun t a ht => hf a t ht) h

theorem TeleIn.over {α : Type} {l : List α} {f : α → State → State} (hf : ∀ i t, TeleIn u t → TeleIn u (f i t)) (h : TeleIn u s) : TeleIn u (State.over l f s) :=
  TeleIn.foldl (fun t a ht => hf a t ht) h

theorem TeleIn.iff {c : Bool} {f : State → State} (hf : ∀ t, TeleIn u t → TeleIn u (f t)) (h : TeleIn u s) : TeleIn u (State.iff c f s) := by
  unfold State.iff
  split
  · exact hf s h
  · exact h

theorem TeleIn.wr (h : TeleIn u s) (a w) : TeleIn u (s.wr a w) := ⟨h.eq⟩

theorem TeleIn.wq_eq (h : TeleIn u s) : s.wq = u.wq := congrArg State.TeleInPart.wq h.eq
theorem TeleIn.lpe_eq (h : TeleIn u s) : s.lpe = u.lpe := congrArg State.TeleInPart.lpe h.eq
theorem TeleIn.hmp_eq (h : TeleIn u s) : s.hmp = u.hmp := congrArg State.TeleInPart.hmp h.eq
theorem TeleIn.prf_eq (h : TeleIn u s) : s.prf = u.prf := congrArg State.TeleInPart.prf h.eq
theorem TeleIn.site_eq (h : TeleIn u s) : s.site = u.site := congrArg State.TeleInPart.site h.eq
theorem TeleIn.zfb_eq (h : TeleIn u s) : s.zfb = u.zfb := congrArg State.TeleInPart.zfb h.eq
theorem TeleIn.wgl_eq (h : TeleIn u s) : s.wgl = u.wgl := congrArg State.TeleInPart.wgl h.eq
theorem TeleIn.lks_eq (h : TeleIn u s) : s.lks = u.lks := congrArg State.TeleInPart.lks h.eq
theorem TeleIn.chn_eq (h : TeleIn u s) : s.chn = u.chn := congrArg State.TeleInPart.chn h.eq
theorem TeleIn.est_eq (h : TeleIn u s) : s.est = u.est := congrArg State.TeleInPart.est h.eq
theorem TeleIn.arr_eq (h : TeleIn u s) : s.arr = u.arr := congrArg State.TeleInPart.arr h.eq
theorem TeleIn.flt_eq (h : TeleIn u s) : s.flt = u.flt := congrArg State.TeleInPart.flt h.eq
theorem TeleIn.mgp_eq (h : TeleIn u s) : s.mgp = u.mgp := congrArg State.TeleInPart.mgp h.eq
theorem TeleIn.sec_eq (h : TeleIn u s) : s.sec = u.sec := congrArg State.TeleInPart.sec h.eq
theorem TeleIn.pwr_eq (h : TeleIn u s) : s.pwr = u.pwr := congrArg State.TeleInPart.pwr h.eq
theorem TeleIn.cfg_eq (h : TeleIn u s) : s.cfg = u.cfg := congrArg State.TeleInPart.cfg h.eq
theorem TeleIn.pins_eq (h : TeleIn u s) : s.pins = u.pins := congrArg State.TeleInPart.pins h.eq
theorem TeleIn.shadow_eq (h : TeleIn u s) : s.shadow = u.shadow := congrArg State.TeleInPart.shadow h.eq
theorem TeleIn.free_eq (h : TeleIn u s) : s.free = u.free := congrArg State.TeleInPart.free h.eq
theorem TeleIn.pending_eq (h : TeleIn u s) : s.pending = u.pending := congrArg State.TeleInPart.pending h.eq

theorem TeleIn.put (h : TeleIn u s) (a1 a2) : TeleIn u (State.put s a1 a2) := by
  unfold State.put
  refine TeleIn.wr ?_ ..
  exact h

theorem TeleIn.bump (h : TeleIn u s) (a1) : TeleIn u (State.bump s a1) := by
  unfold State.bump
  refine TeleIn.put ?_ ..
  exact h

theorem TeleIn.atCycle (h : TeleIn u s) (a1) : TeleIn u (State.atCycle s a1) := by
  unfold State.atCycle
  refine TeleIn.upd ?_ rfl rfl rfl rfl rfl rfl rfl rfl rfl rfl rfl rfl rfl rfl rfl rfl rfl rfl rfl rfl rfl
  exact h

theorem TeleIn.setStl (h : TeleIn u s) (a1 a2) : TeleIn u (State.setStl s a1 a2) := by
  unfold State.setStl
  refine TeleIn.upd ?_ rfl rfl rfl rfl rfl rfl rfl rfl rfl rfl rfl rfl rfl rfl rfl rfl rfl rfl rfl rfl rfl
  exact h

theorem TeleIn.enterTele (h : TeleIn u s) (a1 a2) : TeleIn u (State.enterTele s a1 a2) := by
  unfold State.enterTele
  extract_lets +onlyGivenNames -merge -useContext -underBinder x1
  extract_lets +onlyGivenNames -merge -useContext -underBinder x2
  have hx2 : TeleIn u x2 := by
    unfold x2
    refine TeleIn.setStl ?_ ..
    exact h
  refine TeleIn.upd (s := x2) ?_ rfl rfl rfl rfl rfl rfl rfl rfl rfl rfl rfl rfl rfl rfl rfl rfl rfl rfl rfl rfl rfl
  exact hx2

theorem TeleIn.execStageTelemetry_keeps (h : TeleIn u s) (a0 a1 a2 a3) : TeleIno u (execStageTelemetry a0 a1 a2 a3 s) := by
  unfold execStageTelemetry
  refine TeleIno.next ?_
  extract_lets +onlyGivenNames -merge -useContext -underBinder x1
  have hx1 : TeleIn u x1 := by
    unfold x1
    refine TeleIn.atCycle ?_ ..
    exact h
  refine TeleIn.ite (fun _ => ?_) (fun _ => ?_)
  · exact hx1
  · refine TeleIn.ite (fun _ => ?_) (fun _ => ?_)
    · refine TeleIn.bump ?_ ..
      exact hx1
    · refine TeleIn.enterTele ?_ ..
      exact hx1

/-- What those functions may change, as a frame names it. -/
theorem TeleIn.within {t : State} (h : TeleIn s.partTeleIn t) : t.within s [.regs, .time, .inp, .link]
  | .regs, hp => (hp (by decide)).elim
  | .time, hp => (hp (by decide)).elim
  | .inp, hp => (hp (by decide)).elim
  | .wq, _ => h.wq_eq
  | .lpe, _ => h.lpe_eq
  | .hmp, _ => h.hmp_eq
  | .prf, _ => h.prf_eq
  | .site, _ => h.site_eq
  | .zfb, _ => h.zfb_eq
  | .wgl, _ => h.wgl_eq
  | .lks, _ => h.lks_eq
  | .link, hp => (hp (by decide)).elim
  | .chn, _ => h.chn_eq
  | .est, _ => h.est_eq
  | .arr, _ => h.arr_eq
  | .flt, _ => h.flt_eq
  | .mgp, _ => h.mgp_eq
  | .sec, _ => h.sec_eq
  | .pwr, _ => h.pwr_eq
  | .cfg, _ => h.cfg_eq
  | .pins, _ => h.pins_eq
  | .shadow, _ => h.shadow_eq
  | .free, _ => h.free_eq
  | .pending, _ => h.pending_eq

end Sys2Proof.Machine
end

