-- ==== Sys2Proof/Laws/Thr.lean ====
section
/-! SUPPORT. What the THROTTLE_N sources and the droop response leave alone. -/

namespace Sys2Proof.Machine

/-- The parts of the state that are kept. -/
structure State.ThrPart where
  time : TimeRt
  inp : InputRt
  wq : List PairWrite
  lpe : LpeRt
  hmp : HmpRt
  site : SiteRt
  zfb : ZfbRt
  lks : LksRt
  link : LinkRt
  chn : ChnRt
  est : EstRt
  arr : ArrRt
  flt : FltRt
  mgp : MgpRt
  sec : SecRt
  pwr : PwrRt
  cfg : CfgRt
  shadow : List (Nat × Nat × Word)
  free : Nat
  pending : List Instr

/-- Those parts of a state. -/
def State.partThr (s : State) : State.ThrPart :=
  ⟨s.time, s.inp, s.wq, s.lpe, s.hmp, s.site, s.zfb, s.lks, s.link, s.chn, s.est, s.arr, s.flt, s.mgp, s.sec, s.pwr, s.cfg, s.shadow, s.free, s.pending⟩

/-- Those parts are the ones given. -/
structure Thr (u : State.ThrPart) (s : State) : Prop where
  eq : s.partThr = u

variable {u : State.ThrPart} {s : State}

theorem Thr.upd {regs time inp wq lpe hmp prf site zfb wgl lks link chn est arr flt mgp sec pwr cfg pins shadow free pending} (h : Thr u s) (h_regs : regs = s.regs) (h_time : time = s.time) (h_inp : inp = s.inp) (h_wq : wq = s.wq) (h_lpe : lpe = s.lpe) (h_hmp : hmp = s.hmp) (h_site : site = s.site) (h_zfb : zfb = s.zfb) (h_lks : lks = s.lks) (h_link : link = s.link) (h_chn : chn = s.chn) (h_est : est = s.est) (h_arr : arr = s.arr) (h_flt : flt = s.flt) (h_mgp : mgp = s.mgp) (h_sec : sec = s.sec) (h_pwr : pwr = s.pwr) (h_cfg : cfg = s.cfg) (h_shadow : shadow = s.shadow) (h_free : free = s.free) (h_pending : pending = s.pending) :
    Thr u (State.mk regs time inp wq lpe hmp prf site zfb wgl lks link chn est arr flt mgp sec pwr cfg pins shadow free pending) := by
  subst h_regs h_time h_inp h_wq h_lpe h_hmp h_site h_zfb h_lks h_link h_chn h_est h_arr h_flt h_mgp h_sec h_pwr h_cfg h_shadow h_free h_pending
  exact ⟨h.eq⟩

theorem Thr.rfl' (s : State) : Thr s.partThr s := ⟨rfl⟩

/-- What a command answers keeps them. -/
def Thro (u : State.ThrPart) (o : Host.Outcome State Fault Refusal) : Prop := ∀ t, o = Host.Outcome.next t → Thr u t

theorem Thro.next (h : Thr u s) : Thro u (Host.Outcome.next s) := fun t e => by cases e; exact h

theorem Thr.ite {c : Prop} {_ : Decidable c} {a b : State} (ha : c → Thr u a) (hb : ¬c → Thr u b) : Thr u (if c then a else b) := by
  split
  · exact ha ‹_›
  · exact hb ‹_›

theorem Thr.dite {c : Prop} {_ : Decidable c} {a : c → State} {b : ¬c → State} (ha : ∀ h, Thr u (a h)) (hb : ∀ h, Thr u (b h)) :
    Thr u (if h : c then a h else b h) := by
  split
  · exact ha _
  · exact hb _

theorem Thr.iteP {α : Type} {c : Prop} {_ : Decidable c} {a b : State × α} (ha : c → Thr u a.1) (hb : ¬c → Thr u b.1) : Thr u (if c then a else b).1 := by
  split
  · exact ha ‹_›
  · exact hb ‹_›

theorem Thr.diteP {α : Type} {c : Prop} {_ : Decidable c} {a : c → State × α} {b : ¬c → State × α} (ha : ∀ h, Thr u (a h).1) (hb : ∀ h, Thr u (b h).1) :
    Thr u (if h : c then a h else b h).1 := by
  split
  · exact ha _
  · exact hb _

theorem Thr.foldl {α : Type} {l : List α} {f : State → α → State} (hf : ∀ t a, Thr u t → Thr u (f t a)) (h : Thr u s) : Thr u (l.foldl f s) := by
  induction l generalizing s with
  | nil => exact h
  | cons a l ih => exact ih (hf s a h)

theorem Thr.each {n : Nat} {f : Nat → State → State} (hf : ∀ i t, Thr u t → Thr u (f i t)) (h : Thr u s) : Thr u (State.each n f s) :=
  Thr.foldl (fun t a ht => hf a t ht) h

theorem Thr.over {α : Type} {l : List α} {f : α → State → State} (hf : ∀ i t, Thr u t → Thr u (f i t)) (h : Thr u s) : Thr u (State.over l f s) :=
  Thr.foldl (fun t a ht => hf a t ht) h

theorem Thr.iff {c : Bool} {f : State → State} (hf : ∀ t, Thr u t → Thr u (f t)) (h : Thr u s) : Thr u (State.iff c f s) := by
  unfold State.iff
  split
  · exact hf s h
  · exact h

theorem Thr.wr (h : Thr u s) (a w) : Thr u (s.wr a w) := ⟨h.eq⟩

theorem Thr.time_eq (h : Thr u s) : s.time = u.time := congrArg State.ThrPart.time h.eq
theorem Thr.inp_eq (h : Thr u s) : s.inp = u.inp := congrArg State.ThrPart.inp h.eq
theorem Thr.wq_eq (h : Thr u s) : s.wq = u.wq := congrArg State.ThrPart.wq h.eq
theorem Thr.lpe_eq (h : Thr u s) : s.lpe = u.lpe := congrArg State.ThrPart.lpe h.eq
theorem Thr.hmp_eq (h : Thr u s) : s.hmp = u.hmp := congrArg State.ThrPart.hmp h.eq
theorem Thr.site_eq (h : Thr u s) : s.site = u.site := congrArg State.ThrPart.site h.eq
theorem Thr.zfb_eq (h : Thr u s) : s.zfb = u.zfb := congrArg State.ThrPart.zfb h.eq
theorem Thr.lks_eq (h : Thr u s) : s.lks = u.lks := congrArg State.ThrPart.lks h.eq
theorem Thr.link_eq (h : Thr u s) : s.link = u.link := congrArg State.ThrPart.link h.eq
theorem Thr.chn_eq (h : Thr u s) : s.chn = u.chn := congrArg State.ThrPart.chn h.eq
theorem Thr.est_eq (h : Thr u s) : s.est = u.est := congrArg State.ThrPart.est h.eq
theorem Thr.arr_eq (h : Thr u s) : s.arr = u.arr := congrArg State.ThrPart.arr h.eq
theorem Thr.flt_eq (h : Thr u s) : s.flt = u.flt := congrArg State.ThrPart.flt h.eq
theorem Thr.mgp_eq (h : Thr u s) : s.mgp = u.mgp := congrArg State.ThrPart.mgp h.eq
theorem Thr.sec_eq (h : Thr u s) : s.sec = u.sec := congrArg State.ThrPart.sec h.eq
theorem Thr.pwr_eq (h : Thr u s) : s.pwr = u.pwr := congrArg State.ThrPart.pwr h.eq
theorem Thr.cfg_eq (h : Thr u s) : s.cfg = u.cfg := congrArg State.ThrPart.cfg h.eq
theorem Thr.shadow_eq (h : Thr u s) : s.shadow = u.shadow := congrArg State.ThrPart.shadow h.eq
theorem Thr.free_eq (h : Thr u s) : s.free = u.free := congrArg State.ThrPart.free h.eq
theorem Thr.pending_eq (h : Thr u s) : s.pending = u.pending := congrArg State.ThrPart.pending h.eq

theorem Thr.put (h : Thr u s) (a1 a2) : Thr u (State.put s a1 a2) := by
  unfold State.put
  refine Thr.wr ?_ ..
  exact h

theorem Thr.setFlag (h : Thr u s) (a1 a2) : Thr u (State.setFlag s a1 a2) := by
  unfold State.setFlag
  refine Thr.put ?_ ..
  exact h

theorem Thr.setGroupCeil (h : Thr u s) (a1 a2) : Thr u (State.setGroupCeil s a1 a2) := by
  unfold State.setGroupCeil
  refine Thr.dite (fun _ => ?_) (fun _ => ?_)
  · refine Thr.upd ?_ rfl rfl rfl rfl rfl rfl rfl rfl rfl rfl rfl rfl rfl rfl rfl rfl rfl rfl rfl rfl rfl
    exact h
  · exact h

theorem Thr.setZoneCeil (h : Thr u s) (a1 a2) : Thr u (State.setZoneCeil s a1 a2) := by
  unfold State.setZoneCeil
  refine Thr.dite (fun _ => ?_) (fun _ => ?_)
  · refine Thr.upd ?_ rfl rfl rfl rfl rfl rfl rfl rfl rfl rfl rfl rfl rfl rfl rfl rfl rfl rfl rfl rfl rfl
    exact h
  · exact h

theorem Thr.setLine (h : Thr u s) (a1 a2) : Thr u (State.setLine s a1 a2) := by
  unfold State.setLine
  refine Thr.upd ?_ rfl rfl rfl rfl rfl rfl rfl rfl rfl rfl rfl rfl rfl rfl rfl rfl rfl rfl rfl rfl rfl
  exact h

theorem Thr.driveZone (h : Thr u s) (a1) : Thr u (State.driveZone s a1) := by
  unfold State.driveZone
  refine Thr.setLine ?_ ..
  refine Thr.setFlag ?_ ..
  refine Thr.setFlag ?_ ..
  refine Thr.setFlag ?_ ..
  refine Thr.setFlag ?_ ..
  exact h

theorem Thr.driveThrottle (h : Thr u s) : Thr u (State.driveThrottle s) := by
  unfold State.driveThrottle
  refine Thr.foldl (fun _ _ ht1 => ?_) ?_
  · refine Thr.driveZone ?_ ..
    exact ht1
  · exact h

theorem Thr.startSources (h : Thr u s) : Thr u (State.startSources s) := by
  unfold State.startSources
  refine Thr.upd ?_ rfl rfl rfl rfl rfl rfl rfl rfl rfl rfl rfl rfl rfl rfl rfl rfl rfl rfl rfl rfl rfl
  exact h

theorem Thr.throttleStart (h : Thr u s) : Thr u (State.throttleStart s) := by
  unfold State.throttleStart
  refine Thr.driveThrottle ?_ ..
  refine Thr.startSources ?_ ..
  exact h

theorem Thr.setExt (h : Thr u s) (a1) : Thr u (State.setExt s a1) := by
  unfold State.setExt
  refine Thr.upd ?_ rfl rfl rfl rfl rfl rfl rfl rfl rfl rfl rfl rfl rfl rfl rfl rfl rfl rfl rfl rfl rfl
  exact h

theorem Thr.execExtAlert_keeps (h : Thr u s) : Thro u (execExtAlert s) := by
  unfold execExtAlert
  refine Thro.next ?_
  refine Thr.ite (fun _ => ?_) (fun _ => ?_)
  · refine Thr.driveThrottle ?_ ..
    refine Thr.setExt ?_ ..
    exact h
  · refine Thr.ite (fun _ => ?_) (fun _ => ?_)
    · refine Thr.driveThrottle ?_ ..
      refine Thr.setExt ?_ ..
      exact h
    · exact h

theorem Thr.endSources (h : Thr u s) (a1) : Thr u (State.endSources s a1) := by
  unfold State.endSources
  refine Thr.upd ?_ rfl rfl rfl rfl rfl rfl rfl rfl rfl rfl rfl rfl rfl rfl rfl rfl rfl rfl rfl rfl rfl
  exact h

theorem Thr.execThrottleRelease_keeps (h : Thr u s) (a0) : Thro u (execThrottleRelease a0 s) := by
  unfold execThrottleRelease
  refine Thro.next ?_
  refine Thr.driveThrottle ?_ ..
  refine Thr.endSources ?_ ..
  exact h

theorem Thr.showGroup (h : Thr u s) (a1) : Thr u (State.showGroup s a1) := by
  unfold State.showGroup
  extract_lets +onlyGivenNames -merge -useContext -underBinder x1
  refine Thr.setFlag ?_ ..
  refine Thr.setFlag ?_ ..
  refine Thr.put ?_ ..
  refine Thr.put ?_ ..
  exact h

theorem Thr.holdGroup (h : Thr u s) (a0 a1) : Thr u (State.holdGroup a0 a1 s) := by
  unfold State.holdGroup
  refine Thr.showGroup ?_ ..
  refine Thr.setGroupCeil ?_ ..
  exact h

theorem Thr.holdZone (h : Thr u s) (a0 a1) : Thr u (State.holdZone a0 a1 s) := by
  unfold State.holdZone
  refine Thr.setZoneCeil ?_ ..
  exact h

theorem Thr.holdCeilings (h : Thr u s) : Thr u (State.holdCeilings s) := by
  unfold State.holdCeilings
  refine Thr.each (fun _ _ ht1 => ?_) ?_
  · refine Thr.holdZone ?_ ..
    exact ht1
  · refine Thr.each (fun _ _ ht2 => ?_) ?_
    · refine Thr.holdGroup ?_ ..
      exact ht2
    · exact h

theorem Thr.lowerGroup (h : Thr u s) (a0 a1) : Thr u (State.lowerGroup a0 a1 s) := by
  unfold State.lowerGroup
  refine Thr.setGroupCeil ?_ ..
  exact h

theorem Thr.lowerZone (h : Thr u s) (a0 a1) : Thr u (State.lowerZone a0 a1 s) := by
  unfold State.lowerZone
  refine Thr.setZoneCeil ?_ ..
  exact h

theorem Thr.keepConds (h : Thr u s) : Thr u (State.keepConds s) := by
  unfold State.keepConds
  refine Thr.upd ?_ rfl rfl rfl rfl rfl rfl rfl rfl rfl rfl rfl rfl rfl rfl rfl rfl rfl rfl rfl rfl rfl
  exact h

theorem Thr.callUrgent (h : Thr u s) (a1) : Thr u (State.callUrgent s a1) := by
  unfold State.callUrgent
  refine Thr.upd ?_ rfl rfl rfl rfl rfl rfl rfl rfl rfl rfl rfl rfl rfl rfl rfl rfl rfl rfl rfl rfl rfl
  exact h

theorem Thr.droopLower (h : Thr u s) (a1) : Thr u (State.droopLower s a1) := by
  unfold State.droopLower
  refine Thr.holdCeilings ?_ ..
  refine Thr.callUrgent ?_ ..
  refine Thr.each (fun _ _ ht1 => ?_) ?_
  · refine Thr.lowerZone ?_ ..
    exact ht1
  · refine Thr.each (fun _ _ ht2 => ?_) ?_
    · refine Thr.lowerGroup ?_ ..
      exact ht2
    · refine Thr.keepConds ?_ ..
      exact h

theorem Thr.execDroopResponse_keeps (h : Thr u s) : Thro u (execDroopResponse s) := by
  unfold execDroopResponse
  refine Thro.next ?_
  refine Thr.droopLower ?_ ..
  refine Thr.throttleStart ?_ ..
  exact h

/-- What those functions may change, as a frame names it. -/
theorem Thr.within {t : State} (h : Thr s.partThr t) : t.within s [.regs, .prf, .wgl, .pins]
  | .regs, hp => (hp (by decide)).elim
  | .time, _ => h.time_eq
  | .inp, _ => h.inp_eq
  | .wq, _ => h.wq_eq
  | .lpe, _ => h.lpe_eq
  | .hmp, _ => h.hmp_eq
  | .prf, hp => (hp (by decide)).elim
  | .site, _ => h.site_eq
  | .zfb, _ => h.zfb_eq
  | .wgl, hp => (hp (by decide)).elim
  | .lks, _ => h.lks_eq
  | .link, _ => h.link_eq
  | .chn, _ => h.chn_eq
  | .est, _ => h.est_eq
  | .arr, _ => h.arr_eq
  | .flt, _ => h.flt_eq
  | .mgp, _ => h.mgp_eq
  | .sec, _ => h.sec_eq
  | .pwr, _ => h.pwr_eq
  | .cfg, _ => h.cfg_eq
  | .pins, hp => (hp (by decide)).elim
  | .shadow, _ => h.shadow_eq
  | .free, _ => h.free_eq
  | .pending, _ => h.pending_eq

end Sys2Proof.Machine
end

