-- ==== Sys2Proof/Laws/TimeL.lean ====
section
/-! SUPPORT. What a record and the images leave alone. -/

namespace Sys2Proof.Machine

/-- The parts of the state that are kept. -/
structure State.TimeLPart where
  time : TimeRt
  inp : InputRt
  wq : List PairWrite
  site : SiteRt
  lks : LksRt
  link : LinkRt
  arr : ArrRt
  mgp : MgpRt
  sec : SecRt
  pwr : PwrRt
  cfg : CfgRt
  shadow : List (Nat × Nat × Word)
  free : Nat
  pending : List Instr

/-- Those parts of a state. -/
def State.partTimeL (s : State) : State.TimeLPart :=
  ⟨s.time, s.inp, s.wq, s.site, s.lks, s.link, s.arr, s.mgp, s.sec, s.pwr, s.cfg, s.shadow, s.free, s.pending⟩

/-- Those parts are the ones given. -/
structure TimeL (u : State.TimeLPart) (s : State) : Prop where
  eq : s.partTimeL = u

variable {u : State.TimeLPart} {s : State}

theorem TimeL.upd {regs time inp wq lpe hmp prf site zfb wgl lks link chn est arr flt mgp sec pwr cfg pins shadow free pending} (h : TimeL u s) (h_regs : regs = s.regs) (h_time : time = s.time) (h_inp : inp = s.inp) (h_wq : wq = s.wq) (h_site : site = s.site) (h_lks : lks = s.lks) (h_link : link = s.link) (h_arr : arr = s.arr) (h_mgp : mgp = s.mgp) (h_sec : sec = s.sec) (h_pwr : pwr = s.pwr) (h_cfg : cfg = s.cfg) (h_shadow : shadow = s.shadow) (h_free : free = s.free) (h_pending : pending = s.pending) :
    TimeL u (State.mk regs time inp wq lpe hmp prf site zfb wgl lks link chn est arr flt mgp sec pwr cfg pins shadow free pending) := by
  subst h_regs h_time h_inp h_wq h_site h_lks h_link h_arr h_mgp h_sec h_pwr h_cfg h_shadow h_free h_pending
  exact ⟨h.eq⟩

theorem TimeL.rfl' (s : State) : TimeL s.partTimeL s := ⟨rfl⟩

theorem TimeL.ite {c : Prop} {_ : Decidable c} {a b : State} (ha : c → TimeL u a) (hb : ¬c → TimeL u b) : TimeL u (if c then a else b) := by
  split
  · exact ha ‹_›
  · exact hb ‹_›

theorem TimeL.dite {c : Prop} {_ : Decidable c} {a : c → State} {b : ¬c → State} (ha : ∀ h, TimeL u (a h)) (hb : ∀ h, TimeL u (b h)) :
    TimeL u (if h : c then a h else b h) := by
  split
  · exact ha _
  · exact hb _

theorem TimeL.iteP {α : Type} {c : Prop} {_ : Decidable c} {a b : State × α} (ha : c → TimeL u a.1) (hb : ¬c → TimeL u b.1) : TimeL u (if c then a else b).1 := by
  split
  · exact ha ‹_›
  · exact hb ‹_›

theorem TimeL.diteP {α : Type} {c : Prop} {_ : Decidable c} {a : c → State × α} {b : ¬c → State × α} (ha : ∀ h, TimeL u (a h).1) (hb : ∀ h, TimeL u (b h).1) :
    TimeL u (if h : c then a h else b h).1 := by
  split
  · exact ha _
  · exact hb _

theorem TimeL.foldl {α : Type} {l : List α} {f : State → α → State} (hf : ∀ t a, TimeL u t → TimeL u (f t a)) (h : TimeL u s) : TimeL u (l.foldl f s) := by
  induction l generalizing s with
  | nil => exact h
  | cons a l ih => exact ih (hf s a h)

theorem TimeL.each {n : Nat} {f : Nat → State → State} (hf : ∀ i t, TimeL u t → TimeL u (f i t)) (h : TimeL u s) : TimeL u (State.each n f s) :=
  TimeL.foldl (fun t a ht => hf a t ht) h

theorem TimeL.over {α : Type} {l : List α} {f : α → State → State} (hf : ∀ i t, TimeL u t → TimeL u (f i t)) (h : TimeL u s) : TimeL u (State.over l f s) :=
  TimeL.foldl (fun t a ht => hf a t ht) h

theorem TimeL.iff {c : Bool} {f : State → State} (hf : ∀ t, TimeL u t → TimeL u (f t)) (h : TimeL u s) : TimeL u (State.iff c f s) := by
  unfold State.iff
  split
  · exact hf s h
  · exact h

theorem TimeL.wr (h : TimeL u s) (a w) : TimeL u (s.wr a w) := ⟨h.eq⟩

theorem TimeL.time_eq (h : TimeL u s) : s.time = u.time := congrArg State.TimeLPart.time h.eq
theorem TimeL.inp_eq (h : TimeL u s) : s.inp = u.inp := congrArg State.TimeLPart.inp h.eq
theorem TimeL.wq_eq (h : TimeL u s) : s.wq = u.wq := congrArg State.TimeLPart.wq h.eq
theorem TimeL.site_eq (h : TimeL u s) : s.site = u.site := congrArg State.TimeLPart.site h.eq
theorem TimeL.lks_eq (h : TimeL u s) : s.lks = u.lks := congrArg State.TimeLPart.lks h.eq
theorem TimeL.link_eq (h : TimeL u s) : s.link = u.link := congrArg State.TimeLPart.link h.eq
theorem TimeL.arr_eq (h : TimeL u s) : s.arr = u.arr := congrArg State.TimeLPart.arr h.eq
theorem TimeL.mgp_eq (h : TimeL u s) : s.mgp = u.mgp := congrArg State.TimeLPart.mgp h.eq
theorem TimeL.sec_eq (h : TimeL u s) : s.sec = u.sec := congrArg State.TimeLPart.sec h.eq
theorem TimeL.pwr_eq (h : TimeL u s) : s.pwr = u.pwr := congrArg State.TimeLPart.pwr h.eq
theorem TimeL.cfg_eq (h : TimeL u s) : s.cfg = u.cfg := congrArg State.TimeLPart.cfg h.eq
theorem TimeL.shadow_eq (h : TimeL u s) : s.shadow = u.shadow := congrArg State.TimeLPart.shadow h.eq
theorem TimeL.free_eq (h : TimeL u s) : s.free = u.free := congrArg State.TimeLPart.free h.eq
theorem TimeL.pending_eq (h : TimeL u s) : s.pending = u.pending := congrArg State.TimeLPart.pending h.eq

theorem TimeL.put (h : TimeL u s) (a1 a2) : TimeL u (State.put s a1 a2) := by
  unfold State.put
  refine TimeL.wr ?_ ..
  exact h

theorem TimeL.setFlag (h : TimeL u s) (a1 a2) : TimeL u (State.setFlag s a1 a2) := by
  unfold State.setFlag
  refine TimeL.put ?_ ..
  exact h

theorem TimeL.bump (h : TimeL u s) (a1) : TimeL u (State.bump s a1) := by
  unfold State.bump
  refine TimeL.put ?_ ..
  exact h

theorem TimeL.put64 (h : TimeL u s) (a1 a2 a3) : TimeL u (State.put64 s a1 a2 a3) := by
  unfold State.put64
  refine TimeL.wr ?_ ..
  refine TimeL.wr ?_ ..
  exact h

theorem TimeL.setOs (h : TimeL u s) (a1 a2) : TimeL u (State.setOs s a1 a2) := by
  unfold State.setOs
  refine TimeL.upd ?_ rfl rfl rfl rfl rfl rfl rfl rfl rfl rfl rfl rfl rfl rfl rfl
  exact h

theorem TimeL.putOs (h : TimeL u s) (a1 a2 a3) : TimeL u (State.putOs s a1 a2 a3) := by
  unfold State.putOs
  refine TimeL.put ?_ ..
  refine TimeL.put ?_ ..
  exact h

theorem TimeL.setLane (h : TimeL u s) (a1 a2) : TimeL u (State.setLane s a1 a2) := by
  unfold State.setLane
  refine TimeL.dite (fun _ => ?_) (fun _ => ?_)
  · refine TimeL.upd ?_ rfl rfl rfl rfl rfl rfl rfl rfl rfl rfl rfl rfl rfl rfl rfl
    exact h
  · exact h

theorem TimeL.capture (h : TimeL u s) (a1 a2 a3 a4) : TimeL u (State.capture s a1 a2 a3 a4) := by
  unfold State.capture
  extract_lets +onlyGivenNames -merge -useContext -underBinder x1
  refine TimeL.ite (fun _ => ?_) (fun _ => ?_)
  · extract_lets +onlyGivenNames -merge -useContext -underBinder x2
    extract_lets +onlyGivenNames -merge -useContext -underBinder x3
    have hx3 : TimeL u x3 := by
      unfold x3
      refine TimeL.wr ?_ ..
      exact h
    extract_lets +onlyGivenNames -merge -useContext -underBinder x4
    have hx4 : TimeL u x4 := by
      unfold x4
      refine TimeL.put64 ?_ ..
      exact hx3
    refine TimeL.put ?_ ..
    exact hx4
  · refine TimeL.ite (fun _ => ?_) (fun _ => ?_)
    · exact h
    · extract_lets +onlyGivenNames -merge -useContext -underBinder x5
      have hx5 : TimeL u x5 := by
        unfold x5
        refine TimeL.wr ?_ ..
        exact h
      extract_lets +onlyGivenNames -merge -useContext -underBinder x6
      have hx6 : TimeL u x6 := by
        unfold x6
        refine TimeL.wr ?_ ..
        exact hx5
      refine TimeL.put64 ?_ ..
      exact hx6

theorem TimeL.restoreShed (h : TimeL u s) (a1) : TimeL u (State.restoreShed s a1) := by
  unfold State.restoreShed
  refine TimeL.each (fun _ _ ht1 => ?_) ?_
  · refine TimeL.ite (fun _ => ?_) (fun _ => ?_)
    · refine TimeL.putOs ?_ ..
      exact ht1
    · exact ht1
  · exact h

theorem TimeL.leaveBatch (h : TimeL u s) (a1) : TimeL u (State.leaveBatch s a1) := by
  unfold State.leaveBatch
  refine TimeL.ite (fun _ => ?_) (fun _ => ?_)
  · refine TimeL.put ?_ ..
    refine TimeL.setFlag ?_ ..
    exact h
  · exact h

theorem TimeL.fenceOs (h : TimeL u s) (a1 a2) : TimeL u (State.fenceOs s a1 a2) := by
  unfold State.fenceOs
  extract_lets +onlyGivenNames -merge -useContext -underBinder x1
  have hx1 : TimeL u x1 := by
    unfold x1
    refine TimeL.setOs ?_ ..
    refine TimeL.leaveBatch ?_ ..
    refine TimeL.put ?_ ..
    refine TimeL.put ?_ ..
    exact h
  refine TimeL.ite (fun _ => ?_) (fun _ => ?_)
  · refine TimeL.restoreShed ?_ ..
    exact hx1
  · exact hx1

theorem TimeL.fenceSs (h : TimeL u s) (a1) : TimeL u (State.fenceSs s a1) := by
  unfold State.fenceSs
  refine TimeL.upd ?_ rfl rfl rfl rfl rfl rfl rfl rfl rfl rfl rfl rfl rfl rfl rfl
  exact h

theorem TimeL.fenceFe (h : TimeL u s) (a1) : TimeL u (State.fenceFe s a1) := by
  unfold State.fenceFe
  refine TimeL.upd ?_ rfl rfl rfl rfl rfl rfl rfl rfl rfl rfl rfl rfl rfl rfl rfl
  exact h

theorem TimeL.fenceStr (h : TimeL u s) (a1) : TimeL u (State.fenceStr s a1) := by
  unfold State.fenceStr
  extract_lets +onlyGivenNames -merge -useContext -underBinder x1
  extract_lets +onlyGivenNames -merge -useContext -underBinder x2
  have hx2 : TimeL u x2 := by
    unfold x2
    refine TimeL.upd ?_ rfl rfl rfl rfl rfl rfl rfl rfl rfl rfl rfl rfl rfl rfl rfl
    exact h
  refine TimeL.fenceSs ?_ ..
  refine TimeL.fenceSs ?_ ..
  exact hx2

theorem TimeL.zoneFenceStage (h : TimeL u s) (a1 a2) : TimeL u (State.zoneFenceStage s a1 a2) := by
  unfold State.zoneFenceStage
  extract_lets +onlyGivenNames -merge -useContext -underBinder x1
  refine TimeL.ite (fun _ => ?_) (fun _ => ?_)
  · refine TimeL.setOs ?_ ..
    refine TimeL.putOs ?_ ..
    exact h
  · refine TimeL.ite (fun _ => ?_) (fun _ => ?_)
    · refine TimeL.setOs ?_ ..
      refine TimeL.putOs ?_ ..
      exact h
    · refine TimeL.ite (fun _ => ?_) (fun _ => ?_)
      · refine TimeL.setOs ?_ ..
        refine TimeL.putOs ?_ ..
        exact h
      · exact h

theorem TimeL.fenceZone (h : TimeL u s) (a1) : TimeL u (State.fenceZone s a1) := by
  unfold State.fenceZone
  extract_lets +onlyGivenNames -merge -useContext -underBinder x1
  extract_lets +onlyGivenNames -merge -useContext -underBinder x2
  have hx2 : TimeL u x2 := by
    unfold x2
    refine TimeL.upd ?_ rfl rfl rfl rfl rfl rfl rfl rfl rfl rfl rfl rfl rfl rfl rfl
    exact h
  extract_lets +onlyGivenNames -merge -useContext -underBinder x3
  have hx3 : TimeL u x3 := by
    unfold x3
    refine TimeL.foldl (fun _ _ ht4 => ?_) ?_
    · refine TimeL.zoneFenceStage ?_ ..
      exact ht4
    · exact hx2
  extract_lets +onlyGivenNames -merge -useContext -underBinder x5
  have hx5 : TimeL u x5 := by
    unfold x5
    refine TimeL.setFlag ?_ ..
    exact hx3
  extract_lets +onlyGivenNames -merge -useContext -underBinder x6
  refine TimeL.upd (s := x5) ?_ rfl rfl rfl rfl rfl rfl rfl rfl rfl rfl rfl rfl rfl rfl rfl
  exact hx5

theorem TimeL.fenceGroup (h : TimeL u s) (a1) : TimeL u (State.fenceGroup s a1) := by
  unfold State.fenceGroup
  refine TimeL.foldl (fun _ _ ht1 => ?_) ?_
  · refine TimeL.ite (fun _ => ?_) (fun _ => ?_)
    · refine TimeL.fenceFe ?_ ..
      exact ht1
    · exact ht1
  · exact h

theorem TimeL.fenceLane (h : TimeL u s) (a1) : TimeL u (State.fenceLane s a1) := by
  unfold State.fenceLane
  extract_lets +onlyGivenNames -merge -useContext -underBinder x1
  have hx1 : TimeL u x1 := by
    unfold x1
    refine TimeL.setFlag ?_ ..
    exact h
  extract_lets +onlyGivenNames -merge -useContext -underBinder x2
  have hx2 : TimeL u x2 := by
    unfold x2
    refine TimeL.setFlag ?_ ..
    exact hx1
  refine TimeL.setLane ?_ ..
  exact hx2

theorem TimeL.fenceCore (h : TimeL u s) (a1 a2) : TimeL u (State.fenceCore s a1 a2) := by
  unfold State.fenceCore
  refine TimeL.put ?_ ..
  refine TimeL.put ?_ ..
  exact h

theorem TimeL.fenceUnit (h : TimeL u s) (a1) : TimeL u (State.fenceUnit s a1) := by
  unfold State.fenceUnit
  extract_lets +onlyGivenNames -merge -useContext -underBinder x1
  split
  · refine TimeL.dite (fun _ => ?_) (fun _ => ?_)
    · refine TimeL.fenceOs ?_ ..
      exact h
    · exact h
  · refine TimeL.dite (fun _ => ?_) (fun _ => ?_)
    · refine TimeL.fenceSs ?_ ..
      exact h
    · exact h
  · refine TimeL.dite (fun _ => ?_) (fun _ => ?_)
    · refine TimeL.fenceFe ?_ ..
      exact h
    · exact h
  · refine TimeL.fenceGroup ?_ ..
    exact h
  · refine TimeL.dite (fun _ => ?_) (fun _ => ?_)
    · refine TimeL.fenceZone ?_ ..
      exact h
    · exact h
  · refine TimeL.dite (fun _ => ?_) (fun _ => ?_)
    · refine TimeL.fenceStr ?_ ..
      exact h
    · exact h
  · refine TimeL.put ?_ ..
    refine TimeL.put ?_ ..
    exact h
  · refine TimeL.dite (fun _ => ?_) (fun _ => ?_)
    · refine TimeL.fenceLane ?_ ..
      exact h
    · exact h
  · refine TimeL.fenceCore ?_ ..
    exact h
  · refine TimeL.put ?_ ..
    exact h
  · refine TimeL.dite (fun _ => ?_) (fun _ => ?_)
    · refine TimeL.upd ?_ rfl rfl rfl rfl rfl rfl rfl rfl rfl rfl rfl rfl rfl rfl rfl
      exact h
    · exact h
  · exact h

theorem TimeL.enterSafe (h : TimeL u s) : TimeL u (State.enterSafe s) := by
  unfold State.enterSafe
  extract_lets +onlyGivenNames -merge -useContext -underBinder x1
  extract_lets +onlyGivenNames -merge -useContext -underBinder x2
  extract_lets +onlyGivenNames -merge -useContext -underBinder x3
  have hx3 : TimeL u x3 := by
    unfold x3
    refine TimeL.upd ?_ rfl rfl rfl rfl rfl rfl rfl rfl rfl rfl rfl rfl rfl rfl rfl
    exact h
  extract_lets +onlyGivenNames -merge -useContext -underBinder x4
  have hx4 : TimeL u x4 := by
    unfold x4
    refine TimeL.each (fun _ _ ht5 => ?_) ?_
    · refine TimeL.put ?_ ..
      exact ht5
    · exact hx3
  extract_lets +onlyGivenNames -merge -useContext -underBinder x6
  have hx6 : TimeL u x6 := by
    unfold x6
    refine TimeL.each (fun _ _ ht7 => ?_) ?_
    · refine TimeL.put ?_ ..
      exact ht7
    · exact hx4
  refine TimeL.setFlag ?_ ..
  refine TimeL.put ?_ ..
  exact hx6

theorem TimeL.startDump (h : TimeL u s) (a1 a2) : TimeL u (State.startDump s a1 a2) := by
  unfold State.startDump
  refine TimeL.ite (fun _ => ?_) (fun _ => ?_)
  · refine TimeL.upd ?_ rfl rfl rfl rfl rfl rfl rfl rfl rfl rfl rfl rfl rfl rfl rfl
    exact h
  · refine TimeL.setFlag ?_ ..
    refine TimeL.upd ?_ rfl rfl rfl rfl rfl rfl rfl rfl rfl rfl rfl rfl rfl rfl rfl
    exact h

theorem TimeL.halt (h : TimeL u s) (a1) : TimeL u (State.halt s a1) := by
  unfold State.halt
  extract_lets +onlyGivenNames -merge -useContext -underBinder x1
  have hx1 : TimeL u x1 := by
    unfold x1
    refine TimeL.setFlag ?_ ..
    exact h
  extract_lets +onlyGivenNames -merge -useContext -underBinder x2
  have hx2 : TimeL u x2 := by
    unfold x2
    refine TimeL.enterSafe ?_ ..
    exact hx1
  refine TimeL.ite (fun _ => ?_) (fun _ => ?_)
  · refine TimeL.startDump ?_ ..
    refine TimeL.upd (s := x2) ?_ rfl rfl rfl rfl rfl rfl rfl rfl rfl rfl rfl rfl rfl rfl rfl
    exact hx2
  · exact hx2

theorem TimeL.setPending (h : TimeL u s) (a1 a2 a3 a4) : TimeL u (State.setPending s a1 a2 a3 a4) := by
  unfold State.setPending
  extract_lets +onlyGivenNames -merge -useContext -underBinder x1
  extract_lets +onlyGivenNames -merge -useContext -underBinder x2
  have hx2 : TimeL u x2 := by
    unfold x2
    refine TimeL.put ?_ ..
    exact h
  refine TimeL.upd (s := x2) ?_ rfl rfl rfl rfl rfl rfl rfl rfl rfl rfl rfl rfl rfl rfl rfl
  exact hx2

theorem TimeL.countFault (h : TimeL u s) (a1 a2 a3 a4 a5) : TimeL u (State.countFault s a1 a2 a3 a4 a5) := by
  unfold State.countFault
  extract_lets +onlyGivenNames -merge -useContext -underBinder x1
  have hx1 : TimeL u x1 := by
    unfold x1
    refine TimeL.capture ?_ ..
    refine TimeL.bump ?_ ..
    exact h
  refine TimeL.ite (fun _ => ?_) (fun _ => ?_)
  · refine TimeL.upd (s := x1) ?_ rfl rfl rfl rfl rfl rfl rfl rfl rfl rfl rfl rfl rfl rfl rfl
    exact hx1
  · exact hx1

theorem TimeL.recordAt (h : TimeL u s) (a1 a2 a3 a4 a5 a6 a7) : TimeL u (State.recordAt s a1 a2 a3 a4 a5 a6 a7) := by
  unfold State.recordAt
  extract_lets +onlyGivenNames -merge -useContext -underBinder x1
  extract_lets +onlyGivenNames -merge -useContext -underBinder x2
  extract_lets +onlyGivenNames -merge -useContext -underBinder x3
  extract_lets +onlyGivenNames -merge -useContext -underBinder x4
  have hx4 : TimeL u x4 := by
    unfold x4
    refine TimeL.countFault ?_ ..
    exact h
  refine TimeL.ite (fun _ => ?_) (fun _ => ?_)
  · refine TimeL.halt ?_ ..
    exact hx4
  · extract_lets +onlyGivenNames -merge -useContext -underBinder x5
    have hx5 : TimeL u x5 := by
      unfold x5
      refine TimeL.ite (fun _ => ?_) (fun _ => ?_)
      · exact hx4
      · refine TimeL.setPending ?_ ..
        exact hx4
    refine TimeL.ite (fun _ => ?_) (fun _ => ?_)
    · refine TimeL.fenceUnit ?_ ..
      exact hx5
    · exact hx5

theorem TimeL.record (h : TimeL u s) (a1 a2 a3 a4) : TimeL u (State.record s a1 a2 a3 a4) := by
  unfold State.record
  refine TimeL.recordAt ?_ ..
  exact h

theorem TimeL.loadRegs (h : TimeL u s) (a1 a2) : TimeL u (State.loadRegs s a1 a2) := by
  unfold State.loadRegs
  extract_lets +onlyGivenNames -merge -useContext -underBinder x1
  have hx1 : TimeL u x1 := by
    unfold x1
    refine TimeL.foldl (fun _ _ ht2 => ?_) ?_
    · refine TimeL.wr ?_ ..
      exact ht2
    · exact h
  refine TimeL.foldl (fun _ _ ht3 => ?_) ?_
  · refine TimeL.wr ?_ ..
    exact ht3
  · exact hx1

theorem TimeL.dynParts (h : TimeL u s) (a1) : TimeL u (State.dynParts s a1) := by
  unfold State.dynParts
  refine TimeL.upd ?_ rfl rfl rfl rfl rfl rfl rfl rfl rfl rfl rfl rfl rfl rfl rfl
  exact h

theorem TimeL.loadDynamic (h : TimeL u s) (a1) : TimeL u (State.loadDynamic s a1) := by
  unfold State.loadDynamic
  refine TimeL.loadRegs ?_ ..
  refine TimeL.dynParts ?_ ..
  exact h

theorem TimeL.statParts (h : TimeL u s) (a1) : TimeL u (State.statParts s a1) := by
  unfold State.statParts
  refine TimeL.upd ?_ rfl rfl rfl rfl rfl rfl rfl rfl rfl rfl rfl rfl rfl rfl rfl
  exact h

theorem TimeL.loadStatic (h : TimeL u s) (a1) : TimeL u (State.loadStatic s a1) := by
  unfold State.loadStatic
  refine TimeL.loadRegs ?_ ..
  refine TimeL.statParts ?_ ..
  refine TimeL.dynParts ?_ ..
  exact h

/-- What those functions may change, as a frame names it. -/
theorem TimeL.within {t : State} (h : TimeL s.partTimeL t) : t.within s [.regs, .lpe, .hmp, .prf, .zfb, .wgl, .chn, .est, .flt, .pins]
  | .regs, hp => (hp (by decide)).elim
  | .time, _ => h.time_eq
  | .inp, _ => h.inp_eq
  | .wq, _ => h.wq_eq
  | .lpe, hp => (hp (by decide)).elim
  | .hmp, hp => (hp (by decide)).elim
  | .prf, hp => (hp (by decide)).elim
  | .site, _ => h.site_eq
  | .zfb, hp => (hp (by decide)).elim
  | .wgl, hp => (hp (by decide)).elim
  | .lks, _ => h.lks_eq
  | .link, _ => h.link_eq
  | .chn, hp => (hp (by decide)).elim
  | .est, hp => (hp (by decide)).elim
  | .arr, _ => h.arr_eq
  | .flt, hp => (hp (by decide)).elim
  | .mgp, _ => h.mgp_eq
  | .sec, _ => h.sec_eq
  | .pwr, _ => h.pwr_eq
  | .cfg, _ => h.cfg_eq
  | .pins, hp => (hp (by decide)).elim
  | .shadow, _ => h.shadow_eq
  | .free, _ => h.free_eq
  | .pending, _ => h.pending_eq

end Sys2Proof.Machine
end

