-- ==== Sys2Proof/Laws/TrainK.lean ====
section
/-! SUPPORT. What an attempt of a stage lane leaves alone. -/

namespace Sys2Proof.Machine

/-- The parts of the state that are kept. -/
structure State.TrainKPart where
  time : TimeRt
  inp : InputRt
  wq : List PairWrite
  lpe : LpeRt
  hmp : HmpRt
  prf : PrfRt
  site : SiteRt
  wgl : WglRt
  lks : LksRt
  chn : ChnRt
  est : EstRt
  arr : ArrRt
  flt : FltRt
  mgp : MgpRt
  sec : SecRt
  pwr : PwrRt
  cfg : CfgRt
  pins : PinRt
  shadow : List (Nat × Nat × Word)
  free : Nat
  pending : List Instr

/-- Those parts of a state. -/
def State.partTrainK (s : State) : State.TrainKPart :=
  ⟨s.time, s.inp, s.wq, s.lpe, s.hmp, s.prf, s.site, s.wgl, s.lks, s.chn, s.est, s.arr, s.flt, s.mgp, s.sec, s.pwr, s.cfg, s.pins, s.shadow, s.free, s.pending⟩

/-- Those parts are the ones given. -/
structure TrainK (u : State.TrainKPart) (s : State) : Prop where
  eq : s.partTrainK = u

variable {u : State.TrainKPart} {s : State}

theorem TrainK.upd {regs time inp wq lpe hmp prf site zfb wgl lks link chn est arr flt mgp sec pwr cfg pins shadow free pending} (h : TrainK u s) (h_regs : regs = s.regs) (h_time : time = s.time) (h_inp : inp = s.inp) (h_wq : wq = s.wq) (h_lpe : lpe = s.lpe) (h_hmp : hmp = s.hmp) (h_prf : prf = s.prf) (h_site : site = s.site) (h_wgl : wgl = s.wgl) (h_lks : lks = s.lks) (h_chn : chn = s.chn) (h_est : est = s.est) (h_arr : arr = s.arr) (h_flt : flt = s.flt) (h_mgp : mgp = s.mgp) (h_sec : sec = s.sec) (h_pwr : pwr = s.pwr) (h_cfg : cfg = s.cfg) (h_pins : pins = s.pins) (h_shadow : shadow = s.shadow) (h_free : free = s.free) (h_pending : pending = s.pending) :
    TrainK u (State.mk regs time inp wq lpe hmp prf site zfb wgl lks link chn est arr flt mgp sec pwr cfg pins shadow free pending) := by
  subst h_regs h_time h_inp h_wq h_lpe h_hmp h_prf h_site h_wgl h_lks h_chn h_est h_arr h_flt h_mgp h_sec h_pwr h_cfg h_pins h_shadow h_free h_pending
  exact ⟨h.eq⟩

theorem TrainK.rfl' (s : State) : TrainK s.partTrainK s := ⟨rfl⟩

theorem TrainK.ite {c : Prop} {_ : Decidable c} {a b : State} (ha : c → TrainK u a) (hb : ¬c → TrainK u b) : TrainK u (if c then a else b) := by
  split
  · exact ha ‹_›
  · exact hb ‹_›

theorem TrainK.dite {c : Prop} {_ : Decidable c} {a : c → State} {b : ¬c → State} (ha : ∀ h, TrainK u (a h)) (hb : ∀ h, TrainK u (b h)) :
    TrainK u (if h : c then a h else b h) := by
  split
  · exact ha _
  · exact hb _

theorem TrainK.iteP {α : Type} {c : Prop} {_ : Decidable c} {a b : State × α} (ha : c → TrainK u a.1) (hb : ¬c → TrainK u b.1) : TrainK u (if c then a else b).1 := by
  split
  · exact ha ‹_›
  · exact hb ‹_›

theorem TrainK.diteP {α : Type} {c : Prop} {_ : Decidable c} {a : c → State × α} {b : ¬c → State × α} (ha : ∀ h, TrainK u (a h).1) (hb : ∀ h, TrainK u (b h).1) :
    TrainK u (if h : c then a h else b h).1 := by
  split
  · exact ha _
  · exact hb _

theorem TrainK.foldl {α : Type} {l : List α} {f : State → α → State} (hf : ∀ t a, TrainK u t → TrainK u (f t a)) (h : TrainK u s) : TrainK u (l.foldl f s) := by
  induction l generalizing s with
  | nil => exact h
  | cons a l ih => exact ih (hf s a h)

theorem TrainK.each {n : Nat} {f : Nat → State → State} (hf : ∀ i t, TrainK u t → TrainK u (f i t)) (h : TrainK u s) : TrainK u (State.each n f s) :=
  TrainK.foldl (fun t a ht => hf a t ht) h

theorem TrainK.over {α : Type} {l : List α} {f : α → State → State} (hf : ∀ i t, TrainK u t → TrainK u (f i t)) (h : TrainK u s) : TrainK u (State.over l f s) :=
  TrainK.foldl (fun t a ht => hf a t ht) h

theorem TrainK.iff {c : Bool} {f : State → State} (hf : ∀ t, TrainK u t → TrainK u (f t)) (h : TrainK u s) : TrainK u (State.iff c f s) := by
  unfold State.iff
  split
  · exact hf s h
  · exact h

theorem TrainK.wr (h : TrainK u s) (a w) : TrainK u (s.wr a w) := ⟨h.eq⟩

theorem TrainK.time_eq (h : TrainK u s) : s.time = u.time := congrArg State.TrainKPart.time h.eq
theorem TrainK.inp_eq (h : TrainK u s) : s.inp = u.inp := congrArg State.TrainKPart.inp h.eq
theorem TrainK.wq_eq (h : TrainK u s) : s.wq = u.wq := congrArg State.TrainKPart.wq h.eq
theorem TrainK.lpe_eq (h : TrainK u s) : s.lpe = u.lpe := congrArg State.TrainKPart.lpe h.eq
theorem TrainK.hmp_eq (h : TrainK u s) : s.hmp = u.hmp := congrArg State.TrainKPart.hmp h.eq
theorem TrainK.prf_eq (h : TrainK u s) : s.prf = u.prf := congrArg State.TrainKPart.prf h.eq
theorem TrainK.site_eq (h : TrainK u s) : s.site = u.site := congrArg State.TrainKPart.site h.eq
theorem TrainK.wgl_eq (h : TrainK u s) : s.wgl = u.wgl := congrArg State.TrainKPart.wgl h.eq
theorem TrainK.lks_eq (h : TrainK u s) : s.lks = u.lks := congrArg State.TrainKPart.lks h.eq
theorem TrainK.chn_eq (h : TrainK u s) : s.chn = u.chn := congrArg State.TrainKPart.chn h.eq
theorem TrainK.est_eq (h : TrainK u s) : s.est = u.est := congrArg State.TrainKPart.est h.eq
theorem TrainK.arr_eq (h : TrainK u s) : s.arr = u.arr := congrArg State.TrainKPart.arr h.eq
theorem TrainK.flt_eq (h : TrainK u s) : s.flt = u.flt := congrArg State.TrainKPart.flt h.eq
theorem TrainK.mgp_eq (h : TrainK u s) : s.mgp = u.mgp := congrArg State.TrainKPart.mgp h.eq
theorem TrainK.sec_eq (h : TrainK u s) : s.sec = u.sec := congrArg State.TrainKPart.sec h.eq
theorem TrainK.pwr_eq (h : TrainK u s) : s.pwr = u.pwr := congrArg State.TrainKPart.pwr h.eq
theorem TrainK.cfg_eq (h : TrainK u s) : s.cfg = u.cfg := congrArg State.TrainKPart.cfg h.eq
theorem TrainK.pins_eq (h : TrainK u s) : s.pins = u.pins := congrArg State.TrainKPart.pins h.eq
theorem TrainK.shadow_eq (h : TrainK u s) : s.shadow = u.shadow := congrArg State.TrainKPart.shadow h.eq
theorem TrainK.free_eq (h : TrainK u s) : s.free = u.free := congrArg State.TrainKPart.free h.eq
theorem TrainK.pending_eq (h : TrainK u s) : s.pending = u.pending := congrArg State.TrainKPart.pending h.eq

theorem TrainK.put (h : TrainK u s) (a1 a2) : TrainK u (State.put s a1 a2) := by
  unfold State.put
  refine TrainK.wr ?_ ..
  exact h

theorem TrainK.setFlag (h : TrainK u s) (a1 a2) : TrainK u (State.setFlag s a1 a2) := by
  unfold State.setFlag
  refine TrainK.put ?_ ..
  exact h

theorem TrainK.bump (h : TrainK u s) (a1) : TrainK u (State.bump s a1) := by
  unfold State.bump
  refine TrainK.put ?_ ..
  exact h

theorem TrainK.setStl (h : TrainK u s) (a1 a2) : TrainK u (State.setStl s a1 a2) := by
  unfold State.setStl
  refine TrainK.upd ?_ rfl rfl rfl rfl rfl rfl rfl rfl rfl rfl rfl rfl rfl rfl rfl rfl rfl rfl rfl rfl rfl rfl
  exact h

theorem TrainK.stageAttempt (h : TrainK u s) (a1 a2) : TrainK u (State.stageAttempt s a1 a2) := by
  unfold State.stageAttempt
  refine TrainK.put ?_ ..
  refine TrainK.bump ?_ ..
  exact h

theorem TrainK.stageFailed (h : TrainK u s) (a1 a2) : TrainK u (State.stageFailed s a1 a2) := by
  unfold State.stageFailed
  refine TrainK.put ?_ ..
  refine TrainK.put ?_ ..
  exact h

theorem TrainK.stageWords (h : TrainK u s) (a1 a2) : TrainK u (State.stageWords s a1 a2) := by
  unfold State.stageWords
  refine TrainK.foldl (fun _ _ ht1 => ?_) ?_
  · refine TrainK.wr ?_ ..
    exact ht1
  · exact h

theorem TrainK.stageTrained (h : TrainK u s) (a1 a2) : TrainK u (State.stageTrained s a1 a2) := by
  unfold State.stageTrained
  extract_lets +onlyGivenNames -merge -useContext -underBinder x1
  extract_lets +onlyGivenNames -merge -useContext -underBinder x2
  have hx2 : TrainK u x2 := by
    unfold x2
    refine TrainK.setStl ?_ ..
    exact h
  refine TrainK.upd (s := x2) ?_ rfl rfl rfl rfl rfl rfl rfl rfl rfl rfl rfl rfl rfl rfl rfl rfl rfl rfl rfl rfl rfl rfl
  exact hx2

theorem TrainK.stageUp (h : TrainK u s) (a1 a2 a3) : TrainK u (State.stageUp s a1 a2 a3) := by
  unfold State.stageUp
  extract_lets +onlyGivenNames -merge -useContext -underBinder x1
  have hx1 : TrainK u x1 := by
    unfold x1
    refine TrainK.setFlag ?_ ..
    refine TrainK.put ?_ ..
    exact h
  refine TrainK.stageTrained ?_ ..
  refine TrainK.stageWords ?_ ..
  refine TrainK.put ?_ ..
  exact hx1

theorem TrainK.trainStage (h : TrainK u s) (a1 a2 a3 a4) : TrainK u (State.trainStage s a1 a2 a3 a4) := by
  unfold State.trainStage
  extract_lets +onlyGivenNames -merge -useContext -underBinder x1
  refine TrainK.ite (fun _ => ?_) (fun _ => ?_)
  · refine TrainK.stageFailed ?_ ..
    refine TrainK.stageAttempt ?_ ..
    exact h
  · refine TrainK.stageUp ?_ ..
    refine TrainK.stageAttempt ?_ ..
    exact h

/-- What those functions may change, as a frame names it. -/
theorem TrainK.within {t : State} (h : TrainK s.partTrainK t) : t.within s [.regs, .zfb, .link]
  | .regs, hp => (hp (by decide)).elim
  | .time, _ => h.time_eq
  | .inp, _ => h.inp_eq
  | .wq, _ => h.wq_eq
  | .lpe, _ => h.lpe_eq
  | .hmp, _ => h.hmp_eq
  | .prf, _ => h.prf_eq
  | .site, _ => h.site_eq
  | .zfb, hp => (hp (by decide)).elim
  | .wgl, _ => h.wgl_eq
  | .lks, _ => h.lks_eq
  | .link, hp => (hp (by decide)).elim
  | .chn, _ => h.chn_eq
  | .est, _ => h.est_eq
  | .arr, _ => h.arr_eq
  | .flt, _ => h.flt_eq
  | .mgp, _ => h.mgp_eq
  | .sec, _ => h.sec_eq
  | .pwr, _ => h.pwr_eq
  | .cfg, _ => h.cfg_eq
  | .pins, _ => h.pins_eq
  | .shadow, _ => h.shadow_eq
  | .free, _ => h.free_eq
  | .pending, _ => h.pending_eq

end Sys2Proof.Machine
end

