-- ==== Sys2Proof/Laws/TrainL.lean ====
section
/-! SUPPORT. What a training of the LOCK link leaves alone. -/

namespace Sys2Proof.Machine

/-- The parts of the state that are kept. -/
structure State.TrainLPart where
  time : TimeRt
  inp : InputRt
  wq : List PairWrite
  lpe : LpeRt
  hmp : HmpRt
  prf : PrfRt
  site : SiteRt
  zfb : ZfbRt
  wgl : WglRt
  link : LinkRt
  chn : ChnRt
  est : EstRt
  arr : ArrRt
  flt : FltRt
  mgp : MgpRt
  sec : SecRt
  pwr : PwrRt
  cfg : CfgRt
  pins : PinRt
  shadow : List (Nat × Nat × Word)
  free : Nat
  pending : List Instr

/-- Those parts of a state. -/
def State.partTrainL (s : State) : State.TrainLPart :=
  ⟨s.time, s.inp, s.wq, s.lpe, s.hmp, s.prf, s.site, s.zfb, s.wgl, s.link, s.chn, s.est, s.arr, s.flt, s.mgp, s.sec, s.pwr, s.cfg, s.pins, s.shadow, s.free, s.pending⟩

/-- Those parts are the ones given. -/
structure TrainL (u : State.TrainLPart) (s : State) : Prop where
  eq : s.partTrainL = u

variable {u : State.TrainLPart} {s : State}

theorem TrainL.upd {regs time inp wq lpe hmp prf site zfb wgl lks link chn est arr flt mgp sec pwr cfg pins shadow free pending} (h : TrainL u s) (h_regs : regs = s.regs) (h_time : time = s.time) (h_inp : inp = s.inp) (h_wq : wq = s.wq) (h_lpe : lpe = s.lpe) (h_hmp : hmp = s.hmp) (h_prf : prf = s.prf) (h_site : site = s.site) (h_zfb : zfb = s.zfb) (h_wgl : wgl = s.wgl) (h_link : link = s.link) (h_chn : chn = s.chn) (h_est : est = s.est) (h_arr : arr = s.arr) (h_flt : flt = s.flt) (h_mgp : mgp = s.mgp) (h_sec : sec = s.sec) (h_pwr : pwr = s.pwr) (h_cfg : cfg = s.cfg) (h_pins : pins = s.pins) (h_shadow : shadow = s.shadow) (h_free : free = s.free) (h_pending : pending = s.pending) :
    TrainL u (State.mk regs time inp wq lpe hmp prf site zfb wgl lks link chn est arr flt mgp sec pwr cfg pins shadow free pending) := by
  subst h_regs h_time h_inp h_wq h_lpe h_hmp h_prf h_site h_zfb h_wgl h_link h_chn h_est h_arr h_flt h_mgp h_sec h_pwr h_cfg h_pins h_shadow h_free h_pending
  exact ⟨h.eq⟩

theorem TrainL.rfl' (s : State) : TrainL s.partTrainL s := ⟨rfl⟩

theorem TrainL.ite {c : Prop} {_ : Decidable c} {a b : State} (ha : c → TrainL u a) (hb : ¬c → TrainL u b) : TrainL u (if c then a else b) := by
  split
  · exact ha ‹_›
  · exact hb ‹_›

theorem TrainL.dite {c : Prop} {_ : Decidable c} {a : c → State} {b : ¬c → State} (ha : ∀ h, TrainL u (a h)) (hb : ∀ h, TrainL u (b h)) :
    TrainL u (if h : c then a h else b h) := by
  split
  · exact ha _
  · exact hb _

theorem TrainL.iteP {α : Type} {c : Prop} {_ : Decidable c} {a b : State × α} (ha : c → TrainL u a.1) (hb : ¬c → TrainL u b.1) : TrainL u (if c then a else b).1 := by
  split
  · exact ha ‹_›
  · exact hb ‹_›

theorem TrainL.diteP {α : Type} {c : Prop} {_ : Decidable c} {a : c → State × α} {b : ¬c → State × α} (ha : ∀ h, TrainL u (a h).1) (hb : ∀ h, TrainL u (b h).1) :
    TrainL u (if h : c then a h else b h).1 := by
  split
  · exact ha _
  · exact hb _

theorem TrainL.foldl {α : Type} {l : List α} {f : State → α → State} (hf : ∀ t a, TrainL u t → TrainL u (f t a)) (h : TrainL u s) : TrainL u (l.foldl f s) := by
  induction l generalizing s with
  | nil => exact h
  | cons a l ih => exact ih (hf s a h)

theorem TrainL.each {n : Nat} {f : Nat → State → State} (hf : ∀ i t, TrainL u t → TrainL u (f i t)) (h : TrainL u s) : TrainL u (State.each n f s) :=
  TrainL.foldl (fun t a ht => hf a t ht) h

theorem TrainL.over {α : Type} {l : List α} {f : α → State → State} (hf : ∀ i t, TrainL u t → TrainL u (f i t)) (h : TrainL u s) : TrainL u (State.over l f s) :=
  TrainL.foldl (fun t a ht => hf a t ht) h

theorem TrainL.iff {c : Bool} {f : State → State} (hf : ∀ t, TrainL u t → TrainL u (f t)) (h : TrainL u s) : TrainL u (State.iff c f s) := by
  unfold State.iff
  split
  · exact hf s h
  · exact h

theorem TrainL.wr (h : TrainL u s) (a w) : TrainL u (s.wr a w) := ⟨h.eq⟩

theorem TrainL.time_eq (h : TrainL u s) : s.time = u.time := congrArg State.TrainLPart.time h.eq
theorem TrainL.inp_eq (h : TrainL u s) : s.inp = u.inp := congrArg State.TrainLPart.inp h.eq
theorem TrainL.wq_eq (h : TrainL u s) : s.wq = u.wq := congrArg State.TrainLPart.wq h.eq
theorem TrainL.lpe_eq (h : TrainL u s) : s.lpe = u.lpe := congrArg State.TrainLPart.lpe h.eq
theorem TrainL.hmp_eq (h : TrainL u s) : s.hmp = u.hmp := congrArg State.TrainLPart.hmp h.eq
theorem TrainL.prf_eq (h : TrainL u s) : s.prf = u.prf := congrArg State.TrainLPart.prf h.eq
theorem TrainL.site_eq (h : TrainL u s) : s.site = u.site := congrArg State.TrainLPart.site h.eq
theorem TrainL.zfb_eq (h : TrainL u s) : s.zfb = u.zfb := congrArg State.TrainLPart.zfb h.eq
theorem TrainL.wgl_eq (h : TrainL u s) : s.wgl = u.wgl := congrArg State.TrainLPart.wgl h.eq
theorem TrainL.link_eq (h : TrainL u s) : s.link = u.link := congrArg State.TrainLPart.link h.eq
theorem TrainL.chn_eq (h : TrainL u s) : s.chn = u.chn := congrArg State.TrainLPart.chn h.eq
theorem TrainL.est_eq (h : TrainL u s) : s.est = u.est := congrArg State.TrainLPart.est h.eq
theorem TrainL.arr_eq (h : TrainL u s) : s.arr = u.arr := congrArg State.TrainLPart.arr h.eq
theorem TrainL.flt_eq (h : TrainL u s) : s.flt = u.flt := congrArg State.TrainLPart.flt h.eq
theorem TrainL.mgp_eq (h : TrainL u s) : s.mgp = u.mgp := congrArg State.TrainLPart.mgp h.eq
theorem TrainL.sec_eq (h : TrainL u s) : s.sec = u.sec := congrArg State.TrainLPart.sec h.eq
theorem TrainL.pwr_eq (h : TrainL u s) : s.pwr = u.pwr := congrArg State.TrainLPart.pwr h.eq
theorem TrainL.cfg_eq (h : TrainL u s) : s.cfg = u.cfg := congrArg State.TrainLPart.cfg h.eq
theorem TrainL.pins_eq (h : TrainL u s) : s.pins = u.pins := congrArg State.TrainLPart.pins h.eq
theorem TrainL.shadow_eq (h : TrainL u s) : s.shadow = u.shadow := congrArg State.TrainLPart.shadow h.eq
theorem TrainL.free_eq (h : TrainL u s) : s.free = u.free := congrArg State.TrainLPart.free h.eq
theorem TrainL.pending_eq (h : TrainL u s) : s.pending = u.pending := congrArg State.TrainLPart.pending h.eq

theorem TrainL.put (h : TrainL u s) (a1 a2) : TrainL u (State.put s a1 a2) := by
  unfold State.put
  refine TrainL.wr ?_ ..
  exact h

theorem TrainL.trainLock (h : TrainL u s) (a1 a2) : TrainL u (State.trainLock s a1 a2) := by
  unfold State.trainLock
  extract_lets +onlyGivenNames -merge -useContext -underBinder x1
  have hx1 : TrainL u x1 := by
    unfold x1
    refine TrainL.put ?_ ..
    exact h
  extract_lets +onlyGivenNames -merge -useContext -underBinder x2
  have hx2 : TrainL u x2 := by
    unfold x2
    refine TrainL.ite (fun _ => ?_) (fun _ => ?_)
    · exact hx1
    · refine TrainL.put ?_ ..
      exact hx1
  extract_lets +onlyGivenNames -merge -useContext -underBinder x3
  extract_lets +onlyGivenNames -merge -useContext -underBinder x4
  have hx4 : TrainL u x4 := by
    unfold x4
    refine TrainL.upd (s := x2) ?_ rfl rfl rfl rfl rfl rfl rfl rfl rfl rfl rfl rfl rfl rfl rfl rfl rfl rfl rfl rfl rfl rfl rfl
    exact hx2
  refine TrainL.ite (fun _ => ?_) (fun _ => ?_)
  · refine TrainL.put ?_ ..
    refine TrainL.put ?_ ..
    exact hx4
  · refine TrainL.put ?_ ..
    exact hx4

/-- What those functions may change, as a frame names it. -/
theorem TrainL.within {t : State} (h : TrainL s.partTrainL t) : t.within s [.regs, .lks]
  | .regs, hp => (hp (by decide)).elim
  | .time, _ => h.time_eq
  | .inp, _ => h.inp_eq
  | .wq, _ => h.wq_eq
  | .lpe, _ => h.lpe_eq
  | .hmp, _ => h.hmp_eq
  | .prf, _ => h.prf_eq
  | .site, _ => h.site_eq
  | .zfb, _ => h.zfb_eq
  | .wgl, _ => h.wgl_eq
  | .lks, hp => (hp (by decide)).elim
  | .link, _ => h.link_eq
  | .chn, _ => h.chn_eq
  | .est, _ => h.est_eq
  | .arr, _ => h.arr_eq
  | .flt, _ => h.flt_eq
  | .mgp, _ => h.mgp_eq
  | .sec, _ => h.sec_eq
  | .pwr, _ => h.pwr_eq
  | .cfg, _ => h.cfg_eq
  | .pins, _ => h.pins_eq
  | .shadow, _ => h.shadow_eq
  | .free, _ => h.free_eq
  | .pending, _ => h.pending_eq

end Sys2Proof.Machine
end

