-- ==== Sys2Proof/Laws/TrainT.lean ====
section
/-! SUPPORT. What an attempt of a Waggle lane leaves alone. -/

namespace Sys2Proof.Machine

/-- The parts of the state that are kept. -/
structure State.TrainTPart where
  time : TimeRt
  inp : InputRt
  wq : List PairWrite
  lpe : LpeRt
  hmp : HmpRt
  prf : PrfRt
  site : SiteRt
  zfb : ZfbRt
  lks : LksRt
  chn : ChnRt
  est : EstRt
  arr : ArrRt
  flt : FltRt
  mgp : MgpRt
  sec : SecRt
  pwr : PwrRt
  cfg : CfgRt
  pins : PinRt
  shadow : List (Nat × Nat × Word)
  free : Nat
  pending : List Instr

/-- Those parts of a state. -/
def State.partTrainT (s : State) : State.TrainTPart :=
  ⟨s.time, s.inp, s.wq, s.lpe, s.hmp, s.prf, s.site, s.zfb, s.lks, s.chn, s.est, s.arr, s.flt, s.mgp, s.sec, s.pwr, s.cfg, s.pins, s.shadow, s.free, s.pending⟩

/-- Those parts are the ones given. -/
structure TrainT (u : State.TrainTPart) (s : State) : Prop where
  eq : s.partTrainT = u

variable {u : State.TrainTPart} {s : State}

theorem TrainT.upd {regs time inp wq lpe hmp prf site zfb wgl lks link chn est arr flt mgp sec pwr cfg pins shadow free pending} (h : TrainT u s) (h_regs : regs = s.regs) (h_time : time = s.time) (h_inp : inp = s.inp) (h_wq : wq = s.wq) (h_lpe : lpe = s.lpe) (h_hmp : hmp = s.hmp) (h_prf : prf = s.prf) (h_site : site = s.site) (h_zfb : zfb = s.zfb) (h_lks : lks = s.lks) (h_chn : chn = s.chn) (h_est : est = s.est) (h_arr : arr = s.arr) (h_flt : flt = s.flt) (h_mgp : mgp = s.mgp) (h_sec : sec = s.sec) (h_pwr : pwr = s.pwr) (h_cfg : cfg = s.cfg) (h_pins : pins = s.pins) (h_shadow : shadow = s.shadow) (h_free : free = s.free) (h_pending : pending = s.pending) :
    TrainT u (State.mk regs time inp wq lpe hmp prf site zfb wgl lks link chn est arr flt mgp sec pwr cfg pins shadow free pending) := by
  subst h_regs h_time h_inp h_wq h_lpe h_hmp h_prf h_site h_zfb h_lks h_chn h_est h_arr h_flt h_mgp h_sec h_pwr h_cfg h_pins h_shadow h_free h_pending
  exact ⟨h.eq⟩

theorem TrainT.rfl' (s : State) : TrainT s.partTrainT s := ⟨rfl⟩

theorem TrainT.ite {c : Prop} {_ : Decidable c} {a b : State} (ha : c → TrainT u a) (hb : ¬c → TrainT u b) : TrainT u (if c then a else b) := by
  split
  · exact ha ‹_›
  · exact hb ‹_›

theorem TrainT.dite {c : Prop} {_ : Decidable c} {a : c → State} {b : ¬c → State} (ha : ∀ h, TrainT u (a h)) (hb : ∀ h, TrainT u (b h)) :
    TrainT u (if h : c then a h else b h) := by
  split
  · exact ha _
  · exact hb _

theorem TrainT.iteP {α : Type} {c : Prop} {_ : Decidable c} {a b : State × α} (ha : c → TrainT u a.1) (hb : ¬c → TrainT u b.1) : TrainT u (if c then a else b).1 := by
  split
  · exact ha ‹_›
  · exact hb ‹_›

theorem TrainT.diteP {α : Type} {c : Prop} {_ : Decidable c} {a : c → State × α} {b : ¬c → State × α} (ha : ∀ h, TrainT u (a h).1) (hb : ∀ h, TrainT u (b h).1) :
    TrainT u (if h : c then a h else b h).1 := by
  split
  · exact ha _
  · exact hb _

theorem TrainT.foldl {α : Type} {l : List α} {f : State → α → State} (hf : ∀ t a, TrainT u t → TrainT u (f t a)) (h : TrainT u s) : TrainT u (l.foldl f s) := by
  induction l generalizing s with
  | nil => exact h
  | cons a l ih => exact ih (hf s a h)

theorem TrainT.each {n : Nat} {f : Nat → State → State} (hf : ∀ i t, TrainT u t → TrainT u (f i t)) (h : TrainT u s) : TrainT u (State.each n f s) :=
  TrainT.foldl (fun t a ht => hf a t ht) h

theorem TrainT.over {α : Type} {l : List α} {f : α → State → State} (hf : ∀ i t, TrainT u t → TrainT u (f i t)) (h : TrainT u s) : TrainT u (State.over l f s) :=
  TrainT.foldl (fun t a ht => hf a t ht) h

theorem TrainT.iff {c : Bool} {f : State → State} (hf : ∀ t, TrainT u t → TrainT u (f t)) (h : TrainT u s) : TrainT u (State.iff c f s) := by
  unfold State.iff
  split
  · exact hf s h
  · exact h

theorem TrainT.wr (h : TrainT u s) (a w) : TrainT u (s.wr a w) := ⟨h.eq⟩

theorem TrainT.time_eq (h : TrainT u s) : s.time = u.time := congrArg State.TrainTPart.time h.eq
theorem TrainT.inp_eq (h : TrainT u s) : s.inp = u.inp := congrArg State.TrainTPart.inp h.eq
theorem TrainT.wq_eq (h : TrainT u s) : s.wq = u.wq := congrArg State.TrainTPart.wq h.eq
theorem TrainT.lpe_eq (h : TrainT u s) : s.lpe = u.lpe := congrArg State.TrainTPart.lpe h.eq
theorem TrainT.hmp_eq (h : TrainT u s) : s.hmp = u.hmp := congrArg State.TrainTPart.hmp h.eq
theorem TrainT.prf_eq (h : TrainT u s) : s.prf = u.prf := congrArg State.TrainTPart.prf h.eq
theorem TrainT.site_eq (h : TrainT u s) : s.site = u.site := congrArg State.TrainTPart.site h.eq
theorem TrainT.zfb_eq (h : TrainT u s) : s.zfb = u.zfb := congrArg State.TrainTPart.zfb h.eq
theorem TrainT.lks_eq (h : TrainT u s) : s.lks = u.lks := congrArg State.TrainTPart.lks h.eq
theorem TrainT.chn_eq (h : TrainT u s) : s.chn = u.chn := congrArg State.TrainTPart.chn h.eq
theorem TrainT.est_eq (h : TrainT u s) : s.est = u.est := congrArg State.TrainTPart.est h.eq
theorem TrainT.arr_eq (h : TrainT u s) : s.arr = u.arr := congrArg State.TrainTPart.arr h.eq
theorem TrainT.flt_eq (h : TrainT u s) : s.flt = u.flt := congrArg State.TrainTPart.flt h.eq
theorem TrainT.mgp_eq (h : TrainT u s) : s.mgp = u.mgp := congrArg State.TrainTPart.mgp h.eq
theorem TrainT.sec_eq (h : TrainT u s) : s.sec = u.sec := congrArg State.TrainTPart.sec h.eq
theorem TrainT.pwr_eq (h : TrainT u s) : s.pwr = u.pwr := congrArg State.TrainTPart.pwr h.eq
theorem TrainT.cfg_eq (h : TrainT u s) : s.cfg = u.cfg := congrArg State.TrainTPart.cfg h.eq
theorem TrainT.pins_eq (h : TrainT u s) : s.pins = u.pins := congrArg State.TrainTPart.pins h.eq
theorem TrainT.shadow_eq (h : TrainT u s) : s.shadow = u.shadow := congrArg State.TrainTPart.shadow h.eq
theorem TrainT.free_eq (h : TrainT u s) : s.free = u.free := congrArg State.TrainTPart.free h.eq
theorem TrainT.pending_eq (h : TrainT u s) : s.pending = u.pending := congrArg State.TrainTPart.pending h.eq

theorem TrainT.put (h : TrainT u s) (a1 a2) : TrainT u (State.put s a1 a2) := by
  unfold State.put
  refine TrainT.wr ?_ ..
  exact h

theorem TrainT.bump (h : TrainT u s) (a1) : TrainT u (State.bump s a1) := by
  unfold State.bump
  refine TrainT.put ?_ ..
  exact h

theorem TrainT.setLane (h : TrainT u s) (a1 a2) : TrainT u (State.setLane s a1 a2) := by
  unfold State.setLane
  refine TrainT.dite (fun _ => ?_) (fun _ => ?_)
  · refine TrainT.upd ?_ rfl rfl rfl rfl rfl rfl rfl rfl rfl rfl rfl rfl rfl rfl rfl rfl rfl rfl rfl rfl rfl rfl
    exact h
  · exact h

theorem TrainT.trayAttempt (h : TrainT u s) (a1 a2) : TrainT u (State.trayAttempt s a1 a2) := by
  unfold State.trayAttempt
  refine TrainT.put ?_ ..
  refine TrainT.bump ?_ ..
  exact h

theorem TrainT.trayFailed (h : TrainT u s) (a1 a2) : TrainT u (State.trayFailed s a1 a2) := by
  unfold State.trayFailed
  refine TrainT.put ?_ ..
  refine TrainT.put ?_ ..
  exact h

theorem TrainT.trayUp (h : TrainT u s) (a1 a2) : TrainT u (State.trayUp s a1 a2) := by
  unfold State.trayUp
  extract_lets +onlyGivenNames -merge -useContext -underBinder x1
  have hx1 : TrainT u x1 := by
    unfold x1
    refine TrainT.put ?_ ..
    refine TrainT.put ?_ ..
    exact h
  extract_lets +onlyGivenNames -merge -useContext -underBinder x2
  extract_lets +onlyGivenNames -merge -useContext -underBinder x3
  have hx3 : TrainT u x3 := by
    unfold x3
    refine TrainT.upd (s := x1) ?_ rfl rfl rfl rfl rfl rfl rfl rfl rfl rfl rfl rfl rfl rfl rfl rfl rfl rfl rfl rfl rfl rfl
    exact hx1
  refine TrainT.setLane ?_ ..
  exact hx3

theorem TrainT.trainTray (h : TrainT u s) (a1 a2 a3 a4) : TrainT u (State.trainTray s a1 a2 a3 a4) := by
  unfold State.trainTray
  refine TrainT.ite (fun _ => ?_) (fun _ => ?_)
  · refine TrainT.trayFailed ?_ ..
    refine TrainT.trayAttempt ?_ ..
    exact h
  · refine TrainT.trayUp ?_ ..
    refine TrainT.trayAttempt ?_ ..
    exact h

/-- What those functions may change, as a frame names it. -/
theorem TrainT.within {t : State} (h : TrainT s.partTrainT t) : t.within s [.regs, .wgl, .link]
  | .regs, hp => (hp (by decide)).elim
  | .time, _ => h.time_eq
  | .inp, _ => h.inp_eq
  | .wq, _ => h.wq_eq
  | .lpe, _ => h.lpe_eq
  | .hmp, _ => h.hmp_eq
  | .prf, _ => h.prf_eq
  | .site, _ => h.site_eq
  | .zfb, _ => h.zfb_eq
  | .wgl, hp => (hp (by decide)).elim
  | .lks, _ => h.lks_eq
  | .link, hp => (hp (by decide)).elim
  | .chn, _ => h.chn_eq
  | .est, _ => h.est_eq
  | .arr, _ => h.arr_eq
  | .flt, _ => h.flt_eq
  | .mgp, _ => h.mgp_eq
  | .sec, _ => h.sec_eq
  | .pwr, _ => h.pwr_eq
  | .cfg, _ => h.cfg_eq
  | .pins, _ => h.pins_eq
  | .shadow, _ => h.shadow_eq
  | .free, _ => h.free_eq
  | .pending, _ => h.pending_eq

end Sys2Proof.Machine
end

