-- ==== Sys2Proof/Laws/TxnK.lean ====
section
/-! SUPPORT. What a failed transaction of the cell chain leaves alone. -/

namespace Sys2Proof.Machine

/-- The parts of the state that are kept. -/
structure State.TxnKPart where
  time : TimeRt
  inp : InputRt
  wq : List PairWrite
  lpe : LpeRt
  prf : PrfRt
  site : SiteRt
  lks : LksRt
  link : LinkRt
  est : EstRt
  arr : ArrRt
  mgp : MgpRt
  sec : SecRt
  pwr : PwrRt
  cfg : CfgRt
  shadow : List (Nat × Nat × Word)
  free : Nat
  pending : List Instr

/-- Those parts of a state. -/
def State.partTxnK (s : State) : State.TxnKPart :=
  ⟨s.time, s.inp, s.wq, s.lpe, s.prf, s.site, s.lks, s.link, s.est, s.arr, s.mgp, s.sec, s.pwr, s.cfg, s.shadow, s.free, s.pending⟩

/-- Those parts are the ones given. -/
structure TxnK (u : State.TxnKPart) (s : State) : Prop where
  eq : s.partTxnK = u

variable {u : State.TxnKPart} {s : State}

theorem TxnK.upd {regs time inp wq lpe hmp prf site zfb wgl lks link chn est arr flt mgp sec pwr cfg pins shadow free pending} (h : TxnK u s) (h_regs : regs = s.regs) (h_time : time = s.time) (h_inp : inp = s.inp) (h_wq : wq = s.wq) (h_lpe : lpe = s.lpe) (h_prf : prf = s.prf) (h_site : site = s.site) (h_lks : lks = s.lks) (h_link : link = s.link) (h_est : est = s.est) (h_arr : arr = s.arr) (h_mgp : mgp = s.mgp) (h_sec : sec = s.sec) (h_pwr : pwr = s.pwr) (h_cfg : cfg = s.cfg) (h_shadow : shadow = s.shadow) (h_free : free = s.free) (h_pending : pending = s.pending) :
    TxnK u (State.mk regs time inp wq lpe hmp prf site zfb wgl lks link chn est arr flt mgp sec pwr cfg pins shadow free pending) := by
  subst h_regs h_time h_inp h_wq h_lpe h_prf h_site h_lks h_link h_est h_arr h_mgp h_sec h_pwr h_cfg h_shadow h_free h_pending
  exact ⟨h.eq⟩

theorem TxnK.rfl' (s : State) : TxnK s.partTxnK s := ⟨rfl⟩

theorem TxnK.ite {c : Prop} {_ : Decidable c} {a b : State} (ha : c → TxnK u a) (hb : ¬c → TxnK u b) : TxnK u (if c then a else b) := by
  split
  · exact ha ‹_›
  · exact hb ‹_›

theorem TxnK.dite {c : Prop} {_ : Decidable c} {a : c → State} {b : ¬c → State} (ha : ∀ h, TxnK u (a h)) (hb : ∀ h, TxnK u (b h)) :
    TxnK u (if h : c then a h else b h) := by
  split
  · exact ha _
  · exact hb _

theorem TxnK.iteP {α : Type} {c : Prop} {_ : Decidable c} {a b : State × α} (ha : c → TxnK u a.1) (hb : ¬c → TxnK u b.1) : TxnK u (if c then a else b).1 := by
  split
  · exact ha ‹_›
  · exact hb ‹_›

theorem TxnK.diteP {α : Type} {c : Prop} {_ : Decidable c} {a : c → State × α} {b : ¬c → State × α} (ha : ∀ h, TxnK u (a h).1) (hb : ∀ h, TxnK u (b h).1) :
    TxnK u (if h : c then a h else b h).1 := by
  split
  · exact ha _
  · exact hb _

theorem TxnK.foldl {α : Type} {l : List α} {f : State → α → State} (hf : ∀ t a, TxnK u t → TxnK u (f t a)) (h : TxnK u s) : TxnK u (l.foldl f s) := by
  induction l generalizing s with
  | nil => exact h
  | cons a l ih => exact ih (hf s a h)

theorem TxnK.each {n : Nat} {f : Nat → State → State} (hf : ∀ i t, TxnK u t → TxnK u (f i t)) (h : TxnK u s) : TxnK u (State.each n f s) :=
  TxnK.foldl (fun t a ht => hf a t ht) h

theorem TxnK.over {α : Type} {l : List α} {f : α → State → State} (hf : ∀ i t, TxnK u t → TxnK u (f i t)) (h : TxnK u s) : TxnK u (State.over l f s) :=
  TxnK.foldl (fun t a ht => hf a t ht) h

theorem TxnK.iff {c : Bool} {f : State → State} (hf : ∀ t, TxnK u t → TxnK u (f t)) (h : TxnK u s) : TxnK u (State.iff c f s) := by
  unfold State.iff
  split
  · exact hf s h
  · exact h

theorem TxnK.wr (h : TxnK u s) (a w) : TxnK u (s.wr a w) := ⟨h.eq⟩

theorem TxnK.time_eq (h : TxnK u s) : s.time = u.time := congrArg State.TxnKPart.time h.eq
theorem TxnK.inp_eq (h : TxnK u s) : s.inp = u.inp := congrArg State.TxnKPart.inp h.eq
theorem TxnK.wq_eq (h : TxnK u s) : s.wq = u.wq := congrArg State.TxnKPart.wq h.eq
theorem TxnK.lpe_eq (h : TxnK u s) : s.lpe = u.lpe := congrArg State.TxnKPart.lpe h.eq
theorem TxnK.prf_eq (h : TxnK u s) : s.prf = u.prf := congrArg State.TxnKPart.prf h.eq
theorem TxnK.site_eq (h : TxnK u s) : s.site = u.site := congrArg State.TxnKPart.site h.eq
theorem TxnK.lks_eq (h : TxnK u s) : s.lks = u.lks := congrArg State.TxnKPart.lks h.eq
theorem TxnK.link_eq (h : TxnK u s) : s.link = u.link := congrArg State.TxnKPart.link h.eq
theorem TxnK.est_eq (h : TxnK u s) : s.est = u.est := congrArg State.TxnKPart.est h.eq
theorem TxnK.arr_eq (h : TxnK u s) : s.arr = u.arr := congrArg State.TxnKPart.arr h.eq
theorem TxnK.mgp_eq (h : TxnK u s) : s.mgp = u.mgp := congrArg State.TxnKPart.mgp h.eq
theorem TxnK.sec_eq (h : TxnK u s) : s.sec = u.sec := congrArg State.TxnKPart.sec h.eq
theorem TxnK.pwr_eq (h : TxnK u s) : s.pwr = u.pwr := congrArg State.TxnKPart.pwr h.eq
theorem TxnK.cfg_eq (h : TxnK u s) : s.cfg = u.cfg := congrArg State.TxnKPart.cfg h.eq
theorem TxnK.shadow_eq (h : TxnK u s) : s.shadow = u.shadow := congrArg State.TxnKPart.shadow h.eq
theorem TxnK.free_eq (h : TxnK u s) : s.free = u.free := congrArg State.TxnKPart.free h.eq
theorem TxnK.pending_eq (h : TxnK u s) : s.pending = u.pending := congrArg State.TxnKPart.pending h.eq

theorem TxnK.put (h : TxnK u s) (a1 a2) : TxnK u (State.put s a1 a2) := by
  unfold State.put
  refine TxnK.wr ?_ ..
  exact h

theorem TxnK.setFlag (h : TxnK u s) (a1 a2) : TxnK u (State.setFlag s a1 a2) := by
  unfold State.setFlag
  refine TxnK.put ?_ ..
  exact h

theorem TxnK.bump (h : TxnK u s) (a1) : TxnK u (State.bump s a1) := by
  unfold State.bump
  refine TxnK.put ?_ ..
  exact h

theorem TxnK.put64 (h : TxnK u s) (a1 a2 a3) : TxnK u (State.put64 s a1 a2 a3) := by
  unfold State.put64
  refine TxnK.wr ?_ ..
  refine TxnK.wr ?_ ..
  exact h

theorem TxnK.setOs (h : TxnK u s) (a1 a2) : TxnK u (State.setOs s a1 a2) := by
  unfold State.setOs
  refine TxnK.upd ?_ rfl rfl rfl rfl rfl rfl rfl rfl rfl rfl rfl rfl rfl rfl rfl rfl rfl rfl
  exact h

theorem TxnK.putOs (h : TxnK u s) (a1 a2 a3) : TxnK u (State.putOs s a1 a2 a3) := by
  unfold State.putOs
  refine TxnK.put ?_ ..
  refine TxnK.put ?_ ..
  exact h

theorem TxnK.setLane (h : TxnK u s) (a1 a2) : TxnK u (State.setLane s a1 a2) := by
  unfold State.setLane
  refine TxnK.dite (fun _ => ?_) (fun _ => ?_)
  · refine TxnK.upd ?_ rfl rfl rfl rfl rfl rfl rfl rfl rfl rfl rfl rfl rfl rfl rfl rfl rfl rfl
    exact h
  · exact h

theorem TxnK.capture (h : TxnK u s) (a1 a2 a3 a4) : TxnK u (State.capture s a1 a2 a3 a4) := by
  unfold State.capture
  extract_lets +onlyGivenNames -merge -useContext -underBinder x1
  refine TxnK.ite (fun _ => ?_) (fun _ => ?_)
  · extract_lets +onlyGivenNames -merge -useContext -underBinder x2
    extract_lets +onlyGivenNames -merge -useContext -underBinder x3
    have hx3 : TxnK u x3 := by
      unfold x3
      refine TxnK.wr ?_ ..
      exact h
    extract_lets +onlyGivenNames -merge -useContext -underBinder x4
    have hx4 : TxnK u x4 := by
      unfold x4
      refine TxnK.put64 ?_ ..
      exact hx3
    refine TxnK.put ?_ ..
    exact hx4
  · refine TxnK.ite (fun _ => ?_) (fun _ => ?_)
    · exact h
    · extract_lets +onlyGivenNames -merge -useContext -underBinder x5
      have hx5 : TxnK u x5 := by
        unfold x5
        refine TxnK.wr ?_ ..
        exact h
      extract_lets +onlyGivenNames -merge -useContext -underBinder x6
      have hx6 : TxnK u x6 := by
        unfold x6
        refine TxnK.wr ?_ ..
        exact hx5
      refine TxnK.put64 ?_ ..
      exact hx6

theorem TxnK.restoreShed (h : TxnK u s) (a1) : TxnK u (State.restoreShed s a1) := by
  unfold State.restoreShed
  refine TxnK.each (fun _ _ ht1 => ?_) ?_
  · refine TxnK.ite (fun _ => ?_) (fun _ => ?_)
    · refine TxnK.putOs ?_ ..
      exact ht1
    · exact ht1
  · exact h

theorem TxnK.leaveBatch (h : TxnK u s) (a1) : TxnK u (State.leaveBatch s a1) := by
  unfold State.leaveBatch
  refine TxnK.ite (fun _ => ?_) (fun _ => ?_)
  · refine TxnK.put ?_ ..
    refine TxnK.setFlag ?_ ..
    exact h
  · exact h

theorem TxnK.fenceOs (h : TxnK u s) (a1 a2) : TxnK u (State.fenceOs s a1 a2) := by
  unfold State.fenceOs
  extract_lets +onlyGivenNames -merge -useContext -underBinder x1
  have hx1 : TxnK u x1 := by
    unfold x1
    refine TxnK.setOs ?_ ..
    refine TxnK.leaveBatch ?_ ..
    refine TxnK.put ?_ ..
    refine TxnK.put ?_ ..
    exact h
  refine TxnK.ite (fun _ => ?_) (fun _ => ?_)
  · refine TxnK.restoreShed ?_ ..
    exact hx1
  · exact hx1

theorem TxnK.fenceSs (h : TxnK u s) (a1) : TxnK u (State.fenceSs s a1) := by
  unfold State.fenceSs
  refine TxnK.upd ?_ rfl rfl rfl rfl rfl rfl rfl rfl rfl rfl rfl rfl rfl rfl rfl rfl rfl rfl
  exact h

theorem TxnK.fenceFe (h : TxnK u s) (a1) : TxnK u (State.fenceFe s a1) := by
  unfold State.fenceFe
  refine TxnK.upd ?_ rfl rfl rfl rfl rfl rfl rfl rfl rfl rfl rfl rfl rfl rfl rfl rfl rfl rfl
  exact h

theorem TxnK.fenceStr (h : TxnK u s) (a1) : TxnK u (State.fenceStr s a1) := by
  unfold State.fenceStr
  extract_lets +onlyGivenNames -merge -useContext -underBinder x1
  extract_lets +onlyGivenNames -merge -useContext -underBinder x2
  have hx2 : TxnK u x2 := by
    unfold x2
    refine TxnK.upd ?_ rfl rfl rfl rfl rfl rfl rfl rfl rfl rfl rfl rfl rfl rfl rfl rfl rfl rfl
    exact h
  refine TxnK.fenceSs ?_ ..
  refine TxnK.fenceSs ?_ ..
  exact hx2

theorem TxnK.zoneFenceStage (h : TxnK u s) (a1 a2) : TxnK u (State.zoneFenceStage s a1 a2) := by
  unfold State.zoneFenceStage
  extract_lets +onlyGivenNames -merge -useContext -underBinder x1
  refine TxnK.ite (fun _ => ?_) (fun _ => ?_)
  · refine TxnK.setOs ?_ ..
    refine TxnK.putOs ?_ ..
    exact h
  · refine TxnK.ite (fun _ => ?_) (fun _ => ?_)
    · refine TxnK.setOs ?_ ..
      refine TxnK.putOs ?_ ..
      exact h
    · refine TxnK.ite (fun _ => ?_) (fun _ => ?_)
      · refine TxnK.setOs ?_ ..
        refine TxnK.putOs ?_ ..
        exact h
      · exact h

theorem TxnK.fenceZone (h : TxnK u s) (a1) : TxnK u (State.fenceZone s a1) := by
  unfold State.fenceZone
  extract_lets +onlyGivenNames -merge -useContext -underBinder x1
  extract_lets +onlyGivenNames -merge -useContext -underBinder x2
  have hx2 : TxnK u x2 := by
    unfold x2
    refine TxnK.upd ?_ rfl rfl rfl rfl rfl rfl rfl rfl rfl rfl rfl rfl rfl rfl rfl rfl rfl rfl
    exact h
  extract_lets +onlyGivenNames -merge -useContext -underBinder x3
  have hx3 : TxnK u x3 := by
    unfold x3
    refine TxnK.foldl (fun _ _ ht4 => ?_) ?_
    · refine TxnK.zoneFenceStage ?_ ..
      exact ht4
    · exact hx2
  extract_lets +onlyGivenNames -merge -useContext -underBinder x5
  have hx5 : TxnK u x5 := by
    unfold x5
    refine TxnK.setFlag ?_ ..
    exact hx3
  extract_lets +onlyGivenNames -merge -useContext -underBinder x6
  refine TxnK.upd (s := x5) ?_ rfl rfl rfl rfl rfl rfl rfl rfl rfl rfl rfl rfl rfl rfl rfl rfl rfl rfl
  exact hx5

theorem TxnK.fenceGroup (h : TxnK u s) (a1) : TxnK u (State.fenceGroup s a1) := by
  unfold State.fenceGroup
  refine TxnK.foldl (fun _ _ ht1 => ?_) ?_
  · refine TxnK.ite (fun _ => ?_) (fun _ => ?_)
    · refine TxnK.fenceFe ?_ ..
      exact ht1
    · exact ht1
  · exact h

theorem TxnK.fenceLane (h : TxnK u s) (a1) : TxnK u (State.fenceLane s a1) := by
  unfold State.fenceLane
  extract_lets +onlyGivenNames -merge -useContext -underBinder x1
  have hx1 : TxnK u x1 := by
    unfold x1
    refine TxnK.setFlag ?_ ..
    exact h
  extract_lets +onlyGivenNames -merge -useContext -underBinder x2
  have hx2 : TxnK u x2 := by
    unfold x2
    refine TxnK.setFlag ?_ ..
    exact hx1
  refine TxnK.setLane ?_ ..
  exact hx2

theorem TxnK.fenceCore (h : TxnK u s) (a1 a2) : TxnK u (State.fenceCore s a1 a2) := by
  unfold State.fenceCore
  refine TxnK.put ?_ ..
  refine TxnK.put ?_ ..
  exact h

theorem TxnK.fenceUnit (h : TxnK u s) (a1) : TxnK u (State.fenceUnit s a1) := by
  unfold State.fenceUnit
  extract_lets +onlyGivenNames -merge -useContext -underBinder x1
  split
  · refine TxnK.dite (fun _ => ?_) (fun _ => ?_)
    · refine TxnK.fenceOs ?_ ..
      exact h
    · exact h
  · refine TxnK.dite (fun _ => ?_) (fun _ => ?_)
    · refine TxnK.fenceSs ?_ ..
      exact h
    · exact h
  · refine TxnK.dite (fun _ => ?_) (fun _ => ?_)
    · refine TxnK.fenceFe ?_ ..
      exact h
    · exact h
  · refine TxnK.fenceGroup ?_ ..
    exact h
  · refine TxnK.dite (fun _ => ?_) (fun _ => ?_)
    · refine TxnK.fenceZone ?_ ..
      exact h
    · exact h
  · refine TxnK.dite (fun _ => ?_) (fun _ => ?_)
    · refine TxnK.fenceStr ?_ ..
      exact h
    · exact h
  · refine TxnK.put ?_ ..
    refine TxnK.put ?_ ..
    exact h
  · refine TxnK.dite (fun _ => ?_) (fun _ => ?_)
    · refine TxnK.fenceLane ?_ ..
      exact h
    · exact h
  · refine TxnK.fenceCore ?_ ..
    exact h
  · refine TxnK.put ?_ ..
    exact h
  · refine TxnK.dite (fun _ => ?_) (fun _ => ?_)
    · refine TxnK.upd ?_ rfl rfl rfl rfl rfl rfl rfl rfl rfl rfl rfl rfl rfl rfl rfl rfl rfl rfl
      exact h
    · exact h
  · exact h

theorem TxnK.enterSafe (h : TxnK u s) : TxnK u (State.enterSafe s) := by
  unfold State.enterSafe
  extract_lets +onlyGivenNames -merge -useContext -underBinder x1
  extract_lets +onlyGivenNames -merge -useContext -underBinder x2
  extract_lets +onlyGivenNames -merge -useContext -underBinder x3
  have hx3 : TxnK u x3 := by
    unfold x3
    refine TxnK.upd ?_ rfl rfl rfl rfl rfl rfl rfl rfl rfl rfl rfl rfl rfl rfl rfl rfl rfl rfl
    exact h
  extract_lets +onlyGivenNames -merge -useContext -underBinder x4
  have hx4 : TxnK u x4 := by
    unfold x4
    refine TxnK.each (fun _ _ ht5 => ?_) ?_
    · refine TxnK.put ?_ ..
      exact ht5
    · exact hx3
  extract_lets +onlyGivenNames -merge -useContext -underBinder x6
  have hx6 : TxnK u x6 := by
    unfold x6
    refine TxnK.each (fun _ _ ht7 => ?_) ?_
    · refine TxnK.put ?_ ..
      exact ht7
    · exact hx4
  refine TxnK.setFlag ?_ ..
  refine TxnK.put ?_ ..
  exact hx6

theorem TxnK.startDump (h : TxnK u s) (a1 a2) : TxnK u (State.startDump s a1 a2) := by
  unfold State.startDump
  refine TxnK.ite (fun _ => ?_) (fun _ => ?_)
  · refine TxnK.upd ?_ rfl rfl rfl rfl rfl rfl rfl rfl rfl rfl rfl rfl rfl rfl rfl rfl rfl rfl
    exact h
  · refine TxnK.setFlag ?_ ..
    refine TxnK.upd ?_ rfl rfl rfl rfl rfl rfl rfl rfl rfl rfl rfl rfl rfl rfl rfl rfl rfl rfl
    exact h

theorem TxnK.halt (h : TxnK u s) (a1) : TxnK u (State.halt s a1) := by
  unfold State.halt
  extract_lets +onlyGivenNames -merge -useContext -underBinder x1
  have hx1 : TxnK u x1 := by
    unfold x1
    refine TxnK.setFlag ?_ ..
    exact h
  extract_lets +onlyGivenNames -merge -useContext -underBinder x2
  have hx2 : TxnK u x2 := by
    unfold x2
    refine TxnK.enterSafe ?_ ..
    exact hx1
  refine TxnK.ite (fun _ => ?_) (fun _ => ?_)
  · refine TxnK.startDump ?_ ..
    refine TxnK.upd (s := x2) ?_ rfl rfl rfl rfl rfl rfl rfl rfl rfl rfl rfl rfl rfl rfl rfl rfl rfl rfl
    exact hx2
  · exact hx2

theorem TxnK.setPending (h : TxnK u s) (a1 a2 a3 a4) : TxnK u (State.setPending s a1 a2 a3 a4) := by
  unfold State.setPending
  extract_lets +onlyGivenNames -merge -useContext -underBinder x1
  extract_lets +onlyGivenNames -merge -useContext -underBinder x2
  have hx2 : TxnK u x2 := by
    unfold x2
    refine TxnK.put ?_ ..
    exact h
  refine TxnK.upd (s := x2) ?_ rfl rfl rfl rfl rfl rfl rfl rfl rfl rfl rfl rfl rfl rfl rfl rfl rfl rfl
  exact hx2

theorem TxnK.countFault (h : TxnK u s) (a1 a2 a3 a4 a5) : TxnK u (State.countFault s a1 a2 a3 a4 a5) := by
  unfold State.countFault
  extract_lets +onlyGivenNames -merge -useContext -underBinder x1
  have hx1 : TxnK u x1 := by
    unfold x1
    refine TxnK.capture ?_ ..
    refine TxnK.bump ?_ ..
    exact h
  refine TxnK.ite (fun _ => ?_) (fun _ => ?_)
  · refine TxnK.upd (s := x1) ?_ rfl rfl rfl rfl rfl rfl rfl rfl rfl rfl rfl rfl rfl rfl rfl rfl rfl rfl
    exact hx1
  · exact hx1

theorem TxnK.recordAt (h : TxnK u s) (a1 a2 a3 a4 a5 a6 a7) : TxnK u (State.recordAt s a1 a2 a3 a4 a5 a6 a7) := by
  unfold State.recordAt
  extract_lets +onlyGivenNames -merge -useContext -underBinder x1
  extract_lets +onlyGivenNames -merge -useContext -underBinder x2
  extract_lets +onlyGivenNames -merge -useContext -underBinder x3
  extract_lets +onlyGivenNames -merge -useContext -underBinder x4
  have hx4 : TxnK u x4 := by
    unfold x4
    refine TxnK.countFault ?_ ..
    exact h
  refine TxnK.ite (fun _ => ?_) (fun _ => ?_)
  · refine TxnK.halt ?_ ..
    exact hx4
  · extract_lets +onlyGivenNames -merge -useContext -underBinder x5
    have hx5 : TxnK u x5 := by
      unfold x5
      refine TxnK.ite (fun _ => ?_) (fun _ => ?_)
      · exact hx4
      · refine TxnK.setPending ?_ ..
        exact hx4
    refine TxnK.ite (fun _ => ?_) (fun _ => ?_)
    · refine TxnK.fenceUnit ?_ ..
      exact hx5
    · exact hx5

theorem TxnK.record (h : TxnK u s) (a1 a2 a3 a4) : TxnK u (State.record s a1 a2 a3 a4) := by
  unfold State.record
  refine TxnK.recordAt ?_ ..
  exact h

theorem TxnK.setRing (h : TxnK u s) (a1 a2) : TxnK u (State.setRing s a1 a2) := by
  unfold State.setRing
  refine TxnK.upd ?_ rfl rfl rfl rfl rfl rfl rfl rfl rfl rfl rfl rfl rfl rfl rfl rfl rfl rfl
  exact h

theorem TxnK.setNode (h : TxnK u s) (a1 a2 a3) : TxnK u (State.setNode s a1 a2 a3) := by
  unfold State.setNode
  refine TxnK.upd ?_ rfl rfl rfl rfl rfl rfl rfl rfl rfl rfl rfl rfl rfl rfl rfl rfl rfl rfl
  exact h

theorem TxnK.emit (h : TxnK u s) (a1 a2) : TxnK u (State.emit s a1 a2) := by
  unfold State.emit
  refine TxnK.ite (fun _ => ?_) (fun _ => ?_)
  · exact h
  · refine TxnK.setRing ?_ ..
    exact h

theorem TxnK.transact (h : TxnK u s) (a1 a2 a3 a4 a5) : TxnK u (State.transact s a1 a2 a3 a4 a5) := by
  unfold State.transact
  extract_lets +onlyGivenNames -merge -useContext -underBinder x1
  extract_lets +onlyGivenNames -merge -useContext -underBinder x2
  extract_lets +onlyGivenNames -merge -useContext -underBinder x3
  extract_lets +onlyGivenNames -merge -useContext -underBinder x4
  extract_lets +onlyGivenNames -merge -useContext -underBinder x5
  have hx5 : TxnK u x5 := by
    unfold x5
    refine TxnK.setRing ?_ ..
    exact h
  refine TxnK.emit ?_ ..
  exact hx5

theorem TxnK.txnCounted (h : TxnK u s) (a1 a2) : TxnK u (State.txnCounted s a1 a2) := by
  unfold State.txnCounted
  refine TxnK.bump ?_ ..
  refine TxnK.ite (fun _ => ?_) (fun _ => ?_)
  · refine TxnK.bump ?_ ..
    exact h
  · exact h

theorem TxnK.txnNoted (h : TxnK u s) (a1) : TxnK u (State.txnNoted s a1) := by
  unfold State.txnNoted
  refine TxnK.ite (fun _ => ?_) (fun _ => ?_)
  · exact h
  · refine TxnK.record ?_ ..
    refine TxnK.setRing ?_ ..
    exact h

theorem TxnK.txnFail (h : TxnK u s) (a1 a2 a3) : TxnK u (State.txnFail s a1 a2 a3) := by
  unfold State.txnFail
  extract_lets +onlyGivenNames -merge -useContext -underBinder x1
  have hx1 : TxnK u x1 := by
    unfold x1
    refine TxnK.txnNoted ?_ ..
    refine TxnK.txnCounted ?_ ..
    exact h
  extract_lets +onlyGivenNames -merge -useContext -underBinder x2
  extract_lets +onlyGivenNames -merge -useContext -underBinder x3
  have hx3 : TxnK u x3 := by
    unfold x3
    refine TxnK.setRing ?_ ..
    exact hx1
  refine TxnK.dite (fun _ => ?_) (fun _ => ?_)
  · extract_lets +onlyGivenNames -merge -useContext -underBinder x4
    extract_lets +onlyGivenNames -merge -useContext -underBinder x5
    extract_lets +onlyGivenNames -merge -useContext -underBinder x6
    have hx6 : TxnK u x6 := by
      unfold x6
      refine TxnK.setNode ?_ ..
      exact hx3
    refine TxnK.ite (fun _ => ?_) (fun _ => ?_)
    · refine TxnK.transact ?_ ..
      exact hx6
    · exact hx6
  · exact hx3

/-- What those functions may change, as a frame names it. -/
theorem TxnK.within {t : State} (h : TxnK s.partTxnK t) : t.within s [.regs, .hmp, .zfb, .wgl, .chn, .flt, .pins]
  | .regs, hp => (hp (by decide)).elim
  | .time, _ => h.time_eq
  | .inp, _ => h.inp_eq
  | .wq, _ => h.wq_eq
  | .lpe, _ => h.lpe_eq
  | .hmp, hp => (hp (by decide)).elim
  | .prf, _ => h.prf_eq
  | .site, _ => h.site_eq
  | .zfb, hp => (hp (by decide)).elim
  | .wgl, hp => (hp (by decide)).elim
  | .lks, _ => h.lks_eq
  | .link, _ => h.link_eq
  | .chn, hp => (hp (by decide)).elim
  | .est, _ => h.est_eq
  | .arr, _ => h.arr_eq
  | .flt, hp => (hp (by decide)).elim
  | .mgp, _ => h.mgp_eq
  | .sec, _ => h.sec_eq
  | .pwr, _ => h.pwr_eq
  | .cfg, _ => h.cfg_eq
  | .pins, hp => (hp (by decide)).elim
  | .shadow, _ => h.shadow_eq
  | .free, _ => h.free_eq
  | .pending, _ => h.pending_eq

end Sys2Proof.Machine
end

