-- ==== Sys2Proof/Laws/Vsel.lean ====
section
/-! SUPPORT. What the sampling of the VSEL pins leaves alone. -/

namespace Sys2Proof.Machine

/-- The parts of the state that are kept. -/
structure State.VselPart where
  time : TimeRt
  inp : InputRt
  wq : List PairWrite
  lpe : LpeRt
  hmp : HmpRt
  prf : PrfRt
  site : SiteRt
  zfb : ZfbRt
  wgl : WglRt
  lks : LksRt
  link : LinkRt
  chn : ChnRt
  est : EstRt
  arr : ArrRt
  flt : FltRt
  mgp : MgpRt
  sec : SecRt
  pwr : PwrRt
  cfg : CfgRt
  pins : PinRt
  shadow : List (Nat × Nat × Word)
  free : Nat
  pending : List Instr

/-- Those parts of a state. -/
def State.partVsel (s : State) : State.VselPart :=
  ⟨s.time, s.inp, s.wq, s.lpe, s.hmp, s.prf, s.site, s.zfb, s.wgl, s.lks, s.link, s.chn, s.est, s.arr, s.flt, s.mgp, s.sec, s.pwr, s.cfg, s.pins, s.shadow, s.free, s.pending⟩

/-- Those parts are the ones given. -/
structure Vsel (u : State.VselPart) (s : State) : Prop where
  eq : s.partVsel = u

variable {u : State.VselPart} {s : State}

theorem Vsel.upd {regs time inp wq lpe hmp prf site zfb wgl lks link chn est arr flt mgp sec pwr cfg pins shadow free pending} (h : Vsel u s) (h_regs : regs = s.regs) (h_time : time = s.time) (h_inp : inp = s.inp) (h_wq : wq = s.wq) (h_lpe : lpe = s.lpe) (h_hmp : hmp = s.hmp) (h_prf : prf = s.prf) (h_site : site = s.site) (h_zfb : zfb = s.zfb) (h_wgl : wgl = s.wgl) (h_lks : lks = s.lks) (h_link : link = s.link) (h_chn : chn = s.chn) (h_est : est = s.est) (h_arr : arr = s.arr) (h_flt : flt = s.flt) (h_mgp : mgp = s.mgp) (h_sec : sec = s.sec) (h_pwr : pwr = s.pwr) (h_cfg : cfg = s.cfg) (h_pins : pins = s.pins) (h_shadow : shadow = s.shadow) (h_free : free = s.free) (h_pending : pending = s.pending) :
    Vsel u (State.mk regs time inp wq lpe hmp prf site zfb wgl lks link chn est arr flt mgp sec pwr cfg pins shadow free pending) := by
  subst h_regs h_time h_inp h_wq h_lpe h_hmp h_prf h_site h_zfb h_wgl h_lks h_link h_chn h_est h_arr h_flt h_mgp h_sec h_pwr h_cfg h_pins h_shadow h_free h_pending
  exact ⟨h.eq⟩

theorem Vsel.rfl' (s : State) : Vsel s.partVsel s := ⟨rfl⟩

/-- What a command answers keeps them. -/
def Vselo (u : State.VselPart) (o : Host.Outcome State Fault Refusal) : Prop := ∀ t, o = Host.Outcome.next t → Vsel u t

theorem Vselo.next (h : Vsel u s) : Vselo u (Host.Outcome.next s) := fun t e => by cases e; exact h

theorem Vsel.ite {c : Prop} {_ : Decidable c} {a b : State} (ha : c → Vsel u a) (hb : ¬c → Vsel u b) : Vsel u (if c then a else b) := by
  split
  · exact ha ‹_›
  · exact hb ‹_›

theorem Vsel.dite {c : Prop} {_ : Decidable c} {a : c → State} {b : ¬c → State} (ha : ∀ h, Vsel u (a h)) (hb : ∀ h, Vsel u (b h)) :
    Vsel u (if h : c then a h else b h) := by
  split
  · exact ha _
  · exact hb _

theorem Vsel.iteP {α : Type} {c : Prop} {_ : Decidable c} {a b : State × α} (ha : c → Vsel u a.1) (hb : ¬c → Vsel u b.1) : Vsel u (if c then a else b).1 := by
  split
  · exact ha ‹_›
  · exact hb ‹_›

theorem Vsel.diteP {α : Type} {c : Prop} {_ : Decidable c} {a : c → State × α} {b : ¬c → State × α} (ha : ∀ h, Vsel u (a h).1) (hb : ∀ h, Vsel u (b h).1) :
    Vsel u (if h : c then a h else b h).1 := by
  split
  · exact ha _
  · exact hb _

theorem Vsel.foldl {α : Type} {l : List α} {f : State → α → State} (hf : ∀ t a, Vsel u t → Vsel u (f t a)) (h : Vsel u s) : Vsel u (l.foldl f s) := by
  induction l generalizing s with
  | nil => exact h
  | cons a l ih => exact ih (hf s a h)

theorem Vsel.each {n : Nat} {f : Nat → State → State} (hf : ∀ i t, Vsel u t → Vsel u (f i t)) (h : Vsel u s) : Vsel u (State.each n f s) :=
  Vsel.foldl (fun t a ht => hf a t ht) h

theorem Vsel.over {α : Type} {l : List α} {f : α → State → State} (hf : ∀ i t, Vsel u t → Vsel u (f i t)) (h : Vsel u s) : Vsel u (State.over l f s) :=
  Vsel.foldl (fun t a ht => hf a t ht) h

theorem Vsel.iff {c : Bool} {f : State → State} (hf : ∀ t, Vsel u t → Vsel u (f t)) (h : Vsel u s) : Vsel u (State.iff c f s) := by
  unfold State.iff
  split
  · exact hf s h
  · exact h

theorem Vsel.wr (h : Vsel u s) (a w) : Vsel u (s.wr a w) := ⟨h.eq⟩

theorem Vsel.time_eq (h : Vsel u s) : s.time = u.time := congrArg State.VselPart.time h.eq
theorem Vsel.inp_eq (h : Vsel u s) : s.inp = u.inp := congrArg State.VselPart.inp h.eq
theorem Vsel.wq_eq (h : Vsel u s) : s.wq = u.wq := congrArg State.VselPart.wq h.eq
theorem Vsel.lpe_eq (h : Vsel u s) : s.lpe = u.lpe := congrArg State.VselPart.lpe h.eq
theorem Vsel.hmp_eq (h : Vsel u s) : s.hmp = u.hmp := congrArg State.VselPart.hmp h.eq
theorem Vsel.prf_eq (h : Vsel u s) : s.prf = u.prf := congrArg State.VselPart.prf h.eq
theorem Vsel.site_eq (h : Vsel u s) : s.site = u.site := congrArg State.VselPart.site h.eq
theorem Vsel.zfb_eq (h : Vsel u s) : s.zfb = u.zfb := congrArg State.VselPart.zfb h.eq
theorem Vsel.wgl_eq (h : Vsel u s) : s.wgl = u.wgl := congrArg State.VselPart.wgl h.eq
theorem Vsel.lks_eq (h : Vsel u s) : s.lks = u.lks := congrArg State.VselPart.lks h.eq
theorem Vsel.link_eq (h : Vsel u s) : s.link = u.link := congrArg State.VselPart.link h.eq
theorem Vsel.chn_eq (h : Vsel u s) : s.chn = u.chn := congrArg State.VselPart.chn h.eq
theorem Vsel.est_eq (h : Vsel u s) : s.est = u.est := congrArg State.VselPart.est h.eq
theorem Vsel.arr_eq (h : Vsel u s) : s.arr = u.arr := congrArg State.VselPart.arr h.eq
theorem Vsel.flt_eq (h : Vsel u s) : s.flt = u.flt := congrArg State.VselPart.flt h.eq
theorem Vsel.mgp_eq (h : Vsel u s) : s.mgp = u.mgp := congrArg State.VselPart.mgp h.eq
theorem Vsel.sec_eq (h : Vsel u s) : s.sec = u.sec := congrArg State.VselPart.sec h.eq
theorem Vsel.pwr_eq (h : Vsel u s) : s.pwr = u.pwr := congrArg State.VselPart.pwr h.eq
theorem Vsel.cfg_eq (h : Vsel u s) : s.cfg = u.cfg := congrArg State.VselPart.cfg h.eq
theorem Vsel.pins_eq (h : Vsel u s) : s.pins = u.pins := congrArg State.VselPart.pins h.eq
theorem Vsel.shadow_eq (h : Vsel u s) : s.shadow = u.shadow := congrArg State.VselPart.shadow h.eq
theorem Vsel.free_eq (h : Vsel u s) : s.free = u.free := congrArg State.VselPart.free h.eq
theorem Vsel.pending_eq (h : Vsel u s) : s.pending = u.pending := congrArg State.VselPart.pending h.eq

theorem Vsel.put (h : Vsel u s) (a1 a2) : Vsel u (State.put s a1 a2) := by
  unfold State.put
  refine Vsel.wr ?_ ..
  exact h

theorem Vsel.setFlag (h : Vsel u s) (a1 a2) : Vsel u (State.setFlag s a1 a2) := by
  unfold State.setFlag
  refine Vsel.put ?_ ..
  exact h

theorem Vsel.acceptCode (h : Vsel u s) (a1 a2) : Vsel u (State.acceptCode s a1 a2) := by
  unfold State.acceptCode
  refine Vsel.setFlag ?_ ..
  refine Vsel.put ?_ ..
  exact h

theorem Vsel.vselZone (h : Vsel u s) (a1) : Vsel u (State.vselZone s a1) := by
  unfold State.vselZone
  extract_lets +onlyGivenNames -merge -useContext -underBinder x1
  have hx1 : Vsel u x1 := by
    unfold x1
    refine Vsel.put ?_ ..
    refine Vsel.put ?_ ..
    exact h
  refine Vsel.ite (fun _ => ?_) (fun _ => ?_)
  · refine Vsel.acceptCode ?_ ..
    exact hx1
  · exact hx1

theorem Vsel.execVselSample_keeps (h : Vsel u s) : Vselo u (execVselSample s) := by
  unfold execVselSample
  refine Vselo.next ?_
  refine Vsel.ite (fun _ => ?_) (fun _ => ?_)
  · refine Vsel.vselZone ?_ ..
    refine Vsel.vselZone ?_ ..
    refine Vsel.vselZone ?_ ..
    refine Vsel.vselZone ?_ ..
    exact h
  · exact h

/-- What those functions may change, as a frame names it. -/
theorem Vsel.within {t : State} (h : Vsel s.partVsel t) : t.within s [.regs]
  | .regs, hp => (hp (by decide)).elim
  | .time, _ => h.time_eq
  | .inp, _ => h.inp_eq
  | .wq, _ => h.wq_eq
  | .lpe, _ => h.lpe_eq
  | .hmp, _ => h.hmp_eq
  | .prf, _ => h.prf_eq
  | .site, _ => h.site_eq
  | .zfb, _ => h.zfb_eq
  | .wgl, _ => h.wgl_eq
  | .lks, _ => h.lks_eq
  | .link, _ => h.link_eq
  | .chn, _ => h.chn_eq
  | .est, _ => h.est_eq
  | .arr, _ => h.arr_eq
  | .flt, _ => h.flt_eq
  | .mgp, _ => h.mgp_eq
  | .sec, _ => h.sec_eq
  | .pwr, _ => h.pwr_eq
  | .cfg, _ => h.cfg_eq
  | .pins, _ => h.pins_eq
  | .shadow, _ => h.shadow_eq
  | .free, _ => h.free_eq
  | .pending, _ => h.pending_eq

end Sys2Proof.Machine
end

