-- ==== Sys2Proof/Laws/WqK.lean ====
section
/-! SUPPORT. What a forwarded write leaves alone. -/

namespace Sys2Proof.Machine

/-- The parts of the state that are kept. -/
structure State.WqKPart where
  regs : Regs
  time : TimeRt
  inp : InputRt
  lpe : LpeRt
  hmp : HmpRt
  prf : PrfRt
  site : SiteRt
  zfb : ZfbRt
  wgl : WglRt
  lks : LksRt
  link : LinkRt
  chn : ChnRt
  est : EstRt
  arr : ArrRt
  flt : FltRt
  mgp : MgpRt
  sec : SecRt
  pwr : PwrRt
  cfg : CfgRt
  pins : PinRt
  shadow : List (Nat × Nat × Word)
  free : Nat
  pending : List Instr

/-- Those parts of a state. -/
def State.partWqK (s : State) : State.WqKPart :=
  ⟨s.regs, s.time, s.inp, s.lpe, s.hmp, s.prf, s.site, s.zfb, s.wgl, s.lks, s.link, s.chn, s.est, s.arr, s.flt, s.mgp, s.sec, s.pwr, s.cfg, s.pins, s.shadow, s.free, s.pending⟩

/-- Those parts are the ones given. -/
structure WqK (u : State.WqKPart) (s : State) : Prop where
  eq : s.partWqK = u

variable {u : State.WqKPart} {s : State}

theorem WqK.upd {regs time inp wq lpe hmp prf site zfb wgl lks link chn est arr flt mgp sec pwr cfg pins shadow free pending} (h : WqK u s) (h_regs : regs = s.regs) (h_time : time = s.time) (h_inp : inp = s.inp) (h_lpe : lpe = s.lpe) (h_hmp : hmp = s.hmp) (h_prf : prf = s.prf) (h_site : site = s.site) (h_zfb : zfb = s.zfb) (h_wgl : wgl = s.wgl) (h_lks : lks = s.lks) (h_link : link = s.link) (h_chn : chn = s.chn) (h_est : est = s.est) (h_arr : arr = s.arr) (h_flt : flt = s.flt) (h_mgp : mgp = s.mgp) (h_sec : sec = s.sec) (h_pwr : pwr = s.pwr) (h_cfg : cfg = s.cfg) (h_pins : pins = s.pins) (h_shadow : shadow = s.shadow) (h_free : free = s.free) (h_pending : pending = s.pending) :
    WqK u (State.mk regs time inp wq lpe hmp prf site zfb wgl lks link chn est arr flt mgp sec pwr cfg pins shadow free pending) := by
  subst h_regs h_time h_inp h_lpe h_hmp h_prf h_site h_zfb h_wgl h_lks h_link h_chn h_est h_arr h_flt h_mgp h_sec h_pwr h_cfg h_pins h_shadow h_free h_pending
  exact ⟨h.eq⟩

theorem WqK.rfl' (s : State) : WqK s.partWqK s := ⟨rfl⟩

theorem WqK.ite {c : Prop} {_ : Decidable c} {a b : State} (ha : c → WqK u a) (hb : ¬c → WqK u b) : WqK u (if c then a else b) := by
  split
  · exact ha ‹_›
  · exact hb ‹_›

theorem WqK.dite {c : Prop} {_ : Decidable c} {a : c → State} {b : ¬c → State} (ha : ∀ h, WqK u (a h)) (hb : ∀ h, WqK u (b h)) :
    WqK u (if h : c then a h else b h) := by
  split
  · exact ha _
  · exact hb _

theorem WqK.iteP {α : Type} {c : Prop} {_ : Decidable c} {a b : State × α} (ha : c → WqK u a.1) (hb : ¬c → WqK u b.1) : WqK u (if c then a else b).1 := by
  split
  · exact ha ‹_›
  · exact hb ‹_›

theorem WqK.diteP {α : Type} {c : Prop} {_ : Decidable c} {a : c → State × α} {b : ¬c → State × α} (ha : ∀ h, WqK u (a h).1) (hb : ∀ h, WqK u (b h).1) :
    WqK u (if h : c then a h else b h).1 := by
  split
  · exact ha _
  · exact hb _

theorem WqK.foldl {α : Type} {l : List α} {f : State → α → State} (hf : ∀ t a, WqK u t → WqK u (f t a)) (h : WqK u s) : WqK u (l.foldl f s) := by
  induction l generalizing s with
  | nil => exact h
  | cons a l ih => exact ih (hf s a h)

theorem WqK.each {n : Nat} {f : Nat → State → State} (hf : ∀ i t, WqK u t → WqK u (f i t)) (h : WqK u s) : WqK u (State.each n f s) :=
  WqK.foldl (fun t a ht => hf a t ht) h

theorem WqK.over {α : Type} {l : List α} {f : α → State → State} (hf : ∀ i t, WqK u t → WqK u (f i t)) (h : WqK u s) : WqK u (State.over l f s) :=
  WqK.foldl (fun t a ht => hf a t ht) h

theorem WqK.iff {c : Bool} {f : State → State} (hf : ∀ t, WqK u t → WqK u (f t)) (h : WqK u s) : WqK u (State.iff c f s) := by
  unfold State.iff
  split
  · exact hf s h
  · exact h

theorem WqK.regs_eq (h : WqK u s) : s.regs = u.regs := congrArg State.WqKPart.regs h.eq
theorem WqK.time_eq (h : WqK u s) : s.time = u.time := congrArg State.WqKPart.time h.eq
theorem WqK.inp_eq (h : WqK u s) : s.inp = u.inp := congrArg State.WqKPart.inp h.eq
theorem WqK.lpe_eq (h : WqK u s) : s.lpe = u.lpe := congrArg State.WqKPart.lpe h.eq
theorem WqK.hmp_eq (h : WqK u s) : s.hmp = u.hmp := congrArg State.WqKPart.hmp h.eq
theorem WqK.prf_eq (h : WqK u s) : s.prf = u.prf := congrArg State.WqKPart.prf h.eq
theorem WqK.site_eq (h : WqK u s) : s.site = u.site := congrArg State.WqKPart.site h.eq
theorem WqK.zfb_eq (h : WqK u s) : s.zfb = u.zfb := congrArg State.WqKPart.zfb h.eq
theorem WqK.wgl_eq (h : WqK u s) : s.wgl = u.wgl := congrArg State.WqKPart.wgl h.eq
theorem WqK.lks_eq (h : WqK u s) : s.lks = u.lks := congrArg State.WqKPart.lks h.eq
theorem WqK.link_eq (h : WqK u s) : s.link = u.link := congrArg State.WqKPart.link h.eq
theorem WqK.chn_eq (h : WqK u s) : s.chn = u.chn := congrArg State.WqKPart.chn h.eq
theorem WqK.est_eq (h : WqK u s) : s.est = u.est := congrArg State.WqKPart.est h.eq
theorem WqK.arr_eq (h : WqK u s) : s.arr = u.arr := congrArg State.WqKPart.arr h.eq
theorem WqK.flt_eq (h : WqK u s) : s.flt = u.flt := congrArg State.WqKPart.flt h.eq
theorem WqK.mgp_eq (h : WqK u s) : s.mgp = u.mgp := congrArg State.WqKPart.mgp h.eq
theorem WqK.sec_eq (h : WqK u s) : s.sec = u.sec := congrArg State.WqKPart.sec h.eq
theorem WqK.pwr_eq (h : WqK u s) : s.pwr = u.pwr := congrArg State.WqKPart.pwr h.eq
theorem WqK.cfg_eq (h : WqK u s) : s.cfg = u.cfg := congrArg State.WqKPart.cfg h.eq
theorem WqK.pins_eq (h : WqK u s) : s.pins = u.pins := congrArg State.WqKPart.pins h.eq
theorem WqK.shadow_eq (h : WqK u s) : s.shadow = u.shadow := congrArg State.WqKPart.shadow h.eq
theorem WqK.free_eq (h : WqK u s) : s.free = u.free := congrArg State.WqKPart.free h.eq
theorem WqK.pending_eq (h : WqK u s) : s.pending = u.pending := congrArg State.WqKPart.pending h.eq

theorem WqK.takeForwarded (h : WqK u s) (a1) : WqK u (State.takeForwarded s a1) := by
  unfold State.takeForwarded
  refine WqK.upd ?_ rfl rfl rfl rfl rfl rfl rfl rfl rfl rfl rfl rfl rfl rfl rfl rfl rfl rfl rfl rfl rfl rfl rfl
  exact h

/-- What those functions may change, as a frame names it. -/
theorem WqK.within {t : State} (h : WqK s.partWqK t) : t.within s [.wq]
  | .regs, _ => h.regs_eq
  | .time, _ => h.time_eq
  | .inp, _ => h.inp_eq
  | .wq, hp => (hp (by decide)).elim
  | .lpe, _ => h.lpe_eq
  | .hmp, _ => h.hmp_eq
  | .prf, _ => h.prf_eq
  | .site, _ => h.site_eq
  | .zfb, _ => h.zfb_eq
  | .wgl, _ => h.wgl_eq
  | .lks, _ => h.lks_eq
  | .link, _ => h.link_eq
  | .chn, _ => h.chn_eq
  | .est, _ => h.est_eq
  | .arr, _ => h.arr_eq
  | .flt, _ => h.flt_eq
  | .mgp, _ => h.mgp_eq
  | .sec, _ => h.sec_eq
  | .pwr, _ => h.pwr_eq
  | .cfg, _ => h.cfg_eq
  | .pins, _ => h.pins_eq
  | .shadow, _ => h.shadow_eq
  | .free, _ => h.free_eq
  | .pending, _ => h.pending_eq

end Sys2Proof.Machine
end

