-- ==== Sys2Proof/Machine/Lights.lean ====
section
/-! DEFINITION. The status lights of the front panel (R489, Table 18-7): what they show follows from the state, and no command acts on them. -/

namespace Sys2Proof.Machine

/-- What a status light shows. -/
inductive Light where
  | off | green | greenFlash | amber | red | redFlash
  deriving DecidableEq, Repr

/-- Is the module in DEEP SLEEP, in which every light but PWR is off (R489)? -/
def State.panelDark (s : State) : Bool := s.get Fd.CLK_PSTATE_state == 2

/-- PWR: flashing in SLEEP and DEEP SLEEP, off without a supply. -/
def State.lightPwr (s : State) : Light :=
  if s.pwr.failAt.isSome then .off else if s.get Fd.CLK_PSTATE_state == 0 then .green else .greenFlash

/-- ROLE: claimant, synchronised standby, a module that joins or is not synchronised, or one that is not eligible. -/
def State.lightRole (s : State) : Light :=
  if s.panelDark then .off
  else match s.role with
    | 1 => .green
    | 2 => if s.flag Fd.LKS_STAT_synced then .greenFlash else .amber
    | 3 => .amber
    | _ => .off

/-- FAULT: recovery and lockout flash, then the safe state and a Halt, then FAULT_N. -/
def State.lightFault (s : State) : Light :=
  if s.panelDark then .off
  else if s.flag Fd.SEC_BOOT_recovery || s.flag Fd.KPR_CLKMON_STAT_lockout then .redFlash
  else if s.flt.safe || s.flt.halt != HaltPhase.none then .red
  else if s.flt.faultLow then .amber else .off

/-- M0 and M1: the link of a port. -/
def State.lightPort (s : State) (p : Fin 2) : Light :=
  if s.panelDark then .off
  else if !s.flag (Fd.MGP_PORT_STAT_module_ok p) then .amber
  else if s.flag (Fd.MGP_PORT_STAT_link p) then .green else .off

/-- TEST: TEST_MODE is strapped. -/
def State.lightTest (s : State) : Light := if !s.panelDark && s.pins.testMode then .amber else .off

end Sys2Proof.Machine
end

