-- ==== Sys2Proof/WellFormed.lean ====
section
/-! DEFINITION. Which commands are well formed: every operand lies in the range its field or its count gives it. A meaning is defined on every
command; these are the ones the module's boundary can form. -/

namespace Sys2Proof.Machine

/-- A number of `w` bits. -/
def fits (w v : Nat) : Bool := decide (v < 2 ^ w)
/-- A two's-complement number of `w` bits. -/
def sfits (w : Nat) (v : Int) : Bool := decide (-(2 ^ (w - 1) : Int) ≤ v ∧ v < 2 ^ (w - 1))
/-- A cycle of a frame: a stepped frame has up to 1900 of them (R47). -/
def cycOk (cyc : Nat) : Bool := decide (cyc < 1901)
/-- A register address (R382). -/
def addrOk (a : Nat) : Bool := fits 32 a && a % 4 == 0
/-- A list of bytes. -/
def bytesOk (l : List Nat) : Bool := l.all (fits 8)

/-- The fields of stage telemetry (Table 12-5). -/
def Telemetry.wf (t : Telemetry) : Bool :=
  fits 16 t.seqEcho && fits 2 t.ver && fits 3 t.zone && fits 3 t.idx && sfits 24 t.outI && sfits 24 t.inI && fits 16 t.outV && sfits 16 t.temp
    && fits 8 t.duty && fits 8 t.faultCode && fits 8 t.phase && fits 8 t.ber

/-- The fields of an uplink frame (Table 12-9). -/
def Uplink.wf (u : Uplink) : Bool :=
  fits 2 u.ver && fits 2 u.highest && fits 4 u.cls && fits 16 u.stepId && fits 64 u.stamp && fits 32 u.value

/-- A register write (R59): it names a register of the map, or an opcode that acts without one. -/
def PairWrite.wf (w : PairWrite) : Bool := fits 32 w.addr && fits 2 w.role && fits 2 w.port && fits 32 w.session && fits 1 w.slot

/-- An input set (Table 12-12), with at most 32 writes (R347). -/
def InputSet.wf (i : InputSet) : Bool :=
  fits 48 i.frame && fits 4 i.claim && i.sense.toList.all (sfits 16) && (i.tele.toList.all fun t => t.all fun t => t.wf)
    && decide (i.waggle.length ≤ 64 ∧ i.chain.length ≤ 3) && (i.waggle.all fun e => e.up.wf && fits 64 e.trx) && (i.chain.all fun e => decide (1 ≤ e.node ∧ e.node ≤ 14) && fits 8 e.op && fits 8 e.status
      && bytesOk e.payload) && i.vsel.toList.all (fits 3) && decide (i.writes.length ≤ 32) && i.writes.all fun w => w.wf

/-- The pins of a frame. -/
def FramePins.wf (p : FramePins) : Bool := fits 4 p.partnerClaim && p.vsel.toList.all (fits 3)

/-- A request packet (R362): the fields of its header, and at most 8192 bytes of payload. -/
def Pkt.wf (p : Pkt) : Bool :=
  cycOk p.cyc && fits 8 p.version && fits 16 p.tag && fits 32 p.session && fits 32 p.seq && decide (p.payload.length ≤ 8192) && bytesOk p.payload

/-- An image of the pair state: its register words are in the canonical form. -/
def PairImage.wf (i : PairImage) : Bool := Regs.wf i.regs

/-- What an enumeration finds: the nodes that answer from each end (R250). -/
def ChnEnum.wf (e : ChnEnum) : Bool := decide (e.a ≤ 14 ∧ e.b ≤ 14)

end Sys2Proof.Machine

namespace Sys2Proof

open Sys2Proof.Machine

/-- Is a command well formed? -/
def Instr.wf : Instr → Bool
  | .frameStart samples pins => (samples.all fun x => x.toList.all (sfits 16)) && pins.wf
  | .inputSet cyc _ set => cycOk cyc && set.wf
  | .inputExchangeClose => true
  | .loopEngineRun => true
  | .writeCheck => true
  | .hamperCaptureDone => true
  | .stageCommandsLeave => true
  | .outputDigest _ _ => true
  | .claimFix => true
  | .syncInEdge cyc => cycOk cyc
  | .alignmentLocked => true
  | .alignmentStep => true
  | .holdoverEntry => true
  | .holdoverExit => true
  | .syncConfigWrite _ _ => true
  | .stageReleased _ => true
  | .lowWordRead _ addr => addrOk addr
  | .registerWrite addr _ _ => addrOk addr
  | .coeffSetWrite _ _ _ _ => true
  | .switchSet _ _ => true
  | .loopModeChange _ _ => true
  | .hmpArm => true
  | .hmpDisarm => true
  | .forceTrig => true
  | .profileStep => true
  | .forecastFallback => true
  | .fallbackExit => true
  | .socCorrectionUpdate => true
  | .honeyReserveOpen => true
  | .honeyReserveClose => true
  | .stringSocStale _ => true
  | .vstoreWrite _ _ _ => true
  | .followExpiry _ => true
  | .storageExhaustionClear => true
  | .zoneRetry _ => true
  | .retriesReset _ => true
  | .zfbGo => true
  | .zfbAbort => true
  | .sequencePhaseEnd _ => true
  | .zeroITimeout _ => true
  | .switchConfirmTimeout _ => true
  | .prechargeMatchTimeout _ => true
  | .nextDutyWrite _ _ => true
  | .stageTelemetry _ cyc _ t => cycOk cyc && t.wf
  | .currentMismatchFence _ => true
  | .capLimited _ => true
  | .shedHoldExpiry _ => true
  | .addHoldExpiry _ => true
  | .jobGroupApply _ => true
  | .vselSample => true
  | .pgoodHigh _ => true
  | .stepArm _ cyc _ up => cycOk cyc && up.wf
  | .stepGo _ cyc _ up => cycOk cyc && up.wf
  | .stepEnd _ cyc _ up => cycOk cyc && up.wf
  | .stepPeriod _ cyc _ up => cycOk cyc && up.wf
  | .waggleStatus _ cyc _ up => cycOk cyc && up.wf
  | .armTimeout _ => true
  | .stepOnset _ => true
  | .ffwCommitRequest _ => true
  | .ffwCommitApply _ => true
  | .ppDisable => true
  | .ceilingCompute => true
  | .ceilingLatch => true
  | .shareArbitration bus => bus.toList.all (fits 12)
  | .ceilSend => true
  | .droopResponse => true
  | .throttleRelease _ => true
  | .extAlert => true
  | .stormClear _ => true
  | .linkDown _ => true
  | .stepStale _ => true
  | .laneClear _ => true
  | .telemetryAssemble => true
  | .basketPass _ cycles _ => cycles.all (fits 21)
  | .resultCommit => true
  | .coreLoaded _ _ => true
  | .scrubWord => true
  | .sequencerPhaseEnd cyc mv => cycOk cyc && fits 16 mv
  | .droopTrip cyc mv => cycOk cyc && fits 16 mv
  | .droopClear cyc mv => cycOk cyc && fits 16 mv
  | .capClear => true
  | .thermalCapLower tj => sfits 16 tj
  | .thermalCapRestore tj => sfits 16 tj
  | .coreTestStart _ => true
  | .coreTestSetEnd _ _ => true
  | .coreFence _ => true
  | .coreUnfence _ => true
  | .packageCheck _ _ => true
  | .snapSend _ cyc => cycOk cyc
  | .hushSend _ => true
  | .chainRead _ => true
  | .chainReply _ _ pos seq op status payload => fits 8 pos && fits 8 seq && fits 8 op && fits 8 status && bytesOk payload
  | .chainTxnTimeout _ => true
  | .readingsCommit => true
  | .balanceSend _ => true
  | .owtSend _ => true
  | .owRead _ => true
  | .owtCommit => true
  | .owtRequest _ => true
  | .rescan _ => true
  | .enumeration _ found => found.wf
  | .ringTest _ => true
  | .chainTone _ at' => fits 64 at'
  | .limitingExit at' => fits 64 at'
  | .hostWakeRelease => true
  | .estimateRecord => true
  | .endOfCharge _ => true
  | .divergenceConflict _ => true
  | .restPoint _ => true
  | .anchorExpiry _ => true
  | .anchorDiscard _ => true
  | .modelValidWrite _ _ => true
  | .capacityStoreWrite _ => true
  | .staticImage img => img.wf
  | .dynamicImage img => img.wf
  | .resyncRequest => true
  | .resync => true
  | .forecastBulk _ => true
  | .estimationBulk _ => true
  | .ffwBufferBulk _ _ => true
  | .bufferCrc _ _ => true
  | .forwardedWrite w => w.wf
  | .healthReport _ => true
  | .pairStateDigest _ => true
  | .bulkDeadlineMiss => true
  | .adcCheck => true
  | .coreTestRotation => true
  | .join time frame img => fits 64 time && fits 48 frame && img.wf
  | .pairWaitEnd => true
  | .claimHistoryEntry => true
  | .clearCounts => true
  | .laneTraining _ rttNs _ _ highest => fits 32 rttNs && fits 8 highest
  | .laneSilent _ => true
  | .laneRetrain _ => true
  | .lockTraining rttNs _ version => fits 32 rttNs && fits 8 version
  | .stageUnreach _ => true
  | .commission => true
  | .bertPhaseEnd errs => (errs.toList.all fun e => fits 32 e.1 && fits 32 e.2)
  | .bertAbort => true
  | .bertOverdue => true
  | .hello p => p.wf
  | .sessionOpen p _ => p.wf
  | .sessionClose p => p.wf
  | .keepalive p => p.wf
  | .semAcquire p => p.wf
  | .semRelease p => p.wf
  | .semSeize p => p.wf
  | .regRead p => p.wf
  | .regWrite p => p.wf
  | .regWriteMasked p => p.wf
  | .combRead p => p.wf
  | .rebind p => p.wf
  | .rebindAbort p => p.wf
  | .fenceClear p => p.wf
  | .stringDuty p => p.wf
  | .groupLimit p => p.wf
  | .csetLoad p => p.wf
  | .loopMode p => p.wf
  | .profileRead p => p.wf
  | .cellRead p => p.wf
  | .storageClear p => p.wf
  | .capacityLoad p => p.wf
  | .basketStore p => p.wf
  | .basketAdmit p => p.wf
  | .basketEvict p => p.wf
  | .basketVariant p => p.wf
  | .quarantineClear p => p.wf
  | .basketStatus p => p.wf
  | .resultRead p => p.wf
  | .arrayTarget p => p.wf
  | .hamperRead p => p.wf
  | .faultRead p => p.wf
  | .faultAck p => p.wf
  | .logRead p => p.wf
  | .dumpRead p => p.wf
  | .healthRead p => p.wf
  | .claimHistory p => p.wf
  | .bertWindow p => p.wf
  | .fwStore p => p.wf
  | .fwActivate p => p.wf
  | .attest p => p.wf
  | .attestSignDone _ session => fits 32 session
  | .auditRead p => p.wf
  | .keyLoad p _ => p.wf
  | .keyClear p _ => p.wf
  | .injectRecord p => p.wf
  | .injectWriteCheck p => p.wf
  | .injectHang p => p.wf
  | .injectTimeout p => p.wf
  | .injectEcc p => p.wf
  | .injectClock p => p.wf
  | .injectSupply p => p.wf
  | .injectComparator p => p.wf
  | .arpRequest _ vlan ip => fits 12 vlan && fits 128 ip
  | .neighbourDiscovery _ vlan ip => fits 12 vlan && fits 128 ip
  | .icmpEcho _ vlan _ ip data => fits 12 vlan && fits 128 ip && bytesOk data
  | .reassemblyTimeout => true
  | .consoleFramingError => true
  | .sessionIdleExpiry _ session => fits 32 session
  | .portLinkLoss _ => true
  | .leaseExpiry => true
  | .boot _ => true
  | .firmwareReady baskets => baskets.all bytesOk
  | .fwTrialSuccess => true
  | .fwTrialFail => true
  | .rollbackRaise => true
  | .auditFlush => true
  | .auditCheckpoint => true
  | .authFailureEntry => true
  | .crystalStable _ at' mv => fits 64 at' && fits 16 mv
  | .xt0StartTimeout at' => fits 64 at'
  | .pllLock _ => true
  | .clockMonitorTrip _ at' => fits 64 at'
  | .clockRestart at' gap => fits 64 at' && fits 32 gap
  | .episodeEnd => true
  | .lfrcLoss => true
  | .sleepRequest => true
  | .deepSleepRequest => true
  | .runRequest => true
  | .deepSleepWake _ at' gap => fits 64 at' && fits 32 gap
  | .brownOutWarning mv => fits 16 mv
  | .brownOutRelease mv => fits 16 mv
  | .powerFail mv _ at' => fits 16 mv && fits 64 at'
  | .supplyRecovery mv at' gap => fits 16 mv && fits 64 at' && fits 32 gap
  | .holdupExpiry => true
  | .arrayClockLoss _ => true
  | .zoneUvTrip _ => true
  | .zoneOvTrip _ => true
  | .stringOcTrip _ => true
  | .comparatorRelease _ => true
  | .faultPendingClear _ _ => true
  | .clearCapture _ => true
  | .faultModeChange _ _ => true
  | .haltedServiceTimeout => true
  | .resetRequest _ => true
  | .resetAssert => true
  | .resetRelease => true
  | .heartbeatBeat _ => true
  | .heartbeatCheck => true
  | .watchdogAction => true
  | .busTimeout _ _ _ _ => true
  | .dumpRequest => true
  | .dumpComplete markers => (markers.all fun e => fits 8 e.1 && fits 32 e.2)
  | .portFenceReturn _ => true
  | .gridLoss => true
  | .gridSag => true
  | .gridSagClear => true
  | .gridReturn => true
  | .gridNormal => true
  | .coolantUpdate => true
  | .declarationWrite _ _ => true
  | .configSave => true
  | .configErase => true
  | .startupComplete => true
  | .configRestore => true
  | .autostartStep => true
  | .powerOnReset _ _ => true
  | .crystalLost _ at' mv => fits 64 at' && fits 16 mv
  | .fwImageChecked _ => true
  | .consoleFramingRegained => true
  | .portLinkUp _ _ => true

end Sys2Proof
end

