-- ==== Sys2Proof/Tests/Slice0.lean ====
section
/-! SUPPORT. Tests of the model. The commands that no boundary of the module can form are refused by the check of well-formedness; for every
statement that has premises a concrete state and operands meet them, each clause at the edge of its range; and a few commands are run once against
values that the spec states. -/

namespace Sys2Proof.Tests

open Sys2Proof Sys2Proof.Machine

/-! ## Helpers -/

/-- A state, reset where none is given, with fields of its registers set. -/
def st (l : List (Fld × Nat)) (s : State := .reset) : State := l.foldl (fun s e => s.put e.1 e.2) s
/-- The state meets a premise. -/
abbrev meets (s : State) (p : State → Prop) : Prop := p s
/-- What one field of the next state holds after one command. -/
def after (c : Instr) (s : State) (f : State → α) : Option α :=
  match exec c s with
  | .next t => some (f t)
  | _ => none
/-- The state in frame `n`. -/
def atFrame (n : Nat) (s : State := .reset) : State := { s with time := { s.time with frame := n } }
/-- The state as a standby with a partner that holds the claim. -/
def standby (s : State := .reset) : State := { s with lks := { s.lks with partnerValid := true, claimant := false } }
/-! ## Premises of the statements: the block, its frames and its time -/

theorem premise_StepRunsTheCommandInFront :
    (meets { State.reset with pending := [.writeCheck, .claimFix] } fun s => s.pending = .writeCheck :: [.claimFix]) ∧
    (meets .reset fun s => s.pending = []) := by decide
theorem premise_EveryStepKeepsTheForms : State.reset.good ∧ step State.reset = .next State.reset := by
  refine ⟨?_, rfl⟩
  unfold State.good State.regsOk
  decide
theorem premise_EveryCommandLeavesQueueAndTime : movesTime .writeCheck = false := by decide
theorem premise_FrameStartBeginsTheNextFrame :
    (meets { State.reset with pwr := { State.reset.pwr with stopped := true } } fun s => s.pwr.stopped = true) ∧
    (meets .reset fun s => s.pwr.stopped = false) := by decide
theorem premise_FrameStepsRunInOrder :
    (meets .reset fun s => s.pwr.stopped = false ∧ s.inp.closed = false ∧ s.loopRuns = true) ∧
    (meets { State.reset with inp := { State.reset.inp with closed := true } } fun s =>
      s.pwr.stopped = false ∧ s.inp.closed = true ∧ s.lpe.ran = false ∧ s.loopRuns = true ∧ (s.lpe.writeOk && !s.lpe.injectMissing) = false) ∧
    (meets { State.reset with flt := { State.reset.flt with rstOn := vset State.reset.flt.rstOn 0 true }, inp := { State.reset.inp with closed := true } } fun s =>
      s.pwr.stopped = false ∧ s.inp.closed = true ∧ s.loopRuns = false) ∧
    (meets { standby with flt := { State.reset.flt with rstOn := vset State.reset.flt.rstOn 0 true } } fun s =>
      s.pwr.stopped = false ∧ s.inp.closed = false ∧ s.inReset 0 = true ∧ s.isStandby = true ∧ s.inp.partner.isNone = true) ∧
    (meets { State.reset with lpe := { State.reset.lpe with ran := true } } fun s => s.pwr.stopped = false ∧ s.lpe.ran = true) := by decide
/-- Output stage 3 is declared and its lane serves, trained to version 2, while the module asserts valid. -/
def serving : State :=
  { st [(Fd.ZFB_DECL_OS_os, 8), (Fd.STL_LANE_STAT_version 3, 2), (Fd.STL_LANE_STAT_state 3, 2)] with
    pins := { State.reset.pins with valid := true }, lpe := { State.reset.lpe with checkOk := true } }
theorem premise_StageCommandsLeave :
    (meets serving fun s => s.pwr.stopped = false ∧ s.loopRuns = true ∧ s.lpe.checkOk = true ∧ s.stageSends 3 = true ∧
      (s.lpe.checkOk && s.stageSends 2) = false) ∧
    (meets { serving with pwr := { serving.pwr with stopped := true } } fun s => s.pwr.stopped = true) ∧
    (meets (st [(Fd.CLK_PSTATE_state, 1)]) fun s => s.loopRuns = false) := by decide
/-- The inputs of a loop whose values are all 0, in or out of service. -/
def loopIn (enabled manual : Bool) : LoopIn :=
  { r := .zero, m := .zero, f := .zero, hi := .zero, lo := .zero, rate := .zero, vlink := .zero, pman := .zero, manual := manual, enabled := enabled,
    set := 0, cs := State.reset.coefSet 0 0 }
theorem premise_LoopsComputeAndShare :
    (loopIn false false).enabled = false ∧ ((loopIn true true).enabled = true ∧ (loopIn true true).manual = true ∧
      LoopRt.reset.split = (loopIn true true).cs.split) ∧
    (BF24.zero.m = 0 ∧ BF24.zero.le .zero = true) ∧ (meets .reset fun s => s.wSum (s.osZone 3) = 0) := by decide
theorem premise_CapturesEndAndStagesAreReleased :
    (meets (st [(Fd.HMP_STAT_state, 2)]) fun s => s.get Fd.HMP_STAT_state = 2 ∧ s.hmp.trigPending = false ∧ s.hmp.postLeft = 0) ∧
    (meets .reset fun s => s.get Fd.HMP_STAT_state ≠ 2 ∧ vget s.zfb.under 25 = false) ∧
    (meets { State.reset with zfb := { State.reset.zfb with under := vset State.reset.zfb.under 25 true, idleFrames := vset State.reset.zfb.idleFrames 25 256 } }
      fun s => vget s.zfb.under 25 = true ∧ 256 ≤ vget s.zfb.idleFrames 25) ∧
    (isLowWord Reg.SNS_TIME_LO = true ∧ isLowWord Reg.SNS_SYNC_CTRL = false) := by decide
theorem premise_AlignmentFollowsEdges :
    (meets (st [(Fd.SNS_SYNC_CTRL_mode, 1), (Fd.SNS_SYNC_STAT_state, 1)]) fun s =>
      s.follows = true ∧ (s.atCycle 0).edgeFar = true ∧ s.alignState ≠ 3) ∧
    (meets (st [(Fd.SNS_SYNC_CTRL_mode, 1), (Fd.SNS_SYNC_STAT_state, 3)]) fun s => s.follows = true ∧ (s.atCycle 999).edgeFar = true ∧ s.alignState = 3) ∧
    (meets { State.reset with time := { State.reset.time with lastEdge := some 100 } } fun s =>
      (s.atCycle 999).edgeFar = false ∧ (s.atCycle 1000).edgeFar = true) ∧
    (meets { st [(Fd.SNS_SYNC_CTRL_step_allow, 1), (Fd.SNS_SYNC_STAT_state, 1)] with time := { State.reset.time with lastEdge := some 0 } } fun s =>
      s.time.lastEdge = some 0 ∧ s.alignState = 1 ∧ s.flag Fd.SNS_SYNC_CTRL_step_allow = true ∧ s.anyUnder = false) ∧
    (meets { st [(Fd.SNS_SYNC_STAT_state, 2)] with time := { State.reset.time with noEdgeFrames := 4 } } fun s =>
      (s.alignState = 1 ∨ s.alignState = 2) ∧ 4 ≤ s.time.noEdgeFrames) ∧
    (meets { st [(Fd.SNS_SYNC_STAT_state, 3)] with time := { State.reset.time with edgeFrames := 16 } } fun s =>
      s.alignState = 3 ∧ 16 ≤ s.time.edgeFrames) := by decide

/-! ## Set-points, following and site -/

theorem premise_ProfileAdvancesAtForecastFrames :
    (meets (atFrame 1) fun s => s.fcStart = false ∧ s.slowStart = false) ∧
    (meets .reset fun s => s.fcStart = true ∧ (s.groupAuto 0 || s.groupAuto 1) = false ∧ s.slowStart = true) ∧
    (meets (st [(Fd.PRF_CTRL_soc_en, 0)]) fun s => s.slowStart = true ∧ s.flag Fd.PRF_CTRL_soc_en = false) ∧
    (meets (st [(Fd.LPE_LOOP_CTRL_enable 5, 1), (Fd.PRF_GRID_STAT_state, 2)]) fun s =>
      s.fcStart = true ∧ (s.groupAuto 0 || s.groupAuto 1) = true ∧ s.gridDown = true) ∧
    (meets (st [(Fd.LPE_LOOP_CTRL_enable 6, 1)]) fun s => s.fcStart = true ∧ (s.groupAuto 0 || s.groupAuto 1) = true ∧ s.gridDown = false) := by decide
/-- A state with a condition of the honey reserve, and string 1 on RESERVE duty. -/
def reserved (open' : Nat) : State :=
  { st [(Fd.PRF_STAT_reserve_open, open'), (Fd.ZFB_STR_duty 1, 1), (Fd.ZFB_DECL_PWR_strings, 7)] with prf := { State.reset.prf with resCond := true } }
theorem premise_FallbackAndReserveFollowTheirCounts :
    (meets (reserved 0) fun s => s.prf.resCond = true ∧ s.flag Fd.PRF_STAT_reserve_open = false ∧ s.get (Fd.ZFB_STR_duty 1) = 1 ∧ s.strDecl 1 = true ∧
      s.ssFenced 2 = false) ∧
    (meets (reserved 1) fun s => s.flag Fd.PRF_STAT_reserve_open = true) ∧ (meets .reset fun s => s.prf.resCond = false) := by decide
theorem premise_SupervisionExpiresAndRetries :
    (meets { st [(Fd.ZFB_DECL_PWR_strings, 7)] with prf := { State.reset.prf with socValid := vall 3 true, sweepsSinceSoc := vall 3 5 } } fun s =>
      s.strDecl 2 = true ∧ vget s.prf.socValid 2 = true ∧ 4 < vget s.prf.sweepsSinceSoc 2 ∧ vget s.prf.staleFault 2 = false ∧ s.notHeld 11 false 1 0x702) ∧
    (meets .reset fun s => vget s.prf.sweepsSinceSoc 2 ≤ 4) ∧
    (meets (st [(Fd.LPE_FOLLOW_CTRL_timer_limit 4, 250), (Fd.LPE_FOLLOW_STAT_timer 4, 250)]) fun s =>
      s.get (Fd.LPE_FOLLOW_CTRL_timer_limit 4) ≠ 0 ∧ s.get (Fd.LPE_FOLLOW_CTRL_timer_limit 4) ≤ s.get (Fd.LPE_FOLLOW_STAT_timer 4) ∧
      (s.loop 4).expireNow = false ∧ s.notHeld 1 false 1 0x600) ∧
    (meets { State.reset with prf := { State.reset.prf with linkExhaust := true, linkOkFrames := 256 } } fun s =>
      s.prf.linkExhaust = true ∧ 256 ≤ s.prf.linkOkFrames) ∧
    (meets { st [(Fd.ZFB_OS_state 5, 0xB), (Fd.ZFB_OS_zone 5, 2)] with zfb := { State.reset.zfb with zoneFenced := vall 4 true, retryDue := vall 4 true } } fun s =>
      vget s.zfb.zoneFenced 2 = true ∧ vget s.zfb.retryDue 2 = true ∧ vget s.zfb.retryLeft 2 = 0 ∧ s.osZone 5 = 2 ∧ s.osState 5 = 0xB ∧
      ¬(s.osZone 4 = 2 ∧ s.osState 4 = 0xB)) := by unfold State.notHeld; decide
theorem premise_GridStateMovesByItsCounts :
    (meets { State.reset with site := { State.reset.site with lossDue := true } } fun s => s.site.lossDue = true ∧ s.get Fd.PRF_GRID_STAT_state ≠ 2) ∧
    (meets { State.reset with site := { State.reset.site with sagDue := true } } fun s =>
      s.site.sagDue = true ∧ s.site.lossDue = false ∧ s.get Fd.PRF_GRID_STAT_state = 0) ∧
    (meets { st [(Fd.PRF_GRID_STAT_state, 1), (Fd.PRF_GRID_HOLD_sag_clear, 4)] with site := { State.reset.site with clearFc := 4 } } fun s =>
      s.get Fd.PRF_GRID_STAT_state = 1 ∧ s.get Fd.PRF_GRID_HOLD_sag_clear ≤ s.site.clearFc) ∧
    (meets { st [(Fd.PRF_GRID_STAT_state, 2), (Fd.PRF_GRID_HOLD_return_hold, 4)] with site := { State.reset.site with clearFc := 4 } } fun s =>
      s.get Fd.PRF_GRID_STAT_state = 2 ∧ s.get Fd.PRF_GRID_HOLD_return_hold ≤ s.site.clearFc) ∧
    (meets (st [(Fd.PRF_GRID_HOLD_sag_clear, 1), (Fd.PRF_GRID_HOLD_return_hold, 1)]) fun s =>
      s.site.clearFc < s.get Fd.PRF_GRID_HOLD_sag_clear ∧ s.site.clearFc < s.get Fd.PRF_GRID_HOLD_return_hold ∧ s.site.lossDue = false ∧ s.site.sagDue = false ∧
      s.slowStart = true) ∧
    (meets (st [(Fd.PRF_GRID_STAT_state, 3)]) fun s => s.get Fd.PRF_GRID_STAT_state = 3 ∧ s.fcStart = true ∧
      (if s.groupAuto 0 || s.groupAuto 1 then s.flag Fd.PRF_STAT_at_target else s.site.ratePrev) = true) ∧
    (meets (atFrame 1) fun s => s.fcStart = false ∧ s.slowStart = false) := by decide
theorem premise_RequestsWaitForTheNextFrame :
    (meets .reset fun s => s.isStandby = false ∧ s.anyUnder = false ∧ vget s.flt.hung 3 = false ∧ s.computeDown = false) ∧
    Reg.SNS_SYNC_CTRL < actBase ∧
    (meets { serving with zfb := { serving.zfb with under := vset serving.zfb.under 3 true } } fun s => s.anyUnder = true) ∧
    (meets standby fun s => s.isStandby = true) ∧
    ((0xFFFFFFFF : Word) &&& pairMask Reg.PRF_VEL ≠ 0 ∧ (0xFFFFFFFF : Word) &&& pairMask Reg.KPR_RST_CTRL = 0) := by decide
/-! ## Zone fabric -/

/-- Output stage 3 in a state of Table 05-2, bound to zone 2, at a point of its sequence after `j` frames. -/
def stage (state weight : Nat) (step : Step05) (j dst : Nat) : State :=
  { st [(Fd.ZFB_OS_state 3, state), (Fd.ZFB_OS_weight 3, weight), (Fd.ZFB_OS_zone 3, 2)] with
    zfb := { State.reset.zfb with os := vset State.reset.zfb.os 3 { OsRt.reset with step := step, j := j, dst := dst, mism := 16 } } }
theorem premise_StagesEnterPhasesOrFence :
    (meets (stage 2 0 .none 1 1) fun s => s.phaseEnds 3 ∧ s.osState 3 = 2) ∧ (meets (stage 3 0 .openDwell 16 1) fun s => s.phaseEnds 3 ∧ s.osState 3 = 3 ∧
      (s.os 3).dst < 4 ∧ s.zoneFenced (s.os 3).dst = false) ∧
    (meets (stage 3 0 .openDwell 16 4) fun s => s.phaseEnds 3 ∧ 4 ≤ (s.os 3).dst) ∧ (meets (stage 4 0 .pre 128 1) fun s => s.phaseEnds 3 ∧ s.osState 3 = 4) ∧
    (meets (stage 5 0 .closeDwell 16 1) fun s => s.phaseEnds 3 ∧ s.osState 3 = 5) ∧ (meets (stage 9 512 .none 1 1) fun s => s.phaseEnds 3 ∧ s.osState 3 = 9) ∧
    (meets (stage 7 0 .none 1 1) fun s => s.phaseEnds 3 ∧ s.osState 3 = 7) := by
  refine ⟨?_, ?_, ?_, ?_, ?_, ?_, ?_⟩ <;> (unfold State.phaseEnds; decide)
theorem premise_StagesEnterPhasesOrFence_limits :
    (meets (stage 3 0 .zeroWait 16 1) fun s => s.osState 3 = 3 ∧ (s.os 3).step = .zeroWait ∧ (s.os 3).clearReq = false ∧ 16 ≤ (s.os 3).j) ∧
    (meets (stage 3 0 .openSent 16 1) fun s => s.osState 3 = 3 ∧ (s.os 3).step = .openSent ∧ 16 ≤ (s.os 3).j) ∧
    (meets (stage 5 0 .closeSent 16 1) fun s => s.osState 3 = 5 ∧ (s.os 3).step = .closeSent ∧ 16 ≤ (s.os 3).j) ∧
    (meets (stage 4 0 .matching 64 1) fun s => s.osState 3 = 4 ∧ (s.os 3).step = .matching ∧ 64 ≤ (s.os 3).j) ∧
    (meets (st [(Fd.ZFB_MISMATCH_CTRL_mismatch_frames, 16)] (stage 1 512 .none 0 2)) fun s => s.osState 3 = 1 ∧ s.lpe.ran = false ∧
      0 < s.get Fd.ZFB_MISMATCH_CTRL_mismatch_frames ∧ s.get Fd.ZFB_MISMATCH_CTRL_mismatch_frames ≤ (s.os 3).mism) := by decide
/-- Stage 3 alone in zone 2, in a state of Table 05-2, with the shed timer at its hold and an add current of 1 A. -/
def shedding (state addI : Nat) : State :=
  st [(Fd.ZFB_OS_state 3, state), (Fd.ZFB_OS_weight 3, 1023), (Fd.ZFB_OS_zone 3, 2), (Fd.ZFB_SHED_CTRL_en 2, 1), (Fd.ZFB_SHED_HOLD_shed_hold 2, 256),
    (Fd.ZFB_SHED_STAT_shed_timer 2, 256), (Fd.ZFB_ADD_HOLD_add_hold 2, 0), (Fd.ZFB_ADD_I_val 2, addI)]
theorem premise_ShedAndAddPickTheirStage :
    (meets (shedding 1 0x01400000) fun s => s.shedDue 2 = true ∧ s.osZone 3 = 2 ∧ s.osState 3 = 1 ∧ (∀ i : Fin 16, 3 < i → ¬(s.osZone i = 2 ∧ s.osState i = 1)) ∧
      s.shedFits 2 = true) ∧
    (meets (shedding 1 0) fun s => s.shedDue 2 = true ∧ s.osZone 3 = 2 ∧ s.osState 3 = 1 ∧ s.shedFits 2 = false) ∧
    (meets (shedding 8 0) fun s => s.addDue 2 = true ∧ s.osZone 3 = 2 ∧ s.osState 3 = 8 ∧ ∀ i : Fin 16, i < 3 → ¬(s.osZone i = 2 ∧ s.osState i = 8)) := by
  decide
theorem premise_ZoneSignalsAndOverloadsAreJudged :
    (meets .reset fun s => s.fcStart = true ∧ s.pinCode 3 = s.get (Fd.WGL_VSEL_pin_code 3)) ∧
    (meets (st [(Fd.WGL_VSEL_pin_code 3, 5)]) fun s => s.pinCode 3 ≠ s.get (Fd.WGL_VSEL_pin_code 3)) ∧
    (meets (st [(Fd.WGL_VSEL_equal_count 3, 7)]) fun s => s.pinCode 3 = s.get (Fd.WGL_VSEL_pin_code 3) ∧ 7 ≤ s.get (Fd.WGL_VSEL_equal_count 3)) ∧
    (meets (st [(Fd.WGL_PGOOD_window_count 3, 64)]) fun s => s.get (Fd.WGL_PGOOD_window_count 3) = 64 ∧ s.lpe.ran = false) ∧
    (meets (st [(Fd.ZFB_ZONE_STAT_overload_frames 3, 500000)]) fun s => s.lpe.ran = false ∧ 500000 ≤ s.get (Fd.ZFB_ZONE_STAT_overload_frames 3) ∧
      s.flag (Fd.ZFB_ZONE_STAT_cap_limited 3) = false ∧ s.notHeld Blk.zfb false 1 0x503) ∧
    (meets { State.reset with flt := { State.reset.flt with rem := vset State.reset.flt.rem Blk.zfb [⟨false, 1, 0x503⟩] } } fun s =>
      ¬s.notHeld Blk.zfb false 1 0x503) := by unfold State.notHeld; decide

/-! ## Swarm steps and ceilings -/

/-- Tray lane 5 is declared and trained to version 3; its runtime and its frame's uplink frames are as given. -/
def tray (x : LaneRt) (l : List (Fld × Nat) := []) : State :=
  { st ([(Fd.ZFB_LANE_declared 5, 1), (Fd.WGL_LANE_STAT_version 5, 3)] ++ l) with
    wgl := { State.reset.wgl with lanes := vset State.reset.wgl.lanes 5 x } }
/-- An uplink frame of a type in version 3. -/
def upFrame (t : UpType) : Uplink := { type := t, ver := 3, highest := 3, cls := 0, stepId := 1, stamp := 1000, value := 0 }
/-- A pending arm whose release is predicted at timestamp 950. -/
def arm950 : Arm := ⟨7, 950, ⟨1, 1⟩, 0, false⟩
theorem premise_UplinkFrameEntersInputs :
    (Instr.stepArm 5 0 true (upFrame .arm), UpType.arm) ∈ uplinkCommands 5 0 true (upFrame .arm) ∧
    (meets (tray { LaneRt.reset with upCount := 3 }) fun s => s.laneDecl 5 = true ∧ s.get (Fd.WGL_LANE_STAT_version 5) ≠ 0 ∧
      upValid s 5 true .arm (upFrame .arm) = true ∧ upValid s 5 true .status (upFrame .status) = true ∧ (s.lane 5).upCount < 4) ∧
    (meets (tray { LaneRt.reset with upCount := 4 }) fun s => upValid s 5 true .status (upFrame .status) = true ∧ 4 ≤ (s.lane 5).upCount) := by decide
theorem premise_LaneFlagsFollowTheirCounts :
    (meets { tray { LaneRt.reset with arm := some arm950, pp := { PpTerm.zero with kind := .move } } [(Fd.FFW_PP_TIMEOUT_arm_timeout, 1)] with
      time := { State.reset.time with frameStart := 1951 } } fun s => (s.lane 5).arm = some arm950 ∧ (s.lane 5).pp.kind = .move ∧
        arm950.tp + 1000 * s.get Fd.FFW_PP_TIMEOUT_arm_timeout < s.time.frameStart) ∧
    (meets (tray { LaneRt.reset with silent := 16 }) fun s => s.laneDecl 5 = true ∧ 16 ≤ (s.lane 5).silent ∧ s.flag (Fd.WGL_LANE_STAT_link_down 5) = false) ∧
    (meets (tray .reset) fun s => s.stepIsStale 5 = true) ∧
    (meets (tray { LaneRt.reset with cleanSweeps := 64 } [(Fd.WGL_LANE_STAT_storm 5, 1)]) fun s => s.sweepStart = true ∧
      s.flag (Fd.WGL_LANE_STAT_storm 5) = true ∧ 64 ≤ (s.lane 5).cleanSweeps) := by decide
theorem premise_OnsetsAnchorAndCommitsSwap :
    (meets { tray { LaneRt.reset with arm := some arm950 } with wgl :=
        { (tray { LaneRt.reset with arm := some arm950 }).wgl with zones := vset State.reset.wgl.zones 2 { ZoneFf.reset with anchor := some 5 } } } fun s =>
      (s.zoneFf 2).anchor = some 5 ∧ (s.lane 5).arm = some arm950 ∧ arm950.onset = false ∧ s.time.frameStart < 2 ^ 64 ∧
      arm950.tp < s.time.frameStart + s.time.len + 900 ∧ s.time.frameStart + 900 ≤ arm950.tp) ∧
    (meets { st [(Fd.FFW_ZONE_STAT_commit_pending 2, 1)] with wgl :=
        { State.reset.wgl with zones := vset State.reset.wgl.zones 2 { ZoneFf.reset with boundary := true } } } fun s => s.commitDue 2 = true) := by decide
theorem premise_CeilingsAreComputedLatchedAndShared :
    (meets (st [(Fd.WGL_CEIL_CTRL_share_en, 0)]) fun s => s.fcStart = true ∧ s.flag Fd.WGL_CEIL_CTRL_share_en = false ∧ vget s.flt.rstOn 1 = false ∧
      s.isStandby = false) ∧
    (meets (st [(Fd.WGL_CEIL_CTRL_share_en, 1)]) fun s => s.flag Fd.WGL_CEIL_CTRL_share_en = true) ∧
    (meets { State.reset with flt := { State.reset.flt with rstOn := vset State.reset.flt.rstOn 1 true } } fun s => vget s.flt.rstOn 1 = true) ∧
    (meets { tray .reset with pins := { State.reset.pins with valid := true }, time := { State.reset.time with frame := 192 } } fun s =>
      s.fcFrame = 192 ∧ s.laneSends 5 = true ∧ s.laneSends 4 = false) := by decide
theorem premise_DroopLowersAndThrottleDrivesLines :
    (meets (st [(Fd.PRF_GRID_STAT_flag, 1)]) fun s => 4 ∈ s.throttleStart.newConds ∧ s.namesGroup 4 62 = true ∧ namesZone 4 3 = true) ∧
    (meets { State.reset with wgl := { State.reset.wgl with extLowRun := 2 } } fun s => s.wgl.extActive = false ∧ 2 ≤ s.wgl.extLowRun) ∧
    (meets { State.reset with wgl := { State.reset.wgl with extActive := true, extHighRun := 256 } } fun s =>
      s.wgl.extActive = true ∧ 256 ≤ s.wgl.extHighRun ∧ s.wgl.extHold = 0) ∧
    (meets { State.reset with wgl := { State.reset.wgl with forceOn := vall 4 true, exhaustHold := 1 } } fun s =>
      vget s.wgl.forceOn 3 = true ∧ s.flag (Fd.WGL_THR_force 3) = false ∧ vget s.wgl.forceHold 3 = 0 ∧ s.wgl.exhaustHold ≠ 0) ∧
    (meets { State.reset with wgl := { State.reset.wgl with forceHold := vall 4 1 } } fun s => vget s.wgl.forceHold 3 ≠ 0) := by decide
/-! ## Array and baskets -/

/-- The array's sequencer in a phase at a level, with the rail at its target, and the droop of the rail as given. -/
def sequencing (phase present eff elapsed : Nat) : State :=
  { st [(Fd.CLK_ADN_SEQ_phase, phase), (Fd.CLK_ADN_LEVEL_present, present), (Fd.CLK_ADN_LEVEL_eff, eff)] with
    time := { State.reset.time with frameStart := elapsed } }
theorem premise_BlockTakesLeastExponent :
    (∀ x ∈ [(⟨3, 2⟩ : Frac), ⟨-5, 1⟩], 0 < x.den) ∧ (toBlock .bf8 [⟨3, 2⟩, ⟨-5, 1⟩]).2 = false ∧ (∀ x ∈ [(⟨0, 1⟩ : Frac)], x.num = 0) := by decide
theorem premise_SequencerStepsTowardsTarget :
    (meets (sequencing 1 2 4 2500) fun s => s.get Fd.CLK_ADN_LEVEL_present ≤ 5 ∧ s.get Fd.CLK_ADN_SEQ_phase = 1 ∧ 2500 ≤ (s.railRead 0 750).seqElapsed) ∧
    (meets (sequencing 2 2 4 1000) fun s => s.get Fd.CLK_ADN_SEQ_phase = 2 ∧ 1000 ≤ (s.railRead 0 750).seqElapsed ∧ (s.railRead 0 750).railNear 750 = true) ∧
    (meets (sequencing 3 2 4 2000) fun s => s.get Fd.CLK_ADN_SEQ_phase = 3 ∧ 2000 ≤ (s.railRead 0 750).seqElapsed) ∧
    (meets (sequencing 4 2 1 2000) fun s => s.get Fd.CLK_ADN_SEQ_phase = 4 ∧ 2000 ≤ (s.railRead 0 750).seqElapsed) ∧
    (meets (sequencing 5 2 1 2500) fun s => s.get Fd.CLK_ADN_SEQ_phase = 5 ∧ 2500 ≤ (s.railRead 0 700).seqElapsed ∧ (s.railRead 0 700).railNear 700 = true) := by
  decide
theorem premise_DroopAndThermalCapsLimitTheLevel :
    (meets (st [(Fd.CLK_ADN_DROOP_trips_slow, 16)]) fun s => s.flag Fd.CLK_ADN_DROOP_active = false ∧ 569 < (s.railRead 0 569).droopThreshold ∧
      s.get Fd.CLK_ADN_DROOP_trips_slow = 16) ∧
    (meets (st [(Fd.CLK_ADN_DROOP_trips_slow, 15)]) fun s => s.get Fd.CLK_ADN_DROOP_trips_slow ≠ 16 ∧ s.get Fd.CLK_ADN_DROOP_trips_slow ≠ 17) ∧
    (meets { st [(Fd.CLK_ADN_DROOP_active, 1), (Fd.CLK_ADN_SEQ_phase, 6)] with arr := { State.reset.arr with seq := { State.reset.arr.seq with frozen := 1, capClear := true } } }
      fun s => s.flag Fd.CLK_ADN_DROOP_active = true ∧ (s.railRead 0 585).droopThreshold + 15 ≤ 585 ∧ 1 ≤ s.arr.seq.frozen ∧ s.arr.seq.frozen ≤ 5 ∧
        s.arr.seq.capClear = true) ∧
    (meets (st [(Fd.CLK_ADN_THERM_therm_cap, 1)]) fun s => (824 : Int) ≤ 824 ∧ 0 < s.get Fd.CLK_ADN_THERM_therm_cap) ∧
    (meets (st [(Fd.CLK_ADN_THERM_therm_cap, 5)]) fun s => (800 : Int) ≤ 800 ∧ (800 : Int) < 824 ∧ 3 < s.get Fd.CLK_ADN_THERM_therm_cap) ∧
    (meets (st [(Fd.CLK_ADN_THERM_therm_cap, 3)]) fun s => (760 : Int) ≤ 760 ∧ s.slowStart = true ∧ s.arr.hotPrev = false ∧ s.get Fd.CLK_ADN_THERM_therm_cap < 5) := by
  decide
/-- Core 7 in a state, with flipped weight words as given, and the scrubber on. -/
def coreIn (state : Nat) (ecc : List (Nat × Nat × Nat)) (l : List (Fld × Nat) := []) : State :=
  { st ([(Fd.ADN_CORE_STAT_state 7, state), (Fd.ADN_CTRL_scrub_en, 1)] ++ l) with arr := { State.reset.arr with eccW := ecc } }
theorem premise_CoresAreTestedAndScrubbed :
    (meets (coreIn 5 [] [(Fd.ADN_CORE_TEST_test_run 7, 1)]) fun s => s.coreState 7 = 5 ∧ s.flag (Fd.ADN_CORE_TEST_test_run 7) = true) ∧
    (meets (coreIn 5 []) fun s => s.coreState 7 = 5 ∧ s.flag (Fd.ADN_CORE_TEST_test_run 7) = false) ∧
    (meets (coreIn 1 [(7, 1, 1)]) fun s => s.flag Fd.ADN_CTRL_scrub_en = true ∧ s.computeDown = false ∧ ∀ e ∈ s.arr.eccW, s.scrubHit e = false) ∧
    (meets (coreIn 2 [(7, 0, 1)]) fun s => s.arr.eccW = [(7, s.arr.scrub, 1)] ∧ 2 ≤ s.coreState 7 ∧ s.coreState 7 ≤ 4) ∧
    (meets (coreIn 4 [(7, 0, 2)]) fun s => s.arr.eccW = [(7, s.arr.scrub, 2)] ∧ 2 ≤ s.coreState 7 ∧ s.coreState 7 ≤ 4) := by decide
/-- A package as Tables 08-1 to 08-4 lay it out: one variant of one core, one input of one channel, one named output, and a signature of zeros. -/
def package : List Nat :=
  beBytes 4 0x46424B54 ++ beBytes 2 1 ++ beBytes 2 1 ++ beBytes 4 2690 ++ beBytes 4 260 ++ List.replicate 40 0 ++ [1, 1, 0, 0] ++ beBytes 2 1 ++ beBytes 2 1 ++
    beBytes 4 224 ++ beBytes 4 244 ++ List.replicate 8 0 ++ beBytes 4 260 ++ List.replicate 44 0 ++
    ([1] ++ List.replicate 63 0) ++ List.replicate 32 0 ++
    ([4, 0, 0, 0] ++ beBytes 2 1 ++ List.replicate 14 0) ++ ([4] ++ List.replicate 15 0) ++
    (List.replicate 8 9 ++ beBytes 2 2420 ++ List.replicate 2420 0)
/-- Slot 4 holds a package that has arrived in one piece, and key slot 1 a key with the package's identifier. -/
def stored (bytes : List Nat) (total : Nat) : State :=
  { State.reset with arr := { State.reset.arr with slots := vset State.reset.arr.slots 4 { SlotRt.reset with parts := [(0, bytes)], total := total } }
                     sec := { State.reset.sec with keys := vset State.reset.sec.keys 1 (some ⟨[], List.replicate 8 9⟩) } }
theorem premise_PackageIsStoredOrRefused :
    (meets (stored [1] 2) fun s => s.pkgWhole 4 = false) ∧
    (meets (stored [1] 1) fun s => s.pkgWhole 4 = true ∧ (readPkg (s.pkgBytes 4)).isNone = true) ∧
    (meets (stored package 1) fun s => s.pkgWhole 4 = true ∧ ((readPkg (s.pkgBytes 4)).map fun k => (s.keySlot k.signers k.keyId).isSome) = some true ∧
      (s.pkgBytes 4).length ≤ 268435456) := by decide +kernel
/-- Slot 4 runs on core 7, its pass due, and the frame as given. -/
def running (core frame : Nat) (x : SlotRt := { SlotRt.reset with cores := [some 7], due := true }) : State :=
  { st [(Fd.ADN_CORE_STAT_state 7, core), (Fd.ADN_CORE_STAT_slot 7, 4), (Fd.MDL_SLOT_STAT_state 4, 3), (Fd.MDL_CTRL_run_en, 1), (Fd.MDL_SLOT_STAT_overrun_run 4, 2)] with
    arr := { State.reset.arr with slots := vset State.reset.arr.slots 4 x, winCycles := 100 }, time := { State.reset.time with frame := frame } }
theorem premise_CoresLoadAndPassesEnd :
    (meets (running 2 16) fun s => s.coreState 7 = 2 ∧ s.get (Fd.ADN_CORE_STAT_slot 7) = 4) ∧
    (meets (running 4 251) fun s => s.coreState 7 ≠ 2 ∧ s.passEnds 4 [100] = true ∧ s.passEnds 4 [101] = false ∧ (s.slot 4).cores.Nodup ∧
      (s.slot 4).cores[0]? = some (some 7)) := by decide
theorem premise_ResultsCommitAndTelemetryIsAssembled :
    (meets (running 3 251) fun s => s.fcFrame ≠ 252 ∧ 16 ≤ s.fcFrame) ∧
    (meets (running 4 252 { SlotRt.reset with cores := [some 7], due := true, done := true }) fun s => s.fcFrame = 252 ∧ s.computeDown = false ∧
      (s.slot 4).due = true ∧ (s.slot 4).done = true ∧ (s.slot 4).spoilt = false ∧ s.slotState 4 = 3 ∧ s.flag Fd.MDL_CTRL_run_en = true ∧ (s.slot 4).cores = [some 7] ∧
      s.coreState 7 = 4 ∧ (s.core 7).fencePend = false) ∧
    (meets (running 4 252) fun s => s.fcFrame = 252 ∧ (s.slot 4).due = true ∧ (s.slot 4).done = false ∧ s.slotState 4 = 3 ∧ s.excuses 4 = false ∧
      s.get (Fd.MDL_SLOT_STAT_overrun_run 4) = 2) ∧
    (meets (atFrame 15) fun s => s.fcFrame < 16 ∧ s.computeDown = false) := by decide

/-! ## Cell chain -/

/-- String 1 is declared, its ring in a state, and its node 14 in a state; the frame of the sweep and the ring and node as given. -/
def chain (ring node frame : Nat) (x : ChnStr := .reset) (n : ChnNode := .reset) (l : List (Fld × Nat) := []) : State :=
  { st ([(Fd.ZFB_DECL_PWR_strings, 7), (Fd.CHN_STR_STAT_ring 1, ring), (Fd.CHN_NODE_STAT_state 1 14, node)] ++ l) with
    chn := { State.reset.chn with strs := vset State.reset.chn.strs 1 x, nodes := vset State.reset.chn.nodes 1 (vset (vget State.reset.chn.nodes 1) 13 n) }
    time := { State.reset.time with frame := frame } }
theorem premise_RingCommandsLeaveInTheirSlots :
    (meets (chain 1 1 0 { ChnStr.reset with snapDue := true }) fun s => (s.ring 1).snapDue = true ∧ 999 < s.time.len) ∧
    (meets (chain 1 1 0 { ChnStr.reset with hushDue := true }) fun s => (s.ring 1).snapDue = false ∧ (s.ring 1).hushDue = true) ∧
    (meets (chain 1 1 860) fun s => s.served 1 = true ∧ (s.ring 1).txn = none ∧ s.readDue 1 13 = true ∧ (s.node 1 13).failed = false ∧
      28 + 64 * 13 ≤ s.sweepFrame ∧ s.sweepFrame < 92 + 64 * 13) ∧
    (meets (chain 1 1 924 .reset { ChnNode.reset with failed := true }) fun s => 924 ≤ s.sweepFrame ∧ s.sweepFrame < 1024 ∧ s.retryNode 1 = some 13) ∧
    (meets (chain 1 1 1401) fun s => s.nodeReady 1 13 = true ∧ 1024 + 29 * 13 ≤ s.sweepFrame ∧ s.sweepFrame < 1053 + 29 * 13) ∧
    (meets (chain 1 1 1536 .reset .reset [(Fd.CHN_STR_STAT_owt_active 1, 1)]) fun s => s.served 1 = true ∧ s.flag (Fd.CHN_STR_STAT_owt_active 1) = true ∧
      s.sweepFrame = 1536) ∧
    (meets (chain 1 1 2943 .reset .reset [(Fd.CHN_STR_STAT_owt_active 1, 1)]) fun s => s.nodeReady 1 13 = true ∧ s.nodeState 1 13 ≠ 3 ∧
      (s.node 1 13).ow = none ∧ 2048 + 64 * 13 ≤ s.sweepFrame ∧ s.sweepFrame < 2112 + 64 * 13) ∧
    (meets (chain 2 1 1430) fun s => s.ringTestDue 1 = true) := by decide
theorem premise_RepliesEndOrFailTransactions :
    (meets (chain 1 1 0) fun s => (s.ring 1).txn = none) ∧
    (meets (chain 1 1 0 { ChnStr.reset with txn := some ⟨14, 0x20, 3, 3⟩ }) fun s => (s.ring 1).txn = some ⟨14, 0x20, 3, 3⟩) ∧
    (ChnTxn.answered ⟨14, 0x20, 3, 3⟩ true 14 3 0x20 = true ∧ ChnTxn.answered ⟨14, 0x20, 3, 3⟩ true 14 4 0x20 = false ∧
      ChnTxn.answered ⟨1, 0x50, 3, 1⟩ true 1 3 0x50 = true) ∧
    (meets (chain 2 1 4048 { ChnStr.reset with enumDue := true }) fun s => s.ringState 1 ≠ 1 ∧ s.strDecl 1 = true ∧ (s.ring 1).enumDue = true ∧
      s.housekeeping 1 = true) := by decide
theorem premise_ReadingsCommitAtFrame1024 :
    (meets (chain 1 1 1023) fun s => s.sweepFrame ≠ 1024) ∧
    (meets (chain 1 1 1024 .reset { ChnNode.reset with read := some [] } [(Fd.CHN_NODE_STAT_broken_tap 1 14, 31)]) fun s => s.sweepFrame = 1024 ∧
      s.served 1 = true ∧ s.nodeState 1 13 ≠ 3 ∧ (s.node 1 13).read = some [] ∧ 16 < s.get (Fd.CHN_NODE_STAT_broken_tap 1 14) ∧ s.served 2 = false) ∧
    (meets (chain 1 2 1024 .reset .reset [(Fd.CHN_NODE_STAT_missing_run 1 14, 2)]) fun s => s.nodeState 1 13 ≠ 3 ∧ (s.node 1 13).read = none ∧
      2 ≤ s.get (Fd.CHN_NODE_STAT_missing_run 1 14)) ∧
    (meets (chain 1 3 1024) fun s => s.nodeState 1 13 = 3) := by decide
/-- Node 14 in a test sweep, with deltas of 16 zeros, a tap suspected and a tap broken. -/
def tested (suspect broken : Nat) (deltas : List Nat) : State :=
  chain 1 1 3072 .reset { ChnNode.reset with ow := some deltas }
    [(Fd.CHN_STR_STAT_owt_active 1, 1), (Fd.CHN_NODE_STAT_suspect_tap 1 14, suspect), (Fd.CHN_NODE_STAT_broken_tap 1 14, broken)]
/-- The deltas of a node (R263) with an open tap 16: fifteen of 1000 mV, and the last one 0. -/
def openAt16 : List Nat := (List.replicate 15 (beBytes 2 10000)).flatten ++ [0, 0]
theorem premise_OpenWireTestIsJudged :
    (meets (chain 1 1 3071) fun s => s.sweepFrame ≠ 3072) ∧
    (meets (tested 16 31 openAt16) fun s => s.sweepFrame = 3072 ∧ s.served 1 = true ∧ s.flag (Fd.CHN_STR_STAT_owt_active 1) = true ∧ s.nodeState 1 13 ≠ 3 ∧
      (s.node 1 13).ow = some openAt16 ∧ s.get (Fd.CHN_NODE_STAT_suspect_tap 1 14) ≤ 16 ∧ s.openTap 1 13 openAt16 16 = true ∧ (s.node 0 0).ow = none) ∧
    (meets (tested 0 31 openAt16) fun s => s.get (Fd.CHN_NODE_STAT_suspect_tap 1 14) ≤ 16 ∧ tapOpen openAt16 0 = false ∧ s.tapBiased 1 13 0 = false) ∧
    (meets (tested 31 31 openAt16) fun s => 16 < s.get (Fd.CHN_NODE_STAT_suspect_tap 1 14) ∧ (s.node 1 13).suspCell = none ∧
      16 < s.get (Fd.CHN_NODE_STAT_broken_tap 1 14) ∧ ((List.range 17).filter (s.openTap 1 13 openAt16)).head? = some 16) := by decide

/-! ## Estimation -/

/-- String 1 is declared and its model valid, with the estimate given, and a record waits at the commit. -/
def estimating (x : EstStr) (l : List (Fld × Nat) := []) : State :=
  { st ([(Fd.ZFB_DECL_PWR_strings, 7), (Fd.EST_MODEL_CTRL_valid 1, 1)] ++ l) with
    est := { State.reset.est with strs := vset State.reset.est.strs 1 x }, arr := { State.reset.arr with estOut := some [] } }
theorem premise_EstimateCommitFormsReportedValues :
    (meets .reset fun s => s.arr.estOut = none) ∧ (meets (standby (estimating .reset)) fun s => s.arr.estOut = some [] ∧ s.isStandby = true) ∧
    (meets (estimating { EstStr.reset with initDue := false } [(Fd.CHN_CELL_stale 1 0, 0)]) fun s => s.arr.estOut = some [] ∧ s.isStandby = false ∧
      s.strDecl 1 = true ∧ s.flag (Fd.EST_MODEL_CTRL_valid 1) = true ∧ (s.estStr 1).initDue = false ∧ s.cutoffCell 1 = some 0 ∧
      s.flag (Fd.EST_MODEL_CTRL_valid 2) = false) ∧
    (meets (estimating { EstStr.reset with initDue := false, qPrev := -1 }) fun s => (s.estStr 1).initDue = false ∧ s.cutoffCell 1 = none ∧
      (s.estStr 1).qPrev < s.qSnap 1) ∧
    (meets (estimating { EstStr.reset with initDue := false, d := ⟨101, 1⟩ } [(Fd.EST_CONFLICT_hold_thr, 100)]) fun s => s.cutoffCell 1 = none ∧
      s.qSnap 1 ≤ (s.estStr 1).qPrev ∧ (Frac.ofInt (s.get Fd.EST_CONFLICT_hold_thr)).lt (s.estStr 1).d = true) := by decide +kernel
theorem premise_CommitFindingsAreCarriedOut :
    (meets .reset fun s => (s.estStr 1).eocNow = false ∧ (s.estStr 1).conflictNow = false ∧ (s.estStr 1).restNow = false ∧ (s.estStr 1).anchor = none) ∧
    (meets (estimating { EstStr.reset with eocNow := true }) fun s => (s.estStr 1).eocNow = true) ∧
    (meets (estimating { EstStr.reset with conflictNow := true }) fun s => (s.estStr 1).conflictNow = true ∧ s.notHeld 11 false 1 0x701) ∧
    (meets (estimating { EstStr.reset with restNow := true } [(Fd.EST_CTRL_calib, 2)]) fun s => (s.estStr 1).restNow = true ∧ bit (s.get Fd.EST_CTRL_calib) 1 = true ∧
      (s.estStr 1).anchor = none) ∧
    (meets (estimating { EstStr.reset with restNow := true } [(Fd.EST_CTRL_calib, 1)]) fun s => bit (s.get Fd.EST_CTRL_calib) 1 = false) ∧
    (meets (estimating { EstStr.reset with restNow := true, sStr := ⟨80, 1⟩, learned := 40000, anchor := some ⟨⟨30, 1⟩, 0, 0, false⟩ }
        [(Fd.EST_CTRL_calib, 2), (Fd.EST_MODEL_CTRL_cap_rated 1, 40000), (Fd.EST_STR_CAP_cap 1, 40000)]) fun s =>
      (s.estStr 1).anchor = some ⟨⟨30, 1⟩, 0, 0, false⟩ ∧ (Frac.ofInt 50).le ((s.estStr 1).sStr.sub ⟨30, 1⟩).abs = true ∧
      (Frac.mk (s.get (Fd.EST_MODEL_CTRL_cap_rated 1)) 2).le (s.restCapacity 1 ⟨⟨30, 1⟩, 0, 0, false⟩) = true ∧
      (s.restCapacity 1 ⟨⟨30, 1⟩, 0, 0, false⟩).le ⟨11 * s.get (Fd.EST_MODEL_CTRL_cap_rated 1), 10⟩ = true) ∧
    (meets { estimating { EstStr.reset with anchor := some ⟨⟨30, 1⟩, 0, 0, false⟩ } [(Fd.EST_ANCHOR_AGE_anchor_age, 1)] with
        time := { State.reset.time with frameStart := secCycles 3600 } } fun s =>
      0 + secCycles (3600 * s.get Fd.EST_ANCHOR_AGE_anchor_age) ≤ s.now) := by unfold State.notHeld; decide
theorem premise_CapacityStoreKeepsOneGoodSlot :
    (meets .reset fun s => s.storeNow = false ∧ s.isStandby = false) ∧ (meets standby fun s => s.isStandby = true) ∧
    (meets { State.reset with est := { State.reset.est with storeDue := true } } fun s => s.storeNow = true ∧ s.est.failed = 0) ∧
    (meets { State.reset with est := { State.reset.est with storeDue := true, failed := 1 } } fun s => s.storeNow = true ∧ 1 ≤ s.est.failed) := by decide
/-! ## Lockstep pair -/

/-- A state whose LKS block holds what is given. -/
def lks (x : LksRt) (s : State := .reset) : State := { s with lks := x }
theorem premise_SetsAndClaimsAreExchanged :
    (meets (lks { LksRt.reset with partnerValid := true }) fun s => 300 ≤ 300 ∧ s.inp.closed = false ∧ InputSet.empty.frame = s.time.frame ∧
      s.lks.partnerValid = true ∧ s.flt.safe = false ∧ s.inReset 2 = false) ∧
    (meets (st [(Fd.LKS_WDOG_STAT_missing, 1)]) fun s => s.lks.partnerValid = false ∧ s.lks.lost = false ∧ (s.atCycle 980).graceMark.healthItems ≠ 0) ∧
    (meets (lks { LksRt.reset with lost := true }) fun s => s.lks.lost = true ∧ s.flag Fd.LKS_STAT_single = false ∧ s.flag Fd.LKS_CTRL_pair_mode = false) ∧
    (meets (lks { LksRt.reset with lost := true } (st [(Fd.LKS_STAT_single, 1)])) fun s => s.lks.lost = true ∧ s.flag Fd.LKS_STAT_single = true) ∧
    (meets { lks { LksRt.reset with onSet := true } with lpe := { State.reset.lpe with ran := true } } fun s => s.lks.onSet = true ∧ s.lpe.ran = true) ∧
    (reportOk (vall 16 0) = false ∧ reportOk (vset (vall 16 0) 15 (crc32 (List.replicate 60 0))) = true) := by decide +kernel
theorem premise_SetsAndClaimsAreExchanged_outputs (crc : Word) (s : State) (h : (vget s.lpe.loops 0).y = .zero) : s.sameOutputs crc (vall 7 1) = false := by
  have h0 : (vget (vall 7 (1 : Word)) 0 == (vget s.lpe.loops 0).y.toWord) = false := by rw [h]; decide
  have : ((List.finRange 7).all fun l => vget (vall 7 (1 : Word)) l == (vget s.lpe.loops l).y.toWord) = false :=
    List.all_eq_false.mpr ⟨0, List.mem_finRange 0, by rw [h0]; decide⟩
  unfold State.sameOutputs
  rw [this, Bool.and_false]
/-- An image of the pair state as the reset state would send it. -/
def image : PairImage :=
  { regs := [], loops := vall 7 .reset, prf := .reset, zfb := .reset, wgl := .reset, chn := .reset, est := .reset }
theorem premise_ImagesAndBulkItemsAreTaken :
    (meets .reset fun s => s.isStandby = false) ∧ (meets standby fun s => s.isStandby = true ∧ s.lks.resyncReq = false) ∧ Regs.wf image.regs = true ∧
    (meets (lks { LksRt.reset with partnerValid := true, resyncReq := true }) fun s => s.isStandby = true ∧ s.lpe.ran = false ∧ s.lks.resyncReq = true) := by decide
/-- A standby whose test of core 7 is due, the core in a state. -/
def testing (core : Nat) (x : LksRt) (l : List (Fld × Nat) := []) : State :=
  { st ([(Fd.LKS_CTRL_test_en, 1), (Fd.LKS_TEST_next_core, 7), (Fd.LKS_TEST_interval, 1), (Fd.ADN_CORE_STAT_state 7, core)] ++ l) with
    lks := x, pins := { State.reset.pins with valid := true } }
/-- A standby. -/
def follower : LksRt := { LksRt.reset with partnerValid := true }
/-- A package of one variant with one core, whose entry asks for little. -/
def small : Pkg :=
  { standard := true, version := 0, findi := 0, period := 1, phase := 0, variants := [⟨0, [⟨0, 0, 0, 0, 0⟩]⟩], ins := [], outs := []
    keyId := List.replicate 8 9 }
theorem premise_StandbyTestsItsChannelsAndCores :
    (meets (lks { LksRt.reset with adcCnt := 1, adcSum := vset (vset (vall 24 0) 5 (-21)) 6 20, adcBad := vall 24 3, adcGood := vall 24 3 }
        (st [(Fd.LKS_ADC_TOL_adc_tol, 20), (Fd.LPE_SNS_ABSENT_absent, 1)])) fun s =>
      s.sweepStart = true ∧ s.lks.adcCnt ≠ 0 ∧ bit (s.get Fd.LPE_SNS_ABSENT_absent) 0 = true ∧ bit (s.get Fd.LPE_SNS_ABSENT_absent) 5 = false ∧
      s.get Fd.LKS_ADC_TOL_adc_tol * s.lks.adcCnt < (vget s.lks.adcSum 5).natAbs ∧ (vget s.lks.adcSum 6).natAbs ≤ s.get Fd.LKS_ADC_TOL_adc_tol * s.lks.adcCnt) ∧
    (meets .reset fun s => s.lks.adcCnt = 0) ∧ (meets (atFrame 1) fun s => s.rotates = false) ∧
    (meets { testing 5 { follower with testFrom := some 0 } with time := { State.reset.time with frame := 262144 } } fun s =>
      s.rotates = true ∧ s.lks.testFrom = some 0 ∧ 0 < s.slowIdx ∧ 7 = s.turnCore ∧ s.coreState 7 ≠ 6) ∧
    (meets (testing 5 { follower with testFrom := some 0 }) fun s => s.rotates = true ∧ s.lks.testFrom = some 0 ∧ s.slowIdx ≤ 0) ∧
    (meets .reset fun s => s.rotates = true ∧ s.lks.testFrom = none ∧ s.testsCores = false) ∧
    (meets (testing 1 follower [(Fd.LKS_TEST_interval, 2)]) fun s => s.testsCores = true ∧ s.lks.testSlow + 1 < max 1 (s.get Fd.LKS_TEST_interval)) ∧
    (meets (testing 1 follower) fun s => 7 = s.turnCore ∧ s.lks.testFrom = none ∧ s.testsCores = true ∧
      max 1 (s.get Fd.LKS_TEST_interval) ≤ s.lks.testSlow + 1 ∧ s.coreState 7 ≤ 1) ∧
    (meets (testing 6 follower) fun s => s.testsCores = true ∧ s.coreState 7 = 6) ∧
    (meets { testing 3 follower with arr := { State.reset.arr with reqs := [.evict 0] } } fun s => 1 < s.coreState 7 ∧ s.coreState 7 ≠ 6 ∧ s.arr.reqs ≠ []) ∧
    (meets { testing 3 follower [(Fd.ADN_CORE_STAT_slot 7, 4)] with arr :=
        { State.reset.arr with slots := vset State.reset.arr.slots 4 { SlotRt.reset with pkg := some small, cores := [some 7] } } } fun s =>
      1 < s.coreState 7 ∧ s.coreState 7 ≠ 6 ∧ s.arr.reqs = [] ∧ s.get (Fd.ADN_CORE_STAT_slot 7) = 4 ∧ (s.slot 4).pkg = some small ∧
      (small.variants[s.get (Fd.MDL_SLOT_STAT_variant 4)]?.bind fun b => b.entries[(s.core 7).virt]?) = some ⟨0, 0, 0, 0, 0⟩ ∧
      (s.replacement (s.slot 4).bank ⟨0, 0, 0, 0, 0⟩).isSome = true) := by decide +kernel
/-- Everything that a complete start needs (R304). -/
def ready (x : LksRt) : State :=
  { st [(Fd.CLK_SRC_STAT_pll0_lock, 1), (Fd.CLK_SRC_STAT_pll2_lock, 1)] with
    sec := { State.reset.sec with running := true }, flt := { State.reset.flt with rstOn := vall 4 false }, lks := x }
theorem premise_ModulesStartAndJoin :
    (meets .reset fun s => s.startReady = false ∧ s.lks.join ≠ .pairWait ∧ s.joinReady = false) ∧
    (meets (ready { LksRt.reset with partnerValid := true }) fun s => s.startReady = true ∧ s.lks.partnerValid = true) ∧
    (meets (ready .reset) fun s => s.startReady = true ∧ s.lks.partnerValid = false) ∧
    (meets (lks { LksRt.reset with join := .pairWait, lockUp := true }) fun s => s.lks.join = .pairWait ∧ s.lks.lockUp = true) ∧
    (meets (lks { LksRt.reset with join := .pairWait, waitFrames := 49999 }) fun s => s.lks.join = .pairWait ∧ s.lks.lockUp = false ∧
      s.lks.waitFrames < (if s.slotA then 50000 else 62500)) ∧
    (meets (lks { LksRt.reset with join := .pairWait, waitFrames := 62500 } (st [(Fd.LKS_STAT_slot_id, 1)])) fun s => s.lks.lockUp = false ∧
      (if s.slotA then 50000 else 62500) ≤ s.lks.waitFrames ∧ s.flag Fd.LKS_STAT_single = false ∧ s.flag Fd.LKS_CTRL_pair_mode = false) ∧
    (meets (lks { LksRt.reset with join := .joining, partnerValid := true, lockUp := true } (st [(Fd.SNS_SYNC_STAT_state, 2)])) fun s => s.joinReady = true) ∧ Regs.wf image.regs = true ∧
    (meets (atFrame 1) fun s => s.slowStart = false) ∧ (meets .reset fun s => s.slowStart = true ∧ s.flag Fd.KPR_SUPPLY_STAT_bow = false) := by decide

/-! ## Links -/

/-- A telemetry frame of a version. -/
def teleOf (ver : Nat) : Telemetry := { (default : Telemetry) with ver := ver }
theorem premise_LanesTrainAndTakeTelemetry :
    (meets .reset fun s => s.stageDecl 3 = false ∧ s.laneDecl 5 = false ∧ vget s.zfb.unreach 3 < 64) ∧
    (meets serving fun s => s.stageDecl 3 = true ∧ s.get (Fd.STL_LANE_STAT_version 3) ≠ 0 ∧ (teleOf 1).ver ≠ s.get (Fd.STL_LANE_STAT_version 3) ∧
      (teleOf 2).ver = s.get (Fd.STL_LANE_STAT_version 3) ∧ s.linksOff = false) ∧
    (meets { State.reset with flt := { State.reset.flt with safe := true } } fun s => s.linksOff = true) ∧
    (getBits (0x32000000 : Word) 28 4 = laneKind 3 ∧ getBits (0x32000000 : Word) 24 2 ≠ 0 ∧ getBits (0x30000000 : Word) 24 2 = 0 ∧
      getBits (0x12000000 : Word) 28 4 ≠ laneKind 3) ∧
    (meets (tray .reset) fun s => s.laneDecl 5 = true ∧ s.linksOff = false) ∧
    (meets { State.reset with zfb := { State.reset.zfb with unreach := vset State.reset.zfb.unreach 25 64 } } fun s =>
      64 ≤ vget s.zfb.unreach 25 ∧ s.stageFenced 25 = false) := by decide
theorem premise_BitErrorTestRunsItsPhases :
    (meets .reset fun s => s.link.bert = .none ∧ s.get Fd.STL_BERT_STAT_hours < 72) ∧
    (meets { st [(Fd.STL_LANE_STAT_state 3, 4), (Fd.WGL_LINK_STAT_state 5, 4), (Fd.LKS_LOCK_STAT_state, 4)] with
        link := { State.reset.link with bert := .phase 2 }, lks := { LksRt.reset with partnerValid := true } } fun s =>
      s.link.bert ≠ .none ∧ s.get (Fd.STL_LANE_STAT_state 3) = 4 ∧ s.get (Fd.WGL_LINK_STAT_state 5) = 4 ∧ s.get Fd.LKS_LOCK_STAT_state = 4 ∧
      s.link.bert = .phase 2 ∧ s.lks.partnerValid = true) ∧
    (meets (st [(Fd.STL_BERT_STAT_hours, 72)]) fun s => 72 ≤ s.get Fd.STL_BERT_STAT_hours ∧ s.flag Fd.STL_BERT_STAT_overdue = false) := by decide

/-! ## Wilros packets -/

/-- A session on a port in a role, opened in the newest version. -/
def sess (port : Fin 3) (role : Nat) : Sess :=
  { num := 5, port := port, role := role, version := 0x31, slot := 3, keyId := [], last := 0, high := 0, accepted := [], replies := [], nonce := [], record := [],
    recordAt := 0, signing := false }
/-- The firmware runs, and one session is open and holds the semaphore. -/
def opened (x : Sess) (s : State := .reset) : State :=
  { s with sec := { s.sec with running := true }, mgp := { s.mgp with sessions := [x], sem := some (x.port, x.num, 0) } }
/-- A packet of session 5 with sequence 1. -/
def pkt (port : Fin 3) (payload : List Nat) : Pkt :=
  { port := port, cyc := 0, notPacket := false, lenOk := true, version := 0x31, tag := 1, session := 5, seq := 1, macOk := true, payload := payload }
theorem premise_PacketsAreCheckedInOrder_command : (Instr.keepalive (pkt 0 []), keepaliveOp, never) ∈ sessionCommands (pkt 0 []) true := .tail _ (.head _)
theorem premise_PacketsAreCheckedInOrder :
    (meets (opened (sess 0 0)) fun s => s.portUp 0 = true ∧ (pkt 0 []).notPacket = false ∧ { pkt 0 [] with lenOk := false }.lenOk = false ∧
      (s.arrive (pkt 1 [])).sessionOf (pkt 1 []) = none ∧ (s.arrive (pkt 0 [])).sessionOf (pkt 0 []) = some (sess 0 0)) ∧
    (meets (opened (sess 0 0)) fun s => s.known (pkt 0 []) (sess 0 0) ∧ (sess 0 0).accepts 1 = true ∧ (sess 0 0).accepts 0 = false ∧
      s.takesPacket keepaliveOp (pkt 0 []) ∧ keepaliveOp.minVer ≤ (sess 0 0).version ∧ semSeizeOp.roles.contains (sess 0 0).role = false) ∧
    (meets { opened (sess 0 0) with flt := { State.reset.flt with halt := .service } } fun s => (s.taken (pkt 0 [])).flt.halt ≠ .none ∧ rebindOp.inHalt = false) ∧
    (meets { opened (sess 0 0) with mgp := { (opened (sess 0 0)).mgp with sem := none } } fun s => regWriteOp.sem = true ∧
      regWriteOp.roles.contains (sess 0 0).role = true ∧ (s.taken (pkt 0 [])).flt.halt = .none ∧ s.flag Fd.SEC_BOOT_recovery = false ∧
      (s.taken (pkt 0 [])).holdsSem 0 5 = false) := by
  unfold State.known State.takesPacket; decide +kernel
/-- Every check passes for a packet of an operator, an installer or a maker (Table 13-3). -/
def allowed (e : OpInfo × Nat × List Nat × Option Nat) : Prop :=
  (opened (sess 2 e.2.1)).passes e.1 (pkt 2 e.2.2.1) never always (fun _ => e.2.2.2) (sess 2 e.2.1)
theorem premise_ReadsAnswerWithWhatTheyName : ∀ e ∈ [(regReadOp, 0, beBytes 4 Reg.SNS_TIME_LO ++ [0, 1, 0, 0], (pkt 2 (beBytes 4 Reg.SNS_TIME_LO ++ [0, 1, 0, 0])).readsBad),
    (combReadOp, 0, [], none), (profileReadOp, 0, [], none), (cellReadOp, 0, [2, 223, 1, 0], (pkt 2 [2, 223, 1, 0]).lenAnd 4 true),
    (basketStatusOp, 0, [31, 0, 0, 0], none), (faultReadOp, 0, [17, 0, 0, 0], none), (healthReadOp, 0, [], none), (resultReadOp, 0, [31, 0, 64, 0], none),
    (hamperReadOp, 0, [0, 0, 0, 0, 0, 0, 0, 1], (pkt 2 [0, 0, 0, 0, 0, 0, 0, 1]).len 8), (logReadOp, 1, List.replicate 8 0, none),
    (dumpReadOp, 1, [3, 0, 0, 0, 0, 0, 0, 0, 0, 0, 0, 1], none), (claimHistoryOp, 0, [], none)], allowed e := by
  unfold allowed State.passes; decide +kernel
theorem premise_ReadsAnswerWithWhatTheyName_one :
    (pkt 2 (beBytes 4 Reg.SNS_TIME_LO ++ [0, 1, 0, 0])).reads = [(Reg.SNS_TIME_LO, 1)] ∧ blockOf Reg.SNS_TIME_LO = some 8 ∧
    (meets .reset fun s => vget s.flt.noAnswer 8 = 0) := by decide +kernel
/-- Every check passes for a packet of an installer that may write. -/
def writable (e : OpInfo × List Nat × Option Nat) : Prop :=
  (opened (sess 2 1)).passes e.1 (pkt 2 e.2.1) never always (fun _ => e.2.2) (sess 2 1)
theorem premise_PacketWritesWaitForTheNextFrame : ∀ e ∈ [(rebindOp, [15, 3, 0, 0], none), (rebindAbortOp, [], (pkt 2 []).len 0),
    (fenceClearOp, [4, 15, 0, 0], (pkt 2 [4, 15, 0, 0]).lenAnd 4 (decide (15 < fenceKinds 4))), (stringDutyOp, [2, 3, 0, 0], none),
    (groupLimitOp, [62, 0, 15, 255], (pkt 2 [62, 0, 15, 255]).lenAnd 4 (decide (beNat [15, 255] ≤ 4095))), (csetLoadOp, 6 :: 3 :: 1 :: List.replicate 37 0, none),
    (loopModeOp, 6 :: 1 :: List.replicate 6 0, none), (storageClearOp, [0, 2, 14, 0], none), (capacityLoadOp, 2 :: List.replicate 7 0, none),
    (quarantineClearOp, [31, 0, 0, 0], none), (arrayTargetOp, [7, 0, 0, 0], none), (faultAckOp, 17 :: List.replicate 7 0, none)], writable e := by
  unfold writable State.passes; decide +kernel
/-- One register write and one masked register write, of FFW_PP_CTRL. -/
def writeOne : List Nat := beBytes 4 Reg.FFW_PP_CTRL ++ [0, 0, 0, 1]
def writeMasked : List Nat := beBytes 4 Reg.FFW_PP_CTRL ++ [0, 0, 0, 1] ++ [0, 0, 0, 1]
theorem premise_PacketWritesWaitForTheNextFrame_registers :
    ((opened (sess 2 1)).passes regWriteOp (pkt 2 writeOne) (fun s => s.commissionBusy [(Reg.FFW_PP_CTRL, 0xFFFFFFFF, 1)])
      (fun s x => s.writeDenied x [(Reg.FFW_PP_CTRL, 0xFFFFFFFF, 1)]) (fun _ => writesBad ((pkt 2 writeOne).entriesOk 8 1024) [(Reg.FFW_PP_CTRL, 0xFFFFFFFF, 1)])
      (sess 2 1)) ∧
    ((opened (sess 2 1)).passes regWriteMaskedOp (pkt 2 writeMasked) (fun s => s.commissionBusy (pkt 2 writeMasked).maskedWrites)
      (fun s x => s.writeDenied x (pkt 2 writeMasked).maskedWrites) (fun _ => writesBad ((pkt 2 writeMasked).entriesOk 12 682) (pkt 2 writeMasked).maskedWrites)
      (sess 2 1)) := by unfold State.passes; decide +kernel
/-- KEY_LOAD of a slot: a payload of the length that R390 gives. -/
def keyPayload (op slot : Nat) : List Nat := op :: slot :: List.replicate 3734 0
theorem premise_PacketWritesWaitForTheNextFrame_keys :
    ((opened (sess 2 2)).passes keyOp (pkt 2 (keyPayload 0 1)) never (fun _ x => (pkt 2 (keyPayload 0 1)).keyDenied 0 x) (fun _ => (pkt 2 (keyPayload 0 1)).keyBad 0)
      (sess 2 2)) ∧ (pkt 2 (keyPayload 0 1)).num 1 1 ≤ 2 ∧
    ((opened (sess 2 1)).passes keyOp (pkt 2 (keyPayload 1 20)) never (fun _ x => (pkt 2 (keyPayload 1 20)).keyDenied 1 x) (fun _ => (pkt 2 (keyPayload 1 20)).keyBad 1)
      (sess 2 1)) ∧ 2 < (pkt 2 (keyPayload 1 20)).num 1 1 := by unfold State.passes; decide +kernel
/-- The module in TEST_MODE, or not. -/
def mode (test : Bool) : State := { State.reset with pins := { State.reset.pins with testMode := test } }
/-- TEST_ACCESS of an operation (Table 16-13): a level of Note class in the first block, with count 1. -/
def inject (op : Nat) : List Nat := [op, 0, 0, 0, 0, 0, 0, 1] ++ List.replicate 8 0
theorem premise_PacketWritesWaitForTheNextFrame_injections : ∀ test : Bool, ∀ e ∈ [1, 2, 3, 4, 5, 6, 7, 8],
    (opened (sess 2 2) (mode test)).passes testOp (pkt 2 (inject e)) never always
      (fun _ => (pkt 2 (inject e)).lenAnd 16 ((pkt 2 (inject e)).injectOk && (pkt 2 (inject e)).num 0 1 == e)) (sess 2 2) ∧
    (opened (sess 2 2) (mode test)).pins.testMode = test := by unfold State.passes; decide +kernel
theorem premise_SessionsSemaphoreAndBaskets : ∀ e ∈ [(sessionCloseOp, 0, [], none), (keepaliveOp, 0, [], none), (semAcquireOp, 0, [], none),
    (semReleaseOp, 0, [], none), (semSeizeOp, 1, [], none), (basketStoreOp, 1, [31, 0, 0, 0, 0, 1, 0, 0, 7], none),
    (basketAdmitOp, 1, 31 :: List.replicate 11 0, none), (basketVariantOp, 1, [31, 0, 0, 0], none), (basketEvictOp, 1, [31, 0, 0, 0], none),
    (bertWindowOp, 1, [0, 20, 0, 0], none)], allowed e := by unfold allowed State.passes; decide +kernel
/-- A second session, which holds the semaphore in place of the first. -/
def heldByOther : State := { opened (sess 2 0) with mgp := { (opened (sess 2 0)).mgp with sem := some (0, 9, 0) } }
theorem premise_SessionsSemaphoreAndBaskets_cases :
    (meets heldByOther fun s => (s.taken (pkt 2 [])).mgp.sem ≠ none ∧ (s.taken (pkt 2 [])).holdsSem 2 5 = false) ∧
    (meets (opened (sess 2 0)) fun s => (s.taken (pkt 2 [])).holdsSem 2 5 = true) ∧
    (meets (opened (sess 2 0)) fun s => s.passesUnopened { pkt 2 [0x24, 0x31, 0, 0] with session := 0 } (fun _ => true) 4) ∧
    (0x31 ∈ wilrosVersions ∧ 0x24 ≤ 0x31 ∧ (∀ w ∈ wilrosVersions, w ≤ 0x31 → w ≤ 0x31) ∧ ∀ v ∈ wilrosVersions, ¬(0x32 ≤ v ∧ v ≤ 0x40)) ∧
    (meets (opened (sess 2 1)) fun s => s.slotState 31 = 0 ∧ s.storeUsed + (pkt 2 [31, 0, 0, 0, 0, 1, 0, 0, 7]).pieceBytes.length ≤ 2147483648 ∧
      (s.taken (pkt 2 [31, 0, 0, 0])).afterReqs.admitted 31 = false ∧ s.lks.partnerValid = false ∧ s.anyUnder = false) ∧
    (meets (opened (sess 2 1) (st [(Fd.MDL_SLOT_STAT_state 31, 3)])) fun s => s.slotState 31 ≠ 0 ∧ (s.taken (pkt 2 [])).afterReqs.admitted 31 = true) ∧
    (meets (opened (sess 2 1) serving) fun s => s.lks.partnerValid = false ∧ s.anyUnder = false ∧ s.link.bert = .none ∧ s.get Fd.STL_BERT_STAT_hours < 24) ∧
    (meets (opened (sess 2 1) { serving with zfb := { serving.zfb with under := vset serving.zfb.under 3 true } }) fun s =>
      s.lks.partnerValid = false ∧ s.anyUnder = true) := by unfold State.passesUnopened; decide +kernel
/-- Slot 31 holds a package that is stored, with all of the array at its top level. -/
def admissible : State :=
  opened (sess 2 1) { st [(Fd.MDL_SLOT_STAT_state 31, 1), (Fd.CLK_ADN_LEVEL_max_level, 5), (Fd.CLK_ADN_LEVEL_cap, 5)] with
    arr := { State.reset.arr with slots := vset State.reset.arr.slots 31 { SlotRt.reset with pkg := some small } } }
theorem premise_SessionsSemaphoreAndBaskets_admission :
    (meets admissible fun s => (s.taken (pkt 2 [])).afterReqs.admission 31 0 [] false = .ok ([0], 0)) ∧
    (meets admissible fun s => (s.taken (pkt 2 [])).afterReqs.admission 31 1 [] false = .error 8) := by decide +kernel
theorem premise_PortsAnswerAndSessionsExpire :
    (meets .reset fun s => (∀ x ∈ s.mgp.sessions, ¬(x.port = 2 ∧ x.num = 5)) ∧ s.mgp.sem = none) ∧
    (meets (st [(Fd.MGP_CTRL_session_idle, 1), (Fd.MGP_CTRL_lease, 1)] (opened (sess 2 0))) fun s =>
      (s.mgp.sessions.find? fun x => x.port == 2 && x.num == 5) = some (sess 2 0) ∧ s.now < (sess 2 0).last + secCycles (s.get Fd.MGP_CTRL_session_idle) ∧
      s.mgp.sem = some (2, 5, 0) ∧ s.now < 0 + secCycles (s.get Fd.MGP_CTRL_lease) ∧ s.holdsSem 2 5 = true) ∧
    (meets { st [(Fd.MGP_CTRL_session_idle, 1), (Fd.MGP_CTRL_lease, 1)] (opened (sess 2 0)) with time := { State.reset.time with frameStart := secCycles 1 } } fun s =>
      (sess 2 0).last + secCycles (s.get Fd.MGP_CTRL_session_idle) ≤ s.now ∧ 0 + secCycles (s.get Fd.MGP_CTRL_lease) ≤ s.now) ∧
    (meets { State.reset with mgp := { State.reset.mgp with consoleSkip := true } } fun s => (pkt 2 []).port = 2 ∧ s.mgp.consoleSkip = true) := by decide

/-! ## Trust -/

/-- SESSION_OPEN of an installer with key 3, a nonce of zeros, and the rest zeros. -/
def openPkt : Pkt := { pkt 2 (1 :: List.replicate 4991 0) with session := 0 }
/-- Key 3 is loaded, HELLO has given a nonce on the console, and the port's failed attempts and the end of its closure are as given. -/
def greeted (nonce : Bool) (failed closed : Nat) (l : List Sess := []) : State :=
  { State.reset with
    sec := { State.reset.sec with running := true, keys := vset State.reset.sec.keys 3 (some ⟨[], List.replicate 8 0⟩) }
    mgp := { State.reset.mgp with nonces := vset State.reset.mgp.nonces 2 (if nonce then some ⟨List.replicate 32 0, 0, 0x31⟩ else none), sessions := l
                                  failRun := vset State.reset.mgp.failRun 2 failed, closedTo := vset State.reset.mgp.closedTo 2 closed } }
theorem premise_SessionsOpenUnderTheirKeys :
    (meets (opened (sess 2 1)) fun s => s.known (pkt 2 []) (sess 2 1) ∧ (sess 2 1).accepts 1 = true ∧ s.takesPacket openOp (pkt 2 []) ∧
      openOp.minVer ≤ (sess 2 1).version ∧ openOp.roles.contains (sess 2 1).role = true ∧ (s.taken (pkt 2 [])).flt.halt = .none) ∧
    (meets (greeted true 0 1) fun s => s.passesUnopened openPkt (fun u => u.openVersion openPkt) 4992 ∧
      (s.arrive openPkt).now < vget (s.arrive openPkt).mgp.closedTo openPkt.port) ∧
    (meets (greeted true 15 0) fun s => s.passesUnopened openPkt (fun u => u.openVersion openPkt) 4992 ∧
      vget (s.arrive openPkt).mgp.closedTo openPkt.port ≤ (s.arrive openPkt).now ∧ 15 ≤ vget (s.arrive openPkt).mgp.failRun openPkt.port) ∧
    (meets (greeted false 14 0) fun s => (s.arrive openPkt).nonceFresh openPkt = false ∧ vget (s.arrive openPkt).mgp.failRun openPkt.port < 15) ∧
    (meets (greeted true 0 0) fun s => (s.arrive openPkt).openKey openPkt = some (3, List.replicate 8 0) ∧ (s.arrive openPkt).nonceFresh openPkt = true ∧
      (s.arrive openPkt).mayOpen (openPkt.num 0 1) openPkt.port = true ∧ (s.arrive openPkt).portFull openPkt.port = false ∧ bit (openPkt.num 1 1) 0 = false) ∧
    (meets (greeted true 0 0 [sess 2 1]) fun s => (s.arrive openPkt).portFull openPkt.port = true) := by
  unfold State.known State.takesPacket State.passesUnopened; decide +kernel
/-- Bank B, the inactive one after reset, holds what is given. -/
def bankB (x : FwBank) (checking : Bool := false) : State :=
  { State.reset with sec := { State.reset.sec with banks := vset State.reset.sec.banks 1 x, checking := checking } }
theorem premise_FirmwareIsStoredCheckedAndStarted_packets :
    ((opened (sess 2 1)).passes fwStoreOp (pkt 2 [0, 0, 0, 0, 0, 1, 0, 0, 7]) (fun s => s.inTrial || s.sec.checking) always
      (fun _ => if (pkt 2 [0, 0, 0, 0, 0, 1, 0, 0, 7]).pieceOk then none else some Status.badLength) (sess 2 1)) ∧
    ((opened (sess 2 1)).passes fwActivateOp (pkt 2 [1, 0, 0, 0]) (fun s => s.inTrial || s.sec.checking) always
      (fun _ => (pkt 2 [1, 0, 0, 0]).lenAnd 4 true) (sess 2 1)) := by
  unfold State.passes; decide +kernel
theorem premise_FirmwareIsStoredCheckedAndStarted :
    ((1 : Fin 2) = otherBank State.reset.runBank) ∧
    (meets (bankB { FwBank.empty with valid := true, rollback := 3 } true) fun s => s.sec.checking = true ∧ (s.bank 1).valid = true ∧ s.sec.booted = false ∧
      s.computeDown = false ∧ s.pwr.stopped = false ∧ s.get Fd.SEC_BOOT_rollback ≤ (s.bank 1).rollback) ∧
    (imageOk [] 0 = false ∧ imageOk (beBytes 4 0x4657494D ++ List.replicate 8 0 ++ beBytes 4 2446 ++ List.replicate 2430 0) 0 = true) ∧
    (meets { State.reset with sec := { State.reset.sec with booted := true } } fun s => (!s.computeDown && s.sec.booted && !s.sec.running &&
      !s.flag Fd.SEC_BOOT_recovery && s.flt.halt != .dead) = true ∧ s.flt.halt = .none) := by decide +kernel
/-- A trial in a phase, in a frame. -/
def trial (x : TrialPhase) (frame : Nat) : State := atFrame frame { State.reset with sec := { State.reset.sec with trial := x } }
theorem premise_TrialsEndAndTheCounterRises :
    (meets (trial (.observed 0) 150000000) fun s => s.sec.trial = .observed 0 ∧ 0 + 150000000 ≤ s.time.frame ∧ s.trialBad = false) ∧
    (meets (trial (.observed 0) 149999999) fun s => s.time.frame < 0 + 150000000) ∧ (meets (trial (.starting 0) 2500001) fun s => s.trialBad = true) ∧
    (meets (trial (.starting 0) 2500000) fun s => s.trialBad = false ∧ s.computeDown = false) ∧
    (meets { State.reset with sec := { State.reset.sec with raiseDue := true } } fun s => s.sec.raiseDue = true ∧ s.slowStart = true ∧
      s.flag Fd.KPR_SUPPLY_STAT_bow = false) := by decide
/-- A session whose record of 32 zero bytes is asked for. -/
def attesting (signing : Bool) : Sess := { sess 2 0 with nonce := List.replicate 32 0, record := [1], signing := signing }
theorem premise_RecordsAreSignedAndLogged_packets :
    ((opened (sess 2 0)).passes attestOp (pkt 2 (List.replicate 32 0)) never always (fun _ => (pkt 2 (List.replicate 32 0)).len 32) (sess 2 0)) ∧
    ((opened (sess 2 0)).passes auditReadOp (pkt 2 (List.replicate 12 0)) never always (fun _ => (pkt 2 (List.replicate 12 0)).len 12) (sess 2 0)) := by
  unfold State.passes; decide +kernel
theorem premise_RecordsAreSignedAndLogged :
    (meets (opened (attesting true)) fun s => ((attesting true).nonce == (pkt 2 (List.replicate 32 0)).payload && !(attesting true).record.isEmpty &&
      decide ((s.taken (pkt 2 (List.replicate 32 0))).now < (attesting true).recordAt + secCycles 60)) = true ∧ attesting true ∈ s.mgp.sessions ∧
      (attesting true).signing = true) ∧
    (meets (atFrame 1) fun s => s.slowStart = false ∧ s.sec.staged.length < 64) ∧
    (meets { State.reset with sec := { State.reset.sec with sinceCheck := true, next := 256, staged := [⟨255, [], []⟩], fails := vall 3 1 } } fun s =>
      s.slowStart = true ∧ (s.sec.sinceCheck && s.sec.next != 0 && (s.sec.next % 256 == 0 || (s.slowStart && decide (s.sec.lastCheck + 3433 ≤ s.slowIdx)))) = true ∧
      (s.sec.staged.any fun e => e.n == s.sec.next - 1) = true ∧ vget s.sec.fails 2 ≠ 0) ∧
    (meets { State.reset with sec := { State.reset.sec with sinceCheck := true, next := 256, flash := [(⟨255, [], []⟩, none)] } } fun s =>
      (∀ e ∈ s.sec.staged, e.n ≠ s.sec.next - 1) ∧ (s.sec.flash.any fun e => e.1.n == s.sec.next - 1) = true ∧ ∀ q, vget s.sec.fails q = 0) := by decide +kernel
/-! ## Power and clocks -/

/-- A state whose Keeper holds what is given. -/
def pwr (x : PwrRt) (l : List (Fld × Nat) := []) : State := { st l with pwr := x }
theorem premise_CrystalsAreJudgedAndTaken :
    (meets (st [(Fd.CLK_SRC_STAT_ref, 2)]) fun s => 150 ≤ 150 ∧ vget s.pwr.judge 1 + 2048 ≤ 2048 ∧ vget s.pwr.xtGate 1 ≠ some 0 ∧ s.pwr.lfrcLost = false ∧
      s.flag Fd.KPR_CLKMON_STAT_wait = false ∧ s.get Fd.CLK_SRC_STAT_ref = 2 ∧ s.pwr.tripAt = none ∧ s.flag Fd.CLK_SRC_STAT_xt0_stable = false ∧
      s.pwr.kStart + 8000 ≤ 8000 ∧ s.flag Fd.CLK_SRC_STAT_xt1_stable = false) ∧
    (meets (pwr { PwrRt.reset with xtTimeout := true } [(Fd.CLK_SRC_STAT_xt1_stable, 1)]) fun s => s.pwr.xtTimeout = true ∧
      s.flag Fd.CLK_SRC_STAT_xt1_stable = true) ∧
    (meets (st [(Fd.KPR_CLKMON_STAT_wait, 1)]) fun s => s.flag Fd.KPR_CLKMON_STAT_wait = true ∧ s.pwr.next = none) ∧
    (meets (st [(Fd.CLK_SRC_STAT_ref, 0), (Fd.CLK_SRC_STAT_xt1_stable, 1)]) fun s => s.get Fd.CLK_SRC_STAT_ref ≠ 1 ∧ s.flag (xtStable 1) = true ∧
      s.get Fd.CLK_SRC_STAT_ref ≠ 2 ∧ s.pwr.stopped = false ∧ s.get Fd.CLK_PSTATE_state ≠ 2) := by decide
/-- A trip at LFRC period 100. -/
def tripped : PwrRt := { PwrRt.reset with stopped := true, tripAt := some 100 }
theorem premise_ClockLossStopsAndRestarts :
    (meets (st [(Fd.CLK_SRC_STAT_ref, 0)]) fun s => s.tripPossible 8 = true ∧ s.flag Fd.KPR_CLKMON_STAT_lockout = false ∧ s.pwr.attempt = true) ∧
    (meets (st [(Fd.CLK_SRC_STAT_ref, 0), (Fd.KPR_CLKMON_STAT_attempts, 2)]) fun s => s.tripPossible 1 = true ∧
      3 = (if s.pwr.attempt = true then min 3 (s.get Fd.KPR_CLKMON_STAT_attempts + 1) else s.get Fd.KPR_CLKMON_STAT_attempts)) ∧
    (meets (st [(Fd.CLK_SRC_STAT_ref, 2)]) fun s => s.tripPossible 1 = false ∧ s.pwr.tripAt = none ∧ s.pwr.cleanFrom = none) ∧
    (meets (pwr tripped [(Fd.CLK_SRC_STAT_xt1_stable, 1)]) fun s => s.pwr.tripAt = some 100 ∧ s.flag Fd.KPR_CLKMON_STAT_lockout = false ∧ s.pwr.lfrcLost = false ∧
      420 - 100 ≤ 320 ∧ s.flag Fd.KPR_CLKMON_STAT_wait = false ∧ 100 + 320 ≤ 420 ∧ s.flag Fd.CLK_SRC_STAT_xt1_stable = true) ∧
    (meets (pwr tripped) fun s => 419 < 100 + 320 ∧ s.flag Fd.CLK_SRC_STAT_xt1_stable = false) ∧
    (meets (pwr { tripped with next := some 0, nextAt := 3000 } [(Fd.KPR_CLKMON_STAT_wait, 1)]) fun s => s.flag Fd.KPR_CLKMON_STAT_wait = true ∧
      s.pwr.next = some 0 ∧ s.pwr.nextAt ≤ 3000) ∧
    (meets (atFrame 524288 (pwr { PwrRt.reset with cleanFrom := some 1, episode := true, startDone := true })) fun s => s.pwr.cleanFrom = some 1 ∧
      s.slowStart = true ∧ s.pwr.episode = true ∧ s.pwr.startDone = true ∧ 1 < s.time.frame / 262144) := by decide
theorem premise_WakesAreLimitedAndRestart :
    (meets (st [(Fd.KPR_CHWAKE_CTRL_wake_en, 0)]) fun s => s.flag Fd.KPR_CHWAKE_CTRL_wake_en = false ∧ s.pwr.lastTone = none) ∧
    (meets (pwr { PwrRt.reset with wakes := [30, 20, 10] } [(Fd.KPR_CHWAKE_CTRL_wake_en, 1), (Fd.KPR_CHWAKE_STAT_limiting, 1)]) fun s =>
      s.flag Fd.KPR_CHWAKE_CTRL_wake_en = true ∧
      (!s.flag Fd.KPR_CHWAKE_STAT_limiting || (s.pwr.wakes.head?.all fun w => decide (w + 19200000 ≤ 19200029))) = false ∧
      (!s.flag Fd.KPR_CHWAKE_STAT_limiting || (s.pwr.wakes.head?.all fun w => decide (w + 19200000 ≤ 19200030))) = true ∧ s.pwr.wakes = 30 :: 20 :: [10]) ∧
    (meets (pwr { PwrRt.reset with lastTone := some 5 }) fun s => s.pwr.lastTone = some 5 ∧ 5 + 19200000 ≤ 19200005 ∧ s.pwr.wakes.length < 2) ∧
    (meets (st [(Fd.CLK_PSTATE_state, 2), (Fd.KPR_WAKE_CTRL_timer_s, 1)]) fun s => s.get Fd.CLK_PSTATE_state = 2 ∧ s.wakeEnabled 7 32000 = true ∧
      s.wakeEnabled 7 31999 = false ∧ s.pwr.failAt = none ∧ s.pwr.lfrcLost = false) ∧
    (meets .reset fun s => s.get Fd.CLK_PSTATE_state ≠ 2) := by decide
theorem premise_SuppliesWarnFailAndReturn :
    (meets .reset fun s => s.pwr.supplyInj = none ∧ s.flag Fd.KPR_SUPPLY_STAT_bow = false ∧ s.pwr.failAt = none) ∧
    (meets (pwr { PwrRt.reset with supplyInj := some 1 }) fun s => s.pwr.supplyInj ≠ none ∧ s.pwr.supplyInj = some 1 ∧ s.pwr.failAt = none) ∧
    (meets (pwr { PwrRt.reset with failAt := some 100 }) fun s => s.pwr.failAt = some 100 ∧ 10800 ≤ 10800 ∧ 100 + 320 ≤ 420 ∧ s.pwr.lfrcLost = false) := by decide
theorem premise_ComparatorsAndArrayRailTrip :
    (meets (st [(Fd.KPR_CMP_ZONE_armed 3, 1)]) fun s => s.cmpAbsent 3 = false ∧ s.flag (Fd.KPR_CMP_ZONE_armed 3) = true ∧
      s.flag (Fd.KPR_CMP_ZONE_uv_trip 3) = false ∧ s.flag (Fd.KPR_CMP_ZONE_ov_trip 3) = false ∧ s.cmpAbsent 14 = false ∧ s.flag (Fd.KPR_CMP_STR_oc_trip 2) = false) ∧
    (meets (st [(Fd.LPE_SNS_ABSENT_absent, 2 ^ 14 + 8)]) fun s => s.cmpAbsent 3 = true ∧ s.cmpAbsent 14 = true) ∧
    (meets { State.reset with flt := { State.reset.flt with rstOn := vset State.reset.flt.rstOn 1 true } } fun s => s.computeDown = true) := by decide

/-! ## Recovery and start configuration -/

/-- A state whose fault and reset block holds what is given. -/
def flt (x : FltRt) (l : List (Fld × Nat) := []) : State := { st l with flt := x }
theorem premise_ResetsAreAssertedAndReleasedInOrder :
    (meets (atFrame 256 (flt { FltRt.reset with rstReq := vall 4 true })) fun s => s.fcStart = true ∧ s.flt.rstAt < s.time.frame ∧
      vget s.flt.rstReq 3 = true ∧ s.pwr.stopped = false) ∧
    (meets (flt { FltRt.reset with rstReq := vall 4 true }) fun s => s.time.frame ≤ s.flt.rstAt) ∧
    (meets (flt { FltRt.reset with rstOn := vall 4 true }) fun s => s.flt.halt = .none ∧ s.nextRelease = some 3 ∧ s.flt.rstLeft = 0 ∧ s.pwr.stopped = false ∧
      s.flt.relAt ≠ some s.time.frame ∧ s.pwr.lockWait = false) ∧
    (meets (flt { FltRt.reset with rstOn := vset (vall 4 false) 1 true }) fun s => s.nextRelease = some 1) ∧
    (meets { flt { FltRt.reset with rstOn := vset (vall 4 false) 0 true, imageIntact := false } with lks := { LksRt.reset with partnerValid := true } } fun s =>
      s.nextRelease = some 0 ∧ s.lks.partnerValid = true ∧ s.flt.imageIntact = false) ∧
    (meets .reset fun s => s.nextRelease = none ∧ vget s.flt.portFence 2 ≠ 1) ∧
    (meets (flt { FltRt.reset with portFence := vall 3 1 }) fun s => vget s.flt.portFence 2 = 1) := by decide
theorem premise_HangsAreMetAndDumpsTaken :
    (meets (st [(Fd.LKS_WDOG_STAT_booting, 0), (Fd.LKS_WDOG_CTRL_hb_expect, 1)]) fun s =>
      (s.fcStart && !s.computeDown && !s.inReset 2 && s.flt.hbAt != some s.time.frame) = true ∧ s.flag Fd.LKS_WDOG_STAT_booting = false ∧
      s.hbExpected 0 = true ∧ vget s.flt.beats 0 = false ∧ s.flt.dumpTrig = none) ∧
    (meets (st [(Fd.LKS_WDOG_STAT_booting, 1)]) fun s => s.flag Fd.LKS_WDOG_STAT_booting = true) ∧
    (meets (flt { FltRt.reset with bootLeft := 0, wdCount := 2 } [(Fd.LKS_WDOG_STAT_booting, 1)]) fun s =>
      (s.watchdogDue && !s.computeDown && !s.inReset 2 && s.flt.afterDump == .nothing && s.flt.halt == .none) = true ∧ 2 ≤ s.flt.wdCount ∧
      s.flt.dumpTrig = none ∧ s.inReset 3 = false) ∧
    (meets (flt { FltRt.reset with bootLeft := 0, wdCount := 1 } [(Fd.LKS_WDOG_STAT_booting, 1)]) fun s => s.watchdogDue = true ∧ s.flt.wdCount < 2) ∧
    (meets (st [(Fd.FLT_CFG_mode 17, 0)]) fun s => s.flag (Fd.FLT_CFG_mode 17) = false ∧ s.flag (Fd.FLT_FIRST_INFO_valid 17) = false) ∧
    (meets (flt { FltRt.reset with dumpTrig := some 1, afterDump := .halt } [(Fd.LKS_DUMP_STAT_dumps, 7)]) fun s => s.flt.dumpTrig = some 1 ∧
      ((3 : Fin 4).val = s.get Fd.LKS_DUMP_STAT_dumps % 4) ∧ s.flt.afterDump = .halt) ∧
    (meets (flt { FltRt.reset with dumpTrig := some 1, afterDump := .computeReset }) fun s => s.flt.afterDump = .computeReset) ∧
    (meets (atFrame 2500000 (flt { FltRt.reset with halt := .starting })) fun s => s.flt.halt = .starting ∧ s.flt.haltFrame + 2500000 ≤ s.time.frame) := by
  decide
/-- The claimant with its start complete, and its saved configuration in the state given. -/
def saved (x : CfgRt) (l : List (Fld × Nat) := []) : State :=
  { st l with cfg := x, pwr := { PwrRt.reset with startDone := true }, lks := { LksRt.reset with claimant := true } }
theorem premise_SavedStateReturnsInOrder :
    (meets .reset fun s => s.restoreDue = false ∧ s.lks.claimant = false) ∧
    (meets (saved .reset) fun s => s.restoreDue = true ∧ s.cfg.fromRecord = true ∧ s.usableRecord = none) ∧
    (meets (saved { CfgRt.reset with record := some ⟨[], [], 0x01000000⟩ } [(Fd.SEC_FW_A_baseline, 0x01FFFFFF)]) fun s => s.restoreDue = true ∧
      s.usableRecord = some ⟨[], [], 0x01000000⟩) ∧
    (meets (saved { CfgRt.reset with fromRecord := false }) fun s => s.restoreDue = true ∧ s.cfg.fromRecord = false ∧ s.flt.configImage = []) ∧
    (meets (saved { CfgRt.reset with step := .bind 0, zones := vset (vall 16 4) 3 2 } [(Fd.ZFB_DECL_OS_os, 8)]) fun s => s.lks.claimant = true ∧ s.stepRuns = false ∧
      s.cfg.step = .bind 0 ∧ (s.savedStages.drop (0 * s.batchSize)).take s.batchSize = [3] ∧ (s.savedStages.drop (1 * s.batchSize)).take s.batchSize = []) ∧
    (meets (saved { CfgRt.reset with step := .link }) fun s => s.stepRuns = false ∧ s.cfg.step = .link) ∧
    (meets (saved { CfgRt.reset with step := .grid }) fun s => s.cfg.step = .grid) ∧ (meets (saved { CfgRt.reset with step := .zones }) fun s => s.cfg.step = .zones) := by
  decide
/-! ## Well-formedness: for each check a term that it refuses -/

theorem test_wf_cycle_of_frame : (Instr.syncInEdge 1901).wf = false ∧ (Instr.syncInEdge 1900).wf = true := by decide
theorem test_wf_register_address :
    (Instr.registerWrite 0x00010002 0 0).wf = false ∧ (Instr.registerWrite 0x100000000 0 0).wf = false ∧ (Instr.registerWrite 0x00010004 0 0).wf = true := by
  decide
theorem test_wf_width_of_number :
    (Instr.brownOutWarning 65536).wf = false ∧ (Instr.thermalCapLower 32768).wf = false ∧ (Instr.thermalCapLower (-32768)).wf = true := by decide
theorem test_wf_telemetry :
    ({ (default : Telemetry) with outI := 8388608 }).wf = false ∧ ({ (default : Telemetry) with phase := 256 }).wf = false ∧ (default : Telemetry).wf = true := by
  decide
theorem test_wf_uplink : ({ (default : Uplink) with stepId := 65536 }).wf = false ∧ (default : Uplink).wf = true := by decide
theorem test_wf_pair_write : ({ (default : PairWrite) with slot := 2 }).wf = false ∧ (default : PairWrite).wf = true := by decide
theorem test_wf_input_set :
    ({ InputSet.empty with frame := 2 ^ 48 }).wf = false ∧ ({ InputSet.empty with writes := List.replicate 33 default }).wf = false ∧ InputSet.empty.wf = true := by
  decide
theorem test_wf_frame_pins :
    ({ partnerValid := false, partnerClaim := 16, vsel := vall 4 0, extLow := false, phaseDiff := none : FramePins }).wf = false ∧
    ({ partnerValid := false, partnerClaim := 0, vsel := vall 4 8, extLow := false, phaseDiff := none : FramePins }).wf = false := by decide
/-- A packet with the payload given. -/
def rawPkt (payload : List Nat) (version : Nat := 1) : Pkt :=
  { port := 0, cyc := 0, notPacket := false, lenOk := true, version := version, tag := 0, session := 0, seq := 0, macOk := true, payload := payload }
theorem test_wf_packet : (rawPkt [256]).wf = false ∧ (rawPkt [] 256).wf = false ∧ (rawPkt [255]).wf = true := by decide
theorem test_wf_enumeration :
    ({ a := 15, b := 0, ringOk := false, ids := vall 14 (0, 0, 0), status := vall 14 (0, 0) : ChnEnum }).wf = false := by decide
theorem test_wf_pair_image :
    ({ regs := [(8, 1), (4, 1)], loops := vall 7 .reset, prf := .reset, zfb := .reset, wgl := .reset, chn := .reset, est := .reset : PairImage }).wf = false := by
  decide
theorem test_wf_pass_cycles : (Instr.basketPass 0 [2097152] []).wf = false := by decide
theorem test_wf_share_bus : (Instr.shareArbitration (vset (vall 63 0) 5 4096)).wf = false ∧ (Instr.shareArbitration (vall 63 4095)).wf = true := by decide
theorem test_wf_baskets : (Instr.firmwareReady [[256]]).wf = false ∧ (Instr.firmwareReady [[255]]).wf = true := by decide

/-! ## Single commands, against values that the spec states -/

/-- R67: 1 is normalised to the mantissa 2^22 at exponent 1, and a zero result has mantissa 0 and exponent −32. -/
theorem test_bf24_normal : roundBF ⟨1, 1⟩ = ⟨4194304, 1⟩ ∧ roundBF ⟨0, 1⟩ = ⟨0, -32⟩ ∧ BF24.ofWord (BF24.toWord (roundBF ⟨-3, 4⟩)) = roundBF ⟨-3, 4⟩ := by
  decide
/-- R92: a full capture whose last record has been taken is DONE (3), and one that still waits for records stays triggered. -/
theorem test_capture_done :
    after .hamperCaptureDone { st [(Fd.HMP_STAT_state, 2)] with hmp := { HmpRt.reset with postLeft := 0 } } (·.get Fd.HMP_STAT_state) = some 3 ∧
    after .hamperCaptureDone { st [(Fd.HMP_STAT_state, 2)] with hmp := { HmpRt.reset with postLeft := 1 } } (·.get Fd.HMP_STAT_state) = some 2 := by decide
/-- R190: the 64th sweep without a storm condition clears the storm; the 63rd does not. -/
theorem test_storm_clear :
    after (.stormClear 5) { st [(Fd.WGL_LANE_STAT_storm 5, 1)] with wgl := { WglRt.reset with lanes := vset WglRt.reset.lanes 5 { LaneRt.reset with cleanSweeps := 64 } } }
      (·.get (Fd.WGL_LANE_STAT_storm 5)) = some 0 ∧
    after (.stormClear 5) { st [(Fd.WGL_LANE_STAT_storm 5, 1)] with wgl := { WglRt.reset with lanes := vset WglRt.reset.lanes 5 { LaneRt.reset with cleanSweeps := 63 } } }
      (·.get (Fd.WGL_LANE_STAT_storm 5)) = some 1 := by decide
/-- R429: below 10.2 V the brown-out warning is set and counted; at 10.2 V it is not. -/
theorem test_brown_out_warning :
    after (.brownOutWarning 10199) .reset (fun s => (s.get Fd.KPR_SUPPLY_STAT_bow, s.get Fd.KPR_SUPPLY_CNT_bow_count)) = some (1, 1) ∧
    after (.brownOutWarning 10200) .reset (fun s => (s.get Fd.KPR_SUPPLY_STAT_bow, s.get Fd.KPR_SUPPLY_CNT_bow_count)) = some (0, 0) := by decide
/-- R429: a supply of less than 9.5 V, or of more than 14.0 V, stops the engine clock; one of 9.5 V does not. -/
theorem test_power_fail :
    after (.powerFail 9499 false 7) .reset (fun s => (s.pwr.stopped, s.pwr.failAt)) = some (true, some 7) ∧
    after (.powerFail 14001 false 7) .reset (·.pwr.stopped) = some true ∧ after (.powerFail 9500 false 7) .reset (·.pwr.stopped) = some false := by decide
/-- R215: 103 °C (824 in eighths of a degree) lowers the thermal cap to level L0. -/
theorem test_thermal_cap : after (.thermalCapLower 824) (st [(Fd.CLK_ADN_THERM_therm_cap, 5)]) (·.get Fd.CLK_ADN_THERM_therm_cap) = some 0 := by
  decide +kernel
/-- R489: after a reset no module is accepted in a port and no light shows a role; in DEEP SLEEP PWR flashes alone. -/
theorem test_lights :
    State.reset.lightRole = .off ∧ State.reset.lightPort 0 = .amber ∧ State.reset.lightFault = .off ∧ (st [(Fd.CLK_PSTATE_state, 2)]).lightPwr = .greenFlash ∧
    (st [(Fd.CLK_PSTATE_state, 2)]).lightPort 0 = .off := by decide

end Sys2Proof.Tests
end

section
/-! Chapter 00: the registers after power-on reset (R11), and the supplies (R12, R429). -/

namespace Sys2Proof.Machine

/-! ## Power-on reset -/

/-- The register file lists no address after power-on reset (R11). -/
@[simp] theorem State.rd_reset (a : Nat) : State.reset.rd a = resetWord a := Regs.get_nil a

theorem State.reset_good : State.reset.good := ⟨rfl, by decide, by decide⟩

/-- Settles O2: the register file is empty after power-on reset, and an address that it does not list reads as its reset word. -/
theorem resetLeavesResetWords : Obligations.ResetLeavesResetWords :=
  ⟨State.reset_good, State.rd_reset, rfl, rfl, rfl, rfl, by decide⟩

/-! ## Supply recovery with a register file out of its canonical form

The reset of a block (`Regs.resetBlocks`) takes off the list every entry that equals its reset word. In the canonical form (`State.regsOk`) no such
entry stands there, and the registers of other blocks read as before. In a list that has an address twice, the first time with its reset word, the
second entry shows after the reset. -/

/-- A module whose supply failed at LFRC period 0, with FLT_STAT of the Keeper listed twice: first with its reset word, behind that with the count 1. -/
def State.faultsListedTwice : State :=
  { State.reset with
    regs := [(Reg.FLT_STAT 14, 0), (Reg.FLT_STAT 14, putBits 0 16 16 1)]
    pwr := { PwrRt.reset with failAt := some 0 } }

/-- It is not one of the states in form, which power-on reset gives (`State.reset_good`) and O3 is about. -/
theorem State.faultsListedTwice_not_good : ¬ State.faultsListedTwice.good := fun h => absurd h.1 (by unfold State.regsOk; decide)

/-- The first entry shows. -/
theorem State.faultsListedTwice_count : State.faultsListedTwice.get (Fd.FLT_STAT_count 14) = 0 := by decide

/-- The resets of the restart uncover the second entry, and two faults are recorded after them. -/
theorem supplyRecovery_faultsListedTwice :
    ∃ t, exec (.supplyRecovery 10800 320 0) State.faultsListedTwice = .next t ∧ t.get (Fd.FLT_STAT_count 14) = 3 :=
  ⟨_, rfl, by decide +kernel⟩

/-- Refutes O56: it speaks of every state, and where the register file is not in its canonical form the clause on the Keeper's fault count fails. In
`State.faultsListedTwice` the restart of R429 records two faults and moves the count from 0 to 3. -/
theorem not_suppliesWarnFailAndReturn : ¬ Obligations.SuppliesWarnFailAndReturn := by
  unfold Obligations.SuppliesWarnFailAndReturn
  intro h
  obtain ⟨-, -, -, recovers, -⟩ := h State.faultsListedTwice
  obtain ⟨t, ht, -, -, -, -, counted⟩ := (recovers 10800 320 0 0 rfl).2 (by decide) (by decide) rfl
  obtain ⟨u, hu, three⟩ := supplyRecovery_faultsListedTwice
  obtain rfl : t = u := Host.Outcome.next.inj (ht.symm.trans hu)
  rw [three, State.faultsListedTwice_count] at counted
  exact absurd counted (by decide)

end Sys2Proof.Machine
end

section
/-! Chapters 01 and 02: what every command and every step keeps (R38, R39). -/

namespace Sys2Proof.Machine

/-- The command that a state's queue has in front acts on the state without it; an empty queue leaves the state. -/
theorem step_nil {s : State} (h : s.pending = []) : step s = .next s := by
  unfold step
  rw [h]

theorem step_cons {s : State} {c : Instr} {rest : List Instr} (h : s.pending = c :: rest) : step s = exec c { s with pending := rest } := by
  unfold step
  rw [h]

/-- Every arm of the dispatch answers a next state. -/
theorem exec_completes (c : Instr) (s : State) : ∃ t, exec c s = .next t := by
  cases c <;> exact ⟨_, rfl⟩

/-- Every command keeps the register file's form, the queue, and any condition on the time base that it does not move. One that moves the time base
keeps a condition that holds of all frame numbers of 48 bits and timestamps of 64. -/
theorem exec_ok {W : Prop} {q : List Instr} {I : Nat → Nat → Prop} {s : State} (h : OK W q I s) :
    ∀ c : Instr, (movesTime c = true → Wraps I) → OKo W q I (exec c s)
  | .frameStart samples pins, hI => execFrameStart_ok (hI rfl) h samples pins
  | .inputSet cyc ok set, _ => execInputSet_ok h cyc ok set
  | .inputExchangeClose, _ => execInputExchangeClose_ok h
  | .loopEngineRun, _ => execLoopEngineRun_ok h
  | .writeCheck, _ => execWriteCheck_ok h
  | .hamperCaptureDone, _ => execHamperCaptureDone_ok h
  | .stageCommandsLeave, _ => execStageCommandsLeave_ok h
  | .outputDigest crc outs, _ => execOutputDigest_ok h crc outs
  | .claimFix, _ => execClaimFix_ok h
  | .syncInEdge cyc, _ => execSyncInEdge_ok h cyc
  | .alignmentLocked, _ => execAlignmentLocked_ok h
  | .alignmentStep, _ => execAlignmentStep_ok h
  | .holdoverEntry, _ => execHoldoverEntry_ok h
  | .holdoverExit, _ => execHoldoverExit_ok h
  | .syncConfigWrite toOffset val, _ => execSyncConfigWrite_ok h toOffset val
  | .stageReleased n, _ => execStageReleased_ok h n
  | .lowWordRead master addr, _ => execLowWordRead_ok h master addr
  | .registerWrite addr mask val, _ => execRegisterWrite_ok h addr mask val
  | .coeffSetWrite l set reg val, _ => execCoeffSetWrite_ok h l set reg val
  | .switchSet l next, _ => execSwitchSet_ok h l next
  | .loopModeChange g manual, _ => execLoopModeChange_ok h g manual
  | .hmpArm, _ => execHmpArm_ok h
  | .hmpDisarm, _ => execHmpDisarm_ok h
  | .forceTrig, _ => execForceTrig_ok h
  | .profileStep, _ => execProfileStep_ok h
  | .forecastFallback, _ => execForecastFallback_ok h
  | .fallbackExit, _ => execFallbackExit_ok h
  | .socCorrectionUpdate, _ => execSocCorrectionUpdate_ok h
  | .honeyReserveOpen, _ => execHoneyReserveOpen_ok h
  | .honeyReserveClose, _ => execHoneyReserveClose_ok h
  | .stringSocStale r, _ => execStringSocStale_ok h r
  | .vstoreWrite z code val, _ => execVstoreWrite_ok h z code val
  | .followExpiry l, _ => execFollowExpiry_ok h l
  | .storageExhaustionClear, _ => execStorageExhaustionClear_ok h
  | .zoneRetry z, _ => execZoneRetry_ok h z
  | .retriesReset z, _ => execRetriesReset_ok h z
  | .zfbGo, _ => execZfbGo_ok h
  | .zfbAbort, _ => execZfbAbort_ok h
  | .sequencePhaseEnd k, _ => execSequencePhaseEnd_ok h k
  | .zeroITimeout k, _ => execZeroITimeout_ok h k
  | .switchConfirmTimeout k, _ => execSwitchConfirmTimeout_ok h k
  | .prechargeMatchTimeout k, _ => execPrechargeMatchTimeout_ok h k
  | .nextDutyWrite r duty, _ => execNextDutyWrite_ok h r duty
  | .stageTelemetry n cyc linkOk t, _ => execStageTelemetry_ok h n cyc linkOk t
  | .currentMismatchFence k, _ => execCurrentMismatchFence_ok h k
  | .capLimited z, _ => execCapLimited_ok h z
  | .shedHoldExpiry z, _ => execShedHoldExpiry_ok h z
  | .addHoldExpiry z, _ => execAddHoldExpiry_ok h z
  | .jobGroupApply t, _ => execJobGroupApply_ok h t
  | .vselSample, _ => execVselSample_ok h
  | .pgoodHigh z, _ => execPgoodHigh_ok h z
  | .stepArm t cyc linkOk up, _ => execStepArm_ok h t cyc linkOk up
  | .stepGo t cyc linkOk up, _ => execStepGo_ok h t cyc linkOk up
  | .stepEnd t cyc linkOk up, _ => execStepEnd_ok h t cyc linkOk up
  | .stepPeriod t cyc linkOk up, _ => execStepPeriod_ok h t cyc linkOk up
  | .waggleStatus t cyc linkOk up, _ => execWaggleStatus_ok h t cyc linkOk up
  | .armTimeout t, _ => execArmTimeout_ok h t
  | .stepOnset z, _ => execStepOnset_ok h z
  | .ffwCommitRequest z, _ => execFfwCommitRequest_ok h z
  | .ffwCommitApply z, _ => execFfwCommitApply_ok h z
  | .ppDisable, _ => execPpDisable_ok h
  | .ceilingCompute, _ => execCeilingCompute_ok h
  | .ceilingLatch, _ => execCeilingLatch_ok h
  | .shareArbitration bus, _ => execShareArbitration_ok h bus
  | .ceilSend, _ => execCeilSend_ok h
  | .droopResponse, _ => execDroopResponse_ok h
  | .throttleRelease z, _ => execThrottleRelease_ok h z
  | .extAlert, _ => execExtAlert_ok h
  | .stormClear t, _ => execStormClear_ok h t
  | .linkDown t, _ => execLinkDown_ok h t
  | .stepStale t, _ => execStepStale_ok h t
  | .laneClear t, _ => execLaneClear_ok h t
  | .telemetryAssemble, _ => execTelemetryAssemble_ok h
  | .basketPass slot cycles outs, _ => execBasketPass_ok h slot cycles outs
  | .resultCommit, _ => execResultCommit_ok h
  | .coreLoaded k crcOk, _ => execCoreLoaded_ok h k crcOk
  | .scrubWord, _ => execScrubWord_ok h
  | .sequencerPhaseEnd cyc mv, _ => execSequencerPhaseEnd_ok h cyc mv
  | .droopTrip cyc mv, _ => execDroopTrip_ok h cyc mv
  | .droopClear cyc mv, _ => execDroopClear_ok h cyc mv
  | .capClear, _ => execCapClear_ok h
  | .thermalCapLower tj, _ => execThermalCapLower_ok h tj
  | .thermalCapRestore tj, _ => execThermalCapRestore_ok h tj
  | .coreTestStart k, _ => execCoreTestStart_ok h k
  | .coreTestSetEnd k crcOk, _ => execCoreTestSetEnd_ok h k crcOk
  | .coreFence k, _ => execCoreFence_ok h k
  | .coreUnfence k, _ => execCoreUnfence_ok h k
  | .packageCheck slot sigOk, _ => execPackageCheck_ok h slot sigOk
  | .snapSend r cyc, _ => execSnapSend_ok h r cyc
  | .hushSend r, _ => execHushSend_ok h r
  | .chainRead r, _ => execChainRead_ok h r
  | .chainReply r crcOk pos seq op status payload, _ => execChainReply_ok h r crcOk pos seq op status payload
  | .chainTxnTimeout r, _ => execChainTxnTimeout_ok h r
  | .readingsCommit, _ => execReadingsCommit_ok h
  | .balanceSend r, _ => execBalanceSend_ok h r
  | .owtSend r, _ => execOwtSend_ok h r
  | .owRead r, _ => execOwRead_ok h r
  | .owtCommit, _ => execOwtCommit_ok h
  | .owtRequest mask, _ => execOwtRequest_ok h mask
  | .rescan mask, _ => execRescan_ok h mask
  | .enumeration r found, _ => execEnumeration_ok h r found
  | .ringTest r, _ => execRingTest_ok h r
  | .chainTone port at', _ => execChainTone_ok h port at'
  | .limitingExit at', _ => execLimitingExit_ok h at'
  | .hostWakeRelease, _ => execHostWakeRelease_ok h
  | .estimateRecord, _ => execEstimateRecord_ok h
  | .endOfCharge r, _ => execEndOfCharge_ok h r
  | .divergenceConflict r, _ => execDivergenceConflict_ok h r
  | .restPoint r, _ => execRestPoint_ok h r
  | .anchorExpiry r, _ => execAnchorExpiry_ok h r
  | .anchorDiscard mask, _ => execAnchorDiscard_ok h mask
  | .modelValidWrite r valid, _ => execModelValidWrite_ok h r valid
  | .capacityStoreWrite ok, _ => execCapacityStoreWrite_ok h ok
  | .staticImage img, _ => execStaticImage_ok h img
  | .dynamicImage img, _ => execDynamicImage_ok h img
  | .resyncRequest, _ => execResyncRequest_ok h
  | .resync, _ => execResync_ok h
  | .forecastBulk fcast, _ => execForecastBulk_ok h fcast
  | .estimationBulk b, _ => execEstimationBulk_ok h b
  | .ffwBufferBulk z words, _ => execFfwBufferBulk_ok h z words
  | .bufferCrc z crc, _ => execBufferCrc_ok h z crc
  | .forwardedWrite w, _ => execForwardedWrite_ok h w
  | .healthReport words, _ => execHealthReport_ok h words
  | .pairStateDigest digest, _ => execPairStateDigest_ok h digest
  | .bulkDeadlineMiss, _ => execBulkDeadlineMiss_ok h
  | .adcCheck, _ => execAdcCheck_ok h
  | .coreTestRotation, _ => execCoreTestRotation_ok h
  | .join time frame img, hI => execJoin_ok (hI rfl) h time frame img
  | .pairWaitEnd, _ => execPairWaitEnd_ok h
  | .claimHistoryEntry, _ => execClaimHistoryEntry_ok h
  | .clearCounts, _ => execClearCounts_ok h
  | .laneTraining n rttNs fail decls highest, _ => execLaneTraining_ok h n rttNs fail decls highest
  | .laneSilent n, _ => execLaneSilent_ok h n
  | .laneRetrain n, _ => execLaneRetrain_ok h n
  | .lockTraining rttNs fail version, _ => execLockTraining_ok h rttNs fail version
  | .stageUnreach n, _ => execStageUnreach_ok h n
  | .commission, _ => execCommission_ok h
  | .bertPhaseEnd errs, _ => execBertPhaseEnd_ok h errs
  | .bertAbort, _ => execBertAbort_ok h
  | .bertOverdue, _ => execBertOverdue_ok h
  | .hello p, _ => execHello_ok h p
  | .sessionOpen p sigOk, _ => execSessionOpen_ok h p sigOk
  | .sessionClose p, _ => execSessionClose_ok h p
  | .keepalive p, _ => execKeepalive_ok h p
  | .semAcquire p, _ => execSemAcquire_ok h p
  | .semRelease p, _ => execSemRelease_ok h p
  | .semSeize p, _ => execSemSeize_ok h p
  | .regRead p, _ => execRegRead_ok h p
  | .regWrite p, _ => execRegWrite_ok h p
  | .regWriteMasked p, _ => execRegWriteMasked_ok h p
  | .combRead p, _ => execCombRead_ok h p
  | .rebind p, _ => execRebind_ok h p
  | .rebindAbort p, _ => execRebindAbort_ok h p
  | .fenceClear p, _ => execFenceClear_ok h p
  | .stringDuty p, _ => execStringDuty_ok h p
  | .groupLimit p, _ => execGroupLimit_ok h p
  | .csetLoad p, _ => execCsetLoad_ok h p
  | .loopMode p, _ => execLoopMode_ok h p
  | .profileRead p, _ => execProfileRead_ok h p
  | .cellRead p, _ => execCellRead_ok h p
  | .storageClear p, _ => execStorageClear_ok h p
  | .capacityLoad p, _ => execCapacityLoad_ok h p
  | .basketStore p, _ => execBasketStore_ok h p
  | .basketAdmit p, _ => execBasketAdmit_ok h p
  | .basketEvict p, _ => execBasketEvict_ok h p
  | .basketVariant p, _ => execBasketVariant_ok h p
  | .quarantineClear p, _ => execQuarantineClear_ok h p
  | .basketStatus p, _ => execBasketStatus_ok h p
  | .resultRead p, _ => execResultRead_ok h p
  | .arrayTarget p, _ => execArrayTarget_ok h p
  | .hamperRead p, _ => execHamperRead_ok h p
  | .faultRead p, _ => execFaultRead_ok h p
  | .faultAck p, _ => execFaultAck_ok h p
  | .logRead p, _ => execLogRead_ok h p
  | .dumpRead p, _ => execDumpRead_ok h p
  | .healthRead p, _ => execHealthRead_ok h p
  | .claimHistory p, _ => execClaimHistory_ok h p
  | .bertWindow p, _ => execBertWindow_ok h p
  | .fwStore p, _ => execFwStore_ok h p
  | .fwActivate p, _ => execFwActivate_ok h p
  | .attest p, _ => execAttest_ok h p
  | .attestSignDone port session, _ => execAttestSignDone_ok h port session
  | .auditRead p, _ => execAuditRead_ok h p
  | .keyLoad p rootOk, _ => execKeyLoad_ok h p rootOk
  | .keyClear p rootOk, _ => execKeyClear_ok h p rootOk
  | .injectRecord p, _ => execInjectRecord_ok h p
  | .injectWriteCheck p, _ => execInjectWriteCheck_ok h p
  | .injectHang p, _ => execInjectHang_ok h p
  | .injectTimeout p, _ => execInjectTimeout_ok h p
  | .injectEcc p, _ => execInjectEcc_ok h p
  | .injectClock p, _ => execInjectClock_ok h p
  | .injectSupply p, _ => execInjectSupply_ok h p
  | .injectComparator p, _ => execInjectComparator_ok h p
  | .arpRequest p vlan ip, _ => execArpRequest_ok h p vlan ip
  | .neighbourDiscovery p vlan ip, _ => execNeighbourDiscovery_ok h p vlan ip
  | .icmpEcho p vlan v6 ip data, _ => execIcmpEcho_ok h p vlan v6 ip data
  | .reassemblyTimeout, _ => execReassemblyTimeout_ok h
  | .consoleFramingError, _ => execConsoleFramingError_ok h
  | .sessionIdleExpiry port session, _ => execSessionIdleExpiry_ok h port session
  | .portLinkLoss port, _ => execPortLinkLoss_ok h port
  | .leaseExpiry, _ => execLeaseExpiry_ok h
  | .boot sigOk, _ => execBoot_ok h sigOk
  | .firmwareReady baskets, _ => execFirmwareReady_ok h baskets
  | .fwTrialSuccess, _ => execFwTrialSuccess_ok h
  | .fwTrialFail, _ => execFwTrialFail_ok h
  | .rollbackRaise, _ => execRollbackRaise_ok h
  | .auditFlush, _ => execAuditFlush_ok h
  | .auditCheckpoint, _ => execAuditCheckpoint_ok h
  | .authFailureEntry, _ => execAuthFailureEntry_ok h
  | .crystalStable x at' mv, _ => execCrystalStable_ok h x at' mv
  | .xt0StartTimeout at', _ => execXt0StartTimeout_ok h at'
  | .pllLock p, _ => execPllLock_ok h p
  | .clockMonitorTrip cause at', _ => execClockMonitorTrip_ok h cause at'
  | .clockRestart at' gap, hI => execClockRestart_ok (hI rfl) h at' gap
  | .episodeEnd, _ => execEpisodeEnd_ok h
  | .lfrcLoss, _ => execLfrcLoss_ok h
  | .sleepRequest, _ => execSleepRequest_ok h
  | .deepSleepRequest, _ => execDeepSleepRequest_ok h
  | .runRequest, _ => execRunRequest_ok h
  | .deepSleepWake src at' gap, hI => execDeepSleepWake_ok (hI rfl) h src at' gap
  | .brownOutWarning mv, _ => execBrownOutWarning_ok h mv
  | .brownOutRelease mv, _ => execBrownOutRelease_ok h mv
  | .powerFail mv railOut at', _ => execPowerFail_ok h mv railOut at'
  | .supplyRecovery mv at' gap, hI => execSupplyRecovery_ok (hI rfl) h mv at' gap
  | .holdupExpiry, hI => execHoldupExpiry_ok (hI rfl) h
  | .arrayClockLoss rail, _ => execArrayClockLoss_ok h rail
  | .zoneUvTrip z, _ => execZoneUvTrip_ok h z
  | .zoneOvTrip z, _ => execZoneOvTrip_ok h z
  | .stringOcTrip r, _ => execStringOcTrip_ok h r
  | .comparatorRelease c, _ => execComparatorRelease_ok h c
  | .faultPendingClear b bits, _ => execFaultPendingClear_ok h b bits
  | .clearCapture b, _ => execClearCapture_ok h b
  | .faultModeChange b history, _ => execFaultModeChange_ok h b history
  | .haltedServiceTimeout, _ => execHaltedServiceTimeout_ok h
  | .resetRequest mask, _ => execResetRequest_ok h mask
  | .resetAssert, _ => execResetAssert_ok h
  | .resetRelease, _ => execResetRelease_ok h
  | .heartbeatBeat c, _ => execHeartbeatBeat_ok h c
  | .heartbeatCheck, _ => execHeartbeatCheck_ok h
  | .watchdogAction, _ => execWatchdogAction_ok h
  | .busTimeout b addr write master, _ => execBusTimeout_ok h b addr write master
  | .dumpRequest, _ => execDumpRequest_ok h
  | .dumpComplete markers, _ => execDumpComplete_ok h markers
  | .portFenceReturn p, _ => execPortFenceReturn_ok h p
  | .gridLoss, _ => execGridLoss_ok h
  | .gridSag, _ => execGridSag_ok h
  | .gridSagClear, _ => execGridSagClear_ok h
  | .gridReturn, _ => execGridReturn_ok h
  | .gridNormal, _ => execGridNormal_ok h
  | .coolantUpdate, _ => execCoolantUpdate_ok h
  | .declarationWrite pwr val, _ => execDeclarationWrite_ok h pwr val
  | .configSave, _ => execConfigSave_ok h
  | .configErase, _ => execConfigErase_ok h
  | .startupComplete, _ => execStartupComplete_ok h
  | .configRestore, _ => execConfigRestore_ok h
  | .autostartStep, _ => execAutostartStep_ok h
  | .powerOnReset slot test, hI => execPowerOnReset_ok (hI rfl) h slot test
  | .crystalLost x at' mv, _ => execCrystalLost_ok h x at' mv
  | .fwImageChecked sigOk, _ => execFwImageChecked_ok h sigOk
  | .consoleFramingRegained, _ => execConsoleFramingRegained_ok h
  | .portLinkUp port linkUp, _ => execPortLinkUp_ok h port linkUp

/-- A frame number of 48 bits and a timestamp of 64. -/
def InWidth (frame start : Nat) : Prop := frame < 2 ^ 48 ∧ start < 2 ^ 64

theorem wraps_inWidth : Wraps InWidth := fun _ _ hf hs => ⟨hf, hs⟩

/-- The forms of a state are what every command keeps of it, with the condition that the time base is in width. -/
theorem State.good_iff_ok (s : State) : s.good ↔ OK True s.pending InWidth s :=
  ⟨fun ⟨hr, ht⟩ => ⟨fun _ => hr, ht, rfl⟩, fun h => ⟨h.wf trivial, h.time⟩⟩

theorem exec_good {c : Instr} {s t : State} (h : s.good) (e : exec c s = .next t) : t.good := by
  have ht := exec_ok (s.good_iff_ok.1 h) c (fun _ => wraps_inWidth) t e
  exact ⟨ht.wf trivial, ht.time⟩

/-- Settles O3: a step is the front command's effect, and every command keeps the forms. -/
theorem everyStepKeepsTheForms : Obligations.EveryStepKeepsTheForms := by
  intro s t h e
  match hq : s.pending with
  | [] =>
    obtain rfl : s = t := Host.Outcome.next.inj ((step_nil hq).symm.trans e)
    exact h
  | c :: rest =>
    have front : State.good { s with pending := rest } := h
    exact exec_good front ((step_cons hq).symm.trans e)

/-- The frame number and the timestamp of `s`, unless the command moves the time base. -/
def TimeUnlessMoved (c : Instr) (s : State) (frame start : Nat) : Prop :=
  movesTime c = false → frame = s.time.frame ∧ start = s.time.frameStart

theorem wraps_timeUnlessMoved {c : Instr} (h : movesTime c = true) (s : State) : Wraps (TimeUnlessMoved c s) :=
  fun _ _ _ _ hc => absurd (h.symm.trans hc) (by decide)

/-- Settles O4: every arm of the dispatch answers a next state, with the queue and, where the command does not move it, the time base of before. -/
theorem everyCommandLeavesQueueAndTime : Obligations.EveryCommandLeavesQueueAndTime := by
  intro c s
  obtain ⟨t, e⟩ := exec_completes c s
  have before : OK False s.pending (TimeUnlessMoved c s) s := ⟨False.elim, fun _ => ⟨rfl, rfl⟩, rfl⟩
  have after := exec_ok before c (fun hc => wraps_timeUnlessMoved hc s) t e
  exact ⟨t, e, after.pend, after.time⟩

end Sys2Proof.Machine
end

section
/-! SUPPORT for chapters 02, 06, 09, 11 to 13: the registers that an operation may change, said of a set of addresses. -/

namespace Sys2Proof.Machine

/-- The registers of `t` differ from those of `s` at most at the addresses that `P` names. -/
def State.regsOff (P : Nat → Prop) (t s : State) : Prop := ∀ a, ¬P a → t.rd a = s.rd a

section
variable {P Q : Nat → Prop} {r s t : State}

theorem State.regsOff.rfl' (s : State) : s.regsOff P s := fun _ _ => rfl

theorem State.regsOff.trans (h : t.regsOff P s) (h' : s.regsOff P r) : t.regsOff P r := fun a ha => (h a ha).trans (h' a ha)

theorem State.regsOff.mono (h : t.regsOff P s) (hPQ : ∀ a, P a → Q a) : t.regsOff Q s := fun a ha => h a fun hp => ha (hPQ a hp)

/-- A list of addresses names the registers of `State.withinRegs`. -/
theorem State.regsOff.withinRegs {l : List Nat} (h : t.regsOff (· ∈ l) s) : t.withinRegs s l := h

theorem State.regsOff.wr (h : t.regsOff P s) {a : Nat} (ha : P a) (w : Word) : (t.wr a w).regsOff P s := fun b hb =>
  (t.rd_wr_other a b w fun e => hb (e ▸ ha)).trans (h b hb)

theorem State.regsOff.put (h : t.regsOff P s) {f : Fld} (hf : P f.addr) (v : Nat) : (t.put f v).regsOff P s := h.wr hf _

theorem State.regsOff.setFlag (h : t.regsOff P s) {f : Fld} (hf : P f.addr) (b : Bool) : (t.setFlag f b).regsOff P s := h.put hf _

theorem State.regsOff.bump (h : t.regsOff P s) {f : Fld} (hf : P f.addr) : (t.bump f).regsOff P s := h.put hf _

theorem State.regsOff.put64 (h : t.regsOff P s) {lo hi : Nat} (hlo : P lo) (hhi : P hi) (v : Nat) : (t.put64 lo hi v).regsOff P s :=
  (h.wr hlo _).wr hhi _

/-- An update of the parts beside the registers. Its premise compares the register files alone. -/
theorem State.regsOff.upd {regs time inp wq lpe hmp prf site zfb wgl lks link chn est arr flt mgp sec pwr cfg pins shadow free pending}
    (h : t.regsOff P s) (e : regs = t.regs) :
    (State.mk regs time inp wq lpe hmp prf site zfb wgl lks link chn est arr flt mgp sec pwr cfg pins shadow free pending).regsOff P s := by
  subst e
  exact h

theorem State.regsOff.ite {c : Prop} {_ : Decidable c} {u : State} (ht : c → t.regsOff P s) (hu : ¬c → u.regsOff P s) :
    (if c then t else u).regsOff P s := by
  split
  · exact ht ‹_›
  · exact hu ‹_›

theorem State.regsOff.foldl {α : Type} {l : List α} {f : State → α → State} (hf : ∀ i ∈ l, ∀ u, u.regsOff P s → (f u i).regsOff P s)
    (h : t.regsOff P s) : (l.foldl f t).regsOff P s := by
  induction l generalizing t with
  | nil => exact h
  | cons i l ih => exact ih (fun j hj => hf j (List.mem_cons_of_mem _ hj)) (hf i List.mem_cons_self t h)

theorem State.regsOff.each {n : Nat} {f : Nat → State → State} (hf : ∀ i < n, ∀ u, u.regsOff P s → (f i u).regsOff P s)
    (h : t.regsOff P s) : (State.each n f t).regsOff P s := State.regsOff.foldl (fun i hi => hf i (List.mem_range.1 hi)) h

theorem State.regsOff.get (h : t.regsOff P s) {f : Fld} (hf : ¬P f.addr) : t.get f = s.get f := by
  unfold State.get
  rw [h _ hf]

theorem State.regsOff.flag (h : t.regsOff P s) {f : Fld} (hf : ¬P f.addr) : t.flag f = s.flag f := by
  unfold State.flag
  rw [h.get hf]

end

/-! ## The fault window of a block -/

/-- An address of the fault window of block `b` (R441). -/
def inWindow (b a : Nat) : Prop := 0x40007F00 + 0x10000 * b ≤ a ∧ a < 0x40008000 + 0x10000 * b

/-- An address of the records of block `b`, which stand behind its status, mode and control. -/
def inRecords (b a : Nat) : Prop := 0x40007F0C + 0x10000 * b ≤ a ∧ a < 0x40008000 + 0x10000 * b

theorem inRecords.inWindow {b a : Nat} (h : inRecords b a) : inWindow b a := ⟨by unfold inRecords at h; omega, h.2⟩

theorem not_inRecords_fltStat (b c : Nat) : ¬inRecords b (Reg.FLT_STAT c) := by
  unfold inRecords Reg.FLT_STAT
  omega

theorem inWindow_fltStat (b : Nat) : inWindow b (Reg.FLT_STAT b) := by
  unfold inWindow Reg.FLT_STAT
  omega

theorem State.get_lt (s : State) (f : Fld) : s.get f < 2 ^ f.len := Nat.mod_lt _ (Nat.two_pow_pos _)

theorem inRecords_histInfo {b i : Nat} (h : i < 8) : inRecords b (Reg.FLT_HIST_INFO b i) := by
  unfold inRecords Reg.FLT_HIST_INFO
  omega

theorem inRecords_histTimeLo {b i : Nat} (h : i < 8) : inRecords b (Reg.FLT_HIST_TIME_LO b i) := by
  unfold inRecords Reg.FLT_HIST_TIME_LO
  omega

theorem inRecords_histTimeHi {b i : Nat} (h : i < 8) : inRecords b (Reg.FLT_HIST_TIME_HI b i) := by
  unfold inRecords Reg.FLT_HIST_TIME_HI
  omega

theorem inRecords_histPtr (b : Nat) : inRecords b (Reg.FLT_HIST_PTR b) := by
  unfold inRecords Reg.FLT_HIST_PTR
  omega

theorem inRecords_firstInfo (b : Nat) : inRecords b (Reg.FLT_FIRST_INFO b) := by
  unfold inRecords Reg.FLT_FIRST_INFO
  omega

theorem inRecords_firstAddr (b : Nat) : inRecords b (Reg.FLT_FIRST_ADDR b) := by
  unfold inRecords Reg.FLT_FIRST_ADDR
  omega

theorem inRecords_firstTimeLo (b : Nat) : inRecords b (Reg.FLT_FIRST_TIME_LO b) := by
  unfold inRecords Reg.FLT_FIRST_TIME_LO
  omega

theorem inRecords_firstTimeHi (b : Nat) : inRecords b (Reg.FLT_FIRST_TIME_HI b) := by
  unfold inRecords Reg.FLT_FIRST_TIME_HI
  omega

/-- The capture of a fault fills the records of its block alone. -/
theorem State.capture_regsOff (s : State) (b : Nat) (info : Word) (addr master : Nat) :
    (s.capture b info addr master).regsOff (inRecords b) s := by
  have hi : s.get (Fd.FLT_HIST_PTR_next b) < 8 := s.get_lt _
  have same : s.regsOff (inRecords b) s := .rfl' s
  unfold State.capture
  generalize s.now % 2 ^ 48 = t
  generalize hm : t + master % 256 * 2 ^ 56 = tm
  dsimp only
  refine .ite (fun _ => ?_) fun _ => .ite (fun _ => same) fun _ => ?_
  · exact ((same.wr (inRecords_histInfo hi) _).put64 (inRecords_histTimeLo hi) (inRecords_histTimeHi hi) _).put (inRecords_histPtr b) _
  · exact ((same.wr (inRecords_firstInfo b) _).wr (inRecords_firstAddr b) _).put64 (inRecords_firstTimeLo b) (inRecords_firstTimeHi b) _

section
variable (s : State) (b : Fin 18) (info : Word) (cls addr master : Nat)

/-- The registers after the count of a fault are those after its capture; Hamper's mark is no register. -/
theorem State.rd_countFault (a : Nat) : (s.countFault b info cls addr master).rd a =
    ((s.bump (Fd.FLT_STAT_count b)).capture b info addr master).rd a := by
  unfold State.countFault
  generalize (s.bump (Fd.FLT_STAT_count b)).capture b info addr master = t
  dsimp only
  split
  · exact t.rd_mk a
  · rfl

/-- The count of a fault changes the status of its block, and its records. -/
theorem State.countFault_regsOff : (s.countFault b info cls addr master).regsOff (inWindow b) s := fun a ha => by
  rw [s.rd_countFault]
  have counted : (s.bump (Fd.FLT_STAT_count b)).regsOff (inWindow b) s := (State.regsOff.rfl' s).bump (inWindow_fltStat b)
  exact (((s.bump _).capture_regsOff b info addr master).mono fun _ => inRecords.inWindow).trans counted a ha

/-- Of the status of a block the count of a fault changes the counter alone. -/
theorem State.rd_countFault_stat : (s.countFault b info cls addr master).rd (Reg.FLT_STAT b) = (s.bump (Fd.FLT_STAT_count b)).rd (Reg.FLT_STAT b) := by
  rw [s.rd_countFault]
  exact (s.bump _).capture_regsOff b info addr master _ (not_inRecords_fltStat b b)

theorem State.get_countFault_count : (s.countFault b info cls addr master).faultCounted s b := by
  unfold State.faultCounted State.get
  rw [show (Fd.FLT_STAT_count b).addr = Reg.FLT_STAT b from rfl, s.rd_countFault_stat]
  exact s.get_bump_same (Fd.FLT_STAT_count b) (by decide : 16 + 16 ≤ 32)

theorem State.get_countFault_apart (f : Fld) (hf : f.addr = Reg.FLT_STAT b) (d : (Fd.FLT_STAT_count b).apart f) :
    (s.countFault b info cls addr master).get f = s.get f := by
  unfold State.get
  rw [hf, s.rd_countFault_stat, ← hf]
  exact s.get_bump_apart (Fd.FLT_STAT_count b) f (by decide : 16 + 16 ≤ 32) d

end

/-! ## Faults that bring no Halt -/

section
variable (s : State) (b : Fin 18) (code unit access addr master : Nat)

/-- A Note that does not escalate is counted and captured, and no more (R442, R445). -/
theorem State.recordAt_note (h : escalatingNote b code = false) :
    s.recordAt b code 0 unit access addr master = s.countFault b (faultInfo code 0 false (isOwnFault b code) access unit) 0 addr master := by
  have hcls : escalate (vget s.flt.rem b) b (isOwnFault b code) code 0 unit = 0 := by simp [escalate, h]
  unfold State.recordAt
  simp [hcls, h]

end

end Sys2Proof.Machine
end

section
/-! Chapter 02: the start of a frame (R33, R36, R38, R39, R447). -/

namespace Sys2Proof.Machine

/-- A time base of a state that every operation without a move of time keeps. -/
def AtTime (frame start f g : Nat) : Prop := f = frame ∧ g = start

theorem State.atTime_ok (s : State) : OK False s.pending (AtTime s.time.frame s.time.frameStart) s := ⟨False.elim, ⟨rfl, rfl⟩, rfl⟩

theorem State.nextFrame_frame (s : State) : s.nextFrame.time.frame = (s.time.frame + 1) % 2 ^ 48 := by
  unfold State.nextFrame
  dsimp only
  split_ifs <;> rfl

theorem State.nextFrame_frameStart (s : State) : s.nextFrame.time.frameStart = (s.time.frameStart + s.time.len) % 2 ^ 64 := by
  unfold State.nextFrame
  dsimp only
  split_ifs <;> rfl

/-- The work of a frame's start moves the time base by its first step alone. -/
theorem State.frameBegin_ok_of_nextFrame {W : Prop} {q : List Instr} {I : Nat → Nat → Prop} {s : State} (h : OK W q I s.nextFrame)
    (samples : List (Vector Int 24)) (pins : FramePins) : OK W q I (s.frameBegin samples pins) :=
  State.startPins_ok (State.startTicks_ok (State.writeFrame_ok (State.followReactions_ok (State.endTicks_ok
    (State.lockTick_ok (State.routeWrites_ok (State.claimSample_ok (State.formSet_ok h samples pins) pins)))))))

/-- FAULT_N and SYNC_OUT stand as the faults and the mode ask (R447, R48). -/
def State.pinsShown (t : State) : Prop :=
  t.flt.faultLow = (!t.pins.testMode && (t.flt.safe || t.faultNLow)) ∧
    t.pins.syncOut = (t.flag Fd.SNS_SYNC_CTRL_sync_out_en && !t.flt.safe && !t.pins.testMode)

theorem State.startPins_pinsShown (s : State) : s.startPins.pinsShown := ⟨rfl, rfl⟩

theorem State.frameClear_pinsShown {s : State} (h : s.pinsShown) : s.frameClear.pinsShown := h

theorem State.frameBegin_pinsShown (s : State) (samples : List (Vector Int 24)) (pins : FramePins) : (s.frameBegin samples pins).pinsShown :=
  State.startPins_pinsShown _

theorem execFrameStart_stopped {samples : List (Vector Int 24)} {pins : FramePins} {s : State} (h : s.pwr.stopped = true) :
    execFrameStart samples pins s = .next s := by
  unfold execFrameStart
  rw [if_pos h]

theorem execFrameStart_runs {samples : List (Vector Int 24)} {pins : FramePins} {s : State} (h : s.pwr.stopped = false) :
    execFrameStart samples pins s = .next (s.frameBegin samples pins).frameClear := by
  unfold execFrameStart
  rw [if_neg (by simp [h])]

/-- Settles O5: the time base moves with the first step of a frame's start, and the pins are driven by the last. -/
theorem frameStartBeginsTheNextFrame : Obligations.FrameStartBeginsTheNextFrame := by
  intro samples pins s
  refine ⟨execFrameStart_stopped, fun run => ⟨_, execFrameStart_runs run, ?_⟩⟩
  obtain ⟨-, ⟨frame, start⟩, -⟩ := State.frameClear_ok (State.frameBegin_ok_of_nextFrame s.nextFrame.atTime_ok samples pins)
  obtain ⟨faultN, syncOut⟩ := State.frameClear_pinsShown (s.frameBegin_pinsShown samples pins)
  exact ⟨frame.trans s.nextFrame_frame, start.trans s.nextFrame_frameStart, rfl, rfl, rfl, faultN, syncOut⟩

end Sys2Proof.Machine
end

section
/-! Chapters 02, 03 and 11: the close of the exchange, the loop engine's run, and the write check (R36, R89, R306, R307). -/

namespace Sys2Proof.Machine

/-- A component of a state has a value. As a structure it keeps the state's branches folded where proofs walk through them. -/
structure State.Has {β : Type} (p : State → β) (v : β) (s : State) : Prop where
  eq : p s = v

section
variable {β : Type} {p : State → β} {v : β} {s : State}

theorem State.Has.ite {c : Prop} {_ : Decidable c} {a b : State} (ha : c → a.Has p v) (hb : ¬c → b.Has p v) : (if c then a else b).Has p v := by
  split
  · exact ha ‹_›
  · exact hb ‹_›

theorem State.Has.dite {c : Prop} {_ : Decidable c} {a : c → State} {b : ¬c → State} (ha : ∀ h, (a h).Has p v) (hb : ∀ h, (b h).Has p v) :
    (if h : c then a h else b h).Has p v := by
  split
  · exact ha _
  · exact hb _

theorem State.Has.foldl {α : Type} {l : List α} {f : State → α → State} (hf : ∀ t i, t.Has p v → (f t i).Has p v) (h : s.Has p v) :
    (l.foldl f s).Has p v := by
  induction l generalizing s with
  | nil => exact h
  | cons i l ih => exact ih (hf s i h)

theorem State.Has.each {n : Nat} {f : Nat → State → State} (hf : ∀ i t, t.Has p v → (f i t).Has p v) (h : s.Has p v) :
    (State.each n f s).Has p v := State.Has.foldl (fun t i => hf i t) h

end

/-! ## The close of the exchange -/

section
variable (s : State)

theorem State.closeInputs_closed (h : s.inp.closed = true) : s.closeInputs = s := by
  unfold State.closeInputs
  rw [if_pos h]

theorem State.closeInputs_open (h : s.inp.closed = false) :
    s.closeInputs = { s.takeInputs with inp := { s.takeInputs.inp with closed := true } } := by
  unfold State.closeInputs
  rw [if_neg (by simp [h])]

theorem State.closed_closeInputs : s.closeInputs.inp.closed = true := by
  cases h : s.inp.closed with
  | true => rw [s.closeInputs_closed h, h]
  | false => rw [s.closeInputs_open h]

theorem State.get_congr {s t : State} (h : t.regs = s.regs) (f : Fld) : t.get f = s.get f := by
  unfold State.get State.rd
  rw [h]

theorem State.flag_congr {s t : State} (h : t.regs = s.regs) (f : Fld) : t.flag f = s.flag f := by
  unfold State.flag
  rw [State.get_congr h]

theorem State.iff_keeps {β : Type} (p : State → β) {f : State → State} (hf : ∀ t, p (f t) = p t) (c : Bool) : p (State.iff c f s) = p s := by
  cases c with
  | true => exact hf s
  | false => rfl

theorem State.iff_true {f : State → State} {c : Bool} (h : c = true) : State.iff c f s = f s := if_pos h

theorem State.iff_false {f : State → State} {c : Bool} (h : c = false) : State.iff c f s = s := if_neg (by simp [h])

/-- A set that is missing is counted (R307). -/
def State.missTaken : State :=
  { s with lks := { s.lks with missSweep := s.lks.missSweep + 1, missSlow := s.lks.missSlow + 1 } }.bump Fd.LKS_CNT_A_exch_miss

/-- The choice of the set is kept (R306). -/
def State.setChosen (onPartner : Bool) : State :=
  { s with inp := { s.inp with onPartner := onPartner }, lks := { s.lks with onSet := onPartner && s.flag Fd.LKS_STAT_synced } }

/-- A missing set is counted, it takes a standby's synchronisation away, and the choice is kept. -/
theorem State.chooseSet_eq : s.chooseSet = (State.iff (s.isStandby && !s.inp.partner.isSome) (·.setFlag Fd.LKS_STAT_synced false)
    (State.iff (s.lks.partnerValid && !s.inp.partner.isSome) State.missTaken s)).setChosen (s.isStandby && s.inp.partner.isSome) := rfl

@[simp] theorem State.missTaken_inp : s.missTaken.inp = s.inp := by simp [State.missTaken]
@[simp] theorem State.missTaken_time : s.missTaken.time = s.time := by simp [State.missTaken]
@[simp] theorem State.missTaken_flt : s.missTaken.flt = s.flt := by simp [State.missTaken]

theorem State.setChosen_iff_iff_inp {f g : State → State} (hf : ∀ t : State, (f t).inp = t.inp) (hg : ∀ t : State, (g t).inp = t.inp)
    (c d x : Bool) :
    ((State.iff c f (State.iff d g s)).setChosen x).inp = { s.inp with onPartner := x } := by
  simp only [State.setChosen]
  rw [State.iff_keeps _ State.inp hf, State.iff_keeps _ State.inp hg]

theorem State.chooseSet_inp : s.chooseSet.inp = { s.inp with onPartner := s.isStandby && s.inp.partner.isSome } := by
  rw [State.chooseSet_eq]
  exact s.setChosen_iff_iff_inp (fun t => t.setFlag_inp _ _) (fun t => t.missTaken_inp) ..

/-- A part that no step of the choice changes. -/
theorem State.setChosen_iff_iff_keeps {β : Type} (p : State → β) {f g : State → State} (hf : ∀ t, p (f t) = p t) (hg : ∀ t, p (g t) = p t)
    (hx : ∀ (t : State) (x : Bool), p (t.setChosen x) = p t) (c d x : Bool) : p ((State.iff c f (State.iff d g s)).setChosen x) = p s := by
  rw [hx, State.iff_keeps _ p hf, State.iff_keeps _ p hg]

theorem State.chooseSet_time : s.chooseSet.time = s.time := by
  rw [State.chooseSet_eq]
  exact s.setChosen_iff_iff_keeps State.time (fun t => t.setFlag_time _ _) (fun t => t.missTaken_time) (fun _ _ => rfl) ..

theorem State.chooseSet_flt : s.chooseSet.flt = s.flt := by
  rw [State.chooseSet_eq]
  exact s.setChosen_iff_iff_keeps State.flt (fun t => t.setFlag_flt _ _) (fun t => t.missTaken_flt) (fun _ _ => rfl) ..

@[simp] theorem State.get_setChosen (x : Bool) (f : Fld) : (s.setChosen x).get f = s.get f := s.get_mk f
@[simp] theorem State.flag_setChosen (x : Bool) (f : Fld) : (s.setChosen x).flag f = s.flag f := s.flag_mk f

theorem State.get_missTaken : s.missTaken.get Fd.LKS_CNT_A_exch_miss = (s.get Fd.LKS_CNT_A_exch_miss + 1) % 2 ^ Fd.LKS_CNT_A_exch_miss.len := by
  unfold State.missTaken
  rw [State.get_bump_same _ _ (by decide), State.get_mk]

/-- The counter of missing sets counts where the partner is valid and its set is not there (R307). -/
theorem State.get_chooseSet_miss : s.chooseSet.get Fd.LKS_CNT_A_exch_miss =
    if s.lks.partnerValid && !s.inp.partner.isSome then (s.get Fd.LKS_CNT_A_exch_miss + 1) % 2 ^ Fd.LKS_CNT_A_exch_miss.len
    else s.get Fd.LKS_CNT_A_exch_miss := by
  rw [State.chooseSet_eq, State.get_setChosen,
    State.iff_keeps _ (·.get Fd.LKS_CNT_A_exch_miss) (fun t => t.get_setFlag_apart _ _ _ (by decide) (.inl (by decide)))]
  cases h : s.lks.partnerValid && !s.inp.partner.isSome with
  | true => rw [State.iff_true _ rfl, if_pos rfl, State.get_missTaken]
  | false => rw [State.iff_false _ rfl, if_neg Bool.false_ne_true]

/-- A standby without the claimant's set is no longer synchronised (R307). -/
theorem State.flag_chooseSet_synced (hs : s.isStandby = true) (hp : s.inp.partner.isNone = true) : s.chooseSet.flag Fd.LKS_STAT_synced = false := by
  rw [State.chooseSet_eq, State.flag_setChosen, State.iff_true _ (by simp [hs, Option.isNone_iff_eq_none.1 hp])]
  exact State.flag_setFlag_same _ _ _ (by decide) rfl

/-- The sum over the sense codes is held in the lockstep part. -/
theorem State.adcSum_keeps : s.adcSum.regs = s.regs ∧ s.adcSum.inp = s.inp ∧ s.adcSum.time = s.time ∧ s.adcSum.flt = s.flt := by
  unfold State.adcSum
  split
  · split_ifs <;> exact ⟨rfl, rfl, rfl, rfl⟩
  · exact ⟨rfl, rfl, rfl, rfl⟩

/-- With LOOP in reset the close chooses the set, and takes nothing else. -/
theorem State.takeInputs_inReset (h : s.inReset 0 = true) : s.takeInputs = (s.atCycle 300).chooseSet.adcSum := by
  have still : (s.atCycle 300).chooseSet.adcSum.inReset 0 = true := by
    obtain ⟨-, -, -, flt⟩ := (s.atCycle 300).chooseSet.adcSum_keeps
    unfold State.inReset
    rw [flt, State.chooseSet_flt]
    exact h
  unfold State.takeInputs
  dsimp only
  rw [if_pos still]

/-- The close with LOOP in reset (R307). -/
theorem State.closeInputs_inReset (ho : s.inp.closed = false) (hr : s.inReset 0 = true) :
    s.closeInputs.inp = { s.inp with closed := true, onPartner := s.isStandby && s.inp.partner.isSome } ∧
    s.closeInputs.regs = (s.atCycle 300).chooseSet.regs ∧ s.closeInputs.time = { s.time with cycle := 300 } := by
  obtain ⟨regs, inp, time, -⟩ := (s.atCycle 300).chooseSet.adcSum_keeps
  rw [s.closeInputs_open ho, s.takeInputs_inReset hr]
  refine ⟨?_, regs, time.trans (State.chooseSet_time _)⟩
  simp only [inp, State.chooseSet_inp]
  rfl

end

/-! ## The loop engine's run -/

section
variable (s : State)

theorem State.setLoop_writeOk (l : Nat) (x : LoopRt) : (s.setLoop l x).lpe.writeOk = s.lpe.writeOk := by
  unfold State.setLoop
  split <;> rfl

theorem State.mk_lpe {regs time inp wq lpe hmp prf site zfb wgl lks link chn est arr flt mgp sec pwr cfg pins shadow free pending} :
    (State.mk regs time inp wq lpe hmp prf site zfb wgl lks link chn est arr flt mgp sec pwr cfg pins shadow free pending).lpe = lpe := rfl

/-- The loop engine has written its outputs. -/
abbrev State.Written (s : State) : Prop := s.Has (·.lpe.writeOk) true

theorem State.Written.of_lpe {s t : State} (h : s.Written) (e : t.lpe = s.lpe) : t.Written := ⟨(congrArg LpeRt.writeOk e).trans h.eq⟩

theorem State.Written.upd {regs time inp wq lpe hmp prf site zfb wgl lks link chn est arr flt mgp sec pwr cfg pins shadow free pending}
    (h : lpe.writeOk = true) :
    (State.mk regs time inp wq lpe hmp prf site zfb wgl lks link chn est arr flt mgp sec pwr cfg pins shadow free pending).Written := ⟨h⟩

theorem State.ceilingEnd_lpe : s.ceilingEnd.lpe = s.lpe := by
  unfold State.ceilingEnd
  exact State.mk_lpe

theorem State.profileEnd_lpe : s.profileEnd.lpe = s.lpe := by
  unfold State.profileEnd
  exact State.mk_lpe

theorem State.followStep_written {s : State} (h : s.Written) (l : Nat) : (s.followStep l).Written := by
  unfold State.followStep
  extract_lets x lim exc tl n u v
  have hu : u.Written := h.of_lpe ((State.setFlag_lpe _ _ _).trans (s.put_lpe _ _))
  clear_value u
  have hv : v.Written := ⟨(State.setLoop_writeOk u l _).trans hu.eq⟩
  clear_value v
  exact .dite (fun _ => hv.of_lpe rfl) fun _ => .ite (fun _ => hv.of_lpe rfl) fun _ => hv

theorem State.overloadStep_written {s : State} (h : s.Written) (z : Nat) : (s.overloadStep z).Written := by
  unfold State.overloadStep
  extract_lets cap isOver u v
  have hu : u.Written := h.of_lpe (s.putBF_lpe _ _)
  clear_value u
  have hv : v.Written := hu.of_lpe (u.setFlag_lpe _ _)
  clear_value v
  exact .ite (fun _ => hv.of_lpe (v.bumpSat_lpe _)) fun _ => hv.of_lpe (v.put_lpe _ _)

theorem State.pgoodStep_written {s : State} (h : s.Written) (z : Nat) : (s.pgoodStep z).Written := by
  unfold State.pgoodStep
  extract_lets u
  have hu : u.Written := h.of_lpe (s.setFlag_lpe _ _)
  clear_value u
  exact .ite (fun _ => hu.of_lpe (u.put_lpe _ _)) fun _ => hu.of_lpe (by rw [State.setFlag_lpe, State.put_lpe])

theorem State.mismatchStep_written {s : State} (h : s.Written) (k : Fin 16) : (s.mismatchStep k).Written := h.of_lpe rfl

theorem State.Written.markRan {s : State} (h : s.Written) : ({ s with lpe := { s.lpe with ran := true } } : State).Written := .upd h.eq

/-- The engine's run marks that all outputs are written (R36, R89), and nothing after that mark takes it back. -/
theorem State.engineRun_written : s.engineRun.Written := by
  unfold State.engineRun
  extract_lets a f b old d e g k m last
  have hd : d.Written := .upd rfl
  clear_value d
  have he : e.Written := State.Has.each (fun l _ ht => State.followStep_written ht l) hd
  clear_value e
  have hg : g.Written := State.Has.foldl (fun _ k ht => State.mismatchStep_written ht k) he
  clear_value g
  have hk : k.Written := State.Has.each (fun z _ ht => State.pgoodStep_written (State.overloadStep_written ht z) z) hg
  clear_value k
  have hm : m.Written := (hk.of_lpe k.ceilingEnd_lpe).of_lpe k.ceilingEnd.profileEnd_lpe
  clear_value m
  exact hm.markRan

theorem State.engineRun_ran : s.engineRun.Has (·.lpe.ran) true := by
  unfold State.engineRun
  extract_lets a f b old d e g k m last
  exact ⟨rfl⟩

theorem execLoopEngineRun_ran (h : s.lpe.ran = true) : execLoopEngineRun s = .next s := by
  unfold execLoopEngineRun
  rw [if_pos (by simp [h])]

/-- After the close the engine runs where the loops run, at cycle 614. -/
theorem execLoopEngineRun_closed (run : s.pwr.stopped = false) (h : s.lpe.ran = false) (c : s.inp.closed = true) :
    execLoopEngineRun s = .next (if s.loopRuns then (s.atCycle 614).engineRun else s) := by
  unfold execLoopEngineRun
  rw [if_neg (by simp [run, h]), s.closeInputs_closed c]

end

/-! ## The write check -/

section
variable (s : State) (b : Fin 18) (code unit access addr master : Nat)

/-- A fault of class Halt is counted and captured, and starts the Halt sequence (R449). -/
theorem State.recordAt_halt : s.recordAt b code 3 unit access addr master =
    (s.countFault b (faultInfo code 3 false (isOwnFault b code) access unit) 3 addr master).halt b := by
  have hcls : escalate (vget s.flt.rem b) b (isOwnFault b code) code 3 unit = 3 := by simp [escalate]
  unfold State.recordAt
  simp [hcls]

/-- The registers that the safe state and the start of a dump change (R448, R461). -/
def inSafe (a : Nat) : Prop :=
  (∃ n < 26, a = Reg.STL_LANE_STAT n) ∨ (∃ t < 16, a = Reg.WGL_LINK_STAT t) ∨ a = Reg.LKS_LOCK_STAT ∨ a = Reg.LKS_STAT ∨ a = Reg.LKS_DUMP_STAT

theorem not_inSafe_fltStat (b : Fin 18) : ¬inSafe (Reg.FLT_STAT b) := by
  have hb := b.isLt
  unfold inSafe Reg.FLT_STAT Reg.STL_LANE_STAT Reg.WGL_LINK_STAT Reg.LKS_LOCK_STAT Reg.LKS_STAT Reg.LKS_DUMP_STAT
  omega

theorem State.enterSafe_regsOff : s.enterSafe.regsOff inSafe s := by
  unfold State.enterSafe
  extract_lets flt pins u v w
  have hu : u.regsOff inSafe s := .rfl' s
  clear_value u
  have hv : v.regsOff inSafe s := .each (fun n hn _ ht => ht.put (.inl ⟨n, hn, rfl⟩) _) hu
  clear_value v
  have hw : w.regsOff inSafe s := .each (fun t ht _ hu => hu.put (.inr (.inl ⟨t, ht, rfl⟩)) _) hv
  clear_value w
  exact (hw.put (.inr (.inr (.inl rfl))) _).setFlag (.inr (.inr (.inr (.inl rfl)))) _

theorem State.startDump_regsOff (trigger : Nat) (after : AfterDump) : (s.startDump trigger after).regsOff inSafe s := by
  unfold State.startDump
  refine .ite (fun _ => .rfl' s) fun _ => ?_
  have same : s.regsOff inSafe s := .rfl' s
  exact (same.upd rfl).setFlag (.inr (.inr (.inr (.inr rfl)))) _

/-- What the safe state, a dump's start and the halt of a block leave of a state's pins and faults: the outputs are safe, `valid` is released. -/
abbrev State.Released (s : State) : Prop := s.Has (fun s => (s.flt.safe, s.pins.valid)) (true, false)

theorem State.Released.upd {regs time inp wq lpe hmp prf site zfb wgl lks link chn est arr flt mgp sec pwr cfg pins shadow free pending}
    (flt_safe : flt.safe = true) (released : pins.valid = false) :
    (State.mk regs time inp wq lpe hmp prf site zfb wgl lks link chn est arr flt mgp sec pwr cfg pins shadow free pending).Released :=
  ⟨Prod.ext flt_safe released⟩

theorem State.Released.safe {s : State} (h : s.Released) : s.flt.safe = true := congrArg Prod.fst h.eq
theorem State.Released.valid {s : State} (h : s.Released) : s.pins.valid = false := congrArg Prod.snd h.eq

theorem State.Released.of_eq {s t : State} (h : s.Released) (flt : t.flt = s.flt) (pins : t.pins = s.pins) : t.Released :=
  ⟨by rw [← h.eq, flt, pins]⟩

theorem State.enterSafe_released : s.enterSafe.Released := by
  unfold State.enterSafe
  extract_lets flt pins u v w
  have hu : u.Released := .upd rfl rfl
  clear_value u
  have hv : v.Released := .each (fun n t ht => State.Released.of_eq ht (t.put_flt _ _) (t.put_pins _ _)) hu
  clear_value v
  have hw : w.Released := .each (fun n t ht => State.Released.of_eq ht (t.put_flt _ _) (t.put_pins _ _)) hv
  clear_value w
  exact hw.of_eq ((State.setFlag_flt _ _ _).trans (w.put_flt _ _)) ((State.setFlag_pins _ _ _).trans (w.put_pins _ _))

theorem State.startDump_released {s : State} (h : s.Released) (trigger : Nat) (after : AfterDump) : (s.startDump trigger after).Released := by
  unfold State.startDump
  generalize Fd.LKS_DUMP_STAT_busy = f
  refine State.Has.ite (fun _ => State.Released.upd h.safe h.valid) fun _ => ?_
  refine State.Released.of_eq ?_ (State.setFlag_flt _ _ _) (State.setFlag_pins _ _ _)
  exact State.Released.upd h.safe h.valid

theorem State.halt_released (c : Nat) : (s.halt c).Released := by
  unfold State.halt
  extract_lets u v old
  have hv : v.Released := u.enterSafe_released
  clear_value v
  refine State.Has.ite (fun _ => State.startDump_released ?_ 0 .halt) fun _ => hv
  exact State.Released.upd hv.safe hv.valid

theorem State.startDump_halt (trigger : Nat) (after : AfterDump) : (s.startDump trigger after).flt.halt = s.flt.halt := by
  unfold State.startDump
  generalize Fd.LKS_DUMP_STAT_busy = f
  split <;> rfl

/-- The Halt sequence has begun (R449). -/
theorem State.halt_begun (c : Nat) : (s.halt c).Has (·.flt.halt != .none) true := by
  unfold State.halt
  extract_lets u v old
  clear_value v
  refine .ite (fun _ => ⟨?_⟩) fun h => ⟨by simpa using h⟩
  rw [State.startDump_halt]
  rfl

theorem State.flag_halt : (s.halt b).flag (Fd.FLT_STAT_halt b) = true := by
  unfold State.halt
  extract_lets u v old
  have hu : u.Has (·.flag (Fd.FLT_STAT_halt b)) true := ⟨s.flag_setFlag_same _ _ (by decide : 12 + 1 ≤ 32) rfl⟩
  clear_value u
  have hv : v.Has (·.flag (Fd.FLT_STAT_halt b)) true := ⟨(u.enterSafe_regsOff.flag (not_inSafe_fltStat b)).trans hu.eq⟩
  clear_value v
  refine (State.Has.ite (fun _ => ⟨?_⟩) fun _ => hv).eq
  exact ((State.startDump_regsOff _ 0 .halt).flag (not_inSafe_fltStat b)).trans ((State.flag_mk v _).trans hv.eq)

end

/-! ## What cycle 620 copies -/

/-- The registers that Hamper and the arming latches change at cycle 620 (R92, R433). -/
def inCopies (a : Nat) : Prop :=
  a = Reg.HMP_STAT ∨ a = Reg.HMP_TRIG_FRAME_LO ∨ a = Reg.HMP_TRIG_FRAME_HI ∨ ∃ z < 4, a = Reg.KPR_CMP_ZONE z

theorem not_inCopies_fltStat (b : Fin 18) : ¬inCopies (Reg.FLT_STAT b) := by
  have hb := b.isLt
  unfold inCopies Reg.FLT_STAT Reg.HMP_STAT Reg.HMP_TRIG_FRAME_LO Reg.HMP_TRIG_FRAME_HI Reg.KPR_CMP_ZONE
  omega

section
variable (s : State)

theorem State.hamperRecord_regsOff : s.hamperRecord.regsOff inCopies s := by
  have same : s.regsOff inCopies s := .rfl' s
  unfold State.hamperRecord
  extract_lets st h r recs u
  refine .ite (fun _ => same) fun _ => .ite (fun _ => same) fun _ => .ite (fun _ => ?_) fun _ => .ite (fun _ => ?_) fun _ => same
  · exact (same.upd rfl).put (.inl rfl) _
  · have hu : u.regsOff inCopies s := .ite (fun _ => same.put64 (.inr (.inl rfl)) (.inr (.inr (.inl rfl))) _) fun _ => same
    clear_value u
    exact hu.upd rfl

theorem State.hamperFrame_regsOff : s.hamperFrame.regsOff inCopies s := by
  unfold State.hamperFrame
  extract_lets old u v old'
  have hu : u.regsOff inCopies s := by
    have same : s.regsOff inCopies s := .rfl' s
    exact .ite (fun _ => (same.upd rfl).put (.inl rfl) _) fun _ => same
  clear_value u
  have hv : v.regsOff inCopies s := u.hamperRecord_regsOff.trans hu
  clear_value v
  exact hv.upd rfl

theorem State.armLatch_regsOff : s.armLatch.regsOff inCopies s :=
  .foldl (fun z _ _ ht => ht.setFlag (.inr (.inr (.inr ⟨z, z.isLt, rfl⟩))) _) (.rfl' s)

/-- The copies of Hamper and the arming latches. -/
def State.copied : State := s.hamperFrame.armLatch

theorem State.copied_copy : Copy s.partCopy s.copied := Copy.armLatch (Copy.hamperFrame (Copy.rfl' s))

theorem State.copied_lpe : s.copied.lpe = s.lpe := s.copied_copy.lpe_eq
theorem State.copied_flt : s.copied.flt = s.flt := s.copied_copy.flt_eq
theorem State.copied_pins : s.copied.pins = s.pins := s.copied_copy.pins_eq

theorem State.copied_regsOff : s.copied.regsOff inCopies s := (State.armLatch_regsOff _).trans s.hamperFrame_regsOff

/-- The samples of the channels are held in the array's part. -/
theorem State.sampleChannels_copy : Copy s.partCopy s.sampleChannels := Copy.sampleChannels (Copy.rfl' s)

theorem State.sampleChannels_lpe : s.sampleChannels.lpe = s.lpe := s.sampleChannels_copy.lpe_eq
theorem State.sampleChannels_flt : s.sampleChannels.flt = s.flt := s.sampleChannels_copy.flt_eq
theorem State.sampleChannels_pins : s.sampleChannels.pins = s.pins := s.sampleChannels_copy.pins_eq
theorem State.sampleChannels_regsOff : s.sampleChannels.regsOff (fun _ => False) s := by
  unfold State.sampleChannels
  exact State.regsOff.upd (.rfl' s) rfl


/-! ## The write check in whole -/

/-- Have the outputs not all been written, or is a missing write injected (R36, R466)? -/
def State.misses : Bool := !s.lpe.writeOk || s.lpe.injectMissing

/-- The check marks what it has found. -/
def State.checked : State := { s with lpe := { s.lpe with injectMissing := false, checkOk := !s.misses } }

/-- The check at cycle 620: what it has found is marked, and a missing write is a fault of class Halt (R36). -/
def State.judgedWrites : State := State.iff s.misses (·.record Blk.lpe 0x10 3 0) (s.atCycle 620).checked

theorem execWriteCheck_runs (run : s.pwr.stopped = false) (loops : s.loopRuns = true) :
    execWriteCheck s = .next s.judgedWrites.copied.sampleChannels := by
  have still : (s.atCycle 620).loopRuns = true := loops
  unfold execWriteCheck
  rw [if_neg (by simp [run])]
  extract_lets u missing old v w x
  have taken : x = w.hamperFrame.armLatch := if_neg (by simp [u, still])
  rw [taken]
  rfl

/-- What the record of a fault leaves of the loop engine. -/
theorem State.judgedWrites_lpe : s.judgedWrites.lpe = (s.atCycle 620).checked.lpe :=
  State.iff_keeps _ State.lpe (fun t => t.record_lpe ..) _

theorem State.not_misses : (!s.misses) = (s.lpe.writeOk && !s.lpe.injectMissing) := by simp [State.misses]

theorem State.misses_of_not_written (h : (s.lpe.writeOk && !s.lpe.injectMissing) = false) : s.misses = true := by
  exact Bool.not_eq_false' .. ▸ s.not_misses.trans h

/-- A missing write is a Halt: `valid` is released, and the Halt sequence begins (R36, R449). -/
theorem State.judgedWrites_halted (h : s.misses = true) : s.judgedWrites.flag (Fd.FLT_STAT_halt 1) = true ∧ s.judgedWrites.flt.safe = true ∧
    s.judgedWrites.pins.valid = false ∧ (s.judgedWrites.flt.halt != .none) = true := by
  unfold State.judgedWrites State.record
  rw [State.iff_true _ h, State.recordAt_halt]
  generalize (s.atCycle 620).checked.countFault Blk.lpe _ 3 0 0 = t
  exact ⟨State.flag_halt _ Blk.lpe, (State.halt_released _ _).safe, (State.halt_released _ _).valid, (State.halt_begun _ _).eq⟩

end

/-- Settles O6: the close chooses the set once, the engine's run marks its outputs, and the check judges that mark. -/
theorem frameStepsRunInOrder : Obligations.FrameStepsRunInOrder := by
  intro s run
  have close : execInputExchangeClose s = .next s.closeInputs := by
    unfold execInputExchangeClose
    rw [if_neg (by simp [run])]
  refine ⟨⟨_, close, s.closed_closeInputs, s.closeInputs_closed, fun ho hr => ?_⟩, ?_, ?_⟩
  · obtain ⟨inp, regs, time⟩ := s.closeInputs_inReset ho hr
    refine ⟨inp, ?_, fun hs hp => ?_, time⟩
    · exact (State.get_congr regs _).trans (s.atCycle 300).get_chooseSet_miss
    · exact (State.flag_congr regs _).trans ((s.atCycle 300).flag_chooseSet_synced hs hp)
  · obtain ⟨t, done⟩ := exec_completes .loopEngineRun s
    have ranOnce (ran : s.lpe.ran = true) : t = s := (Host.Outcome.next.inj ((execLoopEngineRun_ran s ran).symm.trans done)).symm
    have closed (ran : s.lpe.ran = false) (c : s.inp.closed = true) : t = if s.loopRuns then (s.atCycle 614).engineRun else s :=
      (Host.Outcome.next.inj ((execLoopEngineRun_closed s run ran c).symm.trans done)).symm
    refine ⟨t, done, ranOnce, fun c idle => ?_, fun ran c loops => ?_⟩
    · cases ran : s.lpe.ran with
      | true => exact ranOnce ran
      | false => rw [closed ran c, if_neg (by simp [idle])]
    · rw [closed ran c, if_pos loops]
      obtain ⟨-, ⟨frame, -⟩, -⟩ := State.engineRun_ok (s.atCycle 614).atTime_ok
      exact ⟨(State.engineRun_ran _).eq, (State.engineRun_written _).eq, frame⟩
  · obtain ⟨t, done⟩ := exec_completes .writeCheck s
    have checked (loops : s.loopRuns = true) : t = s.judgedWrites.copied.sampleChannels :=
      (Host.Outcome.next.inj ((execWriteCheck_runs s run loops).symm.trans done)).symm
    refine ⟨t, done, fun loops => ?_, fun loops missing => ?_⟩
    · rw [checked loops, State.sampleChannels_lpe, State.copied_lpe, s.judgedWrites_lpe]
      exact ⟨rfl, s.not_misses⟩
    · obtain ⟨halt, safe, released, begun⟩ := s.judgedWrites_halted (s.misses_of_not_written missing)
      rw [checked loops, State.sampleChannels_flt, State.copied_flt, State.sampleChannels_pins, State.copied_pins]
      refine ⟨?_, safe, released, by simpa using begun⟩
      exact ((State.sampleChannels_regsOff _).flag id).trans ((s.judgedWrites.copied_regsOff.flag (not_inCopies_fltStat 1)).trans halt)

end Sys2Proof.Machine
end

section
/-! SUPPORT for chapters 02, 06, 09, 11 to 13: vectors, and the parts that an operation may change. -/

namespace Sys2Proof.Machine

section
variable {α : Type} {n : Nat}

@[simp] theorem vget_ofFn (f : Fin n → α) (i : Fin n) : vget (Vector.ofFn f) i = f i := by simp [vget]

@[simp] theorem vget_vset_same (v : Vector α n) (i : Fin n) (a : α) : vget (vset v i a) i = a := by simp [vget, vset]

theorem vget_vset_other (v : Vector α n) {i j : Fin n} (a : α) (h : j ≠ i) : vget (vset v i a) j = vget v j := by
  unfold vget vset
  exact Vector.getElem_set_ne (h := fun e => h (Fin.ext e.symm)) ..

end

section
variable {l l' : List Part} {r s t : State}

theorem State.within.rfl' (s : State) : s.within s l := by
  intro p _
  cases p <;> rfl

theorem State.within.trans (h : t.within s l) (h' : s.within r l) : t.within r l := by
  intro p hp
  have ht := h p hp
  have hs := h' p hp
  cases p <;> exact Eq.trans ht hs

theorem State.within.mono (h : t.within s l) (hl : l ⊆ l') : t.within s l' := fun p hp => h p fun m => hp (hl m)

theorem State.within.ite {c : Prop} {_ : Decidable c} {u : State} (ht : c → t.within s l) (hu : ¬c → u.within s l) :
    (if c then t else u).within s l := by
  split
  · exact ht ‹_›
  · exact hu ‹_›

theorem State.within.foldl {α : Type} {is : List α} {f : State → α → State} (hf : ∀ i u, u.within s l → (f u i).within s l)
    (h : t.within s l) : (is.foldl f t).within s l := by
  induction is generalizing t with
  | nil => exact h
  | cons i is ih => exact ih (hf i t h)

theorem State.wr_within (s : State) (a : Nat) (w : Word) : (s.wr a w).within s [.regs] := by
  intro p hp
  cases p
  case regs => exact (hp (by decide)).elim
  all_goals rfl

theorem State.within.wr (h : t.within s l) (hl : .regs ∈ l) (a : Nat) (w : Word) : (t.wr a w).within s l :=
  ((t.wr_within a w).mono fun _ hp => List.mem_singleton.1 hp ▸ hl).trans h

theorem State.within.put (h : t.within s l) (hl : .regs ∈ l) (f : Fld) (v : Nat) : (t.put f v).within s l := h.wr hl _ _

theorem State.within.setFlag (h : t.within s l) (hl : .regs ∈ l) (f : Fld) (b : Bool) : (t.setFlag f b).within s l := h.put hl _ _

theorem State.within.bump (h : t.within s l) (hl : .regs ∈ l) (f : Fld) : (t.bump f).within s l := h.put hl _ _

end

section
variable (s : State)

theorem State.within_time (x : TimeRt) : ({ s with time := x } : State).within s [.time] := by
  intro p hp
  cases p
  case time => exact (hp (by decide)).elim
  all_goals rfl

theorem State.within_zfb (x : ZfbRt) : ({ s with zfb := x } : State).within s [.zfb] := by
  intro p hp
  cases p
  case zfb => exact (hp (by decide)).elim
  all_goals rfl

theorem State.within_wgl (x : WglRt) : ({ s with wgl := x } : State).within s [.wgl] := by
  intro p hp
  cases p
  case wgl => exact (hp (by decide)).elim
  all_goals rfl

theorem State.within_link (x : LinkRt) : ({ s with link := x } : State).within s [.link] := by
  intro p hp
  cases p
  case link => exact (hp (by decide)).elim
  all_goals rfl

theorem State.within_pins (x : PinRt) : ({ s with pins := x } : State).within s [.pins] := by
  intro p hp
  cases p
  case pins => exact (hp (by decide)).elim
  all_goals rfl

theorem State.within_inp (x : InputRt) : ({ s with inp := x } : State).within s [.inp] := by
  intro p hp
  cases p
  case inp => exact (hp (by decide)).elim
  all_goals rfl

theorem State.within_hmp (x : HmpRt) : ({ s with hmp := x } : State).within s [.hmp] := by
  intro p hp
  cases p
  case hmp => exact (hp (by decide)).elim
  all_goals rfl

theorem State.within_lks (x : LksRt) : ({ s with lks := x } : State).within s [.lks] := by
  intro p hp
  cases p
  case lks => exact (hp (by decide)).elim
  all_goals rfl

theorem State.within_flt (x : FltRt) : ({ s with flt := x } : State).within s [.flt] := by
  intro p hp
  cases p
  case flt => exact (hp (by decide)).elim
  all_goals rfl

theorem State.within_chn (x : ChnRt) : ({ s with chn := x } : State).within s [.chn] := by
  intro p hp
  cases p
  case chn => exact (hp (by decide)).elim
  all_goals rfl

theorem State.atCycle_within (n : Nat) : (s.atCycle n).within s [.time] := s.within_time _

end

end Sys2Proof.Machine
end

section
/-! Chapters 02, 05 and 12: the stage commands at cycle 640 (R51, R159, R331). -/

namespace Sys2Proof.Machine

section
variable (s : State) (n : Fin 26)

/-! ## The command of a lane -/

theorem State.stageCmd_seq : (s.stageCmd n).seq = s.time.frame % 65536 := by
  unfold State.stageCmd
  split <;> rfl

theorem State.stageCmd_claim : (s.stageCmd n).claim = s.pins.claim := by
  unfold State.stageCmd
  split <;> rfl

theorem State.stageCmd_mode : (s.stageCmd n).mode = s.stageMode n := by
  unfold State.stageCmd
  split <;> rfl

theorem State.stageCmd_ref : (s.stageCmd n).ref = if s.stageMode n == .run then vget s.lpe.refs n else 0 := by
  unfold State.stageCmd
  split <;> rfl

theorem State.stageCmd_ver : (s.stageCmd n).ver = s.get (Fd.STL_LANE_STAT_version n) := by
  unfold State.stageCmd
  split <;> rfl

/-- A stage that runs is sent its reference, and another one 0. -/
theorem State.stageCmd_ref_run (h : s.stageMode n = .run) : (s.stageCmd n).ref = vget s.lpe.refs n := by
  rw [State.stageCmd_ref, if_pos (by simp [h])]

theorem State.stageCmd_ref_rest (h : s.stageMode n ≠ .run) : (s.stageCmd n).ref = 0 := by
  rw [State.stageCmd_ref, if_neg (by simpa using h)]

/-! ## What leaves -/

/-- The commands that leave: one on each lane on which the module sends, where the write check has passed. -/
def State.leaving : Vector (Option StageCmd) 26 :=
  Vector.ofFn fun n => if s.lpe.checkOk && s.stageSends n then some (s.stageCmd n) else none

/-- The counts of R502 with the commands that leave. -/
def State.tracked : State := (List.finRange 26).foldl (fun (t : State) (n : Fin 26) => t.trackUnder n (vget s.leaving n)) s

/-- The commands of a frame and its phase codes are held. -/
def State.holdSent (cmds : Vector (Option StageCmd) 26) (phases : Vector (Option Nat) 26) : State :=
  { s with link := { s.link with cmds := cmds }, zfb := { s.zfb with lastPhase := phases } }

/-- The commands have left: a lane on which nothing leaves keeps its last command. -/
def State.sentStages : State :=
  s.tracked.holdSent (Vector.ofFn fun n => (vget s.leaving n).or (vget s.tracked.link.cmds n)) (Vector.ofFn fun n => some (s.phaseOf n))

theorem State.trackUnder_within (c : Option StageCmd) : (s.trackUnder n c).within s [.zfb] := by
  unfold State.trackUnder
  extract_lets here rest acts old
  clear_value here rest acts
  exact s.within_zfb _

theorem State.tracked_within : s.tracked.within s [.zfb] :=
  .foldl (fun n t ht => (t.trackUnder_within n _).trans ht) (.rfl' s)

theorem State.holdSent_within (cmds : Vector (Option StageCmd) 26) (phases : Vector (Option Nat) 26) :
    (s.holdSent cmds phases).within s [.zfb, .link] := by
  intro p hp
  cases p
  case zfb => exact (hp (by decide)).elim
  case link => exact (hp (by decide)).elim
  all_goals rfl

theorem State.sentStages_within : s.sentStages.within s [.zfb, .link] :=
  (s.tracked.holdSent_within _ _).trans (s.tracked_within.mono (by decide))

theorem State.sendCeil_within (l : Fin 16) (f : CeilFrame) : (s.sendCeil l f).within s [.regs, .wgl] := by
  unfold State.sendCeil
  extract_lets old u
  have hu : u.within s [.regs, .wgl] := (s.within_wgl _).mono (by decide)
  clear_value u
  exact ((hu.put (by decide) _ _).setFlag (by decide) _ _).put (by decide) _ _

theorem State.sendUrgent_within : s.sendUrgent.within s [.regs, .wgl] :=
  .foldl (fun l t ht => .ite (fun _ => (t.sendCeil_within l _).trans ht) fun _ => ht) (.rfl' s)

theorem State.drivePgood_within : s.drivePgood.within s [.pins] := s.within_pins _

/-- May the module drive PGOOD (R159)? -/
def State.drivesPgood : Bool := (s.lks.claimant || (s.isStandby && s.lks.items == 0)) && !s.flt.safe && !s.pins.testMode

/-- The level of a zone's PGOOD that the registers hold (R159). -/
def State.pgoodLevel (z : Nat) : Bool := s.flag (Fd.WGL_PGOOD_level z) && !s.flag (Fd.WGL_PGOOD_keeper_trip z)

theorem State.pgood_drivePgood (z : Fin 4) : vget s.drivePgood.pins.pgood z = (s.drivesPgood && s.pgoodLevel z) := by
  unfold State.drivePgood
  exact (vget_ofFn _ z).trans (Bool.and_assoc ..)

/-- The drive of PGOOD rests on parts that the sending of the commands leaves alone. -/
theorem State.drivesPgood_congr {s t : State} {l : List Part} (h : t.within s l) (hl : l ⊆ [.time, .zfb, .link]) : t.drivesPgood = s.drivesPgood := by
  have lks : t.lks = s.lks := h .lks fun m => absurd (hl m) (by decide)
  have flt : t.flt = s.flt := h .flt fun m => absurd (hl m) (by decide)
  have pins : t.pins = s.pins := h .pins fun m => absurd (hl m) (by decide)
  unfold State.drivesPgood State.isStandby
  rw [lks, flt, pins]

theorem State.pgoodLevel_congr {s t : State} (h : t.regs = s.regs) (z : Nat) : t.pgoodLevel z = s.pgoodLevel z := by
  unfold State.pgoodLevel
  rw [State.flag_congr h, State.flag_congr h]

theorem State.cmds_sentStages (n : Fin 26) : vget s.sentStages.link.cmds n = (vget s.leaving n).or (vget s.link.cmds n) := by
  have link : s.tracked.link = s.link := s.tracked_within .link (by decide)
  unfold State.sentStages State.holdSent
  rw [link]
  exact vget_ofFn _ n

theorem State.cmds_sentStages_sends (n : Fin 26) (h : (s.lpe.checkOk && s.stageSends n) = true) :
    vget s.sentStages.link.cmds n = some (s.stageCmd n) := by
  rw [s.cmds_sentStages, State.leaving, vget_ofFn, if_pos h]
  rfl

theorem State.cmds_sentStages_keeps (n : Fin 26) (h : (s.lpe.checkOk && s.stageSends n) = false) :
    vget s.sentStages.link.cmds n = vget s.link.cmds n := by
  rw [s.cmds_sentStages, State.leaving, vget_ofFn, if_neg (by simp [h])]
  rfl

/-- The commands leave at cycle 640, PGOOD follows, and then the urgent ceiling frames (R51, R159, R342). -/
theorem execStageCommandsLeave_runs (run : s.pwr.stopped = false) (loops : s.loopRuns = true) :
    execStageCommandsLeave s = .next (s.atCycle 640).sentStages.drivePgood.sendUrgent := by
  unfold execStageCommandsLeave
  rw [if_neg (by simp [run, loops])]
  extract_lets u cs ph v old old' w
  have held : w = u.sentStages := by
    refine congrArg (v.holdSent · ph) (Vector.ext fun i hi => ?_)
    simp only [Vector.getElem_ofFn]
    show _ = (vget cs ⟨i, hi⟩).or (vget v.link.cmds ⟨i, hi⟩)
    cases vget cs ⟨i, hi⟩ <;> rfl
  rw [held]

end

theorem State.stageSends_atCycle (s : State) (c : Nat) (n : Fin 26) : (s.atCycle c).stageSends n = s.stageSends n := rfl
theorem State.stageMode_atCycle (s : State) (c : Nat) (n : Fin 26) : (s.atCycle c).stageMode n = s.stageMode n := rfl

/-- Settles O7: the commands are formed at cycle 640; the pins and the urgent frames that follow leave them as they are. -/
theorem stageCommandsLeave : Obligations.StageCommandsLeave := by
  intro s
  refine ⟨fun h => ?_, fun run loops => ⟨_, execStageCommandsLeave_runs s run loops, ?_⟩⟩
  · show execStageCommandsLeave s = .next s
    unfold execStageCommandsLeave
    rw [if_pos (by simpa using h)]
  generalize hu : s.atCycle 640 = u
  have atU : u.within s [.time] := hu ▸ s.atCycle_within 640
  have sent := u.sentStages_within
  have ends : u.sentStages.drivePgood.sendUrgent.within u.sentStages [.regs, .wgl, .pins] :=
    ((State.sendUrgent_within _).mono (by decide)).trans ((State.drivePgood_within _).mono (by decide))
  have link : u.sentStages.drivePgood.sendUrgent.link = u.sentStages.link := ends .link (by decide)
  have sends (n : Fin 26) : u.stageSends n = s.stageSends n := hu ▸ s.stageSends_atCycle 640 n
  have mode (n : Fin 26) : u.stageMode n = s.stageMode n := hu ▸ s.stageMode_atCycle 640 n
  have lpe : u.lpe = s.lpe := atU .lpe (by decide)
  refine ⟨fun n check may => ⟨u.stageCmd n, ?_, ?_, ?_, ?_, ?_, ?_, ?_⟩, fun n keeps => ?_, fun z => ?_, ?_⟩
  · rw [link, u.cmds_sentStages_sends n (by rw [lpe, sends, check, may]; rfl)]
  · rw [u.stageCmd_seq, ← hu, s.atCycle_frame]
  · rw [u.stageCmd_claim, ← hu, s.atCycle_pins]
  · rw [u.stageCmd_mode, mode]
  · rw [u.stageCmd_mode, ← lpe]
    exact u.stageCmd_ref_run n
  · rw [u.stageCmd_mode]
    exact u.stageCmd_ref_rest n
  · rw [u.stageCmd_ver, State.get_congr (atU .regs (by decide))]
  · rw [link, u.cmds_sentStages_keeps n (by rw [lpe, sends, keeps])]
    exact congrArg (fun x : LinkRt => vget x.cmds n) (atU .link (by decide))
  · have pins : u.sentStages.drivePgood.sendUrgent.pins = u.sentStages.drivePgood.pins := State.sendUrgent_within _ .pins (by decide)
    rw [pins, State.pgood_drivePgood, State.drivesPgood_congr sent (by decide), State.pgoodLevel_congr (sent .regs (by decide)),
      State.drivesPgood_congr atU (by decide), State.pgoodLevel_congr (atU .regs (by decide))]
    rfl
  · exact (ends.mono (by decide)).trans ((sent.mono (by decide)).trans (atU.mono (by decide)))

end Sys2Proof.Machine
end

section
/-! Chapter 02: alignment to SYNC_IN (R45 to R47). -/

namespace Sys2Proof.Machine

/-! ## The phase error of an edge -/

theorem foldErr_range (x : Int) : -500 ≤ foldErr x ∧ foldErr x < 500 := by
  unfold foldErr
  omega

theorem foldErr_congr (x : Int) : (foldErr x - x) % 1000 = 0 := by
  unfold foldErr
  omega

/-- Frames keep 1000 cycles within one cycle of the target, and take one less or more beyond (R46). -/
theorem lenFor_of_range (err : Int) : (err < -1 → lenFor err = 999) ∧ (1 < err → lenFor err = 1001) ∧ (-1 ≤ err → err ≤ 1 → lenFor err = 1000) := by
  unfold lenFor
  refine ⟨fun h => if_pos h, fun h => ?_, fun h h' => ?_⟩
  · rw [if_neg (by omega), if_pos h]
  · rw [if_neg (by omega), if_neg (by omega)]

theorem toBits_lt (n : Nat) (v : Int) : toBits n v < 2 ^ n := by
  have pos : (0 : Int) < (2 ^ n : Nat) := by exact_mod_cast Nat.two_pow_pos n
  have h := Int.emod_lt_of_pos v pos
  have h' := Int.emod_nonneg v pos.ne'
  unfold toBits
  omega

section
variable (s : State)

theorem execSyncInEdge_ignored (cyc : Nat) (h : s.follows = false ∨ (s.atCycle cyc).edgeFar = false) :
    execSyncInEdge cyc s = .next (s.atCycle cyc) := by
  have follows : (s.atCycle cyc).follows = s.follows := rfl
  unfold execSyncInEdge
  dsimp only
  rw [if_neg (by rcases h with h | h <;> simp [follows, h])]

theorem execSyncInEdge_accepted (cyc : Nat) (hf : s.follows = true) (he : (s.atCycle cyc).edgeFar = true) :
    execSyncInEdge cyc s = .next ((s.atCycle cyc).takeEdge (foldErr (cyc + s.get Fd.SNS_SYNC_OFFSET_offset : Nat))) := by
  have follows : (s.atCycle cyc).follows = s.follows := rfl
  unfold execSyncInEdge
  dsimp only
  rw [if_pos (by simp [follows, hf, he])]
  rfl

theorem State.takeEdge_time (err : Int) : (s.takeEdge err).time = { s.time with
    lastEdge := some s.now, edgeThisFrame := true
    goodEdges := if s.alignState == 1 && decide (err.natAbs ≤ 1) then s.time.goodEdges + 1 else 0
    nextLen := if s.alignState == 3 then s.time.nextLen else lenFor err } := rfl

theorem State.takeEdge_regsOff (err : Int) : (s.takeEdge err).regsOff (· ∈ [Reg.SNS_SYNC_STAT]) s := by
  have shown : (s.put Fd.SNS_SYNC_STAT_phase_err (toBits 16 err)).regsOff (· ∈ [Reg.SNS_SYNC_STAT]) s := (State.regsOff.rfl' s).put (by decide) _
  exact shown.upd rfl

theorem State.takeEdge_within (err : Int) : (s.takeEdge err).within s [.regs, .time] :=
  ((State.within_time _ _).mono (by decide)).trans ((State.within.rfl' s).put (by decide) _ _)

theorem State.get_takeEdge_phase (err : Int) : (s.takeEdge err).get Fd.SNS_SYNC_STAT_phase_err = toBits 16 err := by
  unfold State.takeEdge
  rw [State.get_mk, State.get_put_same _ _ _ (by decide)]
  exact Nat.mod_eq_of_lt (toBits_lt 16 err)

/-- An accepted edge, as the statement on alignment tells it. -/
theorem State.takeEdge_accepted (cyc : Nat) : ∃ err : Int, -500 ≤ err ∧ err < 500 ∧ (err - cyc - s.get Fd.SNS_SYNC_OFFSET_offset) % 1000 = 0 ∧
    err = foldErr (cyc + s.get Fd.SNS_SYNC_OFFSET_offset : Nat) := by
  refine ⟨_, (foldErr_range _).1, (foldErr_range _).2, ?_, rfl⟩
  have h := foldErr_congr (cyc + s.get Fd.SNS_SYNC_OFFSET_offset : Nat)
  push_cast at h ⊢
  omega

/-! ## The states of Table 02-4 -/

theorem State.get_put_small (f : Fld) (v : Nat) (h : f.lo + f.len ≤ 32) (hv : v < 2 ^ f.len) : (s.put f v).get f = v := by
  rw [s.get_put_same f v h, Nat.mod_eq_of_lt hv]

theorem execAlignmentLocked_state : ∃ t, execAlignmentLocked s = .next t ∧ t.withinRegs s [Reg.SNS_SYNC_STAT] ∧ t.within s [.regs] ∧
    t.alignState = (if s.alignState = 1 ∧ 64 ≤ s.time.goodEdges then 2 else s.alignState) := by
  refine ⟨_, rfl, ?_, ?_, ?_⟩
  · exact State.regsOff.withinRegs (.ite (fun _ => (State.regsOff.rfl' s).put (by decide) _) fun _ => .rfl' s)
  · exact .ite (fun _ => (State.within.rfl' s).put (by decide) _ _) fun _ => .rfl' s
  · by_cases h : s.alignState = 1 ∧ 64 ≤ s.time.goodEdges
    · rw [if_pos (by simpa using h), if_pos h]
      exact s.get_put_small _ _ (by decide) (by decide)
    · rw [if_neg (by simpa using h), if_neg h]

/-- A step ends the frame in progress at a frame start of the target, 901 to 1900 cycles after its own (R47). -/
theorem execAlignmentStep_steps {e : Nat} (he : s.time.lastEdge = some e) (h1 : s.alignState = 1) (h2 : s.flag Fd.SNS_SYNC_CTRL_step_allow = true)
    (h3 : s.anyUnder = false) : ∃ len : Nat, 901 ≤ len ∧ len ≤ 1900 ∧
      ((s.time.frameStart : Int) + len - e - s.get Fd.SNS_SYNC_OFFSET_offset) % 1000 = 0 ∧
      execAlignmentStep s = .next ({ s with time := { s.time with len := len, nextLen := 1000 } }.setFlag Fd.SNS_SYNC_STAT_stepped true) := by
  generalize hx : (e + s.get Fd.SNS_SYNC_OFFSET_offset - s.time.frameStart : Int) = x
  refine ⟨901 + ((x - 901) % 1000).toNat, by omega, by omega, by omega, ?_⟩
  unfold execAlignmentStep
  rw [he]
  dsimp only
  rw [if_pos (by simp [h1, h2, h3]), hx]

/-! ## HOLDOVER -/

/-- HOLDOVER is shown, before its Note is recorded (R47). -/
def State.holdoverShown : State :=
  let u := (s.put Fd.SNS_SYNC_STAT_state 3).setFlag Fd.SNS_SYNC_STAT_edge_missing true
  { u with time := { u.time with nextLen := 1000, edgeFrames := 0 } }

theorem execHoldoverEntry_enters (h : s.alignState = 1 ∨ s.alignState = 2) (h4 : 4 ≤ s.time.noEdgeFrames) :
    execHoldoverEntry s = .next (s.holdoverShown.record Blk.sns 0x10 0 0) := by
  have due : ((s.alignState == 1 || s.alignState == 2) && decide (4 ≤ s.time.noEdgeFrames)) = true := by simpa [h4] using h
  exact congrArg Host.Outcome.next (if_pos due)

/-- A Note that does not escalate changes the window of its block and Hamper's mark (R442). -/
theorem State.countFault_within (b : Fin 18) (info : Word) (cls addr master : Nat) : (s.countFault b info cls addr master).within s [.regs, .hmp] := by
  have captured : ((s.bump (Fd.FLT_STAT_count b)).capture b info addr master).within s [.regs, .hmp] :=
    ((RegOnly.capture (RegOnly.rfl' (s.bump (Fd.FLT_STAT_count b))) b info addr master).within.mono (by decide)).trans
      ((State.within.rfl' s).bump (by decide) _)
  unfold State.countFault
  generalize (s.bump (Fd.FLT_STAT_count b)).capture b info addr master = t at captured ⊢
  exact .ite (fun _ => (t.within_hmp _).mono (by decide) |>.trans captured) fun _ => captured

end

section
variable (s : State) (b : Fin 18) (code unit : Nat)

/-- A Note that does not escalate: what it counts, and what it leaves alone (R442, R445). -/
theorem State.record_note (h : escalatingNote b code = false) : (s.record b code 0 unit).regsOff (inWindow b) s ∧
    (s.record b code 0 unit).faultCounted s b ∧ (s.record b code 0 unit).within s [.regs, .hmp] := by
  unfold State.record
  rw [s.recordAt_note b code unit 0 0 0 h]
  exact ⟨s.countFault_regsOff _ _ _ _ _, s.get_countFault_count _ _ _ _ _, s.countFault_within _ _ _ _ _⟩

end

/-- The status of the alignment stands outside the fault windows. -/
theorem not_inWindow_syncStat (b : Fin 18) : ¬inWindow b Reg.SNS_SYNC_STAT := by
  have hb := b.isLt
  unfold inWindow Reg.SNS_SYNC_STAT
  omega

section
variable (s : State)

theorem State.holdoverShown_time : s.holdoverShown.time = { s.time with nextLen := 1000, edgeFrames := 0 } := by
  unfold State.holdoverShown
  simp only [State.setFlag_time, State.put_time]

theorem State.alignState_holdoverShown : s.holdoverShown.alignState = 3 := by
  unfold State.alignState State.holdoverShown
  rw [State.get_mk, State.get_setFlag_apart _ _ _ _ (by decide) (.inr (by decide))]
  exact s.get_put_small _ _ (by decide) (by decide)

theorem State.flag_holdoverShown_missing : s.holdoverShown.flag Fd.SNS_SYNC_STAT_edge_missing = true := by
  unfold State.holdoverShown
  rw [State.flag_mk]
  exact State.flag_setFlag_same _ _ _ (by decide) rfl

theorem State.holdoverShown_regsOff : s.holdoverShown.regsOff (· ∈ [Reg.SNS_SYNC_STAT]) s := by
  have shown : ((s.put Fd.SNS_SYNC_STAT_state 3).setFlag Fd.SNS_SYNC_STAT_edge_missing true).regsOff (· ∈ [Reg.SNS_SYNC_STAT]) s :=
    ((State.regsOff.rfl' s).put (by decide) _).setFlag (by decide) _
  exact shown.upd rfl

theorem State.holdoverShown_within : s.holdoverShown.within s [.regs, .time] := by
  have shown : ((s.put Fd.SNS_SYNC_STAT_state 3).setFlag Fd.SNS_SYNC_STAT_edge_missing true).within s [.regs, .time] :=
    ((State.within.rfl' s).put (by decide) _ _).setFlag (by decide) _ _
  exact ((State.within_time _ _).mono (by decide)).trans shown

/-- Without an edge in four frames the module enters HOLDOVER, and notes it (R47). -/
theorem State.holdover_entered : ∃ t, t = s.holdoverShown.record Blk.sns 0x10 0 0 ∧ t.alignState = 3 ∧
    t.flag Fd.SNS_SYNC_STAT_edge_missing = true ∧ t.time = { s.time with nextLen := 1000, edgeFrames := 0 } ∧ t.faultCounted s 8 ∧
    t.within s [.regs, .time, .hmp] := by
  obtain ⟨window, counted, parts⟩ := s.holdoverShown.record_note Blk.sns 0x10 0 (by decide)
  have stat : ¬inWindow Blk.sns Reg.SNS_SYNC_STAT := not_inWindow_syncStat _
  refine ⟨_, rfl, (window.get stat).trans s.alignState_holdoverShown, (window.flag stat).trans s.flag_holdoverShown_missing,
    (parts .time (by decide)).trans s.holdoverShown_time, ?_, (parts.mono (by decide)).trans (s.holdoverShown_within.mono (by decide))⟩
  have before : s.holdoverShown.get (Fd.FLT_STAT_count 8) = s.get (Fd.FLT_STAT_count 8) := s.holdoverShown_regsOff.get (by decide)
  exact counted.trans (by rw [show ((Blk.sns : Fin 18) : Nat) = 8 from rfl, before])

theorem execHoldoverExit_exits (h3 : s.alignState = 3) (h16 : 16 ≤ s.time.edgeFrames) :
    execHoldoverExit s = .next ({ s with time := { s.time with goodEdges := 0 } }.put Fd.SNS_SYNC_STAT_state 1) := by
  unfold execHoldoverExit
  rw [if_pos (by simp [h3, h16])]

end

/-- Settles O10: each clause is one case of the edge, the lock, the step and the two ends of HOLDOVER. -/
theorem alignmentFollowsEdges : Obligations.AlignmentFollowsEdges := by
  intro s
  refine ⟨fun cyc => ?_, execAlignmentLocked_state s, fun e he h1 h2 h3 => ?_, fun h h4 => ?_, fun h3 h16 => ?_⟩
  · by_cases accepted : s.follows = true ∧ (s.atCycle cyc).edgeFar = true
    · obtain ⟨hf, he⟩ := accepted
      obtain ⟨err, lo, hi, congr, herr⟩ := s.takeEdge_accepted cyc
      refine ⟨_, execSyncInEdge_accepted s cyc hf he, State.takeEdge_regsOff _ _, ?_, ?_, fun _ _ => ⟨err, lo, hi, congr, ?_⟩⟩
      · exact (State.takeEdge_within _ _).trans ((s.atCycle_within cyc).mono (by decide))
      · rw [hf, he]
        simp
      · rw [← herr, State.takeEdge_time, State.get_takeEdge_phase]
        obtain ⟨short, long, even⟩ := lenFor_of_range err
        have state : (s.atCycle cyc).alignState = s.alignState := rfl
        have near : err.natAbs ≤ 1 ↔ -1 ≤ err ∧ err ≤ 1 := by omega
        refine ⟨rfl, rfl, rfl, fun h => ?_, fun h => ?_, ?_⟩
        · simpa [state, h] using ⟨short, long, even⟩
        · simp [state, h]
        · simp [state, near]
    · have ignored : s.follows = false ∨ (s.atCycle cyc).edgeFar = false := by simpa [← Bool.not_eq_true, ← not_and_or] using accepted
      refine ⟨_, execSyncInEdge_ignored s cyc ignored, fun _ _ => rfl, (s.atCycle_within cyc).mono (by decide), fun _ => rfl, fun hf he => ?_⟩
      exact absurd ⟨hf, he⟩ accepted
  · obtain ⟨len, lo, hi, congr, done⟩ := execAlignmentStep_steps s he h1 h2 h3
    refine ⟨_, done, ?_⟩
    rw [State.setFlag_time]
    refine ⟨lo, hi, rfl, congr, State.flag_setFlag_same _ _ _ (by decide) rfl, ?_, ?_⟩
    · exact State.regsOff.withinRegs (State.regsOff.setFlag (.rfl' s) (by decide) _)
    · exact State.within.setFlag ((s.within_time _).mono (by decide)) (by decide) _ _
  · obtain ⟨t, rfl, entered⟩ := s.holdover_entered
    exact ⟨_, execHoldoverEntry_enters s h h4, entered⟩
  · refine ⟨_, execHoldoverExit_exits s h3 h16, ?_⟩
    refine ⟨State.get_put_small _ _ _ (by decide) (by decide), rfl, ?_, ?_⟩
    · exact State.regsOff.withinRegs (State.regsOff.put (.rfl' s) (by decide) _)
    · exact State.within.put ((s.within_time _).mono (by decide)) (by decide) _ _

end Sys2Proof.Machine
end

section
/-! Chapters 02 and 11: the writes that wait for the next frame, or go to the claimant (R59, R301). -/

namespace Sys2Proof.Machine

section
variable {s : State}

/-- Where the module is no standby, a write joins its queue with its slot's bit. -/
theorem State.enqueue_own (h : s.isStandby = false) (w : PairWrite) :
    s.enqueue w = { s with wq := s.wq ++ [{ w with slot := s.get Fd.LKS_STAT_slot_id % 2 }] } :=
  if_neg (by simp [h])

/-- A command that stamps a write is a request that waits. -/
theorem queuedAs_of_enqueue (h : s.isStandby = false) {c : Instr} {w : PairWrite} (e : exec c s = .next (s.enqueue w)) : queuedAs c w s :=
  e.trans (congrArg Host.Outcome.next (State.enqueue_own h w))

/-- A write of the manual's addresses is stamped as it is; those from `actBase` on are the model's own. -/
theorem execRegisterWrite_stamped {a : Nat} (h : a < actBase) (m v : Word) : exec (.registerWrite a m v) s = .next (s.enqueue (plainWrite a m v)) :=
  congrArg Host.Outcome.next (if_pos h)

end

section
variable {s : State}

/-- At a standby the pair's bits of a write join those that go to the claimant, where there are any. -/
def State.forwardBits (s : State) (w : PairWrite) : State :=
  if w.mask &&& pairMask w.addr = 0 then s
  else { s with lks := { s.lks with fwd := s.lks.fwd ++ [{ w with mask := w.mask &&& pairMask w.addr }] } }

/-- The module's own bits of a write wait here, where there are any. -/
def State.keepBits (s : State) (w : PairWrite) : State :=
  if w.mask &&& ~~~(pairMask w.addr) = 0 then s else { s with wq := s.wq ++ [{ w with mask := w.mask &&& ~~~(pairMask w.addr) }] }

theorem State.enqueue_standby (h : s.isStandby = true) (w : PairWrite) :
    s.enqueue w = (s.forwardBits { w with slot := s.get Fd.LKS_STAT_slot_id % 2 }).keepBits { w with slot := s.get Fd.LKS_STAT_slot_id % 2 } :=
  if_pos h

theorem State.forwardBits_within (w : PairWrite) : (s.forwardBits w).within s [.lks] := .ite (fun _ => .rfl' s) fun _ => s.within_lks _

theorem State.keepBits_within (w : PairWrite) : (s.keepBits w).within s [.wq] := by
  refine .ite (fun _ => .rfl' s) fun _ => ?_
  intro p hp
  cases p
  case wq => exact (hp (by decide)).elim
  all_goals rfl

/-- What a standby forwards and keeps of a write (R301). -/
theorem execRegisterWrite_standby (h : s.isStandby = true) {a : Nat} (ha : a < actBase) (m v : Word) :
    ∃ t, exec (.registerWrite a m v) s = .next t ∧ t.within s [.wq, .lks] ∧
      (m &&& pairMask a ≠ 0 → t.lks.fwd = s.lks.fwd ++ [{ plainWrite a (m &&& pairMask a) v with slot := s.get Fd.LKS_STAT_slot_id % 2 }]) ∧
      (m &&& pairMask a = 0 → t.lks = s.lks) ∧
      (m &&& ~~~(pairMask a) ≠ 0 → t.wq = s.wq ++ [{ plainWrite a (m &&& ~~~(pairMask a)) v with slot := s.get Fd.LKS_STAT_slot_id % 2 }]) ∧
      (m &&& ~~~(pairMask a) = 0 → t.wq = s.wq) := by
  generalize hw : ({ plainWrite a m v with slot := s.get Fd.LKS_STAT_slot_id % 2 } : PairWrite) = w
  have mask : w.mask = m := hw ▸ rfl
  have addr : w.addr = a := hw ▸ rfl
  have stamped : exec (.registerWrite a m v) s = .next ((s.forwardBits w).keepBits w) := by
    rw [execRegisterWrite_stamped ha, State.enqueue_standby h, hw]
  have kept := State.keepBits_within (s := s.forwardBits w) w
  have forwarded := State.forwardBits_within (s := s) w
  have lks : ((s.forwardBits w).keepBits w).lks = (s.forwardBits w).lks := kept .lks (by decide)
  have wq : (s.forwardBits w).wq = s.wq := forwarded .wq (by decide)
  refine ⟨_, stamped, (kept.mono (by decide)).trans (forwarded.mono (by decide)), fun some => ?_, fun none => ?_, fun some => ?_, fun none => ?_⟩
  · rw [lks, State.forwardBits, if_neg (by rwa [mask, addr]), ← hw]
    rfl
  · rw [lks, State.forwardBits, if_pos (by rwa [mask, addr])]
  · rw [State.keepBits, if_neg (by rwa [mask, addr]), ← hw]
    exact congrArg (· ++ _) (hw ▸ wq)
  · rw [State.keepBits, if_pos (by rwa [mask, addr]), wq]

end

/-- Settles O15: each of these commands stamps one write, and `State.enqueue` says where it goes. -/
theorem requestsWaitForTheNextFrame : Obligations.RequestsWaitForTheNextFrame := by
  intro s
  refine ⟨fun h => ?_, fun under => congrArg Host.Outcome.next (if_pos under), fun h a m v ha => execRegisterWrite_standby h ha m v⟩
  have q {c : Instr} {w : PairWrite} (e : exec c s = .next (s.enqueue w)) : queuedAs c w s := queuedAs_of_enqueue h e
  refine ⟨⟨q rfl, q rfl, q rfl, q rfl, q rfl, q rfl, q rfl, q rfl, q rfl, q rfl, q rfl, q rfl, q rfl, q rfl, q rfl, q rfl, q rfl⟩,
    fun _ => ⟨q rfl, q rfl, q rfl⟩, fun _ => ⟨q rfl, q rfl, q rfl⟩, fun _ => q rfl, fun _ _ => ⟨q rfl, q rfl⟩,
    fun _ => ⟨q rfl, fun _ => q rfl, fun _ => q rfl⟩, fun _ => q rfl, fun _ => q rfl, fun _ => ⟨q rfl, fun _ _ => q rfl⟩, fun _ _ => q rfl,
    fun _ _ => q rfl, fun _ _ => ⟨q rfl, fun _ _ => q rfl⟩, fun _ _ => q rfl, fun a m v ha => q (execRegisterWrite_stamped ha m v),
    fun rest => q (congrArg Host.Outcome.next (if_neg (by simp [rest]))),
    fun c beats runs => q (congrArg Host.Outcome.next (if_neg (by simp [beats, runs])))⟩

end Sys2Proof.Machine
end

section
/-! Chapters 02 and 06: the reception of a tray's uplink frame (R35, R164, R341, R344). -/

namespace Sys2Proof.Machine

section
variable (s : State) (l : Fin 16)

/-! ## One lane's part -/

theorem State.lane_fin : s.lane l = vget s.wgl.lanes l := dif_pos l.isLt

theorem State.setLane_fin (x : LaneRt) : s.setLane l x = { s with wgl := { s.wgl with lanes := vset s.wgl.lanes l x } } := dif_pos l.isLt

theorem State.setLane_within (x : LaneRt) : (s.setLane l x).within s [.wgl] := by
  rw [s.setLane_fin]
  exact s.within_wgl _

theorem State.lane_setLane_same (x : LaneRt) : (s.setLane l x).lane l = x := by
  rw [s.setLane_fin, State.lane_fin]
  exact vget_vset_same _ _ _

theorem State.lane_setLane_other (x : LaneRt) {i : Fin 16} (h : i ≠ l) : (s.setLane l x).lane i = s.lane i := by
  rw [s.setLane_fin, State.lane_fin, State.lane_fin]
  exact vget_vset_other _ _ h

/-- Equal Waggle parts hold equal lanes. -/
theorem State.lane_congr {t : State} (h : t.wgl = s.wgl) (i : Nat) : t.lane i = s.lane i := by
  unfold State.lane
  rw [h]

/-! ## Reception -/

/-- A valid frame of a declared lane with a version enters the inputs, or is one too many (R341, R344). -/
theorem State.receiveUp_valid (cyc : Nat) (ok : Bool) (want : UpType) (up : Uplink) (hd : s.laneDecl l = true)
    (hv : s.get (Fd.WGL_LANE_STAT_version l) ≠ 0) (valid : upValid s l ok want up = true) :
    s.receiveUp l cyc ok want up = if (s.lane l).upCount < 4 then (s.atCycle cyc).enterUp l up else (s.atCycle cyc).excessUp l want := by
  have decl : (s.atCycle cyc).laneDecl l = true := hd
  have version : (s.atCycle cyc).get (Fd.WGL_LANE_STAT_version l) ≠ 0 := hv
  have still : upValid (s.atCycle cyc) l ok want up = true := valid
  unfold State.receiveUp
  dsimp only
  rw [if_neg (by simp [decl, version]), if_neg (by simp [still])]
  rfl

/-- The instruction of each kind of frame is its reception. -/
theorem exec_uplinkCommand {cyc : Nat} {ok : Bool} {up : Uplink} {c : Instr × UpType} (h : c ∈ uplinkCommands l cyc ok up) :
    exec c.1 s = .next (s.receiveUp l cyc ok c.2 up) := by
  simp only [uplinkCommands, List.mem_cons, List.not_mem_nil, or_false] at h
  rcases h with rfl | rfl | rfl | rfl | rfl <;> rfl

/-- A frame that enters changes its lane's part and the next frame's inputs. -/
theorem State.enterUp_enters (up : Uplink) : (s.enterUp l up).within s [.inp, .wgl] ∧
    (s.enterUp l up).inp = { s.inp with nextWaggle := s.inp.nextWaggle ++ [{ lane := l, trx := s.now, up := up }] } ∧
    (s.enterUp l up).lane l = { s.lane l with heard := true, upCount := (s.lane l).upCount + 1 } ∧
    ∀ i : Fin 16, i ≠ l → (s.enterUp l up).lane i = s.lane i := by
  have heard : (s.enterUp l up).wgl = (s.hearUp l).wgl := rfl
  refine ⟨?_, rfl, ?_, fun i hi => ?_⟩
  · exact ((State.within_inp _ _).mono (by decide)).trans ((s.setLane_within l _).mono (by decide))
  · rw [State.lane_congr _ heard]
    exact s.lane_setLane_same l _
  · rw [State.lane_congr _ heard]
    exact s.lane_setLane_other l _ hi

/-- A STATUS frame beyond the lane's four is counted (R344). -/
theorem State.excessUp_status : (s.excessUp l .status).get (Fd.WGL_LINK_CNT_over_limit l) =
      (s.get (Fd.WGL_LINK_CNT_over_limit l) + 1) % 2 ^ (Fd.WGL_LINK_CNT_over_limit l).len ∧
    (s.excessUp l .status).regsOff (· ∈ [Reg.WGL_LINK_CNT l]) s ∧ (s.excessUp l .status).within s [.regs, .wgl] := by
  have counted : s.excessUp l .status = (s.hearUp l).bump (Fd.WGL_LINK_CNT_over_limit l) := by
    unfold State.excessUp
    exact if_pos rfl
  have heard : (s.hearUp l).within s [.wgl] := s.setLane_within l _
  have regs : (s.hearUp l).regs = s.regs := heard .regs (by decide)
  rw [counted]
  refine ⟨?_, ?_, (heard.mono (by decide)).bump (by decide) _⟩
  · rw [State.get_bump_same _ _ (by decide : 8 + 8 ≤ 32), State.get_congr regs]
  · have same : (s.hearUp l).regsOff (· ∈ [Reg.WGL_LINK_CNT l]) s := fun a _ => congrArg (Regs.get · a) regs
    exact same.bump (List.mem_singleton.2 rfl)

end

/-- Settles O19: the four markers and the STATUS frame are received alike. -/
theorem uplinkFrameEntersInputs : Obligations.UplinkFrameEntersInputs := by
  intro l cyc ok up s c hc hd hv valid
  have received := (exec_uplinkCommand s l hc).trans (congrArg Host.Outcome.next (s.receiveUp_valid l cyc ok c.2 up hd hv valid))
  refine ⟨fun few => ?_, fun many status => ?_⟩
  · rw [if_pos few] at received
    obtain ⟨parts, inp, lane, others⟩ := (s.atCycle cyc).enterUp_enters l up
    exact ⟨_, received, (parts.mono (by decide)).trans ((s.atCycle_within cyc).mono (by decide)), parts .time (by decide), inp, lane, others⟩
  · rw [if_neg (by omega), status] at received
    obtain ⟨counted, regs, parts⟩ := (s.atCycle cyc).excessUp_status l
    exact ⟨_, received, counted, parts .inp (by decide), regs, (parts.mono (by decide)).trans ((s.atCycle_within cyc).mono (by decide))⟩

end Sys2Proof.Machine
end

section
/-! Chapters 02 and 09: the replies of the cell chain (R35, R249, R250, R253, R254). -/

namespace Sys2Proof.Machine

section
variable (s : State) (r : Fin 3)

/-! ## Rings and nodes -/

@[simp] theorem State.ring_setRing_same (x : ChnStr) : (s.setRing r x).ring r = x := vget_vset_same _ _ _

theorem State.ring_setRing_other (x : ChnStr) {q : Fin 3} (h : q ≠ r) : (s.setRing r x).ring q = s.ring q := vget_vset_other _ _ h

theorem State.setRing_within (x : ChnStr) : (s.setRing r x).within s [.chn] := s.within_chn _

theorem State.setRing_regs (x : ChnStr) : (s.setRing r x).regs = s.regs := rfl

theorem State.regsOff.setRing {P : Nat → Prop} {t : State} (h : t.regsOff P s) (x : ChnStr) : (t.setRing r x).regsOff P s := .upd h rfl

@[simp] theorem State.node_setNode_same (i : Fin 14) (x : ChnNode) : (s.setNode r i x).node r i = x := by
  unfold State.node State.setNode
  simp

theorem State.ring_congr {t : State} (h : t.chn = s.chn) (q : Fin 3) : t.ring q = s.ring q := by
  unfold State.ring
  rw [h]

theorem State.ring_put (f : Fld) (v : Nat) (q : Fin 3) : (s.put f v).ring q = s.ring q := s.ring_congr (s.put_chn f v) q

/-! ## A good reply -/

/-- The transaction of a ring has ended, and its reply is an input of the next frame (R35). -/
def State.replyEntered (e : ChainEntry) : State := (s.setRing e.str { s.ring e.str with txn := none }).replyIn e

theorem State.replyEntered_ring (e : ChainEntry) : (s.replyEntered e).ring e.str = { s.ring e.str with txn := none } :=
  s.ring_setRing_same e.str _

/-- An enumeration of a ring is asked for (R250). -/
def State.askEnum : State := s.setRing r { s.ring r with enumDue := true }

end

section
variable (s : State) (r : Fin 3) (x : ChnTxn) (e : ChainEntry)

/-- A READ's answer after two failures says that the ring is broken (R253). -/
theorem State.replyTaken_broken (h : e.op = 0x20 ∧ x.attempt = 3) :
    s.replyTaken x e = ((s.replyEntered e).put (Fd.CHN_STR_STAT_ring e.str) 2).askEnum e.str := by
  unfold State.replyTaken
  exact if_pos (by simp [h])

/-- A STATUS through a ring that is not whole asks for an enumeration (R254). -/
theorem State.replyTaken_status (h : e.op = 0x50) (hr : s.ringState e.str ≠ 1) : s.replyTaken x e = (s.replyEntered e).askEnum e.str := by
  have still : (s.replyEntered e).ringState e.str ≠ 1 := hr
  have asks : (e.op == 0x50 && (s.replyEntered e).ringState e.str != 1) = true := by simpa [h] using still
  unfold State.replyTaken
  exact (if_neg (by simp [h])).trans (if_pos asks)

/-- Another reply ends its transaction, and no more. -/
theorem State.replyTaken_plain (h : ¬(e.op = 0x20 ∧ x.attempt = 3)) (h' : ¬(e.op = 0x50 ∧ s.ringState e.str ≠ 1)) :
    s.replyTaken x e = s.replyEntered e := by
  have still : ¬(e.op = 0x50 ∧ (s.replyEntered e).ringState e.str ≠ 1) := h'
  have asks : ¬(e.op == 0x50 && (s.replyEntered e).ringState e.str != 1) = true := by simpa using still
  unfold State.replyTaken
  exact (if_neg (by simpa using h)).trans (if_neg asks)

/-- What every good reply does. -/
structure State.TakesReply (t : State) : Prop where
  ended : (t.ring e.str).txn = none
  entered : t.inp = { s.inp with nextChain := s.inp.nextChain ++ [e] }
  regs : t.withinRegs s [Reg.CHN_STR_STAT e.str]

theorem State.replyEntered_takes : s.TakesReply e (s.replyEntered e) :=
  ⟨congrArg ChnStr.txn (s.replyEntered_ring e), rfl, fun _ _ => rfl⟩

theorem State.TakesReply.askEnum {s t : State} {e : ChainEntry} (h : s.TakesReply e t) : s.TakesReply e (t.askEnum e.str) :=
  ⟨(congrArg ChnStr.txn (t.ring_setRing_same e.str _)).trans h.ended, h.entered, h.regs⟩

theorem State.TakesReply.showRing {s t : State} {e : ChainEntry} (h : s.TakesReply e t) (v : Nat) :
    s.TakesReply e (t.put (Fd.CHN_STR_STAT_ring e.str) v) :=
  ⟨(congrArg ChnStr.txn (t.ring_put _ v _)).trans h.ended, (t.put_inp _ v).trans h.entered,
    State.regsOff.withinRegs (State.regsOff.put (P := (· ∈ [Reg.CHN_STR_STAT e.str])) h.regs (List.mem_singleton.2 rfl) v)⟩

theorem State.askEnum_enumDue : ((s.askEnum r).ring r).enumDue = true := congrArg ChnStr.enumDue (s.ring_setRing_same r _)

/-- A good reply, by its three kinds. -/
theorem State.replyTaken_takes : s.TakesReply e (s.replyTaken x e) ∧
    (e.op = 0x20 → x.attempt = 3 → (s.replyTaken x e).ringState e.str = 2 ∧ ((s.replyTaken x e).ring e.str).enumDue = true) ∧
    (e.op = 0x50 → s.ringState e.str ≠ 1 → ((s.replyTaken x e).ring e.str).enumDue = true) ∧
    (¬(e.op = 0x20 ∧ x.attempt = 3) → (s.replyTaken x e).regs = s.regs) := by
  have entered := s.replyEntered_takes e
  by_cases broken : e.op = 0x20 ∧ x.attempt = 3
  · rw [s.replyTaken_broken x e broken]
    refine ⟨(entered.showRing 2).askEnum, fun _ _ => ⟨?_, State.askEnum_enumDue _ _⟩, fun h => ?_, fun h => absurd broken h⟩
    · refine (State.get_congr (State.setRing_regs _ _ _) _).trans ?_
      exact State.get_put_small _ (Fd.CHN_STR_STAT_ring e.str) 2 (by decide : 28 + 4 ≤ 32) (by decide : 2 < 2 ^ 4)
    · exact absurd (h.symm.trans broken.1) (by decide)
  · by_cases status : e.op = 0x50 ∧ s.ringState e.str ≠ 1
    · rw [s.replyTaken_status x e status.1 status.2]
      exact ⟨entered.askEnum, fun h h' => absurd ⟨h, h'⟩ broken, fun _ _ => State.askEnum_enumDue _ _, fun _ => rfl⟩
    · rw [s.replyTaken_plain x e broken status]
      exact ⟨entered, fun h h' => absurd ⟨h, h'⟩ broken, fun h h' => absurd ⟨h, h'⟩ status, fun _ => rfl⟩

end

/-! ## A failed transaction -/

section
variable (s : State) (r : Fin 3)

/-- The counters of a failed transaction (R249). -/
theorem State.txnCounted_counts (crc : Bool) : (s.txnCounted r crc).get (Fd.CHN_STR_CNT_failed r) = (s.get (Fd.CHN_STR_CNT_failed r) + 1) % 256 ∧
    (s.txnCounted r crc).get (Fd.CHN_STR_CNT_crc_err r) =
      (if crc then (s.get (Fd.CHN_STR_CNT_crc_err r) + 1) % 65536 else s.get (Fd.CHN_STR_CNT_crc_err r)) := by
  have apart : (Fd.CHN_STR_CNT_crc_err r).apart (Fd.CHN_STR_CNT_failed r) := .inr (.inl (by decide : 8 + 8 ≤ 16))
  have apart' : (Fd.CHN_STR_CNT_failed r).apart (Fd.CHN_STR_CNT_crc_err r) := .inr (.inr (by decide : 8 + 8 ≤ 16))
  unfold State.txnCounted
  rw [State.get_bump_same _ _ (by decide : 8 + 8 ≤ 32), State.get_bump_apart _ _ _ (by decide : 8 + 8 ≤ 32) apart']
  cases crc with
  | true =>
    rw [if_pos rfl, if_pos rfl, State.get_bump_apart _ _ _ (by decide : 16 + 16 ≤ 32) apart, State.get_bump_same _ _ (by decide : 16 + 16 ≤ 32)]
    exact ⟨rfl, rfl⟩
  | false => exact ⟨rfl, rfl⟩

theorem State.txnCounted_regsOff (crc : Bool) : (s.txnCounted r crc).regsOff (· = Reg.CHN_STR_CNT r) s := by
  have counted : (if crc then s.bump (Fd.CHN_STR_CNT_crc_err r) else s).regsOff (· = Reg.CHN_STR_CNT r) s :=
    .ite (fun _ => State.regsOff.bump (.rfl' s) rfl) fun _ => .rfl' s
  exact counted.bump rfl

theorem State.txnCounted_chn (crc : Bool) : (s.txnCounted r crc).chn = s.chn := by
  unfold State.txnCounted
  rw [State.bump_chn]
  cases crc with
  | true => exact s.bump_chn _
  | false => rfl

/-- The note of a failed transaction is given once in a slow frame (Table 09-6). -/
theorem State.txnNoted_noted (h : (s.ring r).noted = true) : s.txnNoted r = s := if_pos h

theorem State.txnNoted_first (h : (s.ring r).noted = false) :
    s.txnNoted r = (s.setRing r { s.ring r with noted := true }).record Blk.chn 0x10 0 (0x700 + r) := if_neg (by simp [h])

/-- Of the cell chain the note marks its ring alone. -/
theorem State.txnNoted_chn : (s.txnNoted r).chn = (s.setRing r { s.ring r with noted := true }).chn := by
  cases h : (s.ring r).noted with
  | true =>
    have same : { s.ring r with noted := true } = s.ring r := by rw [← h]
    rw [s.txnNoted_noted r h, same]
    unfold State.setRing State.ring vset vget
    simp
  | false => rw [s.txnNoted_first r h, State.record_chn]

theorem State.txnNoted_regsOff : (s.txnNoted r).regsOff (inWindow 7) s := by
  cases h : (s.ring r).noted with
  | true => rw [s.txnNoted_noted r h]; exact .rfl' s
  | false =>
    rw [s.txnNoted_first r h]
    exact (State.record_note _ Blk.chn 0x10 _ (by decide)).1

theorem State.txnNoted_counted (h : (s.ring r).noted = false) : (s.txnNoted r).faultCounted s 7 := by
  rw [s.txnNoted_first r h]
  exact (State.record_note (s.setRing r { s.ring r with noted := true }) Blk.chn 0x10 _ (by decide)).2.1

/-- A transaction that starts holds its ring until the reply, and changes no other and no register (R252). -/
theorem State.transact_starts (i : Fin 14) (op attempt : Nat) (payload : List Nat) :
    ((s.transact r i op attempt payload).ring r).txn = some ⟨i + 1, op, (s.ring r).seq, attempt⟩ ∧
    ((s.transact r i op attempt payload).ring r).noted = (s.ring r).noted ∧
    (∀ q, q ≠ r → (s.transact r i op attempt payload).ring q = s.ring q) ∧
    (∀ q j, (s.transact r i op attempt payload).node q j = s.node q j) ∧ (s.transact r i op attempt payload).regs = s.regs := by
  unfold State.transact State.emit
  dsimp only
  split
  · refine ⟨?_, ?_, fun q h => s.ring_setRing_other r _ h, fun _ _ => rfl, rfl⟩ <;> rw [State.ring_setRing_same]
  · refine ⟨?_, ?_, fun q h => ?_, fun _ _ => rfl, rfl⟩
    · rw [State.ring_setRing_same, State.ring_setRing_same]
    · rw [State.ring_setRing_same, State.ring_setRing_same]
    · rw [State.ring_setRing_other _ _ _ h, State.ring_setRing_other _ _ _ h]

/-- The transaction of a ring has failed: it is counted and noted, and the ring waits for no reply. -/
def State.txnDropped (crc : Bool) : State :=
  ((s.txnCounted r crc).txnNoted r).setRing r { ((s.txnCounted r crc).txnNoted r).ring r with txn := none }

theorem State.txnDropped_ring (crc : Bool) : (s.txnDropped r crc).ring r = { s.ring r with noted := true, txn := none } := by
  unfold State.txnDropped
  rw [State.ring_setRing_same, State.ring_congr _ ((s.txnCounted r crc).txnNoted_chn r), State.ring_setRing_same,
    State.ring_congr _ (s.txnCounted_chn r crc)]

theorem State.txnDropped_ring_other (crc : Bool) {q : Fin 3} (h : q ≠ r) : (s.txnDropped r crc).ring q = s.ring q := by
  unfold State.txnDropped
  rw [State.ring_setRing_other _ _ _ h, State.ring_congr _ ((s.txnCounted r crc).txnNoted_chn r), State.ring_setRing_other _ _ _ h,
    State.ring_congr _ (s.txnCounted_chn r crc)]

/-- The counters and the fault window change, and with them no other register. -/
theorem State.txnDropped_regsOff (crc : Bool) : (s.txnDropped r crc).regsOff (fun a => a = Reg.CHN_STR_CNT r ∨ inWindow 7 a) s := by
  have noted := ((s.txnCounted r crc).txnNoted_regsOff r).mono (Q := fun a => a = Reg.CHN_STR_CNT r ∨ inWindow 7 a) fun _ => .inr
  exact noted.trans ((s.txnCounted_regsOff r crc).mono fun _ => .inl)

theorem not_inWindow_strCnt : ¬inWindow 7 (Reg.CHN_STR_CNT r) := by
  have hr := r.isLt
  unfold inWindow Reg.CHN_STR_CNT
  omega

theorem not_inWindow_strStat : ¬inWindow 7 (Reg.CHN_STR_STAT r) := by
  have hr := r.isLt
  unfold inWindow Reg.CHN_STR_STAT
  omega

theorem strStat_ne_strCnt : Reg.CHN_STR_STAT r ≠ Reg.CHN_STR_CNT r := by
  unfold Reg.CHN_STR_STAT Reg.CHN_STR_CNT
  omega

theorem fltStat_ne_strCnt : Reg.FLT_STAT 7 ≠ Reg.CHN_STR_CNT r := by
  have hr := r.isLt
  unfold Reg.FLT_STAT Reg.CHN_STR_CNT
  omega

theorem State.txnDropped_counts (crc : Bool) : (s.txnDropped r crc).get (Fd.CHN_STR_CNT_failed r) = (s.get (Fd.CHN_STR_CNT_failed r) + 1) % 256 ∧
    (s.txnDropped r crc).get (Fd.CHN_STR_CNT_crc_err r) =
      (if crc then (s.get (Fd.CHN_STR_CNT_crc_err r) + 1) % 65536 else s.get (Fd.CHN_STR_CNT_crc_err r)) := by
  obtain ⟨failed, crcErr⟩ := s.txnCounted_counts r crc
  have noted := (s.txnCounted r crc).txnNoted_regsOff r
  exact ⟨(noted.get (f := Fd.CHN_STR_CNT_failed r) (not_inWindow_strCnt r)).trans failed,
    (noted.get (f := Fd.CHN_STR_CNT_crc_err r) (not_inWindow_strCnt r)).trans crcErr⟩

theorem State.txnDropped_noted (crc : Bool) (h : (s.ring r).noted = false) : (s.txnDropped r crc).faultCounted s 7 := by
  have still : ((s.txnCounted r crc).ring r).noted = false := by rw [State.ring_congr _ (s.txnCounted_chn r crc), h]
  have counted := (s.txnCounted r crc).txnNoted_counted r still
  have before : (s.txnCounted r crc).get (Fd.FLT_STAT_count 7) = s.get (Fd.FLT_STAT_count 7) :=
    (s.txnCounted_regsOff r crc).get (f := Fd.FLT_STAT_count 7) (fltStat_ne_strCnt r)
  unfold State.faultCounted at counted ⊢
  rw [← before]
  exact counted

theorem State.txnDropped_ringState (crc : Bool) : (s.txnDropped r crc).ringState r = s.ringState r :=
  (s.txnDropped_regsOff r crc).get (f := Fd.CHN_STR_STAT_ring r) fun h => h.elim (strStat_ne_strCnt r) (not_inWindow_strStat r)

/-- A READ that fails keeps its place for the retry slot, and goes out once more where it has failed twice in a whole ring (R253, R255). -/
def State.readFailed (i : Fin 14) (attempt : Nat) : State :=
  let u := s.setNode r i { s.node r i with failed := true }
  if attempt = 2 ∧ u.ringState r = 1 then u.transact r i 0x20 3 [] else u

theorem State.txnFail_read (x : ChnTxn) (crc : Bool) (i : Fin 14) (hop : x.op = 0x20) (hn : x.node = i.val + 1) :
    s.txnFail r x crc = (s.txnDropped r crc).readFailed r i x.attempt := by
  have range : x.op = 0x20 ∧ 1 ≤ x.node ∧ x.node ≤ 14 := ⟨hop, by omega, by omega⟩
  have place : (⟨x.node - 1, by omega⟩ : Fin 14) = i := Fin.ext (by simp [hn])
  unfold State.txnFail
  refine (dif_pos range).trans ?_
  rw [place]
  rfl

theorem State.txnFail_other (x : ChnTxn) (crc : Bool) (h : ¬(x.op = 0x20 ∧ 1 ≤ x.node ∧ x.node ≤ 14)) : s.txnFail r x crc = s.txnDropped r crc :=
  dif_neg h

/-- What the second part of a failure leaves of the first: rings but for the transaction, and every register. -/
structure State.KeepsFailure (u t : State) : Prop where
  noted : (t.ring r).noted = (u.ring r).noted
  others : ∀ q, q ≠ r → t.ring q = u.ring q
  regs : t.regs = u.regs

theorem State.readFailed_keeps (i : Fin 14) (attempt : Nat) : State.KeepsFailure r s (s.readFailed r i attempt) := by
  unfold State.readFailed
  dsimp only
  split
  · obtain ⟨-, noted, others, -, regs⟩ := (s.setNode r i { s.node r i with failed := true }).transact_starts r i 0x20 3 []
    exact ⟨noted, others, regs⟩
  · exact ⟨rfl, fun _ _ => rfl, rfl⟩

theorem State.readFailed_fails (i : Fin 14) (attempt : Nat) (idle : (s.ring r).txn = none) : ((s.readFailed r i attempt).node r i).failed = true ∧
    ((s.readFailed r i attempt).ring r).txn =
      (if attempt = 2 ∧ s.ringState r = 1 then some ⟨i.val + 1, 0x20, (s.ring r).seq, 3⟩ else none) := by
  have still : (s.setNode r i { s.node r i with failed := true }).ringState r = s.ringState r := rfl
  unfold State.readFailed
  dsimp only
  rw [still]
  split
  · obtain ⟨txn, -, -, nodes, -⟩ := (s.setNode r i { s.node r i with failed := true }).transact_starts r i 0x20 3 []
    rw [nodes, State.node_setNode_same]
    exact ⟨rfl, txn⟩
  · rw [State.node_setNode_same]
    exact ⟨rfl, idle⟩

theorem State.txnFail_keeps (x : ChnTxn) (crc : Bool) : State.KeepsFailure r (s.txnDropped r crc) (s.txnFail r x crc) := by
  by_cases h : x.op = 0x20 ∧ 1 ≤ x.node ∧ x.node ≤ 14
  · rw [s.txnFail_read r x crc ⟨x.node - 1, by omega⟩ h.1 (by simp only; omega)]
    exact (s.txnDropped r crc).readFailed_keeps r _ _
  · rw [s.txnFail_other r x crc h]
    exact ⟨rfl, fun _ _ => rfl, rfl⟩

/-- A transaction that fails, whatever it was (R249, R253). -/
theorem State.txnFail_failed (x : ChnTxn) (crc : Bool) : (s.txnFail r x crc).txnFailed s r x crc := by
  obtain ⟨noted, others, regs⟩ := s.txnFail_keeps r x crc
  obtain ⟨failed, crcErr⟩ := s.txnDropped_counts r crc
  have ring := s.txnDropped_ring r crc
  refine ⟨?_, ?_, ?_, fun h => ?_, fun i hop hn => ?_, fun hop => ?_, fun q hq => ?_, (TxnK.txnFail (TxnK.rfl' s) r x crc).within⟩
  · rw [State.get_congr regs, failed]
  · rw [State.get_congr regs, crcErr]
  · rw [noted, ring]
  · exact (State.get_congr regs _).trans (s.txnDropped_noted r crc h)
  · have idle : ((s.txnDropped r crc).ring r).txn = none := by rw [ring]
    obtain ⟨node, txn⟩ := (s.txnDropped r crc).readFailed_fails r i x.attempt idle
    rw [s.txnFail_read r x crc i hop hn]
    refine ⟨node, txn.trans ?_⟩
    rw [s.txnDropped_ringState, ring, hn]
  · rw [s.txnFail_other r x crc fun h => hop h.1, ring]
  · rw [others q hq, s.txnDropped_ring_other r crc hq]

/-! ## An enumeration -/

/-- An enumeration's result waits for the next sweep (R250). -/
theorem execEnumeration_waits (found : ChnEnum) (hd : s.strDecl r = true) (he : (s.ring r).enumDue = true) (hh : s.housekeeping r = true) :
    execEnumeration r found s =
      .next ((s.put (Fd.CHN_STR_STAT_ring r) 4).setRing r { s.ring r with enumDue := false, enumDone := some found, txn := none }) := by
  have due : (s.strDecl r && (s.ring r).enumDue && s.housekeeping r) = true := by simp [hd, he, hh]
  exact congrArg Host.Outcome.next (if_pos due)

end

/-- Settles O32: a reply is taken or fails its transaction, and a timeout fails it. -/
theorem repliesEndOrFailTransactions : Obligations.RepliesEndOrFailTransactions := by
  intro r s
  refine ⟨fun none => ⟨fun ok pos seq op st p => ?_, ?_⟩, fun x hx =>
    ⟨fun ok pos seq op st p answers => ?_, fun ok pos seq op st p fails => ?_, ?_⟩,
    fun found hd he hh => ⟨_, execEnumeration_waits s r found hd he hh, ?_, ?_, fun q hq => ?_, ?_, ?_⟩⟩
  · show execChainReply r ok pos seq op st p s = .next s
    unfold execChainReply
    rw [none]
  · show execChainTxnTimeout r s = .next s
    unfold execChainTxnTimeout
    rw [none]
  · have taken : execChainReply r ok pos seq op st p s = .next (s.replyTaken x ⟨r, pos, op, st, p⟩) := by
      unfold execChainReply
      rw [hx]
      exact congrArg Host.Outcome.next (if_pos answers)
    obtain ⟨⟨ended, entered, regs⟩, broken, status, plain⟩ := s.replyTaken_takes x ⟨r, pos, op, st, p⟩
    exact ⟨_, taken, ended, entered, broken, status, fun h => congrArg (Regs.get · _) (plain h), regs,
      (ReplyK.replyTaken (ReplyK.rfl' s) x ⟨r, pos, op, st, p⟩).within⟩
  · have failed : execChainReply r ok pos seq op st p s = .next (s.txnFail r x (!ok)) := by
      unfold execChainReply
      rw [hx]
      exact congrArg Host.Outcome.next (if_neg (by simp [fails]))
    exact ⟨_, failed, s.txnFail_failed r x (!ok)⟩
  · have failed : execChainTxnTimeout r s = .next (s.txnFail r x false) := by
      unfold execChainTxnTimeout
      rw [hx]
    exact ⟨_, failed, s.txnFail_failed r x false⟩
  · exact (State.get_congr (State.setRing_regs _ _ _) _).trans
      (s.get_put_small (Fd.CHN_STR_STAT_ring r) 4 (by decide : 28 + 4 ≤ 32) (by decide : 4 < 2 ^ 4))
  · exact State.ring_setRing_same _ _ _
  · rw [State.ring_setRing_other _ _ _ hq, State.ring_put]
  · exact State.regsOff.setRing s r
      (State.regsOff.put (f := Fd.CHN_STR_STAT_ring r) (P := (· ∈ [Reg.CHN_STR_STAT r])) (.rfl' s) (List.mem_singleton.2 rfl) 4) _
  · exact ((State.setRing_within _ _ _).mono (by decide)).trans (State.within.put (.rfl' s) (by decide) _ _)

end Sys2Proof.Machine
end

section
/-! SUPPORT for chapters 11, 12 and 16: faults that raise a pending bit and bring no Halt (R440 to R445). -/

namespace Sys2Proof.Machine

/-! ## The pending bits -/

section
variable (s : State) (b : Fin 18) (own : Bool) (cls unit : Nat)

theorem State.setPending_regsOff : (s.setPending b own cls unit).regsOff (· ∈ [Reg.FLT_STAT b]) s := by
  unfold State.setPending
  cases own with
  | true => exact ((State.regsOff.rfl' s).put (f := Fd.FLT_STAT_own_pend b) (List.mem_singleton.2 rfl) _).upd rfl
  | false => exact ((State.regsOff.rfl' s).put (f := Fd.FLT_STAT_pair_pend b) (List.mem_singleton.2 rfl) _).upd rfl

theorem State.setPending_within : (s.setPending b own cls unit).within s [.regs, .flt] := by
  unfold State.setPending
  exact ((State.within_flt _ _).mono (by decide)).trans (State.within.put (.rfl' s) (by decide) _ _)

theorem State.get_setPending_count : (s.setPending b own cls unit).get (Fd.FLT_STAT_count b) = s.get (Fd.FLT_STAT_count b) := by
  unfold State.setPending
  rw [State.get_mk]
  cases own with
  | true => exact s.get_put_apart (Fd.FLT_STAT_own_pend b) _ _ (by decide : 8 + 3 ≤ 32) (.inr (.inr (by decide : 8 + 3 ≤ 16)))
  | false => exact s.get_put_apart (Fd.FLT_STAT_pair_pend b) _ _ (by decide : 0 + 3 ≤ 32) (.inr (.inr (by decide : 0 + 3 ≤ 16)))

/-- The bit of the fault's class is set beside those that stand. -/
theorem State.get_setPending_own (h : cls < 3) :
    (s.setPending b true cls unit).get (Fd.FLT_STAT_own_pend b) = s.get (Fd.FLT_STAT_own_pend b) ||| 2 ^ cls := by
  have bit : 2 ^ cls < 2 ^ 3 := Nat.pow_lt_pow_right (by decide) h
  unfold State.setPending
  rw [State.get_mk]
  exact s.get_put_small (Fd.FLT_STAT_own_pend b) _ (by decide : 8 + 3 ≤ 32) (Nat.or_lt_two_pow (s.get_lt (Fd.FLT_STAT_own_pend b)) bit)

end

/-! ## The record -/

/-- A fault keeps its class or rises by one (R445). -/
theorem escalate_cases (rem : List RemUnit) (b : Fin 18) (own : Bool) (code cls unit : Nat) :
    escalate rem b own code cls unit = cls ∨ escalate rem b own code cls unit = cls + 1 := by
  unfold escalate
  dsimp only
  split
  · exact .inr rfl
  · exact .inl rfl

section
variable {s : State} {b : Fin 18} {code cls cls' unit access addr master : Nat} {own : Bool}

/-- A fault recorded with a class below Halt is counted and captured, and its pending bit is set; `hf`: an escalation fences nothing (R445). -/
theorem State.recordAt_pending (ho : isOwnFault b code = own) (he : escalate (vget s.flt.rem b) b own code cls unit = cls') (h0 : cls' ≠ 0)
    (h3 : cls' ≠ 3) (hf : cls' ≠ cls → ∀ t : State, t.fenceUnit unit = t) : s.recordAt b code cls unit access addr master =
      (s.countFault b (faultInfo code cls' (decide (cls' ≠ cls)) own access unit) cls' addr master).setPending b own cls' unit := by
  unfold State.recordAt
  simp only [ho, he]
  simp only [if_neg h3, decide_eq_false h0, Bool.false_and, Bool.false_eq_true, if_false]
  by_cases esc : cls' = cls
  · simp [esc]
  · simp [hf esc]

/-- What such a fault changes. -/
theorem State.recordAt_pending_frame (he : s.recordAt b code cls unit access addr master =
      (s.countFault b (faultInfo code cls' (decide (cls' ≠ cls)) own access unit) cls' addr master).setPending b own cls' unit) :
    (s.recordAt b code cls unit access addr master).regsOff (inWindow b) s ∧
      (s.recordAt b code cls unit access addr master).faultCounted s b ∧
      (s.recordAt b code cls unit access addr master).within s [.regs, .hmp, .flt] := by
  rw [he]
  generalize hi : faultInfo code cls' (decide (cls' ≠ cls)) own access unit = info
  refine ⟨?_, ?_, ?_⟩
  · exact (((State.setPending_regsOff _ b own cls' unit).mono fun a ha => List.mem_singleton.1 ha ▸ inWindow_fltStat b)).trans
      (s.countFault_regsOff b info cls' addr master)
  · exact (State.get_setPending_count _ b own cls' unit).trans (s.get_countFault_count b info cls' addr master)
  · exact ((State.setPending_within _ b own cls' unit).mono (by decide)).trans ((s.countFault_within b info cls' addr master).mono (by decide))

/-- The pending bits of an own fault after its record. -/
theorem State.get_recordAt_own (he : s.recordAt b code cls unit access addr master =
      (s.countFault b (faultInfo code cls' (decide (cls' ≠ cls)) true access unit) cls' addr master).setPending b true cls' unit) (h : cls' < 3) :
    (s.recordAt b code cls unit access addr master).get (Fd.FLT_STAT_own_pend b) = s.get (Fd.FLT_STAT_own_pend b) ||| 2 ^ cls' := by
  rw [he, State.get_setPending_own _ b cls' unit h,
    s.get_countFault_apart b _ cls' addr master (Fd.FLT_STAT_own_pend b) rfl (.inr (.inl (by decide : 8 + 3 ≤ 16)))]

end

end Sys2Proof.Machine
end

section
/-! Chapters 02 and 11: the start, the pair wait, joining, and the claim history (R41, R304, R311, R323 to R325, R327). -/

namespace Sys2Proof.Machine

/-! ## The words of a canonical list -/

section
variable {l : Regs} {a : Nat}

theorem Regs.find_of_not_listed (h : ∀ e ∈ l, e.1 ≠ a) : l.find a = none := by
  induction l with
  | nil => rfl
  | cons e l ih =>
    obtain ⟨b, w⟩ := e
    have hb : ¬a = b := fun e => h (b, w) List.mem_cons_self e.symm
    simp only [Regs.find, if_neg hb]
    exact ih fun e he => h e (List.mem_cons_of_mem _ he)

theorem Regs.get_of_not_listed (h : ∀ e ∈ l, e.1 ≠ a) : l.get a = resetWord a := by
  unfold Regs.get
  rw [Regs.find_of_not_listed h]

/-- In a canonical list an entry's word is the word of its address. -/
theorem Regs.get_of_mem {w : Word} (hl : l.wf = true) (h : (a, w) ∈ l) : l.get a = w := by
  have sorted := ((Regs.wf_iff l).1 hl).1
  clear hl
  unfold Regs.get
  suffices listed : l.find a = some w by rw [listed]
  induction l with
  | nil => cases h
  | cons e l ih =>
    obtain ⟨b, v⟩ := e
    obtain ⟨head, tail⟩ := List.pairwise_cons.1 sorted
    rcases List.mem_cons.1 h with same | h
    · obtain ⟨rfl, rfl⟩ := Prod.mk.inj same
      simp [Regs.find]
    · have lt : b < a := head _ h
      simp only [Regs.find, if_neg (by omega : ¬a = b)]
      exact ih h tail

end

/-! ## The registers of an image -/

section
variable (s : State) (f : Nat → Bool) (l : Regs)

/-- After stores that agree on a register, it holds their word: where it held it before, or is among those stored. -/
theorem State.rd_stores {α : Type} (k : α → Nat) (g : α → Word) (l : List α) {a : Nat} {w : Word} (hg : ∀ e ∈ l, k e = a → g e = w)
    (h : s.rd a = w ∨ ∃ e ∈ l, k e = a) : (l.foldl (fun (s : State) e => s.wr (k e) (g e)) s).rd a = w := by
  induction l generalizing s with
  | nil => simpa using h
  | cons e l ih =>
    refine ih (s.wr (k e) (g e)) (fun x hx => hg x (List.mem_cons_of_mem _ hx)) ?_
    by_cases he : k e = a
    · exact .inl (by rw [← he, State.rd_wr_same]; exact hg e List.mem_cons_self he)
    · refine h.imp (fun held => (s.rd_wr_other _ _ _ fun h => he h.symm).trans held) fun ⟨x, hx, hxa⟩ => ⟨x, ?_, hxa⟩
      exact (List.mem_cons.1 hx).resolve_left fun same => he (same ▸ hxa)

theorem State.stores_regsOff {P : Nat → Prop} {g : Nat × Word → Word} (h : ∀ e ∈ l, P e.1) :
    (l.foldl (fun (s : State) e => s.wr e.1 (g e)) s).regsOff P s :=
  State.regsOff.foldl (fun e he _ hu => hu.wr (h e he) _) (.rfl' s)

theorem State.stores_within {g : Nat × Word → Word} : (l.foldl (fun (s : State) e => s.wr e.1 (g e)) s).within s [.regs] :=
  State.within.foldl (fun _ _ hu => hu.wr (by decide) _ _) (.rfl' s)

theorem State.loadRegs_regsOff : (s.loadRegs f l).regsOff (f · = true) s :=
  (State.stores_regsOff _ _ fun _ he => (List.mem_filter.1 he).2).trans (State.stores_regsOff _ _ fun _ he => (List.mem_filter.1 he).2)

theorem State.loadRegs_within : (s.loadRegs f l).within s [.regs] := (State.stores_within _ _).trans (State.stores_within _ _)

/-- A register that is loaded reads as the image has it (R311). -/
theorem State.rd_loadRegs (hl : l.wf = true) {a : Nat} (ha : f a = true) : (s.loadRegs f l).rd a = l.get a := by
  unfold State.loadRegs
  have cleared : ((s.regs.filter fun e => f e.1).foldl (fun (s : State) e => s.wr e.1 (resetWord e.1)) s).rd a = resetWord a := by
    refine s.rd_stores Prod.fst (fun e => resetWord e.1) _ (fun e _ he => congrArg resetWord he) ?_
    by_cases listed : ∃ e ∈ s.regs, e.1 = a
    · obtain ⟨e, he, rfl⟩ := listed
      exact .inr ⟨e, List.mem_filter.2 ⟨he, ha⟩, rfl⟩
    · exact .inl (Regs.get_of_not_listed fun e he h => listed ⟨e, he, h⟩)
  refine State.rd_stores _ Prod.fst Prod.snd _ (fun e he h => ?_) ?_
  · subst h
    exact (Regs.get_of_mem hl (List.mem_filter.1 he).1).symm
  · by_cases listed : ∃ e ∈ l, e.1 = a
    · obtain ⟨e, he, rfl⟩ := listed
      exact .inr ⟨e, List.mem_filter.2 ⟨he, ha⟩, rfl⟩
    · exact .inl (cleared.trans (Regs.get_of_not_listed fun e he h => listed ⟨e, he, h⟩).symm)

theorem pairReg_of_dynReg {a : Nat} (h : dynReg a = true) : pairReg a = true := by
  unfold dynReg at h
  exact (Bool.and_eq_true_iff.1 h).1

end

/-! ## The two images -/

section
variable (s : State) (i : PairImage)

theorem State.dynParts_within : (s.dynParts i).within s [.lpe, .prf, .zfb, .wgl] := by
  intro p hp
  cases p
  case lpe | prf | zfb | wgl => exact (hp (by decide)).elim
  all_goals rfl

theorem State.statParts_within : (s.statParts i).within s [.chn, .flt, .est] := by
  intro p hp
  cases p
  case chn | flt | est => exact (hp (by decide)).elim
  all_goals rfl

/-- Both images are loaded, the static one first. -/
def State.loadImages : State := (s.loadStatic i).loadDynamic i

theorem State.loadStatic_within : (s.loadStatic i).within ((s.dynParts i).statParts i) [.regs] := State.loadRegs_within _ _ _

theorem State.loadDynamic_within : (s.loadDynamic i).within (s.dynParts i) [.regs] := State.loadRegs_within _ _ _

theorem State.loadImages_within : (s.loadImages i).within s [.regs, .lpe, .prf, .zfb, .wgl, .chn, .flt, .est] := by
  have stat : (s.loadStatic i).within s [.regs, .lpe, .prf, .zfb, .wgl, .chn, .flt, .est] := ((s.loadStatic_within i).mono (by decide)).trans
    ((((s.dynParts i).statParts_within i).mono (by decide)).trans ((s.dynParts_within i).mono (by decide)))
  exact (((s.loadStatic i).loadDynamic_within i).mono (by decide)).trans ((((s.loadStatic i).dynParts_within i).mono (by decide)).trans stat)

theorem State.loadImages_regsOff : (s.loadImages i).regsOff (pairReg · = true) s := by
  have stat : (s.loadStatic i).regsOff (pairReg · = true) s := ((s.dynParts i).statParts i).loadRegs_regsOff pairReg i.regs
  exact ((((s.loadStatic i).dynParts i).loadRegs_regsOff dynReg i.regs).mono fun _ => pairReg_of_dynReg).trans stat

/-- Every pair register reads as the image has it. -/
theorem State.rd_loadImages (hl : i.regs.wf = true) {a : Nat} (ha : pairReg a = true) : (s.loadImages i).rd a = i.regs.get a := by
  by_cases dyn : dynReg a = true
  · exact ((s.loadStatic i).dynParts i).rd_loadRegs dynReg i.regs hl dyn
  · have kept := ((s.loadStatic i).dynParts i).loadRegs_regsOff dynReg i.regs a dyn
    exact kept.trans (((s.dynParts i).statParts i).rd_loadRegs pairReg i.regs hl ha)

/-- What the pair blocks hold beside their registers is the image's (R311). -/
theorem State.loadImages_parts : (s.loadImages i).lpe = { s.lpe with loops := i.loops } ∧ (s.loadImages i).prf = i.prf ∧
    (s.loadImages i).zfb = i.zfb ∧ (s.loadImages i).wgl = i.wgl ∧ (s.loadImages i).chn = i.chn ∧
    (s.loadImages i).est = { i.est with slots := s.est.slots, failed := s.est.failed, storeDue := s.est.storeDue } := by
  have dyn := (s.loadStatic i).loadDynamic_within i
  have stat := s.loadStatic_within i
  have lpe : (s.loadStatic i).lpe = { s.lpe with loops := i.loops } := stat .lpe (by decide)
  refine ⟨(dyn .lpe (by decide)).trans ?_, dyn .prf (by decide), dyn .zfb (by decide), dyn .wgl (by decide),
    (dyn .chn (by decide)).trans (stat .chn (by decide)), (dyn .est (by decide)).trans (stat .est (by decide))⟩
  exact congrArg (fun x : LpeRt => { x with loops := i.loops }) lpe

end

/-! ## SINGLE -/

section
variable (s : State)

theorem State.clearSingle_regsOff : s.clearSingle.regsOff (· ∈ [Reg.LKS_STAT, Reg.FLT_STAT 13]) s := by
  have off : (s.setFlag Fd.LKS_STAT_single false).regsOff (· ∈ [Reg.LKS_STAT, Reg.FLT_STAT 13]) s := .setFlag (.rfl' s) (by decide) _
  unfold State.clearSingle
  generalize s.setFlag Fd.LKS_STAT_single false = t at off ⊢
  exact .ite (fun _ => .rfl' s) fun _ => .ite (fun _ => off.upd rfl) fun _ => .put (off.upd rfl) (by decide) _

theorem State.clearSingle_within : s.clearSingle.within s [.regs, .flt] := by
  have off : (s.setFlag Fd.LKS_STAT_single false).within s [.regs, .flt] := .setFlag (.rfl' s) (by decide) _ _
  unfold State.clearSingle
  generalize s.setFlag Fd.LKS_STAT_single false = t at off ⊢
  have forgot (x : FltRt) : ({ t with flt := x } : State).within s [.regs, .flt] := ((t.within_flt x).mono (by decide)).trans off
  exact .ite (fun _ => .rfl' s) fun _ => .ite (fun _ => forgot _) fun _ => .put (forgot _) (by decide) _ _

/-- Of LKS_STAT the clearing takes SINGLE away, and no more (R323). -/
theorem State.clearSingle_stat : s.clearSingle.flag Fd.LKS_STAT_single = false ∧
    s.clearSingle.flag Fd.LKS_STAT_synced = s.flag Fd.LKS_STAT_synced := by
  cases h : s.flag Fd.LKS_STAT_single with
  | false =>
    have same : s.clearSingle = s := if_pos (by simp [h])
    rw [same]
    exact ⟨h, rfl⟩
  | true =>
    have single : (s.setFlag Fd.LKS_STAT_single false).flag Fd.LKS_STAT_single = false := s.flag_setFlag_same _ _ (by decide) rfl
    have synced : (s.setFlag Fd.LKS_STAT_single false).flag Fd.LKS_STAT_synced = s.flag Fd.LKS_STAT_synced :=
      s.flag_setFlag_apart _ _ _ (by decide) (.inr (by decide))
    have off : s.clearSingle.regsOff (· ∈ [Reg.FLT_STAT 13]) (s.setFlag Fd.LKS_STAT_single false) := by
      unfold State.clearSingle
      rw [if_neg (by simp [h])]
      generalize s.setFlag Fd.LKS_STAT_single false = t
      exact .ite (fun _ => .upd (.rfl' t) rfl) fun _ => .put (.upd (.rfl' t) rfl) (by decide) _
    exact ⟨(off.flag (by decide)).trans single, (off.flag (by decide)).trans synced⟩

theorem State.becomeSingle_stays (h : s.flag Fd.LKS_CTRL_pair_mode = true ∨ s.flag Fd.LKS_STAT_single = true) : s.becomeSingle = s :=
  if_pos (by simpa using h)

theorem State.becomeSingle_becomes (hp : s.flag Fd.LKS_CTRL_pair_mode = false) (hs : s.flag Fd.LKS_STAT_single = false) :
    s.becomeSingle = (s.setFlag Fd.LKS_STAT_single true).record Blk.lks 0x10 1 0 := if_neg (by simp [hp, hs])

theorem State.fenceUnit_none : s.fenceUnit 0 = s := rfl

/-- SINGLE is recorded in class Derate, or one class up; no unit is fenced (R323, R445). -/
theorem State.record_single : (s.record Blk.lks 0x10 1 0).regsOff (inWindow 13) s ∧ (s.record Blk.lks 0x10 1 0).faultCounted s 13 ∧
    (s.record Blk.lks 0x10 1 0).within s [.regs, .hmp, .flt] := by
  have own : isOwnFault Blk.lks 0x10 = true := by decide
  have cls := escalate_cases (vget s.flt.rem Blk.lks) Blk.lks true 0x10 1 0
  refine State.recordAt_pending_frame (State.recordAt_pending own rfl ?_ ?_ fun _ t => t.fenceUnit_none) <;> omega

/-- A module without a partner in PAIR mode becomes SINGLE, which is a fault where it was not SINGLE before (R323). -/
theorem State.becomeSingle_alone : s.becomeSingle.flag Fd.LKS_STAT_single = (s.flag Fd.LKS_STAT_single || !s.flag Fd.LKS_CTRL_pair_mode) ∧
    (s.flag Fd.LKS_STAT_single = false → s.flag Fd.LKS_CTRL_pair_mode = false → s.becomeSingle.faultCounted s 13) ∧
    s.becomeSingle.within s [.regs, .hmp, .flt] := by
  by_cases stays : s.flag Fd.LKS_CTRL_pair_mode = true ∨ s.flag Fd.LKS_STAT_single = true
  · rw [s.becomeSingle_stays stays]
    refine ⟨?_, fun hs hp => absurd stays (by simp [hs, hp]), .rfl' s⟩
    rcases stays with h | h <;> simp [h]
  · simp only [not_or, Bool.not_eq_true] at stays
    obtain ⟨hp, hs⟩ := stays
    rw [s.becomeSingle_becomes hp hs]
    obtain ⟨window, counted, parts⟩ := (s.setFlag Fd.LKS_STAT_single true).record_single
    have single : (s.setFlag Fd.LKS_STAT_single true).flag Fd.LKS_STAT_single = true := s.flag_setFlag_same _ _ (by decide) rfl
    have before : (s.setFlag Fd.LKS_STAT_single true).get (Fd.FLT_STAT_count 13) = s.get (Fd.FLT_STAT_count 13) :=
      s.get_setFlag_apart _ _ _ (by decide) (.inl (by decide))
    have off : (s.setFlag Fd.LKS_STAT_single true).within s [.regs, .hmp, .flt] := .setFlag (.rfl' s) (by decide) _ _
    generalize s.setFlag Fd.LKS_STAT_single true = t at *
    refine ⟨(window.flag ?_).trans (by simp [single, hp]), fun _ _ => ?_, parts.trans off⟩
    · unfold inWindow
      decide
    · unfold State.faultCounted at counted ⊢
      rw [counted, before]

end

/-! ## Joining -/

section
variable (s : State)

theorem State.joinEnds_within : s.joinEnds.within s [.lks, .cfg] := by
  intro p hp
  cases p
  case lks | cfg => exact (hp (by decide)).elim
  all_goals rfl

theorem State.joinEnds_lks : s.joinEnds.lks.join = .none ∧ s.joinEnds.lks.resyncReq = false ∧ s.joinEnds.lks.staticReq = false := ⟨rfl, rfl, rfl⟩

theorem State.joined_regsOff : s.joined.regsOff (· ∈ [Reg.LKS_STAT, Reg.LKS_CNT_B]) s := by
  unfold State.joined
  exact .put (.bump (.setFlag (.rfl' s) (by decide) _) (by decide)) (by decide) _

theorem State.joined_within : s.joined.within s [.regs] := by
  unfold State.joined
  exact .put (.bump (.setFlag (.rfl' s) (by decide) _ _) (by decide) _) (by decide) _ _

theorem State.joined_shown : s.joined.flag Fd.LKS_STAT_synced = true ∧
    s.joined.get Fd.LKS_CNT_B_resyncs = (s.get Fd.LKS_CNT_B_resyncs + 1) % 65536 := by
  have synced : (s.setFlag Fd.LKS_STAT_synced true).flag Fd.LKS_STAT_synced = true := s.flag_setFlag_same _ _ (by decide) rfl
  have before : (s.setFlag Fd.LKS_STAT_synced true).get Fd.LKS_CNT_B_resyncs = s.get Fd.LKS_CNT_B_resyncs :=
    s.get_setFlag_apart _ _ _ (by decide) (.inl (by decide))
  unfold State.joined
  generalize s.setFlag Fd.LKS_STAT_synced true = t at *
  have counted : (t.bump Fd.LKS_CNT_B_resyncs).get Fd.LKS_CNT_B_resyncs = (t.get Fd.LKS_CNT_B_resyncs + 1) % 65536 := t.get_bump_same _ (by decide)
  have kept : (t.bump Fd.LKS_CNT_B_resyncs).flag Fd.LKS_STAT_synced = t.flag Fd.LKS_STAT_synced := by
    unfold State.flag
    rw [t.get_bump_apart _ _ (by decide) (.inl (by decide))]
  generalize t.bump Fd.LKS_CNT_B_resyncs = r at *
  refine ⟨?_, ?_⟩
  · unfold State.flag at kept synced ⊢
    rw [r.get_put_apart _ _ _ (by decide) (.inr (by decide)), kept, synced]
  · rw [r.get_put_apart _ _ _ (by decide) (.inl (by decide)), counted, before]

/-- A joining module completes: its images, the end of its joining, and what it shows. -/
def State.joinDone (i : PairImage) : State := (s.loadImages i).joinEnds.joined.clearSingle

theorem State.joinDone_within (i : PairImage) :
    (s.joinDone i).within s [.regs, .lpe, .prf, .zfb, .wgl, .lks, .chn, .est, .flt, .cfg] := by
  have loaded : (s.loadImages i).within s [.regs, .lpe, .prf, .zfb, .wgl, .lks, .chn, .est, .flt, .cfg] := (s.loadImages_within i).mono (by decide)
  have ended := ((s.loadImages i).joinEnds_within.mono (by decide)).trans loaded
  have shown := ((s.loadImages i).joinEnds.joined_within.mono (by decide)).trans ended
  exact ((s.loadImages i).joinEnds.joined.clearSingle_within.mono (by decide)).trans shown

/-- After the images the join writes its own status, its counter, and SINGLE's pending bit. -/
theorem State.joinDone_regsOff_images (i : PairImage) :
    (s.joinDone i).regsOff (· ∈ [Reg.LKS_STAT, Reg.LKS_CNT_B, Reg.FLT_STAT 13]) (s.loadImages i) := by
  have ended : (s.loadImages i).joinEnds.regsOff (· ∈ [Reg.LKS_STAT, Reg.LKS_CNT_B, Reg.FLT_STAT 13]) (s.loadImages i) := .upd (.rfl' _) rfl
  have shown := ((s.loadImages i).joinEnds.joined_regsOff.mono (by decide)).trans ended
  exact ((s.loadImages i).joinEnds.joined.clearSingle_regsOff.mono (by decide)).trans shown

/-- No register that the join writes itself is a pair register. -/
theorem pairReg_of_join {a : Nat} (h : a ∈ [Reg.LKS_STAT, Reg.LKS_CNT_B, Reg.FLT_STAT 13]) : pairReg a = false := by
  revert a
  decide

theorem State.rd_joinDone (i : PairImage) (hl : i.regs.wf = true) {a : Nat} (ha : pairReg a = true) : (s.joinDone i).rd a = i.regs.get a := by
  have own : a ∉ [Reg.LKS_STAT, Reg.LKS_CNT_B, Reg.FLT_STAT 13] := fun h => by simp [pairReg_of_join h] at ha
  exact (s.joinDone_regsOff_images i a own).trans (s.rd_loadImages i hl ha)

/-- What a complete join brings (R311, R323, R324). -/
theorem State.joinDone_parts (i : PairImage) : (s.joinDone i).lpe = { s.lpe with loops := i.loops } ∧ (s.joinDone i).prf = i.prf ∧
    (s.joinDone i).zfb = i.zfb ∧ (s.joinDone i).wgl = i.wgl ∧ (s.joinDone i).chn = i.chn ∧
    (s.joinDone i).est = { i.est with slots := s.est.slots, failed := s.est.failed, storeDue := s.est.storeDue } ∧
    (s.joinDone i).lks.join = .none ∧ (s.joinDone i).lks.resyncReq = false ∧ (s.joinDone i).lks.staticReq = false := by
  have kept : (s.joinDone i).within (s.loadImages i) [.regs, .lks, .flt, .cfg] := by
    have ended : (s.loadImages i).joinEnds.within (s.loadImages i) [.regs, .lks, .flt, .cfg] := (s.loadImages i).joinEnds_within.mono (by decide)
    have shown := ((s.loadImages i).joinEnds.joined_within.mono (by decide)).trans ended
    exact ((s.loadImages i).joinEnds.joined.clearSingle_within.mono (by decide)).trans shown
  have lks : (s.joinDone i).lks = (s.loadImages i).joinEnds.lks :=
    ((s.loadImages i).joinEnds.joined.clearSingle_within .lks (by decide)).trans ((s.loadImages i).joinEnds.joined_within .lks (by decide))
  obtain ⟨lpe, prf, zfb, wgl, chn, est⟩ := s.loadImages_parts i
  obtain ⟨join, resync, stat⟩ := (s.loadImages i).joinEnds_lks
  exact ⟨(kept .lpe (by decide)).trans lpe, (kept .prf (by decide)).trans prf, (kept .zfb (by decide)).trans zfb,
    (kept .wgl (by decide)).trans wgl, (kept .chn (by decide)).trans chn, (kept .est (by decide)).trans est,
    (congrArg LksRt.join lks).trans join, (congrArg LksRt.resyncReq lks).trans resync, (congrArg LksRt.staticReq lks).trans stat⟩

/-- What a complete join shows (R323). -/
theorem State.joinDone_shown (i : PairImage) : (s.joinDone i).flag Fd.LKS_STAT_synced = true ∧ (s.joinDone i).flag Fd.LKS_STAT_single = false ∧
    (s.joinDone i).get Fd.LKS_CNT_B_resyncs = (s.get Fd.LKS_CNT_B_resyncs + 1) % 65536 := by
  obtain ⟨synced, counted⟩ := (s.loadImages i).joinEnds.joined_shown
  have ended : (s.loadImages i).joinEnds.get Fd.LKS_CNT_B_resyncs = (s.loadImages i).get Fd.LKS_CNT_B_resyncs :=
    (s.loadImages i).get_mk _
  have before : (s.loadImages i).get Fd.LKS_CNT_B_resyncs = s.get Fd.LKS_CNT_B_resyncs := (s.loadImages_regsOff i).get (by decide)
  obtain ⟨single, kept⟩ := (s.loadImages i).joinEnds.joined.clearSingle_stat
  have off : (s.joinDone i).get Fd.LKS_CNT_B_resyncs = (s.loadImages i).joinEnds.joined.get Fd.LKS_CNT_B_resyncs :=
    (s.loadImages i).joinEnds.joined.clearSingle_regsOff.get (by decide)
  exact ⟨kept.trans synced, single, by rw [off, counted, ended, before]⟩

/-- The fault counter of the sense block keeps its value over the images, which hold no fault window. -/
theorem State.get_joinDone_faults (i : PairImage) : (s.joinDone i).get (Fd.FLT_STAT_count 8) = s.get (Fd.FLT_STAT_count 8) :=
  ((s.joinDone_regsOff_images i).get (by decide)).trans ((s.loadImages_regsOff i).get (by decide))

theorem State.adopt_within (time frame : Nat) : (s.adopt time frame).within s [.time] := s.within_time _

/-- A join that is ready adopts the claimant's time base with a Note, and completes (R41, R324). -/
theorem execJoin_joins (time frame : Nat) (i : PairImage) (h : s.joinReady = true) :
    execJoin time frame i s = .next (((s.adopt time frame).record Blk.sns 0x11 0 0).joinDone i) :=
  congrArg Host.Outcome.next (if_neg (by simp [h]))

theorem State.joinDone_note (time frame : Nat) (i : PairImage) (hl : i.regs.wf = true) :
    ∃ t, t = ((s.adopt time frame).record Blk.sns 0x11 0 0).joinDone i ∧
      t.time = { s.time with frameStart := time % 2 ^ 64, frame := frame % 2 ^ 48 } ∧ t.faultCounted s 8 ∧
      (∀ a, pairReg a = true → t.rd a = i.regs.get a) ∧ t.lpe = { s.lpe with loops := i.loops } ∧ t.prf = i.prf ∧ t.zfb = i.zfb ∧
      t.wgl = i.wgl ∧ t.chn = i.chn ∧ t.est = { i.est with slots := s.est.slots, failed := s.est.failed, storeDue := s.est.storeDue } ∧
      t.lks.join = .none ∧ t.lks.resyncReq = false ∧ t.lks.staticReq = false ∧ t.flag Fd.LKS_STAT_synced = true ∧
      t.flag Fd.LKS_STAT_single = false ∧ t.get Fd.LKS_CNT_B_resyncs = (s.get Fd.LKS_CNT_B_resyncs + 1) % 65536 ∧
      t.within s [.regs, .time, .lpe, .hmp, .prf, .zfb, .wgl, .lks, .chn, .est, .flt, .cfg] := by
  obtain ⟨window, counted, parts⟩ := (s.adopt time frame).record_note Blk.sns 0x11 0 (by decide)
  have resyncs : ((s.adopt time frame).record Blk.sns 0x11 0 0).get Fd.LKS_CNT_B_resyncs = s.get Fd.LKS_CNT_B_resyncs :=
    (window.get (by unfold inWindow; decide)).trans (s.get_mk _)
  have before : (s.adopt time frame).get (Fd.FLT_STAT_count 8) = s.get (Fd.FLT_STAT_count 8) := s.get_mk _
  have adopted : ((s.adopt time frame).record Blk.sns 0x11 0 0).within s [.regs, .hmp, .time] :=
    (parts.mono (by decide)).trans ((s.adopt_within time frame).mono (by decide))
  have time' : ((s.adopt time frame).record Blk.sns 0x11 0 0).time = { s.time with frameStart := time % 2 ^ 64, frame := frame % 2 ^ 48 } :=
    parts .time (by decide)
  generalize (s.adopt time frame).record Blk.sns 0x11 0 0 = u at *
  obtain ⟨lpe, prf, zfb, wgl, chn, est, join, resync, stat⟩ := u.joinDone_parts i
  obtain ⟨synced, single, shown⟩ := u.joinDone_shown i
  have within := u.joinDone_within i
  refine ⟨_, rfl, (within .time (by decide)).trans time', ?_, fun a ha => u.rd_joinDone i hl ha, ?_, prf, zfb, wgl, chn, ?_, join, resync, stat,
    synced, single, by rw [shown, resyncs], (within.mono (by decide)).trans (adopted.mono (by decide))⟩
  · unfold State.faultCounted at counted ⊢
    rw [u.get_joinDone_faults, ← before]
    exact counted
  · rw [lpe, adopted .lpe (by decide)]
  · rw [est, adopted .est (by decide)]

end

/-! ## The start, the pair wait and the claim history -/

section
variable (s : State)

theorem State.started_join : s.started.lks.join =
    (if s.lks.partnerValid = true then JoinPhase.joining else if s.flag Fd.LKS_CTRL_pair_mode = true then .none else .pairWait) := by
  show s.joinFirst = _
  unfold State.joinFirst
  cases s.flag Fd.LKS_CTRL_pair_mode <;> rfl

/-- Of the entries the youngest 32 stay (R327). -/
theorem State.historyTaken_ring : ∃ old, s.lks.history ++ s.lks.histPending = old ++ s.historyTaken.lks.history ∧
    s.historyTaken.lks.history.length ≤ 32 ∧ (old ≠ [] → s.historyTaken.lks.history.length = 32) := by
  have ring : s.historyTaken.lks.history =
      (s.lks.history ++ s.lks.histPending).drop ((s.lks.history ++ s.lks.histPending).length - 32) := rfl
  rw [ring]
  generalize s.lks.history ++ s.lks.histPending = l
  refine ⟨l.take (l.length - 32), (List.take_append_drop _ l).symm, ?_, fun old => ?_⟩
  · rw [List.length_drop]
    omega
  · have more : l.length - 32 ≠ 0 := fun none => old (by rw [none, List.take_zero])
    rw [List.length_drop]
    omega

theorem execPairWaitEnd_waiting (h : s.lks.join = .pairWait) : execPairWaitEnd s = .next (if s.lks.lockUp then s.waitEnds true
    else if s.lks.waitFrames < s.waitLimit then s else (s.waitEnds false).becomeSingle) :=
  congrArg Host.Outcome.next (if_neg (by simp [h]))

theorem State.waitEnds_lks_false : (s.waitEnds false).lks = { s.lks with join := .none } := by
  unfold State.waitEnds
  simp

/-- The wait has passed: the module claims alone, as SINGLE in PAIR mode (R323, R325). -/
theorem State.waitEnds_alone : ∃ t, t = (s.waitEnds false).becomeSingle ∧ t.lks = { s.lks with join := .none } ∧
    t.flag Fd.LKS_STAT_single = (s.flag Fd.LKS_STAT_single || !s.flag Fd.LKS_CTRL_pair_mode) ∧
    (s.flag Fd.LKS_STAT_single = false → s.flag Fd.LKS_CTRL_pair_mode = false → t.faultCounted s 13) ∧ t.within s [.regs, .hmp, .lks, .flt] := by
  obtain ⟨single, counted, parts⟩ := (s.waitEnds false).becomeSingle_alone
  have ended : (s.waitEnds false).within s [.lks] := (LksK.waitEnds (LksK.rfl' s) false).within
  have regs := ended .regs (by decide)
  rw [State.flag_congr regs, State.flag_congr regs] at single counted
  refine ⟨_, rfl, (parts .lks (by decide)).trans s.waitEnds_lks_false, single, fun hs hp => ?_,
    (parts.mono (by decide)).trans (ended.mono (by decide))⟩
  have once := counted hs hp
  unfold State.faultCounted at once ⊢
  rw [once, State.get_congr regs]

end

/-- Settles O41: the start, the end of the wait, the join and the history, each by what its update brings. -/
theorem modulesStartAndJoin : Obligations.ModulesStartAndJoin := by
  intro s
  refine ⟨fun h => congrArg Host.Outcome.next (if_pos (by simp [h])), fun h => ⟨s.started, congrArg Host.Outcome.next (if_neg (by simp [h])),
    (StartK.started (StartK.rfl' s)).within, rfl, rfl, rfl, s.started_join⟩, fun h => congrArg Host.Outcome.next (if_pos (by simpa using h)),
    fun h => ⟨fun up => ?_, fun down soon => ?_, fun down late => ?_⟩,
    fun time frame img => ⟨fun h => congrArg Host.Outcome.next (if_pos (by simp [h])), fun h hl => ?_⟩,
    fun h => congrArg Host.Outcome.next (if_pos (by simpa using h)), fun slow bow => ?_⟩
  · refine (execPairWaitEnd_waiting s h).trans (congrArg Host.Outcome.next ((if_pos up).trans ?_))
    unfold State.waitEnds
    simp
  · exact (execPairWaitEnd_waiting s h).trans (congrArg Host.Outcome.next ((if_neg (by simp [down])).trans (if_pos soon)))
  · obtain ⟨t, rfl, alone⟩ := s.waitEnds_alone
    have limit : ¬s.lks.waitFrames < s.waitLimit := Nat.not_lt.2 late
    exact ⟨_, (execPairWaitEnd_waiting s h).trans (congrArg Host.Outcome.next ((if_neg (by simp [down])).trans (if_neg limit))), alone⟩
  · obtain ⟨t, rfl, joined⟩ := s.joinDone_note time frame img hl
    exact ⟨_, execJoin_joins s time frame img h, joined⟩
  · obtain ⟨old, all, short, full⟩ := s.historyTaken_ring
    exact ⟨s.historyTaken, congrArg Host.Outcome.next (if_neg (by simp [slow, bow])),
      (LksK.historyTaken (LksK.rfl' s)).within, old, all, short, full, rfl⟩

end Sys2Proof.Machine
end

section
/-! Chapter 12: the training of the lanes (R333, R334, R349, R351, R503). -/

namespace Sys2Proof.Machine

/-! ## The result of an attempt (Table 12-3) -/

section
variable {fail rttNs limit highest : Nat} {kindOk : Bool}

theorem trainCause_fail (h : fail ≠ 0) : trainCause fail rttNs limit kindOk highest = fail := if_pos h

theorem trainCause_late (h : fail = 0) (hr : limit < rttNs) : trainCause fail rttNs limit kindOk highest = 2 :=
  (if_neg (not_not.2 h)).trans (if_pos hr)

theorem trainCause_kind (h : fail = 0) (hr : rttNs ≤ limit) (hk : kindOk = false) : trainCause fail rttNs limit kindOk highest = 4 :=
  (if_neg (not_not.2 h)).trans ((if_neg (Nat.not_lt.2 hr)).trans (if_pos (by rw [hk]; rfl)))

theorem trainCause_version (h : fail = 0) (hr : rttNs ≤ limit) (hk : kindOk = true) (hv : highest = 0) :
    trainCause fail rttNs limit kindOk highest = 5 :=
  (if_neg (not_not.2 h)).trans ((if_neg (Nat.not_lt.2 hr)).trans ((if_neg (by simp [hk])).trans (if_pos hv)))

theorem trainCause_none (h : fail = 0) (hr : rttNs ≤ limit) (hk : kindOk = true) (hv : highest ≠ 0) :
    trainCause fail rttNs limit kindOk highest = 0 :=
  (if_neg (not_not.2 h)).trans ((if_neg (Nat.not_lt.2 hr)).trans ((if_neg (by simp [hk])).trans (if_neg hv)))

theorem trainCause_ne (h : fail ≠ 0 ∨ limit < rttNs ∨ kindOk = false ∨ highest = 0) : trainCause fail rttNs limit kindOk highest ≠ 0 := by
  unfold trainCause
  split_ifs <;> simp_all

theorem trainCause_lt (h : fail < 16) : trainCause fail rttNs limit kindOk highest < 16 := by
  unfold trainCause
  split_ifs <;> omega

end

/-- A state with the same registers. -/
theorem State.regsOff.of_regs {P : Nat → Prop} {r s t : State} (h : t.regsOff P s) (e : r.regs = t.regs) : r.regsOff P s := fun a ha =>
  (congrArg (Regs.get · a) e).trans (h a ha)

/-! ## Stage lanes -/

section
variable (s : State) (k : Fin 26)

theorem stlStat_ne_cnt (n : Nat) : Reg.STL_LANE_STAT n ≠ Reg.STL_LANE_CNT n := by
  unfold Reg.STL_LANE_STAT Reg.STL_LANE_CNT
  omega

/-- The registers of an attempt that fails. -/
def stageShown (n : Nat) : List Nat := [Reg.STL_LANE_STAT n, Reg.STL_LANE_CNT n]

/-- The registers of an attempt. -/
def stageAdopted (n : Nat) : List Nat := Reg.STL_LANE_STAT n :: Reg.STL_LANE_CNT n :: (List.range 8).map (Reg.STL_DECL n)

theorem State.stageAttempt_regsOff (rttNs : Nat) : (s.stageAttempt k rttNs).regsOff (· ∈ stageShown k) s :=
  .put (f := Fd.STL_LANE_STAT_rtt_ns k) (.bump (f := Fd.STL_LANE_CNT_trainings k) (.rfl' s) (by simp [stageShown, Fd.STL_LANE_CNT_trainings]))
    (by simp [stageShown, Fd.STL_LANE_STAT_rtt_ns]) _

theorem State.stageAttempt_within (rttNs : Nat) : (s.stageAttempt k rttNs).within s [.regs] :=
  .put (.bump (.rfl' s) (by decide) _) (by decide) _ _

/-- An attempt shows its number and its round trip, and keeps the version in use (R356). -/
theorem State.stageAttempt_shown (rttNs : Nat) :
    (s.stageAttempt k rttNs).get (Fd.STL_LANE_CNT_trainings k) = (s.get (Fd.STL_LANE_CNT_trainings k) + 1) % 256 ∧
    (s.stageAttempt k rttNs).get (Fd.STL_LANE_STAT_rtt_ns k) = min 65535 rttNs ∧
    (s.stageAttempt k rttNs).get (Fd.STL_LANE_STAT_version k) = s.get (Fd.STL_LANE_STAT_version k) := by
  have counted := s.get_bump_same (Fd.STL_LANE_CNT_trainings k) (by decide : 0 + 8 ≤ 32)
  have version := s.get_bump_apart (Fd.STL_LANE_CNT_trainings k) (Fd.STL_LANE_STAT_version k) (by decide : 0 + 8 ≤ 32) (.inl (stlStat_ne_cnt k))
  unfold State.stageAttempt
  generalize s.bump (Fd.STL_LANE_CNT_trainings k) = t at *
  refine ⟨?_, t.get_put_small (Fd.STL_LANE_STAT_rtt_ns k) _ (by decide : 0 + 16 ≤ 32) (by show min 65535 rttNs < 65536; omega), ?_⟩
  · rw [t.get_put_apart (Fd.STL_LANE_STAT_rtt_ns k) _ _ (by decide : 0 + 16 ≤ 32) (.inl (stlStat_ne_cnt k).symm), counted]
    rfl
  · rw [t.get_put_apart (Fd.STL_LANE_STAT_rtt_ns k) (Fd.STL_LANE_STAT_version k) _ (by decide : 0 + 16 ≤ 32)
      (.inr (.inr (by decide : 0 + 16 ≤ 26))),
      version]

theorem State.stageFailed_regsOff (c : Nat) : (s.stageFailed k c).regsOff (· ∈ [Reg.STL_LANE_STAT k]) s :=
  .put (f := Fd.STL_LANE_STAT_state k) (.put (f := Fd.STL_LANE_STAT_cause k) (.rfl' s) (List.mem_singleton.2 rfl) _) (List.mem_singleton.2 rfl) _

theorem State.stageFailed_within (c : Nat) : (s.stageFailed k c).within s [.regs] := .put (.put (.rfl' s) (by decide) _ _) (by decide) _ _

/-- A failed attempt shows its cause, and keeps the round trip and the version (Table 12-3). -/
theorem State.stageFailed_shown {c : Nat} (hc : c < 16) : (s.stageFailed k c).get (Fd.STL_LANE_STAT_cause k) = c ∧
    (s.stageFailed k c).get (Fd.STL_LANE_STAT_state k) = 5 ∧
    (s.stageFailed k c).get (Fd.STL_LANE_STAT_rtt_ns k) = s.get (Fd.STL_LANE_STAT_rtt_ns k) ∧
    (s.stageFailed k c).get (Fd.STL_LANE_STAT_version k) = s.get (Fd.STL_LANE_STAT_version k) := by
  have cause := s.get_put_small (Fd.STL_LANE_STAT_cause k) c (by decide : 20 + 4 ≤ 32) hc
  have rtt := s.get_put_apart (Fd.STL_LANE_STAT_cause k) (Fd.STL_LANE_STAT_rtt_ns k) c (by decide : 20 + 4 ≤ 32)
    (.inr (.inl (by decide : 0 + 16 ≤ 20)))
  have version := s.get_put_apart (Fd.STL_LANE_STAT_cause k) (Fd.STL_LANE_STAT_version k) c (by decide : 20 + 4 ≤ 32)
    (.inr (.inr (by decide : 20 + 4 ≤ 26)))
  unfold State.stageFailed
  generalize s.put (Fd.STL_LANE_STAT_cause k) c = t at *
  have apart (f : Fld) (hf : f.lo + f.len ≤ 28) : (t.put (Fd.STL_LANE_STAT_state k) 5).get f = t.get f :=
    t.get_put_apart (Fd.STL_LANE_STAT_state k) f 5 (by decide : 28 + 4 ≤ 32) (.inr (.inl hf))
  exact ⟨(apart _ (by decide : 20 + 4 ≤ 28)).trans cause,
    t.get_put_small (Fd.STL_LANE_STAT_state k) 5 (by decide : 28 + 4 ≤ 32) (by decide : 5 < 2 ^ 4),
    (apart _ (by decide : 0 + 16 ≤ 28)).trans rtt, (apart _ (by decide : 26 + 2 ≤ 28)).trans version⟩

/-! A lane that serves. -/

/-- The status of a lane that serves (R331, R351). -/
def State.stageServes (high : Nat) : State :=
  ((s.put (Fd.STL_LANE_STAT_version k) (min 2 high)).setFlag (Fd.STL_LANE_STAT_decl_ok k) true).put (Fd.STL_LANE_STAT_state k) s.serveState

theorem State.stageUp_eq (decls : Vector Word 8) (high : Nat) :
    s.stageUp k decls high = ((s.stageServes k high).stageWords k decls).stageTrained k decls := by
  have serves : ((s.put (Fd.STL_LANE_STAT_version k) (min 2 high)).setFlag (Fd.STL_LANE_STAT_decl_ok k) true).serveState = s.serveState := by
    unfold State.serveState
    rw [State.setFlag_pins, State.put_pins]
  unfold State.stageUp State.stageServes
  simp only [serves]

theorem State.serveState_lt : s.serveState < 16 := by
  unfold State.serveState
  split <;> decide

theorem State.stageServes_regsOff (high : Nat) : (s.stageServes k high).regsOff (· ∈ [Reg.STL_LANE_STAT k]) s :=
  .put (f := Fd.STL_LANE_STAT_state k) (.setFlag (f := Fd.STL_LANE_STAT_decl_ok k) (.put (f := Fd.STL_LANE_STAT_version k) (.rfl' s)
    (List.mem_singleton.2 rfl) _) (List.mem_singleton.2 rfl) _) (List.mem_singleton.2 rfl) _

theorem State.stageServes_within (high : Nat) : (s.stageServes k high).within s [.regs] :=
  .put (.setFlag (.put (.rfl' s) (by decide) _ _) (by decide) _ _) (by decide) _ _

theorem State.stageServes_shown (high : Nat) : (s.stageServes k high).get (Fd.STL_LANE_STAT_state k) = s.serveState ∧
    (s.stageServes k high).get (Fd.STL_LANE_STAT_version k) = min 2 high ∧ (s.stageServes k high).flag (Fd.STL_LANE_STAT_decl_ok k) = true ∧
    (s.stageServes k high).get (Fd.STL_LANE_STAT_rtt_ns k) = s.get (Fd.STL_LANE_STAT_rtt_ns k) := by
  have version := s.get_put_small (Fd.STL_LANE_STAT_version k) (min 2 high) (by decide : 26 + 2 ≤ 32) (by show min 2 high < 4; omega)
  have rtt := s.get_put_apart (Fd.STL_LANE_STAT_version k) (Fd.STL_LANE_STAT_rtt_ns k) (min 2 high) (by decide : 26 + 2 ≤ 32)
    (.inr (.inl (by decide : 0 + 16 ≤ 26)))
  unfold State.stageServes
  generalize s.put (Fd.STL_LANE_STAT_version k) (min 2 high) = t at *
  have ok := t.flag_setFlag_same (Fd.STL_LANE_STAT_decl_ok k) true (by decide : 25 + 1 ≤ 32) rfl
  have version' := t.get_setFlag_apart (Fd.STL_LANE_STAT_decl_ok k) (Fd.STL_LANE_STAT_version k) true (by decide : 25 + 1 ≤ 32)
    (.inr (.inr (by decide : 25 + 1 ≤ 26)))
  have rtt' := t.get_setFlag_apart (Fd.STL_LANE_STAT_decl_ok k) (Fd.STL_LANE_STAT_rtt_ns k) true (by decide : 25 + 1 ≤ 32)
    (.inr (.inl (by decide : 0 + 16 ≤ 25)))
  generalize t.setFlag (Fd.STL_LANE_STAT_decl_ok k) true = r at *
  have apart (f : Fld) (hf : f.lo + f.len ≤ 28) : (r.put (Fd.STL_LANE_STAT_state k) s.serveState).get f = r.get f :=
    r.get_put_apart (Fd.STL_LANE_STAT_state k) f _ (by decide : 28 + 4 ≤ 32) (.inr (.inl hf))
  refine ⟨r.get_put_small (Fd.STL_LANE_STAT_state k) _ (by decide : 28 + 4 ≤ 32) s.serveState_lt, ?_, ?_, ?_⟩
  · rw [apart _ (by decide : 26 + 2 ≤ 28), version', version]
  · rw [← ok]
    unfold State.flag
    rw [apart _ (by decide : 25 + 1 ≤ 28)]
  · rw [apart _ (by decide : 0 + 16 ≤ 28), rtt', rtt]

theorem State.stageWords_regsOff (decls : Vector Word 8) : (s.stageWords k decls).regsOff (· ∈ (List.range 8).map (Reg.STL_DECL k)) s :=
  State.regsOff.foldl (fun i _ _ hu => hu.wr (List.mem_map.2 ⟨i.val, List.mem_range.2 i.isLt, rfl⟩) _) (.rfl' s)

theorem State.stageWords_within (decls : Vector Word 8) : (s.stageWords k decls).within s [.regs] :=
  State.within.foldl (fun _ _ hu => hu.wr (by decide) _ _) (.rfl' s)

theorem State.declWord_stageWords (decls : Vector Word 8) (i : Fin 8) : (s.stageWords k decls).declWord k i = vget decls i := by
  refine s.rd_stores (fun i : Fin 8 => Reg.STL_DECL k i) (vget decls) _ (fun j _ h => ?_) (.inr ⟨i, List.mem_finRange i, rfl⟩)
  unfold Reg.STL_DECL at h
  rw [Fin.ext (by omega : j.val = i.val)]

theorem State.stageTrained_regs (decls : Vector Word 8) : (s.stageTrained k decls).regs = s.regs := rfl

/-- The run-time values of a lane that serves (R503). -/
theorem State.stl_stageTrained (decls : Vector Word 8) : ((s.stageTrained k decls).stl k).silent = 0 ∧
    (∀ m, m ≠ k → (s.stageTrained k decls).stl m = s.stl m) ∧
    ((s.stageTrained k decls).stl k).firstTrained = some ((s.stl k).firstTrained.getD s.time.frame) := by
  unfold State.stageTrained State.stl State.setStl
  exact ⟨by rw [vget_vset_same], fun m hm => vget_vset_other _ _ hm, by rw [vget_vset_same]⟩

/-- No declaration word is the status or the counter of its lane. -/
theorem not_decl (n : Nat) : Reg.STL_LANE_STAT n ∉ (List.range 8).map (Reg.STL_DECL n) ∧
    Reg.STL_LANE_CNT n ∉ (List.range 8).map (Reg.STL_DECL n) := by
  constructor <;>
  · intro h
    obtain ⟨i, -, hi⟩ := List.mem_map.1 h
    simp only [Reg.STL_LANE_STAT, Reg.STL_LANE_CNT, Reg.STL_DECL] at hi
    omega

theorem State.stageUp_regsOff (decls : Vector Word 8) (high : Nat) : (s.stageUp k decls high).regsOff (· ∈ stageAdopted k) s := by
  have words : ((s.stageServes k high).stageWords k decls).regsOff (· ∈ stageAdopted k) (s.stageServes k high) :=
    (State.stageWords_regsOff _ k decls).mono fun a ha => List.mem_cons_of_mem _ (List.mem_cons_of_mem _ ha)
  have stat : (s.stageServes k high).regsOff (· ∈ stageAdopted k) s :=
    (s.stageServes_regsOff k high).mono fun a ha => List.mem_singleton.1 ha ▸ List.mem_cons_self
  rw [s.stageUp_eq]
  exact (words.trans stat).of_regs (State.stageTrained_regs _ k decls)

theorem State.stageUp_within (decls : Vector Word 8) (high : Nat) : (s.stageUp k decls high).within s [.regs, .zfb, .link] :=
  TrainK.within (TrainK.stageUp (TrainK.rfl' s) k decls high)

/-- What a lane shows and holds that serves. -/
theorem State.stageUp_shown (decls : Vector Word 8) (high : Nat) :
    (s.stageUp k decls high).get (Fd.STL_LANE_STAT_state k) = s.serveState ∧
    (s.stageUp k decls high).get (Fd.STL_LANE_STAT_version k) = min 2 high ∧ (s.stageUp k decls high).flag (Fd.STL_LANE_STAT_decl_ok k) = true ∧
    (s.stageUp k decls high).get (Fd.STL_LANE_STAT_rtt_ns k) = s.get (Fd.STL_LANE_STAT_rtt_ns k) ∧
    (s.stageUp k decls high).get (Fd.STL_LANE_CNT_trainings k) = s.get (Fd.STL_LANE_CNT_trainings k) ∧
    (∀ i : Fin 8, (s.stageUp k decls high).declWord k i = vget decls i) := by
  obtain ⟨state, version, ok, rtt⟩ := s.stageServes_shown k high
  have count : (s.stageServes k high).get (Fd.STL_LANE_CNT_trainings k) = s.get (Fd.STL_LANE_CNT_trainings k) :=
    (s.stageServes_regsOff k high).get fun h => (stlStat_ne_cnt k).symm (List.mem_singleton.1 h)
  rw [s.stageUp_eq]
  generalize s.stageServes k high = t at *
  have words := t.stageWords_regsOff k decls
  have decl := t.declWord_stageWords k decls
  generalize t.stageWords k decls = r at *
  have regs := r.stageTrained_regs k decls
  obtain ⟨notStat, notCnt⟩ := not_decl k
  refine ⟨?_, ?_, ?_, ?_, ?_, fun i => ?_⟩
  · rw [State.get_congr regs, words.get notStat, state]
  · rw [State.get_congr regs, words.get notStat, version]
  · rw [State.flag_congr regs, words.flag notStat, ok]
  · rw [State.get_congr regs, words.get notStat, rtt]
  · rw [State.get_congr regs, words.get notCnt, count]
  · exact (congrArg (Regs.get · _) regs).trans (decl i)

theorem State.stl_stageUp (decls : Vector Word 8) (high : Nat) : ((s.stageUp k decls high).stl k).silent = 0 ∧
    (∀ m, m ≠ k → (s.stageUp k decls high).stl m = s.stl m) ∧
    ((s.stageUp k decls high).stl k).firstTrained = some ((s.stl k).firstTrained.getD s.time.frame) := by
  have kept : ((s.stageServes k high).stageWords k decls).within s [.regs] :=
    (State.stageWords_within _ k decls).trans (s.stageServes_within k high)
  rw [s.stageUp_eq]
  generalize (s.stageServes k high).stageWords k decls = t at *
  have link : t.link = s.link := kept .link (by decide)
  have time : t.time = s.time := kept .time (by decide)
  have same (m : Fin 26) : t.stl m = s.stl m := congrArg (fun x : LinkRt => vget x.lanes m) link
  obtain ⟨silent, others, first⟩ := t.stl_stageTrained k decls
  exact ⟨silent, fun m hm => (others m hm).trans (same m), by rw [first, same, time]⟩

end

end Sys2Proof.Machine
end

section
/-! Chapter 12: the attempts of stage lanes and Waggle lanes (R333, R351, R356, Table 12-3). -/

namespace Sys2Proof.Machine

/-! ## An attempt of a stage lane -/

section
variable (s : State) (k : Fin 26) (rttNs fail : Nat) (decls : Vector Word 8)

theorem State.trainStage_failed (h : stageCause k rttNs fail (vget decls 0) ≠ 0) :
    s.trainStage k rttNs fail decls = (s.stageAttempt k rttNs).stageFailed k (stageCause k rttNs fail (vget decls 0)) := if_pos h

theorem State.trainStage_up (h : stageCause k rttNs fail (vget decls 0) = 0) :
    s.trainStage k rttNs fail decls = (s.stageAttempt k rttNs).stageUp k decls (getBits (vget decls 0) 24 2) := if_neg (not_not.2 h)

theorem stageCause_lt (h : fail < 16) : stageCause k rttNs fail (vget decls 0) < 16 := trainCause_lt h

/-- An attempt that fails shows its cause (Table 12-3). -/
theorem State.trainStage_fails (hf : fail < 16) (h : stageCause k rttNs fail (vget decls 0) ≠ 0) :
    (s.trainStage k rttNs fail decls).get (Fd.STL_LANE_STAT_cause k) = stageCause k rttNs fail (vget decls 0) ∧
    (s.trainStage k rttNs fail decls).get (Fd.STL_LANE_STAT_state k) = 5 ∧
    (s.trainStage k rttNs fail decls).get (Fd.STL_LANE_STAT_version k) = s.get (Fd.STL_LANE_STAT_version k) ∧
    (s.trainStage k rttNs fail decls).withinRegs s [Reg.STL_LANE_STAT k, Reg.STL_LANE_CNT k] ∧
    (s.trainStage k rttNs fail decls).within s [.regs] := by
  rw [s.trainStage_failed k rttNs fail decls h]
  obtain ⟨-, -, version⟩ := s.stageAttempt_shown k rttNs
  have off := s.stageAttempt_regsOff k rttNs
  have parts := s.stageAttempt_within k rttNs
  generalize s.stageAttempt k rttNs = t at *
  obtain ⟨cause, state, -, version'⟩ := t.stageFailed_shown k (stageCause_lt k rttNs fail decls hf)
  have off' := (t.stageFailed_regsOff k (stageCause k rttNs fail (vget decls 0))).mono (Q := (· ∈ stageShown k)) fun a ha =>
    List.mem_singleton.1 ha ▸ List.mem_cons_self
  exact ⟨cause, state, version'.trans version, (off'.trans off).withinRegs, (t.stageFailed_within k _).trans parts⟩

/-- A lane that trains serves in the lesser version, with the words declared (R351, R503). -/
theorem State.trainStage_trains (h : stageCause k rttNs fail (vget decls 0) = 0) :
    (s.trainStage k rttNs fail decls).get (Fd.STL_LANE_STAT_state k) = s.serveState ∧
    (s.trainStage k rttNs fail decls).get (Fd.STL_LANE_STAT_version k) = min 2 (getBits (vget decls 0) 24 2) ∧
    (s.trainStage k rttNs fail decls).flag (Fd.STL_LANE_STAT_decl_ok k) = true ∧
    (∀ i : Fin 8, (s.trainStage k rttNs fail decls).declWord k i = vget decls i) ∧
    ((s.trainStage k rttNs fail decls).stl k).silent = 0 ∧ (∀ m, m ≠ k → (s.trainStage k rttNs fail decls).stl m = s.stl m) ∧
    ((s.trainStage k rttNs fail decls).stl k).firstTrained = some ((s.stl k).firstTrained.getD s.time.frame) ∧
    (s.trainStage k rttNs fail decls).withinRegs s (Reg.STL_LANE_STAT k :: Reg.STL_LANE_CNT k :: (List.range 8).map (Reg.STL_DECL k)) ∧
    (s.trainStage k rttNs fail decls).within s [.regs, .zfb, .link] := by
  rw [s.trainStage_up k rttNs fail decls h]
  have off : (s.stageAttempt k rttNs).regsOff (· ∈ stageAdopted k) s := (s.stageAttempt_regsOff k rttNs).mono fun a ha => by
    simp only [stageShown, List.mem_cons, List.not_mem_nil, or_false] at ha
    rcases ha with rfl | rfl
    · exact List.mem_cons_self
    · exact List.mem_cons_of_mem _ List.mem_cons_self
  have parts := s.stageAttempt_within k rttNs
  generalize s.stageAttempt k rttNs = t at *
  obtain ⟨state, version, ok, -, -, words⟩ := t.stageUp_shown k decls (getBits (vget decls 0) 24 2)
  obtain ⟨silent, others, first⟩ := t.stl_stageUp k decls (getBits (vget decls 0) 24 2)
  have serve : t.serveState = s.serveState := congrArg (fun x : PinRt => if x.valid then 2 else 3) (parts .pins (by decide))
  have same (m : Fin 26) : t.stl m = s.stl m := congrArg (fun x : LinkRt => vget x.lanes m) (parts .link (by decide))
  have time : t.time = s.time := parts .time (by decide)
  refine ⟨state.trans serve, version, ok, words, silent, fun m hm => (others m hm).trans (same m), ?_,
    ((t.stageUp_regsOff k decls _).trans off).withinRegs, (t.stageUp_within k decls _).trans (parts.mono (by decide))⟩
  rw [first, same, time]

/-- Every attempt is counted, with the round trip measured (R356). -/
theorem State.trainStage_counted (hf : fail < 16) :
    (s.trainStage k rttNs fail decls).get (Fd.STL_LANE_CNT_trainings k) = (s.get (Fd.STL_LANE_CNT_trainings k) + 1) % 256 ∧
    (s.trainStage k rttNs fail decls).get (Fd.STL_LANE_STAT_rtt_ns k) = min 65535 rttNs := by
  obtain ⟨count, rtt, -⟩ := s.stageAttempt_shown k rttNs
  by_cases h : stageCause k rttNs fail (vget decls 0) = 0
  · rw [s.trainStage_up k rttNs fail decls h]
    generalize s.stageAttempt k rttNs = t at *
    obtain ⟨-, -, -, rtt', count', -⟩ := t.stageUp_shown k decls (getBits (vget decls 0) 24 2)
    exact ⟨count'.trans count, rtt'.trans rtt⟩
  · rw [s.trainStage_failed k rttNs fail decls h]
    generalize s.stageAttempt k rttNs = t at *
    obtain ⟨-, -, rtt', -⟩ := t.stageFailed_shown k (stageCause_lt k rttNs fail decls hf)
    have count' := (t.stageFailed_regsOff k (stageCause k rttNs fail (vget decls 0))).get (f := Fd.STL_LANE_CNT_trainings k)
      fun m => (stlStat_ne_cnt k).symm (List.mem_singleton.1 m)
    exact ⟨count'.trans count, rtt'.trans rtt⟩

end

/-! ## An attempt of a Waggle lane -/

section
variable (s : State) (n : Fin 16) (rttNs fail highest : Nat)

theorem wglStat_ne_cnt (n : Nat) : Reg.WGL_LINK_STAT n ≠ Reg.WGL_LINK_CNT n := by
  unfold Reg.WGL_LINK_STAT Reg.WGL_LINK_CNT
  omega

/-- The links' registers stand behind those of the lanes. -/
theorem wglLane_ne_link : Reg.WGL_LANE_STAT n ≠ Reg.WGL_LINK_STAT n ∧ Reg.WGL_LANE_STAT n ≠ Reg.WGL_LINK_CNT n := by
  have hn := n.isLt
  unfold Reg.WGL_LANE_STAT Reg.WGL_LINK_STAT Reg.WGL_LINK_CNT
  omega

/-- The registers of an attempt that fails. -/
def trayShown (n : Nat) : List Nat := [Reg.WGL_LINK_STAT n, Reg.WGL_LINK_CNT n]

theorem State.trayAttempt_regsOff : (s.trayAttempt n rttNs).regsOff (· ∈ trayShown n) s :=
  .put (f := Fd.WGL_LINK_STAT_rtt_ns n) (.bump (f := Fd.WGL_LINK_CNT_trainings n) (.rfl' s) (by simp [trayShown, Fd.WGL_LINK_CNT_trainings]))
    (by simp [trayShown, Fd.WGL_LINK_STAT_rtt_ns]) _

theorem State.trayAttempt_within : (s.trayAttempt n rttNs).within s [.regs] := .put (.bump (.rfl' s) (by decide) _) (by decide) _ _

theorem State.trayAttempt_shown : (s.trayAttempt n rttNs).get (Fd.WGL_LINK_CNT_trainings n) = (s.get (Fd.WGL_LINK_CNT_trainings n) + 1) % 256 ∧
    (s.trayAttempt n rttNs).get (Fd.WGL_LINK_STAT_rtt_ns n) = min 65535 rttNs := by
  have counted := s.get_bump_same (Fd.WGL_LINK_CNT_trainings n) (by decide : 0 + 8 ≤ 32)
  unfold State.trayAttempt
  generalize s.bump (Fd.WGL_LINK_CNT_trainings n) = t at *
  refine ⟨?_, t.get_put_small (Fd.WGL_LINK_STAT_rtt_ns n) _ (by decide : 0 + 16 ≤ 32) (by show min 65535 rttNs < 65536; omega)⟩
  rw [t.get_put_apart (Fd.WGL_LINK_STAT_rtt_ns n) _ _ (by decide : 0 + 16 ≤ 32) (.inl (wglStat_ne_cnt n).symm), counted]
  rfl

theorem State.trayFailed_regsOff (c : Nat) : (s.trayFailed n c).regsOff (· ∈ [Reg.WGL_LINK_STAT n]) s :=
  .put (f := Fd.WGL_LINK_STAT_state n) (.put (f := Fd.WGL_LINK_STAT_cause n) (.rfl' s) (List.mem_singleton.2 rfl) _) (List.mem_singleton.2 rfl) _

theorem State.trayFailed_within (c : Nat) : (s.trayFailed n c).within s [.regs] := .put (.put (.rfl' s) (by decide) _ _) (by decide) _ _

theorem State.trayFailed_shown {c : Nat} (hc : c < 16) : (s.trayFailed n c).get (Fd.WGL_LINK_STAT_cause n) = c ∧
    (s.trayFailed n c).get (Fd.WGL_LINK_STAT_state n) = 5 ∧
    (s.trayFailed n c).get (Fd.WGL_LINK_STAT_rtt_ns n) = s.get (Fd.WGL_LINK_STAT_rtt_ns n) := by
  have cause := s.get_put_small (Fd.WGL_LINK_STAT_cause n) c (by decide : 20 + 4 ≤ 32) hc
  have rtt := s.get_put_apart (Fd.WGL_LINK_STAT_cause n) (Fd.WGL_LINK_STAT_rtt_ns n) c (by decide : 20 + 4 ≤ 32)
    (.inr (.inl (by decide : 0 + 16 ≤ 20)))
  unfold State.trayFailed
  generalize s.put (Fd.WGL_LINK_STAT_cause n) c = t at *
  have apart (f : Fld) (hf : f.lo + f.len ≤ 28) : (t.put (Fd.WGL_LINK_STAT_state n) 5).get f = t.get f :=
    t.get_put_apart (Fd.WGL_LINK_STAT_state n) f 5 (by decide : 28 + 4 ≤ 32) (.inr (.inl hf))
  exact ⟨(apart _ (by decide : 20 + 4 ≤ 28)).trans cause,
    t.get_put_small (Fd.WGL_LINK_STAT_state n) 5 (by decide : 28 + 4 ≤ 32) (by decide : 5 < 2 ^ 4),
    (apart _ (by decide : 0 + 16 ≤ 28)).trans rtt⟩

/-- The registers of a Waggle lane that serves. -/
def State.trayServes : State :=
  (s.put (Fd.WGL_LANE_STAT_version n) (min 3 (highest % 4))).put (Fd.WGL_LINK_STAT_state n) s.serveState

/-- The silent frames of a Waggle lane that has trained are counted anew. -/
def State.trayHeard : State := { s with link := { s.link with waggleSilent := vset s.link.waggleSilent n 0 } }

theorem State.trayUp_eq : s.trayUp n highest = ((s.trayServes n highest).trayHeard n).setLane n
    { ((s.trayServes n highest).trayHeard n).lane n with goTrained := false } := rfl

theorem State.trayServes_regsOff : (s.trayServes n highest).regsOff (· ∈ [Reg.WGL_LINK_STAT n, Reg.WGL_LANE_STAT n]) s :=
  .put (f := Fd.WGL_LINK_STAT_state n) (.put (f := Fd.WGL_LANE_STAT_version n) (.rfl' s) (by simp [Fd.WGL_LANE_STAT_version]) _)
    (by simp [Fd.WGL_LINK_STAT_state]) _

theorem State.trayServes_shown : (s.trayServes n highest).get (Fd.WGL_LINK_STAT_state n) = s.serveState ∧
    (s.trayServes n highest).get (Fd.WGL_LANE_STAT_version n) = highest % 4 ∧
    (s.trayServes n highest).get (Fd.WGL_LINK_STAT_rtt_ns n) = s.get (Fd.WGL_LINK_STAT_rtt_ns n) := by
  obtain ⟨ne, -⟩ := wglLane_ne_link n
  have version := s.get_put_small (Fd.WGL_LANE_STAT_version n) (min 3 (highest % 4)) (by decide : 30 + 2 ≤ 32)
    (by show min 3 (highest % 4) < 4; omega)
  have rtt := s.get_put_apart (Fd.WGL_LANE_STAT_version n) (Fd.WGL_LINK_STAT_rtt_ns n) (min 3 (highest % 4)) (by decide : 30 + 2 ≤ 32) (.inl ne.symm)
  unfold State.trayServes
  generalize s.put (Fd.WGL_LANE_STAT_version n) (min 3 (highest % 4)) = t at *
  refine ⟨t.get_put_small (Fd.WGL_LINK_STAT_state n) _ (by decide : 28 + 4 ≤ 32) s.serveState_lt, ?_, ?_⟩
  · rw [t.get_put_apart (Fd.WGL_LINK_STAT_state n) (Fd.WGL_LANE_STAT_version n) _ (by decide : 28 + 4 ≤ 32) (.inl ne), version]
    omega
  · rw [t.get_put_apart (Fd.WGL_LINK_STAT_state n) (Fd.WGL_LINK_STAT_rtt_ns n) _ (by decide : 28 + 4 ≤ 32)
      (.inr (.inl (by decide : 0 + 16 ≤ 28))), rtt]

theorem State.trayHeard_regs : (s.trayHeard n).regs = s.regs := rfl

theorem State.trayHeard_silent : vget (s.trayHeard n).link.waggleSilent n = 0 := vget_vset_same _ _ _

theorem State.trayUp_within : (s.trayUp n highest).within s [.regs, .wgl, .link] := TrainT.within (TrainT.trayUp (TrainT.rfl' s) n highest)

theorem State.trayUp_regs : (s.trayUp n highest).regs = (s.trayServes n highest).regs := by
  rw [s.trayUp_eq]
  have heard := (s.trayServes n highest).trayHeard_regs n
  generalize (s.trayServes n highest).trayHeard n = t at *
  exact ((t.setLane_within n _) .regs (by decide)).trans heard

/-- What a Waggle lane shows and holds that serves (R351). -/
theorem State.trayUp_shown : (s.trayUp n highest).get (Fd.WGL_LINK_STAT_state n) = s.serveState ∧
    (s.trayUp n highest).get (Fd.WGL_LANE_STAT_version n) = highest % 4 ∧
    (s.trayUp n highest).get (Fd.WGL_LINK_STAT_rtt_ns n) = s.get (Fd.WGL_LINK_STAT_rtt_ns n) ∧
    vget (s.trayUp n highest).link.waggleSilent n = 0 := by
  obtain ⟨state, version, rtt⟩ := s.trayServes_shown n highest
  have regs := s.trayUp_regs n highest
  refine ⟨(State.get_congr regs _).trans state, (State.get_congr regs _).trans version, (State.get_congr regs _).trans rtt, ?_⟩
  rw [s.trayUp_eq]
  have silent := (s.trayServes n highest).trayHeard_silent n
  generalize (s.trayServes n highest).trayHeard n = t at *
  exact (congrArg (fun x : LinkRt => vget x.waggleSilent n) ((t.setLane_within n _) .link (by decide))).trans silent

theorem State.trainTray_failed (h : trayCause rttNs fail highest ≠ 0) :
    s.trainTray n rttNs fail highest = (s.trayAttempt n rttNs).trayFailed n (trayCause rttNs fail highest) := if_pos h

theorem State.trainTray_up (h : trayCause rttNs fail highest = 0) : s.trainTray n rttNs fail highest = (s.trayAttempt n rttNs).trayUp n highest :=
  if_neg (not_not.2 h)

/-- An attempt of a Waggle lane that fails shows its cause (Table 12-3). -/
theorem State.trainTray_fails (hf : fail < 16) (h : trayCause rttNs fail highest ≠ 0) :
    (s.trainTray n rttNs fail highest).get (Fd.WGL_LINK_STAT_cause n) = trayCause rttNs fail highest ∧
    (s.trainTray n rttNs fail highest).get (Fd.WGL_LINK_STAT_state n) = 5 ∧
    (s.trainTray n rttNs fail highest).withinRegs s [Reg.WGL_LINK_STAT n, Reg.WGL_LINK_CNT n] ∧
    (s.trainTray n rttNs fail highest).within s [.regs] := by
  rw [s.trainTray_failed n rttNs fail highest h]
  have off := s.trayAttempt_regsOff n rttNs
  have parts := s.trayAttempt_within n rttNs
  generalize s.trayAttempt n rttNs = t at *
  obtain ⟨cause, state, -⟩ := t.trayFailed_shown n (trainCause_lt hf : trayCause rttNs fail highest < 16)
  have off' := (t.trayFailed_regsOff n (trayCause rttNs fail highest)).mono (Q := (· ∈ trayShown n)) fun a ha =>
    List.mem_singleton.1 ha ▸ List.mem_cons_self
  exact ⟨cause, state, (off'.trans off).withinRegs, (t.trayFailed_within n _).trans parts⟩

/-- A Waggle lane that trains serves in the lesser version (R351). -/
theorem State.trainTray_trains (h : trayCause rttNs fail highest = 0) :
    (s.trainTray n rttNs fail highest).get (Fd.WGL_LINK_STAT_state n) = s.serveState ∧
    (s.trainTray n rttNs fail highest).get (Fd.WGL_LANE_STAT_version n) = highest % 4 ∧
    vget (s.trainTray n rttNs fail highest).link.waggleSilent n = 0 ∧
    (s.trainTray n rttNs fail highest).withinRegs s [Reg.WGL_LINK_STAT n, Reg.WGL_LINK_CNT n, Reg.WGL_LANE_STAT n] ∧
    (s.trainTray n rttNs fail highest).within s [.regs, .wgl, .link] := by
  rw [s.trainTray_up n rttNs fail highest h]
  have off := (s.trayAttempt_regsOff n rttNs).mono (Q := (· ∈ [Reg.WGL_LINK_STAT n, Reg.WGL_LINK_CNT n, Reg.WGL_LANE_STAT n]))
    (by simp [trayShown])
  have parts := s.trayAttempt_within n rttNs
  generalize s.trayAttempt n rttNs = t at *
  have off' := (t.trayServes_regsOff n highest).mono (Q := (· ∈ [Reg.WGL_LINK_STAT n, Reg.WGL_LINK_CNT n, Reg.WGL_LANE_STAT n])) (by simp)
  have serve : t.serveState = s.serveState := congrArg (fun x : PinRt => if x.valid then 2 else 3) (parts .pins (by decide))
  obtain ⟨state, version, -, silent⟩ := t.trayUp_shown n highest
  exact ⟨state.trans serve, version, silent, ((off'.of_regs (t.trayUp_regs n highest)).trans off).withinRegs,
    (t.trayUp_within n highest).trans (parts.mono (by decide))⟩

/-- Every attempt of a Waggle lane is counted, with the round trip measured. -/
theorem State.trainTray_counted (hf : fail < 16) :
    (s.trainTray n rttNs fail highest).get (Fd.WGL_LINK_CNT_trainings n) = (s.get (Fd.WGL_LINK_CNT_trainings n) + 1) % 256 ∧
    (s.trainTray n rttNs fail highest).get (Fd.WGL_LINK_STAT_rtt_ns n) = min 65535 rttNs := by
  obtain ⟨count, rtt⟩ := s.trayAttempt_shown n rttNs
  obtain ⟨-, ne⟩ := wglLane_ne_link n
  by_cases h : trayCause rttNs fail highest = 0
  · rw [s.trainTray_up n rttNs fail highest h]
    generalize s.trayAttempt n rttNs = t at *
    obtain ⟨-, -, rtt', -⟩ := t.trayUp_shown n highest
    have count' := ((t.trayServes_regsOff n highest).of_regs (t.trayUp_regs n highest)).get (f := Fd.WGL_LINK_CNT_trainings n)
      (by simp [Fd.WGL_LINK_CNT_trainings, ne.symm, (wglStat_ne_cnt n).symm])
    exact ⟨count'.trans count, rtt'.trans rtt⟩
  · rw [s.trainTray_failed n rttNs fail highest h]
    generalize s.trayAttempt n rttNs = t at *
    obtain ⟨-, -, rtt'⟩ := t.trayFailed_shown n (trainCause_lt hf : trayCause rttNs fail highest < 16)
    have count' := (t.trayFailed_regsOff n (trayCause rttNs fail highest)).get (f := Fd.WGL_LINK_CNT_trainings n)
      fun m => (wglStat_ne_cnt n).symm (List.mem_singleton.1 m)
    exact ⟨count'.trans count, rtt'.trans rtt⟩

end

end Sys2Proof.Machine
end

section
/-! Chapter 12: stage telemetry, silent lanes, the LOCK link, and unreachable stages (R35, R333, R339, R340, R349). -/

namespace Sys2Proof.Machine

/-! ## Stage telemetry -/

section
variable (s : State) (n : Fin 26) (cyc : Nat) (ok : Bool) (x : Telemetry)

theorem State.atCycle_lane : (s.atCycle cyc).stageDecl n = s.stageDecl n ∧
    (s.atCycle cyc).get (Fd.STL_LANE_STAT_version n) = s.get (Fd.STL_LANE_STAT_version n) ∧
    teleValid (s.atCycle cyc) n ok x = teleValid s n ok x := ⟨rfl, rfl, rfl⟩

/-- The three ways of a telemetry frame, read in the state at its arrival. -/
theorem execStageTelemetry_cases : execStageTelemetry n cyc ok x s = .next (
    if (!s.stageDecl n || s.get (Fd.STL_LANE_STAT_version n) == 0) = true then s.atCycle cyc
    else if (!teleValid s n ok x) = true then (s.atCycle cyc).bump (Fd.STL_LANE_CNT_crc_err n)
    else (s.atCycle cyc).enterTele n x) := by
  obtain ⟨decl, version, valid⟩ := s.atCycle_lane n cyc ok x
  rw [← decl, ← version, ← valid]
  rfl

theorem execStageTelemetry_none (h : s.stageDecl n = false ∨ s.get (Fd.STL_LANE_STAT_version n) = 0) :
    execStageTelemetry n cyc ok x s = .next (s.atCycle cyc) :=
  (execStageTelemetry_cases s n cyc ok x).trans (congrArg Host.Outcome.next (if_pos (by simpa using h)))

theorem execStageTelemetry_bad (hd : s.stageDecl n = true) (hv : s.get (Fd.STL_LANE_STAT_version n) ≠ 0)
    (h : ok = false ∨ x.ver ≠ s.get (Fd.STL_LANE_STAT_version n)) :
    execStageTelemetry n cyc ok x s = .next ((s.atCycle cyc).bump (Fd.STL_LANE_CNT_crc_err n)) := by
  have bad : (!teleValid s n ok x) = true := by
    unfold teleValid
    rcases h with h | h <;> simp [h]
  exact (execStageTelemetry_cases s n cyc ok x).trans (congrArg Host.Outcome.next ((if_neg (by simp [hd, hv])).trans (if_pos bad)))

theorem execStageTelemetry_good (hd : s.stageDecl n = true) (hv : s.get (Fd.STL_LANE_STAT_version n) ≠ 0) (ho : ok = true)
    (hx : x.ver = s.get (Fd.STL_LANE_STAT_version n)) : execStageTelemetry n cyc ok x s = .next ((s.atCycle cyc).enterTele n x) := by
  have good : ¬(!teleValid s n ok x) = true := by
    unfold teleValid
    simp [ho, hx, hv]
  exact (execStageTelemetry_cases s n cyc ok x).trans (congrArg Host.Outcome.next ((if_neg (by simp [hd, hv])).trans (if_neg good)))

/-- An invalid frame is counted at its lane (R339). -/
theorem State.bump_crcErr (s : State) (n : Fin 26) (cyc : Nat) : ∃ t, t = (s.atCycle cyc).bump (Fd.STL_LANE_CNT_crc_err n) ∧
    t.get (Fd.STL_LANE_CNT_crc_err n) = (s.get (Fd.STL_LANE_CNT_crc_err n) + 1) % 65536 ∧ t.inp = s.inp ∧
    t.withinRegs s [Reg.STL_LANE_CNT n] ∧ t.within s [.regs, .time] := by
  have regs : (s.atCycle cyc).regs = s.regs := s.atCycle_regs cyc
  have parts : (s.atCycle cyc).within s [.regs, .time] := (s.atCycle_within cyc).mono (by decide)
  have inp : (s.atCycle cyc).inp = s.inp := parts .inp (by decide)
  generalize s.atCycle cyc = u at *
  have counted := u.get_bump_same (Fd.STL_LANE_CNT_crc_err n) (by decide : 16 + 16 ≤ 32)
  have off : (u.bump (Fd.STL_LANE_CNT_crc_err n)).regsOff (· ∈ [Reg.STL_LANE_CNT n]) s :=
    .bump (f := Fd.STL_LANE_CNT_crc_err n) ((State.regsOff.rfl' s).of_regs regs) (List.mem_singleton.2 rfl)
  have bumped : (u.bump (Fd.STL_LANE_CNT_crc_err n)).within s [.regs, .time] := parts.bump (by decide) _
  have kept := (u.bump_inp (Fd.STL_LANE_CNT_crc_err n)).trans inp
  refine ⟨_, rfl, counted.trans ?_, kept, off.withinRegs, bumped⟩
  rw [State.get_congr regs]
  rfl

/-- A valid frame is an input of the next frame, and its lane has been heard (R35). -/
theorem State.enterTele_enters : (s.enterTele n x).inp = { s.inp with nextTele := vset s.inp.nextTele n (some x) } ∧
    ((s.enterTele n x).stl n).heard = true ∧ (∀ m, m ≠ n → (s.enterTele n x).stl m = s.stl m) ∧
    (s.enterTele n x).within s [.inp, .link] := by
  have link : (s.enterTele n x).within s [.inp, .link] := ((State.within_inp _ _).mono (by decide)).trans ((s.within_link _).mono (by decide))
  refine ⟨rfl, ?_, fun m hm => ?_, link⟩ <;> unfold State.enterTele State.stl State.setStl
  · rw [vget_vset_same]
  · exact vget_vset_other _ _ hm

end

/-! ## Silent lanes -/

section
variable (s : State)

/-- A lane's state that is left for TRAIN under a condition. -/
theorem State.retrain_state (f : Fld) (hf : f.lo + f.len ≤ 32) (h4 : f.len = 4) {c : Bool} {P : Prop} [Decidable P] (hc : c = true ↔ P) :
    (if c = true then s.put f 1 else s).get f = if P then 1 else s.get f := by
  by_cases h : P
  · rw [if_pos (hc.2 h), if_pos h, s.get_put_small f 1 hf (by rw [h4]; decide)]
  · rw [if_neg fun e => h (hc.1 e), if_neg h]

theorem State.retrain_frame (f : Fld) (c : Bool) : (if c = true then s.put f 1 else s).withinRegs s [f.addr] ∧
    (if c = true then s.put f 1 else s).within s [.regs] :=
  ⟨State.regsOff.withinRegs (.ite (fun _ => .put (.rfl' s) (List.mem_singleton.2 rfl) _) fun _ => .rfl' s),
    .ite (fun _ => .put (.rfl' s) (by decide) _ _) fun _ => .rfl' s⟩

/-- A stage lane is silent: trained, and without a valid frame in 16 frames. -/
def State.stageSilent (s : State) (n : Fin 26) : Bool :=
  (s.get (Fd.STL_LANE_STAT_state n) == 2 || s.get (Fd.STL_LANE_STAT_state n) == 3) && decide (16 ≤ (s.stl n).silent)

/-- A Waggle lane is silent. -/
def State.traySilent (s : State) (n : Fin 16) : Bool :=
  (s.get (Fd.WGL_LINK_STAT_state n) == 2 || s.get (Fd.WGL_LINK_STAT_state n) == 3) && decide (16 ≤ vget s.link.waggleSilent n)

theorem execLaneSilent_stage (n : Fin 26) :
    execLaneSilent ⟨n.val, by omega⟩ s = .next (if s.stageSilent n = true then s.put (Fd.STL_LANE_STAT_state n) 1 else s) :=
  congrArg Host.Outcome.next (dif_pos n.isLt)

theorem tray_of_lane (n : Fin 16) (h : 26 + n.val - 26 < 16) : (⟨26 + n.val - 26, h⟩ : Fin 16) = n := Fin.ext (Nat.add_sub_cancel_left ..)

theorem execLaneSilent_tray (n : Fin 16) :
    execLaneSilent ⟨26 + n.val, by omega⟩ s = .next (if s.traySilent n = true then s.put (Fd.WGL_LINK_STAT_state n) 1 else s) := by
  exact congrArg Host.Outcome.next ((dif_neg (by simp)).trans
    (congrArg (fun t : Fin 16 => if s.traySilent t = true then s.put (Fd.WGL_LINK_STAT_state t) 1 else s) (tray_of_lane n (by omega))))

end

/-! ## The LOCK link -/

section
variable (s : State)

/-- A training of the LOCK link is shown: its round trip, and the lanes that answered. -/
def State.lockMeasured (s : State) (rttNs cause : Nat) : State :=
  if cause = 1 then s.put Fd.LKS_LOCK_STAT_rtt_ns (min 65535 rttNs)
  else (s.put Fd.LKS_LOCK_STAT_rtt_ns (min 65535 rttNs)).put Fd.LKS_LOCK_STAT_lanes_up 0xF

/-- The result of a training of the LOCK link is held. -/
def State.lockHeld (s : State) (up : Bool) : State := { s with lks := { s.lks with lockUp := up } }

/-- What the result of a training of the LOCK link shows. -/
def State.lockShown (s : State) (cause : Nat) : State :=
  if cause ≠ 0 then (s.put Fd.LKS_LOCK_STAT_cause cause).put Fd.LKS_LOCK_STAT_state 5 else s.put Fd.LKS_LOCK_STAT_state s.serveState

theorem State.trainLock_eq (rttNs cause : Nat) : s.trainLock rttNs cause = ((s.lockMeasured rttNs cause).lockHeld (cause == 0)).lockShown cause := rfl

theorem State.lockMeasured_regsOff (rttNs cause : Nat) : (s.lockMeasured rttNs cause).regsOff (· ∈ [Reg.LKS_LOCK_STAT]) s := by
  have rtt : (s.put Fd.LKS_LOCK_STAT_rtt_ns (min 65535 rttNs)).regsOff (· ∈ [Reg.LKS_LOCK_STAT]) s := .put (.rfl' s) (by decide) _
  unfold State.lockMeasured
  generalize s.put Fd.LKS_LOCK_STAT_rtt_ns (min 65535 rttNs) = t at *
  exact .ite (fun _ => rtt) fun _ => .put rtt (by decide) _

theorem State.lockMeasured_within (rttNs cause : Nat) : (s.lockMeasured rttNs cause).within s [.regs] := by
  have rtt : (s.put Fd.LKS_LOCK_STAT_rtt_ns (min 65535 rttNs)).within s [.regs] := .put (.rfl' s) (by decide) _ _
  unfold State.lockMeasured
  generalize s.put Fd.LKS_LOCK_STAT_rtt_ns (min 65535 rttNs) = t at *
  exact .ite (fun _ => rtt) fun _ => .put rtt (by decide) _ _

theorem State.lockMeasured_shown (rttNs cause : Nat) : (s.lockMeasured rttNs cause).get Fd.LKS_LOCK_STAT_rtt_ns = min 65535 rttNs ∧
    (cause ≠ 1 → (s.lockMeasured rttNs cause).get Fd.LKS_LOCK_STAT_lanes_up = 15) := by
  have rtt := s.get_put_small Fd.LKS_LOCK_STAT_rtt_ns (min 65535 rttNs) (by decide) (by show min 65535 rttNs < 65536; omega)
  unfold State.lockMeasured
  generalize s.put Fd.LKS_LOCK_STAT_rtt_ns (min 65535 rttNs) = t at *
  by_cases h : cause = 1
  · rw [if_pos h]
    exact ⟨rtt, fun h' => absurd h h'⟩
  · rw [if_neg h, t.get_put_apart _ _ _ (by decide) (.inr (by decide)), rtt]
    exact ⟨rfl, fun _ => t.get_put_small _ _ (by decide) (by decide)⟩

theorem State.lockShown_regsOff (cause : Nat) : (s.lockShown cause).regsOff (· ∈ [Reg.LKS_LOCK_STAT]) s :=
  .ite (fun _ => .put (.put (.rfl' s) (by decide) _) (by decide) _) fun _ => .put (.rfl' s) (by decide) _

theorem State.lockShown_within (cause : Nat) : (s.lockShown cause).within s [.regs] :=
  .ite (fun _ => .put (.put (.rfl' s) (by decide) _ _) (by decide) _ _) fun _ => .put (.rfl' s) (by decide) _ _

/-- A link that trained serves; one that did not shows its cause (R349). -/
theorem State.lockShown_shown {cause : Nat} (hc : cause < 16) :
    (s.lockShown cause).get Fd.LKS_LOCK_STAT_rtt_ns = s.get Fd.LKS_LOCK_STAT_rtt_ns ∧
    (cause = 0 → (s.lockShown cause).get Fd.LKS_LOCK_STAT_state = s.serveState ∧
      (s.lockShown cause).get Fd.LKS_LOCK_STAT_lanes_up = s.get Fd.LKS_LOCK_STAT_lanes_up) ∧
    (cause ≠ 0 → (s.lockShown cause).get Fd.LKS_LOCK_STAT_state = 5 ∧ (s.lockShown cause).get Fd.LKS_LOCK_STAT_cause = cause) := by
  by_cases h : cause = 0
  · have up : s.lockShown cause = s.put Fd.LKS_LOCK_STAT_state s.serveState := if_neg (not_not.2 h)
    rw [up]
    exact ⟨s.get_put_apart _ _ _ (by decide) (.inr (by decide)), fun _ => ⟨s.get_put_small _ _ (by decide) s.serveState_lt,
      s.get_put_apart _ _ _ (by decide) (.inr (by decide))⟩, fun h' => absurd h h'⟩
  · have down : s.lockShown cause = (s.put Fd.LKS_LOCK_STAT_cause cause).put Fd.LKS_LOCK_STAT_state 5 := if_pos h
    have shown := s.get_put_small Fd.LKS_LOCK_STAT_cause cause (by decide) hc
    have rtt := s.get_put_apart Fd.LKS_LOCK_STAT_cause Fd.LKS_LOCK_STAT_rtt_ns cause (by decide) (.inr (by decide))
    rw [down]
    generalize s.put Fd.LKS_LOCK_STAT_cause cause = t at *
    refine ⟨(t.get_put_apart _ _ _ (by decide) (.inr (by decide))).trans rtt, fun h' => absurd h' h,
      fun _ => ⟨t.get_put_small _ _ (by decide) (by decide), ?_⟩⟩
    exact (t.get_put_apart _ _ _ (by decide) (.inr (by decide))).trans shown

theorem State.lockHeld_within (up : Bool) : (s.lockHeld up).within s [.lks] := s.within_lks _

theorem lockCause_eq_zero (rttNs fail version : Nat) : lockCause rttNs fail version = 0 ↔ fail = 0 ∧ rttNs ≤ 200 ∧ version = 1 := by
  unfold lockCause
  split_ifs <;> simp_all

theorem lockCause_lt {rttNs fail version : Nat} (h : fail < 16) : lockCause rttNs fail version < 16 := by
  unfold lockCause
  split_ifs <;> omega

/-- The cause of a link that did not train. -/
theorem lockCause_down {rttNs fail version : Nat} (h : lockCause rttNs fail version ≠ 0) :
    lockCause rttNs fail version = if fail ≠ 0 then fail else if 200 < rttNs then 2 else 5 := by
  unfold lockCause at h ⊢
  by_cases hf : fail = 0
  · rw [if_neg (not_not.2 hf)] at h ⊢
    rw [if_neg (not_not.2 hf)]
    by_cases hr : 200 < rttNs
    · rw [if_pos hr, if_pos hr]
    · rw [if_neg hr] at h ⊢
      rw [if_neg hr]
      exact if_pos fun hv => h (if_neg (not_not.2 hv))
  · rw [if_pos hf, if_pos hf]

/-- A training of the LOCK link, by its cause (R349). -/
theorem State.trainLock_trains (rttNs : Nat) {cause : Nat} (hc : cause < 16) :
    (s.trainLock rttNs cause).get Fd.LKS_LOCK_STAT_rtt_ns = min 65535 rttNs ∧
    (s.trainLock rttNs cause).lks = { s.lks with lockUp := cause == 0 } ∧
    (cause = 0 → (s.trainLock rttNs cause).get Fd.LKS_LOCK_STAT_state = s.serveState ∧
      (s.trainLock rttNs cause).get Fd.LKS_LOCK_STAT_lanes_up = 15) ∧
    (cause ≠ 0 → (s.trainLock rttNs cause).get Fd.LKS_LOCK_STAT_state = 5 ∧ (s.trainLock rttNs cause).get Fd.LKS_LOCK_STAT_cause = cause) ∧
    (s.trainLock rttNs cause).withinRegs s [Reg.LKS_LOCK_STAT] ∧ (s.trainLock rttNs cause).within s [.regs, .lks] := by
  obtain ⟨rtt, lanes⟩ := s.lockMeasured_shown rttNs cause
  have off := s.lockMeasured_regsOff rttNs cause
  have parts := s.lockMeasured_within rttNs cause
  have within := TrainL.within (TrainL.trainLock (TrainL.rfl' s) rttNs cause)
  rw [s.trainLock_eq] at within ⊢
  generalize s.lockMeasured rttNs cause = t at *
  have held := t.lockHeld_within (cause == 0)
  have lks : (t.lockHeld (cause == 0)).lks = { s.lks with lockUp := cause == 0 } :=
    congrArg (fun x : LksRt => { x with lockUp := cause == 0 }) (parts .lks (by decide))
  have serve : (t.lockHeld (cause == 0)).serveState = s.serveState :=
    congrArg (fun x : PinRt => if x.valid then 2 else 3) ((held .pins (by decide)).trans (parts .pins (by decide)))
  have regs : (t.lockHeld (cause == 0)).regs = t.regs := held .regs (by decide)
  generalize t.lockHeld (cause == 0) = r at *
  obtain ⟨rtt', up, down⟩ := r.lockShown_shown hc
  refine ⟨by rw [rtt', State.get_congr regs, rtt], ((r.lockShown_within cause) .lks (by decide)).trans lks, fun h => ?_, down, ?_, within⟩
  · obtain ⟨state, lanes'⟩ := up h
    exact ⟨state.trans serve, by rw [lanes', State.get_congr regs, lanes (by omega)]⟩
  · exact State.regsOff.withinRegs ((r.lockShown_regsOff cause).trans (off.of_regs regs))

end

end Sys2Proof.Machine
end

section
/-! Chapters 05 and 12: stages out of service, and the stages that no telemetry reaches (R131, R146, R340). -/

namespace Sys2Proof.Machine

/-! ## The fences of the other output stages -/

/-- The registers in which the combiner shows its output stages. -/
def inStages (a : Nat) : Prop := 0x40040000 ≤ a ∧ a < 0x40040140

theorem inStages_os (k : Fin 16) : inStages (Reg.ZFB_OS k) := by
  have hk := k.isLt
  unfold inStages Reg.ZFB_OS
  omega

theorem inStages_combStat : inStages Reg.ZFB_COMB_STAT := by
  unfold inStages
  decide

theorem os_ne_combStat (k : Nat) : Reg.ZFB_OS k ≠ Reg.ZFB_COMB_STAT := by
  unfold Reg.ZFB_OS Reg.ZFB_COMB_STAT
  omega

theorem os_injective {j k : Nat} (h : j ≠ k) : Reg.ZFB_OS j ≠ Reg.ZFB_OS k := by
  unfold Reg.ZFB_OS
  omega

/-- The output stages that `P` names are fenced in `t` as in `s`, and a fenced one shows what it showed. -/
def State.fencesAs (P : Nat → Prop) (t s : State) : Prop :=
  ∀ j, P j → (s.osState j = 0xA → t.rd (Reg.ZFB_OS j) = s.rd (Reg.ZFB_OS j)) ∧ (t.osState j = 0xA → s.osState j = 0xA)

section
variable {P : Nat → Prop} {s t : State}

theorem State.osState_congr (j : Nat) (h : t.rd (Reg.ZFB_OS j) = s.rd (Reg.ZFB_OS j)) : t.osState j = s.osState j := by
  unfold State.osState State.get
  rw [show (Fd.ZFB_OS_state j).addr = Reg.ZFB_OS j from rfl, h]

theorem State.fencesAs.of_rd (h : ∀ j, P j → t.rd (Reg.ZFB_OS j) = s.rd (Reg.ZFB_OS j)) : t.fencesAs P s := fun j hj =>
  ⟨fun _ => h j hj, fun fenced => (State.osState_congr j (h j hj)).symm.trans fenced⟩

theorem State.fencesAs.osState_iff (h : t.fencesAs P s) {j : Nat} (hj : P j) : t.osState j = 0xA ↔ s.osState j = 0xA :=
  ⟨(h j hj).2, fun fenced => (State.osState_congr j ((h j hj).1 fenced)).trans fenced⟩

theorem State.fencesAs.trans {r : State} (h : t.fencesAs P s) (h' : s.fencesAs P r) : t.fencesAs P r := fun j hj =>
  ⟨fun fenced => ((h j hj).1 ((h'.osState_iff hj).2 fenced)).trans ((h' j hj).1 fenced), fun fenced => (h' j hj).2 ((h j hj).2 fenced)⟩

theorem State.fencesAs.ite {c : Prop} {_ : Decidable c} {u : State} (ht : c → t.fencesAs P s) (hu : ¬c → u.fencesAs P s) :
    (if c then t else u).fencesAs P s := by
  split
  · exact ht ‹_›
  · exact hu ‹_›

theorem State.fencesAs.foldl {α : Type} {l : List α} {f : State → α → State} (hf : ∀ i u, u.fencesAs P s → (f u i).fencesAs P s)
    (h : t.fencesAs P s) : (l.foldl f t).fencesAs P s := by
  induction l generalizing t with
  | nil => exact h
  | cons i l ih => exact ih (hf i t h)

theorem State.fencesAs.each {n : Nat} {f : Nat → State → State} (hf : ∀ i u, u.fencesAs P s → (f i u).fencesAs P s) (h : t.fencesAs P s) :
    (State.each n f t).fencesAs P s := State.fencesAs.foldl hf h

variable (s)

theorem State.putOs_regsOff (k st w : Nat) : (s.putOs k st w).regsOff (· ∈ [Reg.ZFB_OS k]) s :=
  .put (f := Fd.ZFB_OS_weight k) (.put (f := Fd.ZFB_OS_state k) (.rfl' s) (List.mem_singleton.2 rfl) _) (List.mem_singleton.2 rfl) _

theorem State.osState_putOs (k w : Nat) {st : Nat} (h : st < 16) : (s.putOs k st w).osState k = st := by
  have shown := s.get_put_small (Fd.ZFB_OS_state k) st (by decide : 12 + 4 ≤ 32) h
  unfold State.putOs State.osState
  generalize s.put (Fd.ZFB_OS_state k) st = t at *
  exact (t.get_put_apart (Fd.ZFB_OS_weight k) (Fd.ZFB_OS_state k) w (by decide : 0 + 10 ≤ 32) (.inr (.inr (by decide : 0 + 10 ≤ 12)))).trans shown

/-- A stage that is not fenced and adds again stays without a fence. -/
theorem State.putOs_fencesAs (k : Nat) (h : s.osState k ≠ 0xA) : (s.putOs k 9 512).fencesAs P s := fun j _ => by
  by_cases hj : j = k
  · subst hj
    exact ⟨fun fenced => absurd fenced h, fun fenced => absurd ((s.osState_putOs j 512 (by decide)).symm.trans fenced) (by decide)⟩
  · have kept : (s.putOs k 9 512).rd (Reg.ZFB_OS j) = s.rd (Reg.ZFB_OS j) :=
      s.putOs_regsOff k 9 512 _ fun m => os_injective hj (List.mem_singleton.1 m)
    exact ⟨fun _ => kept, fun fenced => (State.osState_congr j kept).symm.trans fenced⟩

/-- The stages that were shed are restored; a fenced one is not among them (R150). -/
theorem State.restoreShed_fencesAs (z : Nat) : (s.restoreShed z).fencesAs P s := by
  refine State.fencesAs.each (fun k u h => .ite (fun shed => (u.putOs_fencesAs k ?_).trans h) fun _ => h) (.of_rd fun _ _ => rfl)
  simp only [Bool.and_eq_true, Bool.or_eq_true, beq_iff_eq] at shed
  omega

theorem State.restoreShed_regsOff (z : Nat) : (s.restoreShed z).regsOff inStages s :=
  State.regsOff.each (fun k hk u hu => .ite (fun _ => ((u.putOs_regsOff k 9 512).mono fun _ ha =>
    List.mem_singleton.1 ha ▸ inStages_os ⟨k, hk⟩).trans hu) fun _ => hu) (.rfl' s)

theorem State.restoreShed_within (z : Nat) : (s.restoreShed z).within s [.regs] :=
  (RegOnly.restoreShed (RegOnly.rfl' s) z).within

theorem State.leaveBatch_regsOff (k : Fin 16) : (s.leaveBatch k).regsOff (· ∈ [Reg.ZFB_COMB_STAT]) s := by
  have shown : (s.setFlag Fd.ZFB_COMB_STAT_fenced_in_batch true).regsOff (· ∈ [Reg.ZFB_COMB_STAT]) s := .setFlag (.rfl' s) (by decide) _
  unfold State.leaveBatch
  generalize s.setFlag Fd.ZFB_COMB_STAT_fenced_in_batch true = t at *
  exact .ite (fun _ => .put shown (by decide) _) fun _ => .rfl' s

theorem State.leaveBatch_within (k : Fin 16) : (s.leaveBatch k).within s [.regs] := by
  have shown : (s.setFlag Fd.ZFB_COMB_STAT_fenced_in_batch true).within s [.regs] := .setFlag (.rfl' s) (by decide) _ _
  unfold State.leaveBatch
  generalize s.setFlag Fd.ZFB_COMB_STAT_fenced_in_batch true = t at *
  exact .ite (fun _ => .put shown (by decide) _ _) fun _ => .rfl' s

/-! ## The fence of an output stage -/

/-- The stage is shown as fenced, with its cause. -/
def State.fenceShown (k : Fin 16) (cause : Nat) : State := (s.put (Fd.ZFB_OS_state k) 0xA).put (Fd.ZFB_OS_fence_cause k) cause

/-- The stage is out of service, before what it had shed is restored. -/
def State.fenceHeld (k : Fin 16) (cause : Nat) : State := ((s.fenceShown k cause).leaveBatch k).setOs k (s.os k).fenced

theorem State.fenceOs_eq (k : Fin 16) (cause : Nat) : s.fenceOs k cause =
    if (s.fenceHeld k cause).osZone k < 4 then (s.fenceHeld k cause).restoreShed ((s.fenceHeld k cause).osZone k) else s.fenceHeld k cause := rfl

theorem State.fenceShown_regsOff (k : Fin 16) (cause : Nat) : (s.fenceShown k cause).regsOff (· ∈ [Reg.ZFB_OS k]) s :=
  .put (f := Fd.ZFB_OS_fence_cause k) (.put (f := Fd.ZFB_OS_state k) (.rfl' s) (List.mem_singleton.2 rfl) _) (List.mem_singleton.2 rfl) _

theorem State.fenceShown_shown (k : Fin 16) {cause : Nat} (h : cause < 8) : (s.fenceShown k cause).osState k = 0xA ∧
    (s.fenceShown k cause).get (Fd.ZFB_OS_fence_cause k) = cause := by
  have shown := s.get_put_small (Fd.ZFB_OS_state k) 0xA (by decide : 12 + 4 ≤ 32) (by decide : 10 < 2 ^ 4)
  unfold State.fenceShown State.osState
  generalize s.put (Fd.ZFB_OS_state k) 0xA = t at *
  exact ⟨(t.get_put_apart (Fd.ZFB_OS_fence_cause k) (Fd.ZFB_OS_state k) cause (by decide : 24 + 3 ≤ 32)
    (.inr (.inl (by decide : 12 + 4 ≤ 24)))).trans shown,
    t.get_put_small (Fd.ZFB_OS_fence_cause k) cause (by decide : 24 + 3 ≤ 32) h⟩

theorem State.setOs_regs (k : Fin 16) (o : OsRt) : (s.setOs k o).regs = s.regs := rfl

theorem State.setOs_within (k : Fin 16) (o : OsRt) : (s.setOs k o).within s [.zfb] := s.within_zfb _

theorem State.setOs_fences (k : Fin 16) (o : OsRt) :
    (s.setOs k o).zfb.ssFenced = s.zfb.ssFenced ∧ (s.setOs k o).zfb.feFenced = s.zfb.feFenced := ⟨rfl, rfl⟩

theorem State.fenceHeld_regsOff (k : Fin 16) (cause : Nat) : (s.fenceHeld k cause).regsOff (· ∈ [Reg.ZFB_COMB_STAT]) (s.fenceShown k cause) :=
  ((s.fenceShown k cause).leaveBatch_regsOff k).of_regs (State.setOs_regs _ k _)

theorem State.fenceHeld_fences (k : Fin 16) (cause : Nat) :
    (s.fenceHeld k cause).zfb.ssFenced = s.zfb.ssFenced ∧ (s.fenceHeld k cause).zfb.feFenced = s.zfb.feFenced := by
  obtain ⟨ss, fe⟩ := ((s.fenceShown k cause).leaveBatch k).setOs_fences k (s.os k).fenced
  have shown : (s.fenceShown k cause).within s [.regs] := .put (.put (.rfl' s) (by decide) _ _) (by decide) _ _
  have zfb : ((s.fenceShown k cause).leaveBatch k).zfb = s.zfb := (((s.fenceShown k cause).leaveBatch_within k).trans shown) .zfb (by decide)
  exact ⟨ss.trans (congrArg ZfbRt.ssFenced zfb), fe.trans (congrArg ZfbRt.feFenced zfb)⟩

theorem State.fenceHeld_within (k : Fin 16) (cause : Nat) : (s.fenceHeld k cause).within s [.regs, .zfb] := by
  have shown : (s.fenceShown k cause).within s [.regs, .zfb] := .put (.put (.rfl' s) (by decide) _ _) (by decide) _ _
  exact ((State.setOs_within _ k _).mono (by decide)).trans ((((s.fenceShown k cause).leaveBatch_within k).mono (by decide)).trans shown)

theorem State.rd_fenceHeld (k : Fin 16) (cause : Nat) : (s.fenceHeld k cause).rd (Reg.ZFB_OS k) = (s.fenceShown k cause).rd (Reg.ZFB_OS k) :=
  s.fenceHeld_regsOff k cause _ fun m => os_ne_combStat k (List.mem_singleton.1 m)

/-- What the fence of an output stage changes (R131). -/
theorem State.fenceOs_frame (k : Fin 16) (cause : Nat) : (s.fenceOs k cause).regsOff inStages s ∧ (s.fenceOs k cause).within s [.regs, .zfb] ∧
    (s.fenceOs k cause).zfb.ssFenced = s.zfb.ssFenced ∧ (s.fenceOs k cause).zfb.feFenced = s.zfb.feFenced := by
  have held : (s.fenceHeld k cause).regsOff inStages s :=
    ((s.fenceHeld_regsOff k cause).mono fun a ha => List.mem_singleton.1 ha ▸ inStages_combStat).trans
      ((s.fenceShown_regsOff k cause).mono fun a ha => List.mem_singleton.1 ha ▸ inStages_os k)
  have parts := s.fenceHeld_within k cause
  obtain ⟨ss, fe⟩ := s.fenceHeld_fences k cause
  rw [s.fenceOs_eq]
  generalize s.fenceHeld k cause = t at *
  split
  · have zfb : (t.restoreShed (t.osZone k)).zfb = t.zfb := (t.restoreShed_within _) .zfb (by decide)
    exact ⟨(t.restoreShed_regsOff _).trans held, ((t.restoreShed_within _).mono (by decide)).trans parts,
      (congrArg ZfbRt.ssFenced zfb).trans ss, (congrArg ZfbRt.feFenced zfb).trans fe⟩
  · exact ⟨held, parts, ss, fe⟩

/-- What the fence of an output stage shows: its state and its cause; the fences of the others stand. -/
theorem State.fenceOs_shown (k : Fin 16) {cause : Nat} (h : cause < 8) : (s.fenceOs k cause).osState k = 0xA ∧
    (s.fenceOs k cause).get (Fd.ZFB_OS_fence_cause k) = cause ∧ ∀ j, j ≠ k.val → ((s.fenceOs k cause).osState j = 0xA ↔ s.osState j = 0xA) := by
  obtain ⟨state, shown⟩ := s.fenceShown_shown k h
  have own := s.rd_fenceHeld k cause
  have held : (s.fenceHeld k cause).osState k = 0xA := (State.osState_congr k own).trans state
  have heldCause : (s.fenceHeld k cause).get (Fd.ZFB_OS_fence_cause k) = cause := (congrArg (getBits · 24 3) own).trans shown
  have others : (s.fenceHeld k cause).fencesAs (· ≠ k.val) s := .of_rd fun j hj =>
    (s.fenceHeld_regsOff k cause _ fun m => os_ne_combStat j (List.mem_singleton.1 m)).trans
      (s.fenceShown_regsOff k cause _ fun m => os_injective hj (List.mem_singleton.1 m))
  rw [s.fenceOs_eq]
  generalize s.fenceHeld k cause = t at *
  split
  · have kept := t.restoreShed_fencesAs (P := fun _ => True) (t.osZone k)
    refine ⟨(kept.osState_iff trivial).2 held, (congrArg (getBits · 24 3) ((kept k trivial).1 held)).trans heldCause, fun j hj => ?_⟩
    exact (kept.osState_iff trivial).trans (others.osState_iff hj)
  · exact ⟨held, heldCause, fun j hj => others.osState_iff hj⟩

end

end Sys2Proof.Machine
end

section
/-! Chapter 12: the stage that no telemetry reaches is fenced (R340), and the statement on lanes. -/

namespace Sys2Proof.Machine

/-! ## The fence of a stage -/

section
variable (s : State)

theorem State.stageFenced_os {n : Nat} (h : n < 16) : s.stageFenced n = (s.osState n == 0xA) := if_pos h

theorem State.stageFenced_ss (i : Fin 6) : s.stageFenced (16 + i.val) = vget s.zfb.ssFenced i := by
  have hi := i.isLt
  unfold State.stageFenced State.ssFenced
  rw [if_neg (by omega), if_pos (by omega), dif_pos (by omega)]
  exact congrArg (vget s.zfb.ssFenced) (Fin.ext (Nat.add_sub_cancel_left ..))

theorem State.stageFenced_fe (i : Fin 4) : s.stageFenced (22 + i.val) = vget s.zfb.feFenced i := by
  have hi := i.isLt
  unfold State.stageFenced State.feFenced
  rw [if_neg (by omega), if_neg (by omega), dif_pos (by omega)]
  exact congrArg (vget s.zfb.feFenced) (Fin.ext (Nat.add_sub_cancel_left ..))

/-- A lane of a stage is one of an output stage, a storage stage or a front end. -/
theorem stage_cases (n : Fin 26) : n.val < 16 ∨ (∃ i : Fin 6, n.val = 16 + i.val) ∨ ∃ i : Fin 4, n.val = 22 + i.val := by
  by_cases os : n.val < 16
  · exact .inl os
  · by_cases ss : n.val < 22
    · exact .inr (.inl ⟨⟨n.val - 16, by omega⟩, by simp; omega⟩)
    · exact .inr (.inr ⟨⟨n.val - 22, by omega⟩, by simp; omega⟩)

theorem State.fenceUnit_os {n : Nat} (h : n < 16) : s.fenceUnit (stageUnit n) = s.fenceOs ⟨n, h⟩ 6 := by
  have unit : stageUnit n = 0x100 + n := if_pos h
  have kind : unitKind (0x100 + n) = 1 := by unfold unitKind; omega
  have index : (0x100 + n) % 256 = n := by omega
  unfold State.fenceUnit
  simp only [unit, kind, index, dif_pos h]

theorem State.fenceUnit_ss (i : Fin 6) : s.fenceUnit (stageUnit (16 + i.val)) = s.fenceSs i := by
  have hi := i.isLt
  have unit : stageUnit (16 + i.val) = 0x200 + i.val := by unfold stageUnit; split_ifs <;> omega
  have kind : unitKind (0x200 + i.val) = 2 := by unfold unitKind; omega
  have index : (0x200 + i.val) % 256 = i.val := by omega
  unfold State.fenceUnit
  simp only [unit, kind, index, dif_pos hi]

theorem State.fenceUnit_fe (i : Fin 4) : s.fenceUnit (stageUnit (22 + i.val)) = s.fenceFe i := by
  have hi := i.isLt
  have unit : stageUnit (22 + i.val) = 0x300 + i.val := by unfold stageUnit; split_ifs <;> omega
  have kind : unitKind (0x300 + i.val) = 3 := by unfold unitKind; omega
  have index : (0x300 + i.val) % 256 = i.val := by omega
  unfold State.fenceUnit
  simp only [unit, kind, index, dif_pos hi]

/-- The stage of lane `n` is fenced in `t`, and nothing but what shows and holds it has changed (R131). -/
structure State.StageOut (n : Fin 26) (t s : State) : Prop where
  fenced : t.stageFenced n = true
  cause : n.val < 16 → t.get (Fd.ZFB_OS_fence_cause n) = 6
  others : ∀ m : Fin 26, m ≠ n → t.stageFenced m = s.stageFenced m
  regs : t.regsOff inStages s
  parts : t.within s [.regs, .zfb]

theorem State.fenceOs_out (n : Fin 26) (h : n.val < 16) : (s.fenceOs ⟨n.val, h⟩ 6).StageOut n s := by
  obtain ⟨regs, parts, ss, fe⟩ := s.fenceOs_frame ⟨n.val, h⟩ 6
  obtain ⟨state, cause, others⟩ := s.fenceOs_shown ⟨n.val, h⟩ (cause := 6) (by decide)
  generalize s.fenceOs ⟨n.val, h⟩ 6 = t at *
  refine ⟨(t.stageFenced_os h).trans (beq_iff_eq.2 state), fun _ => cause, fun m hm => ?_, regs, parts⟩
  rcases stage_cases m with hos | ⟨i, hi⟩ | ⟨i, hi⟩
  · rw [t.stageFenced_os hos, s.stageFenced_os hos, Bool.eq_iff_iff, beq_iff_eq, beq_iff_eq]
    exact others m.val fun e => hm (Fin.ext e)
  · rw [hi, t.stageFenced_ss, s.stageFenced_ss, ss]
  · rw [hi, t.stageFenced_fe, s.stageFenced_fe, fe]

theorem State.fenceSs_out (n : Fin 26) (i : Fin 6) (h : n.val = 16 + i.val) : (s.fenceSs i).StageOut n s := by
  have zfb : (s.fenceSs i).within s [.regs, .zfb] := (s.within_zfb _).mono (by decide)
  refine ⟨?_, fun os => absurd os (by omega), fun m hm => ?_, .upd (.rfl' s) rfl, zfb⟩
  · rw [h, State.stageFenced_ss]
    exact vget_vset_same _ _ _
  · rcases stage_cases m with hos | ⟨j, hj⟩ | ⟨j, hj⟩
    · rw [State.stageFenced_os _ hos, s.stageFenced_os hos]
      rfl
    · have ne : j ≠ i := fun e => hm (Fin.ext (by rw [hj, h, e]))
      rw [hj, State.stageFenced_ss, s.stageFenced_ss]
      exact vget_vset_other _ _ ne
    · rw [hj, State.stageFenced_fe, s.stageFenced_fe]
      rfl

theorem State.fenceFe_out (n : Fin 26) (i : Fin 4) (h : n.val = 22 + i.val) : (s.fenceFe i).StageOut n s := by
  have zfb : (s.fenceFe i).within s [.regs, .zfb] := (s.within_zfb _).mono (by decide)
  refine ⟨?_, fun os => absurd os (by omega), fun m hm => ?_, .upd (.rfl' s) rfl, zfb⟩
  · rw [h, State.stageFenced_fe]
    exact vget_vset_same _ _ _
  · rcases stage_cases m with hos | ⟨j, hj⟩ | ⟨j, hj⟩
    · rw [State.stageFenced_os _ hos, s.stageFenced_os hos]
      rfl
    · rw [hj, State.stageFenced_ss, s.stageFenced_ss]
      rfl
    · have ne : j ≠ i := fun e => hm (Fin.ext (by rw [hj, h, e]))
      rw [hj, State.stageFenced_fe, s.stageFenced_fe]
      exact vget_vset_other _ _ ne

theorem State.fenceUnit_out (n : Fin 26) : (s.fenceUnit (stageUnit n)).StageOut n s := by
  rcases stage_cases n with os | ⟨i, hi⟩ | ⟨i, hi⟩
  · rw [s.fenceUnit_os os]
    exact s.fenceOs_out n os
  · rw [hi, s.fenceUnit_ss]
    exact s.fenceSs_out n i hi
  · rw [hi, s.fenceUnit_fe]
    exact s.fenceFe_out n i hi

/-! ## The 64th unreachable frame -/

/-- Own faults of a block outside the pair, for a unit of the shelf, keep their class (R445). -/
theorem escalate_shelf {rem : List RemUnit} {b : Fin 18} {code cls unit : Nat} (hb : pairBlock b.val = false) (hu : isShelfUnit unit = true) :
    escalate rem b true code cls unit = cls := by
  unfold escalate
  simp [hb, hu]

theorem isShelfUnit_stage (n : Fin 26) : isShelfUnit (stageUnit n) = true := by
  have hn := n.isLt
  unfold isShelfUnit unitKind stageUnit
  split_ifs <;> simp <;> omega

theorem State.record_unreach (n : Fin 26) : (s.record Blk.stl 0x10 2 (stageUnit n)).regsOff (inWindow 5) s ∧
    (s.record Blk.stl 0x10 2 (stageUnit n)).faultCounted s 5 ∧
    (s.record Blk.stl 0x10 2 (stageUnit n)).get (Fd.FLT_STAT_own_pend 5) = s.get (Fd.FLT_STAT_own_pend 5) ||| 4 ∧
    (s.record Blk.stl 0x10 2 (stageUnit n)).within s [.regs, .hmp, .flt] := by
  have own : isOwnFault Blk.stl 0x10 = true := by decide
  have kept : escalate (vget s.flt.rem Blk.stl) Blk.stl true 0x10 2 (stageUnit n) = 2 := escalate_shelf (by decide) (isShelfUnit_stage n)
  have recorded := s.recordAt_pending (access := 0) (addr := 0) (master := 0) own kept (by decide) (by decide) fun h => absurd rfl h
  obtain ⟨regs, counted, parts⟩ := State.recordAt_pending_frame recorded
  exact ⟨regs, counted, State.get_recordAt_own recorded (by decide), parts⟩

theorem not_inWindow_inStages {b : Nat} {a : Nat} (h : inStages a) : ¬inWindow b a := by
  unfold inStages at h
  unfold inWindow
  omega

theorem State.stageFenced_congr {s t : State} (h : t.regsOff (inWindow 5) s) (z : t.zfb = s.zfb) (m : Fin 26) : t.stageFenced m = s.stageFenced m := by
  rcases stage_cases m with hos | ⟨i, hi⟩ | ⟨i, hi⟩
  · rw [t.stageFenced_os hos, s.stageFenced_os hos, State.osState_congr m.val (h _ (not_inWindow_inStages (inStages_os ⟨m.val, hos⟩)))]
  · rw [hi, t.stageFenced_ss, s.stageFenced_ss, z]
  · rw [hi, t.stageFenced_fe, s.stageFenced_fe, z]

/-- The stage is fenced, and the fault recorded (R340). -/
theorem State.stageLost_out (n : Fin 26) : (s.stageLost n).stageFenced n = true ∧
    (n.val < 16 → (s.stageLost n).get (Fd.ZFB_OS_fence_cause n) = 6) ∧
    (∀ m : Fin 26, m ≠ n → (s.stageLost n).stageFenced m = s.stageFenced m) ∧ (s.stageLost n).faultCounted s 5 ∧
    (s.stageLost n).get (Fd.FLT_STAT_own_pend 5) = s.get (Fd.FLT_STAT_own_pend 5) ||| 4 ∧ (s.stageLost n).within s [.regs, .hmp, .zfb, .flt] := by
  obtain ⟨fenced, cause, others, off, parts⟩ := s.fenceUnit_out n
  unfold State.stageLost
  generalize s.fenceUnit (stageUnit n) = t at *
  obtain ⟨window, counted, pend, parts'⟩ := t.record_unreach n
  have zfb : (t.record Blk.stl 0x10 2 (stageUnit n)).zfb = t.zfb := parts' .zfb (by decide)
  have same := State.stageFenced_congr window zfb
  have stat : ¬inStages (Reg.FLT_STAT 5) := fun h => not_inWindow_inStages h (inWindow_fltStat 5)
  refine ⟨(same n).trans fenced, fun hn => (window.get ?_).trans (cause hn), fun m hm => (same m).trans (others m hm), ?_, ?_,
    (parts'.mono (by decide)).trans (parts.mono (by decide))⟩
  · exact not_inWindow_inStages (inStages_os ⟨n.val, hn⟩)
  · unfold State.faultCounted at counted ⊢
    rw [counted, off.get stat]
  · rw [pend, off.get stat]

end

/-! ## The attempts, as commands -/

section
variable (s : State) (rttNs : Nat) (fail : Fin 6) (decls : Vector Word 8) (highest : Nat)

theorem execLaneTraining_quiet (n : Fin 42) (h : s.linksOff = true) : execLaneTraining n rttNs fail decls highest s = .next s :=
  congrArg Host.Outcome.next (if_pos h)

theorem execLaneTraining_stage (n : Fin 26) (h : s.linksOff = false) : execLaneTraining ⟨n.val, by omega⟩ rttNs fail decls highest s =
    .next (if (!s.stageDecl n) = true then s else s.trainStage n rttNs fail decls) :=
  congrArg Host.Outcome.next ((if_neg (by simp [h])).trans (dif_pos n.isLt))

theorem execLaneTraining_tray (n : Fin 16) (h : s.linksOff = false) : execLaneTraining ⟨26 + n.val, by omega⟩ rttNs fail decls highest s =
    .next (if (!s.laneDecl n) = true then s else s.trainTray n rttNs fail highest) :=
  congrArg Host.Outcome.next ((if_neg (by simp [h])).trans ((dif_neg (by simp)).trans
    (congrArg (fun t : Fin 16 => if (!s.laneDecl t) = true then s else s.trainTray t rttNs fail highest) (tray_of_lane n (by omega)))))

/-- What an attempt of a declared stage lane brings, by the conditions of Table 12-3. -/
theorem State.trainStage_ends (n : Fin 26) : ∃ t, t = s.trainStage n rttNs fail decls ∧
    t.get (Fd.STL_LANE_CNT_trainings n) = (s.get (Fd.STL_LANE_CNT_trainings n) + 1) % 256 ∧ t.get (Fd.STL_LANE_STAT_rtt_ns n) = min 65535 rttNs ∧
    (fail.val ≠ 0 → t.get (Fd.STL_LANE_STAT_cause n) = fail) ∧ (fail.val = 0 → 400 < rttNs → t.get (Fd.STL_LANE_STAT_cause n) = 2) ∧
    (fail.val = 0 → rttNs ≤ 400 → getBits (vget decls 0) 28 4 ≠ laneKind n → t.get (Fd.STL_LANE_STAT_cause n) = 4) ∧
    (fail.val = 0 → rttNs ≤ 400 → getBits (vget decls 0) 28 4 = laneKind n → getBits (vget decls 0) 24 2 = 0 →
      t.get (Fd.STL_LANE_STAT_cause n) = 5) ∧
    (fail.val ≠ 0 ∨ 400 < rttNs ∨ getBits (vget decls 0) 28 4 ≠ laneKind n ∨ getBits (vget decls 0) 24 2 = 0 →
      t.get (Fd.STL_LANE_STAT_state n) = 5 ∧ t.get (Fd.STL_LANE_STAT_version n) = s.get (Fd.STL_LANE_STAT_version n) ∧
      t.withinRegs s [Reg.STL_LANE_STAT n, Reg.STL_LANE_CNT n] ∧ t.within s [.regs]) ∧
    (fail.val = 0 → rttNs ≤ 400 → getBits (vget decls 0) 28 4 = laneKind n → getBits (vget decls 0) 24 2 ≠ 0 →
      t.get (Fd.STL_LANE_STAT_state n) = (if s.pins.valid then 2 else 3) ∧
      t.get (Fd.STL_LANE_STAT_version n) = min 2 (getBits (vget decls 0) 24 2) ∧ t.flag (Fd.STL_LANE_STAT_decl_ok n) = true ∧
      (∀ i : Fin 8, t.declWord n i = vget decls i) ∧ (t.stl n).silent = 0 ∧ (∀ m, m ≠ n → t.stl m = s.stl m) ∧
      (t.stl n).firstTrained = some ((s.stl n).firstTrained.getD s.time.frame) ∧
      t.withinRegs s (Reg.STL_LANE_STAT n :: Reg.STL_LANE_CNT n :: (List.range 8).map (Reg.STL_DECL n)) ∧ t.within s [.regs, .zfb, .link]) := by
  have lt : fail.val < 16 := by omega
  obtain ⟨count, rtt⟩ := s.trainStage_counted n rttNs fail decls lt
  have fails := s.trainStage_fails n rttNs fail decls lt
  have trains := s.trainStage_trains n rttNs fail decls
  have cause {c : Nat} (h : stageCause n rttNs fail (vget decls 0) = c) (hc : c ≠ 0) :
      (s.trainStage n rttNs fail decls).get (Fd.STL_LANE_STAT_cause n) = c := by
    obtain ⟨shown, -⟩ := fails (h ▸ hc)
    exact shown.trans h
  refine ⟨_, rfl, count, rtt, fun hf => cause (trainCause_fail hf) hf, fun hf hr => cause (trainCause_late hf hr) (by decide),
    fun hf hr hk => cause (trainCause_kind hf hr (beq_eq_false_iff_ne.2 hk)) (by decide),
    fun hf hr hk hv => cause (trainCause_version hf hr (beq_iff_eq.2 hk) hv) (by decide), fun h => ?_, fun hf hr hk hv => ?_⟩
  · obtain ⟨-, shown⟩ := fails (trainCause_ne (h.imp_right (·.imp_right (·.imp_left beq_eq_false_iff_ne.2))))
    exact shown
  · exact trains (trainCause_none hf hr (beq_iff_eq.2 hk) hv)

/-- What an attempt of a declared Waggle lane brings. -/
theorem State.trainTray_ends (n : Fin 16) : ∃ t, t = s.trainTray n rttNs fail highest ∧
    t.get (Fd.WGL_LINK_CNT_trainings n) = (s.get (Fd.WGL_LINK_CNT_trainings n) + 1) % 256 ∧ t.get (Fd.WGL_LINK_STAT_rtt_ns n) = min 65535 rttNs ∧
    (fail.val ≠ 0 → t.get (Fd.WGL_LINK_STAT_cause n) = fail) ∧ (fail.val = 0 → 1000 < rttNs → t.get (Fd.WGL_LINK_STAT_cause n) = 2) ∧
    (fail.val = 0 → rttNs ≤ 1000 → highest % 4 = 0 → t.get (Fd.WGL_LINK_STAT_cause n) = 5) ∧
    (fail.val ≠ 0 ∨ 1000 < rttNs ∨ highest % 4 = 0 → t.get (Fd.WGL_LINK_STAT_state n) = 5 ∧
      t.withinRegs s [Reg.WGL_LINK_STAT n, Reg.WGL_LINK_CNT n] ∧ t.within s [.regs]) ∧
    (fail.val = 0 → rttNs ≤ 1000 → highest % 4 ≠ 0 → t.get (Fd.WGL_LINK_STAT_state n) = (if s.pins.valid then 2 else 3) ∧
      t.get (Fd.WGL_LANE_STAT_version n) = highest % 4 ∧ vget t.link.waggleSilent n = 0 ∧
      t.withinRegs s [Reg.WGL_LINK_STAT n, Reg.WGL_LINK_CNT n, Reg.WGL_LANE_STAT n] ∧ t.within s [.regs, .wgl, .link]) := by
  have lt : fail.val < 16 := by omega
  obtain ⟨count, rtt⟩ := s.trainTray_counted n rttNs fail highest lt
  have fails := s.trainTray_fails n rttNs fail highest lt
  have cause {c : Nat} (h : trayCause rttNs fail highest = c) (hc : c ≠ 0) :
      (s.trainTray n rttNs fail highest).get (Fd.WGL_LINK_STAT_cause n) = c := by
    obtain ⟨shown, -⟩ := fails (h ▸ hc)
    exact shown.trans h
  refine ⟨_, rfl, count, rtt, fun hf => cause (trainCause_fail hf) hf, fun hf hr => cause (trainCause_late hf hr) (by decide),
    fun hf hr hv => cause (trainCause_version hf hr rfl hv) (by decide), fun h => ?_, fun hf hr hv => ?_⟩
  · obtain ⟨-, shown⟩ := fails (trainCause_ne (h.imp_right (·.imp_right .inr)))
    exact shown
  · exact s.trainTray_trains n rttNs fail highest (trainCause_none hf hr rfl hv)

/-- What a training of the LOCK link brings. -/
theorem State.trainLock_ends (version : Nat) : ∃ t, t = s.trainLock rttNs (lockCause rttNs fail version) ∧
    t.get Fd.LKS_LOCK_STAT_rtt_ns = min 65535 rttNs ∧ t.lks = { s.lks with lockUp := decide (fail.val = 0 ∧ rttNs ≤ 200 ∧ version = 1) } ∧
    (t.lks.lockUp = true → t.get Fd.LKS_LOCK_STAT_state = (if s.pins.valid then 2 else 3) ∧ t.get Fd.LKS_LOCK_STAT_lanes_up = 15) ∧
    (t.lks.lockUp = false → t.get Fd.LKS_LOCK_STAT_state = 5 ∧
      t.get Fd.LKS_LOCK_STAT_cause = (if fail.val ≠ 0 then fail.val else if 200 < rttNs then 2 else 5)) ∧
    t.withinRegs s [Reg.LKS_LOCK_STAT] ∧ t.within s [.regs, .lks] := by
  have lt : fail.val < 16 := by omega
  obtain ⟨rtt, lks, up, down, regs, parts⟩ := s.trainLock_trains rttNs (lockCause_lt (rttNs := rttNs) (version := version) lt)
  have lockUp := congrArg LksRt.lockUp lks
  refine ⟨_, rfl, rtt, lks.trans ?_, fun h => up (beq_iff_eq.1 (lockUp.symm.trans h)), fun h => ?_, regs, parts⟩
  · have same : (lockCause rttNs fail version == 0) = decide (fail.val = 0 ∧ rttNs ≤ 200 ∧ version = 1) := by
      rw [Bool.eq_iff_iff, beq_iff_eq, decide_eq_true_iff]
      exact lockCause_eq_zero rttNs fail version
    rw [same]
  · have ne : lockCause rttNs fail version ≠ 0 := beq_eq_false_iff_ne.1 (lockUp.symm.trans h)
    obtain ⟨state, cause⟩ := down ne
    exact ⟨state, cause.trans (lockCause_down ne)⟩

end

/-- Settles O42: telemetry, the attempts of each kind of lane, silence, and the fence, each by what its command brings. -/
theorem lanesTrainAndTakeTelemetry : Obligations.LanesTrainAndTakeTelemetry := by
  intro s
  refine ⟨fun n cyc ok x => ⟨execStageTelemetry_none s n cyc ok x, fun hd hv h => ?_,
    fun hd hv ho hx => ⟨_, execStageTelemetry_good s n cyc ok x hd hv ho hx, ?_⟩⟩, fun h n r f d high => execLaneTraining_quiet s r f d high n h,
    fun on rttNs fail decls highest => ⟨fun n hd => ?_, fun n hd => ?_, fun n hd => ?_, fun n hd => ?_⟩, fun n => ?_, fun n => ?_,
    fun rttNs fail version => ⟨fun h => congrArg Host.Outcome.next (if_pos h), fun on => ?_⟩, fun n => ⟨fun h => ?_, fun h open' => ?_⟩⟩
  · obtain ⟨t, rfl, bad⟩ := s.bump_crcErr n cyc
    exact ⟨_, execStageTelemetry_bad s n cyc ok x hd hv h, bad⟩
  · obtain ⟨entered, heard, others, parts⟩ := (s.atCycle cyc).enterTele_enters n x
    exact ⟨entered, heard, others, (parts.mono (by decide)).trans ((s.atCycle_within cyc).mono (by decide))⟩
  · exact (execLaneTraining_stage s rttNs fail decls highest n on).trans (congrArg Host.Outcome.next (if_pos (by simp [hd])))
  · exact (execLaneTraining_tray s rttNs fail decls highest n on).trans (congrArg Host.Outcome.next (if_pos (by simp [hd])))
  · obtain ⟨t, rfl, ends⟩ := s.trainStage_ends rttNs fail decls n
    exact ⟨_, (execLaneTraining_stage s rttNs fail decls highest n on).trans (congrArg Host.Outcome.next (if_neg (by simp [hd]))), ends⟩
  · obtain ⟨t, rfl, ends⟩ := s.trainTray_ends rttNs fail highest n
    exact ⟨_, (execLaneTraining_tray s rttNs fail decls highest n on).trans (congrArg Host.Outcome.next (if_neg (by simp [hd]))), ends⟩
  · obtain ⟨regs, parts⟩ := s.retrain_frame (Fd.STL_LANE_STAT_state n) (s.stageSilent n)
    have silent : s.stageSilent n = true ↔
        (s.get (Fd.STL_LANE_STAT_state n) = 2 ∨ s.get (Fd.STL_LANE_STAT_state n) = 3) ∧ 16 ≤ (s.stl n).silent := by simp [State.stageSilent]
    refine ⟨_, execLaneSilent_stage s n, regs, parts, ?_, s.retrain_state (Fd.STL_LANE_STAT_state n) (by decide : 28 + 4 ≤ 32) rfl silent⟩
    split
    · exact s.get_put_apart (Fd.STL_LANE_STAT_state n) (Fd.STL_LANE_STAT_version n) 1 (by decide : 28 + 4 ≤ 32)
        (.inr (.inl (by decide : 26 + 2 ≤ 28)))
    · rfl
  · obtain ⟨regs, parts⟩ := s.retrain_frame (Fd.WGL_LINK_STAT_state n) (s.traySilent n)
    have silent : s.traySilent n = true ↔
        (s.get (Fd.WGL_LINK_STAT_state n) = 2 ∨ s.get (Fd.WGL_LINK_STAT_state n) = 3) ∧ 16 ≤ vget s.link.waggleSilent n :=
      by simp [State.traySilent]
    exact ⟨_, execLaneSilent_tray s n, regs, parts, s.retrain_state (Fd.WGL_LINK_STAT_state n) (by decide : 28 + 4 ≤ 32) rfl silent⟩
  · obtain ⟨t, rfl, ends⟩ := s.trainLock_ends rttNs fail version
    exact ⟨_, congrArg Host.Outcome.next (if_neg (by simp [on])), ends⟩
  · exact congrArg Host.Outcome.next (if_neg (by rcases h with h | h <;> simp [h]))
  · exact ⟨_, congrArg Host.Outcome.next (if_pos (by simp [h, open'])), s.stageLost_out n⟩

end Sys2Proof.Machine
end

section
/-! Chapter 13: what the passage of a packet through Table 13-3 leaves alone (R365 to R372, R405). -/

namespace Sys2Proof.Machine

/-! ## What a passage holds -/

/-- What the writes of a packet rest on beside the registers: packets counted, replies that wait and that were sent, keys, and
what waits for a write. -/
structure State.Held where
  packets : Nat
  waiting : List WaitRt
  sent : Vector (Option Reply) 3
  keys : Vector (Option KeyRec) 21
  keyWaits : List (Nat × Nat × Option KeyRec)
  injections : Nat
  injectWaits : List (Nat × List Nat)

/-- What a state holds of it. -/
def State.held (s : State) : State.Held :=
  ⟨s.mgp.packets, s.mgp.waiting, s.mgp.sent, s.sec.keys, s.sec.keyWaits, s.sec.injections, s.sec.injectWaits⟩

/-- The registers of the management ports and of the trust block, and what stands behind them. -/
def inPorts (a : Nat) : Prop := 0x40100000 ≤ a

/-- A passage from `s` to `t`: beside the parts of a packet nothing has changed, of the registers only those of the ports and of trust,
and `t` holds `v`. -/
structure State.Passed (v : State.Held) (t s : State) : Prop where
  parts : t.within s packetParts
  regs : t.regsOff inPorts s
  held : t.held = v

section
variable {v : State.Held} {s t : State}

theorem State.Passed.rfl' (s : State) : s.Passed s.held s := ⟨.rfl' s, .rfl' s, rfl⟩

theorem State.Passed.ite {c : Prop} {_ : Decidable c} {u : State} (ht : c → t.Passed v s) (hu : ¬c → u.Passed v s) :
    (if c then t else u).Passed v s := by
  split
  · exact ht ‹_›
  · exact hu ‹_›

theorem State.Passed.foldl {α : Type} {l : List α} {f : State → α → State} (hf : ∀ i u, u.Passed v s → (f u i).Passed v s) (h : t.Passed v s) :
    (l.foldl f t).Passed v s := by
  induction l generalizing t with
  | nil => exact h
  | cons i l ih => exact ih (hf i t h)

theorem State.Passed.each {n : Nat} {f : Nat → State → State} (hf : ∀ i u, u.Passed v s → (f i u).Passed v s) (h : t.Passed v s) :
    (State.each n f t).Passed v s := State.Passed.foldl hf h

theorem State.Passed.wr (h : t.Passed v s) {a : Nat} (ha : inPorts a) (w : Word) : (t.wr a w).Passed v s :=
  ⟨h.parts.wr (by decide) _ _, h.regs.wr ha _, h.held⟩

theorem State.Passed.put (h : t.Passed v s) {f : Fld} (hf : inPorts f.addr) (x : Nat) : (t.put f x).Passed v s := h.wr hf _

theorem State.Passed.setFlag (h : t.Passed v s) {f : Fld} (hf : inPorts f.addr) (b : Bool) : (t.setFlag f b).Passed v s := h.put hf _

theorem State.Passed.bump (h : t.Passed v s) {f : Fld} (hf : inPorts f.addr) : (t.bump f).Passed v s := h.put hf _

theorem State.Passed.put64 (h : t.Passed v s) {lo hi : Nat} (hlo : inPorts lo) (hhi : inPorts hi) (x : Nat) : (t.put64 lo hi x).Passed v s :=
  (h.wr hlo _).wr hhi _

theorem State.within_mgp (s : State) (x : MgpRt) : ({ s with mgp := x } : State).within s [.mgp] := by
  intro p hp
  cases p
  case mgp => exact (hp (by decide)).elim
  all_goals rfl

theorem State.within_sec (s : State) (x : SecRt) : ({ s with sec := x } : State).within s [.sec] := by
  intro p hp
  cases p
  case sec => exact (hp (by decide)).elim
  all_goals rfl

/-- A change of the ports' part, with what the state then holds. -/
theorem State.Passed.mgp {v' : State.Held} (h : t.Passed v s) (x : MgpRt) (e : ({ t with mgp := x } : State).held = v') :
    ({ t with mgp := x } : State).Passed v' s :=
  ⟨((t.within_mgp x).mono (by decide)).trans h.parts, h.regs.upd rfl, e⟩

/-- A change of the trust part, with what the state then holds. -/
theorem State.Passed.sec {v' : State.Held} (h : t.Passed v s) (x : SecRt) (e : ({ t with sec := x } : State).held = v') :
    ({ t with sec := x } : State).Passed v' s :=
  ⟨((t.within_sec x).mono (by decide)).trans h.parts, h.regs.upd rfl, e⟩

theorem inPorts_sec {a : Nat} (h : 0x40110000 ≤ a) : inPorts a := Nat.le_trans (by decide) h

theorem inPorts_port (p : Nat) : inPorts (Reg.MGP_PORT_STAT p) ∧ inPorts (Reg.MGP_PORT_CNT p) := by
  unfold inPorts Reg.MGP_PORT_STAT Reg.MGP_PORT_CNT
  omega

theorem inPorts_window {a : Nat} (h : inWindow 16 a) : inPorts a := by
  unfold inWindow at h
  unfold inPorts
  omega

/-! ## The audit log -/

theorem State.Passed.auditRegs (h : t.Passed v s) : t.auditRegs.Passed v s :=
  ((h.put64 (inPorts_sec (by decide)) (inPorts_sec (by decide)) _).put (f := Fd.SEC_AUDIT_STAT_staged) (inPorts_sec (by decide)) _).setFlag
    (f := Fd.SEC_AUDIT_STAT_full) (inPorts_sec (by decide)) _

theorem State.Passed.auditMove (h : t.Passed v s) : t.auditMove.Passed v s := State.Passed.auditRegs (h.sec _ h.held)

theorem State.Passed.audit (h : t.Passed v s) (kind who session opcode status : Nat) (detail : List Nat) :
    (t.audit kind who session opcode status detail).Passed v s := by
  unfold State.audit
  generalize hb : auditBytes t.sec.next t.time.frame kind who session opcode status detail = b
  dsimp only
  have added : (t.addEntry b (Config.sha3 (t.sec.lastH ++ b))).auditRegs.Passed v s := State.Passed.auditRegs (h.sec _ h.held)
  exact .ite (fun _ => added.auditMove) fun _ => added

/-! ## Sessions and the semaphore -/

theorem State.Passed.semRegs (h : t.Passed v s) : t.semRegs.Passed v s := by
  unfold State.semRegs
  have port {a : Nat} (ha : 0x40100000 ≤ a) : inPorts a := ha
  split
  · exact (((h.setFlag (f := Fd.MGP_SEM_STAT_held) (port (by decide)) _).put (f := Fd.MGP_SEM_STAT_port) (port (by decide)) _).put
      (f := Fd.MGP_SEM_STAT_remain_ms) (port (by decide)) _).put (f := Fd.MGP_SEM_SESSION_session) (port (by decide)) _
  · exact (((h.setFlag (f := Fd.MGP_SEM_STAT_held) (port (by decide)) _).put (f := Fd.MGP_SEM_STAT_port) (port (by decide)) _).put
      (f := Fd.MGP_SEM_STAT_remain_ms) (port (by decide)) _).put (f := Fd.MGP_SEM_SESSION_session) (port (by decide)) _

theorem State.Passed.setSem (h : t.Passed v s) (x : Option (Fin 3 × Nat × Nat)) : (t.setSem x).Passed v s := h.mgp _ h.held

theorem State.Passed.semFree (h : t.Passed v s) : t.semFree.Passed v s := (h.setSem none).semRegs

theorem State.Passed.sessionRegs (h : t.Passed v s) : t.sessionRegs.Passed v s := by
  have shown : (t.each 2 fun p s => s.put (Fd.MGP_PORT_STAT_sessions p) (s.mgp.sessions.filter fun x => x.port.val == p).length).Passed v s :=
    .each (fun p _ hu => hu.put (f := Fd.MGP_PORT_STAT_sessions p) (inPorts_port p).1 _) h
  exact ((shown.put (f := Fd.SEC_SESSIONS_operator) (inPorts_sec (by decide)) _).put (f := Fd.SEC_SESSIONS_installer) (inPorts_sec (by decide)) _).put
    (f := Fd.SEC_SESSIONS_maker) (inPorts_sec (by decide)) _

theorem State.Passed.dropSession (h : t.Passed v s) (p : Fin 3) (n : Nat) : (t.dropSession p n).Passed v s := h.mgp _ h.held

theorem State.Passed.endSession (h : t.Passed v s) (p : Fin 3) (n : Nat) : (t.endSession p n).Passed v s := by
  unfold State.endSession
  split
  · exact h
  · have freed : (if t.holdsSem p n then t.semFree else t).Passed v s := .ite (fun _ => h.semFree) fun _ => h
    exact ((freed.dropSession p n).audit _ _ _ _ _ _).sessionRegs

theorem State.Passed.endSessions (h : t.Passed v s) (f : Sess → Bool) : (t.endSessions f).Passed v s :=
  .foldl (fun x _ hu => hu.endSession x.port x.num) h

theorem State.Passed.setSession (h : t.Passed v s) (p : Fin 3) (n : Nat) (f : Sess → Sess) : (t.setSession p n f).Passed v s := h.mgp _ h.held

/-- A Note of the ports' block (R372). -/
theorem State.Passed.noteMgp (h : t.Passed v s) (unit : Nat) : (t.record Blk.mgp 0x10 0 unit).Passed v s := by
  obtain ⟨window, -, parts⟩ := t.record_note Blk.mgp 0x10 unit (by decide)
  have mgp : (t.record Blk.mgp 0x10 0 unit).mgp = t.mgp := parts .mgp (by decide)
  have sec : (t.record Blk.mgp 0x10 0 unit).sec = t.sec := parts .sec (by decide)
  refine ⟨(parts.mono (by decide)).trans h.parts, (window.mono fun _ => inPorts_window).trans h.regs, ?_⟩
  rw [← h.held]
  unfold State.held
  rw [mgp, sec]

theorem State.Passed.leaseEnds (h : t.Passed v s) (p : Fin 3) (n : Nat) : (t.leaseEnds p n).Passed v s :=
  ((h.semFree.bump (f := Fd.MGP_SEM_CNT_expired) (by show 0x40100000 ≤ _; decide)).noteMgp _).audit _ _ _ _ _ _

theorem State.Passed.leaseCheck (h : t.Passed v s) : t.leaseCheck.Passed v s := by
  unfold State.leaseCheck
  split
  · refine .ite (fun due => ?_) fun _ => h
    unfold execLeaseExpiry
    next holder held =>
      rw [held]
      dsimp only
      rw [if_pos due]
      exact h.leaseEnds _ _
  · exact h

theorem State.Passed.atCycle (h : t.Passed v s) (n : Nat) : (t.atCycle n).Passed v s :=
  ⟨((t.atCycle_within n).mono (by decide)).trans h.parts, h.regs.upd rfl, h.held⟩

theorem State.Passed.arrive (h : t.Passed v s) (p : Pkt) : (t.arrive p).Passed v s := ((h.atCycle _).endSessions _).leaseCheck

theorem State.Passed.renew (h : t.Passed v s) (p : Fin 3) (n : Nat) : (t.renew p n).Passed v s := by
  unfold State.renew
  have renewed := h.setSession p n fun x => { x with last := t.now }
  generalize t.setSession p n (fun x => { x with last := t.now }) = u at *
  dsimp only
  split
  · exact .ite (fun _ => (renewed.setSem _).semRegs) fun _ => renewed
  · exact renewed

/-- A packet that is taken in is counted (R367). -/
theorem State.taken_passed (s : State) (p : Pkt) : (s.taken p).Passed { s.held with packets := s.mgp.packets + 1 } s := by
  have renewed := ((State.Passed.rfl' s).arrive p).renew p.port p.session
  unfold State.taken State.counted
  generalize (s.arrive p).renew p.port p.session = t at *
  refine .setSession (renewed.mgp _ ?_) _ _ _
  exact congrArg (fun h : State.Held => { h with packets := h.packets + 1 }) renewed.held

/-! ## Replies -/

theorem State.Passed.countReply (h : t.Passed v s) (port : Fin 3) (status : Nat) : (t.countReply port status).Passed v s :=
  .ite (fun _ => .ite (fun _ => h.bump (f := Fd.MGP_PORT_CNT_busy port) (inPorts_port port).2) fun _ =>
    .ite (fun _ => h.bump (f := Fd.MGP_PORT_CNT_bad_mac port) (inPorts_port port).2) fun _ => h) fun _ => h

/-- A reply is the last one sent on its port. -/
theorem State.Passed.sendNow (h : t.Passed v s) (port : Fin 3) (r : Reply) :
    (t.sendNow port r).Passed { v with sent := vset v.sent port (some r) } s :=
  h.mgp _ (congrArg (fun h : State.Held => { h with sent := vset h.sent port (some r) }) h.held)

theorem State.Passed.send (h : t.Passed v s) (port : Fin 3) (r : Reply) (hold : Bool) :
    (t.send port r hold).Passed { v with sent := vset v.sent port (some (t.markReply port r)) } s := by
  unfold State.send
  generalize t.markReply port r = r'
  have counted := (h.sendNow port r').countReply port r'.status
  dsimp only
  have kept : (if hold = true then ((t.sendNow port r').countReply port r'.status).keepReply port r' else
      (t.sendNow port r').countReply port r'.status).Passed { v with sent := vset v.sent port (some r') } s :=
    .ite (fun _ => counted.setSession _ _ _) fun _ => counted
  exact .ite (fun _ => kept.endSession _ _) fun _ => kept

/-- An answer sends its reply, and what it holds else stands. -/
theorem State.Passed.answer (h : t.Passed v s) (o : OpInfo) (p : Pkt) (x : Sess) (status cause : Nat) (data : List Nat) :
    ∃ r, r.tag = p.tag ∧ r.session = p.session ∧ r.seq = p.seq ∧ r.status = status ∧ r.cause = cause ∧ r.data = data ∧
      (t.answer o p x status cause data).Passed { v with sent := vset v.sent p.port (some r) } s := by
  unfold State.answer
  have logged : (if o.sem = true then t.audit 1 (packetAudit x.role p.port p.payload).1 p.session o.code status
      (packetAudit x.role p.port p.payload).2 else t).Passed v s := .ite (fun _ => h.audit _ _ _ _ _ _) fun _ => h
  dsimp only
  generalize (if o.sem = true then t.audit 1 (packetAudit x.role p.port p.payload).1 p.session o.code status
      (packetAudit x.role p.port p.payload).2 else t) = u at *
  exact ⟨u.markReply p.port (u.replyTo o p status cause data), rfl, rfl, rfl, rfl, rfl, rfl, logged.send _ _ _⟩

/-- What an answer sends is the packet's reply. -/
theorem State.Passed.replied_answer (h : t.Passed v s) (o : OpInfo) (p : Pkt) (x : Sess) (status cause : Nat) (data : List Nat) :
    (t.answer o p x status cause data).replied p status cause data := by
  obtain ⟨r, tag, session, seq, hs, hc, hd, passed⟩ := h.answer o p x status cause data
  have sent := congrArg (fun h : State.Held => vget h.sent p.port) passed.held
  exact ⟨r, sent.trans (vget_vset_same _ _ _), tag, session, seq, hs, hc, hd⟩

end

end Sys2Proof.Machine
end

section
/-! Chapters 02, 11 and 13: the writes of a packet wait for the next frame, and its reply for the last of them (R59, R301, R365, R379 to R391, R466). -/

namespace Sys2Proof.Machine

/-! ## The checks of Table 13-3 -/

section
variable {s : State} {o : OpInfo} {p : Pkt} {busy : State → Bool} {denied : State → Sess → Bool} {bad : State → Option Nat} {x : Sess}

/-- A packet that passes every check is carried out in the state that has taken it in. -/
theorem State.request_passes (h : s.passes o p busy denied bad x) (run : State → Sess → State) :
    s.request o p busy denied bad run = run (s.taken p) x := by
  obtain ⟨⟨packet, up, len, open', session, version, mac, accepts⟩, ⟨executing, window, staged, idle⟩,
    minVer, role, allowed, halt, recovery, sem, good⟩ := h
  have full : ((o.sem && decide (128 ≤ ((s.arrive p).renew p.port p.session).sec.staged.length)) ||
      busy ((s.arrive p).renew p.port p.session)) = false := by
    cases hs : o.sem with
    | false => simp [idle]
    | true => simpa [idle] using staged hs
  have late : ¬((s.taken p).flt.halt != HaltPhase.none && !o.inHalt) = true := by
    rcases halt with h | h <;> simp [h]
  have recovers : ¬((s.taken p).flag Fd.SEC_BOOT_recovery && !o.inRecovery) = true := by
    rcases recovery with h | h <;> simp [h]
  have holds : ¬(o.sem && !(s.taken p).holdsSem p.port p.session && !(s.taken p).flag Fd.SEC_BOOT_recovery) = true := by
    cases hs : o.sem with
    | false => simp
    | true => rcases sem hs with h | h <;> simp [h]
  unfold State.taken at *
  unfold State.request
  rw [if_neg (by simp [packet, up])]
  dsimp only
  rw [if_neg (by simp [len]), open']
  dsimp only
  rw [if_neg session, if_neg (not_not.2 version), if_neg (by simp [mac]), if_neg (by simp [accepts]), if_neg (by simp [executing]),
    if_neg (Nat.not_le.2 window), if_neg (by simp [full]), if_neg (Nat.not_lt.2 minVer), if_neg (by rw [role, allowed]; decide), if_neg late,
    if_neg recovers, if_neg holds, good]

end

/-! ## The writes -/

section
variable (s : State)

/-- A write with the slot of the module that stamps it. -/
def State.stamp (w : PairWrite) : PairWrite := { w with slot := s.get Fd.LKS_STAT_slot_id % 2 }

/-- Writes join those that go to the claimant. -/
def LksRt.forwarding (x : LksRt) (l : List PairWrite) : LksRt := { x with fwd := x.fwd ++ l }

theorem LksRt.forwarding_nil (x : LksRt) : x.forwarding [] = x := by
  unfold LksRt.forwarding
  simp

theorem LksRt.forwarding_append (x : LksRt) (a b : List PairWrite) : (x.forwarding a).forwarding b = x.forwarding (a ++ b) := by
  unfold LksRt.forwarding
  simp

theorem maskedBits_none {m : Nat → Word} {w : PairWrite} (h : w.mask &&& m w.addr = 0) : maskedBits m [w] = [] :=
  List.filterMap_cons_none (if_pos h)

theorem maskedBits_some {m : Nat → Word} {w : PairWrite} (h : w.mask &&& m w.addr ≠ 0) :
    maskedBits m [w] = [{ w with mask := w.mask &&& m w.addr }] := List.filterMap_cons_some (if_neg h)

theorem State.forwardBits_fwd (w : PairWrite) :
    (s.forwardBits w).lks = s.lks.forwarding (maskedBits pairMask [w]) ∧ (s.forwardBits w).wq = s.wq := by
  unfold State.forwardBits
  split
  · next h => exact ⟨by rw [maskedBits_none h, LksRt.forwarding_nil], rfl⟩
  · next h => exact ⟨by rw [maskedBits_some h]; rfl, rfl⟩

theorem State.keepBits_wq (w : PairWrite) :
    (s.keepBits w).wq = s.wq ++ maskedBits (fun a => ~~~(pairMask a)) [w] ∧ (s.keepBits w).lks = s.lks := by
  unfold State.keepBits
  split
  · next h => exact ⟨by rw [maskedBits_none (m := fun a => ~~~(pairMask a)) h, List.append_nil], rfl⟩
  · next h => exact ⟨by rw [maskedBits_some (m := fun a => ~~~(pairMask a)) h], rfl⟩

/-- What a stamp changes: the queue and what goes to the claimant. -/
theorem State.enqueue_within (w : PairWrite) : (s.enqueue w).within s [.wq, .lks] := by
  cases h : s.isStandby with
  | true =>
    rw [State.enqueue_standby h]
    exact ((State.keepBits_within _).mono (by decide)).trans ((State.forwardBits_within _).mono (by decide))
  | false =>
    rw [State.enqueue_own h]
    intro q hq
    cases q
    case wq | lks => exact (hq (by decide)).elim
    all_goals rfl

theorem State.enqueueAll_within (ws : List PairWrite) : (s.enqueueAll ws).within s [.wq, .lks] :=
  .foldl (fun w u hu => (u.enqueue_within w).trans hu) (.rfl' s)

theorem State.isStandby_congr {s t : State} (h : t.lks.partnerValid = s.lks.partnerValid) (h' : t.lks.claimant = s.lks.claimant) :
    t.isStandby = s.isStandby := by
  unfold State.isStandby
  rw [h, h']

theorem maskedBits_cons (m : Nat → Word) (w : PairWrite) (l : List PairWrite) : maskedBits m (w :: l) = maskedBits m [w] ++ maskedBits m l := by
  unfold maskedBits
  rw [← List.filterMap_append]
  rfl

/-- The writes of a claimant, or of a single module, wait in its queue (R59). -/
theorem State.enqueueAll_own (h : s.isStandby = false) (ws : List PairWrite) :
    (s.enqueueAll ws).wq = s.wq ++ ws.map s.stamp ∧ (s.enqueueAll ws).lks = s.lks := by
  induction ws generalizing s with
  | nil => exact ⟨(List.append_nil _).symm, rfl⟩
  | cons w ws ih =>
    have same : (s.enqueue w).stamp = s.stamp := by
      rw [State.enqueue_own h]
      rfl
    have still : (s.enqueue w).isStandby = false := by
      rw [State.enqueue_own h]
      exact h
    obtain ⟨wq, lks⟩ := ih (s.enqueue w) still
    refine ⟨wq.trans ?_, lks.trans ?_⟩
    · rw [same, State.enqueue_own h]
      simp [State.stamp]
    · rw [State.enqueue_own h]

/-- At a standby the pair's bits of the writes go to the claimant, and the others wait (R301). -/
theorem State.enqueueAll_standby (h : s.isStandby = true) (ws : List PairWrite) :
    (s.enqueueAll ws).wq = s.wq ++ maskedBits (fun a => ~~~(pairMask a)) (ws.map s.stamp) ∧
    (s.enqueueAll ws).lks = s.lks.forwarding (maskedBits pairMask (ws.map s.stamp)) := by
  induction ws generalizing s with
  | nil => exact ⟨(List.append_nil _).symm, s.lks.forwarding_nil.symm⟩
  | cons w ws ih =>
    obtain ⟨fwd, before⟩ := s.forwardBits_fwd (s.stamp w)
    obtain ⟨kept, after⟩ := (s.forwardBits (s.stamp w)).keepBits_wq (s.stamp w)
    have stamped : s.enqueue w = (s.forwardBits (s.stamp w)).keepBits (s.stamp w) := State.enqueue_standby h w
    have regs : (s.enqueue w).regs = s.regs := (s.enqueue_within w) .regs (by decide)
    have lks : (s.enqueue w).lks = s.lks.forwarding (maskedBits pairMask [s.stamp w]) := by rw [stamped, after, fwd]
    have wq : (s.enqueue w).wq = s.wq ++ maskedBits (fun a => ~~~(pairMask a)) [s.stamp w] := by rw [stamped, kept, before]
    have same : (s.enqueue w).stamp = s.stamp := by
      unfold State.stamp
      rw [State.get_congr regs]
    have still : (s.enqueue w).isStandby = true := (State.isStandby_congr (by rw [lks]; rfl) (by rw [lks]; rfl)).trans h
    obtain ⟨wqs, lkss⟩ := ih (s.enqueue w) still
    have all : s.enqueueAll (w :: ws) = (s.enqueue w).enqueueAll ws := rfl
    refine ⟨?_, ?_⟩
    · rw [all, wqs, wq, same, List.map_cons, maskedBits_cons _ (s.stamp w) (ws.map s.stamp), List.append_assoc]
    · rw [all, lkss, lks, same, List.map_cons, maskedBits_cons _ (s.stamp w) (ws.map s.stamp), LksRt.forwarding_append]

end

/-! ## A packet's writes and its reply -/

section
variable {s t : State} {v : State.Held} (o : OpInfo) (p : Pkt) (x : Sess) (ws : List (Nat × Word × Word)) (check : ReplyCheck) (data : List Nat)

theorem packetParts_kept {t s : State} (h : t.within s packetParts) : t.wq = s.wq ∧ t.lks = s.lks :=
  ⟨h .wq (by decide), h .lks (by decide)⟩

/-- After the passage the writes are stamped as at the packet's reception. -/
theorem State.Passed.stamped_writes (h : t.Passed v s) (hp : v.packets = s.mgp.packets + 1) :
    (ws.map (t.packetWrite p x)).map t.stamp = s.stamped p x ws := by
  have slot : t.get Fd.LKS_STAT_slot_id = s.get Fd.LKS_STAT_slot_id := h.regs.get (by unfold inPorts; decide)
  have packets : t.mgp.packets = s.mgp.packets + 1 := (congrArg State.Held.packets h.held).trans hp
  unfold State.stamped
  rw [List.map_map]
  refine List.map_congr_left fun w _ => ?_
  simp only [Function.comp, State.stamp, State.packetWrite, slot, packets]

/-- The writes of a packet that has passed, as they wait here and go to the claimant. -/
theorem State.Passed.enqueueAll_split (h : t.Passed v s) (hp : v.packets = s.mgp.packets + 1) : ∃ own fwd : List PairWrite,
    (s.isStandby = false → own = s.stamped p x ws ∧ fwd = []) ∧
    (s.isStandby = true → own = maskedBits (fun a => ~~~(pairMask a)) (s.stamped p x ws) ∧ fwd = maskedBits pairMask (s.stamped p x ws)) ∧
    (t.enqueueAll (ws.map (t.packetWrite p x))).wq = s.wq ++ own ∧
    (t.enqueueAll (ws.map (t.packetWrite p x))).lks = s.lks.forwarding fwd := by
  obtain ⟨wq, lks⟩ := packetParts_kept h.parts
  have standby : t.isStandby = s.isStandby := State.isStandby_congr (by rw [lks]) (by rw [lks])
  have stamped := h.stamped_writes p x ws hp
  cases role : s.isStandby with
  | false =>
    obtain ⟨queued, kept⟩ := t.enqueueAll_own (standby.trans role) (ws.map (t.packetWrite p x))
    refine ⟨_, [], fun _ => ⟨rfl, rfl⟩, fun no => Bool.noConfusion no, ?_, ?_⟩
    · rw [queued, stamped, wq]
    · rw [kept, lks, LksRt.forwarding_nil]
  | true =>
    obtain ⟨queued, sent⟩ := t.enqueueAll_standby (standby.trans role) (ws.map (t.packetWrite p x))
    refine ⟨_, _, fun no => Bool.noConfusion no, fun _ => ⟨rfl, rfl⟩, ?_, ?_⟩
    · rw [queued, stamped, wq]
    · rw [sent, stamped, lks]

theorem State.windowRegs_within (s : State) : s.windowRegs.within s [.regs] := State.within.foldl (fun _ _ hu => hu.put (by decide) _ _) (.rfl' s)

/-- A reply that waits joins those of its module. -/
theorem State.later_waits (s : State) (when' : ReplyWhen) : ∃ w,
    (s.later o p x when' check data).mgp.waiting = s.mgp.waiting ++ [w] ∧ w.port = p.port ∧
    w.pkt = s.mgp.packets ∧ w.when' = when' ∧ w.check = check ∧ w.reply.tag = p.tag ∧ w.reply.session = p.session ∧ w.reply.seq = p.seq ∧
    w.reply.data = data ∧ (o.sem = true → w.audit = some (packetAudit x.role p.port p.payload)) := by
  refine ⟨_, congrArg MgpRt.waiting (State.windowRegs_within _ .mgp (by decide)), rfl, rfl, rfl, rfl, rfl, rfl, rfl, rfl, fun h => ?_⟩
  exact if_pos h

theorem State.later_within (s : State) (when' : ReplyWhen) : (s.later o p x when' check data).within s [.regs, .mgp] :=
  ((State.windowRegs_within _).mono (by decide)).trans ((s.within_mgp _).mono (by decide))

/-- Where no bit is left to write the packet is answered at once; else its reply waits for the last write. -/
theorem State.queueWrites_eq : t.queueWrites o p x ws check data =
    if (t.enqueueAll (ws.map (t.packetWrite p x))).wq.length + (t.enqueueAll (ws.map (t.packetWrite p x))).lks.fwd.length -
        (t.wq.length + t.lks.fwd.length) = 0 then (t.enqueueAll (ws.map (t.packetWrite p x))).okWith o p x data
    else (t.enqueueAll (ws.map (t.packetWrite p x))).later o p x (.written
      ((t.enqueueAll (ws.map (t.packetWrite p x))).wq.length + (t.enqueueAll (ws.map (t.packetWrite p x))).lks.fwd.length -
        (t.wq.length + t.lks.fwd.length))) check data := rfl

/-- The writes of a packet that has passed are queued, and its reply waits for the last of them (R59, R301, R365). Keys and what waits for a write
stand. -/
theorem State.Passed.queueWrites_queued (h : t.Passed v s) (hp : v.packets = s.mgp.packets + 1) (hw : v.waiting = s.mgp.waiting) :
    (t.queueWrites o p x ws check data).writesQueued s o p x ws check data ∧ (t.queueWrites o p x ws check data).sec.keys = v.keys ∧
    (t.queueWrites o p x ws check data).sec.keyWaits = v.keyWaits ∧ (t.queueWrites o p x ws check data).sec.injections = v.injections ∧
    (t.queueWrites o p x ws check data).sec.injectWaits = v.injectWaits := by
  obtain ⟨own, fwd, single, standby, wq, lks⟩ := h.enqueueAll_split p x ws hp
  obtain ⟨wq', lks'⟩ := packetParts_kept h.parts
  have queued := t.enqueueAll_within (ws.map (t.packetWrite p x))
  rw [State.queueWrites_eq]
  generalize t.enqueueAll (ws.map (t.packetWrite p x)) = u at *
  have mgp : u.mgp = t.mgp := queued .mgp (by decide)
  have sec : u.sec = t.sec := queued .sec (by decide)
  have held : u.held = v := by
    rw [← h.held]
    unfold State.held
    rw [mgp, sec]
  have parts : u.within s ([.wq, .lks] ++ packetParts) := (queued.mono (by decide)).trans (h.parts.mono (by decide))
  have left : u.wq.length + u.lks.fwd.length - (t.wq.length + t.lks.fwd.length) = own.length + fwd.length := by
    have sent : (s.lks.forwarding fwd).fwd.length = s.lks.fwd.length + fwd.length := List.length_append
    rw [wq, lks, wq', lks', sent, List.length_append]
    omega
  rw [left]
  by_cases none : own.length + fwd.length = 0
  · rw [if_pos none]
    have replied : (u.okWith o p x data).replied p Status.ok 0 data := (State.Passed.rfl' u).replied_answer o p x Status.ok 0 data
    obtain ⟨r, -, -, -, -, -, -, passed⟩ := (State.Passed.rfl' u).answer o p x Status.ok 0 data
    have answered : (u.okWith o p x data).Passed { u.held with sent := vset u.held.sent p.port (some r) } u := passed
    obtain ⟨wq'', lks''⟩ := packetParts_kept answered.parts
    rw [held] at answered
    refine ⟨⟨own, fwd, single, standby, wq''.trans wq, lks''.trans lks, fun _ => replied, fun some => absurd none some,
      (answered.parts.mono (by decide)).trans parts⟩, congrArg State.Held.keys answered.held, congrArg State.Held.keyWaits answered.held,
      congrArg State.Held.injections answered.held, congrArg State.Held.injectWaits answered.held⟩
  · rw [if_neg none]
    obtain ⟨w, waits, port, pkt, reply⟩ := u.later_waits o p x check data (.written (own.length + fwd.length))
    have kept := u.later_within o p x check data (.written (own.length + fwd.length))
    have wq'' := kept .wq (by decide)
    have lks'' := kept .lks (by decide)
    have sec' : (u.later o p x (.written (own.length + fwd.length)) check data).sec = u.sec := kept .sec (by decide)
    have waiting : u.mgp.waiting = s.mgp.waiting := (congrArg State.Held.waiting held).trans hw
    have packets : u.mgp.packets = s.mgp.packets + 1 := (congrArg State.Held.packets held).trans hp
    refine ⟨⟨own, fwd, single, standby, wq''.trans wq, lks''.trans lks, fun no => absurd no none, fun _ => ⟨w, by rw [waits, waiting], port,
      pkt.trans packets, reply⟩, (kept.mono (by decide)).trans parts⟩, ?_⟩
    rw [sec']
    exact ⟨congrArg State.Held.keys held, congrArg State.Held.keyWaits held,
      congrArg State.Held.injections held, congrArg State.Held.injectWaits held⟩

end

/-! ## The commands -/

section
variable {s : State} {o : OpInfo} {p : Pkt} {busy : State → Bool} {denied : State → Sess → Bool} {bad : State → Option Nat} {x : Sess}
  {ws : List (Nat × Word × Word)} {check : ReplyCheck} {data : List Nat} {c : Instr}

/-- A command that queues writes once its packet has passed. -/
theorem queued_of_passes (h : s.passes o p busy denied bad x) {run : State → Sess → State}
    (e : exec c s = .next (s.request o p busy denied bad run))
    (hr : ∀ u, run u x = u.queueWrites o p x ws check data) : ∃ t, exec c s = .next t ∧ t.writesQueued s o p x ws check data := by
  obtain ⟨queued, -⟩ := (s.taken_passed p).queueWrites_queued o p x ws check data rfl rfl
  exact ⟨_, e.trans (congrArg Host.Outcome.next ((State.request_passes h run).trans (hr _))), queued⟩

/-! ### Keys -/

/-- A change of a key waits for the write of its packet (R391). -/
theorem State.Passed.waitKey {v : State.Held} {s t : State} (h : t.Passed v s) (slot : Nat) (r : Option KeyRec) :
    (t.waitKey slot r).Passed { v with keyWaits := v.keyWaits ++ [(v.packets, slot, r)] } s :=
  h.sec _ (congrArg (fun h : State.Held => { h with keyWaits := h.keyWaits ++ [(h.packets, slot, r)] }) h.held)

/-- The key that KEY_LOAD loads with its operation, none where it clears. -/
def Pkt.keyOf (p : Pkt) (op : Nat) : Option KeyRec := if op = 0 then some p.key else none

/-- Step 13 of KEY_LOAD with a root signature that it needs and that does not verify (R390). -/
theorem State.keyRun_denied (t : State) (op : Nat) (h : p.num 1 1 ≤ 2) : t.keyRun p x op false = t.answer keyOp p x Status.deniedRole 0 [] :=
  if_pos (by simp [h])

/-- KEY_LOAD otherwise: the change is recorded, and waits for its write. -/
theorem State.keyRun_waits (t : State) (op : Nat) {rootOk : Bool} (h : 2 < p.num 1 1 ∨ rootOk = true) : ∃ id,
    t.keyRun p x op rootOk = ((t.audit 7 (auditWho x.role p.port 0) p.session 0x0905 0 id).waitKey (p.num 1 1) (p.keyOf op)).queueWrites keyOp p x
      [(actOwn + 0x1000, 0xFFFFFFFF, BitVec.ofNat 32 (p.num 1 1))] .plain [] := by
  refine ⟨_, if_neg ?_⟩
  rcases h with h | h
  · simp [Nat.not_le.2 h]
  · simp [h]

/-- KEY_LOAD and KEY_CLEAR, by their operation. -/
theorem keyLoad_ends {op : Nat} (rootOk : Bool) (e : exec c s = .next (s.keyCommand p op rootOk))
    (hp : s.passes keyOp p never (fun _ x => p.keyDenied op x) (fun _ => p.keyBad op) x) :
    (p.num 1 1 ≤ 2 → rootOk = false → ∃ t, exec c s = .next t ∧ t.replied p 0x03 0 [] ∧ t.sec.keys = s.sec.keys ∧
      t.sec.keyWaits = s.sec.keyWaits ∧ t.within s packetParts) ∧
    (2 < p.num 1 1 ∨ rootOk = true → ∃ t, exec c s = .next t ∧
      t.writesQueued s keyOp p x [(actOwn + 0x1000, 0xFFFFFFFF, BitVec.ofNat 32 (p.num 1 1))] .plain [] ∧ t.sec.keys = s.sec.keys ∧
      t.sec.keyWaits = s.sec.keyWaits ++ [(s.mgp.packets + 1, p.num 1 1, p.keyOf op)]) := by
  have taken := s.taken_passed p
  have run : exec c s = .next ((s.taken p).keyRun p x op rootOk) := e.trans (congrArg Host.Outcome.next (State.request_passes hp _))
  refine ⟨fun root denied => ⟨_, run, ?_⟩, fun may => ⟨_, run, ?_⟩⟩
  · rw [denied, State.keyRun_denied _ op root]
    obtain ⟨r, -, -, -, -, -, -, passed⟩ := taken.answer keyOp p x Status.deniedRole 0 []
    exact ⟨taken.replied_answer keyOp p x Status.deniedRole 0 [], congrArg State.Held.keys passed.held,
      congrArg State.Held.keyWaits passed.held, passed.parts⟩
  · obtain ⟨id, waits⟩ := (s.taken p).keyRun_waits op may
    rw [waits]
    have held := (taken.audit 7 (auditWho x.role p.port 0) p.session 0x0905 0 id).waitKey (p.num 1 1) (p.keyOf op)
    obtain ⟨queued, keys, keyWaits, -⟩ := held.queueWrites_queued keyOp p x
      [(actOwn + 0x1000, 0xFFFFFFFF, BitVec.ofNat 32 (p.num 1 1))] .plain [] rfl rfl
    exact ⟨queued, keys, keyWaits⟩

/-! ### Injections -/

/-- An injection waits for the write of its packet (R466). -/
theorem State.Passed.waitInject {v : State.Held} {s t : State} (h : t.Passed v s) (p : Pkt) :
    (t.waitInject p).Passed { v with injections := v.injections + 1, injectWaits := v.injectWaits ++ [(v.packets, p.payload)] } s :=
  h.sec _ (congrArg (fun h : State.Held => { h with injections := h.injections + 1, injectWaits := h.injectWaits ++ [(h.packets, p.payload)] }) h.held)

/-- TEST_ACCESS, by its operation. -/
theorem inject_ends {op : Nat} (e : exec c s = .next (s.testAccess p op))
    (hp : s.passes testOp p never always (fun _ => p.lenAnd 16 (p.injectOk && p.num 0 1 == op)) x) :
    (s.pins.testMode = false → ∃ t, exec c s = .next t ∧ t.replied p 0x0A 0x21 [] ∧ t.within s packetParts) ∧
    (s.pins.testMode = true → ∃ t, exec c s = .next t ∧
      t.writesQueued s testOp p x [(actOwn + 0x2000, 0xFFFFFFFF, 0)] .plain (beBytes 4 (s.sec.injections + 1)) ∧
      t.sec.injectWaits = s.sec.injectWaits ++ [(s.mgp.packets + 1, p.payload)] ∧ t.sec.injections = s.sec.injections + 1) := by
  have taken := s.taken_passed p
  have run : exec c s = .next ((s.taken p).injectRun p x) := e.trans (congrArg Host.Outcome.next (State.request_passes hp _))
  have mode : (s.taken p).pins = s.pins := taken.parts .pins (by decide)
  have count : (s.taken p).sec.injections = s.sec.injections := congrArg State.Held.injections taken.held
  refine ⟨fun off => ⟨_, run, ?_⟩, fun on => ⟨_, run, ?_⟩⟩
  · have refused : (s.taken p).injectRun p x = (s.taken p).answer testOp p x Status.refused 0x21 [] := if_pos (by simp [mode, off])
    rw [refused]
    obtain ⟨r, -, -, -, -, -, -, passed⟩ := taken.answer testOp p x Status.refused 0x21 []
    exact ⟨taken.replied_answer testOp p x Status.refused 0x21 [], passed.parts⟩
  · have waits : (s.taken p).injectRun p x = ((s.taken p).waitInject p).queueWrites testOp p x [(actOwn + 0x2000, 0xFFFFFFFF, 0)] .plain
        (beBytes 4 ((s.taken p).sec.injections + 1)) := if_neg (by simp [mode, on])
    rw [waits, count]
    obtain ⟨queued, -, -, injections, injectWaits⟩ := (taken.waitInject p).queueWrites_queued testOp p x [(actOwn + 0x2000, 0xFFFFFFFF, 0)] .plain
      (beBytes 4 (s.sec.injections + 1)) rfl rfl
    exact ⟨queued, injectWaits, injections⟩

end

/-- Settles O46: each command's packet passes Table 13-3 and queues the writes of its row; a key and an injection wait beside their write. -/
theorem packetWritesWaitForTheNextFrame : Obligations.PacketWritesWaitForTheNextFrame := by
  intro p x s
  refine ⟨fun ws hws hp => ?_, fun ws hws hp => ?_, fun es hes hp => ?_, ?_, fun rootOk => ?_, ?_⟩
  · subst hws
    exact queued_of_passes hp rfl fun _ => rfl
  · subst hws
    exact queued_of_passes hp rfl fun _ => rfl
  · subst hes
    exact queued_of_passes hp rfl fun _ => rfl
  · simp only [List.forall_mem_cons, List.not_mem_nil, false_implies, implies_true, and_true]
    and_intros <;> exact fun hp => queued_of_passes hp rfl fun _ => rfl
  · simp only [List.forall_mem_cons, List.not_mem_nil, false_implies, implies_true, and_true]
    exact ⟨keyLoad_ends rootOk rfl, keyLoad_ends rootOk rfl⟩
  · simp only [List.forall_mem_cons, List.not_mem_nil, false_implies, implies_true, and_true]
    and_intros <;> exact inject_ends rfl

end Sys2Proof.Machine
end

section
/-! Chapter 03: one loop for one frame (R72 to R75, R85), and the references of the stages (R64). -/

namespace Sys2Proof.Machine

/-! ## The order of exact fractions -/

section
variable {a b : Frac}

theorem Frac.lt_eq_not_le (a b : Frac) : a.lt b = !b.le a := by simp [Frac.lt, Frac.le, ← decide_not]

theorem Frac.lt_eq_false_of_le (h : b.le a = true) : a.lt b = false := by rw [a.lt_eq_not_le b, h, Bool.not_true]

@[simp] theorem Frac.eq_self (a : Frac) : a.eq a = true := by simp [Frac.eq]

theorem Frac.max_eq_left (h : b.le a = true) : a.max b = a := if_neg (by simp [Frac.lt_eq_false_of_le h])

theorem Frac.min_eq_left (h : a.le b = true) : a.min b = a := if_neg (by simp [Frac.lt_eq_false_of_le h])

@[simp] theorem Frac.isZero_abs (a : Frac) : a.abs.isZero = a.isZero := by simp [Frac.abs, Frac.isZero]

end

/-- A float of mantissa 0 is 0, whatever its exponent. -/
theorem BF24.isZero_frac {x : BF24} (h : x.m = 0) : x.frac.isZero = true := by
  unfold BF24.frac Flt.frac Frac.scale
  rw [h]
  split <;> simp [Frac.ofInt, Frac.isZero]

/-! ## The limiter (R75) -/

/-- A rate of 0 disables the rate limit: only the clamps cut, and a cut by the upper one hides the lower one's mark. -/
theorem limiter_rate_zero {rate : BF24} (h : rate.m = 0) (u yPrev hi lo : BF24) :
    limiter u yPrev rate hi lo = (roundBF ((u.frac.max lo.frac).min hi.frac), false, hi.frac.lt (u.frac.max lo.frac),
      u.frac.lt lo.frac && !hi.frac.lt (u.frac.max lo.frac)) := by
  simp [limiter, BF24.isZero_frac h]

/-- Between the clamps, without a rate limit, the limiter lets its input through. -/
theorem limiter_passes {u rate hi lo : BF24} (free : rate.m = 0) (above : lo.le u = true) (below : u.le hi = true) (yPrev : BF24) :
    limiter u yPrev rate hi lo = (roundBF u.frac, false, false, false) := by
  have hmax : u.frac.max lo.frac = u.frac := Frac.max_eq_left above
  have hmin : u.frac.min hi.frac = u.frac := Frac.min_eq_left below
  have notLow : u.frac.lt lo.frac = false := Frac.lt_eq_false_of_le above
  have notHigh : hi.frac.lt u.frac = false := Frac.lt_eq_false_of_le below
  rw [limiter_rate_zero free, hmax, hmin, notLow, notHigh, Bool.false_and]

/-! ## A loop that is not enabled -/

theorem Block.mem_zero {n : Nat} {m : Int} (h : m ∈ (Block.zero n).ms) : m = 0 := List.eq_of_mem_replicate h

section
variable {i : LoopIn} (l : Nat) (x : LoopRt)

/-- Out of service a loop drives nothing, marks nothing, and holds nothing of its past. -/
theorem loopStep_disabled (off : i.enabled = false) :
    (loopStep l x i).1.y = .zero ∧ (loopStep l x i).1.integ = ⟨0, -32⟩ ∧ (loopStep l x i).1.enabled = false ∧
      (loopStep l x i).1.eb = .zero (errSamples l i.cs.split) ∧ (loopStep l x i).1.hb = .zero (outSamples l) ∧
      (loopStep l x i).1.sb = .zero (secSamples l) ∧
      (loopStep l x i).2 = { sat := false, ovf := false, preset := false, rateAct := false, hiAct := false, loAct := false } := by
  unfold loopStep
  rw [if_pos (by simp [off])]
  and_intros <;> rfl

/-! ## An enabled loop -/

/-- The loop as `loopStep` computes with it: a form that it did not run before starts from the samples both hold (R80). -/
def LoopRt.inForm (x : LoopRt) (l : Nat) (split : Bool) : LoopRt :=
  if x.split != split then
    { x with sb := .zero (secSamples l), hb := .zero (outSamples l), integ := ⟨0, -32⟩, eb := x.eb.resize (errSamples l split) }
  else x

theorem LoopRt.inForm_same {split : Bool} (h : x.split = split) : x.inForm l split = x := if_neg (by simp [h])

/-- A change of form leaves the output and the count of clamped frames. -/
theorem LoopRt.inForm_frame (split : Bool) : (x.inForm l split).y = x.y ∧ (x.inForm l split).hiFrames = x.hiFrames := by
  unfold LoopRt.inForm
  split <;> exact ⟨rfl, rfl⟩

/-- In MANUAL the compensator's output is the manual power over the link voltage, and the integrator stays as the form holds it (R85). -/
theorem loopStep_manual (on : i.enabled = true) (man : i.manual = true) :
    (loopStep l x i).1.yc = (divBF ((Frac.ofInt 1000).mul i.pman.frac) i.vlink.frac).1 ∧
      (loopStep l x i).1.integ = (x.inForm l i.cs.split).integ := by
  unfold loopStep
  rw [if_neg (by simp [on])]
  exact ⟨if_pos man, if_pos man⟩

/-- The limiter stage of an enabled loop (R75): what it takes, what it gives, and the count of the frames in a row that its upper clamp cuts. -/
theorem loopStep_limits (on : i.enabled = true) :
    (loopStep l x i).1.u = roundBF ((loopStep l x i).1.yc.frac.add i.f.frac) ∧
      (loopStep l x i).1.y = (limiter (loopStep l x i).1.u (x.inForm l i.cs.split).y i.rate i.hi i.lo).1 ∧
      (loopStep l x i).2.hiAct = (limiter (loopStep l x i).1.u (x.inForm l i.cs.split).y i.rate i.hi i.lo).2.2.1 ∧
      (loopStep l x i).1.hiFrames = if (loopStep l x i).2.hiAct then (x.inForm l i.cs.split).hiFrames + 1 else 0 := by
  unfold loopStep
  rw [if_neg (by simp [on])]
  exact ⟨rfl, rfl, rfl, rfl⟩

end

/-! ## The references of the stages (R64) -/

theorem refField_range (y : BF24) : -(2 ^ 23 : Int) ≤ refField y ∧ refField y ≤ 2 ^ 23 - 1 := by
  unfold refField clampInt
  omega

theorem refField_zero : refField .zero = 0 := by decide

theorem shareOf_weightless (y : BF24) (w : Nat) : shareOf y 0 w = (.zero, .zero) := if_pos rfl

/-- The loop of a stage: its zone's, the storage loop, or its group's. -/
def State.loopOf (s : State) (n : Fin 26) : Nat := if n.val < 16 then s.osZone n else if n.val < 22 then 4 else 5 + s.feGroup (n - 22)

theorem State.vget_stageRefs (s : State) (n : Fin 26) :
    vget s.stageRefs n = if s.loopOf n < 7 ∧ ¬(n.val < 16 ∧ 4 ≤ s.loopOf n) then
      refField (shareOf (s.loop (s.loopOf n)).y (s.wSum (s.loopOf n)) (s.laneW n)).1 else 0 := vget_ofFn _ n

/-- Where no stage of its loop has weight, a stage receives 0. -/
theorem State.stageRefs_weightless {s : State} {n : Fin 26} (h : s.wSum (s.loopOf n) = 0) : vget s.stageRefs n = 0 := by
  rw [s.vget_stageRefs n, h, shareOf_weightless, refField_zero, ite_self]

/-- Settles O8: the two cases of `loopStep`, the limiter between its clamps, and the share of a stage. -/
theorem loopsComputeAndShare : Obligations.LoopsComputeAndShare := by
  refine ⟨fun l x i off => ?_, fun l x i on man => ?_, fun l x i on => ?_, fun u yPrev rate hi lo free above below => ?_, refField_range,
    fun s n h => State.stageRefs_weightless h⟩
  · obtain ⟨y, integ, enabled, eb, hb, sb, marks⟩ := loopStep_disabled l x off
    refine ⟨y, integ, enabled, fun m hm => ?_, marks⟩
    rw [eb, hb, sb, List.mem_append, List.mem_append] at hm
    obtain (hm | hm) | hm := hm <;> exact Block.mem_zero hm
  · obtain ⟨yc, integ⟩ := loopStep_manual l x on man
    exact ⟨yc, fun same => by rw [integ, x.inForm_same l same]⟩
  · obtain ⟨y, hiFrames⟩ := x.inForm_frame l i.cs.split
    rw [← y, ← hiFrames]
    exact loopStep_limits l x on
  · exact limiter_passes free above below yPrev

end Sys2Proof.Machine
end

section
/-! Chapter 04: the profile generator at forecast frames, and the correction for state of charge (R97, R100 to R105, R470). -/

namespace Sys2Proof.Machine

section
variable (s : State)

/-! ## The registers that show the generator -/

theorem State.prfRegs_prf : s.prfRegs.prf = s.prf := by simp [State.prfRegs]

theorem State.prfRegs_regsOff : s.prfRegs.regsOff (· ∈ prfShown) s :=
  State.regsOff.wr (.wr (.wr (.wr (.wr (.rfl' s) (by decide) _) (by decide) _) (by decide) _) (by decide) _) (by decide) _

/-- No two of those registers share an address, so that each shows its own value. -/
theorem State.prfRegs_shownProfile : s.prfRegs.shownProfile := by
  unfold State.shownProfile
  rw [s.prfRegs_prf]
  simp [State.prfRegs, State.putBF, State.rd_wr, Reg.PRF_POS, Reg.PRF_VELO, Reg.PRF_ACCEL, Reg.PRF_TARGET, Reg.PRF_SOC_CORR]

theorem State.flag_prfRegs_atTarget : s.prfRegs.flag Fd.PRF_STAT_at_target = s.flag Fd.PRF_STAT_at_target :=
  s.prfRegs_regsOff.flag (by decide)

/-- A state whose registers differ from those of `s` in the status alone differs from it in the status and the shown registers, once it shows
its generator. -/
theorem State.regsOff.prfRegs {s t : State} (h : t.regsOff (· ∈ [Reg.PRF_STAT]) s) : t.prfRegs.withinRegs s (Reg.PRF_STAT :: prfShown) :=
  (t.prfRegs_regsOff.mono fun _ ha => List.mem_cons_of_mem _ ha).trans (h.mono fun _ ha => List.mem_cons.2 (.inl (List.mem_singleton.1 ha)))

/-! ## The step (R100) -/

theorem profileStep_atTarget {vmax amax jmax tgt p v a : Flt} (h : (profileStep vmax amax jmax tgt p v a).atTarget = true) :
    (profileStep vmax amax jmax tgt p v a).p = tgt ∧ (profileStep vmax amax jmax tgt p v a).v = .wzero ∧
      (profileStep vmax amax jmax tgt p v a).a = .wzero := by
  unfold profileStep at h ⊢
  dsimp only at h ⊢
  split at h
  · next near => simp only [if_pos near, and_self]
  · exact absurd h Bool.false_ne_true

/-- The step of R100 from what the generator holds towards a target, under the limits that stand in the registers. -/
def State.stepTo (tgt : Flt) : StepOut :=
  profileStep (wofBF (s.getBF Reg.PRF_VEL)) (wofBF (s.getBF Reg.PRF_ACC)) (wofBF (s.getBF Reg.PRF_JERK)) tgt s.prf.p s.prf.v s.prf.a

/-- The generator takes a step. -/
def State.stepTaken (o : StepOut) : State :=
  { s with prf := { s.prf with pk := s.prf.p, pk1 := o.p, p := o.p, v := o.v, a := o.a } }.setFlag Fd.PRF_STAT_at_target o.atTarget

theorem State.stepTaken_prf (o : StepOut) :
    (s.stepTaken o).prf = { s.prf with pk := s.prf.p, pk1 := o.p, p := o.p, v := o.v, a := o.a } := State.setFlag_prf _ _ _

theorem State.flag_stepTaken (o : StepOut) : (s.stepTaken o).flag Fd.PRF_STAT_at_target = o.atTarget :=
  State.flag_setFlag_same _ _ _ (by decide) rfl

theorem State.stepTaken_regsOff (o : StepOut) : (s.stepTaken o).regsOff (· ∈ [Reg.PRF_STAT]) s :=
  .setFlag ((State.regsOff.rfl' s).upd rfl) (by decide) _

/-! ## The measured draw (R470) -/

theorem State.trackDraw_prf : s.trackDraw.prf =
    { s.prf with p := s.drawnBefore, pk := s.drawnBefore, pk1 := s.drawnBefore, v := .wzero, a := .wzero } := State.setFlag_prf _ _ _

theorem State.flag_trackDraw : s.trackDraw.flag Fd.PRF_STAT_at_target = false := State.flag_setFlag_same _ _ _ (by decide) rfl

theorem State.trackDraw_regsOff : s.trackDraw.regsOff (· ∈ [Reg.PRF_STAT]) s := .setFlag ((State.regsOff.rfl' s).upd rfl) (by decide) _

/-! ## The command -/

theorem State.formTarget_prf : s.formTarget.prf = { s.prf with pTgt := s.pTarget } := rfl

theorem State.formTarget_regsOff (P : Nat → Prop) : s.formTarget.regsOff P s := .of_regs (.rfl' s) rfl

/-- The forming of the target changes neither the groups' modes nor the grid's state. -/
theorem State.formTarget_reads : (s.formTarget.groupAuto 0 || s.formTarget.groupAuto 1) = (s.groupAuto 0 || s.groupAuto 1) ∧
    s.formTarget.gridDown = s.gridDown := ⟨rfl, rfl⟩

/-- The generator at a forecast frame's start, before its registers show it: it stands, follows the draw, or takes a step. -/
def State.generatorMoved : State :=
  if (s.groupAuto 0 || s.groupAuto 1) = false then s.formTarget
  else if s.gridDown = true then s.formTarget.trackDraw
  else s.formTarget.stepTaken (s.stepTo s.pTarget)

theorem execProfileStep_elsewhere (h : s.fcStart = false) : execProfileStep s = .next s := by
  unfold execProfileStep
  rw [if_pos (by simp [h])]

theorem execProfileStep_moves (h : s.fcStart = true) : execProfileStep s = .next s.generatorMoved.prfRegs := by
  obtain ⟨auto, grid⟩ := s.formTarget_reads
  unfold execProfileStep State.generatorMoved
  rw [if_neg (by simp [h])]
  dsimp only
  rw [auto, grid]
  cases s.groupAuto 0 || s.groupAuto 1 with
  | false => rfl
  | true =>
    cases s.gridDown with
    | true => rfl
    | false => rfl

theorem State.generatorMoved_stands (h : (s.groupAuto 0 || s.groupAuto 1) = false) : s.generatorMoved = s.formTarget := if_pos h

theorem State.generatorMoved_follows (h : (s.groupAuto 0 || s.groupAuto 1) = true) (down : s.gridDown = true) :
    s.generatorMoved = s.formTarget.trackDraw := (if_neg (by simp [h])).trans (if_pos down)

theorem State.generatorMoved_steps (h : (s.groupAuto 0 || s.groupAuto 1) = true) (up : s.gridDown = false) :
    s.generatorMoved = s.formTarget.stepTaken (s.stepTo s.pTarget) := (if_neg (by simp [h])).trans (if_neg (by simp [up]))

theorem State.generatorMoved_frame : s.generatorMoved.prf.pTgt = s.pTarget ∧ s.generatorMoved.regsOff (· ∈ [Reg.PRF_STAT]) s := by
  have formed := s.formTarget_regsOff (· ∈ [Reg.PRF_STAT])
  unfold State.generatorMoved
  split_ifs
  · exact ⟨rfl, formed⟩
  · exact ⟨by rw [State.trackDraw_prf, State.formTarget_prf], s.formTarget.trackDraw_regsOff.trans formed⟩
  · exact ⟨by rw [State.stepTaken_prf, State.formTarget_prf], (s.formTarget.stepTaken_regsOff _).trans formed⟩

/-! ## The correction for state of charge (R105) -/

theorem execSocCorrectionUpdate_elsewhere (h : s.slowStart = false) : execSocCorrectionUpdate s = .next s := by
  unfold execSocCorrectionUpdate
  rw [if_pos (by simp [h])]

/-- The correction is held, before the registers show it. -/
def State.socCorrected : State := { s with prf := { s.prf with pSoc := roundW s.socCorrection } }

theorem execSocCorrectionUpdate_forms (h : s.slowStart = true) : execSocCorrectionUpdate s = .next s.socCorrected.prfRegs := by
  unfold execSocCorrectionUpdate
  rw [if_neg (by simp [h])]
  rfl

theorem State.socCorrection_off (h : s.flag Fd.PRF_CTRL_soc_en = false ∨ (List.range 3).any s.onSwing = false) : s.socCorrection = Frac.zero := by
  unfold State.socCorrection
  exact if_neg (by rcases h with h | h <;> simp only [h, Bool.false_and, Bool.and_false, Bool.false_eq_true, not_false_eq_true])

theorem roundW_zero : roundW Frac.zero = .wzero := by decide

end

/-- Settles O11: a forecast frame's start ends in one of the three cases of `State.generatorMoved`, whose registers are then shown. -/
theorem profileAdvancesAtForecastFrames : Obligations.ProfileAdvancesAtForecastFrames := by
  intro s
  refine ⟨execProfileStep_elsewhere s, fun start => ?_, execSocCorrectionUpdate_elsewhere s, fun start => ?_⟩
  · have done := execProfileStep_moves s start
    obtain ⟨target, off⟩ := s.generatorMoved_frame
    refine ⟨_, done, ?_, State.prfRegs_shownProfile _, ?_, ?_, ?_, off.prfRegs, (ProfMove.execProfileStep_keeps (.rfl' s) _ done).within⟩
    · rw [State.prfRegs_prf, target]
    · intro manual
      rw [State.prfRegs_prf, s.generatorMoved_stands manual, State.formTarget_prf]
    · intro auto down
      rw [State.flag_prfRegs_atTarget, State.prfRegs_prf, s.generatorMoved_follows auto down]
      exact ⟨State.flag_trackDraw _, State.trackDraw_prf _⟩
    · intro auto up
      rw [State.flag_prfRegs_atTarget, State.prfRegs_prf, s.generatorMoved_steps auto up]
      exact ⟨s.stepTo s.pTarget, rfl, profileStep_atTarget, State.flag_stepTaken _ _, State.stepTaken_prf _ _⟩
  · have done := execSocCorrectionUpdate_forms s start
    refine ⟨_, done, State.prfRegs_prf _, State.prfRegs_shownProfile _, ?_, ?_, (ProfMove2.execSocCorrectionUpdate_keeps (.rfl' s) _ done).within⟩
    · intro disabled
      rw [State.prfRegs_prf]
      exact (congrArg roundW (s.socCorrection_off disabled)).trans roundW_zero
    · exact State.regsOff.withinRegs ((State.prfRegs_regsOff _).trans (.of_regs (.rfl' s) rfl))

end Sys2Proof.Machine
end

section
/-! Chapter 04: the forecast fallback and the honey reserve (R98, R107, R141). -/

namespace Sys2Proof.Machine

section
variable (s : State)

/-! ## A field that is written where a condition holds -/

theorem State.putWhere_frame (f : Fld) (c : Bool) (v : Nat) : (if c = true then s.put f v else s).withinRegs s [f.addr] ∧
    (if c = true then s.put f v else s).within s [.regs] :=
  ⟨State.regsOff.withinRegs (.ite (fun _ => .put (.rfl' s) (List.mem_singleton.2 rfl) _) fun _ => .rfl' s),
    .ite (fun _ => .put (.rfl' s) (by decide) _ _) fun _ => .rfl' s⟩

theorem State.flag_setFlagWhere (f : Fld) (c b : Bool) (h : f.lo + f.len ≤ 32) (h1 : f.len = 1) :
    (if c = true then s.setFlag f b else s).flag f = if c = true then b else s.flag f := by
  split
  · exact s.flag_setFlag_same f b h h1
  · rfl

/-! ## The fallback (R98) -/

/-- The fallback begins: forecasts are stale, there is none, or they are not enabled. -/
def State.fallbackDue : Bool :=
  decide (64 ≤ s.get Fd.PRF_STAT_stale_count) || s.prf.pBase.isNone || !s.flag Fd.PRF_CTRL_fc_en

theorem execForecastFallback_ends : ∃ t, execForecastFallback s = .next t ∧ t.withinRegs s [Reg.PRF_STAT] ∧ t.within s [.regs] ∧
    t.flag Fd.PRF_STAT_fallback = (s.flag Fd.PRF_STAT_fallback || s.fallbackDue) := by
  obtain ⟨regs, parts⟩ := s.putWhere_frame Fd.PRF_STAT_fallback s.fallbackDue (b2n true)
  refine ⟨_, rfl, regs, parts, (s.flag_setFlagWhere _ s.fallbackDue true (by decide) rfl).trans ?_⟩
  cases s.fallbackDue <;> simp

/-- The fallback ends: enough fresh forecasts in a row, and forecasts are enabled. -/
def State.fallbackOver : Bool := decide (16 ≤ s.prf.freshCount) && s.flag Fd.PRF_CTRL_fc_en

theorem execFallbackExit_ends : ∃ t, execFallbackExit s = .next t ∧ t.withinRegs s [Reg.PRF_STAT] ∧ t.within s [.regs] ∧
    t.flag Fd.PRF_STAT_fallback = (s.flag Fd.PRF_STAT_fallback && !s.fallbackOver) := by
  obtain ⟨regs, parts⟩ := s.putWhere_frame Fd.PRF_STAT_fallback s.fallbackOver (b2n false)
  refine ⟨_, rfl, regs, parts, (s.flag_setFlagWhere _ s.fallbackOver false (by decide) rfl).trans ?_⟩
  cases s.fallbackOver <;> simp

/-! ## The honey reserve (R107, R141) -/

theorem execHoneyReserveOpen_stays (h : s.prf.resCond = false ∨ s.flag Fd.PRF_STAT_reserve_open = true) : execHoneyReserveOpen s = .next s := by
  unfold execHoneyReserveOpen
  rw [if_neg (by rcases h with h | h <;> simp [h])]

/-- The reserve is open, and its weights are taken. -/
def State.reserveOpened : State := { s with zfb := { s.zfb with ssW := s.reserveWeights } }.setFlag Fd.PRF_STAT_reserve_open true

theorem execHoneyReserveOpen_opens (h : s.prf.resCond = true) (closed : s.flag Fd.PRF_STAT_reserve_open = false) :
    execHoneyReserveOpen s = .next s.reserveOpened := by
  unfold execHoneyReserveOpen
  rw [if_pos (by simp [h, closed])]
  rfl

theorem State.ssW_fin (i : Fin 6) : s.ssW i = vget s.zfb.ssW i := dif_pos i.isLt

theorem State.reserveOpened_zfb : s.reserveOpened.zfb = { s.zfb with ssW := s.reserveWeights } := State.setFlag_zfb _ _ _

/-- The stages of the RESERVE strings take full weight, and the others keep theirs. -/
theorem State.ssW_reserveOpened (i : Fin 6) : s.reserveOpened.ssW i =
    if s.get (Fd.ZFB_STR_duty (i / 2)) = 1 ∧ s.strDecl (i / 2) = true ∧ s.ssFenced i = false then 512 else s.ssW i := by
  rw [State.ssW_fin, s.reserveOpened_zfb, s.ssW_fin]
  simp [State.reserveWeights, and_assoc]

theorem State.reserveOpened_regsOff : s.reserveOpened.regsOff (· ∈ [Reg.PRF_STAT]) s := .setFlag ((State.regsOff.rfl' s).upd rfl) (by decide) _

theorem execHoneyReserveClose_ends : ∃ t, execHoneyReserveClose s = .next t ∧ t.withinRegs s [Reg.PRF_STAT] ∧ t.within s [.regs] ∧
    t.flag Fd.PRF_STAT_reserve_open = (s.flag Fd.PRF_STAT_reserve_open && !(s.slowStart && decide (1024 ≤ s.prf.quietFc))) := by
  obtain ⟨regs, parts⟩ := s.putWhere_frame Fd.PRF_STAT_reserve_open
    (s.slowStart && s.flag Fd.PRF_STAT_reserve_open && decide (1024 ≤ s.prf.quietFc)) (b2n false)
  refine ⟨_, rfl, regs, parts, (s.flag_setFlagWhere _ _ false (by decide) rfl).trans ?_⟩
  cases s.flag Fd.PRF_STAT_reserve_open <;> simp

end

/-- Settles O12: the ends of the fallback and of the reserve are one flag each, written where its condition holds; the opening takes the weights too. -/
theorem fallbackAndReserveFollowTheirCounts : Obligations.FallbackAndReserveFollowTheirCounts := by
  intro s
  refine ⟨?_, execFallbackExit_ends s, fun cond closed => ?_, execHoneyReserveOpen_stays s, execHoneyReserveClose_ends s⟩
  · obtain ⟨t, done, regs, parts, flag⟩ := execForecastFallback_ends s
    exact ⟨t, done, regs, parts, by simpa [State.fallbackDue, Bool.or_assoc] using flag⟩
  · have done := execHoneyReserveOpen_opens s cond closed
    have zfb : s.reserveOpened.zfb = { s.zfb with ssW := s.reserveOpened.zfb.ssW } := by rw [s.reserveOpened_zfb]
    exact ⟨_, done, State.flag_setFlag_same _ _ _ (by decide) rfl, s.reserveOpened_regsOff.withinRegs, s.ssW_reserveOpened, zfb,
      (Reserve.execHoneyReserveOpen_keeps (.rfl' s) _ done).within⟩

end Sys2Proof.Machine
end

section
/-! SUPPORT for chapters 04 and 16: pair faults that keep their class (R440 to R445). -/

namespace Sys2Proof.Machine

/-! ## The class of the record -/

section
variable {rem : List RemUnit} {b : Fin 18} {own : Bool} {code cls unit : Nat}

/-- A fault whose kind, class and unit the block does not remember does not escalate. -/
theorem State.notHeld.escalate {s : State} (h : s.notHeld b own cls unit) (code : Nat) :
    Machine.escalate (vget s.flt.rem b) b own code cls unit = cls := by
  have held : (vget s.flt.rem b).any (fun r => r.own == own && r.cls == cls && r.unit == unit) = false := by
    simpa [State.notHeld] using h
  unfold Machine.escalate
  rw [held]
  rfl

/-- A pair fault of class Fence keeps its class. -/
theorem escalate_pairFence : Machine.escalate rem b false code 2 unit = 2 := by
  unfold Machine.escalate
  simp

end

/-! ## What the record leaves -/

section
variable (s : State) (b : Fin 18) (cls unit : Nat)

/-- The bit of the fault's class is set beside those that stand. -/
theorem State.get_setPending_pair (h : cls < 3) :
    (s.setPending b false cls unit).get (Fd.FLT_STAT_pair_pend b) = s.get (Fd.FLT_STAT_pair_pend b) ||| 2 ^ cls := by
  have bit : 2 ^ cls < 2 ^ 3 := Nat.pow_lt_pow_right (by decide) h
  unfold State.setPending
  rw [State.get_mk]
  exact s.get_put_small (Fd.FLT_STAT_pair_pend b) _ (by decide : 0 + 3 ≤ 32) (Nat.or_lt_two_pow (s.get_lt (Fd.FLT_STAT_pair_pend b)) bit)

theorem State.capture_hmp (b : Nat) (info : Word) (addr master : Nat) : (s.capture b info addr master).hmp = s.hmp :=
  (RegOnly.capture (RegOnly.rfl' s) b info addr master).within .hmp (by decide)

/-- Hamper's mark of a fault is not the one of an expiry. -/
theorem State.Has.faultHit {s : State} {v : Bool} (h : s.Has (·.hmp.followHit) v) :
    ({ s with hmp := { s.hmp with faultHit := true } } : State).Has (·.hmp.followHit) v := ⟨h.eq⟩

theorem State.countFault_followHit (info : Word) (addr master : Nat) :
    (s.countFault b info cls addr master).Has (·.hmp.followHit) s.hmp.followHit := by
  have captured : ((s.bump (Fd.FLT_STAT_count b)).capture b info addr master).Has (·.hmp.followHit) s.hmp.followHit :=
    ⟨congrArg HmpRt.followHit ((State.capture_hmp _ b info addr master).trans (s.bump_hmp _))⟩
  unfold State.countFault
  generalize (s.bump (Fd.FLT_STAT_count b)).capture b info addr master = t at captured ⊢
  exact .ite (fun _ => captured.faultHit) fun _ => captured

/-- What a pair fault that keeps its class, Derate or Fence, counts and marks, and what it leaves alone. -/
structure State.PairFault (t : State) : Prop where
  window : t.regsOff (inWindow b) s
  counted : t.faultCounted s b
  pending : t.get (Fd.FLT_STAT_pair_pend b) = s.get (Fd.FLT_STAT_pair_pend b) ||| 2 ^ cls
  followHit : t.hmp.followHit = s.hmp.followHit
  parts : t.within s [.regs, .hmp, .flt]

variable {b cls} {code : Nat}

theorem State.record_pairFault (pair : isOwnFault b code = false) (kept : escalate (vget s.flt.rem b) b false code cls unit = cls) (h0 : cls ≠ 0)
    (h3 : cls < 3) : s.PairFault b cls (s.record b code cls unit) := by
  have recorded := State.recordAt_pending (access := 0) (addr := 0) (master := 0) pair kept h0 (Nat.ne_of_lt h3) fun h => absurd rfl h
  obtain ⟨regs, counted, parts⟩ := State.recordAt_pending_frame recorded
  refine ⟨regs, counted, ?_, ?_, parts⟩
  · unfold State.record
    rw [recorded, State.get_setPending_pair _ _ _ _ h3,
      s.get_countFault_apart b _ cls 0 0 (Fd.FLT_STAT_pair_pend b) rfl (.inr (.inl (by decide : 0 + 3 ≤ 16)))]
  · unfold State.record
    rw [recorded]
    exact (congrArg HmpRt.followHit (State.setPending_within _ b false cls unit .hmp (by decide))).trans (s.countFault_followHit b cls _ 0 0).eq

end

end Sys2Proof.Machine
end

section
/-! Chapters 04 and 05: stale strings, expired loops, exhausted storage, and the retries of a zone (R109, R117, R119 to R121, R499, R501). -/

namespace Sys2Proof.Machine

/-! ## Stale strings (R109) -/

section
variable (s : State)

/-- The fault of a stale string is marked, so that it is recorded once. -/
def State.staleMarked (i : Fin 3) : State := { s with prf := { s.prf with staleFault := vset s.prf.staleFault i true } }

theorem execStringSocStale_stale {i : Fin 3} (decl : s.strDecl i = true) (valid : vget s.prf.socValid i = true)
    (late : 4 < vget s.prf.sweepsSinceSoc i) (first : vget s.prf.staleFault i = false) :
    execStringSocStale i s = .next ((s.staleMarked i).record Blk.est 0x10 1 (0x700 + i)) := by
  unfold execStringSocStale
  rw [if_pos (by simp [decl, valid, late, first])]
  rfl

theorem execStringSocStale_quiet {i : Fin 3} (h : vget s.prf.sweepsSinceSoc i ≤ 4 ∨ vget s.prf.staleFault i = true) :
    execStringSocStale i s = .next s := by
  unfold execStringSocStale
  rw [if_neg (by rcases h with h | h <;> simp [h])]

theorem State.within_prf (x : PrfRt) : ({ s with prf := x } : State).within s [.prf] := by
  intro p hp
  cases p
  case prf => exact (hp (by decide)).elim
  all_goals rfl

theorem execStringSocStale_ends {i : Fin 3} (decl : s.strDecl i = true) (valid : vget s.prf.socValid i = true)
    (late : 4 < vget s.prf.sweepsSinceSoc i) (first : vget s.prf.staleFault i = false) (new : s.notHeld 11 false 1 (0x700 + i)) :
    ∃ t, execStringSocStale i s = .next t ∧ vget t.prf.staleFault i = true ∧ t.faultCounted s 11 ∧
      t.get (Fd.FLT_STAT_pair_pend 11) = s.get (Fd.FLT_STAT_pair_pend 11) ||| 2 ∧ t.within s [.regs, .hmp, .prf, .flt] := by
  obtain ⟨-, counted, pending, -, parts⟩ :=
    (s.staleMarked i).record_pairFault (b := Blk.est) (code := 0x10) (cls := 1) (0x700 + i) (by decide) (new.escalate _) (by decide) (by decide)
  have prf := parts .prf (by decide)
  refine ⟨_, execStringSocStale_stale s decl valid late first, ?_, counted, pending, ?_⟩
  · exact (congrArg (fun x : PrfRt => vget x.staleFault i) prf).trans (vget_vset_same _ _ _)
  · exact (parts.mono (by decide)).trans ((s.within_prf _).mono (by decide))

/-! ## Expired loops (R117, R119, R121) -/

theorem execFollowExpiry_expires {l : Fin 7} (on : s.get (Fd.LPE_FOLLOW_CTRL_timer_limit l) ≠ 0)
    (due : s.get (Fd.LPE_FOLLOW_CTRL_timer_limit l) ≤ s.get (Fd.LPE_FOLLOW_STAT_timer l)) (first : (s.loop l).expireNow = false) :
    execFollowExpiry l s = .next ((s.expireLoop l).record Blk.lpe (followFault l).1 (followFault l).2.1 (followFault l).2.2) := by
  unfold execFollowExpiry
  dsimp only
  rw [if_pos (by simp [on, due, first])]

/-- The faults of Table 04-5 are pair faults of class Derate or Fence: Derate for the DC link alone. -/
theorem followFault_pair (l : Fin 7) : isOwnFault Blk.lpe (followFault l).1 = false ∧ (followFault l).2.1 = (if l = 4 then 1 else 2) ∧
    (l = 4 → (followFault l).2.2 = 0x600) := by
  revert l
  decide

theorem State.loop_fin (l : Fin 7) : s.loop l = vget s.lpe.loops l := dif_pos l.isLt

/-- The loop's expiry is marked, with its reaction and Hamper's trigger, before its status shows it. -/
def State.expiryMarked (l : Fin 7) : State :=
  { s with lpe := { s.lpe with loops := vset s.lpe.loops l { s.loop l with expireNow := true }, react := vset s.lpe.react l true }
           hmp := { s.hmp with followHit := true } }

theorem State.expireLoop_eq (l : Fin 7) : s.expireLoop l = ((s.expiryMarked l).setFlag (Fd.LPE_FOLLOW_STAT_expired l) true).setFlag
    (Fd.LPE_FOLLOW_STAT_cause l) (decide (l.val < 4) && (s.loop l).hiAll) := rfl

theorem State.expireLoop_parts (l : Fin 7) : (s.expireLoop l).lpe = (s.expiryMarked l).lpe ∧ (s.expireLoop l).hmp = (s.expiryMarked l).hmp ∧
    (s.expireLoop l).flt = s.flt := by
  rw [s.expireLoop_eq]
  simp [State.expiryMarked]

theorem State.flag_expireLoop (l : Fin 7) : (s.expireLoop l).flag (Fd.LPE_FOLLOW_STAT_expired l) = true ∧
    (s.expireLoop l).flag (Fd.LPE_FOLLOW_STAT_cause l) = (decide (l.val < 4) && (s.loop l).hiAll) := by
  rw [s.expireLoop_eq]
  constructor
  · rw [State.flag_setFlag_apart _ (Fd.LPE_FOLLOW_STAT_cause l) _ _ (by decide : 2 + 1 ≤ 32) (.inr (.inl (by decide : 1 + 1 ≤ 2)))]
    exact State.flag_setFlag_same _ (Fd.LPE_FOLLOW_STAT_expired l) true (by decide : 1 + 1 ≤ 32) rfl
  · exact State.flag_setFlag_same _ (Fd.LPE_FOLLOW_STAT_cause l) _ (by decide : 2 + 1 ≤ 32) rfl

theorem State.expireLoop_regsOff (l : Fin 7) : (s.expireLoop l).regsOff (· = Reg.LPE_FOLLOW_STAT l) s := by
  have marked : (s.expiryMarked l).regsOff (· = Reg.LPE_FOLLOW_STAT l) s := (State.regsOff.rfl' s).upd rfl
  rw [s.expireLoop_eq]
  exact State.regsOff.setFlag (f := Fd.LPE_FOLLOW_STAT_cause l) (marked.setFlag (f := Fd.LPE_FOLLOW_STAT_expired l) rfl _) rfl _

theorem State.within_lpe_hmp (x : LpeRt) (y : HmpRt) : ({ s with lpe := x, hmp := y } : State).within s [.lpe, .hmp] := by
  intro p hp
  cases p
  case lpe | hmp => exact (hp (by decide)).elim
  all_goals rfl

theorem State.expireLoop_within (l : Fin 7) : (s.expireLoop l).within s [.regs, .lpe, .hmp] :=
  .setFlag (.setFlag ((s.within_lpe_hmp _ _).mono (by decide)) (by decide) _ _) (by decide) _ _

/-- A loop's status stands before the window of its block, and the windows of the others behind it. -/
theorem not_inWindow_followStat (l : Fin 7) (b : Nat) : ¬inWindow b (Reg.LPE_FOLLOW_STAT l) := by
  have hl := l.isLt
  unfold inWindow Reg.LPE_FOLLOW_STAT
  omega

theorem State.get_expireLoop_window (l : Fin 7) {f : Fld} (h : f.addr = Reg.FLT_STAT 1) : (s.expireLoop l).get f = s.get f :=
  (s.expireLoop_regsOff l).get fun e => not_inWindow_followStat l 1 (e ▸ h ▸ inWindow_fltStat 1)

/-- A loop that expires: its fault keeps its class, since a pair fault of class Fence does not escalate, and that of the DC link is new. -/
theorem State.expireLoop_fault {l : Fin 7} (new : l = 4 → s.notHeld 1 false 1 0x600) :
    (s.expireLoop l).PairFault Blk.lpe (if l = 4 then 1 else 2)
      ((s.expireLoop l).record Blk.lpe (followFault l).1 (followFault l).2.1 (followFault l).2.2) := by
  obtain ⟨pair, cls, unit⟩ := followFault_pair l
  obtain ⟨-, -, flt⟩ := s.expireLoop_parts l
  rw [cls]
  by_cases link : l = 4
  · rw [if_pos link, unit link]
    have kept := (new link).escalate (followFault l).1
    exact State.record_pairFault _ _ pair (by rw [flt]; exact kept) (by decide) (by decide)
  · rw [if_neg link]
    exact State.record_pairFault _ _ pair escalate_pairFence (by decide) (by decide)

theorem execFollowExpiry_ends {l : Fin 7} (on : s.get (Fd.LPE_FOLLOW_CTRL_timer_limit l) ≠ 0)
    (due : s.get (Fd.LPE_FOLLOW_CTRL_timer_limit l) ≤ s.get (Fd.LPE_FOLLOW_STAT_timer l)) (first : (s.loop l).expireNow = false)
    (new : l = 4 → s.notHeld 1 false 1 0x600) :
    ∃ t, execFollowExpiry l s = .next t ∧ t.flag (Fd.LPE_FOLLOW_STAT_expired l) = true ∧
      t.flag (Fd.LPE_FOLLOW_STAT_cause l) = (decide (l.val < 4) && (s.loop l).hiAll) ∧ vget t.lpe.react l = true ∧
      (∀ i, i ≠ l → vget t.lpe.react i = vget s.lpe.react i) ∧ (t.loop l).expireNow = true ∧ t.hmp.followHit = true ∧ t.faultCounted s 1 ∧
      t.get (Fd.FLT_STAT_pair_pend 1) = s.get (Fd.FLT_STAT_pair_pend 1) ||| (if l = 4 then 2 else 4) ∧ t.within s [.regs, .lpe, .hmp, .flt] := by
  refine ⟨_, execFollowExpiry_expires s on due first, ?_⟩
  obtain ⟨window, counted, pending, followHit, parts⟩ := s.expireLoop_fault new
  generalize (s.expireLoop l).record Blk.lpe (followFault l).1 (followFault l).2.1 (followFault l).2.2 = t at *
  obtain ⟨expired, cause⟩ := s.flag_expireLoop l
  obtain ⟨lpe, hmp, -⟩ := s.expireLoop_parts l
  have status : ¬inWindow Blk.lpe (Reg.LPE_FOLLOW_STAT l) := not_inWindow_followStat l _
  have loops : t.lpe = (s.expiryMarked l).lpe := (parts .lpe (by decide)).trans lpe
  refine ⟨(window.flag status).trans expired, (window.flag status).trans cause, ?_, fun i hi => ?_, ?_, ?_, ?_, ?_, ?_⟩
  · rw [loops]
    exact vget_vset_same _ _ _
  · rw [loops]
    exact vget_vset_other _ _ hi
  · rw [t.loop_fin, loops]
    exact congrArg LoopRt.expireNow (vget_vset_same _ _ _)
  · exact followHit.trans (congrArg HmpRt.followHit hmp)
  · exact counted.trans (by rw [s.get_expireLoop_window l rfl]; rfl)
  · refine pending.trans ?_
    rw [s.get_expireLoop_window l rfl]
    split <;> rfl
  · exact (parts.mono (by decide)).trans ((s.expireLoop_within l).mono (by decide))

/-! ## Exhausted storage (Table 04-5) -/

theorem execStorageExhaustionClear_clears (h : s.prf.linkExhaust = true) (ok : 256 ≤ s.prf.linkOkFrames) :
    execStorageExhaustionClear s = .next { s with prf := { s.prf with linkExhaust := false } } := by
  unfold execStorageExhaustionClear
  rw [if_pos (by simp [h, ok])]

end

/-! ## The stages that a zone's fence held (R501) -/

section
variable {z : Fin 4} {k : Fin 16} {P Q : Fin 16 → Prop} {r s t : State}

/-- A stage is HELD, bound to a zone. -/
def State.heldIn (s : State) (z : Fin 4) (k : Fin 16) : Prop := s.osZone k = z ∧ s.osState k = 0xB

/-- A stage starts its pre-charge towards a zone. -/
def State.returnsTo (t : State) (z : Fin 4) (k : Fin 16) : Prop := t.osState k = 4 ∧ (t.os k).step = .pre ∧ (t.os k).dst = z

/-- A stage is as it was. -/
def State.stageKept (t s : State) (k : Fin 16) : Prop := t.os k = s.os k ∧ t.rd (Reg.ZFB_OS k) = s.rd (Reg.ZFB_OS k)

/-- Of the stages that `P` names, those HELD in zone `z` have returned, and no other stage has changed. -/
structure State.Returned (z : Fin 4) (P : Fin 16 → Prop) (t s : State) : Prop where
  pre : ∀ k, P k → s.heldIn z k → t.returnsTo z k
  kept : ∀ k, ¬(P k ∧ s.heldIn z k) → t.stageKept s k
  off : t.regsOff inStages s
  zoneFenced : t.zfb.zoneFenced = s.zfb.zoneFenced
  retryDue : t.zfb.retryDue = s.zfb.retryDue
  parts : t.within s [.regs, .zfb]

theorem State.stageKept.heldIn_iff (h : t.stageKept s k) : t.heldIn z k ↔ s.heldIn z k := by
  unfold State.heldIn State.osZone State.osState State.get
  rw [show (Fd.ZFB_OS_zone k).addr = Reg.ZFB_OS k from rfl, show (Fd.ZFB_OS_state k).addr = Reg.ZFB_OS k from rfl, h.2]

theorem State.stageKept.returnsTo (h : t.stageKept s k) (hs : s.returnsTo z k) : t.returnsTo z k := by
  obtain ⟨os, reg⟩ := h
  obtain ⟨state, step, dst⟩ := hs
  exact ⟨(State.osState_congr k reg).trans state, os ▸ step, os ▸ dst⟩

theorem State.returnsTo.not_heldIn (h : s.returnsTo z k) : ¬s.heldIn z k := fun held => absurd (h.1.symm.trans held.2) (by decide)

theorem State.Returned.none (s : State) : s.Returned z (fun _ => False) s :=
  ⟨fun _ h => h.elim, fun _ _ => ⟨rfl, rfl⟩, .rfl' s, rfl, rfl, .rfl' s⟩

/-- A stage that has returned is HELD no longer, so that it is met once. -/
theorem State.Returned.trans (h : t.Returned z P s) (h' : s.Returned z Q r) : t.Returned z (fun k => Q k ∨ P k) r where
  pre k hk held := by
    by_cases first : Q k
    · have back := h'.pre k first held
      exact (h.kept k fun again => back.not_heldIn again.2).returnsTo back
    · exact h.pre k (hk.resolve_left first) ((h'.kept k fun hq => first hq.1).heldIn_iff.2 held)
  kept k hk := by
    have first := h'.kept k fun hq => hk ⟨.inl hq.1, hq.2⟩
    have second := h.kept k fun hp => hk ⟨.inr hp.1, first.heldIn_iff.1 hp.2⟩
    exact ⟨second.1.trans first.1, second.2.trans first.2⟩
  off := h.off.trans h'.off
  zoneFenced := h.zoneFenced.trans h'.zoneFenced
  retryDue := h.retryDue.trans h'.retryDue
  parts := h.parts.trans h'.parts

variable (s)

theorem State.zoneFenced_fin (z : Fin 4) : s.zoneFenced z = vget s.zfb.zoneFenced z := dif_pos z.isLt

/-- A stage whose zone is not fenced goes on to its pre-charge, once its switch is open (R139). -/
theorem State.settleOs_pre (held : s.heldIn z k) (free : vget s.zfb.zoneFenced z = false) :
    s.settleOs k = (s.setOs k { s.os k with heldAfter := false, clearReq := false, src := 4 }).startPre k z := by
  obtain ⟨zone, -⟩ := held
  have hz := z.isLt
  unfold State.settleOs
  dsimp only
  rw [zone, if_neg (by omega), if_neg (by rw [s.zoneFenced_fin, free]; exact Bool.false_ne_true)]

theorem State.os_setOs_same (k : Fin 16) (o : OsRt) : (s.setOs k o).os k = o := by
  simp only [State.os, State.setOs, vget_vset_same]

theorem State.os_setOs_other {j k : Fin 16} (o : OsRt) (h : j ≠ k) : (s.setOs k o).os j = s.os j := by
  simp only [State.os, State.setOs, vget_vset_other _ _ h]

theorem State.setOs_zones (k : Fin 16) (o : OsRt) :
    (s.setOs k o).zfb.zoneFenced = s.zfb.zoneFenced ∧ (s.setOs k o).zfb.retryDue = s.zfb.retryDue := ⟨rfl, rfl⟩

theorem State.putOs_zfb (k st w : Nat) : (s.putOs k st w).zfb = s.zfb := by
  unfold State.putOs
  rw [State.put_zfb, State.put_zfb]

/-- The sequence of a stage that starts its pre-charge towards a zone. -/
def OsRt.starting (o : OsRt) (z : Nat) : OsRt := { o with step := .pre, j := 0, dst := z, openCmd := true }

theorem State.startPre_eq (k : Fin 16) (z : Nat) : s.startPre k z = (s.putOs k 4 0).setOs k ((s.os k).starting z) := rfl

theorem State.startPre_returnsTo (k : Fin 16) (z : Fin 4) : (s.startPre k z).returnsTo z k := by
  have shown : ((s.putOs k 4 0).setOs k ((s.os k).starting z)).osState k = (s.putOs k 4 0).osState k :=
    State.osState_congr k (congrArg (Regs.get · (Reg.ZFB_OS k)) (State.setOs_regs _ k _))
  rw [s.startPre_eq]
  refine ⟨shown.trans (s.osState_putOs k 0 (by decide)), ?_, ?_⟩
  · rw [State.os_setOs_same, OsRt.starting]
  · rw [State.os_setOs_same, OsRt.starting]

theorem State.startPre_regsOff (k : Fin 16) (z : Nat) : (s.startPre k z).regsOff (· ∈ [Reg.ZFB_OS k]) s :=
  s.startPre_eq k z ▸ (s.putOs_regsOff k 4 0).of_regs (State.setOs_regs _ k _)

theorem State.os_startPre_other {j k : Fin 16} (z : Nat) (h : j ≠ k) : (s.startPre k z).os j = s.os j := by
  rw [s.startPre_eq, State.os_setOs_other _ _ h, State.os, s.putOs_zfb, State.os]

theorem State.startPre_zones (k : Fin 16) (z : Nat) :
    (s.startPre k z).zfb.zoneFenced = s.zfb.zoneFenced ∧ (s.startPre k z).zfb.retryDue = s.zfb.retryDue := by
  obtain ⟨fenced, due⟩ := (s.putOs k 4 0).setOs_zones k ((s.os k).starting z)
  rw [s.startPre_eq, fenced, due, s.putOs_zfb]
  exact ⟨rfl, rfl⟩

theorem State.startPre_within (k : Fin 16) (z : Nat) : (s.startPre k z).within s [.regs, .zfb] := by
  have shown : (s.putOs k 4 0).within s [.regs, .zfb] := .put (.put (.rfl' s) (by decide) _ _) (by decide) _ _
  rw [s.startPre_eq]
  exact ((State.setOs_within _ k _).mono (by decide)).trans shown

/-- A HELD stage of the zone returns. -/
def State.settleHeld (z : Fin 4) (k : Fin 16) : State := if s.osZone k == z && s.osState k == 0xB then s.settleOs k else s

theorem State.settleHeld_returned (free : vget s.zfb.zoneFenced z = false) (k : Fin 16) : (s.settleHeld z k).Returned z (· = k) s := by
  unfold State.settleHeld
  by_cases held : s.heldIn z k
  · obtain ⟨zone, state⟩ := held
    rw [if_pos (by simp [zone, state]), s.settleOs_pre ⟨zone, state⟩ free]
    generalize ho : ({ s.os k with heldAfter := false, clearReq := false, src := 4 } : OsRt) = o
    obtain ⟨fenced, due⟩ := (s.setOs k o).startPre_zones k z
    have off := ((s.setOs k o).startPre_regsOff k z).trans (.of_regs (.rfl' s) (s.setOs_regs k o))
    refine ⟨fun j hj _ => by rw [hj]; exact State.startPre_returnsTo _ k z, fun j hj => ?_,
      off.mono fun _ ha => List.mem_singleton.1 ha ▸ inStages_os k, fenced, due,
      (State.startPre_within _ k z).trans ((s.setOs_within k o).mono (by decide))⟩
    have other : j ≠ k := fun e => hj ⟨e, e ▸ ⟨zone, state⟩⟩
    exact ⟨(State.os_startPre_other _ z other).trans (s.os_setOs_other o other),
      off _ fun m => os_injective (fun e => other (Fin.ext e)) (List.mem_singleton.1 m)⟩
  · rw [if_neg (by simpa [State.heldIn] using held)]
    exact ⟨fun j hj h => absurd (hj ▸ h) held, fun _ _ => ⟨rfl, rfl⟩, .rfl' s, rfl, rfl, .rfl' s⟩

theorem State.settleHeld_all (free : vget s.zfb.zoneFenced z = false) (l : List (Fin 16)) :
    (l.foldl (fun u k => u.settleHeld z k) s).Returned z (· ∈ l) s := by
  induction l generalizing s with
  | nil => simpa using State.Returned.none (z := z) s
  | cons k l ih =>
    have first := s.settleHeld_returned free k
    simpa using (ih (s.settleHeld z k) (first.zoneFenced ▸ free)).trans first

/-- The zone's fence is taken away, before its stages return. -/
def State.zoneFreed (z : Fin 4) : State :=
  { s with zfb := { s.zfb with zoneFenced := vset s.zfb.zoneFenced z false, retryDue := vset s.zfb.retryDue z false } }

theorem State.unfenceZone_fenced (h : vget s.zfb.zoneFenced z = true) :
    s.unfenceZone z = (List.finRange 16).foldl (fun u k => u.settleHeld z k) (s.zoneFreed z) := by
  unfold State.unfenceZone
  rw [if_neg (by simp [h])]
  rfl

theorem State.zoneFreed_free (z : Fin 4) : vget (s.zoneFreed z).zfb.zoneFenced z = false ∧ vget (s.zoneFreed z).zfb.retryDue z = false :=
  ⟨vget_vset_same _ _ _, vget_vset_same _ _ _⟩

/-- A zone without its fence: every HELD stage of it returns. -/
theorem State.unfenceZone_returned (h : vget s.zfb.zoneFenced z = true) : (s.unfenceZone z).Returned z (fun _ => True) (s.zoneFreed z) := by
  rw [s.unfenceZone_fenced h]
  simpa using (s.zoneFreed z).settleHeld_all (s.zoneFreed_free z).1 (List.finRange 16)

/-! ## The retries of a zone (R120, R499) -/

theorem execZoneRetry_due (fenced : vget s.zfb.zoneFenced z = true) (due : vget s.zfb.retryDue z = true) (now : vget s.zfb.retryLeft z = 0) :
    execZoneRetry z s = .next ((s.unfenceZone z).bumpSat (Fd.LPE_FOLLOW_STAT_retries_used z)) := by
  unfold execZoneRetry
  rw [if_pos (by simp [fenced, due, now])]

theorem State.get_bumpSat_same (f : Fld) (h : f.lo + f.len ≤ 32) : (s.bumpSat f).get f = min (s.get f + 1) (2 ^ f.len - 1) :=
  s.get_put_small f _ h (by have := Nat.two_pow_pos f.len; omega)

theorem not_inStages_followStat (z : Fin 4) : ¬inStages (Reg.LPE_FOLLOW_STAT z) := by
  have hz := z.isLt
  unfold inStages Reg.LPE_FOLLOW_STAT
  omega

theorem followStat_ne_os (z : Fin 4) (k : Fin 16) : Reg.ZFB_OS k ≠ Reg.LPE_FOLLOW_STAT z := fun e => not_inStages_followStat z (e ▸ inStages_os k)

theorem State.stageKept.bumpRetries {s t : State} (h : t.stageKept s k) (z : Fin 4) : (t.bumpSat (Fd.LPE_FOLLOW_STAT_retries_used z)).stageKept s k :=
  ⟨h.1, (t.rd_wr_other _ _ _ (followStat_ne_os z k)).trans h.2⟩

theorem execZoneRetry_ends (fenced : vget s.zfb.zoneFenced z = true) (due : vget s.zfb.retryDue z = true) (now : vget s.zfb.retryLeft z = 0) :
    ∃ t, execZoneRetry z s = .next t ∧ vget t.zfb.zoneFenced z = false ∧ vget t.zfb.retryDue z = false ∧
      t.get (Fd.LPE_FOLLOW_STAT_retries_used z) = min (s.get (Fd.LPE_FOLLOW_STAT_retries_used z) + 1) (2 ^ (Fd.LPE_FOLLOW_STAT_retries_used z).len - 1) ∧
      (∀ k, s.heldIn z k → t.returnsTo z k) ∧ (∀ k, ¬s.heldIn z k → t.stageKept s k) ∧ t.within s [.regs, .zfb] := by
  refine ⟨_, execZoneRetry_due s fenced due now, ?_⟩
  obtain ⟨free, done⟩ := s.zoneFreed_free z
  obtain ⟨pre, kept, off, fence, retry, parts⟩ := s.unfenceZone_returned fenced
  generalize s.unfenceZone z = t at *
  have same (k : Fin 16) : (t.bumpSat (Fd.LPE_FOLLOW_STAT_retries_used z)).stageKept t k := State.stageKept.bumpRetries ⟨rfl, rfl⟩ z
  have used : t.get (Fd.LPE_FOLLOW_STAT_retries_used z) = s.get (Fd.LPE_FOLLOW_STAT_retries_used z) :=
    off.get (f := Fd.LPE_FOLLOW_STAT_retries_used z) (not_inStages_followStat z)
  rw [State.bumpSat_zfb, fence, retry]
  refine ⟨free, done, ?_, fun k held => (same k).returnsTo (pre k trivial held), fun k other => ?_, ?_⟩
  · rw [t.get_bumpSat_same _ (by decide : 8 + 4 ≤ 32), used]
  · exact (kept k fun h => other h.2).bumpRetries z
  · exact .put (parts.trans ((s.within_zfb _).mono (by decide))) (by decide) _ _

theorem execRetriesReset_ends (z : Fin 4) : ∃ t, execRetriesReset z s = .next t ∧ t.withinRegs s [Reg.LPE_FOLLOW_STAT z] ∧ t.within s [.regs] ∧
    t.get (Fd.LPE_FOLLOW_STAT_retries_used z) = (if s.slowStart && vget s.zfb.doneWhole z then 0 else s.get (Fd.LPE_FOLLOW_STAT_retries_used z)) := by
  obtain ⟨regs, parts⟩ := s.putWhere_frame (Fd.LPE_FOLLOW_STAT_retries_used z) (s.slowStart && vget s.zfb.doneWhole z) 0
  refine ⟨_, rfl, regs, parts, ?_⟩
  split
  · exact s.get_put_small _ 0 (by decide : 8 + 4 ≤ 32) (by decide : 0 < 2 ^ 4)
  · rfl

end

/-- Settles O13: each clause is the end of its command; a zone's retry returns the stages that its fence held. -/
theorem supervisionExpiresAndRetries : Obligations.SupervisionExpiresAndRetries := by
  intro s
  refine ⟨fun i decl valid late first new => execStringSocStale_ends s decl valid late first new, fun i => execStringSocStale_quiet s,
    fun l on due first new => execFollowExpiry_ends s on due first new, execStorageExhaustionClear_clears s, fun z fenced due now => ?_,
    execRetriesReset_ends s⟩
  obtain ⟨t, done, free, retry, used, returned, kept, parts⟩ := execZoneRetry_ends s fenced due now
  exact ⟨t, done, free, retry, used, fun k zone state => returned k ⟨zone, state⟩, kept, parts⟩

end Sys2Proof.Machine
end

section
/-! SUPPORT for chapter 05: what a stage shows, and operations that move one stage, or one register, by itself (R129, R134). -/

namespace Sys2Proof.Machine

/-! ## What a stage shows -/

section
variable {s t : State} {k : Fin 16} {st w z : Nat}

/-- Where the register of a stage reads the same, the stage shows the same. -/
theorem State.stageAt.of_rd (h : s.stageAt k st w z) (e : t.rd (Reg.ZFB_OS k) = s.rd (Reg.ZFB_OS k)) : t.stageAt k st w z := by
  obtain ⟨state, weight, zone⟩ := h
  exact ⟨(congrArg (getBits · 12 4) e).trans state, (congrArg (getBits · 0 10) e).trans weight, (congrArg (getBits · 16 3) e).trans zone⟩

theorem State.stageAt.of_regs (h : s.stageAt k st w z) (e : t.regs = s.regs) : t.stageAt k st w z :=
  h.of_rd (congrArg (Regs.get · (Reg.ZFB_OS k)) e)

variable (s) (k)

theorem State.putState_stageAt (h : st < 16) : (s.put (Fd.ZFB_OS_state k) st).stageAt k st (s.osWeight k) (s.osZone k) :=
  ⟨s.get_put_small (Fd.ZFB_OS_state k) st (by decide : 12 + 4 ≤ 32) h,
    s.get_put_apart (Fd.ZFB_OS_state k) (Fd.ZFB_OS_weight k) st (by decide : 12 + 4 ≤ 32) (.inr (.inl (by decide : 0 + 10 ≤ 12))),
    s.get_put_apart (Fd.ZFB_OS_state k) (Fd.ZFB_OS_zone k) st (by decide : 12 + 4 ≤ 32) (.inr (.inr (by decide : 12 + 4 ≤ 16)))⟩

theorem State.putWeight_stageAt (h : w < 1024) : (s.put (Fd.ZFB_OS_weight k) w).stageAt k (s.osState k) w (s.osZone k) :=
  ⟨s.get_put_apart (Fd.ZFB_OS_weight k) (Fd.ZFB_OS_state k) w (by decide : 0 + 10 ≤ 32) (.inr (.inr (by decide : 0 + 10 ≤ 12))),
    s.get_put_small (Fd.ZFB_OS_weight k) w (by decide : 0 + 10 ≤ 32) h,
    s.get_put_apart (Fd.ZFB_OS_weight k) (Fd.ZFB_OS_zone k) w (by decide : 0 + 10 ≤ 32) (.inr (.inr (by decide : 0 + 10 ≤ 16)))⟩

/-- The binding has three bits. -/
theorem State.putZone_stageAt (z : Nat) : (s.put (Fd.ZFB_OS_zone k) z).stageAt k (s.osState k) (s.osWeight k) (z % 8) :=
  ⟨s.get_put_apart (Fd.ZFB_OS_zone k) (Fd.ZFB_OS_state k) z (by decide : 16 + 3 ≤ 32) (.inr (.inl (by decide : 12 + 4 ≤ 16))),
    s.get_put_apart (Fd.ZFB_OS_zone k) (Fd.ZFB_OS_weight k) z (by decide : 16 + 3 ≤ 32) (.inr (.inl (by decide : 0 + 10 ≤ 16))),
    s.get_put_same (Fd.ZFB_OS_zone k) z (by decide : 16 + 3 ≤ 32)⟩

theorem State.putCause_stageAt (c : Nat) : (s.put (Fd.ZFB_OS_fence_cause k) c).stageAt k (s.osState k) (s.osWeight k) (s.osZone k) :=
  ⟨s.get_put_apart (Fd.ZFB_OS_fence_cause k) (Fd.ZFB_OS_state k) c (by decide : 24 + 3 ≤ 32) (.inr (.inl (by decide : 12 + 4 ≤ 24))),
    s.get_put_apart (Fd.ZFB_OS_fence_cause k) (Fd.ZFB_OS_weight k) c (by decide : 24 + 3 ≤ 32) (.inr (.inl (by decide : 0 + 10 ≤ 24))),
    s.get_put_apart (Fd.ZFB_OS_fence_cause k) (Fd.ZFB_OS_zone k) c (by decide : 24 + 3 ≤ 32) (.inr (.inl (by decide : 16 + 3 ≤ 24)))⟩

theorem State.putOs_stageAt (hst : st < 16) (hw : w < 1024) : (s.putOs k st w).stageAt k st w (s.osZone k) := by
  obtain ⟨state, -, zone⟩ := s.putState_stageAt k hst
  have shown := (s.put (Fd.ZFB_OS_state k) st).putWeight_stageAt k hw
  rwa [state, zone] at shown

end

/-! ## One stage moves alone -/

/-- `t` is `s` but for the sequence of stage `k` and the registers that `P` names. -/
structure State.Moved (t s : State) (k : Fin 16) (P : Nat → Prop) : Prop where
  off : t.regsOff P s
  others : ∀ i, i ≠ k → t.os i = s.os i
  parts : t.within s [.regs, .zfb]
  zfb : t.zfb = { s.zfb with os := t.zfb.os }

section
variable {P Q : Nat → Prop} {k : Fin 16} {s t : State}

theorem State.Moved.rfl' (s : State) : s.Moved s k P := ⟨.rfl' s, fun _ _ => rfl, .rfl' s, rfl⟩

theorem State.Moved.mono (h : t.Moved s k P) (hPQ : ∀ a, P a → Q a) : t.Moved s k Q := ⟨h.off.mono hPQ, h.others, h.parts, h.zfb⟩

theorem State.Moved.put (h : t.Moved s k P) {f : Fld} (hf : P f.addr) (v : Nat) : (t.put f v).Moved s k P :=
  ⟨h.off.put hf v, h.others, h.parts.put (by decide) f v, h.zfb⟩

theorem State.Moved.putOs (h : t.Moved s k P) (hk : P (Reg.ZFB_OS k)) (st w : Nat) : (t.putOs k st w).Moved s k P :=
  (h.put (f := Fd.ZFB_OS_state k) hk st).put (f := Fd.ZFB_OS_weight k) hk w

theorem State.Moved.setOs (h : t.Moved s k P) (o : OsRt) : (t.setOs k o).Moved s k P :=
  ⟨h.off.of_regs (t.setOs_regs k o), fun i hi => (t.os_setOs_other o hi).trans (h.others i hi), ((t.setOs_within k o).mono (by decide)).trans h.parts,
    congrArg (fun x : ZfbRt => { x with os := vset t.zfb.os k o }) h.zfb⟩

/-- Stage `k` stands in a state, with a weight, a binding and a sequence; `t` is `s` otherwise, but for the registers listed. -/
structure State.Enters (t s : State) (k : Fin 16) (l : List Nat) (st w z : Nat) (o : OsRt) : Prop where
  moved : t.Moved s k (· ∈ Reg.ZFB_OS k :: l)
  shown : t.stageAt k st w z
  os : t.os k = o

variable {l l' : List Nat} {st w z : Nat} {o : OsRt}

/-- A stage that has moved, and then takes a state, a weight and a sequence. -/
theorem State.Moved.enters (h : t.Moved s k (· ∈ Reg.ZFB_OS k :: l)) (hst : st < 16) (hw : w < 1024) (o : OsRt) :
    ((t.putOs k st w).setOs k o).Enters s k l st w (t.osZone k) o :=
  ⟨(h.putOs List.mem_cons_self st w).setOs o, (t.putOs_stageAt k hst hw).of_regs (State.setOs_regs _ k o), State.os_setOs_same _ k o⟩

theorem State.Enters.mono (h : t.Enters s k l st w z o) (hl : l ⊆ l') : t.Enters s k l' st w z o :=
  ⟨h.moved.mono fun _ m => List.cons_subset_cons _ hl m, h.shown, h.os⟩

end

/-! ## Registers that an operation over a list treats one by one -/

section
variable {s t : State}

/-- A field's write goes by what its own register holds. -/
theorem State.rd_put_own {f : Fld} {a v : Nat} (hf : f.addr = a) (e : t.rd a = s.rd a) : (t.put f v).rd a = (s.put f v).rd a := by
  subst hf
  rw [State.put, State.rd_wr_same, e, State.put, State.rd_wr_same]

variable {α : Type} {r : α → Nat} {f : State → α → State}

theorem State.rd_foldl_off (off : ∀ u i j, j ≠ i → (f u i).rd (r j) = u.rd (r j)) {l : List α} {j : α} (h : j ∉ l) (t : State) :
    (l.foldl f t).rd (r j) = t.rd (r j) := by
  induction l generalizing t with
  | nil => rfl
  | cons i l ih =>
    rw [List.mem_cons, not_or] at h
    exact (ih h.2 _).trans (off t i j h.1)

/-- Where each entry's step acts on that entry's register alone, and by it and what `K` keeps, the register is the one after its own step. -/
theorem State.rd_foldl_own {K : State → Prop} (off : ∀ u i j, j ≠ i → (f u i).rd (r j) = u.rd (r j)) (keeps : ∀ u i, K u → K (f u i))
    (own : ∀ u i, K u → u.rd (r i) = s.rd (r i) → (f u i).rd (r i) = (f s i).rd (r i)) {l : List α} (nodup : l.Nodup) {j : α} (hj : j ∈ l)
    (ht : K t) (same : ∀ i ∈ l, t.rd (r i) = s.rd (r i)) : (l.foldl f t).rd (r j) = (f s j).rd (r j) := by
  induction l generalizing t with
  | nil => cases hj
  | cons i l ih =>
    obtain ⟨fresh, rest⟩ := List.nodup_cons.1 nodup
    rcases List.mem_cons.1 hj with rfl | later
    · exact (State.rd_foldl_off off fresh _).trans (own t j ht (same j List.mem_cons_self))
    · refine ih rest later (keeps t i ht) fun n hn => ?_
      exact (off t i n fun e => fresh (e ▸ hn)).trans (same n (List.mem_cons_of_mem _ hn))

end

end Sys2Proof.Machine
end

section
/-! Chapter 05: the phases of an output stage's sequence, and the end of a batch (R134, R135, R149, R150). -/

namespace Sys2Proof.Machine

/-! ## The end of a batch (R135) -/

section
variable {s t : State}

theorem State.busyMask_congr (h : t.zfb.os = s.zfb.os) : t.busyMask = s.busyMask := by
  unfold State.busyMask State.os
  rw [h]

/-- A bit for each stage. -/
theorem State.busyMask_lt (s : State) : s.busyMask < 2 ^ 16 := by
  have all : (List.finRange 16).foldl (fun m (k : Fin 16) => m + 2 ^ k.val) 0 < 2 ^ 16 := by decide
  refine Nat.lt_of_le_of_lt (List.foldl_rel (r := (· ≤ ·)) (Nat.le_refl 0) fun k _ m n hmn => ?_) all
  have bit : (if (s.os k).inBatch then 2 ^ k.val else 0) ≤ 2 ^ k.val := by split <;> simp
  exact Nat.add_le_add hmn bit

/-- What ZFB_COMB_STAT shows of the batch, and whether it goes on (R135). -/
structure State.Synced (t s : State) : Prop where
  off : t.regsOff (· ∈ [Reg.ZFB_COMB_STAT]) s
  zfb : t.zfb = { s.zfb with batchOn := t.zfb.batchOn }
  parts : t.within s [.regs, .zfb]
  mask : t.get Fd.ZFB_COMB_STAT_busy_mask = t.busyMask
  ended : s.zfb.batchOn = true → t.busyMask = 0 → t.zfb.batchOn = false ∧ t.flag Fd.ZFB_COMB_STAT_batch_done = true
  goesOn : t.busyMask ≠ 0 → t.zfb.batchOn = s.zfb.batchOn

theorem State.Synced.os (h : t.Synced s) (i : Fin 16) : t.os i = s.os i := by
  unfold State.os
  rw [h.zfb]

theorem State.Synced.rd_os (h : t.Synced s) (i : Nat) : t.rd (Reg.ZFB_OS i) = s.rd (Reg.ZFB_OS i) :=
  h.off _ fun m => os_ne_combStat i (List.mem_singleton.1 m)

theorem State.endBatch_get_mask (s : State) : s.endBatch.get Fd.ZFB_COMB_STAT_busy_mask = s.get Fd.ZFB_COMB_STAT_busy_mask :=
  State.get_setFlag_apart _ Fd.ZFB_COMB_STAT_batch_done Fd.ZFB_COMB_STAT_busy_mask true (by decide) (.inr (.inr (by decide)))

theorem State.endBatch_within (s : State) : s.endBatch.within s [.regs, .zfb] :=
  .setFlag ((s.within_zfb _).mono (by decide)) (by decide) _ _

theorem State.endBatch_regsOff (s : State) : s.endBatch.regsOff (· ∈ [Reg.ZFB_COMB_STAT]) s :=
  .setFlag ((State.regsOff.rfl' s).upd rfl) (by decide) _

theorem State.endBatch_ends (s : State) : s.endBatch.zfb = { s.zfb with batchOn := false } ∧ s.endBatch.flag Fd.ZFB_COMB_STAT_batch_done = true :=
  ⟨rfl, State.flag_setFlag_same _ _ _ (by decide) rfl⟩

theorem State.syncBatch_synced (s : State) : s.syncBatch.Synced s := by
  have shown := s.get_put_small Fd.ZFB_COMB_STAT_busy_mask s.busyMask (by decide) s.busyMask_lt
  have off : (s.put Fd.ZFB_COMB_STAT_busy_mask s.busyMask).regsOff (· ∈ [Reg.ZFB_COMB_STAT]) s := .put (.rfl' s) (by decide) _
  have parts : (s.put Fd.ZFB_COMB_STAT_busy_mask s.busyMask).within s [.regs, .zfb] := .put (.rfl' s) (by decide) _ _
  have zfb := s.put_zfb Fd.ZFB_COMB_STAT_busy_mask s.busyMask
  unfold State.syncBatch
  generalize s.put Fd.ZFB_COMB_STAT_busy_mask s.busyMask = u at *
  by_cases ends : s.zfb.batchOn = true ∧ s.busyMask = 0
  · obtain ⟨done, flag⟩ := u.endBatch_ends
    rw [zfb] at done
    have mask : u.endBatch.busyMask = s.busyMask := State.busyMask_congr (by rw [done])
    rw [if_pos (by simp [ends])]
    exact ⟨u.endBatch_regsOff.trans off, by rw [done], u.endBatch_within.trans parts, (u.endBatch_get_mask.trans shown).trans mask.symm,
      fun _ _ => ⟨congrArg ZfbRt.batchOn done, flag⟩, fun busy => absurd (mask.trans ends.2) busy⟩
  · have mask : u.busyMask = s.busyMask := State.busyMask_congr (congrArg ZfbRt.os zfb)
    rw [if_neg (by simpa using ends)]
    exact ⟨off, by rw [zfb], parts, shown.trans mask.symm, fun on idle => absurd ⟨on, mask.symm.trans idle⟩ ends,
      fun _ => congrArg ZfbRt.batchOn zfb⟩

end

/-! ## The phases (Table 05-2, Table 05-3) -/

/-- The sequence of a stage that comes to a point of its state. -/
def OsRt.reaching (o : OsRt) (p : Step05) : OsRt := { o with step := p, j := 0 }

/-- The sequence of a stage that has ended it: none, with its switch and its zones as they stand. -/
def OsRt.ended (o : OsRt) : OsRt := { OsRt.reset with swSeen := o.swSeen, openCmd := o.openCmd, dst := o.dst, src := o.src }

section
variable (s : State) (k : Fin 16)

theorem State.endOs_eq (st w : Nat) : s.endOs k st w = (s.putOs k st w).setOs k (s.os k).ended := rfl

/-- A stage that parks is bound to no zone. -/
theorem State.parkOs_enters : (s.parkOs k).Enters s k [] 0 0 4 (s.os k).ended := by
  obtain ⟨-, -, zone⟩ := s.putZone_stageAt k 4
  have unbound : (s.put (Fd.ZFB_OS_zone k) 4).Moved s k (· ∈ [Reg.ZFB_OS k]) := (State.Moved.rfl' s).put (List.mem_singleton.2 rfl) 4
  have kept : (s.put (Fd.ZFB_OS_zone k) 4).os k = s.os k := by
    unfold State.os
    rw [s.put_zfb]
  have parked := unbound.enters (st := 0) (w := 0) (by decide) (by decide) (s.os k).ended
  rw [zone] at parked
  unfold State.parkOs
  rwa [State.endOs_eq, kept]

theorem State.startPre_enters (z : Nat) : (s.startPre k z).Enters s k [] 4 0 (s.osZone k) ((s.os k).starting z) :=
  (State.Moved.rfl' s).enters (by decide) (by decide) _

/-- A stage that becomes ACTIVE; cap_limited of its zone may clear with it (R147). -/
theorem State.activeOs_enters : (s.activeOs k).Enters s k [Reg.ZFB_ZONE_STAT (s.osZone k)] 1 512 (s.osZone k) (s.os k).ended := by
  have other : Reg.ZFB_OS k ≠ Reg.ZFB_ZONE_STAT (s.osZone k) := by
    unfold Reg.ZFB_OS Reg.ZFB_ZONE_STAT
    omega
  unfold State.activeOs
  dsimp only
  split
  · have cleared : (s.setFlag (Fd.ZFB_ZONE_STAT_cap_limited (s.osZone k)) false).Moved s k (· ∈ [Reg.ZFB_OS k, Reg.ZFB_ZONE_STAT (s.osZone k)]) :=
      (State.Moved.rfl' s).put (List.mem_cons_of_mem _ (List.mem_singleton.2 rfl)) _
    have zone : (s.setFlag (Fd.ZFB_ZONE_STAT_cap_limited (s.osZone k)) false).osZone k = s.osZone k := s.get_wr_other _ _ (Fd.ZFB_OS_zone k) other
    have active := cleared.enters (st := 1) (w := 512) (by decide) (by decide) (s.os k).ended
    rwa [zone] at active
  · exact (State.Moved.rfl' s).enters (by decide) (by decide) _

variable {s k}

/-- RAMP_OUT ends in OPENING, which waits for zero current. -/
theorem State.phaseEnds.rampOut (h : s.phaseEnds k) (st : s.osState k = 2) :
    (s.phaseEnd k).Enters s k [] 3 0 (s.osZone k) ((s.os k).reaching .zeroWait) := by
  obtain ⟨weight, ran⟩ : s.osWeight k = 0 ∧ 1 ≤ (s.os k).j := by simpa [State.phaseEnds, st] using h
  have ends : s.phaseEnd k = (s.putOs k 3 0).setOs k ((s.os k).reaching .zeroWait) := by simp [State.phaseEnd, st, weight, ran, OsRt.reaching]
  exact ends ▸ (State.Moved.rfl' s).enters (by decide) (by decide) _

/-- The dwell of OPENING ends in the pre-charge towards a zone that takes the stage. -/
theorem State.phaseEnds.openingOn (h : s.phaseEnds k) (st : s.osState k = 3) (near : (s.os k).dst < 4) (free : s.zoneFenced (s.os k).dst = false) :
    (s.phaseEnd k).Enters s k [] 4 0 (s.osZone k) ((s.os k).starting (s.os k).dst) := by
  obtain ⟨step, ran⟩ : (s.os k).step = .openDwell ∧ 16 ≤ (s.os k).j := by simpa [State.phaseEnds, st] using h
  have ends : s.phaseEnd k = s.startPre k (s.os k).dst := by simp [State.phaseEnd, st, step, ran, free, Nat.not_le.2 near]
  exact ends ▸ s.startPre_enters k _

/-- The dwell of OPENING parks a stage without a zone to go to. -/
theorem State.phaseEnds.openingOut (h : s.phaseEnds k) (st : s.osState k = 3) (out : 4 ≤ (s.os k).dst ∨ s.zoneFenced (s.os k).dst = true) :
    (s.phaseEnd k).Enters s k [] 0 0 4 (s.os k).ended := by
  obtain ⟨step, ran⟩ : (s.os k).step = .openDwell ∧ 16 ≤ (s.os k).j := by simpa [State.phaseEnds, st] using h
  have ends : s.phaseEnd k = s.parkOs k := by simp [State.phaseEnd, st, step, ran, out]
  exact ends ▸ s.parkOs_enters k

/-- The pre-charge ends in the match. -/
theorem State.phaseEnds.precharge (h : s.phaseEnds k) (st : s.osState k = 4) :
    (s.phaseEnd k).Enters s k [] 4 (s.osWeight k) (s.osZone k) ((s.os k).reaching .matching) := by
  obtain ⟨step, ran⟩ : (s.os k).step = .pre ∧ 128 ≤ (s.os k).j := by simpa [State.phaseEnds, st] using h
  have ends : s.phaseEnd k = s.setOs k ((s.os k).reaching .matching) := by simp [State.phaseEnd, st, step, ran, OsRt.reaching]
  exact ends ▸ ⟨(State.Moved.rfl' s).setOs _, State.stageAt.of_regs ⟨st, rfl, rfl⟩ (s.setOs_regs k _), s.os_setOs_same k _⟩

/-- The dwell of CLOSING ends in RAMP_IN. -/
theorem State.phaseEnds.closing (h : s.phaseEnds k) (st : s.osState k = 5) :
    (s.phaseEnd k).Enters s k [] 6 0 (s.osZone k) ((s.os k).reaching .none) := by
  obtain ⟨step, ran⟩ : (s.os k).step = .closeDwell ∧ 16 ≤ (s.os k).j := by simpa [State.phaseEnds, st] using h
  have ends : s.phaseEnd k = (s.putOs k 6 0).setOs k ((s.os k).reaching .none) := by simp [State.phaseEnd, st, step, ran, OsRt.reaching]
  exact ends ▸ (State.Moved.rfl' s).enters (by decide) (by decide) _

/-- RAMP_IN and ADDING end in ACTIVE. -/
theorem State.phaseEnds.rampIn (h : s.phaseEnds k) (st : s.osState k = 6 ∨ s.osState k = 9) :
    (s.phaseEnd k).Enters s k [Reg.ZFB_ZONE_STAT (s.osZone k)] 1 512 (s.osZone k) (s.os k).ended := by
  obtain ⟨weight, ran⟩ : s.osWeight k = 512 ∧ 1 ≤ (s.os k).j := by rcases st with st | st <;> simpa [State.phaseEnds, st] using h
  have ends : s.phaseEnd k = s.activeOs k := by rcases st with st | st <;> simp [State.phaseEnd, st, weight, ran]
  exact ends ▸ s.activeOs_enters k

/-- SHEDDING ends in SHED. -/
theorem State.phaseEnds.shedding (h : s.phaseEnds k) (st : s.osState k = 7) :
    (s.phaseEnd k).Enters s k [] 8 0 (s.osZone k) ((s.os k).reaching .none) := by
  obtain ⟨weight, ran⟩ : s.osWeight k = 0 ∧ 1 ≤ (s.os k).j := by simpa [State.phaseEnds, st] using h
  have ends : s.phaseEnd k = (s.putOs k 8 0).setOs k ((s.os k).reaching .none) := by simp [State.phaseEnd, st, weight, ran, OsRt.reaching]
  exact ends ▸ (State.Moved.rfl' s).enters (by decide) (by decide) _

/-- The end of any phase moves its stage alone. -/
theorem State.phaseEnds.moved (h : s.phaseEnds k) : (s.phaseEnd k).Moved s k (· ∈ [Reg.ZFB_OS k, Reg.ZFB_ZONE_STAT (s.osZone k)]) := by
  have alone {t : State} {st w z : Nat} {o : OsRt} (e : t.Enters s k [] st w z o) :
      t.Moved s k (· ∈ [Reg.ZFB_OS k, Reg.ZFB_ZONE_STAT (s.osZone k)]) :=
    (e.mono (List.nil_subset _)).moved
  obtain ⟨st | st, -, -⟩ | ⟨st, -, -⟩ | ⟨st, -, -⟩ | ⟨st, -, -⟩ | ⟨st, -, -⟩ := id h
  · exact alone (h.rampOut st)
  · exact alone (h.shedding st)
  · exact (h.rampIn st).moved
  · by_cases out : 4 ≤ (s.os k).dst ∨ s.zoneFenced (s.os k).dst = true
    · exact alone (h.openingOut st out)
    · simp only [not_or, Nat.not_le, Bool.not_eq_true] at out
      exact alone (h.openingOn st out.1 out.2)
  · exact alone (h.precharge st)
  · exact alone (h.closing st)

/-- The status of the batch shows nothing of a stage. -/
theorem State.Synced.entered {t u : State} {l : List Nat} {st w z : Nat} {o : OsRt} (h : t.Synced u) (e : u.Enters s k l st w z o) :
    t.stageAt k st w z ∧ t.os k = o := ⟨e.shown.of_rd (h.rd_os k), (h.os k).trans e.os⟩

theorem State.Synced.stageOnly {t u : State} {l : List Nat} (h : t.Synced u) (m : u.Moved s k (· ∈ Reg.ZFB_OS k :: l)) : t.stageOnly s k l := by
  refine ⟨fun a ha => ?_, fun i hi => (h.os i).trans (m.others i hi), h.parts.trans m.parts, by rw [h.zfb, m.zfb]⟩
  simp only [List.mem_cons, not_or] at ha
  obtain ⟨stage, comb, rest⟩ := ha
  exact (h.off a (by simpa using comb)).trans (m.off a (by simp [stage, rest]))

end

end Sys2Proof.Machine
end

section
/-! Chapter 05: the fence of a stage whose sequence fails (R134, R137, R144, R146). -/

namespace Sys2Proof.Machine

/-! ## The shed stages of a zone (R146) -/

section
variable (s : State) (z : Nat) {t : State}

/-- A stage is shed, or on the way to it, in a zone. -/
def State.shedIn (i : Nat) : Prop := s.osZone i = z ∧ (s.osState i = 7 ∨ s.osState i = 8)

/-- The return of one stage. -/
def State.shedBack (i : Nat) : State := if s.osZone i == z && (s.osState i == 8 || s.osState i == 7) then s.putOs i 9 512 else s

theorem State.restoreShed_eq : s.restoreShed z = (List.range 16).foldl (fun u i => u.shedBack z i) s := rfl

variable {s z}

theorem State.shedIn_congr {i : Nat} (e : t.rd (Reg.ZFB_OS i) = s.rd (Reg.ZFB_OS i)) : t.shedIn z i ↔ s.shedIn z i := by
  have zone : t.osZone i = s.osZone i := congrArg (getBits · 16 3) e
  unfold State.shedIn
  rw [zone, State.osState_congr i e]

theorem State.shedBack_shed {i : Nat} (h : s.shedIn z i) : s.shedBack z i = s.putOs i 9 512 := by
  obtain ⟨zone, state⟩ := h
  exact if_pos (by simpa [zone] using state.symm)

theorem State.shedBack_other {i : Nat} (h : ¬s.shedIn z i) : s.shedBack z i = s :=
  if_neg (by simpa [State.shedIn, or_comm] using h)

theorem State.rd_putOs_own {i st w : Nat} (e : t.rd (Reg.ZFB_OS i) = s.rd (Reg.ZFB_OS i)) :
    (t.putOs i st w).rd (Reg.ZFB_OS i) = (s.putOs i st w).rd (Reg.ZFB_OS i) :=
  State.rd_put_own (f := Fd.ZFB_OS_weight i) rfl (State.rd_put_own (f := Fd.ZFB_OS_state i) rfl e)

/-- What the restoring leaves a stage with is its own return. -/
theorem State.rd_restoreShed {i : Nat} (hi : i < 16) : (s.restoreShed z).rd (Reg.ZFB_OS i) = (s.shedBack z i).rd (Reg.ZFB_OS i) := by
  rw [s.restoreShed_eq]
  refine State.rd_foldl_own (r := Reg.ZFB_OS) (K := fun _ => True) (fun u k j hj => ?_) (fun _ _ _ => trivial) (fun u k _ e => ?_)
    List.nodup_range (List.mem_range.2 hi) trivial fun _ _ => rfl
  · by_cases shed : u.shedIn z k
    · rw [State.shedBack_shed shed]
      exact u.putOs_regsOff k 9 512 _ fun m => os_injective hj (List.mem_singleton.1 m)
    · rw [State.shedBack_other shed]
  · by_cases shed : s.shedIn z k
    · rw [State.shedBack_shed shed, State.shedBack_shed ((State.shedIn_congr e).2 shed), State.rd_putOs_own e]
    · rw [State.shedBack_other shed, State.shedBack_other fun h => shed ((State.shedIn_congr e).1 h), e]

theorem State.restoreShed_adding {i : Fin 16} (h : s.shedIn z i) : (s.restoreShed z).stageAt i 9 512 z := by
  have own : (s.restoreShed z).rd (Reg.ZFB_OS i) = (s.putOs i 9 512).rd (Reg.ZFB_OS i) := by rw [State.rd_restoreShed i.isLt, State.shedBack_shed h]
  have back := (s.putOs_stageAt i (st := 9) (w := 512) (by decide) (by decide)).of_rd own
  rwa [h.1] at back

theorem State.restoreShed_kept {i : Fin 16} (h : ¬s.shedIn z i) : (s.restoreShed z).rd (Reg.ZFB_OS i) = s.rd (Reg.ZFB_OS i) := by
  rw [State.rd_restoreShed i.isLt, State.shedBack_other h]

end

/-! ## The fence of a stage -/

section
variable {s t u : State} {k : Fin 16} {c z : Nat}

/-- What the fence of a stage does beside its record: the stage is fenced, and the shed stages of its zone come back. -/
structure State.FencedOs (t s : State) (k : Fin 16) (c : Nat) : Prop where
  shown : t.stageAt k 0xA (s.osWeight k) (s.osZone k)
  cause : t.get (Fd.ZFB_OS_fence_cause k) = c
  os : t.os k = (s.os k).fenced
  restored : t.shedRestored s k (s.osZone k)

theorem State.fenceHeld_os (s : State) (k : Fin 16) (c : Nat) : (s.fenceHeld k c).os k = (s.os k).fenced ∧
    ∀ i, i ≠ k → (s.fenceHeld k c).os i = s.os i := by
  have shown : (s.fenceShown k c).within s [.regs] := .put (.put (.rfl' s) (by decide) _ _) (by decide) _ _
  have zfb : ((s.fenceShown k c).leaveBatch k).zfb = s.zfb := (((s.fenceShown k c).leaveBatch_within k).trans shown) .zfb (by decide)
  refine ⟨State.os_setOs_same _ k _, fun i hi => (State.os_setOs_other _ _ hi).trans ?_⟩
  unfold State.os
  rw [zfb]

theorem State.fenceHeld_stageAt (s : State) (k : Fin 16) (c : Nat) : (s.fenceHeld k c).stageAt k 0xA (s.osWeight k) (s.osZone k) := by
  obtain ⟨state, weight, zone⟩ := s.putState_stageAt k (st := 0xA) (by decide)
  have shown := (s.put (Fd.ZFB_OS_state k) 0xA).putCause_stageAt k c
  rw [state, weight, zone] at shown
  exact shown.of_rd (s.rd_fenceHeld k c)

theorem State.rd_fenceHeld_other (s : State) (c : Nat) {i k : Fin 16} (h : i ≠ k) : (s.fenceHeld k c).rd (Reg.ZFB_OS i) = s.rd (Reg.ZFB_OS i) :=
  (s.fenceHeld_regsOff k c _ fun m => os_ne_combStat i (List.mem_singleton.1 m)).trans
    (s.fenceShown_regsOff k c _ fun m => os_injective (fun e => h (Fin.ext e)) (List.mem_singleton.1 m))

/-- A zone's restoring changes no sequence. -/
theorem State.os_restoreShed (s : State) (z : Nat) (i : Fin 16) : (s.restoreShed z).os i = s.os i :=
  congrArg (fun x : ZfbRt => vget x.os i) ((s.restoreShed_within z) .zfb (by decide))

theorem State.fenceOs_fenced (s : State) (k : Fin 16) (hc : c < 8) : (s.fenceOs k c).FencedOs s k c := by
  obtain ⟨-, cause, -⟩ := s.fenceOs_shown k hc
  obtain ⟨os, others⟩ := s.fenceHeld_os k c
  have shown := s.fenceHeld_stageAt k c
  have same (i : Fin 16) (hi : i ≠ k) := s.rd_fenceHeld_other c hi
  rw [s.fenceOs_eq] at cause ⊢
  generalize s.fenceHeld k c = t at *
  obtain ⟨state, weight, zone⟩ := id shown
  rw [zone] at cause ⊢
  by_cases bound : s.osZone k < 4
  · rw [if_pos bound] at cause ⊢
    have stands : ¬t.shedIn (s.osZone k) k := fun shed => by rcases shed.2 with h | h <;> omega
    refine ⟨shown.of_rd (State.restoreShed_kept stands), cause, (t.os_restoreShed _ k).trans os, fun i hi => ?_⟩
    have shed_iff : t.shedIn (s.osZone k) i ↔ s.shedIn (s.osZone k) i := State.shedIn_congr (same i hi)
    exact ⟨(t.os_restoreShed _ i).trans (others i hi), fun h => State.restoreShed_adding (shed_iff.2 h.2),
      fun h => (State.restoreShed_kept fun shed => h ⟨bound, shed_iff.1 shed⟩).trans (same i hi)⟩
  · rw [if_neg bound] at cause ⊢
    exact ⟨shown, cause, os, fun i hi => ⟨others i hi, fun h => absurd h.1 bound, fun _ => same i hi⟩⟩

theorem not_inStages_fltStat (b : Nat) : ¬inStages (Reg.FLT_STAT b) := fun h => not_inWindow_inStages h (inWindow_fltStat b)

/-- A stage fails: it is fenced, and one Fence is counted in ZFB, which does not escalate (R445). -/
theorem State.failOs_fencedWith (s : State) (k : Fin 16) {code : Nat} (hc : c < 8) (pair : isOwnFault Blk.zfb code = false) :
    (s.failOs k c code).fencedWith s k c (s.osZone k) ∧ ((s.failOs k c code).os k).openCmd = (s.os k).openCmd := by
  obtain ⟨shown, cause, os, restored⟩ := s.fenceOs_fenced k hc
  obtain ⟨off, parts, -, -⟩ := s.fenceOs_frame k c
  unfold State.failOs
  generalize s.fenceOs k c = u at *
  obtain ⟨window, counted, -, -, recorded⟩ :=
    u.record_pairFault (b := Blk.zfb) (code := code) (0x100 + k) pair escalate_pairFence (by decide) (by decide)
  have synced := (u.record Blk.zfb code 2 (0x100 + k)).syncBatch_synced
  generalize u.record Blk.zfb code 2 (0x100 + k) = v at *
  generalize v.syncBatch = t at *
  have rd (i : Fin 16) : t.rd (Reg.ZFB_OS i) = u.rd (Reg.ZFB_OS i) := (synced.rd_os i).trans (window _ (not_inWindow_inStages (inStages_os i)))
  have seq (i : Fin 16) : t.os i = u.os i := (synced.os i).trans (congrArg (fun x : ZfbRt => vget x.os i) (recorded .zfb (by decide)))
  have count : t.get (Fd.FLT_STAT_count 4) = (s.get (Fd.FLT_STAT_count 4) + 1) % 65536 := by
    rw [← off.get (f := Fd.FLT_STAT_count 4) (not_inStages_fltStat 4)]
    exact (synced.off.get (f := Fd.FLT_STAT_count 4) (by decide)).trans counted
  refine ⟨⟨shown.of_rd (rd k), (congrArg (getBits · 24 3) (rd k)).trans cause, by rw [seq, os]; rfl, count, fun i hi => ?_, ?_⟩,
    by rw [seq, os]; rfl⟩
  · obtain ⟨kept, adding, still⟩ := restored i hi
    exact ⟨(seq i).trans kept, fun shed => (adding shed).of_rd (rd i), fun other => (rd i).trans (still other)⟩
  · exact (synced.parts.mono (by decide)).trans ((recorded.mono (by decide)).trans (parts.mono (by decide)))

/-- A stage that fails when its binding has moved, and its switch command with it. -/
theorem State.fencedWith.of_moved (h : t.fencedWith u k c z) (m : u.Moved s k (· ∈ [Reg.ZFB_OS k])) (weight : u.osWeight k = s.osWeight k) :
    t.fencedWith s k c z := by
  obtain ⟨shown, cause, out, count, restored, parts⟩ := h
  have rd (i : Fin 16) (hi : i ≠ k) : u.rd (Reg.ZFB_OS i) = s.rd (Reg.ZFB_OS i) :=
    m.off _ fun e => os_injective (fun e => hi (Fin.ext e)) (List.mem_singleton.1 e)
  have counter : Reg.FLT_STAT 4 ≠ Reg.ZFB_OS k := fun e => not_inStages_fltStat 4 (e ▸ inStages_os k)
  refine ⟨weight ▸ shown, cause, out, ?_, fun i hi => ?_, parts.trans (m.parts.mono (by decide))⟩
  · rw [count, m.off.get (f := Fd.FLT_STAT_count 4) fun e => counter (List.mem_singleton.1 e)]
  · obtain ⟨kept, adding, still⟩ := restored i hi
    have shed_iff : u.shedIn z i ↔ s.shedIn z i := State.shedIn_congr (rd i hi)
    exact ⟨kept.trans (m.others i hi), fun shed => adding ⟨shed.1, shed_iff.2 shed.2⟩,
      fun other => (still fun shed => other ⟨shed.1, shed_iff.1 shed.2⟩).trans (rd i hi)⟩

/-! ## The limits of a sequence -/

theorem execZeroITimeout_fences (st : s.osState k = 3) (step : (s.os k).step = .zeroWait) (limit : (s.os k).clearReq = false)
    (late : 16 ≤ (s.os k).j) : ∃ t, execZeroITimeout k s = .next t ∧ t.fencedWith s k 3 (s.osZone k) ∧ (t.os k).openCmd = (s.os k).openCmd := by
  have fails : execZeroITimeout k s = .next (s.failOs k 3 0x12) := congrArg Host.Outcome.next (if_pos (by simp [st, step, limit, late]))
  exact ⟨_, fails, s.failOs_fencedWith k (by decide) (by decide)⟩

theorem execSwitchConfirmTimeout_open (st : s.osState k = 3) (step : (s.os k).step = .openSent) (late : 16 ≤ (s.os k).j) :
    ∃ t, execSwitchConfirmTimeout k s = .next t ∧ t.fencedWith s k 4 (s.osZone k) := by
  have fails : execSwitchConfirmTimeout k s = .next (s.failOs k 4 0x13) := congrArg Host.Outcome.next (if_pos (by simp [st, step, late]))
  exact ⟨_, fails, (s.failOs_fencedWith k (by decide) (by decide)).1⟩

/-- An unconfirmed close: the stage counts as bound to its destination, and OPEN is sent (R134). -/
def State.closeUndone (s : State) (k : Fin 16) : State := (s.put (Fd.ZFB_OS_zone k) (s.os k).dst).setOs k { s.os k with openCmd := true }

theorem State.closeUndone_moved (s : State) (k : Fin 16) : (s.closeUndone k).Moved s k (· ∈ [Reg.ZFB_OS k]) :=
  ((State.Moved.rfl' s).put (f := Fd.ZFB_OS_zone k) (List.mem_singleton.2 rfl) _).setOs _

theorem State.closeUndone_stageAt (s : State) (k : Fin 16) : (s.closeUndone k).stageAt k (s.osState k) (s.osWeight k) ((s.os k).dst % 8) :=
  (s.putZone_stageAt k (s.os k).dst).of_regs (State.setOs_regs _ k _)

theorem execSwitchConfirmTimeout_close (st : s.osState k = 5) (step : (s.os k).step = .closeSent) (late : 16 ≤ (s.os k).j) :
    ∃ t, execSwitchConfirmTimeout k s = .next t ∧ t.fencedWith s k 4 ((s.os k).dst % 8) ∧ (t.os k).openCmd = true := by
  have fails : execSwitchConfirmTimeout k s = .next ((s.closeUndone k).failOs k 4 0x13) :=
    congrArg Host.Outcome.next ((if_neg (by simp [step])).trans (if_pos (by simp [st, step, late])))
  obtain ⟨-, weight, zone⟩ := s.closeUndone_stageAt k
  obtain ⟨fenced, cmd⟩ := (s.closeUndone k).failOs_fencedWith k (c := 4) (code := 0x13) (by decide) (by decide)
  rw [zone] at fenced
  exact ⟨_, fails, fenced.of_moved (s.closeUndone_moved k) weight, cmd.trans (congrArg OsRt.openCmd (State.os_setOs_same _ k _))⟩

theorem execPrechargeMatchTimeout_fences (st : s.osState k = 4) (step : (s.os k).step = .matching) (late : 64 ≤ (s.os k).j) :
    ∃ t, execPrechargeMatchTimeout k s = .next t ∧ t.fencedWith s k 5 4 := by
  have fails : execPrechargeMatchTimeout k s = .next ((s.put (Fd.ZFB_OS_zone k) 4).failOs k 5 0x14) :=
    congrArg Host.Outcome.next (if_pos (by simp [st, step, late]))
  obtain ⟨-, weight, zone⟩ := s.putZone_stageAt k 4
  obtain ⟨fenced, -⟩ := (s.put (Fd.ZFB_OS_zone k) 4).failOs_fencedWith k (c := 5) (code := 0x14) (by decide) (by decide)
  rw [zone] at fenced
  exact ⟨_, fails, fenced.of_moved ((State.Moved.rfl' s).put (f := Fd.ZFB_OS_zone k) (List.mem_singleton.2 rfl) 4) weight⟩

theorem execCurrentMismatchFence_fences (st : s.osState k = 1) (ran : s.lpe.ran = false) (on : 0 < s.get Fd.ZFB_MISMATCH_CTRL_mismatch_frames)
    (late : s.get Fd.ZFB_MISMATCH_CTRL_mismatch_frames ≤ (s.os k).mism) :
    ∃ t, execCurrentMismatchFence k s = .next t ∧ t.fencedWith s k 1 (s.osZone k) := by
  have fails : execCurrentMismatchFence k s = .next (s.failOs k 1 0x10) :=
    congrArg Host.Outcome.next (if_pos (by simp [st, due, ran, b2n, Nat.pos_iff_ne_zero.1 on, late]))
  exact ⟨_, fails, (s.failOs_fencedWith k (by decide) (by decide)).1⟩

end

/-- Settles O16: a phase that ends moves its stage alone, and each limit that runs out fails its stage. -/
theorem stagesEnterPhasesOrFence : Obligations.StagesEnterPhasesOrFence := by
  refine ⟨fun k s h => ?_, fun k s => ⟨execZeroITimeout_fences, execSwitchConfirmTimeout_open, execSwitchConfirmTimeout_close,
    execPrechargeMatchTimeout_fences, execCurrentMismatchFence_fences⟩⟩
  have synced := (s.phaseEnd k).syncBatch_synced
  have zfb : (s.phaseEnd k).zfb.batchOn = s.zfb.batchOn := by rw [h.moved.zfb]
  refine ⟨_, rfl, synced.stageOnly h.moved, fun st => ?_, fun st near free => ?_, fun st out => ?_, fun st => ?_, fun st => ?_, fun st => ?_,
    fun st => ?_, synced.mask, fun on => synced.ended (zfb.trans on), fun busy => (synced.goesOn busy).trans zfb⟩
  · obtain ⟨shown, os⟩ := synced.entered (h.rampOut st)
    exact ⟨shown, congrArg OsRt.step os, congrArg OsRt.j os⟩
  · obtain ⟨shown, os⟩ := synced.entered (h.openingOn st near free)
    exact ⟨shown, congrArg OsRt.step os, congrArg OsRt.j os, congrArg OsRt.openCmd os⟩
  · obtain ⟨shown, os⟩ := synced.entered (h.openingOut st out)
    exact ⟨shown, congrArg OsRt.inBatch os⟩
  · obtain ⟨shown, os⟩ := synced.entered (h.precharge st)
    exact ⟨shown, congrArg OsRt.step os, congrArg OsRt.j os⟩
  · obtain ⟨shown, os⟩ := synced.entered (h.closing st)
    exact ⟨shown, congrArg OsRt.step os⟩
  · obtain ⟨shown, os⟩ := synced.entered (h.rampIn st)
    exact ⟨shown, congrArg OsRt.inBatch os⟩
  · exact (synced.entered (h.shedding st)).1

end Sys2Proof.Machine
end

section
/-! Chapter 05: the ends of shed_hold and of add_hold (R149, R150). -/

namespace Sys2Proof.Machine

/-- The first entry of an ordered list that meets a condition, where none before it does. -/
theorem find?_eq_some_of_first {α : Type} {r : α → α → Prop} {l : List α} {p : α → Bool} {k : α} (ordered : l.Pairwise r)
    (hk : k ∈ l) (pk : p k = true) (before : ∀ i, r i k → p i = false) : l.find? p = some k := by
  obtain ⟨as, bs, rfl⟩ := List.append_of_mem hk
  obtain ⟨-, -, less⟩ := List.pairwise_append.1 ordered
  exact List.find?_eq_some_iff_append.2 ⟨pk, as, bs, rfl, fun i hi => by rw [before i (less i hi k List.mem_cons_self)]; rfl⟩

section
variable {s : State} {z : Fin 4} {k : Fin 16} {st : Nat}

/-- The highest stage of a zone in a state. -/
theorem State.lastIn_eq_some (zone : s.osZone k = z) (state : s.osState k = st)
    (above : ∀ i : Fin 16, k < i → ¬(s.osZone i = z ∧ s.osState i = st)) : s.lastIn z st = some k := by
  unfold State.lastIn
  rw [List.getLast?_filter]
  exact find?_eq_some_of_first (r := (· > ·)) (List.pairwise_reverse.2 (List.pairwise_lt_finRange 16)) (List.mem_reverse.2 (List.mem_finRange k))
    (by simp [zone, state]) fun i hi => by simpa using above i hi

/-- The lowest stage of a zone in a state. -/
theorem State.firstIn_eq_some (zone : s.osZone k = z) (state : s.osState k = st)
    (below : ∀ i : Fin 16, i < k → ¬(s.osZone i = z ∧ s.osState i = st)) : s.firstIn z st = some k := by
  unfold State.firstIn
  rw [List.head?_filter]
  exact find?_eq_some_of_first (List.pairwise_lt_finRange 16) (List.mem_finRange k) (by simp [zone, state]) fun i hi => by simpa using below i hi

/-- A ramp starts from the weight that stands. -/
theorem State.rampOs_enters (s : State) (k : Fin 16) (h : st < 16) :
    (s.rampOs k st).Enters s k [] st (s.osWeight k) (s.osZone k) { s.os k with j := 0 } :=
  ⟨((State.Moved.rfl' s).put (f := Fd.ZFB_OS_state k) (List.mem_singleton.2 rfl) st).setOs _,
    (s.putState_stageAt k h).of_regs (State.setOs_regs _ k _), State.os_setOs_same _ k _⟩

/-! ## The end of shed_hold (R149) -/

theorem execShedHoldExpiry_sheds (due : s.shedDue z = true) (last : s.lastIn z 1 = some k) (fits : s.shedFits z = true) :
    execShedHoldExpiry z s = .next (s.rampOs k 7) := by
  unfold execShedHoldExpiry
  rw [last]
  simp [due, fits]

theorem execShedHoldExpiry_stays (due : s.shedDue z = true) (last : s.lastIn z 1 = some k) (full : s.shedFits z = false) :
    execShedHoldExpiry z s = .next (s.put (Fd.ZFB_SHED_STAT_shed_timer z) 0) := by
  unfold execShedHoldExpiry
  rw [last]
  simp [due, full]

theorem execShedHoldExpiry_starts (due : s.shedDue z = true) (zone : s.osZone k = z) (last : s.lastIn z 1 = some k) (fits : s.shedFits z = true) :
    ∃ t, execShedHoldExpiry z s = .next t ∧ t.stageAt k 7 (s.osWeight k) z ∧ (t.os k).j = 0 ∧
      t.withinRegs s [Reg.ZFB_OS k] ∧ (∀ i, i ≠ k → t.os i = s.os i) ∧ t.within s [.regs, .zfb] := by
  obtain ⟨moved, shown, os⟩ := s.rampOs_enters k (st := 7) (by decide)
  exact ⟨_, execShedHoldExpiry_sheds due last fits, zone ▸ shown, congrArg OsRt.j os, moved.off.withinRegs, moved.others, moved.parts⟩

theorem execShedHoldExpiry_returns (due : s.shedDue z = true) (last : s.lastIn z 1 = some k) (full : s.shedFits z = false) :
    ∃ t, execShedHoldExpiry z s = .next t ∧ t.get (Fd.ZFB_SHED_STAT_shed_timer z) = 0 ∧
      t.withinRegs s [Reg.ZFB_SHED_STAT z] ∧ t.within s [.regs] :=
  ⟨_, execShedHoldExpiry_stays due last full, s.get_put_small (Fd.ZFB_SHED_STAT_shed_timer z) 0 (by decide : 10 + 22 ≤ 32) (by decide : 0 < 2 ^ 22),
    ((State.regsOff.rfl' s).put (f := Fd.ZFB_SHED_STAT_shed_timer z) (List.mem_singleton.2 rfl) 0).withinRegs, .put (.rfl' s) (by decide) _ _⟩

/-! ## The end of add_hold (R150) -/

theorem execAddHoldExpiry_adds (due : s.addDue z = true) (first : s.firstIn z 8 = some k) :
    execAddHoldExpiry z s = .next ((s.clearAdd z).rampOs k 9) := by
  unfold execAddHoldExpiry
  rw [first]
  simp [due]

theorem State.clearAdd_regs (s : State) (z : Fin 4) : (s.clearAdd z).regs = s.regs := rfl

theorem State.clearAdd_zfb (s : State) (z : Fin 4) : (s.clearAdd z).zfb = { s.zfb with addTimer := vset s.zfb.addTimer z 0 } := rfl

theorem State.os_clearAdd (s : State) (z : Fin 4) (i : Fin 16) : (s.clearAdd z).os i = s.os i := by
  unfold State.os
  rw [s.clearAdd_zfb]

theorem execAddHoldExpiry_starts (due : s.addDue z = true) (zone : s.osZone k = z) (first : s.firstIn z 8 = some k) :
    ∃ t, execAddHoldExpiry z s = .next t ∧ t.stageAt k 9 (s.osWeight k) z ∧ (t.os k).j = 0 ∧ vget t.zfb.addTimer z = 0 ∧
      t.withinRegs s [Reg.ZFB_OS k] ∧ (∀ i, i ≠ k → t.os i = s.os i) ∧ t.within s [.regs, .zfb] := by
  have same (f : Fld) : (s.clearAdd z).get f = s.get f := State.get_congr (s.clearAdd_regs z) f
  obtain ⟨moved, shown, os⟩ := (s.clearAdd z).rampOs_enters k (st := 9) (by decide)
  rw [show (s.clearAdd z).osWeight k = s.osWeight k from same _, show (s.clearAdd z).osZone k = s.osZone k from same _, zone] at shown
  refine ⟨_, execAddHoldExpiry_adds due first, shown, congrArg OsRt.j os, ?_, (moved.off.trans (.of_regs (.rfl' s) (s.clearAdd_regs z))).withinRegs,
    fun i hi => (moved.others i hi).trans (s.os_clearAdd z i), moved.parts.trans ((s.within_zfb _).mono (by decide))⟩
  rw [moved.zfb, s.clearAdd_zfb]
  exact vget_vset_same _ _ _

end

/-- Settles O17: the stage that the statement names is the one found, and its ramp starts. -/
theorem shedAndAddPickTheirStage : Obligations.ShedAndAddPickTheirStage := by
  refine fun z k s => ⟨fun due zone state above => ?_, fun due zone state below => ?_⟩
  · have last := State.lastIn_eq_some zone state above
    exact ⟨execShedHoldExpiry_starts due zone last, execShedHoldExpiry_returns due last⟩
  · exact execAddHoldExpiry_starts due zone (State.firstIn_eq_some zone state below)

end Sys2Proof.Machine
end

section
/-! Chapters 05 and 16: job groups, VSEL codes, PGOOD, and the overload of a zone (R147, R154, R156, R158, R445, R501). -/

namespace Sys2Proof.Machine

/-! ## Job groups and PGOOD (R154, R158) -/

section
variable {s : State}

theorem execJobGroupApply_applies (h : s.fcStart = true) (l : Fin 16) : ∃ t, execJobGroupApply l s = .next t ∧
    t.withinRegs s [Reg.ZFB_LANE l] ∧ t.within s [.regs] ∧
    t.get (Fd.ZFB_LANE_group l) = (if s.laneDecl l then s.get (Fd.ZFB_LANE_next_group l) else 63) ∧
    t.get (Fd.ZFB_LANE_next_group l) = s.get (Fd.ZFB_LANE_next_group l) ∧ t.laneZone l = s.laneZone l := by
  have small : (if s.laneDecl l then s.get (Fd.ZFB_LANE_next_group l) else 63) < 2 ^ 6 := by
    split
    · exact s.get_lt (Fd.ZFB_LANE_next_group l)
    · decide
  refine ⟨_, congrArg Host.Outcome.next (if_pos h), ((State.regsOff.rfl' s).put (f := Fd.ZFB_LANE_group l) (List.mem_singleton.2 rfl) _).withinRegs,
    .put (.rfl' s) (by decide) _ _, s.get_put_small (Fd.ZFB_LANE_group l) _ (by decide : 0 + 6 ≤ 32) small, ?_, ?_⟩
  · exact s.get_put_apart (Fd.ZFB_LANE_group l) _ _ (by decide : 0 + 6 ≤ 32) (.inr (.inr (by decide : 0 + 6 ≤ 8)))
  · exact s.get_put_apart (Fd.ZFB_LANE_group l) (Fd.ZFB_LANE_zone l) _ (by decide : 0 + 6 ≤ 32) (.inr (.inr (by decide : 0 + 6 ≤ 24)))

theorem execPgoodHigh_rises {z : Fin 4} (count : s.get (Fd.WGL_PGOOD_window_count z) = 64) (ran : s.lpe.ran = false) :
    ∃ t, execPgoodHigh z s = .next t ∧ t.flag (Fd.WGL_PGOOD_level z) = true ∧ t.withinRegs s [Reg.WGL_PGOOD z] ∧ t.within s [.regs] :=
  ⟨_, congrArg Host.Outcome.next (if_pos (by simp [count, ran])), s.flag_setFlag_same (Fd.WGL_PGOOD_level z) true (by decide : 0 + 1 ≤ 32) rfl,
    ((State.regsOff.rfl' s).setFlag (f := Fd.WGL_PGOOD_level z) (List.mem_singleton.2 rfl) true).withinRegs, .setFlag (.rfl' s) (by decide) _ _⟩

end

/-! ## The VSEL code of a zone (R156) -/

section
variable (s : State) (z : Fin 4) {t : State}

theorem vsel_injective {y z : Fin 4} (h : y ≠ z) : Reg.WGL_VSEL y ≠ Reg.WGL_VSEL z := fun e => h (Fin.ext (by unfold Reg.WGL_VSEL at e; omega))

theorem State.pinCode_lt : s.pinCode z < 8 := Nat.mod_lt _ (by decide)

theorem State.equalSamples_le : s.equalSamples z ≤ 8 := by
  unfold State.equalSamples
  split
  · exact Nat.min_le_left ..
  · decide

variable {s z}

theorem State.pinCode_congr (h : t.inp = s.inp) : t.pinCode z = s.pinCode z := by
  unfold State.pinCode State.input
  rw [h]

theorem State.equalSamples_congr (h : t.inp = s.inp) (e : t.rd (Reg.WGL_VSEL z) = s.rd (Reg.WGL_VSEL z)) : t.equalSamples z = s.equalSamples z := by
  have pin : t.get (Fd.WGL_VSEL_pin_code z) = s.get (Fd.WGL_VSEL_pin_code z) := congrArg (getBits · 8 3) e
  have count : t.get (Fd.WGL_VSEL_equal_count z) = s.get (Fd.WGL_VSEL_equal_count z) := congrArg (getBits · 4 4) e
  unfold State.equalSamples
  rw [State.pinCode_congr h, pin, count]

/-- A sample unlike the last one starts the count again. -/
theorem State.equalSamples_new (h : s.pinCode z ≠ s.get (Fd.WGL_VSEL_pin_code z)) : s.equalSamples z = 1 :=
  if_neg (by simp [h])

/-- The sample after seven equal ones is the eighth. -/
theorem State.equalSamples_eighth (h : s.pinCode z = s.get (Fd.WGL_VSEL_pin_code z)) (count : 7 ≤ s.get (Fd.WGL_VSEL_equal_count z)) :
    s.equalSamples z = 8 := by
  unfold State.equalSamples
  rw [if_pos (by simp [h]; omega)]
  omega

variable (s z)

/-- The sample of a zone is counted, before its code is accepted. -/
def State.vselCounted : State := (s.put (Fd.WGL_VSEL_pin_code z) (s.pinCode z)).put (Fd.WGL_VSEL_equal_count z) (s.equalSamples z)

theorem State.vselZone_eq : s.vselZone z = if s.equalSamples z == 8 then (s.vselCounted z).acceptCode z (s.pinCode z) else s.vselCounted z := rfl

theorem State.vselCounted_shown : (s.vselCounted z).get (Fd.WGL_VSEL_pin_code z) = s.pinCode z ∧
    (s.vselCounted z).get (Fd.WGL_VSEL_equal_count z) = s.equalSamples z ∧
    (s.vselCounted z).get (Fd.WGL_VSEL_code z) = s.get (Fd.WGL_VSEL_code z) := by
  have pin := s.get_put_small (Fd.WGL_VSEL_pin_code z) (s.pinCode z) (by decide : 8 + 3 ≤ 32) (s.pinCode_lt z)
  have code := s.get_put_apart (Fd.WGL_VSEL_pin_code z) (Fd.WGL_VSEL_code z) (s.pinCode z) (by decide : 8 + 3 ≤ 32)
    (.inr (.inl (by decide : 0 + 3 ≤ 8)))
  have small : s.equalSamples z < 2 ^ 4 := Nat.lt_of_le_of_lt (s.equalSamples_le z) (by decide)
  unfold State.vselCounted
  generalize s.put (Fd.WGL_VSEL_pin_code z) (s.pinCode z) = u at *
  refine ⟨?_, u.get_put_small (Fd.WGL_VSEL_equal_count z) _ (by decide : 4 + 4 ≤ 32) small, ?_⟩
  · exact (u.get_put_apart (Fd.WGL_VSEL_equal_count z) (Fd.WGL_VSEL_pin_code z) _ (by decide : 4 + 4 ≤ 32)
      (.inr (.inr (by decide : 4 + 4 ≤ 8)))).trans pin
  · exact (u.get_put_apart (Fd.WGL_VSEL_equal_count z) (Fd.WGL_VSEL_code z) _ (by decide : 4 + 4 ≤ 32)
      (.inr (.inl (by decide : 0 + 3 ≤ 4)))).trans code

theorem State.acceptCode_shown {c : Nat} (hc : c < 8) :
    (s.acceptCode z c).get (Fd.WGL_VSEL_code z) = c ∧ (s.acceptCode z c).flag (Fd.WGL_VSEL_valid z) = true ∧
    (s.acceptCode z c).get (Fd.WGL_VSEL_pin_code z) = s.get (Fd.WGL_VSEL_pin_code z) ∧
    (s.acceptCode z c).get (Fd.WGL_VSEL_equal_count z) = s.get (Fd.WGL_VSEL_equal_count z) := by
  have code := s.get_put_small (Fd.WGL_VSEL_code z) c (by decide : 0 + 3 ≤ 32) hc
  have pin := s.get_put_apart (Fd.WGL_VSEL_code z) (Fd.WGL_VSEL_pin_code z) c (by decide : 0 + 3 ≤ 32) (.inr (.inr (by decide : 0 + 3 ≤ 8)))
  have count := s.get_put_apart (Fd.WGL_VSEL_code z) (Fd.WGL_VSEL_equal_count z) c (by decide : 0 + 3 ≤ 32) (.inr (.inr (by decide : 0 + 3 ≤ 4)))
  unfold State.acceptCode
  generalize s.put (Fd.WGL_VSEL_code z) c = u at *
  refine ⟨?_, u.flag_setFlag_same (Fd.WGL_VSEL_valid z) true (by decide : 3 + 1 ≤ 32) rfl, ?_, ?_⟩
  · exact (u.get_setFlag_apart (Fd.WGL_VSEL_valid z) (Fd.WGL_VSEL_code z) true (by decide : 3 + 1 ≤ 32)
      (.inr (.inl (by decide : 0 + 3 ≤ 3)))).trans code
  · exact (u.get_setFlag_apart (Fd.WGL_VSEL_valid z) (Fd.WGL_VSEL_pin_code z) true (by decide : 3 + 1 ≤ 32)
      (.inr (.inr (by decide : 3 + 1 ≤ 8)))).trans pin
  · exact (u.get_setFlag_apart (Fd.WGL_VSEL_valid z) (Fd.WGL_VSEL_equal_count z) true (by decide : 3 + 1 ≤ 32)
      (.inr (.inr (by decide : 3 + 1 ≤ 4)))).trans count

/-- What the sampling of a zone's pins shows. -/
structure State.Sampled (t : State) : Prop where
  pin : t.get (Fd.WGL_VSEL_pin_code z) = s.pinCode z
  count : t.get (Fd.WGL_VSEL_equal_count z) = s.equalSamples z
  waits : s.equalSamples z ≠ 8 → t.get (Fd.WGL_VSEL_code z) = s.get (Fd.WGL_VSEL_code z)
  accepts : s.equalSamples z = 8 → t.get (Fd.WGL_VSEL_code z) = s.pinCode z ∧ t.flag (Fd.WGL_VSEL_valid z) = true

theorem State.vselZone_sampled : s.Sampled z (s.vselZone z) := by
  obtain ⟨pin, count, code⟩ := s.vselCounted_shown z
  rw [s.vselZone_eq]
  by_cases eighth : s.equalSamples z = 8
  · obtain ⟨accepted, valid, samePin, sameCount⟩ := (s.vselCounted z).acceptCode_shown z (s.pinCode_lt z)
    rw [if_pos (by simp [eighth])]
    exact ⟨samePin.trans pin, sameCount.trans count, fun h => absurd eighth h, fun _ => ⟨accepted, valid⟩⟩
  · rw [if_neg (by simpa using eighth)]
    exact ⟨pin, count, fun _ => code, fun h => absurd h eighth⟩

variable {s z}

theorem State.Sampled.of_rd {u : State} (h : s.Sampled z u) (e : t.rd (Reg.WGL_VSEL z) = u.rd (Reg.WGL_VSEL z)) : s.Sampled z t where
  pin := (congrArg (getBits · 8 3) e).trans h.pin
  count := (congrArg (getBits · 4 4) e).trans h.count
  waits new := (congrArg (getBits · 0 3) e).trans (h.waits new)
  accepts eighth := ⟨(congrArg (getBits · 0 3) e).trans (h.accepts eighth).1, (congrArg (getBits · 3 1 == 1) e).trans (h.accepts eighth).2⟩

/-! ## The sampling of all zones -/

theorem State.vselZone_regsOff (s : State) (z : Fin 4) : (s.vselZone z).regsOff (· ∈ [Reg.WGL_VSEL z]) s := by
  have counted : (s.vselCounted z).regsOff (· ∈ [Reg.WGL_VSEL z]) s :=
    .put (f := Fd.WGL_VSEL_equal_count z) (.put (f := Fd.WGL_VSEL_pin_code z) (.rfl' s) (List.mem_singleton.2 rfl) _) (List.mem_singleton.2 rfl) _
  have accepted : ((s.vselCounted z).acceptCode z (s.pinCode z)).regsOff (· ∈ [Reg.WGL_VSEL z]) s :=
    .setFlag (f := Fd.WGL_VSEL_valid z) (.put (f := Fd.WGL_VSEL_code z) counted (List.mem_singleton.2 rfl) _) (List.mem_singleton.2 rfl) _
  rw [s.vselZone_eq]
  exact .ite (fun _ => accepted) fun _ => counted

/-- A zone's sampling goes by its own register and by the inputs. -/
theorem State.rd_vselZone_own (h : t.inp = s.inp) (e : t.rd (Reg.WGL_VSEL z) = s.rd (Reg.WGL_VSEL z)) :
    (t.vselZone z).rd (Reg.WGL_VSEL z) = (s.vselZone z).rd (Reg.WGL_VSEL z) := by
  have counted : (t.vselCounted z).rd (Reg.WGL_VSEL z) = (s.vselCounted z).rd (Reg.WGL_VSEL z) := by
    unfold State.vselCounted
    rw [State.pinCode_congr h, State.equalSamples_congr h e]
    exact State.rd_put_own (f := Fd.WGL_VSEL_equal_count z) rfl (State.rd_put_own (f := Fd.WGL_VSEL_pin_code z) rfl e)
  rw [t.vselZone_eq, s.vselZone_eq, State.pinCode_congr h, State.equalSamples_congr h e]
  by_cases eighth : s.equalSamples z == 8
  · rw [if_pos eighth, if_pos eighth]
    exact State.rd_put_own (f := Fd.WGL_VSEL_valid z) rfl (State.rd_put_own (f := Fd.WGL_VSEL_code z) rfl counted)
  · rw [if_neg eighth, if_neg eighth, counted]

/-- The sampling of every zone, in their order. -/
def State.vselSampled (s : State) : State := (List.finRange 4).foldl State.vselZone s

theorem State.vselSampled_sampled (s : State) (z : Fin 4) : s.Sampled z s.vselSampled := by
  refine (s.vselZone_sampled z).of_rd (State.rd_foldl_own (r := fun y : Fin 4 => Reg.WGL_VSEL y) (f := State.vselZone) (K := fun u => u.inp = s.inp)
    (fun u y x hx => ?_) (fun u y hu => ?_) (fun u y hu e => State.rd_vselZone_own hu e)
    (List.nodup_finRange 4) (List.mem_finRange z) rfl fun _ _ => rfl)
  · exact u.vselZone_regsOff y _ fun m => vsel_injective hx (List.mem_singleton.1 m)
  · exact (Vsel.vselZone (Vsel.rfl' u) y).inp_eq.trans hu

theorem State.vselSampled_regsOff (s : State) : s.vselSampled.regsOff (· ∈ (List.range 4).map Reg.WGL_VSEL) s :=
  .foldl (fun z _ u hu => ((u.vselZone_regsOff z).mono fun _ ha => List.mem_singleton.1 ha ▸
    List.mem_map_of_mem (List.mem_range.2 z.isLt)).trans hu) (.rfl' s)

theorem State.vselSampled_within (s : State) : s.vselSampled.within s [.regs] :=
  (Vsel.foldl (fun _ z ht => Vsel.vselZone ht z) (Vsel.rfl' s)).within

theorem execVselSample_samples (h : s.fcStart = true) : execVselSample s = .next s.vselSampled := by
  have order : List.finRange 4 = [0, 1, 2, 3] := by decide
  unfold execVselSample State.vselSampled
  rw [if_pos h, order]
  simp only [List.foldl_cons, List.foldl_nil]

theorem execVselSample_ends (h : s.fcStart = true) : ∃ t, execVselSample s = .next t ∧
    t.withinRegs s ((List.range 4).map Reg.WGL_VSEL) ∧ t.within s [.regs] ∧
    ∀ z : Fin 4, t.get (Fd.WGL_VSEL_pin_code z) = s.pinCode z ∧ t.get (Fd.WGL_VSEL_equal_count z) = s.equalSamples z ∧
      (s.pinCode z ≠ s.get (Fd.WGL_VSEL_pin_code z) → s.equalSamples z = 1 ∧ t.get (Fd.WGL_VSEL_code z) = s.get (Fd.WGL_VSEL_code z)) ∧
      (s.pinCode z = s.get (Fd.WGL_VSEL_pin_code z) → 7 ≤ s.get (Fd.WGL_VSEL_equal_count z) →
        t.get (Fd.WGL_VSEL_code z) = s.pinCode z ∧ t.flag (Fd.WGL_VSEL_valid z) = true) := by
  refine ⟨_, execVselSample_samples h, s.vselSampled_regsOff.withinRegs, s.vselSampled_within, fun z => ?_⟩
  obtain ⟨pin, count, waits, accepts⟩ := s.vselSampled_sampled z
  refine ⟨pin, count, fun new => ?_, fun same seven => accepts (State.equalSamples_eighth same seven)⟩
  have first := State.equalSamples_new new
  exact ⟨first, waits (by rw [first]; decide)⟩

end

/-! ## A Derate that escalates to Fence (R445) -/

section
variable {s : State} {b : Fin 18} {code unit : Nat}

/-- A pair Derate that the block remembers becomes a Fence. -/
theorem State.escalate_held (held : ¬s.notHeld b false 1 unit) : escalate (vget s.flt.rem b) b false code 1 unit = 2 := by
  have known : (vget s.flt.rem b).any (fun r => r.own == false && r.cls == 1 && r.unit == unit) = true := by
    simpa [State.notHeld, and_assoc] using held
  unfold escalate
  rw [known]
  rfl

/-- The record of a fault that becomes a Fence, before the Fence takes its unit out of service. -/
def State.risen (s : State) (b : Fin 18) (code unit : Nat) : State :=
  (s.countFault b (faultInfo code 2 true false 0 unit) 2 0 0).setPending b false 2 unit

theorem State.record_risen (pair : isOwnFault b code = false) (held : ¬s.notHeld b false 1 unit) :
    s.record b code 1 unit = (s.risen b code unit).fenceUnit unit := by
  unfold State.record State.recordAt
  simp only [pair, State.escalate_held held]
  rfl

theorem State.risen_frame (s : State) (b : Fin 18) (code unit : Nat) :
    (s.risen b code unit).regsOff (inWindow b) s ∧ (s.risen b code unit).faultCounted s b := by
  unfold State.risen
  generalize faultInfo code 2 true false 0 unit = info
  exact ⟨((State.setPending_regsOff _ b false 2 unit).mono fun a ha => List.mem_singleton.1 ha ▸ inWindow_fltStat b).trans
    (s.countFault_regsOff b info 2 0 0),
    (State.get_setPending_count _ b false 2 unit).trans (s.get_countFault_count b info 2 0 0)⟩

end

/-! ## The fence of a zone (R501) -/

section
variable (s : State) (z : Fin 4)

theorem State.fenceUnit_zone : s.fenceUnit (0x500 + z) = s.fenceZone z := by
  have hz := z.isLt
  have kind : unitKind (0x500 + z) = 5 := by unfold unitKind; omega
  have index : (0x500 + z.val) % 256 = z := by omega
  unfold State.fenceUnit
  simp only [kind, index, dif_pos hz]

theorem State.zoneFenceStage_regsOff (z : Nat) (k : Fin 16) : (s.zoneFenceStage z k).regsOff inStages s := by
  have put (st w : Nat) (o : OsRt) : ((s.putOs k st w).setOs k o).regsOff inStages s :=
    ((s.putOs_regsOff k st w).mono fun _ ha => List.mem_singleton.1 ha ▸ inStages_os k).of_regs (State.setOs_regs _ k o)
  unfold State.zoneFenceStage
  exact .ite (fun _ => put 0 0 _) fun _ => .ite (fun _ => put 3 0 _) fun _ => .ite (fun _ => put 3 0 _) fun _ => .rfl' s

theorem State.zoneFenceStage_zones (z : Nat) (k : Fin 16) : (s.zoneFenceStage z k).zfb.zoneFenced = s.zfb.zoneFenced := by
  have put (st w : Nat) (o : OsRt) : ((s.putOs k st w).setOs k o).Has (·.zfb.zoneFenced) s.zfb.zoneFenced :=
    ⟨((s.putOs k st w).setOs_zones k o).1.trans (congrArg ZfbRt.zoneFenced (s.putOs_zfb k st w))⟩
  unfold State.zoneFenceStage
  exact (State.Has.ite (fun _ => put 0 0 _) fun _ => .ite (fun _ => put 3 0 _) fun _ => .ite (fun _ => put 3 0 _) fun _ => ⟨rfl⟩).eq

/-- The zone is marked as fenced. -/
def State.zoneMarked : State := { s with zfb := { s.zfb with zoneFenced := vset s.zfb.zoneFenced z true } }

/-- The zone's stages open, before its ramp and its retries are seen to. -/
def State.zoneOpened : State := (List.finRange 16).foldl (fun (u : State) (k : Fin 16) => u.zoneFenceStage z k) (s.zoneMarked z)

theorem State.zoneOpened_regsOff : (s.zoneOpened z).regsOff inStages s :=
  .foldl (fun k _ u hu => (u.zoneFenceStage_regsOff z k).trans hu) ((State.regsOff.rfl' s).upd rfl)

theorem State.zoneOpened_fenced : vget (s.zoneOpened z).zfb.zoneFenced z = true := by
  have marked : (s.zoneMarked z).Has (·.zfb.zoneFenced) (vset s.zfb.zoneFenced z true) := ⟨rfl⟩
  have opened : (s.zoneOpened z).Has (·.zfb.zoneFenced) (vset s.zfb.zoneFenced z true) :=
    State.Has.foldl (fun u k hu => ⟨(u.zoneFenceStage_zones z k).trans hu.eq⟩) marked
  rw [opened.eq]
  exact vget_vset_same _ _ _

/-- The ramp of the zone goes idle, and the counts to a retry stand beside the fence. -/
theorem State.fenceZone_parts : (s.fenceZone z).regs = ((s.zoneOpened z).setFlag (Fd.LPE_RAMP_STAT_running z) false).regs ∧
    (s.fenceZone z).zfb.zoneFenced = (s.zoneOpened z).zfb.zoneFenced := by
  unfold State.fenceZone
  extract_lets +onlyGivenNames -merge -useContext -underBinder zones marked opened
  have same : s.zoneOpened z = opened := rfl
  rw [same]
  clear_value opened
  exact ⟨rfl, rfl⟩

theorem State.fenceZone_regsOff : (s.fenceZone z).regsOff (fun a => inStages a ∨ a = Reg.LPE_RAMP_STAT z) s := by
  have opened : (s.zoneOpened z).regsOff (fun a => inStages a ∨ a = Reg.LPE_RAMP_STAT z) s := (s.zoneOpened_regsOff z).mono fun _ => Or.inl
  exact (opened.setFlag (f := Fd.LPE_RAMP_STAT_running z) (.inr rfl) false).of_regs (s.fenceZone_parts z).1

theorem State.fenceZone_fenced : vget (s.fenceZone z).zfb.zoneFenced z = true := by
  rw [(s.fenceZone_parts z).2]
  exact s.zoneOpened_fenced z

end

/-! ## The overload of a zone (R147) -/

section
variable {s : State} {z : Fin 4}

theorem not_inWindow_zoneStat (z : Fin 4) (b : Nat) : ¬inWindow b (Reg.ZFB_ZONE_STAT z) := by
  have hz := z.isLt
  unfold inWindow Reg.ZFB_ZONE_STAT
  omega

/-- The fence of a zone changes neither its status nor the window of a block. -/
theorem State.fenceZone_apart (s : State) (z : Fin 4) {f : Fld} (h : f.addr = Reg.ZFB_ZONE_STAT z ∨ f.addr = Reg.FLT_STAT 4) :
    (s.fenceZone z).get f = s.get f := by
  refine (s.fenceZone_regsOff z).get fun m => ?_
  have hz := z.isLt
  unfold inStages Reg.LPE_RAMP_STAT at m
  unfold Reg.ZFB_ZONE_STAT Reg.FLT_STAT at h
  omega

/-- cap_limited of the zone is shown, before the fault is recorded. -/
def State.capShown (s : State) (z : Fin 4) : State := s.setFlag (Fd.ZFB_ZONE_STAT_cap_limited z) true

theorem State.capShown_shown (s : State) (z : Fin 4) : (s.capShown z).flag (Fd.ZFB_ZONE_STAT_cap_limited z) = true ∧
    (s.capShown z).get (Fd.ZFB_ZONE_STAT_overload_frames z) = s.get (Fd.ZFB_ZONE_STAT_overload_frames z) :=
  ⟨s.flag_setFlag_same (Fd.ZFB_ZONE_STAT_cap_limited z) true (by decide : 1 + 1 ≤ 32) rfl,
    s.get_setFlag_apart (Fd.ZFB_ZONE_STAT_cap_limited z) (Fd.ZFB_ZONE_STAT_overload_frames z) true (by decide : 1 + 1 ≤ 32)
      (.inr (.inr (by decide : 1 + 1 ≤ 12)))⟩

theorem State.capShown_regsOff (s : State) (z : Fin 4) : (s.capShown z).regsOff (· ∈ [Reg.ZFB_ZONE_STAT z]) s :=
  .setFlag (f := Fd.ZFB_ZONE_STAT_cap_limited z) (.rfl' s) (List.mem_singleton.2 rfl) true

theorem State.capShown_count (s : State) (z : Fin 4) : (s.capShown z).get (Fd.FLT_STAT_count 4) = s.get (Fd.FLT_STAT_count 4) :=
  (s.capShown_regsOff z).get (f := Fd.FLT_STAT_count 4) fun m => not_inWindow_zoneStat z 4 (List.mem_singleton.1 m ▸ inWindow_fltStat 4)

theorem execCapLimited_limits (ran : s.lpe.ran = false) (late : 500000 ≤ s.get (Fd.ZFB_ZONE_STAT_overload_frames z))
    (first : s.flag (Fd.ZFB_ZONE_STAT_cap_limited z) = false) :
    execCapLimited z s = .next ((s.capShown z).record Blk.zfb 0x15 1 (0x500 + z)) :=
  congrArg Host.Outcome.next (if_pos (by simp [due, ran, b2n, late, first]))

/-- What both outcomes of the record leave: the zone's status, and one fault more. -/
structure State.CapLimited (t s : State) (z : Fin 4) : Prop where
  limited : t.flag (Fd.ZFB_ZONE_STAT_cap_limited z) = true
  frames : t.get (Fd.ZFB_ZONE_STAT_overload_frames z) = s.get (Fd.ZFB_ZONE_STAT_overload_frames z)
  counted : t.faultCounted s 4

/-- A record in ZFB leaves the zone's status. -/
theorem State.capLimited_of_recorded {t : State} (window : t.regsOff (inWindow 4) (s.capShown z)) (counted : t.faultCounted (s.capShown z) 4) :
    t.CapLimited s z := by
  obtain ⟨limited, frames⟩ := s.capShown_shown z
  refine ⟨(window.flag (not_inWindow_zoneStat z 4)).trans limited, (window.get (not_inWindow_zoneStat z 4)).trans frames, counted.trans ?_⟩
  rw [s.capShown_count]

theorem State.CapLimited.fenceZone {t : State} (h : t.CapLimited s z) : (t.fenceZone z).CapLimited s z where
  limited := (congrArg (· == 1) (t.fenceZone_apart z (.inl rfl))).trans h.limited
  frames := (t.fenceZone_apart z (.inl rfl)).trans h.frames
  counted := (t.fenceZone_apart z (f := Fd.FLT_STAT_count 4) (.inr rfl)).trans h.counted

theorem bit_or_two_pow (v i : Nat) : bit (v ||| 2 ^ i) i = true := by
  have set : (v ||| 2 ^ i).testBit i = true := by simp
  unfold bit
  simpa [Nat.testBit_eq_decide_div_mod_eq] using set

/-- A Derate that is new keeps its class: stages and weights stay. -/
theorem State.capRecorded_new (new : s.notHeld Blk.zfb false 1 (0x500 + z)) {t : State} (ht : t = (s.capShown z).record Blk.zfb 0x15 1 (0x500 + z)) :
    t.CapLimited s z ∧ t.within s [.regs, .hmp, .flt] ∧ bit (t.get (Fd.FLT_STAT_pair_pend 4)) 1 = true ∧
      ∀ a, outWindow 4 a → a ≠ Reg.ZFB_ZONE_STAT z → t.rd a = s.rd a := by
  have kept : (s.capShown z).notHeld Blk.zfb false 1 (0x500 + z) := new
  obtain ⟨window, counted, pending, -, parts⟩ :=
    (s.capShown z).record_pairFault (b := Blk.zfb) (code := 0x15) (cls := 1) (0x500 + z) (by decide) (kept.escalate _) (by decide) (by decide)
  subst ht
  refine ⟨State.capLimited_of_recorded window counted, parts.trans (.setFlag (.rfl' s) (by decide) _ _), ?_, fun a out other => ?_⟩
  · exact (congrArg (bit · 1) pending).trans (bit_or_two_pow _ 1)
  · refine (window a fun inside => ?_).trans (s.capShown_regsOff z a fun m => other (List.mem_singleton.1 m))
    unfold outWindow at out
    unfold inWindow at inside
    rw [show (Blk.zfb : Nat) = 4 from rfl] at inside
    omega

/-- A Derate that stands already becomes a Fence of the zone. -/
theorem State.capRecorded_held (held : ¬s.notHeld Blk.zfb false 1 (0x500 + z)) {t : State}
    (ht : t = (s.capShown z).record Blk.zfb 0x15 1 (0x500 + z)) : t.CapLimited s z ∧ vget t.zfb.zoneFenced z = true := by
  have kept : ¬(s.capShown z).notHeld Blk.zfb false 1 (0x500 + z) := held
  obtain ⟨window, counted⟩ := (s.capShown z).risen_frame Blk.zfb 0x15 (0x500 + z)
  rw [ht, State.record_risen (by decide) kept, State.fenceUnit_zone]
  exact ⟨(State.capLimited_of_recorded window counted).fenceZone, State.fenceZone_fenced _ z⟩

theorem execCapLimited_ends (ran : s.lpe.ran = false) (late : 500000 ≤ s.get (Fd.ZFB_ZONE_STAT_overload_frames z))
    (first : s.flag (Fd.ZFB_ZONE_STAT_cap_limited z) = false) :
    ∃ t, execCapLimited z s = .next t ∧ t.flag (Fd.ZFB_ZONE_STAT_cap_limited z) = true ∧
      t.get (Fd.ZFB_ZONE_STAT_overload_frames z) = s.get (Fd.ZFB_ZONE_STAT_overload_frames z) ∧ t.faultCounted s 4 ∧
      (s.notHeld Blk.zfb false 1 (0x500 + z) → t.within s [.regs, .hmp, .flt] ∧ bit (t.get (Fd.FLT_STAT_pair_pend 4)) 1 = true ∧
        ∀ a, outWindow 4 a → a ≠ Reg.ZFB_ZONE_STAT z → t.rd a = s.rd a) ∧
      (¬s.notHeld Blk.zfb false 1 (0x500 + z) → vget t.zfb.zoneFenced z = true) := by
  generalize ht : (s.capShown z).record Blk.zfb 0x15 1 (0x500 + z) = t
  have both : t.CapLimited s z := by
    by_cases new : s.notHeld Blk.zfb false 1 (0x500 + z)
    · exact (State.capRecorded_new new ht.symm).1
    · exact (State.capRecorded_held new ht.symm).1
  exact ⟨t, (execCapLimited_limits ran late first).trans (congrArg Host.Outcome.next ht), both.limited, both.frames, both.counted,
    fun new => (State.capRecorded_new new ht.symm).2, fun held => (State.capRecorded_held held ht.symm).2⟩

end

/-- Settles O18: each signal is the end of its command, and an overload is a Derate that keeps its class or rises. -/
theorem zoneSignalsAndOverloadsAreJudged : Obligations.ZoneSignalsAndOverloadsAreJudged :=
  ⟨fun _ => ⟨execJobGroupApply_applies, execVselSample_ends, fun _ => execPgoodHigh_rises⟩, fun _ _ => execCapLimited_ends⟩

end Sys2Proof.Machine
end

section
/-! SUPPORT for chapter 06: what an operation on one lane, on one zone's feed-forward, or over a list leaves, and how it reads back. -/

namespace Sys2Proof.Machine

section
variable {P : Nat → Prop} {s t : State}

theorem State.regsOff.putBF (h : t.regsOff P s) {a : Nat} (ha : P a) (x : BF24) : (t.putBF a x).regsOff P s := h.wr ha _

theorem State.within.putBF {l : List Part} (h : t.within s l) (hl : .regs ∈ l) (a : Nat) (x : BF24) : (t.putBF a x).within s l := h.wr hl _ _

theorem State.within.put64 {l : List Part} (h : t.within s l) (hl : .regs ∈ l) (lo hi v : Nat) : (t.put64 lo hi v).within s l :=
  (h.wr hl _ _).wr hl _ _

/-- A 64-bit quantity reads back from its two registers. -/
theorem State.get64_put64 (s : State) {lo hi v : Nat} (apart : lo ≠ hi) (fits : v < 2 ^ 64) : (s.put64 lo hi v).get64 lo hi = v := by
  unfold State.get64 State.put64
  rw [State.rd_wr_same, State.rd_wr_other _ _ _ _ apart, State.rd_wr_same, BitVec.toNat_ofNat, BitVec.toNat_ofNat]
  omega

/-- What one entry's step brings about, and no later step takes away, holds at the end for every entry of the list. -/
theorem State.foldl_reaches {α : Type} {K : State → Prop} {R : State → α → Prop} {f : State → α → State} (keeps : ∀ u i, K u → K (f u i))
    (brings : ∀ u i, K u → R (f u i) i) (stays : ∀ u i j, R u j → R (f u i) j) {l : List α} {j : α} (hj : j ∈ l) (hs : K s) :
    R (l.foldl f s) j := by
  induction l generalizing s with
  | nil => cases hj
  | cons i l ih =>
    rcases List.mem_cons.1 hj with rfl | later
    · exact List.foldlRecOn l f (brings s j hs) fun u hu i _ => stays u i j hu
    · exact ih later (keeps s i hs)

end

/-! ## One lane -/

section
variable (s : State) (l : Fin 16)

theorem State.setLane_regs (x : LaneRt) : (s.setLane l x).regs = s.regs := s.setLane_within l x .regs (by decide)

/-- `t` is `s` but for the part of lane `l` and the registers that `P` names. -/
structure State.LaneMoved (t s : State) (l : Fin 16) (P : Nat → Prop) : Prop where
  off : t.regsOff P s
  others : ∀ i : Fin 16, i ≠ l → t.lane i = s.lane i
  parts : t.within s [.regs, .wgl]

variable {s l} {t : State} {P : Nat → Prop}

theorem State.LaneMoved.rfl' (s : State) : s.LaneMoved s l P := ⟨.rfl' s, fun _ _ => rfl, .rfl' s⟩

theorem State.LaneMoved.setLane (h : t.LaneMoved s l P) (x : LaneRt) : (t.setLane l x).LaneMoved s l P :=
  ⟨h.off.of_regs (t.setLane_regs l x), fun i hi => (t.lane_setLane_other l x hi).trans (h.others i hi),
    ((t.setLane_within l x).mono (by decide)).trans h.parts⟩

/-- Writes of registers that `P` names. -/
theorem State.LaneMoved.of_regsOff {u : State} (h : t.LaneMoved s l P) (off : u.regsOff P t) (parts : u.within t [.regs]) : u.LaneMoved s l P :=
  ⟨off.trans h.off, fun i hi => (State.lane_congr t (parts .wgl (by decide)) i).trans (h.others i hi), (parts.mono (by decide)).trans h.parts⟩

theorem State.LaneMoved.setFlag (h : t.LaneMoved s l P) {f : Fld} (hf : P f.addr) (b : Bool) : (t.setFlag f b).LaneMoved s l P :=
  h.of_regsOff (.setFlag (.rfl' t) hf b) (.setFlag (.rfl' t) (by decide) f b)

end

/-! ## One zone's feed-forward -/

section
variable (s : State) (z : Fin 4)

theorem State.zoneFf_fin : s.zoneFf z = vget s.wgl.zones z := dif_pos z.isLt

theorem State.setZoneFf_fin (x : ZoneFf) : s.setZoneFf z x = { s with wgl := { s.wgl with zones := vset s.wgl.zones z x } } := dif_pos z.isLt

theorem State.setZoneFf_within (x : ZoneFf) : (s.setZoneFf z x).within s [.wgl] := by
  rw [s.setZoneFf_fin]
  exact s.within_wgl _

theorem State.setZoneFf_regs (x : ZoneFf) : (s.setZoneFf z x).regs = s.regs := s.setZoneFf_within z x .regs (by decide)

theorem State.zoneFf_setZoneFf_same (x : ZoneFf) : (s.setZoneFf z x).zoneFf z = x := by
  rw [s.setZoneFf_fin, State.zoneFf_fin]
  exact vget_vset_same _ _ _

theorem State.zoneFf_setZoneFf_other (x : ZoneFf) {y : Fin 4} (h : y ≠ z) : (s.setZoneFf z x).zoneFf y = s.zoneFf y := by
  rw [s.setZoneFf_fin, State.zoneFf_fin, State.zoneFf_fin]
  exact vget_vset_other _ _ h

/-- Equal Waggle parts hold equal zones. -/
theorem State.zoneFf_congr {t : State} (h : t.wgl = s.wgl) (y : Nat) : t.zoneFf y = s.zoneFf y := by
  unfold State.zoneFf
  rw [h]

theorem State.lane_setZoneFf (x : ZoneFf) (i : Nat) : (s.setZoneFf z x).lane i = s.lane i := by
  rw [s.setZoneFf_fin]
  rfl

theorem State.zoneFf_setLane (l : Fin 16) (x : LaneRt) (y : Nat) : (s.setLane l x).zoneFf y = s.zoneFf y := by
  rw [s.setLane_fin]
  rfl

end

/-! ## What ZFB_LANE declares -/

section
variable {s t : State} {i : Nat} (h : t.rd (Reg.ZFB_LANE i) = s.rd (Reg.ZFB_LANE i))

include h

theorem State.laneDecl_congr : t.laneDecl i = s.laneDecl i := congrArg (getBits · 23 1 == 1) h

theorem State.laneZone_congr : t.laneZone i = s.laneZone i := congrArg (getBits · 24 2) h

theorem State.laneGroup_congr : t.laneGroup i = s.laneGroup i := by
  have group : t.get (Fd.ZFB_LANE_group i) = s.get (Fd.ZFB_LANE_group i) := congrArg (getBits · 0 6) h
  unfold State.laneGroup
  rw [State.laneDecl_congr h, group]

end

end Sys2Proof.Machine
end

section
/-! Chapter 06: arms that run out, silent lanes, stale steps, and the end of a storm (R167, R178, R190, R191). -/

namespace Sys2Proof.Machine

/-- The registers in which a lane shows its state and its pending arm. -/
def armRegs (l : Nat) : List Nat := [Reg.WGL_LANE_STAT l, Reg.WGL_LANE_ARM_LO l, Reg.WGL_LANE_ARM_HI l, Reg.WGL_LANE_RISE l]

section
variable (s : State) (l : Fin 16)

/-! ## The fall of a term (R178) -/

theorem State.ppFall_moving (h : (s.lane l).pp.kind = .move) : s.ppFall l = s.setLane l { s.lane l with pp :=
    { (s.lane l).pp with kind := .fall, start := (s.lane l).pp.val, first := s.time.frame, span := (s.lane l).pp.nr } } := by
  unfold State.ppFall
  simp only [h]

theorem State.ppFall_still (h : (s.lane l).pp.kind ≠ .move) : s.ppFall l = s := by
  unfold State.ppFall
  dsimp only
  split
  · exact absurd ‹_› h
  · rfl

theorem State.LaneMoved.ppFall {s t : State} {l : Fin 16} {P : Nat → Prop} (h : t.LaneMoved s l P) : (t.ppFall l).LaneMoved s l P := by
  by_cases moving : (t.lane l).pp.kind = .move
  · rw [t.ppFall_moving l moving]
    exact h.setLane _
  · rwa [t.ppFall_still l moving]

theorem State.ppFall_regs : (s.ppFall l).regs = s.regs := by
  by_cases moving : (s.lane l).pp.kind = .move
  · rw [s.ppFall_moving l moving, State.setLane_regs]
  · rw [s.ppFall_still l moving]

/-- A term that moves falls from its value, from this frame on; no term moves afterwards. -/
theorem State.ppFall_lane : ((s.ppFall l).lane l).arm = (s.lane l).arm ∧ ((s.ppFall l).lane l).armMiss = (s.lane l).armMiss ∧
    ((s.ppFall l).lane l).pp.kind ≠ .move ∧ ((s.lane l).pp.kind = .move → ((s.ppFall l).lane l).pp.kind = .fall ∧
      ((s.ppFall l).lane l).pp.start = (s.lane l).pp.val ∧ ((s.ppFall l).lane l).pp.first = s.time.frame) := by
  by_cases moving : (s.lane l).pp.kind = .move
  · rw [s.ppFall_moving l moving, State.lane_setLane_same]
    exact ⟨rfl, rfl, (by decide : PpKind.fall ≠ .move), fun _ => ⟨rfl, rfl, rfl⟩⟩
  · rw [s.ppFall_still l moving]
    exact ⟨rfl, rfl, moving, fun h => absurd h moving⟩

/-! ## The end of an arm (R166, R167) -/

/-- The lane holds no arm, and the end of one counts as a miss or not. -/
def State.armDropped (miss : Bool) : State := s.setLane l { s.lane l with arm := none, armMiss := (s.lane l).armMiss + b2n miss }

/-- The lane's registers show that no arm is pending. -/
def State.armCleared : State :=
  (((s.setFlag (Fd.WGL_LANE_STAT_arm_pending l) false).put64 (Reg.WGL_LANE_ARM_LO l) (Reg.WGL_LANE_ARM_HI l) 0).putBF (Reg.WGL_LANE_RISE l) .zero)

theorem State.endArm_none (miss void : Bool) (h : (s.lane l).arm = none) : s.endArm l miss void = s := by
  unfold State.endArm
  exact if_pos (by simp [h])

/-- An arm that is void ends, and its lane's term falls. -/
theorem State.endArm_void (miss : Bool) {a : Arm} (h : (s.lane l).arm = some a) : s.endArm l miss true = ((s.armDropped l miss).armCleared l).ppFall l := by
  unfold State.endArm
  exact if_neg (by simp [h])

theorem State.armCleared_regsOff : (s.armCleared l).regsOff (· ∈ armRegs l) s :=
  .putBF (.put64 (.setFlag (f := Fd.WGL_LANE_STAT_arm_pending l) (.rfl' s) (by simp [armRegs, Fd.WGL_LANE_STAT_arm_pending]) false)
    (by simp [armRegs]) (by simp [armRegs]) 0) (by simp [armRegs]) .zero

theorem State.armCleared_within : (s.armCleared l).within s [.regs] :=
  .putBF (.put64 (.setFlag (.rfl' s) (by decide) _ _) (by decide) _ _ _) (by decide) _ _

/-- Of the lane's state the end of an arm changes the one bit. -/
theorem State.rd_armCleared_stat : (s.armCleared l).rd (Reg.WGL_LANE_STAT l) =
    (s.setFlag (Fd.WGL_LANE_STAT_arm_pending l) false).rd (Reg.WGL_LANE_STAT l) := by
  have rise : Reg.WGL_LANE_STAT l ≠ Reg.WGL_LANE_RISE l := by unfold Reg.WGL_LANE_STAT Reg.WGL_LANE_RISE; omega
  have hi : Reg.WGL_LANE_STAT l ≠ Reg.WGL_LANE_ARM_HI l := by unfold Reg.WGL_LANE_STAT Reg.WGL_LANE_ARM_HI; omega
  have lo : Reg.WGL_LANE_STAT l ≠ Reg.WGL_LANE_ARM_LO l := by unfold Reg.WGL_LANE_STAT Reg.WGL_LANE_ARM_LO; omega
  exact (State.rd_wr_other _ _ _ _ rise).trans ((State.rd_wr_other _ _ _ _ hi).trans (State.rd_wr_other _ _ _ _ lo))

theorem State.armCleared_shown : (s.armCleared l).flag (Fd.WGL_LANE_STAT_arm_pending l) = false ∧
    (s.armCleared l).rd (Reg.WGL_LANE_ARM_LO l) = 0 ∧ (s.armCleared l).rd (Reg.WGL_LANE_ARM_HI l) = 0 := by
  have loRise : Reg.WGL_LANE_ARM_LO l ≠ Reg.WGL_LANE_RISE l := by unfold Reg.WGL_LANE_ARM_LO Reg.WGL_LANE_RISE; omega
  have hiRise : Reg.WGL_LANE_ARM_HI l ≠ Reg.WGL_LANE_RISE l := by unfold Reg.WGL_LANE_ARM_HI Reg.WGL_LANE_RISE; omega
  have loHi : Reg.WGL_LANE_ARM_LO l ≠ Reg.WGL_LANE_ARM_HI l := by unfold Reg.WGL_LANE_ARM_LO Reg.WGL_LANE_ARM_HI; omega
  refine ⟨?_, ?_, ?_⟩
  · exact (congrArg (getBits · 2 1 == 1) (s.rd_armCleared_stat l)).trans
      (s.flag_setFlag_same (Fd.WGL_LANE_STAT_arm_pending l) false (by decide : 2 + 1 ≤ 32) rfl)
  · exact (State.rd_wr_other _ _ _ _ loRise).trans ((State.rd_wr_other _ _ _ _ loHi).trans (State.rd_wr_same _ _ _))
  · exact (State.rd_wr_other _ _ _ _ hiRise).trans (State.rd_wr_same _ _ _)

theorem State.armCleared_linkDown : (s.armCleared l).flag (Fd.WGL_LANE_STAT_link_down l) = s.flag (Fd.WGL_LANE_STAT_link_down l) :=
  (congrArg (getBits · 4 1 == 1) (s.rd_armCleared_stat l)).trans
    (s.flag_setFlag_apart (Fd.WGL_LANE_STAT_arm_pending l) (Fd.WGL_LANE_STAT_link_down l) false (by decide : 2 + 1 ≤ 32)
      (.inr (.inr (by decide : 2 + 1 ≤ 4))))

variable {s l} {t : State}

theorem State.LaneMoved.armCleared (h : t.LaneMoved s l (· ∈ armRegs l)) : (t.armCleared l).LaneMoved s l (· ∈ armRegs l) :=
  h.of_regsOff (t.armCleared_regsOff l) (t.armCleared_within l)

theorem State.LaneMoved.endArm_void (h : t.LaneMoved s l (· ∈ armRegs l)) (miss : Bool) : (t.endArm l miss true).LaneMoved s l (· ∈ armRegs l) := by
  cases arm : (t.lane l).arm with
  | none => rwa [t.endArm_none l miss true arm]
  | some a =>
    rw [t.endArm_void l miss arm]
    exact (h.setLane _).armCleared.ppFall

variable (s l)

theorem State.endArm_void_arm (miss : Bool) : ((s.endArm l miss true).lane l).arm = none := by
  cases arm : (s.lane l).arm with
  | none => rwa [s.endArm_none l miss true arm]
  | some a =>
    rw [s.endArm_void l miss arm, (State.ppFall_lane _ l).1, State.lane_congr _ (State.armCleared_within _ l .wgl (by decide))]
    exact congrArg LaneRt.arm (s.lane_setLane_same l _)

theorem State.endArm_void_linkDown (miss : Bool) :
    (s.endArm l miss true).flag (Fd.WGL_LANE_STAT_link_down l) = s.flag (Fd.WGL_LANE_STAT_link_down l) := by
  cases arm : (s.lane l).arm with
  | none => rw [s.endArm_none l miss true arm]
  | some a =>
    rw [s.endArm_void l miss arm, State.flag_congr (State.ppFall_regs _ l), State.armCleared_linkDown]
    exact State.flag_congr (s.setLane_regs l _) _

/-- A void arm is no longer held or shown, and the lane's term falls. -/
theorem State.endArm_void_lane (miss : Bool) {a : Arm} (h : (s.lane l).arm = some a) :
    ((s.endArm l miss true).lane l).armMiss = (s.lane l).armMiss + b2n miss ∧
    (s.endArm l miss true).flag (Fd.WGL_LANE_STAT_arm_pending l) = false ∧ (s.endArm l miss true).rd (Reg.WGL_LANE_ARM_LO l) = 0 ∧
    (s.endArm l miss true).rd (Reg.WGL_LANE_ARM_HI l) = 0 ∧ ((s.lane l).pp.kind = .move → ((s.endArm l miss true).lane l).pp.kind = .fall ∧
      ((s.endArm l miss true).lane l).pp.start = (s.lane l).pp.val ∧ ((s.endArm l miss true).lane l).pp.first = s.time.frame) := by
  rw [s.endArm_void l miss h]
  have cleared : ((s.armDropped l miss).armCleared l).lane l = { s.lane l with arm := none, armMiss := (s.lane l).armMiss + b2n miss } :=
    (State.lane_congr _ (State.armCleared_within _ l .wgl (by decide)) l).trans (s.lane_setLane_same l _)
  have time : ((s.armDropped l miss).armCleared l).time = s.time :=
    (State.armCleared_within _ l .time (by decide)).trans (s.setLane_within l _ .time (by decide))
  obtain ⟨pending, lo, hi⟩ := (s.armDropped l miss).armCleared_shown l
  generalize (s.armDropped l miss).armCleared l = t at *
  obtain ⟨-, misses, -, falls⟩ := t.ppFall_lane l
  rw [cleared, time] at falls
  have regs := t.ppFall_regs l
  exact ⟨misses.trans (congrArg LaneRt.armMiss cleared), (State.flag_congr regs _).trans pending, (congrArg (Regs.get · _) regs).trans lo,
    (congrArg (Regs.get · _) regs).trans hi, falls⟩

theorem execArmTimeout_late {a : Arm} (h : (s.lane l).arm = some a)
    (late : a.tp + 1000 * s.get Fd.FFW_PP_TIMEOUT_arm_timeout < s.time.frameStart) : execArmTimeout l s = .next (s.endArm l true true) := by
  unfold execArmTimeout
  rw [h]
  exact congrArg Host.Outcome.next (if_pos late)

/-! ## Silent lanes (R191) -/

/-- A lane that goes silent is flagged, without arm, and its term does not move. -/
theorem State.dropLane_dropped : (s.dropLane l).LaneMoved s l (· ∈ armRegs l) ∧ (s.dropLane l).flag (Fd.WGL_LANE_STAT_link_down l) = true ∧
    ((s.dropLane l).lane l).arm = none ∧ ((s.dropLane l).lane l).pp.kind ≠ .move := by
  have flagged : (s.setFlag (Fd.WGL_LANE_STAT_link_down l) true).LaneMoved s l (· ∈ armRegs l) :=
    .setFlag (f := Fd.WGL_LANE_STAT_link_down l) (.rfl' s) (by simp [armRegs, Fd.WGL_LANE_STAT_link_down]) true
  have shown := s.flag_setFlag_same (Fd.WGL_LANE_STAT_link_down l) true (by decide : 4 + 1 ≤ 32) rfl
  unfold State.dropLane
  generalize s.setFlag (Fd.WGL_LANE_STAT_link_down l) true = t at *
  have moved := flagged.endArm_void false
  have void := t.endArm_void_arm l false
  have down := (t.endArm_void_linkDown l false).trans shown
  generalize t.endArm l false true = u at *
  obtain ⟨arm, -, still, -⟩ := u.ppFall_lane l
  exact ⟨moved.ppFall, (State.flag_congr (u.ppFall_regs l) _).trans down, arm.trans void, still⟩

theorem execLinkDown_silent (decl : s.laneDecl l = true) (silent : 16 ≤ (s.lane l).silent)
    (first : s.flag (Fd.WGL_LANE_STAT_link_down l) = false) : execLinkDown l s = .next ((s.dropLane l).record Blk.wgl 0x13 0 (0x900 + l)) :=
  congrArg Host.Outcome.next (if_pos (by simp [decl, silent, first]))

theorem not_inWindow_laneStat (b : Nat) : ¬inWindow b (Reg.WGL_LANE_STAT l) := by
  have hl := l.isLt
  unfold inWindow Reg.WGL_LANE_STAT
  omega

/-- The registers that the drop of a lane and its Note change: those of the lane's arm, and Waggle's fault window. -/
def inLaneDrop (a : Nat) : Prop := a ∈ armRegs l ∨ inWindow 6 a

theorem not_inLaneDrop_zfbLane : ¬inLaneDrop l (Reg.ZFB_LANE l) := by
  unfold inLaneDrop armRegs inWindow Reg.ZFB_LANE Reg.WGL_LANE_STAT Reg.WGL_LANE_ARM_LO Reg.WGL_LANE_ARM_HI Reg.WGL_LANE_RISE
  simp only [List.mem_cons, List.not_mem_nil, or_false]
  omega

theorem not_inLaneDrop_laneTx : ¬inLaneDrop l (Reg.WGL_LANE_TX l) := by
  have hl := l.isLt
  unfold inLaneDrop armRegs inWindow Reg.WGL_LANE_TX Reg.WGL_LANE_STAT Reg.WGL_LANE_ARM_LO Reg.WGL_LANE_ARM_HI Reg.WGL_LANE_RISE
  simp only [List.mem_cons, List.not_mem_nil, or_false]
  omega

theorem fltStat_not_mem_armRegs : Reg.FLT_STAT 6 ∉ armRegs l := by
  have hl := l.isLt
  unfold armRegs Reg.FLT_STAT Reg.WGL_LANE_STAT Reg.WGL_LANE_ARM_LO Reg.WGL_LANE_ARM_HI Reg.WGL_LANE_RISE
  simp only [List.mem_cons, List.not_mem_nil, or_false]
  omega

theorem execLinkDown_drops (decl : s.laneDecl l = true) (silent : 16 ≤ (s.lane l).silent) (first : s.flag (Fd.WGL_LANE_STAT_link_down l) = false) :
    ∃ t, execLinkDown l s = .next t ∧ t.flag (Fd.WGL_LANE_STAT_link_down l) = true ∧ (t.lane l).arm = none ∧ (t.lane l).pp.kind ≠ .move ∧
      t.faultCounted s 6 ∧ t.flt = s.flt ∧ t.laneGroup l = s.laneGroup l ∧ t.rd (Reg.WGL_LANE_TX l) = s.rd (Reg.WGL_LANE_TX l) ∧
      (∀ i : Fin 16, i ≠ l → t.lane i = s.lane i) ∧ t.within s [.regs, .hmp, .wgl] := by
  obtain ⟨moved, down, arm, still⟩ := s.dropLane_dropped l
  have ran := execLinkDown_silent s l decl silent first
  generalize s.dropLane l = u at *
  obtain ⟨window, counted, parts⟩ := u.record_note Blk.wgl 0x13 (0x900 + l) rfl
  generalize u.record Blk.wgl 0x13 0 (0x900 + l) = t at *
  have off : t.regsOff (inLaneDrop l) s := (window.mono fun _ => Or.inr).trans (moved.off.mono fun _ => Or.inl)
  have lanes := fun i => State.lane_congr u (parts .wgl (by decide)) i
  have within : t.within s [.regs, .hmp, .wgl] := (parts.mono (by decide)).trans (moved.parts.mono (by decide))
  have before : u.get (Fd.FLT_STAT_count 6) = s.get (Fd.FLT_STAT_count 6) := moved.off.get (f := Fd.FLT_STAT_count 6) (fltStat_not_mem_armRegs l)
  refine ⟨t, ran, (window.flag (not_inWindow_laneStat l _)).trans down, by rw [lanes, arm], by rwa [lanes], ?_, within .flt (by decide), ?_, ?_,
    ?_, within⟩
  · exact counted.trans (by rw [show (Blk.wgl : Nat) = 6 from rfl, before])
  · exact State.laneGroup_congr (off _ (not_inLaneDrop_zfbLane l))
  · exact off _ (not_inLaneDrop_laneTx l)
  · exact fun i hi => (lanes i).trans (moved.others i hi)

/-! ## Stale steps, and the end of a storm (R190, R191) -/

/-- A flag of a lane is written, and nothing else. -/
theorem State.setFlag_laneStat_frame {f : Fld} (hf : f.addr = Reg.WGL_LANE_STAT l) (b : Bool) :
    (s.setFlag f b).withinRegs s [Reg.WGL_LANE_STAT l] ∧ (s.setFlag f b).within s [.regs] :=
  ⟨(State.regsOff.setFlag (.rfl' s) (List.mem_singleton.2 hf) b).withinRegs, .setFlag (.rfl' s) (by decide) f b⟩

theorem execStepStale_flags (h : s.stepIsStale l = true) : ∃ t, execStepStale l s = .next t ∧
    t.flag (Fd.WGL_LANE_STAT_step_stale l) = true ∧ t.withinRegs s [Reg.WGL_LANE_STAT l] ∧ t.within s [.regs] :=
  ⟨_, congrArg Host.Outcome.next (if_pos h), s.flag_setFlag_same (Fd.WGL_LANE_STAT_step_stale l) true (by decide : 3 + 1 ≤ 32) rfl,
    s.setFlag_laneStat_frame l (f := Fd.WGL_LANE_STAT_step_stale l) rfl true⟩

theorem execStormClear_clears (sweep : s.sweepStart = true) (storm : s.flag (Fd.WGL_LANE_STAT_storm l) = true) (clean : 64 ≤ (s.lane l).cleanSweeps) :
    ∃ t, execStormClear l s = .next t ∧ t.flag (Fd.WGL_LANE_STAT_storm l) = false ∧
      t.flag (Fd.WGL_LANE_STAT_fenced l) = s.flag (Fd.WGL_LANE_STAT_fenced l) ∧ t.withinRegs s [Reg.WGL_LANE_STAT l] ∧ t.within s [.regs] :=
  ⟨_, congrArg Host.Outcome.next (if_pos (by simp [sweep, storm, clean])),
    s.flag_setFlag_same (Fd.WGL_LANE_STAT_storm l) false (by decide : 5 + 1 ≤ 32) rfl,
    s.flag_setFlag_apart (Fd.WGL_LANE_STAT_storm l) (Fd.WGL_LANE_STAT_fenced l) false (by decide : 5 + 1 ≤ 32) (.inr (.inr (by decide : 5 + 1 ≤ 6))),
    s.setFlag_laneStat_frame l (f := Fd.WGL_LANE_STAT_storm l) rfl false⟩

end

/-- Settles O20: each flag of a lane is the end of its own command. -/
theorem laneFlagsFollowTheirCounts : Obligations.LaneFlagsFollowTheirCounts := by
  intro l s
  refine ⟨fun a arm late => ?_, execLinkDown_drops s l, execStepStale_flags s l, execStormClear_clears s l⟩
  obtain ⟨misses, pending, lo, hi, falls⟩ := s.endArm_void_lane l true arm
  obtain ⟨off, others, parts⟩ := (State.LaneMoved.rfl' s).endArm_void (l := l) true
  exact ⟨_, execArmTimeout_late s l arm late, s.endArm_void_arm l true, misses, pending, lo, hi, falls, others, parts, off⟩

end Sys2Proof.Machine
end

section
/-! Chapter 06: the onset of a step, and the swap of a zone's buffers (R170, R173, R175). -/

namespace Sys2Proof.Machine

/-! ## The gain of an onset (R173) -/

section
variable {s t : State}

/-- The registers that decide whether a lane's rise enters a gain: its declaration, its control and its state. -/
def State.feedsAs (t s : State) : Prop := ∀ i, t.rd (Reg.ZFB_LANE i) = s.rd (Reg.ZFB_LANE i) ∧
  t.rd (Reg.WGL_LANE_CTRL i) = s.rd (Reg.WGL_LANE_CTRL i) ∧ t.rd (Reg.WGL_LANE_STAT i) = s.rd (Reg.WGL_LANE_STAT i)

/-- A lane's arm is for the same release, with the same rise. -/
def State.armsAs (t s : State) : Prop := ∀ i, (t.lane i).arm.map (fun a => (a.tp, a.rise)) = (s.lane i).arm.map fun a => (a.tp, a.rise)

theorem State.feeds_congr (h : t.feedsAs s) (i z : Nat) : t.feeds i z = s.feeds i z := by
  obtain ⟨lane, ctrl, stat⟩ := h i
  have ff : t.flag (Fd.WGL_LANE_CTRL_ff_en i) = s.flag (Fd.WGL_LANE_CTRL_ff_en i) := congrArg (getBits · 0 1 == 1) ctrl
  have storm : t.flag (Fd.WGL_LANE_STAT_storm i) = s.flag (Fd.WGL_LANE_STAT_storm i) := congrArg (getBits · 5 1 == 1) stat
  have fenced : t.flag (Fd.WGL_LANE_STAT_fenced i) = s.flag (Fd.WGL_LANE_STAT_fenced i) := congrArg (getBits · 6 1 == 1) stat
  unfold State.feeds
  rw [State.laneDecl_congr lane, State.laneZone_congr lane, ff, storm, fenced]

theorem State.nearRise_congr (h : t.feedsAs s) (arms : t.armsAs s) (z tp i : Nat) : t.nearRise z tp i = s.nearRise z tp i := by
  have same := arms i
  unfold State.nearRise
  rw [State.feeds_congr h]
  cases held : (s.lane i).arm with
  | none =>
    rw [held] at same
    rw [Option.map_eq_none_iff.1 same]
  | some a =>
    rw [held] at same
    obtain ⟨b, arm, release⟩ := Option.map_eq_some_iff.1 same
    obtain ⟨tp_eq, rise_eq⟩ := Prod.mk.inj release
    rw [arm]
    dsimp only
    rw [tp_eq, rise_eq]

theorem State.onsetGain_congr (h : t.feedsAs s) (arms : t.armsAs s) {z : Nat} (setpt : t.rd (Reg.LPE_RAMP_SETPT z) = s.rd (Reg.LPE_RAMP_SETPT z))
    (tp : Nat) : t.onsetGain z tp = s.onsetGain z tp := by
  have rises : (fun i => t.nearRise z tp i) = fun i => s.nearRise z tp i := funext fun i => State.nearRise_congr h arms z tp i
  unfold State.onsetGain State.getBF
  rw [setpt, rises]

end

/-! ## The onset (R170) -/

/-- The registers that an onset in a zone changes. -/
def onsetRegs (z : Nat) : List Nat := [Reg.FFW_ANCHOR_LO z, Reg.FFW_ANCHOR_HI z, Reg.FFW_GAIN z]

theorem not_mem_onsetRegs {b : Nat} (h : b < 0x40030000 ∨ 0x40030080 ≤ b) (z : Fin 4) : b ∉ onsetRegs z := by
  have hz := z.isLt
  unfold onsetRegs Reg.FFW_ANCHOR_LO Reg.FFW_ANCHOR_HI Reg.FFW_GAIN
  simp only [List.mem_cons, List.not_mem_nil, or_false]
  omega

section
variable (s : State) (z : Fin 4) (l : Fin 16) (a : Arm)

/-! ### The anchor time of a zone -/

theorem State.setAnchorTime_regs (ta : Nat) :
    (s.setAnchorTime z ta).regs = (s.put64 (Reg.FFW_ANCHOR_LO z) (Reg.FFW_ANCHOR_HI z) ta).regs := State.setZoneFf_regs _ z _

theorem State.lane_setAnchorTime (ta i : Nat) : (s.setAnchorTime z ta).lane i = s.lane i :=
  (State.lane_setZoneFf _ z _ i).trans (State.lane_congr s (s.put64_wgl _ _ ta) i)

theorem State.zoneFf_setAnchorTime_same (ta : Nat) : (s.setAnchorTime z ta).zoneFf z = { s.zoneFf z with hasTa := true, hold := false } :=
  State.zoneFf_setZoneFf_same _ z _

theorem State.zoneFf_setAnchorTime_other (ta : Nat) {y : Fin 4} (h : y ≠ z) : (s.setAnchorTime z ta).zoneFf y = s.zoneFf y :=
  (State.zoneFf_setZoneFf_other _ z _ h).trans (State.zoneFf_congr s (s.put64_wgl _ _ ta) y)

/-! ### The marks of an onset -/

/-- The lane's arm is marked with its onset. -/
def State.onsetMarked : State := s.setLane l { s.lane l with arm := some { a with onset := true } }

/-- The frame is a step boundary of the zone, which takes the lane's period. -/
def State.onsetBounded : State :=
  s.setZoneFf z { s.zoneFf z with boundary := true, onsetStep := some a.stepId, period := s.lanePeriod l }

/-- The marks of an onset, before its gain is formed. -/
def State.onsetHeld : State := ((s.onsetMarked l a).setAnchorTime z s.time.frameStart).onsetBounded z l a

theorem State.onset_eq : s.onset z l a = (s.onsetHeld z l a).putBF (Reg.FFW_GAIN z) ((s.onsetHeld z l a).onsetGain z a.tp) := by
  have time : (s.onsetMarked l a).time = s.time := s.setLane_within l _ .time (by decide)
  unfold State.onsetHeld
  rw [← time]
  rfl

theorem State.onsetHeld_regs : (s.onsetHeld z l a).regs = (s.put64 (Reg.FFW_ANCHOR_LO z) (Reg.FFW_ANCHOR_HI z) s.time.frameStart).regs := by
  have marked : (s.onsetMarked l a).regs = s.regs := s.setLane_regs l _
  unfold State.onsetHeld State.onsetBounded
  rw [State.setZoneFf_regs, State.setAnchorTime_regs]
  unfold State.put64 State.wr
  rw [marked]

theorem State.lane_onsetHeld (i : Nat) : (s.onsetHeld z l a).lane i = (s.onsetMarked l a).lane i :=
  (State.lane_setZoneFf _ z _ i).trans (State.lane_setAnchorTime _ z _ i)

theorem State.lane_onsetHeld_same : (s.onsetHeld z l a).lane l = { s.lane l with arm := some { a with onset := true } } :=
  (s.lane_onsetHeld z l a l).trans (s.lane_setLane_same l _)

theorem State.lane_onsetHeld_other {i : Fin 16} (h : i ≠ l) : (s.onsetHeld z l a).lane i = s.lane i :=
  (s.lane_onsetHeld z l a i).trans (s.lane_setLane_other l _ h)

theorem State.lanePeriod_congr {s t : State} {i : Nat} (h : (t.lane i).period = (s.lane i).period) : t.lanePeriod i = s.lanePeriod i := by
  unfold State.lanePeriod
  rw [h]

theorem State.zoneFf_onsetHeld_same : (s.onsetHeld z l a).zoneFf z =
    { s.zoneFf z with hasTa := true, hold := false, boundary := true, onsetStep := some a.stepId, period := s.lanePeriod l } := by
  have before : (s.onsetMarked l a).zoneFf z = s.zoneFf z := s.zoneFf_setLane l _ z
  have lane : ((s.onsetMarked l a).setAnchorTime z s.time.frameStart).lane l = { s.lane l with arm := some { a with onset := true } } :=
    (State.lane_setAnchorTime _ z _ l).trans (s.lane_setLane_same l _)
  have period : ((s.onsetMarked l a).setAnchorTime z s.time.frameStart).lanePeriod l = s.lanePeriod l :=
    State.lanePeriod_congr ((congrArg LaneRt.period lane).trans rfl)
  unfold State.onsetHeld State.onsetBounded
  rw [State.zoneFf_setZoneFf_same, period, State.zoneFf_setAnchorTime_same, before]

theorem State.zoneFf_onsetHeld_other {y : Fin 4} (h : y ≠ z) : (s.onsetHeld z l a).zoneFf y = s.zoneFf y :=
  (State.zoneFf_setZoneFf_other _ z _ h).trans ((State.zoneFf_setAnchorTime_other _ z _ h).trans (s.zoneFf_setLane l _ y))

theorem State.onsetHeld_regsOff : (s.onsetHeld z l a).regsOff (· ∈ onsetRegs z) s :=
  State.regsOff.of_regs (.put64 (.rfl' s) (by simp [onsetRegs]) (by simp [onsetRegs]) _) (s.onsetHeld_regs z l a)

/-! ### The gain, and the onset in whole -/

variable {s z l a}

/-- The mark of the onset changes neither release nor rise. -/
theorem State.onsetHeld_armsAs (arm : (s.lane l).arm = some a) : (s.onsetHeld z l a).armsAs s := fun i => by
  by_cases hi : i < 16
  · by_cases same : (⟨i, hi⟩ : Fin 16) = l
    · subst same
      rw [s.lane_onsetHeld_same z ⟨i, hi⟩ a, arm]
      rfl
    · rw [s.lane_onsetHeld_other z l a same]
  · unfold State.lane
    rw [dif_neg hi, dif_neg hi]

theorem State.onsetHeld_feedsAs : (s.onsetHeld z l a).feedsAs s := fun i => by
  have off (b : Nat) (h : b < 0x40030000 ∨ 0x40030080 ≤ b) : (s.onsetHeld z l a).rd b = s.rd b :=
    s.onsetHeld_regsOff z l a b (not_mem_onsetRegs h z)
  exact ⟨off _ (.inr (by unfold Reg.ZFB_LANE; omega)), off _ (.inr (by unfold Reg.WGL_LANE_CTRL; omega)),
    off _ (.inr (by unfold Reg.WGL_LANE_STAT; omega))⟩

theorem State.onsetGain_onsetHeld (arm : (s.lane l).arm = some a) : (s.onsetHeld z l a).onsetGain z a.tp = s.onsetGain z a.tp :=
  State.onsetGain_congr State.onsetHeld_feedsAs (State.onsetHeld_armsAs arm)
    (s.onsetHeld_regsOff z l a _ (not_mem_onsetRegs (.inl (by have hz := z.isLt; unfold Reg.LPE_RAMP_SETPT; omega)) z)) a.tp

theorem State.onset_shown (arm : (s.lane l).arm = some a) (fits : s.time.frameStart < 2 ^ 64) :
    (s.onset z l a).get64 (Reg.FFW_ANCHOR_LO z) (Reg.FFW_ANCHOR_HI z) = s.time.frameStart ∧
    (s.onset z l a).rd (Reg.FFW_GAIN z) = (s.onsetGain z a.tp).toWord ∧ (s.onset z l a).regsOff (· ∈ onsetRegs z) s := by
  have lo : Reg.FFW_ANCHOR_LO z ≠ Reg.FFW_GAIN z := by unfold Reg.FFW_ANCHOR_LO Reg.FFW_GAIN; omega
  have hi : Reg.FFW_ANCHOR_HI z ≠ Reg.FFW_GAIN z := by unfold Reg.FFW_ANCHOR_HI Reg.FFW_GAIN; omega
  have apart : Reg.FFW_ANCHOR_LO z ≠ Reg.FFW_ANCHOR_HI z := by unfold Reg.FFW_ANCHOR_LO Reg.FFW_ANCHOR_HI; omega
  have anchor := s.get64_put64 apart fits
  rw [s.onset_eq, State.onsetGain_onsetHeld arm]
  refine ⟨?_, State.rd_wr_same _ _ _, (s.onsetHeld_regsOff z l a).putBF (by simp [onsetRegs]) _⟩
  unfold State.get64 at anchor ⊢
  unfold State.putBF
  rw [State.rd_wr_other _ _ _ _ lo, State.rd_wr_other _ _ _ _ hi]
  unfold State.rd at anchor ⊢
  rwa [s.onsetHeld_regs]

theorem State.onset_wgl : (s.onset z l a).wgl = (s.onsetHeld z l a).wgl := by
  rw [s.onset_eq, State.putBF_wgl]

theorem execStepOnset_onset (anchor : (s.zoneFf z).anchor = some l) (arm : (s.lane l).arm = some a) (new : a.onset = false)
    (here : s.onsetHere a = true) : execStepOnset z s = .next (s.onset z l a) := by
  unfold execStepOnset
  simp [anchor, arm, new, here]

theorem execStepOnset_anchors (anchor : (s.zoneFf z).anchor = some l) (arm : (s.lane l).arm = some a) (new : a.onset = false)
    (fits : s.time.frameStart < 2 ^ 64) (here : s.onsetHere a = true) :
    ∃ t, execStepOnset z s = .next t ∧ t.get64 (Reg.FFW_ANCHOR_LO z) (Reg.FFW_ANCHOR_HI z) = s.time.frameStart ∧
      t.rd (Reg.FFW_GAIN z) = (s.onsetGain z a.tp).toWord ∧ (t.lane l).arm = some { a with onset := true } ∧
      (t.zoneFf z).hasTa = true ∧ (t.zoneFf z).hold = false ∧ (t.zoneFf z).boundary = true ∧ (t.zoneFf z).onsetStep = some a.stepId ∧
      (t.zoneFf z).period = s.lanePeriod l ∧ (∀ y : Fin 4, y ≠ z → t.zoneFf y = s.zoneFf y) ∧ (∀ i : Fin 16, i ≠ l → t.lane i = s.lane i) ∧
      t.withinRegs s (onsetRegs z) ∧ t.within s [.regs, .wgl] := by
  have lanes (i : Nat) := State.lane_congr _ (s.onset_wgl (z := z) (l := l) (a := a)) i
  have zones (y : Nat) := State.zoneFf_congr _ (s.onset_wgl (z := z) (l := l) (a := a)) y
  obtain ⟨time, gain, off⟩ := State.onset_shown (z := z) arm fits
  refine ⟨_, execStepOnset_onset anchor arm new here, time, gain, ?_, ?_⟩
  · rw [lanes, s.lane_onsetHeld_same]
  · rw [zones z, s.zoneFf_onsetHeld_same]
    exact ⟨rfl, rfl, rfl, rfl, rfl, fun y hy => (zones y).trans (s.zoneFf_onsetHeld_other z l a hy),
      fun i hi => (lanes i).trans (s.lane_onsetHeld_other z l a hi), off.withinRegs, ((Swarm1.rfl' s).onset z l a).within⟩

end

/-! ## The swap of the buffers (R175) -/

section
variable (s : State) (z : Fin 4)

theorem State.tableAt_congr {s t : State} {base : Nat} (h : ∀ b, base ≤ b → t.rd b = s.rd b) : t.tableAt base = s.tableAt base := by
  unfold State.tableAt
  rw [funext fun i => congrArg tableBytes (h (base + 4 * i) (Nat.le_add_right _ _))]

/-- The tables stand behind the other registers of the block. -/
theorem State.bufferBytes_congr {s t : State} (h : ∀ b, 0x40038000 ≤ b → t.rd b = s.rd b) (z k : Nat) :
    t.bufferBytes z k = s.bufferBytes z k := by
  have shape : 0x40038000 ≤ Reg.FFW_SHAPE z k 0 := by unfold Reg.FFW_SHAPE; omega
  have bias : 0x40038000 ≤ Reg.FFW_BIAS z k 0 := by unfold Reg.FFW_BIAS; omega
  unfold State.bufferBytes
  rw [State.tableAt_congr fun b hb => h b (shape.trans hb), State.tableAt_congr fun b hb => h b (bias.trans hb)]

/-- The zone shows the other buffer as the active one, and no commit that waits. -/
def State.buffersSwapped : State :=
  (s.put (Fd.FFW_ZONE_STAT_active_buf z) (1 - s.get (Fd.FFW_ZONE_STAT_active_buf z))).setFlag (Fd.FFW_ZONE_STAT_commit_pending z) false

/-- The count of stale forecast frames starts again. -/
def State.staleCleared : State := s.setZoneFf z { s.zoneFf z with staleFc := 0 }

theorem State.commitFfw_eq : s.commitFfw z = ((s.buffersSwapped z).staleCleared z).formCrc z := rfl

theorem State.buffersSwapped_shown :
    (s.buffersSwapped z).get (Fd.FFW_ZONE_STAT_active_buf z) = 1 - s.get (Fd.FFW_ZONE_STAT_active_buf z) ∧
    (s.buffersSwapped z).flag (Fd.FFW_ZONE_STAT_commit_pending z) = false := by
  have swapped := s.get_put_small (Fd.FFW_ZONE_STAT_active_buf z) (1 - s.get (Fd.FFW_ZONE_STAT_active_buf z)) (by decide : 0 + 1 ≤ 32)
    (Nat.lt_of_le_of_lt (Nat.sub_le _ _) (by decide : 1 < 2 ^ 1))
  unfold State.buffersSwapped
  generalize s.put (Fd.FFW_ZONE_STAT_active_buf z) (1 - s.get (Fd.FFW_ZONE_STAT_active_buf z)) = t at *
  exact ⟨(t.get_setFlag_apart (Fd.FFW_ZONE_STAT_commit_pending z) (Fd.FFW_ZONE_STAT_active_buf z) false (by decide : 2 + 1 ≤ 32)
    (.inr (.inl (by decide : 0 + 1 ≤ 2)))).trans swapped, t.flag_setFlag_same (Fd.FFW_ZONE_STAT_commit_pending z) false (by decide : 2 + 1 ≤ 32) rfl⟩

theorem State.buffersSwapped_regsOff : (s.buffersSwapped z).regsOff (· ∈ [Reg.FFW_ZONE_STAT z]) s :=
  .setFlag (f := Fd.FFW_ZONE_STAT_commit_pending z) (.put (f := Fd.FFW_ZONE_STAT_active_buf z) (.rfl' s) (List.mem_singleton.2 rfl) _)
    (List.mem_singleton.2 rfl) false

/-- The buffer that was active is the inactive one after the swap. -/
theorem State.inactive_after_swap : 1 - (1 - s.get (Fd.FFW_ZONE_STAT_active_buf z)) = s.get (Fd.FFW_ZONE_STAT_active_buf z) := by
  have small : s.get (Fd.FFW_ZONE_STAT_active_buf z) < 2 ^ 1 := s.get_lt (Fd.FFW_ZONE_STAT_active_buf z)
  omega

theorem State.commitFfw_regsOff : (s.commitFfw z).regsOff (· ∈ [Reg.FFW_ZONE_STAT z, Reg.FFW_CRC z]) s := by
  have swapped : (s.buffersSwapped z).regsOff (· ∈ [Reg.FFW_ZONE_STAT z, Reg.FFW_CRC z]) s :=
    (s.buffersSwapped_regsOff z).mono fun _ h => List.mem_cons.2 (.inl (List.mem_singleton.1 h))
  exact (swapped.of_regs (State.setZoneFf_regs _ z _)).wr (by simp) _

theorem State.commitFfw_bufferBytes (k : Nat) : (s.commitFfw z).bufferBytes z k = s.bufferBytes z k :=
  State.bufferBytes_congr (fun b hb => s.commitFfw_regsOff z b (by
    have hz := z.isLt
    unfold Reg.FFW_ZONE_STAT Reg.FFW_CRC
    simp only [List.mem_cons, List.not_mem_nil, or_false]
    omega)) z k

/-- The zone's state after the swap stands beside the CRC that is formed then (Table 06-3). -/
theorem State.commitFfw_shown : (s.commitFfw z).get (Fd.FFW_ZONE_STAT_active_buf z) = 1 - s.get (Fd.FFW_ZONE_STAT_active_buf z) ∧
    (s.commitFfw z).flag (Fd.FFW_ZONE_STAT_commit_pending z) = false ∧
    (s.commitFfw z).rd (Reg.FFW_CRC z) = crc32 (s.bufferBytes z (s.get (Fd.FFW_ZONE_STAT_active_buf z))) := by
  have apart : Reg.FFW_ZONE_STAT z ≠ Reg.FFW_CRC z := by unfold Reg.FFW_ZONE_STAT Reg.FFW_CRC; omega
  have regs : ((s.buffersSwapped z).staleCleared z).regs = (s.buffersSwapped z).regs := State.setZoneFf_regs _ z _
  have off : ((s.buffersSwapped z).staleCleared z).regsOff (· ∈ [Reg.FFW_ZONE_STAT z]) s := (s.buffersSwapped_regsOff z).of_regs regs
  obtain ⟨active, pending⟩ := s.buffersSwapped_shown z
  rw [← State.get_congr regs] at active
  rw [← State.flag_congr regs] at pending
  rw [s.commitFfw_eq]
  generalize (s.buffersSwapped z).staleCleared z = t at *
  have tables : t.bufferBytes z (1 - t.get (Fd.FFW_ZONE_STAT_active_buf z)) = s.bufferBytes z (s.get (Fd.FFW_ZONE_STAT_active_buf z)) := by
    rw [active, s.inactive_after_swap]
    exact State.bufferBytes_congr (fun b hb => off b (by
      have hz := z.isLt
      unfold Reg.FFW_ZONE_STAT
      simp only [List.mem_singleton]
      omega)) z _
  exact ⟨(t.get_wr_other _ _ (Fd.FFW_ZONE_STAT_active_buf z) apart).trans active,
    (congrArg (· == 1) (t.get_wr_other _ _ (Fd.FFW_ZONE_STAT_commit_pending z) apart)).trans pending,
    (t.rd_wr_same _ _).trans (congrArg crc32 tables)⟩

theorem State.lane_commitFfw (i : Nat) : (s.commitFfw z).lane i = s.lane i := by
  have swapped : (s.buffersSwapped z).wgl = s.wgl := (State.setFlag_wgl _ _ _).trans (s.put_wgl _ _)
  have formed : (s.commitFfw z).wgl = ((s.buffersSwapped z).staleCleared z).wgl := State.wr_wgl _ _ _
  exact (State.lane_congr _ formed i).trans ((State.lane_setZoneFf _ z _ i).trans (State.lane_congr s swapped i))

theorem execFfwCommitApply_swaps (due : s.commitDue z = true) :
    ∃ t, execFfwCommitApply z s = .next t ∧ t.get (Fd.FFW_ZONE_STAT_active_buf z) = 1 - s.get (Fd.FFW_ZONE_STAT_active_buf z) ∧
      t.flag (Fd.FFW_ZONE_STAT_commit_pending z) = false ∧
      t.rd (Reg.FFW_CRC z) = crc32 (s.bufferBytes z (s.get (Fd.FFW_ZONE_STAT_active_buf z))) ∧
      (∀ k, t.bufferBytes z k = s.bufferBytes z k) ∧
      t.withinRegs s [Reg.FFW_ZONE_STAT z, Reg.FFW_CRC z] ∧ t.within s [.regs, .wgl] ∧ ∀ i : Fin 16, t.lane i = s.lane i := by
  obtain ⟨active, pending, crc⟩ := s.commitFfw_shown z
  exact ⟨_, congrArg Host.Outcome.next (if_pos due), active, pending, crc, s.commitFfw_bufferBytes z, s.commitFfw_regsOff z,
    ((Swarm1.rfl' s).commitFfw z).within, fun i => s.lane_commitFfw z i⟩

end

/-- Settles O21: an onset marks its lane and its zone before it forms the gain, and a swap leaves the tables as they are. -/
theorem onsetsAnchorAndCommitsSwap : Obligations.OnsetsAnchorAndCommitsSwap := by
  refine ⟨fun z l a s anchor arm new fits near reached => ?_, fun z s => execFfwCommitApply_swaps s z⟩
  have here : s.onsetHere a = true := by
    unfold State.onsetHere
    simpa [near] using reached
  exact execStepOnset_anchors anchor arm new fits here

end Sys2Proof.Machine
end

section
/-! Chapter 06: the sources of THROTTLE_N, and its lines (R186, Table 06-5). -/

namespace Sys2Proof.Machine

/-! ## One zone's line -/

/-- The line of one zone, and the register that shows it, stand at what the zone's sources ask for. -/
structure State.LineShown (t : State) (z : Fin 4) : Prop where
  line : vget t.pins.throttleLow z = t.throttleOn z
  level : t.flag (Fd.WGL_THR_level z) = t.throttleOn z
  keeper : t.flag (Fd.WGL_THR_keeper z) = t.keeperSrc z
  exhaust : t.flag (Fd.WGL_THR_exhaust z) = t.exhaustSrc
  ext : t.flag (Fd.WGL_THR_ext z) = t.extSrc z

theorem State.linesShown_iff {t : State} : t.linesShown ↔ ∀ z, t.LineShown z :=
  forall_congr' fun _ => ⟨fun ⟨line, level, keeper, exhaust, ext⟩ => ⟨line, level, keeper, exhaust, ext⟩,
    fun ⟨line, level, keeper, exhaust, ext⟩ => ⟨line, level, keeper, exhaust, ext⟩⟩

/-- What the sources of a zone's line are judged by. -/
structure State.SourcesAs (t s : State) (z : Fin 4) : Prop where
  safe : t.flt = s.flt
  test : t.pins.testMode = s.pins.testMode
  exhaustRaw : t.wgl.exhaustRaw = s.wgl.exhaustRaw
  extActive : t.wgl.extActive = s.wgl.extActive
  forceOn : t.wgl.forceOn = s.wgl.forceOn
  keeper : t.flag (Fd.KPR_CMP_ZONE_uv_trip z) = s.flag (Fd.KPR_CMP_ZONE_uv_trip z)
  extEn : t.flag (Fd.WGL_THR_ext_en z) = s.flag (Fd.WGL_THR_ext_en z)

section
variable {s t : State} {z : Fin 4}

theorem State.SourcesAs.srcs (h : t.SourcesAs s z) : t.keeperSrc z = s.keeperSrc z ∧ t.exhaustSrc = s.exhaustSrc ∧ t.extSrc z = s.extSrc z ∧
    t.throttleOn z = s.throttleOn z := by
  have keeper : t.keeperSrc z = s.keeperSrc z := h.keeper
  have exhaust : t.exhaustSrc = s.exhaustSrc := by
    unfold State.exhaustSrc
    rw [h.safe, h.exhaustRaw]
  have ext : t.extSrc z = s.extSrc z := by
    unfold State.extSrc
    rw [h.safe, h.extActive, h.extEn]
  have force : t.forceSrc z = s.forceSrc z := by
    unfold State.forceSrc
    rw [h.safe, h.forceOn]
  refine ⟨keeper, exhaust, ext, ?_⟩
  unfold State.throttleOn
  rw [keeper, exhaust, ext, force, h.test]

/-- A line that is shown stays shown where its sources, its level and its register stay. -/
theorem State.LineShown.of_sources (h : s.LineShown z) (src : t.SourcesAs s z) (line : vget t.pins.throttleLow z = vget s.pins.throttleLow z)
    (e : t.rd (Reg.WGL_THR z) = s.rd (Reg.WGL_THR z)) : t.LineShown z := by
  obtain ⟨keeper, exhaust, ext, on⟩ := src.srcs
  exact ⟨(line.trans h.line).trans on.symm, ((congrArg (getBits · 7 1 == 1) e).trans h.level).trans on.symm,
    ((congrArg (getBits · 6 1 == 1) e).trans h.keeper).trans keeper.symm, ((congrArg (getBits · 5 1 == 1) e).trans h.exhaust).trans exhaust.symm,
    ((congrArg (getBits · 4 1 == 1) e).trans h.ext).trans ext.symm⟩

end

/-! ## Driving the lines -/

section
variable (s : State) (z : Fin 4)

/-- The zone's register shows its line and its sources. -/
def State.sourcesShown : State :=
  (((s.setFlag (Fd.WGL_THR_level z) (s.throttleOn z)).setFlag (Fd.WGL_THR_keeper z) (s.keeperSrc z)).setFlag (Fd.WGL_THR_exhaust z)
    s.exhaustSrc).setFlag (Fd.WGL_THR_ext z) (s.extSrc z)

theorem State.sourcesShown_regsOff : (s.sourcesShown z).regsOff (· ∈ [Reg.WGL_THR z]) s :=
  .setFlag (f := Fd.WGL_THR_ext z) (.setFlag (f := Fd.WGL_THR_exhaust z) (.setFlag (f := Fd.WGL_THR_keeper z) (.setFlag (f := Fd.WGL_THR_level z)
    (.rfl' s) (List.mem_singleton.2 rfl) _) (List.mem_singleton.2 rfl) _) (List.mem_singleton.2 rfl) _) (List.mem_singleton.2 rfl) _

theorem State.sourcesShown_within : (s.sourcesShown z).within s [.regs] :=
  .setFlag (.setFlag (.setFlag (.setFlag (.rfl' s) (by decide) _ _) (by decide) _ _) (by decide) _ _) (by decide) _ _

theorem State.setLine_within (low : Bool) : (s.setLine z low).within s [.pins] := s.within_pins _

theorem State.setLine_regs (low : Bool) : (s.setLine z low).regs = s.regs := rfl

theorem State.setLine_testMode (low : Bool) : (s.setLine z low).pins.testMode = s.pins.testMode := rfl

theorem State.driveZone_regsOff : (s.driveZone z).regsOff (· ∈ [Reg.WGL_THR z]) s :=
  (s.sourcesShown_regsOff z).of_regs (State.setLine_regs _ z _)

theorem State.driveZone_within : (s.driveZone z).within s [.regs, .pins] :=
  ((State.setLine_within _ z _).mono (by decide)).trans ((s.sourcesShown_within z).mono (by decide))

/-- The flags of the register after their writes; the bits that the sources are enabled by stay. -/
theorem State.sourcesShown_flags : (s.sourcesShown z).flag (Fd.WGL_THR_level z) = s.throttleOn z ∧
    (s.sourcesShown z).flag (Fd.WGL_THR_keeper z) = s.keeperSrc z ∧ (s.sourcesShown z).flag (Fd.WGL_THR_exhaust z) = s.exhaustSrc ∧
    (s.sourcesShown z).flag (Fd.WGL_THR_ext z) = s.extSrc z ∧ (s.sourcesShown z).flag (Fd.WGL_THR_ext_en z) = s.flag (Fd.WGL_THR_ext_en z) := by
  have above {u : State} {f g : Fld} {b : Bool} (h : f.lo + f.len ≤ 32) (d : f.lo + f.len ≤ g.lo) : (u.setFlag f b).flag g = u.flag g :=
    u.flag_setFlag_apart f g b h (.inr (.inr d))
  have below {u : State} {f g : Fld} {b : Bool} (h : f.lo + f.len ≤ 32) (d : g.lo + g.len ≤ f.lo) : (u.setFlag f b).flag g = u.flag g :=
    u.flag_setFlag_apart f g b h (.inr (.inl d))
  have ext : 4 + 1 ≤ 32 := by decide
  have exhaust : 5 + 1 ≤ 32 := by decide
  have keeper : 6 + 1 ≤ 32 := by decide
  have level : 7 + 1 ≤ 32 := by decide
  refine ⟨?_, ?_, ?_, ?_, ?_⟩
  · exact (above ext (by decide : 4 + 1 ≤ 7)).trans ((above exhaust (by decide : 5 + 1 ≤ 7)).trans ((above keeper (by decide : 6 + 1 ≤ 7)).trans
      (s.flag_setFlag_same (Fd.WGL_THR_level z) _ level rfl)))
  · exact (above ext (by decide : 4 + 1 ≤ 6)).trans ((above exhaust (by decide : 5 + 1 ≤ 6)).trans
      (State.flag_setFlag_same _ (Fd.WGL_THR_keeper z) _ keeper rfl))
  · exact (above ext (by decide : 4 + 1 ≤ 5)).trans (State.flag_setFlag_same _ (Fd.WGL_THR_exhaust z) _ exhaust rfl)
  · exact State.flag_setFlag_same _ (Fd.WGL_THR_ext z) _ ext rfl
  · exact (below ext (by decide : 1 + 1 ≤ 4)).trans ((below exhaust (by decide : 1 + 1 ≤ 5)).trans ((below keeper (by decide : 1 + 1 ≤ 6)).trans
      (below level (by decide : 1 + 1 ≤ 7))))

theorem not_mem_thr_keeper (y z : Fin 4) : Reg.KPR_CMP_ZONE y ∉ [Reg.WGL_THR z] := by
  have hy := y.isLt
  have hz := z.isLt
  rw [List.mem_singleton]
  unfold Reg.KPR_CMP_ZONE Reg.WGL_THR
  omega

theorem not_mem_thr_other {y z : Fin 4} (h : y ≠ z) : Reg.WGL_THR y ∉ [Reg.WGL_THR z] := by
  have other := Fin.val_ne_of_ne h
  rw [List.mem_singleton]
  unfold Reg.WGL_THR
  omega

/-- Driving a line changes no source of any. -/
theorem State.driveZone_sourcesAs (y : Fin 4) : (s.driveZone z).SourcesAs s y where
  safe := s.driveZone_within z .flt (by decide)
  test := (State.setLine_testMode _ z _).trans (congrArg PinRt.testMode (s.sourcesShown_within z .pins (by decide)))
  exhaustRaw := congrArg WglRt.exhaustRaw (s.driveZone_within z .wgl (by decide))
  extActive := congrArg WglRt.extActive (s.driveZone_within z .wgl (by decide))
  forceOn := congrArg WglRt.forceOn (s.driveZone_within z .wgl (by decide))
  keeper := (s.driveZone_regsOff z).flag (f := Fd.KPR_CMP_ZONE_uv_trip y) (not_mem_thr_keeper y z)
  extEn := by
    by_cases h : y = z
    · subst h
      exact (State.flag_congr (State.setLine_regs _ y _) _).trans (s.sourcesShown_flags y).2.2.2.2
    · exact (s.driveZone_regsOff z).flag (f := Fd.WGL_THR_ext_en y) (not_mem_thr_other h)

theorem State.throttleLow_driveZone_same : vget (s.driveZone z).pins.throttleLow z = s.throttleOn z := vget_vset_same _ _ _

theorem State.throttleLow_driveZone_other {y : Fin 4} (h : y ≠ z) :
    vget (s.driveZone z).pins.throttleLow y = vget s.pins.throttleLow y :=
  (vget_vset_other _ _ h).trans (congrArg (vget ·.throttleLow y) (s.sourcesShown_within z .pins (by decide)))

theorem State.driveZone_lineShown : (s.driveZone z).LineShown z := by
  obtain ⟨keeper, exhaust, ext, on⟩ := (s.driveZone_sourcesAs z z).srcs
  obtain ⟨level, keeperShown, exhaustShown, extShown, -⟩ := s.sourcesShown_flags z
  have flags (f : Fld) : (s.driveZone z).flag f = (s.sourcesShown z).flag f := State.flag_congr (State.setLine_regs _ z _) f
  exact ⟨(s.throttleLow_driveZone_same z).trans on.symm, ((flags _).trans level).trans on.symm, ((flags _).trans keeperShown).trans keeper.symm,
    ((flags _).trans exhaustShown).trans exhaust.symm, ((flags _).trans extShown).trans ext.symm⟩

/-- A line that is shown stays shown when a line is driven. -/
theorem State.LineShown.driveZone {s : State} {y : Fin 4} (h : s.LineShown y) (z : Fin 4) : (s.driveZone z).LineShown y := by
  by_cases same : y = z
  · subst same
    exact s.driveZone_lineShown y
  · exact h.of_sources (s.driveZone_sourcesAs z y) (s.throttleLow_driveZone_other z same) (s.driveZone_regsOff z _ (not_mem_thr_other same))

theorem State.driveThrottle_linesShown : s.driveThrottle.linesShown :=
  State.linesShown_iff.2 fun z => State.foldl_reaches (K := fun _ => True) (R := fun u (y : Fin 4) => u.LineShown y) (fun _ _ _ => trivial)
    (fun u y _ => u.driveZone_lineShown y) (fun _ y _ h => h.driveZone y) (List.mem_finRange z) trivial

theorem State.driveThrottle_within : s.driveThrottle.within s [.regs, .pins] :=
  .foldl (fun z u h => (u.driveZone_within z).trans h) (.rfl' s)

theorem State.driveThrottle_wgl : s.driveThrottle.wgl = s.wgl := s.driveThrottle_within .wgl (by decide)

theorem State.driveThrottle_regsOff : s.driveThrottle.regsOff (· ∈ thrRegs) s :=
  .foldl (fun z _ u h => ((u.driveZone_regsOff z).mono fun _ ha => List.mem_singleton.1 ha ▸
    List.mem_map_of_mem (List.mem_range.2 z.isLt)).trans h) (.rfl' s)

end

/-! ## EXT_ALERT_N, and the end of the sources -/

section
variable {s t : State}

/-- The lines driven by sources that differ in Waggle's part: the lines are shown, and their registers alone change. -/
theorem State.driveThrottle_drives (h : t.within s [.wgl]) : t.driveThrottle.linesShown ∧ t.driveThrottle.withinRegs s thrRegs ∧
    t.driveThrottle.within s [.regs, .wgl, .pins] := by
  have same : t.regsOff (· ∈ thrRegs) s := (State.regsOff.rfl' s).of_regs (h .regs (by decide))
  exact ⟨t.driveThrottle_linesShown, t.driveThrottle_regsOff.trans same, (t.driveThrottle_within.mono (by decide)).trans (h.mono (by decide))⟩

theorem State.setExt_within (s : State) (b : Bool) : (s.setExt b).within s [.wgl] := s.within_wgl _

theorem execExtAlert_begins (off : s.wgl.extActive = false) (low : 2 ≤ s.wgl.extLowRun) :
    execExtAlert s = .next (s.setExt true).driveThrottle := congrArg Host.Outcome.next (if_pos (by simp [off, low]))

theorem execExtAlert_ends (on : s.wgl.extActive = true) (high : 256 ≤ s.wgl.extHighRun) (past : s.wgl.extHold = 0) :
    execExtAlert s = .next (s.setExt false).driveThrottle :=
  congrArg Host.Outcome.next ((if_neg (by simp [on])).trans (if_pos (by simp [on, high, past])))

theorem State.endSources_within (s : State) (z : Fin 4) : (s.endSources z).within s [.wgl] := s.within_wgl _

/-- The operator's source of the zone ends under its conditions, no earlier than its minimum time, and no other zone's does. -/
theorem State.endSources_forceOn (s : State) (z : Fin 4) :
    (vget s.wgl.forceOn z = true → s.flag (Fd.WGL_THR_force z) = false → vget s.wgl.forceHold z = 0 → vget (s.endSources z).wgl.forceOn z = false) ∧
    (vget s.wgl.forceHold z ≠ 0 → vget (s.endSources z).wgl.forceOn z = vget s.wgl.forceOn z) ∧
    ∀ y, y ≠ z → vget (s.endSources z).wgl.forceOn y = vget s.wgl.forceOn y := by
  have own : vget (s.endSources z).wgl.forceOn z = (vget s.wgl.forceOn z && !s.forceEnds z) := vget_vset_same _ _ _
  refine ⟨fun on off past => ?_, fun runs => ?_, fun y hy => vget_vset_other _ _ hy⟩
  · rw [own]
    simp [State.forceEnds, on, off, past]
  · rw [own]
    simp [State.forceEnds, runs]

theorem State.endSources_exhaustRaw (s : State) (z : Fin 4) (runs : s.wgl.exhaustHold ≠ 0) : (s.endSources z).wgl.exhaustRaw = s.wgl.exhaustRaw := by
  show (s.wgl.exhaustRaw && !s.exhaustEnds) = s.wgl.exhaustRaw
  simp [State.exhaustEnds, runs]

theorem execThrottleRelease_releases (s : State) (z : Fin 4) :
    ∃ t, execThrottleRelease z s = .next t ∧ t.linesShown ∧ t.withinRegs s thrRegs ∧ t.within s [.regs, .wgl, .pins] ∧
      (vget s.wgl.forceOn z = true → s.flag (Fd.WGL_THR_force z) = false → vget s.wgl.forceHold z = 0 → vget t.wgl.forceOn z = false) ∧
      (vget s.wgl.forceHold z ≠ 0 → vget t.wgl.forceOn z = vget s.wgl.forceOn z) ∧ (∀ y, y ≠ z → vget t.wgl.forceOn y = vget s.wgl.forceOn y) ∧
      (s.wgl.exhaustHold ≠ 0 → t.wgl.exhaustRaw = s.wgl.exhaustRaw) := by
  obtain ⟨shown, regs, parts⟩ := State.driveThrottle_drives (s.endSources_within z)
  obtain ⟨ends, waits, others⟩ := s.endSources_forceOn z
  refine ⟨(s.endSources z).driveThrottle, rfl, shown, regs, parts, ?_⟩
  rw [State.driveThrottle_wgl]
  exact ⟨ends, waits, others, s.endSources_exhaustRaw z⟩

end

end Sys2Proof.Machine
end

section
/-! Chapter 06: the droop response (R185, R187, Table 06-4). -/

namespace Sys2Proof.Machine

/-! ## Levels of ceilings -/

/-- No code of a ceiling is above the same code of another. -/
def CeilRt.AtMost (x y : CeilRt) : Prop := x.c ≤ y.c ∧ x.s ≤ y.s ∧ x.sg ≤ y.sg

/-- No code of a ceiling is above a level. -/
def CeilRt.Under (x : CeilRt) (l : Nat) : Prop := x.c ≤ l ∧ x.s ≤ l ∧ x.sg ≤ l

section
variable {x y w : CeilRt} {l m : Nat}

theorem CeilRt.AtMost.rfl' (x : CeilRt) : x.AtMost x := ⟨le_rfl, le_rfl, le_rfl⟩

theorem CeilRt.AtMost.trans (h : x.AtMost y) (h' : y.AtMost w) : x.AtMost w := by
  obtain ⟨c, s, sg⟩ := h
  obtain ⟨c', s', sg'⟩ := h'
  exact ⟨c.trans c', s.trans s', sg.trans sg'⟩

theorem CeilRt.AtMost.under (h : x.AtMost y) (h' : y.Under l) : x.Under l := by
  obtain ⟨c, s, sg⟩ := h
  obtain ⟨c', s', sg'⟩ := h'
  exact ⟨c.trans c', s.trans s', sg.trans sg'⟩

theorem CeilRt.lower_atMost (x : CeilRt) (l : Nat) : (x.lower l).AtMost x := ⟨Nat.min_le_left .., Nat.min_le_left .., Nat.min_le_left ..⟩

theorem CeilRt.hold_atMost (x : CeilRt) (l : Nat) : (x.hold l).AtMost x := ⟨le_rfl, Nat.min_le_left .., Nat.min_le_left ..⟩

theorem CeilRt.lower_under (x : CeilRt) (h : m ≤ l) : (x.lower m).Under l :=
  ⟨(Nat.min_le_right ..).trans h, (Nat.min_le_right ..).trans h, (Nat.min_le_right ..).trans h⟩

theorem foldl_min_le {g : Nat → Nat} (l : List Nat) (b : Nat) :
    l.foldl (fun m i => min m (g i)) b ≤ b ∧ ∀ i ∈ l, l.foldl (fun m i => min m (g i)) b ≤ g i := by
  induction l generalizing b with
  | nil => exact ⟨le_rfl, fun _ h => absurd h List.not_mem_nil⟩
  | cons j l ih =>
    obtain ⟨start, rest⟩ := ih (min b (g j))
    refine ⟨start.trans (Nat.min_le_left ..), fun i hi => ?_⟩
    rcases List.mem_cons.1 hi with rfl | later
    · exact start.trans (Nat.min_le_right ..)
    · exact rest i later

/-- A condition that names a ceiling bounds the level that the conditions ask for. -/
theorem State.levelOf_le (s : State) {conds : List Nat} {names : Nat → Bool} {i : Nat} (hi : i ∈ conds) (named : names i = true) :
    s.levelOf conds names ≤ s.droopLevel i := (foldl_min_le _ _).2 i (List.mem_filter.2 ⟨hi, named⟩)

end

/-! ## One ceiling -/

section
variable (s : State) (g : Nat) (x : CeilRt)

theorem State.setGroupCeil_outside (h : ¬g < 63) : s.setGroupCeil g x = s := dif_neg h

theorem State.setZoneCeil_outside (h : ¬g < 4) : s.setZoneCeil g x = s := dif_neg h

theorem State.setGroupCeil_within : (s.setGroupCeil g x).within s [.wgl] := by
  unfold State.setGroupCeil
  split
  · exact s.within_wgl _
  · exact .rfl' s

theorem State.setZoneCeil_within : (s.setZoneCeil g x).within s [.wgl] := by
  unfold State.setZoneCeil
  split
  · exact s.within_wgl _
  · exact .rfl' s

theorem State.groupCeil_setGroupCeil_same (h : g < 63) : (s.setGroupCeil g x).groupCeil g = x := by
  unfold State.setGroupCeil State.groupCeil
  rw [dif_pos h, dif_pos h]
  exact vget_vset_same _ _ _

theorem State.zoneCeil_setZoneCeil_same (h : g < 4) : (s.setZoneCeil g x).zoneCeil g = x := by
  unfold State.setZoneCeil State.zoneCeil
  rw [dif_pos h, dif_pos h]
  exact vget_vset_same _ _ _

theorem State.groupCeil_setGroupCeil_other {j : Nat} (h : j ≠ g) : (s.setGroupCeil g x).groupCeil j = s.groupCeil j := by
  unfold State.setGroupCeil State.groupCeil
  by_cases hg : g < 63
  · rw [dif_pos hg]
    by_cases hj : j < 63
    · rw [dif_pos hj, dif_pos hj]
      exact vget_vset_other _ _ fun e => h (Fin.mk.inj e)
    · rw [dif_neg hj, dif_neg hj]
  · rw [dif_neg hg]

theorem State.zoneCeil_setZoneCeil_other {j : Nat} (h : j ≠ g) : (s.setZoneCeil g x).zoneCeil j = s.zoneCeil j := by
  unfold State.setZoneCeil State.zoneCeil
  by_cases hg : g < 4
  · rw [dif_pos hg]
    by_cases hj : j < 4
    · rw [dif_pos hj, dif_pos hj]
      exact vget_vset_other _ _ fun e => h (Fin.mk.inj e)
    · rw [dif_neg hj, dif_neg hj]
  · rw [dif_neg hg]

theorem State.zoneCeil_setGroupCeil (z : Nat) : (s.setGroupCeil g x).zoneCeil z = s.zoneCeil z := by
  unfold State.setGroupCeil
  split <;> rfl

theorem State.groupCeil_setZoneCeil (j : Nat) : (s.setZoneCeil g x).groupCeil j = s.groupCeil j := by
  unfold State.setZoneCeil
  split <;> rfl

/-- Equal Waggle parts hold equal ceilings. -/
theorem State.ceil_congr {t : State} (h : t.wgl = s.wgl) : (∀ j, t.groupCeil j = s.groupCeil j) ∧ ∀ z, t.zoneCeil z = s.zoneCeil z := by
  unfold State.groupCeil State.zoneCeil
  rw [h]
  exact ⟨fun _ => rfl, fun _ => rfl⟩

end

/-! ## Operations that lower ceilings -/

/-- The registers that show the sent ceilings of the groups. -/
def sentRegs : List Nat := (List.range 63).map Reg.WGL_GROUP_SENT

theorem not_mem_sentRegs {a : Nat} (h : a < 0x40060500 ∨ 0x40060600 ≤ a) : a ∉ sentRegs := fun m => by
  obtain ⟨g, hg, rfl⟩ := List.mem_map.1 m
  have := List.mem_range.1 hg
  unfold Reg.WGL_GROUP_SENT at h
  omega

/-- Waggle's part without its ceilings. -/
def WglRt.withoutCeilings (w : WglRt) : WglRt := { w with groups := WglRt.reset.groups, zceil := WglRt.reset.zceil }

/-- `t` is `s` with no ceiling higher, and the registers that show them. -/
structure State.Lowers (t s : State) : Prop where
  off : t.regsOff (· ∈ sentRegs) s
  parts : t.within s [.regs, .wgl]
  wgl : t.wgl.withoutCeilings = s.wgl.withoutCeilings
  groups : ∀ g, (t.groupCeil g).AtMost (s.groupCeil g)
  zones : ∀ z, (t.zoneCeil z).AtMost (s.zoneCeil z)

section
variable {r s t : State}

theorem State.Lowers.rfl' (s : State) : s.Lowers s := ⟨.rfl' s, .rfl' s, rfl, fun _ => .rfl' _, fun _ => .rfl' _⟩

theorem State.Lowers.trans (h : t.Lowers s) (h' : s.Lowers r) : t.Lowers r :=
  ⟨h.off.trans h'.off, h.parts.trans h'.parts, h.wgl.trans h'.wgl, fun g => (h.groups g).trans (h'.groups g), fun z => (h.zones z).trans (h'.zones z)⟩

/-- What is kept beside the ceilings: the conditions that held, the lanes that are due, and the sources of the lines. -/
theorem State.Lowers.condPrev (h : t.Lowers s) : t.wgl.condPrev = s.wgl.condPrev := (congrArg WglRt.condPrev h.wgl :)

theorem State.Lowers.urgentDue (h : t.Lowers s) : t.wgl.urgentDue = s.wgl.urgentDue := (congrArg WglRt.urgentDue h.wgl :)

theorem State.Lowers.sources (h : t.Lowers s) :
    t.wgl.exhaustRaw = s.wgl.exhaustRaw ∧ t.wgl.extActive = s.wgl.extActive ∧ t.wgl.forceOn = s.wgl.forceOn :=
  ⟨(congrArg WglRt.exhaustRaw h.wgl :), (congrArg WglRt.extActive h.wgl :), (congrArg WglRt.forceOn h.wgl :)⟩

theorem State.Lowers.each {n : Nat} {f : Nat → State → State} (hf : ∀ i < n, ∀ u, (f i u).Lowers u) : (State.each n f s).Lowers s :=
  List.foldlRecOn (motive := fun u => u.Lowers s) _ _ (.rfl' s) fun u hu i hi => (hf i (List.mem_range.1 hi) u).trans hu

theorem State.Lowers.setGroupCeil {g : Nat} {x : CeilRt} (h : x.AtMost (s.groupCeil g)) : (s.setGroupCeil g x).Lowers s where
  off := .of_regs (.rfl' s) (s.setGroupCeil_within g x .regs (by decide))
  parts := (s.setGroupCeil_within g x).mono (by decide)
  wgl := by
    unfold State.setGroupCeil
    split <;> rfl
  groups j := by
    by_cases same : j = g
    · subst same
      by_cases hj : j < 63
      · rwa [s.groupCeil_setGroupCeil_same j x hj]
      · rw [s.setGroupCeil_outside j x hj]
        exact .rfl' _
    · rw [s.groupCeil_setGroupCeil_other g x same]
      exact .rfl' _
  zones z := by
    rw [s.zoneCeil_setGroupCeil]
    exact .rfl' _

theorem State.Lowers.setZoneCeil {z : Nat} {x : CeilRt} (h : x.AtMost (s.zoneCeil z)) : (s.setZoneCeil z x).Lowers s where
  off := .of_regs (.rfl' s) (s.setZoneCeil_within z x .regs (by decide))
  parts := (s.setZoneCeil_within z x).mono (by decide)
  wgl := by
    unfold State.setZoneCeil
    split <;> rfl
  groups j := by
    rw [s.groupCeil_setZoneCeil]
    exact .rfl' _
  zones j := by
    by_cases same : j = z
    · subst same
      by_cases hj : j < 4
      · rwa [s.zoneCeil_setZoneCeil_same j x hj]
      · rw [s.setZoneCeil_outside j x hj]
        exact .rfl' _
    · rw [s.zoneCeil_setZoneCeil_other z x same]
      exact .rfl' _

theorem State.showGroup_frame (s : State) (g : Nat) : (s.showGroup g).regsOff (· ∈ [Reg.WGL_GROUP_SENT g]) s ∧ (s.showGroup g).within s [.regs] :=
  ⟨.setFlag (f := Fd.WGL_GROUP_SENT_raise_pending g) (.setFlag (f := Fd.WGL_GROUP_SENT_droop g) (.put (f := Fd.WGL_GROUP_SENT_shared g)
    (.put (f := Fd.WGL_GROUP_SENT_local g) (.rfl' s) (List.mem_singleton.2 rfl) _) (List.mem_singleton.2 rfl) _) (List.mem_singleton.2 rfl) _)
    (List.mem_singleton.2 rfl) _,
    .setFlag (.setFlag (.put (.put (.rfl' s) (by decide) _ _) (by decide) _ _) (by decide) _ _) (by decide) _ _⟩

theorem State.Lowers.showGroup {g : Nat} (hg : g < 63) (s : State) : (s.showGroup g).Lowers s := by
  obtain ⟨regs, parts⟩ := s.showGroup_frame g
  have wgl : (s.showGroup g).wgl = s.wgl := parts .wgl (by decide)
  obtain ⟨groups, zones⟩ := s.ceil_congr wgl
  have shown (a : Nat) (ha : a ∈ [Reg.WGL_GROUP_SENT g]) : a ∈ sentRegs := List.mem_singleton.1 ha ▸ List.mem_map_of_mem (List.mem_range.2 hg)
  refine ⟨regs.mono shown, parts.mono (by decide), congrArg WglRt.withoutCeilings wgl, fun j => ?_, fun z => ?_⟩
  · rw [groups j]
    exact .rfl' _
  · rw [zones z]
    exact .rfl' _

theorem State.Lowers.lowerGroup (new : List Nat) (g : Nat) (s : State) : (State.lowerGroup new g s).Lowers s := .setGroupCeil (CeilRt.lower_atMost _ _)

theorem State.Lowers.lowerZone (new : List Nat) (z : Nat) (s : State) : (State.lowerZone new z s).Lowers s := .setZoneCeil (CeilRt.lower_atMost _ _)

theorem State.Lowers.holdGroup (on : List Nat) {g : Nat} (hg : g < 63) (s : State) : (State.holdGroup on g s).Lowers s :=
  (State.Lowers.showGroup hg _).trans (.setGroupCeil (CeilRt.hold_atMost _ _))

theorem State.Lowers.holdZone (on : List Nat) (z : Nat) (s : State) : (State.holdZone on z s).Lowers s := .setZoneCeil (CeilRt.hold_atMost _ _)

/-- Ceilings that are held at the level of the conditions in force do not rise (R185). -/
theorem State.holdCeilings_lowers (s : State) : s.holdCeilings.Lowers s :=
  (State.Lowers.each fun z _ => .holdZone _ z).trans (.each fun _ hg => .holdGroup _ hg)

end

/-! ## What a condition names -/

/-- The registers that the droop response changes. -/
def droopRegs : List Nat := thrRegs ++ sentRegs

section
variable {s t : State}

theorem not_mem_droopRegs {a : Nat} (h : a < 0x40060500 ∨ 0x40060600 ≤ a ∧ a < 0x40060700) : a ∉ droopRegs := fun m => by
  rcases List.mem_append.1 m with thr | sent
  · obtain ⟨z, -, rfl⟩ := List.mem_map.1 thr
    unfold Reg.WGL_THR at h
    omega
  · exact not_mem_sentRegs (h.imp_right And.left) sent

theorem State.regsOff.droopLevel (h : t.regsOff (· ∈ droopRegs) s) (i : Nat) : t.droopLevel i = s.droopLevel i := by
  have level : t.get Fd.WGL_CEIL_CTRL_droop_ceil = s.get Fd.WGL_CEIL_CTRL_droop_ceil :=
    h.get (f := Fd.WGL_CEIL_CTRL_droop_ceil) (not_mem_droopRegs (by decide))
  unfold State.droopLevel
  rw [level]

theorem State.regsOff.zfbLane (h : t.regsOff (· ∈ droopRegs) s) {i : Nat} (hi : i < 16) : t.rd (Reg.ZFB_LANE i) = s.rd (Reg.ZFB_LANE i) :=
  h _ (not_mem_droopRegs (.inl (by unfold Reg.ZFB_LANE; omega)))

theorem State.regsOff.groupLanes (h : t.regsOff (· ∈ droopRegs) s) (g : Nat) : t.groupLanes g = s.groupLanes g :=
  List.filter_congr fun i hi => by
    have lane := h.zfbLane (List.mem_range.1 hi)
    rw [State.laneDecl_congr lane, State.laneGroup_congr lane]

theorem State.groupLanes_lt {g i : Nat} (h : i ∈ s.groupLanes g) : i < 16 := List.mem_range.1 (List.mem_filter.1 h).1

theorem State.regsOff.groupZones (h : t.regsOff (· ∈ droopRegs) s) (g : Nat) : t.groupZones g = s.groupZones g :=
  List.filter_congr fun z _ => by
    rw [h.groupLanes g, Bool.eq_iff_iff, List.any_eq_true, List.any_eq_true]
    exact exists_congr fun i => and_congr_right fun hi => by rw [State.laneZone_congr (h.zfbLane (State.groupLanes_lt hi))]

theorem State.regsOff.namesGroup (h : t.regsOff (· ∈ droopRegs) s) (i g : Nat) : t.namesGroup i g = s.namesGroup i g := by
  unfold State.namesGroup
  rw [h.groupZones g]

theorem State.regsOff.urgentFor (h : t.regsOff (· ∈ droopRegs) s) (new : List Nat) (l : Fin 16) : t.urgentFor new l = s.urgentFor new l := by
  have lane := h.zfbLane l.isLt
  unfold State.urgentFor
  rw [State.laneDecl_congr lane, State.laneGroup_congr lane, State.laneZone_congr lane]
  simp only [h.namesGroup]

theorem State.Lowers.droop (h : t.Lowers s) : t.regsOff (· ∈ droopRegs) s := h.off.mono fun _ => List.mem_append_right _

end

/-! ## New conditions -/

section
variable (s : State) (new : List Nat)

/-- The groups' ceilings after new conditions, and then the zones'. -/
def State.groupsLowered : State := State.each 63 (State.lowerGroup new) s

def State.ceilingsLowered : State := State.each 4 (State.lowerZone new) (s.groupsLowered new)

theorem State.groupsLowered_lowers : (s.groupsLowered new).Lowers s := .each fun g _ => .lowerGroup new g

theorem State.zonesLowered_lowers : (s.ceilingsLowered new).Lowers (s.groupsLowered new) := .each fun z _ => .lowerZone new z

theorem State.ceilingsLowered_lowers : (s.ceilingsLowered new).Lowers s := (s.zonesLowered_lowers new).trans (s.groupsLowered_lowers new)

variable {new} {i : Nat}

/-- The groups that a new condition names are lowered to its level (R185). -/
theorem State.groupsLowered_under (hi : i ∈ new) {g : Nat} (hg : g < 63) (named : s.namesGroup i g = true) :
    ((s.groupsLowered new).groupCeil g).Under (s.droopLevel i) := by
  refine State.foldl_reaches (K := fun u => u.regsOff (· ∈ droopRegs) s)
    (R := fun u j => j < 63 → s.namesGroup i j = true → (u.groupCeil j).Under (s.droopLevel i)) (fun u j hu => ?_) (fun u j hu hj name => ?_)
    (fun u j k hk lt name => ?_) (List.mem_range.2 hg) (.rfl' s) hg named
  · exact (State.Lowers.lowerGroup new j u).droop.trans hu
  · have level : u.levelOf new (fun k => u.namesGroup k j) ≤ u.droopLevel i := u.levelOf_le hi ((hu.namesGroup i j).trans name)
    rw [State.lowerGroup, State.groupCeil_setGroupCeil_same _ _ _ hj]
    exact CeilRt.lower_under _ (level.trans_eq (hu.droopLevel i))
  · exact ((State.Lowers.lowerGroup new j u).groups k).under (hk lt name)

/-- The zones that a new condition names are lowered to its level (R185). -/
theorem State.ceilingsLowered_under (hi : i ∈ new) {z : Nat} (hz : z < 4) (named : namesZone i z = true) :
    ((s.ceilingsLowered new).zoneCeil z).Under (s.droopLevel i) := by
  refine State.foldl_reaches (K := fun u => u.regsOff (· ∈ droopRegs) s)
    (R := fun u j => j < 4 → namesZone i j = true → (u.zoneCeil j).Under (s.droopLevel i)) (fun u j hu => ?_) (fun u j hu hj name => ?_)
    (fun u j k hk lt name => ?_) (List.mem_range.2 hz) (s.groupsLowered_lowers new).droop hz named
  · exact (State.Lowers.lowerZone new j u).droop.trans hu
  · have level : u.levelOf new (fun k => namesZone k j) ≤ u.droopLevel i := u.levelOf_le hi name
    rw [State.lowerZone, State.zoneCeil_setZoneCeil_same _ _ _ hj]
    exact CeilRt.lower_under _ (level.trans_eq (hu.droopLevel i))
  · exact ((State.Lowers.lowerZone new j u).zones k).under (hk lt name)

end

/-! ## The response in whole -/

section
variable {s t : State} {z : Fin 4}

theorem State.LineShown.lowers (h : s.LineShown z) (l : t.Lowers s) : t.LineShown z := by
  have hz := z.isLt
  have thr : Reg.WGL_THR z ∉ sentRegs := not_mem_sentRegs (.inr (by unfold Reg.WGL_THR; omega))
  have kpr : Reg.KPR_CMP_ZONE z ∉ sentRegs := not_mem_sentRegs (.inr (by unfold Reg.KPR_CMP_ZONE; omega))
  have pins : t.pins = s.pins := l.parts .pins (by decide)
  obtain ⟨exhaust, ext, force⟩ := l.sources
  exact h.of_sources ⟨l.parts .flt (by decide), congrArg PinRt.testMode pins, exhaust, ext, force,
    l.off.flag (f := Fd.KPR_CMP_ZONE_uv_trip z) kpr, l.off.flag (f := Fd.WGL_THR_ext_en z) thr⟩
    (congrArg (vget ·.throttleLow z) pins) (l.off _ thr)

/-- An update of Waggle's part that leaves the sources of the lines. -/
theorem State.LineShown.setWgl {w : WglRt} (h : s.LineShown z) (exhaust : w.exhaustRaw = s.wgl.exhaustRaw) (ext : w.extActive = s.wgl.extActive)
    (force : w.forceOn = s.wgl.forceOn) : ({ s with wgl := w } : State).LineShown z :=
  h.of_sources ⟨rfl, rfl, exhaust, ext, force, s.flag_mk _, s.flag_mk _⟩ rfl rfl

theorem State.LineShown.keepConds (h : s.LineShown z) : s.keepConds.LineShown z := by
  unfold State.keepConds
  exact h.setWgl rfl rfl rfl

theorem State.LineShown.callUrgent (h : s.LineShown z) (new : List Nat) : (s.callUrgent new).LineShown z := by
  unfold State.callUrgent
  exact h.setWgl rfl rfl rfl

variable (s) (new : List Nat)

theorem State.keepConds_regs : s.keepConds.regs = s.regs := rfl

theorem State.keepConds_wgl : s.keepConds.wgl = { s.wgl with condPrev := Vector.ofFn fun i => s.droopCond i } := rfl

theorem State.callUrgent_regs : (s.callUrgent new).regs = s.regs := rfl

theorem State.callUrgent_wgl :
    (s.callUrgent new).wgl = { s.wgl with urgentDue := Vector.ofFn fun l => vget s.wgl.urgentDue l || s.urgentFor new l } := rfl

theorem State.groupCeil_keepConds (g : Nat) : s.keepConds.groupCeil g = s.groupCeil g := by
  unfold State.groupCeil
  rw [s.keepConds_wgl]

theorem State.groupCeil_callUrgent (g : Nat) : (s.callUrgent new).groupCeil g = s.groupCeil g := by
  unfold State.groupCeil
  rw [State.callUrgent_wgl]

theorem State.zoneCeil_callUrgent (y : Nat) : (s.callUrgent new).zoneCeil y = s.zoneCeil y := by
  unfold State.zoneCeil
  rw [State.callUrgent_wgl]

/-- The ceilings after the new conditions, before the lanes are called and every ceiling is held. -/
def State.newLowered : State := s.keepConds.ceilingsLowered new

theorem State.droopLower_lowers : (s.droopLower new).Lowers ((s.newLowered new).callUrgent new) := State.holdCeilings_lowers _

theorem State.newLowered_lowers : (s.newLowered new).Lowers s.keepConds := s.keepConds.ceilingsLowered_lowers new

theorem State.keepConds_regsOff {P : Nat → Prop} : s.keepConds.regsOff P s := (State.regsOff.rfl' s).of_regs s.keepConds_regs

theorem State.LineShown.droopLower {s : State} (h : s.LineShown z) (new : List Nat) : (s.droopLower new).LineShown z :=
  (((h.keepConds.lowers (s.newLowered_lowers new)).callUrgent new).lowers (s.droopLower_lowers new))

theorem State.droopLower_regsOff : (s.droopLower new).regsOff (· ∈ sentRegs) s := by
  have lowered : (s.newLowered new).regsOff (· ∈ sentRegs) s := (s.newLowered_lowers new).off.trans s.keepConds_regsOff
  exact (s.droopLower_lowers new).off.trans (lowered.of_regs (State.callUrgent_regs _ new))

theorem State.droopLower_groups (g : Nat) : ((s.droopLower new).groupCeil g).AtMost ((s.newLowered new).groupCeil g) := by
  rw [← (s.newLowered new).groupCeil_callUrgent new g]
  exact (s.droopLower_lowers new).groups g

theorem State.droopLower_zones (y : Nat) : ((s.droopLower new).zoneCeil y).AtMost ((s.newLowered new).zoneCeil y) := by
  rw [← (s.newLowered new).zoneCeil_callUrgent new y]
  exact (s.droopLower_lowers new).zones y

/-- No ceiling rises. -/
theorem State.droopLower_atMost (g : Nat) : ((s.droopLower new).groupCeil g).AtMost (s.groupCeil g) := by
  rw [← s.groupCeil_keepConds g]
  exact (s.droopLower_groups new g).trans ((s.newLowered_lowers new).groups g)

variable {new}

theorem State.droopLower_groups_under {i : Nat} (hi : i ∈ new) {g : Nat} (hg : g < 63) (named : s.namesGroup i g = true) :
    ((s.droopLower new).groupCeil g).Under (s.droopLevel i) := by
  have kept : s.keepConds.regsOff (· ∈ droopRegs) s := s.keepConds_regsOff
  rw [← kept.droopLevel]
  exact ((s.droopLower_groups new g).trans ((s.keepConds.zonesLowered_lowers new).groups g)).under
    (s.keepConds.groupsLowered_under hi hg ((kept.namesGroup i g).trans named))

theorem State.droopLower_zones_under {i : Nat} (hi : i ∈ new) {y : Nat} (hy : y < 4) (named : namesZone i y = true) :
    ((s.droopLower new).zoneCeil y).Under (s.droopLevel i) := by
  have kept : s.keepConds.regsOff (· ∈ droopRegs) s := s.keepConds_regsOff
  rw [← kept.droopLevel]
  exact (s.droopLower_zones new y).under (s.keepConds.ceilingsLowered_under hi hy named)

variable (new)

theorem State.droopLower_condPrev (i : Fin 14) : vget (s.droopLower new).wgl.condPrev i = s.droopCond i := by
  rw [(s.droopLower_lowers new).condPrev, State.callUrgent_wgl]
  dsimp only
  rw [(s.newLowered_lowers new).condPrev, s.keepConds_wgl]
  dsimp only
  exact vget_ofFn _ i

/-- The lanes that the conditions name are due an urgent frame (R187). -/
theorem State.droopLower_urgentDue (l : Fin 16) :
    vget (s.droopLower new).wgl.urgentDue l = (vget s.wgl.urgentDue l || s.urgentFor new l) := by
  have same : (s.newLowered new).regsOff (· ∈ droopRegs) s := (s.newLowered_lowers new).droop.trans s.keepConds_regsOff
  rw [(s.droopLower_lowers new).urgentDue, State.callUrgent_wgl]
  dsimp only
  rw [vget_ofFn, (s.newLowered_lowers new).urgentDue, s.keepConds_wgl, same.urgentFor]

/-! ### The sources are evaluated first (R186) -/

theorem State.throttleStart_regsOff : s.throttleStart.regsOff (· ∈ thrRegs) s := s.startSources.driveThrottle_regsOff

theorem State.throttleStart_droop : s.throttleStart.regsOff (· ∈ droopRegs) s := s.throttleStart_regsOff.mono fun _ => List.mem_append_left _

theorem State.throttleStart_wgl : s.throttleStart.wgl = s.startSources.wgl := s.startSources.driveThrottle_wgl

theorem State.startSources_ceilings : s.startSources.wgl.groups = s.wgl.groups ∧ s.startSources.wgl.urgentDue = s.wgl.urgentDue := ⟨rfl, rfl⟩

theorem State.throttleStart_groupCeil (g : Nat) : s.throttleStart.groupCeil g = s.groupCeil g := by
  unfold State.groupCeil
  rw [s.throttleStart_wgl, s.startSources_ceilings.1]

theorem State.throttleStart_urgentDue : s.throttleStart.wgl.urgentDue = s.wgl.urgentDue := by
  rw [s.throttleStart_wgl, s.startSources_ceilings.2]

theorem execDroopResponse_responds : ∃ t, execDroopResponse s = .next t ∧ t.linesShown ∧ t.within s [.regs, .prf, .wgl, .pins] ∧
    (∀ i : Fin 14, vget t.wgl.condPrev i = s.throttleStart.droopCond i) ∧
    (∀ i ∈ s.throttleStart.newConds, ∀ g, g < 63 → s.namesGroup i g = true → (t.groupCeil g).Under (s.droopLevel i)) ∧
    (∀ i ∈ s.throttleStart.newConds, ∀ y, y < 4 → namesZone i y = true → (t.zoneCeil y).Under (s.droopLevel i)) ∧
    (∀ g, g < 63 → (t.groupCeil g).AtMost (s.groupCeil g)) ∧
    (∀ l : Fin 16, vget t.wgl.urgentDue l = (vget s.wgl.urgentDue l || s.urgentFor s.throttleStart.newConds l)) ∧
    t.withinRegs s (thrRegs ++ sentRegs) := by
  have started := s.throttleStart_droop
  have shown := fun y => State.linesShown_iff.1 s.startSources.driveThrottle_linesShown y
  refine ⟨_, rfl, State.linesShown_iff.2 fun y => (shown y).droopLower _, ((Thr.rfl' s).throttleStart.droopLower _).within, fun i => ?_,
    fun i hi g hg named => ?_, fun i hi y hy named => ?_, fun g _ => ?_, fun l => ?_, ?_⟩
  · exact State.droopLower_condPrev _ _ i
  · rw [← started.droopLevel]
    exact State.droopLower_groups_under _ hi hg ((started.namesGroup i g).trans named)
  · rw [← started.droopLevel]
    exact State.droopLower_zones_under _ hi hy named
  · rw [← s.throttleStart_groupCeil]
    exact State.droopLower_atMost _ _ g
  · rw [State.droopLower_urgentDue, s.throttleStart_urgentDue, started.urgentFor]
  · exact ((State.droopLower_regsOff _ _).mono fun _ => List.mem_append_right _).trans started

end

/-- Settles O23: the sources are evaluated, the conditions then lower ceilings alone, and every command ends with the lines driven. -/
theorem droopLowersAndThrottleDrivesLines : Obligations.DroopLowersAndThrottleDrivesLines := by
  refine ⟨fun s => ?_, fun s => ⟨fun off low => ?_, fun on high past => ?_, execThrottleRelease_releases s⟩⟩
  · obtain ⟨t, ran, shown, parts, conds, groups, zones, lower, urgent, regs⟩ := execDroopResponse_responds s
    refine ⟨t, ran, shown, parts, conds, groups, fun i hi z hz named => ?_, lower, urgent, regs⟩
    obtain ⟨c, sent, -⟩ := zones i hi z hz named
    exact ⟨c, sent⟩
  · exact ⟨_, execExtAlert_begins off low, State.driveThrottle_wgl _, State.driveThrottle_drives (s.setExt_within true)⟩
  · exact ⟨_, execExtAlert_ends on high past, State.driveThrottle_wgl _, State.driveThrottle_drives (s.setExt_within false)⟩

end Sys2Proof.Machine
end

section
/-! SUPPORT for chapters 07 and 16: fields beside those that are written, and the registers that the record of a fault leaves, whatever it brings. -/

namespace Sys2Proof.Machine

/-! ## Fields beside those that are written -/

/-- Two fields within their words share no bit: a check that evaluates. -/
def Fld.clear (f g : Fld) : Bool := decide (f.lo + f.len ≤ 32 ∧ (g.addr ≠ f.addr ∨ g.lo + g.len ≤ f.lo ∨ f.lo + f.len ≤ g.lo))

/-- Each field listed has in `t` the value it has in `s`. -/
def State.keeps (t s : State) (l : List Fld) : Prop := ∀ g ∈ l, t.get g = s.get g

/-- A field shares no bit with any field of a list. -/
def Fld.clearOf (f : Fld) (l : List Fld) : Bool := l.all f.clear

section
variable {r s t : State} {l : List Fld} {f g : Fld}

theorem State.get_put_clear (s : State) (v : Nat) (h : f.clear g = true) : (s.put f v).get g = s.get g := by
  obtain ⟨fits, apart⟩ := of_decide_eq_true h
  exact s.get_put_apart f g v fits apart

theorem State.get_setFlag_clear (s : State) (b : Bool) (h : f.clear g = true) : (s.setFlag f b).get g = s.get g := s.get_put_clear _ h

theorem State.get_bump_clear (s : State) (h : f.clear g = true) : (s.bump f).get g = s.get g := s.get_put_clear _ h

theorem State.get_bumpSat_clear (s : State) (h : f.clear g = true) : (s.bumpSat f).get g = s.get g := s.get_put_clear _ h

theorem State.keeps.rfl' (s : State) : s.keeps s l := fun _ _ => rfl

theorem State.keeps.trans (h : t.keeps s l) (h' : s.keeps r l) : t.keeps r l := fun g hg => (h g hg).trans (h' g hg)

theorem State.keeps.flag (h : t.keeps s l) (hg : g ∈ l) : t.flag g = s.flag g := congrArg (· == 1) (h g hg)

theorem State.keeps.put (h : t.keeps s l) (hf : f.clearOf l = true) (v : Nat) : (t.put f v).keeps s l := fun g hg =>
  (t.get_put_clear v (List.all_eq_true.1 hf g hg)).trans (h g hg)

theorem State.keeps.setFlag (h : t.keeps s l) (hf : f.clearOf l = true) (b : Bool) : (t.setFlag f b).keeps s l := h.put hf _

theorem State.keeps.of_regs (h : t.keeps s l) (e : r.regs = t.regs) : r.keeps s l := fun g hg => (State.get_congr e g).trans (h g hg)

theorem State.keeps.mono {l' : List Fld} (h : t.keeps s l) (hl : l' ⊆ l) : t.keeps s l' := fun g hg => h g (hl hg)

theorem State.keeps.ite {c : Prop} {_ : Decidable c} (ht : c → t.keeps s l) (hr : ¬c → r.keeps s l) : (if c then t else r).keeps s l := by
  split
  · exact ht ‹_›
  · exact hr ‹_›

/-- An operation that changes no register of the fields. -/
theorem State.regsOff.keeps {P : Nat → Prop} (h : t.regsOff P s) (hl : ∀ g ∈ l, ¬P g.addr) : t.keeps s l := fun g hg => h.get (hl g hg)

end

theorem State.within_arr (s : State) (x : ArrRt) : ({ s with arr := x } : State).within s [.arr] := by
  intro p hp
  cases p
  case arr => exact (hp (by decide)).elim
  all_goals rfl

/-! ## The registers of a record -/

/-- An address that the record of a fault in block `b` may change: the block's window, and what a Halt shows (R441, R448, R461). -/
def inFault (b a : Nat) : Prop := inWindow b a ∨ inSafe a

/-- What the record of a fault in block `b` leaves of the registers, and its count. -/
structure State.Recorded (t s : State) (b : Nat) : Prop where
  regs : t.regsOff (inFault b) s
  counted : t.faultCounted s b

section
variable {s : State} {b : Fin 18} {code cls unit : Nat}

theorem State.countFault_recorded (s : State) (b : Fin 18) (info : Word) (cls addr master : Nat) :
    (s.countFault b info cls addr master).Recorded s b :=
  ⟨(s.countFault_regsOff b info cls addr master).mono fun _ => Or.inl, s.get_countFault_count b info cls addr master⟩

theorem State.Recorded.setPending {t : State} (h : t.Recorded s b) (own : Bool) (cls unit : Nat) : (t.setPending b own cls unit).Recorded s b where
  regs := ((t.setPending_regsOff b own cls unit).mono fun _ ha => .inl (List.mem_singleton.1 ha ▸ inWindow_fltStat b)).trans h.regs
  counted := (t.get_setPending_count b own cls unit).trans h.counted

/-- The Halt sequence leaves the window of its block but for the halt bit. -/
theorem State.halt_regsOff (s : State) (b : Fin 18) : (s.halt b).regsOff inSafe (s.setFlag (Fd.FLT_STAT_halt b) true) := by
  unfold State.halt
  extract_lets u v old
  have safe : v.regsOff inSafe u := u.enterSafe_regsOff
  clear_value v
  exact .ite (fun _ => (State.startDump_regsOff _ 0 .halt).trans (safe.upd rfl)) fun _ => safe

theorem State.Recorded.halt {t : State} (h : t.Recorded s b) : (t.halt b).Recorded s b where
  regs := ((t.halt_regsOff b).mono fun _ => Or.inr).trans (h.regs.setFlag (f := Fd.FLT_STAT_halt b) (.inl (inWindow_fltStat b)) true)
  counted := ((t.halt_regsOff b).get (f := Fd.FLT_STAT_count b) (not_inSafe_fltStat b)).trans
    ((t.get_setFlag_apart (Fd.FLT_STAT_halt b) (Fd.FLT_STAT_count b) true (by decide : 12 + 1 ≤ 32) (.inr (.inr (by decide : 12 + 1 ≤ 16)))).trans
      h.counted)

/-- The record of a fault, of any class and with any escalation, where the Fence of a Derate has nothing to take out of service (R445). -/
theorem State.record_recorded (s : State) (b : Fin 18) (code : Nat) (bare : cls = 1 → ∀ t : State, t.fenceUnit unit = t) :
    (s.record b code cls unit).Recorded s b := by
  unfold State.record State.recordAt
  extract_lets own cls' esc t pended
  have counted : t.Recorded s b := s.countFault_recorded b _ cls' 0 0
  have rise : cls' = cls ∨ cls' = cls + 1 := escalate_cases _ _ _ _ _ _
  have pending : pended.Recorded s b := by
    unfold pended
    split
    · exact counted
    · exact counted.setPending own cls' unit
  clear_value t pended cls'
  split
  · exact counted.halt
  · split
    next fence =>
      have two : cls' ≠ cls ∧ cls' = 2 := by simpa [esc] using fence
      rw [bare (by omega)]
      exact pending
    next => exact pending

end

end Sys2Proof.Machine
end

section
/-! Chapter 07: the block formats of the array (R198). -/

namespace Sys2Proof.Machine

/-! ## Rounding half to even -/

section
variable {n d m : Nat}

/-- A quotient rounds to a number or less up to half a step above it; the tie goes to an even number alone. -/
theorem divHalfEven_le_iff (hd : 0 < d) : divHalfEven n d ≤ m ↔ 2 * n + m % 2 ≤ (2 * m + 1) * d := by
  have split := Nat.div_add_mod n d
  have rest := Nat.mod_lt n hd
  unfold divHalfEven
  generalize n / d = q at *
  generalize n % d = r at *
  rcases Nat.lt_trichotomy q m with h | rfl | h
  · have step : d * (q + 1) ≤ d * m := Nat.mul_le_mul_left d h
    have bound : (2 * m + 1) * d = 2 * (d * m) + d := by ring
    have next : d * (q + 1) = d * q + d := by ring
    exact iff_of_true (by split_ifs <;> omega) (by omega)
  · have bound : (2 * q + 1) * d = 2 * (d * q) + d := by ring
    split_ifs <;> omega
  · have step : d * (m + 1) ≤ d * q := Nat.mul_le_mul_left d h
    have bound : (2 * m + 1) * d = 2 * (d * m) + d := by ring
    have next : d * (m + 1) = d * m + d := by ring
    exact iff_of_false (by split_ifs <;> omega) (by omega)

end

/-! ## Magnitudes -/

/-- The magnitude of a fraction. -/
def Frac.mag (a : Frac) : ℚ := a.num.natAbs / a.den

section
variable {a : Frac}

theorem Frac.scale_den_pos (h : 0 < a.den) (k : Int) : 0 < (a.scale k).den := by
  unfold Frac.scale
  split
  · exact h
  · exact Nat.mul_pos h (Nat.two_pow_pos _)

theorem Frac.scale_num_neg (a : Frac) (k : Int) : (a.scale k).num < 0 ↔ a.num < 0 := by
  unfold Frac.scale
  split
  · have : (0 : Int) < (2 ^ k.toNat : Nat) := by exact_mod_cast Nat.two_pow_pos _
    exact ⟨fun h => by_contra fun n => absurd h (not_lt.2 (mul_nonneg (not_lt.1 n) this.le)), fun h => mul_neg_of_neg_of_pos h this⟩
  · rfl

theorem Frac.mag_scale (a : Frac) (k : Int) : (a.scale k).mag = a.mag * 2 ^ k := by
  unfold Frac.scale Frac.mag
  split
  next h =>
    obtain ⟨n, rfl⟩ := Int.eq_ofNat_of_zero_le h
    simp [Int.natAbs_mul]
    ring
  next h =>
    obtain ⟨n, hn⟩ := Int.eq_ofNat_of_zero_le (by omega : 0 ≤ -k)
    obtain rfl : k = -n := by omega
    simp [zpow_neg]
    field_simp

/-- Scaling commutes with taking the magnitude. -/
theorem Frac.abs_scale (a : Frac) (k : Int) : a.abs.scale k = (a.scale k).abs := by
  unfold Frac.scale Frac.abs
  split <;> simp [Int.natAbs_mul]

/-- The rounded magnitude of a fraction. -/
def Frac.roundMag (a : Frac) : Nat := divHalfEven a.num.natAbs a.den

theorem Frac.round_eq (a : Frac) : a.round = if a.num < 0 then -(a.roundMag : Int) else a.roundMag := by
  unfold Frac.round Frac.roundMag
  by_cases h : a.num < 0
  · rw [if_neg (not_le.2 h), if_pos h]
  · rw [if_pos (not_lt.1 h), if_neg h, show a.num.toNat = a.num.natAbs by omega]

theorem Frac.roundMag_le_even (h : 0 < a.den) {m : Nat} (even : m % 2 = 0) : a.roundMag ≤ m ↔ 2 * a.mag ≤ 2 * m + 1 := by
  have den : (0 : ℚ) < a.den := by exact_mod_cast h
  unfold Frac.roundMag Frac.mag
  rw [divHalfEven_le_iff h, even, add_zero, ← mul_div_assoc, div_le_iff₀ den]
  exact_mod_cast Iff.rfl

theorem Frac.roundMag_le_odd (h : 0 < a.den) {m : Nat} (odd : m % 2 = 1) : a.roundMag ≤ m ↔ 2 * a.mag < 2 * m + 1 := by
  have den : (0 : ℚ) < a.den := by exact_mod_cast h
  unfold Frac.roundMag Frac.mag
  rw [divHalfEven_le_iff h, odd, Nat.succ_le_iff, ← mul_div_assoc, div_lt_iff₀ den]
  exact_mod_cast Iff.rfl

end

/-! ## The exponent of a float (R67) -/

/-- The exponent of the leading bits, before one rounds. -/
def Frac.topExp (q : Frac) : Int := (Nat.log2 q.num.natAbs : Int) - Nat.log2 q.den

/-- The power of two of the leading bits. -/
def Frac.topPower (q : Frac) : Frac := (Frac.ofInt 1).scale q.topExp

/-- The exponent that puts a magnitude below its power of two; a negative one may reach it. -/
def Frac.fltExp (q : Frac) : Int :=
  if (if q.num < 0 then q.topPower.lt q.abs else q.topPower.le q.abs) then q.topExp + 1 else q.topExp

section
variable {q : Frac}

theorem Frac.topPower_mag (q : Frac) : q.topPower.mag = 2 ^ q.topExp := by
  unfold Frac.topPower
  rw [Frac.mag_scale]
  simp [Frac.ofInt, Frac.mag]

theorem natCast_log2_bounds {n : Nat} (h : n ≠ 0) : (2 : ℚ) ^ (Nat.log2 n : Int) ≤ n ∧ (n : ℚ) < 2 ^ ((Nat.log2 n : Int) + 1) := by
  have low := Nat.log2_self_le h
  have high := Nat.lt_log2_self (n := n)
  exact ⟨by exact_mod_cast low, by exact_mod_cast high⟩

/-- A magnitude lies within a factor of two of its leading power. -/
theorem Frac.mag_bounds (hd : 0 < q.den) (hn : q.num ≠ 0) : (2 : ℚ) ^ (q.topExp - 1) < q.mag ∧ q.mag < 2 ^ (q.topExp + 1) := by
  obtain ⟨numLow, numHigh⟩ := natCast_log2_bounds (Int.natAbs_ne_zero.2 hn)
  obtain ⟨denLow, denHigh⟩ := natCast_log2_bounds hd.ne'
  have den : (0 : ℚ) < q.den := by exact_mod_cast hd
  unfold Frac.mag Frac.topExp
  generalize (Nat.log2 q.num.natAbs : Int) = la at *
  generalize (Nat.log2 q.den : Int) = ld at *
  constructor
  · rw [lt_div_iff₀ den]
    calc (2 : ℚ) ^ (la - ld - 1) * q.den < 2 ^ (la - ld - 1) * 2 ^ (ld + 1) := by gcongr
      _ = 2 ^ la := by rw [← zpow_add₀ two_ne_zero]; congr 1; ring
      _ ≤ _ := numLow
  · rw [div_lt_iff₀ den]
    calc (q.num.natAbs : ℚ) < 2 ^ (la + 1) := numHigh
      _ = 2 ^ (la - ld + 1) * 2 ^ ld := by rw [← zpow_add₀ two_ne_zero]; congr 1; ring
      _ ≤ _ := by gcongr

theorem Frac.le_iff_mag {a b : Frac} (ha : 0 < a.den) (hb : 0 < b.den) (na : 0 ≤ a.num) (nb : 0 ≤ b.num) : a.le b = true ↔ a.mag ≤ b.mag := by
  have da : (0 : ℚ) < a.den := by exact_mod_cast ha
  have db : (0 : ℚ) < b.den := by exact_mod_cast hb
  unfold Frac.le Frac.mag
  rw [div_le_div_iff₀ da db, decide_eq_true_iff, ← Int.natAbs_of_nonneg na, ← Int.natAbs_of_nonneg nb]
  exact_mod_cast Iff.rfl

theorem Frac.topPower_nonneg (q : Frac) : 0 ≤ q.topPower.num := not_lt.1 fun h => absurd ((Frac.scale_num_neg _ _).1 h) (by decide)

theorem Frac.topPower_den_pos (q : Frac) : 0 < q.topPower.den := Frac.scale_den_pos (by decide) _

theorem Frac.abs_num_nonneg (q : Frac) : 0 ≤ q.abs.num := Int.natCast_nonneg _

@[simp] theorem Frac.mag_abs (q : Frac) : q.abs.mag = q.mag := by simp [Frac.abs, Frac.mag]

theorem Frac.topPower_le_abs (hd : 0 < q.den) : q.topPower.le q.abs = true ↔ (2 : ℚ) ^ q.topExp ≤ q.mag := by
  rw [Frac.le_iff_mag q.topPower_den_pos (show 0 < q.abs.den from hd) q.topPower_nonneg q.abs_num_nonneg, Frac.topPower_mag, Frac.mag_abs]

theorem Frac.topPower_lt_abs (hd : 0 < q.den) : q.topPower.lt q.abs = true ↔ (2 : ℚ) ^ q.topExp < q.mag := by
  rw [Frac.lt_eq_not_le, Bool.not_eq_true', ← Bool.not_eq_true,
    Frac.le_iff_mag (show 0 < q.abs.den from hd) q.topPower_den_pos q.abs_num_nonneg q.topPower_nonneg, Frac.topPower_mag, Frac.mag_abs, not_le]

/-- A magnitude lies between the half of its power of two and that power. -/
theorem Frac.fltExp_bounds (hd : 0 < q.den) (hn : q.num ≠ 0) : (2 : ℚ) ^ (q.fltExp - 1) ≤ q.mag ∧ q.mag ≤ 2 ^ q.fltExp := by
  obtain ⟨low, high⟩ := q.mag_bounds hd hn
  have below (h : q.mag ≤ 2 ^ q.topExp) : (2 : ℚ) ^ (q.topExp - 1) ≤ q.mag ∧ q.mag ≤ 2 ^ q.topExp := ⟨low.le, h⟩
  have above (h : 2 ^ q.topExp ≤ q.mag) : (2 : ℚ) ^ (q.topExp + 1 - 1) ≤ q.mag ∧ q.mag ≤ 2 ^ (q.topExp + 1) :=
    ⟨by rwa [add_sub_cancel_right], high.le⟩
  unfold Frac.fltExp
  by_cases neg : q.num < 0
  · simp only [if_pos neg, Frac.topPower_lt_abs hd]
    split
    next h => exact above h.le
    next h => exact below (not_lt.1 h)
  · simp only [if_neg neg, Frac.topPower_le_abs hd]
    split
    next h => exact above h
    next h => exact below (not_le.1 h).le

end

/-! ## What a float rounds to (R67) -/

section
variable (w : Nat) (emin emax : Int) (q : Frac)

/-- The exponent before a carry. -/
def Frac.heldExp (q : Frac) (emin : Int) : Int := Max.max q.fltExp emin

/-- The rounded mantissa's magnitude before a carry. -/
def Frac.heldMag (q : Frac) (w : Nat) (emin : Int) : Nat :=
  divHalfEven (q.abs.scale ((w : Int) - 1 - q.heldExp emin)).num.toNat (q.abs.scale ((w : Int) - 1 - q.heldExp emin)).den

/-- The mantissa's magnitude and the exponent, a carry or a borrow of the rounding taken. -/
def Frac.carried (q : Frac) (w : Nat) (emin : Int) : Nat × Int :=
  if q.num < 0 then
    if q.heldMag w emin = 2 ^ (w - 2) ∧ emin < q.heldExp emin then (2 ^ (w - 1), q.heldExp emin - 1) else (q.heldMag w emin, q.heldExp emin)
  else if q.heldMag w emin = 2 ^ (w - 1) then (2 ^ (w - 2), q.heldExp emin + 1) else (q.heldMag w emin, q.heldExp emin)

theorem Frac.heldMag_eq : q.heldMag w emin = (q.scale ((w : Int) - 1 - q.heldExp emin)).roundMag := by
  unfold Frac.heldMag
  rw [Frac.abs_scale]
  rfl

theorem roundFlt_not_zero (hn : q.num ≠ 0) : roundFlt w emin emax q =
    if emax < (q.carried w emin).2 then (⟨if q.num < 0 then -((2 ^ (w - 1) : Nat) : Int) else ((2 ^ (w - 1) : Nat) : Int) - 1, emax⟩, true)
    else (⟨if q.num < 0 then -((q.carried w emin).1 : Int) else (q.carried w emin).1, (q.carried w emin).2⟩, false) :=
  (if_neg hn).trans (by rfl)

/-- A float that does not saturate has the exponent of its rounding. -/
theorem roundFlt_exp (hn : q.num ≠ 0) (h : (roundFlt w emin emax q).2 = false) :
    (roundFlt w emin emax q).1.e = (q.carried w emin).2 ∧ (q.carried w emin).2 ≤ emax := by
  rw [roundFlt_not_zero w emin emax q hn] at h ⊢
  split at h
  next past => cases h
  next fits => exact ⟨by rw [if_neg fits], not_lt.1 fits⟩

end

/-! ## What fits a block exponent (R196, R198) -/

/-- Half of the greatest power of two that a format's mantissas reach. -/
def ArrFmt.half (f : ArrFmt) : Nat := 2 ^ (f.width - 2)

theorem ArrFmt.half_even (f : ArrFmt) : f.half % 2 = 0 := by cases f <;> rfl

theorem ArrFmt.half_large (f : ArrFmt) : 4 ≤ f.half := by cases f <;> decide

theorem ArrFmt.two_pow_width (f : ArrFmt) : 2 ^ (f.width - 1) = 2 * f.half := by cases f <;> rfl

theorem ArrFmt.lo_eq (f : ArrFmt) : f.lo = -(2 * f.half : Nat) := by rw [← f.two_pow_width]; rfl

theorem ArrFmt.hi_eq (f : ArrFmt) : f.hi = (2 * f.half : Nat) - 1 := by rw [← f.two_pow_width]; rfl

/-- A value's magnitude in units of the last place of a mantissa under a block exponent. -/
def ArrFmt.scaled (f : ArrFmt) (e : Int) (x : Frac) : ℚ := x.mag * 2 ^ ((f.width : Int) - 1 - e)

section
variable {f : ArrFmt} {e e' : Int} {x : Frac}

theorem ArrFmt.mant_eq (f : ArrFmt) (e : Int) (x : Frac) : f.mant e x =
    if x.num < 0 then -((x.scale ((f.width : Int) - 1 - e)).roundMag : Int) else (x.scale ((f.width : Int) - 1 - e)).roundMag := by
  unfold ArrFmt.mant
  rw [Frac.round_eq]
  simp only [Frac.scale_num_neg]

theorem ArrFmt.roundMag_le_even (hd : 0 < x.den) {m : Nat} (even : m % 2 = 0) :
    (x.scale ((f.width : Int) - 1 - e)).roundMag ≤ m ↔ 2 * f.scaled e x ≤ 2 * m + 1 := by
  rw [Frac.roundMag_le_even (Frac.scale_den_pos hd _) even, Frac.mag_scale, ArrFmt.scaled]

theorem ArrFmt.roundMag_le_odd (hd : 0 < x.den) {m : Nat} (odd : m % 2 = 1) :
    (x.scale ((f.width : Int) - 1 - e)).roundMag ≤ m ↔ 2 * f.scaled e x < 2 * m + 1 := by
  rw [Frac.roundMag_le_odd (Frac.scale_den_pos hd _) odd, Frac.mag_scale, ArrFmt.scaled]

/-- A negative value fits up to half a place beyond the least mantissa, the tie included. -/
theorem ArrFmt.fits_neg (hd : 0 < x.den) (neg : x.num < 0) : f.fits e x = true ↔ 2 * f.scaled e x ≤ 4 * f.half + 1 := by
  have even : 2 * f.half % 2 = 0 := by omega
  have bound : ((2 * f.half : Nat) : ℚ) = 2 * f.half := by push_cast; rfl
  have range := ArrFmt.roundMag_le_even (f := f) (e := e) hd even
  rw [bound, ← mul_assoc, show (2 : ℚ) * 2 = 4 by norm_num] at range
  rw [← range, ArrFmt.fits, decide_eq_true_iff, f.mant_eq, if_pos neg, f.lo_eq, f.hi_eq]
  have := f.half_large
  omega

/-- Another value fits below half a place beyond the greatest mantissa, the tie excluded. -/
theorem ArrFmt.fits_pos (hd : 0 < x.den) (pos : ¬x.num < 0) : f.fits e x = true ↔ 2 * f.scaled e x < 4 * f.half - 1 := by
  have large := f.half_large
  have odd : (2 * f.half - 1) % 2 = 1 := by omega
  have bound : ((2 * f.half - 1 : Nat) : ℚ) = 2 * f.half - 1 := by
    rw [Nat.cast_sub (by omega)]
    push_cast
    rfl
  have range := ArrFmt.roundMag_le_odd (f := f) (e := e) hd odd
  rw [bound, show (2 : ℚ) * (2 * f.half - 1) + 1 = 4 * f.half - 1 by ring] at range
  rw [← range, ArrFmt.fits, decide_eq_true_iff, f.mant_eq, if_neg pos, f.lo_eq, f.hi_eq]
  omega

theorem ArrFmt.scaled_pred (f : ArrFmt) (e : Int) (x : Frac) : f.scaled (e - 1) x = 2 * f.scaled e x := by
  unfold ArrFmt.scaled
  rw [show (f.width : Int) - 1 - (e - 1) = (f.width - 1 - e) + 1 by ring, zpow_add_one₀ two_ne_zero]
  ring

theorem Frac.mag_nonneg (x : Frac) : 0 ≤ x.mag := by unfold Frac.mag; positivity

theorem ArrFmt.scaled_antitone (h : e ≤ e') : f.scaled e' x ≤ f.scaled e x :=
  mul_le_mul_of_nonneg_left (zpow_le_zpow_right₀ one_le_two (by omega)) x.mag_nonneg

/-- What fits an exponent fits a greater one. -/
theorem ArrFmt.fits_mono (hd : 0 < x.den) (h : e ≤ e') (fit : f.fits e x = true) : f.fits e' x = true := by
  have small := ArrFmt.scaled_antitone (f := f) (x := x) h
  by_cases neg : x.num < 0
  · rw [ArrFmt.fits_neg hd neg] at fit ⊢
    linarith
  · rw [ArrFmt.fits_pos hd neg] at fit ⊢
    linarith

theorem ArrFmt.fits_of_scaled_le_half (hd : 0 < x.den) (h : f.scaled e x ≤ f.half) : f.fits e x = true := by
  have large : (4 : ℚ) ≤ f.half := by exact_mod_cast f.half_large
  by_cases neg : x.num < 0
  · exact (ArrFmt.fits_neg hd neg).2 (by linarith)
  · exact (ArrFmt.fits_pos hd neg).2 (by linarith)

theorem ArrFmt.mant_zero (hx : x.num = 0) (f : ArrFmt) (e : Int) : f.mant e x = 0 := by
  have zero : (x.scale ((f.width : Int) - 1 - e)).num = 0 := by
    unfold Frac.scale
    split <;> simp [hx]
  rw [ArrFmt.mant, Frac.round, zero]
  simp [divHalfEven]

theorem ArrFmt.fits_zero (hx : x.num = 0) : f.fits e x = true := by
  rw [ArrFmt.fits, decide_eq_true_iff, ArrFmt.mant_zero hx, f.lo_eq, f.hi_eq]
  have := f.half_large
  omega

/-! ## The least exponent of one value (R198) -/

/-- The power of two of a mantissa's first bit, scaled to an exponent. -/
theorem ArrFmt.two_pow_scaled (f : ArrFmt) (e : Int) : (2 : ℚ) ^ e * 2 ^ ((f.width : Int) - 1 - e) = 2 * f.half := by
  rw [← zpow_add₀ two_ne_zero, show e + ((f.width : Int) - 1 - e) = (f.width - 1 : Nat) by cases f <;> simp [ArrFmt.width], zpow_natCast]
  exact_mod_cast f.two_pow_width

/-- Before a carry a mantissa's magnitude is at most its power of two. -/
theorem ArrFmt.scaled_held_le (f : ArrFmt) (hd : 0 < x.den) (hn : x.num ≠ 0) (emin : Int) : f.scaled (x.heldExp emin) x ≤ 2 * f.half := by
  have high : x.mag ≤ 2 ^ x.heldExp emin := (Frac.fltExp_bounds hd hn).2.trans (zpow_le_zpow_right₀ one_le_two (le_max_left _ _))
  rw [← f.two_pow_scaled (x.heldExp emin)]
  exact mul_le_mul_of_nonneg_right high (by positivity)

/-- Above the least exponent it is at least the half of it. -/
theorem ArrFmt.le_scaled_held (f : ArrFmt) (hd : 0 < x.den) (hn : x.num ≠ 0) {emin : Int} (above : emin < x.heldExp emin) :
    f.half ≤ f.scaled (x.heldExp emin) x := by
  have held : x.heldExp emin = x.fltExp := by unfold Frac.heldExp at above ⊢; omega
  have low := mul_le_mul_of_nonneg_right (Frac.fltExp_bounds hd hn).1 (by positivity : (0 : ℚ) ≤ 2 ^ ((f.width : Int) - 1 - (x.fltExp - 1)))
  rw [f.two_pow_scaled] at low
  have double := f.scaled_pred x.fltExp x
  unfold ArrFmt.scaled at double ⊢
  rw [held]
  linarith

theorem ArrFmt.heldMag_le_even (hd : 0 < x.den) {emin : Int} {m : Nat} (even : m % 2 = 0) :
    x.heldMag f.width emin ≤ m ↔ 2 * f.scaled (x.heldExp emin) x ≤ 2 * m + 1 := by
  rw [Frac.heldMag_eq, ArrFmt.roundMag_le_even hd even]

/-- A negative mantissa that does not borrow exceeds the half of its power by more than half a place. -/
theorem ArrFmt.half_lt_scaled_held (hd : 0 < x.den) (hn : x.num ≠ 0) {emin : Int} (above : emin < x.heldExp emin)
    (other : x.heldMag f.width emin ≠ f.half) : 2 * (f.half : ℚ) + 1 < 2 * f.scaled (x.heldExp emin) x := by
  have odd : (f.half - 1) % 2 = 1 := by have := f.half_even; have := f.half_large; omega
  have low := f.le_scaled_held hd hn above
  have atLeast : ¬x.heldMag f.width emin ≤ f.half - 1 := by
    rw [Frac.heldMag_eq, ArrFmt.roundMag_le_odd hd odd, Nat.cast_sub (by have := f.half_large; omega)]
    push_cast
    linarith
  have more : ¬x.heldMag f.width emin ≤ f.half := by omega
  rwa [ArrFmt.heldMag_le_even hd f.half_even, not_le] at more

/-- The exponent that one rounds to is the least under which the value fits, or one below it (R67, R198). -/
theorem ArrFmt.carried_exp (hd : 0 < x.den) (hn : x.num ≠ 0) (emin : Int) : f.fits ((x.carried f.width emin).2 + 1) x = true ∧
    ((x.carried f.width emin).2 = emin ∨ f.fits ((x.carried f.width emin).2 - 1) x = false) := by
  have le := f.scaled_held_le hd hn emin
  have large : (4 : ℚ) ≤ f.half := by exact_mod_cast f.half_large
  have pred := f.scaled_pred (x.heldExp emin) x
  have succ : 2 * f.scaled (x.heldExp emin + 1) x = f.scaled (x.heldExp emin) x := by
    rw [← f.scaled_pred, add_sub_cancel_right]
  have next : f.fits (x.heldExp emin + 1) x = true := ArrFmt.fits_of_scaled_le_half hd (by linarith)
  have atLeast : x.heldExp emin = emin ∨ emin < x.heldExp emin := (le_max_right x.fltExp emin).eq_or_lt.imp_left Eq.symm
  unfold Frac.carried
  split
  next neg =>
    split
    next borrow =>
      have low := f.le_scaled_held hd hn borrow.2
      have before := f.scaled_pred (x.heldExp emin - 1) x
      rw [sub_add_cancel]
      refine ⟨(ArrFmt.fits_neg hd neg).2 (by linarith), .inr ?_⟩
      rw [← Bool.not_eq_true, ArrFmt.fits_neg hd neg]
      linarith
    next keep =>
      refine ⟨next, atLeast.imp_right fun above => ?_⟩
      have low := ArrFmt.half_lt_scaled_held (f := f) hd hn above fun h => keep ⟨h, above⟩
      rw [← Bool.not_eq_true, ArrFmt.fits_neg hd neg]
      linarith
  next pos =>
    split
    next carry =>
      rw [add_sub_cancel_right]
      refine ⟨ArrFmt.fits_mono hd (by omega) next, .inr ?_⟩
      rw [← Bool.not_eq_true, ArrFmt.fits, decide_eq_true_iff, f.mant_eq, if_neg pos, ← Frac.heldMag_eq, carry, f.two_pow_width, f.hi_eq]
      omega
    next keep =>
      refine ⟨next, atLeast.imp_right fun above => ?_⟩
      have low := f.le_scaled_held hd hn above
      rw [← Bool.not_eq_true, ArrFmt.fits_pos hd pos]
      linarith

/-- The least exponent of a block under which a value fits: it is the least of all, or the value does not fit under the next lower one. -/
def ArrFmt.leastFor (f : ArrFmt) (e : Int) (x : Frac) : Prop := f.fits e x = true ∧ (e = -128 ∨ f.fits (e - 1) x = false)

theorem ArrFmt.needs_le (f : ArrFmt) (hn : x.num ≠ 0) : (f.needs x).1 ≤ 127 := by
  unfold ArrFmt.needs
  dsimp only
  split_ifs with saturated _ below
  · rfl
  · obtain ⟨exp, le⟩ := roundFlt_exp _ _ _ _ hn (Bool.eq_false_iff.2 saturated)
    rw [exp]
    exact le
  · omega
  · rfl

/-- The exponent that a value needs is the least under which it fits, where there is one. -/
theorem ArrFmt.needs_least (hd : 0 < x.den) (hn : x.num ≠ 0) (room : (f.needs x).2 = false) : f.leastFor (f.needs x).1 x := by
  unfold ArrFmt.needs at room ⊢
  dsimp only at room ⊢
  split_ifs at room ⊢ with saturated fit below
  all_goals
    obtain ⟨exp, -⟩ := roundFlt_exp _ _ _ _ hn (Bool.eq_false_iff.2 saturated)
    obtain ⟨next, least⟩ := ArrFmt.carried_exp (f := f) hd hn (-128)
    rw [← exp] at next least
  · exact ⟨fit, least⟩
  · exact ⟨next, .inr (by rw [add_sub_cancel_right, Bool.eq_false_iff]; exact fit)⟩

/-! ## The exponent of a block (R198) -/

/-- The greatest exponent of a list of needs, from a least one on. -/
def maxNeed (l : List (Int × Bool)) (e : Int) : Int := l.foldl (fun a r => max a r.1) e

theorem maxNeed_bounds (l : List (Int × Bool)) (e : Int) : e ≤ maxNeed l e ∧ (∀ r ∈ l, r.1 ≤ maxNeed l e) ∧
    (maxNeed l e = e ∨ ∃ r ∈ l, maxNeed l e = r.1) := by
  induction l generalizing e with
  | nil => exact ⟨le_rfl, by simp, .inl rfl⟩
  | cons r l ih =>
    obtain ⟨start, above, hit⟩ := ih (max e r.1)
    have step : maxNeed (r :: l) e = maxNeed l (max e r.1) := rfl
    rw [step]
    refine ⟨(le_max_left _ _).trans start, List.forall_mem_cons.2 ⟨(le_max_right _ _).trans start, above⟩, ?_⟩
    rcases hit with hit | ⟨q, mem, hit⟩
    · exact (max_choice e r.1).imp hit.trans fun h => ⟨r, List.mem_cons_self, hit.trans h⟩
    · exact .inr ⟨q, List.mem_cons_of_mem _ mem, hit⟩

variable {xs : List Frac}

/-- What the values of a set that are not 0 need. -/
def ArrFmt.needsOf (f : ArrFmt) (xs : List Frac) : List (Int × Bool) := (xs.filter fun x => !x.isZero).map f.needs

theorem ArrFmt.mem_needsOf {r : Int × Bool} : r ∈ f.needsOf xs ↔ ∃ x ∈ xs, x.num ≠ 0 ∧ f.needs x = r := by
  simp [ArrFmt.needsOf, Frac.isZero, and_assoc]

theorem toBlock_zeros (f : ArrFmt) (zeros : ∀ x ∈ xs, x.num = 0) : toBlock f xs = (⟨xs.map fun _ => 0, -128⟩, false) := by
  unfold toBlock
  rw [if_pos (by simpa [Frac.isZero] using zeros)]

theorem toBlock_values (f : ArrFmt) (values : ¬∀ x ∈ xs, x.num = 0) : toBlock f xs =
    (⟨xs.map fun x => clampInt f.lo f.hi (f.mant (maxNeed (f.needsOf xs) (-128)) x), maxNeed (f.needsOf xs) (-128)⟩,
      (f.needsOf xs).any (·.2)) := by
  unfold toBlock
  rw [if_neg (by simpa [Frac.isZero] using values)]
  rfl

theorem clampInt_bounds {lo hi : Int} (h : lo ≤ hi) (v : Int) : lo ≤ clampInt lo hi v ∧ clampInt lo hi v ≤ hi := by
  unfold clampInt
  omega

theorem ArrFmt.zero_in_range (f : ArrFmt) : f.lo ≤ 0 ∧ 0 ≤ f.hi := by cases f <;> decide

theorem toBlock_exp_bounds (f : ArrFmt) (xs : List Frac) : -128 ≤ (toBlock f xs).1.e ∧ (toBlock f xs).1.e ≤ 127 := by
  by_cases zeros : ∀ x ∈ xs, x.num = 0
  · rw [toBlock_zeros f zeros]
    exact ⟨le_rfl, show (-128 : Int) ≤ 127 by decide⟩
  · rw [toBlock_values f zeros]
    obtain ⟨start, -, hit⟩ := maxNeed_bounds (f.needsOf xs) (-128)
    refine ⟨start, ?_⟩
    rcases hit with hit | ⟨r, mem, hit⟩
    · exact hit.trans_le (by decide)
    · obtain ⟨x, -, nonzero, rfl⟩ := ArrFmt.mem_needsOf.1 mem
      exact hit.trans_le (f.needs_le nonzero)

theorem toBlock_mantissas (f : ArrFmt) (xs : List Frac) :
    (toBlock f xs).1.ms.length = xs.length ∧ ∀ m ∈ (toBlock f xs).1.ms, f.lo ≤ m ∧ m ≤ f.hi := by
  by_cases zeros : ∀ x ∈ xs, x.num = 0
  · rw [toBlock_zeros f zeros]
    refine ⟨List.length_map .., fun m mem => ?_⟩
    obtain ⟨x, -, rfl⟩ := List.mem_map.1 mem
    exact f.zero_in_range
  · rw [toBlock_values f zeros]
    refine ⟨List.length_map .., fun m mem => ?_⟩
    obtain ⟨x, -, rfl⟩ := List.mem_map.1 mem
    exact clampInt_bounds (f.zero_in_range.1.trans f.zero_in_range.2) _

/-- Where no mantissa saturates, the block's exponent is the least that holds every value. -/
theorem toBlock_least (dens : ∀ x ∈ xs, 0 < x.den) (room : (toBlock f xs).2 = false) : (∀ x ∈ xs, f.fits (toBlock f xs).1.e x = true) ∧
    ((toBlock f xs).1.e = -128 ∨ ∃ x ∈ xs, f.fits ((toBlock f xs).1.e - 1) x = false) := by
  by_cases zeros : ∀ x ∈ xs, x.num = 0
  · rw [toBlock_zeros f zeros]
    exact ⟨fun x mem => ArrFmt.fits_zero (zeros x mem), .inl rfl⟩
  · rw [toBlock_values f zeros] at room ⊢
    obtain ⟨-, above, hit⟩ := maxNeed_bounds (f.needsOf xs) (-128)
    have least {x : Frac} (mem : x ∈ xs) (nonzero : x.num ≠ 0) : f.leastFor (f.needs x).1 x :=
      ArrFmt.needs_least (dens x mem) nonzero (Bool.eq_false_iff.2 (List.any_eq_false.1 room _ (ArrFmt.mem_needsOf.2 ⟨x, mem, nonzero, rfl⟩)))
    refine ⟨fun x mem => ?_, ?_⟩
    · by_cases nonzero : x.num = 0
      · exact ArrFmt.fits_zero nonzero
      · exact ArrFmt.fits_mono (dens x mem) (above _ (ArrFmt.mem_needsOf.2 ⟨x, mem, nonzero, rfl⟩)) (least mem nonzero).1
    · rcases hit with hit | ⟨r, mem, hit⟩
      · exact .inl hit
      · obtain ⟨x, inSet, nonzero, rfl⟩ := ArrFmt.mem_needsOf.1 mem
        simp only [hit]
        exact (least inSet nonzero).2.imp_right fun short => ⟨x, inSet, short⟩

end

/-- Settles O24: every value needs the least exponent that it fits, and the block takes the greatest of these. -/
theorem blockTakesLeastExponent : Obligations.BlockTakesLeastExponent := by
  intro f xs dens
  obtain ⟨low, high⟩ := toBlock_exp_bounds f xs
  obtain ⟨length, range⟩ := toBlock_mantissas f xs
  refine ⟨low, high, length, range, fun zeros => ?_, toBlock_least dens⟩
  rw [toBlock_zeros f zeros]
  refine ⟨rfl, fun m mem => ?_⟩
  obtain ⟨x, -, rfl⟩ := List.mem_map.1 mem
  rfl

end Sys2Proof.Machine
end

section
/-! Chapter 07: the array's level sequencer (R212, Table 07-5). -/

namespace Sys2Proof.Machine

/-! ## What the sequencer moves -/

/-- The fields that the sequencer writes as it moves. -/
def seqFields : List Fld := [Fd.CLK_ADN_SEQ_phase, Fd.CLK_ADN_SEQ_freq_mhz, Fd.CLK_ADN_LEVEL_present, Fd.CLK_ADN_LEVEL_busy]

/-- The fields beside them in the same registers, and the terms of the effective level (R211, R213). -/
def levelTerms : List Fld :=
  [Fd.CLK_ADN_SEQ_rail_mv, Fd.CLK_ADN_LEVEL_eff, Fd.CLK_ADN_LEVEL_target, Fd.CLK_ADN_LEVEL_floor, Fd.CLK_ADN_LEVEL_max_level,
    Fd.CLK_ADN_LEVEL_floor_conflict, Fd.CLK_ADN_THERM_therm_cap, Fd.CLK_ADN_DROOP_droop_cap, Fd.CLK_ADN_DROOP_active]

theorem seqFields_clear : ∀ f ∈ seqFields, f.clearOf levelTerms = true := by decide

theorem seqFields_addr : ∀ f ∈ seqFields, f.addr ∈ [Reg.CLK_ADN_SEQ, Reg.CLK_ADN_LEVEL] := by decide

/-- What the sequencer leaves of a state as it moves. -/
structure State.SeqMoved (t s : State) : Prop where
  regs : t.regsOff (· ∈ [Reg.CLK_ADN_SEQ, Reg.CLK_ADN_LEVEL]) s
  terms : t.keeps s levelTerms
  time : t.time = s.time

section
variable {s t : State} {l eff : Nat}

theorem State.SeqMoved.rfl' (s : State) : s.SeqMoved s := ⟨.rfl' s, .rfl' s, rfl⟩

theorem State.SeqMoved.put (h : t.SeqMoved s) {f : Fld} (hf : f ∈ seqFields) (v : Nat) : (t.put f v).SeqMoved s :=
  ⟨h.regs.put (seqFields_addr f hf) v, h.terms.put (seqFields_clear f hf) v, h.time⟩

theorem State.SeqMoved.setFlag (h : t.SeqMoved s) {f : Fld} (hf : f ∈ seqFields) (b : Bool) : (t.setFlag f b).SeqMoved s := h.put hf _

theorem State.SeqMoved.seqEnter (h : t.SeqMoved s) (p : Nat) : (t.seqEnter p).SeqMoved s :=
  have marked : t.seqMark.SeqMoved s := ⟨h.regs.of_regs rfl, h.terms.of_regs rfl, h.time⟩
  marked.put (f := Fd.CLK_ADN_SEQ_phase) (by decide) p

theorem State.SeqMoved.seqGo (h : t.SeqMoved s) (l eff : Nat) : (t.seqGo l eff).SeqMoved s := by
  unfold State.seqGo
  split_ifs
  · exact (h.setFlag (by decide) _).seqEnter 1
  · exact ((h.put (by decide) _).setFlag (by decide) _).seqEnter 4
  · exact (h.setFlag (by decide) _).seqEnter 0

theorem State.SeqMoved.seqNext (h : t.SeqMoved s) : t.seqNext.SeqMoved s := by
  have went := h.seqGo (t.get Fd.CLK_ADN_LEVEL_present) (t.get Fd.CLK_ADN_LEVEL_eff)
  unfold State.seqNext State.showMhz
  generalize t.seqGo _ _ = u at went ⊢
  have seen : u.levelSeen.SeqMoved s := ⟨went.regs.of_regs rfl, went.terms.of_regs rfl, went.time⟩
  exact seen.put (f := Fd.CLK_ADN_SEQ_freq_mhz) (by decide) _

/-! ## The end of a step -/

theorem State.now_congr (h : t.time = s.time) : t.now = s.now := by
  unfold State.now
  rw [h]

theorem State.seqEnter_start (s : State) (p : Nat) : (s.seqEnter p).arr.seq.start = (s.seqEnter p).now := by
  unfold State.seqEnter
  rw [State.put_arr, State.now_congr (State.put_time _ _ _)]
  rfl

theorem State.seqEnter_begins (s : State) {p : Nat} (hp : p < 8) : (s.seqEnter p).phaseBegun p :=
  ⟨s.seqMark.get_put_small Fd.CLK_ADN_SEQ_phase p (by decide) hp, s.seqEnter_start p⟩

/-- The level is not the sequencer's phase. -/
theorem State.seqEnter_keeps (s : State) (p : Nat) : (s.seqEnter p).keeps s [Fd.CLK_ADN_LEVEL_present, Fd.CLK_ADN_LEVEL_busy] :=
  State.keeps.put (t := s.seqMark) (.of_regs (.rfl' s) rfl) (by decide) p

/-- The next step from a level begins, or the sequencer is IDLE. -/
theorem State.seqGo_stepped (hl : s.get Fd.CLK_ADN_LEVEL_present = l) : (s.seqGo l eff).steppedFrom l eff := by
  have small : l < 8 := hl ▸ s.get_lt Fd.CLK_ADN_LEVEL_present
  have enter (t : State) (p : Nat) (hp : p < 8) : (t.seqEnter p).get Fd.CLK_ADN_SEQ_phase = p := (t.seqEnter_begins hp).1
  have busy (t : State) (p : Nat) (b : Bool) : ((t.setFlag Fd.CLK_ADN_LEVEL_busy b).seqEnter p).flag Fd.CLK_ADN_LEVEL_busy = b :=
    ((State.seqEnter_keeps _ p).flag (by decide)).trans (t.flag_setFlag_same _ b (by decide) rfl)
  have present (t : State) (p : Nat) (b : Bool) :
      ((t.setFlag Fd.CLK_ADN_LEVEL_busy b).seqEnter p).get Fd.CLK_ADN_LEVEL_present = t.get Fd.CLK_ADN_LEVEL_present :=
    (State.seqEnter_keeps _ p _ (by decide)).trans (t.get_put_clear _ (by decide))
  unfold State.seqGo State.steppedFrom
  rcases Nat.lt_trichotomy l eff with up | rfl | down
  · rw [if_pos up]
    exact ⟨fun _ => ⟨enter _ 1 (by decide), busy _ 1 _, (present _ 1 _).trans hl⟩, fun h => by omega, fun h => by omega,
      State.seqEnter_start _ _⟩
  · rw [if_neg (lt_irrefl l), if_neg (lt_irrefl l)]
    exact ⟨fun h => by omega, fun h => by omega, fun _ => ⟨enter _ 0 (by decide), busy _ 0 _, (present _ 0 _).trans hl⟩,
      State.seqEnter_start _ _⟩
  · rw [if_neg (by omega), if_pos down]
    refine ⟨fun h => by omega, fun _ => ⟨enter _ 4 (by decide), busy _ 4 _, (present _ 4 _).trans ?_⟩, fun h => by omega,
      State.seqEnter_start _ _⟩
    exact s.get_put_small Fd.CLK_ADN_LEVEL_present (l - 1) (by decide) (by change l - 1 < 2 ^ 3; omega)

theorem State.levelSeen_seq (s : State) : s.levelSeen.arr.seq = s.arr.seq := rfl

theorem State.levelSeen_time (s : State) : s.levelSeen.time = s.time := rfl

/-- A step that is done stays done where the clock is shown. -/
theorem State.seqNext_stepped (s : State) : s.seqNext.steppedFrom (s.get Fd.CLK_ADN_LEVEL_present) (s.get Fd.CLK_ADN_LEVEL_eff) := by
  have went : (s.seqGo (s.get Fd.CLK_ADN_LEVEL_present) (s.get Fd.CLK_ADN_LEVEL_eff)).steppedFrom _ _ := State.seqGo_stepped rfl
  unfold State.seqNext State.showMhz
  generalize s.seqGo (s.get Fd.CLK_ADN_LEVEL_present) (s.get Fd.CLK_ADN_LEVEL_eff) = t at went ⊢
  have same : (t.levelSeen.put Fd.CLK_ADN_SEQ_freq_mhz t.levelSeen.arrayMhz).keeps t
      [Fd.CLK_ADN_SEQ_phase, Fd.CLK_ADN_LEVEL_busy, Fd.CLK_ADN_LEVEL_present] := State.keeps.put (.of_regs (.rfl' t) rfl) (by decide) _
  obtain ⟨up, down, done, start⟩ := went
  have begun : (t.levelSeen.put Fd.CLK_ADN_SEQ_freq_mhz t.levelSeen.arrayMhz).arr.seq.start =
      (t.levelSeen.put Fd.CLK_ADN_SEQ_freq_mhz t.levelSeen.arrayMhz).now := by
    rw [State.put_arr, State.now_congr (State.put_time _ _ _), State.levelSeen_seq, State.now_congr t.levelSeen_time]
    exact start
  unfold State.steppedFrom
  rw [same _ (by decide : Fd.CLK_ADN_SEQ_phase ∈ _), same.flag (by decide : Fd.CLK_ADN_LEVEL_busy ∈ _),
    same _ (by decide : Fd.CLK_ADN_LEVEL_present ∈ _)]
  exact ⟨up, down, done, begun⟩

/-- The end of a rise of the clock: the step ends one level up (R212). -/
theorem State.seqRisen_stepped (h : s.get Fd.CLK_ADN_LEVEL_present ≤ 5) :
    s.seqRisen.steppedFrom (s.get Fd.CLK_ADN_LEVEL_present + 1) (s.get Fd.CLK_ADN_LEVEL_eff) := by
  have risen : (s.put Fd.CLK_ADN_LEVEL_present (s.get Fd.CLK_ADN_LEVEL_present + 1)).get Fd.CLK_ADN_LEVEL_present =
      s.get Fd.CLK_ADN_LEVEL_present + 1 := s.get_put_small _ _ (by decide) (by change _ + 1 < 2 ^ 3; omega)
  have eff : (s.put Fd.CLK_ADN_LEVEL_present (s.get Fd.CLK_ADN_LEVEL_present + 1)).get Fd.CLK_ADN_LEVEL_eff = s.get Fd.CLK_ADN_LEVEL_eff :=
    s.get_put_clear _ (by decide)
  have next := (s.put Fd.CLK_ADN_LEVEL_present (s.get Fd.CLK_ADN_LEVEL_present + 1)).seqNext_stepped
  rwa [risen, eff] at next

/-- The end of a fall of the clock: the rail follows, and the clock is the lower level's. -/
theorem State.seqFallen_falls (s : State) : s.seqFallen.phaseBegun 5 ∧
    s.seqFallen.get Fd.CLK_ADN_SEQ_freq_mhz = levelMhz (s.get Fd.CLK_ADN_LEVEL_present) := by
  have present := s.get_lt Fd.CLK_ADN_LEVEL_present
  have small : levelMhz (s.get Fd.CLK_ADN_LEVEL_present) < 2 ^ 12 := by
    unfold levelMhz
    change _ < 2 ^ 3 at present
    omega
  obtain ⟨phase, start⟩ := s.seqEnter_begins (p := 5) (by decide)
  unfold State.seqFallen
  generalize s.seqEnter 5 = t at phase start
  refine ⟨⟨(t.get_put_clear _ (by decide)).trans phase, ?_⟩, t.get_put_small Fd.CLK_ADN_SEQ_freq_mhz _ (by decide) small⟩
  rw [State.put_arr, State.now_congr (State.put_time _ _ _)]
  exact start

/-! ## The end of a phase -/

section
variable {mv : Nat}

theorem State.seqEnd_moved (s : State) (mv : Nat) : (s.seqEnd mv).SeqMoved s := by
  have same := State.SeqMoved.rfl' s
  unfold State.seqEnd
  split
  · split_ifs
    exacts [same.seqEnter 2, same]
  · split_ifs
    exacts [same.seqEnter 3, same]
  · split_ifs
    exacts [(same.put (by decide) _).seqNext, same]
  · split_ifs
    exacts [(same.seqEnter 5).put (by decide) _, same]
  · split_ifs
    exacts [same.seqNext, same]
  · exact same

theorem State.seqEnd_railUp (phase : s.get Fd.CLK_ADN_SEQ_phase = 1) (ran : 2500 ≤ s.seqElapsed) : (s.seqEnd mv).phaseBegun 2 := by
  have done : s.seqEnd mv = s.seqEnter 2 := by
    unfold State.seqEnd
    rw [phase]
    exact if_pos ran
  rw [done]
  exact s.seqEnter_begins (by decide)

theorem State.seqEnd_settled (phase : s.get Fd.CLK_ADN_SEQ_phase = 2) (ran : 1000 ≤ s.seqElapsed) (near : s.railNear mv = true) :
    (s.seqEnd mv).phaseBegun 3 := by
  have done : s.seqEnd mv = s.seqEnter 3 := by
    unfold State.seqEnd
    rw [phase]
    exact if_pos (by simp [ran, near])
  rw [done]
  exact s.seqEnter_begins (by decide)

theorem State.seqEnd_clockUp (phase : s.get Fd.CLK_ADN_SEQ_phase = 3) (ran : 2000 ≤ s.seqElapsed) : s.seqEnd mv = s.seqRisen := by
  unfold State.seqEnd
  rw [phase]
  exact if_pos ran

theorem State.seqEnd_clockDown (phase : s.get Fd.CLK_ADN_SEQ_phase = 4) (ran : 2000 ≤ s.seqElapsed) : s.seqEnd mv = s.seqFallen := by
  unfold State.seqEnd
  rw [phase]
  exact if_pos ran

theorem State.seqEnd_railDown (phase : s.get Fd.CLK_ADN_SEQ_phase = 5) (ran : 2500 ≤ s.seqElapsed) (near : s.railNear mv = true) :
    s.seqEnd mv = s.seqNext := by
  unfold State.seqEnd
  rw [phase]
  exact if_pos (by simp [ran, near])

end

/-! ## The rail's reading -/

section
variable (s : State) (cyc mv : Nat)

/-- The reading shows the rail and moves the time of the frame alone. -/
theorem State.railRead_keeps {l : List Fld} (h : Fd.CLK_ADN_SEQ_rail_mv.clearOf l = true) : (s.railRead cyc mv).keeps s l :=
  State.keeps.put (.of_regs (.rfl' s) (s.atCycle_regs cyc)) h mv

theorem State.railRead_regsOff : (s.railRead cyc mv).regsOff (· ∈ [Reg.CLK_ADN_SEQ]) s :=
  ((State.regsOff.rfl' s).of_regs (s.atCycle_regs cyc)).put (by decide) mv

theorem State.railRead_rail : (s.railRead cyc mv).get Fd.CLK_ADN_SEQ_rail_mv = mv % 2 ^ Fd.CLK_ADN_SEQ_rail_mv.len :=
  State.get_put_same _ _ _ (by decide)

end

end

/-- Settles O25: the end of each phase begins the next one, and a step that is done goes on towards eff. -/
theorem sequencerStepsTowardsTarget : Obligations.SequencerStepsTowardsTarget := by
  intro cyc mv s low
  have read : (s.railRead cyc mv).keeps s [Fd.CLK_ADN_SEQ_phase, Fd.CLK_ADN_LEVEL_present, Fd.CLK_ADN_LEVEL_eff, Fd.CLK_ADN_LEVEL_target] :=
    s.railRead_keeps cyc mv (by decide)
  have phase : (s.railRead cyc mv).get Fd.CLK_ADN_SEQ_phase = s.get Fd.CLK_ADN_SEQ_phase := read _ (by decide)
  have present : (s.railRead cyc mv).get Fd.CLK_ADN_LEVEL_present = s.get Fd.CLK_ADN_LEVEL_present := read _ (by decide)
  have eff : (s.railRead cyc mv).get Fd.CLK_ADN_LEVEL_eff = s.get Fd.CLK_ADN_LEVEL_eff := read _ (by decide)
  have target : (s.railRead cyc mv).get Fd.CLK_ADN_LEVEL_target = s.get Fd.CLK_ADN_LEVEL_target := read _ (by decide)
  obtain ⟨regs, terms, time⟩ := (s.railRead cyc mv).seqEnd_moved mv
  have regs : ((s.railRead cyc mv).seqEnd mv).withinRegs s [Reg.CLK_ADN_SEQ, Reg.CLK_ADN_LEVEL] :=
    (regs.trans ((s.railRead_regsOff cyc mv).mono fun _ h => List.mem_cons.2 (.inl (List.mem_singleton.1 h)))).withinRegs
  have parts := (SeqEnd.execSequencerPhaseEnd_keeps (.rfl' s) cyc mv _ rfl).within
  rw [← present] at low
  rw [← phase, ← present, ← eff, ← target]
  refine ⟨_, rfl, (terms _ (by decide)).trans (s.railRead_rail cyc mv), time, State.seqEnd_railUp, State.seqEnd_settled,
    fun p ran => ?_, fun p ran => ?_, fun p ran near => ?_, terms _ (by decide), terms _ (by decide), regs, parts⟩
  · rw [State.seqEnd_clockUp p ran]
    exact State.seqRisen_stepped low
  · rw [State.seqEnd_clockDown p ran]
    exact State.seqFallen_falls _
  · rw [State.seqEnd_railDown p ran near]
    exact State.seqNext_stepped _

end Sys2Proof.Machine
end

section
/-! Chapter 07: droops, the thermal cap, and the effective level (R211, R213 to R215). -/

namespace Sys2Proof.Machine

/-! ## The effective level (R211) -/

/-- The fields that the effective level is formed from. -/
def effTerms : List Fld :=
  [Fd.CLK_ADN_LEVEL_target, Fd.CLK_ADN_LEVEL_floor, Fd.CLK_ADN_LEVEL_max_level, Fd.CLK_ADN_THERM_therm_cap, Fd.CLK_ADN_DROOP_droop_cap]

/-- What a droop shows beside the clock: its marks and counts, the phase, and the present level. -/
def droopMarks : List Fld :=
  [Fd.CLK_ADN_DROOP_active, Fd.CLK_ADN_DROOP_tripped, Fd.CLK_ADN_DROOP_trips, Fd.CLK_ADN_DROOP_trips_slow, Fd.CLK_ADN_SEQ_phase,
    Fd.CLK_ADN_LEVEL_present]

section
variable {r s t : State}

theorem State.effLevel_congr (h : t.keeps s effTerms) : t.effLevel = s.effLevel := by
  unfold State.effLevel State.capLevel
  rw [h Fd.CLK_ADN_LEVEL_target (by decide), h Fd.CLK_ADN_LEVEL_floor (by decide), h Fd.CLK_ADN_LEVEL_max_level (by decide),
    h Fd.CLK_ADN_THERM_therm_cap (by decide), h Fd.CLK_ADN_DROOP_droop_cap (by decide)]

/-- The effective level never exceeds the thermal cap, nor L5. -/
theorem State.effLevel_le (s : State) : s.effLevel ≤ s.get Fd.CLK_ADN_THERM_therm_cap ∧ s.effLevel ≤ 5 := by
  unfold State.effLevel State.capLevel
  omega

theorem State.showEff_eff (s : State) : s.showEff.get Fd.CLK_ADN_LEVEL_eff = s.effLevel := by
  have small : s.effLevel < 2 ^ 3 := by have := s.effLevel_le; omega
  unfold State.showEff State.setEff
  refine (State.keeps.setFlag (.setFlag (.put (.rfl' _) ?_ _) ?_ _) ?_ _ Fd.CLK_ADN_LEVEL_eff (List.mem_singleton.2 rfl)).trans
    (State.get_put_small _ _ _ (by decide) small) <;> decide

/-- What is shown beside the effective level is none of its terms, and no mark of a droop. -/
theorem State.showEff_keeps (s : State) : s.showEff.keeps s (effTerms ++ droopMarks) := by
  unfold State.showEff State.setEff
  refine .setFlag (.setFlag (.put (.put (.of_regs (.rfl' s) rfl) ?_ _) ?_ _) ?_ _) ?_ _ <;> decide

theorem State.showEff_has (s : State) : s.showEff.arr.seq = s.arr.seq ∧ s.showEff.time = s.time := by
  unfold State.showEff State.setEff
  rw [State.setFlag_arr, State.setFlag_arr, State.put_arr, State.put_arr, State.setFlag_time, State.setFlag_time, State.put_time, State.put_time]
  exact ⟨rfl, rfl⟩

/-- The fields of the array's clock and level stand outside the fault window of their block, and outside what a Halt shows. -/
theorem not_inFault_level : ∀ g ∈ Fd.CLK_ADN_LEVEL_eff :: (effTerms ++ droopMarks), ¬inFault 15 g.addr := by
  have registers : ∀ g ∈ Fd.CLK_ADN_LEVEL_eff :: (effTerms ++ droopMarks), 0x400F0200 ≤ g.addr ∧ g.addr < 0x400F0210 := by decide
  intro g hg fault
  have within := registers g hg
  unfold inFault inWindow inSafe Reg.STL_LANE_STAT Reg.WGL_LINK_STAT Reg.LKS_LOCK_STAT Reg.LKS_STAT Reg.LKS_DUMP_STAT at fault
  omega

/-- A fault of the clock block that names no unit. -/
theorem State.record_keeps_level (s : State) (code cls : Nat) :
    (s.record Blk.clk code cls 0).keeps s (Fd.CLK_ADN_LEVEL_eff :: (effTerms ++ droopMarks)) :=
  (s.record_recorded Blk.clk code fun _ t => t.fenceUnit_none).regs.keeps not_inFault_level

theorem State.noteConflict_keeps (s : State) (was : Bool) : (s.noteConflict was).keeps s (Fd.CLK_ADN_LEVEL_eff :: (effTerms ++ droopMarks)) :=
  .ite (fun _ => s.record_keeps_level _ _) fun _ => .rfl' s

theorem State.noteConflict_has (s : State) (was : Bool) : (s.noteConflict was).arr = s.arr ∧ (s.noteConflict was).time = s.time := by
  unfold State.noteConflict
  split
  · exact ⟨State.record_arr .., State.record_time ..⟩
  · exact ⟨rfl, rfl⟩

/-- The level as it is formed, before the sequencer starts towards it. -/
def State.effNoted (s : State) : State := s.showEff.noteConflict (s.flag Fd.CLK_ADN_LEVEL_floor_conflict)

theorem State.effNoted_keeps (s : State) : s.effNoted.keeps s (effTerms ++ droopMarks) :=
  ((State.noteConflict_keeps _ _).mono (List.subset_cons_self _ _)).trans s.showEff_keeps

theorem State.effNoted_eff (s : State) : s.effNoted.get Fd.CLK_ADN_LEVEL_eff = s.effLevel :=
  (State.noteConflict_keeps _ _ _ List.mem_cons_self).trans s.showEff_eff

theorem State.seqStart_moved (s : State) : s.seqStart.SeqMoved s := by
  unfold State.seqStart
  split
  · exact (State.SeqMoved.rfl' s).seqNext
  · exact .rfl' s

/-- The effective level is formed from its terms, which stay, as does a droop's mark. -/
theorem State.updateEff_formed (s : State) : s.updateEff.get Fd.CLK_ADN_LEVEL_eff = s.updateEff.effLevel ∧
    s.updateEff.keeps s (Fd.CLK_ADN_DROOP_active :: effTerms) := by
  have start : s.updateEff.keeps s.effNoted levelTerms := s.effNoted.seqStart_moved.terms
  have terms : s.updateEff.keeps s (Fd.CLK_ADN_DROOP_active :: effTerms) :=
    (start.mono (by decide)).trans (s.effNoted_keeps.mono (by decide))
  refine ⟨?_, terms⟩
  rw [start _ (by decide), s.effNoted_eff, State.effLevel_congr (terms.mono (List.subset_cons_self _ _))]

/-- A sequencer that is not IDLE goes on as it is, whatever the effective level becomes. -/
theorem State.updateEff_busy (h : s.get Fd.CLK_ADN_SEQ_phase ≠ 0) : s.updateEff = s.effNoted := by
  have phase : s.effNoted.get Fd.CLK_ADN_SEQ_phase = s.get Fd.CLK_ADN_SEQ_phase := s.effNoted_keeps _ (by decide)
  refine if_neg ?_
  change ¬(s.effNoted.get Fd.CLK_ADN_SEQ_phase == 0 && _) = true
  simp [phase, h]

theorem State.effNoted_has (s : State) : s.effNoted.arr.seq = s.arr.seq ∧ s.effNoted.time = s.time := by
  obtain ⟨arr, time⟩ := s.showEff.noteConflict_has (s.flag Fd.CLK_ADN_LEVEL_floor_conflict)
  unfold State.effNoted
  rw [arr, time]
  exact s.showEff_has

/-! ## Droops (R213, R214) -/

/-- A droop has begun, before it is recorded. -/
def State.droopBegun (s : State) : State :=
  (((((s.put Fd.CLK_ADN_SEQ_freq_mhz s.arrayMhz).seqFreeze.put Fd.CLK_ADN_SEQ_phase 6).setFlag Fd.CLK_ADN_DROOP_active true).setFlag
    Fd.CLK_ADN_DROOP_tripped true).bump Fd.CLK_ADN_DROOP_trips).bumpSat Fd.CLK_ADN_DROOP_trips_slow

theorem State.enterDroop_eq (s : State) : s.enterDroop = s.droopBegun.record Blk.clk 0x11 0 0 := rfl

theorem State.seqFreeze_get (s : State) (g : Fld) : s.seqFreeze.get g = s.get g := State.get_congr (s := s) rfl g

theorem State.seqFreeze_seq (s : State) : s.seqFreeze.arr.seq.frozen = s.get Fd.CLK_ADN_SEQ_phase ∧
    s.seqFreeze.arr.seq.ran = s.seqElapsed := ⟨rfl, rfl⟩

theorem State.seqElapsed_put (s : State) {f : Fld} (v : Nat) (h : f.clear Fd.CLK_ADN_SEQ_phase = true) : (s.put f v).seqElapsed = s.seqElapsed := by
  unfold State.seqElapsed
  rw [s.get_put_clear v h, State.put_arr, State.now_congr (s.put_time f v)]

/-- A droop stands in `t` that began in `s`: its marks, its count, and the sequencer frozen in its phase. -/
structure State.Droops (t s : State) : Prop where
  active : t.flag Fd.CLK_ADN_DROOP_active = true
  tripped : t.flag Fd.CLK_ADN_DROOP_tripped = true
  phase : t.get Fd.CLK_ADN_SEQ_phase = 6
  trips : t.get Fd.CLK_ADN_DROOP_trips = (s.get Fd.CLK_ADN_DROOP_trips + 1) % 2 ^ Fd.CLK_ADN_DROOP_trips.len
  present : t.get Fd.CLK_ADN_LEVEL_present = s.get Fd.CLK_ADN_LEVEL_present
  frozen : t.arr.seq.frozen = s.get Fd.CLK_ADN_SEQ_phase
  ran : t.arr.seq.ran = s.seqElapsed

theorem State.Droops.keeps (h : t.Droops s) (k : r.keeps t droopMarks) (seq : r.arr.seq = t.arr.seq) : r.Droops s where
  active := (k.flag (by decide)).trans h.active
  tripped := (k.flag (by decide)).trans h.tripped
  phase := (k _ (by decide)).trans h.phase
  trips := (k _ (by decide)).trans h.trips
  present := (k _ (by decide)).trans h.present
  frozen := (congrArg SeqRt.frozen seq).trans h.frozen
  ran := (congrArg SeqRt.ran seq).trans h.ran

theorem State.droopBegun_droops (s : State) : s.droopBegun.Droops s := by
  have seq : s.droopBegun.arr.seq = (s.put Fd.CLK_ADN_SEQ_freq_mhz s.arrayMhz).seqFreeze.arr.seq := by
    unfold State.droopBegun
    rw [State.bumpSat_arr, State.bump_arr, State.setFlag_arr, State.setFlag_arr, State.put_arr]
  have frozen := (s.put Fd.CLK_ADN_SEQ_freq_mhz s.arrayMhz).seqFreeze_seq
  rw [State.seqElapsed_put _ _ (by decide), State.get_put_clear _ _ (by decide), ← seq] at frozen
  refine ⟨?_, ?_, ?_, ?_, ?_, frozen.1, frozen.2⟩ <;> unfold State.droopBegun <;>
    simp (disch := decide) only [State.flag, State.get_put_clear, State.get_setFlag_clear, State.get_bump_clear, State.get_bumpSat_clear,
      State.get_bump_same, State.seqFreeze_get]
  · exact State.flag_setFlag_same _ _ _ (by decide) rfl
  · exact State.flag_setFlag_same _ _ _ (by decide) rfl
  · exact State.get_put_small _ _ _ (by decide) (by decide)

/-- What a droop's begin leaves: the caps, and the counted trips of the slow frame. -/
theorem State.droopBegun_counts (s : State) : s.droopBegun.get Fd.CLK_ADN_DROOP_trips_slow = min (s.get Fd.CLK_ADN_DROOP_trips_slow + 1) 255 ∧
    s.droopBegun.get Fd.CLK_ADN_DROOP_droop_cap = s.get Fd.CLK_ADN_DROOP_droop_cap := by
  constructor <;> unfold State.droopBegun <;>
    simp (disch := decide) only [State.get_bumpSat_same, State.get_put_clear, State.get_setFlag_clear, State.get_bump_clear,
      State.get_bumpSat_clear, State.seqFreeze_get]
  rfl

/-- A droop that is recorded stands as it began. -/
theorem State.enterDroop_droops (s : State) : s.enterDroop.Droops s := by
  rw [State.enterDroop_eq]
  exact s.droopBegun_droops.keeps ((s.droopBegun.record_keeps_level 0x11 0).mono (by decide)) (congrArg ArrRt.seq (State.record_arr ..))

theorem State.enterDroop_counts (s : State) : s.enterDroop.get Fd.CLK_ADN_DROOP_trips_slow = min (s.get Fd.CLK_ADN_DROOP_trips_slow + 1) 255 ∧
    s.enterDroop.get Fd.CLK_ADN_DROOP_droop_cap = s.get Fd.CLK_ADN_DROOP_droop_cap := by
  have kept := s.droopBegun.record_keeps_level 0x11 0
  obtain ⟨trips, cap⟩ := s.droopBegun_counts
  rw [State.enterDroop_eq]
  exact ⟨(kept _ (by decide)).trans trips, (kept _ (by decide)).trans cap⟩

/-- A droop is a Note: it is counted, and raises nothing (R445). -/
theorem State.enterDroop_noted (s : State) : s.enterDroop.faultCounted s 15 ∧ s.enterDroop.within s [.regs, .hmp, .arr] := by
  obtain ⟨-, counted, parts⟩ := s.droopBegun.record_note Blk.clk 0x11 0 (by decide)
  have begun : s.droopBegun.within s [.regs, .arr] := by
    have frozen (t : State) : t.seqFreeze.within t [.regs, .arr] := (t.within_arr _).mono (by decide)
    unfold State.droopBegun
    exact .put (.bump (.setFlag (.setFlag (.put ((frozen _).trans (.put (.rfl' s) (by decide) _ _)) (by decide) _ _) (by decide) _ _)
      (by decide) _ _) (by decide) _) (by decide) _ _
  have count : s.droopBegun.get (Fd.FLT_STAT_count 15) = s.get (Fd.FLT_STAT_count 15) := by
    unfold State.droopBegun
    simp (disch := decide) only [State.get_put_clear, State.get_setFlag_clear, State.get_bump_clear, State.get_bumpSat_clear, State.seqFreeze_get]
  rw [State.enterDroop_eq]
  exact ⟨counted.trans (congrArg (fun n => (n + 1) % 65536) count), (parts.mono (by decide)).trans (begun.mono (by decide))⟩

/-- The cap stands one level below the present one, before that is recorded. -/
def State.capLowered (s : State) : State := s.put Fd.CLK_ADN_DROOP_droop_cap (s.get Fd.CLK_ADN_LEVEL_present - 1)

theorem State.capLowered_cap (s : State) : s.capLowered.get Fd.CLK_ADN_DROOP_droop_cap = s.get Fd.CLK_ADN_LEVEL_present - 1 := by
  have present := s.get_lt Fd.CLK_ADN_LEVEL_present
  refine s.get_put_small Fd.CLK_ADN_DROOP_droop_cap _ (by decide) ?_
  change _ < 2 ^ 3 at present ⊢
  omega

theorem State.capLowered_keeps (s : State) : s.capLowered.keeps s droopMarks := .put (.rfl' s) (by decide) _

theorem State.droopCap_last (last : s.get Fd.CLK_ADN_DROOP_trips_slow = 17) : s.droopCap = (s.capLowered.record Blk.clk 0x12 1 0).updateEff :=
  if_pos (by rw [last]; rfl)

/-- The 17th trip of a slow frame sets the cap one level below the present one, and the droop stands (R214). -/
theorem State.droopCap_caps {t : State} (h : t.Droops s) (last : t.get Fd.CLK_ADN_DROOP_trips_slow = 17) : t.droopCap.Droops s ∧
    t.droopCap.get Fd.CLK_ADN_DROOP_droop_cap = s.get Fd.CLK_ADN_LEVEL_present - 1 := by
  have capped := t.capLowered.record_keeps_level 0x12 1
  have lowered : t.capLowered.Droops s := h.keeps t.capLowered_keeps (congrArg ArrRt.seq (State.put_arr ..))
  have recorded : (t.capLowered.record Blk.clk 0x12 1 0).Droops s :=
    lowered.keeps (capped.mono (by decide)) (congrArg ArrRt.seq (State.record_arr ..))
  have noted := (t.capLowered.record Blk.clk 0x12 1 0).effNoted_keeps
  rw [State.droopCap_last last, State.updateEff_busy (by rw [recorded.phase]; decide)]
  refine ⟨recorded.keeps (noted.mono (by decide)) (State.effNoted_has _).1, ?_⟩
  rw [noted _ (by decide), capped _ (by decide), t.capLowered_cap, h.present]

theorem State.railRead_arr (s : State) (cyc mv : Nat) : (s.railRead cyc mv).arr = s.arr := (State.put_arr _ _ _).trans (s.atCycle_arr cyc)

theorem State.railRead_within (s : State) (cyc mv : Nat) : (s.railRead cyc mv).within s [.regs, .time] :=
  .put ((s.atCycle_within cyc).mono (by decide)) (by decide) _ _

/-- A rail below Vd begins a droop (R213), and the 17th trip of a slow frame lowers the droop cap (R214). -/
theorem execDroopTrip_trips (cyc mv : Nat) (clear : s.flag Fd.CLK_ADN_DROOP_active = false) (low : mv < (s.railRead cyc mv).droopThreshold) :
    ∃ t, execDroopTrip cyc mv s = .next t ∧ t.Droops (s.railRead cyc mv) ∧
      (s.get Fd.CLK_ADN_DROOP_trips_slow = 16 → t.get Fd.CLK_ADN_DROOP_droop_cap = (s.railRead cyc mv).get Fd.CLK_ADN_LEVEL_present - 1) ∧
      (s.get Fd.CLK_ADN_DROOP_trips_slow ≠ 16 → t.faultCounted s 15 ∧
        t.get Fd.CLK_ADN_DROOP_droop_cap = s.get Fd.CLK_ADN_DROOP_droop_cap ∧ t.within s [.regs, .time, .hmp, .arr]) := by
  have read : (s.railRead cyc mv).keeps s
      [Fd.CLK_ADN_DROOP_active, Fd.CLK_ADN_DROOP_trips_slow, Fd.CLK_ADN_DROOP_droop_cap, Fd.FLT_STAT_count 15] := s.railRead_keeps cyc mv (by decide)
  have droops : (s.railRead cyc mv).droops mv = true := by
    unfold State.droops
    rw [read.flag (by decide), clear, decide_eq_true low]
    rfl
  have ran : execDroopTrip cyc mv s = .next (s.railRead cyc mv).enterDroop.droopCap := congrArg Host.Outcome.next (if_pos droops)
  have parts := s.railRead_within cyc mv
  generalize s.railRead cyc mv = r at *
  obtain ⟨trips, cap⟩ := r.enterDroop_counts
  rw [read _ (by decide)] at trips
  rw [read _ (by decide)] at cap
  obtain ⟨counted, noted⟩ := r.enterDroop_noted
  refine ⟨_, ran, ?_⟩
  by_cases last : s.get Fd.CLK_ADN_DROOP_trips_slow = 16
  · obtain ⟨stands, capped⟩ := State.droopCap_caps r.enterDroop_droops (by rw [trips, last]; rfl)
    exact ⟨stands, fun _ => capped, fun h => absurd last h⟩
  · have other : r.enterDroop.droopCap = r.enterDroop := if_neg (by simp [trips]; omega)
    rw [other]
    refine ⟨r.enterDroop_droops, fun h => absurd h last, fun _ => ⟨?_, cap, (noted.mono (by decide)).trans (parts.mono (by decide))⟩⟩
    exact counted.trans (congrArg (fun n => (n + 1) % 65536) (read _ (by decide)))

/-! ## The end of a droop (R213, R214) -/

/-- The sequencer goes on in `t` in the phase that was frozen in `s`, with the time it had run. -/
structure State.Thawed (t s : State) : Prop where
  clear : t.flag Fd.CLK_ADN_DROOP_active = false
  phase : t.get Fd.CLK_ADN_SEQ_phase = s.arr.seq.frozen
  start : t.arr.seq.start = t.now - s.arr.seq.ran
  present : t.get Fd.CLK_ADN_LEVEL_present = s.get Fd.CLK_ADN_LEVEL_present

theorem State.seqThaw_get (s : State) (g : Fld) : s.seqThaw.get g = s.get g := State.get_congr (s := s) rfl g

theorem State.seqThaw_has (s : State) : s.seqThaw.arr.seq.start = s.now - s.arr.seq.ran ∧ s.seqThaw.arr.seq.capClear = s.arr.seq.capClear ∧
    s.seqThaw.now = s.now := ⟨rfl, rfl, rfl⟩

theorem State.leaveDroop_thaws (s : State) (frozen : s.arr.seq.frozen ≤ 5) : s.leaveDroop.Thawed s ∧
    s.leaveDroop.arr.seq.capClear = s.arr.seq.capClear ∧ s.leaveDroop.get Fd.CLK_ADN_DROOP_droop_cap = s.get Fd.CLK_ADN_DROOP_droop_cap := by
  unfold State.leaveDroop
  obtain ⟨start, capClear, now⟩ := ((s.setFlag Fd.CLK_ADN_DROOP_active false).put Fd.CLK_ADN_SEQ_phase s.arr.seq.frozen).seqThaw_has
  rw [State.put_arr, State.setFlag_arr] at start capClear
  refine ⟨⟨?_, ?_, start.trans (by rw [now]), ?_⟩, capClear, ?_⟩ <;>
    simp (disch := decide) only [State.flag, State.seqThaw_get, State.get_put_clear, State.get_setFlag_clear]
  · exact s.flag_setFlag_same Fd.CLK_ADN_DROOP_active false (by decide) rfl
  · exact State.get_put_small _ _ _ (by decide) (by change _ < 2 ^ 3; omega)

/-- The effective level is formed anew, and the sequencer goes on. -/
theorem State.Thawed.updateEff {t : State} (h : t.Thawed s) (busy : s.arr.seq.frozen ≠ 0) : t.updateEff.Thawed s ∧
    t.updateEff.arr.seq.capClear = t.arr.seq.capClear ∧ t.updateEff.get Fd.CLK_ADN_LEVEL_eff = t.updateEff.effLevel ∧
    t.updateEff.get Fd.CLK_ADN_DROOP_droop_cap = t.get Fd.CLK_ADN_DROOP_droop_cap := by
  obtain ⟨formed, terms⟩ := t.updateEff_formed
  refine ⟨?_, ?_, formed, terms _ (by decide)⟩ <;> rw [State.updateEff_busy (by rw [h.phase]; exact busy)]
  · have marks := t.effNoted_keeps
    obtain ⟨seq, time⟩ := t.effNoted_has
    refine ⟨(marks.flag (by decide)).trans h.clear, (marks _ (by decide)).trans h.phase, ?_, (marks _ (by decide)).trans h.present⟩
    rw [seq, State.now_congr time]
    exact h.start
  · rw [t.effNoted_has.1]

/-- The droop cap returns, before the effective level is formed anew. -/
def State.capLifted (s : State) : State :=
  { s with arr := { s.arr with seq := { s.arr.seq with capClear := false } } }.put Fd.CLK_ADN_DROOP_droop_cap 5

theorem State.capReturn_eq (s : State) : s.capReturn = s.capLifted.updateEff := rfl

theorem State.capLifted_keeps (s : State) : s.capLifted.keeps s droopMarks := .put (.of_regs (.rfl' s) rfl) (by decide) 5

theorem State.capLifted_has (s : State) : s.capLifted.arr.seq.start = s.arr.seq.start ∧ s.capLifted.arr.seq.capClear = false ∧
    s.capLifted.time = s.time ∧ s.capLifted.get Fd.CLK_ADN_DROOP_droop_cap = 5 := by
  unfold State.capLifted
  rw [State.put_arr, State.put_time]
  exact ⟨rfl, rfl, rfl, State.get_put_small _ _ _ (by decide) (by decide)⟩

theorem State.Thawed.capLifted {t : State} (h : t.Thawed s) : t.capLifted.Thawed s := by
  have marks := t.capLifted_keeps
  obtain ⟨start, -, time, -⟩ := t.capLifted_has
  refine ⟨(marks.flag (by decide)).trans h.clear, (marks _ (by decide)).trans h.phase, ?_, (marks _ (by decide)).trans h.present⟩
  rw [start, State.now_congr time]
  exact h.start

/-- When the rail has recovered, the sequencer goes on, and a cap_clear that waited returns the cap. -/
theorem execDroopClear_clears (cyc mv : Nat) (active : s.flag Fd.CLK_ADN_DROOP_active = true)
    (high : (s.railRead cyc mv).droopThreshold + 15 ≤ mv) (busy : 1 ≤ s.arr.seq.frozen) (frozen : s.arr.seq.frozen ≤ 5) :
    ∃ t, execDroopClear cyc mv s = .next t ∧ t.Thawed (s.railRead cyc mv) ∧ t.arr.seq.capClear = false ∧
      t.get Fd.CLK_ADN_LEVEL_eff = t.effLevel ∧ (s.arr.seq.capClear = true → t.get Fd.CLK_ADN_DROOP_droop_cap = 5) ∧
      (s.arr.seq.capClear = false → t.get Fd.CLK_ADN_DROOP_droop_cap = s.get Fd.CLK_ADN_DROOP_droop_cap) := by
  have read : (s.railRead cyc mv).keeps s [Fd.CLK_ADN_DROOP_active, Fd.CLK_ADN_DROOP_droop_cap] := s.railRead_keeps cyc mv (by decide)
  have recovers : (s.railRead cyc mv).recovers mv = true := by
    unfold State.recovers
    rw [read.flag (by decide), active, decide_eq_true high]
    rfl
  unfold execDroopClear
  rw [recovers, if_pos rfl]
  rw [← s.railRead_arr cyc mv] at busy frozen ⊢
  generalize s.railRead cyc mv = r at *
  have phase : r.arr.seq.frozen ≠ 0 := by omega
  obtain ⟨thawed, waits, cap⟩ := r.leaveDroop_thaws frozen
  cases h : r.arr.seq.capClear with
  | true =>
    obtain ⟨-, lifted, -, full⟩ := r.leaveDroop.capLifted_has
    obtain ⟨goes, kept, formed, capped⟩ := thawed.capLifted.updateEff phase
    rw [if_pos rfl, State.capReturn_eq]
    exact ⟨_, rfl, goes, kept.trans lifted, formed, fun _ => capped.trans full, nofun⟩
  | false =>
    obtain ⟨goes, kept, formed, capped⟩ := thawed.updateEff phase
    rw [if_neg (by decide)]
    exact ⟨_, rfl, goes, kept.trans (waits.trans h), formed, nofun, fun _ => capped.trans (cap.trans (read _ (by decide)))⟩

/-! ## The thermal cap (R215) -/

/-- The thermal cap is set, and the effective level formed from it. -/
theorem State.updateEff_capped {n : Nat} (h : s.get Fd.CLK_ADN_THERM_therm_cap = n) : s.updateEff.get Fd.CLK_ADN_THERM_therm_cap = n ∧
    s.updateEff.get Fd.CLK_ADN_LEVEL_eff = s.updateEff.effLevel ∧ s.updateEff.get Fd.CLK_ADN_LEVEL_eff ≤ n := by
  obtain ⟨formed, terms⟩ := s.updateEff_formed
  have cap := (terms Fd.CLK_ADN_THERM_therm_cap (by decide)).trans h
  exact ⟨cap, formed, formed.trans_le (s.updateEff.effLevel_le.1.trans cap.le)⟩

theorem State.setTherm_cap (s : State) {n : Nat} (h : n ≤ 5) : (s.setTherm n).get Fd.CLK_ADN_THERM_therm_cap = n :=
  s.get_put_small Fd.CLK_ADN_THERM_therm_cap n (by decide) (by change _ < 2 ^ 3; omega)

theorem thermCap_le (tj : Int) : thermCap tj ≤ 5 := by
  unfold thermCap
  split_ifs <;> omega

/-- A reading that asks for a lower cap sets it. -/
theorem execThermalCapLower_lowers {tj : Int} (lower : thermCap tj < s.get Fd.CLK_ADN_THERM_therm_cap) :
    ∃ t, execThermalCapLower tj s = .next t ∧ t.get Fd.CLK_ADN_THERM_therm_cap = thermCap tj ∧ t.get Fd.CLK_ADN_LEVEL_eff = t.effLevel ∧
      t.get Fd.CLK_ADN_LEVEL_eff ≤ thermCap tj :=
  ⟨_, congrArg Host.Outcome.next (if_pos lower), State.updateEff_capped
    ((State.record_keeps_level _ 0x13 1 _ (by decide)).trans ((s.junction tj).setTherm_cap (thermCap_le tj)))⟩

/-- After a whole slow frame at 95 °C or less the cap returns. -/
theorem execThermalCapRestore_restores {tj : Int} (cool : tj ≤ 760) (start : s.slowStart = true) (before : s.arr.hotPrev = false)
    (low : s.get Fd.CLK_ADN_THERM_therm_cap < 5) : ∃ t, execThermalCapRestore tj s = .next t ∧ t.get Fd.CLK_ADN_THERM_therm_cap = 5 ∧
      t.get Fd.CLK_ADN_LEVEL_eff = t.effLevel := by
  obtain ⟨cap, formed, -⟩ := State.updateEff_capped ((s.junction tj).setTherm_cap (le_refl 5))
  exact ⟨_, congrArg Host.Outcome.next (if_pos (by simp [cool, start, before, low])), cap, formed⟩

end

/-- Settles O26: a droop freezes the sequencer and thaws it, and each cap that moves forms the effective level anew. -/
theorem droopAndThermalCapsLimitTheLevel : Obligations.DroopAndThermalCapsLimitTheLevel := by
  refine ⟨fun cyc mv s => ⟨fun clear low => ?_, fun active high busy frozen => ?_⟩,
    fun tj s => ⟨fun hot above => ?_, fun warm below above => ?_, execThermalCapRestore_restores⟩⟩
  · have read : (s.railRead cyc mv).keeps s [Fd.CLK_ADN_SEQ_phase, Fd.CLK_ADN_DROOP_trips, Fd.CLK_ADN_LEVEL_present] :=
      s.railRead_keeps cyc mv (by decide)
    obtain ⟨t, ran, droops, last, other⟩ := execDroopTrip_trips cyc mv clear low
    have phase := read Fd.CLK_ADN_SEQ_phase (by decide)
    have trips := read Fd.CLK_ADN_DROOP_trips (by decide)
    have present := read Fd.CLK_ADN_LEVEL_present (by decide)
    rw [← phase, ← trips, ← present]
    exact ⟨t, ran, droops.active, droops.tripped, droops.phase, droops.frozen, droops.ran, droops.trips, droops.present, last, fun h _ => other h⟩
  · obtain ⟨t, ran, thawed, waits, formed, lifted, kept⟩ := execDroopClear_clears cyc mv active high busy frozen
    have arr := s.railRead_arr cyc mv
    have present := s.railRead_keeps (l := [Fd.CLK_ADN_LEVEL_present]) cyc mv (by decide) _ List.mem_cons_self
    refine ⟨t, ran, thawed.clear, ?_, ?_, waits, formed, lifted, kept, thawed.present.trans present⟩
    · exact thawed.phase.trans (by rw [arr])
    · exact thawed.start.trans (by rw [arr])
  · have cap : thermCap tj = 0 := if_pos hot
    obtain ⟨t, ran, capped, -, under⟩ := execThermalCapLower_lowers (s := s) (tj := tj) (by rwa [cap])
    rw [cap] at capped under
    exact ⟨t, ran, capped, Nat.le_zero.1 under⟩
  · have cap : thermCap tj = 3 := (if_neg (by omega)).trans (if_pos warm)
    have lowered := execThermalCapLower_lowers (s := s) (tj := tj) (by rwa [cap])
    rwa [cap] at lowered

end Sys2Proof.Machine
end

section
/-! Chapter 07: the self-test of cores, their fences, and the scrubber (R202, R204, R217, R218). -/

namespace Sys2Proof.Machine

/-! ## The registers of the array -/

/-- An address of the array's block before its fault window. -/
def inArray (a : Nat) : Prop := 0x40090000 ≤ a ∧ a < 0x40097F00

theorem inArray_coreStat (k : Fin 48) : inArray (Reg.ADN_CORE_STAT k) := by
  have hk := k.isLt
  unfold inArray Reg.ADN_CORE_STAT
  omega

theorem inArray_coreTest (k : Fin 48) : inArray (Reg.ADN_CORE_TEST k) := by
  have hk := k.isLt
  unfold inArray Reg.ADN_CORE_TEST
  omega

/-! The registers of a core and of the faults are not those that another core's fence, or a set of its test, writes. -/

theorem coreTest_not_fenced (k : Fin 48) : Reg.ADN_CORE_TEST k ∉ [Reg.ADN_CORE_STAT k, Reg.ADN_STAT] := by
  simp only [Reg.ADN_CORE_TEST, Reg.ADN_CORE_STAT, Reg.ADN_STAT, List.mem_cons, List.not_mem_nil, or_false]
  omega

theorem coreStat_not_fenced {i k : Fin 48} (h : i ≠ k) : Reg.ADN_CORE_STAT i ∉ [Reg.ADN_CORE_STAT k, Reg.ADN_STAT] := by
  simp only [Reg.ADN_CORE_STAT, Reg.ADN_STAT, List.mem_cons, List.not_mem_nil, or_false]
  omega

theorem fltStat_not_fenced (k : Fin 48) : Reg.FLT_STAT 9 ∉ [Reg.ADN_CORE_STAT k, Reg.ADN_STAT] := by
  simp only [Reg.FLT_STAT, Reg.ADN_CORE_STAT, Reg.ADN_STAT, List.mem_cons, List.not_mem_nil, or_false]
  omega

theorem eccStat_not_fenced (k : Fin 48) : Reg.ADN_ECC_STAT ∉ [Reg.ADN_CORE_STAT k, Reg.ADN_STAT] := by
  simp only [Reg.ADN_ECC_STAT, Reg.ADN_CORE_STAT, Reg.ADN_STAT, List.mem_cons, List.not_mem_nil, or_false]
  omega

theorem coreStat_not_counts (k : Fin 48) : Reg.ADN_CORE_STAT k ∉ [Reg.ADN_STAT] := by
  simp only [Reg.ADN_CORE_STAT, Reg.ADN_STAT, List.mem_cons, List.not_mem_nil, or_false]
  omega

theorem coreStat_not_test (i k : Fin 48) : Reg.ADN_CORE_STAT i ∉ [Reg.ADN_CORE_TEST k] := by
  simp only [Reg.ADN_CORE_STAT, Reg.ADN_CORE_TEST, List.mem_cons, List.not_mem_nil, or_false]
  omega

theorem fltStat_not_test (k : Fin 48) : Reg.FLT_STAT 9 ∉ [Reg.ADN_CORE_TEST k] := by
  simp only [Reg.FLT_STAT, Reg.ADN_CORE_TEST, List.mem_cons, List.not_mem_nil, or_false]
  omega

theorem not_inFault_array {a : Nat} (h : inArray a) : ¬inFault 9 a := by
  intro fault
  unfold inArray at h
  unfold inFault inWindow inSafe Reg.STL_LANE_STAT Reg.WGL_LINK_STAT Reg.LKS_LOCK_STAT Reg.LKS_STAT Reg.LKS_DUMP_STAT at fault
  omega

theorem inArray_stat : inArray Reg.ADN_STAT := by
  unfold inArray
  decide

theorem inArray_eccStat : inArray Reg.ADN_ECC_STAT := by
  unfold inArray
  decide

/-! ## The counts of ADN_STAT -/

section
variable {s t : State} {k : Fin 48} {cause : Nat}

theorem State.regsOff.coreState {P : Nat → Prop} (h : t.regsOff P s) (hk : ¬P (Reg.ADN_CORE_STAT k)) : t.coreState k = s.coreState k :=
  h.get (f := Fd.ADN_CORE_STAT_state k) hk

theorem State.countCores_regsOff (s : State) : s.countCores.regsOff (· ∈ [Reg.ADN_STAT]) s :=
  .put (.put (.put (.put (.rfl' s) (by decide) _) (by decide) _) (by decide) _) (by decide) _

theorem State.countCores_arr (s : State) : s.countCores.arr = s.arr := (RegOnly.countCores (.rfl' s)).arr_eq

theorem State.countCores_coreState (s : State) (k : Fin 48) : s.countCores.coreState k = s.coreState k :=
  s.countCores_regsOff.coreState (coreStat_not_counts k)

/-- How many of the 48 cores stand in a state that a condition names. -/
def State.coresIn (s : State) (p : Nat → Bool) : Nat := ((List.range 48).filter fun k => p (s.coreState k)).length

theorem State.coresIn_lt (s : State) (p : Nat → Bool) : s.coresIn p < 2 ^ 6 :=
  (List.length_filter_le _ _).trans_lt (by rw [List.length_range]; decide)

theorem State.coresIn_congr (h : ∀ k : Fin 48, t.coreState k = s.coreState k) (p : Nat → Bool) : t.coresIn p = s.coresIn p := by
  unfold State.coresIn
  rw [List.filter_congr fun k hk => congrArg p (h ⟨k, List.mem_range.1 hk⟩)]

theorem State.coresCounted_iff : t.coresCounted ↔ t.get Fd.ADN_STAT_n_fenced = t.coresIn (· == 6) ∧
    t.get Fd.ADN_STAT_n_test = t.coresIn (· == 5) ∧ t.get Fd.ADN_STAT_n_bound = t.coresIn (fun x => decide (2 ≤ x ∧ x ≤ 4)) ∧
    t.get Fd.ADN_STAT_n_free = t.coresIn (fun x => decide (x ≤ 1)) :=
  Iff.rfl

/-- An operation that changes neither a core's status nor the counts. -/
theorem State.coresCounted.off {P : Nat → Prop} (h : s.coresCounted) (off : t.regsOff P s) (hP : ∀ a, inArray a → ¬P a) : t.coresCounted := by
  have cores := State.coresIn_congr fun k : Fin 48 => off.coreState (hP _ (inArray_coreStat k))
  have counts (f : Fld) (hf : f.addr = Reg.ADN_STAT) : t.get f = s.get f := off.get (hf ▸ hP _ inArray_stat)
  rw [State.coresCounted_iff] at h ⊢
  simp only [cores, counts _ (show Fd.ADN_STAT_n_fenced.addr = _ from rfl), counts _ (show Fd.ADN_STAT_n_test.addr = _ from rfl),
    counts _ (show Fd.ADN_STAT_n_bound.addr = _ from rfl), counts _ (show Fd.ADN_STAT_n_free.addr = _ from rfl)]
  exact h

theorem State.countCores_counted (s : State) : s.countCores.coresCounted := by
  rw [State.coresCounted_iff]
  simp only [State.coresIn_congr s.countCores_coreState]
  have written : s.countCores = (((s.put Fd.ADN_STAT_n_fenced (s.coresIn (· == 6))).put Fd.ADN_STAT_n_test (s.coresIn (· == 5))).put
    Fd.ADN_STAT_n_bound (s.coresIn fun x => decide (2 ≤ x ∧ x ≤ 4))).put Fd.ADN_STAT_n_free (s.coresIn fun x => decide (x ≤ 1)) := rfl
  rw [written]
  simp (disch := decide) only [State.get_put_clear, State.get_put_same]
  have fits (p : Nat → Bool) : s.coresIn p % 2 ^ 6 = s.coresIn p := Nat.mod_eq_of_lt (s.coresIn_lt p)
  exact ⟨fits _, fits _, fits _, fits _⟩

/-! ## Fences (R218) -/

/-- Core `k` stands fenced in `t` with a cause, and the cores are counted; beside its status nothing of `s` has changed. -/
structure State.CoreFenced (t s : State) (k : Fin 48) (cause : Nat) : Prop where
  fenced : t.coreState k = 6
  cause : t.get (Fd.ADN_CORE_STAT_fence_cause k) = cause
  counted : t.coresCounted
  regs : t.regsOff (· ∈ [Reg.ADN_CORE_STAT k, Reg.ADN_STAT]) s

theorem State.fenceCore_fences (s : State) (k : Fin 48) (hc : cause < 16) : (s.fenceCore k cause).coreState k = 6 ∧
    (s.fenceCore k cause).get (Fd.ADN_CORE_STAT_fence_cause k) = cause := by
  unfold State.fenceCore State.coreState
  refine ⟨?_, State.get_put_small _ (Fd.ADN_CORE_STAT_fence_cause k) cause (by decide : 8 + 4 ≤ 32) hc⟩
  refine (State.get_put_apart _ (Fd.ADN_CORE_STAT_fence_cause k) (Fd.ADN_CORE_STAT_state k) cause (by decide : 8 + 4 ≤ 32)
    (.inr (.inr (by decide : 8 + 4 ≤ 28)))).trans ?_
  exact s.get_put_small (Fd.ADN_CORE_STAT_state k) 6 (by decide : 28 + 4 ≤ 32) (by decide : 6 < 2 ^ 4)

/-- A core fenced, out of its slot, before the cores are counted. -/
def State.fenceShut (s : State) (k : Fin 48) (cause : Nat) : State := ((s.fenceCore k cause).put (Fd.ADN_CORE_STAT_slot k) 0x3F).setCore k .reset

theorem State.fenceCoreNow_eq (s : State) (k : Fin 48) (cause : Nat) : s.fenceCoreNow k cause = (s.fenceShut k cause).countCores := rfl

theorem State.setCore_regs (s : State) (k : Fin 48) (c : CoreRt) : (s.setCore k c).regs = s.regs := rfl

theorem State.setCore_get (s : State) (k : Fin 48) (c : CoreRt) (g : Fld) : (s.setCore k c).get g = s.get g :=
  State.get_congr (s.setCore_regs k c) g

theorem State.fenceShut_fences (s : State) (k : Fin 48) (hc : cause < 16) : (s.fenceShut k cause).coreState k = 6 ∧
    (s.fenceShut k cause).get (Fd.ADN_CORE_STAT_fence_cause k) = cause := by
  obtain ⟨state, shown⟩ := s.fenceCore_fences k hc
  have slot (v : Nat) (t : State) {g : Fld} (d : (Fd.ADN_CORE_STAT_slot k).apart g) :
      ((t.put (Fd.ADN_CORE_STAT_slot k) v).setCore k .reset).get g = t.get g :=
    (State.setCore_get _ _ _ _).trans (t.get_put_apart _ _ v (by decide : 22 + 6 ≤ 32) d)
  exact ⟨(slot _ _ (g := Fd.ADN_CORE_STAT_state k) (.inr (.inr (by decide : 22 + 6 ≤ 28)))).trans state,
    (slot _ _ (g := Fd.ADN_CORE_STAT_fence_cause k) (.inr (.inl (by decide : 8 + 4 ≤ 22)))).trans shown⟩

theorem State.fenceShut_regsOff (s : State) (k : Fin 48) (cause : Nat) : (s.fenceShut k cause).regsOff (· ∈ [Reg.ADN_CORE_STAT k]) s := by
  have own : Reg.ADN_CORE_STAT k ∈ [Reg.ADN_CORE_STAT k] := List.mem_singleton.2 rfl
  have written : ((s.fenceCore k cause).put (Fd.ADN_CORE_STAT_slot k) 0x3F).regsOff (· ∈ [Reg.ADN_CORE_STAT k]) s :=
    .put (.put (.put (.rfl' s) (f := Fd.ADN_CORE_STAT_state k) own _) (f := Fd.ADN_CORE_STAT_fence_cause k) own _)
      (f := Fd.ADN_CORE_STAT_slot k) own _
  exact written.of_regs (State.setCore_regs _ _ _)

theorem State.fenceCoreNow_fences (s : State) (k : Fin 48) (hc : cause < 16) : (s.fenceCoreNow k cause).CoreFenced s k cause := by
  obtain ⟨state, shown⟩ := s.fenceShut_fences k hc
  have counts := (s.fenceShut k cause).countCores_regsOff
  rw [State.fenceCoreNow_eq]
  exact ⟨(State.countCores_coreState _ k).trans state, (counts.get (f := Fd.ADN_CORE_STAT_fence_cause k) (coreStat_not_counts k)).trans shown,
    State.countCores_counted _, (counts.mono fun _ => List.mem_cons_of_mem _).trans
      ((s.fenceShut_regsOff k cause).mono fun _ h => List.mem_cons.2 (.inl (List.mem_singleton.1 h)))⟩

theorem State.fenceCoreNow_eccW (s : State) (k : Fin 48) (cause : Nat) : (s.fenceCoreNow k cause).arr.eccW = s.arr.eccW := by
  have shut : (s.fenceShut k cause).arr.eccW = ((s.fenceCore k cause).put (Fd.ADN_CORE_STAT_slot k) 0x3F).arr.eccW := rfl
  rw [State.fenceCoreNow_eq, State.countCores_arr, shut, State.put_arr]
  exact congrArg ArrRt.eccW (RegOnly.fenceCore (.rfl' s) k cause).arr_eq

/-- The record of a fault of a core, below Derate or above, leaves the array's registers. -/
theorem State.record_core (s : State) (code : Nat) {cls : Nat} (hc : cls ≠ 1) (unit : Nat) :
    (s.record Blk.adn code cls unit).Recorded s 9 := s.record_recorded Blk.adn code fun h => absurd h hc

theorem State.CoreFenced.recorded {u : State} (h : t.CoreFenced s k cause) (r : u.Recorded t 9) : u.coreState k = 6 ∧
    u.get (Fd.ADN_CORE_STAT_fence_cause k) = cause ∧ u.coresCounted ∧ u.faultCounted s 9 := by
  have own := not_inFault_array (inArray_coreStat k)
  exact ⟨(r.regs.coreState own).trans h.fenced, (r.regs.get (f := Fd.ADN_CORE_STAT_fence_cause k) own).trans h.cause,
    h.counted.off r.regs fun _ => not_inFault_array,
    r.counted.trans (congrArg (fun n => (n + 1) % 65536) (h.regs.get (f := Fd.FLT_STAT_count 9) (fltStat_not_fenced k)))⟩

end

/-! ## The self-test (R217) -/

section
variable {s : State} {k : Fin 48}

/-- A set that passes is counted, and changes no core's state. -/
theorem State.countSet_counts (s : State) (k : Fin 48) : (s.bump (Fd.ADN_CORE_TEST_sets k)).get (Fd.ADN_CORE_TEST_sets k) =
      (s.get (Fd.ADN_CORE_TEST_sets k) + 1) % 2 ^ (Fd.ADN_CORE_TEST_sets k).len ∧
    (s.bump (Fd.ADN_CORE_TEST_sets k)).regsOff (· ∈ [Reg.ADN_CORE_TEST k]) s :=
  ⟨s.get_bump_same _ (by decide : 0 + 16 ≤ 32), .bump (.rfl' s) (f := Fd.ADN_CORE_TEST_sets k) (List.mem_singleton.2 rfl)⟩

/-- A core that leaves the test becomes IDLE, and the cores are counted. -/
theorem State.coreIdle_counted (t : State) (k : Fin 48) : (t.put (Fd.ADN_CORE_STAT_state k) 1).countCores.coreState k = 1 ∧
    (t.put (Fd.ADN_CORE_STAT_state k) 1).countCores.coresCounted ∧
    (t.put (Fd.ADN_CORE_STAT_state k) 1).countCores.regsOff (· ∈ [Reg.ADN_CORE_STAT k, Reg.ADN_STAT]) t := by
  refine ⟨(State.countCores_coreState _ k).trans ?_, State.countCores_counted _,
    ((State.countCores_regsOff _).mono fun _ => List.mem_cons_of_mem _).trans ?_⟩
  · exact t.get_put_small (Fd.ADN_CORE_STAT_state k) 1 (by decide : 28 + 4 ≤ 32) (by decide : 1 < 2 ^ 4)
  · exact .put (.rfl' t) (f := Fd.ADN_CORE_STAT_state k) List.mem_cons_self _

theorem execCoreTestSetEnd_passes (test : s.coreState k = 5) : ∃ t, execCoreTestSetEnd k true s = .next t ∧
    t.get (Fd.ADN_CORE_TEST_sets k) = (s.get (Fd.ADN_CORE_TEST_sets k) + 1) % 2 ^ (Fd.ADN_CORE_TEST_sets k).len ∧
    (s.flag (Fd.ADN_CORE_TEST_test_run k) = true → t.coreState k = 5) ∧
    (s.flag (Fd.ADN_CORE_TEST_test_run k) = false → t.coreState k = 1 ∧ t.coresCounted) ∧
    t.withinRegs s [Reg.ADN_CORE_TEST k, Reg.ADN_CORE_STAT k, Reg.ADN_STAT] ∧ t.within s [.regs] := by
  have ran : execCoreTestSetEnd k true s = .next (s.testPassed k) := congrArg Host.Outcome.next ((if_pos (by rw [test]; rfl)).trans (if_pos rfl))
  obtain ⟨sets, off⟩ := s.countSet_counts k
  have regs : (s.bump (Fd.ADN_CORE_TEST_sets k)).regsOff (· ∈ [Reg.ADN_CORE_TEST k, Reg.ADN_CORE_STAT k, Reg.ADN_STAT]) s :=
    off.mono fun _ h => List.mem_cons.2 (.inl (List.mem_singleton.1 h))
  have parts : (s.bump (Fd.ADN_CORE_TEST_sets k)).within s [.regs] := .bump (.rfl' s) (by decide) _
  rw [ran]
  refine ⟨_, rfl, ?_⟩
  unfold State.testPassed
  generalize s.bump (Fd.ADN_CORE_TEST_sets k) = u at *
  cases run : s.flag (Fd.ADN_CORE_TEST_test_run k) with
  | true => exact ⟨sets, fun _ => (off.coreState (coreStat_not_test k k)).trans test, nofun, regs.withinRegs, parts⟩
  | false =>
    obtain ⟨idle, counted, counts⟩ := u.coreIdle_counted k
    exact ⟨(counts.get (f := Fd.ADN_CORE_TEST_sets k) (coreTest_not_fenced k)).trans sets, nofun, fun _ => ⟨idle, counted⟩,
      ((counts.mono fun _ => List.mem_cons_of_mem _).trans regs).withinRegs,
      (RegOnly.countCores (.put (.rfl' u) _ _)).within.trans parts⟩

/-- The marks of a mismatch, before the core is fenced. -/
def State.testMarked (s : State) (k : Fin 48) : State := (s.setFlag (Fd.ADN_CORE_TEST_fail k) true).setFlag (Fd.ADN_CORE_TEST_test_run k) false

theorem State.testMarked_marks (s : State) (k : Fin 48) : (s.testMarked k).flag (Fd.ADN_CORE_TEST_fail k) = true ∧
    (s.testMarked k).flag (Fd.ADN_CORE_TEST_test_run k) = false ∧ (s.testMarked k).regsOff (· ∈ [Reg.ADN_CORE_TEST k]) s := by
  have own : Reg.ADN_CORE_TEST k ∈ [Reg.ADN_CORE_TEST k] := List.mem_singleton.2 rfl
  refine ⟨?_, State.flag_setFlag_same _ (Fd.ADN_CORE_TEST_test_run k) false (by decide : 31 + 1 ≤ 32) rfl,
    .setFlag (.setFlag (.rfl' s) (f := Fd.ADN_CORE_TEST_fail k) own _) (f := Fd.ADN_CORE_TEST_test_run k) own _⟩
  exact (State.flag_setFlag_apart _ (Fd.ADN_CORE_TEST_test_run k) (Fd.ADN_CORE_TEST_fail k) false (by decide : 31 + 1 ≤ 32)
    (.inr (.inl (by decide : 30 + 1 ≤ 31)))).trans (s.flag_setFlag_same (Fd.ADN_CORE_TEST_fail k) true (by decide : 30 + 1 ≤ 32) rfl)

theorem execCoreTestSetEnd_fails (test : s.coreState k = 5) : ∃ t, execCoreTestSetEnd k false s = .next t ∧ t.coreState k = 6 ∧
    t.get (Fd.ADN_CORE_STAT_fence_cause k) = 2 ∧ t.flag (Fd.ADN_CORE_TEST_fail k) = true ∧ t.flag (Fd.ADN_CORE_TEST_test_run k) = false ∧
    t.coresCounted ∧ t.faultCounted s 9 ∧ (∀ i : Fin 48, i ≠ k → t.coreState i = s.coreState i) ∧
    t.within s [.regs, .hmp, .zfb, .wgl, .arr, .flt, .pins] := by
  have ran : execCoreTestSetEnd k false s = .next (((s.testMarked k).fenceCoreNow k 2).record Blk.adn 0x11 2 (0xA00 + k)) :=
    congrArg Host.Outcome.next ((if_pos (by rw [test]; rfl)).trans (if_neg (by decide)))
  have parts := (CoreEnd.execCoreTestSetEnd_keeps (.rfl' s) k false _ ran).within
  obtain ⟨fail, run, marks⟩ := s.testMarked_marks k
  have fenced := (s.testMarked k).fenceCoreNow_fences k (cause := 2) (by decide)
  have recorded := ((s.testMarked k).fenceCoreNow k 2).record_core 0x11 (cls := 2) (by decide) (0xA00 + k)
  obtain ⟨state, cause, counted, count⟩ := fenced.recorded recorded
  have flags (f : Fld) (hf : f.addr = Reg.ADN_CORE_TEST k) :
      (((s.testMarked k).fenceCoreNow k 2).record Blk.adn 0x11 2 (0xA00 + k)).flag f = (s.testMarked k).flag f :=
    (recorded.regs.flag (hf ▸ not_inFault_array (inArray_coreTest k))).trans (fenced.regs.flag (hf ▸ coreTest_not_fenced k))
  have others (i : Fin 48) (hi : i ≠ k) : (((s.testMarked k).fenceCoreNow k 2).record Blk.adn 0x11 2 (0xA00 + k)).coreState i = s.coreState i :=
    (recorded.regs.coreState (not_inFault_array (inArray_coreStat i))).trans
      ((fenced.regs.coreState (coreStat_not_fenced hi)).trans (marks.coreState (coreStat_not_test i k)))
  have faults := congrArg (fun n => (n + 1) % 65536) (marks.get (f := Fd.FLT_STAT_count 9) (fltStat_not_test k))
  exact ⟨_, ran, state, cause, (flags _ rfl).trans fail, (flags _ rfl).trans run, counted, count.trans faults, others, parts⟩

end

/-! ## The scrubber (R202, R204) -/

section
variable {s : State} {k : Fin 48}

theorem execScrubWord_runs (on : s.flag Fd.ADN_CTRL_scrub_en = true) (up : s.computeDown = false) :
    execScrubWord s = .next ((s.arr.eccW.filter s.scrubHit).foldl State.weightWord s.scrubOn) :=
  congrArg Host.Outcome.next (if_pos (by rw [on, up]; rfl))

theorem State.scrubOn_regs (s : State) : s.scrubOn.regs = s.regs := rfl

/-- Where no flipped word stands, the scrubber goes on and no more. -/
theorem State.scrubOn_clean (clean : ∀ e ∈ s.arr.eccW, s.scrubHit e = false) :
    s.scrubOn = { s with arr := { s.arr with scrub := (s.arr.scrub + 1) % 131072 } } := by
  have rest : (s.arr.eccW.filter fun e => !s.scrubHit e) = s.arr.eccW := List.filter_eq_self.2 fun e he => by rw [clean e he]; rfl
  unfold State.scrubOn
  rw [rest]

theorem execScrubWord_clean (on : s.flag Fd.ADN_CTRL_scrub_en = true) (up : s.computeDown = false)
    (clean : ∀ e ∈ s.arr.eccW, s.scrubHit e = false) :
    execScrubWord s = .next { s with arr := { s.arr with scrub := (s.arr.scrub + 1) % 131072 } } := by
  rw [execScrubWord_runs on up, List.filter_eq_nil_iff.2 fun e he => by rw [clean e he]; decide, s.scrubOn_clean clean]
  rfl

/-- The one flipped word that stands where the scrubber is, in a core that holds its weights, is met. -/
theorem execScrubWord_hits (on : s.flag Fd.ADN_CTRL_scrub_en = true) (up : s.computeDown = false) {n : Nat}
    (word : s.arr.eccW = [(k.val, s.arr.scrub, n)]) (low : 2 ≤ s.coreState k) (high : s.coreState k ≤ 4) :
    execScrubWord s = .next (s.scrubOn.weightWord (k.val, s.arr.scrub, n)) ∧ s.scrubOn.arr.eccW = [] ∧
      s.scrubOn.arr.scrub = (s.arr.scrub + 1) % 131072 := by
  have hit : s.scrubHit (k.val, s.arr.scrub, n) = true := by simp [State.scrubHit, low, high]
  refine ⟨?_, ?_, rfl⟩
  · rw [execScrubWord_runs on up, word, List.filter_cons_of_pos hit]
    rfl
  · change (s.arr.eccW.filter fun e => !s.scrubHit e) = []
    rw [word, List.filter_cons_of_neg (by rw [hit]; decide)]
    rfl

/-- One wrong bit: it is counted at its core, before it is recorded. -/
def State.wordCorrected (s : State) (k : Fin 48) : State := (s.bumpSat (Fd.ADN_CORE_STAT_ce_count k)).bump Fd.ADN_ECC_STAT_corrected

theorem State.weightWord_one (s : State) (k : Fin 48) (w : Nat) :
    s.weightWord (k.val, w, 1) = (s.wordCorrected k).record Blk.adn 0x13 0 (0xA00 + k) := (dif_pos k.isLt).trans (if_pos (le_refl 1))

theorem State.weightWord_two (s : State) (k : Fin 48) (w : Nat) :
    s.weightWord (k.val, w, 2) = ((s.bumpSat Fd.ADN_ECC_STAT_uncorr_w).fenceCoreNow k 1).record Blk.adn 0x10 2 (0xA00 + k) :=
  (dif_pos k.isLt).trans (if_neg (by decide : ¬2 ≤ 1))

/-- One wrong bit is corrected and counted, and its core stands as it was. -/
theorem State.weightWord_corrects (s : State) (k : Fin 48) (w : Nat) : (s.weightWord (k.val, w, 1)).arr = s.arr ∧
    (s.weightWord (k.val, w, 1)).get Fd.ADN_ECC_STAT_corrected = (s.get Fd.ADN_ECC_STAT_corrected + 1) % 65536 ∧
    (s.weightWord (k.val, w, 1)).coreState k = s.coreState k ∧ (s.weightWord (k.val, w, 1)).faultCounted s 9 := by
  have recorded := (s.wordCorrected k).record_core 0x13 (cls := 0) (by decide) (0xA00 + k)
  have counted := (s.bumpSat (Fd.ADN_CORE_STAT_ce_count k)).get_bump_same Fd.ADN_ECC_STAT_corrected (by decide)
  have core {f : Fld} (h : f.addr ≠ Reg.ADN_CORE_STAT k) : (s.bumpSat (Fd.ADN_CORE_STAT_ce_count k)).get f = s.get f := s.get_put_reg _ _ _ h
  have ecc : Reg.ADN_ECC_STAT ≠ Reg.ADN_CORE_STAT k := fun e => eccStat_not_fenced k (List.mem_cons.2 (.inl e))
  have flt : Reg.FLT_STAT 9 ≠ Reg.ADN_CORE_STAT k := fun e => fltStat_not_fenced k (List.mem_cons.2 (.inl e))
  have state : (s.wordCorrected k).coreState k = s.coreState k :=
    (State.get_bump_apart _ Fd.ADN_ECC_STAT_corrected (Fd.ADN_CORE_STAT_state k) (by decide) (.inl ecc.symm)).trans
      (s.get_put_apart (Fd.ADN_CORE_STAT_ce_count k) (Fd.ADN_CORE_STAT_state k) _ (by decide : 0 + 8 ≤ 32) (.inr (.inr (by decide : 0 + 8 ≤ 28))))
  have faults : (s.wordCorrected k).get (Fd.FLT_STAT_count 9) = s.get (Fd.FLT_STAT_count 9) :=
    (State.get_bump_clear _ (by decide)).trans (core flt)
  rw [State.weightWord_one]
  refine ⟨?_, ?_, (recorded.regs.coreState (not_inFault_array (inArray_coreStat k))).trans state,
    recorded.counted.trans (congrArg (fun n => (n + 1) % 65536) faults)⟩
  · rw [State.record_arr, State.wordCorrected, State.bump_arr, State.bumpSat_arr]
  · rw [recorded.regs.get (not_inFault_array inArray_eccStat), State.wordCorrected, counted, core ecc]
    rfl

/-- Two wrong bits fence their core with cause ECC_W. -/
theorem State.weightWord_fences (s : State) (k : Fin 48) (w : Nat) : (s.weightWord (k.val, w, 2)).arr.eccW = s.arr.eccW ∧
    (s.weightWord (k.val, w, 2)).coreState k = 6 ∧ (s.weightWord (k.val, w, 2)).get (Fd.ADN_CORE_STAT_fence_cause k) = 1 ∧
    (s.weightWord (k.val, w, 2)).get Fd.ADN_ECC_STAT_uncorr_w = min (s.get Fd.ADN_ECC_STAT_uncorr_w + 1) 255 ∧
    (s.weightWord (k.val, w, 2)).coresCounted ∧ (s.weightWord (k.val, w, 2)).faultCounted s 9 := by
  have fenced := (s.bumpSat Fd.ADN_ECC_STAT_uncorr_w).fenceCoreNow_fences k (cause := 1) (by decide)
  have recorded := ((s.bumpSat Fd.ADN_ECC_STAT_uncorr_w).fenceCoreNow k 1).record_core 0x10 (cls := 2) (by decide) (0xA00 + k)
  obtain ⟨state, cause, counted, count⟩ := fenced.recorded recorded
  have faults : (s.bumpSat Fd.ADN_ECC_STAT_uncorr_w).get (Fd.FLT_STAT_count 9) = s.get (Fd.FLT_STAT_count 9) := s.get_bumpSat_clear (by decide)
  rw [State.weightWord_two]
  refine ⟨?_, state, cause, ?_, counted, count.trans (congrArg (fun n => (n + 1) % 65536) faults)⟩
  · rw [State.record_arr, State.fenceCoreNow_eccW, State.bumpSat_arr]
  · rw [recorded.regs.get (not_inFault_array inArray_eccStat), fenced.regs.get (eccStat_not_fenced k), State.get_bumpSat_same _ _ (by decide)]
    rfl

end

/-- Settles O27: a set of the test and a word of the scrubber each end in one core's marks, in its fence, and in the counts. That one word counter
serves the scrubbing of all cores is log entry 81. -/
theorem coresAreTestedAndScrubbed : Obligations.CoresAreTestedAndScrubbed := by
  refine ⟨fun k s test => ⟨execCoreTestSetEnd_passes test, execCoreTestSetEnd_fails test⟩,
    fun s on up => ⟨execScrubWord_clean on up, fun k word low high => ?_, fun k word low high => ?_⟩⟩
  all_goals
    obtain ⟨ran, words, next⟩ := execScrubWord_hits on up word low high
    have same (f : Fld) : s.scrubOn.get f = s.get f := State.get_congr s.scrubOn_regs f
    have faults := congrArg (fun n => (n + 1) % 65536) (same (Fd.FLT_STAT_count 9))
  · obtain ⟨arr, corrected, state, count⟩ := s.scrubOn.weightWord_corrects k s.arr.scrub
    rw [same] at corrected
    exact ⟨_, ran, (congrArg ArrRt.eccW arr).trans words, (congrArg ArrRt.scrub arr).trans next, corrected, state.trans (same _),
      count.trans faults⟩
  · obtain ⟨eccW, state, cause, uncorrected, counted, count⟩ := s.scrubOn.weightWord_fences k s.arr.scrub
    rw [same] at uncorrected
    exact ⟨_, ran, eccW.trans words, state, cause, uncorrected, counted, count.trans faults⟩

end Sys2Proof.Machine
end

section
/-! Chapters 07 and 08: the loading of cores, and the end of a basket's pass (R207, R208, R218, R233, R236). -/

namespace Sys2Proof.Machine

/-! ## The registers of the array and of the baskets -/

/-- An address of the baskets' block before its fault window. -/
def inBaskets (a : Nat) : Prop := 0x400A0000 ≤ a ∧ a < 0x400A7F00

/-- An address at which the array and the baskets show their state. -/
def inScheduler (a : Nat) : Prop := inArray a ∨ inBaskets a

theorem inScheduler_slot (i : Fin 32) : inScheduler (Reg.MDL_SLOT_STAT i) ∧ inScheduler (Reg.MDL_SLOT_CORES_LO i) ∧
    inScheduler (Reg.MDL_SLOT_CORES_HI i) ∧ inScheduler (Reg.MDL_SLOT_CYC i) := by
  have hi := i.isLt
  unfold inScheduler inBaskets Reg.MDL_SLOT_STAT Reg.MDL_SLOT_CORES_LO Reg.MDL_SLOT_CORES_HI Reg.MDL_SLOT_CYC
  omega

theorem inScheduler_bank {q : Nat} (hq : q < 4) : inScheduler (Reg.ADN_BANK_STAT q) := by
  unfold inScheduler inArray Reg.ADN_BANK_STAT
  omega

theorem not_inScheduler_fltStat (b : Fin 18) : ¬inScheduler (Reg.FLT_STAT b) := by
  unfold inScheduler inArray inBaskets Reg.FLT_STAT
  omega

theorem not_inFault_baskets {a : Nat} (h : inBaskets a) : ¬inFault 10 a := by
  intro fault
  unfold inBaskets at h
  unfold inFault inWindow inSafe Reg.STL_LANE_STAT Reg.WGL_LINK_STAT Reg.LKS_LOCK_STAT Reg.LKS_STAT Reg.LKS_DUMP_STAT at fault
  omega

theorem inBaskets_slotStat (i : Fin 32) : inBaskets (Reg.MDL_SLOT_STAT i) := by
  have hi := i.isLt
  unfold inBaskets Reg.MDL_SLOT_STAT
  omega

/-- The counts that the baskets' block shows, and those of the array. -/
def countRegs : List Nat :=
  [Reg.MDL_STAT, Reg.MDL_MEM_STAT, Reg.ADN_BANK_STAT 0, Reg.ADN_BANK_STAT 1, Reg.ADN_BANK_STAT 2, Reg.ADN_BANK_STAT 3, Reg.ADN_STAT]

theorem slotStat_not_count (i : Nat) : Reg.MDL_SLOT_STAT i ∉ countRegs := by
  simp only [countRegs, Reg.MDL_SLOT_STAT, Reg.MDL_STAT, Reg.MDL_MEM_STAT, Reg.ADN_BANK_STAT, Reg.ADN_STAT, List.mem_cons, List.not_mem_nil, or_false]
  omega

theorem inScheduler_count {a : Nat} (h : a ∈ countRegs) : inScheduler a := by
  simp only [countRegs, Reg.MDL_STAT, Reg.MDL_MEM_STAT, Reg.ADN_BANK_STAT, Reg.ADN_STAT, List.mem_cons, List.not_mem_nil, or_false] at h
  unfold inScheduler inArray inBaskets
  omega

section
variable {s t : State} {P : Nat → Prop}

theorem State.within.countCores {l : List Part} (h : t.within s l) (hl : .regs ∈ l) : t.countCores.within s l :=
  ((RegOnly.countCores (.rfl' t)).within.mono fun _ hp => List.mem_singleton.1 hp ▸ hl).trans h

/-! ## What a slot shows -/

theorem State.mdlCounts_regsOff (s : State) : s.mdlCounts.regsOff (· ∈ countRegs) s := by
  unfold State.mdlCounts
  extract_lets a b c d e
  have start : s.regsOff (· ∈ countRegs) s := .rfl' s
  have counted : e.regsOff (· ∈ countRegs) s := (((((start.put (by decide) _ : a.regsOff _ s).put (by decide) _ : b.regsOff _ s).put (by decide) _ :
    c.regsOff _ s).put (by decide) _ : d.regsOff _ s).put (by decide) _)
  clear_value e
  refine ((State.countCores_regsOff _).mono fun a ha => ?_).trans (.each (fun q hq u hu => hu.put ?_ _) counted)
  · rw [List.mem_singleton.1 ha]
    decide
  · interval_cases q <;> decide

theorem State.mdlCounts_within (s : State) : s.mdlCounts.within s [.regs] := by
  unfold State.mdlCounts
  extract_lets a b c d e
  have start : s.within s [.regs] := .rfl' s
  have counted : e.within s [.regs] := (((((start.put (by decide) _ _ : a.within s _).put (by decide) _ _ : b.within s _).put (by decide) _ _ :
    c.within s _).put (by decide) _ _ : d.within s _).put (by decide) _ _)
  clear_value e
  exact .countCores (.foldl (fun q u hu => hu.put (by decide) _ _) counted) (by decide)

theorem State.slotState_mdlCounts (s : State) (i : Nat) : s.mdlCounts.slotState i = s.slotState i :=
  s.mdlCounts_regsOff.get (f := Fd.MDL_SLOT_STAT_state i) (slotStat_not_count i)

theorem State.slotRegs_regsOff (s : State) (i : Fin 32) : (s.slotRegs i).regsOff inScheduler s := by
  obtain ⟨stat, lo, hi, cyc⟩ := inScheduler_slot i
  exact .setFlag (.put (.put64 (.put (.put (.rfl' s) (f := Fd.MDL_SLOT_STAT_n_cores i) stat _) (f := Fd.MDL_SLOT_STAT_level_floor i) stat _) lo hi _)
    (f := Fd.MDL_SLOT_CYC_decl_cycles i) cyc _) (f := Fd.MDL_SLOT_STAT_standard i) stat _

theorem State.slotRegs_within (s : State) (i : Fin 32) : (s.slotRegs i).within s [.regs] :=
  .setFlag (.put (.put64 (.put (.put (.rfl' s) (by decide) _ _) (by decide) _ _) (by decide) _ _ _) (by decide) _ _) (by decide) _ _

/-- The slot's other registers and fields leave its state. -/
theorem State.slotState_slotRegs (s : State) (i : Fin 32) : (s.slotRegs i).slotState i = s.slotState i := by
  have stat {f : Fld} (h : f.lo + f.len ≤ 28) (t : State) (v : Nat) :
      (t.put f v).slotState i = t.slotState i := t.get_put_apart f (Fd.MDL_SLOT_STAT_state i) v (by omega) (.inr (.inr h))
  have word {a : Nat} (h : Reg.MDL_SLOT_STAT i ≠ a) (t : State) (w : Word) : (t.wr a w).slotState i = t.slotState i := t.get_wr_other a w _ h
  unfold State.slotRegs
  extract_lets x cores mask es cyc t u
  have counted : t.slotState i = s.slotState i := (stat (f := Fd.MDL_SLOT_STAT_level_floor i) (by decide : 17 + 3 ≤ 28) _ _).trans
    (stat (f := Fd.MDL_SLOT_STAT_n_cores i) (by decide : 20 + 6 ≤ 28) _ _)
  have shown : u.slotState i = t.slotState i := (stat (f := Fd.MDL_SLOT_CYC_decl_cycles i) (by decide : 0 + 21 ≤ 28) _ _).trans
    ((word (by unfold Reg.MDL_SLOT_STAT Reg.MDL_SLOT_CORES_HI; omega) _ _).trans
      (word (by unfold Reg.MDL_SLOT_STAT Reg.MDL_SLOT_CORES_LO; omega) _ _))
  exact (stat (f := Fd.MDL_SLOT_STAT_standard i) (by decide : 12 + 1 ≤ 28) _ _).trans (shown.trans counted)

/-! ## A slot leaves the array -/

theorem State.slot_setSlot_same (s : State) (i : Fin 32) (x : SlotRt) : (s.setSlot i x).slot i = x := vget_vset_same _ _ _

theorem State.slot_setSlot_other (s : State) {i j : Fin 32} (h : j ≠ i) (x : SlotRt) : (s.setSlot i x).slot j = s.slot j := vget_vset_other _ _ h

@[simp] theorem State.slot_put (s : State) (f : Fld) (v : Nat) (i : Fin 32) : (s.put f v).slot i = s.slot i := by
  unfold State.slot
  rw [State.put_arr]

theorem State.regsOff.setSlot (h : t.regsOff P s) (i : Fin 32) (x : SlotRt) : (t.setSlot i x).regsOff P s := .upd h rfl

theorem State.regsOff.freeCore (h : t.regsOff inScheduler s) (k : Fin 48) : (t.freeCore k).regsOff inScheduler s :=
  .upd ((h.put (f := Fd.ADN_CORE_STAT_state k) (.inl (inArray_coreStat k)) _).put (f := Fd.ADN_CORE_STAT_slot k) (.inl (inArray_coreStat k)) _) rfl

/-- The slot's cores are freed: only what the array and the baskets show may change. -/
theorem State.releaseSlot_regsOff (s : State) (i : Fin 32) : (s.releaseSlot i).regsOff inScheduler s := by
  refine .setSlot (.foldl (fun c _ u hu => ?_) (.rfl' s)) i _
  cases c with
  | none => exact hu
  | some k =>
    dsimp only
    split
    · exact .ite (fun _ => hu.freeCore _) fun _ => hu
    · exact hu

theorem State.releaseSlot_cores (s : State) (i : Fin 32) : ((s.releaseSlot i).slot i).cores = [] :=
  congrArg SlotRt.cores (State.slot_setSlot_same _ i _)

/-- A slot that leaves the array stands in its new state, without cores. -/
theorem State.leaveSlot_leaves (s : State) (i : Fin 32) {st : Nat} (hst : st < 16) : (s.leaveSlot i st).slotState i = st ∧
    ((s.leaveSlot i st).slot i).cores = [] ∧ (s.leaveSlot i st).regsOff inScheduler s := by
  obtain ⟨stat, -⟩ := inScheduler_slot i
  unfold State.leaveSlot
  have named := (s.releaseSlot i).get_put_small (Fd.MDL_SLOT_STAT_state i) st (by decide : 28 + 4 ≤ 32) hst
  have off : ((s.releaseSlot i).put (Fd.MDL_SLOT_STAT_state i) st).regsOff inScheduler s :=
    (s.releaseSlot_regsOff i).put (f := Fd.MDL_SLOT_STAT_state i) stat _
  have freed : (((s.releaseSlot i).put (Fd.MDL_SLOT_STAT_state i) st).slot i).cores = [] := by
    rw [State.slot_put]
    exact s.releaseSlot_cores i
  generalize (s.releaseSlot i).put (Fd.MDL_SLOT_STAT_state i) st = t at *
  have parts : (((t.slotRegs i).put (Fd.MDL_SLOT_STAT_overrun_run i) 0).mdlCounts).within t [.regs] :=
    (State.mdlCounts_within _).trans ((t.slotRegs_within i).put (by decide) _ _)
  have arr : (((t.slotRegs i).put (Fd.MDL_SLOT_STAT_overrun_run i) 0).mdlCounts).arr = t.arr := parts .arr (by decide)
  refine ⟨?_, ?_, ?_⟩
  · rw [State.slotState_mdlCounts]
    exact (State.get_put_apart _ (Fd.MDL_SLOT_STAT_overrun_run i) (Fd.MDL_SLOT_STAT_state i) 0 (by decide : 14 + 2 ≤ 32)
      (.inr (.inr (by decide : 14 + 2 ≤ 28)))).trans ((t.slotState_slotRegs i).trans named)
  · unfold State.slot
    rw [arr]
    exact freed
  · exact ((State.mdlCounts_regsOff _).mono fun _ => inScheduler_count).trans
      ((((t.slotRegs_regsOff i).trans off).put (f := Fd.MDL_SLOT_STAT_overrun_run i) stat _))

/-! ## Loading (R233) -/

/-- A slot in quarantine (R236): its state and cores, and the fault. -/
theorem State.quarantine_ends (s : State) (i : Fin 32) : (s.quarantine i).slotState i = 5 ∧ ((s.quarantine i).slot i).cores = [] ∧
    (s.quarantine i).faultCounted s 10 := by
  obtain ⟨state, cores, off⟩ := s.leaveSlot_leaves i (st := 5) (by decide)
  have recorded : (s.quarantine i).Recorded (s.leaveSlot i 5) 10 :=
    (s.leaveSlot i 5).record_recorded Blk.mdl 0x10 (cls := 2) (unit := 0xB00 + i) nofun
  have arr : (s.quarantine i).arr = (s.leaveSlot i 5).arr := State.record_arr _ _ _ _ _
  have faults := congrArg (fun n => (n + 1) % 65536) (off.get (f := Fd.FLT_STAT_count 10) (not_inScheduler_fltStat 10))
  refine ⟨(recorded.regs.get (f := Fd.MDL_SLOT_STAT_state i) (not_inFault_baskets (inBaskets_slotStat i))).trans state, ?_, recorded.counted.trans faults⟩
  unfold State.slot
  rw [arr]
  exact cores

/-- A refusal is shown, and no other register changes (Table 08-10). -/
theorem State.refuseMdl_shows (s : State) {i cause : Nat} (hi : i < 64) (hc : cause < 16) : (s.refuseMdl i cause).get Fd.MDL_REFUSE_slot = i ∧
    (s.refuseMdl i cause).get Fd.MDL_REFUSE_cause = cause ∧ (s.refuseMdl i cause).regsOff (· ∈ [Reg.MDL_REFUSE]) s := by
  refine ⟨?_, State.get_put_small _ Fd.MDL_REFUSE_cause cause (by decide) hc, .put (.put (.rfl' s) (by decide) _) (by decide) _⟩
  exact (State.get_put_clear _ _ (by decide)).trans (s.get_put_small Fd.MDL_REFUSE_slot i (by decide) hi)

theorem slotStat_not_refuse (i : Nat) : Reg.MDL_SLOT_STAT i ∉ [Reg.MDL_REFUSE] := by
  simp only [Reg.MDL_SLOT_STAT, Reg.MDL_REFUSE, List.mem_cons, List.not_mem_nil, or_false]
  omega

@[simp] theorem State.core_put (s : State) (f : Fld) (v : Nat) (k : Fin 48) : (s.put f v).core k = s.core k := by
  unfold State.core
  rw [State.put_arr]

/-- A good section: the core is BOUND. -/
theorem State.coreBound_binds (s : State) (k : Fin 48) : (s.coreBound k).coreState k = 3 ∧ ((s.coreBound k).core k).loaded = true ∧
    (s.coreBound k).coresCounted ∧ (∀ j : Fin 48, j ≠ k → (s.coreBound k).coreState j = s.coreState j ∧ (s.coreBound k).core j = s.core j) ∧
    (s.coreBound k).within s [.regs, .arr] := by
  have bound : s.coreBound k = ((s.put (Fd.ADN_CORE_STAT_state k) 3).setCore k { s.core k with loaded := true }).countCores := rfl
  have core (j : Fin 48) : (s.coreBound k).core j = ((s.put (Fd.ADN_CORE_STAT_state k) 3).setCore k { s.core k with loaded := true }).core j :=
    congrArg (fun x : ArrRt => vget x.cores j) (State.countCores_arr _)
  have state (j : Fin 48) : (s.coreBound k).coreState j = (s.put (Fd.ADN_CORE_STAT_state k) 3).coreState j := by
    rw [bound, State.countCores_coreState]
    exact State.setCore_get _ _ _ _
  refine ⟨(state k).trans ?_, ?_, State.countCores_counted _, fun j hj => ⟨(state j).trans ?_, (core j).trans ((vget_vset_other _ _ hj).trans (s.core_put _ _ j))⟩, ?_⟩
  · exact s.get_put_small (Fd.ADN_CORE_STAT_state k) 3 (by decide : 28 + 4 ≤ 32) (by decide : 3 < 2 ^ 4)
  · rw [core k]
    exact congrArg CoreRt.loaded (vget_vset_same _ _ _)
  · exact s.get_put_reg (Fd.ADN_CORE_STAT_state k) (Fd.ADN_CORE_STAT_state j) 3 fun e => hj (by
      simp only [Fd.ADN_CORE_STAT_state, Reg.ADN_CORE_STAT] at e
      omega)
  · exact .countCores (((State.within_arr _ _).mono (by decide)).trans (.put (.rfl' s) (by decide) _ _)) (by decide)

theorem execCoreLoaded_good {k : Fin 48} (loading : s.coreState k = 2) : execCoreLoaded k true s = .next (s.coreBound k) :=
  congrArg Host.Outcome.next ((if_pos (by rw [loading]; rfl)).trans (if_pos rfl))

/-- A bad section quarantines the basket, with cause LOAD. -/
theorem execCoreLoaded_bad {k : Fin 48} {n : Fin 32} (loading : s.coreState k = 2) (slot : s.get (Fd.ADN_CORE_STAT_slot k) = n) :
    ∃ t, execCoreLoaded k false s = .next t ∧ t.slotState n = 5 ∧ (t.slot n).cores = [] ∧ t.get Fd.MDL_REFUSE_slot = n ∧
      t.get Fd.MDL_REFUSE_cause = 0xA ∧ t.faultCounted s 10 ∧ t.within s [.regs, .hmp, .zfb, .wgl, .arr, .flt, .pins] := by
  have ran : execCoreLoaded k false s = .next ((s.quarantine n).refuseMdl n 0xA) := by
    refine congrArg Host.Outcome.next ((if_pos (by rw [loading]; rfl)).trans ((if_neg (by decide)).trans ?_))
    rw [slot]
    exact dif_pos n.isLt
  have parts := (CoreEnd.execCoreLoaded_keeps (.rfl' s) k false _ ran).within
  obtain ⟨state, cores, faults⟩ := s.quarantine_ends n
  obtain ⟨named, cause, off⟩ := (s.quarantine n).refuseMdl_shows (i := n) (cause := 0xA) (by omega) (by decide)
  have arr : ((s.quarantine n).refuseMdl n 0xA).arr = (s.quarantine n).arr := (RegOnly.refuseMdl (.rfl' _) _ _).arr_eq
  refine ⟨_, ran, (off.get (f := Fd.MDL_SLOT_STAT_state n) (slotStat_not_refuse n)).trans state, ?_, named, cause,
    (off.get (f := Fd.FLT_STAT_count 10) (by decide)).trans faults, parts⟩
  unfold State.slot
  rw [arr]
  exact cores

/-! ## The end of a pass (R207, R208, R236) -/

theorem State.leavePass_slots (s : State) (k : Fin 48) : (s.leavePass k).arr.slots = s.arr.slots := by
  unfold State.leavePass
  split
  · have shut : (s.fenceShut k 3).arr.slots = ((s.fenceCore k 3).put (Fd.ADN_CORE_STAT_slot k) 0x3F).arr.slots := rfl
    rw [State.fenceCoreNow_eq, State.countCores_arr, shut, State.put_arr, (RegOnly.fenceCore (.rfl' s) k 3).arr_eq]
    rfl
  · split
    · rw [State.put_arr]
    · rfl

/-- A core that leaves a pass changes what its status and the counts show. -/
theorem State.leavePass_regsOff (s : State) (k : Fin 48) : (s.leavePass k).regsOff (· ∈ [Reg.ADN_CORE_STAT k, Reg.ADN_STAT]) s :=
  .ite (fun _ => (s.fenceCoreNow_fences k (cause := 3) (by decide)).regs) fun _ =>
    .ite (fun _ => .put (.rfl' s) (f := Fd.ADN_CORE_STAT_state k) List.mem_cons_self _) fun _ => .rfl' s

theorem coreCyc_not_status (i k : Fin 48) : Reg.ADN_CORE_CYC i ∉ [Reg.ADN_CORE_STAT k, Reg.ADN_STAT] := by
  simp only [Reg.ADN_CORE_CYC, Reg.ADN_CORE_STAT, Reg.ADN_STAT, List.mem_cons, List.not_mem_nil, or_false]
  omega

theorem inArray_coreCyc (k : Fin 48) : inArray (Reg.ADN_CORE_CYC k) := by
  have hk := k.isLt
  unfold inArray Reg.ADN_CORE_CYC
  omega

theorem State.corePass_some (s : State) (k : Fin 48) (c : Nat) :
    s.corePass (some k.val, c) = (s.put (Fd.ADN_CORE_CYC_cycles k) (min (2 ^ 21 - 1) c)).leavePass k := dif_pos k.isLt

/-- What an entry of a pass does: nothing, where it names no core of the array, or else its core shows the cycles and leaves the pass. -/
theorem State.corePass_cases (s : State) (e : Option Nat × Nat) :
    s.corePass e = s ∨ ∃ k : Fin 48, e = (some k.val, e.2) ∧ s.corePass e = (s.put (Fd.ADN_CORE_CYC_cycles k) (min (2 ^ 21 - 1) e.2)).leavePass k := by
  obtain ⟨c, n⟩ := e
  cases c with
  | none => exact .inl rfl
  | some k =>
    by_cases hk : k < 48
    · exact .inr ⟨⟨k, hk⟩, rfl, s.corePass_some ⟨k, hk⟩ n⟩
    · exact .inl (dif_neg hk)

theorem State.corePass_slots (s : State) (e : Option Nat × Nat) : (s.corePass e).arr.slots = s.arr.slots := by
  rcases s.corePass_cases e with same | ⟨k, -, ran⟩
  · rw [same]
  · rw [ran, State.leavePass_slots, State.put_arr]

theorem State.corePasses_slots (l : List (Option Nat × Nat)) (s : State) : (l.foldl State.corePass s).arr.slots = s.arr.slots := by
  induction l generalizing s with
  | nil => rfl
  | cons e l ih => exact (ih _).trans (s.corePass_slots e)

/-- The cycles that a core shows, of its own. -/
theorem State.corePass_cycles (s : State) (k : Fin 48) (c : Nat) : (s.corePass (some k.val, c)).get (Fd.ADN_CORE_CYC_cycles k) = min (2 ^ 21 - 1) c := by
  rw [State.corePass_some]
  exact ((State.leavePass_regsOff _ k).get (f := Fd.ADN_CORE_CYC_cycles k) (coreCyc_not_status k k)).trans
    (s.get_put_small (Fd.ADN_CORE_CYC_cycles k) _ (by decide : 0 + 21 ≤ 32) (by change _ < 2 ^ 21; omega))

/-- An entry of another core leaves them. -/
theorem State.corePass_cycles_other (s : State) {k : Fin 48} {e : Option Nat × Nat} (h : e.1 ≠ some k.val) :
    (s.corePass e).get (Fd.ADN_CORE_CYC_cycles k) = s.get (Fd.ADN_CORE_CYC_cycles k) := by
  rcases s.corePass_cases e with same | ⟨i, named, ran⟩
  · rw [same]
  · have ne : k ≠ i := fun eq => h (by rw [named, eq])
    rw [ran]
    refine ((State.leavePass_regsOff _ i).get (f := Fd.ADN_CORE_CYC_cycles k) (coreCyc_not_status k i)).trans
      (s.get_put_reg (Fd.ADN_CORE_CYC_cycles i) (Fd.ADN_CORE_CYC_cycles k) _ fun eq => ne ?_)
    simp only [Fd.ADN_CORE_CYC_cycles, Reg.ADN_CORE_CYC] at eq
    omega

theorem State.corePasses_cycles_other {k : Fin 48} (l : List (Option Nat × Nat)) (h : some k.val ∉ l.map Prod.fst) (s : State) :
    (l.foldl State.corePass s).get (Fd.ADN_CORE_CYC_cycles k) = s.get (Fd.ADN_CORE_CYC_cycles k) := by
  induction l generalizing s with
  | nil => rfl
  | cons e l ih =>
    obtain ⟨head, tail⟩ := not_or.1 (List.mem_cons.not.1 h)
    exact (ih tail _).trans (s.corePass_cycles_other fun eq => head eq.symm)

/-- Each core of a pass that names it once shows its own cycles. -/
theorem State.corePasses_cycles {k : Fin 48} {c : Nat} (l : List (Option Nat × Nat)) (once : (l.map Prod.fst).Nodup) (mem : (some k.val, c) ∈ l)
    (s : State) : (l.foldl State.corePass s).get (Fd.ADN_CORE_CYC_cycles k) = min (2 ^ 21 - 1) c := by
  induction l generalizing s with
  | nil => exact absurd mem List.not_mem_nil
  | cons e l ih =>
    obtain ⟨fresh, once⟩ := List.nodup_cons.1 once
    rcases List.mem_cons.1 mem with rfl | mem
    · exact (State.corePasses_cycles_other l fresh _).trans (s.corePass_cycles k c)
    · exact ih once mem _

/-- The reads of the activation SRAM leave a slot as it was, but for the mark that spoils the pass of `i`. -/
def State.readsFor (t s : State) (i : Fin 32) : Prop :=
  (∀ j, j ≠ i → t.slot j = s.slot j) ∧ { t.slot i with spoilt := (s.slot i).spoilt } = s.slot i ∧ t.regsOff (fun a => a = Reg.ADN_ECC_STAT ∨ inFault 9 a) s

theorem State.readsFor.rfl' (s : State) (i : Fin 32) : s.readsFor s i := ⟨fun _ _ => rfl, rfl, .rfl' s⟩

/-- A record of the array, and the count before it. -/
theorem State.readsFor.recorded {i : Fin 32} {r : State} (h : t.readsFor s i) (f : Fld) (hf : f.addr = Reg.ADN_ECC_STAT) (v : Nat) {cls : Nat}
    (hc : cls ≠ 1) (code : Nat) (e : r = (t.put f v).record Blk.adn code cls 0) : r.readsFor s i := by
  obtain ⟨others, own, off⟩ := h
  have slots (j : Fin 32) : r.slot j = t.slot j := by
    unfold State.slot
    rw [e, State.record_arr, State.put_arr]
  refine ⟨fun j hj => (slots j).trans (others j hj), by rw [slots]; exact own, ?_⟩
  rw [e]
  exact (((t.put f v).record_core code hc 0).regs.mono fun _ => Or.inr).trans (off.put (.inl hf) v)

theorem State.readsFor.actError {i : Fin 32} (h : t.readsFor s i) (e : Nat × Nat) : (t.actError i e).readsFor s i := by
  unfold State.actError
  split
  · exact h.recorded Fd.ADN_ECC_STAT_corrected rfl _ (cls := 0) (by decide) 0x13 rfl
  · obtain ⟨others, own, off⟩ := h.recorded Fd.ADN_ECC_STAT_uncorr_a rfl _ (cls := 0) (by decide) 0x12 rfl
    refine ⟨fun j hj => (State.slot_setSlot_other _ hj _).trans (others j hj), ?_, .setSlot off i _⟩
    unfold State.spoil
    rw [State.slot_setSlot_same]
    exact own

theorem State.activationErrors_reads (s : State) (i : Fin 32) : (s.activationErrors i).readsFor s i := by
  unfold State.activationErrors
  generalize s.arr.eccA.filter (s.inBank i) = l
  have start : State.readsFor { s with arr := { s.arr with eccA := s.arr.eccA.filter fun e => !(s.inBank i e && decide (e.2 ≤ 1)) } } s i :=
    ⟨fun _ _ => rfl, rfl, .upd (.rfl' s) rfl⟩
  generalize ({ s with arr := { s.arr with eccA := s.arr.eccA.filter fun e => !(s.inBank i e && decide (e.2 ≤ 1)) } } : State) = t at *
  induction l generalizing t with
  | nil => exact start
  | cons e l ih => exact ih _ (start.actError e)

theorem not_reads_array {a : Nat} (h : inArray a) (ne : a ≠ Reg.ADN_ECC_STAT) : ¬(a = Reg.ADN_ECC_STAT ∨ inFault 9 a) :=
  not_or.2 ⟨ne, not_inFault_array h⟩

theorem coreCyc_ne (k : Fin 48) : Reg.ADN_CORE_CYC k ≠ Reg.ADN_ECC_STAT ∧ Reg.ADN_CORE_CYC k ≠ Reg.ADN_PASS_STAT := by
  unfold Reg.ADN_CORE_CYC Reg.ADN_ECC_STAT Reg.ADN_PASS_STAT
  omega

/-- What a pass that may end rests on, of `State.passEnds`. -/
theorem State.passEnds_due {i : Fin 32} {cycles : List Nat} (h : s.passEnds i cycles = true) :
    (s.slot i).due = true ∧ s.fcFrame < 252 ∧ cycles.length = (s.slot i).cores.length := by
  unfold State.passEnds at h
  simp only [Bool.and_eq_true, decide_eq_true_eq, beq_iff_eq] at h
  obtain ⟨⟨⟨⟨⟨⟨⟨due, -⟩, -⟩, -⟩, window⟩, -⟩, length⟩, -⟩ := h
  exact ⟨due, window, length⟩

/-- The end of a pass: its outputs stand for the commit, and each core shows its cycles. -/
theorem State.passDone_ends {i : Fin 32} {cycles : List Nat} (outs : List PassOut) (ends : s.passEnds i cycles = true) :
    ((s.passDone i cycles outs).slot i).done = true ∧ ((s.passDone i cycles outs).slot i).outs = outs ∧
    ((s.passDone i cycles outs).slot i).due = true ∧ (s.passDone i cycles outs).get Fd.ADN_PASS_STAT_last_end = s.fcFrame ∧
    (∀ j, j ≠ i → (s.passDone i cycles outs).slot j = s.slot j) ∧
    ((s.slot i).cores.Nodup → ∀ (n : Nat) (k : Fin 48), (s.slot i).cores[n]? = some (some k.val) →
      (s.passDone i cycles outs).get (Fd.ADN_CORE_CYC_cycles k) = min (2 ^ 21 - 1) (cycles.getD n 0)) := by
  obtain ⟨due, window, length⟩ := State.passEnds_due ends
  unfold State.passDone
  have slots := State.corePasses_slots ((s.slot i).cores.zip cycles) (s.setSlot i { s.slot i with done := true, outs := outs })
  have ran (k : Fin 48) (c : Nat) := State.corePasses_cycles (k := k) (c := c) (l := (s.slot i).cores.zip cycles) (s := s.setSlot i { s.slot i with done := true, outs := outs })
  generalize ((s.slot i).cores.zip cycles).foldl State.corePass (s.setSlot i { s.slot i with done := true, outs := outs }) = u at *
  obtain ⟨others, own, off⟩ := u.activationErrors_reads i
  generalize u.activationErrors i = v at *
  have before (j : Fin 32) : u.slot j = (s.setSlot i { s.slot i with done := true, outs := outs }).slot j := congrArg (vget · j) slots
  have held : { v.slot i with spoilt := (u.slot i).spoilt } = { s.slot i with done := true, outs := outs } := by
    rw [own, before i, State.slot_setSlot_same]
  refine ⟨?_, ?_, ?_, ?_, fun j hj => ?_, fun once n k at' => ?_⟩
  · exact congrArg SlotRt.done held
  · exact congrArg SlotRt.outs held
  · exact (congrArg SlotRt.due held).trans due
  · exact v.get_put_small Fd.ADN_PASS_STAT_last_end _ (by decide) (by change _ < 2 ^ 8; omega)
  · exact (others j hj).trans ((before j).trans (s.slot_setSlot_other hj _))
  · have hn : n < (s.slot i).cores.length := (List.getElem?_eq_some_iff.1 at').1
    have cycle : cycles[n]? = some (cycles.getD n 0) := by
      rw [List.getD_eq_getElem?_getD, List.getElem?_eq_getElem (length ▸ hn)]
      rfl
    have entry : (some k.val, cycles.getD n 0) ∈ (s.slot i).cores.zip cycles :=
      List.mem_of_getElem? (i := n) (List.getElem?_zip_eq_some.2 ⟨at', cycle⟩)
    have names : ((s.slot i).cores.zip cycles).map Prod.fst = (s.slot i).cores := List.map_fst_zip length.ge
    exact (v.get_put_reg Fd.ADN_PASS_STAT_last_end (Fd.ADN_CORE_CYC_cycles k) _ (coreCyc_ne k).2).trans
      ((off.get (f := Fd.ADN_CORE_CYC_cycles k) (not_reads_array (inArray_coreCyc k) (coreCyc_ne k).1)).trans (ran k _ (by rw [names]; exact once) entry))

end

/-- Settles O29: a section that has loaded binds its core or quarantines its basket, and a pass ends slot by slot and core by core. -/
theorem coresLoadAndPassesEnd : Obligations.CoresLoadAndPassesEnd := by
  refine fun s => ⟨fun k => ⟨fun ok idle => ?_, fun loading => ⟨_, execCoreLoaded_good loading, s.coreBound_binds k⟩,
    fun n loading slot => execCoreLoaded_bad loading slot⟩, fun i cycles outs => ⟨fun no => ?_, fun ends => ?_⟩⟩
  · exact congrArg Host.Outcome.next (if_neg (by simpa using idle))
  · exact congrArg Host.Outcome.next (if_neg (by rw [no]; decide))
  · have ran : execBasketPass i cycles outs s = .next (s.passDone i cycles outs) := congrArg Host.Outcome.next (if_pos ends)
    have parts := (PassK.execBasketPass_keeps (.rfl' s) i cycles outs _ ran).within
    obtain ⟨done, held, due, last, others, shown⟩ := State.passDone_ends outs ends
    exact ⟨_, ran, done, held, due, last, others, shown, parts⟩

end Sys2Proof.Machine
end

section
/-! Chapter 08: the third overrun of a basket that has also lost a core (R234 to R236, R445). -/

namespace Sys2Proof.Machine

/-! ## An escalated SUSPENDED fault before the quarantine

In the order of R234 the lost cores are replaced before the late baskets are quarantined. Where no core is left, the basket is SUSPENDED with a
Degrade-class fault. A second such fault of the slot that comes while the first is unacknowledged escalates to Fence (R445), which puts the slot in
QUARANTINED but keeps its cores. The quarantine of the third overrun then finds the basket admitted no longer, and does not free them. -/

/-- The package of one virtual core. -/
def oneCorePkg : Pkg :=
  { standard := true, version := 0, findi := 0, period := 1, phase := 0, variants := [⟨0, [⟨0, 0, 0, 0, 0⟩]⟩], ins := [], outs := []
    keyId := [] }

/-- All cores are fenced, and the basket of slot 0 is RUNNING with two overruns in a row. -/
def State.coresLost : State :=
  (List.range 48).foldl (fun s k => s.put (Fd.ADN_CORE_STAT_state k) 6)
    (((State.reset.setFlag Fd.MDL_CTRL_run_en true).put (Fd.MDL_SLOT_STAT_state 0) 3).put (Fd.MDL_SLOT_STAT_overrun_run 0) 2)

/-- Frame 252 of that module's forecast frame: the pass of slot 0 on core 0 is due and has not ended, and a SUSPENDED fault of slot 0 (Degrade, unit
0x0B00) is unacknowledged. -/
def State.lateWithoutCores : State :=
  { State.coresLost with
    time := { TimeRt.reset with frame := 252 }
    arr := { ArrRt.reset with slots := vset ArrRt.reset.slots 0 { SlotRt.reset with pkg := some oneCorePkg, cores := [some 0], due := true } }
    flt := { FltRt.reset with rem := vset FltRt.reset.rem Blk.mdl [⟨true, 1, 0xB00⟩] } }

/-- It meets the premises of the third overrun. -/
theorem State.lateWithoutCores_overruns : (State.lateWithoutCores.slot 0).due = true ∧ (State.lateWithoutCores.slot 0).done = false ∧
    State.lateWithoutCores.slotState 0 = 3 ∧ State.lateWithoutCores.flag Fd.MDL_CTRL_run_en = true ∧
    State.lateWithoutCores.excuses 0 = false ∧ State.lateWithoutCores.get (Fd.MDL_SLOT_STAT_overrun_run 0) = 2 := by decide +kernel

/-- The slot still holds the place of its lost core after the commit. -/
theorem resultCommit_lateWithoutCores : ∃ t, exec .resultCommit State.lateWithoutCores = .next t ∧ (t.slot 0).cores = [none] :=
  ⟨_, rfl, by decide +kernel⟩

/-- Refutes O30: a basket with a third overrun that nothing excuses keeps its list of cores, where the loss of a core escalates to Fence in the same
commit. In `State.lateWithoutCores` the cores of slot 0 are `[none]` afterwards, and not `[]`. -/
theorem not_resultsCommitAndTelemetryIsAssembled : ¬ Obligations.ResultsCommitAndTelemetryIsAssembled := by
  unfold Obligations.ResultsCommitAndTelemetryIsAssembled
  rintro ⟨commits, -⟩
  obtain ⟨t, ran, -, -, -, -, -, late⟩ := (commits State.lateWithoutCores).2 (by decide) (by decide)
  obtain ⟨due, open', running, enabled, unexcused, twice⟩ := State.lateWithoutCores_overruns
  obtain ⟨-, freed⟩ := late 0 due open' running enabled unexcused twice
  obtain ⟨u, ran', kept⟩ := resultCommit_lateWithoutCores
  obtain rfl : t = u := Host.Outcome.next.inj (ran.symm.trans ran')
  rw [freed] at kept
  exact absurd kept (by decide)

end Sys2Proof.Machine
end

section
/-! SUPPORT for chapter 13: what an entry of the audit log, an answer and the end of a session leave of the semaphore, the log and the registers
(R366, R371, R372, R405). -/

namespace Sys2Proof.Machine

/-! ## The registers of sessions -/

/-- The registers that show the audit log (Table 14-6). -/
def auditShown : List Nat := [Reg.SEC_AUDIT_LO, Reg.SEC_AUDIT_HI, Reg.SEC_AUDIT_STAT]

/-- The registers that show sessions, the semaphore and the audit log. -/
def sessionShown : List Nat :=
  [Reg.MGP_PORT_STAT 0, Reg.MGP_PORT_STAT 1, Reg.MGP_SEM_STAT, Reg.MGP_SEM_SESSION, Reg.SEC_SESSIONS] ++ auditShown

/-- An address that the arrival of a packet may change: what ends there is shown, counted and noted (R366, R372). -/
def inArrival (a : Nat) : Prop := a ∈ sessionShown ∨ a = Reg.MGP_SEM_CNT ∨ inWindow 16 a

section
variable {P : Nat → Prop} {s t : State}

theorem State.regsOff.auditRegs (h : t.regsOff (· ∈ auditShown) s) : t.auditRegs.regsOff (· ∈ auditShown) s :=
  ((h.put64 (by decide) (by decide) _).put (f := Fd.SEC_AUDIT_STAT_staged) (by decide) _).setFlag (f := Fd.SEC_AUDIT_STAT_full) (by decide) _

/-! ## The audit log -/

section
variable (s) (kind who session opcode status : Nat) (detail : List Nat)

/-- The log as the next entry extends it, before it is moved to flash. -/
def State.entryAdded (b : List Nat) : State := (s.addEntry b (Config.sha3 (s.sec.lastH ++ b))).auditRegs

/-- An entry is added, and may move the log to flash. -/
theorem State.audit_cases : ∃ b, s.audit kind who session opcode status detail = s.entryAdded b ∨
    s.audit kind who session opcode status detail = (s.entryAdded b).auditMove := by
  refine ⟨auditBytes s.sec.next s.time.frame kind who session opcode status detail, ?_⟩
  unfold State.audit State.entryAdded
  generalize auditBytes s.sec.next s.time.frame kind who session opcode status detail = b
  dsimp only
  split
  · exact .inr rfl
  · exact .inl rfl

theorem State.audit_mgp : (s.audit kind who session opcode status detail).mgp = s.mgp :=
  (AuditK.audit (.rfl' s) kind who session opcode status detail).within .mgp (by decide)

theorem State.audit_time : (s.audit kind who session opcode status detail).time = s.time :=
  (AuditK.audit (.rfl' s) kind who session opcode status detail).within .time (by decide)

theorem State.entryAdded_regsOff (b : List Nat) : (s.entryAdded b).regsOff (· ∈ auditShown) s := .auditRegs (.upd (.rfl' s) rfl)

theorem State.auditMove_regsOff : s.auditMove.regsOff (· ∈ auditShown) s := .auditRegs (.upd (.rfl' s) rfl)

theorem State.audit_regsOff : (s.audit kind who session opcode status detail).regsOff (· ∈ auditShown) s := by
  obtain ⟨b, added | moved⟩ := s.audit_cases kind who session opcode status detail
  · rw [added]
    exact s.entryAdded_regsOff b
  · rw [moved]
    exact (State.auditMove_regsOff _).trans (s.entryAdded_regsOff b)

theorem State.auditRegs_sec : s.auditRegs.sec = s.sec := (ShowK.auditRegs (.rfl' s)).within .sec (by decide)

theorem State.entryAdded_next (b : List Nat) : (s.entryAdded b).sec.next = (s.sec.next + 1) % 2 ^ 64 := by
  unfold State.entryAdded
  rw [State.auditRegs_sec]
  rfl

theorem State.auditMove_next : s.auditMove.sec.next = s.sec.next := by
  unfold State.auditMove
  extract_lets items size total old
  rw [State.auditRegs_sec]
  rfl

/-- An entry takes the next number (R406). -/
theorem State.audit_next : (s.audit kind who session opcode status detail).sec.next = (s.sec.next + 1) % 2 ^ 64 := by
  obtain ⟨b, added | moved⟩ := s.audit_cases kind who session opcode status detail
  · rw [added]
    exact s.entryAdded_next b
  · rw [moved, State.auditMove_next]
    exact s.entryAdded_next b

end

/-! ## The semaphore -/

theorem State.semRegs_within (s : State) : s.semRegs.within s [.regs] := (ShowK.semRegs (.rfl' s)).within
theorem State.semRegs_mgp (s : State) : s.semRegs.mgp = s.mgp := s.semRegs_within .mgp (by decide)

theorem State.regsOff.semRegs (h : t.regsOff P s) (stat : P Reg.MGP_SEM_STAT) (session : P Reg.MGP_SEM_SESSION) : t.semRegs.regsOff P s := by
  unfold State.semRegs
  split
  all_goals exact ((((h.setFlag (f := Fd.MGP_SEM_STAT_held) stat _).put (f := Fd.MGP_SEM_STAT_port) stat _).put
    (f := Fd.MGP_SEM_STAT_remain_ms) stat _).put (f := Fd.MGP_SEM_SESSION_session) session _)

/-- The semaphore's holder is shown, with its port (Table 13-9). -/
theorem State.semRegs_shows {h : Fin 3 × Nat × Nat} (held : s.mgp.sem = some h) :
    s.semRegs.flag Fd.MGP_SEM_STAT_held = true ∧ s.semRegs.get Fd.MGP_SEM_STAT_port = h.1 := by
  have shown : s.semRegs = (((s.setFlag Fd.MGP_SEM_STAT_held true).put Fd.MGP_SEM_STAT_port h.1).put Fd.MGP_SEM_STAT_remain_ms
      ((h.2.2 + secCycles (s.get Fd.MGP_CTRL_lease) - s.now) / 250000)).put Fd.MGP_SEM_SESSION_session h.2.1 := by
    unfold State.semRegs
    rw [held]
  have port : h.1.val < 2 ^ Fd.MGP_SEM_STAT_port.len := Nat.lt_of_lt_of_le h.1.isLt (by decide)
  rw [shown]
  refine ⟨?_, ?_⟩
  · unfold State.flag
    simp (disch := decide) only [State.get_put_clear]
    exact s.flag_setFlag_same Fd.MGP_SEM_STAT_held true (by decide) rfl
  · simp (disch := decide) only [State.get_put_clear]
    exact State.get_put_small _ _ _ (by decide) port

theorem State.holdsSem_none (h : s.mgp.sem = none) (p : Fin 3) (n : Nat) : s.holdsSem p n = false := by
  unfold State.holdsSem
  rw [h]

theorem State.holdsSem_congr (h : t.mgp.sem = s.mgp.sem) (p : Fin 3) (n : Nat) : t.holdsSem p n = s.holdsSem p n := by
  unfold State.holdsSem
  rw [h]

theorem State.semData_congr (sem : t.mgp.sem = s.mgp.sem) (time : t.time = s.time) (lease : t.get Fd.MGP_CTRL_lease = s.get Fd.MGP_CTRL_lease) :
    t.semData = s.semData := by
  unfold State.semData State.now
  rw [sem, time, lease]

/-! ## The end of a session -/

theorem State.sessionRegs_mgp (s : State) : s.sessionRegs.mgp = s.mgp := (ShowK.sessionRegs (.rfl' s)).within .mgp (by decide)

theorem State.regsOff.sessionRegs (h : t.regsOff (· ∈ sessionShown) s) : t.sessionRegs.regsOff (· ∈ sessionShown) s := by
  unfold State.sessionRegs
  extract_lets count u
  have ports : u.regsOff (· ∈ sessionShown) s := .each (fun p hp v hv => hv.put (by interval_cases p <;> decide) _) h
  clear_value u
  exact ((ports.put (f := Fd.SEC_SESSIONS_operator) (by decide) _).put (f := Fd.SEC_SESSIONS_installer) (by decide) _).put
    (f := Fd.SEC_SESSIONS_maker) (by decide) _

/-- The end of a session that is open: what it held is freed, it leaves the list, and it is recorded. -/
theorem State.endSession_open {p : Fin 3} {n : Nat} {x : Sess} (h : (s.mgp.sessions.find? fun x => x.port == p && x.num == n) = some x) :
    s.endSession p n = (((if s.holdsSem p n then s.semFree else s).dropSession p n).audit 3 (auditWho x.role p 0) n 0 0 []).sessionRegs := by
  unfold State.endSession
  rw [h]

theorem State.endSession_closed {p : Fin 3} {n : Nat} (h : (s.mgp.sessions.find? fun x => x.port == p && x.num == n) = none) :
    s.endSession p n = s := by
  unfold State.endSession
  rw [h]

theorem State.freed_sessions (s : State) (p : Fin 3) (n : Nat) : (if s.holdsSem p n then s.semFree else s).mgp.sessions = s.mgp.sessions := by
  split
  · exact (congrArg MgpRt.sessions (s.setSem none).semRegs_mgp).trans rfl
  · rfl

/-- No session of that port and number is open afterwards. -/
theorem State.endSession_ends (s : State) (p : Fin 3) (n : Nat) :
    ((s.endSession p n).mgp.sessions.find? fun x => x.port == p && x.num == n) = none := by
  cases found : s.mgp.sessions.find? fun x => x.port == p && x.num == n with
  | none => rw [State.endSession_closed found, found]
  | some x =>
    rw [State.endSession_open found, State.sessionRegs_mgp, State.audit_mgp]
    refine List.find?_eq_none.2 fun y hy => ?_
    have left := (List.mem_filter.1 hy).2
    simpa only [Bool.not_eq_true, Bool.not_eq_true'] using left

/-- A session that does not hold the semaphore leaves it as it is. -/
theorem State.endSession_sem {p : Fin 3} {n : Nat} (h : s.holdsSem p n = false) : (s.endSession p n).mgp.sem = s.mgp.sem := by
  cases found : s.mgp.sessions.find? fun x => x.port == p && x.num == n with
  | none => rw [State.endSession_closed found]
  | some x =>
    rw [State.endSession_open found, State.sessionRegs_mgp, State.audit_mgp, h]
    rfl

theorem State.endSession_regsOff (s : State) (p : Fin 3) (n : Nat) : (s.endSession p n).regsOff (· ∈ sessionShown) s := by
  cases found : s.mgp.sessions.find? fun x => x.port == p && x.num == n with
  | none =>
    rw [State.endSession_closed found]
    exact .rfl' s
  | some x =>
    rw [State.endSession_open found]
    have freed : (if s.holdsSem p n then s.semFree else s).regsOff (· ∈ sessionShown) s :=
      .ite (fun _ => .semRegs (.upd (.rfl' s) rfl) (by decide) (by decide)) fun _ => .rfl' s
    exact .sessionRegs (((State.audit_regsOff _ _ _ _ _ _ _).mono fun _ => List.mem_append_right _).trans (.upd freed rfl))

theorem State.endSessions_regsOff (s : State) (f : Sess → Bool) : (s.endSessions f).regsOff (· ∈ sessionShown) s :=
  .foldl (fun x _ u hu => (u.endSession_regsOff x.port x.num).trans hu) (.rfl' s)

/-! ## The arrival of a packet -/

theorem State.leaseEnds_regsOff (s : State) (p : Fin 3) (n : Nat) : (s.leaseEnds p n).regsOff inArrival s := by
  have freed : s.semFree.regsOff inArrival s := .semRegs (.upd (.rfl' s) rfl) (.inl (by decide)) (.inl (by decide))
  have counted := freed.bump (f := Fd.MGP_SEM_CNT_expired) (.inr (.inl rfl))
  obtain ⟨window, -⟩ := (s.semFree.bump Fd.MGP_SEM_CNT_expired).record_note Blk.mgp 0x10 (0xC00 + p) (by decide)
  exact ((State.audit_regsOff _ _ _ _ _ _ _).mono fun _ h => .inl (List.mem_append_right _ h)).trans
    ((window.mono fun _ h => .inr (.inr h)).trans counted)

theorem State.leaseCheck_regsOff (s : State) : s.leaseCheck.regsOff inArrival s := by
  unfold State.leaseCheck
  split
  · refine .ite (fun due => ?_) fun _ => .rfl' s
    unfold execLeaseExpiry
    next holder held =>
      rw [held]
      dsimp only
      rw [if_pos due]
      exact s.leaseEnds_regsOff _ _
  · exact .rfl' s

theorem State.arrive_regsOff (s : State) (p : Pkt) : (s.arrive p).regsOff inArrival s :=
  (State.leaseCheck_regsOff _).trans (((State.endSessions_regsOff _ _).mono fun _ => Or.inl).trans (.upd (.rfl' s) rfl))

/-! ## A reply that leaves -/

section
variable (s) (port : Fin 3) (r : Reply)

/-- A reply has left, and its session keeps it where `hold` says so. -/
def State.replyLeft (hold : Bool) : State :=
  if hold then ((s.sendNow port (s.markReply port r)).countReply port r.status).keepReply port (s.markReply port r)
  else (s.sendNow port (s.markReply port r)).countReply port r.status

/-- A reply to the packet with the highest sequence ends its session (R366). -/
theorem State.send_eq (hold : Bool) : s.send port r hold =
    if hold && r.seq = 0xFFFFFFFF then (s.replyLeft port r hold).endSession port r.session else s.replyLeft port r hold := by
  cases hold <;> rfl

theorem State.send_unheld : s.send port r false = s.replyLeft port r false := s.send_eq port r false

theorem State.send_open (h : r.seq ≠ 0xFFFFFFFF) : s.send port r true = s.replyLeft port r true := by
  rw [State.send_eq, if_neg (by simp [h])]

theorem State.countReply_within (status : Nat) : (s.countReply port status).within s [.regs] :=
  .ite (fun _ => .ite (fun _ => .bump (.rfl' s) (by decide) _) fun _ => .ite (fun _ => .bump (.rfl' s) (by decide) _) fun _ => .rfl' s) fun _ => .rfl' s

/-- A status that MGP_PORT_CNT does not count (Table 13-10). -/
theorem State.countReply_uncounted {status : Nat} (busy : status ≠ 1) (mac : status ≠ 4) : s.countReply port status = s := by
  unfold State.countReply
  rw [if_neg (show ¬status = Status.busyRetry from busy), if_neg (show ¬status = Status.badMac from mac), ite_self]

/-- A reply that leaves changes neither the semaphore nor the nonces, nor a part beside the ports' and the registers. -/
theorem State.replyLeft_within (hold : Bool) : (s.replyLeft port r hold).within s [.regs, .mgp] := by
  have sent : ((s.sendNow port (s.markReply port r)).countReply port r.status).within s [.regs, .mgp] :=
    ((State.countReply_within _ _ _).mono (by decide)).trans ((s.within_mgp _).mono (by decide))
  exact .ite (fun _ => ((State.within_mgp _ _).mono (by decide)).trans sent) fun _ => sent

theorem State.replyLeft_mgp (hold : Bool) : (s.replyLeft port r hold).mgp.sem = s.mgp.sem ∧ (s.replyLeft port r hold).mgp.nonces = s.mgp.nonces ∧
    vget (s.replyLeft port r hold).mgp.sent port = some (s.markReply port r) := by
  have counted : ((s.sendNow port (s.markReply port r)).countReply port r.status).mgp = (s.sendNow port (s.markReply port r)).mgp :=
    State.countReply_within _ _ _ .mgp (by decide)
  cases hold with
  | false =>
    have left : (s.replyLeft port r false).mgp = (s.sendNow port (s.markReply port r)).mgp := counted
    rw [left]
    exact ⟨rfl, rfl, vget_vset_same _ _ _⟩
  | true =>
    refine ⟨(congrArg MgpRt.sem counted).trans rfl, (congrArg MgpRt.nonces counted).trans rfl, ?_⟩
    exact (congrArg (fun x : MgpRt => vget x.sent port) counted).trans (vget_vset_same _ _ _)

theorem State.replyLeft_regs (hold : Bool) (busy : r.status ≠ 1) (mac : r.status ≠ 4) : (s.replyLeft port r hold).regs = s.regs := by
  unfold State.replyLeft
  rw [State.countReply_uncounted _ _ busy mac]
  cases hold <;> rfl

/-- A session that does not hold the semaphore leaves it as it is, also where its reply is the last. -/
theorem State.send_sem (hold : Bool) (h : s.holdsSem port r.session = false) : (s.send port r hold).mgp.sem = s.mgp.sem := by
  obtain ⟨sem, -⟩ := s.replyLeft_mgp port r hold
  rw [State.send_eq]
  split
  · exact (State.endSession_sem ((State.holdsSem_congr sem _ _).trans h)).trans sem
  · exact sem

theorem State.send_regsOff (hold : Bool) (busy : r.status ≠ 1) (mac : r.status ≠ 4) : (s.send port r hold).regsOff (· ∈ sessionShown) s := by
  have same : (s.replyLeft port r hold).regsOff (· ∈ sessionShown) s := State.regsOff.of_regs (.rfl' s) (s.replyLeft_regs port r hold busy mac)
  rw [State.send_eq]
  exact .ite (fun _ => (State.endSession_regsOff _ _ _).trans same) fun _ => same

end

end

end Sys2Proof.Machine
end

section
/-! Chapters 08 and 13: SESSION_CLOSE, the semaphore, HELLO, baskets and the test window (R227, R229, R232, R354, R366, R371, R372, R377). -/

namespace Sys2Proof.Machine

section
variable {s t : State} {v : State.Held} {o : OpInfo} {p : Pkt} {busy : State → Bool} {denied : State → Sess → Bool} {bad : State → Option Nat}
  {x : Sess} {c : Instr} {run : State → Sess → State}

/-- A command whose packet has passed Table 13-3 is carried out in the state that has taken it in. -/
theorem exec_of_passes (e : exec c s = .next (s.request o p busy denied bad run)) (h : s.passes o p busy denied bad x) :
    exec c s = .next (run (s.taken p) x) := e.trans (congrArg Host.Outcome.next (State.request_passes h run))

/-! ## Answers -/

/-- A state that holds a packet's reply as the last sent on its port has replied. -/
theorem State.Passed.replied {r : Reply} {status cause : Nat} {data : List Nat} (h : t.Passed { v with sent := vset v.sent p.port (some r) } s)
    (tag : r.tag = p.tag) (session : r.session = p.session) (seq : r.seq = p.seq) (hs : r.status = status) (hc : r.cause = cause) (hd : r.data = data) :
    t.replied p status cause data :=
  ⟨r, (congrArg (fun h : State.Held => vget h.sent p.port) h.held).trans (vget_vset_same _ _ _), tag, session, seq, hs, hc, hd⟩

theorem State.answer_within (s : State) (o : OpInfo) (p : Pkt) (x : Sess) (status cause : Nat) (data : List Nat) :
    (s.answer o p x status cause data).within s packetParts := by
  obtain ⟨_, -, -, -, -, -, -, passed⟩ := (State.Passed.rfl' s).answer o p x status cause data
  exact passed.parts

theorem State.answer_replied (s : State) (o : OpInfo) (p : Pkt) (x : Sess) (status cause : Nat) (data : List Nat) :
    (s.answer o p x status cause data).replied p status cause data := (State.Passed.rfl' s).replied_answer o p x status cause data

theorem State.answer_regsOff (s : State) (o : OpInfo) (p : Pkt) (x : Sess) (status cause : Nat) (data : List Nat) :
    (s.answer o p x status cause data).regsOff inPorts s := by
  obtain ⟨_, -, -, -, -, -, -, passed⟩ := (State.Passed.rfl' s).answer o p x status cause data
  exact passed.regs

/-- The answer of a command that needs no semaphore is its reply alone. -/
theorem State.answer_free (s : State) (h : o.sem = false) (p : Pkt) (x : Sess) (status cause : Nat) (data : List Nat) :
    s.answer o p x status cause data = s.send p.port (s.replyTo o p status cause data) true := by
  unfold State.answer
  rw [h]
  rfl

/-- The answer to a packet that does not end its session leaves the semaphore, the log and the registers. -/
theorem State.okWith_open (s : State) (h : o.sem = false) (p : Pkt) (x : Sess) (data : List Nat) (hp : p.seq ≠ 0xFFFFFFFF) :
    (s.okWith o p x data).mgp.sem = s.mgp.sem ∧ (s.okWith o p x data).within s [.regs, .mgp] ∧ (s.okWith o p x data).regs = s.regs := by
  have left : s.okWith o p x data = s.replyLeft p.port (s.replyTo o p Status.ok 0 data) true := (s.answer_free h p x _ _ _).trans (s.send_open _ _ hp)
  rw [left]
  exact ⟨(s.replyLeft_mgp _ _ _).1, s.replyLeft_within _ _ _, s.replyLeft_regs _ _ _ (by decide : 0 ≠ 1) (by decide : 0 ≠ 4)⟩

/-- OK with async set (R365). -/
theorem State.okAsync_accepted (s : State) (o : OpInfo) (p : Pkt) (x : Sess) : (s.okAsync o p x).acceptedAsync p ∧
    (s.okAsync o p x).within s packetParts := by
  unfold State.okAsync
  have logged : (if o.sem = true then s.audit 1 (packetAudit x.role p.port p.payload).1 p.session o.code Status.ok
      (packetAudit x.role p.port p.payload).2 else s).Passed s.held s := .ite (fun _ => (State.Passed.rfl' s).audit _ _ _ _ _ _) fun _ => .rfl' s
  dsimp only
  generalize (if o.sem = true then s.audit 1 (packetAudit x.role p.port p.payload).1 p.session o.code Status.ok
      (packetAudit x.role p.port p.payload).2 else s) = u at *
  have sent := logged.send p.port { u.replyTo o p Status.ok 0 [] with async := true } true
  exact ⟨⟨_, (congrArg (fun h : State.Held => vget h.sent p.port) sent.held).trans (vget_vset_same _ _ _), rfl, rfl, rfl, rfl, rfl, rfl⟩, sent.parts⟩

/-! ## Sessions and the semaphore -/

/-- SESSION_CLOSE: the reply, and then the session's end. -/
theorem State.sessionCloseRun_closes (s : State) (p : Pkt) (x : Sess) : (s.sessionCloseRun p x).replied p 0 0 [] ∧
    (s.sessionCloseRun p x).sessionOf p = none ∧ (s.sessionCloseRun p x).within s packetParts := by
  obtain ⟨r, tag, session, seq, hs, hc, hd, passed⟩ := (State.Passed.rfl' s).answer sessionCloseOp p x Status.ok 0 []
  have closed := passed.endSession p.port p.session
  exact ⟨closed.replied tag session seq hs hc hd, State.endSession_ends _ _ _, closed.parts⟩

theorem State.holdSem_within (s : State) (p : Pkt) : (s.holdSem p).within s packetParts :=
  ((State.semRegs_within _).mono (by decide)).trans ((s.within_mgp _).mono (by decide))

theorem State.holdSem_sem (s : State) (p : Pkt) : (s.holdSem p).mgp.sem = some (p.port, p.session, s.now) :=
  (congrArg MgpRt.sem (State.semRegs_mgp _)).trans rfl

/-- A hold of the semaphore that enters the log, as SEM_ACQUIRE answers it. -/
def State.semTaken (s : State) (p : Pkt) (x : Sess) : State := (s.holdSem p).audit 5 (auditWho x.role p.port 0) p.session 0x0010 0 []

theorem State.semTaken_takes (s : State) (p : Pkt) (x : Sess) : (s.semTaken p x).mgp.sem = some (p.port, p.session, s.now) ∧
    (s.semTaken p x).flag Fd.MGP_SEM_STAT_held = true ∧ (s.semTaken p x).get Fd.MGP_SEM_STAT_port = p.port ∧
    (s.semTaken p x).sec.next = (s.sec.next + 1) % 2 ^ 64 ∧ (s.semTaken p x).within s packetParts := by
  have log := (s.holdSem p).audit_regsOff 5 (auditWho x.role p.port 0) p.session 0x0010 0 []
  have parts := (AuditK.audit (.rfl' (s.holdSem p)) 5 (auditWho x.role p.port 0) p.session 0x0010 0 []).within
  have next := (s.holdSem p).audit_next 5 (auditWho x.role p.port 0) p.session 0x0010 0 []
  obtain ⟨held, port⟩ := State.semRegs_shows (s := s.setSem (some (p.port, p.session, s.now))) rfl
  have sec : (s.holdSem p).sec = s.sec := (State.semRegs_within _ .sec (by decide)).trans rfl
  exact ⟨(congrArg MgpRt.sem (parts .mgp (by decide))).trans (s.holdSem_sem p), (log.flag (f := Fd.MGP_SEM_STAT_held) (by decide)).trans held,
    (log.get (f := Fd.MGP_SEM_STAT_port) (by decide)).trans port, next.trans (by rw [sec]), (parts.mono (by decide)).trans (s.holdSem_within p)⟩

/-- SEM_ACQUIRE where another session holds the semaphore. -/
theorem State.semAcquireRun_blocked (s : State) (p : Pkt) (x : Sess) (taken : s.mgp.sem ≠ none) (other : s.holdsSem p.port p.session = false) :
    (s.semAcquireRun p x).replied p 0x02 0 s.semData ∧ (s.semAcquireRun p x).mgp.sem = s.mgp.sem := by
  have ran : s.semAcquireRun p x = s.answer semAcquireOp p x Status.noSemaphore 0 s.semData := if_neg (by simpa [other] using taken)
  rw [ran]
  refine ⟨s.answer_replied semAcquireOp p x Status.noSemaphore 0 s.semData, ?_⟩
  rw [s.answer_free rfl]
  exact s.send_sem p.port _ true other

/-- SEM_ACQUIRE of a semaphore that is free or the session's own. -/
theorem State.semAcquireRun_takes (s : State) (p : Pkt) (x : Sess) (may : s.mgp.sem = none ∨ s.holdsSem p.port p.session = true) :
    ∃ data, (s.semAcquireRun p x).replied p 0 0 data ∧ (p.seq ≠ 0xFFFFFFFF → data = (s.semAcquireRun p x).semData ∧
      (s.semAcquireRun p x).mgp.sem = some (p.port, p.session, s.now) ∧ (s.semAcquireRun p x).flag Fd.MGP_SEM_STAT_held = true ∧
      (s.semAcquireRun p x).get Fd.MGP_SEM_STAT_port = p.port ∧ (s.semAcquireRun p x).sec.next = (s.sec.next + 1) % 2 ^ 64) := by
  have ran : s.semAcquireRun p x = (s.semTaken p x).okWith semAcquireOp p x (s.semTaken p x).semData := if_pos (by
    rcases may with free | own
    · simp [free]
    · simp [own])
  obtain ⟨sem, held, port, next, -⟩ := s.semTaken_takes p x
  rw [ran]
  generalize s.semTaken p x = u at *
  refine ⟨u.semData, u.answer_replied semAcquireOp p x Status.ok 0 u.semData, fun open' => ?_⟩
  obtain ⟨sem', parts, regs⟩ := u.okWith_open (o := semAcquireOp) rfl p x u.semData open'
  exact ⟨(State.semData_congr sem' (parts .time (by decide)) (State.get_congr regs _)).symm, sem'.trans sem, (State.flag_congr regs _).trans held,
    (State.get_congr regs _).trans port, (congrArg SecRt.next (parts .sec (by decide))).trans next⟩

theorem State.semAcquireRun_within (s : State) (p : Pkt) (x : Sess) : (s.semAcquireRun p x).within s packetParts := by
  refine .ite (fun _ => ?_) fun _ => s.answer_within semAcquireOp p x Status.noSemaphore 0 s.semData
  obtain ⟨-, -, -, -, parts⟩ := s.semTaken_takes p x
  exact (State.answer_within (s.semTaken p x) semAcquireOp p x Status.ok 0 _).trans parts

/-- SEM_RELEASE: the semaphore that the session holds is freed, and one that is free stays so. -/
theorem State.semReleaseRun_frees (s : State) (p : Pkt) (x : Sess) (may : s.mgp.sem = none ∨ s.holdsSem p.port p.session = true) :
    (s.semReleaseRun p x).replied p 0 0 [] ∧ (s.semReleaseRun p x).mgp.sem = none ∧ (s.semReleaseRun p x).within s packetParts := by
  have answered (u : State) (free : u.mgp.sem = none) (parts : u.within s packetParts) : (u.okWith semReleaseOp p x []).replied p 0 0 [] ∧
      (u.okWith semReleaseOp p x []).mgp.sem = none ∧ (u.okWith semReleaseOp p x []).within s packetParts := by
    refine ⟨u.answer_replied semReleaseOp p x Status.ok 0 [], ?_, (u.answer_within semReleaseOp p x Status.ok 0 []).trans parts⟩
    rw [State.okWith, u.answer_free rfl]
    exact (u.send_sem p.port _ true (State.holdsSem_none free _ _)).trans free
  unfold State.semReleaseRun
  cases own : s.holdsSem p.port p.session with
  | true =>
    have freed : s.semFree.mgp.sem = none := (congrArg MgpRt.sem (State.semRegs_mgp _)).trans rfl
    have parts : s.semFree.within s packetParts := ((State.semRegs_within _).mono (by decide)).trans ((s.within_mgp _).mono (by decide))
    have log := (AuditK.audit (.rfl' s.semFree) 5 (auditWho x.role p.port 0) p.session 0x0011 0 []).within
    exact answered _ ((congrArg MgpRt.sem (log .mgp (by decide))).trans freed) ((log.mono (by decide)).trans parts)
  | false =>
    have free : s.mgp.sem = none := may.resolve_right (by rw [own]; decide)
    rw [if_neg (by decide), if_pos (by rw [free]; rfl)]
    exact answered s free (.rfl' s)

/-- SEM_RELEASE where another session holds the semaphore. -/
theorem State.semReleaseRun_blocked (s : State) (p : Pkt) (x : Sess) (taken : s.mgp.sem ≠ none) (other : s.holdsSem p.port p.session = false) :
    (s.semReleaseRun p x).replied p 0x02 0 [] ∧ (s.semReleaseRun p x).mgp.sem = s.mgp.sem ∧ (s.semReleaseRun p x).within s packetParts := by
  have ran : s.semReleaseRun p x = s.answer semReleaseOp p x Status.noSemaphore 0 [] :=
    (if_neg (by rw [other]; decide)).trans (if_neg (by simpa using taken))
  rw [ran]
  refine ⟨s.answer_replied semReleaseOp p x Status.noSemaphore 0 [], ?_, s.answer_within semReleaseOp p x Status.noSemaphore 0 []⟩
  rw [s.answer_free rfl]
  exact s.send_sem p.port _ true other

/-! ### SEM_SEIZE -/

/-- The seizure of a semaphore that another session holds is counted and noted. -/
def State.seizureNoted (s : State) (p : Pkt) (seized : Bool) : State :=
  if seized then ((s.holdSem p).bump Fd.MGP_SEM_CNT_seized).record Blk.mgp 0x11 0 (0xC00 + p.port) else s.holdSem p

theorem State.seizureNoted_within (s : State) (p : Pkt) (seized : Bool) : (s.seizureNoted p seized).within s packetParts ∧
    (s.seizureNoted p seized).mgp.sem = some (p.port, p.session, s.now) := by
  cases seized with
  | false => exact ⟨s.holdSem_within p, s.holdSem_sem p⟩
  | true =>
    obtain ⟨-, -, parts⟩ := ((s.holdSem p).bump Fd.MGP_SEM_CNT_seized).record_note Blk.mgp 0x11 (0xC00 + p.port) (by decide)
    have noted : (s.seizureNoted p true).within (s.holdSem p) [.regs, .hmp] := by
      unfold State.seizureNoted
      rw [if_pos rfl]
      exact parts.trans (.bump (.rfl' _) (by decide) _)
    exact ⟨(noted.mono (by decide)).trans (s.holdSem_within p), (congrArg MgpRt.sem (noted .mgp (by decide))).trans (s.holdSem_sem p)⟩

theorem State.holdSem_regsOff (s : State) (p : Pkt) : (s.holdSem p).regsOff (· ∈ [Reg.MGP_SEM_STAT, Reg.MGP_SEM_SESSION]) s :=
  .semRegs (.upd (.rfl' s) rfl) (by decide) (by decide)

theorem State.seizureNoted_seized (s : State) (p : Pkt) :
    (s.seizureNoted p true).get Fd.MGP_SEM_CNT_seized = (s.get Fd.MGP_SEM_CNT_seized + 1) % 65536 := by
  obtain ⟨window, -, -⟩ := ((s.holdSem p).bump Fd.MGP_SEM_CNT_seized).record_note Blk.mgp 0x11 (0xC00 + p.port) (by decide)
  have before : (s.holdSem p).get Fd.MGP_SEM_CNT_seized = s.get Fd.MGP_SEM_CNT_seized := (s.holdSem_regsOff p).get (by decide)
  have width : 2 ^ Fd.MGP_SEM_CNT_seized.len = 65536 := by decide
  unfold State.seizureNoted
  rw [if_pos rfl, window.get (by unfold inWindow; decide), State.get_bump_same _ _ (by decide), before, width]

theorem State.seizureNoted_faults (s : State) (p : Pkt) : (s.seizureNoted p true).faultCounted s 16 := by
  obtain ⟨-, counted, -⟩ := ((s.holdSem p).bump Fd.MGP_SEM_CNT_seized).record_note Blk.mgp 0x11 (0xC00 + p.port) (by decide)
  have before : (s.holdSem p).get (Fd.FLT_STAT_count 16) = s.get (Fd.FLT_STAT_count 16) := (s.holdSem_regsOff p).get (by decide)
  have block : ((Blk.mgp : Fin 18) : Nat) = 16 := rfl
  unfold State.faultCounted at counted ⊢
  rw [block, State.get_bump_clear (g := Fd.FLT_STAT_count 16) _ (by decide), before] at counted
  unfold State.seizureNoted
  rw [if_pos rfl, counted]

/-- SEM_SEIZE: an installer takes the semaphore from any holder. -/
theorem State.semSeizeRun_seizes (s : State) (p : Pkt) (x : Sess) : (s.semSeizeRun p x).within s packetParts ∧
    (s.semSeizeRun p x).replied p 0 0 s.semFormer ∧
    (p.seq ≠ 0xFFFFFFFF → (s.semSeizeRun p x).mgp.sem = some (p.port, p.session, s.now)) ∧
    (s.mgp.sem ≠ none → s.holdsSem p.port p.session = false →
      (s.semSeizeRun p x).get Fd.MGP_SEM_CNT_seized = (s.get Fd.MGP_SEM_CNT_seized + 1) % 65536 ∧ (s.semSeizeRun p x).faultCounted s 16) := by
  obtain ⟨parts, sem⟩ := s.seizureNoted_within p (s.mgp.sem.isSome && !s.holdsSem p.port p.session)
  have counts (h : (s.mgp.sem.isSome && !s.holdsSem p.port p.session) = true) :
      (s.seizureNoted p (s.mgp.sem.isSome && !s.holdsSem p.port p.session)).get Fd.MGP_SEM_CNT_seized =
        (s.get Fd.MGP_SEM_CNT_seized + 1) % 65536 ∧
      (s.seizureNoted p (s.mgp.sem.isSome && !s.holdsSem p.port p.session)).faultCounted s 16 := by
    rw [h]
    exact ⟨s.seizureNoted_seized p, s.seizureNoted_faults p⟩
  have ran : s.semSeizeRun p x = ((s.seizureNoted p (s.mgp.sem.isSome && !s.holdsSem p.port p.session)).audit 5 (auditWho x.role p.port 0)
      p.session 0x0012 0 []).okWith semSeizeOp p x s.semFormer := rfl
  rw [ran]
  generalize s.seizureNoted p (s.mgp.sem.isSome && !s.holdsSem p.port p.session) = u at *
  have log := (AuditK.audit (.rfl' u) 5 (auditWho x.role p.port 0) p.session 0x0012 0 []).within
  have off := u.audit_regsOff 5 (auditWho x.role p.port 0) p.session 0x0012 0 []
  generalize u.audit 5 (auditWho x.role p.port 0) p.session 0x0012 0 [] = w at *
  have sem' : w.mgp.sem = some (p.port, p.session, s.now) := (congrArg MgpRt.sem (log .mgp (by decide))).trans sem
  have ended : (w.okWith semSeizeOp p x s.semFormer).regsOff (· ∈ sessionShown) u := by
    rw [State.okWith, w.answer_free rfl]
    exact (w.send_regsOff _ _ _ (by decide : 0 ≠ 1) (by decide : 0 ≠ 4)).trans (off.mono fun _ => List.mem_append_right _)
  refine ⟨(w.answer_within semSeizeOp p x Status.ok 0 _).trans ((log.mono (by decide)).trans parts),
    w.answer_replied semSeizeOp p x Status.ok 0 _, fun open' => (w.okWith_open (o := semSeizeOp) rfl p x _ open').1.trans sem', fun taken other => ?_⟩
  obtain ⟨seized, faults⟩ := counts (by simpa [other, Option.isSome_iff_ne_none] using taken)
  exact ⟨(ended.get (f := Fd.MGP_SEM_CNT_seized) (by decide)).trans seized, (ended.get (f := Fd.FLT_STAT_count 16) (by decide)).trans faults⟩

/-! ## HELLO (R377) -/

/-- A packet with session 0 that passes its checks is carried out as it arrives. -/
theorem State.unsession_passes {versionOk : State → Bool} {len : Nat} (h : s.passesUnopened p versionOk len) (o : OpInfo) (f : State → State) :
    s.unsession o p versionOk len f = f (s.arrive p) := by
  obtain ⟨packet, up, lenOk, version, executing, window, length⟩ := h
  unfold State.unsession
  rw [if_neg (by simp [packet, up])]
  dsimp only
  rw [if_neg (by simp [lenOk]), if_neg (by simp [version]), if_neg (by simp [executing]), if_neg (Nat.not_le.2 window), if_neg (not_not.2 length)]

/-- The greatest member of a rising list that meets a condition is the last one that the condition leaves. -/
theorem getLast?_filter_eq_some {q : Nat → Bool} {l : List Nat} (rising : l.Pairwise (· < ·)) {m : Nat} (mem : m ∈ l) (hm : q m = true)
    (top : ∀ w ∈ l, q w = true → w ≤ m) : (l.filter q).getLast? = some m := by
  obtain ⟨before, after, split⟩ := List.append_of_mem (List.mem_filter.2 ⟨mem, hm⟩)
  have above : ∀ w ∈ after, m < w := (List.pairwise_cons.1 (List.pairwise_append.1 (split ▸ rising.filter q)).2.1).1
  have none : after = [] := List.eq_nil_iff_forall_not_mem.2 fun w hw => by
    have kept : w ∈ l.filter q := split ▸ List.mem_append_right _ (List.mem_cons_of_mem _ hw)
    obtain ⟨hl, hq⟩ := List.mem_filter.1 kept
    exact absurd (above w hw) (Nat.not_lt.2 (top w hl hq))
  rw [split, none]
  exact List.getLast?_concat ..

theorem length_beBytes (n v : Nat) : (beBytes n v).length = n := by
  induction n with
  | zero => rfl
  | succ n ih => exact congrArg (· + 1) ih

theorem length_nonceBytes (n : Nat) : (nonceBytes n).length = 32 := by
  unfold nonceBytes
  simp [List.length_flatMap, length_beBytes]

/-- What HELLO gives of the module's data is not changed by what ends at the packet's arrival. -/
theorem State.arrive_shown (s : State) (p : Pkt) : (s.arrive p).get Fd.LKS_STAT_slot_id = s.get Fd.LKS_STAT_slot_id ∧
    (s.arrive p).get Fd.LKS_STAT_role = s.get Fd.LKS_STAT_role ∧ (s.arrive p).window p.port = s.window p.port ∧
    (s.arrive p).get Fd.MGP_CTRL_lease = s.get Fd.MGP_CTRL_lease ∧ (s.arrive p).baseline = s.baseline := by
  have off := s.arrive_regsOff p
  have window (q : Fin 3) : (s.arrive p).get (Fd.MGP_PORT_CFG_window q) = s.get (Fd.MGP_PORT_CFG_window q) := off.get (by
    unfold inArrival inWindow
    fin_cases q <;> decide)
  have same {f : Fld} (h : ¬inArrival f.addr) : (s.arrive p).get f = s.get f := off.get h
  have flags {f : Fld} (h : ¬inArrival f.addr) : (s.arrive p).flag f = s.flag f := off.flag h
  refine ⟨same (by unfold inArrival inWindow; decide), same (by unfold inArrival inWindow; decide), ?_, same (by unfold inArrival inWindow; decide), ?_⟩
  · unfold State.window
    rw [window]
  · unfold State.baseline
    rw [flags (f := Fd.SEC_BOOT_recovery) (by unfold inArrival inWindow; decide), flags (f := Fd.SEC_BOOT_bank) (by unfold inArrival inWindow; decide),
      same (f := Fd.SEC_FW_B_baseline) (by unfold inArrival inWindow; decide), same (f := Fd.SEC_FW_A_baseline) (by unfold inArrival inWindow; decide)]

/-- A reply outside a session: what it changes, and the reply itself. -/
theorem State.send_unheld_replied (s : State) (p : Pkt) (r : Reply) (tag : r.tag = p.tag) (session : r.session = p.session) (seq : r.seq = p.seq) :
    (s.send p.port r false).within s packetParts ∧ (s.send p.port r false).mgp.nonces = s.mgp.nonces ∧
    (s.send p.port r false).replied p r.status r.cause r.data ∧
    ∃ r', vget (s.send p.port r false).mgp.sent p.port = some r' ∧ r'.version = r.version := by
  rw [State.send_unheld]
  obtain ⟨-, nonces, sent⟩ := s.replyLeft_mgp p.port r false
  exact ⟨(s.replyLeft_within p.port r false).mono (by decide), nonces, ⟨_, sent, tag, session, seq, rfl, rfl, rfl⟩, _, sent, rfl⟩

/-- HELLO without a common version. -/
theorem State.hello_refused (s : State) (closed : p.session = 0) (none' : ∀ v ∈ wilrosVersions, ¬(p.num 0 1 ≤ v ∧ v ≤ p.num 1 1)) :
    s.hello p = s.send p.port (s.replyTo helloOp p Status.version 0 [0x24, 0x31]) false := by
  have none'' : (wilrosVersions.filter fun v => decide (p.num 0 1 ≤ v ∧ v ≤ p.num 1 1)) = [] :=
    List.filter_eq_nil_iff.2 fun v hv => by simpa using none' v hv
  unfold State.hello
  rw [none'', closed]
  rfl

/-- The reply of HELLO with a chosen version. -/
def State.helloReply (s : State) (p : Pkt) (v : Nat) : Reply :=
  { (s.offerNonce p v).replyTo helloOp p Status.ok 0 ([v, 0x24, 0x31, 0, s.get Fd.LKS_STAT_slot_id * 4 + s.get Fd.LKS_STAT_role, s.window p.port,
      s.get Fd.MGP_CTRL_lease, 0] ++ nonceBytes s.free ++ beBytes 4 s.baseline) with version := v }

theorem State.hello_chosen (s : State) (closed : p.session = 0) {v : Nat}
    (chosen : (wilrosVersions.filter fun v => decide (p.num 0 1 ≤ v ∧ v ≤ p.num 1 1)).getLast? = some v) :
    s.hello p = (s.offerNonce p v).send p.port (s.helloReply p v) false := by
  unfold State.hello
  rw [chosen, closed]
  rfl

theorem State.offerNonce_within (s : State) (p : Pkt) (v : Nat) : (s.offerNonce p v).within s (.free :: packetParts) := by
  intro q hq
  cases q
  case free | mgp => exact (hq (by decide)).elim
  all_goals rfl

/-- HELLO, whatever the versions. -/
theorem State.hello_within (s : State) (closed : p.session = 0) : (s.hello p).within s (.free :: packetParts) := by
  cases chosen : (wilrosVersions.filter fun v => decide (p.num 0 1 ≤ v ∧ v ≤ p.num 1 1)).getLast? with
  | none =>
    have empty := List.getLast?_eq_none_iff.1 chosen
    rw [s.hello_refused closed fun v hv both => List.filter_eq_nil_iff.1 empty v hv (decide_eq_true both)]
    exact (s.send_unheld_replied p _ rfl rfl rfl).1.mono (by decide)
  | some v =>
    rw [s.hello_chosen closed chosen]
    exact ((State.send_unheld_replied _ p _ rfl rfl rfl).1.mono (by decide)).trans (s.offerNonce_within p v)

theorem execHello_greets (closed : p.session = 0) (h : s.passesUnopened p (fun _ => true) 4) : ∃ t, exec (.hello p) s = .next t ∧
    t.within s (.free :: packetParts) ∧
    ((∀ v ∈ wilrosVersions, ¬(p.num 0 1 ≤ v ∧ v ≤ p.num 1 1)) → t.replied p 0x07 0 [0x24, 0x31]) ∧
    ∀ v ∈ wilrosVersions, p.num 0 1 ≤ v → v ≤ p.num 1 1 → (∀ w ∈ wilrosVersions, w ≤ p.num 1 1 → w ≤ v) →
      ∃ nonce : List Nat, nonce.length = 32 ∧ vget t.mgp.nonces p.port = some ⟨nonce, (s.arrive p).now, v⟩ ∧
        (∃ r, vget t.mgp.sent p.port = some r ∧ r.version = v) ∧ t.replied p 0 0 ([v, 0x24, 0x31, 0, s.get Fd.LKS_STAT_slot_id * 4 +
          s.get Fd.LKS_STAT_role, s.window p.port, s.get Fd.MGP_CTRL_lease, 0] ++ nonce ++ beBytes 4 s.baseline) := by
  have ran : exec (.hello p) s = .next ((s.arrive p).hello p) :=
    congrArg Host.Outcome.next ((if_pos closed).trans (State.unsession_passes h helloOp fun s => s.hello p))
  have parts : (s.arrive p).within s packetParts := ((State.Passed.rfl' s).arrive p).parts
  obtain ⟨slot, role, window, lease, baseline⟩ := s.arrive_shown p
  refine ⟨_, ran, (State.hello_within _ closed).trans (parts.mono (by decide)), fun none' => ?_, fun v hv low high top => ?_⟩
  · rw [State.hello_refused _ closed none']
    exact (State.send_unheld_replied _ p _ rfl rfl rfl).2.2.1
  · have chosen := getLast?_filter_eq_some (q := fun v => decide (p.num 0 1 ≤ v ∧ v ≤ p.num 1 1)) (by decide) hv (decide_eq_true ⟨low, high⟩)
      fun w hw both => top w hw (of_decide_eq_true both).2
    rw [State.hello_chosen _ closed chosen, ← slot, ← role, ← window, ← lease, ← baseline]
    obtain ⟨-, nonces, replied, sent⟩ := ((s.arrive p).offerNonce p v).send_unheld_replied p ((s.arrive p).helloReply p v) rfl rfl rfl
    exact ⟨nonceBytes (s.arrive p).free, length_nonceBytes _, (congrArg (vget · p.port) nonces).trans (vget_vset_same _ _ _), sent, replied⟩

end

end Sys2Proof.Machine
end

section
/-! Chapters 08 and 12, the requests of a session: a package's pieces, admission and eviction, and the test window (R227, R229, R232, R354). -/

namespace Sys2Proof.Machine

section
variable {s t : State} {p : Pkt} {x : Sess}

/-! ## Baskets (R227) -/

theorem State.slot_congr (h : t.arr = s.arr) (i : Fin 32) : t.slot i = s.slot i := congrArg (fun a : ArrRt => vget a.slots i) h

theorem State.storeUsed_congr (h : t.arr = s.arr) : t.storeUsed = s.storeUsed := by
  unfold State.storeUsed State.slot
  rw [h]

/-- The slots of baskets stand as they were in a state that has taken in a packet. -/
theorem State.taken_baskets (s : State) (p : Pkt) : (s.taken p).arr = s.arr ∧ (∀ i : Fin 32, (s.taken p).slotState i = s.slotState i) ∧
    (s.taken p).storeUsed = s.storeUsed := by
  have taken := s.taken_passed p
  have arr : (s.taken p).arr = s.arr := taken.parts .arr (by decide)
  exact ⟨arr, fun i => taken.regs.get (by unfold inPorts; fin_cases i <;> decide), State.storeUsed_congr arr⟩

/-- A refusal of the basket array is shown, and changes registers alone. -/
theorem State.refuseMdl_leaves (s : State) {i : Nat} (hi : i < 64) (cause : Nat) : (s.refuseMdl i cause).get Fd.MDL_REFUSE_slot = i ∧
    (s.refuseMdl i cause).within s [.regs] := by
  refine ⟨?_, .put (.put (.rfl' s) (by decide) _ _) (by decide) _ _⟩
  exact (State.get_put_clear _ _ (by decide)).trans (State.get_put_small _ _ _ (by decide) hi)

/-- A piece of a package as its slot holds it with what came before (R227). -/
def State.piecesWith (s : State) (i : Fin 32) (p : Pkt) : List (Nat × List Nat) :=
  if (s.slot i).total = p.num 4 2 then insPart (s.slot i).parts (p.num 2 2) p.pieceBytes else [(p.num 2 2, p.pieceBytes)]

section
variable {i : Fin 32} (hi : i.val = p.num 0 1)
include hi

/-- A piece for a slot that is in use, or beyond the store's size, is refused. -/
theorem State.basketStoreRun_refused (h : s.slotState i ≠ 0 ∨ 2147483648 < s.storeUsed + p.pieceBytes.length) :
    s.basketStoreRun p x = (s.refuseMdl i 9).answer basketStoreOp p x Status.refusedPackage 9 [] := by
  obtain ⟨_, lt⟩ := i
  obtain rfl := hi
  exact (dif_pos lt).trans (if_pos (by simpa using h))

/-- A piece that its slot takes is answered, with async where the package is whole. -/
theorem State.basketStoreRun_joins (free : s.slotState i = 0) (fits : s.storeUsed + p.pieceBytes.length ≤ 2147483648) :
    s.basketStoreRun p x = if (s.piecesWith i p).length = p.num 4 2 then
        (s.setSlot i { SlotRt.reset with parts := s.piecesWith i p, total := p.num 4 2 }).okAsync basketStoreOp p x
      else (s.setSlot i { SlotRt.reset with parts := s.piecesWith i p, total := p.num 4 2 }).okWith basketStoreOp p x [] := by
  obtain ⟨_, lt⟩ := i
  obtain rfl := hi
  exact (dif_pos lt).trans (if_neg (by simpa using ⟨free, fits⟩))

end

/-- BASKET_STORE leaves the state with its slots as the piece joins them, and its answer. -/
structure State.storedPiece (t s : State) (i : Fin 32) (p : Pkt) : Prop where
  slot : t.slot i = { SlotRt.reset with parts := s.piecesWith i p, total := p.num 4 2 }
  others : ∀ j, j ≠ i → t.slot j = s.slot j
  parts : t.within s (.arr :: packetParts)
  whole : (s.piecesWith i p).length = p.num 4 2 → t.acceptedAsync p
  part : (s.piecesWith i p).length ≠ p.num 4 2 → t.replied p 0 0 []

theorem State.basketStoreRun_stores {i : Fin 32} (hi : i.val = p.num 0 1) (free : s.slotState i = 0)
    (fits : s.storeUsed + p.pieceBytes.length ≤ 2147483648) : (s.basketStoreRun p x).storedPiece s i p := by
  rw [State.basketStoreRun_joins hi free fits]
  have own := s.slot_setSlot_same i { SlotRt.reset with parts := s.piecesWith i p, total := p.num 4 2 }
  have others : ∀ j, j ≠ i → _ := fun j hj => s.slot_setSlot_other (i := i) (j := j) hj { SlotRt.reset with parts := s.piecesWith i p, total := p.num 4 2 }
  have kept : (s.setSlot i { SlotRt.reset with parts := s.piecesWith i p, total := p.num 4 2 }).within s [.arr] := s.within_arr _
  generalize s.setSlot i { SlotRt.reset with parts := s.piecesWith i p, total := p.num 4 2 } = u at *
  have left {t : State} (h : t.within u packetParts) : t.slot i = _ ∧ (∀ j, j ≠ i → t.slot j = s.slot j) ∧ t.within s (.arr :: packetParts) :=
    have arr : t.arr = u.arr := h .arr (by decide)
    ⟨(State.slot_congr arr i).trans own, fun j hj => (State.slot_congr arr j).trans (others j hj), (h.mono (by decide)).trans (kept.mono (by decide))⟩
  by_cases whole : (s.piecesWith i p).length = p.num 4 2
  · rw [if_pos whole]
    obtain ⟨accepted, parts⟩ := u.okAsync_accepted basketStoreOp p x
    obtain ⟨slot, rest, within⟩ := left parts
    exact ⟨slot, rest, within, fun _ => accepted, fun h => absurd whole h⟩
  · rw [if_neg whole]
    obtain ⟨slot, rest, within⟩ := left (u.answer_within basketStoreOp p x Status.ok 0 [])
    exact ⟨slot, rest, within, fun h => absurd h whole, fun _ => u.answer_replied basketStoreOp p x Status.ok 0 []⟩

/-- BASKET_STORE: a piece is refused, or joins its slot. -/
theorem execBasketStore_stores {i : Fin 32} (hi : i.val = p.num 0 1) (h : s.passes basketStoreOp p never always
      (fun _ => if p.pieceOk && decide (p.num 0 1 < 32) then none else some Status.badLength) x) :
    ∃ t, exec (.basketStore p) s = .next t ∧ t.within s (.arr :: packetParts) ∧
      ((s.slotState i ≠ 0 ∨ 2147483648 < s.storeUsed + p.pieceBytes.length) → t.replied p 0x0B 9 [] ∧ t.slot i = s.slot i) ∧
      (s.slotState i = 0 → s.storeUsed + p.pieceBytes.length ≤ 2147483648 → (t.slot i).total = p.num 4 2 ∧ (t.slot i).parts = s.piecesWith i p ∧
        ((t.slot i).parts.length = p.num 4 2 → t.acceptedAsync p) ∧ ((t.slot i).parts.length ≠ p.num 4 2 → t.replied p 0 0 [])) ∧
      ∀ j, j ≠ i → t.slot j = s.slot j := by
  obtain ⟨arr, states, used⟩ := s.taken_baskets p
  have taken := (s.taken_passed p).parts
  have slots := State.slot_congr arr
  refine ⟨_, exec_of_passes rfl h, ?_⟩
  by_cases refused : s.slotState i ≠ 0 ∨ 2147483648 < s.storeUsed + p.pieceBytes.length
  · rw [State.basketStoreRun_refused hi (by rwa [states, used])]
    have parts := (State.answer_within ((s.taken p).refuseMdl i 9) basketStoreOp p x Status.refusedPackage 9 []).trans
      (((s.taken p).refuseMdl_leaves (i := i) (by omega) 9).2.mono (by decide))
    have kept := State.slot_congr ((parts .arr (by decide)).trans arr)
    exact ⟨(parts.trans taken).mono (by decide), fun _ => ⟨State.answer_replied _ basketStoreOp p x Status.refusedPackage 9 [], kept i⟩,
      fun free fits => absurd refused (by simpa using ⟨free, fits⟩), fun j _ => kept j⟩
  · obtain ⟨free, fits⟩ : s.slotState i = 0 ∧ s.storeUsed + p.pieceBytes.length ≤ 2147483648 := by simpa using refused
    obtain ⟨slot, others, parts, whole, part⟩ :=
      State.basketStoreRun_stores (x := x) hi ((states i).trans free) (show (s.taken p).storeUsed + p.pieceBytes.length ≤ 2147483648 by rwa [used])
    have pieces : (s.taken p).piecesWith i p = s.piecesWith i p := by
      unfold State.piecesWith
      rw [slots]
    rw [pieces] at slot whole part
    exact ⟨parts.trans (taken.mono (by decide)), fun h => absurd h refused,
      fun _ _ => by rw [slot]; exact ⟨rfl, rfl, whole, part⟩, fun j hj => (others j hj).trans (slots j)⟩

/-! ## Admission and eviction (R229, R232) -/

/-- A request of the array waits for its frame 252, and so does the reply to its packet. -/
theorem State.Passed.later_requested {r : MdlReq} {o : OpInfo} (h : t.Passed { s.held with packets := s.mgp.packets + 1 } s) (check : ReplyCheck) :
    ∃ w, (({ t with arr := { t.arr with reqs := t.arr.reqs ++ [r] } } : State).later o p x .commit check []).arr =
        { s.arr with reqs := s.arr.reqs ++ [r] } ∧
      (({ t with arr := { t.arr with reqs := t.arr.reqs ++ [r] } } : State).later o p x .commit check []).mgp.waiting = s.mgp.waiting ++ [w] ∧
      w.when' = .commit ∧ w.check = check ∧
      (({ t with arr := { t.arr with reqs := t.arr.reqs ++ [r] } } : State).later o p x .commit check []).within s (.arr :: packetParts) := by
  have arr : t.arr = s.arr := h.parts .arr (by decide)
  have queued := t.within_arr { t.arr with reqs := t.arr.reqs ++ [r] }
  have asked : ({ t with arr := { t.arr with reqs := t.arr.reqs ++ [r] } } : State).arr = { s.arr with reqs := s.arr.reqs ++ [r] } := by
    rw [← arr]
  have before : ({ t with arr := { t.arr with reqs := t.arr.reqs ++ [r] } } : State).mgp.waiting = s.mgp.waiting :=
    congrArg State.Held.waiting h.held
  generalize ({ t with arr := { t.arr with reqs := t.arr.reqs ++ [r] } } : State) = u at *
  obtain ⟨w, waiting, -, -, when', check', -⟩ := u.later_waits o p x check [] .commit
  have parts := u.later_within o p x check [] .commit
  exact ⟨w, (parts .arr (by decide)).trans asked, waiting.trans (by rw [before]), when', check',
    (parts.mono (by decide)).trans ((queued.mono (by decide)).trans (h.parts.mono (by decide)))⟩

section
variable {i : Fin 32} (hi : i.val = p.num 0 1) {o : OpInfo} {cores : List Nat} {change : Bool}
include hi

/-- The slot that a packet names. -/
theorem fin_of_num (lt : p.num 0 1 < 32) : (⟨p.num 0 1, lt⟩ : Fin 32) = i := Fin.ext hi.symm

/-- Admission, or a change of variant, that the array refuses. -/
theorem State.admitCmd_refused {c : Nat} (h : s.afterReqs.admission i (p.num 1 1) cores change = .error c) :
    s.admitCmd o p x cores change = (s.refuseMdl i c).answer o p x Status.refusedAdmission ((s.refuseMdl i c).get Fd.MDL_REFUSE_cause) [] := by
  have asked : s.requestBind i (p.num 1 1) cores change = s.refuseMdl i c := by
    unfold State.requestBind
    rw [h]
  have arr : (s.refuseMdl i c).arr = s.arr := (RegOnly.refuseMdl (.rfl' s) _ _).arr_eq
  unfold State.admitCmd
  rw [dif_pos (hi ▸ i.isLt), fin_of_num hi]
  dsimp only
  rw [asked, if_pos (by rw [arr])]

/-- Admission, or a change of variant, that waits for its frame 252. -/
theorem State.admitCmd_waits {bound : List Nat} {bank : Nat} (h : s.afterReqs.admission i (p.num 1 1) cores change = .ok (bound, bank)) :
    s.admitCmd o p x cores change = ({ s with arr := { s.arr with reqs := s.arr.reqs ++ [.bind i (p.num 1 1) bound bank change] } } : State).later o p x
      .commit (.entry i (p.num 1 1)) [] := by
  have asked : s.requestBind i (p.num 1 1) cores change =
      { s with arr := { s.arr with reqs := s.arr.reqs ++ [.bind i (p.num 1 1) bound bank change] } } := by
    unfold State.requestBind
    rw [h]
  unfold State.admitCmd
  rw [dif_pos (hi ▸ i.isLt), fin_of_num hi]
  dsimp only
  rw [asked, if_neg (by simp)]

theorem State.basketEvictRun_refused (h : s.afterReqs.admitted i = false) :
    s.basketEvictRun p x = (s.refuseMdl i 8).answer basketEvictOp p x Status.refusedAdmission 8 [] := by
  have asked : s.requestEvict i = s.refuseMdl i 8 := if_neg (by rw [h]; decide)
  have arr : (s.refuseMdl i 8).arr = s.arr := (RegOnly.refuseMdl (.rfl' s) _ _).arr_eq
  unfold State.basketEvictRun
  rw [dif_pos (hi ▸ i.isLt), fin_of_num hi]
  dsimp only
  rw [asked, if_pos (by rw [arr])]

theorem State.basketEvictRun_waits (h : s.afterReqs.admitted i = true) :
    s.basketEvictRun p x = ({ s with arr := { s.arr with reqs := s.arr.reqs ++ [.evict i] } } : State).later basketEvictOp p x .commit (.evict i) [] := by
  have asked : s.requestEvict i = { s with arr := { s.arr with reqs := s.arr.reqs ++ [.evict i] } } := if_pos h
  unfold State.basketEvictRun
  rw [dif_pos (hi ▸ i.isLt), fin_of_num hi]
  dsimp only
  rw [asked, if_neg (by simp)]

end

/-- The answer to a request that the array refuses: the slot and the cause stay shown. -/
theorem State.taken_refusal (s : State) (o : OpInfo) (p : Pkt) (x : Sess) (i : Fin 32) (c status cause : Nat) (data : List Nat) :
    (((s.taken p).refuseMdl i c).answer o p x status cause data).get Fd.MDL_REFUSE_slot = i ∧
    (((s.taken p).refuseMdl i c).answer o p x status cause data).get Fd.MDL_REFUSE_cause = ((s.taken p).refuseMdl i c).get Fd.MDL_REFUSE_cause ∧
    (((s.taken p).refuseMdl i c).answer o p x status cause data).arr = s.arr ∧
    (((s.taken p).refuseMdl i c).answer o p x status cause data).within s packetParts := by
  obtain ⟨slot, refused⟩ := (s.taken p).refuseMdl_leaves (i := i) (by omega) c
  generalize (s.taken p).refuseMdl i c = u at *
  have off := u.answer_regsOff o p x status cause data
  have parts : (u.answer o p x status cause data).within s packetParts :=
    (u.answer_within o p x status cause data).trans ((refused.mono (by decide)).trans (s.taken_passed p).parts)
  exact ⟨(off.get (f := Fd.MDL_REFUSE_slot) (by unfold inPorts; decide)).trans slot, off.get (by unfold inPorts; decide), parts .arr (by decide), parts⟩

/-- A command that asks for admission, or for a change of variant, once its packet has passed: refused, or waiting. -/
theorem exec_admits {i : Fin 32} (hi : i.val = p.num 0 1) {c : Instr} {o : OpInfo} {cores : List Nat} {change : Bool}
    (ran : exec c s = .next ((s.taken p).admitCmd o p x cores change)) :
    (∀ e, (s.taken p).afterReqs.admission i (p.num 1 1) cores change = .error e → ∃ t, exec c s = .next t ∧
      t.get Fd.MDL_REFUSE_slot = i ∧ t.replied p 0x08 (t.get Fd.MDL_REFUSE_cause) [] ∧ t.arr = s.arr ∧ t.within s packetParts) ∧
    (∀ bound bank, (s.taken p).afterReqs.admission i (p.num 1 1) cores change = .ok (bound, bank) → ∃ t, exec c s = .next t ∧
      t.arr = { s.arr with reqs := s.arr.reqs ++ [.bind i (p.num 1 1) bound bank change] } ∧
      (∃ w, t.mgp.waiting = s.mgp.waiting ++ [w] ∧ w.when' = .commit ∧ w.check = .entry i (p.num 1 1)) ∧ t.within s (.arr :: packetParts)) := by
  refine ⟨fun e refused => ⟨_, ran, ?_⟩, fun bound bank admitted => ⟨_, ran, ?_⟩⟩
  · rw [State.admitCmd_refused hi refused]
    obtain ⟨slot, cause, arr, parts⟩ := s.taken_refusal o p x i e Status.refusedAdmission (((s.taken p).refuseMdl i e).get Fd.MDL_REFUSE_cause) []
    rw [cause]
    exact ⟨slot, State.answer_replied _ o p x Status.refusedAdmission _ [], arr, parts⟩
  · rw [State.admitCmd_waits hi admitted]
    obtain ⟨w, arr, waiting, when', check, parts⟩ :=
      (s.taken_passed p).later_requested (r := .bind i (p.num 1 1) bound bank change) (o := o) (p := p) (x := x) (.entry i (p.num 1 1))
    exact ⟨arr, ⟨w, waiting, when', check⟩, parts⟩

theorem execBasketEvict_evicts {i : Fin 32} (hi : i.val = p.num 0 1)
    (h : s.passes basketEvictOp p never always (fun _ => p.lenAnd 4 (decide (p.num 0 1 < 32))) x) :
    ((s.taken p).afterReqs.admitted i = false → ∃ t, exec (.basketEvict p) s = .next t ∧ t.replied p 0x08 8 [] ∧ t.arr = s.arr ∧
      t.within s packetParts) ∧
    ((s.taken p).afterReqs.admitted i = true → ∃ t, exec (.basketEvict p) s = .next t ∧ t.arr = { s.arr with reqs := s.arr.reqs ++ [.evict i] } ∧
      (∃ w, t.mgp.waiting = s.mgp.waiting ++ [w] ∧ w.when' = .commit ∧ w.check = .evict i) ∧ t.within s (.arr :: packetParts)) := by
  have ran : exec (.basketEvict p) s = .next ((s.taken p).basketEvictRun p x) := exec_of_passes (run := fun s x => s.basketEvictRun p x) rfl h
  refine ⟨fun refused => ⟨_, ran, ?_⟩, fun admitted => ⟨_, ran, ?_⟩⟩
  · rw [State.basketEvictRun_refused hi refused]
    obtain ⟨-, -, arr, parts⟩ := s.taken_refusal basketEvictOp p x i 8 Status.refusedAdmission 8 []
    exact ⟨State.answer_replied _ basketEvictOp p x Status.refusedAdmission 8 [], arr, parts⟩
  · rw [State.basketEvictRun_waits hi admitted]
    obtain ⟨w, arr, waiting, when', check, parts⟩ :=
      (s.taken_passed p).later_requested (r := .evict i) (o := basketEvictOp) (p := p) (x := x) (.evict i)
    exact ⟨arr, ⟨w, waiting, when', check⟩, parts⟩

/-! ## The test window (R354) -/

/-- Which stages are under command does not hang on the registers of the ports. -/
theorem State.anyUnder_congr (zfb : t.zfb = s.zfb) (regs : t.regsOff inPorts s) : t.anyUnder = s.anyUnder := by
  have os : t.get Fd.ZFB_DECL_OS_os = s.get Fd.ZFB_DECL_OS_os := regs.get (by unfold inPorts; decide)
  have strings : t.get Fd.ZFB_DECL_PWR_strings = s.get Fd.ZFB_DECL_PWR_strings := regs.get (by unfold inPorts; decide)
  have fe : t.get Fd.ZFB_DECL_PWR_fe = s.get Fd.ZFB_DECL_PWR_fe := regs.get (by unfold inPorts; decide)
  have lane (n : Fin 26) : t.get (Fd.STL_LANE_STAT_state n) = s.get (Fd.STL_LANE_STAT_state n) :=
    regs.get (by unfold inPorts; fin_cases n <;> decide)
  have stage (n : Fin 26) : t.stageUnder n = s.stageUnder n := by
    unfold State.stageUnder State.stageDecl State.osDecl State.strDecl State.feDecl
    rw [zfb, os, strings, fe, lane]
  unfold State.anyUnder
  simp only [stage]

theorem State.testLanes_within (s : State) (on : Bool) : (s.testLanes on).within s [.regs] := by
  have stages (u : State) (serve : Nat) (h : u.within s [.regs]) : (u.testStages on serve).within s [.regs] :=
    .foldl (fun _ _ hv => .put hv (by decide) _ _) h
  have trays (u : State) (serve : Nat) (h : u.within s [.regs]) : (u.testTrays on serve).within s [.regs] :=
    .foldl (fun _ _ hv => .put hv (by decide) _ _) h
  unfold State.testLanes
  extract_lets serve u
  have own : u.within s [.regs] := .ite (fun _ => trays _ _ (stages _ _ (.rfl' s))) fun _ => .rfl' s
  exact .ite (fun _ => .put own (by decide) _ _) fun _ => own

/-- A phase begins: the test runs in it, and the lanes are tested. -/
theorem State.startPhase_begins (s : State) (b : BertRun) : (s.startPhase b).link.bert = b ∧ (s.startPhase b).link.bertWindow = s.link.bertWindow ∧
    (s.startPhase b).within s [.regs, .link] := by
  have lanes := State.testLanes_within ((s.enterPhase b).put Fd.STL_BERT_STAT_phase b.code) true
  have link : (s.startPhase b).link = (s.enterPhase b).link := lanes .link (by decide)
  have entered : (s.enterPhase b).within s [.link] := s.within_link _
  exact ⟨congrArg LinkRt.bert link, (congrArg LinkRt.bertWindow link).trans rfl,
    (lanes.mono (by decide)).trans (.put (entered.mono (by decide)) (by decide) _ _)⟩

/-- The state with the length of its test window. -/
def State.withWindow (s : State) (seconds : Nat) : State := { s with link := { s.link with bertWindow := seconds } }

/-- The seconds that the next phase needs of a window: phases 1 and 3 with a partner, phase 2 without (Table 12-12). -/
def State.bertNeed (s : State) : Nat := if s.lks.partnerValid then 50 else 20

/-- The phase that a window starts. -/
def State.bertPhase (s : State) : BertRun := .phase (if s.lks.partnerValid then 1 else 2)

/-- A window that starts the test. -/
theorem State.bertGrant_starts {seconds : Nat} (idle : s.link.bert = .none) (due : 24 ≤ s.get Fd.STL_BERT_STAT_hours) (long : s.bertNeed ≤ seconds)
    (pair : s.lks.partnerValid = true → s.flag Fd.LKS_STAT_synced = true ∨ s.lks.claimant = true)
    (single : s.lks.partnerValid = true ∨ s.anyUnder = false) : s.bertGrant seconds = (s.withWindow seconds).startPhase s.bertPhase := by
  have may : (if s.lks.partnerValid then s.flag Fd.LKS_STAT_synced || s.lks.claimant else !s.anyUnder) = true := by
    cases partner : s.lks.partnerValid with
    | true => simpa using pair partner
    | false => simpa [partner] using single
  refine if_pos ?_
  dsimp only
  rw [may, idle, decide_eq_true due, show decide ((if s.lks.partnerValid = true then 50 else 20) ≤ seconds) = true from decide_eq_true long]
  rfl

/-- A window that starts no test. -/
theorem State.bertGrant_waits {seconds : Nat} (h : s.link.bert ≠ .none ∨ s.get Fd.STL_BERT_STAT_hours < 24 ∨ seconds < s.bertNeed) :
    s.bertGrant seconds = s.withWindow seconds := by
  unfold State.bertNeed at h
  refine if_neg ?_
  dsimp only
  simp only [Bool.and_eq_true, decide_eq_true_eq, beq_iff_eq, not_and]
  intro ⟨⟨due, _⟩, long⟩ idle
  rcases h with running | early | short
  · exact running idle
  · exact absurd due (Nat.not_le.2 early)
  · exact absurd long (Nat.not_le.2 short)

theorem State.withWindow_within (s : State) (seconds : Nat) : (s.withWindow seconds).within s [.link] := s.within_link _

/-- Whatever a window starts, it is noted, and only the test's own state moves. -/
theorem State.bertGrant_leaves (s : State) (seconds : Nat) : (s.bertGrant seconds).link.bertWindow = seconds ∧
    (s.bertGrant seconds).within s [.regs, .link] := by
  have noted := (s.withWindow_within seconds).mono (l' := [.regs, .link]) (by decide)
  obtain starts | waits : s.bertGrant seconds = (s.withWindow seconds).startPhase s.bertPhase ∨ s.bertGrant seconds = s.withWindow seconds := ite_eq_or_eq ..
  · rw [starts]
    obtain ⟨-, window, parts⟩ := (s.withWindow seconds).startPhase_begins s.bertPhase
    exact ⟨window.trans rfl, parts.trans noted⟩
  · rw [waits]
    exact ⟨rfl, noted⟩

/-- The first byte of BERT_WINDOW's reply, where the test was `was` before the window (R354). -/
def State.bertStarted (s : State) (was : BertRun) : Nat := if was == s.link.bert then 0 else if s.lks.partnerValid then 3 else 1

theorem State.bertWindowRun_refused (single : s.lks.partnerValid = false) (under : s.anyUnder = true) :
    s.bertWindowRun p x = s.answer bertWindowOp p x Status.refused 0x22 [] := if_pos (by rw [single, under]; rfl)

theorem State.bertWindowRun_grants (h : s.lks.partnerValid = true ∨ s.anyUnder = false) : s.bertWindowRun p x =
    (s.bertGrant (p.num 0 2)).okWith bertWindowOp p x [(s.bertGrant (p.num 0 2)).bertStarted s.link.bert, 0, 0, 0] :=
  if_neg (by rcases h with pair | clear <;> simp [*])

/-- What a window that is not refused leaves. -/
theorem State.bertWindowRun_leaves (s : State) (p : Pkt) (x : Sess) (h : s.lks.partnerValid = true ∨ s.anyUnder = false) :
    (s.bertWindowRun p x).link = (s.bertGrant (p.num 0 2)).link ∧ (s.bertWindowRun p x).within s (.link :: packetParts) ∧
    (s.bertWindowRun p x).replied p 0 0 [(s.bertGrant (p.num 0 2)).bertStarted s.link.bert, 0, 0, 0] := by
  obtain ⟨-, granted⟩ := s.bertGrant_leaves (p.num 0 2)
  rw [State.bertWindowRun_grants h]
  generalize s.bertGrant (p.num 0 2) = u at *
  have parts := u.answer_within bertWindowOp p x Status.ok 0 [u.bertStarted s.link.bert, 0, 0, 0]
  exact ⟨parts .link (by decide), (parts.mono (by decide)).trans (granted.mono (by decide)),
    u.answer_replied bertWindowOp p x Status.ok 0 [u.bertStarted s.link.bert, 0, 0, 0]⟩

/-- What BERT_WINDOW judges by is not changed by the packet's arrival. -/
theorem State.taken_bert (s : State) (p : Pkt) : (s.taken p).link = s.link ∧ (s.taken p).lks = s.lks ∧ (s.taken p).anyUnder = s.anyUnder ∧
    (s.taken p).get Fd.STL_BERT_STAT_hours = s.get Fd.STL_BERT_STAT_hours ∧ (s.taken p).flag Fd.LKS_STAT_synced = s.flag Fd.LKS_STAT_synced := by
  have taken := s.taken_passed p
  exact ⟨taken.parts .link (by decide), taken.parts .lks (by decide), State.anyUnder_congr (taken.parts .zfb (by decide)) taken.regs,
    taken.regs.get (by unfold inPorts; decide), taken.regs.flag (by unfold inPorts; decide)⟩

theorem execBertWindow_refused (h : s.passes bertWindowOp p never always (fun _ => p.len 4) x) (single : s.lks.partnerValid = false)
    (under : s.anyUnder = true) : ∃ t, exec (.bertWindow p) s = .next t ∧ t.replied p 0x0A 0x22 [] ∧ t.link = s.link ∧ t.within s packetParts := by
  obtain ⟨-, lks, under', -, -⟩ := s.taken_bert p
  have parts := ((s.taken p).answer_within bertWindowOp p x Status.refused 0x22 []).trans (s.taken_passed p).parts
  refine ⟨_, exec_of_passes rfl h, ?_⟩
  rw [State.bertWindowRun_refused (by rw [lks, single]) (under'.trans under)]
  exact ⟨State.answer_replied _ bertWindowOp p x Status.refused 0x22 [], parts .link (by decide), parts⟩

theorem execBertWindow_opens (h : s.passes bertWindowOp p never always (fun _ => p.len 4) x) (may : s.lks.partnerValid = true ∨ s.anyUnder = false) :
    ∃ t, exec (.bertWindow p) s = .next t ∧ t.link.bertWindow = p.num 0 2 ∧
      ((s.link.bert = .none ∧ 24 ≤ s.get Fd.STL_BERT_STAT_hours ∧ s.bertNeed ≤ p.num 0 2 ∧
          (s.lks.partnerValid = true → s.flag Fd.LKS_STAT_synced = true ∨ s.lks.claimant = true) →
        t.link.bert = s.bertPhase ∧ t.replied p 0 0 [if s.lks.partnerValid then 3 else 1, 0, 0, 0]) ∧
      (s.link.bert ≠ .none ∨ s.get Fd.STL_BERT_STAT_hours < 24 ∨ p.num 0 2 < s.bertNeed →
        t.link.bert = s.link.bert ∧ t.replied p 0 0 [0, 0, 0, 0])) ∧ t.within s (.link :: packetParts) := by
  obtain ⟨link', lks, under, hours, synced⟩ := s.taken_bert p
  have taken := (s.taken_passed p).parts
  have need : s.bertNeed = (s.taken p).bertNeed := by rw [State.bertNeed, State.bertNeed, lks]
  have phase : s.bertPhase = (s.taken p).bertPhase := by rw [State.bertPhase, State.bertPhase, lks]
  have ran : exec (.bertWindow p) s = .next ((s.taken p).bertWindowRun p x) := exec_of_passes (run := fun s x => s.bertWindowRun p x) rfl h
  rw [need, phase, ran, ← link', ← lks, ← hours, ← synced]
  rw [← lks, ← under] at may
  generalize s.taken p = u at *
  obtain ⟨window, -⟩ := u.bertGrant_leaves (p.num 0 2)
  obtain ⟨link, parts, replied⟩ := u.bertWindowRun_leaves p x may
  refine ⟨_, rfl, by rw [link, window], ⟨fun ⟨idle, due, long, pair⟩ => ?_, fun waits => ?_⟩, parts.trans (taken.mono (by decide))⟩
  · have starts := State.bertGrant_starts idle due long pair may
    obtain ⟨bert, -, kept⟩ := (u.withWindow (p.num 0 2)).startPhase_begins u.bertPhase
    have partner : ((u.withWindow (p.num 0 2)).startPhase u.bertPhase).lks = u.lks := kept .lks (by decide)
    have shown : ((u.withWindow (p.num 0 2)).startPhase u.bertPhase).bertStarted u.link.bert = if u.lks.partnerValid then 3 else 1 := by
      rw [State.bertStarted, bert, partner, idle]
      rfl
    rw [starts, shown] at replied
    exact ⟨by rw [link, starts, bert], replied⟩
  · have same := State.bertGrant_waits (s := u) (seconds := p.num 0 2) waits
    have shown : (u.withWindow (p.num 0 2)).bertStarted u.link.bert = 0 := if_pos (beq_self_eq_true u.link.bert)
    rw [same, shown] at replied
    exact ⟨by rw [link, same]; rfl, replied⟩

/-- KEEPALIVE is answered, and renews its session as it is taken in. -/
theorem execKeepalive_answers (h : s.passes keepaliveOp p never always (fun _ => p.len 0) x) :
    ∃ t, exec (.keepalive p) s = .next t ∧ t.replied p 0 0 [] ∧ t.within s packetParts :=
  ⟨_, exec_of_passes rfl h, State.answer_replied _ keepaliveOp p x Status.ok 0 [],
    ((s.taken p).answer_within keepaliveOp p x Status.ok 0 []).trans (s.taken_passed p).parts⟩

/-! ## The semaphore's commands and SESSION_CLOSE -/

theorem execSessionClose_closes (h : s.passes sessionCloseOp p never always (fun _ => p.len 0) x) :
    ∃ t, exec (.sessionClose p) s = .next t ∧ t.replied p 0 0 [] ∧ t.sessionOf p = none ∧ t.within s packetParts := by
  obtain ⟨replied, ended, parts⟩ := (s.taken p).sessionCloseRun_closes p x
  exact ⟨_, exec_of_passes rfl h, replied, ended, parts.trans (s.taken_passed p).parts⟩

theorem execSemAcquire_acquires (h : s.passes semAcquireOp p never always (fun _ => p.len 0) x) :
    ∃ t, exec (.semAcquire p) s = .next t ∧ t.within s packetParts ∧
      ((s.taken p).mgp.sem ≠ none → (s.taken p).holdsSem p.port p.session = false →
        t.replied p 0x02 0 (s.taken p).semData ∧ (p.seq ≠ 0xFFFFFFFF → t.mgp.sem = (s.taken p).mgp.sem)) ∧
      ((s.taken p).mgp.sem = none ∨ (s.taken p).holdsSem p.port p.session = true → ∃ data, t.replied p 0 0 data ∧ (p.seq ≠ 0xFFFFFFFF →
        data = t.semData ∧ t.mgp.sem = some (p.port, p.session, (s.taken p).now) ∧ t.flag Fd.MGP_SEM_STAT_held = true ∧
        t.get Fd.MGP_SEM_STAT_port = p.port ∧ t.sec.next = ((s.taken p).sec.next + 1) % 2 ^ 64)) :=
  ⟨_, exec_of_passes rfl h, ((s.taken p).semAcquireRun_within p x).trans (s.taken_passed p).parts,
    fun taken other => ((s.taken p).semAcquireRun_blocked p x taken other).imp_right fun kept _ => kept,
    (s.taken p).semAcquireRun_takes p x⟩

theorem execSemRelease_releases (h : s.passes semReleaseOp p never always (fun _ => p.len 0) x) :
    ∃ t, exec (.semRelease p) s = .next t ∧ t.within s packetParts ∧
      ((s.taken p).mgp.sem = none ∨ (s.taken p).holdsSem p.port p.session = true → t.replied p 0 0 [] ∧ t.mgp.sem = none) ∧
      ((s.taken p).mgp.sem ≠ none → (s.taken p).holdsSem p.port p.session = false → t.replied p 0x02 0 [] ∧ t.mgp.sem = (s.taken p).mgp.sem) := by
  refine ⟨_, exec_of_passes rfl h, ?_⟩
  have taken := (s.taken_passed p).parts
  by_cases may : (s.taken p).mgp.sem = none ∨ (s.taken p).holdsSem p.port p.session = true
  · obtain ⟨replied, free, parts⟩ := (s.taken p).semReleaseRun_frees p x may
    exact ⟨parts.trans taken, fun _ => ⟨replied, free⟩, fun held other => absurd may (not_or.2 ⟨held, by simp [other]⟩)⟩
  · obtain ⟨held, other⟩ := not_or.1 may
    obtain ⟨replied, kept, parts⟩ := (s.taken p).semReleaseRun_blocked p x held (Bool.eq_false_iff.2 other)
    exact ⟨parts.trans taken, fun h => absurd h may, fun _ _ => ⟨replied, kept⟩⟩

theorem execSemSeize_seizes (h : s.passes semSeizeOp p never always (fun _ => p.len 0) x) :
    ∃ t, exec (.semSeize p) s = .next t ∧ t.within s packetParts ∧
      t.replied p 0 0 (s.taken p).semFormer ∧ (p.seq ≠ 0xFFFFFFFF → t.mgp.sem = some (p.port, p.session, (s.taken p).now)) ∧
      ((s.taken p).mgp.sem ≠ none → (s.taken p).holdsSem p.port p.session = false →
        t.get Fd.MGP_SEM_CNT_seized = ((s.taken p).get Fd.MGP_SEM_CNT_seized + 1) % 65536 ∧ t.faultCounted (s.taken p) 16) := by
  obtain ⟨parts, replied, sem, counts⟩ := (s.taken p).semSeizeRun_seizes p x
  exact ⟨_, exec_of_passes rfl h, parts.trans (s.taken_passed p).parts, replied, sem, counts⟩

end

/-- Settles O47: each command once its packet has passed Table 13-3. Log entries 87, 96, 121 and 134 stand behind admission after the waiting requests,
the store's size, BERT_WINDOW's reply and SEM_RELEASE's statuses. -/
theorem sessionsSemaphoreAndBaskets : Obligations.SessionsSemaphoreAndBaskets := by
  unfold Obligations.SessionsSemaphoreAndBaskets
  intro p x s
  refine ⟨execSessionClose_closes, execKeepalive_answers, execSemAcquire_acquires, execSemRelease_releases, execSemSeize_seizes, execHello_greets,
    fun i hi => execBasketStore_stores hi, fun i hi => ?_, fun i hi => execBasketEvict_evicts hi,
    fun h => ⟨execBertWindow_refused h, execBertWindow_opens h⟩⟩
  refine List.forall_mem_cons.2 ⟨fun h => ?_, List.forall_mem_singleton.2 fun h => ?_⟩
  · exact exec_admits hi (exec_of_passes (run := fun s x => s.basketAdmitRun p x) rfl h)
  · exact exec_admits hi (exec_of_passes (run := fun s x => s.basketVariantRun p x) rfl h)

end Sys2Proof.Machine
end

section
/-! Chapter 09: what the chain master puts on a ring's line (R244, R252 to R255, R259, R260, R262). -/

namespace Sys2Proof.Machine

section
variable (s : State) (r : Fin 3)

/-! ## Rings -/

theorem State.setRing_self : s.setRing r (s.ring r) = s := by
  unfold State.setRing State.ring vset vget
  simp

theorem State.setRing_setRing (x y : ChnStr) : (s.setRing r x).setRing r y = s.setRing r y := by
  unfold State.setRing vset
  simp

/-- A change of one ring. -/
theorem State.setRing_ringOnly (x : ChnStr) : (s.setRing r x).ringOnly s r :=
  ⟨fun _ h => s.ring_setRing_other r x h, rfl, rfl, s.setRing_within r x⟩

/-- A standby's transmitters stay idle (R244). -/
theorem State.emit_eq (f : ChnFrame) : s.emit r f = s.setRing r { s.ring r with sent := if s.isStandby then (s.ring r).sent else some f } := by
  unfold State.emit
  cases s.isStandby with
  | true => exact (s.setRing_self r).symm
  | false => rfl

/-- Taking the next sequence number, and perhaps a transaction, and then the line: `ringSent` in one step. -/
theorem State.emit_ringSent (txn : Option ChnTxn) (f : ChnFrame) :
    (s.setRing r { s.ring r with seq := ((s.ring r).seq + 1) % 16, txn := txn }).emit r f =
      s.setRing r (ringSent (s.ring r) s.isStandby txn f) := by
  rw [State.emit_eq, State.setRing_setRing, State.ring_setRing_same]
  rfl

/-! ## Broadcasts and commands -/

/-- The frame of a broadcast, which leaves on both ports while the ring is not whole (R253). -/
def State.broadcastFrame (op : Nat) : ChnFrame := ⟨true, s.ringState r != 1, 0xFF, false, (s.ring r).seq, op, []⟩

theorem State.broadcast_eq (op : Nat) :
    s.broadcast r op [] = s.setRing r (ringSent (s.ring r) s.isStandby (s.ring r).txn (s.broadcastFrame r op)) :=
  s.emit_ringSent r (s.ring r).txn _

theorem State.transact_sendsTo (i : Fin 14) (op attempt : Nat) (payload : List Nat) :
    (s.transact r i op attempt payload).sendsTo s r i op attempt payload ∧ (s.transact r i op attempt payload).ringOnly s r := by
  unfold State.transact
  extract_lets x whole ret portB u
  have sent := s.emit_ringSent r (some ⟨i + 1, op, x.seq, attempt⟩) ⟨!portB, portB, hopFrom portB i, ret, x.seq, op, payload⟩
  rw [show u = _ from rfl, sent]
  refine ⟨⟨_, s.ring_setRing_same r _, rfl, rfl, rfl, rfl, fun plain ring => ?_, fun plain ring => ?_, fun third => ?_⟩, s.setRing_ringOnly r _⟩
  · simp [ret, portB, whole, plain, ring, hopFrom]
  · by_cases near : i.val + 1 ≤ s.get (Fd.CHN_STR_STAT_reach_a r) <;> simp [ret, portB, whole, plain, ring, hopFrom, near]
  · by_cases far : 8 ≤ i.val + 1 <;> simp [ret, portB, third, hopFrom, far] <;> omega

variable {s r} {t u : State} {i : Fin 14} {op attempt : Nat} {payload : List Nat}

/-- A command goes by its ring, the module's role and the ring's status alone. -/
theorem State.sendsTo.of_eq (h : t.sendsTo u r i op attempt payload) (ring : u.ring r = s.ring r) (standby : u.isStandby = s.isStandby)
    (stat : u.rd (Reg.CHN_STR_STAT r) = s.rd (Reg.CHN_STR_STAT r)) : t.sendsTo s r i op attempt payload := by
  have state : u.ringState r = s.ringState r := congrArg (getBits · 28 4) stat
  have reach : u.get (Fd.CHN_STR_STAT_reach_a r) = s.get (Fd.CHN_STR_STAT_reach_a r) := congrArg (getBits · 20 4) stat
  unfold State.sendsTo at h ⊢
  rwa [ring, standby, state, reach] at h

end

section
variable (s : State) (r : Fin 3)

/-! ## SNAP and HUSH (R255, R260) -/

theorem execSnapSend_idle (cyc : Nat) (h : (s.ring r).snapDue = false) : exec (.snapSend r cyc) s = .next s :=
  congrArg Host.Outcome.next (if_pos (by simp [h]))

/-- SNAP leaves, and the sweep takes its stamp. -/
def State.snapped (cyc : Nat) : State :=
  let u := s.setRing r { ringSent (s.ring r) s.isStandby (s.ring r).txn (s.broadcastFrame r 0x10) with snapDue := false }
  u.put64 (Reg.CHN_STR_SNAP_LO r) (Reg.CHN_STR_SNAP_HI r) ((s.time.frameStart + cyc) % 2 ^ 64)

theorem execSnapSend_leaves (cyc : Nat) (due : (s.ring r).snapDue = true) (inside : cyc < s.time.len) :
    exec (.snapSend r cyc) s = .next (s.snapped r cyc) := by
  refine congrArg Host.Outcome.next ((if_neg (by simp [due]; omega)).trans ?_)
  rw [State.broadcast_eq]
  dsimp only
  rw [State.setRing_setRing, State.ring_setRing_same]
  rfl

theorem State.snapped_stamp (cyc : Nat) :
    (s.snapped r cyc).get64 (Reg.CHN_STR_SNAP_LO r) (Reg.CHN_STR_SNAP_HI r) = (s.time.frameStart + cyc) % 2 ^ 64 :=
  State.get64_put64 _ (by unfold Reg.CHN_STR_SNAP_LO Reg.CHN_STR_SNAP_HI; omega) (Nat.mod_lt _ (Nat.two_pow_pos 64))

theorem State.snapped_ring (cyc : Nat) (q : Fin 3) : (s.snapped r cyc).ring q =
    (s.setRing r { ringSent (s.ring r) s.isStandby (s.ring r).txn (s.broadcastFrame r 0x10) with snapDue := false }).ring q :=
  State.ring_congr _ (State.put64_chn _ _ _ _) q

theorem State.snapped_withinRegs (cyc : Nat) : (s.snapped r cyc).withinRegs s [Reg.CHN_STR_SNAP_LO r, Reg.CHN_STR_SNAP_HI r] :=
  State.regsOff.withinRegs ((State.regsOff.setRing s r (.rfl' s) _).put64 (by simp) (by simp) _)

theorem State.snapped_within (cyc : Nat) : (s.snapped r cyc).within s [.regs, .chn] :=
  ((s.setRing_within r _).mono (by decide)).put64 (by decide) _ _ _

theorem execHushSend_leaves (due : (s.ring r).hushDue = true) : exec (.hushSend r) s =
    .next (s.setRing r { ringSent (s.ring r) s.isStandby (s.ring r).txn (s.broadcastFrame r 0x11) with hushDue := false }) := by
  refine congrArg Host.Outcome.next ((if_neg (by simp [due])).trans ?_)
  rw [State.broadcast_eq, State.setRing_setRing, State.ring_setRing_same]

/-! ## READ and its retry slot (R255) -/

variable {s r} {i : Fin 14}

theorem execChainRead_slot (served : s.served r = true) (idle : (s.ring r).txn = none) (due : s.readDue r i = true)
    (fresh : (s.node r i).failed = false) (lo : 28 + 64 * i.val ≤ s.sweepFrame) (hi : s.sweepFrame < 92 + 64 * i.val) :
    exec (.chainRead r) s = .next (s.transact r i 0x20 1 []) := by
  have ready : ¬(!s.served r || (s.ring r).txn.isSome) = true := by simp [served, idle]
  have reads : decide (28 ≤ s.sweepFrame ∧ s.sweepFrame < 924) = true := by simp; omega
  have slot : (s.sweepFrame - 28) / 64 = i := by omega
  have place : (s.sweepFrame - 28) / 64 < 14 := slot ▸ i.isLt
  have node : (⟨(s.sweepFrame - 28) / 64, place⟩ : Fin 14) = i := Fin.ext slot
  refine congrArg Host.Outcome.next ((if_neg ready).trans ((if_pos reads).trans ((dif_pos place).trans ?_)))
  dsimp only
  rw [node]
  exact if_pos (by simp [due, fresh])

theorem execChainRead_retries (served : s.served r = true) (idle : (s.ring r).txn = none) (lo : 924 ≤ s.sweepFrame) (hi : s.sweepFrame < 1024)
    (retry : s.retryNode r = some i) :
    exec (.chainRead r) s = .next ((s.setNode r i { s.node r i with retried := true }).transact r i 0x20 2 []) := by
  have ready : ¬(!s.served r || (s.ring r).txn.isSome) = true := by simp [served, idle]
  have reads : ¬decide (28 ≤ s.sweepFrame ∧ s.sweepFrame < 924) = true := by simp; omega
  have retries : decide (924 ≤ s.sweepFrame ∧ s.sweepFrame < 1024) = true := by simp; omega
  refine congrArg Host.Outcome.next ((if_neg ready).trans ((if_neg reads).trans ((if_pos retries).trans ?_)))
  rw [retry]

theorem State.node_setNode_other (s : State) {r q : Fin 3} {i j : Fin 14} (x : ChnNode) (h : ¬(q = r ∧ j = i)) :
    (s.setNode r i x).node q j = s.node q j := by
  unfold State.node State.setNode
  by_cases ring : q = r
  · subst ring
    rw [vget_vset_same, vget_vset_other _ _ fun e => h ⟨rfl, e⟩]
  · rw [vget_vset_other _ _ ring]

theorem State.setNode_within (s : State) (r : Fin 3) (i : Fin 14) (x : ChnNode) : (s.setNode r i x).within s [.chn] := s.within_chn _

/-! ## BALANCE (R259) -/

theorem execBalanceSend_slot (ready : s.nodeReady r i = true) (lo : 1024 + 29 * i.val ≤ s.sweepFrame) (hi : s.sweepFrame < 1053 + 29 * i.val) :
    exec (.balanceSend r) s = .next ((s.put (Fd.CHN_NODE_BAL_sent r (i + 1)) (s.balMask r i)).transact r i 0x30 1
      [s.balMask r i / 256, s.balMask r i % 256, max 1 (s.get Fd.CHN_BAL_CTRL_bal_dur)]) := by
  have slot : (s.sweepFrame - 1024) / 29 = i := by omega
  have place : 1024 ≤ s.sweepFrame ∧ (s.sweepFrame - 1024) / 29 < 14 := ⟨by omega, slot ▸ i.isLt⟩
  have node : (⟨(s.sweepFrame - 1024) / 29, place.2⟩ : Fin 14) = i := Fin.ext slot
  refine congrArg Host.Outcome.next ((dif_pos place).trans ?_)
  dsimp only
  rw [node, slot]
  exact if_pos ready

theorem strStat_ne_nodeBal : Reg.CHN_STR_STAT r ≠ Reg.CHN_NODE_BAL r (i.val + 1) := by
  have hr := r.isLt
  unfold Reg.CHN_STR_STAT Reg.CHN_NODE_BAL
  omega

/-- A mask is shown as sent, and its command leaves. -/
theorem State.balance_sends (s : State) (r : Fin 3) (i : Fin 14) (mask : Nat) (payload : List Nat) :
    let t := (s.put (Fd.CHN_NODE_BAL_sent r (i + 1)) mask).transact r i 0x30 1 payload
    t.get (Fd.CHN_NODE_BAL_sent r (i + 1)) = mask % 65536 ∧ t.sendsTo s r i 0x30 1 payload ∧
      t.withinRegs s [Reg.CHN_NODE_BAL r (i + 1)] ∧ t.within s [.regs, .chn] := by
  extract_lets t
  have wrote : (s.put (Fd.CHN_NODE_BAL_sent r (i + 1)) mask).regsOff (· ∈ [Reg.CHN_NODE_BAL r (i + 1)]) s :=
    .put (.rfl' s) (f := Fd.CHN_NODE_BAL_sent r (i + 1)) (List.mem_singleton.2 rfl) _
  have standby : (s.put (Fd.CHN_NODE_BAL_sent r (i + 1)) mask).isStandby = s.isStandby := by unfold State.isStandby; rw [State.put_lks]
  obtain ⟨sends, -, -, -, parts⟩ := (s.put (Fd.CHN_NODE_BAL_sent r (i + 1)) mask).transact_sendsTo r i 0x30 1 payload
  have regs := parts .regs (by decide)
  refine ⟨(State.get_congr regs _).trans (s.get_put_same _ _ (by decide : 16 + 16 ≤ 32)),
    sends.of_eq (s.ring_put _ _ r) standby (wrote _ fun h => strStat_ne_nodeBal (List.mem_singleton.1 h)), (wrote.of_regs regs).withinRegs, ?_⟩
  exact (parts.mono (by decide)).trans (.put (.rfl' s) (by decide) _ _)

/-! ## The open-wire test (R262) -/

theorem execOwtSend_leaves (served : s.served r = true) (active : s.flag (Fd.CHN_STR_STAT_owt_active r) = true) (frame : s.sweepFrame = 1536) :
    exec (.owtSend r) s = .next ((s.setFlag (Fd.CHN_STR_STAT_owt_due r) false).broadcast r 0x40 []) :=
  congrArg Host.Outcome.next (if_pos (by simp [served, active, frame]))

/-- The request of a test ends, and its broadcast leaves. -/
theorem State.owt_sends (s : State) (r : Fin 3) :
    let t := (s.setFlag (Fd.CHN_STR_STAT_owt_due r) false).broadcast r 0x40 []
    t.flag (Fd.CHN_STR_STAT_owt_due r) = false ∧
      t.ring r = ringSent (s.ring r) s.isStandby (s.ring r).txn ⟨true, s.ringState r != 1, 0xFF, false, (s.ring r).seq, 0x40, []⟩ ∧
      t.withinRegs s [Reg.CHN_STR_STAT r] ∧ t.within s [.regs, .chn] := by
  extract_lets t
  have wrote : (s.setFlag (Fd.CHN_STR_STAT_owt_due r) false).regsOff (· ∈ [Reg.CHN_STR_STAT r]) s :=
    .setFlag (.rfl' s) (f := Fd.CHN_STR_STAT_owt_due r) (List.mem_singleton.2 rfl) _
  have ring : (s.setFlag (Fd.CHN_STR_STAT_owt_due r) false).ring r = s.ring r := s.ring_congr (State.setFlag_chn _ _ _) r
  have state : (s.setFlag (Fd.CHN_STR_STAT_owt_due r) false).ringState r = s.ringState r :=
    s.get_setFlag_apart _ (Fd.CHN_STR_STAT_ring r) _ (by decide : 7 + 1 ≤ 32) (.inr (.inr (by decide : 7 + 1 ≤ 28)))
  unfold t
  rw [State.broadcast_eq]
  refine ⟨?_, ?_, State.regsOff.withinRegs (.setRing _ r wrote _), ((State.setRing_within _ r _).mono (by decide)).trans (.setFlag (.rfl' s) (by decide) _ _)⟩
  · exact (State.flag_congr (State.setRing_regs _ _ _) _).trans (s.flag_setFlag_same _ _ (by decide : 7 + 1 ≤ 32) rfl)
  · rw [State.ring_setRing_same]
    unfold State.broadcastFrame State.isStandby
    rw [ring, state, State.setFlag_lks]

theorem execOwRead_slot (ready : s.nodeReady r i = true) (active : s.flag (Fd.CHN_STR_STAT_owt_active r) = true) (serves : s.nodeState r i ≠ 3)
    (unread : (s.node r i).ow = none) (lo : 2048 + 64 * i.val ≤ s.sweepFrame) (hi : s.sweepFrame < 2112 + 64 * i.val) :
    exec (.owRead r) s = .next (s.transact r i 0x41 1 []) := by
  have slot : (s.sweepFrame - 2048) / 64 = i := by omega
  have place : 2048 ≤ s.sweepFrame ∧ (s.sweepFrame - 2048) / 64 < 14 := ⟨by omega, slot ▸ i.isLt⟩
  have node : (⟨(s.sweepFrame - 2048) / 64, place.2⟩ : Fin 14) = i := Fin.ext slot
  refine congrArg Host.Outcome.next ((dif_pos place).trans ?_)
  dsimp only
  rw [node]
  exact if_pos (by simp [ready, active, serves, unread])

/-! ## The test of a broken ring (R254) -/

theorem execRingTest_leaves (due : s.ringTestDue r = true) : exec (.ringTest r) s = .next (s.setRing r
    (ringSent (s.ring r) s.isStandby (some ⟨1, 0x50, (s.ring r).seq, 1⟩) ⟨true, false, 1, false, (s.ring r).seq, 0x50, []⟩)) :=
  congrArg Host.Outcome.next ((if_pos due).trans (s.emit_ringSent r _ _))

end

/-- Settles O31: each command is one `ringSent`, of a broadcast or of a transaction with the node whose slot runs. -/
theorem ringCommandsLeaveInTheirSlots : Obligations.RingCommandsLeaveInTheirSlots := by
  intro r s
  refine ⟨fun cyc => ⟨execSnapSend_idle s r cyc, fun due inside => ⟨_, execSnapSend_leaves s r cyc due inside, ?_, s.snapped_stamp r cyc,
      fun q hq => ?_, s.snapped_withinRegs r cyc, s.snapped_within r cyc⟩⟩,
    fun due => ⟨_, execHushSend_leaves s r due, s.ring_setRing_same r _, s.setRing_ringOnly r _⟩,
    fun i served idle due fresh lo hi => ⟨_, execChainRead_slot served idle due fresh lo hi, s.transact_sendsTo r i 0x20 1 []⟩,
    fun i served idle lo hi retry => ⟨_, execChainRead_retries served idle lo hi retry, ?_⟩,
    fun i ready lo hi => ⟨_, execBalanceSend_slot ready lo hi, s.balance_sends r i _ _⟩,
    fun served active frame => ⟨_, execOwtSend_leaves served active frame, s.owt_sends r⟩,
    fun i ready active serves unread lo hi => ⟨_, execOwRead_slot ready active serves unread lo hi, s.transact_sendsTo r i 0x41 1 []⟩,
    fun due => ⟨_, execRingTest_leaves due, s.setRing_ringOnly r _, s.ring_setRing_same r _⟩⟩
  · exact (s.snapped_ring r cyc r).trans (s.ring_setRing_same r _)
  · exact (s.snapped_ring r cyc q).trans (s.ring_setRing_other r _ hq)
  · obtain ⟨sends, -, nodes, -, parts⟩ := (s.setNode r i { s.node r i with retried := true }).transact_sendsTo r i 0x20 2 []
    have same (q : Fin 3) (j : Fin 14) := congrArg (fun n => vget (vget n q) j) nodes
    refine ⟨sends.of_eq rfl rfl rfl, ?_, fun q j other => (same q j).trans (s.node_setNode_other _ other), parts.trans (s.setNode_within r i _)⟩
    exact (congrArg ChnNode.retried (same r i)).trans (congrArg ChnNode.retried (s.node_setNode_same r i _))

end Sys2Proof.Machine
end

section
/-! SUPPORT for chapter 09: what an operation on a ring, or on one of its nodes, may change. -/

namespace Sys2Proof.Machine

/-! ## Turns -/

/-- An operation over a list gives each entry one turn: what the other entries keep holds before the turn, and after it. -/
theorem State.foldl_turn {α : Type} {R : State → State → Prop} (refl : ∀ u, R u u) (trans : ∀ {t u v}, R t u → R u v → R t v)
    {f : State → α → State} {l : List α} (nodup : l.Nodup) {i : α} (hi : i ∈ l) (other : ∀ u, ∀ j ∈ l, j ≠ i → R (f u j) u) (s : State) :
    ∃ u, R u s ∧ R (l.foldl f s) (f u i) := by
  induction l generalizing s with
  | nil => cases hi
  | cons j l ih =>
    obtain ⟨fresh, rest⟩ := List.nodup_cons.1 nodup
    have later (u : State) (k : α) (hk : k ∈ l) := other u k (List.mem_cons_of_mem _ hk)
    rcases List.mem_cons.1 hi with rfl | hi
    · refine ⟨s, refl s, List.foldlRecOn (motive := (R · (f s i))) l f (refl _) fun u hu k hk => ?_⟩
      exact trans (later u k hk fun e => fresh (e ▸ hk)) hu
    · obtain ⟨u, before, after⟩ := ih rest hi later (f s j)
      exact ⟨u, trans before (other s j List.mem_cons_self fun e => fresh (e ▸ hi)), after⟩

/-! ## The registers of the cell chain -/

/-- The registers of a string (Table 09-7). -/
def strReg (r : Fin 3) (a : Nat) : Prop := 0x40070100 + 0x40 * r.val ≤ a ∧ a < 0x40070140 + 0x40 * r.val

/-- The registers of a node's cells. -/
def cellReg (r : Fin 3) (i : Fin 14) (a : Nat) : Prop :=
  0x40074000 + 0x400 * r.val + 0x40 * i.val ≤ a ∧ a < 0x40074040 + 0x400 * r.val + 0x40 * i.val

/-- The registers of a node, and those of its cells. -/
def nodeReg (r : Fin 3) (i : Fin 14) (a : Nat) : Prop :=
  (0x40071000 + 0x200 * r.val + 0x10 * i.val ≤ a ∧ a < 0x40071010 + 0x200 * r.val + 0x10 * i.val) ∨ cellReg r i a

/-- What an operation on a string may change: its registers, and by a fault the window of CHN. -/
def strOps (r : Fin 3) (a : Nat) : Prop := strReg r a ∨ inWindow 7 a

/-- What an operation on a node may change beside. -/
def nodeOps (r : Fin 3) (i : Fin 14) (a : Nat) : Prop := nodeReg r i a ∨ strOps r a

/-- What an operation on every node may change. -/
def ringOps (r : Fin 3) (a : Nat) : Prop := (∃ i, nodeReg r i a) ∨ strOps r a

section
variable (r : Fin 3) (i : Fin 14)

theorem nodeReg_nodeStat : nodeReg r i (Reg.CHN_NODE_STAT r (i.val + 1)) := by
  unfold nodeReg Reg.CHN_NODE_STAT
  omega

theorem nodeReg_nodeMeas : nodeReg r i (Reg.CHN_NODE_MEAS r (i.val + 1)) := by
  unfold nodeReg Reg.CHN_NODE_MEAS
  omega

theorem cellReg_cell {j : Nat} (h : 1 ≤ j ∧ j ≤ 16) : cellReg r i (Reg.CHN_CELL r (cellNo i j)) := by
  unfold cellReg Reg.CHN_CELL cellNo
  omega

theorem not_cellReg_nodeStat : ¬cellReg r i (Reg.CHN_NODE_STAT r (i.val + 1)) := by
  unfold cellReg Reg.CHN_NODE_STAT
  omega

theorem not_cellReg_nodeMeas : ¬cellReg r i (Reg.CHN_NODE_MEAS r (i.val + 1)) := by
  unfold cellReg Reg.CHN_NODE_MEAS
  omega

theorem strReg_strStat : strReg r (Reg.CHN_STR_STAT r) := by
  unfold strReg Reg.CHN_STR_STAT
  omega

theorem strReg_strSum : strReg r (Reg.CHN_STR_SUM r) := by
  unfold strReg Reg.CHN_STR_SUM
  omega

theorem strReg_strDiff : strReg r (Reg.CHN_STR_DIFF r) := by
  unfold strReg Reg.CHN_STR_DIFF
  omega

theorem strReg_strCnt : strReg r (Reg.CHN_STR_CNT r) := by
  unfold strReg Reg.CHN_STR_CNT
  omega

variable {r i} {a : Nat}

theorem cellReg.nodeReg (h : cellReg r i a) : nodeReg r i a := .inr h

theorem nodeOps.ringOps (h : nodeOps r i a) : ringOps r a := h.imp_left fun h => ⟨i, h⟩

/-- A node's registers are no other node's. -/
theorem nodeReg.not_nodeReg {q : Fin 3} {k : Fin 14} (h : nodeReg r i a) (other : ¬(q = r ∧ k = i)) : ¬nodeReg q k a := by
  have hr := r.isLt
  have hq := q.isLt
  have apart : q.val ≠ r.val ∨ k.val ≠ i.val := by
    rw [← not_and_or]
    exact fun e => other ⟨Fin.ext e.1, Fin.ext e.2⟩
  unfold nodeReg cellReg at h ⊢
  omega

theorem nodeReg.not_strOps {q : Fin 3} (h : nodeReg r i a) : ¬strOps q a := by
  have hr := r.isLt
  have hq := q.isLt
  unfold nodeReg cellReg at h
  unfold strOps strReg inWindow
  omega

theorem nodeReg.not_nodeOps {q : Fin 3} {k : Fin 14} (h : nodeReg r i a) (other : ¬(q = r ∧ k = i)) : ¬nodeOps q k a :=
  not_or.2 ⟨h.not_nodeReg other, h.not_strOps⟩

theorem nodeReg.not_ringOps {q : Fin 3} (h : nodeReg r i a) (other : q ≠ r) : ¬ringOps q a :=
  not_or.2 ⟨fun ⟨_, hk⟩ => h.not_nodeReg (fun e => other e.1) hk, h.not_strOps⟩

theorem strReg.not_ringOps {q : Fin 3} (h : strReg r a) (other : q ≠ r) : ¬ringOps q a := by
  have hr := r.isLt
  have hq := q.isLt
  have apart : q.val ≠ r.val := fun e => other (Fin.ext e)
  unfold strReg at h
  rintro (⟨k, hk⟩ | hk)
  · unfold nodeReg cellReg at hk
    omega
  · unfold strOps strReg inWindow at hk
    omega

theorem not_ringOps_declPwr : ¬ringOps r Reg.ZFB_DECL_PWR := by
  have hr := r.isLt
  rintro (⟨k, hk⟩ | hk)
  · unfold nodeReg cellReg Reg.ZFB_DECL_PWR at hk
    omega
  · unfold strOps strReg inWindow Reg.ZFB_DECL_PWR at hk
    omega

end

/-! ## Changes of the cell chain -/

/-- The parts that the chain's commits may change: beside the chain, what its faults bring. -/
def chainParts : List Part := [.regs, .hmp, .zfb, .wgl, .chn, .flt, .pins]

/-- `t` is `s` but for the registers that `P` names, the nodes that `N` names, the rings, and what a fault of the chain brings. -/
structure State.ChainMoved (P : Nat → Prop) (N : Fin 3 → Fin 14 → Prop) (t s : State) : Prop where
  off : t.regsOff P s
  nodes : ∀ q k, ¬N q k → t.node q k = s.node q k
  parts : t.within s chainParts

/-- Node `i` of ring `r`, as the nodes that an operation may change. -/
def onlyNode (r : Fin 3) (i : Fin 14) (q : Fin 3) (k : Fin 14) : Prop := q = r ∧ k = i

/-- The nodes of ring `r`. -/
def onlyRing (r q : Fin 3) (_ : Fin 14) : Prop := q = r

theorem State.setNode_regs (s : State) (r : Fin 3) (i : Fin 14) (x : ChnNode) : (s.setNode r i x).regs = s.regs := rfl

theorem State.node_congr {s t : State} (h : t.chn = s.chn) (q : Fin 3) (k : Fin 14) : t.node q k = s.node q k := by
  unfold State.node
  rw [h]

section
variable {P P' : Nat → Prop} {N N' : Fin 3 → Fin 14 → Prop} {s t u : State}

theorem State.ChainMoved.rfl' (s : State) : s.ChainMoved P N s := ⟨.rfl' s, fun _ _ _ => rfl, .rfl' s⟩

theorem State.ChainMoved.trans (h : t.ChainMoved P N u) (h' : u.ChainMoved P N s) : t.ChainMoved P N s :=
  ⟨h.off.trans h'.off, fun q k hk => (h.nodes q k hk).trans (h'.nodes q k hk), h.parts.trans h'.parts⟩

theorem State.ChainMoved.mono (h : t.ChainMoved P N s) (hP : ∀ a, P a → P' a) (hN : ∀ q k, N q k → N' q k) : t.ChainMoved P' N' s :=
  ⟨h.off.mono hP, fun q k hk => h.nodes q k fun n => hk (hN q k n), h.parts⟩

/-- An operation that leaves the nodes. -/
theorem State.ChainMoved.of_chn (h : t.ChainMoved P N s) (off : u.regsOff P t) (chn : u.chn = t.chn) (parts : u.within t chainParts) :
    u.ChainMoved P N s :=
  State.ChainMoved.trans ⟨off, fun q k _ => State.node_congr chn q k, parts⟩ h

theorem State.ChainMoved.wr (h : t.ChainMoved P N s) {a : Nat} (ha : P a) (w : Word) : (t.wr a w).ChainMoved P N s :=
  h.of_chn (.wr (.rfl' t) ha w) (t.wr_chn a w) (.wr (.rfl' t) (by decide) a w)

theorem State.ChainMoved.put (h : t.ChainMoved P N s) {f : Fld} (hf : P f.addr) (v : Nat) : (t.put f v).ChainMoved P N s := h.wr hf _

theorem State.ChainMoved.setFlag (h : t.ChainMoved P N s) {f : Fld} (hf : P f.addr) (b : Bool) : (t.setFlag f b).ChainMoved P N s := h.put hf _

theorem State.ChainMoved.bump (h : t.ChainMoved P N s) {f : Fld} (hf : P f.addr) : (t.bump f).ChainMoved P N s := h.put hf _

theorem State.ChainMoved.putBF (h : t.ChainMoved P N s) {a : Nat} (ha : P a) (x : BF24) : (t.putBF a x).ChainMoved P N s := h.wr ha _

theorem State.ChainMoved.setRing (h : t.ChainMoved P N s) (r : Fin 3) (x : ChnStr) : (t.setRing r x).ChainMoved P N s :=
  State.ChainMoved.trans (u := t) ⟨fun _ _ => rfl, fun _ _ _ => rfl, (t.setRing_within r x).mono (by decide)⟩ h

theorem State.ChainMoved.setNode (h : t.ChainMoved P N s) {r : Fin 3} {i : Fin 14} (hi : N r i) (x : ChnNode) :
    (t.setNode r i x).ChainMoved P N s := by
  refine State.ChainMoved.trans (u := t) ⟨fun _ _ => rfl, fun q k hk => t.node_setNode_other x ?_, (t.setNode_within r i x).mono (by decide)⟩ h
  rintro ⟨rfl, rfl⟩
  exact hk hi

theorem State.ChainMoved.ite {c : Prop} {_ : Decidable c} (ht : c → t.ChainMoved P N s) (hu : ¬c → u.ChainMoved P N s) :
    (if c then t else u).ChainMoved P N s := by
  split
  · exact ht ‹_›
  · exact hu ‹_›

theorem State.ChainMoved.foldl {α : Type} {l : List α} {f : State → α → State} (hf : ∀ i ∈ l, ∀ u, (f u i).ChainMoved P N u)
    (h : t.ChainMoved P N s) : (l.foldl f t).ChainMoved P N s :=
  List.foldlRecOn (motive := (·.ChainMoved P N s)) l f h fun u hu i hi => (hf i hi u).trans hu

theorem State.ChainMoved.each {n : Nat} {f : Nat → State → State} (hf : ∀ i < n, ∀ u, (f i u).ChainMoved P N u) (h : t.ChainMoved P N s) :
    (State.each n f t).ChainMoved P N s := h.foldl fun i hi => hf i (List.mem_range.1 hi)

theorem State.ChainMoved.eachNode {f : Fin 14 → State → State} (hf : ∀ i u, (f i u).ChainMoved P N u) (h : t.ChainMoved P N s) :
    (State.eachNode f t).ChainMoved P N s := h.foldl fun i _ => hf i

/-! ## Faults of the chain -/

/-- A string's fence changes no register, and nothing of the chain (R20). -/
theorem State.fenceStr_moved (s : State) (r : Fin 3) : (s.fenceStr r).ChainMoved P N s :=
  ⟨fun _ _ => rfl, fun _ _ _ => rfl, (s.within_zfb _).mono (by decide)⟩

theorem State.fenceUnit_string (s : State) (r : Fin 3) : s.fenceUnit (0x700 + r) = s.fenceStr r := by
  have hr := r.isLt
  have kind : unitKind (0x700 + r) = 7 := by unfold unitKind; omega
  have number : (0x700 + r.val) % 256 = r := by omega
  unfold State.fenceUnit
  simp only [kind, number, hr, dite_true]

theorem State.fenceUnit_node (s : State) (r : Fin 3) (i : Fin 14) : s.fenceUnit (nodeUnit r i) =
    (s.put (Fd.CHN_NODE_STAT_state r (i + 1)) 3).put (Fd.CHN_NODE_STAT_fence_cause r (i + 1)) 4 := by
  have hr := r.isLt
  have hi := i.isLt
  have kind : unitKind (nodeUnit r i) = 8 := by unfold unitKind nodeUnit; omega
  have ring : nodeUnit r i % 256 / 16 = r := by unfold nodeUnit; omega
  have node : nodeUnit r i % 256 % 16 = i + 1 := by unfold nodeUnit; omega
  unfold State.fenceUnit
  simp only [kind, ring, node]

/-- A fault of the chain below Halt changes the window of CHN, and where a Derate escalates what the fence of its unit changes (R445). -/
theorem State.ChainMoved.record (h : t.ChainMoved P N s) {code cls unit : Nat} (win : ∀ a, inWindow 7 a → P a)
    (pair : isOwnFault Blk.chn code = false) (small : cls < 3) (fence : cls = 1 → ∀ u : State, (u.fenceUnit unit).ChainMoved P N u) :
    (t.record Blk.chn code cls unit).ChainMoved P N s := by
  refine h.of_chn ?_ (t.record_chn _ _ _ _) (TxnK.record (TxnK.rfl' t) _ _ _ _).within
  match cls with
  | 0 => exact (t.record_note Blk.chn code unit (by unfold escalatingNote; rfl)).1.mono win
  | 1 =>
    by_cases held : t.notHeld Blk.chn false 1 unit
    · exact (State.record_pairFault t unit pair (held.escalate code) (by decide) (by decide)).window.mono win
    · rw [State.record_risen pair held]
      exact (fence rfl _).off.trans ((t.risen_frame Blk.chn code unit).1.mono win)
  | 2 => exact (State.record_pairFault t unit pair escalate_pairFence (by decide) (by decide)).window.mono win

/-- A fault of a string, which may take it out of service. -/
theorem State.ChainMoved.recordString (h : t.ChainMoved P N s) (r : Fin 3) {code cls : Nat} (win : ∀ a, inWindow 7 a → P a)
    (pair : isOwnFault Blk.chn code = false) (small : cls < 3) : (t.record Blk.chn code cls (0x700 + r)).ChainMoved P N s :=
  h.record win pair small fun _ u => by rw [u.fenceUnit_string r]; exact u.fenceStr_moved r

/-- A fault of a node, which may fence it. -/
theorem State.ChainMoved.recordNode (h : t.ChainMoved P N s) {r : Fin 3} {i : Fin 14} {code cls : Nat} (hP : ∀ a, nodeOps r i a → P a)
    (pair : isOwnFault Blk.chn code = false) (small : cls < 3) : (t.record Blk.chn code cls (nodeUnit r i)).ChainMoved P N s :=
  have stat : P (Reg.CHN_NODE_STAT r (i.val + 1)) := hP _ (.inl (nodeReg_nodeStat r i))
  h.record (fun a ha => hP a (.inr (.inr ha))) pair small fun _ u => by
    rw [u.fenceUnit_node r i]
    exact ((State.ChainMoved.rfl' u).put (f := Fd.CHN_NODE_STAT_state r (i + 1)) stat 3).put (f := Fd.CHN_NODE_STAT_fence_cause r (i + 1)) stat 4

end

/-! ## Turns of nodes and rings -/

/-- The registers of node `i` of ring `r` and of its cells hold in `t` what they hold in `s`. -/
def State.SameRegs (r : Fin 3) (i : Fin 14) (t s : State) : Prop := ∀ a, nodeReg r i a → t.rd a = s.rd a

/-- Node `i` of ring `r` stands in `t` as in `s`, with its registers and those of its cells. -/
structure State.SameNode (r : Fin 3) (i : Fin 14) (t s : State) : Prop where
  regs : t.SameRegs r i s
  node : t.node r i = s.node r i

/-- String `r` is declared in `t` as in `s`, and stands as in `s` with its registers and nodes. -/
structure State.SameString (r : Fin 3) (t s : State) : Prop where
  decl : t.rd Reg.ZFB_DECL_PWR = s.rd Reg.ZFB_DECL_PWR
  regs : ∀ a, strReg r a → t.rd a = s.rd a
  nodes : ∀ i, t.SameNode r i s

section
variable {r : Fin 3} {i : Fin 14} {s t u : State}

theorem State.SameRegs.trans (h : t.SameRegs r i u) (h' : u.SameRegs r i s) : t.SameRegs r i s := fun a ha => (h a ha).trans (h' a ha)

theorem State.SameRegs.get (h : t.SameRegs r i s) {f : Fld} (hf : nodeReg r i f.addr) : t.get f = s.get f :=
  congrArg (getBits · f.lo f.len) (h _ hf)

theorem State.SameRegs.flag (h : t.SameRegs r i s) {f : Fld} (hf : nodeReg r i f.addr) : t.flag f = s.flag f := congrArg (· == 1) (h.get hf)

theorem State.SameRegs.nodeState (h : t.SameRegs r i s) : t.nodeState r i = s.nodeState r i :=
  h.get (f := Fd.CHN_NODE_STAT_state r (i + 1)) (nodeReg_nodeStat r i)

/-- An operation on the string leaves the registers of its nodes. -/
theorem State.regsOff.sameRegs (h : t.regsOff (strOps r) s) : t.SameRegs r i s := fun a ha => h a ha.not_strOps

theorem State.SameNode.rfl' (s : State) : s.SameNode r i s := ⟨fun _ _ => rfl, rfl⟩

theorem State.SameNode.trans (h : t.SameNode r i u) (h' : u.SameNode r i s) : t.SameNode r i s :=
  ⟨h.regs.trans h'.regs, h.node.trans h'.node⟩

theorem State.SameNode.get (h : t.SameNode r i s) {f : Fld} (hf : nodeReg r i f.addr) : t.get f = s.get f := h.regs.get hf

theorem State.SameNode.flag (h : t.SameNode r i s) {f : Fld} (hf : nodeReg r i f.addr) : t.flag f = s.flag f := h.regs.flag hf

theorem State.SameNode.nodeState (h : t.SameNode r i s) : t.nodeState r i = s.nodeState r i := h.regs.nodeState

theorem State.SameString.rfl' (s : State) : s.SameString r s := ⟨rfl, fun _ _ => rfl, fun _ => .rfl' s⟩

theorem State.SameString.trans (h : t.SameString r u) (h' : u.SameString r s) : t.SameString r s :=
  ⟨h.decl.trans h'.decl, fun a ha => (h.regs a ha).trans (h'.regs a ha), fun i => (h.nodes i).trans (h'.nodes i)⟩

theorem State.SameString.get (h : t.SameString r s) {f : Fld} (hf : strReg r f.addr) : t.get f = s.get f :=
  congrArg (getBits · f.lo f.len) (h.regs _ hf)

theorem State.SameString.flag (h : t.SameString r s) {f : Fld} (hf : strReg r f.addr) : t.flag f = s.flag f := congrArg (· == 1) (h.get hf)

theorem State.SameString.served (h : t.SameString r s) : t.served r = s.served r := by
  have decl : t.strDecl r = s.strDecl r := congrArg (fun w => bit (getBits w Fd.ZFB_DECL_PWR_strings.lo Fd.ZFB_DECL_PWR_strings.len) r) h.decl
  have ring : t.ringState r = s.ringState r := h.get (f := Fd.CHN_STR_STAT_ring r) (strReg_strStat r)
  unfold State.served
  rw [decl, ring]

/-- An operation on one node leaves the others. -/
theorem State.ChainMoved.sameNode {k : Fin 14} (h : t.ChainMoved (nodeOps r k) (onlyNode r k) s) (other : k ≠ i) : t.SameNode r i s :=
  ⟨fun a ha => h.off a (ha.not_nodeOps fun e => other e.2), h.nodes r i fun e => other e.2.symm⟩

/-- An operation on one ring leaves the others. -/
theorem State.ChainMoved.sameString {q : Fin 3} (h : t.ChainMoved (ringOps q) (onlyRing q) s) (other : q ≠ r) : t.SameString r s where
  decl := h.off _ not_ringOps_declPwr
  regs a ha := h.off a (ha.not_ringOps other)
  nodes i := ⟨fun a ha => h.off a (ha.not_ringOps other), h.nodes r i fun e => other e.symm⟩

/-- Node by node: node `i` stands as before until its turn, and as its turn leaves it after. -/
theorem State.eachNode_turn {f : Fin 14 → State → State} (moved : ∀ k u, (f k u).ChainMoved (nodeOps r k) (onlyNode r k) u) (s : State) (i : Fin 14) :
    ∃ u, u.SameNode r i s ∧ (s.eachNode f).SameNode r i (f i u) :=
  State.foldl_turn State.SameNode.rfl' State.SameNode.trans (List.nodup_finRange 14) (List.mem_finRange i)
    (fun u k _ other => (moved k u).sameNode other) s

/-- Ring by ring. -/
theorem State.eachRing_turn {f : State → Fin 3 → State} (moved : ∀ u q, (f u q).ChainMoved (ringOps q) (onlyRing q) u) (s : State) (r : Fin 3) :
    ∃ u, u.SameString r s ∧ ((List.finRange 3).foldl f s).SameString r (f u r) :=
  State.foldl_turn State.SameString.rfl' State.SameString.trans (List.nodup_finRange 3) (List.mem_finRange r)
    (fun u q _ other => (moved u q).sameString other) s

/-- An operation on one node is one on its ring. -/
theorem State.ChainMoved.ofNode (h : t.ChainMoved (nodeOps r i) (onlyNode r i) s) : t.ChainMoved (ringOps r) (onlyRing r) s :=
  h.mono (fun _ => nodeOps.ringOps) fun _ _ => And.left

end

/-! ## Fields -/

/-- The fields that `K` names have in `t` the values they have in `s`. -/
def State.fieldsKept (K : Fld → Prop) (t s : State) : Prop := ∀ f, K f → t.get f = s.get f

section
variable {K K' : Fld → Prop} {P : Nat → Prop} {s t u : State}

theorem State.fieldsKept.rfl' (s : State) : s.fieldsKept K s := fun _ _ => rfl

theorem State.fieldsKept.trans (h : t.fieldsKept K u) (h' : u.fieldsKept K s) : t.fieldsKept K s := fun f hf => (h f hf).trans (h' f hf)

theorem State.fieldsKept.put (h : t.fieldsKept K s) {f : Fld} (fits : f.lo + f.len ≤ 32) (apart : ∀ g, K g → f.apart g) (v : Nat) :
    (t.put f v).fieldsKept K s := fun g hg => (t.get_put_apart f g v fits (apart g hg)).trans (h g hg)

theorem State.fieldsKept.setFlag (h : t.fieldsKept K s) {f : Fld} (fits : f.lo + f.len ≤ 32) (apart : ∀ g, K g → f.apart g) (b : Bool) :
    (t.setFlag f b).fieldsKept K s := h.put fits apart _

theorem State.fieldsKept.ite {c : Prop} {_ : Decidable c} (ht : c → t.fieldsKept K s) (hu : ¬c → u.fieldsKept K s) :
    (if c then t else u).fieldsKept K s := by
  split
  · exact ht ‹_›
  · exact hu ‹_›

theorem State.fieldsKept.foldl {α : Type} {l : List α} {f : State → α → State} (hf : ∀ i ∈ l, ∀ u, (f u i).fieldsKept K u) (h : t.fieldsKept K s) :
    (l.foldl f t).fieldsKept K s :=
  List.foldlRecOn (motive := (·.fieldsKept K s)) l f h fun u hu i hi => (hf i hi u).trans hu

theorem State.fieldsKept.each {n : Nat} {f : Nat → State → State} (hf : ∀ i < n, ∀ u, (f i u).fieldsKept K u) (h : t.fieldsKept K s) :
    (State.each n f t).fieldsKept K s := h.foldl fun i hi => hf i (List.mem_range.1 hi)

theorem State.fieldsKept.of_regs (h : t.fieldsKept K s) (e : u.regs = t.regs) : u.fieldsKept K s := fun g hg => (State.get_congr e g).trans (h g hg)

theorem State.regsOff.fieldsKept (h : t.regsOff P s) (apart : ∀ g, K g → ¬P g.addr) : t.fieldsKept K s := fun g hg => h.get (apart g hg)

/-- The fields that a fault of a node leaves: all outside the window of CHN but the node's state and fence cause (R445). -/
theorem State.fieldsKept.recordNode (h : t.fieldsKept K s) {r : Fin 3} {i : Fin 14} {code cls : Nat} (pair : isOwnFault Blk.chn code = false)
    (small : cls < 3) (win : ∀ g, K g → ¬inWindow 7 g.addr) (state : ∀ g, K g → (Fd.CHN_NODE_STAT_state r (i + 1)).apart g)
    (cause : ∀ g, K g → (Fd.CHN_NODE_STAT_fence_cause r (i + 1)).apart g) : (t.record Blk.chn code cls (nodeUnit r i)).fieldsKept K s := by
  refine State.fieldsKept.trans (u := t) ?_ h
  match cls with
  | 0 => exact (t.record_note Blk.chn code _ (by unfold escalatingNote; rfl)).1.fieldsKept win
  | 1 =>
    by_cases held : t.notHeld Blk.chn false 1 (nodeUnit r i)
    · exact (State.record_pairFault t _ pair (held.escalate code) (by decide) (by decide)).window.fieldsKept win
    · rw [State.record_risen pair held, State.fenceUnit_node]
      have risen := (t.risen_frame Blk.chn code (nodeUnit r i)).1.fieldsKept win
      exact (risen.put (by decide : 28 + 2 ≤ 32) state 3).put (by decide : 24 + 4 ≤ 32) cause 4
  | 2 => exact (State.record_pairFault t _ pair escalate_pairFence (by decide) (by decide)).window.fieldsKept win

end

end Sys2Proof.Machine
end

section
/-! Chapter 09: the cells of a node, the fence of a node, the count of fenced nodes, and substitutes (R257, R264, R265). -/

namespace Sys2Proof.Machine

section
variable {P : Nat → Prop} {N : Fin 3 → Fin 14 → Prop} (s : State) (r : Fin 3) (i : Fin 14)

/-! ## The cells of a node -/

/-- Cells that differ have different registers. -/
theorem cell_ne {j k : Nat} (h : j ≠ k) : Reg.CHN_CELL r (cellNo i (j + 1)) ≠ Reg.CHN_CELL r (cellNo i (k + 1)) := by
  unfold Reg.CHN_CELL cellNo
  omega

/-- Cell by cell: an operation on each cell's register leaves it as the cell's own turn does. -/
theorem State.each_cell {f : Nat → State → State} (off : ∀ u k a, a ≠ Reg.CHN_CELL r (cellNo i (k + 1)) → (f k u).rd a = u.rd a) (s : State) (j : Fin 16) :
    ∃ u, (s.each 16 f).rd (Reg.CHN_CELL r (cellNo i (j + 1))) = (f j u).rd (Reg.CHN_CELL r (cellNo i (j + 1))) := by
  obtain ⟨u, -, after⟩ := State.foldl_turn (R := fun t s => t.rd (Reg.CHN_CELL r (cellNo i (j + 1))) = s.rd (Reg.CHN_CELL r (cellNo i (j + 1))))
    (f := fun u k => f k u) (fun _ => rfl) Eq.trans List.nodup_range (List.mem_range.2 j.isLt) (fun u k _ other => off u k _ (cell_ne r i other.symm)) s
  exact ⟨u, after⟩

/-! ## The count of fenced nodes -/

theorem State.countNodes_moved : (s.countNodes r).ChainMoved (strOps r) N s :=
  State.ChainMoved.put (.rfl' s) (f := Fd.CHN_STR_STAT_n_fenced r) (.inl (strReg_strStat r)) _

/-- The string's count of fenced nodes is right (Table 09-7). -/
def State.nodesCounted : Prop :=
  s.get (Fd.CHN_STR_STAT_n_fenced r) = ((List.finRange 14).filter fun i => s.nodeState r i == 3).length

variable {s r} in
/-- The count goes by the count's field and the states of the nodes. -/
theorem State.nodesCounted.of_eq {t : State} (h : s.nodesCounted r) (count : t.get (Fd.CHN_STR_STAT_n_fenced r) = s.get (Fd.CHN_STR_STAT_n_fenced r))
    (states : ∀ i, t.nodeState r i = s.nodeState r i) : t.nodesCounted r := by
  unfold State.nodesCounted at h ⊢
  rw [count, h]
  simp only [states]

theorem State.countNodes_nodeState : (s.countNodes r).nodeState r i = s.nodeState r i :=
  s.countNodes_moved (N := fun _ _ => True) r |>.off.get (f := Fd.CHN_NODE_STAT_state r (i + 1)) (nodeReg_nodeStat r i).not_strOps

theorem State.countNodes_counted : (s.countNodes r).nodesCounted r := by
  have small : ((List.finRange 14).filter fun i => s.nodeState r i == 3).length < 2 ^ 4 :=
    lt_of_le_of_lt (List.length_filter_le _ _) (by simp)
  unfold State.nodesCounted
  simp only [State.countNodes_nodeState]
  exact s.get_put_small (Fd.CHN_STR_STAT_n_fenced r) _ (by decide : 0 + 4 ≤ 32) small

/-! ## The fence of a node -/

theorem State.fenceNode_moved (cause code : Nat) (pair : isOwnFault Blk.chn code = false) : (s.fenceNode r i cause code).ChainMoved (nodeOps r i) N s := by
  have stat : nodeOps r i (Reg.CHN_NODE_STAT r (i.val + 1)) := .inl (nodeReg_nodeStat r i)
  have marked := (State.ChainMoved.put (N := N) (.rfl' s) (f := Fd.CHN_NODE_STAT_state r (i + 1)) stat 3).put
    (f := Fd.CHN_NODE_STAT_fence_cause r (i + 1)) stat cause
  unfold State.fenceNode
  refine .ite (fun _ => .rfl' s) fun _ => ?_
  exact ((State.countNodes_moved _ r).mono (fun _ => .inr) fun _ _ => id).trans (marked.recordNode (fun _ => id) pair (by decide))

/-- The fence of a node leaves the fields beside its state, its cause and the count. -/
theorem State.fieldsKept.fenceNode {K : Fld → Prop} {t : State} (h : t.fieldsKept K s) (cause code : Nat) (pair : isOwnFault Blk.chn code = false)
    (off : ∀ g, K g → ¬strOps r g.addr) (shown : ∀ g, K g → (Fd.CHN_NODE_STAT_state r (i + 1)).apart g ∧ (Fd.CHN_NODE_STAT_fence_cause r (i + 1)).apart g) :
    (t.fenceNode r i cause code).fieldsKept K s := by
  have state : (t.put (Fd.CHN_NODE_STAT_state r (i + 1)) 3).fieldsKept K s := h.put (by decide : 28 + 2 ≤ 32) (fun g hg => (shown g hg).1) 3
  have marked := state.put (f := Fd.CHN_NODE_STAT_fence_cause r (i + 1)) (by decide : 24 + 4 ≤ 32) (fun g hg => (shown g hg).2) cause
  have recorded := marked.recordNode pair (by decide : 2 < 3) (fun g hg w => off g hg (.inr w)) (fun g hg => (shown g hg).1) fun g hg => (shown g hg).2
  unfold State.fenceNode
  refine .ite (fun _ => h) fun _ => State.fieldsKept.trans ?_ recorded
  exact (State.countNodes_moved (N := onlyNode r i) _ r).off.fieldsKept off

/-- A node that was not fenced stands fenced, with the cause, and the count is right. -/
theorem State.fenceNode_fences (cause code : Nat) (pair : isOwnFault Blk.chn code = false) (serves : s.nodeState r i ≠ 3) (small : cause < 16) :
    (s.fenceNode r i cause code).nodeState r i = 3 ∧ (s.fenceNode r i cause code).get (Fd.CHN_NODE_STAT_fence_cause r (i + 1)) = cause ∧
      (s.fenceNode r i cause code).nodesCounted r := by
  have fenced : s.fenceNode r i cause code = (((s.put (Fd.CHN_NODE_STAT_state r (i + 1)) 3).put (Fd.CHN_NODE_STAT_fence_cause r (i + 1)) cause).record
    Blk.chn code 2 (nodeUnit r i)).countNodes r := if_neg serves
  rw [fenced]
  generalize hu : (s.put (Fd.CHN_NODE_STAT_state r (i + 1)) 3).put (Fd.CHN_NODE_STAT_fence_cause r (i + 1)) cause = u
  have state : u.nodeState r i = 3 := by
    rw [← hu]
    refine (State.get_put_apart _ (Fd.CHN_NODE_STAT_fence_cause r (i + 1)) (Fd.CHN_NODE_STAT_state r (i + 1)) _ (by decide : 24 + 4 ≤ 32)
      (.inr (.inr (by decide : 24 + 4 ≤ 28)))).trans ?_
    exact s.get_put_small (Fd.CHN_NODE_STAT_state r (i + 1)) 3 (by decide : 28 + 2 ≤ 32) (by decide : 3 < 2 ^ 2)
  have shown : u.get (Fd.CHN_NODE_STAT_fence_cause r (i + 1)) = cause := by
    rw [← hu]
    exact State.get_put_small _ (Fd.CHN_NODE_STAT_fence_cause r (i + 1)) cause (by decide : 24 + 4 ≤ 32) small
  have recorded : (u.record Blk.chn code 2 (nodeUnit r i)).regsOff (inWindow 7) u :=
    (State.record_pairFault u _ pair escalate_pairFence (by decide) (by decide)).window
  have off : ((u.record Blk.chn code 2 (nodeUnit r i)).countNodes r).regsOff (strOps r) u :=
    (State.countNodes_moved (N := onlyRing r) _ r).off.trans (recorded.mono fun _ => .inr)
  have stat : ¬strOps r (Reg.CHN_NODE_STAT r (i.val + 1)) := (nodeReg_nodeStat r i).not_strOps
  exact ⟨(off.get (f := Fd.CHN_NODE_STAT_state r (i + 1)) stat).trans state, (off.get (f := Fd.CHN_NODE_STAT_fence_cause r (i + 1)) stat).trans shown,
    State.countNodes_counted _ r⟩

/-! ## Substitutes (R265) -/

/-- A cell's value is replaced by a substitute. -/
def State.setSubst (j v : Nat) : State :=
  (s.put (Fd.CHN_CELL_volt r (cellNo i j)) (min 65535 v)).setFlag (Fd.CHN_CELL_subst r (cellNo i j)) true

/-- Substitution gives one cell, or two beside each other, a substitute. -/
theorem State.substitute_cases : s.substitute r i = s ∨ (∃ j v, (1 ≤ j ∧ j ≤ 16) ∧ s.substitute r i = s.setSubst r i j v) ∨
    ∃ j v, (1 ≤ j ∧ j < 16) ∧ s.substitute r i = (s.setSubst r i j v).setSubst r i (j + 1) v := by
  unfold State.substitute
  extract_lets t rest set block
  split
  next => exact .inl rfl
  next serves =>
    have tap : t ≤ 16 := by simpa using (by simpa using serves : _ ∧ _).2
    split
    next => exact .inr (.inl ⟨1, _, by decide, rfl⟩)
    next first =>
      split
      next => exact .inr (.inl ⟨16, _, by decide, rfl⟩)
      next last => exact .inr (.inr ⟨t, _, by omega, rfl⟩)

/-- No substitute without a reading, at a fenced node, or without a broken tap. -/
theorem State.substitute_none (h : (s.node r i).read = none ∨ s.nodeState r i = 3 ∨ 16 < s.get (Fd.CHN_NODE_STAT_broken_tap r (i + 1))) :
    s.substitute r i = s := by
  refine if_pos ?_
  rcases h with h | h | h <;> simp [h]

variable {s r i}

theorem State.ChainMoved.setSubst {t : State} (h : t.ChainMoved (cellReg r i) N s) {j : Nat} (hj : 1 ≤ j ∧ j ≤ 16) (v : Nat) :
    (t.setSubst r i j v).ChainMoved (cellReg r i) N s :=
  (h.put (f := Fd.CHN_CELL_volt r (cellNo i j)) (cellReg_cell r i hj) _).setFlag (f := Fd.CHN_CELL_subst r (cellNo i j)) (cellReg_cell r i hj) _

theorem State.substitute_moved (s : State) (r : Fin 3) (i : Fin 14) : (s.substitute r i).ChainMoved (cellReg r i) N s := by
  have same : s.ChainMoved (cellReg r i) N s := .rfl' s
  rcases s.substitute_cases r i with h | ⟨j, v, hj, h⟩ | ⟨j, v, hj, h⟩ <;> rw [h]
  · exact same
  · exact same.setSubst hj v
  · exact (same.setSubst ⟨hj.1, by omega⟩ v).setSubst ⟨by omega, by omega⟩ v

/-- A field of a cell that is neither its value nor its substitute flag: `stale`, and `suspect`. -/
def notValue (f : Fld) : Prop := 19 ≤ f.lo ∨ f.lo = 16 ∧ f.len = 1

theorem State.fieldsKept.setSubst {t : State} (h : t.fieldsKept notValue s) (j v : Nat) : (t.setSubst r i j v).fieldsKept notValue s := by
  refine (h.put (by decide : 0 + 16 ≤ 32) (fun g hg => .inr (.inr ?_)) _).setFlag (by decide : 18 + 1 ≤ 32) (fun g hg => .inr ?_) _
  · exact hg.elim (fun h => show 16 ≤ g.lo by omega) fun h => h.1.ge
  · exact hg.symm.imp (fun h => show g.lo + g.len ≤ 18 by omega) id

theorem State.substitute_notValue (s : State) (r : Fin 3) (i : Fin 14) : (s.substitute r i).fieldsKept notValue s := by
  have same : s.fieldsKept notValue s := .rfl' s
  rcases s.substitute_cases r i with h | ⟨j, v, -, h⟩ | ⟨j, v, -, h⟩ <;> rw [h]
  · exact same
  · exact same.setSubst j v
  · exact (same.setSubst j v).setSubst (j + 1) v

/-- Substitution leaves what is no value, and what is no cell's. -/
theorem State.fieldsKept.substitute {K : Fld → Prop} {t : State} (h : t.fieldsKept K s) (hK : ∀ g, K g → notValue g ∨ ¬cellReg r i g.addr) :
    (t.substitute r i).fieldsKept K s := fun g hg =>
  ((hK g hg).elim (t.substitute_notValue r i g) ((t.substitute_moved (N := onlyNode r i) r i).off.get (f := g))).trans (h g hg)

end

end Sys2Proof.Machine
end

section
/-! Chapter 09: the readings of a node at the commit (R257, R261). -/

namespace Sys2Proof.Machine

/-- The fields that show what was read of a node: its block voltage and temperature, its run of missing sweeps, and of its cells all but the
suspicion. -/
def showsReading (r : Fin 3) (i : Fin 14) (f : Fld) : Prop :=
  f.addr = Reg.CHN_NODE_MEAS r (i + 1) ∨ f = Fd.CHN_NODE_STAT_missing_run r (i + 1) ∨
    ∃ j : Fin 16, f.addr = Reg.CHN_CELL r (cellNo i (j + 1)) ∧ (f.lo + f.len ≤ 16 ∨ 17 ≤ f.lo)

section
variable {r : Fin 3} {i : Fin 14} {g : Fld}

theorem showsReading.nodeReg (h : showsReading r i g) : nodeReg r i g.addr := by
  rcases h with h | rfl | ⟨j, h, -⟩
  · exact h ▸ nodeReg_nodeMeas r i
  · exact nodeReg_nodeStat r i
  · exact .inr (h ▸ cellReg_cell r i (by omega))

theorem nodeMeas_ne_nodeStat : Reg.CHN_NODE_MEAS r (i.val + 1) ≠ Reg.CHN_NODE_STAT r (i.val + 1) := by
  unfold Reg.CHN_NODE_MEAS Reg.CHN_NODE_STAT
  omega

/-- They share no bit with the fields above the run of missing sweeps. -/
theorem showsReading.apart (h : showsReading r i g) {f : Fld} (hf : f.addr = Reg.CHN_NODE_STAT r (i.val + 1)) (above : 2 ≤ f.lo) : f.apart g := by
  rcases h with h | rfl | ⟨j, h, -⟩
  · exact .inl (by rw [h, hf]; exact nodeMeas_ne_nodeStat)
  · exact .inr (.inl above)
  · refine .inl fun e => not_cellReg_nodeStat r i ?_
    rw [← hf, ← e, h]
    exact cellReg_cell r i (by omega)

/-- They share no bit with the flag of a suspected cell. -/
theorem showsReading.apart_suspect (h : showsReading r i g) (c : Nat) : (Fd.CHN_CELL_suspect r c).apart g := by
  rcases h with h | rfl | ⟨j, -, h⟩
  · refine .inl ?_
    rw [h]
    change Reg.CHN_NODE_MEAS r _ ≠ Reg.CHN_CELL r c
    unfold Reg.CHN_NODE_MEAS Reg.CHN_CELL
    omega
  · refine .inl ?_
    change Reg.CHN_NODE_STAT r _ ≠ Reg.CHN_CELL r c
    unfold Reg.CHN_NODE_STAT Reg.CHN_CELL
    omega
  · exact .inr h

theorem showsReading.fence (h : showsReading r i g) :
    (Fd.CHN_NODE_STAT_state r (i + 1)).apart g ∧ (Fd.CHN_NODE_STAT_fence_cause r (i + 1)).apart g :=
  ⟨h.apart (f := Fd.CHN_NODE_STAT_state r (i + 1)) rfl (by decide : 2 ≤ 28), h.apart (f := Fd.CHN_NODE_STAT_fence_cause r (i + 1)) rfl (by decide : 2 ≤ 24)⟩

end

section
variable (s : State) (r : Fin 3) (i : Fin 14)

/-! ## Stale cells -/

/-- The fields of a cell beside its stale flag. -/
def notStale (f : Fld) : Prop := f.lo + f.len ≤ 19 ∨ 20 ≤ f.lo

theorem State.staleNode_moved {N : Fin 3 → Fin 14 → Prop} : (s.staleNode r i).ChainMoved (cellReg r i) N s :=
  .each (fun j _ u => .setFlag (.rfl' u) (f := Fd.CHN_CELL_stale r (cellNo i (j + 1))) (cellReg_cell r i (by omega)) true) (.rfl' s)

theorem State.staleNode_kept : (s.staleNode r i).fieldsKept notStale s :=
  .each (fun j _ u => .setFlag (.rfl' u) (f := Fd.CHN_CELL_stale r (cellNo i (j + 1))) (by decide : 19 + 1 ≤ 32) (fun _ hg => .inr hg) true) (.rfl' s)

theorem State.staleNode_stale (j : Fin 16) : (s.staleNode r i).stale r (cellNo i (j + 1)) = true := by
  obtain ⟨u, after⟩ := State.each_cell r i (fun u _ _ other => u.rd_wr_other _ _ _ other) s j
  exact (congrArg (getBits · 19 1 == 1) after).trans (u.flag_setFlag_same (Fd.CHN_CELL_stale r (cellNo i (j + 1))) true (by decide : 19 + 1 ≤ 32) rfl)

/-! ## A node that was read -/

theorem be16_lt (p : List Nat) (k : Nat) : be16 p k < 65536 := by
  have high := Nat.mod_lt (p.getD k 0) (by decide : 0 < 256)
  have low := Nat.mod_lt (p.getD (k + 1) 0) (by decide : 0 < 256)
  unfold be16
  omega

/-- A cell's reading is its value, neither stale nor a substitute. -/
theorem State.commitCell_shows (c v : Nat) (biased : Bool) : (s.commitCell r c v biased).volt r c = v % 65536 ∧
    (s.commitCell r c v biased).stale r c = false ∧ (s.commitCell r c v biased).subst r c = false := by
  unfold State.commitCell
  have volt := s.get_put_same (Fd.CHN_CELL_volt r c) v (by decide : 0 + 16 ≤ 32)
  generalize s.put (Fd.CHN_CELL_volt r c) v = u at volt ⊢
  have stale := u.flag_setFlag_same (Fd.CHN_CELL_stale r c) false (by decide : 19 + 1 ≤ 32) rfl
  have volt' := (u.get_setFlag_apart (Fd.CHN_CELL_stale r c) (Fd.CHN_CELL_volt r c) false (by decide : 19 + 1 ≤ 32)
    (.inr (.inl (by decide : 0 + 16 ≤ 19)))).trans volt
  generalize u.setFlag (Fd.CHN_CELL_stale r c) false = w at stale volt' ⊢
  have subst := w.flag_setFlag_same (Fd.CHN_CELL_subst r c) false (by decide : 18 + 1 ≤ 32) rfl
  have stale' := (w.flag_setFlag_apart (Fd.CHN_CELL_subst r c) (Fd.CHN_CELL_stale r c) false (by decide : 18 + 1 ≤ 32)
    (.inr (.inr (by decide : 18 + 1 ≤ 19)))).trans stale
  have volt'' := (w.get_setFlag_apart (Fd.CHN_CELL_subst r c) (Fd.CHN_CELL_volt r c) false (by decide : 18 + 1 ≤ 32)
    (.inr (.inl (by decide : 0 + 16 ≤ 18)))).trans volt'
  generalize w.setFlag (Fd.CHN_CELL_subst r c) false = x at subst stale' volt'' ⊢
  have fits : (Fd.CHN_CELL_biased r c).lo + (Fd.CHN_CELL_biased r c).len ≤ 32 := (by decide : 17 + 1 ≤ 32)
  exact ⟨(x.get_setFlag_apart (Fd.CHN_CELL_biased r c) (Fd.CHN_CELL_volt r c) biased fits (.inr (.inl (by decide : 0 + 16 ≤ 17)))).trans volt'',
    (x.flag_setFlag_apart (Fd.CHN_CELL_biased r c) (Fd.CHN_CELL_stale r c) biased fits (.inr (.inr (by decide : 17 + 1 ≤ 19)))).trans stale',
    (x.flag_setFlag_apart (Fd.CHN_CELL_biased r c) (Fd.CHN_CELL_subst r c) biased fits (.inr (.inr (by decide : 17 + 1 ≤ 18)))).trans subst⟩

variable {s r} in
theorem State.ChainMoved.commitCell {P : Nat → Prop} {N : Fin 3 → Fin 14 → Prop} {t : State} (h : t.ChainMoved P N s) {c : Nat}
    (hc : P (Reg.CHN_CELL r c)) (v : Nat) (biased : Bool) : (t.commitCell r c v biased).ChainMoved P N s :=
  (((h.put (f := Fd.CHN_CELL_volt r c) hc v).setFlag (f := Fd.CHN_CELL_stale r c) hc false).setFlag (f := Fd.CHN_CELL_subst r c) hc false).setFlag
    (f := Fd.CHN_CELL_biased r c) hc biased

/-- The cells of a node, committed one by one. -/
def State.commitCells (p : List Nat) (bias : Nat → Bool) : State := s.each 16 fun j s => s.commitCell r (cellNo i (j + 1)) (be16 p (2 * j)) (bias j)

theorem State.commitCells_moved {N : Fin 3 → Fin 14 → Prop} (p : List Nat) (bias : Nat → Bool) :
    (s.commitCells r i p bias).ChainMoved (cellReg r i) N s :=
  .each (fun j _ u => .commitCell (.rfl' u) (cellReg_cell r i (by omega)) (be16 p (2 * j)) (bias j)) (.rfl' s)

theorem State.commitCells_shows (p : List Nat) (bias : Nat → Bool) (j : Fin 16) :
    (s.commitCells r i p bias).volt r (cellNo i (j + 1)) = be16 p (2 * j) ∧ (s.commitCells r i p bias).stale r (cellNo i (j + 1)) = false ∧
      (s.commitCells r i p bias).subst r (cellNo i (j + 1)) = false := by
  obtain ⟨u, after⟩ := State.each_cell r i (fun u k _ other =>
    (State.ChainMoved.commitCell (P := (· = Reg.CHN_CELL r (cellNo i (k + 1)))) (N := onlyNode r i) (.rfl' u) rfl (be16 p (2 * k)) (bias k)).off _ other) s j
  obtain ⟨volt, stale, subst⟩ := u.commitCell_shows r (cellNo i (j + 1)) (be16 p (2 * j)) (bias j)
  rw [Nat.mod_eq_of_lt (be16_lt p _)] at volt
  exact ⟨(congrArg (getBits · 0 16) after).trans volt, (congrArg (getBits · 19 1 == 1) after).trans stale,
    (congrArg (getBits · 18 1 == 1) after).trans subst⟩

/-- A node's own registers after a reading, before its cells. -/
def State.shownRead (p : List Nat) : State :=
  let u := (s.put (Fd.CHN_NODE_STAT_state r (i + 1)) 1).put (Fd.CHN_NODE_STAT_missing_run r (i + 1)) 0
  (u.put (Fd.CHN_NODE_MEAS_block r (i + 1)) (be16 p 32)).put (Fd.CHN_NODE_MEAS_temp r (i + 1)) (be16 p 34)

theorem State.nodeRead_eq (p : List Nat) :
    s.nodeRead r i p = (s.shownRead r i p).commitCells r i p ((s.shownRead r i p).biasOf r i p) := rfl

theorem State.shownRead_moved {N : Fin 3 → Fin 14 → Prop} (p : List Nat) : (s.shownRead r i p).ChainMoved (nodeOps r i) N s := by
  have stat : nodeOps r i (Reg.CHN_NODE_STAT r (i.val + 1)) := .inl (nodeReg_nodeStat r i)
  have meas : nodeOps r i (Reg.CHN_NODE_MEAS r (i.val + 1)) := .inl (nodeReg_nodeMeas r i)
  exact ((State.ChainMoved.put (.rfl' s) (f := Fd.CHN_NODE_STAT_state r (i + 1)) stat 1).put (f := Fd.CHN_NODE_STAT_missing_run r (i + 1)) stat 0).put
    (f := Fd.CHN_NODE_MEAS_block r (i + 1)) meas _ |>.put (f := Fd.CHN_NODE_MEAS_temp r (i + 1)) meas _

theorem State.shownRead_shows (p : List Nat) : (s.shownRead r i p).get (Fd.CHN_NODE_STAT_missing_run r (i + 1)) = 0 ∧
    (s.shownRead r i p).get (Fd.CHN_NODE_MEAS_block r (i + 1)) = be16 p 32 ∧ (s.shownRead r i p).get (Fd.CHN_NODE_MEAS_temp r (i + 1)) = be16 p 34 ∧
    (s.shownRead r i p).get (Fd.CHN_NODE_STAT_broken_tap r (i + 1)) = s.get (Fd.CHN_NODE_STAT_broken_tap r (i + 1)) := by
  have other : Reg.CHN_NODE_STAT r (i.val + 1) ≠ Reg.CHN_NODE_MEAS r (i.val + 1) := nodeMeas_ne_nodeStat.symm
  unfold State.shownRead
  extract_lets u
  have missing : u.get (Fd.CHN_NODE_STAT_missing_run r (i + 1)) = 0 :=
    State.get_put_small _ (Fd.CHN_NODE_STAT_missing_run r (i + 1)) 0 (by decide : 0 + 2 ≤ 32) (by decide : 0 < 2 ^ 2)
  have broken : u.get (Fd.CHN_NODE_STAT_broken_tap r (i + 1)) = s.get (Fd.CHN_NODE_STAT_broken_tap r (i + 1)) :=
    (State.get_put_apart _ (Fd.CHN_NODE_STAT_missing_run r (i + 1)) (Fd.CHN_NODE_STAT_broken_tap r (i + 1)) 0 (by decide : 0 + 2 ≤ 32)
      (.inr (.inr (by decide : 0 + 2 ≤ 19)))).trans (s.get_put_apart (Fd.CHN_NODE_STAT_state r (i + 1)) (Fd.CHN_NODE_STAT_broken_tap r (i + 1)) 1
      (by decide : 28 + 2 ≤ 32) (.inr (.inl (by decide : 19 + 5 ≤ 28))))
  clear_value u
  have meas : ((u.put (Fd.CHN_NODE_MEAS_block r (i + 1)) (be16 p 32)).put (Fd.CHN_NODE_MEAS_temp r (i + 1)) (be16 p 34)).regsOff
    (· = Reg.CHN_NODE_MEAS r (i + 1)) u :=
    .put (State.regsOff.put (P := (· = Reg.CHN_NODE_MEAS r (i + 1))) (.rfl' u) (f := Fd.CHN_NODE_MEAS_block r (i + 1)) rfl _)
      (f := Fd.CHN_NODE_MEAS_temp r (i + 1)) rfl _
  refine ⟨(meas.get (f := Fd.CHN_NODE_STAT_missing_run r (i + 1)) other).trans missing, ?_, ?_,
    (meas.get (f := Fd.CHN_NODE_STAT_broken_tap r (i + 1)) other).trans broken⟩
  · refine (State.get_put_apart _ (Fd.CHN_NODE_MEAS_temp r (i + 1)) (Fd.CHN_NODE_MEAS_block r (i + 1)) _ (by decide : 16 + 16 ≤ 32)
      (.inr (.inl (by decide : 0 + 16 ≤ 16)))).trans ?_
    exact u.get_put_small (Fd.CHN_NODE_MEAS_block r (i + 1)) _ (by decide : 0 + 16 ≤ 32) (be16_lt p 32)
  · exact State.get_put_small _ (Fd.CHN_NODE_MEAS_temp r (i + 1)) _ (by decide : 16 + 16 ≤ 32) (be16_lt p 34)

/-- What a node shows after its reading has committed (R257). -/
structure State.ShowsRead (t : State) (r : Fin 3) (i : Fin 14) (p : List Nat) : Prop where
  missing : t.get (Fd.CHN_NODE_STAT_missing_run r (i + 1)) = 0
  block : t.get (Fd.CHN_NODE_MEAS_block r (i + 1)) = be16 p 32
  temp : t.get (Fd.CHN_NODE_MEAS_temp r (i + 1)) = be16 p 34
  fresh : ∀ j : Fin 16, t.stale r (cellNo i (j + 1)) = false

theorem State.nodeRead_shows (p : List Nat) : (s.nodeRead r i p).ShowsRead r i p ∧
    (s.nodeRead r i p).get (Fd.CHN_NODE_STAT_broken_tap r (i + 1)) = s.get (Fd.CHN_NODE_STAT_broken_tap r (i + 1)) ∧
    ∀ j : Fin 16, (s.nodeRead r i p).volt r (cellNo i (j + 1)) = be16 p (2 * j) ∧ (s.nodeRead r i p).subst r (cellNo i (j + 1)) = false := by
  obtain ⟨missing, block, temp, broken⟩ := s.shownRead_shows r i p
  rw [State.nodeRead_eq]
  generalize s.shownRead r i p = u at missing block temp broken ⊢
  have cells := (u.commitCells_moved (N := onlyNode r i) r i p (u.biasOf r i p)).off
  have shows := u.commitCells_shows r i p (u.biasOf r i p)
  generalize u.commitCells r i p (u.biasOf r i p) = t at cells shows ⊢
  have stat := not_cellReg_nodeStat r i
  have meas := not_cellReg_nodeMeas r i
  exact ⟨⟨(cells.get (f := Fd.CHN_NODE_STAT_missing_run r (i + 1)) stat).trans missing, (cells.get (f := Fd.CHN_NODE_MEAS_block r (i + 1)) meas).trans block,
    (cells.get (f := Fd.CHN_NODE_MEAS_temp r (i + 1)) meas).trans temp, fun j => (shows j).2.1⟩,
    (cells.get (f := Fd.CHN_NODE_STAT_broken_tap r (i + 1)) stat).trans broken, fun j => ⟨(shows j).1, (shows j).2.2⟩⟩

theorem State.nodeRead_moved {N : Fin 3 → Fin 14 → Prop} (p : List Nat) : (s.nodeRead r i p).ChainMoved (nodeOps r i) N s :=
  ((State.commitCells_moved _ r i p _).mono (fun _ h => .inl h.nodeReg) fun _ _ => id).trans (s.shownRead_moved r i p)

/-! ## A node that was not read -/

/-- A missing node before its faults: stale cells, a longer run, and its state MISSING. -/
def State.shownMissing : State :=
  let u := s.staleNode r i
  (u.put (Fd.CHN_NODE_STAT_missing_run r (i + 1)) (min 3 (u.get (Fd.CHN_NODE_STAT_missing_run r (i + 1)) + 1))).put (Fd.CHN_NODE_STAT_state r (i + 1)) 2

/-- It is counted, and noted. -/
def State.notedMissing : State := ((s.shownMissing r i).bump (Fd.CHN_STR_CNT_missing r)).record Blk.chn 0x11 0 (nodeUnit r i)

theorem State.shownMissing_moved {N : Fin 3 → Fin 14 → Prop} : (s.shownMissing r i).ChainMoved (nodeReg r i) N s :=
  (((s.staleNode_moved r i).mono (fun _ => cellReg.nodeReg) fun _ _ => id).put (f := Fd.CHN_NODE_STAT_missing_run r (i + 1)) (nodeReg_nodeStat r i) _).put
    (f := Fd.CHN_NODE_STAT_state r (i + 1)) (nodeReg_nodeStat r i) 2

/-- What a node that was not read shows (R257), where it showed `s` before. -/
structure State.ShowsMissed (t s : State) (r : Fin 3) (i : Fin 14) : Prop where
  missing : t.get (Fd.CHN_NODE_STAT_missing_run r (i + 1)) = min 3 (s.get (Fd.CHN_NODE_STAT_missing_run r (i + 1)) + 1)
  stale : ∀ j : Fin 16, t.stale r (cellNo i (j + 1)) = true
  volt : ∀ j : Fin 16, t.volt r (cellNo i (j + 1)) = s.volt r (cellNo i (j + 1))

variable {s r i} in
theorem State.ShowsMissed.of_kept {t u : State} (h : t.ShowsMissed s r i) (kept : u.fieldsKept (showsReading r i) t) : u.ShowsMissed s r i where
  missing := (kept _ (.inr (.inl rfl))).trans h.missing
  stale j := (congrArg (· == 1) (kept (Fd.CHN_CELL_stale r _) (.inr (.inr ⟨j, rfl, .inr (by decide : 17 ≤ 19)⟩)))).trans (h.stale j)
  volt j := (kept (Fd.CHN_CELL_volt r _) (.inr (.inr ⟨j, rfl, .inl (by decide : 0 + 16 ≤ 16)⟩))).trans (h.volt j)

theorem State.shownMissing_shows : (s.shownMissing r i).ShowsMissed s r i ∧ (s.shownMissing r i).nodeState r i = 2 := by
  have cells := (s.staleNode_moved (N := onlyNode r i) r i).off
  have run := cells.get (f := Fd.CHN_NODE_STAT_missing_run r (i + 1)) (not_cellReg_nodeStat r i)
  have stale := s.staleNode_stale r i
  have kept := s.staleNode_kept r i
  unfold State.shownMissing
  generalize s.staleNode r i = u at run stale kept ⊢
  dsimp only
  have missing := u.get_put_small (Fd.CHN_NODE_STAT_missing_run r (i + 1)) (min 3 (u.get (Fd.CHN_NODE_STAT_missing_run r (i + 1)) + 1)) (by decide : 0 + 2 ≤ 32)
    (by change _ < 2 ^ 2; omega)
  have same : (u.put (Fd.CHN_NODE_STAT_missing_run r (i + 1)) (min 3 (u.get (Fd.CHN_NODE_STAT_missing_run r (i + 1)) + 1))).regsOff
    (· = Reg.CHN_NODE_STAT r (i + 1)) u :=
    State.regsOff.put (P := (· = Reg.CHN_NODE_STAT r (i + 1))) (.rfl' u) (f := Fd.CHN_NODE_STAT_missing_run r (i + 1)) rfl _
  generalize u.put (Fd.CHN_NODE_STAT_missing_run r (i + 1)) (min 3 (u.get (Fd.CHN_NODE_STAT_missing_run r (i + 1)) + 1)) = w at missing same ⊢
  have off : (w.put (Fd.CHN_NODE_STAT_state r (i + 1)) 2).regsOff (· = Reg.CHN_NODE_STAT r (i + 1)) u := same.put (f := Fd.CHN_NODE_STAT_state r (i + 1)) rfl 2
  have cell (j : Fin 16) : Reg.CHN_CELL r (cellNo i (j + 1)) ≠ Reg.CHN_NODE_STAT r (i + 1) := fun e =>
    not_cellReg_nodeStat r i (e ▸ cellReg_cell r i (by omega))
  refine ⟨⟨?_, fun j => ?_, fun j => ?_⟩, ?_⟩
  · rw [w.get_put_apart (Fd.CHN_NODE_STAT_state r (i + 1)) (Fd.CHN_NODE_STAT_missing_run r (i + 1)) 2 (by decide : 28 + 2 ≤ 32)
      (.inr (.inl (by decide : 0 + 2 ≤ 28))), missing, run]
  · exact (off.flag (f := Fd.CHN_CELL_stale r (cellNo i (j + 1))) (cell j)).trans (stale j)
  · exact (off.get (f := Fd.CHN_CELL_volt r (cellNo i (j + 1))) (cell j)).trans (kept _ (.inl (by decide : 0 + 16 ≤ 19)))
  · exact w.get_put_small (Fd.CHN_NODE_STAT_state r (i + 1)) 2 (by decide : 28 + 2 ≤ 32) (by decide : 2 < 2 ^ 2)

theorem State.notedMissing_moved {N : Fin 3 → Fin 14 → Prop} : (s.notedMissing r i).ChainMoved (nodeOps r i) N s :=
  (((s.shownMissing_moved r i).mono (fun _ => .inl) fun _ _ => id).bump (f := Fd.CHN_STR_CNT_missing r) (.inr (.inl (strReg_strCnt r)))).recordNode
    (fun _ => id) (by decide) (by decide)

theorem State.notedMissing_sameRegs : (s.notedMissing r i).SameRegs r i (s.shownMissing r i) := by
  have counted : ((s.shownMissing r i).bump (Fd.CHN_STR_CNT_missing r)).regsOff (strOps r) (s.shownMissing r i) :=
    .bump (.rfl' _) (f := Fd.CHN_STR_CNT_missing r) (.inl (strReg_strCnt r))
  exact (((State.record_note _ Blk.chn 0x11 (nodeUnit r i) (by decide)).1.mono fun _ => Or.inr).trans counted).sameRegs

theorem State.nodeMissed_eq : s.nodeMissed r i = if min 3 ((s.staleNode r i).get (Fd.CHN_NODE_STAT_missing_run r (i + 1)) + 1) = 3 then
    (s.notedMissing r i).fenceNode r i 1 0x12 else s.notedMissing r i := rfl

theorem State.nodeMissed_moved {N : Fin 3 → Fin 14 → Prop} : (s.nodeMissed r i).ChainMoved (nodeOps r i) N s := by
  rw [State.nodeMissed_eq]
  exact .ite (fun _ => (State.fenceNode_moved _ r i 1 0x12 (by decide)).trans (s.notedMissing_moved r i)) fun _ => s.notedMissing_moved r i

/-- A third sweep in a row fences the node (R257). -/
theorem State.nodeMissed_shows : (s.nodeMissed r i).ShowsMissed s r i ∧
    (s.nodeMissed r i).nodeState r i = (if 2 ≤ s.get (Fd.CHN_NODE_STAT_missing_run r (i + 1)) then 3 else 2) ∧
    (2 ≤ s.get (Fd.CHN_NODE_STAT_missing_run r (i + 1)) → (s.nodeMissed r i).get (Fd.CHN_NODE_STAT_fence_cause r (i + 1)) = 1) := by
  obtain ⟨shown, state⟩ := s.shownMissing_shows r i
  have noted := s.notedMissing_sameRegs r i
  have shows : (s.notedMissing r i).ShowsMissed s r i := shown.of_kept fun _ hg => noted.get hg.nodeReg
  have serves : (s.notedMissing r i).nodeState r i = 2 := noted.nodeState.trans state
  have run : (s.staleNode r i).get (Fd.CHN_NODE_STAT_missing_run r (i + 1)) = s.get (Fd.CHN_NODE_STAT_missing_run r (i + 1)) :=
    (s.staleNode_moved (N := onlyNode r i) r i).off.get (not_cellReg_nodeStat r i)
  rw [State.nodeMissed_eq, run]
  generalize s.notedMissing r i = u at shows serves ⊢
  by_cases third : 2 ≤ s.get (Fd.CHN_NODE_STAT_missing_run r (i + 1))
  · rw [if_pos third, if_pos (by omega)]
    obtain ⟨fenced, cause, -⟩ := u.fenceNode_fences r i 1 0x12 (by decide) (by rw [serves]; decide) (by decide)
    exact ⟨shows.of_kept (State.fieldsKept.fenceNode u r i (.rfl' u) 1 0x12 (by decide) (fun _ hg => hg.nodeReg.not_strOps) fun _ hg => hg.fence), fenced,
      fun _ => cause⟩
  · rw [if_neg third, if_neg (by omega)]
    exact ⟨shows, serves, fun h => absurd h third⟩

/-! ## The commit of a node -/

variable {s r i}

theorem State.commitNode_fenced (h : s.nodeState r i = 3) : s.commitNode r i = s.staleNode r i := if_pos h

theorem State.commitNode_read {p : List Nat} (h : s.nodeState r i ≠ 3) (read : (s.node r i).read = some p) : s.commitNode r i = s.nodeRead r i p := by
  unfold State.commitNode
  rw [if_neg h, read]

theorem State.commitNode_missed (h : s.nodeState r i ≠ 3) (read : (s.node r i).read = none) : s.commitNode r i = s.nodeMissed r i := by
  unfold State.commitNode
  rw [if_neg h, read]

theorem State.commitNode_moved {N : Fin 3 → Fin 14 → Prop} (s : State) (r : Fin 3) (i : Fin 14) : (s.commitNode r i).ChainMoved (nodeOps r i) N s := by
  by_cases fenced : s.nodeState r i = 3
  · rw [State.commitNode_fenced fenced]
    exact (s.staleNode_moved r i).mono (fun _ h => .inl h.nodeReg) fun _ _ => id
  · cases read : (s.node r i).read with
    | some p => rw [State.commitNode_read fenced read]; exact s.nodeRead_moved r i p
    | none => rw [State.commitNode_missed fenced read]; exact s.nodeMissed_moved r i

end

end Sys2Proof.Machine
end

section
/-! Chapter 09: the search for broken wires at the commit, and the checks of a string (R264, R266). -/

namespace Sys2Proof.Machine

/-! ## The search in a node (R264) -/

section
variable (s : State) (r : Fin 3) (i : Fin 14)

/-- The cells beside a tap are suspected, and the test asked for. -/
def State.suspectPair (tap : Nat) : State :=
  (((s.put (Fd.CHN_NODE_STAT_suspect_tap r (i + 1)) tap).testReq r).setFlag (Fd.CHN_CELL_suspect r (cellNo i tap)) true).setFlag
    (Fd.CHN_CELL_suspect r (cellNo i (tap + 1))) true

/-- A cell is suspected, and the test asked for. -/
def State.suspectCell (j : Nat) : State :=
  let u := s.setFlag (Fd.CHN_CELL_suspect r (cellNo i j)) true
  (u.setNode r i { u.node r i with suspCell := some j }).testReq r

theorem State.deviation_stale (h : ∀ j : Fin 16, s.stale r (cellNo i (j + 1)) = true) (j : Nat) : (s.deviation r i j).1 = false := by
  unfold State.deviation
  split
  next range =>
    have stale : s.stale r (cellNo i j) = true := by
      have cell := h ⟨j - 1, by omega⟩
      rwa [show j - 1 + 1 = j by omega] at cell
    have unconsidered : (!s.considered r i j) = true := by simp [State.considered, stale]
    dsimp only
    rw [if_pos unconsidered]
  next => rfl

/-- Where every cell is stale, nothing deviates, and nothing is suspected. -/
theorem State.searchNode_stale (e : Frac) (h : ∀ j : Fin 16, s.stale r (cellNo i (j + 1)) = true) : s.searchNode r i e = s := by
  have still := s.deviation_stale r i h
  unfold State.searchNode
  simp [still]

/-- The search may suspect a tap; then it may suspect a cell, or fence the node. -/
theorem State.searchNode_cases (e : Frac) : ∃ u : State, (u = s ∨ ∃ tap, (1 ≤ tap ∧ tap ≤ 15) ∧ u = s.suspectPair r i tap) ∧
    (s.searchNode r i e = u ∨ (∃ j, (1 ≤ j ∧ j ≤ 16) ∧ s.searchNode r i e = u.suspectCell r i j) ∨ s.searchNode r i e = u.fenceNode r i 2 0x16) := by
  unfold State.searchNode
  split
  next => exact ⟨s, .inl rfl, .inl rfl⟩
  next =>
    extract_lets dev d twice tol pairs singles sum blockErr calm u
    refine ⟨u, ?_, ?_⟩
    · unfold u
      split
      next tap found =>
        refine .inr ⟨tap, ?_, rfl⟩
        have mem := List.mem_of_mem_filter (List.mem_of_mem_getLast? found)
        obtain ⟨k, hk, rfl⟩ := List.mem_map.1 mem
        have := List.mem_range.1 hk
        omega
      next => exact .inl rfl
    · clear_value u
      split
      next j found =>
        split
        · refine .inr (.inl ⟨j, ?_, rfl⟩)
          have mem := List.mem_of_mem_filter (List.mem_of_mem_getLast? found)
          obtain ⟨k, hk, rfl⟩ := List.mem_map.1 mem
          have := List.mem_range.1 hk
          omega
        · exact .inr (.inr rfl)
      next => exact .inl rfl

end

section
variable {s t : State} {r : Fin 3} {i : Fin 14} {P : Nat → Prop} {N : Fin 3 → Fin 14 → Prop} {K : Fld → Prop}

theorem State.ChainMoved.testReq (h : t.ChainMoved P N s) (hP : P (Reg.CHN_STR_STAT r)) : (t.testReq r).ChainMoved P N s := by
  have due := h.setFlag (f := Fd.CHN_STR_STAT_owt_due r) hP true
  unfold State.testReq
  exact .ite (fun _ => due.setFlag (f := Fd.CHN_STR_STAT_owt_active r) hP true) fun _ => due

/-- The fields that a suspicion leaves. -/
structure Fld.Unsuspecting (r : Fin 3) (i : Fin 14) (g : Fld) : Prop where
  tap : (Fd.CHN_NODE_STAT_suspect_tap r (i + 1)).apart g
  cell : ∀ c, (Fd.CHN_CELL_suspect r c).apart g
  due : (Fd.CHN_STR_STAT_owt_due r).apart g
  active : (Fd.CHN_STR_STAT_owt_active r).apart g

theorem State.fieldsKept.testReq (h : t.fieldsKept K s) (hK : ∀ g, K g → Fld.Unsuspecting r i g) : (t.testReq r).fieldsKept K s := by
  have due := h.setFlag (f := Fd.CHN_STR_STAT_owt_due r) (by decide : 7 + 1 ≤ 32) (fun g hg => (hK g hg).due) true
  unfold State.testReq
  exact .ite (fun _ => due.setFlag (f := Fd.CHN_STR_STAT_owt_active r) (by decide : 6 + 1 ≤ 32) (fun g hg => (hK g hg).active) true) fun _ => due

theorem State.fieldsKept.suspectPair (h : t.fieldsKept K s) (hK : ∀ g, K g → Fld.Unsuspecting r i g) (tap : Nat) :
    (t.suspectPair r i tap).fieldsKept K s := by
  have shown := h.put (f := Fd.CHN_NODE_STAT_suspect_tap r (i + 1)) (by decide : 14 + 5 ≤ 32) (fun g hg => (hK g hg).tap) tap
  have first := (shown.testReq hK).setFlag (f := Fd.CHN_CELL_suspect r (cellNo i tap)) (by decide : 16 + 1 ≤ 32) (fun g hg => (hK g hg).cell _) true
  exact first.setFlag (f := Fd.CHN_CELL_suspect r (cellNo i (tap + 1))) (by decide : 16 + 1 ≤ 32) (fun g hg => (hK g hg).cell _) true

theorem State.fieldsKept.suspectCell (h : t.fieldsKept K s) (hK : ∀ g, K g → Fld.Unsuspecting r i g) (j : Nat) :
    (t.suspectCell r i j).fieldsKept K s := by
  have flagged := h.setFlag (f := Fd.CHN_CELL_suspect r (cellNo i j)) (by decide : 16 + 1 ≤ 32) (fun g hg => (hK g hg).cell _) true
  exact State.fieldsKept.testReq (flagged.of_regs (State.setNode_regs _ r i _)) hK

theorem State.ChainMoved.suspectPair (h : t.ChainMoved (nodeOps r i) N s) {tap : Nat} (range : 1 ≤ tap ∧ tap ≤ 15) :
    (t.suspectPair r i tap).ChainMoved (nodeOps r i) N s := by
  have shown := h.put (f := Fd.CHN_NODE_STAT_suspect_tap r (i + 1)) (.inl (nodeReg_nodeStat r i)) tap
  have first := (shown.testReq (r := r) (.inr (.inl (strReg_strStat r)))).setFlag (f := Fd.CHN_CELL_suspect r (cellNo i tap))
    (.inl (.inr (cellReg_cell r i (by omega)))) true
  exact first.setFlag (f := Fd.CHN_CELL_suspect r (cellNo i (tap + 1))) (.inl (.inr (cellReg_cell r i (by omega)))) true

theorem State.ChainMoved.suspectCell (h : t.ChainMoved (nodeOps r i) (onlyNode r i) s) {j : Nat} (range : 1 ≤ j ∧ j ≤ 16) :
    (t.suspectCell r i j).ChainMoved (nodeOps r i) (onlyNode r i) s :=
  ((h.setFlag (f := Fd.CHN_CELL_suspect r (cellNo i j)) (.inl (.inr (cellReg_cell r i range))) true).setNode ⟨rfl, rfl⟩ _).testReq
    (.inr (.inl (strReg_strStat r)))

theorem State.searchNode_moved (s : State) (r : Fin 3) (i : Fin 14) (e : Frac) : (s.searchNode r i e).ChainMoved (nodeOps r i) (onlyNode r i) s := by
  obtain ⟨u, start, result⟩ := s.searchNode_cases r i e
  have moved : u.ChainMoved (nodeOps r i) (onlyNode r i) s := by
    rcases start with rfl | ⟨tap, range, rfl⟩
    · exact .rfl' u
    · exact State.ChainMoved.suspectPair (.rfl' s) range
  rcases result with h | ⟨j, range, h⟩ | h <;> rw [h]
  · exact moved
  · exact moved.suspectCell range
  · exact (u.fenceNode_moved r i 2 0x16 (by decide)).trans moved

theorem showsReading.unsuspecting {g : Fld} (h : showsReading r i g) : Fld.Unsuspecting r i g where
  tap := h.apart (f := Fd.CHN_NODE_STAT_suspect_tap r (i + 1)) rfl (by decide : 2 ≤ 14)
  cell := h.apart_suspect
  due := .inl fun e => h.nodeReg.not_strOps (q := r) (.inl (e ▸ strReg_strStat r))
  active := .inl fun e => h.nodeReg.not_strOps (q := r) (.inl (e ▸ strReg_strStat r))

/-- The search leaves what was read. -/
theorem State.searchNode_reading (s : State) (r : Fin 3) (i : Fin 14) (e : Frac) : (s.searchNode r i e).fieldsKept (showsReading r i) s := by
  obtain ⟨u, start, result⟩ := s.searchNode_cases r i e
  have kept : u.fieldsKept (showsReading r i) s := by
    rcases start with rfl | ⟨tap, -, rfl⟩
    · exact .rfl' u
    · exact State.fieldsKept.suspectPair (.rfl' s) (fun _ => showsReading.unsuspecting) tap
  rcases result with h | ⟨j, -, h⟩ | h <;> rw [h]
  · exact kept
  · exact kept.suspectCell (fun _ => showsReading.unsuspecting) j
  · exact State.fieldsKept.fenceNode s r i kept 2 0x16 (by decide) (fun _ hg => hg.nodeReg.not_strOps) fun _ hg => hg.fence

/-! ## The count of fenced nodes through the commit -/

/-- The fields by which the fenced nodes of a string are counted. -/
def showsCount (r : Fin 3) (f : Fld) : Prop := f = Fd.CHN_STR_STAT_n_fenced r ∨ ∃ i : Fin 14, f = Fd.CHN_NODE_STAT_state r (i + 1)

theorem State.nodesCounted.of_kept (h : s.nodesCounted r) (kept : t.fieldsKept (showsCount r) s) : t.nodesCounted r :=
  h.of_eq (kept _ (.inl rfl)) fun k => kept _ (.inr ⟨k, rfl⟩)

/-- They share no bit with the other fields of the string's status, nor with registers that are no node's status. -/
theorem showsCount.apart {g : Fld} (h : showsCount r g) {f : Fld} (above : f.addr = Reg.CHN_STR_STAT r → 4 ≤ f.lo)
    (other : ∀ i : Fin 14, f.addr ≠ Reg.CHN_NODE_STAT r (i + 1)) : f.apart g := by
  rcases h with rfl | ⟨k, rfl⟩
  · by_cases stat : f.addr = Reg.CHN_STR_STAT r
    · exact .inr (.inl (above stat))
    · exact .inl (Ne.symm stat)
  · exact .inl (other k).symm

theorem strReg_ne_nodeStat {a : Nat} (h : strReg r a) (i : Fin 14) : a ≠ Reg.CHN_NODE_STAT r (i + 1) := fun e =>
  (nodeReg_nodeStat r i).not_strOps (q := r) (.inl (e ▸ h))

theorem showsCount.unsuspecting {g : Fld} (h : showsCount r g) : Fld.Unsuspecting r i g where
  tap := by
    rcases h with rfl | ⟨k, rfl⟩
    · exact .inl (strReg_ne_nodeStat (strReg_strStat r) i)
    · exact .inr (.inr (by decide : 14 + 5 ≤ 28))
  cell c := by
    refine h.apart (fun e => absurd e ?_) fun k e => absurd e ?_
    · change Reg.CHN_CELL r c ≠ Reg.CHN_STR_STAT r
      unfold Reg.CHN_CELL Reg.CHN_STR_STAT
      omega
    · change Reg.CHN_CELL r c ≠ Reg.CHN_NODE_STAT r (k + 1)
      unfold Reg.CHN_CELL Reg.CHN_NODE_STAT
      omega
  due := h.apart (fun _ => (by decide : 4 ≤ 7)) (strReg_ne_nodeStat (strReg_strStat r))
  active := h.apart (fun _ => (by decide : 4 ≤ 6)) (strReg_ne_nodeStat (strReg_strStat r))

/-- The search keeps the count right: what it suspects is not counted, and a fence counts anew. -/
theorem State.searchNode_counted (h : s.nodesCounted r) (i : Fin 14) (e : Frac) : (s.searchNode r i e).nodesCounted r := by
  obtain ⟨u, start, result⟩ := s.searchNode_cases r i e
  have kept : u.fieldsKept (showsCount r) s := by
    rcases start with rfl | ⟨tap, -, rfl⟩
    · exact .rfl' u
    · exact State.fieldsKept.suspectPair (.rfl' s) (fun _ hg => hg.unsuspecting) tap
  rcases result with eq | ⟨j, -, eq⟩ | eq <;> rw [eq]
  · exact h.of_kept kept
  · exact h.of_kept (kept.suspectCell (fun _ hg => hg.unsuspecting) j)
  · by_cases fenced : u.nodeState r i = 3
    · rw [show u.fenceNode r i 2 0x16 = u from if_pos fenced]
      exact h.of_kept kept
    · exact (u.fenceNode_fences r i 2 0x16 (by decide) fenced (by decide)).2.2

theorem showsCount.not_inWindow {g : Fld} (h : showsCount r g) : ¬inWindow 7 g.addr := by
  rcases h with rfl | ⟨k, rfl⟩
  · exact not_inWindow_strStat r
  · exact fun w => (nodeReg_nodeStat r k).not_strOps (q := r) (.inr w)

theorem showsCount.not_cellReg {g : Fld} (h : showsCount r g) (i : Fin 14) : ¬cellReg r i g.addr := by
  rcases h with rfl | ⟨k, rfl⟩
  · exact fun c => c.nodeReg.not_strOps (q := r) (.inl (strReg_strStat r))
  · intro c
    change cellReg r i (Reg.CHN_NODE_STAT r (k.val + 1)) at c
    unfold cellReg Reg.CHN_NODE_STAT at c
    omega

end

/-! ## The search on a string (R264) -/

section
variable (s : State) (r : Fin 3)

/-- Changes of the ring, and of its nodes beside their registers. -/
abbrev State.NoRegs (t s : State) (r : Fin 3) : Prop := t.ChainMoved (fun _ => False) (onlyRing r) s

theorem State.NoRegs.regs {s t : State} {r : Fin 3} (h : t.NoRegs s r) {K : Fld → Prop} : t.fieldsKept K s := fun _ _ => h.off.get id

theorem State.keepBias_moved (i : Fin 14) {P : Nat → Prop} : (s.keepBias r i).ChainMoved P (onlyNode r i) s := .setNode (.rfl' s) ⟨rfl, rfl⟩ _

theorem State.formR_noRegs : (s.formR r).NoRegs s r := .eachNode (fun _ u => .setNode (.rfl' u) rfl _) (.rfl' s)

theorem State.keepNode_noRegs (i : Fin 14) : (s.keepNode r i).NoRegs s r := .setNode (.rfl' s) rfl _

theorem State.autoMasks_noRegs : (s.autoMasks r).NoRegs s r := .eachNode (fun _ u => .setNode (.rfl' u) rfl _) (.rfl' s)

/-- The search goes node by node, between changes that no register shows; while a string is enumerated there is none. -/
theorem State.search_cases : s.search r = s ∨
    ∃ (u : State) (e : Frac), u.NoRegs s r ∧ (s.search r).NoRegs (u.eachNode fun i s => s.searchNode r i e) r := by
  unfold State.search
  split
  next => exact .inl rfl
  next =>
    extract_lets u big e s0 searched anyDev kept b
    have after : kept.NoRegs searched r := .eachNode (fun i w => w.keepNode_noRegs r i) (.rfl' searched)
    exact .inr ⟨u, e, s.formR_noRegs r, after.setRing r _⟩

theorem State.search_moved : (s.search r).ChainMoved (ringOps r) (onlyRing r) s := by
  rcases s.search_cases r with h | ⟨u, e, before, after⟩
  · rw [h]; exact .rfl' s
  · have searched : (u.eachNode fun i s => s.searchNode r i e).ChainMoved (ringOps r) (onlyRing r) u :=
      .eachNode (fun i w => (w.searchNode_moved r i e).ofNode) (.rfl' u)
    exact (after.mono (fun _ => False.elim) fun _ _ => id).trans (searched.trans (before.mono (fun _ => False.elim) fun _ _ => id))

variable {s r} in
theorem State.search_counted (h : s.nodesCounted r) : (s.search r).nodesCounted r := by
  rcases s.search_cases r with eq | ⟨u, e, before, after⟩
  · rw [eq]; exact h
  · refine State.nodesCounted.of_kept ?_ after.regs
    exact List.foldlRecOn (motive := fun w => State.nodesCounted w r) _ _ (h.of_kept before.regs) fun w hw i _ => State.searchNode_counted hw i e

/-! ## The checks of a string (R266) -/

theorem State.limitString_moved (code : Nat) (pair : isOwnFault Blk.chn code = false) :
    (s.limitString r code).ChainMoved (inWindow 7) (onlyRing r) s :=
  .ite (fun _ => .rfl' s) fun _ => (s.fenceStr_moved r).recordString r (fun _ => id) pair (by decide)

/-- The checks bring faults, and show the flag of the sum. -/
theorem State.limits_cases : ∃ (u : State) (b : Bool), u.ChainMoved (inWindow 7) (onlyRing r) s ∧
    (s.limits r).ChainMoved (inWindow 7) (onlyRing r) (u.setFlag (Fd.CHN_STR_STAT_sum_flag r) b) := by
  unfold State.limits
  extract_lets bad twice hot kept judged warm noted isOver run old shown
  have kept_moved : kept.ChainMoved (inWindow 7) (onlyRing r) s := .eachNode (fun _ u => .setNode (.rfl' u) rfl _) (.rfl' s)
  have judged_moved : judged.ChainMoved (inWindow 7) (onlyRing r) s :=
    .ite (fun _ => (kept.limitString_moved r 0x18 (by decide)).trans kept_moved) fun _ => kept_moved
  have warm_moved : warm.ChainMoved (inWindow 7) (onlyRing r) s :=
    .ite (fun _ => (judged.limitString_moved r 0x19 (by decide)).trans judged_moved) fun _ => judged_moved
  have noted_moved : noted.ChainMoved (inWindow 7) (onlyRing r) s := .eachNode (fun i u =>
    .ite (fun _ => (State.ChainMoved.rfl' u).record (fun _ => id) (by decide) (by decide) fun h => absurd h (by decide)) fun _ => .rfl' u) warm_moved
  refine ⟨noted.setRing r { old with sumRun := min 4 run }, decide (4 ≤ run), noted_moved.setRing r _, ?_⟩
  exact .ite (fun _ => State.ChainMoved.recordString (.rfl' shown) r (fun _ => id) (by decide) (by decide)) fun _ => .rfl' shown

theorem State.limits_moved : (s.limits r).ChainMoved (strOps r) (onlyRing r) s := by
  obtain ⟨u, b, before, after⟩ := s.limits_cases r
  have faults {t w : State} (h : t.ChainMoved (inWindow 7) (onlyRing r) w) : t.ChainMoved (strOps r) (onlyRing r) w := h.mono (fun _ => .inr) fun _ _ => id
  exact (faults after).trans ((faults before).setFlag (f := Fd.CHN_STR_STAT_sum_flag r) (.inl (strReg_strStat r)) b)

variable {s r} in
theorem State.limits_counted (h : s.nodesCounted r) : (s.limits r).nodesCounted r := by
  obtain ⟨u, b, before, after⟩ := s.limits_cases r
  have window {t w : State} (h : t.ChainMoved (inWindow 7) (onlyRing r) w) : t.fieldsKept (showsCount r) w := h.off.fieldsKept fun _ hg => hg.not_inWindow
  refine h.of_kept ((window after).trans ((window before).setFlag (f := Fd.CHN_STR_STAT_sum_flag r) (by decide : 5 + 1 ≤ 32) (fun g hg => ?_) b))
  exact hg.apart (fun _ => (by decide : 4 ≤ 5)) (strReg_ne_nodeStat (strReg_strStat r))

/-! ## The sum (Table 09-7) -/

theorem State.sumRing_moved {N : Fin 3 → Fin 14 → Prop} : (s.sumRing r).ChainMoved (strOps r) N s :=
  ((State.ChainMoved.put (.rfl' s) (f := Fd.CHN_STR_SUM_sum r) (.inl (strReg_strSum r)) _).putBF (.inl (strReg_strDiff r)) _).setFlag
    (f := Fd.CHN_STR_STAT_hot r) (.inl (strReg_strStat r)) _

variable {s r} in
theorem State.sumRing_counted (h : s.nodesCounted r) : (s.sumRing r).nodesCounted r := by
  unfold State.sumRing
  extract_lets u v
  have sums : v.regsOff (fun a => a = Reg.CHN_STR_SUM r ∨ a = Reg.CHN_STR_DIFF r) s :=
    (State.regsOff.put (.rfl' s) (f := Fd.CHN_STR_SUM_sum r) (.inl rfl) _).putBF (.inr rfl) _
  have off (g : Fld) (hg : showsCount r g) : ¬(g.addr = Reg.CHN_STR_SUM r ∨ g.addr = Reg.CHN_STR_DIFF r) := by
    rcases hg with rfl | ⟨k, rfl⟩
    · change ¬(Reg.CHN_STR_STAT r = _ ∨ Reg.CHN_STR_STAT r = _)
      unfold Reg.CHN_STR_STAT Reg.CHN_STR_SUM Reg.CHN_STR_DIFF
      omega
    · exact not_or.2 ⟨(strReg_ne_nodeStat (strReg_strSum r) k).symm, (strReg_ne_nodeStat (strReg_strDiff r) k).symm⟩
  exact h.of_kept ((sums.fieldsKept off).setFlag (f := Fd.CHN_STR_STAT_hot r) (by decide : 4 + 1 ≤ 32)
    (fun g hg => hg.apart (fun _ => (by decide : 4 ≤ 4)) (strReg_ne_nodeStat (strReg_strStat r))) _)

end

end Sys2Proof.Machine
end

section
/-! Chapter 09: the commit of a ring's readings (R257, R265). -/

namespace Sys2Proof.Machine

section
variable (s : State) (r : Fin 3)

/-! ## The stages of a commit -/

/-- The nodes have committed. -/
def State.nodesCommitted : State := (s.eachNode fun i s => s.keepBias r i).eachNode fun i s => s.commitNode r i

/-- The fenced ones are counted, and the cells beside broken taps have their substitutes. -/
def State.substituted : State := ((s.nodesCommitted r).countNodes r).eachNode fun i s => s.substitute r i

/-- The sum is formed, and the string searched. -/
def State.searched : State := ((s.substituted r).sumRing r).search r

variable {s r} in
theorem State.commitRing_served (h : s.served r = true) : s.commitRing r = ((s.searched r).limits r).autoMasks r := if_neg (by simp [h])

variable {s r} in
theorem State.commitRing_unserved (h : s.served r = false) : s.commitRing r = s := if_pos (by simp [h])

theorem State.substitute_movedNode (i : Fin 14) : (s.substitute r i).ChainMoved (nodeOps r i) (onlyNode r i) s :=
  (s.substitute_moved r i).mono (fun _ h => .inl h.nodeReg) fun _ _ => id

theorem State.nodesCommitted_moved : (s.nodesCommitted r).ChainMoved (ringOps r) (onlyRing r) s :=
  .eachNode (fun i u => (u.commitNode_moved r i).ofNode) (.eachNode (fun i u => (u.keepBias_moved r i).ofNode) (.rfl' s))

theorem State.substituted_moved : (s.substituted r).ChainMoved (ringOps r) (onlyRing r) s :=
  .eachNode (fun i u => (u.substitute_movedNode r i).ofNode)
    (((s.nodesCommitted r).countNodes_moved r).mono (fun _ => .inr) (fun _ _ => id) |>.trans (s.nodesCommitted_moved r))

theorem State.searched_moved : (s.searched r).ChainMoved (ringOps r) (onlyRing r) s :=
  (((s.substituted r).sumRing r).search_moved r).trans
    ((((s.substituted r).sumRing_moved r).mono (fun _ => .inr) fun _ _ => id).trans (s.substituted_moved r))

theorem State.commitRing_moved : (s.commitRing r).ChainMoved (ringOps r) (onlyRing r) s := by
  cases served : s.served r with
  | false => rw [State.commitRing_unserved served]; exact .rfl' s
  | true =>
    rw [State.commitRing_served served]
    have checked := ((s.searched r).limits_moved r).mono (P' := ringOps r) (fun _ => .inr) fun _ _ => id
    exact ((State.autoMasks_noRegs _ r).mono (fun _ => False.elim) fun _ _ => id).trans (checked.trans (s.searched_moved r))

variable {s r} in
/-- After a commit the count of fenced nodes is right. -/
theorem State.commitRing_counted (served : s.served r = true) : (s.commitRing r).nodesCounted r := by
  have substituted : (s.substituted r).nodesCounted r := by
    refine State.nodesCounted.of_kept ((s.nodesCommitted r).countNodes_counted r) ?_
    exact State.fieldsKept.foldl (fun i _ u => (u.substitute_moved (N := onlyNode r i) r i).off.fieldsKept fun _ hg => hg.not_cellReg i) (.rfl' _)
  rw [State.commitRing_served served]
  exact State.nodesCounted.of_kept (State.limits_counted (State.search_counted (State.sumRing_counted substituted))) (State.autoMasks_noRegs _ r).regs

/-! ## One node in a commit -/

variable (i : Fin 14)

/-- At its commit a node's registers stand as before, and so does its reading. -/
theorem State.nodesCommitted_turn : ∃ u : State, u.SameRegs r i s ∧ (u.node r i).read = (s.node r i).read ∧
    (s.nodesCommitted r).SameNode r i (u.commitNode r i) := by
  obtain ⟨u, same, kept⟩ := State.eachNode_turn (fun k u => u.keepBias_moved r k) s i
  obtain ⟨w, before, after⟩ := State.eachNode_turn (fun k u => u.commitNode_moved r k) (s.eachNode fun i s => s.keepBias r i) i
  refine ⟨w, before.regs.trans (kept.regs.trans same.regs), ?_, after⟩
  rw [before.node, kept.node, State.keepBias, State.node_setNode_same, same.node]

/-- After it the node may take substitutes. -/
theorem State.substituted_turn : ∃ u : State, u.SameNode r i (s.nodesCommitted r) ∧ (s.substituted r).SameNode r i (u.substitute r i) := by
  obtain ⟨u, before, after⟩ := State.eachNode_turn (fun k u => u.substitute_movedNode r k) ((s.nodesCommitted r).countNodes r) i
  have counted := (s.nodesCommitted r).countNodes_moved (N := fun _ _ => False) r
  exact ⟨u, before.trans ⟨counted.off.sameRegs, counted.nodes r i id⟩, after⟩

/-- Then it may be searched; nothing else of the commit reaches its registers. -/
theorem State.commitRing_turn (served : s.served r = true) : (s.commitRing r).SameRegs r i (s.substituted r) ∨
    ∃ (u : State) (e : Frac), u.SameRegs r i (s.substituted r) ∧ (s.commitRing r).SameRegs r i (u.searchNode r i e) := by
  have summed : ((s.substituted r).sumRing r).SameRegs r i (s.substituted r) := (State.sumRing_moved (N := onlyRing r) _ r).off.sameRegs
  have ended : (s.commitRing r).SameRegs r i (s.searched r) := by
    rw [State.commitRing_served served]
    exact State.SameRegs.trans (fun a _ => (State.autoMasks_noRegs _ r).off a id) ((s.searched r).limits_moved r).off.sameRegs
  rcases ((s.substituted r).sumRing r).search_cases r with h | ⟨u, e, before, after⟩
  · have same : s.searched r = (s.substituted r).sumRing r := h
    exact .inl ((same ▸ ended).trans summed)
  · obtain ⟨w, start, result⟩ := State.eachNode_turn (fun k u => u.searchNode_moved r k e) u i
    have formed : u.SameRegs r i ((s.substituted r).sumRing r) := fun a _ => before.off a id
    have kept : (s.searched r).SameRegs r i (u.eachNode fun i s => s.searchNode r i e) := fun a _ => after.off a id
    exact .inr ⟨w, e, start.regs.trans (formed.trans summed), ended.trans (kept.trans result.regs)⟩

variable {s r i}

/-- Where a node is fenced or was not read, its commit is all that reaches its registers: all its cells are stale. -/
theorem State.commitRing_unread (served : s.served r = true) (h : s.nodeState r i = 3 ∨ (s.node r i).read = none) :
    ∃ u : State, u.SameRegs r i s ∧ (u.node r i).read = (s.node r i).read ∧ (s.commitRing r).SameRegs r i (u.commitNode r i) := by
  obtain ⟨u, same, read, committed⟩ := s.nodesCommitted_turn r i
  obtain ⟨v, before, after⟩ := s.substituted_turn r i
  have start : v.SameNode r i (u.commitNode r i) := before.trans committed
  have stale (j : Fin 16) : (u.commitNode r i).stale r (cellNo i (j + 1)) = true := by
    by_cases fenced : u.nodeState r i = 3
    · rw [State.commitNode_fenced fenced]
      exact u.staleNode_stale r i j
    · rw [State.commitNode_missed fenced (read.trans (h.resolve_left (same.nodeState ▸ fenced)))]
      exact (u.nodeMissed_shows r i).1.stale j
  have plain : v.substitute r i = v := by
    refine v.substitute_none r i (h.symm.imp (fun unread => ?_) fun fenced => .inl ?_)
    · rw [start.node, (u.commitNode_moved (N := fun _ _ => False) r i).nodes r i id, read, unread]
    · rw [start.nodeState, State.commitNode_fenced (same.nodeState.trans fenced)]
      exact ((u.staleNode_moved (N := onlyNode r i) r i).off.get (f := Fd.CHN_NODE_STAT_state r (i + 1)) (not_cellReg_nodeStat r i)).trans
        (same.nodeState.trans fenced)
  rw [plain] at after
  have whole : (s.substituted r).SameRegs r i (u.commitNode r i) := after.regs.trans start.regs
  refine ⟨u, same, read, ?_⟩
  rcases s.commitRing_turn r i served with kept | ⟨w, e, begun, kept⟩
  · exact kept.trans whole
  · have cells (j : Fin 16) : w.stale r (cellNo i (j + 1)) = true :=
      ((begun.trans whole).flag (f := Fd.CHN_CELL_stale r (cellNo i (j + 1))) (.inr (cellReg_cell r i (by omega)))).trans (stale j)
    rw [w.searchNode_stale r i e cells] at kept
    exact kept.trans (begun.trans whole)

/-- A fenced node stays fenced, and its cells stale. -/
theorem State.commitRing_fenced (served : s.served r = true) (h : s.nodeState r i = 3) : (s.commitRing r).nodeState r i = 3 ∧
    ∀ j : Fin 16, (s.commitRing r).stale r (cellNo i (j + 1)) = true := by
  obtain ⟨u, same, -, kept⟩ := State.commitRing_unread served (.inl h)
  rw [State.commitNode_fenced (same.nodeState.trans h)] at kept
  refine ⟨kept.nodeState.trans (((u.staleNode_moved (N := onlyNode r i) r i).off.get (f := Fd.CHN_NODE_STAT_state r (i + 1))
    (not_cellReg_nodeStat r i)).trans (same.nodeState.trans h)), fun j => ?_⟩
  exact (kept.flag (f := Fd.CHN_CELL_stale r (cellNo i (j + 1))) (.inr (cellReg_cell r i (by omega)))).trans (u.staleNode_stale r i j)

/-- A node that was not read is missing, and is fenced in its third sweep. -/
theorem State.commitRing_missed (served : s.served r = true) (serves : s.nodeState r i ≠ 3) (unread : (s.node r i).read = none) :
    (s.commitRing r).ShowsMissed s r i ∧
    (s.commitRing r).nodeState r i = (if 2 ≤ s.get (Fd.CHN_NODE_STAT_missing_run r (i + 1)) then 3 else 2) ∧
    (2 ≤ s.get (Fd.CHN_NODE_STAT_missing_run r (i + 1)) → (s.commitRing r).get (Fd.CHN_NODE_STAT_fence_cause r (i + 1)) = 1) := by
  obtain ⟨u, same, read, kept⟩ := State.commitRing_unread served (.inr unread)
  rw [State.commitNode_missed (same.nodeState ▸ serves) (read.trans unread)] at kept
  have stat : nodeReg r i (Reg.CHN_NODE_STAT r (i.val + 1)) := nodeReg_nodeStat r i
  obtain ⟨⟨missing, stale, volt⟩, state, cause⟩ := u.nodeMissed_shows r i
  rw [same.get (f := Fd.CHN_NODE_STAT_missing_run r (i + 1)) stat] at missing state cause
  have before : (u.nodeMissed r i).ShowsMissed s r i := ⟨missing, stale, fun j =>
    (volt j).trans (same.get (f := Fd.CHN_CELL_volt r (cellNo i (j + 1))) (.inr (cellReg_cell r i (by omega))))⟩
  exact ⟨before.of_kept fun _ hg => kept.get hg.nodeReg, kept.nodeState.trans state,
    fun third => (kept.get (f := Fd.CHN_NODE_STAT_fence_cause r (i + 1)) stat).trans (cause third)⟩

variable {p : List Nat} in
/-- A node that was read shows its reading, and its cells' values but for substitutes. -/
theorem State.commitRing_read (served : s.served r = true) (serves : s.nodeState r i ≠ 3) (reading : (s.node r i).read = some p) :
    (s.commitRing r).ShowsRead r i p ∧ (16 < s.get (Fd.CHN_NODE_STAT_broken_tap r (i + 1)) →
      ∀ j : Fin 16, (s.commitRing r).volt r (cellNo i (j + 1)) = be16 p (2 * j) ∧ (s.commitRing r).subst r (cellNo i (j + 1)) = false) := by
  obtain ⟨u, same, read, committed⟩ := s.nodesCommitted_turn r i
  obtain ⟨v, before, after⟩ := s.substituted_turn r i
  have start : v.SameNode r i (u.commitNode r i) := before.trans committed
  rw [State.commitNode_read (same.nodeState ▸ serves) (read.trans reading)] at start
  obtain ⟨shown, broken, values⟩ := u.nodeRead_shows r i p
  have stat : nodeReg r i (Reg.CHN_NODE_STAT r (i.val + 1)) := nodeReg_nodeStat r i
  rw [same.get (f := Fd.CHN_NODE_STAT_broken_tap r (i + 1)) stat] at broken
  have searched : (s.commitRing r).fieldsKept (showsReading r i) (s.substituted r) := by
    rcases s.commitRing_turn r i served with kept | ⟨w, e, begun, kept⟩
    · exact fun _ hg => kept.get hg.nodeReg
    · exact fun g hg => (kept.get hg.nodeReg).trans ((w.searchNode_reading r i e g hg).trans (begun.get hg.nodeReg))
  have read_kept : v.fieldsKept (showsReading r i) (u.nodeRead r i p) := fun _ hg => start.get hg.nodeReg
  refine ⟨?_, fun whole j => ?_⟩
  · have shows (g : Fld) (hg : showsReading r i g) (beside : notValue g ∨ ¬cellReg r i g.addr) :
        (s.commitRing r).get g = (u.nodeRead r i p).get g := by
      have substitutes := State.fieldsKept.substitute (K := (· = g)) (r := r) (i := i) (.rfl' v) (fun _ h => h ▸ beside) g rfl
      exact (searched g hg).trans ((after.get hg.nodeReg).trans (substitutes.trans (read_kept g hg)))
    have stat := not_cellReg_nodeStat r i
    have meas := not_cellReg_nodeMeas r i
    obtain ⟨missing, block, temp, fresh⟩ := shown
    exact ⟨(shows (Fd.CHN_NODE_STAT_missing_run r (i + 1)) (.inr (.inl rfl)) (.inr stat)).trans missing,
      (shows (Fd.CHN_NODE_MEAS_block r (i + 1)) (.inl rfl) (.inr meas)).trans block,
      (shows (Fd.CHN_NODE_MEAS_temp r (i + 1)) (.inl rfl) (.inr meas)).trans temp,
      fun j => (congrArg (· == 1) (shows (Fd.CHN_CELL_stale r (cellNo i (j + 1))) (.inr (.inr ⟨j, rfl, .inr (by decide : 17 ≤ 19)⟩))
        (.inl (.inl (by decide : 19 ≤ 19))))).trans (fresh j)⟩
  · have plain : v.substitute r i = v :=
      v.substitute_none r i (.inr (.inr (((start.get (f := Fd.CHN_NODE_STAT_broken_tap r (i + 1)) stat).trans broken).symm ▸ whole)))
    rw [plain] at after
    have kept := searched.trans (State.fieldsKept.trans (fun _ hg => after.get hg.nodeReg) read_kept)
    exact ⟨(kept (Fd.CHN_CELL_volt r (cellNo i (j + 1))) (.inr (.inr ⟨j, rfl, .inl (by decide : 0 + 16 ≤ 16)⟩))).trans (values j).1,
      (congrArg (· == 1) (kept (Fd.CHN_CELL_subst r (cellNo i (j + 1))) (.inr (.inr ⟨j, rfl, .inr (by decide : 17 ≤ 18)⟩)))).trans (values j).2⟩

end

/-! ## The command -/

theorem execReadingsCommit_off {s : State} (frame : s.sweepFrame ≠ 1024) : exec .readingsCommit s = .next s :=
  congrArg Host.Outcome.next (if_pos (by simp [frame]))

/-- The state after the commits of all rings. -/
def State.readingsCommitted (s : State) : State := (List.finRange 3).foldl State.commitRing s

theorem execReadingsCommit_on {s : State} (frame : s.sweepFrame = 1024) : exec .readingsCommit s = .next s.readingsCommitted :=
  congrArg Host.Outcome.next (if_neg (by simp [frame]))

theorem State.readingsCommitted_within (s : State) : s.readingsCommitted.within s chainParts :=
  .foldl (fun r u hu => (u.commitRing_moved r).parts.trans hu) (.rfl' s)

section
variable (s : State) (r : Fin 3)

/-- Each string commits from what it showed before, and nothing of the others' commits reaches it. -/
theorem State.readingsCommitted_turn : ∃ u : State, u.SameString r s ∧ s.readingsCommitted.SameString r (u.commitRing r) :=
  State.eachRing_turn State.commitRing_moved s r

variable {s r}

theorem State.readingsCommitted_counted (served : s.served r = true) : s.readingsCommitted.nodesCounted r := by
  obtain ⟨u, before, after⟩ := s.readingsCommitted_turn r
  exact (State.commitRing_counted (before.served.trans served)).of_eq (after.get (f := Fd.CHN_STR_STAT_n_fenced r) (strReg_strStat r))
    fun i => (after.nodes i).nodeState

variable {i : Fin 14}

theorem State.readingsCommitted_read {p : List Nat} (served : s.served r = true) (serves : s.nodeState r i ≠ 3) (reading : (s.node r i).read = some p) :
    s.readingsCommitted.ShowsRead r i p ∧ (16 < s.get (Fd.CHN_NODE_STAT_broken_tap r (i + 1)) → ∀ j : Fin 16,
      s.readingsCommitted.volt r (cellNo i (j + 1)) = be16 p (2 * j) ∧ s.readingsCommitted.subst r (cellNo i (j + 1)) = false) := by
  obtain ⟨u, before, after⟩ := s.readingsCommitted_turn r
  have own := before.nodes i
  have result := after.nodes i
  obtain ⟨⟨missing, block, temp, fresh⟩, values⟩ := State.commitRing_read (before.served.trans served) (own.nodeState ▸ serves)
    ((congrArg ChnNode.read own.node).trans reading)
  rw [own.get (f := Fd.CHN_NODE_STAT_broken_tap r (i + 1)) (nodeReg_nodeStat r i)] at values
  have cell (j : Fin 16) : nodeReg r i (Reg.CHN_CELL r (cellNo i (j + 1))) := .inr (cellReg_cell r i (by omega))
  exact ⟨⟨(result.get (f := Fd.CHN_NODE_STAT_missing_run r (i + 1)) (nodeReg_nodeStat r i)).trans missing,
    (result.get (f := Fd.CHN_NODE_MEAS_block r (i + 1)) (nodeReg_nodeMeas r i)).trans block,
    (result.get (f := Fd.CHN_NODE_MEAS_temp r (i + 1)) (nodeReg_nodeMeas r i)).trans temp,
    fun j => (result.flag (f := Fd.CHN_CELL_stale r _) (cell j)).trans (fresh j)⟩,
    fun whole j => ⟨(result.get (f := Fd.CHN_CELL_volt r _) (cell j)).trans (values whole j).1,
      (result.flag (f := Fd.CHN_CELL_subst r _) (cell j)).trans (values whole j).2⟩⟩

theorem State.readingsCommitted_missed (served : s.served r = true) (serves : s.nodeState r i ≠ 3) (unread : (s.node r i).read = none) :
    s.readingsCommitted.ShowsMissed s r i ∧
    s.readingsCommitted.nodeState r i = (if 2 ≤ s.get (Fd.CHN_NODE_STAT_missing_run r (i + 1)) then 3 else 2) ∧
    (2 ≤ s.get (Fd.CHN_NODE_STAT_missing_run r (i + 1)) → s.readingsCommitted.get (Fd.CHN_NODE_STAT_fence_cause r (i + 1)) = 1) := by
  obtain ⟨u, before, after⟩ := s.readingsCommitted_turn r
  have own := before.nodes i
  have stat : nodeReg r i (Reg.CHN_NODE_STAT r (i.val + 1)) := nodeReg_nodeStat r i
  obtain ⟨⟨missing, stale, volt⟩, state, cause⟩ := State.commitRing_missed (before.served.trans served) (own.nodeState ▸ serves)
    ((congrArg ChnNode.read own.node).trans unread)
  rw [own.get (f := Fd.CHN_NODE_STAT_missing_run r (i + 1)) stat] at missing state cause
  have shown : (u.commitRing r).ShowsMissed s r i := ⟨missing, stale, fun j =>
    (volt j).trans (own.get (f := Fd.CHN_CELL_volt r _) (.inr (cellReg_cell r i (by omega))))⟩
  exact ⟨shown.of_kept fun _ hg => (after.nodes i).get hg.nodeReg, (after.nodes i).nodeState.trans state,
    fun third => ((after.nodes i).get (f := Fd.CHN_NODE_STAT_fence_cause r (i + 1)) stat).trans (cause third)⟩

theorem State.readingsCommitted_fenced (served : s.served r = true) (h : s.nodeState r i = 3) : s.readingsCommitted.nodeState r i = 3 ∧
    ∀ j : Fin 16, s.readingsCommitted.stale r (cellNo i (j + 1)) = true := by
  obtain ⟨u, before, after⟩ := s.readingsCommitted_turn r
  obtain ⟨fenced, stale⟩ := State.commitRing_fenced (before.served.trans served) ((before.nodes i).nodeState.trans h)
  exact ⟨(after.nodes i).nodeState.trans fenced,
    fun j => ((after.nodes i).flag (f := Fd.CHN_CELL_stale r _) (.inr (cellReg_cell r i (by omega)))).trans (stale j)⟩

/-- The cells of a string that is not served stand. -/
theorem State.readingsCommitted_unserved (unserved : s.served r = false) {c : Nat} (range : c < 224) :
    s.readingsCommitted.rd (Reg.CHN_CELL r c) = s.rd (Reg.CHN_CELL r c) := by
  obtain ⟨u, before, after⟩ := s.readingsCommitted_turn r
  rw [State.commitRing_unserved (before.served.trans unserved)] at after
  have cell : nodeReg r ⟨c / 16, by omega⟩ (Reg.CHN_CELL r c) := by
    unfold nodeReg cellReg Reg.CHN_CELL
    dsimp only
    omega
  exact ((after.trans before).nodes _).regs _ cell

end

/-- Settles O33: each string has its commit, in which each node has its turn. -/
theorem readingsCommitAtFrame1024 : Obligations.ReadingsCommitAtFrame1024 := by
  intro s
  refine ⟨execReadingsCommit_off, fun frame => ⟨_, execReadingsCommit_on frame, s.readingsCommitted_within,
    fun r served => State.readingsCommitted_counted served, fun r i p served serves reading => ?_, fun r i served serves unread => ?_,
    fun r i served fenced => State.readingsCommitted_fenced served fenced, fun r c unserved range => State.readingsCommitted_unserved unserved range⟩⟩
  · obtain ⟨⟨missing, block, temp, fresh⟩, values⟩ := State.readingsCommitted_read served serves reading
    exact ⟨missing, block, temp, fun j => ⟨fresh j, fun whole => values whole j⟩⟩
  · obtain ⟨⟨missing, stale, volt⟩, state, cause⟩ := State.readingsCommitted_missed served serves unread
    exact ⟨missing, state, cause, fun j => ⟨stale j, volt j⟩⟩

end Sys2Proof.Machine
end

section
/-! Chapter 09: the judgement of the open-wire test (R263 to R265). -/

namespace Sys2Proof.Machine

section
variable (s : State) (r : Fin 3) (i : Fin 14)

/-! ## Broken taps and cell faults -/

theorem State.breakTap_moved {N : Fin 3 → Fin 14 → Prop} (tap : Nat) : (s.breakTap r i tap).ChainMoved (nodeOps r i) N s := by
  have shown := State.ChainMoved.put (N := N) (.rfl' s) (f := Fd.CHN_NODE_STAT_broken_tap r (i + 1))
    (P := nodeOps r i) (.inl (nodeReg_nodeStat r i)) tap
  unfold State.breakTap
  refine .ite (fun _ => .rfl' s) fun _ => ?_
  exact ((State.substitute_moved _ r i).mono (fun _ h => .inl h.nodeReg) fun _ _ => id).trans (shown.recordNode (fun _ => id) (by decide) (by decide))

/-- The tap is shown as broken (R264). -/
theorem State.breakTap_broken {tap : Nat} (h : tap ≤ 16) : (s.breakTap r i tap).get (Fd.CHN_NODE_STAT_broken_tap r (i + 1)) = tap := by
  unfold State.breakTap
  split
  next known => exact known
  next fresh =>
    have shown := s.get_put_small (Fd.CHN_NODE_STAT_broken_tap r (i + 1)) tap (by decide : 19 + 5 ≤ 32) (by change tap < 2 ^ 5; omega)
    have kept := State.fieldsKept.recordNode (K := (· = Fd.CHN_NODE_STAT_broken_tap r (i + 1))) (i := i) (r := r) (code := 0x14) (cls := 1)
      (.rfl' (s.put (Fd.CHN_NODE_STAT_broken_tap r (i + 1)) tap)) (by decide) (by decide)
      (fun g hg => hg ▸ fun w => (nodeReg_nodeStat r i).not_strOps (q := r) (.inr w)) (fun g hg => hg ▸ .inr (.inl (by decide : 19 + 5 ≤ 28)))
      (fun g hg => hg ▸ .inr (.inl (by decide : 19 + 5 ≤ 24)))
    exact (kept.substitute (r := r) (i := i) (fun g hg => hg ▸ .inr (not_cellReg_nodeStat r i)) _ rfl).trans shown

theorem State.cellFault_moved (j : Nat) : (s.cellFault r i j).ChainMoved (nodeOps r i) (onlyNode r i) s := by
  unfold State.cellFault
  extract_lets n u
  have moved : u.ChainMoved (nodeOps r i) (onlyNode r i) s := by
    unfold u
    split
    · exact State.ChainMoved.setNode (.rfl' s) ⟨rfl, rfl⟩ _
    · exact .rfl' s
  clear_value u
  exact (moved.setRing r _).recordString r (fun _ h => .inr (.inr h)) (by decide) (by decide)

/-! ## The end of the suspicions -/

/-- The flags of a node's suspected cells, put out one by one. -/
def State.dropFlags : State := s.each 16 fun j s => s.setFlag (Fd.CHN_CELL_suspect r (cellNo i (j + 1))) false

theorem State.dropFlags_moved {N : Fin 3 → Fin 14 → Prop} : (s.dropFlags r i).ChainMoved (cellReg r i) N s :=
  .each (fun j _ w => .setFlag (.rfl' w) (f := Fd.CHN_CELL_suspect r (cellNo i (j + 1))) (cellReg_cell r i (by omega)) false) (.rfl' s)

theorem State.dropFlags_flag (j : Fin 16) : (s.dropFlags r i).flag (Fd.CHN_CELL_suspect r (cellNo i (j + 1))) = false := by
  obtain ⟨w, after⟩ := State.each_cell r i (fun w _ _ other => w.rd_wr_other _ _ _ other) s j
  exact (congrArg (getBits · 16 1 == 1) after).trans (w.flag_setFlag_same (Fd.CHN_CELL_suspect r (cellNo i (j + 1))) false (by decide : 16 + 1 ≤ 32) rfl)

theorem State.dropSuspects_eq : s.dropSuspects r i =
    let v := (s.put (Fd.CHN_NODE_STAT_suspect_tap r (i + 1)) 31).dropFlags r i
    v.setNode r i { v.node r i with suspCell := none } := rfl

theorem State.dropSuspects_moved : (s.dropSuspects r i).ChainMoved (nodeOps r i) (onlyNode r i) s := by
  have put : (s.put (Fd.CHN_NODE_STAT_suspect_tap r (i + 1)) 31).ChainMoved (nodeOps r i) (onlyNode r i) s :=
    .put (.rfl' s) (f := Fd.CHN_NODE_STAT_suspect_tap r (i + 1)) (.inl (nodeReg_nodeStat r i)) 31
  rw [State.dropSuspects_eq]
  exact State.ChainMoved.setNode (((State.dropFlags_moved _ r i).mono (fun _ h => .inl h.nodeReg) fun _ _ => id).trans put) ⟨rfl, rfl⟩ _

/-- A node has no suspicion left: no tap, no cell, and no cell's flag. -/
structure State.Unsuspected (t : State) (r : Fin 3) (i : Fin 14) : Prop where
  tap : t.get (Fd.CHN_NODE_STAT_suspect_tap r (i + 1)) = 31
  cell : (t.node r i).suspCell = none
  flags : ∀ j : Fin 16, t.flag (Fd.CHN_CELL_suspect r (cellNo i (j + 1))) = false

/-- The fields that show a node's suspicions. -/
def showsSuspicion (r : Fin 3) (i : Fin 14) (f : Fld) : Prop :=
  f = Fd.CHN_NODE_STAT_suspect_tap r (i + 1) ∨ ∃ j : Fin 16, f = Fd.CHN_CELL_suspect r (cellNo i (j + 1))

section
variable {r i} {g : Fld}

theorem showsSuspicion.nodeReg (h : showsSuspicion r i g) : nodeReg r i g.addr := by
  rcases h with rfl | ⟨j, rfl⟩
  · exact nodeReg_nodeStat r i
  · exact .inr (cellReg_cell r i (by omega))

/-- They share no bit with the fields above the suspected tap. -/
theorem showsSuspicion.apart (h : showsSuspicion r i g) {f : Fld} (hf : f.addr = Reg.CHN_NODE_STAT r (i.val + 1)) (above : 19 ≤ f.lo) : f.apart g := by
  rcases h with rfl | ⟨j, rfl⟩
  · exact .inr (.inl above)
  · refine .inl fun e => not_cellReg_nodeStat r i ?_
    rw [← hf, ← e]
    exact cellReg_cell r i (by omega)

theorem showsSuspicion.notValue (h : showsSuspicion r i g) : notValue g ∨ ¬cellReg r i g.addr := by
  rcases h with rfl | ⟨j, rfl⟩
  · exact .inr (not_cellReg_nodeStat r i)
  · exact .inl (.inr ⟨rfl, rfl⟩)

variable {s t : State}

theorem State.fieldsKept.recordSuspect (h : t.fieldsKept (showsSuspicion r i) s) {code cls : Nat} (pair : isOwnFault Blk.chn code = false) (small : cls < 3) :
    (t.record Blk.chn code cls (nodeUnit r i)).fieldsKept (showsSuspicion r i) s :=
  h.recordNode pair small (fun _ hg w => hg.nodeReg.not_strOps (q := r) (.inr w))
    (fun _ hg => hg.apart (f := Fd.CHN_NODE_STAT_state r (i + 1)) rfl (by decide : 19 ≤ 28))
    fun _ hg => hg.apart (f := Fd.CHN_NODE_STAT_fence_cause r (i + 1)) rfl (by decide : 19 ≤ 24)

/-- An operation that leaves the node leaves it unsuspected where it keeps the fields. -/
theorem State.Unsuspected.of_kept (h : s.Unsuspected r i) (kept : t.fieldsKept (showsSuspicion r i) s)
    (cell : (t.node r i).suspCell = (s.node r i).suspCell) : t.Unsuspected r i where
  tap := (kept _ (.inl rfl)).trans h.tap
  cell := cell.trans h.cell
  flags j := (congrArg (· == 1) (kept _ (.inr ⟨j, rfl⟩))).trans (h.flags j)

theorem State.Unsuspected.breakTap (h : s.Unsuspected r i) (tap : Nat) : (s.breakTap r i tap).Unsuspected r i := by
  refine h.of_kept ?_ (congrArg ChnNode.suspCell ((s.breakTap_moved r i (N := fun _ _ => False) tap).nodes r i id))
  have broken : (Fd.CHN_NODE_STAT_broken_tap r (i + 1)).lo + (Fd.CHN_NODE_STAT_broken_tap r (i + 1)).len ≤ 32 := (by decide : 19 + 5 ≤ 32)
  unfold State.breakTap
  refine .ite (fun _ => .rfl' s) fun _ => State.fieldsKept.substitute (.recordSuspect ?_ (by decide) (by decide)) fun _ hg => hg.notValue
  exact .put (.rfl' s) broken (fun _ hg => hg.apart (f := Fd.CHN_NODE_STAT_broken_tap r (i + 1)) rfl (by decide : 19 ≤ 19)) tap

theorem State.Unsuspected.fenceNode (h : s.Unsuspected r i) (cause code : Nat) (pair : isOwnFault Blk.chn code = false) :
    (s.fenceNode r i cause code).Unsuspected r i := by
  refine h.of_kept ?_ (congrArg ChnNode.suspCell ((s.fenceNode_moved r i (N := fun _ _ => False) cause code pair).nodes r i id))
  exact State.fieldsKept.fenceNode s r i (.rfl' s) cause code pair (fun _ hg => hg.nodeReg.not_strOps) fun _ hg =>
    ⟨hg.apart (f := Fd.CHN_NODE_STAT_state r (i + 1)) rfl (by decide : 19 ≤ 28),
      hg.apart (f := Fd.CHN_NODE_STAT_fence_cause r (i + 1)) rfl (by decide : 19 ≤ 24)⟩

theorem State.Unsuspected.cellFault (h : s.Unsuspected r i) (j : Nat) : (s.cellFault r i j).Unsuspected r i := by
  unfold State.cellFault
  extract_lets n u
  have based : u.regs = s.regs ∧ (u.node r i).suspCell = (s.node r i).suspCell := by
    unfold u
    split
    · exact ⟨s.setNode_regs r i _, (congrArg ChnNode.suspCell (s.node_setNode_same r i _)).trans rfl⟩
    · exact ⟨rfl, rfl⟩
  clear_value u
  obtain ⟨regs, cell⟩ := based
  have moved : ((u.setRing r { u.ring r with cellStep := true }).record Blk.chn 0x15 1 (0x700 + r)).ChainMoved (inWindow 7) (fun _ _ => False) u :=
    ((State.ChainMoved.rfl' u).setRing r _).recordString r (fun _ => id) (by decide) (by decide)
  refine h.of_kept (State.fieldsKept.trans (moved.off.fieldsKept fun _ hg w => hg.nodeReg.not_strOps (q := r) (.inr w)) fun _ _ => State.get_congr regs _) ?_
  exact (congrArg ChnNode.suspCell (moved.nodes r i id)).trans cell

end

theorem State.dropSuspects_unsuspected : (s.dropSuspects r i).Unsuspected r i := by
  have tap := s.get_put_small (Fd.CHN_NODE_STAT_suspect_tap r (i + 1)) 31 (by decide : 14 + 5 ≤ 32) (by decide : 31 < 2 ^ 5)
  rw [State.dropSuspects_eq]
  dsimp only
  generalize s.put (Fd.CHN_NODE_STAT_suspect_tap r (i + 1)) 31 = u at tap ⊢
  have cells := (u.dropFlags_moved r i (N := onlyNode r i)).off
  have flags := u.dropFlags_flag r i
  generalize u.dropFlags r i = v at cells flags ⊢
  have regs := v.setNode_regs r i { v.node r i with suspCell := none }
  have kept := cells.get (f := Fd.CHN_NODE_STAT_suspect_tap r (i + 1)) (not_cellReg_nodeStat r i)
  exact ⟨(State.get_congr regs _).trans (kept.trans tap), congrArg ChnNode.suspCell (v.node_setNode_same r i _),
    fun j => (State.flag_congr regs _).trans (flags j)⟩

/-- What the end of the suspicions leaves of a node's status: all but the suspected tap. -/
theorem State.dropSuspects_stat {f : Fld} (hf : f.addr = Reg.CHN_NODE_STAT r (i.val + 1)) (apart : 19 ≤ f.lo) :
    (s.dropSuspects r i).get f = s.get f := by
  have put := s.get_put_apart (Fd.CHN_NODE_STAT_suspect_tap r (i + 1)) f 31 (by decide : 14 + 5 ≤ 32) (.inr (.inr apart))
  rw [State.dropSuspects_eq, ← put]
  refine (State.get_congr (State.setNode_regs _ r i _) f).trans ?_
  exact (State.dropFlags_moved _ r i (N := onlyNode r i)).off.get (f := f) (hf ▸ not_cellReg_nodeStat r i)

/-! ## The judgement -/

/-- A node about to be judged: its suspicions have ended, and a tap that was broken and is intact is broken no longer. -/
def State.atJudgement (p : List Nat) : State :=
  let u := s.dropSuspects r i
  let old := u.get (Fd.CHN_NODE_STAT_broken_tap r (i + 1))
  if old ≤ 16 && !s.openTap r i p old && !s.tapBiased r i old then u.put (Fd.CHN_NODE_STAT_broken_tap r (i + 1)) 31 else u

theorem State.atJudgement_moved (p : List Nat) : (s.atJudgement r i p).ChainMoved (nodeOps r i) (onlyNode r i) s :=
  .ite (fun _ => (s.dropSuspects_moved r i).put (f := Fd.CHN_NODE_STAT_broken_tap r (i + 1)) (.inl (nodeReg_nodeStat r i)) 31)
    fun _ => s.dropSuspects_moved r i

theorem State.atJudgement_unsuspected (p : List Nat) : (s.atJudgement r i p).Unsuspected r i := by
  have dropped := s.dropSuspects_unsuspected r i
  unfold State.atJudgement
  extract_lets u old
  split
  next =>
    exact dropped.of_kept (.put (.rfl' u) (by decide : 19 + 5 ≤ 32)
      (fun g hg => hg.apart (f := Fd.CHN_NODE_STAT_broken_tap r (i + 1)) rfl (by decide : 19 ≤ 19)) 31)
      (congrArg ChnNode.suspCell (State.node_congr (u.put_chn _ _) r i))
  next => exact dropped

theorem State.atJudgement_nodeState (p : List Nat) : (s.atJudgement r i p).nodeState r i = s.nodeState r i := by
  have dropped : (s.dropSuspects r i).nodeState r i = s.nodeState r i :=
    s.dropSuspects_stat r i (f := Fd.CHN_NODE_STAT_state r (i + 1)) rfl (by decide : 19 ≤ 28)
  unfold State.atJudgement
  extract_lets u old
  split
  · exact (u.get_put_apart (Fd.CHN_NODE_STAT_broken_tap r (i + 1)) (Fd.CHN_NODE_STAT_state r (i + 1)) 31 (by decide : 19 + 5 ≤ 32)
      (.inr (.inr (by decide : 19 + 5 ≤ 28)))).trans dropped
  · exact dropped

variable {s r i} {p : List Nat}

/-- A suspected tap that is intact fences the node (R264). -/
theorem State.judgeNode_intact (tap : s.get (Fd.CHN_NODE_STAT_suspect_tap r (i + 1)) ≤ 16)
    (closed : tapOpen p (s.get (Fd.CHN_NODE_STAT_suspect_tap r (i + 1))) = false)
    (plain : s.tapBiased r i (s.get (Fd.CHN_NODE_STAT_suspect_tap r (i + 1))) = false) :
    s.judgeNode r i p = (s.atJudgement r i p).fenceNode r i 2 0x16 :=
  if_pos (by simp [tap, State.openTap, closed, plain])

/-- A suspected tap that is open is broken (R264). -/
theorem State.judgeNode_suspected (tap : s.get (Fd.CHN_NODE_STAT_suspect_tap r (i + 1)) ≤ 16)
    (isOpen : s.openTap r i p (s.get (Fd.CHN_NODE_STAT_suspect_tap r (i + 1))) = true) :
    s.judgeNode r i p = (s.atJudgement r i p).breakTap r i (s.get (Fd.CHN_NODE_STAT_suspect_tap r (i + 1))) :=
  (if_neg (by simp [isOpen])).trans (if_pos (by simp [tap, isOpen]))

/-- So is the lowest open tap, where nothing was suspected and none was broken (R265). -/
theorem State.judgeNode_found {n : Nat} (tap : 16 < s.get (Fd.CHN_NODE_STAT_suspect_tap r (i + 1))) (cell : (s.node r i).suspCell = none)
    (whole : 16 < s.get (Fd.CHN_NODE_STAT_broken_tap r (i + 1))) (first : ((List.range 17).filter (s.openTap r i p)).head? = some n) :
    s.judgeNode r i p = (s.atJudgement r i p).breakTap r i n := by
  have old : (s.dropSuspects r i).get (Fd.CHN_NODE_STAT_broken_tap r (i + 1)) = s.get (Fd.CHN_NODE_STAT_broken_tap r (i + 1)) :=
    s.dropSuspects_stat r i (f := Fd.CHN_NODE_STAT_broken_tap r (i + 1)) rfl (by decide : 19 ≤ 19)
  refine (if_neg (by simp [tap])).trans ((if_neg (by simp [tap])).trans ?_)
  rw [cell, first]
  exact if_neg (by simp [old, whole])

/-- However a node is judged, it ends in one of these. -/
theorem State.judgeNode_cases (s : State) (r : Fin 3) (i : Fin 14) (p : List Nat) :
    s.judgeNode r i p = (s.atJudgement r i p).fenceNode r i 2 0x16 ∨ s.judgeNode r i p = s.atJudgement r i p ∨
    (∃ tap, s.judgeNode r i p = (s.atJudgement r i p).breakTap r i tap) ∨ (∃ j, s.judgeNode r i p = (s.atJudgement r i p).cellFault r i j) ∨
    ∃ j tap, s.judgeNode r i p = ((s.atJudgement r i p).cellFault r i j).breakTap r i tap := by
  unfold State.judgeNode
  extract_lets isOpen biased opens susp cell u old v
  split
  · exact .inl rfl
  · split
    · exact .inr (.inr (.inl ⟨susp, rfl⟩))
    · split
      next j _ =>
        split
        · exact .inr (.inr (.inl ⟨j - 1, rfl⟩))
        · split
          · exact .inr (.inr (.inl ⟨j, rfl⟩))
          · split
            next tap _ => exact .inr (.inr (.inr (.inr ⟨j, tap, rfl⟩)))
            next => exact .inr (.inr (.inr (.inl ⟨j, rfl⟩)))
      next tap _ _ =>
        split
        · exact .inr (.inl rfl)
        · exact .inr (.inr (.inl ⟨tap, rfl⟩))
      next => exact .inr (.inl rfl)

theorem State.judgeNode_moved (s : State) (r : Fin 3) (i : Fin 14) (p : List Nat) : (s.judgeNode r i p).ChainMoved (nodeOps r i) (onlyNode r i) s := by
  have ready := s.atJudgement_moved r i p
  rcases s.judgeNode_cases r i p with h | h | ⟨tap, h⟩ | ⟨j, h⟩ | ⟨j, tap, h⟩ <;> rw [h]
  · exact (State.fenceNode_moved _ r i 2 0x16 (by decide)).trans ready
  · exact ready
  · exact (State.breakTap_moved _ r i tap).trans ready
  · exact (State.cellFault_moved _ r i j).trans ready
  · exact ((State.breakTap_moved _ r i tap).trans (State.cellFault_moved _ r i j)).trans ready

theorem State.judgeNode_unsuspected (s : State) (r : Fin 3) (i : Fin 14) (p : List Nat) : (s.judgeNode r i p).Unsuspected r i := by
  have ready := s.atJudgement_unsuspected r i p
  rcases s.judgeNode_cases r i p with h | h | ⟨tap, h⟩ | ⟨j, h⟩ | ⟨j, tap, h⟩ <;> rw [h]
  · exact ready.fenceNode 2 0x16 (by decide)
  · exact ready
  · exact ready.breakTap tap
  · exact ready.cellFault j
  · exact (ready.cellFault j).breakTap tap

/-! ## Node by node, and ring by ring -/

theorem State.owtNode_judged (serves : s.nodeState r i ≠ 3) (read : (s.node r i).ow = some p) : s.owtNode r i = s.judgeNode r i p := by
  unfold State.owtNode
  rw [read]
  exact if_neg serves

theorem State.owtNode_unread (read : (s.node r i).ow = none) : s.owtNode r i = s := by
  unfold State.owtNode
  rw [read]

theorem State.owtNode_moved (s : State) (r : Fin 3) (i : Fin 14) : (s.owtNode r i).ChainMoved (nodeOps r i) (onlyNode r i) s := by
  unfold State.owtNode
  split
  · exact .ite (fun _ => .rfl' s) fun _ => s.judgeNode_moved r i _
  · exact .rfl' s

theorem State.owtRing_moved (s : State) (r : Fin 3) : (s.owtRing r).ChainMoved (ringOps r) (onlyRing r) s :=
  .ite (fun _ => .rfl' s) fun _ => .eachNode (fun i u => (u.owtNode_moved r i).ofNode) (.rfl' s)

/-- In a string under test, each node has its turn; in another nothing happens. -/
theorem State.owtRing_turn (s : State) (r : Fin 3) (i : Fin 14) : ∃ u : State, u.SameNode r i s ∧
    (s.served r = true → s.flag (Fd.CHN_STR_STAT_owt_active r) = true → (s.owtRing r).SameNode r i (u.owtNode r i)) ∧
    ((s.node r i).ow = none → (s.owtRing r).SameNode r i s) := by
  obtain ⟨u, before, after⟩ := State.eachNode_turn (fun k u => u.owtNode_moved r k) s i
  have tested (served : s.served r = true) (active : s.flag (Fd.CHN_STR_STAT_owt_active r) = true) : s.owtRing r = s.eachNode fun i s => s.owtNode r i :=
    if_neg (by simp [served, active])
  refine ⟨u, before, fun served active => tested served active ▸ after, fun unread => ?_⟩
  by_cases test : s.served r = true ∧ s.flag (Fd.CHN_STR_STAT_owt_active r) = true
  · rw [tested test.1 test.2]
    rw [State.owtNode_unread ((congrArg ChnNode.ow before.node).trans unread)] at after
    exact after.trans before
  · rw [show s.owtRing r = s from if_pos (by rwa [← Bool.not_and, Bool.not_eq_true', Bool.eq_false_iff, ne_eq, Bool.and_eq_true])]
    exact .rfl' s

/-- Whether a tap is kept out of the checks goes by the node's own cells (R261). -/
theorem State.SameNode.tapBiased {t : State} (h : t.SameNode r i s) {tap : Nat} (small : tap ≤ 16) : t.tapBiased r i tap = s.tapBiased r i tap := by
  have cell (j : Nat) (hj : 1 ≤ j ∧ j ≤ 16) : t.biased r (cellNo i j) = s.biased r (cellNo i j) :=
    h.flag (f := Fd.CHN_CELL_biased r (cellNo i j)) (.inr (cellReg_cell r i hj))
  unfold State.tapBiased
  by_cases low : 1 ≤ tap
  · rw [cell tap ⟨low, small⟩]
    by_cases high : tap ≤ 15
    · rw [cell (tap + 1) (by omega)]
    · simp [high]
  · rw [cell (tap + 1) (by omega)]
    simp [low]

theorem State.SameNode.openTap {t : State} (h : t.SameNode r i s) {tap : Nat} (small : tap ≤ 16) : t.openTap r i p tap = s.openTap r i p tap := by
  unfold State.openTap
  rw [h.tapBiased small]

theorem State.SameNode.openTaps {t : State} (h : t.SameNode r i s) : (List.range 17).filter (t.openTap r i p) = (List.range 17).filter (s.openTap r i p) :=
  List.filter_congr fun _ htap => h.openTap (Nat.le_of_lt_succ (List.mem_range.1 htap))

/-- The result of a node's judgement, of a test whose reading is `p` (R263 to R265). -/
theorem State.judgeNode_result (s : State) (r : Fin 3) (i : Fin 14) (p : List Nat) (serves : s.nodeState r i ≠ 3) :
    (s.get (Fd.CHN_NODE_STAT_suspect_tap r (i + 1)) ≤ 16 →
      (s.openTap r i p (s.get (Fd.CHN_NODE_STAT_suspect_tap r (i + 1))) = true →
        (s.judgeNode r i p).get (Fd.CHN_NODE_STAT_broken_tap r (i + 1)) = s.get (Fd.CHN_NODE_STAT_suspect_tap r (i + 1))) ∧
      (tapOpen p (s.get (Fd.CHN_NODE_STAT_suspect_tap r (i + 1))) = false →
        s.tapBiased r i (s.get (Fd.CHN_NODE_STAT_suspect_tap r (i + 1))) = false →
        (s.judgeNode r i p).nodeState r i = 3 ∧ (s.judgeNode r i p).get (Fd.CHN_NODE_STAT_fence_cause r (i + 1)) = 2)) ∧
    (∀ n : Nat, 16 < s.get (Fd.CHN_NODE_STAT_suspect_tap r (i + 1)) → (s.node r i).suspCell = none →
      16 < s.get (Fd.CHN_NODE_STAT_broken_tap r (i + 1)) → ((List.range 17).filter (s.openTap r i p)).head? = some n →
      (s.judgeNode r i p).get (Fd.CHN_NODE_STAT_broken_tap r (i + 1)) = n) := by
  refine ⟨fun tap => ⟨fun isOpen => ?_, fun closed plain => ?_⟩, fun n tap cell whole first => ?_⟩
  · rw [State.judgeNode_suspected tap isOpen]
    exact State.breakTap_broken _ r i tap
  · rw [State.judgeNode_intact tap closed plain]
    obtain ⟨state, cause, -⟩ := (s.atJudgement r i p).fenceNode_fences r i 2 0x16 (by decide) (s.atJudgement_nodeState r i p ▸ serves) (by decide)
    exact ⟨state, cause⟩
  · have inRange := List.mem_of_mem_filter (List.mem_of_mem_head? first)
    rw [State.judgeNode_found tap cell whole first]
    exact State.breakTap_broken _ r i (Nat.le_of_lt_succ (List.mem_range.1 inRange))

/-- The same of the state after the whole test, `t`, where the node stood at its turn, in `u`, as before the test. -/
theorem State.SameNode.judged {t u : State} (own : u.SameNode r i s) (after : t.SameNode r i (u.judgeNode r i p))
    (serves : s.nodeState r i ≠ 3) : t.Unsuspected r i ∧
    (s.get (Fd.CHN_NODE_STAT_suspect_tap r (i + 1)) ≤ 16 →
      (s.openTap r i p (s.get (Fd.CHN_NODE_STAT_suspect_tap r (i + 1))) = true →
        t.get (Fd.CHN_NODE_STAT_broken_tap r (i + 1)) = s.get (Fd.CHN_NODE_STAT_suspect_tap r (i + 1))) ∧
      (tapOpen p (s.get (Fd.CHN_NODE_STAT_suspect_tap r (i + 1))) = false →
        s.tapBiased r i (s.get (Fd.CHN_NODE_STAT_suspect_tap r (i + 1))) = false →
        t.nodeState r i = 3 ∧ t.get (Fd.CHN_NODE_STAT_fence_cause r (i + 1)) = 2)) ∧
    (∀ n : Nat, 16 < s.get (Fd.CHN_NODE_STAT_suspect_tap r (i + 1)) → (s.node r i).suspCell = none →
      16 < s.get (Fd.CHN_NODE_STAT_broken_tap r (i + 1)) → ((List.range 17).filter (s.openTap r i p)).head? = some n →
      t.get (Fd.CHN_NODE_STAT_broken_tap r (i + 1)) = n) := by
  have stat : nodeReg r i (Reg.CHN_NODE_STAT r (i.val + 1)) := nodeReg_nodeStat r i
  obtain ⟨tap, cell, flags⟩ := u.judgeNode_unsuspected r i p
  obtain ⟨suspected, found⟩ := u.judgeNode_result r i p (own.nodeState ▸ serves)
  rw [own.get (f := Fd.CHN_NODE_STAT_suspect_tap r (i + 1)) stat] at suspected found
  rw [own.get (f := Fd.CHN_NODE_STAT_broken_tap r (i + 1)) stat, own.node, own.openTaps] at found
  have broken := after.get (f := Fd.CHN_NODE_STAT_broken_tap r (i + 1)) stat
  refine ⟨⟨?_, (congrArg ChnNode.suspCell after.node).trans cell, fun j => ?_⟩, fun small => ⟨fun isOpen => ?_, fun closed plain => ?_⟩,
    fun n none whole first susp => ?_⟩
  · exact (after.get (f := Fd.CHN_NODE_STAT_suspect_tap r (i + 1)) stat).trans tap
  · exact (after.flag (f := Fd.CHN_CELL_suspect r (cellNo i (j + 1))) (.inr (cellReg_cell r i (by omega)))).trans (flags j)
  · exact broken.trans ((suspected small).1 ((own.openTap small).trans isOpen))
  · obtain ⟨state, cause⟩ := (suspected small).2 closed ((own.tapBiased small).trans plain)
    exact ⟨after.nodeState.trans state, (after.get (f := Fd.CHN_NODE_STAT_fence_cause r (i + 1)) stat).trans cause⟩
  · exact broken.trans (found n none whole first susp)

end

theorem execOwtCommit_off {s : State} (frame : s.sweepFrame ≠ 3072) : exec .owtCommit s = .next s :=
  congrArg Host.Outcome.next (if_pos (by simp [frame]))

theorem execOwtCommit_on {s : State} (frame : s.sweepFrame = 3072) : exec .owtCommit s = .next ((List.finRange 3).foldl State.owtRing s) :=
  congrArg Host.Outcome.next (if_neg (by simp [frame]))

/-- Settles O34: each node has one turn, which nothing of the other nodes reaches. -/
theorem openWireTestIsJudged : Obligations.OpenWireTestIsJudged := by
  intro s
  refine ⟨execOwtCommit_off, fun frame => ⟨_, execOwtCommit_on frame, ?_, fun r i p served active serves read => ?_, fun r i unread => ?_⟩⟩
  · exact .foldl (fun r u hu => (u.owtRing_moved r).parts.trans hu) (.rfl' s)
  · obtain ⟨u, before, after⟩ := State.eachRing_turn State.owtRing_moved s r
    obtain ⟨v, same, turn, -⟩ := u.owtRing_turn r i
    have own : v.SameNode r i s := same.trans (before.nodes i)
    have judged := (after.nodes i).trans (turn (before.served.trans served)
      ((before.flag (f := Fd.CHN_STR_STAT_owt_active r) (strReg_strStat r)).trans active))
    rw [State.owtNode_judged (own.nodeState ▸ serves) ((congrArg ChnNode.ow own.node).trans read)] at judged
    obtain ⟨⟨tap, cell, flags⟩, suspected, found⟩ := own.judged judged serves
    exact ⟨tap, cell, flags, suspected, found⟩
  · obtain ⟨u, before, after⟩ := State.eachRing_turn State.owtRing_moved s r
    obtain ⟨v, -, -, still⟩ := u.owtRing_turn r i
    have kept := (still ((congrArg ChnNode.ow (before.nodes i).node).trans unread)).trans (before.nodes i)
    exact ((after.nodes i).trans kept).regs _ (nodeReg_nodeStat r i)

end Sys2Proof.Machine
end

section
/-! Chapters 09 and 15: the wake from DEEP SLEEP with a register file out of its canonical form (R427, R428). -/

namespace Sys2Proof.Machine

/-- A module in DEEP SLEEP that a chain tone wakes, whose register file lists the Keeper's fault count twice, as in `State.faultsListedTwice`: as 0, and
behind that as 1. -/
def State.asleepFaultsListedTwice : State :=
  { State.faultsListedTwice.put Fd.CLK_PSTATE_state 2 with pwr := { PwrRt.reset with wakeDue := true } }

/-- Like that state it is not one of the states in form, which O3 is about. -/
theorem State.asleepFaultsListedTwice_not_good : ¬ State.asleepFaultsListedTwice.good := fun h => absurd h.1 (by unfold State.regsOk; decide)

/-- The first entry shows. -/
theorem State.asleepFaultsListedTwice_count : State.asleepFaultsListedTwice.get (Fd.FLT_STAT_count 14) = 0 := by decide

/-- The resets of the restart uncover the second entry, and the fault of the gap is recorded after them (R40). -/
theorem deepSleepWake_asleepFaultsListedTwice :
    ∃ t, exec (.deepSleepWake 1 0 0) State.asleepFaultsListedTwice = .next t ∧ t.get (Fd.FLT_STAT_count 14) = 2 :=
  ⟨_, rfl, by decide +kernel⟩

/-- Refutes O55: it speaks of every state, and where the register file is not in its canonical form its last clause fails, on the Keeper's fault count. In
`State.asleepFaultsListedTwice` the restart of R428 records one fault and moves the count from 0 to 2. -/
theorem not_wakesAreLimitedAndRestart : ¬ Obligations.WakesAreLimitedAndRestart := by
  unfold Obligations.WakesAreLimitedAndRestart
  intro h
  obtain ⟨-, -, wakes⟩ := h State.asleepFaultsListedTwice
  obtain ⟨t, ht, -, -, -, -, counted, -⟩ := (wakes 1 0 0).2 (by decide) rfl rfl rfl
  obtain ⟨u, hu, two⟩ := deepSleepWake_asleepFaultsListedTwice
  obtain rfl : t = u := Host.Outcome.next.inj (ht.symm.trans hu)
  unfold State.faultCounted at counted
  rw [two, State.asleepFaultsListedTwice_count] at counted
  exact absurd counted (by decide)

end Sys2Proof.Machine
end

section
/-! SUPPORT for chapter 10: the strings of the estimator, and what an operation on one string may change. -/

namespace Sys2Proof.Machine

/-! ## Strings -/

section
variable (s : State) (r : Fin 3)

@[simp] theorem State.estStr_setEst_same (x : EstStr) : (s.setEst r x).estStr r = x := vget_vset_same _ _ _

theorem State.estStr_setEst_other (x : EstStr) {q : Fin 3} (h : q ≠ r) : (s.setEst r x).estStr q = s.estStr q := vget_vset_other _ _ h

theorem State.estStr_congr {s t : State} (h : t.est = s.est) (q : Fin 3) : t.estStr q = s.estStr q := by
  unfold State.estStr
  rw [h]

theorem State.within_est (x : EstRt) : ({ s with est := x } : State).within s [.est] := by
  intro p hp
  cases p
  case est => exact (hp (by decide)).elim
  all_goals rfl

theorem State.setEst_within (x : EstStr) : (s.setEst r x).within s [.est] := s.within_est _

theorem State.setZ_within (c : Nat) (z : Frac) : (s.setZ r c z).within s [.est] := s.within_est _

theorem State.report_within (v : Frac) : (s.report r v).within s [.prf, .est] :=
  State.within.trans (s := s.setEst r { s.estStr r with sRep := v }) ((State.within_prf _ _).mono (by decide)) ((s.setEst_within r _).mono (by decide))

@[simp] theorem State.estStr_put (f : Fld) (v : Nat) (q : Fin 3) : (s.put f v).estStr q = s.estStr q := rfl

@[simp] theorem State.estStr_setFlag (f : Fld) (b : Bool) (q : Fin 3) : (s.setFlag f b).estStr q = s.estStr q := rfl

@[simp] theorem State.estStr_bumpSat (f : Fld) (q : Fin 3) : (s.bumpSat f).estStr q = s.estStr q := s.estStr_put f _ q

@[simp] theorem State.estStr_record (b : Fin 18) (code cls unit : Nat) (q : Fin 3) : (s.record b code cls unit).estStr q = s.estStr q :=
  State.estStr_congr (s.record_est b code cls unit) q

/-- The re-anchored count is the string value, without divergence (R289). -/
@[simp] theorem State.estStr_reanchor : (s.reanchor r).estStr r =
    { s.estStr r with sCc := (s.estStr r).sStr, d := Frac.zero, divOpen := none, conflictNow := false } := s.estStr_setEst_same r _

@[simp] theorem State.estStr_report (v : Frac) : (s.report r v).estStr r = { s.estStr r with sRep := v } := s.estStr_setEst_same r _

@[simp] theorem State.socIn_report (v : Frac) : vget (s.report r v).prf.socIn r = some v := vget_vset_same _ _ _

end

/-! ## The registers of a string -/

/-- The state window of a string (Table 10-1). -/
abbrev estReg (r : Fin 3) (a : Nat) : Prop := 0x400B0100 + 0x40 * r.val ≤ a ∧ a < 0x400B0140 + 0x40 * r.val

/-- The registers that the rules of a string write: its window, and the bits that its band clears at a full charge or discharge (R287, R288). -/
abbrev estShown (r : Fin 3) (a : Nat) : Prop := estReg r a ∨ a = Reg.PRF_STR_BAND r

/-- What an operation on a string may change: those, and by a Note the window of EST. -/
def estOps (r : Fin 3) (a : Nat) : Prop := estShown r a ∨ inWindow 11 a

/-- What the operations on the other strings may change. -/
def otherStr (r : Fin 3) (a : Nat) : Prop := ∃ q, q ≠ r ∧ estOps q a

/-- An address that belongs to no string, and stands outside the window of EST. -/
abbrev aboutNoStr (a : Nat) : Prop :=
  (a < 0x40020040 ∨ 0x4002004C ≤ a) ∧ (a < 0x400B0100 ∨ 0x400B01C0 ≤ a) ∧ (a < 0x400B7F00 ∨ 0x400B8000 ≤ a)

section
variable {r : Fin 3} {a : Nat}

theorem aboutNoStr.not_estOps (h : aboutNoStr a) : ¬estOps r a := by
  have hr := r.isLt
  unfold estOps estShown inWindow Reg.PRF_STR_BAND
  omega

theorem aboutNoStr.not_otherStr (h : aboutNoStr a) : ¬otherStr r a := fun ⟨_, _, ops⟩ => h.not_estOps ops

theorem estShown.not_otherStr (h : estShown r a) : ¬otherStr r a := by
  rintro ⟨q, other, ops⟩
  have hr := r.isLt
  have hq := q.isLt
  have apart : q.val ≠ r.val := fun e => other (Fin.ext e)
  unfold estShown Reg.PRF_STR_BAND at h
  unfold estOps estShown inWindow Reg.PRF_STR_BAND at ops
  omega

theorem estShown.not_inWindow (h : estShown r a) : ¬inWindow 11 a := by
  have hr := r.isLt
  unfold estShown Reg.PRF_STR_BAND at h
  unfold inWindow
  omega

/-- The registers of a string's cells are the chain's. -/
theorem aboutNoStr_cell {c : Nat} (h : c < 224) : aboutNoStr (Reg.CHN_CELL r c) := by
  have hr := r.isLt
  unfold Reg.CHN_CELL
  omega

end

/-- A field of a string that shares no bit with those listed: a check that evaluates. -/
def Fld.ofStr (f : Fld) (r : Fin 3) (l : List Fld) : Bool := decide (estShown r f.addr) && f.clearOf l

theorem Fld.ofStr_iff {f : Fld} {r : Fin 3} {l : List Fld} : f.ofStr r l = true ↔ estShown r f.addr ∧ f.clearOf l = true := by
  simp [Fld.ofStr]

/-! ## An operation on one string -/

/-- `t` is `s` after an operation on string `r`, which leaves the value of `p` and the fields of `l`. -/
structure State.StrMoved {β : Type} (r : Fin 3) (p : State → β) (l : List Fld) (t s : State) : Prop where
  off : t.regsOff (estOps r) s
  others : ∀ q, q ≠ r → t.estStr q = s.estStr q
  zRange : ∀ q, q ≠ r → t.zRange q = s.zRange q
  socIn : ∀ q, q ≠ r → vget t.prf.socIn q = vget s.prf.socIn q
  record : t.est.record = s.est.record
  parts : t.within s [.regs, .hmp, .prf, .est]
  own : p t = p s
  kept : t.keeps s l

/-- An operation of which no value is followed. -/
def anyValue (_ : State) : Unit := ()

theorem anyValue_eq (t s : State) : anyValue t = anyValue s := rfl

/-- The values of a string that the rules after its reported value leave alone. -/
def EstStr.shown (x : EstStr) : Nat × Frac × Frac := (x.missedCommits, x.sStr, x.sRep)

/-- Those values in a state, with what the profile generator is told. -/
def State.strValues (r : Fin 3) (s : State) : (Nat × Frac × Frac) × Option Frac := ((s.estStr r).shown, vget s.prf.socIn r)

/-- The fields that the same rules leave alone. -/
def strFlags (r : Fin 3) : List Fld := [Fd.EST_STR_FLAG_discharging r, Fd.EST_STR_FLAG_cutoff r, Fd.PRF_STR_BAND_full_discharge r]

theorem State.zRange_congr {s t : State} (h : t.est.zs = s.est.zs) (q : Fin 3) : t.zRange q = s.zRange q := by
  unfold State.zRange
  rw [h]

section
variable {β γ : Type} {r : Fin 3} {p : State → β} {l l' : List Fld} {s t u : State}

theorem State.StrMoved.rfl' (s : State) : s.StrMoved r p l s :=
  ⟨.rfl' s, fun _ _ => rfl, fun _ _ => rfl, fun _ _ => rfl, rfl, .rfl' s, rfl, .rfl' s⟩

theorem State.StrMoved.trans (h : t.StrMoved r p l u) (h' : u.StrMoved r p l s) : t.StrMoved r p l s :=
  ⟨h.off.trans h'.off, fun q hq => (h.others q hq).trans (h'.others q hq), fun q hq => (h.zRange q hq).trans (h'.zRange q hq),
    fun q hq => (h.socIn q hq).trans (h'.socIn q hq), h.record.trans h'.record, h.parts.trans h'.parts, h.own.trans h'.own, h.kept.trans h'.kept⟩

/-- An operation that leaves a value leaves what goes by it. -/
theorem State.StrMoved.weaken (h : t.StrMoved r p l s) (f : β → γ) (hl : l' ⊆ l) : t.StrMoved r (f ∘ p) l' s :=
  { h with own := congrArg f h.own, kept := h.kept.mono hl }

theorem State.StrMoved.any (h : t.StrMoved r p l s) : t.StrMoved r anyValue [] s := h.weaken (fun _ => ()) (List.nil_subset _)

/-- An operation on registers of the string, with a Note's mark in Hamper. -/
theorem State.StrMoved.of_regs (h : t.StrMoved r p l s) (off : u.regsOff (estOps r) t) (parts : u.within t [.regs, .hmp]) (own : p u = p t)
    (kept : u.keeps t l) : u.StrMoved r p l s :=
  have est : u.est = t.est := parts .est (by decide)
  have prf : u.prf = t.prf := parts .prf (by decide)
  State.StrMoved.trans ⟨off, fun q _ => State.estStr_congr est q, fun q _ => State.zRange_congr (congrArg EstRt.zs est) q,
    fun q _ => congrArg (vget ·.socIn q) prf, congrArg EstRt.record est, parts.mono (by decide), own, kept⟩ h

theorem State.StrMoved.put (h : t.StrMoved r p l s) {f : Fld} (hf : f.ofStr r l = true) (v : Nat) (own : p (t.put f v) = p t) :
    (t.put f v).StrMoved r p l s :=
  have ⟨shown, clear⟩ := Fld.ofStr_iff.1 hf
  h.of_regs (.put (.rfl' t) (.inl shown) v) (.put (.rfl' t) (by decide) f v) own (.put (.rfl' t) clear v)

theorem State.StrMoved.setFlag (h : t.StrMoved r p l s) {f : Fld} (hf : f.ofStr r l = true) (b : Bool) (own : p (t.setFlag f b) = p t) :
    (t.setFlag f b).StrMoved r p l s := h.put hf _ own

theorem State.StrMoved.setEst (h : t.StrMoved r p l s) (x : EstStr) (own : p (t.setEst r x) = p t) : (t.setEst r x).StrMoved r p l s :=
  State.StrMoved.trans ⟨.of_regs (.rfl' t) rfl, fun _ hq => t.estStr_setEst_other r x hq, fun q _ => State.zRange_congr rfl q, fun _ _ => rfl, rfl,
    (t.setEst_within r x).mono (by decide), own, .of_regs (.rfl' t) rfl⟩ h

theorem State.StrMoved.report (h : t.StrMoved r p l s) (v : Frac) (own : p (t.report r v) = p t) : (t.report r v).StrMoved r p l s :=
  State.StrMoved.trans ⟨.of_regs (.rfl' t) rfl, fun _ hq => t.estStr_setEst_other r _ hq, fun q _ => State.zRange_congr rfl q,
    fun _ hq => vget_vset_other _ _ hq, rfl,
    (t.report_within r v).mono (by decide), own, .of_regs (.rfl' t) rfl⟩ h

theorem State.StrMoved.ite {c : Prop} {_ : Decidable c} (ht : c → t.StrMoved r p l s) (hu : ¬c → u.StrMoved r p l s) :
    (if c then t else u).StrMoved r p l s := by
  split
  · exact ht ‹_›
  · exact hu ‹_›

end

/-! ## The cells of a string -/

/-- The cells of the other strings stand elsewhere in the record. -/
theorem State.zRange_setZ {s : State} {r q : Fin 3} (h : q ≠ r) {c : Nat} (range : c < 224) (z : Frac) : (s.setZ r c z).zRange q = s.zRange q := by
  have apart : q.val ≠ r.val := fun e => h (Fin.ext e)
  have others : ((s.est.zs.set (224 * r + c) z).drop (224 * q)).take 224 = (s.est.zs.drop (224 * q)).take 224 := by
    rw [List.drop_set]
    split
    · rfl
    · rw [List.take_set, List.set_eq_of_length_le]
      rw [List.length_take]
      omega
  show (match ((s.est.zs.set (224 * r + c) z).drop (224 * q)).take 224 with
    | [] => (Frac.zero, Frac.zero)
    | z :: l => (l.foldl Frac.min z, l.foldl Frac.max z)) = s.zRange q
  rw [others]
  rfl

theorem State.StrMoved.setZ {β : Type} {r : Fin 3} {p : State → β} {l : List Fld} {s t : State} (h : t.StrMoved r p l s) {c : Nat} (range : c < 224)
    (z : Frac) (own : p (t.setZ r c z) = p t) : (t.setZ r c z).StrMoved r p l s :=
  State.StrMoved.trans ⟨.of_regs (.rfl' t) rfl, fun _ hq => vget_vset_other _ _ hq, fun _ hq => State.zRange_setZ hq range z, fun _ _ => rfl, rfl,
    (t.setZ_within r c z).mono (by decide), own, .of_regs (.rfl' t) rfl⟩ h

end Sys2Proof.Machine
end

section
/-! SUPPORT for chapter 10: the rules that leave a string's reported value (R286, R287, R289 to R294). -/

namespace Sys2Proof.Machine

/-! ## Registers that show a string -/

/-- The fields that the rules of a commit write beside those of `strFlags`. -/
def ruleFields (r : Fin 3) : List Fld :=
  [Fd.EST_STR_FLAG_track_full r, Fd.EST_STR_FLAG_suspect r, Fd.EST_STR_FLAG_cv r, Fd.EST_STR_FLAG_at_rest r, Fd.EST_STR_CAP_cap r,
   Fd.EST_STR_CAP_source r, Fd.EST_STR_TAPER_taper_count r, Fd.EST_STR_REST_rest_count r]

theorem ruleFields_ofStr (r : Fin 3) : ∀ f ∈ ruleFields r, f.ofStr r (strFlags r) = true := by decide +revert

/-- `t` is `s` after a rule that leaves the string and reported values of `r`, and what shows how they stand. -/
abbrev State.StrSteady (r : Fin 3) (t s : State) : Prop := t.StrMoved r (State.strValues r) (strFlags r) s

section
variable {r : Fin 3} {s t u : State}

/-- An operation on the string's registers leaves its values. -/
theorem State.StrMoved.putRule {f : Fld} {v : Nat} (h : t.StrSteady r s) (hf : f ∈ ruleFields r) :
    (t.put f v).StrSteady r s := State.StrMoved.put h (ruleFields_ofStr r f hf) v rfl

theorem State.StrMoved.flagRule {f : Fld} {b : Bool} (h : t.StrSteady r s) (hf : f ∈ ruleFields r) :
    (t.setFlag f b).StrSteady r s := h.putRule hf

/-- So does a change of what else is held of the string. -/
theorem State.StrMoved.setRule {x : EstStr} (h : t.StrSteady r s) (hx : x.shown = (t.estStr r).shown) :
    (t.setEst r x).StrSteady r s :=
  State.StrMoved.setEst h x (Prod.ext ((congrArg EstStr.shown (t.estStr_setEst_same r x)).trans hx) rfl)

theorem State.reanchor_steady (s : State) (r : Fin 3) : (s.reanchor r).StrSteady r s := .setRule (.rfl' s) rfl

/-- The string and reported values are shown (R284, R285). -/
def State.socShown (s : State) (r : Fin 3) : State :=
  (s.put (Fd.EST_STR_SOC_soc_str r) (centi (s.estStr r).sStr)).put (Fd.EST_STR_SOC_soc_rep r) (centi (s.estStr r).sRep)

/-- The registers that show what else a string holds. -/
def heldRegs (r : Fin 3) : List Nat := [Reg.EST_STR_CC r, Reg.EST_STR_ICV r, Reg.EST_STR_TRACK r]

/-- The registers in which a string is shown. -/
def valueRegs (r : Fin 3) : List Nat := Reg.EST_STR_SOC r :: heldRegs r

theorem State.estRegs_socShown (s : State) (r : Fin 3) : (s.estRegs r).regsOff (· ∈ heldRegs r) (s.socShown r) := by
  have cc : Reg.EST_STR_CC r ∈ heldRegs r := .head _
  have icv : Reg.EST_STR_ICV r ∈ heldRegs r := .tail _ (.head _)
  have track : Reg.EST_STR_TRACK r ∈ heldRegs r := .tail _ (.tail _ (.head _))
  unfold State.estRegs
  exact .put (.put (.putBF (.put (.put (.rfl' (s.socShown r)) cc _) cc _) icv _) track _) track _

theorem State.estRegs_regsOff (s : State) (r : Fin 3) : (s.estRegs r).regsOff (· ∈ valueRegs r) s := by
  have shown : (s.socShown r).regsOff (· ∈ valueRegs r) s := .put (.put (.rfl' s) (.head _) _) (.head _) _
  exact ((s.estRegs_socShown r).mono fun _ => List.mem_cons_of_mem _).trans shown

theorem State.estRegs_within (s : State) (r : Fin 3) : (s.estRegs r).within s [.regs] := by
  have shown : (s.socShown r).within s [.regs] := .put (.put (.rfl' s) (by decide) _ _) (by decide) _ _
  unfold State.estRegs
  exact .put (.put (.putBF (.put (.put shown (by decide) _ _) (by decide) _ _) (by decide) _ _) (by decide) _ _) (by decide) _ _

@[simp] theorem State.estRegs_est (s : State) (r : Fin 3) : (s.estRegs r).est = s.est := s.estRegs_within r .est (by decide)

@[simp] theorem State.estRegs_prf (s : State) (r : Fin 3) : (s.estRegs r).prf = s.prf := s.estRegs_within r .prf (by decide)

@[simp] theorem State.estStr_estRegs (s : State) (r q : Fin 3) : (s.estRegs r).estStr q = s.estStr q := State.estStr_congr (s.estRegs_est r) q

theorem strFlags_shown (r : Fin 3) : ∀ g ∈ strFlags r, estShown r g.addr := by decide +revert

theorem strFlags_not_valueRegs (r : Fin 3) : ∀ g ∈ strFlags r, g.addr ∉ valueRegs r := by decide +revert

theorem valueRegs_estReg {r : Fin 3} {a : Nat} (h : a ∈ valueRegs r) : estReg r a := by
  simp only [valueRegs, heldRegs, List.mem_cons, List.not_mem_nil, or_false] at h
  rcases h with rfl | rfl | rfl | rfl <;> decide +revert

theorem State.estRegs_steady (s : State) (r : Fin 3) : (s.estRegs r).StrSteady r s :=
  .of_regs (.rfl' s) ((s.estRegs_regsOff r).mono fun _ ha => .inl (.inl (valueRegs_estReg ha))) ((s.estRegs_within r).mono (by decide))
    (by simp [State.strValues]) ((s.estRegs_regsOff r).keeps (strFlags_not_valueRegs r))

/-- A percentage in steps of 0.01 fits the registers. -/
theorem centi_lt (x : Frac) : centi x < 2 ^ 16 := Nat.lt_of_le_of_lt (Nat.min_le_left _ _) (by decide)

theorem soc_not_held (r : Fin 3) : Reg.EST_STR_SOC r ∉ heldRegs r := by decide +revert

/-- The reported value is shown (R285). -/
theorem State.get_estRegs_socRep (s : State) (r : Fin 3) : (s.estRegs r).get (Fd.EST_STR_SOC_soc_rep r) = centi (s.estStr r).sRep :=
  ((s.estRegs_socShown r).get (f := Fd.EST_STR_SOC_soc_rep r) (soc_not_held r)).trans
    (State.get_put_small _ (Fd.EST_STR_SOC_soc_rep r) _ (by decide : 0 + 16 ≤ 32) (centi_lt _))

end

/-! ## Learning (R291, R292) -/

section
variable {s : State} {r : Fin 3} {q : Frac} {source : Nat}

/-- A capacity is taken, and the string is not suspect. -/
def State.capTaken (s : State) (r : Fin 3) (q : Frac) (source : Nat) : State :=
  (s.setEst r { s.estStr r with learned := q.round.toNat, source := source }).setFlag (Fd.EST_STR_FLAG_suspect r) false

/-- The store falls due with it. -/
def State.learned (s : State) (r : Fin 3) (q : Frac) (source : Nat) : State :=
  let t := s.capTaken r q source
  { t with est := { t.est with storeDue := true, learnCount := t.est.learnCount + 1 } }

theorem State.learned_within (s : State) (r : Fin 3) (q : Frac) (source : Nat) : (s.learned r q source).within (s.capTaken r q source) [.est] :=
  State.within_est _ _

/-- Half to 1.1 times the rated capacity. -/
def State.mayLearn (s : State) (r : Fin 3) (q : Frac) : Bool :=
  (Frac.mk (s.get (Fd.EST_MODEL_CTRL_cap_rated r)) 2).le q && q.le ⟨11 * s.get (Fd.EST_MODEL_CTRL_cap_rated r), 10⟩

theorem State.learn_learned (h : s.mayLearn r q = true) : s.learn r q source = s.learned r q source := if_pos h

theorem State.learn_noted (h : s.mayLearn r q = false) : s.learn r q source = s.record Blk.est 0x13 0 (0x700 + r) :=
  if_neg (Bool.eq_false_iff.1 h)

theorem State.estStr_learned : (s.learned r q source).estStr r = { s.estStr r with learned := q.round.toNat, source := source } :=
  s.estStr_setEst_same r _

theorem State.learned_suspect : (s.learned r q source).flag (Fd.EST_STR_FLAG_suspect r) = false :=
  (State.flag_congr (s := s.capTaken r q source) rfl _).trans
    (State.flag_setFlag_same _ (Fd.EST_STR_FLAG_suspect r) false (by decide : 5 + 1 ≤ 32) rfl)

theorem State.learn_steady (s : State) (r : Fin 3) (q : Frac) (source : Nat) :
    (s.learn r q source).StrSteady r s := by
  cases h : s.mayLearn r q with
  | true =>
    rw [State.learn_learned h]
    exact State.StrMoved.trans (u := s.capTaken r q source) ⟨.of_regs (.rfl' _) rfl, fun _ _ => rfl, fun _ _ => rfl, fun _ _ => rfl, rfl,
      (s.learned_within r q source).mono (by decide), rfl, .of_regs (.rfl' _) rfl⟩ (.flagRule (.setRule (.rfl' s) rfl) (by simp [ruleFields]))
  | false =>
    rw [State.learn_noted h]
    obtain ⟨window, -, parts⟩ := s.record_note Blk.est 0x13 (0x700 + r) (by decide)
    refine .of_regs (.rfl' s) (window.mono fun _ => Or.inr) parts ?_ (window.keeps fun g hg => ((strFlags_shown r g hg).not_inWindow))
    simp [State.strValues]

end

/-! ## The rules of a commit -/

section
variable (s : State) (r : Fin 3)

theorem State.dropTrack_steady : (s.dropTrack r).StrSteady r s := .putRule (.rfl' s) (by simp [ruleFields])

theorem State.takeCapacity_steady : (s.takeCapacity r).1.StrSteady r s :=
  .putRule (.putRule (.rfl' s) (by simp [ruleFields])) (by simp [ruleFields])

theorem State.cvStep_steady : (s.cvStep r).StrSteady r s :=
  .putRule (.setRule (.rfl' s) rfl) (by simp [ruleFields])

theorem State.taperStep_steady : (s.taperStep r).StrSteady r s := by
  have same : s.StrSteady r s := .rfl' s
  unfold State.taperStep
  extract_lets x qual
  refine .ite (fun _ => .putRule (.setRule same rfl) (by simp [ruleFields])) fun _ => ?_
  split
  · exact .putRule (.setRule same rfl) (by simp [ruleFields])
  · have counted : (s.bumpSat (Fd.EST_STR_TAPER_taper_count r)).StrSteady r s := same.putRule (by simp [ruleFields])
    have still : x.shown = ((s.bumpSat (Fd.EST_STR_TAPER_taper_count r)).estStr r).shown :=
      congrArg EstStr.shown (s.estStr_bumpSat _ r).symm
    exact .ite (fun _ => .setRule counted still) fun _ => counted

theorem State.restStep_steady : (s.restStep r).StrSteady r s := by
  unfold State.restStep
  extract_lets x rest t
  have same : t.StrSteady r s := .putRule (.rfl' s) (by simp [ruleFields])
  have values : x.shown = (t.estStr r).shown := congrArg EstStr.shown (s.estStr_setFlag (Fd.EST_STR_FLAG_at_rest r) rest r).symm
  clear_value t
  refine .ite (fun _ => .putRule (.setRule same values) (by simp [ruleFields])) fun _ => ?_
  split
  · exact .putRule (.setRule same values) (by simp [ruleFields])
  · have counted : (t.bumpSat (Fd.EST_STR_REST_rest_count r)).StrSteady r s := same.putRule (by simp [ruleFields])
    have still : x.shown = ((t.bumpSat (Fd.EST_STR_REST_rest_count r)).estStr r).shown :=
      values.trans (congrArg EstStr.shown (t.estStr_bumpSat _ r).symm)
    exact .ite (fun _ => .putRule (.setRule counted still) (by simp [ruleFields])) fun _ => counted

theorem State.trackStep_steady : (s.trackStep r).StrSteady r s := by
  unfold State.trackStep
  refine .ite (fun _ => .rfl' s) fun _ => ?_
  extract_lets x dq y t
  have tracked : t.StrSteady r s := .setRule (.rfl' s) (by unfold y; split <;> rfl)
  exact .ite (fun _ => (t.dropTrack_steady r).trans tracked) fun _ => tracked

theorem State.countStep_steady : (s.countStep r).StrSteady r s := by
  unfold State.countStep
  extract_lets x dq step cc d isOver y
  refine .ite (fun _ => .setRule (.rfl' s) rfl) fun _ => ?_
  split
  · exact .setRule (.rfl' s) rfl
  · exact .setRule (.rfl' s) rfl

end

end Sys2Proof.Machine
end

section
/-! Chapter 10: the capacity store, and the standby's copy of the estimation state (R275, R295, R296). -/

namespace Sys2Proof.Machine

/-! ## The current slot (R295) -/

section
variable {v : Vector (Option CapSlot) 2} {x : CapSlot}

/-- The next sequence number is later, and its predecessor is not later than it. -/
theorem seqLater_next (a : Nat) : seqLater ((a + 1) % 2 ^ 32) a = true ∧ seqLater a ((a + 1) % 2 ^ 32) = false := by
  unfold seqLater
  simp only [decide_eq_true_eq, decide_eq_false_iff_not]
  omega

theorem currentSlot_first (h : vget v 0 = some x) (older : ∀ b, vget v 1 = some b → seqLater b.seq x.seq = false) : currentSlot v = some 0 := by
  unfold currentSlot
  rw [h]
  cases hb : vget v 1 with
  | none => rfl
  | some b => simp [older b hb]

theorem currentSlot_second (h : vget v 1 = some x) (older : ∀ a, vget v 0 = some a → seqLater x.seq a.seq = true) : currentSlot v = some 1 := by
  unfold currentSlot
  rw [h]
  cases ha : vget v 0 with
  | none => rfl
  | some a => simp [older a ha]

theorem currentSlot_none (h : currentSlot v = none) : vget v 1 = none := by
  unfold currentSlot at h
  cases hb : vget v 1 with
  | none => rfl
  | some b =>
    rw [hb] at h
    cases ha : vget v 0 with
    | none => simp [ha] at h
    | some a =>
      rw [ha] at h
      dsimp only at h
      split at h <;> cases h

end

section
variable (s : State)

theorem State.seqStored_next {k : Fin 2} {y : CapSlot} (current : currentSlot s.est.slots = some k) (valid : vget s.est.slots k = some y) :
    s.seqStored = y.seq + 1 := by
  unfold State.seqStored
  rw [current, Option.bind_some, valid]

theorem State.slotNext_second (h : currentSlot s.est.slots = some 0) : s.slotNext = 1 := by simp [State.slotNext, h]

theorem State.slotNext_first (h : currentSlot s.est.slots ≠ some 0) : s.slotNext = 0 := by
  unfold State.slotNext
  split
  · exact absurd ‹_› h
  · rfl

/-- A slot that is written with the next sequence number is current. -/
theorem State.currentSlot_stored {x : CapSlot} (seq : x.seq = s.seqStored % 2 ^ 32) :
    currentSlot (vset s.est.slots s.slotNext (some x)) = some s.slotNext := by
  have written (k : Fin 2) : vget (vset s.est.slots k (some x)) k = some x := vget_vset_same _ _ _
  have other {j k : Fin 2} (apart : j ≠ k) : vget (vset s.est.slots k (some x)) j = vget s.est.slots j := vget_vset_other _ _ apart
  match current : currentSlot s.est.slots with
  | some 0 =>
    rw [s.slotNext_second current]
    refine currentSlot_second (written 1) fun a ha => ?_
    rw [seq, s.seqStored_next current ((other (by decide)).symm.trans ha)]
    exact (seqLater_next a.seq).1
  | some 1 =>
    rw [s.slotNext_first (by simp [current])]
    refine currentSlot_first (written 0) fun b hb => ?_
    rw [seq, s.seqStored_next current ((other (by decide)).symm.trans hb)]
    exact (seqLater_next b.seq).2
  | none =>
    rw [s.slotNext_first (by simp [current])]
    refine currentSlot_first (written 0) fun b hb => ?_
    rw [other (by decide), currentSlot_none current] at hb
    cases hb

end

/-! ## The registers of the store -/

/-- The registers that show the slots. -/
def capSlotRegs : List Nat := [Reg.KPR_CAPSLOT_STAT, Reg.KPR_CAPSLOT_SEQ]

/-- The bits that a write sets by its outcome. -/
def capSlotFlags : List Fld := [Fd.KPR_CAPSLOT_STAT_store_fail, Fd.KPR_CAPSLOT_STAT_verify_fail]

section
variable (s : State)

/-- What shows the slots leaves the outcome of their writes. -/
theorem State.slotStat_frame : s.slotStat.regsOff (· ∈ capSlotRegs) s ∧ s.slotStat.within s [.regs] ∧ s.slotStat.keeps s capSlotFlags := by
  unfold State.slotStat
  extract_lets t
  have off : t.regsOff (· ∈ capSlotRegs) s := .setFlag (.setFlag (.rfl' s) (by decide) _) (by decide) _
  have parts : t.within s [.regs] := .setFlag (.setFlag (.rfl' s) (by decide) _ _) (by decide) _ _
  have kept : t.keeps s capSlotFlags := .setFlag (.setFlag (.rfl' s) (by decide) _) (by decide) _
  clear_value t
  split
  · exact ⟨off.put (by decide) _, parts.put (by decide) _ _, kept.put (by decide) _⟩
  · exact ⟨(off.setFlag (by decide) _).put (by decide) _, (parts.setFlag (by decide) _ _).put (by decide) _ _,
      (kept.setFlag (by decide) _).put (by decide) _⟩

/-- A slot is changed, a bit says so, and the slots are shown. -/
def State.slotShown (f : Fld) (b : Bool) (x : Option CapSlot) (due : Bool) (failed : Nat) : State :=
  ((s.setSlots s.slotNext x due failed).setFlag f b).slotStat

theorem State.slotShown_frame {f : Fld} (hf : f ∈ capSlotFlags) (b : Bool) (x : Option CapSlot) (due : Bool) (failed : Nat) :
    (s.slotShown f b x due failed).regsOff (· ∈ capSlotRegs) s ∧ (s.slotShown f b x due failed).within s [.regs, .est] ∧
    (s.slotShown f b x due failed).flag f = b ∧
    (s.slotShown f b x due failed).est = { s.est with slots := vset s.est.slots s.slotNext x, storeDue := due, failed := failed } := by
  obtain ⟨off, parts, kept⟩ := ((s.setSlots s.slotNext x due failed).setFlag f b).slotStat_frame
  have stat : ∀ f ∈ capSlotFlags, f.addr ∈ capSlotRegs ∧ f.lo + f.len ≤ 32 ∧ f.len = 1 := by decide
  obtain ⟨reg, fits, bit⟩ := stat f hf
  refine ⟨off.trans (.setFlag (.of_regs (.rfl' s) rfl) reg b), ?_, (kept.flag hf).trans (State.flag_setFlag_same _ f b fits bit), parts .est (by decide)⟩
  exact (parts.mono (by decide)).trans (State.within.setFlag ((s.within_est _).mono (by decide)) (by decide) f b)

end

/-! ## A write -/

section
variable {s : State}

theorem execCapacityStoreWrite_off (h : s.storeNow = false) (ok : Bool) : execCapacityStoreWrite ok s = .next s := by
  unfold execCapacityStoreWrite
  rw [h]
  rfl

theorem execCapacityStoreWrite_good (h : s.storeNow = true) : execCapacityStoreWrite true s =
    .next (s.slotShown Fd.KPR_CAPSLOT_STAT_store_fail false (some (s.capRecord s.seqStored)) false 0) := by
  unfold execCapacityStoreWrite
  rw [h]
  rfl

/-- A write that did not compare. -/
def State.slotVoid (s : State) : State := s.slotShown Fd.KPR_CAPSLOT_STAT_verify_fail true none s.est.storeDue (s.est.failed + 1)

theorem State.slotVoid_frame (s : State) : s.slotVoid.regsOff (· ∈ capSlotRegs) s ∧ s.slotVoid.within s [.regs, .est] ∧
    s.slotVoid.flag Fd.KPR_CAPSLOT_STAT_verify_fail = true ∧
    s.slotVoid.est = { s.est with slots := vset s.est.slots s.slotNext none, failed := s.est.failed + 1 } :=
  s.slotShown_frame (by decide) true none s.est.storeDue (s.est.failed + 1)

theorem State.slotVoid_failedTwice (s : State) : s.slotVoid.failedTwice = decide (1 ≤ s.est.failed) := by
  obtain ⟨-, -, -, est⟩ := s.slotVoid_frame
  simp [State.failedTwice, est]

theorem execCapacityStoreWrite_bad (h : s.storeNow = true) : execCapacityStoreWrite false s =
    .next (if 1 ≤ s.est.failed then s.slotVoid.storeFailed else s.slotVoid) := by
  have failed : s.slotFailed = if s.slotVoid.failedTwice then s.slotVoid.storeFailed else s.slotVoid := rfl
  rw [s.slotVoid_failedTwice] at failed
  simp only [decide_eq_true_eq] at failed
  rw [← failed]
  unfold execCapacityStoreWrite
  rw [h]
  rfl

theorem State.storeNow_due (h : s.storeNow = true) : s.est.storeDue = true := by
  unfold State.storeNow at h
  simp only [Bool.and_eq_true] at h
  exact h.1.2

/-- Two failures in a row: the write is given up with a fault, of any class (R296). -/
theorem State.storeFailed_ends (s : State) : s.storeFailed.est = { s.est with storeDue := false, failed := 0 } ∧
    s.storeFailed.flag Fd.KPR_CAPSLOT_STAT_store_fail = true ∧
    s.storeFailed.flag Fd.KPR_CAPSLOT_STAT_verify_fail = s.flag Fd.KPR_CAPSLOT_STAT_verify_fail ∧ s.storeFailed.faultCounted s 14 := by
  obtain ⟨regs, counted⟩ := State.record_recorded (cls := 1) (unit := 0)
    ({ s with est := { s.est with storeDue := false, failed := 0 } }.setFlag Fd.KPR_CAPSLOT_STAT_store_fail true) Blk.kpr 0x19
    fun _ t => t.fenceUnit_none
  have stat : ¬inFault Blk.kpr Reg.KPR_CAPSLOT_STAT := by
    unfold inFault inWindow inSafe Reg.KPR_CAPSLOT_STAT Reg.STL_LANE_STAT Reg.WGL_LINK_STAT Reg.LKS_LOCK_STAT Reg.LKS_STAT Reg.LKS_DUMP_STAT
    simp only [Blk.kpr]
    omega
  refine ⟨State.record_est _ _ _ _ _, ?_, ?_, ?_⟩
  · exact (regs.flag (f := Fd.KPR_CAPSLOT_STAT_store_fail) stat).trans (State.flag_setFlag_same _ _ _ (by decide) rfl)
  · exact (regs.flag (f := Fd.KPR_CAPSLOT_STAT_verify_fail) stat).trans
      ((State.flag_setFlag_apart _ _ _ _ (by decide) (.inr (by decide))).trans (State.flag_congr rfl _))
  · unfold State.faultCounted at counted ⊢
    refine counted.trans ?_
    rw [State.get_setFlag_apart _ _ _ _ (by decide) (.inl (by decide))]
    rfl

/-- The other slot stands, whatever is written (R296). -/
theorem State.slots_other (s : State) (x : Option CapSlot) {k : Fin 2} (h : k ≠ s.slotNext) :
    vget (vset s.est.slots s.slotNext x) k = vget s.est.slots k := vget_vset_other _ _ h

end

/-! ## The standby's copy (R275) -/

section
variable (b : EstBulk)

/-- The words of a string's window. -/
def State.wordsTaken (s : State) (r : Fin 3) : State :=
  (List.finRange 14).foldl (fun (s : State) (k : Fin 14) => s.wr (Reg.EST_STR_SOC r + 4 * k) (vget (vget b.words r) k)) s

theorem State.wordsTaken_within (s : State) (r : Fin 3) : (s.wordsTaken b r).within s [.regs] :=
  .foldl (fun _ _ h => h.wr (by decide) _ _) (.rfl' s)

theorem State.wordsTaken_regsOff (s : State) (r : Fin 3) : (s.wordsTaken b r).regsOff (estReg r) s := by
  refine .foldl (fun k _ _ h => h.wr ?_ _) (.rfl' s)
  have hk := k.isLt
  unfold estReg Reg.EST_STR_SOC
  omega

theorem State.wordsTaken_word (s : State) (r : Fin 3) (k : Fin 14) :
    (s.wordsTaken b r).rd (Reg.EST_STR_SOC r + 4 * k) = vget (vget b.words r) k := by
  refine State.foldl_reaches (K := fun _ => True)
    (R := fun (u : State) (k : Fin 14) => u.rd (Reg.EST_STR_SOC r + 4 * k) = vget (vget b.words r) k) (fun _ _ _ => trivial)
    (fun u i _ => u.rd_wr_same _ _) (fun u i j h => ?_) (List.mem_finRange k) trivial
  by_cases same : j = i
  · subst same
    exact u.rd_wr_same _ _
  · have apart : j.val ≠ i.val := fun e => same (Fin.ext e)
    exact (u.rd_wr_other _ _ _ (by omega)).trans h

/-- What the profile generator and the registers hold of string `r` is the claimant's. -/
def State.strCopied (t : State) (r : Fin 3) : Prop :=
  vget t.prf.socIn r = some (vget b.est.strs r).sRep ∧ ∀ k : Fin 14, t.rd (Reg.EST_STR_SOC r + 4 * k) = vget (vget b.words r) k

theorem State.takeEstStr_est (s : State) (r : Fin 3) : (s.takeEstStr b r).est = s.est := s.wordsTaken_within b r .est (by decide)

theorem State.takeEstStr_prf (s : State) (r : Fin 3) :
    (s.takeEstStr b r).prf = { s.prf with socIn := vset s.prf.socIn r (some (vget b.est.strs r).sRep) } :=
  congrArg (fun x : PrfRt => { x with socIn := vset x.socIn r (some (vget b.est.strs r).sRep) }) (s.wordsTaken_within b r .prf (by decide))

theorem State.takeEstStr_copied (s : State) (r : Fin 3) : (s.takeEstStr b r).strCopied b r := by
  refine ⟨?_, s.wordsTaken_word b r⟩
  rw [State.takeEstStr_prf]
  exact vget_vset_same _ _ _

theorem State.takeEstStr_keeps {s : State} {r q : Fin 3} (h : s.strCopied b q) : (s.takeEstStr b r).strCopied b q := by
  by_cases same : q = r
  · subst same
    exact s.takeEstStr_copied b q
  · refine ⟨?_, fun k => ?_⟩
    · rw [State.takeEstStr_prf]
      exact (vget_vset_other _ _ same).trans h.1
    · refine Eq.trans (s.wordsTaken_regsOff b r _ ?_) (h.2 k)
      have apart : q.val ≠ r.val := fun e => same (Fin.ext e)
      have hk := k.isLt
      unfold estReg Reg.EST_STR_SOC
      omega

/-- The strings are copied one by one, each into its own registers. -/
def State.estCopied (s : State) : State := (List.finRange 3).foldl (State.takeEstStr b) (s.takeEst b)

theorem execEstimationBulk_standby {s : State} (h : s.isStandby = true) : execEstimationBulk b s = .next (s.estCopied b) := by
  unfold execEstimationBulk
  rw [h]
  rfl

theorem State.estCopied_str (s : State) (r : Fin 3) : (s.estCopied b).strCopied b r :=
  State.foldl_reaches (K := fun _ => True) (fun _ _ _ => trivial) (fun u i _ => u.takeEstStr_copied b i) (fun _ _ _ h => State.takeEstStr_keeps b h)
    (List.mem_finRange r) trivial

/-- Beside the registers the copy of the strings is what the profile generator is told. -/
theorem State.estCopied_parts (s : State) : (s.estCopied b).est = (s.takeEst b).est ∧
    (s.estCopied b).prf = { s.prf with socIn := (s.estCopied b).prf.socIn } := by
  refine List.foldlRecOn (motive := fun t : State => t.est = (s.takeEst b).est ∧ t.prf = { s.prf with socIn := t.prf.socIn }) (List.finRange 3)
    (State.takeEstStr b) ⟨rfl, rfl⟩ fun t ht r _ => ⟨(t.takeEstStr_est b r).trans ht.1, ?_⟩
  rw [State.takeEstStr_prf, ht.2]

end

/-- Settles O37: what is written is current where it compares, the other slot stands in either case, and the standby copies all but its own store. -/
theorem capacityStoreKeepsOneGoodSlot : Obligations.CapacityStoreKeepsOneGoodSlot := by
  intro s
  refine ⟨execCapacityStoreWrite_off, fun now => ⟨_, execCapacityStoreWrite_good now, ?_⟩, fun now => ⟨_, execCapacityStoreWrite_bad now, ?_⟩,
    fun claimant b => ?_, fun standby b => ⟨_, execEstimationBulk_standby b standby, ?_⟩⟩
  · obtain ⟨off, parts, flag, est⟩ := s.slotShown_frame (f := Fd.KPR_CAPSLOT_STAT_store_fail) (by decide) false
      (some (s.capRecord s.seqStored)) false 0
    rw [est]
    exact ⟨s.currentSlot_stored rfl, ⟨_, vget_vset_same _ _ _, rfl, fun r => vget_ofFn _ r, rfl⟩, fun k => s.slots_other _, rfl, rfl,
      flag, off, parts⟩
  · obtain ⟨off, parts, flag, est⟩ := s.slotVoid_frame
    split
    next again =>
      obtain ⟨given, fail, verify, counted⟩ := s.slotVoid.storeFailed_ends
      rw [given, est]
      refine ⟨vget_vset_same _ _ _, fun k => s.slots_other none, verify.trans flag, fun first => by omega, fun _ => ⟨rfl, rfl, fail, ?_⟩⟩
      exact counted.trans (congrArg (fun n => (n + 1) % 65536) (off.get (f := Fd.FLT_STAT_count 14) (by decide)))
    next first =>
      rw [est]
      exact ⟨vget_vset_same _ _ _, fun k => s.slots_other none, flag, fun zero => ⟨by rw [zero], State.storeNow_due now, parts⟩,
        fun again => absurd again first⟩
  · unfold exec execEstimationBulk
    rw [claimant]
    rfl
  · obtain ⟨est, prf⟩ := s.estCopied_parts b
    exact ⟨est, s.estCopied_str b, prf, (EstK.execEstimationBulk_keeps (EstK.rfl' s) b _ (execEstimationBulk_standby b standby)).within⟩

end Sys2Proof.Machine
end

section
/-! Chapter 10: end of charge, divergence, rest points and anchors (R287, R290, R294). -/

namespace Sys2Proof.Machine

/-! ## End of charge (R287) -/

section
variable (s : State) (r : Fin 3)

theorem flagReg_shown : estShown r (Reg.EST_STR_FLAG r) ∧ Reg.EST_STR_FLAG r ∉ valueRegs r := by decide +revert

theorem bandReg_not_valueRegs : Reg.PRF_STR_BAND r ∉ valueRegs r := by decide +revert

/-- The registers of a string beside those that show it stand. -/
theorem State.flag_estRegs {f : Fld} (h : f.addr ∉ valueRegs r) : (s.estRegs r).flag f = s.flag f := (s.estRegs_regsOff r).flag h

@[simp] theorem State.estStr_setZ (c : Nat) (z : Frac) :
    (s.setZ r c z).estStr r = { s.estStr r with sStr := (s.setZ r c z).stringValue r } := State.estStr_setEst_same _ r _

theorem State.topCell_lt : s.topCell r < 224 := by
  unfold State.topCell
  cases h : (s.validCells r).find? fun c => s.volt r c == s.highest r with
  | none => decide
  | some c => exact List.mem_range.1 (List.mem_filter.1 (List.mem_of_find?_eq_some h)).1

/-- The highest cell is full, the count is re-anchored, and the windows end. -/
def State.chargeHeld : State :=
  let t := ((s.setZ r (s.topCell r) (Frac.ofInt 1)).reanchor r).report r (Frac.ofInt 100)
  t.setEst r { t.estStr r with qDis := 0, qChg := 0, eocNow := false, taperOpen := none }

/-- The fields that show an end of charge. -/
def State.chargeShown : State :=
  (((s.setFlag (Fd.EST_STR_FLAG_eoc r) true).setFlag (Fd.EST_STR_FLAG_track_full r) true).put (Fd.EST_STR_TAPER_taper_count r) 0).setFlag
    (Fd.PRF_STR_BAND_full_charge r) false

theorem State.endCharge_stages : s.endCharge r = ((s.chargeHeld r).chargeShown r).estRegs r := rfl

theorem State.chargeHeld_moved : (s.chargeHeld r).StrMoved r anyValue [] s := by
  have full : (s.setZ r (s.topCell r) (Frac.ofInt 1)).StrMoved r anyValue [] s := .setZ (.rfl' s) (s.topCell_lt r) _ (anyValue_eq _ _)
  exact .setEst (.report ((State.reanchor_steady _ r).any.trans full) _ (anyValue_eq _ _)) _ (anyValue_eq _ _)

theorem chargeFields_ofStr : (Fd.EST_STR_FLAG_eoc r).ofStr r [] = true ∧ (Fd.EST_STR_FLAG_track_full r).ofStr r [] = true ∧
    (Fd.EST_STR_TAPER_taper_count r).ofStr r [] = true ∧ (Fd.PRF_STR_BAND_full_charge r).ofStr r [] = true := by decide +revert

theorem State.chargeShown_moved : (s.chargeShown r).StrMoved r anyValue [] s := by
  obtain ⟨eoc, track, taper, full⟩ := chargeFields_ofStr r
  have flags : ((s.setFlag (Fd.EST_STR_FLAG_eoc r) true).setFlag (Fd.EST_STR_FLAG_track_full r) true).StrMoved r anyValue [] s :=
    .setFlag (.setFlag (.rfl' s) eoc _ (anyValue_eq _ _)) track _ (anyValue_eq _ _)
  exact .setFlag (.put flags taper _ (anyValue_eq _ _)) full _ (anyValue_eq _ _)

theorem chargeFields_clear : (Fd.EST_STR_FLAG_track_full r).clear (Fd.EST_STR_FLAG_eoc r) = true ∧
    (Fd.EST_STR_TAPER_taper_count r).clearOf [Fd.EST_STR_FLAG_eoc r, Fd.EST_STR_FLAG_track_full r] = true ∧
    (Fd.PRF_STR_BAND_full_charge r).clearOf [Fd.EST_STR_FLAG_eoc r, Fd.EST_STR_FLAG_track_full r] = true := by decide +revert

theorem State.chargeShown_flags : (s.chargeShown r).flag (Fd.EST_STR_FLAG_eoc r) = true ∧
    (s.chargeShown r).flag (Fd.EST_STR_FLAG_track_full r) = true ∧ (s.chargeShown r).flag (Fd.PRF_STR_BAND_full_charge r) = false := by
  obtain ⟨track, taper, full⟩ := chargeFields_clear r
  have set (u : State) (f : Fld) (b : Bool) (fits : f.lo + f.len ≤ 32) (bit : f.len = 1) : (u.setFlag f b).flag f = b := u.flag_setFlag_same f b fits bit
  have kept : (s.chargeShown r).keeps ((s.setFlag (Fd.EST_STR_FLAG_eoc r) true).setFlag (Fd.EST_STR_FLAG_track_full r) true)
      [Fd.EST_STR_FLAG_eoc r, Fd.EST_STR_FLAG_track_full r] := ((State.keeps.rfl' _).put taper _).setFlag full _
  refine ⟨(kept.flag (by simp)).trans ?_, (kept.flag (by simp)).trans (set _ _ _ (by decide : 11 + 1 ≤ 32) rfl),
    set _ _ _ (by decide : 0 + 1 ≤ 32) rfl⟩
  exact (congrArg (· == 1) (State.get_setFlag_clear _ true track)).trans (set _ _ _ (by decide : 7 + 1 ≤ 32) rfl)

theorem State.endCharge_moved : (s.endCharge r).StrMoved r anyValue [] s :=
  (State.estRegs_steady _ r).any.trans (((s.chargeHeld r).chargeShown_moved r).trans (s.chargeHeld_moved r))

theorem State.endCharge_est : (s.endCharge r).est = (s.chargeHeld r).est := State.estRegs_est _ r

theorem State.endCharge_str : (s.endCharge r).estStr r = (s.chargeHeld r).estStr r := State.estStr_congr (s.endCharge_est r) r

/-- The highest cell is full. -/
theorem State.endCharge_cell {z : Frac} (h : s.est.zs[224 * r.val + s.topCell r]? = some z) :
    (s.endCharge r).est.zs[224 * r.val + s.topCell r]? = some (Frac.ofInt 1) := by
  obtain ⟨inRecord, -⟩ := List.getElem?_eq_some_iff.1 h
  rw [s.endCharge_est]
  exact List.getElem?_set_self inRecord

/-- What the end of charge leaves of the string. -/
theorem State.endCharge_full : ∃ v, (s.endCharge r).estStr r = { s.estStr r with
    sStr := v, sCc := v, d := Frac.zero, divOpen := none, conflictNow := false, sRep := Frac.ofInt 100, qDis := 0, qChg := 0, eocNow := false,
    taperOpen := none } := by
  rw [s.endCharge_str]
  refine ⟨(s.setZ r (s.topCell r) (Frac.ofInt 1)).stringValue r, ?_⟩
  simp only [State.chargeHeld, State.estStr_setEst_same, State.estStr_report, State.estStr_reanchor, State.estStr_setZ]

variable {s r}

theorem execEndOfCharge_off (h : (s.estStr r).eocNow = false) : execEndOfCharge r s = .next s := congrArg Host.Outcome.next (if_pos (by simp [h]))

theorem execEndOfCharge_on (h : (s.estStr r).eocNow = true) : execEndOfCharge r s = .next (s.endCharge r) :=
  congrArg Host.Outcome.next (if_neg (by simp [h]))

end

/-! ## Divergence (R290) -/

section
variable (s : State) (r : Fin 3)

/-- The conflict before its fault: the count is re-anchored, and the capacity is suspect. -/
def State.conflictHeld : State := (s.setDue (s.est.storeDue || !s.flag (Fd.EST_STR_FLAG_suspect r))).reanchor r

def State.conflictShown : State :=
  (((s.conflictHeld r).setFlag (Fd.EST_STR_FLAG_conflict r) true).setFlag (Fd.EST_STR_FLAG_suspect r) true).estRegs r

theorem State.diverged_stages : s.diverged r = (s.conflictShown r).record Blk.est 0x12 1 (0x700 + r) := rfl

theorem State.conflictShown_est : (s.conflictShown r).est = (s.conflictHeld r).est := State.estRegs_est _ r

theorem State.conflictHeld_within : (s.conflictHeld r).within s [.est] :=
  State.within.trans (State.setEst_within _ r _) (s.within_est _)

theorem State.conflictShown_within : (s.conflictShown r).within s [.regs, .est] := by
  have held : (s.conflictHeld r).within s [.regs, .est] := (s.conflictHeld_within r).mono (by decide)
  exact ((State.estRegs_within _ r).mono (by decide)).trans (.setFlag (.setFlag held (by decide) _ _) (by decide) _ _)

theorem State.conflictShown_regsOff : (s.conflictShown r).regsOff (estShown r) s := by
  obtain ⟨flag, -⟩ := flagReg_shown r
  exact ((State.estRegs_regsOff _ r).mono fun _ ha => .inl (valueRegs_estReg ha)).trans
    (.setFlag (.setFlag (.of_regs (.rfl' s) rfl) flag _) flag _)

theorem State.conflictShown_flags : (s.conflictShown r).flag (Fd.EST_STR_FLAG_conflict r) = true ∧
    (s.conflictShown r).flag (Fd.EST_STR_FLAG_suspect r) = true := by
  obtain ⟨-, other⟩ := flagReg_shown r
  have conflict : ((s.conflictHeld r).setFlag (Fd.EST_STR_FLAG_conflict r) true).flag (Fd.EST_STR_FLAG_conflict r) = true :=
    State.flag_setFlag_same _ (Fd.EST_STR_FLAG_conflict r) true (by decide : 6 + 1 ≤ 32) rfl
  refine ⟨(State.flag_estRegs _ r other).trans ?_, (State.flag_estRegs _ r other).trans ?_⟩
  · exact (State.flag_setFlag_apart _ (Fd.EST_STR_FLAG_suspect r) (Fd.EST_STR_FLAG_conflict r) true (by decide : 5 + 1 ≤ 32)
      (.inr (.inr (by decide : 5 + 1 ≤ 6)))).trans conflict
  · exact State.flag_setFlag_same _ (Fd.EST_STR_FLAG_suspect r) true (by decide : 5 + 1 ≤ 32) rfl

theorem State.conflictHeld_str : (s.conflictHeld r).estStr r =
    { s.estStr r with sCc := (s.estStr r).sStr, d := Frac.zero, divOpen := none, conflictNow := false } := State.estStr_reanchor _ r

theorem State.diverged_str : (s.diverged r).estStr r =
    { s.estStr r with sCc := (s.estStr r).sStr, d := Frac.zero, divOpen := none, conflictNow := false } := by
  rw [s.diverged_stages, State.estStr_record, State.estStr_congr (s.conflictShown_est r), s.conflictHeld_str]

variable {s r}

/-- The conflict is a Derate of the string, where the block holds none of it unacknowledged. -/
theorem State.diverged_fault (new : s.notHeld 11 false 1 (0x700 + r)) : State.PairFault (s.conflictShown r) Blk.est 1 (s.diverged r) := by
  have flt : (s.conflictShown r).flt = s.flt := s.conflictShown_within r .flt (by decide)
  have held : (s.conflictShown r).notHeld Blk.est false 1 (0x700 + r) := by
    unfold State.notHeld
    rw [flt]
    exact new
  exact State.record_pairFault _ _ (by decide) (held.escalate 0x12) (by decide) (by decide)

theorem not_estShown_fltStat : ¬estShown r (Reg.FLT_STAT 11) := by decide +revert

/-- The state after the conflict's fault (R290). -/
theorem State.diverged_ends (new : s.notHeld 11 false 1 (0x700 + r)) : (s.diverged r).flag (Fd.EST_STR_FLAG_conflict r) = true ∧
    (s.diverged r).flag (Fd.EST_STR_FLAG_suspect r) = true ∧ (s.diverged r).faultCounted s 11 ∧
    (s.diverged r).get (Fd.FLT_STAT_pair_pend 11) = s.get (Fd.FLT_STAT_pair_pend 11) ||| 2 ∧ (s.diverged r).within s [.regs, .hmp, .est, .flt] := by
  obtain ⟨window, counted, pending, -, parts⟩ := State.diverged_fault new
  obtain ⟨conflict, suspect⟩ := s.conflictShown_flags r
  have apart : ¬inWindow 11 (Reg.EST_STR_FLAG r) := (flagReg_shown r).1.not_inWindow
  have off := s.conflictShown_regsOff r
  refine ⟨(window.flag (f := Fd.EST_STR_FLAG_conflict r) apart).trans conflict, (window.flag (f := Fd.EST_STR_FLAG_suspect r) apart).trans suspect,
    ?_, ?_, (parts.mono (by decide)).trans ((s.conflictShown_within r).mono (by decide))⟩
  · exact counted.trans (congrArg (fun n => (n + 1) % 65536) (off.get (f := Fd.FLT_STAT_count 11) not_estShown_fltStat))
  · exact pending.trans (congrArg (· ||| 2) (off.get (f := Fd.FLT_STAT_pair_pend 11) not_estShown_fltStat))

theorem execDivergenceConflict_off (h : (s.estStr r).conflictNow = false) : execDivergenceConflict r s = .next s :=
  congrArg Host.Outcome.next (if_pos (by simp [h]))

theorem execDivergenceConflict_on (h : (s.estStr r).conflictNow = true) : execDivergenceConflict r s = .next (s.diverged r) :=
  congrArg Host.Outcome.next (if_neg (by simp [h]))

end

end Sys2Proof.Machine
end

section
/-! Chapter 10: rest points and anchors, and what a commit has found (R287, R290, R294). -/

namespace Sys2Proof.Machine

/-! ## Calibration at a rest point (R294) -/

section
variable (s : State) (r : Fin 3)

theorem State.qSnap_congr {s t : State} {r : Fin 3} {P : Nat → Prop} (h : t.regsOff P s) (lo : ¬P (Reg.EST_STR_QSNAP_LO r))
    (hi : ¬P (Reg.EST_STR_QSNAP_HI r)) : t.qSnap r = s.qSnap r := by
  unfold State.qSnap State.get64
  rw [h _ lo, h _ hi]

theorem qSnapRegs_shown : estShown r (Reg.EST_STR_QSNAP_LO r) ∧ estShown r (Reg.EST_STR_QSNAP_HI r) := by decide +revert

theorem qSnapRegs_not_flag : Reg.EST_STR_QSNAP_LO r ≠ Reg.EST_STR_FLAG r ∧ Reg.EST_STR_QSNAP_HI r ≠ Reg.EST_STR_FLAG r := by decide +revert

@[simp] theorem State.estStr_putAnchor : (s.putAnchor r).estStr r =
    { s.estStr r with anchor := some ⟨(s.estStr r).sStr, s.qSnap r, (s.estStr r).stamp, false⟩ } := s.estStr_setEst_same r _

theorem anchorReg_not_flag : Reg.EST_STR_FLAG r ≠ Reg.EST_STR_ANCHOR r := by decide +revert

theorem State.flag_putAnchor : (s.putAnchor r).flag (Fd.EST_STR_FLAG_suspect r) = s.flag (Fd.EST_STR_FLAG_suspect r) :=
  congrArg (· == 1) ((State.get_put_reg _ (Fd.EST_STR_ANCHOR_anchor_soc r) (Fd.EST_STR_FLAG_suspect r) _ (anchorReg_not_flag r)).trans
    (State.get_congr (s := s) rfl _))

theorem anchorField_ofStr : (Fd.EST_STR_ANCHOR_anchor_soc r).ofStr r [] = true := by decide +revert

theorem State.putAnchor_moved : (s.putAnchor r).StrMoved r anyValue [] s :=
  .put (.setEst (.rfl' s) _ (anyValue_eq _ _)) (anchorField_ofStr r) _ (anyValue_eq _ _)

variable {s r} {q : Frac} {source : Nat}

/-- Learning leaves what the anchor holds. -/
theorem State.learn_snap : (s.learn r q source).qSnap r = s.qSnap r := by
  obtain ⟨lo, hi⟩ := qSnapRegs_shown r
  obtain ⟨otherLo, otherHi⟩ := qSnapRegs_not_flag r
  cases h : s.mayLearn r q with
  | true =>
    have flagged : (s.capTaken r q source).regsOff (· = Reg.EST_STR_FLAG r) s :=
      .setFlag (P := (· = Reg.EST_STR_FLAG r)) (f := Fd.EST_STR_FLAG_suspect r) (.of_regs (.rfl' s) rfl) rfl false
    have off : (s.learned r q source).regsOff (· = Reg.EST_STR_FLAG r) s := .of_regs flagged rfl
    rw [State.learn_learned h, State.qSnap_congr off otherLo otherHi]
  | false =>
    rw [State.learn_noted h, State.qSnap_congr (s.record_note Blk.est 0x13 (0x700 + r) (by decide)).1 lo.not_inWindow hi.not_inWindow]

theorem State.learn_str : ∃ c k, (s.learn r q source).estStr r = { s.estStr r with learned := c, source := k } := by
  cases h : s.mayLearn r q with
  | true =>
    rw [State.learn_learned h]
    exact ⟨_, _, State.estStr_learned⟩
  | false =>
    rw [State.learn_noted h]
    exact ⟨_, _, s.estStr_record _ _ _ _ r⟩

theorem State.calibrate_off (h : bit (s.get Fd.EST_CTRL_calib) r = false) : s.calibrate r = s := if_pos (by simp [h])

theorem State.calibrate_first (on : bit (s.get Fd.EST_CTRL_calib) r = true) (h : (s.estStr r).anchor = none) : s.calibrate r = s.putAnchor r := by
  unfold State.calibrate
  rw [if_neg (by simp [on]), h]

theorem State.calibrate_second (on : bit (s.get Fd.EST_CTRL_calib) r = true) {a : Anchor} (h : (s.estStr r).anchor = some a) : s.calibrate r =
    if (Frac.ofInt 50).le ((s.estStr r).sStr.sub a.soc).abs then (s.learn r (s.restCapacity r a) 2).putAnchor r
    else if s.betterAnchor r a then s.putAnchor r else s := by
  unfold State.calibrate
  rw [if_neg (by simp [on]), h]

/-- Two rest points far enough apart give a capacity, and the later one becomes the anchor. -/
theorem State.learnAnchor_str {s : State} {r : Fin 3} (c : Frac) :
    ((s.learn r c 2).putAnchor r).estStr r = { (s.learn r c 2).estStr r with
      anchor := some ⟨(s.estStr r).sStr, s.qSnap r, (s.estStr r).stamp, false⟩ } := by
  obtain ⟨c', k, str⟩ := State.learn_str (s := s) (r := r) (q := c) (source := 2)
  rw [State.estStr_putAnchor, State.learn_snap, str]

/-- Calibration changes the anchor and the capacity of its string alone. -/
theorem State.calibrate_frame (s : State) (r : Fin 3) : (s.calibrate r).StrMoved r anyValue [] s ∧
    ∃ a c k, (s.calibrate r).estStr r = { s.estStr r with anchor := a, learned := c, source := k } := by
  have same : s.StrMoved r anyValue [] s ∧ ∃ a c k, s.estStr r = { s.estStr r with anchor := a, learned := c, source := k } :=
    ⟨.rfl' s, _, _, _, rfl⟩
  have anchored : (s.putAnchor r).StrMoved r anyValue [] s ∧
      ∃ a c k, (s.putAnchor r).estStr r = { s.estStr r with anchor := a, learned := c, source := k } :=
    ⟨s.putAnchor_moved r, _, _, _, s.estStr_putAnchor r⟩
  cases on : bit (s.get Fd.EST_CTRL_calib) r with
  | false => rwa [State.calibrate_off on]
  | true =>
    cases anchor : (s.estStr r).anchor with
    | none => rwa [State.calibrate_first on anchor]
    | some a =>
      rw [State.calibrate_second on anchor]
      split
      · refine ⟨(State.putAnchor_moved _ r).trans (s.learn_steady r _ 2).any, ?_⟩
        obtain ⟨c, k, str⟩ := State.learn_str (s := s) (r := r) (q := s.restCapacity r a) (source := 2)
        rw [State.learnAnchor_str, str]
        exact ⟨_, _, _, rfl⟩
      · split
        · exact anchored
        · exact same

end

/-! ## A rest point -/

section
variable (s : State) (r : Fin 3)

/-- The rest point is taken, and the string is calibrated where it is one for calibration. -/
def State.rested : State := ((s.restTaken r).calibrate r).estRegs r

theorem State.estStr_restTaken : (s.restTaken r).estStr r = { s.estStr r with
    restNow := false, sCc := (s.estStr r).sStr, d := Frac.zero, divOpen := none, conflictNow := false } := by
  simp [State.restTaken]

theorem State.restTaken_moved : (s.restTaken r).StrMoved r anyValue [] s :=
  (State.reanchor_steady _ r).any.trans (.setEst (.rfl' s) _ (anyValue_eq _ _))

theorem State.restTaken_get (f : Fld) : (s.restTaken r).get f = s.get f := State.get_congr (s := s) rfl f

theorem State.restTaken_qSnap : (s.restTaken r).qSnap r = s.qSnap r := rfl

theorem State.restTaken_restCapacity (a : Anchor) : (s.restTaken r).restCapacity r a = s.restCapacity r a := by
  have value : ((s.restTaken r).estStr r).sStr = (s.estStr r).sStr := by rw [s.estStr_restTaken r]
  have use : (s.restTaken r).qUse r = s.qUse r := s.restTaken_get r (Fd.EST_STR_CAP_cap r)
  unfold State.restCapacity
  rw [value, use, State.restTaken_qSnap]

theorem State.rested_moved : (s.rested r).StrMoved r anyValue [] s :=
  (State.estRegs_steady _ r).any.trans ((State.calibrate_frame _ r).1.trans (s.restTaken_moved r))

theorem State.estStr_rested : (s.rested r).estStr r = ((s.restTaken r).calibrate r).estStr r := State.estStr_estRegs _ r r

/-- A rest point re-anchors the count, whatever the calibration brings. -/
theorem State.rested_reanchored : ((s.rested r).estStr r).restNow = false ∧ ((s.rested r).estStr r).sCc = (s.estStr r).sStr := by
  obtain ⟨a, c, k, str⟩ := (State.calibrate_frame (s.restTaken r) r).2
  rw [s.estStr_rested r, str, s.estStr_restTaken r]
  exact ⟨rfl, rfl⟩

variable {s r}

theorem execRestPoint_off (h : (s.estStr r).restNow = false) : execRestPoint r s = .next s := congrArg Host.Outcome.next (if_pos (by simp [h]))

theorem execRestPoint_on (h : (s.estStr r).restNow = true) : execRestPoint r s = .next (s.rested r) :=
  congrArg Host.Outcome.next (if_neg (by simp [h]))

theorem State.rested_off (h : bit (s.get Fd.EST_CTRL_calib) r = false) :
    ((s.rested r).estStr r).anchor = (s.estStr r).anchor ∧ ((s.rested r).estStr r).learned = (s.estStr r).learned := by
  rw [s.estStr_rested r, State.calibrate_off (s.restTaken_get r _ ▸ h), s.estStr_restTaken r]
  exact ⟨rfl, rfl⟩

/-- The anchor of a string at its present value and count. -/
def State.anchorNow (s : State) (r : Fin 3) : Anchor := ⟨(s.estStr r).sStr, s.qSnap r, (s.estStr r).stamp, false⟩

theorem State.restTaken_anchorNow : (s.restTaken r).anchorNow r = s.anchorNow r := by
  unfold State.anchorNow
  rw [s.estStr_restTaken r, s.restTaken_qSnap]

theorem State.rested_first (on : bit (s.get Fd.EST_CTRL_calib) r = true) (h : (s.estStr r).anchor = none) :
    ((s.rested r).estStr r).anchor = some (s.anchorNow r) ∧ ((s.rested r).estStr r).learned = (s.estStr r).learned := by
  have none' : ((s.restTaken r).estStr r).anchor = none := by rw [s.estStr_restTaken r]; exact h
  rw [s.estStr_rested r, State.calibrate_first (s.restTaken_get r _ ▸ on) none', State.estStr_putAnchor, ← State.restTaken_anchorNow]
  exact ⟨rfl, by rw [s.estStr_restTaken r]⟩

/-- The second of two rest points far enough apart, and the capacity it gives where that is in range. -/
theorem State.rested_second (on : bit (s.get Fd.EST_CTRL_calib) r = true) {a : Anchor} (h : (s.estStr r).anchor = some a)
    (far : (Frac.ofInt 50).le ((s.estStr r).sStr.sub a.soc).abs = true) :
    ((s.rested r).estStr r).anchor = some (s.anchorNow r) ∧ (s.mayLearn r (s.restCapacity r a) = true →
      ((s.rested r).estStr r).learned = (s.restCapacity r a).round.toNat ∧ ((s.rested r).estStr r).source = 2 ∧
      (s.rested r).flag (Fd.EST_STR_FLAG_suspect r) = false ∧ (s.rested r).est.storeDue = true ∧
      (s.rested r).est.learnCount = s.est.learnCount + 1) := by
  have anchor : ((s.restTaken r).estStr r).anchor = some a := by rw [s.estStr_restTaken r]; exact h
  have value : ((s.restTaken r).estStr r).sStr = (s.estStr r).sStr := by rw [s.estStr_restTaken r]
  have calibrated : (s.restTaken r).calibrate r = ((s.restTaken r).learn r (s.restCapacity r a) 2).putAnchor r := by
    rw [State.calibrate_second (s.restTaken_get r _ ▸ on) anchor, value, if_pos far, s.restTaken_restCapacity]
  refine ⟨?_, fun range => ?_⟩
  · rw [s.estStr_rested r, calibrated, State.learnAnchor_str, ← State.restTaken_anchorNow]
    rfl
  · have range' : (s.restTaken r).mayLearn r (s.restCapacity r a) = true := by
      unfold State.mayLearn
      rw [s.restTaken_get]
      exact range
    have est : (s.rested r).est = (((s.restTaken r).learned r (s.restCapacity r a) 2).putAnchor r).est := by
      rw [← State.learn_learned range', ← calibrated]
      exact State.estRegs_est _ r
    have str : (s.rested r).estStr r = (((s.restTaken r).learned r (s.restCapacity r a) 2).putAnchor r).estStr r := State.estStr_congr est r
    rw [str, State.estStr_putAnchor, State.estStr_learned, est]
    refine ⟨rfl, rfl, ?_, rfl, rfl⟩
    have flag : (s.rested r).flag (Fd.EST_STR_FLAG_suspect r) = ((s.restTaken r).calibrate r).flag (Fd.EST_STR_FLAG_suspect r) :=
      State.flag_estRegs _ r (flagReg_shown r).2
    rw [flag, calibrated, State.learn_learned range', State.flag_putAnchor]
    exact State.learned_suspect

end

/-! ## Anchors (R294) -/

theorem execAnchorExpiry_expires {s : State} {r : Fin 3} {a : Anchor} (h : (s.estStr r).anchor = some a)
    (old : a.t + secCycles (3600 * s.get Fd.EST_ANCHOR_AGE_anchor_age) ≤ s.now) :
    execAnchorExpiry r s = .next (s.setEst r { s.estStr r with anchor := some { a with expired := true } }) := by
  unfold execAnchorExpiry
  rw [h]
  exact congrArg Host.Outcome.next (if_pos old)

theorem execAnchorExpiry_none {s : State} {r : Fin 3} (h : (s.estStr r).anchor = none) : execAnchorExpiry r s = .next s := by
  unfold execAnchorExpiry
  rw [h]

/-- Settles O36: each finding is carried out on its own string, and the registers that show it are written last. -/
theorem commitFindingsAreCarriedOut : Obligations.CommitFindingsAreCarriedOut := by
  intro r s
  refine ⟨execEndOfCharge_off, fun found => ⟨_, execEndOfCharge_on found, ?_⟩, execDivergenceConflict_off,
    fun found new => ⟨_, execDivergenceConflict_on found, ?_⟩, execRestPoint_off, fun found => ⟨_, execRestPoint_on found, ?_⟩,
    fun a anchor old => ⟨_, execAnchorExpiry_expires anchor old, ?_, (s.setEst_within r _)⟩, execAnchorExpiry_none⟩
  · obtain ⟨v, str⟩ := s.endCharge_full r
    obtain ⟨eoc, track, full⟩ := (s.chargeHeld r).chargeShown_flags r
    have shown : (s.endCharge r).get (Fd.EST_STR_SOC_soc_rep r) = centi ((s.endCharge r).estStr r).sRep := by
      rw [s.endCharge_stages, State.get_estRegs_socRep, State.estStr_estRegs]
    have told : (s.endCharge r).prf = (s.chargeHeld r).prf := State.estRegs_prf _ r
    rw [str] at shown ⊢
    refine ⟨rfl, rfl, rfl, ?_, ?_, rfl, rfl, rfl, rfl, ?_, shown.trans (by decide : centi (Frac.ofInt 100) = 10000), ?_,
      fun z => s.endCharge_cell r, (s.endCharge_moved r).others,
      (EstK.execEndOfCharge_keeps (EstK.rfl' s) r _ (execEndOfCharge_on found)).within⟩
    · exact (State.flag_estRegs _ r (flagReg_shown r).2).trans eoc
    · exact (State.flag_estRegs _ r (flagReg_shown r).2).trans track
    · exact (State.flag_estRegs _ r (bandReg_not_valueRegs r)).trans full
    · rw [told]
      exact State.socIn_report _ r _
  · obtain ⟨conflict, suspect, counted, pending, parts⟩ := State.diverged_ends new
    have due : (s.diverged r).est = (s.conflictHeld r).est := (State.record_est _ _ _ _ _).trans (s.conflictShown_est r)
    rw [s.diverged_str r, due]
    exact ⟨conflict, suspect, rfl, rfl, rfl, rfl, rfl, counted, pending, parts⟩
  · obtain ⟨rested, anchored⟩ := s.rested_reanchored r
    refine ⟨rested, anchored, State.rested_off, State.rested_first, fun a on anchor far => ?_, (s.rested_moved r).others,
      (EstF.execRestPoint_keeps (EstF.rfl' s) r _ (execRestPoint_on found)).within⟩
    obtain ⟨second, learns⟩ := State.rested_second on anchor far
    exact ⟨second, fun low high => learns (Bool.and_eq_true_iff.2 ⟨low, high⟩)⟩
  · rw [State.estStr_setEst_same]

end Sys2Proof.Machine
end

section
/-! Chapter 10: the commit of a string, rule by rule (R273, R284, R285, R288). -/

namespace Sys2Proof.Machine

/-! ## What the rules leave -/

section
variable {r : Fin 3} {s t u : State}

theorem State.StrMoved.sStr (h : t.StrSteady r s) : (t.estStr r).sStr = (s.estStr r).sStr := congrArg (·.1.2.1) h.own

theorem State.StrMoved.sRep (h : t.StrSteady r s) : (t.estStr r).sRep = (s.estStr r).sRep := congrArg (·.1.2.2) h.own

theorem State.StrMoved.told (h : t.StrSteady r s) : vget t.prf.socIn r = vget s.prf.socIn r := congrArg (·.2) h.own

/-- The sweeps without a commit. -/
def State.strMissed (r : Fin 3) (s : State) : Nat := (s.estStr r).missedCommits

/-- `t` is `s` after a rule of the commit: the count of sweeps without one stands, and whether the string discharges. -/
abbrev State.StrRuled (r : Fin 3) (t s : State) : Prop := t.StrMoved r (State.strMissed r) [Fd.EST_STR_FLAG_discharging r] s

theorem State.StrMoved.ruled (h : t.StrSteady r s) : t.StrRuled r s := h.weaken (fun v => v.1.1) (by simp [strFlags])

theorem State.strMissed_setEst {x : EstStr} (h : x.missedCommits = (s.estStr r).missedCommits) : State.strMissed r (s.setEst r x) = State.strMissed r s :=
  (congrArg EstStr.missedCommits (s.estStr_setEst_same r x)).trans h

theorem State.report_ruled (s : State) (r : Fin 3) (v : Frac) : (s.report r v).StrRuled r s :=
  .report (.rfl' s) v (by unfold State.strMissed; rw [State.estStr_report])

theorem commitFields_ofStr (r : Fin 3) : (Fd.EST_STR_FLAG_discharging r).ofStr r [] = true ∧
    (Fd.EST_STR_FLAG_init r).ofStr r [Fd.EST_STR_FLAG_discharging r] = true ∧
    (Fd.EST_STR_FLAG_cutoff r).ofStr r [Fd.EST_STR_FLAG_discharging r] = true ∧
    (Fd.PRF_STR_BAND_full_discharge r).ofStr r [Fd.EST_STR_FLAG_discharging r] = true ∧
    (Fd.PRF_STR_BAND_full_discharge r).clear (Fd.EST_STR_FLAG_cutoff r) = true := by decide +revert

/-- The cells are the chain's, and no rule of a string moves what says which of them is at its cutoff. -/
theorem State.cutoffCell_congr {P : Nat → Prop} (h : t.regsOff P s) (apart : ∀ a, aboutNoStr a → ¬P a) : t.cutoffCell r = s.cutoffCell r := by
  have cell {c : Nat} (range : c < 224) (f : Fld) (hf : f.addr = Reg.CHN_CELL r c) : t.get f = s.get f :=
    h.get (apart _ (hf ▸ aboutNoStr_cell range))
  have valid : t.validCells r = s.validCells r := List.filter_congr fun c hc =>
    congrArg (!·) (congrArg (· == 1) (cell (List.mem_range.1 hc) (Fd.CHN_CELL_stale r c) rfl))
  have limit : t.get Fd.EST_LIMITS_v_cutoff = s.get Fd.EST_LIMITS_v_cutoff := h.get (apart _ (by decide))
  unfold State.cutoffCell
  rw [valid, limit]
  refine List.find?_congr fun c hc => ?_
  have range : c < 224 := List.mem_range.1 (List.mem_filter.1 hc).1
  have volt : t.volt r c = s.volt r c := cell range (Fd.CHN_CELL_volt r c) rfl
  have subst : t.subst r c = s.subst r c := congrArg (· == 1) (cell range (Fd.CHN_CELL_subst r c) rfl)
  rw [volt, subst]

theorem State.cutoffCell_lt {c : Nat} (h : s.cutoffCell r = some c) : c < 224 :=
  List.mem_range.1 (List.mem_filter.1 (List.mem_of_find?_eq_some h)).1

end

/-! ## The start of a commit -/

section
variable (s : State) (r : Fin 3)

/-- The string value is formed, what the last commit found is over, and the direction of the charge is shown. -/
def State.valueFormed : State :=
  (s.setEst r { s.estStr r with sStr := s.stringValue r, missedCommits := 0, eocNow := false, restNow := false, conflictNow := false }).setFlag
    (Fd.EST_STR_FLAG_discharging r) (decide (0 < s.qSnap r - (s.estStr r).qPrev))

/-- The capacity in use is taken (R289, R291). -/
def State.commitOpened : State := ((s.valueFormed r).takeCapacity r).1

theorem State.estStr_valueFormed : (s.valueFormed r).estStr r =
    { s.estStr r with sStr := s.stringValue r, missedCommits := 0, eocNow := false, restNow := false, conflictNow := false } :=
  (State.estStr_setFlag _ _ _ r).trans (s.estStr_setEst_same r _)

theorem State.valueFormed_moved : (s.valueFormed r).StrMoved r anyValue [] s :=
  .setFlag (.setEst (.rfl' s) _ (anyValue_eq _ _)) (commitFields_ofStr r).1 _ (anyValue_eq _ _)

theorem State.valueFormed_discharging :
    (s.valueFormed r).flag (Fd.EST_STR_FLAG_discharging r) = decide ((s.estStr r).qPrev < s.qSnap r) := by
  refine (State.flag_setFlag_same _ (Fd.EST_STR_FLAG_discharging r) _ (by decide : 2 + 1 ≤ 32) rfl).trans (decide_eq_decide.2 ?_)
  omega

theorem State.commitOpened_steady : (s.commitOpened r).StrSteady r (s.valueFormed r) := State.takeCapacity_steady _ r

/-- The first value is due no longer. -/
def State.initTaken : State := s.setEst r { s.estStr r with initDue := false }

/-- The first value of a string whose readings are all valid (R283). -/
def State.firstFormed : State :=
  ((((s.initTaken r).reanchor r).report r ((s.initTaken r).stringValue r)).setFlag (Fd.EST_STR_FLAG_init r) true).estRegs r

theorem State.firstFormed_ruled : (s.firstFormed r).StrRuled r s := by
  have taken : (s.initTaken r).StrRuled r s := .setEst (.rfl' s) _ (State.strMissed_setEst rfl)
  have reported : (((s.initTaken r).reanchor r).report r ((s.initTaken r).stringValue r)).StrRuled r s :=
    (State.report_ruled _ r _).trans ((State.reanchor_steady _ r).ruled.trans taken)
  exact (State.estRegs_steady _ r).ruled.trans (.setFlag reported (commitFields_ofStr r).2.1 true rfl)

/-- The rules that follow I_cv, the windows, the tracked charge and the count (R286, R287, R289, R290, R293). -/
def State.countRules (changed : Bool) : State :=
  let t := (((s.cvStep r).taperStep r).trackStep r).countStep r
  if changed then t.reanchor r else t

theorem State.countRules_steady (changed : Bool) : (s.countRules r changed).StrSteady r s := by
  unfold State.countRules
  extract_lets t
  have counted : t.StrSteady r s :=
    (State.countStep_steady _ r).trans ((State.trackStep_steady _ r).trans ((State.taperStep_steady _ r).trans (s.cvStep_steady r)))
  exact .ite (fun _ => (t.reanchor_steady r).trans counted) fun _ => counted

/-- The state from which the reported value is formed. -/
def State.commitCounted : State := (s.commitOpened r).countRules r ((s.valueFormed r).takeCapacity r).2

/-- The reported value outside end of charge and cutoff. -/
def State.commitReported : State := (s.commitCounted r).report r ((s.commitCounted r).reported r (s.estStr r).d)

theorem State.commitCounted_steady : (s.commitCounted r).StrSteady r (s.valueFormed r) :=
  (State.countRules_steady _ r _).trans (s.commitOpened_steady r)

theorem State.commitReported_ruled : (s.commitReported r).StrRuled r (s.valueFormed r) :=
  (State.report_ruled _ r _).trans (s.commitCounted_steady r).ruled

end

/-! ## Cutoff (R288) -/

section
variable (s : State) (r : Fin 3) (c : Nat)

/-- The cell is empty, and the reported value is 0. -/
def State.cutReported : State := (((s.setZ r c Frac.zero).setFlag (Fd.EST_STR_FLAG_cutoff r) true).reanchor r).report r Frac.zero

/-- A full discharge that was tracked gives a capacity (R293). -/
def State.cutLearned : State :=
  if s.flag (Fd.EST_STR_FLAG_track_full r) then (s.learn r (qMah ((s.estStr r).qDis - (s.estStr r).qChg)) 1).dropTrack r else s

theorem State.cutoff_stages : s.cutoff r c = ((s.cutReported r c).cutLearned r).setFlag (Fd.PRF_STR_BAND_full_discharge r) false := rfl

theorem State.cutLearned_steady : (s.cutLearned r).StrSteady r s :=
  .ite (fun _ => (State.dropTrack_steady _ r).trans (s.learn_steady r _ 1)) fun _ => .rfl' s

variable {c} in
theorem State.cutReported_ruled (range : c < 224) : (s.cutReported r c).StrRuled r s := by
  have empty : (s.setZ r c Frac.zero).StrRuled r s := .setZ (.rfl' s) range _ (by unfold State.strMissed; rw [State.estStr_setZ])
  have flagged : ((s.setZ r c Frac.zero).setFlag (Fd.EST_STR_FLAG_cutoff r) true).StrRuled r s :=
    .setFlag empty (commitFields_ofStr r).2.2.1 true rfl
  exact (State.report_ruled _ r _).trans ((State.reanchor_steady _ r).ruled.trans flagged)

variable {c} in
theorem State.cutoff_ruled (range : c < 224) : (s.cutoff r c).StrRuled r s :=
  .setFlag ((State.cutLearned_steady _ r).ruled.trans (s.cutReported_ruled r range)) (commitFields_ofStr r).2.2.2.1 false rfl

/-- What a cutoff shows and reports. -/
theorem State.cutoff_shows : ((s.cutoff r c).estStr r).sRep = Frac.zero ∧ vget (s.cutoff r c).prf.socIn r = some Frac.zero ∧
    (s.cutoff r c).flag (Fd.EST_STR_FLAG_cutoff r) = true ∧ (s.cutoff r c).flag (Fd.PRF_STR_BAND_full_discharge r) = false := by
  have learned : ((s.cutReported r c).cutLearned r).StrSteady r (s.cutReported r c) := State.cutLearned_steady _ r
  have flagged : (s.cutReported r c).flag (Fd.EST_STR_FLAG_cutoff r) = true :=
    (State.flag_congr (s := (s.setZ r c Frac.zero).setFlag (Fd.EST_STR_FLAG_cutoff r) true) rfl _).trans
      (State.flag_setFlag_same _ (Fd.EST_STR_FLAG_cutoff r) true (by decide : 8 + 1 ≤ 32) rfl)
  rw [s.cutoff_stages r c]
  refine ⟨learned.sRep.trans (congrArg EstStr.sRep (State.estStr_report _ r _)), learned.told.trans (State.socIn_report _ r _), ?_,
    State.flag_setFlag_same _ (Fd.PRF_STR_BAND_full_discharge r) false (by decide : 1 + 1 ≤ 32) rfl⟩
  have kept : ((s.cutReported r c).cutLearned r).flag (Fd.EST_STR_FLAG_cutoff r) = true :=
    (learned.kept.flag (by simp [strFlags])).trans flagged
  exact (congrArg (· == 1) (State.get_setFlag_clear _ false (commitFields_ofStr r).2.2.2.2)).trans kept

/-- The rule of cutoff. -/
def State.cutChecked : State := match s.cutoffCell r with
  | some c => s.cutoff r c
  | none => s

variable {c} in
theorem State.cutChecked_some (h : s.cutoffCell r = some c) : s.cutChecked r = s.cutoff r c := by
  unfold State.cutChecked
  rw [h]

theorem State.cutChecked_none (h : s.cutoffCell r = none) : s.cutChecked r = s := by
  unfold State.cutChecked
  rw [h]

theorem State.cutChecked_ruled : (s.cutChecked r).StrRuled r s := by
  cases h : s.cutoffCell r with
  | none =>
    rw [s.cutChecked_none r h]
    exact .rfl' s
  | some c =>
    rw [s.cutChecked_some r h]
    exact s.cutoff_ruled r (State.cutoffCell_lt h)

end

/-! ## The commit of one string -/

section
variable {s : State} {r : Fin 3}

theorem State.commitString_idle (h : s.strDecl r = false ∨ s.flag (Fd.EST_MODEL_CTRL_valid r) = false) : s.commitString r = s :=
  if_pos (by rcases h with h | h <;> simp [h])

/-- The last rules of a commit: the rest window, and the registers. -/
def State.commitShown (s : State) (r : Fin 3) : State := (s.restStep r).estRegs r

theorem State.commitShown_steady (s : State) (r : Fin 3) : (s.commitShown r).StrSteady r s :=
  (State.estRegs_steady _ r).trans (s.restStep_steady r)

theorem State.commitString_runs (decl : s.strDecl r = true) (valid : s.flag (Fd.EST_MODEL_CTRL_valid r) = true) (ready : (s.estStr r).initDue = false) :
    s.commitString r = ((s.commitReported r).cutChecked r).commitShown r := by
  unfold State.commitString
  rw [if_neg (by simp [decl, valid])]
  exact if_neg (by simp [ready])

theorem State.commitString_first (decl : s.strDecl r = true) (valid : s.flag (Fd.EST_MODEL_CTRL_valid r) = true) (due : (s.estStr r).initDue = true) :
    s.commitString r = if ((s.commitOpened r).validCells r).length = 224 then (s.commitOpened r).firstFormed r else s.commitOpened r := by
  unfold State.commitString
  rw [if_neg (by simp [decl, valid])]
  exact if_pos due

theorem State.commitString_ruled (decl : s.strDecl r = true) (valid : s.flag (Fd.EST_MODEL_CTRL_valid r) = true) :
    (s.commitString r).StrRuled r (s.valueFormed r) := by
  cases due : (s.estStr r).initDue with
  | true =>
    rw [State.commitString_first decl valid due]
    have opened := (s.commitOpened_steady r).ruled
    exact .ite (fun _ => (State.firstFormed_ruled _ r).trans opened) fun _ => opened
  | false =>
    rw [State.commitString_runs decl valid due]
    exact (State.commitShown_steady _ r).ruled.trans ((State.cutChecked_ruled _ r).trans (s.commitReported_ruled r))

theorem State.commitString_moved (s : State) (r : Fin 3) : (s.commitString r).StrMoved r anyValue [] s := by
  by_cases runs : s.strDecl r = true ∧ s.flag (Fd.EST_MODEL_CTRL_valid r) = true
  · exact (State.commitString_ruled runs.1 runs.2).any.trans (s.valueFormed_moved r)
  · rw [State.commitString_idle (by simpa only [not_and_or, Bool.not_eq_true] using runs)]
    exact .rfl' s

/-- The cutoff of a string is judged by the readings that the commit found. -/
theorem State.commitReported_cutoffCell (s : State) (r : Fin 3) : (s.commitReported r).cutoffCell r = s.cutoffCell r :=
  State.cutoffCell_congr ((s.commitReported_ruled r).off.trans (s.valueFormed_moved r).off) fun _ => aboutNoStr.not_estOps

/-- What is reported of a string is shown, and told to the profile generator (R106, R285). -/
def State.reports (t : State) (r : Fin 3) (v : Frac) : Prop :=
  (t.estStr r).sRep = v ∧ t.get (Fd.EST_STR_SOC_soc_rep r) = centi v ∧ vget t.prf.socIn r = some v

theorem State.commitShown_reports {v : Frac} (rep : (s.estStr r).sRep = v) (told : vget s.prf.socIn r = some v) : (s.commitShown r).reports r v := by
  have steady := s.commitShown_steady r
  have sRep : ((s.commitShown r).estStr r).sRep = v := steady.sRep.trans rep
  refine ⟨sRep, ?_, steady.told.trans told⟩
  unfold State.commitShown at sRep ⊢
  rw [State.estStr_estRegs] at sRep
  rw [State.get_estRegs_socRep, sRep]

variable (decl : s.strDecl r = true) (valid : s.flag (Fd.EST_MODEL_CTRL_valid r) = true) (ready : (s.estStr r).initDue = false)

include decl valid ready

/-- A cell at its cutoff makes the reported value 0. -/
theorem State.commitString_cut {c : Nat} (h : s.cutoffCell r = some c) : (s.commitString r).reports r Frac.zero ∧
    (s.commitString r).flag (Fd.EST_STR_FLAG_cutoff r) = true ∧ (s.commitString r).flag (Fd.PRF_STR_BAND_full_discharge r) = false := by
  rw [State.commitString_runs decl valid ready, State.cutChecked_some _ r ((s.commitReported_cutoffCell r).trans h)]
  obtain ⟨rep, told, cut, full⟩ := (s.commitReported r).cutoff_shows r c
  have kept := (State.commitShown_steady ((s.commitReported r).cutoff r c) r).kept
  exact ⟨State.commitShown_reports rep told, (kept.flag (by simp [strFlags])).trans cut, (kept.flag (by simp [strFlags])).trans full⟩

/-- Without one the string value stands, and the reported value is formed from it. -/
theorem State.commitString_uncut (h : s.cutoffCell r = none) : ((s.commitString r).estStr r).sStr = s.stringValue r ∧
    (s.commitString r).reports r ((s.commitCounted r).reported r (s.estStr r).d) := by
  rw [State.commitString_runs decl valid ready, State.cutChecked_none _ r ((s.commitReported_cutoffCell r).trans h)]
  refine ⟨?_, State.commitShown_reports (congrArg EstStr.sRep (State.estStr_report _ r _)) (State.socIn_report _ r _)⟩
  have value : ((s.commitReported r).estStr r).sStr = ((s.commitCounted r).estStr r).sStr := by
    unfold State.commitReported
    rw [State.estStr_report]
  rw [(State.commitShown_steady _ r).sStr, value, (s.commitCounted_steady r).sStr, s.estStr_valueFormed r]

end

/-! ## The reported value (R285) -/

section
variable {s : State} {r : Fin 3}

theorem State.commitCounted_discharging (s : State) (r : Fin 3) :
    (s.commitCounted r).flag (Fd.EST_STR_FLAG_discharging r) = decide ((s.estStr r).qPrev < s.qSnap r) :=
  ((s.commitCounted_steady r).kept.flag (by simp [strFlags])).trans (s.valueFormed_discharging r)

theorem State.commitCounted_sRep (s : State) (r : Fin 3) : ((s.commitCounted r).estStr r).sRep = (s.estStr r).sRep := by
  rw [(s.commitCounted_steady r).sRep, s.estStr_valueFormed r]

theorem State.commitCounted_sStr (s : State) (r : Fin 3) : ((s.commitCounted r).estStr r).sStr = s.stringValue r := by
  rw [(s.commitCounted_steady r).sStr, s.estStr_valueFormed r]

/-- While the string discharges the reported value does not rise. -/
theorem State.reported_discharging (h : (s.estStr r).qPrev < s.qSnap r) :
    (s.commitCounted r).reported r (s.estStr r).d = Frac.min (s.estStr r).sRep (s.stringValue r) := by
  unfold State.reported
  rw [if_pos (by rw [s.commitCounted_discharging r]; exact decide_eq_true h), s.commitCounted_sRep r, s.commitCounted_sStr r]

/-- A divergence above the hold threshold keeps the value. -/
theorem State.reported_held (charges : s.qSnap r ≤ (s.estStr r).qPrev) (h : (Frac.ofInt (s.get Fd.EST_CONFLICT_hold_thr)).lt (s.estStr r).d = true) :
    (s.commitCounted r).reported r (s.estStr r).d = (s.estStr r).sRep := by
  have off : (s.commitCounted r).regsOff (estOps r) s := (s.commitCounted_steady r).off.trans (s.valueFormed_moved r).off
  have thr : (s.commitCounted r).get Fd.EST_CONFLICT_hold_thr = s.get Fd.EST_CONFLICT_hold_thr :=
    off.get (aboutNoStr.not_estOps (by decide))
  rw [Frac.lt_eq_not_le, Bool.not_eq_true'] at h
  unfold State.reported
  rw [if_neg (by rw [s.commitCounted_discharging r]; simpa using charges), if_neg (by rw [thr, h]; decide), s.commitCounted_sRep r]

end

end Sys2Proof.Machine
end

section
/-! Chapter 10: the commit of a record, string by string (R273, R275, R284, R285, R288). -/

namespace Sys2Proof.Machine

/-! ## What the commits of the other strings leave -/

/-- String `r` stands in `t` as in `s`, and every register outside what the operations on the other strings write. -/
structure State.SameStr (r : Fin 3) (t s : State) : Prop where
  regs : t.regsOff (otherStr r) s
  str : t.estStr r = s.estStr r
  zRange : t.zRange r = s.zRange r
  told : vget t.prf.socIn r = vget s.prf.socIn r

theorem modelField_aboutNoStr (r : Fin 3) : aboutNoStr (Reg.EST_MODEL_CTRL r) := by decide +revert

section
variable {r q : Fin 3} {s t u : State}

theorem State.SameStr.rfl' (s : State) : s.SameStr r s := ⟨.rfl' s, rfl, rfl, rfl⟩

theorem State.SameStr.trans (h : t.SameStr r u) (h' : u.SameStr r s) : t.SameStr r s :=
  ⟨h.regs.trans h'.regs, h.str.trans h'.str, h.zRange.trans h'.zRange, h.told.trans h'.told⟩

theorem State.StrMoved.sameStr (h : t.StrMoved q anyValue [] s) (other : q ≠ r) : t.SameStr r s :=
  ⟨h.off.mono fun _ ops => ⟨q, other, ops⟩, h.others r other.symm, h.zRange r other.symm, h.socIn r other.symm⟩

theorem State.SameStr.strDecl (h : t.SameStr r s) : t.strDecl r = s.strDecl r :=
  congrArg (bit · r) (h.regs.get (aboutNoStr.not_otherStr (by decide)))

theorem State.SameStr.modelValid (h : t.SameStr r s) : t.flag (Fd.EST_MODEL_CTRL_valid r) = s.flag (Fd.EST_MODEL_CTRL_valid r) :=
  h.regs.flag (modelField_aboutNoStr r).not_otherStr

theorem State.SameStr.qSnap (h : t.SameStr r s) : t.qSnap r = s.qSnap r :=
  State.qSnap_congr h.regs (qSnapRegs_shown r).1.not_otherStr (qSnapRegs_shown r).2.not_otherStr

theorem State.SameStr.cutoffCell (h : t.SameStr r s) : t.cutoffCell r = s.cutoffCell r :=
  State.cutoffCell_congr h.regs fun _ => aboutNoStr.not_otherStr

theorem State.SameStr.holdThr (h : t.SameStr r s) : t.get Fd.EST_CONFLICT_hold_thr = s.get Fd.EST_CONFLICT_hold_thr :=
  h.regs.get (aboutNoStr.not_otherStr (by decide))

theorem State.SameStr.stringValue (h : t.SameStr r s) : t.stringValue r = s.stringValue r := by
  unfold State.stringValue
  rw [h.zRange]

theorem State.SameStr.get (h : t.SameStr r s) {f : Fld} (shown : estShown r f.addr) : t.get f = s.get f := h.regs.get shown.not_otherStr

theorem State.SameStr.flag (h : t.SameStr r s) {f : Fld} (shown : estShown r f.addr) : t.flag f = s.flag f := h.regs.flag shown.not_otherStr

end

/-! ## The commit of a string among the others -/

/-- `t` shows of string `r` what its commit in `s` forms. -/
structure State.StrCommitted (r : Fin 3) (t s : State) : Prop where
  missed : (t.estStr r).missedCommits = 0
  discharging : t.flag (Fd.EST_STR_FLAG_discharging r) = decide ((s.estStr r).qPrev < s.qSnap r)
  shown : (s.estStr r).initDue = false → t.reports r (t.estStr r).sRep
  cut : ∀ c, (s.estStr r).initDue = false → s.cutoffCell r = some c →
    (t.estStr r).sRep = Frac.zero ∧ t.flag (Fd.EST_STR_FLAG_cutoff r) = true ∧ t.flag (Fd.PRF_STR_BAND_full_discharge r) = false
  value : (s.estStr r).initDue = false → s.cutoffCell r = none → (t.estStr r).sStr = s.stringValue r
  lowered : (s.estStr r).initDue = false → s.cutoffCell r = none → (s.estStr r).qPrev < s.qSnap r →
    (t.estStr r).sRep = Frac.min (s.estStr r).sRep (s.stringValue r)
  held : (s.estStr r).initDue = false → s.cutoffCell r = none → s.qSnap r ≤ (s.estStr r).qPrev →
    (Frac.ofInt (s.get Fd.EST_CONFLICT_hold_thr)).lt (s.estStr r).d = true → (t.estStr r).sRep = (s.estStr r).sRep

theorem State.reports.self {t : State} {r : Fin 3} {v : Frac} (h : t.reports r v) : t.reports r (t.estStr r).sRep := h.1.symm ▸ h

theorem committedRegs_shown (r : Fin 3) : estShown r (Reg.EST_STR_FLAG r) ∧ estShown r (Reg.EST_STR_SOC r) := by decide +revert

section
variable {r : Fin 3} {s t u v : State}

theorem State.commitString_committed (decl : s.strDecl r = true) (valid : s.flag (Fd.EST_MODEL_CTRL_valid r) = true) :
    (s.commitString r).StrCommitted r s where
  missed := by
    have formed : State.strMissed r (s.valueFormed r) = 0 := congrArg EstStr.missedCommits (s.estStr_valueFormed r)
    exact (State.commitString_ruled decl valid).own.trans formed
  discharging := ((State.commitString_ruled decl valid).kept.flag List.mem_cons_self).trans (s.valueFormed_discharging r)
  shown ready := by
    cases h : s.cutoffCell r with
    | some c => exact (State.commitString_cut decl valid ready h).1.self
    | none => exact (State.commitString_uncut decl valid ready h).2.self
  cut c ready h :=
    have ⟨reported, flags⟩ := State.commitString_cut decl valid ready h
    ⟨reported.1, flags⟩
  value ready h := (State.commitString_uncut decl valid ready h).1
  lowered ready h down := (State.commitString_uncut decl valid ready h).2.1.trans (State.reported_discharging down)
  held ready h charges above := (State.commitString_uncut decl valid ready h).2.1.trans (State.reported_held charges above)

/-- What is reported of a string stands while the others have their turns. -/
theorem State.reports.of_same {x : Frac} (h : t.reports r x) (after : v.SameStr r t) : v.reports r x := by
  obtain ⟨rep, shown, told⟩ := h
  exact ⟨by rw [after.str, rep], (after.get (committedRegs_shown r).2).trans shown, after.told.trans told⟩

/-- The turns of the other strings, before and after its own, leave what the commit of a string forms. -/
theorem State.StrCommitted.of_same (h : t.StrCommitted r u) (after : v.SameStr r t) (before : u.SameStr r s) : v.StrCommitted r s := by
  obtain ⟨missed, discharging, shown, cut, value, lowered, held⟩ := h
  rw [before.str, before.qSnap] at discharging lowered held
  rw [before.str] at shown cut value
  rw [before.cutoffCell] at cut value lowered held
  rw [before.stringValue] at value lowered
  rw [before.holdThr] at held
  have flagged := (committedRegs_shown r).1
  constructor
  case discharging => exact (after.flag flagged).trans discharging
  case shown =>
    rw [after.str]
    exact fun ready => (shown ready).of_same after
  case cut =>
    rw [after.str, after.flag (f := Fd.EST_STR_FLAG_cutoff r) flagged, after.flag (f := Fd.PRF_STR_BAND_full_discharge r) (.inr rfl)]
    exact cut
  all_goals
    rw [after.str]
    assumption

end

/-! ## The strings in turn -/

section
variable (s : State)

/-- Every declared string whose model is valid commits. -/
def State.committed : State := (List.finRange 3).foldl State.commitString s

/-- String by string: string `r` stands as before until its turn, and as its turn leaves it after. -/
theorem State.committed_turn (r : Fin 3) : ∃ u : State, u.SameStr r s ∧ s.committed.SameStr r (u.commitString r) :=
  State.foldl_turn State.SameStr.rfl' State.SameStr.trans (List.nodup_finRange 3) (List.mem_finRange r)
    (fun u q _ other => (u.commitString_moved q).sameStr other) s

/-- The strings' commits leave the record, and the parts that no rule of a string writes. -/
theorem State.committed_keeps : s.committed.est.record = s.est.record ∧ s.committed.within s [.regs, .hmp, .prf, .est] :=
  List.foldlRecOn (motive := fun t => t.est.record = s.est.record ∧ t.within s [.regs, .hmp, .prf, .est]) (List.finRange 3) State.commitString
    ⟨rfl, .rfl' s⟩ fun t ht q _ =>
      have moved := t.commitString_moved q
      ⟨moved.record.trans ht.1, moved.parts.trans ht.2⟩

variable {s} {r : Fin 3}

theorem State.committed_idle (h : s.strDecl r = false ∨ s.flag (Fd.EST_MODEL_CTRL_valid r) = false) : s.committed.estStr r = s.estStr r := by
  obtain ⟨u, before, after⟩ := s.committed_turn r
  rw [← before.strDecl, ← before.modelValid] at h
  rw [after.str, State.commitString_idle h, before.str]

theorem State.committed_string (decl : s.strDecl r = true) (valid : s.flag (Fd.EST_MODEL_CTRL_valid r) = true) : s.committed.StrCommitted r s := by
  obtain ⟨u, before, after⟩ := s.committed_turn r
  exact (State.commitString_committed (before.strDecl.trans decl) (before.modelValid.trans valid)).of_same after before

end

/-! ## ESTIMATE_RECORD -/

section
variable {s : State} {bs : List ArrBlock}

theorem execEstimateRecord_none (h : s.arr.estOut = none) : exec .estimateRecord s = .next s := by
  show execEstimateRecord s = _
  unfold execEstimateRecord
  rw [h]

theorem execEstimateRecord_standby (h : s.arr.estOut = some bs) (standby : s.isStandby = true) : exec .estimateRecord s = .next s.estTaken := by
  show execEstimateRecord s = _
  unfold execEstimateRecord
  rw [h]
  exact congrArg Host.Outcome.next (if_pos standby)

theorem execEstimateRecord_commits (h : s.arr.estOut = some bs) (claimant : s.isStandby = false) :
    exec .estimateRecord s = .next (s.estTaken.takeEstimate bs).committed := by
  show execEstimateRecord s = _
  unfold execEstimateRecord
  rw [h]
  exact congrArg Host.Outcome.next (if_neg (by simp [claimant]))

end

section
variable (s : State) (bs : List ArrBlock)

/-- The state that a commit's rules start from. -/
def State.recordTaken : State := s.estTaken.takeEstimate bs

theorem State.recordTaken_cutoffCell (r : Fin 3) : (s.recordTaken bs).cutoffCell r = s.cutoffCell r :=
  State.cutoffCell_congr (P := fun _ => False) (.of_regs (.rfl' s) rfl) fun _ _ => id

theorem State.recordTaken_qSnap (r : Fin 3) : (s.recordTaken bs).qSnap r = s.qSnap r :=
  State.qSnap_congr (P := fun _ => False) (.of_regs (.rfl' s) rfl) id id

theorem State.recordTaken_within : (s.recordTaken bs).within s [.est, .arr] :=
  State.within.trans ((State.within_est _ _).mono (by decide) : (s.estTaken.takeEstimate bs).within s.estTaken [.est, .arr])
    ((State.within_arr s _).mono (by decide))

end

/-- Settles O35: string by string, the turns of the other strings leaving what its commit forms. -/
theorem estimateCommitFormsReportedValues : Obligations.EstimateCommitFormsReportedValues := by
  intro s
  refine ⟨execEstimateRecord_none, fun bs h standby => execEstimateRecord_standby h standby, fun bs h claimant => ?_⟩
  obtain ⟨record, parts⟩ := (s.recordTaken bs).committed_keeps
  refine ⟨_, execEstimateRecord_commits h claimant, parts .arr (by decide), record, ?_, fun r idle => ?_, fun r decl valid => ?_⟩
  · exact (parts.mono (by decide)).trans ((s.recordTaken_within bs).mono (by decide))
  · exact State.committed_idle (s := s.recordTaken bs) idle
  · obtain ⟨missed, discharging, shown, cut, value, lowered, held⟩ := State.committed_string (s := s.recordTaken bs) decl valid
    rw [s.recordTaken_cutoffCell bs r] at cut value lowered held
    rw [s.recordTaken_qSnap bs r] at discharging lowered held
    exact ⟨missed, discharging, fun ready => (shown ready).2, cut,
      fun ready none => ⟨value ready none, lowered ready none, held ready none⟩⟩

end Sys2Proof.Machine
end
